-- ==== Sys2Proof/Types.lean ====
section
/-! DEFINITION. The named things of the manual: format codes, overflow modes, tiles, and what a bundle declares. -/

namespace Sys2Proof

/-- The formats of Table NUM-1 (R26). -/
inductive Fmt where
  | fp32 | bf16 | fp16 | e4m3 | e5m2 | e3m2 | e2m3 | e2m1 | int8 | int4 | uint8 | uint10 | uint12
  | mxE4m3 | mxE5m2 | mxE3m2 | mxE2m3 | mxE2m1 | mxInt8
  deriving DecidableEq, Repr

/-- The format codes (R26). -/
def Fmt.code : Fmt → Nat
  | .fp32 => 0x00 | .bf16 => 0x01 | .fp16 => 0x02 | .e4m3 => 0x08 | .e5m2 => 0x09 | .e3m2 => 0x0C | .e2m3 => 0x0D
  | .e2m1 => 0x10 | .int8 => 0x18 | .int4 => 0x19 | .uint8 => 0x1A | .uint10 => 0x1B | .uint12 => 0x1C
  | .mxE4m3 => 0x28 | .mxE5m2 => 0x29 | .mxE3m2 => 0x2C | .mxE2m3 => 0x2D | .mxE2m1 => 0x30 | .mxInt8 => 0x38

def Fmt.all : List Fmt := [.fp32, .bf16, .fp16, .e4m3, .e5m2, .e3m2, .e2m3, .e2m1, .int8, .int4, .uint8, .uint10,
  .uint12, .mxE4m3, .mxE5m2, .mxE3m2, .mxE2m3, .mxE2m1, .mxInt8]

/-- The format of a code; a code absent from Table NUM-1 has none (R26). -/
def Fmt.ofCode (c : Nat) : Option Fmt := Fmt.all.find? fun f => f.code == c

/-- Block-scaled formats have bit 5 of the code set (R27). -/
def Fmt.isMx (f : Fmt) : Bool := (f.code / 32) % 2 == 1

/-- The element format of a block-scaled format (R27). -/
def Fmt.elem : Fmt → Fmt
  | .mxE4m3 => .e4m3 | .mxE5m2 => .e5m2 | .mxE3m2 => .e3m2 | .mxE2m3 => .e2m3 | .mxE2m1 => .e2m1 | .mxInt8 => .int8
  | f => f

/-- Bits that one element takes in storage (R26, R31). -/
def Fmt.bits (f : Fmt) : Nat :=
  match f.elem with
  | .fp32 => 32 | .bf16 | .fp16 | .uint10 | .uint12 => 16 | .e4m3 | .e5m2 | .int8 | .uint8 => 8 | .e3m2 | .e2m3 => 6
  | _ => 4

/-- Overflow modes of conversions (R46). -/
inductive Ovf where
  | sat | ieee
  deriving DecidableEq, Repr

/-! ### The host and the board -/

/-- An access of the register space: its address and how many bytes it takes (R395). -/
structure RegAccess where
  addr : Nat
  size : Nat := 4
  deriving DecidableEq, Repr

/-- What the board does with the TAP: whether it enters EXTEST or leaves it, and the level of TRST_N beside it (R476, R477). -/
structure TapCmd where
  enter : Bool
  trstN : Bool := true
  deriving DecidableEq, Repr

/-- What the host writes into the configuration space once the link has trained (R393 to R395): how many virtual functions it
enables, the sizes of BAR2 of the PF and of the VFs as powers of two, the largest payload and read request in bytes, and the
functions that it puts into D3hot. The default changes no size and leaves every function in D0. -/
structure HostCfg where
  vfs : Nat := 0
  bar2 : Nat := 0
  vfBar2 : Nat := 0
  maxPayload : Nat := 0
  maxReadReq : Nat := 0
  d3hot : List Nat := []
  deriving DecidableEq, Repr

/-! ### Tiles (03_tiles_and_tags.md) -/

/-- A tile: its 128-bit tag (R51) and its payload, one number per element in row-major order with the full row length
of its shape (R59); entries missing at the end are 0. A scale block carries scales, a checksum tile c32 and c31 words,
a Winnow tile the bytes of R229. `holes` lists the masked places of a gathered value tile that no extent expresses
(R176, R230; DESIGN CHOICE, log 8). -/
structure Tile where
  tag : BitVec 128
  elems : List Nat
  holes : List Nat := []
  deriving DecidableEq, Repr

/-! ### What a bundle declares (13_bundles_and_steps.md, R301)

The manual gives the words of Loom instructions, Sieve operations, Gate operations, Granary commands, geometry records
and page descriptors, and no encoding for the sections that hold them. DESIGN CHOICE (log 8): the sections' contents come
as the data below. -/

/-- The Winnow variants of Table GRAN-5 (R224). -/
inductive Winnow where
  | w12 | w10 | w6
  deriving DecidableEq, Repr

/-- What a Firefly view entry says (Table FIRE-3, R292). `dist` 0 UNIFORM, 1 BERNOULLI, 2 GAUSSIAN, 3 reserved. -/
structure FireflyView where
  seed : Nat
  stream : Nat
  dist : Nat
  seedSrc : Bool
  stepStream : Bool
  p : Nat
  refTensor : Nat
  deriving DecidableEq, Repr

/-- The keys that a query row may attend, from `lo` to `hi` (R187, R192): numbers, and what each shape parameter adds to
them, as (parameter, numerator, denominator). -/
structure KeyRange where
  lo : Nat
  hi : Nat
  loBy : List (Nat × Nat × Nat) := []
  hiBy : List (Nat × Nat × Nat) := []
  deriving DecidableEq, Repr

/-- Where a tensor lies (R60, R483, R484): in HBM at a virtual address with a second one for scales, at the step's
binding (R313), in a Hamlet buffer, the Commons or a Loom buffer, or it is a tap view (R163), a resampled view (R166, R167) or a
Firefly view, with the 32 bytes of its entry (Table FIRE-3, R292).
A Loom-buffer tensor places the tile of row run ⌊(ROW − rowBase) ÷ 128⌋ and column block COL at `base` plus the tiles
before it, column block by column block, `rowTiles` row runs each (DESIGN CHOICE, log 12). A `kv` tensor is the keys or
values of one layer and head group of a cache tensor, of the session in a batch slot: its rows are logical keys
(R181; DESIGN CHOICE, log 8). -/
inductive Loc where
  | hbm (va scaleVa : Nat)
  | bound
  | hamletBuf
  | commons
  | loomBuf (base rowBase colBase rowTiles : Nat)
  | kv (slot cache layer headGroup : Nat) (isValue : Bool)
  | tapView (source geom tap : Nat)
  /-- The source tensor at the frames, lines and width of this entry under a geometry record: `part` 0 the nearest input of
  every axis (R166), 1 and 2 the inputs of w_a and w_b of Table CONV-5 on X (`axis` 0) or Y (1) (R167). -/
  | resampled (source geom part axis : Nat)
  | firefly (entry : List Byte)
  /-- The mask tensor of a score tile, built by the Reeve from the ranges of its rows (R192). -/
  | keyMask (ranges : List KeyRange)
  deriving DecidableEq, Repr

/-- The structure of a stationary tensor: elements outside it are masked (R161, R162, R175). The diagonal map packs `taps` of
the filter's `total` taps into each K-block, over `chans` channels. -/
inductive Structure where
  | dense
  | grouped (g cin : Nat)
  | diagonal (taps chans total : Nat)
  | headMap (kappa headDim : Nat)
  deriving DecidableEq, Repr

/-- An entry of the tensor table (R60). -/
structure TensorDecl where
  id : Nat
  fmt : Fmt
  rows : Nat
  cols : Nat
  /-- A view whose logical rows are the columns of this stored tensor (R222). -/
  viewOf : Option Nat := none
  winnow : Option Winnow := none
  loc : Loc := .hamletBuf
  /-- The words are integers: an INT32 partial or a reduction tensor (R274). -/
  int32 : Bool := false
  /-- Tiles of it are accumulated under this structure when stationary. -/
  shape : Structure := .dense
  companion : Option Nat := none
  gradient : Option Nat := none
  frames : Nat := 1
  lines : Nat := 1
  width : Nat := 0
  /-- The fewest frames, lines and columns over the declared shape ranges, none where they are those of this entry (R149). -/
  least : Option (Nat × Nat × Nat) := none
  stepBound : Bool := false
  /-- The addresses of elements and scales by logical die, for a tensor that each rank holds for itself (R272, R278); `loc` gives
  those of the others. -/
  ranks : List (Nat × Nat) := []
  /-- Rows of one batch slot, 0 for a tensor that is not divided by batch slots (R313). -/
  batchRows : Nat := 0
  deriving DecidableEq, Repr

/-- A slot of a Sieve or Gate operand table (R142): the tensor, rows_per_instance for group normalisation, and the rows
of it that the unit holds where that is not the whole tensor: the first and how many (log 8). `window` gives the columns of a
score tensor that a softmax takes where those are not all (R177, R180), `hbm` is set where the table's location lies in HBM,
which the loader refuses (R484). -/
structure SlotDecl where
  tensor : Nat
  rowsPerInstance : Nat := 0
  part : Option (Nat × Nat) := none
  window : Option (Nat × Nat) := none
  hbm : Bool := false
  deriving DecidableEq, Repr

/-- A 64-byte parameter entry of a Granary pair (R213). -/
abbrev Param := List Byte

/-- Where the rows of one drain to the Sieve go (R484): rows from `row` and column block `col` of a tensor; `hbm` is set
where its location lies in HBM, which the loader refuses. Under the head map, `heads` names a tensor for each head of the
group: accumulator column n goes to column κ·col + (n mod κ) of head ⌊n ÷ κ⌋ (R175, R176). -/
structure DrainDecl where
  tensor : Nat
  row : Nat
  col : Nat
  hbm : Bool := false
  kappa : Nat := 128
  heads : List Nat := []
  deriving DecidableEq, Repr

/-- What a kernel piece gives one Loom: its instruction words and accumulator declaration (R85, R107, R100). `streams` names,
for an instruction by its place among the words, the tensor and the first logical row of its streaming rows, by which the
Reeve knows the passes of padding (R154); `stats` names the tensor, row and column block of a gathered stationary tile, by
which it knows the passes whose every key is masked, and `skips` those words (R178). -/
structure LoomProg where
  die : Nat
  hamlet : Nat
  loom : Nat
  words : List (BitVec 256)
  pair : Bool := false
  slotRows : Nat := 128
  slotCols : Nat := 128
  rowsPerReplay : Nat := 32
  drains : List DrainDecl := []
  /-- The largest number of output tiles live at once (R111): a count, and what each shape parameter adds, as (parameter,
  numerator, denominator); every term rises with its parameter (R112). -/
  liveTiles : Nat := 1
  liveBy : List (Nat × Nat × Nat) := []
  /-- Where one Loom runs two positions of a chain (R114), the chain inputs of the first of them. -/
  firstInputs : Option Nat := none
  streams : List (Nat × Nat × Nat) := []
  stats : List (Nat × Nat × Nat × Nat) := []
  skips : List Nat := []
  deriving DecidableEq, Repr

/-- An attention head of a Sieve (R177): the tensors of its weights P, of m, l and a (one column each), of the accumulator o,
and of the output. A SMAX_RUN into `p` updates a block, and a MUL into `out` ends the row. DESIGN CHOICE (log 8): the manual
gives no form for this declaration. -/
structure AttnDecl where
  p : Nat
  m : Nat
  l : Nat
  a : Nat
  o : Nat
  out : Nat
  deriving DecidableEq, Repr

/-- What a kernel piece gives one Sieve: operation words, operand slots 0x0 to 0xE, the constant table (R142), and the
attention heads that it computes block by block. -/
structure SieveProg where
  die : Nat
  hamlet : Nat
  words : List (BitVec 64)
  slots : List (Nat × SlotDecl) := []
  consts : List Word := []
  attn : List AttnDecl := []
  deriving DecidableEq, Repr

/-- What a kernel piece gives one Gate engine (R168). -/
structure GateProg where
  die : Nat
  words : List (BitVec 64)
  slots : List (Nat × SlotDecl) := []
  deriving DecidableEq, Repr

/-- A walk of the Reeve (R187): the keys of the rows of a query tile in a batch slot, cache tensor, layer and head group, the
format declared, and for values the heads in their order. Its GATHER commands, made from `word`, stand before entry `at_` of the queue. -/
structure WalkDecl where
  at_ : Nat
  word : BitVec 128
  slot : Nat
  cache : Nat
  layer : Nat
  headGroup : Nat
  isValue : Bool
  heads : List Nat
  declFmt : Fmt
  ranges : List KeyRange
  deriving DecidableEq, Repr

/-- What a kernel piece gives one Granary queue (R210, R213): the pair is that of a logical die. A queue entry is a
command word or, after a GATHER, a page descriptor. `remote` lists the operand slots whose tiles go to another package,
as (slot, package index, logical die) (R229, R389). -/
structure GranProg where
  pairDie : Nat
  die : Nat
  hamlet : Nat
  entries : List (BitVec 128)
  slots : List (Nat × Nat) := []
  params : List (Nat × Param) := []
  remote : List (Nat × Nat × Nat) := []
  walks : List WalkDecl := []
  deriving DecidableEq, Repr

/-- A stripe (R158): a block of output frames, lines and columns, each as the first and how many, that a Hamlet works on for
the tap views of a source tensor under a geometry record. -/
structure StripeDecl where
  die : Nat
  hamlet : Nat
  source : Nat
  geom : Nat
  frames : Nat × Nat
  lines : Nat × Nat
  columns : Nat × Nat
  deriving DecidableEq, Repr

/-- A run of a kernel between two split points (R306), for one plan; its WCET for each grade, as the ACLK part in cycles
and the fixed part in ns (R25, R345), and the bytes of flits that it sends over the Ferry (R388). -/
structure Piece where
  wcet : List (Nat × Nat)
  looms : List LoomProg := []
  sieves : List SieveProg := []
  gates : List GateProg := []
  grans : List GranProg := []
  stripes : List StripeDecl := []
  ferry : Nat := 0
  deriving DecidableEq, Repr

/-- A tile that a plan cuts (Table BUND-2): what for, 0 a stationary operand (R97), 1 a streaming operand of TUNED passes
(R102), 2 a tile that a Granary WRITE takes (R229); the Loom position, die × 32 + Hamlet × 8 + Loom, for 0 and 1; the
tensor, and the logical rows and columns. -/
structure TileCut where
  role : Nat
  pos : Nat
  tensor : Nat
  row : Nat
  rows : Nat
  col : Nat
  cols : Nat
  deriving DecidableEq, Repr

/-- A plan of a menu (R305): its box as (lowest, highest) per shape parameter, min_looms, its split pieces and its cuts. -/
structure Plan where
  box : List (Nat × Nat)
  minLooms : Nat
  pieces : List Piece
  cuts : List TileCut := []
  deriving DecidableEq, Repr

/-- A cache tensor that a kernel reads: the format it declares for it and the page formats it allows (R203, R204). -/
structure CacheUse where
  cache : Nat
  fmt : Fmt
  allow : List Fmt := []
  deriving DecidableEq, Repr

/-- A kernel: its menu, its own tensors (R60), buffers reserved in bytes, heads flagged EXACT, the largest read set of a
stripe in bytes (R160), and the rows that a softmax operation has in flight (R131). -/
structure KernelDecl where
  plans : List Plan
  tensors : List TensorDecl
  hamletBytes : Nat := 0
  commonsBytes : Nat := 0
  loomBytes : Nat := 0
  exactHeads : Nat := 0
  readSet : Nat := 0
  softmaxRows : Nat := 1
  caches : List CacheUse := []
  deriving DecidableEq, Repr

/-- A cache tensor of the key-value declarations (section 0x0008): its tensor, head dimension, ring slots, window and
write-ahead pages, recompute time per page in ns and recompute kernel, whether the prefix may be shared (R174, R190, R191,
R197, R201). -/
structure CacheDecl where
  tensor : Nat
  fmt : Fmt
  headDim : Nat
  ringSlots : Option Nat := none
  winPages : Nat := 0
  aheadPages : Nat := 0
  recomputeNs : Option Nat := none
  recomputeKernel : Nat := 0
  shared : Bool := false
  layers : Nat := 1
  headGroups : Nat := 1
  deriving DecidableEq, Repr

/-- A trainable parameter (R265): the tensors of its slots 0 and 1, and its gradient tensor. -/
structure ParamDecl where
  master : Nat × Nat
  m : Nat × Nat
  v : Nat × Nat
  work : Nat × Nat
  trans : Nat × Nat
  deriving DecidableEq, Repr

/-- A layer of the training declarations: the tensors that are its weight operands (R267), the gradient formats allowed and
the backward kernel variant of each (R268), and the tensors of the agreed exponents of its parameters (R275). -/
structure LayerDecl where
  weights : List Nat := []
  fmts : List Fmt := [.bf16]
  backward : List (Fmt × Nat) := []
  exps : List Nat := []
  deriving DecidableEq, Repr

/-- The training declarations (section 0x0009): parameters, layers, the ring length N (R269), by logical die the VA of the
rank's record area and of its statistics blocks of slots 0 and 1 (R281), whether SHARD variants exist and which kernels
they stand for (R279). -/
structure TrainDecl where
  params : List ParamDecl
  layers : List LayerDecl := []
  ringLen : Nat := 16
  records : List Nat := []
  stats : List (Nat × Nat) := []
  hasShard : Bool := false
  shardOf : List (Nat × Nat) := []
  deriving DecidableEq, Repr

/-- What the sections of a bundle declare. `bellsPerDie` and `framesPerDie` are the counts of Table BUND-2;
`shapes` gives each parameter's range, none where it is not declared. `codes` are the format codes that the image names, with
kernel index and tensor ID (R28): an entry that holds a Fmt has one of Table NUM-1. -/
structure BundleDecl where
  kernels : List KernelDecl
  shapes : List (Option (Nat × Nat)) := []
  genRange : Option (Nat × Nat) := none
  bellsPerDie : Nat := 0
  framesPerDie : Nat := 0
  sessions : Nat := 0
  geoms : List (List Byte) := []
  caches : List CacheDecl := []
  prefixDomain : Nat := 0
  train : Option TrainDecl := none
  codes : List (Nat × Nat × Nat) := []
  deriving DecidableEq, Repr

/-! ### What commands carry -/

/-- Who makes a register access (R406): a PCIe function, or the Watchman. -/
inductive Master where
  | host (f : Nat)
  | watchman
  deriving DecidableEq, Repr

/-- A unit that can wait for a Bell (R320). Queue `q` of a pair: 0 to 31 the Hamlets by die × 4 + Hamlet, 32 the
loader's (R210). -/
inductive UnitRef where
  | loom (d h l : Nat)
  | sieve (d h : Nat)
  | gate (d : Nat)
  | queue (pair q : Nat)
  deriving DecidableEq, Repr

/-- Where a tile arrives (R55). -/
inductive TileDest where
  | loom (d h l addr : Nat)
  | sieve (d h : Nat)
  | gate (d : Nat)
  | commons (d : Nat)
  | bells (d : Nat)
  | reeve (d h : Nat)
  deriving DecidableEq, Repr

/-- A fault that no other command names: an uncorrectable read, a Loom residue mismatch, the hub fabric (R438). `page`
is the base address of the page that captures it; `sector` the address of a 0x41 (R443). `weak` are sectors in which the
same upset leaves an error that the sector code corrects (R258), `fixed` the dies whose Commons corrects a read of its SRAM (R328);
with code 0 nothing but these is meant, and no fault is raised. -/
structure HwFault where
  code : Nat
  page : Nat
  info : Word
  job : Option Nat
  sector : Nat := 0
  weak : List Nat := []
  fixed : List Nat := []
  deriving DecidableEq, Repr

/-- A page of the key-value store: session, cache tensor, layer, head group, keys or values, page number (R186). -/
structure KvRef where
  session : Nat
  cache : Nat
  layer : Nat
  headGroup : Nat
  isValue : Bool
  page : Nat
  deriving DecidableEq, Repr

/-- What the loader reads of a ticket beyond its 128 bytes. LOAD: what the image's sections declare. STEP: what the
bundle's key-value declarations give for the step's read and written pages, and the conditioning tokens of each new
session (R195 to R201). DESIGN CHOICE (log 8): the manual gives these no encoding. -/
structure TicketDecl where
  bundle : BundleDecl := { kernels := [] }
  reads : List KvRef := []
  writes : List KvRef := []
  conds : List (Nat × List Nat) := []
  /-- Kernels the step runs, in their order. -/
  kernels : List Nat := []
  deriving DecidableEq, Repr

/-- A PTP Sync message as it arrives: its origin time and correction in ns (R337, R339). -/
structure PtpSync where
  domain : Nat
  source : Nat
  seq : Nat
  twoStep : Bool
  origin : Nat
  correction : Int
  /-- Its timestamp lies half a nanosecond past the whole one (R337). -/
  half : Bool := false
  deriving DecidableEq, Repr

/-- What the best master clock algorithm compares of an Announce message (R337; IEEE 1588-2019). -/
structure AnnounceMsg where
  domain : Nat
  source : Nat
  priority1 : Nat
  clockClass : Nat
  accuracy : Nat
  variance : Nat
  priority2 : Nat
  identity : Nat
  steps : Nat
  deriving DecidableEq, Repr

/-- A flit: its 16-byte header as a little-endian number, and its 240 payload bytes (R370). -/
structure Flit where
  hdr : BitVec 128
  payload : List Byte
  deriving DecidableEq, Repr

end Sys2Proof
end

