-- ==== Sys2Proof/Syntax.lean ====
section
/-! DEFINITION. The commands: one constructor per row of the spec's command table, in its order. The table gives no row
an operand field; the operands are what the row's rule says the command carries (DESIGN CHOICE, log 8). Operand names:
d a physical die, h a Hamlet, l a Loom, p a Ferry port, f a PCIe function, ch a DMA channel, m the master that makes an
access, a an address in that master's BAR0, page the number of a page of it, v a written word. -/

namespace Sys2Proof

/-- The commands of the block. -/
inductive Instr where
  -- Board and power
  | mainOkRise   -- MAIN_OK_RISE, R467
  | mainOkFall   -- MAIN_OK_FALL, R469
  | islandRailLoss   -- ISLAND_RAIL_LOSS, R465
  | perstNAssert   -- PERST_N_ASSERT, R401
  | perstNRelease   -- PERST_N_RELEASE, R467
  | hbmTrainingComplete (failed : List Nat)   -- HBM_TRAINING_COMPLETE, R287
  | functionLevelReset (f : Nat)   -- FUNCTION_LEVEL_RESET, R447
  | wakeN   -- WAKE_N, R454
  | nwWakeTransit   -- NW_WAKE_TRANSIT, R454
  | thermalTrip (unit degc : Nat)   -- THERMAL_TRIP, R456
  | supplyDroop (rail : Nat)   -- SUPPLY_DROOP, R456
  | temporaryFenceRelease (die : Nat)   -- TEMPORARY_FENCE_RELEASE, R456
  | runTimeFault (hw : Option HwFault)   -- RUN_TIME_FAULT, R439
  | stepRestart (job : Nat)   -- STEP_RESTART, R439
  | softRepair (stack pc row : Nat)   -- SOFT_REPAIR, R260
  | patrolScrub (stack : Nat)   -- PATROL_SCRUB, R259
  | selfRefreshEntry (stack : Nat)   -- SELF_REFRESH_ENTRY, R209
  | duskEntry (die : Nat)   -- DUSK_ENTRY, R452
  | twilight   -- TWILIGHT, R453
  | daylight   -- DAYLIGHT, R453
  | nightwatchRequest (m : Master)   -- NIGHTWATCH_REQUEST, R454
  | nightwatchEntry   -- NIGHTWATCH_ENTRY, R454
  | powerCapWrite (m : Master) (v : Word)   -- POWER_CAP_WRITE, R455
  | thermalCapWrite (m : Master) (v : Word)   -- THERMAL_CAP_WRITE, R455
  | capApply   -- CAP_APPLY, R357
  | limiterAclkChange (limit mhz duty : Nat)   -- LIMITER_ACLK_CHANGE, R357
  | retest   -- RETEST, R353
  -- Steps, tickets and rings
  | deadlineTransit (entry : Nat)   -- DEADLINE_TRANSIT, R356
  | startTransit (entry : Nat)   -- START_TRANSIT, R347
  | pieceDispatch (die : Nat)   -- PIECE_DISPATCH, R347
  | stepStart (job : Nat)   -- STEP_START, R325
  | stepCommit (job : Nat)   -- STEP_COMMIT, R349
  | heldCommit (job : Nat)   -- HELD_COMMIT, R349
  | barrierRelease (job : Nat)   -- BARRIER_RELEASE, R323
  | ringTail (f ring : Nat) (v : Word)   -- RING_TAIL, R310
  | cmplHead (f ring : Nat) (v : Word)   -- CMPL_HEAD, R310
  | ringCtrlWrite (f ring : Nat) (v : Word)   -- RING_CTRL_WRITE, R311
  | ticketFetch (f ring : Nat) (decl : TicketDecl)   -- TICKET_FETCH, R317
  | ticketHoldRelease (f ring : Nat)   -- TICKET_HOLD_RELEASE, R317
  -- Looms
  | pass (d h l : Nat)   -- PASS, R76
  | replayPass (d h l : Nat)   -- REPLAY_PASS, R78
  | instructionRetire (d h l : Nat)   -- INSTRUCTION_RETIRE, R76
  | fenceIssue (d h l : Nat)   -- FENCE_ISSUE, R482
  | drain (d h l : Nat)   -- DRAIN, R110
  | rampDown (d h l : Nat)   -- RAMP_DOWN, R82
  | rampUp (d h l : Nat)   -- RAMP_UP, R83
  | rampStep (d h l : Nat)   -- RAMP_STEP, R82
  | rampGrant (d h l : Nat)   -- RAMP_GRANT, R84
  | tileArrival (dest : TileDest) (tile : Tile)   -- TILE_ARRIVAL, R55
  | multicast (d : Nat) (mask : Word) (tile : Tile) (addr : Nat)   -- MULTICAST, R308
  -- Sieves
  | sieveNop (d h : Nat)   -- SIEVE_NOP, R141
  | fma (d h : Nat)   -- FMA, R118
  | add (d h : Nat)   -- ADD, R117
  | mul (d h : Nat)   -- MUL, R118
  | min (d h : Nat)   -- MIN, R119
  | max (d h : Nat)   -- MAX, R119
  | cmpLt (d h : Nat)   -- CMP_LT, R119
  | cmpEq (d h : Nat)   -- CMP_EQ, R119
  | select (d h : Nat)   -- SELECT, R119
  | copysign (d h : Nat)   -- COPYSIGN, R118
  | exp2 (d h : Nat)   -- EXP2, R121
  | log2 (d h : Nat)   -- LOG2, R122
  | expE (d h : Nat)   -- EXP_E, R124
  | reciprocal (d h : Nat)   -- RECIPROCAL, R124
  | rsqrt (d h : Nat)   -- RSQRT, R124
  | tanh (d h : Nat)   -- TANH, R124
  | sigmoid (d h : Nat)   -- SIGMOID, R124
  | silu (d h : Nat)   -- SILU, R124
  | gelu (d h : Nat)   -- GELU, R124
  | gumbel (d h : Nat)   -- GUMBEL, R126
  | convert (d h : Nat)   -- CONVERT, R139
  | rsum (d h : Nat)   -- RSUM, R128
  | rmax (d h : Nat)   -- RMAX, R128
  | argmax (d h : Nat)   -- ARGMAX, R128
  | smaxRun (d h : Nat)   -- SMAX_RUN, R130
  | smaxExact (d h : Nat)   -- SMAX_EXACT, R131
  | layernorm (d h : Nat)   -- LAYERNORM, R136
  | rmsnorm (d h : Nat)   -- RMSNORM, R136
  | groupnorm (d h : Nat)   -- GROUPNORM, R137
  | sieveSignal (d h : Nat)   -- SIEVE_SIGNAL, R144
  | sieveWait (d h : Nat)   -- SIEVE_WAIT, R144
  | waitSatisfied (u : UnitRef)   -- WAIT_SATISFIED, R320
  | bellWaitTimeout (u : UnitRef)   -- BELL_WAIT_TIMEOUT, R320
  -- Gate
  | gateNop (d : Nat)   -- GATE_NOP, R168
  | cscIn (d : Nat)   -- CSC_IN, R170
  | conv (d : Nat)   -- CONV, R169
  | cscOut (d : Nat)   -- CSC_OUT, R171
  | gateSignal (d : Nat)   -- GATE_SIGNAL, R172
  | gateWait (d : Nat)   -- GATE_WAIT, R172
  -- Granary
  | granaryCommandStart (pair q : Nat)   -- GRANARY_COMMAND_START, R236
  | granaryNop (pair q : Nat)   -- GRANARY_NOP, R214
  | read (pair q : Nat)   -- READ, R218
  | write (pair q : Nat)   -- WRITE, R219
  | tileArrivalAtPair (pair run : Nat) (tile : Tile)   -- TILE_ARRIVAL_AT_PAIR, R485
  | copy (pair q : Nat)   -- COPY, R221
  | fill (pair q : Nat)   -- FILL, R221
  | gather (pair q : Nat)   -- GATHER, R230
  | treeAdd (pair q : Nat)   -- TREE_ADD, R231
  | redExp (pair q : Nat)   -- RED_EXP, R232
  | redEmax (pair q : Nat)   -- RED_EMAX, R232
  | redFix (pair q : Nat)   -- RED_FIX, R232
  | redAdd (pair q : Nat)   -- RED_ADD, R232
  | redCheck (pair q : Nat)   -- RED_CHECK, R232
  | redOut (pair q : Nat)   -- RED_OUT, R232
  | optAdamw (pair q : Nat)   -- OPT_ADAMW, R234
  | scrub (pair q : Nat)   -- SCRUB, R235
  | crc (pair q : Nat)   -- CRC, R235
  | granarySignal (pair q : Nat)   -- GRANARY_SIGNAL, R237
  | granaryWait (pair q : Nat)   -- GRANARY_WAIT, R237
  | granaryCommandComplete (pair q : Nat)   -- GRANARY_COMMAND_COMPLETE, R237
  -- Bells and Reeves
  | signalSet (d bell : Nat) (v : Word)   -- SIGNAL_SET, R319
  | signalAdd (d bell : Nat) (v : Word)   -- SIGNAL_ADD, R319
  | signalMax (d bell : Nat) (v : Word)   -- SIGNAL_MAX, R319
  | signalError (d bell : Nat) (v : Word)   -- SIGNAL_ERROR, R320
  | bellSet (f d bell : Nat) (v : Word)   -- BELL_SET, R321
  | bellAdd (f d bell : Nat) (v : Word)   -- BELL_ADD, R321
  | reeveHeartbeat (d h : Nat) (v : Word)   -- REEVE_HEARTBEAT, R307
  | reeveWatchdogExpiry (d h : Nat)   -- REEVE_WATCHDOG_EXPIRY, R307
  -- Memory and DMA
  | map (m : Master) (f : Nat) (v : Word)   -- MAP, R254
  | unmap (m : Master) (f : Nat) (v : Word)   -- UNMAP, R254
  | fieldCmdComplete (f : Nat)   -- FIELD_CMD_COMPLETE, R254
  | bar2Read (f va n : Nat)   -- BAR2_READ, R255
  | bar2Write (f va : Nat) (bytes : List Byte)   -- BAR2_WRITE, R255
  | dmaTail (m : Master) (f ch : Nat) (v : Word)   -- DMA_TAIL, R397
  | dmaCtrlWrite (m : Master) (f ch : Nat) (v : Word)   -- DMA_CTRL_WRITE, R397
  | dmaDescriptor (f ch : Nat) (desc data : List Byte)   -- DMA_DESCRIPTOR, R399
  | dmaComplete (f ch : Nat)   -- DMA_COMPLETE, R399
  | linkDown   -- LINK_DOWN, R401
  -- Meridian
  | ptpSync (p : PtpSync)   -- PTP_SYNC, R339
  | ptpArp (ip : Nat)   -- PTP_ARP, R337
  | announceTimeout   -- ANNOUNCE_TIMEOUT, R340
  | frameRefEdge   -- FRAME_REF_EDGE, R338
  | frameRefMissing   -- FRAME_REF_MISSING, R338
  | holdoverLimit   -- HOLDOVER_LIMIT, R340
  | merCtrlSourceWrite (m : Master) (v : Word)   -- MER_CTRL_SOURCE_WRITE, R339
  | merRateWrite (m : Master) (v : Word)   -- MER_RATE_WRITE, R336
  | merSetLo (m : Master) (v : Word)   -- MER_SET_LO, R341
  | merFrameNextLo (m : Master) (v : Word)   -- MER_FRAME_NEXT_LO, R338
  | merNowLo (m : Master)   -- MER_NOW_LO, R341
  -- Almanac and Cue
  | almIndex (m : Master) (v : Word)   -- ALM_INDEX, R365
  | almCtrlWrite (m : Master) (v : Word)   -- ALM_CTRL_WRITE, R365
  | cueDataWrite (m : Master) (v : Word)   -- CUE_DATA_WRITE, R363
  | cueGroupOwner (m : Master) (v : Word)   -- CUE_GROUP_OWNER, R362
  | cueDeferredApply (entry : Nat)   -- CUE_DEFERRED_APPLY, R360
  | cuePortRead (a : Nat) (en : Bool)   -- CUE_PORT_READ, R358
  -- Ferry
  | phyLock (d p : Nat)   -- PHY_LOCK, R369
  | phyLockLost (d p : Nat)   -- PHY_LOCK_LOST, R374
  | retrain (m : Master) (d p : Nat)   -- RETRAIN, R368
  | ident (d p : Nat) (x : Flit)   -- IDENT, R369
  | probe (d p : Nat) (x : Flit)   -- PROBE, R369
  | echo (d p : Nat) (x : Flit)   -- ECHO, R369
  | data (d p : Nat) (x : Flit)   -- DATA, R386
  | bell (d p : Nat) (x : Flit)   -- BELL, R386
  | jobStop (d p : Nat) (x : Flit)   -- JOB_STOP, R389
  | withdraw (d p : Nat) (x : Flit)   -- WITHDRAW, R389
  | nak (d p : Nat) (x : Flit)   -- NAK, R374
  | replayTimeout (d p : Nat)   -- REPLAY_TIMEOUT, R374
  | flitTransmit (d p : Nat)   -- FLIT_TRANSMIT, R380
  | routeCmdLoad (m : Master)   -- ROUTE_CMD_LOAD, R381
  | routeLoadComplete   -- ROUTE_LOAD_COMPLETE, R381
  | bind (m : Master)   -- BIND, R385
  | unbind (m : Master)   -- UNBIND, R385
  -- Tests
  | ffKatStart (m : Master) (d h : Nat)   -- FF_KAT_START, R300
  | ffKatDone (d h : Nat)   -- FF_KAT_DONE, R300
  | hbmMarginStart (m : Master) (stack : Nat) (v : Word)   -- HBM_MARGIN_START, R262
  | hbmMarginDone (stack : Nat)   -- HBM_MARGIN_DONE, R262
  -- Register pages
  | pageKey (m : Master) (page : Nat) (v : Word)   -- PAGE_KEY, R421
  | pageOwnerWrite (m : Master) (page : Nat) (v : Word)   -- PAGE_OWNER_WRITE, R408
  | setViewWrite (m : Master) (a : Nat) (v : Word)   -- SET_VIEW_WRITE, R420
  | clearViewWrite (m : Master) (a : Nat) (v : Word)   -- CLEAR_VIEW_WRITE, R420
  | faultCodeClear (m : Master) (page : Nat)   -- FAULT_CODE_CLEAR, R427
  | snapCtrlTake (m : Master) (page : Nat) (v : Word)   -- SNAP_CTRL_TAKE, R428
  | sqSnapAll (m : Master) (v : Word)   -- SQ_SNAP_ALL, R435
  | counterLoRead (m : Master) (a : RegAccess)   -- COUNTER_LO_READ, R429
  | fieldMissRead (m : Master) (f : Nat)   -- FIELD_MISS_READ, R254
  | faultFenceWrite (m : Master) (v : Word)   -- FAULT_FENCE_WRITE, R441
  | dieCmdWrite (m : Master) (v : Word)   -- DIE_CMD_WRITE, R453
  | registerWrite (m : Master) (a : RegAccess) (v : Word)   -- REGISTER_WRITE, R417
  -- Watchman
  | regRead (a n : Nat)   -- REG_READ, R405
  | regWrite (a n : Nat) (vs : List Word)   -- REG_WRITE, R405
  | reset (kind die : Nat) (retain : Bool)   -- RESET, R405
  | ledgerRead (seq : Nat)   -- LEDGER_READ, R458
  | commitSvn (component : Nat)   -- COMMIT_SVN, R412
  | setEndpointId (eid : Nat)   -- SET_ENDPOINT_ID, R403
  | entdaa (addr : Nat)   -- ENTDAA, R402
  | setdasa (statik dyn : Nat)   -- SETDASA, R402
  | getTid   -- GETTID, R404
  | getPldmVersion (type : Nat)   -- GETPLDMVERSION, R404
  | getPldmTypes   -- GETPLDMTYPES, R404
  | getPldmCommands (type : Nat)   -- GETPLDMCOMMANDS, R404
  | getPdrRepositoryInfo   -- GETPDRREPOSITORYINFO, R404
  | getPdr (handle : Nat)   -- GETPDR, R404
  | getSensorReading (id : Nat)   -- GETSENSORREADING, R404
  | getStateSensorReadings (id : Nat)   -- GETSTATESENSORREADINGS, R404
  | setNumericEffecterValue (id : Nat) (v : Word)   -- SETNUMERICEFFECTERVALUE, R404
  | getNumericEffecterValue (id : Nat)   -- GETNUMERICEFFECTERVALUE, R404
  | requestUpdate (component : Nat)   -- REQUESTUPDATE, R413
  | verifyComplete (image : List Byte)   -- VERIFYCOMPLETE, R413
  | activateFirmware   -- ACTIVATEFIRMWARE, R413
  | ledgerFlush   -- LEDGER_FLUSH, R458
  -- Later rows
  | hostLinkUp (speed width : Nat) (flit : Bool) (cfg : HostCfg)   -- HOST_LINK_UP, R401
  | announce (ann : AnnounceMsg)   -- ANNOUNCE, R340
  | followUp (origin : Nat) (seq : Nat)   -- FOLLOW_UP, R337
  | delayResponse (rx seq : Nat)   -- DELAY_RESPONSE, R337
  | idleFlit (d p : Nat) (x : Flit)   -- IDLE_FLIT, R378
  | refclkLoss   -- REFCLK_LOSS, R445
  | islandPowerOn (wmAddr : Nat)   -- ISLAND_POWER_ON, R467
  | limiterAclkRaise (mhz duty : Nat)   -- LIMITER_ACLK_RAISE, R455
  | extest (tap : TapCmd)   -- EXTEST, R477
  deriving DecidableEq, Repr

end Sys2Proof
end

