-- ==== Sys2Proof/Machine/Data.lean ====
section
/-! DEFINITION. Plain data the machine is built from: sorted maps from Nat keys in one canonical form, byte strings,
bit fields, and the four CRCs of the manual (R54, R143, R183, R194). -/

namespace Sys2Proof.Machine

/-- A map from Nat keys, as pairs with strictly rising keys and no entry that equals the default. -/
abbrev SMap (α : Type) := List (Nat × α)

/-- What a key holds: its entry, or the default of the key. -/
def SMap.getF {α : Type} (d : Nat → α) : SMap α → Nat → α
  | [], k => d k
  | (k', v) :: m, k => if k = k' then v else SMap.getF d m k

/-- Put an entry at `k`, keeping the keys rising. -/
def SMap.put {α : Type} (k : Nat) (v : α) : SMap α → SMap α
  | [] => [(k, v)]
  | (k', v') :: m =>
    if k < k' then (k, v) :: (k', v') :: m
    else if k = k' then (k, v) :: m
    else (k', v') :: SMap.put k v m

/-- Let `k` hold `v`; writing the default removes the entry. -/
def SMap.setF {α : Type} [DecidableEq α] (d : Nat → α) (k : Nat) (v : α) (m : SMap α) : SMap α :=
  if v = d k then m.filter fun e => e.1 != k else SMap.put k v m

/-- The keys from `lo` rise strictly and no entry equals its default. -/
def SMap.wfFrom {α : Type} [DecidableEq α] (d : Nat → α) : Nat → SMap α → Bool
  | _, [] => true
  | lo, (k, v) :: m => decide (lo ≤ k) && decide (v ≠ d k) && SMap.wfFrom d (k + 1) m

/-- The canonical form: equal maps are equal lists. -/
def SMap.wfF {α : Type} [DecidableEq α] (d : Nat → α) (m : SMap α) : Bool := SMap.wfFrom d 0 m

/-- The same with one default for every key. -/
abbrev SMap.get {α : Type} (d : α) (m : SMap α) (k : Nat) : α := SMap.getF (fun _ => d) m k
abbrev SMap.set {α : Type} [DecidableEq α] (d : α) (k : Nat) (v : α) (m : SMap α) : SMap α :=
  SMap.setF (fun _ => d) k v m
abbrev SMap.wf {α : Type} [DecidableEq α] (d : α) (m : SMap α) : Bool := SMap.wfF (fun _ => d) m

/-- Change the entry at `k`. -/
def SMap.upd {α : Type} [DecidableEq α] (d : α) (k : Nat) (f : α → α) (m : SMap α) : SMap α :=
  SMap.set d k (f (SMap.get d m k)) m

/-- Keep the entries whose key satisfies `p`. -/
def SMap.keep {α : Type} (p : Nat → Bool) (m : SMap α) : SMap α := m.filter fun e => p e.1

/-- Rewrite every listed entry, dropping the ones that become the default. -/
def SMap.mapF {α : Type} [DecidableEq α] (d : Nat → α) (f : Nat → α → α) : SMap α → SMap α
  | [] => []
  | (k, v) :: m => if f k v = d k then SMap.mapF d f m else (k, f k v) :: SMap.mapF d f m

/-- The first element a list gives for a test, with its position. -/
def findIdxFrom {α : Type} (p : α → Bool) : Nat → List α → Option (Nat × α)
  | _, [] => none
  | i, x :: xs => if p x then some (i, x) else findIdxFrom p (i + 1) xs

/-- Replace element `i` of a list, if it has one. -/
def listSet {α : Type} (xs : List α) (i : Nat) (v : α) : List α := xs.set i v

/-- `n` consecutive numbers from `a`. -/
def numsFrom (a : Nat) : Nat → List Nat
  | 0 => []
  | n + 1 => a :: numsFrom (a + 1) n

/-- The sum of a list. -/
def natSum (xs : List Nat) : Nat := xs.foldl (· + ·) 0

/-- The largest element, 0 for none. -/
def natMax (xs : List Nat) : Nat := xs.foldl Nat.max 0

/-- Division rounded up; 0 when the divisor is 0. -/
def ceilDiv (a b : Nat) : Nat := if b = 0 then 0 else (a + b - 1) / b

/-! ### Bit fields -/

/-- Bits hi..lo of a number. -/
def bitsOf (w : Nat) (hi lo : Nat) : Nat := (w / 2 ^ lo) % 2 ^ (hi + 1 - lo)

/-- Bit i of a number. -/
def bitOf (w i : Nat) : Bool := (w / 2 ^ i) % 2 = 1

/-- The mask of bits hi..lo in a register word. -/
def maskOf (hi lo : Nat) : Word := BitVec.ofNat 32 ((2 ^ (hi + 1 - lo) - 1) * 2 ^ lo)

/-- Field hi..lo of a register word. -/
def getField (w : Word) (hi lo : Nat) : Nat := bitsOf w.toNat hi lo

/-- A register word with field hi..lo set. -/
def setField (w : Word) (hi lo : Nat) (v : Nat) : Word :=
  (w &&& ~~~(maskOf hi lo)) ||| (BitVec.ofNat 32 (v * 2 ^ lo) &&& maskOf hi lo)

/-- Sign-extension of an n-bit two's-complement number. -/
def toSigned (n : Nat) (v : Nat) : Int :=
  let v := v % 2 ^ n
  if v < 2 ^ (n - 1) then (v : Int) else (v : Int) - (2 ^ n : Nat)

/-- The n-bit two's-complement code of an integer. -/
def ofSigned (n : Nat) (v : Int) : Nat := (v % ((2 ^ n : Nat) : Int)).toNat

/-- How many of the low n bits are set. -/
def popCount (w : Nat) : Nat → Nat
  | 0 => 0
  | n + 1 => (if bitOf w n then 1 else 0) + popCount w n

/-- The lowest set bit below n, if any. -/
def lowestBit (w : Nat) (n : Nat) : Option Nat := (numsFrom 0 n).find? (bitOf w)

/-! ### Byte strings, little-endian (R32, R51) -/

/-- The number a little-endian byte string spells. -/
def leNat : List Byte → Nat
  | [] => 0
  | b :: bs => b.toNat + 256 * leNat bs

/-- The n little-endian bytes of a number. -/
def leBytes : Nat → Nat → List Byte
  | 0, _ => []
  | n + 1, v => BitVec.ofNat 8 v :: leBytes n (v / 256)

/-- The n bytes of a number, most significant first. -/
def beBytes (n v : Nat) : List Byte := (leBytes n v).reverse

/-- Bytes lo to lo + n - 1 of a string, as a little-endian number. -/
def leAt (bs : List Byte) (lo n : Nat) : Nat := leNat ((bs.drop lo).take n)

/-- Every byte of a string is 0 from lo for n bytes. -/
def zeroAt (bs : List Byte) (lo n : Nat) : Bool := leAt bs lo n == 0

/-! ### Checks -/

/-- Iterate a function n times. -/
def iterate {α : Type} (f : α → α) : Nat → α → α
  | 0, a => a
  | n + 1, a => iterate f n (f a)

/-- One unreflected CRC shift. -/
def crcShift {w : Nat} (poly : BitVec w) (r : BitVec w) : BitVec w :=
  if r.msb then (r <<< 1) ^^^ poly else r <<< 1

/-- A register stepped over bytes in order; the match has the register evaluated before the next byte. -/
def crcFold {w : Nat} (f : BitVec w → Byte → BitVec w) : BitVec w → List Byte → BitVec w
  | r, [] => r
  | r, b :: bs =>
    match (f r b).toNat with
    | 0 => crcFold f 0#w bs
    | n + 1 => crcFold f (BitVec.ofNat w (n + 1)) bs

/-- An unreflected CRC over bytes in order. -/
def crcMsb {w : Nat} (poly init : BitVec w) (bs : List Byte) : BitVec w :=
  crcFold (fun r b => iterate (crcShift poly) 8 (r ^^^ ((BitVec.setWidth w b) <<< (w - 8)))) init bs

/-- One reflected CRC shift. -/
def crcShiftR (poly : Word) (r : Word) : Word :=
  if r.getLsbD 0 then (r >>> 1) ^^^ poly else r >>> 1

/-- CRC-16, polynomial 0x1021, initial value 0xFFFF (R54). -/
def crc16 (bs : List Byte) : BitVec 16 := crcMsb 0x1021#16 0xFFFF#16 bs

/-- CRC-8, polynomial 0x07, initial value 0 (R143). -/
def crc8 (bs : List Byte) : BitVec 8 := crcMsb 0x07#8 0x00#8 bs

/-- CRC-64, polynomial 0x42F0E1EBA9EA3693, initial value 0 (R194). -/
def crc64 (bs : List Byte) : BitVec 64 := crcMsb 0x42F0E1EBA9EA3693#64 0#64 bs

/-- CRC-32C: polynomial 0x1EDC6F41 reflected, initial value and final XOR all ones (R183). -/
def crc32c (bs : List Byte) : Word :=
  ~~~(crcFold (fun r b => iterate (crcShiftR 0x82F63B78#32) 8 (r ^^^ (BitVec.setWidth 32 b))) 0xFFFFFFFF#32 bs)

end Sys2Proof.Machine
end

