-- ==== Sys2Proof/Machine/Formats.lean ====
section
/-! DEFINITION. Number formats and conversion (02_number_formats.md, R26 to R50): decoding an encoding to its exact
value, exact sums and products, and rounding a value into a format with the events of Table NUM-6. -/

namespace Sys2Proof.Machine

/-! ### Exact arithmetic -/

/-- A number as the device computes with it before rounding: not a number, an infinity, or (−1)^neg × m × 2^e. -/
inductive FVal where
  | nan
  | inf (neg : Bool)
  | fin (neg : Bool) (m : Nat) (e : Int)
  deriving DecidableEq, Repr

/-- +0. -/
def FVal.zero : FVal := .fin false 0 0

/-- An integer as a value. -/
def FVal.ofInt (i : Int) : FVal := .fin (decide (i < 0)) i.natAbs 0

/-- The sign bit of a value; a NaN has none. -/
def FVal.neg? : FVal → Bool
  | .nan => false
  | .inf n => n
  | .fin n _ _ => n

def FVal.isNan : FVal → Bool
  | .nan => true
  | _ => false

def FVal.isZero : FVal → Bool
  | .fin _ 0 _ => true
  | _ => false

def FVal.isFin : FVal → Bool
  | .fin _ _ _ => true
  | _ => false

/-- The value with its sign changed. -/
def FVal.negate : FVal → FVal
  | .nan => .nan
  | .inf n => .inf !n
  | .fin n m e => .fin (!n) m e

/-- The magnitude. -/
def FVal.abs : FVal → FVal
  | .nan => .nan
  | .inf _ => .inf false
  | .fin _ m e => .fin false m e

/-- The signed integer m × 2^e / 2^q for e at least q. -/
def scaled (n : Bool) (m : Nat) (e q : Int) : Int :=
  let v : Int := ((m * 2 ^ (e - q).toNat : Nat) : Int)
  if n then -v else v

/-- The exact sum; a sum whose exact value is zero is +0 (R38). -/
def FVal.add : FVal → FVal → FVal
  | .nan, _ => .nan
  | _, .nan => .nan
  | .inf a, .inf b => if a = b then .inf a else .nan
  | .inf a, .fin _ _ _ => .inf a
  | .fin _ _ _, .inf b => .inf b
  | .fin n1 m1 e1, .fin n2 m2 e2 =>
    let q := min e1 e2
    let s := scaled n1 m1 e1 q + scaled n2 m2 e2 q
    if s = 0 then .fin false 0 0 else .fin (decide (s < 0)) s.natAbs q

/-- The exact product; the sign of a zero follows IEEE 754-2019 (R38). -/
def FVal.mul : FVal → FVal → FVal
  | .nan, _ => .nan
  | _, .nan => .nan
  | .inf a, .inf b => .inf (a != b)
  | .inf a, .fin b m _ => if m = 0 then .nan else .inf (a != b)
  | .fin a m _, .inf b => if m = 0 then .nan else .inf (a != b)
  | .fin a m1 e1, .fin b m2 e2 => .fin (a != b) (m1 * m2) (e1 + e2)

/-- Scale by a power of two. -/
def FVal.scale (k : Int) : FVal → FVal
  | .fin n m e => .fin n m (e + k)
  | v => v

/-- a < b for numbers; false where either is NaN. −0 and +0 are equal. -/
def FVal.lt (a b : FVal) : Bool :=
  match a, b with
  | .nan, _ => false
  | _, .nan => false
  | .inf x, .inf y => x && !y
  | .inf x, .fin _ _ _ => x
  | .fin _ _ _, .inf y => !y
  | .fin n1 m1 e1, .fin n2 m2 e2 =>
    let q := min e1 e2
    decide (scaled n1 m1 e1 q < scaled n2 m2 e2 q)

/-- Equal as numbers. -/
def FVal.eqNum (a b : FVal) : Bool := !a.isNan && !b.isNan && !a.lt b && !b.lt a

/-- floor(log2 |v|) of a finite value other than zero. -/
def floorLog2 (m : Nat) (e : Int) : Int := (m.log2 : Int) + e

/-! ### Rounding to an integer number of units -/

/-- How a magnitude is rounded to whole units: to nearest with ties to even (R44), or stochastically with a 24-bit
draw (R45). -/
inductive Rnd where
  | rne
  | sr (r : Nat)
  deriving DecidableEq, Repr

/-- m / 2^k rounded to nearest, ties to even. -/
def rneShift (m k : Nat) : Nat :=
  let q := m / 2 ^ k
  let r := m % 2 ^ k
  if k = 0 then m
  else if r * 2 < 2 ^ k then q
  else if r * 2 > 2 ^ k then q + 1
  else q + q % 2

/-- m / 2^k rounded stochastically: up when r is below the first 24 bits of the fraction (R45). -/
def srShift (m k r : Nat) : Nat :=
  let q := m / 2 ^ k
  let f := (m % 2 ^ k) * 2 ^ 24 / 2 ^ k
  if r < f then q + 1 else q

/-- The magnitude m × 2^e in whole units of 2^q. -/
def unitsOf (rnd : Rnd) (m : Nat) (e q : Int) : Nat :=
  if q ≤ e then m * 2 ^ (e - q).toNat
  else match rnd with
    | .rne => rneShift m (q - e).toNat
    | .sr r => srShift m (q - e).toNat r

/-- floor(v / 2^q) as an integer, for the truncation of the Looms (R41). -/
def floorUnits (n : Bool) (m : Nat) (e q : Int) : Int :=
  if q ≤ e then scaled n m e q
  else (if n then -(m : Int) else (m : Int)) / ((2 ^ (q - e).toNat : Nat) : Int)

/-! ### Floating-point formats -/

/-- The layout of a floating-point format (Tables NUM-2 and NUM-3): exponent and mantissa bits, bias, the largest
finite magnitude code, the magnitude codes of infinity and of the canonical NaN, and whether subnormals are flushed. -/
structure FloatSpec where
  ebits : Nat
  mbits : Nat
  bias : Int
  maxCode : Nat
  infCode : Option Nat
  nanCode : Option Nat
  flush : Bool
  deriving DecidableEq, Repr

/-- The layouts of R29 and R30. -/
def floatSpec : Fmt → Option FloatSpec
  | .fp32 => some ⟨8, 23, 127, 0x7F7FFFFF, some 0x7F800000, some 0x7FC00000, true⟩
  | .bf16 => some ⟨8, 7, 127, 0x7F7F, some 0x7F80, some 0x7FC0, true⟩
  | .fp16 => some ⟨5, 10, 15, 0x7BFF, some 0x7C00, some 0x7E00, false⟩
  | .e4m3 => some ⟨4, 3, 7, 0x7E, none, some 0x7F, false⟩
  | .e5m2 => some ⟨5, 2, 15, 0x7B, some 0x7C, some 0x7E, false⟩
  | .e3m2 => some ⟨3, 2, 3, 0x1F, none, none, false⟩
  | .e2m3 => some ⟨2, 3, 1, 0x1F, none, none, false⟩
  | .e2m1 => some ⟨2, 1, 1, 0x7, none, none, false⟩
  | _ => none

/-- Bits of the magnitude of a float layout: everything but the sign. -/
def FloatSpec.magBits (f : FloatSpec) : Nat := f.ebits + f.mbits

/-- The value of an encoding (R29, R30, R37): a flushing format reads a subnormal as a zero of its sign. -/
def FloatSpec.decode (f : FloatSpec) (c : Nat) : FVal :=
  let neg := bitOf c f.magBits
  let mag := c % 2 ^ f.magBits
  let e := mag / 2 ^ f.mbits
  let m := mag % 2 ^ f.mbits
  if f.infCode = some mag then .inf neg
  else if mag > f.maxCode then .nan
  else if e = 0 then (if f.flush then .fin neg 0 0 else .fin neg m (1 - f.bias - f.mbits))
  else .fin neg (2 ^ f.mbits + m) ((e : Int) - f.bias - f.mbits)

/-- The magnitude code of a finite magnitude other than zero, before the range is judged: the code keeps counting past
the largest finite one. -/
def FloatSpec.magOf (f : FloatSpec) (rnd : Rnd) (m : Nat) (e : Int) : Nat :=
  let E := max (floorLog2 m e) (1 - f.bias)
  let q := E - f.mbits
  if f.flush && decide (floorLog2 m e < 1 - f.bias) then 0
  else unitsOf rnd m e q + (E + f.bias - 1).toNat * 2 ^ f.mbits

/-- What a conversion answers: the code, and whether it counts a saturated conversion or a NaN lost (R47, R48). -/
structure Conv where
  code : Nat
  sat : Bool := false
  lost : Bool := false
  deriving DecidableEq, Repr

/-- The sign bit of a code. -/
def FloatSpec.signed (f : FloatSpec) (neg : Bool) (mag : Nat) : Nat := if neg then mag + 2 ^ f.magBits else mag

/-- Conversion into a floating-point format (Table NUM-6). IEEE mode acts only where the format has an infinity
(R46). -/
def FloatSpec.convert (f : FloatSpec) (mode : Ovf) (rnd : Rnd) : FVal → Conv
  | .nan =>
    match f.nanCode with
    | some c => ⟨c, false, false⟩
    | none => ⟨0, false, true⟩
  | .inf n =>
    match f.infCode with
    | some c => ⟨f.signed n c, false, false⟩
    | none => ⟨f.signed n f.maxCode, true, false⟩
  | .fin n 0 _ => ⟨f.signed n 0, false, false⟩
  | .fin n (k + 1) e =>
    let c := f.magOf rnd (k + 1) e
    if c ≤ f.maxCode then ⟨f.signed n c, false, false⟩
    else match mode, f.infCode with
      | .ieee, some i => ⟨f.signed n i, false, false⟩
      | _, _ => ⟨f.signed n f.maxCode, true, false⟩

/-! ### Integer formats -/

/-- The range of an integer format (R31). -/
def intRange : Fmt → Int × Int
  | .int8 => (-128, 127)
  | .int4 => (-8, 7)
  | .uint8 => (0, 255)
  | .uint10 => (0, 1023)
  | .uint12 => (0, 4095)
  | _ => (0, 0)

/-- Value bits of an integer format. -/
def intBits : Fmt → Nat
  | .int8 | .uint8 => 8
  | .int4 => 4
  | .uint10 => 10
  | .uint12 => 12
  | _ => 0

/-- The code of an integer in an integer format, clamped to its range. -/
def intConvert (f : Fmt) (i : Int) : Conv :=
  let (lo, hi) := intRange f
  let c := if i < lo then lo else if hi < i then hi else i
  ⟨ofSigned (intBits f) c, decide (i < lo) || decide (hi < i), false⟩

/-- Conversion into an integer format: the rounded integer is judged (Table NUM-6). -/
def convertInt (f : Fmt) (rnd : Rnd) : FVal → Conv
  | .nan => ⟨0, false, true⟩
  | .inf n => let (lo, hi) := intRange f; ⟨ofSigned (intBits f) (if n then lo else hi), true, false⟩
  | .fin n m e =>
    let u : Int := (unitsOf rnd m e 0 : Nat)
    intConvert f (if n then -u else u)

/-- The value of an integer encoding; bits above the value are ignored (R31, R32). -/
def decodeInt (f : Fmt) (c : Nat) : FVal :=
  match f with
  | .int8 => .ofInt (toSigned 8 c)
  | .int4 => .ofInt (toSigned 4 c)
  | _ => .ofInt ((c % 2 ^ intBits f : Nat) : Int)

/-! ### One element of a format that is not block-scaled -/

/-- The value of an element. -/
def decodeElem (f : Fmt) (c : Nat) : FVal :=
  match floatSpec f with
  | some sp => sp.decode c
  | none => decodeInt f c

/-- Conversion of one value into a format that is not block-scaled (R44 to R47). -/
def convertElem (f : Fmt) (mode : Ovf) (rnd : Rnd) (v : FVal) : Conv :=
  match floatSpec f with
  | some sp => sp.convert mode rnd v
  | none => convertInt f rnd v

/-! ### Block scaling -/

/-- The value of an MX element under its scale (R33). -/
def decodeMx (f : Fmt) (scale c : Nat) : FVal :=
  if scale = 0xFF then .nan
  else
    let k : Int := (scale : Int) - 127
    match f with
    | .mxInt8 => (decodeInt .int8 c).scale (k - 6)
    | _ => (decodeElem f.elem c).scale k

/-- The exponent of the top binade of an MX element format (R35 step 3). -/
def mxTop : Fmt → Int
  | .mxE4m3 => 8 | .mxE5m2 => 15 | .mxE3m2 => 4 | .mxE2m3 => 2 | .mxE2m1 => 2 | _ => 0

/-- The largest magnitude among finite values, by floor of its base-two logarithm; none when all are zero. -/
def blockTop (vs : List FVal) : Option Int :=
  vs.foldl (fun a v =>
    match v with
    | .fin _ m e => if m = 0 then a else
        match a with
        | some x => some (max x (floorLog2 m e))
        | none => some (floorLog2 m e)
    | _ => a) none

/-- The scale of a block (R35 steps 1 to 3, R36). -/
def mxScale (f : Fmt) (vs : List FVal) : Nat :=
  if vs.any (·.isNan) then 0xFF
  else match blockTop vs with
    | none => 127
    | some t => (max 0 (min 254 (t - mxTop f + 127))).toNat

/-- One element of a block with scale X that holds no NaN (R35 steps 4 to 7). -/
def mxElem (f : Fmt) (X : Nat) (v : FVal) : Conv :=
  let x := v.scale (127 - (X : Int))
  match f with
  | .mxInt8 =>
    match x with
    | .fin n m e =>
      let u : Int := (unitsOf .rne m e (-6) : Nat)
      let i := if n then -u else u
      let c := if i < -127 then -127 else if 127 < i then 127 else i
      ⟨ofSigned 8 c, decide (c ≠ i), false⟩
    | .inf n => ⟨ofSigned 8 (if n then -127 else 127), true, false⟩
    | .nan => ⟨0, false, false⟩
  | _ =>
    match floatSpec f.elem with
    | none => ⟨0, false, false⟩
    | some sp =>
      match x with
      | .inf n => ⟨sp.signed n sp.maxCode, true, false⟩
      | .nan => ⟨0, false, false⟩
      | .fin n 0 _ => ⟨sp.signed n 0, false, false⟩
      | .fin n (k + 1) e =>
        let c := sp.magOf .rne (k + 1) e
        if c ≤ sp.maxCode then ⟨sp.signed n c, false, false⟩ else ⟨sp.signed n sp.maxCode, true, false⟩

/-- Conversion of a block of up to 32 values: its scale and elements (R35, R36). A block with a NaN counts nothing. -/
def mxBlock (f : Fmt) (vs : List FVal) : Nat × List Conv :=
  let X := mxScale f vs
  if X = 0xFF then (X, vs.map fun _ => ⟨0, false, false⟩) else (X, vs.map (mxElem f X))

/-! ### FP32 words -/

/-- The layout of FP32. -/
def fp32Spec : FloatSpec := ⟨8, 23, 127, 0x7F7FFFFF, some 0x7F800000, some 0x7FC00000, true⟩

/-- The value of an FP32 word. -/
def f32Val (w : Word) : FVal := fp32Spec.decode w.toNat

/-- A value rounded once to FP32, overflow to infinity. -/
def f32Round (v : FVal) : Word := BitVec.ofNat 32 (fp32Spec.convert .ieee .rne v).code

/-- A value rounded once to FP32 in an overflow mode; true when it counts a saturated conversion (R43, R47). -/
def f32RoundIn (mode : Ovf) (v : FVal) : Word × Bool :=
  let c := fp32Spec.convert mode .rne v
  (BitVec.ofNat 32 c.code, c.sat)

/-- The canonical FP32 NaN (R30). -/
def f32Nan : Word := 0x7FC00000#32
def f32Zero : Word := 0#32
def f32One : Word := 0x3F800000#32
def f32NegInf : Word := 0xFF800000#32
def f32PosInf : Word := 0x7F800000#32

/-- FP32 sum, product and fused multiply-add, each rounded once (R117, R118). -/
def f32Add (a b : Word) : Word := f32Round ((f32Val a).add (f32Val b))
def f32Sub (a b : Word) : Word := f32Round ((f32Val a).add (f32Val b).negate)
def f32Mul (a b : Word) : Word := f32Round ((f32Val a).mul (f32Val b))
def f32Fma (a b c : Word) : Word := f32Round (((f32Val a).mul (f32Val b)).add (f32Val c))

/-- The 32-bit integer of a word, and the word of an integer. -/
def i32Val (w : Word) : Int := toSigned 32 w.toNat
def i32Word (i : Int) : Word := BitVec.ofNat 32 (ofSigned 32 i)

/-- An integer clamped to INT32; true when it was outside (R43). -/
def i32Clamp (i : Int) : Word × Bool :=
  if i < -2147483648 then (i32Word (-2147483648), true)
  else if 2147483647 < i then (i32Word 2147483647, true)
  else (i32Word i, false)

/-! ### Packing (R32) -/

/-- A long number from elements of `b` bits, the first in the low bits. -/
def packNat (b : Nat) : List Nat → Nat
  | [] => 0
  | c :: cs => c % 2 ^ b + 2 ^ b * packNat b cs

/-- `n` elements of `b` bits of a number. -/
def unpackNat (b : Nat) : Nat → Nat → List Nat
  | 0, _ => []
  | n + 1, v => v % 2 ^ b :: unpackNat b n (v / 2 ^ b)

/-- Bytes of `n` packed elements. -/
def packedBytes (f : Fmt) (n : Nat) : Nat := (n * f.bits + 7) / 8

/-- Elements packed into bytes: two 4-bit elements a byte, four 6-bit elements three bytes, wider ones
little-endian (R32). -/
def packElems (f : Fmt) (cs : List Nat) : List Byte := leBytes (packedBytes f cs.length) (packNat f.bits cs)

/-- The n elements that bytes hold. -/
def unpackElems (f : Fmt) (n : Nat) (bs : List Byte) : List Nat := unpackNat f.bits n (leNat bs)

end Sys2Proof.Machine
end

