-- ==== Sys2Proof/Machine/Operands.lean ====
section
/-! DEFINITION. Tiles and tags (03_tiles_and_tags.md): the tag's fields, its check, the order of the tag checks, tile
shapes, masks and the logical element index; and the fields of instruction words. -/

namespace Sys2Proof.Machine

/-! ### Fields of instruction words -/

/-- Field hi..lo of a long word. -/
def fieldOf {w : Nat} (x : BitVec w) (hi lo : Nat) : Nat := bitsOf x.toNat hi lo

/-- Single bit of a long word. -/
def flagOf {w : Nat} (x : BitVec w) (i : Nat) : Bool := x.getLsbD i

/-! ### The tag (R51 to R54) -/

/-- The fields of Table TAG-1. -/
structure TagF where
  kind : Nat
  fmt : Nat
  flags : Nat
  tensor : Nat
  row : Nat
  col : Nat
  vrows : Nat
  vcols : Nat
  step : Nat
  deriving DecidableEq, Repr

/-- The fields a tag holds. -/
def tagFields (t : BitVec 128) : TagF :=
  ⟨fieldOf t 127 124, fieldOf t 123 118, fieldOf t 117 112, fieldOf t 111 96, fieldOf t 95 64, fieldOf t 63 40,
    fieldOf t 39 32, fieldOf t 31 24, fieldOf t 23 16⟩

/-- Bits [127:16] of the tag of some fields. -/
def TagF.body (f : TagF) : Nat :=
  (f.kind % 16) * 2 ^ 108 + (f.fmt % 64) * 2 ^ 102 + (f.flags % 64) * 2 ^ 96 + (f.tensor % 2 ^ 16) * 2 ^ 80
    + (f.row % 2 ^ 32) * 2 ^ 48 + (f.col % 2 ^ 24) * 2 ^ 24 + (f.vrows % 256) * 2 ^ 16 + (f.vcols % 256) * 2 ^ 8
    + f.step % 256

/-- CHECK over bits [127:16], most significant byte first (R54). -/
def tagCheck (body : Nat) : Nat := (crc16 (beBytes 14 body)).toNat

/-- The tag of some fields, with its CHECK. -/
def TagF.encode (f : TagF) : BitVec 128 := BitVec.ofNat 128 (f.body * 2 ^ 16 + tagCheck f.body)

/-- CHECK matches. -/
def tagCheckOk (t : BitVec 128) : Bool := tagCheck (fieldOf t 127 16) == fieldOf t 15 0

/-! FLAGS bits, counted from bit [112]: 5 rows_masked, 4 cols_masked, 3 winnow, 2 transposed, 1 last_in_pass, 0 replay
(Table TAG-3). -/

def flRowsMasked : Nat := 32
def flColsMasked : Nat := 16
def flWinnow : Nat := 8
def flTransposed : Nat := 4
def flLastInPass : Nat := 2
def flReplay : Nat := 1

def TagF.flag (f : TagF) (bit : Nat) : Bool := (f.flags / bit) % 2 == 1

/-! ### Tile shapes (R56) -/

/-- Column width W of a format (Table TAG-5). -/
def tileW (f : Fmt) : Nat :=
  match f.elem with
  | .fp32 | .bf16 | .fp16 | .uint10 | .uint12 => 128
  | .e2m1 | .int4 => 512
  | _ => 256

/-- Elements per granule of VCOLS. -/
def tileGran (f : Fmt) : Nat := if tileW f = 512 then 2 else 1

/-- Full count of column granules. -/
def tileGrans (f : Fmt) : Nat := tileW f / tileGran f

/-- 256-byte units of a full tile's payload (Table TAG-5). -/
def tileUnits (f : Fmt) : Nat := 128 * tileW f * f.bits / 8 / 256

/-- Scales per row of a full tile. -/
def tileScales (f : Fmt) : Nat := tileW f / 32

/-- The mask flags that an extent calls for (Table TAG-3); `full` is the kind's full column count. -/
def maskFlags (vrows vcols full : Nat) : Nat :=
  (if vrows + 1 < 128 then flRowsMasked else 0) + (if vcols + 1 < full then flColsMasked else 0)

/-- Element (i, j) of a tile whose payload rows are `W` long. -/
def tileAt (t : Tile) (W i j : Nat) : Nat := t.elems.getD (i * W + j) 0

/-- Columns of the valid part (R57). -/
def TagF.validCols (f : TagF) (fm : Fmt) : Nat := (f.vcols + 1) * tileGran fm

/-- Element (i, j) of a tile is not masked: inside the valid part and inside the tensor (R57). -/
def TagF.elemValid (f : TagF) (fm : Fmt) (rows cols i j : Nat) : Bool :=
  decide (i ≤ f.vrows) && decide (j < f.validCols fm) && decide (f.row + i < rows)
    && decide (f.col * tileW fm + j < cols)

/-- The logical element index of R62. -/
def elemIndex (cols r c : Nat) : Nat := (r * cols + c) % 2 ^ 48

/-! ### The tag checks (Table TAG-4) -/

/-- Units that receive tiles. -/
inductive TileUnit where
  | loom | sieve | gate | commons | pair | bells | reeve
  deriving DecidableEq, Repr

/-- The kinds a unit accepts (check 2 of Table TAG-4). DESIGN CHOICE (log 39): the manual lists no kinds per unit; a Loom
takes data tiles, pass-end markers and scale blocks, a Sieve data tiles and scale blocks, the Gate data tiles, the Commons and
a pair data tiles, scale blocks and checksums, the Bells signals, and a Reeve page headers. -/
def TileUnit.accepts : TileUnit → Nat → Bool
  | .loom, k => k ≤ 2
  | .sieve, k => k == 0 || k == 2
  | .gate, k => k == 0
  | .commons, k => k == 0 || k == 2 || k == 3
  | .pair, k => k == 0 || k == 2 || k == 3
  | .bells, k => k == 4
  | .reeve, k => k == 5

/-- Fields marked 0 in Table TAG-2 are 0 and FMT is listed (check 3). -/
def TagF.zerosOk (f : TagF) : Bool :=
  if f.kind = 4 then
    f.fmt == 0 && f.flags == 0 && f.tensor / 2 ^ 15 == 0 && f.col / 16 == 0 && f.vrows == 0 && f.vcols == 0
  else if f.kind = 5 then f.flags == 0 && (Fmt.ofCode f.fmt).isSome
  else (Fmt.ofCode f.fmt).isSome

/-- The extents lie within Table TAG-5 (check 4). -/
def TagF.extentOk (f : TagF) (fm : Fmt) : Bool :=
  if f.kind = 4 then true
  else if f.kind = 5 then decide (f.vrows ≤ 0x3F) && decide (f.vcols < tileGrans fm)
  else if f.kind = 2 then decide (f.vrows ≤ 0x7F) && decide (f.vcols < tileScales fm)
  else decide (f.vrows ≤ 0x7F) && decide (f.vcols < tileGrans fm)

/-- The mask flags agree with the extents, and winnow is clear at a Loom, Sieve or Gate (check 5). -/
def TagF.flagsOk (f : TagF) (fm : Fmt) (u : TileUnit) : Bool :=
  if f.kind ≤ 3 then
    let full := if f.kind = 2 then tileScales fm else tileGrans fm
    (f.flag flRowsMasked == decide (f.vrows + 1 < 128)) && (f.flag flColsMasked == decide (f.vcols + 1 < full))
      && (!f.flag flWinnow || u == .commons || u == .pair)
  else true

/-- The entry of a tensor table. -/
def findTensor (ts : List TensorDecl) (id : Nat) : Option TensorDecl := ts.find? fun t => t.id == id

/-- The checks of Table TAG-4 in order: the reason of the first that fails. `ts` is the current kernel's tensor table,
`step` bits [7:0] of the step the unit runs, `scaled` says that the tile's scale block directly precedes it. -/
def tagFault (u : TileUnit) (ts : List TensorDecl) (step : Nat) (scaled : Bool) (tag : BitVec 128) : Option Nat :=
  let f := tagFields tag
  if !tagCheckOk tag then some 0x01
  else if f.kind ≥ 6 || !u.accepts f.kind then some 0x02
  else if !f.zerosOk then some 0x03
  else
    let fm := (Fmt.ofCode f.fmt).getD .fp32
    if !f.extentOk fm then some 0x04
    else if !f.flagsOk fm u then some 0x05
    else if f.kind = 4 then (if f.step ≠ step % 256 then some 0x08 else none)
    else
      match findTensor ts f.tensor with
      | none => some 0x06
      | some t =>
        if t.fmt ≠ fm || (f.kind ≠ 1 && f.flag flTransposed ≠ t.viewOf.isSome) then some 0x07
        else if f.step ≠ step % 256 then some 0x08
        else if f.kind = 0 && fm.isMx && (u == .loom || u == .sieve) && !scaled then some 0x09
        else none

/-- The tag of a data tile of a tensor at (row, col) with some valid rows and columns (R51 to R57). -/
def dataTag (t : TensorDecl) (row col vr vc step : Nat) : TagF :=
  let vcols := ceilDiv vc (tileGran t.fmt) - 1
  ⟨0, t.fmt.code, maskFlags (vr - 1) vcols (tileGrans t.fmt) + (if t.viewOf.isSome then flTransposed else 0), t.id, row,
    col, vr - 1, vcols, step % 256⟩

/-- A tag with a flag set, and a new CHECK (R53, R54). -/
def setTagFlag (tag : BitVec 128) (bit : Nat) : BitVec 128 :=
  let f := tagFields tag
  if f.flag bit then tag else { f with flags := f.flags + bit }.encode

/-- The pass-end marker that names the stationary tile of a tag (R52, R74). -/
def markerTag (tag : BitVec 128) (step : Nat) : BitVec 128 :=
  let f := tagFields tag
  { f with kind := 1, flags := f.flags / 16 % 4 * 16, step := step % 256 }.encode

/-- The tag of the scale block of that tile (R56). -/
def scaleTag (t : TensorDecl) (row col vr vc step : Nat) : TagF :=
  let n := ceilDiv vc 32
  ⟨2, t.fmt.code, maskFlags (vr - 1) (n - 1) (tileScales t.fmt) + (if t.viewOf.isSome then flTransposed else 0), t.id,
    row, col, vr - 1, n - 1, step % 256⟩

end Sys2Proof.Machine
end

