-- ==== Sys2Proof/Config.lean ====
section
/-! DEFINITION. The values the manual leaves open. Every constant here is opaque: no proof can see its value, so a
statement about a result that uses one holds for every value it could have. -/

namespace Sys2Proof.Config

/-- DESIGN CHOICE (log 2). A fresh open value: State.freeCount numbers the uses. It stands for a value that the manual
says is open in time: which sectors a stopped command had begun (R240),
the bit errors of a margining test (R262). -/
opaque freeValue : Nat → BitVec 64

/-- DESIGN CHOICE (log 2). A byte of memory whose contents the manual leaves undefined, by use and physical address: a
pseudo-channel after a margining test (R262), a sector that cannot be corrected, read by the host (R258), lost storage (R445). -/
opaque freeByte : Nat → Nat → Byte

/-- DESIGN CHOICE (log 9). By how many FP32 steps EXP2 of an operand departs from the nearest value. R479: one fixed
function of the operand, its bits left open. Machine/Special.lean keeps the result inside the bound of R121. -/
opaque exp2Deviation : Word → Int

/-- DESIGN CHOICE (log 9). As exp2Deviation, for LOG2 and the bound of R122. -/
opaque log2Deviation : Word → Int

/-- DESIGN CHOICE (log 10). The reading of PLDM sensor `n` at use `k` (R404 names the sensors, no rule gives a value). -/
opaque sensorReading : Nat → Nat → BitVec 32

/-- DESIGN CHOICE (log 7). Imwen's PCI vendor ID, which R393 names without its number. -/
opaque pciVendor : BitVec 16

/-- DESIGN CHOICE (log 11). A byte of the PDR repository (R404 names its contents, DSP0248 lays it out, and the manual
gives no record's bytes), by record handle and offset. -/
opaque pdrByte : Nat → Nat → Byte

/-- DESIGN CHOICE (log 11). The version of a PLDM type that GetPLDMVersion answers: the manual gives none. -/
opaque pldmVersion : Nat → BitVec 32

/-- DESIGN CHOICE (log 26). The device virtual addresses of prefix node i: its tokens at 2·i, its page table at 2·i + 1. The
manual gives no place for either (Table ATTN-5). -/
opaque nodeAddress : Nat → BitVec 64

/-- DESIGN CHOICE (log 26). One less than the number of buckets of the prefix node table: no rule gives it (R193, R195). -/
opaque nodeBucketsM1 : Nat

/-- DESIGN CHOICE (log 22). The effective ACLK that the power manager derives from a cap, by limit (1 power, 2 thermal), cap
value and use: no rule gives it (R455). Machine/Power.lean brings it into the range of R455. -/
opaque capClock : Nat → Nat → Nat → BitVec 32

/-- DESIGN CHOICE (log 32). The scale byte of an MX block of a transposed copy, by the scales that its elements have in the
working copy: the elements move as they are (R234), and no rule gives a scale to a block whose elements had several. -/
opaque transScale : List Nat → Byte

end Sys2Proof.Config
end

