-- ==== Sys2Proof/Machine/Special.lean ====
section
/-! DEFINITION. EXP2, LOG2 and the functions composed from them (06_sieve.md, R119 to R126, R479), and Firefly's random
bits (12_firefly.md, R288 to R291). -/

namespace Sys2Proof.Machine

/-! ### Order of FP32 words -/

/-- Place of an FP32 word that is no NaN on the number line: adjacent words have adjacent places. -/
def f32Key (w : Word) : Int := if w.msb then -((w.toNat % 2 ^ 31 : Nat) : Int) else (w.toNat : Int)

/-- The word at a place; place 0 is +0. -/
def f32OfKey (k : Int) : Word := if k < 0 then BitVec.ofNat 32 (2 ^ 31 + k.natAbs) else BitVec.ofNat 32 k.toNat

def clampInt (lo hi x : Int) : Int := if x < lo then lo else if hi < x then hi else x

/-- A deviation of at most two steps, and never down past an earlier result: the largest place that the words at `k`,
`k − 1`, `k − 2` and `k − 3` reach. Monotone in k whatever `dev` is (R123). -/
def devKey (dev : Word → Int) (k : Int) : Int :=
  let at_ (j : Int) : Int := j + clampInt (-2) 2 (dev (f32OfKey j))
  max (max (at_ k) (at_ (k - 1))) (max (at_ (k - 2)) (at_ (k - 3)))

/-! ### EXP2 (R121) -/

/-- ⌊2^(2^−i) × 2^96⌋ for i from 1. -/
def exp2Consts : List Nat := [
  0x16A09E667F3BCC908B2FB1366,
  0x1306FE0A31B7152DE8D5A4630,
  0x1172B83C7D517ADCDF7C8C50E,
  0x10B5586CF9890F6298B92B718,
  0x1059B0D31585743AE7C548EB6,
  0x102C9A3E778060EE6F7CACA4F,
  0x10163DA9FB33356D84A66AE33,
  0x100B1AFA5ABCBED6129AB13EC,
  0x10058C86DA1C09EA1FF19D294,
  0x1002C605E2E8CEC506D21BFC8,
  0x100162F3904051FA128BCA9C5,
  0x1000B175EFFDC76BA38E31671,
  0x100058BA01FB9F96D6CACD4B1,
  0x10002C5CC37DA9491D0985C34,
  0x1000162E525EE054754457D59,
  0x10000B17255775C040618BF4A,
  0x1000058B91B5BC9AE2EED81E9,
  0x100002C5C89D5EC6CA4D7C8AC,
  0x10000162E43F4F831060E02D8,
  0x100000B1721BCFC99D9F890EA,
  0x10000058B90CF1E6D97F9CA14,
  0x1000002C5C863B73F016468F6,
  0x100000162E430E5A18F6119E3,
  0x1000000B1721835514B86E6D9,
  0x100000058B90C0B48C6BE5DF8,
  0x10000002C5C8601CC6B9E9421,
  0x1000000162E42FFF037DF38AA,
  0x10000000B17217FBA9C739AA5] ++ [
  0x1000000058B90BFCDEE5ACD3C,
  0x100000002C5C85FE31F35A6A3,
  0x10000000162E42FF0999CE354,
  0x100000000B17217F80F4EF5AA,
  0x10000000058B90BFBF8479BD5,
  0x1000000002C5C85FDF84BD62A,
  0x100000000162E42FEFB2FED25,
  0x1000000000B17217F7D5A7716,
  0x100000000058B90BFBE9DDBAC,
  0x10000000002C5C85FDF4B15DE,
  0x1000000000162E42FEFA494F1,
  0x10000000000B17217F7D20CF9,
  0x1000000000058B90BFBE8F71C,
  0x100000000002C5C85FDF477B6,
  0x10000000000162E42FEFA3AE5,
  0x100000000000B17217F7D1D35,
  0x10000000000058B90BFBE8E8B,
  0x1000000000002C5C85FDF4741,
  0x100000000000162E42FEFA39F,
  0x1000000000000B17217F7D1CF,
  0x100000000000058B90BFBE8E7,
  0x10000000000002C5C85FDF473,
  0x1000000000000162E42FEFA39,
  0x10000000000000B17217F7D1C,
  0x1000000000000058B90BFBE8E,
  0x100000000000002C5C85FDF47,
  0x10000000000000162E42FEFA3]

/-- 2^(0.b1 b2 …) × 2^96 for the bits of a fraction F / 2^P, most significant first. -/
def exp2Frac (F : Nat) (acc : Nat) : Nat → List Nat → Nat
  | 0, _ => acc
  | _, [] => acc
  | P + 1, c :: cs => exp2Frac F (if bitOf F P then acc * c / 2 ^ 96 else acc) P cs

/-- The FP32 place nearest to 2^x for a finite x in (−127, 128) that is no integer. -/
def exp2Base (n : Bool) (m : Nat) (e : Int) : Int :=
  if floorLog2 m e < -30 then f32Key f32One
  else
    let P := (-e).toNat
    let v : Int := scaled n m e (-(P : Int))
    let I : Int := v / ((2 ^ P : Nat) : Int)
    let F := (v % ((2 ^ P : Nat) : Int)).toNat
    f32Key (f32Round (.fin false (exp2Frac F (2 ^ 96) P exp2Consts) (I - 96)))

/-- EXP2 with the result before the range is judged: exact at integers, monotone, within 3 ulp (R121, R123). The bits
that R121 leaves open are Config.exp2Deviation (R479). -/
def exp2Val (w : Word) : FVal :=
  match f32Val w with
  | .nan => .nan
  | .inf true => .fin false 0 0
  | .inf false => .inf false
  | .fin n m e =>
    if m = 0 then .fin false 1 0
    else
      let big := decide (7 ≤ floorLog2 m e)
      if big && !n then .fin false 1 128
      else if big && n then .fin false 0 0
      else if 0 ≤ e || m % 2 ^ (-e).toNat = 0 then
        .fin false 1 (if 0 ≤ e then scaled n m e 0 else (if n then -((m / 2 ^ (-e).toNat : Nat) : Int) else ((m / 2 ^ (-e).toNat : Nat) : Int)))
      else
        let b := exp2Base n m e
        let lo := (b / 2 ^ 23) * 2 ^ 23
        let hi := if b % 2 ^ 23 = 0 then lo else lo + 2 ^ 23
        if b < 2 ^ 23 then .fin false 0 0
        else f32Val (f32OfKey (clampInt lo hi (devKey Config.exp2Deviation b)))

/-- EXP2 as an intermediate or final value before conversion. For x below −126 whose exact result lies below 2^−126 it
is +0 (R121). -/
def exp2F (w : Word) : FVal :=
  match exp2Val w with
  | .fin n m e => if m ≠ 0 ∧ floorLog2 m e < -126 then .fin false 0 0 else .fin n m e
  | v => v

/-- EXP2 rounded to FP32, overflow to infinity (R120, intermediate values). -/
def f32Exp2 (w : Word) : Word := f32Round (exp2F w)

/-! ### LOG2 (R122) -/

/-- The first `n` fraction bits of log2(m / 2^192) for m in [2^192, 2^193), by repeated squaring. -/
def log2Bits (m acc : Nat) : Nat → Nat
  | 0 => acc
  | n + 1 =>
    let q := m * m / 2 ^ 192
    if 2 ^ 193 ≤ q then log2Bits (q / 2) (2 * acc + 1) n else log2Bits q (2 * acc) n

/-- log2 of a positive finite number as a multiple of 2^−60, truncated. -/
def log2Fix (m : Nat) (e : Int) : Int :=
  let k := m.log2
  (floorLog2 m e) * 2 ^ 60 + ((log2Bits (m * 2 ^ (192 - k)) 0 60 : Nat) : Int)

/-- Least place at or above which, and greatest place at or below which, a result whose exact value lies strictly
between two integers stays. -/
def intKeys (v : Int) : Int × Int :=
  let fl := v / 2 ^ 60
  (f32Key (f32Round (FVal.ofInt fl)), f32Key (f32Round (FVal.ofInt (fl + 1))))

/-- LOG2 (R122, R123): exact at powers of two, monotone, inside its bounds; the open bits are Config.log2Deviation. -/
def f32Log2 (w : Word) : Word :=
  match f32Val w with
  | .nan => f32Nan
  | .inf true => f32Nan
  | .inf false => f32PosInf
  | .fin n m e =>
    if m = 0 then f32NegInf
    else if n then f32Nan
    else if m = 2 ^ m.log2 then f32Round (FVal.ofInt (floorLog2 m e))
    else
      let v := log2Fix m e
      let b := f32Key (f32Round (.fin (decide (v < 0)) v.natAbs (-60)))
      let (lo, hi) := intKeys v
      f32OfKey (clampInt lo hi (devKey Config.log2Deviation b))

/-! ### Lane operations on FP32 words (R118, R119) -/

def f32IsNan (w : Word) : Bool := (f32Val w).isNan
def f32IsInf (w : Word) : Bool := w == f32PosInf || w == f32NegInf
def f32IsZero (w : Word) : Bool := (f32Val w).isZero
/-- Magnitude and negation of a word; a NaN stays the canonical NaN. -/
def f32Abs (w : Word) : Word := if f32IsNan w then f32Nan else w &&& 0x7FFFFFFF#32
def f32Neg (w : Word) : Word := if f32IsNan w then f32Nan else w ^^^ 0x80000000#32
/-- A word as a result: NaN canonical, a subnormal flushed (R37, R117). -/
def f32Canon (w : Word) : Word := f32Round (f32Val w)
def f32Lt (a b : Word) : Bool := (f32Val a).lt (f32Val b)
/-- MAX and MIN (R119). -/
def f32Max (a b : Word) : Word :=
  if f32IsNan a || f32IsNan b then f32Nan
  else if f32IsZero a && f32IsZero b then (if (f32Val a).neg? && (f32Val b).neg? then 0x80000000#32 else f32Zero)
  else if f32Lt a b then f32Canon b else f32Canon a
def f32Min (a b : Word) : Word :=
  if f32IsNan a || f32IsNan b then f32Nan
  else if f32IsZero a && f32IsZero b then (if (f32Val a).neg? || (f32Val b).neg? then 0x80000000#32 else f32Zero)
  else if f32Lt b a then f32Canon b else f32Canon a
def f32CmpLt (a b : Word) : Word := if f32Lt a b then f32One else f32Zero
def f32CmpEq (a b : Word) : Word := if (f32Val a).eqNum (f32Val b) then f32One else f32Zero
/-- SELECT tests c ≠ 0; a NaN in c selects a. -/
def f32Select (a b c : Word) : Word := if f32IsZero c then f32Canon b else f32Canon a
/-- COPYSIGN: the magnitude of a with the sign of b. DEDUCED (log 13): a NaN in b has the sign of the canonical NaN, +, since a
Sieve reads every NaN as that (R30). -/
def f32CopySign (a b : Word) : Word :=
  if f32IsNan a then f32Nan else (f32Canon a &&& 0x7FFFFFFF#32) ||| (b &&& 0x80000000#32)

/-! ### Composed functions (R124, R125) -/

def cL2E : Word := 0x3FB8AA3B#32
def cM2L2E : Word := 0xC038AA3B#32
def cNegLN2 : Word := 0xBF317218#32
def cKG : Word := 0x3EBBA795#32
def cC1 : Word := 0x3D372713#32
def cC2 : Word := 0xC0135761#32
def cSMin : Word := 0x32800000#32
def cHalf : Word := 0x3F000000#32
def cNegHalf : Word := 0xBF000000#32
/-- −2^120 (R129). -/
def maskValue : Word := 0xFB800000#32

/-- What the inputs of Table SIEVE-3 are. -/
inductive SpecialIn where
  | negInf | negZero | posZero | posInf | nan | negFinite | other
  deriving DecidableEq, Repr

def specialIn (w : Word) : SpecialIn :=
  match f32Val w with
  | .nan => .nan
  | .inf true => .negInf
  | .inf false => .posInf
  | .fin true 0 _ => .negZero
  | .fin false 0 _ => .posZero
  | .fin true _ _ => .negFinite
  | .fin false _ _ => .other

/-- e^x; the last EXP2 as a value, for R120's final results. DEDUCED (log 13): where x × L2E overflows, an intermediate value, the
result is an EXP2 of an infinity and so an infinity uncounted. -/
def expEVal (x : Word) : FVal :=
  match specialIn x with
  | .negInf => .fin false 0 0
  | .negZero | .posZero => .fin false 1 0
  | .posInf => .inf false
  | .nan => .nan
  | _ => exp2F (f32Mul x cL2E)

/-- fma as a value that is rounded later. -/
def fmaVal (a b c : Word) : FVal := ((f32Val a).mul (f32Val b)).add (f32Val c)
def mulVal (a b : Word) : FVal := (f32Val a).mul (f32Val b)

/-- A sign put on a value. -/
def copySignVal (v : FVal) (s : Word) : FVal := if s.msb then v.abs.negate else v.abs

/-- rcp (R124, Table SIEVE-3). -/
def rcpVal (a : Word) : FVal :=
  match specialIn a with
  | .negInf => .fin true 0 0
  | .negZero => .inf true
  | .posZero => .inf false
  | .posInf => .fin false 0 0
  | .nan => .nan
  | _ =>
    let r := f32Exp2 (f32Neg (f32Log2 (f32Abs a)))
    if f32IsZero r || f32IsInf r then copySignVal (f32Val r) a
    else
      let e := f32Fma (f32Neg (f32Abs a)) r f32One
      copySignVal (fmaVal r e r) a
def f32Rcp (a : Word) : Word := f32Round (rcpVal a)

/-- rsqrt (R124, Table SIEVE-3). -/
def rsqrtVal (a : Word) : FVal :=
  match specialIn a with
  | .negInf | .nan | .negFinite => .nan
  | .negZero => .inf true
  | .posZero => .inf false
  | .posInf => .fin false 0 0
  | .other =>
    let r := f32Exp2 (f32Mul cNegHalf (f32Log2 a))
    if f32IsZero r || f32IsInf r || f32IsNan r then f32Val r
    else
      let t := f32Mul r r
      let h := f32Mul cHalf a
      let e := f32Fma (f32Neg h) t cHalf
      fmaVal r e r
def f32Rsqrt (a : Word) : Word := f32Round (rsqrtVal a)

/-- sigmoid. -/
def sigmoidVal (x : Word) : FVal :=
  match specialIn x with
  | .negInf => .fin false 0 0
  | .negZero | .posZero => f32Val cHalf
  | .posInf => .fin false 1 0
  | .nan => .nan
  | _ => rcpVal (f32Add f32One (f32Exp2 (f32Neg (f32Mul x cL2E))))
def f32Sigmoid (x : Word) : Word := f32Round (sigmoidVal x)

/-- SiLU. -/
def siluVal (x : Word) : FVal :=
  match specialIn x with
  | .negInf | .negZero => .fin true 0 0
  | .posZero => .fin false 0 0
  | .posInf => .inf false
  | .nan => .nan
  | _ => mulVal x (f32Sigmoid x)

/-- tanh. -/
def tanhVal (x : Word) : FVal :=
  match specialIn x with
  | .negInf => .fin true 1 0
  | .negZero => .fin true 0 0
  | .posZero => .fin false 0 0
  | .posInf => .fin false 1 0
  | .nan => .nan
  | _ =>
    if f32Lt (f32Abs x) 0x39800000#32 then f32Val x
    else
      let t := f32Exp2 (f32Mul cM2L2E (f32Abs x))
      copySignVal (mulVal (f32Sub f32One t) (f32Rcp (f32Add f32One t))) x

/-- GELU, tanh form. -/
def geluVal (x : Word) : FVal :=
  match specialIn x with
  | .negInf | .negZero => .fin true 0 0
  | .posZero => .fin false 0 0
  | .posInf => .inf false
  | .nan => .nan
  | _ =>
    let q := f32Fma cC1 (f32Mul x x) f32One
    let v := f32Mul cC2 (f32Mul x q)
    mulVal x (f32Rcp (f32Add f32One (f32Exp2 v)))

/-- The Gumbel transform of a 24-bit uniform (R126). -/
def gumbelVal (r : Nat) : FVal :=
  let u := f32Round (.fin false (2 * (r / 2) + 1) (-24))
  let s := f32Max (f32Neg (f32Log2 u)) cSMin
  fmaVal cNegLN2 (f32Log2 s) cKG

/-! ### Firefly (R288 to R291) -/

/-- x modulo 2^64. -/
def w64 (x : Nat) : Nat := x % 2 ^ 64

def ffG : Nat := 0x9E3779B97F4A7C15

/-- mix64 (R288). -/
def mix64 (z : Nat) : Nat :=
  let z := w64 ((z ^^^ (z / 2 ^ 30)) * 0xBF58476D1CE4E5B9)
  let z := w64 ((z ^^^ (z / 2 ^ 27)) * 0x94D049BB133111EB)
  z ^^^ (z / 2 ^ 31)

/-- The shift triples of Table FIRE-1. -/
def ffTriple : Nat → Nat × Nat × Nat
  | 0 => (21, 35, 4) | 1 => (20, 41, 5) | 2 => (17, 31, 8) | 3 => (11, 29, 14)
  | 4 => (14, 29, 11) | 5 => (30, 35, 13) | 6 => (21, 37, 4) | _ => (21, 43, 4)

def shl64 (x n : Nat) : Nat := w64 (x * 2 ^ n)
def shr64 (x n : Nat) : Nat := x / 2 ^ n

/-- One step of feedback variant v (R289). -/
def ffStep (v x : Nat) : Nat :=
  let (a, b, c) := ffTriple (v % 8)
  if v < 8 then
    let x := x ^^^ shl64 x a
    let x := x ^^^ shr64 x b
    x ^^^ shl64 x c
  else
    let x := x ^^^ shr64 x a
    let x := x ^^^ shl64 x b
    x ^^^ shr64 x c

/-- An F₂-linear map of 64 bits, as the images of its unit vectors; applied to a number. -/
def f2Apply (cols : List Nat) (x : Nat) : Nat :=
  (cols.foldl (fun (p : Nat × Nat) c => (p.1 / 2, if p.1 % 2 = 1 then p.2 ^^^ c else p.2)) (x, 0)).2

/-- The matrix of one step. -/
def ffMatrix (v : Nat) : List Nat := (numsFrom 0 64).map fun i => ffStep v (2 ^ i)

/-- n steps, by the jump matrices M^(2^j) of n's set bits (R289). -/
def ffJump (cols : List Nat) (n x : Nat) : Nat → Nat
  | 0 => x
  | k + 1 =>
    let x := if n % 2 = 1 then f2Apply cols x else x
    if n / 2 = 0 then x else ffJump (cols.map (f2Apply cols)) (n / 2) x k

/-- The fields of a view entry (Table FIRE-3). -/
def fireflyView (e : List Byte) : FireflyView :=
  let k := leAt e 12 1
  { seed := leAt e 0 8, stream := leAt e 8 4, dist := k % 4, seedSrc := bitOf k 2, stepStream := bitOf k 3, p := leAt e 14 2,
    refTensor := leAt e 16 2 }

/-- A view entry passes its CRC-32C, and its reserved fields and dist are not reserved values (R292, R294). -/
def fireflyEntryOk (e : List Byte) : Bool :=
  e.length == 32 && (crc32c (e.take 28)).toNat == leAt e 28 4 && decide (leAt e 12 1 < 16) && (fireflyView e).dist != 3
    && zeroAt e 13 1 && zeroAt e 18 10

/-- The Firefly function (R288): 32 bits for a seed, a stream and a 48-bit index. -/
def firefly (seed stream index : Nat) : Nat :=
  let v := index % 16
  let n := index / 16
  let x := mix64 (w64 (seed + stream * ffG + (v + 1) * 0xA0761D6478BD642F))
  let x := if x = 0 then ffG else x
  let x := ffJump (ffMatrix v) n x 44
  let t := w64 ((x ^^^ (x / 2 ^ 29)) * 0xD6E8FEB86659FD93)
  let t := w64 ((t ^^^ (t / 2 ^ 32)) * 0xE7037ED1A0B428DB)
  t / 2 ^ 32

/-! The Firefly ROM: T[k] for 64 entries a number, the first in the low bits. T[k] is Φ⁻¹(0.5 + k ÷ 4,096) rounded to
nearest FP32 (R291). -/

def gaussRom0 : Nat := 0x3D1DF4EC3D1B72C13D18F09A3D166E773D13EC583D116A3C3D0EE8243D0C660F3D09E3FE3D0761F03D04DFE63D025DDF3CFFB7B53CFAB3B33CF5AFB83CF0ABC23CEBA7D23CE6A3E93CE1A0043CDC9C263CD7984C3CD294793CCD90AA3CC88CE03CC3891B3CBE855B3CB981A03CB47DE93CAF7A373CAA76893CA572DF3CA06F393C9B6B973C9667F93C91645F3C8C60C83C875D353C8259A53C7AAC303C70A51D3C669E0F3C5C97073C5290053C4889073C3E820F3C347B1B3C2A742C3C206D413C16665A3C0C5F763C0258963BF0A3733BDC95C03BC888113BB47A683BA06CC33B8C5F223B70A3093B4887D43B206CA33AF0A2EE3AA06C9C3A206C9A00000000
def gaussRom1 : Nat := 0x3D9F54DC3D9E130C3D9CD13F3D9B8F773D9A4DB23D990BF23D97CA353D96887B3D9546C63D9405143D92C3663D9181BB3D9040143D8EFE713D8DBCD13D8C7B353D8B399C3D89F8063D88B6743D8774E53D86335A3D84F1D23D83B04D3D826ECB3D812D4D3D7FD7A43D7D54B43D7AD1CA3D784EE73D75CC093D7349323D70C6603D6E43953D6BC0CF3D693E0F3D66BB553D6438A13D61B5F23D5F33493D5CB0A53D5A2E073D57AB6E3D5528DA3D52A64C3D5023C33D4DA13F3D4B1EC03D489C463D4619D03D4397603D4114F53D3E928E3D3C102C3D398DCF3D370B763D3489223D3206D23D2F84873D2D023F3D2A7FFD3D27FDBE3D257B833D22F94D3D20771A
def gaussRom2 : Nat := 0x3DEFEE433DEEAB373DED68323DEC25323DEAE2373DE99F433DE85C553DE7196C3DE5D6893DE493AC3DE350D43DE20E023DE0CB363DDF886F3DDE45AE3DDD02F33DDBC03D3DDA7D8C3DD93AE13DD7F83B3DD6B59A3DD572FF3DD430693DD2EDD93DD1AB4D3DD068C73DCF26463DCDE3CA3DCCA1533DCB5EE23DCA1C753DC8DA0D3DC797AB3DC6554D3DC512F43DC3D0A03DC28E513DC14C073DC009C23DBEC7813DBD85453DBC430E3DBB00DB3DB9BEAD3DB87C833DB73A5F3DB5F83E3DB4B6223DB3740B3DB231F83DB0EFEA3DAFADE03DAE6BDA3DAD29D83DABE7DB3DAAA5E23DA963EE3DA821FD3DA6E0113DA59E283DA45C443DA31A643DA1D8883DA096B0
def gaussRom3 : Nat := 0x3E2073A33E1FD13E3E1F2EDC3E1E8C7E3E1DEA243E1D47CE3E1CA57C3E1C032E3E1B60E43E1ABE9E3E1A1C5C3E197A1D3E18D7E33E1835AC3E1793793E16F14A3E164F1F3E15ACF73E150AD33E1468B33E13C6973E13247E3E12826A3E11E0583E113E4B3E109C413E0FFA3A3E0F58383E0EB6383E0E143D3E0D72453E0CD0503E0C2E5F3E0B8C723E0AEA883E0A48A13E09A6BE3E0904DF3E0863023E07C12A3E071F543E067D823E05DBB33E0539E83E0498203E03F65B3E03549A3E02B2DC3E0211213E016F6A3E00CDB53E002C043DFF14AC3DFDD1563DFC8E073DFB4ABE3DFA077B3DF8C43F3DF781093DF63DD93DF4FAAF3DF3B78B3DF2746D3DF13155
def gaussRom4 : Nat := 0x3E4930C83E488D3E3E47E9B83E4746383E46A2BD3E45FF473E455BD63E44B86A3E4415033E4371A13E42CE443E422AEC3E4187993E40E44B3E4041013E3F9DBD3E3EFA7E3E3E57433E3DB40D3E3D10DC3E3C6DB03E3BCA883E3B27663E3A84483E39E12F3E393E1A3E389B0A3E37F7FF3E3754F93E36B1F73E360EFA3E356C013E34C90D3E34261E3E3383333E32E04D3E323D6B3E319A8E3E30F7B53E3054E13E2FB2113E2F0F463E2E6C7F3E2DC9BC3E2D26FE3E2C84453E2BE18F3E2B3EDE3E2A9C313E29F9893E2956E53E28B4453E2811A93E276F123E26CC7F3E2629F03E2587653E24E4DE3E24425C3E239FDE3E22FD633E225AED3E21B87B3E21160D
def gaussRom5 : Nat := 0x3E72401F3E719B283E70F6373E70514D3E6FAC693E6F078B3E6E62B33E6DBDE13E6D19163E6C74513E6BCF923E6B2AD83E6A86263E69E1793E693CD23E6898313E67F3963E674F013E66AA723E6605E93E6561673E64BCE93E6418723E6374013E62CF963E622B303E6186D03E60E2763E603E223E5F99D43E5EF58B3E5E51493E5DAD0B3E5D08D43E5C64A23E5BC0763E5B1C503E5A782F3E59D4143E592FFE3E588BEE3E57E7E43E5743DF3E569FDF3E55FBE63E5557F13E54B4023E5410193E536C353E52C8563E52247D3E5180A93E50DCDA3E5039113E4F954D3E4EF18F3E4E4DD63E4DAA223E4D06733E4C62C93E4BBF253E4B1B863E4A77EC3E49D458
def gaussRom6 : Nat := 0x3E8DDA153E8D86BE3E8D33693E8CE0193E8C8CCC3E8C39843E8BE63E3E8B92FD3E8B3FBF3E8AEC853E8A994F3E8A461C3E89F2ED3E899FC13E894C993E88F9753E88A6543E8853373E88001E3E87AD083E8759F63E8706E73E86B3DC3E8660D43E860DD03E85BAD03E8567D23E8514D93E84C1E33E846EF03E841C013E83C9163E83762D3E8323493E82D0673E827D893E822AAF3E81D7D83E8185043E8132343E80DF673E808C9E3E8039D83E7FCE2A3E7F28AB3E7E83323E7DDDC13E7D38563E7C92F23E7BED943E7B483D3E7AA2EC3E79FDA23E79585E3E78B3213E780DEA3E7768BA3E76C3903E761E6D3E7579503E74D43A3E742F293E738A203E72E51C
def gaussRom7 : Nat := 0x3EA2D0513EA27BF43EA2279C3EA1D3483EA17EF83EA12AAC3EA0D6653EA082233EA02DE43E9FD9AA3E9F85753E9F31433E9EDD163E9E88ED3E9E34C93E9DE0A93E9D8C8D3E9D38753E9CE4613E9C90523E9C3C473E9BE8403E9B943E3E9B403F3E9AEC453E9A984F3E9A445D3E99F06F3E999C853E9948A03E98F4BE3E98A0E13E984D083E97F9333E97A5623E9751953E96FDCC3E96AA073E9656463E9602893E95AED03E955B1C3E95076B3E94B3BE3E9460153E940C703E93B8CF3E9365323E9311993E92BE043E926A723E9216E53E91C35C3E916FD63E911C543E90C8D63E90755C3E9021E63E8FCE743E8F7B053E8F279A3E8ED4333E8E80D03E8E2D71
def gaussRom8 : Nat := 0x3EB80D5F3EB7B7D03EB762473EB70CC33EB6B7443EB661CA3EB60C553EB5B6E63EB5617B3EB50C163EB4B6B53EB461593EB40C033EB3B6B13EB361653EB30C1D3EB2B6DB3EB2619D3EB20C643EB1B7313EB162023EB10CD83EB0B7B33EB062933EB00D783EAFB8613EAF63503EAF0E433EAEB93B3EAE64383EAE0F3A3EADBA403EAD654C3EAD105C3EACBB713EAC668A3EAC11A83EABBCCC3EAB67F33EAB13203EAABE513EAA69873EAA14C13EA9C0013EA96B453EA9168D3EA8C1DA3EA86D2C3EA818823EA7C3DD3EA76F3D3EA71AA13EA6C60A3EA671773EA61CE93EA5C85F3EA573DA3EA51F593EA4CADD3EA476653EA421F23EA3CD833EA379193EA324B3
def gaussRom9 : Nat := 0x3ECD9CC33ECD45D33ECCEEE93ECC98053ECC41273ECBEA4F3ECB937D3ECB3CB13ECAE5EA3ECA8F293ECA386E3EC9E1B93EC98B0A3EC934603EC8DDBC3EC8871E3EC830863EC7D9F33EC783663EC72CDF3EC6D65E3EC67FE23EC6296C3EC5D2FB3EC57C903EC5262B3EC4CFCC3EC479713EC4231D3EC3CCCE3EC376853EC320413EC2CA033EC273CA3EC21D973EC1C7693EC171413EC11B1E3EC0C5013EC06EE93EC018D73EBFC2CA3EBF6CC23EBF16C03EBEC0C43EBE6ACC3EBE14DA3EBDBEEE3EBD69063EBD13243EBCBD483EBC67703EBC119E3EBBBBD23EBB660A3EBB10483EBABA8B3EBA64D33EBA0F213EB9B9733EB963CB3EB90E283EB8B88B3EB862F2
def gaussRom10 : Nat := 0x3EE38B243EE3329E3EE2DA1E3EE281A63EE229343EE1D0C83EE178643EE120063EE0C7AF3EE06F5F3EE017153EDFBED23EDF66963EDF0E603EDEB6313EDE5E083EDE05E63EDDADCB3EDD55B63EDCFDA83EDCA5A03EDC4D9F3EDBF5A43EDB9DB03EDB45C33EDAEDDB3EDA95FB3EDA3E203ED9E64C3ED98E7F3ED936B83ED8DEF73ED8873D3ED82F893ED7D7DB3ED780343ED728923ED6D0F83ED679633ED621D53ED5CA4D3ED572CC3ED51B503ED4C3DB3ED46C6C3ED415033ED3BDA13ED366443ED30EEE3ED2B79E3ED260543ED209103ED1B1D23ED15A9A3ED103683ED0AC3D3ED055173ECFFDF83ECFA6DE3ECF4FCB3ECEF8BD3ECEA1B63ECE4AB43ECDF3B8
def gaussRom11 : Nat := 0x3EF9E6873EF98C2F3EF931DF3EF8D7963EF87D563EF8231D3EF7C8EB3EF76EC23EF714A03EF6BA863EF660733EF606683EF5AC643EF552693EF4F8743EF49E883EF444A33EF3EAC53EF390EF3EF337203EF2DD593EF283993EF229E13EF1D0303EF176873EF11CE53EF0C34A3EF069B73EF0102B3EEFB6A73EEF5D2A3EEF03B43EEEAA453EEE50DE3EEDF77E3EED9E253EED44D43EECEB893EEC92463EEC390A3EEBDFD53EEB86A83EEB2D813EEAD4623EEA7B4A3EEA22393EE9C92F3EE9702C3EE917303EE8BE3B3EE8654D3EE80C663EE7B3863EE75AAD3EE701DB3EE6A9103EE6504C3EE5F78F3EE59ED93EE5462A3EE4ED813EE494E03EE43C453EE3E3B1
def gaussRom12 : Nat := 0x3F085F4F3F0831193F0802E73F07D4BA3F07A6913F07786D3F074A4D3F071C313F06EE1A3F06C0073F0691F93F0663EE3F0635E93F0607E73F05D9EA3F05ABF13F057DFD3F05500C3F0522203F04F4393F04C6553F0498763F046A9B3F043CC53F040EF23F03E1243F03B35A3F0385953F0357D33F032A163F02FC5D3F02CEA83F02A0F73F02734A3F0245A23F0217FD3F01EA5D3F01BCC13F018F293F0161953F0134063F01067A3F00D8F23F00AB6F3F007DEF3F0050743F0022FD3EFFEB133EFF90343EFF355E3EFEDA8F3EFE7FC93EFE250B3EFDCA543EFD6FA63EFD14FF3EFCBA603EFC5FCA3EFC053B3EFBAAB43EFB50353EFAF5BE3EFA9B4E3EFA40E7
def gaussRom13 : Nat := 0x3F1412963F13E3303F13B3CF3F1384733F13551C3F1325CA3F12F67D3F12C7363F1297F33F1268B53F12397C3F120A483F11DB193F11ABEF3F117CCA3F114DAA3F111E8F3F10EF793F10C0673F10915B3F1062533F1033513F1004533F0FD55A3F0FA6663F0F77763F0F488C3F0F19A63F0EEAC53F0EBBE93F0E8D123F0E5E3F3F0E2F713F0E00A83F0DD1E43F0DA3243F0D746A3F0D45B33F0D17023F0CE8553F0CB9AD3F0C8B0A3F0C5C6B3F0C2DD13F0BFF3C3F0BD0AB3F0BA21F3F0B73973F0B45143F0B16963F0AE81C3F0AB9A73F0A8B363F0A5CCA3F0A2E623F0A00003F09D1A13F09A3473F0974F23F0946A13F0918543F08EA0C3F08BBC93F088D8A
def gaussRom14 : Nat := 0x3F20173F3F1FE67D3F1FB5C23F1F850C3F1F545C3F1F23B13F1EF30C3F1EC26E3F1E91D43F1E61413F1E30B33F1E002B3F1DCFA83F1D9F2C3F1D6EB43F1D3E433F1D0DD73F1CDD713F1CAD103F1C7CB53F1C4C603F1C1C103F1BEBC63F1BBB813F1B8B413F1B5B083F1B2AD33F1AFAA53F1ACA7C3F1A9A583F1A6A393F1A3A213F1A0A0D3F19D9FF3F19A9F73F1979F43F1949F63F1919FD3F18EA0A3F18BA1D3F188A343F185A523F182A743F17FA9C3F17CAC93F179AFB3F176B333F173B6F3F170BB23F16DBF93F16AC463F167C973F164CEE3F161D4B3F15EDAC3F15BE133F158E7F3F155EF03F152F663F14FFE13F14D0613F14A0E73F1471723F144201
def gaussRom15 : Nat := 0x3F2C79063F2C46B63F2C146E3F2BE22B3F2BAFF03F2B7DBB3F2B4B8C3F2B19643F2AE7433F2AB5283F2A83143F2A51063F2A1EFF3F29ECFE3F29BB043F2989103F2957233F29253C3F28F35C3F28C1823F288FAE3F285DE13F282C1A3F27FA593F27C89F3F2796EB3F27653E3F2733973F2701F63F26D05B3F269EC73F266D383F263BB03F260A2F3F25D8B33F25A73E3F2575CF3F2544663F2513033F24E1A63F24B0503F247EFF3F244DB53F241C713F23EB333F23B9FA3F2388C83F23579C3F2326763F22F5563F22C43C3F2293283F22621A3F2231123F2200103F21CF143F219E1E3F216D2D3F213C433F210B5E3F20DA7F3F20A9A73F2078D43F204806
def gaussRom16 : Nat := 0x3F3945A63F39118D3F38DD7B3F38A9713F38756F3F3841753F380D823F37D9963F37A5B33F3771D63F373E023F370A343F36D66F3F36A2B03F366EFA3F363B4A3F3607A23F35D4023F35A0693F356CD73F35394D3F3505C93F34D24E3F349ED93F346B6C3F3438063F3404A83F33D1503F339E003F336AB73F3337763F33043B3F32D1083F329DDB3F326AB63F3237983F3204813F31D1723F319E693F316B673F31386D3F3105793F30D28D3F309FA73F306CC83F3039F13F3007203F2FD4563F2FA1933F2F6ED73F2F3C223F2F09743F2ED6CD3F2EA42C3F2E71933F2E3F003F2E0C743F2DD9EE3F2DA7703F2D74F83F2D42873F2D101D3F2CDDB93F2CAB5C
def gaussRom17 : Nat := 0x3F468D613F4657383F4621173F45EAFF3F45B4F03F457EEA3F4548ED3F4512F83F44DD0D3F44A72A3F44714F3F443B7D3F4405B43F43CFF43F439A3C3F43648D3F432EE73F42F9493F42C3B33F428E263F4258A23F4223263F41EDB33F41B8483F4182E53F414D8B3F4118393F40E2F03F40ADAF3F4078763F4043463F400E1D3F3FD8FE3F3FA3E63F3F6ED73F3F39D03F3F04D13F3ECFDA3F3E9AEB3F3E66053F3E31273F3DFC503F3DC7823F3D92BC3F3D5DFE3F3D29483F3CF49A3F3CBFF43F3C8B573F3C56C13F3C22323F3BEDAC3F3BB92E3F3B84B83F3B50493F3B1BE33F3AE7843F3AB32D3F3A7EDE3F3A4A963F3A16573F39E21F3F39ADEF3F3979C6
def gaussRom18 : Nat := 0x3F5463C23F542B333F53F2AD3F53BA323F5381C13F53495B3F5310FF3F52D8AD3F52A0653F5268273F522FF43F51F7CA3F51BFAB3F5187963F514F8B3F51178A3F50DF933F50A7A63F506FC23F5037E93F50001A3F4FC8543F4F90993F4F58E73F4F213F3F4EE9A13F4EB20C3F4E7A823F4E43013F4E0B893F4DD41C3F4D9CB83F4D655D3F4D2E0C3F4CF6C53F4CBF883F4C88533F4C51293F4C1A083F4BE2F03F4BABE23F4B74DD3F4B3DE23F4B06EF3F4AD0073F4A99273F4A62513F4A2B843F49F4C13F49BE073F4987553F4950AD3F491A0F3F48E3793F48ACED3F4876693F483FEF3F48097E3F47D3163F479CB63F4766603F4730133F46F9CF3F46C394
def gaussRom19 : Nat := 0x3F62E09E3F62A53E3F6269EB3F622EA43F61F3693F61B83A3F617D173F6142003F6106F63F60CBF73F6091043F60561D3F601B413F5FE0723F5FA5AF3F5F6AF73F5F304B3F5EF5AB3F5EBB163F5E808D3F5E46103F5E0B9E3F5DD1383F5D96DD3F5D5C8E3F5D224A3F5CE8123F5CADE53F5C73C43F5C39AE3F5BFFA33F5BC5A33F5B8BAF3F5B51C63F5B17E93F5ADE163F5AA44F3F5A6A933F5A30E13F59F73B3F59BDA03F5984103F594A8B3F5911113F58D7A23F589E3E3F5864E53F582B963F57F2523F57B91A3F577FEC3F5746C83F570DB03F56D4A23F569B9E3F5662A63F5629B83F55F0D43F55B7FB3F557F2D3F5546693F550DB03F54D5013F549C5C
def gaussRom20 : Nat := 0x3F7221883F71E2D53F71A4303F71659A3F7127123F70E8983F70AA2D3F706BD03F702D823F6FEF413F6FB10F3F6F72EB3F6F34D53F6EF6CD3F6EB8D33F6E7AE73F6E3D093F6DFF393F6DC1763F6D83C23F6D461B3F6D08823F6CCAF73F6C8D7A3F6C500A3F6C12A73F6BD5533F6B980C3F6B5AD23F6B1DA63F6AE0873F6AA3753F6A66713F6A297A3F69EC913F69AFB43F6972E53F6936233F68F96E3F68BCC73F68802C3F68439E3F68071E3F67CAAA3F678E433F6751E93F67159C3F66D95C3F669D283F6661013F6624E73F65E8DA3F65ACD93F6570E53F6534FD3F64F9223F64BD543F6481923F6445DC3F640A333F63CE963F6393063F6357813F631C09
def gaussRom21 : Nat := 0x3F8125FB3F8104A33F80E3533F80C20D3F80A0CF3F807F9A3F805E6D3F803D493F801C2E3F7FF6363F7FB4213F7F721D3F7F302B3F7EEE493F7EAC783F7E6AB83F7E29093F7DE76A3F7DA5DC3F7D645F3F7D22F33F7CE1963F7CA04B3F7C5F0F3F7C1DE43F7BDCCA3F7B9BC03F7B5AC53F7B19DB3F7AD9023F7A98383F7A577E3F7A16D53F79D63B3F7995B13F7955373F7914CD3F78D4723F7894283F7853ED3F7813C13F77D3A53F7793993F77539C3F7713AF3F76D3D03F7694023F7654423F7614923F75D4F13F7595603F7555DD3F7516693F74D7053F7497AF3F7458693F7419313F73DA093F739AEF3F735BE43F731CE73F72DDF93F729F1A3F72604A
def gaussRom22 : Nat := 0x3F89C8383F89A4723F8980B83F895D083F8939623F8915C83F88F2383F88CEB23F88AB373F8887C73F8864613F8841053F881DB43F87FA6D3F87D7313F87B3FE3F8790D63F876DB93F874AA53F87279C3F87049C3F86E1A73F86BEBC3F869BDB3F8679033F8656363F8633733F8610B93F85EE0A3F85CB643F85A8C83F8586363F8563AD3F85412E3F851EB93F84FC4E3F84D9EC3F84B7943F8495453F8473003F8450C43F842E923F840C693F83EA493F83C8333F83A6263F8384233F8362293F8340383F831E503F82FC713F82DA9C3F82B8D03F82970D3F8275523F8253A13F8231F93F82105A3F81EEC43F81CD373F81ABB33F818A383F8168C53F81475C
def gaussRom23 : Nat := 0x3F9317D03F92F1073F92CA4C3F92A39F3F927CFF3F92566C3F922FE63F92096D3F91E3023F91BCA43F9196533F91700F3F9149D83F9123AE3F90FD913F90D7803F90B17D3F908B863F90659C3F903FBE3F9019ED3F8FF4293F8FCE713F8FA8C63F8F83273F8F5D943F8F380E3F8F12943F8EED263F8EC7C53F8EA2703F8E7D263F8E57E93F8E32B83F8E0D933F8DE87A3F8DC36D3F8D9E6B3F8D79763F8D548C3F8D2FAE3F8D0ADC3F8CE6153F8CC15A3F8C9CAB3F8C78073F8C536E3F8C2EE13F8C0A603F8BE5E93F8BC17F3F8B9D1F3F8B78CB3F8B54823F8B30443F8B0C113F8AE7E93F8AC3CD3F8A9FBB3F8A7BB53F8A57B93F8A33C83F8A0FE33F89EC08
def gaussRom24 : Nat := 0x3F9D41543F9D16B63F9CEC293F9CC1AE3F9C97443F9C6CEB3F9C42A33F9C186C3F9BEE463F9BC4313F9B9A2D3F9B703A3F9B46573F9B1C853F9AF2C43F9AC9123F9A9F723F9A75E13F9A4C613F9A22F13F99F9913F99D0423F99A7023F997DD23F9954B23F992BA23F9902A23F98D9B13F98B0D03F9887FE3F985F3C3F98368A3F980DE63F97E5523F97BCCE3F9794583F976BF23F97439A3F971B523F96F3183F96CAEE3F96A2D23F967AC53F9652C73F962AD83F9602F73F95DB243F95B3603F958BAB3F9564033F953C6B3F9514E03F94ED643F94C5F63F949E953F9477433F944FFF3F9428C93F9401A13F93DA863F93B37A3F938C7B3F93658A3F933EA6
def gaussRom25 : Nat := 0x3FA884D53FA8552C3FA8259A3FA7F6203FA7C6BD3FA797703FA7683B3FA7391C3FA70A143FA6DB223FA6AC473FA67D823FA64ED33FA6203B3FA5F1B83FA5C34B3FA594F43FA566B33FA538873FA50A713FA4DC703FA4AE843FA480AD3FA452EC3FA4253F3FA3F7A83FA3CA253FA39CB63FA36F5D3FA342173FA314E73FA2E7CA3FA2BAC23FA28DCD3FA260ED3FA234213FA207683FA1DAC43FA1AE333FA181B53FA1554B3FA128F43FA0FCB13FA0D0813FA0A4643FA0785A3FA04C633FA0207F3F9FF4AE3F9FC8EF3F9F9D433F9F71AA3F9F46233F9F1AAE3F9EEF4C3F9EC3FC3F9E98BE3F9E6D933F9E42793F9E17713F9DEC7B3F9DC1973F9D96C43F9D6C03
def gaussRom26 : Nat := 0x3FB543A83FB50D103FB4D6993FB4A0423FB46A0C3FB433F73FB3FE013FB3C82C3FB392763FB35CE03FB327693FB2F2113FB2BCD83FB287BF3FB252C33FB21DE73FB1E9283FB1B4883FB180053FB14BA13FB1175A3FB0E3313FB0AF243FB07B363FB047643FB013AE3FAFE0163FAFAC9A3FAF793A3FAF45F73FAF12D03FAEDFC43FAEACD53FAE7A013FAE47483FAE14AB3FADE2283FADAFC13FAD7D753FAD4B433FAD192D3FACE7303FACB54E3FAC83863FAC51D83FAC20443FABEECA3FABBD693FAB8C223FAB5AF43FAB29E03FAAF8E43FAAC8023FAA97383FAA66873FAA35EF3FAA05703FA9D5083FA9A4B93FA974823FA944633FA9145C3FA8E46C3FA8B495
def gaussRom27 : Nat := 0x3FC41D1D3FC3DC5C3FC39BCD3FC35B6F3FC31B433FC2DB483FC29B7D3FC25BE33FC21C783FC1DD3D3FC19E313FC15F543FC120A53FC0E2253FC0A3D23FC065AD3FC027B63FBFE9EB3FBFAC4C3FBF6EDA3FBF31943FBEF47A3FBEB78B3FBE7AC73FBE3E2E3FBE01C03FBDC57B3FBD89613FBD4D713FBD11A93FBCD60B3FBC9A963FBC5F493FBC24253FBBE9293FBBAE543FBB73A73FBB39223FBAFEC33FBAC48B3FBA8A7A3FBA508F3FBA16CA3FB9DD2B3FB9A3B13FB96A5D3FB9312E3FB8F8233FB8BF3E3FB8867D3FB84DDF3FB815663FB7DD113FB7A4DF3FB76CD13FB734E53FB6FD1D3FB6C5773FB68DF43FB656923FB61F533FB5E8363FB5B13B3FB57A60
def gaussRom28 : Nat := 0x3FD633B03FD5E2853FD591AF3FD5412E3FD4F1023FD4A1283FD451A13FD4026C3FD3B3873FD364F33FD316AD3FD2C8B73FD27B0E3FD22DB33FD1E0A43FD193E13FD147693FD0FB3B3FD0AF573FD063BC3FD0186A3FCFCD5F3FCF829C3FCF381F3FCEEDE83FCEA3F63FCE5A493FCE10E03FCDC7BB3FCD7ED83FCD36383FCCEDDA3FCCA5BD3FCC5DE13FCC16453FCBCEE93FCB87CB3FCB40ED3FCAFA4C3FCAB3E93FCA6DC43FCA27DA3FC9E22D3FC99CBC3FC957853FC9128A3FC8CDC83FC889403FC844F23FC800DC3FC7BCFF3FC7795A3FC735EC3FC6F2B63FC6AFB63FC66CEC3FC62A583FC5E7FA3FC5A5D13FC563DC3FC5221C3FC4E08F3FC49F363FC45E10
def gaussRom29 : Nat := 0x3FEDFCB23FED8C1F3FED1C423FECAD193FEC3EA13FEBD0D83FEB63BB3FEAF7493FEA8B7E3FEA20593FE9B5D63FE94BF53FE8E2B23FE87A0C3FE812003FE7AA8D3FE743B03FE6DD673FE677B23FE6128D3FE5ADF63FE549ED3FE4E66F3FE4837B3FE4210F3FE3BF293FE35DC73FE2FCE83FE29C8A3FE23CAD3FE1DD4D3FE17E6A3FE120033FE0C2153FE064A03FE007A23FDFAB1A3FDF4F053FDEF3643FDE98353FDE3D763FDDE3263FDD89443FDD2FCF3FDCD6C53FDC7E263FDC25F03FDBCE223FDB76BA3FDB1FB93FDAC91D3FDA72E43FDA1D0E3FD9C79A3FD972863FD91DD23FD8C97C3FD875843FD821E93FD7CEAA3FD77BC63FD7293C3FD6D70A3FD68531
def gaussRom30 : Nat := 0x400973C740090FCC4008AD1B40084BAB4007EB7340078C6B40072E8A4006D1C84006761E40061B854005C1F640056969400511D94004BB3F40046596400410D74003BCFE40036A04400317E54002C69B40027623400226764001D7924001897040013C0E4000EF674000A3784000583B40000DAF3FFF879D3FFEF52E3FFE64093FFDD4293FFD45873FFCB81C3FFC2BE43FFBA0D73FFB16F13FFA8E2C3FFA06833FF97FF03FF8FA6F3FF875FB3FF7F28E3FF770253FF6EEBB3FF66E4C3FF5EED23FF5704B3FF4F2B23FF476033FF3FA3A3FF37F543FF3054D3FF28C213FF213CD3FF19C4D3FF1259F3FF0AFBE3FF03AA83FEFC65A3FEF52D03FEEE0083FEE6DFF
def gaussRom31 : Nat := 0x405F2CB740530537404B9EAC404639A84041F3E3403E66BD403B5AB44038AE3E40364B844034237840322B4940305AEA402EAC34402D1A57402BA17E402A3E8C4028EEF24027B0914026819E4025609440244C244023432F402244B940214FE9402063FB401F8045401EA42F401DCF31401D00D0401C38A0401B763B401AB949401A017840194E7B4018A00F4017F5F440174FF14016ADD140160F61401574754014DCE2401448804013B72B401328C040129D204012142D40118DC9401109DC4010884C40100902400F8BE8400F10EA400E97F3400E20F1400DABD2400D3887400CC6FF400C572C400BE8FF400B7C6A400B1161400AA7D8400A3FC24009D915
def gaussRom32 : Nat := 0x40C00000

def gaussRom : List Nat := [
    gaussRom0, gaussRom1, gaussRom2, gaussRom3, gaussRom4, gaussRom5, gaussRom6, gaussRom7,
    gaussRom8, gaussRom9, gaussRom10, gaussRom11, gaussRom12, gaussRom13, gaussRom14, gaussRom15,
    gaussRom16, gaussRom17, gaussRom18, gaussRom19, gaussRom20, gaussRom21, gaussRom22, gaussRom23,
    gaussRom24, gaussRom25, gaussRom26, gaussRom27, gaussRom28, gaussRom29, gaussRom30, gaussRom31,
    gaussRom32]

/-- T[k] (R291). -/
def gaussT (k : Nat) : Word := BitVec.ofNat 32 ((gaussRom.getD (k / 64) 0) / 2 ^ (32 * (k % 64)))

/-- The 24-bit uniform of an element (Table FIRE-2). -/
def ffUniform (out : Nat) : Nat := out / 2 ^ 8

/-- GAUSSIAN (R291). -/
def ffGauss (out : Nat) : Word :=
  let s := bitOf out 31
  let k := bitsOf out 30 20
  let f := f32Round (.fin false (bitsOf out 19 4) (-16))
  let m := f32Min (f32Fma f (f32Sub (gaussT (k + 1)) (gaussT k)) (gaussT k)) 0x40C00000#32
  if f32IsZero m then f32Zero else if s then f32Neg m else m

/-- The value of a view's element under a distribution (Table FIRE-2). -/
def ffValue (dist p out : Nat) : Word :=
  match dist with
  | 0 => f32Round (.fin false (ffUniform out) (-24))
  | 1 => if bitsOf out 31 16 < p then f32One else f32Zero
  | _ => ffGauss out

end Sys2Proof.Machine
end

