-- ==== Sys2Proof/Machine/SieveCore.lean ====
section
/-! DEFINITION. The arithmetic of the Sieve (06_sieve.md): the fields of an operation, element-wise functions, the fixed
order of row reductions, softmax, normalisation and output conversion. A row is a list with none at the positions that
are masked. -/

namespace Sys2Proof.Machine

/-! ### The operation (Table SIEVE-4) -/

structure SieveOp where
  opcode : Nat
  srcA : Nat
  srcB : Nat
  srcC : Nat
  dst : Nat
  outFmt : Nat
  ieee : Bool
  kA : Nat
  kB : Nat
  maskMode : Nat
  scope : Nat
  groupCols : Nat
  reserved : Nat
  deriving DecidableEq, Repr

def sieveOp (w : BitVec 64) : SieveOp :=
  { opcode := fieldOf w 63 58, srcA := fieldOf w 57 54, srcB := fieldOf w 53 50, srcC := fieldOf w 49 46,
    dst := fieldOf w 45 42, outFmt := fieldOf w 41 36, ieee := flagOf w 35, kA := fieldOf w 34 30, kB := fieldOf w 29 25,
    maskMode := fieldOf w 24 23, scope := fieldOf w 22 21, groupCols := fieldOf w 20 13, reserved := fieldOf w 12 8 }

/-- The fields of SIGNAL and WAIT: Bell index, operation, value, reserved bits. -/
structure SieveBellOp where
  bell : Nat
  op : Nat
  value : Nat
  reserved : Nat
  deriving DecidableEq, Repr

def sieveBellOp (w : BitVec 64) : SieveBellOp :=
  ⟨fieldOf w 57 46, fieldOf w 45 42, fieldOf w 41 10, fieldOf w 9 8⟩

/-- CRC-8 over bits [63:8] (R143). -/
def crc8Ok (w : BitVec 64) : Bool := (crc8 (beBytes 7 (fieldOf w 63 8))).toNat == fieldOf w 7 0

/-- The word of bits [63:8], with its check. -/
def crc8Word (body : Nat) : BitVec 64 := BitVec.ofNat 64 (body * 2 ^ 8 + (crc8 (beBytes 7 body)).toNat)

/-- The opcodes of Table SIEVE-5. -/
def sieveOpcodes : List Nat :=
  [0x00, 0x01, 0x02, 0x03, 0x04, 0x05, 0x06, 0x07, 0x08, 0x09, 0x10, 0x11, 0x12, 0x13, 0x14, 0x15, 0x16, 0x17, 0x18, 0x19,
    0x20, 0x21, 0x22, 0x23, 0x28, 0x29, 0x2A, 0x2B, 0x2C, 0x3C, 0x3D]

/-- The checks of R143 as an operation leaves the queue: the reason of 0x43. A SIGNAL or WAIT with a reserved Bell operation
has reason 0x0B (Table BUND-8). -/
def sieveOpFault (w : BitVec 64) : Option Nat :=
  let o := sieveOp w
  let b := sieveBellOp w
  if !crc8Ok w then some 0x0A
  else if !sieveOpcodes.contains o.opcode then some 0x0B
  else if o.opcode = 0x3C || o.opcode = 0x3D then (if b.op > 3 || b.reserved ≠ 0 then some 0x0B else none)
  else if o.srcA = 0xF || o.dst = 0xF || o.maskMode > 1 || o.scope > 2 || o.reserved ≠ 0
    || (o.scope ≠ 2 && o.groupCols ≠ 0) then some 0x0B
  else none

/-! ### The fixed order of a row reduction (R127) -/

/-- One level of the tree: adjacent nodes pair, a single side passes unchanged. -/
def treeLevel {α : Type} (f : α → α → α) : List (Option α) → List (Option α)
  | some a :: some b :: r => some (f a b) :: treeLevel f r
  | some a :: none :: r => some a :: treeLevel f r
  | none :: b :: r => b :: treeLevel f r
  | [x] => [x]
  | [] => []

/-- `n` levels; what is left first. -/
def treeRun {α : Type} (f : α → α → α) : Nat → List (Option α) → Option α
  | 0, xs => (xs.head?).join
  | n + 1, xs => treeRun f n (treeLevel f xs)

/-- The binary tree over up to 128 positions. -/
def tree128 {α : Type} (f : α → α → α) (xs : List (Option α)) : Option α := treeRun f 7 xs

/-- The binary tree of R115 over any number of inputs. -/
def treeAll {α : Type} (f : α → α → α) (xs : List (Option α)) : Option α := treeRun f (xs.length.log2 + 1) xs

/-- Chunks of n elements. -/
def chunksOf {α : Type} (n : Nat) : Nat → List α → List (List α)
  | 0, _ => []
  | _, [] => []
  | k + 1, xs => xs.take n :: chunksOf n k (xs.drop n)

/-- The chunks of 128 logical columns of a row that starts at column 0. -/
def chunks128 {α : Type} (xs : List α) : List (List α) := chunksOf 128 (xs.length / 128 + 1) xs

/-- Ascending combination of chunk results. -/
def foldOpt {α : Type} (f : α → α → α) (xs : List (Option α)) : Option α :=
  xs.foldl (fun a x =>
    match a, x with
    | none, x => x
    | a, none => a
    | some a, some x => some (f a x)) none

/-- A sum of RSUM, exact until it is used: its operands are rounded to FP32 as the ovf field says (R46, R50), and the flag says
whether a sum inside the tree or between chunks has saturated. -/
def sumIn (ieee : Bool) (a b : FVal × Bool) : FVal × Bool :=
  let x := f32RoundIn (if ieee then .ieee else .sat) a.1
  let y := f32RoundIn (if ieee then .ieee else .sat) b.1
  ((f32Val x.1).add (f32Val y.1), a.2 || b.2 || x.2 || y.2)

/-- A sum whose exact value is zero is +0 (R38). -/
def zeroSum : FVal → FVal
  | .fin _ 0 _ => .fin false 0 0
  | v => v

/-- RSUM of a row, +0 for an empty one, and whether an inner sum has saturated (R127, R128). -/
def rowSum (ieee : Bool) (xs : List (Option Word)) : FVal × Bool :=
  let r := (foldOpt (sumIn ieee) ((chunks128 xs).map fun c => tree128 (sumIn ieee) (c.map fun x => x.map fun w => (f32Val w, false)))).getD
    (.fin false 0 0, false)
  (zeroSum r.1, r.2)

/-- The tree sum of one chunk, as an FP32 word; an empty chunk gives +0. -/
def chunkSum (xs : List (Option Word)) : Word := (tree128 f32Add xs).getD f32Zero

/-- RMAX of a row. -/
def rowMax (xs : List (Option Word)) : Option Word := foldOpt f32Max ((chunks128 xs).map (tree128 f32Max))

/-- The better of two columns: NaN above every number, then the larger, then the lower column (R128). -/
def argBetter (a b : Word × Nat) : Word × Nat :=
  if f32IsNan a.1 then (if f32IsNan b.1 && decide (b.2 < a.2) then b else a)
  else if f32IsNan b.1 then b
  else if f32Lt a.1 b.1 then b
  else if f32Lt b.1 a.1 then a
  else if b.2 < a.2 then b else a

/-- ARGMAX of a row: the column, 0x00FFFFFF for an empty row. -/
def rowArgmax (xs : List (Option Word)) : Nat :=
  match foldOpt argBetter ((xs.zipIdx).map fun (x, j) => x.map fun w => (w, j)) with
  | some p => p.2
  | none => 0x00FFFFFF

/-! ### Soft maximum (R129 to R133) -/

/-- A position of a softmax row: its z, and whether it is score-masked. -/
structure SmaxPos where
  z : Word
  masked : Bool
  deriving DecidableEq, Repr

/-- z = s × k, rounded; score-masked when the mask marks it, z is −∞, or z ≤ MASK_VALUE (R129). -/
def smaxPos (k : Word) (s : Word) (mask : Bool) : SmaxPos :=
  let z := f32Mul s k
  let m := mask || z == f32NegInf || (!f32IsNan z && !f32Lt maskValue z)
  ⟨if m then maskValue else z, m⟩

/-- A softmax row has a NaN or +∞ among the positions that are not score-masked (R133). -/
def smaxBad (xs : List (Option SmaxPos)) : Bool :=
  xs.any fun x => match x with
    | some p => !p.masked && (f32IsNan p.z || p.z == f32PosInf)
    | none => false

/-- exp2(z − m) of the positions of a chunk that enter sums. -/
def smaxExps (m : Word) (c : List (Option SmaxPos)) : List (Option Word) :=
  c.map fun x => match x with
    | some p => if p.masked then none else some (f32Exp2 (f32Sub p.z m))
    | none => none

/-- One chunk of the running pass (R130): (m, l). -/
def smaxChunk (ml : Word × Word) (c : List (Option SmaxPos)) : Word × Word :=
  match tree128 f32Max (c.map fun x => x.map (·.z)) with
  | none => ml
  | some mj =>
    let mn := f32Max ml.1 mj
    let l := f32Mul ml.2 (f32Exp2 (f32Sub ml.1 mn))
    (mn, f32Add l (chunkSum (smaxExps mn c)))

/-- What a softmax row gives: the outputs, m, l, and whether it is a fully masked row. -/
structure SmaxRow where
  out : List (Option Word)
  m : Word
  l : Word
  empty : Bool
  deriving DecidableEq, Repr

/-- The row has a tag-valid position (R132). -/
def SmaxRow.live (x : SmaxRow) : Bool := x.out.any Option.isSome

/-- Outputs of a row that R132 or R133 decides. -/
def smaxFixed (xs : List (Option SmaxPos)) (bad : Word) : List (Option Word) :=
  xs.map fun x => x.map fun p => if p.masked then f32Zero else bad

/-- SMAX_RUN over one row (R130). -/
def smaxRunning (xs : List (Option SmaxPos)) : SmaxRow :=
  if smaxBad xs then ⟨smaxFixed xs f32Nan, f32Nan, f32Nan, false⟩
  else
    let (m, l) := (chunks128 xs).foldl smaxChunk (maskValue, f32Zero)
    if m = maskValue then ⟨smaxFixed xs f32Zero, maskValue, f32Zero, xs.any (·.isSome)⟩
    else
      let r := f32Rcp l
      ⟨xs.map fun x => x.map fun p => if p.masked then f32Zero else f32Mul (f32Exp2 (f32Sub p.z m)) r, m, l, false⟩

/-- e ÷ l as R131 step 3 computes it. -/
def smaxQuot (e l r : Word) : Word :=
  let q0 := f32Mul e r
  let d := f32Fma (f32Neg q0) l e
  f32Fma d r q0

/-- SMAX_EXACT over one row (R131). -/
def smaxExact (xs : List (Option SmaxPos)) : SmaxRow :=
  if smaxBad xs then ⟨smaxFixed xs f32Nan, f32Nan, f32Nan, false⟩
  else
    match rowMax (xs.map fun x => x.map (·.z)) with
    | none => ⟨smaxFixed xs f32Zero, maskValue, f32Zero, false⟩
    | some m =>
      if m = maskValue then ⟨smaxFixed xs f32Zero, maskValue, f32Zero, true⟩
      else
        let l := ((chunks128 xs).map fun c => tree128 f32Add (smaxExps m c)) |> foldOpt f32Add |>.getD f32Zero
        let r := f32Rcp l
        ⟨xs.map fun x => x.map fun p =>
          if p.masked then f32Zero else smaxQuot (f32Exp2 (f32Sub p.z m)) l r, m, l, false⟩

/-- What a block of keys does to a row of the running softmax of attention (R177): m, l, the factor a, and e. -/
structure AttnRow where
  m : Word
  l : Word
  a : Word
  e : List (Option Word)
  deriving DecidableEq, Repr

/-- A row meets a block: none where every key is masked and the row stays as it is (R178), or a NaN was met before; a NaN or
+∞ among the scores makes m and l NaN (R179). -/
def attnBlock (m l : Word) (xs : List (Option SmaxPos)) : Option AttnRow :=
  if f32IsNan m || xs.all (fun x => match x with
    | some p => p.masked
    | none => true) then none
  else if smaxBad xs then some ⟨f32Nan, f32Nan, f32Zero, smaxFixed xs f32Zero⟩
  else
    let mn := f32Max m ((rowMax (xs.map fun x => x.map (·.z))).getD maskValue)
    let a := f32Exp2 (f32Sub m mn)
    some ⟨mn, (chunks128 xs).foldl (fun l c => f32Add l (chunkSum (smaxExps mn c))) (f32Mul l a), a,
      xs.map fun x => x.map fun p => if p.masked then f32Zero else f32Exp2 (f32Sub p.z mn)⟩

/-! ### Normalisation (R135 to R138) -/

/-- An integer count as an FP32 word. -/
def f32OfNat (n : Nat) : Word := f32Round (.fin false n 0)

/-- Statistics of a chunk or of a set. For RMS, `mu` is unused and `m2` is q. -/
structure NormStat where
  n : Nat
  mu : Word
  m2 : Word
  deriving DecidableEq, Repr

/-- The sum of several rows of a chunk: the tree of R127 in each row, the rows in a tree in ascending order (log 13). -/
def blockSum (rows : List (List (Option Word))) : Word :=
  (treeAll f32Add (rows.map (tree128 f32Add))).getD f32Zero

def countOpt {α : Type} (rows : List (List (Option α))) : Nat :=
  natSum (rows.map fun r => (r.filter (·.isSome)).length)

/-- Statistics of one chunk of layer or group normalisation. -/
def chunkStat (rows : List (List (Option Word))) : NormStat :=
  let n := countOpt rows
  if n = 0 then ⟨0, f32Zero, f32Zero⟩
  else
    let mu := f32Mul (blockSum rows) (f32Rcp (f32OfNat n))
    let sq := rows.map fun r => r.map fun x => x.map fun w => let d := f32Sub w mu; f32Mul d d
    ⟨n, mu, blockSum sq⟩

/-- combine (R135). -/
def normCombine (a b : NormStat) : NormStat :=
  if a.n = 0 then b
  else if b.n = 0 then a
  else
    let n := a.n + b.n
    let f := f32Mul (f32OfNat b.n) (f32Rcp (f32OfNat n))
    let d := f32Sub b.mu a.mu
    ⟨n, f32Fma d f a.mu, f32Add (f32Add a.m2 b.m2) (f32Mul (f32Mul d d) (f32Mul (f32OfNat a.n) f))⟩

/-- Statistics of one chunk of RMS normalisation, and their combination. -/
def rmsStat (row : List (Option Word)) : NormStat :=
  ⟨countOpt [row], f32Zero, chunkSum (row.map fun x => x.map fun w => f32Mul w w)⟩
def rmsCombine (a b : NormStat) : NormStat := ⟨a.n + b.n, f32Zero, f32Add a.m2 b.m2⟩

/-- The statistics of a set from its chunks in order. -/
def setStat (f : NormStat → NormStat → NormStat) (cs : List NormStat) : NormStat :=
  (treeAll f (cs.map some)).getD ⟨0, f32Zero, f32Zero⟩

/-- ε' = max(k_a, 2^−126) (R136). -/
def normEps (k : Word) : Word := f32Max k 0x00800000#32

/-- A NaN or an infinity among the unmasked inputs of a set (R138). -/
def setBad (rows : List (List (Option Word))) : Bool :=
  rows.any fun r => r.any fun x => match x with
    | some w => f32IsNan w || f32IsInf w
    | none => false

/-- The factor rsqrt(m2 × rcp(n) + ε'). -/
def normScale (st : NormStat) (eps : Word) : Word :=
  f32Rsqrt (f32Add (f32Mul st.m2 (f32Rcp (f32OfNat st.n))) eps)

/-- One output of layer or group normalisation, before its last rounding (R136, R138). -/
def layerOut (st : NormStat) (sc x g b : Word) : FVal :=
  if st.n = 1 then f32Val b else fmaVal (f32Mul (f32Sub x st.mu) sc) g b

/-- One output of RMS normalisation. -/
def rmsOut (sc x g : Word) : FVal := mulVal (f32Mul x sc) g

/-! ### Output conversion (R120, R139) -/

/-- A final result: rounded to FP32 under the ovf field, with its event. -/
def finalF32 (ieee : Bool) (v : FVal) : Word × Bool := f32RoundIn (if ieee then .ieee else .sat) v

/-- What writing a row of results gives: codes, scales, and the counts of saturated and NaN-lost conversions. -/
structure OutRow where
  codes : List (Option Nat)
  scales : List (Option Nat)
  sat : Nat
  lost : Nat
  deriving DecidableEq, Repr

/-- One result into a format that is not block-scaled; an element counts at most one event (R47). -/
def outElem (fm : Fmt) (ieee : Bool) (v : FVal) : Nat × Bool × Bool :=
  let (w, s) := finalF32 ieee v
  let c := convertElem fm (if ieee then .ieee else .sat) .rne (f32Val w)
  (c.code, s || c.sat, c.lost)

/-- One block of 32 logical columns into an MX format (R35, R36); a block without a result writes no scale (R58). -/
def outBlock (fm : Fmt) (ieee : Bool) (vs : List (Option FVal)) :
    Option Nat × List (Option Nat) × Nat :=
  let ws := vs.map fun x => x.map (finalF32 ieee)
  let r := mxBlock fm ((ws.filterMap id).map fun p => f32Val p.1)
  let scale := r.1
  let es := ws.map fun x => x.map fun p =>
    if scale = 0xFF then (0, p.2) else let c := mxElem fm scale (f32Val p.1); (c.code, p.2 || c.sat)
  (if vs.any Option.isSome then some scale else none, es.map fun x => x.map (·.1), natSum (es.map fun x => match x with
    | some (_, true) => 1
    | _ => 0))

/-- Conversion of a row of results, from logical column 0. -/
def outRow (fm : Fmt) (ieee : Bool) (vs : List (Option FVal)) : OutRow :=
  if fm.isMx then
    let bs := (chunksOf 32 (vs.length / 32 + 1) vs).map (outBlock fm ieee)
    ⟨bs.flatMap (·.2.1), bs.map (·.1), natSum (bs.map (·.2.2)), 0⟩
  else
    let es := vs.map fun x => x.map (outElem fm ieee)
    let cnt (p : Nat × Bool × Bool → Bool) := natSum (es.map fun x => match x with
      | some e => if p e then 1 else 0
      | none => 0)
    ⟨es.map fun x => x.map (·.1), [], cnt (·.2.1), cnt (·.2.2)⟩

end Sys2Proof.Machine
end

