-- ==== Sys2Proof/Machine/GateCore.lean ====
section
/-! DEFINITION. Convolution geometry and the arithmetic of the Gate engine (07_convolution.md, R147 to R171). -/

namespace Sys2Proof.Machine

/-! ### Geometry records (Table CONV-1) -/

/-- One axis of a geometry record (Table CONV-1), with the values, not the values less one. -/
structure Axis where
  ksize : Nat
  stride : Nat
  dilation : Nat
  padLo : Nat
  padHi : Nat
  deriving DecidableEq, Repr

/-- A geometry record. padMode 0 ZERO, 1 CONSTANT, 2 REPLICATE, 3 REFLECT; map 0 dense, 1 diagonal, 2 grouped. -/
structure Geom where
  padMode : Nat
  map : Nat
  tapsM1 : Nat
  groupIn : Nat
  padValue : Word
  x : Axis
  y : Axis
  t : Axis
  deriving DecidableEq, Repr

/-- The record that 32 bytes hold. -/
def parseGeom (bs : List Byte) : Geom :=
  let b0 := leAt bs 0 1
  let ax (o : Nat) : Axis := ⟨leAt bs o 1 + 1, leAt bs (o + 1) 1 + 1, leAt bs (o + 2) 2 + 1, leAt bs (o + 4) 2, leAt bs (o + 6) 2⟩
  { padMode := b0 % 4, map := b0 / 4 % 4, tapsM1 := leAt bs 1 1 % 32, groupIn := leAt bs 2 2,
    padValue := BitVec.ofNat 32 (leAt bs 4 4), x := ax 8, y := ax 16,
    t := ⟨leAt bs 24 1 + 1, leAt bs 25 1 + 1, leAt bs 26 1 + 1, leAt bs 27 1, leAt bs 28 1⟩ }

/-- CRC-16 over bytes 0 to 29 (R148). -/
def geomCheckOk (bs : List Byte) : Bool := (crc16 (bs.take 30)).toNat == leAt bs 30 2

/-- An axis within Table CONV-2; input sizes are checked with the shape ranges. -/
def Axis.inLimits (a : Axis) (k s d p : Nat) : Bool :=
  decide (a.ksize ≤ k) && decide (a.stride ≤ s) && decide (a.dilation ≤ d) && decide (a.padLo ≤ p) && decide (a.padHi ≤ p)

/-- The limits of Table CONV-2, reserved fields and reserved values (R149). -/
def geomOk (bs : List Byte) : Bool :=
  let g := parseGeom bs
  bs.length == 32 && leAt bs 0 1 / 16 == 0 && leAt bs 1 1 / 32 == 0 && leAt bs 29 1 == 0 && decide (g.map < 3)
    && g.x.inLimits 32 64 4096 8191 && g.y.inLimits 32 64 4096 8191 && g.t.inLimits 7 4 8 7

/-- Output size of an axis, and whether the numerator is below 0 (R149). -/
def Axis.outSize (a : Axis) (n : Nat) : Option Nat :=
  let num : Int := (n : Int) + a.padLo + a.padHi - a.dilation * (a.ksize - 1) - 1
  if num < 0 then none else some (num.toNat / a.stride + 1)

/-- The input coordinate of a tap (R151). -/
def Axis.coord (a : Axis) (o k : Nat) : Int := (o : Int) * a.stride - a.padLo + (k : Int) * a.dilation

/-- Number of taps, and the kernel positions of a tap in raster order (R150). -/
def Geom.taps (g : Geom) : Nat := g.t.ksize * g.y.ksize * g.x.ksize
def Geom.tapPos (g : Geom) (tap : Nat) : Nat × Nat × Nat :=
  (tap / (g.y.ksize * g.x.ksize), tap / g.x.ksize % g.y.ksize, tap % g.x.ksize)

/-- REFLECT (Table CONV-3). -/
def reflect (n : Nat) (i : Int) : Nat :=
  if n ≤ 1 then 0
  else
    let q : Int := 2 * ((n : Int) - 1)
    let t := i % q
    if t < n then t.toNat else (q - t).toNat

/-- A coordinate resolved on an axis of size n: none where it is padding under ZERO or CONSTANT (R152). -/
def resolveAxis (padMode n : Nat) (i : Int) : Option Nat :=
  if 0 ≤ i ∧ i < n then some i.toNat
  else match padMode with
    | 2 => some (min (max i 0) ((n : Int) - 1)).toNat
    | 3 => some (reflect n i)
    | _ => none

/-- The input row that output position (oT, oY, oX) reads at a tap, for an input of F frames, H lines and W columns;
none at a padding position under ZERO or CONSTANT (R147, R151, R152). -/
def Geom.inputRow (g : Geom) (F H W : Nat) (oT oY oX tap : Nat) : Option Nat :=
  let (a, b, c) := g.tapPos tap
  match resolveAxis g.padMode F (g.t.coord oT a), resolveAxis g.padMode H (g.y.coord oY b),
        resolveAxis g.padMode W (g.x.coord oX c) with
  | some t, some y, some x => some ((t * H + y) * W + x)
  | _, _, _ => none

/-- Output position of row r of an output with H lines and W columns (R147). -/
def rowPos (H W r : Nat) : Nat × Nat × Nat :=
  if H * W = 0 then (0, 0, 0) else (r / (H * W), r / W % H, r % W)

/-! ### The Gate operation (Table CONV-6) -/

structure GateOp where
  opcode : Nat
  matrix : Nat
  full : Bool
  inFmt : Nat
  outFmt : Nat
  geom : Nat
  src : Nat
  dst : Nat
  wgt : Nat
  bias : Nat
  ieee : Bool
  reserved : Nat
  deriving DecidableEq, Repr

def gateOp (w : BitVec 64) : GateOp :=
  { opcode := fieldOf w 63 60, matrix := fieldOf w 59 58, full := flagOf w 57, inFmt := fieldOf w 56 51,
    outFmt := fieldOf w 50 45, geom := fieldOf w 44 40, src := fieldOf w 39 36, dst := fieldOf w 35 32,
    wgt := fieldOf w 31 28, bias := fieldOf w 27 24, ieee := flagOf w 23, reserved := fieldOf w 22 8 }

/-- The Bell fields of a Gate SIGNAL or WAIT. -/
def gateBellOp (w : BitVec 64) : SieveBellOp := ⟨fieldOf w 59 48, fieldOf w 47 44, fieldOf w 39 8, fieldOf w 43 40⟩

/-- The checks of R168 as an operation leaves the queue. DEDUCED (log 16): slot 0xF, which R142 does not map, is reserved as a
source, a destination and the weights of CONV; as a bias it stands for none. -/
def gateOpFault (w : BitVec 64) : Option Nat :=
  let o := gateOp w
  let b := gateBellOp w
  if !crc8Ok w then some 0x0A
  else if o.opcode = 0xE || o.opcode = 0xF then (if b.op > 3 || b.reserved ≠ 0 then some 0x0B else none)
  else if o.opcode > 3 || o.reserved ≠ 0 || o.matrix > 1 then some 0x0B
  else if o.opcode ≠ 0 && (o.src = 0xF || o.dst = 0xF || (o.opcode = 2 && o.wgt = 0xF)) then some 0x0B
  else none

/-! ### CONV on the Gate (R169) -/

/-- A product of CONV: formed exactly, flushed below 2^−126 and infinite beyond the FP32 range, as an intermediate that counts
nothing (R169). -/
def gateProduct (a b : FVal) : FVal :=
  match a.mul b with
  | .fin n m e =>
    if m = 0 then .fin n 0 0
    else if floorLog2 m e < -126 then .fin n 0 0
    else if 128 ≤ floorLog2 m e then .inf n
    else .fin n m e
  | v => v

/-- A sum of CONV before it is used: rounded to FP32, and saturated where a sum so far has. DESIGN CHOICE (log 16): a partial sum
beyond the FP32 range follows the operation's ovf field, as Table NUM-8 says of overflow, since R169 names products alone as
intermediates. -/
def gateRound (ieee : Bool) (x : FVal × Bool) : FVal × Bool :=
  let r := f32RoundIn (if ieee then .ieee else .sat) x.1
  (f32Val r.1, x.2 || r.2)

/-- The running sum of products in ascending logical K, each addition rounded before the next; the last stays exact until it is
used. -/
def gateSum (ieee : Bool) (acc : FVal × Bool) : List (FVal × FVal) → FVal × Bool
  | [] => acc
  | (a, b) :: ps => let x := gateRound ieee acc; gateSum ieee (x.1.add (gateProduct a b), x.2) ps

/-- One output of a Gate convolution before conversion, and whether a sum inside it has saturated: the bias is added last. -/
def gateConvVal (ieee : Bool) (ps : List (FVal × FVal)) (bias : Option FVal) : FVal × Bool :=
  let s := gateSum ieee (.fin false 0 0, false) ps
  match bias with
  | some b => let x := gateRound ieee s; (x.1.add b, x.2)
  | none => s

/-! ### Colour-space conversion (R170, R171) -/

/-- num ÷ den rounded to nearest FP32, ties to even. -/
def f32OfRat (num : Int) (den : Nat) : Word :=
  let q := num.natAbs * 2 ^ 160 / den
  let r := num.natAbs * 2 ^ 160 % den
  f32Round (.fin (decide (num < 0)) (2 * q + (if r = 0 then 0 else 1)) (-161))

/-- K_R and K_B times 10,000. -/
def cscKr (matrix : Nat) : Nat := if matrix = 0 then 2126 else 2627
def cscKb (matrix : Nat) : Nat := if matrix = 0 then 722 else 593

/-- Bit depth of a video code format. -/
def videoBits (f : Fmt) : Nat :=
  match f with
  | .uint8 => 8 | .uint10 => 10 | _ => 12

/-- Step 1: a luma or chroma code as a fraction, rounded to FP32. -/
def cscLuma (full : Bool) (b D : Nat) : Word :=
  if full then f32OfRat (D : Int) (2 ^ b - 1) else f32OfRat ((D : Int) - ((16 * 2 ^ (b - 8) : Nat) : Int)) (219 * 2 ^ (b - 8))
def cscChroma (full : Bool) (b D : Nat) : Word :=
  let c : Int := (D : Int) - ((2 ^ (b - 1) : Nat) : Int)
  if full then f32OfRat c (2 ^ b - 1) else f32OfRat c (224 * 2 ^ (b - 8))

/-- The coefficients of R170, each rounded to FP32. -/
def cscCr2R (m : Nat) : Word := f32OfRat (2 * (10000 - cscKr m : Nat)) 10000
def cscCb2B (m : Nat) : Word := f32OfRat (2 * (10000 - cscKb m : Nat)) 10000
def cscKrW (m : Nat) : Word := f32OfRat (cscKr m) 10000
def cscKbW (m : Nat) : Word := f32OfRat (cscKb m) 10000
def cscGDen (m : Nat) : Word := f32OfRat (10000 - cscKr m - cscKb m : Nat) 10000

/-- An FP32 quotient, rounded to nearest. -/
def f32Div (a b : Word) : Word :=
  match f32Val a, f32Val b with
  | .nan, _ => f32Nan
  | _, .nan => f32Nan
  | .inf _, .inf _ => f32Nan
  | .inf n, .fin n2 _ _ => f32Round (.inf (n != n2))
  | .fin n _ _, .inf n2 => f32Round (.fin (n != n2) 0 0)
  | .fin n1 m1 e1, .fin n2 m2 e2 =>
    if m2 = 0 then (if m1 = 0 then f32Nan else f32Round (.inf (n1 != n2)))
    else
      let q := m1 * 2 ^ 64 / m2
      let r := m1 * 2 ^ 64 % m2
      f32Round (.fin (n1 != n2) (2 * q + (if r = 0 then 0 else 1)) (e1 - e2 - 65))

/-- Step 3: R′, G′, B′ of a pixel. DESIGN CHOICE (log 16): a step that rounds is each single product, sum and quotient of R170's
formulas, in the order they are written. -/
def cscToRgb (m : Nat) (y cb cr : Word) : Word × Word × Word :=
  let r := f32Add y (f32Mul (cscCr2R m) cr)
  let b := f32Add y (f32Mul (cscCb2B m) cb)
  let g := f32Div (f32Sub (f32Sub y (f32Mul (cscKrW m) r)) (f32Mul (cscKbW m) b)) (cscGDen m)
  (r, g, b)

/-- The mean of two chroma neighbours. -/
def chromaMean (a b : Word) : Word := f32Mul cHalf (f32Add a b)

/-- Chroma of every pixel of a line from the even pixels' samples (step 2). -/
def chromaUp (cs : List Word) (width : Nat) : List Word :=
  (numsFrom 0 width).map fun x =>
    let k := x / 2
    if x % 2 = 0 then cs.getD k f32Zero
    else if x + 1 < width then chromaMean (cs.getD k f32Zero) (cs.getD (k + 1) f32Zero)
    else cs.getD k f32Zero

/-- One line of packed codes Cb₀ Y₀ Cr₀ Y₁ as R′, G′ and B′ (CSC_IN). -/
def cscInLine (m : Nat) (full : Bool) (b width : Nat) (codes : List Nat) : List (Word × Word × Word) :=
  let n := (width + 1) / 2
  let cb := (numsFrom 0 n).map fun k => cscChroma full b (codes.getD (4 * k) 0)
  let cr := (numsFrom 0 n).map fun k => cscChroma full b (codes.getD (4 * k + 2) 0)
  let cbs := chromaUp cb width
  let crs := chromaUp cr width
  (numsFrom 0 width).map fun x =>
    let y := cscLuma full b (codes.getD (4 * (x / 2) + (if x % 2 = 0 then 1 else 3)) 0)
    cscToRgb m y (cbs.getD x f32Zero) (crs.getD x f32Zero)

/-- Y, Cb and Cr of a pixel: the inverse of the matrix step. DESIGN CHOICE (log 16): Y is (K_R R′ + (1 − K_R − K_B) G′) + K_B B′,
and the differences to it are divided by the coefficients of R170; the rule says only that CSC_OUT inverts its steps. -/
def cscFromRgb (m : Nat) (p : Word × Word × Word) : Word × Word × Word :=
  let (r, g, b) := p
  let y := f32Add (f32Add (f32Mul (cscKrW m) r) (f32Mul (cscGDen m) g)) (f32Mul (cscKbW m) b)
  (y, f32Div (f32Sub b y) (cscCb2B m), f32Div (f32Sub r y) (cscCr2R m))

/-- Chroma of even pixel 2k: (c₂ₖ₋₁ + 2c₂ₖ + c₂ₖ₊₁) ÷ 4, replicated at line ends. -/
def chromaDown (cs : List Word) (width k : Nat) : Word :=
  let at_ (x : Nat) : Word := cs.getD (min x (width - 1)) f32Zero
  let l := if k = 0 then at_ 0 else at_ (2 * k - 1)
  f32Mul 0x3E800000#32 (f32Add (f32Add l (f32Mul 0x40000000#32 (at_ (2 * k)))) (at_ (2 * k + 1)))

/-- The protected range of Table CONV-7. -/
def protectedRange (f : Fmt) : Int × Int :=
  match f with
  | .uint8 => (1, 254) | .uint10 => (4, 1019) | _ => (16, 4079)

/-- One code: value × gain + offset rounded to nearest, clamped to the protected range. DESIGN CHOICE (log 16): value × gain +
offset is one exact value, rounded once to FP32 and then to an integer. -/
def cscCode (f : Fmt) (gain offset : Int) (v : Word) : Conv :=
  let (lo, hi) := protectedRange f
  match f32Val v with
  | .nan => ⟨lo.toNat, false, true⟩
  | .inf n => ⟨(if n then lo else hi).toNat, true, false⟩
  | .fin n m e =>
    let scaledV := ((FVal.fin n m e).mul (FVal.ofInt gain)).add (FVal.ofInt offset)
    match f32Val (f32Round scaledV) with
    | .fin n m e =>
      let u : Int := (unitsOf .rne m e 0 : Nat)
      let i := if n then -u else u
      let c := if i < lo then lo else if hi < i then hi else i
      ⟨c.toNat, decide (c ≠ i), false⟩
    | .inf n => ⟨(if n then lo else hi).toNat, true, false⟩
    | .nan => ⟨lo.toNat, false, true⟩

/-- Gain and offset of luma and chroma codes (R170 step 1, inverted). -/
def lumaScale (full : Bool) (b : Nat) : Int × Int :=
  if full then (((2 ^ b - 1 : Nat) : Int), 0) else (((219 * 2 ^ (b - 8) : Nat) : Int), ((16 * 2 ^ (b - 8) : Nat) : Int))
def chromaScale (full : Bool) (b : Nat) : Int × Int :=
  if full then (((2 ^ b - 1 : Nat) : Int), ((2 ^ (b - 1) : Nat) : Int)) else (((224 * 2 ^ (b - 8) : Nat) : Int), ((2 ^ (b - 1) : Nat) : Int))

/-- One line of CSC_OUT: packed codes Cb₀ Y₀ Cr₀ Y₁. -/
def cscOutLine (m : Nat) (full : Bool) (f : Fmt) (px : List (Word × Word × Word)) : List Conv :=
  let b := videoBits f
  let width := px.length
  let ycc := px.map (cscFromRgb m)
  let cbs := ycc.map (·.2.1)
  let crs := ycc.map (·.2.2)
  let (lg, lo) := lumaScale full b
  let (cg, co) := chromaScale full b
  let y (x : Nat) : Conv := cscCode f lg lo ((ycc.map (·.1)).getD x f32Zero)
  ((numsFrom 0 ((width + 1) / 2)).map fun k =>
    [cscCode f cg co (chromaDown cbs width k), y (2 * k), cscCode f cg co (chromaDown crs width k)]
      ++ (if 2 * k + 1 < width then [y (2 * k + 1)] else [])).flatten

end Sys2Proof.Machine
end

