-- ==== Sys2Proof/Machine/GranaryCore.lean ====
section
/-! DEFINITION. The arithmetic of Granary (09_granary.md): command words and page descriptors, the Winnow codec, exact
reductions with their checksums, the AdamW update, and key-value page headers (08_attention_and_kv.md). -/

namespace Sys2Proof.Machine

/-! ### Commands (Table GRAN-2) -/

structure GranCmd where
  opcode : Nat
  slotA : Nat
  slotB : Nat
  slotC : Nat
  slotD : Nat
  ieee : Bool
  sr : Bool
  prio : Nat
  param : Nat
  row : Nat
  col : Nat
  nRows : Nat
  nCols : Nat
  reserved : Nat
  deriving DecidableEq, Repr

def granCmd (w : BitVec 128) : GranCmd :=
  { opcode := fieldOf w 127 122, slotA := fieldOf w 121 118, slotB := fieldOf w 117 114, slotC := fieldOf w 113 110,
    slotD := fieldOf w 109 106, ieee := flagOf w 105, sr := flagOf w 104, prio := fieldOf w 103 102,
    param := fieldOf w 101 98, row := fieldOf w 97 66, col := fieldOf w 65 42, nRows := fieldOf w 41 26 + 1,
    nCols := fieldOf w 25 18 + 1, reserved := fieldOf w 17 16 }

/-- The fields of a Granary SIGNAL or WAIT (R215). -/
structure GranBellOp where
  bell : Nat
  die : Nat
  op : Nat
  value : Nat
  zerosOk : Bool
  deriving DecidableEq, Repr

def granBellOp (w : BitVec 128) : GranBellOp :=
  ⟨fieldOf w 121 110, fieldOf w 109 107, fieldOf w 106 103, fieldOf w 97 66,
    fieldOf w 102 98 == 0 && fieldOf w 65 16 == 0⟩

/-- CRC-16 over bits [127:16] (R212). -/
def granCheckOk (w : BitVec 128) : Bool := tagCheckOk w

/-- The command word of bits [127:16], with its check. -/
def granWord (body : Nat) : BitVec 128 := BitVec.ofNat 128 (body * 2 ^ 16 + tagCheck body)

/-- The opcodes of Table GRAN-3. -/
def granOpcodes : List Nat :=
  [0x00, 0x01, 0x02, 0x03, 0x04, 0x06, 0x08, 0x10, 0x11, 0x12, 0x13, 0x14, 0x15, 0x18, 0x20, 0x21, 0x3C, 0x3D]

/-- The operands that an opcode needs are bound: (a, b, c, d) (Table GRAN-3, R213). -/
def granOperandsOk (c : GranCmd) : Bool :=
  let a := c.slotA != 0xF
  let b := c.slotB != 0xF
  let cc := c.slotC != 0xF
  let d := c.slotD != 0xF
  match c.opcode with
  | 0x01 => a && d
  | 0x02 => !a && d
  | 0x03 => a && d
  | 0x04 => d
  | 0x06 => a && d
  | 0x08 => a && b && d
  | 0x10 => a && d
  | 0x11 => a && b && d
  | 0x12 => a && b && cc && d
  | 0x13 => a && b && cc && d
  | 0x14 => a && cc
  | 0x15 => a && b && d
  | 0x18 => a && b && cc && d
  | _ => true

/-- The checks of R216 as a command leaves its queue. `descs` is how many queue entries stand behind it. -/
def granCmdFault (w : BitVec 128) (descs : Nat) : Option Nat :=
  let c := granCmd w
  if !granCheckOk w then some 0x0A
  else if !granOpcodes.contains c.opcode then some 0x0B
  else if c.opcode = 0x3C || c.opcode = 0x3D then (if !(granBellOp w).zerosOk || (granBellOp w).op > 3 then some 0x0B else none)
  else if c.prio = 3 || c.reserved ≠ 0 || !granOperandsOk c then some 0x0B
  else if c.opcode = 0x06 && (c.nRows = 16 || c.row ≠ 0 || c.col ≠ 0 || c.nCols ≠ 1 || decide (descs < c.nRows))
  then some 0x0B
  else none

/-! ### Winnow (R224 to R227) -/

def Winnow.width : Sys2Proof.Winnow → Nat
  | .w12 => 12 | .w10 => 10 | .w6 => 6

/-- Bytes of a block payload and of a sheaf (Table GRAN-5). -/
def winnowPayload (v : Winnow) : Nat := 8 * Winnow.width v
def winnowSheaf (v : Winnow) : Nat := 32 + 32 * winnowPayload v

/-- floor of log2 of the largest magnitude together with whether that magnitude is at least 2^(t+1) − 2^(t+1−n). -/
def winnowNear (n : Nat) (t : Int) (v : FVal) : Bool :=
  match v with
  | .fin _ m e => !((FVal.fin false m e).lt (.fin false (2 ^ n - 1) (t + 1 - n)))
  | _ => false

/-- A block of 64 positions, none beyond the tensor's columns, as its exponent byte, its element fields and the number
of saturated conversions (R226). -/
def winnowEncode (v : Winnow) (xs : List (Option FVal)) : Nat × List Nat × Nat :=
  let n := Winnow.width v
  let vs := xs.filterMap id
  let infs := (vs.filter fun x => !x.isNan && !x.isFin).length
  if vs.any fun x => !x.isFin then (0xFF, xs.map fun _ => 0, infs)
  else match blockTop vs with
    | none => (0x00, xs.map fun _ => 0, 0)
    | some t =>
      let e : Int := if vs.any (winnowNear n t) then t + 2 else t + 1
      let d : Int := e - n + 1
      ((e + 126).toNat, xs.map fun x => match x with
        | some (.fin s m ex) =>
          let q := unitsOf .rne m ex d
          if q = 0 then 0 else if s then q + 2 ^ (n - 1) else q
        | _ => 0, 0)

/-- The value of an element field under an exponent byte, before its conversion into the tensor's format (R227). -/
def winnowDecode (v : Winnow) (ebyte field : Nat) : FVal :=
  let n := Winnow.width v
  if ebyte = 0 then .fin false 0 0
  else if ebyte = 0xFF then .nan
  else
    let q := field % 2 ^ (n - 1)
    if q = 0 then .fin false 0 0
    else .fin (bitOf field (n - 1)) q ((ebyte : Int) - 126 - n + 1)

/-- The code of a decoded element in the tensor's format. -/
def winnowCode (v : Winnow) (fm : Fmt) (ebyte field : Nat) : Nat :=
  (convertElem fm .sat .rne (winnowDecode v ebyte field)).code

/-- Byte of the sheaf base of a block, of its exponent byte and of its payload (R225). -/
def winnowExpAt (v : Winnow) (block : Nat) : Nat := block / 32 * winnowSheaf v + block % 32
def winnowPayAt (v : Winnow) (block : Nat) : Nat := block / 32 * winnowSheaf v + 32 + block % 32 * winnowPayload v

/-! ### Exact reductions (R232) -/

/-- RED_EXP of a bucket's valid elements. -/
def redExp (vs : List FVal) : Int :=
  if vs.any fun v => !v.isFin then 128
  else match blockTop vs with
    | some t => t
    | none => -127

/-- RED_FIX of one element under its bucket's exponent. -/
def redFix (E : Int) (v : FVal) : Int :=
  if E = 128 then 0
  else match v with
    | .fin n m e =>
      let u : Int := (unitsOf .rne m (e + 44 - E) 0 : Nat)
      if n then -u else u
    | _ => 0

def redP : Int := 2147483647

/-- The checksums c32 and c31 of a segment's integers. -/
def redCheck (is : List Int) : Nat × Nat :=
  let s : Int := is.foldl (· + ·) 0
  (ofSigned 32 s, (is.foldl (fun a i => (a + i % redP) % redP) 0).toNat)

/-- RED_OUT of one integer before conversion. -/
def redOut (E : Int) (i : Int) : FVal := if E = 128 then .nan else (FVal.ofInt i).scale (E - 44)

/-! ### OPT_ADAMW (R234) -/

/-- The FP32 parameters of Table GRAN-4 for OPT_ADAMW. -/
structure AdamParams where
  lr : Word
  beta1 : Word
  omb1 : Word
  beta2 : Word
  omb2 : Word
  eps2 : Word
  lam : Word
  c1 : Word
  c2 : Word
  slotV : Nat
  slotT : Nat
  seed : Nat
  stream : Nat
  deriving DecidableEq, Repr

def adamParams (p : List Byte) : AdamParams :=
  let w (o : Nat) : Word := BitVec.ofNat 32 (leAt p o 4)
  ⟨w 0, w 4, w 8, w 12, w 16, w 20, w 24, w 28, w 32, leAt p 36 1, leAt p 37 1, leAt p 38 8, leAt p 46 4⟩

/-- The results of OPT_ADAMW for one element, each with whether it saturated as a final FP32 result (R120). -/
structure AdamOut where
  m : Word × Bool
  v : Word × Bool
  w : Word × Bool
  deriving DecidableEq, Repr

/-- m1, v1 and w1 of one element from its gradient, master, first and second moment under an overflow mode (R234). DEDUCED
(log 32): u is computed from m1 and v1 as they are written. -/
def adamStep (p : AdamParams) (mode : Ovf) (g w m v : Word) : AdamOut :=
  if f32IsNan g then ⟨(f32Nan, false), (f32Nan, false), (f32Nan, false)⟩
  else
    let m1 := f32RoundIn mode (fmaVal p.beta1 m (f32Mul p.omb1 g))
    let v1 := f32RoundIn mode (fmaVal p.beta2 v (f32Mul p.omb2 (f32Mul g g)))
    let u := f32Mul (f32Mul m1.1 p.c1) (f32Rsqrt (f32Fma v1.1 p.c2 p.eps2))
    ⟨m1, v1, f32RoundIn mode (fmaVal (f32Neg p.lr) (f32Fma p.lam w u) w)⟩

/-- A parameter entry's CRC-32C over bytes 0 to 59 (R213). -/
def paramOk (p : List Byte) : Bool := p.length == 64 && (crc32c (p.take 60)).toNat == leAt p 60 4

/-! ### Key-value pages (R181 to R189) -/

/-- A page descriptor (Table ATTN-4). -/
structure PageDesc where
  frame : Nat
  session : Nat
  isValue : Bool
  shared : Bool
  srcFmt : Nat
  declFmt : Nat
  page : Nat
  layer : Nat
  headGroup : Nat
  headSel : Nat
  deriving DecidableEq, Repr

def pageDesc (w : BitVec 128) : PageDesc :=
  ⟨fieldOf w 127 102, fieldOf w 101 90, flagOf w 89, flagOf w 88, fieldOf w 87 82, fieldOf w 81 76, fieldOf w 75 44,
    fieldOf w 43 32, fieldOf w 31 20, fieldOf w 19 17⟩

/-- A page header (Table ATTN-2). -/
structure PageHeader where
  tag : BitVec 128
  session : Nat
  isValue : Bool
  shared : Bool
  function : Nat
  node : Nat
  step : Nat
  deriving DecidableEq, Repr

def parseHeader (bs : List Byte) : PageHeader :=
  let o := leAt bs 16 2
  ⟨BitVec.ofNat 128 (leAt bs 0 16), o % 4096, bitOf o 12, bitOf o 13, leAt bs 18 1 % 32, leAt bs 20 4, leAt bs 24 4⟩

/-- CRC-32C over bytes 16 to 59 (R183). -/
def headerCrcOk (bs : List Byte) : Bool := (crc32c ((bs.drop 16).take 44)).toNat == leAt bs 60 4

/-- The 64 bytes of a header. -/
def encodeHeader (h : PageHeader) : List Byte :=
  let o := h.session % 4096 + (if h.isValue then 4096 else 0) + (if h.shared then 8192 else 0)
  let body := leBytes 2 o ++ leBytes 1 h.function ++ leBytes 1 0 ++ leBytes 4 h.node ++ leBytes 4 h.step ++ leBytes 32 0
  leBytes 16 h.tag.toNat ++ body ++ leBytes 4 (crc32c body).toNat

/-- Bytes of a page payload: 64 rows of a head group (Table ATTN-1). -/
def pageRowBytes (fm : Fmt) : Nat := tileW fm * fm.bits / 8

/-- The widenings of Table ATTN-6. -/
def widenOk : Fmt → Fmt → Bool
  | .e2m1, t => [Fmt.bf16, .fp16, .e5m2, .e4m3, .e3m2, .e2m3].contains t
  | .e2m3, t => [Fmt.bf16, .fp16, .e4m3].contains t
  | .e3m2, t => [Fmt.bf16, .fp16, .e5m2, .e4m3].contains t
  | .e4m3, t | .e5m2, t | .int8, t => [Fmt.bf16, .fp16].contains t
  | .int4, t => [Fmt.bf16, .fp16, .e5m2, .e4m3, .e3m2, .int8].contains t
  | _, _ => false

/-- Formats a cache tensor may hold (R181). -/
def cacheFmtOk (f : Fmt) : Bool :=
  [Fmt.bf16, .fp16, .e4m3, .e5m2, .e3m2, .e2m3, .e2m1, .int8, .int4].contains f

/-- A page-table entry (Table ATTN-3): state 0 ABSENT, 1 VALID, 2 DROPPED, 3 SHARED. -/
structure PageEntry where
  state : Nat
  pinned : Bool
  fmt : Nat
  target : Nat
  deriving DecidableEq, Repr

def PageEntry.word (e : PageEntry) : Nat :=
  e.state * 2 ^ 62 + (if e.pinned then 2 ^ 61 else 0) + e.fmt * 2 ^ 54 + e.target

/-- The hash of a run of conditioning tokens (R194). -/
def runHash (prev : Nat) (toks : List Nat) : Nat :=
  (crc64 (beBytes 8 prev ++ [BitVec.ofNat 8 toks.length] ++ (toks.map (beBytes 4)).flatten)).toNat

/-! ### The interleave (R244) -/

/-- The pseudo-channel index, 0 to 127, of a die offset. -/
def pcIndex (offset : Nat) : Nat :=
  let g := offset / 4096
  (g % 128) ^^^ (g / 128 % 128) ^^^ (g / 2 ^ 14 % 128) ^^^ (g / 2 ^ 21 % 16)

/-- The stack of an offset of a die. -/
def stackOf (die offset : Nat) : Nat := 2 * die + pcIndex offset / 64

end Sys2Proof.Machine
end

