-- ==== Sys2Proof/Machine/LoomCore.lean ====
section
/-! DEFINITION. The arithmetic of a Loom (04_looms.md, 05_accumulation.md): the fields of an instruction, operand tiles
decoded to values with their masks, windows, the 22-bit inner sum, overflow, and promotion. -/

namespace Sys2Proof.Machine

/-! ### Operand classes (Table NUM-5) -/

/-- The five operand classes. -/
inductive OpClass where
  | f16 | f8 | i8 | f4 | i4
  deriving DecidableEq, Repr

/-- The class of a Loom operand format; none where R39 allows no Loom operand. -/
def opClass : Fmt → Option OpClass
  | .bf16 | .fp16 => some .f16
  | .e4m3 | .e5m2 | .e3m2 | .e2m3 | .mxE4m3 | .mxE5m2 | .mxE3m2 | .mxE2m3 | .mxInt8 => some .f8
  | .int8 => some .i8
  | .e2m1 | .mxE2m1 => some .f4
  | .int4 => some .i4
  | _ => none

/-- K-depth of a class. -/
def OpClass.kdepth : OpClass → Nat
  | .f16 => 128 | .f8 | .i8 => 256 | .f4 | .i4 => 512

/-- K indices per cell row (Table LOOM-1). -/
def OpClass.perCell (c : OpClass) : Nat := c.kdepth / 128

/-- The L of R95. -/
def OpClass.logK : OpClass → Int
  | .f16 => 7 | .f8 | .i8 => 8 | .f4 | .i4 => 9

def OpClass.isInt : OpClass → Bool
  | .i8 | .i4 => true
  | _ => false

/-! ### The instruction (Table LOOM-6) -/

structure LoomInstr where
  opcode : Nat
  tuned : Bool
  tuneShift : Nat
  promoIeee : Bool
  pair : Bool
  accInit : Nat
  accSlot : Nat
  accRow0 : Nat
  rows : Nat
  statAddr : Nat
  streamAddr : Nat
  statFmt : Nat
  streamFmt : Nat
  statReuse : Bool
  hearthLevel : Nat
  waitBell : Nat
  waitEn : Bool
  sigBell : Nat
  sigEn : Bool
  sigOp : Nat
  sigValue : Nat
  waitValue : Nat
  drainTarget : Nat
  chainNext : Nat
  reserved : Nat
  deriving DecidableEq, Repr

/-- The fields of an instruction word. -/
def loomInstr (w : BitVec 256) : LoomInstr :=
  { opcode := fieldOf w 255 252, tuned := flagOf w 251, tuneShift := fieldOf w 250 246, promoIeee := flagOf w 245,
    pair := flagOf w 244, accInit := fieldOf w 243 242, accSlot := fieldOf w 241 238, accRow0 := fieldOf w 237 230,
    rows := fieldOf w 229 214 + 1, statAddr := fieldOf w 213 203, streamAddr := fieldOf w 202 192,
    statFmt := fieldOf w 191 186, streamFmt := fieldOf w 185 180, statReuse := flagOf w 179,
    hearthLevel := fieldOf w 178 175, waitBell := fieldOf w 174 163, waitEn := flagOf w 162,
    sigBell := fieldOf w 161 150, sigEn := flagOf w 149, sigOp := fieldOf w 148 145, sigValue := fieldOf w 144 113,
    waitValue := fieldOf w 112 81, drainTarget := fieldOf w 80 79, chainNext := fieldOf w 78 76,
    reserved := fieldOf w 75 16 }

/-- CRC-16 over bits [255:16] (R85). -/
def loomCheckOk (w : BitVec 256) : Bool := (crc16 (beBytes 30 (fieldOf w 255 16))).toNat == fieldOf w 15 0

/-- The instruction word of bits [255:16], with its check. -/
def loomWord (body : Nat) : BitVec 256 :=
  BitVec.ofNat 256 (body * 2 ^ 16 + (crc16 (beBytes 30 body)).toNat)

/-- The instruction's operand class is an integer one (R39). -/
def LoomInstr.isInt (i : LoomInstr) : Bool := (((Fmt.ofCode i.statFmt).bind opClass).map OpClass.isInt).getD false

/-- The checks of R86 as an instruction leaves the queue, and the reserved Bell operations of Table BUND-8: the reason
of 0x43. `slotRows` is the FLOW slot shape's R_s. The reserved drain_target = 3 of Table LOOM-6 stands in no list of R86: it has
reason 0x0B too (DESIGN CHOICE, log 15). -/
def loomInstrFault (w : BitVec 256) (slotRows : Nat) : Option Nat :=
  let i := loomInstr w
  if !loomCheckOk w then some 0x0A
  else if (i.opcode ≠ 1 && i.opcode ≠ 2) || i.accInit = 3 || i.drainTarget = 3 || i.reserved ≠ 0 then some 0x0B
  else if i.sigEn && i.sigOp > 3 then some 0x0B
  else if i.opcode = 1 && !i.pair && decide (slotRows < i.accRow0 + i.rows) then some 0x0B
  else none

/-! ### Operand tiles as values -/

/-- The value of element (i, j) of a data tile, with its scale block for an MX format (R33). -/
def tileVal (fm : Fmt) (data : Tile) (scale : Option Tile) (i j : Nat) : FVal :=
  let c := tileAt data (tileW fm) i j
  if fm.isMx then
    match scale with
    | some s => decodeMx fm (tileAt s (tileScales fm) i (j / 32)) c
    | none => .nan
  else decodeElem fm c

/-- Element (n, kk) of a stationary tile lies in its structure (R161, R162, R175). -/
def inStructure (sh : Structure) (f : TagF) (W n kk : Nat) : Bool :=
  match sh with
  | .dense => true
  | .grouped g cin => g != 0 && ((f.row + n) / g == ((f.col * W + kk) % (ceilDiv cin W * W)) / g)
  | .diagonal taps chans total => chans != 0 && decide (kk < taps * chans) && (kk % chans == n)
      && decide (f.col * taps + kk / chans < total)
  | .headMap kappa d => kappa != 0 && d != 0 && (kk / d == n / kappa)

/-- Column n of the array is masked whole: its row lies outside the stationary tile's rows, or beyond the tensor's (R57, R58,
R175). -/
def statColMasked (t : TensorDecl) (f : TagF) (n : Nat) : Bool :=
  match t.shape with
  | .headMap kappa _ => kappa == 0 || decide (f.vrows < n % kappa) || decide (t.rows ≤ f.row + n % kappa)
  | _ => decide (f.vrows < n) || decide (t.rows ≤ f.row + n)

/-- The tile row that array column n takes: under the head map a tile holds its keys, one row each (R175). -/
def statRow (t : TensorDecl) (n : Nat) : Nat :=
  match t.shape with
  | .headMap kappa _ => n % kappa
  | _ => n

/-- Stationary column n: its values along K, none where masked. -/
def statColumn (t : TensorDecl) (data : Tile) (scale : Option Tile) (n : Nat) : List (Option FVal) :=
  let f := tagFields data.tag
  let W := tileW t.fmt
  let i := statRow t n
  (numsFrom 0 W).map fun kk =>
    if decide (kk < f.validCols t.fmt) && decide (f.col * W + kk < t.cols) && inStructure t.shape f W n kk
      && !data.holes.contains (i * W + kk)
    then some (tileVal t.fmt data scale i kk) else none

/-- A stationary tile: per array column, none when masked whole. -/
def statColumns (t : TensorDecl) (data : Tile) (scale : Option Tile) : List (Option (List (Option FVal))) :=
  let f := tagFields data.tag
  (numsFrom 0 128).map fun n => if statColMasked t f n then none else some (statColumn t data scale n)

/-- Streaming row i of a tile. -/
def streamRow (t : TensorDecl) (data : Tile) (scale : Option Tile) (i : Nat) : List (Option FVal) :=
  let f := tagFields data.tag
  let W := tileW t.fmt
  (numsFrom 0 W).map fun kk =>
    if f.elemValid t.fmt t.rows t.cols i kk then some (tileVal t.fmt data scale i kk) else none

/-! ### Windows (R93 to R96) -/

/-- The largest exponent among values that count under R93. -/
def topExp (vs : List (Option FVal)) : Option Int := blockTop (vs.filterMap id)

/-- The largest exponent of a stationary tile. -/
def statTop (cols : List (Option (List (Option FVal)))) : Option Int :=
  cols.foldl (fun a c =>
    match a, c.bind topExp with
    | none, b => b
    | a, none => a
    | some x, some y => some (max x y)) none

/-- The window exponent of a row: none where no element counts and w = 0. -/
def autoWindow (c : OpClass) (er et : Option Int) : Option Int :=
  match er, et with
  | some r, some t =>
    let w := r + t + c.logK - 19
    some (if c.isInt then max 0 w else w)
  | _, _ => none

/-- The window of a row in a pass; a TUNED window is not clamped for the integer classes (R96). -/
def rowWindow (c : OpClass) (tuned : Bool) (shift : Nat) (er et : Option Int) : Int :=
  match autoWindow c er et with
  | none => 0
  | some w => if tuned then w - shift else w

/-! ### The inner sum (R92, R94, R98) -/

/-- What one column holds for one row. -/
structure ColSum where
  s : Int
  ovf : Bool
  nan : Bool
  pinf : Bool
  ninf : Bool
  deriving DecidableEq, Repr

/-- The low 22 bits as a signed number. -/
def low22 (x : Int) : Int := toSigned 22 (ofSigned 22 x)

/-- One product enters a cell: its floor in units of 2^w, or a special bit. -/
def cellAdd (w : Int) (acc : Int × ColSum) (p : FVal) : Int × ColSum :=
  match p with
  | .nan => (acc.1, { acc.2 with nan := true })
  | .inf true => (acc.1, { acc.2 with ninf := true })
  | .inf false => (acc.1, { acc.2 with pinf := true })
  | .fin n m e => (acc.1 + floorUnits n m e w, acc.2)

/-- The products of one cell row: unmasked pairs in ascending K. -/
def cellSum (w : Int) (c : ColSum) : List (Option FVal × Option FVal) → Int → Int × ColSum
  | [], s => (s, c)
  | (some a, some b) :: ps, s =>
    let r := cellAdd w (s, c) (a.mul b)
    cellSum w r.2 ps r.1
  | _ :: ps, s => cellSum w c ps s

/-- Cell rows from the top: 128 of them, `per` K indices each. -/
def columnRun (w : Int) (per : Nat) : Nat → ColSum → List (Option FVal × Option FVal) → ColSum
  | 0, c, _ => c
  | k + 1, c, ps =>
    let r := cellSum w c (ps.take per) 0
    let s := r.2.s + r.1
    let bad := decide (s < -2097152) || decide (2097151 < s)
    columnRun w per k { r.2 with s := if bad then low22 s else s, ovf := r.2.ovf || bad } (ps.drop per)

/-- The inner sum of one column for one row (R98). -/
def columnSum (c : OpClass) (w : Int) (stat row : List (Option FVal)) : ColSum :=
  columnRun w c.perCell 128 ⟨0, false, false, false, false⟩ (stat.zip row)

/-- One row against a tile: the sums of the columns that are not masked. -/
def rowSums (c : OpClass) (w : Int) (cols : List (Option (List (Option FVal)))) (row : List (Option FVal)) :
    List (Nat × ColSum) :=
  (cols.zipIdx).filterMap fun (col, n) => col.map fun k => (n, columnSum c w k row)

/-- A row has overflowed (R98). -/
def rowOverflowed (sums : List (Nat × ColSum)) : Bool := sums.any fun p => p.2.ovf

/-! ### Promotion (R104 to R106) -/

/-- The new FP32 element from its starting value; true when it counts a saturated conversion. -/
def promoteFloat (ieee : Bool) (w : Int) (start : Word) (c : ColSum) : Word × Bool :=
  if c.nan || (c.pinf && c.ninf) then (f32Nan, false)
  else if c.pinf then (f32Round ((f32Val start).add (.inf false)), false)
  else if c.ninf then (f32Round ((f32Val start).add (.inf true)), false)
  else f32RoundIn (if ieee then .ieee else .sat) ((f32Val start).add (.fin (decide (c.s < 0)) c.s.natAbs w))

/-- The new INT32 element, saturated under R43. -/
def promoteInt (w : Int) (start : Word) (c : ColSum) : Word × Bool :=
  let v : Int := if 0 ≤ w then c.s * ((2 ^ w.toNat : Nat) : Int) else c.s / ((2 ^ (-w).toNat : Nat) : Int)
  i32Clamp (i32Val start + v)

/-- Promotion of one element. -/
def promote (c : OpClass) (ieee : Bool) (w : Int) (start : Word) (s : ColSum) : Word × Bool :=
  if c.isInt then promoteInt w start s else promoteFloat ieee w start s

/-! ### Accumulator places (R107, R109) -/

/-- FLOW slots of a shape (R107). -/
def flowSlots (rs cs : Nat) : Nat := if rs * cs = 0 then 0 else min 16 (262144 / (rs * cs * 4))

/-- Element index of row r and column n of an output: in a FLOW slot of shape rs × cs, or in a PAIR half. The slot number of an
instruction beyond the slots of the shape addresses rows behind them (DESIGN CHOICE, log 15: the manual names no outcome). -/
def accIndex (pair : Bool) (rs cs slot half row0 r n : Nat) : Nat :=
  if pair then half * 32768 + r * 128 + n else slot * (rs * cs) + (row0 + r) * cs + n

/-- The row number that names a row for marks, drains and reservations: rows of the slot or of the half, all slots in
one numbering. -/
def accRowId (pair : Bool) (rs slot half row0 r : Nat) : Nat :=
  if pair then half * 256 + r else slot * rs + row0 + r

end Sys2Proof.Machine
end

