-- ==== Sys2Proof/Machine/Regs.lean ====
section
/-! DEFINITION. The register fields of the device, from the field tables of the manual: offset, bits, access code,
reset value and Cleared-by letters of each (R4 to R10), with the legal values its Meaning column lists (R5); the pages
they lie in and the BAR0 map (R416 to R432). The ring registers of BAR4 (R310, R433) stand at addresses past BAR0. -/

namespace Sys2Proof.Machine

/-- The access codes of Table SCOPE-2; wmRw is PAGE_OWNER's 'RW for the Watchman, RO for the host' (R418). -/
inductive Access where
  | rw | ro | w1c | w1s | wo | rc | rwg | wmRw
  deriving DecidableEq, Repr

/-- One row of a field table. `clr` holds the Cleared-by letters as a mask, `stride` and `count` the places of a
repeated register, `lo..hi` its bits, and `legalLo..legalHi` the values that are no reserved encoding. -/
structure FieldRow where
  off : Nat
  hi : Nat
  lo : Nat
  acc : Access
  reset : Nat
  clr : Nat
  stride : Nat
  count : Nat
  legalLo : Nat
  legalHi : Nat
  deriving DecidableEq, Repr

/-! The Cleared-by letters of Table SCOPE-3 as bits: C 1, P 2, W 4, F 8, D 16, J 32, T 64, N 128. -/

inductive ResetLetter where
  | C | P | W | F | D | J | T | N
  deriving DecidableEq, Repr

/-- The bit of a letter. -/
def ResetLetter.bit : ResetLetter → Nat
  | .C => 0 | .P => 1 | .W => 2 | .F => 3 | .D => 4 | .J => 5 | .T => 6 | .N => 7

def clrC : Nat := 1
def clrP : Nat := 2
def clrF : Nat := 8
def clrD : Nat := 16
def clrT : Nat := 64
def clrN : Nat := 128
def clrCP : Nat := 3
def clrCPD : Nat := 19
def clrCPDJTN : Nat := 243
def clrCPDTN : Nat := 211
def clrCPF : Nat := 11
def clrCPJN : Nat := 163
def clrCPN : Nat := 131
def clrCPW : Nat := 7
def clrCW : Nat := 5
def clrnone : Nat := 0
/-! LOOM (R90) -/

def loom_evtRaw_accReplay : FieldRow := ⟨0x018, 0, 0, .w1c, 0, clrCPDTN, 0, 1, 0, 1⟩
def loom_evtRaw_replayExceeded : FieldRow := ⟨0x018, 1, 1, .w1c, 0, clrCPDTN, 0, 1, 0, 1⟩
def loom_evtRaw_saturated : FieldRow := ⟨0x018, 2, 2, .w1c, 0, clrCPDTN, 0, 1, 0, 1⟩
def loom_evtRaw_hearthActive : FieldRow := ⟨0x018, 3, 3, .w1c, 0, clrCPDTN, 0, 1, 0, 1⟩
def loom_faultInfo_reason : FieldRow := ⟨0x028, 7, 0, .ro, 0x00, clrCPDTN, 0, 1, 0, 255⟩
def loom_faultInfo_column : FieldRow := ⟨0x028, 14, 8, .ro, 0x00, clrCPDTN, 0, 1, 0, 127⟩
def loom_faultInfo_accRow : FieldRow := ⟨0x028, 26, 16, .ro, 0x000, clrCPDTN, 0, 1, 0, 2047⟩
def loomId_fusedOff : FieldRow := ⟨0x040, 0, 0, .ro, 0, clrnone, 0, 1, 0, 1⟩
def loomId_loom : FieldRow := ⟨0x040, 3, 1, .ro, 0, clrnone, 0, 1, 0, 7⟩
def loomId_hamlet : FieldRow := ⟨0x040, 5, 4, .ro, 0, clrnone, 0, 1, 0, 3⟩
def loomId_die : FieldRow := ⟨0x040, 8, 6, .ro, 0, clrnone, 0, 1, 0, 7⟩
def loomCtrl_issueEn : FieldRow := ⟨0x044, 0, 0, .rwg, 1, clrCPDTN, 0, 1, 0, 1⟩
def loomCtrl_hearthEn : FieldRow := ⟨0x044, 1, 1, .rwg, 1, clrCPDTN, 0, 1, 0, 1⟩
def loomStatus_busy : FieldRow := ⟨0x048, 0, 0, .ro, 0, clrCPDTN, 0, 1, 0, 1⟩
def loomStatus_cold : FieldRow := ⟨0x048, 1, 1, .ro, 1, clrCPDTN, 0, 1, 0, 1⟩
def loomStatus_ramping : FieldRow := ⟨0x048, 2, 2, .ro, 0, clrCPDTN, 0, 1, 0, 1⟩
def loomStatus_hearthActive : FieldRow := ⟨0x048, 3, 3, .ro, 0, clrCPDTN, 0, 1, 0, 1⟩
def loomStatus_queueDepth : FieldRow := ⟨0x048, 8, 4, .ro, 0, clrCPDJTN, 0, 1, 0, 31⟩
def loomStatus_settleWait : FieldRow := ⟨0x048, 9, 9, .ro, 0, clrCPDJTN, 0, 1, 0, 1⟩
def loomStatus_kernelAuto : FieldRow := ⟨0x048, 10, 10, .ro, 0, clrCPDJTN, 0, 1, 0, 1⟩
def hearthCtrl_window : FieldRow := ⟨0x04C, 11, 0, .rw, 0xE10, clrCPDTN, 0, 1, 0, 4095⟩
def replayCtrl_rowsPerReplay : FieldRow := ⟨0x050, 6, 0, .ro, 0x20, clrCPDJTN, 0, 1, 0, 127⟩
def passCountLo_count : FieldRow := ⟨0x060, 31, 0, .ro, 0x00000000, clrCPDTN, 0, 1, 0, 4294967295⟩
def passCountHi_count : FieldRow := ⟨0x064, 31, 0, .ro, 0x00000000, clrCPDTN, 0, 1, 0, 4294967295⟩
def bubbleCount_count : FieldRow := ⟨0x068, 31, 0, .ro, 0x00000000, clrCPDTN, 0, 1, 0, 4294967295⟩
def hearthCount_count : FieldRow := ⟨0x06C, 31, 0, .ro, 0x00000000, clrCPDTN, 0, 1, 0, 4294967295⟩
def loom_replayCount_count : FieldRow := ⟨0x070, 31, 0, .ro, 0x00000000, clrCPDTN, 0, 1, 0, 4294967295⟩
def replayExceeded_count : FieldRow := ⟨0x074, 31, 0, .ro, 0x00000000, clrCPDTN, 0, 1, 0, 4294967295⟩
def loom_satCount_count : FieldRow := ⟨0x078, 31, 0, .ro, 0x00000000, clrCPDTN, 0, 1, 0, 4294967295⟩

/-- The fields of the LOOM page's own registers (R90). -/
def loomFields : List FieldRow := [
  loom_evtRaw_accReplay, loom_evtRaw_replayExceeded, loom_evtRaw_saturated,
  loom_evtRaw_hearthActive, loom_faultInfo_reason, loom_faultInfo_column,
  loom_faultInfo_accRow, loomId_fusedOff, loomId_loom,
  loomId_hamlet, loomId_die, loomCtrl_issueEn,
  loomCtrl_hearthEn, loomStatus_busy, loomStatus_cold,
  loomStatus_ramping, loomStatus_hearthActive, loomStatus_queueDepth,
  loomStatus_settleWait, loomStatus_kernelAuto, hearthCtrl_window,
  replayCtrl_rowsPerReplay, passCountLo_count, passCountHi_count,
  bubbleCount_count, hearthCount_count, loom_replayCount_count,
  replayExceeded_count, loom_satCount_count]

/-! SIEVE (R146) -/

def sieve_evtRaw_saturated : FieldRow := ⟨0x018, 0, 0, .w1c, 0, clrCPDTN, 0, 1, 0, 1⟩
def sieve_evtRaw_nanLost : FieldRow := ⟨0x018, 1, 1, .w1c, 0, clrCPDTN, 0, 1, 0, 1⟩
def sieve_evtRaw_emptyRow : FieldRow := ⟨0x018, 2, 2, .w1c, 0, clrCPDTN, 0, 1, 0, 1⟩
def sieve_faultInfo_reason : FieldRow := ⟨0x028, 7, 0, .ro, 0x00, clrCPDTN, 0, 1, 0, 255⟩
def sieve_faultInfo_opcode : FieldRow := ⟨0x028, 13, 8, .ro, 0x00, clrCPDTN, 0, 1, 0, 63⟩
def sieve_faultInfo_queueIndex : FieldRow := ⟨0x028, 21, 16, .ro, 0x00, clrCPDTN, 0, 1, 0, 63⟩
def sieveId_hamlet : FieldRow := ⟨0x040, 1, 0, .ro, 0, clrnone, 0, 1, 0, 3⟩
def sieveId_die : FieldRow := ⟨0x040, 4, 2, .ro, 0, clrnone, 0, 1, 0, 7⟩
def sieveCtrl_issueEn : FieldRow := ⟨0x044, 0, 0, .rwg, 1, clrCPDTN, 0, 1, 0, 1⟩
def sieveStatus_busy : FieldRow := ⟨0x048, 0, 0, .ro, 0, clrCPDTN, 0, 1, 0, 1⟩
def sieveStatus_waiting : FieldRow := ⟨0x048, 1, 1, .ro, 0, clrCPDJTN, 0, 1, 0, 1⟩
def sieveStatus_queueDepth : FieldRow := ⟨0x048, 8, 2, .ro, 0, clrCPDJTN, 0, 1, 0, 127⟩
def sieve_opCountLo_count : FieldRow := ⟨0x060, 31, 0, .ro, 0x00000000, clrCPDTN, 0, 1, 0, 4294967295⟩
def sieve_opCountHi_count : FieldRow := ⟨0x064, 31, 0, .ro, 0x00000000, clrCPDTN, 0, 1, 0, 4294967295⟩
def sieve_satCount_count : FieldRow := ⟨0x068, 31, 0, .ro, 0x00000000, clrCPDTN, 0, 1, 0, 4294967295⟩
def sieve_nanlostCount_count : FieldRow := ⟨0x06C, 31, 0, .ro, 0x00000000, clrCPDTN, 0, 1, 0, 4294967295⟩
def emptyRowCount_count : FieldRow := ⟨0x070, 31, 0, .ro, 0x00000000, clrCPDTN, 0, 1, 0, 4294967295⟩

/-- The fields of the SIEVE page's own registers (R146). -/
def sieveFields : List FieldRow := [
  sieve_evtRaw_saturated, sieve_evtRaw_nanLost, sieve_evtRaw_emptyRow,
  sieve_faultInfo_reason, sieve_faultInfo_opcode, sieve_faultInfo_queueIndex,
  sieveId_hamlet, sieveId_die, sieveCtrl_issueEn,
  sieveStatus_busy, sieveStatus_waiting, sieveStatus_queueDepth,
  sieve_opCountLo_count, sieve_opCountHi_count, sieve_satCount_count,
  sieve_nanlostCount_count, emptyRowCount_count]

/-! GATE (R173) -/

def gate_evtRaw_saturated : FieldRow := ⟨0x018, 0, 0, .w1c, 0, clrCPDTN, 0, 1, 0, 1⟩
def gate_evtRaw_nanLost : FieldRow := ⟨0x018, 1, 1, .w1c, 0, clrCPDTN, 0, 1, 0, 1⟩
def gate_faultInfo_reason : FieldRow := ⟨0x028, 7, 0, .ro, 0x00, clrCPDTN, 0, 1, 0, 255⟩
def gate_faultInfo_opcode : FieldRow := ⟨0x028, 11, 8, .ro, 0x0, clrCPDTN, 0, 1, 0, 15⟩
def gate_faultInfo_queueIndex : FieldRow := ⟨0x028, 20, 16, .ro, 0x00, clrCPDTN, 0, 1, 0, 31⟩
def gateId_die : FieldRow := ⟨0x040, 2, 0, .ro, 0, clrnone, 0, 1, 0, 7⟩
def gateCtrl_issueEn : FieldRow := ⟨0x044, 0, 0, .rwg, 1, clrCPDTN, 0, 1, 0, 1⟩
def gateStatus_busy : FieldRow := ⟨0x048, 0, 0, .ro, 0, clrCPDTN, 0, 1, 0, 1⟩
def gateStatus_waiting : FieldRow := ⟨0x048, 1, 1, .ro, 0, clrCPDJTN, 0, 1, 0, 1⟩
def gateStatus_queueDepth : FieldRow := ⟨0x048, 7, 2, .ro, 0, clrCPDJTN, 0, 1, 0, 63⟩
def gate_opCountLo_count : FieldRow := ⟨0x060, 31, 0, .ro, 0x00000000, clrCPDTN, 0, 1, 0, 4294967295⟩
def gate_opCountHi_count : FieldRow := ⟨0x064, 31, 0, .ro, 0x00000000, clrCPDTN, 0, 1, 0, 4294967295⟩
def gate_satCount_count : FieldRow := ⟨0x068, 31, 0, .ro, 0x00000000, clrCPDTN, 0, 1, 0, 4294967295⟩
def gate_nanlostCount_count : FieldRow := ⟨0x06C, 31, 0, .ro, 0x00000000, clrCPDTN, 0, 1, 0, 4294967295⟩
def pixelCount_count : FieldRow := ⟨0x070, 31, 0, .ro, 0x00000000, clrCPDTN, 0, 1, 0, 4294967295⟩

/-- The fields of the GATE page's own registers (R173). -/
def gateFields : List FieldRow := [
  gate_evtRaw_saturated, gate_evtRaw_nanLost, gate_faultInfo_reason,
  gate_faultInfo_opcode, gate_faultInfo_queueIndex, gateId_die,
  gateCtrl_issueEn, gateStatus_busy, gateStatus_waiting,
  gateStatus_queueDepth, gate_opCountLo_count, gate_opCountHi_count,
  gate_satCount_count, gate_nanlostCount_count, pixelCount_count]

/-! GRANARY (R241) -/

def granary_evtRaw_saturated : FieldRow := ⟨0x018, 0, 0, .w1c, 0, clrCPN, 0, 1, 0, 1⟩
def granary_evtRaw_nanLost : FieldRow := ⟨0x018, 1, 1, .w1c, 0, clrCPN, 0, 1, 0, 1⟩
def granary_faultInfo_reason : FieldRow := ⟨0x028, 7, 0, .ro, 0x00, clrCPN, 0, 1, 0, 255⟩
def granary_faultInfo_opcode : FieldRow := ⟨0x028, 13, 8, .ro, 0x00, clrCPN, 0, 1, 0, 63⟩
def granary_faultInfo_queue : FieldRow := ⟨0x028, 19, 14, .ro, 0x00, clrCPN, 0, 1, 0, 63⟩
def granaryId_stack : FieldRow := ⟨0x040, 3, 0, .ro, 0, clrnone, 0, 1, 0, 15⟩
def granaryId_die : FieldRow := ⟨0x040, 6, 4, .ro, 0, clrnone, 0, 1, 0, 7⟩
def granaryCtrl_issueEn : FieldRow := ⟨0x044, 0, 0, .rwg, 1, clrCPN, 0, 1, 0, 1⟩
def granaryStatus_busy : FieldRow := ⟨0x048, 0, 0, .ro, 0, clrCPN, 0, 1, 0, 1⟩
def granaryStatus_secondary : FieldRow := ⟨0x048, 1, 1, .ro, 0, clrCPN, 0, 1, 0, 1⟩
def granaryStatus_selfRefresh : FieldRow := ⟨0x048, 2, 2, .ro, 0, clrCPN, 0, 1, 0, 1⟩
def granaryStatus_queuesBusy : FieldRow := ⟨0x048, 8, 3, .ro, 0, clrCPJN, 0, 1, 0, 63⟩
def cmdCountLo_count : FieldRow := ⟨0x060, 31, 0, .ro, 0x00000000, clrCPN, 0, 1, 0, 4294967295⟩
def cmdCountHi_count : FieldRow := ⟨0x064, 31, 0, .ro, 0x00000000, clrCPN, 0, 1, 0, 4294967295⟩
def granary_satCount_count : FieldRow := ⟨0x068, 31, 0, .ro, 0x00000000, clrCPN, 0, 1, 0, 4294967295⟩
def granary_nanlostCount_count : FieldRow := ⟨0x06C, 31, 0, .ro, 0x00000000, clrCPN, 0, 1, 0, 4294967295⟩
def gatherCount_count : FieldRow := ⟨0x070, 31, 0, .ro, 0x00000000, clrCPN, 0, 1, 0, 4294967295⟩
def widenCount_count : FieldRow := ⟨0x074, 31, 0, .ro, 0x00000000, clrCPN, 0, 1, 0, 4294967295⟩
def cksumFailCount_count : FieldRow := ⟨0x078, 31, 0, .ro, 0x00000000, clrCPN, 0, 1, 0, 4294967295⟩

/-- The fields of the GRANARY page's own registers (R241). -/
def granaryFields : List FieldRow := [
  granary_evtRaw_saturated, granary_evtRaw_nanLost, granary_faultInfo_reason,
  granary_faultInfo_opcode, granary_faultInfo_queue, granaryId_stack,
  granaryId_die, granaryCtrl_issueEn, granaryStatus_busy,
  granaryStatus_secondary, granaryStatus_selfRefresh, granaryStatus_queuesBusy,
  cmdCountLo_count, cmdCountHi_count, granary_satCount_count,
  granary_nanlostCount_count, gatherCount_count, widenCount_count,
  cksumFailCount_count]

/-! HOST (R414) -/

def fieldVa_vaPage : FieldRow := ⟨0x200, 26, 0, .rw, 0x0000000, clrCPF, 0, 1, 0, 134217727⟩
def fieldPa_paPage : FieldRow := ⟨0x204, 18, 0, .rw, 0x00000, clrCPF, 0, 1, 0, 524287⟩
def fieldCmd_op : FieldRow := ⟨0x208, 1, 0, .wo, 0, clrnone, 0, 1, 0, 3⟩
def fieldCmd_rd : FieldRow := ⟨0x208, 2, 2, .wo, 0, clrnone, 0, 1, 0, 1⟩
def fieldCmd_wr : FieldRow := ⟨0x208, 3, 3, .wo, 0, clrnone, 0, 1, 0, 1⟩
def fieldCmd_function : FieldRow := ⟨0x208, 8, 4, .wo, 0, clrnone, 0, 1, 0, 31⟩
def fieldStatus_busy : FieldRow := ⟨0x20C, 0, 0, .ro, 0, clrCPF, 0, 1, 0, 1⟩
def fieldStatus_result : FieldRow := ⟨0x20C, 3, 1, .ro, 0, clrCPF, 0, 1, 0, 7⟩
def fieldStatus_overrun : FieldRow := ⟨0x20C, 4, 4, .w1c, 0, clrCPF, 0, 1, 0, 1⟩
def fieldMiss_count : FieldRow := ⟨0x210, 31, 0, .rc, 0x00000000, clrCPF, 0, 1, 0, 4294967295⟩
def host_evtRaw_linkDown : FieldRow := ⟨0x018, 0, 0, .w1c, 0, clrCPF, 0, 1, 0, 1⟩
def host_evtRaw_cmplDrop : FieldRow := ⟨0x018, 1, 1, .w1c, 0, clrCPF, 0, 1, 0, 1⟩
def host_evtRaw_ownDeny : FieldRow := ⟨0x018, 2, 2, .w1c, 0, clrCPF, 0, 1, 0, 1⟩
def host_evtRaw_dmaError : FieldRow := ⟨0x018, 3, 3, .w1c, 0, clrCPF, 0, 1, 0, 1⟩
def host_evtRaw_ringFault : FieldRow := ⟨0x018, 4, 4, .w1c, 0, clrCPF, 0, 1, 0, 1⟩
def hostId_function : FieldRow := ⟨0x040, 4, 0, .ro, 0, clrnone, 0, 1, 0, 31⟩
def hostId_isVf : FieldRow := ⟨0x040, 5, 5, .ro, 0, clrnone, 0, 1, 0, 1⟩
def hostId_vectors : FieldRow := ⟨0x040, 17, 6, .ro, 0, clrnone, 0, 1, 0, 4095⟩
def hostLink_speed : FieldRow := ⟨0x044, 2, 0, .ro, 0, clrCP, 0, 1, 0, 7⟩
def hostLink_width : FieldRow := ⟨0x044, 7, 3, .ro, 0x00, clrCP, 0, 1, 0, 31⟩
def hostLink_flit : FieldRow := ⟨0x044, 8, 8, .ro, 0, clrCP, 0, 1, 0, 1⟩
def cmplDropCount_count : FieldRow := ⟨0x060, 31, 0, .ro, 0x00000000, clrCPF, 0, 1, 0, 4294967295⟩
def ownDenyCount_count : FieldRow := ⟨0x064, 31, 0, .ro, 0x00000000, clrCPF, 0, 1, 0, 4294967295⟩
def dmaBaseLo_addr : FieldRow := ⟨0x100, 31, 5, .rw, 0x00000000, clrCPF, 32, 4, 0, 134217727⟩
def dmaBaseHi_addr : FieldRow := ⟨0x104, 31, 0, .rw, 0x00000000, clrCPF, 32, 4, 0, 4294967295⟩
def dmaCtrl_enable : FieldRow := ⟨0x108, 0, 0, .rw, 0, clrCPF, 32, 4, 0, 1⟩
def dmaCtrl_log2Size : FieldRow := ⟨0x108, 4, 1, .rw, 0x4, clrCPF, 32, 4, 4, 12⟩
def dmaCtrl_vector : FieldRow := ⟨0x108, 15, 5, .rw, 0x000, clrCPF, 32, 4, 0, 2047⟩
def dmaTail_tail : FieldRow := ⟨0x10C, 11, 0, .rw, 0x000, clrCPF, 32, 4, 0, 4095⟩
def dmaHead_head : FieldRow := ⟨0x110, 11, 0, .ro, 0x000, clrCPF, 32, 4, 0, 4095⟩
def dmaStatus_busy : FieldRow := ⟨0x114, 0, 0, .ro, 0, clrCPF, 32, 4, 0, 1⟩
def dmaStatus_overrun : FieldRow := ⟨0x114, 1, 1, .w1c, 0, clrCPF, 32, 4, 0, 1⟩

/-- The fields of the HOST page's own registers (R414). -/
def hostFields : List FieldRow := [
  fieldVa_vaPage, fieldPa_paPage, fieldCmd_op,
  fieldCmd_rd, fieldCmd_wr, fieldCmd_function,
  fieldStatus_busy, fieldStatus_result, fieldStatus_overrun,
  fieldMiss_count, host_evtRaw_linkDown, host_evtRaw_cmplDrop,
  host_evtRaw_ownDeny, host_evtRaw_dmaError, host_evtRaw_ringFault,
  hostId_function, hostId_isVf, hostId_vectors,
  hostLink_speed, hostLink_width, hostLink_flit,
  cmplDropCount_count, ownDenyCount_count, dmaBaseLo_addr,
  dmaBaseHi_addr, dmaCtrl_enable, dmaCtrl_log2Size,
  dmaCtrl_vector, dmaTail_tail, dmaHead_head,
  dmaStatus_busy, dmaStatus_overrun]

/-! HBM (R264) -/

def hbm_evtRaw_corrected : FieldRow := ⟨0x018, 0, 0, .w1c, 0, clrCPN, 0, 1, 0, 1⟩
def hbm_evtRaw_uncorrectable : FieldRow := ⟨0x018, 1, 1, .w1c, 0, clrCPN, 0, 1, 0, 1⟩
def hbm_evtRaw_softRepair : FieldRow := ⟨0x018, 2, 2, .w1c, 0, clrCPN, 0, 1, 0, 1⟩
def hbm_evtRaw_repairExhausted : FieldRow := ⟨0x018, 3, 3, .w1c, 0, clrCPN, 0, 1, 0, 1⟩
def hbm_evtRaw_scrubPass : FieldRow := ⟨0x018, 4, 4, .w1c, 0, clrCPN, 0, 1, 0, 1⟩
def hbm_faultInfo_pc : FieldRow := ⟨0x028, 5, 0, .ro, 0x00, clrCPN, 0, 1, 0, 63⟩
def hbmId_stack : FieldRow := ⟨0x040, 3, 0, .ro, 0, clrnone, 0, 1, 0, 15⟩
def hbmId_die : FieldRow := ⟨0x040, 6, 4, .ro, 0, clrnone, 0, 1, 0, 7⟩
def hbmId_height : FieldRow := ⟨0x040, 10, 7, .ro, 0xC, clrnone, 0, 1, 0, 15⟩
def hbmId_capacityGib : FieldRow := ⟨0x040, 23, 16, .ro, 0x30, clrnone, 0, 1, 0, 255⟩
def hbmStatus_trained : FieldRow := ⟨0x044, 0, 0, .ro, 0, clrCPN, 0, 1, 0, 1⟩
def hbmStatus_degraded : FieldRow := ⟨0x044, 1, 1, .ro, 0, clrCPN, 0, 1, 0, 1⟩
def hbmScrubCtrl_enable : FieldRow := ⟨0x048, 0, 0, .rw, 1, clrCPN, 0, 1, 0, 1⟩
def hbmScrubCtrl_period : FieldRow := ⟨0x048, 15, 8, .rw, 0x18, clrCPN, 0, 1, 1, 255⟩
def hbmCeAddr_sector : FieldRow := ⟨0x050, 31, 0, .ro, 0x00000000, clrCPN, 0, 1, 0, 4294967295⟩
def hbmUeAddr_sector : FieldRow := ⟨0x054, 31, 0, .ro, 0x00000000, clrCPN, 0, 1, 0, 4294967295⟩
def hbmMarginCtrl_start : FieldRow := ⟨0x060, 0, 0, .rwg, 0, clrCPN, 0, 1, 0, 1⟩
def hbmMarginCtrl_pc : FieldRow := ⟨0x060, 6, 1, .rwg, 0x00, clrCPN, 0, 1, 0, 63⟩
def hbmMarginCtrl_kind : FieldRow := ⟨0x060, 9, 8, .rwg, 0, clrCPN, 0, 1, 0, 2⟩
def hbmMarginCtrl_offset : FieldRow := ⟨0x060, 15, 10, .rwg, 0x00, clrCPN, 0, 1, 0, 63⟩
def hbmMarginResult_done : FieldRow := ⟨0x064, 0, 0, .ro, 0, clrCPN, 0, 1, 0, 1⟩
def hbmMarginResult_pass : FieldRow := ⟨0x064, 1, 1, .ro, 0, clrCPN, 0, 1, 0, 1⟩
def hbmMarginResult_errors : FieldRow := ⟨0x064, 31, 16, .ro, 0x0000, clrCPN, 0, 1, 0, 65535⟩
def hbm_ceCount_count : FieldRow := ⟨0x070, 31, 0, .ro, 0x00000000, clrCPN, 0, 1, 0, 4294967295⟩
def ueCount_count : FieldRow := ⟨0x074, 31, 0, .ro, 0x00000000, clrCPN, 0, 1, 0, 4294967295⟩
def repairCount_count : FieldRow := ⟨0x078, 31, 0, .ro, 0x00000000, clrCPN, 0, 1, 0, 4294967295⟩
def scrubPassCount_count : FieldRow := ⟨0x07C, 31, 0, .ro, 0x00000000, clrCPN, 0, 1, 0, 4294967295⟩

/-- The fields of the HBM page's own registers (R264). -/
def hbmFields : List FieldRow := [
  hbm_evtRaw_corrected, hbm_evtRaw_uncorrectable, hbm_evtRaw_softRepair,
  hbm_evtRaw_repairExhausted, hbm_evtRaw_scrubPass, hbm_faultInfo_pc,
  hbmId_stack, hbmId_die, hbmId_height,
  hbmId_capacityGib, hbmStatus_trained, hbmStatus_degraded,
  hbmScrubCtrl_enable, hbmScrubCtrl_period, hbmCeAddr_sector,
  hbmUeAddr_sector, hbmMarginCtrl_start, hbmMarginCtrl_pc,
  hbmMarginCtrl_kind, hbmMarginCtrl_offset, hbmMarginResult_done,
  hbmMarginResult_pass, hbmMarginResult_errors, hbm_ceCount_count,
  ueCount_count, repairCount_count, scrubPassCount_count]

/-! FIREFLY (R299) -/

def ffId_hamlet : FieldRow := ⟨0x040, 1, 0, .ro, 0, clrnone, 0, 1, 0, 3⟩
def ffId_die : FieldRow := ⟨0x040, 4, 2, .ro, 0, clrnone, 0, 1, 0, 7⟩
def ffKatCtrl_start : FieldRow := ⟨0x044, 0, 0, .w1s, 0, clrCPDTN, 0, 1, 0, 1⟩
def ffKatCtrl_done : FieldRow := ⟨0x044, 1, 1, .ro, 0, clrCPDTN, 0, 1, 0, 1⟩
def ffKatSeedLo_seed : FieldRow := ⟨0x048, 31, 0, .rw, 0x00000000, clrCPDTN, 0, 1, 0, 4294967295⟩
def ffKatSeedHi_seed : FieldRow := ⟨0x04C, 31, 0, .rw, 0x00000000, clrCPDTN, 0, 1, 0, 4294967295⟩
def ffKatStream_stream : FieldRow := ⟨0x050, 31, 0, .rw, 0x00000000, clrCPDTN, 0, 1, 0, 4294967295⟩
def ffKatIndexLo_index : FieldRow := ⟨0x054, 31, 0, .rw, 0x00000000, clrCPDTN, 0, 1, 0, 4294967295⟩
def ffKatIndexHi_index : FieldRow := ⟨0x058, 15, 0, .rw, 0x0000, clrCPDTN, 0, 1, 0, 65535⟩
def ffKatOut_out : FieldRow := ⟨0x05C, 31, 0, .ro, 0x00000000, clrCPDTN, 0, 1, 0, 4294967295⟩
def valueCount_count : FieldRow := ⟨0x060, 31, 0, .ro, 0x00000000, clrCPDTN, 0, 1, 0, 4294967295⟩

/-- The fields of the FIREFLY page's own registers (R299). -/
def fireflyFields : List FieldRow := [
  ffId_hamlet, ffId_die, ffKatCtrl_start,
  ffKatCtrl_done, ffKatSeedLo_seed, ffKatSeedHi_seed,
  ffKatStream_stream, ffKatIndexLo_index, ffKatIndexHi_index,
  ffKatOut_out, valueCount_count]

/-! RING (R310) -/

def ringBaseLo_va : FieldRow := ⟨0x000, 31, 7, .rw, 0x00000000, clrCPF, 0, 1, 0, 33554431⟩
def ringBaseHi_va : FieldRow := ⟨0x004, 15, 0, .rw, 0x0000, clrCPF, 0, 1, 0, 65535⟩
def ringCtrl_enable : FieldRow := ⟨0x008, 0, 0, .rw, 0, clrCPF, 0, 1, 0, 1⟩
def ringCtrl_log2Size : FieldRow := ⟨0x008, 5, 1, .rw, 0x04, clrCPF, 0, 1, 4, 16⟩
def ringCtrl_vector : FieldRow := ⟨0x008, 16, 6, .rw, 0x000, clrCPF, 0, 1, 0, 2047⟩
def cmplBaseLo_va : FieldRow := ⟨0x00C, 31, 5, .rw, 0x00000000, clrCPF, 0, 1, 0, 134217727⟩
def cmplBaseHi_va : FieldRow := ⟨0x010, 15, 0, .rw, 0x0000, clrCPF, 0, 1, 0, 65535⟩
def ringTail_tail : FieldRow := ⟨0x014, 15, 0, .rw, 0x0000, clrCPF, 0, 1, 0, 65535⟩
def ringHead_head : FieldRow := ⟨0x018, 15, 0, .ro, 0x0000, clrCPF, 0, 1, 0, 65535⟩
def cmplTail_tail : FieldRow := ⟨0x01C, 15, 0, .ro, 0x0000, clrCPF, 0, 1, 0, 65535⟩
def ringStatus_held : FieldRow := ⟨0x020, 0, 0, .ro, 0, clrCPF, 0, 1, 0, 1⟩
def ringStatus_overrun : FieldRow := ⟨0x020, 1, 1, .w1c, 0, clrCPF, 0, 1, 0, 1⟩
def ringStatus_cmplWait : FieldRow := ⟨0x020, 2, 2, .ro, 0, clrCPF, 0, 1, 0, 1⟩
def ringStatus_fault : FieldRow := ⟨0x020, 3, 3, .ro, 0, clrCPF, 0, 1, 0, 1⟩
def cmplHead_head : FieldRow := ⟨0x024, 15, 0, .rw, 0x0000, clrCPF, 0, 1, 0, 65535⟩

/-- The fields of the RING page's own registers (R310). -/
def ringFields : List FieldRow := [
  ringBaseLo_va, ringBaseHi_va, ringCtrl_enable,
  ringCtrl_log2Size, ringCtrl_vector, cmplBaseLo_va,
  cmplBaseHi_va, ringTail_tail, ringHead_head,
  cmplTail_tail, ringStatus_held, ringStatus_overrun,
  ringStatus_cmplWait, ringStatus_fault, cmplHead_head]

/-! HAMLET (R327) -/

def hamlet_faultInfo_reason : FieldRow := ⟨0x028, 7, 0, .ro, 0x00, clrCPDTN, 0, 1, 0, 255⟩
def hamletId_hamlet : FieldRow := ⟨0x040, 1, 0, .ro, 0, clrnone, 0, 1, 0, 3⟩
def hamletId_die : FieldRow := ⟨0x040, 4, 2, .ro, 0, clrnone, 0, 1, 0, 7⟩
def hamletId_loomsEnabled : FieldRow := ⟨0x040, 15, 8, .ro, 0, clrnone, 0, 1, 0, 255⟩
def hamletStatus_running : FieldRow := ⟨0x044, 0, 0, .ro, 0, clrCPDJTN, 0, 1, 0, 1⟩
def hamletStatus_plan : FieldRow := ⟨0x044, 4, 1, .ro, 0x0, clrCPDJTN, 0, 1, 0, 15⟩
def hamletStatus_kernel : FieldRow := ⟨0x044, 31, 16, .ro, 0x0000, clrCPDJTN, 0, 1, 0, 65535⟩
def reeveWdog_timeout : FieldRow := ⟨0x048, 15, 0, .rwg, 0x0064, clrCPDTN, 0, 1, 10, 65535⟩
def reeveHeartbeat_beat : FieldRow := ⟨0x04C, 31, 0, .wo, 0, clrnone, 0, 1, 0, 4294967295⟩
def descCountLo_count : FieldRow := ⟨0x060, 31, 0, .ro, 0x00000000, clrCPDTN, 0, 1, 0, 4294967295⟩
def descCountHi_count : FieldRow := ⟨0x064, 31, 0, .ro, 0x00000000, clrCPDTN, 0, 1, 0, 4294967295⟩

/-- The fields of the HAMLET page's own registers (R327). -/
def hamletFields : List FieldRow := [
  hamlet_faultInfo_reason, hamletId_hamlet, hamletId_die,
  hamletId_loomsEnabled, hamletStatus_running, hamletStatus_plan,
  hamletStatus_kernel, reeveWdog_timeout, reeveHeartbeat_beat,
  descCountLo_count, descCountHi_count]

/-! COMMONS (R328) -/

def commons_evtRaw_corrected : FieldRow := ⟨0x018, 0, 0, .w1c, 0, clrCPDTN, 0, 1, 0, 1⟩
def commons_faultInfo_reason : FieldRow := ⟨0x028, 7, 0, .ro, 0x00, clrCPDTN, 0, 1, 0, 255⟩
def commons_faultInfo_bank : FieldRow := ⟨0x028, 15, 8, .ro, 0x00, clrCPDTN, 0, 1, 0, 255⟩
def commonsId_die : FieldRow := ⟨0x040, 2, 0, .ro, 0, clrnone, 0, 1, 0, 7⟩
def commonsUsed_kib : FieldRow := ⟨0x044, 17, 0, .ro, 0x00000, clrCPDJTN, 0, 1, 0, 262143⟩
def mcastCount_count : FieldRow := ⟨0x060, 31, 0, .ro, 0x00000000, clrCPDTN, 0, 1, 0, 4294967295⟩
def commons_ceCount_count : FieldRow := ⟨0x064, 31, 0, .ro, 0x00000000, clrCPDTN, 0, 1, 0, 4294967295⟩

/-- The fields of the COMMONS page's own registers (R328). -/
def commonsFields : List FieldRow := [
  commons_evtRaw_corrected, commons_faultInfo_reason, commons_faultInfo_bank,
  commonsId_die, commonsUsed_kib, mcastCount_count,
  commons_ceCount_count]

/-! BELLS (R329) -/

def bells_evtRaw_errorOp : FieldRow := ⟨0x018, 0, 0, .w1c, 0, clrCPDTN, 0, 1, 0, 1⟩
def bells_faultInfo_bell : FieldRow := ⟨0x028, 11, 0, .ro, 0x000, clrCPDTN, 0, 1, 0, 4095⟩
def bells_faultInfo_unit : FieldRow := ⟨0x028, 23, 16, .ro, 0x00, clrCPDTN, 0, 1, 0, 255⟩
def bellsId_die : FieldRow := ⟨0x040, 2, 0, .ro, 0, clrnone, 0, 1, 0, 7⟩
def bellTimeout_us : FieldRow := ⟨0x044, 23, 0, .rwg, 0x002710, clrCPDTN, 0, 1, 1000, 16777215⟩
def bellsFree_count : FieldRow := ⟨0x048, 12, 0, .ro, 0x0FC0, clrCPD, 0, 1, 0, 8191⟩
def signalCount_count : FieldRow := ⟨0x060, 31, 0, .ro, 0x00000000, clrCPDTN, 0, 1, 0, 4294967295⟩

/-- The fields of the BELLS page's own registers (R329). -/
def bellsFields : List FieldRow := [
  bells_evtRaw_errorOp, bells_faultInfo_bell, bells_faultInfo_unit,
  bellsId_die, bellTimeout_us, bellsFree_count,
  signalCount_count]

/-! LOADER (R330) -/

def loader_evtRaw_kvDropped : FieldRow := ⟨0x018, 0, 0, .w1c, 0, clrCPN, 0, 1, 0, 1⟩
def loader_evtRaw_kvRecomputed : FieldRow := ⟨0x018, 1, 1, .w1c, 0, clrCPN, 0, 1, 0, 1⟩
def loader_evtRaw_refusal : FieldRow := ⟨0x018, 2, 2, .w1c, 0, clrCPN, 0, 1, 0, 1⟩
def loaderStatus_ready : FieldRow := ⟨0x044, 0, 0, .ro, 0, clrCPN, 0, 1, 0, 1⟩
def loaderStatus_bundles : FieldRow := ⟨0x044, 7, 1, .ro, 0, clrCP, 0, 1, 0, 127⟩
def loaderStatus_jobs : FieldRow := ⟨0x044, 16, 8, .ro, 0, clrCP, 0, 1, 0, 511⟩
def loaderStatus_sessions : FieldRow := ⟨0x044, 29, 17, .ro, 0, clrCP, 0, 1, 0, 8191⟩
def loaderGrade_grade : FieldRow := ⟨0x048, 1, 0, .ro, 0, clrnone, 0, 1, 0, 3⟩
def lastRefusal_code : FieldRow := ⟨0x050, 7, 0, .ro, 0x00, clrCPN, 0, 1, 0, 255⟩
def lastRefusal_function : FieldRow := ⟨0x050, 12, 8, .ro, 0x00, clrCPN, 0, 1, 0, 31⟩
def kvDropCount_count : FieldRow := ⟨0x060, 31, 0, .ro, 0x00000000, clrCPN, 0, 1, 0, 4294967295⟩
def kvRecompCount_count : FieldRow := ⟨0x064, 31, 0, .ro, 0x00000000, clrCPN, 0, 1, 0, 4294967295⟩
def refuseCount_count : FieldRow := ⟨0x068, 31, 0, .ro, 0x00000000, clrCPN, 0, 1, 0, 4294967295⟩
def kvPool_pages : FieldRow := ⟨0x070, 15, 0, .rwg, 0x0000, clrCP, 4, 8, 0, 65535⟩

/-- The fields of the LOADER page's own registers (R330). -/
def loaderFields : List FieldRow := [
  loader_evtRaw_kvDropped, loader_evtRaw_kvRecomputed, loader_evtRaw_refusal,
  loaderStatus_ready, loaderStatus_bundles, loaderStatus_jobs,
  loaderStatus_sessions, loaderGrade_grade, lastRefusal_code,
  lastRefusal_function, kvDropCount_count, kvRecompCount_count,
  refuseCount_count, kvPool_pages]

/-! MERIDIAN (R364) -/

def meridian_evtRaw_locked : FieldRow := ⟨0x018, 0, 0, .w1c, 0, clrCP, 0, 1, 0, 1⟩
def meridian_evtRaw_lockLost : FieldRow := ⟨0x018, 1, 1, .w1c, 0, clrCP, 0, 1, 0, 1⟩
def meridian_evtRaw_holdover : FieldRow := ⟨0x018, 2, 2, .w1c, 0, clrCP, 0, 1, 0, 1⟩
def meridian_evtRaw_stepped : FieldRow := ⟨0x018, 3, 3, .w1c, 0, clrCP, 0, 1, 0, 1⟩
def meridian_evtRaw_rateMismatch : FieldRow := ⟨0x018, 4, 4, .w1c, 0, clrCP, 0, 1, 0, 1⟩
def meridian_faultInfo_cause : FieldRow := ⟨0x028, 1, 0, .ro, 0, clrCP, 0, 1, 0, 3⟩
def merCtrl_source : FieldRow := ⟨0x044, 1, 0, .rwg, 0, clrCP, 0, 1, 0, 2⟩
def merCtrl_holdoverOk : FieldRow := ⟨0x044, 2, 2, .rwg, 1, clrCP, 0, 1, 0, 1⟩
def merCtrl_keepInNightwatch : FieldRow := ⟨0x044, 3, 3, .rw, 1, clrCP, 0, 1, 0, 1⟩
def merRate_num : FieldRow := ⟨0x048, 19, 0, .rwg, 0x00032, clrCP, 0, 1, 0, 1048575⟩
def merRate_den1001 : FieldRow := ⟨0x048, 20, 20, .rwg, 0, clrCP, 0, 1, 0, 1⟩
def merLines_total : FieldRow := ⟨0x04C, 11, 0, .rwg, 0x465, clrCP, 0, 1, 1, 4095⟩
def merStatus_state : FieldRow := ⟨0x050, 1, 0, .ro, 0, clrCP, 0, 1, 0, 3⟩
def merStatus_slewing : FieldRow := ⟨0x050, 2, 2, .ro, 0, clrCP, 0, 1, 0, 1⟩
def merOffset_ns : FieldRow := ⟨0x054, 31, 0, .ro, 0x00000000, clrCP, 0, 1, 0, 4294967295⟩
def merNowLo_now : FieldRow := ⟨0x058, 31, 0, .ro, 0x00000000, clrCP, 0, 1, 0, 4294967295⟩
def merNowHi_now : FieldRow := ⟨0x05C, 31, 0, .ro, 0x00000000, clrCP, 0, 1, 0, 4294967295⟩
def merFrameNextLo_frame : FieldRow := ⟨0x060, 31, 0, .rw, 0x00000000, clrCP, 0, 1, 0, 4294967295⟩
def merFrameNextHi_frame : FieldRow := ⟨0x064, 3, 0, .rw, 0x0, clrCP, 0, 1, 0, 15⟩
def merSetLo_transit : FieldRow := ⟨0x068, 31, 0, .rwg, 0x00000000, clrCP, 0, 1, 0, 4294967295⟩
def merSetHi_transit : FieldRow := ⟨0x06C, 31, 0, .rwg, 0x00000000, clrCP, 0, 1, 0, 4294967295⟩
def merHold_limitS : FieldRow := ⟨0x070, 15, 0, .rw, 0x0000, clrCP, 0, 1, 0, 65535⟩
def merHold_elapsedS : FieldRow := ⟨0x070, 31, 16, .ro, 0x0000, clrCP, 0, 1, 0, 65535⟩
def merLock_thresholdNs : FieldRow := ⟨0x074, 15, 0, .rw, 0x0064, clrCP, 0, 1, 0, 65535⟩
def merPtp_domain : FieldRow := ⟨0x078, 7, 0, .rwg, 0x7F, clrCP, 0, 1, 0, 255⟩
def merPtpIp_ipv4 : FieldRow := ⟨0x07C, 31, 0, .rwg, 0x00000000, clrCP, 0, 1, 0, 4294967295⟩

/-- The fields of the MERIDIAN page's own registers (R364). -/
def meridianFields : List FieldRow := [
  meridian_evtRaw_locked, meridian_evtRaw_lockLost, meridian_evtRaw_holdover,
  meridian_evtRaw_stepped, meridian_evtRaw_rateMismatch, meridian_faultInfo_cause,
  merCtrl_source, merCtrl_holdoverOk, merCtrl_keepInNightwatch,
  merRate_num, merRate_den1001, merLines_total,
  merStatus_state, merStatus_slewing, merOffset_ns,
  merNowLo_now, merNowHi_now, merFrameNextLo_frame,
  merFrameNextHi_frame, merSetLo_transit, merSetHi_transit,
  merHold_limitS, merHold_elapsedS, merLock_thresholdNs,
  merPtp_domain, merPtpIp_ipv4]

/-! ALMANAC (R365) -/

def almanac_evtRaw_lateTransit : FieldRow := ⟨0x018, 0, 0, .w1c, 0, clrCP, 0, 1, 0, 1⟩
def almanac_evtRaw_withdrawal : FieldRow := ⟨0x018, 1, 1, .w1c, 0, clrCP, 0, 1, 0, 1⟩
def almanac_evtRaw_readmission : FieldRow := ⟨0x018, 2, 2, .w1c, 0, clrCP, 0, 1, 0, 1⟩
def almanac_evtRaw_deadlineMiss : FieldRow := ⟨0x018, 3, 3, .w1c, 0, clrCP, 0, 1, 0, 1⟩
def almCtrl_margin : FieldRow := ⟨0x044, 9, 0, .rwg, 0x032, clrCP, 0, 1, 0, 500⟩
def almStatus_used : FieldRow := ⟨0x048, 11, 0, .ro, 0x000, clrCP, 0, 1, 0, 4095⟩
def almStatus_readmitting : FieldRow := ⟨0x048, 12, 12, .ro, 0, clrCP, 0, 1, 0, 1⟩
def almStatus_aclkMhz : FieldRow := ⟨0x048, 26, 16, .ro, 0x708, clrCP, 0, 1, 0, 2047⟩
def almIndex_entry : FieldRow := ⟨0x04C, 10, 0, .rw, 0x000, clrCP, 0, 1, 0, 2047⟩
def almData_data : FieldRow := ⟨0x050, 31, 0, .ro, 0x00000000, clrCP, 4, 8, 0, 4294967295⟩
def lateTransitCount_count : FieldRow := ⟨0x070, 31, 0, .ro, 0x00000000, clrCP, 0, 1, 0, 4294967295⟩
def withdrawCount_count : FieldRow := ⟨0x074, 31, 0, .ro, 0x00000000, clrCP, 0, 1, 0, 4294967295⟩
def readmitCount_count : FieldRow := ⟨0x078, 31, 0, .ro, 0x00000000, clrCP, 0, 1, 0, 4294967295⟩
def deadlineMissCount_count : FieldRow := ⟨0x07C, 31, 0, .ro, 0x00000000, clrCP, 0, 1, 0, 4294967295⟩

/-- The fields of the ALMANAC page's own registers (R365). -/
def almanacFields : List FieldRow := [
  almanac_evtRaw_lateTransit, almanac_evtRaw_withdrawal, almanac_evtRaw_readmission,
  almanac_evtRaw_deadlineMiss, almCtrl_margin, almStatus_used,
  almStatus_readmitting, almStatus_aclkMhz, almIndex_entry,
  almData_data, lateTransitCount_count, withdrawCount_count,
  readmitCount_count, deadlineMissCount_count]

/-! CUE (R366) -/

def cue_evtRaw_collision : FieldRow := ⟨0x018, 0, 0, .w1c, 0, clrCP, 0, 1, 0, 1⟩
def cue_evtRaw_updated : FieldRow := ⟨0x018, 1, 1, .w1c, 0, clrCP, 0, 1, 0, 1⟩
def cueCtrl_portEn : FieldRow := ⟨0x044, 0, 0, .rw, 0, clrCP, 0, 1, 0, 1⟩
def cueIndex_entry : FieldRow := ⟨0x048, 11, 0, .rw, 0x000, clrCPF, 0, 1, 0, 4095⟩
def cueData_status : FieldRow := ⟨0x04C, 6, 0, .rw, 0x00, clrCPF, 0, 1, 0, 127⟩
def cueData_parity : FieldRow := ⟨0x04C, 7, 7, .ro, 0, clrCPF, 0, 1, 0, 1⟩
def cueGroupIndex_group : FieldRow := ⟨0x050, 5, 0, .rw, 0x00, clrCP, 0, 1, 0, 63⟩
def cueGroupOwner_function : FieldRow := ⟨0x054, 4, 0, .rwg, 0x00, clrCP, 0, 1, 0, 31⟩
def cueGroupOwner_assigned : FieldRow := ⟨0x054, 5, 5, .rwg, 0, clrCP, 0, 1, 0, 1⟩
def updateCount_count : FieldRow := ⟨0x060, 31, 0, .ro, 0x00000000, clrCP, 0, 1, 0, 4294967295⟩

/-- The fields of the CUE page's own registers (R366). -/
def cueFields : List FieldRow := [
  cue_evtRaw_collision, cue_evtRaw_updated, cueCtrl_portEn,
  cueIndex_entry, cueData_status, cueData_parity,
  cueGroupIndex_group, cueGroupOwner_function, cueGroupOwner_assigned,
  updateCount_count]

/-! FERRYPORT (R392) -/

def ferry_evtRaw_crcError : FieldRow := ⟨0x018, 0, 0, .w1c, 0, clrCPDTN, 0, 1, 0, 1⟩
def ferry_evtRaw_replay : FieldRow := ⟨0x018, 1, 1, .w1c, 0, clrCPDTN, 0, 1, 0, 1⟩
def ferry_evtRaw_dropped : FieldRow := ⟨0x018, 2, 2, .w1c, 0, clrCPDTN, 0, 1, 0, 1⟩
def ferry_evtRaw_linkUp : FieldRow := ⟨0x018, 3, 3, .w1c, 0, clrCPDTN, 0, 1, 0, 1⟩
def ferry_evtRaw_linkLost : FieldRow := ⟨0x018, 4, 4, .w1c, 0, clrCPDTN, 0, 1, 0, 1⟩
def ferry_faultInfo_reason : FieldRow := ⟨0x028, 7, 0, .ro, 0x00, clrCPDTN, 0, 1, 0, 255⟩
def ferry_faultInfo_sysjob : FieldRow := ⟨0x028, 27, 16, .ro, 0x000, clrCPDTN, 0, 1, 0, 4095⟩
def flId_port : FieldRow := ⟨0x040, 3, 0, .ro, 0, clrnone, 0, 1, 0, 15⟩
def flId_die : FieldRow := ⟨0x040, 6, 4, .ro, 0, clrnone, 0, 1, 0, 7⟩
def flCtrl_enable : FieldRow := ⟨0x044, 0, 0, .rwg, 1, clrCPDTN, 0, 1, 0, 1⟩
def flCtrl_spare : FieldRow := ⟨0x044, 1, 1, .rw, 0, clrCPDTN, 0, 1, 0, 1⟩
def flCtrl_channel : FieldRow := ⟨0x044, 3, 2, .rwg, 0, clrCPDTN, 0, 1, 0, 2⟩
def flCtrl_retrain : FieldRow := ⟨0x044, 4, 4, .w1s, 0, clrCPDTN, 0, 1, 0, 1⟩
def flStatus_state : FieldRow := ⟨0x048, 1, 0, .ro, 0, clrCPDTN, 0, 1, 0, 3⟩
def flStatus_poolUsed : FieldRow := ⟨0x048, 10, 2, .ro, 0x000, clrCPDTN, 0, 1, 0, 511⟩
def flNeighbour_node : FieldRow := ⟨0x04C, 14, 0, .ro, 0x0000, clrCPDTN, 0, 1, 0, 32767⟩
def flNeighbour_port : FieldRow := ⟨0x04C, 22, 16, .ro, 0x00, clrCPDTN, 0, 1, 0, 127⟩
def flNeighbour_valid : FieldRow := ⟨0x04C, 31, 31, .ro, 0, clrCPDTN, 0, 1, 0, 1⟩
def flRtt_ns : FieldRow := ⟨0x050, 15, 0, .ro, 0x0000, clrCPDTN, 0, 1, 0, 65535⟩
def txFlits_count : FieldRow := ⟨0x060, 31, 0, .ro, 0x00000000, clrCPDTN, 0, 1, 0, 4294967295⟩
def rxFlits_count : FieldRow := ⟨0x064, 31, 0, .ro, 0x00000000, clrCPDTN, 0, 1, 0, 4294967295⟩
def crcErrCount_count : FieldRow := ⟨0x068, 31, 0, .ro, 0x00000000, clrCPDTN, 0, 1, 0, 4294967295⟩
def ferry_replayCount_count : FieldRow := ⟨0x06C, 31, 0, .ro, 0x00000000, clrCPDTN, 0, 1, 0, 4294967295⟩
def dropCount_count : FieldRow := ⟨0x070, 31, 0, .ro, 0x00000000, clrCPDTN, 0, 1, 0, 4294967295⟩
def fecCorrCount_count : FieldRow := ⟨0x074, 31, 0, .ro, 0x00000000, clrCPDTN, 0, 1, 0, 4294967295⟩
def fecUncorrCount_count : FieldRow := ⟨0x078, 31, 0, .ro, 0x00000000, clrCPDTN, 0, 1, 0, 4294967295⟩

/-- The fields of the FERRYPORT page's own registers (R392). -/
def ferryFields : List FieldRow := [
  ferry_evtRaw_crcError, ferry_evtRaw_replay, ferry_evtRaw_dropped,
  ferry_evtRaw_linkUp, ferry_evtRaw_linkLost, ferry_faultInfo_reason,
  ferry_faultInfo_sysjob, flId_port, flId_die,
  flCtrl_enable, flCtrl_spare, flCtrl_channel,
  flCtrl_retrain, flStatus_state, flStatus_poolUsed,
  flNeighbour_node, flNeighbour_port, flNeighbour_valid,
  flRtt_ns, txFlits_count, rxFlits_count,
  crcErrCount_count, ferry_replayCount_count, dropCount_count,
  fecCorrCount_count, fecUncorrCount_count]

/-! FERRYPKG (R392) -/

def ferryPkg_evtRaw_unboundDrop : FieldRow := ⟨0x018, 0, 0, .w1c, 0, clrCP, 0, 1, 0, 1⟩
def ferryPkg_evtRaw_noroute : FieldRow := ⟨0x018, 1, 1, .w1c, 0, clrCP, 0, 1, 0, 1⟩
def ferryNode_node : FieldRow := ⟨0x044, 14, 0, .rwg, 0x0000, clrCP, 0, 1, 0, 32767⟩
def ferryNode_valid : FieldRow := ⟨0x044, 31, 31, .rwg, 0, clrCP, 0, 1, 0, 1⟩
def routeVaLo_va : FieldRow := ⟨0x048, 31, 12, .rw, 0x00000000, clrCP, 0, 1, 0, 1048575⟩
def routeVaHi_va : FieldRow := ⟨0x04C, 15, 0, .rw, 0x0000, clrCP, 0, 1, 0, 65535⟩
def routeCmd_load : FieldRow := ⟨0x050, 0, 0, .wo, 0, clrnone, 0, 1, 0, 1⟩
def routeStatus_busy : FieldRow := ⟨0x054, 0, 0, .ro, 0, clrCP, 0, 1, 0, 1⟩
def routeStatus_result : FieldRow := ⟨0x054, 2, 1, .ro, 0, clrCP, 0, 1, 0, 3⟩
def routeStatus_overrun : FieldRow := ⟨0x054, 3, 3, .w1c, 0, clrCP, 0, 1, 0, 1⟩
def routeStatus_loaded : FieldRow := ⟨0x054, 4, 4, .ro, 0, clrCP, 0, 1, 0, 1⟩
def fjSysjob_sysjob : FieldRow := ⟨0x058, 11, 0, .rw, 0x000, clrCP, 0, 1, 0, 4095⟩
def fjJob_job : FieldRow := ⟨0x05C, 15, 0, .rw, 0x0000, clrCP, 0, 1, 0, 65535⟩
def fjMapLo_va : FieldRow := ⟨0x060, 31, 1, .rw, 0x00000000, clrCP, 0, 1, 0, 2147483647⟩
def fjMapHi_va : FieldRow := ⟨0x064, 15, 0, .rw, 0x0000, clrCP, 0, 1, 0, 65535⟩
def fjCmd_op : FieldRow := ⟨0x068, 1, 0, .wo, 0, clrnone, 0, 1, 0, 3⟩
def fjStatus_busy : FieldRow := ⟨0x06C, 0, 0, .ro, 0, clrCP, 0, 1, 0, 1⟩
def fjStatus_result : FieldRow := ⟨0x06C, 3, 1, .ro, 0, clrCP, 0, 1, 0, 7⟩
def fjStatus_overrun : FieldRow := ⟨0x06C, 4, 4, .w1c, 0, clrCP, 0, 1, 0, 1⟩
def unboundCount_count : FieldRow := ⟨0x070, 31, 0, .ro, 0x00000000, clrCP, 0, 1, 0, 4294967295⟩
def norouteCount_count : FieldRow := ⟨0x074, 31, 0, .ro, 0x00000000, clrCP, 0, 1, 0, 4294967295⟩

/-- The fields of the FERRYPKG page's own registers (R392). -/
def ferryPkgFields : List FieldRow := [
  ferryPkg_evtRaw_unboundDrop, ferryPkg_evtRaw_noroute, ferryNode_node,
  ferryNode_valid, routeVaLo_va, routeVaHi_va,
  routeCmd_load, routeStatus_busy, routeStatus_result,
  routeStatus_overrun, routeStatus_loaded, fjSysjob_sysjob,
  fjJob_job, fjMapLo_va, fjMapHi_va,
  fjCmd_op, fjStatus_busy, fjStatus_result,
  fjStatus_overrun, unboundCount_count, norouteCount_count]

/-! WATCHMAN (R415) -/

def wmVersion_version : FieldRow := ⟨0x040, 31, 0, .ro, 0, clrCW, 0, 1, 0, 4294967295⟩
def wmStatus_state : FieldRow := ⟨0x044, 1, 0, .ro, 0, clrCW, 0, 1, 0, 3⟩
def wmStatus_i3c : FieldRow := ⟨0x044, 2, 2, .ro, 0, clrCW, 0, 1, 0, 1⟩
def wmStatus_dynAddr : FieldRow := ⟨0x044, 9, 3, .ro, 0x00, clrCW, 0, 1, 0, 127⟩
def wmStatus_eid : FieldRow := ⟨0x044, 17, 10, .ro, 0x00, clrCW, 0, 1, 0, 255⟩
def wmStatus_slots : FieldRow := ⟨0x044, 21, 18, .ro, 0, clrCW, 0, 1, 0, 15⟩
def wmStatus_updating : FieldRow := ⟨0x044, 22, 22, .ro, 0, clrCW, 0, 1, 0, 1⟩
def wmAlert_fault : FieldRow := ⟨0x048, 0, 0, .w1c, 0, clrCW, 0, 1, 0, 1⟩
def wmAlert_thermal : FieldRow := ⟨0x048, 1, 1, .w1c, 0, clrCW, 0, 1, 0, 1⟩
def wmAlert_repair : FieldRow := ⟨0x048, 2, 2, .w1c, 0, clrCW, 0, 1, 0, 1⟩
def wmAlert_hostLink : FieldRow := ⟨0x048, 3, 3, .w1c, 0, clrCW, 0, 1, 0, 1⟩
def wmAlert_withdrawal : FieldRow := ⟨0x048, 4, 4, .w1c, 0, clrCW, 0, 1, 0, 1⟩
def wmAlert_bootFail : FieldRow := ⟨0x048, 5, 5, .w1c, 0, clrCW, 0, 1, 0, 1⟩
def wmAlertEn_enable : FieldRow := ⟨0x04C, 5, 0, .rw, 0x3F, clrCW, 0, 1, 0, 63⟩
def wmVendor_pen : FieldRow := ⟨0x050, 31, 0, .ro, 0, clrnone, 0, 1, 0, 4294967295⟩
def wmDenyCount_count : FieldRow := ⟨0x060, 31, 0, .ro, 0x00000000, clrCW, 0, 1, 0, 4294967295⟩

/-- The fields of the WATCHMAN page's own registers (R415). -/
def watchmanFields : List FieldRow := [
  wmVersion_version, wmStatus_state, wmStatus_i3c,
  wmStatus_dynAddr, wmStatus_eid, wmStatus_slots,
  wmStatus_updating, wmAlert_fault, wmAlert_thermal,
  wmAlert_repair, wmAlert_hostLink, wmAlert_withdrawal,
  wmAlert_bootFail, wmAlertEn_enable, wmVendor_pen,
  wmDenyCount_count]

/-! SQUARE_CTRL (R434) -/

def sqId_device : FieldRow := ⟨0x040, 15, 0, .ro, 0x0E80, clrnone, 0, 1, 0, 65535⟩
def sqId_minor : FieldRow := ⟨0x040, 19, 16, .ro, 0, clrnone, 0, 1, 0, 15⟩
def sqId_major : FieldRow := ⟨0x040, 23, 20, .ro, 0, clrnone, 0, 1, 0, 15⟩
def sqFuse_grade : FieldRow := ⟨0x044, 1, 0, .ro, 0, clrnone, 0, 1, 0, 3⟩
def sqFuse_secureBoot : FieldRow := ⟨0x044, 2, 2, .ro, 0, clrnone, 0, 1, 0, 1⟩
def sqSerialLo_serial : FieldRow := ⟨0x048, 31, 0, .ro, 0, clrnone, 0, 1, 0, 4294967295⟩
def sqSerialHi_serial : FieldRow := ⟨0x04C, 31, 0, .ro, 0, clrnone, 0, 1, 0, 4294967295⟩
def sqCfgVersion_version : FieldRow := ⟨0x050, 31, 0, .ro, 0, clrC, 0, 1, 0, 4294967295⟩
def sqResetCause_cold : FieldRow := ⟨0x054, 0, 0, .ro, 1, clrC, 0, 1, 0, 1⟩
def sqResetCause_perst : FieldRow := ⟨0x054, 1, 1, .ro, 0, clrC, 0, 1, 0, 1⟩
def sqResetCause_watchman : FieldRow := ⟨0x054, 2, 2, .ro, 0, clrC, 0, 1, 0, 1⟩
def sqResetCause_retain : FieldRow := ⟨0x054, 3, 3, .ro, 0, clrC, 0, 1, 0, 1⟩
def sqUptime_ms : FieldRow := ⟨0x058, 31, 0, .ro, 0x00000000, clrCP, 0, 1, 0, 4294967295⟩
def sqSnapAll_take : FieldRow := ⟨0x05C, 0, 0, .w1s, 0, clrCP, 0, 1, 0, 1⟩
def sqSnapAll_clear : FieldRow := ⟨0x05C, 1, 1, .rw, 0, clrCP, 0, 1, 0, 1⟩
def sqScratch_data : FieldRow := ⟨0x060, 31, 0, .rw, 0x00000000, clrC, 4, 4, 0, 4294967295⟩

/-- The fields of the SQUARE_CTRL page's own registers (R434). -/
def squareCtrlFields : List FieldRow := [
  sqId_device, sqId_minor, sqId_major,
  sqFuse_grade, sqFuse_secureBoot, sqSerialLo_serial,
  sqSerialHi_serial, sqCfgVersion_version, sqResetCause_cold,
  sqResetCause_perst, sqResetCause_watchman, sqResetCause_retain,
  sqUptime_ms, sqSnapAll_take, sqSnapAll_clear,
  sqScratch_data]

/-! CROFT_CTRL (R436) -/

def croftId_die : FieldRow := ⟨0x040, 2, 0, .ro, 0, clrnone, 0, 1, 0, 7⟩
def croftStatus_state : FieldRow := ⟨0x044, 2, 0, .ro, 0, clrCP, 0, 1, 0, 7⟩
def croftStatus_pagesPowered : FieldRow := ⟨0x044, 3, 3, .ro, 1, clrCP, 0, 1, 0, 1⟩
def croftLooms_enabled : FieldRow := ⟨0x048, 31, 0, .ro, 0, clrnone, 0, 1, 0, 4294967295⟩

/-- The fields of the CROFT_CTRL page's own registers (R436). -/
def croftCtrlFields : List FieldRow := [
  croftId_die, croftStatus_state, croftStatus_pagesPowered,
  croftLooms_enabled]

/-! FAULT (R459) -/

def fault_evtRaw_fault : FieldRow := ⟨0x018, 0, 0, .w1c, 0, clrCP, 0, 1, 0, 1⟩
def fault_evtRaw_restart : FieldRow := ⟨0x018, 1, 1, .w1c, 0, clrCP, 0, 1, 0, 1⟩
def fault_evtRaw_fence : FieldRow := ⟨0x018, 2, 2, .w1c, 0, clrCP, 0, 1, 0, 1⟩
def fault_evtRaw_jobEnded : FieldRow := ⟨0x018, 3, 3, .w1c, 0, clrCP, 0, 1, 0, 1⟩
def faultCtrl_irqEn : FieldRow := ⟨0x044, 0, 0, .rw, 1, clrCP, 0, 1, 0, 1⟩
def faultCtrl_vector : FieldRow := ⟨0x044, 11, 1, .rw, 0x000, clrCP, 0, 1, 0, 2047⟩
def faultCtrl_reserve : FieldRow := ⟨0x044, 13, 12, .rwg, 0, clrCP, 0, 1, 0, 2⟩
def faultCtrl_fenceLimit : FieldRow := ⟨0x044, 17, 14, .rwg, 0x3, clrCP, 0, 1, 1, 15⟩
def faultCtrl_maxRestarts : FieldRow := ⟨0x044, 20, 18, .rwg, 0x3, clrCP, 0, 1, 1, 7⟩
def attnSum_dies : FieldRow := ⟨0x048, 7, 0, .ro, 0x00, clrCP, 0, 1, 0, 255⟩
def attnSum_stacks : FieldRow := ⟨0x048, 8, 8, .ro, 0, clrCP, 0, 1, 0, 1⟩
def attnSum_square : FieldRow := ⟨0x048, 9, 9, .ro, 0, clrCP, 0, 1, 0, 1⟩
def faultFence_fenced : FieldRow := ⟨0x04C, 7, 0, .rwg, 0x00, clrCP, 0, 1, 0, 255⟩
def faultLastJob_job : FieldRow := ⟨0x050, 15, 0, .ro, 0x0000, clrCP, 0, 1, 0, 65535⟩
def faultLastJob_function : FieldRow := ⟨0x050, 20, 16, .ro, 0x00, clrCP, 0, 1, 0, 31⟩
def faultLastSrc_page : FieldRow := ⟨0x054, 15, 0, .ro, 0x0000, clrCP, 0, 1, 0, 65535⟩
def faultLastSrc_instance : FieldRow := ⟨0x054, 23, 16, .ro, 0x00, clrCP, 0, 1, 0, 255⟩
def faultLastSrc_unit : FieldRow := ⟨0x054, 29, 24, .ro, 0x00, clrCP, 0, 1, 0, 63⟩
def faultLastTimeLo_transit : FieldRow := ⟨0x058, 31, 0, .ro, 0x00000000, clrCP, 0, 1, 0, 4294967295⟩
def faultLastTimeHi_transit : FieldRow := ⟨0x05C, 31, 0, .ro, 0x00000000, clrCP, 0, 1, 0, 4294967295⟩
def faultCount_count : FieldRow := ⟨0x060, 31, 0, .ro, 0x00000000, clrCP, 0, 1, 0, 4294967295⟩
def restartCount_count : FieldRow := ⟨0x064, 31, 0, .ro, 0x00000000, clrCP, 0, 1, 0, 4294967295⟩
def fenceCount_count : FieldRow := ⟨0x068, 31, 0, .ro, 0x00000000, clrCP, 0, 1, 0, 4294967295⟩
def jobEndCount_count : FieldRow := ⟨0x06C, 31, 0, .ro, 0x00000000, clrCP, 0, 1, 0, 4294967295⟩
def ledgerSeq_seq : FieldRow := ⟨0x070, 31, 0, .ro, 0, clrCP, 0, 1, 0, 4294967295⟩

/-- The fields of the FAULT page's own registers (R459). -/
def faultFields : List FieldRow := [
  fault_evtRaw_fault, fault_evtRaw_restart, fault_evtRaw_fence,
  fault_evtRaw_jobEnded, faultCtrl_irqEn, faultCtrl_vector,
  faultCtrl_reserve, faultCtrl_fenceLimit, faultCtrl_maxRestarts,
  attnSum_dies, attnSum_stacks, attnSum_square,
  faultFence_fenced, faultLastJob_job, faultLastJob_function,
  faultLastSrc_page, faultLastSrc_instance, faultLastSrc_unit,
  faultLastTimeLo_transit, faultLastTimeHi_transit, faultCount_count,
  restartCount_count, fenceCount_count, jobEndCount_count,
  ledgerSeq_seq]

/-! POWER (R460) -/

def power_evtRaw_capped : FieldRow := ⟨0x018, 0, 0, .w1c, 0, clrCP, 0, 1, 0, 1⟩
def power_evtRaw_trip : FieldRow := ⟨0x018, 1, 1, .w1c, 0, clrCP, 0, 1, 0, 1⟩
def power_evtRaw_droop : FieldRow := ⟨0x018, 2, 2, .w1c, 0, clrCP, 0, 1, 0, 1⟩
def power_evtRaw_stateChange : FieldRow := ⟨0x018, 3, 3, .w1c, 0, clrCP, 0, 1, 0, 1⟩
def power_faultInfo_unit : FieldRow := ⟨0x028, 5, 0, .ro, 0x00, clrCP, 0, 1, 0, 63⟩
def power_faultInfo_value : FieldRow := ⟨0x028, 15, 8, .ro, 0x00, clrCP, 0, 1, 0, 255⟩
def powerCtrl_retain : FieldRow := ⟨0x044, 0, 0, .rw, 0, clrC, 0, 1, 0, 1⟩
def powerCtrl_duskEn : FieldRow := ⟨0x044, 1, 1, .rw, 1, clrCP, 0, 1, 0, 1⟩
def powerCtrl_nightwatch : FieldRow := ⟨0x044, 2, 2, .w1s, 0, clrCP, 0, 1, 0, 1⟩
def powerCap_watts : FieldRow := ⟨0x048, 11, 0, .rw, 0xAF0, clrCP, 0, 1, 1000, 2800⟩
def thermalCap_degc : FieldRow := ⟨0x04C, 6, 0, .rw, 0x69, clrCP, 0, 1, 70, 105⟩
def powerStatus_limit : FieldRow := ⟨0x050, 1, 0, .ro, 0, clrCP, 0, 1, 0, 3⟩
def powerStatus_aclkMhz : FieldRow := ⟨0x050, 12, 2, .ro, 0x708, clrCP, 0, 1, 0, 2047⟩
def powerStatus_duty : FieldRow := ⟨0x050, 19, 13, .ro, 0x40, clrCP, 0, 1, 0, 127⟩
def powerNow_watts : FieldRow := ⟨0x054, 11, 0, .ro, 0x000, clrCP, 0, 1, 0, 4095⟩
def tempHot_degc : FieldRow := ⟨0x058, 7, 0, .ro, 0x00, clrCP, 0, 1, 0, 255⟩
def tempHot_unit : FieldRow := ⟨0x058, 13, 8, .ro, 0x00, clrCP, 0, 1, 0, 63⟩
def dieCmd_die : FieldRow := ⟨0x05C, 2, 0, .wo, 0, clrnone, 0, 1, 0, 7⟩
def dieCmd_op : FieldRow := ⟨0x05C, 5, 4, .wo, 0, clrnone, 0, 1, 0, 3⟩
def dieStatus_busy : FieldRow := ⟨0x060, 0, 0, .ro, 0, clrCP, 0, 1, 0, 1⟩
def dieStatus_result : FieldRow := ⟨0x060, 2, 1, .ro, 0, clrCP, 0, 1, 0, 3⟩
def dieStatus_overrun : FieldRow := ⟨0x060, 3, 3, .w1c, 0, clrCP, 0, 1, 0, 1⟩
def nwWakeLo_transit : FieldRow := ⟨0x064, 31, 0, .rw, 0x00000000, clrCP, 0, 1, 0, 4294967295⟩
def nwWakeHi_transit : FieldRow := ⟨0x068, 31, 0, .rw, 0x00000000, clrCP, 0, 1, 0, 4294967295⟩
def capCount_count : FieldRow := ⟨0x070, 31, 0, .ro, 0x00000000, clrCP, 0, 1, 0, 4294967295⟩
def tripCount_count : FieldRow := ⟨0x074, 31, 0, .ro, 0x00000000, clrCP, 0, 1, 0, 4294967295⟩

/-- The fields of the POWER page's own registers (R460). -/
def powerFields : List FieldRow := [
  power_evtRaw_capped, power_evtRaw_trip, power_evtRaw_droop,
  power_evtRaw_stateChange, power_faultInfo_unit, power_faultInfo_value,
  powerCtrl_retain, powerCtrl_duskEn, powerCtrl_nightwatch,
  powerCap_watts, thermalCap_degc, powerStatus_limit,
  powerStatus_aclkMhz, powerStatus_duty, powerNow_watts,
  tempHot_degc, tempHot_unit, dieCmd_die,
  dieCmd_op, dieStatus_busy, dieStatus_result,
  dieStatus_overrun, nwWakeLo_transit, nwWakeHi_transit,
  capCount_count, tripCount_count]
/-- HBM_SPARE: spare rows left, one byte per pseudo-channel (R264). DESIGN CHOICE (log 5): 1 where the table says
'from stack'. -/
def hbmSpare : FieldRow := ⟨0xC00, 31, 0, .ro, 0x01010101, clrnone, 4, 16, 0, 0xFFFFFFFF⟩

/-- LOADER_KEY: a hash of 12 words and an enable bit per slot (R330). -/
def loaderKeyFields : List FieldRow :=
  ((numsFrom 0 12).map fun i => ⟨0xC00 + 4 * i, 31, 0, .rwg, 0, clrC, 64, 4, 0, 0xFFFFFFFF⟩)
    ++ [⟨0xC30, 0, 0, .rwg, 0, clrC, 64, 4, 0, 1⟩]

/-- DIE_MAP: for logical die i, a valid bit over its physical die (R332). -/
def dieMap : FieldRow := ⟨0x04C, 31, 0, .ro, 0xFEDCBA98, clrCP, 0, 1, 0, 0xFFFFFFFF⟩

/-! ### Pages (R431, R432) -/

/-- The page types of Table PAGE-3; the FERRY package page and the ring registers of BAR4 stand apart. -/
inductive PageType where
  | squareCtrl | host | watchman | meridian | almanac | cue | power | fault | loader | croftCtrl | hamlet | loom
  | sieve | firefly | gate | commons | bells | ferry | ferryPkg | granary | hbm | ring
  deriving DecidableEq, Repr

/-- PAGE_ID.type (Table PAGE-3). -/
def PageType.code : PageType → Nat
  | .squareCtrl => 0x0001 | .host => 0x0002 | .watchman => 0x0003 | .meridian => 0x0004 | .almanac => 0x0005
  | .cue => 0x0006 | .power => 0x0007 | .fault => 0x0008 | .loader => 0x0009 | .croftCtrl => 0x0010
  | .hamlet => 0x0011 | .loom => 0x0012 | .sieve => 0x0013 | .firefly => 0x0014 | .gate => 0x0015
  | .commons => 0x0016 | .bells => 0x0017 | .ferry => 0x0018 | .ferryPkg => 0x0018 | .granary => 0x0020
  | .hbm => 0x0021 | .ring => 0

/-- The page set of a page type (Table PAGE-3). -/
def PageType.pageSet : PageType → Nat
  | .squareCtrl | .meridian | .almanac | .cue | .power | .fault | .croftCtrl | .ferryPkg => clrCP
  | .host => clrCPF
  | .watchman => clrCW
  | .loader | .granary | .hbm => clrCPN
  | .hamlet | .loom | .sieve | .firefly | .gate | .commons | .bells | .ferry => clrCPDTN
  | .ring => clrCPF

/-- The block registers of a page type. -/
def PageType.ownFields : PageType → List FieldRow
  | .squareCtrl => squareCtrlFields | .host => hostFields | .watchman => watchmanFields
  | .meridian => meridianFields | .almanac => almanacFields | .cue => cueFields | .power => powerFields
  | .fault => faultFields | .loader => loaderFields ++ dieMap :: loaderKeyFields | .croftCtrl => croftCtrlFields
  | .hamlet => hamletFields | .loom => loomFields | .sieve => sieveFields | .firefly => fireflyFields
  | .gate => gateFields | .commons => commonsFields | .bells => bellsFields | .ferry => ferryFields
  | .ferryPkg => ferryPkgFields | .granary => granaryFields | .hbm => hbmFields ++ [hbmSpare] | .ring => ringFields

/-- The counters of a page type (R428), 64-bit ones by both words. RC registers are no counters. -/
def PageType.counters : PageType → List Nat
  | .loom => [0x060, 0x064, 0x068, 0x06C, 0x070, 0x074, 0x078]
  | .sieve | .gate => [0x060, 0x064, 0x068, 0x06C, 0x070]
  | .granary => [0x060, 0x064, 0x068, 0x06C, 0x070, 0x074, 0x078]
  | .hbm => [0x070, 0x074, 0x078, 0x07C]
  | .firefly => [0x060]
  | .hamlet => [0x060, 0x064]
  | .commons => [0x060, 0x064]
  | .bells => [0x060]
  | .loader => [0x060, 0x064, 0x068]
  | .almanac => [0x070, 0x074, 0x078, 0x07C]
  | .cue => [0x060]
  | .ferry => [0x060, 0x064, 0x068, 0x06C, 0x070, 0x074, 0x078]
  | .ferryPkg => [0x070, 0x074]
  | .host => [0x060, 0x064]
  | .watchman => [0x060]
  | .fault => [0x060, 0x064, 0x068, 0x06C]
  | .power => [0x070, 0x074]
  | .squareCtrl | .meridian | .croftCtrl | .ring => []

/-- The _LO offset of the 64-bit counters whose read latches (R429). -/
def PageType.latching : PageType → List Nat
  | .loom | .sieve | .gate | .granary | .hamlet => [0x060]
  | .meridian => [0x058]
  | _ => []

/-- The bits of the fields of a list that satisfy a test, at offset `off`. -/
def fieldMask (p : FieldRow → Bool) (off : Nat) (fs : List FieldRow) : Word :=
  fs.foldl (fun m f => if f.off = off && p f then m ||| maskOf f.hi f.lo else m) 0

/-- The defined bits of EVT_RAW of a page type. -/
def PageType.evtMask (t : PageType) : Word := fieldMask (fun _ => true) 0x018 t.ownFields

/-- The page captures run-time faults: it has a FAULT_INFO (R419), or it is FAULT, whose map has a FAULT_CODE for 0x4F
(R438, Table FAULT-10) and no FAULT_INFO. DEDUCED (log 14). -/
def PageType.hasFault (t : PageType) : Bool := t == .fault || t.ownFields.any fun f => f.off == 0x028

/-- The letters that clear FAULT_INFO and with it FAULT_CODE (R418). -/
def PageType.faultClr (t : PageType) : Nat :=
  match t.ownFields.find? fun f => f.off == 0x028 with
  | some f => f.clr
  | none => if t = .fault then clrCP else 0

/-- The page holds guarded fields. -/
def PageType.hasGuarded (t : PageType) : Bool := t.ownFields.any fun f => f.acc == .rwg

/-- PAGE_CAPS (R418). -/
def PageType.caps (t : PageType) : Nat :=
  (if t.evtMask = 0 then 0 else 1) + (if t.hasFault then 2 else 0) + (if t.counters = [] then 0 else 4)
    + (if t.hasGuarded then 8 else 0) + (if t = .host then 16 else 0) + (if t = .watchman then 32 else 0)

/-- The owners of a page at reset, Table HOST-11 (R409). PRESUMED (log 4): the Square configuration image gives the
table's defaults. 0 the host, 1 the Watchman, 2 shared. -/
def PageType.defaultOwner : PageType → Nat
  | .watchman => 1
  | .squareCtrl | .power | .fault | .loader | .hbm | .host | .cue | .ferryPkg => 2
  | _ => 0

/-- The common registers that are stored (R418, R419); the others are computed when read. -/
def PageType.commonFields (t : PageType) : List FieldRow :=
  let ps := t.pageSet
  [⟨0x008, 1, 0, .wmRw, t.defaultOwner, clrC, 0, 1, 0, 3⟩, ⟨0x014, 0, 0, .rw, 1, ps, 0, 1, 0, 1⟩]
    ++ (if t.evtMask = 0 then [] else [⟨0x01C, 31, 0, .rw, t.evtMask.toNat, ps, 0, 1, 0, 0xFFFFFFFF⟩])
    ++ (if t.hasFault then [⟨0x024, 7, 0, .ro, 0, t.faultClr, 0, 1, 0, 0xFF⟩, ⟨0x024, 15, 8, .ro, 0, t.faultClr, 0, 1, 0, 0xFF⟩,
          ⟨0x024, 31, 31, .w1c, 0, t.faultClr, 0, 1, 0, 1⟩] else [])
    ++ (if t.counters = [] then [] else [⟨0x030, 0, 0, .w1s, 0, ps, 0, 1, 0, 1⟩, ⟨0x030, 1, 1, .rw, 0, ps, 0, 1, 0, 1⟩,
          ⟨0x030, 2, 2, .rw, 0, ps, 0, 1, 0, 1⟩, ⟨0x034, 31, 0, .ro, 0, ps, 0, 1, 0, 0xFFFFFFFF⟩,
          ⟨0x038, 31, 0, .ro, 0, ps, 0, 1, 0, 0xFFFFFFFF⟩, ⟨0x03C, 31, 0, .ro, 0, ps, 0, 1, 0, 0xFFFFFFFF⟩])

/-- Every stored field of a page type. BAR4 pages have no common registers (R433). -/
def PageType.fields (t : PageType) : List FieldRow :=
  if t = .ring then t.ownFields else t.commonFields ++ t.ownFields

/-- A field stands at page offset `off`, for a repeated register at one of its places. -/
def FieldRow.at (f : FieldRow) (off : Nat) : Bool :=
  if f.count ≤ 1 then f.off == off
  else decide (f.off ≤ off) && (off - f.off) % f.stride == 0 && decide ((off - f.off) / f.stride < f.count)

/-- The fields at page offset `off`. -/
def PageType.fieldsAt (t : PageType) (off : Nat) : List FieldRow := t.fields.filter (·.at off)

/-- A page: its type and its place. `i` is a function, port, stack, Hamlet or ring, `j` a Loom. -/
structure Page where
  type : PageType
  die : Nat
  i : Nat
  j : Nat
  deriving DecidableEq, Repr

/-- A page of the Square die. -/
def sqPage (t : PageType) : Page := ⟨t, 0, 0, 0⟩
def loomPage (d h l : Nat) : Page := ⟨.loom, d, h, l⟩
def sievePage (d h : Nat) : Page := ⟨.sieve, d, h, 0⟩
def fireflyPage (d h : Nat) : Page := ⟨.firefly, d, h, 0⟩
def hamletPage (d h : Nat) : Page := ⟨.hamlet, d, h, 0⟩
def diePage (t : PageType) (d : Nat) : Page := ⟨t, d, 0, 0⟩
def portPage (d p : Nat) : Page := ⟨.ferry, d, p, 0⟩
def stackPage (t : PageType) (k : Nat) : Page := ⟨t, k / 2, k, 0⟩
def hostPage (f : Nat) : Page := ⟨.host, 0, f, 0⟩
/-- The registers of ring `r` of function `f` (R433). -/
def ringPage (f r : Nat) : Page := ⟨.ring, 0, f, r⟩

/-- Where a page lies: BAR0 offsets of Table PAGE-4 through the PF, HOST pages in the HOST window; the ring registers
of function f past BAR0 (they are no part of it). -/
def Page.base (p : Page) : Nat :=
  let D := 0x1000000 + p.die * 0x400000
  let G := 0x3000000 + p.i * 0x100000
  match p.type with
  | .squareCtrl => 0x1000 | .watchman => 0x3000 | .meridian => 0x4000 | .almanac => 0x5000 | .cue => 0x6000
  | .power => 0x7000 | .fault => 0x8000 | .loader => 0x9000 | .ferryPkg => 0xA000
  | .host => 0x20000 + p.i * 0x1000
  | .croftCtrl => D
  | .hamlet => D + 0xC0000 + p.i * 0x1000
  | .commons => D + 0xC8000
  | .bells => D + 0xD0000
  | .loom => D + 0x100000 + p.i * 0x8000 + p.j * 0x1000
  | .sieve => D + 0x140000 + p.i * 0x1000
  | .firefly => D + 0x144000 + p.i * 0x1000
  | .gate => D + 0x180000
  | .ferry => D + 0x1C0000 + p.i * 0x1000
  | .granary => G
  | .hbm => G + 0x1000
  | .ring => 0x10000000 + p.i * 0x1000 + p.j * 0x40

/-- The page of the Square range of BAR0 at page number `n`. -/
def squarePageAt (n : Nat) : Option Page :=
  match n with
  | 1 => some (sqPage .squareCtrl) | 3 => some (sqPage .watchman) | 4 => some (sqPage .meridian)
  | 5 => some (sqPage .almanac) | 6 => some (sqPage .cue) | 7 => some (sqPage .power) | 8 => some (sqPage .fault)
  | 9 => some (sqPage .loader) | 10 => some (sqPage .ferryPkg)
  | _ => if 0x20 ≤ n && n < 0x40 then some (hostPage (n - 0x20)) else none

/-- The page of a Croft range at page number `n` of the die. -/
def croftPageAt (d n : Nat) : Option Page :=
  if n = 0 then some (diePage .croftCtrl d)
  else if 0xC0 ≤ n && n < 0xC4 then some (hamletPage d (n - 0xC0))
  else if n = 0xC8 then some (diePage .commons d)
  else if n = 0xD0 then some (diePage .bells d)
  else if 0x100 ≤ n && n < 0x120 then some (loomPage d ((n - 0x100) / 8) ((n - 0x100) % 8))
  else if 0x140 ≤ n && n < 0x144 then some (sievePage d (n - 0x140))
  else if 0x144 ≤ n && n < 0x148 then some (fireflyPage d (n - 0x144))
  else if n = 0x180 then some (diePage .gate d)
  else if 0x1C0 ≤ n && n < 0x1CE then some (portPage d (n - 0x1C0))
  else none

/-- The page an address lies in, and the offset in it (R432). The accessing function's own HOST page at 0x2000 is
resolved before this (R432); a ring's registers are 0x40 bytes. -/
def pageAt (a : Nat) : Option (Page × Nat) :=
  if a < 0x40000 then (squarePageAt (a / 0x1000)).map (·, a % 0x1000)
  else if a < 0x1000000 then none
  else if a < 0x3000000 then
    (croftPageAt ((a - 0x1000000) / 0x400000) ((a - 0x1000000) % 0x400000 / 0x1000)).map (·, a % 0x1000)
  else if a < 0x4000000 then
    let k := (a - 0x3000000) / 0x100000
    match (a - 0x3000000) % 0x100000 / 0x1000 with
    | 0 => some (stackPage .granary k, a % 0x1000)
    | 1 => some (stackPage .hbm k, a % 0x1000)
    | _ => none
  else if 0x10000000 ≤ a && a < 0x10020000 then
    let o := (a - 0x10000000) % 0x1000
    if o < 0x1000 then some (ringPage ((a - 0x10000000) / 0x1000) (o / 0x40), o % 0x40) else none
  else none

/-- Address of a register. -/
def Page.reg (p : Page) (off : Nat) : Nat := p.base + off

/-- The value of the stored fields at reset (R7). -/
def PageType.resetWord (t : PageType) (off : Nat) : Word :=
  (t.fieldsAt off).foldl (fun w f => setField w f.hi f.lo f.reset) 0

/-- What a register holds when nothing has changed it. -/
def resetWord (a : Nat) : Word :=
  match pageAt a with
  | some (p, off) => p.type.resetWord off
  | none => 0

/-- The bits of the register at page offset `off` that the letters `ls` clear. -/
def PageType.clrMask (t : PageType) (ls off : Nat) : Word :=
  (t.fieldsAt off).foldl (fun m f => if f.clr &&& ls = 0 then m else m ||| maskOf f.hi f.lo) 0

/-- A register word after a clearing event with letters `ls` (R7). -/
def PageType.clearWord (t : PageType) (ls off : Nat) (w : Word) : Word :=
  let m := t.clrMask ls off
  (w &&& ~~~m) ||| (t.resetWord off &&& m)

end Sys2Proof.Machine
end

