-- ==== Sys2Proof/Machine/Records.lean ====
section
/-! DEFINITION. The records that State is built from: fuses and board, the units with their queues and memories, what
the loader and the Almanac hold, the Ferry ports, the Meridian, the Watchman, and what the package sends out. -/

namespace Sys2Proof.Machine

/-! ### Package -/

/-- What production fixed (R2, R19, R411, R434): no rule gives a part's values. DESIGN CHOICE (log 3): grade F256 with
every Loom enabled, no key fused. -/
structure Fuses where
  grade : Nat := 0
  looms : List Nat := [0xFFFFFFFF, 0xFFFFFFFF, 0xFFFFFFFF, 0xFFFFFFFF, 0xFFFFFFFF, 0xFFFFFFFF, 0xFFFFFFFF, 0xFFFFFFFF]
  secureBoot : Bool := false
  serial : Nat := 0
  minor : Nat := 0
  major : Nat := 1
  vendor : Nat := 0
  keyHash : Nat := 0
  minSvn : List Nat := [0, 0, 0, 0]
  mac : Nat := 0
  /-- The provisioned ID of the management bus, without the WM_ADDR strap (R402). -/
  pid : Nat := 0
  deriving DecidableEq, Repr

/-- What the configuration space of a function holds beside Table HOST-2 (R393, R396): Memory Space Enable, D3hot, the
payload and the read request sizes in bytes, and the vectors of its MSI-X table that are masked. PRESUMED (log 7):
the reset values are those of PCI Express. HOST_LINK_UP brings what the host writes there. -/
structure PcieFn where
  memEnable : Bool := false
  d3hot : Bool := false
  maxPayload : Nat := 128
  maxReadReq : Nat := 512
  masked : List Nat := []
  deriving DecidableEq, Repr

/-- The board's lands and what the Square die makes of them (R401, R454, R465 to R477). `night` is 0 outside
NIGHTWATCH, 1 while a request is pending, 2 in NIGHTWATCH. `perstPark` is a PERST_N release held during EXTEST,
`training` says that HBM training runs, `held` that the package is held in reset until MAIN_OK rises, `vfs` is the
number of enabled virtual functions (PRESUMED 0 at reset, log 7). -/
structure Board where
  island : Bool := true
  mainOk : Bool := true
  perst : Bool := true
  /-- The level of TRST_N, low by its pull at reset, and whether the TAP is in EXTEST (R476, R477). -/
  trstN : Bool := false
  extest : Bool := false
  perstPark : Bool := false
  training : Bool := true
  held : Bool := false
  squareFail : Bool := false
  hubFail : Bool := false
  night : Nat := 0
  recovery : Bool := false
  wmAddr : Nat := 0
  link : Bool := false
  vfs : Nat := 0
  /-- The sizes of BAR2 of the PF and of all VFs, as powers of two (R394, R395). -/
  bar2 : Nat := 36
  vfBar2 : Nat := 36
  pcie : SMap PcieFn := []
  /-- The value of `now` at the last C or P, the origin of SQ_UPTIME. -/
  upSince : Nat := 0
  deriving DecidableEq, Repr

/-- The guard of a page (R421): who armed it and for which offset. -/
structure Guard where
  byWatchman : Bool
  offset : Nat
  deriving DecidableEq, Repr

/-- A field held on behalf of the power manager and of the fault manager (R441, R453, R455, R456). -/
structure Power where
  /-- The DIE_CMD request that waits or runs: die and op (1 TWILIGHT, 2 DAYLIGHT). -/
  dieReq : Option (Nat × Nat) := none
  /-- A cap that was given to the Almanac and is not yet applied: limit 1 power, 2 thermal, ACLK in MHz and duty. -/
  capReq : Option (Nat × Nat × Nat) := none
  /-- A re-test that was triggered and has not run, with the reason of its withdrawals (R352, Table TIME-4). -/
  retest : Option Nat := none
  /-- Temporary fences: die and reason (3 thermal, 4 droop). -/
  tempFence : List (Nat × Nat) := []
  /-- Permanent fences in force (the Ledger's fence records). -/
  permFence : List Nat := []
  /-- Counting faults: die and SQ_UPTIME in ms (R441). -/
  fenceFaults : List (Nat × Nat) := []
  /-- Dies in TWILIGHT. -/
  twilight : List Nat := []
  /-- Dies in DUSK. -/
  dusk : List Nat := []
  /-- The instant of the last ramp grant of each die (R84). -/
  grantAt : SMap Nat := []
  /-- When the CROFT reset of a die ends (R436, R447). -/
  resetEnd : SMap Nat := []
  deriving DecidableEq, Repr

/-- A run-time fault on its way to the fault manager (R438): code, the base address of the page, its FAULT_INFO, the
job of the unit, the address of a 0x41, and the instant at which it was sent. -/
structure FaultRec where
  code : Nat
  page : Nat
  info : Word
  job : Option Nat
  sector : Nat := 0
  at_ : Nat := 0
  deriving DecidableEq, Repr

/-- A Ledger record (Table FAULT-9), without its check. -/
structure LedgerRec where
  seq : Nat
  transit : Nat
  uptime : Nat
  kind : Nat
  code : Nat
  page : Nat
  inst : Nat
  unit : Nat
  info : Nat
  job : Nat
  function : Nat
  step : Nat
  extra : Nat
  deriving DecidableEq, Repr

/-- The Ledger (R457, R458): records in flash, records buffered on the island, the next seq. -/
structure Ledger where
  flash : List LedgerRec := []
  buffer : List LedgerRec := []
  next : Nat := 0
  deriving DecidableEq, Repr

/-! ### Memory -/

/-- A mapping of a Field map (R251, R252): the physical page and the access bits. -/
structure FieldPage where
  pa : Nat
  rd : Bool
  wr : Bool
  deriving DecidableEq, Repr

/-- HBM error bookkeeping of one stack (R257 to R262), sectors by physical address: uncorrectable sectors, sectors that
the sector code still corrects, corrected reads as (sector, scrub pass or 0), the patrol passes that ended, soft repairs as
(pseudo-channel, row), the pseudo-channel of the margining test in progress, and whether the stack failed its training, so that its
storage is lost (R445). No rule says when a sector comes to hold an
error: RUN_TIME_FAULT may name some (DESIGN CHOICE, log 18). -/
structure StackMem where
  bad : List Nat := []
  weak : List Nat := []
  rowCe : List (Nat × Nat) := []
  passes : Nat := 0
  soft : List (Nat × Nat) := []
  margin : Option Nat := none
  lost : Bool := false
  deriving DecidableEq, Repr

/-- A DMA channel's descriptor in progress (R398, R399): its 32 bytes, bytes moved, outcome. -/
structure DmaRun where
  desc : List Byte
  done : Nat
  status : Nat
  index : Nat
  deriving DecidableEq, Repr

/-- A FIELD_CMD in progress (R254): op 1 MAP or 2 UNMAP, the VA page and physical page as sampled, the access bits and the
target function. -/
structure FieldReq where
  op : Nat
  va : Nat
  pa : Nat
  rd : Bool
  wr : Bool
  fn : Nat
  deriving DecidableEq, Repr

/-! ### Units -/

/-- An entry of a unit's queue: the run it belongs to, the word, whether it is the kernel's last on the unit, and for a PASS
its gathered stationary tile (tensor, row and column block) and whether every key of that tile is masked (R178). -/
structure QEntry (w : Nat) where
  run : Nat
  word : BitVec w
  last : Bool := false
  tile : Option (Nat × Nat × Nat) := none
  skip : Bool := false
  deriving DecidableEq, Repr

/-- A tile in a Loom buffer with its stored tag and, for an MX format, its scale block (R484), and the run whose table
it was checked against. `pad` lists the places of elements that a padding position supplies (R153). DESIGN CHOICE
(log 12): a scale block stands beside its data tile and takes no address. -/
structure BufTile where
  run : Nat
  tile : Tile
  scale : Option Tile := none
  pad : List Nat := []
  deriving DecidableEq, Repr

/-- What the cells hold before a marker brought a tile in: zeros, of format code 0. DESIGN CHOICE (log 15): the manual gives
the stationary registers no reset value. -/
def BufTile.zero : BufTile := { run := 0, tile := ⟨0, [], []⟩ }

/-- An instruction that has issued and not retired (R76 to R78): the PAIR half it writes, whether it ran TUNED and whether
it is unsettled (R77), the rows that overflowed and wait for their replay, the stationary tile it met, and the accumulator
elements it wrote with the word that each held before, none where it was unwritten (R69). -/
structure Issued where
  run : Nat
  word : BitVec 256
  last : Bool
  half : Nat
  /-- The number of its drain among the kernel's drains to that target (R113). -/
  index : Nat
  tuned : Bool := false
  open_ : Bool := false
  overs : List Nat
  stat : BufTile
  stream : List BufTile
  before : List (Nat × Option Word) := []
  /-- The slot of its last row (R77, R78). -/
  lastSlot : Nat := 0
  deriving DecidableEq, Repr

/-- A drain (R110): where it goes (the Sieve, or a Loom of the Hamlet), the rows of a slot from `row0` or of a half,
how many, the next one to read, and its number among the kernel's drains to that target (R113). -/
structure DrainJob where
  run : Nat
  toSieve : Bool
  chainTo : Nat
  pair : Bool
  slot : Nat
  row0 : Nat
  count : Nat
  next : Nat
  index : Nat
  /-- The half that a chain drain fills, once its first row has found room. -/
  into : Option Nat := none
  /-- The rows hold INT32 words (R106, R117). -/
  ints : Bool := false
  /-- The columns that the stationary tiles mask (R58). -/
  masked : List Nat := []
  deriving DecidableEq, Repr

/-- What a FENCE takes up (R482). -/
structure LoomSetup where
  run : Nat := 0
  /-- The job of the run (R480). -/
  job : Option Nat := none
  pair : Bool := false
  slotRows : Nat := 128
  slotCols : Nat := 128
  rowsPerReplay : Nat := 32
  deriving DecidableEq, Repr

/-- What belongs to the kernel that runs on a Loom (R107, R109, R482), saved and restored at a pre-emption (R347).
`acc` holds the accumulator words, `written` the elements that count as written, `forced` the rows marked forced AUTO
(R101), `halfTarget` the drain target of the last instruction that wrote the filling half, none before one did: to the
Sieve or not, chain_next, and whether its class is an integer one; `masks` the columns, by the first row of a span, that
every pass into it masks (R58). `active` and `shadow` are the tiles in the active and
shadow registers of the cells (R66); `current` is the tile that the instructions find active, whose place a replay's tile
takes until a marker brings it back (R78), and `currentAt` the buffer address it came from. -/
structure LoomCtx where
  setup : LoomSetup := {}
  acc : SMap Word := []
  written : SMap Bool := []
  forced : List Nat := []
  autoMode : Bool := false
  active : BufTile := BufTile.zero
  shadow : BufTile := BufTile.zero
  current : BufTile := BufTile.zero
  currentAt : Nat := 0
  half : Nat := 0
  halfRows : Nat := 0
  halfTarget : Option (Bool × Nat × Bool) := none
  masks : SMap (List Nat) := []
  deriving DecidableEq, Repr

/-- A Loom (R66 to R91, R92 to R113). `saved` holds the kernels pre-empted on it, by job, step, place in
the step and logical die; `activity` is
the ramp step, 0 cold and 16 full; `slots` counts the slots since the last swapping marker of the chain that runs, and
`swapped` says that this marker brought in the tile of the next pass (R73, R74). The counters of drains and chain inputs
are those of run `countRun` (R113). `blocked` is the job on whose behalf the Loom issues nothing further (R69). -/
structure Loom where
  queue : List (QEntry 256) := []
  /-- When the head of the queue came to the head. -/
  headAt : Nat := 0
  buf : SMap (Option BufTile) := []
  /-- A scale block whose data tile comes next (check 9 of Table TAG-4), with its run. -/
  scaleIn : Option (Nat × Tile) := none
  k : LoomCtx := {}
  saved : List ((Nat × Nat × Nat × Nat) × LoomCtx) := []
  issued : List Issued := []
  drains : List DrainJob := []
  countRun : Nat := 0
  sieveDrains : Nat := 0
  chainDrains : Nat := 0
  chainIssued : Nat := 0
  /-- The chain inputs of the run whose rows have all arrived, by number. -/
  chainDone : List Nat := []
  /-- Chain drains to the Loom itself (R114). -/
  selfDrains : Nat := 0
  slots : Option Nat := none
  swapped : Bool := false
  /-- The slot sent last, in which the last pass-end marker entered: slots are counted over rows, bubbles, lone markers and the wait
  for a replay (R78; DEDUCED, log 15). -/
  slot : Nat := 0
  /-- The tag of the last pass-end marker (R52, R74). -/
  marker : BitVec 128 := 0
  hearthLevel : Nat := 0
  activity : Nat := 0
  /-- A ramp in progress, up or down. -/
  ramp : Option Bool := none
  /-- A ramp that waits for its grant, up or down. -/
  rampWait : Option Bool := none
  blocked : Option Nat := none
  deriving DecidableEq, Repr

/-- A Sieve or a Gate engine: its queue. Its operand and constant tables are those of the run (R142, R168). -/
structure Engine where
  queue : List (QEntry 64) := []
  waiting : Bool := false
  /-- When the wait began. -/
  waitAt : Nat := 0
  /-- A scale block whose data tile comes next (check 9 of Table TAG-4), with its run. -/
  scaleIn : Option (Nat × Tile) := none
  deriving DecidableEq, Repr

/-- A command that a pair runs (R236): its queue, its word, the page descriptors behind a GATHER, whether its effect has
taken place, the tiles a WRITE has accepted as kind, first row, rows and column block (R485), and the tiles it sent. -/
structure GranRun where
  q : Nat
  run : Nat
  word : BitVec 128
  descs : List (BitVec 128)
  done : Bool
  got : List (Nat × Nat × Nat × Nat) := []
  /-- Scale blocks that wait for their data tile (R55). -/
  held : List Tile := []
  sent : List Tile := []
  /-- When the pair started it. -/
  at_ : Nat := 0
  deriving DecidableEq, Repr

/-- A Granary pair: 33 queues (R210), the commands it runs, and the tiles that wait for their WRITE (R485). -/
structure Pair where
  queues : SMap (List (QEntry 128)) := []
  running : List GranRun := []
  tiles : List (Nat × Tile) := []
  deriving DecidableEq, Repr

/-- A tensor held in a Hamlet buffer or in the Commons, by logical element index (R483, R484): none has not arrived,
some none is masked (R58). A code of 2³² or more is 2³² plus an INT32 word that a Loom drained (R117). `scales` holds the block scales of an MX format, by row × blocks per row + block; `held` the
scale blocks whose data tile has not come: a tile that fails its checks is discarded with its block (R55). -/
structure TData where
  elems : SMap (Option (Option Nat)) := []
  scales : SMap Nat := []
  held : List Tile := []
  deriving DecidableEq, Repr

/-- The line-buffer feeder of a Hamlet (R158, R159): the run and the stripe that it works on, the resolved input lines,
columns and frames that it holds, and the lines that it fetched for the stripe, each with its frame. -/
structure Feeder where
  run : Nat := 0
  stripe : Option StripeDecl := none
  lines : List Nat := []
  columns : List Nat := []
  frames : List Nat := []
  fetched : List (Nat × Nat) := []
  deriving DecidableEq, Repr

/-- The RV32IMAC core of a Reeve and its local memory of 128 KiB (R15): registers, program counter, and the bytes of the local
memory that are not 0. DESIGN CHOICE (log 40): all read 0 at reset, and no rule tells what the firmware does with them. -/
structure ReeveCore where
  regs : Vector Word 32 := Vector.replicate 32 0
  pc : Word := 0
  mem : List (Fin 131072 × Byte) := []
  deriving DecidableEq, Repr

/-- A Reeve: the run it drives, the instant of its last heartbeat (R307), its core, and the feeder of its Hamlet. -/
structure Reeve where
  run : Option Nat := none
  beat : Nat := 0
  core : ReeveCore := {}
  feeder : Feeder := {}
  deriving DecidableEq, Repr

/-- A Firefly known-answer test in progress (R300): the sampled seed, stream and index. -/
structure KatRun where
  seed : Nat
  stream : Nat
  index : Nat
  deriving DecidableEq, Repr

/-- A Bell (R318): value, error bit, owner (function and job). -/
structure Bell where
  value : Word := 0
  error : Bool := false
  owner : Option (Nat × Nat) := none
  deriving DecidableEq, Repr

/-! ### Loader -/

/-- A loaded bundle: its handle, its function, its bundle_id (R302) and what its sections declare. -/
structure Bundle where
  handle : Nat
  f : Nat
  id : Nat
  decl : BundleDecl
  deriving DecidableEq, Repr

/-- The Almanac request of an ADMIT ticket (Table TIME-2). -/
structure AlmReq where
  firstStart : Nat := 0
  pitch : Nat := 0
  deadline : Nat := 0
  slots : Nat := 0
  hold : Bool := false
  lateDeliver : Bool := false
  mirror : Bool := false
  firstStep : Nat := 0
  deriving DecidableEq, Repr

/-- How a job stands: in service, withdrawn with a reason (R354), ended with a code (R439). -/
inductive JobState where
  | active
  | withdrawn (reason : Nat)
  | ended (code : Nat)
  deriving DecidableEq, Repr

/-- An admitted job (R314, R318, R342, R384). -/
structure Job where
  handle : Nat
  f : Nat
  bundle : Nat
  cls : Nat
  batch : Nat
  w : Nat
  ranks : Nat
  pkg : Nat
  req : AlmReq
  stepBell : Nat
  barBell : Nat
  order : Nat
  restarts : Nat := 0
  barriers : Nat := 0
  /-- What the barrier Bell held after its last release (R323). -/
  barBase : Nat := 0
  sysjob : Option Nat := none
  taken : List Nat := []
  /-- The job uses SHARD delivery (R279). -/
  shard : Bool := false
  /-- ns of a delivery before its first step, which that step counts (R284). -/
  firstNs : Nat := 0
  state : JobState := .active
  deriving DecidableEq, Repr

/-- A step that was taken in and is not complete (R325). `ran` gives, by logical die, the pieces it has completed, their
ACLK cycles and the ns these took (R352). -/
structure Step where
  job : Nat
  f : Nat
  ring : Nat
  ticket : List Byte
  decl : TicketDecl
  intake : Nat
  entry : Option Nat
  started : Bool := false
  ready : Bool := false
  ran : List (Nat × Nat × Nat × Nat) := []
  writesDone : Bool := false
  late : Bool := false
  extraNs : Nat := 0
  /-- The sessions of its live batch slots, as the slot table gave them at intake (R202). -/
  sessions : List Nat := []
  stopSeen : Bool := false
  /-- The route chosen for each destination package of the job (R382), by package index. -/
  routes : List (Nat × Nat × Nat) := []
  /-- The sessions of its batch slots and the entries of its binding table (tensor ID, VA of elements, VA of scales), as intake
  translated them (R325). -/
  slotTable : List Nat := []
  bound : List (Nat × Nat × Nat) := []
  /-- Barrier signals that the attempt's ranks on this package have sent, and the k that each rank's barrier Bell was SET to, by
  logical die (R323). -/
  signals : SMap Nat := []
  released : SMap Nat := []
  /-- The mirror of its inputs (R442): physical address, bytes, and the frame on a second die that holds them. -/
  mirror : List (Nat × Nat × Nat) := []
  /-- Sectors of its inputs that were written with zeros after a 0x41 since the mirror holds their bytes (R443). -/
  gone : List Nat := []
  deriving DecidableEq, Repr

/-- A piece of a kernel that runs on a physical die for a step: its tables and queue words come from the bundle. `place`
is the place of the kernel among those of the step. -/
structure Run where
  id : Nat
  job : Nat
  f : Nat
  step : Nat
  kernel : Nat
  die : Nat
  logical : Nat
  piece : Piece
  plan : Nat
  /-- Its work has left every unit. -/
  done : Bool := false
  place : Nat := 0
  deriving DecidableEq, Repr

/-- A ticket held at intake (R317), with what intake knows of it: `since` is the transit from which the deadline of a
COMMITTED step counts that waits for key-value frames (R201). -/
structure HeldTicket where
  f : Nat
  ring : Nat
  ticket : List Byte
  decl : TicketDecl
  since : Option Nat := none
  deriving DecidableEq, Repr

/-- An open session and the format sets of its pages (R205 reads them from the page tables). -/
structure Session where
  id : Nat
  job : Nat
  f : Nat
  deriving DecidableEq, Repr

/-- A page-table entry with its key (R186), when it was last read, and a page of a prefix node where `node` is set. -/
structure KvPage where
  key : KvRef
  node : Option Nat := none
  entry : PageEntry
  lastRead : Nat := 0
  deriving DecidableEq, Repr

/-- A prefix node (Table ATTN-5); its index is the bucket of the open-addressed table that holds it (R193, R195; DESIGN CHOICE, log
26). State 0 PENDING, 1 VALID, 2 DROPPED. `domain` is its bundle's prefix domain and
`writer` the job and the number of the step that writes it. -/
structure PrefixNode where
  index : Nat
  hash : Nat
  parent : Nat
  toks : List Nat
  state : Nat
  f : Nat
  refs : List Nat
  writer : Nat × Nat
  deriving DecidableEq, Repr

/-- What the loader holds. -/
structure Loader where
  bundles : List Bundle := []
  /-- A bundle was loaded since the last C or P (R262). -/
  loadedOnce : Bool := false
  jobs : List Job := []
  sessions : List Session := []
  steps : List Step := []
  runs : List Run := []
  nextRun : Nat := 1
  admitted : Nat := 0
  held : List HeldTicket := []
  /-- The function served last, and the ring of each function served last (R317). -/
  lastFn : Nat := 31
  lastRing : SMap Nat := []
  pages : List KvPage := []
  nodes : List PrefixNode := []
  /-- Buckets of the node table that hold a tombstone (R196). -/
  tombs : List Nat := []
  /-- Key-value frames in use (R185). -/
  frames : List Nat := []
  /-- Generation records by function (10_memory.md): generation number of the adopted parameters. -/
  gens : List (Nat × Nat) := []
  deriving DecidableEq, Repr

/-! ### Square die -/

/-- An Almanac entry (Table TIME-3), with the whole step number and whether its ticket was taken in. -/
structure AEntry where
  release : Nat
  deadline : Nat
  wcetAclk : Nat
  wcetFixed : Nat
  job : Nat
  step : Nat
  cue : Nat
  cueEn : Bool
  hold : Bool
  late : Bool
  mirror : Bool
  cls : Nat
  state : Nat
  reason : Nat
  dies : Nat
  taken : Bool
  f : Nat
  deriving DecidableEq, Repr

/-- A change of a Cue entry: of the host or of a unit; the bits it names and their values (R361). -/
structure CueChange where
  entry : Nat
  host : Bool
  bits : Nat
  val : Nat
  deriving DecidableEq, Repr

/-- The Cue table's other state (R358 to R366): entries, instants of the last change, deferred changes, group owners,
index copies (0 to 31 the functions, 32 the Watchman), and the pins. -/
structure Cue where
  table : SMap Nat := []
  changed : SMap (Option Nat) := []
  deferred : List CueChange := []
  /-- CUE_GROUP_OWNER of a group. -/
  owner : SMap Nat := []
  index : SMap Nat := []
  group : SMap Nat := []
  pinA : Nat := 0
  pinEn : Bool := false
  deriving DecidableEq, Repr

/-- The Meridian (R333 to R341). Its time is a transit or, under PTP, nanoseconds of PTP time, as they stood when `now`
was `at_`; `slew` is the offset still to be slewed out. Timestamps count half ns (R337): `delay` and the times of `twoStep`,
`delayReq` and `lastRef` do. `lastRef` is the last measurement, as own and master time, `freq` the frequency correction that two of
them gave, in parts of 10⁹, and `rate` the one in force, in HOLDOVER (R340). -/
structure Meridian where
  ptp : Bool := false
  base : Nat := 0
  at_ : Nat := 0
  slew : Int := 0
  delay : Nat := 0
  syncs : Nat := 0
  twoStep : Option (Nat × Nat × Int) := none
  /-- The Delay_Req that waits for its answer: seq, and the master time from which its delay counts. -/
  delayReq : Option (Nat × Int) := none
  masters : List AnnounceMsg := []
  edgeAt : Option Nat := none
  edgeFrame : Option Nat := none
  edgePeriod : Option Nat := none
  edgeArmed : Bool := false
  edgeBad : Nat := 0
  holdAt : Nat := 0
  lastRef : Option (Nat × Int) := none
  freq : Int := 0
  rate : Int := 0
  deriving DecidableEq, Repr

/-- A flit that waits at a port on a VC: where it came in (die, port, VC) when it is in transit, for the last flit of a local
tile the tile in flight that it completes (R387), whether it is the last flit of its tile, none where the package cannot
tell, and whether the port it came in by still owes its credit. -/
structure PortWait where
  vc : Nat
  flit : Flit
  src : Option (Nat × Nat × Nat) := none
  done : Option (Nat × Tile) := none
  last : Option Bool := some true
  owed : Bool := true
  deriving DecidableEq, Repr

/-- A tile whose first flit a port has sent and whose last it has not: sysjob and tag, and the link and VC it came in by. -/
structure TileRun where
  key : Nat × BitVec 128
  src : Option (Nat × Nat × Nat)
  deriving DecidableEq, Repr

/-- A Ferry port (R367 to R380). Flits in the replay buffer keep the destination they were sent with. -/
structure Port where
  nextSeq : Nat := 0
  acked : Nat := 1023
  replay : List Flit := []
  replays : Nat := 0
  resend : List Flit := []
  expect : Nat := 0
  nakSent : Bool := false
  nakDue : Bool := false
  /-- Cumulative flits freed on each receive VC, and the counts last seen for each send VC. -/
  freed : SMap Nat := []
  seen : SMap Nat := []
  /-- Flits sent and not credited back, per VC. -/
  out : SMap Nat := []
  creditVc : Nat := 0
  waiting : List PortWait := []
  /-- Slots since the last CONTROL flit while DATA flits waited, and the tile in progress per VC. -/
  ctrlGap : Nat := 8
  inTile : SMap (Option TileRun) := []
  echoes : Nat := 0
  probe : Option (Nat × Nat) := none
  probeNext : Nat := 0
  deriving DecidableEq, Repr

/-- A binding of a system job (R385). -/
structure Binding where
  sysjob : Nat
  job : Nat
  nodes : List Nat
  deriving DecidableEq, Repr

/-- A tile that is arriving in flits (R371): port and VC, its sysjob and tag, how many flits have come, how many of them the port
still owes the credit for, and their payload bytes. -/
structure FerryTile where
  port : Nat
  vc : Nat
  sysjob : Nat
  tag : BitVec 128
  count : Nat
  owed : Nat
  bytes : List Byte
  deriving DecidableEq, Repr

/-- The package's Ferry state. -/
structure Ferry where
  ports : SMap Port := []
  routes : SMap (Nat × Nat) := []
  binds : List Binding := []
  loading : Option (Nat × List (Nat × Nat × Nat)) := none
  tilesIn : List FerryTile := []
  /-- Until when FJ_STATUS.busy reads 1. -/
  fjUntil : Nat := 0
  /-- Packages that a queue (pair × 33 + queue) has sent a data tile since its last Bell signal there, as (queue, job,
  package index) (R387). -/
  sent : List (Nat × Nat × Nat) := []
  deriving DecidableEq, Repr

/-! ### Watchman -/

/-- An image in a boot flash slot (R411): version, security version, whether its signature verified, and its body.
DESIGN CHOICE (log 4): the body of a bundle-key image is the 256 bytes of the LOADER_KEY block, that of a Square
configuration a list of 4-byte records, a page number and an owner. -/
structure Image where
  version : Nat
  svn : Nat
  valid : Bool
  body : List Byte := []
  deriving DecidableEq, Repr

/-- The Watchman (R402 to R415). Components 0 Watchman, 1 Reeve, 2 Square configuration, 3 bundle keys; a slot pair is
(slot A, slot B), `running` and `chosen` are 0 for A and 1 for B: a choice that differs from what runs is an activation
that waits for its reset. `booted` tells the components whose running image has booted since the last C, `update` is the
update in progress and whether its image has verified. DESIGN CHOICE (log 4): slot A of every component holds a valid image, version 1 and
security version 0, and the bundle-key image enables no key. -/
structure Watchman where
  slots : List (Option Image × Option Image) := [(some ⟨1, 0, true, []⟩, none), (some ⟨1, 0, true, []⟩, none),
    (some ⟨1, 0, true, []⟩, none), (some ⟨1, 0, true, []⟩, none)]
  running : List Nat := [0, 0, 0, 0]
  chosen : List Nat := [0, 0, 0, 0]
  /-- The two copies of the partition table, of 4 KiB each (R410). -/
  tables : List (List Byte) := [[], []]
  booted : List Bool := [true, true, true, true]
  update : Option (Nat × Bool) := none
  deriving DecidableEq, Repr

/-! ### What leaves the package -/

/-- The answer to the last read, response or completion: a status and bytes. -/
structure Resp where
  status : Nat := 0
  bytes : List Byte := []
  deriving DecidableEq, Repr

/-- Outputs in the order they left: MSI-X vectors (function, vector), flits (package port), bytes written to host
memory (address), PTP-port frames (kind, value), PLDM events and in-band interrupts sent by the Watchman, as the WM_ALERT
bit that became pending. `held` are the masked vectors that stay pending (R396). -/
structure Out where
  resp : Resp := {}
  msix : List (Nat × Nat) := []
  flits : List (Nat × Flit) := []
  host : List (Nat × List Byte) := []
  ptp : List (Nat × Nat) := []
  events : List Nat := []
  inBand : List Nat := []
  held : List (Nat × Nat) := []
  deriving DecidableEq, Repr

end Sys2Proof.Machine
end

