-- ==== Sys2Proof/Machine/State.lean ====
section
/-! DEFINITION. The state of the block, its reset value, and the reasons a step can stop. -/

namespace Sys2Proof.Machine

/-- Everything the manual gives the machine, and the queue of waiting commands. -/
structure State where
  /-- The commands that wait, first in first out. -/
  pending : List Instr
  /-- Time in ns since the island was powered (the model's own clock, DESIGN CHOICE, log 1). -/
  now : Nat
  /-- How many open values have been taken (the model's own field, DESIGN CHOICE, log 2). -/
  freeCount : Nat
  /-- Fuses (log 3). -/
  fuses : Fuses
  /-- Lands, power-up and the host link. -/
  board : Board
  /-- Stored registers by home address; a register that is not listed holds resetWord of its address. -/
  regs : SMap Word
  /-- The armed guard of a page, by page base (R421). -/
  guards : SMap (Option Guard)
  /-- Latched high words (R429), by master × 2^32 + address; master 0 to 31 a function, 32 the Watchman. -/
  latch : SMap (Option Word)
  /-- The snapshot store, by register address (R428). -/
  snaps : SMap Word
  /-- HBM by physical address, die × 2^37 + offset (R242); a byte that is not listed reads 0 (DESIGN CHOICE, log 6). -/
  mem : List Host.Cell
  /-- Pseudo-channels whose contents a margining test left undefined (R262), as (stack, pseudo-channel, use): a stored
  byte reads combined with an open one. -/
  margined : List (Nat × Nat × Nat)
  /-- Error bookkeeping of the 16 stacks. -/
  hbmStacks : SMap StackMem
  /-- Field maps, by function × 2^27 + VA page (R251). -/
  fields : SMap (Option FieldPage)
  /-- The FIELD_CMD in progress of a HOST page (R254). -/
  fieldReqs : SMap (Option FieldReq)
  /-- Descriptors in progress, by function × 4 + channel (R399). -/
  dma : SMap (List DmaRun)
  /-- DMA channels whose behaviour a change of their ring left undefined (R397), by function × 4 + channel. -/
  dmaLost : List Nat
  /-- Ticket rings whose behaviour a change of theirs left undefined (R311), by function × 64 + ring. -/
  ringLost : List Nat
  /-- Bells, by physical die × 4096 + local index (R318). -/
  bells : SMap Bell
  /-- The loader's bundles, jobs, sessions, steps and key-value store. -/
  loader : Loader
  /-- The 2,048 Almanac entries; none is FREE (R342, R350). -/
  alm : SMap (Option AEntry)
  /-- The Cue table and port. -/
  cue : Cue
  /-- The Meridian. -/
  mer : Meridian
  /-- Looms, by die × 32 + Hamlet × 8 + Loom. -/
  looms : SMap Loom
  /-- Sieves, by die × 4 + Hamlet. -/
  sieves : SMap Engine
  /-- Gate engines, by die. -/
  gates : SMap Engine
  /-- Granary pairs, by die. -/
  pairs : SMap Pair
  /-- Tensors in Hamlet buffers (place die × 4 + Hamlet) and Commons (place 32 + die), by (place × 2^16 + job) × 2^16 + tensor. -/
  sram : SMap TData
  /-- Reeves, by die × 4 + Hamlet. -/
  reeves : SMap Reeve
  /-- Firefly known-answer tests in progress, by die × 4 + Hamlet. -/
  kats : SMap (Option KatRun)
  /-- Tiles that a READ or GATHER has sent and no unit has taken yet, with the run they belong to (R218). -/
  flight : List (Nat × Tile)
  /-- Ferry ports, routes and bindings. -/
  ferry : Ferry
  /-- Power manager and fault manager. -/
  power : Power
  /-- Run-time faults on their way to the fault manager (R438). -/
  faults : List FaultRec
  /-- Jobs whose step was aborted and waits to be dispatched again (R439). -/
  restarts : List Nat
  /-- The Ledger. -/
  ledger : Ledger
  /-- Boot flash and the Watchman's firmware state. -/
  wm : Watchman
  /-- What has left the package. -/
  out : Out
  deriving DecidableEq, Repr

/-- Why the machine would stop with a fault. -/
inductive Fault where
  /-- Raised by a unit's access to an HBM offset that holds no memory (R242). Safe: the manual gives such an access no
  result. -/
  | memoryHole (pa : Nat)
  /-- Raised by a descriptor of a DMA channel whose ring was changed while descriptors were outstanding: the manual leaves
  the channel's behaviour undefined (R397). Safe: nothing is claimed of it. -/
  | dmaUndefined (f ch : Nat)
  /-- Raised by a ticket fetch of a ring whose RING_CTRL or base was changed while tickets were outstanding: the manual
  leaves the ring's behaviour undefined (R311). Safe: nothing is claimed of it. -/
  | ringUndefined (f ring : Nat)
  deriving DecidableEq, Repr

/-- Why a command would have no meaning. -/
inductive Refusal where
  /-- Raised by an arm of exec whose command is not modelled. Safe: nothing is claimed of it. -/
  | notModelled (mnemonic : String)
  deriving DecidableEq, Repr

/-- The machine as a COLD reset leaves it (R447, R467): every register at its reset value, HBM training under way,
PERST_N asserted, the host link down. -/
def State.reset : State where
  pending := []
  now := 0
  freeCount := 0
  fuses := {}
  board := {}
  regs := []
  guards := []
  latch := []
  snaps := []
  mem := []
  margined := []
  hbmStacks := []
  fields := []
  fieldReqs := []
  dma := []
  dmaLost := []
  ringLost := []
  bells := []
  loader := {}
  alm := []
  cue := {}
  mer := {}
  looms := []
  sieves := []
  gates := []
  pairs := []
  sram := []
  reeves := []
  kats := []
  flight := []
  ferry := {}
  power := {}
  faults := []
  restarts := []
  ledger := {}
  wm := {}
  out := {}

/-! ### Updates of one field -/

def State.withPending (s : State) (v : List Instr) : State := { s with pending := v }
def State.withNow (s : State) (v : Nat) : State := { s with now := v }
def State.withFreeCount (s : State) (v : Nat) : State := { s with freeCount := v }
def State.withFuses (s : State) (v : Fuses) : State := { s with fuses := v }
def State.withBoard (s : State) (v : Board) : State := { s with board := v }
def State.withRegs (s : State) (v : SMap Word) : State := { s with regs := v }
def State.withGuards (s : State) (v : SMap (Option Guard)) : State := { s with guards := v }
def State.withLatch (s : State) (v : SMap (Option Word)) : State := { s with latch := v }
def State.withSnaps (s : State) (v : SMap Word) : State := { s with snaps := v }
def State.withMem (s : State) (v : List Host.Cell) : State := { s with mem := v }
def State.withMargined (s : State) (v : List (Nat × Nat × Nat)) : State := { s with margined := v }
def State.withHbmStacks (s : State) (v : SMap StackMem) : State := { s with hbmStacks := v }
def State.withFields (s : State) (v : SMap (Option FieldPage)) : State := { s with fields := v }
def State.withFieldReqs (s : State) (v : SMap (Option FieldReq)) : State := { s with fieldReqs := v }
def State.withDma (s : State) (v : SMap (List DmaRun)) : State := { s with dma := v }
def State.withDmaLost (s : State) (v : List Nat) : State := { s with dmaLost := v }
def State.withRingLost (s : State) (v : List Nat) : State := { s with ringLost := v }
def State.withBells (s : State) (v : SMap Bell) : State := { s with bells := v }
def State.withLoader (s : State) (v : Loader) : State := { s with loader := v }
def State.withAlm (s : State) (v : SMap (Option AEntry)) : State := { s with alm := v }
def State.withCue (s : State) (v : Cue) : State := { s with cue := v }
def State.withMer (s : State) (v : Meridian) : State := { s with mer := v }
def State.withLooms (s : State) (v : SMap Loom) : State := { s with looms := v }
def State.withSieves (s : State) (v : SMap Engine) : State := { s with sieves := v }
def State.withGates (s : State) (v : SMap Engine) : State := { s with gates := v }
def State.withPairs (s : State) (v : SMap Pair) : State := { s with pairs := v }
def State.withSram (s : State) (v : SMap TData) : State := { s with sram := v }
def State.withReeves (s : State) (v : SMap Reeve) : State := { s with reeves := v }
def State.withKats (s : State) (v : SMap (Option KatRun)) : State := { s with kats := v }
def State.withFlight (s : State) (v : List (Nat × Tile)) : State := { s with flight := v }
def State.withFerry (s : State) (v : Ferry) : State := { s with ferry := v }
def State.withPower (s : State) (v : Power) : State := { s with power := v }
def State.withFaults (s : State) (v : List FaultRec) : State := { s with faults := v }
def State.withRestarts (s : State) (v : List Nat) : State := { s with restarts := v }
def State.withLedger (s : State) (v : Ledger) : State := { s with ledger := v }
def State.withWm (s : State) (v : Watchman) : State := { s with wm := v }
def State.withOut (s : State) (v : Out) : State := { s with out := v }

end Sys2Proof.Machine
end

