-- ==== Sys2Proof/Machine/Time.lean ====
section
/-! DEFINITION. Meridian transits and durations in exact integers (R333 to R335). A transit is a number of 64 bits. -/

namespace Sys2Proof.Machine

/-- The fields of a transit (R333). -/
def trFrame (t : Nat) : Nat := bitsOf t 63 28
def trLine (t : Nat) : Nat := bitsOf t 27 16
def trFrac (t : Nat) : Nat := bitsOf t 15 0

/-- The transit of its fields; the frame is taken modulo 2^36. -/
def mkTransit (frame line frac : Nat) : Nat := (frame % 2 ^ 36) * 2 ^ 28 + line * 2 ^ 16 + frac

/-- Transit a lies before transit b (R333). -/
def trBefore (a b : Nat) : Bool :=
  let df := (trFrame b + 2 ^ 36 - trFrame a) % 2 ^ 36
  if df = 0 then decide (a % 2 ^ 28 < b % 2 ^ 28) else decide (df < 2 ^ 35)

/-- a is before b or equal to it. -/
def trLe (a b : Nat) : Bool := a == b || trBefore a b

/-- Line fractions in a transit or a duration, for L total lines. -/
def trUnits (L t : Nat) : Nat := (trFrame t * L + trLine t) * 65536 + trFrac t

/-- The transit of a number of line fractions. -/
def unitsTr (L q : Nat) : Nat :=
  if L = 0 then 0 else mkTransit (q / (L * 65536)) (q / 65536 % L) (q % 65536)

/-- A transit plus a duration (R334). -/
def trAdd (L t d : Nat) : Nat := unitsTr L (trUnits L t + trUnits L d)

/-- The duration from a to b, for a at or before b, in line fractions. -/
def trDiff (L a b : Nat) : Nat := (trUnits L b + 2 ^ 36 * L * 65536 - trUnits L a) % (2 ^ 36 * L * 65536)

/-- A duration keeps R334: its line field is below L, its frame field below 2^35. -/
def durOk (L d : Nat) : Bool := decide (trLine d < L) && decide (trFrame d < 2 ^ 35)

/-- Nanoseconds of a number of line fractions at N/D frames per second (R334). -/
def unitsNs (N D L q : Nat) : Nat := if N * L = 0 then 0 else q * D * 1000000000 / (N * L * 65536)

/-- Line fractions of a time in ns. -/
def nsUnits (N D L ns : Nat) : Nat := if D = 0 then 0 else ns * N * L * 65536 / (D * 1000000000)

/-- The transit of a PTP time (R335). -/
def ptpTransit (N D L ns : Nat) : Nat := unitsTr L (nsUnits N D L ns)

/-- The legal pairs of MER_RATE: num and den_1001 (Table TIME-1). -/
def legalRates : List (Nat × Nat) := [(24000, 1), (24, 0), (25, 0), (30000, 1), (30, 0), (48000, 1), (48, 0), (50, 0),
  (60000, 1), (60, 0), (100, 0), (120000, 1), (120, 0)]

/-- D of a pair. -/
def rateDen (den1001 : Nat) : Nat := if den1001 = 1 then 1001 else 1

end Sys2Proof.Machine
end

