-- ==== Sys2Proof/Machine/Ops.lean ====
section
/-! DEFINITION. Named operations over the state: registers, fuses and die states, the Meridian's time, MSI-X, the
Ledger, HBM bytes and Field maps, and the finders of jobs, steps, runs and tensors. -/

namespace Sys2Proof.Machine

/-! ### Registers -/

/-- The stored word of a register. -/
def State.reg (s : State) (a : Nat) : Word := SMap.getF resetWord s.regs a

/-- Store a register word. -/
def State.setReg (s : State) (a : Nat) (w : Word) : State := s.withRegs (SMap.setF resetWord a w s.regs)

/-- The address of field row `f` of page `p`, at place `i` of a repeated register. -/
def fieldAddr (p : Page) (f : FieldRow) (i : Nat) : Nat := p.reg (f.off + i * f.stride)

/-- A field of a page. -/
def State.fld (s : State) (p : Page) (f : FieldRow) (i : Nat := 0) : Nat := getField (s.reg (fieldAddr p f i)) f.hi f.lo

/-- Set a field of a page. -/
def State.setFld (s : State) (p : Page) (f : FieldRow) (v : Nat) (i : Nat := 0) : State :=
  s.setReg (fieldAddr p f i) (setField (s.reg (fieldAddr p f i)) f.hi f.lo v)

/-- Add to a counter that wraps modulo 2^32. -/
def State.bump (s : State) (p : Page) (f : FieldRow) (n : Nat := 1) : State :=
  s.setFld p f ((s.fld p f + n) % 2 ^ 32)

/-- Add to a counter that saturates at 0xFFFF_FFFF (R414, R415). -/
def State.bumpSat (s : State) (p : Page) (f : FieldRow) (n : Nat := 1) : State :=
  s.setFld p f (min (s.fld p f + n) 0xFFFFFFFF)

/-- Add 1 to a 64-bit counter in two words. -/
def State.bump64 (s : State) (p : Page) (lo hi : FieldRow) (n : Nat := 1) : State :=
  let v := (s.fld p hi * 2 ^ 32 + s.fld p lo + n) % 2 ^ 64
  (s.setFld p lo (v % 2 ^ 32)).setFld p hi (v / 2 ^ 32)

/-- The key of a master's own state: a function, or 32 for the Watchman. -/
def masterKey : Master → Nat
  | .host f => f
  | .watchman => 32

/-! ### Units -/

def dieOk (d : Nat) : Bool := decide (d < 8)
def hamletOk (d h : Nat) : Bool := decide (d < 8) && decide (h < 4)
def loomKey (d h l : Nat) : Nat := d * 32 + h * 8 + l
def hamKey (d h : Nat) : Nat := d * 4 + h

/-- The fuses of a part: 32, 30 or 28 Looms enabled on every die by grade F256, F240 and F224 (R19). -/
def Fuses.ok (x : Fuses) : Bool :=
  decide (x.grade < 3) && x.looms.length == 8
    && x.looms.all fun m => decide (m < 2 ^ 32) && ((numsFrom 0 32).filter (bitOf m)).length == 32 - 2 * x.grade

/-- Loom l of Hamlet h of die d is enabled by the fuses (R19). -/
def State.loomOn (s : State) (d h l : Nat) : Bool :=
  decide (d < 8) && decide (h < 4) && decide (l < 8) && bitOf (s.fuses.looms.getD d 0) (h * 8 + l)

def State.loom (s : State) (d h l : Nat) : Loom := SMap.get {} s.looms (loomKey d h l)
def State.setLoom (s : State) (d h l : Nat) (x : Loom) : State := s.withLooms (SMap.set {} (loomKey d h l) x s.looms)
def State.sieve (s : State) (d h : Nat) : Engine := SMap.get {} s.sieves (hamKey d h)
def State.setSieve (s : State) (d h : Nat) (x : Engine) : State := s.withSieves (SMap.set {} (hamKey d h) x s.sieves)
def State.gate (s : State) (d : Nat) : Engine := SMap.get {} s.gates d
def State.setGate (s : State) (d : Nat) (x : Engine) : State := s.withGates (SMap.set {} d x s.gates)
def State.pair (s : State) (d : Nat) : Pair := SMap.get {} s.pairs d
def State.setPair (s : State) (d : Nat) (x : Pair) : State := s.withPairs (SMap.set {} d x s.pairs)
def State.bell (s : State) (d b : Nat) : Bell := SMap.get {} s.bells (d * 4096 + b)
def State.setBell (s : State) (d b : Nat) (x : Bell) : State := s.withBells (SMap.set {} (d * 4096 + b) x s.bells)
def State.reeve (s : State) (d h : Nat) : Reeve := SMap.get {} s.reeves (hamKey d h)
def State.setReeve (s : State) (d h : Nat) (x : Reeve) : State := s.withReeves (SMap.set {} (hamKey d h) x s.reeves)
def State.port (s : State) (d p : Nat) : Port := SMap.get {} s.ferry.ports (d * 14 + p)
def State.setPort (s : State) (d p : Nat) (x : Port) : State :=
  s.withFerry { s.ferry with ports := SMap.set {} (d * 14 + p) x s.ferry.ports }
def State.stack (s : State) (k : Nat) : StackMem := SMap.get {} s.hbmStacks k
def State.setStack (s : State) (k : Nat) (x : StackMem) : State := s.withHbmStacks (SMap.set {} k x s.hbmStacks)
def State.almEntry (s : State) (i : Nat) : Option AEntry := SMap.get none s.alm i
def State.setAlm (s : State) (i : Nat) (x : Option AEntry) : State := s.withAlm (SMap.set none i x s.alm)

/-- Queue q of a pair. -/
def Pair.queue (p : Pair) (q : Nat) : List (QEntry 128) := SMap.get [] p.queues q
def Pair.setQueue (p : Pair) (q : Nat) (es : List (QEntry 128)) : Pair := { p with queues := SMap.set [] q es p.queues }

/-! ### Die states (R64, R441, R446, R451 to R453) -/

def State.fenced (s : State) (d : Nat) : Bool := bitOf (s.fld (sqPage .fault) faultFence_fenced) d
def State.inTwilight (s : State) (d : Nat) : Bool := s.power.twilight.contains d

/-- A CROFT reset of the die runs (R447). -/
def State.resetting (s : State) (d : Nat) : Bool := decide (s.now < SMap.get 0 s.power.resetEnd d)

/-- A die that is neither fenced nor in TWILIGHT (R14, R64), and in no reset. -/
def State.dieLive (s : State) (d : Nat) : Bool := dieOk d && !s.fenced d && !s.inTwilight d && !s.resetting d

def State.liveDies (s : State) : List Nat := (numsFrom 0 8).filter s.dieLive

/-- The physical die of logical die i, from DIE_MAP (R332). -/
def State.dieOf (s : State) (i : Nat) : Option Nat :=
  let n := bitsOf (s.reg ((sqPage .loader).reg 0x04C)).toNat (4 * i + 3) (4 * i)
  if i < 8 && n ≥ 8 then some (n % 8) else none

/-- The logical dies that physical die d carries. -/
def State.logicalsOf (s : State) (d : Nat) : List Nat := (numsFrom 0 8).filter fun i => s.dieOf i == some d

/-- How many dies are held in reserve. -/
def State.reserve (s : State) : Nat := s.fld (sqPage .fault) faultCtrl_reserve

/-- A live die that carries no logical die while dies are held in reserve: one of the highest-numbered ones (R446), or a die that
a release left live (R441). -/
def State.isReserve (s : State) (d : Nat) : Bool := s.dieLive d && (s.logicalsOf d).isEmpty && decide (0 < s.reserve)

/-- CROFT_STATUS.state: 0 DAYLIGHT, 1 DUSK, 2 TWILIGHT, 3 FENCED, 4 RESERVE, 5 RESETTING. -/
def State.dieState (s : State) (d : Nat) : Nat :=
  if s.resetting d then 5
  else if s.fenced d then 3
  else if s.inTwilight d then 2
  else if s.isReserve d then 4
  else if s.power.dusk.contains d then 1
  else 0

/-- The package is in service: out of reset, which PERST_N holds until its release takes effect (R477), training over, no
failure of the Square die or the hub fabric, not in NIGHTWATCH or RECOVERY. -/
def State.up (s : State) : Bool :=
  s.board.island && s.board.mainOk && !s.board.held && !s.board.squareFail && !s.board.hubFail && !s.board.training
    && !s.board.recovery && s.board.night != 2 && !s.board.perst

/-- A page answers with its registers (R430): its die is live, its Loom is enabled, and no reset of its die runs. -/
def State.served (s : State) (p : Page) : Bool :=
  match p.type with
  | .loom => s.loomOn p.die p.i p.j && s.dieLive p.die && s.up
  | .hamlet | .sieve | .firefly | .gate | .commons | .bells | .ferry => s.dieLive p.die && s.up
  | .granary | .hbm => s.up
  | .watchman => s.board.island
  | _ => s.board.island && s.board.mainOk && !s.board.held && !s.board.squareFail && !s.board.recovery && s.board.night != 2

/-! ### Open values -/

/-- An open value: what freeValue gives at this count, and the state with the count advanced. -/
def State.openValue (s : State) : BitVec 64 × State := (Config.freeValue s.freeCount, s.withFreeCount (s.freeCount + 1))

/-- An open reading of a sensor of Table HOST-6, one for each ms (DESIGN CHOICE, log 10). Sensors are numbered 1 to 8 the
Croft dies, 9 to 24 the stacks, 25 the Square die, 26 the package power, 32 + 2r and 33 + 2r the voltage and the current of
rail r. -/
def State.reading (s : State) (n : Nat) : Nat := (Config.sensorReading n (s.now / 1000000)).toNat

/-- The package power in W, as it is measured. -/
def State.watts (s : State) : Nat := s.reading 26 % 4096

/-- Something has been measured: POWER_NOW and TEMP_HOT are refreshed every 1 ms, and read 0 from C or P to the first refresh
(Table FAULT-13, R7). -/
def State.sensed (s : State) : Bool := s.now / 1000000 != s.board.upSince / 1000000

/-- A temperature in °C. -/
def State.degc (s : State) (n : Nat) : Nat := s.reading n % 256

/-! ### The Meridian's time (R333 to R341) -/

/-- N, D and L of the video format. -/
def State.videoN (s : State) : Nat := s.fld (sqPage .meridian) merRate_num
def State.videoD (s : State) : Nat := rateDen (s.fld (sqPage .meridian) merRate_den1001)
def State.videoL (s : State) : Nat := s.fld (sqPage .meridian) merLines_total

/-- The part of the slew that has been applied by now: at most 50 ppm (R339). -/
def State.slewed (s : State) : Int :=
  let lim : Int := ((s.now - s.mer.at_) / 20000 : Nat)
  if 0 ≤ s.mer.slew then min s.mer.slew lim else max s.mer.slew (-lim)

/-- ns of Meridian time that have passed since its base was set, with the frequency correction in force. -/
def State.merElapsed (s : State) : Nat :=
  ((s.now - s.mer.at_ : Nat) + s.slewed + ((s.now - s.mer.at_ : Nat) : Int) * s.mer.rate / 1000000000).toNat

/-- The current transit (R341). Under FRAME_REF lines and fractions advance at the interval measured (R338). -/
def State.transit (s : State) : Nat :=
  let N := s.videoN
  let D := s.videoD
  let L := s.videoL
  let e := s.merElapsed
  if s.mer.ptp then ptpTransit N D L (s.mer.base + e)
  else
    let adv := match s.mer.edgePeriod with
      | some p => if p = 0 then 0 else e * L * 65536 / p
      | none => nsUnits N D L e
    unitsTr L (trUnits L s.mer.base + adv)

/-- The same time with the base moved to now; the part of the slew not yet applied remains. -/
def State.merRebase (s : State) : State :=
  let e := s.merElapsed
  let slew := s.mer.slew - s.slewed
  if s.mer.ptp then s.withMer { s.mer with base := s.mer.base + e, at_ := s.now, slew := slew }
  else s.withMer { s.mer with base := s.transit, at_ := s.now, slew := slew }

/-- ns from now until the Meridian reaches a transit that lies ahead; 0 when it has passed. DEDUCED: commands that name
an instant bring the clock there. -/
def State.nsUntil (s : State) (t : Nat) : Nat :=
  if trLe t s.transit then 0
  else
    let L := s.videoL
    let q := trDiff L s.transit t
    ceilDiv (q * s.videoD * 1000000000) (s.videoN * L * 65536)

/-- SQ_UPTIME in ms (R434). -/
def State.uptimeMs (s : State) : Nat := (s.now - s.board.upSince) / 1000000

/-! ### Outputs -/

def State.respond (s : State) (status : Nat) (bytes : List Byte) : State :=
  s.withOut { s.out with resp := ⟨status, bytes⟩ }

/-- A response of register words. -/
def State.respondWords (s : State) (status : Nat) (ws : List Word) : State :=
  s.respond status (ws.map fun w => leBytes 4 w.toNat).flatten

def State.sendFlit (s : State) (port : Nat) (x : Flit) : State :=
  s.withOut { s.out with flits := s.out.flits ++ [(port, x)] }

/-! ### Ledger (R457) -/

/-- PAGE_ID.instance of a page. -/
def Page.inst (p : Page) : Nat :=
  match p.type with
  | .loom => p.i * 8 + p.j
  | .sieve | .firefly | .hamlet | .ferry | .host | .granary | .hbm => p.i
  | .croftCtrl => p.die
  | .ferryPkg => 0xFF
  | _ => 0

/-- The Ledger's unit of a page: the physical die, stack + 16, or 32 for the Square die. -/
def Page.unit (p : Page) : Nat :=
  match p.type with
  | .granary | .hbm => p.i + 16
  | .croftCtrl | .hamlet | .loom | .sieve | .firefly | .gate | .commons | .bells | .ferry => p.die
  | _ => 32

/-- The transit that records carry: 0 in FREE_RUN while no time was set (R457). -/
def State.recordTransit (s : State) : Nat :=
  if s.fld (sqPage .meridian) merStatus_state = 0 && s.reg ((sqPage .meridian).reg 0x068) = 0
    && s.reg ((sqPage .meridian).reg 0x06C) = 0 then 0 else s.transit

/-- A WM_ALERT bit becomes pending (R402, R415): the Watchman sends a PlatformEventMessage (R404), and in I3C mode raises an
in-band interrupt. -/
def State.alert (s : State) (bit : FieldRow) : State :=
  if s.fld (sqPage .watchman) bit = 1 then s
  else
    let i3c := s.fld (sqPage .watchman) wmStatus_i3c == 1
    (s.setFld (sqPage .watchman) bit 1).withOut
      { s.out with events := s.out.events ++ [bit.lo], inBand := s.out.inBand ++ (if i3c then [bit.lo] else []) }

/-- ALERT_N is asserted (R402). -/
def State.alertN (s : State) : Bool :=
  s.reg ((sqPage .watchman).reg 0x048) &&& s.reg ((sqPage .watchman).reg 0x04C) != 0

/-- Records that the Ledger's flash holds. -/
def ledgerRecords : Nat := 524288

/-- A record in force among some: a fence that no later record releases, and that is permanent or younger than the last COLD and
PACKAGE reset, which end a temporary one; a soft repair that no later hard repair marks done. -/
def keepsRecord (rs : List LedgerRec) (r : LedgerRec) : Bool :=
  let later (p : LedgerRec → Bool) : Bool := rs.any fun x => decide (r.seq < x.seq) && p x
  (r.kind == 2 && !later (fun x => x.kind == 3 && x.unit == r.unit)
      && (r.extra == 0 || !later fun x => x.kind == 7 && (x.code == 67 || x.code == 80)))
    || (r.kind == 4 && !later fun x => x.kind == 5 && x.unit == r.unit && x.extra == r.extra)

/-- The oldest n records that a test does not keep go. -/
def shedRecords (keep : LedgerRec → Bool) : Nat → List LedgerRec → List LedgerRec
  | 0, rs => rs
  | _, [] => []
  | n + 1, r :: rs => if keep r then r :: shedRecords keep (n + 1) rs else shedRecords keep n rs

/-- The ring of records: beyond its size the oldest go, but for those that are copied forward. -/
def ledgerTrim (rs : List LedgerRec) : List LedgerRec :=
  let ys := shedRecords (keepsRecord rs) (rs.length - ledgerRecords) rs
  ys.drop (ys.length - ledgerRecords)

/-- Every record that the Ledger has, in flash and on the island. -/
def Ledger.records (x : Ledger) : List LedgerRec := x.flash ++ x.buffer

/-- The dies with a permanent fence in force (R441). -/
def Ledger.fences (x : Ledger) : List Nat :=
  ((x.records.filter fun r => r.kind == 2 && r.extra == 0 && keepsRecord x.records r).map (·.unit)).eraseDups

/-- The seq of the last record written to flash (R458), 0 before there is one. -/
def Ledger.lastSeq (x : Ledger) : Nat := (x.flash.getLast?.map (·.seq)).getD 0

/-- A record joins the 256 that the island buffers; of more the oldest goes to the flash first (R458; DESIGN CHOICE, log 29: the
manual does not say what a full buffer does). -/
def Ledger.add (x : Ledger) (r : LedgerRec) : Ledger :=
  let b := x.buffer ++ [r]
  let spill := b.take (b.length - 256)
  { x with buffer := b.drop (b.length - 256), next := x.next + 1, flash := if spill.isEmpty then x.flash else ledgerTrim (x.flash ++ spill) }

/-- Buffer a Ledger record, and raise the WM_ALERT bit of its kind (R444): fault, fence and job ended set fault,
withdrawal sets withdrawal. -/
def State.ledgerAdd (s : State) (kind code : Nat) (page : Option Page) (unit info job function step extra : Nat) : State :=
  let r : LedgerRec :=
    { seq := s.ledger.next, transit := s.recordTransit, uptime := s.uptimeMs % 2 ^ 32, kind := kind, code := code,
      page := match page with
        | some p => p.type.code
        | none => 0,
      inst := match page with
        | some p => p.inst
        | none => 0,
      unit := unit, info := info, job := job, function := function, step := step, extra := extra }
  let s := s.withLedger (s.ledger.add r)
  if kind = 1 || kind = 2 || kind = 9 then s.alert wmAlert_fault
  else if kind = 6 then s.alert wmAlert_withdrawal
  else s

/-- The 64 bytes of a record (Table FAULT-9). -/
def ledgerBytes (serial : Nat) (r : LedgerRec) : List Byte :=
  let b := leBytes 8 r.seq ++ leBytes 8 r.transit ++ leBytes 4 r.uptime ++ leBytes 1 r.kind ++ leBytes 1 r.code
    ++ leBytes 2 r.page ++ leBytes 1 r.inst ++ leBytes 1 r.unit ++ leBytes 2 0 ++ leBytes 4 r.info ++ leBytes 2 r.job
    ++ leBytes 1 r.function ++ leBytes 1 0 ++ leBytes 8 r.step ++ leBytes 8 r.extra ++ leBytes 8 serial
  b ++ leBytes 4 (crc32c b).toNat

/-! ### HBM (R242, R244) -/

/-- A physical address has memory: die window of 2^37 bytes, 96 GiB of it present (R242). -/
def hbmPresent (pa : Nat) : Bool := decide (pa < 2 ^ 40) && decide (pa % 2 ^ 37 < 0x1800000000)

/-- The storage of a physical address is lost: its stack failed training (R445). -/
def State.lostAt (s : State) (pa : Nat) : Bool := (s.stack (stackOf (pa / 2 ^ 37) (pa % 2 ^ 37))).lost

/-- The open byte that a stored one is combined with: 0 but in a pseudo-channel that was margined (R262). What an access of lost
storage reads is open (DESIGN CHOICE, log 6). -/
def State.memMask (s : State) (pa : Nat) : Byte :=
  let o := pa % 2 ^ 37
  if s.lostAt pa then Config.freeByte 0 pa
  else match s.margined.find? fun m => m.1 == stackOf (pa / 2 ^ 37) o && m.2.1 == pcIndex o % 64 with
  | some m => Config.freeByte m.2.2 pa
  | none => 0

/-- The byte at a physical address. -/
def State.byteAt (s : State) (pa : Nat) : Byte := SMap.get 0#8 s.mem pa ^^^ s.memMask pa

/-- Store a byte; lost storage takes none. -/
def State.setByte (s : State) (pa : Nat) (b : Byte) : State :=
  if s.lostAt pa then s else s.withMem (SMap.set 0#8 pa (b ^^^ s.memMask pa) s.mem)

/-- n bytes from a physical address. -/
def State.bytesAt (s : State) (pa n : Nat) : List Byte := (numsFrom pa n).map s.byteAt

/-- Store bytes from a physical address up. -/
def storeBytes : State → Nat → List Byte → State
  | s, _, [] => s
  | s, pa, b :: bs => storeBytes (s.setByte pa b) (pa + 1) bs

/-! ### Field maps (R251, R255) -/

def pageBytes : Nat := 2097152

/-- The mapping of a function's VA, of 48 bits. -/
def State.mapping (s : State) (f va : Nat) : Option FieldPage :=
  if va < 2 ^ 48 then SMap.get none s.fields (f * 2 ^ 27 + va / pageBytes) else none

/-- Translate a VA for reading or writing; none where the map does not allow the access. -/
def State.translate (s : State) (f va : Nat) (write : Bool) : Option Nat :=
  match s.mapping f va with
  | some m => if (if write then m.wr else m.rd) then some (m.pa * pageBytes + va % pageBytes) else none
  | none => none

/-- Every byte of a VA range translates. -/
def State.mapped (s : State) (f va n : Nat) (write : Bool) : Bool :=
  n == 0 || (numsFrom (va / pageBytes) ((va + n - 1) / pageBytes + 1 - va / pageBytes)).all fun p =>
    (s.translate f (p * pageBytes) write).isSome

/-- The byte at a VA, 0 where it is not mapped for reading. -/
def State.vaByte (s : State) (f va : Nat) : Byte :=
  match s.translate f va false with
  | some pa => s.byteAt pa
  | none => 0

def State.vaBytes (s : State) (f va n : Nat) : List Byte := (numsFrom va n).map (s.vaByte f)

/-- Store bytes at a VA; bytes of pages not mapped for writing are dropped. -/
def storeVa : State → Nat → Nat → List Byte → State
  | s, _, _, [] => s
  | s, f, va, b :: bs =>
    match s.translate f va true with
    | some pa => storeVa (s.setByte pa b) f (va + 1) bs
    | none => storeVa s f (va + 1) bs

/-! ### Finders -/

def State.job? (s : State) (h : Nat) : Option Job := s.loader.jobs.find? fun j => j.handle == h
def State.bundle? (s : State) (h : Nat) : Option Bundle := s.loader.bundles.find? fun b => b.handle == h
def State.run? (s : State) (id : Nat) : Option Run := s.loader.runs.find? fun r => r.id == id
def State.setJob (s : State) (j : Job) : State :=
  s.withLoader { s.loader with jobs := s.loader.jobs.map fun x => if x.handle = j.handle then j else x }

/-- Step number of a ticket (Table BUND-5). -/
def Step.number (t : Step) : Nat := leAt t.ticket 8 8

/-- The step of a job that runs, or the first taken in that has not started. -/
def State.stepOf? (s : State) (h : Nat) : Option Step :=
  match s.loader.steps.find? fun t => t.job == h && t.started with
  | some t => some t
  | none => s.loader.steps.find? fun t => t.job == h

/-- Replace a step, found by job and number. -/
def State.setStep (s : State) (t : Step) : State :=
  s.withLoader { s.loader with steps := s.loader.steps.map fun x =>
    if x.job = t.job && x.number = t.number then t else x }

/-- A step leaves the loader, and the frames of its mirror are free (R442). -/
def State.dropStep (s : State) (t : Step) : State :=
  let mine := t.mirror.map (·.2.2)
  s.withLoader { s.loader with steps := s.loader.steps.filter fun x => !(x.job == t.job && x.number == t.number),
                               frames := s.loader.frames.filter fun f => !mine.contains f }

/-- The tensors of a run's kernel. -/
def State.tensorsOf (s : State) (r : Run) : List TensorDecl :=
  match s.job? r.job with
  | some j => match s.bundle? j.bundle with
    | some b => match b.decl.kernels[r.kernel]? with
      | some k => k.tensors
      | none => []
    | none => []
  | none => []

/-- The tensor table of the run with some id. -/
def State.tensors (s : State) (run : Nat) : List TensorDecl :=
  match s.run? run with
  | some r => s.tensorsOf r
  | none => []

/-- The geometry records of a run's bundle. -/
def State.geomsOf (s : State) (run : Nat) : List (List Byte) :=
  match s.run? run with
  | some r => match s.job? r.job with
    | some j => match s.bundle? j.bundle with
      | some b => b.decl.geoms
      | none => []
    | none => []
  | none => []

/-- Bits [7:0] of the step a run belongs to. -/
def State.runStep (s : State) (run : Nat) : Nat :=
  match s.run? run with
  | some r => r.step % 256
  | none => 0

def State.runJob (s : State) (run : Nat) : Option Nat := (s.run? run).map (·.job)

end Sys2Proof.Machine
end

