-- ==== Sys2Proof/Machine/Bridges.lean ====
section
/-! DEFINITION. The bridges of the package and the ways that tiles and messages take over them (R12 to R14, R209). -/

namespace Sys2Proof.Machine

/-- An end of a bridge: a Croft die, the Square die, or the base die of a stack, whose secondary port joins the Square. -/
inductive Stop where
  | croft (d : Nat)
  | square
  | stack (k : Nat)
  deriving DecidableEq, Repr

/-- A bridge joins two ends (R12). -/
def joined : Stop → Stop → Bool
  | .croft a, .croft b => b == (a + 1) % 8 || b == (a + 7) % 8
  | .croft _, .square | .square, .croft _ | .stack _, .square | .square, .stack _ => true
  | _, _ => false

/-- Every two neighbours of a way are joined. -/
def wayJoined : List Stop → Bool
  | a :: b :: r => joined a b && wayJoined (b :: r)
  | _ => true

/-- The dies from a to b in ascending index around the ring, and in descending index. -/
def ringUp (a b : Nat) : List Nat := (numsFrom 0 ((b + 8 - a) % 8 + 1)).map fun k => (a + k) % 8
def ringDown (a b : Nat) : List Nat := (numsFrom 0 ((a + 8 - b) % 8 + 1)).map fun k => (a + 8 - k) % 8

/-- No die in transit on a way is out of service (R14). -/
def transitClear (dead : Nat → Bool) (ds : List Nat) : Bool := ((ds.drop 1).dropLast).all fun d => !dead d

/-- The way of tile data from die a to die b: the shorter way round the ring, ascending between dies four apart; the other
direction where a die in transit forwards nothing; the Square where one lies in both (R13, R14). -/
def tileWay (dead : Nat → Bool) (a b : Nat) : List Stop :=
  let first := if (b + 8 - a) % 8 ≤ 4 then ringUp a b else ringDown a b
  let second := if (b + 8 - a) % 8 ≤ 4 then ringDown a b else ringUp a b
  if transitClear dead first then first.map Stop.croft
  else if transitClear dead second then second.map Stop.croft
  else [.croft a, .square, .croft b]

/-- The way of Bell signals, descriptors, ticket traffic and fault messages between dies (R13). -/
def messageWay (a b : Nat) : List Stop := if a = b then [.croft a] else [.croft a, .square, .croft b]

/-- The way of tile data from the pair of die p to die d: through the die's PHYs while it is live, else through the secondary
port of a stack (R14, R209). -/
def State.pairWay (s : State) (p d : Nat) : List Stop :=
  if s.dieLive p then tileWay (fun x => !s.dieLive x) p d else [.stack (2 * p), .square, .croft d]

/-- The way of tile data from die a to the pair of die p, and from one pair to another. -/
def State.toPairWay (s : State) (a p : Nat) : List Stop :=
  if s.dieLive p then tileWay (fun x => !s.dieLive x) a p else [.croft a, .square, .stack (2 * p)]
def State.pairsWay (s : State) (k p : Nat) : List Stop :=
  if s.dieLive k then s.toPairWay k p
  else if s.dieLive p then [.stack (2 * k), .square, .croft p]
  else [.stack (2 * k), .square, .stack (2 * p)]

/-- The way of a signal from the pair of die p to a Bell of die d (R13, R209). -/
def State.pairMessageWay (s : State) (p d : Nat) : List Stop :=
  if s.dieLive p then messageWay p d else [.stack (2 * p), .square, .croft d]

/-- An end carries traffic. DEDUCED (log 40): a die in TWILIGHT, being power-gated, forwards nothing, as a fenced one. -/
def State.carries (s : State) : Stop → Bool
  | .croft d => s.dieLive d
  | .square => s.up
  | .stack _ => s.up

/-- The dies and ports of a way are in service. -/
def State.wayOpen (s : State) (w : List Stop) : Bool := wayJoined w && w.all s.carries

end Sys2Proof.Machine
end

