-- ==== Sys2Proof/Machine/Flags.lean ====
section
/-! DEFINITION. Events, attention and its interrupts, and the capture of run-time faults (R48, R426, R427, R444). -/

namespace Sys2Proof.Machine

/-! ### Attention (R426, R444) -/

/-- Where a page's attention is gathered: 0 to 7 a die, 8 the stacks, 9 the Square die, 32 + f the HOST page of VF f. -/
def Page.attnGroup (p : Page) : Nat :=
  match p.type with
  | .granary | .hbm => 8
  | .croftCtrl | .hamlet | .loom | .sieve | .firefly | .gate | .commons | .bells | .ferry => p.die
  | .host => if p.i = 0 then 9 else 32 + p.i
  | _ => 9

/-- EVT_PENDING (R426). -/
def State.evtPending (s : State) (p : Page) : Word := s.reg (p.reg 0x018) &&& s.reg (p.reg 0x01C)

/-- A page raises attention (R426). -/
def State.pageAttn (s : State) (p : Page) : Bool :=
  p.type != .ring && s.served p && getField (s.reg (p.reg 0x014)) 0 0 == 1 && s.evtPending p != 0

/-- A group has a page that raises attention; only a page whose EVT_RAW is listed can. -/
def State.groupAttn (s : State) (g : Nat) : Bool :=
  s.regs.any fun e => match pageAt e.1 with
    | some (p, 0x018) => p.attnGroup == g && s.pageAttn p
    | _ => false

/-- ATTN_SUM (Table FAULT-11). -/
def State.attnSum (s : State) : Nat :=
  natSum ((numsFrom 0 10).map fun g => if s.groupAttn g then 2 ^ g else 0)

/-- One message or record for function f is counted as discarded. -/
def State.dropOne (s : State) (f : Nat) : State :=
  (s.bumpSat (hostPage f) cmplDropCount_count).setFld (hostPage f) host_evtRaw_cmplDrop 1

/-- The vector and function of a group's interrupt; none while irq_en is 0. -/
def State.attnVector (s : State) (g : Nat) : Option (Nat × Nat) :=
  if 32 ≤ g then some (g - 32, 0)
  else if s.fld (sqPage .fault) faultCtrl_irqEn = 1 then some (0, s.fld (sqPage .fault) faultCtrl_vector)
  else none

/-- What the configuration space of function f holds. -/
def State.pcieFn (s : State) (f : Nat) : PcieFn := SMap.get {} s.board.pcie f

/-- A vector of a function's MSI-X table is masked. -/
def State.vectorMasked (s : State) (f v : Nat) : Bool := (s.pcieFn f).masked.contains v

/-- A masked vector stays pending. -/
def State.pendVector (s : State) (f v : Nat) : State :=
  s.withOut { s.out with held := (f, v) :: s.out.held.filter (· != (f, v)) }

/-- One message or record for function f is discarded because the link is down, and so is the message that its cmpl_drop
event would raise (R401). -/
def State.dropMsg (s : State) (f : Nat) : State :=
  let g := (hostPage f).attnGroup
  let s1 := s.dropOne f
  if !s.groupAttn g && s1.groupAttn g then
    match s1.attnVector g with
    | some (f1, v) => if s1.vectorMasked f1 v then s1.pendVector f1 v else s1.dropOne f1
    | none => s1
  else s1

/-- Raise an MSI-X vector (R396): a masked one stays pending; with the link down the message is discarded. -/
def State.msix (s : State) (f v : Nat) : State :=
  if s.vectorMasked f v then s.pendVector f v
  else if s.board.link then s.withOut { s.out with msix := s.out.msix ++ [(f, v)] }
  else s.dropMsg f

/-- What a rise of attention in the group of page p does, from the state before to the state after. -/
def attnRise (before after : State) (p : Page) : State :=
  let g := p.attnGroup
  if !before.groupAttn g && after.groupAttn g then
    match after.attnVector g with
    | some (f, v) => after.msix f v
    | none => after
  else after

/-- An event of a page (R48, R426): its bit of EVT_RAW is set. -/
def State.event (s : State) (p : Page) (bit : FieldRow) : State := attnRise s (s.setFld p bit 1) p

/-- A die changed state (Table FAULT-13). -/
def State.stateChange (s : State) : State := s.event (sqPage .power) power_evtRaw_stateChange

/-- The event of a change of some die's state. -/
def noteStates (before after : State) : State :=
  if (numsFrom 0 8).any fun d => before.dieState d != after.dieState d then after.stateChange else after

/-- The clock reaches an instant; the CROFT resets that end by then change the state of their dies. -/
def State.passTo (s : State) (t : Nat) : State := noteStates s (s.withNow (max s.now t))

/-- Let the clock reach the transit t. -/
def State.advanceTo (s : State) (t : Nat) : State := s.passTo (s.now + s.nsUntil t)

/-- n events of one kind: the counter rises by n and the bit is set when n is not 0 (R48). -/
def State.events (s : State) (p : Page) (cnt bit : FieldRow) (n : Nat) : State :=
  if n = 0 then s else (s.bump p cnt n).event p bit

/-! ### Run-time faults (R427, R438) -/

/-- Capture on a page: the first fault writes its code and detail, a later one counts in more (R427). -/
def State.capture (s : State) (p : Page) (code : Nat) (info : Word) : State :=
  let w := s.reg (p.reg 0x024)
  if !p.type.hasFault then s
  else if getField w 31 31 = 0 then
    (s.setReg (p.reg 0x024) (setField (setField w 7 0 code) 31 31 1)).setReg (p.reg 0x028)
      (info &&& fieldMask (fun _ => true) 0x028 p.type.ownFields)
  else s.setReg (p.reg 0x024) (setField w 15 8 (min (getField w 15 8 + 1) 0xFF))

/-- A fault waits for the fault manager; of two of one job in one cycle the lower code goes first (Table FAULT-7; DESIGN CHOICE,
log 29: a cycle is one value of `now`). -/
def putFault (r : FaultRec) : List FaultRec → List FaultRec
  | [] => [r]
  | x :: xs => if x.job = r.job && r.job.isSome && x.at_ = r.at_ && decide (r.code < x.code) then r :: x :: xs else x :: putFault r xs

/-- A run-time fault: captured on its page, and sent to the fault manager whatever the page's state (R427, R438). -/
def State.fault (s : State) (p : Page) (code : Nat) (info : Word) (job : Option Nat) (sector : Nat := 0) : State :=
  let s := s.capture p code info
  s.withFaults (putFault ⟨code, p.base, info, job, sector, s.now⟩ s.faults)

/-- FAULT_INFO with a reason and further fields, from (value, lowest bit) pairs. -/
def infoOf (fs : List (Nat × Nat)) : Word := BitVec.ofNat 32 (natSum (fs.map fun f => f.1 * 2 ^ f.2))

/-- A check of a unit fails: fault 0x43 (R438). -/
def State.checkFault (s : State) (p : Page) (info : Word) (job : Option Nat) : State := s.fault p 0x43 info job

/-! ### Ownership (R407, R408) -/

/-- PAGE_OWNER of a page: 0 host, 1 Watchman, 2 shared, 3 locked. -/
def State.owner (s : State) (p : Page) : Nat := getField (s.reg (p.reg 0x008)) 1 0

/-- A master's writes take effect on a page (Table HOST-10). -/
def ownerAllows (owner : Nat) : Master → Bool
  | .host _ => owner == 0 || owner == 2
  | .watchman => owner == 1 || owner == 2

/-- A write that ownership ignores is counted (R407, R424). -/
def State.deny (s : State) : Master → State
  | .host f => (s.bumpSat (hostPage f) ownDenyCount_count).event (hostPage f) host_evtRaw_ownDeny
  | .watchman => s.bumpSat (sqPage .watchman) wmDenyCount_count

end Sys2Proof.Machine
end

