-- ==== Sys2Proof/Machine/Bells.lean ====
section
/-! DEFINITION. Bells: signals, waits and their time-out, host writes, and the Reeve's watchdog (R307, R318 to R324). -/

namespace Sys2Proof.Machine

/-! ### Waits (R320) -/

/-- Bits of a Bell operation (Table BUND-8). -/
def bellSetOp : Nat := 0
def bellAddOp : Nat := 1
def bellMaxOp : Nat := 2
def bellErrorOp : Nat := 3

/-- A wait with value w on a Bell is satisfied (R320). -/
def Bell.satisfies (b : Bell) (w : Word) : Bool := !b.error && decide ((b.value - w).toNat < 2 ^ 31)

/-- What a unit waits for: the physical die, the Bell, the value, the run of the waiting entry, and when the wait began. -/
structure WaitOn where
  die : Nat
  bell : Nat
  value : Word
  run : Nat
  since : Nat
  deriving DecidableEq, Repr

/-- The physical die of a logical die that a Granary word names; a logical die that no die carries has none. -/
def State.granWait (s : State) (run since : Nat) (w : BitVec 128) : Option WaitOn :=
  let b := granBellOp w
  (s.dieOf b.die).map fun d => ⟨d, b.bell, BitVec.ofNat 32 b.value, run, since⟩

/-- The wait a unit stands in, if any. A Loom's wait is a condition of its head instruction (Table LOOM-4). -/
def State.waitOf (s : State) : UnitRef → Option WaitOn
  | .loom d h l =>
    let x := s.loom d h l
    match x.queue with
    | e :: _ =>
      let i := loomInstr e.word
      if i.waitEn then some ⟨d, i.waitBell, BitVec.ofNat 32 i.waitValue, e.run, x.headAt⟩ else none
    | [] => none
  | .sieve d h =>
    let x := s.sieve d h
    match x.queue with
    | e :: _ =>
      let b := sieveBellOp e.word
      if x.waiting then some ⟨d, b.bell, BitVec.ofNat 32 b.value, e.run, x.waitAt⟩ else none
    | [] => none
  | .gate d =>
    let x := s.gate d
    match x.queue with
    | e :: _ =>
      let b := gateBellOp e.word
      if x.waiting then some ⟨d, b.bell, BitVec.ofNat 32 b.value, e.run, x.waitAt⟩ else none
    | [] => none
  | .queue pair q =>
    match (s.pair pair).running.find? fun c => c.q == q && (granCmd c.word).opcode == 0x3D && !c.done with
    | some c => s.granWait c.run c.at_ c.word
    | none => none

/-- The source number of a unit (R321). -/
def unitNumber : UnitRef → Nat
  | .loom _ h l => h * 8 + l
  | .sieve _ h => 32 + h
  | .gate _ => 36
  | .queue _ q => 37 + q

/-- Entries of other jobs. -/
def State.keepJob {w : Nat} (s : State) (job : Nat) (es : List (QEntry w)) : List (QEntry w) :=
  es.filter fun e => s.runJob e.run != some job

/-- A unit discards a job's remaining queue entries (R320). -/
def State.discardAt (s : State) (u : UnitRef) (job : Nat) : State :=
  match u with
  | .loom d h l => let x := s.loom d h l; s.setLoom d h l { x with queue := s.keepJob job x.queue }
  | .sieve d h => let x := s.sieve d h; s.setSieve d h { x with queue := s.keepJob job x.queue, waiting := false }
  | .gate d => let x := s.gate d; s.setGate d { x with queue := s.keepJob job x.queue, waiting := false }
  | .queue pair q =>
    let x := s.pair pair
    let x := x.setQueue q (s.keepJob job (x.queue q))
    s.setPair pair { x with running := x.running.filter fun c => !(c.q == q && s.runJob c.run == some job) }

/-- Every unit that can wait on a Bell of die d: its own, and the queues of every pair. -/
def waitersOf (d : Nat) : List UnitRef :=
  ((numsFrom 0 32).map fun i => .loom d (i / 8) (i % 8)) ++ ((numsFrom 0 4).map fun h => .sieve d h) ++ [.gate d]
    ++ ((numsFrom 0 8).map fun p => (numsFrom 0 33).map fun q => UnitRef.queue p q).flatten

/-- Each unit that waits on a Bell discards the job's entries. -/
def discardWaiters (s : State) (d b : Nat) : List UnitRef → State
  | [] => s
  | u :: us =>
    match s.waitOf u with
    | some w =>
      if w.die = d && w.bell = b then
        match s.runJob w.run with
        | some j => discardWaiters (s.discardAt u j) d b us
        | none => discardWaiters s d b us
      else discardWaiters s d b us
    | none => discardWaiters s d b us

/-- A unit that waits on a Bell with its error bit set discards the job's remaining queue entries. -/
def State.errorWait (s : State) (u : UnitRef) : State :=
  match s.waitOf u with
  | some w => match s.runJob w.run with
    | some j => if (s.bell w.die w.bell).error then s.discardAt u j else s
    | none => s
  | none => s

/-! ### Signals (R319) -/

/-- The Bell after an operation (Table BUND-8). -/
def Bell.apply (x : Bell) (op : Nat) (v : Word) : Bell :=
  if op = bellSetOp then { x with value := v }
  else if op = bellAddOp then { x with value := x.value + v }
  else if op = bellMaxOp then { x with value := if x.value.toNat < v.toNat then v else x.value }
  else if op = bellErrorOp then { x with value := v, error := true }
  else x

/-- A signal takes effect on Bell b of physical die d. A die that is not in service has no Bell to signal (R430, R441). -/
def State.signal (s : State) (d b op : Nat) (v : Word) : State :=
  if s.served (diePage .bells d) && decide (b < 4096) && decide (op < 4) then
    let s := s.setBell d b ((s.bell d b).apply op v)
    let s := s.bump (diePage .bells d) signalCount_count
    if op = bellErrorOp then discardWaiters (s.event (diePage .bells d) bells_evtRaw_errorOp) d b (waitersOf d) else s
  else s

/-- The code under which the fault policy ends a step for the ERROR of a unit (R320). DESIGN CHOICE (log 25): the code of the
Bells, since no rule gives one. It is no fault of its own: the manager records none. -/
def bellErrorCode : Nat := 0x46

/-- A unit's signal. An ERROR on a Bell of a job goes to the fault manager, which ends the job's step by its policy (R320). -/
def State.unitSignal (s : State) (d b op : Nat) (v : Word) : State :=
  let t := s.signal d b op v
  match (s.bell d b).owner with
  | some o => if op = bellErrorOp && s.served (diePage .bells d) && decide (b < 4096) then
      t.withFaults (t.faults ++ [⟨0, (diePage .bells d).base, 0, some o.2, 0, t.now⟩]) else t
  | none => t

/-- A signal on a Bell named by logical die (R318). -/
def State.signalLogical (s : State) (i b op : Nat) (v : Word) : State :=
  match s.dieOf i with
  | some d => s.unitSignal d b op v
  | none => s

def execSignalSet (d bell : Nat) (v : Word) (s : State) : Host.Outcome State Fault Refusal :=
  .next (s.signal d bell bellSetOp v)
def execSignalAdd (d bell : Nat) (v : Word) (s : State) : Host.Outcome State Fault Refusal :=
  .next (s.signal d bell bellAddOp v)
def execSignalMax (d bell : Nat) (v : Word) (s : State) : Host.Outcome State Fault Refusal :=
  .next (s.signal d bell bellMaxOp v)
def execSignalError (d bell : Nat) (v : Word) (s : State) : Host.Outcome State Fault Refusal :=
  .next (s.unitSignal d bell bellErrorOp v)

/-- A host write to a Bell slot (R321, R433): it follows the PAGE_OWNER of the die's BELLS page, acts only on a Bell
from 64 up that the function owns, and is applied as a signal. -/
def State.bellWrite (s : State) (f d b op : Nat) (v : Word) : State :=
  if !s.served (diePage .bells d) then s
  else if !ownerAllows (s.owner (diePage .bells d)) (.host f) then s.deny (.host f)
  else if 64 ≤ b && (s.bell d b).owner.map (·.1) == some f then s.signal d b op v
  else s

def execBellSet (f d bell : Nat) (v : Word) (s : State) : Host.Outcome State Fault Refusal :=
  .next (s.bellWrite f d bell bellSetOp v)
def execBellAdd (f d bell : Nat) (v : Word) (s : State) : Host.Outcome State Fault Refusal :=
  .next (s.bellWrite f d bell bellAddOp v)

/-! ### The end of a wait -/

/-- The held work of a unit proceeds: the WAIT leaves the queue, or the Granary command is done. A Loom's head
instruction stays and may issue (R76). -/
def State.proceed (s : State) : UnitRef → State
  | .loom _ _ _ => s
  | .sieve d h => let x := s.sieve d h; s.setSieve d h { x with queue := x.queue.tail, waiting := false }
  | .gate d => let x := s.gate d; s.setGate d { x with queue := x.queue.tail, waiting := false }
  | .queue pair q =>
    let x := s.pair pair
    s.setPair pair { x with running := x.running.map fun c =>
      if c.q = q && (granCmd c.word).opcode = 0x3D then { c with done := true } else c }

/-- A SIEVE WAIT or Gate WAIT counts as an operation completed (R146, R173). -/
def State.countWait (s : State) : UnitRef → State
  | .sieve d h => s.bump64 (sievePage d h) sieve_opCountLo_count sieve_opCountHi_count
  | .gate d => s.bump64 (diePage .gate d) gate_opCountLo_count gate_opCountHi_count
  | _ => s

/-- A unit looks at its wait again: it goes on, or it discards the job's entries, or it waits on. -/
def execWaitSatisfied (u : UnitRef) (s : State) : Host.Outcome State Fault Refusal :=
  match s.waitOf u with
  | some w => .next (if (s.bell w.die w.bell).satisfies w.value then (s.proceed u).countWait u else s.errorWait u)
  | none => .next s

/-- A wait has been unsatisfied for the BELL_TIMEOUT of the Bell's die, in µs (R320): fault 0x46 on its BELLS page, with the Bell
and the waiting source. The clock comes to that instant at the earliest. -/
def execBellWaitTimeout (u : UnitRef) (s : State) : Host.Outcome State Fault Refusal :=
  match s.waitOf u with
  | some w =>
    if (s.bell w.die w.bell).satisfies w.value then .next s
    else if (s.bell w.die w.bell).error then .next (s.errorWait u)
    else
      let due := w.since + s.fld (diePage .bells w.die) bellTimeout_us * 1000
      .next ((s.passTo due).fault (diePage .bells w.die) 0x46 (infoOf [(w.bell, 0), (unitNumber u, 16)]) (s.runJob w.run))
  | none => .next s

/-! ### The Reeve's watchdog (R307) -/

/-- A write of REEVE_HEARTBEAT by the Hamlet's firmware: the watchdog starts again. -/
def execReeveHeartbeat (d h : Nat) (_v : Word) (s : State) : Host.Outcome State Fault Refusal :=
  .next (if hamletOk d h && s.dieLive d then s.setReeve d h { s.reeve d h with beat := s.now } else s)

/-- Some job runs on the Hamlet. -/
def State.reeveBusy (s : State) (d h : Nat) : Bool := (s.reeve d h).run.isSome

/-- The time-out of REEVE_WDOG in µs passes since the last heartbeat: fault 0x47 (R307). The clock comes to that
instant at the earliest. -/
def execReeveWatchdogExpiry (d h : Nat) (s : State) : Host.Outcome State Fault Refusal :=
  if hamletOk d h && s.dieLive d && s.reeveBusy d h then
    let due := (s.reeve d h).beat + s.fld (hamletPage d h) reeveWdog_timeout * 1000
    let job := match (s.reeve d h).run with
      | some r => s.runJob r
      | none => none
    .next (((s.passTo due).setReeve d h { s.reeve d h with beat := max s.now due }).fault (hamletPage d h)
      0x47 0 job)
  else .next s

end Sys2Proof.Machine
end

