-- ==== Sys2Proof/Machine/Tensors.lean ====
section
/-! DEFINITION. Tensors that units hold: where a tensor lies, its cells in a Hamlet buffer or the Commons, tap views,
resampled views and Firefly views, and the placing of tiles (R57 to R63, R163, R166, R167, R292, R293, R483, R484). -/

namespace Sys2Proof.Machine

/-! ### Cells (R58, R484) -/

/-- The place of a Hamlet buffer, or of a Commons. -/
def hamletPlace (d h : Nat) : Nat := d * 4 + h
def commonsPlace (d : Nat) : Nat := 32 + d

/-- Where a tensor is held for a unit of Hamlet h of die d. -/
def placeOf (t : TensorDecl) (d h : Nat) : Nat :=
  match t.loc with
  | .commons => commonsPlace d
  | _ => hamletPlace d h

def sramKey (place job tensor : Nat) : Nat := (place * 2 ^ 16 + job) * 2 ^ 16 + tensor

def State.tdata (s : State) (place job tensor : Nat) : TData := SMap.get {} s.sram (sramKey place job tensor)
def State.setTdata (s : State) (place job tensor : Nat) (x : TData) : State :=
  s.withSram (SMap.set {} (sramKey place job tensor) x s.sram)

/-- The cell of logical row r and column c. -/
def TData.cell (x : TData) (t : TensorDecl) (r c : Nat) : Option (Option Nat) := SMap.get none x.elems (r * t.cols + c)
def TData.setCell (x : TData) (t : TensorDecl) (r c : Nat) (v : Option (Option Nat)) : TData :=
  { x with elems := SMap.set none (r * t.cols + c) v x.elems }

/-- Scales per row of a tensor (R483). -/
def scaleColsOf (t : TensorDecl) : Nat := ceilDiv t.cols 32
def TData.scale (x : TData) (t : TensorDecl) (r b : Nat) : Nat := SMap.get 0 x.scales (r * scaleColsOf t + b)
def TData.setScale (x : TData) (t : TensorDecl) (r b v : Nat) : TData :=
  { x with scales := SMap.set 0 (r * scaleColsOf t + b) v x.scales }

/-- What a unit reads at a position: nothing arrived there yet, a masked element, or an element's value. -/
inductive Elem where
  | absent
  | masked
  | val (v : FVal)
  deriving DecidableEq, Repr

/-- The value of a cell's code under the tensor's format (R49); the words of an integer tensor, and the drained rows of an integer class, are INT32 (R117). -/
def codeValOf (t : TensorDecl) (scale code : Nat) : FVal :=
  if t.int32 || decide (2 ^ 32 ≤ code) then FVal.ofInt (toSigned 32 code)
  else if t.fmt.isMx then decodeMx t.fmt scale code
  else decodeElem t.fmt code

/-- An element of a tensor held in a buffer. -/
def TData.elem (x : TData) (t : TensorDecl) (r c : Nat) : Elem :=
  if t.rows ≤ r || t.cols ≤ c then .masked
  else match x.cell t r c with
    | none => .absent
    | some none => .masked
    | some (some v) => .val (codeValOf t (x.scale t r (c / 32)) v)

/-! ### Views (R163, R293) -/

def isFirefly (t : TensorDecl) : Bool :=
  match t.loc with
  | .firefly _ => true
  | _ => false

/-- The step a run belongs to. -/
def State.stepOfRun (s : State) (run : Nat) : Option Step :=
  (s.run? run).bind fun r => s.loader.steps.find? fun t => t.job == r.job && t.number == r.step

/-- Its ticket. -/
def State.runTicket (s : State) (run : Nat) : List Byte :=
  match s.stepOfRun run with
  | some t => t.ticket
  | none => []

/-- The session in a batch slot of a step, as intake read the slot table. -/
def Step.session (t : Step) (slot : Nat) : Nat := t.slotTable.getD slot 0

/-- The addresses of a step-bound tensor's elements and scales, as intake read the binding table. -/
def Step.place (t : Step) (id : Nat) : Option (Nat × Nat) := (t.bound.find? fun x => x.1 == id).map (·.2)

/-- Shape parameters p0 to p7 and gen of a STEP ticket (Table BUND-5). -/
def ticketShapes (ticket : List Byte) : List Nat :=
  (numsFrom 0 8).map (fun i => leAt ticket (64 + 4 * i) 4) ++ [leAt ticket 96 8]

/-- The bound of a key range under the shape parameters of a ticket: a number and what each parameter adds to it. -/
def keyBound (shapes : List Nat) (n : Nat) (add : List (Nat × Nat × Nat)) : Nat :=
  n + natSum (add.map fun x => shapes.getD x.1 0 * x.2.1 / x.2.2)

/-- Byte c of row r of a mask tensor that the Reeve builds: bit j is set where key 8·c + j lies outside the row's range (R129,
R192). -/
def keyMaskByte (shapes : List Nat) (ranges : List KeyRange) (r c : Nat) : Nat :=
  match ranges[r]? with
  | some k =>
    natSum ((numsFrom 0 8).map fun j =>
      let key := 8 * c + j
      if key < keyBound shapes k.lo k.loBy || keyBound shapes k.hi k.hiBy < key then 2 ^ j else 0)
  | none => 0

/-- The whole step number of a run. -/
def State.runStepNumber (s : State) (run : Nat) : Nat :=
  match s.run? run with
  | some r => r.step
  | none => 0

/-- The seed and the stream ID that a view uses (Table FIRE-3). -/
def State.viewSeed (s : State) (run : Nat) (v : FireflyView) : Nat := if v.seedSrc then leAt (s.runTicket run) 16 8 else v.seed
def State.viewStream (s : State) (run : Nat) (v : FireflyView) : Nat :=
  if v.stepStream then (v.stream + s.runStepNumber run) % 2 ^ 32 else v.stream

/-- The out of a view's element: C is the column count of ref_tensor (R293). -/
def State.viewOut (s : State) (run : Nat) (v : FireflyView) (r c : Nat) : Nat :=
  let C := match findTensor (s.tensors run) v.refTensor with
    | some t => t.cols
    | none => 0
  firefly (s.viewSeed run v) (s.viewStream run v) (elemIndex C r c)

/-- The geometry record of a run by index. -/
def State.geomOf (s : State) (run g : Nat) : Geom := parseGeom ((s.geomsOf run).getD g [])

/-- The input coordinate that output o reads on an axis of n inputs and m outputs: the nearest one (R166), or the input of
w_b, or of w_a, under the bilinear factors 2 and 4 with REPLICATE at the edges (R167, Table CONV-5). -/
def nearestAt (n m o : Nat) : Nat := (2 * o + 1) * n / (2 * m)
def bilinearAt (n m o : Nat) (atB : Bool) : Nat :=
  let k := m / n
  let i := o / k
  if atB then i else if o % k < k / 2 then i - 1 else min (i + 1) (n - 1)

/-- The row of u that row r of a resampled view t of it reads (R147, R166, R167). -/
def resampledRow (t u : TensorDecl) (part axis r : Nat) : Nat :=
  let p := rowPos t.lines t.width r
  let near := part == 0
  let T := if near then nearestAt u.frames t.frames p.1 else p.1
  let Y := if near then nearestAt u.lines t.lines p.2.1 else if axis = 1 then bilinearAt u.lines t.lines p.2.1 (part == 2) else p.2.1
  let X := if near then nearestAt u.width t.width p.2.2 else if axis = 0 then bilinearAt u.width t.width p.2.2 (part == 2) else p.2.2
  (T * u.lines + Y) * u.width + X

/-- An operand's element as units of Hamlet h of die d read it. A tap view resolves its position on the input tensor;
padding reads +0 under ZERO and pad_value under CONSTANT (R163). -/
def State.operandElem (s : State) (d h job run : Nat) (t : TensorDecl) (r c : Nat) : Elem :=
  match t.loc with
  | .firefly e => .val (f32Val (ffValue (fireflyView e).dist (fireflyView e).p (s.viewOut run (fireflyView e) r c)))
  | .keyMask ranges => .val (.fin false (keyMaskByte (ticketShapes (s.runTicket run)) ranges r c) 0)
  | .tapView source geom tap =>
    match findTensor (s.tensors run) source with
    | none => .absent
    | some u =>
      let g := s.geomOf run geom
      let p := rowPos t.lines t.width r
      match g.inputRow u.frames u.lines u.width p.1 p.2.1 p.2.2 tap with
      | some i => (s.tdata (placeOf u d h) job u.id).elem u i c
      | none => .val (if g.padMode = 1 then f32Val g.padValue else .fin false 0 0)
  | .resampled source _ part axis =>
    match findTensor (s.tensors run) source with
    | none => .absent
    | some u => (s.tdata (placeOf u d h) job u.id).elem u (resampledRow t u part axis r) c
  | _ => (s.tdata (placeOf t d h) job t.id).elem t r c

/-! ### Tiles into a buffer (R57, R61, R63) -/

/-- The cells of one row of a tile: positions of its column block that lie inside the tensor. -/
def placeRow (t : TensorDecl) (tile : Tile) (i : Nat) (x : TData) : TData :=
  let f := tagFields tile.tag
  let W := tileW t.fmt
  (numsFrom 0 W).foldl (fun x j =>
    if f.col * W + j < t.cols then
      x.setCell t (f.row + i) (f.col * W + j)
        (some (if f.elemValid t.fmt t.rows t.cols i j && !tile.holes.contains (i * W + j) then some (tileAt tile W i j)
          else none))
    else x) x

/-- A data tile placed by its tag: rows 0 to VROWS inside the tensor. -/
def placeTile (t : TensorDecl) (tile : Tile) (x : TData) : TData :=
  let f := tagFields tile.tag
  (numsFrom 0 (f.vrows + 1)).foldl (fun x i => if f.row + i < t.rows then placeRow t tile i x else x) x

/-- A scale block placed by its tag. -/
def placeScales (t : TensorDecl) (tile : Tile) (x : TData) : TData :=
  let f := tagFields tile.tag
  let n := tileScales t.fmt
  (numsFrom 0 (f.vrows + 1)).foldl (fun x i =>
    (numsFrom 0 (f.vcols + 1)).foldl (fun x j =>
      if f.row + i < t.rows && decide (f.col * n + j < scaleColsOf t) then
        x.setScale t (f.row + i) (f.col * n + j) (tileAt tile n i j)
      else x) x) x

/-- A tile cut from a buffer: rows from `row`, column block `col` (R57, R61). -/
def TData.tile (x : TData) (t : TensorDecl) (row col vr vc step : Nat) : Tile :=
  let W := tileW t.fmt
  ⟨(dataTag t row col vr vc step).encode,
    ((numsFrom 0 vr).map fun i => (numsFrom 0 W).map fun j =>
      if j < vc then ((x.cell t (row + i) (col * W + j)).getD none).getD 0 % 2 ^ 32 else 0).flatten, []⟩

end Sys2Proof.Machine
end

