-- ==== Sys2Proof/Machine/Looms.lean ====
section
/-! DEFINITION. The Looms: issue conditions, passes, overflow and replay, retirement, FENCE, drains, chain inputs, Hearth
fill and power ramps (04_looms.md, 05_accumulation.md). -/

namespace Sys2Proof.Machine

/-! ### Places -/

/-- The tile at an address of the Loom buffer, in 256-byte units. -/
def Loom.tileOf (x : Loom) (addr : Nat) : Option BufTile := SMap.get none x.buf (addr % 2048)

/-- The kernel that a run is a part of: job, step, the kernel's place in the step, and logical die. A die with two logical
dies runs the kernel once for each (R64). -/
def State.kernelOf (s : State) (run : Nat) : Option (Nat × Nat × Nat × Nat) :=
  (s.run? run).map fun r => (r.job, r.step, r.place, r.logical)

/-- The Loom with the resident tiles of a run's kernel: an instruction names no tile of another kernel (R482; DEDUCED,
log 15). -/
def State.ownTiles (s : State) (x : Loom) (run : Nat) : Loom :=
  { x with buf := x.buf.filter fun e => match e.2 with
    | some b => s.kernelOf b.run == s.kernelOf run
    | none => false }

/-- The Loom with the counters of drains and chain inputs of run r (R113). -/
def Loom.forRun (x : Loom) (r : Nat) : Loom :=
  if x.countRun = r then x
  else { x with countRun := r, sieveDrains := 0, chainDrains := 0, chainIssued := 0, chainDone := [], selfDrains := 0 }

/-- Accumulator rows as (first, count) in one numbering: slots of R_s rows, or halves of 256. -/
abbrev Span := Nat × Nat

def spanMeets (a b : Span) : Bool := decide (a.1 < b.1 + b.2) && decide (b.1 < a.1 + a.2)

/-- The rows an instruction writes, in the half it writes. DESIGN CHOICE (log 15): the instruction's acc_mode bit decides,
also where it differs from the mode that the kernel declared, and a slot that the shape does not have stands behind the
last one. -/
def instrSpan (su : LoomSetup) (half : Nat) (i : LoomInstr) : Span :=
  if i.pair then (half * 256, min i.rows 256) else (i.accSlot * su.slotRows + i.accRow0, i.rows)

/-- The rows a drain has not read. -/
def drainSpan (su : LoomSetup) (j : DrainJob) : Span :=
  (if j.pair then j.slot * 256 + j.next else j.slot * su.slotRows + j.row0 + j.next, j.count - j.next)

/-- The instruction flips the filling half (R109). -/
def LoomInstr.flips (i : LoomInstr) : Bool := i.pair && (i.accInit == 1 || i.accInit == 2)

/-- The half an instruction writes when it issues. -/
def LoomCtx.halfFor (k : LoomCtx) (i : LoomInstr) : Nat := if i.flips then 1 - k.half else k.half

/-- The rows of an issued instruction. -/
def Issued.span (su : LoomSetup) (e : Issued) : Span := instrSpan su e.half (loomInstr e.word)

/-- The rows belong to an unsettled pass (R77). -/
def Loom.unsettled (x : Loom) (sp : Span) : Bool :=
  x.issued.any fun e => e.open_ && spanMeets sp (e.span x.k.setup)

/-- The tables that a kernel piece gives a Loom. -/
def State.loomProg (s : State) (run h l : Nat) : Option LoomProg :=
  match s.run? run with
  | some r => r.piece.looms.find? fun p => p.die == r.logical && p.hamlet == h && p.loom == l
  | none => none

/-! ### Chain inputs (R113, R114) -/

/-- The instructions with acc_init = 2 of a program, in order. -/
def chainInstrs (p : LoomProg) : List LoomInstr :=
  (p.words.map loomInstr).filter fun i => i.opcode == 1 && i.accInit == 2

/-- Walk the queue to the n-th instruction with acc_init = 2: its half, none while an earlier entry uses its rows. `sp`
gives the rows of the instruction sought for a half. -/
def chainWalk (su : LoomSetup) (sp : Nat → Span) : Nat → Nat → List Span → List (QEntry 256) → Option Nat
  | _, _, _, [] => none
  | n, half, used, e :: es =>
    let i := loomInstr e.word
    let half := if i.flips then 1 - half else half
    if i.opcode = 1 && i.accInit = 2 then
      match n with
      | 0 => if used.any (spanMeets (sp half)) then none else some half
      | n + 1 => chainWalk su sp n half (instrSpan su half i :: used) es
    else if i.opcode = 1 then chainWalk su sp n half (instrSpan su half i :: used) es
    else chainWalk su sp n half used es

/-- The half that the k-th chain input of a run will fill at Loom y, none while its rows cannot be reserved: the
instruction is not queued, or its rows are in use. -/
def chainRoom (y : Loom) (run k : Nat) (i : LoomInstr) : Option Nat :=
  let y := y.forRun run
  let su := y.k.setup
  if su.run ≠ run || k < y.chainIssued then none
  else
    let busy := (y.issued.map (·.span su)) ++ (y.drains.map (drainSpan su))
    let filling := if i.pair && y.k.halfTarget.isSome then [(y.k.half * 256, 256)] else []
    chainWalk su (fun h => instrSpan su h i) (k - y.chainIssued) y.k.half (busy ++ filling)
      (y.queue.filter fun e => e.run == run)

/-- Chain inputs of the first position of Loom l in a run: all of them, where it runs one position. -/
def State.firstInputs (s : State) (run h l : Nat) : Nat :=
  match s.loomProg run h l with
  | some p => p.firstInputs.getD (chainInstrs p).length
  | none => 0

/-- The half that a chain drain of Loom l fills at its receiver, none while it has no room. -/
def State.chainHalf (s : State) (d h : Nat) (j : DrainJob) (i : LoomInstr) : Option Nat :=
  match j.into with
  | some half => some half
  | none => chainRoom ((s.loom d h j.chainTo).forRun j.run) j.run j.index i

/-- The instruction that a chain drain pairs with. -/
def State.chainPartner (s : State) (h : Nat) (j : DrainJob) : Option LoomInstr :=
  (s.loomProg j.run h j.chainTo).bind fun p => (chainInstrs p)[j.index]?

/-- A drain names the Loom that it leaves: its rows stay where they are until the other position reads them (R114). -/
def DrainJob.stays (j : DrainJob) (l : Nat) : Bool := !j.toSieve && j.chainTo == l

/-- The number of the next chain drain, among those to the Loom itself or among those to another. -/
def Loom.chainIndex (x : Loom) (self : Bool) : Nat := if self then x.selfDrains else x.chainDrains
def Loom.countChain (x : Loom) (self : Bool) : Loom :=
  if self then { x with selfDrains := x.selfDrains + 1 } else { x with chainDrains := x.chainDrains + 1 }

/-- The filling half is handed to the drain (R109); a half that received no output is not drained. -/
def Loom.handHalf (x : Loom) (l run : Nat) : Loom :=
  let x := x.forRun run
  match x.k.halfTarget with
  | none => x
  | some (toSieve, chain, ints) =>
    let j : DrainJob := ⟨run, toSieve, chain, true, x.k.half, 0, x.k.halfRows, 0,
      if toSieve then x.sieveDrains else x.chainIndex (chain == l), none, ints, SMap.get [] x.k.masks (x.k.half * 256)⟩
    let x := if toSieve then { x with sieveDrains := x.sieveDrains + 1 } else x.countChain (chain == l)
    { x with drains := x.drains ++ [j], k := { x.k with halfTarget := none } }

/-- The rows that an instruction of the second position of Loom l reads as its chain input: those of a drain to the Loom
itself, the one of a half that its own flip hands over included (R114). -/
def Loom.ownInput (x : Loom) (l run first : Nat) (i : LoomInstr) : Option DrainJob :=
  let y := if i.flips then x.handHalf l run else x.forRun run
  if i.accInit = 2 && decide (first ≤ y.chainIssued) then
    y.drains.find? fun j => j.stays l && j.run == run && j.index == y.chainIssued - first
  else none

/-! ### Issue (R76, Table LOOM-4) -/

/-- The streaming tiles that hold m rows from an address; `.error true` where the tags do not sum to m (R86), `.error
false` where a tile is missing or has another format. -/
def streamTiles (x : Loom) (fm : Fmt) : Nat → Nat → Nat → Except Bool (List BufTile)
  | _, _, 0 => .ok []
  | 0, _, _ + 1 => .error false
  | n + 1, addr, m + 1 =>
    match x.tileOf addr with
    | none => .error false
    | some b =>
      let f := tagFields b.tile.tag
      if f.fmt ≠ fm.code || (fm.isMx && b.scale.isNone) then .error false
      else if m + 1 < f.vrows + 1 then .error true
      else match streamTiles x fm n (addr + tileUnits fm) (m - f.vrows) with
        | .ok bs => .ok (b :: bs)
        | .error r => .error r

/-- The operands of a pass. -/
structure PassIn where
  cls : OpClass
  stat : BufTile
  stream : List BufTile
  deriving DecidableEq, Repr

/-- Whether the head instruction may issue: it waits, it meets a tag sequence that does not sum to M, or it goes. -/
inductive Ready where
  | wait
  | badRows
  | go (p : PassIn)
  deriving DecidableEq, Repr

/-- The stationary tile that an instruction runs against: the resident one at stat_addr, or with stat_reuse the active one
where the instruction names it (Table LOOM-4). DEDUCED (log 15): it names the resident tile, else the tile that came from
the address. -/
def statTile (x : Loom) (i : LoomInstr) : Option BufTile :=
  if i.statReuse then
    let named := match x.tileOf i.statAddr with
      | some b => b.tile.tag == x.k.current.tile.tag
      | none => x.k.currentAt == i.statAddr
    if named then some x.k.current else none
  else x.tileOf i.statAddr

/-- Stationary tile, streaming rows and formats of Table LOOM-4. -/
def passOperands (x : Loom) (i : LoomInstr) : Ready :=
  match Fmt.ofCode i.statFmt, Fmt.ofCode i.streamFmt, statTile x i with
  | some fs, some ft, some b =>
    match opClass fs, opClass ft with
    | some c, some c2 =>
      let f := tagFields b.tile.tag
      if c ≠ c2 || f.fmt ≠ fs.code || (fs.isMx && b.scale.isNone) then .wait
      else match streamTiles x ft 4096 i.streamAddr i.rows with
        | .ok bs => .go ⟨c, b, bs⟩
        | .error true => .badRows
        | .error false => .wait
    | _, _ => .wait
  | _, _, _ => .wait

/-- The chain input of an instruction: one that came from another Loom, the rows of the Loom's own first position, or
none yet. `first` is the number of chain inputs of the Loom's first position (R113, R114). -/
def chainReady (x : Loom) (l run first : Nat) (i : LoomInstr) : Bool :=
  let y := x.forRun run
  i.accInit != 2 || (if y.chainIssued < first then y.chainDone.contains y.chainIssued
    else match x.ownInput l run first i with
      | some j => !x.unsettled (drainSpan y.k.setup j)
      | none => false)

/-- The accumulator condition (R76, R77, R109, R113). A half that drains is read out before the first write, so a flip
waits only where its drain cannot proceed. Rows that the instruction reads as its own chain input do not hold it (R114). -/
def accReady (x : Loom) (l run first : Nat) (i : LoomInstr) : Bool :=
  let own := x.ownInput l run first i
  let x := x.forRun run
  let su := x.k.setup
  let sp := instrSpan su (x.k.halfFor i) i
  !x.unsettled sp && chainReady x l run first i
    && (i.pair || !(x.drains.any fun j => spanMeets sp (drainSpan su j) && some j != own))
    && (i.pair || !(x.issued.any fun e => e.tuned && (loomInstr e.word).drainTarget != 0 && spanMeets sp (e.span su)))
    && (!i.flips || !(x.drains.any fun j => j.pair && j.slot == 1 - x.k.half && some j != own
          && (x.unsettled (drainSpan su j) || j.stays l)))

/-- The drain target has reserved room (Table LOOM-4). A Loom that runs two positions of a chain keeps the rows itself
(R114). DESIGN CHOICE (log 15): no rule says when a Sieve has room, and it always has. -/
def State.drainRoom (s : State) (d h l run : Nat) (x : Loom) (i : LoomInstr) : Bool :=
  if i.drainTarget = 2 && i.chainNext ≠ l then
    match s.loomProg run h i.chainNext with
    | some p =>
      let k := (x.forRun run).chainDrains + (if i.flips && ((x.k.halfTarget.map fun t => !t.1 && t.2.1 != l)) == some true then 1 else 0)
      match (chainInstrs p)[k]? with
      | some j => (chainRoom (s.loom d h i.chainNext) run k j).isSome
      | none => false
    | none => false
  else true

/-- A flip can read out the half it flips into (R109). -/
def State.flipRoom (s : State) (d h l : Nat) (x : Loom) (i : LoomInstr) : Bool :=
  !i.flips || x.drains.all fun j => j.toSieve || j.stays l || match s.chainPartner h j with
    | some p => (s.chainHalf d h j p).isSome
    | none => true

/-- The wait of an instruction is satisfied (R320). -/
def State.loomWaitOk (s : State) (d : Nat) (i : LoomInstr) : Bool :=
  !i.waitEn || (s.bell d i.waitBell).satisfies (BitVec.ofNat 32 i.waitValue)

/-- LOOM_CTRL.issue_en is set and the entry's job is not stopped on the Loom (R69, R91). -/
def State.loomMayIssue (s : State) (d h l : Nat) (x : Loom) (run : Nat) : Bool :=
  s.served (loomPage d h l) && s.fld (loomPage d h l) loomCtrl_issueEn == 1
    && (x.blocked.isNone || x.blocked != s.runJob run)

/-- The rows of the drain that an instruction reads as its own chain input are not as many as it streams (R113). -/
def ownMismatch (x : Loom) (l run first : Nat) (i : LoomInstr) : Bool :=
  match x.ownInput l run first i with
  | some j => j.count != i.rows
  | none => false

/-- Every condition of Table LOOM-4 but the power condition, for a PASS of the kernel that the Loom has taken up (R482). -/
def State.passReady (s : State) (d h l : Nat) (x : Loom) (e : QEntry 256) : Ready :=
  let i := loomInstr e.word
  if i.opcode ≠ 1 || x.k.setup.run ≠ e.run || !s.loomMayIssue d h l x e.run || !s.loomWaitOk d i then .wait
  else match passOperands (s.ownTiles x e.run) i with
    | .go p =>
      let first := s.firstInputs e.run h l
      if accReady x l e.run first i && s.drainRoom d h l e.run x i && s.flipRoom d h l x i then
        if ownMismatch x l e.run first i then .badRows else .go p
      else .wait
    | r => r

/-- The power condition (R84, R91): neither cold nor ramping. DEDUCED (log 15): with hearth_en = 0 the ramps do not act,
and a Loom whose LOOM_STATUS still reads cold issues. -/
def State.loomHot (s : State) (d h l : Nat) (x : Loom) : Bool :=
  s.fld (loomPage d h l) loomCtrl_hearthEn == 0 || (x.activity == 16 && x.ramp.isNone && x.rampWait.isNone)

/-! ### Rows of a pass -/

/-- A streaming row: whether it lies inside the tensor (R58), whether its tag has the replay flag (R53), and its elements. -/
structure StreamRow where
  valid : Bool
  auto : Bool
  elems : List (Option FVal)
  deriving DecidableEq, Repr

/-- The tensor of a tile in the buffer. -/
def State.bufTensor (s : State) (b : BufTile) : Option TensorDecl :=
  findTensor (s.tensors b.run) (tagFields b.tile.tag).tensor

/-- The rows of the streaming tiles in order (R70). -/
def State.streamRows (s : State) (bs : List BufTile) : List StreamRow :=
  (bs.map fun b =>
    match s.bufTensor b with
    | some t =>
      let f := tagFields b.tile.tag
      let W := tileW t.fmt
      (numsFrom 0 (f.vrows + 1)).map fun i => StreamRow.mk (decide (f.row + i < t.rows)) (f.flag flReplay)
        (((streamRow t b.tile b.scale i).zipIdx).map fun p => if b.pad.contains (i * W + p.2) then none else p.1)
    | none => []).flatten

/-- What a pass changes; `before` lists the elements it wrote with the word each held, none where it was unwritten. -/
structure PassAcc where
  acc : SMap Word
  written : SMap Bool
  sat : Nat
  overs : List Nat
  before : List (Nat × Option Word) := []
  deriving DecidableEq, Repr

/-- How a pass writes: its class, overflow mode, starting value and place. -/
structure PassMode where
  cls : OpClass
  ieee : Bool
  init : Nat
  pair : Bool
  su : LoomSetup
  slot : Nat
  half : Nat
  row0 : Nat
  deriving DecidableEq, Repr

/-- Columns an accumulator row of the mode holds. -/
def PassMode.cols (m : PassMode) : Nat := if m.pair then 128 else m.su.slotCols

/-- Promotion of one column of row r (R104 to R107). -/
def promoteCol (m : PassMode) (w : Int) (r : Nat) (p : PassAcc) (c : Nat × ColSum) : PassAcc :=
  if c.1 < m.cols then
    let a := accIndex m.pair m.su.slotRows m.su.slotCols m.slot m.half m.row0 r c.1
    let start := if m.init = 1 then 0 else if SMap.get false p.written a then SMap.get 0 p.acc a else 0
    let q := promote m.cls m.ieee w start c.2
    { p with acc := SMap.set 0 a q.1 p.acc, written := SMap.set false a true p.written,
             sat := p.sat + if q.2 then 1 else 0,
             before := (a, if SMap.get false p.written a then some (SMap.get 0 p.acc a) else none) :: p.before }
  else p

/-- One row of a pass under window w: promoted, or marked as overflowed. Rows outside the tensor write nothing (R58);
DEDUCED: neither does a row beyond a PAIR half. -/
def passRow (m : PassMode) (w : Int) (cols : List (Option (List (Option FVal)))) (r : Nat) (row : StreamRow)
    (p : PassAcc) : PassAcc :=
  if !row.valid || (m.pair && decide (256 ≤ r)) then p
  else
    let sums := rowSums m.cls w cols row.elems
    if rowOverflowed sums then { p with overs := p.overs ++ [r] }
    else sums.foldl (promoteCol m w r) p

/-- The rows of a pass from row r on. `pick` says which rows are streamed. -/
def passRows (m : PassMode) (tuned : Bool) (shift : Nat) (cols : List (Option (List (Option FVal)))) (et : Option Int)
    (pick : Nat → Bool) : Nat → List StreamRow → PassAcc → PassAcc
  | _, [], p => p
  | r, row :: rows, p =>
    let p := if pick r then passRow m (rowWindow m.cls (tuned && !row.auto) shift (topExp row.elems) et) cols r row p else p
    passRows m tuned shift cols et pick (r + 1) rows p

/-- Run a pass or a replay against its stationary tile. -/
def State.runPass (s : State) (k : LoomCtx) (i : LoomInstr) (half : Nat) (p : PassIn) (tuned : Bool)
    (pick : Nat → Bool) : PassAcc :=
  match s.bufTensor p.stat with
  | some t =>
    let cols := statColumns t p.stat.tile p.stat.scale
    let m : PassMode :=
      { cls := p.cls, ieee := i.promoIeee, init := i.accInit, pair := i.pair, su := k.setup, slot := i.accSlot,
        half := half, row0 := i.accRow0 }
    passRows m tuned i.tuneShift cols (statTop cols) pick 0 (s.streamRows p.stream) ⟨k.acc, k.written, 0, [], []⟩
  | none => ⟨k.acc, k.written, 0, [], []⟩

/-! ### Drains (R109, R110, R113) -/

/-- An accumulator element as a drain reads it (R107). -/
def LoomCtx.read (k : LoomCtx) (a : Nat) : Word := if SMap.get false k.written a then SMap.get 0 k.acc a else 0

/-- The words of row n of a drain. -/
def drainWords (k : LoomCtx) (j : DrainJob) (n : Nat) : List Word :=
  (numsFrom 0 (if j.pair then 128 else k.setup.slotCols)).map fun c =>
    k.read (accIndex j.pair k.setup.slotRows k.setup.slotCols j.slot j.slot j.row0 n c)

/-- The tensors that a drain fills, each with its first accumulator column, and how many columns each takes: one, or under
the head map one per head of the group (R175, R176). -/
def drainKappa (dd : DrainDecl) : Nat := if dd.heads.isEmpty then 128 else dd.kappa
def drainDests (dd : DrainDecl) : List (Nat × Nat) :=
  ((if dd.heads.isEmpty then [dd.tensor] else dd.heads).zipIdx).map fun p => (p.1, p.2 * drainKappa dd)

/-- The cells of row `row` from column `col` take FP32 or INT32 words; a column that the drain masks is a masked cell (R58). -/
def drainCells (t : TensorDecl) (ints : Bool) (row col : Nat) (ws : List (Word × Bool)) (x : TData) : TData :=
  (ws.zipIdx).foldl (fun x wc =>
    if row < t.rows && decide (col + wc.2 < t.cols) then
      x.setCell t row (col + wc.2) (some (if wc.1.2 then none else some (wc.1.1.toNat + if ints then 2 ^ 32 else 0)))
    else x) x

def drainParts (d h job : Nat) (ts : List TensorDecl) (dd : DrainDecl) (j : DrainJob) (ws : List (Word × Bool)) :
    List (Nat × Nat) → State → State
  | [], s => s
  | p :: ps, s =>
    drainParts d h job ts dd j ws ps (match findTensor ts p.1 with
      | some t => s.setTdata (placeOf t d h) job t.id (drainCells t j.ints (dd.row + j.next) (dd.col * drainKappa dd)
          ((ws.drop p.2).take (drainKappa dd)) (s.tdata (placeOf t d h) job t.id))
      | none => s)

/-- The next row of a drain reaches the Sieve: one column block of the drain's tensor, or of its heads' (R484). -/
def State.drainToSieve (s : State) (d h : Nat) (j : DrainJob) (p : LoomProg) (ws : List Word) : State :=
  match p.drains[j.index]?, s.runJob j.run with
  | some dd, some job =>
    drainParts d h job (s.tensors j.run) dd j ((ws.zipIdx).map fun w => (w.1, j.masked.contains w.2)) (drainDests dd) s
  | _, _ => s

/-- Row n of a chain drain fills the rows of the instruction it pairs with. -/
def chainFill (y : Loom) (half n : Nat) (i : LoomInstr) (ws : List Word) : Loom :=
  let su := y.k.setup
  let m := if i.pair then 128 else su.slotCols
  let k := (ws.zipIdx).foldl (fun (k : LoomCtx) wc =>
    if wc.2 < m then
      let a := accIndex i.pair su.slotRows su.slotCols i.accSlot half i.accRow0 n wc.2
      { k with acc := SMap.set 0 a wc.1 k.acc, written := SMap.set false a true k.written }
    else k) y.k
  { y with k := k }

/-- Count the row just read; the drain ends with its last row. -/
def Loom.drainNext (x : Loom) (j : DrainJob) (into : Option Nat) : Loom :=
  if j.next + 1 < j.count then
    { x with drains := x.drains.map fun i => if i = j then { j with next := j.next + 1, into := into } else i }
  else { x with drains := x.drains.erase j }

/-- One row of the first drain of a Loom moves on (R110); rows that stay for the Loom's second position are not read
(R114). DESIGN CHOICE (log 15): a chain drain that no instruction of the next position pairs with is dropped. -/
def State.drainRow (s : State) (d h l : Nat) : State :=
  let x := s.loom d h l
  match x.drains.find? fun j => !j.stays l with
  | none => s
  | some j =>
    let sp : Span := ((drainSpan x.k.setup j).1, 1)
    if x.unsettled sp then s
    else
      let ws := drainWords x.k j j.next
      if j.toSieve then
        let s := match s.loomProg j.run h l with
          | some p => s.drainToSieve d h j p ws
          | none => s
        s.setLoom d h l (x.drainNext j none)
      else
        match s.chainPartner h j with
        | none => s.setLoom d h l { x with drains := x.drains.erase j }
        | some i =>
          if i.rows ≠ j.count then
            (s.setLoom d h l { x with drains := x.drains.erase j }).checkFault (loomPage d h j.chainTo) (infoOf [(0x0C, 0)])
              (s.runJob j.run)
          else match s.chainHalf d h j i with
            | none => s
            | some half =>
              let s := s.setLoom d h l (x.drainNext j (some half))
              let y := chainFill ((s.loom d h j.chainTo).forRun j.run) half j.next i ws
              s.setLoom d h j.chainTo (if j.next + 1 < j.count then y else { y with chainDone := j.index :: y.chainDone })

def execDrain (d h l : Nat) (s : State) : Host.Outcome State Fault Refusal :=
  .next (if s.served (loomPage d h l) then s.drainRow d h l else s)

/-- Drain rows until the half is read out; at most n of them. -/
def drainHalf (d h l half : Nat) : Nat → State → State
  | 0, s => s
  | n + 1, s =>
    if (s.loom d h l).drains.any fun j => j.pair && j.slot == half && !j.stays l then drainHalf d h l half n (s.drainRow d h l) else s

/-- The rows of the Loom's own first position become the chain input of an instruction, and are free (R114). -/
def Loom.takeOwn (x : Loom) (half : Nat) (i : LoomInstr) (j : DrainJob) : Loom :=
  let rows := (numsFrom 0 j.count).map fun n => (n, drainWords x.k j n)
  let y := rows.foldl (fun (y : Loom) r => chainFill y half r.1 i r.2) x
  { y with drains := y.drains.erase j }

/-- The drain of a FLOW instruction (R110). -/
def Issued.drain (k : LoomCtx) (e : Issued) : DrainJob :=
  let i := loomInstr e.word
  ⟨e.run, i.drainTarget == 1, i.chainNext, false, i.accSlot, i.accRow0, i.rows, 0, e.index, none, i.isInt,
    SMap.get [] k.masks (e.span k.setup).1⟩

/-! ### PASS (R71 to R74, R98 to R104) -/

/-- A counter of slots that carry Hearth fill (R80, R90). -/
def State.hearthFill (s : State) (d h l n : Nat) : State :=
  if s.fld (loomPage d h l) loomCtrl_hearthEn = 1 then
    s.events (loomPage d h l) hearthCount_count loom_evtRaw_hearthActive n
  else s

/-- A swapping marker: the cells take the incoming tile into the shadow registers, and the front copies it into the
active ones (R71, R72). -/
def LoomCtx.swapIn (k : LoomCtx) (b : BufTile) : LoomCtx := { k with shadow := b, active := b }

/-- A pass against tile b needs a marker that brings it in: the instruction names a tile of its own, or the active registers
hold the tile of a replay (R74, R78). -/
def LoomCtx.needsSwap (k : LoomCtx) (i : LoomInstr) (b : BufTile) : Bool := !i.statReuse || k.active != b

/-- The tile that the next instruction of the queue brings in at the marker that enters now (R74). -/
def State.nextSwaps (s : State) (d h l : Nat) : Option BufTile :=
  let x := s.loom d h l
  match x.queue with
  | e :: _ =>
    if !s.loomHot d h l x then none
    else match s.passReady d h l x e with
      | .go p => if x.k.needsSwap (loomInstr e.word) p.stat then some p.stat else none
      | _ => none
  | [] => none

/-- The tiles of a pass as they stream: the last one's tag says so (R53). -/
def lastInPass : List BufTile → List BufTile
  | [] => []
  | [b] => [{ b with tile := { b.tile with tag := setTagFlag b.tile.tag flLastInPass } }]
  | b :: bs => b :: lastInPass bs

/-- The tiles of a replay: every row's tag has the replay flag (R53, R78). -/
def replayTiles (bs : List BufTile) : List BufTile :=
  bs.map fun b => { b with tile := { b.tile with tag := setTagFlag b.tile.tag flReplay } }

/-- The pass-end marker names the stationary tile that takes effect behind it (R74). -/
def State.mark (s : State) (x : Loom) (b : BufTile) : Loom := { x with marker := markerTag b.tile.tag (s.runStep b.run) }

/-- Bubbles stand immediately before the last row of the pass that ends (R73), whose slot they move. -/
def Loom.bubble (x : Loom) (n : Nat) : Loom :=
  { x with slot := x.slot + n, issued := x.issued.map fun e => if e.lastSlot = x.slot then { e with lastSlot := x.slot + n } else e }

/-- The end of m slots of rows: the marker, the bubbles before it and what they count (R73, R74). The conditions of the
next instruction are judged as the pass has left them (DEDUCED, log 15). -/
def State.passEnd (s : State) (d h l m : Nat) (lone : Bool) : State :=
  let x := s.loom d h l
  let x := { x with slot := x.slot + m + if lone then 1 else 0 }
  let since := if lone then some m else x.slots.map (· + m)
  match s.nextSwaps d h l with
  | some b =>
    let bubbles := match since with
      | some n => 128 - n
      | none => 0
    let s := s.bump (loomPage d h l) bubbleCount_count bubbles
    let s := s.hearthFill d h l (bubbles + if lone then 1 else 0)
    s.setLoom d h l (s.mark ({ x with slots := some 0, swapped := true, k := x.k.swapIn b }.bubble bubbles) b)
  | none =>
    (s.hearthFill d h l (if lone then 1 else 0)).setLoom d h l (s.mark { x with slots := since, swapped := false } x.k.active)

/-- The rows an instruction writes carry a forced-AUTO mark (R101). -/
def LoomCtx.isForced (k : LoomCtx) (sp : Span) : Bool := k.forced.any fun r => spanMeets sp (r, 1)

/-- Marks on the rows of a span cleared, or set. -/
def LoomCtx.clearForced (k : LoomCtx) (sp : Span) : LoomCtx :=
  { k with forced := k.forced.filter fun r => !spanMeets sp (r, 1) }
def LoomCtx.setForced (k : LoomCtx) (sp : Span) : LoomCtx :=
  { k with forced := numsFrom sp.1 sp.2 ++ (k.clearForced sp).forced }

/-- The Loom as the instruction leaves the queue and flips (R109). -/
def State.passFlip (s : State) (d h l run : Nat) (i : LoomInstr) : State :=
  if i.flips then
    let s := drainHalf d h l (1 - (s.loom d h l).k.half) 4096 s
    let x := (s.loom d h l).handHalf l run
    s.setLoom d h l { x with k := { x.k with half := 1 - x.k.half, halfRows := 0 } }
  else s

/-- The chain input that the Loom holds itself is in place before the rows (R114). -/
def Loom.withInput (x : Loom) (l run first : Nat) (i : LoomInstr) : Loom :=
  match x.ownInput l run first { i with pair := false } with
  | some j => x.takeOwn x.k.half i j
  | none => x

/-- The columns that a stationary tile masks whole. -/
def State.maskedCols (s : State) (b : BufTile) : List Nat :=
  match s.bufTensor b with
  | some t => (numsFrom 0 128).filter (statColMasked t (tagFields b.tile.tag))
  | none => []

/-- The columns of an output that every pass into it masks. -/
def LoomCtx.maskInto (k : LoomCtx) (sp : Span) (init : Nat) (cols : List Nat) : LoomCtx :=
  { k with masks := SMap.set [] sp.1 (if init = 0 then (SMap.get [] k.masks sp.1).filter cols.contains else cols) k.masks }

/-- A pass issues: its rows are streamed and promoted, overflowed rows wait for their replay (R99 to R101). After an AUTO
pass its rows may drain at once, after a TUNED one when it has settled (R110). -/
def State.passIssue (s : State) (d h l : Nat) (e : QEntry 256) (p : PassIn) : State :=
  let i := loomInstr e.word
  let pg := loomPage d h l
  let s := s.passFlip d h l e.run i
  let x := ((s.loom d h l).forRun e.run).withInput l e.run (s.firstInputs e.run h l) i
  let sp := instrSpan x.k.setup x.k.half i
  let k := if i.accInit = 0 then x.k else x.k.clearForced sp
  let tuned := i.tuned && !k.isForced sp
  let r := s.runPass k i k.half p tuned fun _ => true
  let exceeded := decide (ceilDiv i.rows k.setup.rowsPerReplay < r.overs.length)
  let first := exceeded && !k.autoMode
  let lone := k.needsSwap i p.stat && !(x.swapped && k.active == p.stat)
  let k := { k with acc := r.acc, written := r.written, autoMode := k.autoMode || exceeded,
                    current := p.stat, currentAt := i.statAddr,
                    halfRows := if i.pair then max k.halfRows (min i.rows 256) else k.halfRows,
                    halfTarget := if i.pair then some (i.drainTarget == 1, i.chainNext, i.isInt) else k.halfTarget }
  let k := if k.active = p.stat then k else k.swapIn p.stat
  let k := k.maskInto sp i.accInit (s.maskedCols p.stat)
  let k := if exceeded then k.setForced sp else k
  let flow := !i.pair && i.drainTarget != 0
  let index := if i.drainTarget = 1 then x.sieveDrains else x.chainIndex (i.chainNext == l)
  let y : Issued := ⟨e.run, e.word, e.last, k.half, index, tuned, tuned, r.overs, p.stat, lastInPass p.stream, r.before,
    x.slot + i.rows + if lone then 1 else 0⟩
  let x := { x with
    queue := x.queue.tail, headAt := s.now, k := k, hearthLevel := i.hearthLevel, issued := x.issued ++ [y],
    drains := if flow && !tuned then x.drains ++ [y.drain k] else x.drains,
    chainIssued := x.chainIssued + (if i.accInit = 2 then 1 else 0),
    sieveDrains := x.sieveDrains + (if flow && i.drainTarget = 1 then 1 else 0) }
  let x := if flow && i.drainTarget = 2 then x.countChain (i.chainNext == l) else x
  let s := s.setLoom d h l x
  let s := s.events pg loom_satCount_count loom_evtRaw_saturated r.sat
  let s := if exceeded then s.event pg loom_evtRaw_replayExceeded else s
  let s := if first then s.bump pg replayExceeded_count else s
  s.passEnd d h l i.rows lone

/-- The instruction at the head of the queue is checked as it leaves (R86): its word, and its tag sequence. -/
def State.loomReject (s : State) (d h l : Nat) (e : QEntry 256) (reason : Nat) : State :=
  let x := s.loom d h l
  (s.setLoom d h l { x with queue := x.queue.tail, headAt := s.now }).checkFault (loomPage d h l) (infoOf [(reason, 0)]) (s.runJob e.run)

/-- The rows of the drain of a pass that is not issued are masked cells. -/
def maskRows (d h : Nat) (j : DrainJob) (p : LoomProg) : List Nat → State → State
  | [], s => s
  | n :: ns, s => maskRows d h j p ns (s.drainToSieve d h { j with next := n, masked := numsFrom 0 128 } p (List.replicate 128 0))

/-- A pass in which every key of its tile is masked is not issued (R178): it leaves the queue, and its output in the Sieve is
masked. DEDUCED (log 15): its wait and its signal take effect as those of an issued one do. -/
def State.passSkip (s : State) (d h l : Nat) (e : QEntry 256) : State :=
  let i := loomInstr e.word
  let x := s.loom d h l
  if x.k.setup.run ≠ e.run || !x.issued.isEmpty || !s.loomWaitOk d i then s
  else
    let x := if i.pair then x.handHalf l e.run else x.forRun e.run
    let j : DrainJob := ⟨e.run, true, 0, i.pair, i.accSlot, i.accRow0, i.rows, 0, x.sieveDrains, none, i.isInt, []⟩
    let s := s.setLoom d h l { x with
      queue := x.queue.tail, headAt := s.now, sieveDrains := x.sieveDrains + if i.drainTarget = 1 then 1 else 0 }
    let s := match s.loomProg e.run h l with
      | some p => if i.drainTarget = 1 then maskRows d h j p (numsFrom 0 i.rows) s else s
      | none => s
    if i.sigEn then s.unitSignal d i.sigBell i.sigOp (BitVec.ofNat 32 i.sigValue) else s

def execPass (d h l : Nat) (s : State) : Host.Outcome State Fault Refusal :=
  let x := s.loom d h l
  match x.queue with
  | [] => .next s
  | e :: _ =>
    if !s.loomMayIssue d h l x e.run then .next s
    else match loomInstrFault e.word x.k.setup.slotRows with
      | some r => .next (s.loomReject d h l e r)
      | none => if e.skip then .next (s.passSkip d h l e) else match s.passReady d h l x e with
        | .badRows => .next (s.loomReject d h l e 0x0C)
        | .go p => .next (if s.loomHot d h l x then s.passIssue d h l e p else s)
        | .wait => .next s

/-! ### Replay (R78, R99) -/

/-- The end marker of a pass that did not swap becomes the swapping marker that a replay needs, its bubbles before it (R73,
R78). -/
def State.turnMarker (s : State) (d h l : Nat) : State :=
  let bubbles := match (s.loom d h l).slots with
    | some n => 128 - n
    | none => 0
  let s := (s.bump (loomPage d h l) bubbleCount_count bubbles).hearthFill d h l bubbles
  s.setLoom d h l ({ s.loom d h l with slots := some 0, swapped := true }.bubble bubbles)

/-- The last pass-end marker entered in or after cycle E + 256 of a pass, so that a replay comes at it; without one the Loom is idle
in that cycle (R78; DEDUCED, log 15). -/
def Loom.markerAfter (x : Loom) (e : Issued) : Bool := decide (e.lastSlot + 256 ≤ x.slot)

/-- On an idle Loom a replay starts no earlier than cycle E + 256. -/
def Loom.idleTo (x : Loom) (e : Issued) : Loom := { x with slot := max x.slot (e.lastSlot + 255) }

/-- The overflowed rows stream again under AUTO against the pass's own stationary tile. The marker before them brings that
tile in: the end marker of the pass ahead, whether it was to swap or not, or on an idle Loom a lone marker; their end marker
brings in the tile of the pass that follows (R78). -/
def State.replay (s : State) (d h l : Nat) (e : Issued) : State :=
  let i := loomInstr e.word
  let pg := loomPage d h l
  let x := s.loom d h l
  match (Fmt.ofCode i.statFmt).bind opClass with
  | none => s
  | some c =>
    let n := e.overs.length
    let lone := !x.swapped && !x.markerAfter e
    let s := if lone then s.setLoom d h l (x.idleTo e) else if x.swapped then s else s.turnMarker d h l
    let x := s.loom d h l
    let r := s.runPass x.k i e.half ⟨c, e.stat, replayTiles e.stream⟩ i.tuned fun row => e.overs.contains row
    let s := s.setLoom d h l { x with
      k := { x.k with acc := r.acc, written := r.written }.swapIn e.stat,
      issued := x.issued.map fun e2 =>
        if e2 = e then { e with overs := [], open_ := false, before := r.before ++ e.before } else e2 }
    let s := s.events pg loom_replayCount_count loom_evtRaw_accReplay n
    let s := s.events pg loom_satCount_count loom_evtRaw_saturated r.sat
    s.passEnd d h l n lone

def execReplayPass (d h l : Nat) (s : State) : Host.Outcome State Fault Refusal :=
  match (s.loom d h l).issued.find? fun e => !e.overs.isEmpty with
  | some e => .next (if s.loomMayIssue d h l (s.loom d h l) e.run then s.replay d h l e else s)
  | none => .next s

/-! ### Retirement (R76, R109) -/

/-- An instruction retires: it is counted, it signals, and the drain of a TUNED one starts. -/
def State.retire (s : State) (d h l : Nat) (e : Issued) : State :=
  let i := loomInstr e.word
  let x := s.loom d h l
  let x := { x with issued := x.issued.erase e }
  let x := if !i.pair && i.drainTarget ≠ 0 && e.tuned then { x with drains := x.drains ++ [e.drain x.k] }
    else if i.pair && e.last then { x.handHalf l e.run with k := { (x.handHalf l e.run).k with halfRows := 0 } }
    else x
  let s := (s.setLoom d h l x).bump64 (loomPage d h l) passCountLo_count passCountHi_count
  if i.sigEn then s.unitSignal d i.sigBell i.sigOp (BitVec.ofNat 32 i.sigValue) else s

def execInstructionRetire (d h l : Nat) (s : State) : Host.Outcome State Fault Refusal :=
  match (s.loom d h l).issued.find? fun e => e.overs.isEmpty with
  | some e => .next (if s.served (loomPage d h l) then s.retire d h l e else s)
  | none => .next s

/-! ### A residue mismatch (R69) -/

/-- An accumulator element gets back what it held. -/
def LoomCtx.putBack (k : LoomCtx) (b : Nat × Option Word) : LoomCtx :=
  match b.2 with
  | some w => { k with acc := SMap.set 0 b.1 w k.acc, written := SMap.set false b.1 true k.written }
  | none => { k with acc := SMap.set 0 b.1 0 k.acc, written := SMap.set false b.1 false k.written }

/-- An issued instruction writes nothing for an accumulator row; rows are numbered over all slots, or halves. -/
def Issued.undoRow (row : Nat) (k : LoomCtx) (e : Issued) : LoomCtx :=
  let cols := if (loomInstr e.word).pair then 128 else k.setup.slotCols
  (e.before.filter fun b => b.1 / cols == row).foldl LoomCtx.putBack k

/-- The Loom writes nothing for the row and issues nothing further for the job. DESIGN CHOICE (log 15): the row is that of
every instruction that has not retired. -/
def Loom.withhold (x : Loom) (row : Nat) (job : Option Nat) : Loom :=
  { x with k := x.issued.reverse.foldl (Issued.undoRow row) x.k, blocked := job }

/-! ### FENCE (R482) -/

/-- What the loader placed for a run's part on a Loom. -/
def State.setupOf (s : State) (run h l : Nat) : LoomSetup :=
  match s.loomProg run h l with
  | some p => ⟨run, s.runJob run, p.pair, p.slotRows, p.slotCols, p.rowsPerReplay⟩
  | none => { run := run, job := s.runJob run }

/-- The kernel that the Loom leaves is kept, in case it goes on later (R347). -/
def State.keepKernel (s : State) (x : Loom) : List ((Nat × Nat × Nat × Nat) × LoomCtx) :=
  match s.kernelOf x.k.setup.run with
  | some k => (k, x.k) :: x.saved.filter fun p => p.1 != k
  | none => x.saved

/-- A FENCE has issued: the Loom takes up the kernel of the first FENCE of a run; a later one of the same run only orders
(DEDUCED, log 15). Marks, kernel_auto and accumulator elements start anew (R482). -/
def State.takeFence (s : State) (h l run : Nat) (i : LoomInstr) (x : Loom) : Loom :=
  if x.k.setup.run = run then { x with queue := x.queue.tail, headAt := s.now, hearthLevel := i.hearthLevel }
  else
    let k : LoomCtx :=
      { setup := s.setupOf run h l, active := x.k.active, shadow := x.k.shadow, current := x.k.current,
        currentAt := x.k.currentAt, half := x.k.half }
    { { x with countRun := 0 }.forRun run with
      queue := x.queue.tail, headAt := s.now, k := k, saved := s.keepKernel x, hearthLevel := i.hearthLevel }

/-- R482. DESIGN CHOICE (log 15): a FENCE issues also on a Loom that is cold or ramping, since Table LOOM-6 has it issue once
the queue and the drains are done and it streams no row. -/
def execFenceIssue (d h l : Nat) (s : State) : Host.Outcome State Fault Refusal :=
  let x := s.loom d h l
  match x.queue with
  | [] => .next s
  | e :: _ =>
    let i := loomInstr e.word
    if !s.loomMayIssue d h l x e.run then .next s
    else match loomInstrFault e.word x.k.setup.slotRows with
      | some r => .next (s.loomReject d h l e r)
      | none =>
        if i.opcode = 2 && x.issued.isEmpty && x.drains.isEmpty && s.loomWaitOk d i then
          let s := s.setLoom d h l (s.takeFence h l e.run i x)
          .next (if i.sigEn then s.unitSignal d i.sigBell i.sigOp (BitVec.ofNat 32 i.sigValue) else s)
        else .next s

/-! ### Power ramps (R82 to R84) -/

/-- The head instruction is issuable but for the power condition. -/
def State.loomIssuable (s : State) (d h l : Nat) (x : Loom) : Bool :=
  match x.queue with
  | e :: _ =>
    match s.passReady d h l x e with
    | .go _ => true
    | _ => false
  | [] => false

/-- Ramps act on a Loom that is in service and has Hearth fill enabled (R91). -/
def State.rampsAct (s : State) (d h l : Nat) : Bool :=
  s.served (loomPage d h l) && s.fld (loomPage d h l) loomCtrl_hearthEn == 1

/-- The gap reaches the window: its fill is counted and the Loom waits for a grant to ramp down. -/
def execRampDown (d h l : Nat) (s : State) : Host.Outcome State Fault Refusal :=
  let x := s.loom d h l
  if s.rampsAct d h l && x.activity = 16 && x.ramp.isNone && x.rampWait.isNone && !s.loomIssuable d h l x then
    .next ((s.setLoom d h l { x with rampWait := some false, slots := none }).hearthFill d h l
      (s.fld (loomPage d h l) hearthCtrl_window))
  else .next s

/-- An instruction becomes issuable: a ramp down reverses, a cold Loom waits for a grant. -/
def execRampUp (d h l : Nat) (s : State) : Host.Outcome State Fault Refusal :=
  let x := s.loom d h l
  if s.rampsAct d h l && s.loomIssuable d h l x then
    .next (s.setLoom d h l
      (if x.rampWait = some false then { x with rampWait := none }
       else if x.ramp = some false then { x with ramp := if x.activity = 16 then none else some true }
       else if x.activity = 0 && x.ramp.isNone && x.rampWait.isNone then { x with rampWait := some true }
       else x))
  else .next s

/-- One of 16 steps; the Loom becomes cold or fully active at the last. -/
def execRampStep (d h l : Nat) (s : State) : Host.Outcome State Fault Refusal :=
  let x := s.loom d h l
  if s.rampsAct d h l then
    match x.ramp with
    | some true =>
      .next (s.setLoom d h l { x with activity := min 16 (x.activity + 1), ramp := if 15 ≤ x.activity then none else some true })
    | some false =>
      .next (s.setLoom d h l { x with activity := x.activity - 1, ramp := if x.activity ≤ 1 then none else some false })
    | none => .next s
  else .next s

/-- The grant of a ramp start: one Loom of the die at a time, at least 250 ns apart. grantAt holds the instant from
which the die's next grant may come. -/
def execRampGrant (d h l : Nat) (s : State) : Host.Outcome State Fault Refusal :=
  let x := s.loom d h l
  if s.rampsAct d h l && x.rampWait.isSome then
    let t := max s.now (SMap.get 0 s.power.grantAt d)
    let s := (s.passTo t).withPower { s.power with grantAt := SMap.set 0 d (t + 250) s.power.grantAt }
    .next (s.setLoom d h l { x with ramp := x.rampWait, rampWait := none })
  else .next s

end Sys2Proof.Machine
end

