-- ==== Sys2Proof/Machine/Conv.lean ====
section
/-! DEFINITION. What the Reeve and the line-buffer feeder do ahead of the Looms: the passes of padding and of masked keys that
are not issued, and the lines, columns and frames that a stripe fetches (07_convolution.md, R154, R155, R158, R159;
08_attention_and_kv.md, R178). -/

namespace Sys2Proof.Machine

/-! ### Passes of masked keys (R178) -/

/-- The keys of a gathered stationary tile: those of a score tile along its rows, those of a value tile along K. -/
def tileKeys (t : TensorDecl) (row col : Nat) : Nat × Nat :=
  match t.shape with
  | .headMap kappa _ => (row, kappa)
  | _ => (col * tileW t.fmt, tileW t.fmt)

/-- The walks of a queue name a page of the tile of a tensor, row and column block: by a GATHER into the tensor, for values of
the head whose rows these are. `dim` gives the head dimension of a cache tensor. -/
def namesTile (dim : Nat → Nat) (t : TensorDecl) (row col : Nat) (slots : List (Nat × Nat)) : Nat → Bool → Nat → List (BitVec 128) → Bool
  | _, _, _, [] => false
  | n + 1, into, hd, w :: ws =>
    let d := pageDesc w
    let k := tileKeys t row col
    (into && decide (d.page * 64 < k.1 + k.2) && decide (k.1 < d.page * 64 + 64) && (!d.isValue || d.headSel * hd == row))
      || namesTile dim t row col slots n into hd ws
  | 0, _, _, w :: ws =>
    let c := granCmd w
    let at_ (slot : Nat) : Nat := ((slots.find? fun p => p.1 == slot).map (·.2)).getD 0xFFFF
    namesTile dim t row col slots (if c.opcode = 0x06 then c.nRows else 0) (at_ c.slotD == t.id) (dim (at_ c.slotA)) ws

/-- No walk of a piece names a page of a tile. -/
def tileGone (dim : Nat → Nat) (ts : List TensorDecl) (grans : List GranProg) (x : Nat × Nat × Nat) : Bool :=
  match findTensor ts x.1 with
  | some t => !grans.any fun g => namesTile dim t x.2.1 x.2.2 g.slots 0 false 0 g.entries
  | none => false

/-! ### Passes of padding (R154) -/

/-- Row r of a tap view reads padding at a tap. -/
def tapPads (g : Geom) (t u : TensorDecl) (tap r : Nat) : Bool :=
  let p := rowPos t.lines t.width r
  (g.inputRow u.frames u.lines u.width p.1 p.2.1 p.2.2 tap).isNone

/-- Every one of n rows from `row` of a tap view reads padding at every tap of its pass, under ZERO. -/
def padPass (ts : List TensorDecl) (geoms : List (List Byte)) (tensor row n : Nat) : Bool :=
  match findTensor ts tensor with
  | some t =>
    match t.loc with
    | .tapView source geom tap =>
      match findTensor ts source with
      | some u =>
        let g := parseGeom (geoms.getD geom [])
        let taps := (numsFrom tap (if g.map = 1 then g.tapsM1 + 1 else 1)).filter fun k => decide (k < g.taps)
        g.padMode == 0 && (numsFrom row n).all fun r => decide (t.rows ≤ r) || taps.all fun k => tapPads g t u k r
      | none => false
    | _ => false
  | none => false

/-- A pass of a program as the Reeve looks at it: its place, its word, whether every row is padding, whether every key is
masked, the output tile it belongs to, and where its drain goes; `skip` once the Reeve has settled that it leaves the queue
unissued. -/
structure PassItem where
  place : Nat
  word : BitVec 256
  pads : Bool
  gone : Bool
  tile : Nat
  drain : Option DrainDecl
  skip : Bool := false
  /-- A FENCE stands in the place of the pass. -/
  fence : Bool := false
  deriving DecidableEq, Repr

/-- The passes of a program. An output tile begins where acc_init is not 0; `tiles` holds the tile that each slot and first row
belongs to, `n` the place of the word, and `ds` the FLOW drains to the Sieve still to come. -/
def passItems (pads gone : Nat → Bool) : SMap Nat → Nat → List DrainDecl → List (BitVec 256) → List PassItem
  | _, _, _, [] => []
  | tiles, n, ds, w :: ws =>
    let i := loomInstr w
    if i.opcode = 1 then
      let key := if i.pair then 0 else i.accSlot * 256 + i.accRow0
      let tiles := if i.accInit = 0 then tiles else SMap.set 0 key (n + 1) tiles
      let toSieve := !i.pair && i.drainTarget == 1
      ⟨n, w, pads n, gone n, 2 ^ 20 * (key + 1) + SMap.get 0 tiles key, if toSieve then ds.head? else none, false, false⟩
        :: passItems pads gone tiles (n + 1) (if toSieve then ds.tail else ds) ws
    else ⟨n, w, false, false, 0, none, false, false⟩ :: passItems pads gone tiles (n + 1) ds ws

/-- A Loom word with bits [lo + len − 1 : lo] set. Its check stays right, or stays wrong. -/
def setLoomBits (w : BitVec 256) (lo len v : Nat) : BitVec 256 :=
  let n := w.toNat
  let m := n / 2 ^ (lo + len) * 2 ^ (lo + len) + v % 2 ^ len * 2 ^ lo + n % 2 ^ lo
  if m = n then w else loomWord (m / 2 ^ 16) ^^^ (loomWord (n / 2 ^ 16) ^^^ w)

/-- A FENCE with the wait and the signal of a pass that is not issued; none where it has neither. DEDUCED (log 40): the other
units count on them. -/
def asFence (w : BitVec 256) : Option (BitVec 256) :=
  let i := loomInstr w
  if i.waitEn || i.sigEn then
    some (loomWord (2 * 2 ^ 236 + fieldOf w 178 81 * 2 ^ 65))
  else none

/-- The items of the passes that the Reeve issues for a tile: those with a row that is no padding and a key that is not
masked; of passes of padding alone the first (R154), of passes of masked keys none, and the last one stands for their drain
(R178). -/
def issuedOf (xs : List PassItem) : List PassItem :=
  let named := xs.filter fun x => !x.gone
  let live := named.filter fun x => !x.pads
  if !live.isEmpty then live
  else if !named.isEmpty then named.take 1
  else (xs.getLast?.map fun x => { x with skip := true }).toList

/-- The word that the Reeve issues for a pass among those of its tile: the first one takes acc_init of the tile's first, the
last one the drain of the tile's last; none for a pass that is not issued (R154). DEDUCED (log 40): in a CHAIN the first
pass of a position starts from its chain input all the same. -/
def issueWord (all : List PassItem) (x : PassItem) : Option PassItem :=
  if x.tile = 0 then some x
  else
    let mine := all.filter fun y => y.tile == x.tile
    let live := issuedOf mine
    if live.contains { x with skip := true } then some { x with skip := true }
    else if !live.contains x then none
    else
      let f := loomInstr (mine.headD x).word
      let z := mine.getLastD x
      let l := loomInstr z.word
      let w := if live.head? = some x then setLoomBits x.word 242 2 f.accInit else x.word
      let last := live.getLast? == some x
      let w := if last then setLoomBits (setLoomBits w 79 2 l.drainTarget) 76 3 l.chainNext else w
      some { x with word := w, drain := if last then z.drain else x.drain }

/-- The program's words without passes of padding; `lost` says that the pass that would have brought the stationary tile in
is not issued, so the next one against it does. -/
def issueWords (all : List PassItem) : Bool → List PassItem → List PassItem
  | _, [] => []
  | lost, x :: xs =>
    let i := loomInstr x.word
    match issueWord all x with
    | some y =>
      let w := if lost && i.opcode = 1 && i.statReuse then setLoomBits y.word 179 1 0 else y.word
      { y with word := w } :: issueWords all (lost && i.opcode != 1) xs
    | none =>
      ((asFence x.word).map fun w => { x with word := w, drain := none, fence := true }).toList
        ++ issueWords all (lost || !i.statReuse) xs

/-- The programs of one Loom in two pieces of a kernel as one. -/
def LoomProg.join (x y : LoomProg) : LoomProg :=
  { x with words := x.words ++ y.words, drains := x.drains ++ y.drains, liveTiles := max x.liveTiles y.liveTiles,
           liveBy := x.liveBy ++ y.liveBy,
           streams := x.streams ++ y.streams.map (fun z => (z.1 + x.words.length, z.2)),
           stats := x.stats ++ y.stats.map (fun z => (z.1 + x.words.length, z.2)) }
def sameLoom (x y : LoomProg) : Bool := x.die == y.die && x.hamlet == y.hamlet && x.loom == y.loom

/-- What the Reeve issues of a Loom program (R154, R178). The passes of a tile are judged over the kernel, whose earlier and later
pieces stand beside the program, so that the passes issued depend on geometry and rows alone and not on where the loader cut (R155). -/
def issueLoom (gone : Nat × Nat × Nat → Bool) (ts : List TensorDecl) (geoms : List (List Byte)) (before after : List LoomProg)
    (p : LoomProg) : LoomProg :=
  let from_ := natSum (before.map (·.words.length))
  let k := match before with
    | [] => after.foldl LoomProg.join p
    | b :: bs => (bs ++ p :: after).foldl LoomProg.join b
  let pads (n : Nat) : Bool := match k.streams.find? fun x => x.1 == n, k.words[n]? with
    | some x, some w => padPass ts geoms x.2.1 x.2.2 (loomInstr w).rows
    | _, _ => false
  let lost (n : Nat) : Bool := k.stats.any fun x => x.1 == n && gone x.2
  if (k.streams.any fun x => pads x.1) || k.stats.any fun x => lost x.1 then
    let items := passItems pads lost [] 0 k.drains k.words
    let mine := (issueWords items false items).filter fun y => decide (from_ ≤ y.place) && decide (y.place < from_ + p.words.length)
    let at_ := mine.zipIdx
    { p with words := mine.map (·.word), drains := if p.pair then p.drains else mine.filterMap (·.drain),
             stats := (at_.map fun y => (k.stats.filter fun x => !y.1.fence && x.1 == y.1.place).map fun x => (y.2, x.2)).flatten,
             skips := (at_.filter fun y => y.1.skip).map (·.2) }
  else p

/-- What the Reeves issue of a piece that stands between others of its kernel. -/
def issuePiece (dim : Nat → Nat) (ts : List TensorDecl) (geoms : List (List Byte)) (before after : List Piece) (p : Piece) : Piece :=
  let gone := tileGone dim ts ((before ++ p :: after).map (·.grans)).flatten
  let of (ps : List Piece) (x : LoomProg) : List LoomProg := (ps.map fun q => q.looms.filter (sameLoom x)).flatten
  { p with looms := p.looms.map fun x => issueLoom gone ts geoms (of before x) (of after x) x }

/-! ### Stripes (R158, R159) -/

/-- The read set of an axis: the resolved coordinates of every output of a run and every tap. -/
def readSet (padMode n : Nat) (a : Axis) (outs : Nat × Nat) : List Nat :=
  (((numsFrom outs.1 outs.2).map fun o => (numsFrom 0 a.ksize).filterMap fun k => resolveAxis padMode n (a.coord o k)).flatten).eraseDups

/-- A run of outputs holds a coordinate. -/
def runHolds (r : Nat × Nat) (o : Nat) : Bool := decide (r.1 ≤ o) && decide (o < r.1 + r.2)

/-- A stripe holds the output position of row r of a view. -/
def stripeHolds (d : StripeDecl) (t : TensorDecl) (r : Nat) : Bool :=
  let p := rowPos t.lines t.width r
  runHolds d.frames p.1 && runHolds d.lines p.2.1 && runHolds d.columns p.2.2

/-- The rows from `lo` to `hi` of a view as a stripe of their own: whole lines, or whole frames, where they cross one. -/
def rowStripe (t : TensorDecl) (die hamlet source geom lo hi : Nat) : StripeDecl :=
  let a := rowPos t.lines t.width lo
  let b := rowPos t.lines t.width hi
  let one := a.1 == b.1
  let line := one && a.2.1 == b.2.1
  ⟨die, hamlet, source, geom, (a.1, b.1 + 1 - a.1), if one then (a.2.1, b.2.1 + 1 - a.2.1) else (0, t.lines),
    if line then (a.2.2, b.2.2 + 1 - a.2.2) else (0, t.width)⟩

/-- The feeder takes up a stripe: consecutive stripes of a kernel over the same columns share the lines that it holds, and it
fetches the others (R159). `same` says that the run is a piece of the kernel that it works for. -/
def Feeder.take (x : Feeder) (same : Bool) (run : Nat) (d : StripeDecl) (g : Geom) (u : TensorDecl) : Feeder :=
  if x.run = run && x.stripe = some d then x
  else
    let lines := readSet g.padMode u.lines g.y d.lines
    let columns := readSet g.padMode u.width g.x d.columns
    let frames := readSet g.padMode u.frames g.t d.frames
    let shared := same && x.columns == columns && (x.stripe.map (·.source)) == some d.source
    let all := (frames.map fun t => lines.map fun l => (t, l)).flatten
    { run := run, stripe := some d, lines := lines, columns := columns, frames := frames,
      fetched := if shared then all.filter fun p => !(x.frames.contains p.1 && x.lines.contains p.2) else all }

/-- The stripe that a tile of a view belongs to: one that the piece declares, else its own rows (DESIGN CHOICE, log 40). -/
def State.stripeOf (s : State) (d h run : Nat) (t : TensorDecl) (source geom : Nat) (f : TagF) : StripeDecl :=
  let hi := min (f.row + f.vrows) (t.rows - 1)
  let declared := match s.run? run with
    | some r => r.piece.stripes.find? fun (x : StripeDecl) => x.die == r.logical && x.hamlet == h && x.source == source && x.geom == geom
        && stripeHolds x t f.row && stripeHolds x t hi
    | none => none
  declared.getD (rowStripe t d h source geom f.row hi)

/-- The feeder of a Hamlet works on the stripe of a tile of a tap view. -/
def State.feed (s : State) (d h run : Nat) (tag : BitVec 128) : State :=
  let f := tagFields tag
  match findTensor (s.tensors run) f.tensor with
  | some t =>
    match t.loc with
    | .tapView source geom _ =>
      match findTensor (s.tensors run) source with
      | some u =>
        let x := s.reeve d h
        s.setReeve d h { x with feeder := x.feeder.take (s.kernelOf x.feeder.run == s.kernelOf run) run (s.stripeOf d h run t source geom f) (s.geomOf run geom) u }
      | none => s
    | _ => s
  | none => s

end Sys2Proof.Machine
end

