-- ==== Sys2Proof/Machine/Tiles.lean ====
section
/-! DEFINITION. Tiles that arrive at a unit, and multicasts from the Commons (R55, R63, R308, R309, R319, R483, R484). -/

namespace Sys2Proof.Machine

/-- The run whose tables a unit of Hamlet h of die d checks a tile against: its Reeve's, else one of the die. -/
def State.unitRun (s : State) (d h : Nat) : Option Nat :=
  match (s.reeve d h).run with
  | some r => some r
  | none => (s.loader.runs.find? fun r => r.die == d && !r.done).map (·.id)

/-- The run that a tile belongs to: the one that sent it, else the unit's. -/
def State.tileRun (s : State) (d h : Nat) (tile : Tile) : Option Nat :=
  match s.flight.find? fun p => p.2 == tile with
  | some p => some p.1
  | none => s.unitRun d h

/-- The pair whose command sent a tile in flight. -/
def State.tileFrom (s : State) (run : Nat) (tile : Tile) : Option Nat :=
  (numsFrom 0 8).find? fun p => (s.pair p).running.any fun e => e.run == run && e.sent.contains tile

/-- A tile in flight reaches die d over the bridges (R13, R14, R209). -/
def State.bridged (s : State) (tile : Tile) (d : Nat) : Bool :=
  match s.flight.find? fun p => p.2 == tile with
  | some p => (s.tileFrom p.1 tile).all fun k => s.wayOpen (s.pairWay k d)
  | none => true

/-- A tile in flight has arrived. -/
def State.landed (s : State) (tile : Tile) : State :=
  match s.flight.find? fun p => p.2 == tile with
  | some p => s.withFlight (s.flight.erase p)
  | none => s

/-- The tables and step of an optional run. -/
def State.tensorsFor (s : State) : Option Nat → List TensorDecl
  | some r => s.tensors r
  | none => []
def State.stepFor (s : State) : Option Nat → Nat
  | some r => s.runStep r
  | none => 0
def State.jobFor (s : State) : Option Nat → Option Nat
  | some r => s.runJob r
  | none => none

/-- A scale block belongs to a data tile: the same tensor, position and rows (Table TAG-2). -/
def scaleFits (scale : Option (Nat × Tile)) (tag : BitVec 128) : Bool :=
  match scale with
  | some (_, t) =>
    let a := tagFields t.tag
    let b := tagFields tag
    a.fmt == b.fmt && a.tensor == b.tensor && a.row == b.row && a.col == b.col && a.vrows == b.vrows
  | none => false

/-! ### The Loom buffer (R76) -/

/-- Addresses of the streaming tiles of m rows that are resident. -/
def streamAddrs (x : Loom) (units : Nat) : Nat → Nat → Nat → List Nat
  | 0, _, _ => []
  | n + 1, addr, m =>
    match x.tileOf addr with
    | some b =>
      let rows := (tagFields b.tile.tag).vrows + 1
      if m = 0 then [] else addr % 2048 :: streamAddrs x units n (addr + units) (m - rows)
    | none => []

/-- The addresses of the resident tiles that an instruction names. -/
def namedAddrs (x : Loom) (i : LoomInstr) : List Nat :=
  if i.opcode = 1 then (if (x.tileOf i.statAddr).isSome then [i.statAddr] else []) ++ streamAddrs x (tileUnits ((Fmt.ofCode i.streamFmt).getD .fp32)) 32 i.streamAddr i.rows
  else []

/-- Addresses of tiles that an instruction that has not retired names: the buffer keeps them. The queue has 16 entries; the
Reeve still holds what stands behind them. DESIGN CHOICE (log 15): an instruction names the tile of its kernel that lies at
the address now, so a newer tile for the address waits until the instruction has retired. -/
def State.keptAddrs (s : State) (x : Loom) : List Nat :=
  ((x.queue.take 16).map fun e => namedAddrs (s.ownTiles x e.run) (loomInstr e.word)).flatten
    ++ (x.issued.map fun e => namedAddrs (s.ownTiles x e.run) (loomInstr e.word)).flatten

/-- Units of the tile at an address. -/
def bufUnits (b : Option BufTile) : Nat :=
  match b with
  | some b => tileUnits ((Fmt.ofCode (tagFields b.tile.tag).fmt).getD .fp32)
  | none => 0

/-- A tile of n units at address a overlaps the resident tile at k, modulo 512 KiB. -/
def bufOverlaps (a n k nk : Nat) : Bool := decide ((k + 2048 - a) % 2048 < n) || decide ((a + 2048 - k) % 2048 < nk)

/-- Keys of the resident tiles that a tile of n units at address a would overwrite. -/
def Loom.overlapped (x : Loom) (a n : Nat) : List Nat :=
  (x.buf.filter fun e => bufOverlaps a n e.1 (bufUnits e.2)).map (·.1)

/-- A checked tile comes into the Loom buffer; it waits while it would overwrite a tile that is still named. -/
def State.loomAccept (s : State) (x : Loom) (addr : Nat) (b : BufTile) : Option Loom :=
  let f := tagFields b.tile.tag
  let fm := (Fmt.ofCode f.fmt).getD .fp32
  let a := addr % 2048
  if f.kind = 2 then some { x with scaleIn := some (b.run, b.tile) }
  else if f.kind = 1 then some { x with scaleIn := none, marker := b.tile.tag }
  else
    let hit := x.overlapped a (tileUnits fm)
    if hit.any (s.keptAddrs x).contains then none
    else
      let buf := SMap.keep (fun k => !hit.contains k) x.buf
      some { x with scaleIn := none, buf := SMap.set none a (some b) buf }

/-! ### The line-buffer feeder (R151 to R156, R162) -/

/-- The tap and the channel of column c of a tap view; none for an empty slot of the diagonal map. -/
def Geom.tapChannel (g : Geom) (W cin tap c : Nat) : Option (Nat × Nat) :=
  if g.map = 1 then
    let P := g.tapsM1 + 1
    let G := min 128 (W / P)
    let kk := c % W
    let ch := c / W * G + kk % G
    if G = 0 || P ≤ kk / G || g.taps ≤ tap + kk / G || cin ≤ ch then none else some (tap + kk / G, ch)
  else some (tap, c)

/-- pad_value in the streaming format, as (scale, code) (R156). -/
def padCode (fm : Fmt) (v : Word) : Nat × Nat :=
  if fm.isMx then
    let b := mxBlock fm (List.replicate 32 (f32Val v))
    (b.1, (b.2.head?.map (·.code)).getD 0)
  else (0, (convertElem fm .sat .rne (f32Val v)).code)

/-- An element that the feeder reads for a Loom: none while the input is not there, some none where it is masked, else
its scale and code. -/
def State.feedElem (s : State) (d h job : Nat) (t u : TensorDecl) (g : Geom) (tap r c : Nat) : Option (Option (Nat × Nat)) :=
  match g.tapChannel (tileW t.fmt) u.cols tap c with
  | none => some none
  | some (tp, ch) =>
    let p := rowPos t.lines t.width r
    match g.inputRow u.frames u.lines u.width p.1 p.2.1 p.2.2 tp with
    | some i =>
      let x := s.tdata (placeOf u d h) job u.id
      (x.cell u i ch).map fun v => v.map fun n => (x.scale u i (ch / 32), n)
    | none => some (if g.padMode = 1 then some (padCode t.fmt g.padValue) else none)

/-- The tile that the feeder streams under a tag, with its scale block and its masked places; none while the input is not
there. -/
def State.feedTile (s : State) (d h job run : Nat) (t u : TensorDecl) (geom tap : Nat) (tag : BitVec 128) : Option BufTile :=
  let f := tagFields tag
  let W := tileW t.fmt
  let g := s.geomOf run geom
  let els := ((numsFrom 0 128).map fun i => (numsFrom 0 W).map fun j =>
    if f.elemValid t.fmt t.rows t.cols i j then s.feedElem d h job t u g tap (f.row + i) (f.col * W + j) else some none).flatten
  if els.all Option.isSome then
    let es := els.map fun e => e.getD none
    let n := tileScales t.fmt
    let scales := ((numsFrom 0 128).map fun i => (numsFrom 0 n).map fun j =>
      (((es.drop (i * W + 32 * j)).take 32).findSome? fun e => e.map (·.1)).getD 0).flatten
    some { run := run, tile := ⟨tag, es.map fun e => (e.map (·.2)).getD 0, []⟩,
           scale := if t.fmt.isMx then some ⟨(scaleTag t f.row f.col (f.vrows + 1) (f.validCols t.fmt) f.step).encode, scales, []⟩ else none,
           pad := (es.zipIdx.filter fun e => e.1.isNone).map (·.2) }
  else none

/-- What goes into the Loom buffer for a data tile: the feeder supplies the rows of a tap view. -/
def State.loomTile (s : State) (d h run : Nat) (x : Loom) (tile : Tile) : Option BufTile :=
  let f := tagFields tile.tag
  match findTensor (s.tensors run) f.tensor, s.runJob run with
  | some t, some job =>
    match t.loc with
    | .tapView source geom tap =>
      match findTensor (s.tensors run) source with
      | some u => if f.kind = 0 then s.feedTile d h job run t u geom tap tile.tag else some { run := run, tile := tile }
      | none => none
    | _ => some { run := run, tile := tile, scale := if t.fmt.isMx then x.scaleIn.map (·.2) else none, pad := tile.holes }
  | _, _ => none

/-- The address of a data tile in a Loom buffer: that of its entry, which ROW and COL select (R63). DESIGN CHOICE (log 12): the
command's operand gives it for a tensor whose entry names no Loom buffer, such as a tap view. -/
def loomAddr (t : TensorDecl) (tag : BitVec 128) (addr : Nat) : Nat :=
  match t.loc with
  | .loomBuf base rowBase colBase rowTiles =>
    base + (((tagFields tag).col - colBase) * rowTiles + ((tagFields tag).row - rowBase) / 128) * tileUnits t.fmt
  | _ => addr
def State.loomAddr (s : State) (run : Nat) (tag : BitVec 128) (addr : Nat) : Nat :=
  match findTensor (s.tensors run) (tagFields tag).tensor with
  | some t => Sys2Proof.Machine.loomAddr t tag addr
  | none => addr

/-- A tile reaches a Loom (R55). -/
def State.loomArrive (s : State) (d h l addr : Nat) (run : Option Nat) (tile : Tile) : State :=
  let x := s.loom d h l
  match tagFault .loom (s.tensorsFor run) (s.stepFor run) (scaleFits x.scaleIn tile.tag) tile.tag with
  | some r => (s.setLoom d h l { x with scaleIn := none }).checkFault (loomPage d h l) (infoOf [(r, 0)]) (s.jobFor run)
  | none =>
    match run with
    | some r => match (s.loomTile d h r x tile).bind (s.loomAccept x (s.loomAddr r tile.tag addr)) with
      | some y => (s.setLoom d h l y).feed d h r tile.tag
      | none => s
    | none => s

/-! ### Hamlet buffers and the Commons -/

/-- The plain payload of a Winnow-flagged tile (R227, R229): each row is its blocks, each an exponent byte and the block
payload. -/
def unwinnow (t : TensorDecl) (v : Winnow) (tile : Tile) : Tile :=
  let W := tileW t.fmt
  let n := Winnow.width v
  let size := 1 + winnowPayload v
  { tile with elems := ((numsFrom 0 ((tagFields tile.tag).vrows + 1)).map fun i => ((numsFrom 0 (W / 64)).map fun b =>
      let bs := (tile.elems.drop ((i * (W / 64) + b) * size)).take size
      let pay := leNat (bs.tail.map (BitVec.ofNat 8))
      (numsFrom 0 64).map fun k => winnowCode v t.fmt (bs.headD 0) (pay / 2 ^ (n * k) % 2 ^ n)).flatten).flatten }

/-- The scale blocks held for a data tile; the buffer that holds one more, in the place of an older one for the same tile; and
the buffer that holds none for the tile (R55). -/
def TData.heldFor (x : TData) (tile : Tile) : List Tile := x.held.filter fun b => scaleFits (some (0, b)) tile.tag
def TData.release (x : TData) (tile : Tile) : TData := { x with held := x.held.filter fun b => !scaleFits (some (0, b)) tile.tag }
def TData.hold (x : TData) (block : Tile) : TData := let y := x.release block; { y with held := y.held ++ [block] }

/-- A checked tile is placed in a buffer; a scale block with its data tile, which comes next (R55, R218). Checksum tiles pass through the Commons; a Winnow-flagged tile is decoded before
it is stored (R229). -/
def State.placeIn (s : State) (place job : Nat) (t : TensorDecl) (tile : Tile) : State :=
  let f := tagFields tile.tag
  let x := s.tdata place job t.id
  if f.kind = 2 then s.setTdata place job t.id (x.hold tile)
  else if f.kind = 0 then
    let plain := match f.flag flWinnow, t.winnow with
      | true, some v => unwinnow t v tile
      | _, _ => tile
    s.setTdata place job t.id ((placeTile t plain ((x.heldFor tile).foldl (fun x b => placeScales t b x) x)).release tile)
  else s

/-- A data tile that fails its checks is discarded with the scale block that came for it (R55). -/
def State.dropHeld (s : State) (place : TensorDecl → Nat) (run : Option Nat) (tile : Tile) : State :=
  match findTensor (s.tensorsFor run) (tagFields tile.tag).tensor, s.jobFor run with
  | some t, some job => s.setTdata (place t) job t.id ((s.tdata (place t) job t.id).release tile)
  | _, _ => s

/-- Place a tile under a run's tables. -/
def State.placeTileAt (s : State) (place : TensorDecl → Nat) (run : Option Nat) (tile : Tile) : State :=
  match findTensor (s.tensorsFor run) (tagFields tile.tag).tensor, s.jobFor run with
  | some t, some job => s.placeIn (place t) job t tile
  | _, _ => s

/-- A tile reaches a Sieve, a Gate engine, the Commons or a Reeve (R55). -/
def State.unitArrive (s : State) (u : TileUnit) (page : Page) (place : TensorDecl → Nat) (scaled : Bool) (run : Option Nat)
    (tile : Tile) : State :=
  match tagFault u (s.tensorsFor run) (s.stepFor run) scaled tile.tag with
  | some r => (s.dropHeld place run tile).checkFault page (infoOf [(r, 0)]) (s.jobFor run)
  | none => s.placeTileAt place run tile

/-- The engine's memory of a scale block that comes directly before its data tile, once it has passed its checks. -/
def State.nextScale (s : State) (scaled : Bool) (run : Option Nat) (tile : Tile) : Option (Nat × Tile) :=
  if (tagFields tile.tag).kind = 2 && (tagFault .sieve (s.tensorsFor run) (s.stepFor run) scaled tile.tag).isNone then
    run.map fun r => (r, tile)
  else none

/-! ### Bell signals as tags (Table TAG-2) -/

/-- A signal arrives at the Bells of die d. Its STEP is checked against the step of the Bell's job (check 8). DESIGN CHOICE
(log 39): where the Bell has no job or its job no step in flight, nothing says which step to compare with, and the check
passes. A failure is captured on the page of the unit that checks. -/
def State.bellArrive (s : State) (d : Nat) (tile : Tile) (page : Page := diePage .bells d) : State :=
  let f := tagFields tile.tag
  let b := f.tensor % 4096
  let job := (s.bell d b).owner.map (·.2)
  let step := match job.bind s.stepOf? with
    | some t => t.number % 256
    | none => f.step
  match tagFault .bells [] step false tile.tag with
  | some r => s.checkFault page (infoOf [(r, 0)]) job
  | none =>
    if f.col % 16 > 3 then s.checkFault page (infoOf [(0x0B, 0)]) job
    else s.unitSignal d b (f.col % 16) (BitVec.ofNat 32 f.row)

/-! ### TILE_ARRIVAL -/

/-- The page of a destination. -/
def destPage : TileDest → Page
  | .loom d h l _ => loomPage d h l
  | .sieve d h => sievePage d h
  | .gate d => diePage .gate d
  | .commons d => diePage .commons d
  | .bells d => diePage .bells d
  | .reeve d h => hamletPage d h

/-- The die and Hamlet of a destination. -/
def destAt : TileDest → Nat × Nat
  | .loom d h _ _ => (d, h)
  | .sieve d h => (d, h)
  | .gate d => (d, 0)
  | .commons d => (d, 0)
  | .bells d => (d, 0)
  | .reeve d h => (d, h)

/-- A tile of a run reaches its destination. -/
def State.arrive (s : State) (dest : TileDest) (run : Option Nat) (tile : Tile) : State :=
  match dest with
  | .loom d h l addr => s.loomArrive d h l addr run tile
  | .sieve d h =>
    let x := s.sieve d h
    (s.setSieve d h { x with scaleIn := s.nextScale (scaleFits x.scaleIn tile.tag) run tile }).unitArrive .sieve (sievePage d h) (fun t => placeOf t d h)
      (scaleFits x.scaleIn tile.tag) run tile
  | .gate d => s.unitArrive .gate (diePage .gate d) (fun _ => commonsPlace d) false run tile
  | .commons d => s.unitArrive .commons (diePage .commons d) (fun _ => commonsPlace d) false run tile
  | .bells d => s.bellArrive d tile
  | .reeve d h => s.unitArrive .reeve (hamletPage d h) (fun _ => commonsPlace d) false run tile

/-- A tile that passes its checks waits on its path while the Loom buffer cannot take it, or its input is not there. -/
def State.tileWaits (s : State) (dest : TileDest) (run : Option Nat) (tile : Tile) : Bool :=
  match dest, run with
  | .loom d h l addr, some r =>
    let x := s.loom d h l
    (tagFault .loom (s.tensors r) (s.runStep r) (scaleFits x.scaleIn tile.tag) tile.tag).isNone
      && ((s.loomTile d h r x tile).bind (s.loomAccept x (s.loomAddr r tile.tag addr))).isNone
  | _, _ => false

def execTileArrival (dest : TileDest) (tile : Tile) (s : State) : Host.Outcome State Fault Refusal :=
  if s.served (destPage dest) && s.bridged tile (destAt dest).1 && !s.tileWaits dest (s.tileRun (destAt dest).1 (destAt dest).2 tile) tile then
    .next ((s.landed tile).arrive dest (s.tileRun (destAt dest).1 (destAt dest).2 tile) tile)
  else .next s

/-! ### MULTICAST (R308, R309) -/

/-- The Looms of a mask. -/
def maskLooms (mask : Word) : List Nat := (numsFrom 0 32).filter (bitOf mask.toNat)

/-- What the Commons holds under a data or scale tag; none while it does not hold all of it. -/
def TData.cut (x : TData) (t : TensorDecl) (tag : BitVec 128) : Option Tile :=
  let f := tagFields tag
  let W := if f.kind = 2 then tileScales t.fmt else tileW t.fmt
  let held := (numsFrom 0 (f.vrows + 1)).all fun i => (numsFrom 0 (if f.kind = 2 then 0 else f.validCols t.fmt)).all fun j =>
    !f.elemValid t.fmt t.rows t.cols i j || (x.cell t (f.row + i) (f.col * W + j)).isSome
  if held then
    some ⟨tag, ((numsFrom 0 (f.vrows + 1)).map fun i => (numsFrom 0 W).map fun j =>
      if f.kind = 2 then x.scale t (f.row + i) (f.col * W + j)
      else ((x.cell t (f.row + i) (f.col * W + j)).getD none).getD 0 % 2 ^ 32).flatten, []⟩
  else none

/-- Deliver a tile to each Loom of a list. -/
def mcastTo (d addr : Nat) (run : Option Nat) (tile : Tile) : List Nat → State → State
  | [], s => s
  | n :: ns, s => mcastTo d addr run tile ns (s.loomArrive d (n / 8) (n % 8) addr run tile)

/-- Every Loom of the list can take the tile now. -/
def State.mcastReady (s : State) (d addr : Nat) (ns : List Nat) (tile : Tile) : Bool :=
  ns.all fun n => (s.loomAccept (s.loom d (n / 8) (n % 8)) addr { run := 0, tile := tile }).isSome

/-- The Commons reads the tile of a tag once and delivers it to every Loom of the mask; the elements come from the
Commons. -/
def execMulticast (d : Nat) (mask : Word) (tile : Tile) (addr : Nat) (s : State) : Host.Outcome State Fault Refusal :=
  let pg := diePage .commons d
  let ns := maskLooms mask
  let run := s.tileRun d 0 tile
  if !s.served pg then .next s
  else if ns.any fun n => !s.loomOn d (n / 8) (n % 8) then .next (s.checkFault pg (infoOf [(0x0B, 0)]) (s.jobFor run))
  else
    match findTensor (s.tensorsFor run) (tagFields tile.tag).tensor, s.jobFor run with
    | some t, some job =>
      match (s.tdata (commonsPlace d) job t.id).cut t tile.tag with
      | some tl =>
        if s.mcastReady d (Sys2Proof.Machine.loomAddr t tile.tag addr) ns tl then .next ((mcastTo d addr run tl ns s).bump pg mcastCount_count) else .next s
      | none => .next s
    | _, _ => .next s

end Sys2Proof.Machine
end

