-- ==== Sys2Proof/Machine/Hbm.lean ====
section
/-! DEFINITION. Tensors in HBM (R483, R225): where an element lies, reading and writing it, the sector code (R245,
R257, R258), and the events of conversions by stack (R208). -/

namespace Sys2Proof.Machine

/-! ### Bit spans

A span lies in a function's virtual space, or, with `sp` none, at physical addresses. -/

structure BitSpan where
  sp : Option Nat
  bit : Nat
  width : Nat
  deriving DecidableEq, Repr

structure BitWrite where
  span : BitSpan
  val : Nat
  deriving DecidableEq, Repr

/-- The physical address of byte `a` of a space. -/
def State.phys (s : State) (sp : Option Nat) (a : Nat) : Option Nat :=
  match sp with
  | none => some a
  | some f => (s.mapping f a).map fun m => m.pa * pageBytes + a % pageBytes

def State.spByte (s : State) (sp : Option Nat) (a : Nat) : Byte :=
  match s.phys sp a with
  | some pa => s.byteAt pa
  | none => 0

/-- Addresses of a frame's payload and header (R185, R331). DESIGN CHOICE (log 17): the header arrays stand at the bottom
of the reserved region. -/
def framePayload (frame : Nat) : Nat := frame / 2 ^ 23 % 8 * 2 ^ 37 + frame % 2 ^ 23 * 16384
def frameHeader (frame : Nat) : Nat := frame / 2 ^ 23 % 8 * 2 ^ 37 + 0x17C0000000 + frame % 2 ^ 23 * 64

/-- The sector of a physical address, and its stack. -/
def sectorOf (pa : Nat) : Nat := pa / 32 * 32
def stackOfPa (pa : Nat) : Nat := stackOf (pa / 2 ^ 37) (pa % 2 ^ 37)

/-- A part of a step's mirror that holds a byte. -/
def Step.mirrorPart (t : Step) (pa : Nat) : Option (Nat × Nat × Nat) := t.mirror.find? fun p => decide (p.1 ≤ pa) && decide (pa < p.1 + p.2.1)

/-- Where commands read a byte of physical memory: in the mirror of a step that runs, while the byte's own die is out of service or
its sector was given up (R442, R443), else in its place. -/
def State.readFrom (s : State) (pa : Nat) : Nat :=
  match s.loader.steps.findSome? fun t => if t.started && (!s.dieLive (pa / 2 ^ 37) || t.gone.contains (sectorOf pa)) then t.mirrorPart pa else none with
  | some p => framePayload p.2.2 + (pa - p.1)
  | none => pa

/-- A byte of a space as commands read it. -/
def State.cmdByte (s : State) (sp : Option Nat) (a : Nat) : Byte :=
  match s.phys sp a with
  | some pa => s.byteAt (s.readFrom pa)
  | none => 0

/-- The bits of a span as commands read them. -/
def State.bitsIn (s : State) (x : BitSpan) : Nat :=
  let n := ceilDiv (x.bit % 8 + x.width) 8
  leNat ((numsFrom (x.bit / 8) n).map (s.cmdByte x.sp)) / 2 ^ (x.bit % 8) % 2 ^ x.width

/-- Store bytes of a space. -/
def storeSp : State → Option Nat → Nat → List Byte → State
  | s, _, _, [] => s
  | s, sp, a, b :: bs =>
    match s.phys sp a with
    | some pa => storeSp (s.setByte pa b) sp (a + 1) bs
    | none => storeSp s sp (a + 1) bs

/-- Store the bits of a span and leave the other bits of its bytes. -/
def State.storeBits (s : State) (w : BitWrite) : State :=
  let off := w.span.bit % 8
  let n := ceilDiv (off + w.span.width) 8
  let old := leNat ((numsFrom (w.span.bit / 8) n).map (s.spByte w.span.sp))
  let keep := old % 2 ^ off + old / 2 ^ (off + w.span.width) * 2 ^ (off + w.span.width)
  storeSp s w.span.sp (w.span.bit / 8) (leBytes n (keep + w.val % 2 ^ w.span.width * 2 ^ off))

/-! ### Sectors (R245, R257, R258) -/

/-- Die offset [36:5] of a sector. -/
def sectorNumber (pa : Nat) : Nat := pa % 2 ^ 37 / 32

/-- A span touches a sector. -/
def State.touches (s : State) (sec : Nat) (x : BitSpan) : Bool :=
  (numsFrom (x.bit / 8) (ceilDiv (x.bit % 8 + x.width) 8)).any fun a => (s.phys x.sp a).map sectorOf == some sec

/-- A read of a span touches a sector. -/
def State.readsSector (s : State) (sec : Nat) (x : BitSpan) : Bool :=
  (numsFrom (x.bit / 8) (ceilDiv (x.bit % 8 + x.width) 8)).any fun a => (s.phys x.sp a).map (fun pa => sectorOf (s.readFrom pa)) == some sec

/-- The bits of byte `pa` that a span takes, as a mask. -/
def State.maskOn (s : State) (pa : Nat) (x : BitSpan) : Nat :=
  (numsFrom (x.bit / 8) (ceilDiv (x.bit % 8 + x.width) 8)).foldl (fun m a =>
    if s.phys x.sp a = some pa then
      m ||| (2 ^ (min (x.bit + x.width) (8 * a + 8) - 8 * a) - 2 ^ (max x.bit (8 * a) - 8 * a))
    else m) 0

/-- Every bit of byte `pa` lies in one of some spans. -/
def State.covers (s : State) (pa : Nat) (xs : List BitSpan) : Bool := xs.foldl (fun m x => m ||| s.maskOn pa x) 0 == 255

/-- The stacks hold no sector with an error. -/
def State.eccClean (s : State) : Bool := s.hbmStacks.all fun e => e.2.bad.isEmpty && e.2.weak.isEmpty

/-- A corrected read: counted, and the first one captured (R258). -/
def State.ceEvent (s : State) (sec pass : Nat) : State :=
  let k := stackOfPa sec
  let pg := stackPage .hbm k
  let s := if s.fld pg hbm_evtRaw_corrected = 0 then s.setReg (pg.reg 0x050) (BitVec.ofNat 32 (sectorNumber sec)) else s
  let x := s.stack k
  let s := s.setStack k { x with rowCe := (sec, pass) :: x.rowCe }
  (s.bump pg hbm_ceCount_count).event pg hbm_evtRaw_corrected

/-- Spare rows left in pseudo-channel n of a stack (R261, R264). -/
def State.spareLeft (s : State) (k n : Nat) : Nat := s.fld (stackPage .hbm k) ⟨0xC00, 8 * (n % 4) + 7, 8 * (n % 4), .ro, 1, 0, 4, 16, 0, 255⟩ (n / 4)

/-- The pseudo-channel of a sector has no spare row. -/
def State.noSpare (s : State) (sec : Nat) : Bool := s.spareLeft (stackOfPa sec) (pcIndex (sec % 2 ^ 37) % 64) == 0

/-- An uncorrectable read: counted, and the first one captured (R258). Where no spare row is left, the fault manager hears of it,
whoever read (R441); it is no fault by itself. -/
def State.ueEvent (s : State) (sec : Nat) : State :=
  let k := stackOfPa sec
  let pg := stackPage .hbm k
  let s := if s.fld pg hbm_evtRaw_uncorrectable = 0 then
      (s.setReg (pg.reg 0x054) (BitVec.ofNat 32 (sectorNumber sec))).setFld pg hbm_faultInfo_pc (pcIndex (sec % 2 ^ 37) % 64)
    else s
  let s := (s.bump pg ueCount_count).event pg hbm_evtRaw_uncorrectable
  if s.noSpare sec then s.withFaults (s.faults ++ [⟨0, pg.base, 0, none, sec, s.now⟩]) else s

/-- Corrected reads of the sectors of a list. -/
def ceEvents (pass : Nat) : List Nat → State → State
  | [], s => s
  | x :: xs, s => ceEvents pass xs (s.ceEvent x pass)

/-- Uncorrectable reads, each with what the reader does about it. -/
def ueEvents (onBad : Nat → State → State) : List Nat → State → State
  | [], s => s
  | x :: xs, s => ueEvents onBad xs (onBad x (s.ueEvent x))

/-- Numbers in ascending order. -/
def ascending : List Nat → List Nat
  | [] => []
  | x :: xs => let ys := ascending xs; ys.takeWhile (· < x) ++ x :: ys.dropWhile (· < x)

/-- The sectors of a kind that spans meet by a test, in ascending order. -/
def State.hitSectors (s : State) (test : Nat → BitSpan → Bool) (sel : StackMem → List Nat) (xs : List BitSpan) : List Nat :=
  ascending (((s.hbmStacks.map fun e => sel e.2).flatten).filter fun sec => xs.any (test sec))

/-- The uncorrectable sectors that a read of spans finds. -/
def State.badRead (s : State) (xs : List BitSpan) : List Nat := if s.eccClean then [] else s.hitSectors s.readsSector (·.bad) xs

/-- Read the sectors of spans. -/
def State.eccRead (s : State) (onBad : Nat → State → State) (xs : List BitSpan) : State :=
  if s.eccClean then s
  else ueEvents onBad (s.badRead xs) (ceEvents 0 (s.hitSectors s.readsSector (·.weak) xs) s)

/-- The bits of physical memory that a span takes, page by page of the map, as (first bit, width). -/
def State.physParts (s : State) : Nat → BitSpan → List (Nat × Nat)
  | 0, _ => []
  | n + 1, x =>
    if x.width = 0 then []
    else
      let room := 8 * pageBytes - x.bit % (8 * pageBytes)
      let w := min x.width room
      let here := match s.phys x.sp (x.bit / 8) with
        | some pa => [(8 * pa + x.bit % 8, w)]
        | none => []
      here ++ s.physParts n { x with bit := x.bit + w, width := x.width - w }

/-- Two spans share a bit of memory, in whichever space each is named. -/
def State.meet (s : State) (a b : BitSpan) : Bool :=
  if a.sp = b.sp then spanMeets (a.bit, a.width) (b.bit, b.width)
  else
    let parts (x : BitSpan) : List (Nat × Nat) :=
      if x.sp.isNone then [(x.bit, x.width)] else s.physParts (x.width / (8 * pageBytes) + 2) x
    (parts a).any fun p => (parts b).any fun q => spanMeets p q

/-- A sector no longer holds an error. -/
def State.healSector (s : State) (sec : Nat) : State :=
  let k := stackOfPa sec
  let x := s.stack k
  s.setStack k { x with bad := x.bad.filter (· != sec), weak := x.weak.filter (· != sec) }

/-- What writes have done to a sector that held an error: a write of the whole sector replaces it; a part write corrects
a correctable one, and leaves an uncorrectable one as it was (R245). -/
def State.settleSector (before : State) (onBad : Nat → State → State) (xs : List BitSpan) (s : State) (sec : Nat) : State :=
  if (numsFrom sec 32).all fun pa => before.covers pa xs then s.healSector sec
  else if (before.stack (stackOfPa sec)).bad.contains sec then
    onBad sec ((storeSp s none sec (before.bytesAt sec 32)).ueEvent sec)
  else (s.ceEvent sec 0).healSector sec

/-- Store all writes, with the sector code. -/
def State.storeAll (s : State) (onBad : Nat → State → State) (ws : List BitWrite) : State :=
  let s1 := ws.foldl State.storeBits s
  if s.eccClean then s1
  else
    let xs := ws.map (·.span)
    ((s.hitSectors s.touches (·.bad) xs) ++ (s.hitSectors s.touches (·.weak) xs)).foldl (s.settleSector onBad xs) s1

/-- Sectors come to hold an error that the sector code corrects. -/
def weaken : List Nat → State → State
  | [], s => s
  | a :: as, s =>
    let k := stackOfPa a
    let x := s.stack k
    weaken as (if x.weak.contains (sectorOf a) || x.bad.contains (sectorOf a) then s
      else s.setStack k { x with weak := sectorOf a :: x.weak })

/-- A request brings stacks out of self-refresh (R209). -/
def wake : List Nat → State → State
  | [], s => s
  | k :: ks, s => wake ks (s.setFld (stackPage .granary k) granaryStatus_selfRefresh 0)

/-- A request brings both stacks of the pair out of self-refresh. -/
def State.wakeStacks (s : State) (pair : Nat) : State := wake [2 * pair, 2 * pair + 1] s

/-- Requests to the bytes of spans. Only the stacks of dies in TWILIGHT are in self-refresh. -/
def State.wakeSpans (s : State) (xs : List BitSpan) : State :=
  if s.power.twilight.isEmpty then s
  else wake (((xs.map fun x => (numsFrom (x.bit / 8) (ceilDiv (x.bit % 8 + x.width) 8)).filterMap fun a =>
    (s.phys x.sp a).map stackOfPa).flatten).eraseDups) s

/-- What a sector that cannot be corrected gives to a reader that goes on: open bytes (R258 gives no data for it). -/
def openSector (sec : Nat) (s : State) : State :=
  storeSp (s.withFreeCount (s.freeCount + 1)) none sec ((numsFrom sec 32).map (Config.freeByte s.freeCount))

/-- The loader reads spans: no command reads them, so that an uncorrectable sector raises no 0x41 (R258). -/
def State.loaderRead (s : State) (xs : List BitSpan) : State := (s.eccRead openSector xs).wakeSpans xs

/-- The loader writes bytes of a function's space under the sector code (R245). -/
def State.loaderWrite (s : State) (f va : Nat) (bs : List Byte) : State :=
  if bs.isEmpty then s
  else
    let x : BitSpan := ⟨some f, 8 * va, 8 * bs.length⟩
    (s.wakeSpans [x]).storeAll (fun _ s => s) [⟨x, leNat bs⟩]

/-- The loader reads bytes of a function's space: what they give, and the state after. -/
def State.loaderBytes (s : State) (f va n : Nat) : List Byte × State :=
  let t := s.loaderRead [⟨some f, 8 * va, 8 * n⟩]
  (t.vaBytes f va n, t)

/-! ### Operands in HBM -/

/-- A tensor in HBM as a command sees it: the operand, the stored tensor (another one for a view, R222), the function,
the addresses of elements and scales, and the batch slots that are live (R313). -/
structure GRef where
  t : TensorDecl
  st : TensorDecl
  f : Nat
  va : Nat
  sva : Nat
  mask : Nat
  deriving DecidableEq, Repr

/-- The stored row and column of a logical position. -/
def GRef.stored (g : GRef) (r c : Nat) : Nat × Nat := if g.t.viewOf.isSome then (c, r) else (r, c)

/-- Bytes of a stored row (R483). -/
def rowBytesOf (t : TensorDecl) : Nat := ceilDiv (t.cols * t.fmt.bits) 8

/-- Bytes of the stored tensor. -/
def storedBytes (t : TensorDecl) : Nat :=
  match t.winnow with
  | some v => ceilDiv (t.rows * ceilDiv t.cols 64) 32 * winnowSheaf v
  | none => t.rows * rowBytesOf t

/-- The Winnow block of a stored position. -/
def GRef.block (g : GRef) (i j : Nat) : Nat := i * ceilDiv g.st.cols 64 + j / 64

/-- The exponent byte of a block. -/
def GRef.expSpan (g : GRef) (v : Winnow) (b : Nat) : BitSpan := ⟨some g.f, 8 * (g.va + winnowExpAt v b), 8⟩
/-- The payload of a block. -/
def GRef.paySpan (g : GRef) (v : Winnow) (b : Nat) : BitSpan := ⟨some g.f, 8 * (g.va + winnowPayAt v b), 8 * winnowPayload v⟩

/-- The bits of a plain element. The last one of a row takes the rest of its byte (R483). -/
def GRef.elemSpan (g : GRef) (r c : Nat) : BitSpan :=
  let (i, j) := g.stored r c
  let b := g.st.fmt.bits
  let w := if j + 1 = g.st.cols then 8 * rowBytesOf g.st - b * j else b
  ⟨some g.f, 8 * (g.va + i * rowBytesOf g.st) + b * j, w⟩

/-- The byte of a scale. -/
def GRef.scaleSpan (g : GRef) (r b : Nat) : BitSpan := ⟨some g.f, 8 * (g.sva + r * scaleColsOf g.st + b), 8⟩

/-- A masked batch slot's row (R313). -/
def GRef.dead (g : GRef) (r c : Nat) : Bool :=
  g.st.batchRows != 0 && !bitOf g.mask ((g.stored r c).1 / g.st.batchRows)

/-- The code of an element, a Winnow block decoded (R227); rows of masked slots read +0. -/
def State.gcode (s : State) (g : GRef) (r c : Nat) : Nat :=
  if g.dead r c then 0
  else
    let (i, j) := g.stored r c
    match g.st.winnow with
    | some v =>
      let b := g.block i j
      let n := Winnow.width v
      winnowCode v g.st.fmt (s.bitsIn (g.expSpan v b)) (s.bitsIn (g.paySpan v b) / 2 ^ (n * (j % 64)) % 2 ^ n)
    | none => s.bitsIn (g.elemSpan r c) % 2 ^ g.st.fmt.bits

/-- The scale of block b of row r. -/
def State.gscale (s : State) (g : GRef) (r b : Nat) : Nat :=
  if g.dead r 0 then 127 else s.bitsIn (g.scaleSpan r b)

/-- The value of an element (R49). -/
def State.gval (s : State) (g : GRef) (r c : Nat) : FVal :=
  codeValOf g.t (if g.t.fmt.isMx then s.gscale g r (c / 32) else 0) (s.gcode g r c)

/-- The spans that hold an element. -/
def GRef.spansAt (g : GRef) (r c : Nat) : List BitSpan :=
  let (i, j) := g.stored r c
  match g.st.winnow with
  | some v => [g.expSpan v (g.block i j), g.paySpan v (g.block i j)]
  | none => if g.t.fmt.isMx then [g.elemSpan r c, g.scaleSpan r (c / 32)] else [g.elemSpan r c]

/-! ### Resolving an operand (R213, R251, R280, R313) -/

/-- The bundle of a job. -/
def State.jobBundle (s : State) (j : Nat) : Option Bundle := (s.job? j).bind fun x => s.bundle? x.bundle

/-- The tensor pairs of a job's trainable parameters (R265). -/
def State.paramPairs (s : State) (job : Nat) : List (Nat × Nat) :=
  match (s.jobBundle job).bind (·.decl.train) with
  | some d => (d.params.map fun p => [p.master, p.m, p.v, p.work, p.trans]).flatten
  | none => []

/-- The read slot of a job's parameters: g mod 2 for the adopted generation g; with none adopted, generation 0 is written
into slot 0 (R280, R285). -/
def State.readSlot (s : State) (job : Nat) : Nat :=
  match s.loader.gens.find? fun p => p.1 == job with
  | some p => p.2 % 2
  | none => 1

def pickSlot (p : Nat × Nat) (slot : Nat) : Nat := if slot = 0 then p.1 else p.2

/-- The tensor bound to an ID that is read: the first of a parameter's pair stands for the read slot, the second for the write slot
(DESIGN CHOICE, log 8). -/
def State.boundId (s : State) (job id : Nat) : Nat :=
  match (s.paramPairs job).find? fun p => p.1 == id || p.2 == id with
  | some p => pickSlot p (if p.1 = id then s.readSlot job else 1 - s.readSlot job)
  | none => id

/-- The same parameter tensor in the read slot, and in the write slot. -/
def State.readId (s : State) (job id : Nat) : Nat :=
  match (s.paramPairs job).find? fun p => p.1 == id || p.2 == id with
  | some p => pickSlot p (s.readSlot job)
  | none => id
def State.writeId (s : State) (job id : Nat) : Nat :=
  match (s.paramPairs job).find? fun p => p.1 == id || p.2 == id with
  | some p => pickSlot p (1 - s.readSlot job)
  | none => id

/-- How many tensors a bundle marks step-bound. -/
def boundCount (d : BundleDecl) : Nat :=
  (((d.kernels.map fun k => (k.tensors.filter (·.stepBound)).map (·.id)).flatten).eraseDups).length

/-- A tensor's entry of the binding table in memory, as (address of elements, address of scales) (R313). -/
def State.binding (s : State) (job : Nat) (ticket : List Byte) (id : Nat) : Option (Nat × Nat) :=
  match s.job? job, s.jobBundle job with
  | some j, some b =>
    let at_ := leAt ticket 104 8
    ((numsFrom 0 (boundCount b.decl)).find? fun k => leNat (s.vaBytes j.f (at_ + 16 * k) 2) == id).map fun k =>
      (leNat (s.vaBytes j.f (at_ + 16 * k + 8) 8), leNat (s.vaBytes j.f (at_ + 16 * k + 2) 6))
  | _, _ => none

/-- The addresses of elements and scales of a tensor at addresses of the bundle, as the rank of logical die i holds it. -/
def hbmAt (t : TensorDecl) (i : Nat) : Option (Nat × Nat) :=
  match t.loc with
  | .hbm va sva => some ((t.ranks[i]?).getD (va, sva))
  | _ => none

/-- Those of every rank. -/
def hbmPlaces (t : TensorDecl) : List (Nat × Nat) :=
  match t.loc with
  | .hbm va sva => (va, sva) :: t.ranks
  | _ => []

/-- The tensor as it lies in HBM for a run's rank, if it does and the job's map covers it (R253). A view's stored tensor is bound
as the tensor itself is. -/
def State.gref (s : State) (run id : Nat) (write : Bool) : Option GRef :=
  match s.run? run with
  | none => none
  | some r =>
    let ts := s.tensorsOf r
    match findTensor ts id with
    | none => none
    | some t =>
      let st := match t.viewOf with
        | some u => (findTensor ts (if write then s.writeId r.job u else s.boundId r.job u)).getD t
        | none => t
      let ticket := s.runTicket run
      let at_ := match st.loc with
        | .bound => (s.stepOfRun run).bind fun u => u.place st.id
        | _ => hbmAt st r.logical
      at_.bind fun a =>
        if s.mapped r.f a.1 (storedBytes st) write
          && (!st.fmt.isMx || s.mapped r.f a.2 (st.rows * scaleColsOf st) write)
        then some ⟨t, st, r.f, a.1, a.2, leAt ticket 32 32⟩ else none

/-! ### Writing rows (R219 to R221, R226) -/

/-- Events of conversions, by the stack of the element's granule (R208). -/
structure GEv where
  sat : List Nat := []
  lost : List Nat := []
  deriving DecidableEq, Repr

def GEv.add (a b : GEv) : GEv := ⟨a.sat ++ b.sat, a.lost ++ b.lost⟩

/-- Count the events on the GRANARY pages. -/
def State.countEv (s : State) (e : GEv) : State :=
  (numsFrom 0 16).foldl (fun s k =>
    let pg := stackPage .granary k
    let s := s.events pg granary_satCount_count granary_evtRaw_saturated (e.sat.count k)
    s.events pg granary_nanlostCount_count granary_evtRaw_nanLost (e.lost.count k)) s

/-- The stack that holds the first byte of a span. -/
def State.spanStack (s : State) (x : BitSpan) : Nat :=
  match s.phys x.sp (x.bit / 8) with
  | some pa => stackOfPa pa
  | none => 0

/-- One element's code and events at its place. -/
def State.convWrite (s : State) (g : GRef) (r c : Nat) (x : Conv) : BitWrite × GEv :=
  let sp := g.elemSpan r c
  let k := if x.sat || x.lost then [s.spanStack sp] else []
  (⟨sp, x.code⟩, ⟨if x.sat then k else [], if x.lost then k else []⟩)

/-- Gather writes and their events. -/
def gatherWrites (ws : List (BitWrite × GEv)) : List BitWrite × GEv :=
  (ws.map (·.1), ⟨(ws.map (·.2.sat)).flatten, (ws.map (·.2.lost)).flatten⟩)

/-- Codes stored as they are, from column c0 of row r; none is not written. -/
def GRef.codeRow (g : GRef) (r c0 : Nat) (xs : List (Option Nat)) : List BitWrite :=
  (xs.zipIdx).filterMap fun p => p.1.map fun v => ⟨g.elemSpan r (c0 + p.2), v⟩

/-- The value of an element in the tensor's own format: converted, with its events (Table NUM-6). -/
def convVal (f : Fmt) (mode : Ovf) (rnd : Rnd) (x : FVal) : FVal × Conv :=
  let c := convertElem f mode rnd x
  (decodeElem f c.code, c)

/-- A Winnow block from column c of row r (R226). Each value is converted into the tensor's format first (DEDUCED, log 19), and the
positions of the tensor that the region leaves out keep what they hold. -/
def State.winnowRow (s : State) (g : GRef) (v : Winnow) (mode : Ovf) (rnd : Nat → Rnd) (r c : Nat) (xs : List (Option FVal)) :
    List BitWrite × GEv :=
  if xs.all Option.isNone then ([], {})
  else
    let b := g.block r c
    let n := Winnow.width v
    let pay := g.paySpan v b
    let ys := (numsFrom 0 64).map fun k => match (xs[k]?).join with
      | some x => some (convVal g.t.fmt mode (rnd (elemIndex g.t.cols r (c + k))) x)
      | none => if c + k < g.t.cols then some (s.gval g r (c + k), ⟨0, false, false⟩) else none
    let (e, fs, _) := winnowEncode v (ys.map fun y => y.map (·.1))
    let stackAt (k : Nat) : Nat := s.spanStack ⟨pay.sp, pay.bit + n * k, n⟩
    let hit (p : FVal × Conv → Bool) : List Nat :=
      ((ys.zipIdx).filter fun y => ((xs[y.2]?).join).isSome && y.1.any p).map fun y => stackAt y.2
    ([⟨g.expSpan v b, e⟩, ⟨pay, natSum ((fs.zipIdx).map fun q => q.1 * 2 ^ (n * q.2))⟩],
      ⟨hit fun y => y.2.sat || (!y.1.isNan && !y.1.isFin), hit fun y => y.2.lost⟩)

/-- One MX block (R35, R36). -/
def State.mxRow (s : State) (g : GRef) (r c : Nat) (xs : List (Option FVal)) : List BitWrite × GEv :=
  let vs := xs.filterMap id
  let X := mxScale g.t.fmt vs
  let es := (xs.zipIdx).filterMap fun p => p.1.map fun x =>
    s.convWrite g r (c + p.2) (if X = 0xFF then ⟨0, false, false⟩ else mxElem g.t.fmt X x)
  let w := gatherWrites es
  (if vs.isEmpty then [] else ⟨g.scaleSpan r (c / 32), X⟩ :: w.1, w.2)

/-- The scale and the code of each value of row r from column c0, as an MX format stores them (R35, R36). -/
def mxCodes (f : Fmt) (c0 : Nat) (xs : List (Option FVal)) : List (Option (Nat × Nat)) :=
  let ys := List.replicate (c0 % 32) none ++ xs
  (((chunksOf 32 (ys.length / 32 + 1) ys).map fun b =>
    let X := mxScale f (b.filterMap id)
    b.map fun v => v.map fun y => (X, if X = 0xFF then 0 else (mxElem f X y).code)).flatten).drop (c0 % 32)

/-- Rows of writes joined. -/
def joinRows (rows : List (List BitWrite × GEv)) : List BitWrite × GEv :=
  ((rows.map (·.1)).flatten, ⟨(rows.map (·.2.sat)).flatten, (rows.map (·.2.lost)).flatten⟩)

/-- Values converted into the operand's format and written from column c0 of row r; none is not written. -/
def State.valueRow (s : State) (g : GRef) (mode : Ovf) (rnd : Nat → Rnd) (r c0 : Nat) (xs : List (Option FVal)) :
    List BitWrite × GEv :=
  let blocks (n : Nat) (f : Nat → List (Option FVal) → List BitWrite × GEv) : List BitWrite × GEv :=
    let ys := List.replicate (c0 % n) none ++ xs
    joinRows (((chunksOf n (ys.length / n + 1) ys).zipIdx).map fun p => f (c0 / n * n + n * p.2) p.1)
  match g.st.winnow with
  | some v => blocks 64 fun c ys => s.winnowRow g v mode rnd r c ys
  | none =>
    if g.t.fmt.isMx then blocks 32 fun c ys => s.mxRow g r c ys
    else gatherWrites ((xs.zipIdx).filterMap fun p => p.1.map fun x =>
      s.convWrite g r (c0 + p.2) (convertElem g.t.fmt mode (rnd (elemIndex g.t.cols r (c0 + p.2))) x))

/-- Values at ascending element indices of a tensor, row by row. -/
def State.valuesAt (s : State) (g : GRef) (mode : Ovf) (rnd : Nat → Rnd) (es : List (Nat × FVal)) : List BitWrite × GEv :=
  let rows := (es.map fun e => e.1 / g.t.cols).eraseDups
  joinRows (rows.map fun r =>
    let mine := es.filter fun e => e.1 / g.t.cols == r
    let lo := ((mine.head?).map (·.1 % g.t.cols)).getD 0
    let n := ((mine.getLast?).map (·.1 % g.t.cols + 1 - lo)).getD 0
    s.valueRow g mode rnd r lo ((numsFrom lo n).map fun c => (mine.find? fun e => e.1 % g.t.cols == c).map (·.2)))

/-- A stored tensor without its view: the logical positions are the stored ones. -/
def GRef.plain (g : GRef) : GRef := { g with t := g.st }

end Sys2Proof.Machine
end

