-- ==== Sys2Proof/Machine/Ports.lean ====
section
/-! DEFINITION. Ferry ports: flits, replay, credits, arbitration, training and routes (R367 to R383, R390). -/

namespace Sys2Proof.Machine

/-! ### Flits (R370 to R372) -/

/-- The fields of a flit header (Table FERRY-1). `route` is bits [86:66]. -/
structure FlitHdr where
  seq : Nat := 0
  ack : Nat := 0
  nak : Bool := false
  kind : Nat
  vc : Nat
  creditVc : Nat := 0
  credit : Nat := 0
  hop : Nat := 0
  hopsM1 : Nat := 0
  route : Nat := 0
  dest : Nat := 0
  sysjob : Nat := 0
  offset : Nat := 0
  deriving DecidableEq, Repr

def flitHdr (x : Flit) : FlitHdr :=
  let w := x.hdr
  { seq := fieldOf w 127 118, ack := fieldOf w 117 108, nak := fieldOf w 107 107 == 1, kind := fieldOf w 106 105,
    vc := fieldOf w 104 102, creditVc := fieldOf w 101 99, credit := fieldOf w 98 91, hop := fieldOf w 90 89,
    hopsM1 := fieldOf w 88 87, route := fieldOf w 86 66, dest := fieldOf w 65 63, sysjob := fieldOf w 62 51,
    offset := fieldOf w 50 42 }

/-- Bits [127:32] of a header. -/
def FlitHdr.high (h : FlitHdr) : Nat :=
  (h.seq % 1024) * 2 ^ 86 + (h.ack % 1024) * 2 ^ 76 + (if h.nak then 2 ^ 75 else 0) + (h.kind % 4) * 2 ^ 73
    + (h.vc % 8) * 2 ^ 70 + (h.creditVc % 8) * 2 ^ 67 + (h.credit % 256) * 2 ^ 59 + (h.hop % 4) * 2 ^ 57
    + (h.hopsM1 % 4) * 2 ^ 55 + (h.route % 2 ^ 21) * 2 ^ 34 + (h.dest % 8) * 2 ^ 31 + (h.sysjob % 4096) * 2 ^ 19
    + (h.offset % 512) * 2 ^ 10

/-- The CRC of a flit: bytes 4 to 255 (R370). -/
def flitCrc (high : Nat) (payload : List Byte) : Word :=
  crc32c (leBytes 12 high ++ (payload ++ List.replicate 240 0#8).take 240)

/-- A flit with its CRC. -/
def mkFlit (h : FlitHdr) (payload : List Byte) : Flit :=
  ⟨BitVec.ofNat 128 (h.high * 2 ^ 32 + (flitCrc h.high payload).toNat), payload⟩

def flitOk (x : Flit) : Bool := fieldOf x.hdr 31 0 == (flitCrc (fieldOf x.hdr 127 32) x.payload).toNat

def fkIdle : Nat := 0
def fkData : Nat := 1
def fkControl : Nat := 2

/-- n bytes of a flit from byte i, as a number; the payload begins at byte 16. -/
def flitAt (x : Flit) (i n : Nat) : Nat := leAt x.payload (i - 16) n

def flitOp (x : Flit) : Nat := flitAt x 32 1
def flitCode (x : Flit) : Nat := flitAt x 33 1

/-- Control operations (Table FERRY-2). -/
def opBell : Nat := 0
def opJobStop : Nat := 1
def opWithdraw : Nat := 2
def opIdent : Nat := 3
def opProbe : Nat := 4
def opEcho : Nat := 5

/-- The payload of a control flit: the tag in bytes 16 to 31, op, code, and the bytes from 34 up. -/
def controlPayload (tag op code : Nat) (more : List Byte) : List Byte :=
  leBytes 16 tag ++ leBytes 1 op ++ leBytes 1 code ++ more

/-- A control flit of one link (R372, R376). -/
def linkFlit (op : Nat) (more : List Byte) : PortWait :=
  { vc := 4, flit := mkFlit { kind := fkControl, vc := 4 } (controlPayload 0 op 0 (leBytes 2 0 ++ more)) }

/-! ### Ports -/

def portOk (d p : Nat) : Bool := decide (d < 8) && decide (p < 14)

/-- FL_STATUS.state: 0 DOWN, 1 TRAINING, 2 UP, 3 LOST. -/
def State.portState (s : State) (d p : Nat) : Nat := s.fld (portPage d p) flStatus_state
def State.setPortState (s : State) (d p v : Nat) : State := s.setFld (portPage d p) flStatus_state v

/-- Package port n. -/
def portDie (n : Nat) : Nat := n / 14
def portNo (n : Nat) : Nat := n % 14

def State.portUp (s : State) (n : Nat) : Bool :=
  portOk (portDie n) (portNo n) && s.dieLive (portDie n) && s.portState (portDie n) (portNo n) == 2

/-- A port whose link carries flits: in TRAINING or UP. -/
def State.linkOn (s : State) (d p : Nat) : Bool :=
  portOk d p && s.served (portPage d p) && (s.portState d p == 1 || s.portState d p == 2)

/-- A flit waits at a port. -/
def State.enqueue (s : State) (d p : Nat) (w : PortWait) : State :=
  let x := s.port d p
  s.setPort d p { x with waiting := x.waiting ++ [w] }

def enqueueAll (d p : Nat) : List PortWait → State → State
  | [], s => s
  | w :: ws, s => enqueueAll d p ws (s.enqueue d p w)

/-- The flits that wait to be sent keep waiting when a port trains; all else of the link starts again (R369, R374). -/
def Port.fresh (x : Port) : Port :=
  { waiting := x.waiting.filter fun w => !((flitHdr w.flit).kind == fkControl && decide (opIdent ≤ flitOp w.flit)) }

/-- A flit that came in is freed at its arrival port (R378). -/
def State.freeFlit (s : State) (d p v : Nat) : State :=
  let x := s.port d p
  s.setPort d p { x with freed := SMap.set 0 v (SMap.get 0 x.freed v + 1) x.freed }

/-- The credit for a flit in transit, unless its link has trained since it came in. -/
def State.freeWait (s : State) (w : PortWait) : State :=
  match w.src with
  | some (d, p, v) => if w.owed then s.freeFlit d p v else s
  | none => s

/-- The port that stands in for a package port: itself when UP, else a spare to the same neighbour (R382). -/
def State.usePort (s : State) (n : Nat) : Option Nat :=
  if s.portUp n then some n
  else
    let node := s.fld (portPage (portDie n) (portNo n)) flNeighbour_node
    (numsFrom 0 112).find? fun k => s.portUp k && s.fld (portPage (portDie k) (portNo k)) flCtrl_spare == 1
      && s.fld (portPage (portDie k) (portNo k)) flNeighbour_node == node

/-- A transit flit goes to the port that its route names or to that port's spare; with neither it is discarded and counted
(R383). -/
def State.forward (s : State) (n : Nat) (w : PortWait) : State :=
  match s.usePort n with
  | some k => s.enqueue (portDie k) (portNo k) w
  | none => ((s.bump (sqPage .ferryPkg) norouteCount_count).event (sqPage .ferryPkg) ferryPkg_evtRaw_noroute).freeWait w

/-- The transit flits among some that waited at package port n. -/
def forwardAll (n : Nat) : List PortWait → State → State
  | [], s => s
  | w :: ws, s => forwardAll n ws (if w.src.isSome then s.forward n w else s)

/-- A flit came in by port p of die d. -/
def PortWait.cameBy (d p : Nat) (w : PortWait) : Bool := w.src.any fun i => i.1 == d && i.2.1 == p

/-- A link starts again, and its credit counts with it: no flit that came before owes a credit of the new link (R378), and a tile
in transit that came by it is over. -/
def State.newCounts (s : State) (d p : Nat) : State :=
  let cut (x : Port) : Port := { x with
    waiting := x.waiting.map fun w => if w.cameBy d p then { w with owed := false } else w,
    inTile := x.inTile.filter fun k => !(k.2.any fun t => t.src.any fun i => i.1 == d && i.2.1 == p) }
  s.withFerry { s.ferry with
    tilesIn := s.ferry.tilesIn.map fun t => if t.port == d * 14 + p then { t with owed := 0 } else t,
    ports := SMap.mapF (fun _ => {}) (fun _ x => cut x) s.ferry.ports }

/-- A port leaves UP for another state: what of its link lives on stays as `x` has it, and the transit flits that waited at it
go on by R383. -/
def State.leaveUp (s : State) (d p v : Nat) (x : Port) : State :=
  let s := s.newCounts d p
  let old := (s.port d p).waiting
  forwardAll (d * 14 + p) old ((s.setPort d p { x with waiting := x.waiting.filter fun w => w.src.isNone }).setPortState d p v)

/-- A port begins TRAINING: sequence numbers restart at 0, and FL_NEIGHBOUR holds no IDENT (R369). -/
def State.trainPort (s : State) (d p : Nat) : State :=
  let s := s.leaveUp d p 1 (s.port d p).fresh
  ((s.setFld (portPage d p) flNeighbour_valid 0).setFld (portPage d p) flRtt_ns 0).setFld (portPage d p) flCtrl_retrain 0

/-- A port goes DOWN (R390, R441). -/
def State.portDown (s : State) (d p : Nat) : State := s.leaveUp d p 0 {}

def portsDown (d : Nat) : List Nat → State → State
  | [], s => s
  | p :: ps, s => portsDown d ps (s.portDown d p)

/-- The 14 ports of a die go DOWN. -/
def State.diePortsDown (s : State) (d : Nat) : State := portsDown d (numsFrom 0 14) s

/-- A port enters LOST: run-time fault 0x44, the replay buffer is discarded (R374). Every bound job is concerned (R390). -/
def State.portLost (s : State) (d p reason : Nat) : State :=
  let pg := portPage d p
  let s := s.leaveUp d p 3 (s.port d p).fresh
  (s.event pg ferry_evtRaw_linkLost).fault pg 0x44 (infoOf [(reason, 0)]) none

/-- A replay (R374): from ack + 1, in the original order; the sixteenth without an advance loses the link (DEDUCED, log
23). -/
def State.replayPort (s : State) (d p : Nat) : State :=
  let x := s.port d p
  if x.replay.isEmpty then s
  else
    let pg := portPage d p
    let s := s.setPort d p { x with resend := x.replay, replays := x.replays + 1 }
    let s := (s.bump pg ferry_replayCount_count).event pg ferry_evtRaw_replay
    if x.replays + 1 ≥ 16 then s.portLost d p 1 else s

/-! ### Sending (R374, R377, R378, R380) -/

/-- A header's ack, nak and credit fields as the port sends them next. -/
def Port.stamp (x : Port) (h : FlitHdr) : FlitHdr :=
  { h with ack := (x.expect + 1023) % 1024, nak := x.nakDue, creditVc := x.creditVc,
           credit := SMap.get 0 x.freed x.creditVc % 256 }

/-- The port after a header left it: credit_vc advances, a due NAK is sent. -/
def Port.stamped (x : Port) : Port := { x with creditVc := (x.creditVc + 1) % 8, nakDue := false }

/-- The header of a flit that is sent again: unchanged apart from ack and the credit fields (R374). A NAK that is due stays
due. -/
def Port.restamp (x : Port) (h : FlitHdr) : FlitHdr := { x.stamp h with nak := h.nak }
def Port.restamped (x : Port) (ctl : Bool) : Port :=
  { x with creditVc := (x.creditVc + 1) % 8, ctrlGap := if ctl then 0 else min (x.ctrlGap + 1) 8 }

/-- A VC may send (R377). -/
def Port.mayVc (x : Port) (v : Nat) : Bool :=
  SMap.get 0 x.out v == 0 || decide (natSum ((numsFrom 0 8).map fun u => SMap.get 0 x.out u - 1) < 376)

/-- The identity of a tile on a VC: sysjob and tag. -/
def tileKey (x : Flit) : Nat × BitVec 128 := ((flitHdr x).sysjob, BitVec.ofNat 128 (flitAt x 16 16))

/-- The first flit of a VC that may go: a tile in progress goes before any other. -/
def Port.headOf (x : Port) (v : Nat) : Option (Nat × PortWait) :=
  findIdxFrom (fun w => w.vc == v && (v ≥ 4 || match SMap.get none x.inTile v with
    | some k => tileKey w.flit == k.key
    | none => true)) 0 x.waiting

/-- The highest VC of some that has a flit to send and the credit for it. -/
def Port.pick (x : Port) : List Nat → Option (Nat × PortWait)
  | [] => none
  | v :: vs => if x.mayVc v then (match x.headOf v with
    | some r => some r
    | none => x.pick vs) else x.pick vs

/-- The flit that a port sends in a slot: a waiting CONTROL VC first, at most one in 8 slots while DATA flits wait; in
TRAINING only the ops of the link itself. -/
def Port.choose (x : Port) (training : Bool) : Option (Nat × PortWait) :=
  if 512 ≤ x.replay.length then none
  else if training then findIdxFrom (fun w => w.vc == 4 && decide (opIdent ≤ flitOp w.flit) && x.mayVc 4) 0 x.waiting
  else
    let dataWaits := x.waiting.any fun w => decide (w.vc < 4)
    let ctl := if dataWaits && decide (x.ctrlGap < 7) then none else x.pick [7, 6, 5, 4]
    match ctl with
    | some r => some r
    | none => x.pick [3, 2, 1, 0]

/-- The variant of a format; of the two for 16-bit formats the longer (DESIGN CHOICE, log 23). -/
def defaultWinnow (tag : BitVec 128) : Winnow :=
  match Fmt.ofCode (tagFields tag).fmt with
  | some fm => if fm.bits = 16 then .w12 else .w6
  | none => .w12

/-- The segments of 256 integers that a tile of words meets, in ascending order. -/
def tileSegs (t : TensorDecl) (row col vr vc : Nat) : List Nat :=
  (((numsFrom row vr).map fun r => (numsFrom (col * tileW t.fmt) vc).map fun c => (r * t.cols + c) / 512).flatten).eraseDups

/-- Payload bytes of a tile in flits, from its tag and its tensor (R59, R371): a Winnow tile takes the tensor's variant, a
checksum tile 8 bytes for each segment that its data tile meets (R232). -/
def tilePayload (t : Option TensorDecl) (tag : BitVec 128) : Nat :=
  let f := tagFields tag
  let v := (t.bind (·.winnow)).getD (defaultWinnow tag)
  let W := match Fmt.ofCode f.fmt with
    | some fm => tileW fm
    | none => 128
  let bits := match Fmt.ofCode f.fmt with
    | some fm => fm.bits
    | none => 32
  if f.kind = 2 then 128 * (W / 32)
  else if f.kind = 3 then
    match t with
    | some t => 8 * (tileSegs t f.row f.col (f.vrows + 1) (min (f.validCols t.fmt) (t.cols - f.col * tileW t.fmt))).length
    | none => 8 * 128
  else if f.kind = 4 then 0
  else if f.flag flWinnow then 128 * (W / 64) * (1 + winnowPayload v)
  else 128 * W * bits / 8

/-- Flits of a tile; a tile with no payload takes one. -/
def tileFlits (t : Option TensorDecl) (tag : BitVec 128) : Nat := max 1 (ceilDiv (tilePayload t tag) 224)

/-- The tag alone says how long a tile is: no checksum tile, and no Winnow tile of a 16-bit format. -/
def plainLength (tag : BitVec 128) : Bool :=
  let f := tagFields tag
  f.kind != 3 && !(f.flag flWinnow && (Fmt.ofCode f.fmt).any fun fm => fm.bits == 16)

/-- The most flits that a tile can take whose length its tag alone does not tell: a checksum tile of 128 rows that meet two
segments each, a Winnow tile of the longer variant. -/
def mostFlits (tag : BitVec 128) : Nat := if (tagFields tag).kind = 3 then ceilDiv (8 * 2 * 128) 224 else tileFlits none tag

/-- Whether a transit flit is the last of its tile. A package that has no table for the tensor cannot always tell. -/
def transitLast (t : Option TensorDecl) (x : Flit) : Option Bool :=
  let tag := BitVec.ofNat 128 (flitAt x 16 16)
  let n := (flitHdr x).offset + 1
  if t.isSome || plainLength tag then some (n == tileFlits t tag) else if mostFlits tag ≤ n then some true else none

/-- Mark the last of the flits from a link and VC, if its tile is open, as the last of its tile. -/
def markEnd (src : Nat × Nat × Nat) (tileOpen : PortWait → Bool) : List PortWait → List PortWait
  | [] => []
  | w :: ws =>
    let last := w.src == some src && !ws.any fun u => u.src == some src
    (if last && tileOpen w then { w with last := some true } else w) :: markEnd src tileOpen ws

/-- A flit of another tile comes in on the link and VC of a tile in transit, which is over, since the port that sent it sends a
tile whole (R380). Where the tag does not tell a tile's length, this or its greatest length ends it, and until then no other
tile comes between its flits (DESIGN CHOICE, log 23). -/
def Port.endTransit (x : Port) (src : Nat × Nat × Nat) (key : Nat × BitVec 128) (first : Bool) : Port :=
  let tileOpen (w : PortWait) : Bool := w.last.isNone && (first || tileKey w.flit != key)
  let held (t : Nat × BitVec 128) : Bool := x.waiting.any fun w => w.src == some src && tileKey w.flit == t
  { x with
    waiting := markEnd src tileOpen x.waiting,
    inTile := x.inTile.filter fun k => !(k.2.any fun t => t.src == some src && (first || t.key != key) && !held t.key) }

/-- What the first flit of a tile that comes in by a link and VC says of the tile before it there. -/
def State.endTransit (s : State) (src : Nat × Nat × Nat) (x : Flit) : State :=
  let cut (y : Port) : Port := y.endTransit src (tileKey x) ((flitHdr x).offset == 0)
  s.withFerry { s.ferry with ports := SMap.mapF (fun _ => {}) (fun _ y => cut y) s.ferry.ports }

/-- A flit leaves the port. -/
def State.emitFlit (s : State) (d p : Nat) (x : Flit) : State := s.sendFlit (d * 14 + p) x

/-- Send a new flit: it takes the next seq and enters the replay buffer. -/
def State.sendNew (s : State) (d p i : Nat) (w : PortWait) : State :=
  let x := s.port d p
  let h := x.stamp { flitHdr w.flit with seq := x.nextSeq }
  let y := mkFlit h w.flit.payload
  let ctl := h.kind == fkControl
  let inTile := if ctl then x.inTile
    else SMap.set none w.vc (if w.last.getD false then none else some ⟨tileKey w.flit, w.src⟩) x.inTile
  let probe := if ctl && flitOp w.flit == opProbe then some (flitAt w.flit 36 4, s.now) else x.probe
  let s := s.setPort d p { x.stamped with
    nextSeq := (x.nextSeq + 1) % 1024, replay := x.replay ++ [y], waiting := x.waiting.eraseIdx i, inTile := inTile,
    probe := probe, out := SMap.set 0 w.vc (SMap.get 0 x.out w.vc + 1) x.out,
    ctrlGap := if ctl then 0 else min (x.ctrlGap + 1) 8 }
  let s := s.freeWait w
  let s := match w.done with
    | some t => s.withFlight (s.flight.erase t)
    | none => s
  (s.bump (portPage d p) txFlits_count).emitFlit d p y

/-- DATA flits wait at a port, to be sent or to be sent again. -/
def Port.dataWaits (x : Port) : Bool :=
  x.waiting.any (fun w => decide (w.vc < 4)) || x.resend.any fun y => (flitHdr y).kind == fkData

/-- A slot without a flit to send carries an IDLE flit. -/
def State.idleSlot (s : State) (d p : Nat) : State :=
  let x := s.port d p
  (s.setPort d p { x.stamped with ctrlGap := min (x.ctrlGap + 1) 8 }).emitFlit d p (mkFlit (x.stamp { kind := fkIdle, vc := 0 }) [])

/-- One slot of a port: a flit of a replay, a new flit, or an IDLE flit (R374, R378, R380). A replay keeps its order, so a
CONTROL flit of it that comes within 8 slots of another while DATA flits wait is held back for IDLE flits. -/
def State.portSlot (s : State) (d p : Nat) : State :=
  let x := s.port d p
  match x.resend with
  | y :: ys =>
    let ctl := (flitHdr y).kind == fkControl
    if ctl && x.dataWaits && decide (x.ctrlGap < 7) then s.idleSlot d p
    else
      let z := mkFlit (x.restamp (flitHdr y)) y.payload
      let s := s.setPort d p { x.restamped ctl with resend := ys }
      (s.bump (portPage d p) txFlits_count).emitFlit d p z
  | [] =>
    match x.choose (s.portState d p == 1) with
    | some (i, w) => s.sendNew d p i w
    | none => s.idleSlot d p

def execFlitTransmit (d p : Nat) (s : State) : Host.Outcome State Fault Refusal :=
  .next (if s.linkOn d p then s.portSlot d p else s)

/-! ### Receiving (R373 to R375, R378) -/

/-- ack, nak and credit of a header that arrived intact. -/
def State.headerIn (s : State) (d p : Nat) (h : FlitHdr) : State :=
  let x := s.port d p
  let new := (h.credit + 256 - SMap.get 0 x.seen h.creditVc % 256) % 256
  let n := (h.ack + 1024 - x.acked) % 1024
  let adv := decide (0 < n) && decide (n ≤ x.replay.length)
  let y := { x with
    seen := SMap.set 0 h.creditVc (SMap.get 0 x.seen h.creditVc + new) x.seen,
    out := SMap.set 0 h.creditVc (SMap.get 0 x.out h.creditVc - new) x.out }
  let y := if adv then { y with acked := h.ack, replay := y.replay.drop n, replays := 0,
                                resend := y.resend.drop (n - (y.replay.length - y.resend.length)) } else y
  let s := s.setPort d p y
  if h.nak then s.replayPort d p else s

/-- A flit is discarded for its CRC or its place: one NAK per episode (R373). -/
def State.nakEpisode (s : State) (d p : Nat) : State :=
  let x := s.port d p
  if x.nakSent then s else s.setPort d p { x with nakSent := true, nakDue := true }

/-- The VC that kind and hop give (R376). -/
def vcOf (h : FlitHdr) : Nat := if h.kind = fkControl then 4 + h.hop else h.hop

/-- R375 discards the flit. -/
def flitBad (h : FlitHdr) (x : Flit) : Bool :=
  h.kind == 3 || h.vc != vcOf h || decide (h.hopsM1 < h.hop) || (h.kind == fkControl && decide (opEcho < flitOp x))

/-- The link layer takes a flit: its state after, and whether the flit was accepted (R373). -/
def State.linkIn (s : State) (d p : Nat) (x : Flit) : State × Bool :=
  let pg := portPage d p
  let h := flitHdr x
  if !s.linkOn d p then (s, false)
  else if !flitOk x then
    if h.kind = fkIdle then (s, false)
    else (((s.bump pg crcErrCount_count).event pg ferry_evtRaw_crcError).nakEpisode d p, false)
  else
    let s := s.headerIn d p h
    if h.kind = fkIdle || !s.linkOn d p then (s, false)
    else
      let y := s.port d p
      if h.seq != y.expect then (s.nakEpisode d p, false)
      else
        let s := s.setPort d p { y with expect := (y.expect + 1) % 1024, nakSent := false }
        if flitBad h x then (((s.bump pg dropCount_count).event pg ferry_evtRaw_dropped).freeFlit d p h.vc, false)
        else (s.bump pg rxFlits_count, true)

/-! ### Training (R369) -/

/-- PHY lock: the port is in TRAINING and sends IDENT. A port that is UP is locked already. -/
def execPhyLock (d p : Nat) (s : State) : Host.Outcome State Fault Refusal :=
  if portOk d p && s.served (portPage d p) && s.fld (portPage d p) flCtrl_enable == 1 && s.portState d p != 2 then
    let s := if s.portState d p = 1 then s else s.trainPort d p
    .next (s.enqueue d p (linkFlit opIdent
      (leBytes 2 (s.fld (sqPage .ferryPkg) ferryNode_node) ++ leBytes 1 (d * 14 + p))))
  else .next s

def execPhyLockLost (d p : Nat) (s : State) : Host.Outcome State Fault Refusal :=
  .next (if s.linkOn d p then s.portLost d p 2 else s)

/-- FL_CTRL.retrain written with 1: TRAINING begins, and while it cannot the bit stays set (R368, Table FERRY-6). -/
def State.retrain (s : State) (d p : Nat) : State :=
  if portOk d p && s.served (portPage d p) && s.fld (portPage d p) flCtrl_enable == 1 then s.trainPort d p
  else if portOk d p then s.setFld (portPage d p) flCtrl_retrain 1 else s

/-- The far end's IDENT; the first probe follows. -/
def State.identIn (s : State) (d p : Nat) (x : Flit) : State :=
  let pg := portPage d p
  let s := ((s.setFld pg flNeighbour_node (flitAt x 36 2 % 2 ^ 15)).setFld pg flNeighbour_port
    (flitAt x 38 1 % 128)).setFld pg flNeighbour_valid 1
  let y := s.port d p
  if s.portState d p = 1 && y.probeNext = 0 then
    (s.setPort d p { y with probeNext := 1 }).enqueue d p (linkFlit opProbe (leBytes 4 0))
  else s

/-- An ECHO: the longest time is kept, and after 64 the port enters UP. -/
def State.echoIn (s : State) (d p : Nat) (x : Flit) : State :=
  let pg := portPage d p
  let y := s.port d p
  match y.probe with
  | some (n, t) =>
    if flitAt x 36 4 = n && s.portState d p = 1 then
      let s := s.setFld pg flRtt_ns (min (max (s.fld pg flRtt_ns) (s.now - t)) 0xFFFF)
      if y.echoes + 1 ≥ 64 then
        ((s.setPort d p { y with echoes := y.echoes + 1, probe := none }).setPortState d p 2).event pg ferry_evtRaw_linkUp
      else
        (s.setPort d p { y with echoes := y.echoes + 1, probe := none, probeNext := y.probeNext + 1 }).enqueue d p
          (linkFlit opProbe (leBytes 4 y.probeNext))
    else s
  | none => s

/-- An accepted op of the link itself (R372); it is freed at once. -/
def State.linkOp (s : State) (d p : Nat) (x : Flit) : State :=
  let s := if flitOp x = opIdent then s.identIn d p x
    else if flitOp x = opProbe then s.enqueue d p (linkFlit opEcho (leBytes 4 (flitAt x 36 4)))
    else s.echoIn d p x
  s.freeFlit d p 4

/-- No acknowledgement for FL_RTT + 1,000 ns with flits outstanding (R374). -/
def execReplayTimeout (d p : Nat) (s : State) : Host.Outcome State Fault Refusal :=
  .next (if s.linkOn d p then s.replayPort d p else s)

/-- An IDLE flit (R378). -/
def execIdleFlit (d p : Nat) (x : Flit) (s : State) : Host.Outcome State Fault Refusal := .next (s.linkIn d p x).1

/-! ### Routes (R381 to R383) -/

/-- A route word is valid and names ports 0 to 111, none beyond its length (R381). -/
def routeOk (w : Nat) : Bool :=
  !bitOf w 31 || (numsFrom 0 4).all fun k =>
    let n := bitsOf w (8 + 7 * k) (2 + 7 * k)
    if k ≤ w % 4 then decide (n ≤ 111) else n == 0

/-- The route to a node as (word, first port). -/
def State.routeTo (s : State) (node : Nat) : Option (Nat × Nat) :=
  let r := SMap.get (0, 0) s.ferry.routes node
  let try1 (w : Nat) : Option (Nat × Nat) := if bitOf w 31 then (s.usePort (bitsOf w 8 2)).map (w, ·) else none
  match try1 r.1 with
  | some x => some x
  | none => try1 r.2

/-! ### Traffic of this package's jobs (R384 to R389) -/

/-- Packages of a job. -/
def Job.pkgs (j : Job) : Nat := if j.ranks ≤ 8 then 1 else j.ranks / max j.w 1

/-- The binding of a job. -/
def State.bindingOf (s : State) (job : Nat) : Option Binding := s.ferry.binds.find? fun b => b.job == job

/-- The route a job's step uses to a package: the step's own, or the table's now (R382). -/
def State.jobRoute (s : State) (job pkg : Nat) : Option (Nat × Nat) :=
  match (s.stepOf? job).bind fun t => t.routes.find? fun r => r.1 == pkg with
  | some r => some r.2
  | none => (s.bindingOf job).bind fun b => b.nodes[pkg]?.bind s.routeTo

/-- Put a flit for another package on its route's first port. -/
def State.sendTo (s : State) (job pkg die kind offset : Nat) (dataVc : Bool) (payload : List Byte)
    (fin : Option (Nat × Tile) := none) (last : Bool := true) : State :=
  match s.bindingOf job, s.jobRoute job pkg with
  | some b, some (w, n) =>
    let vc := if dataVc then 0 else 4
    let h : FlitHdr :=
      { kind := kind, vc := vc, hopsM1 := w % 4, route := bitsOf w 29 9, dest := die, sysjob := b.sysjob, offset := offset }
    s.enqueue (portDie n) (portNo n) { vc := vc, flit := mkFlit h payload, done := fin, last := some last }
  | _, _ => s

/-- Bits of an element in a tile's payload. -/
def tileBits (tag : BitVec 128) : Nat :=
  let f := tagFields tag
  if f.kind = 2 || f.flag flWinnow then 8
  else if f.kind = 3 then 32
  else match Fmt.ofCode f.fmt with
    | some fm => fm.bits
    | none => 32

/-- The payload bytes of a tile (R59). -/
def tileBytes (decl : Option TensorDecl) (t : Tile) : List Byte :=
  leBytes (tilePayload decl t.tag) (packNat (tileBits t.tag) t.elems)

/-- The tile that payload bytes hold. -/
def tileOfBytes (tag : BitVec 128) (bs : List Byte) : Tile :=
  ⟨tag, unpackNat (tileBits tag) (8 * bs.length / tileBits tag) (leNat bs), []⟩

def sendFlits (job pkg die : Nat) (tag : BitVec 128) (fin : Nat × Tile) : List Byte → Nat → Nat → State → State
  | _, _, 0, s => s
  | bs, k, n + 1, s =>
    sendFlits job pkg die tag fin (bs.drop 224) (k + 1) n
      (s.sendTo job pkg die fkData k true (leBytes 16 tag.toNat ++ (bs ++ List.replicate 224 0#8).take 224)
        (if n = 0 then some fin else none) (n == 0))

/-- A tile goes to a logical die of another package as DATA flits (R371); it stays in flight until its last flit enters
the replay buffer (R387). -/
def State.sendTile (s : State) (job run pkg die : Nat) (decl : Option TensorDecl) (t : Tile) : State :=
  sendFlits job pkg die t.tag (run, t) (tileBytes decl t) 0 (tileFlits decl t.tag) s

/-- A Bell signal to another package: on the DATA VCs as a DATA flit with the signal's tag where data went before, else as
a BELL flit (R387). -/
def State.sendBell (s : State) (job pkg die bell op : Nat) (v : Word) (step : Nat) (dataPath : Bool) : State :=
  let tag : TagF := ⟨4, 0, 0, die * 4096 + bell, v.toNat, op, 0, 0, step % 256⟩
  let t := tag.body * 2 ^ 16 + tagCheck tag.body
  if dataPath then s.sendTo job pkg die fkData 0 true (leBytes 16 t)
  else s.sendTo job pkg die fkControl 0 false (controlPayload t opBell 0 [])

/-- Send JOB_STOP or WITHDRAW to the children of this package in the tree of package f (R389). -/
def treeSend (job f op code pkgs me : Nat) : List Nat → State → State
  | [], s => s
  | c :: cs, s =>
    let v := 2 * ((me + pkgs - f % pkgs) % pkgs) + c
    treeSend job f op code pkgs me cs
      (if v < pkgs then s.sendTo job ((v + f) % pkgs) 0 fkControl 0 false (controlPayload 0 op code (leBytes 2 f)) else s)

/-- Forward a JOB_STOP or WITHDRAW for a job that spans packages. -/
def State.jobTree (s : State) (j : Job) (f op code : Nat) : State :=
  if j.pkgs ≤ 1 then s else treeSend j.handle f op code j.pkgs j.pkg [1, 2] s

/-! ### A job's flits (R55, R439) -/

/-- A flit that a stopped job's units put at a port: its data and its Bell signals, and not what stops it (R389). -/
def jobFlit (sysjob : Nat) (w : PortWait) : Bool :=
  let h := flitHdr w.flit
  w.src.isNone && h.sysjob == sysjob && (h.kind == fkData || (h.kind == fkControl && flitOp w.flit == opBell))

def freeFlits (d p v : Nat) : Nat → State → State
  | 0, s => s
  | n + 1, s => freeFlits d p v n (s.freeFlit d p v)

/-- The flits of tiles that will not be completed are freed. -/
def freeTiles : List FerryTile → State → State
  | [], s => s
  | t :: ts, s => freeTiles ts (freeFlits (t.port / 14) (t.port % 14) t.vc t.owed s)

/-- The tiles of a job that are arriving or wait to leave are discarded. -/
def State.dropFlits (s : State) (job : Nat) : State :=
  match s.bindingOf job with
  | none => s
  | some b =>
    let s := freeTiles (s.ferry.tilesIn.filter fun t => t.sysjob == b.sysjob) s
    s.withFerry { s.ferry with
      tilesIn := s.ferry.tilesIn.filter fun t => t.sysjob != b.sysjob,
      sent := s.ferry.sent.filter fun x => x.2.1 != job,
      ports := SMap.mapF (fun _ => {}) (fun _ x => { x with
        waiting := x.waiting.filter fun w => !jobFlit b.sysjob w, inTile := x.inTile.filter fun k => k.2.all fun t => t.src.isSome || t.key.1 != b.sysjob }) s.ferry.ports }

end Sys2Proof.Machine
end

