-- ==== Sys2Proof/Machine/Granary.lean ====
section
/-! DEFINITION. Granary's queues, the reads and writes of tiles, COPY and FILL (09_granary.md, R208 to R223, R229, R236 to
R238, R485). -/

namespace Sys2Proof.Machine

/-! ### Commands of a queue (R210, R213) -/

/-- A command that runs at a pair with the tables of its run. -/
structure GCtx where
  pair : Nat
  q : Nat
  run : Nat
  job : Nat
  f : Nat
  c : GranCmd
  descs : List (BitVec 128)
  prog : GranProg
  tensors : List TensorDecl
  deriving DecidableEq, Repr

/-- What a command does: the bits it reads and writes, its events, tiles it sends, and a failed check. -/
structure GEff where
  reads : List BitSpan := []
  writes : List BitWrite := []
  ev : GEv := {}
  tiles : List Tile := []
  /-- Score tiles of gathered pages that hold no key, as (tensor, row, column block) (R178). -/
  noKeys : List (Nat × Nat × Nat) := []
  gathered : List Nat := []
  widened : List Nat := []
  /-- Segments whose checksums differ, by the stack that holds them. -/
  mismatch : List Nat := []
  reject : Option Nat := none
  /-- The stack whose Granary raises it, where one does (R208). -/
  rejectAt : Option Nat := none
  deriving DecidableEq, Repr

/-- The tables a run's piece gives a queue of a pair. -/
def State.granProg (s : State) (r : Run) (pair q : Nat) : GranProg :=
  (r.piece.grans.find? fun p => s.dieOf p.pairDie == some pair && p.die == r.logical && p.hamlet == q % 4).getD
    ⟨pair, 0, 0, [], [], [], [], []⟩

def State.gctx (s : State) (pair : Nat) (e : GranRun) : Option GCtx :=
  (s.run? e.run).map fun (r : Run) =>
    ⟨pair, e.q, e.run, r.job, r.f, granCmd e.word, e.descs, s.granProg r pair e.q, s.tensorsOf r⟩

/-- The tensor ID of an operand slot. -/
def GCtx.id (x : GCtx) (slot : Nat) : Nat := ((x.prog.slots.find? fun p => p.1 == slot).map (·.2)).getD 0xFFFF

/-- An operand in HBM for reading, and for writing: a parameter is written in the write slot only, whichever of its IDs is named
(R283). -/
def State.gsrc (s : State) (x : GCtx) (slot : Nat) : Option GRef := s.gref x.run (s.boundId x.job (x.id slot)) false
def State.gdst (s : State) (x : GCtx) (slot : Nat) : Option GRef := s.gref x.run (s.writeId x.job (x.id slot)) true

/-- The parameter entry. -/
def GCtx.param (x : GCtx) : List Byte := ((x.prog.params.find? fun p => p.1 == x.c.param).map (·.2)).getD []

/-- The overflow mode. -/
def GCtx.mode (x : GCtx) : Ovf := if x.c.ieee then .ieee else .sat

/-- Rounding by logical index: to nearest, or stochastic under a seed and a stream (R45, R220). -/
def sr (on : Bool) (seed stream : Nat) (idx : Nat) : Rnd := if on then .sr (ffUniform (firefly seed stream idx)) else .rne

def GCtx.rnd (x : GCtx) : Nat → Rnd := sr x.c.sr (leAt x.param 0 8) (leAt x.param 8 4)

/-- The rows and the columns of a region, clipped to the tensor (Table GRAN-2). -/
def GCtx.rows (x : GCtx) (t : TensorDecl) : List Nat := numsFrom x.c.row (min x.c.nRows (t.rows - x.c.row))
def GCtx.colLo (x : GCtx) (t : TensorDecl) : Nat := x.c.col * tileW t.fmt
def GCtx.cols (x : GCtx) (t : TensorDecl) : List Nat :=
  numsFrom (x.colLo t) (min (x.c.nCols * tileW t.fmt) (t.cols - x.colLo t))

/-- The spans of a region of an operand. -/
def GRef.regionSpans (g : GRef) (rows cols : List Nat) : List BitSpan :=
  (rows.map fun r => (cols.map fun c => g.spansAt r c).flatten).flatten

/-- A write of nothing that stands for the span it covers. -/
def claim (x : BitSpan) : BitWrite := ⟨x, 0⟩

/-! ### READ (R218, R222, R229) -/

/-- Lengths of row runs of 128 from a first row: (row, rows). -/
def rowRuns : Nat → Nat → Nat → List (Nat × Nat)
  | 0, _, _ => []
  | k + 1, row, n => if n = 0 then [] else (row, min 128 n) :: rowRuns k (row + 128) (n - 128)

/-- The checksum tile that follows a tile of integers, with the data tile's tensor: the sums of each segment the tile meets
(R232). -/
def State.checksumTile (s : State) (g : GRef) (dst : TensorDecl) (comp : GRef) (row col vr vc step : Nat) : Tile :=
  let segs := tileSegs g.t row col vr vc
  ⟨{ dataTag dst row col vr vc step with kind := 3 }.encode,
    (segs.map fun k => (numsFrom (2 * k) 2).map fun w => s.gcode comp (w / comp.t.cols) (w % comp.t.cols)).flatten, []⟩

/-- An element that a READ sends has the bits it is stored with: the same format, or words of integers (R266, R274). -/
def readsBits (g : GRef) (dst : TensorDecl) : Bool := g.t.fmt == dst.fmt || g.t.int32 || dst.int32

/-- The columns of row r from c0 as slot_d's format holds them, each with its scale: as they are stored, else converted under
the command's modes (Table GRAN-4 gives READ a seed; DEDUCED, log 19). -/
def State.readRow (s : State) (g : GRef) (dst : TensorDecl) (mode : Ovf) (rnd : Nat → Rnd) (r c0 n : Nat) : List (Nat × Conv) :=
  let cs := numsFrom c0 n
  if readsBits g dst then cs.map fun c => (if g.t.fmt.isMx then s.gscale g r (c / 32) else 0, ⟨s.gcode g r c, false, false⟩)
  else if dst.fmt.isMx then
    ((mxCodes dst.fmt c0 (cs.map fun c => some (s.gval g r c))).zip cs).map fun q =>
      let x := q.1.getD (0, 0)
      (x.1, ⟨x.2, x.1 != 0xFF && (mxElem dst.fmt x.1 (s.gval g r q.2)).sat, false⟩)
  else cs.map fun c => (0, convertElem dst.fmt mode (rnd (elemIndex dst.cols r c)) (s.gval g r c))

/-- The rows of a tile of column block `col` of slot_d: each element with its scale, from the region's columns lo to hi − 1. -/
def State.readRows (s : State) (g : GRef) (dst : TensorDecl) (mode : Ovf) (rnd : Nat → Rnd) (row vr col lo hi : Nat) :
    List (List (Nat × Conv)) :=
  let W := tileW dst.fmt
  let a := max lo (col * W)
  (numsFrom row vr).map fun r => List.replicate (a - col * W) (0, ⟨0, false, false⟩) ++ s.readRow g dst mode rnd r a (min hi ((col + 1) * W) - a)

/-- The tiles of one row run and column block: the scale block, the data tile, the checksum tile. The tag names slot_d's
tensor, and is transposed when slot_a is a view (R222). Columns of the block that the region leaves out are holes. -/
def State.readTile (s : State) (g : GRef) (dst : TensorDecl) (comp : Option GRef) (rows : List (List (Nat × Conv)))
    (step row vr col lo hi : Nat) : List Tile :=
  let W := tileW dst.fmt
  let dst := { dst with viewOf := if g.t.viewOf.isSome then some g.st.id else none }
  let vc := min W (hi - col * W)
  let scales := if dst.fmt.isMx then
      [⟨(scaleTag dst row col vr vc step).encode, (rows.map fun xs => (numsFrom 0 (tileScales dst.fmt)).map fun b =>
        natMax (((xs.drop (32 * b)).take 32).map (·.1))).flatten, []⟩]
    else []
  let data : Tile := ⟨(dataTag dst row col vr vc step).encode,
    (rows.map fun xs => (xs.map fun x => x.2.code) ++ List.replicate (W - xs.length) 0).flatten,
    ((numsFrom 0 vr).map fun i => (numsFrom 0 (lo - col * W)).map fun j => i * W + j).flatten⟩
  let sums := match comp with
    | some k => [s.checksumTile g dst k row col vr vc step]
    | none => []
  scales ++ [data] ++ sums

/-- The events of a tile's conversions, by the stack of the element that is read (R208). -/
def State.readEv (s : State) (g : GRef) (rows : List (List (Nat × Conv))) (row c0 : Nat) : GEv :=
  let hits (f : Conv → Bool) : List Nat := ((rows.zipIdx).map fun xs => (xs.1.zipIdx).filterMap fun x =>
    if f x.1.2 then some (s.spanStack (g.elemSpan (row + xs.2) (c0 + x.2))) else none).flatten
  ⟨hits (·.sat), hits (·.lost)⟩

def State.readEff (s : State) (x : GCtx) : Option GEff :=
  match s.gsrc x x.c.slotA, findTensor x.tensors (x.id x.c.slotD) with
  | some g, some d =>
    let rows := x.rows g.t
    let W := tileW d.fmt
    let lo := x.colLo g.t
    let hi := lo + (x.cols g.t).length
    let blocks := if lo < hi then numsFrom (lo / W) ((hi - 1) / W + 1 - lo / W) else []
    let runs := rowRuns (rows.length / 128 + 1) x.c.row rows.length
    let comp := g.t.companion.bind fun k => s.gref x.run k false
    let step := s.runStep x.run
    let sums := match comp with
      | some k => runs.map (fun rr => (blocks.map fun b =>
          ((tileSegs g.t rr.1 b rr.2 (min W (hi - b * W))).map fun n =>
            (numsFrom (2 * n) 2).map fun w => k.elemSpan (w / k.t.cols) (w % k.t.cols)).flatten).flatten) |>.flatten
      | none => []
    let cut := (runs.map fun rr => blocks.map fun b => (rr, b, s.readRows g d x.mode x.rnd rr.1 rr.2 b lo hi)).flatten
    let evs := cut.map fun q => if readsBits g d then {} else s.readEv g q.2.2 q.1.1 (q.2.1 * W)
    some { reads := g.regionSpans rows (x.cols g.t) ++ sums,
           ev := ⟨(evs.map (·.sat)).flatten, (evs.map (·.lost)).flatten⟩,
           tiles := (cut.map fun q => s.readTile g d comp q.2.2 step q.1.1 q.1.2 q.2.1 lo hi).flatten }
  | _, _ => none

/-! ### COPY and FILL (R221) -/

/-- A code as it is written: a container of UINT10 or UINT12 holds 0 above the value (R32). -/
def storedCode (f : Fmt) (code : Nat) : Nat :=
  match f with
  | .uint10 => code % 2 ^ 10
  | .uint12 => code % 2 ^ 12
  | _ => code

/-- One row copied: codes and scales as they are between two tensors of one format (R266) and the words of integers as bits (R274),
else values converted. DESIGN CHOICE
(log 19): from an MX format, into another MX format too, the exact value of the element is converted, and not its FP32
value. -/
def State.copyRow (s : State) (g d : GRef) (mode : Ovf) (rnd : Nat → Rnd) (r c0 : Nat) (cols : List Nat) :
    List BitWrite × GEv :=
  let live (c : Nat) : Bool := !d.dead r c
  if (g.t.fmt == d.t.fmt || g.t.int32 || d.t.int32) && d.st.winnow.isNone then
    let blocks := (cols.map (· / 32)).eraseDups
    let scales := if d.t.fmt.isMx && live c0 then blocks.map fun b => ⟨d.scaleSpan r b, s.gscale g r b⟩ else []
    (scales ++ d.codeRow r c0 (cols.map fun c => if live c then some (storedCode d.t.fmt (s.gcode g r c)) else none), {})
  else s.valueRow d mode rnd r c0 (cols.map fun c => if live c then some (s.gval g r c) else none)

/-- COPY. DESIGN CHOICE (log 19): where the two operands' formats have another width W, that of slot_d cuts the region. -/
def State.copyEff (s : State) (x : GCtx) : Option GEff :=
  match s.gsrc x x.c.slotA, s.gdst x x.c.slotD with
  | some g, some d =>
    let rows := x.rows d.t
    let cols := x.cols d.t
    let w := joinRows (rows.map fun r => s.copyRow g d x.mode x.rnd r (x.colLo d.t) cols)
    some { reads := g.regionSpans rows cols, writes := w.1, ev := w.2 }
  | _, _ => none

/-- The first event of a list of stacks: FILL counts one for the command (R221). -/
def GEv.once (e : GEv) : GEv := ⟨e.sat.take 1, if e.sat.isEmpty then e.lost.take 1 else []⟩

/-- FILL of the parameter's value, converted once; into integer words its 32 bits as they are (R221, R274). -/
def State.fillEff (s : State) (x : GCtx) : Option GEff :=
  match s.gdst x x.c.slotD with
  | some d =>
    let v := f32Val (BitVec.ofNat 32 (leAt x.param 0 4))
    let rows := x.rows d.t
    let cols := x.cols d.t
    let fill (g : GRef) (c0 : Nat) (cs : List Nat) (r : Nat) : List BitWrite × GEv :=
      if d.t.int32 then (g.codeRow r c0 (cs.map fun c => if g.dead r c then none else some (leAt x.param 0 4)), {})
      else s.valueRow g .sat (fun _ => .rne) r c0 (cs.map fun c => if g.dead r c then none else some v)
    let w := joinRows (if d.t.viewOf.isSome then cols.map (fill d.plain x.c.row rows) else rows.map (fill d (x.colLo d.t) cols))
    some { writes := w.1, ev := w.2.once }
  | none => none

/-! ### WRITE (R219, R222, R485) -/

/-- A tile's rows and column block lie in a WRITE's region. -/
def GranCmd.takes (c : GranCmd) (f : TagF) : Bool :=
  decide (c.row ≤ f.row) && decide (f.row + f.vrows + 1 ≤ c.row + c.nRows) && decide (c.col ≤ f.col)
    && decide (f.col < c.col + c.nCols)

/-- A WRITE of some run takes a tile of a run: the same job, slot_d's tensor, and the region holds it. -/
def State.writeTakes (s : State) (pair q run : Nat) (word : BitVec 128) (trun : Nat) (f : TagF) : Bool :=
  (granCmd word).opcode == 0x02 && s.runJob run == s.runJob trun && (granCmd word).takes f &&
    match s.gctx pair { q := q, run := run, word := word, descs := [], done := false } with
    | some x => x.id x.c.slotD == f.tensor
    | none => false

/-- The WRITE words of a queue in order; page descriptors behind a GATHER are none. -/
def queuedWords : Nat → List (QEntry 128) → List (QEntry 128)
  | _, [] => []
  | k + 1, _ :: es => queuedWords k es
  | 0, e :: es => e :: queuedWords (if (granCmd e.word).opcode = 0x06 then (granCmd e.word).nRows else 0) es

/-- Where the WRITE of a tile stands: in the running list at a place, in a queue, or nowhere. -/
inductive Taker where
  | running (i : Nat)
  | queued
  | nobody
  deriving DecidableEq, Repr

/-- The taker of a tile among queues q to 32 (R485). A queue has 16 entries: what stands behind them the Reeve still holds
(R210). -/
def State.takerFrom (s : State) (pair trun : Nat) (f : TagF) : Nat → Nat → Taker
  | 0, _ => .nobody
  | n + 1, q =>
    let x := s.pair pair
    match findIdxFrom (fun e => e.q == q && s.writeTakes pair q e.run e.word trun f) 0 x.running with
    | some p => .running p.1
    | none =>
      if (queuedWords 0 ((x.queue q).take 16)).any fun e => s.writeTakes pair q e.run e.word trun f then .queued
      else s.takerFrom pair trun f n (q + 1)

def State.taker (s : State) (pair trun : Nat) (f : TagF) : Taker := s.takerFrom pair trun f 33 0

/-- An element of a tile as a WRITE stores it: converted into its tensor's format (R44, Table NUM-6). The words of an integer
tensor and the elements of an MX block are stored as they came. -/
def writeConv (d : GRef) (mode : Ovf) (rnd : Nat → Rnd) (r c code : Nat) : Conv :=
  if d.t.int32 || d.t.fmt.isMx then ⟨code, false, false⟩
  else convertElem d.t.fmt mode (rnd (elemIndex d.t.cols r c)) (decodeElem d.t.fmt code)

/-- A position of a tile is written: valid, inside the tensor and in a live slot (R58, R219, R313). -/
def tileLive (d : GRef) (f : TagF) (i j : Nat) : Bool :=
  f.elemValid d.t.fmt d.t.rows d.t.cols i j && !d.dead (f.row + i) (f.col * tileW d.t.fmt + j)

/-- The writes of a data tile. -/
def State.tileWrites (s : State) (d : GRef) (mode : Ovf) (rnd : Nat → Rnd) (tile : Tile) : List BitWrite × GEv :=
  let f := tagFields tile.tag
  let W := tileW d.t.fmt
  joinRows ((numsFrom 0 (f.vrows + 1)).map fun i =>
    match d.st.winnow with
    | some _ => s.valueRow d mode rnd (f.row + i) (f.col * W)
        ((numsFrom 0 (min W (d.t.cols - f.col * W))).map fun j =>
          if tileLive d f i j then some (decodeElem d.t.fmt (tileAt tile W i j)) else none)
    | none => gatherWrites ((numsFrom 0 W).filterMap fun j =>
        if tileLive d f i j then
          some (s.convWrite d (f.row + i) (f.col * W + j) (writeConv d mode rnd (f.row + i) (f.col * W + j) (tileAt tile W i j)))
        else none))

/-- The same bits at the transposed positions of slot_b's tensor, encoded where that is a Winnow tensor. DESIGN CHOICE (log 19): R219
writes elements, and the scale blocks of an MX tensor in slot_b stay as they are. -/
def State.transWrites (s : State) (d b : GRef) (mode : Ovf) (rnd : Nat → Rnd) (tile : Tile) : List BitWrite :=
  let f := tagFields tile.tag
  let W := tileW d.t.fmt
  let code (i j : Nat) : Option Nat :=
    if tileLive d f i j then some (writeConv d mode rnd (f.row + i) (f.col * W + j) (tileAt tile W i j)).code else none
  ((numsFrom 0 W).map fun j =>
    let ks := (numsFrom 0 (f.vrows + 1)).map fun i => code i j
    match b.st.winnow with
    | some _ => (s.valueRow b mode (fun _ => .rne) (f.col * W + j) f.row (ks.map fun k => k.map (decodeElem d.t.fmt))).1
    | none => b.codeRow (f.col * W + j) f.row ks).flatten

/-- The writes of a scale block. -/
def scaleWrites (d : GRef) (tile : Tile) : List BitWrite :=
  let f := tagFields tile.tag
  let n := tileScales d.t.fmt
  ((numsFrom 0 (f.vrows + 1)).map fun i => (numsFrom 0 (f.vcols + 1)).filterMap fun j =>
    if decide (f.row + i < d.t.rows) && decide (f.col * n + j < scaleColsOf d.t) && !d.dead (f.row + i) 0 then
      some (BitWrite.mk (d.scaleSpan (f.row + i) (f.col * n + j)) (tileAt tile n i j)) else none).flatten

/-- The writes of a checksum tile, into the companion of the integers' tensor (R213, R232). -/
def sumWrites (d k : GRef) (tile : Tile) : List BitWrite :=
  let f := tagFields tile.tag
  let W := tileW d.t.fmt
  let vc := min (f.validCols d.t.fmt) (d.t.cols - f.col * W)
  let segs := tileSegs d.t f.row f.col (f.vrows + 1) vc
  ((segs.zipIdx).map fun p => (numsFrom 0 2).map fun w =>
    let at_ := 2 * p.1 + w
    BitWrite.mk (k.elemSpan (at_ / k.t.cols) (at_ % k.t.cols)) (tile.elems.getD (2 * p.2 + w) 0)).flatten

/-! ### Key-value pages (R181 to R185) -/

/-- The command words of a queue: page descriptors that follow a GATHER are left out (R187). -/
def commandWords : Nat → List (BitVec 128) → List (BitVec 128)
  | _, [] => []
  | k + 1, _ :: ws => commandWords k ws
  | 0, w :: ws => w :: commandWords (if (granCmd w).opcode = 0x06 then (granCmd w).nRows else 0) ws

def granTensor (ts : List TensorDecl) (p : GranProg) (n : Nat) : Option TensorDecl :=
  ((p.slots.find? fun x => x.1 == n).map (·.2)).bind (findTensor ts)

def granParam (p : GranProg) (n : Nat) : List Byte := ((p.params.find? fun x => x.1 == n).map (·.2)).getD []

/-- The ranges of the CRC commands of a queue, as (address, length, written): these alone are virtual addresses (R251). -/
def crcRanges (p : GranProg) : List (Nat × Nat × Bool) :=
  ((commandWords 0 p.entries).map fun w =>
    let e := granParam p (granCmd w).param
    if (granCmd w).opcode = 0x21 then [(leAt e 0 8, leAt e 8 8, false), (leAt e 16 8, 4, true)] else []).flatten

/-- Those of a kernel. -/
def kernelCrcs (k : KernelDecl) : List (Nat × Nat × Bool) :=
  ((((k.plans.map (·.pieces)).flatten.map (·.grans)).flatten).map crcRanges).flatten

/-- The slot table of a ticket in memory: the session number of each batch slot. -/
def State.slotTable (s : State) (f batch : Nat) (ticket : List Byte) : List Nat :=
  (numsFrom 0 batch).map fun i => leNat (s.vaBytes f (leAt ticket 24 8 + 2 * i) 2)

/-- The session in a batch slot of a run's step (Table BUND-5). -/
def State.slotSession (s : State) (run slot : Nat) : Nat :=
  match s.stepOfRun run with
  | some t => t.session slot
  | none => 0

/-- The cache declaration of a run's cache tensor. -/
def State.cacheDecl (s : State) (job cache : Nat) : Option CacheDecl :=
  (s.jobBundle job).bind fun b => b.decl.caches.find? fun c => c.tensor == cache

/-- The place of a page in the page table: its slot for a ring (R190). -/
def ringPlace (d : Option CacheDecl) (page : Nat) : Nat :=
  match d with
  | some c => match c.ringSlots with
    | some n => if n = 0 then page else page % n
    | none => page
  | none => page

/-- The page-table entry of a page of a session. -/
def State.kvEntry (s : State) (job session cache layer hg : Nat) (isValue : Bool) (page : Nat) : Option KvPage :=
  let k : KvRef := ⟨session, cache, layer, hg, isValue, ringPlace (s.cacheDecl job cache) page⟩
  s.loader.pages.find? fun p => p.node.isNone && p.key == k

/-- A page of a prefix node. -/
def State.nodeEntry (s : State) (node cache layer hg : Nat) (isValue : Bool) (page : Nat) : Option KvPage :=
  s.loader.pages.find? fun p => p.node == some node && p.key.cache == cache && p.key.layer == layer
    && p.key.headGroup == hg && p.key.isValue == isValue && p.key.page == page

/-- The frame a page-table entry leads to, and whether it is shared (R186, R187). -/
def State.kvFrame (s : State) (job session cache layer hg : Nat) (isValue : Bool) (page : Nat) :
    Option (Nat × Option Nat × Nat) :=
  match s.kvEntry job session cache layer hg isValue page with
  | some p =>
    if p.entry.state = 1 then some (p.entry.target, none, p.entry.fmt)
    else if p.entry.state = 3 then
      match s.nodeEntry p.entry.target cache layer hg isValue page with
      | some q => if q.entry.state = 1 then some (q.entry.target, some p.entry.target, q.entry.fmt) else none
      | none => none
    else none
  | none => none

/-- The frame field of a descriptor that stands for a page of a masked slot, whose rows read +0 (R313): it names no frame of a
pool (DESIGN CHOICE, log 19: no rule says how the Reeve writes such a descriptor). -/
def noFrame : Nat := 2 ^ 26 - 1

/-- A page header's tag (R182). -/
def headerTag (fmt cache page layer hg vrows vcols step : Nat) : TagF :=
  ⟨5, fmt, 0, cache, page, layer * 2 ^ 12 + hg, vrows, vcols, step % 256⟩

def bytesWrite (a : Nat) (bs : List Byte) : BitWrite := ⟨⟨none, 8 * a, 8 * bs.length⟩, leNat bs⟩

/-- A run of rows into one page: rows lo to lo + n − 1 of the page from row i of the tile. None where it breaks R184, and where the
entry names no frame (DESIGN CHOICE, log 19: reason 0x11 then too). A page
of a VALID prefix node is not written again (R197): the run is discarded (DESIGN CHOICE, log 19). -/
def State.pageRun (s : State) (x : GCtx) (t : TensorDecl) (slot cache layer hg : Nat) (isValue : Bool) (tile : Tile)
    (page lo n i : Nat) : Option (List BitWrite × GEv) :=
  let f := tagFields tile.tag
  let W := tileW t.fmt
  let session := s.slotSession x.run slot
  match s.kvFrame x.job session cache layer hg isValue page with
  | none => none
  | some (frame, node, _) =>
    let old := parseHeader (s.bytesAt (frameHeader frame) 64)
    let o := tagFields old.tag
    let last := lo + n - 1
    if node.any fun k => s.loader.nodes.any fun y => y.index == k && y.state == 1 then some ([], {})
    else if (o.row = page && o.vrows + 1 < lo) || (o.row ≠ page && lo ≠ 0) then none
    else
      let vrows := if o.row = page then max o.vrows last else last
      let step := s.runStepNumber x.run
      let h : PageHeader := ⟨(headerTag t.fmt.code cache page layer hg vrows f.vcols step).encode,
        if node.isSome then 0 else session, isValue, node.isSome, x.f, node.getD 0, step % 2 ^ 32⟩
      let span (k j : Nat) : BitSpan := ⟨none, 8 * (framePayload frame + (lo + k) * pageRowBytes t.fmt) + j * t.fmt.bits, t.fmt.bits⟩
      let rows := gatherWrites (((numsFrom 0 n).map fun k => (numsFrom 0 W).filterMap fun j =>
        if f.elemValid t.fmt t.rows t.cols (i + k) j then
          let c := convertElem t.fmt x.mode (x.rnd (elemIndex t.cols (f.row + i + k) (f.col * W + j))) (decodeElem t.fmt (tileAt tile W (i + k) j))
          let at_ := [s.spanStack (span k j)]
          some (BitWrite.mk (span k j) c.code, GEv.mk (if c.sat then at_ else []) (if c.lost then at_ else []))
        else none).flatten)
      some (rows.1 ++ [bytesWrite (frameHeader frame) (encodeHeader h)], rows.2)

/-- A tile's rows as runs of pages: (page, first row in it, rows, row of the tile). -/
def pageRuns : Nat → Nat → Nat → Nat → List (Nat × Nat × Nat × Nat)
  | 0, _, _, _ => []
  | k + 1, key, n, i =>
    if n = 0 then []
    else
      let m := min n (64 - key % 64)
      (key / 64, key % 64, m, i) :: pageRuns k (key + m) (n - m) (i + m)

/-- The page headers that runs of rows read (R184). -/
def State.pageHeaders (s : State) (x : GCtx) (slot cache layer hg : Nat) (isValue : Bool) (runs : List (Nat × Nat × Nat × Nat)) :
    List BitSpan :=
  runs.filterMap fun p => (s.kvFrame x.job (s.slotSession x.run slot) cache layer hg isValue p.1).map fun r =>
    ⟨none, 8 * frameHeader r.1, 512⟩

/-- The writes of a tile into the pages of a cache tensor, and whether a run of it breaks R184; such a run is discarded, and
the others are written: the page of the first such run. A masked slot writes none (R313). -/
def State.pageWrites (s : State) (x : GCtx) (t : TensorDecl) (slot cache layer hg : Nat) (isValue : Bool) (tile : Tile) :
    (List BitWrite × GEv) × Option Nat :=
  let f := tagFields tile.tag
  if !bitOf (leAt (s.runTicket x.run) 32 32) slot then (([], {}), none)
  else
    let ws := (pageRuns 4 f.row (min (f.vrows + 1) (t.rows - f.row)) 0).map fun p =>
      (p.1, s.pageRun x t slot cache layer hg isValue tile p.1 p.2.1 p.2.2.1 p.2.2.2)
    (joinRows (ws.filterMap (·.2)), (ws.find? fun w => w.2.isNone).map (·.1))

/-- The stack that holds the header of a page of a cache tensor (R208). -/
def State.headerStack (s : State) (x : GCtx) (slot cache layer hg : Nat) (isValue : Bool) (page : Nat) : Option Nat :=
  (s.kvFrame x.job (s.slotSession x.run slot) cache layer hg isValue page).map fun r => stackOfPa (frameHeader r.1)

/-! ### Failures -/

/-- FAULT_INFO of a pair (Table GRAN-9). -/
def granInfo (reason opcode q : Nat) : Word := infoOf [(reason, 0), (opcode, 8), (q, 14)]

/-- An uncorrectable sector that a command reads: fault 0x41 on the page of its Granary (R258, Table GRAN-10). -/
def badSector (opcode q : Nat) (job : Option Nat) (sec : Nat) (s : State) : State :=
  s.fault (stackPage .granary (stackOfPa sec)) 0x41 (granInfo 0 opcode q) job sec

/-- A fault of a pair is captured on the page of the Granary that raised it (R208); one that no granule places on that of the
stack with the even number (DESIGN CHOICE, log 18). -/
def State.pairFault (s : State) (pair reason opcode q : Nat) (job : Option Nat) (stack : Option Nat := none) : State :=
  s.checkFault (stackPage .granary (stack.getD (2 * pair))) (granInfo reason opcode q) job

/-! ### Accepting a tile (R219, R485) -/

/-- Tag, position and elements of a tile that a running WRITE accepts. -/
def State.tileEff (s : State) (x : GCtx) (tile : Tile) : Option GEff :=
  let f := tagFields tile.tag
  match findTensor x.tensors f.tensor with
  | none => none
  | some t =>
    match t.loc with
    | .kv slot cache layer hg isValue =>
      let w := s.pageWrites x t slot cache layer hg isValue tile
      some { reads := s.pageHeaders x slot cache layer hg isValue (pageRuns 4 f.row (min (f.vrows + 1) (t.rows - f.row)) 0),
             writes := w.1.1, ev := w.1.2, reject := w.2.map fun _ => 0x11,
             rejectAt := w.2.bind (s.headerStack x slot cache layer hg isValue) }
    | _ =>
      match s.gref x.run (s.boundId x.job f.tensor) true with
      | none => none
      | some d =>
        if f.kind = 2 then some { writes := scaleWrites d tile }
        else if f.kind = 3 then
          match t.companion.bind fun k => s.gref x.run k true with
          | some k => some { writes := sumWrites d k tile }
          | none => some {}
        else
          let plain := match f.flag flWinnow, t.winnow with
            | true, some v => unwinnow t v tile
            | _, _ => tile
          let w := s.tileWrites d x.mode x.rnd plain
          let tr := if x.c.slotB = 0xF then [] else match s.gdst x x.c.slotB with
            | some b => s.transWrites d b x.mode x.rnd plain
            | none => []
          some { writes := w.1 ++ tr, ev := w.2 }

/-- Every tile that holds row r of a WRITE's region has been accepted: a data tile in every column block, its scale block for
an MX tensor, and its checksum tile for integers that have a companion (R485). -/
def rowArrived (t : TensorDecl) (c : GranCmd) (got : List (Nat × Nat × Nat × Nat)) (r : Nat) : Bool :=
  ((numsFrom c.col c.nCols).filter fun b => t.loc matches .kv .. || decide (b * tileW t.fmt < t.cols)).all fun b =>
    let held (k : Nat) : Bool := got.any fun g => g.1 == k && decide (g.2.1 ≤ r) && decide (r < g.2.1 + g.2.2.1) && g.2.2.2 == b
    held 0 && (!t.fmt.isMx || held 2) && (t.companion.isNone || held 3)

/-- A WRITE has all its rows. -/
def GCtx.writeFull (x : GCtx) (got : List (Nat × Nat × Nat × Nat)) : Bool :=
  match findTensor x.tensors (x.id x.c.slotD) with
  | some t => (x.rows t).all (rowArrived t x.c got)
  | none => false

def State.setRunning (s : State) (pair i : Nat) (e : GranRun) : State :=
  let x := s.pair pair
  s.setPair pair { x with running := listSet x.running i e }

/-! A data tile that fails its checks is discarded with all that belongs to it (R55): its scale block, which comes ahead of it and
is held until then, and its checksum tile, which follows. -/

/-- The data tile of a block or of a checksum tile was accepted. -/
def GranRun.hasData (e : GranRun) (f : TagF) : Bool := e.got.contains (0, f.row, f.vrows + 1, f.col)

/-- A WRITE discards the checksum tile of a data tile that it did not accept. -/
def GranRun.discards (e : GranRun) (tile : Tile) : Bool :=
  (tagFields tile.tag).kind == 3 && !e.hasData (tagFields tile.tag)

/-- The tiles that are stored as a tile is accepted: none for a scale block whose data tile has not come, with a data tile the
block held for it. -/
def GranRun.withHeld (e : GranRun) (tile : Tile) : List Tile :=
  if (tagFields tile.tag).kind = 2 && !e.hasData (tagFields tile.tag) then []
  else if (tagFields tile.tag).kind = 0 then (e.held.filter fun b => scaleFits (some (0, b)) tile.tag) ++ [tile]
  else [tile]

/-- A WRITE after it accepted a tile. -/
def GranRun.accept (e : GranRun) (tile : Tile) : GranRun :=
  let f := tagFields tile.tag
  let rest := e.held.filter fun b => !scaleFits (some (0, b)) tile.tag
  { e with got := (f.kind, f.row, f.vrows + 1, f.col) :: e.got,
           held := if f.kind = 2 && !e.hasData f then rest ++ [tile] else rest }

/-- The effect of tiles that are stored together. -/
def State.tileEffs (s : State) (x : GCtx) : List Tile → Option GEff
  | [] => some {}
  | t :: ts =>
    match s.tileEff x t, s.tileEffs x ts with
    | some a, some b => some { a with reads := a.reads ++ b.reads, writes := a.writes ++ b.writes, ev := a.ev.add b.ev,
                                      reject := a.reject.orElse fun _ => b.reject, rejectAt := a.rejectAt.orElse fun _ => b.rejectAt }
    | _, _ => none

/-- The running WRITE at place i accepts a tile: tag checks, then the elements. -/
def State.acceptTile (s : State) (pair i trun : Nat) (tile : Tile) : State :=
  match (s.pair pair).running[i]? with
  | none => s
  | some e =>
    let job := s.runJob e.run
    match tagFault .pair (s.tensors trun) (s.runStep trun) false tile.tag with
    | some r => (s.setRunning pair i { e with held := e.held.filter fun b => !scaleFits (some (0, b)) tile.tag }).pairFault pair r 0x02 e.q job
    | none =>
      if e.discards tile then s
      else match s.gctx pair e with
      | none => s
      | some x =>
        match s.tileEffs x (e.withHeld tile) with
        | none => s
        | some eff =>
          let onBad := badSector 0x02 e.q job
          let bad := s.badRead eff.reads
          let s := s.eccRead onBad eff.reads
          if !bad.isEmpty then s
          else
          let s := (s.storeAll onBad eff.writes).countEv eff.ev
          match eff.reject with
          | some r => s.pairFault pair r 0x02 e.q job eff.rejectAt
          | none =>
            let e := e.accept tile
            s.setRunning pair i { e with done := x.writeFull e.got }

/-- A tile reaches a pair (R485). -/
def State.pairArrive (s : State) (pair trun : Nat) (tile : Tile) : State :=
  let f := tagFields tile.tag
  let s := s.wakeStacks pair
  match s.taker pair trun f with
  | .running i => s.acceptTile pair i trun tile
  | .queued =>
    match tagFault .pair (s.tensors trun) (s.runStep trun) false tile.tag with
    | some r => s.pairFault pair r 0 0 (s.runJob trun)
    | none => let x := s.pair pair; s.setPair pair { x with tiles := x.tiles ++ [(trun, tile)] }
  | .nobody =>
    s.pairFault pair ((tagFault .pair (s.tensors trun) (s.runStep trun) false tile.tag).getD 0x15) 0 0 (s.runJob trun)

/-- The way of a tile of a run to a pair over the bridges: from the pair whose command sent it, else from the run's die. -/
def State.wayToPair (s : State) (run : Nat) (tile : Tile) (p : Nat) : List Stop :=
  match s.tileFrom run tile, (s.run? run).map (·.die) with
  | some k, _ => if k = p then [] else s.pairsWay k p
  | none, some d => s.toPairWay d p
  | none, none => []

/-- A tile reaches a pair by a way whose ends are in service (R12 to R14, R209). -/
def execTileArrivalAtPair (pair run : Nat) (tile : Tile) (s : State) : Host.Outcome State Fault Refusal :=
  if s.up && dieOk pair && s.wayOpen (s.wayToPair run tile pair) then
    .next ((s.withFlight (s.flight.erase (run, tile))).pairArrive pair run tile)
  else .next s

/-- The tiles at a pair's input in order: each goes to its running WRITE or waits on. -/
def takeWaiting (pair : Nat) : List (Nat × Tile) → State → State
  | [], s => s
  | p :: ps, s => takeWaiting pair ps (s.pairArrive pair p.1 p.2)

/-- What waits at a pair's input is offered to the WRITEs that run. -/
def State.takeParked (s : State) (pair : Nat) : State :=
  let x := s.pair pair
  takeWaiting pair x.tiles (s.setPair pair { x with tiles := [] })

/-! ### Running a command -/

/-- The first running command of a queue with an opcode and no effect yet, with its place. -/
def State.granFirst (s : State) (pair q op : Nat) : Option (Nat × GranRun) :=
  findIdxFrom (fun e => e.q == q && (granCmd e.word).opcode == op && !e.done) 0 (s.pair pair).running

/-- Events of gathered pages and of mismatching segments, by stack (R208). -/
def State.countGran (s : State) (eff : GEff) : State :=
  (numsFrom 0 16).foldl (fun s k =>
    let pg := stackPage .granary k
    let s := s.bump pg gatherCount_count (eff.gathered.count k)
    let s := s.bump pg widenCount_count (eff.widened.count k)
    s.bump pg cksumFailCount_count (eff.mismatch.count k)) (s.countEv eff.ev)

/-- A mismatch of checksums raises 0x45 (R232). -/
def mismatchFaults (opcode q : Nat) (job : Option Nat) : List Nat → State → State
  | [], s => s
  | k :: ks, s => mismatchFaults opcode q job ks (s.fault (stackPage .granary k) 0x45 (granInfo 0x14 opcode q) job)

/-- The destinations in other packages of the tiles that a command sends, as (package index, logical die) (R229). -/
def GCtx.remote (x : GCtx) : List (Nat × Nat) := (x.prog.remote.filter fun r => r.1 == x.c.slotA).map (·.2)

/-- Send tiles to one place of another package. -/
def sendTiles (x : GCtx) (dest : Nat × Nat) : List Tile → State → State
  | [], s => s
  | t :: ts, s =>
    sendTiles x dest ts ((s.withFlight (s.flight ++ [(x.run, t)])).sendTile x.job x.run dest.1 dest.2
      (findTensor x.tensors (tagFields t.tag).tensor) t)

def sendAll (x : GCtx) (tiles : List Tile) : List (Nat × Nat) → State → State
  | [], s => s
  | dest :: rest, s =>
    let s := sendTiles x dest tiles s
    sendAll x tiles rest (s.withFerry { s.ferry with sent := (x.pair * 33 + x.q, x.job, dest.1) :: s.ferry.sent })

/-- The tiles of a command leave: into flight, and to other packages where its operand entry says so. Between two dies of this
package no Ferry link carries them (R12). -/
def State.emitTiles (s : State) (pair : Nat) (e : GranRun) (tiles : List Tile) : State :=
  match s.gctx pair e with
  | some x =>
    let own := ((s.job? x.job).map (·.pkg)).getD 0
    let away := x.remote.filter fun r => r.1 != own
    let s := if x.remote.isEmpty || x.remote.any (·.1 == own) then s.withFlight (s.flight ++ tiles.map fun t => (e.run, t)) else s
    sendAll x tiles away s
  | none => s

/-- The passes of a run's kernel that wait for tiles without a key are not issued (R178). -/
def State.skipTiles (s : State) (run : Nat) (tiles : List (Nat × Nat × Nat)) : State :=
  if tiles.isEmpty then s
  else
    let same (r : Nat) : Bool := match s.run? r, s.run? run with
      | some a, some b => a.job == b.job && a.step == b.step && a.place == b.place
      | _, _ => false
    let mark (e : QEntry 256) : QEntry 256 := if same e.run && e.tile.any tiles.contains then { e with skip := true } else e
    s.withLooms (SMap.mapF (fun _ => {}) (fun _ x => { x with queue := x.queue.map mark }) s.looms)

/-- Take a command's effect. A command that reads an uncorrectable sector sends and writes nothing and does not complete
(DESIGN CHOICE, log 18). -/
def State.applyEff (s : State) (pair i : Nat) (e : GranRun) (eff : GEff) : State :=
  let op := (granCmd e.word).opcode
  let job := s.runJob e.run
  let onBad := badSector op e.q job
  let bad := s.badRead eff.reads
  let s := s.eccRead onBad eff.reads
  if !bad.isEmpty then s
  else match eff.reject with
    | some r => (s.countGran eff).pairFault pair r op e.q job eff.rejectAt
    | none =>
      let s := mismatchFaults op e.q job eff.mismatch ((s.storeAll onBad eff.writes).countGran eff)
      ((s.emitTiles pair e eff.tiles).skipTiles e.run eff.noKeys).setRunning pair i { e with done := true, sent := eff.tiles }

/-- Run the first waiting command of a queue that has an opcode. -/
def State.granRun (s : State) (pair q op : Nat) (f : GCtx → Option GEff) : State :=
  match s.granFirst pair q op with
  | some (i, e) =>
    match (s.gctx pair e).bind f with
    | some eff => if s.up then s.applyEff pair i e eff else s
    | none => s
  | none => s

def execGranaryNop (pair q : Nat) (s : State) : Host.Outcome State Fault Refusal :=
  match s.granFirst pair q 0x00 with
  | some (i, e) => .next (s.setRunning pair i { e with done := true })
  | none => .next s

def execRead (pair q : Nat) (s : State) : Host.Outcome State Fault Refusal := .next (s.granRun pair q 0x01 s.readEff)
def execCopy (pair q : Nat) (s : State) : Host.Outcome State Fault Refusal := .next (s.granRun pair q 0x03 s.copyEff)
def execFill (pair q : Nat) (s : State) : Host.Outcome State Fault Refusal := .next (s.granRun pair q 0x04 s.fillEff)

/-- A WRITE that has all its rows is done; one whose region holds no row has them at once. -/
def State.writeSettle (s : State) (pair q : Nat) : State :=
  match s.granFirst pair q 0x02 with
  | some (i, e) =>
    match s.gctx pair e with
    | some x => if x.writeFull e.got then s.setRunning pair i { e with done := true } else s
    | none => s
  | none => s

/-- A started WRITE takes the tiles of its region that wait at the pair's input. -/
def execWrite (pair q : Nat) (s : State) : Host.Outcome State Fault Refusal :=
  match s.granFirst pair q 0x02 with
  | some _ =>
    .next (if s.up then (s.takeParked pair).writeSettle pair q else s)
  | none => .next s

/-! ### SIGNAL, WAIT and completion (R236, R237) -/

/-- A signal of a pair crosses the Square die to a Bell of another die (R13). -/
def State.signalOpen (s : State) (pair : Nat) (b : GranBellOp) : Bool :=
  match s.dieOf b.die with
  | some d => s.wayOpen (s.pairMessageWay pair d)
  | none => true

def execGranaryWait (pair q : Nat) (s : State) : Host.Outcome State Fault Refusal :=
  match s.granFirst pair q 0x3D with
  | some (i, e) =>
    match s.granWait e.run e.at_ e.word with
    | some w => .next (if (s.bell w.die w.bell).satisfies w.value then s.setRunning pair i { e with done := true }
        else s.errorWait (.queue pair q))
    | none => .next s
  | none => .next s

/-- A tile waits at the input of a pair: it has not been accepted (R485). -/
def State.parked (s : State) (t : Nat × Tile) : Bool := s.pairs.any fun p => p.2.tiles.contains t

/-- A command's effect has taken place and every tile it sent was accepted (R237). -/
def State.granComplete (s : State) (e : GranRun) : Bool :=
  e.done && e.sent.all fun t => !s.flight.contains (e.run, t) && !s.parked (e.run, t)

/-- The first complete command of the queue leaves; each stack counts its half (R208, R237). -/
def execGranaryCommandComplete (pair q : Nat) (s : State) : Host.Outcome State Fault Refusal :=
  let x := s.pair pair
  match findIdxFrom (fun e => e.q == q && s.granComplete e) 0 x.running with
  | some (i, _) =>
    let s := s.setPair pair { x with running := x.running.eraseIdx i }
    .next ((s.bump64 (stackPage .granary (2 * pair)) cmdCountLo_count cmdCountHi_count).bump64
      (stackPage .granary (2 * pair + 1)) cmdCountLo_count cmdCountHi_count)
  | none => .next s

end Sys2Proof.Machine
end

