-- ==== Sys2Proof/Machine/GranaryOps.lean ====
section
/-! DEFINITION. Granary's page gather, its reductions, the optimizer, SCRUB and CRC, and the start of a command
(09_granary.md, R211, R216, R230 to R236; 08_attention_and_kv.md, R175, R176, R187 to R190, R203). -/

namespace Sys2Proof.Machine

/-! ### GATHER (R189, R203, R230) -/

/-- Checks 1 to 6 of Table TAG-4 on a page header's tag (R189). -/
def headerTagFault (ts : List TensorDecl) (tag : BitVec 128) : Option Nat :=
  let f := tagFields tag
  if !tagCheckOk tag then some 0x01
  else if f.kind ≠ 5 then some 0x02
  else if !f.zerosOk then some 0x03
  else if !f.extentOk ((Fmt.ofCode f.fmt).getD .fp32) then some 0x04
  else if (findTensor ts f.tensor).isNone then some 0x06
  else none

/-- The header fields agree with the descriptor, the command's cache tensor and the job (R189). -/
def headerMatches (h : PageHeader) (d : PageDesc) (cache f : Nat) : Bool :=
  let t := tagFields h.tag
  t.fmt == d.srcFmt && t.row == d.page && t.col == d.layer * 2 ^ 12 + d.headGroup && t.tensor == cache
    && h.session == d.session && h.shared == d.shared && h.isValue == d.isValue && h.function == f

/-- A gathered page: its descriptor, rows and columns written, and its codes in decl_fmt. -/
structure GPage where
  d : PageDesc
  rows : Nat
  cols : Nat
  codes : List (List Nat)
  deriving DecidableEq, Repr

/-- An element widened; exact for every finite value (R49, R203). -/
def widenCode (src dst : Fmt) (code : Nat) : Nat :=
  if src = dst then code else (convertElem dst .sat .rne (decodeElem src code)).code

/-- The page formats that a run's kernel allows for a cache tensor (R204). -/
def State.allowedFmts (s : State) (x : GCtx) (cache : Nat) : List Fmt :=
  match (s.run? x.run).bind fun r => (s.jobBundle r.job).bind fun b => b.decl.kernels[r.kernel]? with
  | some k => ((k.caches.find? fun u => u.cache == cache).map (·.allow)).getD []
  | none => []

/-- A page of one format may be gathered as another: the same, or a pair of Table ATTN-6 in the kernel's allow list (R203). -/
def State.mayWiden (s : State) (x : GCtx) (cache : Nat) (src dst : Fmt) : Bool :=
  src == dst || (widenOk src dst && (s.allowedFmts x cache).contains src)

/-- The format that a run's kernel declares for a cache tensor (R181). -/
def State.declaredFmt (s : State) (x : GCtx) (cache : Nat) : Option Fmt :=
  ((s.run? x.run).bind fun r => (s.jobBundle r.job).bind fun b => b.decl.kernels[r.kernel]?).bind fun k =>
    (k.caches.find? fun u => u.cache == cache).map (·.fmt)

/-- A page behind a descriptor, or the reason that it fails R189. DESIGN CHOICE (log 19): a page that may not be widened to the
format that the kernel declares fails as its header would. -/
def State.gatherPage (s : State) (x : GCtx) (cache : Nat) (d : PageDesc) : Except Nat GPage :=
  let h := parseHeader (s.bytesAt (frameHeader d.frame) 64)
  let W := tileW ((Fmt.ofCode d.declFmt).getD .fp32)
  if d.frame = noFrame then .ok ⟨d, 64, W, List.replicate 64 (List.replicate W 0)⟩
  else match headerTagFault x.tensors h.tag with
  | some r => .error r
  | none =>
    let raw := s.bytesAt (frameHeader d.frame) 64
    if !headerCrcOk raw || !headerMatches h d cache x.f then .error 0x10
    else
      let src := (Fmt.ofCode d.srcFmt).getD .fp32
      let dst := (Fmt.ofCode d.declFmt).getD .fp32
      let t := tagFields h.tag
      if !s.mayWiden x cache src dst || (s.declaredFmt x cache).any (· != dst) then .error 0x10
      else
      let cols := min (t.validCols src) (tileW dst)
      .ok ⟨d, t.vrows + 1, cols, (numsFrom 0 (t.vrows + 1)).map fun r => (numsFrom 0 cols).map fun c =>
        widenCode src dst (s.bitsIn ⟨none, 8 * (framePayload d.frame + r * pageRowBytes src) + c * src.bits, src.bits⟩)⟩

/-- A page is short though the next one belongs to the same head-map tile of κ keys (R189). -/
def shortBefore (kappa : Nat) (p : GPage) : Option PageDesc → Bool
  | some d => kappa != 0 && !p.d.isValue && decide (p.rows < 64) && p.d.page * 64 / kappa == d.page * 64 / kappa
  | none => false

/-- The pages of a command in order, up to the first failure, with its reason and its descriptor. -/
def State.gatherPages (s : State) (x : GCtx) (cache kappa : Nat) : List PageDesc → List GPage × Option (Nat × PageDesc)
  | [] => ([], none)
  | d :: ds =>
    match s.gatherPage x cache d with
    | .error r => ([], some (r, d))
    | .ok p =>
      if shortBefore kappa p ds.head? then ([], some (0x10, d))
      else
      let ps := s.gatherPages x cache kappa ds
      (p :: ps.1, ps.2)

/-- Row of keys `key` among pages of keys, if one of them holds it. -/
def keyRow (ps : List GPage) (key : Nat) : Option (GPage × List Nat) :=
  ps.findSome? fun p => if p.d.page = key / 64 then (p.codes[key % 64]?).map fun r => (p, r) else none

/-- Extent flags and tag of a gathered tile. -/
def gatherTag (t : TensorDecl) (transposed : Bool) (row col vr vc step : Nat) : BitVec 128 :=
  let f := dataTag t row col vr vc step
  { f with flags := f.flags % 4 + f.flags / 8 * 8 + (if transposed then flTransposed else 0) }.encode

/-- A head-map tile of keys key0 up, n of them (R175): its rows are its keys. -/
def keyTile (t : TensorDecl) (ps : List GPage) (key0 n step : Nat) : Tile :=
  let W := tileW t.fmt
  let cols := ((keyRow ps key0).map fun p => p.1.cols).getD 0
  ⟨gatherTag t false key0 0 n cols step, ((numsFrom key0 n).map fun k =>
    let r := ((keyRow ps k).map (·.2)).getD []
    (numsFrom 0 W).map fun j => r.getD j 0).flatten, []⟩

/-- Key pages form whole tiles of κ keys: each tile's keys are present from its first up, and only a last page is short. -/
def keyRuns (ps : List GPage) (kappa : Nat) : Option (List (Nat × Nat)) :=
  let bases := ((ps.map fun p => (numsFrom 0 (ceilDiv p.rows kappa)).map fun i => (p.d.page * 64 + i * kappa) / kappa).flatten).eraseDups
  let runs := bases.map fun b =>
    let here := (numsFrom (b * kappa) kappa).filter fun k => (keyRow ps k).isSome
    (b * kappa, here.length, here == numsFrom (b * kappa) here.length)
  if kappa = 0 || runs.any fun r => !r.2.2 || r.2.1 == 0 then none else some (runs.map fun r => (r.1, r.2.1))

/-- A value tile of one head and key block (R176): row n is value column n of the head along the block's keys. Keys that
no page holds are masked: past the last one by VCOLS, elsewhere as holes. -/
def valueTile (t : TensorDecl) (ps : List GPage) (headDim head block step : Nat) : Tile :=
  let W := tileW t.fmt
  let keys := (numsFrom (block * W) W).map fun k => (keyRow ps k).map (·.2)
  let last := natMax ((keys.zipIdx).map fun p => if p.1.isSome then p.2 + 1 else 0)
  ⟨gatherTag t true (head * headDim) block headDim last step,
    ((numsFrom 0 headDim).map fun n => keys.map fun k => (k.getD []).getD (head * headDim + n) 0).flatten,
    ((numsFrom 0 headDim).map fun n => (keys.zipIdx).filterMap fun p =>
      if p.1.isNone && p.2 < last then some (n * W + p.2) else none).flatten⟩

/-- The tiles of a command's pages, a value tile for each key block; none where they form no whole tiles (R230). -/
def gatherTiles (t : TensorDecl) (headDim step : Nat) (ps : List GPage) : Option (List Tile) :=
  match ps with
  | [] => none
  | p :: _ =>
    let same := ps.all fun q => q.d.isValue == p.d.isValue && q.d.layer == p.d.layer && q.d.headGroup == p.d.headGroup
      && q.d.headSel == p.d.headSel && q.d.declFmt == p.d.declFmt
    let W := tileW t.fmt
    let rising := (ps.zip (ps.drop 1)).all fun q => decide (q.1.d.page < q.2.d.page)
    if !same || !rising || t.fmt.code != p.d.declFmt || headDim = 0 then none
    else if p.d.isValue then
      some (((ps.map fun q => q.d.page * 64 / W).eraseDups).map fun block => valueTile t ps headDim p.d.headSel block step)
    else (keyRuns ps (128 / (W / headDim))).map fun rs => rs.map fun r => keyTile t ps r.1 r.2 step

/-- The score tiles of κ keys of a page that none of its rows lies in. -/
def emptyTiles (t : TensorDecl) (kappa : Nat) (p : GPage) : List (Nat × Nat × Nat) :=
  if p.d.isValue || kappa = 0 then []
  else (numsFrom (ceilDiv p.rows kappa) (64 / kappa - ceilDiv p.rows kappa)).map fun i => (t.id, p.d.page * 64 + i * kappa, 0)

/-- The header of a descriptor, and the payload rows of a page up to its VROWS (R230). -/
def headerSpan (d : PageDesc) : BitSpan := ⟨none, 8 * frameHeader d.frame, 512⟩
def pageSpans (p : GPage) : List BitSpan :=
  if p.d.frame = noFrame then [] else
  [headerSpan p.d, ⟨none, 8 * framePayload p.d.frame, 8 * p.rows * pageRowBytes ((Fmt.ofCode p.d.srcFmt).getD .fp32)⟩]

def State.gatherEff (s : State) (x : GCtx) : Option GEff :=
  let cache := x.id x.c.slotA
  match findTensor x.tensors (x.id x.c.slotD), s.cacheDecl x.job cache with
  | some t, some cd =>
    let stackFor (d : PageDesc) : Nat := stackOfPa (frameHeader d.frame)
    let kappa := if cd.headDim = 0 then 0 else 128 / (tileW t.fmt / cd.headDim)
    let (ps, bad) := s.gatherPages x cache kappa (x.descs.map pageDesc)
    let eff : GEff := { reads := (ps.map pageSpans).flatten ++ (bad.map fun b => headerSpan b.2).toList,
                        gathered := (ps.filter fun p => p.d.frame != noFrame).map fun p => stackFor p.d,
                        widened := (ps.filter fun p => p.d.srcFmt != p.d.declFmt).map fun p => stackFor p.d }
    match bad, gatherTiles t cd.headDim (s.runStep x.run) ps with
    | some b, _ => some { eff with reject := some b.1, rejectAt := some (stackFor b.2) }
    | none, some ts => some { eff with tiles := ts, noKeys := (ps.map (emptyTiles t kappa)).flatten }
    | none, none => some { eff with reject := some 0x13 }
  | _, _ => none

/-- Pages whose frames a gather has read are read now (R200). -/
def State.readFrames (s : State) (fs : List Nat) : State :=
  s.withLoader { s.loader with pages := s.loader.pages.map fun p =>
    if p.entry.state = 1 && fs.contains p.entry.target then { p with lastRead := s.now } else p }

/-- A GATHER that has sent its tiles has read the pages of its descriptors. -/
def State.gatherRun (s : State) (pair q : Nat) : State :=
  let t := s.granRun pair q 0x06 s.gatherEff
  match s.granFirst pair q 0x06 with
  | some (i, e) =>
    if ((t.pair pair).running[i]?).any (·.done) then t.readFrames (e.descs.map fun w => (pageDesc w).frame) else t
  | none => t

def execGather (pair q : Nat) (s : State) : Host.Outcome State Fault Refusal := .next (s.gatherRun pair q)

/-! ### TREE_ADD (R115, R231) -/

/-- The INT32 sum, saturating (R43). -/
def satAdd32 (a b : Nat) : Conv :=
  let v := toSigned 32 a + toSigned 32 b
  if v < -2147483648 then ⟨0x80000000, true, false⟩
  else if 2147483647 < v then ⟨0x7FFFFFFF, true, false⟩
  else ⟨ofSigned 32 v, false, false⟩

def State.treeAddEff (s : State) (x : GCtx) : Option GEff :=
  match s.gsrc x x.c.slotA, s.gsrc x x.c.slotB, s.gdst x x.c.slotD with
  | some a, some b, some d =>
    let rows := x.rows d.t
    let cols := x.cols d.t
    let w := joinRows (rows.map fun r =>
      if d.t.int32 then gatherWrites ((cols.filter fun c => !d.dead r c).map fun c =>
        s.convWrite d r c (satAdd32 (s.gcode a r c) (s.gcode b r c)))
      else s.valueRow d x.mode (fun _ => .rne) r (x.colLo d.t)
        (cols.map fun c => if d.dead r c then none else some ((s.gval a r c).add (s.gval b r c))))
    some { reads := a.regionSpans rows cols ++ b.regionSpans rows cols, writes := w.1, ev := w.2 }
  | _, _, _ => none

def execTreeAdd (pair q : Nat) (s : State) : Host.Outcome State Fault Refusal := .next (s.granRun pair q 0x08 s.treeAddEff)

/-! ### Exact reductions (R232, R274, R486) -/

/-- Word w of a reduction tensor, and where it lies. -/
def State.gword (s : State) (g : GRef) (w : Nat) : Nat := s.gcode g (w / g.t.cols) (w % g.t.cols)
def GRef.wordSpan (g : GRef) (w : Nat) : BitSpan := g.elemSpan (w / g.t.cols) (w % g.t.cols)
def GRef.putWord (g : GRef) (w v : Nat) : BitWrite := ⟨g.wordSpan w, v⟩

/-- The 64-bit integer of element e. -/
def State.gint (s : State) (g : GRef) (e : Nat) : Int := toSigned 64 (s.gword g (2 * e) + s.gword g (2 * e + 1) * 2 ^ 32)
def GRef.putInt (g : GRef) (e : Nat) (i : Int) : List BitWrite :=
  [g.putWord (2 * e) (ofSigned 64 i % 2 ^ 32), g.putWord (2 * e + 1) (ofSigned 64 i / 2 ^ 32)]

/-- The buckets that hold an element of a region in a gradient's matrix view. -/
def GCtx.buckets (x : GCtx) (g : TensorDecl) : List Nat :=
  let lo := x.colLo g
  let n := min (x.c.nCols * tileW g.fmt) (g.cols - lo)
  if n = 0 then []
  else ((x.rows g).map fun r =>
    let a := r * g.cols + lo
    numsFrom (a / 4096) ((a + n - 1) / 4096 + 1 - a / 4096)).flatten.eraseDups

/-- The valid elements of bucket b, and of segment k. -/
def bucketElems (g : TensorDecl) (b : Nat) : List Nat := numsFrom (4096 * b) (min 4096 (g.rows * g.cols - 4096 * b))
def segElems (g : TensorDecl) (k : Nat) : List Nat := numsFrom (256 * k) (min 256 (g.rows * g.cols - 256 * k))

/-- The segments of bucket b that hold an element. -/
def bucketSegs (g : TensorDecl) (b : Nat) : List Nat := (numsFrom (16 * b) 16).filter fun k => !(segElems g k).isEmpty

/-- The gradient that a reduction tensor describes (R486). -/
def GCtx.gradOf (x : GCtx) (g : GRef) : Option TensorDecl := g.t.gradient.bind fun k => findTensor x.tensors k

/-- The value of element e, and E of bucket b from an exponent tensor. -/
def State.gelem (s : State) (g : GRef) (e : Nat) : FVal := s.gval g (e / g.t.cols) (e % g.t.cols)
def State.gexp (s : State) (g : GRef) (b : Nat) : Int := toSigned 32 (s.gword g b)

/-- The spans of elements of a tensor by index. -/
def GRef.elemSpans (g : GRef) (es : List Nat) : List BitSpan := (es.map fun e => g.spansAt (e / g.t.cols) (e % g.t.cols)).flatten
def GRef.intSpans (g : GRef) (es : List Nat) : List BitSpan := (es.map fun e => [g.wordSpan (2 * e), g.wordSpan (2 * e + 1)]).flatten

def State.redExpEff (s : State) (x : GCtx) : Option GEff :=
  match s.gsrc x x.c.slotA, s.gdst x x.c.slotD with
  | some a, some d =>
    let bs := x.buckets a.t
    some { reads := (bs.map fun b => a.elemSpans (bucketElems a.t b)).flatten,
           writes := bs.map fun b => d.putWord b (ofSigned 32 (redExp ((bucketElems a.t b).map (s.gelem a)))) }
  | _, _ => none

def State.redEmaxEff (s : State) (x : GCtx) : Option GEff :=
  match s.gsrc x x.c.slotA, s.gsrc x x.c.slotB, s.gdst x x.c.slotD with
  | some a, some b, some d =>
    (x.gradOf a).map fun g =>
      let bs := x.buckets g
      { reads := bs.map a.wordSpan ++ bs.map b.wordSpan,
        writes := bs.map fun k => d.putWord k (ofSigned 32 (max (s.gexp a k) (s.gexp b k))) }
  | _, _, _ => none

/-- The two checksum words of a segment. -/
def GRef.putSums (g : GRef) (k : Nat) (c : Nat × Nat) : List BitWrite := [g.putWord (2 * k) c.1, g.putWord (2 * k + 1) c.2]
def State.gsums (s : State) (g : GRef) (k : Nat) : Nat × Nat := (s.gword g (2 * k), s.gword g (2 * k + 1))

def State.redFixEff (s : State) (x : GCtx) : Option GEff :=
  match s.gsrc x x.c.slotA, s.gsrc x x.c.slotB, s.gdst x x.c.slotC, s.gdst x x.c.slotD with
  | some a, some b, some c, some d =>
    let bs := x.buckets a.t
    let fix (e : Nat) : Int := redFix (s.gexp b (e / 4096)) (s.gelem a e)
    some { reads := (bs.map fun k => b.wordSpan k :: a.elemSpans (bucketElems a.t k)).flatten,
           writes := (bs.map fun k => ((bucketElems a.t k).map fun e => d.putInt e (fix e)).flatten
             ++ ((bucketSegs a.t k).map fun g => c.putSums g (redCheck ((segElems a.t g).map fix))).flatten).flatten }
  | _, _, _, _ => none

/-- The companion checksum tensor of an operand (R213). -/
def State.companion (s : State) (x : GCtx) (g : GRef) : Option GRef := g.t.companion.bind fun k => s.gref x.run k false

def State.redAddEff (s : State) (x : GCtx) : Option GEff :=
  match s.gsrc x x.c.slotA, s.gsrc x x.c.slotB, s.gdst x x.c.slotC, s.gdst x x.c.slotD with
  | some a, some b, some c, some d =>
    match x.gradOf a, s.companion x a, s.companion x b with
    | some g, some ka, some kb =>
      let bs := x.buckets g
      let es := (bs.map (bucketElems g)).flatten
      let ks := (bs.map (bucketSegs g)).flatten
      some { reads := a.intSpans es ++ b.intSpans es ++ ka.intSpans ks ++ kb.intSpans ks,
             writes := (es.map fun e => d.putInt e (s.gint a e + s.gint b e)).flatten
               ++ (ks.map fun k => c.putSums k (((s.gsums ka k).1 + (s.gsums kb k).1) % 2 ^ 32,
                 ((s.gsums ka k).2 + (s.gsums kb k).2) % 2147483647)).flatten }
    | _, _, _ => none
  | _, _, _, _ => none

def State.redCheckEff (s : State) (x : GCtx) : Option GEff :=
  match s.gsrc x x.c.slotA, s.gsrc x x.c.slotC with
  | some a, some c =>
    (x.gradOf a).map fun g =>
      let bs := x.buckets g
      let ks := (bs.map (bucketSegs g)).flatten
      let bad := ks.filter fun k => redCheck ((segElems g k).map (s.gint a)) != s.gsums c k
      { reads := a.intSpans (bs.map (bucketElems g)).flatten ++ c.intSpans ks,
        mismatch := bad.map fun k => s.spanStack (a.wordSpan (512 * k)) }
  | _, _ => none

def State.redOutEff (s : State) (x : GCtx) : Option GEff :=
  match s.gsrc x x.c.slotA, s.gsrc x x.c.slotB, s.gdst x x.c.slotD with
  | some a, some b, some d =>
    (x.gradOf a).map fun g =>
      let bs := x.buckets g
      let es := (bs.map (bucketElems g)).flatten
      let w := s.valuesAt d x.mode (fun _ => .rne) (es.map fun e => (e, redOut (s.gexp b (e / 4096)) (s.gint a e)))
      { reads := a.intSpans es ++ bs.map b.wordSpan, writes := w.1, ev := w.2 }
  | _, _, _ => none

def execRedExp (pair q : Nat) (s : State) : Host.Outcome State Fault Refusal := .next (s.granRun pair q 0x10 s.redExpEff)
def execRedEmax (pair q : Nat) (s : State) : Host.Outcome State Fault Refusal := .next (s.granRun pair q 0x11 s.redEmaxEff)
def execRedFix (pair q : Nat) (s : State) : Host.Outcome State Fault Refusal := .next (s.granRun pair q 0x12 s.redFixEff)
def execRedAdd (pair q : Nat) (s : State) : Host.Outcome State Fault Refusal := .next (s.granRun pair q 0x13 s.redAddEff)
def execRedCheck (pair q : Nat) (s : State) : Host.Outcome State Fault Refusal := .next (s.granRun pair q 0x14 s.redCheckEff)
def execRedOut (pair q : Nat) (s : State) : Host.Outcome State Fault Refusal := .next (s.granRun pair q 0x15 s.redOutEff)

/-! ### OPT_ADAMW (R234, R282) -/

/-- An operand of the optimizer that is read from the read slot whichever of its IDs is named (R280, R282). -/
def State.optSrc (s : State) (x : GCtx) (slot : Nat) : Option GRef := s.gref x.run (s.readId x.job (x.id slot)) false

/-- The FP32 word of an element as the lanes take it, and whether it saturated: an MX element beyond the FP32 range follows the
command's mode (R49). -/
def State.gf32 (s : State) (mode : Ovf) (g : GRef) (r c : Nat) : Word × Bool := f32RoundIn mode (s.gval g r c)

/-- The operands of OPT_ADAMW: gradient, master, moments and working copy read and written, and the transposed copy. -/
structure OptRefs where
  g : GRef
  w : GRef
  m : GRef
  v : GRef
  w1 : GRef
  m1 : GRef
  v1 : GRef
  d : GRef
  t : Option GRef
  deriving DecidableEq, Repr

def State.optRefs (s : State) (x : GCtx) : Option OptRefs :=
  let p := adamParams x.param
  match s.gsrc x x.c.slotA, s.optSrc x x.c.slotB, s.optSrc x x.c.slotC, s.optSrc x p.slotV with
  | some g, some w, some m, some v =>
    match s.gdst x x.c.slotB, s.gdst x x.c.slotC, s.gdst x p.slotV, s.gdst x x.c.slotD with
    | some w1, some m1, some v1, some d =>
      if p.slotT = 0xF then some ⟨g, w, m, v, w1, m1, v1, d, none⟩
      else (s.gdst x p.slotT).map fun t => ⟨g, w, m, v, w1, m1, v1, d, some t⟩
    | _, _, _, _ => none
  | _, _, _, _ => none

/-- The results of one element, and the events of reading its operands. -/
def State.optElem (s : State) (x : GCtx) (o : OptRefs) (r c : Nat) : AdamOut × List Nat :=
  let ins := [o.g, o.w, o.m, o.v].map fun g => (s.gf32 x.mode g r c, s.spanStack (g.elemSpan r c))
  let word (k : Nat) : Word := ((ins[k]?).map fun q => q.1.1).getD 0
  (adamStep (adamParams x.param) x.mode (word 0) (word 1) (word 2) (word 3), (ins.filter fun q => q.1.2).map (·.2))

/-- Events of final FP32 results that saturate, for elements whose conversion counts none of its own (R47). -/
def State.finalSat (s : State) (g : GRef) (r : Nat) (xs : List (Nat × Word × Bool)) : GEv :=
  { sat := (xs.filter fun q => q.2.2).map fun q => s.spanStack (g.elemSpan r q.1) }

/-- Row r of an output: FP32 results converted into the operand's format; rows of masked slots have none. -/
def State.optRow (s : State) (g : GRef) (mode : Ovf) (rnd : Nat → Rnd) (r c0 : Nat) (xs : List (Nat × Word × Bool)) :
    List BitWrite × GEv :=
  let w := s.valueRow g mode rnd r c0 (xs.map fun q => if g.dead r q.1 then none else some (f32Val q.2.1))
  (w.1, w.2.add (s.finalSat g r (xs.filter fun q => !g.dead r q.1)))

/-- The writes of row r: the moments, the master and the working copy. -/
def State.optWrites (s : State) (x : GCtx) (o : OptRefs) (c0 : Nat) (ys : List (Nat × AdamOut × List Nat)) (r : Nat) :
    List BitWrite × GEv :=
  let p := adamParams x.param
  let col (f : AdamOut → Word × Bool) : List (Nat × Word × Bool) := ys.map fun y => (y.1, f y.2.1)
  joinRows [s.optRow o.m1 x.mode (fun _ => .rne) r c0 (col (·.m)), s.optRow o.v1 x.mode (fun _ => .rne) r c0 (col (·.v)),
    s.optRow o.w1 x.mode (fun _ => .rne) r c0 (col (·.w)),
    s.valueRow o.d x.mode (sr x.c.sr p.seed p.stream) r c0 (ys.map fun y => if o.d.dead r y.1 then none else some (f32Val y.2.1.w.1)),
    ([], { sat := (ys.map (·.2.2)).flatten })]

/-- The working copy of row r as it is written: the scale of an MX block, and the element's bits. -/
def GCtx.workCodes (x : GCtx) (d : GRef) (r c0 : Nat) (ws : List (Nat × Word)) : List (Nat × Nat × Nat) :=
  let p := adamParams x.param
  if d.t.fmt.isMx then
    ((mxCodes d.t.fmt c0 (ws.map fun q => some (f32Val q.2))).zip ws).map fun q => (q.2.1, q.1.getD (0, 0))
  else ws.map fun q =>
    (q.1, 0, (convertElem d.t.fmt x.mode (sr x.c.sr p.seed p.stream (elemIndex d.t.cols r q.1)) (f32Val q.2)).code)

/-- The scale byte of a block of the transposed copy: the one scale that its elements have in W, else an open one (DESIGN
CHOICE, log 32: R234 moves the bits of the elements, and a block has one scale). -/
def transScaleOf (xs : List Nat) : Nat :=
  match xs.eraseDups with
  | [v] => v
  | vs => (Config.transScale vs).toNat

/-- Column c of the region into row c of the transposed copy: the bits of W (R234). DEDUCED (log 32): bits that move are not
converted again, so none counts as saturated in the copy. -/
def State.optTrans (s : State) (x : GCtx) (d t : GRef) (r0 c : Nat) (ws : List (Nat × Nat × Nat)) : List BitWrite :=
  let scales := if t.t.fmt.isMx then
      ((ws.map fun q => q.1 / 32).eraseDups).map fun b => ⟨t.scaleSpan c b, transScaleOf ((ws.filter fun q => q.1 / 32 == b).map (·.2.1))⟩
    else []
  if t.st.winnow.isSome then (s.valueRow t x.mode (fun _ => .rne) c r0 (ws.map fun q => some (decodeElem d.t.fmt q.2.2))).1
  else scales ++ t.codeRow c r0 (ws.map fun q => some q.2.2)

/-- OPT_ADAMW. DESIGN CHOICE (log 32): where its operands' formats have another width W, that of slot_d cuts the region. -/
def State.optEff (s : State) (x : GCtx) : Option GEff :=
  (s.optRefs x).map fun o =>
    let rows := x.rows o.d.t
    let cols := x.cols o.d.t
    let ys := rows.map fun r => (r, cols.map fun c => (c, s.optElem x o r c))
    let w := joinRows (ys.map fun y => s.optWrites x o (x.colLo o.d.t) y.2 y.1)
    let tr := match o.t with
      | some t =>
        let ks := ys.map fun y => (y.1, x.workCodes o.d y.1 (x.colLo o.d.t) (y.2.map fun e => (e.1, e.2.1.w.1)))
        (cols.map fun c => s.optTrans x o.d t x.c.row c (ks.filterMap fun y =>
          (y.2.find? fun e => e.1 == c).map fun e => (y.1, e.2))).flatten
      | none => []
    { reads := (rows.map fun r => (cols.map fun c =>
        ([o.g, o.w, o.m, o.v].map fun g => g.spansAt r c).flatten).flatten).flatten,
      writes := w.1 ++ tr, ev := w.2 }

def execOptAdamw (pair q : Nat) (s : State) : Host.Outcome State Fault Refusal := .next (s.granRun pair q 0x18 s.optEff)

/-! ### SCRUB and CRC (R235) -/

/-- A patrol of a range of physical addresses: corrected sectors are written back, uncorrectable ones recorded. -/
def State.scrubRange (s : State) (start len pass : Nat) : State :=
  let inside (sec : Nat) : Bool := decide (start ≤ sec) && decide (sec < start + len)
  let weak := ascending (((s.hbmStacks.map fun e => e.2.weak).flatten).filter inside)
  let bad := ascending (((s.hbmStacks.map fun e => e.2.bad).flatten).filter inside)
  weak.foldl State.healSector (ueEvents (fun _ s => s) bad (ceEvents pass weak s))

/-- Every 4 KiB granule of a range has memory (R242). -/
def rangePresent (start len : Nat) : Bool := len == 0 || (hbmPresent start && hbmPresent (start + len - 1))

/-- A patrol pass over a stack: each sector once, in ascending address (R259). -/
def State.patrol (s : State) (stack : Nat) : State :=
  let pg := stackPage .hbm stack
  let s := wake [stack] s
  let x := s.stack stack
  let pass := x.passes + 1
  let s := s.setStack stack { x with passes := pass }
  let s := x.weak.foldl State.healSector (ueEvents (fun _ s => s) (ascending x.bad) (ceEvents pass (ascending x.weak) s))
  (s.bump pg scrubPassCount_count).event pg hbm_evtRaw_scrubPass

/-- The SCRUB command of the loader's patrol of a stack: BULK priority, and the stack of the pair in its param field. DESIGN
CHOICE (log 18): one command stands for the whole pass. -/
def patrolWord (stack : Nat) : BitVec 128 := granWord ((0x20 * 2 ^ 106) + 2 ^ 86 + (stack % 2) * 2 ^ 82)

/-- A SCRUB of queue 32 is the loader's patrol (R259). A SCRUB whose range leaves the die's memory reaches addresses that hold
none. -/
def execScrub (pair q : Nat) (s : State) : Host.Outcome State Fault Refusal :=
  match s.granFirst pair q 0x20 with
  | some (i, e) =>
    if q = 32 then .next (if s.up then (s.patrol (2 * pair + (granCmd e.word).param % 2)).setRunning pair i { e with done := true } else s)
    else match s.gctx pair e with
    | some x =>
      let start := leAt x.param 0 8
      let len := leAt x.param 8 8
      if !s.up then .next s
      else if rangePresent start len then
        .next (((s.wakeStacks pair).scrubRange start len 0).setRunning pair i { e with done := true })
      else .fault (.memoryHole start)
    | none => .next s
  | none => .next s

/-- CRC translates through the job's map (R251); it waits while the map does not cover its range. -/
def State.crcEff (s : State) (x : GCtx) : Option GEff :=
  let start := leAt x.param 0 8
  let len := leAt x.param 8 8
  let dst := leAt x.param 16 8
  if s.mapped x.f start len false && s.mapped x.f dst 4 true then
    some { reads := [⟨some x.f, 8 * start, 8 * len⟩],
           writes := [⟨⟨some x.f, 8 * dst, 32⟩, (crc32c ((numsFrom start len).map (s.cmdByte (some x.f)))).toNat⟩] }
  else none

def execCrc (pair q : Nat) (s : State) : Host.Outcome State Fault Refusal := .next (s.granRun pair q 0x21 s.crcEff)

/-! ### The start of a command (R209, R216, R236) -/

/-- The frames' rows and headers that the rows of a region lie in, for a key-value tensor. -/
def State.pageClaim (s : State) (x : GCtx) (t : TensorDecl) (slot cache layer hg : Nat) (isValue : Bool) : List BitSpan :=
  let session := s.slotSession x.run slot
  ((x.rows t).map fun r => match s.kvFrame x.job session cache layer hg isValue (r / 64) with
    | some (frame, _, _) =>
      [⟨none, 8 * (framePayload frame + r % 64 * pageRowBytes t.fmt), 8 * pageRowBytes t.fmt⟩, ⟨none, 8 * frameHeader frame, 512⟩]
    | none => []).flatten

/-- What a WRITE's region covers: the elements of slot_d, their transposed copies and their checksums, or the pages of a
key-value tensor. -/
def State.writeClaim (s : State) (x : GCtx) : Option GEff :=
  match findTensor x.tensors (x.id x.c.slotD) with
  | none => none
  | some t => match t.loc with
    | .kv slot cache layer hg isValue => some { writes := (s.pageClaim x t slot cache layer hg isValue).map claim }
    | _ => (s.gdst x x.c.slotD).map fun d =>
      let rows := x.rows d.t
      let cols := x.cols d.t
      let tr := if x.c.slotB = 0xF then [] else match s.gdst x x.c.slotB with
        | some b => b.regionSpans cols rows
        | none => []
      let sums := match d.t.companion.bind fun k => s.gref x.run k true with
        | some k => ((rows.map fun r => cols.map fun c => (r * d.t.cols + c) / 512).flatten.eraseDups.map fun n =>
            (numsFrom (2 * n) 2).map fun w => k.elemSpan (w / k.t.cols) (w % k.t.cols)).flatten
        | none => []
      { writes := (d.regionSpans rows cols ++ tr ++ sums).map claim }

/-- The range of a SCRUB: it reads its sectors and writes corrected ones back (R235, R236). -/
def GCtx.scrubEff (x : GCtx) : GEff :=
  let sp : BitSpan := ⟨none, 8 * leAt x.param 0 8, 8 * leAt x.param 8 8⟩
  { reads := [sp], writes := [claim sp] }

/-- What a command reads and writes. -/
def State.granEff (s : State) (x : GCtx) : Option GEff :=
  match x.c.opcode with
  | 0x01 => s.readEff x
  | 0x02 => s.writeClaim x
  | 0x03 => s.copyEff x
  | 0x04 => s.fillEff x
  | 0x06 => s.gatherEff x
  | 0x08 => s.treeAddEff x
  | 0x10 => s.redExpEff x
  | 0x11 => s.redEmaxEff x
  | 0x12 => s.redFixEff x
  | 0x13 => s.redAddEff x
  | 0x14 => s.redCheckEff x
  | 0x15 => s.redOutEff x
  | 0x18 => s.optEff x
  | 0x20 => some x.scrubEff
  | 0x21 => s.crcEff x
  | _ => none

def State.effOf (s : State) (pair : Nat) (e : GranRun) : Option GEff := (s.gctx pair e).bind s.granEff

/-- The bits that a command writes, and those it touches. -/
def writeSpans (e : Option GEff) : List BitSpan := ((e.map (·.writes)).getD []).map (·.span)
def touchSpans (e : Option GEff) : List BitSpan := (e.map (·.reads)).getD [] ++ writeSpans e

/-- A command touches an element that an earlier incomplete command of its queue writes (R236). -/
def State.granConflict (s : State) (pair q : Nat) (e : GranRun) : Bool :=
  let earlier := (s.pair pair).running.filter (·.q == q)
  !earlier.isEmpty &&
    let mine := touchSpans (s.effOf pair e)
    earlier.any fun p => (writeSpans (s.effOf pair p)).any fun w => mine.any (s.meet w)

/-- The pair may start a command of the queue: both stacks' issue_en is set, and no WAIT holds the queue (R237, R241). -/
def State.granMayStart (s : State) (pair q : Nat) : Bool :=
  dieOk pair && s.up && s.fld (stackPage .granary (2 * pair)) granaryCtrl_issueEn == 1
    && s.fld (stackPage .granary (2 * pair + 1)) granaryCtrl_issueEn == 1
    && !(s.pair pair).running.any fun e => e.q == q && (granCmd e.word).opcode == 0x3D && !e.done

/-- R209: the stacks that the command's operands lie in leave self-refresh. A WRITE that starts takes the tiles of its region that
wait at the pair's input (R485). -/
def execGranaryCommandStart (pair q : Nat) (s : State) : Host.Outcome State Fault Refusal :=
  let x := s.pair pair
  match x.queue q with
  | [] => .next s
  | e :: rest =>
    if !s.granMayStart pair q then .next s
    else
      let c := granCmd e.word
      match granCmdFault e.word rest.length with
      | some r => .next ((s.setPair pair (x.setQueue q rest)).pairFault pair r c.opcode q (s.runJob e.run))
      | none =>
        let n := if c.opcode = 0x06 then c.nRows else 0
        let run : GranRun := { q := q, run := e.run, word := e.word, descs := (rest.take n).map (·.word), done := false, at_ := s.now }
        if s.granConflict pair q run then .next s
        else
          let y := x.setQueue q (rest.drop n)
          let s := (s.setPair pair { y with running := y.running ++ [run] }).wakeStacks pair
          let s := if c.opcode = 0x20 then s else s.wakeSpans (touchSpans (s.effOf pair run))
          .next (if c.opcode = 0x02 then s.takeParked pair else s)

end Sys2Proof.Machine
end

