-- ==== Sys2Proof/Machine/Cue.lean ====
section
/-! DEFINITION. The Cue table and the Cue Port (R358 to R363, R366). -/

namespace Sys2Proof.Machine

/-- tSEP in ns (Table TIME-6). -/
def cueSep : Nat := 1000

/-- Bits [6:0] of an entry. -/
def State.cueEntry (s : State) (e : Nat) : Nat := SMap.get 0 s.cue.table e

/-- The value a change leaves: the bits it names, the others kept. -/
def CueChange.on (c : CueChange) (v : Nat) : Nat := (v &&& (0x7F ^^^ c.bits)) ||| (c.val &&& c.bits)

/-- An entry takes a new value (R360, Table TIME-11). -/
def State.cueApply (s : State) (e v : Nat) : State :=
  let c := { s.cue with table := SMap.set 0 e v s.cue.table, changed := SMap.set none e (some s.now) s.cue.changed }
  ((s.withCue c).bump (sqPage .cue) updateCount_count).event (sqPage .cue) cue_evtRaw_updated

/-- The instant before which an entry may not change again. -/
def State.cueDue (s : State) (e : Nat) : Nat :=
  match SMap.get none s.cue.changed e with
  | some t => t + cueSep
  | none => 0

/-- A change of an entry: applied, or deferred until tSEP has passed (R360). -/
def State.cueChange (s : State) (c : CueChange) : State :=
  if s.now < s.cueDue c.entry || s.cue.deferred.any fun x => x.entry == c.entry then
    s.withCue { s.cue with deferred := s.cue.deferred ++ [c] }
  else s.cueApply c.entry (c.on (s.cueEntry c.entry))

/-- The deferred changes of an entry take effect once tSEP has passed; an update wins over a host write (R360, R363). -/
def State.cueRelease (s : State) (e : Nat) : State :=
  let mine := s.cue.deferred.filter fun x => x.entry == e
  match mine with
  | [] => s
  | _ :: _ =>
    let s := s.passTo (s.cueDue e)
    let s := s.withCue { s.cue with deferred := s.cue.deferred.filter fun x => x.entry != e }
    let ups := mine.filter fun x => !x.host
    let eff := if ups.isEmpty then mine else ups
    let s := if !ups.isEmpty && ups.length < mine.length then s.event (sqPage .cue) cue_evtRaw_collision else s
    s.cueApply e (eff.foldl (fun v c => c.on v) (s.cueEntry e))

def execCueDeferredApply (entry : Nat) (s : State) : Host.Outcome State Fault Refusal := .next (s.cueRelease entry)

/-! ### Table TIME-8 -/

inductive CueEvent where
  | taken | onTime | late | openCommit | withdrawn | ended | clear
  deriving DecidableEq, Repr

/-- Bits named and their values: ready 1, on time 2, late 4, withdrawn 8, buffer index 0x30, error 0x40. -/
def CueEvent.bits : CueEvent → Nat × Nat
  | .taken => (0x4F, 0) | .onTime => (0x4F, 3) | .late => (0x4F, 5) | .openCommit => (0x4F, 1) | .withdrawn => (0x4F, 8)
  | .ended => (0x4F, 0x40) | .clear => (0x7F, 0)

/-- A unit update of an entry. -/
def State.cueUpdate (s : State) (e : Nat) (ev : CueEvent) : State := s.cueChange ⟨e, false, ev.bits.1, ev.bits.2⟩

/-- The update for a step with cue_en. -/
def State.cueStep (s : State) (en : Bool) (e : Nat) (ev : CueEvent) : State := if en then s.cueUpdate e ev else s

/-! ### Groups (R362, R366) -/

/-- The function that owns an entry's group. -/
def State.cueOwner (s : State) (e : Nat) : Option Nat :=
  let v := SMap.get 0 s.cue.owner (e / 64)
  if bitOf v 5 then some (v % 32) else none

/-- A master reaches an entry through CUE_DATA: the physical function and the Watchman reach every one. -/
def State.cueReach (s : State) (m : Master) (e : Nat) : Bool :=
  match m with
  | .watchman => true
  | .host f => f == 0 || s.cueOwner e == some f

/-- CUE_INDEX and CUE_GROUP_INDEX of a master. -/
def State.cueIndex (s : State) (m : Master) : Nat := SMap.get 0 s.cue.index (masterKey m)
def State.cueGroup (s : State) (m : Master) : Nat := SMap.get 0 s.cue.group (masterKey m)
def State.setCueIndex (s : State) (m : Master) (v : Nat) : State :=
  s.withCue { s.cue with index := SMap.set 0 (masterKey m) v s.cue.index }
def State.setCueGroup (s : State) (m : Master) (v : Nat) : State :=
  s.withCue { s.cue with group := SMap.set 0 (masterKey m) v s.cue.group }

/-- A write of bits of CUE_DATA with the values of `val` (R362, R420). -/
def State.cueDataWrite (s : State) (m : Master) (bits val : Nat) : State :=
  if s.cueReach m (s.cueIndex m) && bits != 0 then s.cueChange ⟨s.cueIndex m, true, bits % 128, val % 128⟩ else s

/-- Clear entries. -/
def cueClear : List Nat → State → State
  | [], s => s
  | e :: es, s => cueClear es (s.cueUpdate e .clear)

/-- A write of CUE_GROUP_OWNER clears the group's entries. -/
def State.cueGroupWrite (s : State) (m : Master) (v : Nat) : State :=
  let g := s.cueGroup m
  cueClear (numsFrom (64 * g) 64) (s.withCue { s.cue with owner := SMap.set 0 g (v % 64) s.cue.owner })

/-- CUE_GROUP_OWNER as a master reads it. -/
def State.cueGroupRead (s : State) (m : Master) : Nat := SMap.get 0 s.cue.owner (s.cueGroup m)

/-- F of a function: the entries of its groups, and its copies of the index registers (R363, R366). -/
def State.cueFunctionReset (s : State) (f : Nat) : State :=
  let groups := (s.cue.owner.filter fun p => p.2 == 32 + f).map (·.1)
  let s := cueClear ((groups.map fun g => numsFrom (64 * g) 64).flatten) s
  (s.setCueIndex (.host f) 0).setCueGroup (.host f) 0

/-! ### The port (R358) -/

/-- Even parity over the address and bits [6:0]. -/
def cueParity (a v : Nat) : Bool := (popCount a 12 + popCount v 7) % 2 = 1

/-- CUE_Q of an entry (Table TIME-5). -/
def cueQ (a v : Nat) : Nat := v + (if cueParity a v then 128 else 0)

/-- CUE_Q, which the pins show at every instant by combinational logic; none while it is high-impedance: with the port or the pin
off, during a PACKAGE reset and in NIGHTWATCH. -/
def State.cuePins (s : State) : Option Nat :=
  if s.cue.pinEn && s.fld (sqPage .cue) cueCtrl_portEn == 1 && s.served (sqPage .cue) && !s.board.perst && !s.board.training then
    some (cueQ s.cue.pinA (s.cueEntry s.cue.pinA)) else none

/-- CUE_Q as a controller reads it: a high-impedance port is pulled down to 0x00 (Table PKG-10). -/
def State.cueLands (s : State) : Nat := s.cuePins.getD 0

/-- The pins CUE_A and CUE_EN take new levels. -/
def execCuePortRead (a : Nat) (en : Bool) (s : State) : Host.Outcome State Fault Refusal :=
  .next (s.withCue { s.cue with pinA := a % 4096, pinEn := en })

end Sys2Proof.Machine
end

