-- ==== Sys2Proof/Machine/Rings.lean ====
section
/-! DEFINITION. Ticket rings and completions (R310, R311, R315, R401, R487). -/

namespace Sys2Proof.Machine

/-- A field of a ring. -/
def State.ringFld (s : State) (f r : Nat) (x : FieldRow) : Nat := s.fld (ringPage f r) x
def State.setRingFld (s : State) (f r : Nat) (x : FieldRow) (v : Nat) : State := s.setFld (ringPage f r) x v

/-- Entries of a ring: log2_size is 4 to 16. -/
def State.ringSize (s : State) (f r : Nat) : Nat := 2 ^ s.ringFld f r ringCtrl_log2Size

/-- ring_base and cmpl_base. -/
def State.ringBase (s : State) (f r : Nat) : Nat :=
  s.ringFld f r ringBaseHi_va * 2 ^ 32 + s.ringFld f r ringBaseLo_va * 128
def State.cmplBase (s : State) (f r : Nat) : Nat :=
  s.ringFld f r cmplBaseHi_va * 2 ^ 32 + s.ringFld f r cmplBaseLo_va * 32

/-- A ring in service: enabled, not stopped. -/
def State.ringOn (s : State) (f r : Nat) : Bool :=
  s.ringFld f r ringCtrl_enable == 1 && s.ringFld f r ringStatus_fault == 0

/-- The ring has a completion entry that the host has consumed (R310). -/
def State.ringHasEntry (s : State) (f r : Nat) : Bool :=
  let n := s.ringSize f r
  decide ((s.ringFld f r ringHead_head + n - s.ringFld f r cmplHead_head % n) % n < n - 1)

/-- The ring stops at an entry that the map does not allow (R487). -/
def State.ringFault (s : State) (f r : Nat) : State :=
  ((s.setRingFld f r ringStatus_fault 1).bumpSat (hostPage f) fieldMiss_count).event (hostPage f) host_evtRaw_ringFault

/-- A completion record (Table BUND-7). -/
structure Cmpl where
  id : Nat
  status : Nat
  code : Nat := 0
  kind : Nat
  detail : Nat := 0
  result : Nat := 0
  aux : Nat := 0
  step : Nat := 0
  deriving DecidableEq, Repr

def cmplBytes (c : Cmpl) : List Byte :=
  leBytes 4 c.id ++ leBytes 1 c.status ++ leBytes 1 c.code ++ leBytes 2 c.kind ++ leBytes 4 c.detail ++ leBytes 4 c.result
    ++ leBytes 8 c.aux ++ leBytes 8 c.step

/-- Status codes. -/
def cDone : Nat := 0
def cRefused : Nat := 1
def cWithdrawn : Nat := 2
def cEnded : Nat := 3
def cMalformed : Nat := 4

/-- CMPL_TAIL moves to the next entry. -/
def State.cmplAdvance (s : State) (f r : Nat) : State :=
  s.setRingFld f r cmplTail_tail ((s.ringFld f r cmplTail_tail + 1) % s.ringSize f r)

/-- A refusal is counted on the LOADER page. -/
def State.countRefusal (s : State) (f code : Nat) : State :=
  (((s.bump (sqPage .loader) refuseCount_count).setFld (sqPage .loader) lastRefusal_code code).setFld (sqPage .loader)
    lastRefusal_function f).event (sqPage .loader) loader_evtRaw_refusal

/-- The key of a ring in State.ringLost. -/
def ringKey (f r : Nat) : Nat := f * 64 + r

/-- Write a completion: discarded and counted where the ring is stopped or the link is down, else stored before CMPL_TAIL
advances, and the vector raised after it when irq is set. -/
def State.putCmpl (s : State) (f r : Nat) (irq : Bool) (c : Cmpl) : State :=
  if !s.ringOn f r then s.bumpSat (hostPage f) cmplDropCount_count
  else if !s.board.link then
    let s := (s.dropMsg f).cmplAdvance f r
    if irq then s.msix f (s.ringFld f r ringCtrl_vector) else s
  else
    let a := s.cmplBase f r + 32 * s.ringFld f r cmplTail_tail
    if s.mapped f a 32 true then
      let s := ((s.wakeSpans [⟨some f, 8 * a, 256⟩]).storeAll (fun _ s => s) [⟨⟨some f, 8 * a, 256⟩, leNat (cmplBytes c)⟩]).cmplAdvance f r
      if irq then s.msix f (s.ringFld f r ringCtrl_vector) else s
    else (s.ringFault f r).bumpSat (hostPage f) cmplDropCount_count

/-- Write a completion. On a ring whose behaviour is undefined (R311) an open value says whether it is written (log 33). -/
def State.writeCmpl (s : State) (f r : Nat) (irq : Bool) (c : Cmpl) : State :=
  if s.ringLost.contains (ringKey f r) then
    let (v, s) := s.openValue
    if v.getLsbD 0 then s.putCmpl f r irq c else s
  else s.putCmpl f r irq c

/-- Complete a ticket. -/
def State.complete (s : State) (f r : Nat) (ticket : List Byte) (c : Cmpl) : State :=
  let s := if c.status = cRefused then s.countRefusal f c.code else s
  s.writeCmpl f r (bitOf (leAt ticket 1 1) 0) c

/-- The ticket_id that a completion echoes: 0 for LOAD and UNLOAD. -/
def ticketId (ticket : List Byte) : Nat :=
  if leAt ticket 0 1 = 2 || leAt ticket 0 1 = 3 then 0 else leAt ticket 4 4

/-- The step number that a completion carries. -/
def ticketStep (ticket : List Byte) : Nat := if leAt ticket 0 1 = 1 then leAt ticket 8 8 else 0

/-- A completion of a ticket with a status and a code. -/
def cmplOf (ticket : List Byte) (status code : Nat) : Cmpl :=
  { id := ticketId ticket, status := status, code := code, kind := leAt ticket 0 1, step := ticketStep ticket }

/-- Complete with status and code only. -/
def State.answer (s : State) (f r : Nat) (ticket : List Byte) (status code : Nat) : State :=
  s.complete f r ticket (cmplOf ticket status code)

/-! ### Steps' Cue entries -/

/-- cue_en and the Cue entry of a STEP ticket. -/
def ticketCue (ticket : List Byte) : Bool × Nat := (bitOf (leAt ticket 120 2) 15, leAt ticket 120 2 % 4096)

/-- The Cue update of a step before its completion: a change that tSEP defers is waited for (R326, R360). -/
def State.cueStepNow (s : State) (en : Bool) (e : Nat) (ev : CueEvent) : State :=
  if en then (s.cueUpdate e ev).cueRelease e else s

/-- Complete a STEP ticket as WITHDRAWN or ENDED, its Cue entry first (R326, Table TIME-8). -/
def State.endTicket (s : State) (f r : Nat) (ticket : List Byte) (status code : Nat) : State :=
  let c := ticketCue ticket
  (s.cueStepNow c.1 c.2 (if status = cWithdrawn then .withdrawn else .ended)).answer f r ticket status code

end Sys2Proof.Machine
end

