-- ==== Sys2Proof/Machine/JobReset.lean ====
section
/-! DEFINITION. The JOB reset (R196, R240, R320, R323, R447, R449): what is held for one job is cleared. -/

namespace Sys2Proof.Machine

/-- A run belongs to a job. -/
def State.ofJob (s : State) (job run : Nat) : Bool := s.runJob run == some job

/-! ### Commands in progress (R240) -/

/-- Copy a sector of another memory, where spans wrote it, under the sector code (R245). -/
def State.takeSector (s src before : State) (xs : List BitSpan) (sec : Nat) : State :=
  let t := storeSp s none sec (src.bytesAt sec 32)
  let x := before.stack (stackOfPa sec)
  if x.bad.contains sec || x.weak.contains sec then before.settleSector (fun _ s => s) xs t sec else t

/-- Each sector that a stopped command would write holds its new bytes or keeps its old ones, by an open value. -/
def partSectors (src before : State) (spans : List BitSpan) : List Nat → State → State
  | [], s => s
  | x :: xs, s =>
    let (v, s) := s.openValue
    partSectors src before spans xs (if v.getLsbD 0 then s.takeSector src before spans x else s)

/-- The sectors of spans. -/
def State.sectorsOf (s : State) (xs : List BitSpan) : List Nat :=
  ((xs.map fun x => (numsFrom (x.bit / 8) (ceilDiv (x.bit % 8 + x.width) 8)).filterMap fun a =>
    (s.phys x.sp a).map sectorOf).flatten).eraseDups

/-- Stop a command that a pair runs. A WRITE has written what it accepted. -/
def State.stopGran (s : State) (pair : Nat) (e : GranRun) : State :=
  if e.done || (granCmd e.word).opcode = 0x02 then s
  else match s.effOf pair e with
    | some eff =>
      if (granCmd e.word).opcode = 0x20 then s
      else
        let xs := writeSpans (some eff)
        partSectors (eff.writes.foldl State.storeBits s) s xs (s.sectorsOf xs) s
    | none => s

def stopGrans (pair : Nat) : List GranRun → State → State
  | [], s => s
  | e :: es, s => stopGrans pair es (s.stopGran pair e)

/-- A pair discards a job's commands and tiles. -/
def State.pairReset (s : State) (job pair : Nat) : State :=
  let x := s.pair pair
  let mine (run : Nat) : Bool := s.ofJob job run
  let y : Pair :=
    { queues := SMap.mapF (fun _ => []) (fun _ es => s.keepJob job es) x.queues,
      running := x.running.filter fun e => !mine e.run, tiles := x.tiles.filter fun t => !mine t.1 }
  (stopGrans pair (x.running.filter fun e => mine e.run) s).setPair pair y

def pairResets (job : Nat) : List Nat → State → State
  | [], s => s
  | p :: ps, s => pairResets job ps (s.pairReset job p)

/-! ### Units -/

/-- A Loom after the job's reset. -/
def State.loomReset (s : State) (job : Nat) (x : Loom) : Loom :=
  let keep (run : Nat) : Bool := !s.ofJob job run
  let mine := x.k.setup.job == some job
  { x with
    queue := s.keepJob job x.queue
    buf := x.buf.filter fun e => match e.2 with
      | some b => keep b.run
      | none => true
    scaleIn := x.scaleIn.filter fun p => keep p.1
    k := if mine then {} else x.k
    saved := x.saved.filter fun p => p.1.1 != job
    issued := x.issued.filter fun e => keep e.run
    drains := x.drains.filter fun e => keep e.run
    slots := if mine then none else x.slots
    swapped := !mine && x.swapped
    blocked := if x.blocked = some job then none else x.blocked }

def State.engineReset (s : State) (job : Nat) (x : Engine) : Engine :=
  { x with queue := s.keepJob job x.queue, scaleIn := x.scaleIn.filter fun p => !s.ofJob job p.1,
           waiting := x.waiting && match x.queue with
             | e :: _ => !s.ofJob job e.run
             | [] => false }

/-- A Reeve drops the job's run, and HAMLET_STATUS reads its reset values. -/
def reeveResets (job : Nat) : List Nat → State → State
  | [], s => s
  | k :: ks, s =>
    let d := k / 4
    let h := k % 4
    let x := s.reeve d h
    let mine := match x.run with
      | some r => s.ofJob job r
      | none => false
    let s := if s.ofJob job x.feeder.run then s.setReeve d h { x with feeder := {} } else s
    let x := s.reeve d h
    reeveResets job ks (if mine then (s.setReeve d h { x with run := none }).setReg ((hamletPage d h).reg 0x044) 0 else s)

/-- The job's Bells read 0 and hold no error (R323, Table BUND-9). -/
def State.bellsReset (s : State) (job : Nat) : State :=
  s.withBells (SMap.mapF (fun _ => {}) (fun _ b => if b.owner.map (·.2) = some job then { b with value := 0, error := false } else b)
    s.bells)

/-- A prefix node leaves the table: its pages' frames are free again, and its bucket holds a tombstone (R196). -/
def Loader.dropNode (x : Loader) (n : Nat) : Loader :=
  let frames := (x.pages.filter fun p => p.node == some n && p.entry.state == 1).map (·.entry.target)
  { x with pages := x.pages.filter fun p => p.node != some n, frames := x.frames.filter fun f => !frames.contains f,
           nodes := x.nodes.filter fun m => m.index != n,
           tombs := if x.nodes.any (fun m => m.index == n) then n :: x.tombs else x.tombs }

/-- The PENDING nodes that a step of the job writes are removed: those of every step where none is named (R196). -/
def State.pendingReset (s : State) (job : Nat) (step : Option Nat) : State :=
  let ns := (s.loader.nodes.filter fun n => n.state == 0 && n.writer.1 == job && step.all (· == n.writer.2)).map (·.index)
  let gone (p : KvPage) : Bool := p.node.isNone && p.entry.state == 3 && ns.contains p.entry.target
  let x := ns.foldl Loader.dropNode s.loader
  s.withLoader { x with pages := x.pages.filter fun p => !gone p }

/-- The work of a job leaves every unit: queues, tiles, buffers, runs and the PENDING nodes of a step, or of every step. -/
def State.unitsReset (s : State) (job : Nat) (step : Option Nat) : State :=
  let s := pairResets job (numsFrom 0 8) s
  let s := s.withLooms (SMap.mapF (fun _ => {}) (fun _ x => s.loomReset job x) s.looms)
  let s := s.withSieves (SMap.mapF (fun _ => {}) (fun _ x => s.engineReset job x) s.sieves)
  let s := s.withGates (SMap.mapF (fun _ => {}) (fun _ x => s.engineReset job x) s.gates)
  let s := reeveResets job (numsFrom 0 32) s
  let s := (s.withFlight (s.flight.filter fun t => !s.ofJob job t.1)).dropFlits job
  let s := (s.withSram (SMap.keep (fun k => k / 65536 % 65536 != job) s.sram)).pendingReset job step
  s.withLoader { s.loader with runs := s.loader.runs.filter fun r => r.job != job }

/-- A JOB reset, of the step that runs or of every step of the job. -/
def State.jobReset (s : State) (job : Nat) (step : Option Nat) : State := (s.unitsReset job step).bellsReset job

end Sys2Proof.Machine
end

