-- ==== Sys2Proof/Machine/Train.lean ====
section
/-! DEFINITION. Training on the loader's side: statistics blocks and the choice of gradient formats (R268 to R271), and the
generation records of a job's ranks (R280 to R285). -/

namespace Sys2Proof.Machine

/-! ### Statistics blocks (R269) -/

/-- The bin of an agreed exponent; an empty bucket is not counted. -/
def histBin (e : Int) : Option Nat :=
  if e = -127 then none else if e = 128 then some 129 else if e ≤ -64 then some 0 else if 64 ≤ e then some 128
  else some (e + 64).toNat

/-- The 130 bins of a layer's buckets. -/
def histogram (es : List Int) : List Nat :=
  let bs := es.filterMap histBin
  (numsFrom 0 130).map fun k => bs.count k

def histBytes : Nat := 520

/-- Bytes of a statistics block. DESIGN CHOICE (log 32): the rings of the layers follow one another, histogram place by
histogram place; generation g has place g mod N. -/
def statsBytes (d : TrainDecl) : Nat := d.layers.length * d.ringLen * histBytes

/-- The sum of a layer's ring, bin by bin (R270). -/
def ringSum (d : TrainDecl) (block : List Byte) (layer : Nat) : List Nat :=
  (numsFrom 0 130).map fun k =>
    natSum ((numsFrom 0 d.ringLen).map fun j => leAt block ((layer * d.ringLen + j) * histBytes + 4 * k) 4)

/-- The exponent that a bin stands for. -/
def binExp (k : Nat) : Int := (k : Int) - 64

/-- The choice of R270 from a summed ring. -/
def gradFormat (allowed : List Fmt) (h : List Nat) : Fmt :=
  let T := natSum (h.take 129)
  if h.getD 129 0 ≠ 0 || T = 0 then .bf16
  else
    let hi := binExp (((numsFrom 0 129).reverse.find? fun k => h.getD k 0 != 0).getD 0)
    let lo := binExp (((numsFrom 0 129).find? fun k => decide (T < 100 * natSum (h.take (k + 1)))).getD 0)
    if allowed.contains .e4m3 && decide (hi ≤ 7) && decide (-3 ≤ lo) then .e4m3
    else if allowed.contains .e5m2 && decide (hi ≤ 14) && decide (-11 ≤ lo) then .e5m2
    else .bf16

/-! ### Records (R281) -/

def pickVa (p : Nat × Nat) (slot : Nat) : Nat := if slot = 0 then p.1 else p.2

/-- The record area and the statistics blocks of a rank's logical die. -/
def recordAt (d : TrainDecl) (i slot : Nat) : Nat := d.records.getD i 0 + 64 * slot
def statsAt (d : TrainDecl) (i slot : Nat) : Nat := pickVa (d.stats.getD i (0, 0)) slot

/-- The bytes of a record. `done` sets the flags opt_complete, w_complete and wt_complete. -/
def recordBytes (g optStep rank ranks bundle slot : Nat) (done shard : Bool) (statsCrc : Nat) : List Byte :=
  let flags := slot + (if done then 14 else 0) + (if shard then 16 else 0)
  let b := leBytes 8 g ++ leBytes 4 optStep ++ leBytes 4 rank ++ leBytes 4 ranks ++ leBytes 4 bundle ++ leBytes 1 flags
    ++ leBytes 3 0 ++ leBytes 4 statsCrc ++ leBytes 28 0
  b ++ leBytes 4 (crc32c b).toNat

def recordValid (r : List Byte) : Bool := (crc32c (r.take 60)).toNat == leAt r 60 4
def recordSealed (r : List Byte) : Bool := recordValid r && leAt r 24 1 / 2 % 8 == 7
def recordGen (r : List Byte) : Nat := leAt r 0 8

/-- The training declarations of a job. -/
def State.trainOf (s : State) (j : Job) : Option TrainDecl := (s.bundle? j.bundle).bind (·.decl.train)

/-- The ranks of a job on this package, by logical die. -/
def Job.localRanks (j : Job) : List Nat := numsFrom 0 j.w

/-- What the loader reads of a job's record areas and statistics blocks. -/
def recordSpans (j : Job) (d : TrainDecl) : List BitSpan :=
  (j.localRanks.map fun i => [⟨some j.f, 8 * recordAt d i 0, 1024⟩, ⟨some j.f, 8 * statsAt d i 0, 8 * statsBytes d⟩,
    ⟨some j.f, 8 * statsAt d i 1, 8 * statsBytes d⟩]).flatten

/-! ### FULL and SHARD (R272, R278, R279) -/

/-- Bytes of two full working copies: W and Wᵀ of both slots of every parameter. -/
def workingBytes (b : BundleDecl) : Nat :=
  let ts := (b.kernels.map (·.tensors)).flatten
  let size (id : Nat) : Nat := ((findTensor ts id).map fun t => storedBytes t + if t.fmt.isMx then t.rows * scaleColsOf t else 0).getD 0
  match b.train with
  | some d => natSum (d.params.map fun p => size p.work.1 + size p.work.2 + size p.trans.1 + size p.trans.2)
  | none => 0

/-- Bytes of the masters and moments of a bundle in both slots. -/
def masterBytes (b : BundleDecl) : Nat :=
  let ts := (b.kernels.map (·.tensors)).flatten
  let size (id : Nat) : Nat := ((findTensor ts id).map storedBytes).getD 0
  match b.train with
  | some d => natSum (d.params.map fun p => natSum ([p.master, p.m, p.v].map fun x => size x.1 + size x.2))
  | none => 0

/-- Pages of 2 MiB in which the rank of logical die i holds the other tensors that a bundle places in HBM: gradients, their
reductions, activations. -/
def otherPages (b : BundleDecl) (i : Nat) : List Nat :=
  let params : List Nat := match b.train with
    | some d => (d.params.map fun (p : ParamDecl) =>
        [p.master.1, p.master.2, p.m.1, p.m.2, p.v.1, p.v.2, p.work.1, p.work.2, p.trans.1, p.trans.2]).flatten
    | none => []
  let span (va n : Nat) : List Nat := if n = 0 then [] else numsFrom (va / pageBytes) ((va + n - 1) / pageBytes + 1 - va / pageBytes)
  ((((b.kernels.map (·.tensors)).flatten.filter fun t => !params.contains t.id).map fun t => match hbmAt t i with
    | some a => span a.1 (storedBytes t) ++ if t.fmt.isMx then span a.2 (t.rows * scaleColsOf t) else []
    | none => []).flatten).eraseDups

/-- Bytes that a rank holds on its die: the working copies, whole or under SHARD those of its own buckets, its share of masters and
moments (R272), and its other tensors. -/
def rankBytes (b : BundleDecl) (ranks : Nat) (shard : Bool) (i : Nat) : Nat :=
  (if shard then ceilDiv (workingBytes b) (max 1 ranks) else workingBytes b) + ceilDiv (masterBytes b) (max 1 ranks)
    + (otherPages b i).length * pageBytes

/-- Logical dies of a job of w ranks that physical die d carries. -/
def State.logicalsIn (s : State) (d w : Nat) : List Nat := (s.logicalsOf d).filter fun i => decide (i < w)

/-- Bytes of die d that the ranks of a function's jobs, but for one, hold. -/
def State.copiesHeld (s : State) (f except d : Nat) : Nat :=
  natSum ((s.loader.jobs.filter fun j => j.f == f && j.handle != except && j.state == .active).map fun j =>
    match s.bundle? j.bundle with
    | some b => natSum ((s.logicalsIn d j.w).map (rankBytes b.decl j.ranks j.shard))
    | none => 0)

/-- Bytes of die d that a job of function f can have: the mappable window without the key-value pool, without the pages that other
functions have mapped and without what the function's other jobs hold (R243, R331). -/
def State.dieRoom (s : State) (f except d : Nat) : Nat :=
  95 * 2 ^ 30 - (s.fld (sqPage .loader) kvPool_pages d + (s.fields.filter fun e =>
    e.1 / 2 ^ 27 != f && e.2.any fun m => m.pa / 65536 == d).length) * pageBytes - s.copiesHeld f except d

/-- What the ranks of the job hold with two full working copies each has no room on the physical die that carries them, as where one
carries two (R279; DEDUCED, log 32). -/
def State.needsShard (s : State) (f except : Nat) (b : BundleDecl) (ranks w : Nat) : Bool :=
  b.train.isSome && (numsFrom 0 8).any fun d =>
    let is := s.logicalsIn d w
    decide (1 < is.length) || decide (s.dieRoom f except d < natSum (is.map (rankBytes b ranks false)))

/-- The rank that owns a bucket of a tensor of B buckets (R272). -/
def bucketRank (ranks B b : Nat) : Nat := b * ranks / B

/-- A parameter tensor as the rank of logical die i holds it. -/
def rankRef (f : Nat) (t : TensorDecl) (i : Nat) : Option GRef := (hbmAt t i).map fun a => ⟨t, t, f, a.1, a.2, 0⟩

/-- Elements of the buckets of W that other ranks than that of logical die i own, as row and column with the owner's logical die,
none where the owner is on another package. -/
def foreignElems (j : Job) (t : TensorDecl) (i : Nat) : List (Option Nat × Nat × Nat) :=
  let n := t.rows * t.cols
  let B := ceilDiv n 4096
  (numsFrom 0 n).filterMap fun e =>
    let r := bucketRank j.ranks B (e / 4096)
    if r = j.pkg * j.w + i then none
    else some (if j.pkg * j.w ≤ r && r < j.pkg * j.w + j.w then some (r - j.pkg * j.w) else none, e / t.cols, e % t.cols)

/-- The element of one rank's tensor, with its block scale, at the place of another's. -/
def State.moveElem (s : State) (src dst : GRef) (r c : Nat) : List BitWrite :=
  ⟨dst.elemSpan r c, s.bitsIn (src.elemSpan r c)⟩
    :: if dst.t.fmt.isMx then [⟨dst.scaleSpan r (c / 32), s.bitsIn (src.scaleSpan r (c / 32))⟩] else []

/-- An element that a rank's W or Wᵀ lacks: the owner's tensor, none for one of another package, the rank's own tensor, row and
column, and the row and column of the element in W. -/
structure Missing where
  src : Option GRef
  dst : GRef
  r : Nat
  c : Nat
  key : Nat × Nat
  deriving DecidableEq, Repr

/-- The elements that W and Wᵀ of slot k at logical die i lack. -/
def missingElems (j : Job) (b : BundleDecl) (d : TrainDecl) (k i : Nat) : List Missing :=
  let ts := (b.kernels.map (·.tensors)).flatten
  let part (id : Nat) (flip : Bool) (es : List (Option Nat × Nat × Nat)) : List Missing :=
    match findTensor ts id with
    | some t => es.filterMap fun e => (rankRef j.f t i).map fun dst =>
        ⟨e.1.bind (rankRef j.f t), dst, if flip then e.2.2 else e.2.1, if flip then e.2.1 else e.2.2, e.2⟩
    | none => []
  (d.params.map fun p =>
    let es := ((findTensor ts (pickSlot p.work k)).map fun t => foreignElems j t i).getD []
    part (pickSlot p.work k) false es ++ part (pickSlot p.trans k) true es).flatten

/-- What comes for an element of another package: open bits, the same in W and Wᵀ, since no state of this package holds them
(DESIGN CHOICE, log 32). -/
def openElem (n : Nat) (x : Missing) : List BitWrite :=
  let bits (key : Nat) (y : BitSpan) : BitWrite := ⟨y, leNat ((numsFrom 0 (ceilDiv y.width 8)).map fun k => Config.freeByte n (key + k))⟩
  bits ((x.key.1 * 2 ^ 32 + x.key.2) * 8) (x.dst.elemSpan x.r x.c)
    :: if x.dst.t.fmt.isMx then [bits (x.dst.scaleSpan x.r (x.c / 32)).bit (x.dst.scaleSpan x.r (x.c / 32))] else []

/-- W and Wᵀ of slot k at logical die i take the buckets that they lack from their owners, under the sector code (R245, R258). -/
def State.deliverTo (s : State) (j : Job) (b : BundleDecl) (d : TrainDecl) (k i : Nat) : State :=
  let es := missingElems j b d k i
  let s := s.loaderRead (es.map fun e => (e.src.map fun g => g.spansAt e.r e.c).getD []).flatten
  let ws := (es.map fun e => match e.src with
    | some g => s.moveElem g e.dst e.r e.c
    | none => openElem s.freeCount e).flatten
  ((s.withFreeCount (s.freeCount + 1)).wakeSpans (ws.map (·.span))).storeAll (fun _ s => s) ws

/-- ns that the delivery of the missing buckets takes, at the 350 GB/s that reach a die (R279). -/
def deliverNs (j : Job) (b : BundleDecl) : Nat := ceilDiv (workingBytes b / 2 * (j.ranks - 1) / max 1 j.ranks) 350

/-- A generation whose records carry another shard flag than the job's mode: the missing buckets are delivered before the first
step, which counts their time, or dropped (R284). -/
def State.deliverMode (s : State) (j : Job) (b : BundleDecl) (d : TrainDecl) (g : Nat) : State :=
  let shard := bitOf (leAt (s.vaBytes j.f (recordAt d 0 (g % 2)) 64) 24 1) 4
  if shard && !j.shard then
    (j.localRanks.foldl (fun s i => s.deliverTo j b d (g % 2) i) s).setJob { j with firstNs := deliverNs j b }
  else s

/-! ### Adoption (R284) -/

/-- Generation g is sealed at every rank of this package. The records of ranks on other packages are not examined (log 32). -/
def State.genSealed (s : State) (j : Job) (b : Bundle) (d : TrainDecl) (g : Nat) : Bool :=
  j.localRanks.all fun i =>
    let r := s.vaBytes j.f (recordAt d i (g % 2)) 64
    recordSealed r && recordGen r == g && leAt r 12 4 == j.pkg * j.w + i && leAt r 16 4 == j.ranks && leAt r 20 4 == b.id
      && (crc32c (s.vaBytes j.f (statsAt d i (g % 2)) (statsBytes d))).toNat == leAt r 28 4

/-- Write 64 zero bytes over every valid record younger than the adopted generation. -/
def dropRecords (f : Nat) (adopted : Option Nat) : List Nat → State → State
  | [], s => s
  | a :: as, s =>
    let r := s.vaBytes f a 64
    let young := match adopted with
      | some g => decide (g < recordGen r)
      | none => true
    dropRecords f adopted as (if recordValid r && young then s.loaderWrite f a (leBytes 64 0) else s)

/-- The record areas of a job's ranks on this package. -/
def recordAreas (j : Job) (d : TrainDecl) : List Nat := (j.localRanks.map fun i => [recordAt d i 0, recordAt d i 1]).flatten

/-- Adopt the newest generation that is sealed at every rank; none where there is none. -/
def State.adopt (s : State) (j : Job) : Option Nat × State :=
  match s.bundle? j.bundle with
  | none => (none, s)
  | some b =>
    match b.decl.train with
    | none => (none, s)
    | some d =>
      let s := s.loaderRead (recordSpans j d)
      let areas := recordAreas j d
      let gs := (areas.map fun a => s.vaBytes j.f a 64).filter recordSealed |>.map recordGen
      let ok := gs.filter (s.genSealed j b d)
      let g := if ok.isEmpty then none else some (natMax ok)
      let s := dropRecords j.f g areas s
      let others := s.loader.gens.filter fun p => p.1 != j.handle
      let s := s.withLoader { s.loader with gens := others ++ (g.map fun x => (j.handle, x)).toList }
      (g, match g with
        | some x => s.deliverMode j b.decl d x
        | none => s)

/-- The generation after J or D is the one that the job had adopted: every younger record is zeroed, whether all ranks sealed it
or not (Table TRAIN-2). -/
def State.revert (s : State) (j : Job) : State :=
  match s.trainOf j with
  | some d => dropRecords j.f ((s.loader.gens.find? fun p => p.1 == j.handle).map (·.2)) (recordAreas j d) (s.loaderRead (recordSpans j d))
  | none => s

/-! ### The commit of a generation (R282) -/

/-- The generation that a training step writes: one above its base, 0 for an initialising step (R280, R285). -/
def nextGen (ticket : List Byte) : Nat := (leAt ticket 96 8 + 1) % 2 ^ 64

/-- opt_step of the generation that a step writes: one above that of its base; 0 for generation 0 (DEDUCED, log 32). -/
def State.optStep (s : State) (j : Job) (d : TrainDecl) (i g : Nat) : Nat :=
  if g = 0 then 0 else (leAt (s.vaBytes j.f (recordAt d i ((g - 1) % 2)) 64) 8 4 + 1) % 2 ^ 32

/-- Open records of generation g at every rank of this package (step 1 of R282). -/
def openRecords (j : Job) (b : Bundle) (d : TrainDecl) (g : Nat) : List Nat → State → State
  | [], s => s
  | i :: is, s =>
    let r := recordBytes g (s.optStep j d i g) (j.pkg * j.w + i) j.ranks b.id (g % 2) false j.shard 0
    openRecords j b d g is (s.loaderWrite j.f (recordAt d i (g % 2)) r)

def State.openGeneration (s : State) (j : Job) (ticket : List Byte) : State :=
  match s.bundle? j.bundle with
  | some b => match b.decl.train with
    | some d => openRecords j b d (nextGen ticket) j.localRanks (s.loaderRead (recordSpans j d))
    | none => s
  | none => s

/-- The exponent tensors of a layer as some run of the job names them, with how many buckets each covers. -/
def State.layerTensors (s : State) (job : Nat) (l : LayerDecl) : List (GRef × Nat) :=
  l.exps.filterMap fun id => (s.loader.runs.filter fun r => r.job == job).findSome? fun r =>
    (s.gref r.id id false).bind fun g => g.t.gradient.bind fun k => (findTensor (s.tensorsOf r) k).map fun t =>
      (g, ceilDiv (t.rows * t.cols) 4096)

/-- The agreed exponents of a layer. -/
def State.layerExps (s : State) (job : Nat) (l : LayerDecl) : List Int :=
  ((s.layerTensors job l).map fun g => (numsFrom 0 g.2).map (s.gexp g.1)).flatten

/-- What the loader reads for the histograms of a job's layers. -/
def State.layerSpans (s : State) (job : Nat) (d : TrainDecl) : List BitSpan :=
  (d.layers.map fun l => ((s.layerTensors job l).map fun g => (numsFrom 0 g.2).map g.1.wordSpan).flatten).flatten

/-- The block of the write slot: that of the read slot, with each layer's new histogram in place of the oldest. -/
def newStats (d : TrainDecl) (g : Nat) (old : List Byte) (hists : List (List Nat)) : List Byte :=
  (hists.zipIdx.map fun h => (numsFrom 0 d.ringLen).map fun j =>
    if j = g % d.ringLen then (h.1.map (leBytes 4)).flatten
    else (old.drop ((h.2 * d.ringLen + j) * histBytes)).take histBytes).flatten.flatten

/-- Statistics blocks and sealed records of generation g at some ranks of this package (steps 5 and 6 of R282). -/
def sealRecords (j : Job) (b : Bundle) (d : TrainDecl) (g : Nat) (hists : List (List Nat)) : List Nat → State → State
  | [], s => s
  | i :: is, s =>
    let old := if g = 0 then leBytes (statsBytes d) 0 else s.vaBytes j.f (statsAt d i ((g - 1) % 2)) (statsBytes d)
    let block := newStats d g old hists
    let r := recordBytes g (s.optStep j d i g) (j.pkg * j.w + i) j.ranks b.id (g % 2) true j.shard (crc32c block).toNat
    sealRecords j b d g hists is ((s.loaderWrite j.f (statsAt d i (g % 2)) block).loaderWrite j.f (recordAt d i (g % 2)) r)

/-- The rank of logical die i seals the generation of a training step. An initialising step counts no histogram. -/
def State.sealRank (s : State) (j : Job) (ticket : List Byte) (i : Nat) : State :=
  match s.bundle? j.bundle with
  | some b => match b.decl.train with
    | some d =>
      let g := nextGen ticket
      let s := s.loaderRead (recordSpans j d ++ if g = 0 then [] else s.layerSpans j.handle d)
      let hists := d.layers.map fun l => if g = 0 then List.replicate 130 0 else histogram (s.layerExps j.handle l)
      sealRecords j b d g hists [i] s
    | none => s
  | none => s

/-! ### Kernel variants (R268, R270, R279) -/

/-- The gradient format of a layer at intake, from the statistics block of the read slot. -/
def State.layerFormat (s : State) (j : Job) (d : TrainDecl) (layer : Nat) (l : LayerDecl) : Fmt :=
  match s.loader.gens.find? fun p => p.1 == j.handle with
  | some p => gradFormat l.fmts (ringSum d (s.vaBytes j.f (statsAt d 0 (p.2 % 2)) (statsBytes d)) layer)
  | none => .bf16

/-- The SHARD variant of a kernel, where it has one. -/
def shardKernel (d : TrainDecl) (k : Nat) : Nat := ((d.shardOf.find? fun p => p.1 == k).map (·.2)).getD k

/-- The kernel that stands for a listed one: a layer's backward kernel of the chosen format, and its SHARD variant. -/
def State.variantOf (s : State) (j : Job) (d : TrainDecl) (k : Nat) : Nat :=
  let k := match d.layers.zipIdx.find? fun l => l.1.backward.any fun v => v.2 == k with
    | some l => ((l.1.backward.find? fun v => v.1 == s.layerFormat j d l.2 l.1).map (·.2)).getD k
    | none => k
  if j.shard then shardKernel d k else k

/-- The kernels that a step of a job runs. -/
def State.stepKernels (s : State) (j : Job) (ks : List Nat) : List Nat :=
  match s.trainOf j with
  | some d => ks.map (s.variantOf j d)
  | none => ks

/-- The variants that may stand for a kernel (R268), under SHARD delivery those of R279. -/
def variantsOf (b : BundleDecl) (shard : Bool) (k : Nat) : List Nat :=
  match b.train with
  | some d =>
    let ks : List Nat := match d.layers.find? fun l => l.backward.any fun v => v.2 == k with
      | some l => l.backward.map (·.2)
      | none => [k]
    ks.map fun v => if shard then shardKernel d v else v
  | none => [k]

end Sys2Proof.Machine
end

