-- ==== Sys2Proof/Machine/Almanac.lean ====
section
/-! DEFINITION. The Almanac: demand, the reservation test, re-tests, withdrawals and deadlines (R305, R342 to R357). -/

namespace Sys2Proof.Machine

/-! ### Plans (R305) -/

/-- The smallest enabled Loom count of any Hamlet of die d. -/
def State.minLooms (s : State) (d : Nat) : Nat :=
  let n (h : Nat) : Nat := popCount (bitsOf (s.fuses.looms.getD d 0) (8 * h + 7) (8 * h)) 8
  min (min (n 0) (n 1)) (min (n 2) (n 3))

/-- The shapes lie in a plan's box. -/
def planHolds (p : Plan) (shapes : List Nat) : Bool :=
  (p.box.zip shapes).all fun x => decide (x.1.1 ≤ x.2) && decide (x.2 ≤ x.1.2)

/-- The plan that the Reeves of die d take, with its index. -/
def State.planOn (s : State) (k : KernelDecl) (shapes : List Nat) (d : Nat) : Option (Nat × Plan) :=
  findIdxFrom (fun p => planHolds p shapes && decide (p.minLooms ≤ s.minLooms d)) 0 k.plans

/-! ### Demand (R345) -/

/-- Whether a piece has commands on logical die i. A piece without any command counts on every die (DEDUCED, log 24). -/
def pieceOnDie (p : Piece) (i : Nat) : Bool :=
  p.looms.any (·.die == i) || p.sieves.any (·.die == i) || p.gates.any (·.die == i) || p.grans.any (·.die == i) ||
    (p.looms.isEmpty && p.sieves.isEmpty && p.gates.isEmpty && p.grans.isEmpty)

/-- A piece's WCET for the fused grade: ACLK cycles and ns. -/
def State.pieceWcet (s : State) (p : Piece) : Nat × Nat := p.wcet.getD s.fuses.grade (0, 0)

/-- FL_RTT of a package port. -/
def State.rttOf (s : State) (n : Nat) : Nat := s.fld (portPage (portDie n) (portNo n)) flRtt_ns

/-- The largest FL_RTT of the ports that are UP. -/
def State.slowestRtt (s : State) : Nat := natMax (((numsFrom 0 112).filter s.portUp).map s.rttOf)

/-- FL_RTT of the slowest link of a job's routes: of their first links, whose round trips this package measures. Before the job is
bound to packages, of every port that is UP (DEDUCED, log 23). -/
def State.jobRtt (s : State) (job : Nat) : Nat :=
  match s.bindingOf job, (s.job? job).map (·.pkg) with
  | some b, some me => natMax (((b.nodes.zipIdx).filter fun n => n.2 != me).filterMap fun n => (s.routeTo n.1).map fun r => s.rttOf r.2)
  | _, _ => s.slowestRtt

/-- Ferry bytes in ns at the flit rate that R379 gives for the slowest link (R388): 200 Gb/s up to a round trip of 3,500 ns, and
200 Gb/s × 3,860.48 ÷ (FL_RTT + 360) beyond. -/
def ferryNs (rtt bytes : Nat) : Nat :=
  if bytes = 0 then 0
  else if rtt ≤ 3500 then ceilDiv bytes 25
  else ceilDiv (bytes * 4 * (rtt + 360)) 386048

/-- The sum over a plan's pieces on logical die i, with the time of the Ferry bytes. -/
def State.planWcet (s : State) (rtt : Nat) (p : Plan) (i : Nat) : Nat × Nat :=
  let ps := p.pieces.filter fun x => pieceOnDie x i
  let ws := ps.map s.pieceWcet
  (natSum (ws.map (·.1)), natSum (ws.map (·.2)) + ferryNs rtt (natSum (ps.map (·.ferry))))

/-- ALM_STATUS.aclk_mhz. -/
def State.aclkMhz (s : State) : Nat := s.fld (sqPage .almanac) almStatus_aclkMhz

/-- ACLK cycles in ns, rounded up. -/
def cyclesNs (mhz cycles : Nat) : Nat := ceilDiv (cycles * 1000) mhz

/-- The longer of two demands at a clock. -/
def longer (mhz : Nat) (a b : Nat × Nat) : Nat × Nat :=
  if cyclesNs mhz b.1 + b.2 ≤ cyclesNs mhz a.1 + a.2 then a else b

/-- A kernel's WCET on logical die i of physical die d: of the plan that the shapes choose, or before the shapes are known
of the longest plan the die can run (DEDUCED, log 24). -/
def State.kernelWcet (s : State) (rtt : Nat) (k : KernelDecl) (shapes : Option (List Nat)) (i d : Nat) : Nat × Nat :=
  match shapes with
  | some v => match s.planOn k v d with
    | some p => s.planWcet rtt p.2 i
    | none => (0, 0)
  | none => ((k.plans.filter fun p => decide (p.minLooms ≤ s.minLooms d)).map fun p => s.planWcet rtt p i).foldl
      (longer s.aclkMhz) (0, 0)

/-- The WCET of a step of a bundle that runs some kernels on logical dies 0 to w − 1: the largest over the dies. Before the
shapes are known, the longest of a layer's gradient-format variants counts (R268). -/
def State.stepWcet (s : State) (rtt : Nat) (b : BundleDecl) (shard : Bool) (kernels : List Nat) (shapes : Option (List Nat)) (w : Nat) :
    Nat × Nat :=
  let alts (k : Nat) : List Nat := if shapes.isSome then [k] else variantsOf b shard k
  let on (i : Nat) : Nat × Nat :=
    let ws := kernels.map fun k => (((alts k).filterMap fun v => b.kernels[v]?).map fun v =>
      s.kernelWcet rtt v shapes i ((s.dieOf i).getD i)).foldl (longer s.aclkMhz) (0, 0)
    (natSum (ws.map (·.1)), natSum (ws.map (·.2)))
  ((numsFrom 0 w).map on).foldl (longer s.aclkMhz) (0, 0)

/-- The dies, as a mask, that carry logical dies 0 to w − 1. -/
def State.diesOf (s : State) (w : Nat) : Nat :=
  natSum ((numsFrom 0 8).map fun d => if (s.logicalsOf d).any fun i => decide (i < w) then 2 ^ d else 0)

/-- The step of an entry. -/
def State.entryStep? (s : State) (e : AEntry) : Option Step :=
  s.loader.steps.find? fun t => t.job == e.job && t.number == e.step

/-- The demand of an entry on a logical die: completed pieces at the ACLK they ran at, the rest at the present one (R345,
R352). -/
def State.demandLogical (s : State) (e : AEntry) (i : Nat) : Nat :=
  let st := s.entryStep? e
  let ran := ((st.map (·.ran)).getD []).find? fun r => r.1 == i
  let cyc := (ran.map fun r => r.2.2.1).getD 0
  let ns := (ran.map fun r => r.2.2.2).getD 0
  ns + cyclesNs s.aclkMhz (e.wcetAclk - cyc) + e.wcetFixed + (st.map (·.extraNs)).getD 0 + 20000

/-- The demand of an entry of a job of w dies on physical die d; a die with two logical dies carries both. -/
def State.demandOn (s : State) (e : AEntry) (w d : Nat) : Nat :=
  natSum (((s.logicalsOf d).filter fun i => decide (i < w)).map fun i => s.demandLogical e i)

/-! ### The test (R346) -/

/-- A reservation on a die. -/
structure Resv where
  release : Nat
  deadline : Nat
  c : Nat
  deriving DecidableEq, Repr

/-- The inequality of R346 for a total demand and a length in ns, exactly. -/
def fitsSlot (mhz margin total len : Nat) : Bool :=
  decide (((total + 220000) * mhz + 360000000) * 1000 ≤ (1000 - margin) * len * mhz)

/-- The test over the reservations of a die. -/
def State.resvTest (s : State) (rs : List Resv) : Bool :=
  rs.all fun a => rs.all fun b =>
    !trBefore a.release b.deadline ||
      fitsSlot s.aclkMhz (s.fld (sqPage .almanac) almCtrl_margin)
        (natSum ((rs.filter fun x => trLe a.release x.release && trLe x.deadline b.deadline).map (·.c)))
        (unitsNs s.videoN s.videoD s.videoL (trDiff s.videoL a.release b.deadline))

/-- ON-AIR and COMMITTED entries that hold a reservation. -/
def AEntry.reserved (e : AEntry) : Bool := decide (e.cls < 2) && decide (1 ≤ e.state) && decide (e.state ≤ 5)

/-- Ranks per package of the job with a handle. -/
def State.jobW (s : State) (h : Nat) : Nat := ((s.job? h).map (·.w)).getD 0

/-- An entry as a reservation on die d, none where the die does not carry it. -/
def State.resvOf (s : State) (w d : Nat) (e : AEntry) : Option Resv :=
  if bitOf e.dies d then some ⟨e.release, e.deadline, s.demandOn e w d⟩ else none

/-- The reservations on die d of the entries of some jobs. -/
def State.resvsOn (s : State) (p : AEntry → Bool) (d : Nat) : List Resv :=
  s.alm.filterMap fun x => match x.2 with
    | some e => if e.reserved && p e then s.resvOf (s.jobW e.job) d e else none
    | none => none

/-- New entries of a job of w dies pass with everything that is held. -/
def State.admits (s : State) (w : Nat) (new : List AEntry) : Bool :=
  (numsFrom 0 8).all fun d => s.resvTest (s.resvsOn (fun _ => true) d ++ new.filterMap (s.resvOf w d))

/-- An entry passes by itself. -/
def State.entryFits (s : State) (e : AEntry) : Bool :=
  (numsFrom 0 8).all fun d => s.resvTest ((s.resvOf (s.jobW e.job) d e).toList)

/-! ### Entries (R342, R350) -/

def almSize : Nat := 2048

/-- The first free entries, at most n. -/
def State.freeEntries (s : State) (n : Nat) : List Nat :=
  ((numsFrom 0 almSize).filter fun i => (s.almEntry i).isNone).take n

def placeEntries : List (Nat × AEntry) → State → State
  | [], s => s
  | p :: ps, s => placeEntries ps (s.setAlm p.1 (some p.2))

/-- Free the entries that satisfy a test. -/
def State.freeWhere (s : State) (p : AEntry → Bool) : State :=
  s.withAlm (s.alm.filter fun x => match x.2 with
    | some e => !p e
    | none => true)

/-- Change every entry that satisfies a test. -/
def State.mapEntries (s : State) (p : AEntry → Bool) (g : AEntry → AEntry) : State :=
  s.withAlm (s.alm.map fun x => match x.2 with
    | some e => (x.1, some (if p e then g e else e))
    | none => x)

/-- The entry of a job's step, with its index. -/
def State.entryOf? (s : State) (job step : Nat) : Option (Nat × AEntry) :=
  s.alm.findSome? fun x => match x.2 with
    | some e => if e.job = job && e.step = step then some (x.1, e) else none
    | none => none

/-- Free the entry of a job's step. -/
def State.freeStepEntry (s : State) (job step : Nat) : State := s.freeWhere fun e => e.job == job && e.step == step

/-- The dies of every entry, after DIE_MAP changed. -/
def State.redie (s : State) : State :=
  s.withAlm (s.alm.map fun x => match x.2 with
    | some e => (x.1, some { e with dies := s.diesOf (s.jobW e.job) })
    | none => x)

/-- ON-AIR or COMMITTED entries exist (R336, R339). -/
def State.guaranteed (s : State) : Bool := s.alm.any fun x => match x.2 with
  | some e => decide (e.cls < 2)
  | none => false

/-- The words ALM_DATA0 to ALM_DATA7 of an entry (Table TIME-3). -/
def almRecord (e : Option AEntry) : Nat :=
  match e with
  | none => 0
  | some e =>
    e.release % 2 ^ 64 * 2 ^ 192 + e.deadline % 2 ^ 64 * 2 ^ 128 + e.wcetAclk % 2 ^ 40 * 2 ^ 88 + e.wcetFixed % 2 ^ 24 * 2 ^ 64
      + e.job % 2 ^ 16 * 2 ^ 48 + e.step % 2 ^ 16 * 2 ^ 32 + e.cue % 2 ^ 12 * 2 ^ 20 + (if e.cueEn then 2 ^ 19 else 0)
      + (if e.hold then 2 ^ 18 else 0) + (if e.late then 2 ^ 17 else 0) + (if e.mirror then 2 ^ 16 else 0)
      + e.cls % 4 * 2 ^ 14 + e.state % 8 * 2 ^ 11 + e.reason % 8 * 2 ^ 8 + e.dies % 256

/-! ### The end of a step (R325, R354, R439) -/

/-- A step leaves the loader without a commit: its completion is written and its entry is free. -/
def State.endStep (s : State) (t : Step) (status code : Nat) : State :=
  ((s.endTicket t.f t.ring t.ticket status code).freeStepEntry t.job t.number).dropStep t

def endSteps (status code : Nat) : List Step → State → State
  | [], s => s
  | t :: ts, s => endSteps status code ts (s.endStep t status code)

/-- The steps of a job that were taken in. -/
def State.stepsOf (s : State) (h : Nat) : List Step := s.loader.steps.filter fun t => t.job == h

/-! ### Withdrawal (R354, R355) -/

def signalDies (b op : Nat) (v : Word) : List Nat → State → State
  | [], s => s
  | d :: ds, s => signalDies b op v ds (s.signal d b op v)

/-- The physical dies that carry logical dies of a job. -/
def State.jobDies (s : State) (j : Job) : List Nat := (numsFrom 0 8).filter fun d => bitOf (s.diesOf j.w) d

/-- A job in service is withdrawn on this package. DEDUCED (log 24): the units discard its queued work whether they wait
or not. -/
def State.withdrawHere (s : State) (j : Job) (reason : Nat) : State :=
  let step := ((s.stepOf? j.handle).map (·.number)).getD 0
  let s := s.unitsReset j.handle none
  let s := signalDies j.stepBell bellErrorOp (BitVec.ofNat 32 (0x100 + reason)) (s.jobDies j) s
  let s := s.setJob { j with state := .withdrawn reason }
  let s := s.mapEntries (fun e => e.job == j.handle) fun e => { e with state := 6, reason := reason }
  let s := endSteps cWithdrawn reason (s.stepsOf j.handle) s
  let s := s.withRestarts (s.restarts.filter (· != j.handle))
  let s := (s.bump (sqPage .almanac) withdrawCount_count).event (sqPage .almanac) almanac_evtRaw_withdrawal
  if [2, 3, 4, 7].contains reason then
    s.ledgerAdd 6 reason (some (sqPage .almanac)) 32 0 j.handle j.f step 0
  else s

/-- A job is withdrawn, at every package (R355). -/
def State.withdrawJob (s : State) (h reason : Nat) : State :=
  match s.job? h with
  | some j => if j.state = .active then (s.jobTree j j.pkg opWithdraw reason).withdrawHere j reason else s
  | none => s

def withdrawJobs (reason : Nat) : List Nat → State → State
  | [], s => s
  | h :: hs, s => withdrawJobs reason hs (s.withdrawJob h reason)

/-! ### Deadlines (R348, R356) -/

/-- The entry leaves the test: it becomes OPEN and keeps its deadline. -/
def State.openEntry (s : State) (i : Nat) (e : AEntry) : State := s.setAlm i (some { e with cls := 2 })

/-- The step of an entry counts a deadline miss. -/
def State.missDeadline (s : State) : State :=
  (s.bump (sqPage .almanac) deadlineMissCount_count).event (sqPage .almanac) almanac_evtRaw_deadlineMiss

/-- The action at the deadline of a step that has not committed. An entry that left the test before counts its miss at the
deadline transit only. -/
def State.deadlineAct (s : State) (i : Nat) (e : AEntry) : State :=
  if e.late then s.missDeadline.openEntry i e else s.withdrawJob e.job 5

/-- An entry is freed at its deadline when no ticket of its slot was taken in (R348). An entry of an OPEN job has no deadline. -/
def State.deadlineOf (s : State) (i : Nat) : State :=
  match s.almEntry i with
  | none => s
  | some e =>
    if (s.job? e.job).any (·.cls == 2) then s
    else
      let s := s.advanceTo e.deadline
      if !e.taken then s.setAlm i none
      else if e.state = 5 || e.state = 6 then s
      else if e.cls = 2 then (if e.late && (s.entryStep? e).any (!·.late) then
        match s.entryStep? e with
        | some t => (s.setStep { t with late := true }).missDeadline
        | none => s else s)
      else
        let s := match s.entryStep? e with
          | some t => s.setStep { t with late := true }
          | none => s
        s.deadlineAct i e

/-- The deadline transit of an Almanac entry. -/
def execDeadlineTransit (entry : Nat) (s : State) : Host.Outcome State Fault Refusal :=
  .next (if entry < almSize then s.deadlineOf entry else s)

/-! ### Re-tests (R352, R353) -/

/-- The reason of a re-test with two triggers: a trip, a droop and a cap come before the restarts and fences that they bring
about (R357); otherwise the first trigger's stays (DESIGN CHOICE, log 24). -/
def retestReason (old : Option Nat) (new : Nat) : Nat :=
  match old with
  | some r => if [2, 3, 4].contains new && !([2, 3, 4].contains r) then new else r
  | none => new

/-- A re-test is due; the reason of what it withdraws, and ALM_STATUS.readmitting. -/
def State.triggerRetest (s : State) (reason : Nat) : State :=
  let s := s.setFld (sqPage .almanac) almStatus_readmitting 1
  s.withPower { s.power with retest := some (retestReason s.power.retest reason) }

/-- An entry leaves the test before its deadline because it fails by itself: its step counts its miss now (R356). -/
def State.lateEntry (s : State) (i : Nat) (e : AEntry) : State :=
  let s := match s.entryStep? e with
    | some t => s.setStep { t with late := true }
    | none => s
  s.missDeadline.openEntry i e

/-- Step 1: an entry whose step restarted or is late and fails by itself leaves the test with late_deliver; without it its
job is marked, for withdrawal with reason 0x05 (R356). -/
def retestSingles : List (Nat × Option AEntry) → State → List Nat × State
  | [], s => ([], s)
  | x :: xs, s =>
    match x.2 with
    | some e =>
      let live := e.reserved && match s.entryStep? e with
        | some t => ((s.job? e.job).any (fun j => decide (0 < j.restarts)) && (s.stepOf? e.job).any (·.number == t.number))
            || trBefore e.release t.intake
        | none => false
      if live && !s.entryFits e then
        if e.late then retestSingles xs (s.lateEntry x.1 e)
        else let r := retestSingles xs s; (e.job :: r.1, r.2)
      else retestSingles xs s
    | none => retestSingles xs s

/-- The list of step 2: jobs with reservations, ON-AIR then COMMITTED, in admission order. -/
def State.retestList (s : State) (gone : List Nat) : List Job :=
  let js := s.loader.jobs.filter fun j => j.state == .active && decide (j.cls < 2) && !gone.contains j.handle
  (js.filter (·.cls == 0)) ++ js.filter (·.cls == 1)

/-- Step 3: the last job of the list goes while the test fails on any die; the jobs that remain to be withdrawn. -/
def State.retestDrop (s : State) : Nat → List Job → List Nat
  | 0, _ => []
  | n + 1, js =>
    if (numsFrom 0 8).all fun d => s.resvTest (s.resvsOn (fun e => js.any fun j => j.handle == e.job) d) then []
    else match js.getLast? with
      | some j => j.handle :: s.retestDrop n js.dropLast
      | none => []

/-- A pending re-test runs (R353). -/
def State.runRetest (s : State) : State :=
  match s.power.retest with
  | none => s
  | some reason =>
    let r := retestSingles s.alm s
    let s := r.2
    let list := s.retestList r.1
    let drop := s.retestDrop list.length list
    let s := withdrawJobs reason drop (withdrawJobs 5 r.1 s)
    let s := s.withPower { s.power with retest := none }
    let s := (s.setFld (sqPage .almanac) almStatus_readmitting 0).bump (sqPage .almanac) readmitCount_count
    s.event (sqPage .almanac) almanac_evtRaw_readmission

def execRetest (s : State) : Host.Outcome State Fault Refusal := .next s.runRetest

/-! ### Faults of a job's step (R439) -/

/-- A binding is released (R385). -/
def State.releaseBind (s : State) (job : Nat) : State :=
  s.withFerry { s.ferry with binds := s.ferry.binds.filter fun b => b.job != job,
                             sent := s.ferry.sent.filter fun x => x.2.1 != job }

/-- A job ends by a fault: its steps complete ENDED with the code, and so does every later STEP ticket. -/
def State.endJobHere (s : State) (j : Job) (code : Nat) : State :=
  let step := ((s.stepOf? j.handle).map (·.number)).getD 0
  let s := (s.jobReset j.handle none).setJob { j with state := .ended code }
  let s := (endSteps cEnded code (s.stepsOf j.handle) s).freeWhere fun e => e.job == j.handle
  let s := (s.releaseBind j.handle).withRestarts (s.restarts.filter (· != j.handle))
  let s := (s.bump (sqPage .fault) jobEndCount_count).event (sqPage .fault) fault_evtRaw_jobEnded
  s.ledgerAdd 9 code none 32 0 j.handle j.f step 0

/-- The step of a job whose attempt runs, or was aborted and waits. -/
def State.attempt? (s : State) (h : Nat) : Option Step := (s.stepsOf h).find? fun t => t.started || t.stopSeen

/-- No step has this number: a JOB reset of a job that runs no step keeps the PENDING nodes of the steps that wait. -/
def noStep : Nat := 2 ^ 64

/-- The attempt of a job's step on this package stops, and the step waits to be dispatched again. With max_restarts
restarts behind it without a commit, the job ends (R439; DEDUCED, log 25). A step that has not started is not touched. -/
def State.abortHere (s : State) (j : Job) (code : Nat) : State :=
  match s.attempt? j.handle with
  | none => (s.jobReset j.handle (some noStep)).setJob { j with barriers := 0, barBase := 0 }
  | some t =>
    let waits := s.restarts.contains j.handle
    if !waits && s.fld (sqPage .fault) faultCtrl_maxRestarts ≤ j.restarts then s.endJobHere j code
    else
      let s := (s.jobReset j.handle (some t.number)).setJob
        { j with restarts := if waits then j.restarts else j.restarts + 1, barriers := 0, barBase := 0 }
      let s := s.setStep { t with started := false, ran := [], writesDone := false, routes := [], stopSeen := true }
      let s := s.mapEntries (fun e => e.job == t.job && e.step == t.number && e.state != 6) fun e => { e with state := 2 }
      let s := s.withRestarts (if waits then s.restarts else s.restarts ++ [j.handle])
      s.triggerRetest 1

/-- A fault stops a job's step at every package (R389, R439). -/
def State.abortJob (s : State) (h code : Nat) : State :=
  match s.job? h with
  | some j => if j.state = .active then (s.jobTree j j.pkg opJobStop code).abortHere j code else s
  | none => s

end Sys2Proof.Machine
end

