-- ==== Sys2Proof/Machine/Ferry.lean ====
section
/-! DEFINITION. Ferry traffic that arrives: transit, delivery, job control; route loads and bindings (R381 to R392). -/

namespace Sys2Proof.Machine

/-! ### Transit (R383) -/

/-- The output port that a header names for its next hop. -/
def FlitHdr.nextPort (h : FlitHdr) : Nat := bitsOf h.route (7 * h.hop + 6) (7 * h.hop)

/-- The flit as the next link carries it: hop and VC rise by 1. -/
def hopOn (h : FlitHdr) (x : Flit) : Flit := mkFlit { h with hop := h.hop + 1, vc := h.vc + 1 } x.payload

/-! ### The tables of a job's tiles -/

/-- The run of a job on a logical die. -/
def State.runAt? (s : State) (job die logical : Nat) : Option Nat :=
  (s.loader.runs.find? fun r => r.job == job && r.die == die && r.logical == logical && !r.done).map (·.id)

/-- Every tensor that the kernels of a job's bundle declare. -/
def State.jobTensors (s : State) (job : Nat) : List TensorDecl :=
  match s.jobBundle job with
  | some b => (b.decl.kernels.map (·.tensors)).flatten
  | none => []

/-- The tensors that the receiver of a job's tile knows: those of the run, or of the bundle while no piece runs on the die
(DEDUCED, log 23). -/
def State.ferryTensors (s : State) (job : Nat) (run : Option Nat) : List TensorDecl :=
  match run with
  | some r => s.tensors r
  | none => s.jobTensors job

/-- The tile of a tensor goes to the pair of the die; every other tile goes to the Commons. -/
def toPair (t : Option TensorDecl) : Bool :=
  match t.map TensorDecl.loc with
  | some (.hbm _ _) => true
  | some .bound => true
  | some (.kv _ _ _ _ _) => true
  | _ => false

/-- The tensor of a flit's tag, where a job of this package is bound to its sysjob. -/
def State.flitTensor (s : State) (h : FlitHdr) (x : Flit) : Option TensorDecl :=
  (s.ferry.binds.find? fun b => b.sysjob == h.sysjob).bind fun b =>
    findTensor (s.jobTensors b.job) (tagFields (BitVec.ofNat 128 (flitAt x 16 16))).tensor

/-! ### Transit (R383) -/

/-- A flit in transit. -/
def State.transitFlit (s : State) (d p : Nat) (h : FlitHdr) (x : Flit) : State :=
  let src := (d, p, h.vc)
  let last := if h.kind = fkData then transitLast (s.flitTensor h x) x else some true
  (if h.kind = fkData then s.endTransit src x else s).forward h.nextPort { vc := h.vc + 1, flit := hopOn h x, src := some src, last := last }

/-! ### Delivery (R386) -/

/-- A whole tile is delivered at physical die d over the bridges from the die of arrival port `from_`. Its tag is checked under
R55, and a failure is captured on the port's page (Table FERRY-6). -/
def State.ferryTile (s : State) (job d logical from_ : Nat) (tile : Tile) : State :=
  let run := s.runAt? job d logical
  let ts := s.ferryTensors job run
  let t := findTensor ts (tagFields tile.tag).tensor
  let pair := toPair t
  let step := match run with
    | some r => s.runStep r
    | none => ((s.stepOf? job).map (·.number)).getD (tagFields tile.tag).step % 256
  let way := if pair then s.toPairWay (portDie from_) d else tileWay (fun x => !s.dieLive x) (portDie from_) d
  if !s.wayOpen way then s
  else match tagFault (if pair then .pair else .commons) ts step false tile.tag with
    | some r =>
      let s := if pair then s else match t with
        | some t => s.setTdata (commonsPlace d) job t.id ((s.tdata (commonsPlace d) job t.id).release tile)
        | none => s
      s.checkFault (portPage (portDie from_) (portNo from_)) (infoOf [(r, 0)]) (some job)
    | none =>
      if pair then match run with
        | some r => s.pairArrive d r tile
        | none => s.pairFault d 0x15 0 0 (some job)
      else match t with
        | some t => s.placeIn (commonsPlace d) job t tile
        | none => s

/-- The barrier Bell of the rank of logical die i was SET to k: a barrier of the step is complete there (R323). -/
def State.noteRelease (s : State) (job i k : Nat) : State :=
  match s.loader.steps.find? fun t => t.job == job && t.started with
  | some t => s.setStep { t with released := SMap.set 0 i k t.released }
  | none => s

/-- A signal that arrives by its tag, on the logical die it names. -/
def State.ferryBell (s : State) (tag : BitVec 128) (page : Page) : State :=
  let f := tagFields tag
  let i := f.tensor / 4096
  let b := f.tensor % 4096
  match s.dieOf i with
  | some d =>
    let s := s.bellArrive d ⟨tag, [], []⟩ page
    match (s.bell d b).owner.bind fun o => s.job? o.2 with
    | some j =>
      if j.barBell = b && f.col % 16 = bellSetOp && (s.bell d b).value = BitVec.ofNat 32 f.row then s.noteRelease j.handle i f.row else s
    | none => s
  | none => s

/-- A DATA flit at its last hop: the payload is gathered at its offset (R371), and the tile takes effect with its last flit. A
tile of which a flit was lost on the way takes no effect, and each flit of it is freed. -/
def State.dataIn (s : State) (d p job : Nat) (h : FlitHdr) (x : Flit) : State :=
  let tag := BitVec.ofNat 128 (flitAt x 16 16)
  let port := d * 14 + p
  if (tagFields tag).kind = 4 then (s.ferryBell tag (portPage d p)).freeFlit d p h.vc
  else
    let here (e : FerryTile) : Bool := e.port == port && e.vc == h.vc
    let mine := s.ferry.tilesIn.find? fun e => here e && e.tag == tag && e.sysjob == h.sysjob
    let go := h.offset = 0 || mine.any fun e => e.count == h.offset
    let old := if h.offset = 0 then [] else (mine.map (·.bytes)).getD []
    let owed := 1 + if h.offset = 0 || !go then 0 else (mine.map (·.owed)).getD 0
    let bytes := old ++ (x.payload.drop 16 ++ List.replicate 224 0#8).take 224
    let rest := s.ferry.tilesIn.filter fun e => !here e
    let ended := s.ferry.tilesIn.filter fun e => here e && !(go && h.offset != 0 && some e == mine)
    let s := freeTiles ended (s.withFerry { s.ferry with tilesIn := rest })
    match s.dieOf h.dest with
    | none => freeFlits d p h.vc owed s
    | some pd =>
      let t := findTensor (s.ferryTensors job (s.runAt? job pd h.dest)) (tagFields tag).tensor
      let n := tileFlits t tag
      if !go then s.freeFlit d p h.vc
      else if h.offset + 1 < n then
        s.withFerry { s.ferry with tilesIn := rest ++ [⟨port, h.vc, h.sysjob, tag, h.offset + 1, owed, bytes⟩] }
      else freeFlits d p h.vc owed (s.ferryTile job pd h.dest port (tileOfBytes tag (bytes.take (tilePayload t tag))))

/-! ### Job control (R389) -/

/-- JOB_STOP: the first for an attempt stops it here and goes on along the tree. -/
def State.jobStopIn (s : State) (j : Job) (code f : Nat) : State :=
  match s.stepOf? j.handle with
  | none => s.jobTree j f opJobStop code
  | some t =>
    if t.stopSeen || j.state != .active then s else (s.jobTree j f opJobStop code).abortHere j code

/-- WITHDRAW: it prevails over a JOB_STOP. -/
def State.withdrawIn (s : State) (j : Job) (reason f : Nat) : State :=
  if j.state = .active then (s.jobTree j f opWithdraw reason).withdrawHere j reason else s

/-- A flit at its last hop. -/
def State.deliver (s : State) (d p : Nat) (h : FlitHdr) (x : Flit) : State :=
  match s.ferry.binds.find? fun b => b.sysjob == h.sysjob with
  | none =>
    ((s.bump (sqPage .ferryPkg) unboundCount_count).event (sqPage .ferryPkg) ferryPkg_evtRaw_unboundDrop).freeFlit d p h.vc
  | some b =>
    if h.kind = fkData then s.dataIn d p b.job h x
    else
      let s := if flitOp x = opBell then s.ferryBell (BitVec.ofNat 128 (flitAt x 16 16)) (portPage d p)
        else match s.job? b.job with
          | some j => if flitOp x = opJobStop then s.jobStopIn j (flitCode x) (flitAt x 34 2)
            else s.withdrawIn j (flitCode x) (flitAt x 34 2)
          | none => s
      s.freeFlit d p h.vc

/-- A flit arrives at a port. -/
def State.flitIn (s : State) (d p : Nat) (x : Flit) : State :=
  let r := s.linkIn d p x
  let h := flitHdr x
  if !r.2 then r.1
  else if h.kind = fkControl && decide (opIdent ≤ flitOp x) then r.1.linkOp d p x
  else if h.hop < h.hopsM1 then r.1.transitFlit d p h x
  else r.1.deliver d p h x

def execIdent (d p : Nat) (x : Flit) (s : State) : Host.Outcome State Fault Refusal := .next (s.flitIn d p x)
def execProbe (d p : Nat) (x : Flit) (s : State) : Host.Outcome State Fault Refusal := .next (s.flitIn d p x)
def execEcho (d p : Nat) (x : Flit) (s : State) : Host.Outcome State Fault Refusal := .next (s.flitIn d p x)
def execData (d p : Nat) (x : Flit) (s : State) : Host.Outcome State Fault Refusal := .next (s.flitIn d p x)
def execBell (d p : Nat) (x : Flit) (s : State) : Host.Outcome State Fault Refusal := .next (s.flitIn d p x)
def execJobStop (d p : Nat) (x : Flit) (s : State) : Host.Outcome State Fault Refusal := .next (s.flitIn d p x)
def execWithdraw (d p : Nat) (x : Flit) (s : State) : Host.Outcome State Fault Refusal := .next (s.flitIn d p x)
def execNak (d p : Nat) (x : Flit) (s : State) : Host.Outcome State Fault Refusal := .next (s.flitIn d p x)

/-! ### The route table (R381) -/

/-- A VA in two registers of the package's FERRY page. -/
def State.ferryVa (s : State) (lo hi : FieldRow) : Nat :=
  let pg := sqPage .ferryPkg
  s.fld pg hi * 2 ^ 32 + s.fld pg lo * 2 ^ lo.lo

def routeTableBytes : Nat := 262144

/-- The entries of the table in memory that are not 0, as (node, primary, alternate). -/
def State.readRoutes (s : State) (va : Nat) : List (Nat × Nat × Nat) :=
  (numsFrom 0 32768).filterMap fun n =>
    let b := s.vaBytes 0 (va + 8 * n) 8
    if leNat b = 0 then none else some (n, leAt b 0 4, leAt b 4 4)

/-- The loader has read the route table, with what the sector code records (R258). -/
def State.routesRead (s : State) (va : Nat) : State := s.loaderRead [⟨some 0, 8 * va, 8 * routeTableBytes⟩]

/-- ROUTE_CMD written: a load begins, or the command is overrun. -/
def State.routeCmd (s : State) (v : Nat) : State :=
  let pg := sqPage .ferryPkg
  if s.ferry.loading.isSome then s.setFld pg routeStatus_overrun 1
  else if !bitOf v 0 then s
  else
    let va := s.ferryVa routeVaLo_va routeVaHi_va
    let free := s.ferry.binds.isEmpty
    let s := if free && s.mapped 0 va routeTableBytes false then s.routesRead va else s
    let r : Nat × List (Nat × Nat × Nat) :=
      if !free then (1, [])
      else if !s.mapped 0 va routeTableBytes false then (2, [])
      else
        let es := s.readRoutes va
        if es.all fun e => routeOk e.2.1 && routeOk e.2.2 then (0, es) else (3, [])
    (s.withFerry { s.ferry with loading := some r }).setFld pg routeStatus_busy 1

/-- The load ends: its result, and on success the table is in force. -/
def execRouteLoadComplete (s : State) : Host.Outcome State Fault Refusal :=
  let pg := sqPage .ferryPkg
  match s.ferry.loading with
  | none => .next s
  | some (r, es) =>
    let s := (s.setFld pg routeStatus_busy 0).setFld pg routeStatus_result r
    if r = 0 then
      .next ((s.withFerry { s.ferry with loading := none, routes := es }).setFld pg routeStatus_loaded 1)
    else .next (s.withFerry { s.ferry with loading := none })

/-! ### Bindings (R385) -/

/-- The result of a BIND, with the binding it makes (Table FERRY-8). Checks run in the order of their codes, the map's
mapping before its entry (DEDUCED, log 23). -/
def State.bindResult (s : State) : Nat × Option Binding :=
  let pg := sqPage .ferryPkg
  let sj := s.fld pg fjSysjob_sysjob
  let va := s.ferryVa fjMapLo_va fjMapHi_va
  let node := s.fld pg ferryNode_node
  match s.job? (s.fld pg fjJob_job) with
  | none => if s.ferry.binds.any fun b => b.sysjob == sj then (1, none) else (2, none)
  | some j =>
    if s.ferry.binds.any fun b => b.sysjob == sj && b.job != j.handle then (1, none)
    else if j.ranks ≤ 8 then (2, none)
    else if s.fld pg ferryNode_valid = 0 then (3, none)
    else if !s.mapped j.f va (2 * j.pkgs) false then (5, none)
    else
      let bs := s.vaBytes j.f va (2 * j.pkgs)
      let nodes := (numsFrom 0 j.pkgs).map fun p => leAt bs (2 * p) 2
      if nodes.getD j.pkg 65536 = node then (0, some ⟨sj, j.handle, nodes⟩) else (3, none)

/-- The package map that a BIND reads, with what the sector code records (R258). -/
def State.mapRead (s : State) : State :=
  let pg := sqPage .ferryPkg
  match s.job? (s.fld pg fjJob_job) with
  | some j =>
    let va := s.ferryVa fjMapLo_va fjMapHi_va
    if s.mapped j.f va (2 * j.pkgs) false then s.loaderRead [⟨some j.f, 8 * va, 8 * (2 * j.pkgs)⟩] else s
  | none => s

/-- FJ_CMD written: ignored while a command is in progress. DESIGN CHOICE (log 23): its effect takes place at once, and it is in
progress for the 100 µs that Table FERRY-8 allows. -/
def State.fjCmd (s : State) (op : Nat) : State :=
  let pg := sqPage .ferryPkg
  let sj := s.fld pg fjSysjob_sysjob
  if s.now < s.ferry.fjUntil then s.setFld pg fjStatus_overrun 1
  else if op % 4 = 0 || op % 4 = 3 then s
  else
  let s := s.withFerry { s.ferry with fjUntil := s.now + 100000 }
  if op = 1 then
    let s := s.mapRead
    let r := s.bindResult
    let s := s.setFld pg fjStatus_result r.1
    match r.2 with
    | some b => s.withFerry { s.ferry with binds := (s.ferry.binds.filter fun x => x.sysjob != sj) ++ [b] }
    | none => s
  else if op = 2 then
    if s.ferry.binds.any fun b => b.sysjob == sj then
      (s.withFerry { s.ferry with binds := s.ferry.binds.filter fun x => x.sysjob != sj }).setFld pg fjStatus_result 0
    else s.setFld pg fjStatus_result 4
  else s

/-! ### Routes of a step (R382) -/

/-- The routes that a step of a job uses, by package index; a package without one is none. -/
def State.chooseRoutes (s : State) (j : Job) : List (Nat × Option (Nat × Nat)) :=
  if j.pkgs ≤ 1 then []
  else match s.bindingOf j.handle with
    | some b => ((numsFrom 0 j.pkgs).filter fun p => p != j.pkg).map fun p => (p, b.nodes[p]?.bind s.routeTo)
    | none => []

/-- The port page that captures a missing route: that of the primary route's first port. -/
def State.lostRoutePage (s : State) (j : Job) (p : Nat) : Page :=
  let node := ((s.bindingOf j.handle).bind fun b => b.nodes[p]?).getD 0
  let n := min (bitsOf (SMap.get (0, 0) s.ferry.routes node).1 8 2) 111
  portPage (portDie n) (portNo n)

end Sys2Proof.Machine
end

