-- ==== Sys2Proof/Machine/Kv.lean ====
section
/-! DEFINITION. The key-value store: frames, held, pinned and droppable pages, shared prefixes, recompute (R185 to R207). -/

namespace Sys2Proof.Machine

/-! ### Frames (R185, R207, R331) -/

/-- Frames of the pool of die d. -/
def State.poolFrames (s : State) (d : Nat) : Nat := s.fld (sqPage .loader) kvPool_pages d * 128

def frameDie (frame : Nat) : Nat := frame / 2 ^ 23 % 8

/-- Frames of die d in use. -/
def State.usedFrames (s : State) (d : Nat) : Nat := (s.loader.frames.filter fun f => frameDie f == d).length

/-- A job whose pages are pinned: an ON-AIR job, or one with a cache tensor that has no recompute kernel (R199). -/
def State.pinsPages (s : State) (j : Job) (cache : Nat) : Bool :=
  j.cls == 0 || match s.cacheDecl j.handle cache with
    | some c => c.recomputeNs.isNone
    | none => true

/-- A job that reserves its frames at admission. -/
def reservesFrames (b : BundleDecl) (cls : Nat) : Bool := cls == 0 || b.caches.any (·.recomputeNs.isNone)

/-- Frames that a job's sessions use on die d. -/
def State.jobFrames (s : State) (h d : Nat) : Nat :=
  let mine := (s.loader.sessions.filter fun x => x.job == h).map (·.id)
  (s.loader.pages.filter fun p => p.entry.state == 1 && frameDie p.entry.target == d
    && (if p.node.isNone then mine.contains p.key.session else false)).length

/-- Frames reserved on die d for jobs, other than a given one, and not yet used. -/
def State.reservedLeft (s : State) (except d : Nat) : Nat :=
  natSum (s.loader.jobs.map fun j =>
    if j.handle = except then 0
    else match s.bundle? j.bundle with
      | some b =>
        if reservesFrames b.decl j.cls then
          b.decl.framesPerDie * ((s.logicalsOf d).filter fun i => decide (i < j.w)).length - s.jobFrames j.handle d
        else 0
      | none => 0)

/-- The lowest free frame of die d for a job. -/
def State.freeFrame (s : State) (job d : Nat) : Option Nat :=
  if s.dieLive d && decide (s.usedFrames d + s.reservedLeft job d < s.poolFrames d) then
    (numsFrom (d * 2 ^ 23) (s.usedFrames d + 1)).find? fun f => !s.loader.frames.contains f
  else none

/-! ### Conditions of pages (R198) -/

/-- The table place of a page. -/
def State.placeRef (s : State) (job : Nat) (k : KvRef) : KvRef :=
  { k with page := ringPlace (s.cacheDecl job k.cache) k.page }

/-- The pages of the store that a reference of a job's step leads to: the session's own, and through a SHARED entry the
node's. -/
def State.refPages (s : State) (job : Nat) (k : KvRef) : List KvPage :=
  match s.kvEntry job k.session k.cache k.layer k.headGroup k.isValue k.page with
  | some p =>
    if p.entry.state = 3 then p :: (s.nodeEntry p.entry.target k.cache k.layer k.headGroup k.isValue k.page).toList
    else [p]
  | none => []

/-- A step between its intake and its commit reads or writes the page. -/
def State.held (s : State) (p : KvPage) : Bool :=
  s.loader.steps.any fun t => (t.decl.reads ++ t.decl.writes).any fun k =>
    (s.refPages t.job k).any fun q => q.node == p.node && q.key == p.key

/-- The job of a session. -/
def State.sessionJob (s : State) (id : Nat) : Option Job :=
  (s.loader.sessions.find? fun x => x.id == id).bind fun x => s.job? x.job

def State.node? (s : State) (n : Nat) : Option PrefixNode := s.loader.nodes.find? fun x => x.index == n

/-- A page that may not be dropped. -/
def State.pinned (s : State) (p : KvPage) : Bool :=
  p.entry.pinned || match p.node.bind s.node? with
    | some n => n.refs.any fun r => (s.sessionJob r).any (·.cls == 0)
    | none => false

/-- The class in which a droppable page is dropped: 1 of a node without references, 2 of an OPEN job, 3 of a COMMITTED
job. DESIGN CHOICE (log 26): the page of a node that sessions of both reference is one of a COMMITTED job. -/
def State.dropClass (s : State) (p : KvPage) : Nat :=
  match p.node with
  | some n =>
    match s.node? n with
    | some m => if m.refs.isEmpty then 1 else if m.refs.any fun r => (s.sessionJob r).any (·.cls == 1) then 3 else 2
    | none => 1
  | none => if (s.sessionJob p.key.session).any (·.cls == 1) then 3 else 2

/-- The order of dropping (R200). DESIGN CHOICE (log 26): keys go before the values of the same page number. -/
def dropKey (cls : Nat) (p : KvPage) : List Nat :=
  [cls, p.lastRead, p.key.session, p.key.cache, p.key.layer, p.key.headGroup, p.key.page, if p.key.isValue then 1 else 0]

def lexLess : List Nat → List Nat → Bool
  | x :: xs, y :: ys => decide (x < y) || (x == y && lexLess xs ys)
  | _, _ => false

/-- A page of a ring: its slot keeps the frame until the session closes (R190). -/
def State.kvRing (s : State) (p : KvPage) : Bool :=
  p.node.isNone && ((s.sessionJob p.key.session).bind fun j => (s.cacheDecl j.handle p.key.cache).bind (·.ringSlots)).isSome

/-- The page of die d that is dropped first. -/
def State.nextDrop (s : State) (d : Nat) : Option KvPage :=
  let ps := s.loader.pages.filter fun p => p.entry.state == 1 && frameDie p.entry.target == d && !s.pinned p && !s.held p
    && !s.kvRing p
  ps.foldl (fun best p => match best with
    | some q => if lexLess (dropKey (s.dropClass p) p) (dropKey (s.dropClass q) q) then some p else some q
    | none => some p) none

def samePage (p q : KvPage) : Bool := p.node == q.node && p.key == q.key

def State.setPages (s : State) (ps : List KvPage) : State := s.withLoader { s.loader with pages := ps }

/-- Replace a page's entry, or add it. -/
def State.putPage (s : State) (p : KvPage) : State :=
  if s.loader.pages.any (samePage p) then s.setPages (s.loader.pages.map fun q => if samePage p q then p else q)
  else s.setPages (s.loader.pages ++ [p])

/-- Change every prefix node. -/
def State.mapNodes (s : State) (g : PrefixNode → PrefixNode) : State :=
  s.withLoader { s.loader with nodes := s.loader.nodes.map g }

def State.countDropped (s : State) : State :=
  (s.bump (sqPage .loader) kvDropCount_count).event (sqPage .loader) loader_evtRaw_kvDropped
def State.countRecomputed (s : State) : State :=
  (s.bump (sqPage .loader) kvRecompCount_count).event (sqPage .loader) loader_evtRaw_kvRecomputed

def State.freeFrameOf (s : State) (f : Nat) : State :=
  s.withLoader { s.loader with frames := s.loader.frames.filter (· != f) }

/-- Drop a page: its frame is free, its entry reads DROPPED, and so does its node (R200). -/
def State.dropPage (s : State) (p : KvPage) : State :=
  let s := (s.freeFrameOf p.entry.target).putPage { p with entry := { p.entry with state := 2, pinned := false, target := 0 } }
  let s := match p.node with
    | some n => s.mapNodes fun m => if m.index = n then { m with state := 2 } else m
    | none => s
  s.countDropped

/-- A frame on die d for a job, dropping pages while none is free; none when no page can be dropped. -/
def State.getFrame (s : State) (job d : Nat) : Nat → Option (Nat × State)
  | 0 => none
  | n + 1 =>
    match s.freeFrame job d with
    | some f => some (f, s.withLoader { s.loader with frames := s.loader.frames ++ [f] })
    | none => match s.nextDrop d with
      | some p => (s.dropPage p).getFrame job d n
      | none => none

def State.needFrame (s : State) (job d : Nat) : Option (Nat × State) := s.getFrame job d (s.loader.pages.length + 1)

/-- Drop pages of die d until n frames are free; none when they cannot be had (R199). -/
def State.dropFor (s : State) (n d : Nat) : Nat → Option State
  | 0 => none
  | k + 1 =>
    if s.usedFrames d + s.reservedLeft 0x10000 d + n ≤ s.poolFrames d then some s
    else match s.nextDrop d with
      | some p => (s.dropPage p).dropFor n d k
      | none => none

/-! ### Allocation at intake (R185, R186, R201) -/

/-- What intake knows while it prepares a step's pages. -/
structure KvJob where
  job : Job
  b : BundleDecl
  kernels : List Nat
  ticket : List Byte
  slots : List Nat
  deriving DecidableEq, Repr

/-- The format of a command's tensor where a queue of a piece writes a page of a cache tensor: slot, cache tensor, layer, head
group and keys or values are those of the tensor, and a row of the page is among the rows of the WRITE. -/
def granWrites (inSlot : Nat → Bool) (ts : List TensorDecl) (k : KvRef) (g : GranProg) : Option Fmt :=
  (commandWords 0 g.entries).findSome? fun w =>
    let c := granCmd w
    match if c.opcode = 2 then granTensor ts g c.slotD else none with
    | some t => match t.loc with
      | .kv slot cache layer hg isV =>
        if inSlot slot && cache == k.cache && layer == k.layer && hg == k.headGroup && isV == k.isValue
            && decide (c.row < 64 * k.page + 64) && decide (64 * k.page < min (c.row + c.nRows) t.rows)
        then some t.fmt else none
      | _ => none
    | none => none

/-- The logical die that writes a page, with the page's format: that of the pair whose WRITE names it among the plans that
the step's Reeves choose; none where no WRITE does (DEDUCED, log 26). -/
def State.writerOf (s : State) (x : KvJob) (kernels : List Nat) (k : KvRef) : Option (Nat × Fmt) :=
  let inSlot (i : Nat) : Bool := bitOf (leAt x.ticket 32 32) i && x.slots.getD i 0 == k.session
  (kernels.filterMap fun i => x.b.kernels[i]?).findSome? fun kd => (numsFrom 0 x.job.w).findSome? fun i =>
    ((s.dieOf i).bind (s.planOn kd (ticketShapes x.ticket))).bind fun p => p.2.pieces.findSome? fun c =>
      c.grans.findSome? fun g => if g.die = i then (granWrites inSlot kd.tensors k g).map fun f => (g.pairDie, f) else none

def KvJob.cache (x : KvJob) (id : Nat) : CacheDecl :=
  (x.b.caches.find? fun c => c.tensor == id).getD { tensor := id, fmt := .bf16, headDim := 0 }

/-- What the step's kernels declare of a cache tensor that they read (R204). -/
def KvJob.uses (x : KvJob) (cache : Nat) : List CacheUse :=
  ((x.kernels.filterMap fun i => x.b.kernels[i]?).map fun k => k.caches.filter fun u => u.cache == cache).flatten

/-- The format in which a page is recomputed: that of the kernel that reads it (R201, R205). -/
def KvJob.readFmt (x : KvJob) (cache : Nat) : Fmt := ((x.uses cache).head?.map (·.fmt)).getD (x.cache cache).fmt

/-- A page's entry is pinned from its allocation: a session's page by the job that opened the session, a node's by its cache
tensor (R199). -/
def State.pinNew (s : State) (x : KvJob) (node : Option Nat) (k : KvRef) : Bool :=
  match node with
  | some _ => (x.cache k.cache).recomputeNs.isNone
  | none => s.pinsPages ((s.sessionJob k.session).getD x.job) k.cache

/-- A VALID entry for a page of a session or of a node, with a new frame on the writer's die, logical die 0 where the step
writes it nowhere; none while no frame can be had. -/
def State.allocPage (s : State) (x : KvJob) (node : Option Nat) (writer : Option (Nat × Fmt)) (fmt : Fmt) (k : KvRef) : Option State :=
  let d := (s.dieOf ((writer.map (·.1)).getD 0)).getD 0
  match s.needFrame x.job.handle d with
  | some (f, s') => some (s'.putPage
      ⟨if node.isSome then { k with session := 0 } else s.placeRef x.job.handle k, node, ⟨1, s.pinNew x node k, fmt.code, f⟩, s.now⟩)
  | none => none

/-- A page that the step writes has a frame, on its writer's die and in its writer's format. A PENDING node's page has one
where the step makes the node, or takes a DROPPED one again. -/
def State.prepWrite (s : State) (x : KvJob) (k : KvRef) : Option State :=
  let w := s.writerOf x x.kernels k
  let fmt := (w.map (·.2)).getD (x.cache k.cache).fmt
  match s.kvEntry x.job.handle k.session k.cache k.layer k.headGroup k.isValue k.page with
  | some p =>
    if p.entry.state = 1 then some (s.putPage { p with entry := { p.entry with fmt := fmt.code } })
    else if p.entry.state = 3 then
      match s.node? p.entry.target with
      | some n =>
        if n.state = 0 && !(s.nodeEntry n.index k.cache k.layer k.headGroup k.isValue k.page).any (·.entry.state == 1) then
          ((s.setPages (s.loader.pages.filter fun q => !(q.node == some n.index && q.key == { k with session := 0 }))).putPage
            { p with entry := { p.entry with fmt := fmt.code } }).allocPage x (some n.index) w fmt k
        else some s
      | none => some s
    else s.allocPage x none w fmt k
  | none => s.allocPage x none w fmt k

/-- The session's references to a node that no entry names any more are released. -/
def State.releaseRefs (s : State) (session : Nat) : State :=
  let names (n : Nat) : Bool := s.loader.pages.any fun p =>
    p.node.isNone && p.key.session == session && p.entry.state == 3 && p.entry.target == n
  s.mapNodes fun m =>
    if m.refs.contains session && !names m.index then { m with refs := m.refs.filter (· != session) } else m

/-- The page of a read is missing: DROPPED, or SHARED with a node page that is not VALID. -/
def State.missing (s : State) (job : Nat) (k : KvRef) : Bool :=
  match s.kvEntry job k.session k.cache k.layer k.headGroup k.isValue k.page with
  | some p => p.entry.state == 2 || (p.entry.state == 3 &&
      !(s.node? p.entry.target).any (·.state == 0) &&
      !(s.nodeEntry p.entry.target k.cache k.layer k.headGroup k.isValue k.page).any (·.entry.state == 1))
  | none => false

/-- A missing page of a read range is recomputed as a private page (R201, R205): a frame and a VALID entry, one event. -/
def State.prepRead (s : State) (x : KvJob) (k : KvRef) : Option State :=
  if s.missing x.job.handle k then
    (s.allocPage x none (s.writerOf x [(x.cache k.cache).recomputeKernel] k) (x.readFmt k.cache) k).map fun s =>
      (s.releaseRefs k.session).countRecomputed
  else some s

def prepReads (x : KvJob) : List KvRef → State → Option State
  | [], s => some s
  | k :: ks, s => (s.prepRead x k).bind (prepReads x ks)

def prepWrites (x : KvJob) : List KvRef → State → Option State
  | [], s => some s
  | k :: ks, s => (s.prepWrite x k).bind (prepWrites x ks)

/-! ### Shared prefixes (R193 to R197) -/

/-- The runs of a conditioning sequence with their hashes (R194). -/
def condRuns : Nat → Nat → List Nat → List (Nat × List Nat)
  | 0, _, _ => []
  | n + 1, h, ts => if ts.isEmpty then [] else
      let r := ts.take 64
      (runHash h r, r) :: condRuns n (runHash h r) (ts.drop 64)

/-- h_(−1): the prefix domain with the function in bits [63:59]. -/
def hashSeed (domain f : Nat) : Nat := domain % 2 ^ 59 + f % 32 * 2 ^ 59

/-- Every place of the shared caches at page j, as keys of a session. -/
def sharedKeys (b : BundleDecl) (session j : Nat) : List KvRef :=
  ((b.caches.filter (·.shared)).map fun c => ((numsFrom 0 c.layers).map fun l => ((numsFrom 0 c.headGroups).map fun g =>
    [KvRef.mk session c.tensor l g false j, KvRef.mk session c.tensor l g true j]).flatten).flatten).flatten

/-- The format of a page of a node, that of its cache tensor before the page is written. -/
def State.nodeFmt (s : State) (b : BundleDecl) (n : Nat) (k : KvRef) : Nat :=
  match s.nodeEntry n k.cache k.layer k.headGroup k.isValue k.page with
  | some q => q.entry.fmt
  | none => ((b.caches.find? fun c => c.tensor == k.cache).map (·.fmt.code)).getD 0

/-- An entry of the session leads to a node. DESIGN CHOICE (log 26): the frame of a private page that it named is free. -/
def State.shareEntry (s : State) (b : BundleDecl) (n : Nat) (k : KvRef) : State :=
  let s := match s.loader.pages.find? fun p => p.node.isNone && p.key == k with
    | some p => if p.entry.state = 1 then s.freeFrameOf p.entry.target else s
    | none => s
  s.putPage ⟨k, none, ⟨3, false, s.nodeFmt b n k, n⟩, s.now⟩

/-- The session's entries for page j lead to a node, which it references. -/
def State.shareNode (s : State) (b : BundleDecl) (session j n : Nat) : State :=
  let s := (sharedKeys b session j).foldl (fun s k => s.shareEntry b n k) s
  s.mapNodes fun m => if m.index = n && !m.refs.contains session then { m with refs := m.refs ++ [session] } else m

/-- The buckets that a probe of hash h meets: from h mod buckets, ascending and wrapping, to the first empty one (R195). An empty
bucket lies among as many as the table has records and tombstones, and one. -/
def Loader.probeFrom (x : Loader) : Nat → Nat → List Nat
  | 0, _ => []
  | n + 1, i =>
    if (x.nodes.any fun m => m.index == i) || x.tombs.contains i then
      i :: x.probeFrom n ((i + 1) % (Config.nodeBucketsM1 + 1))
    else []
def Loader.probe (x : Loader) (h : Nat) : List Nat :=
  x.probeFrom (min (x.nodes.length + x.tombs.length) (Config.nodeBucketsM1 + 1)) (h % (Config.nodeBucketsM1 + 1))

/-- A node that the probe of its hash meets and that matches in hash, function, parent and every token; tombstones are passed over
(R195, R196). -/
def State.findNode (s : State) (f parent h : Nat) (toks : List Nat) : Option PrefixNode :=
  (s.loader.probe h).findSome? fun i => s.loader.nodes.find? fun n =>
    n.index == i && n.hash == h && n.f == f && n.parent == parent && n.toks == toks

/-- The job and the step that intake prepares. -/
def KvJob.writer (x : KvJob) : Nat × Nat := (x.job.handle, leAt x.ticket 8 8)

/-- The bucket that a new node takes: the first tombstone of its probe, else the empty bucket that ends it (R196). DESIGN CHOICE (log
26): none in a full table, and the session's pages are private from there. -/
def State.freshNode (s : State) (h : Nat) : Option Nat :=
  let p := s.loader.probe h
  match p.find? fun i => s.loader.tombs.contains i with
  | some i => some i
  | none => if p.length < Config.nodeBucketsM1 + 1 then some ((h + p.length) % (Config.nodeBucketsM1 + 1)) else none

/-- Take the runs in order: VALID nodes are shared; from the first miss on PENDING nodes are inserted; a node that another
step is writing ends it, and the session's pages are private from there. `hit` is true while every run matched. -/
def prefixRuns (x : KvJob) (session : Nat) : List (Nat × List Nat) → Nat → Nat → Bool → State → State
  | [], _, _, _, s => s
  | (h, toks) :: rs, j, parent, hit, s =>
    match s.findNode x.job.f parent h toks with
    | some n =>
      if n.state = 1 && hit then prefixRuns x session rs (j + 1) n.index true (s.shareNode x.b session j n.index)
      else if n.state = 2 then
        let s := s.mapNodes fun m => if m.index = n.index then { m with state := 0, writer := x.writer } else m
        prefixRuns x session rs (j + 1) n.index false (s.shareNode x.b session j n.index)
      else s
    | none =>
      match s.freshNode h with
      | some i =>
        let s := s.withLoader { s.loader with
          nodes := s.loader.nodes ++ [⟨i, h, parent, toks, 0, x.job.f, [], x.writer⟩], tombs := s.loader.tombs.filter (· != i) }
        prefixRuns x session rs (j + 1) i false (s.shareNode x.b session j i)
      | none => s

def prefixSessions (x : KvJob) : List (Nat × List Nat) → State → State
  | [], s => s
  | (session, toks) :: cs, s =>
    prefixSessions x cs (prefixRuns x session (condRuns (toks.length / 64 + 1) (hashSeed x.b.prefixDomain x.job.f) toks) 0
      0xFFFFFFFF true s)

/-- The PENDING nodes that a step writes become VALID (R196). -/
def State.validNodes (s : State) (job step : Nat) : State :=
  s.mapNodes fun n => if n.state = 0 && n.writer = (job, step) then { n with state := 1 } else n

/-- The record of a node (Table ATTN-5). Its tokens and its page table lie where the loader placed them: the manual gives no
address, and both are open. -/
def nodeRecord (n : PrefixNode) : List Byte :=
  let body := leBytes 8 n.hash ++ leBytes 4 n.parent ++ leBytes 1 n.toks.length ++ leBytes 1 n.state ++ leBytes 1 n.f ++ leBytes 1 0
    ++ leBytes 4 n.refs.length ++ leBytes 8 (Config.nodeAddress (2 * n.index)).toNat
    ++ leBytes 8 (Config.nodeAddress (2 * n.index + 1)).toNat ++ leBytes 8 0 ++ leBytes 8 0 ++ leBytes 8 0
  body ++ leBytes 4 (crc32c body).toNat

/-! ### Formats (R205) -/

/-- The format of the page that an entry leads to. -/
def State.pageFmt (s : State) (p : KvPage) : Option Nat :=
  if p.entry.state = 1 then some p.entry.fmt
  else if p.entry.state = 3 then
    match s.nodeEntry p.entry.target p.key.cache p.key.layer p.key.headGroup p.key.isValue p.key.page with
    | some q => if q.entry.state = 1 then some q.entry.fmt else none
    | none => none
  else none

/-- A page in a format that a kernel of the step which reads its cache tensor neither declares nor allows. -/
def State.badFmt (s : State) (x : KvJob) (p : KvPage) : Bool :=
  match s.pageFmt p with
  | some f => (x.uses p.key.cache).any fun u => f != u.fmt.code && !(u.allow.map Fmt.code).contains f
  | none => false

/-- Such a page is treated as missing: a private page is dropped, a shared one released. -/
def State.dropBadFmt (s : State) (p : KvPage) : State :=
  if p.entry.state = 1 then s.dropPage p
  else ((s.putPage { p with entry := { p.entry with state := 2, pinned := false, target := 0 } }).releaseRefs p.key.session).countDropped

def State.checkFmts (s : State) (x : KvJob) (sessions : List Nat) : State :=
  (s.loader.pages.filter fun p => p.node.isNone && sessions.contains p.key.session && s.badFmt x p).foldl State.dropBadFmt s

/-! ### Intake, close and resets -/

/-- Pages of the step's reads that must be recomputed. -/
def State.missingReads (s : State) (job : Nat) (d : TicketDecl) : List KvRef := d.reads.filter (s.missing job)

/-- Intake looks up the prefixes of a step's new sessions and checks the formats of its pages. -/
def State.kvLookup (s : State) (x : KvJob) (sessions : List Nat) (d : TicketDecl) : State :=
  (prefixSessions x d.conds s).checkFmts x sessions

/-- The missing pages that the step reads are recomputed, and those that it writes have frames; none while a frame cannot be
had. -/
def State.kvFrames (s : State) (x : KvJob) (d : TicketDecl) : Option State := (prepReads x d.reads s).bind (prepWrites x d.writes)

/-- The ns that recomputes add to a step. -/
def KvJob.extraNs (x : KvJob) (miss : List KvRef) : Nat := natSum (miss.map fun k => ((x.cache k.cache).recomputeNs).getD 0)

/-- The recompute kernels of some pages. -/
def KvJob.recompute (x : KvJob) (miss : List KvRef) : List Nat := (miss.map fun k => (x.cache k.cache).recomputeKernel).eraseDups

/-- Intake prepares the pages of a step `u`, which holds its pages from then on (R198). With the state come the ns that the
recompute adds and the recompute kernels (R201); none while a frame cannot be had. -/
def State.kvIntake (s : State) (x : KvJob) (u : Step) : Option (State × Nat × List Nat) :=
  let steps := s.loader.steps
  let s1 := (s.withLoader { s.loader with steps := steps ++ [u] }).kvLookup x u.sessions u.decl
  let miss := s1.missingReads x.job.handle u.decl
  (s1.kvFrames x u.decl).map fun t => (t.withLoader { t.loader with steps := steps }, x.extraNs miss, x.recompute miss)

/-- The pages of a step are prepared again for its restart: PENDING nodes that the JOB reset removed are made anew, pages that
it reads and that are missing are recomputed; none while a frame cannot be had (DEDUCED, log 26). -/
def State.kvRenew (s : State) (t : Step) : Option State :=
  match s.job? t.job, s.jobBundle t.job with
  | some j, some b =>
    let x : KvJob := ⟨j, b.decl, t.decl.kernels, t.ticket, t.slotTable⟩
    let s1 := s.kvLookup x t.sessions t.decl
    let miss := s1.missingReads t.job t.decl
    let ks := (x.recompute miss).filter fun k => !t.decl.kernels.contains k
    (s1.kvFrames x t.decl).map fun u =>
      u.setStep { t with extraNs := t.extraNs + x.extraNs miss, decl := { t.decl with kernels := ks ++ t.decl.kernels } }
  | _, _ => some s

/-- A session closes: its private pages are freed, its node references released (R314). -/
def State.closeSession (s : State) (id : Nat) : State :=
  let mine (p : KvPage) : Bool := p.node.isNone && p.key.session == id
  let frames := (s.loader.pages.filter fun p => mine p && p.entry.state == 1).map (·.entry.target)
  let left := s.loader.frames.filter fun f => !frames.contains f
  let x := { s.loader with sessions := s.loader.sessions.filter fun x => x.id != id }
  (s.withLoader { x with pages := x.pages.filter fun p => !mine p, frames := left }).releaseRefs id

def closeSessions : List Nat → State → State
  | [], s => s
  | i :: is, s => closeSessions is (s.closeSession i)

/-- F: the function's nodes are removed (Table ATTN-7). -/
def State.dropNodesOf (s : State) (f : Nat) : State :=
  s.withLoader (((s.loader.nodes.filter fun n => n.f == f).map (·.index)).foldl Loader.dropNode s.loader)

/-- The store is emptied (Table ATTN-7). -/
def State.kvEmpty (s : State) : State :=
  s.withLoader { s.loader with sessions := [], pages := [], nodes := [], tombs := [], frames := [] }

end Sys2Proof.Machine
end

