-- ==== Sys2Proof/Machine/Steps.lean ====
section
/-! DEFINITION. The life of a step: start, the dispatch of pieces, barriers, commit (R305 to R307, R323 to R326, R347 to
R349, R382, R439). -/

namespace Sys2Proof.Machine

/-! ### Pieces (R305, R306) -/

/-- The bundle of a step's job. -/
def State.stepBundle (s : State) (t : Step) : BundleDecl := ((s.jobBundle t.job).map (·.decl)).getD { kernels := [] }

/-- A piece of a step: the place of its kernel in the step, the kernel, the plan's number, the piece, and the pieces of the plan
before and after it. -/
structure StepPiece where
  place : Nat
  kernel : Nat
  plan : Nat
  piece : Piece
  before : List Piece := []
  after : List Piece := []
  deriving DecidableEq, Repr

/-- The pieces of a step on logical die i of physical die d, in order. -/
def State.piecesOf (s : State) (t : Step) (i d : Nat) : List StepPiece :=
  let b := s.stepBundle t
  (t.decl.kernels.zipIdx.map fun k => match b.kernels[k.1]? with
    | some kd => match s.planOn kd (ticketShapes t.ticket) d with
      | some (n, p) => (p.pieces.zipIdx.filter fun c => pieceOnDie c.1 i).map fun c =>
        ⟨k.2, k.1, n, c.1, p.pieces.take c.2, p.pieces.drop (c.2 + 1)⟩
      | none => []
    | none => []).flatten

/-- Pieces that logical die i has completed. -/
def Step.piecesDone (t : Step) (i : Nat) : Nat := ((t.ran.find? fun r => r.1 == i).map (·.2.1)).getD 0

/-- A step counts a completed piece of logical die i with its ACLK cycles and their time. -/
def Step.count (t : Step) (i cycles ns : Nat) : Step :=
  let old := (t.ran.find? fun r => r.1 == i).getD (i, 0, 0, 0)
  { t with ran := (t.ran.filter fun r => r.1 != i) ++ [(i, old.2.1 + 1, old.2.2.1 + cycles, old.2.2.2 + ns)] }

/-- Every piece of every logical die has completed. -/
def State.stepDone (s : State) (j : Job) (t : Step) : Bool :=
  (numsFrom 0 j.w).all fun i => match s.dieOf i with
    | some d => decide ((s.piecesOf t i d).length ≤ t.piecesDone i)
    | none => true

/-! ### The end of a piece -/

/-- Work of a run is left in some unit. -/
def State.runBusy (s : State) (r : Nat) : Bool :=
  s.looms.any (fun e => e.2.queue.any (·.run == r) || e.2.issued.any (·.run == r) || e.2.drains.any (·.run == r))
    || s.sieves.any (fun e => e.2.queue.any (·.run == r)) || s.gates.any (fun e => e.2.queue.any (·.run == r))
    || s.pairs.any (fun e => e.2.queues.any (fun q => q.2.any (·.run == r)) || e.2.running.any (·.run == r)
        || e.2.tiles.any (·.1 == r))
    || s.flight.any (·.1 == r)

/-- The Reeves of a die let go of a run, and HAMLET_STATUS reads its reset values. -/
def releaseReeves (d run : Nat) : List Nat → State → State
  | [], s => s
  | h :: hs, s =>
    releaseReeves d run hs (if (s.reeve d h).run = some run then
      (s.setReeve d h { s.reeve d h with run := none }).setReg ((hamletPage d h).reg 0x044) 0 else s)

/-- A piece has completed: its step counts it (R352). -/
def State.endRun (s : State) (r : Run) : State :=
  let s := releaseReeves r.die r.id (numsFrom 0 4) s
  let s := s.withLoader { s.loader with runs := s.loader.runs.map fun x => if x.id = r.id then { x with done := true } else x }
  match s.loader.steps.find? fun t => t.job == r.job && t.number == r.step with
  | some t => let w := s.pieceWcet r.piece; s.setStep (t.count r.logical w.1 (cyclesNs s.aclkMhz w.1))
  | none => s

def endRuns : List Run → State → State
  | [], s => s
  | r :: rs, s => endRuns rs (if s.runBusy r.id then s else s.endRun r)

/-- The pieces of die d that have no work left end. -/
def State.settleDie (s : State) (d : Nat) : State :=
  endRuns (s.loader.runs.filter fun r => r.die == d && !r.done) s

/-- The pieces of a job that have no work left end. -/
def State.settleJob (s : State) (h : Nat) : State :=
  endRuns (s.loader.runs.filter fun r => r.job == h && !r.done) s

/-! ### The choice at a piece boundary (R347) -/

/-- A piece that could run on a die. -/
structure Cand where
  t : Step
  j : Job
  entry : Option AEntry
  logical : Nat
  at_ : StepPiece
  deriving DecidableEq, Repr

def Cand.kernel (c : Cand) : Nat := c.at_.kernel
def Cand.piece (c : Cand) : Piece := c.at_.piece

/-- The next piece of each started step on die d, steps in intake order; of two logical dies the lower one's pieces come
first (R64). -/
def State.cands (s : State) (d : Nat) : List Cand :=
  ((s.loader.steps.filter (·.started)).map fun t => match s.job? t.job with
    | some j =>
      if j.state != .active || s.restarts.contains j.handle then []
      else (((s.logicalsOf d).filter fun i => decide (i < j.w)).filterMap fun i =>
        ((s.piecesOf t i d)[t.piecesDone i]?).map fun c => Cand.mk t j (t.entry.bind s.almEntry) i c).take 1
    | none => []).flatten

/-- Class and deadline by which a candidate is chosen; a step without an entry runs as OPEN. -/
def Cand.cls (c : Cand) : Nat := (c.entry.map (·.cls)).getD 2
def Cand.deadline (c : Cand) : Nat := (c.entry.map (·.deadline)).getD 0

/-- Candidate a goes before b. OPEN steps keep their intake order. -/
def Cand.before (a b : Cand) : Bool :=
  if a.cls = 2 then false
  else if b.cls = 2 then true
  else if a.deadline ≠ b.deadline then trBefore a.deadline b.deadline
  else if a.cls ≠ b.cls then decide (a.cls < b.cls)
  else if a.j.order ≠ b.j.order then decide (a.j.order < b.j.order)
  else decide (a.t.number < b.t.number)

/-- Line fractions left until the start transit of an ON-AIR slot within its guard of 200 µs on die d; none outside. A slot whose ticket
may still come is guarded as one that is armed. -/
def State.guardUnits (s : State) (d : Nat) : Option Nat :=
  let qs := s.alm.filterMap fun x => match x.2 with
    | some e =>
      if e.cls = 0 && (e.state = 1 || e.state = 2) && bitOf e.dies d && !trLe e.release s.transit && s.nsUntil e.release ≤ 200000 then
        some (trDiff s.videoL s.transit e.release) else none
    | none => none
  qs.foldl (fun m n => match m with
    | some k => some (min k n)
    | none => some n) none

/-- A piece ends before the guarded start transit, with the time of its Ferry bytes (R388). -/
def State.inGuard (s : State) (d : Nat) (c : Cand) : Bool :=
  match s.guardUnits d with
  | some q =>
    let w := s.pieceWcet c.piece
    let fixed := w.2 + ferryNs (s.jobRtt c.j.handle) c.piece.ferry
    decide ((w.1 * 1000 + fixed * s.aclkMhz) * (s.videoN * s.videoL * 65536) < q * s.videoD * 1000000000 * s.aclkMhz)
  | none => true

/-- The piece that a die runs next. -/
def State.nextPiece (s : State) (d : Nat) : Option Cand :=
  ((s.cands d).filter (s.inGuard d)).foldl (fun best c => match best with
    | some b => if c.before b then some c else some b
    | none => some c) none

/-! ### Dispatch (R114, R148, R187, R307) -/

/-- The Loom that the Reeve gives position p of n positions of a Hamlet: ascending, the last Looms taking two (R114). -/
def State.posLoom (s : State) (d h n p : Nat) : Nat :=
  let on := (numsFrom 0 8).filter (s.loomOn d h)
  let single := 2 * on.length - n
  let i := if n ≤ on.length then p else if p < single then p else single + (p - single) / 2
  on.getD i p

/-- A Loom word with its chain_next field, bits [78:76], set. -/
def setChainNext (w : BitVec 256) (l : Nat) : BitVec 256 := setLoomBits w 76 3 l

/-- The positions of a Hamlet placed on its enabled Looms; two positions on one Loom join. -/
def placeLooms (phys : Nat → Nat) : List LoomProg → List LoomProg → List LoomProg
  | [], done => done
  | p :: ps, done =>
    let words := p.words.map fun w => setChainNext w (phys (fieldOf w 78 76))
    let q := { p with loom := phys p.loom, words := words }
    if done.any fun x => x.loom == q.loom then
      placeLooms phys ps (done.map fun x =>
        if x.loom = q.loom then
          { x with words := x.words ++ q.words, drains := x.drains ++ q.drains, firstInputs := some (chainInstrs x).length,
                   stats := x.stats ++ q.stats.map (fun z => (z.1 + x.words.length, z.2)),
                   skips := x.skips ++ q.skips.map (· + x.words.length) }
        else x)
    else placeLooms phys ps (done ++ [q])

/-- A piece as the Reeves of die d place it for logical die i. -/
def State.placePiece (s : State) (p : Piece) (i d : Nat) : Piece :=
  let mine (h : Nat) : List LoomProg := p.looms.filter fun x => x.die == i && x.hamlet == h
  { p with looms := ((numsFrom 0 4).map fun h =>
      placeLooms (s.posLoom d h (natMax ((mine h).map fun x => x.loom + 1))) (mine h) []).flatten }

/-- A GATHER of n descriptors, from the bundle's word (Table GRAN-2). -/
def gatherWord (w : BitVec 128) (n : Nat) : BitVec 128 :=
  let b := fieldOf w 127 16
  granWord (b / 2 ^ 26 * 2 ^ 26 + (n - 1) % 2 ^ 16 * 2 ^ 10 + b % 2 ^ 10)

/-- Ascending pages in groups that share the quotient by n. -/
def pageGroups (n : Nat) : List Nat → List (List Nat)
  | [] => []
  | p :: ps => match pageGroups n ps with
    | g :: gs => if g.head?.map (· / n) = some (p / n) then (p :: g) :: gs else [p] :: g :: gs
    | [] => [[p]]

/-- The words of a walk (R187): pages from ⌊k_min ÷ 64⌋ to ⌊k_max ÷ 64⌋ in ascending order, each key page once, each value
page once per head, one GATHER for each stationary tile's pages (R230). `headDim` is that of the cache tensor. The
descriptors name the batch slot in their session field. -/
def walkWords (shapes : List Nat) (headDim : Nat) (w : WalkDecl) : List (BitVec 128) :=
  match w.ranges with
  | [] => []
  | _ =>
    let lo := (w.ranges.map fun r => keyBound shapes r.lo r.loBy).foldl min (2 ^ 32)
    let hi := natMax (w.ranges.map fun r => keyBound shapes r.hi r.hiBy)
    let pages := numsFrom (lo / 64) (hi / 64 + 1 - lo / 64)
    let W := tileW w.declFmt
    let keys := if w.isValue then W else if headDim = 0 then 64 else 128 / (W / headDim)
    let desc (head page : Nat) : BitVec 128 := BitVec.ofNat 128 (w.slot % 4096 * 2 ^ 90 + (if w.isValue then 2 ^ 89 else 0)
      + w.declFmt.code * 2 ^ 76 + page % 2 ^ 32 * 2 ^ 44 + w.layer % 4096 * 2 ^ 32 + w.headGroup % 256 * 2 ^ 20 + head % 8 * 2 ^ 17)
    ((if w.isValue then w.heads else [0]).map fun head => ((pageGroups (max 1 (keys / 64)) pages).map fun g =>
      gatherWord w.word g.length :: g.map (desc head)).flatten).flatten

/-- The entries of a queue with the words of its walks in their places. -/
def withWalks (shapes : List Nat) (dim : Nat → Nat) (g : GranProg) : GranProg :=
  let walksAt (i : Nat) : List (BitVec 128) := ((g.walks.filter fun w => w.at_ == i).map fun w => walkWords shapes (dim w.cache) w).flatten
  { g with entries := ((g.entries.zipIdx).map fun e => walksAt e.2 ++ [e.1]).flatten
      ++ ((g.walks.filter fun w => decide (g.entries.length ≤ w.at_)).map fun w => walkWords shapes (dim w.cache) w).flatten, walks := [] }

/-- A piece of a step as the Reeves of die d place it: the walks are made (R187), and passes of padding and of masked keys are
not issued (R154, R178). -/
def State.placed (s : State) (t : Step) (q : StepPiece) (i d : Nat) : Piece :=
  let b := s.stepBundle t
  let dim (c : Nat) : Nat := ((b.caches.find? fun x => x.tensor == c).map (·.headDim)).getD 0
  let walk (p : Piece) : Piece := { p with grans := p.grans.map (withWalks (ticketShapes t.ticket) dim) }
  s.placePiece (issuePiece dim (((b.kernels[q.kernel]?).map (·.tensors)).getD []) b.geoms (q.before.map walk) (q.after.map walk)
    (walk q.piece)) i d

/-- A page descriptor with what the walk gives: frame, session, shared and source format; none where the walk meets no page
(R187). The bundle's word names the batch slot in its session field. A masked slot's page is not walked: its rows read +0 (R313). -/
def State.walkDesc (s : State) (t : Step) (cache : Nat) (w : BitVec 128) : Option (BitVec 128) :=
  let d := pageDesc w
  let session := t.session d.session
  if !bitOf (leAt t.ticket 32 32) d.session then
    some (BitVec.ofNat 128 (noFrame * 2 ^ 102 + (if d.isValue then 2 ^ 89 else 0) + d.declFmt % 64 * 2 ^ 82 + w.toNat % 2 ^ 82))
  else (s.kvFrame t.job session cache d.layer d.headGroup d.isValue d.page).map fun r =>
    BitVec.ofNat 128 (r.1 % 2 ^ 26 * 2 ^ 102 + (if r.2.1.isSome then 0 else session % 4096) * 2 ^ 90
      + (if d.isValue then 2 ^ 89 else 0) + (if r.2.1.isSome then 2 ^ 88 else 0) + r.2.2 % 64 * 2 ^ 82 + w.toNat % 2 ^ 82)

/-- A queue's entries with their descriptors walked; `n` descriptors of a GATHER on `cache` come next. -/
def State.walkEntries (s : State) (t : Step) (g : GranProg) : Nat → Nat → List (BitVec 128) → Option (List (BitVec 128))
  | _, _, [] => some []
  | n + 1, cache, w :: ws => match s.walkDesc t cache w, s.walkEntries t g n cache ws with
    | some v, some vs => some (v :: vs)
    | _, _ => none
  | 0, _, w :: ws =>
    let c := granCmd w
    let id := ((g.slots.find? fun p => p.1 == c.slotA).map (·.2)).getD 0xFFFF
    (s.walkEntries t g (if c.opcode = 0x06 then c.nRows else 0) id ws).map (w :: ·)

/-- Entries of a queue. -/
def qEntries {w : Nat} (run : Nat) (ws : List (BitVec w)) : List (QEntry w) := ws.map fun x => ⟨run, x, false, none, false⟩

/-- A Loom word is a PASS. -/
def isPass (w : BitVec 256) : Bool := fieldOf w 255 252 == 1

/-- Entries of a Loom's queue: the last PASS of the kernel on the Loom is marked (R109), where no later piece has one. -/
def loomEntries (run : Nat) (later : Bool) (p : LoomProg) : Nat → List (BitVec 256) → List (QEntry 256)
  | _, [] => []
  | n, x :: xs =>
    ⟨run, x, !later && isPass x && !xs.any isPass, (p.stats.find? fun y => y.1 == n).map (·.2), p.skips.contains n⟩
      :: loomEntries run later p (n + 1) xs

/-- A Loom goes on with a kernel: the next piece of the one it runs, or one that was pre-empted on it, whose context comes
back as another's is saved (R347). A kernel that is new to it waits for its FENCE (R482). -/
def State.resume (s : State) (x : Loom) (run : Nat) : Loom :=
  let new := s.kernelOf run
  if s.kernelOf x.k.setup.run = new then { x with k := { x.k with setup := { x.k.setup with run := run } } }
  else match x.saved.find? fun p => some p.1 == new with
    | some p => { x with k := { p.2 with setup := { p.2.setup with run := run } },
                         saved := (s.keepKernel x).filter fun q => q.1 != p.1 }
    | none => x

/-- The words that the Reeve places in a Loom's queue: the FENCE of R482 at the head of a kernel's instructions. Its
hearth_level is that of the instruction behind it (DESIGN CHOICE, log 15). -/
def fenceWord (ws : List (BitVec 256)) : BitVec 256 :=
  loomWord (2 * 2 ^ 236 + ((ws.head?.map fun w => fieldOf w 178 175).getD 0) * 2 ^ 159)

/-- The Loom runs no earlier piece of the kernel of a run, now or saved. -/
def State.newTo (s : State) (x : Loom) (run : Nat) : Bool :=
  s.kernelOf x.k.setup.run != s.kernelOf run && !x.saved.any fun p => some p.1 == s.kernelOf run

/-- Place a run's Loom words; `later` says that a later piece of the kernel has passes for the Loom of a Hamlet. -/
def fillLooms (r : Run) (later : Nat → Nat → Bool) : List LoomProg → State → State
  | [], s => s
  | p :: ps, s =>
    let x := s.loom r.die p.hamlet p.loom
    let fence := if s.newTo x r.id then qEntries r.id [fenceWord p.words] else []
    let y := s.resume x r.id
    fillLooms r later ps (s.setLoom r.die p.hamlet p.loom
      { y with headAt := if y.queue.isEmpty then s.now else y.headAt, queue := y.queue ++ fence ++ loomEntries r.id (later p.hamlet p.loom) p 0 p.words })

def fillSieves (r : Run) : List SieveProg → State → State
  | [], s => s
  | p :: ps, s =>
    let x := s.sieve r.die p.hamlet
    fillSieves r ps (s.setSieve r.die p.hamlet { x with queue := x.queue ++ qEntries r.id p.words })

def fillGates (r : Run) : List GateProg → State → State
  | [], s => s
  | p :: ps, s =>
    let x := s.gate r.die
    fillGates r ps (s.setGate r.die { x with queue := x.queue ++ qEntries r.id p.words })

def fillGrans (r : Run) : List (GranProg × List (BitVec 128)) → State → State
  | [], s => s
  | (p, ws) :: ps, s =>
    match s.dieOf p.pairDie with
    | some d =>
      let q := r.die * 4 + p.hamlet
      let x := s.pair d
      fillGrans r ps (s.setPair d (x.setQueue q (x.queue q ++ qEntries r.id ws)))
    | none => fillGrans r ps s

/-- Descriptors that a piece gives the queues of Hamlet h for logical die i; the Gate's come from Hamlet 0. -/
def descCount (p : Piece) (i h : Nat) : Nat :=
  natSum ((p.looms.filter fun x => x.die == i && x.hamlet == h).map (·.words.length))
    + natSum ((p.sieves.filter fun x => x.die == i && x.hamlet == h).map (·.words.length))
    + (if h = 0 then natSum ((p.gates.filter (·.die == i)).map (·.words.length)) else 0)
    + natSum ((p.grans.filter fun x => x.die == i && x.hamlet == h).map (·.entries.length))

/-- FENCEs that a piece's dispatch places in the Loom queues of Hamlet h. -/
def State.fenceCount (s : State) (r : Run) (h : Nat) : Nat :=
  (r.piece.looms.filter fun p => p.hamlet == h && s.newTo (s.loom r.die p.hamlet p.loom) r.id).length

def setReeves (r : Run) (fences : Nat → Nat) : List Nat → State → State
  | [], s => s
  | h :: hs, s =>
    let pg := hamletPage r.die h
    let s := (s.setReeve r.die h { s.reeve r.die h with run := some r.id, beat := s.now }).bump64 pg descCountLo_count descCountHi_count
      (descCount r.piece r.logical h + fences h)
    setReeves r fences hs (((s.setFld pg hamletStatus_running 1).setFld pg hamletStatus_plan r.plan).setFld pg hamletStatus_kernel r.kernel)

/-- The geometry record that a tensor entry names. -/
def geomNamed (t : TensorDecl) : Option Nat :=
  match t.loc with
  | .tapView _ g _ => some g
  | .resampled _ g _ _ => some g
  | _ => none

/-- Geometry records that the operations of Hamlet h name: its Looms' streaming rows, its Sieve's slots, and for Hamlet 0 the
Gate's operations (R148). -/
def geomsUsed (ts : List TensorDecl) (p : Piece) (i h : Nat) : List Nat :=
  let ids := ((p.looms.filter fun x => x.die == i && x.hamlet == h).map fun x => x.streams.map (·.2.1)).flatten
    ++ ((p.sieves.filter fun x => x.die == i && x.hamlet == h).map fun x => x.slots.map (·.2.tensor)).flatten
  ids.filterMap (fun id => (findTensor ts id).bind geomNamed)
  ++ (if h = 0 then ((p.gates.filter (·.die == i)).map fun g => g.words.filterMap fun w =>
        let o := gateOp w
        if o.opcode = 2 then some o.geom else none).flatten else [])

/-- The Reeves of the Hamlets of a list raise 0x43: a geometry record that they hold fails its check (R148). -/
def geomFaults (d job : Nat) : List Nat → State → State
  | [], s => s
  | h :: hs, s => geomFaults d job hs (s.checkFault (hamletPage d h) (infoOf [(0x0A, 0)]) (some job))

/-- The entry of the dispatched step reads RUNNING, that of a step it displaces on the die PREEMPTED (R350). -/
def State.markRunning (s : State) (d : Nat) (t : Step) : State :=
  s.mapEntries (fun e => (e.job == t.job && e.step == t.number && (e.state == 2 || e.state == 4))
      || (e.state == 3 && bitOf e.dies d && !(e.job == t.job && e.step == t.number)))
    fun e => { e with state := if e.job = t.job && e.step = t.number then 3 else 4 }

/-- Work brings a die out of DUSK (R452). -/
def State.leaveDusk (s : State) (d : Nat) : State :=
  if s.power.dusk.contains d then noteStates s (s.withPower { s.power with dusk := s.power.dusk.filter (· != d) }) else s

/-- A later piece of the candidate's kernel has passes for Loom l of Hamlet h. -/
def State.laterPass (s : State) (d : Nat) (c : Cand) (h l : Nat) : Bool :=
  ((s.piecesOf c.t c.logical d).drop (c.t.piecesDone c.logical + 1)).any fun q =>
    q.place == c.at_.place && (s.placed c.t q c.logical d).looms.any fun p =>
      p.hamlet == h && p.loom == l && p.words.any isPass

/-- The Reeves of die d emit the descriptors of a piece. A geometry record whose check fails and a walk that meets no page
raise 0x43 on the HAMLET page, and nothing is dispatched. -/
def State.dispatch (s : State) (d : Nat) (c : Cand) : State :=
  let piece := s.placed c.t c.at_ c.logical d
  let b := s.stepBundle c.t
  let ts := ((b.kernels[c.kernel]?).map (·.tensors)).getD []
  let mine := piece.grans.filter (·.die == c.logical)
  let walked := mine.map fun g => (g, s.walkEntries c.t g 0 0 g.entries)
  let bad := (numsFrom 0 4).filter fun h => (geomsUsed ts piece c.logical h).any fun g => !geomCheckOk (b.geoms.getD g [])
  if !bad.isEmpty then geomFaults d c.t.job bad s
  else match walked.find? fun g => g.2.isNone with
    | some g => s.checkFault (hamletPage d (g.1.hamlet % 4)) (infoOf [(0x12, 0)]) (some c.t.job)
    | none =>
      let r : Run := ⟨s.loader.nextRun, c.t.job, c.t.f, c.t.number, c.kernel, d, c.logical, piece, c.at_.plan, false, c.at_.place⟩
      let s := s.withLoader { s.loader with runs := s.loader.runs ++ [r], nextRun := s.loader.nextRun + 1 }
      let s := s.leaveDusk d
      let fences := s.fenceCount r
      let later := s.laterPass d c
      let s := fillLooms r later piece.looms s
      let s := fillSieves r (piece.sieves.filter (·.die == c.logical)) s
      let s := fillGates r (piece.gates.filter (·.die == c.logical)) s
      let s := fillGrans r (walked.map fun g => (g.1, g.2.getD [])) s
      (setReeves r fences (numsFrom 0 4) s).markRunning d c.t

/-- A piece boundary of a die: the piece that ran there has no work left, and the next one is dispatched. -/
def execPieceDispatch (die : Nat) (s : State) : Host.Outcome State Fault Refusal :=
  if s.dieLive die && s.up then
    let s := s.settleDie die
    if s.loader.runs.any fun r => r.die == die && !r.done then .next s
    else match s.nextPiece die with
      | some c => .next (s.dispatch die c)
      | none => .next s
  else .next s

/-! ### Start (R323, R325, R347, R348, R382) -/

/-- The start transit of an ON-AIR entry: a step whose ticket was taken in becomes ready. -/
def execStartTransit (entry : Nat) (s : State) : Host.Outcome State Fault Refusal :=
  match s.almEntry entry with
  | some e =>
    if e.cls = 0 then
      let s := s.advanceTo e.release
      match s.entryStep? e with
      | some t => .next (if e.state = 2 then s.setStep { t with ready := true } else s)
      | none => .next s
    else .next s
  | none => .next s

/-- The job Bells of a step read 0 and hold no error; Bells 0 to 63 keep theirs (R323). -/
def State.zeroBells (s : State) (h : Nat) : State :=
  s.withBells (SMap.mapF (fun _ => {}) (fun k b =>
    if b.owner.map (·.2) = some h && 64 ≤ k % 4096 then { b with value := 0, error := false } else b) s.bells)

/-- What the barrier Bell of a job holds at rank 0's logical die. -/
def State.barValue (s : State) (j : Job) : Nat :=
  match s.dieOf 0 with
  | some d => (s.bell d j.barBell).value.toNat
  | none => 0

/-- One late transit event (R348). -/
def State.lateTransit (s : State) : State :=
  (s.bump (sqPage .almanac) lateTransitCount_count).event (sqPage .almanac) almanac_evtRaw_lateTransit

/-- An ON-AIR step that was taken in before S_k starts later than 16 ACLK after it, also where its entry has left the test. -/
def State.startsLate (s : State) (t : Step) : Bool :=
  match t.entry.bind s.almEntry with
  | some e => (s.job? t.job).any (·.cls == 0) && trLe t.intake e.release && trLe e.release s.transit
      && decide (16000 * (s.videoN * s.videoL * 65536) < trDiff s.videoL e.release s.transit * s.videoD * 1000000000 * s.aclkMhz)
  | none => false

/-- An attempt of a step starts: its routes are chosen, its Bells read 0, a training step opens its records. A package of the job without a usable route fails
the step with 0x44. -/
def State.startStep (s : State) (j : Job) (t : Step) : State :=
  let routes := s.chooseRoutes j
  let s := s.zeroBells j.handle
  let s := s.setJob { j with barriers := 0, barBase := s.barValue j }
  let s := s.setStep { t with started := true, ran := [], writesDone := false, stopSeen := false, signals := [], released := [],
                              routes := routes.filterMap fun r => r.2.map fun w => (r.1, w.1, w.2) }
  let s := s.openGeneration j t.ticket
  match routes.find? fun r => r.2.isNone with
  | some r =>
    let sj := ((s.bindingOf j.handle).map (·.sysjob)).getD 0
    s.fault (s.lostRoutePage j r.1) 0x44 (infoOf [(4, 0), (sj, 16)]) (some j.handle)
  | none => s

/-- The first ready step of a job starts, while no step of it runs and no restart is due. -/
def execStepStart (job : Nat) (s : State) : Host.Outcome State Fault Refusal :=
  match s.job? job with
  | some j =>
    if !s.up || j.state != .active || s.restarts.contains job || (s.stepsOf job).any (·.started) then .next s
    else match (s.stepsOf job).find? (·.ready) with
      | some t => .next ((if s.startsLate t then s.lateTransit else s).startStep j t)
      | none => .next s
  | none => .next s

/-- The mode of R279 is chosen again for a restart, where the bundle has SHARD variants: the step's kernels follow it. -/
def State.reselect (s : State) (j : Job) (t : Step) : State :=
  match s.jobBundle j.handle with
  | some b => match b.decl.train with
    | some d =>
      if !j.shard && d.hasShard && s.needsShard j.f j.handle b.decl j.ranks j.w then
        (s.setJob { j with shard := true }).setStep { t with decl := { t.decl with kernels := t.decl.kernels.map (shardKernel d) } }
      else s
    | none => s
  | none => s

/-- The pages of a step are prepared again; a recompute that enlarges a COMMITTED step brings a re-test (R352). -/
def State.renew (s : State) (j : Job) (t : Step) : Option State :=
  (s.kvRenew t).map fun u =>
    if j.cls = 1 && u.loader.steps.any fun x => x.job == t.job && x.number == t.number && decide (t.extraNs < x.extraNs) then u.triggerRetest 6
    else u

/-- The aborted step of a job, which waits to be dispatched again. -/
def State.abortedStep? (s : State) (job : Nat) : Option Step := (s.stepsOf job).find? fun t => t.stopSeen && !t.started

/-- An aborted step is dispatched again from its kept inputs, once the Almanac has re-tested (R439) and the frames of its pages
can be had. A training job goes back to the generation it had (Table TRAIN-2). -/
def execStepRestart (job : Nat) (s : State) : Host.Outcome State Fault Refusal :=
  match s.job? job with
  | some j =>
    if !s.up || j.state != .active || !s.restarts.contains job || s.power.retest.isSome then .next s
    else
      let done := s.withRestarts (s.restarts.filter (· != job))
      match s.abortedStep? job with
      | some t =>
        match done.renew j t with
        | some s =>
          let s := (s.bump (sqPage .fault) restartCount_count).event (sqPage .fault) fault_evtRaw_restart
          let s := ((s.revert j).reselect j ((s.abortedStep? job).getD t))
          .next (s.startStep ((s.job? job).getD j) ((s.abortedStep? job).getD t))
        | none => .next s
      | none => .next done
  | none => .next s

/-! ### Barriers (R323) -/

/-- A queue's signal: on the job's barrier Bell at rank 0's package (R323, R387), else on a Bell of this package. -/
def State.granSignal (s : State) (pair q run : Nat) (b : GranBellOp) : State :=
  match (s.runJob run).bind s.job? with
  | some j =>
    if b.die = 0 && b.bell = j.barBell && j.pkg != 0 then
      let k := (pair * 33 + q, j.handle, 0)
      (s.withFerry { s.ferry with sent := s.ferry.sent.filter (· != k) }).sendBell j.handle 0 0 b.bell b.op
        (BitVec.ofNat 32 b.value) (s.runStep run) (s.ferry.sent.contains k)
    else s.signalLogical b.die b.bell b.op (BitVec.ofNat 32 b.value)
  | none => s.signalLogical b.die b.bell b.op (BitVec.ofNat 32 b.value)

/-- A SIGNAL counts a rank in for a barrier: ADD 1 on the job's barrier Bell at rank 0 (R323). -/
def GranBellOp.countsIn (b : GranBellOp) (j : Job) : Bool :=
  b.die == 0 && b.bell == j.barBell && b.op == bellAddOp && b.value == 1

/-- Barrier signals that the pieces of a step's rank on logical die i hold. -/
def State.barrierTotal (s : State) (j : Job) (t : Step) (i : Nat) : Nat :=
  match s.dieOf i with
  | some d => natSum ((s.piecesOf t i d).map fun q => natSum ((q.piece.grans.filter (·.die == i)).map fun g =>
      ((commandWords 0 g.entries).filter fun w => (granCmd w).opcode == 0x3C && (granBellOp w).countsIn j).length))
  | none => 0

/-- A rank's barrier signal is counted; before its last one the rank seals its record (R282, R283). -/
def State.rankSignal (s : State) (run : Nat) (b : GranBellOp) : State :=
  match s.run? run, (s.runJob run).bind s.job?, s.stepOfRun run with
  | some r, some j, some t =>
    if b.countsIn j then
      let n := SMap.get 0 t.signals r.logical + 1
      let s := if n = s.barrierTotal j t r.logical then s.sealRank j t.ticket r.logical else s
      s.setStep { t with signals := SMap.set 0 r.logical n t.signals }
    else s
  | _, _, _ => s

/-- A SIGNAL takes effect once every earlier command of its queue has completed (R237), over a way that is open. -/
def execGranarySignal (pair q : Nat) (s : State) : Host.Outcome State Fault Refusal :=
  match s.granFirst pair q 0x3C with
  | some (i, e) =>
    let b := granBellOp e.word
    if ((s.pair pair).running.take i).any (fun c => c.q == q) || !s.signalOpen pair b then .next s
    else .next (((s.setRunning pair i { e with done := true }).rankSignal e.run b).granSignal pair q e.run b)
  | none => .next s

/-- SET k into the barrier Bell of the ranks of each package of a list. -/
def releaseTo (j : Job) (k step : Nat) : List Nat → State → State
  | [], s => s
  | p :: ps, s =>
    releaseTo j k step ps ((numsFrom 0 j.w).foldl (fun s i =>
      if p = j.pkg then (s.signalLogical i j.barBell bellSetOp (BitVec.ofNat 32 k)).noteRelease j.handle i k
      else s.sendBell j.handle p i j.barBell bellSetOp (BitVec.ofNat 32 k) step false) s)

/-- The barrier Bell at rank 0 has counted k × R signals for the k-th barrier of the step. Since the loader SETs the same Bell,
the signals counted are R for each barrier before and what the Bell has gained since its last SET (DEDUCED, log 25). -/
def execBarrierRelease (job : Nat) (s : State) : Host.Outcome State Fault Refusal :=
  match s.job? job, s.dieOf 0 with
  | some j, some d =>
    let v := (s.bell d j.barBell).value.toNat
    let k := j.barriers + 1
    if s.up && j.pkg = 0 && j.state = .active && j.barriers * j.ranks + (v + 2 ^ 32 - j.barBase) % 2 ^ 32 = k * j.ranks then
      let s := s.setJob { j with barriers := k, barBase := k }
      .next (releaseTo j k (((s.stepOf? job).map (·.number)).getD 0) (numsFrom 0 j.pkgs) s)
    else .next s
  | _, _ => .next s

/-! ### Commit (R283, R325, R326, R349) -/

/-- A training step's barrier is complete at every rank of this package (R283, R323): the rank has sent its signals, its barrier
Bell was SET to their number in this step and reads it. -/
def State.barrierDone (s : State) (j : Job) (t : Step) : Bool :=
  (s.stepBundle t).train.isNone || (numsFrom 0 j.w).all fun i =>
    let k := SMap.get 0 t.signals i
    k != 0 && SMap.get 0 t.released i == k && match s.dieOf i with
      | some d => (s.bell d j.barBell).value == BitVec.ofNat 32 k
      | none => true

/-- The generation that a committed training step leaves adopted (R282, R285). -/
def State.adoptNext (s : State) (t : Step) : State :=
  if (s.stepBundle t).train.isSome then
    let g := nextGen t.ticket
    s.withLoader { s.loader with gens := (s.loader.gens.filter fun p => p.1 != t.job) ++ [(t.job, g)] }
  else s

/-- The Cue event of a commit (Table TIME-8). -/
def commitCue (j : Job) (deadline at_ : Nat) : CueEvent :=
  if j.cls = 2 then .openCommit else if trLe at_ deadline then .onTime else .late

/-- A step commits at a transit: nodes, Bells, entry, then the Cue entry, then the completion. -/
def State.commitStep (s : State) (j : Job) (t : Step) (at_ : Nat) : State :=
  let deadline := ((t.entry.bind s.almEntry).map (·.deadline)).getD 0
  let s := (s.validNodes j.handle t.number).adoptNext t
  let s := signalDies j.stepBell bellSetOp (BitVec.ofNat 32 t.number) (s.jobDies j) s
  let s := s.setJob { j with restarts := 0, barriers := 0 }
  let c := ticketCue t.ticket
  let s := s.cueStepNow c.1 c.2 (commitCue j deadline at_)
  let s := s.complete t.f t.ring t.ticket { cmplOf t.ticket cDone 0 with aux := at_ }
  let s := (s.freeStepEntry t.job t.number).dropStep t
  let s := s.withSram (SMap.keep (fun k => k / 65536 % 65536 != j.handle) s.sram)
  let s := s.withLooms (SMap.mapF (fun _ => {}) (fun _ x => { x with saved := x.saved.filter fun p => p.1.1 != j.handle }) s.looms)
  s.withLoader { s.loader with runs := s.loader.runs.filter fun r => r.job != j.handle }

/-- The last output write of a step has completed: it commits, or is held to its deadline transit. -/
def execStepCommit (job : Nat) (s : State) : Host.Outcome State Fault Refusal :=
  match s.job? job with
  | none => .next s
  | some j =>
    if !s.up || j.state != .active || s.restarts.contains job then .next s
    else
      let s := s.settleJob job
      match (s.stepsOf job).find? (·.started) with
      | none => .next s
      | some t =>
        if !s.stepDone j t || !s.barrierDone j t || t.writesDone then .next s
        else match t.entry.bind fun i => (s.almEntry i).map fun e => (i, e) with
          | some (i, e) =>
            if e.cls = 0 && e.hold && trBefore s.transit e.deadline then
              .next ((s.setStep { t with writesDone := true }).setAlm i (some { e with state := 5 }))
            else .next (s.commitStep j t s.transit)
          | none => .next (s.commitStep j t s.transit)

/-- A held step commits at its deadline transit. -/
def execHeldCommit (job : Nat) (s : State) : Host.Outcome State Fault Refusal :=
  match s.job? job with
  | none => .next s
  | some j =>
    match (s.stepsOf job).find? fun t => t.started && t.writesDone with
    | none => .next s
    | some t =>
      match t.entry.bind s.almEntry with
      | some e => .next (if s.up && j.state = .active then (s.advanceTo e.deadline).commitStep j t e.deadline else s)
      | none => .next s

end Sys2Proof.Machine
end

