-- ==== Sys2Proof/Machine/Faults.lean ====
section
/-! DEFINITION. The fault manager: run-time faults, fences, the logical-to-physical map, CROFT resets, and the resets of
register fields by letter (R64, R332, R438 to R447, R449). -/

namespace Sys2Proof.Machine

/-! ### Clearing registers (R7, R447) -/

/-- Clear, by the letters of a mask, the stored fields of the pages that satisfy a test. -/
def State.clearRegs (s : State) (ls : Nat) (which : Page → Bool) : State :=
  s.withRegs (SMap.mapF resetWord (fun a w => match pageAt a with
    | some (p, off) => if which p then p.type.clearWord ls off w else w
    | none => w) s.regs)

/-- Guards, latches and snapshots of such pages are dropped. -/
def State.clearGuards (s : State) (which : Page → Bool) : State :=
  let on (a : Nat) : Bool := match pageAt a with
    | some (p, _) => which p
    | none => false
  ((s.withGuards (SMap.keep (fun a => !on a) s.guards)).withLatch (SMap.keep (fun k => !on (k % 2 ^ 32)) s.latch)).withSnaps
    (SMap.keep (fun a => !on a) s.snaps)

/-- A page of a Croft die. -/
def ofDie (d : Nat) (p : Page) : Bool :=
  match p.type with
  | .croftCtrl | .hamlet | .loom | .sieve | .firefly | .gate | .commons | .bells | .ferry => p.die == d
  | _ => false

/-- A reset by letters of the pages of a die. The guards of CROFT_CTRL, whose registers have C and P alone, stay (R7). -/
def State.clearDie (s : State) (ls d : Nat) : State :=
  (s.clearRegs ls fun p => ofDie d p || ((p.type == .granary || p.type == .hbm) && p.die == d)).clearGuards fun p => ofDie d p && p.type != .croftCtrl

/-! ### DIE_MAP (R64, R318, R332) -/

/-- DIE_MAP's word for a map from logical to physical dies. -/
def dieMapWord (m : Nat → Option Nat) : Word :=
  BitVec.ofNat 32 (natSum ((numsFrom 0 8).map fun i => match m i with
    | some d => (8 + d % 8) * 16 ^ i
    | none => 0))

/-- The Bells of a job on die a, at the same local indices on die b (DEDUCED, log 27). -/
def moveBells (a b h : Nat) (keep : Bool) : List Nat → State → State
  | [], s => s
  | i :: is, s =>
    let x := s.bell a i
    let mine := x.owner.map (·.2) == some h
    let free := (s.bell b i).owner.isNone
    let s := if mine && free then s.setBell b i x else s
    moveBells a b h keep is (if mine && !keep then s.setBell a i {} else s)

/-- The indices of Bells of die d that a job owns. -/
def State.bellsOn (s : State) (h d : Nat) : List Nat :=
  (s.bells.filter fun e => e.1 / 4096 == d && e.2.owner.map (·.2) == some h).map (·.1 % 4096)

def moveJobBells (i a b : Nat) : List Job → State → State
  | [], s => s
  | j :: js, s =>
    let keep := (s.logicalsOf a).any fun k => decide (k < j.w)
    moveJobBells i a b js (if i < j.w then moveBells a b j.handle keep (s.bellsOn j.handle a) s else s)

/-- The die that takes logical die i from die d: a free reserve die, else the lowest live die that carries one logical die.
Of several free reserve dies it is the lowest-numbered (DESIGN CHOICE, log 27: R64 does not choose). -/
def State.takerDie (s : State) (d : Nat) : Option Nat :=
  let live := s.liveDies.filter (· != d)
  match live.find? fun k => (s.logicalsOf k).isEmpty with
  | some k => some k
  | none => live.find? fun k => (s.logicalsOf k).length == 1

/-- One logical die moves from die d. -/
def State.moveLogical (s : State) (i d : Nat) : State :=
  let dest := s.takerDie d
  let s1 := s.setReg ((sqPage .loader).reg 0x04C) (dieMapWord fun k => if k = i then dest else s.dieOf k)
  match dest with
  | some b => moveJobBells i d b s1.loader.jobs s1
  | none => s1

def moveLogicals (d : Nat) : List Nat → State → State
  | [], s => s
  | i :: is, s => moveLogicals d is (s.moveLogical i d)

/-- The logical dies of die d move, lowest first, and the Almanac's entries follow. -/
def State.evacuate (s : State) (d : Nat) : State := (moveLogicals d (s.logicalsOf d) s).redie

/-- With no job admitted, logical dies 0 to 7 − r lie on the dies of the same number, a fenced one moved (R64). -/
def State.resetMap (s : State) : State :=
  let s := s.setReg ((sqPage .loader).reg 0x04C) (dieMapWord fun k => if k < 8 - s.reserve then some k else none)
  (numsFrom 0 8).foldl (fun s d => if s.dieLive d then s else moveLogicals d (s.logicalsOf d) s) s

/-- A live die without a logical die takes one of a die that carries two and runs no step: its own, else the higher one. -/
def State.rejoin (s : State) (d : Nat) : State :=
  let two (k : Nat) : Bool := decide (2 ≤ (s.logicalsOf k).length) &&
    !s.loader.steps.any fun t => t.started && (s.job? t.job).any fun j => bitOf (s.diesOf j.w) k
  if !s.dieLive d || !(s.logicalsOf d).isEmpty then s
  else match s.liveDies.find? two with
    | some k =>
      let i := if (s.logicalsOf k).contains d then d else natMax (s.logicalsOf k)
      moveJobBells i k d s.loader.jobs (s.setReg ((sqPage .loader).reg 0x04C) (dieMapWord fun x => if x = i then some d else s.dieOf x))
    | none => s

/-- The map at an admission: with no job admitted that of R64, else each die that was released takes its logical die again (R441). -/
def State.admitMap (s : State) : State :=
  noteStates s (if s.loader.jobs.isEmpty then s.resetMap else ((numsFrom 0 8).foldl State.rejoin s).redie)

/-! ### Jobs on a die -/

/-- Jobs in service that have a logical die on die d. -/
def State.jobsOn (s : State) (d : Nat) : List Nat :=
  (s.loader.jobs.filter fun j => j.state == .active && bitOf (s.diesOf j.w) d).map (·.handle)

def abortJobs (code : Nat) : List Nat → State → State
  | [], s => s
  | h :: hs, s => abortJobs code hs (s.abortJob h code)

/-- The units of a die hold nothing, and no known-answer test runs there. -/
def State.clearUnits (s : State) (d : Nat) : State :=
  let s := (numsFrom 0 4).foldl (fun s h => s.setFld (fireflyPage d h) ffKatCtrl_start 0) s
  let s := (s.withLooms (SMap.keep (fun k => k / 32 != d) s.looms)).withSieves (SMap.keep (fun k => k / 4 != d) s.sieves)
  let s := (s.withGates (SMap.keep (· != d) s.gates)).withReeves (SMap.keep (fun k => k / 4 != d) s.reeves)
  (s.withKats (SMap.keep (fun k => k / 4 != d) s.kats)).withSram
    (SMap.keep (fun k => k / 2 ^ 32 != 32 + d && (k / 2 ^ 32 ≥ 32 || k / 2 ^ 32 / 4 != d)) s.sram)

/-! ### Fences (R441, R442) -/

/-- A fence is counted and recorded. -/
def State.fenceNote (s : State) (d : Nat) (temp : Bool) : State :=
  ((s.bump (sqPage .fault) fenceCount_count).event (sqPage .fault) fault_evtRaw_fence).ledgerAdd 2 0 (some (diePage .croftCtrl d)) d
    0 0 0 0 (if temp then 1 else 0)

/-- A die is fenced: reason of the re-test, the code of the aborts, temporary or not. A permanent fence of a die that a temporary
one holds is a fence of its own. -/
def State.fence (s : State) (d reason code : Nat) (temp : Bool) : State :=
  let before := s
  if s.fenced d then
    if temp || s.power.permFence.contains d then s
    else (s.withPower { s.power with permFence := d :: s.power.permFence }).fenceNote d false
  else
    let s := abortJobs code (s.jobsOn d) s
    let s := s.setFld (sqPage .fault) faultFence_fenced (s.fld (sqPage .fault) faultFence_fenced + 2 ^ d)
    let s := s.withPower (if temp then { s.power with tempFence := (d, reason) :: s.power.tempFence }
      else { s.power with permFence := d :: s.power.permFence })
    let s := (s.diePortsDown d).clearUnits d
    let s := s.evacuate d
    noteStates before ((s.fenceNote d temp).triggerRetest reason)

/-- The record of a release. -/
def State.releaseNote (s : State) (d : Nat) : State := s.ledgerAdd 3 0 (some (diePage .croftCtrl d)) d 0 0 0 0 0

/-- A fence ends. With no job admitted the loader rewrites DIE_MAP at once; else the die joins the reserve, or becomes live at the
next admission (R441). The path to its stacks changes back, so the Almanac re-tests (R207, R352), and the attention of its pages is
seen again (R444). -/
def State.unfence (s : State) (d : Nat) : State :=
  if s.power.permFence.contains d || s.power.tempFence.any (·.1 == d) || !s.fenced d then s
  else
    let t := (s.setFld (sqPage .fault) faultFence_fenced (s.fld (sqPage .fault) faultFence_fenced - 2 ^ d)).releaseNote d
    let t := if t.loader.jobs.isEmpty then t.resetMap else t
    let t := if t.loader.jobs.any (·.state == .active) then t.triggerRetest 1 else t
    attnRise s (noteStates s t) (diePage .bells d)

/-- The Watchman releases the permanent fence of a die; a temporary one that holds the die goes on. -/
def State.dropFence (s : State) (d : Nat) : State :=
  if !s.power.permFence.contains d then s
  else
    let s := s.withPower { s.power with permFence := s.power.permFence.filter (· != d) }
    if s.power.tempFence.any (·.1 == d) then s.releaseNote d else s.unfence d

/-- Bits that the Watchman clears in FAULT_FENCE release permanent fences; bits that it sets fence their dies. A bit that a temporary
fence holds stays as it is. -/
def State.fenceWrite (s : State) (v : Nat) : State :=
  (numsFrom 0 8).foldl (fun s d =>
    if bitOf v d then (if s.fenced d then s else s.fence d 1 0 false)
    else s.dropFence d) s

/-- A CROFT reset lasts the 5 ms of Table FAULT-5 (DESIGN CHOICE, log 29: the table gives the bound). -/
def croftNs : Nat := 5000000

/-- A CROFT reset of a die (R447, R449): its jobs restart as for a fence, its state is cleared, and the Almanac re-tests. -/
def State.croftReset (s : State) (d reason : Nat) : State :=
  let before := s
  let s := abortJobs 0 (s.jobsOn d) s
  let s := if (s.logicalsOf d).isEmpty then s else s.evacuate d
  let s := (s.diePortsDown d).clearUnits d
  let s := s.withBells (SMap.keep (fun k => k / 4096 != d) s.bells)
  let s := (s.clearDie 16 d).withPower { s.power with dusk := s.power.dusk.filter (· != d),
                                                      resetEnd := SMap.set 0 d (s.now + croftNs) s.power.resetEnd }
  noteStates before ((s.ledgerAdd 7 68 (some (diePage .croftCtrl d)) d 0 0 0 0 0).triggerRetest reason)

/-- A temporary fence ends once its cause is gone: a CROFT reset, then the release (R456). -/
def execTemporaryFenceRelease (die : Nat) (s : State) : Host.Outcome State Fault Refusal :=
  match s.power.tempFence.find? fun x => x.1 == die with
  | some (_, reason) =>
    let s := s.croftReset die reason
    let s := s.withPower { s.power with tempFence := s.power.tempFence.filter fun x => x.1 != die }
    .next (s.unfence die)
  | none => .next s

/-! ### Uncorrectable reads (R443) -/

/-- The tensors that commands of a step's kernels write. -/
def writtenIds (b : BundleDecl) (kernels : List Nat) : List Nat :=
  ((kernels.filterMap fun k => b.kernels[k]?).map fun kd => (kd.plans.map fun p => (p.pieces.map fun c =>
    (c.grans.map fun g => g.entries.filterMap fun w =>
      let c := granCmd w
      if [0x01, 0x0F, 0x3C, 0x3D].contains c.opcode then none
      else (g.slots.find? fun p => p.1 == c.slotD).map (·.2)).flatten).flatten).flatten).flatten

/-- A sector holds bytes of a VA range of a function. -/
def State.inRange (s : State) (f va n sec : Nat) : Bool :=
  (numsFrom (va / pageBytes) (if n = 0 then 0 else (va + n - 1) / pageBytes + 1 - va / pageBytes)).any fun p =>
    match SMap.get none s.fields (f * 2 ^ 27 + p % 2 ^ 27) with
    | some m =>
      let base := m.pa * pageBytes
      decide (base ≤ sec) && decide (sec < base + pageBytes)
        && decide (va < p * pageBytes + (sec - base) + 32) && decide (p * pageBytes + (sec - base) < va + n)
    | none => false

/-- The virtual addresses of a tensor's elements and scales for a step, as address and length. -/
def Step.ranges (t : Step) (d : TensorDecl) : List (Nat × Nat) :=
  let places := match d.loc with
    | .bound => (t.place d.id).toList
    | _ => hbmPlaces d
  (places.map fun p => (p.1, storedBytes d) :: if d.fmt.isMx then [(p.2, d.rows * scaleColsOf d)] else []).flatten

/-- The tensors of a step's kernels, each once. -/
def State.stepTensors (s : State) (t : Step) : List TensorDecl :=
  ((t.decl.kernels.filterMap fun k => (s.stepBundle t).kernels[k]?).map (·.tensors)).flatten.foldl
    (fun ds d => if ds.any fun x => x.id == d.id then ds else ds ++ [d]) []

def State.isParam (s : State) (job id : Nat) : Bool := (s.paramPairs job).any fun p => p.1 == id || p.2 == id

/-- The kept inputs of a step: the tensors that it reads and does not write, but for parameters (DEDUCED, log 27). -/
def State.inputRanges (s : State) (t : Step) : List (Nat × Nat) :=
  let written := writtenIds (s.stepBundle t) t.decl.kernels
  (((s.stepTensors t).filter fun d => !s.isParam t.job d.id && d.viewOf.isNone && !written.contains d.id).map t.ranges).flatten

/-- The parameters of the read generation. -/
def State.paramRanges (s : State) (t : Step) : List (Nat × Nat) :=
  (((s.stepTensors t).filter fun d => s.isParam t.job d.id && s.readId t.job d.id == d.id).map t.ranges).flatten

/-- A sector lies in one of a step's ranges. -/
def State.rangeHit (s : State) (t : Step) (xs : List (Nat × Nat)) (sec : Nat) : Bool := xs.any fun x => s.inRange t.f x.1 x.2 sec

/-- The key-value page whose frame holds the sector. -/
def State.pageAtSector (s : State) (sec : Nat) : Option KvPage :=
  s.loader.pages.find? fun p => p.entry.state == 1 &&
    (sec / 16384 == framePayload p.entry.target / 16384 || sec / 64 == frameHeader p.entry.target / 64)

/-- The loader writes a sector with zeros, which makes its ECC valid again. A step whose mirror holds its bytes reads them there from
now on. -/
def State.zeroSector (s : State) (sec : Nat) : State :=
  let sec := sectorOf sec
  let s := s.withLoader { s.loader with steps := s.loader.steps.map fun t => if (t.mirrorPart sec).isSome then { t with gone := sec :: t.gone } else t }
  (storeBytes s sec (List.replicate 32 0#8)).healSector sec

/-- The part of a step's mirror in whose frame a sector lies. -/
def Step.mirrorOf (t : Step) (sec : Nat) : Option (Nat × Nat × Nat) :=
  t.mirror.find? fun p => decide (framePayload p.2.2 ≤ sec) && decide (sec < framePayload p.2.2 + p.2.1)

/-- A sector of a mirror is lost: the step reads its inputs in their place again. -/
def State.dropMirror (s : State) (t : Step) (p : Nat × Nat × Nat) : State :=
  let s := s.setStep { t with mirror := t.mirror.filter (· != p) }
  s.withLoader { s.loader with frames := s.loader.frames.filter (· != p.2.2) }

/-- What a sector held is given up: the part of a step's mirror, the page of the key-value store. -/
def State.giveUp (s : State) (h sec : Nat) : State :=
  let s := match s.stepOf? h with
    | some t => match t.mirrorOf sec with
      | some p => s.dropMirror t p
      | none => s
    | none => s
  match s.pageAtSector sec with
  | some p => s.dropPage p
  | none => s

/-- What a 0x41 does to the job that met it. A lost sector of the mirror ends it only where the input's own sector was given up
(DEDUCED, log 27: no other bytes are left then). -/
def State.sectorFault (s : State) (h sec : Nat) : State :=
  match s.job? h with
  | none => s
  | some j =>
    if j.state != .active then s
    else
      let pinnedPage := match s.pageAtSector sec with
        | some p => s.pinned p
        | none => false
      let t := s.stepOf? h
      let own := t.bind fun t => t.mirrorOf sec
      let kept := t.any fun t => match own with
        | some p => t.gone.contains (sectorOf (p.1 + (sec - framePayload p.2.2)))
        | none => (t.mirrorPart (sectorOf sec)).isNone && s.rangeHit t (s.inputRanges t ++ s.paramRanges t) sec
      if pinnedPage || kept then (s.jobTree j j.pkg opJobStop 0x41).endJobHere j 0x41
      else
        let s := ((s.giveUp h sec).zeroSector sec).abortJob h 0x41
        ((s.stepOf? h).bind (s.renew j)).getD s

/-! ### The fault manager (R438 to R441) -/

/-- A fault counts toward fencing (Table FAULT-1). -/
def countsFence (r : FaultRec) : Bool :=
  [0x40, 0x41, 0x42, 0x47].contains r.code || (r.code == 0x43 && r.info.toNat % 256 == 1)

/-- A counting fault of die d; the die is fenced when fence_limit of them fall within 24 h. -/
def State.countFault (s : State) (d code : Nat) : State :=
  let now := s.uptimeMs
  let recent := s.power.fenceFaults.filter fun x => decide (now < x.2 + 86400000)
  let s := s.withPower { s.power with fenceFaults := recent ++ [(d, now)] }
  let n := (recent.filter fun x => x.1 == d).length + 1
  if s.fld (sqPage .fault) faultCtrl_fenceLimit ≤ n then s.fence d 1 code false else s

/-- The page, the last-fault registers and the Ledger take the fault. -/
def State.recordFault (s : State) (r : FaultRec) (p : Page) : State :=
  let f := ((r.job.bind s.job?).map (·.f)).getD 0
  let step := ((r.job.bind s.stepOf?).map (·.number)).getD 0
  let pg := sqPage .fault
  let s := (s.bump pg faultCount_count).event pg fault_evtRaw_fault
  let s := (s.setFld pg faultLastJob_job (r.job.getD 0)).setFld pg faultLastJob_function f
  let s := ((s.setFld pg faultLastSrc_page p.type.code).setFld pg faultLastSrc_instance p.inst).setFld pg faultLastSrc_unit p.unit
  let s := (s.setFld pg faultLastTimeLo_transit (s.transit % 2 ^ 32)).setFld pg faultLastTimeHi_transit (s.transit / 2 ^ 32)
  s.ledgerAdd 1 r.code (some p) p.unit r.info.toNat (r.job.getD 0) f step 0

/-- Jobs of a binding. -/
def State.boundJobs (s : State) : List Nat := s.ferry.binds.map (·.job)

def endJobs (code : Nat) : List Job → State → State
  | [], s => s
  | j :: js, s => endJobs code js (if j.state = .active then s.endJobHere j code else s)

/-- An uncorrectable read from a pseudo-channel without a spare row fences the owning die (R261, R441). -/
def State.spareFence (s : State) (sec : Nat) : State :=
  if s.noSpare sec then s.fence (stackOfPa sec / 2) 1 0x41 false else s

/-- The fault manager acts on a fault, on the ERROR of a unit (R320) and on an uncorrectable read without a spare row (R441): these
two carry code 0, and it records neither. -/
def State.handleFault (s : State) (r : FaultRec) : State :=
  match pageAt r.page with
  | none => s
  | some (p, _) =>
    if r.code = 0 then
      match r.job with
      | some h => s.abortJob h bellErrorCode
      | none => s.spareFence r.sector
    else
    let s := s.recordFault r p
    if r.code = 0x4F then
      let s := endJobs 0x4F s.loader.jobs s
      s.withBoard { s.board with hubFail := true }
    else if r.code = 0x48 || r.code = 0x49 || r.code = 0x4A then s
    else
      let s := match r.job with
        | some h => if r.code = 0x41 then s.sectorFault h r.sector else s.abortJob h r.code
        | none => if r.code = 0x44 then abortJobs 0x44 s.boundJobs s else s
      if countsFence r then s.countFault p.die r.code else s

/-- Pages on which the faults of Table FAULT-1 that no command raises are captured. -/
def hwPage (code : Nat) (t : PageType) : Bool :=
  match code with
  | 0x40 => [PageType.loom, .sieve, .gate, .commons, .granary].contains t
  | 0x41 => t == .granary || t == .hbm
  | 0x42 => t == .loom
  | 0x4F => t == .fault
  | _ => false

/-- The Commons of some dies corrects a read of its SRAM (R328). -/
def sramFixes : List Nat → State → State
  | [], s => s
  | d :: ds, s =>
    let pg := diePage .commons d
    sramFixes ds (if s.served pg then (s.bump pg commons_ceCount_count).event pg commons_evtRaw_corrected else s)

/-- A fault that no other command raises: its page captures it, and its unit's state shows it. A code that the table does not
capture on the page is no fault, and a page under R430 captures none. -/
def State.hwFault (s : State) (hw : HwFault) : State :=
  let s := sramFixes hw.fixed (weaken hw.weak s)
  match (pageAt hw.page).filter fun q => hwPage hw.code q.1.type && s.served q.1 with
  | none => s
  | some (p, _) =>
    let s := if hw.code = 0x41 then
        let k := stackOfPa hw.sector
        let x := s.stack k
        let s := s.setStack k { x with bad := if x.bad.contains (sectorOf hw.sector) then x.bad else sectorOf hw.sector :: x.bad }
        s.ueEvent hw.sector
      else s
    let s := if hw.code = 0x42 && p.type = .loom then
        s.setLoom p.die p.i p.j ((s.loom p.die p.i p.j).withhold (bitsOf hw.info.toNat 26 16) hw.job)
      else s
    s.fault p hw.code hw.info hw.job hw.sector

/-- The fault manager takes the oldest fault it was sent. -/
def execRunTimeFault (hw : Option HwFault) (s : State) : Host.Outcome State Fault Refusal :=
  let s := match hw with
    | some x => if s.board.island && s.board.mainOk && !s.board.held && !s.board.squareFail then s.hwFault x else s
    | none => s
  match s.faults with
  | [] => .next s
  | r :: rs => .next ((s.withFaults rs).handleFault r)

end Sys2Proof.Machine
end

