-- ==== Sys2Proof/Machine/Meridian.lean ====
section
/-! DEFINITION. The Meridian's references: PTP, the frame pulse, locking, holdover and the host's settings (R336 to R341). -/

namespace Sys2Proof.Machine

def merPage : Page := sqPage .meridian

/-- MER_STATUS.state. -/
def merFree : Nat := 0
def merAcquiring : Nat := 1
def merLocked : Nat := 2
def merHoldover : Nat := 3

def State.merState (s : State) : Nat := s.fld merPage merStatus_state
/-- MER_HOLD.elapsed_s: it counts in HOLDOVER, and its value stays until the next HOLDOVER (Table TIME-9). -/
def State.holdElapsed (s : State) : Nat :=
  if s.merState = merHoldover then min ((s.now - s.mer.holdAt) / 1000000000) 0xFFFF
  else s.fld merPage merHold_elapsedS

/-- MER_STATUS.state takes a value. At the end of HOLDOVER the seconds that it lasted are kept. -/
def State.setMerState (s : State) (v : Nat) : State :=
  (s.setFld merPage merHold_elapsedS s.holdElapsed).setFld merPage merStatus_state v
def State.merSource (s : State) : Nat := s.fld merPage merCtrl_source

/-- Meridian time as a transit from a base, with nothing left to slew. -/
def State.merTransit (s : State) (t : Nat) : State :=
  s.withMer { s.mer with ptp := false, base := t, at_ := s.now, slew := 0 }

/-! ### Locking and loss (R339, R340) -/

/-- One more Sync or edge with its offset in ns: LOCKED after n in a row within the threshold. -/
def State.countLock (s : State) (off : Int) (n : Nat) : State :=
  if s.merState = merAcquiring then
    if off.natAbs ≤ s.fld merPage merLock_thresholdNs then
      let k := s.mer.syncs + 1
      let s := s.withMer { s.mer with syncs := k }
      if n ≤ k then (s.setMerState merLocked).event merPage meridian_evtRaw_locked else s
    else s.withMer { s.mer with syncs := 0 }
  else s

/-- The reference returns: HOLDOVER and FREE_RUN lead to ACQUIRING. -/
def State.merReturn (s : State) : State :=
  if s.merState = merHoldover || s.merState = merFree then
    let s := s.merRebase
    (s.setMerState merAcquiring).withMer { s.mer with syncs := 0, rate := 0 }
  else s

/-- FREE_RUN for want of a reference: fault 0x4A, and every ON-AIR job is withdrawn. -/
def State.merLost (s : State) (cause : Nat) : State :=
  let s := (s.merRebase.fault merPage 0x4A (infoOf [(cause, 0)]) none).setMerState merFree
  let s := s.withMer { s.mer with slew := 0, rate := 0 }
  withdrawJobs 7 ((s.loader.jobs.filter fun j => j.cls == 0 && j.state == .active).map (·.handle)) s

/-- A LOCKED Meridian loses its reference. HOLDOVER keeps the frequency correction that the reference gave. -/
def State.loseReference (s : State) : State :=
  if s.merState = merLocked then
    let s := s.event merPage meridian_evtRaw_lockLost
    if s.fld merPage merCtrl_holdoverOk = 1 then
      let s := s.merRebase
      ((s.withMer { s.mer with slew := 0, holdAt := s.now, rate := s.mer.freq }).setMerState merHoldover).event merPage meridian_evtRaw_holdover
    else s.merLost 0
  else s

/-- The Meridian runs: also in NIGHTWATCH where it is kept running (R341). -/
def State.merRuns (s : State) : Bool :=
  s.served merPage || (s.board.night == 2 && s.board.island && s.board.mainOk && !s.board.held && !s.board.squareFail
    && !s.board.recovery && s.fld merPage merCtrl_keepInNightwatch == 1)

/-- HOLDOVER has lasted MER_HOLD.limit_s seconds. -/
def execHoldoverLimit (s : State) : Host.Outcome State Fault Refusal :=
  let limit := s.fld merPage merHold_limitS
  if s.merRuns && s.merState = merHoldover && limit != 0 then
    .next ((s.passTo (s.mer.holdAt + limit * 1000000000)).merLost 1)
  else .next s

/-- An offset is corrected: by a step above 1 µs while the Almanac holds no guarantee, else by a slew. `sure` is the time
that the reference gives, `here` the time that this Meridian keeps, both as a base in the mode of `ptp`. -/
def State.correct (s : State) (ptp : Bool) (sure here : Nat) (off : Int) : State :=
  let s := s.setFld merPage merOffset_ns (ofSigned 32 (max (-2147483648) (min 2147483647 off)))
  if 1000 < off.natAbs && !s.guaranteed then
    (s.withMer { s.mer with ptp := ptp, base := sure, at_ := s.now, slew := 0 }).event merPage meridian_evtRaw_stepped
  else s.withMer { s.mer with ptp := ptp, base := here, at_ := s.now, slew := -off }

/-- Signed ns from transit b to transit a. -/
def State.trOffset (s : State) (a b : Nat) : Int :=
  if trBefore b a then (unitsNs s.videoN s.videoD s.videoL (trDiff s.videoL b a) : Nat)
  else -((unitsNs s.videoN s.videoD s.videoL (trDiff s.videoL a b) : Nat) : Int)

/-! ### PTP (R337, R339) -/

/-- The better of two masters by the default comparison. -/
def betterMaster (a b : AnnounceMsg) : AnnounceMsg :=
  let k (m : AnnounceMsg) : List Nat :=
    [m.priority1, m.clockClass, m.accuracy, m.variance, m.priority2, m.identity, m.steps, m.source]
  let less : List Nat → List Nat → Bool :=
    fun x y => ((x.zip y).find? fun p => p.1 != p.2).any fun p => decide (p.1 < p.2)
  if less (k b) (k a) then b else a

/-- The grandmaster that the clock selects, of those heard in its domain. -/
def State.master (s : State) : Option AnnounceMsg :=
  match s.mer.masters.filter fun m => m.domain == s.fld merPage merPtp_domain with
  | [] => none
  | m :: ms => some (ms.foldl betterMaster m)

/-- The frequency correction that two measurements give, in parts of 10⁹. -/
def State.measureFreq (s : State) (own : Nat) (master : Int) : State :=
  let freq := match s.mer.lastRef with
    | some (o, m) => if o < own then (master - m - ((own : Int) - o)) * 1000000000 / ((own : Int) - o) else s.mer.freq
    | none => s.mer.freq
  s.withMer { s.mer with freq := freq, lastRef := some (own, master) }

/-- A measurement: of an own timestamp, the master time, corrected for the path, in half ns. Its whole ns steer the time (DESIGN
CHOICE, log 28). -/
def State.ptpMeasure (s : State) (own : Nat) (t2 : Int) : State :=
  let s := s.merReturn
  let s := s.measureFreq own t2
  let t := (t2 / 2).toNat
  let here := s.mer.base + s.merElapsed
  let off : Int := if s.mer.ptp then (2 * (here : Int) - t2) / 2 else s.trOffset s.transit (ptpTransit s.videoN s.videoD s.videoL t)
  let s := s.correct true t ((t : Int) + off).toNat off
  s.countLock off 16

/-- A Delay_Req leaves; its delay counts from a master time, in half ns. -/
def State.sendDelayReq (s : State) (seq : Nat) (t : Int) : State :=
  let s := s.withMer { s.mer with delayReq := some (seq, t) }
  s.withOut { s.out with ptp := s.out.ptp ++ [(1, seq)] }

/-- The port's clock takes part under source PTP. -/
def State.ptpOn (s : State) : Bool := s.merRuns && s.merSource == 1

/-- A Sync of the selected master in the domain; its timestamp may lie half a ns past `now`. A two-step Sync waits for its
Follow_Up. -/
def execPtpSync (p : PtpSync) (s : State) : Host.Outcome State Fault Refusal :=
  if !s.ptpOn || p.domain != s.fld merPage merPtp_domain || !(s.master.any (·.source == p.source)) then .next s
  else
    let rx := 2 * s.now + (if p.half then 1 else 0)
    if p.twoStep then .next (s.withMer { s.mer with twoStep := some (p.seq, rx, p.correction) })
    else
      let t : Int := 2 * (p.origin + p.correction) - (if p.half then 1 else 0)
      .next ((s.ptpMeasure rx (t + s.mer.delay)).sendDelayReq p.seq t)

/-- The precise origin time of a two-step Sync. -/
def execFollowUp (origin seq : Nat) (s : State) : Host.Outcome State Fault Refusal :=
  match s.mer.twoStep with
  | some (q, rx, corr) =>
    if s.ptpOn && q == seq then
      let s := s.withMer { s.mer with twoStep := none }
      let t : Int := 2 * (origin + corr) + (2 * (s.now : Int) - rx)
      .next ((s.ptpMeasure (2 * s.now) (t + s.mer.delay)).sendDelayReq seq t)
    else .next s
  | none => .next s

/-- The answer to a Delay_Req gives the path delay, in half ns. -/
def execDelayResponse (rx seq : Nat) (s : State) : Host.Outcome State Fault Refusal :=
  match s.mer.delayReq with
  | some (q, t) =>
    if s.ptpOn && q == seq then .next (s.withMer { s.mer with delay := ((2 * (rx : Int) - t) / 2).toNat, delayReq := none })
    else .next s
  | none => .next s

/-- An Announce message of the domain; the masters heard take part in the selection. -/
def execAnnounce (ann : AnnounceMsg) (s : State) : Host.Outcome State Fault Refusal :=
  if s.ptpOn && ann.domain == s.fld merPage merPtp_domain then
    .next (s.withMer { s.mer with masters := (s.mer.masters.filter fun m => m.source != ann.source) ++ [ann] })
  else .next s

/-- Nothing came within the announce receipt timeout: no grandmaster is selected. -/
def execAnnounceTimeout (s : State) : Host.Outcome State Fault Refusal :=
  if s.ptpOn then .next ((s.withMer { s.mer with masters := [], twoStep := none, delayReq := none }).loseReference)
  else .next s

/-- MER_PTP.domain took a value: without a grandmaster in the domain the reference is lost (R340). -/
def State.domainSet (s : State) : State := if s.ptpOn && s.master.isNone then s.loseReference else s

/-- An ARP request for an address: the port answers for MER_PTP_IP with its MAC address. -/
def execPtpArp (ip : Nat) (s : State) : Host.Outcome State Fault Refusal :=
  if s.merRuns && s.fld merPage merPtpIp_ipv4 == ip then .next (s.withOut { s.out with ptp := s.out.ptp ++ [(2, s.fuses.mac)] })
  else .next s

/-! ### The frame pulse (R338) -/

/-- MER_FRAME_NEXT. -/
def State.frameNext (s : State) : Nat := s.fld merPage merFrameNextHi_frame * 2 ^ 32 + s.fld merPage merFrameNextLo_frame

/-- An interval differs from the period of MER_RATE by more than 100 ppm. -/
def State.badInterval (s : State) (ns : Nat) : Bool :=
  let period := s.videoD * 1000000000
  decide (period < 10000 * ((ns * s.videoN - period) + (period - ns * s.videoN)))

/-- The pulse counts as lost: the next edge is a first edge. -/
def State.losePulse (s : State) : State :=
  (s.withMer { s.mer with edgeAt := none, edgeFrame := none, edgeArmed := false, edgeBad := 0 }).loseReference

/-- An edge that takes frame count f. -/
def State.countEdge (s : State) (f : Nat) : State :=
  let mark := mkTransit f 0 0
  let first := s.mer.edgeFrame.isNone
  let off := s.trOffset s.transit mark
  let here := s.transit
  let s := s.correct false mark here off
  let s := s.withMer { s.mer with edgeFrame := some (f % 2 ^ 36), edgeArmed := false }
  if first then s.withMer { s.mer with syncs := 1 } else s.countLock off 8

/-- A rising edge. -/
def execFrameRefEdge (s : State) : Host.Outcome State Fault Refusal :=
  if !s.merRuns || s.merSource != 2 then .next s
  else
    let s := s.merReturn
    let interval := s.mer.edgeAt.map fun t => s.now - t
    let bad := match interval with
      | some n => if s.badInterval n then s.mer.edgeBad + 1 else 0
      | none => 0
    if 4 ≤ bad then .next ((s.event merPage meridian_evtRaw_rateMismatch).losePulse)
    else
      let s := s.merRebase
      let s := s.withMer { s.mer with edgeAt := some s.now, edgeBad := bad,
                                      edgePeriod := if interval.isSome then interval else s.mer.edgePeriod }
      if s.mer.edgeArmed then .next (s.countEdge s.frameNext)
      else match s.mer.edgeFrame with
        | some f => .next (s.countEdge (f + 1))
        | none => .next s

/-- No edge within 1.5 frame periods of the previous one. -/
def execFrameRefMissing (s : State) : Host.Outcome State Fault Refusal :=
  match s.mer.edgeAt with
  | some t =>
    if s.merRuns && s.merSource = 2 then
      .next ((s.passTo (t + ceilDiv (3 * s.videoD * 1000000000) (2 * s.videoN))).losePulse)
    else .next s
  | none => .next s

/-! ### Writes (R335, R336, R339, R341) -/

/-- MER_CTRL.source takes a value; not while the Almanac holds an ON-AIR or COMMITTED entry. -/
def State.setSource (s : State) (v : Nat) : State :=
  if s.merSource = v || s.guaranteed then s
  else
    let t := s.transit
    let s := ((s.merTransit t).setFld merPage merCtrl_source v)
    let s := s.withMer { s.mer with syncs := 0, edgeAt := none, edgeFrame := none, edgePeriod := none, edgeArmed := false,
                                    edgeBad := 0, twoStep := none, delayReq := none, masters := [], lastRef := none, freq := 0, rate := 0 }
    s.setMerState (if v = 0 then merFree else merAcquiring)

/-- A new format is in force; `frame` is the frame count of the old one. -/
def State.newFormat (s : State) (frame : Nat) : State :=
  let s := if s.mer.ptp then s
    else if s.merSource = 2 then
      (s.merTransit (mkTransit frame 0 0)).setMerState merAcquiring
    else s.merTransit (mkTransit frame 0 0)
  let s := if s.merSource = 2 then
      s.withMer { s.mer with syncs := 0, edgeAt := none, edgeFrame := none, edgePeriod := none, edgeBad := 0 } else s
  s.event merPage meridian_evtRaw_stepped

/-- A write of MER_RATE: a pair absent from Table TIME-1 leaves it unchanged. -/
def State.setRate (s : State) (num den : Nat) : State :=
  if s.guaranteed || !legalRates.contains (num, den) then s
  else
    let frame := trFrame s.transit
    ((s.setFld merPage merRate_num num).setFld merPage merRate_den1001 den).newFormat frame

/-- A write of MER_LINES with a legal total. -/
def State.setLines (s : State) (total : Nat) : State :=
  if s.guaranteed then s
  else
    let frame := trFrame s.transit
    (s.setFld merPage merLines_total total).newFormat frame

/-- MER_SET_LO was written: under source NONE the transit is set, unless it is malformed (DEDUCED, log 28). -/
def State.setTransit (s : State) : State :=
  let t := s.fld merPage merSetHi_transit * 2 ^ 32 + s.fld merPage merSetLo_transit
  if s.merSource = 0 && decide (trLine t < s.videoL) then s.merTransit t else s

/-- MER_FRAME_NEXT_LO was written: the next edge takes the count. -/
def State.armFrame (s : State) : State := s.withMer { s.mer with edgeArmed := true }

end Sys2Proof.Machine
end

