-- ==== Sys2Proof/Machine/Board.lean ====
section
/-! DEFINITION. Boot, the COLD, PACKAGE and FUNCTION resets, and the board's lands (R10, R287, R401, R411, R412, R445 to
R449, R465 to R469, R477). -/

namespace Sys2Proof.Machine

/-! ### Boot (R409, R411, R412, R413) -/

/-- Components of Table HOST-13. -/
def compWatchman : Nat := 0
def compReeve : Nat := 1
def compSquare : Nat := 2
def compKeys : Nat := 3

/-- The image in slot i of component c. -/
def State.image? (s : State) (c i : Nat) : Option Image :=
  (s.wm.slots[c]?).bind fun p => if i = 0 then p.1 else p.2

/-- A slot is valid: its image verified, and its security version is at least the fused minimum (R411). -/
def State.slotValid (s : State) (c i : Nat) : Bool :=
  (s.image? c i).any fun x => x.valid && decide (s.fuses.minSvn.getD c 0 ≤ x.svn)

def State.slotVersion (s : State) (c i : Nat) : Nat := ((s.image? c i).map (·.version)).getD 0

/-- The slot that a boot runs, and whether an activated slot failed: the activated one, else the valid one with the higher
version, on equal versions the one that ran (DEDUCED, log 29). -/
def State.bootSlot (s : State) (c : Nat) : Option (Nat × Bool) :=
  let old := s.wm.running.getD c 0
  let new := s.wm.chosen.getD c 0
  if new ≠ old then
    if s.slotValid c new then some (new, false) else if s.slotValid c old then some (old, true) else none
  else if s.slotValid c old && (!s.slotValid c (1 - old) || decide (s.slotVersion c (1 - old) ≤ s.slotVersion c old)) then
    some (old, false)
  else if s.slotValid c (1 - old) then some (1 - old, false)
  else none

def State.setWmState (s : State) (v : Nat) : State := s.setFld (sqPage .watchman) wmStatus_state v

/-- A boot failure: the alert and its Ledger record. -/
def State.bootFail (s : State) (c : Nat) : State := (s.alert wmAlert_bootFail).ledgerAdd 8 0 none 32 c 0 0 0 0

/-- Boot a component; with no valid slot the package is held in RECOVERY. -/
def State.bootComp (s : State) (c : Nat) : State :=
  match s.bootSlot c with
  | some (i, fail) =>
    let s1 := s.withWm { s.wm with running := s.wm.running.set c i, chosen := s.wm.chosen.set c i, booted := s.wm.booted.set c true }
    if fail then s1.bootFail c else s1
  | none =>
    let s1 := (s.withWm { s.wm with booted := s.wm.booted.set c false }).withBoard { s.board with recovery := true }
    (s1.setWmState 2).bootFail c

/-- The body of a component's running image; nothing of a slot that is not valid. -/
def State.imageBody (s : State) (c : Nat) : List Byte :=
  if s.wm.booted.getD c false then ((s.image? c (s.wm.running.getD c 0)).map (·.body)).getD [] else []

/-- LOADER_KEY from the bundle-key image (R330). -/
def State.loadKeys (s : State) : State :=
  let body := s.imageBody compKeys
  (numsFrom 0 64).foldl (fun s i =>
    let w := BitVec.ofNat 32 (leAt body (4 * i) 4)
    s.setReg ((sqPage .loader).reg (0xC00 + 4 * i)) (if i % 16 < 12 then w else if i % 16 = 12 then w &&& 1 else 0)) s

/-- One record of a Square configuration: page number and owner. -/
def State.loadOwner (s : State) (n o : Nat) : State :=
  match pageAt (n * 0x1000) with
  | some (p, 0) => if p.type != .ring && o ≤ 3 then s.setReg (p.reg 0x008) (BitVec.ofNat 32 o) else s
  | _ => s

def loadOwners : Nat → List Byte → State → State
  | 0, _, s => s
  | k + 1, bs, s => if bs.length < 4 then s else loadOwners k (bs.drop 4) (s.loadOwner (leAt bs 0 3) (leAt bs 3 1))

/-! ### Repairs at a reset (R261) -/

/-- HBM_SPARE of pseudo-channel n of a stack. -/
def State.setSpare (s : State) (k n v : Nat) : State :=
  let a := (stackPage .hbm k).reg (0xC00 + n % 64 / 4 * 4)
  s.setReg a (setField (s.reg a) (8 * (n % 4) + 7) (8 * (n % 4)) v)

/-- The spare rows of soft repairs are free again. -/
def freeSpares (k : Nat) : List (Nat × Nat) → State → State
  | [], s => s
  | x :: xs, s => freeSpares k xs (s.setSpare k x.1 (min 255 (s.spareLeft k x.1 + 1)))

/-- Soft repairs are lost. -/
def State.loseRepairs (s : State) : State :=
  s.hbmStacks.foldl (fun s e => (freeSpares e.1 e.2.soft s).setStack e.1 { e.2 with soft := [], rowCe := [] }) s

/-- The rows that the Ledger lists as soft-repaired and no later hard repair marks done, each once. -/
def Ledger.openRepairs (l : Ledger) : List LedgerRec :=
  let same (a b : LedgerRec) : Bool := a.unit == b.unit && a.extra == b.extra
  (l.records.filter fun r => r.kind == 4 && keepsRecord l.records r).foldl
    (fun acc r => if acc.any (same r) then acc else acc ++ [r]) []

/-- A row needs repair and its pseudo-channel has no spare left (R261). -/
def State.repairExhausted (s : State) (k : Nat) : State :=
  ((s.event (stackPage .hbm k) hbm_evtRaw_repairExhausted).setFld (stackPage .hbm k) hbmStatus_degraded 1).alert wmAlert_repair

/-- A hard repair takes a spare row for good; a row without one is not repaired. -/
def hardRepairs : List LedgerRec → State → State
  | [], s => s
  | r :: rs, s =>
    let k := r.unit - 16
    let n := r.extra / 2 ^ 32 % 64
    hardRepairs rs (if s.spareLeft k n = 0 then s.repairExhausted k else (s.setSpare k n (s.spareLeft k n - 1)).ledgerAdd 5 0 (some (stackPage .hbm k)) r.unit 0 0 0 0 r.extra)

/-! ### Reset sequences -/

/-- A PACKAGE or COLD reset is over and PERST_N released: the loader accepts tickets (R467). -/
def State.checkReady (s : State) : State :=
  if s.up then s.setFld (sqPage .loader) loaderStatus_ready 1 else s

/-- Everything at its COLD value but what Table FAULT-6 keeps; `regs` gives the registers that stay. -/
def State.coldBase (s : State) (regs : SMap Word) : State :=
  { State.reset with
    pending := s.pending, now := s.now, freeCount := s.freeCount, fuses := s.fuses, regs := regs, ledger := s.ledger, out := { s.out with held := [] }
    wm := { s.wm with update := none }
    power := { permFence := s.ledger.fences }
    mer := { at_ := s.now }
    board := { s.board with island := true, training := false, held := false, squareFail := false, hubFail := false, night := 0,
                            recovery := false, link := false, vfs := 0, upSince := s.now, bar2 := 36, vfBar2 := 36, pcie := [] } }

/-- HBM_SPARE is kept by every reset, and the WATCHMAN page by the part of C that starts at MAIN_OK. -/
def keepSpare (a : Nat) : Bool :=
  match pageAt a with
  | some (p, off) => p.type == .hbm && decide (0xC00 ≤ off)
  | none => false
def keepCold (a : Nat) : Bool :=
  keepSpare a || match pageAt a with
  | some (p, _) => p.type == .watchman
  | none => false

/-- What the firmware does before the training: it verifies the other components, loads owners and keys from valid images and
applies hard repairs. -/
def State.firmwareRun (s : State) : State :=
  let s := ((s.bootComp compSquare).bootComp compReeve).bootComp compKeys
  let s := (loadOwners (s.imageBody compSquare).length (s.imageBody compSquare) s)
  let s := if s.wm.booted.getD compKeys false then s.loadKeys else s
  hardRepairs s.ledger.openRepairs s

/-- The COLD sequence (R412, R467): configuration, hard repairs, HBM training; without a valid Watchman slot no firmware runs. -/
def State.coldRun (s : State) : State :=
  let s := if s.wm.booted.getD compWatchman false then s.firmwareRun else s
  let s := s.ledgerAdd 7 67 none 32 0 0 0 0 0
  s.withBoard { s.board with training := !s.board.recovery }

/-- A COLD reset at MAIN_OK; the island had its own at power on. -/
def State.coldReset (s : State) : State :=
  let s := s.loseRepairs
  let s1 := s.coldBase (SMap.keep keepCold s.regs)
  let s2 := if s1.wm.booted.getD compWatchman false then s1.setWmState 0 else s1.withBoard { s1.board with recovery := true }
  s2.coldRun

/-- Cause bits of SQ_RESET_CAUSE. -/
def State.setCause (s : State) (perst watchman retain : Nat) : State :=
  s.setReg ((sqPage .squareCtrl).reg 0x054) (BitVec.ofNat 32 (2 * perst + 4 * watchman + 8 * retain))

/-- What a PACKAGE reset wipes beside the registers: `keep` is the retention of HBM and the Field maps. -/
def State.packageWipe (s : State) (keep : Bool) : State :=
  { s with
    mem := if keep then s.mem else []
    margined := if keep then s.margined else []
    dmaLost := []
    ringLost := []
    hbmStacks := if keep then SMap.mapF (fun _ => {}) (fun _ x => { bad := x.bad, weak := x.weak }) s.hbmStacks else []
    fields := if keep then s.fields else []
    fieldReqs := [], dma := [], bells := [], loader := { nextRun := s.loader.nextRun }, alm := []
    cue := { pinA := s.cue.pinA, pinEn := s.cue.pinEn }, mer := { at_ := s.now }
    looms := [], sieves := [], gates := [], pairs := [], sram := [], reeves := [], kats := [], flight := [], ferry := {}
    power := { permFence := s.ledger.fences }, faults := [], restarts := []
    board := { s.board with link := false, training := true, squareFail := false, hubFail := false, night := 0, vfs := 0,
                            upSince := s.now, bar2 := 36, vfBar2 := 36, pcie := [] } }

/-- A PACKAGE reset (R447 to R449): the Watchman's island keeps its state, HBM and the Field maps with retain. -/
def State.packageReset (s : State) (retain : Bool) (perst watchman : Nat) : State :=
  let keep := retain && !s.board.squareFail
  let s := s.loseRepairs
  let s := (s.clearRegs clrP fun _ => true).clearGuards fun p => p.type != .watchman
  let s := s.setCause perst watchman (if keep then 1 else 0)
  let s := (s.packageWipe keep).withOut { s.out with held := [] }
  let s := if s.wm.chosen.getD compReeve 0 = s.wm.running.getD compReeve 0 then s else s.bootComp compReeve
  s.ledgerAdd 7 80 none 32 0 0 0 0 0

/-- A permanent fence is applied again (R441): the die's bit of FAULT_FENCE. -/
def reFence : List Nat → State → State
  | [], s => s
  | d :: ds, s =>
    reFence ds (if s.fenced d then s else s.setFld (sqPage .fault) faultFence_fenced (s.fld (sqPage .fault) faultFence_fenced + 2 ^ d))

/-- HBM_STATUS.trained of the stacks that trained. -/
def setTrained (failed : List Nat) : List Nat → State → State
  | [], s => s
  | k :: ks, s => setTrained failed ks (if failed.contains k then s else s.setFld (stackPage .hbm k) hbmStatus_trained 1)

/-- The 48 GiB of a stack that failed training are lost (Table FAULT-3). -/
def State.loseStack (s : State) (k : Nat) : State :=
  (s.setStack k { s.stack k with lost := true, bad := [], weak := [] }).withMem (SMap.keep (fun a => stackOf (a / 2 ^ 37) (a % 2 ^ 37) != k) s.mem)

def loseStacks : List Nat → State → State
  | [], s => s
  | k :: ks, s => loseStacks ks (if k < 16 then s.loseStack k else s)

/-- The dies of stacks that failed training are fenced. -/
def fenceFailed : List Nat → State → State
  | [], s => s
  | k :: ks, s => fenceFailed ks (if k < 16 then s.fence (k / 2) 1 0 false else s)

/-- HBM training ends: fences are applied, the reset is over (R287, R441). -/
def execHbmTrainingComplete (failed : List Nat) (s : State) : Host.Outcome State Fault Refusal :=
  if s.board.training && s.board.island && s.board.mainOk then
    let s := s.withBoard { s.board with training := false }
    let s := loseStacks failed (setTrained failed (numsFrom 0 16) s)
    let s := noteStates s (reFence (s.power.permFence.filter (· < 8)) s).resetMap
    let s := fenceFailed failed s
    let s := if s.fld (sqPage .watchman) wmStatus_state = 0 then s.setWmState 1 else s
    .next s.checkReady
  else .next s

/-! ### Lands -/

/-- MAIN_OK rises: the COLD sequence, or the end of the reset that its fall began, while no main rail has been removed since
(R467 to R469). A rise while an island rail is out of range is seen when the island boots. -/
def execMainOkRise (s : State) : Host.Outcome State Fault Refusal :=
  if s.board.mainOk then .next s
  else
    let s := s.withBoard { s.board with mainOk := true }
    if !s.board.island then .next s
    else if s.board.held then
      .next (s.withBoard { s.board with held := false, training := !s.board.recovery, upSince := s.now })
    else .next s.coldReset

/-- MAIN_OK falls: a PACKAGE reset without retain that lasts until it rises again; a COLD sequence starts anew (Table
PKG-6). -/
def execMainOkFall (s : State) : Host.Outcome State Fault Refusal :=
  if !s.board.mainOk then .next s
  else if !s.board.island then .next (s.withBoard { s.board with mainOk := false })
  else
    let cold := s.board.training && s.fld (sqPage .squareCtrl) sqResetCause_cold = 1
    let s := if cold then s else s.packageReset false 0 0
    .next (s.withBoard { s.board with mainOk := false, held := !cold, training := false })

/-- An island rail falls below 90 %: the whole package is held in reset, at its reset values, and Ledger records that are not in
flash are lost. DEDUCED (log 29): the Ledger goes on from the records that the flash holds. -/
def execIslandRailLoss (s : State) : Host.Outcome State Fault Refusal :=
  if s.board.island then
    let left : Ledger := { s.ledger with buffer := [], next := if s.ledger.flash.isEmpty then 0 else s.ledger.lastSeq + 1 }
    let s := s.loseRepairs.withLedger left
    let s := s.coldBase (SMap.keep keepSpare s.regs)
    .next (s.withBoard { s.board with island := false })
  else .next s

/-- Both island rails are in range: the island boots. With MAIN_OK high the return is a COLD reset (R465); else the COLD
sequence waits for MAIN_OK. -/
def execIslandPowerOn (wmAddr : Nat) (s : State) : Host.Outcome State Fault Refusal :=
  if s.board.island then .next s
  else
    let s := s.coldBase (SMap.keep keepSpare s.regs)
    let s := (s.withBoard { s.board with wmAddr := wmAddr }).bootComp compWatchman
    .next (if s.board.mainOk then s.coldRun else s)

/-- PERST_N falls: a PACKAGE reset by POWER_CTRL.retain; no effect while MAIN_OK is low (Table PKG-6). -/
def execPerstNAssert (s : State) : Host.Outcome State Fault Refusal :=
  if s.board.perst then .next (s.withBoard { s.board with perstPark := false })
  else
    let s := s.withBoard { s.board with perst := true, perstPark := false }
    if s.board.island && s.board.mainOk then
      .next (s.packageReset (s.fld (sqPage .power) powerCtrl_retain == 1) 1 0)
    else .next s

/-- PERST_N is released. -/
def State.perstRelease (s : State) : State := (s.withBoard { s.board with perst := false, perstPark := false }).checkReady

/-- PERST_N rises; during EXTEST the release takes effect when the TAP leaves it (R477). -/
def execPerstNRelease (s : State) : Host.Outcome State Fault Refusal :=
  if !s.board.perst then .next s
  else if s.board.extest then .next (s.withBoard { s.board with perstPark := true })
  else .next s.perstRelease

/-- The TAP enters EXTEST, only while PERST_N is asserted, or leaves it. TRST_N, whose level the command carries (DESIGN CHOICE,
log 29), holds the TAP in reset while it is low: the lands act normally, and a TAP in EXTEST leaves it (R476). -/
def execExtest (tap : TapCmd) (s : State) : Host.Outcome State Fault Refusal :=
  let s := s.withBoard { s.board with trstN := tap.trstN }
  if tap.enter && tap.trstN then .next (if s.board.perst then s.withBoard { s.board with extest := true } else s)
  else
    let s := s.withBoard { s.board with extest := false }
    .next (if s.board.perstPark then s.perstRelease else s)

/-- TDO is high-impedance while the TAP shifts nothing (R476), and no command of the table shifts it. -/
def State.tdo (_ : State) : Option Bool := none

/-- The Square die runs. -/
def State.squareOn (s : State) : Bool := s.board.island && s.board.mainOk && !s.board.held && !s.board.squareFail

/-! ### The host link (R401) -/

/-- HOST_LINK of every function. -/
def setLinks (w : Nat) : List Nat → State → State
  | [], s => s
  | f :: fs, s => setLinks w fs (s.setReg ((hostPage f).reg 0x044) (BitVec.ofNat 32 w))

def linkDowns : List Nat → State → State
  | [], s => s
  | f :: fs, s => linkDowns fs (s.event (hostPage f) host_evtRaw_linkDown)

/-- The functions that are enabled. -/
def State.functions (s : State) : List Nat := numsFrom 0 (min s.board.vfs 31 + 1)

/-- A function is enabled and answers over the host link: the link is up and the function in D0 (R393). -/
def State.hostPath (s : State) (f : Nat) : Bool := s.board.link && s.functions.contains f && !(s.pcieFn f).d3hot

/-- Vendor ID, device ID and class code of a function (Table HOST-1). -/
def pciIdentity (f : Nat) : Nat × Nat × Nat := (Config.pciVendor.toNat, if f = 0 then 0x0E80 else 0x0E81, 0x120000)

/-- Memory Space Enable of every function is 0. -/
def clearMse (m : SMap PcieFn) : SMap PcieFn := SMap.mapF (fun _ => {}) (fun _ x => { x with memEnable := false }) m

/-- The link goes down without PERST_N, and Memory Space Enable falls with it (PRESUMED, log 7). DEDUCED (log 29): HOST_LINK reads 0
while it is down. -/
def State.linkLost (s : State) : State :=
  if s.board.link then
    let s := s.withBoard { s.board with link := false, pcie := clearMse s.board.pcie }
    (linkDowns s.functions (setLinks 0 (numsFrom 0 32) s)).alert wmAlert_hostLink
  else s

/-- A failure of the Square die (Table FAULT-3): the Watchman records it, and the host link and the Cue Port are lost. -/
def State.failSquare (s : State) (code info : Nat) (page : Page) : State :=
  let s := (s.ledgerAdd 1 code (some page) 32 info 0 0 0 0).linkLost
  s.withBoard { s.board with squareFail := true }

/-- REFCLK_100M is lost. -/
def execRefclkLoss (s : State) : Host.Outcome State Fault Refusal :=
  .next (if s.squareOn then s.failSquare 0 0 (sqPage .squareCtrl) else s)

def execLinkDown (s : State) : Host.Outcome State Fault Refusal := .next (if s.squareOn then s.linkLost else s)

/-- A rate (1 to 6) and a width that the link trains to; FLIT mode at 64 GT/s and nowhere else (Table HOST-1). -/
def trainsTo (speed width : Nat) (flit : Bool) : Bool :=
  decide (1 ≤ speed) && decide (speed ≤ 6) && [1, 4, 8, 16].contains width && (flit == decide (speed = 6))

/-- A size that BAR2 can take, as a power of two: 1 GiB to 1 TiB. It changes only while Memory Space Enable of the function is 0
(R395). -/
def resizeBar (old new : Nat) (mse : Bool) : Nat := if mse || new < 30 || 40 < new then old else new

/-- What the host writes into the configuration space of a function: sizes that Table HOST-1 names, D0 or D3hot, and Memory Space
Enable. -/
def configFn (c : HostCfg) (f : Nat) (x : PcieFn) : PcieFn :=
  { x with memEnable := true, d3hot := c.d3hot.contains f,
           maxPayload := if [128, 256, 512].contains c.maxPayload then c.maxPayload else x.maxPayload,
           maxReadReq := if [128, 256, 512, 1024, 2048, 4096].contains c.maxReadReq then c.maxReadReq else x.maxReadReq }

/-- The host configures the functions: SR-IOV, the sizes of BAR2, and the space of each function. -/
def State.configure (s : State) (c : HostCfg) : State :=
  let vfs := min c.vfs 31
  let b := s.board
  let vfOn := (numsFrom 1 vfs).any fun f => (s.pcieFn f).memEnable
  s.withBoard { b with link := true, vfs := vfs, bar2 := resizeBar b.bar2 c.bar2 (s.pcieFn 0).memEnable,
                       vfBar2 := resizeBar b.vfBar2 c.vfBar2 vfOn,
                       pcie := (numsFrom 0 (vfs + 1)).foldl (fun m f => SMap.set {} f (configFn c f (SMap.get {} m f)) m) b.pcie }

/-- The link has trained, and the host has configured the functions (R393, R395; DESIGN CHOICE, log 7: the manual gives no
configuration space, so what the host writes there comes with the link). -/
def execHostLinkUp (speed width : Nat) (flit : Bool) (cfg : HostCfg) (s : State) : Host.Outcome State Fault Refusal :=
  if trainsTo speed width flit && s.squareOn && !s.board.perst && !s.board.recovery && s.board.night != 2 then
    let s := s.configure cfg
    .next (setLinks (speed + 8 * width + if flit then 256 else 0) s.functions s)
  else .next s

/-! ### The end of a job -/

/-- The Bells of a job read 0, hold no error and are unallocated (R449, R480, Table BUND-9). -/
def State.freeBells (s : State) (h : Nat) : State :=
  s.withBells (SMap.mapF (fun _ => {}) (fun _ b => if b.owner.map (·.2) = some h then { b with owner := none, value := 0, error := false } else b)
    s.bells)

/-- A job leaves the loader: its work, entries, binding, sessions and Bells (R314, R449). -/
def State.removeJob (s : State) (j : Job) : State :=
  let s := s.unitsReset j.handle none
  let s := (s.freeWhere fun e => e.job == j.handle).releaseBind j.handle
  let s := closeSessions ((s.loader.sessions.filter fun x => x.job == j.handle).map (·.id)) s
  let s := (s.freeBells j.handle).withRestarts (s.restarts.filter (· != j.handle))
  let s := (s.stepsOf j.handle).foldl State.dropStep s
  s.withLoader { s.loader with jobs := s.loader.jobs.filter (fun x => x.handle != j.handle),
                               gens := s.loader.gens.filter (fun p => p.1 != j.handle) }

def removeJobs : List Job → State → State
  | [], s => s
  | j :: js, s => removeJobs js (s.removeJob j)

/-! ### FUNCTION reset (R447, R449) -/

/-- The pages of a function: HOST and its rings. -/
def ofFunction (f : Nat) (p : Page) : Bool := (p.type == .host || p.type == .ring) && p.i == f

/-- F of a function: its jobs end, its rings, DMA channels, sessions, Field map and Cue groups are cleared. -/
def State.functionReset (s : State) (f : Nat) : State :=
  let s := removeJobs (s.loader.jobs.filter fun j => j.f == f) s
  let s := closeSessions ((s.loader.sessions.filter fun x => x.f == f).map (·.id)) s
  let s := s.dropNodesOf f
  let s := s.withLoader { s.loader with held := s.loader.held.filter fun x => x.f != f }
  let s := (s.clearRegs clrF (ofFunction f)).clearGuards (ofFunction f)
  let s := (s.withDmaLost (s.dmaLost.filter fun k => k / 4 != f)).withRingLost (s.ringLost.filter fun k => k / 64 != f)
  let s := (s.withDma (SMap.keep (fun k => k / 4 != f) s.dma)).withFieldReqs (SMap.keep (· != f) s.fieldReqs)
  let s := (s.withFields (SMap.keep (fun k => k / 2 ^ 27 != f) s.fields)).cueFunctionReset f
  let s := (s.withBoard { s.board with pcie := SMap.set {} f {} s.board.pcie }).withOut
    { s.out with held := s.out.held.filter fun x => x.1 != f }
  s.ledgerAdd 7 70 none 32 0 0 f 0 0

/-- FLR of a function, a request over the host link. -/
def execFunctionLevelReset (f : Nat) (s : State) : Host.Outcome State Fault Refusal :=
  .next (if s.squareOn && s.board.link && s.functions.contains f then s.functionReset f else s)

end Sys2Proof.Machine
end

