-- ==== Sys2Proof/Machine/Load.lean ====
section
/-! DEFINITION. Loading a bundle: the image and its signature (R301, R302), the checks of Table BUND-3 on what its
sections declare, and the cut into pieces (R306). -/

namespace Sys2Proof.Machine

/-! ### The image (R301, R302) -/

/-- A directory entry. -/
structure ImageSection where
  id : Nat
  off : Nat
  len : Nat
  crc : Nat
  deriving DecidableEq, Repr

/-- Directory entry i, with bytes 2 and 3. -/
def imageEntry (img : List Byte) (i : Nat) : ImageSection × Nat :=
  let o := 16 + 16 * i
  (⟨leAt img o 2, leAt img (o + 4) 4, leAt img (o + 8) 4, leAt img (o + 12) 4⟩, leAt img (o + 2) 2)

/-- Sections lie in the image one behind another, with IDs of Table BUND-1 that rise. -/
def sectionsOk (img : List Byte) : Nat → Nat → List ImageSection → Bool
  | _, _, [] => true
  | id, at_, x :: xs => decide (id < x.id) && (decide (x.id ≤ 9) || x.id == 0xFF) && decide (at_ ≤ x.off)
      && decide (x.off + x.len ≤ img.length) && (crc32c ((img.drop x.off).take x.len)).toNat == x.crc
      && sectionsOk img x.id (x.off + x.len) xs

/-- The sections of an image whose header, directory, presence, order and CRCs are right. -/
def imageSections (img : List Byte) : Option (List ImageSection) :=
  let n := leAt img 6 2
  let es := (numsFrom 0 n).map (imageEntry img)
  let xs := es.map (·.1)
  let head := (img.take 4).map BitVec.toNat == [0x46, 0x52, 0x53, 0x4C] && leAt img 4 2 == 1 && leAt img 8 4 == img.length
    && zeroAt img 12 4 && decide (16 + 16 * n ≤ img.length)
  if head && (es.all fun e => e.2 == 0) && ([1, 2, 3, 4, 5, 0xFF].all fun i => xs.any fun x => x.id == i)
    && sectionsOk img 0 (16 + 16 * n) xs
  then some xs else none

/-- The hash of an enabled slot of LOADER_KEY (Table BUND-14). -/
def State.loaderKey (s : State) (k : Nat) : Option (List Byte) :=
  let w (i : Nat) : Word := s.reg ((sqPage .loader).reg (0xC00 + 64 * k + 4 * i))
  if (w 12).getLsbD 0 then some ((numsFrom 0 12).map fun i => leBytes 4 (w i).toNat).flatten else none

/-- What a signature section covers, verified against some keys: the SHA-384 digest of the bytes before it. -/
def signedDigest (keyOk : List Byte → Bool) (img : List Byte) (off : Nat) : Option (List Byte) :=
  let key := (img.drop off).take 97
  let sig := (img.drop (off + 97)).take 96
  let digest := sha384 (img.take off)
  if keyOk (sha384 key) && ecdsaOk key digest sig then some digest else none

/-- The section IDs and the bundle_id of an image that passes R301 and R302. -/
def State.imageOk (s : State) (img : List Byte) : Option (List Nat × Nat) :=
  match imageSections img with
  | some xs =>
    match xs.find? fun x => x.id == 0xFF with
    | some x =>
      if x.len = 193 then
        (signedDigest (fun h => (numsFrom 0 4).any fun k => s.loaderKey k == some h) img x.off).map fun d =>
          (xs.map (·.id), leAt d 0 4)
      else none
    | none => none
  | none => none

/-! ### Findings (R304) -/

/-- A failed check: code, kernel index and tensor ID, 0xFFFF where one does not apply. -/
abbrev Finding := Nat × Nat × Nat

def need (ok : Bool) (code k t : Nat) : List Finding := if ok then [] else [(code, k, t)]

/-- The finding to report: lowest code, then kernel, then tensor. -/
def findingLess (a b : Finding) : Bool :=
  decide (a.1 < b.1) || (a.1 == b.1 && (decide (a.2.1 < b.2.1) || (a.2.1 == b.2.1 && decide (a.2.2 < b.2.2))))

def lowestFinding : List Finding → Option Finding
  | [] => none
  | x :: xs => match lowestFinding xs with
    | some y => if findingLess y x then some y else some x
    | none => some x

def findingDetail (x : Finding) : Nat := x.2.1 + x.2.2 * 65536

/-! ### Checks of one tensor -/

/-- The stored tensor behind an entry (R222). -/
def storedOf (ts : List TensorDecl) (t : TensorDecl) : TensorDecl :=
  match t.viewOf with
  | some u => (findTensor ts u).getD t
  | none => t

/-- A tensor that lies in HBM. -/
def inHbm (ts : List TensorDecl) (t : TensorDecl) : Bool :=
  match (storedOf ts t).loc with
  | .hbm _ _ | .bound | .kv _ _ _ _ _ => true
  | _ => false

def winnowPairs (v : Winnow) (f : Fmt) : Bool :=
  match v, f with
  | .w12, .bf16 | .w12, .fp16 | .w10, .bf16 | .w10, .fp16 | .w6, .e4m3 | .w6, .e5m2 => true
  | _, _ => false

/-- What the diagonal and grouped maps ask of a stationary tensor (R161, R162). -/
def structureOk (t : TensorDecl) : Bool :=
  let K := tileW t.fmt
  match t.shape with
  | .grouped g cin => decide (0 < g) && K % g == 0 && cin % g == 0 && t.rows == cin
  | .diagonal taps chans total => decide (0 < taps) && chans == min 128 (K / taps) && decide (0 < chans) && decide (0 < total)
  | _ => true

/-- The head map of a tensor: D of 64 or 128 within the class's K-depth, and κ = 128 ÷ hpg (R174). -/
def headMapOk (t : TensorDecl) : Bool :=
  match t.shape with
  | .headMap kappa d => (d == 64 || d == 128) && decide (d ≤ tileW t.fmt) && kappa == 128 * d / tileW t.fmt
  | _ => true

/-- The geometry of a view within Table CONV-2 for its input, at the declared size and at the smallest size that the shape
ranges allow: the numerator of R149 rises with the size. -/
def geomFits (g : Geom) (u : TensorDecl) : Bool :=
  let fits (f h w : Nat) : Bool := decide (1 ≤ f) && decide (1 ≤ h) && decide (1 ≤ w)
    && (g.x.outSize w).isSome && (g.y.outSize h).isSome && (g.t.outSize f).isSome
  let least := u.least.getD (u.frames, u.lines, u.width)
  fits u.frames u.lines u.width && fits least.1 least.2.1 least.2.2
    && decide (u.width ≤ 16384) && decide (u.lines ≤ 16384) && decide (u.frames ≤ 65535)

/-- pad_value converts into the streaming format without saturating or losing a NaN (R156). -/
def padOk (g : Geom) (f : Fmt) : Bool :=
  g.padMode != 1 || (if f.isMx then (mxBlock f (List.replicate 32 (f32Val g.padValue))).2.all fun c => !c.sat && !c.lost
    else let c := convertElem f .sat .rne (f32Val g.padValue)
         !c.sat && !c.lost)

/-- A diagonal or grouped stationary tensor has the taps of a record that some tap view of the kernel streams under
(R161, R162). -/
def structureUsed (geoms : List (List Byte)) (ts : List TensorDecl) (t : TensorDecl) : Bool :=
  let used (ok : Geom → Bool) : Bool := ts.any fun v => match v.loc with
    | .tapView _ geom _ => ok (parseGeom (geoms.getD geom []))
    | _ => false
  match t.shape with
  | .diagonal taps _ total => used fun g => g.map == 1 && g.tapsM1 + 1 == taps && g.taps == total
  | .grouped n _ => used fun g => g.map == 2 && g.groupIn == n
  | _ => true

/-- m outputs from n inputs keep the ratio of R166. -/
def ratioOk (n m : Nat) : Bool := decide (0 < n) && decide (n ≤ 16 * m) && decide (m ≤ 16 * n)

/-- The base of a tensor of 16- or 32-bit elements is a multiple of the element (R483). -/
def baseAligned (t : TensorDecl) (va : Nat) : Bool := t.fmt.bits < 16 || va % (t.fmt.bits / 8) == 0

/-- The checks that a tensor table entry answers to. `geoms` are the records that the bundle holds, `sieveOnly` the tensors
that Sieve tables name and no Loom streams. -/
def tensorChecks (geoms : List (List Byte)) (sieveOnly : List Nat) (ts : List TensorDecl) (ki : Nat) (t : TensorDecl) : List Finding :=
  let st := storedOf ts t
  let view := t.viewOf.isSome
  -- DESIGN CHOICE (log 34): an entry with ID 0xFFFF, which R60 never assigns, is refused as one whose count is exceeded.
  need (decide (t.rows * t.cols < 2 ^ 48) && decide (t.id < 0xFFFF)) 0x03 ki t.id
  ++ need (!t.int32 || t.fmt == .fp32) 0x06 ki t.id
  ++ (match t.winnow with
    | some v => need (winnowPairs v t.fmt) 0x06 ki t.id
    | none => [])
  ++ need (!view || (!st.fmt.isMx && (st.fmt.bits != 4 || st.rows % 2 == 0) && (st.fmt.bits != 6 || st.rows % 4 == 0))) 0x06 ki t.id
  ++ need (structureOk t && structureUsed geoms ts t) 0x02 ki t.id
  ++ need (headMapOk t) 0x03 ki t.id
  ++ (match t.loc with
    | .hbm _ _ => need (view || (hbmPlaces t).all fun a => baseAligned t a.1) 0x02 ki t.id
    | .tapView source geom _ =>
      match geoms[geom]?, findTensor ts source with
      | some r, some u =>
        let g := parseGeom r
        need (geomFits g u) 0x03 ki t.id
        ++ need (sieveOnly.contains t.id || padOk g t.fmt) 0x06 ki t.id
        ++ (if g.map = 1 then
            let P := g.tapsM1 + 1
            let G := min 128 (tileW t.fmt / P)
            need (decide (0 < G) && (!t.fmt.isMx || G % 32 == 0)) 0x02 ki t.id
          else if g.map = 2 then need (decide (0 < g.groupIn) && tileW t.fmt % g.groupIn == 0 && u.cols % g.groupIn == 0) 0x02 ki t.id
          else [])
      | none, _ => [(0x03, ki, t.id)]
      | _, none => []
    | .resampled source geom part _ =>
      need geoms[geom]?.isSome 0x03 ki t.id ++
      match findTensor ts source with
      | some u => need (part != 0 || (ratioOk u.frames t.frames && ratioOk u.lines t.lines && ratioOk u.width t.width)) 0x03 ki t.id
      | none => []
    | .firefly e => need (fireflyEntryOk e) 0x03 ki t.id
    | _ => [])

/-! ### Checks of the unit programs -/

def slotTensor (ts : List TensorDecl) (slots : List (Nat × SlotDecl)) (n : Nat) : Option TensorDecl :=
  ((slots.find? fun p => p.1 == n).map (·.2.tensor)).bind (findTensor ts)

/-- A Loom operand class for both formats of an instruction (R39). -/
def sameClass (a b : Nat) : Bool :=
  match (Fmt.ofCode a).bind opClass, (Fmt.ofCode b).bind opClass with
  | some x, some y => x == y
  | _, _ => false

/-- The output tiles that receive TUNED passes of more than 128 rows on a Loom position (R103), as the slot (0 in PAIR)
and the number of the output started there. `starts` counts them by slot, with the rows that the newest one has started: a
start on other rows of the slot goes on with the same tile. -/
def longTuned (pair : Bool) : SMap (Nat × List (Nat × Nat)) → List (BitVec 256) → List (Nat × Nat)
  | _, [] => []
  | starts, w :: ws =>
    let i := loomInstr w
    let slot := if pair then 0 else i.accSlot
    let rows := (i.accRow0, i.rows)
    let starts := if i.opcode = 1 && i.accInit ≠ 0 then
        SMap.upd (0, []) slot (fun x =>
          if pair || x.2.isEmpty || x.2.any (fun r => decide (r.1 < rows.1 + rows.2) && decide (rows.1 < r.1 + r.2)) then (x.1 + 1, [rows])
          else (x.1, rows :: x.2)) starts
      else starts
    let rest := longTuned pair starts ws
    if i.opcode = 1 && i.tuned && decide (128 < i.rows) then (slot, (SMap.get (0, []) starts slot).1) :: rest else rest

/-- The words of each Loom position of a plan, over its pieces. -/
def positionWords (p : Plan) : List (Bool × List (BitVec 256)) :=
  let all := (p.pieces.map (·.looms)).flatten
  ((all.map fun x => (loomKey x.die x.hamlet x.loom, x.pair)).eraseDups).map fun k =>
    (k.2, ((all.filter fun x => loomKey x.die x.hamlet x.loom == k.1).map (·.words)).flatten)

/-- Live output tiles of a position at the largest value of each declared range (R111, R112). -/
def liveAt (ranges : List (Option (Nat × Nat))) (p : LoomProg) : Nat :=
  p.liveTiles + natSum (p.liveBy.map fun x => (((ranges.getD x.1 none).map (·.2)).getD 0) * x.2.1 / x.2.2)

/-- A slot shape of R107. -/
def slotShapeOk (p : LoomProg) : Bool :=
  p.pair || ([16, 32, 64, 128, 256].contains p.slotRows && [32, 64, 128].contains p.slotCols)


/-- A stationary or streaming operand of a Loom lies in no HBM, is no Firefly view and holds no INT32 words (R274, R294, R484). -/
def loomOperand (ts : List TensorDecl) (ki : Nat) (t : TensorDecl) : List Finding :=
  need (!inHbm ts t) 0x02 ki t.id ++ need (!isFirefly t && !t.int32) 0x06 ki t.id

/-- Checks of a Loom program (R39, R100, R103, R107, R109, R111, R274, R294, R484). `taken` are the tensors whose tiles a
WRITE of the kernel takes (R485): a drain in a buffer may bear the ID of one of them (DEDUCED, log 34). Only a drain names an
INT32 tensor (R274). -/
def loomChecks (ts : List TensorDecl) (ranges : List (Option (Nat × Nat))) (taken : List Nat) (ki : Nat) (p : LoomProg) : List Finding :=
  let is := p.words.map loomInstr
  need (decide (1 ≤ p.rowsPerReplay) && decide (p.rowsPerReplay ≤ 64)) 0x03 ki 0xFFFF
  ++ need (is.all fun i => i.opcode != 1 || sameClass i.statFmt i.streamFmt) 0x06 ki 0xFFFF
  ++ need (slotShapeOk p) 0x04 ki 0xFFFF
  ++ need (!p.pair || is.all fun i => i.opcode != 1 || i.drainTarget != 0) 0x04 ki 0xFFFF
  ++ need (decide (liveAt ranges p ≤ if p.pair then 2 else flowSlots p.slotRows p.slotCols)) 0x04 ki 0xFFFF
  ++ ((p.streams.map (·.2.1) ++ p.stats.map (·.2.1)).map fun id => match findTensor ts id with
    | some t => loomOperand ts ki t
    | none => []).flatten
  ++ ((p.drains.map fun d => (d.tensor :: d.heads).map fun id => (d, id)).flatten.map fun (d, id) => match findTensor ts id with
    | some t => need (!d.hbm && (!inHbm ts t || taken.contains t.id)) 0x02 ki t.id ++ need (!isFirefly t && !t.int32) 0x06 ki t.id
    | none => []).flatten

/-- How many sources an element-wise opcode has (Table SIEVE-5). -/
def sieveArity (op : Nat) : Nat :=
  if op = 1 || op = 8 then 3 else if 2 ≤ op && op ≤ 9 then 2 else 1

def uniformView (t : TensorDecl) : Bool :=
  match t.loc with
  | .firefly e => (fireflyView e).dist == 0
  | _ => false

/-- A source whose shape is ruled by R481, and not by rules of its own. -/
def plainSource (t : TensorDecl) : Bool :=
  match t.loc with
  | .tapView _ _ _ | .firefly _ | .keyMask _ => false
  | _ => true

/-- A source of an element-wise operation fits dst (R481). -/
def spreads (t dst : TensorDecl) : Bool :=
  (t.rows == dst.rows && t.cols == dst.cols) || (t.rows == 1 && t.cols == dst.cols) || (t.rows == dst.rows && t.cols == 1)

/-- The tensors that drains of a Loom program fill with INT32 words: those of a program with passes of an integer class. -/
def intDrained (p : LoomProg) : List Nat :=
  if (p.words.map loomInstr).any fun i => i.opcode == 1 && i.isInt then p.drains.map (·.tensor) else []

/-- A reduction tensor, by the gradient that its entry names; an integer tensor without one is an INT32 partial (R274, R486). -/
def isReduction (t : TensorDecl) : Bool := t.int32 && t.gradient.isSome

/-- The mask tensor of a softmax operation (R129). -/
def maskOk (m dst : TensorDecl) : Bool := m.fmt == .uint8 && m.rows == dst.rows && m.cols == ceilDiv dst.cols 8

/-- Whether an operation reads its source slot a, b or c, numbered from 0: a softmax reads a mask with mask_mode 1 alone, and RMS
normalisation no β (R129, R136). -/
def sieveReads (o : SieveOp) (i : Nat) : Bool :=
  if o.opcode < 0x28 then decide (i < sieveArity o.opcode)
  else if o.opcode < 0x2A then i == 0 || (i == 2 && o.maskMode == 1)
  else if o.opcode = 0x2B then decide (i < 2)
  else decide (i < 3)

/-- Checks of one Sieve operation (R28, R117, R128, R129, R137, R139, R274, R294, R481). `drained` are the tensors that INT32 drains
fill. -/
def sieveOpChecks (ts : List TensorDecl) (drained : List Nat) (ki : Nat) (p : SieveProg) (w : BitVec 64) : List Finding :=
  let o := sieveOp w
  if o.opcode = 0 || 0x3C ≤ o.opcode || !sieveOpcodes.contains o.opcode then []
  else
    let src (n : Nat) : Option TensorDecl := slotTensor ts p.slots n
    let gumbel := if o.opcode = 0x19 then need (((src o.srcA).map uniformView).getD false) 0x06 ki 0xFFFF else []
    match slotTensor ts p.slots o.dst with
    | none => need (Fmt.ofCode o.outFmt).isSome 0x06 ki 0xFFFF ++ gumbel
    | some t =>
      let reads := [o.srcA, o.srcB, o.srcC].zipIdx.filter fun i => sieveReads o i.2
      let srcs := reads.filterMap fun i => src i.1
      let reduces := [0x21, 0x22, 0x23].contains o.opcode
      let norm := decide (0x2A ≤ o.opcode)
      let smax := o.opcode == 0x28 || o.opcode == 0x29
      let shapeOf (x : TensorDecl) (ok : Bool) : List Finding := need (ok || !plainSource x) 0x02 ki x.id
      need (o.outFmt == t.fmt.code) 0x06 ki t.id
      ++ need (!isFirefly t) 0x06 ki t.id
      ++ gumbel
      ++ (srcs.map fun x => match x.loc with
        | .firefly e => match findTensor ts (fireflyView e).refTensor with
          | some r => need (r.rows == t.rows && r.cols == t.cols) 0x02 ki x.id
          | none => [(0x02, ki, x.id)]
        | _ => []).flatten
      ++ (match src o.srcA with
        | some a => (if reduces then need (t.rows == a.rows && t.cols == 1) 0x02 ki t.id else [])
            ++ if o.scope = 0 then [] else shapeOf a (a.rows == t.rows && (reduces || a.cols == t.cols))
        | none => [])
      ++ (if norm && o.scope != 0 then ((((reads.filter fun i => i.2 != 0).filterMap fun i => src i.1)).map fun x =>
          shapeOf x (x.rows == 1 && x.cols == t.cols)).flatten
        else (reads.map fun i => match src i.1 with
          | some x => if (smax && 0 < i.2) || (o.scope != 0 && i.2 = 0) then [] else shapeOf x (spreads x t)
          | none => []).flatten)
      ++ (if smax && o.maskMode = 1 then
          match src o.srcC with
          | some m => need (maskOk m t) 0x02 ki m.id
          | none => []
        else [])
      ++ (if o.opcode = 0x2C then
          match src o.srcA with
          | some a => need (a.cols % ((o.groupCols + 1) * 8) == 0) 0x02 ki a.id
          | none => []
        else [])
      ++ need (!t.int32 || (o.opcode == 0x20 && srcs.all fun x => drained.contains x.id)
          || (o.opcode == 0x02 && srcs.length == 2 && srcs.all fun x => x.int32 || drained.contains x.id)) 0x06 ki t.id
      ++ need (!isReduction t) 0x06 ki t.id
      ++ (srcs.map fun x => need (!x.int32 || (o.opcode == 0x02 && t.int32 && !isReduction x)) 0x06 ki x.id).flatten

/-- The chunks that the window of a softmax touches (R177, R180). -/
def windowChunks (p : SieveProg) (slot cols : Nat) : Nat :=
  match ((p.slots.find? fun x => x.1 == slot).bind fun x => x.2.window) with
  | some w => if w.2 = 0 then 0 else (w.1 + w.2 - 1) / 128 + 1 - w.1 / 128
  | none => ceilDiv cols 128

/-- Bytes that the softmax operations of a Sieve reserve for z (R131, R180). -/
def softmaxBytes (ts : List TensorDecl) (rows : Nat) (p : SieveProg) : Nat :=
  natSum (p.words.map fun w =>
    let o := sieveOp w
    if o.opcode = 0x28 || o.opcode = 0x29 then
      match slotTensor ts p.slots o.srcA with
      | some a => rows * windowChunks p o.srcA a.cols * 512
      | none => 0
    else 0)

/-- Operands of a Sieve or the Gate lie where the operand table says, in a buffer (R142, R484); the table gives a place in a
buffer also to a destination whose tiles a WRITE takes into HBM (R485; DEDUCED, log 34). `sources` are the slots that
operations read. -/
def slotPlaceChecks (ts : List TensorDecl) (taken sources : List Nat) (ki : Nat) (slots : List (Nat × SlotDecl)) : List Finding :=
  (slots.map fun x => match findTensor ts x.2.tensor with
    | some t => need (!x.2.hbm && (!inHbm ts t || (taken.contains t.id && !sources.contains x.1))) 0x02 ki t.id
    | none => []).flatten

/-- The slots that a Sieve operation reads. -/
def sieveSources (w : BitVec 64) : List Nat :=
  let o := sieveOp w
  if o.opcode = 0 || 0x3C ≤ o.opcode then [] else [o.srcA, o.srcB, o.srcC].take (if o.opcode < 0x28 then sieveArity o.opcode else 3)

def sieveChecks (ts : List TensorDecl) (taken drained : List Nat) (ki : Nat) (p : SieveProg) : List Finding :=
  slotPlaceChecks ts taken (p.words.map sieveSources).flatten ki p.slots ++ (p.words.map (sieveOpChecks ts drained ki p)).flatten

/-- Formats of the Gate (R40). -/
def gateFmts : List Fmt := [.bf16, .fp16, .uint8, .uint10, .uint12]

/-- Checks of one Gate operation (R40, R149, R169, R274, R294, R301). -/
def gateOpChecks (geoms : List (List Byte)) (ts : List TensorDecl) (ki : Nat) (p : GateProg) (w : BitVec 64) : List Finding :=
  let o := gateOp w
  if o.opcode = 0 || 3 < o.opcode then []
  else
    let named := ([o.src, o.dst] ++ if o.opcode = 2 then [o.wgt, o.bias] else []).filterMap (slotTensor ts p.slots)
    let same (n code : Nat) : List Finding := match slotTensor ts p.slots n with
      | some t => need (t.fmt.code == code) 0x06 ki t.id
      | none => []
    (named.map fun t => need (gateFmts.contains t.fmt && !t.int32 && !isFirefly t) 0x06 ki t.id).flatten
    ++ same o.src o.inFmt ++ same o.dst o.outFmt
    ++ need (((Fmt.ofCode o.inFmt).map gateFmts.contains).getD false && ((Fmt.ofCode o.outFmt).map gateFmts.contains).getD false) 0x06 ki 0xFFFF
    ++ (if o.opcode = 2 then
        (([o.wgt, o.bias].filterMap (slotTensor ts p.slots)).map fun t => need (t.fmt == .bf16 || t.fmt == .fp16) 0x06 ki t.id).flatten
        ++ (match geoms[o.geom]? with
          | none => [(0x03, ki, 0xFFFF)]
          | some r =>
            let g := parseGeom r
            match slotTensor ts p.slots o.src, slotTensor ts p.slots o.dst with
            | some u, some d =>
              need (g.map == 0 && decide (1 ≤ u.cols) && decide (u.cols ≤ 256) && decide (1 ≤ d.cols) && decide (d.cols ≤ 128)
                && decide (g.taps * u.cols ≤ 8192)) 0x03 ki d.id
              ++ need (geomFits g u) 0x03 ki u.id
            | _, _ => [])
      else [])

/-- The slots that a Gate operation reads. -/
def gateSources (w : BitVec 64) : List Nat :=
  let o := gateOp w
  if o.opcode = 0 || 3 < o.opcode then [] else o.src :: if o.opcode = 2 then [o.wgt, o.bias] else []

def gateChecks (geoms : List (List Byte)) (ts : List TensorDecl) (taken : List Nat) (ki : Nat) (p : GateProg) : List Finding :=
  slotPlaceChecks ts taken (p.words.map gateSources).flatten ki p.slots ++ (p.words.map (gateOpChecks geoms ts ki p)).flatten

/-! ### Granary programs -/

/-- The tensors a command reads and writes in HBM, as (slot, written) (Table GRAN-3). -/
def granAccess (p : GranProg) (c : GranCmd) : List (Nat × Bool) :=
  let v := leAt (granParam p c.param) 36 1
  let t := leAt (granParam p c.param) 37 1
  (match c.opcode with
    | 0x01 => [(c.slotA, false)]
    | 0x02 => [(c.slotD, true), (c.slotB, true)]
    | 0x03 => [(c.slotA, false), (c.slotD, true)]
    | 0x04 => [(c.slotD, true)]
    | 0x08 | 0x11 | 0x15 => [(c.slotA, false), (c.slotB, false), (c.slotD, true)]
    | 0x10 => [(c.slotA, false), (c.slotD, true)]
    | 0x12 | 0x13 => [(c.slotA, false), (c.slotB, false), (c.slotC, true), (c.slotD, true)]
    | 0x14 => [(c.slotA, false), (c.slotC, false)]
    | 0x18 => [(c.slotA, false), (c.slotB, false), (c.slotB, true), (c.slotC, false), (c.slotC, true), (v, false), (v, true),
        (c.slotD, true), (t, true)]
    | _ => []).filter fun x => x.1 != 0xF

/-- The tensors that a command touches, as (stored tensor, written): its operands, and the companion checksum tensors of RED_ADD's
sources, of a READ's source and of a WRITE's destination (R213, R218, R219). -/
def granUses (ts : List TensorDecl) (p : GranProg) (c : GranCmd) : List (Nat × Bool) :=
  let comp (slot : Nat) (w : Bool) : List (Nat × Bool) := (((granTensor ts p slot).bind (·.companion)).map fun k => (k, w)).toList
  ((granAccess p c).filterMap fun x => (granTensor ts p x.1).map fun t => ((storedOf ts t).id, x.2))
  ++ (match c.opcode with
    | 0x13 => comp c.slotA false ++ comp c.slotB false
    | 0x01 => comp c.slotA false
    | 0x02 => comp c.slotD true
    | _ => [])

/-- The parameter pairs of a bundle's training declarations (R265). -/
def paramPairsOf (ps : List ParamDecl) : List (Nat × Nat) := (ps.map fun p => [p.master, p.m, p.v, p.work, p.trans]).flatten

/-- Both tensors of a parameter pair that an ID belongs to, or the ID itself. -/
def pairIds (ps : List ParamDecl) (id : Nat) : List Nat :=
  match (paramPairsOf ps).find? fun p => p.1 == id || p.2 == id with
  | some p => [p.1, p.2]
  | none => [id]

/-- A tensor that lies at an address of the bundle is covered by the function's map (R253). -/
def State.covered (s : State) (f : Nat) (ts : List TensorDecl) (id : Nat) (write : Bool) : Bool :=
  match findTensor ts id with
  | some t =>
    let st := storedOf ts t
    (hbmPlaces st).all fun a =>
      s.mapped f a.1 (storedBytes st) write && (!st.fmt.isMx || s.mapped f a.2 (st.rows * scaleColsOf st) write)
  | none => true

/-- The companion that a RED command's slot_c must be (R213). -/
def companionOk (ts : List TensorDecl) (p : GranProg) (c : GranCmd) : Bool :=
  let of_ := if c.opcode = 0x14 then c.slotA else c.slotD
  if [0x12, 0x13, 0x14].contains c.opcode then
    match granTensor ts p of_, granTensor ts p c.slotC with
    | some d, some k => d.companion == some k.id
    | _, _ => false
  else true

/-- A command writes Wᵀ as R265 allows: by COPY from W of the same slot, which is the write slot (R283), or as the transposed tensor
of OPT_ADAMW. -/
def transOk (ps : List ParamDecl) (ts : List TensorDecl) (p : GranProg) (c : GranCmd) (slot : Nat) (id : Nat) : Bool :=
  match ps.find? fun x => x.trans.1 == id || x.trans.2 == id with
  | none => true
  | some x =>
    if c.opcode = 0x18 then slot == leAt (granParam p c.param) 37 1
    else c.opcode == 0x03 && match granTensor ts p c.slotA with
      | some a => (storedOf ts a).id == x.work.2
      | none => false

/-- A rectangle of a stored tensor: rows and columns, each from the first to the one past the last. -/
abbrev Rect := (Nat × Nat) × (Nat × Nat)

/-- The region of a command on an operand, as a rectangle of the stored tensor behind it. -/
def cmdRect (c : GranCmd) (t : TensorDecl) : Rect :=
  let rows := (c.row, min (c.row + c.nRows) t.rows)
  let cols := (c.col * tileW t.fmt, min ((c.col + c.nCols) * tileW t.fmt) t.cols)
  if t.viewOf.isSome then (cols, rows) else (rows, cols)

/-- A rectangle of a tensor as one of the stored tensor behind it. -/
def storedRect (t : TensorDecl) (r : Rect) : Rect := if t.viewOf.isSome then (r.2, r.1) else r

/-- The elements lo to hi − 1 of a matrix view, row by row. -/
def runRects (cols lo hi : Nat) : List Rect :=
  if cols = 0 || hi ≤ lo then []
  else (numsFrom (lo / cols) ((hi - 1) / cols + 1 - lo / cols)).map fun r => ((r, r + 1), (lo - r * cols, min cols (hi - r * cols)))

/-- The elements that a RED_OUT writes: the whole buckets that its region meets (R235). -/
def bucketRects (c : GranCmd) (t : TensorDecl) : List Rect :=
  let lo := c.col * tileW t.fmt
  let n := min (c.nCols * tileW t.fmt) (t.cols - lo)
  let bs := ((numsFrom c.row (min c.nRows (t.rows - c.row))).map fun r =>
    if n = 0 then [] else numsFrom ((r * t.cols + lo) / 4096) ((r * t.cols + lo + n - 1) / 4096 + 1 - (r * t.cols + lo) / 4096)).flatten.eraseDups
  (bs.map fun b => runRects t.cols (4096 * b) (min (4096 * b + 4096) (t.rows * t.cols))).flatten

/-- What a command writes of a stored tensor, as rectangles of it: its region of slot_d, the transposed one of a WRITE's slot_b, and
the buckets of a RED_OUT. -/
def writeRects (ts : List TensorDecl) (p : GranProg) (c : GranCmd) (id : Nat) : List Rect :=
  let own (t : TensorDecl) (rs : List Rect) : List Rect := if (storedOf ts t).id = id then rs else []
  match granTensor ts p c.slotD with
  | none => []
  | some d =>
    match c.opcode with
    | 0x03 | 0x04 | 0x08 | 0x18 => own d [cmdRect c d]
    | 0x02 => own d [cmdRect c d] ++ match if c.slotB = 0xF then none else granTensor ts p c.slotB with
      | some b => own b [storedRect b ((storedRect d (cmdRect c d)).2, (storedRect d (cmdRect c d)).1)]
      | none => []
    | 0x15 => own d ((bucketRects c d).map (storedRect d))
    | _ => []

/-- What the commands of a kernel write to the two slots of a tensor: a kernel writes the write slot only (R283). -/
def workRects (ts : List TensorDecl) (cmds : List (GranProg × List (BitVec 128))) (ids : Nat × Nat) : List Rect :=
  (cmds.map fun x => (x.2.map fun w => writeRects ts x.1 (granCmd w) ids.1 ++ writeRects ts x.1 (granCmd w) ids.2).flatten).flatten

/-- What they write to a transposed copy, as rectangles of the tensor whose transpose it is: COPY into it, and OPT_ADAMW. -/
def transRects (ts : List TensorDecl) (cmds : List (GranProg × List (BitVec 128))) (ids : Nat × Nat) : List Rect :=
  ((workRects ts cmds ids).map fun r => (r.2, r.1)) ++ (cmds.map fun x => x.2.filterMap fun w =>
    let c := granCmd w
    match if c.opcode = 0x18 then granTensor ts x.1 (leAt (granParam x.1 c.param) 37 1) else none, granTensor ts x.1 c.slotD with
    | some t, some d => if [ids.1, ids.2].contains (storedOf ts t).id then some (cmdRect c d) else none
    | _, _ => none).flatten

/-- Every element of some rectangles lies in one of others: tested at each corner that the others' edges cut. -/
def transposesAll (ws vs : List Rect) : Bool :=
  ws.all fun w =>
    let cuts (a : Nat × Nat) (xs : List (Nat × Nat)) : List Nat :=
      (a.1 :: (xs.map fun b => [b.1, b.2]).flatten).filter fun e => decide (a.1 ≤ e) && decide (e < a.2)
    (cuts w.1 (vs.map (·.1))).all fun r => (cuts w.2 (vs.map (·.2))).all fun c =>
      vs.any fun v => decide (v.1.1 ≤ r) && decide (r < v.1.2) && decide (v.2.1 ≤ c) && decide (c < v.2.2)

/-- Checks of one Granary command (R213, R219, R220, R223, R253, R265, R294). -/
def State.granCmdChecks (s : State) (f : Nat) (ps : List ParamDecl) (hasTrain : Bool) (ts : List TensorDecl) (ki : Nat) (p : GranProg) (w : BitVec 128) :
    List Finding :=
  let c := granCmd w
  if !granOpcodes.contains c.opcode || 0x3C ≤ c.opcode || c.opcode = 0 then []
  else
    let d := granTensor ts p c.slotD
    let b := granTensor ts p c.slotB
    ((granUses ts p c).map fun x => ((pairIds ps x.1).map fun id => need (s.covered f ts id x.2) 0x01 ki x.1).flatten).flatten
    ++ (((granAccess p c).map fun x => match granTensor ts p x.1 with
      | some t => need (!x.2 || transOk ps ts p c x.1 (storedOf ts t).id) 0x02 ki t.id
      | none => []).flatten)
    ++ ((([c.slotA, c.slotB, c.slotC, c.slotD] ++ (granAccess p c).map (·.1)).filterMap (granTensor ts p)).map fun t => need (!isFirefly t) 0x06 ki t.id).flatten
    ++ (match c.opcode, b, d with
      | 0x02, some x, some y => need (x.rows == y.cols && x.cols == y.rows) 0x02 ki x.id
      | _, _, _ => [])
    ++ need (companionOk ts p c) 0x02 ki 0xFFFF
    ++ need (hasTrain || c.opcode != 0x18) 0x03 ki 0xFFFF
    ++ (match d with
      | some t =>
        need (!c.sr || (t.viewOf.isNone && !t.fmt.isMx && [Fmt.bf16, .fp16, .e4m3, .e5m2, .e3m2, .e2m3, .e2m1].contains t.fmt)) 0x06 ki t.id
        ++ need (!([0x02, 0x03].contains c.opcode) || t.viewOf.isNone || (storedOf ts t).winnow.isNone) 0x06 ki t.id
      | none => [])
    ++ (match c.opcode, b with
      | 0x02, some t => need (t.viewOf.isNone || (storedOf ts t).winnow.isNone) 0x06 ki t.id
      | _, _ => [])

def State.granChecks (s : State) (f : Nat) (ps : List ParamDecl) (hasTrain : Bool) (ts : List TensorDecl) (ki : Nat) (p : GranProg) : List Finding :=
  (p.params.map fun x => need (paramOk x.2) 0x03 ki 0xFFFF).flatten
  ++ ((crcRanges p).map fun x => need (s.mapped f x.1 x.2.1 x.2.2) 0x01 ki 0xFFFF).flatten
  ++ ((commandWords 0 p.entries).map (s.granCmdChecks f ps hasTrain ts ki p)).flatten

/-! ### Plans and kernels -/

/-- The first row of a stationary tile, its rows and its width along N fit the tensor's structure: multiples of 128 rows
(R97), or under the head map of κ keys, one for each head of the group along N (R175). -/
def statCutOk (t : TensorDecl) (c : TileCut) : Bool :=
  let n := match t.shape with
    | .headMap kappa _ => kappa
    | _ => 128
  decide (0 < n) && c.row % n == 0 && c.rows == min n (t.rows - c.row)

/-- Columns along N that a stationary tile fills. -/
def statWidth (t : TensorDecl) (c : TileCut) : Nat :=
  match t.shape with
  | .headMap kappa d => min 128 (kappa * ceilDiv c.cols d)
  | _ => c.rows

/-- Loom operands (R274, R484), stationary cuts (R97, R175), Winnow cuts (R229), and stationary tiles against the slot's
columns (R107). -/
def cutChecks (ts : List TensorDecl) (looms : List LoomProg) (ki : Nat) (c : TileCut) : List Finding :=
  match findTensor ts c.tensor with
  | none => []
  | some t =>
    let K := tileW t.fmt
    (if c.role < 2 then loomOperand ts ki t else [])
    ++ (if c.role = 0 then
      need (statCutOk t c && c.col % K == 0 && c.cols == min K (t.cols - c.col)) 0x02 ki t.id
      ++ need (looms.all fun p => p.pair || loomKey p.die p.hamlet p.loom != c.pos || decide (statWidth t c ≤ p.slotCols)) 0x04 ki t.id
    else [])
    ++ (if c.role = 2 && t.winnow.isSome then
      need ((c.col + c.cols) % 64 == 0 || c.col + c.cols == t.cols) 0x02 ki t.id else [])

/-- The cuts of a plan's TUNED streaming rows, wherever the passes run (R102). -/
def tunedRows (p : Plan) : List (Nat × Nat × Nat) := ((p.cuts.filter fun c => c.role == 1).map fun c => (c.tensor, c.row, c.rows)).eraseDups

def sameMembers {α : Type} [BEq α] (a b : List α) : Bool := a.all b.contains && b.all a.contains

/-- The WCET of a piece converted at 1.8 GHz is at most 200 µs (R306). -/
def wcetOk (w : Nat × Nat) : Bool := decide (cyclesNs 1800 w.1 + w.2 ≤ 200000)

/-- A box contains every declared shape; a parameter with no range is 0 (R305, R316). -/
def boxCovers (box : List (Nat × Nat)) (ranges : List (Option (Nat × Nat))) : Bool :=
  (box.zip ranges).all fun x =>
    let r := x.2.getD (0, 0)
    decide (x.1.1 ≤ r.1) && decide (r.2 ≤ x.1.2)

/-- The declared ranges of p0 to p7 and gen. -/
def shapeRanges (b : BundleDecl) : List (Option (Nat × Nat)) := (numsFrom 0 8).map (fun i => (b.shapes[i]?).getD none) ++ [b.genRange]

/-- A kernel that writes a working copy writes the same elements of the transposed copy (R265): the commands of each plan by
themselves, and for a tensor that each rank holds for itself those of each logical die. -/
def transposesDone (ts : List TensorDecl) (p : Plan) (w v : Nat × Nat) : Bool :=
  let cmds := ((p.pieces.map (·.grans)).flatten).map fun g => (g, commandWords 0 g.entries)
  let ok (xs : List (GranProg × List (BitVec 128))) : Bool := transposesAll (workRects ts xs w) (transRects ts xs v)
  if [w.1, w.2].all fun k => ((findTensor ts k).map fun t => t.ranks.isEmpty).getD true then ok cmds
  else ((cmds.map fun x => x.1.die).eraseDups).all fun d => ok (cmds.filter fun x => x.1.die == d)

/-- A kernel refers to unit tables (section 0x0007): it declares one, or an operation or a command of its units names a slot, a
constant or a parameter entry. -/
def usesUnitTables (k : KernelDecl) : Bool :=
  let pieces := (k.plans.map (·.pieces)).flatten
  (k.tensors.any isFirefly)
  || ((pieces.map (·.sieves)).flatten.any fun p => !p.slots.isEmpty || !p.consts.isEmpty || p.words.any fun w => !(sieveSources w).isEmpty)
  || (pieces.map (·.grans)).flatten.any fun p => !p.slots.isEmpty || !p.params.isEmpty
      || (commandWords 0 p.entries).any fun w => decide (0 < (granCmd w).opcode) && decide ((granCmd w).opcode < 0x3C)

/-- Checks of a kernel (R102, R131, R160, R305, R306, Table BUND-2). DESIGN CHOICE (log 34): the pieces are judged for the part's
own grade (R306), so a bundle whose entries pass 200 µs on another grade only is taken here, although R3 has it load on every
grade or on none. -/
def State.kernelChecks (s : State) (f : Nat) (b : BundleDecl) (geoms : List (List Byte)) (ki : Nat) (k : KernelDecl) : List Finding :=
  let ts := k.tensors
  let pieces := (k.plans.map (·.pieces)).flatten
  let looms := (pieces.map (·.looms)).flatten
  let sieves := (pieces.map (·.sieves)).flatten
  let drained := (looms.map intDrained).flatten
  let streamed := ((looms.map (·.streams)).flatten).map (·.2.1) ++ (((k.plans.map (·.cuts)).flatten).filter (·.role == 1)).map (·.tensor)
  let sieveOnly := (((sieves.map (·.slots)).flatten).map (·.2.tensor)).filter fun id => !streamed.contains id
  let ps := (b.train.map (·.params)).getD []
  let softmax := natMax (pieces.map fun p => natMax (p.sieves.map (softmaxBytes ts k.softmaxRows)))
  let cmds := ((pieces.map (·.grans)).flatten).map fun p => (p, commandWords 0 p.entries)
  let taken := (cmds.map fun x => (x.2.filter fun w => (granCmd w).opcode == 0x02).filterMap fun w =>
    (x.1.slots.find? fun a => a.1 == (granCmd w).slotD).map (·.2)).flatten
  need (decide (ts.length ≤ 65535) && decide (1 ≤ k.plans.length) && decide (k.plans.length ≤ 16) && decide (k.exactHeads ≤ 8)) 0x03 ki 0xFFFF
  ++ need (k.plans.all fun p => decide (1 ≤ p.minLooms) && decide (p.minLooms ≤ 8)) 0x03 ki 0xFFFF
  ++ need (match k.plans.getLast? with
    | some p => p.minLooms == 1 && boxCovers p.box (shapeRanges b)
    | none => false) 0x03 ki 0xFFFF
  ++ need (decide (k.hamletBytes + k.readSet + softmax ≤ 4194304) && decide (k.commonsBytes ≤ 201326592)
      && decide (k.loomBytes ≤ 524288)) 0x01 ki 0xFFFF
  ++ need (k.plans.all fun p => sameMembers (tunedRows p) (tunedRows (k.plans.headD p))) 0x04 ki 0xFFFF
  ++ need (pieces.all fun p => wcetOk (s.pieceWcet p)) 0x07 ki 0xFFFF
  ++ (ts.map (tensorChecks geoms sieveOnly ts ki)).flatten
  ++ (ts.map fun t => need (s.covered f ts t.id false || s.covered f ts t.id true) 0x01 ki t.id).flatten
  ++ (k.plans.map fun p => (p.cuts.map (cutChecks ts ((p.pieces.map (·.looms)).flatten) ki)).flatten).flatten
  ++ (looms.map (loomChecks ts (shapeRanges b) taken ki)).flatten
  ++ need (k.plans.all fun p => (positionWords p).all fun x => decide ((longTuned x.1 [] x.2).eraseDups.length ≤ 1)) 0x04 ki 0xFFFF
  ++ (sieves.map (sieveChecks ts taken drained ki)).flatten
  ++ ((pieces.map fun p => (p.gates.map (gateChecks geoms ts taken ki)).flatten).flatten)
  ++ ((pieces.map fun p => (p.grans.map (s.granChecks f ps b.train.isSome ts ki)).flatten).flatten)
  ++ (ps.map fun p => need (k.plans.all fun q => transposesDone ts q p.work p.trans) 0x02 ki p.work.1).flatten

/-! ### The bundle -/

/-- The bytes that a tensor takes at addresses of the bundle, as (address, length). -/
def storageOf (t : TensorDecl) : List (Nat × Nat) :=
  ((hbmPlaces t).map fun a => (a.1, storedBytes t) :: if t.fmt.isMx then [(a.2, t.rows * scaleColsOf t)] else []).flatten

def rangesMeet (a b : Nat × Nat) : Bool := decide (a.1 < b.1 + b.2) && decide (b.1 < a.1 + a.2)

/-- The storage of a parameter in both slots. -/
def paramStorage (ts : List TensorDecl) (p : ParamDecl) : List (Nat × Nat) :=
  (((paramPairsOf [p]).map fun x => [x.1, x.2]).flatten.map fun id => ((findTensor ts id).map storageOf).getD []).flatten

/-- No two parameters share storage, and none is the weight of two layers (R267). -/
def untied (ts : List TensorDecl) (d : TrainDecl) : Bool :=
  let st := d.params.map (paramStorage ts)
  let apart := (st.zipIdx).all fun a => (st.zipIdx).all fun b => b.2 ≤ a.2 || a.1.all fun x => b.1.all fun y => !rangesMeet x y
  let ids := d.params.map fun p => (paramPairsOf [p]).map fun x => [x.1, x.2]
  let uses (p : List (List Nat)) : Nat := (d.layers.filter fun l => l.weights.any fun id =>
    (p.flatten).contains (((findTensor ts id).map fun t => (storedOf ts t).id).getD id)).length
  apart && ids.all fun p => decide (uses p ≤ 1)

/-- Checks of a cache tensor (R174, R181, R190, R191). -/
def cacheChecks (c : CacheDecl) : List Finding :=
  need (cacheFmtOk c.fmt) 0x06 0xFFFF c.tensor
  ++ need ((c.headDim == 64 || c.headDim == 128) && decide (c.headDim ≤ tileW c.fmt)) 0x03 0xFFFF c.tensor
  ++ need (match c.ringSlots with
    | some n => decide (1 ≤ n) && decide (n ≤ 65536) && decide (c.winPages + c.aheadPages ≤ n)
    | none => true) 0x03 0xFFFF c.tensor

/-- What two bundles of one prefix domain must share (R197). -/
def sharedShape (b : BundleDecl) : List (Nat × Nat × Nat × Nat) :=
  (b.caches.filter (·.shared)).map fun c => (c.tensor, c.layers, c.headGroups, c.headDim)

/-- The cache tensors of a kernel: declared (R301), entries in the formats of R181 and uncompressed, allow lists within Table
ATTN-6 (R204), and walks that widen into the format that the kernel declares (R203). -/
def kvChecks (b : BundleDecl) (ki : Nat) (k : KernelDecl) : List Finding :=
  (k.tensors.map fun t => match t.loc with
    | .kv _ cache _ _ _ => need (b.caches.any fun c => c.tensor == cache) 0x03 ki t.id
        ++ need (cacheFmtOk t.fmt && t.winnow.isNone) 0x06 ki t.id
    | _ => []).flatten
  ++ (k.caches.map fun u => need (cacheFmtOk u.fmt && u.allow.all fun a => widenOk a u.fmt) 0x06 ki u.cache).flatten
  ++ (((k.plans.map (·.pieces)).flatten.map (·.grans)).flatten.map fun p => (p.walks.map fun w =>
      need ((k.caches.find? fun u => u.cache == w.cache).all fun u => u.fmt == w.declFmt) 0x06 ki w.cache).flatten).flatten

/-- Every check of Table BUND-3 that a LOAD meets. `ids` are the sections present. -/
def State.loadChecks (s : State) (f : Nat) (ids : List Nat) (b : BundleDecl) : List Finding :=
  let has (i : Nat) {α : Type} (xs : List α) : List α := if ids.contains i then xs else []
  let geoms := has 6 b.geoms
  let b := { b with caches := has 8 b.caches, train := if ids.contains 9 then b.train else none }
  let all := (b.kernels.map (·.tensors)).flatten
  need (decide (b.kernels.length ≤ 16384) && decide (b.shapes.length ≤ 8) && decide (b.geoms.length ≤ 32)
    && decide ((all.map (·.id)).eraseDups.length ≤ 65535)) 0x03 0xFFFF 0xFFFF
  ++ need (decide (s.loader.bundles.length < 64)) 0x03 0xFFFF 0xFFFF
  ++ need (geoms.all geomOk) 0x03 0xFFFF 0xFFFF
  ++ (b.codes.map fun x => need (Fmt.ofCode x.1).isSome 0x06 x.2.1 x.2.2).flatten
  ++ (b.caches.map cacheChecks).flatten
  ++ need (s.loader.bundles.all fun x => x.f != f || x.decl.prefixDomain != b.prefixDomain || (sharedShape b).isEmpty
      || (sharedShape x.decl).isEmpty || sameMembers (sharedShape x.decl) (sharedShape b)) 0x06 0xFFFF 0xFFFF
  ++ (match b.train with
    | some d => need (untied all d) 0x05 0xFFFF 0xFFFF
        ++ need (d.records.all (fun a => s.mapped f a 128 false && s.mapped f a 128 true)
          && d.stats.all fun a => [a.1, a.2].all fun x => s.mapped f x (statsBytes d) false && s.mapped f x (statsBytes d) true)
          0x01 0xFFFF 0xFFFF
    | none => [])
  ++ (b.kernels.zipIdx.map fun k => need (ids.contains 7 || !usesUnitTables k.1) 0x03 k.2 0xFFFF
      ++ s.kernelChecks f b geoms k.2 k.1 ++ kvChecks b k.2 k.1).flatten

/-! ### Pieces (R306) -/

/-- Put a unit's program behind that of the same unit in an earlier piece. -/
def joinBy {α : Type} (same : α → α → Bool) (join : α → α → α) (xs : List α) (y : α) : List α :=
  if xs.any (same y) then xs.map fun x => if same y x then join x y else x else xs ++ [y]

/-- Two runs of a kernel as one: the programs of each unit one after the other. -/
def Piece.join (a b : Sys2Proof.Piece) : Sys2Proof.Piece :=
  { wcet := (a.wcet.zip b.wcet).map fun w => (w.1.1 + w.2.1, w.1.2 + w.2.2),
    looms := b.looms.foldl (joinBy sameLoom LoomProg.join) a.looms,
    sieves := b.sieves.foldl (joinBy (fun x y => x.die == y.die && x.hamlet == y.hamlet)
      fun x y => { x with words := x.words ++ y.words, slots := x.slots ++ y.slots, attn := x.attn ++ y.attn }) a.sieves,
    gates := b.gates.foldl (joinBy (fun x y => x.die == y.die)
      fun x y => { x with words := x.words ++ y.words, slots := x.slots ++ y.slots }) a.gates,
    grans := b.grans.foldl (joinBy (fun x y => x.pairDie == y.pairDie && x.die == y.die && x.hamlet == y.hamlet)
      fun x y => { x with entries := x.entries ++ y.entries, slots := x.slots ++ y.slots, params := x.params ++ y.params,
                          remote := x.remote ++ y.remote,
                          walks := x.walks ++ List.map (fun z => { z with at_ := z.at_ + x.entries.length }) y.walks }) a.grans,
    stripes := a.stripes ++ b.stripes, ferry := a.ferry + b.ferry }

/-- The fewest pieces whose WCET is at most 200 µs each, in order: as many runs as fit go into one. -/
def State.mergePieces (s : State) : List Sys2Proof.Piece → List Sys2Proof.Piece
  | [] => []
  | p :: ps =>
    match s.mergePieces ps with
    | [] => [p]
    | q :: qs => if wcetOk (s.pieceWcet (Piece.join p q)) then Piece.join p q :: qs else p :: q :: qs

def State.cutBundle (s : State) (b : BundleDecl) : BundleDecl :=
  { b with kernels := b.kernels.map fun k => { k with plans := k.plans.map fun p => { p with pieces := s.mergePieces p.pieces } } }

/-- The lowest handle from 1 that no entry has. -/
def freshFrom (used : List Nat) : Nat → Nat → Nat
  | 0, n => n
  | k + 1, n => if used.contains n then freshFrom used k (n + 1) else n

def freshHandle (used : List Nat) : Nat := freshFrom used used.length 1

/-- LOAD of an image of `len` bytes at `va`: the new handle, or a refusal's code and detail (R301 to R306). -/
def State.load (s : State) (f va len : Nat) (decl : BundleDecl) : Except (Nat × Nat) (Nat × State) :=
  if !s.mapped f va len false then .error (0x01, 0xFFFFFFFF)
  else
    match s.imageOk (s.vaBytes f va len) with
    | none => .error (0x08, 0)
    | some (ids, bid) =>
      match lowestFinding (s.loadChecks f ids decl) with
      | some x => .error (x.1, findingDetail x)
      | none =>
        let h := freshHandle (s.loader.bundles.map (·.handle))
        .ok (h, s.withLoader { s.loader with bundles := s.loader.bundles ++ [⟨h, f, bid, s.cutBundle decl⟩], loadedOnce := true })

end Sys2Proof.Machine
end

