-- ==== Sys2Proof/Machine/Power.lean ====
section
/-! DEFINITION. Power states, caps and protection (R81, R209, R351, R357, R390, R441, R451 to R456, R465). -/

namespace Sys2Proof.Machine

def powerPage : Page := sqPage .power

/-! ### Effective ACLK (R455) -/

/-- The effective ACLK: frequency times issue duty. -/
def effectiveMhz (mhz duty : Nat) : Nat := mhz * duty / 64

/-- ACLK in steps of 10 MHz from 900 to 1,800; a duty below 64 ÷ 64 at 900 only. -/
def clockOk (mhz duty : Nat) : Bool :=
  decide (900 ≤ mhz) && decide (mhz ≤ 1800) && mhz % 10 == 0 && decide (1 ≤ duty) && decide (duty ≤ 64)
    && (duty == 64 || mhz == 900)

/-- What the power manager derives from a cap, an open value in the range of R455 (log 22). -/
def capTarget (limit cap n : Nat) : Nat × Nat :=
  let v := (Config.capClock limit cap n).toNat
  let mhz := 900 + 10 * (v % 91)
  (mhz, if mhz = 900 then 1 + v / 91 % 64 else 64)

/-- HEARTH_CTRL.window of every Loom page: 2 µs of ACLK cycles (R81). -/
def setWindows (mhz : Nat) : List Nat → State → State
  | [], s => s
  | k :: ks, s => setWindows mhz ks (s.setFld (loomPage (k / 32) (k / 8 % 4) (k % 8)) hearthCtrl_window (2 * mhz))

/-- The clock takes a value: POWER_STATUS, and HEARTH_CTRL.window on every Loom. -/
def State.setClock (s : State) (mhz duty : Nat) : State :=
  setWindows mhz (numsFrom 0 256) ((s.setFld powerPage powerStatus_aclkMhz mhz).setFld powerPage powerStatus_duty duty)

/-- The Almanac is given a lower ACLK: it re-tests with the reason of the limit (R357), and the power manager applies it
afterwards. -/
def State.lowerAclk (s : State) (limit mhz duty : Nat) : State :=
  if effectiveMhz mhz duty < s.aclkMhz then
    let s := s.setFld (sqPage .almanac) almStatus_aclkMhz (effectiveMhz mhz duty)
    let s := s.setFld powerPage powerStatus_limit limit
    let s := s.triggerRetest (if limit = 2 then 3 else 2)
    s.withPower { s.power with capReq := some (limit, mhz, duty) }
  else s

/-- ALM_STATUS.aclk_mhz shows the clock that is in force, and at the full clock nothing limits it. -/
def State.showClock (s : State) : State :=
  let mhz := s.fld powerPage powerStatus_aclkMhz
  let duty := s.fld powerPage powerStatus_duty
  let s := s.setFld (sqPage .almanac) almStatus_aclkMhz (effectiveMhz mhz duty)
  if mhz = 1800 && duty = 64 then s.setFld powerPage powerStatus_limit 0 else s

/-- The power manager raises ACLK, at once, while no lower one waits to be applied. -/
def State.raiseAclk (s : State) (mhz duty : Nat) : State :=
  if s.power.capReq.isNone && decide (s.aclkMhz < effectiveMhz mhz duty) then (s.setClock mhz duty).showClock else s

/-- A lower clock of a limit that was not applied yet is no longer asked for. -/
def State.dropCap (s : State) (limit : Nat) : State :=
  if s.power.capReq.any (·.1 == limit) then (s.withPower { s.power with capReq := none }).showClock else s

/-- A write of a cap: limit 1 POWER_CAP, 2 THERMAL_CAP. A lower cap goes to the Almanac first. A raised one takes effect at once:
what an earlier one asked for is void, and ACLK rises to what the power manager derives (log 22). -/
def State.capWrite (s : State) (limit v : Nat) : State :=
  let fld := if limit = 2 then thermalCap_degc else powerCap_watts
  let old := s.fld powerPage fld
  let s := s.setFld powerPage fld v
  let t := capTarget limit v s.freeCount
  if v < old then (s.withFreeCount (s.freeCount + 1)).lowerAclk limit t.1 t.2
  else if old < v then ((s.withFreeCount (s.freeCount + 1)).dropCap limit).raiseAclk t.1 t.2
  else s

/-- The power manager applies a cap that the Almanac was given. -/
def execCapApply (s : State) : Host.Outcome State Fault Refusal :=
  match s.power.capReq with
  | some (limit, mhz, duty) =>
    let s := (s.withPower { s.power with capReq := none }).setClock mhz duty
    let s := (s.bump powerPage capCount_count).event powerPage power_evtRaw_capped
    .next (if limit = 2 then s.alert wmAlert_thermal else s)
  | none => .next s

/-- What THERMAL_CAP allows a sensor (R470): 10 °C less to those of the stacks, 9 to 24. -/
def State.sensorCap (s : State) (n : Nat) : Nat :=
  let cap := s.fld powerPage thermalCap_degc
  if 9 ≤ n && n ≤ 24 then cap - 10 else cap

/-- A measured value has reached its cap: limit 1 the package power, 2 a temperature. DESIGN CHOICE (log 22): the manual does not
say at which distance from its cap the power manager acts. -/
def State.capReached (s : State) (limit : Nat) : Bool :=
  s.sensed && match limit with
  | 1 => decide (s.fld powerPage powerCap_watts ≤ s.watts)
  | 2 => (numsFrom 1 25).any fun n => decide (s.sensorCap n ≤ s.degc n)
  | _ => false

/-- The measured power or temperature makes the power manager lower ACLK under a cap. -/
def execLimiterAclkChange (limit mhz duty : Nat) (s : State) : Host.Outcome State Fault Refusal :=
  .next (if s.up && clockOk mhz duty && s.capReached limit then s.lowerAclk limit mhz duty else s)

/-- The power manager raises ACLK, at once, where nothing measured has reached its cap. -/
def execLimiterAclkRaise (mhz duty : Nat) (s : State) : Host.Outcome State Fault Refusal :=
  .next (if s.up && clockOk mhz duty && !s.capReached 1 && !s.capReached 2 then s.raiseAclk mhz duty else s)

/-! ### Protection (R456, R465) -/

/-- A trip or droop is captured on the POWER page and handled at once. -/
def State.protect (s : State) (code unit value : Nat) (bit : FieldRow) : State :=
  let info := infoOf [(unit, 0), (value, 8)]
  let s := (s.capture powerPage code info).handleFault ⟨code, powerPage.base, info, none, 0, s.now⟩
  (s.bump powerPage tripCount_count).event powerPage bit

/-- A trip or droop of the Square die is captured on the POWER page, and the die fails (R465). -/
def State.protectSquare (s : State) (code value : Nat) (bit : FieldRow) : State :=
  let info := infoOf [(32, 0), (value, 8)]
  let s := s.capture powerPage code info
  ((s.bump powerPage tripCount_count).event powerPage bit).failSquare code info.toNat powerPage

/-- The die of a sensor's unit: 0 to 7 a die, 16 to 31 a stack. -/
def unitDie (unit : Nat) : Option Nat := if unit < 8 then some unit else if 16 ≤ unit && unit < 32 then some ((unit - 16) / 2) else none

/-- A sensor reaches its trip point: 115 °C, or 105 °C on a stack. DEDUCED (log 22): the trip is the warning of
WM_ALERT.thermal. -/
def execThermalTrip (unit degc : Nat) (s : State) : Host.Outcome State Fault Refusal :=
  let trips := decide ((if 16 ≤ unit && unit < 32 then 105 else 115) ≤ degc)
  if !s.squareOn || !trips then .next s
  else
    let s := s.alert wmAlert_thermal
    match unitDie unit with
    | some d => .next ((s.protect 0x48 unit degc power_evtRaw_trip).fence d 3 0x48 true)
    | none => .next (if unit = 32 then s.protectSquare 0x48 degc power_evtRaw_trip else s)

/-- A rail droops: Croft rails 0 to 63 by die × 8 + k, k below 6; 64 to 67 the Square die's. The island's rails are watched
by its power-on reset. While MAIN_OK is low the board has removed the rail, and MAIN_OK's next rise is that of a power-up (R467,
R468; DESIGN CHOICE, log 29: no command of its own says so). -/
def execSupplyDroop (rail : Nat) (s : State) : Host.Outcome State Fault Refusal :=
  let main := if rail < 64 then decide (rail % 8 < 6) else decide (rail < 68)
  if s.board.island && !s.board.mainOk && main then .next (s.withBoard { s.board with held := false })
  else if !s.squareOn then .next s
  else if rail < 64 && rail % 8 < 6 then
    .next ((s.protect 0x49 (rail / 8) rail power_evtRaw_droop).fence (rail / 8) 4 0x49 true)
  else .next (if 64 ≤ rail && rail < 68 then s.protectSquare 0x49 rail power_evtRaw_droop else s)

/-- POWER_STATUS.limit as it reads: 3 while a trip or droop holds a die. -/
def State.limit (s : State) : Nat := if s.power.tempFence.isEmpty then s.fld powerPage powerStatus_limit else 3

/-! ### DUSK (R452) -/

/-- Every Loom of a die is cold, and the queues of its Hamlets and its Gate are empty. -/
def State.dieIdle (s : State) (d : Nat) : Bool :=
  s.looms.all (fun e => e.1 / 32 != d || (e.2.activity == 0 && e.2.ramp.isNone && e.2.queue.isEmpty))
    && s.sieves.all (fun e => e.1 / 4 != d || e.2.queue.isEmpty) && s.gates.all (fun e => e.1 != d || e.2.queue.isEmpty)
    && s.pairs.all (fun e => e.2.queues.all fun q => q.1 / 4 != d || 32 ≤ q.1 || q.2.isEmpty)

/-- Some entry in one of the states names die d. -/
def State.named (s : State) (d : Nat) (states : List Nat) : Bool :=
  s.alm.any fun x => match x.2 with
    | some e => bitOf e.dies d && states.contains e.state
    | none => false

/-- An idle die enters DUSK. -/
def execDuskEntry (die : Nat) (s : State) : Host.Outcome State Fault Refusal :=
  if s.up && s.fld powerPage powerCtrl_duskEn = 1 && s.dieLive die && s.dieState die = 0 && s.dieIdle die && !s.named die [2, 3] then
    .next (noteStates s (s.withPower { s.power with dusk := die :: s.power.dusk }))
  else .next s

/-! ### Self-refresh (R209) -/

def setRefresh (v : Nat) : List Nat → State → State
  | [], s => s
  | k :: ks, s => setRefresh v ks (s.setFld (stackPage .granary k) granaryStatus_selfRefresh v)

/-- A stack whose die is in TWILIGHT returns to self-refresh after 10 µs without a request. -/
def execSelfRefreshEntry (stack : Nat) (s : State) : Host.Outcome State Fault Refusal :=
  .next (if s.up && stack < 16 && s.inTwilight (stack / 2) && (s.pair (stack / 2)).running.isEmpty then setRefresh 1 [stack] s else s)

/-! ### TWILIGHT (R351, R390, R453) -/

/-- DIE_STATUS. -/
def State.dieStatus (s : State) (busy result : Nat) : State :=
  (s.setFld powerPage dieStatus_busy busy).setFld powerPage dieStatus_result result

/-- TWILIGHT is refused for a die that is fenced or in reserve, or for the last live die. -/
def State.twilightRefused (s : State) (d : Nat) : Bool := s.fenced d || s.isReserve d || s.liveDies == [d]

/-- An Almanac entry in state RESERVED to HELD keeps the die. -/
def State.twilightWaits (s : State) (d : Nat) : Bool := s.named d [1, 2, 3, 4, 5]

/-- A write of DIE_CMD. -/
def State.dieCmd (s : State) (die op : Nat) : State :=
  if s.fld powerPage dieStatus_busy = 1 then s.setFld powerPage dieStatus_overrun 1
  else if op = 0 || op = 3 then s
  else if op = 1 && s.twilightRefused die then s.dieStatus 0 2
  else (s.withPower { s.power with dieReq := some (die, op) }).dieStatus 1 (if op = 1 && s.twilightWaits die then 1 else 0)

/-- A second logical die on a live die makes the Almanac re-test (R352). -/
def State.crowded (s : State) : Bool := (numsFrom 0 8).any fun d => decide (2 ≤ (s.logicalsOf d).length)

/-- A die is power-gated: its logical dies have moved, its ports are DOWN, its stacks in self-refresh. -/
def State.enterTwilight (s : State) (d : Nat) : State :=
  let before := s
  let crowded := s.crowded
  let s := s.evacuate d
  let s := if (!crowded && s.crowded) || s.loader.jobs.any (·.state == .active) then s.triggerRetest 1 else s
  let s := (s.diePortsDown d).clearUnits d
  let s := setRefresh 1 [2 * d, 2 * d + 1] s
  noteStates before (s.withPower { s.power with twilight := d :: s.power.twilight, dusk := s.power.dusk.filter (· != d), dieReq := none })

/-- A TWILIGHT request that nothing holds takes effect. -/
def execTwilight (s : State) : Host.Outcome State Fault Refusal :=
  match s.power.dieReq with
  | some (d, 1) =>
    if !s.up || !s.faults.isEmpty then .next s
    else if s.inTwilight d then .next ((s.withPower { s.power with dieReq := none }).dieStatus 0 0)
    else if s.twilightRefused d then .next ((s.withPower { s.power with dieReq := none }).dieStatus 0 2)
    else if s.twilightWaits d then .next (s.dieStatus 1 1)
    else .next ((s.enterTwilight d).dieStatus 0 0)
  | _ => .next s

/-- A DAYLIGHT request returns its die to service. The path to its stacks changes back, so the Almanac re-tests (R207, R352). -/
def execDaylight (s : State) : Host.Outcome State Fault Refusal :=
  match s.power.dieReq with
  | some (d, 2) =>
    if !s.up then .next s
    else
      let s := (s.withPower { s.power with dieReq := none }).dieStatus 0 0
      if s.inTwilight d then
        let before := s
        let s := s.withPower { s.power with twilight := s.power.twilight.filter (· != d) }
        let s := noteStates before (setRefresh 0 [2 * d, 2 * d + 1] (s.clearDie clrT d))
        .next (if s.loader.jobs.any (·.state == .active) then s.triggerRetest 1 else s)
      else .next s
  | _ => .next s

/-! ### NIGHTWATCH (R330, R341, R351, R401, R454) -/

/-- A DMA descriptor is outstanding. -/
def State.dmaOutstanding (s : State) : Bool :=
  s.dma.any (fun e => !e.2.isEmpty) || (numsFrom 0 32).any fun f => (numsFrom 0 4).any fun c =>
    s.fld (hostPage f) dmaCtrl_enable c == 1 && s.fld (hostPage f) dmaHead_head c != s.fld (hostPage f) dmaTail_tail c

/-- A write of 1 to POWER_CTRL.nightwatch; it reads 1 while the request is pending. -/
def State.requestNight (s : State) : State :=
  if s.board.night = 0 then (s.setFld powerPage powerCtrl_nightwatch 1).withBoard { s.board with night := 1 } else s

def allPortsDown : List Nat → State → State
  | [], s => s
  | d :: ds, s => allPortsDown ds ((s.diePortsDown d).clearUnits d)

/-- A pending request takes effect once no entry exists and no descriptor is outstanding. A WAKE_N during the entry is a
WAKE_N after it. -/
def execNightwatchEntry (s : State) : Host.Outcome State Fault Refusal :=
  if !s.up || s.board.night ≠ 1 || s.alm.any (·.2.isSome) || s.dmaOutstanding || !s.faults.isEmpty then .next s
  else
    let s := (allPortsDown (numsFrom 0 8) s).linkLost
    let s := setRefresh 1 (numsFrom 0 16) s
    let s := s.merRebase
    let s := (s.withPairs []).withFlight []
    .next (s.withBoard { s.board with night := 2 })

/-- The stacks that trained at the last training. -/
def State.untrained (s : State) : List Nat := (numsFrom 0 16).filter fun k => s.fld (stackPage .hbm k) hbmStatus_trained == 0

/-- The Meridian after NIGHTWATCH: unless it was kept running it goes on from where it stood and acquires again. -/
def State.merWake (s : State) : State :=
  if s.fld merPage merCtrl_keepInNightwatch = 1 then s
  else
    let s := s.withMer { s.mer with at_ := s.now, slew := 0, syncs := 0, edgeAt := none, edgeFrame := none, edgeArmed := false, edgeBad := 0,
                                    lastRef := none, rate := 0 }
    s.setMerState merAcquiring

/-- Pages whose set holds N. -/
def hasN (p : Page) : Bool := p.type.pageSet &&& clrN != 0

/-- The package leaves NIGHTWATCH. -/
def State.leaveNight (s : State) : State :=
  let before := s
  let bad := s.untrained
  let s := (s.clearRegs clrN fun _ => true).clearGuards hasN
  let s := setTrained bad (numsFrom 0 16) s
  let s := noteStates before ((s.withPower { s.power with dusk := [] }).withBoard { s.board with night := 0 })
  (s.setFld powerPage powerCtrl_nightwatch 0).merWake.checkReady

/-- WAKE_N is low for 1 µs. -/
def execWakeN (s : State) : Host.Outcome State Fault Refusal :=
  .next (if s.board.night = 2 && s.squareOn then s.leaveNight else s)

/-- NW_WAKE. -/
def State.nwWake (s : State) : Nat := s.fld powerPage nwWakeHi_transit * 2 ^ 32 + s.fld powerPage nwWakeLo_transit

/-- The Meridian, kept running, reaches NW_WAKE. -/
def execNwWakeTransit (s : State) : Host.Outcome State Fault Refusal :=
  if s.board.night = 2 && s.squareOn && s.fld merPage merCtrl_keepInNightwatch = 1 && s.nwWake ≠ 0 then
    .next ((s.advanceTo s.nwWake).leaveNight)
  else .next s

end Sys2Proof.Machine
end

