-- ==== Sys2Proof/Machine/Memory.lean ====
section
/-! DEFINITION. HBM care and host access to device memory: patrol, repairs, margining, Field maps, BAR2 and DMA (R251 to
R262, R395 to R399, R401). -/

namespace Sys2Proof.Machine

/-! ### Patrol and repairs (R259 to R261) -/

def hbmPage (k : Nat) : Page := stackPage .hbm k

/-- The loader puts the SCRUB of a patrol of the stack into queue 32 of its pair (R210, R259), while the last one is not over
or the queue is full none. The pass is counted as that command runs. -/
def execPatrolScrub (stack : Nat) (s : State) : Host.Outcome State Fault Refusal :=
  let pg := hbmPage stack
  let x := s.pair (stack / 2)
  let mine (w : BitVec 128) : Bool := w == patrolWord stack
  if !s.up || 16 ≤ stack || s.fld pg hbmScrubCtrl_enable = 0 || s.fld pg hbmStatus_trained = 0 || 16 ≤ (x.queue 32).length
      || (x.queue 32).any (fun e => mine e.word) || x.running.any (fun e => mine e.word) then .next s
  else .next (s.setPair (stack / 2) (x.setQueue 32 (x.queue 32 ++ [{ run := 0, word := patrolWord stack }])))

/-- The row of a sector: 1 KiB of a pseudo-channel (PRESUMED, log 30: no rule gives the size of a row). A row is named by the
number of its first sector. -/
def rowOf (sec : Nat) : Nat := sectorNumber sec / 32 * 32

/-- Sectors of a row that were corrected, with the patrol passes. -/
def StackMem.rowHits (x : StackMem) (row : Nat) : List (Nat × Nat) := x.rowCe.filter fun e => rowOf e.1 == row

/-- A row needs repair: two of its sectors were corrected, or one in two patrol passes. -/
def StackMem.needsRepair (x : StackMem) (row : Nat) : Bool :=
  let hs := x.rowHits row
  hs.any fun a => hs.any fun b => a.1 != b.1 || (a.2 != b.2 && a.2 != 0 && b.2 != 0)

/-- A started step has logical dies on die d. -/
def State.stepOn (s : State) (d : Nat) : Bool :=
  s.loader.steps.any fun t => t.started && (s.job? t.job).any fun j => bitOf (s.diesOf j.w) d

/-- A row goes to a spare: read, repaired, written back. -/
def State.repairRow (s : State) (k pc row : Nat) : State :=
  let pa := k / 2 * 2 ^ 37 + row * 32
  let s := (wake [k] s).scrubRange pa 1024 0
  let x := s.stack k
  let s := s.setStack k { x with rowCe := x.rowCe.filter (fun e => rowOf e.1 != row), soft := (pc, row) :: x.soft }
  let s := s.setSpare k pc (s.spareLeft k pc - 1)
  let pg := hbmPage k
  ((s.bump pg repairCount_count).event pg hbm_evtRaw_softRepair).ledgerAdd 4 0 (some pg) (k + 16) 0 0 0 0 (row + pc * 2 ^ 32)

/-- A row that needs repair: no spare is left, or a soft repair while no step runs on its die. -/
def execSoftRepair (stack pc row : Nat) (s : State) : Host.Outcome State Fault Refusal :=
  let o := row * 32
  let fits := row % 32 == 0 && decide (o < 0x1800000000) && stackOf (stack / 2) o == stack && pcIndex o % 64 == pc
  if !s.up || 16 ≤ stack || !fits || !(s.stack stack).needsRepair row then .next s
  else if s.spareLeft stack pc = 0 then .next (s.repairExhausted stack)
  else .next (if s.stepOn (stack / 2) then s else s.repairRow stack pc row)

/-! ### Margining (R262) -/

/-- A test may start: since the last C or P no bundle was loaded, and no virtual function is enabled. -/
def State.mayMargin (s : State) (k : Nat) : Bool :=
  s.up && !s.loader.loadedOnce && s.board.vfs == 0 && (s.stack k).margin.isNone

/-- HBM_MARGIN_CTRL was written with start 1. -/
def State.marginStart (s : State) (k : Nat) : State :=
  if s.mayMargin k then
    let s := s.setStack k { s.stack k with margin := some (s.fld (hbmPage k) hbmMarginCtrl_pc) }
    (s.setFld (hbmPage k) hbmMarginCtrl_start 1).setReg ((hbmPage k).reg 0x064) 0
  else s

/-- The test ends. Its bit errors are an open value, and so is what the pseudo-channel holds afterwards. -/
def execHbmMarginDone (stack : Nat) (s : State) : Host.Outcome State Fault Refusal :=
  match (s.stack stack).margin with
  | some pc =>
    let pg := hbmPage stack
    let n := s.freeCount
    let (v, s) := s.openValue
    let errors := v.toNat % 65536
    let s := s.setStack stack { s.stack stack with margin := none }
    let s := s.withMargined ((stack, pc, n) :: s.margined.filter fun m => !(m.1 == stack && m.2.1 == pc))
    let s := (s.setFld pg hbmMarginCtrl_start 0).setFld pg hbmMarginCtrl_offset 0
    .next (((s.setFld pg hbmMarginResult_done 1).setFld pg hbmMarginResult_pass (if errors = 0 then 1 else 0)).setFld pg
      hbmMarginResult_errors errors)
  | none => .next s

/-! ### Field maps (R251, R252, R254) -/

def vaPages : Nat := 2 ^ 27

/-- A write of FIELD_CMD on the HOST page of function f. -/
def State.fieldCmd (s : State) (f v : Nat) : State :=
  let pg := hostPage f
  let op := v % 4
  if s.fld pg fieldStatus_busy = 1 then s.setFld pg fieldStatus_overrun 1
  else if op = 1 || op = 2 then
    let r : FieldReq := ⟨op, s.fld pg fieldVa_vaPage, s.fld pg fieldPa_paPage, bitOf v 2, bitOf v 3, bitsOf v 8 4⟩
    (s.withFieldReqs (SMap.set none f (some r) s.fieldReqs)).setFld pg fieldStatus_busy 1
  else s

/-- Pages of a VA range. -/
def vaRange (va n : Nat) (page : Nat) : Bool := n != 0 && decide (va / pageBytes ≤ page) && decide (page ≤ (va + n - 1) / pageBytes)

/-- A tensor's buffers name a page; its address is a bound one for a step. -/
def namesPage (at_ : Option (Nat × Nat)) (t : TensorDecl) (page : Nat) : Bool :=
  match at_ with
  | some (va, sva) => vaRange va (storedBytes t) page || (t.fmt.isMx && vaRange sva (t.rows * scaleColsOf t) page)
  | none => false

/-- A bundle's declarations name a page. -/
def bundleNames (b : BundleDecl) (page : Nat) : Bool :=
  (b.kernels.any fun k => (k.tensors.any fun t => (hbmPlaces t).any fun a => namesPage (some a) t page) || (kernelCrcs k).any fun x => vaRange x.1 x.2.1 page)
  || match b.train with
    | some x => x.records.any (fun a => vaRange a 128 page)
        || x.stats.any fun a => vaRange a.1 (statsBytes x) page || vaRange a.2 (statsBytes x) page
    | none => false

/-- A ticket that was taken in names a page: its binding table, its slot table and its bound tensors. -/
def State.stepNames (s : State) (t : Step) (page : Nat) : Bool :=
  let b := ((s.jobBundle t.job).map (·.decl)).getD { kernels := [] }
  vaRange (leAt t.ticket 104 8) (16 * boundCount b) page || vaRange (leAt t.ticket 24 8) (2 * ((s.job? t.job).map (·.batch)).getD 0) page
    || b.kernels.any fun k => k.tensors.any fun x => x.stepBound && namesPage (t.place x.id) x page

/-- A loaded bundle or an admitted ticket of a function references a page. The key-value pages of a session lie in pools,
which no map reaches (R252). -/
def State.references (s : State) (f page : Nat) : Bool :=
  s.loader.bundles.any (fun b => b.f == f && bundleNames b.decl page)
    || s.loader.steps.any fun t => t.f == f && s.stepNames t page

/-- A physical page that no map may take: mapped, reserved, in a key-value pool, or beyond the window. -/
def State.pageTaken (s : State) (pa : Nat) : Bool :=
  let n := pa % 65536
  decide (48640 ≤ n) || decide (n < s.fld (sqPage .loader) kvPool_pages (pa / 65536))
    || s.fields.any fun e => e.2.any fun m => m.pa == pa

/-- The regions of 64 GiB that a function's mappings lie in. -/
def State.regions (s : State) (f : Nat) : List Nat :=
  ((s.fields.filter fun e => e.1 / vaPages == f && e.2.isSome).map fun e => e.1 % vaPages / 32768).eraseDups

/-- The result of a command (Table MEM-4). DESIGN CHOICE (log 18): of several that apply, the order is 5, then 1, 3, 6 of a MAP and 2, 4 of
an UNMAP, judged when the command completes. -/
def State.fieldResult (s : State) (r : FieldReq) : Nat :=
  let old := SMap.get none s.fields (r.fn * vaPages + r.va)
  if !s.functions.contains r.fn then 5
  else if r.op = 1 then
    if old.isSome then 1
    else if s.pageTaken r.pa then 3
    else if !(s.regions r.fn).contains (r.va / 32768) && 256 ≤ (s.regions r.fn).length then 6
    else 0
  else if old.isNone then 2
  else if s.references r.fn r.va then 4
  else 0

/-- The tables are written and no translation cache holds the old entry. -/
def execFieldCmdComplete (f : Nat) (s : State) : Host.Outcome State Fault Refusal :=
  match SMap.get none s.fieldReqs f with
  | some r =>
    let n := s.fieldResult r
    let s := s.withFieldReqs (SMap.set none f none s.fieldReqs)
    let s := (s.setFld (hostPage f) fieldStatus_busy 0).setFld (hostPage f) fieldStatus_result n
    .next (if n = 0 then
      s.withFields (SMap.set none (r.fn * vaPages + r.va) (if r.op = 1 then some ⟨r.pa, r.rd, r.wr⟩ else none) s.fields) else s)
  | none => .next s

/-! ### Host accesses (R255, R395) -/

/-- The host reaches the package. -/
def State.hostOn (s : State) (f : Nat) : Bool := s.up && s.hostPath f

/-- How many bytes from a VA lie in pages mapped for an access. -/
def State.reach (s : State) (f : Nat) (write : Bool) : Nat → Nat → Nat → Nat
  | 0, _, _ => 0
  | k + 1, va, n =>
    if n = 0 then 0
    else if (s.translate f va write).isSome then
      let m := min n (pageBytes - va % pageBytes)
      m + s.reach f write k (va + m) (n - m)
    else 0

def State.reachBytes (s : State) (f va n : Nat) (write : Bool) : Nat := s.reach f write (n / pageBytes + 2) va n

/-- One access that the map does not allow. -/
def State.fieldMiss (s : State) (f : Nat) : State := s.bumpSat (hostPage f) fieldMiss_count

/-- The byte the host reads: an open one from a sector that cannot be corrected (R258 gives no data for it). -/
def State.hostByte (s : State) (n f va : Nat) : Byte :=
  match s.translate f va false with
  | some pa => if (s.stack (stackOfPa pa)).bad.contains (sectorOf pa) then Config.freeByte n pa else s.byteAt pa
  | none => 0

/-- Bytes that the host reads, with what the sector code records. -/
def State.hostRead (s : State) (f va n : Nat) : List Byte × State :=
  let s := s.wakeSpans [⟨some f, 8 * va, 8 * n⟩]
  let bs := (numsFrom va n).map (s.hostByte s.freeCount f)
  (bs, (s.withFreeCount (if s.eccClean then s.freeCount else s.freeCount + 1)).eccRead (fun _ s => s) [⟨some f, 8 * va, 8 * n⟩])

/-- Bytes that the host writes. A sector that cannot be corrected and is written in part stays as it was (R245). -/
def State.hostWrite (s : State) (f va : Nat) (bs : List Byte) : State :=
  if bs.isEmpty then s
  else (s.wakeSpans [⟨some f, 8 * va, 8 * bs.length⟩]).storeAll (fun _ s => s) [⟨⟨some f, 8 * va, 8 * bs.length⟩, leNat bs⟩]

/-- The size of a function's BAR2: one size for all virtual functions (R394, R395). -/
def State.bar2Bytes (s : State) (f : Nat) : Nat := 2 ^ (if f = 0 then s.board.bar2 else s.board.vfBar2)

/-- Bytes from a VA lie in the function's BAR2. -/
def State.inBar2 (s : State) (f va n : Nat) : Bool := decide (va + n ≤ s.bar2Bytes f)

/-- A BAR2 read: the bytes, or Unsupported Request (status 1), also of an address beyond BAR2. -/
def execBar2Read (f va n : Nat) (s : State) : Host.Outcome State Fault Refusal :=
  if !s.hostOn f then .next s
  else if !s.inBar2 f va n then .next (s.respond 1 [])
  else if s.mapped f va n false then
    let r := s.hostRead f va n
    .next (r.2.respond 0 r.1)
  else .next ((s.fieldMiss f).respond 1 [])

/-- A BAR2 write, discarded where the map does not allow it or beyond BAR2. -/
def execBar2Write (f va : Nat) (bytes : List Byte) (s : State) : Host.Outcome State Fault Refusal :=
  if !s.hostOn f || !s.inBar2 f va bytes.length then .next s
  else if s.mapped f va bytes.length true then .next (s.hostWrite f va bytes)
  else .next (s.fieldMiss f)

/-! ### DMA (R397 to R399, R401) -/

def dmaKey (f ch : Nat) : Nat := f * 4 + ch
def State.dmaRuns (s : State) (f ch : Nat) : List DmaRun := SMap.get [] s.dma (dmaKey f ch)
def State.setDma (s : State) (f ch : Nat) (x : List DmaRun) : State := s.withDma (SMap.set [] (dmaKey f ch) x s.dma)
def State.dmaFld (s : State) (f ch : Nat) (x : FieldRow) : Nat := s.fld (hostPage f) x ch

/-- Descriptors of a channel's ring. -/
def State.dmaSize (s : State) (f ch : Nat) : Nat := 2 ^ s.dmaFld f ch dmaCtrl_log2Size
def State.dmaBase (s : State) (f ch : Nat) : Nat := s.dmaFld f ch dmaBaseHi_addr * 2 ^ 32 + s.dmaFld f ch dmaBaseLo_addr * 32

/-- A doorbell: ignored beyond the ring or while the channel is out of service. -/
def State.dmaDoorbell (s : State) (f ch v : Nat) : State :=
  if s.dmaSize f ch ≤ v || s.dmaFld f ch dmaCtrl_enable = 0 then s.setFld (hostPage f) dmaStatus_overrun 1 ch
  else s.setFld (hostPage f) dmaTail_tail v ch

/-- The channel's ring registers changed from `before`: with descriptors outstanding its behaviour is undefined; a channel
that is enabled again starts at 0. -/
def State.dmaChanged (s : State) (before : State) (f ch : Nat) : State :=
  let idle := before.dmaFld f ch dmaHead_head == before.dmaFld f ch dmaTail_tail && (before.dmaRuns f ch).isEmpty
  let same := before.dmaBase f ch == s.dmaBase f ch && before.dmaSize f ch == s.dmaSize f ch
    && before.dmaFld f ch dmaCtrl_enable == s.dmaFld f ch dmaCtrl_enable && before.dmaFld f ch dmaCtrl_vector == s.dmaFld f ch dmaCtrl_vector
  if same then s
  else if !idle then s.withDmaLost (dmaKey f ch :: s.dmaLost.filter (· != dmaKey f ch))
  else if before.dmaFld f ch dmaCtrl_enable = 0 && s.dmaFld f ch dmaCtrl_enable = 1 then
    (s.setFld (hostPage f) dmaHead_head 0 ch).setFld (hostPage f) dmaTail_tail 0 ch
  else s

/-- A descriptor as Table HOST-4 lays it out. -/
structure DmaDesc where
  host : Nat
  va : Nat
  len : Nat
  toHost : Bool
  irq : Bool
  fence : Bool
  bad : Bool
  deriving DecidableEq, Repr

def dmaDesc (bs : List Byte) : DmaDesc :=
  let flags := leAt bs 28 1
  { host := leAt bs 0 8, va := leAt bs 8 6, len := leAt bs 16 4, toHost := bitOf flags 0, irq := bitOf flags 1, fence := bitOf flags 2,
    bad := leAt bs 16 4 == 0 || leAt bs 14 2 != 0 || leAt bs 30 2 != 0 || decide (8 ≤ flags) }

/-- What a descriptor moves and how it ends: bytes and status. `data` is what the host's memory answers, short where a
read of it failed. -/
def State.dmaMove (s : State) (f : Nat) (d : DmaDesc) (data : List Byte) : Nat × Nat × State :=
  if d.bad then (0, 3, s)
  else
    let n := s.reachBytes f d.va d.len (!d.toHost)
    let s1 := if n < d.len then s.fieldMiss f else s
    if d.toHost then
      let r := s1.hostRead f d.va n
      let s2 := if n = 0 then s1 else r.2.withOut { s1.out with host := s1.out.host ++ [(d.host, r.1)] }
      (n, if n < d.len then 1 else 0, s2)
    else
      let m := min n data.length
      let s2 := (if m < n then s else s1).hostWrite f d.va (data.take m)
      (m, if m < n then 2 else if n < d.len then 1 else 0, s2)

/-- A channel starts its next descriptor. -/
def execDmaDescriptor (f ch : Nat) (desc data : List Byte) (s : State) : Host.Outcome State Fault Refusal :=
  let rs := s.dmaRuns f ch
  let i := (s.dmaFld f ch dmaHead_head + rs.length) % s.dmaSize f ch
  let d := dmaDesc desc
  if !s.hostOn f || s.dmaFld f ch dmaCtrl_enable = 0 then .next s
  else if s.dmaLost.contains (dmaKey f ch) then .fault (.dmaUndefined f ch)
  else if i = s.dmaFld f ch dmaTail_tail || (d.fence && !rs.isEmpty) then .next s
  else
    let r := s.dmaMove f d data
    .next (r.2.2.setDma f ch (rs ++ [⟨desc, r.1, r.2.1, i⟩]))

/-- The oldest descriptor in progress completes: done_len, then status, then DMA_HEAD and the vector. -/
def execDmaComplete (f ch : Nat) (s : State) : Host.Outcome State Fault Refusal :=
  match s.dmaRuns f ch with
  | [] => .next s
  | r :: rs =>
    if !s.up then .next s
    else if s.dmaLost.contains (dmaKey f ch) then .fault (.dmaUndefined f ch)
    else
      let a := s.dmaBase f ch + 32 * r.index
      let s := s.setDma f ch rs
      let s := if s.board.link then
          s.withOut { s.out with host := s.out.host ++ [(a + 20, leBytes 4 r.done), (a + 29, leBytes 1 r.status)] }
        else s.dropMsg f
      let s := s.setFld (hostPage f) dmaHead_head ((s.dmaFld f ch dmaHead_head + 1) % s.dmaSize f ch) ch
      let s := if (dmaDesc r.desc).irq then s.msix f (s.dmaFld f ch dmaCtrl_vector) else s
      .next (if r.status = 0 then s else s.event (hostPage f) host_evtRaw_dmaError)

end Sys2Proof.Machine
end

