-- ==== Sys2Proof/Machine/Pages.lean ====
section
/-! DEFINITION. Reads of registers: the address maps of BAR0 and BAR4, the registers that are computed when they are read,
snapshots, latched high words, and reads that clear (R394, R395, R416 to R419, R428 to R436). -/

namespace Sys2Proof.Machine

/-! ### Addresses (R394, R417, R432, R433; DESIGN CHOICE, log 8: BAR4 offset x is address 0x400_0000 + x) -/

/-- What an address of a master names: a page with an offset in it. -/
def resolve (m : Master) (a : Nat) : Option (Page × Nat) :=
  match m with
  | .watchman => if a / 0x1000 = 2 then some (hostPage 0, a % 0x1000) else if a < 0x4000000 then pageAt a else none
  | .host f =>
    if a / 0x1000 = 2 then some (hostPage f, a % 0x1000)
    else if a < 0x4000000 then if f ≠ 0 && 0x20000 ≤ a && a < 0x40000 then none else pageAt a
    else if 0x4080000 ≤ a && a < 0x4081000 then
      let o := a - 0x4080000
      some (ringPage f (o / 0x40), o % 0x40)
    else none

/-- The views of a page (R420). -/
inductive View where
  | direct | set | clear
  deriving DecidableEq, Repr

/-- The view that an offset of a page lies in, and the register offset that it names. -/
def viewAt (p : Page) (raw : Nat) : View × Nat :=
  if p.type = .ring || raw < 0x400 || 0xC00 ≤ raw then (.direct, raw)
  else if raw < 0x800 then (.set, raw - 0x400)
  else (.clear, raw - 0x800)

/-- The Field map registers of a HOST page. -/
def isFieldReg (x : Nat) : Bool := decide (0x200 ≤ x) && decide (x ≤ 0x210)

/-- What a master reads of a page (Table HOST-3). -/
def visible (m : Master) (p : Page) (x : Nat) : Bool :=
  match m with
  | .host (_ + 1) =>
    match p.type with
    | .host => !isFieldReg x
    | .cue => x == 0x048 || x == 0x04C
    | .loader | .meridian | .almanac | .ring => true
    | _ => false
  | _ => true

/-- What a master writes of a page (Table HOST-3). -/
def writable (m : Master) (p : Page) (x : Nat) : Bool :=
  match m with
  | .host (_ + 1) =>
    match p.type with
    | .host => !isFieldReg x
    | .cue => x == 0x048 || x == 0x04C
    | .ring => true
    | _ => false
  | _ => true

/-- The master has a path to a page: a function over the host link, the Watchman also without one, but with the hub fabric
failed only to its own page (R406). -/
def State.reaches (s : State) (m : Master) (p : Page) : Bool :=
  match m with
  | .host f => s.hostPath f
  | .watchman => s.board.island && (p.type == .watchman || !s.board.hubFail)

/-! ### Status that is computed -/

def bit01 (b : Bool) : Nat := if b then 1 else 0

/-- A word of fields, as (value, lowest bit). -/
def wordOf (fs : List (Nat × Nat)) : Word := infoOf fs

/-- The head instruction of a Loom waits for a pass that is not settled (R77). -/
def Loom.settleWait (x : Loom) : Bool :=
  match x.queue with
  | e :: _ =>
    let i := loomInstr e.word
    let y := x.forRun e.run
    i.opcode == 1 && y.unsettled (instrSpan y.k.setup (y.k.halfFor i) i)
  | [] => false

/-- LOOM_STATUS. -/
def State.loomStatus (s : State) (p : Page) : Word :=
  let x := s.loom p.die p.i p.j
  wordOf [(bit01 (!x.issued.isEmpty), 0), (bit01 (x.activity == 0), 1), (bit01 (x.ramp.isSome || x.rampWait.isSome), 2),
    (bit01 (x.activity != 0 && x.issued.isEmpty && s.fld p loomCtrl_hearthEn == 1), 3), (min x.queue.length 16, 4),
    (bit01 x.settleWait, 9), (bit01 x.k.autoMode, 10)]

/-- KiB of the Commons that running kernels of a die take. -/
def State.commonsKib (s : State) (d : Nat) : Nat :=
  let ks := ((s.loader.runs.filter fun r => r.die == d && !r.done).map fun r => (r.job, r.kernel)).eraseDups
  natSum (ks.map fun k => match s.jobBundle k.1 with
    | some b => match b.decl.kernels[k.2]? with
      | some kd => ceilDiv kd.commonsBytes 1024
      | none => 0
    | none => 0)

/-- Bells 64 to 4,095 of a die that a job owns; BELLS_FREE, 4,032 at reset, counts no others. -/
def State.bellsOwned (s : State) (d : Nat) : Nat := (s.bells.filter fun e => e.1 / 4096 == d && decide (64 ≤ e.1 % 4096) && e.2.owner.isSome).length

/-- GRANARY_STATUS.busy and queues_busy of a pair. -/
def State.pairBusy (s : State) (k : Nat) : Nat × Nat :=
  let x := s.pair k
  (bit01 (!x.running.isEmpty), (x.queues.filter fun q => !q.2.isEmpty).length)

/-- Flits of the shared pool in use on the send side (R377). -/
def Port.poolUsed (x : Port) : Nat := natSum ((numsFrom 0 8).map fun u => SMap.get 0 x.out u - 1)

/-- The slots that run, a bit per component (WM_STATUS.slots). -/
def State.slotBits (s : State) : Nat := natSum ((numsFrom 0 4).map fun c => if s.wm.running.getD c 0 = 1 then 2 ^ c else 0)

/-- WM_VERSION and SQ_CFG_VERSION. -/
def State.runVersion (s : State) (c : Nat) : Nat := s.slotVersion c (s.wm.running.getD c 0)

/-- POWER_NOW.watts. -/
def State.powerNow (s : State) : Nat := if s.sensed then s.watts else 0

/-- TEMP_HOT: the temperature and the unit of the hottest sensor, the first one of equal ones; a unit is a physical die,
stack + 16, or 32. -/
def State.tempHot (s : State) : Nat × Nat :=
  (numsFrom 2 24).foldl (fun best n =>
    if best.1 < s.degc n then (s.degc n, if n ≤ 8 then n - 1 else if n ≤ 24 then n + 7 else 32) else best) (s.degc 1, 0)

/-- A ring's fetch waits for a completion entry that the host has consumed (R310). -/
def State.cmplWait (s : State) (f r : Nat) : Bool :=
  s.ringOn f r && s.ringFld f r ringHead_head != s.ringFld f r ringTail_tail && !s.ringHasEntry f r

/-- CUE_DATA as a master reads it; another function's entry reads 0 (R362). -/
def State.cueRead (s : State) (m : Master) : Nat :=
  let e := s.cueIndex m
  if s.cueReach m e then cueQ e (s.cueEntry e) else 0

/-- DMA_STATUS.busy: a descriptor is in progress. -/
def State.dmaBusy (s : State) (f ch : Nat) : Bool := !(s.dmaRuns f ch).isEmpty

/-- PAGE_STATUS (Table PAGE-2). -/
def State.pageStatus (s : State) (p : Page) : Word :=
  match SMap.get none s.guards p.base with
  | some g => wordOf [(1, 0), (bit01 g.byWatchman, 1), (g.offset, 2), (bit01 (s.served p), 14)]
  | none => wordOf [(bit01 (s.served p), 14)]

/-- PAGE_ID. -/
def Page.idWord (p : Page) : Word := wordOf [(1, 0), (p.inst, 8), (p.type.code, 16)]

/-- LOOM_ID (R89). -/
def State.loomId (s : State) (p : Page) : Word :=
  wordOf [(bit01 (!s.loomOn p.die p.i p.j), 0), (p.j, 1), (p.i, 4), (p.die, 6)]

/-- The block registers of a page that are not stored. While a CROFT reset of their die runs, its stacks are in self-refresh (R447);
DESIGN CHOICE (log 27): their traffic then takes the secondary ports, which R209 does not say. -/
def State.computed (s : State) (m : Master) (p : Page) (x : Nat) : Option Word :=
  let w := s.reg (p.reg x)
  match p.type, x with
  | .squareCtrl, 0x040 => some (wordOf [(0x0E80, 0), (s.fuses.minor % 16, 16), (s.fuses.major % 16, 20)])
  | .squareCtrl, 0x044 => some (wordOf [(s.fuses.grade % 4, 0), (bit01 s.fuses.secureBoot, 2)])
  | .squareCtrl, 0x048 => some (BitVec.ofNat 32 s.fuses.serial)
  | .squareCtrl, 0x04C => some (BitVec.ofNat 32 (s.fuses.serial / 2 ^ 32))
  | .squareCtrl, 0x050 => some (BitVec.ofNat 32 (s.runVersion compSquare))
  | .squareCtrl, 0x058 => some (BitVec.ofNat 32 s.uptimeMs)
  | .host, 0x040 => some (wordOf [(p.i, 0), (bit01 (p.i != 0), 5), (if p.i = 0 then 560 else 48, 6)])
  | .host, 0x114 => some (setField w 0 0 (bit01 (s.dmaBusy p.i 0)))
  | .host, 0x134 => some (setField w 0 0 (bit01 (s.dmaBusy p.i 1)))
  | .host, 0x154 => some (setField w 0 0 (bit01 (s.dmaBusy p.i 2)))
  | .host, 0x174 => some (setField w 0 0 (bit01 (s.dmaBusy p.i 3)))
  | .ring, 0x020 => some (setField w 2 2 (bit01 (s.cmplWait p.i p.j)))
  | .watchman, 0x040 => some (BitVec.ofNat 32 (s.runVersion compWatchman))
  | .watchman, 0x044 => some (setField (setField w 21 18 s.slotBits) 22 22 (bit01 s.wm.update.isSome))
  | .watchman, 0x050 => some (BitVec.ofNat 32 s.fuses.vendor)
  | .meridian, 0x050 => some (setField w 2 2 (bit01 (s.mer.slew != s.slewed)))
  | .meridian, 0x058 => some (BitVec.ofNat 32 s.transit)
  | .meridian, 0x05C => some (BitVec.ofNat 32 (s.transit / 2 ^ 32))
  | .meridian, 0x070 => some (setField w 31 16 s.holdElapsed)
  | .almanac, 0x048 => some (setField (setField w 11 0 (s.alm.filter fun e => e.2.isSome).length) 12 12
      (bit01 s.power.retest.isSome))
  | .cue, 0x048 => some (BitVec.ofNat 32 (s.cueIndex m))
  | .cue, 0x04C => some (BitVec.ofNat 32 (s.cueRead m))
  | .cue, 0x050 => some (BitVec.ofNat 32 (s.cueGroup m))
  | .cue, 0x054 => some (BitVec.ofNat 32 (s.cueGroupRead m))
  | .power, 0x050 => some (setField w 1 0 s.limit)
  | .power, 0x054 => some (BitVec.ofNat 32 s.powerNow)
  | .power, 0x058 => some (if s.sensed then wordOf [(s.tempHot.1, 0), (s.tempHot.2, 8)] else 0)
  | .fault, 0x048 => some (BitVec.ofNat 32 s.attnSum)
  | .fault, 0x070 => some (BitVec.ofNat 32 s.ledger.lastSeq)
  | .loader, 0x044 => some (setField (setField (setField w 7 1 s.loader.bundles.length) 16 8
      s.loader.jobs.length) 29 17 s.loader.sessions.length)
  | .loader, 0x048 => some (BitVec.ofNat 32 (s.fuses.grade % 4))
  | .croftCtrl, 0x040 => some (BitVec.ofNat 32 p.die)
  | .croftCtrl, 0x044 => some (wordOf [(s.dieState p.die, 0), (bit01 (s.served (diePage .bells p.die)), 3)])
  | .croftCtrl, 0x048 => some (BitVec.ofNat 32 (s.fuses.looms.getD p.die 0))
  | .hamlet, 0x040 => some (wordOf [(p.i, 0), (p.die, 2), (s.fuses.looms.getD p.die 0 / 2 ^ (8 * p.i) % 256, 8)])
  | .loom, 0x040 => some (s.loomId p)
  | .loom, 0x048 => some (s.loomStatus p)
  | .loom, 0x050 => some (BitVec.ofNat 32 (s.loom p.die p.i p.j).k.setup.rowsPerReplay)
  | .sieve, 0x040 | .firefly, 0x040 => some (wordOf [(p.i, 0), (p.die, 2)])
  | .sieve, 0x048 => let e := s.sieve p.die p.i
    some (wordOf [(0, 0), (bit01 e.waiting, 1), (min e.queue.length 64, 2)])
  | .gate, 0x048 => let e := s.gate p.die
    some (wordOf [(0, 0), (bit01 e.waiting, 1), (min e.queue.length 32, 2)])
  | .gate, 0x040 | .commons, 0x040 | .bells, 0x040 => some (BitVec.ofNat 32 p.die)
  | .commons, 0x044 => some (BitVec.ofNat 32 (s.commonsKib p.die))
  | .bells, 0x048 => some (BitVec.ofNat 32 (4032 - s.bellsOwned p.die))
  | .ferry, 0x040 => some (wordOf [(p.i, 0), (p.die, 4)])
  | .ferryPkg, 0x06C => some (setField w 0 0 (bit01 (decide (s.now < s.ferry.fjUntil))))
  | .ferry, 0x048 => some (setField w 10 2 (s.port p.die p.i).poolUsed)
  | .granary, 0x040 => some (wordOf [(p.i, 0), (p.die, 4)])
  | .granary, 0x048 =>
    let b := s.pairBusy (p.i / 2)
    let w := if s.resetting p.die then setField w 2 2 1 else w
    some (setField (setField (setField w 0 0 b.1) 1 1 (bit01 (!s.dieLive p.die))) 8 3 b.2)
  | .hbm, 0x040 => some (wordOf [(p.i, 0), (p.die, 4), (0xC, 7), (0x30, 16)])
  | _, _ => none

/-- The word of a register, without what a read of it does. -/
def State.regNow (s : State) (m : Master) (p : Page) (x : Nat) : Word :=
  if p.type = .ring then (s.computed m p x).getD (s.reg (p.reg x))
  else if x = 0x000 then p.idWord
  else if x = 0x004 then BitVec.ofNat 32 p.type.caps
  else if x = 0x010 then s.pageStatus p
  else if x = 0x020 then s.evtPending p
  else (s.computed m p x).getD (s.reg (p.reg x))

/-- A register as a read gives it: what a page under R430 still answers, the snapshot of a counter under SNAP_CTRL.view
(R428), else the register. -/
def State.regSeen (s : State) (m : Master) (p : Page) (x : Nat) : Word :=
  if !s.served p then
    if x = 0x000 then p.idWord
    else if p.type = .loom && x = 0x040 && !s.loomOn p.die p.i p.j then s.loomId p
    else 0
  else if p.type.counters.contains x && getField (s.reg (p.reg 0x030)) 1 1 = 1 then SMap.get 0 s.snaps (p.reg x)
  else s.regNow m p x

/-! ### Reads -/

/-- The key of a latched high word. -/
def latchKey (m : Master) (a : Nat) : Nat := masterKey m * 2 ^ 32 + a

/-- A direct read of the register at offset x: a _LO word latches its _HI word, a _HI word answers the latched one
(R429), an RC field is cleared (R6). A page under R430 latches nothing and answers no latched word. -/
def State.readDirect (s : State) (m : Master) (p : Page) (x : Nat) : Word × State :=
  let w := s.regSeen m p x
  if !s.served p then (w, s)
  else if p.type.latching.contains x then
    (w, s.withLatch (SMap.set none (latchKey m (p.reg (x + 4))) (some (s.regSeen m p (x + 4))) s.latch))
  else match SMap.get none s.latch (latchKey m (p.reg x)) with
    | some h => (h, s.withLatch (SMap.set none (latchKey m (p.reg x)) none s.latch))
    | none =>
      if p.type = .host && x = 0x210 then (w, s.setReg (p.reg x) 0) else (w, s)

/-- A read of an address by a master. A read of a view reads the register, clears nothing and latches nothing (R420). -/
def State.busRead (s : State) (m : Master) (a : Nat) : Word × State :=
  match resolve m a with
  | none => (0, s)
  | some (p, raw) =>
    let v := viewAt p raw
    if !s.reaches m p || !visible m p v.2 then (0, s)
    else if v.1 = .direct then s.readDirect m p v.2
    else (s.regSeen m p v.2, s)

/-- A Bell slot of BAR4 (Table BUND-9) as function f reads it; Bells 0 to 63 read 0 to all but the owner (R318). -/
def State.bellSlotRead (s : State) (f o : Nat) : Word :=
  let b := SMap.get {} s.bells (o / 16)
  if !s.dieLive (o / 16 / 4096) then 0
  else match o % 16, b.owner with
    | 0, some (g, _) => if g = f then b.value else 0
    | 12, some (g, j) =>
      if g ≠ f && o / 16 % 4096 < 64 then 0 else wordOf [(bit01 b.error, 0), (1, 1), (g, 2), (j, 16)]
    | 12, none => wordOf [(bit01 b.error, 0)]
    | _, _ => 0

/-- A read by a command: the word is the response; an access of another size or alignment is unsupported (R395). The Watchman
reads words (R405). -/
def State.readCmd (s : State) (m : Master) (a : Nat) (size : Nat := 4) : State :=
  match m with
  | .host f =>
    if !s.hostPath f then s
    else if a % 4 ≠ 0 || size ≠ 4 then s.respond 1 []
    else if 0x4000000 ≤ a && a < 0x4080000 then s.respondWords 0 [s.bellSlotRead f (a - 0x4000000)]
    else
      let r := s.busRead m a
      r.2.respondWords 0 [r.1]
  | .watchman => let r := s.busRead m a
    if s.board.island then r.2.respondWords 0 [r.1] else s

/-- A read of MER_NOW_LO (R341, R429). -/
def execMerNowLo (m : Master) (s : State) : Host.Outcome State Fault Refusal := .next (s.readCmd m (merPage.reg 0x058))

/-- A read of a counter's _LO word, or of any register (R429). -/
def execCounterLoRead (m : Master) (a : RegAccess) (s : State) : Host.Outcome State Fault Refusal := .next (s.readCmd m a.addr a.size)

/-- The address at which a master finds the HOST page of function f (R432). -/
def hostAddr (m : Master) (f : Nat) : Nat :=
  match m with
  | .host g => if g = f then 0x2000 else 0x20000 + f * 0x1000
  | .watchman => 0x20000 + f * 0x1000

/-- A read of FIELD_MISS, which clears it (R254). -/
def execFieldMissRead (m : Master) (f : Nat) (s : State) : Host.Outcome State Fault Refusal :=
  .next (s.readCmd m (hostAddr m f + 0x210))

end Sys2Proof.Machine
end

