-- ==== Sys2Proof/Machine/Bus.lean ====
section
/-! DEFINITION. Writes of registers: ownership, the guard, the views, access codes and reserved encodings, and what a write
starts (R4 to R6, R407 to R409, R416 to R428, R435), with the commands that are such writes. -/

namespace Sys2Proof.Machine

/-- A write that reached a page: the master, the page, the offset written, the view and the register it names, the word. -/
structure BusWr where
  m : Master
  p : Page
  raw : Nat
  view : View
  x : Nat
  v : Word
  deriving DecidableEq, Repr

/-! ### What a field takes (R5, R6, R420, R424) -/

/-- MSI-X vectors of a function (R396). -/
def vectorCount (f : Nat) : Nat := if f = 0 then 560 else 48

/-- The encoding is none that is reserved (R5). -/
def legalCode (p : Page) (f : FieldRow) (v : Nat) : Bool :=
  decide (f.legalLo ≤ v) && decide (v ≤ f.legalHi)
    && (f != dmaCtrl_vector && f != ringCtrl_vector || decide (v < vectorCount p.i))
    && (f != faultCtrl_vector || decide (v < vectorCount 0))
    && (f != hbmMarginCtrl_offset || v != 32)
    && (f != kvPool_pages || decide (v ≤ 48640))

/-- Fields that only the Watchman writes (R424). -/
def watchmanOnly (p : Page) (f : FieldRow) : Bool :=
  f == faultFence_fenced || (p.type == .loader && decide (0xC00 ≤ f.off) && decide (f.off < 0xD00))

/-- A field that a condition on the state keeps unchanged: FAULT_CTRL.reserve (R446), ALM_CTRL.margin (R365), KV_POOL
(R331), FERRY_NODE (Table FERRY-8). -/
def State.fieldKept (s : State) (p : Page) (f : FieldRow) : Bool :=
  (f == faultCtrl_reserve && !s.loader.jobs.isEmpty) || (f == almCtrl_margin && s.guaranteed)
    || (f == kvPool_pages && !s.loader.bundles.isEmpty)
    || (p.type == .ferryPkg && f.off == 0x044 && !s.ferry.binds.isEmpty)

/-- A multi-bit value under a view: the bits written, set or cleared. -/
def viewed (view : View) (old v : Nat) : Nat :=
  match view with
  | .direct => v
  | .set => old ||| v
  | .clear => old &&& (old ^^^ v)

/-- The field takes a value that a master writes. -/
def BusWr.takes (w : BusWr) (s : State) (f : FieldRow) (old v : Nat) : Nat :=
  let n := viewed w.view old v
  if legalCode w.p f n && !s.fieldKept w.p f && (w.m == .watchman || !watchmanOnly w.p f) then n else old

/-- A write of MER_CTRL with another source under a guarantee leaves the register unchanged (R336). -/
def BusWr.merKept (w : BusWr) (s : State) (armed : Bool) : Bool :=
  w.p.type == .meridian && w.x == 0x044 && armed && s.guaranteed && viewed w.view s.merSource (getField w.v 1 0) != s.merSource

/-- The field's new value (Table SCOPE-2, R420); `armed` says that the guard lets RWG fields take effect. -/
def BusWr.field (w : BusWr) (s : State) (armed : Bool) (f : FieldRow) (old v : Nat) : Nat :=
  if w.merKept s armed then old else
  match f.acc with
  | .rw => w.takes s f old v
  | .rwg => if armed then w.takes s f old v else old
  | .wmRw => if w.m = .watchman then w.takes s f old v else old
  | .w1c =>
    match w.view with
    | .set => if f.off = 0x024 then old else old ||| v
    | _ => old &&& (old ^^^ v)
  | .w1s => if w.view = .clear then old else old ||| v
  | .ro | .wo | .rc => old

/-- Fields whose write is an action, not a store. -/
def actionField (f : FieldRow) : Bool :=
  f.acc == .w1s || [merCtrl_source, merRate_num, merRate_den1001, merLines_total, powerCap_watts, thermalCap_degc,
    faultFence_fenced, dmaTail_tail, ringTail_tail, cmplHead_head, hbmMarginCtrl_start].contains f
    || (f.acc != .w1c && [cueIndex_entry, cueData_status, cueGroupIndex_group, cueGroupOwner_function,
      cueGroupOwner_assigned].contains f)

/-- The word with the fields of a row list as the write leaves them. -/
def BusWr.merge (w : BusWr) (s : State) (armed : Bool) (old : Word) (fs : List FieldRow) : Word :=
  fs.foldl (fun r f => setField r f.hi f.lo (w.field s armed f (getField old f.hi f.lo) (getField w.v f.hi f.lo))) old

/-! ### Snapshots (R428, R435) -/

/-- A snapshot of a page's counters at a transit. -/
def State.snapPage (s : State) (p : Page) (clear : Bool) (t : Nat) : State :=
  let at_ (x : Nat) : Nat := p.reg x
  let s := s.withSnaps (p.type.counters.foldl (fun m x => SMap.set 0 (at_ x) (s.reg (at_ x)) m) s.snaps)
  let s := if clear then p.type.counters.foldl (fun s x => s.setReg (at_ x) 0) s else s
  ((s.setReg (at_ 0x034) (s.reg (at_ 0x034) + 1)).setReg (at_ 0x038) (BitVec.ofNat 32 t)).setReg (at_ 0x03C)
    (BitVec.ofNat 32 (t / 2 ^ 32))

/-- The pages of a die that hold counters. -/
def dieCounterPages (d : Nat) : List Page :=
  ((numsFrom 0 4).map fun h => [hamletPage d h, sievePage d h, fireflyPage d h] ++ (numsFrom 0 8).map fun l => loomPage d h l).flatten
    ++ [diePage .commons d, diePage .bells d, diePage .gate d] ++ (numsFrom 0 14).map fun n => portPage d n

/-- Every page that holds counters. -/
def counterPages : List Page :=
  [sqPage .watchman, sqPage .almanac, sqPage .cue, sqPage .power, sqPage .fault, sqPage .loader, sqPage .ferryPkg]
    ++ (numsFrom 0 32).map hostPage ++ ((numsFrom 0 8).map dieCounterPages).flatten
    ++ ((numsFrom 0 16).map fun k => [stackPage .granary k, stackPage .hbm k]).flatten

/-- A package snapshot: every page that answers captures. -/
def State.snapAll (s : State) (clear : Bool) : State :=
  let t := s.transit
  counterPages.foldl (fun s p => if s.served p then s.snapPage p clear t else s) s

/-! ### Rings (R310, R311) -/

/-- RING_TAIL was written: ignored beyond the ring or while the ring is disabled. -/
def State.ringDoorbell (s : State) (f r v : Nat) : State :=
  if s.ringSize f r ≤ v || s.ringFld f r ringCtrl_enable = 0 then s.setRingFld f r ringStatus_overrun 1
  else s.setRingFld f r ringTail_tail v

/-- CMPL_HEAD was written: ignored beyond the ring or past CMPL_TAIL. -/
def State.ringConsume (s : State) (f r v : Nat) : State :=
  let n := s.ringSize f r
  let old := s.ringFld f r cmplHead_head
  let free := (s.ringFld f r cmplTail_tail + n - old % n) % n
  if n ≤ v || free < (v + n - old % n) % n then s.setRingFld f r ringStatus_overrun 1
  else s.setRingFld f r cmplHead_head v

/-- The ring's control and base words. -/
def State.ringWords (s : State) (f r : Nat) : List Word := [0x00, 0x04, 0x08, 0x0C, 0x10].map fun x => s.reg ((ringPage f r).reg x)

/-- RING_CTRL or a base was written: a ring that is enabled again starts at 0; one that changes with tickets outstanding,
and is not stopped, has no defined behaviour. -/
def State.ringChanged (s before : State) (f r : Nat) : State :=
  let on (x : State) : Bool := x.ringFld f r ringCtrl_enable == 1
  if before.ringWords f r == s.ringWords f r then s
  else if !on before && on s then
    let s := (((s.setRingFld f r ringTail_tail 0).setRingFld f r ringHead_head 0).setRingFld f r cmplTail_tail 0).setRingFld f r
      cmplHead_head 0
    let s := (s.setRingFld f r ringStatus_fault 0).setRingFld f r ringStatus_held 0
    let s := s.withLoader { s.loader with held := s.loader.held.filter fun x => !(x.f == f && x.ring == r) }
    s.withRingLost (s.ringLost.filter (· != ringKey f r))
  else if before.ringFld f r ringHead_head != before.ringFld f r ringTail_tail && before.ringFld f r ringStatus_fault == 0 then
    s.withRingLost (ringKey f r :: s.ringLost.filter (· != ringKey f r))
  else s

/-! ### Known-answer tests (R300) -/

/-- A test starts with the registers as they stand. -/
def State.katStart (s : State) (d h : Nat) : State :=
  let pg := fireflyPage d h
  if s.fld pg ffKatCtrl_start = 1 then s
  else
    let k : KatRun := ⟨s.fld pg ffKatSeedHi_seed * 2 ^ 32 + s.fld pg ffKatSeedLo_seed, s.fld pg ffKatStream_stream,
      s.fld pg ffKatIndexHi_index * 2 ^ 32 + s.fld pg ffKatIndexLo_index⟩
    (s.withKats (SMap.set none (hamKey d h) (some k) s.kats)).setFld pg ffKatCtrl_start 1

/-- The test writes FF_KAT_OUT. -/
def execFfKatDone (d h : Nat) (s : State) : Host.Outcome State Fault Refusal :=
  let pg := fireflyPage d h
  match SMap.get none s.kats (hamKey d h) with
  | some k =>
    let s := s.withKats (SMap.set none (hamKey d h) none s.kats)
    .next (((s.setFld pg ffKatOut_out (firefly k.seed k.stream k.index)).setFld pg ffKatCtrl_start 0).setFld pg ffKatCtrl_done 1)
  | none => .next s

/-! ### What a write starts -/

/-- Bits that a write of 1 sets or starts. -/
def BusWr.starts (w : BusWr) (bit : Nat) : Bool := w.view != .clear && bitOf w.v.toNat bit

/-- Alerts that a set-view write of WM_ALERT raises, as their events would. -/
def raiseAlerts (v : Nat) : List FieldRow → State → State
  | [], s => s
  | f :: fs, s => raiseAlerts v fs (if bitOf v f.lo then s.alert f else s)

/-- The alert bits. -/
def alertRows : List FieldRow := [wmAlert_fault, wmAlert_thermal, wmAlert_repair, wmAlert_hostLink, wmAlert_withdrawal, wmAlert_bootFail]

/-- The actions of a write on a page of the Square die. `c` is the word with every field as the write would leave it. -/
def State.squareAct (s : State) (w : BusWr) (armed : Bool) (c : Nat) : State :=
  match w.p.type, w.x with
  | .squareCtrl, 0x05C => if w.starts 0 then s.snapAll (s.fld w.p sqSnapAll_clear == 1) else s
  | .host, 0x208 => if w.view = .direct then s.fieldCmd w.p.i w.v.toNat else s
  | .watchman, 0x048 => if w.view = .set then raiseAlerts w.v.toNat alertRows s else s
  | .meridian, 0x044 => if armed then s.setSource (bitsOf c 1 0) else s
  | .meridian, 0x048 => if armed then s.setRate (bitsOf c 19 0) (bitsOf c 20 20) else s
  | .meridian, 0x04C =>
    let n := viewed w.view s.videoL (getField w.v 11 0)
    if armed && n != 0 then s.setLines n else s
  | .meridian, 0x060 => s.armFrame
  | .meridian, 0x068 => if armed then s.setTransit else s
  | .meridian, 0x078 => if armed then s.domainSet else s
  | .almanac, 0x04C =>
    let r := almRecord (s.almEntry (s.fld w.p almIndex_entry))
    (numsFrom 0 8).foldl (fun s i => s.setFld w.p almData_data (r / 2 ^ (32 * i) % 2 ^ 32) i) s
  | .cue, 0x048 => s.setCueIndex w.m (c % 4096)
  | .cue, 0x04C => s.cueDataWrite w.m (if w.view = .direct then 0x7F else w.v.toNat % 128)
      (if w.view = .clear then 0 else w.v.toNat % 128)
  | .cue, 0x050 => s.setCueGroup w.m (c % 64)
  | .cue, 0x054 => if armed then s.cueGroupWrite w.m (c % 64) else s
  | .power, 0x044 => if w.starts 2 then s.requestNight else s
  | .power, 0x048 => s.capWrite 1 (bitsOf c 11 0)
  | .power, 0x04C => s.capWrite 2 (bitsOf c 6 0)
  | .power, 0x05C => if w.view = .direct then s.dieCmd (bitsOf w.v.toNat 2 0) (bitsOf w.v.toNat 5 4) else s
  | .fault, 0x04C => if armed && w.m = .watchman then s.fenceWrite (bitsOf c 7 0) else s
  | .ferryPkg, 0x050 => if w.view = .direct then s.routeCmd w.v.toNat else s
  | .ferryPkg, 0x068 => if w.view = .direct then s.fjCmd (w.v.toNat % 4) else s
  | _, _ => s

/-- The actions of a write on the other pages. `before` is the state before the write. -/
def State.unitAct (s before : State) (w : BusWr) (armed : Bool) (c : Nat) : State :=
  match w.p.type, w.x with
  | .fault, 0x044 => noteStates before (if armed && s.loader.jobs.isEmpty then s.resetMap else s)
  | .hamlet, 0x04C =>
    if w.view = .direct then s.setReeve w.p.die w.p.i { s.reeve w.p.die w.p.i with beat := s.now } else s
  | .firefly, 0x044 => if w.starts 0 then s.katStart w.p.die w.p.i else s
  | .hbm, 0x060 => if armed && bitOf c 0 then s.marginStart w.p.i else s
  | .ferry, 0x044 =>
    let was := before.fld w.p flCtrl_enable
    let is := s.fld w.p flCtrl_enable
    if was = 1 && is = 0 then s.portDown w.p.die w.p.i
    else if (was = 0 && is = 1) || w.starts 4 then s.retrain w.p.die w.p.i
    else s
  | .ring, 0x014 => s.ringDoorbell w.p.i w.p.j (bitsOf c 15 0)
  | .ring, 0x024 => s.ringConsume w.p.i w.p.j (bitsOf c 15 0)
  | .ring, _ => s.ringChanged before w.p.i w.p.j
  | .host, x =>
    if 0x100 ≤ x && x < 0x180 then
      let ch := (x - 0x100) / 0x20
      match x % 0x20 with
      | 0x0C => s.dmaDoorbell w.p.i ch (bitsOf c 11 0)
      | 0x00 | 0x04 | 0x08 => s.dmaChanged before w.p.i ch
      | _ => s
    else s
  | _, _ => s

/-- The actions of a write of a common register: the captured fault is cleared (R427), a snapshot is taken (R428). -/
def State.commonAct (s : State) (w : BusWr) : State :=
  match w.x with
  | 0x024 =>
    if w.p.type.hasFault && w.view != .set && bitOf w.v.toNat 31 then (s.setReg (w.p.reg 0x024) 0).setReg (w.p.reg 0x028) 0 else s
  | 0x030 =>
    if w.p.type.counters != [] && w.starts 0 then s.snapPage w.p (getField (s.reg (w.p.reg 0x030)) 2 2 == 1) s.transit else s
  | _ => s

/-- The write takes effect in its register (R5, R6), and its actions follow. A rise of the page's attention is
reported (R426). -/
def State.applyWrite (s : State) (w : BusWr) (armed : Bool) : State :=
  let fs := w.p.type.fieldsAt w.x
  let old := match w.p.type with
    | .cue => s.regNow w.m w.p w.x
    | _ => s.reg (w.p.reg w.x)
  let s := if w.m != .watchman && fs.any (watchmanOnly w.p) then s.deny w.m else s
  let c := w.merge s armed old fs
  let kept := fs.filter fun f => !actionField f && !(w.view == .set && w.p.type == .watchman && w.x == 0x048)
  let s1 := if fs.isEmpty || (w.p.type == .cue && w.x != 0x044 && 0x040 ≤ w.x) then s
    else s.setReg (w.p.reg w.x) (w.merge s armed (s.reg (w.p.reg w.x)) kept)
  let s2 := if w.p.type = .ring then s1 else s1.commonAct w
  let s3 := (s2.squareAct w armed c.toNat).unitAct s w armed c.toNat
  if w.p.type != .ring && [0x014, 0x018, 0x01C].contains w.x then attnRise s s3 w.p else s3

/-! ### Ownership and the guard (R407, R408, R420 to R424, R433) -/

/-- The owner that judges a write: a doorbell page follows the function's HOST page. -/
def State.ownerOf (s : State) (p : Page) : Nat := if p.type = .ring then s.owner (hostPage p.i) else s.owner p

/-- The guard is armed for this write (R421). -/
def State.guardMatches (s : State) (w : BusWr) : Bool :=
  match SMap.get none s.guards w.p.base with
  | some g => g.byWatchman == (w.m == .watchman) && g.offset == w.raw
  | none => false

/-- What a write of PAGE_KEY leaves of the guard. -/
def keyGuard (m : Master) (v : Nat) : Option Guard :=
  if bitsOf v 31 24 = 0x5E && bitsOf v 23 12 = 0 then some ⟨m == .watchman, v % 4096⟩ else none

/-- A write that reached its page: judged by ownership, then it disarms the guard and takes effect. -/
def State.pageWrite (s : State) (w : BusWr) : State :=
  let ownerWrite := w.p.type != .ring && w.x == 0x008 && w.m == .watchman
  if !ownerWrite && !ownerAllows (s.ownerOf w.p) w.m then s.deny w.m
  else if w.p.type = .ring then s.applyWrite w false
  else
    let armed := s.guardMatches w
    let g := if w.x = 0x00C && w.view = .direct then keyGuard w.m w.v.toNat else none
    (s.withGuards (SMap.set none w.p.base g s.guards)).applyWrite w armed

/-- A write of an address by a master (R417). A page under R430 ignores it. -/
def State.busWrite (s : State) (m : Master) (a : Nat) (v : Word) : State :=
  match resolve m a with
  | none => s
  | some (p, raw) =>
    let x := viewAt p raw
    if !s.reaches m p || !writable m p x.2 || !s.served p then s else s.pageWrite ⟨m, p, raw, x.1, x.2, v⟩

/-- A Bell slot of BAR4 (Table BUND-9). -/
def State.bellSlotWrite (s : State) (f o : Nat) (v : Word) : State :=
  let d := o / 16 / 4096
  let b := o / 16 % 4096
  if o % 16 = 4 then s.bellWrite f d b bellSetOp v else if o % 16 = 8 then s.bellWrite f d b bellAddOp v else s

/-- A write by a command; of another size or alignment it is discarded (R395). -/
def State.writeCmd (s : State) (m : Master) (a : Nat) (v : Word) (size : Nat := 4) : State :=
  if a % 4 ≠ 0 || size ≠ 4 then s
  else match m with
    | .host f =>
      if 0x4000000 ≤ a && a < 0x4080000 then
        if s.hostPath f then s.bellSlotWrite f (a - 0x4000000) v else s
      else s.busWrite m a v
    | .watchman => s.busWrite m a v

/-! ### The commands -/

def execRegisterWrite (m : Master) (a : RegAccess) (v : Word) (s : State) : Host.Outcome State Fault Refusal :=
  .next (s.writeCmd m a.addr v a.size)

/-- PAGE_KEY of the page at a page number of BAR0. -/
def execPageKey (m : Master) (page : Nat) (v : Word) (s : State) : Host.Outcome State Fault Refusal :=
  .next (s.busWrite m (page * 0x1000 + 0x00C) v)

def execPageOwnerWrite (m : Master) (page : Nat) (v : Word) (s : State) : Host.Outcome State Fault Refusal :=
  .next (s.busWrite m (page * 0x1000 + 0x008) v)

/-- A write whose address lies in a set view. -/
def execSetViewWrite (m : Master) (a : Nat) (v : Word) (s : State) : Host.Outcome State Fault Refusal :=
  .next (if a % 0x1000 / 0x400 = 1 then s.writeCmd m a v else s)

/-- A write whose address lies in a clear view. -/
def execClearViewWrite (m : Master) (a : Nat) (v : Word) (s : State) : Host.Outcome State Fault Refusal :=
  .next (if a % 0x1000 / 0x400 = 2 then s.writeCmd m a v else s)

/-- A write of 1 to FAULT_CODE.valid. -/
def execFaultCodeClear (m : Master) (page : Nat) (s : State) : Host.Outcome State Fault Refusal :=
  .next (s.busWrite m (page * 0x1000 + 0x024) 0x80000000#32)

def execSnapCtrlTake (m : Master) (page : Nat) (v : Word) (s : State) : Host.Outcome State Fault Refusal :=
  .next (s.busWrite m (page * 0x1000 + 0x030) v)

def execSqSnapAll (m : Master) (v : Word) (s : State) : Host.Outcome State Fault Refusal :=
  .next (s.busWrite m ((sqPage .squareCtrl).reg 0x05C) v)

def execFaultFenceWrite (m : Master) (v : Word) (s : State) : Host.Outcome State Fault Refusal :=
  .next (s.busWrite m ((sqPage .fault).reg 0x04C) v)

def execDieCmdWrite (m : Master) (v : Word) (s : State) : Host.Outcome State Fault Refusal :=
  .next (s.busWrite m (powerPage.reg 0x05C) v)

/-- A write of 1 to POWER_CTRL.nightwatch, through the set view, which leaves the other bits. -/
def execNightwatchRequest (m : Master) (s : State) : Host.Outcome State Fault Refusal :=
  .next (s.busWrite m (powerPage.reg 0x444) 4)

def execPowerCapWrite (m : Master) (v : Word) (s : State) : Host.Outcome State Fault Refusal :=
  .next (s.busWrite m (powerPage.reg 0x048) v)

def execThermalCapWrite (m : Master) (v : Word) (s : State) : Host.Outcome State Fault Refusal :=
  .next (s.busWrite m (powerPage.reg 0x04C) v)

def execMerCtrlSourceWrite (m : Master) (v : Word) (s : State) : Host.Outcome State Fault Refusal :=
  .next (s.busWrite m (merPage.reg 0x044) v)

def execMerRateWrite (m : Master) (v : Word) (s : State) : Host.Outcome State Fault Refusal :=
  .next (s.busWrite m (merPage.reg 0x048) v)

def execMerSetLo (m : Master) (v : Word) (s : State) : Host.Outcome State Fault Refusal := .next (s.busWrite m (merPage.reg 0x068) v)

def execMerFrameNextLo (m : Master) (v : Word) (s : State) : Host.Outcome State Fault Refusal :=
  .next (s.busWrite m (merPage.reg 0x060) v)

def execAlmIndex (m : Master) (v : Word) (s : State) : Host.Outcome State Fault Refusal :=
  .next (s.busWrite m ((sqPage .almanac).reg 0x04C) v)

def execAlmCtrlWrite (m : Master) (v : Word) (s : State) : Host.Outcome State Fault Refusal :=
  .next (s.busWrite m ((sqPage .almanac).reg 0x044) v)

def execCueDataWrite (m : Master) (v : Word) (s : State) : Host.Outcome State Fault Refusal :=
  .next (s.busWrite m ((sqPage .cue).reg 0x04C) v)

def execCueGroupOwner (m : Master) (v : Word) (s : State) : Host.Outcome State Fault Refusal :=
  .next (s.busWrite m ((sqPage .cue).reg 0x054) v)

/-- A write of 1 to FL_CTRL.retrain, through the set view, which leaves the other bits. -/
def execRetrain (m : Master) (d p : Nat) (s : State) : Host.Outcome State Fault Refusal :=
  .next (if portOk d p then s.busWrite m ((portPage d p).reg 0x444) 16 else s)

def execRouteCmdLoad (m : Master) (s : State) : Host.Outcome State Fault Refusal :=
  .next (s.busWrite m ((sqPage .ferryPkg).reg 0x050) 1)

def execBind (m : Master) (s : State) : Host.Outcome State Fault Refusal := .next (s.busWrite m ((sqPage .ferryPkg).reg 0x068) 1)

def execUnbind (m : Master) (s : State) : Host.Outcome State Fault Refusal := .next (s.busWrite m ((sqPage .ferryPkg).reg 0x068) 2)

def execFfKatStart (m : Master) (d h : Nat) (s : State) : Host.Outcome State Fault Refusal :=
  .next (if hamletOk d h then s.busWrite m ((fireflyPage d h).reg 0x044) 1 else s)

def execHbmMarginStart (m : Master) (stack : Nat) (v : Word) (s : State) : Host.Outcome State Fault Refusal :=
  .next (if stack < 16 then s.busWrite m ((hbmPage stack).reg 0x060) v else s)

/-- FIELD_CMD written with op MAP. -/
def execMap (m : Master) (f : Nat) (v : Word) (s : State) : Host.Outcome State Fault Refusal :=
  .next (if v.toNat % 4 = 1 then s.busWrite m (hostAddr m f + 0x208) v else s)

/-- FIELD_CMD written with op UNMAP. -/
def execUnmap (m : Master) (f : Nat) (v : Word) (s : State) : Host.Outcome State Fault Refusal :=
  .next (if v.toNat % 4 = 2 then s.busWrite m (hostAddr m f + 0x208) v else s)

def execDmaTail (m : Master) (f ch : Nat) (v : Word) (s : State) : Host.Outcome State Fault Refusal :=
  .next (if ch < 4 then s.busWrite m (hostAddr m f + 0x100 + ch * 0x20 + 0x0C) v else s)

def execDmaCtrlWrite (m : Master) (f ch : Nat) (v : Word) (s : State) : Host.Outcome State Fault Refusal :=
  .next (if ch < 4 then s.busWrite m (hostAddr m f + 0x100 + ch * 0x20 + 0x08) v else s)

def execRingTail (f ring : Nat) (v : Word) (s : State) : Host.Outcome State Fault Refusal :=
  .next (if ring < 64 then s.busWrite (.host f) (0x4080000 + ring * 0x40 + 0x14) v else s)

def execCmplHead (f ring : Nat) (v : Word) (s : State) : Host.Outcome State Fault Refusal :=
  .next (if ring < 64 then s.busWrite (.host f) (0x4080000 + ring * 0x40 + 0x24) v else s)

def execRingCtrlWrite (f ring : Nat) (v : Word) (s : State) : Host.Outcome State Fault Refusal :=
  .next (if ring < 64 then s.busWrite (.host f) (0x4080000 + ring * 0x40 + 0x08) v else s)

end Sys2Proof.Machine
end

