-- ==== Sys2Proof/Machine/Sieve.lean ====
section
/-! DEFINITION. The Sieve's operations (06_sieve.md): operands, element-wise operations, reductions, softmax,
normalisation, SIGNAL and WAIT. -/

namespace Sys2Proof.Machine

/-! ### Operands (R142, R481) -/

/-- An operation under way on a unit: its place, its run and job, and the rows of dst it acts on. -/
structure OpCtx where
  d : Nat
  h : Nat
  run : Nat
  job : Nat
  slots : List (Nat × SlotDecl)
  consts : List Word
  tensors : List TensorDecl
  attn : List AttnDecl := []
  deriving DecidableEq, Repr

/-- The entry of an operand slot. -/
def OpCtx.slot (c : OpCtx) (n : Nat) : Option SlotDecl := (c.slots.find? fun p => p.1 == n).map (·.2)

/-- The tensor of an operand slot. -/
def OpCtx.tensor (c : OpCtx) (n : Nat) : Option TensorDecl := (c.slot n).bind fun x => findTensor c.tensors x.tensor

/-- An entry of the constant table. -/
def OpCtx.const (c : OpCtx) (k : Nat) : Word := c.consts.getD k 0

/-- The rows of a slot's tensor that the unit holds. -/
def OpCtx.rows (c : OpCtx) (n : Nat) : List Nat :=
  match c.slot n, c.tensor n with
  | some x, some t =>
    match x.part with
    | some (a, k) => (numsFrom a k).filter fun r => decide (r < t.rows)
    | none => numsFrom 0 t.rows
  | _, _ => []

/-- The tables of the run of a Sieve operation. -/
def State.sieveCtx (s : State) (d h run : Nat) : Option OpCtx :=
  match s.run? run with
  | some r => (r.piece.sieves.find? fun p => p.die == r.logical && p.hamlet == h).map fun p =>
      ⟨d, h, run, r.job, p.slots, p.consts, s.tensorsOf r, p.attn⟩
  | none => none

/-- The element of a source for position (r, col) of a dst of some shape (R481). -/
def State.srcElem (s : State) (c : OpCtx) (dst t : TensorDecl) (r col : Nat) : Elem :=
  match t.loc with
  | .firefly _ => s.operandElem c.d c.h c.job c.run t r col
  | _ =>
    s.operandElem c.d c.h c.job c.run t (if t.rows = 1 && dst.rows ≠ 1 then 0 else r)
      (if t.cols = 1 && dst.cols ≠ 1 then 0 else col)

/-- A source: a tensor, or a constant. -/
inductive Src where
  | tensor (t : TensorDecl)
  | const (w : Word)
  deriving DecidableEq, Repr

/-- The source that a slot field names: slot 0xF stands for a constant. -/
def OpCtx.src (c : OpCtx) (n k : Nat) : Option Src := if n = 0xF then some (.const (c.const k)) else (c.tensor n).map .tensor

def State.srcVal (s : State) (c : OpCtx) (dst : TensorDecl) (x : Src) (r col : Nat) : Elem :=
  match x with
  | .const w => .val (f32Val w)
  | .tensor t => s.srcElem c dst t r col

/-- A row of a source along `n` columns. -/
def State.srcRow (s : State) (c : OpCtx) (dst : TensorDecl) (x : Src) (n r : Nat) : List Elem :=
  (numsFrom 0 n).map (s.srcVal c dst x r)

def Elem.here : Elem → Bool
  | .absent => false
  | _ => true

/-- The FP32 value of an element, none where masked (R117). An MX element beyond the FP32 range follows the operation's
overflow mode (R49). -/
def Elem.word (ieee : Bool) : Elem → Option Word
  | .val v => some (f32RoundIn (if ieee then .ieee else .sat) v).1
  | _ => none

/-- The element counts a saturated conversion as an operation in SAT mode reads it. -/
def Elem.overs : Elem → Bool
  | .val v => (f32RoundIn .sat v).2
  | _ => false

/-- Elements of the sources that saturate as an operation reads them, one for each position of dst (DEDUCED, log 17). -/
def State.overCount (s : State) (c : OpCtx) (dst : TensorDecl) (ieee : Bool) (rows : List Nat) (n : Nat) (xs : List Src) : Nat :=
  if ieee then 0
  else natSum (xs.map fun x => natSum (rows.map fun r => ((s.srcRow c dst x n r).filter Elem.overs).length))

/-- Every element of a source at the positions of dst is there (R144). -/
def State.srcHere (s : State) (c : OpCtx) (dst : TensorDecl) (rows : List Nat) (n : Nat) (x : Src) : Bool :=
  rows.all fun r => (s.srcRow c dst x n r).all Elem.here

/-! ### Results (R58, R139) -/

/-- What an operation has written so far: dst's buffer and the counts of its events. -/
structure OpOut where
  data : TData
  sat : Nat := 0
  lost : Nat := 0
  empty : Nat := 0
  deriving DecidableEq, Repr

/-- A position that takes no output keeps what it holds; one that holds nothing counts as masked. -/
def putCell (t : TensorDecl) (r c : Nat) (v : Option Nat) (x : TData) : TData :=
  match v with
  | some n => x.setCell t r c (some (some n))
  | none => if (x.cell t r c).isNone then x.setCell t r c (some none) else x

/-- Write a row of converted results from column 0, where the operation covers the column. -/
def OpOut.putRow (o : OpOut) (t : TensorDecl) (r : Nat) (w : OutRow) (covers : Nat → Bool := fun _ => true) : OpOut :=
  let data := (w.codes.zipIdx).foldl (fun x cv => if covers cv.2 then putCell t r cv.2 cv.1 x else x) o.data
  let data := (w.scales.zipIdx).foldl (fun x sb => match sb.1 with
    | some n => x.setScale t r sb.2 n
    | none => x) data
  { o with data := data, sat := o.sat + w.sat, lost := o.lost + w.lost }

/-- Convert a row of results and write it. -/
def OpOut.put (o : OpOut) (t : TensorDecl) (ieee : Bool) (r : Nat) (vs : List (Option FVal))
    (covers : Nat → Bool := fun _ => true) : OpOut :=
  o.putRow t r (outRow t.fmt ieee vs) covers

/-- A row of results, each with whether it is the canonical NaN of a set that holds a NaN or an infinity: that NaN counts no event,
whatever the format (R133, R138, R179). -/
def OpOut.putSet (o : OpOut) (t : TensorDecl) (ieee : Bool) (r : Nat) (vs : List (Option (FVal × Bool)))
    (covers : Nat → Bool := fun _ => true) : OpOut :=
  { o.put t ieee r (vs.map fun v => v.map (·.1)) covers with
    lost := o.lost + (outRow t.fmt ieee (vs.map fun v => v.bind fun p => if p.2 then none else some p.1)).lost }

/-- A row of sums, each with whether a sum inside it has saturated: an element counts at most one event, be it for a sum inside it
or for the result (DESIGN CHOICE, logs 13 and 16). -/
def OpOut.putSums (o : OpOut) (t : TensorDecl) (ieee : Bool) (r : Nat) (vs : List (FVal × Bool)) : OpOut :=
  let x := o.put t ieee r (vs.map fun v => some v.1)
  { x with sat := x.sat + (vs.filter fun v => v.2 && !(outElem t.fmt ieee v.1).2.1).length }

/-- A row of INT32 words written unchanged (R117). -/
def OpOut.putInts (o : OpOut) (t : TensorDecl) (r : Nat) (vs : List (Option (Word × Bool))) : OpOut :=
  o.putRow t r ⟨vs.map fun v => v.map (·.1.toNat), [], (vs.filter fun v => (v.map (·.2)) == some true).length, 0⟩

/-- Store what an operation wrote and count its events (R48, R146). -/
def State.opDone (s : State) (c : OpCtx) (t : TensorDecl) (o : OpOut) : State :=
  let pg := sievePage c.d c.h
  let s := s.setTdata (placeOf t c.d c.h) c.job t.id o.data
  let s := s.events pg sieve_satCount_count sieve_evtRaw_saturated o.sat
  let s := s.events pg sieve_nanlostCount_count sieve_evtRaw_nanLost o.lost
  s.events pg emptyRowCount_count sieve_evtRaw_emptyRow o.empty

/-- Firefly values delivered to the Sieve for a source, in groups of 256 (Table FIRE-5). -/
def State.countViews (s : State) (c : OpCtx) (n : Nat) : List Src → State
  | [] => s
  | .tensor t :: xs =>
    match t.loc with
    | .firefly _ => (s.bump (fireflyPage c.d c.h) valueCount_count (ceilDiv n 256)).countViews c n xs
    | _ => s.countViews c n xs
  | .const _ :: xs => s.countViews c n xs

/-! ### The queue (R143, R144) -/

/-- The head operation has left the queue and is counted. -/
def State.sievePop (s : State) (d h : Nat) : State :=
  let x := s.sieve d h
  (s.setSieve d h { x with queue := x.queue.tail, waiting := false }).bump64 (sievePage d h) sieve_opCountLo_count
    sieve_opCountHi_count

/-- Run the head operation if its opcode is `op`: checked as it leaves the queue, started once its sources are there. DEDUCED
(log 14): FAULT_INFO.queue_index of a failing operation is 0, the head's place in the queue. -/
def State.sieveRun (s : State) (d h op : Nat) (f : OpCtx → BitVec 64 → Option State) : State :=
  let x := s.sieve d h
  match x.queue with
  | [] => s
  | e :: _ =>
    if !s.served (sievePage d h) || s.fld (sievePage d h) sieveCtrl_issueEn == 0 then s
    else match sieveOpFault e.word with
      | some r =>
        (s.setSieve d h { x with queue := x.queue.tail, waiting := false }).checkFault (sievePage d h)
          (infoOf [(r, 0), ((sieveOp e.word).opcode, 8)]) (s.runJob e.run)
      | none =>
        if (sieveOp e.word).opcode ≠ op then s
        else match (s.sieveCtx d h e.run).bind fun c => f c e.word with
          | some s2 => s2.sievePop d h
          | none => s

def execSieveNop (d h : Nat) (s : State) : Host.Outcome State Fault Refusal :=
  .next (s.sieveRun d h 0x00 fun _ _ => some s)

/-! ### Element-wise operations (R118, R119, R124) -/

/-- A function of n sources along row r of dst; none where one of them is masked. -/
def State.mapRow (s : State) (c : OpCtx) (t : TensorDecl) (ieee : Bool) (xs : List Src) (f : List Word → FVal) (r : Nat) :
    List (Option FVal) :=
  (numsFrom 0 t.cols).map fun col =>
    let ws := xs.map fun x => (s.srcVal c t x r col).word ieee
    if ws.all Option.isSome then some (f (ws.filterMap id)) else none

/-- Apply a function of n sources at every position of dst. -/
def State.mapSources (s : State) (c : OpCtx) (w : BitVec 64) (srcs : List (Option Src))
    (f : List Word → FVal) : Option State :=
  let o := sieveOp w
  match c.tensor o.dst with
  | none => none
  | some t =>
    let rows := c.rows o.dst
    if srcs.all fun x => match x with
      | some y => s.srcHere c t rows t.cols y
      | none => false
    then
      let xs := srcs.filterMap id
      let out := rows.foldl (fun (u : OpOut) r => u.put t o.ieee r (s.mapRow c t o.ieee xs f r))
        { data := s.tdata (placeOf t c.d c.h) c.job t.id, sat := s.overCount c t o.ieee rows t.cols xs }
      some ((s.countViews c (rows.length * t.cols) xs).opDone c t out)
    else none

/-- Functions of one, two and three words. -/
def fn1 (f : Word → FVal) : List Word → FVal
  | a :: _ => f a
  | _ => .nan
def fn2 (f : Word → Word → FVal) : List Word → FVal
  | a :: b :: _ => f a b
  | _ => .nan
def fn3 (f : Word → Word → Word → FVal) : List Word → FVal
  | a :: b :: c :: _ => f a b c
  | _ => .nan

def State.sieve1 (s : State) (d h op : Nat) (f : Word → FVal) : State :=
  s.sieveRun d h op fun c w => s.mapSources c w [c.src (sieveOp w).srcA 0] (fn1 f)
def State.sieve2 (s : State) (d h op : Nat) (f : Word → Word → FVal) : State :=
  s.sieveRun d h op fun c w =>
    let o := sieveOp w
    s.mapSources c w [c.src o.srcA 0, c.src o.srcB o.kA] (fn2 f)
def State.sieve3 (s : State) (d h op : Nat) (f : Word → Word → Word → FVal) : State :=
  s.sieveRun d h op fun c w =>
    let o := sieveOp w
    s.mapSources c w [c.src o.srcA 0, c.src o.srcB o.kA, c.src o.srcC o.kB] (fn3 f)

def execFma (d h : Nat) (s : State) : Host.Outcome State Fault Refusal := .next (s.sieve3 d h 0x01 fmaVal)
def execMin (d h : Nat) (s : State) : Host.Outcome State Fault Refusal :=
  .next (s.sieve2 d h 0x04 fun a b => f32Val (f32Min a b))
def execMax (d h : Nat) (s : State) : Host.Outcome State Fault Refusal :=
  .next (s.sieve2 d h 0x05 fun a b => f32Val (f32Max a b))
def execCmpLt (d h : Nat) (s : State) : Host.Outcome State Fault Refusal :=
  .next (s.sieve2 d h 0x06 fun a b => f32Val (f32CmpLt a b))
def execCmpEq (d h : Nat) (s : State) : Host.Outcome State Fault Refusal :=
  .next (s.sieve2 d h 0x07 fun a b => f32Val (f32CmpEq a b))
def execSelect (d h : Nat) (s : State) : Host.Outcome State Fault Refusal :=
  .next (s.sieve3 d h 0x08 fun a b c => f32Val (f32Select a b c))
def execCopysign (d h : Nat) (s : State) : Host.Outcome State Fault Refusal :=
  .next (s.sieve2 d h 0x09 fun a b => f32Val (f32CopySign a b))
def execExp2 (d h : Nat) (s : State) : Host.Outcome State Fault Refusal := .next (s.sieve1 d h 0x10 exp2F)
def execLog2 (d h : Nat) (s : State) : Host.Outcome State Fault Refusal :=
  .next (s.sieve1 d h 0x11 fun a => f32Val (f32Log2 a))
def execExpE (d h : Nat) (s : State) : Host.Outcome State Fault Refusal := .next (s.sieve1 d h 0x12 expEVal)
def execReciprocal (d h : Nat) (s : State) : Host.Outcome State Fault Refusal := .next (s.sieve1 d h 0x13 rcpVal)
def execRsqrt (d h : Nat) (s : State) : Host.Outcome State Fault Refusal := .next (s.sieve1 d h 0x14 rsqrtVal)
def execTanh (d h : Nat) (s : State) : Host.Outcome State Fault Refusal := .next (s.sieve1 d h 0x15 tanhVal)
def execSigmoid (d h : Nat) (s : State) : Host.Outcome State Fault Refusal := .next (s.sieve1 d h 0x16 sigmoidVal)
def execSilu (d h : Nat) (s : State) : Host.Outcome State Fault Refusal := .next (s.sieve1 d h 0x17 siluVal)
def execGelu (d h : Nat) (s : State) : Host.Outcome State Fault Refusal := .next (s.sieve1 d h 0x18 geluVal)

/-- GUMBEL (R126): r is the uniform integer of the view's element. -/
def State.gumbelOp (s : State) (c : OpCtx) (w : BitVec 64) : Option State :=
  let o := sieveOp w
  match c.tensor o.dst, c.tensor o.srcA with
  | some t, some u =>
    match u.loc with
    | .firefly e =>
      let v := fireflyView e
      let rows := c.rows o.dst
      let row (r : Nat) : List (Option FVal) :=
        (numsFrom 0 t.cols).map fun col => some (gumbelVal (ffUniform (s.viewOut c.run v r col)))
      let out := rows.foldl (fun (x : OpOut) r => x.put t o.ieee r (row r)) { data := s.tdata (placeOf t c.d c.h) c.job t.id }
      some ((s.countViews c (rows.length * t.cols) [.tensor u]).opDone c t out)
    | _ => none
  | _, _ => none

def execGumbel (d h : Nat) (s : State) : Host.Outcome State Fault Refusal := .next (s.sieveRun d h 0x19 s.gumbelOp)

/-! ### ADD and CONVERT, with their INT32 paths (R117) -/

/-- The INT32 word of an element. -/
def Elem.int : Elem → Option Int
  | .val (.fin n m e) => if 0 ≤ e then some ((if n then -1 else 1) * ((m * 2 ^ e.toNat : Nat) : Int)) else none
  | _ => none

/-- Integer rows: a function of the sources' INT32 words at every position. -/
def State.mapInts (s : State) (c : OpCtx) (w : BitVec 64) (xs : List Src) (f : List Int → Int) : Option State :=
  let o := sieveOp w
  match c.tensor o.dst with
  | none => none
  | some t =>
    let rows := c.rows o.dst
    if xs.all (s.srcHere c t rows t.cols) then
      let row (r : Nat) : List (Option (Word × Bool)) :=
        (numsFrom 0 t.cols).map fun col =>
          let is := xs.map fun x => (s.srcVal c t x r col).int
          if is.all Option.isSome then some (i32Clamp (f (is.filterMap id))) else none
      let out := rows.foldl (fun (u : OpOut) r => u.putInts t r (row r)) { data := s.tdata (placeOf t c.d c.h) c.job t.id }
      some (s.opDone c t out)
    else none

/-- ADD: exact in INT32, saturating, where dst is an INT32 partial tensor; otherwise FP32. -/
def State.addOp (s : State) (c : OpCtx) (w : BitVec 64) : Option State :=
  let o := sieveOp w
  match c.src o.srcA 0, c.src o.srcB o.kA, c.tensor o.dst with
  | some a, some b, some t =>
    if t.int32 then s.mapInts c w [a, b] fun is => is.foldl (· + ·) 0
    else s.mapSources c w [some a, some b] (fn2 fun x y => (f32Val x).add (f32Val y))
  | _, _, _ => none

/-- CONVERT: an INT32 word is written unchanged into an INT32 partial tensor. -/
def State.convertOp (s : State) (c : OpCtx) (w : BitVec 64) : Option State :=
  let o := sieveOp w
  match c.src o.srcA 0, c.tensor o.dst with
  | some a, some t =>
    if t.int32 then s.mapInts c w [a] fun is => is.foldl (· + ·) 0
    else s.mapSources c w [some a] (fn1 f32Val)
  | _, _ => none

def execAdd (d h : Nat) (s : State) : Host.Outcome State Fault Refusal := .next (s.sieveRun d h 0x02 s.addOp)
def execConvert (d h : Nat) (s : State) : Host.Outcome State Fault Refusal := .next (s.sieveRun d h 0x20 s.convertOp)

/-! ### Row reductions (R127, R128) -/

/-- The columns of a source: a Firefly view has those of its ref_tensor (R293). -/
def OpCtx.width (c : OpCtx) (a : TensorDecl) : Nat :=
  match a.loc with
  | .firefly e => ((findTensor c.tensors (fireflyView e).refTensor).map (·.cols)).getD a.cols
  | _ => a.cols

/-- One row's result; it counts at most one event, be it for a sum inside the reduction or for the result (DESIGN CHOICE, log 13). -/
def OpOut.putOne (u : OpOut) (t : TensorDecl) (ieee : Bool) (r : Nat) (v : FVal × Bool) : OpOut :=
  let x := u.put t ieee r [some v.1]
  { x with sat := if v.2 then max x.sat (u.sat + 1) else x.sat }

/-- One value per source row, into column 0 of dst: a function of the overflow mode and the row's words gives it and whether a
value inside the reduction saturated. -/
def State.reduceOp (f : Bool → List (Option Word) → FVal × Bool) (s : State) (c : OpCtx) (w : BitVec 64) : Option State :=
  let o := sieveOp w
  match c.tensor o.dst, c.tensor o.srcA with
  | some t, some a =>
    let rows := c.rows o.dst
    let n := c.width a
    if s.srcHere c a rows n (.tensor a) then
      let out := rows.foldl (fun (u : OpOut) r =>
        u.putOne t o.ieee r (f o.ieee ((s.srcRow c a (.tensor a) n r).map (Elem.word o.ieee))))
        { data := s.tdata (placeOf t c.d c.h) c.job t.id, sat := s.overCount c a o.ieee rows n [.tensor a] }
      some ((s.countViews c (rows.length * n) [.tensor a]).opDone c t out)
    else none
  | _, _ => none

/-- RMAX and ARGMAX of a row. -/
def rowMaxVal (_ : Bool) (xs : List (Option Word)) : FVal × Bool := (f32Val ((rowMax xs).getD maskValue), false)
def rowArgVal (_ : Bool) (xs : List (Option Word)) : FVal × Bool := (.fin false (rowArgmax xs) 0, false)

def execRsum (d h : Nat) (s : State) : Host.Outcome State Fault Refusal := .next (s.sieveRun d h 0x21 (s.reduceOp rowSum))
def execRmax (d h : Nat) (s : State) : Host.Outcome State Fault Refusal := .next (s.sieveRun d h 0x22 (s.reduceOp rowMaxVal))
def execArgmax (d h : Nat) (s : State) : Host.Outcome State Fault Refusal := .next (s.sieveRun d h 0x23 (s.reduceOp rowArgVal))

/-! ### Softmax (R129 to R134) -/

/-- The mask tensor marks position (r, c) (R129). -/
def State.maskBit (s : State) (c : OpCtx) (m : TensorDecl) (r col : Nat) : Bool :=
  match s.operandElem c.d c.h c.job c.run m r (col / 8) with
  | .val (.fin _ v e) => bitOf (v * 2 ^ e.toNat) (col % 8)
  | _ => false

/-- m and l of a row go to the two columns of the statistics tensor (R134); a row with no tag-valid position writes nothing. -/
def State.putStats (s : State) (c : OpCtx) (t : TensorDecl) (rows : List (Nat × Option (Word × Word))) : State :=
  let place := placeOf t c.d c.h
  let x := rows.foldl (fun (x : TData) p =>
    (putCell t p.1 1 (p.2.map fun v => v.2.toNat) (putCell t p.1 0 (p.2.map fun v => v.1.toNat) x))) (s.tdata place c.job t.id)
  s.setTdata place c.job t.id x

/-- The statistics tensor of an operation, when one is bound to slot dst + 1, takes them. -/
def State.bindStats (s : State) (c : OpCtx) (dst : Nat) (rows : List (Nat × Option (Word × Word))) : State :=
  match c.tensor (dst + 1) with
  | some st => if dst + 1 < 0xF then s.putStats c st rows else s
  | none => s

/-- The columns that a softmax takes of its source: those of the slot's window, else all (R177, R180). -/
def OpCtx.covers (c : OpCtx) (slot col : Nat) : Bool :=
  match (c.slot slot).bind (·.window) with
  | some (a, n) => decide (a ≤ col) && decide (col < a + n)
  | none => true

/-- The mask tensor of a softmax. -/
def OpCtx.mask (c : OpCtx) (o : SieveOp) : Option TensorDecl := if o.maskMode = 1 then c.tensor o.srcC else none

/-- The positions of row r of a softmax: none outside the window and where a tag masks. -/
def State.smaxRow (s : State) (c : OpCtx) (o : SieveOp) (t a : TensorDecl) (r : Nat) : List (Option SmaxPos) :=
  ((s.srcRow c t (.tensor a) t.cols r).zipIdx).map fun p =>
    if c.covers o.srcA p.2 then (p.1.word o.ieee).map fun x =>
      smaxPos (c.const o.kA) x (match c.mask o with
        | some m => s.maskBit c m r p.2
        | none => false)
    else none

/-- The scores of the window and the mask tensor are there. -/
def State.smaxHere (s : State) (c : OpCtx) (o : SieveOp) (t a : TensorDecl) : Bool :=
  (c.rows o.dst).all fun r =>
    (((s.srcRow c t (.tensor a) t.cols r).zipIdx).all fun p => !c.covers o.srcA p.2 || p.1.here)
      && match c.mask o with
        | some m => (numsFrom 0 m.cols).all fun j => (s.operandElem c.d c.h c.job c.run m r j).here
        | none => o.maskMode == 0

/-- Scores that saturate as the softmax reads them (DEDUCED, log 17). -/
def State.smaxOvers (s : State) (c : OpCtx) (o : SieveOp) (t a : TensorDecl) : Nat :=
  if o.ieee then 0
  else natSum ((c.rows o.dst).map fun r =>
    (((s.srcRow c t (.tensor a) t.cols r).zipIdx).filter fun p => c.covers o.srcA p.2 && p.1.overs).length)

/-! ### The running softmax of attention (R177 to R179) -/

/-- The word in column 0 of a tensor of an attention head, if one is there. -/
def State.attnWord (s : State) (c : OpCtx) (id r : Nat) : Option Word :=
  match findTensor c.tensors id with
  | some t => ((s.tdata (placeOf t c.d c.h) c.job t.id).cell t r 0).bind fun v => v.map (BitVec.ofNat 32)
  | none => none

/-- Change the cells of a tensor of an attention head. -/
def State.attnCells (s : State) (c : OpCtx) (id : Nat) (f : TensorDecl → TData → TData) : State :=
  match findTensor c.tensors id with
  | some t => s.setTdata (placeOf t c.d c.h) c.job t.id (f t (s.tdata (placeOf t c.d c.h) c.job t.id))
  | none => s

/-- m and l of a row; a row that no block has met holds MASK_VALUE and +0 (R177). -/
def State.attnM (s : State) (c : OpCtx) (h : AttnDecl) (r : Nat) : Word := (s.attnWord c h.m r).getD maskValue
def State.attnL (s : State) (c : OpCtx) (h : AttnDecl) (r : Nat) : Word := (s.attnWord c h.l r).getD f32Zero

/-- Column 0 of rows: a word, or a masked cell. -/
def putColumn (rows : List (Nat × Option Word)) (t : TensorDecl) (x : TData) : TData :=
  rows.foldl (fun x p => x.setCell t p.1 0 (some (p.2.map BitVec.toNat))) x

/-- Every cell of rows. -/
def putRows (rows : List Nat) (v : Option (Option Nat)) (t : TensorDecl) (x : TData) : TData :=
  rows.foldl (fun x r => (numsFrom 0 t.cols).foldl (fun x j => x.setCell t r j v) x) x

/-- A block of keys meets the rows of dst: P, m, l and a are written, and o starts at +0 in a row that meets its first block.
A row that the block leaves as it is takes P = +0 and a masked a, so that the update of o leaves it (R178). -/
def State.attnStep (s : State) (c : OpCtx) (h : AttnDecl) (o : SieveOp) (t a : TensorDecl) : State :=
  let rows := c.rows o.dst
  let met := rows.map fun r =>
    let xs := s.smaxRow c o t a r
    (r, xs, attnBlock (s.attnM c h r) (s.attnL c h r) xs)
  let fresh := rows.filter fun r => (s.attnWord c h.m r).isNone
  let out := met.foldl (fun (u : OpOut) p =>
    u.put t o.ieee p.1 (match p.2.2 with
      | some b => b.e.map fun x => x.map f32Val
      | none => p.2.1.map fun x => x.map fun _ => .fin false 0 0) (c.covers o.srcA))
    { data := s.tdata (placeOf t c.d c.h) c.job t.id, sat := s.smaxOvers c o t a }
  let ms := met.map fun p => (p.1, (p.2.2.map (·.m)).getD (s.attnM c h p.1))
  let ls := met.map fun p => (p.1, (p.2.2.map (·.l)).getD (s.attnL c h p.1))
  let s := (s.opDone c t out).attnCells c h.o (putRows fresh (some (some 0)))
  let s := s.attnCells c h.m (putColumn (ms.map fun p => (p.1, some p.2)))
  let s := s.attnCells c h.l (putColumn (ls.map fun p => (p.1, some p.2)))
  s.attnCells c h.a (putColumn (met.map fun p => (p.1, p.2.2.map (·.a))))

/-- The end of the rows of an attention output: o × rcp(l) converted, +0 and one EMPTY_ROW event for a row whose every key was
masked, NaN for one with a NaN or +∞ score (R179). m and l go to the statistics tensor, and the rows of m, l, a and o are free for the next head
or tile (DEDUCED, log 13). -/
def State.attnEnd (s : State) (c : OpCtx) (h : AttnDecl) (o : SieveOp) (t : TensorDecl) (xs : List Src) : State :=
  let rows := c.rows o.dst
  let row (r : Nat) : List (Option (FVal × Bool)) :=
    let m := s.attnM c h r
    if m = maskValue then (numsFrom 0 t.cols).map fun _ => some (.fin false 0 0, false)
    else if f32IsNan m then (numsFrom 0 t.cols).map fun _ => some (.nan, true)
    else (s.mapRow c t o.ieee xs (fn2 mulVal) r).map fun v => v.map fun x => (x, false)
  let live := rows.filter fun r => s.attnM c h r != maskValue && !f32IsNan (s.attnM c h r)
  let out := rows.foldl (fun (u : OpOut) r =>
    let u := u.putSet t o.ieee r (row r)
    { u with empty := u.empty + if s.attnM c h r = maskValue then 1 else 0 })
    { data := s.tdata (placeOf t c.d c.h) c.job t.id, sat := s.overCount c t o.ieee live t.cols xs }
  let stats := rows.map fun r => (r, some (s.attnM c h r, s.attnL c h r))
  let s := ((s.countViews c (rows.length * t.cols) xs).opDone c t out).bindStats c o.dst stats
  [h.m, h.l, h.a, h.o].foldl (fun s id => s.attnCells c id (putRows rows none)) s

/-- MUL; the one into the output of an attention head ends its rows. -/
def State.mulOp (s : State) (c : OpCtx) (w : BitVec 64) : Option State :=
  let o := sieveOp w
  match c.src o.srcA 0, c.src o.srcB o.kA, c.tensor o.dst with
  | some a, some b, some t =>
    match c.attn.find? fun h => h.out == t.id with
    | some h =>
      if s.srcHere c t (c.rows o.dst) t.cols a && s.srcHere c t (c.rows o.dst) t.cols b then some (s.attnEnd c h o t [a, b]) else none
    | none => s.mapSources c w [some a, some b] (fn2 mulVal)
  | _, _, _ => none

def execMul (d h : Nat) (s : State) : Host.Outcome State Fault Refusal := .next (s.sieveRun d h 0x03 s.mulOp)

/-- A softmax over every row of src_a. SMAX_RUN into the weights of an attention head takes them block by block instead. -/
def State.smaxOp (f : List (Option SmaxPos) → SmaxRow) (s : State) (c : OpCtx) (w : BitVec 64) : Option State :=
  let o := sieveOp w
  match c.tensor o.dst, c.tensor o.srcA with
  | some t, some a =>
    if s.smaxHere c o t a then
      let rows := c.rows o.dst
      let s1 := s.countViews c (rows.length * t.cols) [.tensor a]
      match (if o.opcode = 0x28 then c.attn else []).find? fun h => h.p == t.id with
      | some h => some (s1.attnStep c h o t a)
      | none =>
        let ys := rows.map fun r => (r, f (s.smaxRow c o t a r))
        let out := ys.foldl (fun (u : OpOut) p =>
          let u := u.putSet t o.ieee p.1 (p.2.out.map fun x => x.map fun w => (f32Val w, f32IsNan p.2.m)) (c.covers o.srcA)
          { u with empty := u.empty + if p.2.live && p.2.empty then 1 else 0 })
          { data := s.tdata (placeOf t c.d c.h) c.job t.id, sat := s.smaxOvers c o t a }
        some ((s1.opDone c t out).bindStats c o.dst (ys.map fun p => (p.1, if p.2.live then some (p.2.m, p.2.l) else none)))
    else none
  | _, _ => none

def execSmaxRun (d h : Nat) (s : State) : Host.Outcome State Fault Refusal :=
  .next (s.sieveRun d h 0x28 (s.smaxOp smaxRunning))
def execSmaxExact (d h : Nat) (s : State) : Host.Outcome State Fault Refusal :=
  .next (s.sieveRun d h 0x29 (s.smaxOp smaxExact))

/-! ### Normalisation (R135 to R138) -/

/-- γ or β at a position of dst: the source of one row, a Firefly view's own element there (R293), or the value that slot 0xF
stands for. -/
def State.normCoef (s : State) (c : OpCtx) (dst : TensorDecl) (slot : Nat) (absent : Word) (r col : Nat) : Elem :=
  if slot = 0xF then .val (f32Val absent)
  else match c.tensor slot with
    | some t => s.srcElem c dst t r col
    | none => .absent

/-- One output of a set, and whether the set makes it NaN (R138). -/
def setOut (bad : Bool) (v : FVal) : FVal × Bool := (if bad then .nan else v, bad)

/-- One row of outputs from a set's statistics: `f` of x, γ and β. -/
def State.normRow (s : State) (c : OpCtx) (t : TensorDecl) (o : SieveOp) (useB : Bool) (f : Word → Word → Word → FVal × Bool)
    (r : Nat) (xs : List (Option Word)) : List (Option (FVal × Bool)) :=
  (xs.zipIdx).map fun p =>
    match p.1, (s.normCoef c t o.srcB f32One r p.2).word o.ieee,
          (if useB then s.normCoef c t o.srcC f32Zero r p.2 else .val (.fin false 0 0)).word o.ieee with
    | some x, some g, some b => some (f x g b)
    | _, _, _ => none

/-- γ and β are there. -/
def State.normHere (s : State) (c : OpCtx) (t : TensorDecl) (o : SieveOp) (useB : Bool) : Bool :=
  (numsFrom 0 t.cols).all fun j => (s.normCoef c t o.srcB f32One 0 j).here && (!useB || (s.normCoef c t o.srcC f32Zero 0 j).here)

/-- The rows of src_a as FP32 words. -/
def State.normIn (s : State) (c : OpCtx) (ieee : Bool) (t a : TensorDecl) (rows : List Nat) : List (Nat × List (Option Word)) :=
  rows.map fun r => (r, (s.srcRow c t (.tensor a) t.cols r).map (Elem.word ieee))

/-- γ and β where they are tensors. -/
def OpCtx.normSrcs (c : OpCtx) (o : SieveOp) (useB : Bool) : List Src :=
  ((if o.srcB = 0xF then none else c.tensor o.srcB).toList ++
    (if useB && o.srcC != 0xF then c.tensor o.srcC else none).toList).map .tensor

/-- Normalise the rows with a function from the rows to their outputs. -/
def State.normOp (useB : Bool) (f : OpCtx → SieveOp → TensorDecl → List (Nat × List (Option Word)) →
    List (Nat × List (Option (FVal × Bool)))) (s : State) (c : OpCtx) (w : BitVec 64) : Option State :=
  let o := sieveOp w
  match c.tensor o.dst, c.tensor o.srcA with
  | some t, some a =>
    let rows := c.rows o.dst
    if s.srcHere c t rows t.cols (.tensor a) && s.normHere c t o useB then
      let out := (f c o t (s.normIn c o.ieee t a rows)).foldl (fun (u : OpOut) p => u.putSet t o.ieee p.1 p.2)
        { data := s.tdata (placeOf t c.d c.h) c.job t.id,
          sat := s.overCount c t o.ieee rows t.cols (.tensor a :: c.normSrcs o useB) }
      some ((s.countViews c (rows.length * t.cols) (.tensor a :: c.normSrcs o useB)).opDone c t out)
    else none
  | _, _ => none

/-- Layer normalisation: a set is one row. -/
def State.layerRows (s : State) (c : OpCtx) (o : SieveOp) (t : TensorDecl) (rows : List (Nat × List (Option Word))) :
    List (Nat × List (Option (FVal × Bool))) :=
  rows.map fun p =>
    let st := setStat normCombine ((chunks128 p.2).map fun ch => chunkStat [ch])
    let sc := normScale st (normEps (c.const o.kA))
    (p.1, s.normRow c t o true (fun x g b => setOut (setBad [p.2]) (layerOut st sc x g b)) p.1 p.2)

/-- RMS normalisation. -/
def State.rmsRows (s : State) (c : OpCtx) (o : SieveOp) (t : TensorDecl) (rows : List (Nat × List (Option Word))) :
    List (Nat × List (Option (FVal × Bool))) :=
  rows.map fun p =>
    let st := setStat rmsCombine ((chunks128 p.2).map rmsStat)
    let sc := normScale st (normEps (c.const o.kA))
    (p.1, s.normRow c t o false (fun x g _ => setOut (setBad [p.2]) (rmsOut sc x g)) p.1 p.2)

/-- The part of a row in columns lo to hi − 1 of 128-column block j, at its column positions. -/
def groupPart (lo hi j : Nat) (row : List (Option Word)) : List (Option Word) :=
  (numsFrom (128 * j) 128).map fun col => if lo ≤ col && col < hi then (row.getD col none) else none

/-- The statistics and the NaN rule of one set (R137): columns lo to hi − 1 of the rows of an instance. -/
def groupStat (lo hi : Nat) (rows : List (List (Option Word))) : NormStat × Bool :=
  let blocks := chunksOf 128 (rows.length / 128 + 1) rows
  let cols := numsFrom (lo / 128) ((hi + 127) / 128 - lo / 128)
  let chunks := (blocks.map fun rb => cols.map fun j => chunkStat (rb.map (groupPart lo hi j))).flatten
  (setStat normCombine chunks, setBad (rows.map fun r => (r.take hi).drop lo))

/-- Rows of an instance for group normalisation; rows_per_instance comes from the src_a entry, 0 for the whole tensor. -/
def OpCtx.perInstance (c : OpCtx) (o : SieveOp) (t : TensorDecl) : Nat :=
  match c.slot o.srcA with
  | some x => if x.rowsPerInstance = 0 then t.rows else x.rowsPerInstance
  | none => t.rows

/-- The rows of an instance that src_a has; a view has those of dst (R293). -/
def instanceRows (rpi : Nat) (t a : TensorDecl) (r : Nat) : List Nat :=
  (numsFrom (r / rpi * rpi) rpi).filter fun q => decide (q < if isFirefly a then t.rows else a.rows)

/-- The Hamlet, as die and Hamlet, whose Sieve holds row r of a tensor: this one, or another that the piece gives part of it
(R137: any Sieve may evaluate a node). -/
def State.rowHolder (s : State) (c : OpCtx) (slot : Nat) (t : TensorDecl) (r : Nat) : Nat × Nat :=
  if (c.rows slot).contains r then (c.d, c.h)
  else
    let progs := match s.run? c.run with
      | some x => x.piece.sieves
      | none => []
    match progs.find? fun p => p.slots.any fun x => x.2.tensor == t.id && match x.2.part with
        | some (a, n) => decide (a ≤ r) && decide (r < a + n)
        | none => true with
    | some p => ((s.dieOf p.die).getD c.d, p.hamlet)
    | none => (c.d, c.h)

/-- Row r of src_a wherever it is held. -/
def State.heldRow (s : State) (c : OpCtx) (slot : Nat) (t a : TensorDecl) (r : Nat) : List Elem :=
  let at_ := s.rowHolder c slot a r
  s.srcRow { c with d := at_.1, h := at_.2 } t (.tensor a) t.cols r

/-- Group normalisation: sets of (group_cols + 1) × 8 columns over rows_per_instance rows. -/
def State.groupRows (s : State) (c : OpCtx) (o : SieveOp) (t : TensorDecl) (rows : List (Nat × List (Option Word))) :
    List (Nat × List (Option (FVal × Bool))) :=
  let w := (o.groupCols + 1) * 8
  let rpi := c.perInstance o t
  let a := (c.tensor o.srcA).getD t
  rows.map fun p =>
    let inst := (instanceRows rpi t a p.1).map fun q => (s.heldRow c o.srcA t a q).map (Elem.word o.ieee)
    let stats := (numsFrom 0 (ceilDiv t.cols w)).map fun g => groupStat (g * w) ((g + 1) * w) inst
    (p.1, (p.2.zipIdx).map fun xc =>
      match xc.1, (s.normCoef c t o.srcB f32One p.1 xc.2).word o.ieee, (s.normCoef c t o.srcC f32Zero p.1 xc.2).word o.ieee with
      | some x, some g, some b =>
        let st := stats.getD (xc.2 / w) (⟨0, 0, 0⟩, false)
        some (setOut st.2 (layerOut st.1 (normScale st.1 (normEps (c.const o.kA))) x g b))
      | _, _, _ => none)

/-- Group normalisation starts once every row of its instances is there. -/
def State.groupOp (s : State) (c : OpCtx) (w : BitVec 64) : Option State :=
  let o := sieveOp w
  match c.tensor o.dst, c.tensor o.srcA with
  | some t, some a =>
    if (c.rows o.dst).all fun r => (instanceRows (c.perInstance o t) t a r).all fun q => (s.heldRow c o.srcA t a q).all Elem.here
    then s.normOp true s.groupRows c w else none
  | _, _ => none

def execLayernorm (d h : Nat) (s : State) : Host.Outcome State Fault Refusal :=
  .next (s.sieveRun d h 0x2A (s.normOp true s.layerRows))
def execRmsnorm (d h : Nat) (s : State) : Host.Outcome State Fault Refusal :=
  .next (s.sieveRun d h 0x2B (s.normOp false s.rmsRows))
def execGroupnorm (d h : Nat) (s : State) : Host.Outcome State Fault Refusal :=
  .next (s.sieveRun d h 0x2C s.groupOp)

/-! ### SIGNAL and WAIT (R144) -/

def execSieveSignal (d h : Nat) (s : State) : Host.Outcome State Fault Refusal :=
  .next (s.sieveRun d h 0x3C fun _ w =>
    let b := sieveBellOp w
    some (s.unitSignal d b.bell b.op (BitVec.ofNat 32 b.value)))

/-- WAIT holds the queue: the head stays and the Sieve waits. -/
def State.sieveHold (s : State) (d h : Nat) : State :=
  let x := s.sieve d h
  match x.queue with
  | [] => s
  | e :: _ =>
    if s.served (sievePage d h) && s.fld (sievePage d h) sieveCtrl_issueEn == 1 && (sieveOpFault e.word).isNone
      && (sieveOp e.word).opcode == 0x3D then
      (s.setSieve d h { x with waiting := true, waitAt := if x.waiting then x.waitAt else s.now }).errorWait (.sieve d h)
    else s.sieveRun d h 0x3D fun _ _ => none

def execSieveWait (d h : Nat) (s : State) : Host.Outcome State Fault Refusal := .next (s.sieveHold d h)

end Sys2Proof.Machine
end

