-- ==== Sys2Proof/Machine/Gate.lean ====
section
/-! DEFINITION. The Gate engine's operations (07_convolution.md, R168 to R173). -/

namespace Sys2Proof.Machine

/-- The tables of the run of a Gate operation. -/
def State.gateCtx (s : State) (d run : Nat) : Option OpCtx :=
  match s.run? run with
  | some r => (r.piece.gates.find? fun p => p.die == r.logical).map fun p => ⟨d, 0, run, r.job, p.slots, [], s.tensorsOf r, []⟩
  | none => none

/-- An element of a Gate operand: operands lie in the Commons. -/
def State.gateElem (s : State) (c : OpCtx) (t : TensorDecl) (r col : Nat) : Elem :=
  (s.tdata (commonsPlace c.d) c.job t.id).elem t r col

/-- The source of an operation in its in_fmt, and the destination in its out_fmt (Table CONV-6); the loader holds both to the
tensors' own (R28, R169). -/
def gateAs (code : Nat) (t : TensorDecl) : TensorDecl := { t with fmt := (Fmt.ofCode code).getD t.fmt }

/-- Every element of a tensor is there, in the rows given. -/
def State.gateHere (s : State) (c : OpCtx) (t : TensorDecl) (rows : List Nat) : Bool :=
  rows.all fun r => (numsFrom 0 t.cols).all fun j => (s.gateElem c t r j).here

/-- The head operation has left the queue and is counted. -/
def State.gatePop (s : State) (d : Nat) : State :=
  let x := s.gate d
  (s.setGate d { x with queue := x.queue.tail, waiting := false }).bump64 (diePage .gate d) gate_opCountLo_count
    gate_opCountHi_count

/-- Run the head operation if its opcode is `op` (R168, R172). -/
def State.gateRun (s : State) (d op : Nat) (f : OpCtx → GateOp → Option State) : State :=
  let x := s.gate d
  let pg := diePage .gate d
  match x.queue with
  | [] => s
  | e :: _ =>
    if !s.served pg || s.fld pg gateCtrl_issueEn == 0 then s
    else match gateOpFault e.word with
      | some r =>
        (s.setGate d { x with queue := x.queue.tail, waiting := false }).checkFault pg
          (infoOf [(r, 0), ((gateOp e.word).opcode, 8)]) (s.runJob e.run)
      | none =>
        if (gateOp e.word).opcode ≠ op then s
        else match (s.gateCtx d e.run).bind fun c => f c (gateOp e.word) with
          | some s2 => s2.gatePop d
          | none => s

def execGateNop (d : Nat) (s : State) : Host.Outcome State Fault Refusal := .next (s.gateRun d 0x0 fun _ _ => some s)

/-- Store what an operation wrote and count its events (R173). -/
def State.gateDone (s : State) (c : OpCtx) (t : TensorDecl) (o : OpOut) (pixels : Nat) : State :=
  let pg := diePage .gate c.d
  let s := s.setTdata (commonsPlace c.d) c.job t.id o.data
  let s := s.events pg gate_satCount_count gate_evtRaw_saturated o.sat
  let s := s.events pg gate_nanlostCount_count gate_evtRaw_nanLost o.lost
  s.bump pg pixelCount_count pixels

/-! ### CONV (R169) -/

/-- The factors of one output in ascending logical K: taps in raster order, channels within a tap. Padding under ZERO
reads +0, under CONSTANT pad_value. DESIGN CHOICE (log 16): pad_value is the FP32 value as it stands, without R156's conversion
into a streaming format, which is a Loom's; the weights of a tap take wgt.cols ÷ taps columns of a row, since R150
gives no K-depth for the formats of the Gate. -/
def State.gatePairs (s : State) (c : OpCtx) (g : Geom) (src wgt dst : TensorDecl) (r co : Nat) : List (FVal × FVal) :=
  let p := rowPos dst.lines dst.width r
  let stride := if g.taps = 0 then 0 else wgt.cols / g.taps
  ((numsFrom 0 g.taps).map fun tap =>
    let i := g.inputRow src.frames src.lines src.width p.1 p.2.1 p.2.2 tap
    (numsFrom 0 src.cols).map fun ch =>
      let x := match i with
        | some n => (match s.gateElem c src n ch with
          | .val v => f32Val (f32Round v)
          | _ => .fin false 0 0)
        | none => if g.padMode = 1 then f32Val g.padValue else .fin false 0 0
      let w := match s.gateElem c wgt co (tap * stride + ch) with
        | .val v => f32Val (f32Round v)
        | _ => .fin false 0 0
      (x, w)).flatten

/-- The bias of an output channel: none for slot 0xF. -/
def State.gateBias (s : State) (c : OpCtx) (o : GateOp) (co : Nat) : Option FVal :=
  if o.bias = 0xF then none
  else (c.tensor o.bias).map fun b => match s.gateElem c b 0 co with
    | .val v => f32Val (f32Round v)
    | _ => .fin false 0 0

def State.convOp (s : State) (c : OpCtx) (o : GateOp) : Option State :=
  match (c.tensor o.src).map (gateAs o.inFmt), c.tensor o.wgt, (c.tensor o.dst).map (gateAs o.outFmt) with
  | some src, some wgt, some dst =>
    let biasHere := o.bias == 0xF || match c.tensor o.bias with
      | some b => s.gateHere c b [0]
      | none => false
    if s.gateHere c src (c.rows o.src) && s.gateHere c wgt (numsFrom 0 wgt.rows) && biasHere then
      let g := s.geomOf c.run o.geom
      let out := (c.rows o.dst).foldl (fun (u : OpOut) r =>
        u.putSums dst o.ieee r ((numsFrom 0 dst.cols).map fun co =>
          gateConvVal o.ieee (s.gatePairs c g src wgt dst r co) (s.gateBias c o co)))
        { data := s.tdata (commonsPlace c.d) c.job dst.id }
      some (s.gateDone c dst out 0)
    else none
  | _, _, _ => none

def execConv (d : Nat) (s : State) : Host.Outcome State Fault Refusal := .next (s.gateRun d 0x2 s.convOp)

/-! ### Colour-space conversion (R170, R171)

A packed tensor has one row of codes per line. DEDUCED (log 16): the three planes are a tensor of one row per pixel and
three columns (R147), or one of three blocks of lines in a row per line. -/

/-- Pixels per line of the planes, and where plane k of pixel x of a line lies. -/
def planeWidth (t : TensorDecl) : Nat := if t.cols = 3 then t.width else t.cols
def planeAt (t : TensorDecl) (lines line x k : Nat) : Nat × Nat :=
  if t.cols = 3 then (line * t.width + x, k) else (k * lines + line, x)

/-- The code of an element that holds an unsigned integer. -/
def Elem.nat : Elem → Nat
  | .val (.fin _ m e) => m * 2 ^ e.toNat
  | _ => 0

/-- One converted value at its place. -/
def OpOut.putAt (u : OpOut) (t : TensorDecl) (ieee : Bool) (p : Nat × Nat) (v : FVal) : OpOut :=
  let q := outElem t.fmt ieee v
  { u with data := u.data.setCell t p.1 p.2 (some (some q.1)), sat := u.sat + (if q.2.1 then 1 else 0),
           lost := u.lost + (if q.2.2 then 1 else 0) }

/-- A line of pixels written to the planes. -/
def OpOut.putPixels (u : OpOut) (t : TensorDecl) (ieee : Bool) (lines line : Nat) (ps : List (Word × Word × Word)) : OpOut :=
  (ps.zipIdx).foldl (fun (u : OpOut) px =>
    let u := u.putAt t ieee (planeAt t lines line px.2 0) (f32Val px.1.1)
    let u := u.putAt t ieee (planeAt t lines line px.2 1) (f32Val px.1.2.1)
    u.putAt t ieee (planeAt t lines line px.2 2) (f32Val px.1.2.2)) u

def State.cscInOp (s : State) (c : OpCtx) (o : GateOp) : Option State :=
  match (c.tensor o.src).map (gateAs o.inFmt), (c.tensor o.dst).map (gateAs o.outFmt) with
  | some src, some dst =>
    let lines := c.rows o.src
    if s.gateHere c src lines then
      let w := planeWidth dst
      let out := lines.foldl (fun (u : OpOut) line =>
        u.putPixels dst o.ieee src.rows line (cscInLine o.matrix o.full (videoBits src.fmt) w
          ((numsFrom 0 src.cols).map fun j => (s.gateElem c src line j).nat)))
        { data := s.tdata (commonsPlace c.d) c.job dst.id }
      some (s.gateDone c dst out (lines.length * w))
    else none
  | _, _ => none

/-- A line of codes written to a packed tensor. -/
def OpOut.putCodes (u : OpOut) (t : TensorDecl) (line : Nat) (cs : List Conv) : OpOut :=
  (cs.zipIdx).foldl (fun (u : OpOut) cv =>
    { u with data := if cv.2 < t.cols then u.data.setCell t line cv.2 (some (some cv.1.code)) else u.data,
             sat := u.sat + (if cv.1.sat then 1 else 0), lost := u.lost + (if cv.1.lost then 1 else 0) }) u

/-- A word of an element, 0 where it is masked. -/
def Elem.word0 (e : Elem) : Word := (e.word true).getD 0

def State.cscOutOp (s : State) (c : OpCtx) (o : GateOp) : Option State :=
  match (c.tensor o.src).map (gateAs o.inFmt), (c.tensor o.dst).map (gateAs o.outFmt) with
  | some src, some dst =>
    let lines := c.rows o.dst
    if s.gateHere c src (c.rows o.src) then
      let w := planeWidth src
      let at_ (line x k : Nat) : Word :=
        let p := planeAt src dst.rows line x k
        (s.gateElem c src p.1 p.2).word0
      let out := lines.foldl (fun (u : OpOut) line =>
        u.putCodes dst line (cscOutLine o.matrix o.full dst.fmt
          ((numsFrom 0 w).map fun x => (at_ line x 0, at_ line x 1, at_ line x 2))))
        { data := s.tdata (commonsPlace c.d) c.job dst.id }
      some (s.gateDone c dst out (lines.length * w))
    else none
  | _, _ => none

def execCscIn (d : Nat) (s : State) : Host.Outcome State Fault Refusal := .next (s.gateRun d 0x1 s.cscInOp)
def execCscOut (d : Nat) (s : State) : Host.Outcome State Fault Refusal := .next (s.gateRun d 0x3 s.cscOutOp)

/-! ### SIGNAL and WAIT -/

def execGateSignal (d : Nat) (s : State) : Host.Outcome State Fault Refusal :=
  let word := match (s.gate d).queue with
    | e :: _ => e.word
    | [] => 0
  let b := gateBellOp word
  .next (s.gateRun d 0xE fun _ _ => some (s.unitSignal d b.bell b.op (BitVec.ofNat 32 b.value)))

/-- WAIT holds the queue: the head stays and the Gate waits. -/
def State.gateHold (s : State) (d : Nat) : State :=
  let x := s.gate d
  let pg := diePage .gate d
  match x.queue with
  | [] => s
  | e :: _ =>
    if s.served pg && s.fld pg gateCtrl_issueEn == 1 && (gateOpFault e.word).isNone && (gateOp e.word).opcode == 0xF then
      (s.setGate d { x with waiting := true, waitAt := if x.waiting then x.waitAt else s.now }).errorWait (.gate d)
    else s.gateRun d 0xF fun _ _ => none

def execGateWait (d : Nat) (s : State) : Host.Outcome State Fault Refusal := .next (s.gateHold d)

end Sys2Proof.Machine
end

