-- ==== Sys2Proof/Machine/Watchman.lean ====
section
/-! DEFINITION. The Watchman's bus address and vendor commands, the Ledger's reads and flash writes, and the firmware update
(R402, R403, R405, R406, R410 to R413, R457, R458). -/

namespace Sys2Proof.Machine

def wmPage : Page := sqPage .watchman

/-! ### The management bus (R402, R403) -/

/-- The provisioned ID of 48 bits, with the WM_ADDR strap as its instance ID, bits [15:12] (R402; PRESUMED, log 11: the place of the
instance ID is that of MIPI I3C Basic). -/
def State.provisionedId (s : State) : Nat :=
  s.fuses.pid % 2 ^ 48 / 2 ^ 16 * 2 ^ 16 + s.board.wmAddr % 4 * 2 ^ 12 + s.fuses.pid % 2 ^ 12

/-- The address at which the Watchman answers: the dynamic one in I3C mode, else the static one of I²C, 0x4C + WM_ADDR[1:0] (R402). -/
def State.busAddress (s : State) : Nat :=
  if s.fld wmPage wmStatus_i3c = 1 then s.fld wmPage wmStatus_dynAddr else 0x4C + s.board.wmAddr % 4

/-- Dynamic address assignment. -/
def State.takeAddress (s : State) (addr : Nat) : State := (s.setFld wmPage wmStatus_i3c 1).setFld wmPage wmStatus_dynAddr (addr % 128)

/-- ENTDAA gives an address to a target that has none; the target answers with its provisioned ID, most significant byte first. -/
def execEntdaa (addr : Nat) (s : State) : Host.Outcome State Fault Refusal :=
  .next (if s.board.island && s.fld wmPage wmStatus_i3c = 0 then
    (s.respond 0 (leBytes 6 s.provisionedId).reverse).takeAddress addr else s)

/-- SETDASA names the static address 0x4C + WM_ADDR[1:0]. -/
def execSetdasa (statik dyn : Nat) (s : State) : Host.Outcome State Fault Refusal :=
  .next (if s.board.island && s.fld wmPage wmStatus_i3c = 0 && statik = s.busAddress then s.takeAddress dyn else s)

/-- Set Endpoint ID from the bus owner. PRESUMED (log 11): the IDs that MCTP reserves, 0 to 7 and 255, are answered with
its completion for invalid data. -/
def execSetEndpointId (eid : Nat) (s : State) : Host.Outcome State Fault Refusal :=
  if !s.board.island then .next s
  else if 8 ≤ eid && eid < 255 then .next ((s.setFld wmPage wmStatus_eid eid).respond 0 [])
  else .next (s.respond 2 [])

/-! ### Register access (R405, R406, R417, R430) -/

/-- The registers outside the island answer the Watchman: not in NIGHTWATCH, in RECOVERY, in a reset, or after a failure of
the Square die or the hub fabric. -/
def State.squareServes (s : State) : Bool :=
  s.squareOn && !s.board.hubFail && !s.board.recovery && s.board.night != 2

/-- A failure of the Square die or of the hub fabric leaves telemetry of the island, Ledger reads and RESET (R406). -/
def State.coreFailed (s : State) : Bool := s.board.squareFail || s.board.hubFail

/-- An address that the state lets the Watchman reach now: its own page while it runs, the others while they are served. -/
def State.wmReach (s : State) (a : Nat) : Bool :=
  (a / 0x1000 == 3 && !s.board.recovery) || s.squareServes

/-- Count and offset are well formed: 1 to 16 aligned words inside BAR0 (R395, R405). -/
def regArgsOk (a n : Nat) : Bool := decide (1 ≤ n) && decide (n ≤ 16) && a % 4 == 0 && decide (a + 4 * n ≤ 0x4000000)

def regReads : Nat → Nat → State → List Word × State
  | _, 0, s => ([], s)
  | a, n + 1, s =>
    let r := s.busRead .watchman a
    let q := regReads (a + 4) n r.2
    (r.1 :: q.1, q.2)

def execRegRead (a n : Nat) (s : State) : Host.Outcome State Fault Refusal :=
  if !s.board.island then .next s
  else if !regArgsOk a n then .next (s.respond 1 [])
  else if !((numsFrom 0 n).all fun i => s.wmReach (a + 4 * i)) then .next (s.respond 2 [])
  else
    let r := regReads a n s
    .next (r.2.respondWords 0 r.1)

/-- Ownership refuses a Watchman write of an address. -/
def State.wmDenied (s : State) (a : Nat) : Bool :=
  match resolve .watchman a with
  | some (p, raw) => s.served p && !((viewAt p raw).2 == 0x008) && !ownerAllows (s.ownerOf p) .watchman
  | none => false

/-- Write words in order; whether ownership refused one. -/
def regWrites : Nat → List Word → State → Bool × State
  | _, [], s => (false, s)
  | a, v :: vs, s =>
    let q := regWrites (a + 4) vs (s.busWrite .watchman a v)
    (s.wmDenied a || q.1, q.2)

/-- A word of a REG_WRITE asks the loader for something while the loader is down (R406): a Field map command, a load of the
route table, or a binding. -/
def State.asksLoader (s : State) (a : Nat) : Bool :=
  !s.up && match resolve .watchman a with
    | some (p, raw) => (p.type == .host && raw == 0x208) || (p.type == .ferryPkg && (raw == 0x050 || raw == 0x068))
    | none => false

def execRegWrite (a n : Nat) (vs : List Word) (s : State) : Host.Outcome State Fault Refusal :=
  if !s.board.island then .next s
  else if !regArgsOk a n || vs.length ≠ n then .next (s.respond 1 [])
  else if s.coreFailed || !((numsFrom 0 n).all fun i => s.wmReach (a + 4 * i) && !s.asksLoader (a + 4 * i)) then .next (s.respond 2 [])
  else
    let q := regWrites a vs s
    .next (q.2.respond (if q.1 then 2 else 0) [])

/-! ### RESET (R405, R412, R447) -/

/-- A WATCHMAN reset: the fields that list W, an update in progress, and the boot of the firmware. -/
def State.watchmanReset (s : State) : State :=
  let on (p : Page) : Bool := p.type == .watchman
  let s := (s.clearRegs 4 on).clearGuards on
  let s := (s.withWm { s.wm with update := none }).bootComp compWatchman
  (s.setWmState (if s.board.recovery then 2 else if s.board.training || !s.board.mainOk then 0 else 1)).ledgerAdd 7 87 none 32 0 0 0 0 0

/-- RESET; the status leaves before the reset takes effect. -/
def execReset (kind die : Nat) (retain : Bool) (s : State) : Host.Outcome State Fault Refusal :=
  if !s.board.island then .next s
  else if 3 ≤ kind || (kind = 1 && 8 ≤ die) then .next (s.respond 1 [])
  else if s.board.recovery || (kind = 0 && (!s.board.mainOk || s.board.held)) || (kind = 1 && !s.up) then .next (s.respond 2 [])
  else
    let s := s.respond 0 []
    if kind = 0 then .next (s.packageReset retain 0 1)
    else if kind = 1 then .next (s.croftReset die 1)
    else .next s.watchmanReset

/-! ### The Ledger (R457, R458) -/

/-- The Watchman writes its buffered records to flash. -/
def execLedgerFlush (s : State) : Host.Outcome State Fault Refusal :=
  .next (if s.board.island then
    s.withLedger { s.ledger with flash := ledgerTrim (s.ledger.flash ++ s.ledger.buffer), buffer := [] } else s)

/-- LEDGER_READ: the record of a seq, the newest for all ones. -/
def execLedgerRead (seq : Nat) (s : State) : Host.Outcome State Fault Refusal :=
  let r := if seq = 2 ^ 64 - 1 then s.ledger.flash.getLast? else s.ledger.flash.find? fun r => r.seq == seq
  if !s.board.island then .next s
  else match r with
    | some r => .next (s.respond 0 (ledgerBytes s.fuses.serial r))
    | none => .next (s.respond 2 [])

/-! ### Firmware (R410 to R413) -/

/-- A component by its classifier value, 1 to 4 (Table HOST-13). -/
def compOf (classifier : Nat) : Option Nat := if 1 ≤ classifier && classifier ≤ 4 then some (classifier - 1) else none

/-- COMMIT_SVN. -/
def execCommitSvn (component : Nat) (s : State) : Host.Outcome State Fault Refusal :=
  if !s.board.island then .next s
  else match compOf component with
    | none => .next (s.respond 1 [])
    | some c =>
      match s.image? c (s.wm.running.getD c 0) with
      | some x =>
        if s.board.recovery || s.coreFailed || !s.wm.booted.getD c false then .next (s.respond 2 [])
        else
          let f := s.fuses
          .next ((s.withFuses { f with minSvn := f.minSvn.set c (max (f.minSvn.getD c 0) x.svn) }).respond 0 [])
      | none => .next (s.respond 2 [])

/-- The size of a slot, and where slot A of a component lies in the flash; slot B follows it (Table HOST-12). -/
def slotBytes (c : Nat) : Nat := [0x400000, 0x800000, 0x200000, 0x80000].getD c 0
def slotBase (c i : Nat) : Nat := [0x0100000, 0x0900000, 0x1900000, 0x1D00000].getD c 0 + i * slotBytes c

/-- What an address of the boot flash holds (Table HOST-12): a byte of a copy of the partition table, of a slot of a component, of a
record of the Ledger, or nothing that the manual names. -/
inductive FlashPlace where
  | table (copy byte : Nat)
  | slot (component slot byte : Nat)
  | ledger (place byte : Nat)
  | reserved
  deriving DecidableEq, Repr

def flashPlace (a : Nat) : FlashPlace :=
  if a < 0x2000 then .table (a / 0x1000) (a % 0x1000)
  else if 0x2000000 ≤ a && a < 0x4000000 then .ledger ((a - 0x2000000) / 64) (a % 64)
  else match [(0, 0), (0, 1), (1, 0), (1, 1), (2, 0), (2, 1), (3, 0), (3, 1)].find? fun p =>
      decide (slotBase p.1 p.2 ≤ a) && decide (a < slotBase p.1 p.2 + slotBytes p.1) with
    | some p => .slot p.1 p.2 (a - slotBase p.1 p.2)
    | none => .reserved

/-- A byte of a partition table's copy, 4 KiB long. DESIGN CHOICE (log 4): what was never written reads 0. -/
def Watchman.tableByte (w : Watchman) (copy byte : Nat) : Byte := if byte < 0x1000 then (w.tables.getD copy []).getD byte 0 else 0

/-- Where the ring holds the record of a seq. -/
def ledgerAddress (seq : Nat) : Nat := 0x2000000 + 64 * (seq % ledgerRecords)

/-- An image as it stands in a slot of component c (R411). DESIGN CHOICE (log 4): the header holds the component at byte 4,
the version at 8, the security version at 12 and the length of the body at 16, each in 4 bytes. -/
def readImage (keyHash c : Nat) (bs : List Byte) : Image :=
  let n := leAt bs 16 4
  let key := (bs.drop (64 + n)).take 97
  let sig := (bs.drop (64 + n + 97)).take 96
  let head := (bs.take 4).map BitVec.toNat == [0x49, 0x4D, 0x57, 0x49] && leAt bs 4 4 == c + 1 && bs.length == 64 + n + 193
    && decide (bs.length ≤ slotBytes c)
  { version := leAt bs 8 4, svn := leAt bs 12 4, body := (bs.drop 64).take n,
    valid := head && beNat (sha384 key) == keyHash && ecdsaOk key (sha384 (bs.take (64 + n))) sig }

/-- A slot of a component takes an image. -/
def Watchman.putSlot (w : Watchman) (c i : Nat) (x : Image) : Watchman :=
  { w with slots := w.slots.mapIdx fun k p => if k = c then (if i = 0 then (some x, p.2) else (p.1, some x)) else p }

/-- RequestUpdate. PRESUMED (log 11): the codes of DSP0267, 0x81 while an update runs; 0x04, not ready, after a failure of
the Square die or the hub fabric. -/
def execRequestUpdate (component : Nat) (s : State) : Host.Outcome State Fault Refusal :=
  if !s.board.island then .next s
  else if s.coreFailed then .next (s.respond 4 [])
  else if s.wm.update.isSome then .next (s.respond 0x81 [])
  else match compOf component with
    | some c => .next ((s.withWm { s.wm with update := some (c, false) }).respond 0 [])
    | none => .next (s.respond 0x82 [])

/-- The image has been written into the slot that does not run, and is verified; the byte is the result, 0 for success.
DESIGN CHOICE (log 11): a failed verification ends the update, since no command of the table cancels one. -/
def execVerifyComplete (image : List Byte) (s : State) : Host.Outcome State Fault Refusal :=
  if !s.board.island then .next s
  else if s.coreFailed then .next (s.respond 4 [])
  else match s.wm.update with
    | none => .next (s.respond 0x80 [])
    | some (c, _) =>
      let i := 1 - s.wm.running.getD c 0
      let x := readImage s.fuses.keyHash c image
      let s := s.withWm (s.wm.putSlot c i x)
      let ok := s.slotValid c i
      .next ((s.withWm { s.wm with update := if ok then some (c, true) else none }).respond 0 [if ok then 0#8 else 1#8])

/-- ActivateFirmware: the new slot is the one to run, at its reset; the Watchman's own follows at once. -/
def execActivateFirmware (s : State) : Host.Outcome State Fault Refusal :=
  if !s.board.island then .next s
  else if s.coreFailed then .next (s.respond 4 [])
  else match s.wm.update with
    | none => .next (s.respond 0x80 [])
    | some (_, false) => .next (s.respond 0x85 [])
    | some (c, true) =>
      let s := s.withWm { s.wm with chosen := s.wm.chosen.set c (1 - s.wm.running.getD c 0), update := none }
      let s := s.respond 0 []
      .next (if c = compWatchman then s.watchmanReset else s)

end Sys2Proof.Machine
end

