-- ==== Sys2Proof/Machine/Pldm.lean ====
section
/-! DEFINITION. The PLDM types and commands of the Watchman (R404). A response's bytes are the fields that the manual gives a
value, without the framing of the DMTF specifications (DESIGN CHOICE, log 11). PRESUMED (log 11): command and completion
codes are those of DSP0240, DSP0248 and DSP0267. -/

namespace Sys2Proof.Machine

/-- The Watchman answers while its island runs. -/
def State.pldm (s : State) (status : Nat) (bytes : List Byte) : Host.Outcome State Fault Refusal :=
  .next (if s.board.island then s.respond status bytes else s)

/-- A command of platform monitoring; in RECOVERY, where only updates and Ledger reads are served (R412), it is not ready. -/
def State.pldmMonitor (s : State) (status : Nat) (bytes : List Byte) : Host.Outcome State Fault Refusal :=
  if s.board.recovery then s.pldm 4 [] else s.pldm status bytes

/-- The types: 0 base, 2 platform monitoring and control, 5 firmware update. -/
def pldmTypes : List Nat := [0, 2, 5]

/-- The commands of a type, by their codes; of firmware update those that the manual names (DESIGN CHOICE, log 11). -/
def pldmCommands (type : Nat) : List Nat :=
  if type = 0 then [0x02, 0x03, 0x04, 0x05]
  else if type = 2 then [0x0A, 0x11, 0x21, 0x31, 0x32, 0x50, 0x51]
  else if type = 5 then [0x10, 0x17, 0x1A]
  else []

/-- A bit map of n bytes. -/
def bitMap (n : Nat) (bits : List Nat) : List Byte := leBytes n (natSum (bits.map fun b => 2 ^ b))

/-- No command sets a terminus ID: it stays 0, unassigned. -/
def execGetTid (s : State) : Host.Outcome State Fault Refusal := s.pldm 0 [0#8]

def execGetPldmTypes (s : State) : Host.Outcome State Fault Refusal := s.pldm 0 (bitMap 8 pldmTypes)

def execGetPldmVersion (type : Nat) (s : State) : Host.Outcome State Fault Refusal :=
  if pldmTypes.contains type then s.pldm 0 (leBytes 4 (Config.pldmVersion type).toNat) else s.pldm 0x83 []

def execGetPldmCommands (type : Nat) (s : State) : Host.Outcome State Fault Refusal :=
  if pldmTypes.contains type then s.pldm 0 (bitMap 32 (pldmCommands type)) else s.pldm 0x83 []

/-- The repository's 40 bytes of information: open. -/
def execGetPdrRepositoryInfo (s : State) : Host.Outcome State Fault Refusal := s.pldmMonitor 0 ((numsFrom 0 40).map (Config.pdrByte 0))

/-- A record of the repository: its length and its bytes are open. -/
def execGetPdr (handle : Nat) (s : State) : Host.Outcome State Fault Refusal :=
  s.pldmMonitor 0 ((numsFrom 0 (Config.pdrByte handle 65535).toNat).map (Config.pdrByte handle))

/-- ACLK's sensor and the package state's (log 10). -/
def aclkSensor : Nat := 27
def stateSensor : Nat := 28

/-- The index of a rail (Table PKG-3): six for each Croft die, 64 to 69 for the Square die and the island. -/
def isRail (r : Nat) : Bool := if r < 64 then decide (r % 8 < 6) else decide (r ≤ 69)

/-- A numeric sensor exists: temperatures, power, ACLK, and a voltage and a current for each rail. -/
def isSensor (id : Nat) : Bool := (decide (1 ≤ id) && decide (id ≤ 27)) || (decide (32 ≤ id) && isRail ((id - 32) / 2))

/-- Telemetry of the island: the two rails that feed it. -/
def islandSensor (id : Nat) : Bool := decide (32 ≤ id) && decide (68 ≤ (id - 32) / 2)

/-- A reading. After a failure of the Square die or the hub fabric only telemetry of the island is answered (R406); the rest
is not ready. -/
def execGetSensorReading (id : Nat) (s : State) : Host.Outcome State Fault Refusal :=
  if !isSensor id then s.pldmMonitor 0x80 []
  else if s.coreFailed && !islandSensor id then s.pldmMonitor 4 []
  else s.pldmMonitor 0 (leBytes 4 (if id = aclkSensor then s.aclkMhz else if id = 26 then s.reading 26 % 4096
    else if id ≤ 25 then s.degc id else s.reading id))

/-- The package's state: 0 DAYLIGHT, 1 DUSK, 2 TWILIGHT (any die), 3 NIGHTWATCH, 4 fault (DESIGN CHOICE, log 10: the numbers,
and that DUSK is any die's). -/
def State.packageState (s : State) : Nat :=
  if s.coreFailed then 4
  else if s.board.night = 2 then 3
  else if !s.power.twilight.isEmpty then 2
  else if !s.power.dusk.isEmpty then 1
  else 0

def execGetStateSensorReadings (id : Nat) (s : State) : Host.Outcome State Fault Refusal :=
  if id = stateSensor then s.pldmMonitor 0 [BitVec.ofNat 8 s.packageState] else s.pldmMonitor 0x80 []

/-- The POWER register of an effecter: 1 the power cap, 2 the thermal cap. -/
def effecterOf (id : Nat) : Option FieldRow := if id = 1 then some powerCap_watts else if id = 2 then some thermalCap_degc else none

/-- An effecter writes its POWER field as the Watchman would (R404, R407). -/
def execSetNumericEffecterValue (id : Nat) (v : Word) (s : State) : Host.Outcome State Fault Refusal :=
  match effecterOf id with
  | none => s.pldmMonitor 0x80 []
  | some f =>
    let a := powerPage.reg f.off
    if !legalCode powerPage f v.toNat then s.pldmMonitor 2 []
    else if !(s.board.island && s.wmReach a && !s.coreFailed) then s.pldmMonitor 1 []
    else (s.busWrite .watchman a v).pldmMonitor (if s.wmDenied a then 1 else 0) []

def execGetNumericEffecterValue (id : Nat) (s : State) : Host.Outcome State Fault Refusal :=
  match effecterOf id with
  | none => s.pldmMonitor 0x80 []
  | some f => if s.coreFailed then s.pldmMonitor 4 [] else s.pldmMonitor 0 (leBytes 4 (s.fld powerPage f))

end Sys2Proof.Machine
end

