-- ==== Sys2Proof/Machine/Tickets.lean ====
section
/-! DEFINITION. Tickets: fetch, intake and admission (R304, R310 to R318, R342 to R348, R362, R384, R385, R487). -/

namespace Sys2Proof.Machine

/-! ### The form of a ticket (R312, R314) -/

def ticketKind (t : List Byte) : Nat := leAt t 0 1
def ticketFlags (t : List Byte) : Nat := leAt t 1 1
/-- The job or bundle handle, bytes 2 and 3. -/
def ticketHandle (t : List Byte) : Nat := leAt t 2 2

/-- Bytes that no field of a kind takes are 0 (Tables BUND-5, BUND-6, TIME-2). -/
def ticketZeros (t : List Byte) : Bool :=
  match ticketKind t with
  | 1 => leAt t 120 2 / 4096 % 8 == 0 && zeroAt t 122 2
  | 2 => zeroAt t 2 6 && zeroAt t 20 104
  | 3 => zeroAt t 4 120
  | 4 => zeroAt t 11 1 && zeroAt t 18 46 && zeroAt t 120 4
  | 5 | 6 => zeroAt t 8 116
  | 7 => zeroAt t 10 114
  | _ => false

/-- Check 1 of R316. -/
def ticketFormOk (t : List Byte) : Bool :=
  t.length == 128 && (crc32c (t.take 124)).toNat == leAt t 124 4 && decide (ticketFlags t < 4) && ticketZeros t

/-! ### Answers -/

/-- Refuse a ticket with a code and a detail word. -/
def State.refuse (s : State) (f r : Nat) (t : List Byte) (code detail : Nat) : State :=
  s.complete f r t { cmplOf t cRefused code with detail := detail }

/-- No kernel and no tensor apply. -/
def noDetail : Nat := 0xFFFFFFFF

/-- The job of a ticket: one of the function's own. -/
def State.ownJob (s : State) (f h : Nat) : Option Job := (s.job? h).filter fun j => j.f == f
def State.ownBundle (s : State) (f h : Nat) : Option Bundle := (s.bundle? h).filter fun b => b.f == f

/-! ### ADMIT (R279, R284, R318, R342, R343, R346, R384) -/

/-- The Almanac request of an ADMIT ticket (Table TIME-2). -/
def almReq (t : List Byte) : AlmReq :=
  { firstStart := leAt t 64 8, pitch := leAt t 72 8, deadline := leAt t 80 8, slots := leAt t 88 4,
    hold := bitOf (leAt t 92 1) 0, lateDeliver := bitOf (leAt t 92 1) 1, mirror := bitOf (leAt t 92 1) 2,
    firstStep := leAt t 96 8 }

/-- The request keeps Table TIME-2 and R334 for its class. -/
def State.almReqOk (s : State) (cls : Nat) (t : List Byte) : Bool :=
  let q := almReq t
  let fl := leAt t 92 1
  zeroAt t 93 3 && zeroAt t 104 16
    && match cls with
      | 0 => decide (0 < q.pitch) && decide (1 ≤ q.slots) && decide (q.slots ≤ 2048) && decide (fl < 8)
          && durOk s.videoL q.pitch && durOk s.videoL q.deadline && decide (trLine q.firstStart < s.videoL)
      | 1 => q.firstStart == 0 && q.pitch == 0 && decide (0 < q.deadline) && q.slots == 0 && (fl == 0 || fl == 2) && q.firstStep == 0
          && durOk s.videoL q.deadline
      | _ => zeroAt t 64 40

/-- Start transit of slot k. -/
def State.slotStart (s : State) (q : AlmReq) (k : Nat) : Nat :=
  unitsTr s.videoL (trUnits s.videoL q.firstStart + k * trUnits s.videoL q.pitch)

/-- The entry of a step. -/
def State.newEntry (s : State) (j : Job) (release deadline step : Nat) (wcet : Nat × Nat) (cue : Bool × Nat) : AEntry :=
  { release := release, deadline := deadline, wcetAclk := wcet.1, wcetFixed := wcet.2, job := j.handle, step := step,
    cue := cue.2, cueEn := cue.1, hold := j.req.hold, late := j.req.lateDeliver, mirror := j.req.mirror, cls := j.cls,
    state := 1, reason := 0, dies := s.diesOf j.w, taken := false, f := j.f }

/-- The entries of an ON-AIR job's slots; the time of a delivery enters that of the first step (R284). -/
def State.slotEntries (s : State) (j : Job) (wcet : Nat × Nat) (first : Nat) : List AEntry :=
  (numsFrom 0 j.req.slots).map fun k =>
    let at_ := s.slotStart j.req k
    s.newEntry j at_ (trAdd s.videoL at_ j.req.deadline) ((j.req.firstStep + k) % 2 ^ 64) (wcet.1, wcet.2 + if k = 0 then first else 0)
      (false, 0)

/-- ns of the delivery before the first step that the admission of a job would bring. -/
def State.deliveryNs (s : State) (j : Job) : Nat :=
  (((s.withLoader { s.loader with jobs := s.loader.jobs ++ [j] }).adopt j).2.job? j.handle |>.map (·.firstNs)).getD 0

/-- The two lowest Bells of 0 to 63 that are free on every die of a list (R318). -/
def State.freePair (s : State) (dies : List Nat) : Option (Nat × Nat) :=
  match (numsFrom 0 64).filter fun i => dies.all fun d => (s.bell d i).owner.isNone with
  | a :: b :: _ => some (a, b)
  | _ => none

/-- Free Bells of a die from 64 up. -/
def State.freeJobBells (s : State) (d : Nat) : List Nat := (numsFrom 64 4032).filter fun i => (s.bell d i).owner.isNone

def ownBells (f h d : Nat) : List Nat → State → State
  | [], s => s
  | i :: is, s => ownBells f h d is (s.setBell d i { s.bell d i with owner := some (f, h), value := 0, error := false })

/-- Allocate n job Bells for each logical die of a list; the first die that has too few is reported. -/
def takeBells (f h n : Nat) : List Nat → State → Except Nat State
  | [], s => .ok s
  | i :: is, s =>
    let d := (s.dieOf i).getD i
    let free := (s.freeJobBells d).take n
    if free.length < n then .error i else takeBells f h n is (ownBells f h d free s)

/-- Reserve frames for each logical die of a list, dropping droppable pages (R199); the first die without them is reported. -/
def takeFrames (n : Nat) : List Nat → State → Except Nat State
  | [], s => .ok s
  | i :: is, s =>
    let d := (s.dieOf i).getD i
    match s.dropFor (n * ((i :: is).filter fun k => s.dieOf k == some d).length) d (s.loader.pages.length + 1) with
    | some s => takeFrames n is s
    | none => .error i

/-- What an ADMIT asks for. -/
structure AdmitReq where
  cls : Nat
  batch : Nat
  w : Nat
  ranks : Nat
  pkg : Nat
  deriving DecidableEq, Repr

def admitReq (t : List Byte) : AdmitReq :=
  let R := leAt t 12 4
  let w := leAt t 10 1
  ⟨leAt t 8 1, leAt t 9 1 + 1, if w = 0 then min R 8 else w, R, leAt t 16 2⟩

/-- R384, and the count of admitted jobs (Table BUND-14). -/
def State.ranksOk (s : State) (q : AdmitReq) : Bool :=
  decide (1 ≤ q.ranks) && decide (q.ranks ≤ 262144) && decide (1 ≤ q.w) && decide (q.w ≤ 8 - s.reserve)
    && (if 8 < q.ranks then q.ranks % q.w == 0 else q.w == q.ranks) && decide (s.loader.jobs.length < 256)

/-- An ON-AIR job may be admitted: the reference is locked or in holdover, or there is none (R342). -/
def State.onAirOk (s : State) : Bool :=
  let st := s.fld (sqPage .meridian) merStatus_state
  st == 2 || st == 3 || s.fld (sqPage .meridian) merCtrl_source == 0

/-- The checks of an ADMIT, as code and detail. -/
def State.admitChecks (s : State) (b : Bundle) (q : AdmitReq) (j : Job) (wcet : Nat × Nat) (first : Nat) (t : List Byte) : List (Nat × Nat) :=
  let add (ok : Bool) (c d : Nat) : List (Nat × Nat) := if ok then [] else [(c, d)]
  let ds := numsFrom 0 q.w
  let lDies := (ds.filterMap s.dieOf).eraseDups
  let reqOk := s.almReqOk q.cls t && (q.cls != 0 || s.onAirOk)
  add (!s.needsShard b.f 0x10000 b.decl q.ranks q.w || (b.decl.train.map (·.hasShard)).getD true) 0x01 noDetail
  ++ add (s.ranksOk q) 0x03 noDetail
  ++ add (reqOk && (q.cls != 0 || s.admits q.w (s.slotEntries j wcet first))) 0x07 noDetail
  ++ (if reservesFrames b.decl q.cls then
      match takeFrames b.decl.framesPerDie ds s with
      | .ok _ => []
      | .error i => [(0x09, i)]
    else [])
  ++ (match takeBells j.f j.handle b.decl.bellsPerDie ds s with
    | .ok _ => []
    | .error i => [(0x0B, i)])
  ++ add (decide (b.decl.bellsPerDie ≤ 4032) && (s.freePair lDies).isSome) 0x0B 0
  ++ add (decide (b.decl.sessions ≤ 4096)) 0x0C 0

def lowestPair : List (Nat × Nat) → Option (Nat × Nat)
  | [] => none
  | x :: xs => match lowestPair xs with
    | some y => if y.1 < x.1 || (y.1 == x.1 && y.2 < x.2) then some y else some x
    | none => some x

/-- The job that an ADMIT makes, before its Bells are known. -/
def State.newJob (s : State) (f : Nat) (b : Bundle) (q : AdmitReq) (t : List Byte) : Job :=
  { handle := freshHandle (s.loader.jobs.map (·.handle)), f := f, bundle := b.handle, cls := q.cls, batch := q.batch,
    w := q.w, ranks := q.ranks, pkg := q.pkg, req := almReq t, stepBell := 0, barBell := 1, order := s.loader.admitted,
    shard := s.needsShard f 0x10000 b.decl q.ranks q.w }

/-- Take a job in whose checks have passed: frames, Bells, entries, generation, completion. -/
def State.admitJob (s : State) (r : Nat) (t : List Byte) (b : Bundle) (q : AdmitReq) (j : Job) (wcet : Nat × Nat) (first : Nat) : State :=
  let ds := numsFrom 0 q.w
  let lDies := (ds.filterMap s.dieOf).eraseDups
  let s := if reservesFrames b.decl q.cls then (takeFrames b.decl.framesPerDie ds s).toOption.getD s else s
  let p := (s.freePair lDies).getD (0, 1)
  let j := { j with stepBell := p.1, barBell := p.2 }
  let s := lDies.foldl (fun s d => ownBells j.f j.handle d [p.1, p.2] s) s
  let s := (takeBells j.f j.handle b.decl.bellsPerDie ds s).toOption.getD s
  let s := s.withLoader { s.loader with jobs := s.loader.jobs ++ [j], admitted := s.loader.admitted + 1 }
  let es := if q.cls = 0 then s.slotEntries j wcet first else []
  let s := placeEntries ((s.freeEntries es.length).zip es) s
  let gs := s.adopt j
  gs.2.complete j.f r t { cmplOf t cDone 0 with result := j.handle + p.1 * 65536 + p.2 * 2 ^ 22, aux := gs.1.getD (2 ^ 64 - 1) }

/-- ADMIT; none while the Almanac lacks the entries (R317). Released dies return to the map first (R64, R441). -/
def State.takeAdmit (s : State) (f r : Nat) (t : List Byte) (decl : TicketDecl) : Option State :=
  match s.ownBundle f (ticketHandle t) with
  | none => some (s.refuse f r t 0x00 0)
  | some b =>
    let q := admitReq t
    if 2 < q.cls then some (s.answer f r t cMalformed 0)
    else
      let s := s.admitMap
      let j := s.newJob f b q t
      let wcet := s.stepWcet s.slowestRtt b.decl j.shard decl.kernels none q.w
      let first := if q.cls = 0 then s.deliveryNs j else 0
      match lowestPair (s.admitChecks b q j wcet first t) with
      | some x => some (s.refuse f r t x.1 x.2)
      | none =>
        if q.cls = 0 && (s.freeEntries j.req.slots).length < j.req.slots then none
        else some (s.admitJob r t b q j wcet first)

/-! ### The other small tickets (R314) -/

def State.takeLoad (s : State) (f r : Nat) (t : List Byte) (decl : TicketDecl) : State :=
  match s.load f (leAt t 8 8) (leAt t 16 4) decl.bundle with
  | .ok (h, s) => s.complete f r t { cmplOf t cDone 0 with result := h }
  | .error (c, d) => s.refuse f r t c d

def State.takeUnload (s : State) (f r : Nat) (t : List Byte) : State :=
  match s.ownBundle f (ticketHandle t) with
  | some b =>
    if s.loader.jobs.any fun j => j.bundle == b.handle then s.refuse f r t 0x00 0
    else (s.withLoader { s.loader with bundles := s.loader.bundles.filter fun x => x.handle != b.handle }).answer f r t cDone 0
  | none => s.refuse f r t 0x00 0

def State.takeRetire (s : State) (f r : Nat) (t : List Byte) : State :=
  match s.ownJob f (ticketHandle t) with
  | some j => if (s.stepsOf j.handle).isEmpty then (s.removeJob j).answer f r t cDone 0 else s.refuse f r t 0x00 0
  | none => s.refuse f r t 0x00 0

/-- OPEN_SESSION: the lowest free number; at most 4,096 in the package and as many for a job as its bundle declares. -/
def State.takeOpen (s : State) (f r : Nat) (t : List Byte) : State :=
  match s.ownJob f (ticketHandle t) with
  | some j =>
    let limit := ((s.bundle? j.bundle).map (·.decl.sessions)).getD 0
    let mine := (s.loader.sessions.filter fun x => x.job == j.handle).length
    if 4096 ≤ s.loader.sessions.length || limit ≤ mine then s.refuse f r t 0x0C 0
    else
      let used := s.loader.sessions.map (·.id)
      let n := ((numsFrom 0 4096).find? fun i => !used.contains i).getD 0
      (s.withLoader { s.loader with sessions := s.loader.sessions ++ [⟨n, j.handle, f⟩] }).complete f r t
        { cmplOf t cDone 0 with result := n }
  | none => s.refuse f r t 0x00 0

def State.takeClose (s : State) (f r : Nat) (t : List Byte) : State :=
  match s.ownJob f (ticketHandle t) with
  | some j =>
    if s.loader.sessions.any fun x => x.id == leAt t 8 2 && x.job == j.handle then (s.closeSession (leAt t 8 2)).answer f r t cDone 0
    else s.refuse f r t 0x0C 0
  | none => s.refuse f r t 0x00 0

/-! ### STEP: the checks of R316 -/

/-- The first shape parameter outside its range, 8 for gen; a training job's gen follows R285. -/
def State.badShape (s : State) (j : Job) (b : BundleDecl) (t : List Byte) : Option Nat :=
  let vs := ticketShapes t
  let genOk (g : Nat) : Bool := match s.loader.gens.find? fun p => p.1 == j.handle with
    | some p => p.2 == g
    | none => g == 2 ^ 64 - 1
  (numsFrom 0 9).find? fun i =>
    let v := vs.getD i 0
    if i = 8 && b.train.isSome then !genOk v
    else match (shapeRanges b).getD i none with
      | some p => !(decide (p.1 ≤ v) && decide (v ≤ p.2))
      | none => v != 0

/-- Live batch slots of a ticket. -/
def liveSlots (t : List Byte) (batch : Nat) : List Nat := (numsFrom 0 batch).filter (bitOf (leAt t 32 32))

/-- The sessions of the live slots. -/
def State.slotSessions (s : State) (f : Nat) (t : List Byte) (batch : Nat) : List Nat :=
  let table := s.slotTable f batch t
  (liveSlots t batch).map fun i => table.getD i 0

def State.slotsOk (s : State) (f : Nat) (ids : List Nat) : Bool :=
  ids.eraseDups.length == ids.length && ids.all fun i => s.loader.sessions.any fun x => x.id == i && x.f == f

/-- Whether commands of some kernels read and write a tensor. -/
def tensorUse (b : BundleDecl) (kernels : List Nat) (id : Nat) : Bool × Bool :=
  let acc := ((kernels.filterMap fun k => b.kernels[k]?).map fun kd =>
    (((kd.plans.map (·.pieces)).flatten.map (·.grans)).flatten.map fun p =>
      ((commandWords 0 p.entries).map fun w => (granUses kd.tensors p (granCmd w)).filterMap fun x =>
        if x.1 = id then some x.2 else none).flatten).flatten).flatten
  (acc.any fun x => !x, acc.any fun x => x)

/-- The step-bound tensors of a bundle, with the index of the first kernel that has each, by ascending index and ID (R304). -/
def boundTensors (b : BundleDecl) : List (Nat × TensorDecl) :=
  ((b.kernels.zipIdx.map fun k => (k.1.tensors.filter (·.stepBound)).map fun t => (k.2, t)).flatten).foldl
    (fun acc x => if acc.any fun y => y.2.id == x.2.id then acc
      else
        let first (y : Nat × TensorDecl) : Bool := decide (y.1 < x.1) || (y.1 == x.1 && decide (y.2.id < x.2.id))
        acc.filter first ++ [x] ++ acc.filter fun y => !first y) []

/-- The entries of a ticket's binding table, as intake translates them (R325). -/
def State.boundTable (s : State) (f : Nat) (b : BundleDecl) (t : List Byte) : List (Nat × Nat × Nat) :=
  (numsFrom 0 (boundCount b)).map fun k =>
    let e := s.vaBytes f (leAt t 104 8 + 16 * k) 16
    (leAt e 0 2, leAt e 8 8, leAt e 2 6)


/-- The first binding that the Field map does not cover as the step needs it, code 0x01, or whose base is not aligned, code 0x02:
the code and the detail word (R253, R304, R483). A tensor that no kernel of the step uses has to be covered all the same. -/
def State.badBinding (s : State) (f job : Nat) (b : BundleDecl) (kernels : List Nat) (t : List Byte) : Option (Nat × Nat) :=
  let n := boundCount b
  if n = 0 then none
  else if !s.mapped f (leAt t 104 8) (16 * n) false then some (0x01, noDetail)
  else
    let bad := fun (x : Nat × TensorDecl) =>
      let u := tensorUse b kernels x.2.id
      let covers (va len : Nat) : Bool := (!u.1 || s.mapped f va len false) && (!u.2 || s.mapped f va len true)
        && (u.1 || u.2 || s.mapped f va len false || s.mapped f va len true)
      let ok := match s.binding job t x.2.id with
      | some a => covers a.1 (storedBytes x.2) && (!x.2.fmt.isMx || covers a.2 (x.2.rows * scaleColsOf x.2))
        | none => false
      if ok then none else some (0x01, x.1 + x.2.id * 65536)
    let skew := fun (x : Nat × TensorDecl) => match s.binding job t x.2.id with
      | some a => if baseAligned x.2 a.1 then none else some (0x02, x.1 + x.2.id * 65536)
      | none => none
    ((boundTensors b).findSome? bad).or ((boundTensors b).findSome? skew)

/-- Checks 3 to 5 of R316, with R385 before them: the refusal of the first that fails. -/
def State.stepRefusal (s : State) (f : Nat) (j : Job) (b : BundleDecl) (kernels : List Nat) (t : List Byte) : Option (Nat × Nat) :=
  if decide (8 < j.ranks) && (s.bindingOf j.handle).isNone then some (0x00, 0)
  else match s.badShape j b t with
    | some i => some (0x0A, i)
    | none =>
      if !s.mapped f (leAt t 24 8) (2 * j.batch) false then some (0x01, noDetail)
      else if !s.slotsOk f (s.slotSessions f t j.batch) then some (0x0C, 0)
      else s.badBinding f j.handle b kernels t

/-! ### STEP: the Almanac (R344, R346, R348) -/

/-- The slot of an ON-AIR ticket. -/
def onAirSlot (j : Job) (t : List Byte) : Option Nat :=
  let n := leAt t 8 8
  if j.req.firstStep ≤ n && n - j.req.firstStep < j.req.slots then some (n - j.req.firstStep) else none

/-- R344. -/
def State.almFieldsOk (s : State) (j : Job) (t : List Byte) : Bool :=
  if j.cls = 0 then
    match onAirSlot j t with
    | some k => leAt t 112 8 == s.slotStart j.req k && !j.taken.contains (leAt t 8 8)
    | none => false
  else leAt t 112 8 == 0

/-- A session of the step runs a step already (R202). -/
def State.sessionBusy (s : State) (ids : List Nat) : Bool :=
  s.loader.steps.any fun u => u.sessions.any ids.contains

def State.addStep (s : State) (t : Step) : State := s.withLoader { s.loader with steps := s.loader.steps ++ [t] }

/-- A step is taken in: its Cue entry too (Table TIME-8). -/
def State.beginStep (s : State) (t : Step) : State :=
  let c := ticketCue t.ticket
  (s.addStep t).cueStep c.1 c.2 .taken

/-- The step of a ticket, with its slot table and its bindings as intake reads them (R325). -/
def State.newStep (s : State) (f r : Nat) (t : List Byte) (decl : TicketDecl) (j : Job) (b : BundleDecl) : Step :=
  { job := j.handle, f := f, ring := r, ticket := t, decl := decl, intake := s.transit, entry := none,
    sessions := s.slotSessions f t j.batch, slotTable := s.slotTable f j.batch t, bound := s.boundTable f b t }

/-- An ON-AIR step is taken in: before its start it waits, after it the step is ready at once and late (R348). -/
def State.takeOnAir (s : State) (j : Job) (u : Step) : State :=
  let s := s.setJob { j with taken := j.taken ++ [u.number] }
  match s.entryOf? j.handle u.number with
  | none => s.beginStep { u with ready := true }
  | some (i, e) =>
    let c := ticketCue u.ticket
    let e := { e with taken := true, state := 2, cue := c.2, cueEn := c.1 }
    let late := trBefore e.release s.transit
    let s := (s.setAlm i (some e)).beginStep { u with entry := some i, ready := !trBefore s.transit e.release }
    if !late then s
    else
      let s := s.lateTransit
      if s.entryFits { e with release := s.transit } then s
      else if e.late then s.openEntry i e else s.withdrawJob j.handle 5

/-- A COMMITTED or OPEN step is taken in at entry i: a COMMITTED one is tested, with the time that a recompute adds, which also brings
a re-test (R201, R345, R346, R352). -/
def State.takeReserved (s s0 : State) (j : Job) (u : Step) (i since : Nat) (waited : Bool) (wcet : Nat × Nat) : State :=
  let c := ticketCue u.ticket
  let deadline := if j.cls = 1 then trAdd s.videoL since j.req.deadline else 0
  let e := { s.newEntry j u.intake deadline u.number wcet c with taken := true, state := 2 }
  let fits := j.cls != 1 || (trBefore u.intake deadline && ((s.addStep u).admits j.w [e]))
  let s2 := (s.setAlm i (some e)).beginStep { u with entry := some i, ready := true }
  if fits then (if j.cls = 1 && u.extraNs != 0 then s2.triggerRetest 6 else s2)
  else if waited then s2.withdrawJob j.handle (if trBefore u.intake deadline then 6 else 5)
  else s0.refuse u.f u.ring u.ticket 0x07 noDetail

/-- The mirror of a step's inputs (R442): each part of at most 16 KiB lies in a frame on the lowest live die that does not hold the
part itself (DESIGN CHOICE, log 27); none while a frame cannot be had. -/
def takeMirror (f job : Nat) : List (Nat × Nat) → List (Nat × Nat × Nat) → State → Option (List (Nat × Nat × Nat) × State)
  | [], ps, s => some (ps, s)
  | x :: xs, ps, s =>
    match s.translate f x.1 false with
    | none => takeMirror f job xs ps s
    | some pa =>
      match s.liveDies.find? (· != pa / 2 ^ 37) with
      | none => takeMirror f job xs ps s
      | some d => match s.needFrame job d with
        | none => none
        | some (frame, s) =>
          let r := s.loaderBytes f x.1 x.2
          takeMirror f job xs (ps ++ [(pa, x.2, frame)]) (r.2.storeAll (fun _ s => s)
            [⟨⟨none, 8 * framePayload frame, 8 * x.2⟩, leNat r.1⟩])

/-- The whole sectors of a range, in parts that a 16 KiB boundary does not cross. -/
def mirrorParts (va n : Nat) : List (Nat × Nat) :=
  if n = 0 then []
  else
    let lo := va / 32 * 32
    let hi := ceilDiv (va + n) 32 * 32
    (numsFrom (lo / 16384) ((hi - 1) / 16384 + 1 - lo / 16384)).map fun k =>
      let a := max lo (k * 16384)
      (a, min hi ((k + 1) * 16384) - a)

/-- The loader mirrors the inputs of a step whose job asks for it. -/
def State.mirrored (s : State) (j : Job) (u : Step) : Option (Step × State) :=
  if !j.req.mirror then some (u, s)
  else (takeMirror u.f j.handle (((s.inputRanges u).map fun x => mirrorParts x.1 x.2).flatten) [] s).map fun r =>
    ({ u with mirror := r.1 }, r.2)

/-- STEP; the error says that the ticket is held, with the transit from which a wait for frames counts. -/
def State.takeStep (s : State) (f r : Nat) (t : List Byte) (decl : TicketDecl) (since : Option Nat) : Except (Option Nat) State :=
  match s.ownJob f (ticketHandle t) with
  | none => .ok (s.refuse f r t 0x00 0)
  | some j =>
    let cue := ticketCue t
    if leAt t 32 32 / 2 ^ j.batch ≠ 0 then .ok (s.answer f r t cMalformed 0)
    else if cue.1 && s.cueOwner cue.2 != some f then .ok (s.refuse f r t 0x00 0)
    else match j.state, s.bundle? j.bundle with
      | .ended code, _ => .ok (s.endTicket f r t cEnded code)
      | .withdrawn reason, _ => .ok ((s.endTicket f r t cWithdrawn reason).freeStepEntry j.handle (leAt t 8 8))
      | .active, none => .ok (s.refuse f r t 0x00 0)
      | .active, some b =>
        let kernels := s.stepKernels j decl.kernels
        match s.stepRefusal f j b.decl kernels t with
        | some x => .ok (s.refuse f r t x.1 x.2)
        | none =>
          let u := s.newStep f r t decl j b.decl
          let overs := j.cls == 0 && match onAirSlot j t with
            | some k => trBefore (trAdd s.videoL (s.slotStart j.req k) j.req.deadline) s.transit
            | none => false
          if !s.almFieldsOk j t then .ok (s.refuse f r t 0x07 noDetail)
          else if overs then .ok ((s.setJob { j with taken := j.taken ++ [leAt t 8 8] }).endTicket f r t cWithdrawn 5)
          else if s.sessionBusy u.sessions then .error since
          else match if j.cls = 0 then some 0 else (s.freeEntries 1).head? with
            | none => .error since
            | some i =>
              match s.kvIntake ⟨j, b.decl, kernels, t, u.slotTable⟩ u with
              | none => .error (some (since.getD s.transit))
              | some (s1, ns, ks) =>
                let first := if j.cls = 0 && leAt t 8 8 = j.req.firstStep then 0 else j.firstNs
                let u := { u with decl := { decl with kernels := ks ++ kernels }, extraNs := ns + first }
                let j := { j with firstNs := 0 }
                match s.badBinding f j.handle b.decl (ks ++ kernels) t, (s1.setJob j).mirrored j u with
                | some x, _ => .ok (s.refuse f r t x.1 x.2)
                | none, none => .error (some (since.getD s.transit))
                | none, some (u, s1) =>
                if j.cls = 0 then .ok (s1.takeOnAir j u)
                else .ok (s1.takeReserved s j u i (since.getD s.transit) since.isSome
                  (s.stepWcet (s.jobRtt j.handle) b.decl j.shard kernels (some (ticketShapes t)) j.w))

/-! ### Intake (R316, R317) -/

/-- A ticket is taken in, or held. -/
def State.intake (s : State) (f r : Nat) (t : List Byte) (decl : TicketDecl) (since : Option Nat) : Except (Option Nat) State :=
  if !ticketFormOk t then .ok (s.answer f r t cMalformed 0)
  else if bitOf (ticketFlags t) 1 && s.loader.steps.any fun u => u.f == f && u.ring == r then .error since
  else match ticketKind t with
    | 1 => s.takeStep f r t decl since
    | 2 => .ok (s.takeLoad f r t decl)
    | 3 => .ok (s.takeUnload f r t)
    | 4 => match s.takeAdmit f r t decl with
      | some s => .ok s
      | none => .error since
    | 5 => .ok (s.takeRetire f r t)
    | 6 => .ok (s.takeOpen f r t)
    | _ => .ok (s.takeClose f r t)

/-- The loader fetches: it is ready, the link is up. -/
def State.fetches (s : State) : Bool := s.up && s.board.link && s.fld (sqPage .loader) loaderStatus_ready == 1

/-- What the loader reads in HBM for a ticket: the slot table, the binding table and the read slot's statistics of a STEP, the image
of a LOAD. -/
def State.intakeSpans (s : State) (f : Nat) (t : List Byte) : List BitSpan :=
  match ticketKind t with
  | 1 => match s.ownJob f (ticketHandle t) with
    | some j =>
      let n := ((s.bundle? j.bundle).map fun b => boundCount b.decl).getD 0
      [⟨some f, 8 * leAt t 24 8, 16 * j.batch⟩] ++ (if n = 0 then [] else [⟨some f, 8 * leAt t 104 8, 128 * n⟩])
        ++ match s.trainOf j with
          | some d => [⟨some f, 8 * statsAt d 0 (leAt t 96 8 % 2), 8 * statsBytes d⟩]
          | none => []
    | none => []
  | 2 => [⟨some f, 8 * leAt t 8 8, 8 * leAt t 16 4⟩]
  | _ => []

/-- Take a ticket in, or hold it. -/
def State.settleTicket (s : State) (f r : Nat) (t : List Byte) (decl : TicketDecl) (since : Option Nat) : State :=
  let s := if ticketFormOk t then s.loaderRead (s.intakeSpans f t) else s
  match s.intake f r t decl since with
  | .ok s => s
  | .error w =>
    (s.withLoader { s.loader with held := s.loader.held ++ [⟨f, r, t, decl, w⟩] }).setRingFld f r ringStatus_held 1

/-- A ring has a ticket that may be fetched; a function in D3hot issues no request. -/
def State.ringReady (s : State) (f r : Nat) : Bool :=
  s.ringOn f r && !(s.pcieFn f).d3hot && s.ringFld f r ringHead_head != s.ringFld f r ringTail_tail
    && !(s.loader.held.any fun x => x.f == f && x.ring == r) && s.ringHasEntry f r

/-- The numbers below n in the order in which they are served after the last one. -/
def turns (n last : Nat) : List Nat := (numsFrom 1 n).map fun i => (last + i) % n

/-- The function and the ring whose turn it is, of those that have a ticket (R317). -/
def State.turn (s : State) : Option (Nat × Nat) :=
  (turns 32 s.loader.lastFn).findSome? fun f =>
    ((turns 64 (SMap.get 63 s.loader.lastRing f)).find? fun r => s.ringReady f r).map fun r => (f, r)

def State.noteTurn (s : State) (f r : Nat) : State :=
  s.withLoader { s.loader with lastFn := f, lastRing := SMap.set 63 f r s.loader.lastRing }

/-- The next ticket of a ring whose turn it is. `decl` is what the loader reads of it beyond its 128 bytes. -/
def State.fetchTicket (s : State) (f r : Nat) (decl : TicketDecl) : State :=
  let n := s.ringSize f r
  let head := s.ringFld f r ringHead_head
  if !s.fetches || s.turn != some (f, r) then s
  else
    let s := s.noteTurn f r
    let a := s.ringBase f r + 128 * head
    if s.mapped f a 128 false then
      let s := s.loaderRead [⟨some f, 8 * a, 1024⟩]
      (s.setRingFld f r ringHead_head ((head + 1) % n)).settleTicket f r (s.vaBytes f a 128) decl none
    else s.ringFault f r

def execTicketFetch (f ring : Nat) (decl : TicketDecl) (s : State) : Host.Outcome State Fault Refusal :=
  if s.ringLost.contains (ringKey f ring) && s.fetches then .fault (.ringUndefined f ring) else .next (s.fetchTicket f ring decl)

/-- The held ticket of a ring is looked at again. -/
def execTicketHoldRelease (f ring : Nat) (s : State) : Host.Outcome State Fault Refusal :=
  if s.ringLost.contains (ringKey f ring) && s.fetches then .fault (.ringUndefined f ring)
  else match s.loader.held.find? fun x => x.f == f && x.ring == ring with
    | some x =>
      if !s.fetches || !s.ringOn f ring then .next s
      else
        let s := s.withLoader { s.loader with held := s.loader.held.filter fun y => !(y.f == f && y.ring == ring) }
        .next ((s.setRingFld f ring ringStatus_held 0).settleTicket f ring x.ticket x.decl x.since)
    | none => .next s

end Sys2Proof.Machine
end

