-- ==== Sys2Proof/Machine/Dispatch.lean ====
section
/-! DEFINITION. The meaning of each command: one arm per constructor, each one direct call of that command's meaning. -/

namespace Sys2Proof.Machine

def exec (i : Instr) (s : State) : Host.Outcome State Fault Refusal :=
  match i with
  | .mainOkRise => Sys2Proof.Machine.execMainOkRise s
  | .mainOkFall => Sys2Proof.Machine.execMainOkFall s
  | .islandRailLoss => Sys2Proof.Machine.execIslandRailLoss s
  | .perstNAssert => Sys2Proof.Machine.execPerstNAssert s
  | .perstNRelease => Sys2Proof.Machine.execPerstNRelease s
  | .hbmTrainingComplete failed => Sys2Proof.Machine.execHbmTrainingComplete failed s
  | .functionLevelReset f => Sys2Proof.Machine.execFunctionLevelReset f s
  | .wakeN => Sys2Proof.Machine.execWakeN s
  | .nwWakeTransit => Sys2Proof.Machine.execNwWakeTransit s
  | .thermalTrip unit degc => Sys2Proof.Machine.execThermalTrip unit degc s
  | .supplyDroop rail => Sys2Proof.Machine.execSupplyDroop rail s
  | .temporaryFenceRelease die => Sys2Proof.Machine.execTemporaryFenceRelease die s
  | .runTimeFault hw => Sys2Proof.Machine.execRunTimeFault hw s
  | .stepRestart job => Sys2Proof.Machine.execStepRestart job s
  | .softRepair stack pc row => Sys2Proof.Machine.execSoftRepair stack pc row s
  | .patrolScrub stack => Sys2Proof.Machine.execPatrolScrub stack s
  | .selfRefreshEntry stack => Sys2Proof.Machine.execSelfRefreshEntry stack s
  | .duskEntry die => Sys2Proof.Machine.execDuskEntry die s
  | .twilight => Sys2Proof.Machine.execTwilight s
  | .daylight => Sys2Proof.Machine.execDaylight s
  | .nightwatchRequest m => Sys2Proof.Machine.execNightwatchRequest m s
  | .nightwatchEntry => Sys2Proof.Machine.execNightwatchEntry s
  | .powerCapWrite m v => Sys2Proof.Machine.execPowerCapWrite m v s
  | .thermalCapWrite m v => Sys2Proof.Machine.execThermalCapWrite m v s
  | .capApply => Sys2Proof.Machine.execCapApply s
  | .limiterAclkChange limit mhz duty => Sys2Proof.Machine.execLimiterAclkChange limit mhz duty s
  | .retest => Sys2Proof.Machine.execRetest s
  | .deadlineTransit entry => Sys2Proof.Machine.execDeadlineTransit entry s
  | .startTransit entry => Sys2Proof.Machine.execStartTransit entry s
  | .pieceDispatch die => Sys2Proof.Machine.execPieceDispatch die s
  | .stepStart job => Sys2Proof.Machine.execStepStart job s
  | .stepCommit job => Sys2Proof.Machine.execStepCommit job s
  | .heldCommit job => Sys2Proof.Machine.execHeldCommit job s
  | .barrierRelease job => Sys2Proof.Machine.execBarrierRelease job s
  | .ringTail f ring v => Sys2Proof.Machine.execRingTail f ring v s
  | .cmplHead f ring v => Sys2Proof.Machine.execCmplHead f ring v s
  | .ringCtrlWrite f ring v => Sys2Proof.Machine.execRingCtrlWrite f ring v s
  | .ticketFetch f ring decl => Sys2Proof.Machine.execTicketFetch f ring decl s
  | .ticketHoldRelease f ring => Sys2Proof.Machine.execTicketHoldRelease f ring s
  | .pass d h l => Sys2Proof.Machine.execPass d h l s
  | .replayPass d h l => Sys2Proof.Machine.execReplayPass d h l s
  | .instructionRetire d h l => Sys2Proof.Machine.execInstructionRetire d h l s
  | .fenceIssue d h l => Sys2Proof.Machine.execFenceIssue d h l s
  | .drain d h l => Sys2Proof.Machine.execDrain d h l s
  | .rampDown d h l => Sys2Proof.Machine.execRampDown d h l s
  | .rampUp d h l => Sys2Proof.Machine.execRampUp d h l s
  | .rampStep d h l => Sys2Proof.Machine.execRampStep d h l s
  | .rampGrant d h l => Sys2Proof.Machine.execRampGrant d h l s
  | .tileArrival dest tile => Sys2Proof.Machine.execTileArrival dest tile s
  | .multicast d mask tile addr => Sys2Proof.Machine.execMulticast d mask tile addr s
  | .sieveNop d h => Sys2Proof.Machine.execSieveNop d h s
  | .fma d h => Sys2Proof.Machine.execFma d h s
  | .add d h => Sys2Proof.Machine.execAdd d h s
  | .mul d h => Sys2Proof.Machine.execMul d h s
  | .min d h => Sys2Proof.Machine.execMin d h s
  | .max d h => Sys2Proof.Machine.execMax d h s
  | .cmpLt d h => Sys2Proof.Machine.execCmpLt d h s
  | .cmpEq d h => Sys2Proof.Machine.execCmpEq d h s
  | .select d h => Sys2Proof.Machine.execSelect d h s
  | .copysign d h => Sys2Proof.Machine.execCopysign d h s
  | .exp2 d h => Sys2Proof.Machine.execExp2 d h s
  | .log2 d h => Sys2Proof.Machine.execLog2 d h s
  | .expE d h => Sys2Proof.Machine.execExpE d h s
  | .reciprocal d h => Sys2Proof.Machine.execReciprocal d h s
  | .rsqrt d h => Sys2Proof.Machine.execRsqrt d h s
  | .tanh d h => Sys2Proof.Machine.execTanh d h s
  | .sigmoid d h => Sys2Proof.Machine.execSigmoid d h s
  | .silu d h => Sys2Proof.Machine.execSilu d h s
  | .gelu d h => Sys2Proof.Machine.execGelu d h s
  | .gumbel d h => Sys2Proof.Machine.execGumbel d h s
  | .convert d h => Sys2Proof.Machine.execConvert d h s
  | .rsum d h => Sys2Proof.Machine.execRsum d h s
  | .rmax d h => Sys2Proof.Machine.execRmax d h s
  | .argmax d h => Sys2Proof.Machine.execArgmax d h s
  | .smaxRun d h => Sys2Proof.Machine.execSmaxRun d h s
  | .smaxExact d h => Sys2Proof.Machine.execSmaxExact d h s
  | .layernorm d h => Sys2Proof.Machine.execLayernorm d h s
  | .rmsnorm d h => Sys2Proof.Machine.execRmsnorm d h s
  | .groupnorm d h => Sys2Proof.Machine.execGroupnorm d h s
  | .sieveSignal d h => Sys2Proof.Machine.execSieveSignal d h s
  | .sieveWait d h => Sys2Proof.Machine.execSieveWait d h s
  | .waitSatisfied u => Sys2Proof.Machine.execWaitSatisfied u s
  | .bellWaitTimeout u => Sys2Proof.Machine.execBellWaitTimeout u s
  | .gateNop d => Sys2Proof.Machine.execGateNop d s
  | .cscIn d => Sys2Proof.Machine.execCscIn d s
  | .conv d => Sys2Proof.Machine.execConv d s
  | .cscOut d => Sys2Proof.Machine.execCscOut d s
  | .gateSignal d => Sys2Proof.Machine.execGateSignal d s
  | .gateWait d => Sys2Proof.Machine.execGateWait d s
  | .granaryCommandStart pair q => Sys2Proof.Machine.execGranaryCommandStart pair q s
  | .granaryNop pair q => Sys2Proof.Machine.execGranaryNop pair q s
  | .read pair q => Sys2Proof.Machine.execRead pair q s
  | .write pair q => Sys2Proof.Machine.execWrite pair q s
  | .tileArrivalAtPair pair run tile => Sys2Proof.Machine.execTileArrivalAtPair pair run tile s
  | .copy pair q => Sys2Proof.Machine.execCopy pair q s
  | .fill pair q => Sys2Proof.Machine.execFill pair q s
  | .gather pair q => Sys2Proof.Machine.execGather pair q s
  | .treeAdd pair q => Sys2Proof.Machine.execTreeAdd pair q s
  | .redExp pair q => Sys2Proof.Machine.execRedExp pair q s
  | .redEmax pair q => Sys2Proof.Machine.execRedEmax pair q s
  | .redFix pair q => Sys2Proof.Machine.execRedFix pair q s
  | .redAdd pair q => Sys2Proof.Machine.execRedAdd pair q s
  | .redCheck pair q => Sys2Proof.Machine.execRedCheck pair q s
  | .redOut pair q => Sys2Proof.Machine.execRedOut pair q s
  | .optAdamw pair q => Sys2Proof.Machine.execOptAdamw pair q s
  | .scrub pair q => Sys2Proof.Machine.execScrub pair q s
  | .crc pair q => Sys2Proof.Machine.execCrc pair q s
  | .granarySignal pair q => Sys2Proof.Machine.execGranarySignal pair q s
  | .granaryWait pair q => Sys2Proof.Machine.execGranaryWait pair q s
  | .granaryCommandComplete pair q => Sys2Proof.Machine.execGranaryCommandComplete pair q s
  | .signalSet d bell v => Sys2Proof.Machine.execSignalSet d bell v s
  | .signalAdd d bell v => Sys2Proof.Machine.execSignalAdd d bell v s
  | .signalMax d bell v => Sys2Proof.Machine.execSignalMax d bell v s
  | .signalError d bell v => Sys2Proof.Machine.execSignalError d bell v s
  | .bellSet f d bell v => Sys2Proof.Machine.execBellSet f d bell v s
  | .bellAdd f d bell v => Sys2Proof.Machine.execBellAdd f d bell v s
  | .reeveHeartbeat d h v => Sys2Proof.Machine.execReeveHeartbeat d h v s
  | .reeveWatchdogExpiry d h => Sys2Proof.Machine.execReeveWatchdogExpiry d h s
  | .map m f v => Sys2Proof.Machine.execMap m f v s
  | .unmap m f v => Sys2Proof.Machine.execUnmap m f v s
  | .fieldCmdComplete f => Sys2Proof.Machine.execFieldCmdComplete f s
  | .bar2Read f va n => Sys2Proof.Machine.execBar2Read f va n s
  | .bar2Write f va bytes => Sys2Proof.Machine.execBar2Write f va bytes s
  | .dmaTail m f ch v => Sys2Proof.Machine.execDmaTail m f ch v s
  | .dmaCtrlWrite m f ch v => Sys2Proof.Machine.execDmaCtrlWrite m f ch v s
  | .dmaDescriptor f ch desc data => Sys2Proof.Machine.execDmaDescriptor f ch desc data s
  | .dmaComplete f ch => Sys2Proof.Machine.execDmaComplete f ch s
  | .linkDown => Sys2Proof.Machine.execLinkDown s
  | .ptpSync p => Sys2Proof.Machine.execPtpSync p s
  | .ptpArp ip => Sys2Proof.Machine.execPtpArp ip s
  | .announceTimeout => Sys2Proof.Machine.execAnnounceTimeout s
  | .frameRefEdge => Sys2Proof.Machine.execFrameRefEdge s
  | .frameRefMissing => Sys2Proof.Machine.execFrameRefMissing s
  | .holdoverLimit => Sys2Proof.Machine.execHoldoverLimit s
  | .merCtrlSourceWrite m v => Sys2Proof.Machine.execMerCtrlSourceWrite m v s
  | .merRateWrite m v => Sys2Proof.Machine.execMerRateWrite m v s
  | .merSetLo m v => Sys2Proof.Machine.execMerSetLo m v s
  | .merFrameNextLo m v => Sys2Proof.Machine.execMerFrameNextLo m v s
  | .merNowLo m => Sys2Proof.Machine.execMerNowLo m s
  | .almIndex m v => Sys2Proof.Machine.execAlmIndex m v s
  | .almCtrlWrite m v => Sys2Proof.Machine.execAlmCtrlWrite m v s
  | .cueDataWrite m v => Sys2Proof.Machine.execCueDataWrite m v s
  | .cueGroupOwner m v => Sys2Proof.Machine.execCueGroupOwner m v s
  | .cueDeferredApply entry => Sys2Proof.Machine.execCueDeferredApply entry s
  | .cuePortRead a en => Sys2Proof.Machine.execCuePortRead a en s
  | .phyLock d p => Sys2Proof.Machine.execPhyLock d p s
  | .phyLockLost d p => Sys2Proof.Machine.execPhyLockLost d p s
  | .retrain m d p => Sys2Proof.Machine.execRetrain m d p s
  | .ident d p x => Sys2Proof.Machine.execIdent d p x s
  | .probe d p x => Sys2Proof.Machine.execProbe d p x s
  | .echo d p x => Sys2Proof.Machine.execEcho d p x s
  | .data d p x => Sys2Proof.Machine.execData d p x s
  | .bell d p x => Sys2Proof.Machine.execBell d p x s
  | .jobStop d p x => Sys2Proof.Machine.execJobStop d p x s
  | .withdraw d p x => Sys2Proof.Machine.execWithdraw d p x s
  | .nak d p x => Sys2Proof.Machine.execNak d p x s
  | .replayTimeout d p => Sys2Proof.Machine.execReplayTimeout d p s
  | .flitTransmit d p => Sys2Proof.Machine.execFlitTransmit d p s
  | .routeCmdLoad m => Sys2Proof.Machine.execRouteCmdLoad m s
  | .routeLoadComplete => Sys2Proof.Machine.execRouteLoadComplete s
  | .bind m => Sys2Proof.Machine.execBind m s
  | .unbind m => Sys2Proof.Machine.execUnbind m s
  | .ffKatStart m d h => Sys2Proof.Machine.execFfKatStart m d h s
  | .ffKatDone d h => Sys2Proof.Machine.execFfKatDone d h s
  | .hbmMarginStart m stack v => Sys2Proof.Machine.execHbmMarginStart m stack v s
  | .hbmMarginDone stack => Sys2Proof.Machine.execHbmMarginDone stack s
  | .pageKey m page v => Sys2Proof.Machine.execPageKey m page v s
  | .pageOwnerWrite m page v => Sys2Proof.Machine.execPageOwnerWrite m page v s
  | .setViewWrite m a v => Sys2Proof.Machine.execSetViewWrite m a v s
  | .clearViewWrite m a v => Sys2Proof.Machine.execClearViewWrite m a v s
  | .faultCodeClear m page => Sys2Proof.Machine.execFaultCodeClear m page s
  | .snapCtrlTake m page v => Sys2Proof.Machine.execSnapCtrlTake m page v s
  | .sqSnapAll m v => Sys2Proof.Machine.execSqSnapAll m v s
  | .counterLoRead m a => Sys2Proof.Machine.execCounterLoRead m a s
  | .fieldMissRead m f => Sys2Proof.Machine.execFieldMissRead m f s
  | .faultFenceWrite m v => Sys2Proof.Machine.execFaultFenceWrite m v s
  | .dieCmdWrite m v => Sys2Proof.Machine.execDieCmdWrite m v s
  | .registerWrite m a v => Sys2Proof.Machine.execRegisterWrite m a v s
  | .regRead a n => Sys2Proof.Machine.execRegRead a n s
  | .regWrite a n vs => Sys2Proof.Machine.execRegWrite a n vs s
  | .reset kind die retain => Sys2Proof.Machine.execReset kind die retain s
  | .ledgerRead seq => Sys2Proof.Machine.execLedgerRead seq s
  | .commitSvn component => Sys2Proof.Machine.execCommitSvn component s
  | .setEndpointId eid => Sys2Proof.Machine.execSetEndpointId eid s
  | .entdaa addr => Sys2Proof.Machine.execEntdaa addr s
  | .setdasa statik dyn => Sys2Proof.Machine.execSetdasa statik dyn s
  | .getTid => Sys2Proof.Machine.execGetTid s
  | .getPldmVersion type => Sys2Proof.Machine.execGetPldmVersion type s
  | .getPldmTypes => Sys2Proof.Machine.execGetPldmTypes s
  | .getPldmCommands type => Sys2Proof.Machine.execGetPldmCommands type s
  | .getPdrRepositoryInfo => Sys2Proof.Machine.execGetPdrRepositoryInfo s
  | .getPdr handle => Sys2Proof.Machine.execGetPdr handle s
  | .getSensorReading id => Sys2Proof.Machine.execGetSensorReading id s
  | .getStateSensorReadings id => Sys2Proof.Machine.execGetStateSensorReadings id s
  | .setNumericEffecterValue id v => Sys2Proof.Machine.execSetNumericEffecterValue id v s
  | .getNumericEffecterValue id => Sys2Proof.Machine.execGetNumericEffecterValue id s
  | .requestUpdate component => Sys2Proof.Machine.execRequestUpdate component s
  | .verifyComplete image => Sys2Proof.Machine.execVerifyComplete image s
  | .activateFirmware => Sys2Proof.Machine.execActivateFirmware s
  | .ledgerFlush => Sys2Proof.Machine.execLedgerFlush s
  | .hostLinkUp speed width flit cfg => Sys2Proof.Machine.execHostLinkUp speed width flit cfg s
  | .announce ann => Sys2Proof.Machine.execAnnounce ann s
  | .followUp origin seq => Sys2Proof.Machine.execFollowUp origin seq s
  | .delayResponse rx seq => Sys2Proof.Machine.execDelayResponse rx seq s
  | .idleFlit d p x => Sys2Proof.Machine.execIdleFlit d p x s
  | .refclkLoss => Sys2Proof.Machine.execRefclkLoss s
  | .islandPowerOn wmAddr => Sys2Proof.Machine.execIslandPowerOn wmAddr s
  | .limiterAclkRaise mhz duty => Sys2Proof.Machine.execLimiterAclkRaise mhz duty s
  | .extest tap => Sys2Proof.Machine.execExtest tap s

end Sys2Proof.Machine
end

