-- ==== Sys2Proof/WellFormed.lean ====
section
/-! DEFINITION. Well-formed commands: every operand names a unit, register or value that the package has. -/

namespace Sys2Proof

/-- A master is the Watchman or one of 32 functions (R393). -/
def Master.ok : Master → Bool
  | .host f => decide (f < 32)
  | .watchman => true

/-- A unit that waits exists. -/
def UnitRef.ok : UnitRef → Bool
  | .loom d h l => decide (d < 8) && decide (h < 4) && decide (l < 8)
  | .sieve d h => decide (d < 8) && decide (h < 4)
  | .gate d => decide (d < 8)
  | .queue pair q => decide (pair < 8) && decide (q < 33)

/-- A tile's destination exists. -/
def TileDest.ok : TileDest → Bool
  | .loom d h l addr => decide (d < 8) && decide (h < 4) && decide (l < 8) && decide (addr < 2048)
  | .sieve d h => decide (d < 8) && decide (h < 4)
  | .gate d => decide (d < 8)
  | .commons d => decide (d < 8)
  | .bells d => decide (d < 8)
  | .reeve d h => decide (d < 8) && decide (h < 4)

/-- A flit has 240 payload bytes (R370). -/
def Flit.ok (x : Flit) : Bool := x.payload.length == 240

/-- The command is well formed. -/
def wellFormed : Instr → Bool
  | .mainOkRise => true
  | .mainOkFall => true
  | .islandRailLoss => true
  | .perstNAssert => true
  | .perstNRelease => true
  | .hbmTrainingComplete failed => (failed.all fun k => decide (k < 16))
  | .functionLevelReset f => decide (f < 32)
  | .wakeN => true
  | .nwWakeTransit => true
  | .thermalTrip unit degc => decide (unit < 33) && decide (degc < 256)
  | .supplyDroop rail => decide (rail < 68)
  | .temporaryFenceRelease die => decide (die < 8)
  | .runTimeFault _ => true
  | .stepRestart job => decide (job < 65536)
  | .softRepair stack pc _ => decide (stack < 16) && decide (pc < 64)
  | .patrolScrub stack => decide (stack < 16)
  | .selfRefreshEntry stack => decide (stack < 16)
  | .duskEntry die => decide (die < 8)
  | .twilight => true
  | .daylight => true
  | .nightwatchRequest m => m.ok
  | .nightwatchEntry => true
  | .powerCapWrite m _ => m.ok
  | .thermalCapWrite m _ => m.ok
  | .capApply => true
  | .limiterAclkChange limit mhz duty => (decide (1 ≤ limit) && decide (limit ≤ 2)) && (decide (900 ≤ mhz) && decide (mhz ≤ 1800) && mhz % 10 == 0) && (decide (1 ≤ duty) && decide (duty ≤ 64))
  | .retest => true
  | .deadlineTransit entry => decide (entry < 2048)
  | .startTransit entry => decide (entry < 2048)
  | .pieceDispatch die => decide (die < 8)
  | .stepStart job => decide (job < 65536)
  | .stepCommit job => decide (job < 65536)
  | .heldCommit job => decide (job < 65536)
  | .barrierRelease job => decide (job < 65536)
  | .ringTail f ring _ => decide (f < 32) && decide (ring < 64)
  | .cmplHead f ring _ => decide (f < 32) && decide (ring < 64)
  | .ringCtrlWrite f ring _ => decide (f < 32) && decide (ring < 64)
  | .ticketFetch f ring _ => decide (f < 32) && decide (ring < 64)
  | .ticketHoldRelease f ring => decide (f < 32) && decide (ring < 64)
  | .pass d h l => decide (d < 8) && decide (h < 4) && decide (l < 8)
  | .replayPass d h l => decide (d < 8) && decide (h < 4) && decide (l < 8)
  | .instructionRetire d h l => decide (d < 8) && decide (h < 4) && decide (l < 8)
  | .fenceIssue d h l => decide (d < 8) && decide (h < 4) && decide (l < 8)
  | .drain d h l => decide (d < 8) && decide (h < 4) && decide (l < 8)
  | .rampDown d h l => decide (d < 8) && decide (h < 4) && decide (l < 8)
  | .rampUp d h l => decide (d < 8) && decide (h < 4) && decide (l < 8)
  | .rampStep d h l => decide (d < 8) && decide (h < 4) && decide (l < 8)
  | .rampGrant d h l => decide (d < 8) && decide (h < 4) && decide (l < 8)
  | .tileArrival dest _ => dest.ok
  | .multicast d _ _ addr => decide (d < 8) && decide (addr < 2048)
  | .sieveNop d h => decide (d < 8) && decide (h < 4)
  | .fma d h => decide (d < 8) && decide (h < 4)
  | .add d h => decide (d < 8) && decide (h < 4)
  | .mul d h => decide (d < 8) && decide (h < 4)
  | .min d h => decide (d < 8) && decide (h < 4)
  | .max d h => decide (d < 8) && decide (h < 4)
  | .cmpLt d h => decide (d < 8) && decide (h < 4)
  | .cmpEq d h => decide (d < 8) && decide (h < 4)
  | .select d h => decide (d < 8) && decide (h < 4)
  | .copysign d h => decide (d < 8) && decide (h < 4)
  | .exp2 d h => decide (d < 8) && decide (h < 4)
  | .log2 d h => decide (d < 8) && decide (h < 4)
  | .expE d h => decide (d < 8) && decide (h < 4)
  | .reciprocal d h => decide (d < 8) && decide (h < 4)
  | .rsqrt d h => decide (d < 8) && decide (h < 4)
  | .tanh d h => decide (d < 8) && decide (h < 4)
  | .sigmoid d h => decide (d < 8) && decide (h < 4)
  | .silu d h => decide (d < 8) && decide (h < 4)
  | .gelu d h => decide (d < 8) && decide (h < 4)
  | .gumbel d h => decide (d < 8) && decide (h < 4)
  | .convert d h => decide (d < 8) && decide (h < 4)
  | .rsum d h => decide (d < 8) && decide (h < 4)
  | .rmax d h => decide (d < 8) && decide (h < 4)
  | .argmax d h => decide (d < 8) && decide (h < 4)
  | .smaxRun d h => decide (d < 8) && decide (h < 4)
  | .smaxExact d h => decide (d < 8) && decide (h < 4)
  | .layernorm d h => decide (d < 8) && decide (h < 4)
  | .rmsnorm d h => decide (d < 8) && decide (h < 4)
  | .groupnorm d h => decide (d < 8) && decide (h < 4)
  | .sieveSignal d h => decide (d < 8) && decide (h < 4)
  | .sieveWait d h => decide (d < 8) && decide (h < 4)
  | .waitSatisfied u => u.ok
  | .bellWaitTimeout u => u.ok
  | .gateNop d => decide (d < 8)
  | .cscIn d => decide (d < 8)
  | .conv d => decide (d < 8)
  | .cscOut d => decide (d < 8)
  | .gateSignal d => decide (d < 8)
  | .gateWait d => decide (d < 8)
  | .granaryCommandStart pair q => decide (pair < 8) && decide (q < 33)
  | .granaryNop pair q => decide (pair < 8) && decide (q < 33)
  | .read pair q => decide (pair < 8) && decide (q < 33)
  | .write pair q => decide (pair < 8) && decide (q < 33)
  | .tileArrivalAtPair pair _ _ => decide (pair < 8)
  | .copy pair q => decide (pair < 8) && decide (q < 33)
  | .fill pair q => decide (pair < 8) && decide (q < 33)
  | .gather pair q => decide (pair < 8) && decide (q < 33)
  | .treeAdd pair q => decide (pair < 8) && decide (q < 33)
  | .redExp pair q => decide (pair < 8) && decide (q < 33)
  | .redEmax pair q => decide (pair < 8) && decide (q < 33)
  | .redFix pair q => decide (pair < 8) && decide (q < 33)
  | .redAdd pair q => decide (pair < 8) && decide (q < 33)
  | .redCheck pair q => decide (pair < 8) && decide (q < 33)
  | .redOut pair q => decide (pair < 8) && decide (q < 33)
  | .optAdamw pair q => decide (pair < 8) && decide (q < 33)
  | .scrub pair q => decide (pair < 8) && decide (q < 33)
  | .crc pair q => decide (pair < 8) && decide (q < 33)
  | .granarySignal pair q => decide (pair < 8) && decide (q < 33)
  | .granaryWait pair q => decide (pair < 8) && decide (q < 33)
  | .granaryCommandComplete pair q => decide (pair < 8) && decide (q < 33)
  | .signalSet d bell _ => decide (d < 8) && decide (bell < 4096)
  | .signalAdd d bell _ => decide (d < 8) && decide (bell < 4096)
  | .signalMax d bell _ => decide (d < 8) && decide (bell < 4096)
  | .signalError d bell _ => decide (d < 8) && decide (bell < 4096)
  | .bellSet f d bell _ => decide (f < 32) && decide (d < 8) && decide (bell < 4096)
  | .bellAdd f d bell _ => decide (f < 32) && decide (d < 8) && decide (bell < 4096)
  | .reeveHeartbeat d h _ => decide (d < 8) && decide (h < 4)
  | .reeveWatchdogExpiry d h => decide (d < 8) && decide (h < 4)
  | .map m f _ => m.ok && decide (f < 32)
  | .unmap m f _ => m.ok && decide (f < 32)
  | .fieldCmdComplete f => decide (f < 32)
  | .bar2Read f va _ => decide (f < 32) && decide (va < 2 ^ 48)
  | .bar2Write f va _ => decide (f < 32) && decide (va < 2 ^ 48)
  | .dmaTail m f ch _ => m.ok && decide (f < 32) && decide (ch < 4)
  | .dmaCtrlWrite m f ch _ => m.ok && decide (f < 32) && decide (ch < 4)
  | .dmaDescriptor f ch desc _ => decide (f < 32) && decide (ch < 4) && desc.length == 32
  | .dmaComplete f ch => decide (f < 32) && decide (ch < 4)
  | .linkDown => true
  | .ptpSync _ => true
  | .ptpArp ip => decide (ip < 2 ^ 32)
  | .announceTimeout => true
  | .frameRefEdge => true
  | .frameRefMissing => true
  | .holdoverLimit => true
  | .merCtrlSourceWrite m _ => m.ok
  | .merRateWrite m _ => m.ok
  | .merSetLo m _ => m.ok
  | .merFrameNextLo m _ => m.ok
  | .merNowLo m => m.ok
  | .almIndex m _ => m.ok
  | .almCtrlWrite m _ => m.ok
  | .cueDataWrite m _ => m.ok
  | .cueGroupOwner m _ => m.ok
  | .cueDeferredApply entry => decide (entry < 4096)
  | .cuePortRead a _ => decide (a < 4096)
  | .phyLock d p => decide (d < 8) && decide (p < 14)
  | .phyLockLost d p => decide (d < 8) && decide (p < 14)
  | .retrain m d p => m.ok && decide (d < 8) && decide (p < 14)
  | .ident d p x => decide (d < 8) && decide (p < 14) && x.ok
  | .probe d p x => decide (d < 8) && decide (p < 14) && x.ok
  | .echo d p x => decide (d < 8) && decide (p < 14) && x.ok
  | .data d p x => decide (d < 8) && decide (p < 14) && x.ok
  | .bell d p x => decide (d < 8) && decide (p < 14) && x.ok
  | .jobStop d p x => decide (d < 8) && decide (p < 14) && x.ok
  | .withdraw d p x => decide (d < 8) && decide (p < 14) && x.ok
  | .nak d p x => decide (d < 8) && decide (p < 14) && x.ok
  | .replayTimeout d p => decide (d < 8) && decide (p < 14)
  | .flitTransmit d p => decide (d < 8) && decide (p < 14)
  | .routeCmdLoad m => m.ok
  | .routeLoadComplete => true
  | .bind m => m.ok
  | .unbind m => m.ok
  | .ffKatStart m d h => m.ok && decide (d < 8) && decide (h < 4)
  | .ffKatDone d h => decide (d < 8) && decide (h < 4)
  | .hbmMarginStart m stack _ => m.ok && decide (stack < 16)
  | .hbmMarginDone stack => decide (stack < 16)
  | .pageKey m page _ => m.ok && decide (page < 0x4000)
  | .pageOwnerWrite m page _ => m.ok && decide (page < 0x4000)
  | .setViewWrite m a _ => m.ok && (decide (a < 0x4000000) && a % 4 == 0)
  | .clearViewWrite m a _ => m.ok && (decide (a < 0x4000000) && a % 4 == 0)
  | .faultCodeClear m page => m.ok && decide (page < 0x4000)
  | .snapCtrlTake m page _ => m.ok && decide (page < 0x4000)
  | .sqSnapAll m _ => m.ok
  | .counterLoRead m a => m.ok && decide (a.addr < 0x6000000) && decide (1 ≤ a.size)
  | .fieldMissRead m f => m.ok && decide (f < 32)
  | .faultFenceWrite m _ => m.ok
  | .dieCmdWrite m _ => m.ok
  | .registerWrite m a _ => m.ok && decide (a.addr < 0x6000000) && decide (1 ≤ a.size)
  | .regRead a n => (decide (a < 0x4000000) && a % 4 == 0) && (decide (1 ≤ n) && decide (n ≤ 16))
  | .regWrite a n vs => (decide (a < 0x4000000) && a % 4 == 0) && (decide (1 ≤ n) && decide (n ≤ 16)) && vs.length == n
  | .reset kind die _ => decide (kind < 3) && decide (die < 8)
  | .ledgerRead seq => decide (seq < 2 ^ 64)
  | .commitSvn component => decide (1 ≤ component) && decide (component ≤ 4)
  | .setEndpointId eid => decide (eid < 256)
  | .entdaa addr => decide (addr < 128)
  | .setdasa _ _ => true
  | .getTid => true
  | .getPldmVersion _ => true
  | .getPldmTypes => true
  | .getPldmCommands _ => true
  | .getPdrRepositoryInfo => true
  | .getPdr _ => true
  | .getSensorReading _ => true
  | .getStateSensorReadings _ => true
  | .setNumericEffecterValue _ _ => true
  | .getNumericEffecterValue _ => true
  | .requestUpdate component => decide (1 ≤ component) && decide (component ≤ 4)
  | .verifyComplete _ => true
  | .activateFirmware => true
  | .ledgerFlush => true
  | .hostLinkUp speed width _ cfg => decide (speed < 8) && decide (width < 32) && decide (cfg.vfs ≤ 31)
  | .announce _ => true
  | .followUp _ seq => decide (seq < 2 ^ 64)
  | .delayResponse _ seq => decide (seq < 2 ^ 64)
  | .idleFlit d p x => decide (d < 8) && decide (p < 14) && x.ok
  | .refclkLoss => true
  | .islandPowerOn wmAddr => decide (wmAddr < 4)
  | .limiterAclkRaise mhz duty => (decide (900 ≤ mhz) && decide (mhz ≤ 1800) && mhz % 10 == 0) && (decide (1 ≤ duty) && decide (duty ≤ 64))
  | .extest _ => true

end Sys2Proof
end

