-- ==== Sys2Proof/Safety.lean ====
section
/-! DEFINITION. What counts as a safe run, in the terms the statements use. -/

namespace Sys2Proof.Machine

/-- HBM is in canonical form: addresses rise strictly and no byte equals what an unlisted address reads as (log 6). -/
def Memory.wf (m : List Host.Cell) : Bool := SMap.wf 0#8 m

/-- What every step keeps: HBM and the register file are in canonical form, the package is awake, about to enter NIGHTWATCH, or
in it (R454), and its dies have as many Looms as its grade gives them (R19). -/
def State.Inv (s : State) : Prop :=
  Memory.wf s.mem = true ∧ SMap.wfF resetWord s.regs = true ∧ s.board.night ≤ 2 ∧ s.fuses.ok = true

/-- What no command undoes, from a state to a later one: the queue is the step's alone, the canonical forms stay, time does
not run back, fuses change in nothing but a minimum security version, which never falls (R412), and a Ledger number is
never given twice (R457). -/
structure State.Keeps (a b : State) : Prop where
  queue : b.pending = a.pending
  mem : Memory.wf a.mem = true → Memory.wf b.mem = true
  regs : SMap.wfF resetWord a.regs = true → SMap.wfF resetWord b.regs = true
  clock : a.now ≤ b.now
  opened : a.freeCount ≤ b.freeCount
  fuses : b.fuses = { a.fuses with minSvn := b.fuses.minSvn }
  svn : ∀ c, a.fuses.minSvn.getD c 0 ≤ b.fuses.minSvn.getD c 0
  ledger : a.ledger.next ≤ b.ledger.next
  night : a.board.night ≤ 2 → b.board.night ≤ 2

/-- The kinds of state, one for each field of State. -/
inductive Part where
  | pending | now | freeCount | fuses | board | regs | guards | latch | snaps | mem | margined | hbmStacks | fields
  | fieldReqs | dma | dmaLost | ringLost | bells | loader | alm | cue | mer | looms | sieves | gates | pairs | sram
  | reeves | kats | flight | ferry | power | faults | restarts | ledger | wm | out
  deriving DecidableEq, Repr

/-- State b is state a but for the kinds of state that w lists. -/
structure State.SameBut (w : List Part) (a b : State) : Prop where
  pending : .pending ∉ w → b.pending = a.pending
  now : .now ∉ w → b.now = a.now
  freeCount : .freeCount ∉ w → b.freeCount = a.freeCount
  fuses : .fuses ∉ w → b.fuses = a.fuses
  board : .board ∉ w → b.board = a.board
  regs : .regs ∉ w → b.regs = a.regs
  guards : .guards ∉ w → b.guards = a.guards
  latch : .latch ∉ w → b.latch = a.latch
  snaps : .snaps ∉ w → b.snaps = a.snaps
  mem : .mem ∉ w → b.mem = a.mem
  margined : .margined ∉ w → b.margined = a.margined
  hbmStacks : .hbmStacks ∉ w → b.hbmStacks = a.hbmStacks
  fields : .fields ∉ w → b.fields = a.fields
  fieldReqs : .fieldReqs ∉ w → b.fieldReqs = a.fieldReqs
  dma : .dma ∉ w → b.dma = a.dma
  dmaLost : .dmaLost ∉ w → b.dmaLost = a.dmaLost
  ringLost : .ringLost ∉ w → b.ringLost = a.ringLost
  bells : .bells ∉ w → b.bells = a.bells
  loader : .loader ∉ w → b.loader = a.loader
  alm : .alm ∉ w → b.alm = a.alm
  cue : .cue ∉ w → b.cue = a.cue
  mer : .mer ∉ w → b.mer = a.mer
  looms : .looms ∉ w → b.looms = a.looms
  sieves : .sieves ∉ w → b.sieves = a.sieves
  gates : .gates ∉ w → b.gates = a.gates
  pairs : .pairs ∉ w → b.pairs = a.pairs
  sram : .sram ∉ w → b.sram = a.sram
  reeves : .reeves ∉ w → b.reeves = a.reeves
  kats : .kats ∉ w → b.kats = a.kats
  flight : .flight ∉ w → b.flight = a.flight
  ferry : .ferry ∉ w → b.ferry = a.ferry
  power : .power ∉ w → b.power = a.power
  faults : .faults ∉ w → b.faults = a.faults
  restarts : .restarts ∉ w → b.restarts = a.restarts
  ledger : .ledger ∉ w → b.ledger = a.ledger
  wm : .wm ∉ w → b.wm = a.wm
  out : .out ∉ w → b.out = a.out

/-- The outcome is a next state. -/
def Goes (o : Host.Outcome State Fault Refusal) : Prop := ∃ t, o = .next t

/-- A run of n steps is safe: no step faults or is refused. -/
def SafeRun (n : Nat) (s : State) : Prop := ∃ t, Host.Core.run Sys2Proof.core n s = .next t

/-- Register fields are changed only at the addresses of `as`. -/
def State.regsKeptBut (s t : State) (as : List Nat) : Prop := ∀ a, a ∉ as → t.reg a = s.reg a

/-- Every HBM byte outside `n` bytes from `pa` reads as before (R244). -/
def State.memKeptBut (s t : State) (pa n : Nat) : Prop := ∀ x, x < pa ∨ pa + n ≤ x → t.byteAt x = s.byteAt x

/-- Every HBM byte reads as before. -/
def State.memKept (s t : State) : Prop := ∀ x, t.byteAt x = s.byteAt x

/-- Every kind of state but those listed. -/
def partsBut (xs : List Part) : List Part :=
  [.pending, .now, .freeCount, .fuses, .board, .regs, .guards, .latch, .snaps, .mem, .margined, .hbmStacks, .fields, .fieldReqs,
    .dma, .dmaLost, .ringLost, .bells, .loader, .alm, .cue, .mer, .looms, .sieves, .gates, .pairs, .sram, .reeves, .kats, .flight,
    .ferry, .power, .faults, .restarts, .ledger, .wm, .out].filter fun x => !xs.contains x

/-- The kinds of state that a command may write; it leaves every other kind as it was. -/
def writes : Instr → List Part
  | .mainOkRise .. | .mainOkFall .. | .islandRailLoss .. | .perstNAssert .. | .islandPowerOn .. =>
    partsBut [.pending, .now, .freeCount, .fuses]
  | .perstNRelease .. | .hostLinkUp .. | .extest .. =>
    [.board, .regs]
  | .hbmTrainingComplete .. | .thermalTrip .. | .supplyDroop .. | .runTimeFault .. =>
    partsBut [.pending, .fuses, .guards, .latch, .snaps, .margined, .fields, .fieldReqs, .dma, .dmaLost, .ringLost, .mer,
      .wm]
  | .functionLevelReset .. =>
    partsBut [.pending, .now, .fuses, .margined, .mer, .kats, .power, .wm]
  | .wakeN .. =>
    [.board, .regs, .guards, .latch, .snaps, .mer, .power, .out]
  | .nwWakeTransit .. =>
    [.now, .board, .regs, .guards, .latch, .snaps, .mer, .power, .out]
  | .temporaryFenceRelease .. =>
    partsBut [.pending, .fuses, .board, .margined, .fields, .fieldReqs, .dma, .dmaLost, .ringLost, .mer, .wm]
  | .stepRestart .. =>
    [.freeCount, .regs, .mem, .hbmStacks, .bells, .loader, .power, .faults, .restarts, .out]
  | .softRepair .. =>
    [.regs, .hbmStacks, .faults, .ledger, .out]
  | .patrolScrub .. | .granaryNop .. =>
    [.pairs]
  | .selfRefreshEntry .. | .setdasa .. | .limiterAclkRaise .. =>
    [.regs]
  | .duskEntry .. | .capApply .. =>
    [.regs, .power, .out]
  | .twilight .. =>
    [.regs, .bells, .alm, .looms, .sieves, .gates, .sram, .reeves, .kats, .ferry, .power, .out]
  | .daylight .. =>
    [.regs, .guards, .latch, .snaps, .power, .out]
  | .nightwatchRequest .. | .powerCapWrite .. | .thermalCapWrite .. | .ringTail .. | .cmplHead .. | .ringCtrlWrite ..
    | .map .. | .unmap .. | .dmaTail .. | .dmaCtrlWrite .. | .merCtrlSourceWrite .. | .merRateWrite .. | .merSetLo ..
    | .merFrameNextLo .. | .almIndex .. | .almCtrlWrite .. | .cueDataWrite .. | .cueGroupOwner .. | .retrain ..
    | .routeCmdLoad .. | .bind .. | .unbind .. | .ffKatStart .. | .hbmMarginStart .. | .pageKey .. | .pageOwnerWrite ..
    | .setViewWrite .. | .clearViewWrite .. | .faultCodeClear .. | .snapCtrlTake .. | .sqSnapAll .. | .faultFenceWrite ..
    | .dieCmdWrite .. | .registerWrite .. | .regWrite .. | .setNumericEffecterValue .. =>
    partsBut [.pending, .fuses, .latch, .margined, .fields, .dma, .wm]
  | .nightwatchEntry .. =>
    [.board, .regs, .mer, .looms, .sieves, .gates, .pairs, .sram, .reeves, .kats, .flight, .ferry, .out]
  | .limiterAclkChange .. =>
    [.regs, .power]
  | .retest .. | .ticketFetch .. | .ticketHoldRelease .. | .ident .. | .probe .. | .echo .. | .data .. | .bell ..
    | .jobStop .. | .withdraw .. | .nak .. =>
    [.now, .freeCount, .regs, .mem, .hbmStacks, .bells, .loader, .alm, .cue, .looms, .sieves, .gates, .pairs, .sram,
      .reeves, .flight, .ferry, .power, .faults, .restarts, .ledger, .out]
  | .deadlineTransit .. =>
    [.now, .freeCount, .regs, .mem, .hbmStacks, .bells, .loader, .alm, .cue, .looms, .sieves, .gates, .pairs, .sram,
      .reeves, .flight, .ferry, .faults, .restarts, .ledger, .out]
  | .startTransit .. =>
    [.now, .regs, .loader, .out]
  | .pieceDispatch .. =>
    [.regs, .loader, .alm, .looms, .sieves, .gates, .pairs, .reeves, .power, .faults, .out]
  | .stepStart .. =>
    [.freeCount, .regs, .mem, .hbmStacks, .bells, .loader, .faults, .out]
  | .stepCommit .. =>
    [.now, .freeCount, .regs, .mem, .hbmStacks, .bells, .loader, .alm, .cue, .looms, .sieves, .gates, .pairs, .sram,
      .reeves, .faults, .out]
  | .heldCommit .. =>
    [.now, .freeCount, .regs, .mem, .hbmStacks, .bells, .loader, .alm, .cue, .looms, .sieves, .gates, .pairs, .sram,
      .faults, .out]
  | .barrierRelease .. =>
    [.regs, .bells, .loader, .looms, .sieves, .gates, .pairs, .ferry, .faults, .out]
  | .pass .. =>
    [.regs, .bells, .looms, .sieves, .gates, .pairs, .sram, .faults, .out]
  | .replayPass .. | .rampDown .. =>
    [.regs, .looms, .out]
  | .instructionRetire .. | .fenceIssue .. | .sieveSignal .. | .gateSignal .. | .signalError .. =>
    [.regs, .bells, .looms, .sieves, .gates, .pairs, .faults, .out]
  | .drain .. =>
    [.regs, .looms, .sram, .faults]
  | .rampUp .. | .rampStep .. =>
    [.looms]
  | .rampGrant .. =>
    [.now, .regs, .looms, .power, .out]
  | .tileArrival .. =>
    [.regs, .bells, .looms, .sieves, .gates, .pairs, .sram, .reeves, .flight, .faults, .out]
  | .multicast .. =>
    [.regs, .looms, .reeves, .faults]
  | .sieveNop .. =>
    [.regs, .sieves, .faults]
  | .fma .. | .add .. | .mul .. | .min .. | .max .. | .cmpLt .. | .cmpEq .. | .select .. | .copysign .. | .exp2 ..
    | .log2 .. | .expE .. | .reciprocal .. | .rsqrt .. | .tanh .. | .sigmoid .. | .silu .. | .gelu .. | .gumbel ..
    | .convert .. | .rsum .. | .rmax .. | .argmax .. | .smaxRun .. | .smaxExact .. | .layernorm .. | .rmsnorm ..
    | .groupnorm .. =>
    [.regs, .sieves, .sram, .faults, .out]
  | .sieveWait .. | .gateWait .. =>
    [.regs, .looms, .sieves, .gates, .pairs, .faults]
  | .waitSatisfied .. =>
    [.regs, .looms, .sieves, .gates, .pairs]
  | .bellWaitTimeout .. =>
    [.now, .regs, .looms, .sieves, .gates, .pairs, .faults, .out]
  | .gateNop .. =>
    [.regs, .gates, .faults]
  | .cscIn .. | .conv .. | .cscOut .. =>
    [.regs, .gates, .sram, .faults, .out]
  | .granaryCommandStart .. | .write .. =>
    [.regs, .mem, .hbmStacks, .pairs, .faults, .out]
  | .read .. | .copy .. | .fill .. | .treeAdd .. | .redExp .. | .redEmax .. | .redFix .. | .redAdd .. | .redCheck ..
    | .redOut .. | .optAdamw .. | .crc .. =>
    [.regs, .mem, .hbmStacks, .looms, .pairs, .flight, .ferry, .faults, .out]
  | .tileArrivalAtPair .. =>
    [.regs, .mem, .hbmStacks, .pairs, .flight, .faults, .out]
  | .gather .. =>
    [.regs, .mem, .hbmStacks, .loader, .looms, .pairs, .flight, .ferry, .faults, .out]
  | .scrub .. =>
    [.regs, .hbmStacks, .pairs, .faults, .out]
  | .granarySignal .. =>
    [.freeCount, .regs, .mem, .hbmStacks, .bells, .loader, .looms, .sieves, .gates, .pairs, .ferry, .faults, .out]
  | .granaryWait .. =>
    [.looms, .sieves, .gates, .pairs]
  | .granaryCommandComplete .. =>
    [.regs, .pairs]
  | .signalSet .. | .signalAdd .. | .signalMax .. | .bellSet .. | .bellAdd .. =>
    [.regs, .bells, .looms, .sieves, .gates, .pairs, .out]
  | .reeveHeartbeat .. =>
    [.reeves]
  | .reeveWatchdogExpiry .. =>
    [.now, .regs, .reeves, .faults, .out]
  | .fieldCmdComplete .. =>
    [.regs, .fields, .fieldReqs]
  | .bar2Read .. =>
    [.freeCount, .regs, .hbmStacks, .faults, .out]
  | .bar2Write .. =>
    [.regs, .mem, .hbmStacks, .faults, .out]
  | .dmaDescriptor .. =>
    [.freeCount, .regs, .mem, .hbmStacks, .dma, .faults, .out]
  | .dmaComplete .. =>
    [.regs, .dma, .out]
  | .linkDown .. =>
    [.board, .regs, .out]
  | .ptpSync .. | .followUp .. =>
    [.regs, .mer, .out]
  | .ptpArp .. | .ledgerRead .. | .getTid .. | .getPldmVersion .. | .getPldmTypes .. | .getPldmCommands ..
    | .getPdrRepositoryInfo .. | .getPdr .. | .getSensorReading .. | .getStateSensorReadings ..
    | .getNumericEffecterValue .. =>
    [.out]
  | .announceTimeout .. | .frameRefEdge .. | .frameRefMissing .. | .holdoverLimit .. =>
    [.now, .freeCount, .regs, .mem, .hbmStacks, .bells, .loader, .alm, .cue, .mer, .looms, .sieves, .gates, .pairs,
      .sram, .reeves, .flight, .ferry, .faults, .restarts, .ledger, .out]
  | .merNowLo .. | .counterLoRead .. | .fieldMissRead .. | .regRead .. =>
    [.regs, .latch, .out]
  | .cueDeferredApply .. =>
    [.now, .regs, .cue, .out]
  | .cuePortRead .. =>
    [.cue]
  | .phyLock .. =>
    [.regs, .ferry, .out]
  | .phyLockLost .. | .replayTimeout .. | .idleFlit .. =>
    [.regs, .ferry, .faults, .out]
  | .flitTransmit .. =>
    [.regs, .flight, .ferry, .out]
  | .routeLoadComplete .. =>
    [.regs, .ferry]
  | .ffKatDone .. =>
    [.regs, .kats]
  | .hbmMarginDone .. =>
    [.freeCount, .regs, .margined, .hbmStacks]
  | .reset .. =>
    partsBut [.pending, .fuses]
  | .commitSvn .. =>
    [.fuses, .out]
  | .setEndpointId .. | .entdaa .. =>
    [.regs, .out]
  | .requestUpdate .. | .verifyComplete .. =>
    [.wm, .out]
  | .activateFirmware .. =>
    [.board, .regs, .guards, .latch, .snaps, .ledger, .wm, .out]
  | .ledgerFlush .. =>
    [.ledger]
  | .announce .. | .delayResponse .. =>
    [.mer]
  | .refclkLoss .. =>
    [.board, .regs, .ledger, .out]

/-! ### Register writes -/

/-- The master, the address and the word of a command that is a register write; none where the command writes nothing with
these operands, and none for a Bell slot. -/
def busOf : Instr → Option (Master × Nat × Word)
  | .registerWrite m ⟨a, size⟩ v => if a % 4 = 0 ∧ size = 4 ∧ (a < 0x4000000 ∨ 0x4080000 ≤ a) then some (m, a, v) else none
  | .setViewWrite m a v =>
    if a % 4 = 0 ∧ (a < 0x4000000 ∨ 0x4080000 ≤ a) ∧ a % 0x1000 / 0x400 = 1 then some (m, a, v) else none
  | .clearViewWrite m a v =>
    if a % 4 = 0 ∧ (a < 0x4000000 ∨ 0x4080000 ≤ a) ∧ a % 0x1000 / 0x400 = 2 then some (m, a, v) else none
  | .pageKey m page v => some (m, page * 0x1000 + 0x00C, v)
  | .pageOwnerWrite m page v => some (m, page * 0x1000 + 0x008, v)
  | .faultCodeClear m page => some (m, page * 0x1000 + 0x024, 0x80000000#32)
  | .snapCtrlTake m page v => some (m, page * 0x1000 + 0x030, v)
  | .sqSnapAll m v => some (m, (sqPage .squareCtrl).reg 0x05C, v)
  | .faultFenceWrite m v => some (m, (sqPage .fault).reg 0x04C, v)
  | .dieCmdWrite m v => some (m, powerPage.reg 0x05C, v)
  | .nightwatchRequest m => some (m, powerPage.reg 0x444, 4)
  | .powerCapWrite m v => some (m, powerPage.reg 0x048, v)
  | .thermalCapWrite m v => some (m, powerPage.reg 0x04C, v)
  | .merCtrlSourceWrite m v => some (m, merPage.reg 0x044, v)
  | .merRateWrite m v => some (m, merPage.reg 0x048, v)
  | .merSetLo m v => some (m, merPage.reg 0x068, v)
  | .merFrameNextLo m v => some (m, merPage.reg 0x060, v)
  | .almIndex m v => some (m, (sqPage .almanac).reg 0x04C, v)
  | .almCtrlWrite m v => some (m, (sqPage .almanac).reg 0x044, v)
  | .cueDataWrite m v => some (m, (sqPage .cue).reg 0x04C, v)
  | .cueGroupOwner m v => some (m, (sqPage .cue).reg 0x054, v)
  | .retrain m d p => if portOk d p then some (m, (portPage d p).reg 0x444, 16) else none
  | .routeCmdLoad m => some (m, (sqPage .ferryPkg).reg 0x050, 1)
  | .bind m => some (m, (sqPage .ferryPkg).reg 0x068, 1)
  | .unbind m => some (m, (sqPage .ferryPkg).reg 0x068, 2)
  | .ffKatStart m d h => if hamletOk d h then some (m, (fireflyPage d h).reg 0x044, 1) else none
  | .hbmMarginStart m k v => if k < 16 then some (m, (hbmPage k).reg 0x060, v) else none
  | .map m f v => if v.toNat % 4 = 1 then some (m, hostAddr m f + 0x208, v) else none
  | .unmap m f v => if v.toNat % 4 = 2 then some (m, hostAddr m f + 0x208, v) else none
  | .dmaTail m f ch v => if ch < 4 then some (m, hostAddr m f + 0x100 + ch * 0x20 + 0x0C, v) else none
  | .dmaCtrlWrite m f ch v => if ch < 4 then some (m, hostAddr m f + 0x100 + ch * 0x20 + 0x08, v) else none
  | .ringTail f r v => if r < 64 then some (.host f, 0x4080000 + r * 0x40 + 0x14, v) else none
  | .cmplHead f r v => if r < 64 then some (.host f, 0x4080000 + r * 0x40 + 0x24, v) else none
  | .ringCtrlWrite f r v => if r < 64 then some (.host f, 0x4080000 + r * 0x40 + 0x08, v) else none
  | _ => none

/-- The page at which a master's write lands answers it: the master reaches the page and may write the register, and the
page is served. -/
def State.hears (s : State) (m : Master) (p : Page) (raw : Nat) : Bool :=
  s.reaches m p && writable m p (viewAt p raw).2 && s.served p

/-- A write is heard and its master owns the page (R407). -/
def State.accepts (s : State) (m : Master) (p : Page) (raw : Nat) : Bool := s.hears m p raw && ownerAllows (s.ownerOf p) m

/-- A write that landed, as the bus hands it to its page. -/
def landed (m : Master) (p : Page) (raw : Nat) (v : Word) : BusWr := ⟨m, p, raw, (viewAt p raw).1, (viewAt p raw).2, v⟩

/-- b is a but for guards: no register changed. -/
def Heard (a b : State) : Prop := State.SameBut [.guards, .regs] a b ∧ ∀ x, b.reg x = a.reg x

/-- b is a but for guards and the register at one address. -/
def HeardBut (x : Nat) (a b : State) : Prop := State.SameBut [.guards, .regs] a b ∧ ∀ y, y ≠ x → b.reg y = a.reg y

/-- What a COLD reset leaves of the kinds of state that do not survive it. -/
def ColdStart (t : State) : Prop :=
  t.mem = [] ∧ t.fields = [] ∧ t.bells = [] ∧ t.alm = [] ∧ t.loader = State.reset.loader ∧ t.looms = [] ∧ t.sieves = []
    ∧ t.gates = [] ∧ t.pairs = [] ∧ t.sram = [] ∧ t.reeves = [] ∧ t.flight = [] ∧ t.ferry = State.reset.ferry ∧ t.faults = []

/-! ### Queues of the engines -/

/-- The head of a SIEVE's queue passes its checks, has this opcode and finds the tables of its run; the SIEVE may issue. -/
def State.SieveHead (s : State) (d h op : Nat) (e : QEntry 64) (c : OpCtx) : Prop :=
  (s.sieve d h).queue.head? = some e ∧ s.served (sievePage d h) = true ∧ s.fld (sievePage d h) sieveCtrl_issueEn = 1
    ∧ sieveOpFault e.word = none ∧ (sieveOp e.word).opcode = op ∧ s.sieveCtx d h e.run = some c

/-- The same of a Gate engine. -/
def State.GateHead (s : State) (d op : Nat) (e : QEntry 64) (c : OpCtx) : Prop :=
  (s.gate d).queue.head? = some e ∧ s.served (diePage .gate d) = true ∧ s.fld (diePage .gate d) gateCtrl_issueEn = 1
    ∧ gateOpFault e.word = none ∧ (gateOp e.word).opcode = op ∧ s.gateCtx d e.run = some c

/-- A command of a SIEVE has run: the head has left its queue, and only SRAM, the queue, counts and events have changed. -/
def State.SieveRan (s : State) (d h : Nat) (i : Instr) (v : State) : Prop :=
  exec i s = .next v ∧ (v.sieve d h).queue = (s.sieve d h).queue.tail ∧ State.SameBut [.regs, .sieves, .sram, .out] s v

/-- The same of a Gate engine. -/
def State.GateRan (s : State) (d : Nat) (i : Instr) (v : State) : Prop :=
  exec i s = .next v ∧ (v.gate d).queue = (s.gate d).queue.tail ∧ State.SameBut [.regs, .gates, .sram, .out] s v

/-- A cell of a tensor of a SIEVE's operation. -/
def State.cellOf (s : State) (c : OpCtx) (t : TensorDecl) (r col : Nat) : Option (Option Nat) :=
  (s.tdata (placeOf t c.d c.h) c.job t.id).cell t r col

/-- From s to v, a tensor that is not block-scaled has taken codes at the positions of some rows that an operation covers: where
there is none, a cell keeps what it holds, and one that holds nothing is masked; every other cell is unchanged. -/
def State.Wrote (s v : State) (c : OpCtx) (rows : List Nat) (t : TensorDecl) (covers : Nat → Bool) (code : Nat → Nat → Option Nat) :
    Prop :=
  t.fmt.isMx = false → ∀ r col, col < t.cols → v.cellOf c t r col =
    if rows.contains r = false ∨ covers col = false then s.cellOf c t r col
    else match code r col with
      | some n => some (some n)
      | none => if (s.cellOf c t r col).isNone then some none else s.cellOf c t r col

/-- Tensors of an operation whose elements do not lie in one place. -/
def OpCtx.apart (c : OpCtx) (ts : List TensorDecl) : Prop := (ts.map fun t => sramKey (placeOf t c.d c.h) c.job t.id).Nodup

/-- The element-wise commands of a SIEVE: opcode, number of sources, and the function of their words (R118, R119, R124); ADD and
CONVERT where dst is no INT32 partial tensor (R117). -/
def elementwise (d h : Nat) : List (Instr × Nat × Nat × (List Word → FVal)) :=
  [(.fma d h, 0x01, 3, fn3 fmaVal), (.add d h, 0x02, 2, fn2 fun a b => (f32Val a).add (f32Val b)), (.convert d h, 0x20, 1, fn1 f32Val),
   (.mul d h, 0x03, 2, fn2 mulVal), (.min d h, 0x04, 2, fn2 fun a b => f32Val (f32Min a b)),
   (.max d h, 0x05, 2, fn2 fun a b => f32Val (f32Max a b)), (.cmpLt d h, 0x06, 2, fn2 fun a b => f32Val (f32CmpLt a b)),
   (.cmpEq d h, 0x07, 2, fn2 fun a b => f32Val (f32CmpEq a b)),
   (.select d h, 0x08, 3, fn3 fun a b c => f32Val (f32Select a b c)),
   (.copysign d h, 0x09, 2, fn2 fun a b => f32Val (f32CopySign a b)), (.exp2 d h, 0x10, 1, fn1 exp2F),
   (.log2 d h, 0x11, 1, fn1 fun a => f32Val (f32Log2 a)), (.expE d h, 0x12, 1, fn1 expEVal),
   (.reciprocal d h, 0x13, 1, fn1 rcpVal), (.rsqrt d h, 0x14, 1, fn1 rsqrtVal), (.tanh d h, 0x15, 1, fn1 tanhVal),
   (.sigmoid d h, 0x16, 1, fn1 sigmoidVal), (.silu d h, 0x17, 1, fn1 siluVal), (.gelu d h, 0x18, 1, fn1 geluVal)]

/-- The sources that an element-wise operation of n sources names: slot 0xF of a stands for const 0, of b for const k_a and
of c for const k_b. -/
def OpCtx.sources (c : OpCtx) (o : SieveOp) : Nat → List (Option Src)
  | 1 => [c.src o.srcA 0]
  | 2 => [c.src o.srcA 0, c.src o.srcB o.kA]
  | _ => [c.src o.srcA 0, c.src o.srcB o.kA, c.src o.srcC o.kB]

/-- The row reductions (R127, R128): from the overflow mode and a row's words, the value and whether an inner sum saturated. -/
def reductions (d h : Nat) : List (Instr × Nat × (Bool → List (Option Word) → FVal × Bool)) :=
  [(.rsum d h, 0x21, rowSum), (.rmax d h, 0x22, rowMaxVal), (.argmax d h, 0x23, rowArgVal)]

/-- The normalisations of a SIEVE. -/
def normalisations (d h : Nat) : List (Instr × Nat × Bool) :=
  [(.layernorm d h, 0x2A, true), (.rmsnorm d h, 0x2B, false), (.groupnorm d h, 0x2C, true)]

/-- The set that column col of row r is normalised with (R135 to R137): its statistics, and whether it holds a NaN or an infinity
(R138). -/
def State.normSet (s : State) (c : OpCtx) (o : SieveOp) (t a : TensorDecl) (r col : Nat) : NormStat × Bool :=
  let row := (s.srcRow c t (.tensor a) t.cols r).map (Elem.word o.ieee)
  if o.opcode = 0x2A then (setStat normCombine ((chunks128 row).map fun ch => chunkStat [ch]), setBad [row])
  else if o.opcode = 0x2B then (setStat rmsCombine ((chunks128 row).map rmsStat), setBad [row])
  else
    let w := (o.groupCols + 1) * 8
    groupStat (col / w * w) ((col / w + 1) * w)
      ((instanceRows (c.perInstance o t) t a r).map fun q => (s.heldRow c o.srcA t a q).map (Elem.word o.ieee))

/-- The Granary commands that read and write HBM as one effect. -/
def granaryEffects (pair q : Nat) : List (Instr × Nat × (State → GCtx → Option GEff)) :=
  [(.read pair q, 0x01, State.readEff), (.copy pair q, 0x03, State.copyEff), (.fill pair q, 0x04, State.fillEff),
   (.gather pair q, 0x06, State.gatherEff), (.treeAdd pair q, 0x08, State.treeAddEff), (.redExp pair q, 0x10, State.redExpEff),
   (.redEmax pair q, 0x11, State.redEmaxEff), (.redFix pair q, 0x12, State.redFixEff), (.redAdd pair q, 0x13, State.redAddEff),
   (.redCheck pair q, 0x14, State.redCheckEff), (.redOut pair q, 0x15, State.redOutEff), (.optAdamw pair q, 0x18, State.optEff),
   (.crc pair q, 0x21, State.crcEff)]

/-- The operands of a Granary command are tensors that lie in HBM and that its job's map covers: the slots it reads, the slots
it writes, the gradient behind a reduction tensor and the companions that RED_ADD reads (Table GRAN-3, R253). -/
def State.granOperands (s : State) (x : GCtx) (op : Nat) : Bool :=
  let src (k : Nat) : Bool := (s.gsrc x k).isSome
  let dst (k : Nat) : Bool := (s.gdst x k).isSome
  let opt (k : Nat) : Bool := (s.optSrc x k).isSome && (s.gdst x k).isSome
  let grad : Bool := ((s.gsrc x x.c.slotA).bind x.gradOf).isSome
  let comp (k : Nat) : Bool := ((s.gsrc x k).bind (s.companion x)).isSome
  let p := adamParams x.param
  if op = 0x01 then src x.c.slotA && (findTensor x.tensors (x.id x.c.slotD)).isSome
  else if op = 0x03 then src x.c.slotA && dst x.c.slotD
  else if op = 0x04 then dst x.c.slotD
  else if op = 0x08 then src x.c.slotA && src x.c.slotB && dst x.c.slotD
  else if op = 0x10 then src x.c.slotA && dst x.c.slotD
  else if op = 0x11 then src x.c.slotA && src x.c.slotB && dst x.c.slotD && grad
  else if op = 0x12 then src x.c.slotA && src x.c.slotB && dst x.c.slotC && dst x.c.slotD
  else if op = 0x13 then src x.c.slotA && src x.c.slotB && dst x.c.slotC && dst x.c.slotD && grad && comp x.c.slotA && comp x.c.slotB
  else if op = 0x14 then src x.c.slotA && src x.c.slotC && grad
  else if op = 0x15 then src x.c.slotA && src x.c.slotB && dst x.c.slotD && grad
  else if op = 0x18 then src x.c.slotA && opt x.c.slotB && opt x.c.slotC && opt p.slotV && (s.gdst x x.c.slotD).isSome
    && (p.slotT == 0xF || (s.gdst x p.slotT).isSome)
  else if op = 0x21 then s.mapped x.f (leAt x.param 0 8) (leAt x.param 8 8) false && s.mapped x.f (leAt x.param 16 8) 4 true
  else false

/-- The link layer of a port takes a flit: the link carries flits and still does after the header's acknowledgement, and the
flit is intact, no IDLE flit, in sequence and well formed (R373). -/
structure State.Takes (s : State) (d p : Nat) (x : Flit) : Prop where
  on : s.linkOn d p = true
  ok : flitOk x = true
  kind : (flitHdr x).kind ≠ 0
  stays : (s.headerIn d p (flitHdr x)).linkOn d p = true
  seq : (flitHdr x).seq = (s.port d p).expect
  good : flitBad (flitHdr x) x = false

/-- A write of a span touches the HBM byte at x. -/
def State.storesAt (s : State) (w : BitWrite) (x : Nat) : Prop :=
  ∃ a, w.span.bit / 8 ≤ a ∧ a < w.span.bit / 8 + ceilDiv (w.span.bit % 8 + w.span.width) 8 ∧ s.phys w.span.sp a = some x

/-! ### Numbers -/

/-- The word of an FP32 operand as a Sieve reads it: a subnormal is a zero of its sign (R30, R37). -/
def f32Flushed (w : Word) : Word := if w.toNat / 2 ^ 23 % 256 = 0 then w &&& 0x80000000#32 else w

/-- Where the value of a word that is no NaN stands among the others: the magnitude of the flushed word, with its sign. -/
def f32Rank (w : Word) : Int :=
  let n := (f32Flushed w).toNat
  if n < 2 ^ 31 then n else -((n - 2 ^ 31 : Nat) : Int)

end Sys2Proof.Machine
end

