-- ==== Sys2Proof/Certificates/Slice0/Obligations.lean ====
section
/-! DEFINITION. The statements for the provers. -/

open Sys2Proof Sys2Proof.Machine

/-! ### The machine as a whole -/

/-- A step takes the command at the front of the queue and runs it on the state with the queue's rest. -/
def Obligations.StepRunsFrontCommand : Prop :=
  ∀ (c : Instr) (rest : List Instr) (s : State), s.pending = c :: rest → step s = exec c (s.withPending rest)

/-- With no command waiting a step lets one nanosecond pass (the model's choice, log 1); nothing else changes, but that the end
of a die's CROFT reset is reported. -/
def Obligations.EmptyQueueIdles : Prop :=
  ∀ s : State, s.pending = [] → ∃ t, step s = .next t ∧ t.now = s.now + 1 ∧ State.SameBut [.now, .regs, .out] s t
    ∧ ((∀ d, d < 8 → (s.withNow (s.now + 1)).dieState d = s.dieState d) → t = s.withNow (s.now + 1))

/-- The invariant holds at reset. -/
def Obligations.ResetMeetsInvariant : Prop :=
  State.Inv State.reset

/-- From every state with the invariant, a step that answers a next state keeps it: HBM and the registers stay in canonical
form, the package is awake, about to enter NIGHTWATCH, or in it, and each die has as many Looms as its grade gives it. -/
def Obligations.EveryStepKeepsInvariant : Prop :=
  ∀ s t : State, State.Inv s → step s = .next t → State.Inv t

/-- No command touches the queue, runs the model's clock back (its time is the model's choice, log 1), changes a fuse but a
minimum security version, lowers one (R412), or gives a Ledger number twice; but the numbers of records that are lost with
an island rail before they reached flash are given again (the model's choice, log 29). -/
def Obligations.EveryCommandKeepsTheMonotone : Prop :=
  ∀ (c : Instr) (s t : State), exec c s = .next t →
    State.Keeps (if c = .islandRailLoss then s.withLedger t.ledger else s) t

/-- The frame of every command: of the 37 kinds of state it changes at most those that the table `writes` lists for it. -/
def Obligations.EveryCommandWritesOnlyItsState : Prop :=
  ∀ (c : Instr) (s t : State), exec c s = .next t → State.SameBut (writes c) s t

/-! ### Register writes -/

/-- Every command that is a register write, at every address and of every word: when its page hears it and the master owns the
page (a doorbell page follows the HOST page), it uses up the guard, or sets it where it writes PAGE_KEY, and takes effect as
an armed write exactly if the guard names this master and offset. -/
def Obligations.RegisterWritesTakeEffect : Prop :=
  ∀ (c : Instr) (m : Master) (a raw : Nat) (v : Word) (p : Page) (s : State),
    busOf c = some (m, a, v) → resolve m a = some (p, raw) → s.accepts m p raw = true →
    let w := landed m p raw v
    exec c s = .next (
      if p.type = .ring then s.applyWrite w false
      else (s.withGuards (SMap.set none p.base (if w.x = 0x00C ∧ w.view = .direct then keyGuard m v.toNat else none) s.guards)).applyWrite
        w (s.guardMatches w))

/-- A write that ownership ignores changes nothing but the count of it on the writer's own page and, for a host function, its
event. The one exception is the Watchman's write of PAGE_OWNER. A write that no page answers has no effect: its address
names none, the master has no path to it or may not write the register, or the page is one of R430; nor has one that is not
an aligned 32-bit access. -/
def Obligations.RefusedWritesHaveNoEffect : Prop :=
  (∀ (c : Instr) (m : Master) (a raw : Nat) (v : Word) (p : Page) (s : State),
      busOf c = some (m, a, v) → resolve m a = some (p, raw) → s.hears m p raw = true → ownerAllows (s.ownerOf p) m = false →
      ¬ (p.type ≠ .ring ∧ (viewAt p raw).2 = 0x008 ∧ m = .watchman) → exec c s = .next (s.deny m))
  ∧ (∀ (c : Instr) (m : Master) (a : Nat) (v : Word) (s : State),
      (busOf c = some (m, a, v) → (∀ p raw, resolve m a = some (p, raw) → s.hears m p raw = false) → exec c s = .next s)
      ∧ ∀ size, a % 4 ≠ 0 ∨ size ≠ 4 → exec (.registerWrite m ⟨a, size⟩ v) s = .next s)

/-- The word that a write leaves, field by field: RO, WO and RC fields are kept; a 1 clears a W1C field in the direct and clear
views and sets it in the set view (not at FAULT_CODE); a 1 sets a W1S field but in the clear view; an RW field, an RWG field
under an armed guard and a Watchman-only field that the Watchman writes take the word in the direct view, its 1s in the set
view, and lose them in the clear view, where the encoding that results is legal and nothing keeps the field; without the
guard, or from another master, they are kept. A refused change of the Meridian's source keeps the whole register, and bits
of no field are kept. A write of a reserved encoding leaves its field unchanged, whatever the access code that would let it
be stored. -/
def Obligations.WrittenWordFollowsAccessCodes : Prop :=
  (∀ (w : BusWr) (s : State) (armed : Bool) (old : Word),
      (∀ f, f ∈ w.p.type.fieldsAt w.x →
        let a := getField old f.hi f.lo
        let v := getField w.v f.hi f.lo
        let n := getField (w.merge s armed old (w.p.type.fieldsAt w.x)) f.hi f.lo
        let may := f.acc = .rw ∨ f.acc = .rwg ∧ armed = true ∨ f.acc = .wmRw ∧ w.m = .watchman
        let takes := legalCode w.p f (viewed w.view a v) = true ∧ s.fieldKept w.p f = false ∧ (w.m = .watchman ∨ watchmanOnly w.p f = false)
        (w.merKept s armed = true → n = a)
        ∧ (w.merKept s armed = false →
          (f.acc = .ro ∨ f.acc = .wo ∨ f.acc = .rc → n = a)
          ∧ (f.acc = .w1c → ∀ i, n.testBit i =
              if w.view = .set then a.testBit i || (v.testBit i && f.off != 0x024) else a.testBit i && !v.testBit i)
          ∧ (f.acc = .w1s → ∀ i, n.testBit i = (a.testBit i || (v.testBit i && w.view != .clear)))
          ∧ (may → takes → ∀ i, n.testBit i =
              match w.view with
              | .direct => v.testBit i
              | .set => a.testBit i || v.testBit i
              | .clear => a.testBit i && !v.testBit i)
          ∧ (f.acc = .rw ∨ f.acc = .rwg ∨ f.acc = .wmRw → ¬ may ∨ ¬ takes → n = a)))
      ∧ ∀ i, i < 32 → (∀ f, f ∈ w.p.type.fieldsAt w.x → ¬ (f.lo ≤ i ∧ i ≤ f.hi)) →
        (w.merge s armed old (w.p.type.fieldsAt w.x)).getLsbD i = old.getLsbD i)
  ∧ (∀ (w : BusWr) (s : State) (armed : Bool) (f : FieldRow) (old v : Nat),
      f.acc = .rw ∨ f.acc = .rwg ∨ f.acc = .wmRw → legalCode w.p f (viewed w.view old v) = false →
      w.field s armed f old v = old)

/-! ### What register writes do -/

/-- SQ_SCRATCH and the views: a direct write stores its word, a write in the set view sets the bits written as 1, one in the
clear view clears them, and no other register changes. A write of 1 to FAULT_CODE.valid clears FAULT_CODE and FAULT_INFO of
its page, which can then capture the next fault. -/
def Obligations.ViewsAndFaultCodeAct : Prop :=
  (∀ (m : Master) (i : Nat) (v : Word) (s : State), i < 4 → s.accepts m (sqPage .squareCtrl) 0x060 = true →
      let x := (sqPage .squareCtrl).reg (0x060 + 4 * i)
      (∃ t, exec (.registerWrite m ⟨x, 4⟩ v) s = .next t ∧ t.reg x = v ∧ HeardBut x s t)
      ∧ (∃ t, exec (.setViewWrite m (x + 0x400) v) s = .next t ∧ t.reg x = s.reg x ||| v ∧ HeardBut x s t)
      ∧ ∃ t, exec (.clearViewWrite m (x + 0x800) v) s = .next t ∧ t.reg x = s.reg x &&& ~~~v ∧ HeardBut x s t)
  ∧ (∀ (m : Master) (n : Nat) (p : Page) (s : State), resolve m (n * 0x1000 + 0x024) = some (p, 0x024) →
      s.accepts m p 0x024 = true → p.type.hasFault = true →
      ∃ t, exec (.faultCodeClear m n) s = .next t ∧ t.reg (p.reg 0x024) = 0 ∧ t.reg (p.reg 0x028) = 0
        ∧ State.SameBut [.guards, .regs] s t ∧ ∀ x, x ≠ p.reg 0x024 → x ≠ p.reg 0x028 → t.reg x = s.reg x)

/-- PAGE_KEY with the key arms the guard for its offset and its writer, and any other word disarms it; no register changes, and
no other page's guard. The Watchman sets the owner of every page, whoever owns it; a host write of PAGE_OWNER changes no
owner. -/
def Obligations.GuardsAndOwnersAct : Prop :=
  (∀ (m : Master) (n : Nat) (v : Word) (p : Page) (s : State), resolve m (n * 0x1000 + 0x00C) = some (p, 0x00C) →
      s.accepts m p 0x00C = true →
      ∃ t, exec (.pageKey m n v) s = .next t ∧ Heard s t
        ∧ SMap.get none t.guards p.base
          = (if v.toNat / 4096 = 0x5E000 then some ⟨decide (m = .watchman), v.toNat % 4096⟩ else none)
        ∧ ∀ b, b ≠ p.base → SMap.get none t.guards b = SMap.get none s.guards b)
  ∧ (∀ (n : Nat) (v : Word) (p : Page) (s : State),
      (resolve .watchman (n * 0x1000 + 0x008) = some (p, 0x008) → s.hears .watchman p 0x008 = true →
        ∃ t, exec (.pageOwnerWrite .watchman n v) s = .next t ∧ t.owner p = v.toNat % 4
          ∧ HeardBut (p.reg 0x008) s t)
      ∧ ∀ f, resolve (.host f) (n * 0x1000 + 0x008) = some (p, 0x008) → s.accepts (.host f) p 0x008 = true →
        ∃ t, exec (.pageOwnerWrite (.host f) n v) s = .next t ∧ Heard s t)

/-- A snapshot of a page takes every counter as it stands, zeroes it where clear is set with it, counts itself and notes the
transit. A write of 1 to SQ_SNAP_ALL.take is a snapshot of every page with counters that answers, at one transit;
SQ_SNAP_ALL.clear stands in for each page's own, and a page under R430 takes none. -/
def Obligations.SnapshotsTakeEveryCounter : Prop :=
  (∀ (m : Master) (n : Nat) (v : Word) (p : Page) (s : State), resolve m (n * 0x1000 + 0x030) = some (p, 0x030) →
      s.accepts m p 0x030 = true → p.type.counters ≠ [] → v.getLsbD 0 = true →
      ∃ t, exec (.snapCtrlTake m n v) s = .next t ∧ t.reg (p.reg 0x034) = s.reg (p.reg 0x034) + 1
        ∧ t.reg (p.reg 0x038) = BitVec.ofNat 32 s.transit ∧ t.reg (p.reg 0x03C) = BitVec.ofNat 32 (s.transit / 2 ^ 32)
        ∧ ∀ x, x ∈ p.type.counters → SMap.get 0 t.snaps (p.reg x) = s.reg (p.reg x)
          ∧ t.reg (p.reg x) = (if v.getLsbD 2 then 0 else s.reg (p.reg x)))
  ∧ (∀ (m : Master) (v : Word) (s : State), s.accepts m (sqPage .squareCtrl) 0x05C = true → v.getLsbD 0 = true →
      ∃ t, exec (.sqSnapAll m v) s = .next t ∧ State.SameBut [.guards, .regs, .snaps] s t ∧ ∀ p, p ∈ counterPages →
        (s.served p = true → t.reg (p.reg 0x034) = s.reg (p.reg 0x034) + 1
          ∧ t.reg (p.reg 0x038) = BitVec.ofNat 32 s.transit ∧ t.reg (p.reg 0x03C) = BitVec.ofNat 32 (s.transit / 2 ^ 32)
          ∧ ∀ x, x ∈ p.type.counters → SMap.get 0 t.snaps (p.reg x) = s.reg (p.reg x)
            ∧ t.reg (p.reg x) = (if v.getLsbD 1 then 0 else s.reg (p.reg x)))
        ∧ (s.served p = false → t.reg (p.reg 0x034) = s.reg (p.reg 0x034)
          ∧ ∀ x, x ∈ p.type.counters → SMap.get 0 t.snaps (p.reg x) = SMap.get 0 s.snaps (p.reg x) ∧ t.reg (p.reg x) = s.reg (p.reg x)))

/-- Writes of the POWER and FAULT pages. DIE_CMD while busy is an overrun; else op 0 and 3 start nothing, a TWILIGHT that R453
refuses ends with result 2, and a request is taken, with result 1 while an Almanac entry keeps the die (R351). In the armed
write of FAULT_FENCE, the Watchman's, a 1 fences its die for good and a 0 ends the permanent fence, while a temporary one
goes on. A write of POWER_CAP or THERMAL_CAP with a legal value sets it. A lower cap derives a clock that the Almanac is
given at once, with a re-test, and the power manager applies later; a raised one voids what its limit had asked for and
raises ACLK at once while nothing lower waits (which clock a cap derives is open, log 22). A value out of range is ignored. -/
def Obligations.PowerWritesAct : Prop :=
  (∀ (m : Master) (v : Word) (s : State),
      (s.accepts m powerPage 0x444 = true → s.board.night = 0 →
        ∃ t, exec (.nightwatchRequest m) s = .next t ∧ t.board = { s.board with night := 1 }
          ∧ t.fld powerPage powerCtrl_nightwatch = 1)
      ∧ (s.accepts m powerPage 0x05C = true →
        let die := v.toNat % 8
        let op := v.toNat / 16 % 4
        ∃ t, exec (.dieCmdWrite m v) s = .next t ∧ State.SameBut [.guards, .regs, .power] s t
          ∧ (∀ y, y ≠ powerPage.reg 0x060 → t.reg y = s.reg y)
          ∧ (s.fld powerPage dieStatus_busy = 1 → t.power = s.power ∧ t.fld powerPage dieStatus_overrun = 1)
          ∧ (s.fld powerPage dieStatus_busy = 0 →
            (op = 0 ∨ op = 3 → Heard s t)
            ∧ (op = 1 → (s.fenced die = true ∨ s.isReserve die = true ∨ s.liveDies = [die]) →
              t.power = s.power ∧ t.fld powerPage dieStatus_busy = 0 ∧ t.fld powerPage dieStatus_result = 2)
            ∧ (op = 2 ∨ op = 1 ∧ s.fenced die = false ∧ s.isReserve die = false ∧ s.liveDies ≠ [die] →
              t.power = { s.power with dieReq := some (die, op) } ∧ t.fld powerPage dieStatus_busy = 1
              ∧ t.fld powerPage dieStatus_result = (if op = 1 ∧ s.named die [1, 2, 3, 4, 5] = true then 1 else 0))))
      ∧ (s.accepts .watchman (sqPage .fault) 0x04C = true → s.guardMatches (landed .watchman (sqPage .fault) 0x04C v) = true →
        ∃ t, exec (.faultFenceWrite .watchman v) s = .next t ∧ t.power.tempFence = s.power.tempFence ∧ ∀ d, d < 8 →
          (v.toNat.testBit d = true → t.fenced d = true ∧ (s.fenced d = false → d ∈ t.power.permFence))
          ∧ (v.toNat.testBit d = false → d ∉ t.power.permFence
            ∧ (d ∈ s.power.permFence → (s.power.tempFence.any fun x => x.1 == d) = false → t.fenced d = false)
            ∧ (d ∉ s.power.permFence ∨ (s.power.tempFence.any fun x => x.1 == d) = true → t.fenced d = s.fenced d))))
  ∧ (∀ (m : Master) (v : Word) (s : State) (limit x lo hi w : Nat) (c : Instr) (f : FieldRow),
      (limit, x, lo, hi, w, c, f) ∈ [(1, 0x048, 1000, 2800, 4096, Instr.powerCapWrite m v, powerCap_watts),
        (2, 0x04C, 70, 105, 128, .thermalCapWrite m v, thermalCap_degc)] → s.accepts m powerPage x = true →
      let val := v.toNat % w
      let old := s.fld powerPage f
      (val < lo ∨ hi < val → ∃ t, exec c s = .next t ∧ Heard s t)
      ∧ (lo ≤ val → val ≤ hi → ∃ t mhz duty, exec c s = .next t ∧ t.fld powerPage f = val ∧ clockOk mhz duty = true
        ∧ State.SameBut [.guards, .regs, .power, .freeCount] s t
        ∧ (val = old → HeardBut (powerPage.reg x) s t)
        ∧ (val < old → t.fld powerPage powerStatus_aclkMhz = s.fld powerPage powerStatus_aclkMhz
          ∧ t.fld powerPage powerStatus_duty = s.fld powerPage powerStatus_duty
          ∧ (effectiveMhz mhz duty < s.aclkMhz → t.aclkMhz = effectiveMhz mhz duty ∧ t.power.capReq = some (limit, mhz, duty)
            ∧ t.power.retest.isSome = true ∧ t.fld powerPage powerStatus_limit = limit)
          ∧ (s.aclkMhz ≤ effectiveMhz mhz duty → t.power = s.power ∧ t.aclkMhz = s.aclkMhz))
        ∧ (old < val → (t.power.capReq.any fun r => r.1 == limit) = false
          ∧ ((s.power.capReq.any fun r => r.1 == limit) = false → t.power = s.power)
          ∧ (t.power.capReq = none → effectiveMhz mhz duty ≤ t.aclkMhz)
          ∧ (t.fld powerPage powerStatus_aclkMhz = mhz ∧ t.fld powerPage powerStatus_duty = duty
            ∨ t.fld powerPage powerStatus_aclkMhz = s.fld powerPage powerStatus_aclkMhz
              ∧ t.fld powerPage powerStatus_duty = s.fld powerPage powerStatus_duty))))

/-- Writes of the MERIDIAN page, guarded but for MER_FRAME_NEXT_LO. Under a guarantee of the Almanac (an ON-AIR or COMMITTED
entry) the source and the rate are kept. Else a new source takes effect, time goes on from the transit it shows, and the
clock is free, or acquires; a rate of Table TIME-1 steps the time to the start of its frame but under PTP; MER_SET_LO sets
the transit under source NONE where its line is one of the format, and MER_FRAME_NEXT_LO arms the next edge. ALM_INDEX
selects an entry, whose record ALM_DATA then shows; an armed write of ALM_CTRL sets the margin while the Almanac holds no
guarantee. CUE_DATA changes the entry that CUE_INDEX names for its master, where the master reaches it, at once or after
tSEP, and an armed write of CUE_GROUP_OWNER gives the group of CUE_GROUP_INDEX to a function, or to none, and clears its
entries. -/
def Obligations.TimingWritesAct : Prop :=
  (∀ (m : Master) (v : Word) (s : State),
      (s.accepts m merPage 0x044 = true → s.guardMatches (landed m merPage 0x044 v) = true →
        let src := v.toNat % 4
        (src = s.merSource ∨ src = 3 → ∃ t, exec (.merCtrlSourceWrite m v) s = .next t ∧ HeardBut (merPage.reg 0x044) s t
          ∧ t.merSource = s.merSource)
        ∧ (src ≠ s.merSource → s.guaranteed = true → ∃ t, exec (.merCtrlSourceWrite m v) s = .next t ∧ Heard s t)
        ∧ (src ≠ s.merSource → src ≠ 3 → s.guaranteed = false → ∃ t, exec (.merCtrlSourceWrite m v) s = .next t
          ∧ t.merSource = src ∧ t.merState = (if src = 0 then merFree else merAcquiring) ∧ t.mer.base = s.transit
          ∧ t.mer.at_ = s.now ∧ t.mer.ptp = false ∧ t.mer.masters = [] ∧ t.mer.syncs = 0 ∧ State.SameBut [.guards, .regs, .mer] s t))
      ∧ (s.accepts m merPage 0x048 = true → s.guardMatches (landed m merPage 0x048 v) = true →
        let num := v.toNat % 2 ^ 20
        let den := v.toNat / 2 ^ 20 % 2
        (s.guaranteed = true ∨ legalRates.contains (num, den) = false → ∃ t, exec (.merRateWrite m v) s = .next t ∧ Heard s t)
        ∧ (s.guaranteed = false → legalRates.contains (num, den) = true → ∃ t, exec (.merRateWrite m v) s = .next t
          ∧ t.fld merPage merRate_num = num ∧ t.fld merPage merRate_den1001 = den ∧ t.fld merPage meridian_evtRaw_stepped = 1
          ∧ (s.mer.ptp = true → t.mer.base = s.mer.base ∧ t.mer.at_ = s.mer.at_)
          ∧ (s.mer.ptp = false → t.mer.base = mkTransit (trFrame s.transit) 0 0 ∧ t.mer.at_ = s.now)
          ∧ State.SameBut [.guards, .regs, .mer, .out] s t))
      ∧ (s.accepts m merPage 0x068 = true → s.guardMatches (landed m merPage 0x068 v) = true →
        let new := s.fld merPage merSetHi_transit * 2 ^ 32 + v.toNat
        ∃ t, exec (.merSetLo m v) s = .next t ∧ t.fld merPage merSetLo_transit = v.toNat ∧ State.SameBut [.guards, .regs, .mer] s t
          ∧ (s.merSource = 0 → trLine new < s.videoL → t.mer.base = new ∧ t.mer.at_ = s.now ∧ t.mer.ptp = false)
          ∧ (s.merSource ≠ 0 ∨ s.videoL ≤ trLine new → t.mer = s.mer))
      ∧ (s.accepts m merPage 0x060 = true →
        ∃ t, exec (.merFrameNextLo m v) s = .next t ∧ t.fld merPage merFrameNextLo_frame = v.toNat
          ∧ t.mer = { s.mer with edgeArmed := true } ∧ State.SameBut [.guards, .regs, .mer] s t))
  ∧ (∀ (m : Master) (v : Word) (s : State),
      (s.accepts m (sqPage .almanac) 0x04C = true →
        ∃ t, exec (.almIndex m v) s = .next t ∧ t.fld (sqPage .almanac) almIndex_entry = v.toNat % 2048
          ∧ ∀ i, i < 8 → t.fld (sqPage .almanac) almData_data i = almRecord (s.almEntry (v.toNat % 2048)) / 2 ^ (32 * i) % 2 ^ 32)
      ∧ (s.accepts m (sqPage .almanac) 0x044 = true → s.guardMatches (landed m (sqPage .almanac) 0x044 v) = true →
        s.guaranteed = false → v.toNat % 1024 ≤ 500 →
        ∃ t, exec (.almCtrlWrite m v) s = .next t ∧ t.fld (sqPage .almanac) almCtrl_margin = v.toNat % 1024
          ∧ HeardBut ((sqPage .almanac).reg 0x044) s t))
  ∧ (∀ (m : Master) (v : Word) (s : State),
      (s.accepts m (sqPage .cue) 0x04C = true →
        let e := s.cueIndex m
        let waits := s.now < s.cueDue e ∨ (s.cue.deferred.any fun x => x.entry == e) = true
        ∃ t, exec (.cueDataWrite m v) s = .next t
          ∧ (s.cueReach m e = false → Heard s t)
          ∧ (s.cueReach m e = true → ¬ waits → t.cueEntry e = v.toNat % 128 ∧ (∀ k, k ≠ e → t.cueEntry k = s.cueEntry k)
            ∧ t.fld (sqPage .cue) updateCount_count = (s.fld (sqPage .cue) updateCount_count + 1) % 2 ^ 32
            ∧ t.fld (sqPage .cue) cue_evtRaw_updated = 1)
          ∧ (s.cueReach m e = true → waits → t.cue = { s.cue with deferred := s.cue.deferred ++ [⟨e, true, 127, v.toNat % 128⟩] }))
      ∧ (s.accepts m (sqPage .cue) 0x054 = true → s.guardMatches (landed m (sqPage .cue) 0x054 v) = true →
        let g := s.cueGroup m
        ∃ t, exec (.cueGroupOwner m v) s = .next t
          ∧ (∀ e, e / 64 = g → t.cueOwner e = (if v.toNat.testBit 5 then some (v.toNat % 32) else none)
            ∧ (t.cueEntry e = 0 ∨ t.cueEntry e = s.cueEntry e ∧ ⟨e, false, 127, 0⟩ ∈ t.cue.deferred))
          ∧ ∀ e, e / 64 ≠ g → t.cueOwner e = s.cueOwner e ∧ t.cueEntry e = s.cueEntry e))

/-- Commands of the ports and of the package's FERRY page, where HBM has no recorded error. RETRAIN starts the training of an
enabled port anew, and of a disabled one waits. ROUTE_CMD reads the route table, which a load in progress, a bound sysjob,
an unmapped range and a malformed route refuse. BIND and UNBIND change the table of binds as Table FERRY-8 has their
results; each is busy for 100 µs (the model's choice, log 23), in which another is an overrun. -/
def Obligations.FerryWritesAct : Prop :=
  ∀ (m : Master) (d p : Nat) (s : State),
    (portOk d p = true → s.accepts m (portPage d p) 0x444 = true →
      (s.fld (portPage d p) flCtrl_enable = 1 → ∃ t, exec (.retrain m d p) s = .next t ∧ t.portState d p = 1
        ∧ (t.port d p).nextSeq = 0 ∧ (t.port d p).expect = 0 ∧ (t.port d p).replay = []
        ∧ t.fld (portPage d p) flNeighbour_valid = 0 ∧ t.fld (portPage d p) flRtt_ns = 0 ∧ t.fld (portPage d p) flCtrl_retrain = 0
        ∧ State.SameBut [.guards, .ferry, .regs, .out] s t)
      ∧ (s.fld (portPage d p) flCtrl_enable = 0 → ∃ t, exec (.retrain m d p) s = .next t
        ∧ t.fld (portPage d p) flCtrl_retrain = 1 ∧ HeardBut ((portPage d p).reg 0x044) s t))
    ∧ (s.accepts m (sqPage .ferryPkg) 0x050 = true → s.eccClean = true →
      let va := s.ferryVa routeVaLo_va routeVaHi_va
      ∃ t, exec (.routeCmdLoad m) s = .next t
        ∧ (s.ferry.loading.isSome = true → t.ferry = s.ferry ∧ t.fld (sqPage .ferryPkg) routeStatus_overrun = 1)
        ∧ (s.ferry.loading = none → t.fld (sqPage .ferryPkg) routeStatus_busy = 1 ∧ t.ferry = { s.ferry with loading := some (
            if s.ferry.binds ≠ [] then (1, [])
            else if s.mapped 0 va routeTableBytes false = false then (2, [])
            else if (s.readRoutes va).all (fun e => routeOk e.2.1 && routeOk e.2.2) then (0, s.readRoutes va) else (3, [])) }))
    ∧ (s.accepts m (sqPage .ferryPkg) 0x068 = true → s.eccClean = true →
      let pg := sqPage .ferryPkg
      let sj := s.fld pg fjSysjob_sysjob
      let others := s.ferry.binds.filter fun b => b.sysjob != sj
      (s.now < s.ferry.fjUntil → ∃ t u, exec (.bind m) s = .next t ∧ exec (.unbind m) s = .next u ∧ t.ferry = s.ferry
        ∧ u.ferry = s.ferry ∧ t.fld pg fjStatus_overrun = 1 ∧ u.fld pg fjStatus_overrun = 1)
      ∧ (s.ferry.fjUntil ≤ s.now →
        (∃ t, exec (.unbind m) s = .next t ∧ t.ferry.fjUntil = s.now + 100000 ∧ t.ferry.binds = others
          ∧ t.fld pg fjStatus_result = (if (s.ferry.binds.any fun b => b.sysjob == sj) = true then 0 else 4))
        ∧ ∃ t, exec (.bind m) s = .next t ∧ t.ferry.fjUntil = s.now + 100000
          ∧ (t.fld pg fjStatus_result ≠ 0 → t.ferry.binds = s.ferry.binds)
          ∧ (s.job? (s.fld pg fjJob_job) = none →
            t.fld pg fjStatus_result = (if (s.ferry.binds.any fun b => b.sysjob == sj) = true then 1 else 2))
          ∧ ∀ j, s.job? (s.fld pg fjJob_job) = some j →
            let va := s.ferryVa fjMapLo_va fjMapHi_va
            let bs := s.vaBytes j.f va (2 * j.pkgs)
            let nodes := (numsFrom 0 j.pkgs).map fun k => leAt bs (2 * k) 2
            t.fld pg fjStatus_result = (
              if (s.ferry.binds.any fun b => b.sysjob == sj && b.job != j.handle) = true then 1
              else if j.ranks ≤ 8 then 2
              else if s.fld pg ferryNode_valid = 0 then 3
              else if s.mapped j.f va (2 * j.pkgs) false = false then 5
              else if nodes.getD j.pkg 65536 = s.fld pg ferryNode_node then 0 else 3)
            ∧ (t.fld pg fjStatus_result = 0 → t.ferry.binds = others ++ [⟨sj, j.handle, nodes⟩])))

/-- FIELD_CMD with MAP or UNMAP is taken, or is an overrun while one is busy; the doorbells of a DMA channel and of a ring move
their tail within the ring while it is enabled, and CMPL_HEAD moves up to CMPL_TAIL; any other value is an overrun. Enabling
a disabled ring, or a disabled and idle DMA channel, starts it at 0. -/
def Obligations.HostWritesAct : Prop :=
  (∀ (m : Master) (f : Nat) (v : Word) (s : State),
      (f < 32 → s.accepts m (hostPage f) 0x208 = true → resolve m (hostAddr m f + 0x208) = some (hostPage f, 0x208) →
        ∀ c, (v.toNat % 4 = 1 ∧ c = Instr.map m f v ∨ v.toNat % 4 = 2 ∧ c = .unmap m f v) → ∃ t, exec c s = .next t
          ∧ (s.fld (hostPage f) fieldStatus_busy = 1 → t.fieldReqs = s.fieldReqs ∧ t.fld (hostPage f) fieldStatus_overrun = 1)
          ∧ (s.fld (hostPage f) fieldStatus_busy = 0 → t.fld (hostPage f) fieldStatus_busy = 1
            ∧ SMap.get none t.fieldReqs f = some ⟨v.toNat % 4, s.fld (hostPage f) fieldVa_vaPage, s.fld (hostPage f) fieldPa_paPage,
                v.toNat.testBit 2, v.toNat.testBit 3, v.toNat / 16 % 32⟩)
          ∧ t.fields = s.fields)
      ∧ (∀ ch, ch < 4 → s.accepts m (hostPage f) (0x10C + 32 * ch) = true →
        resolve m (hostAddr m f + 0x10C + 32 * ch) = some (hostPage f, 0x10C + 32 * ch) →
        let n := v.toNat % 4096
        ∃ t, exec (.dmaTail m f ch v) s = .next t ∧ State.SameBut [.guards, .regs] s t
          ∧ (n < s.dmaSize f ch → s.dmaFld f ch dmaCtrl_enable = 1 → t.dmaFld f ch dmaTail_tail = n)
          ∧ (s.dmaSize f ch ≤ n ∨ s.dmaFld f ch dmaCtrl_enable = 0 → t.dmaFld f ch dmaTail_tail = s.dmaFld f ch dmaTail_tail
            ∧ t.dmaFld f ch dmaStatus_overrun = 1))
      ∧ ∀ r, r < 64 →
        let n := v.toNat % 65536
        let size := s.ringSize f r
        let head := s.ringFld f r cmplHead_head
        (s.accepts (.host f) (ringPage f r) 0x14 = true → ∃ t, exec (.ringTail f r v) s = .next t
          ∧ State.SameBut [.guards, .regs] s t
          ∧ (n < size → s.ringFld f r ringCtrl_enable = 1 → t.ringFld f r ringTail_tail = n)
          ∧ (size ≤ n ∨ s.ringFld f r ringCtrl_enable = 0 → t.ringFld f r ringTail_tail = s.ringFld f r ringTail_tail
            ∧ t.ringFld f r ringStatus_overrun = 1))
        ∧ (s.accepts (.host f) (ringPage f r) 0x24 = true →
          let ahead (k : Nat) : Nat := (k + size - head % size) % size
          ∃ t, exec (.cmplHead f r v) s = .next t ∧ State.SameBut [.guards, .regs] s t
          ∧ (n < size → ahead n ≤ ahead (s.ringFld f r cmplTail_tail) → t.ringFld f r cmplHead_head = n)
          ∧ (size ≤ n ∨ ahead (s.ringFld f r cmplTail_tail) < ahead n → t.ringFld f r cmplHead_head = head
            ∧ t.ringFld f r ringStatus_overrun = 1)))
  ∧ (∀ (m : Master) (f : Nat) (v : Word) (s : State), v.getLsbD 0 = true →
      (∀ r, r < 64 → s.accepts (.host f) (ringPage f r) 0x08 = true → s.ringFld f r ringCtrl_enable = 0 →
        ∃ t, exec (.ringCtrlWrite f r v) s = .next t ∧ t.ringFld f r ringCtrl_enable = 1 ∧ t.ringFld f r ringTail_tail = 0
          ∧ t.ringFld f r ringHead_head = 0 ∧ t.ringFld f r cmplTail_tail = 0 ∧ t.ringFld f r cmplHead_head = 0)
      ∧ ∀ ch, f < 32 → ch < 4 → s.accepts m (hostPage f) (0x108 + 32 * ch) = true →
        resolve m (hostAddr m f + 0x108 + 32 * ch) = some (hostPage f, 0x108 + 32 * ch) →
        s.dmaFld f ch dmaCtrl_enable = 0 → s.dmaFld f ch dmaHead_head = s.dmaFld f ch dmaTail_tail → s.dmaRuns f ch = [] →
        ∃ t, exec (.dmaCtrlWrite m f ch v) s = .next t ∧ t.dmaFld f ch dmaCtrl_enable = 1 ∧ t.dmaFld f ch dmaHead_head = 0
          ∧ t.dmaFld f ch dmaTail_tail = 0)

/-- A Firefly's test starts with its registers as they stand, unless one runs, and ends with the word of its seed, stream and
index; a margin test of a pseudo-channel starts where no bundle was loaded and no virtual function is enabled. A patrol of a
stack enters queue 32 of its pair as one SCRUB (the model's choice, log 18); a soft repair of a 1 KiB row (log 30), self-
refresh and the end of a margin test act on their stack; the errors that a margin test finds are open (log 2). -/
def Obligations.TestsAndStackEventsAct : Prop :=
  (∀ (m : Master) (d h : Nat) (v : Word) (s : State),
      (hamletOk d h = true → s.accepts m (fireflyPage d h) 0x044 = true →
        let pg := fireflyPage d h
        ∃ t, exec (.ffKatStart m d h) s = .next t
          ∧ (s.fld pg ffKatCtrl_start = 1 → Heard s t)
          ∧ (s.fld pg ffKatCtrl_start = 0 → t.fld pg ffKatCtrl_start = 1 ∧ SMap.get none t.kats (hamKey d h) = some
            ⟨s.fld pg ffKatSeedHi_seed * 2 ^ 32 + s.fld pg ffKatSeedLo_seed, s.fld pg ffKatStream_stream,
              s.fld pg ffKatIndexHi_index * 2 ^ 32 + s.fld pg ffKatIndexLo_index⟩))
      ∧ (d < 16 → s.accepts m (hbmPage d) 0x060 = true → s.guardMatches (landed m (hbmPage d) 0x060 v) = true →
        v.getLsbD 0 = true → ∃ t, exec (.hbmMarginStart m d v) s = .next t
          ∧ (s.loader.loadedOnce = false → s.board.vfs = 0 → (s.stack d).margin = none →
            (t.stack d).margin = some (v.toNat / 2 % 64) ∧ t.fld (hbmPage d) hbmMarginCtrl_start = 1 ∧ t.reg ((hbmPage d).reg 0x064) = 0)
          ∧ (s.loader.loadedOnce = true ∨ s.board.vfs ≠ 0 ∨ (s.stack d).margin.isSome = true → HeardBut ((hbmPage d).reg 0x060) s t))
      ∧ ∀ k, SMap.get none s.kats (hamKey d h) = some k → ∃ t, exec (.ffKatDone d h) s = .next t
        ∧ SMap.get none t.kats (hamKey d h) = none ∧ t.fld (fireflyPage d h) ffKatOut_out = firefly k.seed k.stream k.index
        ∧ t.fld (fireflyPage d h) ffKatCtrl_start = 0 ∧ t.fld (fireflyPage d h) ffKatCtrl_done = 1 ∧ State.SameBut [.regs, .kats] s t)
  ∧ (∀ (k pc row : Nat) (s : State), k < 16 →
      (s.up = true → s.fld (hbmPage k) hbmScrubCtrl_enable = 1 → s.fld (hbmPage k) hbmStatus_trained = 1 →
        let x := s.pair (k / 2)
        (x.queue 32).length < 16 → (∀ e, e ∈ x.queue 32 → e.word ≠ patrolWord k) → (∀ e, e ∈ x.running → e.word ≠ patrolWord k) →
        exec (.patrolScrub k) s = .next (s.setPair (k / 2) (x.setQueue 32 (x.queue 32 ++ [{ run := 0, word := patrolWord k }]))))
      ∧ (s.up = true → row % 32 = 0 → row * 32 < 0x1800000000 → stackOf (k / 2) (row * 32) = k → pcIndex (row * 32) % 64 = pc →
        (s.stack k).needsRepair row = true →
        (0 < s.spareLeft k pc → s.stepOn (k / 2) = false → exec (.softRepair k pc row) s = .next (s.repairRow k pc row))
        ∧ (s.spareLeft k pc = 0 → ∃ t, exec (.softRepair k pc row) s = .next t ∧ t.fld (hbmPage k) hbmStatus_degraded = 1
          ∧ State.SameBut [.regs, .out] s t))
      ∧ (s.up = true → s.inTwilight (k / 2) = true → (s.pair (k / 2)).running = [] →
        exec (.selfRefreshEntry k) s = .next (s.setFld (stackPage .granary k) granaryStatus_selfRefresh 1))
      ∧ ∀ n, (s.stack k).margin = some n → ∃ t, exec (.hbmMarginDone k) s = .next t ∧ (t.stack k).margin = none
        ∧ t.fld (hbmPage k) hbmMarginCtrl_start = 0 ∧ t.fld (hbmPage k) hbmMarginResult_done = 1
        ∧ t.fld (hbmPage k) hbmMarginResult_errors = (Config.freeValue s.freeCount).toNat % 65536)

/-! ### The board's lands, resets and the host link -/

/-- Power on of the island, and MAIN_OK's rise after it or after a power-down, are the COLD reset; every byte of HBM then reads
0 (the model's choice, log 6). The rise that only ends a fall ends the PACKAGE reset; it is COLD once a main rail has
drooped, and so been removed, while MAIN_OK was low (that a droop tells so, and a rise seen while the island is down, are
the model's, log 29). -/
def Obligations.ColdResetStartsFromNothing : Prop :=
  ∀ (a : Nat) (s : State),
    (s.board.island = false → ∃ t, exec (.islandPowerOn a) s = .next t ∧ ColdStart t ∧ t.board.island = true ∧ t.board.wmAddr = a
      ∧ t.fuses = s.fuses)
    ∧ (s.board.island = true → s.board.mainOk = false → s.board.held = false →
      ∃ t, exec .mainOkRise s = .next t ∧ ColdStart t ∧ t.board.mainOk = true ∧ t.board.training = !t.board.recovery
        ∧ t.fuses = s.fuses)
    ∧ (s.board.island = true → s.board.mainOk = false → ∀ d k, d < 8 → k < 6 ∨ d = 0 ∧ 64 ≤ k ∧ k < 68 →
      exec (.supplyDroop (8 * d + k)) s = .next (s.withBoard { s.board with held := false }))
    ∧ (s.board.island = false → s.board.mainOk = false →
      exec .mainOkRise s = .next (s.withBoard { s.board with mainOk := true }))
    ∧ (s.board.island = true → s.board.mainOk = false → s.board.held = true →
      exec .mainOkRise s = .next (s.withBoard { s.board with mainOk := true, held := false, training := !s.board.recovery, upSince := s.now }))

/-- A PACKAGE reset ends every job and empties every unit; HBM and the Field maps survive it exactly with retain and a working
Square die, and a byte that is lost reads 0 (the model's choice, log 6). PERST_N, RESET by the Watchman and a fall of
MAIN_OK, which never retains, are such resets. -/
def Obligations.PackageResetKeepsHbmOnlyWithRetain : Prop :=
  ∀ (retain : Bool) (die : Nat) (s : State), s.board.island = true → s.board.mainOk = true →
    let after (keep : Bool) (t : State) : Prop :=
      t.mem = (if keep then s.mem else []) ∧ t.fields = (if keep then s.fields else []) ∧ t.loader.jobs = [] ∧ t.bells = []
        ∧ t.alm = [] ∧ t.sram = [] ∧ t.pairs = [] ∧ t.dma = [] ∧ t.board.link = false
    (s.board.perst = false → ∃ t, exec .perstNAssert s = .next t ∧ t.board.perst = true ∧ t.board.training = true
      ∧ after (s.fld (sqPage .power) powerCtrl_retain == 1 && !s.board.squareFail) t)
    ∧ (s.board.recovery = false → s.board.held = false → ∃ t, exec (.reset 0 die retain) s = .next t
      ∧ t.board.training = true ∧ after (retain && !s.board.squareFail) t)
    ∧ (s.board.training = false → ∃ t, exec .mainOkFall s = .next t ∧ t.board.mainOk = false ∧ t.board.held = true ∧ after false t)

/-- PERST_N's rise makes the loader ready; EXTEST is entered under PERST_N alone and left by the TAP or a low TRST_N, whose
level the command carries (log 29), and a release of PERST_N that it held takes effect then. The loss of an island rail puts
the package at its reset values and loses the Ledger records that are not in flash. HBM training ends: the reset is over,
the stacks that trained say so, the dies of those that failed are fenced, and PERST_N alone holds the loader. -/
def Obligations.LandsTakeEffect : Prop :=
  (∀ s : State,
      (s.board.perst = true → s.board.extest = false → ∃ t, exec .perstNRelease s = .next t ∧ t.board.perst = false
        ∧ (t.up = true → t.fld (sqPage .loader) loaderStatus_ready = 1))
      ∧ (s.board.perst = true → s.board.extest = true →
        exec .perstNRelease s = .next (s.withBoard { s.board with perstPark := true }))
      ∧ exec (.extest ⟨true, true⟩) s = .next (s.withBoard { s.board with trstN := true, extest := s.board.extest || s.board.perst })
      ∧ exec (.extest ⟨true, false⟩) s = exec (.extest ⟨false, false⟩) s
      ∧ (∀ n, s.board.perstPark = false →
        exec (.extest ⟨false, n⟩) s = .next (s.withBoard { s.board with trstN := n, extest := false }))
      ∧ (∀ n, s.board.perstPark = true → ∃ t, exec (.extest ⟨false, n⟩) s = .next t
        ∧ t.board = { s.board with trstN := n, extest := false, perst := false, perstPark := false }
        ∧ (t.up = true → t.fld (sqPage .loader) loaderStatus_ready = 1))
      ∧ (s.board.island = true → ∃ t, exec .islandRailLoss s = .next t ∧ ColdStart t ∧ t.board.island = false ∧ t.ledger.buffer = []
        ∧ t.ledger.flash = s.ledger.flash ∧ t.fuses = s.fuses))
  ∧ (∀ (failed : List Nat) (s : State), s.board.training = true → s.board.island = true → s.board.mainOk = true →
      ∃ t, exec (.hbmTrainingComplete failed) s = .next t ∧ t.board = { s.board with training := false }
        ∧ (∀ k, k < 16 → k ∉ failed → t.fld (hbmPage k) hbmStatus_trained = 1)
        ∧ (∀ k, k < 16 → k ∈ failed → t.fld (hbmPage k) hbmStatus_trained = s.fld (hbmPage k) hbmStatus_trained
          ∧ t.fenced (k / 2) = true)
        ∧ (s.board.perst = false → t.up = true → t.fld (sqPage .loader) loaderStatus_ready = 1))

/-- The host link: where it trains to its rate and width it comes up with them in HOST_LINK of every function and with what the
host configures (at most 31 virtual functions, and a resize of BAR2 from 2^30 to 2^40 bytes while its memory space is off;
the model's configuration space, log 7). It goes down with the memory spaces off (log 7) and touches nothing else but its
page; a loss of REFCLK fails the Square die, which the Ledger records (log 29). FUNCTION reset of an enabled function ends
its jobs, drops its held tickets, its DMA and its Field map, resets its PCIe configuration, and leaves the Meridian and
every other function's Field map alone, and HBM's stacks where none holds an error. -/
def Obligations.LinksAndFunctionsReset : Prop :=
  (∀ (speed width : Nat) (flit : Bool) (cfg : HostCfg) (s : State), s.squareOn = true →
      (s.board.perst = false → s.board.recovery = false → s.board.night ≠ 2 → trainsTo speed width flit = true →
        ∃ t, exec (.hostLinkUp speed width flit cfg) s = .next t ∧ t.board.link = true ∧ t.board.vfs = min cfg.vfs 31
          ∧ State.SameBut [.board, .regs] s t
          ∧ (∀ f, f ≤ min cfg.vfs 31 → (t.pcieFn f).memEnable = true ∧ (t.pcieFn f).d3hot = cfg.d3hot.contains f
            ∧ t.reg ((hostPage f).reg 0x044) = BitVec.ofNat 32 (speed + 8 * width + if flit then 256 else 0))
          ∧ t.board.bar2 = (if (s.pcieFn 0).memEnable = false ∧ 30 ≤ cfg.bar2 ∧ cfg.bar2 ≤ 40 then cfg.bar2 else s.board.bar2))
      ∧ (s.board.link = true → ∃ t, exec .linkDown s = .next t ∧ t.board = { s.board with link := false, pcie := t.board.pcie }
        ∧ (∀ f, (t.pcieFn f).memEnable = false) ∧ State.SameBut [.board, .regs, .out] s t)
      ∧ ∃ t, exec .refclkLoss s = .next t ∧ t.board.squareFail = true ∧ t.ledger.next = s.ledger.next + 1
        ∧ State.SameBut [.board, .ledger, .regs, .out] s t)
  ∧ (∀ (f : Nat) (s : State), s.squareOn = true → s.board.link = true → s.functions.contains f = true →
      ∃ t, exec (.functionLevelReset f) s = .next t ∧ (∀ j, j ∈ t.loader.jobs → j.f ≠ f) ∧ (∀ x, x ∈ t.loader.held → x.f ≠ f)
        ∧ (∀ k, SMap.get none t.fields k = if k / 2 ^ 27 = f then none else SMap.get none s.fields k)
        ∧ (∀ ch, ch < 4 → t.dmaRuns f ch = []) ∧ (s.eccClean = true → t.hbmStacks = s.hbmStacks) ∧ t.mer = s.mer
        ∧ t.board = { s.board with pcie := SMap.set {} f {} s.board.pcie })

/-! ### Power -/

/-- The power manager applies the clock that a cap asks for; it asks for a lower one where a measured value has reached its cap,
and raises ACLK where none has (how near to a cap it acts is open, log 22). -/
def Obligations.ClockFollowsTheLimiter : Prop :=
  ∀ (limit mhz duty : Nat) (s : State), s.up = true → clockOk mhz duty = true →
    (∀ l c d, s.power.capReq = some (l, c, d) → c < 2048 → d < 128 →
      ∃ t, exec .capApply s = .next t ∧ t.power = { s.power with capReq := none }
        ∧ t.fld powerPage powerStatus_aclkMhz = c ∧ t.fld powerPage powerStatus_duty = d)
    ∧ (limit = 1 ∨ limit = 2 → s.capReached limit = true → effectiveMhz mhz duty < s.aclkMhz →
      ∃ t, exec (.limiterAclkChange limit mhz duty) s = .next t ∧ t.power.capReq = some (limit, mhz, duty)
        ∧ State.SameBut [.regs, .power] s t)
    ∧ (s.power.capReq = none → s.capReached 1 = false → s.capReached 2 = false → s.aclkMhz < effectiveMhz mhz duty →
      ∃ t, exec (.limiterAclkRaise mhz duty) s = .next t ∧ t.fld powerPage powerStatus_aclkMhz = mhz
        ∧ t.aclkMhz = effectiveMhz mhz duty ∧ t.fld powerPage powerStatus_duty = duty ∧ State.SameBut [.regs] s t)

/-- HEARTH_CTRL.window holds 2 µs of ACLK on every Loom page: 3,600 at reset, and twice the frequency in MHz once the power
manager changes ACLK, in either direction. -/
def Obligations.HearthWindowFollowsAclk : Prop :=
  ∀ (d h l : Nat), d < 8 → h < 4 → l < 8 → State.reset.fld (loomPage d h l) hearthCtrl_window = 3600 ∧ ∀ (mhz duty : Nat) (s : State),
    (s.up = true → clockOk mhz duty = true → s.power.capReq = none → s.capReached 1 = false → s.capReached 2 = false → s.aclkMhz < effectiveMhz mhz duty →
      ∃ t, exec (.limiterAclkRaise mhz duty) s = .next t ∧ t.fld (loomPage d h l) hearthCtrl_window = 2 * mhz)
    ∧ ∀ limit, mhz ≤ 1800 → s.power.capReq = some (limit, mhz, duty) →
      ∃ t, exec .capApply s = .next t ∧ t.fld (loomPage d h l) hearthCtrl_window = 2 * mhz

/-- A sensor at its trip point, or a rail of a Croft die that droops, is captured with its unit and value, counted, and fences
the die until its cause is gone; a trip also raises the Watchman's thermal alert (deduced, log 22). A trip or a droop of the
Square die is captured and counted and fails it. The end of a temporary fence's cause resets the die and releases it; a die
that no permanent fence holds too is fenced no more. -/
def Obligations.ProtectionFencesTheDie : Prop :=
  (∀ (unit degc d : Nat) (s : State), s.squareOn = true → d < 8 → s.fenced d = false →
      let fencedFor (reason : Nat) (u t : State) : Prop :=
        t = u.fence d reason (0x45 + reason) true ∧ (d, reason) ∈ t.power.tempFence ∧ t.fenced d = true ∧ t.dieLive d = false
      (unitDie unit = some d → (if 16 ≤ unit then 105 else 115) ≤ degc →
        ∃ t, exec (.thermalTrip unit degc) s = .next t
          ∧ fencedFor 3 ((s.alert wmAlert_thermal).protect 0x48 unit degc power_evtRaw_trip) t)
      ∧ (∀ k, k < 6 → ∃ t, exec (.supplyDroop (8 * d + k)) s = .next t
        ∧ fencedFor 4 (s.protect 0x49 d (8 * d + k) power_evtRaw_droop) t)
      ∧ ∀ c code value, (c, code, value) ∈ [(Instr.thermalTrip 32 degc, 0x48, degc), (.supplyDroop 64, 0x49, 64),
          (.supplyDroop 65, 0x49, 65), (.supplyDroop 66, 0x49, 66), (.supplyDroop 67, 0x49, 67)] → 115 ≤ degc → degc < 256 →
        ∃ t, exec c s = .next t ∧ t.board.squareFail = true ∧ t.board.link = false
          ∧ t.fld powerPage tripCount_count = (s.fld powerPage tripCount_count + 1) % 2 ^ 32
          ∧ (getField (s.reg (powerPage.reg 0x024)) 31 31 = 0 → getField (t.reg (powerPage.reg 0x024)) 7 0 = code
            ∧ getField (t.reg (powerPage.reg 0x028)) 5 0 = 32 ∧ getField (t.reg (powerPage.reg 0x028)) 15 8 = value))
  ∧ (∀ (d reason : Nat) (s : State), d < 8 → s.power.tempFence.find? (fun x => x.1 == d) = some (d, reason) →
      let u := s.croftReset d reason
      let v := u.withPower { u.power with tempFence := u.power.tempFence.filter fun x => x.1 != d }
      ∃ t, exec (.temporaryFenceRelease d) s = .next t ∧ t = v.unfence d ∧ t.resetting d = true
        ∧ t.power.tempFence = s.power.tempFence.filter (fun x => x.1 != d)
        ∧ (s.fenced d = true → s.power.permFence.contains d = false → t.fenced d = false))

/-- DUSK, TWILIGHT and DAYLIGHT of a die. A TWILIGHT request is refused for a die that is fenced or in reserve and for the last
live one, and waits while an Almanac entry keeps the die. -/
def Obligations.DieStatesChange : Prop :=
  ∀ (d : Nat) (s : State), s.up = true →
    (s.fld powerPage powerCtrl_duskEn = 1 → s.dieLive d = true → s.dieState d = 0 → s.dieIdle d = true → s.named d [2, 3] = false →
      ∃ t, exec (.duskEntry d) s = .next t ∧ t.power = { s.power with dusk := d :: s.power.dusk }
        ∧ State.SameBut [.power, .regs, .out] s t)
    ∧ (s.power.dieReq = some (d, 1) → s.faults = [] → s.inTwilight d = false → s.twilightRefused d = false → s.twilightWaits d = false →
      ∃ t, exec .twilight s = .next t ∧ t.inTwilight d = true ∧ t.power.dieReq = none ∧ t.fld powerPage dieStatus_busy = 0
        ∧ t.fld powerPage dieStatus_result = 0)
    ∧ (s.power.dieReq = some (d, 1) → s.faults = [] → s.inTwilight d = false → s.twilightRefused d = true →
      ∃ t, exec .twilight s = .next t ∧ t.power = { s.power with dieReq := none } ∧ t.fld powerPage dieStatus_busy = 0
        ∧ t.fld powerPage dieStatus_result = 2 ∧ State.SameBut [.power, .regs] s t)
    ∧ (s.power.dieReq = some (d, 1) → s.faults = [] → s.inTwilight d = false → s.twilightRefused d = false → s.twilightWaits d = true →
      ∃ t, exec .twilight s = .next t ∧ t.fld powerPage dieStatus_busy = 1 ∧ t.fld powerPage dieStatus_result = 1
        ∧ State.SameBut [.regs] s t)
    ∧ (s.power.dieReq = some (d, 2) → s.inTwilight d = true →
      ∃ t, exec .daylight s = .next t ∧ t.inTwilight d = false ∧ t.power.dieReq = none)

/-- NIGHTWATCH is entered with the link, the bridges and the pairs quiet, and left by WAKE_N or at NW_WAKE. -/
def Obligations.NightwatchIsEnteredAndLeft : Prop :=
  ∀ s : State,
    (s.up = true → s.board.night = 1 → (s.alm.any (·.2.isSome)) = false → s.dmaOutstanding = false → s.faults = [] →
      ∃ t, exec .nightwatchEntry s = .next t ∧ t.board.night = 2 ∧ t.board.link = false ∧ t.pairs = [] ∧ t.flight = []
        ∧ t.mem = s.mem ∧ t.loader = s.loader)
    ∧ (s.board.night = 2 → s.squareOn = true →
      (∃ t, exec .wakeN s = .next t ∧ t.board = { s.board with night := 0 } ∧ t.power = { s.power with dusk := [] } ∧ t.mem = s.mem
        ∧ t.loader = s.loader)
      ∧ (s.fld merPage merCtrl_keepInNightwatch = 1 → s.nwWake ≠ 0 →
        ∃ t, exec .nwWakeTransit s = .next t ∧ t.board.night = 0 ∧ t.mem = s.mem ∧ t.loader = s.loader))

/-! ### Faults, patrol and repairs -/

/-- A page captures the first fault, with its detail, and counts the later ones in FAULT_CODE.more up to 0xFF. The fault manager
takes its oldest fault, and a fault that a unit raises reaches it with its page, detail, job and time; no fault that waits
is lost. A code that its page does not capture, and a page under R430, raise nothing (the model's choice, log 18). -/
def Obligations.FaultsAreCapturedAndTaken : Prop :=
  (∀ (s : State) (p : Page) (code : Nat) (info : Word), p.type.hasFault = true →
      (getField (s.reg (p.reg 0x024)) 31 31 = 0 →
        getField ((s.capture p code info).reg (p.reg 0x024)) 31 31 = 1
        ∧ getField ((s.capture p code info).reg (p.reg 0x024)) 7 0 = code % 256
        ∧ (s.capture p code info).reg (p.reg 0x028) = info &&& fieldMask (fun _ => true) 0x028 p.type.ownFields)
      ∧ (getField (s.reg (p.reg 0x024)) 31 31 = 1 →
        getField ((s.capture p code info).reg (p.reg 0x024)) 15 8 = min (getField (s.reg (p.reg 0x024)) 15 8 + 1) 0xFF
        ∧ getField ((s.capture p code info).reg (p.reg 0x024)) 7 0 = getField (s.reg (p.reg 0x024)) 7 0
        ∧ (s.capture p code info).reg (p.reg 0x028) = s.reg (p.reg 0x028)))
  ∧ (∀ (s : State) (r : FaultRec) (rs : List FaultRec) (hw : HwFault), s.squareOn = true →
      (s.faults = r :: rs → exec (.runTimeFault none) s = .next ((s.withFaults rs).handleFault r))
      ∧ (s.faults = [] → hw.code ≠ 0 → hw.code ≠ 0x41 → hw.code ≠ 0x42 → hw.weak = [] → hw.fixed = [] → ∀ p x, pageAt hw.page = some (p, x) →
        hwPage hw.code p.type = true → s.served p = true →
        exec (.runTimeFault (some hw)) s
          = .next (((s.capture p hw.code hw.info).withFaults []).handleFault ⟨hw.code, p.base, hw.info, hw.job, hw.sector, s.now⟩))
      ∧ (hw.weak = [] → hw.fixed = [] → (∀ p a, pageAt hw.page = some (p, a) → hwPage hw.code p.type = false ∨ s.served p = false) →
        s.faults = [] → exec (.runTimeFault (some hw)) s = .next s)
      ∧ (∀ p code info job sec, (s.fault p code info job sec).faults = putFault ⟨code, p.base, info, job, sec, s.now⟩ s.faults
        ∧ (∀ x, x ∈ s.faults → x ∈ (s.fault p code info job sec).faults)
        ∧ (s.fault p code info job sec).faults.length = s.faults.length + 1))

/-! ### Register reads -/

/-- A read of a _LO word by a master that its page hears answers the word and latches its _HI word: whatever happens before the
master's next read of it, while the latch holds, that read answers the latched half and ends the latch. A page under R430
latches nothing, and a read by a function that is not an aligned 32-bit access answers Unsupported Request. A read of
MER_NOW_LO answers the low word of the transit, and latches the high word. A read of FIELD_MISS answers the count and clears
it. -/
def Obligations.ReadsAnswerAndLatch : Prop :=
  (∀ (m : Master) (a : Nat) (p : Page) (x : Nat) (s : State), a % 4 = 0 → a < 0x4000000 →
      resolve m a = some (p, x) → visible m p x = true → (viewAt p x).1 = .direct → p.type.latching.contains x = true →
      let key := latchKey m (p.reg (x + 4))
      (s.reaches m p = true →
        ∃ t, exec (.counterLoRead m ⟨a, 4⟩) s = .next t ∧ t.out.resp = ⟨0, leBytes 4 (s.regSeen m p x).toNat⟩
          ∧ (s.served p = true → SMap.get none t.latch key = some (s.regSeen m p (x + 4)))
          ∧ (s.served p = false → t.latch = s.latch) ∧ State.SameBut [.latch, .out] s t)
      ∧ (∀ w, s.reaches m p = true → s.served p = true → SMap.get none s.latch key = some w →
        resolve m (a + 4) = some (p, x + 4) → visible m p (x + 4) = true →
        ∃ t, exec (.counterLoRead m ⟨a + 4, 4⟩) s = .next t ∧ t.out.resp = ⟨0, leBytes 4 w.toNat⟩
          ∧ SMap.get none t.latch key = none ∧ State.SameBut [.latch, .out] s t)
      ∧ ∀ f b n, s.hostPath f = true → b % 4 ≠ 0 ∨ n ≠ 4 → exec (.counterLoRead (.host f) ⟨b, n⟩) s = .next (s.respond 1 []))
  ∧ (∀ (m : Master) (s : State), s.reaches m merPage = true → s.served merPage = true →
      ∃ t, exec (.merNowLo m) s = .next t ∧ t.out.resp = ⟨0, leBytes 4 (s.transit % 2 ^ 32)⟩
        ∧ SMap.get none t.latch (latchKey m (merPage.reg 0x05C)) = some (BitVec.ofNat 32 (s.transit / 2 ^ 32)))
  ∧ (∀ (m : Master) (f : Nat) (s : State), m = .watchman ∨ m = .host 0 → s.reaches m (hostPage f) = true → f < 32 →
      s.served (hostPage f) = true → resolve m (hostAddr m f + 0x210) = some (hostPage f, 0x210) →
      SMap.get none s.latch (latchKey m ((hostPage f).reg 0x210)) = none →
      ∃ t, exec (.fieldMissRead m f) s = .next t ∧ t.out.resp = ⟨0, leBytes 4 (s.reg ((hostPage f).reg 0x210)).toNat⟩
        ∧ t.reg ((hostPage f).reg 0x210) = 0)

/-! ### The Watchman -/

/-- An I3C target takes one dynamic address, by ENTDAA or by its static address, and MCTP gives it an endpoint ID. REG_READ and
REG_WRITE: count and offset first, then what the state lets the Watchman reach, then the access; a write that ownership
refuses, or that asks a loader in reset for a Field map command, answers 2. -/
def Obligations.ManagementBusAnswers : Prop :=
  (∀ (a e : Nat) (s : State), s.board.island = true →
      (s.fld wmPage wmStatus_i3c = 0 →
        (∃ t, exec (.entdaa a) s = .next t ∧ t.fld wmPage wmStatus_i3c = 1 ∧ t.fld wmPage wmStatus_dynAddr = a % 128
          ∧ State.SameBut [.regs] s t ∧ ∀ x, x ≠ wmPage.reg 0x044 → t.reg x = s.reg x)
        ∧ exec (.setdasa (0x4C + s.board.wmAddr % 4) a) s = exec (.entdaa a) s)
      ∧ (s.fld wmPage wmStatus_i3c = 1 → exec (.entdaa a) s = .next s ∧ ∀ st, exec (.setdasa st a) s = .next s)
      ∧ (8 ≤ e → e < 255 → ∃ t, exec (.setEndpointId e) s = .next t ∧ t.fld wmPage wmStatus_eid = e ∧ t.out.resp = ⟨0, []⟩))
  ∧ (∀ (a n : Nat) (v : Word) (vs : List Word) (s : State), s.board.island = true →
      (regArgsOk a n = false → exec (.regRead a n) s = .next (s.respond 1 []) ∧ exec (.regWrite a n vs) s = .next (s.respond 1 []))
      ∧ (a % 4 = 0 → a + 4 ≤ 0x4000000 →
        (s.wmReach a = false → exec (.regRead a 1) s = .next (s.respond 2 []) ∧ exec (.regWrite a 1 [v]) s = .next (s.respond 2 []))
        ∧ (s.wmReach a = true →
          exec (.regRead a 1) s = .next ((s.busRead .watchman a).2.respond 0 (leBytes 4 (s.busRead .watchman a).1.toNat))
          ∧ (s.coreFailed = false → exec (.regWrite a 1 [v]) s
              = .next (if s.asksLoader a then s.respond 2 []
                else (s.busWrite .watchman a v).respond (if s.wmDenied a then 2 else 0) [])))))

/-- The PLDM base commands, as the model codes their answers (log 11): every one only answers. Platform monitoring outside
RECOVERY, as the model numbers sensors and effecters (logs 10 and 11): readings only answer (those of the Square die and the
dies are not ready after a failure of the Square die or the hub fabric), and an effecter writes its register as the
Watchman. -/
def Obligations.PldmCommandsAnswer : Prop :=
  (∀ (type : Nat) (s : State), s.board.island = true →
      exec .getTid s = .next (s.respond 0 [0#8])
      ∧ exec .getPldmTypes s = .next (s.respond 0 [0x25#8, 0, 0, 0, 0, 0, 0, 0])
      ∧ exec (.getPldmVersion type) s
        = .next (if type = 0 ∨ type = 2 ∨ type = 5 then s.respond 0 (leBytes 4 (Config.pldmVersion type).toNat) else s.respond 0x83 [])
      ∧ exec (.getPldmCommands type) s
        = .next (if type = 0 ∨ type = 2 ∨ type = 5 then s.respond 0 (bitMap 32 (pldmCommands type)) else s.respond 0x83 []))
  ∧ (∀ (id : Nat) (v : Word) (s : State), s.board.island = true → s.board.recovery = false →
      exec .getPdrRepositoryInfo s = .next (s.respond 0 ((numsFrom 0 40).map (Config.pdrByte 0)))
      ∧ exec (.getPdr id) s = .next (s.respond 0 ((numsFrom 0 (Config.pdrByte id 65535).toNat).map (Config.pdrByte id)))
      ∧ exec (.getSensorReading 27) s = .next (if s.coreFailed then s.respond 4 [] else s.respond 0 (leBytes 4 s.aclkMhz))
      ∧ (1 ≤ id → id ≤ 25 → exec (.getSensorReading id) s
          = .next (if s.coreFailed then s.respond 4 [] else s.respond 0 (leBytes 4 (s.degc id))))
      ∧ exec (.getStateSensorReadings 28) s = .next (s.respond 0 [BitVec.ofNat 8 s.packageState])
      ∧ exec (.getNumericEffecterValue 1) s
        = .next (if s.coreFailed then s.respond 4 [] else s.respond 0 (leBytes 4 (s.fld powerPage powerCap_watts)))
      ∧ (1000 ≤ v.toNat → v.toNat ≤ 2800 → s.wmReach (powerPage.reg 0x048) = true → s.coreFailed = false →
        s.accepts .watchman powerPage 0x048 = true →
        ∃ t, exec (.setNumericEffecterValue 1 v) s = .next t ∧ t.fld powerPage powerCap_watts = v.toNat ∧ t.out.resp = ⟨0, []⟩))

/-- The Ledger: its buffer goes to flash in order, and a record reads by its number, the newest by all ones. A Ledger record is
64 bytes. -/
def Obligations.LedgerIsFlushedAndRead : Prop :=
  (∀ (seq : Nat) (r : LedgerRec) (s : State), s.board.island = true →
      (s.ledger.flash.length + s.ledger.buffer.length ≤ 524288 → exec .ledgerFlush s
        = .next (s.withLedger { s.ledger with flash := s.ledger.flash ++ s.ledger.buffer, buffer := [] }))
      ∧ (seq ≠ 2 ^ 64 - 1 → s.ledger.flash.find? (fun x => x.seq == seq) = some r →
        exec (.ledgerRead seq) s = .next (s.respond 0 (ledgerBytes s.fuses.serial r)))
      ∧ (s.ledger.flash.getLast? = some r → exec (.ledgerRead (2 ^ 64 - 1)) s = .next (s.respond 0 (ledgerBytes s.fuses.serial r))))
  ∧ (∀ (serial : Nat) (r : LedgerRec), (ledgerBytes serial r).length = 64)

/-- A firmware update: it begins for one component at a time, an image that verifies can be activated, the Watchman's own at
once, and one that does not ends the update (the model's choice, log 11). COMMIT_SVN raises the fused minimum to the running
image's security version and never lowers it. -/
def Obligations.FirmwareIsUpdated : Prop :=
  ∀ (k : Nat) (bytes : List Byte) (s : State), s.board.island = true → s.coreFailed = false →
    (1 ≤ k → k ≤ 4 → s.wm.update = none →
      exec (.requestUpdate k) s = .next ((s.withWm { s.wm with update := some (k - 1, false) }).respond 0 []))
    ∧ (∀ c ok, s.wm.update = some (c, ok) → ∃ t b, exec (.verifyComplete bytes) s = .next t
      ∧ b = t.slotValid c (1 - s.wm.running.getD c 0) ∧ t.wm.update = (if b then some (c, true) else none)
      ∧ t.wm.slots = (s.wm.putSlot c (1 - s.wm.running.getD c 0) (readImage s.fuses.keyHash c bytes)).slots
      ∧ t.wm.running = s.wm.running ∧ t.out.resp = ⟨0, [if b then 0#8 else 1#8]⟩ ∧ State.SameBut [.wm, .out] s t)
    ∧ (∀ c, s.wm.update = some (c, true) →
      let t := (s.withWm { s.wm with chosen := s.wm.chosen.set c (1 - s.wm.running.getD c 0), update := none }).respond 0 []
      exec .activateFirmware s = .next (if c = compWatchman then t.watchmanReset else t))
    ∧ (∀ x, 1 ≤ k → k ≤ 4 → s.board.recovery = false → s.wm.booted.getD (k - 1) false = true →
      s.image? (k - 1) (s.wm.running.getD (k - 1) 0) = some x → k - 1 < s.fuses.minSvn.length →
      ∃ t, exec (.commitSvn k) s = .next t ∧ t.fuses.minSvn.getD (k - 1) 0 = max (s.fuses.minSvn.getD (k - 1) 0) x.svn
        ∧ State.SameBut [.fuses, .out] s t)

/-! ### Field maps, the host's memory accesses and DMA -/

/-- A Field map command completes: its result is written, and with result 0 the page it names, and no other, is mapped or
unmapped. A page is mapped only where the function exists, the virtual page is free, and no map and no key-value pool holds
the physical page, which lies outside the reserved region. -/
def Obligations.FieldCommandsComplete : Prop :=
  (∀ (f : Nat) (r : FieldReq) (s : State), SMap.get none s.fieldReqs f = some r →
      ∃ t, exec (.fieldCmdComplete f) s = .next t ∧ SMap.get none t.fieldReqs f = none ∧ t.fld (hostPage f) fieldStatus_busy = 0
        ∧ t.fld (hostPage f) fieldStatus_result = s.fieldResult r
        ∧ ∀ k, SMap.get none t.fields k = (if s.fieldResult r = 0 ∧ k = r.fn * vaPages + r.va then
            (if r.op = 1 then some ⟨r.pa, r.rd, r.wr⟩ else none) else SMap.get none s.fields k))
  ∧ (∀ (r : FieldReq) (s : State), r.op = 1 → s.fieldResult r = 0 →
      s.functions.contains r.fn = true ∧ SMap.get none s.fields (r.fn * vaPages + r.va) = none ∧ r.pa % 65536 < 48640
        ∧ s.fld (sqPage .loader) kvPool_pages (r.pa / 65536) ≤ r.pa % 65536
        ∧ ∀ e, e ∈ s.fields → ∀ p, e.2 = some p → p.pa ≠ r.pa)

/-- A BAR2 write inside one mapped page stores its bytes there, and every other byte of HBM reads as before; a read answers the
bytes and leaves HBM as it is. Both bring the stack out of self-refresh, and change nothing else while no die is in
TWILIGHT. Beyond the function's BAR2 a write does nothing and a read answers Unsupported Request, without a miss (deduced,
log 36). The bytes of a stack that failed training are lost and take no write. With no bad or weak sector recorded. A host
access that the map does not wholly allow moves nothing and counts one miss; a read answers Unsupported Request. -/
def Obligations.HostAccessesMoveExactBytes : Prop :=
  (∀ (f va pa : Nat) (bytes : List Byte) (n : Nat) (s : State), s.hostOn f = true → s.eccClean = true →
      (s.inBar2 f va bytes.length = false → exec (.bar2Write f va bytes) s = .next s)
      ∧ (s.inBar2 f va n = false → exec (.bar2Read f va n) s = .next (s.respond 1 []))
      ∧ (s.inBar2 f va bytes.length = true → bytes ≠ [] → va % pageBytes + bytes.length ≤ pageBytes → s.translate f va true = some pa →
        ∃ t, exec (.bar2Write f va bytes) s = .next t
          ∧ ((∀ x, pa ≤ x → x < pa + bytes.length → s.lostAt x = false) → t.bytesAt pa bytes.length = bytes)
          ∧ (∀ x, s.lostAt x = true → t.byteAt x = s.byteAt x) ∧ State.memKeptBut s t pa bytes.length
          ∧ State.SameBut [.mem, .regs] s t ∧ (s.power.twilight = [] → t.regs = s.regs))
      ∧ (s.inBar2 f va n = true → 0 < n → va % pageBytes + n ≤ pageBytes → s.translate f va false = some pa →
        exec (.bar2Read f va n) s = .next ((s.wakeSpans [⟨some f, 8 * va, 8 * n⟩]).respond 0 (s.bytesAt pa n))
        ∧ (s.power.twilight = [] → exec (.bar2Read f va n) s = .next (s.respond 0 (s.bytesAt pa n)))))
  ∧ (∀ (f va n : Nat) (bytes : List Byte) (s : State), s.hostOn f = true →
      (s.inBar2 f va n = true → s.mapped f va n false = false → exec (.bar2Read f va n) s = .next ((s.bumpSat (hostPage f) fieldMiss_count).respond 1 []))
      ∧ (s.inBar2 f va bytes.length = true → s.mapped f va bytes.length true = false → exec (.bar2Write f va bytes) s = .next (s.bumpSat (hostPage f) fieldMiss_count)))

/-- A DMA channel starts its descriptors in ring order and completes them in that order: a completion writes the length and the
status to the host at the descriptor, then advances DMA_HEAD. That the bytes move at the start is deduced (log 36). A
descriptor with a reserved bit set or length 0 moves nothing and ends with status 3. -/
def Obligations.DmaRunsInRingOrder : Prop :=
  (∀ (f ch : Nat) (desc data : List Byte) (s : State), ch < 4 → s.hostOn f = true → s.dmaLost.contains (dmaKey f ch) = false →
      let i := (s.dmaFld f ch dmaHead_head + (s.dmaRuns f ch).length) % s.dmaSize f ch
      (s.dmaFld f ch dmaCtrl_enable = 1 → i ≠ s.dmaFld f ch dmaTail_tail → (dmaDesc desc).fence = false →
        ∃ t, exec (.dmaDescriptor f ch desc data) s = .next t
          ∧ t.dmaRuns f ch = s.dmaRuns f ch ++ [⟨desc, (s.dmaMove f (dmaDesc desc) data).1, (s.dmaMove f (dmaDesc desc) data).2.1, i⟩]
          ∧ t.mem = (s.dmaMove f (dmaDesc desc) data).2.2.mem)
      ∧ ∀ r rs, s.dmaRuns f ch = r :: rs → ∃ t, exec (.dmaComplete f ch) s = .next t ∧ t.dmaRuns f ch = rs
        ∧ t.dmaFld f ch dmaHead_head = (s.dmaFld f ch dmaHead_head + 1) % s.dmaSize f ch % 4096
        ∧ t.out.host = s.out.host ++ [(s.dmaBase f ch + 32 * r.index + 20, leBytes 4 r.done), (s.dmaBase f ch + 32 * r.index + 29, leBytes 1 r.status)])
  ∧ (∀ (f : Nat) (desc data : List Byte) (s : State), (dmaDesc desc).bad = true → s.dmaMove f (dmaDesc desc) data = (0, 3, s))

/-- A channel whose ring changed under outstanding descriptors has no defined behaviour: it stops by name (the model's choice,
log 36). A ring that changed with tickets outstanding has no defined behaviour: the fetch from it stops by name (the model's
choice, log 33). -/
def Obligations.LostRingsAndChannelsStop : Prop :=
  (∀ (f ch : Nat) (desc data : List Byte) (s : State), s.dmaLost.contains (dmaKey f ch) = true →
      (s.hostOn f = true → s.dmaFld f ch dmaCtrl_enable = 1 → exec (.dmaDescriptor f ch desc data) s = .fault (.dmaUndefined f ch))
      ∧ (s.up = true → s.dmaRuns f ch ≠ [] → exec (.dmaComplete f ch) s = .fault (.dmaUndefined f ch)))
  ∧ (∀ (f r : Nat) (decl : TicketDecl) (s : State), s.fetches = true → s.ringLost.contains (ringKey f r) = true →
      exec (.ticketFetch f r decl) s = .fault (.ringUndefined f r) ∧ exec (.ticketHoldRelease f r) s = .fault (.ringUndefined f r))

/-! ### The Meridian -/

/-- PTP under source PTP, its times in half nanoseconds (the model's choice, log 28): a one-step Sync of the selected master is
measured and answered by a Delay_Req that carries its number (log 28), a two-step Sync waits for its Follow_Up, a Delay_Resp
gives the path delay, an Announce enters its master in the selection, and the port answers an ARP request for its address. -/
def Obligations.PtpMessagesAct : Prop :=
  ∀ (p : PtpSync) (ann : AnnounceMsg) (origin rx seq ip : Nat) (s : State), s.ptpOn = true →
    (p.domain = s.fld merPage merPtp_domain → (s.master.any (·.source == p.source)) = true →
      (p.twoStep = true → exec (.ptpSync p) s
        = .next (s.withMer { s.mer with twoStep := some (p.seq, 2 * s.now + (if p.half then 1 else 0), p.correction) }))
      ∧ (p.twoStep = false → ∃ t, exec (.ptpSync p) s = .next t
        ∧ t.mer.delayReq = some (p.seq, 2 * (p.origin + p.correction) - (if p.half then 1 else 0)) ∧ t.out.ptp = s.out.ptp ++ [(1, p.seq)]))
    ∧ (∀ r c, s.mer.twoStep = some (seq, r, c) → ∃ t, exec (.followUp origin seq) s = .next t ∧ t.mer.twoStep = none
      ∧ t.mer.delayReq = some (seq, 2 * (origin + c) + (2 * (s.now : Int) - r)) ∧ t.out.ptp = s.out.ptp ++ [(1, seq)])
    ∧ (∀ t0 : Int, s.mer.delayReq = some (seq, t0) → exec (.delayResponse rx seq) s
      = .next (s.withMer { s.mer with delay := ((2 * (rx : Int) - t0) / 2).toNat, delayReq := none }))
    ∧ (ann.domain = s.fld merPage merPtp_domain → ∃ t, exec (.announce ann) s = .next t ∧ ann ∈ t.mer.masters
      ∧ (∀ m, m ∈ s.mer.masters → m.source ≠ ann.source → m ∈ t.mer.masters) ∧ State.SameBut [.mer] s t)
    ∧ (s.fld merPage merPtpIp_ipv4 = ip → exec (.ptpArp ip) s
      = .next (s.withOut { s.out with ptp := s.out.ptp ++ [(2, s.fuses.mac)] }))

/-- The loss of the reference: an announce timeout or a missing pulse takes a LOCKED Meridian to HOLDOVER where holdover_ok
allows it, else to FREE_RUN with fault 0x4A, and the end of HOLDOVER leads to FREE_RUN too. The first edge of the frame
pulse, in FREE_RUN, ACQUIRING or HOLDOVER, starts or goes on with the acquisition, and takes MER_FRAME_NEXT where it is
armed; the lock count then stands at 1 (deduced, log 28). -/
def Obligations.ReferenceLossAndFirstEdge : Prop :=
  (∀ (s : State), s.served merPage = true →
      (s.merSource = 1 → s.merState = merLocked → s.fld merPage merCtrl_holdoverOk = 1 →
        ∃ t, exec .announceTimeout s = .next t ∧ t.merState = merHoldover ∧ t.mer.masters = [] ∧ t.mer.holdAt = s.now)
      ∧ (s.merSource = 1 → s.merState = merLocked → s.fld merPage merCtrl_holdoverOk = 0 → s.loader.jobs = [] →
        ∃ t, exec .announceTimeout s = .next t ∧ t.merState = merFree ∧ (t.faults.map (·.code)) = s.faults.map (·.code) ++ [0x4A])
      ∧ (∀ e, s.merSource = 2 → s.mer.edgeAt = some e → s.merState = merLocked → s.fld merPage merCtrl_holdoverOk = 1 →
        ∃ t, exec .frameRefMissing s = .next t ∧ t.merState = merHoldover ∧ t.mer.edgeAt = none
          ∧ e + ceilDiv (3 * s.videoD * 1000000000) (2 * s.videoN) ≤ t.now)
      ∧ (s.merState = merHoldover → s.fld merPage merHold_limitS ≠ 0 → s.loader.jobs = [] →
        ∃ t, exec .holdoverLimit s = .next t ∧ t.merState = merFree ∧ (t.faults.map (·.code)) = s.faults.map (·.code) ++ [0x4A]
          ∧ s.mer.holdAt + s.fld merPage merHold_limitS * 1000000000 ≤ t.now))
  ∧ (∀ s : State, s.served merPage = true → s.merSource = 2 →
      s.merState = merFree ∨ s.merState = merAcquiring ∨ s.merState = merHoldover → s.mer.edgeAt = none → s.mer.edgeFrame = none →
      (s.mer.edgeArmed = false → ∃ t, exec .frameRefEdge s = .next t ∧ t.merState = merAcquiring ∧ t.mer.edgeAt = some s.now
        ∧ t.mer.edgeFrame = none)
      ∧ (s.mer.edgeArmed = true → ∃ t, exec .frameRefEdge s = .next t ∧ t.merState = merAcquiring ∧ t.mer.edgeAt = some s.now
        ∧ t.mer.edgeFrame = some (s.frameNext % 2 ^ 36) ∧ t.mer.edgeArmed = false ∧ t.mer.syncs = 1))

/-! ### The Almanac and the Cue Port -/

/-- The Almanac's own events: a deadline frees an entry whose ticket never came, a start transit makes the step of an ARMED ON-
AIR entry ready, and a pending re-test runs to its end. A taken entry of a step that has not committed by its deadline: with
late_deliver it becomes OPEN and the miss is counted, else its job is withdrawn. One that was OPEN already counts its step's
miss, once; a held or withdrawn one is left. -/
def Obligations.AlmanacEventsAct : Prop :=
  (∀ (i : Nat) (e : AEntry) (s : State),
      (i < 2048 → s.almEntry i = some e → e.deadline ≠ 0 → e.taken = false →
        ∃ t, exec (.deadlineTransit i) s = .next t ∧ t.almEntry i = none ∧ (∀ k, k ≠ i → t.almEntry k = s.almEntry k)
          ∧ State.SameBut [.now, .alm] s t)
      ∧ (∀ x, s.almEntry i = some e → e.cls = 0 → e.state = 2 → (s.advanceTo e.release).entryStep? e = some x →
        exec (.startTransit i) s = .next ((s.advanceTo e.release).setStep { x with ready := true }))
      ∧ (s.almEntry i = some e → e.cls = 0 → e.state ≠ 2 ∨ (s.advanceTo e.release).entryStep? e = none →
        exec (.startTransit i) s = .next (s.advanceTo e.release))
      ∧ (s.almEntry i = some e → e.cls ≠ 0 → exec (.startTransit i) s = .next s)
      ∧ (s.almEntry i = none → exec (.startTransit i) s = .next s ∧ exec (.deadlineTransit i) s = .next s)
      ∧ (s.power.retest = none → exec .retest s = .next s)
      ∧ ∀ r, s.power.retest = some r →
        let kept := retestSingles s.alm s
        let list := kept.2.retestList kept.1
        let u := withdrawJobs r (kept.2.retestDrop list.length list) (withdrawJobs 5 kept.1 kept.2)
        let v := u.withPower { u.power with retest := none }
        ∃ t, exec .retest s = .next t ∧ t.power.retest = none ∧ t.fld (sqPage .almanac) almStatus_readmitting = 0
          ∧ t.fld (sqPage .almanac) readmitCount_count = (u.fld (sqPage .almanac) readmitCount_count + 1) % 2 ^ 32
          ∧ t.fld (sqPage .almanac) almanac_evtRaw_readmission = 1 ∧ t.alm = u.alm ∧ t.loader = u.loader
          ∧ t = (((v.setFld (sqPage .almanac) almStatus_readmitting 0).bump (sqPage .almanac) readmitCount_count).event
            (sqPage .almanac) almanac_evtRaw_readmission))
  ∧ (∀ (i : Nat) (e : AEntry) (s : State), i < 2048 → s.almEntry i = some e → e.deadline ≠ 0 → e.taken = true →
      let u := s.advanceTo e.deadline
      let late := match u.entryStep? e with
        | some t => u.setStep { t with late := true }
        | none => u
      (e.state = 5 ∨ e.state = 6 → exec (.deadlineTransit i) s = .next u)
      ∧ (e.state ≠ 5 → e.state ≠ 6 → e.cls ≠ 2 → e.late = true → ∃ t, exec (.deadlineTransit i) s = .next t
        ∧ t = late.missDeadline.openEntry i e ∧ t.almEntry i = some { e with cls := 2 } ∧ s.now ≤ t.now
        ∧ t.fld (sqPage .almanac) deadlineMissCount_count = (s.fld (sqPage .almanac) deadlineMissCount_count + 1) % 2 ^ 32)
      ∧ (e.state ≠ 5 → e.state ≠ 6 → e.cls ≠ 2 → e.late = false → exec (.deadlineTransit i) s = .next (late.withdrawJob e.job 5))
      ∧ (e.state ≠ 5 → e.state ≠ 6 → e.cls = 2 → (e.late = false ∨ u.entryStep? e = none) → exec (.deadlineTransit i) s = .next u)
      ∧ ∀ t, e.state ≠ 5 → e.state ≠ 6 → e.cls = 2 → e.late = true → u.entryStep? e = some t →
        exec (.deadlineTransit i) s = .next (if t.late then u else (u.setStep { t with late := true }).missDeadline))

/-- An entry of the Cue table changes at once, or once tSEP has passed since its last change, when a single change that waited
takes effect; a unit's update wins over a host write that waited with it (that the two fall due together is deduced, log
20), and the collision is reported. The port shows the entry that its pins name under even parity, or is high-impedance and
reads 0x00, as it does throughout a PACKAGE reset. -/
def Obligations.CueChangesAndShows : Prop :=
  (∀ (e : Nat) (c : CueChange) (s : State), c.entry = e →
      (s.cueDue e ≤ s.now → (s.cue.deferred.any fun x => x.entry == e) = false →
        (s.cueChange c).cueEntry e = c.on (s.cueEntry e) ∧ SMap.get none (s.cueChange c).cue.changed e = some s.now)
      ∧ (s.now < s.cueDue e → (s.cueChange c).cueEntry e = s.cueEntry e ∧ c ∈ (s.cueChange c).cue.deferred)
      ∧ ((s.cue.deferred.filter fun x => x.entry == e) = [c] → ∃ t, exec (.cueDeferredApply e) s = .next t
        ∧ t.cueEntry e = c.on (s.cueEntry e) ∧ t.now = max s.now (s.cueDue e) ∧ SMap.get none t.cue.changed e = some t.now
        ∧ t.fld (sqPage .cue) cue_evtRaw_collision = s.fld (sqPage .cue) cue_evtRaw_collision
        ∧ (t.cue.deferred.filter fun x => x.entry == e) = [])
      ∧ (∀ h u, (s.cue.deferred.filter fun x => x.entry == e) = [h, u] ∨ (s.cue.deferred.filter fun x => x.entry == e) = [u, h] →
        h.host = true → u.host = false →
        ∃ t, exec (.cueDeferredApply e) s = .next t ∧ t.cueEntry e = u.on (s.cueEntry e) ∧ t.now = max s.now (s.cueDue e)
          ∧ t.fld (sqPage .cue) cue_evtRaw_collision = 1
          ∧ t.fld (sqPage .cue) updateCount_count = (s.fld (sqPage .cue) updateCount_count + 1) % 2 ^ 32
          ∧ (t.cue.deferred.filter fun x => x.entry == e) = [])
      ∧ ((s.cue.deferred.filter fun x => x.entry == e) = [] → exec (.cueDeferredApply e) s = .next s))
  ∧ (∀ (a : Nat) (en : Bool) (s : State), s.served (sqPage .cue) = true → s.cueEntry (a % 4096) < 128 →
      ∃ t, exec (.cuePortRead a en) s = .next t ∧ State.SameBut [.cue] s t ∧ t.cue.table = s.cue.table
        ∧ (en = true → s.fld (sqPage .cue) cueCtrl_portEn = 1 → s.board.perst = false → s.board.training = false →
          ∃ q, t.cuePins = some q ∧ t.cueLands = q ∧ q % 128 = s.cueEntry (a % 4096)
          ∧ q < 256 ∧ (popCount q 8 + popCount (a % 4096) 12) % 2 = 0)
        ∧ (en = false ∨ s.fld (sqPage .cue) cueCtrl_portEn = 0 ∨ s.board.perst = true ∨ s.board.training = true → t.cuePins = none ∧ t.cueLands = 0))

/-! ### Ferry links -/

/-- The link layer accepts a flit that is intact, in sequence and well formed: the next sequence number is expected, and the
flit is counted. What an accepted flit does: the ops of the link, and at the last hop of a bound job the tile, the signal,
the stop of a step and the withdrawal. On an earlier hop it goes on, and at the last hop of a sysjob that is not bound it is
discarded and counted. -/
def Obligations.FlitsAreAcceptedAndAct : Prop :=
  (∀ (d p : Nat) (x : Flit) (s : State), s.Takes d p x →
      (s.linkIn d p x).2 = true ∧ ((s.linkIn d p x).1.port d p).expect = ((s.port d p).expect + 1) % 1024
        ∧ (s.linkIn d p x).1.fld (portPage d p) rxFlits_count = (s.fld (portPage d p) rxFlits_count + 1) % 2 ^ 32
        ∧ State.SameBut [.ferry, .regs, .out, .faults] s (s.linkIn d p x).1)
  ∧ (∀ (d p : Nat) (x : Flit) (b : Binding) (j : Job) (s : State), s.Takes d p x →
      let h := flitHdr x
      let u := (s.linkIn d p x).1
      (h.kind = 2 → flitOp x = 3 → exec (.ident d p x) s = .next ((u.identIn d p x).freeFlit d p 4))
      ∧ (h.kind = 2 → flitOp x = 4 →
        exec (.probe d p x) s = .next ((u.enqueue d p (linkFlit 5 (leBytes 4 (flitAt x 36 4)))).freeFlit d p 4))
      ∧ (h.kind = 2 → flitOp x = 5 → exec (.echo d p x) s = .next ((u.echoIn d p x).freeFlit d p 4))
      ∧ (h.kind = 1 → h.hop < h.hopsM1 → exec (.data d p x) s = .next (u.transitFlit d p h x))
      ∧ (h.hop = h.hopsM1 → (s.ferry.binds.find? fun b => b.sysjob == h.sysjob) = none → h.kind = 1 ∨ h.kind = 2 ∧ flitOp x ≤ 2 →
        ∀ c, c ∈ [Instr.data d p x, .bell d p x, .jobStop d p x, .withdraw d p x] → ∃ t, exec c s = .next t
          ∧ t.fld (sqPage .ferryPkg) unboundCount_count = (s.fld (sqPage .ferryPkg) unboundCount_count + 1) % 2 ^ 32
          ∧ t.fld (sqPage .ferryPkg) ferryPkg_evtRaw_unboundDrop = 1 ∧ State.SameBut [.ferry, .regs, .out, .faults] s t)
      ∧ (h.hop = h.hopsM1 → (s.ferry.binds.find? fun b => b.sysjob == h.sysjob) = some b →
        (h.kind = 1 → exec (.data d p x) s = .next (u.dataIn d p b.job h x))
        ∧ (h.kind = 2 → flitOp x = 0 →
          exec (.bell d p x) s = .next ((u.ferryBell (BitVec.ofNat 128 (flitAt x 16 16)) (portPage d p)).freeFlit d p h.vc))
        ∧ (h.kind = 2 → s.job? b.job = some j →
          (flitOp x = 1 → exec (.jobStop d p x) s = .next ((u.jobStopIn j (flitCode x) (flitAt x 34 2)).freeFlit d p h.vc))
          ∧ (flitOp x = 2 → exec (.withdraw d p x) s = .next ((u.withdrawIn j (flitCode x) (flitAt x 34 2)).freeFlit d p h.vc)))))

/-- A flit in sequence whose CRC matches is discarded when its kind is 3, its VC does not agree with hop and kind, its hop
exceeds hops_m1, or its op is reserved. It is acknowledged, counted in DROP_COUNT and reported. -/
def Obligations.MalformedFlitsAreDropped : Prop :=
  ∀ (d p : Nat) (x : Flit) (s : State), s.linkOn d p = true → flitOk x = true →
    (s.headerIn d p (flitHdr x)).linkOn d p = true → (flitHdr x).kind ≠ 0 → (flitHdr x).seq = (s.port d p).expect →
    (flitHdr x).kind = 3 ∨ (flitHdr x).vc ≠ (if (flitHdr x).kind = 2 then 4 + (flitHdr x).hop else (flitHdr x).hop)
      ∨ (flitHdr x).hopsM1 < (flitHdr x).hop ∨ (flitHdr x).kind = 2 ∧ 5 < flitOp x →
    ∃ t, (∀ c, c ∈ [Instr.data d p x, .bell d p x, .jobStop d p x, .withdraw d p x, .ident d p x, .probe d p x, .echo d p x, .nak d p x] →
        exec c s = .next t)
      ∧ (t.port d p).expect = ((s.port d p).expect + 1) % 1024 ∧ (t.port d p).nakDue = (s.port d p).nakDue
      ∧ (t.port d p).nakSent = false
      ∧ t.fld (portPage d p) dropCount_count = (s.fld (portPage d p) dropCount_count + 1) % 2 ^ 32
      ∧ t.fld (portPage d p) ferry_evtRaw_dropped = 1

/-- PHY lock of an enabled port that is DOWN starts its training and puts IDENT, with the node and the package port, last among
the flits that it sends; the loss of the lock loses the link; a load of the route table puts the table in force exactly with
result 0. A port sends what it must: a flit of a replay first, but no CONTROL flit within 8 slots of another while DATA
waits, else the flit its arbitration chooses under the next sequence number, else an IDLE flit. An intact IDLE flit brings
its acknowledgement, and one that fails its CRC nothing. A NAK, or no acknowledgement in time, replays every flit that is
not acknowledged, in order, after what the NAK itself acknowledges; the sixteenth replay without an advance loses the link. -/
def Obligations.PortsTrainSendAndReplay : Prop :=
  (∀ (d p : Nat) (s : State),
      (portOk d p = true → s.served (portPage d p) = true → s.fld (portPage d p) flCtrl_enable = 1 → s.portState d p ≠ 1 → s.portState d p ≠ 2 →
        ∃ t, exec (.phyLock d p) s = .next t ∧ t.portState d p = 1 ∧ (t.port d p).nextSeq = 0 ∧ (t.port d p).expect = 0
          ∧ (t.port d p).replay = [] ∧ (t.port d p).waiting.getLast? = some (linkFlit 3
            (leBytes 2 (s.fld (sqPage .ferryPkg) ferryNode_node) ++ leBytes 1 (d * 14 + p)))
          ∧ State.SameBut [.ferry, .regs, .out] s t)
      ∧ (s.linkOn d p = true → ∃ t, exec (.phyLockLost d p) s = .next t ∧ t.portState d p = 3 ∧ (t.port d p).replay = []
        ∧ t.faults.length = s.faults.length + 1)
      ∧ ∀ r es, s.ferry.loading = some (r, es) → ∃ t, exec .routeLoadComplete s = .next t
        ∧ t.ferry = { s.ferry with loading := none, routes := if r = 0 then es else s.ferry.routes }
        ∧ t.fld (sqPage .ferryPkg) routeStatus_busy = 0 ∧ t.fld (sqPage .ferryPkg) routeStatus_result = r % 4)
  ∧ (∀ (d p : Nat) (x : Flit) (s : State), s.linkOn d p = true →
      (∀ y ys, (s.port d p).resend = y :: ys → ∃ t, exec (.flitTransmit d p) s = .next t
        ∧ (t.port d p).resend = (if (flitHdr y).kind = 2 ∧ (s.port d p).dataWaits = true ∧ (s.port d p).ctrlGap < 7 then y :: ys else ys)
        ∧ (t.port d p).replay = (s.port d p).replay ∧ (t.port d p).nextSeq = (s.port d p).nextSeq)
      ∧ ((s.port d p).resend = [] → (s.port d p).choose (s.portState d p == 1) = none →
        ∃ t, exec (.flitTransmit d p) s = .next t ∧ (t.port d p).replay = (s.port d p).replay ∧ (t.port d p).nextSeq = (s.port d p).nextSeq)
      ∧ (∀ i w, (s.port d p).resend = [] → (s.port d p).choose (s.portState d p == 1) = some (i, w) → w.src = none →
        ∃ t, exec (.flitTransmit d p) s = .next t ∧ (t.port d p).replay.length = (s.port d p).replay.length + 1
          ∧ (t.port d p).nextSeq = ((s.port d p).nextSeq + 1) % 1024 ∧ (t.port d p).waiting = (s.port d p).waiting.eraseIdx i)
      ∧ ((flitHdr x).kind = 0 → flitOk x = true → exec (.idleFlit d p x) s = .next (s.headerIn d p (flitHdr x)))
      ∧ ((flitHdr x).kind = 0 → flitOk x = false → exec (.idleFlit d p x) s = .next s))
  ∧ (∀ (d p : Nat) (x : Flit) (s : State), s.linkOn d p = true → (s.port d p).replay ≠ [] →
      ((s.port d p).replays + 1 < 16 →
        (∃ t, exec (.replayTimeout d p) s = .next t ∧ (t.port d p).resend = (s.port d p).replay
          ∧ t.fld (portPage d p) ferry_replayCount_count = (s.fld (portPage d p) ferry_replayCount_count + 1) % 2 ^ 32)
        ∧ (flitOk x = true → (flitHdr x).kind = 0 → (flitHdr x).nak = true → (flitHdr x).ack = (s.port d p).acked →
          ∃ t, exec (.nak d p x) s = .next t ∧ (t.port d p).resend = (s.port d p).replay
            ∧ t.fld (portPage d p) ferry_replayCount_count = (s.fld (portPage d p) ferry_replayCount_count + 1) % 2 ^ 32))
      ∧ (let n := ((flitHdr x).ack + 1024 - (s.port d p).acked) % 1024
        flitOk x = true → (flitHdr x).kind = 0 → (flitHdr x).nak = true → 0 < n → n < (s.port d p).replay.length →
          ∃ t, exec (.nak d p x) s = .next t ∧ (t.port d p).acked = (flitHdr x).ack ∧ (t.port d p).replays = 1
            ∧ (t.port d p).replay = (s.port d p).replay.drop n ∧ (t.port d p).resend = (s.port d p).replay.drop n
            ∧ t.fld (portPage d p) ferry_replayCount_count = (s.fld (portPage d p) ferry_replayCount_count + 1) % 2 ^ 32)
      ∧ (16 ≤ (s.port d p).replays + 1 → ∃ t, exec (.replayTimeout d p) s = .next t ∧ t.portState d p = 3))

/-! ### Bells and Reeves -/

/-- A signal on a Bell of a die in service: SET stores, ADD adds modulo 2^32, MAX keeps the larger unsigned value, ERROR stores
the code and sets the error flag. Every one is counted, and no other Bell changes. A host write to a Bell slot acts as a
signal on a Bell from 64 up that the function owns, on a die whose BELLS page the host may write; on every other Bell it
does nothing. -/
def Obligations.SignalsActOnTheirBell : Prop :=
  (∀ (d b : Nat) (v : Word) (s : State), s.served (diePage .bells d) = true → b < 4096 →
      let old := s.bell d b
      let after (t : State) (x : Bell) : Prop := t.bell d b = x ∧ (∀ e c, c < 4096 → (e ≠ d ∨ c ≠ b) → t.bell e c = s.bell e c)
        ∧ t.fld (diePage .bells d) signalCount_count = (s.fld (diePage .bells d) signalCount_count + 1) % 2 ^ 32
      (∃ t, exec (.signalSet d b v) s = .next t ∧ after t { old with value := v } ∧ State.SameBut [.bells, .regs] s t)
      ∧ (∃ t, exec (.signalAdd d b v) s = .next t ∧ after t { old with value := old.value + v } ∧ State.SameBut [.bells, .regs] s t)
      ∧ (∃ t, exec (.signalMax d b v) s = .next t ∧ after t { old with value := if old.value.toNat < v.toNat then v else old.value }
        ∧ State.SameBut [.bells, .regs] s t)
      ∧ ∃ t, exec (.signalError d b v) s = .next t ∧ after t { old with value := v, error := true }
        ∧ t.fld (diePage .bells d) bells_evtRaw_errorOp = 1)
  ∧ (∀ (f d b : Nat) (v : Word) (s : State), s.served (diePage .bells d) = true → ownerAllows (s.owner (diePage .bells d)) (.host f) = true → b < 4096 →
      (64 ≤ b → (s.bell d b).owner.map (·.1) = some f →
        exec (.bellSet f d b v) s = exec (.signalSet d b v) s ∧ exec (.bellAdd f d b v) s = exec (.signalAdd d b v) s
        ∧ (∃ t, exec (.bellSet f d b v) s = .next t ∧ (t.bell d b).value = v)
        ∧ ∃ t, exec (.bellAdd f d b v) s = .next t ∧ (t.bell d b).value = (s.bell d b).value + v)
      ∧ (b < 64 ∨ (s.bell d b).owner.map (·.1) ≠ some f → exec (.bellSet f d b v) s = .next s ∧ exec (.bellAdd f d b v) s = .next s))

/-- A wait is satisfied when the Bell holds no error and is at most 2^31 − 1 steps past the awaited value, modulo 2^32. A
satisfied SIEVE or Gate wait leaves its queue and counts as an operation, a Granary WAIT is done, and a Loom's head
instruction may issue; one on a Bell with an error discards what its unit has of the job; one that is not satisfied in time
raises 0x46 with the Bell and the waiting source, not before BELL_TIMEOUT has passed (the command carries the clock there,
the model's choice, log 1). A heartbeat restarts a Reeve's watchdog, and its expiry while a job runs on the Hamlet raises
0x47 on the HAMLET page (R307), not before the time-out has passed since the last heartbeat (log 1). -/
def Obligations.WaitsAndWatchdogsEnd : Prop :=
  (∀ (u : UnitRef) (w : WaitOn) (s : State), s.waitOf u = some w →
      let b := s.bell w.die w.bell
      (b.error = false → (b.value.toNat + 2 ^ 32 - w.value.toNat) % 2 ^ 32 < 2 ^ 31 →
        exec (.waitSatisfied u) s = .next ((s.proceed u).countWait u) ∧ exec (.bellWaitTimeout u) s = .next s)
      ∧ (b.error = true → exec (.waitSatisfied u) s = .next (s.errorWait u) ∧ exec (.bellWaitTimeout u) s = .next (s.errorWait u))
      ∧ (b.error = false → 2 ^ 31 ≤ (b.value.toNat + 2 ^ 32 - w.value.toNat) % 2 ^ 32 →
        let due := w.since + s.fld (diePage .bells w.die) bellTimeout_us * 1000
        exec (.waitSatisfied u) s = .next s
        ∧ ∃ t, exec (.bellWaitTimeout u) s = .next t ∧ t.now = max s.now due
          ∧ t.faults = putFault ⟨0x46, (diePage .bells w.die).base, infoOf [(w.bell, 0), (unitNumber u, 16)], s.runJob w.run, 0,
              max s.now due⟩ s.faults
          ∧ State.SameBut [.now, .faults, .regs] s t))
  ∧ (∀ (d h : Nat) (v : Word) (s : State), hamletOk d h = true → s.dieLive d = true →
      (∃ t, exec (.reeveHeartbeat d h v) s = .next t ∧ t.reeve d h = { s.reeve d h with beat := s.now } ∧ State.SameBut [.reeves] s t)
      ∧ (s.reeveBusy d h = false → exec (.reeveWatchdogExpiry d h) s = .next s)
      ∧ (s.reeveBusy d h = true → ∀ r, (s.reeve d h).run = some r →
        let due := (s.reeve d h).beat + s.fld (hamletPage d h) reeveWdog_timeout * 1000
        ∃ t, exec (.reeveWatchdogExpiry d h) s = .next t ∧ t.now = max s.now due ∧ (t.reeve d h).beat = t.now
          ∧ t.faults = putFault ⟨0x47, (hamletPage d h).base, 0, s.runJob r, 0, max s.now due⟩ s.faults))

/-! ### Rings, tickets and steps -/

/-- The loader fetches the ticket at RING_HEAD of the ring whose turn it is, which has a ticket and a free completion entry
while no function between the last one served and its own has such a ring: the head advances, and the ticket is taken in,
refused or held (that the head advances at the fetch is deduced, log 33). A held one is looked at again. An entry that the
map does not cover stops the ring. -/
def Obligations.TicketsAreFetchedInOrder : Prop :=
  ∀ (f r : Nat) (decl : TicketDecl) (s : State), s.fetches = true → s.ringLost.contains (ringKey f r) = false → s.ringOn f r = true →
    let head := s.ringFld f r ringHead_head
    let a := s.ringBase f r + 128 * head
    let u := (s.noteTurn f r).loaderRead [⟨some f, 8 * a, 1024⟩]
    (s.turn = some (f, r) → s.ringReady f r = true
      ∧ (∀ k, 1 ≤ k → (∀ i, 1 ≤ i → i ≤ k → (s.loader.lastFn + i) % 32 ≠ f) → ∀ r', r' < 64 →
          s.ringReady ((s.loader.lastFn + k) % 32) r' = false)
      ∧ (s.mapped f a 128 false = true → exec (.ticketFetch f r decl) s
        = .next ((u.setRingFld f r ringHead_head ((head + 1) % s.ringSize f r)).settleTicket f r (u.vaBytes f a 128) decl none))
      ∧ (s.mapped f a 128 false = false → ∃ t, exec (.ticketFetch f r decl) s = .next t ∧ t.ringFld f r ringStatus_fault = 1
        ∧ t.loader = (s.noteTurn f r).loader))
    ∧ (s.turn ≠ some (f, r) → exec (.ticketFetch f r decl) s = .next s)
    ∧ ∀ x, s.loader.held.find? (fun y => y.f == f && y.ring == r) = some x → exec (.ticketHoldRelease f r) s
      = .next (((s.withLoader { s.loader with held := s.loader.held.filter fun y => !(y.f == f && y.ring == r) }).setRingFld f r
          ringStatus_held 0).settleTicket f r x.ticket x.decl x.since)

/-- A step starts only while its job is in service, no restart of it is due and no step of it runs: the first ready one; in
every other case nothing happens. Its start zeroes the job's Bells from 64 up and leaves the Bells of other jobs. A due
restart of an aborted step waits for the re-test, is counted, goes back to the generation the step had, and starts the step
anew, once the frames of its pages can be had (that it waits for them is the model's choice, log 26). A piece boundary: the
Reeves of a die with no piece at work take the piece that the Almanac's order chooses next. A piece that names no geometry
record and gathers no pages becomes the die's run. -/
def Obligations.StepsStartAndDispatch : Prop :=
  (∀ (job : Nat) (s : State),
      (s.job? job = none → exec (.stepStart job) s = .next s ∧ exec (.stepRestart job) s = .next s)
      ∧ ∀ (j : Job) (t : Step), s.job? job = some j →
        (s.up = false ∨ j.state ≠ .active ∨ s.restarts.contains job = true ∨ (s.stepsOf job).any (·.started) = true
          ∨ (s.stepsOf job).find? (·.ready) = none → exec (.stepStart job) s = .next s)
        ∧ (s.up = false ∨ j.state ≠ .active ∨ s.restarts.contains job = false ∨ s.power.retest ≠ none →
          exec (.stepRestart job) s = .next s)
        ∧ (s.up = true → j.state = .active → s.restarts.contains job = false → (s.stepsOf job).any (·.started) = false →
          (s.stepsOf job).find? (·.ready) = some t →
          exec (.stepStart job) s = .next ((if s.startsLate t then s.lateTransit else s).startStep j t)
          ∧ ∃ u x, exec (.stepStart job) s = .next u ∧ x ∈ u.loader.steps ∧ x.job = job ∧ x.number = t.number ∧ x.started = true
              ∧ x.ran = [] ∧ x.signals = [] ∧ x.released = [])
        ∧ (s.up = true → j.state = .active → s.restarts.contains job = true → s.power.retest = none → s.abortedStep? job = some t →
          let done := s.withRestarts (s.restarts.filter (· != job))
          (t.decl.reads = [] → t.decl.writes = [] → (done.renew j t).isSome = true)
          ∧ (∀ v, done.renew j t = some v →
            let w := (v.bump (sqPage .fault) restartCount_count).event (sqPage .fault) fault_evtRaw_restart
            let y := (w.revert j).reselect j ((w.abortedStep? job).getD t)
            exec (.stepRestart job) s = .next (y.startStep ((y.job? job).getD j) ((y.abortedStep? job).getD t))
            ∧ ∃ u x, exec (.stepRestart job) s = .next u ∧ u.restarts = s.restarts.filter (· != job)
              ∧ x ∈ u.loader.steps ∧ x.job = job ∧ x.started = true ∧ x.ran = [])
          ∧ (done.renew j t = none → exec (.stepRestart job) s = .next s))
        ∧ ∀ d i g h, i < 4096 → (s.bell d i).owner = some (g, h) →
          (s.startStep j t).bell d i = (if h = j.handle ∧ 64 ≤ i then { s.bell d i with value := 0, error := false } else s.bell d i))
  ∧ (∀ (die : Nat) (c : Cand) (s : State), s.dieLive die = true → s.up = true →
      ((s.settleDie die).loader.runs.any fun r => r.die == die && !r.done) = false → (s.settleDie die).nextPiece die = some c →
      exec (.pieceDispatch die) s = .next ((s.settleDie die).dispatch die c)
      ∧ ((s.loader.runs.any fun r => r.die == die && !r.done) = false →
        let piece := s.placed c.t c.at_ c.logical die
        (∀ h, geomsUsed ((((s.stepBundle c.t).kernels[c.kernel]?).map (·.tensors)).getD []) piece c.logical h = []) →
        (∀ g, g ∈ piece.grans → ∀ w, w ∈ g.entries → (granCmd w).opcode ≠ 0x06) →
        ∃ t r, exec (.pieceDispatch die) s = .next t ∧ t.loader.runs = s.loader.runs ++ [r] ∧ t.loader.nextRun = s.loader.nextRun + 1
          ∧ r.id = s.loader.nextRun ∧ r.job = c.t.job ∧ r.step = c.t.number ∧ r.kernel = c.kernel ∧ r.die = die ∧ r.logical = c.logical
          ∧ r.piece = piece ∧ r.done = false ∧ t.mem = s.mem))

/-- An ON-AIR step with hold whose last write completes before its deadline is held to its deadline transit; every other step
commits at once. The commit ends the step and its work. The k-th barrier of a job is released at rank 0's package once its
Bell has counted k signals of every rank: SET k into the barrier Bells (R323; that it counts from what the Bell held at the
start is deduced, log 25). Before that nothing happens. -/
def Obligations.StepsCommitAndBarriersOpen : Prop :=
  (∀ (job : Nat) (j : Job) (t : Step) (s : State), s.up = true → s.job? job = some j → j.state = .active →
      (∀ e, (s.stepsOf job).find? (fun t => t.started && t.writesDone) = some t → t.entry.bind s.almEntry = some e →
        exec (.heldCommit job) s = .next ((s.advanceTo e.deadline).commitStep j t e.deadline))
      ∧ (s.restarts.contains job = false →
        let u := s.settleJob job
        (u.stepsOf job).find? (·.started) = some t → t.writesDone = false → u.stepDone j t = true → u.barrierDone j t = true →
        (t.entry.bind u.almEntry = none → exec (.stepCommit job) s = .next (u.commitStep j t u.transit))
        ∧ ∀ i e, t.entry = some i → u.almEntry i = some e →
          exec (.stepCommit job) s = .next (
            if e.cls = 0 ∧ e.hold = true ∧ trBefore u.transit e.deadline = true then
              (u.setStep { t with writesDone := true }).setAlm i (some { e with state := 5 })
            else u.commitStep j t u.transit))
      ∧ ∀ at_, (∀ r, r ∈ (s.commitStep j t at_).loader.runs → r.job ≠ j.handle)
        ∧ (∀ x, x ∈ (s.commitStep j t at_).loader.steps → x.job = t.job → x.number ≠ t.number))
  ∧ (∀ (job d : Nat) (j : Job) (s : State), s.up = true → s.job? job = some j → s.dieOf 0 = some d → j.pkg = 0 → j.state = .active →
      let k := j.barriers + 1
      let counted := j.barriers * j.ranks + ((s.bell d j.barBell).value.toNat + 2 ^ 32 - j.barBase) % 2 ^ 32
      exec (.barrierRelease job) s = .next (if counted = k * j.ranks then
        releaseTo j k (((s.stepOf? job).map (·.number)).getD 0) (numsFrom 0 j.pkgs) (s.setJob { j with barriers := k, barBase := k })
        else s))

/-! ### Looms -/

/-- A PASS that is ready leaves its queue and issues: it stands last among the issued instructions, and, where it flips no half
and stays in its run, the accumulators are those of its rows streamed against its stationary tile. Rows that overflowed
stream again at its replay. -/
def Obligations.PassesIssueAndReplay : Prop :=
  ∀ (d h l : Nat) (s : State),
    let x := s.loom d h l
    (∀ e rest p, x.queue = e :: rest → s.loomMayIssue d h l x e.run = true → loomInstrFault e.word x.k.setup.slotRows = none →
      e.skip = false → s.passReady d h l x e = .go p → s.loomHot d h l x = true →
      exec (.pass d h l) s = .next (s.passIssue d h l e p)
      ∧ ((loomInstr e.word).flips = false → x.countRun = e.run → (loomInstr e.word).accInit ≠ 2 →
        let i := loomInstr e.word
        let k := if i.accInit = 0 then x.k else x.k.clearForced (instrSpan x.k.setup x.k.half i)
        let tuned := i.tuned && !k.isForced (instrSpan x.k.setup x.k.half i)
        let r := s.runPass k i k.half p tuned fun _ => true
        let y := (s.passIssue d h l e p).loom d h l
        y.queue = rest ∧ y.k.acc = r.acc ∧ y.k.written = r.written ∧ y.hearthLevel = i.hearthLevel
          ∧ (y.issued.map fun z => (z.run, z.word, z.overs)) = (x.issued.map fun z => (z.run, z.word, z.overs)) ++ [(e.run, e.word, r.overs)]))
    ∧ ∀ e c, (x.issued.find? fun e => !e.overs.isEmpty) = some e → s.loomMayIssue d h l x e.run = true →
      (Fmt.ofCode (loomInstr e.word).statFmt).bind opClass = some c →
      let r := s.runPass x.k (loomInstr e.word) e.half ⟨c, e.stat, replayTiles e.stream⟩ (loomInstr e.word).tuned fun row =>
        e.overs.contains row
      exec (.replayPass d h l) s = .next (s.replay d h l e)
        ∧ ((s.replay d h l e).loom d h l).k.acc = r.acc
        ∧ (((s.replay d h l e).loom d h l).issued.map fun z => (z.run, z.word, z.overs))
          = x.issued.map fun z => if z = e then (e.run, e.word, []) else (z.run, z.word, z.overs)

/-- An issued instruction with no row left to replay retires and is counted; without a signal nothing but its Loom and the count
changes. A FENCE at the head waits for every earlier instruction and drain of its Loom. A drain sends its rows in ascending
order, each to its place in the drain's tensor at the SIEVE. -/
def Obligations.InstructionsRetireAndDrain : Prop :=
  ∀ (d h l : Nat) (s : State), s.served (loomPage d h l) = true →
    let x := s.loom d h l
    (∀ e, (x.issued.find? fun e => e.overs.isEmpty) = some e →
      exec (.instructionRetire d h l) s = .next (s.retire d h l e)
      ∧ ((loomInstr e.word).sigEn = false → ((s.retire d h l e).loom d h l).issued = x.issued.erase e
        ∧ State.SameBut [.looms, .regs] s (s.retire d h l e)
        ∧ (s.retire d h l e).fld (loomPage d h l) passCountLo_count = (s.fld (loomPage d h l) passCountLo_count + 1) % 2 ^ 32))
    ∧ (∀ e rest, x.queue = e :: rest → s.loomMayIssue d h l x e.run = true → loomInstrFault e.word x.k.setup.slotRows = none →
      (loomInstr e.word).opcode = 2 → s.loomWaitOk d (loomInstr e.word) = true →
      (x.issued = [] → x.drains = [] → (loomInstr e.word).sigEn = false →
        exec (.fenceIssue d h l) s = .next (s.setLoom d h l (s.takeFence h l e.run (loomInstr e.word) x)))
      ∧ (x.issued ≠ [] ∨ x.drains ≠ [] → exec (.fenceIssue d h l) s = .next s))
    ∧ ∀ j, (x.drains.find? fun j => !j.stays l) = some j → x.unsettled ((drainSpan x.k.setup j).1, 1) = false →
      exec (.drain d h l) s = .next (s.drainRow d h l)
      ∧ (j.toSieve = true → ∃ t, exec (.drain d h l) s = .next t ∧ t.loom d h l = x.drainNext j none
        ∧ State.SameBut [.looms, .sram] s t
        ∧ ∀ p dd job tn, s.loomProg j.run h l = some p → p.drains[j.index]? = some dd → s.runJob j.run = some job →
          dd.heads = [] → findTensor (s.tensors j.run) dd.tensor = some tn → dd.row + j.next < tn.rows →
          ∀ c w, (drainWords x.k j j.next)[c]? = some w → c < 128 → dd.col * 128 + c < tn.cols →
            (t.tdata (placeOf tn d h) job tn.id).cell tn (dd.row + j.next) (dd.col * 128 + c)
              = some (if j.masked.contains c then none else some (w.toNat + if j.ints then 2 ^ 32 else 0)))

/-- The power ramps of a Loom with Hearth fill: the end of the window asks for a ramp down, an issuable instruction turns a ramp
or asks for one up, the grants of a die stand 250 ns apart, and a ramp moves in steps from cold to fully active. -/
def Obligations.RampsMoveInSteps : Prop :=
  ∀ (d h l : Nat) (s : State), s.rampsAct d h l = true →
    let x := s.loom d h l
    (x.activity = 16 → x.ramp = none → x.rampWait = none → s.loomIssuable d h l x = false →
      ∃ t, exec (.rampDown d h l) s = .next t ∧ t.loom d h l = { x with rampWait := some false, slots := none }
        ∧ State.SameBut [.looms, .regs, .out] s t)
    ∧ (s.loomIssuable d h l x = true → ∃ t, exec (.rampUp d h l) s = .next t ∧ State.SameBut [.looms] s t
      ∧ (x.rampWait = some false → t.loom d h l = { x with rampWait := none })
      ∧ (x.rampWait ≠ some false → x.ramp = some false → (t.loom d h l).ramp = if x.activity = 16 then none else some true)
      ∧ (x.activity = 0 → x.ramp = none → x.rampWait = none → t.loom d h l = { x with rampWait := some true }))
    ∧ (x.ramp = some true → ∃ t, exec (.rampStep d h l) s = .next t ∧ State.SameBut [.looms] s t
      ∧ t.loom d h l = { x with activity := min 16 (x.activity + 1), ramp := if 15 ≤ x.activity then none else some true })
    ∧ (x.ramp = some false → ∃ t, exec (.rampStep d h l) s = .next t ∧ State.SameBut [.looms] s t
      ∧ t.loom d h l = { x with activity := x.activity - 1, ramp := if x.activity ≤ 1 then none else some false })
    ∧ ∀ up, x.rampWait = some up → ∃ t, exec (.rampGrant d h l) s = .next t
      ∧ t.loom d h l = { x with ramp := some up, rampWait := none } ∧ t.now = max s.now (SMap.get 0 s.power.grantAt d)
      ∧ SMap.get 0 t.power.grantAt d = t.now + 250 ∧ State.SameBut [.now, .power, .looms] s t

/-! ### Tiles -/

/-- The way of tile data between two dies, whichever dies are out of service: each two neighbours of it are joined by a bridge,
it leads from the one die to the other, no die in transit is out of service, and while none is it is a shorter way round the
ring, ascending between dies four apart. It crosses the Square only where a die out of service lies in both directions. A
message between two dies always crosses the Square. -/
def Obligations.TilesTakeTheShorterWay : Prop :=
  ∀ (dead : Nat → Bool) (a b : Nat), a < 8 → b < 8 →
    let w := tileWay dead a b
    wayJoined w = true ∧ w.head? = some (.croft a) ∧ w.getLast? = some (.croft b)
    ∧ (∀ d, Stop.croft d ∈ w.tail.dropLast → dead d = false)
    ∧ ((∀ d, d < 8 → dead d = false) → w.length = min ((b + 8 - a) % 8) ((a + 8 - b) % 8) + 1 ∧ Stop.square ∉ w
      ∧ ((b + 8 - a) % 8 = 4 → w = (ringUp a b).map Stop.croft))
    ∧ (Stop.square ∈ w → w = [.croft a, .square, .croft b]
      ∧ (∃ d, d ∈ (ringUp a b).tail.dropLast ∧ dead d = true) ∧ ∃ d, d ∈ (ringDown a b).tail.dropLast ∧ dead d = true)
    ∧ wayJoined (messageWay a b) = true ∧ (a ≠ b → Stop.square ∈ messageWay a b)

/-- A tile that arrives at a page in service over an open way is checked and kept at its unit: the Commons holds every valid
element of it at its place (the SRAM as element words is the model's, log 12), and a Loom's buffer holds it at the address
that its tag and the tensor table give. It waits on its path while a Loom's buffer cannot take it, and one that fails a
check raises 0x43 and stores nothing. A multicast reads the Commons once and delivers to every Loom of its mask; at a pair,
which it reaches by an open way alone, a tile goes to the WRITE that takes it, which has it from then on and whose spans
alone change HBM. -/
def Obligations.TilesArrive : Prop :=
  ∀ (tile : Tile) (s : State),
    (∀ dest, s.served (destPage dest) = true → s.bridged tile (destAt dest).1 = true →
      let run := s.tileRun (destAt dest).1 (destAt dest).2 tile
      (s.tileWaits dest run tile = false → exec (.tileArrival dest tile) s = .next ((s.landed tile).arrive dest run tile))
      ∧ (s.tileWaits dest run tile = true → exec (.tileArrival dest tile) s = .next s))
    ∧ (∀ dest, s.bridged tile (destAt dest).1 = false → exec (.tileArrival dest tile) s = .next s)
    ∧ (∀ d r t job, s.served (diePage .commons d) = true → s.bridged tile d = true → s.tileRun d 0 tile = some r →
      findTensor (s.tensors r) (tagFields tile.tag).tensor = some t → s.runJob r = some job →
      tagFault .commons (s.tensors r) (s.runStep r) false tile.tag = none → (tagFields tile.tag).kind = 0 →
      (tagFields tile.tag).flag flWinnow = false →
      let f := tagFields tile.tag
      ∃ u, exec (.tileArrival (.commons d) tile) s = .next u ∧ State.SameBut [.flight, .sram] s u
        ∧ ∀ i j, i ≤ f.vrows → j < tileW t.fmt → f.row + i < t.rows → f.col * tileW t.fmt + j < t.cols →
          f.elemValid t.fmt t.rows t.cols i j = true → i * tileW t.fmt + j ∉ tile.holes →
          (u.tdata (commonsPlace d) job t.id).cell t (f.row + i) (f.col * tileW t.fmt + j)
            = some (some (tileAt tile (tileW t.fmt) i j)))
    ∧ (∀ d h l addr r t job, s.served (loomPage d h l) = true → s.bridged tile d = true → s.tileRun d h tile = some r →
      findTensor (s.tensors r) (tagFields tile.tag).tensor = some t → s.runJob r = some job → t.viewOf = none →
      (∀ u g k, t.loc ≠ .tapView u g k) → t.fmt.isMx = false → (tagFields tile.tag).kind = 0 →
      tagFault .loom (s.tensors r) (s.runStep r) (scaleFits (s.loom d h l).scaleIn tile.tag) tile.tag = none →
      (s.loom d h l).overlapped (loomAddr t tile.tag addr % 2048) (tileUnits t.fmt) = [] →
      ∃ u, exec (.tileArrival (.loom d h l addr) tile) s = .next u ∧ State.SameBut [.flight, .looms] s u
        ∧ SMap.get none (u.loom d h l).buf (loomAddr t tile.tag addr % 2048) = some { run := r, tile := tile, pad := tile.holes })
    ∧ (∀ d r, s.served (diePage .commons d) = true → s.bridged tile d = true →
      tagFault .commons (s.tensorsFor (s.tileRun d 0 tile)) (s.stepFor (s.tileRun d 0 tile)) false tile.tag = some r →
      ∃ t, exec (.tileArrival (.commons d) tile) s = .next t ∧ t.faults.length = s.faults.length + 1
        ∧ (t.faults.map (·.code)).count 0x43 = (s.faults.map (·.code)).count 0x43 + 1
        ∧ ∀ p job tn i c, (t.tdata p job tn.id).cell tn i c = (s.tdata p job tn.id).cell tn i c)
    ∧ (∀ d mask addr t job tl, s.served (diePage .commons d) = true →
      ((maskLooms mask).any fun n => !s.loomOn d (n / 8) (n % 8)) = false →
      findTensor (s.tensorsFor (s.tileRun d 0 tile)) (tagFields tile.tag).tensor = some t → s.jobFor (s.tileRun d 0 tile) = some job →
      (s.tdata (commonsPlace d) job t.id).cut t tile.tag = some tl →
      s.mcastReady d (loomAddr t tile.tag addr) (maskLooms mask) tl = true →
      ∃ u, exec (.multicast d mask tile addr) s = .next u
        ∧ u.looms = (mcastTo d addr (s.tileRun d 0 tile) tl (maskLooms mask) s).looms
        ∧ u.fld (diePage .commons d) mcastCount_count
          = ((mcastTo d addr (s.tileRun d 0 tile) tl (maskLooms mask) s).fld (diePage .commons d) mcastCount_count + 1) % 2 ^ 32
        ∧ (∀ r, s.tileRun d 0 tile = some r → (∀ v g k, t.loc ≠ .tapView v g k) → t.fmt.isMx = false →
          (tagFields tile.tag).kind = 0 →
          (∀ n, n ∈ maskLooms mask → tagFault .loom (s.tensors r) (s.runStep r)
            (scaleFits (s.loom d (n / 8) (n % 8)).scaleIn tile.tag) tile.tag = none) →
          ∀ n, n ∈ maskLooms mask →
            SMap.get none (u.loom d (n / 8) (n % 8)).buf (loomAddr t tile.tag addr % 2048) = some { run := r, tile := tl, pad := tl.holes }))
    ∧ ∀ pair run, s.up = true → dieOk pair = true →
      (s.wayOpen (s.wayToPair run tile pair) = false → exec (.tileArrivalAtPair pair run tile) s = .next s)
      ∧ (s.wayOpen (s.wayToPair run tile pair) = true →
      exec (.tileArrivalAtPair pair run tile) s = .next ((s.withFlight (s.flight.erase (run, tile))).pairArrive pair run tile)
      ∧ (∀ i e x eff, s.taker pair run (tagFields tile.tag) = .running i → (s.pair pair).running[i]? = some e →
        tagFault .pair (s.tensors run) (s.runStep run) false tile.tag = none → s.gctx pair e = some x → e.discards tile = false →
        s.tileEffs x (e.withHeld tile) = some eff → eff.reject = none → s.eccClean = true →
        ∃ t, exec (.tileArrivalAtPair pair run tile) s = .next t
          ∧ (∀ a, (∀ w, w ∈ eff.writes → ¬ s.storesAt w a) → t.byteAt a = s.byteAt a)
          ∧ (t.pair pair).tiles = (s.pair pair).tiles)
      ∧ ∀ i e x t, s.taker pair run (tagFields tile.tag) = .running i → (s.pair pair).running[i]? = some e →
        tagFault .pair (s.tensors run) (s.runStep run) false tile.tag = none → s.gctx pair e = some x → e.discards tile = false → s.eccClean = true →
        findTensor x.tensors (tagFields tile.tag).tensor = some t → (∀ a b c g v, t.loc ≠ .kv a b c g v) →
        (s.gref x.run (s.boundId x.job (tagFields tile.tag).tensor) true).isSome = true →
        ∃ u c, exec (.tileArrivalAtPair pair run tile) s = .next u ∧ (u.pair pair).running[i]? = some c ∧ c.word = e.word
          ∧ c.got = ((tagFields tile.tag).kind, (tagFields tile.tag).row, (tagFields tile.tag).vrows + 1, (tagFields tile.tag).col) :: e.got)

/-! ### The SIEVE and the Gate engine -/

/-- An element-wise operation with every source element there leaves the queue. Into a dst that is not block-scaled, each
position of its rows takes the function of the sources' words there, converted; one with a masked source keeps what it
holds, and every other position of dst is unchanged. MUL into the output of an attention head is left to the row operations,
and ADD and CONVERT into an INT32 partial tensor write the saturated sum of the sources' integers. -/
def Obligations.ElementwiseOperationsMapTheirSources : Prop :=
  ∀ (d h op n : Nat) (i : Instr) (f : List Word → FVal) (e : QEntry 64) (c : OpCtx) (t : TensorDecl) (xs : List Src) (s : State),
    (i, op, n, f) ∈ elementwise d h → s.SieveHead d h op e c →
    let o := sieveOp e.word
    c.tensor o.dst = some t → c.sources o n = xs.map some → (∀ x, x ∈ xs → s.srcHere c t (c.rows o.dst) t.cols x = true) →
    ((op = 0x02 ∨ op = 0x20 → t.int32 = false) → (op = 0x03 → ∀ x, x ∈ c.attn → x.out ≠ t.id) →
      ∃ v, s.SieveRan d h i v ∧ s.Wrote v c (c.rows o.dst) t (fun _ => true) fun r col =>
        let ws := xs.map fun x => (s.srcVal c t x r col).word o.ieee
        if ws.all Option.isSome then some (outElem t.fmt o.ieee (f (ws.filterMap id))).1 else none)
    ∧ (op = 0x02 ∨ op = 0x20 → t.int32 = true →
      ∃ v, s.SieveRan d h i v ∧ s.Wrote v c (c.rows o.dst) t (fun _ => true) fun r col =>
        let is := xs.map fun x => (s.srcVal c t x r col).int
        if is.all Option.isSome then some (i32Clamp ((is.filterMap id).foldl (· + ·) 0)).1.toNat else none)

/-- What the other operations of a SIEVE write into a dst that is not block-scaled, with all they read there. A row reduction
puts one value per row into column 0; GUMBEL the value of its view's uniform integer; SMAX_RUN and SMAX_EXACT the weights of
each row over the source's window, with m and l into the statistics tensor of a row that a tag leaves in; SMAX_RUN of an
attention head a block's weights, with m, l and the factor a of each row (R177, R178), and the MUL that ends its rows +0 for
a row of masked keys, NaN for one with a NaN or +∞, else the product (R179), and frees m; a norm the normalised value of
each position from the statistics of its set, NaN where the set holds a NaN or an infinity. NOP and SIGNAL leave the queue;
a WAIT holds it, or discards the job's entries where its Bell holds an error. -/
def Obligations.RowOperationsLeaveTheQueue : Prop :=
  ∀ (d h op : Nat) (i : Instr) (e : QEntry 64) (c : OpCtx) (s : State), s.SieveHead d h op e c →
    let o := sieveOp e.word
    let rows := c.rows o.dst
    (∀ f t a, (i, op, f) ∈ reductions d h → c.tensor o.dst = some t → c.tensor o.srcA = some a →
      s.srcHere c a rows (c.width a) (.tensor a) = true →
      ∃ v, s.SieveRan d h i v
        ∧ (t.fmt.isMx = false → 0 < t.cols → ∀ r, r ∈ rows →
          v.cellOf c t r 0
            = some (some (outElem t.fmt o.ieee (f o.ieee ((s.srcRow c a (.tensor a) (c.width a) r).map (Elem.word o.ieee))).1).1)))
    ∧ (∀ t a w, op = 0x19 → c.tensor o.dst = some t → c.tensor o.srcA = some a → a.loc = .firefly w →
      ∃ v, s.SieveRan d h (.gumbel d h) v ∧ s.Wrote v c rows t (fun _ => true) fun r col =>
        some (outElem t.fmt o.ieee (gumbelVal (ffUniform (s.viewOut c.run (fireflyView w) r col)))).1)
    ∧ (∀ f t a, (i, op, f) ∈ [(Instr.smaxRun d h, 0x28, smaxRunning), (.smaxExact d h, 0x29, smaxExact)] →
      c.tensor o.dst = some t → c.tensor o.srcA = some a → s.smaxHere c o t a = true → (op = 0x28 → ∀ x, x ∈ c.attn → x.p ≠ t.id) →
      let y (r : Nat) : SmaxRow := f (s.smaxRow c o t a r)
      let stat := if o.dst + 1 < 0xF then c.tensor (o.dst + 1) else none
      c.apart (t :: stat.toList) → ∃ v, s.SieveRan d h i v
        ∧ (s.Wrote v c rows t (c.covers o.srcA) fun r col =>
          ((y r).out.getD col none).map fun w => (outElem t.fmt o.ieee (f32Val w)).1)
        ∧ ∀ st, stat = some st → 2 ≤ st.cols → ∀ r, r ∈ rows → (y r).live = true →
          v.cellOf c st r 0 = some (some (y r).m.toNat) ∧ v.cellOf c st r 1 = some (some (y r).l.toNat))
    ∧ (∀ t a x m l fac out, op = 0x28 → c.tensor o.dst = some t → c.tensor o.srcA = some a → s.smaxHere c o t a = true →
      (c.attn.find? fun y => y.p == t.id) = some x →
      [x.m, x.l, x.a, x.o].map (findTensor c.tensors) = [some m, some l, some fac, some out] → c.apart [t, m, l, fac, out] →
      0 < m.cols → 0 < l.cols → 0 < fac.cols →
      let xs (r : Nat) := s.smaxRow c o t a r
      let b (r : Nat) : Option AttnRow := attnBlock (s.attnM c x r) (s.attnL c x r) (xs r)
      ∃ v, s.SieveRan d h (.smaxRun d h) v
        ∧ (s.Wrote v c rows t (c.covers o.srcA) fun r col => match b r with
          | some k => (k.e.getD col none).map fun w => (outElem t.fmt o.ieee (f32Val w)).1
          | none => ((xs r).getD col none).map fun _ => (outElem t.fmt o.ieee (.fin false 0 0)).1)
        ∧ ∀ r, r ∈ rows → v.cellOf c m r 0 = some (some (((b r).map (·.m)).getD (s.attnM c x r)).toNat)
          ∧ v.cellOf c l r 0 = some (some (((b r).map (·.l)).getD (s.attnL c x r)).toNat)
          ∧ v.cellOf c fac r 0 = some ((b r).map (·.a.toNat)))
    ∧ (∀ (t : TensorDecl) (x : AttnDecl) (m : TensorDecl) (xs : List Src), op = 0x03 → c.tensor o.dst = some t → c.sources o 2 = xs.map some →
      (∀ y, y ∈ xs → s.srcHere c t rows t.cols y = true) → (c.attn.find? fun y => y.out == t.id) = some x →
      findTensor c.tensors x.m = some m → 0 < m.cols →
      c.apart (t :: ([x.m, x.l, x.a, x.o].filterMap (findTensor c.tensors) ++ (c.tensor (o.dst + 1)).toList)) →
      ∃ v, s.SieveRan d h (.mul d h) v
        ∧ (s.Wrote v c rows t (fun _ => true) fun r col =>
          let ws := xs.map fun y => (s.srcVal c t y r col).word o.ieee
          if s.attnM c x r = maskValue then some (outElem t.fmt o.ieee (.fin false 0 0)).1
          else if f32IsNan (s.attnM c x r) = true then some (outElem t.fmt o.ieee .nan).1
          else if ws.all Option.isSome then some (outElem t.fmt o.ieee (fn2 mulVal (ws.filterMap id))).1 else none)
        ∧ ∀ r, r ∈ rows → v.cellOf c m r 0 = none)
    ∧ (∀ t a useB, (i, op, useB) ∈ normalisations d h → c.tensor o.dst = some t → c.tensor o.srcA = some a →
      s.srcHere c t rows t.cols (.tensor a) = true → s.normHere c t o useB = true →
      (op = 0x2C → ∀ r q, r ∈ rows → q ∈ instanceRows (c.perInstance o t) t a r →
        (s.heldRow c o.srcA t a q).all Elem.here = true) →
      ∃ v, s.SieveRan d h i v ∧ s.Wrote v c rows t (fun _ => true) fun r col =>
        let z := s.normSet c o t a r col
        let sc := normScale z.1 (normEps (c.const o.kA))
        match (s.srcVal c t (.tensor a) r col).word o.ieee, (s.normCoef c t o.srcB f32One r col).word o.ieee,
            (s.normCoef c t o.srcC f32Zero r col).word o.ieee, useB with
        | some x, some g, some b, true => some (outElem t.fmt o.ieee (if z.2 then .nan else layerOut z.1 sc x g b)).1
        | some x, some g, _, false => some (outElem t.fmt o.ieee (if z.2 then .nan else rmsOut sc x g)).1
        | _, _, _, _ => none)
    ∧ (op = 0x00 → exec (.sieveNop d h) s = .next (s.sievePop d h))
    ∧ (op = 0x3C → exec (.sieveSignal d h) s = .next ((s.unitSignal d (sieveBellOp e.word).bell (sieveBellOp e.word).op
        (BitVec.ofNat 32 (sieveBellOp e.word).value)).sievePop d h))
    ∧ (op = 0x3D → exec (.sieveWait d h) s = .next ((s.setSieve d h { s.sieve d h with
        waiting := true, waitAt := if (s.sieve d h).waiting then (s.sieve d h).waitAt else s.now }).errorWait (.sieve d h)))

/-- A Gate operation that has all it reads leaves the queue. Each output of CONV into a tensor that is not block-scaled is the
sum of its taps in raster order, the channels of a tap in ascending order, with the bias last. CSC_IN converts each line of
packed codes to the three planes, and CSC_OUT each line of the planes to packed codes. NOP leaves the queue, a SIGNAL acts
on its Bell, and a WAIT holds the queue, or discards the job's entries where its Bell holds an error. -/
def Obligations.GateOperationsLeaveTheQueue : Prop :=
  ∀ (d op : Nat) (e : QEntry 64) (c : OpCtx) (s : State), s.GateHead d op e c →
    let o := gateOp e.word
    let cell (u : State) (t : TensorDecl) (r col : Nat) := (u.tdata (commonsPlace c.d) c.job t.id).cell t r col
    (op = 0x0 → exec (.gateNop d) s = .next (s.gatePop d))
    ∧ (op = 0xE → exec (.gateSignal d) s = .next ((s.unitSignal d (gateBellOp e.word).bell (gateBellOp e.word).op
        (BitVec.ofNat 32 (gateBellOp e.word).value)).gatePop d))
    ∧ (op = 0xF → exec (.gateWait d) s = .next ((s.setGate d { s.gate d with
        waiting := true, waitAt := if (s.gate d).waiting then (s.gate d).waitAt else s.now }).errorWait (.gate d)))
    ∧ ∀ src dst, (c.tensor o.src).map (gateAs o.inFmt) = some src → (c.tensor o.dst).map (gateAs o.outFmt) = some dst →
      s.gateHere c src (c.rows o.src) = true →
      (∀ wgt, op = 0x2 → c.tensor o.wgt = some wgt → s.gateHere c wgt (numsFrom 0 wgt.rows) = true →
        (o.bias = 0xF ∨ ∃ b, c.tensor o.bias = some b ∧ s.gateHere c b [0] = true) →
        ∃ u, s.GateRan d (.conv d) u ∧ (dst.fmt.isMx = false → ∀ r co, r ∈ c.rows o.dst → co < dst.cols →
          cell u dst r co = some (some (outElem dst.fmt o.ieee
            (gateConvVal o.ieee (s.gatePairs c (s.geomOf c.run o.geom) src wgt dst r co) (s.gateBias c o co)).1).1)))
      ∧ (op = 0x1 → ∃ u, s.GateRan d (.cscIn d) u ∧ ∀ line x px, line ∈ c.rows o.src → x < planeWidth dst →
        (cscInLine o.matrix o.full (videoBits src.fmt) (planeWidth dst)
          ((numsFrom 0 src.cols).map fun j => (s.gateElem c src line j).nat))[x]? = some px →
        ∀ k w, (k, w) ∈ [(0, px.1), (1, px.2.1), (2, px.2.2)] →
          let at_ := planeAt dst src.rows line x k
          cell u dst at_.1 at_.2 = some (some (outElem dst.fmt o.ieee (f32Val w)).1))
      ∧ (op = 0x3 → ∃ u, s.GateRan d (.cscOut d) u ∧ ∀ line j cv, line ∈ c.rows o.dst → j < dst.cols →
        let at_ (x k : Nat) : Word :=
          let p := planeAt src dst.rows line x k
          (s.gateElem c src p.1 p.2).word0
        (cscOutLine o.matrix o.full dst.fmt ((numsFrom 0 (planeWidth src)).map fun x => (at_ x 0, at_ x 1, at_ x 2)))[j]? = some cv →
        cell u dst line j = some (some cv.code))

/-! ### Granary -/

/-- A Granary command that reads and writes HBM takes its effect and is done, and every byte that none of its writes touches
reads as before. Each command but GATHER has an effect whenever its operands are tensors in HBM that the job's map covers,
and GATHER when its pages pass their checks and form whole tiles; GATHER alone can be rejected. -/
def Obligations.GranaryCommandsTakeTheirEffect : Prop :=
  (∀ (pair q op k : Nat) (i : Instr) (f : State → GCtx → Option GEff) (e : GranRun) (x : GCtx) (eff : GEff) (s : State),
      (i, op, f) ∈ granaryEffects pair q → s.granFirst pair q op = some (k, e) → s.gctx pair e = some x → f s x = some eff →
      s.up = true → s.eccClean = true →
      (eff.reject = none → ∃ t, exec i s = .next t
        ∧ (t.pair pair).running = listSet (s.pair pair).running k { e with done := true, sent := eff.tiles }
        ∧ ∀ a, (∀ w, w ∈ eff.writes → ¬ s.storesAt w a) → t.byteAt a = s.byteAt a)
      ∧ ∀ r, eff.reject = some r → op = 0x06
        ∧ exec i s = .next ((s.countGran eff).pairFault pair r (granCmd e.word).opcode q (s.runJob e.run) eff.rejectAt))
  ∧ (∀ (pair q op k : Nat) (i : Instr) (f : State → GCtx → Option GEff) (e : GranRun) (x : GCtx) (s : State),
      (i, op, f) ∈ granaryEffects pair q → s.granFirst pair q op = some (k, e) → s.gctx pair e = some x → s.up = true → s.eccClean = true →
      (s.granOperands x op = true →
        ∃ t ts, exec i s = .next t ∧ (t.pair pair).running = listSet (s.pair pair).running k { e with done := true, sent := ts })
      ∧ ∀ d cd ps ts, op = 0x06 → findTensor x.tensors (x.id x.c.slotD) = some d → s.cacheDecl x.job (x.id x.c.slotA) = some cd →
        s.gatherPages x (x.id x.c.slotA) (if cd.headDim = 0 then 0 else 128 / (tileW d.fmt / cd.headDim)) (x.descs.map pageDesc)
          = (ps, none) →
        gatherTiles d cd.headDim (s.runStep x.run) ps = some ts →
        ∃ t, exec (.gather pair q) s = .next t ∧ (t.pair pair).running = listSet (s.pair pair).running k { e with done := true, sent := ts }
          ∧ t.mem = s.mem)

/-- The course of a Granary command: it starts when both stacks may issue, no WAIT holds the queue and no earlier one writes
what it touches; NOP, SIGNAL and WAIT are done as their rules say, a WRITE that starts takes the tiles that wait for it. A
SCRUB of a range where no memory lies stops by name, and the loader's SCRUB in queue 32 is a patrol pass of its stack (both
the model's choice, log 18). A command whose effect has taken place leaves, counted at both stacks. -/
def Obligations.GranaryQueuesRunInOrder : Prop :=
  ∀ (pair q i : Nat) (s : State),
    let x := s.pair pair
    (∀ e rest, x.queue q = e :: rest → s.granMayStart pair q = true → granCmdFault e.word rest.length = none →
      let n := if (granCmd e.word).opcode = 0x06 then (granCmd e.word).nRows else 0
      let run : GranRun := { q := q, run := e.run, word := e.word, descs := (rest.take n).map (·.word), done := false, at_ := s.now }
      (s.granConflict pair q run = false → ∃ u t, exec (.granaryCommandStart pair q) s = .next t
        ∧ (u.pair pair).running = x.running ++ [run] ∧ (u.pair pair).queue q = rest.drop n ∧ State.SameBut [.pairs, .regs] s u
        ∧ t = (if (granCmd e.word).opcode = 0x02 then u.takeParked pair else u)
        ∧ u.fld (stackPage .granary (2 * pair)) granaryStatus_selfRefresh = 0
        ∧ u.fld (stackPage .granary (2 * pair + 1)) granaryStatus_selfRefresh = 0)
      ∧ (s.granConflict pair q run = true → exec (.granaryCommandStart pair q) s = .next s))
    ∧ (∀ e, s.granFirst pair q 0x00 = some (i, e) → exec (.granaryNop pair q) s = .next (s.setRunning pair i { e with done := true }))
    ∧ (∀ e, s.granFirst pair q 0x02 = some (i, e) → s.up = true →
      exec (.write pair q) s = .next ((takeWaiting pair x.tiles (s.setPair pair { x with tiles := [] })).writeSettle pair q))
    ∧ (∀ e, s.granFirst pair q 0x3C = some (i, e) → ((x.running.take i).any fun c => c.q == q) = false →
      exec (.granarySignal pair q) s = .next (if s.signalOpen pair (granBellOp e.word) then
        ((s.setRunning pair i { e with done := true }).rankSignal e.run (granBellOp e.word)).granSignal pair q e.run (granBellOp e.word)
        else s))
    ∧ (∀ e w, s.granFirst pair q 0x3D = some (i, e) → s.granWait e.run e.at_ e.word = some w →
      exec (.granaryWait pair q) s
        = .next (if (s.bell w.die w.bell).satisfies w.value then s.setRunning pair i { e with done := true }
          else s.errorWait (.queue pair q)))
    ∧ (∀ e y, s.granFirst pair q 0x20 = some (i, e) → s.gctx pair e = some y → s.up = true →
      q ≠ 32 →
      let start := leAt y.param 0 8
      let len := leAt y.param 8 8
      (rangePresent start len = true →
        exec (.scrub pair q) s = .next (((s.wakeStacks pair).scrubRange start len 0).setRunning pair i { e with done := true }))
      ∧ (rangePresent start len = false → exec (.scrub pair q) s = .fault (.memoryHole start)))
    ∧ (∀ e k, s.granFirst pair 32 0x20 = some (i, e) → e.word = patrolWord k → k < 16 → k / 2 = pair → s.up = true →
      exec (.scrub pair 32) s = .next ((s.patrol k).setRunning pair i { e with done := true })
      ∧ ((s.stack k).weak = [] → (s.stack k).bad = [] →
        (s.patrol k).fld (hbmPage k) scrubPassCount_count = (s.fld (hbmPage k) scrubPassCount_count + 1) % 2 ^ 32
        ∧ (s.patrol k).stack k = { s.stack k with passes := (s.stack k).passes + 1 } ∧ ∀ j, j ≠ k → (s.patrol k).stack j = s.stack j))
    ∧ ∀ e, findIdxFrom (fun e => e.q == q && s.granComplete e) 0 x.running = some (i, e) →
      ∃ t, exec (.granaryCommandComplete pair q) s = .next t ∧ (t.pair pair).running = x.running.eraseIdx i
        ∧ State.SameBut [.pairs, .regs] s t

/-! ### Numbers -/

/-- MIN, MAX, CMP_LT, CMP_EQ and SELECT of the SIEVE on every pair of words: by the order of the values that they hold,
infinities among them; a subnormal is read as a zero of its sign, and +0 counts as more than −0 for MIN and MAX, and as
equal to it for CMP_LT and CMP_EQ. -/
def Obligations.ComparisonsFollowTheirRule : Prop :=
  ∀ (a b c : Word),
    let one := 0x3F800000#32
    (f32IsNan a = true ∨ f32IsNan b = true →
      f32Min a b = f32Nan ∧ f32Max a b = f32Nan ∧ f32CmpLt a b = 0#32 ∧ f32CmpEq a b = 0#32)
    ∧ (f32IsNan a = false → f32IsNan b = false →
      (f32Rank a < f32Rank b → f32Min a b = f32Flushed a ∧ f32Max a b = f32Flushed b ∧ f32CmpLt a b = one ∧ f32CmpEq a b = 0#32)
      ∧ (f32Rank b < f32Rank a → f32Min a b = f32Flushed b ∧ f32Max a b = f32Flushed a ∧ f32CmpLt a b = 0#32 ∧ f32CmpEq a b = 0#32)
      ∧ (f32Rank a = f32Rank b → f32CmpLt a b = 0#32 ∧ f32CmpEq a b = one
        ∧ (f32Flushed a = f32Flushed b → f32Min a b = f32Flushed a ∧ f32Max a b = f32Flushed a)
        ∧ (f32Flushed a ≠ f32Flushed b → f32Min a b = 0x80000000#32 ∧ f32Max a b = 0#32)))
    ∧ (f32IsZero c = true → f32Select a b c = f32Canon b) ∧ (f32IsZero c = false → f32Select a b c = f32Canon a)
    ∧ (f32IsNan c = true → f32Select a b c = f32Canon a)

/-- Bit 5 of a format code tells the block-scaled formats, and clearing it gives the element format; the elements of MX-INT8 are
INT8 codes under the factor 2^−6. -/
def Obligations.BlockScaledCodesNameTheirElements : Prop :=
  (∀ f : Fmt, f.code.testBit 5 = [Fmt.mxE4m3, .mxE5m2, .mxE3m2, .mxE2m3, .mxE2m1, .mxInt8].contains f)
    ∧ (∀ f : Fmt, f.code.testBit 5 = true → Fmt.ofCode (f.code - 32) = some f.elem)
    ∧ Fmt.ofCode 0x38 = some .mxInt8 ∧ Fmt.mxInt8.elem = .int8 ∧ Fmt.int8.code = 0x18
    ∧ ∀ scale c, scale < 255 → decodeMx .mxInt8 scale c = (decodeElem .int8 c).scale ((scale : Int) - 127 - 6)
end

