-- ==== Sys2Proof/Laws/Data.lean ====
section
/-! SUPPORT. Data: the fold of a CRC. -/

namespace Sys2Proof.Machine

/-- A CRC's fold is the left fold of its step. -/
theorem crcFold_eq_foldl {w : Nat} (f : BitVec w → Byte → BitVec w) (r : BitVec w) (bs : List Byte) :
    crcFold f r bs = bs.foldl f r := by
  induction bs generalizing r with
  | nil => rfl
  | cons b bs ih =>
    simp only [crcFold, List.foldl_cons]
    split
    · rename_i h
      rw [ih]
      congr 1
      exact BitVec.eq_of_toNat_eq (by simp [h])
    · rename_i n h
      rw [ih]
      congr 1
      exact BitVec.eq_of_toNat_eq (by rw [show n + 1 = (f r b).toNat from h.symm, BitVec.toNat_ofNat]; exact Nat.mod_eq_of_lt (f r b).isLt)

end Sys2Proof.Machine
end

