-- ==== Sys2Proof/Laws/Maps.lean ====
section
/-! SUPPORT. Sorted maps: a read after a write, and the canonical form. -/

namespace Sys2Proof.Machine

@[simp] theorem SMap.getF_nil {α : Type} (d : Nat → α) (k : Nat) : SMap.getF d [] k = d k := rfl

theorem SMap.getF_put {α : Type} (d : Nat → α) (m : SMap α) (k : Nat) (v : α) (j : Nat) :
    SMap.getF d (SMap.put k v m) j = if j = k then v else SMap.getF d m j := by
  induction m with
  | nil => simp [SMap.put, SMap.getF]
  | cons p m ih =>
    obtain ⟨k', v'⟩ := p
    simp only [SMap.put]
    split
    · simp only [SMap.getF]
    · split
      · simp only [SMap.getF]; grind
      · simp only [SMap.getF, ih]; grind

theorem SMap.getF_drop {α : Type} (d : Nat → α) (m : SMap α) (k j : Nat) :
    SMap.getF d (m.filter fun e => e.1 != k) j = if j = k then d k else SMap.getF d m j := by
  induction m with
  | nil => simp [SMap.getF]; grind
  | cons p m ih =>
    obtain ⟨k', v'⟩ := p
    simp only [List.filter_cons]
    split
    · simp only [SMap.getF, ih]; grind
    · simp only [ih, SMap.getF]; grind

/-- A read after a write. -/
theorem SMap.getF_setF {α : Type} [DecidableEq α] (d : Nat → α) (m : SMap α) (k : Nat) (v : α) (j : Nat) :
    SMap.getF d (SMap.setF d k v m) j = if j = k then v else SMap.getF d m j := by
  unfold SMap.setF
  split
  · rw [SMap.getF_drop]; grind
  · rw [SMap.getF_put]

@[simp] theorem SMap.getF_setF_same {α : Type} [DecidableEq α] (d : Nat → α) (m : SMap α) (k : Nat) (v : α) :
    SMap.getF d (SMap.setF d k v m) k = v := by rw [SMap.getF_setF, if_pos rfl]

theorem SMap.getF_setF_other {α : Type} [DecidableEq α] (d : Nat → α) (m : SMap α) {k j : Nat} (v : α) (h : j ≠ k) :
    SMap.getF d (SMap.setF d k v m) j = SMap.getF d m j := by rw [SMap.getF_setF, if_neg h]

theorem SMap.wfFrom_mono {α : Type} [DecidableEq α] (d : Nat → α) {m : SMap α} {lo lo' : Nat} (h : SMap.wfFrom d lo m = true)
    (hl : lo' ≤ lo) : SMap.wfFrom d lo' m = true := by
  cases m with
  | nil => rfl
  | cons p m =>
    simp only [SMap.wfFrom, Bool.and_eq_true, decide_eq_true_eq] at h ⊢
    exact ⟨⟨by omega, h.1.2⟩, h.2⟩

theorem SMap.mapF_wf {α : Type} [DecidableEq α] (d : Nat → α) (f : Nat → α → α) {m : SMap α} (h : SMap.wfF d m = true) :
    SMap.wfF d (SMap.mapF d f m) = true := by
  suffices ∀ lo, SMap.wfFrom d lo m = true → SMap.wfFrom d lo (SMap.mapF d f m) = true from this 0 h
  clear h
  induction m with
  | nil => intro lo _; rfl
  | cons p m ih =>
    obtain ⟨k, v⟩ := p
    intro lo hw
    simp only [SMap.wfFrom, Bool.and_eq_true, decide_eq_true_eq] at hw
    simp only [SMap.mapF]
    split
    · exact SMap.wfFrom_mono d (ih _ hw.2) (by omega)
    · simp only [SMap.wfFrom, Bool.and_eq_true, decide_eq_true_eq]; exact ⟨⟨hw.1.1, by assumption⟩, ih _ hw.2⟩

theorem SMap.keep_wf {α : Type} [DecidableEq α] (d : Nat → α) (p : Nat → Bool) {m : SMap α} (h : SMap.wfF d m = true) :
    SMap.wfF d (SMap.keep p m) = true := by
  suffices ∀ lo, SMap.wfFrom d lo m = true → SMap.wfFrom d lo (SMap.keep p m) = true from this 0 h
  clear h
  unfold SMap.keep
  induction m with
  | nil => intro lo _; rfl
  | cons q m ih =>
    obtain ⟨k, v⟩ := q
    intro lo hw
    simp only [SMap.wfFrom, Bool.and_eq_true, decide_eq_true_eq] at hw
    simp only [List.filter_cons]
    split
    · simp only [SMap.wfFrom, Bool.and_eq_true, decide_eq_true_eq]; exact ⟨hw.1, ih _ hw.2⟩
    · exact SMap.wfFrom_mono d (ih _ hw.2) (by omega)

theorem SMap.put_wf {α : Type} [DecidableEq α] (d : Nat → α) {m : SMap α} (k : Nat) (v : α) (hv : v ≠ d k) :
    ∀ lo, lo ≤ k → SMap.wfFrom d lo m = true → SMap.wfFrom d lo (SMap.put k v m) = true := by
  induction m with
  | nil => intro lo hk _; simp [SMap.put, SMap.wfFrom, hk, hv]
  | cons p m ih =>
    obtain ⟨k', v'⟩ := p
    intro lo hk hw
    simp only [SMap.wfFrom, Bool.and_eq_true, decide_eq_true_eq] at hw
    simp only [SMap.put]
    split
    · simp only [SMap.wfFrom, Bool.and_eq_true, decide_eq_true_eq]; exact ⟨⟨hk, hv⟩, ⟨by omega, hw.1.2⟩, hw.2⟩
    · split
      · simp only [SMap.wfFrom, Bool.and_eq_true, decide_eq_true_eq]; subst_vars; exact ⟨⟨by omega, hv⟩, hw.2⟩
      · simp only [SMap.wfFrom, Bool.and_eq_true, decide_eq_true_eq]; exact ⟨hw.1, ih _ (by omega) hw.2⟩

theorem SMap.setF_wf {α : Type} [DecidableEq α] (d : Nat → α) {m : SMap α} (k : Nat) (v : α) (h : SMap.wfF d m = true) :
    SMap.wfF d (SMap.setF d k v m) = true := by
  unfold SMap.setF
  split
  · exact SMap.keep_wf d (· != k) h
  · exact SMap.put_wf d k v (by assumption) 0 (Nat.zero_le _) h

end Sys2Proof.Machine
end

