-- ==== Sys2Proof/Laws/State.lean ====
section
/-! SUPPORT. What each field of the state is after each update of one field. -/

namespace Sys2Proof.Machine

@[simp] theorem State.withPending_pending (s : State) (v : List Instr) : (s.withPending v).pending = v := rfl
@[simp] theorem State.withPending_now (s : State) (v : List Instr) : (s.withPending v).now = s.now := rfl
@[simp] theorem State.withPending_freeCount (s : State) (v : List Instr) : (s.withPending v).freeCount = s.freeCount := rfl
@[simp] theorem State.withPending_fuses (s : State) (v : List Instr) : (s.withPending v).fuses = s.fuses := rfl
@[simp] theorem State.withPending_board (s : State) (v : List Instr) : (s.withPending v).board = s.board := rfl
@[simp] theorem State.withPending_regs (s : State) (v : List Instr) : (s.withPending v).regs = s.regs := rfl
@[simp] theorem State.withPending_guards (s : State) (v : List Instr) : (s.withPending v).guards = s.guards := rfl
@[simp] theorem State.withPending_latch (s : State) (v : List Instr) : (s.withPending v).latch = s.latch := rfl
@[simp] theorem State.withPending_snaps (s : State) (v : List Instr) : (s.withPending v).snaps = s.snaps := rfl
@[simp] theorem State.withPending_mem (s : State) (v : List Instr) : (s.withPending v).mem = s.mem := rfl
@[simp] theorem State.withPending_margined (s : State) (v : List Instr) : (s.withPending v).margined = s.margined := rfl
@[simp] theorem State.withPending_hbmStacks (s : State) (v : List Instr) : (s.withPending v).hbmStacks = s.hbmStacks := rfl
@[simp] theorem State.withPending_fields (s : State) (v : List Instr) : (s.withPending v).fields = s.fields := rfl
@[simp] theorem State.withPending_fieldReqs (s : State) (v : List Instr) : (s.withPending v).fieldReqs = s.fieldReqs := rfl
@[simp] theorem State.withPending_dma (s : State) (v : List Instr) : (s.withPending v).dma = s.dma := rfl
@[simp] theorem State.withPending_dmaLost (s : State) (v : List Instr) : (s.withPending v).dmaLost = s.dmaLost := rfl
@[simp] theorem State.withPending_ringLost (s : State) (v : List Instr) : (s.withPending v).ringLost = s.ringLost := rfl
@[simp] theorem State.withPending_bells (s : State) (v : List Instr) : (s.withPending v).bells = s.bells := rfl
@[simp] theorem State.withPending_loader (s : State) (v : List Instr) : (s.withPending v).loader = s.loader := rfl
@[simp] theorem State.withPending_alm (s : State) (v : List Instr) : (s.withPending v).alm = s.alm := rfl
@[simp] theorem State.withPending_cue (s : State) (v : List Instr) : (s.withPending v).cue = s.cue := rfl
@[simp] theorem State.withPending_mer (s : State) (v : List Instr) : (s.withPending v).mer = s.mer := rfl
@[simp] theorem State.withPending_looms (s : State) (v : List Instr) : (s.withPending v).looms = s.looms := rfl
@[simp] theorem State.withPending_sieves (s : State) (v : List Instr) : (s.withPending v).sieves = s.sieves := rfl
@[simp] theorem State.withPending_gates (s : State) (v : List Instr) : (s.withPending v).gates = s.gates := rfl
@[simp] theorem State.withPending_pairs (s : State) (v : List Instr) : (s.withPending v).pairs = s.pairs := rfl
@[simp] theorem State.withPending_sram (s : State) (v : List Instr) : (s.withPending v).sram = s.sram := rfl
@[simp] theorem State.withPending_reeves (s : State) (v : List Instr) : (s.withPending v).reeves = s.reeves := rfl
@[simp] theorem State.withPending_kats (s : State) (v : List Instr) : (s.withPending v).kats = s.kats := rfl
@[simp] theorem State.withPending_flight (s : State) (v : List Instr) : (s.withPending v).flight = s.flight := rfl
@[simp] theorem State.withPending_ferry (s : State) (v : List Instr) : (s.withPending v).ferry = s.ferry := rfl
@[simp] theorem State.withPending_power (s : State) (v : List Instr) : (s.withPending v).power = s.power := rfl
@[simp] theorem State.withPending_faults (s : State) (v : List Instr) : (s.withPending v).faults = s.faults := rfl
@[simp] theorem State.withPending_restarts (s : State) (v : List Instr) : (s.withPending v).restarts = s.restarts := rfl
@[simp] theorem State.withPending_ledger (s : State) (v : List Instr) : (s.withPending v).ledger = s.ledger := rfl
@[simp] theorem State.withPending_wm (s : State) (v : List Instr) : (s.withPending v).wm = s.wm := rfl
@[simp] theorem State.withPending_out (s : State) (v : List Instr) : (s.withPending v).out = s.out := rfl
@[simp] theorem State.withNow_pending (s : State) (v : Nat) : (s.withNow v).pending = s.pending := rfl
@[simp] theorem State.withNow_now (s : State) (v : Nat) : (s.withNow v).now = v := rfl
@[simp] theorem State.withNow_freeCount (s : State) (v : Nat) : (s.withNow v).freeCount = s.freeCount := rfl
@[simp] theorem State.withNow_fuses (s : State) (v : Nat) : (s.withNow v).fuses = s.fuses := rfl
@[simp] theorem State.withNow_board (s : State) (v : Nat) : (s.withNow v).board = s.board := rfl
@[simp] theorem State.withNow_regs (s : State) (v : Nat) : (s.withNow v).regs = s.regs := rfl
@[simp] theorem State.withNow_guards (s : State) (v : Nat) : (s.withNow v).guards = s.guards := rfl
@[simp] theorem State.withNow_latch (s : State) (v : Nat) : (s.withNow v).latch = s.latch := rfl
@[simp] theorem State.withNow_snaps (s : State) (v : Nat) : (s.withNow v).snaps = s.snaps := rfl
@[simp] theorem State.withNow_mem (s : State) (v : Nat) : (s.withNow v).mem = s.mem := rfl
@[simp] theorem State.withNow_margined (s : State) (v : Nat) : (s.withNow v).margined = s.margined := rfl
@[simp] theorem State.withNow_hbmStacks (s : State) (v : Nat) : (s.withNow v).hbmStacks = s.hbmStacks := rfl
@[simp] theorem State.withNow_fields (s : State) (v : Nat) : (s.withNow v).fields = s.fields := rfl
@[simp] theorem State.withNow_fieldReqs (s : State) (v : Nat) : (s.withNow v).fieldReqs = s.fieldReqs := rfl
@[simp] theorem State.withNow_dma (s : State) (v : Nat) : (s.withNow v).dma = s.dma := rfl
@[simp] theorem State.withNow_dmaLost (s : State) (v : Nat) : (s.withNow v).dmaLost = s.dmaLost := rfl
@[simp] theorem State.withNow_ringLost (s : State) (v : Nat) : (s.withNow v).ringLost = s.ringLost := rfl
@[simp] theorem State.withNow_bells (s : State) (v : Nat) : (s.withNow v).bells = s.bells := rfl
@[simp] theorem State.withNow_loader (s : State) (v : Nat) : (s.withNow v).loader = s.loader := rfl
@[simp] theorem State.withNow_alm (s : State) (v : Nat) : (s.withNow v).alm = s.alm := rfl
@[simp] theorem State.withNow_cue (s : State) (v : Nat) : (s.withNow v).cue = s.cue := rfl
@[simp] theorem State.withNow_mer (s : State) (v : Nat) : (s.withNow v).mer = s.mer := rfl
@[simp] theorem State.withNow_looms (s : State) (v : Nat) : (s.withNow v).looms = s.looms := rfl
@[simp] theorem State.withNow_sieves (s : State) (v : Nat) : (s.withNow v).sieves = s.sieves := rfl
@[simp] theorem State.withNow_gates (s : State) (v : Nat) : (s.withNow v).gates = s.gates := rfl
@[simp] theorem State.withNow_pairs (s : State) (v : Nat) : (s.withNow v).pairs = s.pairs := rfl
@[simp] theorem State.withNow_sram (s : State) (v : Nat) : (s.withNow v).sram = s.sram := rfl
@[simp] theorem State.withNow_reeves (s : State) (v : Nat) : (s.withNow v).reeves = s.reeves := rfl
@[simp] theorem State.withNow_kats (s : State) (v : Nat) : (s.withNow v).kats = s.kats := rfl
@[simp] theorem State.withNow_flight (s : State) (v : Nat) : (s.withNow v).flight = s.flight := rfl
@[simp] theorem State.withNow_ferry (s : State) (v : Nat) : (s.withNow v).ferry = s.ferry := rfl
@[simp] theorem State.withNow_power (s : State) (v : Nat) : (s.withNow v).power = s.power := rfl
@[simp] theorem State.withNow_faults (s : State) (v : Nat) : (s.withNow v).faults = s.faults := rfl
@[simp] theorem State.withNow_restarts (s : State) (v : Nat) : (s.withNow v).restarts = s.restarts := rfl
@[simp] theorem State.withNow_ledger (s : State) (v : Nat) : (s.withNow v).ledger = s.ledger := rfl
@[simp] theorem State.withNow_wm (s : State) (v : Nat) : (s.withNow v).wm = s.wm := rfl
@[simp] theorem State.withNow_out (s : State) (v : Nat) : (s.withNow v).out = s.out := rfl
@[simp] theorem State.withFreeCount_pending (s : State) (v : Nat) : (s.withFreeCount v).pending = s.pending := rfl
@[simp] theorem State.withFreeCount_now (s : State) (v : Nat) : (s.withFreeCount v).now = s.now := rfl
@[simp] theorem State.withFreeCount_freeCount (s : State) (v : Nat) : (s.withFreeCount v).freeCount = v := rfl
@[simp] theorem State.withFreeCount_fuses (s : State) (v : Nat) : (s.withFreeCount v).fuses = s.fuses := rfl
@[simp] theorem State.withFreeCount_board (s : State) (v : Nat) : (s.withFreeCount v).board = s.board := rfl
@[simp] theorem State.withFreeCount_regs (s : State) (v : Nat) : (s.withFreeCount v).regs = s.regs := rfl
@[simp] theorem State.withFreeCount_guards (s : State) (v : Nat) : (s.withFreeCount v).guards = s.guards := rfl
@[simp] theorem State.withFreeCount_latch (s : State) (v : Nat) : (s.withFreeCount v).latch = s.latch := rfl
@[simp] theorem State.withFreeCount_snaps (s : State) (v : Nat) : (s.withFreeCount v).snaps = s.snaps := rfl
@[simp] theorem State.withFreeCount_mem (s : State) (v : Nat) : (s.withFreeCount v).mem = s.mem := rfl
@[simp] theorem State.withFreeCount_margined (s : State) (v : Nat) : (s.withFreeCount v).margined = s.margined := rfl
@[simp] theorem State.withFreeCount_hbmStacks (s : State) (v : Nat) : (s.withFreeCount v).hbmStacks = s.hbmStacks := rfl
@[simp] theorem State.withFreeCount_fields (s : State) (v : Nat) : (s.withFreeCount v).fields = s.fields := rfl
@[simp] theorem State.withFreeCount_fieldReqs (s : State) (v : Nat) : (s.withFreeCount v).fieldReqs = s.fieldReqs := rfl
@[simp] theorem State.withFreeCount_dma (s : State) (v : Nat) : (s.withFreeCount v).dma = s.dma := rfl
@[simp] theorem State.withFreeCount_dmaLost (s : State) (v : Nat) : (s.withFreeCount v).dmaLost = s.dmaLost := rfl
@[simp] theorem State.withFreeCount_ringLost (s : State) (v : Nat) : (s.withFreeCount v).ringLost = s.ringLost := rfl
@[simp] theorem State.withFreeCount_bells (s : State) (v : Nat) : (s.withFreeCount v).bells = s.bells := rfl
@[simp] theorem State.withFreeCount_loader (s : State) (v : Nat) : (s.withFreeCount v).loader = s.loader := rfl
@[simp] theorem State.withFreeCount_alm (s : State) (v : Nat) : (s.withFreeCount v).alm = s.alm := rfl
@[simp] theorem State.withFreeCount_cue (s : State) (v : Nat) : (s.withFreeCount v).cue = s.cue := rfl
@[simp] theorem State.withFreeCount_mer (s : State) (v : Nat) : (s.withFreeCount v).mer = s.mer := rfl
@[simp] theorem State.withFreeCount_looms (s : State) (v : Nat) : (s.withFreeCount v).looms = s.looms := rfl
@[simp] theorem State.withFreeCount_sieves (s : State) (v : Nat) : (s.withFreeCount v).sieves = s.sieves := rfl
@[simp] theorem State.withFreeCount_gates (s : State) (v : Nat) : (s.withFreeCount v).gates = s.gates := rfl
@[simp] theorem State.withFreeCount_pairs (s : State) (v : Nat) : (s.withFreeCount v).pairs = s.pairs := rfl
@[simp] theorem State.withFreeCount_sram (s : State) (v : Nat) : (s.withFreeCount v).sram = s.sram := rfl
@[simp] theorem State.withFreeCount_reeves (s : State) (v : Nat) : (s.withFreeCount v).reeves = s.reeves := rfl
@[simp] theorem State.withFreeCount_kats (s : State) (v : Nat) : (s.withFreeCount v).kats = s.kats := rfl
@[simp] theorem State.withFreeCount_flight (s : State) (v : Nat) : (s.withFreeCount v).flight = s.flight := rfl
@[simp] theorem State.withFreeCount_ferry (s : State) (v : Nat) : (s.withFreeCount v).ferry = s.ferry := rfl
@[simp] theorem State.withFreeCount_power (s : State) (v : Nat) : (s.withFreeCount v).power = s.power := rfl
@[simp] theorem State.withFreeCount_faults (s : State) (v : Nat) : (s.withFreeCount v).faults = s.faults := rfl
@[simp] theorem State.withFreeCount_restarts (s : State) (v : Nat) : (s.withFreeCount v).restarts = s.restarts := rfl
@[simp] theorem State.withFreeCount_ledger (s : State) (v : Nat) : (s.withFreeCount v).ledger = s.ledger := rfl
@[simp] theorem State.withFreeCount_wm (s : State) (v : Nat) : (s.withFreeCount v).wm = s.wm := rfl
@[simp] theorem State.withFreeCount_out (s : State) (v : Nat) : (s.withFreeCount v).out = s.out := rfl
@[simp] theorem State.withFuses_pending (s : State) (v : Fuses) : (s.withFuses v).pending = s.pending := rfl
@[simp] theorem State.withFuses_now (s : State) (v : Fuses) : (s.withFuses v).now = s.now := rfl
@[simp] theorem State.withFuses_freeCount (s : State) (v : Fuses) : (s.withFuses v).freeCount = s.freeCount := rfl
@[simp] theorem State.withFuses_fuses (s : State) (v : Fuses) : (s.withFuses v).fuses = v := rfl
@[simp] theorem State.withFuses_board (s : State) (v : Fuses) : (s.withFuses v).board = s.board := rfl
@[simp] theorem State.withFuses_regs (s : State) (v : Fuses) : (s.withFuses v).regs = s.regs := rfl
@[simp] theorem State.withFuses_guards (s : State) (v : Fuses) : (s.withFuses v).guards = s.guards := rfl
@[simp] theorem State.withFuses_latch (s : State) (v : Fuses) : (s.withFuses v).latch = s.latch := rfl
@[simp] theorem State.withFuses_snaps (s : State) (v : Fuses) : (s.withFuses v).snaps = s.snaps := rfl
@[simp] theorem State.withFuses_mem (s : State) (v : Fuses) : (s.withFuses v).mem = s.mem := rfl
@[simp] theorem State.withFuses_margined (s : State) (v : Fuses) : (s.withFuses v).margined = s.margined := rfl
@[simp] theorem State.withFuses_hbmStacks (s : State) (v : Fuses) : (s.withFuses v).hbmStacks = s.hbmStacks := rfl
@[simp] theorem State.withFuses_fields (s : State) (v : Fuses) : (s.withFuses v).fields = s.fields := rfl
@[simp] theorem State.withFuses_fieldReqs (s : State) (v : Fuses) : (s.withFuses v).fieldReqs = s.fieldReqs := rfl
@[simp] theorem State.withFuses_dma (s : State) (v : Fuses) : (s.withFuses v).dma = s.dma := rfl
@[simp] theorem State.withFuses_dmaLost (s : State) (v : Fuses) : (s.withFuses v).dmaLost = s.dmaLost := rfl
@[simp] theorem State.withFuses_ringLost (s : State) (v : Fuses) : (s.withFuses v).ringLost = s.ringLost := rfl
@[simp] theorem State.withFuses_bells (s : State) (v : Fuses) : (s.withFuses v).bells = s.bells := rfl
@[simp] theorem State.withFuses_loader (s : State) (v : Fuses) : (s.withFuses v).loader = s.loader := rfl
@[simp] theorem State.withFuses_alm (s : State) (v : Fuses) : (s.withFuses v).alm = s.alm := rfl
@[simp] theorem State.withFuses_cue (s : State) (v : Fuses) : (s.withFuses v).cue = s.cue := rfl
@[simp] theorem State.withFuses_mer (s : State) (v : Fuses) : (s.withFuses v).mer = s.mer := rfl
@[simp] theorem State.withFuses_looms (s : State) (v : Fuses) : (s.withFuses v).looms = s.looms := rfl
@[simp] theorem State.withFuses_sieves (s : State) (v : Fuses) : (s.withFuses v).sieves = s.sieves := rfl
@[simp] theorem State.withFuses_gates (s : State) (v : Fuses) : (s.withFuses v).gates = s.gates := rfl
@[simp] theorem State.withFuses_pairs (s : State) (v : Fuses) : (s.withFuses v).pairs = s.pairs := rfl
@[simp] theorem State.withFuses_sram (s : State) (v : Fuses) : (s.withFuses v).sram = s.sram := rfl
@[simp] theorem State.withFuses_reeves (s : State) (v : Fuses) : (s.withFuses v).reeves = s.reeves := rfl
@[simp] theorem State.withFuses_kats (s : State) (v : Fuses) : (s.withFuses v).kats = s.kats := rfl
@[simp] theorem State.withFuses_flight (s : State) (v : Fuses) : (s.withFuses v).flight = s.flight := rfl
@[simp] theorem State.withFuses_ferry (s : State) (v : Fuses) : (s.withFuses v).ferry = s.ferry := rfl
@[simp] theorem State.withFuses_power (s : State) (v : Fuses) : (s.withFuses v).power = s.power := rfl
@[simp] theorem State.withFuses_faults (s : State) (v : Fuses) : (s.withFuses v).faults = s.faults := rfl
@[simp] theorem State.withFuses_restarts (s : State) (v : Fuses) : (s.withFuses v).restarts = s.restarts := rfl
@[simp] theorem State.withFuses_ledger (s : State) (v : Fuses) : (s.withFuses v).ledger = s.ledger := rfl
@[simp] theorem State.withFuses_wm (s : State) (v : Fuses) : (s.withFuses v).wm = s.wm := rfl
@[simp] theorem State.withFuses_out (s : State) (v : Fuses) : (s.withFuses v).out = s.out := rfl
@[simp] theorem State.withBoard_pending (s : State) (v : Board) : (s.withBoard v).pending = s.pending := rfl
@[simp] theorem State.withBoard_now (s : State) (v : Board) : (s.withBoard v).now = s.now := rfl
@[simp] theorem State.withBoard_freeCount (s : State) (v : Board) : (s.withBoard v).freeCount = s.freeCount := rfl
@[simp] theorem State.withBoard_fuses (s : State) (v : Board) : (s.withBoard v).fuses = s.fuses := rfl
@[simp] theorem State.withBoard_board (s : State) (v : Board) : (s.withBoard v).board = v := rfl
@[simp] theorem State.withBoard_regs (s : State) (v : Board) : (s.withBoard v).regs = s.regs := rfl
@[simp] theorem State.withBoard_guards (s : State) (v : Board) : (s.withBoard v).guards = s.guards := rfl
@[simp] theorem State.withBoard_latch (s : State) (v : Board) : (s.withBoard v).latch = s.latch := rfl
@[simp] theorem State.withBoard_snaps (s : State) (v : Board) : (s.withBoard v).snaps = s.snaps := rfl
@[simp] theorem State.withBoard_mem (s : State) (v : Board) : (s.withBoard v).mem = s.mem := rfl
@[simp] theorem State.withBoard_margined (s : State) (v : Board) : (s.withBoard v).margined = s.margined := rfl
@[simp] theorem State.withBoard_hbmStacks (s : State) (v : Board) : (s.withBoard v).hbmStacks = s.hbmStacks := rfl
@[simp] theorem State.withBoard_fields (s : State) (v : Board) : (s.withBoard v).fields = s.fields := rfl
@[simp] theorem State.withBoard_fieldReqs (s : State) (v : Board) : (s.withBoard v).fieldReqs = s.fieldReqs := rfl
@[simp] theorem State.withBoard_dma (s : State) (v : Board) : (s.withBoard v).dma = s.dma := rfl
@[simp] theorem State.withBoard_dmaLost (s : State) (v : Board) : (s.withBoard v).dmaLost = s.dmaLost := rfl
@[simp] theorem State.withBoard_ringLost (s : State) (v : Board) : (s.withBoard v).ringLost = s.ringLost := rfl
@[simp] theorem State.withBoard_bells (s : State) (v : Board) : (s.withBoard v).bells = s.bells := rfl
@[simp] theorem State.withBoard_loader (s : State) (v : Board) : (s.withBoard v).loader = s.loader := rfl
@[simp] theorem State.withBoard_alm (s : State) (v : Board) : (s.withBoard v).alm = s.alm := rfl
@[simp] theorem State.withBoard_cue (s : State) (v : Board) : (s.withBoard v).cue = s.cue := rfl
@[simp] theorem State.withBoard_mer (s : State) (v : Board) : (s.withBoard v).mer = s.mer := rfl
@[simp] theorem State.withBoard_looms (s : State) (v : Board) : (s.withBoard v).looms = s.looms := rfl
@[simp] theorem State.withBoard_sieves (s : State) (v : Board) : (s.withBoard v).sieves = s.sieves := rfl
@[simp] theorem State.withBoard_gates (s : State) (v : Board) : (s.withBoard v).gates = s.gates := rfl
@[simp] theorem State.withBoard_pairs (s : State) (v : Board) : (s.withBoard v).pairs = s.pairs := rfl
@[simp] theorem State.withBoard_sram (s : State) (v : Board) : (s.withBoard v).sram = s.sram := rfl
@[simp] theorem State.withBoard_reeves (s : State) (v : Board) : (s.withBoard v).reeves = s.reeves := rfl
@[simp] theorem State.withBoard_kats (s : State) (v : Board) : (s.withBoard v).kats = s.kats := rfl
@[simp] theorem State.withBoard_flight (s : State) (v : Board) : (s.withBoard v).flight = s.flight := rfl
@[simp] theorem State.withBoard_ferry (s : State) (v : Board) : (s.withBoard v).ferry = s.ferry := rfl
@[simp] theorem State.withBoard_power (s : State) (v : Board) : (s.withBoard v).power = s.power := rfl
@[simp] theorem State.withBoard_faults (s : State) (v : Board) : (s.withBoard v).faults = s.faults := rfl
@[simp] theorem State.withBoard_restarts (s : State) (v : Board) : (s.withBoard v).restarts = s.restarts := rfl
@[simp] theorem State.withBoard_ledger (s : State) (v : Board) : (s.withBoard v).ledger = s.ledger := rfl
@[simp] theorem State.withBoard_wm (s : State) (v : Board) : (s.withBoard v).wm = s.wm := rfl
@[simp] theorem State.withBoard_out (s : State) (v : Board) : (s.withBoard v).out = s.out := rfl
@[simp] theorem State.withRegs_pending (s : State) (v : SMap Word) : (s.withRegs v).pending = s.pending := rfl
@[simp] theorem State.withRegs_now (s : State) (v : SMap Word) : (s.withRegs v).now = s.now := rfl
@[simp] theorem State.withRegs_freeCount (s : State) (v : SMap Word) : (s.withRegs v).freeCount = s.freeCount := rfl
@[simp] theorem State.withRegs_fuses (s : State) (v : SMap Word) : (s.withRegs v).fuses = s.fuses := rfl
@[simp] theorem State.withRegs_board (s : State) (v : SMap Word) : (s.withRegs v).board = s.board := rfl
@[simp] theorem State.withRegs_regs (s : State) (v : SMap Word) : (s.withRegs v).regs = v := rfl
@[simp] theorem State.withRegs_guards (s : State) (v : SMap Word) : (s.withRegs v).guards = s.guards := rfl
@[simp] theorem State.withRegs_latch (s : State) (v : SMap Word) : (s.withRegs v).latch = s.latch := rfl
@[simp] theorem State.withRegs_snaps (s : State) (v : SMap Word) : (s.withRegs v).snaps = s.snaps := rfl
@[simp] theorem State.withRegs_mem (s : State) (v : SMap Word) : (s.withRegs v).mem = s.mem := rfl
@[simp] theorem State.withRegs_margined (s : State) (v : SMap Word) : (s.withRegs v).margined = s.margined := rfl
@[simp] theorem State.withRegs_hbmStacks (s : State) (v : SMap Word) : (s.withRegs v).hbmStacks = s.hbmStacks := rfl
@[simp] theorem State.withRegs_fields (s : State) (v : SMap Word) : (s.withRegs v).fields = s.fields := rfl
@[simp] theorem State.withRegs_fieldReqs (s : State) (v : SMap Word) : (s.withRegs v).fieldReqs = s.fieldReqs := rfl
@[simp] theorem State.withRegs_dma (s : State) (v : SMap Word) : (s.withRegs v).dma = s.dma := rfl
@[simp] theorem State.withRegs_dmaLost (s : State) (v : SMap Word) : (s.withRegs v).dmaLost = s.dmaLost := rfl
@[simp] theorem State.withRegs_ringLost (s : State) (v : SMap Word) : (s.withRegs v).ringLost = s.ringLost := rfl
@[simp] theorem State.withRegs_bells (s : State) (v : SMap Word) : (s.withRegs v).bells = s.bells := rfl
@[simp] theorem State.withRegs_loader (s : State) (v : SMap Word) : (s.withRegs v).loader = s.loader := rfl
@[simp] theorem State.withRegs_alm (s : State) (v : SMap Word) : (s.withRegs v).alm = s.alm := rfl
@[simp] theorem State.withRegs_cue (s : State) (v : SMap Word) : (s.withRegs v).cue = s.cue := rfl
@[simp] theorem State.withRegs_mer (s : State) (v : SMap Word) : (s.withRegs v).mer = s.mer := rfl
@[simp] theorem State.withRegs_looms (s : State) (v : SMap Word) : (s.withRegs v).looms = s.looms := rfl
@[simp] theorem State.withRegs_sieves (s : State) (v : SMap Word) : (s.withRegs v).sieves = s.sieves := rfl
@[simp] theorem State.withRegs_gates (s : State) (v : SMap Word) : (s.withRegs v).gates = s.gates := rfl
@[simp] theorem State.withRegs_pairs (s : State) (v : SMap Word) : (s.withRegs v).pairs = s.pairs := rfl
@[simp] theorem State.withRegs_sram (s : State) (v : SMap Word) : (s.withRegs v).sram = s.sram := rfl
@[simp] theorem State.withRegs_reeves (s : State) (v : SMap Word) : (s.withRegs v).reeves = s.reeves := rfl
@[simp] theorem State.withRegs_kats (s : State) (v : SMap Word) : (s.withRegs v).kats = s.kats := rfl
@[simp] theorem State.withRegs_flight (s : State) (v : SMap Word) : (s.withRegs v).flight = s.flight := rfl
@[simp] theorem State.withRegs_ferry (s : State) (v : SMap Word) : (s.withRegs v).ferry = s.ferry := rfl
@[simp] theorem State.withRegs_power (s : State) (v : SMap Word) : (s.withRegs v).power = s.power := rfl
@[simp] theorem State.withRegs_faults (s : State) (v : SMap Word) : (s.withRegs v).faults = s.faults := rfl
@[simp] theorem State.withRegs_restarts (s : State) (v : SMap Word) : (s.withRegs v).restarts = s.restarts := rfl
@[simp] theorem State.withRegs_ledger (s : State) (v : SMap Word) : (s.withRegs v).ledger = s.ledger := rfl
@[simp] theorem State.withRegs_wm (s : State) (v : SMap Word) : (s.withRegs v).wm = s.wm := rfl
@[simp] theorem State.withRegs_out (s : State) (v : SMap Word) : (s.withRegs v).out = s.out := rfl
@[simp] theorem State.withGuards_pending (s : State) (v : SMap (Option Guard)) : (s.withGuards v).pending = s.pending := rfl
@[simp] theorem State.withGuards_now (s : State) (v : SMap (Option Guard)) : (s.withGuards v).now = s.now := rfl
@[simp] theorem State.withGuards_freeCount (s : State) (v : SMap (Option Guard)) : (s.withGuards v).freeCount = s.freeCount := rfl
@[simp] theorem State.withGuards_fuses (s : State) (v : SMap (Option Guard)) : (s.withGuards v).fuses = s.fuses := rfl
@[simp] theorem State.withGuards_board (s : State) (v : SMap (Option Guard)) : (s.withGuards v).board = s.board := rfl
@[simp] theorem State.withGuards_regs (s : State) (v : SMap (Option Guard)) : (s.withGuards v).regs = s.regs := rfl
@[simp] theorem State.withGuards_guards (s : State) (v : SMap (Option Guard)) : (s.withGuards v).guards = v := rfl
@[simp] theorem State.withGuards_latch (s : State) (v : SMap (Option Guard)) : (s.withGuards v).latch = s.latch := rfl
@[simp] theorem State.withGuards_snaps (s : State) (v : SMap (Option Guard)) : (s.withGuards v).snaps = s.snaps := rfl
@[simp] theorem State.withGuards_mem (s : State) (v : SMap (Option Guard)) : (s.withGuards v).mem = s.mem := rfl
@[simp] theorem State.withGuards_margined (s : State) (v : SMap (Option Guard)) : (s.withGuards v).margined = s.margined := rfl
@[simp] theorem State.withGuards_hbmStacks (s : State) (v : SMap (Option Guard)) : (s.withGuards v).hbmStacks = s.hbmStacks := rfl
@[simp] theorem State.withGuards_fields (s : State) (v : SMap (Option Guard)) : (s.withGuards v).fields = s.fields := rfl
@[simp] theorem State.withGuards_fieldReqs (s : State) (v : SMap (Option Guard)) : (s.withGuards v).fieldReqs = s.fieldReqs := rfl
@[simp] theorem State.withGuards_dma (s : State) (v : SMap (Option Guard)) : (s.withGuards v).dma = s.dma := rfl
@[simp] theorem State.withGuards_dmaLost (s : State) (v : SMap (Option Guard)) : (s.withGuards v).dmaLost = s.dmaLost := rfl
@[simp] theorem State.withGuards_ringLost (s : State) (v : SMap (Option Guard)) : (s.withGuards v).ringLost = s.ringLost := rfl
@[simp] theorem State.withGuards_bells (s : State) (v : SMap (Option Guard)) : (s.withGuards v).bells = s.bells := rfl
@[simp] theorem State.withGuards_loader (s : State) (v : SMap (Option Guard)) : (s.withGuards v).loader = s.loader := rfl
@[simp] theorem State.withGuards_alm (s : State) (v : SMap (Option Guard)) : (s.withGuards v).alm = s.alm := rfl
@[simp] theorem State.withGuards_cue (s : State) (v : SMap (Option Guard)) : (s.withGuards v).cue = s.cue := rfl
@[simp] theorem State.withGuards_mer (s : State) (v : SMap (Option Guard)) : (s.withGuards v).mer = s.mer := rfl
@[simp] theorem State.withGuards_looms (s : State) (v : SMap (Option Guard)) : (s.withGuards v).looms = s.looms := rfl
@[simp] theorem State.withGuards_sieves (s : State) (v : SMap (Option Guard)) : (s.withGuards v).sieves = s.sieves := rfl
@[simp] theorem State.withGuards_gates (s : State) (v : SMap (Option Guard)) : (s.withGuards v).gates = s.gates := rfl
@[simp] theorem State.withGuards_pairs (s : State) (v : SMap (Option Guard)) : (s.withGuards v).pairs = s.pairs := rfl
@[simp] theorem State.withGuards_sram (s : State) (v : SMap (Option Guard)) : (s.withGuards v).sram = s.sram := rfl
@[simp] theorem State.withGuards_reeves (s : State) (v : SMap (Option Guard)) : (s.withGuards v).reeves = s.reeves := rfl
@[simp] theorem State.withGuards_kats (s : State) (v : SMap (Option Guard)) : (s.withGuards v).kats = s.kats := rfl
@[simp] theorem State.withGuards_flight (s : State) (v : SMap (Option Guard)) : (s.withGuards v).flight = s.flight := rfl
@[simp] theorem State.withGuards_ferry (s : State) (v : SMap (Option Guard)) : (s.withGuards v).ferry = s.ferry := rfl
@[simp] theorem State.withGuards_power (s : State) (v : SMap (Option Guard)) : (s.withGuards v).power = s.power := rfl
@[simp] theorem State.withGuards_faults (s : State) (v : SMap (Option Guard)) : (s.withGuards v).faults = s.faults := rfl
@[simp] theorem State.withGuards_restarts (s : State) (v : SMap (Option Guard)) : (s.withGuards v).restarts = s.restarts := rfl
@[simp] theorem State.withGuards_ledger (s : State) (v : SMap (Option Guard)) : (s.withGuards v).ledger = s.ledger := rfl
@[simp] theorem State.withGuards_wm (s : State) (v : SMap (Option Guard)) : (s.withGuards v).wm = s.wm := rfl
@[simp] theorem State.withGuards_out (s : State) (v : SMap (Option Guard)) : (s.withGuards v).out = s.out := rfl
@[simp] theorem State.withLatch_pending (s : State) (v : SMap (Option Word)) : (s.withLatch v).pending = s.pending := rfl
@[simp] theorem State.withLatch_now (s : State) (v : SMap (Option Word)) : (s.withLatch v).now = s.now := rfl
@[simp] theorem State.withLatch_freeCount (s : State) (v : SMap (Option Word)) : (s.withLatch v).freeCount = s.freeCount := rfl
@[simp] theorem State.withLatch_fuses (s : State) (v : SMap (Option Word)) : (s.withLatch v).fuses = s.fuses := rfl
@[simp] theorem State.withLatch_board (s : State) (v : SMap (Option Word)) : (s.withLatch v).board = s.board := rfl
@[simp] theorem State.withLatch_regs (s : State) (v : SMap (Option Word)) : (s.withLatch v).regs = s.regs := rfl
@[simp] theorem State.withLatch_guards (s : State) (v : SMap (Option Word)) : (s.withLatch v).guards = s.guards := rfl
@[simp] theorem State.withLatch_latch (s : State) (v : SMap (Option Word)) : (s.withLatch v).latch = v := rfl
@[simp] theorem State.withLatch_snaps (s : State) (v : SMap (Option Word)) : (s.withLatch v).snaps = s.snaps := rfl
@[simp] theorem State.withLatch_mem (s : State) (v : SMap (Option Word)) : (s.withLatch v).mem = s.mem := rfl
@[simp] theorem State.withLatch_margined (s : State) (v : SMap (Option Word)) : (s.withLatch v).margined = s.margined := rfl
@[simp] theorem State.withLatch_hbmStacks (s : State) (v : SMap (Option Word)) : (s.withLatch v).hbmStacks = s.hbmStacks := rfl
@[simp] theorem State.withLatch_fields (s : State) (v : SMap (Option Word)) : (s.withLatch v).fields = s.fields := rfl
@[simp] theorem State.withLatch_fieldReqs (s : State) (v : SMap (Option Word)) : (s.withLatch v).fieldReqs = s.fieldReqs := rfl
@[simp] theorem State.withLatch_dma (s : State) (v : SMap (Option Word)) : (s.withLatch v).dma = s.dma := rfl
@[simp] theorem State.withLatch_dmaLost (s : State) (v : SMap (Option Word)) : (s.withLatch v).dmaLost = s.dmaLost := rfl
@[simp] theorem State.withLatch_ringLost (s : State) (v : SMap (Option Word)) : (s.withLatch v).ringLost = s.ringLost := rfl
@[simp] theorem State.withLatch_bells (s : State) (v : SMap (Option Word)) : (s.withLatch v).bells = s.bells := rfl
@[simp] theorem State.withLatch_loader (s : State) (v : SMap (Option Word)) : (s.withLatch v).loader = s.loader := rfl
@[simp] theorem State.withLatch_alm (s : State) (v : SMap (Option Word)) : (s.withLatch v).alm = s.alm := rfl
@[simp] theorem State.withLatch_cue (s : State) (v : SMap (Option Word)) : (s.withLatch v).cue = s.cue := rfl
@[simp] theorem State.withLatch_mer (s : State) (v : SMap (Option Word)) : (s.withLatch v).mer = s.mer := rfl
@[simp] theorem State.withLatch_looms (s : State) (v : SMap (Option Word)) : (s.withLatch v).looms = s.looms := rfl
@[simp] theorem State.withLatch_sieves (s : State) (v : SMap (Option Word)) : (s.withLatch v).sieves = s.sieves := rfl
@[simp] theorem State.withLatch_gates (s : State) (v : SMap (Option Word)) : (s.withLatch v).gates = s.gates := rfl
@[simp] theorem State.withLatch_pairs (s : State) (v : SMap (Option Word)) : (s.withLatch v).pairs = s.pairs := rfl
@[simp] theorem State.withLatch_sram (s : State) (v : SMap (Option Word)) : (s.withLatch v).sram = s.sram := rfl
@[simp] theorem State.withLatch_reeves (s : State) (v : SMap (Option Word)) : (s.withLatch v).reeves = s.reeves := rfl
@[simp] theorem State.withLatch_kats (s : State) (v : SMap (Option Word)) : (s.withLatch v).kats = s.kats := rfl
@[simp] theorem State.withLatch_flight (s : State) (v : SMap (Option Word)) : (s.withLatch v).flight = s.flight := rfl
@[simp] theorem State.withLatch_ferry (s : State) (v : SMap (Option Word)) : (s.withLatch v).ferry = s.ferry := rfl
@[simp] theorem State.withLatch_power (s : State) (v : SMap (Option Word)) : (s.withLatch v).power = s.power := rfl
@[simp] theorem State.withLatch_faults (s : State) (v : SMap (Option Word)) : (s.withLatch v).faults = s.faults := rfl
@[simp] theorem State.withLatch_restarts (s : State) (v : SMap (Option Word)) : (s.withLatch v).restarts = s.restarts := rfl
@[simp] theorem State.withLatch_ledger (s : State) (v : SMap (Option Word)) : (s.withLatch v).ledger = s.ledger := rfl
@[simp] theorem State.withLatch_wm (s : State) (v : SMap (Option Word)) : (s.withLatch v).wm = s.wm := rfl
@[simp] theorem State.withLatch_out (s : State) (v : SMap (Option Word)) : (s.withLatch v).out = s.out := rfl
@[simp] theorem State.withSnaps_pending (s : State) (v : SMap Word) : (s.withSnaps v).pending = s.pending := rfl
@[simp] theorem State.withSnaps_now (s : State) (v : SMap Word) : (s.withSnaps v).now = s.now := rfl
@[simp] theorem State.withSnaps_freeCount (s : State) (v : SMap Word) : (s.withSnaps v).freeCount = s.freeCount := rfl
@[simp] theorem State.withSnaps_fuses (s : State) (v : SMap Word) : (s.withSnaps v).fuses = s.fuses := rfl
@[simp] theorem State.withSnaps_board (s : State) (v : SMap Word) : (s.withSnaps v).board = s.board := rfl
@[simp] theorem State.withSnaps_regs (s : State) (v : SMap Word) : (s.withSnaps v).regs = s.regs := rfl
@[simp] theorem State.withSnaps_guards (s : State) (v : SMap Word) : (s.withSnaps v).guards = s.guards := rfl
@[simp] theorem State.withSnaps_latch (s : State) (v : SMap Word) : (s.withSnaps v).latch = s.latch := rfl
@[simp] theorem State.withSnaps_snaps (s : State) (v : SMap Word) : (s.withSnaps v).snaps = v := rfl
@[simp] theorem State.withSnaps_mem (s : State) (v : SMap Word) : (s.withSnaps v).mem = s.mem := rfl
@[simp] theorem State.withSnaps_margined (s : State) (v : SMap Word) : (s.withSnaps v).margined = s.margined := rfl
@[simp] theorem State.withSnaps_hbmStacks (s : State) (v : SMap Word) : (s.withSnaps v).hbmStacks = s.hbmStacks := rfl
@[simp] theorem State.withSnaps_fields (s : State) (v : SMap Word) : (s.withSnaps v).fields = s.fields := rfl
@[simp] theorem State.withSnaps_fieldReqs (s : State) (v : SMap Word) : (s.withSnaps v).fieldReqs = s.fieldReqs := rfl
@[simp] theorem State.withSnaps_dma (s : State) (v : SMap Word) : (s.withSnaps v).dma = s.dma := rfl
@[simp] theorem State.withSnaps_dmaLost (s : State) (v : SMap Word) : (s.withSnaps v).dmaLost = s.dmaLost := rfl
@[simp] theorem State.withSnaps_ringLost (s : State) (v : SMap Word) : (s.withSnaps v).ringLost = s.ringLost := rfl
@[simp] theorem State.withSnaps_bells (s : State) (v : SMap Word) : (s.withSnaps v).bells = s.bells := rfl
@[simp] theorem State.withSnaps_loader (s : State) (v : SMap Word) : (s.withSnaps v).loader = s.loader := rfl
@[simp] theorem State.withSnaps_alm (s : State) (v : SMap Word) : (s.withSnaps v).alm = s.alm := rfl
@[simp] theorem State.withSnaps_cue (s : State) (v : SMap Word) : (s.withSnaps v).cue = s.cue := rfl
@[simp] theorem State.withSnaps_mer (s : State) (v : SMap Word) : (s.withSnaps v).mer = s.mer := rfl
@[simp] theorem State.withSnaps_looms (s : State) (v : SMap Word) : (s.withSnaps v).looms = s.looms := rfl
@[simp] theorem State.withSnaps_sieves (s : State) (v : SMap Word) : (s.withSnaps v).sieves = s.sieves := rfl
@[simp] theorem State.withSnaps_gates (s : State) (v : SMap Word) : (s.withSnaps v).gates = s.gates := rfl
@[simp] theorem State.withSnaps_pairs (s : State) (v : SMap Word) : (s.withSnaps v).pairs = s.pairs := rfl
@[simp] theorem State.withSnaps_sram (s : State) (v : SMap Word) : (s.withSnaps v).sram = s.sram := rfl
@[simp] theorem State.withSnaps_reeves (s : State) (v : SMap Word) : (s.withSnaps v).reeves = s.reeves := rfl
@[simp] theorem State.withSnaps_kats (s : State) (v : SMap Word) : (s.withSnaps v).kats = s.kats := rfl
@[simp] theorem State.withSnaps_flight (s : State) (v : SMap Word) : (s.withSnaps v).flight = s.flight := rfl
@[simp] theorem State.withSnaps_ferry (s : State) (v : SMap Word) : (s.withSnaps v).ferry = s.ferry := rfl
@[simp] theorem State.withSnaps_power (s : State) (v : SMap Word) : (s.withSnaps v).power = s.power := rfl
@[simp] theorem State.withSnaps_faults (s : State) (v : SMap Word) : (s.withSnaps v).faults = s.faults := rfl
@[simp] theorem State.withSnaps_restarts (s : State) (v : SMap Word) : (s.withSnaps v).restarts = s.restarts := rfl
@[simp] theorem State.withSnaps_ledger (s : State) (v : SMap Word) : (s.withSnaps v).ledger = s.ledger := rfl
@[simp] theorem State.withSnaps_wm (s : State) (v : SMap Word) : (s.withSnaps v).wm = s.wm := rfl
@[simp] theorem State.withSnaps_out (s : State) (v : SMap Word) : (s.withSnaps v).out = s.out := rfl
@[simp] theorem State.withMem_pending (s : State) (v : List Host.Cell) : (s.withMem v).pending = s.pending := rfl
@[simp] theorem State.withMem_now (s : State) (v : List Host.Cell) : (s.withMem v).now = s.now := rfl
@[simp] theorem State.withMem_freeCount (s : State) (v : List Host.Cell) : (s.withMem v).freeCount = s.freeCount := rfl
@[simp] theorem State.withMem_fuses (s : State) (v : List Host.Cell) : (s.withMem v).fuses = s.fuses := rfl
@[simp] theorem State.withMem_board (s : State) (v : List Host.Cell) : (s.withMem v).board = s.board := rfl
@[simp] theorem State.withMem_regs (s : State) (v : List Host.Cell) : (s.withMem v).regs = s.regs := rfl
@[simp] theorem State.withMem_guards (s : State) (v : List Host.Cell) : (s.withMem v).guards = s.guards := rfl
@[simp] theorem State.withMem_latch (s : State) (v : List Host.Cell) : (s.withMem v).latch = s.latch := rfl
@[simp] theorem State.withMem_snaps (s : State) (v : List Host.Cell) : (s.withMem v).snaps = s.snaps := rfl
@[simp] theorem State.withMem_mem (s : State) (v : List Host.Cell) : (s.withMem v).mem = v := rfl
@[simp] theorem State.withMem_margined (s : State) (v : List Host.Cell) : (s.withMem v).margined = s.margined := rfl
@[simp] theorem State.withMem_hbmStacks (s : State) (v : List Host.Cell) : (s.withMem v).hbmStacks = s.hbmStacks := rfl
@[simp] theorem State.withMem_fields (s : State) (v : List Host.Cell) : (s.withMem v).fields = s.fields := rfl
@[simp] theorem State.withMem_fieldReqs (s : State) (v : List Host.Cell) : (s.withMem v).fieldReqs = s.fieldReqs := rfl
@[simp] theorem State.withMem_dma (s : State) (v : List Host.Cell) : (s.withMem v).dma = s.dma := rfl
@[simp] theorem State.withMem_dmaLost (s : State) (v : List Host.Cell) : (s.withMem v).dmaLost = s.dmaLost := rfl
@[simp] theorem State.withMem_ringLost (s : State) (v : List Host.Cell) : (s.withMem v).ringLost = s.ringLost := rfl
@[simp] theorem State.withMem_bells (s : State) (v : List Host.Cell) : (s.withMem v).bells = s.bells := rfl
@[simp] theorem State.withMem_loader (s : State) (v : List Host.Cell) : (s.withMem v).loader = s.loader := rfl
@[simp] theorem State.withMem_alm (s : State) (v : List Host.Cell) : (s.withMem v).alm = s.alm := rfl
@[simp] theorem State.withMem_cue (s : State) (v : List Host.Cell) : (s.withMem v).cue = s.cue := rfl
@[simp] theorem State.withMem_mer (s : State) (v : List Host.Cell) : (s.withMem v).mer = s.mer := rfl
@[simp] theorem State.withMem_looms (s : State) (v : List Host.Cell) : (s.withMem v).looms = s.looms := rfl
@[simp] theorem State.withMem_sieves (s : State) (v : List Host.Cell) : (s.withMem v).sieves = s.sieves := rfl
@[simp] theorem State.withMem_gates (s : State) (v : List Host.Cell) : (s.withMem v).gates = s.gates := rfl
@[simp] theorem State.withMem_pairs (s : State) (v : List Host.Cell) : (s.withMem v).pairs = s.pairs := rfl
@[simp] theorem State.withMem_sram (s : State) (v : List Host.Cell) : (s.withMem v).sram = s.sram := rfl
@[simp] theorem State.withMem_reeves (s : State) (v : List Host.Cell) : (s.withMem v).reeves = s.reeves := rfl
@[simp] theorem State.withMem_kats (s : State) (v : List Host.Cell) : (s.withMem v).kats = s.kats := rfl
@[simp] theorem State.withMem_flight (s : State) (v : List Host.Cell) : (s.withMem v).flight = s.flight := rfl
@[simp] theorem State.withMem_ferry (s : State) (v : List Host.Cell) : (s.withMem v).ferry = s.ferry := rfl
@[simp] theorem State.withMem_power (s : State) (v : List Host.Cell) : (s.withMem v).power = s.power := rfl
@[simp] theorem State.withMem_faults (s : State) (v : List Host.Cell) : (s.withMem v).faults = s.faults := rfl
@[simp] theorem State.withMem_restarts (s : State) (v : List Host.Cell) : (s.withMem v).restarts = s.restarts := rfl
@[simp] theorem State.withMem_ledger (s : State) (v : List Host.Cell) : (s.withMem v).ledger = s.ledger := rfl
@[simp] theorem State.withMem_wm (s : State) (v : List Host.Cell) : (s.withMem v).wm = s.wm := rfl
@[simp] theorem State.withMem_out (s : State) (v : List Host.Cell) : (s.withMem v).out = s.out := rfl
@[simp] theorem State.withMargined_pending (s : State) (v : List (Nat × Nat × Nat)) : (s.withMargined v).pending = s.pending := rfl
@[simp] theorem State.withMargined_now (s : State) (v : List (Nat × Nat × Nat)) : (s.withMargined v).now = s.now := rfl
@[simp] theorem State.withMargined_freeCount (s : State) (v : List (Nat × Nat × Nat)) : (s.withMargined v).freeCount = s.freeCount := rfl
@[simp] theorem State.withMargined_fuses (s : State) (v : List (Nat × Nat × Nat)) : (s.withMargined v).fuses = s.fuses := rfl
@[simp] theorem State.withMargined_board (s : State) (v : List (Nat × Nat × Nat)) : (s.withMargined v).board = s.board := rfl
@[simp] theorem State.withMargined_regs (s : State) (v : List (Nat × Nat × Nat)) : (s.withMargined v).regs = s.regs := rfl
@[simp] theorem State.withMargined_guards (s : State) (v : List (Nat × Nat × Nat)) : (s.withMargined v).guards = s.guards := rfl
@[simp] theorem State.withMargined_latch (s : State) (v : List (Nat × Nat × Nat)) : (s.withMargined v).latch = s.latch := rfl
@[simp] theorem State.withMargined_snaps (s : State) (v : List (Nat × Nat × Nat)) : (s.withMargined v).snaps = s.snaps := rfl
@[simp] theorem State.withMargined_mem (s : State) (v : List (Nat × Nat × Nat)) : (s.withMargined v).mem = s.mem := rfl
@[simp] theorem State.withMargined_margined (s : State) (v : List (Nat × Nat × Nat)) : (s.withMargined v).margined = v := rfl
@[simp] theorem State.withMargined_hbmStacks (s : State) (v : List (Nat × Nat × Nat)) : (s.withMargined v).hbmStacks = s.hbmStacks := rfl
@[simp] theorem State.withMargined_fields (s : State) (v : List (Nat × Nat × Nat)) : (s.withMargined v).fields = s.fields := rfl
@[simp] theorem State.withMargined_fieldReqs (s : State) (v : List (Nat × Nat × Nat)) : (s.withMargined v).fieldReqs = s.fieldReqs := rfl
@[simp] theorem State.withMargined_dma (s : State) (v : List (Nat × Nat × Nat)) : (s.withMargined v).dma = s.dma := rfl
@[simp] theorem State.withMargined_dmaLost (s : State) (v : List (Nat × Nat × Nat)) : (s.withMargined v).dmaLost = s.dmaLost := rfl
@[simp] theorem State.withMargined_ringLost (s : State) (v : List (Nat × Nat × Nat)) : (s.withMargined v).ringLost = s.ringLost := rfl
@[simp] theorem State.withMargined_bells (s : State) (v : List (Nat × Nat × Nat)) : (s.withMargined v).bells = s.bells := rfl
@[simp] theorem State.withMargined_loader (s : State) (v : List (Nat × Nat × Nat)) : (s.withMargined v).loader = s.loader := rfl
@[simp] theorem State.withMargined_alm (s : State) (v : List (Nat × Nat × Nat)) : (s.withMargined v).alm = s.alm := rfl
@[simp] theorem State.withMargined_cue (s : State) (v : List (Nat × Nat × Nat)) : (s.withMargined v).cue = s.cue := rfl
@[simp] theorem State.withMargined_mer (s : State) (v : List (Nat × Nat × Nat)) : (s.withMargined v).mer = s.mer := rfl
@[simp] theorem State.withMargined_looms (s : State) (v : List (Nat × Nat × Nat)) : (s.withMargined v).looms = s.looms := rfl
@[simp] theorem State.withMargined_sieves (s : State) (v : List (Nat × Nat × Nat)) : (s.withMargined v).sieves = s.sieves := rfl
@[simp] theorem State.withMargined_gates (s : State) (v : List (Nat × Nat × Nat)) : (s.withMargined v).gates = s.gates := rfl
@[simp] theorem State.withMargined_pairs (s : State) (v : List (Nat × Nat × Nat)) : (s.withMargined v).pairs = s.pairs := rfl
@[simp] theorem State.withMargined_sram (s : State) (v : List (Nat × Nat × Nat)) : (s.withMargined v).sram = s.sram := rfl
@[simp] theorem State.withMargined_reeves (s : State) (v : List (Nat × Nat × Nat)) : (s.withMargined v).reeves = s.reeves := rfl
@[simp] theorem State.withMargined_kats (s : State) (v : List (Nat × Nat × Nat)) : (s.withMargined v).kats = s.kats := rfl
@[simp] theorem State.withMargined_flight (s : State) (v : List (Nat × Nat × Nat)) : (s.withMargined v).flight = s.flight := rfl
@[simp] theorem State.withMargined_ferry (s : State) (v : List (Nat × Nat × Nat)) : (s.withMargined v).ferry = s.ferry := rfl
@[simp] theorem State.withMargined_power (s : State) (v : List (Nat × Nat × Nat)) : (s.withMargined v).power = s.power := rfl
@[simp] theorem State.withMargined_faults (s : State) (v : List (Nat × Nat × Nat)) : (s.withMargined v).faults = s.faults := rfl
@[simp] theorem State.withMargined_restarts (s : State) (v : List (Nat × Nat × Nat)) : (s.withMargined v).restarts = s.restarts := rfl
@[simp] theorem State.withMargined_ledger (s : State) (v : List (Nat × Nat × Nat)) : (s.withMargined v).ledger = s.ledger := rfl
@[simp] theorem State.withMargined_wm (s : State) (v : List (Nat × Nat × Nat)) : (s.withMargined v).wm = s.wm := rfl
@[simp] theorem State.withMargined_out (s : State) (v : List (Nat × Nat × Nat)) : (s.withMargined v).out = s.out := rfl
@[simp] theorem State.withHbmStacks_pending (s : State) (v : SMap StackMem) : (s.withHbmStacks v).pending = s.pending := rfl
@[simp] theorem State.withHbmStacks_now (s : State) (v : SMap StackMem) : (s.withHbmStacks v).now = s.now := rfl
@[simp] theorem State.withHbmStacks_freeCount (s : State) (v : SMap StackMem) : (s.withHbmStacks v).freeCount = s.freeCount := rfl
@[simp] theorem State.withHbmStacks_fuses (s : State) (v : SMap StackMem) : (s.withHbmStacks v).fuses = s.fuses := rfl
@[simp] theorem State.withHbmStacks_board (s : State) (v : SMap StackMem) : (s.withHbmStacks v).board = s.board := rfl
@[simp] theorem State.withHbmStacks_regs (s : State) (v : SMap StackMem) : (s.withHbmStacks v).regs = s.regs := rfl
@[simp] theorem State.withHbmStacks_guards (s : State) (v : SMap StackMem) : (s.withHbmStacks v).guards = s.guards := rfl
@[simp] theorem State.withHbmStacks_latch (s : State) (v : SMap StackMem) : (s.withHbmStacks v).latch = s.latch := rfl
@[simp] theorem State.withHbmStacks_snaps (s : State) (v : SMap StackMem) : (s.withHbmStacks v).snaps = s.snaps := rfl
@[simp] theorem State.withHbmStacks_mem (s : State) (v : SMap StackMem) : (s.withHbmStacks v).mem = s.mem := rfl
@[simp] theorem State.withHbmStacks_margined (s : State) (v : SMap StackMem) : (s.withHbmStacks v).margined = s.margined := rfl
@[simp] theorem State.withHbmStacks_hbmStacks (s : State) (v : SMap StackMem) : (s.withHbmStacks v).hbmStacks = v := rfl
@[simp] theorem State.withHbmStacks_fields (s : State) (v : SMap StackMem) : (s.withHbmStacks v).fields = s.fields := rfl
@[simp] theorem State.withHbmStacks_fieldReqs (s : State) (v : SMap StackMem) : (s.withHbmStacks v).fieldReqs = s.fieldReqs := rfl
@[simp] theorem State.withHbmStacks_dma (s : State) (v : SMap StackMem) : (s.withHbmStacks v).dma = s.dma := rfl
@[simp] theorem State.withHbmStacks_dmaLost (s : State) (v : SMap StackMem) : (s.withHbmStacks v).dmaLost = s.dmaLost := rfl
@[simp] theorem State.withHbmStacks_ringLost (s : State) (v : SMap StackMem) : (s.withHbmStacks v).ringLost = s.ringLost := rfl
@[simp] theorem State.withHbmStacks_bells (s : State) (v : SMap StackMem) : (s.withHbmStacks v).bells = s.bells := rfl
@[simp] theorem State.withHbmStacks_loader (s : State) (v : SMap StackMem) : (s.withHbmStacks v).loader = s.loader := rfl
@[simp] theorem State.withHbmStacks_alm (s : State) (v : SMap StackMem) : (s.withHbmStacks v).alm = s.alm := rfl
@[simp] theorem State.withHbmStacks_cue (s : State) (v : SMap StackMem) : (s.withHbmStacks v).cue = s.cue := rfl
@[simp] theorem State.withHbmStacks_mer (s : State) (v : SMap StackMem) : (s.withHbmStacks v).mer = s.mer := rfl
@[simp] theorem State.withHbmStacks_looms (s : State) (v : SMap StackMem) : (s.withHbmStacks v).looms = s.looms := rfl
@[simp] theorem State.withHbmStacks_sieves (s : State) (v : SMap StackMem) : (s.withHbmStacks v).sieves = s.sieves := rfl
@[simp] theorem State.withHbmStacks_gates (s : State) (v : SMap StackMem) : (s.withHbmStacks v).gates = s.gates := rfl
@[simp] theorem State.withHbmStacks_pairs (s : State) (v : SMap StackMem) : (s.withHbmStacks v).pairs = s.pairs := rfl
@[simp] theorem State.withHbmStacks_sram (s : State) (v : SMap StackMem) : (s.withHbmStacks v).sram = s.sram := rfl
@[simp] theorem State.withHbmStacks_reeves (s : State) (v : SMap StackMem) : (s.withHbmStacks v).reeves = s.reeves := rfl
@[simp] theorem State.withHbmStacks_kats (s : State) (v : SMap StackMem) : (s.withHbmStacks v).kats = s.kats := rfl
@[simp] theorem State.withHbmStacks_flight (s : State) (v : SMap StackMem) : (s.withHbmStacks v).flight = s.flight := rfl
@[simp] theorem State.withHbmStacks_ferry (s : State) (v : SMap StackMem) : (s.withHbmStacks v).ferry = s.ferry := rfl
@[simp] theorem State.withHbmStacks_power (s : State) (v : SMap StackMem) : (s.withHbmStacks v).power = s.power := rfl
@[simp] theorem State.withHbmStacks_faults (s : State) (v : SMap StackMem) : (s.withHbmStacks v).faults = s.faults := rfl
@[simp] theorem State.withHbmStacks_restarts (s : State) (v : SMap StackMem) : (s.withHbmStacks v).restarts = s.restarts := rfl
@[simp] theorem State.withHbmStacks_ledger (s : State) (v : SMap StackMem) : (s.withHbmStacks v).ledger = s.ledger := rfl
@[simp] theorem State.withHbmStacks_wm (s : State) (v : SMap StackMem) : (s.withHbmStacks v).wm = s.wm := rfl
@[simp] theorem State.withHbmStacks_out (s : State) (v : SMap StackMem) : (s.withHbmStacks v).out = s.out := rfl
@[simp] theorem State.withFields_pending (s : State) (v : SMap (Option FieldPage)) : (s.withFields v).pending = s.pending := rfl
@[simp] theorem State.withFields_now (s : State) (v : SMap (Option FieldPage)) : (s.withFields v).now = s.now := rfl
@[simp] theorem State.withFields_freeCount (s : State) (v : SMap (Option FieldPage)) : (s.withFields v).freeCount = s.freeCount := rfl
@[simp] theorem State.withFields_fuses (s : State) (v : SMap (Option FieldPage)) : (s.withFields v).fuses = s.fuses := rfl
@[simp] theorem State.withFields_board (s : State) (v : SMap (Option FieldPage)) : (s.withFields v).board = s.board := rfl
@[simp] theorem State.withFields_regs (s : State) (v : SMap (Option FieldPage)) : (s.withFields v).regs = s.regs := rfl
@[simp] theorem State.withFields_guards (s : State) (v : SMap (Option FieldPage)) : (s.withFields v).guards = s.guards := rfl
@[simp] theorem State.withFields_latch (s : State) (v : SMap (Option FieldPage)) : (s.withFields v).latch = s.latch := rfl
@[simp] theorem State.withFields_snaps (s : State) (v : SMap (Option FieldPage)) : (s.withFields v).snaps = s.snaps := rfl
@[simp] theorem State.withFields_mem (s : State) (v : SMap (Option FieldPage)) : (s.withFields v).mem = s.mem := rfl
@[simp] theorem State.withFields_margined (s : State) (v : SMap (Option FieldPage)) : (s.withFields v).margined = s.margined := rfl
@[simp] theorem State.withFields_hbmStacks (s : State) (v : SMap (Option FieldPage)) : (s.withFields v).hbmStacks = s.hbmStacks := rfl
@[simp] theorem State.withFields_fields (s : State) (v : SMap (Option FieldPage)) : (s.withFields v).fields = v := rfl
@[simp] theorem State.withFields_fieldReqs (s : State) (v : SMap (Option FieldPage)) : (s.withFields v).fieldReqs = s.fieldReqs := rfl
@[simp] theorem State.withFields_dma (s : State) (v : SMap (Option FieldPage)) : (s.withFields v).dma = s.dma := rfl
@[simp] theorem State.withFields_dmaLost (s : State) (v : SMap (Option FieldPage)) : (s.withFields v).dmaLost = s.dmaLost := rfl
@[simp] theorem State.withFields_ringLost (s : State) (v : SMap (Option FieldPage)) : (s.withFields v).ringLost = s.ringLost := rfl
@[simp] theorem State.withFields_bells (s : State) (v : SMap (Option FieldPage)) : (s.withFields v).bells = s.bells := rfl
@[simp] theorem State.withFields_loader (s : State) (v : SMap (Option FieldPage)) : (s.withFields v).loader = s.loader := rfl
@[simp] theorem State.withFields_alm (s : State) (v : SMap (Option FieldPage)) : (s.withFields v).alm = s.alm := rfl
@[simp] theorem State.withFields_cue (s : State) (v : SMap (Option FieldPage)) : (s.withFields v).cue = s.cue := rfl
@[simp] theorem State.withFields_mer (s : State) (v : SMap (Option FieldPage)) : (s.withFields v).mer = s.mer := rfl
@[simp] theorem State.withFields_looms (s : State) (v : SMap (Option FieldPage)) : (s.withFields v).looms = s.looms := rfl
@[simp] theorem State.withFields_sieves (s : State) (v : SMap (Option FieldPage)) : (s.withFields v).sieves = s.sieves := rfl
@[simp] theorem State.withFields_gates (s : State) (v : SMap (Option FieldPage)) : (s.withFields v).gates = s.gates := rfl
@[simp] theorem State.withFields_pairs (s : State) (v : SMap (Option FieldPage)) : (s.withFields v).pairs = s.pairs := rfl
@[simp] theorem State.withFields_sram (s : State) (v : SMap (Option FieldPage)) : (s.withFields v).sram = s.sram := rfl
@[simp] theorem State.withFields_reeves (s : State) (v : SMap (Option FieldPage)) : (s.withFields v).reeves = s.reeves := rfl
@[simp] theorem State.withFields_kats (s : State) (v : SMap (Option FieldPage)) : (s.withFields v).kats = s.kats := rfl
@[simp] theorem State.withFields_flight (s : State) (v : SMap (Option FieldPage)) : (s.withFields v).flight = s.flight := rfl
@[simp] theorem State.withFields_ferry (s : State) (v : SMap (Option FieldPage)) : (s.withFields v).ferry = s.ferry := rfl
@[simp] theorem State.withFields_power (s : State) (v : SMap (Option FieldPage)) : (s.withFields v).power = s.power := rfl
@[simp] theorem State.withFields_faults (s : State) (v : SMap (Option FieldPage)) : (s.withFields v).faults = s.faults := rfl
@[simp] theorem State.withFields_restarts (s : State) (v : SMap (Option FieldPage)) : (s.withFields v).restarts = s.restarts := rfl
@[simp] theorem State.withFields_ledger (s : State) (v : SMap (Option FieldPage)) : (s.withFields v).ledger = s.ledger := rfl
@[simp] theorem State.withFields_wm (s : State) (v : SMap (Option FieldPage)) : (s.withFields v).wm = s.wm := rfl
@[simp] theorem State.withFields_out (s : State) (v : SMap (Option FieldPage)) : (s.withFields v).out = s.out := rfl
@[simp] theorem State.withFieldReqs_pending (s : State) (v : SMap (Option FieldReq)) : (s.withFieldReqs v).pending = s.pending := rfl
@[simp] theorem State.withFieldReqs_now (s : State) (v : SMap (Option FieldReq)) : (s.withFieldReqs v).now = s.now := rfl
@[simp] theorem State.withFieldReqs_freeCount (s : State) (v : SMap (Option FieldReq)) : (s.withFieldReqs v).freeCount = s.freeCount := rfl
@[simp] theorem State.withFieldReqs_fuses (s : State) (v : SMap (Option FieldReq)) : (s.withFieldReqs v).fuses = s.fuses := rfl
@[simp] theorem State.withFieldReqs_board (s : State) (v : SMap (Option FieldReq)) : (s.withFieldReqs v).board = s.board := rfl
@[simp] theorem State.withFieldReqs_regs (s : State) (v : SMap (Option FieldReq)) : (s.withFieldReqs v).regs = s.regs := rfl
@[simp] theorem State.withFieldReqs_guards (s : State) (v : SMap (Option FieldReq)) : (s.withFieldReqs v).guards = s.guards := rfl
@[simp] theorem State.withFieldReqs_latch (s : State) (v : SMap (Option FieldReq)) : (s.withFieldReqs v).latch = s.latch := rfl
@[simp] theorem State.withFieldReqs_snaps (s : State) (v : SMap (Option FieldReq)) : (s.withFieldReqs v).snaps = s.snaps := rfl
@[simp] theorem State.withFieldReqs_mem (s : State) (v : SMap (Option FieldReq)) : (s.withFieldReqs v).mem = s.mem := rfl
@[simp] theorem State.withFieldReqs_margined (s : State) (v : SMap (Option FieldReq)) : (s.withFieldReqs v).margined = s.margined := rfl
@[simp] theorem State.withFieldReqs_hbmStacks (s : State) (v : SMap (Option FieldReq)) : (s.withFieldReqs v).hbmStacks = s.hbmStacks := rfl
@[simp] theorem State.withFieldReqs_fields (s : State) (v : SMap (Option FieldReq)) : (s.withFieldReqs v).fields = s.fields := rfl
@[simp] theorem State.withFieldReqs_fieldReqs (s : State) (v : SMap (Option FieldReq)) : (s.withFieldReqs v).fieldReqs = v := rfl
@[simp] theorem State.withFieldReqs_dma (s : State) (v : SMap (Option FieldReq)) : (s.withFieldReqs v).dma = s.dma := rfl
@[simp] theorem State.withFieldReqs_dmaLost (s : State) (v : SMap (Option FieldReq)) : (s.withFieldReqs v).dmaLost = s.dmaLost := rfl
@[simp] theorem State.withFieldReqs_ringLost (s : State) (v : SMap (Option FieldReq)) : (s.withFieldReqs v).ringLost = s.ringLost := rfl
@[simp] theorem State.withFieldReqs_bells (s : State) (v : SMap (Option FieldReq)) : (s.withFieldReqs v).bells = s.bells := rfl
@[simp] theorem State.withFieldReqs_loader (s : State) (v : SMap (Option FieldReq)) : (s.withFieldReqs v).loader = s.loader := rfl
@[simp] theorem State.withFieldReqs_alm (s : State) (v : SMap (Option FieldReq)) : (s.withFieldReqs v).alm = s.alm := rfl
@[simp] theorem State.withFieldReqs_cue (s : State) (v : SMap (Option FieldReq)) : (s.withFieldReqs v).cue = s.cue := rfl
@[simp] theorem State.withFieldReqs_mer (s : State) (v : SMap (Option FieldReq)) : (s.withFieldReqs v).mer = s.mer := rfl
@[simp] theorem State.withFieldReqs_looms (s : State) (v : SMap (Option FieldReq)) : (s.withFieldReqs v).looms = s.looms := rfl
@[simp] theorem State.withFieldReqs_sieves (s : State) (v : SMap (Option FieldReq)) : (s.withFieldReqs v).sieves = s.sieves := rfl
@[simp] theorem State.withFieldReqs_gates (s : State) (v : SMap (Option FieldReq)) : (s.withFieldReqs v).gates = s.gates := rfl
@[simp] theorem State.withFieldReqs_pairs (s : State) (v : SMap (Option FieldReq)) : (s.withFieldReqs v).pairs = s.pairs := rfl
@[simp] theorem State.withFieldReqs_sram (s : State) (v : SMap (Option FieldReq)) : (s.withFieldReqs v).sram = s.sram := rfl
@[simp] theorem State.withFieldReqs_reeves (s : State) (v : SMap (Option FieldReq)) : (s.withFieldReqs v).reeves = s.reeves := rfl
@[simp] theorem State.withFieldReqs_kats (s : State) (v : SMap (Option FieldReq)) : (s.withFieldReqs v).kats = s.kats := rfl
@[simp] theorem State.withFieldReqs_flight (s : State) (v : SMap (Option FieldReq)) : (s.withFieldReqs v).flight = s.flight := rfl
@[simp] theorem State.withFieldReqs_ferry (s : State) (v : SMap (Option FieldReq)) : (s.withFieldReqs v).ferry = s.ferry := rfl
@[simp] theorem State.withFieldReqs_power (s : State) (v : SMap (Option FieldReq)) : (s.withFieldReqs v).power = s.power := rfl
@[simp] theorem State.withFieldReqs_faults (s : State) (v : SMap (Option FieldReq)) : (s.withFieldReqs v).faults = s.faults := rfl
@[simp] theorem State.withFieldReqs_restarts (s : State) (v : SMap (Option FieldReq)) : (s.withFieldReqs v).restarts = s.restarts := rfl
@[simp] theorem State.withFieldReqs_ledger (s : State) (v : SMap (Option FieldReq)) : (s.withFieldReqs v).ledger = s.ledger := rfl
@[simp] theorem State.withFieldReqs_wm (s : State) (v : SMap (Option FieldReq)) : (s.withFieldReqs v).wm = s.wm := rfl
@[simp] theorem State.withFieldReqs_out (s : State) (v : SMap (Option FieldReq)) : (s.withFieldReqs v).out = s.out := rfl
@[simp] theorem State.withDma_pending (s : State) (v : SMap (List DmaRun)) : (s.withDma v).pending = s.pending := rfl
@[simp] theorem State.withDma_now (s : State) (v : SMap (List DmaRun)) : (s.withDma v).now = s.now := rfl
@[simp] theorem State.withDma_freeCount (s : State) (v : SMap (List DmaRun)) : (s.withDma v).freeCount = s.freeCount := rfl
@[simp] theorem State.withDma_fuses (s : State) (v : SMap (List DmaRun)) : (s.withDma v).fuses = s.fuses := rfl
@[simp] theorem State.withDma_board (s : State) (v : SMap (List DmaRun)) : (s.withDma v).board = s.board := rfl
@[simp] theorem State.withDma_regs (s : State) (v : SMap (List DmaRun)) : (s.withDma v).regs = s.regs := rfl
@[simp] theorem State.withDma_guards (s : State) (v : SMap (List DmaRun)) : (s.withDma v).guards = s.guards := rfl
@[simp] theorem State.withDma_latch (s : State) (v : SMap (List DmaRun)) : (s.withDma v).latch = s.latch := rfl
@[simp] theorem State.withDma_snaps (s : State) (v : SMap (List DmaRun)) : (s.withDma v).snaps = s.snaps := rfl
@[simp] theorem State.withDma_mem (s : State) (v : SMap (List DmaRun)) : (s.withDma v).mem = s.mem := rfl
@[simp] theorem State.withDma_margined (s : State) (v : SMap (List DmaRun)) : (s.withDma v).margined = s.margined := rfl
@[simp] theorem State.withDma_hbmStacks (s : State) (v : SMap (List DmaRun)) : (s.withDma v).hbmStacks = s.hbmStacks := rfl
@[simp] theorem State.withDma_fields (s : State) (v : SMap (List DmaRun)) : (s.withDma v).fields = s.fields := rfl
@[simp] theorem State.withDma_fieldReqs (s : State) (v : SMap (List DmaRun)) : (s.withDma v).fieldReqs = s.fieldReqs := rfl
@[simp] theorem State.withDma_dma (s : State) (v : SMap (List DmaRun)) : (s.withDma v).dma = v := rfl
@[simp] theorem State.withDma_dmaLost (s : State) (v : SMap (List DmaRun)) : (s.withDma v).dmaLost = s.dmaLost := rfl
@[simp] theorem State.withDma_ringLost (s : State) (v : SMap (List DmaRun)) : (s.withDma v).ringLost = s.ringLost := rfl
@[simp] theorem State.withDma_bells (s : State) (v : SMap (List DmaRun)) : (s.withDma v).bells = s.bells := rfl
@[simp] theorem State.withDma_loader (s : State) (v : SMap (List DmaRun)) : (s.withDma v).loader = s.loader := rfl
@[simp] theorem State.withDma_alm (s : State) (v : SMap (List DmaRun)) : (s.withDma v).alm = s.alm := rfl
@[simp] theorem State.withDma_cue (s : State) (v : SMap (List DmaRun)) : (s.withDma v).cue = s.cue := rfl
@[simp] theorem State.withDma_mer (s : State) (v : SMap (List DmaRun)) : (s.withDma v).mer = s.mer := rfl
@[simp] theorem State.withDma_looms (s : State) (v : SMap (List DmaRun)) : (s.withDma v).looms = s.looms := rfl
@[simp] theorem State.withDma_sieves (s : State) (v : SMap (List DmaRun)) : (s.withDma v).sieves = s.sieves := rfl
@[simp] theorem State.withDma_gates (s : State) (v : SMap (List DmaRun)) : (s.withDma v).gates = s.gates := rfl
@[simp] theorem State.withDma_pairs (s : State) (v : SMap (List DmaRun)) : (s.withDma v).pairs = s.pairs := rfl
@[simp] theorem State.withDma_sram (s : State) (v : SMap (List DmaRun)) : (s.withDma v).sram = s.sram := rfl
@[simp] theorem State.withDma_reeves (s : State) (v : SMap (List DmaRun)) : (s.withDma v).reeves = s.reeves := rfl
@[simp] theorem State.withDma_kats (s : State) (v : SMap (List DmaRun)) : (s.withDma v).kats = s.kats := rfl
@[simp] theorem State.withDma_flight (s : State) (v : SMap (List DmaRun)) : (s.withDma v).flight = s.flight := rfl
@[simp] theorem State.withDma_ferry (s : State) (v : SMap (List DmaRun)) : (s.withDma v).ferry = s.ferry := rfl
@[simp] theorem State.withDma_power (s : State) (v : SMap (List DmaRun)) : (s.withDma v).power = s.power := rfl
@[simp] theorem State.withDma_faults (s : State) (v : SMap (List DmaRun)) : (s.withDma v).faults = s.faults := rfl
@[simp] theorem State.withDma_restarts (s : State) (v : SMap (List DmaRun)) : (s.withDma v).restarts = s.restarts := rfl
@[simp] theorem State.withDma_ledger (s : State) (v : SMap (List DmaRun)) : (s.withDma v).ledger = s.ledger := rfl
@[simp] theorem State.withDma_wm (s : State) (v : SMap (List DmaRun)) : (s.withDma v).wm = s.wm := rfl
@[simp] theorem State.withDma_out (s : State) (v : SMap (List DmaRun)) : (s.withDma v).out = s.out := rfl
@[simp] theorem State.withDmaLost_pending (s : State) (v : List Nat) : (s.withDmaLost v).pending = s.pending := rfl
@[simp] theorem State.withDmaLost_now (s : State) (v : List Nat) : (s.withDmaLost v).now = s.now := rfl
@[simp] theorem State.withDmaLost_freeCount (s : State) (v : List Nat) : (s.withDmaLost v).freeCount = s.freeCount := rfl
@[simp] theorem State.withDmaLost_fuses (s : State) (v : List Nat) : (s.withDmaLost v).fuses = s.fuses := rfl
@[simp] theorem State.withDmaLost_board (s : State) (v : List Nat) : (s.withDmaLost v).board = s.board := rfl
@[simp] theorem State.withDmaLost_regs (s : State) (v : List Nat) : (s.withDmaLost v).regs = s.regs := rfl
@[simp] theorem State.withDmaLost_guards (s : State) (v : List Nat) : (s.withDmaLost v).guards = s.guards := rfl
@[simp] theorem State.withDmaLost_latch (s : State) (v : List Nat) : (s.withDmaLost v).latch = s.latch := rfl
@[simp] theorem State.withDmaLost_snaps (s : State) (v : List Nat) : (s.withDmaLost v).snaps = s.snaps := rfl
@[simp] theorem State.withDmaLost_mem (s : State) (v : List Nat) : (s.withDmaLost v).mem = s.mem := rfl
@[simp] theorem State.withDmaLost_margined (s : State) (v : List Nat) : (s.withDmaLost v).margined = s.margined := rfl
@[simp] theorem State.withDmaLost_hbmStacks (s : State) (v : List Nat) : (s.withDmaLost v).hbmStacks = s.hbmStacks := rfl
@[simp] theorem State.withDmaLost_fields (s : State) (v : List Nat) : (s.withDmaLost v).fields = s.fields := rfl
@[simp] theorem State.withDmaLost_fieldReqs (s : State) (v : List Nat) : (s.withDmaLost v).fieldReqs = s.fieldReqs := rfl
@[simp] theorem State.withDmaLost_dma (s : State) (v : List Nat) : (s.withDmaLost v).dma = s.dma := rfl
@[simp] theorem State.withDmaLost_dmaLost (s : State) (v : List Nat) : (s.withDmaLost v).dmaLost = v := rfl
@[simp] theorem State.withDmaLost_ringLost (s : State) (v : List Nat) : (s.withDmaLost v).ringLost = s.ringLost := rfl
@[simp] theorem State.withDmaLost_bells (s : State) (v : List Nat) : (s.withDmaLost v).bells = s.bells := rfl
@[simp] theorem State.withDmaLost_loader (s : State) (v : List Nat) : (s.withDmaLost v).loader = s.loader := rfl
@[simp] theorem State.withDmaLost_alm (s : State) (v : List Nat) : (s.withDmaLost v).alm = s.alm := rfl
@[simp] theorem State.withDmaLost_cue (s : State) (v : List Nat) : (s.withDmaLost v).cue = s.cue := rfl
@[simp] theorem State.withDmaLost_mer (s : State) (v : List Nat) : (s.withDmaLost v).mer = s.mer := rfl
@[simp] theorem State.withDmaLost_looms (s : State) (v : List Nat) : (s.withDmaLost v).looms = s.looms := rfl
@[simp] theorem State.withDmaLost_sieves (s : State) (v : List Nat) : (s.withDmaLost v).sieves = s.sieves := rfl
@[simp] theorem State.withDmaLost_gates (s : State) (v : List Nat) : (s.withDmaLost v).gates = s.gates := rfl
@[simp] theorem State.withDmaLost_pairs (s : State) (v : List Nat) : (s.withDmaLost v).pairs = s.pairs := rfl
@[simp] theorem State.withDmaLost_sram (s : State) (v : List Nat) : (s.withDmaLost v).sram = s.sram := rfl
@[simp] theorem State.withDmaLost_reeves (s : State) (v : List Nat) : (s.withDmaLost v).reeves = s.reeves := rfl
@[simp] theorem State.withDmaLost_kats (s : State) (v : List Nat) : (s.withDmaLost v).kats = s.kats := rfl
@[simp] theorem State.withDmaLost_flight (s : State) (v : List Nat) : (s.withDmaLost v).flight = s.flight := rfl
@[simp] theorem State.withDmaLost_ferry (s : State) (v : List Nat) : (s.withDmaLost v).ferry = s.ferry := rfl
@[simp] theorem State.withDmaLost_power (s : State) (v : List Nat) : (s.withDmaLost v).power = s.power := rfl
@[simp] theorem State.withDmaLost_faults (s : State) (v : List Nat) : (s.withDmaLost v).faults = s.faults := rfl
@[simp] theorem State.withDmaLost_restarts (s : State) (v : List Nat) : (s.withDmaLost v).restarts = s.restarts := rfl
@[simp] theorem State.withDmaLost_ledger (s : State) (v : List Nat) : (s.withDmaLost v).ledger = s.ledger := rfl
@[simp] theorem State.withDmaLost_wm (s : State) (v : List Nat) : (s.withDmaLost v).wm = s.wm := rfl
@[simp] theorem State.withDmaLost_out (s : State) (v : List Nat) : (s.withDmaLost v).out = s.out := rfl
@[simp] theorem State.withRingLost_pending (s : State) (v : List Nat) : (s.withRingLost v).pending = s.pending := rfl
@[simp] theorem State.withRingLost_now (s : State) (v : List Nat) : (s.withRingLost v).now = s.now := rfl
@[simp] theorem State.withRingLost_freeCount (s : State) (v : List Nat) : (s.withRingLost v).freeCount = s.freeCount := rfl
@[simp] theorem State.withRingLost_fuses (s : State) (v : List Nat) : (s.withRingLost v).fuses = s.fuses := rfl
@[simp] theorem State.withRingLost_board (s : State) (v : List Nat) : (s.withRingLost v).board = s.board := rfl
@[simp] theorem State.withRingLost_regs (s : State) (v : List Nat) : (s.withRingLost v).regs = s.regs := rfl
@[simp] theorem State.withRingLost_guards (s : State) (v : List Nat) : (s.withRingLost v).guards = s.guards := rfl
@[simp] theorem State.withRingLost_latch (s : State) (v : List Nat) : (s.withRingLost v).latch = s.latch := rfl
@[simp] theorem State.withRingLost_snaps (s : State) (v : List Nat) : (s.withRingLost v).snaps = s.snaps := rfl
@[simp] theorem State.withRingLost_mem (s : State) (v : List Nat) : (s.withRingLost v).mem = s.mem := rfl
@[simp] theorem State.withRingLost_margined (s : State) (v : List Nat) : (s.withRingLost v).margined = s.margined := rfl
@[simp] theorem State.withRingLost_hbmStacks (s : State) (v : List Nat) : (s.withRingLost v).hbmStacks = s.hbmStacks := rfl
@[simp] theorem State.withRingLost_fields (s : State) (v : List Nat) : (s.withRingLost v).fields = s.fields := rfl
@[simp] theorem State.withRingLost_fieldReqs (s : State) (v : List Nat) : (s.withRingLost v).fieldReqs = s.fieldReqs := rfl
@[simp] theorem State.withRingLost_dma (s : State) (v : List Nat) : (s.withRingLost v).dma = s.dma := rfl
@[simp] theorem State.withRingLost_dmaLost (s : State) (v : List Nat) : (s.withRingLost v).dmaLost = s.dmaLost := rfl
@[simp] theorem State.withRingLost_ringLost (s : State) (v : List Nat) : (s.withRingLost v).ringLost = v := rfl
@[simp] theorem State.withRingLost_bells (s : State) (v : List Nat) : (s.withRingLost v).bells = s.bells := rfl
@[simp] theorem State.withRingLost_loader (s : State) (v : List Nat) : (s.withRingLost v).loader = s.loader := rfl
@[simp] theorem State.withRingLost_alm (s : State) (v : List Nat) : (s.withRingLost v).alm = s.alm := rfl
@[simp] theorem State.withRingLost_cue (s : State) (v : List Nat) : (s.withRingLost v).cue = s.cue := rfl
@[simp] theorem State.withRingLost_mer (s : State) (v : List Nat) : (s.withRingLost v).mer = s.mer := rfl
@[simp] theorem State.withRingLost_looms (s : State) (v : List Nat) : (s.withRingLost v).looms = s.looms := rfl
@[simp] theorem State.withRingLost_sieves (s : State) (v : List Nat) : (s.withRingLost v).sieves = s.sieves := rfl
@[simp] theorem State.withRingLost_gates (s : State) (v : List Nat) : (s.withRingLost v).gates = s.gates := rfl
@[simp] theorem State.withRingLost_pairs (s : State) (v : List Nat) : (s.withRingLost v).pairs = s.pairs := rfl
@[simp] theorem State.withRingLost_sram (s : State) (v : List Nat) : (s.withRingLost v).sram = s.sram := rfl
@[simp] theorem State.withRingLost_reeves (s : State) (v : List Nat) : (s.withRingLost v).reeves = s.reeves := rfl
@[simp] theorem State.withRingLost_kats (s : State) (v : List Nat) : (s.withRingLost v).kats = s.kats := rfl
@[simp] theorem State.withRingLost_flight (s : State) (v : List Nat) : (s.withRingLost v).flight = s.flight := rfl
@[simp] theorem State.withRingLost_ferry (s : State) (v : List Nat) : (s.withRingLost v).ferry = s.ferry := rfl
@[simp] theorem State.withRingLost_power (s : State) (v : List Nat) : (s.withRingLost v).power = s.power := rfl
@[simp] theorem State.withRingLost_faults (s : State) (v : List Nat) : (s.withRingLost v).faults = s.faults := rfl
@[simp] theorem State.withRingLost_restarts (s : State) (v : List Nat) : (s.withRingLost v).restarts = s.restarts := rfl
@[simp] theorem State.withRingLost_ledger (s : State) (v : List Nat) : (s.withRingLost v).ledger = s.ledger := rfl
@[simp] theorem State.withRingLost_wm (s : State) (v : List Nat) : (s.withRingLost v).wm = s.wm := rfl
@[simp] theorem State.withRingLost_out (s : State) (v : List Nat) : (s.withRingLost v).out = s.out := rfl
@[simp] theorem State.withBells_pending (s : State) (v : SMap Bell) : (s.withBells v).pending = s.pending := rfl
@[simp] theorem State.withBells_now (s : State) (v : SMap Bell) : (s.withBells v).now = s.now := rfl
@[simp] theorem State.withBells_freeCount (s : State) (v : SMap Bell) : (s.withBells v).freeCount = s.freeCount := rfl
@[simp] theorem State.withBells_fuses (s : State) (v : SMap Bell) : (s.withBells v).fuses = s.fuses := rfl
@[simp] theorem State.withBells_board (s : State) (v : SMap Bell) : (s.withBells v).board = s.board := rfl
@[simp] theorem State.withBells_regs (s : State) (v : SMap Bell) : (s.withBells v).regs = s.regs := rfl
@[simp] theorem State.withBells_guards (s : State) (v : SMap Bell) : (s.withBells v).guards = s.guards := rfl
@[simp] theorem State.withBells_latch (s : State) (v : SMap Bell) : (s.withBells v).latch = s.latch := rfl
@[simp] theorem State.withBells_snaps (s : State) (v : SMap Bell) : (s.withBells v).snaps = s.snaps := rfl
@[simp] theorem State.withBells_mem (s : State) (v : SMap Bell) : (s.withBells v).mem = s.mem := rfl
@[simp] theorem State.withBells_margined (s : State) (v : SMap Bell) : (s.withBells v).margined = s.margined := rfl
@[simp] theorem State.withBells_hbmStacks (s : State) (v : SMap Bell) : (s.withBells v).hbmStacks = s.hbmStacks := rfl
@[simp] theorem State.withBells_fields (s : State) (v : SMap Bell) : (s.withBells v).fields = s.fields := rfl
@[simp] theorem State.withBells_fieldReqs (s : State) (v : SMap Bell) : (s.withBells v).fieldReqs = s.fieldReqs := rfl
@[simp] theorem State.withBells_dma (s : State) (v : SMap Bell) : (s.withBells v).dma = s.dma := rfl
@[simp] theorem State.withBells_dmaLost (s : State) (v : SMap Bell) : (s.withBells v).dmaLost = s.dmaLost := rfl
@[simp] theorem State.withBells_ringLost (s : State) (v : SMap Bell) : (s.withBells v).ringLost = s.ringLost := rfl
@[simp] theorem State.withBells_bells (s : State) (v : SMap Bell) : (s.withBells v).bells = v := rfl
@[simp] theorem State.withBells_loader (s : State) (v : SMap Bell) : (s.withBells v).loader = s.loader := rfl
@[simp] theorem State.withBells_alm (s : State) (v : SMap Bell) : (s.withBells v).alm = s.alm := rfl
@[simp] theorem State.withBells_cue (s : State) (v : SMap Bell) : (s.withBells v).cue = s.cue := rfl
@[simp] theorem State.withBells_mer (s : State) (v : SMap Bell) : (s.withBells v).mer = s.mer := rfl
@[simp] theorem State.withBells_looms (s : State) (v : SMap Bell) : (s.withBells v).looms = s.looms := rfl
@[simp] theorem State.withBells_sieves (s : State) (v : SMap Bell) : (s.withBells v).sieves = s.sieves := rfl
@[simp] theorem State.withBells_gates (s : State) (v : SMap Bell) : (s.withBells v).gates = s.gates := rfl
@[simp] theorem State.withBells_pairs (s : State) (v : SMap Bell) : (s.withBells v).pairs = s.pairs := rfl
@[simp] theorem State.withBells_sram (s : State) (v : SMap Bell) : (s.withBells v).sram = s.sram := rfl
@[simp] theorem State.withBells_reeves (s : State) (v : SMap Bell) : (s.withBells v).reeves = s.reeves := rfl
@[simp] theorem State.withBells_kats (s : State) (v : SMap Bell) : (s.withBells v).kats = s.kats := rfl
@[simp] theorem State.withBells_flight (s : State) (v : SMap Bell) : (s.withBells v).flight = s.flight := rfl
@[simp] theorem State.withBells_ferry (s : State) (v : SMap Bell) : (s.withBells v).ferry = s.ferry := rfl
@[simp] theorem State.withBells_power (s : State) (v : SMap Bell) : (s.withBells v).power = s.power := rfl
@[simp] theorem State.withBells_faults (s : State) (v : SMap Bell) : (s.withBells v).faults = s.faults := rfl
@[simp] theorem State.withBells_restarts (s : State) (v : SMap Bell) : (s.withBells v).restarts = s.restarts := rfl
@[simp] theorem State.withBells_ledger (s : State) (v : SMap Bell) : (s.withBells v).ledger = s.ledger := rfl
@[simp] theorem State.withBells_wm (s : State) (v : SMap Bell) : (s.withBells v).wm = s.wm := rfl
@[simp] theorem State.withBells_out (s : State) (v : SMap Bell) : (s.withBells v).out = s.out := rfl
@[simp] theorem State.withLoader_pending (s : State) (v : Loader) : (s.withLoader v).pending = s.pending := rfl
@[simp] theorem State.withLoader_now (s : State) (v : Loader) : (s.withLoader v).now = s.now := rfl
@[simp] theorem State.withLoader_freeCount (s : State) (v : Loader) : (s.withLoader v).freeCount = s.freeCount := rfl
@[simp] theorem State.withLoader_fuses (s : State) (v : Loader) : (s.withLoader v).fuses = s.fuses := rfl
@[simp] theorem State.withLoader_board (s : State) (v : Loader) : (s.withLoader v).board = s.board := rfl
@[simp] theorem State.withLoader_regs (s : State) (v : Loader) : (s.withLoader v).regs = s.regs := rfl
@[simp] theorem State.withLoader_guards (s : State) (v : Loader) : (s.withLoader v).guards = s.guards := rfl
@[simp] theorem State.withLoader_latch (s : State) (v : Loader) : (s.withLoader v).latch = s.latch := rfl
@[simp] theorem State.withLoader_snaps (s : State) (v : Loader) : (s.withLoader v).snaps = s.snaps := rfl
@[simp] theorem State.withLoader_mem (s : State) (v : Loader) : (s.withLoader v).mem = s.mem := rfl
@[simp] theorem State.withLoader_margined (s : State) (v : Loader) : (s.withLoader v).margined = s.margined := rfl
@[simp] theorem State.withLoader_hbmStacks (s : State) (v : Loader) : (s.withLoader v).hbmStacks = s.hbmStacks := rfl
@[simp] theorem State.withLoader_fields (s : State) (v : Loader) : (s.withLoader v).fields = s.fields := rfl
@[simp] theorem State.withLoader_fieldReqs (s : State) (v : Loader) : (s.withLoader v).fieldReqs = s.fieldReqs := rfl
@[simp] theorem State.withLoader_dma (s : State) (v : Loader) : (s.withLoader v).dma = s.dma := rfl
@[simp] theorem State.withLoader_dmaLost (s : State) (v : Loader) : (s.withLoader v).dmaLost = s.dmaLost := rfl
@[simp] theorem State.withLoader_ringLost (s : State) (v : Loader) : (s.withLoader v).ringLost = s.ringLost := rfl
@[simp] theorem State.withLoader_bells (s : State) (v : Loader) : (s.withLoader v).bells = s.bells := rfl
@[simp] theorem State.withLoader_loader (s : State) (v : Loader) : (s.withLoader v).loader = v := rfl
@[simp] theorem State.withLoader_alm (s : State) (v : Loader) : (s.withLoader v).alm = s.alm := rfl
@[simp] theorem State.withLoader_cue (s : State) (v : Loader) : (s.withLoader v).cue = s.cue := rfl
@[simp] theorem State.withLoader_mer (s : State) (v : Loader) : (s.withLoader v).mer = s.mer := rfl
@[simp] theorem State.withLoader_looms (s : State) (v : Loader) : (s.withLoader v).looms = s.looms := rfl
@[simp] theorem State.withLoader_sieves (s : State) (v : Loader) : (s.withLoader v).sieves = s.sieves := rfl
@[simp] theorem State.withLoader_gates (s : State) (v : Loader) : (s.withLoader v).gates = s.gates := rfl
@[simp] theorem State.withLoader_pairs (s : State) (v : Loader) : (s.withLoader v).pairs = s.pairs := rfl
@[simp] theorem State.withLoader_sram (s : State) (v : Loader) : (s.withLoader v).sram = s.sram := rfl
@[simp] theorem State.withLoader_reeves (s : State) (v : Loader) : (s.withLoader v).reeves = s.reeves := rfl
@[simp] theorem State.withLoader_kats (s : State) (v : Loader) : (s.withLoader v).kats = s.kats := rfl
@[simp] theorem State.withLoader_flight (s : State) (v : Loader) : (s.withLoader v).flight = s.flight := rfl
@[simp] theorem State.withLoader_ferry (s : State) (v : Loader) : (s.withLoader v).ferry = s.ferry := rfl
@[simp] theorem State.withLoader_power (s : State) (v : Loader) : (s.withLoader v).power = s.power := rfl
@[simp] theorem State.withLoader_faults (s : State) (v : Loader) : (s.withLoader v).faults = s.faults := rfl
@[simp] theorem State.withLoader_restarts (s : State) (v : Loader) : (s.withLoader v).restarts = s.restarts := rfl
@[simp] theorem State.withLoader_ledger (s : State) (v : Loader) : (s.withLoader v).ledger = s.ledger := rfl
@[simp] theorem State.withLoader_wm (s : State) (v : Loader) : (s.withLoader v).wm = s.wm := rfl
@[simp] theorem State.withLoader_out (s : State) (v : Loader) : (s.withLoader v).out = s.out := rfl
@[simp] theorem State.withAlm_pending (s : State) (v : SMap (Option AEntry)) : (s.withAlm v).pending = s.pending := rfl
@[simp] theorem State.withAlm_now (s : State) (v : SMap (Option AEntry)) : (s.withAlm v).now = s.now := rfl
@[simp] theorem State.withAlm_freeCount (s : State) (v : SMap (Option AEntry)) : (s.withAlm v).freeCount = s.freeCount := rfl
@[simp] theorem State.withAlm_fuses (s : State) (v : SMap (Option AEntry)) : (s.withAlm v).fuses = s.fuses := rfl
@[simp] theorem State.withAlm_board (s : State) (v : SMap (Option AEntry)) : (s.withAlm v).board = s.board := rfl
@[simp] theorem State.withAlm_regs (s : State) (v : SMap (Option AEntry)) : (s.withAlm v).regs = s.regs := rfl
@[simp] theorem State.withAlm_guards (s : State) (v : SMap (Option AEntry)) : (s.withAlm v).guards = s.guards := rfl
@[simp] theorem State.withAlm_latch (s : State) (v : SMap (Option AEntry)) : (s.withAlm v).latch = s.latch := rfl
@[simp] theorem State.withAlm_snaps (s : State) (v : SMap (Option AEntry)) : (s.withAlm v).snaps = s.snaps := rfl
@[simp] theorem State.withAlm_mem (s : State) (v : SMap (Option AEntry)) : (s.withAlm v).mem = s.mem := rfl
@[simp] theorem State.withAlm_margined (s : State) (v : SMap (Option AEntry)) : (s.withAlm v).margined = s.margined := rfl
@[simp] theorem State.withAlm_hbmStacks (s : State) (v : SMap (Option AEntry)) : (s.withAlm v).hbmStacks = s.hbmStacks := rfl
@[simp] theorem State.withAlm_fields (s : State) (v : SMap (Option AEntry)) : (s.withAlm v).fields = s.fields := rfl
@[simp] theorem State.withAlm_fieldReqs (s : State) (v : SMap (Option AEntry)) : (s.withAlm v).fieldReqs = s.fieldReqs := rfl
@[simp] theorem State.withAlm_dma (s : State) (v : SMap (Option AEntry)) : (s.withAlm v).dma = s.dma := rfl
@[simp] theorem State.withAlm_dmaLost (s : State) (v : SMap (Option AEntry)) : (s.withAlm v).dmaLost = s.dmaLost := rfl
@[simp] theorem State.withAlm_ringLost (s : State) (v : SMap (Option AEntry)) : (s.withAlm v).ringLost = s.ringLost := rfl
@[simp] theorem State.withAlm_bells (s : State) (v : SMap (Option AEntry)) : (s.withAlm v).bells = s.bells := rfl
@[simp] theorem State.withAlm_loader (s : State) (v : SMap (Option AEntry)) : (s.withAlm v).loader = s.loader := rfl
@[simp] theorem State.withAlm_alm (s : State) (v : SMap (Option AEntry)) : (s.withAlm v).alm = v := rfl
@[simp] theorem State.withAlm_cue (s : State) (v : SMap (Option AEntry)) : (s.withAlm v).cue = s.cue := rfl
@[simp] theorem State.withAlm_mer (s : State) (v : SMap (Option AEntry)) : (s.withAlm v).mer = s.mer := rfl
@[simp] theorem State.withAlm_looms (s : State) (v : SMap (Option AEntry)) : (s.withAlm v).looms = s.looms := rfl
@[simp] theorem State.withAlm_sieves (s : State) (v : SMap (Option AEntry)) : (s.withAlm v).sieves = s.sieves := rfl
@[simp] theorem State.withAlm_gates (s : State) (v : SMap (Option AEntry)) : (s.withAlm v).gates = s.gates := rfl
@[simp] theorem State.withAlm_pairs (s : State) (v : SMap (Option AEntry)) : (s.withAlm v).pairs = s.pairs := rfl
@[simp] theorem State.withAlm_sram (s : State) (v : SMap (Option AEntry)) : (s.withAlm v).sram = s.sram := rfl
@[simp] theorem State.withAlm_reeves (s : State) (v : SMap (Option AEntry)) : (s.withAlm v).reeves = s.reeves := rfl
@[simp] theorem State.withAlm_kats (s : State) (v : SMap (Option AEntry)) : (s.withAlm v).kats = s.kats := rfl
@[simp] theorem State.withAlm_flight (s : State) (v : SMap (Option AEntry)) : (s.withAlm v).flight = s.flight := rfl
@[simp] theorem State.withAlm_ferry (s : State) (v : SMap (Option AEntry)) : (s.withAlm v).ferry = s.ferry := rfl
@[simp] theorem State.withAlm_power (s : State) (v : SMap (Option AEntry)) : (s.withAlm v).power = s.power := rfl
@[simp] theorem State.withAlm_faults (s : State) (v : SMap (Option AEntry)) : (s.withAlm v).faults = s.faults := rfl
@[simp] theorem State.withAlm_restarts (s : State) (v : SMap (Option AEntry)) : (s.withAlm v).restarts = s.restarts := rfl
@[simp] theorem State.withAlm_ledger (s : State) (v : SMap (Option AEntry)) : (s.withAlm v).ledger = s.ledger := rfl
@[simp] theorem State.withAlm_wm (s : State) (v : SMap (Option AEntry)) : (s.withAlm v).wm = s.wm := rfl
@[simp] theorem State.withAlm_out (s : State) (v : SMap (Option AEntry)) : (s.withAlm v).out = s.out := rfl
@[simp] theorem State.withCue_pending (s : State) (v : Cue) : (s.withCue v).pending = s.pending := rfl
@[simp] theorem State.withCue_now (s : State) (v : Cue) : (s.withCue v).now = s.now := rfl
@[simp] theorem State.withCue_freeCount (s : State) (v : Cue) : (s.withCue v).freeCount = s.freeCount := rfl
@[simp] theorem State.withCue_fuses (s : State) (v : Cue) : (s.withCue v).fuses = s.fuses := rfl
@[simp] theorem State.withCue_board (s : State) (v : Cue) : (s.withCue v).board = s.board := rfl
@[simp] theorem State.withCue_regs (s : State) (v : Cue) : (s.withCue v).regs = s.regs := rfl
@[simp] theorem State.withCue_guards (s : State) (v : Cue) : (s.withCue v).guards = s.guards := rfl
@[simp] theorem State.withCue_latch (s : State) (v : Cue) : (s.withCue v).latch = s.latch := rfl
@[simp] theorem State.withCue_snaps (s : State) (v : Cue) : (s.withCue v).snaps = s.snaps := rfl
@[simp] theorem State.withCue_mem (s : State) (v : Cue) : (s.withCue v).mem = s.mem := rfl
@[simp] theorem State.withCue_margined (s : State) (v : Cue) : (s.withCue v).margined = s.margined := rfl
@[simp] theorem State.withCue_hbmStacks (s : State) (v : Cue) : (s.withCue v).hbmStacks = s.hbmStacks := rfl
@[simp] theorem State.withCue_fields (s : State) (v : Cue) : (s.withCue v).fields = s.fields := rfl
@[simp] theorem State.withCue_fieldReqs (s : State) (v : Cue) : (s.withCue v).fieldReqs = s.fieldReqs := rfl
@[simp] theorem State.withCue_dma (s : State) (v : Cue) : (s.withCue v).dma = s.dma := rfl
@[simp] theorem State.withCue_dmaLost (s : State) (v : Cue) : (s.withCue v).dmaLost = s.dmaLost := rfl
@[simp] theorem State.withCue_ringLost (s : State) (v : Cue) : (s.withCue v).ringLost = s.ringLost := rfl
@[simp] theorem State.withCue_bells (s : State) (v : Cue) : (s.withCue v).bells = s.bells := rfl
@[simp] theorem State.withCue_loader (s : State) (v : Cue) : (s.withCue v).loader = s.loader := rfl
@[simp] theorem State.withCue_alm (s : State) (v : Cue) : (s.withCue v).alm = s.alm := rfl
@[simp] theorem State.withCue_cue (s : State) (v : Cue) : (s.withCue v).cue = v := rfl
@[simp] theorem State.withCue_mer (s : State) (v : Cue) : (s.withCue v).mer = s.mer := rfl
@[simp] theorem State.withCue_looms (s : State) (v : Cue) : (s.withCue v).looms = s.looms := rfl
@[simp] theorem State.withCue_sieves (s : State) (v : Cue) : (s.withCue v).sieves = s.sieves := rfl
@[simp] theorem State.withCue_gates (s : State) (v : Cue) : (s.withCue v).gates = s.gates := rfl
@[simp] theorem State.withCue_pairs (s : State) (v : Cue) : (s.withCue v).pairs = s.pairs := rfl
@[simp] theorem State.withCue_sram (s : State) (v : Cue) : (s.withCue v).sram = s.sram := rfl
@[simp] theorem State.withCue_reeves (s : State) (v : Cue) : (s.withCue v).reeves = s.reeves := rfl
@[simp] theorem State.withCue_kats (s : State) (v : Cue) : (s.withCue v).kats = s.kats := rfl
@[simp] theorem State.withCue_flight (s : State) (v : Cue) : (s.withCue v).flight = s.flight := rfl
@[simp] theorem State.withCue_ferry (s : State) (v : Cue) : (s.withCue v).ferry = s.ferry := rfl
@[simp] theorem State.withCue_power (s : State) (v : Cue) : (s.withCue v).power = s.power := rfl
@[simp] theorem State.withCue_faults (s : State) (v : Cue) : (s.withCue v).faults = s.faults := rfl
@[simp] theorem State.withCue_restarts (s : State) (v : Cue) : (s.withCue v).restarts = s.restarts := rfl
@[simp] theorem State.withCue_ledger (s : State) (v : Cue) : (s.withCue v).ledger = s.ledger := rfl
@[simp] theorem State.withCue_wm (s : State) (v : Cue) : (s.withCue v).wm = s.wm := rfl
@[simp] theorem State.withCue_out (s : State) (v : Cue) : (s.withCue v).out = s.out := rfl
@[simp] theorem State.withMer_pending (s : State) (v : Meridian) : (s.withMer v).pending = s.pending := rfl
@[simp] theorem State.withMer_now (s : State) (v : Meridian) : (s.withMer v).now = s.now := rfl
@[simp] theorem State.withMer_freeCount (s : State) (v : Meridian) : (s.withMer v).freeCount = s.freeCount := rfl
@[simp] theorem State.withMer_fuses (s : State) (v : Meridian) : (s.withMer v).fuses = s.fuses := rfl
@[simp] theorem State.withMer_board (s : State) (v : Meridian) : (s.withMer v).board = s.board := rfl
@[simp] theorem State.withMer_regs (s : State) (v : Meridian) : (s.withMer v).regs = s.regs := rfl
@[simp] theorem State.withMer_guards (s : State) (v : Meridian) : (s.withMer v).guards = s.guards := rfl
@[simp] theorem State.withMer_latch (s : State) (v : Meridian) : (s.withMer v).latch = s.latch := rfl
@[simp] theorem State.withMer_snaps (s : State) (v : Meridian) : (s.withMer v).snaps = s.snaps := rfl
@[simp] theorem State.withMer_mem (s : State) (v : Meridian) : (s.withMer v).mem = s.mem := rfl
@[simp] theorem State.withMer_margined (s : State) (v : Meridian) : (s.withMer v).margined = s.margined := rfl
@[simp] theorem State.withMer_hbmStacks (s : State) (v : Meridian) : (s.withMer v).hbmStacks = s.hbmStacks := rfl
@[simp] theorem State.withMer_fields (s : State) (v : Meridian) : (s.withMer v).fields = s.fields := rfl
@[simp] theorem State.withMer_fieldReqs (s : State) (v : Meridian) : (s.withMer v).fieldReqs = s.fieldReqs := rfl
@[simp] theorem State.withMer_dma (s : State) (v : Meridian) : (s.withMer v).dma = s.dma := rfl
@[simp] theorem State.withMer_dmaLost (s : State) (v : Meridian) : (s.withMer v).dmaLost = s.dmaLost := rfl
@[simp] theorem State.withMer_ringLost (s : State) (v : Meridian) : (s.withMer v).ringLost = s.ringLost := rfl
@[simp] theorem State.withMer_bells (s : State) (v : Meridian) : (s.withMer v).bells = s.bells := rfl
@[simp] theorem State.withMer_loader (s : State) (v : Meridian) : (s.withMer v).loader = s.loader := rfl
@[simp] theorem State.withMer_alm (s : State) (v : Meridian) : (s.withMer v).alm = s.alm := rfl
@[simp] theorem State.withMer_cue (s : State) (v : Meridian) : (s.withMer v).cue = s.cue := rfl
@[simp] theorem State.withMer_mer (s : State) (v : Meridian) : (s.withMer v).mer = v := rfl
@[simp] theorem State.withMer_looms (s : State) (v : Meridian) : (s.withMer v).looms = s.looms := rfl
@[simp] theorem State.withMer_sieves (s : State) (v : Meridian) : (s.withMer v).sieves = s.sieves := rfl
@[simp] theorem State.withMer_gates (s : State) (v : Meridian) : (s.withMer v).gates = s.gates := rfl
@[simp] theorem State.withMer_pairs (s : State) (v : Meridian) : (s.withMer v).pairs = s.pairs := rfl
@[simp] theorem State.withMer_sram (s : State) (v : Meridian) : (s.withMer v).sram = s.sram := rfl
@[simp] theorem State.withMer_reeves (s : State) (v : Meridian) : (s.withMer v).reeves = s.reeves := rfl
@[simp] theorem State.withMer_kats (s : State) (v : Meridian) : (s.withMer v).kats = s.kats := rfl
@[simp] theorem State.withMer_flight (s : State) (v : Meridian) : (s.withMer v).flight = s.flight := rfl
@[simp] theorem State.withMer_ferry (s : State) (v : Meridian) : (s.withMer v).ferry = s.ferry := rfl
@[simp] theorem State.withMer_power (s : State) (v : Meridian) : (s.withMer v).power = s.power := rfl
@[simp] theorem State.withMer_faults (s : State) (v : Meridian) : (s.withMer v).faults = s.faults := rfl
@[simp] theorem State.withMer_restarts (s : State) (v : Meridian) : (s.withMer v).restarts = s.restarts := rfl
@[simp] theorem State.withMer_ledger (s : State) (v : Meridian) : (s.withMer v).ledger = s.ledger := rfl
@[simp] theorem State.withMer_wm (s : State) (v : Meridian) : (s.withMer v).wm = s.wm := rfl
@[simp] theorem State.withMer_out (s : State) (v : Meridian) : (s.withMer v).out = s.out := rfl
@[simp] theorem State.withLooms_pending (s : State) (v : SMap Loom) : (s.withLooms v).pending = s.pending := rfl
@[simp] theorem State.withLooms_now (s : State) (v : SMap Loom) : (s.withLooms v).now = s.now := rfl
@[simp] theorem State.withLooms_freeCount (s : State) (v : SMap Loom) : (s.withLooms v).freeCount = s.freeCount := rfl
@[simp] theorem State.withLooms_fuses (s : State) (v : SMap Loom) : (s.withLooms v).fuses = s.fuses := rfl
@[simp] theorem State.withLooms_board (s : State) (v : SMap Loom) : (s.withLooms v).board = s.board := rfl
@[simp] theorem State.withLooms_regs (s : State) (v : SMap Loom) : (s.withLooms v).regs = s.regs := rfl
@[simp] theorem State.withLooms_guards (s : State) (v : SMap Loom) : (s.withLooms v).guards = s.guards := rfl
@[simp] theorem State.withLooms_latch (s : State) (v : SMap Loom) : (s.withLooms v).latch = s.latch := rfl
@[simp] theorem State.withLooms_snaps (s : State) (v : SMap Loom) : (s.withLooms v).snaps = s.snaps := rfl
@[simp] theorem State.withLooms_mem (s : State) (v : SMap Loom) : (s.withLooms v).mem = s.mem := rfl
@[simp] theorem State.withLooms_margined (s : State) (v : SMap Loom) : (s.withLooms v).margined = s.margined := rfl
@[simp] theorem State.withLooms_hbmStacks (s : State) (v : SMap Loom) : (s.withLooms v).hbmStacks = s.hbmStacks := rfl
@[simp] theorem State.withLooms_fields (s : State) (v : SMap Loom) : (s.withLooms v).fields = s.fields := rfl
@[simp] theorem State.withLooms_fieldReqs (s : State) (v : SMap Loom) : (s.withLooms v).fieldReqs = s.fieldReqs := rfl
@[simp] theorem State.withLooms_dma (s : State) (v : SMap Loom) : (s.withLooms v).dma = s.dma := rfl
@[simp] theorem State.withLooms_dmaLost (s : State) (v : SMap Loom) : (s.withLooms v).dmaLost = s.dmaLost := rfl
@[simp] theorem State.withLooms_ringLost (s : State) (v : SMap Loom) : (s.withLooms v).ringLost = s.ringLost := rfl
@[simp] theorem State.withLooms_bells (s : State) (v : SMap Loom) : (s.withLooms v).bells = s.bells := rfl
@[simp] theorem State.withLooms_loader (s : State) (v : SMap Loom) : (s.withLooms v).loader = s.loader := rfl
@[simp] theorem State.withLooms_alm (s : State) (v : SMap Loom) : (s.withLooms v).alm = s.alm := rfl
@[simp] theorem State.withLooms_cue (s : State) (v : SMap Loom) : (s.withLooms v).cue = s.cue := rfl
@[simp] theorem State.withLooms_mer (s : State) (v : SMap Loom) : (s.withLooms v).mer = s.mer := rfl
@[simp] theorem State.withLooms_looms (s : State) (v : SMap Loom) : (s.withLooms v).looms = v := rfl
@[simp] theorem State.withLooms_sieves (s : State) (v : SMap Loom) : (s.withLooms v).sieves = s.sieves := rfl
@[simp] theorem State.withLooms_gates (s : State) (v : SMap Loom) : (s.withLooms v).gates = s.gates := rfl
@[simp] theorem State.withLooms_pairs (s : State) (v : SMap Loom) : (s.withLooms v).pairs = s.pairs := rfl
@[simp] theorem State.withLooms_sram (s : State) (v : SMap Loom) : (s.withLooms v).sram = s.sram := rfl
@[simp] theorem State.withLooms_reeves (s : State) (v : SMap Loom) : (s.withLooms v).reeves = s.reeves := rfl
@[simp] theorem State.withLooms_kats (s : State) (v : SMap Loom) : (s.withLooms v).kats = s.kats := rfl
@[simp] theorem State.withLooms_flight (s : State) (v : SMap Loom) : (s.withLooms v).flight = s.flight := rfl
@[simp] theorem State.withLooms_ferry (s : State) (v : SMap Loom) : (s.withLooms v).ferry = s.ferry := rfl
@[simp] theorem State.withLooms_power (s : State) (v : SMap Loom) : (s.withLooms v).power = s.power := rfl
@[simp] theorem State.withLooms_faults (s : State) (v : SMap Loom) : (s.withLooms v).faults = s.faults := rfl
@[simp] theorem State.withLooms_restarts (s : State) (v : SMap Loom) : (s.withLooms v).restarts = s.restarts := rfl
@[simp] theorem State.withLooms_ledger (s : State) (v : SMap Loom) : (s.withLooms v).ledger = s.ledger := rfl
@[simp] theorem State.withLooms_wm (s : State) (v : SMap Loom) : (s.withLooms v).wm = s.wm := rfl
@[simp] theorem State.withLooms_out (s : State) (v : SMap Loom) : (s.withLooms v).out = s.out := rfl
@[simp] theorem State.withSieves_pending (s : State) (v : SMap Engine) : (s.withSieves v).pending = s.pending := rfl
@[simp] theorem State.withSieves_now (s : State) (v : SMap Engine) : (s.withSieves v).now = s.now := rfl
@[simp] theorem State.withSieves_freeCount (s : State) (v : SMap Engine) : (s.withSieves v).freeCount = s.freeCount := rfl
@[simp] theorem State.withSieves_fuses (s : State) (v : SMap Engine) : (s.withSieves v).fuses = s.fuses := rfl
@[simp] theorem State.withSieves_board (s : State) (v : SMap Engine) : (s.withSieves v).board = s.board := rfl
@[simp] theorem State.withSieves_regs (s : State) (v : SMap Engine) : (s.withSieves v).regs = s.regs := rfl
@[simp] theorem State.withSieves_guards (s : State) (v : SMap Engine) : (s.withSieves v).guards = s.guards := rfl
@[simp] theorem State.withSieves_latch (s : State) (v : SMap Engine) : (s.withSieves v).latch = s.latch := rfl
@[simp] theorem State.withSieves_snaps (s : State) (v : SMap Engine) : (s.withSieves v).snaps = s.snaps := rfl
@[simp] theorem State.withSieves_mem (s : State) (v : SMap Engine) : (s.withSieves v).mem = s.mem := rfl
@[simp] theorem State.withSieves_margined (s : State) (v : SMap Engine) : (s.withSieves v).margined = s.margined := rfl
@[simp] theorem State.withSieves_hbmStacks (s : State) (v : SMap Engine) : (s.withSieves v).hbmStacks = s.hbmStacks := rfl
@[simp] theorem State.withSieves_fields (s : State) (v : SMap Engine) : (s.withSieves v).fields = s.fields := rfl
@[simp] theorem State.withSieves_fieldReqs (s : State) (v : SMap Engine) : (s.withSieves v).fieldReqs = s.fieldReqs := rfl
@[simp] theorem State.withSieves_dma (s : State) (v : SMap Engine) : (s.withSieves v).dma = s.dma := rfl
@[simp] theorem State.withSieves_dmaLost (s : State) (v : SMap Engine) : (s.withSieves v).dmaLost = s.dmaLost := rfl
@[simp] theorem State.withSieves_ringLost (s : State) (v : SMap Engine) : (s.withSieves v).ringLost = s.ringLost := rfl
@[simp] theorem State.withSieves_bells (s : State) (v : SMap Engine) : (s.withSieves v).bells = s.bells := rfl
@[simp] theorem State.withSieves_loader (s : State) (v : SMap Engine) : (s.withSieves v).loader = s.loader := rfl
@[simp] theorem State.withSieves_alm (s : State) (v : SMap Engine) : (s.withSieves v).alm = s.alm := rfl
@[simp] theorem State.withSieves_cue (s : State) (v : SMap Engine) : (s.withSieves v).cue = s.cue := rfl
@[simp] theorem State.withSieves_mer (s : State) (v : SMap Engine) : (s.withSieves v).mer = s.mer := rfl
@[simp] theorem State.withSieves_looms (s : State) (v : SMap Engine) : (s.withSieves v).looms = s.looms := rfl
@[simp] theorem State.withSieves_sieves (s : State) (v : SMap Engine) : (s.withSieves v).sieves = v := rfl
@[simp] theorem State.withSieves_gates (s : State) (v : SMap Engine) : (s.withSieves v).gates = s.gates := rfl
@[simp] theorem State.withSieves_pairs (s : State) (v : SMap Engine) : (s.withSieves v).pairs = s.pairs := rfl
@[simp] theorem State.withSieves_sram (s : State) (v : SMap Engine) : (s.withSieves v).sram = s.sram := rfl
@[simp] theorem State.withSieves_reeves (s : State) (v : SMap Engine) : (s.withSieves v).reeves = s.reeves := rfl
@[simp] theorem State.withSieves_kats (s : State) (v : SMap Engine) : (s.withSieves v).kats = s.kats := rfl
@[simp] theorem State.withSieves_flight (s : State) (v : SMap Engine) : (s.withSieves v).flight = s.flight := rfl
@[simp] theorem State.withSieves_ferry (s : State) (v : SMap Engine) : (s.withSieves v).ferry = s.ferry := rfl
@[simp] theorem State.withSieves_power (s : State) (v : SMap Engine) : (s.withSieves v).power = s.power := rfl
@[simp] theorem State.withSieves_faults (s : State) (v : SMap Engine) : (s.withSieves v).faults = s.faults := rfl
@[simp] theorem State.withSieves_restarts (s : State) (v : SMap Engine) : (s.withSieves v).restarts = s.restarts := rfl
@[simp] theorem State.withSieves_ledger (s : State) (v : SMap Engine) : (s.withSieves v).ledger = s.ledger := rfl
@[simp] theorem State.withSieves_wm (s : State) (v : SMap Engine) : (s.withSieves v).wm = s.wm := rfl
@[simp] theorem State.withSieves_out (s : State) (v : SMap Engine) : (s.withSieves v).out = s.out := rfl
@[simp] theorem State.withGates_pending (s : State) (v : SMap Engine) : (s.withGates v).pending = s.pending := rfl
@[simp] theorem State.withGates_now (s : State) (v : SMap Engine) : (s.withGates v).now = s.now := rfl
@[simp] theorem State.withGates_freeCount (s : State) (v : SMap Engine) : (s.withGates v).freeCount = s.freeCount := rfl
@[simp] theorem State.withGates_fuses (s : State) (v : SMap Engine) : (s.withGates v).fuses = s.fuses := rfl
@[simp] theorem State.withGates_board (s : State) (v : SMap Engine) : (s.withGates v).board = s.board := rfl
@[simp] theorem State.withGates_regs (s : State) (v : SMap Engine) : (s.withGates v).regs = s.regs := rfl
@[simp] theorem State.withGates_guards (s : State) (v : SMap Engine) : (s.withGates v).guards = s.guards := rfl
@[simp] theorem State.withGates_latch (s : State) (v : SMap Engine) : (s.withGates v).latch = s.latch := rfl
@[simp] theorem State.withGates_snaps (s : State) (v : SMap Engine) : (s.withGates v).snaps = s.snaps := rfl
@[simp] theorem State.withGates_mem (s : State) (v : SMap Engine) : (s.withGates v).mem = s.mem := rfl
@[simp] theorem State.withGates_margined (s : State) (v : SMap Engine) : (s.withGates v).margined = s.margined := rfl
@[simp] theorem State.withGates_hbmStacks (s : State) (v : SMap Engine) : (s.withGates v).hbmStacks = s.hbmStacks := rfl
@[simp] theorem State.withGates_fields (s : State) (v : SMap Engine) : (s.withGates v).fields = s.fields := rfl
@[simp] theorem State.withGates_fieldReqs (s : State) (v : SMap Engine) : (s.withGates v).fieldReqs = s.fieldReqs := rfl
@[simp] theorem State.withGates_dma (s : State) (v : SMap Engine) : (s.withGates v).dma = s.dma := rfl
@[simp] theorem State.withGates_dmaLost (s : State) (v : SMap Engine) : (s.withGates v).dmaLost = s.dmaLost := rfl
@[simp] theorem State.withGates_ringLost (s : State) (v : SMap Engine) : (s.withGates v).ringLost = s.ringLost := rfl
@[simp] theorem State.withGates_bells (s : State) (v : SMap Engine) : (s.withGates v).bells = s.bells := rfl
@[simp] theorem State.withGates_loader (s : State) (v : SMap Engine) : (s.withGates v).loader = s.loader := rfl
@[simp] theorem State.withGates_alm (s : State) (v : SMap Engine) : (s.withGates v).alm = s.alm := rfl
@[simp] theorem State.withGates_cue (s : State) (v : SMap Engine) : (s.withGates v).cue = s.cue := rfl
@[simp] theorem State.withGates_mer (s : State) (v : SMap Engine) : (s.withGates v).mer = s.mer := rfl
@[simp] theorem State.withGates_looms (s : State) (v : SMap Engine) : (s.withGates v).looms = s.looms := rfl
@[simp] theorem State.withGates_sieves (s : State) (v : SMap Engine) : (s.withGates v).sieves = s.sieves := rfl
@[simp] theorem State.withGates_gates (s : State) (v : SMap Engine) : (s.withGates v).gates = v := rfl
@[simp] theorem State.withGates_pairs (s : State) (v : SMap Engine) : (s.withGates v).pairs = s.pairs := rfl
@[simp] theorem State.withGates_sram (s : State) (v : SMap Engine) : (s.withGates v).sram = s.sram := rfl
@[simp] theorem State.withGates_reeves (s : State) (v : SMap Engine) : (s.withGates v).reeves = s.reeves := rfl
@[simp] theorem State.withGates_kats (s : State) (v : SMap Engine) : (s.withGates v).kats = s.kats := rfl
@[simp] theorem State.withGates_flight (s : State) (v : SMap Engine) : (s.withGates v).flight = s.flight := rfl
@[simp] theorem State.withGates_ferry (s : State) (v : SMap Engine) : (s.withGates v).ferry = s.ferry := rfl
@[simp] theorem State.withGates_power (s : State) (v : SMap Engine) : (s.withGates v).power = s.power := rfl
@[simp] theorem State.withGates_faults (s : State) (v : SMap Engine) : (s.withGates v).faults = s.faults := rfl
@[simp] theorem State.withGates_restarts (s : State) (v : SMap Engine) : (s.withGates v).restarts = s.restarts := rfl
@[simp] theorem State.withGates_ledger (s : State) (v : SMap Engine) : (s.withGates v).ledger = s.ledger := rfl
@[simp] theorem State.withGates_wm (s : State) (v : SMap Engine) : (s.withGates v).wm = s.wm := rfl
@[simp] theorem State.withGates_out (s : State) (v : SMap Engine) : (s.withGates v).out = s.out := rfl
@[simp] theorem State.withPairs_pending (s : State) (v : SMap Pair) : (s.withPairs v).pending = s.pending := rfl
@[simp] theorem State.withPairs_now (s : State) (v : SMap Pair) : (s.withPairs v).now = s.now := rfl
@[simp] theorem State.withPairs_freeCount (s : State) (v : SMap Pair) : (s.withPairs v).freeCount = s.freeCount := rfl
@[simp] theorem State.withPairs_fuses (s : State) (v : SMap Pair) : (s.withPairs v).fuses = s.fuses := rfl
@[simp] theorem State.withPairs_board (s : State) (v : SMap Pair) : (s.withPairs v).board = s.board := rfl
@[simp] theorem State.withPairs_regs (s : State) (v : SMap Pair) : (s.withPairs v).regs = s.regs := rfl
@[simp] theorem State.withPairs_guards (s : State) (v : SMap Pair) : (s.withPairs v).guards = s.guards := rfl
@[simp] theorem State.withPairs_latch (s : State) (v : SMap Pair) : (s.withPairs v).latch = s.latch := rfl
@[simp] theorem State.withPairs_snaps (s : State) (v : SMap Pair) : (s.withPairs v).snaps = s.snaps := rfl
@[simp] theorem State.withPairs_mem (s : State) (v : SMap Pair) : (s.withPairs v).mem = s.mem := rfl
@[simp] theorem State.withPairs_margined (s : State) (v : SMap Pair) : (s.withPairs v).margined = s.margined := rfl
@[simp] theorem State.withPairs_hbmStacks (s : State) (v : SMap Pair) : (s.withPairs v).hbmStacks = s.hbmStacks := rfl
@[simp] theorem State.withPairs_fields (s : State) (v : SMap Pair) : (s.withPairs v).fields = s.fields := rfl
@[simp] theorem State.withPairs_fieldReqs (s : State) (v : SMap Pair) : (s.withPairs v).fieldReqs = s.fieldReqs := rfl
@[simp] theorem State.withPairs_dma (s : State) (v : SMap Pair) : (s.withPairs v).dma = s.dma := rfl
@[simp] theorem State.withPairs_dmaLost (s : State) (v : SMap Pair) : (s.withPairs v).dmaLost = s.dmaLost := rfl
@[simp] theorem State.withPairs_ringLost (s : State) (v : SMap Pair) : (s.withPairs v).ringLost = s.ringLost := rfl
@[simp] theorem State.withPairs_bells (s : State) (v : SMap Pair) : (s.withPairs v).bells = s.bells := rfl
@[simp] theorem State.withPairs_loader (s : State) (v : SMap Pair) : (s.withPairs v).loader = s.loader := rfl
@[simp] theorem State.withPairs_alm (s : State) (v : SMap Pair) : (s.withPairs v).alm = s.alm := rfl
@[simp] theorem State.withPairs_cue (s : State) (v : SMap Pair) : (s.withPairs v).cue = s.cue := rfl
@[simp] theorem State.withPairs_mer (s : State) (v : SMap Pair) : (s.withPairs v).mer = s.mer := rfl
@[simp] theorem State.withPairs_looms (s : State) (v : SMap Pair) : (s.withPairs v).looms = s.looms := rfl
@[simp] theorem State.withPairs_sieves (s : State) (v : SMap Pair) : (s.withPairs v).sieves = s.sieves := rfl
@[simp] theorem State.withPairs_gates (s : State) (v : SMap Pair) : (s.withPairs v).gates = s.gates := rfl
@[simp] theorem State.withPairs_pairs (s : State) (v : SMap Pair) : (s.withPairs v).pairs = v := rfl
@[simp] theorem State.withPairs_sram (s : State) (v : SMap Pair) : (s.withPairs v).sram = s.sram := rfl
@[simp] theorem State.withPairs_reeves (s : State) (v : SMap Pair) : (s.withPairs v).reeves = s.reeves := rfl
@[simp] theorem State.withPairs_kats (s : State) (v : SMap Pair) : (s.withPairs v).kats = s.kats := rfl
@[simp] theorem State.withPairs_flight (s : State) (v : SMap Pair) : (s.withPairs v).flight = s.flight := rfl
@[simp] theorem State.withPairs_ferry (s : State) (v : SMap Pair) : (s.withPairs v).ferry = s.ferry := rfl
@[simp] theorem State.withPairs_power (s : State) (v : SMap Pair) : (s.withPairs v).power = s.power := rfl
@[simp] theorem State.withPairs_faults (s : State) (v : SMap Pair) : (s.withPairs v).faults = s.faults := rfl
@[simp] theorem State.withPairs_restarts (s : State) (v : SMap Pair) : (s.withPairs v).restarts = s.restarts := rfl
@[simp] theorem State.withPairs_ledger (s : State) (v : SMap Pair) : (s.withPairs v).ledger = s.ledger := rfl
@[simp] theorem State.withPairs_wm (s : State) (v : SMap Pair) : (s.withPairs v).wm = s.wm := rfl
@[simp] theorem State.withPairs_out (s : State) (v : SMap Pair) : (s.withPairs v).out = s.out := rfl
@[simp] theorem State.withSram_pending (s : State) (v : SMap TData) : (s.withSram v).pending = s.pending := rfl
@[simp] theorem State.withSram_now (s : State) (v : SMap TData) : (s.withSram v).now = s.now := rfl
@[simp] theorem State.withSram_freeCount (s : State) (v : SMap TData) : (s.withSram v).freeCount = s.freeCount := rfl
@[simp] theorem State.withSram_fuses (s : State) (v : SMap TData) : (s.withSram v).fuses = s.fuses := rfl
@[simp] theorem State.withSram_board (s : State) (v : SMap TData) : (s.withSram v).board = s.board := rfl
@[simp] theorem State.withSram_regs (s : State) (v : SMap TData) : (s.withSram v).regs = s.regs := rfl
@[simp] theorem State.withSram_guards (s : State) (v : SMap TData) : (s.withSram v).guards = s.guards := rfl
@[simp] theorem State.withSram_latch (s : State) (v : SMap TData) : (s.withSram v).latch = s.latch := rfl
@[simp] theorem State.withSram_snaps (s : State) (v : SMap TData) : (s.withSram v).snaps = s.snaps := rfl
@[simp] theorem State.withSram_mem (s : State) (v : SMap TData) : (s.withSram v).mem = s.mem := rfl
@[simp] theorem State.withSram_margined (s : State) (v : SMap TData) : (s.withSram v).margined = s.margined := rfl
@[simp] theorem State.withSram_hbmStacks (s : State) (v : SMap TData) : (s.withSram v).hbmStacks = s.hbmStacks := rfl
@[simp] theorem State.withSram_fields (s : State) (v : SMap TData) : (s.withSram v).fields = s.fields := rfl
@[simp] theorem State.withSram_fieldReqs (s : State) (v : SMap TData) : (s.withSram v).fieldReqs = s.fieldReqs := rfl
@[simp] theorem State.withSram_dma (s : State) (v : SMap TData) : (s.withSram v).dma = s.dma := rfl
@[simp] theorem State.withSram_dmaLost (s : State) (v : SMap TData) : (s.withSram v).dmaLost = s.dmaLost := rfl
@[simp] theorem State.withSram_ringLost (s : State) (v : SMap TData) : (s.withSram v).ringLost = s.ringLost := rfl
@[simp] theorem State.withSram_bells (s : State) (v : SMap TData) : (s.withSram v).bells = s.bells := rfl
@[simp] theorem State.withSram_loader (s : State) (v : SMap TData) : (s.withSram v).loader = s.loader := rfl
@[simp] theorem State.withSram_alm (s : State) (v : SMap TData) : (s.withSram v).alm = s.alm := rfl
@[simp] theorem State.withSram_cue (s : State) (v : SMap TData) : (s.withSram v).cue = s.cue := rfl
@[simp] theorem State.withSram_mer (s : State) (v : SMap TData) : (s.withSram v).mer = s.mer := rfl
@[simp] theorem State.withSram_looms (s : State) (v : SMap TData) : (s.withSram v).looms = s.looms := rfl
@[simp] theorem State.withSram_sieves (s : State) (v : SMap TData) : (s.withSram v).sieves = s.sieves := rfl
@[simp] theorem State.withSram_gates (s : State) (v : SMap TData) : (s.withSram v).gates = s.gates := rfl
@[simp] theorem State.withSram_pairs (s : State) (v : SMap TData) : (s.withSram v).pairs = s.pairs := rfl
@[simp] theorem State.withSram_sram (s : State) (v : SMap TData) : (s.withSram v).sram = v := rfl
@[simp] theorem State.withSram_reeves (s : State) (v : SMap TData) : (s.withSram v).reeves = s.reeves := rfl
@[simp] theorem State.withSram_kats (s : State) (v : SMap TData) : (s.withSram v).kats = s.kats := rfl
@[simp] theorem State.withSram_flight (s : State) (v : SMap TData) : (s.withSram v).flight = s.flight := rfl
@[simp] theorem State.withSram_ferry (s : State) (v : SMap TData) : (s.withSram v).ferry = s.ferry := rfl
@[simp] theorem State.withSram_power (s : State) (v : SMap TData) : (s.withSram v).power = s.power := rfl
@[simp] theorem State.withSram_faults (s : State) (v : SMap TData) : (s.withSram v).faults = s.faults := rfl
@[simp] theorem State.withSram_restarts (s : State) (v : SMap TData) : (s.withSram v).restarts = s.restarts := rfl
@[simp] theorem State.withSram_ledger (s : State) (v : SMap TData) : (s.withSram v).ledger = s.ledger := rfl
@[simp] theorem State.withSram_wm (s : State) (v : SMap TData) : (s.withSram v).wm = s.wm := rfl
@[simp] theorem State.withSram_out (s : State) (v : SMap TData) : (s.withSram v).out = s.out := rfl
@[simp] theorem State.withReeves_pending (s : State) (v : SMap Reeve) : (s.withReeves v).pending = s.pending := rfl
@[simp] theorem State.withReeves_now (s : State) (v : SMap Reeve) : (s.withReeves v).now = s.now := rfl
@[simp] theorem State.withReeves_freeCount (s : State) (v : SMap Reeve) : (s.withReeves v).freeCount = s.freeCount := rfl
@[simp] theorem State.withReeves_fuses (s : State) (v : SMap Reeve) : (s.withReeves v).fuses = s.fuses := rfl
@[simp] theorem State.withReeves_board (s : State) (v : SMap Reeve) : (s.withReeves v).board = s.board := rfl
@[simp] theorem State.withReeves_regs (s : State) (v : SMap Reeve) : (s.withReeves v).regs = s.regs := rfl
@[simp] theorem State.withReeves_guards (s : State) (v : SMap Reeve) : (s.withReeves v).guards = s.guards := rfl
@[simp] theorem State.withReeves_latch (s : State) (v : SMap Reeve) : (s.withReeves v).latch = s.latch := rfl
@[simp] theorem State.withReeves_snaps (s : State) (v : SMap Reeve) : (s.withReeves v).snaps = s.snaps := rfl
@[simp] theorem State.withReeves_mem (s : State) (v : SMap Reeve) : (s.withReeves v).mem = s.mem := rfl
@[simp] theorem State.withReeves_margined (s : State) (v : SMap Reeve) : (s.withReeves v).margined = s.margined := rfl
@[simp] theorem State.withReeves_hbmStacks (s : State) (v : SMap Reeve) : (s.withReeves v).hbmStacks = s.hbmStacks := rfl
@[simp] theorem State.withReeves_fields (s : State) (v : SMap Reeve) : (s.withReeves v).fields = s.fields := rfl
@[simp] theorem State.withReeves_fieldReqs (s : State) (v : SMap Reeve) : (s.withReeves v).fieldReqs = s.fieldReqs := rfl
@[simp] theorem State.withReeves_dma (s : State) (v : SMap Reeve) : (s.withReeves v).dma = s.dma := rfl
@[simp] theorem State.withReeves_dmaLost (s : State) (v : SMap Reeve) : (s.withReeves v).dmaLost = s.dmaLost := rfl
@[simp] theorem State.withReeves_ringLost (s : State) (v : SMap Reeve) : (s.withReeves v).ringLost = s.ringLost := rfl
@[simp] theorem State.withReeves_bells (s : State) (v : SMap Reeve) : (s.withReeves v).bells = s.bells := rfl
@[simp] theorem State.withReeves_loader (s : State) (v : SMap Reeve) : (s.withReeves v).loader = s.loader := rfl
@[simp] theorem State.withReeves_alm (s : State) (v : SMap Reeve) : (s.withReeves v).alm = s.alm := rfl
@[simp] theorem State.withReeves_cue (s : State) (v : SMap Reeve) : (s.withReeves v).cue = s.cue := rfl
@[simp] theorem State.withReeves_mer (s : State) (v : SMap Reeve) : (s.withReeves v).mer = s.mer := rfl
@[simp] theorem State.withReeves_looms (s : State) (v : SMap Reeve) : (s.withReeves v).looms = s.looms := rfl
@[simp] theorem State.withReeves_sieves (s : State) (v : SMap Reeve) : (s.withReeves v).sieves = s.sieves := rfl
@[simp] theorem State.withReeves_gates (s : State) (v : SMap Reeve) : (s.withReeves v).gates = s.gates := rfl
@[simp] theorem State.withReeves_pairs (s : State) (v : SMap Reeve) : (s.withReeves v).pairs = s.pairs := rfl
@[simp] theorem State.withReeves_sram (s : State) (v : SMap Reeve) : (s.withReeves v).sram = s.sram := rfl
@[simp] theorem State.withReeves_reeves (s : State) (v : SMap Reeve) : (s.withReeves v).reeves = v := rfl
@[simp] theorem State.withReeves_kats (s : State) (v : SMap Reeve) : (s.withReeves v).kats = s.kats := rfl
@[simp] theorem State.withReeves_flight (s : State) (v : SMap Reeve) : (s.withReeves v).flight = s.flight := rfl
@[simp] theorem State.withReeves_ferry (s : State) (v : SMap Reeve) : (s.withReeves v).ferry = s.ferry := rfl
@[simp] theorem State.withReeves_power (s : State) (v : SMap Reeve) : (s.withReeves v).power = s.power := rfl
@[simp] theorem State.withReeves_faults (s : State) (v : SMap Reeve) : (s.withReeves v).faults = s.faults := rfl
@[simp] theorem State.withReeves_restarts (s : State) (v : SMap Reeve) : (s.withReeves v).restarts = s.restarts := rfl
@[simp] theorem State.withReeves_ledger (s : State) (v : SMap Reeve) : (s.withReeves v).ledger = s.ledger := rfl
@[simp] theorem State.withReeves_wm (s : State) (v : SMap Reeve) : (s.withReeves v).wm = s.wm := rfl
@[simp] theorem State.withReeves_out (s : State) (v : SMap Reeve) : (s.withReeves v).out = s.out := rfl
@[simp] theorem State.withKats_pending (s : State) (v : SMap (Option KatRun)) : (s.withKats v).pending = s.pending := rfl
@[simp] theorem State.withKats_now (s : State) (v : SMap (Option KatRun)) : (s.withKats v).now = s.now := rfl
@[simp] theorem State.withKats_freeCount (s : State) (v : SMap (Option KatRun)) : (s.withKats v).freeCount = s.freeCount := rfl
@[simp] theorem State.withKats_fuses (s : State) (v : SMap (Option KatRun)) : (s.withKats v).fuses = s.fuses := rfl
@[simp] theorem State.withKats_board (s : State) (v : SMap (Option KatRun)) : (s.withKats v).board = s.board := rfl
@[simp] theorem State.withKats_regs (s : State) (v : SMap (Option KatRun)) : (s.withKats v).regs = s.regs := rfl
@[simp] theorem State.withKats_guards (s : State) (v : SMap (Option KatRun)) : (s.withKats v).guards = s.guards := rfl
@[simp] theorem State.withKats_latch (s : State) (v : SMap (Option KatRun)) : (s.withKats v).latch = s.latch := rfl
@[simp] theorem State.withKats_snaps (s : State) (v : SMap (Option KatRun)) : (s.withKats v).snaps = s.snaps := rfl
@[simp] theorem State.withKats_mem (s : State) (v : SMap (Option KatRun)) : (s.withKats v).mem = s.mem := rfl
@[simp] theorem State.withKats_margined (s : State) (v : SMap (Option KatRun)) : (s.withKats v).margined = s.margined := rfl
@[simp] theorem State.withKats_hbmStacks (s : State) (v : SMap (Option KatRun)) : (s.withKats v).hbmStacks = s.hbmStacks := rfl
@[simp] theorem State.withKats_fields (s : State) (v : SMap (Option KatRun)) : (s.withKats v).fields = s.fields := rfl
@[simp] theorem State.withKats_fieldReqs (s : State) (v : SMap (Option KatRun)) : (s.withKats v).fieldReqs = s.fieldReqs := rfl
@[simp] theorem State.withKats_dma (s : State) (v : SMap (Option KatRun)) : (s.withKats v).dma = s.dma := rfl
@[simp] theorem State.withKats_dmaLost (s : State) (v : SMap (Option KatRun)) : (s.withKats v).dmaLost = s.dmaLost := rfl
@[simp] theorem State.withKats_ringLost (s : State) (v : SMap (Option KatRun)) : (s.withKats v).ringLost = s.ringLost := rfl
@[simp] theorem State.withKats_bells (s : State) (v : SMap (Option KatRun)) : (s.withKats v).bells = s.bells := rfl
@[simp] theorem State.withKats_loader (s : State) (v : SMap (Option KatRun)) : (s.withKats v).loader = s.loader := rfl
@[simp] theorem State.withKats_alm (s : State) (v : SMap (Option KatRun)) : (s.withKats v).alm = s.alm := rfl
@[simp] theorem State.withKats_cue (s : State) (v : SMap (Option KatRun)) : (s.withKats v).cue = s.cue := rfl
@[simp] theorem State.withKats_mer (s : State) (v : SMap (Option KatRun)) : (s.withKats v).mer = s.mer := rfl
@[simp] theorem State.withKats_looms (s : State) (v : SMap (Option KatRun)) : (s.withKats v).looms = s.looms := rfl
@[simp] theorem State.withKats_sieves (s : State) (v : SMap (Option KatRun)) : (s.withKats v).sieves = s.sieves := rfl
@[simp] theorem State.withKats_gates (s : State) (v : SMap (Option KatRun)) : (s.withKats v).gates = s.gates := rfl
@[simp] theorem State.withKats_pairs (s : State) (v : SMap (Option KatRun)) : (s.withKats v).pairs = s.pairs := rfl
@[simp] theorem State.withKats_sram (s : State) (v : SMap (Option KatRun)) : (s.withKats v).sram = s.sram := rfl
@[simp] theorem State.withKats_reeves (s : State) (v : SMap (Option KatRun)) : (s.withKats v).reeves = s.reeves := rfl
@[simp] theorem State.withKats_kats (s : State) (v : SMap (Option KatRun)) : (s.withKats v).kats = v := rfl
@[simp] theorem State.withKats_flight (s : State) (v : SMap (Option KatRun)) : (s.withKats v).flight = s.flight := rfl
@[simp] theorem State.withKats_ferry (s : State) (v : SMap (Option KatRun)) : (s.withKats v).ferry = s.ferry := rfl
@[simp] theorem State.withKats_power (s : State) (v : SMap (Option KatRun)) : (s.withKats v).power = s.power := rfl
@[simp] theorem State.withKats_faults (s : State) (v : SMap (Option KatRun)) : (s.withKats v).faults = s.faults := rfl
@[simp] theorem State.withKats_restarts (s : State) (v : SMap (Option KatRun)) : (s.withKats v).restarts = s.restarts := rfl
@[simp] theorem State.withKats_ledger (s : State) (v : SMap (Option KatRun)) : (s.withKats v).ledger = s.ledger := rfl
@[simp] theorem State.withKats_wm (s : State) (v : SMap (Option KatRun)) : (s.withKats v).wm = s.wm := rfl
@[simp] theorem State.withKats_out (s : State) (v : SMap (Option KatRun)) : (s.withKats v).out = s.out := rfl
@[simp] theorem State.withFlight_pending (s : State) (v : List (Nat × Tile)) : (s.withFlight v).pending = s.pending := rfl
@[simp] theorem State.withFlight_now (s : State) (v : List (Nat × Tile)) : (s.withFlight v).now = s.now := rfl
@[simp] theorem State.withFlight_freeCount (s : State) (v : List (Nat × Tile)) : (s.withFlight v).freeCount = s.freeCount := rfl
@[simp] theorem State.withFlight_fuses (s : State) (v : List (Nat × Tile)) : (s.withFlight v).fuses = s.fuses := rfl
@[simp] theorem State.withFlight_board (s : State) (v : List (Nat × Tile)) : (s.withFlight v).board = s.board := rfl
@[simp] theorem State.withFlight_regs (s : State) (v : List (Nat × Tile)) : (s.withFlight v).regs = s.regs := rfl
@[simp] theorem State.withFlight_guards (s : State) (v : List (Nat × Tile)) : (s.withFlight v).guards = s.guards := rfl
@[simp] theorem State.withFlight_latch (s : State) (v : List (Nat × Tile)) : (s.withFlight v).latch = s.latch := rfl
@[simp] theorem State.withFlight_snaps (s : State) (v : List (Nat × Tile)) : (s.withFlight v).snaps = s.snaps := rfl
@[simp] theorem State.withFlight_mem (s : State) (v : List (Nat × Tile)) : (s.withFlight v).mem = s.mem := rfl
@[simp] theorem State.withFlight_margined (s : State) (v : List (Nat × Tile)) : (s.withFlight v).margined = s.margined := rfl
@[simp] theorem State.withFlight_hbmStacks (s : State) (v : List (Nat × Tile)) : (s.withFlight v).hbmStacks = s.hbmStacks := rfl
@[simp] theorem State.withFlight_fields (s : State) (v : List (Nat × Tile)) : (s.withFlight v).fields = s.fields := rfl
@[simp] theorem State.withFlight_fieldReqs (s : State) (v : List (Nat × Tile)) : (s.withFlight v).fieldReqs = s.fieldReqs := rfl
@[simp] theorem State.withFlight_dma (s : State) (v : List (Nat × Tile)) : (s.withFlight v).dma = s.dma := rfl
@[simp] theorem State.withFlight_dmaLost (s : State) (v : List (Nat × Tile)) : (s.withFlight v).dmaLost = s.dmaLost := rfl
@[simp] theorem State.withFlight_ringLost (s : State) (v : List (Nat × Tile)) : (s.withFlight v).ringLost = s.ringLost := rfl
@[simp] theorem State.withFlight_bells (s : State) (v : List (Nat × Tile)) : (s.withFlight v).bells = s.bells := rfl
@[simp] theorem State.withFlight_loader (s : State) (v : List (Nat × Tile)) : (s.withFlight v).loader = s.loader := rfl
@[simp] theorem State.withFlight_alm (s : State) (v : List (Nat × Tile)) : (s.withFlight v).alm = s.alm := rfl
@[simp] theorem State.withFlight_cue (s : State) (v : List (Nat × Tile)) : (s.withFlight v).cue = s.cue := rfl
@[simp] theorem State.withFlight_mer (s : State) (v : List (Nat × Tile)) : (s.withFlight v).mer = s.mer := rfl
@[simp] theorem State.withFlight_looms (s : State) (v : List (Nat × Tile)) : (s.withFlight v).looms = s.looms := rfl
@[simp] theorem State.withFlight_sieves (s : State) (v : List (Nat × Tile)) : (s.withFlight v).sieves = s.sieves := rfl
@[simp] theorem State.withFlight_gates (s : State) (v : List (Nat × Tile)) : (s.withFlight v).gates = s.gates := rfl
@[simp] theorem State.withFlight_pairs (s : State) (v : List (Nat × Tile)) : (s.withFlight v).pairs = s.pairs := rfl
@[simp] theorem State.withFlight_sram (s : State) (v : List (Nat × Tile)) : (s.withFlight v).sram = s.sram := rfl
@[simp] theorem State.withFlight_reeves (s : State) (v : List (Nat × Tile)) : (s.withFlight v).reeves = s.reeves := rfl
@[simp] theorem State.withFlight_kats (s : State) (v : List (Nat × Tile)) : (s.withFlight v).kats = s.kats := rfl
@[simp] theorem State.withFlight_flight (s : State) (v : List (Nat × Tile)) : (s.withFlight v).flight = v := rfl
@[simp] theorem State.withFlight_ferry (s : State) (v : List (Nat × Tile)) : (s.withFlight v).ferry = s.ferry := rfl
@[simp] theorem State.withFlight_power (s : State) (v : List (Nat × Tile)) : (s.withFlight v).power = s.power := rfl
@[simp] theorem State.withFlight_faults (s : State) (v : List (Nat × Tile)) : (s.withFlight v).faults = s.faults := rfl
@[simp] theorem State.withFlight_restarts (s : State) (v : List (Nat × Tile)) : (s.withFlight v).restarts = s.restarts := rfl
@[simp] theorem State.withFlight_ledger (s : State) (v : List (Nat × Tile)) : (s.withFlight v).ledger = s.ledger := rfl
@[simp] theorem State.withFlight_wm (s : State) (v : List (Nat × Tile)) : (s.withFlight v).wm = s.wm := rfl
@[simp] theorem State.withFlight_out (s : State) (v : List (Nat × Tile)) : (s.withFlight v).out = s.out := rfl
@[simp] theorem State.withFerry_pending (s : State) (v : Ferry) : (s.withFerry v).pending = s.pending := rfl
@[simp] theorem State.withFerry_now (s : State) (v : Ferry) : (s.withFerry v).now = s.now := rfl
@[simp] theorem State.withFerry_freeCount (s : State) (v : Ferry) : (s.withFerry v).freeCount = s.freeCount := rfl
@[simp] theorem State.withFerry_fuses (s : State) (v : Ferry) : (s.withFerry v).fuses = s.fuses := rfl
@[simp] theorem State.withFerry_board (s : State) (v : Ferry) : (s.withFerry v).board = s.board := rfl
@[simp] theorem State.withFerry_regs (s : State) (v : Ferry) : (s.withFerry v).regs = s.regs := rfl
@[simp] theorem State.withFerry_guards (s : State) (v : Ferry) : (s.withFerry v).guards = s.guards := rfl
@[simp] theorem State.withFerry_latch (s : State) (v : Ferry) : (s.withFerry v).latch = s.latch := rfl
@[simp] theorem State.withFerry_snaps (s : State) (v : Ferry) : (s.withFerry v).snaps = s.snaps := rfl
@[simp] theorem State.withFerry_mem (s : State) (v : Ferry) : (s.withFerry v).mem = s.mem := rfl
@[simp] theorem State.withFerry_margined (s : State) (v : Ferry) : (s.withFerry v).margined = s.margined := rfl
@[simp] theorem State.withFerry_hbmStacks (s : State) (v : Ferry) : (s.withFerry v).hbmStacks = s.hbmStacks := rfl
@[simp] theorem State.withFerry_fields (s : State) (v : Ferry) : (s.withFerry v).fields = s.fields := rfl
@[simp] theorem State.withFerry_fieldReqs (s : State) (v : Ferry) : (s.withFerry v).fieldReqs = s.fieldReqs := rfl
@[simp] theorem State.withFerry_dma (s : State) (v : Ferry) : (s.withFerry v).dma = s.dma := rfl
@[simp] theorem State.withFerry_dmaLost (s : State) (v : Ferry) : (s.withFerry v).dmaLost = s.dmaLost := rfl
@[simp] theorem State.withFerry_ringLost (s : State) (v : Ferry) : (s.withFerry v).ringLost = s.ringLost := rfl
@[simp] theorem State.withFerry_bells (s : State) (v : Ferry) : (s.withFerry v).bells = s.bells := rfl
@[simp] theorem State.withFerry_loader (s : State) (v : Ferry) : (s.withFerry v).loader = s.loader := rfl
@[simp] theorem State.withFerry_alm (s : State) (v : Ferry) : (s.withFerry v).alm = s.alm := rfl
@[simp] theorem State.withFerry_cue (s : State) (v : Ferry) : (s.withFerry v).cue = s.cue := rfl
@[simp] theorem State.withFerry_mer (s : State) (v : Ferry) : (s.withFerry v).mer = s.mer := rfl
@[simp] theorem State.withFerry_looms (s : State) (v : Ferry) : (s.withFerry v).looms = s.looms := rfl
@[simp] theorem State.withFerry_sieves (s : State) (v : Ferry) : (s.withFerry v).sieves = s.sieves := rfl
@[simp] theorem State.withFerry_gates (s : State) (v : Ferry) : (s.withFerry v).gates = s.gates := rfl
@[simp] theorem State.withFerry_pairs (s : State) (v : Ferry) : (s.withFerry v).pairs = s.pairs := rfl
@[simp] theorem State.withFerry_sram (s : State) (v : Ferry) : (s.withFerry v).sram = s.sram := rfl
@[simp] theorem State.withFerry_reeves (s : State) (v : Ferry) : (s.withFerry v).reeves = s.reeves := rfl
@[simp] theorem State.withFerry_kats (s : State) (v : Ferry) : (s.withFerry v).kats = s.kats := rfl
@[simp] theorem State.withFerry_flight (s : State) (v : Ferry) : (s.withFerry v).flight = s.flight := rfl
@[simp] theorem State.withFerry_ferry (s : State) (v : Ferry) : (s.withFerry v).ferry = v := rfl
@[simp] theorem State.withFerry_power (s : State) (v : Ferry) : (s.withFerry v).power = s.power := rfl
@[simp] theorem State.withFerry_faults (s : State) (v : Ferry) : (s.withFerry v).faults = s.faults := rfl
@[simp] theorem State.withFerry_restarts (s : State) (v : Ferry) : (s.withFerry v).restarts = s.restarts := rfl
@[simp] theorem State.withFerry_ledger (s : State) (v : Ferry) : (s.withFerry v).ledger = s.ledger := rfl
@[simp] theorem State.withFerry_wm (s : State) (v : Ferry) : (s.withFerry v).wm = s.wm := rfl
@[simp] theorem State.withFerry_out (s : State) (v : Ferry) : (s.withFerry v).out = s.out := rfl
@[simp] theorem State.withPower_pending (s : State) (v : Power) : (s.withPower v).pending = s.pending := rfl
@[simp] theorem State.withPower_now (s : State) (v : Power) : (s.withPower v).now = s.now := rfl
@[simp] theorem State.withPower_freeCount (s : State) (v : Power) : (s.withPower v).freeCount = s.freeCount := rfl
@[simp] theorem State.withPower_fuses (s : State) (v : Power) : (s.withPower v).fuses = s.fuses := rfl
@[simp] theorem State.withPower_board (s : State) (v : Power) : (s.withPower v).board = s.board := rfl
@[simp] theorem State.withPower_regs (s : State) (v : Power) : (s.withPower v).regs = s.regs := rfl
@[simp] theorem State.withPower_guards (s : State) (v : Power) : (s.withPower v).guards = s.guards := rfl
@[simp] theorem State.withPower_latch (s : State) (v : Power) : (s.withPower v).latch = s.latch := rfl
@[simp] theorem State.withPower_snaps (s : State) (v : Power) : (s.withPower v).snaps = s.snaps := rfl
@[simp] theorem State.withPower_mem (s : State) (v : Power) : (s.withPower v).mem = s.mem := rfl
@[simp] theorem State.withPower_margined (s : State) (v : Power) : (s.withPower v).margined = s.margined := rfl
@[simp] theorem State.withPower_hbmStacks (s : State) (v : Power) : (s.withPower v).hbmStacks = s.hbmStacks := rfl
@[simp] theorem State.withPower_fields (s : State) (v : Power) : (s.withPower v).fields = s.fields := rfl
@[simp] theorem State.withPower_fieldReqs (s : State) (v : Power) : (s.withPower v).fieldReqs = s.fieldReqs := rfl
@[simp] theorem State.withPower_dma (s : State) (v : Power) : (s.withPower v).dma = s.dma := rfl
@[simp] theorem State.withPower_dmaLost (s : State) (v : Power) : (s.withPower v).dmaLost = s.dmaLost := rfl
@[simp] theorem State.withPower_ringLost (s : State) (v : Power) : (s.withPower v).ringLost = s.ringLost := rfl
@[simp] theorem State.withPower_bells (s : State) (v : Power) : (s.withPower v).bells = s.bells := rfl
@[simp] theorem State.withPower_loader (s : State) (v : Power) : (s.withPower v).loader = s.loader := rfl
@[simp] theorem State.withPower_alm (s : State) (v : Power) : (s.withPower v).alm = s.alm := rfl
@[simp] theorem State.withPower_cue (s : State) (v : Power) : (s.withPower v).cue = s.cue := rfl
@[simp] theorem State.withPower_mer (s : State) (v : Power) : (s.withPower v).mer = s.mer := rfl
@[simp] theorem State.withPower_looms (s : State) (v : Power) : (s.withPower v).looms = s.looms := rfl
@[simp] theorem State.withPower_sieves (s : State) (v : Power) : (s.withPower v).sieves = s.sieves := rfl
@[simp] theorem State.withPower_gates (s : State) (v : Power) : (s.withPower v).gates = s.gates := rfl
@[simp] theorem State.withPower_pairs (s : State) (v : Power) : (s.withPower v).pairs = s.pairs := rfl
@[simp] theorem State.withPower_sram (s : State) (v : Power) : (s.withPower v).sram = s.sram := rfl
@[simp] theorem State.withPower_reeves (s : State) (v : Power) : (s.withPower v).reeves = s.reeves := rfl
@[simp] theorem State.withPower_kats (s : State) (v : Power) : (s.withPower v).kats = s.kats := rfl
@[simp] theorem State.withPower_flight (s : State) (v : Power) : (s.withPower v).flight = s.flight := rfl
@[simp] theorem State.withPower_ferry (s : State) (v : Power) : (s.withPower v).ferry = s.ferry := rfl
@[simp] theorem State.withPower_power (s : State) (v : Power) : (s.withPower v).power = v := rfl
@[simp] theorem State.withPower_faults (s : State) (v : Power) : (s.withPower v).faults = s.faults := rfl
@[simp] theorem State.withPower_restarts (s : State) (v : Power) : (s.withPower v).restarts = s.restarts := rfl
@[simp] theorem State.withPower_ledger (s : State) (v : Power) : (s.withPower v).ledger = s.ledger := rfl
@[simp] theorem State.withPower_wm (s : State) (v : Power) : (s.withPower v).wm = s.wm := rfl
@[simp] theorem State.withPower_out (s : State) (v : Power) : (s.withPower v).out = s.out := rfl
@[simp] theorem State.withFaults_pending (s : State) (v : List FaultRec) : (s.withFaults v).pending = s.pending := rfl
@[simp] theorem State.withFaults_now (s : State) (v : List FaultRec) : (s.withFaults v).now = s.now := rfl
@[simp] theorem State.withFaults_freeCount (s : State) (v : List FaultRec) : (s.withFaults v).freeCount = s.freeCount := rfl
@[simp] theorem State.withFaults_fuses (s : State) (v : List FaultRec) : (s.withFaults v).fuses = s.fuses := rfl
@[simp] theorem State.withFaults_board (s : State) (v : List FaultRec) : (s.withFaults v).board = s.board := rfl
@[simp] theorem State.withFaults_regs (s : State) (v : List FaultRec) : (s.withFaults v).regs = s.regs := rfl
@[simp] theorem State.withFaults_guards (s : State) (v : List FaultRec) : (s.withFaults v).guards = s.guards := rfl
@[simp] theorem State.withFaults_latch (s : State) (v : List FaultRec) : (s.withFaults v).latch = s.latch := rfl
@[simp] theorem State.withFaults_snaps (s : State) (v : List FaultRec) : (s.withFaults v).snaps = s.snaps := rfl
@[simp] theorem State.withFaults_mem (s : State) (v : List FaultRec) : (s.withFaults v).mem = s.mem := rfl
@[simp] theorem State.withFaults_margined (s : State) (v : List FaultRec) : (s.withFaults v).margined = s.margined := rfl
@[simp] theorem State.withFaults_hbmStacks (s : State) (v : List FaultRec) : (s.withFaults v).hbmStacks = s.hbmStacks := rfl
@[simp] theorem State.withFaults_fields (s : State) (v : List FaultRec) : (s.withFaults v).fields = s.fields := rfl
@[simp] theorem State.withFaults_fieldReqs (s : State) (v : List FaultRec) : (s.withFaults v).fieldReqs = s.fieldReqs := rfl
@[simp] theorem State.withFaults_dma (s : State) (v : List FaultRec) : (s.withFaults v).dma = s.dma := rfl
@[simp] theorem State.withFaults_dmaLost (s : State) (v : List FaultRec) : (s.withFaults v).dmaLost = s.dmaLost := rfl
@[simp] theorem State.withFaults_ringLost (s : State) (v : List FaultRec) : (s.withFaults v).ringLost = s.ringLost := rfl
@[simp] theorem State.withFaults_bells (s : State) (v : List FaultRec) : (s.withFaults v).bells = s.bells := rfl
@[simp] theorem State.withFaults_loader (s : State) (v : List FaultRec) : (s.withFaults v).loader = s.loader := rfl
@[simp] theorem State.withFaults_alm (s : State) (v : List FaultRec) : (s.withFaults v).alm = s.alm := rfl
@[simp] theorem State.withFaults_cue (s : State) (v : List FaultRec) : (s.withFaults v).cue = s.cue := rfl
@[simp] theorem State.withFaults_mer (s : State) (v : List FaultRec) : (s.withFaults v).mer = s.mer := rfl
@[simp] theorem State.withFaults_looms (s : State) (v : List FaultRec) : (s.withFaults v).looms = s.looms := rfl
@[simp] theorem State.withFaults_sieves (s : State) (v : List FaultRec) : (s.withFaults v).sieves = s.sieves := rfl
@[simp] theorem State.withFaults_gates (s : State) (v : List FaultRec) : (s.withFaults v).gates = s.gates := rfl
@[simp] theorem State.withFaults_pairs (s : State) (v : List FaultRec) : (s.withFaults v).pairs = s.pairs := rfl
@[simp] theorem State.withFaults_sram (s : State) (v : List FaultRec) : (s.withFaults v).sram = s.sram := rfl
@[simp] theorem State.withFaults_reeves (s : State) (v : List FaultRec) : (s.withFaults v).reeves = s.reeves := rfl
@[simp] theorem State.withFaults_kats (s : State) (v : List FaultRec) : (s.withFaults v).kats = s.kats := rfl
@[simp] theorem State.withFaults_flight (s : State) (v : List FaultRec) : (s.withFaults v).flight = s.flight := rfl
@[simp] theorem State.withFaults_ferry (s : State) (v : List FaultRec) : (s.withFaults v).ferry = s.ferry := rfl
@[simp] theorem State.withFaults_power (s : State) (v : List FaultRec) : (s.withFaults v).power = s.power := rfl
@[simp] theorem State.withFaults_faults (s : State) (v : List FaultRec) : (s.withFaults v).faults = v := rfl
@[simp] theorem State.withFaults_restarts (s : State) (v : List FaultRec) : (s.withFaults v).restarts = s.restarts := rfl
@[simp] theorem State.withFaults_ledger (s : State) (v : List FaultRec) : (s.withFaults v).ledger = s.ledger := rfl
@[simp] theorem State.withFaults_wm (s : State) (v : List FaultRec) : (s.withFaults v).wm = s.wm := rfl
@[simp] theorem State.withFaults_out (s : State) (v : List FaultRec) : (s.withFaults v).out = s.out := rfl
@[simp] theorem State.withRestarts_pending (s : State) (v : List Nat) : (s.withRestarts v).pending = s.pending := rfl
@[simp] theorem State.withRestarts_now (s : State) (v : List Nat) : (s.withRestarts v).now = s.now := rfl
@[simp] theorem State.withRestarts_freeCount (s : State) (v : List Nat) : (s.withRestarts v).freeCount = s.freeCount := rfl
@[simp] theorem State.withRestarts_fuses (s : State) (v : List Nat) : (s.withRestarts v).fuses = s.fuses := rfl
@[simp] theorem State.withRestarts_board (s : State) (v : List Nat) : (s.withRestarts v).board = s.board := rfl
@[simp] theorem State.withRestarts_regs (s : State) (v : List Nat) : (s.withRestarts v).regs = s.regs := rfl
@[simp] theorem State.withRestarts_guards (s : State) (v : List Nat) : (s.withRestarts v).guards = s.guards := rfl
@[simp] theorem State.withRestarts_latch (s : State) (v : List Nat) : (s.withRestarts v).latch = s.latch := rfl
@[simp] theorem State.withRestarts_snaps (s : State) (v : List Nat) : (s.withRestarts v).snaps = s.snaps := rfl
@[simp] theorem State.withRestarts_mem (s : State) (v : List Nat) : (s.withRestarts v).mem = s.mem := rfl
@[simp] theorem State.withRestarts_margined (s : State) (v : List Nat) : (s.withRestarts v).margined = s.margined := rfl
@[simp] theorem State.withRestarts_hbmStacks (s : State) (v : List Nat) : (s.withRestarts v).hbmStacks = s.hbmStacks := rfl
@[simp] theorem State.withRestarts_fields (s : State) (v : List Nat) : (s.withRestarts v).fields = s.fields := rfl
@[simp] theorem State.withRestarts_fieldReqs (s : State) (v : List Nat) : (s.withRestarts v).fieldReqs = s.fieldReqs := rfl
@[simp] theorem State.withRestarts_dma (s : State) (v : List Nat) : (s.withRestarts v).dma = s.dma := rfl
@[simp] theorem State.withRestarts_dmaLost (s : State) (v : List Nat) : (s.withRestarts v).dmaLost = s.dmaLost := rfl
@[simp] theorem State.withRestarts_ringLost (s : State) (v : List Nat) : (s.withRestarts v).ringLost = s.ringLost := rfl
@[simp] theorem State.withRestarts_bells (s : State) (v : List Nat) : (s.withRestarts v).bells = s.bells := rfl
@[simp] theorem State.withRestarts_loader (s : State) (v : List Nat) : (s.withRestarts v).loader = s.loader := rfl
@[simp] theorem State.withRestarts_alm (s : State) (v : List Nat) : (s.withRestarts v).alm = s.alm := rfl
@[simp] theorem State.withRestarts_cue (s : State) (v : List Nat) : (s.withRestarts v).cue = s.cue := rfl
@[simp] theorem State.withRestarts_mer (s : State) (v : List Nat) : (s.withRestarts v).mer = s.mer := rfl
@[simp] theorem State.withRestarts_looms (s : State) (v : List Nat) : (s.withRestarts v).looms = s.looms := rfl
@[simp] theorem State.withRestarts_sieves (s : State) (v : List Nat) : (s.withRestarts v).sieves = s.sieves := rfl
@[simp] theorem State.withRestarts_gates (s : State) (v : List Nat) : (s.withRestarts v).gates = s.gates := rfl
@[simp] theorem State.withRestarts_pairs (s : State) (v : List Nat) : (s.withRestarts v).pairs = s.pairs := rfl
@[simp] theorem State.withRestarts_sram (s : State) (v : List Nat) : (s.withRestarts v).sram = s.sram := rfl
@[simp] theorem State.withRestarts_reeves (s : State) (v : List Nat) : (s.withRestarts v).reeves = s.reeves := rfl
@[simp] theorem State.withRestarts_kats (s : State) (v : List Nat) : (s.withRestarts v).kats = s.kats := rfl
@[simp] theorem State.withRestarts_flight (s : State) (v : List Nat) : (s.withRestarts v).flight = s.flight := rfl
@[simp] theorem State.withRestarts_ferry (s : State) (v : List Nat) : (s.withRestarts v).ferry = s.ferry := rfl
@[simp] theorem State.withRestarts_power (s : State) (v : List Nat) : (s.withRestarts v).power = s.power := rfl
@[simp] theorem State.withRestarts_faults (s : State) (v : List Nat) : (s.withRestarts v).faults = s.faults := rfl
@[simp] theorem State.withRestarts_restarts (s : State) (v : List Nat) : (s.withRestarts v).restarts = v := rfl
@[simp] theorem State.withRestarts_ledger (s : State) (v : List Nat) : (s.withRestarts v).ledger = s.ledger := rfl
@[simp] theorem State.withRestarts_wm (s : State) (v : List Nat) : (s.withRestarts v).wm = s.wm := rfl
@[simp] theorem State.withRestarts_out (s : State) (v : List Nat) : (s.withRestarts v).out = s.out := rfl
@[simp] theorem State.withLedger_pending (s : State) (v : Ledger) : (s.withLedger v).pending = s.pending := rfl
@[simp] theorem State.withLedger_now (s : State) (v : Ledger) : (s.withLedger v).now = s.now := rfl
@[simp] theorem State.withLedger_freeCount (s : State) (v : Ledger) : (s.withLedger v).freeCount = s.freeCount := rfl
@[simp] theorem State.withLedger_fuses (s : State) (v : Ledger) : (s.withLedger v).fuses = s.fuses := rfl
@[simp] theorem State.withLedger_board (s : State) (v : Ledger) : (s.withLedger v).board = s.board := rfl
@[simp] theorem State.withLedger_regs (s : State) (v : Ledger) : (s.withLedger v).regs = s.regs := rfl
@[simp] theorem State.withLedger_guards (s : State) (v : Ledger) : (s.withLedger v).guards = s.guards := rfl
@[simp] theorem State.withLedger_latch (s : State) (v : Ledger) : (s.withLedger v).latch = s.latch := rfl
@[simp] theorem State.withLedger_snaps (s : State) (v : Ledger) : (s.withLedger v).snaps = s.snaps := rfl
@[simp] theorem State.withLedger_mem (s : State) (v : Ledger) : (s.withLedger v).mem = s.mem := rfl
@[simp] theorem State.withLedger_margined (s : State) (v : Ledger) : (s.withLedger v).margined = s.margined := rfl
@[simp] theorem State.withLedger_hbmStacks (s : State) (v : Ledger) : (s.withLedger v).hbmStacks = s.hbmStacks := rfl
@[simp] theorem State.withLedger_fields (s : State) (v : Ledger) : (s.withLedger v).fields = s.fields := rfl
@[simp] theorem State.withLedger_fieldReqs (s : State) (v : Ledger) : (s.withLedger v).fieldReqs = s.fieldReqs := rfl
@[simp] theorem State.withLedger_dma (s : State) (v : Ledger) : (s.withLedger v).dma = s.dma := rfl
@[simp] theorem State.withLedger_dmaLost (s : State) (v : Ledger) : (s.withLedger v).dmaLost = s.dmaLost := rfl
@[simp] theorem State.withLedger_ringLost (s : State) (v : Ledger) : (s.withLedger v).ringLost = s.ringLost := rfl
@[simp] theorem State.withLedger_bells (s : State) (v : Ledger) : (s.withLedger v).bells = s.bells := rfl
@[simp] theorem State.withLedger_loader (s : State) (v : Ledger) : (s.withLedger v).loader = s.loader := rfl
@[simp] theorem State.withLedger_alm (s : State) (v : Ledger) : (s.withLedger v).alm = s.alm := rfl
@[simp] theorem State.withLedger_cue (s : State) (v : Ledger) : (s.withLedger v).cue = s.cue := rfl
@[simp] theorem State.withLedger_mer (s : State) (v : Ledger) : (s.withLedger v).mer = s.mer := rfl
@[simp] theorem State.withLedger_looms (s : State) (v : Ledger) : (s.withLedger v).looms = s.looms := rfl
@[simp] theorem State.withLedger_sieves (s : State) (v : Ledger) : (s.withLedger v).sieves = s.sieves := rfl
@[simp] theorem State.withLedger_gates (s : State) (v : Ledger) : (s.withLedger v).gates = s.gates := rfl
@[simp] theorem State.withLedger_pairs (s : State) (v : Ledger) : (s.withLedger v).pairs = s.pairs := rfl
@[simp] theorem State.withLedger_sram (s : State) (v : Ledger) : (s.withLedger v).sram = s.sram := rfl
@[simp] theorem State.withLedger_reeves (s : State) (v : Ledger) : (s.withLedger v).reeves = s.reeves := rfl
@[simp] theorem State.withLedger_kats (s : State) (v : Ledger) : (s.withLedger v).kats = s.kats := rfl
@[simp] theorem State.withLedger_flight (s : State) (v : Ledger) : (s.withLedger v).flight = s.flight := rfl
@[simp] theorem State.withLedger_ferry (s : State) (v : Ledger) : (s.withLedger v).ferry = s.ferry := rfl
@[simp] theorem State.withLedger_power (s : State) (v : Ledger) : (s.withLedger v).power = s.power := rfl
@[simp] theorem State.withLedger_faults (s : State) (v : Ledger) : (s.withLedger v).faults = s.faults := rfl
@[simp] theorem State.withLedger_restarts (s : State) (v : Ledger) : (s.withLedger v).restarts = s.restarts := rfl
@[simp] theorem State.withLedger_ledger (s : State) (v : Ledger) : (s.withLedger v).ledger = v := rfl
@[simp] theorem State.withLedger_wm (s : State) (v : Ledger) : (s.withLedger v).wm = s.wm := rfl
@[simp] theorem State.withLedger_out (s : State) (v : Ledger) : (s.withLedger v).out = s.out := rfl
@[simp] theorem State.withWm_pending (s : State) (v : Watchman) : (s.withWm v).pending = s.pending := rfl
@[simp] theorem State.withWm_now (s : State) (v : Watchman) : (s.withWm v).now = s.now := rfl
@[simp] theorem State.withWm_freeCount (s : State) (v : Watchman) : (s.withWm v).freeCount = s.freeCount := rfl
@[simp] theorem State.withWm_fuses (s : State) (v : Watchman) : (s.withWm v).fuses = s.fuses := rfl
@[simp] theorem State.withWm_board (s : State) (v : Watchman) : (s.withWm v).board = s.board := rfl
@[simp] theorem State.withWm_regs (s : State) (v : Watchman) : (s.withWm v).regs = s.regs := rfl
@[simp] theorem State.withWm_guards (s : State) (v : Watchman) : (s.withWm v).guards = s.guards := rfl
@[simp] theorem State.withWm_latch (s : State) (v : Watchman) : (s.withWm v).latch = s.latch := rfl
@[simp] theorem State.withWm_snaps (s : State) (v : Watchman) : (s.withWm v).snaps = s.snaps := rfl
@[simp] theorem State.withWm_mem (s : State) (v : Watchman) : (s.withWm v).mem = s.mem := rfl
@[simp] theorem State.withWm_margined (s : State) (v : Watchman) : (s.withWm v).margined = s.margined := rfl
@[simp] theorem State.withWm_hbmStacks (s : State) (v : Watchman) : (s.withWm v).hbmStacks = s.hbmStacks := rfl
@[simp] theorem State.withWm_fields (s : State) (v : Watchman) : (s.withWm v).fields = s.fields := rfl
@[simp] theorem State.withWm_fieldReqs (s : State) (v : Watchman) : (s.withWm v).fieldReqs = s.fieldReqs := rfl
@[simp] theorem State.withWm_dma (s : State) (v : Watchman) : (s.withWm v).dma = s.dma := rfl
@[simp] theorem State.withWm_dmaLost (s : State) (v : Watchman) : (s.withWm v).dmaLost = s.dmaLost := rfl
@[simp] theorem State.withWm_ringLost (s : State) (v : Watchman) : (s.withWm v).ringLost = s.ringLost := rfl
@[simp] theorem State.withWm_bells (s : State) (v : Watchman) : (s.withWm v).bells = s.bells := rfl
@[simp] theorem State.withWm_loader (s : State) (v : Watchman) : (s.withWm v).loader = s.loader := rfl
@[simp] theorem State.withWm_alm (s : State) (v : Watchman) : (s.withWm v).alm = s.alm := rfl
@[simp] theorem State.withWm_cue (s : State) (v : Watchman) : (s.withWm v).cue = s.cue := rfl
@[simp] theorem State.withWm_mer (s : State) (v : Watchman) : (s.withWm v).mer = s.mer := rfl
@[simp] theorem State.withWm_looms (s : State) (v : Watchman) : (s.withWm v).looms = s.looms := rfl
@[simp] theorem State.withWm_sieves (s : State) (v : Watchman) : (s.withWm v).sieves = s.sieves := rfl
@[simp] theorem State.withWm_gates (s : State) (v : Watchman) : (s.withWm v).gates = s.gates := rfl
@[simp] theorem State.withWm_pairs (s : State) (v : Watchman) : (s.withWm v).pairs = s.pairs := rfl
@[simp] theorem State.withWm_sram (s : State) (v : Watchman) : (s.withWm v).sram = s.sram := rfl
@[simp] theorem State.withWm_reeves (s : State) (v : Watchman) : (s.withWm v).reeves = s.reeves := rfl
@[simp] theorem State.withWm_kats (s : State) (v : Watchman) : (s.withWm v).kats = s.kats := rfl
@[simp] theorem State.withWm_flight (s : State) (v : Watchman) : (s.withWm v).flight = s.flight := rfl
@[simp] theorem State.withWm_ferry (s : State) (v : Watchman) : (s.withWm v).ferry = s.ferry := rfl
@[simp] theorem State.withWm_power (s : State) (v : Watchman) : (s.withWm v).power = s.power := rfl
@[simp] theorem State.withWm_faults (s : State) (v : Watchman) : (s.withWm v).faults = s.faults := rfl
@[simp] theorem State.withWm_restarts (s : State) (v : Watchman) : (s.withWm v).restarts = s.restarts := rfl
@[simp] theorem State.withWm_ledger (s : State) (v : Watchman) : (s.withWm v).ledger = s.ledger := rfl
@[simp] theorem State.withWm_wm (s : State) (v : Watchman) : (s.withWm v).wm = v := rfl
@[simp] theorem State.withWm_out (s : State) (v : Watchman) : (s.withWm v).out = s.out := rfl
@[simp] theorem State.withOut_pending (s : State) (v : Out) : (s.withOut v).pending = s.pending := rfl
@[simp] theorem State.withOut_now (s : State) (v : Out) : (s.withOut v).now = s.now := rfl
@[simp] theorem State.withOut_freeCount (s : State) (v : Out) : (s.withOut v).freeCount = s.freeCount := rfl
@[simp] theorem State.withOut_fuses (s : State) (v : Out) : (s.withOut v).fuses = s.fuses := rfl
@[simp] theorem State.withOut_board (s : State) (v : Out) : (s.withOut v).board = s.board := rfl
@[simp] theorem State.withOut_regs (s : State) (v : Out) : (s.withOut v).regs = s.regs := rfl
@[simp] theorem State.withOut_guards (s : State) (v : Out) : (s.withOut v).guards = s.guards := rfl
@[simp] theorem State.withOut_latch (s : State) (v : Out) : (s.withOut v).latch = s.latch := rfl
@[simp] theorem State.withOut_snaps (s : State) (v : Out) : (s.withOut v).snaps = s.snaps := rfl
@[simp] theorem State.withOut_mem (s : State) (v : Out) : (s.withOut v).mem = s.mem := rfl
@[simp] theorem State.withOut_margined (s : State) (v : Out) : (s.withOut v).margined = s.margined := rfl
@[simp] theorem State.withOut_hbmStacks (s : State) (v : Out) : (s.withOut v).hbmStacks = s.hbmStacks := rfl
@[simp] theorem State.withOut_fields (s : State) (v : Out) : (s.withOut v).fields = s.fields := rfl
@[simp] theorem State.withOut_fieldReqs (s : State) (v : Out) : (s.withOut v).fieldReqs = s.fieldReqs := rfl
@[simp] theorem State.withOut_dma (s : State) (v : Out) : (s.withOut v).dma = s.dma := rfl
@[simp] theorem State.withOut_dmaLost (s : State) (v : Out) : (s.withOut v).dmaLost = s.dmaLost := rfl
@[simp] theorem State.withOut_ringLost (s : State) (v : Out) : (s.withOut v).ringLost = s.ringLost := rfl
@[simp] theorem State.withOut_bells (s : State) (v : Out) : (s.withOut v).bells = s.bells := rfl
@[simp] theorem State.withOut_loader (s : State) (v : Out) : (s.withOut v).loader = s.loader := rfl
@[simp] theorem State.withOut_alm (s : State) (v : Out) : (s.withOut v).alm = s.alm := rfl
@[simp] theorem State.withOut_cue (s : State) (v : Out) : (s.withOut v).cue = s.cue := rfl
@[simp] theorem State.withOut_mer (s : State) (v : Out) : (s.withOut v).mer = s.mer := rfl
@[simp] theorem State.withOut_looms (s : State) (v : Out) : (s.withOut v).looms = s.looms := rfl
@[simp] theorem State.withOut_sieves (s : State) (v : Out) : (s.withOut v).sieves = s.sieves := rfl
@[simp] theorem State.withOut_gates (s : State) (v : Out) : (s.withOut v).gates = s.gates := rfl
@[simp] theorem State.withOut_pairs (s : State) (v : Out) : (s.withOut v).pairs = s.pairs := rfl
@[simp] theorem State.withOut_sram (s : State) (v : Out) : (s.withOut v).sram = s.sram := rfl
@[simp] theorem State.withOut_reeves (s : State) (v : Out) : (s.withOut v).reeves = s.reeves := rfl
@[simp] theorem State.withOut_kats (s : State) (v : Out) : (s.withOut v).kats = s.kats := rfl
@[simp] theorem State.withOut_flight (s : State) (v : Out) : (s.withOut v).flight = s.flight := rfl
@[simp] theorem State.withOut_ferry (s : State) (v : Out) : (s.withOut v).ferry = s.ferry := rfl
@[simp] theorem State.withOut_power (s : State) (v : Out) : (s.withOut v).power = s.power := rfl
@[simp] theorem State.withOut_faults (s : State) (v : Out) : (s.withOut v).faults = s.faults := rfl
@[simp] theorem State.withOut_restarts (s : State) (v : Out) : (s.withOut v).restarts = s.restarts := rfl
@[simp] theorem State.withOut_ledger (s : State) (v : Out) : (s.withOut v).ledger = s.ledger := rfl
@[simp] theorem State.withOut_wm (s : State) (v : Out) : (s.withOut v).wm = s.wm := rfl
@[simp] theorem State.withOut_out (s : State) (v : Out) : (s.withOut v).out = v := rfl

end Sys2Proof.Machine
end

