-- ==== Sys2Proof/Laws/Keeps.lean ====
section
/-! SUPPORT. What no command undoes (State.Keeps): it holds of every update of one field, and it passes through the forms
that definitions are written in. -/

namespace Sys2Proof.Machine

theorem State.Keeps.refl (s : State) : State.Keeps s s :=
  ⟨rfl, id, id, Nat.le_refl _, Nat.le_refl _, rfl, fun _ => Nat.le_refl _, Nat.le_refl _, id⟩

theorem State.Keeps.trans {a b c : State} (h : State.Keeps a b) (k : State.Keeps b c) : State.Keeps a c := by
  refine ⟨k.queue.trans h.queue, fun x => k.mem (h.mem x), fun x => k.regs (h.regs x), Nat.le_trans h.clock k.clock,
    Nat.le_trans h.opened k.opened, ?_, fun i => Nat.le_trans (h.svn i) (k.svn i), Nat.le_trans h.ledger k.ledger, fun x => k.night (h.night x)⟩
  rw [k.fuses, h.fuses]

theorem list_set_max_le (l : List Nat) (i v c : Nat) : l.getD c 0 ≤ (l.set i (max (l.getD i 0) v)).getD c 0 := by
  simp only [List.getD_eq_getElem?_getD, List.getElem?_set]
  split
  · subst_vars; split <;> simp_all [Nat.le_max_left]
  · exact Nat.le_refl _

/-- An outcome keeps what a state kept. -/
def KeepsOut (a : State) (o : Host.Outcome State Fault Refusal) : Prop := ∀ t, o = .next t → State.Keeps a t

theorem keeps_next {a s : State} (h : State.Keeps a s) : KeepsOut a (.next s) := by
  intro t e; cases e; exact h
theorem keeps_fault {a : State} (r : Fault) : KeepsOut a (.fault r) := by intro t e; cases e
theorem keepsOut_ite {a : State} {c : Prop} [Decidable c] {x y : Host.Outcome State Fault Refusal} (h : KeepsOut a x)
    (k : KeepsOut a y) : KeepsOut a (if c then x else y) := by split <;> assumption

/-- So does an optional state, and one that an error may stand for. -/
def KeepsOpt (a : State) (o : Option State) : Prop := ∀ t, o = some t → State.Keeps a t
def KeepsExc {ε : Type} (a : State) (o : Except ε State) : Prop := ∀ t, o = .ok t → State.Keeps a t

theorem keepsOpt_some {a s : State} (h : State.Keeps a s) : KeepsOpt a (some s) := by intro t e; cases e; exact h
theorem keepsOpt_none {a : State} : KeepsOpt a none := by intro t e; cases e
theorem keepsOpt_elim {a t : State} {o : Option State} (e : o = some t) (h : KeepsOpt a o) : State.Keeps a t := h t e
theorem keepsOpt_ite {a : State} {c : Prop} [Decidable c] {x y : Option State} (h : KeepsOpt a x) (k : KeepsOpt a y) :
    KeepsOpt a (if c then x else y) := by split <;> assumption
theorem keepsOpt_bind {a : State} {o : Option State} {g : State → Option State} (h : KeepsOpt a o)
    (hg : ∀ s, State.Keeps a s → KeepsOpt a (g s)) : KeepsOpt a (o.bind g) := by
  intro t e
  cases o with
  | none => cases e
  | some s => exact hg s (h s rfl) t e
theorem keepsOpt_bindV {β : Type} {a : State} {o : Option β} {g : β → Option State} (hg : ∀ b, KeepsOpt a (g b)) :
    KeepsOpt a (o.bind g) := by
  cases o with
  | none => exact keepsOpt_none
  | some b => exact hg b
theorem keepsOpt_map {a : State} {o : Option State} {g : State → State} (h : KeepsOpt a o)
    (hg : ∀ s, State.Keeps a s → State.Keeps a (g s)) : KeepsOpt a (o.map g) := by
  intro t e
  cases o with
  | none => cases e
  | some s => cases e; exact hg s (h s rfl)
theorem keepsExc_ok {ε : Type} {a s : State} (h : State.Keeps a s) : KeepsExc (ε := ε) a (.ok s) := by intro t e; cases e; exact h
theorem keepsExc_error {ε : Type} {a : State} (e : ε) : KeepsExc a (.error e) := by intro t e; cases e
theorem keepsExc_elim {ε : Type} {a t : State} {o : Except ε State} (e : o = .ok t) (h : KeepsExc a o) : State.Keeps a t := h t e
theorem keepsOpt_getD {a s : State} {o : Option State} (h : State.Keeps a s) (k : KeepsOpt a o) : State.Keeps a (o.getD s) := by
  cases o with
  | none => exact h
  | some t => exact k t rfl
theorem keepsExc_getD {ε : Type} {a s : State} {o : Except ε State} (h : State.Keeps a s) (k : KeepsExc a o) :
    State.Keeps a (o.toOption.getD s) := by
  cases o with
  | error e => exact h
  | ok t => exact k t rfl
theorem keepsExc_ite {ε : Type} {a : State} {c : Prop} [Decidable c] {x y : Except ε State} (h : KeepsExc a x)
    (k : KeepsExc a y) : KeepsExc a (if c then x else y) := by split <;> assumption

theorem keeps_ite {a x y : State} {c : Prop} [Decidable c] (h : State.Keeps a x) (k : State.Keeps a y) :
    State.Keeps a (if c then x else y) := by split <;> assumption
theorem keeps_fst_ite {α : Type} {a : State} {c : Prop} [Decidable c] {x y : State × α} (h : State.Keeps a x.1)
    (k : State.Keeps a y.1) : State.Keeps a (if c then x else y).1 := by split <;> assumption
theorem keeps_snd_ite {α : Type} {a : State} {c : Prop} [Decidable c] {x y : α × State} (h : State.Keeps a x.2)
    (k : State.Keeps a y.2) : State.Keeps a (if c then x else y).2 := by split <;> assumption
theorem keeps_snd {a : State} {α : Type} {p : α × State} {x : α} {y : State} (e : p = (x, y)) (h : State.Keeps a p.2) :
    State.Keeps a y := by cases e; exact h
theorem keeps_fst {a : State} {α : Type} {p : State × α} {x : α} {y : State} (e : p = (y, x)) (h : State.Keeps a p.1) :
    State.Keeps a y := by cases e; exact h
theorem keeps_foldl {a : State} {α : Type} {g : State → α → State} (hg : ∀ s x, State.Keeps a s → State.Keeps a (g s x)) (l : List α)
    {s : State} (h : State.Keeps a s) : State.Keeps a (l.foldl g s) := by
  induction l generalizing s with
  | nil => exact h
  | cons x l ih => exact ih (hg _ _ h)

theorem State.withNow_keeps {a s : State} {v : Nat} (h : State.Keeps a s)
    (hv : s.now ≤ v) :
    State.Keeps a (s.withNow v) :=
  { h with clock := Nat.le_trans h.clock hv }
theorem State.withFreeCount_keeps {a s : State} {v : Nat} (h : State.Keeps a s)
    (hv : s.freeCount ≤ v) :
    State.Keeps a (s.withFreeCount v) :=
  { h with opened := Nat.le_trans h.opened hv }
theorem State.withFuses_keeps {a s : State} {v : Fuses} (h : State.Keeps a s)
    (hv : v = { s.fuses with minSvn := v.minSvn })
    (hm : ∀ c, s.fuses.minSvn.getD c 0 ≤ v.minSvn.getD c 0) :
    State.Keeps a (s.withFuses v) :=
  { h with fuses := by rw [State.withFuses_fuses, hv, h.fuses], svn := fun c => Nat.le_trans (h.svn c) (hm c) }
theorem State.withBoard_keeps {a s : State} {v : Board} (h : State.Keeps a s)
    (hv : s.board.night ≤ 2 → v.night ≤ 2) :
    State.Keeps a (s.withBoard v) :=
  { h with night := fun x => hv (h.night x) }
theorem State.withRegs_keeps {a s : State} {v : SMap Word} (h : State.Keeps a s)
    (hv : SMap.wfF resetWord s.regs = true → SMap.wfF resetWord v = true) :
    State.Keeps a (s.withRegs v) :=
  { h with regs := fun x => hv (h.regs x) }
theorem State.withGuards_keeps {a s : State} {v : SMap (Option Guard)} (h : State.Keeps a s) : State.Keeps a (s.withGuards v) := { h with }
theorem State.withLatch_keeps {a s : State} {v : SMap (Option Word)} (h : State.Keeps a s) : State.Keeps a (s.withLatch v) := { h with }
theorem State.withSnaps_keeps {a s : State} {v : SMap Word} (h : State.Keeps a s) : State.Keeps a (s.withSnaps v) := { h with }
theorem State.withMem_keeps {a s : State} {v : List Host.Cell} (h : State.Keeps a s)
    (hv : Memory.wf s.mem = true → Memory.wf v = true) :
    State.Keeps a (s.withMem v) :=
  { h with mem := fun x => hv (h.mem x) }
theorem State.withMargined_keeps {a s : State} {v : List (Nat × Nat × Nat)} (h : State.Keeps a s) : State.Keeps a (s.withMargined v) := { h with }
theorem State.withHbmStacks_keeps {a s : State} {v : SMap StackMem} (h : State.Keeps a s) : State.Keeps a (s.withHbmStacks v) := { h with }
theorem State.withFields_keeps {a s : State} {v : SMap (Option FieldPage)} (h : State.Keeps a s) : State.Keeps a (s.withFields v) := { h with }
theorem State.withFieldReqs_keeps {a s : State} {v : SMap (Option FieldReq)} (h : State.Keeps a s) : State.Keeps a (s.withFieldReqs v) := { h with }
theorem State.withDma_keeps {a s : State} {v : SMap (List DmaRun)} (h : State.Keeps a s) : State.Keeps a (s.withDma v) := { h with }
theorem State.withDmaLost_keeps {a s : State} {v : List Nat} (h : State.Keeps a s) : State.Keeps a (s.withDmaLost v) := { h with }
theorem State.withRingLost_keeps {a s : State} {v : List Nat} (h : State.Keeps a s) : State.Keeps a (s.withRingLost v) := { h with }
theorem State.withBells_keeps {a s : State} {v : SMap Bell} (h : State.Keeps a s) : State.Keeps a (s.withBells v) := { h with }
theorem State.withLoader_keeps {a s : State} {v : Loader} (h : State.Keeps a s) : State.Keeps a (s.withLoader v) := { h with }
theorem State.withAlm_keeps {a s : State} {v : SMap (Option AEntry)} (h : State.Keeps a s) : State.Keeps a (s.withAlm v) := { h with }
theorem State.withCue_keeps {a s : State} {v : Cue} (h : State.Keeps a s) : State.Keeps a (s.withCue v) := { h with }
theorem State.withMer_keeps {a s : State} {v : Meridian} (h : State.Keeps a s) : State.Keeps a (s.withMer v) := { h with }
theorem State.withLooms_keeps {a s : State} {v : SMap Loom} (h : State.Keeps a s) : State.Keeps a (s.withLooms v) := { h with }
theorem State.withSieves_keeps {a s : State} {v : SMap Engine} (h : State.Keeps a s) : State.Keeps a (s.withSieves v) := { h with }
theorem State.withGates_keeps {a s : State} {v : SMap Engine} (h : State.Keeps a s) : State.Keeps a (s.withGates v) := { h with }
theorem State.withPairs_keeps {a s : State} {v : SMap Pair} (h : State.Keeps a s) : State.Keeps a (s.withPairs v) := { h with }
theorem State.withSram_keeps {a s : State} {v : SMap TData} (h : State.Keeps a s) : State.Keeps a (s.withSram v) := { h with }
theorem State.withReeves_keeps {a s : State} {v : SMap Reeve} (h : State.Keeps a s) : State.Keeps a (s.withReeves v) := { h with }
theorem State.withKats_keeps {a s : State} {v : SMap (Option KatRun)} (h : State.Keeps a s) : State.Keeps a (s.withKats v) := { h with }
theorem State.withFlight_keeps {a s : State} {v : List (Nat × Tile)} (h : State.Keeps a s) : State.Keeps a (s.withFlight v) := { h with }
theorem State.withFerry_keeps {a s : State} {v : Ferry} (h : State.Keeps a s) : State.Keeps a (s.withFerry v) := { h with }
theorem State.withPower_keeps {a s : State} {v : Power} (h : State.Keeps a s) : State.Keeps a (s.withPower v) := { h with }
theorem State.withFaults_keeps {a s : State} {v : List FaultRec} (h : State.Keeps a s) : State.Keeps a (s.withFaults v) := { h with }
theorem State.withRestarts_keeps {a s : State} {v : List Nat} (h : State.Keeps a s) : State.Keeps a (s.withRestarts v) := { h with }
theorem State.withLedger_keeps {a s : State} {v : Ledger} (h : State.Keeps a s)
    (hv : s.ledger.next ≤ v.next) :
    State.Keeps a (s.withLedger v) :=
  { h with ledger := Nat.le_trans h.ledger hv }
theorem State.withWm_keeps {a s : State} {v : Watchman} (h : State.Keeps a s) : State.Keeps a (s.withWm v) := { h with }
theorem State.withOut_keeps {a s : State} {v : Out} (h : State.Keeps a s) : State.Keeps a (s.withOut v) := { h with }

end Sys2Proof.Machine
end

