-- ==== Sys2Proof/Laws/KeepsOps.lean ====
section
/-! SUPPORT. State.Keeps over the definitions of Machine/Ops.lean. -/

namespace Sys2Proof.Machine

theorem State.setPort_keeps {a s : State} {x0 x1 x2} (h : State.Keeps a s) :
    State.Keeps a (State.setPort s x0 x1 x2) := by
  unfold State.setPort
  with_reducible repeat' (first
    | exact h | assumption | apply State.withFerry_keeps | apply keeps_foldl | apply keeps_ite | apply_assumption
    | dsimp only | split | intro _ _ _ | intro _ _ | exact Nat.le_max_left _ _ | exact Nat.le_add_right _ _
    | exact Nat.le_refl _)

theorem State.setReg_keeps {a s : State} {x0 x1} (h : State.Keeps a s) : State.Keeps a (State.setReg s x0 x1) := State.withRegs_keeps h (fun x => SMap.setF_wf _ _ _ x)

theorem State.setFld_keeps {a s : State} {x0 x1 x2 x3} (h : State.Keeps a s) :
    State.Keeps a (State.setFld s x0 x1 x2 x3) := by
  unfold State.setFld
  with_reducible repeat' (first
    | exact h | assumption | apply State.setReg_keeps | apply keeps_foldl | apply keeps_ite | apply_assumption
    | dsimp only | split | intro _ _ _ | intro _ _ | exact Nat.le_max_left _ _ | exact Nat.le_add_right _ _
    | exact Nat.le_refl _)

theorem State.bumpSat_keeps {a s : State} {x0 x1 x2} (h : State.Keeps a s) :
    State.Keeps a (State.bumpSat s x0 x1 x2) := by
  unfold State.bumpSat
  with_reducible repeat' (first
    | exact h | assumption | apply State.setFld_keeps | apply keeps_foldl | apply keeps_ite | apply_assumption
    | dsimp only | split | intro _ _ _ | intro _ _ | exact Nat.le_max_left _ _ | exact Nat.le_add_right _ _
    | exact Nat.le_refl _)

theorem State.bump_keeps {a s : State} {x0 x1 x2} (h : State.Keeps a s) : State.Keeps a (State.bump s x0 x1 x2) := by
  unfold State.bump
  with_reducible repeat' (first
    | exact h | assumption | apply State.setFld_keeps | apply keeps_foldl | apply keeps_ite | apply_assumption
    | dsimp only | split | intro _ _ _ | intro _ _ | exact Nat.le_max_left _ _ | exact Nat.le_add_right _ _
    | exact Nat.le_refl _)

theorem State.setLoom_keeps {a s : State} {x0 x1 x2 x3} (h : State.Keeps a s) :
    State.Keeps a (State.setLoom s x0 x1 x2 x3) := by
  unfold State.setLoom
  with_reducible repeat' (first
    | exact h | assumption | apply State.withLooms_keeps | apply keeps_foldl | apply keeps_ite | apply_assumption
    | dsimp only | split | intro _ _ _ | intro _ _ | exact Nat.le_max_left _ _ | exact Nat.le_add_right _ _
    | exact Nat.le_refl _)

theorem State.setPair_keeps {a s : State} {x0 x1} (h : State.Keeps a s) : State.Keeps a (State.setPair s x0 x1) := by
  unfold State.setPair
  with_reducible repeat' (first
    | exact h | assumption | apply State.withPairs_keeps | apply keeps_foldl | apply keeps_ite | apply_assumption
    | dsimp only | split | intro _ _ _ | intro _ _ | exact Nat.le_max_left _ _ | exact Nat.le_add_right _ _
    | exact Nat.le_refl _)

theorem State.setStack_keeps {a s : State} {x0 x1} (h : State.Keeps a s) : State.Keeps a (State.setStack s x0 x1) := by
  unfold State.setStack
  with_reducible repeat' (first
    | exact h | assumption | apply State.withHbmStacks_keeps | apply keeps_foldl | apply keeps_ite | apply_assumption
    | dsimp only | split | intro _ _ _ | intro _ _ | exact Nat.le_max_left _ _ | exact Nat.le_add_right _ _
    | exact Nat.le_refl _)

theorem State.setByte_keeps {a s : State} {x0 x1} (h : State.Keeps a s) : State.Keeps a (State.setByte s x0 x1) := by
  unfold State.setByte
  split
  · exact h
  · exact State.withMem_keeps h (fun x => SMap.setF_wf _ _ _ x)

theorem State.sendFlit_keeps {a s : State} {x0 x1} (h : State.Keeps a s) : State.Keeps a (State.sendFlit s x0 x1) := by
  unfold State.sendFlit
  with_reducible repeat' (first
    | exact h | assumption | apply State.withOut_keeps | apply keeps_foldl | apply keeps_ite | apply_assumption
    | dsimp only | split | intro _ _ _ | intro _ _ | exact Nat.le_max_left _ _ | exact Nat.le_add_right _ _
    | exact Nat.le_refl _)

theorem State.setBell_keeps {a s : State} {x0 x1 x2} (h : State.Keeps a s) :
    State.Keeps a (State.setBell s x0 x1 x2) := by
  unfold State.setBell
  with_reducible repeat' (first
    | exact h | assumption | apply State.withBells_keeps | apply keeps_foldl | apply keeps_ite | apply_assumption
    | dsimp only | split | intro _ _ _ | intro _ _ | exact Nat.le_max_left _ _ | exact Nat.le_add_right _ _
    | exact Nat.le_refl _)

theorem State.setSieve_keeps {a s : State} {x0 x1 x2} (h : State.Keeps a s) :
    State.Keeps a (State.setSieve s x0 x1 x2) := by
  unfold State.setSieve
  with_reducible repeat' (first
    | exact h | assumption | apply State.withSieves_keeps | apply keeps_foldl | apply keeps_ite | apply_assumption
    | dsimp only | split | intro _ _ _ | intro _ _ | exact Nat.le_max_left _ _ | exact Nat.le_add_right _ _
    | exact Nat.le_refl _)

theorem State.setGate_keeps {a s : State} {x0 x1} (h : State.Keeps a s) : State.Keeps a (State.setGate s x0 x1) := by
  unfold State.setGate
  with_reducible repeat' (first
    | exact h | assumption | apply State.withGates_keeps | apply keeps_foldl | apply keeps_ite | apply_assumption
    | dsimp only | split | intro _ _ _ | intro _ _ | exact Nat.le_max_left _ _ | exact Nat.le_add_right _ _
    | exact Nat.le_refl _)

theorem State.setStep_keeps {a s : State} {x0} (h : State.Keeps a s) : State.Keeps a (State.setStep s x0) := by
  unfold State.setStep
  with_reducible repeat' (first
    | exact h | assumption | apply State.withLoader_keeps | apply keeps_foldl | apply keeps_ite | apply_assumption
    | dsimp only | split | intro _ _ _ | intro _ _ | exact Nat.le_max_left _ _ | exact Nat.le_add_right _ _
    | exact Nat.le_refl _)

theorem State.setJob_keeps {a s : State} {x0} (h : State.Keeps a s) : State.Keeps a (State.setJob s x0) := by
  unfold State.setJob
  with_reducible repeat' (first
    | exact h | assumption | apply State.withLoader_keeps | apply keeps_foldl | apply keeps_ite | apply_assumption
    | dsimp only | split | intro _ _ _ | intro _ _ | exact Nat.le_max_left _ _ | exact Nat.le_add_right _ _
    | exact Nat.le_refl _)

theorem State.openValue_keeps {a s : State} (h : State.Keeps a s) : State.Keeps a (State.openValue s).2 := State.withFreeCount_keeps h (Nat.le_succ _)

theorem State.setReeve_keeps {a s : State} {x0 x1 x2} (h : State.Keeps a s) :
    State.Keeps a (State.setReeve s x0 x1 x2) := by
  unfold State.setReeve
  with_reducible repeat' (first
    | exact h | assumption | apply State.withReeves_keeps | apply keeps_foldl | apply keeps_ite | apply_assumption
    | dsimp only | split | intro _ _ _ | intro _ _ | exact Nat.le_max_left _ _ | exact Nat.le_add_right _ _
    | exact Nat.le_refl _)

theorem State.dropStep_keeps {a s : State} {x0} (h : State.Keeps a s) : State.Keeps a (State.dropStep s x0) := by
  unfold State.dropStep
  with_reducible repeat' (first
    | exact h | assumption | apply State.withLoader_keeps | apply keeps_foldl | apply keeps_ite | apply_assumption
    | dsimp only | split | intro _ _ _ | intro _ _ | exact Nat.le_max_left _ _ | exact Nat.le_add_right _ _
    | exact Nat.le_refl _)

theorem State.alert_keeps {a s : State} {x0} (h : State.Keeps a s) : State.Keeps a (State.alert s x0) := by
  unfold State.alert
  with_reducible repeat' (first
    | exact h | assumption | apply State.withOut_keeps | apply State.setFld_keeps | apply keeps_foldl
    | apply keeps_ite | apply_assumption | dsimp only | split | intro _ _ _ | intro _ _ | exact Nat.le_max_left _ _
    | exact Nat.le_add_right _ _ | exact Nat.le_refl _)

theorem State.ledgerAdd_keeps {a s : State} {x0 x1 x2 x3 x4 x5 x6 x7 x8} (h : State.Keeps a s) :
    State.Keeps a (State.ledgerAdd s x0 x1 x2 x3 x4 x5 x6 x7 x8) := by
  unfold State.ledgerAdd
  have k : ∀ r, State.Keeps a (s.withLedger (s.ledger.add r)) := fun r => State.withLedger_keeps h (Nat.le_succ _)
  with_reducible repeat' (first
    | assumption | apply k | apply State.alert_keeps | apply keeps_ite | dsimp only | split)

theorem State.bump64_keeps {a s : State} {x0 x1 x2 x3} (h : State.Keeps a s) :
    State.Keeps a (State.bump64 s x0 x1 x2 x3) := by
  unfold State.bump64
  with_reducible repeat' (first
    | exact h | assumption | apply State.setFld_keeps | apply keeps_foldl | apply keeps_ite | apply_assumption
    | dsimp only | split | intro _ _ _ | intro _ _ | exact Nat.le_max_left _ _ | exact Nat.le_add_right _ _
    | exact Nat.le_refl _)

theorem State.setAlm_keeps {a s : State} {x0 x1} (h : State.Keeps a s) : State.Keeps a (State.setAlm s x0 x1) := by
  unfold State.setAlm
  with_reducible repeat' (first
    | exact h | assumption | apply State.withAlm_keeps | apply keeps_foldl | apply keeps_ite | apply_assumption
    | dsimp only | split | intro _ _ _ | intro _ _ | exact Nat.le_max_left _ _ | exact Nat.le_add_right _ _
    | exact Nat.le_refl _)

theorem State.merRebase_keeps {a s : State} (h : State.Keeps a s) : State.Keeps a (State.merRebase s) := by
  unfold State.merRebase
  with_reducible repeat' (first
    | exact h | assumption | apply State.withMer_keeps | apply keeps_foldl | apply keeps_ite | apply_assumption
    | dsimp only | split | intro _ _ _ | intro _ _ | exact Nat.le_max_left _ _ | exact Nat.le_add_right _ _
    | exact Nat.le_refl _)

theorem storeBytes_keeps {a s : State} {x0 x1} (h : State.Keeps a s) : State.Keeps a (storeBytes s x0 x1) := by
  fun_induction storeBytes s x0 x1
  with_reducible repeat' (first
    | exact h | assumption | apply State.setByte_keeps | apply keeps_foldl | apply keeps_ite | apply_assumption
    | dsimp only | split | intro _ _ _ | intro _ _ | exact Nat.le_max_left _ _ | exact Nat.le_add_right _ _
    | exact Nat.le_refl _)

theorem State.respond_keeps {a s : State} {x0 x1} (h : State.Keeps a s) : State.Keeps a (State.respond s x0 x1) := by
  unfold State.respond
  with_reducible repeat' (first
    | exact h | assumption | apply State.withOut_keeps | apply keeps_foldl | apply keeps_ite | apply_assumption
    | dsimp only | split | intro _ _ _ | intro _ _ | exact Nat.le_max_left _ _ | exact Nat.le_add_right _ _
    | exact Nat.le_refl _)

theorem State.respondWords_keeps {a s : State} {x0 x1} (h : State.Keeps a s) :
    State.Keeps a (State.respondWords s x0 x1) := by
  unfold State.respondWords
  with_reducible repeat' (first
    | exact h | assumption | apply State.respond_keeps | apply keeps_foldl | apply keeps_ite | apply_assumption
    | dsimp only | split | intro _ _ _ | intro _ _ | exact Nat.le_max_left _ _ | exact Nat.le_add_right _ _
    | exact Nat.le_refl _)

theorem storeVa_keeps {a s : State} {x0 x1 x2} (h : State.Keeps a s) : State.Keeps a (storeVa s x0 x1 x2) := by
  fun_induction storeVa s x0 x1 x2
  with_reducible repeat' (first
    | exact h | assumption | apply State.setByte_keeps | apply keeps_foldl | apply keeps_ite | apply_assumption
    | dsimp only | split | intro _ _ _ | intro _ _ | exact Nat.le_max_left _ _ | exact Nat.le_add_right _ _
    | exact Nat.le_refl _)

end Sys2Proof.Machine
end

