-- ==== Sys2Proof/Laws/KeepsFlags.lean ====
section
/-! SUPPORT. State.Keeps over the definitions of Machine/Flags.lean. -/

namespace Sys2Proof.Machine

theorem State.pendVector_keeps {a s : State} {x0 x1} (h : State.Keeps a s) :
    State.Keeps a (State.pendVector s x0 x1) := by
  unfold State.pendVector
  with_reducible repeat' (first
    | exact h | assumption | apply State.withOut_keeps | apply keeps_foldl | apply keeps_ite | apply_assumption
    | dsimp only | split | intro _ _ _ | intro _ _ | exact Nat.le_max_left _ _ | exact Nat.le_add_right _ _
    | exact Nat.le_refl _)

theorem State.dropOne_keeps {a s : State} {x0} (h : State.Keeps a s) : State.Keeps a (State.dropOne s x0) := by
  unfold State.dropOne
  with_reducible repeat' (first
    | exact h | assumption | apply State.setFld_keeps | apply State.bumpSat_keeps | apply keeps_foldl
    | apply keeps_ite | apply_assumption | dsimp only | split | intro _ _ _ | intro _ _ | exact Nat.le_max_left _ _
    | exact Nat.le_add_right _ _ | exact Nat.le_refl _)

theorem State.dropMsg_keeps {a s : State} {x0} (h : State.Keeps a s) : State.Keeps a (State.dropMsg s x0) := by
  unfold State.dropMsg
  with_reducible repeat' (first
    | exact h | assumption | apply State.dropOne_keeps | apply State.pendVector_keeps | apply keeps_foldl
    | apply keeps_ite | apply_assumption | dsimp only | split | intro _ _ _ | intro _ _ | exact Nat.le_max_left _ _
    | exact Nat.le_add_right _ _ | exact Nat.le_refl _)

theorem State.msix_keeps {a s : State} {x0 x1} (h : State.Keeps a s) : State.Keeps a (State.msix s x0 x1) := by
  unfold State.msix
  with_reducible repeat' (first
    | exact h | assumption | apply State.pendVector_keeps | apply State.withOut_keeps | apply State.dropMsg_keeps
    | apply keeps_foldl | apply keeps_ite | apply_assumption | dsimp only | split | intro _ _ _ | intro _ _
    | exact Nat.le_max_left _ _ | exact Nat.le_add_right _ _ | exact Nat.le_refl _)

theorem attnRise_keeps {a s : State} {x0 x1} (h : State.Keeps a s) : State.Keeps a (attnRise x0 s x1) := by
  unfold attnRise
  with_reducible repeat' (first
    | exact h | assumption | apply State.msix_keeps | apply keeps_foldl | apply keeps_ite | apply_assumption
    | dsimp only | split | intro _ _ _ | intro _ _ | exact Nat.le_max_left _ _ | exact Nat.le_add_right _ _
    | exact Nat.le_refl _)

theorem State.event_keeps {a s : State} {x0 x1} (h : State.Keeps a s) : State.Keeps a (State.event s x0 x1) := by
  unfold State.event
  with_reducible repeat' (first
    | exact h | assumption | apply attnRise_keeps | apply State.setFld_keeps | apply keeps_foldl | apply keeps_ite
    | apply_assumption | dsimp only | split | intro _ _ _ | intro _ _ | exact Nat.le_max_left _ _
    | exact Nat.le_add_right _ _ | exact Nat.le_refl _)

theorem State.capture_keeps {a s : State} {x0 x1 x2} (h : State.Keeps a s) :
    State.Keeps a (State.capture s x0 x1 x2) := by
  unfold State.capture
  with_reducible repeat' (first
    | exact h | assumption | apply State.setReg_keeps | apply keeps_foldl | apply keeps_ite | apply_assumption
    | dsimp only | split | intro _ _ _ | intro _ _ | exact Nat.le_max_left _ _ | exact Nat.le_add_right _ _
    | exact Nat.le_refl _)

theorem State.fault_keeps {a s : State} {x0 x1 x2 x3 x4} (h : State.Keeps a s) :
    State.Keeps a (State.fault s x0 x1 x2 x3 x4) := by
  unfold State.fault
  with_reducible repeat' (first
    | exact h | assumption | apply State.capture_keeps | apply State.withFaults_keeps | apply keeps_foldl
    | apply keeps_ite | apply_assumption | dsimp only | split | intro _ _ _ | intro _ _ | exact Nat.le_max_left _ _
    | exact Nat.le_add_right _ _ | exact Nat.le_refl _)

theorem State.checkFault_keeps {a s : State} {x0 x1 x2} (h : State.Keeps a s) :
    State.Keeps a (State.checkFault s x0 x1 x2) := by
  unfold State.checkFault
  with_reducible repeat' (first
    | exact h | assumption | apply State.fault_keeps | apply keeps_foldl | apply keeps_ite | apply_assumption
    | dsimp only | split | intro _ _ _ | intro _ _ | exact Nat.le_max_left _ _ | exact Nat.le_add_right _ _
    | exact Nat.le_refl _)

theorem State.stateChange_keeps {a s : State} (h : State.Keeps a s) : State.Keeps a (State.stateChange s) := by
  unfold State.stateChange
  with_reducible repeat' (first
    | exact h | assumption | apply State.event_keeps | apply keeps_foldl | apply keeps_ite | apply_assumption
    | dsimp only | split | intro _ _ _ | intro _ _ | exact Nat.le_max_left _ _ | exact Nat.le_add_right _ _
    | exact Nat.le_refl _)

theorem noteStates_keeps {a s : State} {x0} (h : State.Keeps a s) : State.Keeps a (noteStates x0 s) := by
  unfold noteStates
  with_reducible repeat' (first
    | exact h | assumption | apply State.stateChange_keeps | apply keeps_foldl | apply keeps_ite | apply_assumption
    | dsimp only | split | intro _ _ _ | intro _ _ | exact Nat.le_max_left _ _ | exact Nat.le_add_right _ _
    | exact Nat.le_refl _)

theorem State.events_keeps {a s : State} {x0 x1 x2 x3} (h : State.Keeps a s) :
    State.Keeps a (State.events s x0 x1 x2 x3) := by
  unfold State.events
  with_reducible repeat' (first
    | exact h | assumption | apply State.event_keeps | apply State.bump_keeps | apply keeps_foldl | apply keeps_ite
    | apply_assumption | dsimp only | split | intro _ _ _ | intro _ _ | exact Nat.le_max_left _ _
    | exact Nat.le_add_right _ _ | exact Nat.le_refl _)

theorem State.passTo_keeps {a s : State} {x0} (h : State.Keeps a s) : State.Keeps a (State.passTo s x0) := by
  unfold State.passTo
  with_reducible repeat' (first
    | exact h | assumption | apply noteStates_keeps | apply State.withNow_keeps | apply keeps_foldl | apply keeps_ite
    | apply_assumption | dsimp only | split | intro _ _ _ | intro _ _ | exact Nat.le_max_left _ _
    | exact Nat.le_add_right _ _ | exact Nat.le_refl _)

theorem State.deny_keeps {a s : State} {x0} (h : State.Keeps a s) : State.Keeps a (State.deny s x0) := by
  unfold State.deny
  with_reducible repeat' (first
    | exact h | assumption | apply State.event_keeps | apply State.bumpSat_keeps | apply keeps_foldl | apply keeps_ite
    | apply_assumption | dsimp only | split | intro _ _ _ | intro _ _ | exact Nat.le_max_left _ _
    | exact Nat.le_add_right _ _ | exact Nat.le_refl _)

theorem State.advanceTo_keeps {a s : State} {x0} (h : State.Keeps a s) : State.Keeps a (State.advanceTo s x0) := by
  unfold State.advanceTo
  with_reducible repeat' (first
    | exact h | assumption | apply State.passTo_keeps | apply keeps_foldl | apply keeps_ite | apply_assumption
    | dsimp only | split | intro _ _ _ | intro _ _ | exact Nat.le_max_left _ _ | exact Nat.le_add_right _ _
    | exact Nat.le_refl _)

end Sys2Proof.Machine
end

