-- ==== Sys2Proof/Laws/KeepsBells.lean ====
section
/-! SUPPORT. State.Keeps over the definitions of Machine/Bells.lean. -/

namespace Sys2Proof.Machine

theorem State.discardAt_keeps {a s : State} {x0 x1} (h : State.Keeps a s) :
    State.Keeps a (State.discardAt s x0 x1) := by
  unfold State.discardAt
  with_reducible repeat' (first
    | exact h | assumption | apply State.setLoom_keeps | apply State.setSieve_keeps | apply State.setGate_keeps
    | apply State.setPair_keeps | apply keeps_foldl | apply keeps_ite | apply_assumption | dsimp only | split
    | intro _ _ _ | intro _ _ | exact Nat.le_max_left _ _ | exact Nat.le_add_right _ _ | exact Nat.le_refl _)

theorem discardWaiters_keeps {a s : State} {x0 x1 x2} (h : State.Keeps a s) :
    State.Keeps a (discardWaiters s x0 x1 x2) := by
  fun_induction discardWaiters s x0 x1 x2
  with_reducible repeat' (first
    | exact h | assumption | apply State.discardAt_keeps | apply keeps_foldl | apply keeps_ite | apply_assumption
    | dsimp only | split | intro _ _ _ | intro _ _ | exact Nat.le_max_left _ _ | exact Nat.le_add_right _ _
    | exact Nat.le_refl _)

theorem State.signal_keeps {a s : State} {x0 x1 x2 x3} (h : State.Keeps a s) :
    State.Keeps a (State.signal s x0 x1 x2 x3) := by
  unfold State.signal
  with_reducible repeat' (first
    | exact h | assumption | apply State.setBell_keeps | apply State.bump_keeps | apply discardWaiters_keeps
    | apply State.event_keeps | apply keeps_foldl | apply keeps_ite | apply_assumption | dsimp only | split
    | intro _ _ _ | intro _ _ | exact Nat.le_max_left _ _ | exact Nat.le_add_right _ _ | exact Nat.le_refl _)

theorem State.unitSignal_keeps {a s : State} {x0 x1 x2 x3} (h : State.Keeps a s) :
    State.Keeps a (State.unitSignal s x0 x1 x2 x3) := by
  unfold State.unitSignal
  with_reducible repeat' (first
    | exact h | assumption | apply State.signal_keeps | apply State.withFaults_keeps | apply keeps_foldl
    | apply keeps_ite | apply_assumption | dsimp only | split | intro _ _ _ | intro _ _ | exact Nat.le_max_left _ _
    | exact Nat.le_add_right _ _ | exact Nat.le_refl _)

theorem State.signalLogical_keeps {a s : State} {x0 x1 x2 x3} (h : State.Keeps a s) :
    State.Keeps a (State.signalLogical s x0 x1 x2 x3) := by
  unfold State.signalLogical
  with_reducible repeat' (first
    | exact h | assumption | apply State.unitSignal_keeps | apply keeps_foldl | apply keeps_ite | apply_assumption
    | dsimp only | split | intro _ _ _ | intro _ _ | exact Nat.le_max_left _ _ | exact Nat.le_add_right _ _
    | exact Nat.le_refl _)

theorem State.bellWrite_keeps {a s : State} {x0 x1 x2 x3 x4} (h : State.Keeps a s) :
    State.Keeps a (State.bellWrite s x0 x1 x2 x3 x4) := by
  unfold State.bellWrite
  with_reducible repeat' (first
    | exact h | assumption | apply State.deny_keeps | apply State.signal_keeps | apply keeps_foldl | apply keeps_ite
    | apply_assumption | dsimp only | split | intro _ _ _ | intro _ _ | exact Nat.le_max_left _ _
    | exact Nat.le_add_right _ _ | exact Nat.le_refl _)

theorem execBellSet_keeps {a s : State} {x0 x1 x2 x3} (h : State.Keeps a s) :
    KeepsOut a (execBellSet x0 x1 x2 x3 s) := by
  unfold execBellSet
  with_reducible repeat' (first
    | apply keeps_next | exact keeps_fault _ | exact h | assumption | apply State.bellWrite_keeps | apply keeps_foldl
    | apply keepsOut_ite | apply keeps_ite | apply_assumption | dsimp only | split | intro _ _ _ | intro _ _
    | exact Nat.le_max_left _ _ | exact Nat.le_add_right _ _ | exact Nat.le_refl _)

theorem State.proceed_keeps {a s : State} {x0} (h : State.Keeps a s) : State.Keeps a (State.proceed s x0) := by
  unfold State.proceed
  with_reducible repeat' (first
    | exact h | assumption | apply State.setSieve_keeps | apply State.setGate_keeps | apply State.setPair_keeps
    | apply keeps_foldl | apply keeps_ite | apply_assumption | dsimp only | split | intro _ _ _ | intro _ _
    | exact Nat.le_max_left _ _ | exact Nat.le_add_right _ _ | exact Nat.le_refl _)

theorem State.errorWait_keeps {a s : State} {x0} (h : State.Keeps a s) : State.Keeps a (State.errorWait s x0) := by
  unfold State.errorWait
  with_reducible repeat' (first
    | exact h | assumption | apply State.discardAt_keeps | apply keeps_foldl | apply keeps_ite | apply_assumption
    | dsimp only | split | intro _ _ _ | intro _ _ | exact Nat.le_max_left _ _ | exact Nat.le_add_right _ _
    | exact Nat.le_refl _)

theorem execReeveHeartbeat_keeps {a s : State} {x0 x1 x2} (h : State.Keeps a s) :
    KeepsOut a (execReeveHeartbeat x0 x1 x2 s) := by
  unfold execReeveHeartbeat
  with_reducible repeat' (first
    | apply keeps_next | exact keeps_fault _ | exact h | assumption | apply State.setReeve_keeps | apply keeps_foldl
    | apply keepsOut_ite | apply keeps_ite | apply_assumption | dsimp only | split | intro _ _ _ | intro _ _
    | exact Nat.le_max_left _ _ | exact Nat.le_add_right _ _ | exact Nat.le_refl _)

theorem execSignalAdd_keeps {a s : State} {x0 x1 x2} (h : State.Keeps a s) : KeepsOut a (execSignalAdd x0 x1 x2 s) := by
  unfold execSignalAdd
  with_reducible repeat' (first
    | apply keeps_next | exact keeps_fault _ | exact h | assumption | apply State.signal_keeps | apply keeps_foldl
    | apply keepsOut_ite | apply keeps_ite | apply_assumption | dsimp only | split | intro _ _ _ | intro _ _
    | exact Nat.le_max_left _ _ | exact Nat.le_add_right _ _ | exact Nat.le_refl _)

theorem State.countWait_keeps {a s : State} {x0} (h : State.Keeps a s) : State.Keeps a (State.countWait s x0) := by
  unfold State.countWait
  with_reducible repeat' (first
    | exact h | assumption | apply State.bump64_keeps | apply keeps_foldl | apply keeps_ite | apply_assumption
    | dsimp only | split | intro _ _ _ | intro _ _ | exact Nat.le_max_left _ _ | exact Nat.le_add_right _ _
    | exact Nat.le_refl _)

theorem execWaitSatisfied_keeps {a s : State} {x0} (h : State.Keeps a s) : KeepsOut a (execWaitSatisfied x0 s) := by
  unfold execWaitSatisfied
  with_reducible repeat' (first
    | apply keeps_next | exact keeps_fault _ | exact h | assumption | apply State.countWait_keeps
    | apply State.proceed_keeps | apply State.errorWait_keeps | apply keeps_foldl | apply keepsOut_ite
    | apply keeps_ite | apply_assumption | dsimp only | split | intro _ _ _ | intro _ _ | exact Nat.le_max_left _ _
    | exact Nat.le_add_right _ _ | exact Nat.le_refl _)

theorem execSignalSet_keeps {a s : State} {x0 x1 x2} (h : State.Keeps a s) : KeepsOut a (execSignalSet x0 x1 x2 s) := by
  unfold execSignalSet
  with_reducible repeat' (first
    | apply keeps_next | exact keeps_fault _ | exact h | assumption | apply State.signal_keeps | apply keeps_foldl
    | apply keepsOut_ite | apply keeps_ite | apply_assumption | dsimp only | split | intro _ _ _ | intro _ _
    | exact Nat.le_max_left _ _ | exact Nat.le_add_right _ _ | exact Nat.le_refl _)

theorem execSignalMax_keeps {a s : State} {x0 x1 x2} (h : State.Keeps a s) : KeepsOut a (execSignalMax x0 x1 x2 s) := by
  unfold execSignalMax
  with_reducible repeat' (first
    | apply keeps_next | exact keeps_fault _ | exact h | assumption | apply State.signal_keeps | apply keeps_foldl
    | apply keepsOut_ite | apply keeps_ite | apply_assumption | dsimp only | split | intro _ _ _ | intro _ _
    | exact Nat.le_max_left _ _ | exact Nat.le_add_right _ _ | exact Nat.le_refl _)

theorem execBellAdd_keeps {a s : State} {x0 x1 x2 x3} (h : State.Keeps a s) :
    KeepsOut a (execBellAdd x0 x1 x2 x3 s) := by
  unfold execBellAdd
  with_reducible repeat' (first
    | apply keeps_next | exact keeps_fault _ | exact h | assumption | apply State.bellWrite_keeps | apply keeps_foldl
    | apply keepsOut_ite | apply keeps_ite | apply_assumption | dsimp only | split | intro _ _ _ | intro _ _
    | exact Nat.le_max_left _ _ | exact Nat.le_add_right _ _ | exact Nat.le_refl _)

theorem execBellWaitTimeout_keeps {a s : State} {x0} (h : State.Keeps a s) : KeepsOut a (execBellWaitTimeout x0 s) := by
  unfold execBellWaitTimeout
  with_reducible repeat' (first
    | apply keeps_next | exact keeps_fault _ | exact h | assumption | apply State.errorWait_keeps
    | apply State.fault_keeps | apply State.passTo_keeps | apply keeps_foldl | apply keepsOut_ite | apply keeps_ite
    | apply_assumption | dsimp only | split | intro _ _ _ | intro _ _ | exact Nat.le_max_left _ _
    | exact Nat.le_add_right _ _ | exact Nat.le_refl _)

theorem execSignalError_keeps {a s : State} {x0 x1 x2} (h : State.Keeps a s) :
    KeepsOut a (execSignalError x0 x1 x2 s) := by
  unfold execSignalError
  with_reducible repeat' (first
    | apply keeps_next | exact keeps_fault _ | exact h | assumption | apply State.unitSignal_keeps | apply keeps_foldl
    | apply keepsOut_ite | apply keeps_ite | apply_assumption | dsimp only | split | intro _ _ _ | intro _ _
    | exact Nat.le_max_left _ _ | exact Nat.le_add_right _ _ | exact Nat.le_refl _)

theorem execReeveWatchdogExpiry_keeps {a s : State} {x0 x1} (h : State.Keeps a s) :
    KeepsOut a (execReeveWatchdogExpiry x0 x1 s) := by
  unfold execReeveWatchdogExpiry
  with_reducible repeat' (first
    | apply keeps_next | exact keeps_fault _ | exact h | assumption | apply State.fault_keeps
    | apply State.setReeve_keeps | apply State.passTo_keeps | apply keeps_foldl | apply keepsOut_ite | apply keeps_ite
    | apply_assumption | dsimp only | split | intro _ _ _ | intro _ _ | exact Nat.le_max_left _ _
    | exact Nat.le_add_right _ _ | exact Nat.le_refl _)

end Sys2Proof.Machine
end

