-- ==== Sys2Proof/Laws/KeepsHbm.lean ====
section
/-! SUPPORT. State.Keeps over the definitions of Machine/Hbm.lean. -/

namespace Sys2Proof.Machine

theorem wake_keeps {a s : State} {x0} (h : State.Keeps a s) : State.Keeps a (wake x0 s) := by
  fun_induction wake x0 s
  with_reducible repeat' (first
    | exact h | assumption | apply State.setFld_keeps | apply keeps_foldl | apply keeps_ite | apply_assumption
    | dsimp only | split | intro _ _ _ | intro _ _ | exact Nat.le_max_left _ _ | exact Nat.le_add_right _ _
    | exact Nat.le_refl _)

theorem State.wakeSpans_keeps {a s : State} {x0} (h : State.Keeps a s) : State.Keeps a (State.wakeSpans s x0) := by
  unfold State.wakeSpans
  with_reducible repeat' (first
    | exact h | assumption | apply wake_keeps | apply keeps_foldl | apply keeps_ite | apply_assumption | dsimp only
    | split | intro _ _ _ | intro _ _ | exact Nat.le_max_left _ _ | exact Nat.le_add_right _ _ | exact Nat.le_refl _)

theorem State.ueEvent_keeps {a s : State} {x0} (h : State.Keeps a s) : State.Keeps a (State.ueEvent s x0) := by
  unfold State.ueEvent
  with_reducible repeat' (first
    | exact h | assumption | apply State.setFld_keeps | apply State.setReg_keeps | apply State.event_keeps
    | apply State.bump_keeps | apply State.withFaults_keeps | apply keeps_foldl | apply keeps_ite | apply_assumption
    | dsimp only | split | intro _ _ _ | intro _ _ | exact Nat.le_max_left _ _ | exact Nat.le_add_right _ _
    | exact Nat.le_refl _)

theorem ueEvents_keeps {a s : State} {x0 x1}
    (hx0 : ∀ y s, State.Keeps a s → State.Keeps a (x0 y s)) (h : State.Keeps a s) :
    State.Keeps a (ueEvents x0 x1 s) := by
  fun_induction ueEvents x0 x1 s
  with_reducible repeat' (first
    | exact h | assumption | apply State.ueEvent_keeps | apply keeps_foldl | apply keeps_ite | apply_assumption
    | dsimp only | split | intro _ _ _ | intro _ _ | exact Nat.le_max_left _ _ | exact Nat.le_add_right _ _
    | exact Nat.le_refl _)

theorem State.ceEvent_keeps {a s : State} {x0 x1} (h : State.Keeps a s) : State.Keeps a (State.ceEvent s x0 x1) := by
  unfold State.ceEvent
  with_reducible repeat' (first
    | exact h | assumption | apply State.setReg_keeps | apply State.setStack_keeps | apply State.event_keeps
    | apply State.bump_keeps | apply keeps_foldl | apply keeps_ite | apply_assumption | dsimp only | split
    | intro _ _ _ | intro _ _ | exact Nat.le_max_left _ _ | exact Nat.le_add_right _ _ | exact Nat.le_refl _)

theorem ceEvents_keeps {a s : State} {x0 x1} (h : State.Keeps a s) : State.Keeps a (ceEvents x0 x1 s) := by
  fun_induction ceEvents x0 x1 s
  with_reducible repeat' (first
    | exact h | assumption | apply State.ceEvent_keeps | apply keeps_foldl | apply keeps_ite | apply_assumption
    | dsimp only | split | intro _ _ _ | intro _ _ | exact Nat.le_max_left _ _ | exact Nat.le_add_right _ _
    | exact Nat.le_refl _)

theorem State.eccRead_keeps {a s : State} {x0 x1}
    (hx0 : ∀ y s, State.Keeps a s → State.Keeps a (x0 y s)) (h : State.Keeps a s) :
    State.Keeps a (State.eccRead s x0 x1) := by
  unfold State.eccRead
  with_reducible repeat' (first
    | exact h | assumption | apply ueEvents_keeps | apply ceEvents_keeps | apply keeps_foldl | apply keeps_ite
    | apply_assumption | dsimp only | split | intro _ _ _ | intro _ _ | exact Nat.le_max_left _ _
    | exact Nat.le_add_right _ _ | exact Nat.le_refl _)

theorem storeSp_keeps {a s : State} {x0 x1 x2} (h : State.Keeps a s) : State.Keeps a (storeSp s x0 x1 x2) := by
  fun_induction storeSp s x0 x1 x2
  with_reducible repeat' (first
    | exact h | assumption | apply State.setByte_keeps | apply keeps_foldl | apply keeps_ite | apply_assumption
    | dsimp only | split | intro _ _ _ | intro _ _ | exact Nat.le_max_left _ _ | exact Nat.le_add_right _ _
    | exact Nat.le_refl _)

theorem State.storeBits_keeps {a s : State} {x0} (h : State.Keeps a s) : State.Keeps a (State.storeBits s x0) := by
  unfold State.storeBits
  with_reducible repeat' (first
    | exact h | assumption | apply storeSp_keeps | apply keeps_foldl | apply keeps_ite | apply_assumption | dsimp only
    | split | intro _ _ _ | intro _ _ | exact Nat.le_max_left _ _ | exact Nat.le_add_right _ _ | exact Nat.le_refl _)

theorem State.healSector_keeps {a s : State} {x0} (h : State.Keeps a s) : State.Keeps a (State.healSector s x0) := by
  unfold State.healSector
  with_reducible repeat' (first
    | exact h | assumption | apply State.setStack_keeps | apply keeps_foldl | apply keeps_ite | apply_assumption
    | dsimp only | split | intro _ _ _ | intro _ _ | exact Nat.le_max_left _ _ | exact Nat.le_add_right _ _
    | exact Nat.le_refl _)

theorem State.settleSector_keeps {a s : State} {x0 x1 x2 x3}
    (hx1 : ∀ y s, State.Keeps a s → State.Keeps a (x1 y s)) (h : State.Keeps a s) :
    State.Keeps a (State.settleSector x0 x1 x2 s x3) := by
  unfold State.settleSector
  with_reducible repeat' (first
    | exact h | assumption | apply State.healSector_keeps | apply State.ueEvent_keeps | apply storeSp_keeps
    | apply State.ceEvent_keeps | apply keeps_foldl | apply keeps_ite | apply_assumption | dsimp only | split
    | intro _ _ _ | intro _ _ | exact Nat.le_max_left _ _ | exact Nat.le_add_right _ _ | exact Nat.le_refl _)

theorem State.storeAll_keeps {a s : State} {x0 x1}
    (hx0 : ∀ y s, State.Keeps a s → State.Keeps a (x0 y s)) (h : State.Keeps a s) :
    State.Keeps a (State.storeAll s x0 x1) := by
  unfold State.storeAll
  with_reducible repeat' (first
    | exact h | assumption | apply State.storeBits_keeps | apply State.settleSector_keeps | apply keeps_foldl
    | apply keeps_ite | apply_assumption | dsimp only | split | intro _ _ _ | intro _ _ | exact Nat.le_max_left _ _
    | exact Nat.le_add_right _ _ | exact Nat.le_refl _)

theorem State.wakeStacks_keeps {a s : State} {x0} (h : State.Keeps a s) : State.Keeps a (State.wakeStacks s x0) := by
  unfold State.wakeStacks
  with_reducible repeat' (first
    | exact h | assumption | apply wake_keeps | apply keeps_foldl | apply keeps_ite | apply_assumption | dsimp only
    | split | intro _ _ _ | intro _ _ | exact Nat.le_max_left _ _ | exact Nat.le_add_right _ _ | exact Nat.le_refl _)

theorem State.countEv_keeps {a s : State} {x0} (h : State.Keeps a s) : State.Keeps a (State.countEv s x0) := by
  unfold State.countEv
  with_reducible repeat' (first
    | exact h | assumption | apply State.events_keeps | apply keeps_foldl | apply keeps_ite | apply_assumption
    | dsimp only | split | intro _ _ _ | intro _ _ | exact Nat.le_max_left _ _ | exact Nat.le_add_right _ _
    | exact Nat.le_refl _)

theorem openSector_keeps {a s : State} {x0} (h : State.Keeps a s) : State.Keeps a (openSector x0 s) := storeSp_keeps (State.withFreeCount_keeps h (Nat.le_succ _))

theorem State.loaderRead_keeps {a s : State} {x0} (h : State.Keeps a s) : State.Keeps a (State.loaderRead s x0) := by
  unfold State.loaderRead
  with_reducible repeat' (first
    | exact h | assumption | apply State.wakeSpans_keeps | apply State.eccRead_keeps | apply openSector_keeps
    | apply keeps_foldl | apply keeps_ite | apply_assumption | dsimp only | split | intro _ _ _ | intro _ _
    | exact Nat.le_max_left _ _ | exact Nat.le_add_right _ _ | exact Nat.le_refl _)

theorem State.loaderWrite_keeps {a s : State} {x0 x1 x2} (h : State.Keeps a s) :
    State.Keeps a (State.loaderWrite s x0 x1 x2) := by
  unfold State.loaderWrite
  with_reducible repeat' (first
    | exact h | assumption | apply State.storeAll_keeps | apply State.wakeSpans_keeps | apply keeps_foldl
    | apply keeps_ite | apply_assumption | dsimp only | split | intro _ _ _ | intro _ _ | exact Nat.le_max_left _ _
    | exact Nat.le_add_right _ _ | exact Nat.le_refl _)

theorem State.loaderBytes_keeps {a s : State} {x0 x1 x2} (h : State.Keeps a s) :
    State.Keeps a (State.loaderBytes s x0 x1 x2).2 := by
  unfold State.loaderBytes
  with_reducible repeat' (first
    | exact h | assumption | apply State.loaderRead_keeps | apply keeps_foldl | apply keeps_snd_ite | apply keeps_ite
    | apply_assumption | dsimp only | split | intro _ _ _ | intro _ _ | exact Nat.le_max_left _ _
    | exact Nat.le_add_right _ _ | exact Nat.le_refl _)

theorem weaken_keeps {a s : State} {x0} (h : State.Keeps a s) : State.Keeps a (weaken x0 s) := by
  fun_induction weaken x0 s
  with_reducible repeat' (first
    | exact h | assumption | apply State.setStack_keeps | apply keeps_foldl | apply keeps_ite | apply_assumption
    | dsimp only | split | intro _ _ _ | intro _ _ | exact Nat.le_max_left _ _ | exact Nat.le_add_right _ _
    | exact Nat.le_refl _)

end Sys2Proof.Machine
end

