-- ==== Sys2Proof/Laws/KeepsPorts.lean ====
section
/-! SUPPORT. State.Keeps over the definitions of Machine/Ports.lean. -/

namespace Sys2Proof.Machine

theorem State.newCounts_keeps {a s : State} {x0 x1} (h : State.Keeps a s) :
    State.Keeps a (State.newCounts s x0 x1) := by
  unfold State.newCounts
  with_reducible repeat' (first
    | exact h | assumption | apply State.withFerry_keeps | apply keeps_foldl | apply keeps_ite | apply_assumption
    | dsimp only | split | intro _ _ _ | intro _ _ | exact Nat.le_max_left _ _ | exact Nat.le_add_right _ _
    | exact Nat.le_refl _)

theorem State.enqueue_keeps {a s : State} {x0 x1 x2} (h : State.Keeps a s) :
    State.Keeps a (State.enqueue s x0 x1 x2) := by
  unfold State.enqueue
  with_reducible repeat' (first
    | exact h | assumption | apply State.setPort_keeps | apply keeps_foldl | apply keeps_ite | apply_assumption
    | dsimp only | split | intro _ _ _ | intro _ _ | exact Nat.le_max_left _ _ | exact Nat.le_add_right _ _
    | exact Nat.le_refl _)

theorem State.freeFlit_keeps {a s : State} {x0 x1 x2} (h : State.Keeps a s) :
    State.Keeps a (State.freeFlit s x0 x1 x2) := by
  unfold State.freeFlit
  with_reducible repeat' (first
    | exact h | assumption | apply State.setPort_keeps | apply keeps_foldl | apply keeps_ite | apply_assumption
    | dsimp only | split | intro _ _ _ | intro _ _ | exact Nat.le_max_left _ _ | exact Nat.le_add_right _ _
    | exact Nat.le_refl _)

theorem State.freeWait_keeps {a s : State} {x0} (h : State.Keeps a s) : State.Keeps a (State.freeWait s x0) := by
  unfold State.freeWait
  with_reducible repeat' (first
    | exact h | assumption | apply State.freeFlit_keeps | apply keeps_foldl | apply keeps_ite | apply_assumption
    | dsimp only | split | intro _ _ _ | intro _ _ | exact Nat.le_max_left _ _ | exact Nat.le_add_right _ _
    | exact Nat.le_refl _)

theorem State.forward_keeps {a s : State} {x0 x1} (h : State.Keeps a s) : State.Keeps a (State.forward s x0 x1) := by
  unfold State.forward
  with_reducible repeat' (first
    | exact h | assumption | apply State.enqueue_keeps | apply State.freeWait_keeps | apply State.event_keeps
    | apply State.bump_keeps | apply keeps_foldl | apply keeps_ite | apply_assumption | dsimp only | split
    | intro _ _ _ | intro _ _ | exact Nat.le_max_left _ _ | exact Nat.le_add_right _ _ | exact Nat.le_refl _)

theorem forwardAll_keeps {a s : State} {x0 x1} (h : State.Keeps a s) : State.Keeps a (forwardAll x0 x1 s) := by
  fun_induction forwardAll x0 x1 s
  with_reducible repeat' (first
    | exact h | assumption | apply State.forward_keeps | apply keeps_foldl | apply keeps_ite | apply_assumption
    | dsimp only | split | intro _ _ _ | intro _ _ | exact Nat.le_max_left _ _ | exact Nat.le_add_right _ _
    | exact Nat.le_refl _)

theorem State.setPortState_keeps {a s : State} {x0 x1 x2} (h : State.Keeps a s) :
    State.Keeps a (State.setPortState s x0 x1 x2) := by
  unfold State.setPortState
  with_reducible repeat' (first
    | exact h | assumption | apply State.setFld_keeps | apply keeps_foldl | apply keeps_ite | apply_assumption
    | dsimp only | split | intro _ _ _ | intro _ _ | exact Nat.le_max_left _ _ | exact Nat.le_add_right _ _
    | exact Nat.le_refl _)

theorem State.leaveUp_keeps {a s : State} {x0 x1 x2 x3} (h : State.Keeps a s) :
    State.Keeps a (State.leaveUp s x0 x1 x2 x3) := by
  unfold State.leaveUp
  with_reducible repeat' (first
    | exact h | assumption | apply State.newCounts_keeps | apply forwardAll_keeps | apply State.setPortState_keeps
    | apply State.setPort_keeps | apply keeps_foldl | apply keeps_ite | apply_assumption | dsimp only | split
    | intro _ _ _ | intro _ _ | exact Nat.le_max_left _ _ | exact Nat.le_add_right _ _ | exact Nat.le_refl _)

theorem State.portLost_keeps {a s : State} {x0 x1 x2} (h : State.Keeps a s) :
    State.Keeps a (State.portLost s x0 x1 x2) := by
  unfold State.portLost
  with_reducible repeat' (first
    | exact h | assumption | apply State.leaveUp_keeps | apply State.fault_keeps | apply State.event_keeps
    | apply keeps_foldl | apply keeps_ite | apply_assumption | dsimp only | split | intro _ _ _ | intro _ _
    | exact Nat.le_max_left _ _ | exact Nat.le_add_right _ _ | exact Nat.le_refl _)

theorem State.replayPort_keeps {a s : State} {x0 x1} (h : State.Keeps a s) :
    State.Keeps a (State.replayPort s x0 x1) := by
  unfold State.replayPort
  with_reducible repeat' (first
    | exact h | assumption | apply State.setPort_keeps | apply State.event_keeps | apply State.bump_keeps
    | apply State.portLost_keeps | apply keeps_foldl | apply keeps_ite | apply_assumption | dsimp only | split
    | intro _ _ _ | intro _ _ | exact Nat.le_max_left _ _ | exact Nat.le_add_right _ _ | exact Nat.le_refl _)

theorem State.headerIn_keeps {a s : State} {x0 x1 x2} (h : State.Keeps a s) :
    State.Keeps a (State.headerIn s x0 x1 x2) := by
  unfold State.headerIn
  with_reducible repeat' (first
    | exact h | assumption | apply State.setPort_keeps | apply State.replayPort_keeps | apply keeps_foldl
    | apply keeps_ite | apply_assumption | dsimp only | split | intro _ _ _ | intro _ _ | exact Nat.le_max_left _ _
    | exact Nat.le_add_right _ _ | exact Nat.le_refl _)

theorem State.emitFlit_keeps {a s : State} {x0 x1 x2} (h : State.Keeps a s) :
    State.Keeps a (State.emitFlit s x0 x1 x2) := by
  unfold State.emitFlit
  with_reducible repeat' (first
    | exact h | assumption | apply State.sendFlit_keeps | apply keeps_foldl | apply keeps_ite | apply_assumption
    | dsimp only | split | intro _ _ _ | intro _ _ | exact Nat.le_max_left _ _ | exact Nat.le_add_right _ _
    | exact Nat.le_refl _)

theorem State.nakEpisode_keeps {a s : State} {x0 x1} (h : State.Keeps a s) :
    State.Keeps a (State.nakEpisode s x0 x1) := by
  unfold State.nakEpisode
  with_reducible repeat' (first
    | exact h | assumption | apply State.setPort_keeps | apply keeps_foldl | apply keeps_ite | apply_assumption
    | dsimp only | split | intro _ _ _ | intro _ _ | exact Nat.le_max_left _ _ | exact Nat.le_add_right _ _
    | exact Nat.le_refl _)

theorem State.linkIn_keeps {a s : State} {x0 x1 x2} (h : State.Keeps a s) :
    State.Keeps a (State.linkIn s x0 x1 x2).1 := by
  unfold State.linkIn
  with_reducible repeat' (first
    | exact h | assumption | apply State.nakEpisode_keeps | apply State.event_keeps | apply State.bump_keeps
    | apply State.headerIn_keeps | apply State.setPort_keeps | apply State.freeFlit_keeps | apply keeps_foldl
    | apply keeps_fst_ite | apply keeps_ite | apply_assumption | dsimp only | split | intro _ _ _ | intro _ _
    | exact Nat.le_max_left _ _ | exact Nat.le_add_right _ _ | exact Nat.le_refl _)

theorem State.identIn_keeps {a s : State} {x0 x1 x2} (h : State.Keeps a s) :
    State.Keeps a (State.identIn s x0 x1 x2) := by
  unfold State.identIn
  with_reducible repeat' (first
    | exact h | assumption | apply State.setFld_keeps | apply State.enqueue_keeps | apply State.setPort_keeps
    | apply keeps_foldl | apply keeps_ite | apply_assumption | dsimp only | split | intro _ _ _ | intro _ _
    | exact Nat.le_max_left _ _ | exact Nat.le_add_right _ _ | exact Nat.le_refl _)

theorem State.echoIn_keeps {a s : State} {x0 x1 x2} (h : State.Keeps a s) :
    State.Keeps a (State.echoIn s x0 x1 x2) := by
  unfold State.echoIn
  with_reducible repeat' (first
    | exact h | assumption | apply State.setFld_keeps | apply State.event_keeps | apply State.setPortState_keeps
    | apply State.setPort_keeps | apply State.enqueue_keeps | apply keeps_foldl | apply keeps_ite | apply_assumption
    | dsimp only | split | intro _ _ _ | intro _ _ | exact Nat.le_max_left _ _ | exact Nat.le_add_right _ _
    | exact Nat.le_refl _)

theorem State.linkOp_keeps {a s : State} {x0 x1 x2} (h : State.Keeps a s) :
    State.Keeps a (State.linkOp s x0 x1 x2) := by
  unfold State.linkOp
  with_reducible repeat' (first
    | exact h | assumption | apply State.identIn_keeps | apply State.enqueue_keeps | apply State.echoIn_keeps
    | apply State.freeFlit_keeps | apply keeps_foldl | apply keeps_ite | apply_assumption | dsimp only | split
    | intro _ _ _ | intro _ _ | exact Nat.le_max_left _ _ | exact Nat.le_add_right _ _ | exact Nat.le_refl _)

theorem State.endTransit_keeps {a s : State} {x0 x1} (h : State.Keeps a s) :
    State.Keeps a (State.endTransit s x0 x1) := by
  unfold State.endTransit
  with_reducible repeat' (first
    | exact h | assumption | apply State.withFerry_keeps | apply keeps_foldl | apply keeps_ite | apply_assumption
    | dsimp only | split | intro _ _ _ | intro _ _ | exact Nat.le_max_left _ _ | exact Nat.le_add_right _ _
    | exact Nat.le_refl _)

theorem freeFlits_keeps {a s : State} {x0 x1 x2 x3} (h : State.Keeps a s) :
    State.Keeps a (freeFlits x0 x1 x2 x3 s) := by
  fun_induction freeFlits x0 x1 x2 x3 s
  with_reducible repeat' (first
    | exact h | assumption | apply State.freeFlit_keeps | apply keeps_foldl | apply keeps_ite | apply_assumption
    | dsimp only | split | intro _ _ _ | intro _ _ | exact Nat.le_max_left _ _ | exact Nat.le_add_right _ _
    | exact Nat.le_refl _)

theorem freeTiles_keeps {a s : State} {x0} (h : State.Keeps a s) : State.Keeps a (freeTiles x0 s) := by
  fun_induction freeTiles x0 s
  with_reducible repeat' (first
    | exact h | assumption | apply freeFlits_keeps | apply keeps_foldl | apply keeps_ite | apply_assumption
    | dsimp only | split | intro _ _ _ | intro _ _ | exact Nat.le_max_left _ _ | exact Nat.le_add_right _ _
    | exact Nat.le_refl _)

theorem State.sendTo_keeps {a s : State} {x0 x1 x2 x3 x4 x5 x6 x7 x8} (h : State.Keeps a s) :
    State.Keeps a (State.sendTo s x0 x1 x2 x3 x4 x5 x6 x7 x8) := by
  unfold State.sendTo
  with_reducible repeat' (first
    | exact h | assumption | apply State.enqueue_keeps | apply keeps_foldl | apply keeps_ite | apply_assumption
    | dsimp only | split | intro _ _ _ | intro _ _ | exact Nat.le_max_left _ _ | exact Nat.le_add_right _ _
    | exact Nat.le_refl _)

theorem treeSend_keeps {a s : State} {x0 x1 x2 x3 x4 x5 x6} (h : State.Keeps a s) :
    State.Keeps a (treeSend x0 x1 x2 x3 x4 x5 x6 s) := by
  fun_induction treeSend x0 x1 x2 x3 x4 x5 x6 s
  with_reducible repeat' (first
    | exact h | assumption | apply State.sendTo_keeps | apply keeps_foldl | apply keeps_ite | apply_assumption
    | dsimp only | split | intro _ _ _ | intro _ _ | exact Nat.le_max_left _ _ | exact Nat.le_add_right _ _
    | exact Nat.le_refl _)

theorem State.jobTree_keeps {a s : State} {x0 x1 x2 x3} (h : State.Keeps a s) :
    State.Keeps a (State.jobTree s x0 x1 x2 x3) := by
  unfold State.jobTree
  with_reducible repeat' (first
    | exact h | assumption | apply treeSend_keeps | apply keeps_foldl | apply keeps_ite | apply_assumption
    | dsimp only | split | intro _ _ _ | intro _ _ | exact Nat.le_max_left _ _ | exact Nat.le_add_right _ _
    | exact Nat.le_refl _)

theorem State.dropFlits_keeps {a s : State} {x0} (h : State.Keeps a s) : State.Keeps a (State.dropFlits s x0) := by
  unfold State.dropFlits
  with_reducible repeat' (first
    | exact h | assumption | apply freeTiles_keeps | apply State.withFerry_keeps | apply keeps_foldl | apply keeps_ite
    | apply_assumption | dsimp only | split | intro _ _ _ | intro _ _ | exact Nat.le_max_left _ _
    | exact Nat.le_add_right _ _ | exact Nat.le_refl _)

theorem State.portDown_keeps {a s : State} {x0 x1} (h : State.Keeps a s) : State.Keeps a (State.portDown s x0 x1) := by
  unfold State.portDown
  with_reducible repeat' (first
    | exact h | assumption | apply State.leaveUp_keeps | apply keeps_foldl | apply keeps_ite | apply_assumption
    | dsimp only | split | intro _ _ _ | intro _ _ | exact Nat.le_max_left _ _ | exact Nat.le_add_right _ _
    | exact Nat.le_refl _)

theorem portsDown_keeps {a s : State} {x0 x1} (h : State.Keeps a s) : State.Keeps a (portsDown x0 x1 s) := by
  fun_induction portsDown x0 x1 s
  with_reducible repeat' (first
    | exact h | assumption | apply State.portDown_keeps | apply keeps_foldl | apply keeps_ite | apply_assumption
    | dsimp only | split | intro _ _ _ | intro _ _ | exact Nat.le_max_left _ _ | exact Nat.le_add_right _ _
    | exact Nat.le_refl _)

theorem State.diePortsDown_keeps {a s : State} {x0} (h : State.Keeps a s) :
    State.Keeps a (State.diePortsDown s x0) := by
  unfold State.diePortsDown
  with_reducible repeat' (first
    | exact h | assumption | apply portsDown_keeps | apply keeps_foldl | apply keeps_ite | apply_assumption
    | dsimp only | split | intro _ _ _ | intro _ _ | exact Nat.le_max_left _ _ | exact Nat.le_add_right _ _
    | exact Nat.le_refl _)

theorem State.trainPort_keeps {a s : State} {x0 x1} (h : State.Keeps a s) :
    State.Keeps a (State.trainPort s x0 x1) := by
  unfold State.trainPort
  with_reducible repeat' (first
    | exact h | assumption | apply State.leaveUp_keeps | apply State.setFld_keeps | apply keeps_foldl
    | apply keeps_ite | apply_assumption | dsimp only | split | intro _ _ _ | intro _ _ | exact Nat.le_max_left _ _
    | exact Nat.le_add_right _ _ | exact Nat.le_refl _)

theorem State.retrain_keeps {a s : State} {x0 x1} (h : State.Keeps a s) : State.Keeps a (State.retrain s x0 x1) := by
  unfold State.retrain
  with_reducible repeat' (first
    | exact h | assumption | apply State.trainPort_keeps | apply State.setFld_keeps | apply keeps_foldl
    | apply keeps_ite | apply_assumption | dsimp only | split | intro _ _ _ | intro _ _ | exact Nat.le_max_left _ _
    | exact Nat.le_add_right _ _ | exact Nat.le_refl _)

theorem sendFlits_keeps {a s : State} {x0 x1 x2 x3 x4 x5 x6 x7} (h : State.Keeps a s) :
    State.Keeps a (sendFlits x0 x1 x2 x3 x4 x5 x6 x7 s) := by
  fun_induction sendFlits x0 x1 x2 x3 x4 x5 x6 x7 s
  with_reducible repeat' (first
    | exact h | assumption | apply State.sendTo_keeps | apply keeps_foldl | apply keeps_ite | apply_assumption
    | dsimp only | split | intro _ _ _ | intro _ _ | exact Nat.le_max_left _ _ | exact Nat.le_add_right _ _
    | exact Nat.le_refl _)

theorem State.sendTile_keeps {a s : State} {x0 x1 x2 x3 x4 x5} (h : State.Keeps a s) :
    State.Keeps a (State.sendTile s x0 x1 x2 x3 x4 x5) := by
  unfold State.sendTile
  with_reducible repeat' (first
    | exact h | assumption | apply sendFlits_keeps | apply keeps_foldl | apply keeps_ite | apply_assumption
    | dsimp only | split | intro _ _ _ | intro _ _ | exact Nat.le_max_left _ _ | exact Nat.le_add_right _ _
    | exact Nat.le_refl _)

theorem State.sendBell_keeps {a s : State} {x0 x1 x2 x3 x4 x5 x6 x7} (h : State.Keeps a s) :
    State.Keeps a (State.sendBell s x0 x1 x2 x3 x4 x5 x6 x7) := by
  unfold State.sendBell
  with_reducible repeat' (first
    | exact h | assumption | apply State.sendTo_keeps | apply keeps_foldl | apply keeps_ite | apply_assumption
    | dsimp only | split | intro _ _ _ | intro _ _ | exact Nat.le_max_left _ _ | exact Nat.le_add_right _ _
    | exact Nat.le_refl _)

theorem State.sendNew_keeps {a s : State} {x0 x1 x2 x3} (h : State.Keeps a s) :
    State.Keeps a (State.sendNew s x0 x1 x2 x3) := by
  unfold State.sendNew
  with_reducible repeat' (first
    | exact h | assumption | apply State.setPort_keeps | apply State.freeWait_keeps | apply State.withFlight_keeps
    | apply State.emitFlit_keeps | apply State.bump_keeps | apply keeps_foldl | apply keeps_ite | apply_assumption
    | dsimp only | split | intro _ _ _ | intro _ _ | exact Nat.le_max_left _ _ | exact Nat.le_add_right _ _
    | exact Nat.le_refl _)

theorem State.idleSlot_keeps {a s : State} {x0 x1} (h : State.Keeps a s) : State.Keeps a (State.idleSlot s x0 x1) := by
  unfold State.idleSlot
  with_reducible repeat' (first
    | exact h | assumption | apply State.emitFlit_keeps | apply State.setPort_keeps | apply keeps_foldl
    | apply keeps_ite | apply_assumption | dsimp only | split | intro _ _ _ | intro _ _ | exact Nat.le_max_left _ _
    | exact Nat.le_add_right _ _ | exact Nat.le_refl _)

theorem State.portSlot_keeps {a s : State} {x0 x1} (h : State.Keeps a s) : State.Keeps a (State.portSlot s x0 x1) := by
  unfold State.portSlot
  with_reducible repeat' (first
    | exact h | assumption | apply State.idleSlot_keeps | apply State.setPort_keeps | apply State.emitFlit_keeps
    | apply State.bump_keeps | apply State.sendNew_keeps | apply keeps_foldl | apply keeps_ite | apply_assumption
    | dsimp only | split | intro _ _ _ | intro _ _ | exact Nat.le_max_left _ _ | exact Nat.le_add_right _ _
    | exact Nat.le_refl _)

theorem execFlitTransmit_keeps {a s : State} {x0 x1} (h : State.Keeps a s) : KeepsOut a (execFlitTransmit x0 x1 s) := by
  unfold execFlitTransmit
  with_reducible repeat' (first
    | apply keeps_next | exact keeps_fault _ | exact h | assumption | apply State.portSlot_keeps | apply keeps_foldl
    | apply keepsOut_ite | apply keeps_ite | apply_assumption | dsimp only | split | intro _ _ _ | intro _ _
    | exact Nat.le_max_left _ _ | exact Nat.le_add_right _ _ | exact Nat.le_refl _)

theorem execPhyLock_keeps {a s : State} {x0 x1} (h : State.Keeps a s) : KeepsOut a (execPhyLock x0 x1 s) := by
  unfold execPhyLock
  with_reducible repeat' (first
    | apply keeps_next | exact keeps_fault _ | exact h | assumption | apply State.trainPort_keeps
    | apply State.enqueue_keeps | apply keeps_foldl | apply keepsOut_ite | apply keeps_ite | apply_assumption
    | dsimp only | split | intro _ _ _ | intro _ _ | exact Nat.le_max_left _ _ | exact Nat.le_add_right _ _
    | exact Nat.le_refl _)

theorem execReplayTimeout_keeps {a s : State} {x0 x1} (h : State.Keeps a s) :
    KeepsOut a (execReplayTimeout x0 x1 s) := by
  unfold execReplayTimeout
  with_reducible repeat' (first
    | apply keeps_next | exact keeps_fault _ | exact h | assumption | apply State.replayPort_keeps | apply keeps_foldl
    | apply keepsOut_ite | apply keeps_ite | apply_assumption | dsimp only | split | intro _ _ _ | intro _ _
    | exact Nat.le_max_left _ _ | exact Nat.le_add_right _ _ | exact Nat.le_refl _)

theorem execIdleFlit_keeps {a s : State} {x0 x1 x2} (h : State.Keeps a s) : KeepsOut a (execIdleFlit x0 x1 x2 s) := by
  unfold execIdleFlit
  with_reducible repeat' (first
    | apply keeps_next | exact keeps_fault _ | exact h | assumption
    | refine keeps_fst (by assumption) (State.linkIn_keeps ?_) | apply State.linkIn_keeps | apply keeps_foldl
    | apply keepsOut_ite | apply keeps_ite | apply_assumption | dsimp only | split | intro _ _ _ | intro _ _
    | exact Nat.le_max_left _ _ | exact Nat.le_add_right _ _ | exact Nat.le_refl _)

theorem execPhyLockLost_keeps {a s : State} {x0 x1} (h : State.Keeps a s) : KeepsOut a (execPhyLockLost x0 x1 s) := by
  unfold execPhyLockLost
  with_reducible repeat' (first
    | apply keeps_next | exact keeps_fault _ | exact h | assumption | apply State.portLost_keeps | apply keeps_foldl
    | apply keepsOut_ite | apply keeps_ite | apply_assumption | dsimp only | split | intro _ _ _ | intro _ _
    | exact Nat.le_max_left _ _ | exact Nat.le_add_right _ _ | exact Nat.le_refl _)

theorem enqueueAll_keeps {a s : State} {x0 x1 x2} (h : State.Keeps a s) : State.Keeps a (enqueueAll x0 x1 x2 s) := by
  fun_induction enqueueAll x0 x1 x2 s
  with_reducible repeat' (first
    | exact h | assumption | apply State.enqueue_keeps | apply keeps_foldl | apply keeps_ite | apply_assumption
    | dsimp only | split | intro _ _ _ | intro _ _ | exact Nat.le_max_left _ _ | exact Nat.le_add_right _ _
    | exact Nat.le_refl _)

end Sys2Proof.Machine
end

