-- ==== Sys2Proof/Laws/KeepsJobReset.lean ====
section
/-! SUPPORT. State.Keeps over the definitions of Machine/JobReset.lean. -/

namespace Sys2Proof.Machine

theorem State.bellsReset_keeps {a s : State} {x0} (h : State.Keeps a s) : State.Keeps a (State.bellsReset s x0) := by
  unfold State.bellsReset
  with_reducible repeat' (first
    | exact h | assumption | apply State.withBells_keeps | apply keeps_foldl | apply keeps_ite | apply_assumption
    | dsimp only | split | intro _ _ _ | intro _ _ | exact Nat.le_max_left _ _ | exact Nat.le_add_right _ _
    | exact Nat.le_refl _)

theorem State.takeSector_keeps {a s : State} {x0 x1 x2 x3} (h : State.Keeps a s) :
    State.Keeps a (State.takeSector s x0 x1 x2 x3) := by
  unfold State.takeSector
  with_reducible repeat' (first
    | exact h | assumption | apply storeSp_keeps | apply State.settleSector_keeps | apply keeps_foldl
    | apply keeps_ite | apply_assumption | dsimp only | split | intro _ _ _ | intro _ _ | exact Nat.le_max_left _ _
    | exact Nat.le_add_right _ _ | exact Nat.le_refl _)

theorem partSectors_keeps {a s : State} {x0 x1 x2 x3} (h : State.Keeps a s) :
    State.Keeps a (partSectors x0 x1 x2 x3 s) := by
  fun_induction partSectors x0 x1 x2 x3 s
  with_reducible repeat' (first
    | exact h | assumption | refine keeps_snd (by assumption) (State.openValue_keeps ?_) | apply State.openValue_keeps
    | apply State.takeSector_keeps | apply keeps_foldl | apply keeps_ite | apply_assumption | dsimp only | split
    | intro _ _ _ | intro _ _ | exact Nat.le_max_left _ _ | exact Nat.le_add_right _ _ | exact Nat.le_refl _)

theorem State.stopGran_keeps {a s : State} {x0 x1} (h : State.Keeps a s) : State.Keeps a (State.stopGran s x0 x1) := by
  unfold State.stopGran
  with_reducible repeat' (first
    | exact h | assumption | apply partSectors_keeps | apply State.storeBits_keeps | apply keeps_foldl
    | apply keeps_ite | apply_assumption | dsimp only | split | intro _ _ _ | intro _ _ | exact Nat.le_max_left _ _
    | exact Nat.le_add_right _ _ | exact Nat.le_refl _)

theorem stopGrans_keeps {a s : State} {x0 x1} (h : State.Keeps a s) : State.Keeps a (stopGrans x0 x1 s) := by
  fun_induction stopGrans x0 x1 s
  with_reducible repeat' (first
    | exact h | assumption | apply State.stopGran_keeps | apply keeps_foldl | apply keeps_ite | apply_assumption
    | dsimp only | split | intro _ _ _ | intro _ _ | exact Nat.le_max_left _ _ | exact Nat.le_add_right _ _
    | exact Nat.le_refl _)

theorem State.pairReset_keeps {a s : State} {x0 x1} (h : State.Keeps a s) :
    State.Keeps a (State.pairReset s x0 x1) := by
  unfold State.pairReset
  with_reducible repeat' (first
    | exact h | assumption | apply State.setPair_keeps | apply stopGrans_keeps | apply keeps_foldl | apply keeps_ite
    | apply_assumption | dsimp only | split | intro _ _ _ | intro _ _ | exact Nat.le_max_left _ _
    | exact Nat.le_add_right _ _ | exact Nat.le_refl _)

theorem pairResets_keeps {a s : State} {x0 x1} (h : State.Keeps a s) : State.Keeps a (pairResets x0 x1 s) := by
  fun_induction pairResets x0 x1 s
  with_reducible repeat' (first
    | exact h | assumption | apply State.pairReset_keeps | apply keeps_foldl | apply keeps_ite | apply_assumption
    | dsimp only | split | intro _ _ _ | intro _ _ | exact Nat.le_max_left _ _ | exact Nat.le_add_right _ _
    | exact Nat.le_refl _)

theorem reeveResets_keeps {a s : State} {x0 x1} (h : State.Keeps a s) : State.Keeps a (reeveResets x0 x1 s) := by
  fun_induction reeveResets x0 x1 s
  with_reducible repeat' (first
    | exact h | assumption | apply State.setReeve_keeps | apply State.setReg_keeps | apply keeps_foldl
    | apply keeps_ite | apply_assumption | dsimp only | split | intro _ _ _ | intro _ _ | exact Nat.le_max_left _ _
    | exact Nat.le_add_right _ _ | exact Nat.le_refl _)

theorem State.pendingReset_keeps {a s : State} {x0 x1} (h : State.Keeps a s) :
    State.Keeps a (State.pendingReset s x0 x1) := by
  unfold State.pendingReset
  with_reducible repeat' (first
    | exact h | assumption | apply State.withLoader_keeps | apply keeps_foldl | apply keeps_ite | apply_assumption
    | dsimp only | split | intro _ _ _ | intro _ _ | exact Nat.le_max_left _ _ | exact Nat.le_add_right _ _
    | exact Nat.le_refl _)

theorem State.unitsReset_keeps {a s : State} {x0 x1} (h : State.Keeps a s) :
    State.Keeps a (State.unitsReset s x0 x1) := by
  unfold State.unitsReset
  with_reducible repeat' (first
    | exact h | assumption | apply pairResets_keeps | apply State.withLooms_keeps | apply State.withSieves_keeps
    | apply State.withGates_keeps | apply reeveResets_keeps | apply State.dropFlits_keeps
    | apply State.withFlight_keeps | apply State.pendingReset_keeps | apply State.withSram_keeps
    | apply State.withLoader_keeps | apply keeps_foldl | apply keeps_ite | apply_assumption | dsimp only | split
    | intro _ _ _ | intro _ _ | exact Nat.le_max_left _ _ | exact Nat.le_add_right _ _ | exact Nat.le_refl _)

theorem State.jobReset_keeps {a s : State} {x0 x1} (h : State.Keeps a s) : State.Keeps a (State.jobReset s x0 x1) := by
  unfold State.jobReset
  with_reducible repeat' (first
    | exact h | assumption | apply State.bellsReset_keeps | apply State.unitsReset_keeps | apply keeps_foldl
    | apply keeps_ite | apply_assumption | dsimp only | split | intro _ _ _ | intro _ _ | exact Nat.le_max_left _ _
    | exact Nat.le_add_right _ _ | exact Nat.le_refl _)

end Sys2Proof.Machine
end

