-- ==== Sys2Proof/Laws/KeepsCue.lean ====
section
/-! SUPPORT. State.Keeps over the definitions of Machine/Cue.lean. -/

namespace Sys2Proof.Machine

theorem State.cueApply_keeps {a s : State} {x0 x1} (h : State.Keeps a s) : State.Keeps a (State.cueApply s x0 x1) := by
  unfold State.cueApply
  with_reducible repeat' (first
    | exact h | assumption | apply State.event_keeps | apply State.bump_keeps | apply State.withCue_keeps
    | apply keeps_foldl | apply keeps_ite | apply_assumption | dsimp only | split | intro _ _ _ | intro _ _
    | exact Nat.le_max_left _ _ | exact Nat.le_add_right _ _ | exact Nat.le_refl _)

theorem State.cueRelease_keeps {a s : State} {x0} (h : State.Keeps a s) : State.Keeps a (State.cueRelease s x0) := by
  unfold State.cueRelease
  with_reducible repeat' (first
    | exact h | assumption | apply State.passTo_keeps | apply State.withCue_keeps | apply State.event_keeps
    | apply State.cueApply_keeps | apply keeps_foldl | apply keeps_ite | apply_assumption | dsimp only | split
    | intro _ _ _ | intro _ _ | exact Nat.le_max_left _ _ | exact Nat.le_add_right _ _ | exact Nat.le_refl _)

theorem State.cueChange_keeps {a s : State} {x0} (h : State.Keeps a s) : State.Keeps a (State.cueChange s x0) := by
  unfold State.cueChange
  with_reducible repeat' (first
    | exact h | assumption | apply State.withCue_keeps | apply State.cueApply_keeps | apply keeps_foldl
    | apply keeps_ite | apply_assumption | dsimp only | split | intro _ _ _ | intro _ _ | exact Nat.le_max_left _ _
    | exact Nat.le_add_right _ _ | exact Nat.le_refl _)

theorem State.cueUpdate_keeps {a s : State} {x0 x1} (h : State.Keeps a s) :
    State.Keeps a (State.cueUpdate s x0 x1) := by
  unfold State.cueUpdate
  with_reducible repeat' (first
    | exact h | assumption | apply State.cueChange_keeps | apply keeps_foldl | apply keeps_ite | apply_assumption
    | dsimp only | split | intro _ _ _ | intro _ _ | exact Nat.le_max_left _ _ | exact Nat.le_add_right _ _
    | exact Nat.le_refl _)

theorem State.cueStep_keeps {a s : State} {x0 x1 x2} (h : State.Keeps a s) :
    State.Keeps a (State.cueStep s x0 x1 x2) := by
  unfold State.cueStep
  with_reducible repeat' (first
    | exact h | assumption | apply State.cueUpdate_keeps | apply keeps_foldl | apply keeps_ite | apply_assumption
    | dsimp only | split | intro _ _ _ | intro _ _ | exact Nat.le_max_left _ _ | exact Nat.le_add_right _ _
    | exact Nat.le_refl _)

theorem cueClear_keeps {a s : State} {x0} (h : State.Keeps a s) : State.Keeps a (cueClear x0 s) := by
  fun_induction cueClear x0 s
  with_reducible repeat' (first
    | exact h | assumption | apply State.cueUpdate_keeps | apply keeps_foldl | apply keeps_ite | apply_assumption
    | dsimp only | split | intro _ _ _ | intro _ _ | exact Nat.le_max_left _ _ | exact Nat.le_add_right _ _
    | exact Nat.le_refl _)

theorem State.setCueIndex_keeps {a s : State} {x0 x1} (h : State.Keeps a s) :
    State.Keeps a (State.setCueIndex s x0 x1) := by
  unfold State.setCueIndex
  with_reducible repeat' (first
    | exact h | assumption | apply State.withCue_keeps | apply keeps_foldl | apply keeps_ite | apply_assumption
    | dsimp only | split | intro _ _ _ | intro _ _ | exact Nat.le_max_left _ _ | exact Nat.le_add_right _ _
    | exact Nat.le_refl _)

theorem State.cueDataWrite_keeps {a s : State} {x0 x1 x2} (h : State.Keeps a s) :
    State.Keeps a (State.cueDataWrite s x0 x1 x2) := by
  unfold State.cueDataWrite
  with_reducible repeat' (first
    | exact h | assumption | apply State.cueChange_keeps | apply keeps_foldl | apply keeps_ite | apply_assumption
    | dsimp only | split | intro _ _ _ | intro _ _ | exact Nat.le_max_left _ _ | exact Nat.le_add_right _ _
    | exact Nat.le_refl _)

theorem State.setCueGroup_keeps {a s : State} {x0 x1} (h : State.Keeps a s) :
    State.Keeps a (State.setCueGroup s x0 x1) := by
  unfold State.setCueGroup
  with_reducible repeat' (first
    | exact h | assumption | apply State.withCue_keeps | apply keeps_foldl | apply keeps_ite | apply_assumption
    | dsimp only | split | intro _ _ _ | intro _ _ | exact Nat.le_max_left _ _ | exact Nat.le_add_right _ _
    | exact Nat.le_refl _)

theorem State.cueGroupWrite_keeps {a s : State} {x0 x1} (h : State.Keeps a s) :
    State.Keeps a (State.cueGroupWrite s x0 x1) := by
  unfold State.cueGroupWrite
  with_reducible repeat' (first
    | exact h | assumption | apply cueClear_keeps | apply State.withCue_keeps | apply keeps_foldl | apply keeps_ite
    | apply_assumption | dsimp only | split | intro _ _ _ | intro _ _ | exact Nat.le_max_left _ _
    | exact Nat.le_add_right _ _ | exact Nat.le_refl _)

theorem State.cueFunctionReset_keeps {a s : State} {x0} (h : State.Keeps a s) :
    State.Keeps a (State.cueFunctionReset s x0) := by
  unfold State.cueFunctionReset
  with_reducible repeat' (first
    | exact h | assumption | apply cueClear_keeps | apply State.setCueGroup_keeps | apply State.setCueIndex_keeps
    | apply keeps_foldl | apply keeps_ite | apply_assumption | dsimp only | split | intro _ _ _ | intro _ _
    | exact Nat.le_max_left _ _ | exact Nat.le_add_right _ _ | exact Nat.le_refl _)

theorem execCueDeferredApply_keeps {a s : State} {x0} (h : State.Keeps a s) :
    KeepsOut a (execCueDeferredApply x0 s) := by
  unfold execCueDeferredApply
  with_reducible repeat' (first
    | apply keeps_next | exact keeps_fault _ | exact h | assumption | apply State.cueRelease_keeps | apply keeps_foldl
    | apply keepsOut_ite | apply keeps_ite | apply_assumption | dsimp only | split | intro _ _ _ | intro _ _
    | exact Nat.le_max_left _ _ | exact Nat.le_add_right _ _ | exact Nat.le_refl _)

theorem execCuePortRead_keeps {a s : State} {x0 x1} (h : State.Keeps a s) : KeepsOut a (execCuePortRead x0 x1 s) := by
  unfold execCuePortRead
  with_reducible repeat' (first
    | apply keeps_next | exact keeps_fault _ | exact h | assumption | apply State.withCue_keeps | apply keeps_foldl
    | apply keepsOut_ite | apply keeps_ite | apply_assumption | dsimp only | split | intro _ _ _ | intro _ _
    | exact Nat.le_max_left _ _ | exact Nat.le_add_right _ _ | exact Nat.le_refl _)

end Sys2Proof.Machine
end

