-- ==== Sys2Proof/Laws/KeepsRings.lean ====
section
/-! SUPPORT. State.Keeps over the definitions of Machine/Rings.lean. -/

namespace Sys2Proof.Machine

theorem State.countRefusal_keeps {a s : State} {x0 x1} (h : State.Keeps a s) :
    State.Keeps a (State.countRefusal s x0 x1) := by
  unfold State.countRefusal
  with_reducible repeat' (first
    | exact h | assumption | apply State.event_keeps | apply State.setFld_keeps | apply State.bump_keeps
    | apply keeps_foldl | apply keeps_ite | apply_assumption | dsimp only | split | intro _ _ _ | intro _ _
    | exact Nat.le_max_left _ _ | exact Nat.le_add_right _ _ | exact Nat.le_refl _)

theorem State.setRingFld_keeps {a s : State} {x0 x1 x2 x3} (h : State.Keeps a s) :
    State.Keeps a (State.setRingFld s x0 x1 x2 x3) := by
  unfold State.setRingFld
  with_reducible repeat' (first
    | exact h | assumption | apply State.setFld_keeps | apply keeps_foldl | apply keeps_ite | apply_assumption
    | dsimp only | split | intro _ _ _ | intro _ _ | exact Nat.le_max_left _ _ | exact Nat.le_add_right _ _
    | exact Nat.le_refl _)

theorem State.cmplAdvance_keeps {a s : State} {x0 x1} (h : State.Keeps a s) :
    State.Keeps a (State.cmplAdvance s x0 x1) := by
  unfold State.cmplAdvance
  with_reducible repeat' (first
    | exact h | assumption | apply State.setRingFld_keeps | apply keeps_foldl | apply keeps_ite | apply_assumption
    | dsimp only | split | intro _ _ _ | intro _ _ | exact Nat.le_max_left _ _ | exact Nat.le_add_right _ _
    | exact Nat.le_refl _)

theorem State.ringFault_keeps {a s : State} {x0 x1} (h : State.Keeps a s) :
    State.Keeps a (State.ringFault s x0 x1) := by
  unfold State.ringFault
  with_reducible repeat' (first
    | exact h | assumption | apply State.event_keeps | apply State.bumpSat_keeps | apply State.setRingFld_keeps
    | apply keeps_foldl | apply keeps_ite | apply_assumption | dsimp only | split | intro _ _ _ | intro _ _
    | exact Nat.le_max_left _ _ | exact Nat.le_add_right _ _ | exact Nat.le_refl _)

theorem State.putCmpl_keeps {a s : State} {x0 x1 x2 x3} (h : State.Keeps a s) :
    State.Keeps a (State.putCmpl s x0 x1 x2 x3) := by
  unfold State.putCmpl
  with_reducible repeat' (first
    | exact h | assumption | apply State.bumpSat_keeps | apply State.cmplAdvance_keeps | apply State.dropMsg_keeps
    | apply State.msix_keeps | apply State.storeAll_keeps | apply State.wakeSpans_keeps | apply State.ringFault_keeps
    | apply keeps_foldl | apply keeps_ite | apply_assumption | dsimp only | split | intro _ _ _ | intro _ _
    | exact Nat.le_max_left _ _ | exact Nat.le_add_right _ _ | exact Nat.le_refl _)

theorem State.writeCmpl_keeps {a s : State} {x0 x1 x2 x3} (h : State.Keeps a s) :
    State.Keeps a (State.writeCmpl s x0 x1 x2 x3) := by
  unfold State.writeCmpl
  with_reducible repeat' (first
    | exact h | assumption | refine keeps_snd (by assumption) (State.openValue_keeps ?_) | apply State.openValue_keeps
    | apply State.putCmpl_keeps | apply keeps_foldl | apply keeps_ite | apply_assumption | dsimp only | split
    | intro _ _ _ | intro _ _ | exact Nat.le_max_left _ _ | exact Nat.le_add_right _ _ | exact Nat.le_refl _)

theorem State.complete_keeps {a s : State} {x0 x1 x2 x3} (h : State.Keeps a s) :
    State.Keeps a (State.complete s x0 x1 x2 x3) := by
  unfold State.complete
  with_reducible repeat' (first
    | exact h | assumption | apply State.countRefusal_keeps | apply State.writeCmpl_keeps | apply keeps_foldl
    | apply keeps_ite | apply_assumption | dsimp only | split | intro _ _ _ | intro _ _ | exact Nat.le_max_left _ _
    | exact Nat.le_add_right _ _ | exact Nat.le_refl _)

theorem State.answer_keeps {a s : State} {x0 x1 x2 x3 x4} (h : State.Keeps a s) :
    State.Keeps a (State.answer s x0 x1 x2 x3 x4) := by
  unfold State.answer
  with_reducible repeat' (first
    | exact h | assumption | apply State.complete_keeps | apply keeps_foldl | apply keeps_ite | apply_assumption
    | dsimp only | split | intro _ _ _ | intro _ _ | exact Nat.le_max_left _ _ | exact Nat.le_add_right _ _
    | exact Nat.le_refl _)

theorem State.cueStepNow_keeps {a s : State} {x0 x1 x2} (h : State.Keeps a s) :
    State.Keeps a (State.cueStepNow s x0 x1 x2) := by
  unfold State.cueStepNow
  with_reducible repeat' (first
    | exact h | assumption | apply State.cueRelease_keeps | apply State.cueUpdate_keeps | apply keeps_foldl
    | apply keeps_ite | apply_assumption | dsimp only | split | intro _ _ _ | intro _ _ | exact Nat.le_max_left _ _
    | exact Nat.le_add_right _ _ | exact Nat.le_refl _)

theorem State.endTicket_keeps {a s : State} {x0 x1 x2 x3 x4} (h : State.Keeps a s) :
    State.Keeps a (State.endTicket s x0 x1 x2 x3 x4) := by
  unfold State.endTicket
  with_reducible repeat' (first
    | exact h | assumption | apply State.answer_keeps | apply State.cueStepNow_keeps | apply keeps_foldl
    | apply keeps_ite | apply_assumption | dsimp only | split | intro _ _ _ | intro _ _ | exact Nat.le_max_left _ _
    | exact Nat.le_add_right _ _ | exact Nat.le_refl _)

end Sys2Proof.Machine
end

