-- ==== Sys2Proof/Laws/KeepsAlmanac.lean ====
section
/-! SUPPORT. State.Keeps over the definitions of Machine/Almanac.lean. -/

namespace Sys2Proof.Machine

theorem State.freeWhere_keeps {a s : State} {x0} (h : State.Keeps a s) : State.Keeps a (State.freeWhere s x0) := by
  unfold State.freeWhere
  with_reducible repeat' (first
    | exact h | assumption | apply State.withAlm_keeps | apply keeps_foldl | apply keeps_ite | apply_assumption
    | dsimp only | split | intro _ _ _ | intro _ _ | exact Nat.le_max_left _ _ | exact Nat.le_add_right _ _
    | exact Nat.le_refl _)

theorem State.freeStepEntry_keeps {a s : State} {x0 x1} (h : State.Keeps a s) :
    State.Keeps a (State.freeStepEntry s x0 x1) := by
  unfold State.freeStepEntry
  with_reducible repeat' (first
    | exact h | assumption | apply State.freeWhere_keeps | apply keeps_foldl | apply keeps_ite | apply_assumption
    | dsimp only | split | intro _ _ _ | intro _ _ | exact Nat.le_max_left _ _ | exact Nat.le_add_right _ _
    | exact Nat.le_refl _)

theorem State.endStep_keeps {a s : State} {x0 x1 x2} (h : State.Keeps a s) :
    State.Keeps a (State.endStep s x0 x1 x2) := by
  unfold State.endStep
  with_reducible repeat' (first
    | exact h | assumption | apply State.dropStep_keeps | apply State.freeStepEntry_keeps
    | apply State.endTicket_keeps | apply keeps_foldl | apply keeps_ite | apply_assumption | dsimp only | split
    | intro _ _ _ | intro _ _ | exact Nat.le_max_left _ _ | exact Nat.le_add_right _ _ | exact Nat.le_refl _)

theorem endSteps_keeps {a s : State} {x0 x1 x2} (h : State.Keeps a s) : State.Keeps a (endSteps x0 x1 x2 s) := by
  fun_induction endSteps x0 x1 x2 s
  with_reducible repeat' (first
    | exact h | assumption | apply State.endStep_keeps | apply keeps_foldl | apply keeps_ite | apply_assumption
    | dsimp only | split | intro _ _ _ | intro _ _ | exact Nat.le_max_left _ _ | exact Nat.le_add_right _ _
    | exact Nat.le_refl _)

theorem State.releaseBind_keeps {a s : State} {x0} (h : State.Keeps a s) : State.Keeps a (State.releaseBind s x0) := by
  unfold State.releaseBind
  with_reducible repeat' (first
    | exact h | assumption | apply State.withFerry_keeps | apply keeps_foldl | apply keeps_ite | apply_assumption
    | dsimp only | split | intro _ _ _ | intro _ _ | exact Nat.le_max_left _ _ | exact Nat.le_add_right _ _
    | exact Nat.le_refl _)

theorem State.endJobHere_keeps {a s : State} {x0 x1} (h : State.Keeps a s) :
    State.Keeps a (State.endJobHere s x0 x1) := by
  unfold State.endJobHere
  with_reducible repeat' (first
    | exact h | assumption | apply State.setJob_keeps | apply State.jobReset_keeps | apply State.freeWhere_keeps
    | apply endSteps_keeps | apply State.withRestarts_keeps | apply State.releaseBind_keeps | apply State.event_keeps
    | apply State.bump_keeps | apply State.ledgerAdd_keeps | apply keeps_foldl | apply keeps_ite | apply_assumption
    | dsimp only | split | intro _ _ _ | intro _ _ | exact Nat.le_max_left _ _ | exact Nat.le_add_right _ _
    | exact Nat.le_refl _)

theorem State.mapEntries_keeps {a s : State} {x0 x1} (h : State.Keeps a s) :
    State.Keeps a (State.mapEntries s x0 x1) := by
  unfold State.mapEntries
  with_reducible repeat' (first
    | exact h | assumption | apply State.withAlm_keeps | apply keeps_foldl | apply keeps_ite | apply_assumption
    | dsimp only | split | intro _ _ _ | intro _ _ | exact Nat.le_max_left _ _ | exact Nat.le_add_right _ _
    | exact Nat.le_refl _)

theorem State.triggerRetest_keeps {a s : State} {x0} (h : State.Keeps a s) :
    State.Keeps a (State.triggerRetest s x0) := by
  unfold State.triggerRetest
  with_reducible repeat' (first
    | exact h | assumption | apply State.setFld_keeps | apply State.withPower_keeps | apply keeps_foldl
    | apply keeps_ite | apply_assumption | dsimp only | split | intro _ _ _ | intro _ _ | exact Nat.le_max_left _ _
    | exact Nat.le_add_right _ _ | exact Nat.le_refl _)

theorem State.abortHere_keeps {a s : State} {x0 x1} (h : State.Keeps a s) :
    State.Keeps a (State.abortHere s x0 x1) := by
  unfold State.abortHere
  with_reducible repeat' (first
    | exact h | assumption | apply State.setJob_keeps | apply State.jobReset_keeps | apply State.endJobHere_keeps
    | apply State.setStep_keeps | apply State.mapEntries_keeps | apply State.withRestarts_keeps
    | apply State.triggerRetest_keeps | apply keeps_foldl | apply keeps_ite | apply_assumption | dsimp only | split
    | intro _ _ _ | intro _ _ | exact Nat.le_max_left _ _ | exact Nat.le_add_right _ _ | exact Nat.le_refl _)

theorem signalDies_keeps {a s : State} {x0 x1 x2 x3} (h : State.Keeps a s) :
    State.Keeps a (signalDies x0 x1 x2 x3 s) := by
  fun_induction signalDies x0 x1 x2 x3 s
  with_reducible repeat' (first
    | exact h | assumption | apply State.signal_keeps | apply keeps_foldl | apply keeps_ite | apply_assumption
    | dsimp only | split | intro _ _ _ | intro _ _ | exact Nat.le_max_left _ _ | exact Nat.le_add_right _ _
    | exact Nat.le_refl _)

theorem State.withdrawHere_keeps {a s : State} {x0 x1} (h : State.Keeps a s) :
    State.Keeps a (State.withdrawHere s x0 x1) := by
  unfold State.withdrawHere
  with_reducible repeat' (first
    | exact h | assumption | apply State.unitsReset_keeps | apply signalDies_keeps | apply State.setJob_keeps
    | apply State.mapEntries_keeps | apply endSteps_keeps | apply State.withRestarts_keeps | apply State.event_keeps
    | apply State.bump_keeps | apply State.ledgerAdd_keeps | apply keeps_foldl | apply keeps_ite | apply_assumption
    | dsimp only | split | intro _ _ _ | intro _ _ | exact Nat.le_max_left _ _ | exact Nat.le_add_right _ _
    | exact Nat.le_refl _)

theorem State.openEntry_keeps {a s : State} {x0 x1} (h : State.Keeps a s) :
    State.Keeps a (State.openEntry s x0 x1) := by
  unfold State.openEntry
  with_reducible repeat' (first
    | exact h | assumption | apply State.setAlm_keeps | apply keeps_foldl | apply keeps_ite | apply_assumption
    | dsimp only | split | intro _ _ _ | intro _ _ | exact Nat.le_max_left _ _ | exact Nat.le_add_right _ _
    | exact Nat.le_refl _)

theorem State.withdrawJob_keeps {a s : State} {x0 x1} (h : State.Keeps a s) :
    State.Keeps a (State.withdrawJob s x0 x1) := by
  unfold State.withdrawJob
  with_reducible repeat' (first
    | exact h | assumption | apply State.withdrawHere_keeps | apply State.jobTree_keeps | apply keeps_foldl
    | apply keeps_ite | apply_assumption | dsimp only | split | intro _ _ _ | intro _ _ | exact Nat.le_max_left _ _
    | exact Nat.le_add_right _ _ | exact Nat.le_refl _)

theorem State.abortJob_keeps {a s : State} {x0 x1} (h : State.Keeps a s) : State.Keeps a (State.abortJob s x0 x1) := by
  unfold State.abortJob
  with_reducible repeat' (first
    | exact h | assumption | apply State.abortHere_keeps | apply State.jobTree_keeps | apply keeps_foldl
    | apply keeps_ite | apply_assumption | dsimp only | split | intro _ _ _ | intro _ _ | exact Nat.le_max_left _ _
    | exact Nat.le_add_right _ _ | exact Nat.le_refl _)

theorem State.redie_keeps {a s : State} (h : State.Keeps a s) : State.Keeps a (State.redie s) := by
  unfold State.redie
  with_reducible repeat' (first
    | exact h | assumption | apply State.withAlm_keeps | apply keeps_foldl | apply keeps_ite | apply_assumption
    | dsimp only | split | intro _ _ _ | intro _ _ | exact Nat.le_max_left _ _ | exact Nat.le_add_right _ _
    | exact Nat.le_refl _)

theorem withdrawJobs_keeps {a s : State} {x0 x1} (h : State.Keeps a s) : State.Keeps a (withdrawJobs x0 x1 s) := by
  fun_induction withdrawJobs x0 x1 s
  with_reducible repeat' (first
    | exact h | assumption | apply State.withdrawJob_keeps | apply keeps_foldl | apply keeps_ite | apply_assumption
    | dsimp only | split | intro _ _ _ | intro _ _ | exact Nat.le_max_left _ _ | exact Nat.le_add_right _ _
    | exact Nat.le_refl _)

theorem placeEntries_keeps {a s : State} {x0} (h : State.Keeps a s) : State.Keeps a (placeEntries x0 s) := by
  fun_induction placeEntries x0 s
  with_reducible repeat' (first
    | exact h | assumption | apply State.setAlm_keeps | apply keeps_foldl | apply keeps_ite | apply_assumption
    | dsimp only | split | intro _ _ _ | intro _ _ | exact Nat.le_max_left _ _ | exact Nat.le_add_right _ _
    | exact Nat.le_refl _)

theorem State.missDeadline_keeps {a s : State} (h : State.Keeps a s) : State.Keeps a (State.missDeadline s) := by
  unfold State.missDeadline
  with_reducible repeat' (first
    | exact h | assumption | apply State.event_keeps | apply State.bump_keeps | apply keeps_foldl | apply keeps_ite
    | apply_assumption | dsimp only | split | intro _ _ _ | intro _ _ | exact Nat.le_max_left _ _
    | exact Nat.le_add_right _ _ | exact Nat.le_refl _)

theorem State.lateEntry_keeps {a s : State} {x0 x1} (h : State.Keeps a s) :
    State.Keeps a (State.lateEntry s x0 x1) := by
  unfold State.lateEntry
  with_reducible repeat' (first
    | exact h | assumption | apply State.setStep_keeps | apply State.openEntry_keeps | apply State.missDeadline_keeps
    | apply keeps_foldl | apply keeps_ite | apply_assumption | dsimp only | split | intro _ _ _ | intro _ _
    | exact Nat.le_max_left _ _ | exact Nat.le_add_right _ _ | exact Nat.le_refl _)

theorem retestSingles_keeps {a s : State} {x0} (h : State.Keeps a s) : State.Keeps a (retestSingles x0 s).2 := by
  fun_induction retestSingles x0 s
  with_reducible repeat' (first
    | exact h | assumption | apply State.lateEntry_keeps | apply keeps_foldl | apply keeps_snd_ite | apply keeps_ite
    | apply_assumption | dsimp only | split | intro _ _ _ | intro _ _ | exact Nat.le_max_left _ _
    | exact Nat.le_add_right _ _ | exact Nat.le_refl _)

theorem State.runRetest_keeps {a s : State} (h : State.Keeps a s) : State.Keeps a (State.runRetest s) := by
  unfold State.runRetest
  with_reducible repeat' (first
    | exact h | assumption | refine keeps_snd (by assumption) (retestSingles_keeps ?_) | apply retestSingles_keeps
    | apply withdrawJobs_keeps | apply State.withPower_keeps | apply State.bump_keeps | apply State.setFld_keeps
    | apply State.event_keeps | apply keeps_foldl | apply keeps_ite | apply_assumption | dsimp only | split
    | intro _ _ _ | intro _ _ | exact Nat.le_max_left _ _ | exact Nat.le_add_right _ _ | exact Nat.le_refl _)

theorem State.deadlineAct_keeps {a s : State} {x0 x1} (h : State.Keeps a s) :
    State.Keeps a (State.deadlineAct s x0 x1) := by
  unfold State.deadlineAct
  with_reducible repeat' (first
    | exact h | assumption | apply State.openEntry_keeps | apply State.missDeadline_keeps
    | apply State.withdrawJob_keeps | apply keeps_foldl | apply keeps_ite | apply_assumption | dsimp only | split
    | intro _ _ _ | intro _ _ | exact Nat.le_max_left _ _ | exact Nat.le_add_right _ _ | exact Nat.le_refl _)

theorem State.deadlineOf_keeps {a s : State} {x0} (h : State.Keeps a s) : State.Keeps a (State.deadlineOf s x0) := by
  unfold State.deadlineOf
  with_reducible repeat' (first
    | exact h | assumption | apply State.advanceTo_keeps | apply State.setAlm_keeps | apply State.missDeadline_keeps
    | apply State.setStep_keeps | apply State.deadlineAct_keeps | apply keeps_foldl | apply keeps_ite
    | apply_assumption | dsimp only | split | intro _ _ _ | intro _ _ | exact Nat.le_max_left _ _
    | exact Nat.le_add_right _ _ | exact Nat.le_refl _)

theorem execDeadlineTransit_keeps {a s : State} {x0} (h : State.Keeps a s) : KeepsOut a (execDeadlineTransit x0 s) := by
  unfold execDeadlineTransit
  with_reducible repeat' (first
    | apply keeps_next | exact keeps_fault _ | exact h | assumption | apply State.deadlineOf_keeps | apply keeps_foldl
    | apply keepsOut_ite | apply keeps_ite | apply_assumption | dsimp only | split | intro _ _ _ | intro _ _
    | exact Nat.le_max_left _ _ | exact Nat.le_add_right _ _ | exact Nat.le_refl _)

theorem execRetest_keeps {a s : State} (h : State.Keeps a s) : KeepsOut a (execRetest s) := by
  unfold execRetest
  with_reducible repeat' (first
    | apply keeps_next | exact keeps_fault _ | exact h | assumption | apply State.runRetest_keeps | apply keeps_foldl
    | apply keepsOut_ite | apply keeps_ite | apply_assumption | dsimp only | split | intro _ _ _ | intro _ _
    | exact Nat.le_max_left _ _ | exact Nat.le_add_right _ _ | exact Nat.le_refl _)

end Sys2Proof.Machine
end

