-- ==== Sys2Proof/Laws/KeepsKv.lean ====
section
/-! SUPPORT. State.Keeps over the definitions of Machine/Kv.lean. -/

namespace Sys2Proof.Machine

theorem State.setPages_keeps {a s : State} {x0} (h : State.Keeps a s) : State.Keeps a (State.setPages s x0) := by
  unfold State.setPages
  with_reducible repeat' (first
    | exact h | assumption | apply State.withLoader_keeps | apply keeps_foldl | apply keeps_ite | apply_assumption
    | dsimp only | split | intro _ _ _ | intro _ _ | exact Nat.le_max_left _ _ | exact Nat.le_add_right _ _
    | exact Nat.le_refl _)

theorem State.putPage_keeps {a s : State} {x0} (h : State.Keeps a s) : State.Keeps a (State.putPage s x0) := by
  unfold State.putPage
  with_reducible repeat' (first
    | exact h | assumption | apply State.setPages_keeps | apply keeps_foldl | apply keeps_ite | apply_assumption
    | dsimp only | split | intro _ _ _ | intro _ _ | exact Nat.le_max_left _ _ | exact Nat.le_add_right _ _
    | exact Nat.le_refl _)

theorem State.freeFrameOf_keeps {a s : State} {x0} (h : State.Keeps a s) : State.Keeps a (State.freeFrameOf s x0) := by
  unfold State.freeFrameOf
  with_reducible repeat' (first
    | exact h | assumption | apply State.withLoader_keeps | apply keeps_foldl | apply keeps_ite | apply_assumption
    | dsimp only | split | intro _ _ _ | intro _ _ | exact Nat.le_max_left _ _ | exact Nat.le_add_right _ _
    | exact Nat.le_refl _)

theorem State.mapNodes_keeps {a s : State} {x0} (h : State.Keeps a s) : State.Keeps a (State.mapNodes s x0) := by
  unfold State.mapNodes
  with_reducible repeat' (first
    | exact h | assumption | apply State.withLoader_keeps | apply keeps_foldl | apply keeps_ite | apply_assumption
    | dsimp only | split | intro _ _ _ | intro _ _ | exact Nat.le_max_left _ _ | exact Nat.le_add_right _ _
    | exact Nat.le_refl _)

theorem State.countDropped_keeps {a s : State} (h : State.Keeps a s) : State.Keeps a (State.countDropped s) := by
  unfold State.countDropped
  with_reducible repeat' (first
    | exact h | assumption | apply State.event_keeps | apply State.bump_keeps | apply keeps_foldl | apply keeps_ite
    | apply_assumption | dsimp only | split | intro _ _ _ | intro _ _ | exact Nat.le_max_left _ _
    | exact Nat.le_add_right _ _ | exact Nat.le_refl _)

theorem State.dropPage_keeps {a s : State} {x0} (h : State.Keeps a s) : State.Keeps a (State.dropPage s x0) := by
  unfold State.dropPage
  with_reducible repeat' (first
    | exact h | assumption | apply State.putPage_keeps | apply State.freeFrameOf_keeps | apply State.mapNodes_keeps
    | apply State.countDropped_keeps | apply keeps_foldl | apply keeps_ite | apply_assumption | dsimp only | split
    | intro _ _ _ | intro _ _ | exact Nat.le_max_left _ _ | exact Nat.le_add_right _ _ | exact Nat.le_refl _)

theorem State.dropFor_keeps {a s : State} {x0 x1 x2} (h : State.Keeps a s) : KeepsOpt a (State.dropFor s x0 x1 x2) := by
  fun_induction State.dropFor s x0 x1 x2
  with_reducible repeat' (first
    | apply keepsOpt_some | exact keepsOpt_none | exact h | assumption | apply State.dropPage_keeps
    | apply keeps_foldl | apply keepsOpt_ite | apply keepsOpt_map | apply keepsOpt_bind | intro _ _ | apply keeps_ite
    | apply_assumption | dsimp only | split | intro _ _ _ | intro _ _ | exact Nat.le_max_left _ _
    | exact Nat.le_add_right _ _ | exact Nat.le_refl _)

theorem State.releaseRefs_keeps {a s : State} {x0} (h : State.Keeps a s) : State.Keeps a (State.releaseRefs s x0) := by
  unfold State.releaseRefs
  with_reducible repeat' (first
    | exact h | assumption | apply State.mapNodes_keeps | apply keeps_foldl | apply keeps_ite | apply_assumption
    | dsimp only | split | intro _ _ _ | intro _ _ | exact Nat.le_max_left _ _ | exact Nat.le_add_right _ _
    | exact Nat.le_refl _)

theorem State.dropBadFmt_keeps {a s : State} {x0} (h : State.Keeps a s) : State.Keeps a (State.dropBadFmt s x0) := by
  unfold State.dropBadFmt
  with_reducible repeat' (first
    | exact h | assumption | apply State.dropPage_keeps | apply State.countDropped_keeps
    | apply State.releaseRefs_keeps | apply State.putPage_keeps | apply keeps_foldl | apply keeps_ite
    | apply_assumption | dsimp only | split | intro _ _ _ | intro _ _ | exact Nat.le_max_left _ _
    | exact Nat.le_add_right _ _ | exact Nat.le_refl _)

theorem State.checkFmts_keeps {a s : State} {x0 x1} (h : State.Keeps a s) :
    State.Keeps a (State.checkFmts s x0 x1) := by
  unfold State.checkFmts
  with_reducible repeat' (first
    | exact h | assumption | apply State.dropBadFmt_keeps | apply keeps_foldl | apply keeps_ite | apply_assumption
    | dsimp only | split | intro _ _ _ | intro _ _ | exact Nat.le_max_left _ _ | exact Nat.le_add_right _ _
    | exact Nat.le_refl _)

theorem State.shareEntry_keeps {a s : State} {x0 x1 x2} (h : State.Keeps a s) :
    State.Keeps a (State.shareEntry s x0 x1 x2) := by
  unfold State.shareEntry
  with_reducible repeat' (first
    | exact h | assumption | apply State.freeFrameOf_keeps | apply State.putPage_keeps | apply keeps_foldl
    | apply keeps_ite | apply_assumption | dsimp only | split | intro _ _ _ | intro _ _ | exact Nat.le_max_left _ _
    | exact Nat.le_add_right _ _ | exact Nat.le_refl _)

theorem State.shareNode_keeps {a s : State} {x0 x1 x2 x3} (h : State.Keeps a s) :
    State.Keeps a (State.shareNode s x0 x1 x2 x3) := by
  unfold State.shareNode
  with_reducible repeat' (first
    | exact h | assumption | apply State.shareEntry_keeps | apply State.mapNodes_keeps | apply keeps_foldl
    | apply keeps_ite | apply_assumption | dsimp only | split | intro _ _ _ | intro _ _ | exact Nat.le_max_left _ _
    | exact Nat.le_add_right _ _ | exact Nat.le_refl _)

theorem prefixRuns_keeps {a s : State} {x0 x1 x2 x3 x4 x5} (h : State.Keeps a s) :
    State.Keeps a (prefixRuns x0 x1 x2 x3 x4 x5 s) := by
  fun_induction prefixRuns x0 x1 x2 x3 x4 x5 s
  with_reducible repeat' (first
    | exact h | assumption | apply State.shareNode_keeps | apply State.mapNodes_keeps | apply State.withLoader_keeps
    | apply keeps_foldl | apply keeps_ite | apply_assumption | dsimp only | split | intro _ _ _ | intro _ _
    | exact Nat.le_max_left _ _ | exact Nat.le_add_right _ _ | exact Nat.le_refl _)

theorem prefixSessions_keeps {a s : State} {x0 x1} (h : State.Keeps a s) : State.Keeps a (prefixSessions x0 x1 s) := by
  fun_induction prefixSessions x0 x1 s
  with_reducible repeat' (first
    | exact h | assumption | apply prefixRuns_keeps | apply keeps_foldl | apply keeps_ite | apply_assumption
    | dsimp only | split | intro _ _ _ | intro _ _ | exact Nat.le_max_left _ _ | exact Nat.le_add_right _ _
    | exact Nat.le_refl _)

theorem State.kvLookup_keeps {a s : State} {x0 x1 x2} (h : State.Keeps a s) :
    State.Keeps a (State.kvLookup s x0 x1 x2) := by
  unfold State.kvLookup
  with_reducible repeat' (first
    | exact h | assumption | apply State.checkFmts_keeps | apply prefixSessions_keeps | apply keeps_foldl
    | apply keeps_ite | apply_assumption | dsimp only | split | intro _ _ _ | intro _ _ | exact Nat.le_max_left _ _
    | exact Nat.le_add_right _ _ | exact Nat.le_refl _)

theorem State.countRecomputed_keeps {a s : State} (h : State.Keeps a s) : State.Keeps a (State.countRecomputed s) := by
  unfold State.countRecomputed
  with_reducible repeat' (first
    | exact h | assumption | apply State.event_keeps | apply State.bump_keeps | apply keeps_foldl | apply keeps_ite
    | apply_assumption | dsimp only | split | intro _ _ _ | intro _ _ | exact Nat.le_max_left _ _
    | exact Nat.le_add_right _ _ | exact Nat.le_refl _)

theorem State.getFrame_keeps {a s : State} {x0 x1 x2} (h : State.Keeps a s) :
    ∀ n t, State.getFrame s x0 x1 x2 = some (n, t) → State.Keeps a t := by
  intro n t e
  induction x2 generalizing s with
  | zero => cases e
  | succ m ih =>
    unfold State.getFrame at e
    split at e
    · cases e; exact State.withLoader_keeps h
    · split at e
      · exact ih (State.dropPage_keeps h) e
      · cases e

theorem State.needFrame_keeps {a s : State} {x0 x1} (h : State.Keeps a s) :
    ∀ n t, State.needFrame s x0 x1 = some (n, t) → State.Keeps a t := fun _ _ e => State.getFrame_keeps h _ _ e

theorem State.allocPage_keeps {a s : State} {x0 x1 x2 x3 x4} (h : State.Keeps a s) :
    KeepsOpt a (State.allocPage s x0 x1 x2 x3 x4) := by
  unfold State.allocPage
  with_reducible repeat' (first
    | apply keepsOpt_some | exact keepsOpt_none | exact h | assumption
    | refine State.needFrame_keeps ?_ _ _ (by assumption) | apply State.putPage_keeps | apply keeps_foldl
    | apply keepsOpt_ite | apply keepsOpt_map | apply keepsOpt_bind | intro _ _ | apply keeps_ite | apply_assumption
    | dsimp only | split | intro _ _ _ | intro _ _ | exact Nat.le_max_left _ _ | exact Nat.le_add_right _ _
    | exact Nat.le_refl _)

theorem State.prepRead_keeps {a s : State} {x0 x1} (h : State.Keeps a s) : KeepsOpt a (State.prepRead s x0 x1) := by
  unfold State.prepRead
  with_reducible repeat' (first
    | apply keepsOpt_some | exact keepsOpt_none | exact h | assumption | apply State.countRecomputed_keeps
    | apply State.releaseRefs_keeps | refine keepsOpt_elim (by assumption) (State.allocPage_keeps ?_)
    | apply State.allocPage_keeps | apply keeps_foldl | apply keepsOpt_ite | apply keepsOpt_map | apply keepsOpt_bind
    | intro _ _ | apply keeps_ite | apply_assumption | dsimp only | split | intro _ _ _ | intro _ _
    | exact Nat.le_max_left _ _ | exact Nat.le_add_right _ _ | exact Nat.le_refl _)

theorem prepReads_keeps {a s : State} {x0 x1} (h : State.Keeps a s) : KeepsOpt a (prepReads x0 x1 s) := by
  induction x1 generalizing s with
  | nil => exact keepsOpt_some h
  | cons k ks ih => exact keepsOpt_bind (State.prepRead_keeps h) (fun _ k => ih k)

theorem State.prepWrite_keeps {a s : State} {x0 x1} (h : State.Keeps a s) : KeepsOpt a (State.prepWrite s x0 x1) := by
  unfold State.prepWrite
  with_reducible repeat' (first
    | apply keepsOpt_some | exact keepsOpt_none | exact h | assumption | apply State.putPage_keeps
    | refine keepsOpt_elim (by assumption) (State.allocPage_keeps ?_) | apply State.allocPage_keeps
    | apply State.setPages_keeps | apply keeps_foldl | apply keepsOpt_ite | apply keepsOpt_map | apply keepsOpt_bind
    | intro _ _ | apply keeps_ite | apply_assumption | dsimp only | split | intro _ _ _ | intro _ _
    | exact Nat.le_max_left _ _ | exact Nat.le_add_right _ _ | exact Nat.le_refl _)

theorem prepWrites_keeps {a s : State} {x0 x1} (h : State.Keeps a s) : KeepsOpt a (prepWrites x0 x1 s) := by
  induction x1 generalizing s with
  | nil => exact keepsOpt_some h
  | cons k ks ih => exact keepsOpt_bind (State.prepWrite_keeps h) (fun _ k => ih k)

theorem State.kvFrames_keeps {a s : State} {x0 x1} (h : State.Keeps a s) : KeepsOpt a (State.kvFrames s x0 x1) := by
  unfold State.kvFrames
  exact keepsOpt_bind (prepReads_keeps h) (fun _ k => prepWrites_keeps k)

theorem State.kvRenew_keeps {a s : State} {x0} (h : State.Keeps a s) : KeepsOpt a (State.kvRenew s x0) := by
  unfold State.kvRenew
  dsimp only
  split
  · exact keepsOpt_map (State.kvFrames_keeps (State.kvLookup_keeps h)) (fun _ k => State.setStep_keeps k)
  · exact keepsOpt_some h

theorem State.closeSession_keeps {a s : State} {x0} (h : State.Keeps a s) :
    State.Keeps a (State.closeSession s x0) := by
  unfold State.closeSession
  with_reducible repeat' (first
    | exact h | assumption | apply State.releaseRefs_keeps | apply State.withLoader_keeps | apply keeps_foldl
    | apply keeps_ite | apply_assumption | dsimp only | split | intro _ _ _ | intro _ _ | exact Nat.le_max_left _ _
    | exact Nat.le_add_right _ _ | exact Nat.le_refl _)

theorem closeSessions_keeps {a s : State} {x0} (h : State.Keeps a s) : State.Keeps a (closeSessions x0 s) := by
  fun_induction closeSessions x0 s
  with_reducible repeat' (first
    | exact h | assumption | apply State.closeSession_keeps | apply keeps_foldl | apply keeps_ite | apply_assumption
    | dsimp only | split | intro _ _ _ | intro _ _ | exact Nat.le_max_left _ _ | exact Nat.le_add_right _ _
    | exact Nat.le_refl _)

theorem State.validNodes_keeps {a s : State} {x0 x1} (h : State.Keeps a s) :
    State.Keeps a (State.validNodes s x0 x1) := by
  unfold State.validNodes
  with_reducible repeat' (first
    | exact h | assumption | apply State.mapNodes_keeps | apply keeps_foldl | apply keeps_ite | apply_assumption
    | dsimp only | split | intro _ _ _ | intro _ _ | exact Nat.le_max_left _ _ | exact Nat.le_add_right _ _
    | exact Nat.le_refl _)

theorem State.kvIntake_keeps {a s : State} {x0 x1} (h : State.Keeps a s) :
    ∀ t n ks, State.kvIntake s x0 x1 = some (t, n, ks) → State.Keeps a t := by
  intro t n ks e
  unfold State.kvIntake at e
  simp only [Option.map_eq_some_iff] at e
  obtain ⟨v, hv, hw⟩ := e
  cases hw
  exact State.withLoader_keeps (State.kvFrames_keeps (State.kvLookup_keeps (State.withLoader_keeps h)) v hv)

theorem State.dropNodesOf_keeps {a s : State} {x0} (h : State.Keeps a s) : State.Keeps a (State.dropNodesOf s x0) := by
  unfold State.dropNodesOf
  with_reducible repeat' (first
    | exact h | assumption | apply State.withLoader_keeps | apply keeps_foldl | apply keeps_ite | apply_assumption
    | dsimp only | split | intro _ _ _ | intro _ _ | exact Nat.le_max_left _ _ | exact Nat.le_add_right _ _
    | exact Nat.le_refl _)

theorem State.kvEmpty_keeps {a s : State} (h : State.Keeps a s) : State.Keeps a (State.kvEmpty s) := by
  unfold State.kvEmpty
  with_reducible repeat' (first
    | exact h | assumption | apply State.withLoader_keeps | apply keeps_foldl | apply keeps_ite | apply_assumption
    | dsimp only | split | intro _ _ _ | intro _ _ | exact Nat.le_max_left _ _ | exact Nat.le_add_right _ _
    | exact Nat.le_refl _)

end Sys2Proof.Machine
end

