-- ==== Sys2Proof/Laws/KeepsGranary.lean ====
section
/-! SUPPORT. State.Keeps over the definitions of Machine/Granary.lean. -/

namespace Sys2Proof.Machine

theorem State.pairFault_keeps {a s : State} {x0 x1 x2 x3 x4 x5} (h : State.Keeps a s) :
    State.Keeps a (State.pairFault s x0 x1 x2 x3 x4 x5) := by
  unfold State.pairFault
  with_reducible repeat' (first
    | exact h | assumption | apply State.checkFault_keeps | apply keeps_foldl | apply keeps_ite | apply_assumption
    | dsimp only | split | intro _ _ _ | intro _ _ | exact Nat.le_max_left _ _ | exact Nat.le_add_right _ _
    | exact Nat.le_refl _)

theorem State.setRunning_keeps {a s : State} {x0 x1 x2} (h : State.Keeps a s) :
    State.Keeps a (State.setRunning s x0 x1 x2) := by
  unfold State.setRunning
  with_reducible repeat' (first
    | exact h | assumption | apply State.setPair_keeps | apply keeps_foldl | apply keeps_ite | apply_assumption
    | dsimp only | split | intro _ _ _ | intro _ _ | exact Nat.le_max_left _ _ | exact Nat.le_add_right _ _
    | exact Nat.le_refl _)

theorem badSector_keeps {a s : State} {x0 x1 x2 x3} (h : State.Keeps a s) :
    State.Keeps a (badSector x0 x1 x2 x3 s) := by
  unfold badSector
  with_reducible repeat' (first
    | exact h | assumption | apply State.fault_keeps | apply keeps_foldl | apply keeps_ite | apply_assumption
    | dsimp only | split | intro _ _ _ | intro _ _ | exact Nat.le_max_left _ _ | exact Nat.le_add_right _ _
    | exact Nat.le_refl _)

theorem State.acceptTile_keeps {a s : State} {x0 x1 x2 x3} (h : State.Keeps a s) :
    State.Keeps a (State.acceptTile s x0 x1 x2 x3) := by
  unfold State.acceptTile
  with_reducible repeat' (first
    | exact h | assumption | apply State.pairFault_keeps | apply State.setRunning_keeps | apply badSector_keeps
    | apply State.eccRead_keeps | apply State.countEv_keeps | apply State.storeAll_keeps | apply keeps_foldl
    | apply keeps_ite | apply_assumption | dsimp only | split | intro _ _ _ | intro _ _ | exact Nat.le_max_left _ _
    | exact Nat.le_add_right _ _ | exact Nat.le_refl _)

theorem State.pairArrive_keeps {a s : State} {x0 x1 x2} (h : State.Keeps a s) :
    State.Keeps a (State.pairArrive s x0 x1 x2) := by
  unfold State.pairArrive
  with_reducible repeat' (first
    | exact h | assumption | apply State.wakeStacks_keeps | apply State.acceptTile_keeps | apply State.pairFault_keeps
    | apply State.setPair_keeps | apply keeps_foldl | apply keeps_ite | apply_assumption | dsimp only | split
    | intro _ _ _ | intro _ _ | exact Nat.le_max_left _ _ | exact Nat.le_add_right _ _ | exact Nat.le_refl _)

theorem sendTiles_keeps {a s : State} {x0 x1 x2} (h : State.Keeps a s) : State.Keeps a (sendTiles x0 x1 x2 s) := by
  fun_induction sendTiles x0 x1 x2 s
  with_reducible repeat' (first
    | exact h | assumption | apply State.sendTile_keeps | apply State.withFlight_keeps | apply keeps_foldl
    | apply keeps_ite | apply_assumption | dsimp only | split | intro _ _ _ | intro _ _ | exact Nat.le_max_left _ _
    | exact Nat.le_add_right _ _ | exact Nat.le_refl _)

theorem sendAll_keeps {a s : State} {x0 x1 x2} (h : State.Keeps a s) : State.Keeps a (sendAll x0 x1 x2 s) := by
  fun_induction sendAll x0 x1 x2 s
  with_reducible repeat' (first
    | exact h | assumption | apply sendTiles_keeps | apply State.withFerry_keeps | apply keeps_foldl | apply keeps_ite
    | apply_assumption | dsimp only | split | intro _ _ _ | intro _ _ | exact Nat.le_max_left _ _
    | exact Nat.le_add_right _ _ | exact Nat.le_refl _)

theorem State.countGran_keeps {a s : State} {x0} (h : State.Keeps a s) : State.Keeps a (State.countGran s x0) := by
  unfold State.countGran
  with_reducible repeat' (first
    | exact h | assumption | apply State.bump_keeps | apply State.countEv_keeps | apply keeps_foldl | apply keeps_ite
    | apply_assumption | dsimp only | split | intro _ _ _ | intro _ _ | exact Nat.le_max_left _ _
    | exact Nat.le_add_right _ _ | exact Nat.le_refl _)

theorem mismatchFaults_keeps {a s : State} {x0 x1 x2 x3} (h : State.Keeps a s) :
    State.Keeps a (mismatchFaults x0 x1 x2 x3 s) := by
  fun_induction mismatchFaults x0 x1 x2 x3 s
  with_reducible repeat' (first
    | exact h | assumption | apply State.fault_keeps | apply keeps_foldl | apply keeps_ite | apply_assumption
    | dsimp only | split | intro _ _ _ | intro _ _ | exact Nat.le_max_left _ _ | exact Nat.le_add_right _ _
    | exact Nat.le_refl _)

theorem State.skipTiles_keeps {a s : State} {x0 x1} (h : State.Keeps a s) :
    State.Keeps a (State.skipTiles s x0 x1) := by
  unfold State.skipTiles
  with_reducible repeat' (first
    | exact h | assumption | apply State.withLooms_keeps | apply keeps_foldl | apply keeps_ite | apply_assumption
    | dsimp only | split | intro _ _ _ | intro _ _ | exact Nat.le_max_left _ _ | exact Nat.le_add_right _ _
    | exact Nat.le_refl _)

theorem State.emitTiles_keeps {a s : State} {x0 x1 x2} (h : State.Keeps a s) :
    State.Keeps a (State.emitTiles s x0 x1 x2) := by
  unfold State.emitTiles
  with_reducible repeat' (first
    | exact h | assumption | apply State.withFlight_keeps | apply sendAll_keeps | apply keeps_foldl | apply keeps_ite
    | apply_assumption | dsimp only | split | intro _ _ _ | intro _ _ | exact Nat.le_max_left _ _
    | exact Nat.le_add_right _ _ | exact Nat.le_refl _)

theorem State.applyEff_keeps {a s : State} {x0 x1 x2 x3} (h : State.Keeps a s) :
    State.Keeps a (State.applyEff s x0 x1 x2 x3) := by
  unfold State.applyEff
  with_reducible repeat' (first
    | exact h | assumption | apply badSector_keeps | apply State.eccRead_keeps | apply State.pairFault_keeps
    | apply State.countGran_keeps | apply mismatchFaults_keeps | apply State.storeAll_keeps
    | apply State.setRunning_keeps | apply State.skipTiles_keeps | apply State.emitTiles_keeps | apply keeps_foldl
    | apply keeps_ite | apply_assumption | dsimp only | split | intro _ _ _ | intro _ _ | exact Nat.le_max_left _ _
    | exact Nat.le_add_right _ _ | exact Nat.le_refl _)

theorem State.granRun_keeps {a s : State} {x0 x1 x2 x3} (h : State.Keeps a s) :
    State.Keeps a (State.granRun s x0 x1 x2 x3) := by
  unfold State.granRun
  with_reducible repeat' (first
    | exact h | assumption | apply State.applyEff_keeps | apply keeps_foldl | apply keeps_ite | apply_assumption
    | dsimp only | split | intro _ _ _ | intro _ _ | exact Nat.le_max_left _ _ | exact Nat.le_add_right _ _
    | exact Nat.le_refl _)

theorem takeWaiting_keeps {a s : State} {x0 x1} (h : State.Keeps a s) : State.Keeps a (takeWaiting x0 x1 s) := by
  fun_induction takeWaiting x0 x1 s
  with_reducible repeat' (first
    | exact h | assumption | apply State.pairArrive_keeps | apply keeps_foldl | apply keeps_ite | apply_assumption
    | dsimp only | split | intro _ _ _ | intro _ _ | exact Nat.le_max_left _ _ | exact Nat.le_add_right _ _
    | exact Nat.le_refl _)

theorem State.takeParked_keeps {a s : State} {x0} (h : State.Keeps a s) : State.Keeps a (State.takeParked s x0) := by
  unfold State.takeParked
  with_reducible repeat' (first
    | exact h | assumption | apply takeWaiting_keeps | apply State.setPair_keeps | apply keeps_foldl | apply keeps_ite
    | apply_assumption | dsimp only | split | intro _ _ _ | intro _ _ | exact Nat.le_max_left _ _
    | exact Nat.le_add_right _ _ | exact Nat.le_refl _)

theorem execRead_keeps {a s : State} {x0 x1} (h : State.Keeps a s) : KeepsOut a (execRead x0 x1 s) := by
  unfold execRead
  with_reducible repeat' (first
    | apply keeps_next | exact keeps_fault _ | exact h | assumption | apply State.granRun_keeps | apply keeps_foldl
    | apply keepsOut_ite | apply keeps_ite | apply_assumption | dsimp only | split | intro _ _ _ | intro _ _
    | exact Nat.le_max_left _ _ | exact Nat.le_add_right _ _ | exact Nat.le_refl _)

theorem State.writeSettle_keeps {a s : State} {x0 x1} (h : State.Keeps a s) :
    State.Keeps a (State.writeSettle s x0 x1) := by
  unfold State.writeSettle
  with_reducible repeat' (first
    | exact h | assumption | apply State.setRunning_keeps | apply keeps_foldl | apply keeps_ite | apply_assumption
    | dsimp only | split | intro _ _ _ | intro _ _ | exact Nat.le_max_left _ _ | exact Nat.le_add_right _ _
    | exact Nat.le_refl _)

theorem execCopy_keeps {a s : State} {x0 x1} (h : State.Keeps a s) : KeepsOut a (execCopy x0 x1 s) := by
  unfold execCopy
  with_reducible repeat' (first
    | apply keeps_next | exact keeps_fault _ | exact h | assumption | apply State.granRun_keeps | apply keeps_foldl
    | apply keepsOut_ite | apply keeps_ite | apply_assumption | dsimp only | split | intro _ _ _ | intro _ _
    | exact Nat.le_max_left _ _ | exact Nat.le_add_right _ _ | exact Nat.le_refl _)

theorem execGranaryWait_keeps {a s : State} {x0 x1} (h : State.Keeps a s) : KeepsOut a (execGranaryWait x0 x1 s) := by
  unfold execGranaryWait
  with_reducible repeat' (first
    | apply keeps_next | exact keeps_fault _ | exact h | assumption | apply State.setRunning_keeps
    | apply State.errorWait_keeps | apply keeps_foldl | apply keepsOut_ite | apply keeps_ite | apply_assumption
    | dsimp only | split | intro _ _ _ | intro _ _ | exact Nat.le_max_left _ _ | exact Nat.le_add_right _ _
    | exact Nat.le_refl _)

theorem execWrite_keeps {a s : State} {x0 x1} (h : State.Keeps a s) : KeepsOut a (execWrite x0 x1 s) := by
  unfold execWrite
  with_reducible repeat' (first
    | apply keeps_next | exact keeps_fault _ | exact h | assumption | apply State.writeSettle_keeps
    | apply State.takeParked_keeps | apply keeps_foldl | apply keepsOut_ite | apply keeps_ite | apply_assumption
    | dsimp only | split | intro _ _ _ | intro _ _ | exact Nat.le_max_left _ _ | exact Nat.le_add_right _ _
    | exact Nat.le_refl _)

theorem execTileArrivalAtPair_keeps {a s : State} {x0 x1 x2} (h : State.Keeps a s) :
    KeepsOut a (execTileArrivalAtPair x0 x1 x2 s) := by
  unfold execTileArrivalAtPair
  with_reducible repeat' (first
    | apply keeps_next | exact keeps_fault _ | exact h | assumption | apply State.pairArrive_keeps
    | apply State.withFlight_keeps | apply keeps_foldl | apply keepsOut_ite | apply keeps_ite | apply_assumption
    | dsimp only | split | intro _ _ _ | intro _ _ | exact Nat.le_max_left _ _ | exact Nat.le_add_right _ _
    | exact Nat.le_refl _)

theorem execGranaryNop_keeps {a s : State} {x0 x1} (h : State.Keeps a s) : KeepsOut a (execGranaryNop x0 x1 s) := by
  unfold execGranaryNop
  with_reducible repeat' (first
    | apply keeps_next | exact keeps_fault _ | exact h | assumption | apply State.setRunning_keeps | apply keeps_foldl
    | apply keepsOut_ite | apply keeps_ite | apply_assumption | dsimp only | split | intro _ _ _ | intro _ _
    | exact Nat.le_max_left _ _ | exact Nat.le_add_right _ _ | exact Nat.le_refl _)

theorem execFill_keeps {a s : State} {x0 x1} (h : State.Keeps a s) : KeepsOut a (execFill x0 x1 s) := by
  unfold execFill
  with_reducible repeat' (first
    | apply keeps_next | exact keeps_fault _ | exact h | assumption | apply State.granRun_keeps | apply keeps_foldl
    | apply keepsOut_ite | apply keeps_ite | apply_assumption | dsimp only | split | intro _ _ _ | intro _ _
    | exact Nat.le_max_left _ _ | exact Nat.le_add_right _ _ | exact Nat.le_refl _)

theorem execGranaryCommandComplete_keeps {a s : State} {x0 x1} (h : State.Keeps a s) :
    KeepsOut a (execGranaryCommandComplete x0 x1 s) := by
  unfold execGranaryCommandComplete
  with_reducible repeat' (first
    | apply keeps_next | exact keeps_fault _ | exact h | assumption | apply State.setPair_keeps
    | apply State.bump64_keeps | apply keeps_foldl | apply keepsOut_ite | apply keeps_ite | apply_assumption
    | dsimp only | split | intro _ _ _ | intro _ _ | exact Nat.le_max_left _ _ | exact Nat.le_add_right _ _
    | exact Nat.le_refl _)

end Sys2Proof.Machine
end

