-- ==== Sys2Proof/Laws/KeepsTensors.lean ====
section
/-! SUPPORT. State.Keeps over the definitions of Machine/Tensors.lean. -/

namespace Sys2Proof.Machine

theorem State.setTdata_keeps {a s : State} {x0 x1 x2 x3} (h : State.Keeps a s) :
    State.Keeps a (State.setTdata s x0 x1 x2 x3) := by
  unfold State.setTdata
  with_reducible repeat' (first
    | exact h | assumption | apply State.withSram_keeps | apply keeps_foldl | apply keeps_ite | apply_assumption
    | dsimp only | split | intro _ _ _ | intro _ _ | exact Nat.le_max_left _ _ | exact Nat.le_add_right _ _
    | exact Nat.le_refl _)

end Sys2Proof.Machine
end

