-- ==== Sys2Proof/Laws/KeepsConv.lean ====
section
/-! SUPPORT. State.Keeps over the definitions of Machine/Conv.lean. -/

namespace Sys2Proof.Machine

theorem State.feed_keeps {a s : State} {x0 x1 x2 x3} (h : State.Keeps a s) :
    State.Keeps a (State.feed s x0 x1 x2 x3) := by
  unfold State.feed
  with_reducible repeat' (first
    | exact h | assumption | apply State.setReeve_keeps | apply keeps_foldl | apply keeps_ite | apply_assumption
    | dsimp only | split | intro _ _ _ | intro _ _ | exact Nat.le_max_left _ _ | exact Nat.le_add_right _ _
    | exact Nat.le_refl _)

end Sys2Proof.Machine
end

