-- ==== Sys2Proof/Laws/KeepsTiles.lean ====
section
/-! SUPPORT. State.Keeps over the definitions of Machine/Tiles.lean. -/

namespace Sys2Proof.Machine

theorem State.bellArrive_keeps {a s : State} {x0 x1 x2} (h : State.Keeps a s) :
    State.Keeps a (State.bellArrive s x0 x1 x2) := by
  unfold State.bellArrive
  with_reducible repeat' (first
    | exact h | assumption | apply State.checkFault_keeps | apply State.unitSignal_keeps | apply keeps_foldl
    | apply keeps_ite | apply_assumption | dsimp only | split | intro _ _ _ | intro _ _ | exact Nat.le_max_left _ _
    | exact Nat.le_add_right _ _ | exact Nat.le_refl _)

theorem State.placeIn_keeps {a s : State} {x0 x1 x2 x3} (h : State.Keeps a s) :
    State.Keeps a (State.placeIn s x0 x1 x2 x3) := by
  unfold State.placeIn
  with_reducible repeat' (first
    | exact h | assumption | apply State.setTdata_keeps | apply keeps_foldl | apply keeps_ite | apply_assumption
    | dsimp only | split | intro _ _ _ | intro _ _ | exact Nat.le_max_left _ _ | exact Nat.le_add_right _ _
    | exact Nat.le_refl _)

theorem State.loomArrive_keeps {a s : State} {x0 x1 x2 x3 x4 x5} (h : State.Keeps a s) :
    State.Keeps a (State.loomArrive s x0 x1 x2 x3 x4 x5) := by
  unfold State.loomArrive
  with_reducible repeat' (first
    | exact h | assumption | apply State.checkFault_keeps | apply State.setLoom_keeps | apply State.feed_keeps
    | apply keeps_foldl | apply keeps_ite | apply_assumption | dsimp only | split | intro _ _ _ | intro _ _
    | exact Nat.le_max_left _ _ | exact Nat.le_add_right _ _ | exact Nat.le_refl _)

theorem mcastTo_keeps {a s : State} {x0 x1 x2 x3 x4} (h : State.Keeps a s) :
    State.Keeps a (mcastTo x0 x1 x2 x3 x4 s) := by
  fun_induction mcastTo x0 x1 x2 x3 x4 s
  with_reducible repeat' (first
    | exact h | assumption | apply State.loomArrive_keeps | apply keeps_foldl | apply keeps_ite | apply_assumption
    | dsimp only | split | intro _ _ _ | intro _ _ | exact Nat.le_max_left _ _ | exact Nat.le_add_right _ _
    | exact Nat.le_refl _)

theorem execMulticast_keeps {a s : State} {x0 x1 x2 x3} (h : State.Keeps a s) :
    KeepsOut a (execMulticast x0 x1 x2 x3 s) := by
  unfold execMulticast
  with_reducible repeat' (first
    | apply keeps_next | exact keeps_fault _ | exact h | assumption | apply State.checkFault_keeps
    | apply State.bump_keeps | apply mcastTo_keeps | apply keeps_foldl | apply keepsOut_ite | apply keeps_ite
    | apply_assumption | dsimp only | split | intro _ _ _ | intro _ _ | exact Nat.le_max_left _ _
    | exact Nat.le_add_right _ _ | exact Nat.le_refl _)

theorem State.landed_keeps {a s : State} {x0} (h : State.Keeps a s) : State.Keeps a (State.landed s x0) := by
  unfold State.landed
  with_reducible repeat' (first
    | exact h | assumption | apply State.withFlight_keeps | apply keeps_foldl | apply keeps_ite | apply_assumption
    | dsimp only | split | intro _ _ _ | intro _ _ | exact Nat.le_max_left _ _ | exact Nat.le_add_right _ _
    | exact Nat.le_refl _)

theorem State.dropHeld_keeps {a s : State} {x0 x1 x2} (h : State.Keeps a s) :
    State.Keeps a (State.dropHeld s x0 x1 x2) := by
  unfold State.dropHeld
  with_reducible repeat' (first
    | exact h | assumption | apply State.setTdata_keeps | apply keeps_foldl | apply keeps_ite | apply_assumption
    | dsimp only | split | intro _ _ _ | intro _ _ | exact Nat.le_max_left _ _ | exact Nat.le_add_right _ _
    | exact Nat.le_refl _)

theorem State.placeTileAt_keeps {a s : State} {x0 x1 x2} (h : State.Keeps a s) :
    State.Keeps a (State.placeTileAt s x0 x1 x2) := by
  unfold State.placeTileAt
  with_reducible repeat' (first
    | exact h | assumption | apply State.placeIn_keeps | apply keeps_foldl | apply keeps_ite | apply_assumption
    | dsimp only | split | intro _ _ _ | intro _ _ | exact Nat.le_max_left _ _ | exact Nat.le_add_right _ _
    | exact Nat.le_refl _)

theorem State.unitArrive_keeps {a s : State} {x0 x1 x2 x3 x4 x5} (h : State.Keeps a s) :
    State.Keeps a (State.unitArrive s x0 x1 x2 x3 x4 x5) := by
  unfold State.unitArrive
  with_reducible repeat' (first
    | exact h | assumption | apply State.checkFault_keeps | apply State.dropHeld_keeps | apply State.placeTileAt_keeps
    | apply keeps_foldl | apply keeps_ite | apply_assumption | dsimp only | split | intro _ _ _ | intro _ _
    | exact Nat.le_max_left _ _ | exact Nat.le_add_right _ _ | exact Nat.le_refl _)

theorem State.arrive_keeps {a s : State} {x0 x1 x2} (h : State.Keeps a s) :
    State.Keeps a (State.arrive s x0 x1 x2) := by
  unfold State.arrive
  with_reducible repeat' (first
    | exact h | assumption | apply State.loomArrive_keeps | apply State.unitArrive_keeps | apply State.setSieve_keeps
    | apply State.bellArrive_keeps | apply keeps_foldl | apply keeps_ite | apply_assumption | dsimp only | split
    | intro _ _ _ | intro _ _ | exact Nat.le_max_left _ _ | exact Nat.le_add_right _ _ | exact Nat.le_refl _)

theorem execTileArrival_keeps {a s : State} {x0 x1} (h : State.Keeps a s) : KeepsOut a (execTileArrival x0 x1 s) := by
  unfold execTileArrival
  with_reducible repeat' (first
    | apply keeps_next | exact keeps_fault _ | exact h | assumption | apply State.arrive_keeps
    | apply State.landed_keeps | apply keeps_foldl | apply keepsOut_ite | apply keeps_ite | apply_assumption
    | dsimp only | split | intro _ _ _ | intro _ _ | exact Nat.le_max_left _ _ | exact Nat.le_add_right _ _
    | exact Nat.le_refl _)

end Sys2Proof.Machine
end

