-- ==== Sys2Proof/Laws/KeepsFerry.lean ====
section
/-! SUPPORT. State.Keeps over the definitions of Machine/Ferry.lean. -/

namespace Sys2Proof.Machine

theorem State.transitFlit_keeps {a s : State} {x0 x1 x2 x3} (h : State.Keeps a s) :
    State.Keeps a (State.transitFlit s x0 x1 x2 x3) := by
  unfold State.transitFlit
  with_reducible repeat' (first
    | exact h | assumption | apply State.forward_keeps | apply State.endTransit_keeps | apply keeps_foldl
    | apply keeps_ite | apply_assumption | dsimp only | split | intro _ _ _ | intro _ _ | exact Nat.le_max_left _ _
    | exact Nat.le_add_right _ _ | exact Nat.le_refl _)

theorem State.noteRelease_keeps {a s : State} {x0 x1 x2} (h : State.Keeps a s) :
    State.Keeps a (State.noteRelease s x0 x1 x2) := by
  unfold State.noteRelease
  with_reducible repeat' (first
    | exact h | assumption | apply State.setStep_keeps | apply keeps_foldl | apply keeps_ite | apply_assumption
    | dsimp only | split | intro _ _ _ | intro _ _ | exact Nat.le_max_left _ _ | exact Nat.le_add_right _ _
    | exact Nat.le_refl _)

theorem State.ferryBell_keeps {a s : State} {x0 x1} (h : State.Keeps a s) :
    State.Keeps a (State.ferryBell s x0 x1) := by
  unfold State.ferryBell
  with_reducible repeat' (first
    | exact h | assumption | apply State.bellArrive_keeps | apply State.noteRelease_keeps | apply keeps_foldl
    | apply keeps_ite | apply_assumption | dsimp only | split | intro _ _ _ | intro _ _ | exact Nat.le_max_left _ _
    | exact Nat.le_add_right _ _ | exact Nat.le_refl _)

theorem State.ferryTile_keeps {a s : State} {x0 x1 x2 x3 x4} (h : State.Keeps a s) :
    State.Keeps a (State.ferryTile s x0 x1 x2 x3 x4) := by
  unfold State.ferryTile
  with_reducible repeat' (first
    | exact h | assumption | apply State.setTdata_keeps | apply State.checkFault_keeps | apply State.pairArrive_keeps
    | apply State.pairFault_keeps | apply State.placeIn_keeps | apply keeps_foldl | apply keeps_ite | apply_assumption
    | dsimp only | split | intro _ _ _ | intro _ _ | exact Nat.le_max_left _ _ | exact Nat.le_add_right _ _
    | exact Nat.le_refl _)

theorem State.dataIn_keeps {a s : State} {x0 x1 x2 x3 x4} (h : State.Keeps a s) :
    State.Keeps a (State.dataIn s x0 x1 x2 x3 x4) := by
  unfold State.dataIn
  with_reducible repeat' (first
    | exact h | assumption | apply State.freeFlit_keeps | apply State.ferryBell_keeps | apply freeTiles_keeps
    | apply State.withFerry_keeps | apply freeFlits_keeps | apply State.ferryTile_keeps | apply keeps_foldl
    | apply keeps_ite | apply_assumption | dsimp only | split | intro _ _ _ | intro _ _ | exact Nat.le_max_left _ _
    | exact Nat.le_add_right _ _ | exact Nat.le_refl _)

theorem State.jobStopIn_keeps {a s : State} {x0 x1 x2} (h : State.Keeps a s) :
    State.Keeps a (State.jobStopIn s x0 x1 x2) := by
  unfold State.jobStopIn
  with_reducible repeat' (first
    | exact h | assumption | apply State.jobTree_keeps | apply State.abortHere_keeps | apply keeps_foldl
    | apply keeps_ite | apply_assumption | dsimp only | split | intro _ _ _ | intro _ _ | exact Nat.le_max_left _ _
    | exact Nat.le_add_right _ _ | exact Nat.le_refl _)

theorem State.withdrawIn_keeps {a s : State} {x0 x1 x2} (h : State.Keeps a s) :
    State.Keeps a (State.withdrawIn s x0 x1 x2) := by
  unfold State.withdrawIn
  with_reducible repeat' (first
    | exact h | assumption | apply State.withdrawHere_keeps | apply State.jobTree_keeps | apply keeps_foldl
    | apply keeps_ite | apply_assumption | dsimp only | split | intro _ _ _ | intro _ _ | exact Nat.le_max_left _ _
    | exact Nat.le_add_right _ _ | exact Nat.le_refl _)

theorem State.deliver_keeps {a s : State} {x0 x1 x2 x3} (h : State.Keeps a s) :
    State.Keeps a (State.deliver s x0 x1 x2 x3) := by
  unfold State.deliver
  with_reducible repeat' (first
    | exact h | assumption | apply State.freeFlit_keeps | apply State.event_keeps | apply State.bump_keeps
    | apply State.dataIn_keeps | apply State.ferryBell_keeps | apply State.jobStopIn_keeps
    | apply State.withdrawIn_keeps | apply keeps_foldl | apply keeps_ite | apply_assumption | dsimp only | split
    | intro _ _ _ | intro _ _ | exact Nat.le_max_left _ _ | exact Nat.le_add_right _ _ | exact Nat.le_refl _)

theorem State.flitIn_keeps {a s : State} {x0 x1 x2} (h : State.Keeps a s) :
    State.Keeps a (State.flitIn s x0 x1 x2) := by
  unfold State.flitIn
  with_reducible repeat' (first
    | exact h | assumption | refine keeps_fst (by assumption) (State.linkIn_keeps ?_) | apply State.linkIn_keeps
    | apply State.linkOp_keeps | apply State.transitFlit_keeps | apply State.deliver_keeps | apply keeps_foldl
    | apply keeps_ite | apply_assumption | dsimp only | split | intro _ _ _ | intro _ _ | exact Nat.le_max_left _ _
    | exact Nat.le_add_right _ _ | exact Nat.le_refl _)

theorem execNak_keeps {a s : State} {x0 x1 x2} (h : State.Keeps a s) : KeepsOut a (execNak x0 x1 x2 s) := by
  unfold execNak
  with_reducible repeat' (first
    | apply keeps_next | exact keeps_fault _ | exact h | assumption | apply State.flitIn_keeps | apply keeps_foldl
    | apply keepsOut_ite | apply keeps_ite | apply_assumption | dsimp only | split | intro _ _ _ | intro _ _
    | exact Nat.le_max_left _ _ | exact Nat.le_add_right _ _ | exact Nat.le_refl _)

theorem State.routesRead_keeps {a s : State} {x0} (h : State.Keeps a s) : State.Keeps a (State.routesRead s x0) := by
  unfold State.routesRead
  with_reducible repeat' (first
    | exact h | assumption | apply State.loaderRead_keeps | apply keeps_foldl | apply keeps_ite | apply_assumption
    | dsimp only | split | intro _ _ _ | intro _ _ | exact Nat.le_max_left _ _ | exact Nat.le_add_right _ _
    | exact Nat.le_refl _)

theorem State.routeCmd_keeps {a s : State} {x0} (h : State.Keeps a s) : State.Keeps a (State.routeCmd s x0) := by
  unfold State.routeCmd
  with_reducible repeat' (first
    | exact h | assumption | apply State.setFld_keeps | apply State.routesRead_keeps | apply State.withFerry_keeps
    | apply keeps_foldl | apply keeps_ite | apply_assumption | dsimp only | split | intro _ _ _ | intro _ _
    | exact Nat.le_max_left _ _ | exact Nat.le_add_right _ _ | exact Nat.le_refl _)

theorem State.mapRead_keeps {a s : State} (h : State.Keeps a s) : State.Keeps a (State.mapRead s) := by
  unfold State.mapRead
  with_reducible repeat' (first
    | exact h | assumption | apply State.loaderRead_keeps | apply keeps_foldl | apply keeps_ite | apply_assumption
    | dsimp only | split | intro _ _ _ | intro _ _ | exact Nat.le_max_left _ _ | exact Nat.le_add_right _ _
    | exact Nat.le_refl _)

theorem State.fjCmd_keeps {a s : State} {x0} (h : State.Keeps a s) : State.Keeps a (State.fjCmd s x0) := by
  unfold State.fjCmd
  with_reducible repeat' (first
    | exact h | assumption | apply State.setFld_keeps | apply State.withFerry_keeps | apply State.mapRead_keeps
    | apply keeps_foldl | apply keeps_ite | apply_assumption | dsimp only | split | intro _ _ _ | intro _ _
    | exact Nat.le_max_left _ _ | exact Nat.le_add_right _ _ | exact Nat.le_refl _)

theorem execBell_keeps {a s : State} {x0 x1 x2} (h : State.Keeps a s) : KeepsOut a (execBell x0 x1 x2 s) := by
  unfold execBell
  with_reducible repeat' (first
    | apply keeps_next | exact keeps_fault _ | exact h | assumption | apply State.flitIn_keeps | apply keeps_foldl
    | apply keepsOut_ite | apply keeps_ite | apply_assumption | dsimp only | split | intro _ _ _ | intro _ _
    | exact Nat.le_max_left _ _ | exact Nat.le_add_right _ _ | exact Nat.le_refl _)

theorem execIdent_keeps {a s : State} {x0 x1 x2} (h : State.Keeps a s) : KeepsOut a (execIdent x0 x1 x2 s) := by
  unfold execIdent
  with_reducible repeat' (first
    | apply keeps_next | exact keeps_fault _ | exact h | assumption | apply State.flitIn_keeps | apply keeps_foldl
    | apply keepsOut_ite | apply keeps_ite | apply_assumption | dsimp only | split | intro _ _ _ | intro _ _
    | exact Nat.le_max_left _ _ | exact Nat.le_add_right _ _ | exact Nat.le_refl _)

theorem execData_keeps {a s : State} {x0 x1 x2} (h : State.Keeps a s) : KeepsOut a (execData x0 x1 x2 s) := by
  unfold execData
  with_reducible repeat' (first
    | apply keeps_next | exact keeps_fault _ | exact h | assumption | apply State.flitIn_keeps | apply keeps_foldl
    | apply keepsOut_ite | apply keeps_ite | apply_assumption | dsimp only | split | intro _ _ _ | intro _ _
    | exact Nat.le_max_left _ _ | exact Nat.le_add_right _ _ | exact Nat.le_refl _)

theorem execJobStop_keeps {a s : State} {x0 x1 x2} (h : State.Keeps a s) : KeepsOut a (execJobStop x0 x1 x2 s) := by
  unfold execJobStop
  with_reducible repeat' (first
    | apply keeps_next | exact keeps_fault _ | exact h | assumption | apply State.flitIn_keeps | apply keeps_foldl
    | apply keepsOut_ite | apply keeps_ite | apply_assumption | dsimp only | split | intro _ _ _ | intro _ _
    | exact Nat.le_max_left _ _ | exact Nat.le_add_right _ _ | exact Nat.le_refl _)

theorem execWithdraw_keeps {a s : State} {x0 x1 x2} (h : State.Keeps a s) : KeepsOut a (execWithdraw x0 x1 x2 s) := by
  unfold execWithdraw
  with_reducible repeat' (first
    | apply keeps_next | exact keeps_fault _ | exact h | assumption | apply State.flitIn_keeps | apply keeps_foldl
    | apply keepsOut_ite | apply keeps_ite | apply_assumption | dsimp only | split | intro _ _ _ | intro _ _
    | exact Nat.le_max_left _ _ | exact Nat.le_add_right _ _ | exact Nat.le_refl _)

theorem execProbe_keeps {a s : State} {x0 x1 x2} (h : State.Keeps a s) : KeepsOut a (execProbe x0 x1 x2 s) := by
  unfold execProbe
  with_reducible repeat' (first
    | apply keeps_next | exact keeps_fault _ | exact h | assumption | apply State.flitIn_keeps | apply keeps_foldl
    | apply keepsOut_ite | apply keeps_ite | apply_assumption | dsimp only | split | intro _ _ _ | intro _ _
    | exact Nat.le_max_left _ _ | exact Nat.le_add_right _ _ | exact Nat.le_refl _)

theorem execEcho_keeps {a s : State} {x0 x1 x2} (h : State.Keeps a s) : KeepsOut a (execEcho x0 x1 x2 s) := by
  unfold execEcho
  with_reducible repeat' (first
    | apply keeps_next | exact keeps_fault _ | exact h | assumption | apply State.flitIn_keeps | apply keeps_foldl
    | apply keepsOut_ite | apply keeps_ite | apply_assumption | dsimp only | split | intro _ _ _ | intro _ _
    | exact Nat.le_max_left _ _ | exact Nat.le_add_right _ _ | exact Nat.le_refl _)

theorem execRouteLoadComplete_keeps {a s : State} (h : State.Keeps a s) : KeepsOut a (execRouteLoadComplete s) := by
  unfold execRouteLoadComplete
  with_reducible repeat' (first
    | apply keeps_next | exact keeps_fault _ | exact h | assumption | apply State.setFld_keeps
    | apply State.withFerry_keeps | apply keeps_foldl | apply keepsOut_ite | apply keeps_ite | apply_assumption
    | dsimp only | split | intro _ _ _ | intro _ _ | exact Nat.le_max_left _ _ | exact Nat.le_add_right _ _
    | exact Nat.le_refl _)

end Sys2Proof.Machine
end

