-- ==== Sys2Proof/Laws/KeepsTrain.lean ====
section
/-! SUPPORT. State.Keeps over the definitions of Machine/Train.lean. -/

namespace Sys2Proof.Machine

theorem sealRecords_keeps {a s : State} {x0 x1 x2 x3 x4 x5} (h : State.Keeps a s) :
    State.Keeps a (sealRecords x0 x1 x2 x3 x4 x5 s) := by
  fun_induction sealRecords x0 x1 x2 x3 x4 x5 s
  with_reducible repeat' (first
    | exact h | assumption | apply State.loaderWrite_keeps | apply keeps_foldl | apply keeps_ite | apply_assumption
    | dsimp only | split | intro _ _ _ | intro _ _ | exact Nat.le_max_left _ _ | exact Nat.le_add_right _ _
    | exact Nat.le_refl _)

theorem State.sealRank_keeps {a s : State} {x0 x1 x2} (h : State.Keeps a s) :
    State.Keeps a (State.sealRank s x0 x1 x2) := by
  unfold State.sealRank
  with_reducible repeat' (first
    | exact h | assumption | apply State.loaderRead_keeps | apply sealRecords_keeps | apply keeps_foldl
    | apply keeps_ite | apply_assumption | dsimp only | split | intro _ _ _ | intro _ _ | exact Nat.le_max_left _ _
    | exact Nat.le_add_right _ _ | exact Nat.le_refl _)

theorem dropRecords_keeps {a s : State} {x0 x1 x2} (h : State.Keeps a s) : State.Keeps a (dropRecords x0 x1 x2 s) := by
  fun_induction dropRecords x0 x1 x2 s
  with_reducible repeat' (first
    | exact h | assumption | apply State.loaderWrite_keeps | apply keeps_foldl | apply keeps_ite | apply_assumption
    | dsimp only | split | intro _ _ _ | intro _ _ | exact Nat.le_max_left _ _ | exact Nat.le_add_right _ _
    | exact Nat.le_refl _)

theorem State.deliverTo_keeps {a s : State} {x0 x1 x2 x3 x4} (h : State.Keeps a s) :
    State.Keeps a (State.deliverTo s x0 x1 x2 x3 x4) := by
  unfold State.deliverTo
  with_reducible repeat' (first
    | exact h | assumption | apply State.loaderRead_keeps | apply State.storeAll_keeps | apply State.wakeSpans_keeps
    | apply State.withFreeCount_keeps | apply keeps_foldl | apply keeps_ite | apply_assumption | dsimp only | split
    | intro _ _ _ | intro _ _ | exact Nat.le_max_left _ _ | exact Nat.le_add_right _ _ | exact Nat.le_refl _)

theorem State.deliverMode_keeps {a s : State} {x0 x1 x2 x3} (h : State.Keeps a s) :
    State.Keeps a (State.deliverMode s x0 x1 x2 x3) := by
  unfold State.deliverMode
  with_reducible repeat' (first
    | exact h | assumption | apply State.setJob_keeps | apply State.deliverTo_keeps | apply keeps_foldl
    | apply keeps_ite | apply_assumption | dsimp only | split | intro _ _ _ | intro _ _ | exact Nat.le_max_left _ _
    | exact Nat.le_add_right _ _ | exact Nat.le_refl _)

theorem State.adopt_keeps {a s : State} {x0} (h : State.Keeps a s) : State.Keeps a (State.adopt s x0).2 := by
  unfold State.adopt
  with_reducible repeat' (first
    | exact h | assumption | apply State.loaderRead_keeps | apply dropRecords_keeps | apply State.withLoader_keeps
    | apply State.deliverMode_keeps | apply keeps_foldl | apply keeps_snd_ite | apply keeps_ite | apply_assumption
    | dsimp only | split | intro _ _ _ | intro _ _ | exact Nat.le_max_left _ _ | exact Nat.le_add_right _ _
    | exact Nat.le_refl _)

theorem State.revert_keeps {a s : State} {x0} (h : State.Keeps a s) : State.Keeps a (State.revert s x0) := by
  unfold State.revert
  with_reducible repeat' (first
    | exact h | assumption | apply dropRecords_keeps | apply State.loaderRead_keeps | apply keeps_foldl
    | apply keeps_ite | apply_assumption | dsimp only | split | intro _ _ _ | intro _ _ | exact Nat.le_max_left _ _
    | exact Nat.le_add_right _ _ | exact Nat.le_refl _)

theorem openRecords_keeps {a s : State} {x0 x1 x2 x3 x4} (h : State.Keeps a s) :
    State.Keeps a (openRecords x0 x1 x2 x3 x4 s) := by
  fun_induction openRecords x0 x1 x2 x3 x4 s
  with_reducible repeat' (first
    | exact h | assumption | apply State.loaderWrite_keeps | apply keeps_foldl | apply keeps_ite | apply_assumption
    | dsimp only | split | intro _ _ _ | intro _ _ | exact Nat.le_max_left _ _ | exact Nat.le_add_right _ _
    | exact Nat.le_refl _)

theorem State.openGeneration_keeps {a s : State} {x0 x1} (h : State.Keeps a s) :
    State.Keeps a (State.openGeneration s x0 x1) := by
  unfold State.openGeneration
  with_reducible repeat' (first
    | exact h | assumption | apply openRecords_keeps | apply State.loaderRead_keeps | apply keeps_foldl
    | apply keeps_ite | apply_assumption | dsimp only | split | intro _ _ _ | intro _ _ | exact Nat.le_max_left _ _
    | exact Nat.le_add_right _ _ | exact Nat.le_refl _)

end Sys2Proof.Machine
end

