-- ==== Sys2Proof/Laws/KeepsSteps.lean ====
section
/-! SUPPORT. State.Keeps over the definitions of Machine/Steps.lean. -/

namespace Sys2Proof.Machine

theorem State.rankSignal_keeps {a s : State} {x0 x1} (h : State.Keeps a s) :
    State.Keeps a (State.rankSignal s x0 x1) := by
  unfold State.rankSignal
  with_reducible repeat' (first
    | exact h | assumption | apply State.sealRank_keeps | apply State.setStep_keeps | apply keeps_foldl
    | apply keeps_ite | apply_assumption | dsimp only | split | intro _ _ _ | intro _ _ | exact Nat.le_max_left _ _
    | exact Nat.le_add_right _ _ | exact Nat.le_refl _)

theorem State.lateTransit_keeps {a s : State} (h : State.Keeps a s) : State.Keeps a (State.lateTransit s) := by
  unfold State.lateTransit
  with_reducible repeat' (first
    | exact h | assumption | apply State.event_keeps | apply State.bump_keeps | apply keeps_foldl | apply keeps_ite
    | apply_assumption | dsimp only | split | intro _ _ _ | intro _ _ | exact Nat.le_max_left _ _
    | exact Nat.le_add_right _ _ | exact Nat.le_refl _)

theorem State.renew_keeps {a s : State} {x0 x1} (h : State.Keeps a s) : KeepsOpt a (State.renew s x0 x1) := by
  unfold State.renew
  with_reducible repeat' (first
    | apply keepsOpt_some | exact keepsOpt_none | exact h | assumption | apply State.triggerRetest_keeps
    | refine keepsOpt_elim (by assumption) (State.kvRenew_keeps ?_) | apply State.kvRenew_keeps | apply keeps_foldl
    | apply keepsOpt_ite | apply keepsOpt_map | apply keepsOpt_bind | intro _ _ | apply keeps_ite | apply_assumption
    | dsimp only | split | intro _ _ _ | intro _ _ | exact Nat.le_max_left _ _ | exact Nat.le_add_right _ _
    | exact Nat.le_refl _)

theorem releaseReeves_keeps {a s : State} {x0 x1 x2} (h : State.Keeps a s) :
    State.Keeps a (releaseReeves x0 x1 x2 s) := by
  fun_induction releaseReeves x0 x1 x2 s
  with_reducible repeat' (first
    | exact h | assumption | apply State.setReg_keeps | apply State.setReeve_keeps | apply keeps_foldl
    | apply keeps_ite | apply_assumption | dsimp only | split | intro _ _ _ | intro _ _ | exact Nat.le_max_left _ _
    | exact Nat.le_add_right _ _ | exact Nat.le_refl _)

theorem State.endRun_keeps {a s : State} {x0} (h : State.Keeps a s) : State.Keeps a (State.endRun s x0) := by
  unfold State.endRun
  with_reducible repeat' (first
    | exact h | assumption | apply releaseReeves_keeps | apply State.withLoader_keeps | apply State.setStep_keeps
    | apply keeps_foldl | apply keeps_ite | apply_assumption | dsimp only | split | intro _ _ _ | intro _ _
    | exact Nat.le_max_left _ _ | exact Nat.le_add_right _ _ | exact Nat.le_refl _)

theorem endRuns_keeps {a s : State} {x0} (h : State.Keeps a s) : State.Keeps a (endRuns x0 s) := by
  fun_induction endRuns x0 s
  with_reducible repeat' (first
    | exact h | assumption | apply State.endRun_keeps | apply keeps_foldl | apply keeps_ite | apply_assumption
    | dsimp only | split | intro _ _ _ | intro _ _ | exact Nat.le_max_left _ _ | exact Nat.le_add_right _ _
    | exact Nat.le_refl _)

theorem State.settleDie_keeps {a s : State} {x0} (h : State.Keeps a s) : State.Keeps a (State.settleDie s x0) := by
  unfold State.settleDie
  with_reducible repeat' (first
    | exact h | assumption | apply endRuns_keeps | apply keeps_foldl | apply keeps_ite | apply_assumption | dsimp only
    | split | intro _ _ _ | intro _ _ | exact Nat.le_max_left _ _ | exact Nat.le_add_right _ _ | exact Nat.le_refl _)

theorem geomFaults_keeps {a s : State} {x0 x1 x2} (h : State.Keeps a s) : State.Keeps a (geomFaults x0 x1 x2 s) := by
  fun_induction geomFaults x0 x1 x2 s
  with_reducible repeat' (first
    | exact h | assumption | apply State.checkFault_keeps | apply keeps_foldl | apply keeps_ite | apply_assumption
    | dsimp only | split | intro _ _ _ | intro _ _ | exact Nat.le_max_left _ _ | exact Nat.le_add_right _ _
    | exact Nat.le_refl _)

theorem State.leaveDusk_keeps {a s : State} {x0} (h : State.Keeps a s) : State.Keeps a (State.leaveDusk s x0) := by
  unfold State.leaveDusk
  with_reducible repeat' (first
    | exact h | assumption | apply noteStates_keeps | apply State.withPower_keeps | apply keeps_foldl
    | apply keeps_ite | apply_assumption | dsimp only | split | intro _ _ _ | intro _ _ | exact Nat.le_max_left _ _
    | exact Nat.le_add_right _ _ | exact Nat.le_refl _)

theorem fillLooms_keeps {a s : State} {x0 x1 x2} (h : State.Keeps a s) : State.Keeps a (fillLooms x0 x1 x2 s) := by
  fun_induction fillLooms x0 x1 x2 s
  with_reducible repeat' (first
    | exact h | assumption | apply State.setLoom_keeps | apply keeps_foldl | apply keeps_ite | apply_assumption
    | dsimp only | split | intro _ _ _ | intro _ _ | exact Nat.le_max_left _ _ | exact Nat.le_add_right _ _
    | exact Nat.le_refl _)

theorem fillSieves_keeps {a s : State} {x0 x1} (h : State.Keeps a s) : State.Keeps a (fillSieves x0 x1 s) := by
  fun_induction fillSieves x0 x1 s
  with_reducible repeat' (first
    | exact h | assumption | apply State.setSieve_keeps | apply keeps_foldl | apply keeps_ite | apply_assumption
    | dsimp only | split | intro _ _ _ | intro _ _ | exact Nat.le_max_left _ _ | exact Nat.le_add_right _ _
    | exact Nat.le_refl _)

theorem fillGates_keeps {a s : State} {x0 x1} (h : State.Keeps a s) : State.Keeps a (fillGates x0 x1 s) := by
  fun_induction fillGates x0 x1 s
  with_reducible repeat' (first
    | exact h | assumption | apply State.setGate_keeps | apply keeps_foldl | apply keeps_ite | apply_assumption
    | dsimp only | split | intro _ _ _ | intro _ _ | exact Nat.le_max_left _ _ | exact Nat.le_add_right _ _
    | exact Nat.le_refl _)

theorem fillGrans_keeps {a s : State} {x0 x1} (h : State.Keeps a s) : State.Keeps a (fillGrans x0 x1 s) := by
  fun_induction fillGrans x0 x1 s
  with_reducible repeat' (first
    | exact h | assumption | apply State.setPair_keeps | apply keeps_foldl | apply keeps_ite | apply_assumption
    | dsimp only | split | intro _ _ _ | intro _ _ | exact Nat.le_max_left _ _ | exact Nat.le_add_right _ _
    | exact Nat.le_refl _)

theorem State.markRunning_keeps {a s : State} {x0 x1} (h : State.Keeps a s) :
    State.Keeps a (State.markRunning s x0 x1) := by
  unfold State.markRunning
  with_reducible repeat' (first
    | exact h | assumption | apply State.mapEntries_keeps | apply keeps_foldl | apply keeps_ite | apply_assumption
    | dsimp only | split | intro _ _ _ | intro _ _ | exact Nat.le_max_left _ _ | exact Nat.le_add_right _ _
    | exact Nat.le_refl _)

theorem setReeves_keeps {a s : State} {x0 x1 x2} (h : State.Keeps a s) : State.Keeps a (setReeves x0 x1 x2 s) := by
  fun_induction setReeves x0 x1 x2 s
  with_reducible repeat' (first
    | exact h | assumption | apply State.bump64_keeps | apply State.setReeve_keeps | apply State.setFld_keeps
    | apply keeps_foldl | apply keeps_ite | apply_assumption | dsimp only | split | intro _ _ _ | intro _ _
    | exact Nat.le_max_left _ _ | exact Nat.le_add_right _ _ | exact Nat.le_refl _)

theorem State.dispatch_keeps {a s : State} {x0 x1} (h : State.Keeps a s) : State.Keeps a (State.dispatch s x0 x1) := by
  unfold State.dispatch
  with_reducible repeat' (first
    | exact h | assumption | apply geomFaults_keeps | apply State.checkFault_keeps | apply State.withLoader_keeps
    | apply State.leaveDusk_keeps | apply fillLooms_keeps | apply fillSieves_keeps | apply fillGates_keeps
    | apply fillGrans_keeps | apply State.markRunning_keeps | apply setReeves_keeps | apply keeps_foldl
    | apply keeps_ite | apply_assumption | dsimp only | split | intro _ _ _ | intro _ _ | exact Nat.le_max_left _ _
    | exact Nat.le_add_right _ _ | exact Nat.le_refl _)

theorem execPieceDispatch_keeps {a s : State} {x0} (h : State.Keeps a s) : KeepsOut a (execPieceDispatch x0 s) := by
  unfold execPieceDispatch
  with_reducible repeat' (first
    | apply keeps_next | exact keeps_fault _ | exact h | assumption | apply State.settleDie_keeps
    | apply State.dispatch_keeps | apply keeps_foldl | apply keepsOut_ite | apply keeps_ite | apply_assumption
    | dsimp only | split | intro _ _ _ | intro _ _ | exact Nat.le_max_left _ _ | exact Nat.le_add_right _ _
    | exact Nat.le_refl _)

theorem execStartTransit_keeps {a s : State} {x0} (h : State.Keeps a s) : KeepsOut a (execStartTransit x0 s) := by
  unfold execStartTransit
  with_reducible repeat' (first
    | apply keeps_next | exact keeps_fault _ | exact h | assumption | apply State.advanceTo_keeps
    | apply State.setStep_keeps | apply keeps_foldl | apply keepsOut_ite | apply keeps_ite | apply_assumption
    | dsimp only | split | intro _ _ _ | intro _ _ | exact Nat.le_max_left _ _ | exact Nat.le_add_right _ _
    | exact Nat.le_refl _)

theorem releaseTo_keeps {a s : State} {x0 x1 x2 x3} (h : State.Keeps a s) :
    State.Keeps a (releaseTo x0 x1 x2 x3 s) := by
  induction x3 generalizing s with
  | nil => exact h
  | cons p ps ih =>
    unfold releaseTo
    exact ih (keeps_foldl (fun s i k => keeps_ite (State.noteRelease_keeps (State.signalLogical_keeps k)) (State.sendBell_keeps k)) _ h)

theorem execBarrierRelease_keeps {a s : State} {x0} (h : State.Keeps a s) : KeepsOut a (execBarrierRelease x0 s) := by
  unfold execBarrierRelease
  with_reducible repeat' (first
    | apply keeps_next | exact keeps_fault _ | exact h | assumption | apply State.setJob_keeps | apply releaseTo_keeps
    | apply keeps_foldl | apply keepsOut_ite | apply keeps_ite | apply_assumption | dsimp only | split | intro _ _ _
    | intro _ _ | exact Nat.le_max_left _ _ | exact Nat.le_add_right _ _ | exact Nat.le_refl _)

theorem State.settleJob_keeps {a s : State} {x0} (h : State.Keeps a s) : State.Keeps a (State.settleJob s x0) := by
  unfold State.settleJob
  with_reducible repeat' (first
    | exact h | assumption | apply endRuns_keeps | apply keeps_foldl | apply keeps_ite | apply_assumption | dsimp only
    | split | intro _ _ _ | intro _ _ | exact Nat.le_max_left _ _ | exact Nat.le_add_right _ _ | exact Nat.le_refl _)

theorem State.adoptNext_keeps {a s : State} {x0} (h : State.Keeps a s) : State.Keeps a (State.adoptNext s x0) := by
  unfold State.adoptNext
  with_reducible repeat' (first
    | exact h | assumption | apply State.withLoader_keeps | apply keeps_foldl | apply keeps_ite | apply_assumption
    | dsimp only | split | intro _ _ _ | intro _ _ | exact Nat.le_max_left _ _ | exact Nat.le_add_right _ _
    | exact Nat.le_refl _)

theorem State.zeroBells_keeps {a s : State} {x0} (h : State.Keeps a s) : State.Keeps a (State.zeroBells s x0) := by
  unfold State.zeroBells
  with_reducible repeat' (first
    | exact h | assumption | apply State.withBells_keeps | apply keeps_foldl | apply keeps_ite | apply_assumption
    | dsimp only | split | intro _ _ _ | intro _ _ | exact Nat.le_max_left _ _ | exact Nat.le_add_right _ _
    | exact Nat.le_refl _)

theorem State.startStep_keeps {a s : State} {x0 x1} (h : State.Keeps a s) :
    State.Keeps a (State.startStep s x0 x1) := by
  unfold State.startStep
  with_reducible repeat' (first
    | exact h | assumption | apply State.zeroBells_keeps | apply State.setJob_keeps | apply State.setStep_keeps
    | apply State.openGeneration_keeps | apply State.fault_keeps | apply keeps_foldl | apply keeps_ite
    | apply_assumption | dsimp only | split | intro _ _ _ | intro _ _ | exact Nat.le_max_left _ _
    | exact Nat.le_add_right _ _ | exact Nat.le_refl _)

theorem execStepStart_keeps {a s : State} {x0} (h : State.Keeps a s) : KeepsOut a (execStepStart x0 s) := by
  unfold execStepStart
  with_reducible repeat' (first
    | apply keeps_next | exact keeps_fault _ | exact h | assumption | apply State.startStep_keeps
    | apply State.lateTransit_keeps | apply keeps_foldl | apply keepsOut_ite | apply keeps_ite | apply_assumption
    | dsimp only | split | intro _ _ _ | intro _ _ | exact Nat.le_max_left _ _ | exact Nat.le_add_right _ _
    | exact Nat.le_refl _)

theorem State.commitStep_keeps {a s : State} {x0 x1 x2} (h : State.Keeps a s) :
    State.Keeps a (State.commitStep s x0 x1 x2) := by
  unfold State.commitStep
  with_reducible repeat' (first
    | exact h | assumption | apply State.adoptNext_keeps | apply State.validNodes_keeps | apply signalDies_keeps
    | apply State.setJob_keeps | apply State.cueStepNow_keeps | apply State.complete_keeps
    | apply State.dropStep_keeps | apply State.freeStepEntry_keeps | apply State.withSram_keeps
    | apply State.withLooms_keeps | apply State.withLoader_keeps | apply keeps_foldl | apply keeps_ite
    | apply_assumption | dsimp only | split | intro _ _ _ | intro _ _ | exact Nat.le_max_left _ _
    | exact Nat.le_add_right _ _ | exact Nat.le_refl _)

theorem State.reselect_keeps {a s : State} {x0 x1} (h : State.Keeps a s) : State.Keeps a (State.reselect s x0 x1) := by
  unfold State.reselect
  with_reducible repeat' (first
    | exact h | assumption | apply State.setStep_keeps | apply State.setJob_keeps | apply keeps_foldl
    | apply keeps_ite | apply_assumption | dsimp only | split | intro _ _ _ | intro _ _ | exact Nat.le_max_left _ _
    | exact Nat.le_add_right _ _ | exact Nat.le_refl _)

theorem execStepRestart_keeps {a s : State} {x0} (h : State.Keeps a s) : KeepsOut a (execStepRestart x0 s) := by
  unfold execStepRestart
  with_reducible repeat' (first
    | apply keeps_next | exact keeps_fault _ | exact h | assumption | apply State.withRestarts_keeps
    | refine keepsOpt_elim (by assumption) (State.renew_keeps ?_) | apply State.renew_keeps | apply State.event_keeps
    | apply State.bump_keeps | apply State.reselect_keeps | apply State.revert_keeps | apply State.startStep_keeps
    | apply keeps_foldl | apply keepsOut_ite | apply keeps_ite | apply_assumption | dsimp only | split | intro _ _ _
    | intro _ _ | exact Nat.le_max_left _ _ | exact Nat.le_add_right _ _ | exact Nat.le_refl _)

theorem execHeldCommit_keeps {a s : State} {x0} (h : State.Keeps a s) : KeepsOut a (execHeldCommit x0 s) := by
  unfold execHeldCommit
  with_reducible repeat' (first
    | apply keeps_next | exact keeps_fault _ | exact h | assumption | apply State.commitStep_keeps
    | apply State.advanceTo_keeps | apply keeps_foldl | apply keepsOut_ite | apply keeps_ite | apply_assumption
    | dsimp only | split | intro _ _ _ | intro _ _ | exact Nat.le_max_left _ _ | exact Nat.le_add_right _ _
    | exact Nat.le_refl _)

theorem execStepCommit_keeps {a s : State} {x0} (h : State.Keeps a s) : KeepsOut a (execStepCommit x0 s) := by
  unfold execStepCommit
  with_reducible repeat' (first
    | apply keeps_next | exact keeps_fault _ | exact h | assumption | apply State.settleJob_keeps
    | apply State.setAlm_keeps | apply State.setStep_keeps | apply State.commitStep_keeps | apply keeps_foldl
    | apply keepsOut_ite | apply keeps_ite | apply_assumption | dsimp only | split | intro _ _ _ | intro _ _
    | exact Nat.le_max_left _ _ | exact Nat.le_add_right _ _ | exact Nat.le_refl _)

theorem State.granSignal_keeps {a s : State} {x0 x1 x2 x3} (h : State.Keeps a s) :
    State.Keeps a (State.granSignal s x0 x1 x2 x3) := by
  unfold State.granSignal
  with_reducible repeat' (first
    | exact h | assumption | apply State.sendBell_keeps | apply State.withFerry_keeps
    | apply State.signalLogical_keeps | apply keeps_foldl | apply keeps_ite | apply_assumption | dsimp only | split
    | intro _ _ _ | intro _ _ | exact Nat.le_max_left _ _ | exact Nat.le_add_right _ _ | exact Nat.le_refl _)

theorem execGranarySignal_keeps {a s : State} {x0 x1} (h : State.Keeps a s) :
    KeepsOut a (execGranarySignal x0 x1 s) := by
  unfold execGranarySignal
  with_reducible repeat' (first
    | apply keeps_next | exact keeps_fault _ | exact h | assumption | apply State.granSignal_keeps
    | apply State.rankSignal_keeps | apply State.setRunning_keeps | apply keeps_foldl | apply keepsOut_ite
    | apply keeps_ite | apply_assumption | dsimp only | split | intro _ _ _ | intro _ _ | exact Nat.le_max_left _ _
    | exact Nat.le_add_right _ _ | exact Nat.le_refl _)

end Sys2Proof.Machine
end

