-- ==== Sys2Proof/Laws/KeepsFaults.lean ====
section
/-! SUPPORT. State.Keeps over the definitions of Machine/Faults.lean. -/

namespace Sys2Proof.Machine

theorem State.fenceNote_keeps {a s : State} {x0 x1} (h : State.Keeps a s) :
    State.Keeps a (State.fenceNote s x0 x1) := by
  unfold State.fenceNote
  with_reducible repeat' (first
    | exact h | assumption | apply State.ledgerAdd_keeps | apply State.event_keeps | apply State.bump_keeps
    | apply keeps_foldl | apply keeps_ite | apply_assumption | dsimp only | split | intro _ _ _ | intro _ _
    | exact Nat.le_max_left _ _ | exact Nat.le_add_right _ _ | exact Nat.le_refl _)

theorem State.clearRegs_keeps {a s : State} {x0 x1} (h : State.Keeps a s) :
    State.Keeps a (State.clearRegs s x0 x1) := by
  unfold State.clearRegs
  with_reducible repeat' (first
    | exact h | assumption | apply State.withRegs_keeps | apply keeps_foldl | exact fun x => SMap.mapF_wf _ _ x
    | exact fun x => SMap.keep_wf _ _ x | apply keeps_ite | apply_assumption | dsimp only | split | intro _ _ _
    | intro _ _ | exact Nat.le_max_left _ _ | exact Nat.le_add_right _ _ | exact Nat.le_refl _)

theorem moveBells_keeps {a s : State} {x0 x1 x2 x3 x4} (h : State.Keeps a s) :
    State.Keeps a (moveBells x0 x1 x2 x3 x4 s) := by
  fun_induction moveBells x0 x1 x2 x3 x4 s
  with_reducible repeat' (first
    | exact h | assumption | apply State.setBell_keeps | apply keeps_foldl | apply keeps_ite | apply_assumption
    | dsimp only | split | intro _ _ _ | intro _ _ | exact Nat.le_max_left _ _ | exact Nat.le_add_right _ _
    | exact Nat.le_refl _)

theorem moveJobBells_keeps {a s : State} {x0 x1 x2 x3} (h : State.Keeps a s) :
    State.Keeps a (moveJobBells x0 x1 x2 x3 s) := by
  fun_induction moveJobBells x0 x1 x2 x3 s
  with_reducible repeat' (first
    | exact h | assumption | apply moveBells_keeps | apply keeps_foldl | apply keeps_ite | apply_assumption
    | dsimp only | split | intro _ _ _ | intro _ _ | exact Nat.le_max_left _ _ | exact Nat.le_add_right _ _
    | exact Nat.le_refl _)

theorem State.moveLogical_keeps {a s : State} {x0 x1} (h : State.Keeps a s) :
    State.Keeps a (State.moveLogical s x0 x1) := by
  unfold State.moveLogical
  with_reducible repeat' (first
    | exact h | assumption | apply State.setReg_keeps | apply moveJobBells_keeps | apply keeps_foldl | apply keeps_ite
    | apply_assumption | dsimp only | split | intro _ _ _ | intro _ _ | exact Nat.le_max_left _ _
    | exact Nat.le_add_right _ _ | exact Nat.le_refl _)

theorem moveLogicals_keeps {a s : State} {x0 x1} (h : State.Keeps a s) : State.Keeps a (moveLogicals x0 x1 s) := by
  fun_induction moveLogicals x0 x1 s
  with_reducible repeat' (first
    | exact h | assumption | apply State.moveLogical_keeps | apply keeps_foldl | apply keeps_ite | apply_assumption
    | dsimp only | split | intro _ _ _ | intro _ _ | exact Nat.le_max_left _ _ | exact Nat.le_add_right _ _
    | exact Nat.le_refl _)

theorem State.resetMap_keeps {a s : State} (h : State.Keeps a s) : State.Keeps a (State.resetMap s) := by
  unfold State.resetMap
  with_reducible repeat' (first
    | exact h | assumption | apply State.setReg_keeps | apply moveLogicals_keeps | apply keeps_foldl | apply keeps_ite
    | apply_assumption | dsimp only | split | intro _ _ _ | intro _ _ | exact Nat.le_max_left _ _
    | exact Nat.le_add_right _ _ | exact Nat.le_refl _)

theorem abortJobs_keeps {a s : State} {x0 x1} (h : State.Keeps a s) : State.Keeps a (abortJobs x0 x1 s) := by
  fun_induction abortJobs x0 x1 s
  with_reducible repeat' (first
    | exact h | assumption | apply State.abortJob_keeps | apply keeps_foldl | apply keeps_ite | apply_assumption
    | dsimp only | split | intro _ _ _ | intro _ _ | exact Nat.le_max_left _ _ | exact Nat.le_add_right _ _
    | exact Nat.le_refl _)

theorem State.clearUnits_keeps {a s : State} {x0} (h : State.Keeps a s) : State.Keeps a (State.clearUnits s x0) := by
  unfold State.clearUnits
  with_reducible repeat' (first
    | exact h | assumption | apply State.setFld_keeps | apply State.withSieves_keeps | apply State.withLooms_keeps
    | apply State.withReeves_keeps | apply State.withGates_keeps | apply State.withSram_keeps
    | apply State.withKats_keeps | apply keeps_foldl | apply keeps_ite | apply_assumption | dsimp only | split
    | intro _ _ _ | intro _ _ | exact Nat.le_max_left _ _ | exact Nat.le_add_right _ _ | exact Nat.le_refl _)

theorem State.evacuate_keeps {a s : State} {x0} (h : State.Keeps a s) : State.Keeps a (State.evacuate s x0) := by
  unfold State.evacuate
  with_reducible repeat' (first
    | exact h | assumption | apply State.redie_keeps | apply moveLogicals_keeps | apply keeps_foldl | apply keeps_ite
    | apply_assumption | dsimp only | split | intro _ _ _ | intro _ _ | exact Nat.le_max_left _ _
    | exact Nat.le_add_right _ _ | exact Nat.le_refl _)

theorem State.fence_keeps {a s : State} {x0 x1 x2 x3} (h : State.Keeps a s) :
    State.Keeps a (State.fence s x0 x1 x2 x3) := by
  unfold State.fence
  with_reducible repeat' (first
    | exact h | assumption | apply State.fenceNote_keeps | apply State.withPower_keeps | apply abortJobs_keeps
    | apply State.setFld_keeps | apply State.clearUnits_keeps | apply State.diePortsDown_keeps
    | apply State.evacuate_keeps | apply noteStates_keeps | apply State.triggerRetest_keeps | apply keeps_foldl
    | apply keeps_ite | apply_assumption | dsimp only | split | intro _ _ _ | intro _ _ | exact Nat.le_max_left _ _
    | exact Nat.le_add_right _ _ | exact Nat.le_refl _)

theorem State.releaseNote_keeps {a s : State} {x0} (h : State.Keeps a s) : State.Keeps a (State.releaseNote s x0) := by
  unfold State.releaseNote
  with_reducible repeat' (first
    | exact h | assumption | apply State.ledgerAdd_keeps | apply keeps_foldl | apply keeps_ite | apply_assumption
    | dsimp only | split | intro _ _ _ | intro _ _ | exact Nat.le_max_left _ _ | exact Nat.le_add_right _ _
    | exact Nat.le_refl _)

theorem State.unfence_keeps {a s : State} {x0} (h : State.Keeps a s) : State.Keeps a (State.unfence s x0) := by
  unfold State.unfence
  with_reducible repeat' (first
    | exact h | assumption | apply State.releaseNote_keeps | apply State.setFld_keeps | apply State.resetMap_keeps
    | apply State.triggerRetest_keeps | apply attnRise_keeps | apply noteStates_keeps | apply keeps_foldl
    | apply keeps_ite | apply_assumption | dsimp only | split | intro _ _ _ | intro _ _ | exact Nat.le_max_left _ _
    | exact Nat.le_add_right _ _ | exact Nat.le_refl _)

theorem State.dropFence_keeps {a s : State} {x0} (h : State.Keeps a s) : State.Keeps a (State.dropFence s x0) := by
  unfold State.dropFence
  with_reducible repeat' (first
    | exact h | assumption | apply State.withPower_keeps | apply State.releaseNote_keeps | apply State.unfence_keeps
    | apply keeps_foldl | apply keeps_ite | apply_assumption | dsimp only | split | intro _ _ _ | intro _ _
    | exact Nat.le_max_left _ _ | exact Nat.le_add_right _ _ | exact Nat.le_refl _)

theorem State.fenceWrite_keeps {a s : State} {x0} (h : State.Keeps a s) : State.Keeps a (State.fenceWrite s x0) := by
  unfold State.fenceWrite
  with_reducible repeat' (first
    | exact h | assumption | apply State.fence_keeps | apply State.dropFence_keeps | apply keeps_foldl
    | apply keeps_ite | apply_assumption | dsimp only | split | intro _ _ _ | intro _ _ | exact Nat.le_max_left _ _
    | exact Nat.le_add_right _ _ | exact Nat.le_refl _)

theorem State.rejoin_keeps {a s : State} {x0} (h : State.Keeps a s) : State.Keeps a (State.rejoin s x0) := by
  unfold State.rejoin
  with_reducible repeat' (first
    | exact h | assumption | apply moveJobBells_keeps | apply State.setReg_keeps | apply keeps_foldl | apply keeps_ite
    | apply_assumption | dsimp only | split | intro _ _ _ | intro _ _ | exact Nat.le_max_left _ _
    | exact Nat.le_add_right _ _ | exact Nat.le_refl _)

theorem State.admitMap_keeps {a s : State} (h : State.Keeps a s) : State.Keeps a (State.admitMap s) := by
  unfold State.admitMap
  with_reducible repeat' (first
    | exact h | assumption | apply noteStates_keeps | apply State.resetMap_keeps | apply State.redie_keeps
    | apply State.rejoin_keeps | apply keeps_foldl | apply keeps_ite | apply_assumption | dsimp only | split
    | intro _ _ _ | intro _ _ | exact Nat.le_max_left _ _ | exact Nat.le_add_right _ _ | exact Nat.le_refl _)

theorem State.spareFence_keeps {a s : State} {x0} (h : State.Keeps a s) : State.Keeps a (State.spareFence s x0) := by
  unfold State.spareFence
  with_reducible repeat' (first
    | exact h | assumption | apply State.fence_keeps | apply keeps_foldl | apply keeps_ite | apply_assumption
    | dsimp only | split | intro _ _ _ | intro _ _ | exact Nat.le_max_left _ _ | exact Nat.le_add_right _ _
    | exact Nat.le_refl _)

theorem State.recordFault_keeps {a s : State} {x0 x1} (h : State.Keeps a s) :
    State.Keeps a (State.recordFault s x0 x1) := by
  unfold State.recordFault
  with_reducible repeat' (first
    | exact h | assumption | apply State.event_keeps | apply State.bump_keeps | apply State.setFld_keeps
    | apply State.ledgerAdd_keeps | apply keeps_foldl | apply keeps_ite | apply_assumption | dsimp only | split
    | intro _ _ _ | intro _ _ | exact Nat.le_max_left _ _ | exact Nat.le_add_right _ _ | exact Nat.le_refl _)

theorem endJobs_keeps {a s : State} {x0 x1} (h : State.Keeps a s) : State.Keeps a (endJobs x0 x1 s) := by
  fun_induction endJobs x0 x1 s
  with_reducible repeat' (first
    | exact h | assumption | apply State.endJobHere_keeps | apply keeps_foldl | apply keeps_ite | apply_assumption
    | dsimp only | split | intro _ _ _ | intro _ _ | exact Nat.le_max_left _ _ | exact Nat.le_add_right _ _
    | exact Nat.le_refl _)

theorem State.zeroSector_keeps {a s : State} {x0} (h : State.Keeps a s) : State.Keeps a (State.zeroSector s x0) := by
  unfold State.zeroSector
  with_reducible repeat' (first
    | exact h | assumption | apply State.withLoader_keeps | apply State.healSector_keeps | apply storeBytes_keeps
    | apply keeps_foldl | apply keeps_ite | apply_assumption | dsimp only | split | intro _ _ _ | intro _ _
    | exact Nat.le_max_left _ _ | exact Nat.le_add_right _ _ | exact Nat.le_refl _)

theorem State.dropMirror_keeps {a s : State} {x0 x1} (h : State.Keeps a s) :
    State.Keeps a (State.dropMirror s x0 x1) := by
  unfold State.dropMirror
  with_reducible repeat' (first
    | exact h | assumption | apply State.setStep_keeps | apply State.withLoader_keeps | apply keeps_foldl
    | apply keeps_ite | apply_assumption | dsimp only | split | intro _ _ _ | intro _ _ | exact Nat.le_max_left _ _
    | exact Nat.le_add_right _ _ | exact Nat.le_refl _)

theorem State.giveUp_keeps {a s : State} {x0 x1} (h : State.Keeps a s) : State.Keeps a (State.giveUp s x0 x1) := by
  unfold State.giveUp
  with_reducible repeat' (first
    | exact h | assumption | apply State.dropMirror_keeps | apply State.dropPage_keeps | apply keeps_foldl
    | apply keeps_ite | apply_assumption | dsimp only | split | intro _ _ _ | intro _ _ | exact Nat.le_max_left _ _
    | exact Nat.le_add_right _ _ | exact Nat.le_refl _)

theorem State.sectorFault_keeps {a s : State} {x0 x1} (h : State.Keeps a s) :
    State.Keeps a (State.sectorFault s x0 x1) := by
  unfold State.sectorFault
  have k := State.abortJob_keeps (x0 := x0) (x1 := 0x41) (State.zeroSector_keeps (x0 := x1) (State.giveUp_keeps (x0 := x0) (x1 := x1) h))
  with_reducible repeat' (first
    | exact h | apply State.endJobHere_keeps | apply State.jobTree_keeps | dsimp only | split)
  all_goals exact keepsOpt_getD k (keepsOpt_bindV fun _ => State.renew_keeps k)

theorem State.countFault_keeps {a s : State} {x0 x1} (h : State.Keeps a s) :
    State.Keeps a (State.countFault s x0 x1) := by
  unfold State.countFault
  with_reducible repeat' (first
    | exact h | assumption | apply State.withPower_keeps | apply State.fence_keeps | apply keeps_foldl
    | apply keeps_ite | apply_assumption | dsimp only | split | intro _ _ _ | intro _ _ | exact Nat.le_max_left _ _
    | exact Nat.le_add_right _ _ | exact Nat.le_refl _)

theorem State.handleFault_keeps {a s : State} {x0} (h : State.Keeps a s) : State.Keeps a (State.handleFault s x0) := by
  unfold State.handleFault
  with_reducible repeat' (first
    | exact h | assumption | apply State.abortJob_keeps | apply State.spareFence_keeps | apply State.recordFault_keeps
    | apply endJobs_keeps | apply State.withBoard_keeps | apply State.sectorFault_keeps | apply abortJobs_keeps
    | apply State.countFault_keeps | apply keeps_foldl | exact fun x => x | exact fun x => by simp_all
    | exact fun _ => Nat.zero_le _ | exact fun _ => Nat.le_refl _ | exact fun _ => Nat.le_succ _ | apply keeps_ite
    | apply_assumption | dsimp only | split | intro _ _ _ | intro _ _ | exact Nat.le_max_left _ _
    | exact Nat.le_add_right _ _ | exact Nat.le_refl _)

theorem State.clearGuards_keeps {a s : State} {x0} (h : State.Keeps a s) : State.Keeps a (State.clearGuards s x0) := by
  unfold State.clearGuards
  with_reducible repeat' (first
    | exact h | assumption | apply State.withSnaps_keeps | apply State.withLatch_keeps | apply State.withGuards_keeps
    | apply keeps_foldl | apply keeps_ite | apply_assumption | dsimp only | split | intro _ _ _ | intro _ _
    | exact Nat.le_max_left _ _ | exact Nat.le_add_right _ _ | exact Nat.le_refl _)

theorem State.clearDie_keeps {a s : State} {x0 x1} (h : State.Keeps a s) : State.Keeps a (State.clearDie s x0 x1) := by
  unfold State.clearDie
  with_reducible repeat' (first
    | exact h | assumption | apply State.clearGuards_keeps | apply State.clearRegs_keeps | apply keeps_foldl
    | apply keeps_ite | apply_assumption | dsimp only | split | intro _ _ _ | intro _ _ | exact Nat.le_max_left _ _
    | exact Nat.le_add_right _ _ | exact Nat.le_refl _)

theorem State.croftReset_keeps {a s : State} {x0 x1} (h : State.Keeps a s) :
    State.Keeps a (State.croftReset s x0 x1) := by
  unfold State.croftReset
  with_reducible repeat' (first
    | exact h | assumption | apply abortJobs_keeps | apply State.evacuate_keeps | apply State.clearUnits_keeps
    | apply State.diePortsDown_keeps | apply State.withBells_keeps | apply State.withPower_keeps
    | apply State.clearDie_keeps | apply noteStates_keeps | apply State.triggerRetest_keeps
    | apply State.ledgerAdd_keeps | apply keeps_foldl | apply keeps_ite | apply_assumption | dsimp only | split
    | intro _ _ _ | intro _ _ | exact Nat.le_max_left _ _ | exact Nat.le_add_right _ _ | exact Nat.le_refl _)

theorem execTemporaryFenceRelease_keeps {a s : State} {x0} (h : State.Keeps a s) :
    KeepsOut a (execTemporaryFenceRelease x0 s) := by
  unfold execTemporaryFenceRelease
  with_reducible repeat' (first
    | apply keeps_next | exact keeps_fault _ | exact h | assumption | apply State.croftReset_keeps
    | apply State.withPower_keeps | apply State.unfence_keeps | apply keeps_foldl | apply keepsOut_ite
    | apply keeps_ite | apply_assumption | dsimp only | split | intro _ _ _ | intro _ _ | exact Nat.le_max_left _ _
    | exact Nat.le_add_right _ _ | exact Nat.le_refl _)

theorem sramFixes_keeps {a s : State} {x0} (h : State.Keeps a s) : State.Keeps a (sramFixes x0 s) := by
  fun_induction sramFixes x0 s
  with_reducible repeat' (first
    | exact h | assumption | apply State.event_keeps | apply State.bump_keeps | apply keeps_foldl | apply keeps_ite
    | apply_assumption | dsimp only | split | intro _ _ _ | intro _ _ | exact Nat.le_max_left _ _
    | exact Nat.le_add_right _ _ | exact Nat.le_refl _)

theorem State.hwFault_keeps {a s : State} {x0} (h : State.Keeps a s) : State.Keeps a (State.hwFault s x0) := by
  unfold State.hwFault
  with_reducible repeat' (first
    | exact h | assumption | apply sramFixes_keeps | apply weaken_keeps | apply State.setStack_keeps
    | apply State.ueEvent_keeps | apply State.setLoom_keeps | apply State.fault_keeps | apply keeps_foldl
    | apply keeps_ite | apply_assumption | dsimp only | split | intro _ _ _ | intro _ _ | exact Nat.le_max_left _ _
    | exact Nat.le_add_right _ _ | exact Nat.le_refl _)

theorem execRunTimeFault_keeps {a s : State} {x0} (h : State.Keeps a s) : KeepsOut a (execRunTimeFault x0 s) := by
  unfold execRunTimeFault
  with_reducible repeat' (first
    | apply keeps_next | exact keeps_fault _ | exact h | assumption | apply State.hwFault_keeps
    | apply State.handleFault_keeps | apply State.withFaults_keeps | apply keeps_foldl | apply keepsOut_ite
    | apply keeps_ite | apply_assumption | dsimp only | split | intro _ _ _ | intro _ _ | exact Nat.le_max_left _ _
    | exact Nat.le_add_right _ _ | exact Nat.le_refl _)

end Sys2Proof.Machine
end

