-- ==== Sys2Proof/Laws/KeepsBoard.lean ====
section
/-! SUPPORT. State.Keeps over the definitions of Machine/Board.lean. -/

namespace Sys2Proof.Machine

theorem State.loseStack_keeps {a s : State} {x0} (h : State.Keeps a s) : State.Keeps a (State.loseStack s x0) := State.withMem_keeps (State.setStack_keeps h) (fun x => SMap.keep_wf _ _ x)

theorem loseStacks_keeps {a s : State} {x0} (h : State.Keeps a s) : State.Keeps a (loseStacks x0 s) := by
  fun_induction loseStacks x0 s
  with_reducible repeat' (first
    | exact h | assumption | apply State.loseStack_keeps | apply keeps_foldl | apply keeps_ite | apply_assumption
    | dsimp only | split | intro _ _ _ | intro _ _ | exact Nat.le_max_left _ _ | exact Nat.le_add_right _ _
    | exact Nat.le_refl _)

theorem setTrained_keeps {a s : State} {x0 x1} (h : State.Keeps a s) : State.Keeps a (setTrained x0 x1 s) := by
  fun_induction setTrained x0 x1 s
  with_reducible repeat' (first
    | exact h | assumption | apply State.setFld_keeps | apply keeps_foldl | apply keeps_ite | apply_assumption
    | dsimp only | split | intro _ _ _ | intro _ _ | exact Nat.le_max_left _ _ | exact Nat.le_add_right _ _
    | exact Nat.le_refl _)

theorem reFence_keeps {a s : State} {x0} (h : State.Keeps a s) : State.Keeps a (reFence x0 s) := by
  fun_induction reFence x0 s
  with_reducible repeat' (first
    | exact h | assumption | apply State.setFld_keeps | apply keeps_foldl | apply keeps_ite | apply_assumption
    | dsimp only | split | intro _ _ _ | intro _ _ | exact Nat.le_max_left _ _ | exact Nat.le_add_right _ _
    | exact Nat.le_refl _)

theorem fenceFailed_keeps {a s : State} {x0} (h : State.Keeps a s) : State.Keeps a (fenceFailed x0 s) := by
  fun_induction fenceFailed x0 s
  with_reducible repeat' (first
    | exact h | assumption | apply State.fence_keeps | apply keeps_foldl | apply keeps_ite | apply_assumption
    | dsimp only | split | intro _ _ _ | intro _ _ | exact Nat.le_max_left _ _ | exact Nat.le_add_right _ _
    | exact Nat.le_refl _)

theorem State.setWmState_keeps {a s : State} {x0} (h : State.Keeps a s) : State.Keeps a (State.setWmState s x0) := by
  unfold State.setWmState
  with_reducible repeat' (first
    | exact h | assumption | apply State.setFld_keeps | apply keeps_foldl | apply keeps_ite | apply_assumption
    | dsimp only | split | intro _ _ _ | intro _ _ | exact Nat.le_max_left _ _ | exact Nat.le_add_right _ _
    | exact Nat.le_refl _)

theorem State.checkReady_keeps {a s : State} (h : State.Keeps a s) : State.Keeps a (State.checkReady s) := by
  unfold State.checkReady
  with_reducible repeat' (first
    | exact h | assumption | apply State.setFld_keeps | apply keeps_foldl | apply keeps_ite | apply_assumption
    | dsimp only | split | intro _ _ _ | intro _ _ | exact Nat.le_max_left _ _ | exact Nat.le_add_right _ _
    | exact Nat.le_refl _)

theorem execHbmTrainingComplete_keeps {a s : State} {x0} (h : State.Keeps a s) :
    KeepsOut a (execHbmTrainingComplete x0 s) := by
  unfold execHbmTrainingComplete
  with_reducible repeat' (first
    | apply keeps_next | exact keeps_fault _ | exact h | assumption | apply State.withBoard_keeps
    | apply loseStacks_keeps | apply setTrained_keeps | apply noteStates_keeps | apply State.resetMap_keeps
    | apply reFence_keeps | apply fenceFailed_keeps | apply State.setWmState_keeps | apply State.checkReady_keeps
    | apply keeps_foldl | exact fun x => x | exact fun x => by simp_all | exact fun _ => Nat.zero_le _
    | exact fun _ => Nat.le_refl _ | exact fun _ => Nat.le_succ _ | apply keepsOut_ite | apply keeps_ite
    | apply_assumption | dsimp only | split | intro _ _ _ | intro _ _ | exact Nat.le_max_left _ _
    | exact Nat.le_add_right _ _ | exact Nat.le_refl _)

theorem linkDowns_keeps {a s : State} {x0} (h : State.Keeps a s) : State.Keeps a (linkDowns x0 s) := by
  fun_induction linkDowns x0 s
  with_reducible repeat' (first
    | exact h | assumption | apply State.event_keeps | apply keeps_foldl | apply keeps_ite | apply_assumption
    | dsimp only | split | intro _ _ _ | intro _ _ | exact Nat.le_max_left _ _ | exact Nat.le_add_right _ _
    | exact Nat.le_refl _)

theorem setLinks_keeps {a s : State} {x0 x1} (h : State.Keeps a s) : State.Keeps a (setLinks x0 x1 s) := by
  fun_induction setLinks x0 x1 s
  with_reducible repeat' (first
    | exact h | assumption | apply State.setReg_keeps | apply keeps_foldl | apply keeps_ite | apply_assumption
    | dsimp only | split | intro _ _ _ | intro _ _ | exact Nat.le_max_left _ _ | exact Nat.le_add_right _ _
    | exact Nat.le_refl _)

theorem State.linkLost_keeps {a s : State} (h : State.Keeps a s) : State.Keeps a (State.linkLost s) := by
  unfold State.linkLost
  with_reducible repeat' (first
    | exact h | assumption | apply State.withBoard_keeps | apply State.alert_keeps | apply linkDowns_keeps
    | apply setLinks_keeps | apply keeps_foldl | exact fun x => x | exact fun x => by simp_all
    | exact fun _ => Nat.zero_le _ | exact fun _ => Nat.le_refl _ | exact fun _ => Nat.le_succ _ | apply keeps_ite
    | apply_assumption | dsimp only | split | intro _ _ _ | intro _ _ | exact Nat.le_max_left _ _
    | exact Nat.le_add_right _ _ | exact Nat.le_refl _)

theorem State.failSquare_keeps {a s : State} {x0 x1 x2} (h : State.Keeps a s) :
    State.Keeps a (State.failSquare s x0 x1 x2) := by
  unfold State.failSquare
  with_reducible repeat' (first
    | exact h | assumption | apply State.linkLost_keeps | apply State.ledgerAdd_keeps | apply State.withBoard_keeps
    | apply keeps_foldl | exact fun x => x | exact fun x => by simp_all | exact fun _ => Nat.zero_le _
    | exact fun _ => Nat.le_refl _ | exact fun _ => Nat.le_succ _ | apply keeps_ite | apply_assumption | dsimp only
    | split | intro _ _ _ | intro _ _ | exact Nat.le_max_left _ _ | exact Nat.le_add_right _ _ | exact Nat.le_refl _)

theorem State.perstRelease_keeps {a s : State} (h : State.Keeps a s) : State.Keeps a (State.perstRelease s) := by
  unfold State.perstRelease
  with_reducible repeat' (first
    | exact h | assumption | apply State.checkReady_keeps | apply State.withBoard_keeps | apply keeps_foldl
    | exact fun x => x | exact fun x => by simp_all | exact fun _ => Nat.zero_le _ | exact fun _ => Nat.le_refl _
    | exact fun _ => Nat.le_succ _ | apply keeps_ite | apply_assumption | dsimp only | split | intro _ _ _ | intro _ _
    | exact Nat.le_max_left _ _ | exact Nat.le_add_right _ _ | exact Nat.le_refl _)

theorem execExtest_keeps {a s : State} {x0} (h : State.Keeps a s) : KeepsOut a (execExtest x0 s) := by
  unfold execExtest
  with_reducible repeat' (first
    | apply keeps_next | exact keeps_fault _ | exact h | assumption | apply State.withBoard_keeps
    | apply State.perstRelease_keeps | apply keeps_foldl | exact fun x => x | exact fun x => by simp_all
    | exact fun _ => Nat.zero_le _ | exact fun _ => Nat.le_refl _ | exact fun _ => Nat.le_succ _ | apply keepsOut_ite
    | apply keeps_ite | apply_assumption | dsimp only | split | intro _ _ _ | intro _ _ | exact Nat.le_max_left _ _
    | exact Nat.le_add_right _ _ | exact Nat.le_refl _)

theorem State.freeBells_keeps {a s : State} {x0} (h : State.Keeps a s) : State.Keeps a (State.freeBells s x0) := by
  unfold State.freeBells
  with_reducible repeat' (first
    | exact h | assumption | apply State.withBells_keeps | apply keeps_foldl | apply keeps_ite | apply_assumption
    | dsimp only | split | intro _ _ _ | intro _ _ | exact Nat.le_max_left _ _ | exact Nat.le_add_right _ _
    | exact Nat.le_refl _)

theorem State.removeJob_keeps {a s : State} {x0} (h : State.Keeps a s) : State.Keeps a (State.removeJob s x0) := by
  unfold State.removeJob
  with_reducible repeat' (first
    | exact h | assumption | apply State.unitsReset_keeps | apply State.releaseBind_keeps
    | apply State.freeWhere_keeps | apply closeSessions_keeps | apply State.withRestarts_keeps
    | apply State.freeBells_keeps | apply State.dropStep_keeps | apply State.withLoader_keeps | apply keeps_foldl
    | apply keeps_ite | apply_assumption | dsimp only | split | intro _ _ _ | intro _ _ | exact Nat.le_max_left _ _
    | exact Nat.le_add_right _ _ | exact Nat.le_refl _)

theorem removeJobs_keeps {a s : State} {x0} (h : State.Keeps a s) : State.Keeps a (removeJobs x0 s) := by
  fun_induction removeJobs x0 s
  with_reducible repeat' (first
    | exact h | assumption | apply State.removeJob_keeps | apply keeps_foldl | apply keeps_ite | apply_assumption
    | dsimp only | split | intro _ _ _ | intro _ _ | exact Nat.le_max_left _ _ | exact Nat.le_add_right _ _
    | exact Nat.le_refl _)

theorem State.bootFail_keeps {a s : State} {x0} (h : State.Keeps a s) : State.Keeps a (State.bootFail s x0) := by
  unfold State.bootFail
  with_reducible repeat' (first
    | exact h | assumption | apply State.ledgerAdd_keeps | apply State.alert_keeps | apply keeps_foldl
    | apply keeps_ite | apply_assumption | dsimp only | split | intro _ _ _ | intro _ _ | exact Nat.le_max_left _ _
    | exact Nat.le_add_right _ _ | exact Nat.le_refl _)

theorem State.bootComp_keeps {a s : State} {x0} (h : State.Keeps a s) : State.Keeps a (State.bootComp s x0) := by
  unfold State.bootComp
  with_reducible repeat' (first
    | exact h | assumption | apply State.withWm_keeps | apply State.bootFail_keeps | apply State.withBoard_keeps
    | apply State.setWmState_keeps | apply keeps_foldl | exact fun x => x | exact fun x => by simp_all
    | exact fun _ => Nat.zero_le _ | exact fun _ => Nat.le_refl _ | exact fun _ => Nat.le_succ _ | apply keeps_ite
    | apply_assumption | dsimp only | split | intro _ _ _ | intro _ _ | exact Nat.le_max_left _ _
    | exact Nat.le_add_right _ _ | exact Nat.le_refl _)

theorem State.loadOwner_keeps {a s : State} {x0 x1} (h : State.Keeps a s) :
    State.Keeps a (State.loadOwner s x0 x1) := by
  unfold State.loadOwner
  with_reducible repeat' (first
    | exact h | assumption | apply State.setReg_keeps | apply keeps_foldl | apply keeps_ite | apply_assumption
    | dsimp only | split | intro _ _ _ | intro _ _ | exact Nat.le_max_left _ _ | exact Nat.le_add_right _ _
    | exact Nat.le_refl _)

theorem loadOwners_keeps {a s : State} {x0 x1} (h : State.Keeps a s) : State.Keeps a (loadOwners x0 x1 s) := by
  fun_induction loadOwners x0 x1 s
  with_reducible repeat' (first
    | exact h | assumption | apply State.loadOwner_keeps | apply keeps_foldl | apply keeps_ite | apply_assumption
    | dsimp only | split | intro _ _ _ | intro _ _ | exact Nat.le_max_left _ _ | exact Nat.le_add_right _ _
    | exact Nat.le_refl _)

theorem State.loadKeys_keeps {a s : State} (h : State.Keeps a s) : State.Keeps a (State.loadKeys s) := by
  unfold State.loadKeys
  with_reducible repeat' (first
    | exact h | assumption | apply State.setReg_keeps | apply keeps_foldl | apply keeps_ite | apply_assumption
    | dsimp only | split | intro _ _ _ | intro _ _ | exact Nat.le_max_left _ _ | exact Nat.le_add_right _ _
    | exact Nat.le_refl _)

theorem State.repairExhausted_keeps {a s : State} {x0} (h : State.Keeps a s) :
    State.Keeps a (State.repairExhausted s x0) := by
  unfold State.repairExhausted
  with_reducible repeat' (first
    | exact h | assumption | apply State.alert_keeps | apply State.setFld_keeps | apply State.event_keeps
    | apply keeps_foldl | apply keeps_ite | apply_assumption | dsimp only | split | intro _ _ _ | intro _ _
    | exact Nat.le_max_left _ _ | exact Nat.le_add_right _ _ | exact Nat.le_refl _)

theorem State.setSpare_keeps {a s : State} {x0 x1 x2} (h : State.Keeps a s) :
    State.Keeps a (State.setSpare s x0 x1 x2) := by
  unfold State.setSpare
  with_reducible repeat' (first
    | exact h | assumption | apply State.setReg_keeps | apply keeps_foldl | apply keeps_ite | apply_assumption
    | dsimp only | split | intro _ _ _ | intro _ _ | exact Nat.le_max_left _ _ | exact Nat.le_add_right _ _
    | exact Nat.le_refl _)

theorem hardRepairs_keeps {a s : State} {x0} (h : State.Keeps a s) : State.Keeps a (hardRepairs x0 s) := by
  fun_induction hardRepairs x0 s
  with_reducible repeat' (first
    | exact h | assumption | apply State.repairExhausted_keeps | apply State.ledgerAdd_keeps
    | apply State.setSpare_keeps | apply keeps_foldl | apply keeps_ite | apply_assumption | dsimp only | split
    | intro _ _ _ | intro _ _ | exact Nat.le_max_left _ _ | exact Nat.le_add_right _ _ | exact Nat.le_refl _)

theorem State.firmwareRun_keeps {a s : State} (h : State.Keeps a s) : State.Keeps a (State.firmwareRun s) := by
  unfold State.firmwareRun
  with_reducible repeat' (first
    | exact h | assumption | apply State.bootComp_keeps | apply loadOwners_keeps | apply State.loadKeys_keeps
    | apply hardRepairs_keeps | apply keeps_foldl | apply keeps_ite | apply_assumption | dsimp only | split
    | intro _ _ _ | intro _ _ | exact Nat.le_max_left _ _ | exact Nat.le_add_right _ _ | exact Nat.le_refl _)

theorem State.coldRun_keeps {a s : State} (h : State.Keeps a s) : State.Keeps a (State.coldRun s) := by
  unfold State.coldRun
  with_reducible repeat' (first
    | exact h | assumption | apply State.firmwareRun_keeps | apply State.ledgerAdd_keeps | apply State.withBoard_keeps
    | apply keeps_foldl | exact fun x => x | exact fun x => by simp_all | exact fun _ => Nat.zero_le _
    | exact fun _ => Nat.le_refl _ | exact fun _ => Nat.le_succ _ | apply keeps_ite | apply_assumption | dsimp only
    | split | intro _ _ _ | intro _ _ | exact Nat.le_max_left _ _ | exact Nat.le_add_right _ _ | exact Nat.le_refl _)

theorem freeSpares_keeps {a s : State} {x0 x1} (h : State.Keeps a s) : State.Keeps a (freeSpares x0 x1 s) := by
  fun_induction freeSpares x0 x1 s
  with_reducible repeat' (first
    | exact h | assumption | apply State.setSpare_keeps | apply keeps_foldl | apply keeps_ite | apply_assumption
    | dsimp only | split | intro _ _ _ | intro _ _ | exact Nat.le_max_left _ _ | exact Nat.le_add_right _ _
    | exact Nat.le_refl _)

theorem State.loseRepairs_keeps {a s : State} (h : State.Keeps a s) : State.Keeps a (State.loseRepairs s) := by
  unfold State.loseRepairs
  with_reducible repeat' (first
    | exact h | assumption | apply State.setStack_keeps | apply freeSpares_keeps | apply keeps_foldl | apply keeps_ite
    | apply_assumption | dsimp only | split | intro _ _ _ | intro _ _ | exact Nat.le_max_left _ _
    | exact Nat.le_add_right _ _ | exact Nat.le_refl _)

theorem State.coldBase_keeps {a s : State} {m : SMap Word} (h : State.Keeps a s)
    (hr : SMap.wfF resetWord s.regs = true → SMap.wfF resetWord m = true) : State.Keeps a (State.coldBase s m) :=
  ⟨h.queue, fun _ => rfl, fun x => hr (h.regs x), h.clock, h.opened, h.fuses, h.svn, h.ledger, fun _ => Nat.zero_le _⟩

theorem execIslandRailLoss_keeps {s t : State} (e : execIslandRailLoss s = .next t) : State.Keeps (s.withLedger t.ledger) t := by
  unfold execIslandRailLoss at e
  split at e
  · cases e
    have k := State.loseRepairs_keeps (State.Keeps.refl s)
    exact ⟨k.queue, fun _ => rfl, fun x => SMap.keep_wf _ _ (k.regs x), k.clock, k.opened, k.fuses, k.svn, Nat.le_refl _, fun _ => Nat.zero_le _⟩
  · cases e
    exact State.Keeps.refl _

theorem State.coldReset_keeps {a s : State} (h : State.Keeps a s) : State.Keeps a (State.coldReset s) := by
  unfold State.coldReset
  with_reducible repeat' (first
    | exact h | assumption | apply State.loseRepairs_keeps | apply State.coldBase_keeps | apply State.setWmState_keeps
    | apply State.withBoard_keeps | apply State.coldRun_keeps | apply keeps_foldl | exact fun x => x
    | exact fun x => by simp_all | exact fun _ => Nat.zero_le _ | exact fun _ => Nat.le_refl _
    | exact fun _ => Nat.le_succ _ | exact fun x => SMap.mapF_wf _ _ x | exact fun x => SMap.keep_wf _ _ x
    | apply keeps_ite | apply_assumption | dsimp only | split | intro _ _ _ | intro _ _ | exact Nat.le_max_left _ _
    | exact Nat.le_add_right _ _ | exact Nat.le_refl _)

theorem State.configure_keeps {a s : State} {x0} (h : State.Keeps a s) : State.Keeps a (State.configure s x0) := by
  unfold State.configure
  with_reducible repeat' (first
    | exact h | assumption | apply State.withBoard_keeps | apply keeps_foldl | exact fun x => x
    | exact fun x => by simp_all | exact fun _ => Nat.zero_le _ | exact fun _ => Nat.le_refl _
    | exact fun _ => Nat.le_succ _ | apply keeps_ite | apply_assumption | dsimp only | split | intro _ _ _ | intro _ _
    | exact Nat.le_max_left _ _ | exact Nat.le_add_right _ _ | exact Nat.le_refl _)

theorem execPerstNRelease_keeps {a s : State} (h : State.Keeps a s) : KeepsOut a (execPerstNRelease s) := by
  unfold execPerstNRelease
  with_reducible repeat' (first
    | apply keeps_next | exact keeps_fault _ | exact h | assumption | apply State.withBoard_keeps
    | apply State.perstRelease_keeps | apply keeps_foldl | exact fun x => x | exact fun x => by simp_all
    | exact fun _ => Nat.zero_le _ | exact fun _ => Nat.le_refl _ | exact fun _ => Nat.le_succ _ | apply keepsOut_ite
    | apply keeps_ite | apply_assumption | dsimp only | split | intro _ _ _ | intro _ _ | exact Nat.le_max_left _ _
    | exact Nat.le_add_right _ _ | exact Nat.le_refl _)

theorem State.setCause_keeps {a s : State} {x0 x1 x2} (h : State.Keeps a s) :
    State.Keeps a (State.setCause s x0 x1 x2) := by
  unfold State.setCause
  with_reducible repeat' (first
    | exact h | assumption | apply State.setReg_keeps | apply keeps_foldl | apply keeps_ite | apply_assumption
    | dsimp only | split | intro _ _ _ | intro _ _ | exact Nat.le_max_left _ _ | exact Nat.le_add_right _ _
    | exact Nat.le_refl _)

theorem State.packageWipe_keeps {a s : State} {x0} (h : State.Keeps a s) : State.Keeps a (State.packageWipe s x0) := by
  refine ⟨h.queue, fun x => ?_, h.regs, h.clock, h.opened, h.fuses, h.svn, h.ledger, fun _ => Nat.zero_le _⟩
  cases x0 with
  | true => exact h.mem x
  | false => rfl

theorem State.packageReset_keeps {a s : State} {x0 x1 x2} (h : State.Keeps a s) :
    State.Keeps a (State.packageReset s x0 x1 x2) := by
  unfold State.packageReset
  with_reducible repeat' (first
    | exact h | assumption | apply State.loseRepairs_keeps | apply State.clearGuards_keeps
    | apply State.clearRegs_keeps | apply State.setCause_keeps | apply State.withOut_keeps
    | apply State.packageWipe_keeps | apply State.bootComp_keeps | apply State.ledgerAdd_keeps | apply keeps_foldl
    | apply keeps_ite | apply_assumption | dsimp only | split | intro _ _ _ | intro _ _ | exact Nat.le_max_left _ _
    | exact Nat.le_add_right _ _ | exact Nat.le_refl _)

theorem execMainOkFall_keeps {a s : State} (h : State.Keeps a s) : KeepsOut a (execMainOkFall s) := by
  unfold execMainOkFall
  with_reducible repeat' (first
    | apply keeps_next | exact keeps_fault _ | exact h | assumption | apply State.withBoard_keeps
    | apply State.packageReset_keeps | apply keeps_foldl | exact fun x => x | exact fun x => by simp_all
    | exact fun _ => Nat.zero_le _ | exact fun _ => Nat.le_refl _ | exact fun _ => Nat.le_succ _ | apply keepsOut_ite
    | apply keeps_ite | apply_assumption | dsimp only | split | intro _ _ _ | intro _ _ | exact Nat.le_max_left _ _
    | exact Nat.le_add_right _ _ | exact Nat.le_refl _)

theorem execPerstNAssert_keeps {a s : State} (h : State.Keeps a s) : KeepsOut a (execPerstNAssert s) := by
  unfold execPerstNAssert
  with_reducible repeat' (first
    | apply keeps_next | exact keeps_fault _ | exact h | assumption | apply State.withBoard_keeps
    | apply State.packageReset_keeps | apply keeps_foldl | exact fun x => x | exact fun x => by simp_all
    | exact fun _ => Nat.zero_le _ | exact fun _ => Nat.le_refl _ | exact fun _ => Nat.le_succ _ | apply keepsOut_ite
    | apply keeps_ite | apply_assumption | dsimp only | split | intro _ _ _ | intro _ _ | exact Nat.le_max_left _ _
    | exact Nat.le_add_right _ _ | exact Nat.le_refl _)

theorem execRefclkLoss_keeps {a s : State} (h : State.Keeps a s) : KeepsOut a (execRefclkLoss s) := by
  unfold execRefclkLoss
  with_reducible repeat' (first
    | apply keeps_next | exact keeps_fault _ | exact h | assumption | apply State.failSquare_keeps | apply keeps_foldl
    | apply keepsOut_ite | apply keeps_ite | apply_assumption | dsimp only | split | intro _ _ _ | intro _ _
    | exact Nat.le_max_left _ _ | exact Nat.le_add_right _ _ | exact Nat.le_refl _)

theorem execHostLinkUp_keeps {a s : State} {x0 x1 x2 x3} (h : State.Keeps a s) :
    KeepsOut a (execHostLinkUp x0 x1 x2 x3 s) := by
  unfold execHostLinkUp
  with_reducible repeat' (first
    | apply keeps_next | exact keeps_fault _ | exact h | assumption | apply State.configure_keeps
    | apply setLinks_keeps | apply keeps_foldl | apply keepsOut_ite | apply keeps_ite | apply_assumption | dsimp only
    | split | intro _ _ _ | intro _ _ | exact Nat.le_max_left _ _ | exact Nat.le_add_right _ _ | exact Nat.le_refl _)

theorem execMainOkRise_keeps {a s : State} (h : State.Keeps a s) : KeepsOut a (execMainOkRise s) := by
  unfold execMainOkRise
  with_reducible repeat' (first
    | apply keeps_next | exact keeps_fault _ | exact h | assumption | apply State.withBoard_keeps
    | apply State.coldReset_keeps | apply keeps_foldl | exact fun x => x | exact fun x => by simp_all
    | exact fun _ => Nat.zero_le _ | exact fun _ => Nat.le_refl _ | exact fun _ => Nat.le_succ _ | apply keepsOut_ite
    | apply keeps_ite | apply_assumption | dsimp only | split | intro _ _ _ | intro _ _ | exact Nat.le_max_left _ _
    | exact Nat.le_add_right _ _ | exact Nat.le_refl _)

theorem State.functionReset_keeps {a s : State} {x0} (h : State.Keeps a s) :
    State.Keeps a (State.functionReset s x0) := by
  unfold State.functionReset
  with_reducible repeat' (first
    | exact h | assumption | apply removeJobs_keeps | apply closeSessions_keeps | apply State.dropNodesOf_keeps
    | apply State.withLoader_keeps | apply State.clearGuards_keeps | apply State.clearRegs_keeps
    | apply State.withRingLost_keeps | apply State.withDmaLost_keeps | apply State.withFieldReqs_keeps
    | apply State.withDma_keeps | apply State.cueFunctionReset_keeps | apply State.withFields_keeps
    | apply State.withOut_keeps | apply State.withBoard_keeps | apply State.ledgerAdd_keeps | apply keeps_foldl
    | exact fun x => x | exact fun x => by simp_all | exact fun _ => Nat.zero_le _ | exact fun _ => Nat.le_refl _
    | exact fun _ => Nat.le_succ _ | apply keeps_ite | apply_assumption | dsimp only | split | intro _ _ _ | intro _ _
    | exact Nat.le_max_left _ _ | exact Nat.le_add_right _ _ | exact Nat.le_refl _)

theorem execFunctionLevelReset_keeps {a s : State} {x0} (h : State.Keeps a s) :
    KeepsOut a (execFunctionLevelReset x0 s) := by
  unfold execFunctionLevelReset
  with_reducible repeat' (first
    | apply keeps_next | exact keeps_fault _ | exact h | assumption | apply State.functionReset_keeps
    | apply keeps_foldl | apply keepsOut_ite | apply keeps_ite | apply_assumption | dsimp only | split | intro _ _ _
    | intro _ _ | exact Nat.le_max_left _ _ | exact Nat.le_add_right _ _ | exact Nat.le_refl _)

theorem execLinkDown_keeps {a s : State} (h : State.Keeps a s) : KeepsOut a (execLinkDown s) := by
  unfold execLinkDown
  with_reducible repeat' (first
    | apply keeps_next | exact keeps_fault _ | exact h | assumption | apply State.linkLost_keeps | apply keeps_foldl
    | apply keepsOut_ite | apply keeps_ite | apply_assumption | dsimp only | split | intro _ _ _ | intro _ _
    | exact Nat.le_max_left _ _ | exact Nat.le_add_right _ _ | exact Nat.le_refl _)

theorem execIslandPowerOn_keeps {a s : State} {x0} (h : State.Keeps a s) : KeepsOut a (execIslandPowerOn x0 s) := by
  unfold execIslandPowerOn
  with_reducible repeat' (first
    | apply keeps_next | exact keeps_fault _ | exact h | assumption | apply State.coldBase_keeps
    | apply State.bootComp_keeps | apply State.withBoard_keeps | apply State.coldRun_keeps | apply keeps_foldl
    | exact fun x => x | exact fun x => by simp_all | exact fun _ => Nat.zero_le _ | exact fun _ => Nat.le_refl _
    | exact fun _ => Nat.le_succ _ | exact fun x => SMap.mapF_wf _ _ x | exact fun x => SMap.keep_wf _ _ x
    | apply keepsOut_ite | apply keeps_ite | apply_assumption | dsimp only | split | intro _ _ _ | intro _ _
    | exact Nat.le_max_left _ _ | exact Nat.le_add_right _ _ | exact Nat.le_refl _)

end Sys2Proof.Machine
end

