-- ==== Sys2Proof/Laws/KeepsGranaryOps.lean ====
section
/-! SUPPORT. State.Keeps over the definitions of Machine/GranaryOps.lean. -/

namespace Sys2Proof.Machine

theorem execGranaryCommandStart_keeps {a s : State} {x0 x1} (h : State.Keeps a s) :
    KeepsOut a (execGranaryCommandStart x0 x1 s) := by
  unfold execGranaryCommandStart
  with_reducible repeat' (first
    | apply keeps_next | exact keeps_fault _ | exact h | assumption | apply State.pairFault_keeps
    | apply State.setPair_keeps | apply State.wakeStacks_keeps | apply State.wakeSpans_keeps
    | apply State.takeParked_keeps | apply keeps_foldl | apply keepsOut_ite | apply keeps_ite | apply_assumption
    | dsimp only | split | intro _ _ _ | intro _ _ | exact Nat.le_max_left _ _ | exact Nat.le_add_right _ _
    | exact Nat.le_refl _)

theorem State.readFrames_keeps {a s : State} {x0} (h : State.Keeps a s) : State.Keeps a (State.readFrames s x0) := by
  unfold State.readFrames
  with_reducible repeat' (first
    | exact h | assumption | apply State.withLoader_keeps | apply keeps_foldl | apply keeps_ite | apply_assumption
    | dsimp only | split | intro _ _ _ | intro _ _ | exact Nat.le_max_left _ _ | exact Nat.le_add_right _ _
    | exact Nat.le_refl _)

theorem State.gatherRun_keeps {a s : State} {x0 x1} (h : State.Keeps a s) :
    State.Keeps a (State.gatherRun s x0 x1) := by
  unfold State.gatherRun
  with_reducible repeat' (first
    | exact h | assumption | apply State.granRun_keeps | apply State.readFrames_keeps | apply keeps_foldl
    | apply keeps_ite | apply_assumption | dsimp only | split | intro _ _ _ | intro _ _ | exact Nat.le_max_left _ _
    | exact Nat.le_add_right _ _ | exact Nat.le_refl _)

theorem execRedOut_keeps {a s : State} {x0 x1} (h : State.Keeps a s) : KeepsOut a (execRedOut x0 x1 s) := by
  unfold execRedOut
  with_reducible repeat' (first
    | apply keeps_next | exact keeps_fault _ | exact h | assumption | apply State.granRun_keeps | apply keeps_foldl
    | apply keepsOut_ite | apply keeps_ite | apply_assumption | dsimp only | split | intro _ _ _ | intro _ _
    | exact Nat.le_max_left _ _ | exact Nat.le_add_right _ _ | exact Nat.le_refl _)

theorem execCrc_keeps {a s : State} {x0 x1} (h : State.Keeps a s) : KeepsOut a (execCrc x0 x1 s) := by
  unfold execCrc
  with_reducible repeat' (first
    | apply keeps_next | exact keeps_fault _ | exact h | assumption | apply State.granRun_keeps | apply keeps_foldl
    | apply keepsOut_ite | apply keeps_ite | apply_assumption | dsimp only | split | intro _ _ _ | intro _ _
    | exact Nat.le_max_left _ _ | exact Nat.le_add_right _ _ | exact Nat.le_refl _)

theorem State.patrol_keeps {a s : State} {x0} (h : State.Keeps a s) : State.Keeps a (State.patrol s x0) := by
  unfold State.patrol
  with_reducible repeat' (first
    | exact h | assumption | apply wake_keeps | apply State.setStack_keeps | apply State.healSector_keeps
    | apply ueEvents_keeps | apply ceEvents_keeps | apply State.event_keeps | apply State.bump_keeps
    | apply keeps_foldl | apply keeps_ite | apply_assumption | dsimp only | split | intro _ _ _ | intro _ _
    | exact Nat.le_max_left _ _ | exact Nat.le_add_right _ _ | exact Nat.le_refl _)

theorem State.scrubRange_keeps {a s : State} {x0 x1 x2} (h : State.Keeps a s) :
    State.Keeps a (State.scrubRange s x0 x1 x2) := by
  unfold State.scrubRange
  with_reducible repeat' (first
    | exact h | assumption | apply State.healSector_keeps | apply ueEvents_keeps | apply ceEvents_keeps
    | apply keeps_foldl | apply keeps_ite | apply_assumption | dsimp only | split | intro _ _ _ | intro _ _
    | exact Nat.le_max_left _ _ | exact Nat.le_add_right _ _ | exact Nat.le_refl _)

theorem execScrub_keeps {a s : State} {x0 x1} (h : State.Keeps a s) : KeepsOut a (execScrub x0 x1 s) := by
  unfold execScrub
  with_reducible repeat' (first
    | apply keeps_next | exact keeps_fault _ | exact h | assumption | apply State.setRunning_keeps
    | apply State.patrol_keeps | apply State.scrubRange_keeps | apply State.wakeStacks_keeps | apply keeps_foldl
    | apply keepsOut_ite | apply keeps_ite | apply_assumption | dsimp only | split | intro _ _ _ | intro _ _
    | exact Nat.le_max_left _ _ | exact Nat.le_add_right _ _ | exact Nat.le_refl _)

theorem execRedEmax_keeps {a s : State} {x0 x1} (h : State.Keeps a s) : KeepsOut a (execRedEmax x0 x1 s) := by
  unfold execRedEmax
  with_reducible repeat' (first
    | apply keeps_next | exact keeps_fault _ | exact h | assumption | apply State.granRun_keeps | apply keeps_foldl
    | apply keepsOut_ite | apply keeps_ite | apply_assumption | dsimp only | split | intro _ _ _ | intro _ _
    | exact Nat.le_max_left _ _ | exact Nat.le_add_right _ _ | exact Nat.le_refl _)

theorem execRedExp_keeps {a s : State} {x0 x1} (h : State.Keeps a s) : KeepsOut a (execRedExp x0 x1 s) := by
  unfold execRedExp
  with_reducible repeat' (first
    | apply keeps_next | exact keeps_fault _ | exact h | assumption | apply State.granRun_keeps | apply keeps_foldl
    | apply keepsOut_ite | apply keeps_ite | apply_assumption | dsimp only | split | intro _ _ _ | intro _ _
    | exact Nat.le_max_left _ _ | exact Nat.le_add_right _ _ | exact Nat.le_refl _)

theorem execRedCheck_keeps {a s : State} {x0 x1} (h : State.Keeps a s) : KeepsOut a (execRedCheck x0 x1 s) := by
  unfold execRedCheck
  with_reducible repeat' (first
    | apply keeps_next | exact keeps_fault _ | exact h | assumption | apply State.granRun_keeps | apply keeps_foldl
    | apply keepsOut_ite | apply keeps_ite | apply_assumption | dsimp only | split | intro _ _ _ | intro _ _
    | exact Nat.le_max_left _ _ | exact Nat.le_add_right _ _ | exact Nat.le_refl _)

theorem execGather_keeps {a s : State} {x0 x1} (h : State.Keeps a s) : KeepsOut a (execGather x0 x1 s) := by
  unfold execGather
  with_reducible repeat' (first
    | apply keeps_next | exact keeps_fault _ | exact h | assumption | apply State.gatherRun_keeps | apply keeps_foldl
    | apply keepsOut_ite | apply keeps_ite | apply_assumption | dsimp only | split | intro _ _ _ | intro _ _
    | exact Nat.le_max_left _ _ | exact Nat.le_add_right _ _ | exact Nat.le_refl _)

theorem execTreeAdd_keeps {a s : State} {x0 x1} (h : State.Keeps a s) : KeepsOut a (execTreeAdd x0 x1 s) := by
  unfold execTreeAdd
  with_reducible repeat' (first
    | apply keeps_next | exact keeps_fault _ | exact h | assumption | apply State.granRun_keeps | apply keeps_foldl
    | apply keepsOut_ite | apply keeps_ite | apply_assumption | dsimp only | split | intro _ _ _ | intro _ _
    | exact Nat.le_max_left _ _ | exact Nat.le_add_right _ _ | exact Nat.le_refl _)

theorem execRedFix_keeps {a s : State} {x0 x1} (h : State.Keeps a s) : KeepsOut a (execRedFix x0 x1 s) := by
  unfold execRedFix
  with_reducible repeat' (first
    | apply keeps_next | exact keeps_fault _ | exact h | assumption | apply State.granRun_keeps | apply keeps_foldl
    | apply keepsOut_ite | apply keeps_ite | apply_assumption | dsimp only | split | intro _ _ _ | intro _ _
    | exact Nat.le_max_left _ _ | exact Nat.le_add_right _ _ | exact Nat.le_refl _)

theorem execRedAdd_keeps {a s : State} {x0 x1} (h : State.Keeps a s) : KeepsOut a (execRedAdd x0 x1 s) := by
  unfold execRedAdd
  with_reducible repeat' (first
    | apply keeps_next | exact keeps_fault _ | exact h | assumption | apply State.granRun_keeps | apply keeps_foldl
    | apply keepsOut_ite | apply keeps_ite | apply_assumption | dsimp only | split | intro _ _ _ | intro _ _
    | exact Nat.le_max_left _ _ | exact Nat.le_add_right _ _ | exact Nat.le_refl _)

theorem execOptAdamw_keeps {a s : State} {x0 x1} (h : State.Keeps a s) : KeepsOut a (execOptAdamw x0 x1 s) := by
  unfold execOptAdamw
  with_reducible repeat' (first
    | apply keeps_next | exact keeps_fault _ | exact h | assumption | apply State.granRun_keeps | apply keeps_foldl
    | apply keepsOut_ite | apply keeps_ite | apply_assumption | dsimp only | split | intro _ _ _ | intro _ _
    | exact Nat.le_max_left _ _ | exact Nat.le_add_right _ _ | exact Nat.le_refl _)

end Sys2Proof.Machine
end

