-- ==== Sys2Proof/Laws/KeepsMemory.lean ====
section
/-! SUPPORT. State.Keeps over the definitions of Machine/Memory.lean. -/

namespace Sys2Proof.Machine

theorem execPatrolScrub_keeps {a s : State} {x0} (h : State.Keeps a s) : KeepsOut a (execPatrolScrub x0 s) := by
  unfold execPatrolScrub
  with_reducible repeat' (first
    | apply keeps_next | exact keeps_fault _ | exact h | assumption | apply State.setPair_keeps | apply keeps_foldl
    | apply keepsOut_ite | apply keeps_ite | apply_assumption | dsimp only | split | intro _ _ _ | intro _ _
    | exact Nat.le_max_left _ _ | exact Nat.le_add_right _ _ | exact Nat.le_refl _)

theorem State.fieldMiss_keeps {a s : State} {x0} (h : State.Keeps a s) : State.Keeps a (State.fieldMiss s x0) := by
  unfold State.fieldMiss
  with_reducible repeat' (first
    | exact h | assumption | apply State.bumpSat_keeps | apply keeps_foldl | apply keeps_ite | apply_assumption
    | dsimp only | split | intro _ _ _ | intro _ _ | exact Nat.le_max_left _ _ | exact Nat.le_add_right _ _
    | exact Nat.le_refl _)

theorem State.hostRead_keeps {a s : State} {x0 x1 x2} (h : State.Keeps a s) :
    State.Keeps a (State.hostRead s x0 x1 x2).2 := State.eccRead_keeps
  (State.withFreeCount_keeps (State.wakeSpans_keeps h) (by split; exact Nat.le_refl _; exact Nat.le_succ _)) (hx0 := fun _ _ k => k)

theorem State.hostWrite_keeps {a s : State} {x0 x1 x2} (h : State.Keeps a s) :
    State.Keeps a (State.hostWrite s x0 x1 x2) := by
  unfold State.hostWrite
  with_reducible repeat' (first
    | exact h | assumption | apply State.storeAll_keeps | apply State.wakeSpans_keeps | apply keeps_foldl
    | apply keeps_ite | apply_assumption | dsimp only | split | intro _ _ _ | intro _ _ | exact Nat.le_max_left _ _
    | exact Nat.le_add_right _ _ | exact Nat.le_refl _)

theorem State.dmaMove_keeps {a s : State} {x0 x1 x2} (h : State.Keeps a s) :
    ∀ x y t, State.dmaMove s x0 x1 x2 = (x, y, t) → State.Keeps a t := by
  intro x y t e
  have : t = (s.dmaMove x0 x1 x2).2.2 := by rw [e]
  subst this
  unfold State.dmaMove
  with_reducible repeat' (first
    | assumption | apply State.withOut_keeps | apply State.hostRead_keeps | apply State.hostWrite_keeps
    | apply State.fieldMiss_keeps | dsimp only | split)

theorem State.marginStart_keeps {a s : State} {x0} (h : State.Keeps a s) : State.Keeps a (State.marginStart s x0) := by
  unfold State.marginStart
  with_reducible repeat' (first
    | exact h | assumption | apply State.setStack_keeps | apply State.setReg_keeps | apply State.setFld_keeps
    | apply keeps_foldl | apply keeps_ite | apply_assumption | dsimp only | split | intro _ _ _ | intro _ _
    | exact Nat.le_max_left _ _ | exact Nat.le_add_right _ _ | exact Nat.le_refl _)

theorem State.dmaDoorbell_keeps {a s : State} {x0 x1 x2} (h : State.Keeps a s) :
    State.Keeps a (State.dmaDoorbell s x0 x1 x2) := by
  unfold State.dmaDoorbell
  with_reducible repeat' (first
    | exact h | assumption | apply State.setFld_keeps | apply keeps_foldl | apply keeps_ite | apply_assumption
    | dsimp only | split | intro _ _ _ | intro _ _ | exact Nat.le_max_left _ _ | exact Nat.le_add_right _ _
    | exact Nat.le_refl _)

theorem State.dmaChanged_keeps {a s : State} {x0 x1 x2} (h : State.Keeps a s) :
    State.Keeps a (State.dmaChanged s x0 x1 x2) := by
  unfold State.dmaChanged
  with_reducible repeat' (first
    | exact h | assumption | apply State.withDmaLost_keeps | apply State.setFld_keeps | apply keeps_foldl
    | apply keeps_ite | apply_assumption | dsimp only | split | intro _ _ _ | intro _ _ | exact Nat.le_max_left _ _
    | exact Nat.le_add_right _ _ | exact Nat.le_refl _)

theorem State.fieldCmd_keeps {a s : State} {x0 x1} (h : State.Keeps a s) : State.Keeps a (State.fieldCmd s x0 x1) := by
  unfold State.fieldCmd
  with_reducible repeat' (first
    | exact h | assumption | apply State.setFld_keeps | apply State.withFieldReqs_keeps | apply keeps_foldl
    | apply keeps_ite | apply_assumption | dsimp only | split | intro _ _ _ | intro _ _ | exact Nat.le_max_left _ _
    | exact Nat.le_add_right _ _ | exact Nat.le_refl _)

theorem State.setDma_keeps {a s : State} {x0 x1 x2} (h : State.Keeps a s) :
    State.Keeps a (State.setDma s x0 x1 x2) := by
  unfold State.setDma
  with_reducible repeat' (first
    | exact h | assumption | apply State.withDma_keeps | apply keeps_foldl | apply keeps_ite | apply_assumption
    | dsimp only | split | intro _ _ _ | intro _ _ | exact Nat.le_max_left _ _ | exact Nat.le_add_right _ _
    | exact Nat.le_refl _)

theorem execDmaComplete_keeps {a s : State} {x0 x1} (h : State.Keeps a s) : KeepsOut a (execDmaComplete x0 x1 s) := by
  unfold execDmaComplete
  with_reducible repeat' (first
    | apply keeps_next | exact keeps_fault _ | exact h | assumption | apply State.setDma_keeps
    | apply State.withOut_keeps | apply State.dropMsg_keeps | apply State.setFld_keeps | apply State.msix_keeps
    | apply State.event_keeps | apply keeps_foldl | apply keepsOut_ite | apply keeps_ite | apply_assumption
    | dsimp only | split | intro _ _ _ | intro _ _ | exact Nat.le_max_left _ _ | exact Nat.le_add_right _ _
    | exact Nat.le_refl _)

theorem execHbmMarginDone_keeps {a s : State} {x0} (h : State.Keeps a s) : KeepsOut a (execHbmMarginDone x0 s) := by
  unfold execHbmMarginDone
  with_reducible repeat' (first
    | apply keeps_next | exact keeps_fault _ | exact h | assumption
    | refine keeps_snd (by assumption) (State.openValue_keeps ?_) | apply State.openValue_keeps
    | apply State.setStack_keeps | apply State.withMargined_keeps | apply State.setFld_keeps | apply keeps_foldl
    | apply keepsOut_ite | apply keeps_ite | apply_assumption | dsimp only | split | intro _ _ _ | intro _ _
    | exact Nat.le_max_left _ _ | exact Nat.le_add_right _ _ | exact Nat.le_refl _)

theorem execBar2Write_keeps {a s : State} {x0 x1 x2} (h : State.Keeps a s) : KeepsOut a (execBar2Write x0 x1 x2 s) := by
  unfold execBar2Write
  with_reducible repeat' (first
    | apply keeps_next | exact keeps_fault _ | exact h | assumption | apply State.hostWrite_keeps
    | apply State.fieldMiss_keeps | apply keeps_foldl | apply keepsOut_ite | apply keeps_ite | apply_assumption
    | dsimp only | split | intro _ _ _ | intro _ _ | exact Nat.le_max_left _ _ | exact Nat.le_add_right _ _
    | exact Nat.le_refl _)

theorem State.repairRow_keeps {a s : State} {x0 x1 x2} (h : State.Keeps a s) :
    State.Keeps a (State.repairRow s x0 x1 x2) := by
  unfold State.repairRow
  with_reducible repeat' (first
    | exact h | assumption | apply State.scrubRange_keeps | apply wake_keeps | apply State.setStack_keeps
    | apply State.setSpare_keeps | apply State.ledgerAdd_keeps | apply State.event_keeps | apply State.bump_keeps
    | apply keeps_foldl | apply keeps_ite | apply_assumption | dsimp only | split | intro _ _ _ | intro _ _
    | exact Nat.le_max_left _ _ | exact Nat.le_add_right _ _ | exact Nat.le_refl _)

theorem execBar2Read_keeps {a s : State} {x0 x1 x2} (h : State.Keeps a s) : KeepsOut a (execBar2Read x0 x1 x2 s) := by
  unfold execBar2Read
  with_reducible repeat' (first
    | apply keeps_next | exact keeps_fault _ | exact h | assumption | apply State.respond_keeps
    | refine keeps_snd (by assumption) (State.hostRead_keeps ?_) | apply State.hostRead_keeps
    | apply State.fieldMiss_keeps | apply keeps_foldl | apply keepsOut_ite | apply keeps_ite | apply_assumption
    | dsimp only | split | intro _ _ _ | intro _ _ | exact Nat.le_max_left _ _ | exact Nat.le_add_right _ _
    | exact Nat.le_refl _)

theorem execFieldCmdComplete_keeps {a s : State} {x0} (h : State.Keeps a s) :
    KeepsOut a (execFieldCmdComplete x0 s) := by
  unfold execFieldCmdComplete
  with_reducible repeat' (first
    | apply keeps_next | exact keeps_fault _ | exact h | assumption | apply State.withFieldReqs_keeps
    | apply State.setFld_keeps | apply State.withFields_keeps | apply keeps_foldl | apply keepsOut_ite
    | apply keeps_ite | apply_assumption | dsimp only | split | intro _ _ _ | intro _ _ | exact Nat.le_max_left _ _
    | exact Nat.le_add_right _ _ | exact Nat.le_refl _)

theorem execSoftRepair_keeps {a s : State} {x0 x1 x2} (h : State.Keeps a s) :
    KeepsOut a (execSoftRepair x0 x1 x2 s) := by
  unfold execSoftRepair
  with_reducible repeat' (first
    | apply keeps_next | exact keeps_fault _ | exact h | assumption | apply State.repairExhausted_keeps
    | apply State.repairRow_keeps | apply keeps_foldl | apply keepsOut_ite | apply keeps_ite | apply_assumption
    | dsimp only | split | intro _ _ _ | intro _ _ | exact Nat.le_max_left _ _ | exact Nat.le_add_right _ _
    | exact Nat.le_refl _)

theorem execDmaDescriptor_keeps {a s : State} {x0 x1 x2 x3} (h : State.Keeps a s) :
    KeepsOut a (execDmaDescriptor x0 x1 x2 x3 s) := by
  unfold execDmaDescriptor
  with_reducible repeat' (first
    | apply keeps_next | exact keeps_fault _ | exact h | assumption
    | refine State.dmaMove_keeps ?_ _ _ _ (by assumption) | refine State.dmaMove_keeps ?_ _ _ _ rfl
    | apply State.setDma_keeps | apply keeps_foldl | apply keepsOut_ite | apply keeps_ite | apply_assumption
    | dsimp only | split | intro _ _ _ | intro _ _ | exact Nat.le_max_left _ _ | exact Nat.le_add_right _ _
    | exact Nat.le_refl _)

end Sys2Proof.Machine
end

