-- ==== Sys2Proof/Laws/KeepsMeridian.lean ====
section
/-! SUPPORT. State.Keeps over the definitions of Machine/Meridian.lean. -/

namespace Sys2Proof.Machine

theorem State.setMerState_keeps {a s : State} {x0} (h : State.Keeps a s) : State.Keeps a (State.setMerState s x0) := by
  unfold State.setMerState
  with_reducible repeat' (first
    | exact h | assumption | apply State.setFld_keeps | apply keeps_foldl | apply keeps_ite | apply_assumption
    | dsimp only | split | intro _ _ _ | intro _ _ | exact Nat.le_max_left _ _ | exact Nat.le_add_right _ _
    | exact Nat.le_refl _)

theorem State.merTransit_keeps {a s : State} {x0} (h : State.Keeps a s) : State.Keeps a (State.merTransit s x0) := by
  unfold State.merTransit
  with_reducible repeat' (first
    | exact h | assumption | apply State.withMer_keeps | apply keeps_foldl | apply keeps_ite | apply_assumption
    | dsimp only | split | intro _ _ _ | intro _ _ | exact Nat.le_max_left _ _ | exact Nat.le_add_right _ _
    | exact Nat.le_refl _)

theorem State.setSource_keeps {a s : State} {x0} (h : State.Keeps a s) : State.Keeps a (State.setSource s x0) := by
  unfold State.setSource
  with_reducible repeat' (first
    | exact h | assumption | apply State.setFld_keeps | apply State.merTransit_keeps | apply State.withMer_keeps
    | apply State.setMerState_keeps | apply keeps_foldl | apply keeps_ite | apply_assumption | dsimp only | split
    | intro _ _ _ | intro _ _ | exact Nat.le_max_left _ _ | exact Nat.le_add_right _ _ | exact Nat.le_refl _)

theorem State.newFormat_keeps {a s : State} {x0} (h : State.Keeps a s) : State.Keeps a (State.newFormat s x0) := by
  unfold State.newFormat
  with_reducible repeat' (first
    | exact h | assumption | apply State.setMerState_keeps | apply State.merTransit_keeps | apply State.withMer_keeps
    | apply State.event_keeps | apply keeps_foldl | apply keeps_ite | apply_assumption | dsimp only | split
    | intro _ _ _ | intro _ _ | exact Nat.le_max_left _ _ | exact Nat.le_add_right _ _ | exact Nat.le_refl _)

theorem State.setRate_keeps {a s : State} {x0 x1} (h : State.Keeps a s) : State.Keeps a (State.setRate s x0 x1) := by
  unfold State.setRate
  with_reducible repeat' (first
    | exact h | assumption | apply State.newFormat_keeps | apply State.setFld_keeps | apply keeps_foldl
    | apply keeps_ite | apply_assumption | dsimp only | split | intro _ _ _ | intro _ _ | exact Nat.le_max_left _ _
    | exact Nat.le_add_right _ _ | exact Nat.le_refl _)

theorem State.setLines_keeps {a s : State} {x0} (h : State.Keeps a s) : State.Keeps a (State.setLines s x0) := by
  unfold State.setLines
  with_reducible repeat' (first
    | exact h | assumption | apply State.newFormat_keeps | apply State.setFld_keeps | apply keeps_foldl
    | apply keeps_ite | apply_assumption | dsimp only | split | intro _ _ _ | intro _ _ | exact Nat.le_max_left _ _
    | exact Nat.le_add_right _ _ | exact Nat.le_refl _)

theorem State.armFrame_keeps {a s : State} (h : State.Keeps a s) : State.Keeps a (State.armFrame s) := by
  unfold State.armFrame
  with_reducible repeat' (first
    | exact h | assumption | apply State.withMer_keeps | apply keeps_foldl | apply keeps_ite | apply_assumption
    | dsimp only | split | intro _ _ _ | intro _ _ | exact Nat.le_max_left _ _ | exact Nat.le_add_right _ _
    | exact Nat.le_refl _)

theorem State.setTransit_keeps {a s : State} (h : State.Keeps a s) : State.Keeps a (State.setTransit s) := by
  unfold State.setTransit
  with_reducible repeat' (first
    | exact h | assumption | apply State.merTransit_keeps | apply keeps_foldl | apply keeps_ite | apply_assumption
    | dsimp only | split | intro _ _ _ | intro _ _ | exact Nat.le_max_left _ _ | exact Nat.le_add_right _ _
    | exact Nat.le_refl _)

theorem State.merLost_keeps {a s : State} {x0} (h : State.Keeps a s) : State.Keeps a (State.merLost s x0) := by
  unfold State.merLost
  with_reducible repeat' (first
    | exact h | assumption | apply State.setMerState_keeps | apply State.fault_keeps | apply State.merRebase_keeps
    | apply State.withMer_keeps | apply withdrawJobs_keeps | apply keeps_foldl | apply keeps_ite | apply_assumption
    | dsimp only | split | intro _ _ _ | intro _ _ | exact Nat.le_max_left _ _ | exact Nat.le_add_right _ _
    | exact Nat.le_refl _)

theorem State.loseReference_keeps {a s : State} (h : State.Keeps a s) : State.Keeps a (State.loseReference s) := by
  unfold State.loseReference
  with_reducible repeat' (first
    | exact h | assumption | apply State.event_keeps | apply State.merRebase_keeps | apply State.setMerState_keeps
    | apply State.withMer_keeps | apply State.merLost_keeps | apply keeps_foldl | apply keeps_ite | apply_assumption
    | dsimp only | split | intro _ _ _ | intro _ _ | exact Nat.le_max_left _ _ | exact Nat.le_add_right _ _
    | exact Nat.le_refl _)

theorem State.domainSet_keeps {a s : State} (h : State.Keeps a s) : State.Keeps a (State.domainSet s) := by
  unfold State.domainSet
  with_reducible repeat' (first
    | exact h | assumption | apply State.loseReference_keeps | apply keeps_foldl | apply keeps_ite | apply_assumption
    | dsimp only | split | intro _ _ _ | intro _ _ | exact Nat.le_max_left _ _ | exact Nat.le_add_right _ _
    | exact Nat.le_refl _)

theorem execAnnounce_keeps {a s : State} {x0} (h : State.Keeps a s) : KeepsOut a (execAnnounce x0 s) := by
  unfold execAnnounce
  with_reducible repeat' (first
    | apply keeps_next | exact keeps_fault _ | exact h | assumption | apply State.withMer_keeps | apply keeps_foldl
    | apply keepsOut_ite | apply keeps_ite | apply_assumption | dsimp only | split | intro _ _ _ | intro _ _
    | exact Nat.le_max_left _ _ | exact Nat.le_add_right _ _ | exact Nat.le_refl _)

theorem State.sendDelayReq_keeps {a s : State} {x0 x1} (h : State.Keeps a s) :
    State.Keeps a (State.sendDelayReq s x0 x1) := by
  unfold State.sendDelayReq
  with_reducible repeat' (first
    | exact h | assumption | apply State.withMer_keeps | apply State.withOut_keeps | apply keeps_foldl
    | apply keeps_ite | apply_assumption | dsimp only | split | intro _ _ _ | intro _ _ | exact Nat.le_max_left _ _
    | exact Nat.le_add_right _ _ | exact Nat.le_refl _)

theorem State.merReturn_keeps {a s : State} (h : State.Keeps a s) : State.Keeps a (State.merReturn s) := by
  unfold State.merReturn
  with_reducible repeat' (first
    | exact h | assumption | apply State.merRebase_keeps | apply State.withMer_keeps | apply State.setMerState_keeps
    | apply keeps_foldl | apply keeps_ite | apply_assumption | dsimp only | split | intro _ _ _ | intro _ _
    | exact Nat.le_max_left _ _ | exact Nat.le_add_right _ _ | exact Nat.le_refl _)

theorem State.measureFreq_keeps {a s : State} {x0 x1} (h : State.Keeps a s) :
    State.Keeps a (State.measureFreq s x0 x1) := by
  unfold State.measureFreq
  with_reducible repeat' (first
    | exact h | assumption | apply State.withMer_keeps | apply keeps_foldl | apply keeps_ite | apply_assumption
    | dsimp only | split | intro _ _ _ | intro _ _ | exact Nat.le_max_left _ _ | exact Nat.le_add_right _ _
    | exact Nat.le_refl _)

theorem State.correct_keeps {a s : State} {x0 x1 x2 x3} (h : State.Keeps a s) :
    State.Keeps a (State.correct s x0 x1 x2 x3) := by
  unfold State.correct
  with_reducible repeat' (first
    | exact h | assumption | apply State.setFld_keeps | apply State.event_keeps | apply State.withMer_keeps
    | apply keeps_foldl | apply keeps_ite | apply_assumption | dsimp only | split | intro _ _ _ | intro _ _
    | exact Nat.le_max_left _ _ | exact Nat.le_add_right _ _ | exact Nat.le_refl _)

theorem State.countLock_keeps {a s : State} {x0 x1} (h : State.Keeps a s) :
    State.Keeps a (State.countLock s x0 x1) := by
  unfold State.countLock
  with_reducible repeat' (first
    | exact h | assumption | apply State.withMer_keeps | apply State.event_keeps | apply State.setMerState_keeps
    | apply keeps_foldl | apply keeps_ite | apply_assumption | dsimp only | split | intro _ _ _ | intro _ _
    | exact Nat.le_max_left _ _ | exact Nat.le_add_right _ _ | exact Nat.le_refl _)

theorem State.ptpMeasure_keeps {a s : State} {x0 x1} (h : State.Keeps a s) :
    State.Keeps a (State.ptpMeasure s x0 x1) := by
  unfold State.ptpMeasure
  with_reducible repeat' (first
    | exact h | assumption | apply State.merReturn_keeps | apply State.measureFreq_keeps | apply State.correct_keeps
    | apply State.countLock_keeps | apply keeps_foldl | apply keeps_ite | apply_assumption | dsimp only | split
    | intro _ _ _ | intro _ _ | exact Nat.le_max_left _ _ | exact Nat.le_add_right _ _ | exact Nat.le_refl _)

theorem execPtpSync_keeps {a s : State} {x0} (h : State.Keeps a s) : KeepsOut a (execPtpSync x0 s) := by
  unfold execPtpSync
  with_reducible repeat' (first
    | apply keeps_next | exact keeps_fault _ | exact h | assumption | apply State.withMer_keeps
    | apply State.sendDelayReq_keeps | apply State.ptpMeasure_keeps | apply keeps_foldl | apply keepsOut_ite
    | apply keeps_ite | apply_assumption | dsimp only | split | intro _ _ _ | intro _ _ | exact Nat.le_max_left _ _
    | exact Nat.le_add_right _ _ | exact Nat.le_refl _)

theorem State.losePulse_keeps {a s : State} (h : State.Keeps a s) : State.Keeps a (State.losePulse s) := by
  unfold State.losePulse
  with_reducible repeat' (first
    | exact h | assumption | apply State.loseReference_keeps | apply State.withMer_keeps | apply keeps_foldl
    | apply keeps_ite | apply_assumption | dsimp only | split | intro _ _ _ | intro _ _ | exact Nat.le_max_left _ _
    | exact Nat.le_add_right _ _ | exact Nat.le_refl _)

theorem execFrameRefMissing_keeps {a s : State} (h : State.Keeps a s) : KeepsOut a (execFrameRefMissing s) := by
  unfold execFrameRefMissing
  with_reducible repeat' (first
    | apply keeps_next | exact keeps_fault _ | exact h | assumption | apply State.losePulse_keeps
    | apply State.passTo_keeps | apply keeps_foldl | apply keepsOut_ite | apply keeps_ite | apply_assumption
    | dsimp only | split | intro _ _ _ | intro _ _ | exact Nat.le_max_left _ _ | exact Nat.le_add_right _ _
    | exact Nat.le_refl _)

theorem execHoldoverLimit_keeps {a s : State} (h : State.Keeps a s) : KeepsOut a (execHoldoverLimit s) := by
  unfold execHoldoverLimit
  with_reducible repeat' (first
    | apply keeps_next | exact keeps_fault _ | exact h | assumption | apply State.merLost_keeps
    | apply State.passTo_keeps | apply keeps_foldl | apply keepsOut_ite | apply keeps_ite | apply_assumption
    | dsimp only | split | intro _ _ _ | intro _ _ | exact Nat.le_max_left _ _ | exact Nat.le_add_right _ _
    | exact Nat.le_refl _)

theorem State.countEdge_keeps {a s : State} {x0} (h : State.Keeps a s) : State.Keeps a (State.countEdge s x0) := by
  unfold State.countEdge
  with_reducible repeat' (first
    | exact h | assumption | apply State.correct_keeps | apply State.withMer_keeps | apply State.countLock_keeps
    | apply keeps_foldl | apply keeps_ite | apply_assumption | dsimp only | split | intro _ _ _ | intro _ _
    | exact Nat.le_max_left _ _ | exact Nat.le_add_right _ _ | exact Nat.le_refl _)

theorem execFrameRefEdge_keeps {a s : State} (h : State.Keeps a s) : KeepsOut a (execFrameRefEdge s) := by
  unfold execFrameRefEdge
  with_reducible repeat' (first
    | apply keeps_next | exact keeps_fault _ | exact h | assumption | apply State.merReturn_keeps
    | apply State.losePulse_keeps | apply State.event_keeps | apply State.merRebase_keeps | apply State.withMer_keeps
    | apply State.countEdge_keeps | apply keeps_foldl | apply keepsOut_ite | apply keeps_ite | apply_assumption
    | dsimp only | split | intro _ _ _ | intro _ _ | exact Nat.le_max_left _ _ | exact Nat.le_add_right _ _
    | exact Nat.le_refl _)

theorem execAnnounceTimeout_keeps {a s : State} (h : State.Keeps a s) : KeepsOut a (execAnnounceTimeout s) := by
  unfold execAnnounceTimeout
  with_reducible repeat' (first
    | apply keeps_next | exact keeps_fault _ | exact h | assumption | apply State.loseReference_keeps
    | apply State.withMer_keeps | apply keeps_foldl | apply keepsOut_ite | apply keeps_ite | apply_assumption
    | dsimp only | split | intro _ _ _ | intro _ _ | exact Nat.le_max_left _ _ | exact Nat.le_add_right _ _
    | exact Nat.le_refl _)

theorem execFollowUp_keeps {a s : State} {x0 x1} (h : State.Keeps a s) : KeepsOut a (execFollowUp x0 x1 s) := by
  unfold execFollowUp
  with_reducible repeat' (first
    | apply keeps_next | exact keeps_fault _ | exact h | assumption | apply State.withMer_keeps
    | apply State.sendDelayReq_keeps | apply State.ptpMeasure_keeps | apply keeps_foldl | apply keepsOut_ite
    | apply keeps_ite | apply_assumption | dsimp only | split | intro _ _ _ | intro _ _ | exact Nat.le_max_left _ _
    | exact Nat.le_add_right _ _ | exact Nat.le_refl _)

theorem execPtpArp_keeps {a s : State} {x0} (h : State.Keeps a s) : KeepsOut a (execPtpArp x0 s) := by
  unfold execPtpArp
  with_reducible repeat' (first
    | apply keeps_next | exact keeps_fault _ | exact h | assumption | apply State.withOut_keeps | apply keeps_foldl
    | apply keepsOut_ite | apply keeps_ite | apply_assumption | dsimp only | split | intro _ _ _ | intro _ _
    | exact Nat.le_max_left _ _ | exact Nat.le_add_right _ _ | exact Nat.le_refl _)

theorem execDelayResponse_keeps {a s : State} {x0 x1} (h : State.Keeps a s) :
    KeepsOut a (execDelayResponse x0 x1 s) := by
  unfold execDelayResponse
  with_reducible repeat' (first
    | apply keeps_next | exact keeps_fault _ | exact h | assumption | apply State.withMer_keeps | apply keeps_foldl
    | apply keepsOut_ite | apply keeps_ite | apply_assumption | dsimp only | split | intro _ _ _ | intro _ _
    | exact Nat.le_max_left _ _ | exact Nat.le_add_right _ _ | exact Nat.le_refl _)

end Sys2Proof.Machine
end

