-- ==== Sys2Proof/Laws/KeepsPower.lean ====
section
/-! SUPPORT. State.Keeps over the definitions of Machine/Power.lean. -/

namespace Sys2Proof.Machine

theorem State.showClock_keeps {a s : State} (h : State.Keeps a s) : State.Keeps a (State.showClock s) := by
  unfold State.showClock
  with_reducible repeat' (first
    | exact h | assumption | apply State.setFld_keeps | apply keeps_foldl | apply keeps_ite | apply_assumption
    | dsimp only | split | intro _ _ _ | intro _ _ | exact Nat.le_max_left _ _ | exact Nat.le_add_right _ _
    | exact Nat.le_refl _)

theorem State.dropCap_keeps {a s : State} {x0} (h : State.Keeps a s) : State.Keeps a (State.dropCap s x0) := by
  unfold State.dropCap
  with_reducible repeat' (first
    | exact h | assumption | apply State.showClock_keeps | apply State.withPower_keeps | apply keeps_foldl
    | apply keeps_ite | apply_assumption | dsimp only | split | intro _ _ _ | intro _ _ | exact Nat.le_max_left _ _
    | exact Nat.le_add_right _ _ | exact Nat.le_refl _)

theorem State.merWake_keeps {a s : State} (h : State.Keeps a s) : State.Keeps a (State.merWake s) := by
  unfold State.merWake
  with_reducible repeat' (first
    | exact h | assumption | apply State.withMer_keeps | apply State.setMerState_keeps | apply keeps_foldl
    | apply keeps_ite | apply_assumption | dsimp only | split | intro _ _ _ | intro _ _ | exact Nat.le_max_left _ _
    | exact Nat.le_add_right _ _ | exact Nat.le_refl _)

theorem setRefresh_keeps {a s : State} {x0 x1} (h : State.Keeps a s) : State.Keeps a (setRefresh x0 x1 s) := by
  fun_induction setRefresh x0 x1 s
  with_reducible repeat' (first
    | exact h | assumption | apply State.setFld_keeps | apply keeps_foldl | apply keeps_ite | apply_assumption
    | dsimp only | split | intro _ _ _ | intro _ _ | exact Nat.le_max_left _ _ | exact Nat.le_add_right _ _
    | exact Nat.le_refl _)

theorem execSelfRefreshEntry_keeps {a s : State} {x0} (h : State.Keeps a s) :
    KeepsOut a (execSelfRefreshEntry x0 s) := by
  unfold execSelfRefreshEntry
  with_reducible repeat' (first
    | apply keeps_next | exact keeps_fault _ | exact h | assumption | apply setRefresh_keeps | apply keeps_foldl
    | apply keepsOut_ite | apply keeps_ite | apply_assumption | dsimp only | split | intro _ _ _ | intro _ _
    | exact Nat.le_max_left _ _ | exact Nat.le_add_right _ _ | exact Nat.le_refl _)

theorem State.requestNight_keeps {a s : State} (h : State.Keeps a s) : State.Keeps a (State.requestNight s) := by
  unfold State.requestNight
  with_reducible repeat' (first
    | exact h | assumption | apply State.withBoard_keeps | apply State.setFld_keeps | apply keeps_foldl
    | exact fun x => x | exact fun x => by simp_all | exact fun _ => Nat.zero_le _ | exact fun _ => Nat.le_refl _
    | exact fun _ => Nat.le_succ _ | apply keeps_ite | apply_assumption | dsimp only | split | intro _ _ _ | intro _ _
    | exact Nat.le_max_left _ _ | exact Nat.le_add_right _ _ | exact Nat.le_refl _)

theorem State.lowerAclk_keeps {a s : State} {x0 x1 x2} (h : State.Keeps a s) :
    State.Keeps a (State.lowerAclk s x0 x1 x2) := by
  unfold State.lowerAclk
  with_reducible repeat' (first
    | exact h | assumption | apply State.setFld_keeps | apply State.triggerRetest_keeps | apply State.withPower_keeps
    | apply keeps_foldl | apply keeps_ite | apply_assumption | dsimp only | split | intro _ _ _ | intro _ _
    | exact Nat.le_max_left _ _ | exact Nat.le_add_right _ _ | exact Nat.le_refl _)

theorem setWindows_keeps {a s : State} {x0 x1} (h : State.Keeps a s) : State.Keeps a (setWindows x0 x1 s) := by
  fun_induction setWindows x0 x1 s
  with_reducible repeat' (first
    | exact h | assumption | apply State.setFld_keeps | apply keeps_foldl | apply keeps_ite | apply_assumption
    | dsimp only | split | intro _ _ _ | intro _ _ | exact Nat.le_max_left _ _ | exact Nat.le_add_right _ _
    | exact Nat.le_refl _)

theorem State.setClock_keeps {a s : State} {x0 x1} (h : State.Keeps a s) : State.Keeps a (State.setClock s x0 x1) := by
  unfold State.setClock
  with_reducible repeat' (first
    | exact h | assumption | apply setWindows_keeps | apply State.setFld_keeps | apply keeps_foldl | apply keeps_ite
    | apply_assumption | dsimp only | split | intro _ _ _ | intro _ _ | exact Nat.le_max_left _ _
    | exact Nat.le_add_right _ _ | exact Nat.le_refl _)

theorem State.raiseAclk_keeps {a s : State} {x0 x1} (h : State.Keeps a s) :
    State.Keeps a (State.raiseAclk s x0 x1) := by
  unfold State.raiseAclk
  with_reducible repeat' (first
    | exact h | assumption | apply State.showClock_keeps | apply State.setClock_keeps | apply keeps_foldl
    | apply keeps_ite | apply_assumption | dsimp only | split | intro _ _ _ | intro _ _ | exact Nat.le_max_left _ _
    | exact Nat.le_add_right _ _ | exact Nat.le_refl _)

theorem State.capWrite_keeps {a s : State} {x0 x1} (h : State.Keeps a s) : State.Keeps a (State.capWrite s x0 x1) := by
  unfold State.capWrite
  exact keeps_ite (State.lowerAclk_keeps (State.withFreeCount_keeps (State.setFld_keeps h) (Nat.le_succ _)))
    (keeps_ite (State.raiseAclk_keeps (State.dropCap_keeps (State.withFreeCount_keeps (State.setFld_keeps h) (Nat.le_succ _))))
      (State.setFld_keeps h))

theorem State.dieStatus_keeps {a s : State} {x0 x1} (h : State.Keeps a s) :
    State.Keeps a (State.dieStatus s x0 x1) := by
  unfold State.dieStatus
  with_reducible repeat' (first
    | exact h | assumption | apply State.setFld_keeps | apply keeps_foldl | apply keeps_ite | apply_assumption
    | dsimp only | split | intro _ _ _ | intro _ _ | exact Nat.le_max_left _ _ | exact Nat.le_add_right _ _
    | exact Nat.le_refl _)

theorem State.dieCmd_keeps {a s : State} {x0 x1} (h : State.Keeps a s) : State.Keeps a (State.dieCmd s x0 x1) := by
  unfold State.dieCmd
  with_reducible repeat' (first
    | exact h | assumption | apply State.setFld_keeps | apply State.dieStatus_keeps | apply State.withPower_keeps
    | apply keeps_foldl | apply keeps_ite | apply_assumption | dsimp only | split | intro _ _ _ | intro _ _
    | exact Nat.le_max_left _ _ | exact Nat.le_add_right _ _ | exact Nat.le_refl _)

theorem execDuskEntry_keeps {a s : State} {x0} (h : State.Keeps a s) : KeepsOut a (execDuskEntry x0 s) := by
  unfold execDuskEntry
  with_reducible repeat' (first
    | apply keeps_next | exact keeps_fault _ | exact h | assumption | apply noteStates_keeps
    | apply State.withPower_keeps | apply keeps_foldl | apply keepsOut_ite | apply keeps_ite | apply_assumption
    | dsimp only | split | intro _ _ _ | intro _ _ | exact Nat.le_max_left _ _ | exact Nat.le_add_right _ _
    | exact Nat.le_refl _)

theorem State.protect_keeps {a s : State} {x0 x1 x2 x3} (h : State.Keeps a s) :
    State.Keeps a (State.protect s x0 x1 x2 x3) := by
  unfold State.protect
  with_reducible repeat' (first
    | exact h | assumption | apply State.handleFault_keeps | apply State.capture_keeps | apply State.event_keeps
    | apply State.bump_keeps | apply keeps_foldl | apply keeps_ite | apply_assumption | dsimp only | split
    | intro _ _ _ | intro _ _ | exact Nat.le_max_left _ _ | exact Nat.le_add_right _ _ | exact Nat.le_refl _)

theorem State.protectSquare_keeps {a s : State} {x0 x1 x2} (h : State.Keeps a s) :
    State.Keeps a (State.protectSquare s x0 x1 x2) := by
  unfold State.protectSquare
  with_reducible repeat' (first
    | exact h | assumption | apply State.capture_keeps | apply State.failSquare_keeps | apply State.event_keeps
    | apply State.bump_keeps | apply keeps_foldl | apply keeps_ite | apply_assumption | dsimp only | split
    | intro _ _ _ | intro _ _ | exact Nat.le_max_left _ _ | exact Nat.le_add_right _ _ | exact Nat.le_refl _)

theorem execThermalTrip_keeps {a s : State} {x0 x1} (h : State.Keeps a s) : KeepsOut a (execThermalTrip x0 x1 s) := by
  unfold execThermalTrip
  with_reducible repeat' (first
    | apply keeps_next | exact keeps_fault _ | exact h | assumption | apply State.alert_keeps
    | apply State.fence_keeps | apply State.protect_keeps | apply State.protectSquare_keeps | apply keeps_foldl
    | apply keepsOut_ite | apply keeps_ite | apply_assumption | dsimp only | split | intro _ _ _ | intro _ _
    | exact Nat.le_max_left _ _ | exact Nat.le_add_right _ _ | exact Nat.le_refl _)

theorem execSupplyDroop_keeps {a s : State} {x0} (h : State.Keeps a s) : KeepsOut a (execSupplyDroop x0 s) := by
  unfold execSupplyDroop
  with_reducible repeat' (first
    | apply keeps_next | exact keeps_fault _ | exact h | assumption | apply State.withBoard_keeps
    | apply State.fence_keeps | apply State.protect_keeps | apply State.protectSquare_keeps | apply keeps_foldl
    | exact fun x => x | exact fun x => by simp_all | exact fun _ => Nat.zero_le _ | exact fun _ => Nat.le_refl _
    | exact fun _ => Nat.le_succ _ | apply keepsOut_ite | apply keeps_ite | apply_assumption | dsimp only | split
    | intro _ _ _ | intro _ _ | exact Nat.le_max_left _ _ | exact Nat.le_add_right _ _ | exact Nat.le_refl _)

theorem allPortsDown_keeps {a s : State} {x0} (h : State.Keeps a s) : State.Keeps a (allPortsDown x0 s) := by
  fun_induction allPortsDown x0 s
  with_reducible repeat' (first
    | exact h | assumption | apply State.clearUnits_keeps | apply State.diePortsDown_keeps | apply keeps_foldl
    | apply keeps_ite | apply_assumption | dsimp only | split | intro _ _ _ | intro _ _ | exact Nat.le_max_left _ _
    | exact Nat.le_add_right _ _ | exact Nat.le_refl _)

theorem State.leaveNight_keeps {a s : State} (h : State.Keeps a s) : State.Keeps a (State.leaveNight s) := by
  unfold State.leaveNight
  with_reducible repeat' (first
    | exact h | assumption | apply State.clearGuards_keeps | apply State.clearRegs_keeps | apply setTrained_keeps
    | apply noteStates_keeps | apply State.withBoard_keeps | apply State.withPower_keeps
    | apply State.checkReady_keeps | apply State.merWake_keeps | apply State.setFld_keeps | apply keeps_foldl
    | exact fun x => x | exact fun x => by simp_all | exact fun _ => Nat.zero_le _ | exact fun _ => Nat.le_refl _
    | exact fun _ => Nat.le_succ _ | apply keeps_ite | apply_assumption | dsimp only | split | intro _ _ _ | intro _ _
    | exact Nat.le_max_left _ _ | exact Nat.le_add_right _ _ | exact Nat.le_refl _)

theorem execNwWakeTransit_keeps {a s : State} (h : State.Keeps a s) : KeepsOut a (execNwWakeTransit s) := by
  unfold execNwWakeTransit
  with_reducible repeat' (first
    | apply keeps_next | exact keeps_fault _ | exact h | assumption | apply State.leaveNight_keeps
    | apply State.advanceTo_keeps | apply keeps_foldl | apply keepsOut_ite | apply keeps_ite | apply_assumption
    | dsimp only | split | intro _ _ _ | intro _ _ | exact Nat.le_max_left _ _ | exact Nat.le_add_right _ _
    | exact Nat.le_refl _)

theorem execLimiterAclkRaise_keeps {a s : State} {x0 x1} (h : State.Keeps a s) :
    KeepsOut a (execLimiterAclkRaise x0 x1 s) := by
  unfold execLimiterAclkRaise
  with_reducible repeat' (first
    | apply keeps_next | exact keeps_fault _ | exact h | assumption | apply State.raiseAclk_keeps | apply keeps_foldl
    | apply keepsOut_ite | apply keeps_ite | apply_assumption | dsimp only | split | intro _ _ _ | intro _ _
    | exact Nat.le_max_left _ _ | exact Nat.le_add_right _ _ | exact Nat.le_refl _)

theorem execNightwatchEntry_keeps {a s : State} (h : State.Keeps a s) : KeepsOut a (execNightwatchEntry s) := by
  unfold execNightwatchEntry
  with_reducible repeat' (first
    | apply keeps_next | exact keeps_fault _ | exact h | assumption | apply State.linkLost_keeps
    | apply allPortsDown_keeps | apply setRefresh_keeps | apply State.merRebase_keeps | apply State.withFlight_keeps
    | apply State.withPairs_keeps | apply State.withBoard_keeps | apply keeps_foldl | exact fun x => x
    | exact fun x => by simp_all | exact fun _ => Nat.zero_le _ | exact fun _ => Nat.le_refl _
    | exact fun _ => Nat.le_succ _ | apply keepsOut_ite | apply keeps_ite | apply_assumption | dsimp only | split
    | intro _ _ _ | intro _ _ | exact Nat.le_max_left _ _ | exact Nat.le_add_right _ _ | exact Nat.le_refl _)

theorem execCapApply_keeps {a s : State} (h : State.Keeps a s) : KeepsOut a (execCapApply s) := by
  unfold execCapApply
  with_reducible repeat' (first
    | apply keeps_next | exact keeps_fault _ | exact h | assumption | apply State.setClock_keeps
    | apply State.withPower_keeps | apply State.event_keeps | apply State.bump_keeps | apply State.alert_keeps
    | apply keeps_foldl | apply keepsOut_ite | apply keeps_ite | apply_assumption | dsimp only | split | intro _ _ _
    | intro _ _ | exact Nat.le_max_left _ _ | exact Nat.le_add_right _ _ | exact Nat.le_refl _)

theorem execDaylight_keeps {a s : State} (h : State.Keeps a s) : KeepsOut a (execDaylight s) := by
  unfold execDaylight
  with_reducible repeat' (first
    | apply keeps_next | exact keeps_fault _ | exact h | assumption | apply State.dieStatus_keeps
    | apply State.withPower_keeps | apply noteStates_keeps | apply setRefresh_keeps | apply State.clearDie_keeps
    | apply State.triggerRetest_keeps | apply keeps_foldl | apply keepsOut_ite | apply keeps_ite | apply_assumption
    | dsimp only | split | intro _ _ _ | intro _ _ | exact Nat.le_max_left _ _ | exact Nat.le_add_right _ _
    | exact Nat.le_refl _)

theorem execLimiterAclkChange_keeps {a s : State} {x0 x1 x2} (h : State.Keeps a s) :
    KeepsOut a (execLimiterAclkChange x0 x1 x2 s) := by
  unfold execLimiterAclkChange
  with_reducible repeat' (first
    | apply keeps_next | exact keeps_fault _ | exact h | assumption | apply State.lowerAclk_keeps | apply keeps_foldl
    | apply keepsOut_ite | apply keeps_ite | apply_assumption | dsimp only | split | intro _ _ _ | intro _ _
    | exact Nat.le_max_left _ _ | exact Nat.le_add_right _ _ | exact Nat.le_refl _)

theorem execWakeN_keeps {a s : State} (h : State.Keeps a s) : KeepsOut a (execWakeN s) := by
  unfold execWakeN
  with_reducible repeat' (first
    | apply keeps_next | exact keeps_fault _ | exact h | assumption | apply State.leaveNight_keeps | apply keeps_foldl
    | apply keepsOut_ite | apply keeps_ite | apply_assumption | dsimp only | split | intro _ _ _ | intro _ _
    | exact Nat.le_max_left _ _ | exact Nat.le_add_right _ _ | exact Nat.le_refl _)

theorem State.enterTwilight_keeps {a s : State} {x0} (h : State.Keeps a s) :
    State.Keeps a (State.enterTwilight s x0) := by
  unfold State.enterTwilight
  with_reducible repeat' (first
    | exact h | assumption | apply State.evacuate_keeps | apply State.triggerRetest_keeps
    | apply State.clearUnits_keeps | apply State.diePortsDown_keeps | apply setRefresh_keeps | apply noteStates_keeps
    | apply State.withPower_keeps | apply keeps_foldl | apply keeps_ite | apply_assumption | dsimp only | split
    | intro _ _ _ | intro _ _ | exact Nat.le_max_left _ _ | exact Nat.le_add_right _ _ | exact Nat.le_refl _)

theorem execTwilight_keeps {a s : State} (h : State.Keeps a s) : KeepsOut a (execTwilight s) := by
  unfold execTwilight
  with_reducible repeat' (first
    | apply keeps_next | exact keeps_fault _ | exact h | assumption | apply State.dieStatus_keeps
    | apply State.withPower_keeps | apply State.enterTwilight_keeps | apply keeps_foldl | apply keepsOut_ite
    | apply keeps_ite | apply_assumption | dsimp only | split | intro _ _ _ | intro _ _ | exact Nat.le_max_left _ _
    | exact Nat.le_add_right _ _ | exact Nat.le_refl _)

end Sys2Proof.Machine
end

