-- ==== Sys2Proof/Laws/KeepsBus.lean ====
section
/-! SUPPORT. State.Keeps over the definitions of Machine/Bus.lean. -/

namespace Sys2Proof.Machine

theorem State.snapPage_keeps {a s : State} {x0 x1 x2} (h : State.Keeps a s) :
    State.Keeps a (State.snapPage s x0 x1 x2) := by
  unfold State.snapPage
  with_reducible repeat' (first
    | exact h | assumption | apply State.withSnaps_keeps | apply State.setReg_keeps | apply keeps_foldl
    | apply keeps_ite | apply_assumption | dsimp only | split | intro _ _ _ | intro _ _ | exact Nat.le_max_left _ _
    | exact Nat.le_add_right _ _ | exact Nat.le_refl _)

theorem State.commonAct_keeps {a s : State} {x0} (h : State.Keeps a s) : State.Keeps a (State.commonAct s x0) := by
  unfold State.commonAct
  with_reducible repeat' (first
    | exact h | assumption | apply State.setReg_keeps | apply State.snapPage_keeps | apply keeps_foldl
    | apply keeps_ite | apply_assumption | dsimp only | split | intro _ _ _ | intro _ _ | exact Nat.le_max_left _ _
    | exact Nat.le_add_right _ _ | exact Nat.le_refl _)

theorem State.katStart_keeps {a s : State} {x0 x1} (h : State.Keeps a s) : State.Keeps a (State.katStart s x0 x1) := by
  unfold State.katStart
  with_reducible repeat' (first
    | exact h | assumption | apply State.setFld_keeps | apply State.withKats_keeps | apply keeps_foldl
    | apply keeps_ite | apply_assumption | dsimp only | split | intro _ _ _ | intro _ _ | exact Nat.le_max_left _ _
    | exact Nat.le_add_right _ _ | exact Nat.le_refl _)

theorem State.ringDoorbell_keeps {a s : State} {x0 x1 x2} (h : State.Keeps a s) :
    State.Keeps a (State.ringDoorbell s x0 x1 x2) := by
  unfold State.ringDoorbell
  with_reducible repeat' (first
    | exact h | assumption | apply State.setRingFld_keeps | apply keeps_foldl | apply keeps_ite | apply_assumption
    | dsimp only | split | intro _ _ _ | intro _ _ | exact Nat.le_max_left _ _ | exact Nat.le_add_right _ _
    | exact Nat.le_refl _)

theorem State.ringConsume_keeps {a s : State} {x0 x1 x2} (h : State.Keeps a s) :
    State.Keeps a (State.ringConsume s x0 x1 x2) := by
  unfold State.ringConsume
  with_reducible repeat' (first
    | exact h | assumption | apply State.setRingFld_keeps | apply keeps_foldl | apply keeps_ite | apply_assumption
    | dsimp only | split | intro _ _ _ | intro _ _ | exact Nat.le_max_left _ _ | exact Nat.le_add_right _ _
    | exact Nat.le_refl _)

theorem State.ringChanged_keeps {a s : State} {x0 x1 x2} (h : State.Keeps a s) :
    State.Keeps a (State.ringChanged s x0 x1 x2) := by
  unfold State.ringChanged
  with_reducible repeat' (first
    | exact h | assumption | apply State.setRingFld_keeps | apply State.withLoader_keeps
    | apply State.withRingLost_keeps | apply keeps_foldl | apply keeps_ite | apply_assumption | dsimp only | split
    | intro _ _ _ | intro _ _ | exact Nat.le_max_left _ _ | exact Nat.le_add_right _ _ | exact Nat.le_refl _)

theorem State.unitAct_keeps {a s : State} {x0 x1 x2 x3} (h : State.Keeps a s) :
    State.Keeps a (State.unitAct s x0 x1 x2 x3) := by
  unfold State.unitAct
  with_reducible repeat' (first
    | exact h | assumption | apply noteStates_keeps | apply State.resetMap_keeps | apply State.setReeve_keeps
    | apply State.katStart_keeps | apply State.marginStart_keeps | apply State.portDown_keeps
    | apply State.retrain_keeps | apply State.ringDoorbell_keeps | apply State.ringConsume_keeps
    | apply State.ringChanged_keeps | apply State.dmaDoorbell_keeps | apply State.dmaChanged_keeps | apply keeps_foldl
    | apply keeps_ite | apply_assumption | dsimp only | split | intro _ _ _ | intro _ _ | exact Nat.le_max_left _ _
    | exact Nat.le_add_right _ _ | exact Nat.le_refl _)

theorem State.snapAll_keeps {a s : State} {x0} (h : State.Keeps a s) : State.Keeps a (State.snapAll s x0) := by
  unfold State.snapAll
  with_reducible repeat' (first
    | exact h | assumption | apply State.snapPage_keeps | apply keeps_foldl | apply keeps_ite | apply_assumption
    | dsimp only | split | intro _ _ _ | intro _ _ | exact Nat.le_max_left _ _ | exact Nat.le_add_right _ _
    | exact Nat.le_refl _)

theorem raiseAlerts_keeps {a s : State} {x0 x1} (h : State.Keeps a s) : State.Keeps a (raiseAlerts x0 x1 s) := by
  fun_induction raiseAlerts x0 x1 s
  with_reducible repeat' (first
    | exact h | assumption | apply State.alert_keeps | apply keeps_foldl | apply keeps_ite | apply_assumption
    | dsimp only | split | intro _ _ _ | intro _ _ | exact Nat.le_max_left _ _ | exact Nat.le_add_right _ _
    | exact Nat.le_refl _)

theorem State.squareAct_keeps {a s : State} {x0 x1 x2} (h : State.Keeps a s) :
    State.Keeps a (State.squareAct s x0 x1 x2) := by
  unfold State.squareAct
  with_reducible repeat' (first
    | exact h | assumption | apply State.snapAll_keeps | apply State.fieldCmd_keeps | apply raiseAlerts_keeps
    | apply State.setSource_keeps | apply State.setRate_keeps | apply State.setLines_keeps
    | apply State.armFrame_keeps | apply State.setTransit_keeps | apply State.domainSet_keeps
    | apply State.setFld_keeps | apply State.setCueIndex_keeps | apply State.cueDataWrite_keeps
    | apply State.setCueGroup_keeps | apply State.cueGroupWrite_keeps | apply State.requestNight_keeps
    | apply State.capWrite_keeps | apply State.dieCmd_keeps | apply State.fenceWrite_keeps
    | apply State.routeCmd_keeps | apply State.fjCmd_keeps | apply keeps_foldl | apply keeps_ite | apply_assumption
    | dsimp only | split | intro _ _ _ | intro _ _ | exact Nat.le_max_left _ _ | exact Nat.le_add_right _ _
    | exact Nat.le_refl _)

theorem State.applyWrite_keeps {a s : State} {x0 x1} (h : State.Keeps a s) :
    State.Keeps a (State.applyWrite s x0 x1) := by
  unfold State.applyWrite
  with_reducible repeat' (first
    | exact h | assumption | apply State.deny_keeps | apply State.setReg_keeps | apply State.commonAct_keeps
    | apply State.unitAct_keeps | apply State.squareAct_keeps | apply attnRise_keeps | apply keeps_foldl
    | apply keeps_ite | apply_assumption | dsimp only | split | intro _ _ _ | intro _ _ | exact Nat.le_max_left _ _
    | exact Nat.le_add_right _ _ | exact Nat.le_refl _)

theorem State.pageWrite_keeps {a s : State} {x0} (h : State.Keeps a s) : State.Keeps a (State.pageWrite s x0) := by
  unfold State.pageWrite
  with_reducible repeat' (first
    | exact h | assumption | apply State.deny_keeps | apply State.applyWrite_keeps | apply State.withGuards_keeps
    | apply keeps_foldl | apply keeps_ite | apply_assumption | dsimp only | split | intro _ _ _ | intro _ _
    | exact Nat.le_max_left _ _ | exact Nat.le_add_right _ _ | exact Nat.le_refl _)

theorem State.busWrite_keeps {a s : State} {x0 x1 x2} (h : State.Keeps a s) :
    State.Keeps a (State.busWrite s x0 x1 x2) := by
  unfold State.busWrite
  with_reducible repeat' (first
    | exact h | assumption | apply State.pageWrite_keeps | apply keeps_foldl | apply keeps_ite | apply_assumption
    | dsimp only | split | intro _ _ _ | intro _ _ | exact Nat.le_max_left _ _ | exact Nat.le_add_right _ _
    | exact Nat.le_refl _)

theorem execPageOwnerWrite_keeps {a s : State} {x0 x1 x2} (h : State.Keeps a s) :
    KeepsOut a (execPageOwnerWrite x0 x1 x2 s) := by
  unfold execPageOwnerWrite
  with_reducible repeat' (first
    | apply keeps_next | exact keeps_fault _ | exact h | assumption | apply State.busWrite_keeps | apply keeps_foldl
    | apply keepsOut_ite | apply keeps_ite | apply_assumption | dsimp only | split | intro _ _ _ | intro _ _
    | exact Nat.le_max_left _ _ | exact Nat.le_add_right _ _ | exact Nat.le_refl _)

theorem execCueGroupOwner_keeps {a s : State} {x0 x1} (h : State.Keeps a s) :
    KeepsOut a (execCueGroupOwner x0 x1 s) := by
  unfold execCueGroupOwner
  with_reducible repeat' (first
    | apply keeps_next | exact keeps_fault _ | exact h | assumption | apply State.busWrite_keeps | apply keeps_foldl
    | apply keepsOut_ite | apply keeps_ite | apply_assumption | dsimp only | split | intro _ _ _ | intro _ _
    | exact Nat.le_max_left _ _ | exact Nat.le_add_right _ _ | exact Nat.le_refl _)

theorem execFaultCodeClear_keeps {a s : State} {x0 x1} (h : State.Keeps a s) :
    KeepsOut a (execFaultCodeClear x0 x1 s) := by
  unfold execFaultCodeClear
  with_reducible repeat' (first
    | apply keeps_next | exact keeps_fault _ | exact h | assumption | apply State.busWrite_keeps | apply keeps_foldl
    | apply keepsOut_ite | apply keeps_ite | apply_assumption | dsimp only | split | intro _ _ _ | intro _ _
    | exact Nat.le_max_left _ _ | exact Nat.le_add_right _ _ | exact Nat.le_refl _)

theorem execAlmIndex_keeps {a s : State} {x0 x1} (h : State.Keeps a s) : KeepsOut a (execAlmIndex x0 x1 s) := by
  unfold execAlmIndex
  with_reducible repeat' (first
    | apply keeps_next | exact keeps_fault _ | exact h | assumption | apply State.busWrite_keeps | apply keeps_foldl
    | apply keepsOut_ite | apply keeps_ite | apply_assumption | dsimp only | split | intro _ _ _ | intro _ _
    | exact Nat.le_max_left _ _ | exact Nat.le_add_right _ _ | exact Nat.le_refl _)

theorem execMerSetLo_keeps {a s : State} {x0 x1} (h : State.Keeps a s) : KeepsOut a (execMerSetLo x0 x1 s) := by
  unfold execMerSetLo
  with_reducible repeat' (first
    | apply keeps_next | exact keeps_fault _ | exact h | assumption | apply State.busWrite_keeps | apply keeps_foldl
    | apply keepsOut_ite | apply keeps_ite | apply_assumption | dsimp only | split | intro _ _ _ | intro _ _
    | exact Nat.le_max_left _ _ | exact Nat.le_add_right _ _ | exact Nat.le_refl _)

theorem execDmaTail_keeps {a s : State} {x0 x1 x2 x3} (h : State.Keeps a s) :
    KeepsOut a (execDmaTail x0 x1 x2 x3 s) := by
  unfold execDmaTail
  with_reducible repeat' (first
    | apply keeps_next | exact keeps_fault _ | exact h | assumption | apply State.busWrite_keeps | apply keeps_foldl
    | apply keepsOut_ite | apply keeps_ite | apply_assumption | dsimp only | split | intro _ _ _ | intro _ _
    | exact Nat.le_max_left _ _ | exact Nat.le_add_right _ _ | exact Nat.le_refl _)

theorem execMerRateWrite_keeps {a s : State} {x0 x1} (h : State.Keeps a s) : KeepsOut a (execMerRateWrite x0 x1 s) := by
  unfold execMerRateWrite
  with_reducible repeat' (first
    | apply keeps_next | exact keeps_fault _ | exact h | assumption | apply State.busWrite_keeps | apply keeps_foldl
    | apply keepsOut_ite | apply keeps_ite | apply_assumption | dsimp only | split | intro _ _ _ | intro _ _
    | exact Nat.le_max_left _ _ | exact Nat.le_add_right _ _ | exact Nat.le_refl _)

theorem execHbmMarginStart_keeps {a s : State} {x0 x1 x2} (h : State.Keeps a s) :
    KeepsOut a (execHbmMarginStart x0 x1 x2 s) := by
  unfold execHbmMarginStart
  with_reducible repeat' (first
    | apply keeps_next | exact keeps_fault _ | exact h | assumption | apply State.busWrite_keeps | apply keeps_foldl
    | apply keepsOut_ite | apply keeps_ite | apply_assumption | dsimp only | split | intro _ _ _ | intro _ _
    | exact Nat.le_max_left _ _ | exact Nat.le_add_right _ _ | exact Nat.le_refl _)

theorem execPageKey_keeps {a s : State} {x0 x1 x2} (h : State.Keeps a s) : KeepsOut a (execPageKey x0 x1 x2 s) := by
  unfold execPageKey
  with_reducible repeat' (first
    | apply keeps_next | exact keeps_fault _ | exact h | assumption | apply State.busWrite_keeps | apply keeps_foldl
    | apply keepsOut_ite | apply keeps_ite | apply_assumption | dsimp only | split | intro _ _ _ | intro _ _
    | exact Nat.le_max_left _ _ | exact Nat.le_add_right _ _ | exact Nat.le_refl _)

theorem State.bellSlotWrite_keeps {a s : State} {x0 x1 x2} (h : State.Keeps a s) :
    State.Keeps a (State.bellSlotWrite s x0 x1 x2) := by
  unfold State.bellSlotWrite
  with_reducible repeat' (first
    | exact h | assumption | apply State.bellWrite_keeps | apply keeps_foldl | apply keeps_ite | apply_assumption
    | dsimp only | split | intro _ _ _ | intro _ _ | exact Nat.le_max_left _ _ | exact Nat.le_add_right _ _
    | exact Nat.le_refl _)

theorem State.writeCmd_keeps {a s : State} {x0 x1 x2 x3} (h : State.Keeps a s) :
    State.Keeps a (State.writeCmd s x0 x1 x2 x3) := by
  unfold State.writeCmd
  with_reducible repeat' (first
    | exact h | assumption | apply State.bellSlotWrite_keeps | apply State.busWrite_keeps | apply keeps_foldl
    | apply keeps_ite | apply_assumption | dsimp only | split | intro _ _ _ | intro _ _ | exact Nat.le_max_left _ _
    | exact Nat.le_add_right _ _ | exact Nat.le_refl _)

theorem execThermalCapWrite_keeps {a s : State} {x0 x1} (h : State.Keeps a s) :
    KeepsOut a (execThermalCapWrite x0 x1 s) := by
  unfold execThermalCapWrite
  with_reducible repeat' (first
    | apply keeps_next | exact keeps_fault _ | exact h | assumption | apply State.busWrite_keeps | apply keeps_foldl
    | apply keepsOut_ite | apply keeps_ite | apply_assumption | dsimp only | split | intro _ _ _ | intro _ _
    | exact Nat.le_max_left _ _ | exact Nat.le_add_right _ _ | exact Nat.le_refl _)

theorem execRetrain_keeps {a s : State} {x0 x1 x2} (h : State.Keeps a s) : KeepsOut a (execRetrain x0 x1 x2 s) := by
  unfold execRetrain
  with_reducible repeat' (first
    | apply keeps_next | exact keeps_fault _ | exact h | assumption | apply State.busWrite_keeps | apply keeps_foldl
    | apply keepsOut_ite | apply keeps_ite | apply_assumption | dsimp only | split | intro _ _ _ | intro _ _
    | exact Nat.le_max_left _ _ | exact Nat.le_add_right _ _ | exact Nat.le_refl _)

theorem execUnmap_keeps {a s : State} {x0 x1 x2} (h : State.Keeps a s) : KeepsOut a (execUnmap x0 x1 x2 s) := by
  unfold execUnmap
  with_reducible repeat' (first
    | apply keeps_next | exact keeps_fault _ | exact h | assumption | apply State.busWrite_keeps | apply keeps_foldl
    | apply keepsOut_ite | apply keeps_ite | apply_assumption | dsimp only | split | intro _ _ _ | intro _ _
    | exact Nat.le_max_left _ _ | exact Nat.le_add_right _ _ | exact Nat.le_refl _)

theorem execSqSnapAll_keeps {a s : State} {x0 x1} (h : State.Keeps a s) : KeepsOut a (execSqSnapAll x0 x1 s) := by
  unfold execSqSnapAll
  with_reducible repeat' (first
    | apply keeps_next | exact keeps_fault _ | exact h | assumption | apply State.busWrite_keeps | apply keeps_foldl
    | apply keepsOut_ite | apply keeps_ite | apply_assumption | dsimp only | split | intro _ _ _ | intro _ _
    | exact Nat.le_max_left _ _ | exact Nat.le_add_right _ _ | exact Nat.le_refl _)

theorem execMerFrameNextLo_keeps {a s : State} {x0 x1} (h : State.Keeps a s) :
    KeepsOut a (execMerFrameNextLo x0 x1 s) := by
  unfold execMerFrameNextLo
  with_reducible repeat' (first
    | apply keeps_next | exact keeps_fault _ | exact h | assumption | apply State.busWrite_keeps | apply keeps_foldl
    | apply keepsOut_ite | apply keeps_ite | apply_assumption | dsimp only | split | intro _ _ _ | intro _ _
    | exact Nat.le_max_left _ _ | exact Nat.le_add_right _ _ | exact Nat.le_refl _)

theorem execDieCmdWrite_keeps {a s : State} {x0 x1} (h : State.Keeps a s) : KeepsOut a (execDieCmdWrite x0 x1 s) := by
  unfold execDieCmdWrite
  with_reducible repeat' (first
    | apply keeps_next | exact keeps_fault _ | exact h | assumption | apply State.busWrite_keeps | apply keeps_foldl
    | apply keepsOut_ite | apply keeps_ite | apply_assumption | dsimp only | split | intro _ _ _ | intro _ _
    | exact Nat.le_max_left _ _ | exact Nat.le_add_right _ _ | exact Nat.le_refl _)

theorem execRouteCmdLoad_keeps {a s : State} {x0} (h : State.Keeps a s) : KeepsOut a (execRouteCmdLoad x0 s) := by
  unfold execRouteCmdLoad
  with_reducible repeat' (first
    | apply keeps_next | exact keeps_fault _ | exact h | assumption | apply State.busWrite_keeps | apply keeps_foldl
    | apply keepsOut_ite | apply keeps_ite | apply_assumption | dsimp only | split | intro _ _ _ | intro _ _
    | exact Nat.le_max_left _ _ | exact Nat.le_add_right _ _ | exact Nat.le_refl _)

theorem execDmaCtrlWrite_keeps {a s : State} {x0 x1 x2 x3} (h : State.Keeps a s) :
    KeepsOut a (execDmaCtrlWrite x0 x1 x2 x3 s) := by
  unfold execDmaCtrlWrite
  with_reducible repeat' (first
    | apply keeps_next | exact keeps_fault _ | exact h | assumption | apply State.busWrite_keeps | apply keeps_foldl
    | apply keepsOut_ite | apply keeps_ite | apply_assumption | dsimp only | split | intro _ _ _ | intro _ _
    | exact Nat.le_max_left _ _ | exact Nat.le_add_right _ _ | exact Nat.le_refl _)

theorem execUnbind_keeps {a s : State} {x0} (h : State.Keeps a s) : KeepsOut a (execUnbind x0 s) := by
  unfold execUnbind
  with_reducible repeat' (first
    | apply keeps_next | exact keeps_fault _ | exact h | assumption | apply State.busWrite_keeps | apply keeps_foldl
    | apply keepsOut_ite | apply keeps_ite | apply_assumption | dsimp only | split | intro _ _ _ | intro _ _
    | exact Nat.le_max_left _ _ | exact Nat.le_add_right _ _ | exact Nat.le_refl _)

theorem execSnapCtrlTake_keeps {a s : State} {x0 x1 x2} (h : State.Keeps a s) :
    KeepsOut a (execSnapCtrlTake x0 x1 x2 s) := by
  unfold execSnapCtrlTake
  with_reducible repeat' (first
    | apply keeps_next | exact keeps_fault _ | exact h | assumption | apply State.busWrite_keeps | apply keeps_foldl
    | apply keepsOut_ite | apply keeps_ite | apply_assumption | dsimp only | split | intro _ _ _ | intro _ _
    | exact Nat.le_max_left _ _ | exact Nat.le_add_right _ _ | exact Nat.le_refl _)

theorem execFaultFenceWrite_keeps {a s : State} {x0 x1} (h : State.Keeps a s) :
    KeepsOut a (execFaultFenceWrite x0 x1 s) := by
  unfold execFaultFenceWrite
  with_reducible repeat' (first
    | apply keeps_next | exact keeps_fault _ | exact h | assumption | apply State.busWrite_keeps | apply keeps_foldl
    | apply keepsOut_ite | apply keeps_ite | apply_assumption | dsimp only | split | intro _ _ _ | intro _ _
    | exact Nat.le_max_left _ _ | exact Nat.le_add_right _ _ | exact Nat.le_refl _)

theorem execSetViewWrite_keeps {a s : State} {x0 x1 x2} (h : State.Keeps a s) :
    KeepsOut a (execSetViewWrite x0 x1 x2 s) := by
  unfold execSetViewWrite
  with_reducible repeat' (first
    | apply keeps_next | exact keeps_fault _ | exact h | assumption | apply State.writeCmd_keeps | apply keeps_foldl
    | apply keepsOut_ite | apply keeps_ite | apply_assumption | dsimp only | split | intro _ _ _ | intro _ _
    | exact Nat.le_max_left _ _ | exact Nat.le_add_right _ _ | exact Nat.le_refl _)

theorem execNightwatchRequest_keeps {a s : State} {x0} (h : State.Keeps a s) :
    KeepsOut a (execNightwatchRequest x0 s) := by
  unfold execNightwatchRequest
  with_reducible repeat' (first
    | apply keeps_next | exact keeps_fault _ | exact h | assumption | apply State.busWrite_keeps | apply keeps_foldl
    | apply keepsOut_ite | apply keeps_ite | apply_assumption | dsimp only | split | intro _ _ _ | intro _ _
    | exact Nat.le_max_left _ _ | exact Nat.le_add_right _ _ | exact Nat.le_refl _)

theorem execClearViewWrite_keeps {a s : State} {x0 x1 x2} (h : State.Keeps a s) :
    KeepsOut a (execClearViewWrite x0 x1 x2 s) := by
  unfold execClearViewWrite
  with_reducible repeat' (first
    | apply keeps_next | exact keeps_fault _ | exact h | assumption | apply State.writeCmd_keeps | apply keeps_foldl
    | apply keepsOut_ite | apply keeps_ite | apply_assumption | dsimp only | split | intro _ _ _ | intro _ _
    | exact Nat.le_max_left _ _ | exact Nat.le_add_right _ _ | exact Nat.le_refl _)

theorem execCueDataWrite_keeps {a s : State} {x0 x1} (h : State.Keeps a s) : KeepsOut a (execCueDataWrite x0 x1 s) := by
  unfold execCueDataWrite
  with_reducible repeat' (first
    | apply keeps_next | exact keeps_fault _ | exact h | assumption | apply State.busWrite_keeps | apply keeps_foldl
    | apply keepsOut_ite | apply keeps_ite | apply_assumption | dsimp only | split | intro _ _ _ | intro _ _
    | exact Nat.le_max_left _ _ | exact Nat.le_add_right _ _ | exact Nat.le_refl _)

theorem execMerCtrlSourceWrite_keeps {a s : State} {x0 x1} (h : State.Keeps a s) :
    KeepsOut a (execMerCtrlSourceWrite x0 x1 s) := by
  unfold execMerCtrlSourceWrite
  with_reducible repeat' (first
    | apply keeps_next | exact keeps_fault _ | exact h | assumption | apply State.busWrite_keeps | apply keeps_foldl
    | apply keepsOut_ite | apply keeps_ite | apply_assumption | dsimp only | split | intro _ _ _ | intro _ _
    | exact Nat.le_max_left _ _ | exact Nat.le_add_right _ _ | exact Nat.le_refl _)

theorem execPowerCapWrite_keeps {a s : State} {x0 x1} (h : State.Keeps a s) :
    KeepsOut a (execPowerCapWrite x0 x1 s) := by
  unfold execPowerCapWrite
  with_reducible repeat' (first
    | apply keeps_next | exact keeps_fault _ | exact h | assumption | apply State.busWrite_keeps | apply keeps_foldl
    | apply keepsOut_ite | apply keeps_ite | apply_assumption | dsimp only | split | intro _ _ _ | intro _ _
    | exact Nat.le_max_left _ _ | exact Nat.le_add_right _ _ | exact Nat.le_refl _)

theorem execRingTail_keeps {a s : State} {x0 x1 x2} (h : State.Keeps a s) : KeepsOut a (execRingTail x0 x1 x2 s) := by
  unfold execRingTail
  with_reducible repeat' (first
    | apply keeps_next | exact keeps_fault _ | exact h | assumption | apply State.busWrite_keeps | apply keeps_foldl
    | apply keepsOut_ite | apply keeps_ite | apply_assumption | dsimp only | split | intro _ _ _ | intro _ _
    | exact Nat.le_max_left _ _ | exact Nat.le_add_right _ _ | exact Nat.le_refl _)

theorem execCmplHead_keeps {a s : State} {x0 x1 x2} (h : State.Keeps a s) : KeepsOut a (execCmplHead x0 x1 x2 s) := by
  unfold execCmplHead
  with_reducible repeat' (first
    | apply keeps_next | exact keeps_fault _ | exact h | assumption | apply State.busWrite_keeps | apply keeps_foldl
    | apply keepsOut_ite | apply keeps_ite | apply_assumption | dsimp only | split | intro _ _ _ | intro _ _
    | exact Nat.le_max_left _ _ | exact Nat.le_add_right _ _ | exact Nat.le_refl _)

theorem execRingCtrlWrite_keeps {a s : State} {x0 x1 x2} (h : State.Keeps a s) :
    KeepsOut a (execRingCtrlWrite x0 x1 x2 s) := by
  unfold execRingCtrlWrite
  with_reducible repeat' (first
    | apply keeps_next | exact keeps_fault _ | exact h | assumption | apply State.busWrite_keeps | apply keeps_foldl
    | apply keepsOut_ite | apply keeps_ite | apply_assumption | dsimp only | split | intro _ _ _ | intro _ _
    | exact Nat.le_max_left _ _ | exact Nat.le_add_right _ _ | exact Nat.le_refl _)

theorem execMap_keeps {a s : State} {x0 x1 x2} (h : State.Keeps a s) : KeepsOut a (execMap x0 x1 x2 s) := by
  unfold execMap
  with_reducible repeat' (first
    | apply keeps_next | exact keeps_fault _ | exact h | assumption | apply State.busWrite_keeps | apply keeps_foldl
    | apply keepsOut_ite | apply keeps_ite | apply_assumption | dsimp only | split | intro _ _ _ | intro _ _
    | exact Nat.le_max_left _ _ | exact Nat.le_add_right _ _ | exact Nat.le_refl _)

theorem execAlmCtrlWrite_keeps {a s : State} {x0 x1} (h : State.Keeps a s) : KeepsOut a (execAlmCtrlWrite x0 x1 s) := by
  unfold execAlmCtrlWrite
  with_reducible repeat' (first
    | apply keeps_next | exact keeps_fault _ | exact h | assumption | apply State.busWrite_keeps | apply keeps_foldl
    | apply keepsOut_ite | apply keeps_ite | apply_assumption | dsimp only | split | intro _ _ _ | intro _ _
    | exact Nat.le_max_left _ _ | exact Nat.le_add_right _ _ | exact Nat.le_refl _)

theorem execBind_keeps {a s : State} {x0} (h : State.Keeps a s) : KeepsOut a (execBind x0 s) := by
  unfold execBind
  with_reducible repeat' (first
    | apply keeps_next | exact keeps_fault _ | exact h | assumption | apply State.busWrite_keeps | apply keeps_foldl
    | apply keepsOut_ite | apply keeps_ite | apply_assumption | dsimp only | split | intro _ _ _ | intro _ _
    | exact Nat.le_max_left _ _ | exact Nat.le_add_right _ _ | exact Nat.le_refl _)

theorem execFfKatStart_keeps {a s : State} {x0 x1 x2} (h : State.Keeps a s) :
    KeepsOut a (execFfKatStart x0 x1 x2 s) := by
  unfold execFfKatStart
  with_reducible repeat' (first
    | apply keeps_next | exact keeps_fault _ | exact h | assumption | apply State.busWrite_keeps | apply keeps_foldl
    | apply keepsOut_ite | apply keeps_ite | apply_assumption | dsimp only | split | intro _ _ _ | intro _ _
    | exact Nat.le_max_left _ _ | exact Nat.le_add_right _ _ | exact Nat.le_refl _)

theorem execFfKatDone_keeps {a s : State} {x0 x1} (h : State.Keeps a s) : KeepsOut a (execFfKatDone x0 x1 s) := by
  unfold execFfKatDone
  with_reducible repeat' (first
    | apply keeps_next | exact keeps_fault _ | exact h | assumption | apply State.withKats_keeps
    | apply State.setFld_keeps | apply keeps_foldl | apply keepsOut_ite | apply keeps_ite | apply_assumption
    | dsimp only | split | intro _ _ _ | intro _ _ | exact Nat.le_max_left _ _ | exact Nat.le_add_right _ _
    | exact Nat.le_refl _)

theorem execRegisterWrite_keeps {a s : State} {x0 x1 x2} (h : State.Keeps a s) :
    KeepsOut a (execRegisterWrite x0 x1 x2 s) := by
  unfold execRegisterWrite
  with_reducible repeat' (first
    | apply keeps_next | exact keeps_fault _ | exact h | assumption | apply State.writeCmd_keeps | apply keeps_foldl
    | apply keepsOut_ite | apply keeps_ite | apply_assumption | dsimp only | split | intro _ _ _ | intro _ _
    | exact Nat.le_max_left _ _ | exact Nat.le_add_right _ _ | exact Nat.le_refl _)

end Sys2Proof.Machine
end

