-- ==== Sys2Proof/Laws/KeepsGate.lean ====
section
/-! SUPPORT. State.Keeps over the definitions of Machine/Gate.lean. -/

namespace Sys2Proof.Machine

theorem State.gateDone_keeps {a s : State} {x0 x1 x2 x3} (h : State.Keeps a s) :
    State.Keeps a (State.gateDone s x0 x1 x2 x3) := by
  unfold State.gateDone
  with_reducible repeat' (first
    | exact h | assumption | apply State.setTdata_keeps | apply State.events_keeps | apply State.bump_keeps
    | apply keeps_foldl | apply keeps_ite | apply_assumption | dsimp only | split | intro _ _ _ | intro _ _
    | exact Nat.le_max_left _ _ | exact Nat.le_add_right _ _ | exact Nat.le_refl _)

theorem State.cscInOp_keeps {a s : State} {x0 x1} (h : State.Keeps a s) : KeepsOpt a (State.cscInOp s x0 x1) := by
  unfold State.cscInOp
  with_reducible repeat' (first
    | apply keepsOpt_some | exact keepsOpt_none | exact h | assumption | apply State.gateDone_keeps
    | apply keeps_foldl | apply keepsOpt_ite | apply keepsOpt_map | apply keepsOpt_bind | intro _ _ | apply keeps_ite
    | apply_assumption | dsimp only | split | intro _ _ _ | intro _ _ | exact Nat.le_max_left _ _
    | exact Nat.le_add_right _ _ | exact Nat.le_refl _)

theorem State.gatePop_keeps {a s : State} {x0} (h : State.Keeps a s) : State.Keeps a (State.gatePop s x0) := by
  unfold State.gatePop
  with_reducible repeat' (first
    | exact h | assumption | apply State.bump64_keeps | apply State.setGate_keeps | apply keeps_foldl
    | apply keeps_ite | apply_assumption | dsimp only | split | intro _ _ _ | intro _ _ | exact Nat.le_max_left _ _
    | exact Nat.le_add_right _ _ | exact Nat.le_refl _)

theorem State.cscOutOp_keeps {a s : State} {x0 x1} (h : State.Keeps a s) : KeepsOpt a (State.cscOutOp s x0 x1) := by
  unfold State.cscOutOp
  with_reducible repeat' (first
    | apply keepsOpt_some | exact keepsOpt_none | exact h | assumption | apply State.gateDone_keeps
    | apply keeps_foldl | apply keepsOpt_ite | apply keepsOpt_map | apply keepsOpt_bind | intro _ _ | apply keeps_ite
    | apply_assumption | dsimp only | split | intro _ _ _ | intro _ _ | exact Nat.le_max_left _ _
    | exact Nat.le_add_right _ _ | exact Nat.le_refl _)

theorem State.gateRun_keeps {a s : State} {d op f} (h : State.Keeps a s) (hf : ∀ c w, KeepsOpt a (f c w)) :
    State.Keeps a (State.gateRun s d op f) := by
  unfold State.gateRun
  with_reducible repeat' (first
    | assumption | apply State.gatePop_keeps | apply State.checkFault_keeps | apply State.setGate_keeps | apply keeps_ite
    | dsimp only | split | refine keepsOpt_elim (by assumption) (keepsOpt_bindV fun c => hf c _))

theorem State.gateHold_keeps {a s : State} {x0} (h : State.Keeps a s) : State.Keeps a (State.gateHold s x0) := by
  unfold State.gateHold
  with_reducible repeat' (first
    | exact h | assumption | apply State.errorWait_keeps | apply State.setGate_keeps | apply State.gateRun_keeps
    | apply keeps_foldl | apply keepsOpt_some | exact keepsOpt_none | apply keeps_ite | apply_assumption | dsimp only
    | split | intro _ _ _ | intro _ _ | exact Nat.le_max_left _ _ | exact Nat.le_add_right _ _ | exact Nat.le_refl _)

theorem execCscOut_keeps {a s : State} {x0} (h : State.Keeps a s) : KeepsOut a (execCscOut x0 s) := by
  unfold execCscOut
  with_reducible repeat' (first
    | apply keeps_next | exact keeps_fault _ | exact h | assumption | apply State.gateRun_keeps
    | refine keepsOpt_elim (by assumption) (State.cscOutOp_keeps ?_) | apply State.cscOutOp_keeps | apply keeps_foldl
    | apply keepsOut_ite | apply keepsOpt_some | exact keepsOpt_none | apply keeps_ite | apply_assumption | dsimp only
    | split | intro _ _ _ | intro _ _ | exact Nat.le_max_left _ _ | exact Nat.le_add_right _ _ | exact Nat.le_refl _)

theorem execGateWait_keeps {a s : State} {x0} (h : State.Keeps a s) : KeepsOut a (execGateWait x0 s) := by
  unfold execGateWait
  with_reducible repeat' (first
    | apply keeps_next | exact keeps_fault _ | exact h | assumption | apply State.gateHold_keeps | apply keeps_foldl
    | apply keepsOut_ite | apply keeps_ite | apply_assumption | dsimp only | split | intro _ _ _ | intro _ _
    | exact Nat.le_max_left _ _ | exact Nat.le_add_right _ _ | exact Nat.le_refl _)

theorem execCscIn_keeps {a s : State} {x0} (h : State.Keeps a s) : KeepsOut a (execCscIn x0 s) := by
  unfold execCscIn
  with_reducible repeat' (first
    | apply keeps_next | exact keeps_fault _ | exact h | assumption | apply State.gateRun_keeps
    | refine keepsOpt_elim (by assumption) (State.cscInOp_keeps ?_) | apply State.cscInOp_keeps | apply keeps_foldl
    | apply keepsOut_ite | apply keepsOpt_some | exact keepsOpt_none | apply keeps_ite | apply_assumption | dsimp only
    | split | intro _ _ _ | intro _ _ | exact Nat.le_max_left _ _ | exact Nat.le_add_right _ _ | exact Nat.le_refl _)

theorem State.convOp_keeps {a s : State} {x0 x1} (h : State.Keeps a s) : KeepsOpt a (State.convOp s x0 x1) := by
  unfold State.convOp
  with_reducible repeat' (first
    | apply keepsOpt_some | exact keepsOpt_none | exact h | assumption | apply State.gateDone_keeps
    | apply keeps_foldl | apply keepsOpt_ite | apply keepsOpt_map | apply keepsOpt_bind | intro _ _ | apply keeps_ite
    | apply_assumption | dsimp only | split | intro _ _ _ | intro _ _ | exact Nat.le_max_left _ _
    | exact Nat.le_add_right _ _ | exact Nat.le_refl _)

theorem execGateSignal_keeps {a s : State} {x0} (h : State.Keeps a s) : KeepsOut a (execGateSignal x0 s) := by
  unfold execGateSignal
  with_reducible repeat' (first
    | apply keeps_next | exact keeps_fault _ | exact h | assumption | apply State.gateRun_keeps
    | apply State.unitSignal_keeps | apply keeps_foldl | apply keepsOut_ite | apply keepsOpt_some
    | exact keepsOpt_none | apply keeps_ite | apply_assumption | dsimp only | split | intro _ _ _ | intro _ _
    | exact Nat.le_max_left _ _ | exact Nat.le_add_right _ _ | exact Nat.le_refl _)

theorem execGateNop_keeps {a s : State} {x0} (h : State.Keeps a s) : KeepsOut a (execGateNop x0 s) := by
  unfold execGateNop
  with_reducible repeat' (first
    | apply keeps_next | exact keeps_fault _ | exact h | assumption | apply State.gateRun_keeps | apply keeps_foldl
    | apply keepsOut_ite | apply keepsOpt_some | exact keepsOpt_none | apply keeps_ite | apply_assumption | dsimp only
    | split | intro _ _ _ | intro _ _ | exact Nat.le_max_left _ _ | exact Nat.le_add_right _ _ | exact Nat.le_refl _)

theorem execConv_keeps {a s : State} {x0} (h : State.Keeps a s) : KeepsOut a (execConv x0 s) := by
  unfold execConv
  with_reducible repeat' (first
    | apply keeps_next | exact keeps_fault _ | exact h | assumption | apply State.gateRun_keeps
    | refine keepsOpt_elim (by assumption) (State.convOp_keeps ?_) | apply State.convOp_keeps | apply keeps_foldl
    | apply keepsOut_ite | apply keepsOpt_some | exact keepsOpt_none | apply keeps_ite | apply_assumption | dsimp only
    | split | intro _ _ _ | intro _ _ | exact Nat.le_max_left _ _ | exact Nat.le_add_right _ _ | exact Nat.le_refl _)

end Sys2Proof.Machine
end

