-- ==== Sys2Proof/Laws/KeepsLoad.lean ====
section
/-! SUPPORT. State.Keeps over the definitions of Machine/Load.lean. -/

namespace Sys2Proof.Machine

theorem State.load_keeps {a s : State} {x0 x1 x2 x3} (h : State.Keeps a s) :
    ∀ n t, State.load s x0 x1 x2 x3 = .ok (n, t) → State.Keeps a t := by
  intro n t e
  unfold State.load at e
  repeat' split at e
  all_goals cases e
  exact State.withLoader_keeps h

end Sys2Proof.Machine
end

