-- ==== Sys2Proof/Laws/KeepsLooms.lean ====
section
/-! SUPPORT. State.Keeps over the definitions of Machine/Looms.lean. -/

namespace Sys2Proof.Machine

theorem drainParts_keeps {a s : State} {x0 x1 x2 x3 x4 x5 x6 x7} (h : State.Keeps a s) :
    State.Keeps a (drainParts x0 x1 x2 x3 x4 x5 x6 x7 s) := by
  fun_induction drainParts x0 x1 x2 x3 x4 x5 x6 x7 s
  with_reducible repeat' (first
    | exact h | assumption | apply State.setTdata_keeps | apply keeps_foldl | apply keeps_ite | apply_assumption
    | dsimp only | split | intro _ _ _ | intro _ _ | exact Nat.le_max_left _ _ | exact Nat.le_add_right _ _
    | exact Nat.le_refl _)

theorem State.drainToSieve_keeps {a s : State} {x0 x1 x2 x3 x4} (h : State.Keeps a s) :
    State.Keeps a (State.drainToSieve s x0 x1 x2 x3 x4) := by
  unfold State.drainToSieve
  with_reducible repeat' (first
    | exact h | assumption | apply drainParts_keeps | apply keeps_foldl | apply keeps_ite | apply_assumption
    | dsimp only | split | intro _ _ _ | intro _ _ | exact Nat.le_max_left _ _ | exact Nat.le_add_right _ _
    | exact Nat.le_refl _)

theorem State.drainRow_keeps {a s : State} {x0 x1 x2} (h : State.Keeps a s) :
    State.Keeps a (State.drainRow s x0 x1 x2) := by
  unfold State.drainRow
  with_reducible repeat' (first
    | exact h | assumption | apply State.drainToSieve_keeps | apply State.setLoom_keeps | apply State.checkFault_keeps
    | apply keeps_foldl | apply keeps_ite | apply_assumption | dsimp only | split | intro _ _ _ | intro _ _
    | exact Nat.le_max_left _ _ | exact Nat.le_add_right _ _ | exact Nat.le_refl _)

theorem drainHalf_keeps {a s : State} {x0 x1 x2 x3 x4} (h : State.Keeps a s) :
    State.Keeps a (drainHalf x0 x1 x2 x3 x4 s) := by
  fun_induction drainHalf x0 x1 x2 x3 x4 s
  with_reducible repeat' (first
    | exact h | assumption | apply State.drainRow_keeps | apply keeps_foldl | apply keeps_ite | apply_assumption
    | dsimp only | split | intro _ _ _ | intro _ _ | exact Nat.le_max_left _ _ | exact Nat.le_add_right _ _
    | exact Nat.le_refl _)

theorem State.passFlip_keeps {a s : State} {x0 x1 x2 x3 x4} (h : State.Keeps a s) :
    State.Keeps a (State.passFlip s x0 x1 x2 x3 x4) := by
  unfold State.passFlip
  with_reducible repeat' (first
    | exact h | assumption | apply drainHalf_keeps | apply State.setLoom_keeps | apply keeps_foldl | apply keeps_ite
    | apply_assumption | dsimp only | split | intro _ _ _ | intro _ _ | exact Nat.le_max_left _ _
    | exact Nat.le_add_right _ _ | exact Nat.le_refl _)

theorem State.hearthFill_keeps {a s : State} {x0 x1 x2 x3} (h : State.Keeps a s) :
    State.Keeps a (State.hearthFill s x0 x1 x2 x3) := by
  unfold State.hearthFill
  with_reducible repeat' (first
    | exact h | assumption | apply State.events_keeps | apply keeps_foldl | apply keeps_ite | apply_assumption
    | dsimp only | split | intro _ _ _ | intro _ _ | exact Nat.le_max_left _ _ | exact Nat.le_add_right _ _
    | exact Nat.le_refl _)

theorem execRampDown_keeps {a s : State} {x0 x1 x2} (h : State.Keeps a s) : KeepsOut a (execRampDown x0 x1 x2 s) := by
  unfold execRampDown
  with_reducible repeat' (first
    | apply keeps_next | exact keeps_fault _ | exact h | assumption | apply State.hearthFill_keeps
    | apply State.setLoom_keeps | apply keeps_foldl | apply keepsOut_ite | apply keeps_ite | apply_assumption
    | dsimp only | split | intro _ _ _ | intro _ _ | exact Nat.le_max_left _ _ | exact Nat.le_add_right _ _
    | exact Nat.le_refl _)

theorem State.loomReject_keeps {a s : State} {x0 x1 x2 x3 x4} (h : State.Keeps a s) :
    State.Keeps a (State.loomReject s x0 x1 x2 x3 x4) := by
  unfold State.loomReject
  with_reducible repeat' (first
    | exact h | assumption | apply State.checkFault_keeps | apply State.setLoom_keeps | apply keeps_foldl
    | apply keeps_ite | apply_assumption | dsimp only | split | intro _ _ _ | intro _ _ | exact Nat.le_max_left _ _
    | exact Nat.le_add_right _ _ | exact Nat.le_refl _)

theorem maskRows_keeps {a s : State} {x0 x1 x2 x3 x4} (h : State.Keeps a s) :
    State.Keeps a (maskRows x0 x1 x2 x3 x4 s) := by
  fun_induction maskRows x0 x1 x2 x3 x4 s
  with_reducible repeat' (first
    | exact h | assumption | apply State.drainToSieve_keeps | apply keeps_foldl | apply keeps_ite | apply_assumption
    | dsimp only | split | intro _ _ _ | intro _ _ | exact Nat.le_max_left _ _ | exact Nat.le_add_right _ _
    | exact Nat.le_refl _)

theorem State.passSkip_keeps {a s : State} {x0 x1 x2 x3} (h : State.Keeps a s) :
    State.Keeps a (State.passSkip s x0 x1 x2 x3) := by
  unfold State.passSkip
  with_reducible repeat' (first
    | exact h | assumption | apply State.setLoom_keeps | apply maskRows_keeps | apply State.unitSignal_keeps
    | apply keeps_foldl | apply keeps_ite | apply_assumption | dsimp only | split | intro _ _ _ | intro _ _
    | exact Nat.le_max_left _ _ | exact Nat.le_add_right _ _ | exact Nat.le_refl _)

theorem State.passEnd_keeps {a s : State} {x0 x1 x2 x3 x4} (h : State.Keeps a s) :
    State.Keeps a (State.passEnd s x0 x1 x2 x3 x4) := by
  unfold State.passEnd
  with_reducible repeat' (first
    | exact h | assumption | apply State.bump_keeps | apply State.hearthFill_keeps | apply State.setLoom_keeps
    | apply keeps_foldl | apply keeps_ite | apply_assumption | dsimp only | split | intro _ _ _ | intro _ _
    | exact Nat.le_max_left _ _ | exact Nat.le_add_right _ _ | exact Nat.le_refl _)

theorem State.passIssue_keeps {a s : State} {x0 x1 x2 x3 x4} (h : State.Keeps a s) :
    State.Keeps a (State.passIssue s x0 x1 x2 x3 x4) := by
  unfold State.passIssue
  with_reducible repeat' (first
    | exact h | assumption | apply State.passFlip_keeps | apply State.setLoom_keeps | apply State.events_keeps
    | apply State.event_keeps | apply State.bump_keeps | apply State.passEnd_keeps | apply keeps_foldl
    | apply keeps_ite | apply_assumption | dsimp only | split | intro _ _ _ | intro _ _ | exact Nat.le_max_left _ _
    | exact Nat.le_add_right _ _ | exact Nat.le_refl _)

theorem execPass_keeps {a s : State} {x0 x1 x2} (h : State.Keeps a s) : KeepsOut a (execPass x0 x1 x2 s) := by
  unfold execPass
  with_reducible repeat' (first
    | apply keeps_next | exact keeps_fault _ | exact h | assumption | apply State.loomReject_keeps
    | apply State.passSkip_keeps | apply State.passIssue_keeps | apply keeps_foldl | apply keepsOut_ite
    | apply keeps_ite | apply_assumption | dsimp only | split | intro _ _ _ | intro _ _ | exact Nat.le_max_left _ _
    | exact Nat.le_add_right _ _ | exact Nat.le_refl _)

theorem State.retire_keeps {a s : State} {x0 x1 x2 x3} (h : State.Keeps a s) :
    State.Keeps a (State.retire s x0 x1 x2 x3) := by
  unfold State.retire
  with_reducible repeat' (first
    | exact h | assumption | apply State.bump64_keeps | apply State.setLoom_keeps | apply State.unitSignal_keeps
    | apply keeps_foldl | apply keeps_ite | apply_assumption | dsimp only | split | intro _ _ _ | intro _ _
    | exact Nat.le_max_left _ _ | exact Nat.le_add_right _ _ | exact Nat.le_refl _)

theorem execInstructionRetire_keeps {a s : State} {x0 x1 x2} (h : State.Keeps a s) :
    KeepsOut a (execInstructionRetire x0 x1 x2 s) := by
  unfold execInstructionRetire
  with_reducible repeat' (first
    | apply keeps_next | exact keeps_fault _ | exact h | assumption | apply State.retire_keeps | apply keeps_foldl
    | apply keepsOut_ite | apply keeps_ite | apply_assumption | dsimp only | split | intro _ _ _ | intro _ _
    | exact Nat.le_max_left _ _ | exact Nat.le_add_right _ _ | exact Nat.le_refl _)

theorem State.turnMarker_keeps {a s : State} {x0 x1 x2} (h : State.Keeps a s) :
    State.Keeps a (State.turnMarker s x0 x1 x2) := by
  unfold State.turnMarker
  with_reducible repeat' (first
    | exact h | assumption | apply State.hearthFill_keeps | apply State.bump_keeps | apply State.setLoom_keeps
    | apply keeps_foldl | apply keeps_ite | apply_assumption | dsimp only | split | intro _ _ _ | intro _ _
    | exact Nat.le_max_left _ _ | exact Nat.le_add_right _ _ | exact Nat.le_refl _)

theorem State.replay_keeps {a s : State} {x0 x1 x2 x3} (h : State.Keeps a s) :
    State.Keeps a (State.replay s x0 x1 x2 x3) := by
  unfold State.replay
  with_reducible repeat' (first
    | exact h | assumption | apply State.setLoom_keeps | apply State.turnMarker_keeps | apply State.events_keeps
    | apply State.passEnd_keeps | apply keeps_foldl | apply keeps_ite | apply_assumption | dsimp only | split
    | intro _ _ _ | intro _ _ | exact Nat.le_max_left _ _ | exact Nat.le_add_right _ _ | exact Nat.le_refl _)

theorem execReplayPass_keeps {a s : State} {x0 x1 x2} (h : State.Keeps a s) :
    KeepsOut a (execReplayPass x0 x1 x2 s) := by
  unfold execReplayPass
  with_reducible repeat' (first
    | apply keeps_next | exact keeps_fault _ | exact h | assumption | apply State.replay_keeps | apply keeps_foldl
    | apply keepsOut_ite | apply keeps_ite | apply_assumption | dsimp only | split | intro _ _ _ | intro _ _
    | exact Nat.le_max_left _ _ | exact Nat.le_add_right _ _ | exact Nat.le_refl _)

theorem execRampStep_keeps {a s : State} {x0 x1 x2} (h : State.Keeps a s) : KeepsOut a (execRampStep x0 x1 x2 s) := by
  unfold execRampStep
  with_reducible repeat' (first
    | apply keeps_next | exact keeps_fault _ | exact h | assumption | apply State.setLoom_keeps | apply keeps_foldl
    | apply keepsOut_ite | apply keeps_ite | apply_assumption | dsimp only | split | intro _ _ _ | intro _ _
    | exact Nat.le_max_left _ _ | exact Nat.le_add_right _ _ | exact Nat.le_refl _)

theorem execFenceIssue_keeps {a s : State} {x0 x1 x2} (h : State.Keeps a s) :
    KeepsOut a (execFenceIssue x0 x1 x2 s) := by
  unfold execFenceIssue
  with_reducible repeat' (first
    | apply keeps_next | exact keeps_fault _ | exact h | assumption | apply State.loomReject_keeps
    | apply State.setLoom_keeps | apply State.unitSignal_keeps | apply keeps_foldl | apply keepsOut_ite
    | apply keeps_ite | apply_assumption | dsimp only | split | intro _ _ _ | intro _ _ | exact Nat.le_max_left _ _
    | exact Nat.le_add_right _ _ | exact Nat.le_refl _)

theorem execRampGrant_keeps {a s : State} {x0 x1 x2} (h : State.Keeps a s) : KeepsOut a (execRampGrant x0 x1 x2 s) := by
  unfold execRampGrant
  with_reducible repeat' (first
    | apply keeps_next | exact keeps_fault _ | exact h | assumption | apply State.withPower_keeps
    | apply State.passTo_keeps | apply State.setLoom_keeps | apply keeps_foldl | apply keepsOut_ite | apply keeps_ite
    | apply_assumption | dsimp only | split | intro _ _ _ | intro _ _ | exact Nat.le_max_left _ _
    | exact Nat.le_add_right _ _ | exact Nat.le_refl _)

theorem execDrain_keeps {a s : State} {x0 x1 x2} (h : State.Keeps a s) : KeepsOut a (execDrain x0 x1 x2 s) := by
  unfold execDrain
  with_reducible repeat' (first
    | apply keeps_next | exact keeps_fault _ | exact h | assumption | apply State.drainRow_keeps | apply keeps_foldl
    | apply keepsOut_ite | apply keeps_ite | apply_assumption | dsimp only | split | intro _ _ _ | intro _ _
    | exact Nat.le_max_left _ _ | exact Nat.le_add_right _ _ | exact Nat.le_refl _)

theorem execRampUp_keeps {a s : State} {x0 x1 x2} (h : State.Keeps a s) : KeepsOut a (execRampUp x0 x1 x2 s) := by
  unfold execRampUp
  with_reducible repeat' (first
    | apply keeps_next | exact keeps_fault _ | exact h | assumption | apply State.setLoom_keeps | apply keeps_foldl
    | apply keepsOut_ite | apply keeps_ite | apply_assumption | dsimp only | split | intro _ _ _ | intro _ _
    | exact Nat.le_max_left _ _ | exact Nat.le_add_right _ _ | exact Nat.le_refl _)

end Sys2Proof.Machine
end

