-- ==== Sys2Proof/Laws/KeepsPages.lean ====
section
/-! SUPPORT. State.Keeps over the definitions of Machine/Pages.lean. -/

namespace Sys2Proof.Machine

theorem State.readDirect_keeps {a s : State} {x0 x1 x2} (h : State.Keeps a s) :
    State.Keeps a (State.readDirect s x0 x1 x2).2 := by
  unfold State.readDirect
  with_reducible repeat' (first
    | exact h | assumption | apply State.withLatch_keeps | apply State.setReg_keeps | apply keeps_foldl
    | apply keeps_snd_ite | apply keeps_ite | apply_assumption | dsimp only | split | intro _ _ _ | intro _ _
    | exact Nat.le_max_left _ _ | exact Nat.le_add_right _ _ | exact Nat.le_refl _)

theorem State.busRead_keeps {a s : State} {x0 x1} (h : State.Keeps a s) : State.Keeps a (State.busRead s x0 x1).2 := by
  unfold State.busRead
  with_reducible repeat' (first
    | exact h | assumption | refine keeps_snd (by assumption) (State.readDirect_keeps ?_)
    | apply State.readDirect_keeps | apply keeps_foldl | apply keeps_snd_ite | apply keeps_ite | apply_assumption
    | dsimp only | split | intro _ _ _ | intro _ _ | exact Nat.le_max_left _ _ | exact Nat.le_add_right _ _
    | exact Nat.le_refl _)

theorem State.readCmd_keeps {a s : State} {x0 x1 x2} (h : State.Keeps a s) :
    State.Keeps a (State.readCmd s x0 x1 x2) := by
  unfold State.readCmd
  with_reducible repeat' (first
    | exact h | assumption | apply State.respond_keeps | apply State.respondWords_keeps
    | refine keeps_snd (by assumption) (State.busRead_keeps ?_) | apply State.busRead_keeps | apply keeps_foldl
    | apply keeps_ite | apply_assumption | dsimp only | split | intro _ _ _ | intro _ _ | exact Nat.le_max_left _ _
    | exact Nat.le_add_right _ _ | exact Nat.le_refl _)

theorem execFieldMissRead_keeps {a s : State} {x0 x1} (h : State.Keeps a s) :
    KeepsOut a (execFieldMissRead x0 x1 s) := by
  unfold execFieldMissRead
  with_reducible repeat' (first
    | apply keeps_next | exact keeps_fault _ | exact h | assumption | apply State.readCmd_keeps | apply keeps_foldl
    | apply keepsOut_ite | apply keeps_ite | apply_assumption | dsimp only | split | intro _ _ _ | intro _ _
    | exact Nat.le_max_left _ _ | exact Nat.le_add_right _ _ | exact Nat.le_refl _)

theorem execMerNowLo_keeps {a s : State} {x0} (h : State.Keeps a s) : KeepsOut a (execMerNowLo x0 s) := by
  unfold execMerNowLo
  with_reducible repeat' (first
    | apply keeps_next | exact keeps_fault _ | exact h | assumption | apply State.readCmd_keeps | apply keeps_foldl
    | apply keepsOut_ite | apply keeps_ite | apply_assumption | dsimp only | split | intro _ _ _ | intro _ _
    | exact Nat.le_max_left _ _ | exact Nat.le_add_right _ _ | exact Nat.le_refl _)

theorem execCounterLoRead_keeps {a s : State} {x0 x1} (h : State.Keeps a s) :
    KeepsOut a (execCounterLoRead x0 x1 s) := by
  unfold execCounterLoRead
  with_reducible repeat' (first
    | apply keeps_next | exact keeps_fault _ | exact h | assumption | apply State.readCmd_keeps | apply keeps_foldl
    | apply keepsOut_ite | apply keeps_ite | apply_assumption | dsimp only | split | intro _ _ _ | intro _ _
    | exact Nat.le_max_left _ _ | exact Nat.le_add_right _ _ | exact Nat.le_refl _)

end Sys2Proof.Machine
end

