-- ==== Sys2Proof/Laws/KeepsPldm.lean ====
section
/-! SUPPORT. State.Keeps over the definitions of Machine/Pldm.lean. -/

namespace Sys2Proof.Machine

theorem State.pldm_keeps {a s : State} {x0 x1} (h : State.Keeps a s) : KeepsOut a (State.pldm s x0 x1) := by
  unfold State.pldm
  with_reducible repeat' (first
    | apply keeps_next | exact keeps_fault _ | exact h | assumption | apply State.respond_keeps | apply keeps_foldl
    | apply keepsOut_ite | apply keeps_ite | apply_assumption | dsimp only | split | intro _ _ _ | intro _ _
    | exact Nat.le_max_left _ _ | exact Nat.le_add_right _ _ | exact Nat.le_refl _)

theorem execGetPldmCommands_keeps {a s : State} {x0} (h : State.Keeps a s) : KeepsOut a (execGetPldmCommands x0 s) := by
  unfold execGetPldmCommands
  with_reducible repeat' (first
    | apply keeps_next | exact keeps_fault _ | exact h | assumption | apply State.pldm_keeps | apply keeps_foldl
    | apply keepsOut_ite | apply keeps_ite | apply_assumption | dsimp only | split | intro _ _ _ | intro _ _
    | exact Nat.le_max_left _ _ | exact Nat.le_add_right _ _ | exact Nat.le_refl _)

theorem State.pldmMonitor_keeps {a s : State} {x0 x1} (h : State.Keeps a s) :
    KeepsOut a (State.pldmMonitor s x0 x1) := by
  unfold State.pldmMonitor
  with_reducible repeat' (first
    | apply keeps_next | exact keeps_fault _ | exact h | assumption | apply State.pldm_keeps | apply keeps_foldl
    | apply keepsOut_ite | apply keeps_ite | apply_assumption | dsimp only | split | intro _ _ _ | intro _ _
    | exact Nat.le_max_left _ _ | exact Nat.le_add_right _ _ | exact Nat.le_refl _)

theorem execGetSensorReading_keeps {a s : State} {x0} (h : State.Keeps a s) :
    KeepsOut a (execGetSensorReading x0 s) := by
  unfold execGetSensorReading
  with_reducible repeat' (first
    | apply keeps_next | exact keeps_fault _ | exact h | assumption | apply State.pldmMonitor_keeps
    | apply keeps_foldl | apply keepsOut_ite | apply keeps_ite | apply_assumption | dsimp only | split | intro _ _ _
    | intro _ _ | exact Nat.le_max_left _ _ | exact Nat.le_add_right _ _ | exact Nat.le_refl _)

theorem execGetNumericEffecterValue_keeps {a s : State} {x0} (h : State.Keeps a s) :
    KeepsOut a (execGetNumericEffecterValue x0 s) := by
  unfold execGetNumericEffecterValue
  with_reducible repeat' (first
    | apply keeps_next | exact keeps_fault _ | exact h | assumption | apply State.pldmMonitor_keeps
    | apply keeps_foldl | apply keepsOut_ite | apply keeps_ite | apply_assumption | dsimp only | split | intro _ _ _
    | intro _ _ | exact Nat.le_max_left _ _ | exact Nat.le_add_right _ _ | exact Nat.le_refl _)

theorem execGetTid_keeps {a s : State} (h : State.Keeps a s) : KeepsOut a (execGetTid s) := by
  unfold execGetTid
  with_reducible repeat' (first
    | apply keeps_next | exact keeps_fault _ | exact h | assumption | apply State.pldm_keeps | apply keeps_foldl
    | apply keepsOut_ite | apply keeps_ite | apply_assumption | dsimp only | split | intro _ _ _ | intro _ _
    | exact Nat.le_max_left _ _ | exact Nat.le_add_right _ _ | exact Nat.le_refl _)

theorem execSetNumericEffecterValue_keeps {a s : State} {x0 x1} (h : State.Keeps a s) :
    KeepsOut a (execSetNumericEffecterValue x0 x1 s) := by
  unfold execSetNumericEffecterValue
  with_reducible repeat' (first
    | apply keeps_next | exact keeps_fault _ | exact h | assumption | apply State.pldmMonitor_keeps
    | apply State.busWrite_keeps | apply keeps_foldl | apply keepsOut_ite | apply keeps_ite | apply_assumption
    | dsimp only | split | intro _ _ _ | intro _ _ | exact Nat.le_max_left _ _ | exact Nat.le_add_right _ _
    | exact Nat.le_refl _)

theorem execGetPldmTypes_keeps {a s : State} (h : State.Keeps a s) : KeepsOut a (execGetPldmTypes s) := by
  unfold execGetPldmTypes
  with_reducible repeat' (first
    | apply keeps_next | exact keeps_fault _ | exact h | assumption | apply State.pldm_keeps | apply keeps_foldl
    | apply keepsOut_ite | apply keeps_ite | apply_assumption | dsimp only | split | intro _ _ _ | intro _ _
    | exact Nat.le_max_left _ _ | exact Nat.le_add_right _ _ | exact Nat.le_refl _)

theorem execGetPldmVersion_keeps {a s : State} {x0} (h : State.Keeps a s) : KeepsOut a (execGetPldmVersion x0 s) := by
  unfold execGetPldmVersion
  with_reducible repeat' (first
    | apply keeps_next | exact keeps_fault _ | exact h | assumption | apply State.pldm_keeps | apply keeps_foldl
    | apply keepsOut_ite | apply keeps_ite | apply_assumption | dsimp only | split | intro _ _ _ | intro _ _
    | exact Nat.le_max_left _ _ | exact Nat.le_add_right _ _ | exact Nat.le_refl _)

theorem execGetPdrRepositoryInfo_keeps {a s : State} (h : State.Keeps a s) :
    KeepsOut a (execGetPdrRepositoryInfo s) := by
  unfold execGetPdrRepositoryInfo
  with_reducible repeat' (first
    | apply keeps_next | exact keeps_fault _ | exact h | assumption | apply State.pldmMonitor_keeps
    | apply keeps_foldl | apply keepsOut_ite | apply keeps_ite | apply_assumption | dsimp only | split | intro _ _ _
    | intro _ _ | exact Nat.le_max_left _ _ | exact Nat.le_add_right _ _ | exact Nat.le_refl _)

theorem execGetPdr_keeps {a s : State} {x0} (h : State.Keeps a s) : KeepsOut a (execGetPdr x0 s) := by
  unfold execGetPdr
  with_reducible repeat' (first
    | apply keeps_next | exact keeps_fault _ | exact h | assumption | apply State.pldmMonitor_keeps
    | apply keeps_foldl | apply keepsOut_ite | apply keeps_ite | apply_assumption | dsimp only | split | intro _ _ _
    | intro _ _ | exact Nat.le_max_left _ _ | exact Nat.le_add_right _ _ | exact Nat.le_refl _)

theorem execGetStateSensorReadings_keeps {a s : State} {x0} (h : State.Keeps a s) :
    KeepsOut a (execGetStateSensorReadings x0 s) := by
  unfold execGetStateSensorReadings
  with_reducible repeat' (first
    | apply keeps_next | exact keeps_fault _ | exact h | assumption | apply State.pldmMonitor_keeps
    | apply keeps_foldl | apply keepsOut_ite | apply keeps_ite | apply_assumption | dsimp only | split | intro _ _ _
    | intro _ _ | exact Nat.le_max_left _ _ | exact Nat.le_add_right _ _ | exact Nat.le_refl _)

end Sys2Proof.Machine
end

