-- ==== Sys2Proof/Laws/KeepsSieve.lean ====
section
/-! SUPPORT. State.Keeps over the definitions of Machine/Sieve.lean. -/

namespace Sys2Proof.Machine

theorem State.sievePop_keeps {a s : State} {x0 x1} (h : State.Keeps a s) : State.Keeps a (State.sievePop s x0 x1) := by
  unfold State.sievePop
  with_reducible repeat' (first
    | exact h | assumption | apply State.bump64_keeps | apply State.setSieve_keeps | apply keeps_foldl
    | apply keeps_ite | apply_assumption | dsimp only | split | intro _ _ _ | intro _ _ | exact Nat.le_max_left _ _
    | exact Nat.le_add_right _ _ | exact Nat.le_refl _)

theorem State.sieveRun_keeps {a s : State} {d h op f} (k : State.Keeps a s) (hf : ∀ c w, KeepsOpt a (f c w)) :
    State.Keeps a (State.sieveRun s d h op f) := by
  unfold State.sieveRun
  with_reducible repeat' (first
    | assumption | apply State.sievePop_keeps | apply State.checkFault_keeps | apply State.setSieve_keeps | apply keeps_ite
    | dsimp only | split | refine keepsOpt_elim (by assumption) (keepsOpt_bindV fun c => hf c _))

theorem State.opDone_keeps {a s : State} {x0 x1 x2} (h : State.Keeps a s) :
    State.Keeps a (State.opDone s x0 x1 x2) := by
  unfold State.opDone
  with_reducible repeat' (first
    | exact h | assumption | apply State.setTdata_keeps | apply State.events_keeps | apply keeps_foldl
    | apply keeps_ite | apply_assumption | dsimp only | split | intro _ _ _ | intro _ _ | exact Nat.le_max_left _ _
    | exact Nat.le_add_right _ _ | exact Nat.le_refl _)

theorem State.mapInts_keeps {a s : State} {x0 x1 x2 x3} (h : State.Keeps a s) :
    KeepsOpt a (State.mapInts s x0 x1 x2 x3) := by
  unfold State.mapInts
  with_reducible repeat' (first
    | apply keepsOpt_some | exact keepsOpt_none | exact h | assumption | apply State.opDone_keeps | apply keeps_foldl
    | apply keepsOpt_ite | apply keepsOpt_map | apply keepsOpt_bind | intro _ _ | apply keeps_ite | apply_assumption
    | dsimp only | split | intro _ _ _ | intro _ _ | exact Nat.le_max_left _ _ | exact Nat.le_add_right _ _
    | exact Nat.le_refl _)

theorem State.countViews_keeps {a s : State} {x0 x1 x2} (h : State.Keeps a s) :
    State.Keeps a (State.countViews s x0 x1 x2) := by
  fun_induction State.countViews s x0 x1 x2
  with_reducible repeat' (first
    | exact h | assumption | apply State.bump_keeps | apply keeps_foldl | apply keeps_ite | apply_assumption
    | dsimp only | split | intro _ _ _ | intro _ _ | exact Nat.le_max_left _ _ | exact Nat.le_add_right _ _
    | exact Nat.le_refl _)

theorem State.mapSources_keeps {a s : State} {x0 x1 x2 x3} (h : State.Keeps a s) :
    KeepsOpt a (State.mapSources s x0 x1 x2 x3) := by
  unfold State.mapSources
  with_reducible repeat' (first
    | apply keepsOpt_some | exact keepsOpt_none | exact h | assumption | apply State.opDone_keeps
    | apply State.countViews_keeps | apply keeps_foldl | apply keepsOpt_ite | apply keepsOpt_map | apply keepsOpt_bind
    | intro _ _ | apply keeps_ite | apply_assumption | dsimp only | split | intro _ _ _ | intro _ _
    | exact Nat.le_max_left _ _ | exact Nat.le_add_right _ _ | exact Nat.le_refl _)

theorem State.addOp_keeps {a s : State} {x0 x1} (h : State.Keeps a s) : KeepsOpt a (State.addOp s x0 x1) := by
  unfold State.addOp
  with_reducible repeat' (first
    | apply keepsOpt_some | exact keepsOpt_none | exact h | assumption
    | refine keepsOpt_elim (by assumption) (State.mapInts_keeps ?_) | apply State.mapInts_keeps
    | refine keepsOpt_elim (by assumption) (State.mapSources_keeps ?_) | apply State.mapSources_keeps
    | apply keeps_foldl | apply keepsOpt_ite | apply keepsOpt_map | apply keepsOpt_bind | intro _ _ | apply keeps_ite
    | apply_assumption | dsimp only | split | intro _ _ _ | intro _ _ | exact Nat.le_max_left _ _
    | exact Nat.le_add_right _ _ | exact Nat.le_refl _)

theorem execAdd_keeps {a s : State} {x0 x1} (h : State.Keeps a s) : KeepsOut a (execAdd x0 x1 s) := by
  unfold execAdd
  with_reducible repeat' (first
    | apply keeps_next | exact keeps_fault _ | exact h | assumption | apply State.sieveRun_keeps
    | refine keepsOpt_elim (by assumption) (State.addOp_keeps ?_) | apply State.addOp_keeps | apply keeps_foldl
    | apply keepsOut_ite | apply keepsOpt_some | exact keepsOpt_none | apply keeps_ite | apply_assumption | dsimp only
    | split | intro _ _ _ | intro _ _ | exact Nat.le_max_left _ _ | exact Nat.le_add_right _ _ | exact Nat.le_refl _)

theorem State.sieve3_keeps {a s : State} {x0 x1 x2 x3} (h : State.Keeps a s) :
    State.Keeps a (State.sieve3 s x0 x1 x2 x3) := by
  unfold State.sieve3
  with_reducible repeat' (first
    | exact h | assumption | apply State.sieveRun_keeps
    | refine keepsOpt_elim (by assumption) (State.mapSources_keeps ?_) | apply State.mapSources_keeps
    | apply keeps_foldl | apply keepsOpt_some | exact keepsOpt_none | apply keeps_ite | apply_assumption | dsimp only
    | split | intro _ _ _ | intro _ _ | exact Nat.le_max_left _ _ | exact Nat.le_add_right _ _ | exact Nat.le_refl _)

theorem execFma_keeps {a s : State} {x0 x1} (h : State.Keeps a s) : KeepsOut a (execFma x0 x1 s) := by
  unfold execFma
  with_reducible repeat' (first
    | apply keeps_next | exact keeps_fault _ | exact h | assumption | apply State.sieve3_keeps | apply keeps_foldl
    | apply keepsOut_ite | apply keeps_ite | apply_assumption | dsimp only | split | intro _ _ _ | intro _ _
    | exact Nat.le_max_left _ _ | exact Nat.le_add_right _ _ | exact Nat.le_refl _)

theorem execSieveNop_keeps {a s : State} {x0 x1} (h : State.Keeps a s) : KeepsOut a (execSieveNop x0 x1 s) := by
  unfold execSieveNop
  with_reducible repeat' (first
    | apply keeps_next | exact keeps_fault _ | exact h | assumption | apply State.sieveRun_keeps | apply keeps_foldl
    | apply keepsOut_ite | apply keepsOpt_some | exact keepsOpt_none | apply keeps_ite | apply_assumption | dsimp only
    | split | intro _ _ _ | intro _ _ | exact Nat.le_max_left _ _ | exact Nat.le_add_right _ _ | exact Nat.le_refl _)

theorem State.reduceOp_keeps {a s : State} {x0 x1 x2} (h : State.Keeps a s) :
    KeepsOpt a (State.reduceOp x0 s x1 x2) := by
  unfold State.reduceOp
  with_reducible repeat' (first
    | apply keepsOpt_some | exact keepsOpt_none | exact h | assumption | apply State.opDone_keeps
    | apply State.countViews_keeps | apply keeps_foldl | apply keepsOpt_ite | apply keepsOpt_map | apply keepsOpt_bind
    | intro _ _ | apply keeps_ite | apply_assumption | dsimp only | split | intro _ _ _ | intro _ _
    | exact Nat.le_max_left _ _ | exact Nat.le_add_right _ _ | exact Nat.le_refl _)

theorem execArgmax_keeps {a s : State} {x0 x1} (h : State.Keeps a s) : KeepsOut a (execArgmax x0 x1 s) := by
  unfold execArgmax
  with_reducible repeat' (first
    | apply keeps_next | exact keeps_fault _ | exact h | assumption | apply State.sieveRun_keeps
    | refine keepsOpt_elim (by assumption) (State.reduceOp_keeps ?_) | apply State.reduceOp_keeps | apply keeps_foldl
    | apply keepsOut_ite | apply keepsOpt_some | exact keepsOpt_none | apply keeps_ite | apply_assumption | dsimp only
    | split | intro _ _ _ | intro _ _ | exact Nat.le_max_left _ _ | exact Nat.le_add_right _ _ | exact Nat.le_refl _)

theorem State.attnCells_keeps {a s : State} {x0 x1 x2} (h : State.Keeps a s) :
    State.Keeps a (State.attnCells s x0 x1 x2) := by
  unfold State.attnCells
  with_reducible repeat' (first
    | exact h | assumption | apply State.setTdata_keeps | apply keeps_foldl | apply keeps_ite | apply_assumption
    | dsimp only | split | intro _ _ _ | intro _ _ | exact Nat.le_max_left _ _ | exact Nat.le_add_right _ _
    | exact Nat.le_refl _)

theorem State.attnStep_keeps {a s : State} {x0 x1 x2 x3 x4} (h : State.Keeps a s) :
    State.Keeps a (State.attnStep s x0 x1 x2 x3 x4) := by
  unfold State.attnStep
  with_reducible repeat' (first
    | exact h | assumption | apply State.attnCells_keeps | apply State.opDone_keeps | apply keeps_foldl
    | apply keeps_ite | apply_assumption | dsimp only | split | intro _ _ _ | intro _ _ | exact Nat.le_max_left _ _
    | exact Nat.le_add_right _ _ | exact Nat.le_refl _)

theorem State.putStats_keeps {a s : State} {x0 x1 x2} (h : State.Keeps a s) :
    State.Keeps a (State.putStats s x0 x1 x2) := by
  unfold State.putStats
  with_reducible repeat' (first
    | exact h | assumption | apply State.setTdata_keeps | apply keeps_foldl | apply keeps_ite | apply_assumption
    | dsimp only | split | intro _ _ _ | intro _ _ | exact Nat.le_max_left _ _ | exact Nat.le_add_right _ _
    | exact Nat.le_refl _)

theorem State.bindStats_keeps {a s : State} {x0 x1 x2} (h : State.Keeps a s) :
    State.Keeps a (State.bindStats s x0 x1 x2) := by
  unfold State.bindStats
  with_reducible repeat' (first
    | exact h | assumption | apply State.putStats_keeps | apply keeps_foldl | apply keeps_ite | apply_assumption
    | dsimp only | split | intro _ _ _ | intro _ _ | exact Nat.le_max_left _ _ | exact Nat.le_add_right _ _
    | exact Nat.le_refl _)

theorem State.smaxOp_keeps {a s : State} {x0 x1 x2} (h : State.Keeps a s) : KeepsOpt a (State.smaxOp x0 s x1 x2) := by
  unfold State.smaxOp
  with_reducible repeat' (first
    | apply keepsOpt_some | exact keepsOpt_none | exact h | assumption | apply State.countViews_keeps
    | apply State.attnStep_keeps | apply State.bindStats_keeps | apply State.opDone_keeps | apply keeps_foldl
    | apply keepsOpt_ite | apply keepsOpt_map | apply keepsOpt_bind | intro _ _ | apply keeps_ite | apply_assumption
    | dsimp only | split | intro _ _ _ | intro _ _ | exact Nat.le_max_left _ _ | exact Nat.le_add_right _ _
    | exact Nat.le_refl _)

theorem execSmaxRun_keeps {a s : State} {x0 x1} (h : State.Keeps a s) : KeepsOut a (execSmaxRun x0 x1 s) := by
  unfold execSmaxRun
  with_reducible repeat' (first
    | apply keeps_next | exact keeps_fault _ | exact h | assumption | apply State.sieveRun_keeps
    | refine keepsOpt_elim (by assumption) (State.smaxOp_keeps ?_) | apply State.smaxOp_keeps | apply keeps_foldl
    | apply keepsOut_ite | apply keepsOpt_some | exact keepsOpt_none | apply keeps_ite | apply_assumption | dsimp only
    | split | intro _ _ _ | intro _ _ | exact Nat.le_max_left _ _ | exact Nat.le_add_right _ _ | exact Nat.le_refl _)

theorem State.sieve1_keeps {a s : State} {x0 x1 x2 x3} (h : State.Keeps a s) :
    State.Keeps a (State.sieve1 s x0 x1 x2 x3) := by
  unfold State.sieve1
  with_reducible repeat' (first
    | exact h | assumption | apply State.sieveRun_keeps
    | refine keepsOpt_elim (by assumption) (State.mapSources_keeps ?_) | apply State.mapSources_keeps
    | apply keeps_foldl | apply keepsOpt_some | exact keepsOpt_none | apply keeps_ite | apply_assumption | dsimp only
    | split | intro _ _ _ | intro _ _ | exact Nat.le_max_left _ _ | exact Nat.le_add_right _ _ | exact Nat.le_refl _)

theorem execSigmoid_keeps {a s : State} {x0 x1} (h : State.Keeps a s) : KeepsOut a (execSigmoid x0 x1 s) := by
  unfold execSigmoid
  with_reducible repeat' (first
    | apply keeps_next | exact keeps_fault _ | exact h | assumption | apply State.sieve1_keeps | apply keeps_foldl
    | apply keepsOut_ite | apply keeps_ite | apply_assumption | dsimp only | split | intro _ _ _ | intro _ _
    | exact Nat.le_max_left _ _ | exact Nat.le_add_right _ _ | exact Nat.le_refl _)

theorem State.convertOp_keeps {a s : State} {x0 x1} (h : State.Keeps a s) : KeepsOpt a (State.convertOp s x0 x1) := by
  unfold State.convertOp
  with_reducible repeat' (first
    | apply keepsOpt_some | exact keepsOpt_none | exact h | assumption
    | refine keepsOpt_elim (by assumption) (State.mapInts_keeps ?_) | apply State.mapInts_keeps
    | refine keepsOpt_elim (by assumption) (State.mapSources_keeps ?_) | apply State.mapSources_keeps
    | apply keeps_foldl | apply keepsOpt_ite | apply keepsOpt_map | apply keepsOpt_bind | intro _ _ | apply keeps_ite
    | apply_assumption | dsimp only | split | intro _ _ _ | intro _ _ | exact Nat.le_max_left _ _
    | exact Nat.le_add_right _ _ | exact Nat.le_refl _)

theorem State.attnEnd_keeps {a s : State} {x0 x1 x2 x3 x4} (h : State.Keeps a s) :
    State.Keeps a (State.attnEnd s x0 x1 x2 x3 x4) := by
  unfold State.attnEnd
  with_reducible repeat' (first
    | exact h | assumption | apply State.bindStats_keeps | apply State.opDone_keeps | apply State.countViews_keeps
    | apply State.attnCells_keeps | apply keeps_foldl | apply keeps_ite | apply_assumption | dsimp only | split
    | intro _ _ _ | intro _ _ | exact Nat.le_max_left _ _ | exact Nat.le_add_right _ _ | exact Nat.le_refl _)

theorem State.mulOp_keeps {a s : State} {x0 x1} (h : State.Keeps a s) : KeepsOpt a (State.mulOp s x0 x1) := by
  unfold State.mulOp
  with_reducible repeat' (first
    | apply keepsOpt_some | exact keepsOpt_none | exact h | assumption | apply State.attnEnd_keeps
    | refine keepsOpt_elim (by assumption) (State.mapSources_keeps ?_) | apply State.mapSources_keeps
    | apply keeps_foldl | apply keepsOpt_ite | apply keepsOpt_map | apply keepsOpt_bind | intro _ _ | apply keeps_ite
    | apply_assumption | dsimp only | split | intro _ _ _ | intro _ _ | exact Nat.le_max_left _ _
    | exact Nat.le_add_right _ _ | exact Nat.le_refl _)

theorem execMul_keeps {a s : State} {x0 x1} (h : State.Keeps a s) : KeepsOut a (execMul x0 x1 s) := by
  unfold execMul
  with_reducible repeat' (first
    | apply keeps_next | exact keeps_fault _ | exact h | assumption | apply State.sieveRun_keeps
    | refine keepsOpt_elim (by assumption) (State.mulOp_keeps ?_) | apply State.mulOp_keeps | apply keeps_foldl
    | apply keepsOut_ite | apply keepsOpt_some | exact keepsOpt_none | apply keeps_ite | apply_assumption | dsimp only
    | split | intro _ _ _ | intro _ _ | exact Nat.le_max_left _ _ | exact Nat.le_add_right _ _ | exact Nat.le_refl _)

theorem State.sieveHold_keeps {a s : State} {x0 x1} (h : State.Keeps a s) :
    State.Keeps a (State.sieveHold s x0 x1) := by
  unfold State.sieveHold
  with_reducible repeat' (first
    | exact h | assumption | apply State.errorWait_keeps | apply State.setSieve_keeps | apply State.sieveRun_keeps
    | apply keeps_foldl | apply keepsOpt_some | exact keepsOpt_none | apply keeps_ite | apply_assumption | dsimp only
    | split | intro _ _ _ | intro _ _ | exact Nat.le_max_left _ _ | exact Nat.le_add_right _ _ | exact Nat.le_refl _)

theorem execConvert_keeps {a s : State} {x0 x1} (h : State.Keeps a s) : KeepsOut a (execConvert x0 x1 s) := by
  unfold execConvert
  with_reducible repeat' (first
    | apply keeps_next | exact keeps_fault _ | exact h | assumption | apply State.sieveRun_keeps
    | refine keepsOpt_elim (by assumption) (State.convertOp_keeps ?_) | apply State.convertOp_keeps
    | apply keeps_foldl | apply keepsOut_ite | apply keepsOpt_some | exact keepsOpt_none | apply keeps_ite
    | apply_assumption | dsimp only | split | intro _ _ _ | intro _ _ | exact Nat.le_max_left _ _
    | exact Nat.le_add_right _ _ | exact Nat.le_refl _)

theorem execReciprocal_keeps {a s : State} {x0 x1} (h : State.Keeps a s) : KeepsOut a (execReciprocal x0 x1 s) := by
  unfold execReciprocal
  with_reducible repeat' (first
    | apply keeps_next | exact keeps_fault _ | exact h | assumption | apply State.sieve1_keeps | apply keeps_foldl
    | apply keepsOut_ite | apply keeps_ite | apply_assumption | dsimp only | split | intro _ _ _ | intro _ _
    | exact Nat.le_max_left _ _ | exact Nat.le_add_right _ _ | exact Nat.le_refl _)

theorem State.sieve2_keeps {a s : State} {x0 x1 x2 x3} (h : State.Keeps a s) :
    State.Keeps a (State.sieve2 s x0 x1 x2 x3) := by
  unfold State.sieve2
  with_reducible repeat' (first
    | exact h | assumption | apply State.sieveRun_keeps
    | refine keepsOpt_elim (by assumption) (State.mapSources_keeps ?_) | apply State.mapSources_keeps
    | apply keeps_foldl | apply keepsOpt_some | exact keepsOpt_none | apply keeps_ite | apply_assumption | dsimp only
    | split | intro _ _ _ | intro _ _ | exact Nat.le_max_left _ _ | exact Nat.le_add_right _ _ | exact Nat.le_refl _)

theorem execMin_keeps {a s : State} {x0 x1} (h : State.Keeps a s) : KeepsOut a (execMin x0 x1 s) := by
  unfold execMin
  with_reducible repeat' (first
    | apply keeps_next | exact keeps_fault _ | exact h | assumption | apply State.sieve2_keeps | apply keeps_foldl
    | apply keepsOut_ite | apply keeps_ite | apply_assumption | dsimp only | split | intro _ _ _ | intro _ _
    | exact Nat.le_max_left _ _ | exact Nat.le_add_right _ _ | exact Nat.le_refl _)

theorem State.gumbelOp_keeps {a s : State} {x0 x1} (h : State.Keeps a s) : KeepsOpt a (State.gumbelOp s x0 x1) := by
  unfold State.gumbelOp
  with_reducible repeat' (first
    | apply keepsOpt_some | exact keepsOpt_none | exact h | assumption | apply State.opDone_keeps
    | apply State.countViews_keeps | apply keeps_foldl | apply keepsOpt_ite | apply keepsOpt_map | apply keepsOpt_bind
    | intro _ _ | apply keeps_ite | apply_assumption | dsimp only | split | intro _ _ _ | intro _ _
    | exact Nat.le_max_left _ _ | exact Nat.le_add_right _ _ | exact Nat.le_refl _)

theorem execSelect_keeps {a s : State} {x0 x1} (h : State.Keeps a s) : KeepsOut a (execSelect x0 x1 s) := by
  unfold execSelect
  with_reducible repeat' (first
    | apply keeps_next | exact keeps_fault _ | exact h | assumption | apply State.sieve3_keeps | apply keeps_foldl
    | apply keepsOut_ite | apply keeps_ite | apply_assumption | dsimp only | split | intro _ _ _ | intro _ _
    | exact Nat.le_max_left _ _ | exact Nat.le_add_right _ _ | exact Nat.le_refl _)

theorem execSieveSignal_keeps {a s : State} {x0 x1} (h : State.Keeps a s) : KeepsOut a (execSieveSignal x0 x1 s) := by
  unfold execSieveSignal
  with_reducible repeat' (first
    | apply keeps_next | exact keeps_fault _ | exact h | assumption | apply State.sieveRun_keeps
    | apply State.unitSignal_keeps | apply keeps_foldl | apply keepsOut_ite | apply keepsOpt_some
    | exact keepsOpt_none | apply keeps_ite | apply_assumption | dsimp only | split | intro _ _ _ | intro _ _
    | exact Nat.le_max_left _ _ | exact Nat.le_add_right _ _ | exact Nat.le_refl _)

theorem execSieveWait_keeps {a s : State} {x0 x1} (h : State.Keeps a s) : KeepsOut a (execSieveWait x0 x1 s) := by
  unfold execSieveWait
  with_reducible repeat' (first
    | apply keeps_next | exact keeps_fault _ | exact h | assumption | apply State.sieveHold_keeps | apply keeps_foldl
    | apply keepsOut_ite | apply keeps_ite | apply_assumption | dsimp only | split | intro _ _ _ | intro _ _
    | exact Nat.le_max_left _ _ | exact Nat.le_add_right _ _ | exact Nat.le_refl _)

theorem execRmax_keeps {a s : State} {x0 x1} (h : State.Keeps a s) : KeepsOut a (execRmax x0 x1 s) := by
  unfold execRmax
  with_reducible repeat' (first
    | apply keeps_next | exact keeps_fault _ | exact h | assumption | apply State.sieveRun_keeps
    | refine keepsOpt_elim (by assumption) (State.reduceOp_keeps ?_) | apply State.reduceOp_keeps | apply keeps_foldl
    | apply keepsOut_ite | apply keepsOpt_some | exact keepsOpt_none | apply keeps_ite | apply_assumption | dsimp only
    | split | intro _ _ _ | intro _ _ | exact Nat.le_max_left _ _ | exact Nat.le_add_right _ _ | exact Nat.le_refl _)

theorem State.normOp_keeps {a s : State} {x0 x1 x2 x3} (h : State.Keeps a s) :
    KeepsOpt a (State.normOp x0 x1 s x2 x3) := by
  unfold State.normOp
  with_reducible repeat' (first
    | apply keepsOpt_some | exact keepsOpt_none | exact h | assumption | apply State.opDone_keeps
    | apply State.countViews_keeps | apply keeps_foldl | apply keepsOpt_ite | apply keepsOpt_map | apply keepsOpt_bind
    | intro _ _ | apply keeps_ite | apply_assumption | dsimp only | split | intro _ _ _ | intro _ _
    | exact Nat.le_max_left _ _ | exact Nat.le_add_right _ _ | exact Nat.le_refl _)

theorem State.groupOp_keeps {a s : State} {x0 x1} (h : State.Keeps a s) : KeepsOpt a (State.groupOp s x0 x1) := by
  unfold State.groupOp
  with_reducible repeat' (first
    | apply keepsOpt_some | exact keepsOpt_none | exact h | assumption
    | refine keepsOpt_elim (by assumption) (State.normOp_keeps ?_) | apply State.normOp_keeps | apply keeps_foldl
    | apply keepsOpt_ite | apply keepsOpt_map | apply keepsOpt_bind | intro _ _ | apply keeps_ite | apply_assumption
    | dsimp only | split | intro _ _ _ | intro _ _ | exact Nat.le_max_left _ _ | exact Nat.le_add_right _ _
    | exact Nat.le_refl _)

theorem execGroupnorm_keeps {a s : State} {x0 x1} (h : State.Keeps a s) : KeepsOut a (execGroupnorm x0 x1 s) := by
  unfold execGroupnorm
  with_reducible repeat' (first
    | apply keeps_next | exact keeps_fault _ | exact h | assumption | apply State.sieveRun_keeps
    | refine keepsOpt_elim (by assumption) (State.groupOp_keeps ?_) | apply State.groupOp_keeps | apply keeps_foldl
    | apply keepsOut_ite | apply keepsOpt_some | exact keepsOpt_none | apply keeps_ite | apply_assumption | dsimp only
    | split | intro _ _ _ | intro _ _ | exact Nat.le_max_left _ _ | exact Nat.le_add_right _ _ | exact Nat.le_refl _)

theorem execMax_keeps {a s : State} {x0 x1} (h : State.Keeps a s) : KeepsOut a (execMax x0 x1 s) := by
  unfold execMax
  with_reducible repeat' (first
    | apply keeps_next | exact keeps_fault _ | exact h | assumption | apply State.sieve2_keeps | apply keeps_foldl
    | apply keepsOut_ite | apply keeps_ite | apply_assumption | dsimp only | split | intro _ _ _ | intro _ _
    | exact Nat.le_max_left _ _ | exact Nat.le_add_right _ _ | exact Nat.le_refl _)

theorem execCmpEq_keeps {a s : State} {x0 x1} (h : State.Keeps a s) : KeepsOut a (execCmpEq x0 x1 s) := by
  unfold execCmpEq
  with_reducible repeat' (first
    | apply keeps_next | exact keeps_fault _ | exact h | assumption | apply State.sieve2_keeps | apply keeps_foldl
    | apply keepsOut_ite | apply keeps_ite | apply_assumption | dsimp only | split | intro _ _ _ | intro _ _
    | exact Nat.le_max_left _ _ | exact Nat.le_add_right _ _ | exact Nat.le_refl _)

theorem execExp2_keeps {a s : State} {x0 x1} (h : State.Keeps a s) : KeepsOut a (execExp2 x0 x1 s) := by
  unfold execExp2
  with_reducible repeat' (first
    | apply keeps_next | exact keeps_fault _ | exact h | assumption | apply State.sieve1_keeps | apply keeps_foldl
    | apply keepsOut_ite | apply keeps_ite | apply_assumption | dsimp only | split | intro _ _ _ | intro _ _
    | exact Nat.le_max_left _ _ | exact Nat.le_add_right _ _ | exact Nat.le_refl _)

theorem execGelu_keeps {a s : State} {x0 x1} (h : State.Keeps a s) : KeepsOut a (execGelu x0 x1 s) := by
  unfold execGelu
  with_reducible repeat' (first
    | apply keeps_next | exact keeps_fault _ | exact h | assumption | apply State.sieve1_keeps | apply keeps_foldl
    | apply keepsOut_ite | apply keeps_ite | apply_assumption | dsimp only | split | intro _ _ _ | intro _ _
    | exact Nat.le_max_left _ _ | exact Nat.le_add_right _ _ | exact Nat.le_refl _)

theorem execExpE_keeps {a s : State} {x0 x1} (h : State.Keeps a s) : KeepsOut a (execExpE x0 x1 s) := by
  unfold execExpE
  with_reducible repeat' (first
    | apply keeps_next | exact keeps_fault _ | exact h | assumption | apply State.sieve1_keeps | apply keeps_foldl
    | apply keepsOut_ite | apply keeps_ite | apply_assumption | dsimp only | split | intro _ _ _ | intro _ _
    | exact Nat.le_max_left _ _ | exact Nat.le_add_right _ _ | exact Nat.le_refl _)

theorem execLayernorm_keeps {a s : State} {x0 x1} (h : State.Keeps a s) : KeepsOut a (execLayernorm x0 x1 s) := by
  unfold execLayernorm
  with_reducible repeat' (first
    | apply keeps_next | exact keeps_fault _ | exact h | assumption | apply State.sieveRun_keeps
    | refine keepsOpt_elim (by assumption) (State.normOp_keeps ?_) | apply State.normOp_keeps | apply keeps_foldl
    | apply keepsOut_ite | apply keepsOpt_some | exact keepsOpt_none | apply keeps_ite | apply_assumption | dsimp only
    | split | intro _ _ _ | intro _ _ | exact Nat.le_max_left _ _ | exact Nat.le_add_right _ _ | exact Nat.le_refl _)

theorem execGumbel_keeps {a s : State} {x0 x1} (h : State.Keeps a s) : KeepsOut a (execGumbel x0 x1 s) := by
  unfold execGumbel
  with_reducible repeat' (first
    | apply keeps_next | exact keeps_fault _ | exact h | assumption | apply State.sieveRun_keeps
    | refine keepsOpt_elim (by assumption) (State.gumbelOp_keeps ?_) | apply State.gumbelOp_keeps | apply keeps_foldl
    | apply keepsOut_ite | apply keepsOpt_some | exact keepsOpt_none | apply keeps_ite | apply_assumption | dsimp only
    | split | intro _ _ _ | intro _ _ | exact Nat.le_max_left _ _ | exact Nat.le_add_right _ _ | exact Nat.le_refl _)

theorem execCmpLt_keeps {a s : State} {x0 x1} (h : State.Keeps a s) : KeepsOut a (execCmpLt x0 x1 s) := by
  unfold execCmpLt
  with_reducible repeat' (first
    | apply keeps_next | exact keeps_fault _ | exact h | assumption | apply State.sieve2_keeps | apply keeps_foldl
    | apply keepsOut_ite | apply keeps_ite | apply_assumption | dsimp only | split | intro _ _ _ | intro _ _
    | exact Nat.le_max_left _ _ | exact Nat.le_add_right _ _ | exact Nat.le_refl _)

theorem execCopysign_keeps {a s : State} {x0 x1} (h : State.Keeps a s) : KeepsOut a (execCopysign x0 x1 s) := by
  unfold execCopysign
  with_reducible repeat' (first
    | apply keeps_next | exact keeps_fault _ | exact h | assumption | apply State.sieve2_keeps | apply keeps_foldl
    | apply keepsOut_ite | apply keeps_ite | apply_assumption | dsimp only | split | intro _ _ _ | intro _ _
    | exact Nat.le_max_left _ _ | exact Nat.le_add_right _ _ | exact Nat.le_refl _)

theorem execLog2_keeps {a s : State} {x0 x1} (h : State.Keeps a s) : KeepsOut a (execLog2 x0 x1 s) := by
  unfold execLog2
  with_reducible repeat' (first
    | apply keeps_next | exact keeps_fault _ | exact h | assumption | apply State.sieve1_keeps | apply keeps_foldl
    | apply keepsOut_ite | apply keeps_ite | apply_assumption | dsimp only | split | intro _ _ _ | intro _ _
    | exact Nat.le_max_left _ _ | exact Nat.le_add_right _ _ | exact Nat.le_refl _)

theorem execRsqrt_keeps {a s : State} {x0 x1} (h : State.Keeps a s) : KeepsOut a (execRsqrt x0 x1 s) := by
  unfold execRsqrt
  with_reducible repeat' (first
    | apply keeps_next | exact keeps_fault _ | exact h | assumption | apply State.sieve1_keeps | apply keeps_foldl
    | apply keepsOut_ite | apply keeps_ite | apply_assumption | dsimp only | split | intro _ _ _ | intro _ _
    | exact Nat.le_max_left _ _ | exact Nat.le_add_right _ _ | exact Nat.le_refl _)

theorem execTanh_keeps {a s : State} {x0 x1} (h : State.Keeps a s) : KeepsOut a (execTanh x0 x1 s) := by
  unfold execTanh
  with_reducible repeat' (first
    | apply keeps_next | exact keeps_fault _ | exact h | assumption | apply State.sieve1_keeps | apply keeps_foldl
    | apply keepsOut_ite | apply keeps_ite | apply_assumption | dsimp only | split | intro _ _ _ | intro _ _
    | exact Nat.le_max_left _ _ | exact Nat.le_add_right _ _ | exact Nat.le_refl _)

theorem execSilu_keeps {a s : State} {x0 x1} (h : State.Keeps a s) : KeepsOut a (execSilu x0 x1 s) := by
  unfold execSilu
  with_reducible repeat' (first
    | apply keeps_next | exact keeps_fault _ | exact h | assumption | apply State.sieve1_keeps | apply keeps_foldl
    | apply keepsOut_ite | apply keeps_ite | apply_assumption | dsimp only | split | intro _ _ _ | intro _ _
    | exact Nat.le_max_left _ _ | exact Nat.le_add_right _ _ | exact Nat.le_refl _)

theorem execRsum_keeps {a s : State} {x0 x1} (h : State.Keeps a s) : KeepsOut a (execRsum x0 x1 s) := by
  unfold execRsum
  with_reducible repeat' (first
    | apply keeps_next | exact keeps_fault _ | exact h | assumption | apply State.sieveRun_keeps
    | refine keepsOpt_elim (by assumption) (State.reduceOp_keeps ?_) | apply State.reduceOp_keeps | apply keeps_foldl
    | apply keepsOut_ite | apply keepsOpt_some | exact keepsOpt_none | apply keeps_ite | apply_assumption | dsimp only
    | split | intro _ _ _ | intro _ _ | exact Nat.le_max_left _ _ | exact Nat.le_add_right _ _ | exact Nat.le_refl _)

theorem execSmaxExact_keeps {a s : State} {x0 x1} (h : State.Keeps a s) : KeepsOut a (execSmaxExact x0 x1 s) := by
  unfold execSmaxExact
  with_reducible repeat' (first
    | apply keeps_next | exact keeps_fault _ | exact h | assumption | apply State.sieveRun_keeps
    | refine keepsOpt_elim (by assumption) (State.smaxOp_keeps ?_) | apply State.smaxOp_keeps | apply keeps_foldl
    | apply keepsOut_ite | apply keepsOpt_some | exact keepsOpt_none | apply keeps_ite | apply_assumption | dsimp only
    | split | intro _ _ _ | intro _ _ | exact Nat.le_max_left _ _ | exact Nat.le_add_right _ _ | exact Nat.le_refl _)

theorem execRmsnorm_keeps {a s : State} {x0 x1} (h : State.Keeps a s) : KeepsOut a (execRmsnorm x0 x1 s) := by
  unfold execRmsnorm
  with_reducible repeat' (first
    | apply keeps_next | exact keeps_fault _ | exact h | assumption | apply State.sieveRun_keeps
    | refine keepsOpt_elim (by assumption) (State.normOp_keeps ?_) | apply State.normOp_keeps | apply keeps_foldl
    | apply keepsOut_ite | apply keepsOpt_some | exact keepsOpt_none | apply keeps_ite | apply_assumption | dsimp only
    | split | intro _ _ _ | intro _ _ | exact Nat.le_max_left _ _ | exact Nat.le_add_right _ _ | exact Nat.le_refl _)

end Sys2Proof.Machine
end

