-- ==== Sys2Proof/Laws/KeepsTickets.lean ====
section
/-! SUPPORT. State.Keeps over the definitions of Machine/Tickets.lean. -/

namespace Sys2Proof.Machine

theorem State.addStep_keeps {a s : State} {x0} (h : State.Keeps a s) : State.Keeps a (State.addStep s x0) := by
  unfold State.addStep
  with_reducible repeat' (first
    | exact h | assumption | apply State.withLoader_keeps | apply keeps_foldl | apply keeps_ite | apply_assumption
    | dsimp only | split | intro _ _ _ | intro _ _ | exact Nat.le_max_left _ _ | exact Nat.le_add_right _ _
    | exact Nat.le_refl _)

theorem State.beginStep_keeps {a s : State} {x0} (h : State.Keeps a s) : State.Keeps a (State.beginStep s x0) := by
  unfold State.beginStep
  with_reducible repeat' (first
    | exact h | assumption | apply State.cueStep_keeps | apply State.addStep_keeps | apply keeps_foldl
    | apply keeps_ite | apply_assumption | dsimp only | split | intro _ _ _ | intro _ _ | exact Nat.le_max_left _ _
    | exact Nat.le_add_right _ _ | exact Nat.le_refl _)

theorem State.takeOnAir_keeps {a s : State} {x0 x1} (h : State.Keeps a s) :
    State.Keeps a (State.takeOnAir s x0 x1) := by
  unfold State.takeOnAir
  with_reducible repeat' (first
    | exact h | assumption | apply State.setJob_keeps | apply State.beginStep_keeps | apply State.setAlm_keeps
    | apply State.lateTransit_keeps | apply State.openEntry_keeps | apply State.withdrawJob_keeps | apply keeps_foldl
    | apply keeps_ite | apply_assumption | dsimp only | split | intro _ _ _ | intro _ _ | exact Nat.le_max_left _ _
    | exact Nat.le_add_right _ _ | exact Nat.le_refl _)

theorem State.refuse_keeps {a s : State} {x0 x1 x2 x3 x4} (h : State.Keeps a s) :
    State.Keeps a (State.refuse s x0 x1 x2 x3 x4) := by
  unfold State.refuse
  with_reducible repeat' (first
    | exact h | assumption | apply State.complete_keeps | apply keeps_foldl | apply keeps_ite | apply_assumption
    | dsimp only | split | intro _ _ _ | intro _ _ | exact Nat.le_max_left _ _ | exact Nat.le_add_right _ _
    | exact Nat.le_refl _)

theorem takeFrames_keeps {a s : State} {x0 x1} (h : State.Keeps a s) : KeepsExc a (takeFrames x0 x1 s) := by
  fun_induction takeFrames x0 x1 s
  with_reducible repeat' (first
    | apply keepsExc_ok | exact keepsExc_error _ | exact h | assumption
    | refine keepsOpt_elim (by assumption) (State.dropFor_keeps ?_) | apply State.dropFor_keeps | apply keeps_foldl
    | apply keepsExc_ite | apply keeps_ite | apply_assumption | dsimp only | split | intro _ _ _ | intro _ _
    | exact Nat.le_max_left _ _ | exact Nat.le_add_right _ _ | exact Nat.le_refl _)

theorem ownBells_keeps {a s : State} {x0 x1 x2 x3} (h : State.Keeps a s) : State.Keeps a (ownBells x0 x1 x2 x3 s) := by
  fun_induction ownBells x0 x1 x2 x3 s
  with_reducible repeat' (first
    | exact h | assumption | apply State.setBell_keeps | apply keeps_foldl | apply keeps_ite | apply_assumption
    | dsimp only | split | intro _ _ _ | intro _ _ | exact Nat.le_max_left _ _ | exact Nat.le_add_right _ _
    | exact Nat.le_refl _)

theorem takeBells_keeps {a s : State} {x0 x1 x2 x3} (h : State.Keeps a s) : KeepsExc a (takeBells x0 x1 x2 x3 s) := by
  fun_induction takeBells x0 x1 x2 x3 s
  with_reducible repeat' (first
    | apply keepsExc_ok | exact keepsExc_error _ | exact h | assumption | apply ownBells_keeps | apply keeps_foldl
    | apply keepsExc_ite | apply keeps_ite | apply_assumption | dsimp only | split | intro _ _ _ | intro _ _
    | exact Nat.le_max_left _ _ | exact Nat.le_add_right _ _ | exact Nat.le_refl _)

theorem State.admitJob_keeps {a s : State} {x0 x1 x2 x3 x4 x5 x6} (h : State.Keeps a s) :
    State.Keeps a (State.admitJob s x0 x1 x2 x3 x4 x5 x6) := by
  unfold State.admitJob
  refine State.complete_keeps (State.adopt_keeps (placeEntries_keeps (State.withLoader_keeps ?_)))
  refine keepsExc_getD ?_ (takeBells_keeps ?_) <;>
    exact keeps_foldl (fun _ _ k => ownBells_keeps k) _ (keeps_ite (keepsExc_getD h (takeFrames_keeps h)) h)

theorem State.takeAdmit_keeps {a s : State} {x0 x1 x2 x3} (h : State.Keeps a s) :
    KeepsOpt a (State.takeAdmit s x0 x1 x2 x3) := by
  unfold State.takeAdmit
  with_reducible repeat' (first
    | apply keepsOpt_some | exact keepsOpt_none | exact h | assumption | apply State.refuse_keeps
    | apply State.answer_keeps | apply State.admitMap_keeps | apply State.admitJob_keeps | apply keeps_foldl
    | apply keepsOpt_ite | apply keepsOpt_map | apply keepsOpt_bind | intro _ _ | apply keeps_ite | apply_assumption
    | dsimp only | split | intro _ _ _ | intro _ _ | exact Nat.le_max_left _ _ | exact Nat.le_add_right _ _
    | exact Nat.le_refl _)

theorem State.takeUnload_keeps {a s : State} {x0 x1 x2} (h : State.Keeps a s) :
    State.Keeps a (State.takeUnload s x0 x1 x2) := by
  unfold State.takeUnload
  with_reducible repeat' (first
    | exact h | assumption | apply State.refuse_keeps | apply State.answer_keeps | apply State.withLoader_keeps
    | apply keeps_foldl | apply keeps_ite | apply_assumption | dsimp only | split | intro _ _ _ | intro _ _
    | exact Nat.le_max_left _ _ | exact Nat.le_add_right _ _ | exact Nat.le_refl _)

theorem State.noteTurn_keeps {a s : State} {x0 x1} (h : State.Keeps a s) : State.Keeps a (State.noteTurn s x0 x1) := by
  unfold State.noteTurn
  with_reducible repeat' (first
    | exact h | assumption | apply State.withLoader_keeps | apply keeps_foldl | apply keeps_ite | apply_assumption
    | dsimp only | split | intro _ _ _ | intro _ _ | exact Nat.le_max_left _ _ | exact Nat.le_add_right _ _
    | exact Nat.le_refl _)

theorem takeMirror_keeps {a s : State} {x0 x1 x2 x3} (h : State.Keeps a s) :
    ∀ n t, takeMirror x0 x1 x2 x3 s = some (n, t) → State.Keeps a t := by
  induction x2 generalizing s x3 with
  | nil => intro n t e; cases e; exact h
  | cons y ys ih =>
    intro n t e
    unfold takeMirror at e
    split at e
    · exact ih h n t e
    · split at e
      · exact ih h n t e
      · split at e
        · cases e
        · exact ih (State.storeAll_keeps (fun _ _ k => k) (State.loaderBytes_keeps (State.needFrame_keeps h _ _ (by assumption)))) n t e

theorem State.mirrored_keeps {a s : State} {x0 x1} (h : State.Keeps a s) :
    ∀ n t, State.mirrored s x0 x1 = some (n, t) → State.Keeps a t := by
  intro n t e
  unfold State.mirrored at e
  split at e
  · cases e; exact h
  · simp only [Option.map_eq_some_iff] at e
    obtain ⟨v, hv, hw⟩ := e
    cases hw
    exact takeMirror_keeps h _ _ hv

theorem State.takeReserved_keeps {a s s0 : State} {j u i since waited wcet} (h : State.Keeps a s) (h0 : State.Keeps a s0) :
    State.Keeps a (State.takeReserved s s0 j u i since waited wcet) := by
  unfold State.takeReserved
  with_reducible repeat' (first
    | assumption | apply State.withdrawJob_keeps | apply State.beginStep_keeps | apply State.setAlm_keeps | apply State.triggerRetest_keeps
    | apply State.refuse_keeps | apply keeps_ite | dsimp only | split)

theorem State.takeStep_keeps {a s : State} {x0 x1 x2 x3 x4} (h : State.Keeps a s) :
    KeepsExc a (State.takeStep s x0 x1 x2 x3 x4) := by
  unfold State.takeStep
  with_reducible repeat' (first
    | apply keepsExc_ok | exact keepsExc_error _ | exact h | assumption | apply State.refuse_keeps
    | apply State.answer_keeps | apply State.endTicket_keeps | apply State.freeStepEntry_keeps
    | apply State.setJob_keeps | refine State.kvIntake_keeps ?_ _ _ _ (by assumption)
    | refine State.mirrored_keeps ?_ _ _ (by assumption) | apply State.takeOnAir_keeps
    | apply State.takeReserved_keeps | apply keeps_foldl | apply keepsExc_ite | apply keeps_ite | apply_assumption
    | dsimp only | split | intro _ _ _ | intro _ _ | exact Nat.le_max_left _ _ | exact Nat.le_add_right _ _
    | exact Nat.le_refl _)

theorem State.takeLoad_keeps {a s : State} {x0 x1 x2 x3} (h : State.Keeps a s) :
    State.Keeps a (State.takeLoad s x0 x1 x2 x3) := by
  unfold State.takeLoad
  with_reducible repeat' (first
    | exact h | assumption | refine State.load_keeps ?_ _ _ (by assumption) | apply State.complete_keeps
    | apply State.refuse_keeps | apply keeps_foldl | apply keeps_ite | apply_assumption | dsimp only | split
    | intro _ _ _ | intro _ _ | exact Nat.le_max_left _ _ | exact Nat.le_add_right _ _ | exact Nat.le_refl _)

theorem State.takeRetire_keeps {a s : State} {x0 x1 x2} (h : State.Keeps a s) :
    State.Keeps a (State.takeRetire s x0 x1 x2) := by
  unfold State.takeRetire
  with_reducible repeat' (first
    | exact h | assumption | apply State.answer_keeps | apply State.removeJob_keeps | apply State.refuse_keeps
    | apply keeps_foldl | apply keeps_ite | apply_assumption | dsimp only | split | intro _ _ _ | intro _ _
    | exact Nat.le_max_left _ _ | exact Nat.le_add_right _ _ | exact Nat.le_refl _)

theorem State.takeOpen_keeps {a s : State} {x0 x1 x2} (h : State.Keeps a s) :
    State.Keeps a (State.takeOpen s x0 x1 x2) := by
  unfold State.takeOpen
  with_reducible repeat' (first
    | exact h | assumption | apply State.refuse_keeps | apply State.complete_keeps | apply State.withLoader_keeps
    | apply keeps_foldl | apply keeps_ite | apply_assumption | dsimp only | split | intro _ _ _ | intro _ _
    | exact Nat.le_max_left _ _ | exact Nat.le_add_right _ _ | exact Nat.le_refl _)

theorem State.takeClose_keeps {a s : State} {x0 x1 x2} (h : State.Keeps a s) :
    State.Keeps a (State.takeClose s x0 x1 x2) := by
  unfold State.takeClose
  with_reducible repeat' (first
    | exact h | assumption | apply State.answer_keeps | apply State.closeSession_keeps | apply State.refuse_keeps
    | apply keeps_foldl | apply keeps_ite | apply_assumption | dsimp only | split | intro _ _ _ | intro _ _
    | exact Nat.le_max_left _ _ | exact Nat.le_add_right _ _ | exact Nat.le_refl _)

theorem State.intake_keeps {a s : State} {x0 x1 x2 x3 x4} (h : State.Keeps a s) :
    KeepsExc a (State.intake s x0 x1 x2 x3 x4) := by
  unfold State.intake
  with_reducible repeat' (first
    | apply keepsExc_ok | exact keepsExc_error _ | exact h | assumption | apply State.answer_keeps
    | refine keepsExc_elim (by assumption) (State.takeStep_keeps ?_) | apply State.takeStep_keeps
    | apply State.takeLoad_keeps | apply State.takeUnload_keeps
    | refine keepsOpt_elim (by assumption) (State.takeAdmit_keeps ?_) | apply State.takeAdmit_keeps
    | apply State.takeRetire_keeps | apply State.takeOpen_keeps | apply State.takeClose_keeps | apply keeps_foldl
    | apply keepsExc_ite | apply keeps_ite | apply_assumption | dsimp only | split | intro _ _ _ | intro _ _
    | exact Nat.le_max_left _ _ | exact Nat.le_add_right _ _ | exact Nat.le_refl _)

theorem State.settleTicket_keeps {a s : State} {x0 x1 x2 x3 x4} (h : State.Keeps a s) :
    State.Keeps a (State.settleTicket s x0 x1 x2 x3 x4) := by
  unfold State.settleTicket
  with_reducible repeat' (first
    | exact h | assumption | apply State.loaderRead_keeps
    | refine keepsExc_elim (by assumption) (State.intake_keeps ?_) | apply State.intake_keeps
    | apply State.setRingFld_keeps | apply State.withLoader_keeps | apply keeps_foldl | apply keeps_ite
    | apply_assumption | dsimp only | split | intro _ _ _ | intro _ _ | exact Nat.le_max_left _ _
    | exact Nat.le_add_right _ _ | exact Nat.le_refl _)

theorem State.fetchTicket_keeps {a s : State} {x0 x1 x2} (h : State.Keeps a s) :
    State.Keeps a (State.fetchTicket s x0 x1 x2) := by
  unfold State.fetchTicket
  with_reducible repeat' (first
    | exact h | assumption | apply State.noteTurn_keeps | apply State.loaderRead_keeps
    | apply State.settleTicket_keeps | apply State.setRingFld_keeps | apply State.ringFault_keeps | apply keeps_foldl
    | apply keeps_ite | apply_assumption | dsimp only | split | intro _ _ _ | intro _ _ | exact Nat.le_max_left _ _
    | exact Nat.le_add_right _ _ | exact Nat.le_refl _)

theorem execTicketFetch_keeps {a s : State} {x0 x1 x2} (h : State.Keeps a s) :
    KeepsOut a (execTicketFetch x0 x1 x2 s) := by
  unfold execTicketFetch
  with_reducible repeat' (first
    | apply keeps_next | exact keeps_fault _ | exact h | assumption | apply State.fetchTicket_keeps
    | apply keeps_foldl | apply keepsOut_ite | apply keeps_ite | apply_assumption | dsimp only | split | intro _ _ _
    | intro _ _ | exact Nat.le_max_left _ _ | exact Nat.le_add_right _ _ | exact Nat.le_refl _)

theorem execTicketHoldRelease_keeps {a s : State} {x0 x1} (h : State.Keeps a s) :
    KeepsOut a (execTicketHoldRelease x0 x1 s) := by
  unfold execTicketHoldRelease
  with_reducible repeat' (first
    | apply keeps_next | exact keeps_fault _ | exact h | assumption | apply State.withLoader_keeps
    | apply State.settleTicket_keeps | apply State.setRingFld_keeps | apply keeps_foldl | apply keepsOut_ite
    | apply keeps_ite | apply_assumption | dsimp only | split | intro _ _ _ | intro _ _ | exact Nat.le_max_left _ _
    | exact Nat.le_add_right _ _ | exact Nat.le_refl _)

end Sys2Proof.Machine
end

