-- ==== Sys2Proof/Laws/KeepsWatchman.lean ====
section
/-! SUPPORT. State.Keeps over the definitions of Machine/Watchman.lean. -/

namespace Sys2Proof.Machine

theorem State.takeAddress_keeps {a s : State} {x0} (h : State.Keeps a s) : State.Keeps a (State.takeAddress s x0) := by
  unfold State.takeAddress
  with_reducible repeat' (first
    | exact h | assumption | apply State.setFld_keeps | apply keeps_foldl | apply keeps_ite | apply_assumption
    | dsimp only | split | intro _ _ _ | intro _ _ | exact Nat.le_max_left _ _ | exact Nat.le_add_right _ _
    | exact Nat.le_refl _)

theorem execEntdaa_keeps {a s : State} {x0} (h : State.Keeps a s) : KeepsOut a (execEntdaa x0 s) := by
  unfold execEntdaa
  with_reducible repeat' (first
    | apply keeps_next | exact keeps_fault _ | exact h | assumption | apply State.takeAddress_keeps
    | apply State.respond_keeps | apply keeps_foldl | apply keepsOut_ite | apply keeps_ite | apply_assumption
    | dsimp only | split | intro _ _ _ | intro _ _ | exact Nat.le_max_left _ _ | exact Nat.le_add_right _ _
    | exact Nat.le_refl _)

theorem execLedgerFlush_keeps {a s : State} (h : State.Keeps a s) : KeepsOut a (execLedgerFlush s) := by
  unfold execLedgerFlush
  with_reducible repeat' (first
    | apply keeps_next | exact keeps_fault _ | exact h | assumption | apply State.withLedger_keeps | apply keeps_foldl
    | apply keepsOut_ite | apply keeps_ite | apply_assumption | dsimp only | split | intro _ _ _ | intro _ _
    | exact Nat.le_max_left _ _ | exact Nat.le_add_right _ _ | exact Nat.le_refl _)

theorem execLedgerRead_keeps {a s : State} {x0} (h : State.Keeps a s) : KeepsOut a (execLedgerRead x0 s) := by
  unfold execLedgerRead
  with_reducible repeat' (first
    | apply keeps_next | exact keeps_fault _ | exact h | assumption | apply State.respond_keeps | apply keeps_foldl
    | apply keepsOut_ite | apply keeps_ite | apply_assumption | dsimp only | split | intro _ _ _ | intro _ _
    | exact Nat.le_max_left _ _ | exact Nat.le_add_right _ _ | exact Nat.le_refl _)

theorem regWrites_keeps {a s : State} {x0 x1} (h : State.Keeps a s) : State.Keeps a (regWrites x0 x1 s).2 := by
  fun_induction regWrites x0 x1 s
  with_reducible repeat' (first
    | exact h | assumption | apply State.busWrite_keeps | apply keeps_foldl | apply keeps_snd_ite | apply keeps_ite
    | apply_assumption | dsimp only | split | intro _ _ _ | intro _ _ | exact Nat.le_max_left _ _
    | exact Nat.le_add_right _ _ | exact Nat.le_refl _)

theorem State.watchmanReset_keeps {a s : State} (h : State.Keeps a s) : State.Keeps a (State.watchmanReset s) := by
  unfold State.watchmanReset
  with_reducible repeat' (first
    | exact h | assumption | apply State.clearGuards_keeps | apply State.clearRegs_keeps | apply State.bootComp_keeps
    | apply State.withWm_keeps | apply State.ledgerAdd_keeps | apply State.setWmState_keeps | apply keeps_foldl
    | apply keeps_ite | apply_assumption | dsimp only | split | intro _ _ _ | intro _ _ | exact Nat.le_max_left _ _
    | exact Nat.le_add_right _ _ | exact Nat.le_refl _)

theorem execActivateFirmware_keeps {a s : State} (h : State.Keeps a s) : KeepsOut a (execActivateFirmware s) := by
  unfold execActivateFirmware
  with_reducible repeat' (first
    | apply keeps_next | exact keeps_fault _ | exact h | assumption | apply State.respond_keeps
    | apply State.withWm_keeps | apply State.watchmanReset_keeps | apply keeps_foldl | apply keepsOut_ite
    | apply keeps_ite | apply_assumption | dsimp only | split | intro _ _ _ | intro _ _ | exact Nat.le_max_left _ _
    | exact Nat.le_add_right _ _ | exact Nat.le_refl _)

theorem execSetEndpointId_keeps {a s : State} {x0} (h : State.Keeps a s) : KeepsOut a (execSetEndpointId x0 s) := by
  unfold execSetEndpointId
  with_reducible repeat' (first
    | apply keeps_next | exact keeps_fault _ | exact h | assumption | apply State.respond_keeps
    | apply State.setFld_keeps | apply keeps_foldl | apply keepsOut_ite | apply keeps_ite | apply_assumption
    | dsimp only | split | intro _ _ _ | intro _ _ | exact Nat.le_max_left _ _ | exact Nat.le_add_right _ _
    | exact Nat.le_refl _)

theorem execReset_keeps {a s : State} {x0 x1 x2} (h : State.Keeps a s) : KeepsOut a (execReset x0 x1 x2 s) := by
  unfold execReset
  with_reducible repeat' (first
    | apply keeps_next | exact keeps_fault _ | exact h | assumption | apply State.respond_keeps
    | apply State.packageReset_keeps | apply State.croftReset_keeps | apply State.watchmanReset_keeps
    | apply keeps_foldl | apply keepsOut_ite | apply keeps_ite | apply_assumption | dsimp only | split | intro _ _ _
    | intro _ _ | exact Nat.le_max_left _ _ | exact Nat.le_add_right _ _ | exact Nat.le_refl _)

theorem execRegWrite_keeps {a s : State} {x0 x1 x2} (h : State.Keeps a s) : KeepsOut a (execRegWrite x0 x1 x2 s) := by
  unfold execRegWrite
  with_reducible repeat' (first
    | apply keeps_next | exact keeps_fault _ | exact h | assumption | apply State.respond_keeps
    | refine keeps_snd (by assumption) (regWrites_keeps ?_) | apply regWrites_keeps | apply keeps_foldl
    | apply keepsOut_ite | apply keeps_ite | apply_assumption | dsimp only | split | intro _ _ _ | intro _ _
    | exact Nat.le_max_left _ _ | exact Nat.le_add_right _ _ | exact Nat.le_refl _)

theorem execRequestUpdate_keeps {a s : State} {x0} (h : State.Keeps a s) : KeepsOut a (execRequestUpdate x0 s) := by
  unfold execRequestUpdate
  with_reducible repeat' (first
    | apply keeps_next | exact keeps_fault _ | exact h | assumption | apply State.respond_keeps
    | apply State.withWm_keeps | apply keeps_foldl | apply keepsOut_ite | apply keeps_ite | apply_assumption
    | dsimp only | split | intro _ _ _ | intro _ _ | exact Nat.le_max_left _ _ | exact Nat.le_add_right _ _
    | exact Nat.le_refl _)

theorem execSetdasa_keeps {a s : State} {x0 x1} (h : State.Keeps a s) : KeepsOut a (execSetdasa x0 x1 s) := by
  unfold execSetdasa
  with_reducible repeat' (first
    | apply keeps_next | exact keeps_fault _ | exact h | assumption | apply State.takeAddress_keeps
    | apply keeps_foldl | apply keepsOut_ite | apply keeps_ite | apply_assumption | dsimp only | split | intro _ _ _
    | intro _ _ | exact Nat.le_max_left _ _ | exact Nat.le_add_right _ _ | exact Nat.le_refl _)

theorem regReads_keeps {a s : State} {x0 x1} (h : State.Keeps a s) : State.Keeps a (regReads x0 x1 s).2 := by
  fun_induction regReads x0 x1 s
  with_reducible repeat' (first
    | exact h | assumption | refine keeps_snd (by assumption) (State.busRead_keeps ?_) | apply State.busRead_keeps
    | apply keeps_foldl | apply keeps_snd_ite | apply keeps_ite | apply_assumption | dsimp only | split | intro _ _ _
    | intro _ _ | exact Nat.le_max_left _ _ | exact Nat.le_add_right _ _ | exact Nat.le_refl _)

theorem execRegRead_keeps {a s : State} {x0 x1} (h : State.Keeps a s) : KeepsOut a (execRegRead x0 x1 s) := by
  unfold execRegRead
  with_reducible repeat' (first
    | apply keeps_next | exact keeps_fault _ | exact h | assumption | apply State.respond_keeps
    | refine keeps_snd (by assumption) (regReads_keeps ?_) | apply regReads_keeps | apply State.respondWords_keeps
    | apply keeps_foldl | apply keepsOut_ite | apply keeps_ite | apply_assumption | dsimp only | split | intro _ _ _
    | intro _ _ | exact Nat.le_max_left _ _ | exact Nat.le_add_right _ _ | exact Nat.le_refl _)

theorem execCommitSvn_keeps {a s : State} {x0} (h : State.Keeps a s) : KeepsOut a (execCommitSvn x0 s) := by
  unfold execCommitSvn
  with_reducible repeat' (first
    | apply keeps_next | exact keeps_fault _ | exact h | assumption | apply State.respond_keeps
    | apply State.withFuses_keeps | apply keeps_foldl | exact fun c => list_set_max_le _ _ _ c | exact rfl
    | apply keepsOut_ite | apply keeps_ite | apply_assumption | dsimp only | split | intro _ _ _ | intro _ _
    | exact Nat.le_max_left _ _ | exact Nat.le_add_right _ _ | exact Nat.le_refl _)

theorem execVerifyComplete_keeps {a s : State} {x0} (h : State.Keeps a s) : KeepsOut a (execVerifyComplete x0 s) := by
  unfold execVerifyComplete
  with_reducible repeat' (first
    | apply keeps_next | exact keeps_fault _ | exact h | assumption | apply State.respond_keeps
    | apply State.withWm_keeps | apply keeps_foldl | apply keepsOut_ite | apply keeps_ite | apply_assumption
    | dsimp only | split | intro _ _ _ | intro _ _ | exact Nat.le_max_left _ _ | exact Nat.le_add_right _ _
    | exact Nat.le_refl _)

end Sys2Proof.Machine
end

