-- ==== Sys2Proof/Laws/Regs.lean ====
section
/-! SUPPORT. Registers and their fields: a read after a write. -/

namespace Sys2Proof.Machine

theorem State.reg_setReg (s : State) (a b : Nat) (w : Word) : (s.setReg a w).reg b = if b = a then w else s.reg b :=
  SMap.getF_setF _ _ _ _ _

@[simp] theorem State.reg_setReg_same (s : State) (a : Nat) (w : Word) : (s.setReg a w).reg a = w := by
  rw [State.reg_setReg, if_pos rfl]

theorem State.reg_setReg_other (s : State) {a b : Nat} (w : Word) (h : b ≠ a) : (s.setReg a w).reg b = s.reg b := by
  rw [State.reg_setReg, if_neg h]

theorem bitsOf_eq (w : Word) (hi lo : Nat) : bitsOf w.toNat hi lo = (w.extractLsb' lo (hi + 1 - lo)).toNat := by
  simp [bitsOf, Nat.shiftRight_eq_div_pow]

theorem maskOf_bit (hi lo i : Nat) (hl : lo ≤ hi) (h : hi < 32) : (maskOf hi lo).getLsbD i = (decide (lo ≤ i) && decide (i ≤ hi)) := by
  unfold maskOf
  rw [BitVec.getLsbD_ofNat, Nat.testBit_mul_two_pow, Nat.testBit_two_pow_sub_one]
  by_cases h1 : lo ≤ i <;> by_cases h2 : i ≤ hi <;> simp [h1, h2] <;> omega

theorem setField_bit (w : Word) (hi lo v i : Nat) (hl : lo ≤ hi) (h : hi < 32) (hi' : i < 32) :
    (setField w hi lo v).getLsbD i = if lo ≤ i ∧ i ≤ hi then v.testBit (i - lo) else w.getLsbD i := by
  unfold setField
  simp only [BitVec.getLsbD_or, BitVec.getLsbD_and, BitVec.getLsbD_not, maskOf_bit _ _ _ hl h, BitVec.getLsbD_ofNat,
    Nat.testBit_mul_two_pow, hi', decide_true, Bool.true_and]
  by_cases h1 : lo ≤ i <;> by_cases h2 : i ≤ hi <;> simp [h1, h2]

/-- A field that has just been set. -/
theorem getField_setField (w : Word) (hi lo v : Nat) (hl : lo ≤ hi) (h : hi < 32) :
    getField (setField w hi lo v) hi lo = v % 2 ^ (hi + 1 - lo) := by
  unfold getField
  rw [bitsOf_eq]
  apply Nat.eq_of_testBit_eq
  intro i
  rw [BitVec.testBit_toNat, BitVec.getLsbD_extractLsb', Nat.testBit_mod_two_pow]
  by_cases hi1 : i < hi + 1 - lo
  · rw [setField_bit _ _ _ _ _ hl h (by omega), if_pos (by omega)]; simp [hi1]
  · simp [hi1]

/-- A field that shares no bit with the one that was set. -/
theorem getField_setField_other (w : Word) (hi lo v hi2 lo2 : Nat) (hl : lo ≤ hi) (h : hi < 32) (h2 : hi2 < 32)
    (hd : hi2 < lo ∨ hi < lo2) : getField (setField w hi lo v) hi2 lo2 = getField w hi2 lo2 := by
  unfold getField
  rw [bitsOf_eq, bitsOf_eq]
  congr 1
  apply BitVec.eq_of_getLsbD_eq
  intro i hi1
  rw [BitVec.getLsbD_extractLsb', BitVec.getLsbD_extractLsb', setField_bit _ _ _ _ _ hl h (by omega), if_neg (by omega)]

theorem State.fld_setFld (s : State) (p : Page) (f : FieldRow) (v i : Nat) (hl : f.lo ≤ f.hi) (h : f.hi < 32) :
    (s.setFld p f v i).fld p f i = v % 2 ^ (f.hi + 1 - f.lo) := by
  unfold State.fld State.setFld
  rw [State.reg_setReg_same, getField_setField _ _ _ _ hl h]

theorem State.fld_setReg_other (s : State) (p : Page) (f : FieldRow) (i a : Nat) (w : Word) (h : fieldAddr p f i ≠ a) :
    (s.setReg a w).fld p f i = s.fld p f i := by
  unfold State.fld; rw [State.reg_setReg_other _ _ h]

theorem State.fld_setFld_far (s : State) (p q : Page) (f g : FieldRow) (v i j : Nat) (h : fieldAddr p f i ≠ fieldAddr q g j) :
    (s.setFld q g v j).fld p f i = s.fld p f i := State.fld_setReg_other _ _ _ _ _ _ h

theorem State.fld_setFld_near (s : State) (p : Page) (f g : FieldRow) (v i j : Nat) (e : fieldAddr p f i = fieldAddr p g j)
    (hl : g.lo ≤ g.hi) (h : g.hi < 32) (h2 : f.hi < 32) (hd : f.hi < g.lo ∨ g.hi < f.lo) :
    (s.setFld p g v j).fld p f i = s.fld p f i := by
  unfold State.fld State.setFld
  rw [e, State.reg_setReg_same, getField_setField_other _ _ _ _ _ _ hl h h2 hd]

theorem getField_lt (w : Word) (hi lo : Nat) : getField w hi lo < 2 ^ (hi + 1 - lo) := Nat.mod_lt _ (Nat.two_pow_pos _)

theorem State.fld_lt (s : State) (p : Page) (f : FieldRow) (i : Nat) : s.fld p f i < 2 ^ (f.hi + 1 - f.lo) := getField_lt _ _ _

/-- A counter that counts n. -/
theorem State.fld_bump (s : State) (p : Page) (f : FieldRow) (n : Nat) (hl : f.lo = 0) (h : f.hi = 31) :
    (s.bump p f n).fld p f = (s.fld p f + n) % 2 ^ 32 := by
  unfold State.bump
  rw [State.fld_setFld _ _ _ _ _ (by omega) (by omega), hl, h]
  simp

end Sys2Proof.Machine
end

