-- ==== Sys2Proof/Laws/Same.lean ====
section
/-! SUPPORT. Frames (State.SameBut): the update of a field changes that field alone, and a frame passes through the forms that
definitions are written in. -/

namespace Sys2Proof.Machine

theorem Part.sub {v w u : List Part} (h : v ⊆ w) (k : w ⊆ u) : v ⊆ u := List.Subset.trans h k

theorem State.SameBut.refl (w : List Part) (s : State) : State.SameBut w s s := by constructor <;> intro _ <;> rfl

theorem State.SameBut.trans {w : List Part} {a b c : State} (h : State.SameBut w a b) (k : State.SameBut w b c) :
    State.SameBut w a c := by
  constructor
  · exact fun x => (k.pending x).trans (h.pending x)
  · exact fun x => (k.now x).trans (h.now x)
  · exact fun x => (k.freeCount x).trans (h.freeCount x)
  · exact fun x => (k.fuses x).trans (h.fuses x)
  · exact fun x => (k.board x).trans (h.board x)
  · exact fun x => (k.regs x).trans (h.regs x)
  · exact fun x => (k.guards x).trans (h.guards x)
  · exact fun x => (k.latch x).trans (h.latch x)
  · exact fun x => (k.snaps x).trans (h.snaps x)
  · exact fun x => (k.mem x).trans (h.mem x)
  · exact fun x => (k.margined x).trans (h.margined x)
  · exact fun x => (k.hbmStacks x).trans (h.hbmStacks x)
  · exact fun x => (k.fields x).trans (h.fields x)
  · exact fun x => (k.fieldReqs x).trans (h.fieldReqs x)
  · exact fun x => (k.dma x).trans (h.dma x)
  · exact fun x => (k.dmaLost x).trans (h.dmaLost x)
  · exact fun x => (k.ringLost x).trans (h.ringLost x)
  · exact fun x => (k.bells x).trans (h.bells x)
  · exact fun x => (k.loader x).trans (h.loader x)
  · exact fun x => (k.alm x).trans (h.alm x)
  · exact fun x => (k.cue x).trans (h.cue x)
  · exact fun x => (k.mer x).trans (h.mer x)
  · exact fun x => (k.looms x).trans (h.looms x)
  · exact fun x => (k.sieves x).trans (h.sieves x)
  · exact fun x => (k.gates x).trans (h.gates x)
  · exact fun x => (k.pairs x).trans (h.pairs x)
  · exact fun x => (k.sram x).trans (h.sram x)
  · exact fun x => (k.reeves x).trans (h.reeves x)
  · exact fun x => (k.kats x).trans (h.kats x)
  · exact fun x => (k.flight x).trans (h.flight x)
  · exact fun x => (k.ferry x).trans (h.ferry x)
  · exact fun x => (k.power x).trans (h.power x)
  · exact fun x => (k.faults x).trans (h.faults x)
  · exact fun x => (k.restarts x).trans (h.restarts x)
  · exact fun x => (k.ledger x).trans (h.ledger x)
  · exact fun x => (k.wm x).trans (h.wm x)
  · exact fun x => (k.out x).trans (h.out x)

/-- A frame of fewer kinds of state is one of more. -/
theorem State.SameBut.mono {v w : List Part} {a b : State} (h : State.SameBut v a b) (hw : v ⊆ w) : State.SameBut w a b := by
  constructor
  · exact fun x => h.pending fun y => x (hw y)
  · exact fun x => h.now fun y => x (hw y)
  · exact fun x => h.freeCount fun y => x (hw y)
  · exact fun x => h.fuses fun y => x (hw y)
  · exact fun x => h.board fun y => x (hw y)
  · exact fun x => h.regs fun y => x (hw y)
  · exact fun x => h.guards fun y => x (hw y)
  · exact fun x => h.latch fun y => x (hw y)
  · exact fun x => h.snaps fun y => x (hw y)
  · exact fun x => h.mem fun y => x (hw y)
  · exact fun x => h.margined fun y => x (hw y)
  · exact fun x => h.hbmStacks fun y => x (hw y)
  · exact fun x => h.fields fun y => x (hw y)
  · exact fun x => h.fieldReqs fun y => x (hw y)
  · exact fun x => h.dma fun y => x (hw y)
  · exact fun x => h.dmaLost fun y => x (hw y)
  · exact fun x => h.ringLost fun y => x (hw y)
  · exact fun x => h.bells fun y => x (hw y)
  · exact fun x => h.loader fun y => x (hw y)
  · exact fun x => h.alm fun y => x (hw y)
  · exact fun x => h.cue fun y => x (hw y)
  · exact fun x => h.mer fun y => x (hw y)
  · exact fun x => h.looms fun y => x (hw y)
  · exact fun x => h.sieves fun y => x (hw y)
  · exact fun x => h.gates fun y => x (hw y)
  · exact fun x => h.pairs fun y => x (hw y)
  · exact fun x => h.sram fun y => x (hw y)
  · exact fun x => h.reeves fun y => x (hw y)
  · exact fun x => h.kats fun y => x (hw y)
  · exact fun x => h.flight fun y => x (hw y)
  · exact fun x => h.ferry fun y => x (hw y)
  · exact fun x => h.power fun y => x (hw y)
  · exact fun x => h.faults fun y => x (hw y)
  · exact fun x => h.restarts fun y => x (hw y)
  · exact fun x => h.ledger fun y => x (hw y)
  · exact fun x => h.wm fun y => x (hw y)
  · exact fun x => h.out fun y => x (hw y)

/-- An outcome, an optional state, and a state or an error, with the frame of a state. -/
def SameOut (w : List Part) (a : State) (o : Host.Outcome State Fault Refusal) : Prop := ∀ t, o = .next t → State.SameBut w a t
def SameOpt (w : List Part) (a : State) (o : Option State) : Prop := ∀ t, o = some t → State.SameBut w a t
def SameExc {ε : Type} (w : List Part) (a : State) (o : Except ε State) : Prop := ∀ t, o = .ok t → State.SameBut w a t

theorem same_next {w : List Part} {a s : State} (h : State.SameBut w a s) : SameOut w a (.next s) := by
  intro t e; cases e; exact h
theorem same_fault {w : List Part} {a : State} (r : Fault) : SameOut w a (.fault r) := by intro t e; cases e
theorem sameOut_ite {w : List Part} {a : State} {c : Prop} [Decidable c] {x y : Host.Outcome State Fault Refusal}
    (h : SameOut w a x) (k : SameOut w a y) : SameOut w a (if c then x else y) := by split <;> assumption
theorem sameOpt_some {w : List Part} {a s : State} (h : State.SameBut w a s) : SameOpt w a (some s) := by
  intro t e; cases e; exact h
theorem sameOpt_none {w : List Part} {a : State} : SameOpt w a none := by intro t e; cases e
theorem sameOpt_elim {w : List Part} {a t : State} {o : Option State} (e : o = some t) (h : SameOpt w a o) :
    State.SameBut w a t := h t e
theorem sameOpt_ite {w : List Part} {a : State} {c : Prop} [Decidable c] {x y : Option State} (h : SameOpt w a x)
    (k : SameOpt w a y) : SameOpt w a (if c then x else y) := by split <;> assumption
theorem sameOpt_bind {w : List Part} {a : State} {o : Option State} {g : State → Option State} (h : SameOpt w a o)
    (hg : ∀ s, State.SameBut w a s → SameOpt w a (g s)) : SameOpt w a (o.bind g) := by
  intro t e
  cases o with
  | none => cases e
  | some s => exact hg s (h s rfl) t e
theorem sameOpt_bindV {β : Type} {w : List Part} {a : State} {o : Option β} {g : β → Option State} (hg : ∀ b, SameOpt w a (g b)) :
    SameOpt w a (o.bind g) := by
  cases o with
  | none => exact sameOpt_none
  | some b => exact hg b
theorem sameOpt_map {w : List Part} {a : State} {o : Option State} {g : State → State} (h : SameOpt w a o)
    (hg : ∀ s, State.SameBut w a s → State.SameBut w a (g s)) : SameOpt w a (o.map g) := by
  intro t e
  cases o with
  | none => cases e
  | some s => cases e; exact hg s (h s rfl)
theorem sameExc_ok {ε : Type} {w : List Part} {a s : State} (h : State.SameBut w a s) : SameExc (ε := ε) w a (.ok s) := by
  intro t e; cases e; exact h
theorem sameExc_error {ε : Type} {w : List Part} {a : State} (e : ε) : SameExc w a (.error e) := by intro t e; cases e
theorem sameExc_elim {ε : Type} {w : List Part} {a t : State} {o : Except ε State} (e : o = .ok t) (h : SameExc w a o) :
    State.SameBut w a t := h t e
theorem sameOpt_getD {w : List Part} {a s : State} {o : Option State} (h : State.SameBut w a s) (k : SameOpt w a o) :
    State.SameBut w a (o.getD s) := by
  cases o with
  | none => exact h
  | some t => exact k t rfl
theorem sameExc_getD {ε : Type} {w : List Part} {a s : State} {o : Except ε State} (h : State.SameBut w a s) (k : SameExc w a o) :
    State.SameBut w a (o.toOption.getD s) := by
  cases o with
  | error e => exact h
  | ok t => exact k t rfl
theorem sameExc_ite {ε : Type} {w : List Part} {a : State} {c : Prop} [Decidable c] {x y : Except ε State} (h : SameExc w a x)
    (k : SameExc w a y) : SameExc w a (if c then x else y) := by split <;> assumption
theorem same_ite {w : List Part} {a x y : State} {c : Prop} [Decidable c] (h : State.SameBut w a x) (k : State.SameBut w a y) :
    State.SameBut w a (if c then x else y) := by split <;> assumption
theorem same_fst_ite {α : Type} {w : List Part} {a : State} {c : Prop} [Decidable c] {x y : State × α}
    (h : State.SameBut w a x.1) (k : State.SameBut w a y.1) : State.SameBut w a (if c then x else y).1 := by split <;> assumption
theorem same_snd_ite {α : Type} {w : List Part} {a : State} {c : Prop} [Decidable c] {x y : α × State}
    (h : State.SameBut w a x.2) (k : State.SameBut w a y.2) : State.SameBut w a (if c then x else y).2 := by split <;> assumption
theorem same_snd {w : List Part} {a : State} {α : Type} {p : α × State} {x : α} {y : State} (e : p = (x, y))
    (h : State.SameBut w a p.2) : State.SameBut w a y := by cases e; exact h
theorem same_fst {w : List Part} {a : State} {α : Type} {p : State × α} {x : α} {y : State} (e : p = (y, x))
    (h : State.SameBut w a p.1) : State.SameBut w a y := by cases e; exact h
theorem same_foldl {w : List Part} {a : State} {α : Type} {g : State → α → State}
    (hg : ∀ s x, State.SameBut w a s → State.SameBut w a (g s x)) (l : List α) {s : State} (h : State.SameBut w a s) :
    State.SameBut w a (l.foldl g s) := by
  induction l generalizing s with
  | nil => exact h
  | cons x l ih => exact ih (hg _ _ h)

theorem State.withPending_same {w : List Part} {a s : State} {v : List Instr} (h : State.SameBut w a s) (hw : [.pending] ⊆ w) :
    State.SameBut w a (s.withPending v) :=
  { h with pending := fun x => absurd (hw (List.mem_singleton.mpr rfl)) x }
theorem State.withNow_same {w : List Part} {a s : State} {v : Nat} (h : State.SameBut w a s) (hw : [.now] ⊆ w) :
    State.SameBut w a (s.withNow v) :=
  { h with now := fun x => absurd (hw (List.mem_singleton.mpr rfl)) x }
theorem State.withFreeCount_same {w : List Part} {a s : State} {v : Nat} (h : State.SameBut w a s) (hw : [.freeCount] ⊆ w) :
    State.SameBut w a (s.withFreeCount v) :=
  { h with freeCount := fun x => absurd (hw (List.mem_singleton.mpr rfl)) x }
theorem State.withFuses_same {w : List Part} {a s : State} {v : Fuses} (h : State.SameBut w a s) (hw : [.fuses] ⊆ w) :
    State.SameBut w a (s.withFuses v) :=
  { h with fuses := fun x => absurd (hw (List.mem_singleton.mpr rfl)) x }
theorem State.withBoard_same {w : List Part} {a s : State} {v : Board} (h : State.SameBut w a s) (hw : [.board] ⊆ w) :
    State.SameBut w a (s.withBoard v) :=
  { h with board := fun x => absurd (hw (List.mem_singleton.mpr rfl)) x }
theorem State.withRegs_same {w : List Part} {a s : State} {v : SMap Word} (h : State.SameBut w a s) (hw : [.regs] ⊆ w) :
    State.SameBut w a (s.withRegs v) :=
  { h with regs := fun x => absurd (hw (List.mem_singleton.mpr rfl)) x }
theorem State.withGuards_same {w : List Part} {a s : State} {v : SMap (Option Guard)} (h : State.SameBut w a s) (hw : [.guards] ⊆ w) :
    State.SameBut w a (s.withGuards v) :=
  { h with guards := fun x => absurd (hw (List.mem_singleton.mpr rfl)) x }
theorem State.withLatch_same {w : List Part} {a s : State} {v : SMap (Option Word)} (h : State.SameBut w a s) (hw : [.latch] ⊆ w) :
    State.SameBut w a (s.withLatch v) :=
  { h with latch := fun x => absurd (hw (List.mem_singleton.mpr rfl)) x }
theorem State.withSnaps_same {w : List Part} {a s : State} {v : SMap Word} (h : State.SameBut w a s) (hw : [.snaps] ⊆ w) :
    State.SameBut w a (s.withSnaps v) :=
  { h with snaps := fun x => absurd (hw (List.mem_singleton.mpr rfl)) x }
theorem State.withMem_same {w : List Part} {a s : State} {v : List Host.Cell} (h : State.SameBut w a s) (hw : [.mem] ⊆ w) :
    State.SameBut w a (s.withMem v) :=
  { h with mem := fun x => absurd (hw (List.mem_singleton.mpr rfl)) x }
theorem State.withMargined_same {w : List Part} {a s : State} {v : List (Nat × Nat × Nat)} (h : State.SameBut w a s) (hw : [.margined] ⊆ w) :
    State.SameBut w a (s.withMargined v) :=
  { h with margined := fun x => absurd (hw (List.mem_singleton.mpr rfl)) x }
theorem State.withHbmStacks_same {w : List Part} {a s : State} {v : SMap StackMem} (h : State.SameBut w a s) (hw : [.hbmStacks] ⊆ w) :
    State.SameBut w a (s.withHbmStacks v) :=
  { h with hbmStacks := fun x => absurd (hw (List.mem_singleton.mpr rfl)) x }
theorem State.withFields_same {w : List Part} {a s : State} {v : SMap (Option FieldPage)} (h : State.SameBut w a s) (hw : [.fields] ⊆ w) :
    State.SameBut w a (s.withFields v) :=
  { h with fields := fun x => absurd (hw (List.mem_singleton.mpr rfl)) x }
theorem State.withFieldReqs_same {w : List Part} {a s : State} {v : SMap (Option FieldReq)} (h : State.SameBut w a s) (hw : [.fieldReqs] ⊆ w) :
    State.SameBut w a (s.withFieldReqs v) :=
  { h with fieldReqs := fun x => absurd (hw (List.mem_singleton.mpr rfl)) x }
theorem State.withDma_same {w : List Part} {a s : State} {v : SMap (List DmaRun)} (h : State.SameBut w a s) (hw : [.dma] ⊆ w) :
    State.SameBut w a (s.withDma v) :=
  { h with dma := fun x => absurd (hw (List.mem_singleton.mpr rfl)) x }
theorem State.withDmaLost_same {w : List Part} {a s : State} {v : List Nat} (h : State.SameBut w a s) (hw : [.dmaLost] ⊆ w) :
    State.SameBut w a (s.withDmaLost v) :=
  { h with dmaLost := fun x => absurd (hw (List.mem_singleton.mpr rfl)) x }
theorem State.withRingLost_same {w : List Part} {a s : State} {v : List Nat} (h : State.SameBut w a s) (hw : [.ringLost] ⊆ w) :
    State.SameBut w a (s.withRingLost v) :=
  { h with ringLost := fun x => absurd (hw (List.mem_singleton.mpr rfl)) x }
theorem State.withBells_same {w : List Part} {a s : State} {v : SMap Bell} (h : State.SameBut w a s) (hw : [.bells] ⊆ w) :
    State.SameBut w a (s.withBells v) :=
  { h with bells := fun x => absurd (hw (List.mem_singleton.mpr rfl)) x }
theorem State.withLoader_same {w : List Part} {a s : State} {v : Loader} (h : State.SameBut w a s) (hw : [.loader] ⊆ w) :
    State.SameBut w a (s.withLoader v) :=
  { h with loader := fun x => absurd (hw (List.mem_singleton.mpr rfl)) x }
theorem State.withAlm_same {w : List Part} {a s : State} {v : SMap (Option AEntry)} (h : State.SameBut w a s) (hw : [.alm] ⊆ w) :
    State.SameBut w a (s.withAlm v) :=
  { h with alm := fun x => absurd (hw (List.mem_singleton.mpr rfl)) x }
theorem State.withCue_same {w : List Part} {a s : State} {v : Cue} (h : State.SameBut w a s) (hw : [.cue] ⊆ w) :
    State.SameBut w a (s.withCue v) :=
  { h with cue := fun x => absurd (hw (List.mem_singleton.mpr rfl)) x }
theorem State.withMer_same {w : List Part} {a s : State} {v : Meridian} (h : State.SameBut w a s) (hw : [.mer] ⊆ w) :
    State.SameBut w a (s.withMer v) :=
  { h with mer := fun x => absurd (hw (List.mem_singleton.mpr rfl)) x }
theorem State.withLooms_same {w : List Part} {a s : State} {v : SMap Loom} (h : State.SameBut w a s) (hw : [.looms] ⊆ w) :
    State.SameBut w a (s.withLooms v) :=
  { h with looms := fun x => absurd (hw (List.mem_singleton.mpr rfl)) x }
theorem State.withSieves_same {w : List Part} {a s : State} {v : SMap Engine} (h : State.SameBut w a s) (hw : [.sieves] ⊆ w) :
    State.SameBut w a (s.withSieves v) :=
  { h with sieves := fun x => absurd (hw (List.mem_singleton.mpr rfl)) x }
theorem State.withGates_same {w : List Part} {a s : State} {v : SMap Engine} (h : State.SameBut w a s) (hw : [.gates] ⊆ w) :
    State.SameBut w a (s.withGates v) :=
  { h with gates := fun x => absurd (hw (List.mem_singleton.mpr rfl)) x }
theorem State.withPairs_same {w : List Part} {a s : State} {v : SMap Pair} (h : State.SameBut w a s) (hw : [.pairs] ⊆ w) :
    State.SameBut w a (s.withPairs v) :=
  { h with pairs := fun x => absurd (hw (List.mem_singleton.mpr rfl)) x }
theorem State.withSram_same {w : List Part} {a s : State} {v : SMap TData} (h : State.SameBut w a s) (hw : [.sram] ⊆ w) :
    State.SameBut w a (s.withSram v) :=
  { h with sram := fun x => absurd (hw (List.mem_singleton.mpr rfl)) x }
theorem State.withReeves_same {w : List Part} {a s : State} {v : SMap Reeve} (h : State.SameBut w a s) (hw : [.reeves] ⊆ w) :
    State.SameBut w a (s.withReeves v) :=
  { h with reeves := fun x => absurd (hw (List.mem_singleton.mpr rfl)) x }
theorem State.withKats_same {w : List Part} {a s : State} {v : SMap (Option KatRun)} (h : State.SameBut w a s) (hw : [.kats] ⊆ w) :
    State.SameBut w a (s.withKats v) :=
  { h with kats := fun x => absurd (hw (List.mem_singleton.mpr rfl)) x }
theorem State.withFlight_same {w : List Part} {a s : State} {v : List (Nat × Tile)} (h : State.SameBut w a s) (hw : [.flight] ⊆ w) :
    State.SameBut w a (s.withFlight v) :=
  { h with flight := fun x => absurd (hw (List.mem_singleton.mpr rfl)) x }
theorem State.withFerry_same {w : List Part} {a s : State} {v : Ferry} (h : State.SameBut w a s) (hw : [.ferry] ⊆ w) :
    State.SameBut w a (s.withFerry v) :=
  { h with ferry := fun x => absurd (hw (List.mem_singleton.mpr rfl)) x }
theorem State.withPower_same {w : List Part} {a s : State} {v : Power} (h : State.SameBut w a s) (hw : [.power] ⊆ w) :
    State.SameBut w a (s.withPower v) :=
  { h with power := fun x => absurd (hw (List.mem_singleton.mpr rfl)) x }
theorem State.withFaults_same {w : List Part} {a s : State} {v : List FaultRec} (h : State.SameBut w a s) (hw : [.faults] ⊆ w) :
    State.SameBut w a (s.withFaults v) :=
  { h with faults := fun x => absurd (hw (List.mem_singleton.mpr rfl)) x }
theorem State.withRestarts_same {w : List Part} {a s : State} {v : List Nat} (h : State.SameBut w a s) (hw : [.restarts] ⊆ w) :
    State.SameBut w a (s.withRestarts v) :=
  { h with restarts := fun x => absurd (hw (List.mem_singleton.mpr rfl)) x }
theorem State.withLedger_same {w : List Part} {a s : State} {v : Ledger} (h : State.SameBut w a s) (hw : [.ledger] ⊆ w) :
    State.SameBut w a (s.withLedger v) :=
  { h with ledger := fun x => absurd (hw (List.mem_singleton.mpr rfl)) x }
theorem State.withWm_same {w : List Part} {a s : State} {v : Watchman} (h : State.SameBut w a s) (hw : [.wm] ⊆ w) :
    State.SameBut w a (s.withWm v) :=
  { h with wm := fun x => absurd (hw (List.mem_singleton.mpr rfl)) x }
theorem State.withOut_same {w : List Part} {a s : State} {v : Out} (h : State.SameBut w a s) (hw : [.out] ⊆ w) :
    State.SameBut w a (s.withOut v) :=
  { h with out := fun x => absurd (hw (List.mem_singleton.mpr rfl)) x }

end Sys2Proof.Machine
end

