-- ==== Sys2Proof/Laws/SameOps.lean ====
section
/-! SUPPORT. What the definitions of Machine/Ops.lean change (State.SameBut). -/

namespace Sys2Proof.Machine

theorem State.setPort_same {w : List Part} {a s : State} {x0 x1 x2} (h : State.SameBut w a s)
    (hw : [.ferry] ⊆ w) :
    State.SameBut w a (State.setPort s x0 x1 x2) := by
  unfold State.setPort
  with_reducible repeat' (first
    | exact h | assumption | refine State.withFerry_same ?_ hw | refine same_foldl ?_ _ ?_ | apply same_ite
    | apply_assumption | dsimp only | split | intro _ _ _ | intro _ _)

theorem State.setReg_same {w : List Part} {a s : State} {x0 x1} (h : State.SameBut w a s)
    (hw : [.regs] ⊆ w) :
    State.SameBut w a (State.setReg s x0 x1) := by
  unfold State.setReg
  with_reducible repeat' (first
    | exact h | assumption | refine State.withRegs_same ?_ hw | refine same_foldl ?_ _ ?_ | apply same_ite
    | apply_assumption | dsimp only | split | intro _ _ _ | intro _ _)

theorem State.setFld_same {w : List Part} {a s : State} {x0 x1 x2 x3} (h : State.SameBut w a s)
    (hw : [.regs] ⊆ w) :
    State.SameBut w a (State.setFld s x0 x1 x2 x3) := by
  unfold State.setFld
  with_reducible repeat' (first
    | exact h | assumption | refine State.setReg_same ?_ hw | refine same_foldl ?_ _ ?_ | apply same_ite
    | apply_assumption | dsimp only | split | intro _ _ _ | intro _ _)

theorem State.bumpSat_same {w : List Part} {a s : State} {x0 x1 x2} (h : State.SameBut w a s)
    (hw : [.regs] ⊆ w) :
    State.SameBut w a (State.bumpSat s x0 x1 x2) := by
  unfold State.bumpSat
  with_reducible repeat' (first
    | exact h | assumption | refine State.setFld_same ?_ hw | refine same_foldl ?_ _ ?_ | apply same_ite
    | apply_assumption | dsimp only | split | intro _ _ _ | intro _ _)

theorem State.bump_same {w : List Part} {a s : State} {x0 x1 x2} (h : State.SameBut w a s)
    (hw : [.regs] ⊆ w) :
    State.SameBut w a (State.bump s x0 x1 x2) := by
  unfold State.bump
  with_reducible repeat' (first
    | exact h | assumption | refine State.setFld_same ?_ hw | refine same_foldl ?_ _ ?_ | apply same_ite
    | apply_assumption | dsimp only | split | intro _ _ _ | intro _ _)

theorem State.setLoom_same {w : List Part} {a s : State} {x0 x1 x2 x3} (h : State.SameBut w a s)
    (hw : [.looms] ⊆ w) :
    State.SameBut w a (State.setLoom s x0 x1 x2 x3) := by
  unfold State.setLoom
  with_reducible repeat' (first
    | exact h | assumption | refine State.withLooms_same ?_ hw | refine same_foldl ?_ _ ?_ | apply same_ite
    | apply_assumption | dsimp only | split | intro _ _ _ | intro _ _)

theorem State.setPair_same {w : List Part} {a s : State} {x0 x1} (h : State.SameBut w a s)
    (hw : [.pairs] ⊆ w) :
    State.SameBut w a (State.setPair s x0 x1) := by
  unfold State.setPair
  with_reducible repeat' (first
    | exact h | assumption | refine State.withPairs_same ?_ hw | refine same_foldl ?_ _ ?_ | apply same_ite
    | apply_assumption | dsimp only | split | intro _ _ _ | intro _ _)

theorem State.setStack_same {w : List Part} {a s : State} {x0 x1} (h : State.SameBut w a s)
    (hw : [.hbmStacks] ⊆ w) :
    State.SameBut w a (State.setStack s x0 x1) := by
  unfold State.setStack
  with_reducible repeat' (first
    | exact h | assumption | refine State.withHbmStacks_same ?_ hw | refine same_foldl ?_ _ ?_ | apply same_ite
    | apply_assumption | dsimp only | split | intro _ _ _ | intro _ _)

theorem State.setByte_same {w : List Part} {a s : State} {x0 x1} (h : State.SameBut w a s)
    (hw : [.mem] ⊆ w) :
    State.SameBut w a (State.setByte s x0 x1) := by
  unfold State.setByte
  with_reducible repeat' (first
    | exact h | assumption | refine State.withMem_same ?_ hw | refine same_foldl ?_ _ ?_ | apply same_ite
    | apply_assumption | dsimp only | split | intro _ _ _ | intro _ _)

theorem State.sendFlit_same {w : List Part} {a s : State} {x0 x1} (h : State.SameBut w a s)
    (hw : [.out] ⊆ w) :
    State.SameBut w a (State.sendFlit s x0 x1) := by
  unfold State.sendFlit
  with_reducible repeat' (first
    | exact h | assumption | refine State.withOut_same ?_ hw | refine same_foldl ?_ _ ?_ | apply same_ite
    | apply_assumption | dsimp only | split | intro _ _ _ | intro _ _)

theorem State.setBell_same {w : List Part} {a s : State} {x0 x1 x2} (h : State.SameBut w a s)
    (hw : [.bells] ⊆ w) :
    State.SameBut w a (State.setBell s x0 x1 x2) := by
  unfold State.setBell
  with_reducible repeat' (first
    | exact h | assumption | refine State.withBells_same ?_ hw | refine same_foldl ?_ _ ?_ | apply same_ite
    | apply_assumption | dsimp only | split | intro _ _ _ | intro _ _)

theorem State.setSieve_same {w : List Part} {a s : State} {x0 x1 x2} (h : State.SameBut w a s)
    (hw : [.sieves] ⊆ w) :
    State.SameBut w a (State.setSieve s x0 x1 x2) := by
  unfold State.setSieve
  with_reducible repeat' (first
    | exact h | assumption | refine State.withSieves_same ?_ hw | refine same_foldl ?_ _ ?_ | apply same_ite
    | apply_assumption | dsimp only | split | intro _ _ _ | intro _ _)

theorem State.setGate_same {w : List Part} {a s : State} {x0 x1} (h : State.SameBut w a s)
    (hw : [.gates] ⊆ w) :
    State.SameBut w a (State.setGate s x0 x1) := by
  unfold State.setGate
  with_reducible repeat' (first
    | exact h | assumption | refine State.withGates_same ?_ hw | refine same_foldl ?_ _ ?_ | apply same_ite
    | apply_assumption | dsimp only | split | intro _ _ _ | intro _ _)

theorem State.setStep_same {w : List Part} {a s : State} {x0} (h : State.SameBut w a s)
    (hw : [.loader] ⊆ w) :
    State.SameBut w a (State.setStep s x0) := by
  unfold State.setStep
  with_reducible repeat' (first
    | exact h | assumption | refine State.withLoader_same ?_ hw | refine same_foldl ?_ _ ?_ | apply same_ite
    | apply_assumption | dsimp only | split | intro _ _ _ | intro _ _)

theorem State.setJob_same {w : List Part} {a s : State} {x0} (h : State.SameBut w a s)
    (hw : [.loader] ⊆ w) :
    State.SameBut w a (State.setJob s x0) := by
  unfold State.setJob
  with_reducible repeat' (first
    | exact h | assumption | refine State.withLoader_same ?_ hw | refine same_foldl ?_ _ ?_ | apply same_ite
    | apply_assumption | dsimp only | split | intro _ _ _ | intro _ _)

theorem State.openValue_same {w : List Part} {a s : State} (h : State.SameBut w a s)
    (hw : [.freeCount] ⊆ w) :
    State.SameBut w a (State.openValue s).2 := by
  unfold State.openValue
  with_reducible repeat' (first
    | exact h | assumption | refine State.withFreeCount_same ?_ hw | refine same_foldl ?_ _ ?_ | apply same_snd_ite
    | apply same_ite | apply_assumption | dsimp only | split | intro _ _ _ | intro _ _)

theorem State.setReeve_same {w : List Part} {a s : State} {x0 x1 x2} (h : State.SameBut w a s)
    (hw : [.reeves] ⊆ w) :
    State.SameBut w a (State.setReeve s x0 x1 x2) := by
  unfold State.setReeve
  with_reducible repeat' (first
    | exact h | assumption | refine State.withReeves_same ?_ hw | refine same_foldl ?_ _ ?_ | apply same_ite
    | apply_assumption | dsimp only | split | intro _ _ _ | intro _ _)

theorem State.dropStep_same {w : List Part} {a s : State} {x0} (h : State.SameBut w a s)
    (hw : [.loader] ⊆ w) :
    State.SameBut w a (State.dropStep s x0) := by
  unfold State.dropStep
  with_reducible repeat' (first
    | exact h | assumption | refine State.withLoader_same ?_ hw | refine same_foldl ?_ _ ?_ | apply same_ite
    | apply_assumption | dsimp only | split | intro _ _ _ | intro _ _)

theorem State.alert_same {w : List Part} {a s : State} {x0} (h : State.SameBut w a s)
    (hw : [.regs, .out] ⊆ w) :
    State.SameBut w a (State.alert s x0) := by
  unfold State.alert
  with_reducible repeat' (first
    | exact h | assumption | refine State.withOut_same ?_ (Part.sub (by decide) hw)
    | refine State.setFld_same ?_ (Part.sub (by decide) hw) | refine same_foldl ?_ _ ?_ | apply same_ite
    | apply_assumption | dsimp only | split | intro _ _ _ | intro _ _)

theorem State.ledgerAdd_same {w : List Part} {a s : State} {x0 x1 x2 x3 x4 x5 x6 x7 x8} (h : State.SameBut w a s)
    (hw : [.regs, .ledger, .out] ⊆ w) :
    State.SameBut w a (State.ledgerAdd s x0 x1 x2 x3 x4 x5 x6 x7 x8) := by
  unfold State.ledgerAdd
  with_reducible repeat' (first
    | exact h | assumption | refine State.withLedger_same ?_ (Part.sub (by decide) hw)
    | refine State.alert_same ?_ (Part.sub (by decide) hw) | refine same_foldl ?_ _ ?_ | apply same_ite
    | apply_assumption | dsimp only | split | intro _ _ _ | intro _ _)

theorem State.bump64_same {w : List Part} {a s : State} {x0 x1 x2 x3} (h : State.SameBut w a s)
    (hw : [.regs] ⊆ w) :
    State.SameBut w a (State.bump64 s x0 x1 x2 x3) := by
  unfold State.bump64
  with_reducible repeat' (first
    | exact h | assumption | refine State.setFld_same ?_ hw | refine same_foldl ?_ _ ?_ | apply same_ite
    | apply_assumption | dsimp only | split | intro _ _ _ | intro _ _)

theorem State.setAlm_same {w : List Part} {a s : State} {x0 x1} (h : State.SameBut w a s)
    (hw : [.alm] ⊆ w) :
    State.SameBut w a (State.setAlm s x0 x1) := by
  unfold State.setAlm
  with_reducible repeat' (first
    | exact h | assumption | refine State.withAlm_same ?_ hw | refine same_foldl ?_ _ ?_ | apply same_ite
    | apply_assumption | dsimp only | split | intro _ _ _ | intro _ _)

theorem State.merRebase_same {w : List Part} {a s : State} (h : State.SameBut w a s)
    (hw : [.mer] ⊆ w) :
    State.SameBut w a (State.merRebase s) := by
  unfold State.merRebase
  with_reducible repeat' (first
    | exact h | assumption | refine State.withMer_same ?_ hw | refine same_foldl ?_ _ ?_ | apply same_ite
    | apply_assumption | dsimp only | split | intro _ _ _ | intro _ _)

theorem storeBytes_same {w : List Part} {a s : State} {x0 x1} (h : State.SameBut w a s)
    (hw : [.mem] ⊆ w) :
    State.SameBut w a (storeBytes s x0 x1) := by
  fun_induction storeBytes s x0 x1
  with_reducible repeat' (first
    | exact h | assumption | refine State.setByte_same ?_ hw | refine same_foldl ?_ _ ?_ | apply same_ite
    | apply_assumption | dsimp only | split | intro _ _ _ | intro _ _)

theorem State.respond_same {w : List Part} {a s : State} {x0 x1} (h : State.SameBut w a s)
    (hw : [.out] ⊆ w) :
    State.SameBut w a (State.respond s x0 x1) := by
  unfold State.respond
  with_reducible repeat' (first
    | exact h | assumption | refine State.withOut_same ?_ hw | refine same_foldl ?_ _ ?_ | apply same_ite
    | apply_assumption | dsimp only | split | intro _ _ _ | intro _ _)

theorem State.respondWords_same {w : List Part} {a s : State} {x0 x1} (h : State.SameBut w a s)
    (hw : [.out] ⊆ w) :
    State.SameBut w a (State.respondWords s x0 x1) := by
  unfold State.respondWords
  with_reducible repeat' (first
    | exact h | assumption | refine State.respond_same ?_ hw | refine same_foldl ?_ _ ?_ | apply same_ite
    | apply_assumption | dsimp only | split | intro _ _ _ | intro _ _)

theorem storeVa_same {w : List Part} {a s : State} {x0 x1 x2} (h : State.SameBut w a s)
    (hw : [.mem] ⊆ w) :
    State.SameBut w a (storeVa s x0 x1 x2) := by
  fun_induction storeVa s x0 x1 x2
  with_reducible repeat' (first
    | exact h | assumption | refine State.setByte_same ?_ hw | refine same_foldl ?_ _ ?_ | apply same_ite
    | apply_assumption | dsimp only | split | intro _ _ _ | intro _ _)

end Sys2Proof.Machine
end

