-- ==== Sys2Proof/Laws/SameFlags.lean ====
section
/-! SUPPORT. What the definitions of Machine/Flags.lean change (State.SameBut). -/

namespace Sys2Proof.Machine

theorem State.pendVector_same {w : List Part} {a s : State} {x0 x1} (h : State.SameBut w a s)
    (hw : [.out] ⊆ w) :
    State.SameBut w a (State.pendVector s x0 x1) := by
  unfold State.pendVector
  with_reducible repeat' (first
    | exact h | assumption | refine State.withOut_same ?_ hw | refine same_foldl ?_ _ ?_ | apply same_ite
    | apply_assumption | dsimp only | split | intro _ _ _ | intro _ _)

theorem State.dropOne_same {w : List Part} {a s : State} {x0} (h : State.SameBut w a s)
    (hw : [.regs] ⊆ w) :
    State.SameBut w a (State.dropOne s x0) := by
  unfold State.dropOne
  with_reducible repeat' (first
    | exact h | assumption | refine State.setFld_same ?_ hw | refine State.bumpSat_same ?_ hw
    | refine same_foldl ?_ _ ?_ | apply same_ite | apply_assumption | dsimp only | split | intro _ _ _ | intro _ _)

theorem State.dropMsg_same {w : List Part} {a s : State} {x0} (h : State.SameBut w a s)
    (hw : [.regs, .out] ⊆ w) :
    State.SameBut w a (State.dropMsg s x0) := by
  unfold State.dropMsg
  with_reducible repeat' (first
    | exact h | assumption | refine State.dropOne_same ?_ (Part.sub (by decide) hw)
    | refine State.pendVector_same ?_ (Part.sub (by decide) hw) | refine same_foldl ?_ _ ?_ | apply same_ite
    | apply_assumption | dsimp only | split | intro _ _ _ | intro _ _)

theorem State.msix_same {w : List Part} {a s : State} {x0 x1} (h : State.SameBut w a s)
    (hw : [.regs, .out] ⊆ w) :
    State.SameBut w a (State.msix s x0 x1) := by
  unfold State.msix
  with_reducible repeat' (first
    | exact h | assumption | refine State.pendVector_same ?_ (Part.sub (by decide) hw)
    | refine State.withOut_same ?_ (Part.sub (by decide) hw) | refine State.dropMsg_same ?_ hw
    | refine same_foldl ?_ _ ?_ | apply same_ite | apply_assumption | dsimp only | split | intro _ _ _ | intro _ _)

theorem attnRise_same {w : List Part} {a s : State} {x0 x1} (h : State.SameBut w a s)
    (hw : [.regs, .out] ⊆ w) :
    State.SameBut w a (attnRise x0 s x1) := by
  unfold attnRise
  with_reducible repeat' (first
    | exact h | assumption | refine State.msix_same ?_ hw | refine same_foldl ?_ _ ?_ | apply same_ite
    | apply_assumption | dsimp only | split | intro _ _ _ | intro _ _)

theorem State.event_same {w : List Part} {a s : State} {x0 x1} (h : State.SameBut w a s)
    (hw : [.regs, .out] ⊆ w) :
    State.SameBut w a (State.event s x0 x1) := by
  unfold State.event
  with_reducible repeat' (first
    | exact h | assumption | refine attnRise_same ?_ hw | refine State.setFld_same ?_ (Part.sub (by decide) hw)
    | refine same_foldl ?_ _ ?_ | apply same_ite | apply_assumption | dsimp only | split | intro _ _ _ | intro _ _)

theorem State.capture_same {w : List Part} {a s : State} {x0 x1 x2} (h : State.SameBut w a s)
    (hw : [.regs] ⊆ w) :
    State.SameBut w a (State.capture s x0 x1 x2) := by
  unfold State.capture
  with_reducible repeat' (first
    | exact h | assumption | refine State.setReg_same ?_ hw | refine same_foldl ?_ _ ?_ | apply same_ite
    | apply_assumption | dsimp only | split | intro _ _ _ | intro _ _)

theorem State.fault_same {w : List Part} {a s : State} {x0 x1 x2 x3 x4} (h : State.SameBut w a s)
    (hw : [.regs, .faults] ⊆ w) :
    State.SameBut w a (State.fault s x0 x1 x2 x3 x4) := by
  unfold State.fault
  with_reducible repeat' (first
    | exact h | assumption | refine State.capture_same ?_ (Part.sub (by decide) hw)
    | refine State.withFaults_same ?_ (Part.sub (by decide) hw) | refine same_foldl ?_ _ ?_ | apply same_ite
    | apply_assumption | dsimp only | split | intro _ _ _ | intro _ _)

theorem State.checkFault_same {w : List Part} {a s : State} {x0 x1 x2} (h : State.SameBut w a s)
    (hw : [.regs, .faults] ⊆ w) :
    State.SameBut w a (State.checkFault s x0 x1 x2) := by
  unfold State.checkFault
  with_reducible repeat' (first
    | exact h | assumption | refine State.fault_same ?_ hw | refine same_foldl ?_ _ ?_ | apply same_ite
    | apply_assumption | dsimp only | split | intro _ _ _ | intro _ _)

theorem State.stateChange_same {w : List Part} {a s : State} (h : State.SameBut w a s)
    (hw : [.regs, .out] ⊆ w) :
    State.SameBut w a (State.stateChange s) := by
  unfold State.stateChange
  with_reducible repeat' (first
    | exact h | assumption | refine State.event_same ?_ hw | refine same_foldl ?_ _ ?_ | apply same_ite
    | apply_assumption | dsimp only | split | intro _ _ _ | intro _ _)

theorem noteStates_same {w : List Part} {a s : State} {x0} (h : State.SameBut w a s)
    (hw : [.regs, .out] ⊆ w) :
    State.SameBut w a (noteStates x0 s) := by
  unfold noteStates
  with_reducible repeat' (first
    | exact h | assumption | refine State.stateChange_same ?_ hw | refine same_foldl ?_ _ ?_ | apply same_ite
    | apply_assumption | dsimp only | split | intro _ _ _ | intro _ _)

theorem State.events_same {w : List Part} {a s : State} {x0 x1 x2 x3} (h : State.SameBut w a s)
    (hw : [.regs, .out] ⊆ w) :
    State.SameBut w a (State.events s x0 x1 x2 x3) := by
  unfold State.events
  with_reducible repeat' (first
    | exact h | assumption | refine State.event_same ?_ hw | refine State.bump_same ?_ (Part.sub (by decide) hw)
    | refine same_foldl ?_ _ ?_ | apply same_ite | apply_assumption | dsimp only | split | intro _ _ _ | intro _ _)

theorem State.passTo_same {w : List Part} {a s : State} {x0} (h : State.SameBut w a s)
    (hw : [.now, .regs, .out] ⊆ w) :
    State.SameBut w a (State.passTo s x0) := by
  unfold State.passTo
  with_reducible repeat' (first
    | exact h | assumption | refine noteStates_same ?_ (Part.sub (by decide) hw)
    | refine State.withNow_same ?_ (Part.sub (by decide) hw) | refine same_foldl ?_ _ ?_ | apply same_ite
    | apply_assumption | dsimp only | split | intro _ _ _ | intro _ _)

theorem State.deny_same {w : List Part} {a s : State} {x0} (h : State.SameBut w a s)
    (hw : [.regs, .out] ⊆ w) :
    State.SameBut w a (State.deny s x0) := by
  unfold State.deny
  with_reducible repeat' (first
    | exact h | assumption | refine State.event_same ?_ hw | refine State.bumpSat_same ?_ (Part.sub (by decide) hw)
    | refine same_foldl ?_ _ ?_ | apply same_ite | apply_assumption | dsimp only | split | intro _ _ _ | intro _ _)

theorem State.advanceTo_same {w : List Part} {a s : State} {x0} (h : State.SameBut w a s)
    (hw : [.now, .regs, .out] ⊆ w) :
    State.SameBut w a (State.advanceTo s x0) := by
  unfold State.advanceTo
  with_reducible repeat' (first
    | exact h | assumption | refine State.passTo_same ?_ hw | refine same_foldl ?_ _ ?_ | apply same_ite
    | apply_assumption | dsimp only | split | intro _ _ _ | intro _ _)

end Sys2Proof.Machine
end

