-- ==== Sys2Proof/Laws/SameBells.lean ====
section
/-! SUPPORT. What the definitions of Machine/Bells.lean change (State.SameBut). -/

namespace Sys2Proof.Machine

theorem State.discardAt_same {w : List Part} {a s : State} {x0 x1} (h : State.SameBut w a s)
    (hw : [.looms, .sieves, .gates, .pairs] ⊆ w) :
    State.SameBut w a (State.discardAt s x0 x1) := by
  unfold State.discardAt
  with_reducible repeat' (first
    | exact h | assumption | refine State.setLoom_same ?_ (Part.sub (by decide) hw)
    | refine State.setSieve_same ?_ (Part.sub (by decide) hw) | refine State.setGate_same ?_ (Part.sub (by decide) hw)
    | refine State.setPair_same ?_ (Part.sub (by decide) hw) | refine same_foldl ?_ _ ?_ | apply same_ite
    | apply_assumption | dsimp only | split | intro _ _ _ | intro _ _)

theorem discardWaiters_same {w : List Part} {a s : State} {x0 x1 x2} (h : State.SameBut w a s)
    (hw : [.looms, .sieves, .gates, .pairs] ⊆ w) :
    State.SameBut w a (discardWaiters s x0 x1 x2) := by
  fun_induction discardWaiters s x0 x1 x2
  with_reducible repeat' (first
    | exact h | assumption | refine State.discardAt_same ?_ hw | refine same_foldl ?_ _ ?_ | apply same_ite
    | apply_assumption | dsimp only | split | intro _ _ _ | intro _ _)

theorem State.signal_same {w : List Part} {a s : State} {x0 x1 x2 x3} (h : State.SameBut w a s)
    (hw : [.regs, .bells, .looms, .sieves, .gates, .pairs, .out] ⊆ w) :
    State.SameBut w a (State.signal s x0 x1 x2 x3) := by
  unfold State.signal
  with_reducible repeat' (first
    | exact h | assumption | refine State.setBell_same ?_ (Part.sub (by decide) hw)
    | refine State.bump_same ?_ (Part.sub (by decide) hw) | refine discardWaiters_same ?_ (Part.sub (by decide) hw)
    | refine State.event_same ?_ (Part.sub (by decide) hw) | refine same_foldl ?_ _ ?_ | apply same_ite
    | apply_assumption | dsimp only | split | intro _ _ _ | intro _ _)

theorem State.unitSignal_same {w : List Part} {a s : State} {x0 x1 x2 x3} (h : State.SameBut w a s)
    (hw : [.regs, .bells, .looms, .sieves, .gates, .pairs, .faults, .out] ⊆ w) :
    State.SameBut w a (State.unitSignal s x0 x1 x2 x3) := by
  unfold State.unitSignal
  with_reducible repeat' (first
    | exact h | assumption | refine State.signal_same ?_ (Part.sub (by decide) hw)
    | refine State.withFaults_same ?_ (Part.sub (by decide) hw) | refine same_foldl ?_ _ ?_ | apply same_ite
    | apply_assumption | dsimp only | split | intro _ _ _ | intro _ _)

theorem State.signalLogical_same {w : List Part} {a s : State} {x0 x1 x2 x3} (h : State.SameBut w a s)
    (hw : [.regs, .bells, .looms, .sieves, .gates, .pairs, .faults, .out] ⊆ w) :
    State.SameBut w a (State.signalLogical s x0 x1 x2 x3) := by
  unfold State.signalLogical
  with_reducible repeat' (first
    | exact h | assumption | refine State.unitSignal_same ?_ hw | refine same_foldl ?_ _ ?_ | apply same_ite
    | apply_assumption | dsimp only | split | intro _ _ _ | intro _ _)

theorem State.bellWrite_same {w : List Part} {a s : State} {x0 x1 x2 x3 x4} (h : State.SameBut w a s)
    (hw : [.regs, .bells, .looms, .sieves, .gates, .pairs, .out] ⊆ w) :
    State.SameBut w a (State.bellWrite s x0 x1 x2 x3 x4) := by
  unfold State.bellWrite
  with_reducible repeat' (first
    | exact h | assumption | refine State.deny_same ?_ (Part.sub (by decide) hw) | refine State.signal_same ?_ hw
    | refine same_foldl ?_ _ ?_ | apply same_ite | apply_assumption | dsimp only | split | intro _ _ _ | intro _ _)

theorem execBellSet_same {w : List Part} {a s : State} {x0 x1 x2 x3} (h : State.SameBut w a s)
    (hw : [.regs, .bells, .looms, .sieves, .gates, .pairs, .out] ⊆ w) :
    SameOut w a (execBellSet x0 x1 x2 x3 s) := by
  unfold execBellSet
  with_reducible repeat' (first
    | apply same_next | exact same_fault _ | exact h | assumption | refine State.bellWrite_same ?_ hw
    | refine same_foldl ?_ _ ?_ | apply sameOut_ite | apply same_ite | apply_assumption | dsimp only | split
    | intro _ _ _ | intro _ _)

theorem State.proceed_same {w : List Part} {a s : State} {x0} (h : State.SameBut w a s)
    (hw : [.sieves, .gates, .pairs] ⊆ w) :
    State.SameBut w a (State.proceed s x0) := by
  unfold State.proceed
  with_reducible repeat' (first
    | exact h | assumption | refine State.setSieve_same ?_ (Part.sub (by decide) hw)
    | refine State.setGate_same ?_ (Part.sub (by decide) hw) | refine State.setPair_same ?_ (Part.sub (by decide) hw)
    | refine same_foldl ?_ _ ?_ | apply same_ite | apply_assumption | dsimp only | split | intro _ _ _ | intro _ _)

theorem State.errorWait_same {w : List Part} {a s : State} {x0} (h : State.SameBut w a s)
    (hw : [.looms, .sieves, .gates, .pairs] ⊆ w) :
    State.SameBut w a (State.errorWait s x0) := by
  unfold State.errorWait
  with_reducible repeat' (first
    | exact h | assumption | refine State.discardAt_same ?_ hw | refine same_foldl ?_ _ ?_ | apply same_ite
    | apply_assumption | dsimp only | split | intro _ _ _ | intro _ _)

theorem execReeveHeartbeat_same {w : List Part} {a s : State} {x0 x1 x2} (h : State.SameBut w a s)
    (hw : [.reeves] ⊆ w) :
    SameOut w a (execReeveHeartbeat x0 x1 x2 s) := by
  unfold execReeveHeartbeat
  with_reducible repeat' (first
    | apply same_next | exact same_fault _ | exact h | assumption | refine State.setReeve_same ?_ hw
    | refine same_foldl ?_ _ ?_ | apply sameOut_ite | apply same_ite | apply_assumption | dsimp only | split
    | intro _ _ _ | intro _ _)

theorem execSignalAdd_same {w : List Part} {a s : State} {x0 x1 x2} (h : State.SameBut w a s)
    (hw : [.regs, .bells, .looms, .sieves, .gates, .pairs, .out] ⊆ w) :
    SameOut w a (execSignalAdd x0 x1 x2 s) := by
  unfold execSignalAdd
  with_reducible repeat' (first
    | apply same_next | exact same_fault _ | exact h | assumption | refine State.signal_same ?_ hw
    | refine same_foldl ?_ _ ?_ | apply sameOut_ite | apply same_ite | apply_assumption | dsimp only | split
    | intro _ _ _ | intro _ _)

theorem State.countWait_same {w : List Part} {a s : State} {x0} (h : State.SameBut w a s)
    (hw : [.regs] ⊆ w) :
    State.SameBut w a (State.countWait s x0) := by
  unfold State.countWait
  with_reducible repeat' (first
    | exact h | assumption | refine State.bump64_same ?_ hw | refine same_foldl ?_ _ ?_ | apply same_ite
    | apply_assumption | dsimp only | split | intro _ _ _ | intro _ _)

theorem execWaitSatisfied_same {w : List Part} {a s : State} {x0} (h : State.SameBut w a s)
    (hw : [.regs, .looms, .sieves, .gates, .pairs] ⊆ w) :
    SameOut w a (execWaitSatisfied x0 s) := by
  unfold execWaitSatisfied
  with_reducible repeat' (first
    | apply same_next | exact same_fault _ | exact h | assumption
    | refine State.countWait_same ?_ (Part.sub (by decide) hw)
    | refine State.proceed_same ?_ (Part.sub (by decide) hw)
    | refine State.errorWait_same ?_ (Part.sub (by decide) hw) | refine same_foldl ?_ _ ?_ | apply sameOut_ite
    | apply same_ite | apply_assumption | dsimp only | split | intro _ _ _ | intro _ _)

theorem execSignalSet_same {w : List Part} {a s : State} {x0 x1 x2} (h : State.SameBut w a s)
    (hw : [.regs, .bells, .looms, .sieves, .gates, .pairs, .out] ⊆ w) :
    SameOut w a (execSignalSet x0 x1 x2 s) := by
  unfold execSignalSet
  with_reducible repeat' (first
    | apply same_next | exact same_fault _ | exact h | assumption | refine State.signal_same ?_ hw
    | refine same_foldl ?_ _ ?_ | apply sameOut_ite | apply same_ite | apply_assumption | dsimp only | split
    | intro _ _ _ | intro _ _)

theorem execSignalMax_same {w : List Part} {a s : State} {x0 x1 x2} (h : State.SameBut w a s)
    (hw : [.regs, .bells, .looms, .sieves, .gates, .pairs, .out] ⊆ w) :
    SameOut w a (execSignalMax x0 x1 x2 s) := by
  unfold execSignalMax
  with_reducible repeat' (first
    | apply same_next | exact same_fault _ | exact h | assumption | refine State.signal_same ?_ hw
    | refine same_foldl ?_ _ ?_ | apply sameOut_ite | apply same_ite | apply_assumption | dsimp only | split
    | intro _ _ _ | intro _ _)

theorem execBellAdd_same {w : List Part} {a s : State} {x0 x1 x2 x3} (h : State.SameBut w a s)
    (hw : [.regs, .bells, .looms, .sieves, .gates, .pairs, .out] ⊆ w) :
    SameOut w a (execBellAdd x0 x1 x2 x3 s) := by
  unfold execBellAdd
  with_reducible repeat' (first
    | apply same_next | exact same_fault _ | exact h | assumption | refine State.bellWrite_same ?_ hw
    | refine same_foldl ?_ _ ?_ | apply sameOut_ite | apply same_ite | apply_assumption | dsimp only | split
    | intro _ _ _ | intro _ _)

theorem execBellWaitTimeout_same {w : List Part} {a s : State} {x0} (h : State.SameBut w a s)
    (hw : [.now, .regs, .looms, .sieves, .gates, .pairs, .faults, .out] ⊆ w) :
    SameOut w a (execBellWaitTimeout x0 s) := by
  unfold execBellWaitTimeout
  with_reducible repeat' (first
    | apply same_next | exact same_fault _ | exact h | assumption
    | refine State.errorWait_same ?_ (Part.sub (by decide) hw) | refine State.fault_same ?_ (Part.sub (by decide) hw)
    | refine State.passTo_same ?_ (Part.sub (by decide) hw) | refine same_foldl ?_ _ ?_ | apply sameOut_ite
    | apply same_ite | apply_assumption | dsimp only | split | intro _ _ _ | intro _ _)

theorem execSignalError_same {w : List Part} {a s : State} {x0 x1 x2} (h : State.SameBut w a s)
    (hw : [.regs, .bells, .looms, .sieves, .gates, .pairs, .faults, .out] ⊆ w) :
    SameOut w a (execSignalError x0 x1 x2 s) := by
  unfold execSignalError
  with_reducible repeat' (first
    | apply same_next | exact same_fault _ | exact h | assumption | refine State.unitSignal_same ?_ hw
    | refine same_foldl ?_ _ ?_ | apply sameOut_ite | apply same_ite | apply_assumption | dsimp only | split
    | intro _ _ _ | intro _ _)

theorem execReeveWatchdogExpiry_same {w : List Part} {a s : State} {x0 x1} (h : State.SameBut w a s)
    (hw : [.now, .regs, .reeves, .faults, .out] ⊆ w) :
    SameOut w a (execReeveWatchdogExpiry x0 x1 s) := by
  unfold execReeveWatchdogExpiry
  with_reducible repeat' (first
    | apply same_next | exact same_fault _ | exact h | assumption
    | refine State.fault_same ?_ (Part.sub (by decide) hw) | refine State.setReeve_same ?_ (Part.sub (by decide) hw)
    | refine State.passTo_same ?_ (Part.sub (by decide) hw) | refine same_foldl ?_ _ ?_ | apply sameOut_ite
    | apply same_ite | apply_assumption | dsimp only | split | intro _ _ _ | intro _ _)

end Sys2Proof.Machine
end

