-- ==== Sys2Proof/Laws/SameHbm.lean ====
section
/-! SUPPORT. What the definitions of Machine/Hbm.lean change (State.SameBut). -/

namespace Sys2Proof.Machine

theorem wake_same {w : List Part} {a s : State} {x0} (h : State.SameBut w a s)
    (hw : [.regs] ⊆ w) :
    State.SameBut w a (wake x0 s) := by
  fun_induction wake x0 s
  with_reducible repeat' (first
    | exact h | assumption | refine State.setFld_same ?_ hw | refine same_foldl ?_ _ ?_ | apply same_ite
    | apply_assumption | dsimp only | split | intro _ _ _ | intro _ _)

theorem State.wakeSpans_same {w : List Part} {a s : State} {x0} (h : State.SameBut w a s)
    (hw : [.regs] ⊆ w) :
    State.SameBut w a (State.wakeSpans s x0) := by
  unfold State.wakeSpans
  with_reducible repeat' (first
    | exact h | assumption | refine wake_same ?_ hw | refine same_foldl ?_ _ ?_ | apply same_ite | apply_assumption
    | dsimp only | split | intro _ _ _ | intro _ _)

theorem State.ueEvent_same {w : List Part} {a s : State} {x0} (h : State.SameBut w a s)
    (hw : [.regs, .faults, .out] ⊆ w) :
    State.SameBut w a (State.ueEvent s x0) := by
  unfold State.ueEvent
  with_reducible repeat' (first
    | exact h | assumption | refine State.setFld_same ?_ (Part.sub (by decide) hw)
    | refine State.setReg_same ?_ (Part.sub (by decide) hw) | refine State.event_same ?_ (Part.sub (by decide) hw)
    | refine State.bump_same ?_ (Part.sub (by decide) hw) | refine State.withFaults_same ?_ (Part.sub (by decide) hw)
    | refine same_foldl ?_ _ ?_ | apply same_ite | apply_assumption | dsimp only | split | intro _ _ _ | intro _ _)

theorem ueEvents_same {w : List Part} {a s : State} {x0 x1} (h : State.SameBut w a s)
    (hw : [.regs, .faults, .out] ⊆ w)
    (hx0 : ∀ y s, State.SameBut w a s → State.SameBut w a (x0 y s)) :
    State.SameBut w a (ueEvents x0 x1 s) := by
  fun_induction ueEvents x0 x1 s
  with_reducible repeat' (first
    | exact h | assumption | refine State.ueEvent_same ?_ hw | refine same_foldl ?_ _ ?_ | apply same_ite
    | apply_assumption | dsimp only | split | intro _ _ _ | intro _ _)

theorem State.ceEvent_same {w : List Part} {a s : State} {x0 x1} (h : State.SameBut w a s)
    (hw : [.regs, .hbmStacks, .out] ⊆ w) :
    State.SameBut w a (State.ceEvent s x0 x1) := by
  unfold State.ceEvent
  with_reducible repeat' (first
    | exact h | assumption | refine State.setReg_same ?_ (Part.sub (by decide) hw)
    | refine State.setStack_same ?_ (Part.sub (by decide) hw) | refine State.event_same ?_ (Part.sub (by decide) hw)
    | refine State.bump_same ?_ (Part.sub (by decide) hw) | refine same_foldl ?_ _ ?_ | apply same_ite
    | apply_assumption | dsimp only | split | intro _ _ _ | intro _ _)

theorem ceEvents_same {w : List Part} {a s : State} {x0 x1} (h : State.SameBut w a s)
    (hw : [.regs, .hbmStacks, .out] ⊆ w) :
    State.SameBut w a (ceEvents x0 x1 s) := by
  fun_induction ceEvents x0 x1 s
  with_reducible repeat' (first
    | exact h | assumption | refine State.ceEvent_same ?_ hw | refine same_foldl ?_ _ ?_ | apply same_ite
    | apply_assumption | dsimp only | split | intro _ _ _ | intro _ _)

theorem State.eccRead_same {w : List Part} {a s : State} {x0 x1} (h : State.SameBut w a s)
    (hw : [.regs, .hbmStacks, .faults, .out] ⊆ w)
    (hx0 : ∀ y s, State.SameBut w a s → State.SameBut w a (x0 y s)) :
    State.SameBut w a (State.eccRead s x0 x1) := by
  unfold State.eccRead
  with_reducible repeat' (first
    | exact h | assumption | refine ueEvents_same ?_ (Part.sub (by decide) hw) ?_
    | refine ceEvents_same ?_ (Part.sub (by decide) hw) | refine same_foldl ?_ _ ?_ | apply same_ite
    | apply_assumption | dsimp only | split | intro _ _ _ | intro _ _)

theorem storeSp_same {w : List Part} {a s : State} {x0 x1 x2} (h : State.SameBut w a s)
    (hw : [.mem] ⊆ w) :
    State.SameBut w a (storeSp s x0 x1 x2) := by
  fun_induction storeSp s x0 x1 x2
  with_reducible repeat' (first
    | exact h | assumption | refine State.setByte_same ?_ hw | refine same_foldl ?_ _ ?_ | apply same_ite
    | apply_assumption | dsimp only | split | intro _ _ _ | intro _ _)

theorem State.storeBits_same {w : List Part} {a s : State} {x0} (h : State.SameBut w a s)
    (hw : [.mem] ⊆ w) :
    State.SameBut w a (State.storeBits s x0) := by
  unfold State.storeBits
  with_reducible repeat' (first
    | exact h | assumption | refine storeSp_same ?_ hw | refine same_foldl ?_ _ ?_ | apply same_ite | apply_assumption
    | dsimp only | split | intro _ _ _ | intro _ _)

theorem State.healSector_same {w : List Part} {a s : State} {x0} (h : State.SameBut w a s)
    (hw : [.hbmStacks] ⊆ w) :
    State.SameBut w a (State.healSector s x0) := by
  unfold State.healSector
  with_reducible repeat' (first
    | exact h | assumption | refine State.setStack_same ?_ hw | refine same_foldl ?_ _ ?_ | apply same_ite
    | apply_assumption | dsimp only | split | intro _ _ _ | intro _ _)

theorem State.settleSector_same {w : List Part} {a s : State} {x0 x1 x2 x3} (h : State.SameBut w a s)
    (hw : [.regs, .mem, .hbmStacks, .faults, .out] ⊆ w)
    (hx1 : ∀ y s, State.SameBut w a s → State.SameBut w a (x1 y s)) :
    State.SameBut w a (State.settleSector x0 x1 x2 s x3) := by
  unfold State.settleSector
  with_reducible repeat' (first
    | exact h | assumption | refine State.healSector_same ?_ (Part.sub (by decide) hw)
    | refine State.ueEvent_same ?_ (Part.sub (by decide) hw) | refine storeSp_same ?_ (Part.sub (by decide) hw)
    | refine State.ceEvent_same ?_ (Part.sub (by decide) hw) | refine same_foldl ?_ _ ?_ | apply same_ite
    | apply_assumption | dsimp only | split | intro _ _ _ | intro _ _)

theorem State.storeAll_same {w : List Part} {a s : State} {x0 x1} (h : State.SameBut w a s)
    (hw : [.regs, .mem, .hbmStacks, .faults, .out] ⊆ w)
    (hx0 : ∀ y s, State.SameBut w a s → State.SameBut w a (x0 y s)) :
    State.SameBut w a (State.storeAll s x0 x1) := by
  unfold State.storeAll
  with_reducible repeat' (first
    | exact h | assumption | refine State.storeBits_same ?_ (Part.sub (by decide) hw)
    | refine State.settleSector_same ?_ hw ?_ | refine same_foldl ?_ _ ?_ | apply same_ite | apply_assumption
    | dsimp only | split | intro _ _ _ | intro _ _)

theorem State.wakeStacks_same {w : List Part} {a s : State} {x0} (h : State.SameBut w a s)
    (hw : [.regs] ⊆ w) :
    State.SameBut w a (State.wakeStacks s x0) := by
  unfold State.wakeStacks
  with_reducible repeat' (first
    | exact h | assumption | refine wake_same ?_ hw | refine same_foldl ?_ _ ?_ | apply same_ite | apply_assumption
    | dsimp only | split | intro _ _ _ | intro _ _)

theorem State.countEv_same {w : List Part} {a s : State} {x0} (h : State.SameBut w a s)
    (hw : [.regs, .out] ⊆ w) :
    State.SameBut w a (State.countEv s x0) := by
  unfold State.countEv
  with_reducible repeat' (first
    | exact h | assumption | refine State.events_same ?_ hw | refine same_foldl ?_ _ ?_ | apply same_ite
    | apply_assumption | dsimp only | split | intro _ _ _ | intro _ _)

theorem openSector_same {w : List Part} {a s : State} {x0} (h : State.SameBut w a s)
    (hw : [.freeCount, .mem] ⊆ w) :
    State.SameBut w a (openSector x0 s) := by
  unfold openSector
  with_reducible repeat' (first
    | exact h | assumption | refine storeSp_same ?_ (Part.sub (by decide) hw)
    | refine State.withFreeCount_same ?_ (Part.sub (by decide) hw) | refine same_foldl ?_ _ ?_ | apply same_ite
    | apply_assumption | dsimp only | split | intro _ _ _ | intro _ _)

theorem State.loaderRead_same {w : List Part} {a s : State} {x0} (h : State.SameBut w a s)
    (hw : [.freeCount, .regs, .mem, .hbmStacks, .faults, .out] ⊆ w) :
    State.SameBut w a (State.loaderRead s x0) := by
  unfold State.loaderRead
  with_reducible repeat' (first
    | exact h | assumption | refine State.wakeSpans_same ?_ (Part.sub (by decide) hw)
    | refine State.eccRead_same ?_ (Part.sub (by decide) hw) ?_ | refine openSector_same ?_ (Part.sub (by decide) hw)
    | refine same_foldl ?_ _ ?_ | apply same_ite | apply_assumption | dsimp only | split | intro _ _ _ | intro _ _)

theorem State.loaderWrite_same {w : List Part} {a s : State} {x0 x1 x2} (h : State.SameBut w a s)
    (hw : [.regs, .mem, .hbmStacks, .faults, .out] ⊆ w) :
    State.SameBut w a (State.loaderWrite s x0 x1 x2) := by
  unfold State.loaderWrite
  with_reducible repeat' (first
    | exact h | assumption | refine State.storeAll_same ?_ hw ?_
    | refine State.wakeSpans_same ?_ (Part.sub (by decide) hw) | refine same_foldl ?_ _ ?_ | apply same_ite
    | apply_assumption | dsimp only | split | intro _ _ _ | intro _ _)

theorem State.loaderBytes_same {w : List Part} {a s : State} {x0 x1 x2} (h : State.SameBut w a s)
    (hw : [.freeCount, .regs, .mem, .hbmStacks, .faults, .out] ⊆ w) :
    State.SameBut w a (State.loaderBytes s x0 x1 x2).2 := by
  unfold State.loaderBytes
  with_reducible repeat' (first
    | exact h | assumption | refine State.loaderRead_same ?_ hw | refine same_foldl ?_ _ ?_ | apply same_snd_ite
    | apply same_ite | apply_assumption | dsimp only | split | intro _ _ _ | intro _ _)

theorem weaken_same {w : List Part} {a s : State} {x0} (h : State.SameBut w a s)
    (hw : [.hbmStacks] ⊆ w) :
    State.SameBut w a (weaken x0 s) := by
  fun_induction weaken x0 s
  with_reducible repeat' (first
    | exact h | assumption | refine State.setStack_same ?_ hw | refine same_foldl ?_ _ ?_ | apply same_ite
    | apply_assumption | dsimp only | split | intro _ _ _ | intro _ _)

end Sys2Proof.Machine
end

