-- ==== Sys2Proof/Laws/SamePorts.lean ====
section
/-! SUPPORT. What the definitions of Machine/Ports.lean change (State.SameBut). -/

namespace Sys2Proof.Machine

theorem State.newCounts_same {w : List Part} {a s : State} {x0 x1} (h : State.SameBut w a s)
    (hw : [.ferry] ⊆ w) :
    State.SameBut w a (State.newCounts s x0 x1) := by
  unfold State.newCounts
  with_reducible repeat' (first
    | exact h | assumption | refine State.withFerry_same ?_ hw | refine same_foldl ?_ _ ?_ | apply same_ite
    | apply_assumption | dsimp only | split | intro _ _ _ | intro _ _)

theorem State.enqueue_same {w : List Part} {a s : State} {x0 x1 x2} (h : State.SameBut w a s)
    (hw : [.ferry] ⊆ w) :
    State.SameBut w a (State.enqueue s x0 x1 x2) := by
  unfold State.enqueue
  with_reducible repeat' (first
    | exact h | assumption | refine State.setPort_same ?_ hw | refine same_foldl ?_ _ ?_ | apply same_ite
    | apply_assumption | dsimp only | split | intro _ _ _ | intro _ _)

theorem State.freeFlit_same {w : List Part} {a s : State} {x0 x1 x2} (h : State.SameBut w a s)
    (hw : [.ferry] ⊆ w) :
    State.SameBut w a (State.freeFlit s x0 x1 x2) := by
  unfold State.freeFlit
  with_reducible repeat' (first
    | exact h | assumption | refine State.setPort_same ?_ hw | refine same_foldl ?_ _ ?_ | apply same_ite
    | apply_assumption | dsimp only | split | intro _ _ _ | intro _ _)

theorem State.freeWait_same {w : List Part} {a s : State} {x0} (h : State.SameBut w a s)
    (hw : [.ferry] ⊆ w) :
    State.SameBut w a (State.freeWait s x0) := by
  unfold State.freeWait
  with_reducible repeat' (first
    | exact h | assumption | refine State.freeFlit_same ?_ hw | refine same_foldl ?_ _ ?_ | apply same_ite
    | apply_assumption | dsimp only | split | intro _ _ _ | intro _ _)

theorem State.forward_same {w : List Part} {a s : State} {x0 x1} (h : State.SameBut w a s)
    (hw : [.regs, .ferry, .out] ⊆ w) :
    State.SameBut w a (State.forward s x0 x1) := by
  unfold State.forward
  with_reducible repeat' (first
    | exact h | assumption | refine State.enqueue_same ?_ (Part.sub (by decide) hw)
    | refine State.freeWait_same ?_ (Part.sub (by decide) hw) | refine State.event_same ?_ (Part.sub (by decide) hw)
    | refine State.bump_same ?_ (Part.sub (by decide) hw) | refine same_foldl ?_ _ ?_ | apply same_ite
    | apply_assumption | dsimp only | split | intro _ _ _ | intro _ _)

theorem forwardAll_same {w : List Part} {a s : State} {x0 x1} (h : State.SameBut w a s)
    (hw : [.regs, .ferry, .out] ⊆ w) :
    State.SameBut w a (forwardAll x0 x1 s) := by
  fun_induction forwardAll x0 x1 s
  with_reducible repeat' (first
    | exact h | assumption | refine State.forward_same ?_ hw | refine same_foldl ?_ _ ?_ | apply same_ite
    | apply_assumption | dsimp only | split | intro _ _ _ | intro _ _)

theorem State.setPortState_same {w : List Part} {a s : State} {x0 x1 x2} (h : State.SameBut w a s)
    (hw : [.regs] ⊆ w) :
    State.SameBut w a (State.setPortState s x0 x1 x2) := by
  unfold State.setPortState
  with_reducible repeat' (first
    | exact h | assumption | refine State.setFld_same ?_ hw | refine same_foldl ?_ _ ?_ | apply same_ite
    | apply_assumption | dsimp only | split | intro _ _ _ | intro _ _)

theorem State.leaveUp_same {w : List Part} {a s : State} {x0 x1 x2 x3} (h : State.SameBut w a s)
    (hw : [.regs, .ferry, .out] ⊆ w) :
    State.SameBut w a (State.leaveUp s x0 x1 x2 x3) := by
  unfold State.leaveUp
  with_reducible repeat' (first
    | exact h | assumption | refine State.newCounts_same ?_ (Part.sub (by decide) hw) | refine forwardAll_same ?_ hw
    | refine State.setPortState_same ?_ (Part.sub (by decide) hw)
    | refine State.setPort_same ?_ (Part.sub (by decide) hw) | refine same_foldl ?_ _ ?_ | apply same_ite
    | apply_assumption | dsimp only | split | intro _ _ _ | intro _ _)

theorem State.portLost_same {w : List Part} {a s : State} {x0 x1 x2} (h : State.SameBut w a s)
    (hw : [.regs, .ferry, .faults, .out] ⊆ w) :
    State.SameBut w a (State.portLost s x0 x1 x2) := by
  unfold State.portLost
  with_reducible repeat' (first
    | exact h | assumption | refine State.leaveUp_same ?_ (Part.sub (by decide) hw)
    | refine State.fault_same ?_ (Part.sub (by decide) hw) | refine State.event_same ?_ (Part.sub (by decide) hw)
    | refine same_foldl ?_ _ ?_ | apply same_ite | apply_assumption | dsimp only | split | intro _ _ _ | intro _ _)

theorem State.replayPort_same {w : List Part} {a s : State} {x0 x1} (h : State.SameBut w a s)
    (hw : [.regs, .ferry, .faults, .out] ⊆ w) :
    State.SameBut w a (State.replayPort s x0 x1) := by
  unfold State.replayPort
  with_reducible repeat' (first
    | exact h | assumption | refine State.setPort_same ?_ (Part.sub (by decide) hw)
    | refine State.event_same ?_ (Part.sub (by decide) hw) | refine State.bump_same ?_ (Part.sub (by decide) hw)
    | refine State.portLost_same ?_ hw | refine same_foldl ?_ _ ?_ | apply same_ite | apply_assumption | dsimp only
    | split | intro _ _ _ | intro _ _)

theorem State.headerIn_same {w : List Part} {a s : State} {x0 x1 x2} (h : State.SameBut w a s)
    (hw : [.regs, .ferry, .faults, .out] ⊆ w) :
    State.SameBut w a (State.headerIn s x0 x1 x2) := by
  unfold State.headerIn
  with_reducible repeat' (first
    | exact h | assumption | refine State.setPort_same ?_ (Part.sub (by decide) hw)
    | refine State.replayPort_same ?_ hw | refine same_foldl ?_ _ ?_ | apply same_ite | apply_assumption | dsimp only
    | split | intro _ _ _ | intro _ _)

theorem State.emitFlit_same {w : List Part} {a s : State} {x0 x1 x2} (h : State.SameBut w a s)
    (hw : [.out] ⊆ w) :
    State.SameBut w a (State.emitFlit s x0 x1 x2) := by
  unfold State.emitFlit
  with_reducible repeat' (first
    | exact h | assumption | refine State.sendFlit_same ?_ hw | refine same_foldl ?_ _ ?_ | apply same_ite
    | apply_assumption | dsimp only | split | intro _ _ _ | intro _ _)

theorem State.nakEpisode_same {w : List Part} {a s : State} {x0 x1} (h : State.SameBut w a s)
    (hw : [.ferry] ⊆ w) :
    State.SameBut w a (State.nakEpisode s x0 x1) := by
  unfold State.nakEpisode
  with_reducible repeat' (first
    | exact h | assumption | refine State.setPort_same ?_ hw | refine same_foldl ?_ _ ?_ | apply same_ite
    | apply_assumption | dsimp only | split | intro _ _ _ | intro _ _)

theorem State.linkIn_same {w : List Part} {a s : State} {x0 x1 x2} (h : State.SameBut w a s)
    (hw : [.regs, .ferry, .faults, .out] ⊆ w) :
    State.SameBut w a (State.linkIn s x0 x1 x2).1 := by
  unfold State.linkIn
  with_reducible repeat' (first
    | exact h | assumption | refine State.nakEpisode_same ?_ (Part.sub (by decide) hw)
    | refine State.event_same ?_ (Part.sub (by decide) hw) | refine State.bump_same ?_ (Part.sub (by decide) hw)
    | refine State.headerIn_same ?_ hw | refine State.setPort_same ?_ (Part.sub (by decide) hw)
    | refine State.freeFlit_same ?_ (Part.sub (by decide) hw) | refine same_foldl ?_ _ ?_ | apply same_fst_ite
    | apply same_ite | apply_assumption | dsimp only | split | intro _ _ _ | intro _ _)

theorem State.identIn_same {w : List Part} {a s : State} {x0 x1 x2} (h : State.SameBut w a s)
    (hw : [.regs, .ferry] ⊆ w) :
    State.SameBut w a (State.identIn s x0 x1 x2) := by
  unfold State.identIn
  with_reducible repeat' (first
    | exact h | assumption | refine State.setFld_same ?_ (Part.sub (by decide) hw)
    | refine State.enqueue_same ?_ (Part.sub (by decide) hw) | refine State.setPort_same ?_ (Part.sub (by decide) hw)
    | refine same_foldl ?_ _ ?_ | apply same_ite | apply_assumption | dsimp only | split | intro _ _ _ | intro _ _)

theorem State.echoIn_same {w : List Part} {a s : State} {x0 x1 x2} (h : State.SameBut w a s)
    (hw : [.regs, .ferry, .out] ⊆ w) :
    State.SameBut w a (State.echoIn s x0 x1 x2) := by
  unfold State.echoIn
  with_reducible repeat' (first
    | exact h | assumption | refine State.setFld_same ?_ (Part.sub (by decide) hw)
    | refine State.event_same ?_ (Part.sub (by decide) hw)
    | refine State.setPortState_same ?_ (Part.sub (by decide) hw)
    | refine State.setPort_same ?_ (Part.sub (by decide) hw) | refine State.enqueue_same ?_ (Part.sub (by decide) hw)
    | refine same_foldl ?_ _ ?_ | apply same_ite | apply_assumption | dsimp only | split | intro _ _ _ | intro _ _)

theorem State.linkOp_same {w : List Part} {a s : State} {x0 x1 x2} (h : State.SameBut w a s)
    (hw : [.regs, .ferry, .out] ⊆ w) :
    State.SameBut w a (State.linkOp s x0 x1 x2) := by
  unfold State.linkOp
  with_reducible repeat' (first
    | exact h | assumption | refine State.identIn_same ?_ (Part.sub (by decide) hw)
    | refine State.enqueue_same ?_ (Part.sub (by decide) hw) | refine State.echoIn_same ?_ hw
    | refine State.freeFlit_same ?_ (Part.sub (by decide) hw) | refine same_foldl ?_ _ ?_ | apply same_ite
    | apply_assumption | dsimp only | split | intro _ _ _ | intro _ _)

theorem State.endTransit_same {w : List Part} {a s : State} {x0 x1} (h : State.SameBut w a s)
    (hw : [.ferry] ⊆ w) :
    State.SameBut w a (State.endTransit s x0 x1) := by
  unfold State.endTransit
  with_reducible repeat' (first
    | exact h | assumption | refine State.withFerry_same ?_ hw | refine same_foldl ?_ _ ?_ | apply same_ite
    | apply_assumption | dsimp only | split | intro _ _ _ | intro _ _)

theorem freeFlits_same {w : List Part} {a s : State} {x0 x1 x2 x3} (h : State.SameBut w a s)
    (hw : [.ferry] ⊆ w) :
    State.SameBut w a (freeFlits x0 x1 x2 x3 s) := by
  fun_induction freeFlits x0 x1 x2 x3 s
  with_reducible repeat' (first
    | exact h | assumption | refine State.freeFlit_same ?_ hw | refine same_foldl ?_ _ ?_ | apply same_ite
    | apply_assumption | dsimp only | split | intro _ _ _ | intro _ _)

theorem freeTiles_same {w : List Part} {a s : State} {x0} (h : State.SameBut w a s)
    (hw : [.ferry] ⊆ w) :
    State.SameBut w a (freeTiles x0 s) := by
  fun_induction freeTiles x0 s
  with_reducible repeat' (first
    | exact h | assumption | refine freeFlits_same ?_ hw | refine same_foldl ?_ _ ?_ | apply same_ite
    | apply_assumption | dsimp only | split | intro _ _ _ | intro _ _)

theorem State.sendTo_same {w : List Part} {a s : State} {x0 x1 x2 x3 x4 x5 x6 x7 x8} (h : State.SameBut w a s)
    (hw : [.ferry] ⊆ w) :
    State.SameBut w a (State.sendTo s x0 x1 x2 x3 x4 x5 x6 x7 x8) := by
  unfold State.sendTo
  with_reducible repeat' (first
    | exact h | assumption | refine State.enqueue_same ?_ hw | refine same_foldl ?_ _ ?_ | apply same_ite
    | apply_assumption | dsimp only | split | intro _ _ _ | intro _ _)

theorem treeSend_same {w : List Part} {a s : State} {x0 x1 x2 x3 x4 x5 x6} (h : State.SameBut w a s)
    (hw : [.ferry] ⊆ w) :
    State.SameBut w a (treeSend x0 x1 x2 x3 x4 x5 x6 s) := by
  fun_induction treeSend x0 x1 x2 x3 x4 x5 x6 s
  with_reducible repeat' (first
    | exact h | assumption | refine State.sendTo_same ?_ hw | refine same_foldl ?_ _ ?_ | apply same_ite
    | apply_assumption | dsimp only | split | intro _ _ _ | intro _ _)

theorem State.jobTree_same {w : List Part} {a s : State} {x0 x1 x2 x3} (h : State.SameBut w a s)
    (hw : [.ferry] ⊆ w) :
    State.SameBut w a (State.jobTree s x0 x1 x2 x3) := by
  unfold State.jobTree
  with_reducible repeat' (first
    | exact h | assumption | refine treeSend_same ?_ hw | refine same_foldl ?_ _ ?_ | apply same_ite
    | apply_assumption | dsimp only | split | intro _ _ _ | intro _ _)

theorem State.dropFlits_same {w : List Part} {a s : State} {x0} (h : State.SameBut w a s)
    (hw : [.ferry] ⊆ w) :
    State.SameBut w a (State.dropFlits s x0) := by
  unfold State.dropFlits
  with_reducible repeat' (first
    | exact h | assumption | refine freeTiles_same ?_ hw | refine State.withFerry_same ?_ hw
    | refine same_foldl ?_ _ ?_ | apply same_ite | apply_assumption | dsimp only | split | intro _ _ _ | intro _ _)

theorem State.portDown_same {w : List Part} {a s : State} {x0 x1} (h : State.SameBut w a s)
    (hw : [.regs, .ferry, .out] ⊆ w) :
    State.SameBut w a (State.portDown s x0 x1) := by
  unfold State.portDown
  with_reducible repeat' (first
    | exact h | assumption | refine State.leaveUp_same ?_ hw | refine same_foldl ?_ _ ?_ | apply same_ite
    | apply_assumption | dsimp only | split | intro _ _ _ | intro _ _)

theorem portsDown_same {w : List Part} {a s : State} {x0 x1} (h : State.SameBut w a s)
    (hw : [.regs, .ferry, .out] ⊆ w) :
    State.SameBut w a (portsDown x0 x1 s) := by
  fun_induction portsDown x0 x1 s
  with_reducible repeat' (first
    | exact h | assumption | refine State.portDown_same ?_ hw | refine same_foldl ?_ _ ?_ | apply same_ite
    | apply_assumption | dsimp only | split | intro _ _ _ | intro _ _)

theorem State.diePortsDown_same {w : List Part} {a s : State} {x0} (h : State.SameBut w a s)
    (hw : [.regs, .ferry, .out] ⊆ w) :
    State.SameBut w a (State.diePortsDown s x0) := by
  unfold State.diePortsDown
  with_reducible repeat' (first
    | exact h | assumption | refine portsDown_same ?_ hw | refine same_foldl ?_ _ ?_ | apply same_ite
    | apply_assumption | dsimp only | split | intro _ _ _ | intro _ _)

theorem State.trainPort_same {w : List Part} {a s : State} {x0 x1} (h : State.SameBut w a s)
    (hw : [.regs, .ferry, .out] ⊆ w) :
    State.SameBut w a (State.trainPort s x0 x1) := by
  unfold State.trainPort
  with_reducible repeat' (first
    | exact h | assumption | refine State.leaveUp_same ?_ hw | refine State.setFld_same ?_ (Part.sub (by decide) hw)
    | refine same_foldl ?_ _ ?_ | apply same_ite | apply_assumption | dsimp only | split | intro _ _ _ | intro _ _)

theorem State.retrain_same {w : List Part} {a s : State} {x0 x1} (h : State.SameBut w a s)
    (hw : [.regs, .ferry, .out] ⊆ w) :
    State.SameBut w a (State.retrain s x0 x1) := by
  unfold State.retrain
  with_reducible repeat' (first
    | exact h | assumption | refine State.trainPort_same ?_ hw | refine State.setFld_same ?_ (Part.sub (by decide) hw)
    | refine same_foldl ?_ _ ?_ | apply same_ite | apply_assumption | dsimp only | split | intro _ _ _ | intro _ _)

theorem sendFlits_same {w : List Part} {a s : State} {x0 x1 x2 x3 x4 x5 x6 x7} (h : State.SameBut w a s)
    (hw : [.ferry] ⊆ w) :
    State.SameBut w a (sendFlits x0 x1 x2 x3 x4 x5 x6 x7 s) := by
  fun_induction sendFlits x0 x1 x2 x3 x4 x5 x6 x7 s
  with_reducible repeat' (first
    | exact h | assumption | refine State.sendTo_same ?_ hw | refine same_foldl ?_ _ ?_ | apply same_ite
    | apply_assumption | dsimp only | split | intro _ _ _ | intro _ _)

theorem State.sendTile_same {w : List Part} {a s : State} {x0 x1 x2 x3 x4 x5} (h : State.SameBut w a s)
    (hw : [.ferry] ⊆ w) :
    State.SameBut w a (State.sendTile s x0 x1 x2 x3 x4 x5) := by
  unfold State.sendTile
  with_reducible repeat' (first
    | exact h | assumption | refine sendFlits_same ?_ hw | refine same_foldl ?_ _ ?_ | apply same_ite
    | apply_assumption | dsimp only | split | intro _ _ _ | intro _ _)

theorem State.sendBell_same {w : List Part} {a s : State} {x0 x1 x2 x3 x4 x5 x6 x7} (h : State.SameBut w a s)
    (hw : [.ferry] ⊆ w) :
    State.SameBut w a (State.sendBell s x0 x1 x2 x3 x4 x5 x6 x7) := by
  unfold State.sendBell
  with_reducible repeat' (first
    | exact h | assumption | refine State.sendTo_same ?_ hw | refine same_foldl ?_ _ ?_ | apply same_ite
    | apply_assumption | dsimp only | split | intro _ _ _ | intro _ _)

theorem State.sendNew_same {w : List Part} {a s : State} {x0 x1 x2 x3} (h : State.SameBut w a s)
    (hw : [.regs, .flight, .ferry, .out] ⊆ w) :
    State.SameBut w a (State.sendNew s x0 x1 x2 x3) := by
  unfold State.sendNew
  with_reducible repeat' (first
    | exact h | assumption | refine State.setPort_same ?_ (Part.sub (by decide) hw)
    | refine State.freeWait_same ?_ (Part.sub (by decide) hw)
    | refine State.withFlight_same ?_ (Part.sub (by decide) hw)
    | refine State.emitFlit_same ?_ (Part.sub (by decide) hw) | refine State.bump_same ?_ (Part.sub (by decide) hw)
    | refine same_foldl ?_ _ ?_ | apply same_ite | apply_assumption | dsimp only | split | intro _ _ _ | intro _ _)

theorem State.idleSlot_same {w : List Part} {a s : State} {x0 x1} (h : State.SameBut w a s)
    (hw : [.ferry, .out] ⊆ w) :
    State.SameBut w a (State.idleSlot s x0 x1) := by
  unfold State.idleSlot
  with_reducible repeat' (first
    | exact h | assumption | refine State.emitFlit_same ?_ (Part.sub (by decide) hw)
    | refine State.setPort_same ?_ (Part.sub (by decide) hw) | refine same_foldl ?_ _ ?_ | apply same_ite
    | apply_assumption | dsimp only | split | intro _ _ _ | intro _ _)

theorem State.portSlot_same {w : List Part} {a s : State} {x0 x1} (h : State.SameBut w a s)
    (hw : [.regs, .flight, .ferry, .out] ⊆ w) :
    State.SameBut w a (State.portSlot s x0 x1) := by
  unfold State.portSlot
  with_reducible repeat' (first
    | exact h | assumption | refine State.idleSlot_same ?_ (Part.sub (by decide) hw)
    | refine State.setPort_same ?_ (Part.sub (by decide) hw) | refine State.emitFlit_same ?_ (Part.sub (by decide) hw)
    | refine State.bump_same ?_ (Part.sub (by decide) hw) | refine State.sendNew_same ?_ hw
    | refine same_foldl ?_ _ ?_ | apply same_ite | apply_assumption | dsimp only | split | intro _ _ _ | intro _ _)

theorem execFlitTransmit_same {w : List Part} {a s : State} {x0 x1} (h : State.SameBut w a s)
    (hw : [.regs, .flight, .ferry, .out] ⊆ w) :
    SameOut w a (execFlitTransmit x0 x1 s) := by
  unfold execFlitTransmit
  with_reducible repeat' (first
    | apply same_next | exact same_fault _ | exact h | assumption | refine State.portSlot_same ?_ hw
    | refine same_foldl ?_ _ ?_ | apply sameOut_ite | apply same_ite | apply_assumption | dsimp only | split
    | intro _ _ _ | intro _ _)

theorem execPhyLock_same {w : List Part} {a s : State} {x0 x1} (h : State.SameBut w a s)
    (hw : [.regs, .ferry, .out] ⊆ w) :
    SameOut w a (execPhyLock x0 x1 s) := by
  unfold execPhyLock
  with_reducible repeat' (first
    | apply same_next | exact same_fault _ | exact h | assumption | refine State.trainPort_same ?_ hw
    | refine State.enqueue_same ?_ (Part.sub (by decide) hw) | refine same_foldl ?_ _ ?_ | apply sameOut_ite
    | apply same_ite | apply_assumption | dsimp only | split | intro _ _ _ | intro _ _)

theorem execReplayTimeout_same {w : List Part} {a s : State} {x0 x1} (h : State.SameBut w a s)
    (hw : [.regs, .ferry, .faults, .out] ⊆ w) :
    SameOut w a (execReplayTimeout x0 x1 s) := by
  unfold execReplayTimeout
  with_reducible repeat' (first
    | apply same_next | exact same_fault _ | exact h | assumption | refine State.replayPort_same ?_ hw
    | refine same_foldl ?_ _ ?_ | apply sameOut_ite | apply same_ite | apply_assumption | dsimp only | split
    | intro _ _ _ | intro _ _)

theorem execIdleFlit_same {w : List Part} {a s : State} {x0 x1 x2} (h : State.SameBut w a s)
    (hw : [.regs, .ferry, .faults, .out] ⊆ w) :
    SameOut w a (execIdleFlit x0 x1 x2 s) := by
  unfold execIdleFlit
  with_reducible repeat' (first
    | apply same_next | exact same_fault _ | exact h | assumption
    | refine same_fst (by assumption) (State.linkIn_same ?_ hw) | refine State.linkIn_same ?_ hw
    | refine same_foldl ?_ _ ?_ | apply sameOut_ite | apply same_ite | apply_assumption | dsimp only | split
    | intro _ _ _ | intro _ _)

theorem execPhyLockLost_same {w : List Part} {a s : State} {x0 x1} (h : State.SameBut w a s)
    (hw : [.regs, .ferry, .faults, .out] ⊆ w) :
    SameOut w a (execPhyLockLost x0 x1 s) := by
  unfold execPhyLockLost
  with_reducible repeat' (first
    | apply same_next | exact same_fault _ | exact h | assumption | refine State.portLost_same ?_ hw
    | refine same_foldl ?_ _ ?_ | apply sameOut_ite | apply same_ite | apply_assumption | dsimp only | split
    | intro _ _ _ | intro _ _)

theorem enqueueAll_same {w : List Part} {a s : State} {x0 x1 x2} (h : State.SameBut w a s)
    (hw : [.ferry] ⊆ w) :
    State.SameBut w a (enqueueAll x0 x1 x2 s) := by
  fun_induction enqueueAll x0 x1 x2 s
  with_reducible repeat' (first
    | exact h | assumption | refine State.enqueue_same ?_ hw | refine same_foldl ?_ _ ?_ | apply same_ite
    | apply_assumption | dsimp only | split | intro _ _ _ | intro _ _)

end Sys2Proof.Machine
end

