-- ==== Sys2Proof/Laws/SameJobReset.lean ====
section
/-! SUPPORT. What the definitions of Machine/JobReset.lean change (State.SameBut). -/

namespace Sys2Proof.Machine

theorem State.bellsReset_same {w : List Part} {a s : State} {x0} (h : State.SameBut w a s)
    (hw : [.bells] ⊆ w) :
    State.SameBut w a (State.bellsReset s x0) := by
  unfold State.bellsReset
  with_reducible repeat' (first
    | exact h | assumption | refine State.withBells_same ?_ hw | refine same_foldl ?_ _ ?_ | apply same_ite
    | apply_assumption | dsimp only | split | intro _ _ _ | intro _ _)

theorem State.takeSector_same {w : List Part} {a s : State} {x0 x1 x2 x3} (h : State.SameBut w a s)
    (hw : [.regs, .mem, .hbmStacks, .faults, .out] ⊆ w) :
    State.SameBut w a (State.takeSector s x0 x1 x2 x3) := by
  unfold State.takeSector
  with_reducible repeat' (first
    | exact h | assumption | refine storeSp_same ?_ (Part.sub (by decide) hw)
    | refine State.settleSector_same ?_ hw ?_ | refine same_foldl ?_ _ ?_ | apply same_ite | apply_assumption
    | dsimp only | split | intro _ _ _ | intro _ _)

theorem partSectors_same {w : List Part} {a s : State} {x0 x1 x2 x3} (h : State.SameBut w a s)
    (hw : [.freeCount, .regs, .mem, .hbmStacks, .faults, .out] ⊆ w) :
    State.SameBut w a (partSectors x0 x1 x2 x3 s) := by
  fun_induction partSectors x0 x1 x2 x3 s
  with_reducible repeat' (first
    | exact h | assumption | refine same_snd (by assumption) (State.openValue_same ?_ (Part.sub (by decide) hw))
    | refine State.openValue_same ?_ (Part.sub (by decide) hw)
    | refine State.takeSector_same ?_ (Part.sub (by decide) hw) | refine same_foldl ?_ _ ?_ | apply same_ite
    | apply_assumption | dsimp only | split | intro _ _ _ | intro _ _)

theorem State.stopGran_same {w : List Part} {a s : State} {x0 x1} (h : State.SameBut w a s)
    (hw : [.freeCount, .regs, .mem, .hbmStacks, .faults, .out] ⊆ w) :
    State.SameBut w a (State.stopGran s x0 x1) := by
  unfold State.stopGran
  with_reducible repeat' (first
    | exact h | assumption | refine partSectors_same ?_ hw | refine State.storeBits_same ?_ (Part.sub (by decide) hw)
    | refine same_foldl ?_ _ ?_ | apply same_ite | apply_assumption | dsimp only | split | intro _ _ _ | intro _ _)

theorem stopGrans_same {w : List Part} {a s : State} {x0 x1} (h : State.SameBut w a s)
    (hw : [.freeCount, .regs, .mem, .hbmStacks, .faults, .out] ⊆ w) :
    State.SameBut w a (stopGrans x0 x1 s) := by
  fun_induction stopGrans x0 x1 s
  with_reducible repeat' (first
    | exact h | assumption | refine State.stopGran_same ?_ hw | refine same_foldl ?_ _ ?_ | apply same_ite
    | apply_assumption | dsimp only | split | intro _ _ _ | intro _ _)

theorem State.pairReset_same {w : List Part} {a s : State} {x0 x1} (h : State.SameBut w a s)
    (hw : [.freeCount, .regs, .mem, .hbmStacks, .pairs, .faults, .out] ⊆ w) :
    State.SameBut w a (State.pairReset s x0 x1) := by
  unfold State.pairReset
  with_reducible repeat' (first
    | exact h | assumption | refine State.setPair_same ?_ (Part.sub (by decide) hw)
    | refine stopGrans_same ?_ (Part.sub (by decide) hw) | refine same_foldl ?_ _ ?_ | apply same_ite
    | apply_assumption | dsimp only | split | intro _ _ _ | intro _ _)

theorem pairResets_same {w : List Part} {a s : State} {x0 x1} (h : State.SameBut w a s)
    (hw : [.freeCount, .regs, .mem, .hbmStacks, .pairs, .faults, .out] ⊆ w) :
    State.SameBut w a (pairResets x0 x1 s) := by
  fun_induction pairResets x0 x1 s
  with_reducible repeat' (first
    | exact h | assumption | refine State.pairReset_same ?_ hw | refine same_foldl ?_ _ ?_ | apply same_ite
    | apply_assumption | dsimp only | split | intro _ _ _ | intro _ _)

theorem reeveResets_same {w : List Part} {a s : State} {x0 x1} (h : State.SameBut w a s)
    (hw : [.regs, .reeves] ⊆ w) :
    State.SameBut w a (reeveResets x0 x1 s) := by
  fun_induction reeveResets x0 x1 s
  with_reducible repeat' (first
    | exact h | assumption | refine State.setReeve_same ?_ (Part.sub (by decide) hw)
    | refine State.setReg_same ?_ (Part.sub (by decide) hw) | refine same_foldl ?_ _ ?_ | apply same_ite
    | apply_assumption | dsimp only | split | intro _ _ _ | intro _ _)

theorem State.pendingReset_same {w : List Part} {a s : State} {x0 x1} (h : State.SameBut w a s)
    (hw : [.loader] ⊆ w) :
    State.SameBut w a (State.pendingReset s x0 x1) := by
  unfold State.pendingReset
  with_reducible repeat' (first
    | exact h | assumption | refine State.withLoader_same ?_ hw | refine same_foldl ?_ _ ?_ | apply same_ite
    | apply_assumption | dsimp only | split | intro _ _ _ | intro _ _)

theorem State.unitsReset_same {w : List Part} {a s : State} {x0 x1} (h : State.SameBut w a s)
    (hw : [.freeCount, .regs, .mem, .hbmStacks, .loader, .looms, .sieves, .gates, .pairs, .sram, .reeves,
      .flight, .ferry, .faults, .out] ⊆ w) :
    State.SameBut w a (State.unitsReset s x0 x1) := by
  unfold State.unitsReset
  with_reducible repeat' (first
    | exact h | assumption | refine pairResets_same ?_ (Part.sub (by decide) hw)
    | refine State.withLooms_same ?_ (Part.sub (by decide) hw)
    | refine State.withSieves_same ?_ (Part.sub (by decide) hw)
    | refine State.withGates_same ?_ (Part.sub (by decide) hw) | refine reeveResets_same ?_ (Part.sub (by decide) hw)
    | refine State.dropFlits_same ?_ (Part.sub (by decide) hw)
    | refine State.withFlight_same ?_ (Part.sub (by decide) hw)
    | refine State.pendingReset_same ?_ (Part.sub (by decide) hw)
    | refine State.withSram_same ?_ (Part.sub (by decide) hw)
    | refine State.withLoader_same ?_ (Part.sub (by decide) hw) | refine same_foldl ?_ _ ?_ | apply same_ite
    | apply_assumption | dsimp only | split | intro _ _ _ | intro _ _)

theorem State.jobReset_same {w : List Part} {a s : State} {x0 x1} (h : State.SameBut w a s)
    (hw : [.freeCount, .regs, .mem, .hbmStacks, .bells, .loader, .looms, .sieves, .gates, .pairs, .sram,
      .reeves, .flight, .ferry, .faults, .out] ⊆ w) :
    State.SameBut w a (State.jobReset s x0 x1) := by
  unfold State.jobReset
  with_reducible repeat' (first
    | exact h | assumption | refine State.bellsReset_same ?_ (Part.sub (by decide) hw)
    | refine State.unitsReset_same ?_ (Part.sub (by decide) hw) | refine same_foldl ?_ _ ?_ | apply same_ite
    | apply_assumption | dsimp only | split | intro _ _ _ | intro _ _)

end Sys2Proof.Machine
end

