-- ==== Sys2Proof/Laws/SameCue.lean ====
section
/-! SUPPORT. What the definitions of Machine/Cue.lean change (State.SameBut). -/

namespace Sys2Proof.Machine

theorem State.cueApply_same {w : List Part} {a s : State} {x0 x1} (h : State.SameBut w a s)
    (hw : [.regs, .cue, .out] ⊆ w) :
    State.SameBut w a (State.cueApply s x0 x1) := by
  unfold State.cueApply
  with_reducible repeat' (first
    | exact h | assumption | refine State.event_same ?_ (Part.sub (by decide) hw)
    | refine State.bump_same ?_ (Part.sub (by decide) hw) | refine State.withCue_same ?_ (Part.sub (by decide) hw)
    | refine same_foldl ?_ _ ?_ | apply same_ite | apply_assumption | dsimp only | split | intro _ _ _ | intro _ _)

theorem State.cueRelease_same {w : List Part} {a s : State} {x0} (h : State.SameBut w a s)
    (hw : [.now, .regs, .cue, .out] ⊆ w) :
    State.SameBut w a (State.cueRelease s x0) := by
  unfold State.cueRelease
  with_reducible repeat' (first
    | exact h | assumption | refine State.passTo_same ?_ (Part.sub (by decide) hw)
    | refine State.withCue_same ?_ (Part.sub (by decide) hw) | refine State.event_same ?_ (Part.sub (by decide) hw)
    | refine State.cueApply_same ?_ (Part.sub (by decide) hw) | refine same_foldl ?_ _ ?_ | apply same_ite
    | apply_assumption | dsimp only | split | intro _ _ _ | intro _ _)

theorem State.cueChange_same {w : List Part} {a s : State} {x0} (h : State.SameBut w a s)
    (hw : [.regs, .cue, .out] ⊆ w) :
    State.SameBut w a (State.cueChange s x0) := by
  unfold State.cueChange
  with_reducible repeat' (first
    | exact h | assumption | refine State.withCue_same ?_ (Part.sub (by decide) hw) | refine State.cueApply_same ?_ hw
    | refine same_foldl ?_ _ ?_ | apply same_ite | apply_assumption | dsimp only | split | intro _ _ _ | intro _ _)

theorem State.cueUpdate_same {w : List Part} {a s : State} {x0 x1} (h : State.SameBut w a s)
    (hw : [.regs, .cue, .out] ⊆ w) :
    State.SameBut w a (State.cueUpdate s x0 x1) := by
  unfold State.cueUpdate
  with_reducible repeat' (first
    | exact h | assumption | refine State.cueChange_same ?_ hw | refine same_foldl ?_ _ ?_ | apply same_ite
    | apply_assumption | dsimp only | split | intro _ _ _ | intro _ _)

theorem State.cueStep_same {w : List Part} {a s : State} {x0 x1 x2} (h : State.SameBut w a s)
    (hw : [.regs, .cue, .out] ⊆ w) :
    State.SameBut w a (State.cueStep s x0 x1 x2) := by
  unfold State.cueStep
  with_reducible repeat' (first
    | exact h | assumption | refine State.cueUpdate_same ?_ hw | refine same_foldl ?_ _ ?_ | apply same_ite
    | apply_assumption | dsimp only | split | intro _ _ _ | intro _ _)

theorem cueClear_same {w : List Part} {a s : State} {x0} (h : State.SameBut w a s)
    (hw : [.regs, .cue, .out] ⊆ w) :
    State.SameBut w a (cueClear x0 s) := by
  fun_induction cueClear x0 s
  with_reducible repeat' (first
    | exact h | assumption | refine State.cueUpdate_same ?_ hw | refine same_foldl ?_ _ ?_ | apply same_ite
    | apply_assumption | dsimp only | split | intro _ _ _ | intro _ _)

theorem State.setCueIndex_same {w : List Part} {a s : State} {x0 x1} (h : State.SameBut w a s)
    (hw : [.cue] ⊆ w) :
    State.SameBut w a (State.setCueIndex s x0 x1) := by
  unfold State.setCueIndex
  with_reducible repeat' (first
    | exact h | assumption | refine State.withCue_same ?_ hw | refine same_foldl ?_ _ ?_ | apply same_ite
    | apply_assumption | dsimp only | split | intro _ _ _ | intro _ _)

theorem State.cueDataWrite_same {w : List Part} {a s : State} {x0 x1 x2} (h : State.SameBut w a s)
    (hw : [.regs, .cue, .out] ⊆ w) :
    State.SameBut w a (State.cueDataWrite s x0 x1 x2) := by
  unfold State.cueDataWrite
  with_reducible repeat' (first
    | exact h | assumption | refine State.cueChange_same ?_ hw | refine same_foldl ?_ _ ?_ | apply same_ite
    | apply_assumption | dsimp only | split | intro _ _ _ | intro _ _)

theorem State.setCueGroup_same {w : List Part} {a s : State} {x0 x1} (h : State.SameBut w a s)
    (hw : [.cue] ⊆ w) :
    State.SameBut w a (State.setCueGroup s x0 x1) := by
  unfold State.setCueGroup
  with_reducible repeat' (first
    | exact h | assumption | refine State.withCue_same ?_ hw | refine same_foldl ?_ _ ?_ | apply same_ite
    | apply_assumption | dsimp only | split | intro _ _ _ | intro _ _)

theorem State.cueGroupWrite_same {w : List Part} {a s : State} {x0 x1} (h : State.SameBut w a s)
    (hw : [.regs, .cue, .out] ⊆ w) :
    State.SameBut w a (State.cueGroupWrite s x0 x1) := by
  unfold State.cueGroupWrite
  with_reducible repeat' (first
    | exact h | assumption | refine cueClear_same ?_ hw | refine State.withCue_same ?_ (Part.sub (by decide) hw)
    | refine same_foldl ?_ _ ?_ | apply same_ite | apply_assumption | dsimp only | split | intro _ _ _ | intro _ _)

theorem State.cueFunctionReset_same {w : List Part} {a s : State} {x0} (h : State.SameBut w a s)
    (hw : [.regs, .cue, .out] ⊆ w) :
    State.SameBut w a (State.cueFunctionReset s x0) := by
  unfold State.cueFunctionReset
  with_reducible repeat' (first
    | exact h | assumption | refine cueClear_same ?_ hw | refine State.setCueGroup_same ?_ (Part.sub (by decide) hw)
    | refine State.setCueIndex_same ?_ (Part.sub (by decide) hw) | refine same_foldl ?_ _ ?_ | apply same_ite
    | apply_assumption | dsimp only | split | intro _ _ _ | intro _ _)

theorem execCueDeferredApply_same {w : List Part} {a s : State} {x0} (h : State.SameBut w a s)
    (hw : [.now, .regs, .cue, .out] ⊆ w) :
    SameOut w a (execCueDeferredApply x0 s) := by
  unfold execCueDeferredApply
  with_reducible repeat' (first
    | apply same_next | exact same_fault _ | exact h | assumption | refine State.cueRelease_same ?_ hw
    | refine same_foldl ?_ _ ?_ | apply sameOut_ite | apply same_ite | apply_assumption | dsimp only | split
    | intro _ _ _ | intro _ _)

theorem execCuePortRead_same {w : List Part} {a s : State} {x0 x1} (h : State.SameBut w a s)
    (hw : [.cue] ⊆ w) :
    SameOut w a (execCuePortRead x0 x1 s) := by
  unfold execCuePortRead
  with_reducible repeat' (first
    | apply same_next | exact same_fault _ | exact h | assumption | refine State.withCue_same ?_ hw
    | refine same_foldl ?_ _ ?_ | apply sameOut_ite | apply same_ite | apply_assumption | dsimp only | split
    | intro _ _ _ | intro _ _)

end Sys2Proof.Machine
end

