-- ==== Sys2Proof/Laws/SameRings.lean ====
section
/-! SUPPORT. What the definitions of Machine/Rings.lean change (State.SameBut). -/

namespace Sys2Proof.Machine

theorem State.countRefusal_same {w : List Part} {a s : State} {x0 x1} (h : State.SameBut w a s)
    (hw : [.regs, .out] ⊆ w) :
    State.SameBut w a (State.countRefusal s x0 x1) := by
  unfold State.countRefusal
  with_reducible repeat' (first
    | exact h | assumption | refine State.event_same ?_ hw | refine State.setFld_same ?_ (Part.sub (by decide) hw)
    | refine State.bump_same ?_ (Part.sub (by decide) hw) | refine same_foldl ?_ _ ?_ | apply same_ite
    | apply_assumption | dsimp only | split | intro _ _ _ | intro _ _)

theorem State.setRingFld_same {w : List Part} {a s : State} {x0 x1 x2 x3} (h : State.SameBut w a s)
    (hw : [.regs] ⊆ w) :
    State.SameBut w a (State.setRingFld s x0 x1 x2 x3) := by
  unfold State.setRingFld
  with_reducible repeat' (first
    | exact h | assumption | refine State.setFld_same ?_ hw | refine same_foldl ?_ _ ?_ | apply same_ite
    | apply_assumption | dsimp only | split | intro _ _ _ | intro _ _)

theorem State.cmplAdvance_same {w : List Part} {a s : State} {x0 x1} (h : State.SameBut w a s)
    (hw : [.regs] ⊆ w) :
    State.SameBut w a (State.cmplAdvance s x0 x1) := by
  unfold State.cmplAdvance
  with_reducible repeat' (first
    | exact h | assumption | refine State.setRingFld_same ?_ hw | refine same_foldl ?_ _ ?_ | apply same_ite
    | apply_assumption | dsimp only | split | intro _ _ _ | intro _ _)

theorem State.ringFault_same {w : List Part} {a s : State} {x0 x1} (h : State.SameBut w a s)
    (hw : [.regs, .out] ⊆ w) :
    State.SameBut w a (State.ringFault s x0 x1) := by
  unfold State.ringFault
  with_reducible repeat' (first
    | exact h | assumption | refine State.event_same ?_ hw | refine State.bumpSat_same ?_ (Part.sub (by decide) hw)
    | refine State.setRingFld_same ?_ (Part.sub (by decide) hw) | refine same_foldl ?_ _ ?_ | apply same_ite
    | apply_assumption | dsimp only | split | intro _ _ _ | intro _ _)

theorem State.putCmpl_same {w : List Part} {a s : State} {x0 x1 x2 x3} (h : State.SameBut w a s)
    (hw : [.regs, .mem, .hbmStacks, .faults, .out] ⊆ w) :
    State.SameBut w a (State.putCmpl s x0 x1 x2 x3) := by
  unfold State.putCmpl
  with_reducible repeat' (first
    | exact h | assumption | refine State.bumpSat_same ?_ (Part.sub (by decide) hw)
    | refine State.cmplAdvance_same ?_ (Part.sub (by decide) hw)
    | refine State.dropMsg_same ?_ (Part.sub (by decide) hw) | refine State.msix_same ?_ (Part.sub (by decide) hw)
    | refine State.storeAll_same ?_ hw ?_ | refine State.wakeSpans_same ?_ (Part.sub (by decide) hw)
    | refine State.ringFault_same ?_ (Part.sub (by decide) hw) | refine same_foldl ?_ _ ?_ | apply same_ite
    | apply_assumption | dsimp only | split | intro _ _ _ | intro _ _)

theorem State.writeCmpl_same {w : List Part} {a s : State} {x0 x1 x2 x3} (h : State.SameBut w a s)
    (hw : [.freeCount, .regs, .mem, .hbmStacks, .faults, .out] ⊆ w) :
    State.SameBut w a (State.writeCmpl s x0 x1 x2 x3) := by
  unfold State.writeCmpl
  with_reducible repeat' (first
    | exact h | assumption | refine same_snd (by assumption) (State.openValue_same ?_ (Part.sub (by decide) hw))
    | refine State.openValue_same ?_ (Part.sub (by decide) hw)
    | refine State.putCmpl_same ?_ (Part.sub (by decide) hw) | refine same_foldl ?_ _ ?_ | apply same_ite
    | apply_assumption | dsimp only | split | intro _ _ _ | intro _ _)

theorem State.complete_same {w : List Part} {a s : State} {x0 x1 x2 x3} (h : State.SameBut w a s)
    (hw : [.freeCount, .regs, .mem, .hbmStacks, .faults, .out] ⊆ w) :
    State.SameBut w a (State.complete s x0 x1 x2 x3) := by
  unfold State.complete
  with_reducible repeat' (first
    | exact h | assumption | refine State.countRefusal_same ?_ (Part.sub (by decide) hw)
    | refine State.writeCmpl_same ?_ hw | refine same_foldl ?_ _ ?_ | apply same_ite | apply_assumption | dsimp only
    | split | intro _ _ _ | intro _ _)

theorem State.answer_same {w : List Part} {a s : State} {x0 x1 x2 x3 x4} (h : State.SameBut w a s)
    (hw : [.freeCount, .regs, .mem, .hbmStacks, .faults, .out] ⊆ w) :
    State.SameBut w a (State.answer s x0 x1 x2 x3 x4) := by
  unfold State.answer
  with_reducible repeat' (first
    | exact h | assumption | refine State.complete_same ?_ hw | refine same_foldl ?_ _ ?_ | apply same_ite
    | apply_assumption | dsimp only | split | intro _ _ _ | intro _ _)

theorem State.cueStepNow_same {w : List Part} {a s : State} {x0 x1 x2} (h : State.SameBut w a s)
    (hw : [.now, .regs, .cue, .out] ⊆ w) :
    State.SameBut w a (State.cueStepNow s x0 x1 x2) := by
  unfold State.cueStepNow
  with_reducible repeat' (first
    | exact h | assumption | refine State.cueRelease_same ?_ hw
    | refine State.cueUpdate_same ?_ (Part.sub (by decide) hw) | refine same_foldl ?_ _ ?_ | apply same_ite
    | apply_assumption | dsimp only | split | intro _ _ _ | intro _ _)

theorem State.endTicket_same {w : List Part} {a s : State} {x0 x1 x2 x3 x4} (h : State.SameBut w a s)
    (hw : [.now, .freeCount, .regs, .mem, .hbmStacks, .cue, .faults, .out] ⊆ w) :
    State.SameBut w a (State.endTicket s x0 x1 x2 x3 x4) := by
  unfold State.endTicket
  with_reducible repeat' (first
    | exact h | assumption | refine State.answer_same ?_ (Part.sub (by decide) hw)
    | refine State.cueStepNow_same ?_ (Part.sub (by decide) hw) | refine same_foldl ?_ _ ?_ | apply same_ite
    | apply_assumption | dsimp only | split | intro _ _ _ | intro _ _)

end Sys2Proof.Machine
end

