-- ==== Sys2Proof/Laws/SameAlmanac.lean ====
section
/-! SUPPORT. What the definitions of Machine/Almanac.lean change (State.SameBut). -/

namespace Sys2Proof.Machine

theorem State.freeWhere_same {w : List Part} {a s : State} {x0} (h : State.SameBut w a s)
    (hw : [.alm] ⊆ w) :
    State.SameBut w a (State.freeWhere s x0) := by
  unfold State.freeWhere
  with_reducible repeat' (first
    | exact h | assumption | refine State.withAlm_same ?_ hw | refine same_foldl ?_ _ ?_ | apply same_ite
    | apply_assumption | dsimp only | split | intro _ _ _ | intro _ _)

theorem State.freeStepEntry_same {w : List Part} {a s : State} {x0 x1} (h : State.SameBut w a s)
    (hw : [.alm] ⊆ w) :
    State.SameBut w a (State.freeStepEntry s x0 x1) := by
  unfold State.freeStepEntry
  with_reducible repeat' (first
    | exact h | assumption | refine State.freeWhere_same ?_ hw | refine same_foldl ?_ _ ?_ | apply same_ite
    | apply_assumption | dsimp only | split | intro _ _ _ | intro _ _)

theorem State.endStep_same {w : List Part} {a s : State} {x0 x1 x2} (h : State.SameBut w a s)
    (hw : [.now, .freeCount, .regs, .mem, .hbmStacks, .loader, .alm, .cue, .faults, .out] ⊆ w) :
    State.SameBut w a (State.endStep s x0 x1 x2) := by
  unfold State.endStep
  with_reducible repeat' (first
    | exact h | assumption | refine State.dropStep_same ?_ (Part.sub (by decide) hw)
    | refine State.freeStepEntry_same ?_ (Part.sub (by decide) hw)
    | refine State.endTicket_same ?_ (Part.sub (by decide) hw) | refine same_foldl ?_ _ ?_ | apply same_ite
    | apply_assumption | dsimp only | split | intro _ _ _ | intro _ _)

theorem endSteps_same {w : List Part} {a s : State} {x0 x1 x2} (h : State.SameBut w a s)
    (hw : [.now, .freeCount, .regs, .mem, .hbmStacks, .loader, .alm, .cue, .faults, .out] ⊆ w) :
    State.SameBut w a (endSteps x0 x1 x2 s) := by
  fun_induction endSteps x0 x1 x2 s
  with_reducible repeat' (first
    | exact h | assumption | refine State.endStep_same ?_ hw | refine same_foldl ?_ _ ?_ | apply same_ite
    | apply_assumption | dsimp only | split | intro _ _ _ | intro _ _)

theorem State.releaseBind_same {w : List Part} {a s : State} {x0} (h : State.SameBut w a s)
    (hw : [.ferry] ⊆ w) :
    State.SameBut w a (State.releaseBind s x0) := by
  unfold State.releaseBind
  with_reducible repeat' (first
    | exact h | assumption | refine State.withFerry_same ?_ hw | refine same_foldl ?_ _ ?_ | apply same_ite
    | apply_assumption | dsimp only | split | intro _ _ _ | intro _ _)

theorem State.endJobHere_same {w : List Part} {a s : State} {x0 x1} (h : State.SameBut w a s)
    (hw : [.now, .freeCount, .regs, .mem, .hbmStacks, .bells, .loader, .alm, .cue, .looms, .sieves, .gates,
      .pairs, .sram, .reeves, .flight, .ferry, .faults, .restarts, .ledger, .out] ⊆ w) :
    State.SameBut w a (State.endJobHere s x0 x1) := by
  unfold State.endJobHere
  with_reducible repeat' (first
    | exact h | assumption | refine State.setJob_same ?_ (Part.sub (by decide) hw)
    | refine State.jobReset_same ?_ (Part.sub (by decide) hw)
    | refine State.freeWhere_same ?_ (Part.sub (by decide) hw) | refine endSteps_same ?_ (Part.sub (by decide) hw)
    | refine State.withRestarts_same ?_ (Part.sub (by decide) hw)
    | refine State.releaseBind_same ?_ (Part.sub (by decide) hw)
    | refine State.event_same ?_ (Part.sub (by decide) hw) | refine State.bump_same ?_ (Part.sub (by decide) hw)
    | refine State.ledgerAdd_same ?_ (Part.sub (by decide) hw) | refine same_foldl ?_ _ ?_ | apply same_ite
    | apply_assumption | dsimp only | split | intro _ _ _ | intro _ _)

theorem State.mapEntries_same {w : List Part} {a s : State} {x0 x1} (h : State.SameBut w a s)
    (hw : [.alm] ⊆ w) :
    State.SameBut w a (State.mapEntries s x0 x1) := by
  unfold State.mapEntries
  with_reducible repeat' (first
    | exact h | assumption | refine State.withAlm_same ?_ hw | refine same_foldl ?_ _ ?_ | apply same_ite
    | apply_assumption | dsimp only | split | intro _ _ _ | intro _ _)

theorem State.triggerRetest_same {w : List Part} {a s : State} {x0} (h : State.SameBut w a s)
    (hw : [.regs, .power] ⊆ w) :
    State.SameBut w a (State.triggerRetest s x0) := by
  unfold State.triggerRetest
  with_reducible repeat' (first
    | exact h | assumption | refine State.setFld_same ?_ (Part.sub (by decide) hw)
    | refine State.withPower_same ?_ (Part.sub (by decide) hw) | refine same_foldl ?_ _ ?_ | apply same_ite
    | apply_assumption | dsimp only | split | intro _ _ _ | intro _ _)

theorem State.abortHere_same {w : List Part} {a s : State} {x0 x1} (h : State.SameBut w a s)
    (hw : [.now, .freeCount, .regs, .mem, .hbmStacks, .bells, .loader, .alm, .cue, .looms, .sieves, .gates,
      .pairs, .sram, .reeves, .flight, .ferry, .power, .faults, .restarts, .ledger, .out] ⊆ w) :
    State.SameBut w a (State.abortHere s x0 x1) := by
  unfold State.abortHere
  with_reducible repeat' (first
    | exact h | assumption | refine State.setJob_same ?_ (Part.sub (by decide) hw)
    | refine State.jobReset_same ?_ (Part.sub (by decide) hw)
    | refine State.endJobHere_same ?_ (Part.sub (by decide) hw)
    | refine State.setStep_same ?_ (Part.sub (by decide) hw)
    | refine State.mapEntries_same ?_ (Part.sub (by decide) hw)
    | refine State.withRestarts_same ?_ (Part.sub (by decide) hw)
    | refine State.triggerRetest_same ?_ (Part.sub (by decide) hw) | refine same_foldl ?_ _ ?_ | apply same_ite
    | apply_assumption | dsimp only | split | intro _ _ _ | intro _ _)

theorem signalDies_same {w : List Part} {a s : State} {x0 x1 x2 x3} (h : State.SameBut w a s)
    (hw : [.regs, .bells, .looms, .sieves, .gates, .pairs, .out] ⊆ w) :
    State.SameBut w a (signalDies x0 x1 x2 x3 s) := by
  fun_induction signalDies x0 x1 x2 x3 s
  with_reducible repeat' (first
    | exact h | assumption | refine State.signal_same ?_ hw | refine same_foldl ?_ _ ?_ | apply same_ite
    | apply_assumption | dsimp only | split | intro _ _ _ | intro _ _)

theorem State.withdrawHere_same {w : List Part} {a s : State} {x0 x1} (h : State.SameBut w a s)
    (hw : [.now, .freeCount, .regs, .mem, .hbmStacks, .bells, .loader, .alm, .cue, .looms, .sieves, .gates,
      .pairs, .sram, .reeves, .flight, .ferry, .faults, .restarts, .ledger, .out] ⊆ w) :
    State.SameBut w a (State.withdrawHere s x0 x1) := by
  unfold State.withdrawHere
  with_reducible repeat' (first
    | exact h | assumption | refine State.unitsReset_same ?_ (Part.sub (by decide) hw)
    | refine signalDies_same ?_ (Part.sub (by decide) hw) | refine State.setJob_same ?_ (Part.sub (by decide) hw)
    | refine State.mapEntries_same ?_ (Part.sub (by decide) hw) | refine endSteps_same ?_ (Part.sub (by decide) hw)
    | refine State.withRestarts_same ?_ (Part.sub (by decide) hw)
    | refine State.event_same ?_ (Part.sub (by decide) hw) | refine State.bump_same ?_ (Part.sub (by decide) hw)
    | refine State.ledgerAdd_same ?_ (Part.sub (by decide) hw) | refine same_foldl ?_ _ ?_ | apply same_ite
    | apply_assumption | dsimp only | split | intro _ _ _ | intro _ _)

theorem State.openEntry_same {w : List Part} {a s : State} {x0 x1} (h : State.SameBut w a s)
    (hw : [.alm] ⊆ w) :
    State.SameBut w a (State.openEntry s x0 x1) := by
  unfold State.openEntry
  with_reducible repeat' (first
    | exact h | assumption | refine State.setAlm_same ?_ hw | refine same_foldl ?_ _ ?_ | apply same_ite
    | apply_assumption | dsimp only | split | intro _ _ _ | intro _ _)

theorem State.withdrawJob_same {w : List Part} {a s : State} {x0 x1} (h : State.SameBut w a s)
    (hw : [.now, .freeCount, .regs, .mem, .hbmStacks, .bells, .loader, .alm, .cue, .looms, .sieves, .gates,
      .pairs, .sram, .reeves, .flight, .ferry, .faults, .restarts, .ledger, .out] ⊆ w) :
    State.SameBut w a (State.withdrawJob s x0 x1) := by
  unfold State.withdrawJob
  with_reducible repeat' (first
    | exact h | assumption | refine State.withdrawHere_same ?_ hw
    | refine State.jobTree_same ?_ (Part.sub (by decide) hw) | refine same_foldl ?_ _ ?_ | apply same_ite
    | apply_assumption | dsimp only | split | intro _ _ _ | intro _ _)

theorem State.abortJob_same {w : List Part} {a s : State} {x0 x1} (h : State.SameBut w a s)
    (hw : [.now, .freeCount, .regs, .mem, .hbmStacks, .bells, .loader, .alm, .cue, .looms, .sieves, .gates,
      .pairs, .sram, .reeves, .flight, .ferry, .power, .faults, .restarts, .ledger, .out] ⊆ w) :
    State.SameBut w a (State.abortJob s x0 x1) := by
  unfold State.abortJob
  with_reducible repeat' (first
    | exact h | assumption | refine State.abortHere_same ?_ hw
    | refine State.jobTree_same ?_ (Part.sub (by decide) hw) | refine same_foldl ?_ _ ?_ | apply same_ite
    | apply_assumption | dsimp only | split | intro _ _ _ | intro _ _)

theorem State.redie_same {w : List Part} {a s : State} (h : State.SameBut w a s)
    (hw : [.alm] ⊆ w) :
    State.SameBut w a (State.redie s) := by
  unfold State.redie
  with_reducible repeat' (first
    | exact h | assumption | refine State.withAlm_same ?_ hw | refine same_foldl ?_ _ ?_ | apply same_ite
    | apply_assumption | dsimp only | split | intro _ _ _ | intro _ _)

theorem withdrawJobs_same {w : List Part} {a s : State} {x0 x1} (h : State.SameBut w a s)
    (hw : [.now, .freeCount, .regs, .mem, .hbmStacks, .bells, .loader, .alm, .cue, .looms, .sieves, .gates,
      .pairs, .sram, .reeves, .flight, .ferry, .faults, .restarts, .ledger, .out] ⊆ w) :
    State.SameBut w a (withdrawJobs x0 x1 s) := by
  fun_induction withdrawJobs x0 x1 s
  with_reducible repeat' (first
    | exact h | assumption | refine State.withdrawJob_same ?_ hw | refine same_foldl ?_ _ ?_ | apply same_ite
    | apply_assumption | dsimp only | split | intro _ _ _ | intro _ _)

theorem placeEntries_same {w : List Part} {a s : State} {x0} (h : State.SameBut w a s)
    (hw : [.alm] ⊆ w) :
    State.SameBut w a (placeEntries x0 s) := by
  fun_induction placeEntries x0 s
  with_reducible repeat' (first
    | exact h | assumption | refine State.setAlm_same ?_ hw | refine same_foldl ?_ _ ?_ | apply same_ite
    | apply_assumption | dsimp only | split | intro _ _ _ | intro _ _)

theorem State.missDeadline_same {w : List Part} {a s : State} (h : State.SameBut w a s)
    (hw : [.regs, .out] ⊆ w) :
    State.SameBut w a (State.missDeadline s) := by
  unfold State.missDeadline
  with_reducible repeat' (first
    | exact h | assumption | refine State.event_same ?_ hw | refine State.bump_same ?_ (Part.sub (by decide) hw)
    | refine same_foldl ?_ _ ?_ | apply same_ite | apply_assumption | dsimp only | split | intro _ _ _ | intro _ _)

theorem State.lateEntry_same {w : List Part} {a s : State} {x0 x1} (h : State.SameBut w a s)
    (hw : [.regs, .loader, .alm, .out] ⊆ w) :
    State.SameBut w a (State.lateEntry s x0 x1) := by
  unfold State.lateEntry
  with_reducible repeat' (first
    | exact h | assumption | refine State.setStep_same ?_ (Part.sub (by decide) hw)
    | refine State.openEntry_same ?_ (Part.sub (by decide) hw)
    | refine State.missDeadline_same ?_ (Part.sub (by decide) hw) | refine same_foldl ?_ _ ?_ | apply same_ite
    | apply_assumption | dsimp only | split | intro _ _ _ | intro _ _)

theorem retestSingles_same {w : List Part} {a s : State} {x0} (h : State.SameBut w a s)
    (hw : [.regs, .loader, .alm, .out] ⊆ w) :
    State.SameBut w a (retestSingles x0 s).2 := by
  fun_induction retestSingles x0 s
  with_reducible repeat' (first
    | exact h | assumption | refine State.lateEntry_same ?_ hw | refine same_foldl ?_ _ ?_ | apply same_snd_ite
    | apply same_ite | apply_assumption | dsimp only | split | intro _ _ _ | intro _ _)

theorem State.runRetest_same {w : List Part} {a s : State} (h : State.SameBut w a s)
    (hw : [.now, .freeCount, .regs, .mem, .hbmStacks, .bells, .loader, .alm, .cue, .looms, .sieves, .gates,
      .pairs, .sram, .reeves, .flight, .ferry, .power, .faults, .restarts, .ledger, .out] ⊆ w) :
    State.SameBut w a (State.runRetest s) := by
  unfold State.runRetest
  with_reducible repeat' (first
    | exact h | assumption | refine same_snd (by assumption) (retestSingles_same ?_ (Part.sub (by decide) hw))
    | refine retestSingles_same ?_ (Part.sub (by decide) hw) | refine withdrawJobs_same ?_ (Part.sub (by decide) hw)
    | refine State.withPower_same ?_ (Part.sub (by decide) hw) | refine State.bump_same ?_ (Part.sub (by decide) hw)
    | refine State.setFld_same ?_ (Part.sub (by decide) hw) | refine State.event_same ?_ (Part.sub (by decide) hw)
    | refine same_foldl ?_ _ ?_ | apply same_ite | apply_assumption | dsimp only | split | intro _ _ _ | intro _ _)

theorem State.deadlineAct_same {w : List Part} {a s : State} {x0 x1} (h : State.SameBut w a s)
    (hw : [.now, .freeCount, .regs, .mem, .hbmStacks, .bells, .loader, .alm, .cue, .looms, .sieves, .gates,
      .pairs, .sram, .reeves, .flight, .ferry, .faults, .restarts, .ledger, .out] ⊆ w) :
    State.SameBut w a (State.deadlineAct s x0 x1) := by
  unfold State.deadlineAct
  with_reducible repeat' (first
    | exact h | assumption | refine State.openEntry_same ?_ (Part.sub (by decide) hw)
    | refine State.missDeadline_same ?_ (Part.sub (by decide) hw) | refine State.withdrawJob_same ?_ hw
    | refine same_foldl ?_ _ ?_ | apply same_ite | apply_assumption | dsimp only | split | intro _ _ _ | intro _ _)

theorem State.deadlineOf_same {w : List Part} {a s : State} {x0} (h : State.SameBut w a s)
    (hw : [.now, .freeCount, .regs, .mem, .hbmStacks, .bells, .loader, .alm, .cue, .looms, .sieves, .gates,
      .pairs, .sram, .reeves, .flight, .ferry, .faults, .restarts, .ledger, .out] ⊆ w) :
    State.SameBut w a (State.deadlineOf s x0) := by
  unfold State.deadlineOf
  with_reducible repeat' (first
    | exact h | assumption | refine State.advanceTo_same ?_ (Part.sub (by decide) hw)
    | refine State.setAlm_same ?_ (Part.sub (by decide) hw)
    | refine State.missDeadline_same ?_ (Part.sub (by decide) hw)
    | refine State.setStep_same ?_ (Part.sub (by decide) hw) | refine State.deadlineAct_same ?_ hw
    | refine same_foldl ?_ _ ?_ | apply same_ite | apply_assumption | dsimp only | split | intro _ _ _ | intro _ _)

theorem execDeadlineTransit_same {w : List Part} {a s : State} {x0} (h : State.SameBut w a s)
    (hw : [.now, .freeCount, .regs, .mem, .hbmStacks, .bells, .loader, .alm, .cue, .looms, .sieves, .gates,
      .pairs, .sram, .reeves, .flight, .ferry, .faults, .restarts, .ledger, .out] ⊆ w) :
    SameOut w a (execDeadlineTransit x0 s) := by
  unfold execDeadlineTransit
  with_reducible repeat' (first
    | apply same_next | exact same_fault _ | exact h | assumption | refine State.deadlineOf_same ?_ hw
    | refine same_foldl ?_ _ ?_ | apply sameOut_ite | apply same_ite | apply_assumption | dsimp only | split
    | intro _ _ _ | intro _ _)

theorem execRetest_same {w : List Part} {a s : State} (h : State.SameBut w a s)
    (hw : [.now, .freeCount, .regs, .mem, .hbmStacks, .bells, .loader, .alm, .cue, .looms, .sieves, .gates,
      .pairs, .sram, .reeves, .flight, .ferry, .power, .faults, .restarts, .ledger, .out] ⊆ w) :
    SameOut w a (execRetest s) := by
  unfold execRetest
  with_reducible repeat' (first
    | apply same_next | exact same_fault _ | exact h | assumption | refine State.runRetest_same ?_ hw
    | refine same_foldl ?_ _ ?_ | apply sameOut_ite | apply same_ite | apply_assumption | dsimp only | split
    | intro _ _ _ | intro _ _)

end Sys2Proof.Machine
end

