-- ==== Sys2Proof/Laws/SameKv.lean ====
section
/-! SUPPORT. What the definitions of Machine/Kv.lean change (State.SameBut). -/

namespace Sys2Proof.Machine

theorem State.setPages_same {w : List Part} {a s : State} {x0} (h : State.SameBut w a s)
    (hw : [.loader] ⊆ w) :
    State.SameBut w a (State.setPages s x0) := by
  unfold State.setPages
  with_reducible repeat' (first
    | exact h | assumption | refine State.withLoader_same ?_ hw | refine same_foldl ?_ _ ?_ | apply same_ite
    | apply_assumption | dsimp only | split | intro _ _ _ | intro _ _)

theorem State.putPage_same {w : List Part} {a s : State} {x0} (h : State.SameBut w a s)
    (hw : [.loader] ⊆ w) :
    State.SameBut w a (State.putPage s x0) := by
  unfold State.putPage
  with_reducible repeat' (first
    | exact h | assumption | refine State.setPages_same ?_ hw | refine same_foldl ?_ _ ?_ | apply same_ite
    | apply_assumption | dsimp only | split | intro _ _ _ | intro _ _)

theorem State.freeFrameOf_same {w : List Part} {a s : State} {x0} (h : State.SameBut w a s)
    (hw : [.loader] ⊆ w) :
    State.SameBut w a (State.freeFrameOf s x0) := by
  unfold State.freeFrameOf
  with_reducible repeat' (first
    | exact h | assumption | refine State.withLoader_same ?_ hw | refine same_foldl ?_ _ ?_ | apply same_ite
    | apply_assumption | dsimp only | split | intro _ _ _ | intro _ _)

theorem State.mapNodes_same {w : List Part} {a s : State} {x0} (h : State.SameBut w a s)
    (hw : [.loader] ⊆ w) :
    State.SameBut w a (State.mapNodes s x0) := by
  unfold State.mapNodes
  with_reducible repeat' (first
    | exact h | assumption | refine State.withLoader_same ?_ hw | refine same_foldl ?_ _ ?_ | apply same_ite
    | apply_assumption | dsimp only | split | intro _ _ _ | intro _ _)

theorem State.countDropped_same {w : List Part} {a s : State} (h : State.SameBut w a s)
    (hw : [.regs, .out] ⊆ w) :
    State.SameBut w a (State.countDropped s) := by
  unfold State.countDropped
  with_reducible repeat' (first
    | exact h | assumption | refine State.event_same ?_ hw | refine State.bump_same ?_ (Part.sub (by decide) hw)
    | refine same_foldl ?_ _ ?_ | apply same_ite | apply_assumption | dsimp only | split | intro _ _ _ | intro _ _)

theorem State.dropPage_same {w : List Part} {a s : State} {x0} (h : State.SameBut w a s)
    (hw : [.regs, .loader, .out] ⊆ w) :
    State.SameBut w a (State.dropPage s x0) := by
  unfold State.dropPage
  with_reducible repeat' (first
    | exact h | assumption | refine State.putPage_same ?_ (Part.sub (by decide) hw)
    | refine State.freeFrameOf_same ?_ (Part.sub (by decide) hw)
    | refine State.mapNodes_same ?_ (Part.sub (by decide) hw)
    | refine State.countDropped_same ?_ (Part.sub (by decide) hw) | refine same_foldl ?_ _ ?_ | apply same_ite
    | apply_assumption | dsimp only | split | intro _ _ _ | intro _ _)

theorem State.dropFor_same {w : List Part} {a s : State} {x0 x1 x2} (h : State.SameBut w a s)
    (hw : [.regs, .loader, .out] ⊆ w) :
    SameOpt w a (State.dropFor s x0 x1 x2) := by
  fun_induction State.dropFor s x0 x1 x2
  with_reducible repeat' (first
    | apply sameOpt_some | exact sameOpt_none | exact h | assumption | refine State.dropPage_same ?_ hw
    | refine same_foldl ?_ _ ?_ | apply sameOpt_ite | refine sameOpt_map ?_ ?_ | refine sameOpt_bind ?_ ?_ | intro _ _
    | apply same_ite | apply_assumption | dsimp only | split | intro _ _ _ | intro _ _)

theorem State.releaseRefs_same {w : List Part} {a s : State} {x0} (h : State.SameBut w a s)
    (hw : [.loader] ⊆ w) :
    State.SameBut w a (State.releaseRefs s x0) := by
  unfold State.releaseRefs
  with_reducible repeat' (first
    | exact h | assumption | refine State.mapNodes_same ?_ hw | refine same_foldl ?_ _ ?_ | apply same_ite
    | apply_assumption | dsimp only | split | intro _ _ _ | intro _ _)

theorem State.dropBadFmt_same {w : List Part} {a s : State} {x0} (h : State.SameBut w a s)
    (hw : [.regs, .loader, .out] ⊆ w) :
    State.SameBut w a (State.dropBadFmt s x0) := by
  unfold State.dropBadFmt
  with_reducible repeat' (first
    | exact h | assumption | refine State.dropPage_same ?_ hw
    | refine State.countDropped_same ?_ (Part.sub (by decide) hw)
    | refine State.releaseRefs_same ?_ (Part.sub (by decide) hw)
    | refine State.putPage_same ?_ (Part.sub (by decide) hw) | refine same_foldl ?_ _ ?_ | apply same_ite
    | apply_assumption | dsimp only | split | intro _ _ _ | intro _ _)

theorem State.checkFmts_same {w : List Part} {a s : State} {x0 x1} (h : State.SameBut w a s)
    (hw : [.regs, .loader, .out] ⊆ w) :
    State.SameBut w a (State.checkFmts s x0 x1) := by
  unfold State.checkFmts
  with_reducible repeat' (first
    | exact h | assumption | refine State.dropBadFmt_same ?_ hw | refine same_foldl ?_ _ ?_ | apply same_ite
    | apply_assumption | dsimp only | split | intro _ _ _ | intro _ _)

theorem State.shareEntry_same {w : List Part} {a s : State} {x0 x1 x2} (h : State.SameBut w a s)
    (hw : [.loader] ⊆ w) :
    State.SameBut w a (State.shareEntry s x0 x1 x2) := by
  unfold State.shareEntry
  with_reducible repeat' (first
    | exact h | assumption | refine State.freeFrameOf_same ?_ hw | refine State.putPage_same ?_ hw
    | refine same_foldl ?_ _ ?_ | apply same_ite | apply_assumption | dsimp only | split | intro _ _ _ | intro _ _)

theorem State.shareNode_same {w : List Part} {a s : State} {x0 x1 x2 x3} (h : State.SameBut w a s)
    (hw : [.loader] ⊆ w) :
    State.SameBut w a (State.shareNode s x0 x1 x2 x3) := by
  unfold State.shareNode
  with_reducible repeat' (first
    | exact h | assumption | refine State.shareEntry_same ?_ hw | refine State.mapNodes_same ?_ hw
    | refine same_foldl ?_ _ ?_ | apply same_ite | apply_assumption | dsimp only | split | intro _ _ _ | intro _ _)

theorem prefixRuns_same {w : List Part} {a s : State} {x0 x1 x2 x3 x4 x5} (h : State.SameBut w a s)
    (hw : [.loader] ⊆ w) :
    State.SameBut w a (prefixRuns x0 x1 x2 x3 x4 x5 s) := by
  fun_induction prefixRuns x0 x1 x2 x3 x4 x5 s
  with_reducible repeat' (first
    | exact h | assumption | refine State.shareNode_same ?_ hw | refine State.mapNodes_same ?_ hw
    | refine State.withLoader_same ?_ hw | refine same_foldl ?_ _ ?_ | apply same_ite | apply_assumption | dsimp only
    | split | intro _ _ _ | intro _ _)

theorem prefixSessions_same {w : List Part} {a s : State} {x0 x1} (h : State.SameBut w a s)
    (hw : [.loader] ⊆ w) :
    State.SameBut w a (prefixSessions x0 x1 s) := by
  fun_induction prefixSessions x0 x1 s
  with_reducible repeat' (first
    | exact h | assumption | refine prefixRuns_same ?_ hw | refine same_foldl ?_ _ ?_ | apply same_ite
    | apply_assumption | dsimp only | split | intro _ _ _ | intro _ _)

theorem State.kvLookup_same {w : List Part} {a s : State} {x0 x1 x2} (h : State.SameBut w a s)
    (hw : [.regs, .loader, .out] ⊆ w) :
    State.SameBut w a (State.kvLookup s x0 x1 x2) := by
  unfold State.kvLookup
  with_reducible repeat' (first
    | exact h | assumption | refine State.checkFmts_same ?_ hw
    | refine prefixSessions_same ?_ (Part.sub (by decide) hw) | refine same_foldl ?_ _ ?_ | apply same_ite
    | apply_assumption | dsimp only | split | intro _ _ _ | intro _ _)

theorem State.countRecomputed_same {w : List Part} {a s : State} (h : State.SameBut w a s)
    (hw : [.regs, .out] ⊆ w) :
    State.SameBut w a (State.countRecomputed s) := by
  unfold State.countRecomputed
  with_reducible repeat' (first
    | exact h | assumption | refine State.event_same ?_ hw | refine State.bump_same ?_ (Part.sub (by decide) hw)
    | refine same_foldl ?_ _ ?_ | apply same_ite | apply_assumption | dsimp only | split | intro _ _ _ | intro _ _)

theorem State.getFrame_same {w : List Part} {a s : State} {x0 x1 x2} (h : State.SameBut w a s)
    (hw : [.regs, .loader, .out] ⊆ w) :
    ∀ n t, State.getFrame s x0 x1 x2 = some (n, t) → State.SameBut w a t := by
  intro n t e
  induction x2 generalizing s with
  | zero => cases e
  | succ m ih =>
    unfold State.getFrame at e
    split at e
    · cases e; exact State.withLoader_same h (Part.sub (by decide) hw)
    · split at e
      · exact ih (State.dropPage_same h (Part.sub (by decide) hw)) e
      · cases e

theorem State.needFrame_same {w : List Part} {a s : State} {x0 x1} (h : State.SameBut w a s)
    (hw : [.regs, .loader, .out] ⊆ w) :
    ∀ n t, State.needFrame s x0 x1 = some (n, t) → State.SameBut w a t := fun _ _ e => State.getFrame_same h hw _ _ e

theorem State.allocPage_same {w : List Part} {a s : State} {x0 x1 x2 x3 x4} (h : State.SameBut w a s)
    (hw : [.regs, .loader, .out] ⊆ w) :
    SameOpt w a (State.allocPage s x0 x1 x2 x3 x4) := by
  unfold State.allocPage
  with_reducible repeat' (first
    | apply sameOpt_some | exact sameOpt_none | exact h | assumption
    | refine State.needFrame_same ?_ hw _ _ (by assumption) | refine State.putPage_same ?_ (Part.sub (by decide) hw)
    | refine same_foldl ?_ _ ?_ | apply sameOpt_ite | refine sameOpt_map ?_ ?_ | refine sameOpt_bind ?_ ?_ | intro _ _
    | apply same_ite | apply_assumption | dsimp only | split | intro _ _ _ | intro _ _)

theorem State.prepRead_same {w : List Part} {a s : State} {x0 x1} (h : State.SameBut w a s)
    (hw : [.regs, .loader, .out] ⊆ w) :
    SameOpt w a (State.prepRead s x0 x1) := by
  unfold State.prepRead
  with_reducible repeat' (first
    | apply sameOpt_some | exact sameOpt_none | exact h | assumption
    | refine State.countRecomputed_same ?_ (Part.sub (by decide) hw)
    | refine State.releaseRefs_same ?_ (Part.sub (by decide) hw)
    | refine sameOpt_elim (by assumption) (State.allocPage_same ?_ hw) | refine State.allocPage_same ?_ hw
    | refine same_foldl ?_ _ ?_ | apply sameOpt_ite | refine sameOpt_map ?_ ?_ | refine sameOpt_bind ?_ ?_ | intro _ _
    | apply same_ite | apply_assumption | dsimp only | split | intro _ _ _ | intro _ _)

theorem prepReads_same {w : List Part} {a s : State} {x0 x1} (h : State.SameBut w a s)
    (hw : [.regs, .loader, .out] ⊆ w) :
    SameOpt w a (prepReads x0 x1 s) := by
  induction x1 generalizing s with
  | nil => exact sameOpt_some h
  | cons k ks ih => exact sameOpt_bind (State.prepRead_same h (Part.sub (by decide) hw)) (fun _ k => ih k)

theorem State.prepWrite_same {w : List Part} {a s : State} {x0 x1} (h : State.SameBut w a s)
    (hw : [.regs, .loader, .out] ⊆ w) :
    SameOpt w a (State.prepWrite s x0 x1) := by
  unfold State.prepWrite
  with_reducible repeat' (first
    | apply sameOpt_some | exact sameOpt_none | exact h | assumption
    | refine State.putPage_same ?_ (Part.sub (by decide) hw)
    | refine sameOpt_elim (by assumption) (State.allocPage_same ?_ hw) | refine State.allocPage_same ?_ hw
    | refine State.setPages_same ?_ (Part.sub (by decide) hw) | refine same_foldl ?_ _ ?_ | apply sameOpt_ite
    | refine sameOpt_map ?_ ?_ | refine sameOpt_bind ?_ ?_ | intro _ _ | apply same_ite | apply_assumption
    | dsimp only | split | intro _ _ _ | intro _ _)

theorem prepWrites_same {w : List Part} {a s : State} {x0 x1} (h : State.SameBut w a s)
    (hw : [.regs, .loader, .out] ⊆ w) :
    SameOpt w a (prepWrites x0 x1 s) := by
  induction x1 generalizing s with
  | nil => exact sameOpt_some h
  | cons k ks ih => exact sameOpt_bind (State.prepWrite_same h (Part.sub (by decide) hw)) (fun _ k => ih k)

theorem State.kvFrames_same {w : List Part} {a s : State} {x0 x1} (h : State.SameBut w a s)
    (hw : [.regs, .loader, .out] ⊆ w) :
    SameOpt w a (State.kvFrames s x0 x1) := by
  unfold State.kvFrames
  exact sameOpt_bind (prepReads_same h (Part.sub (by decide) hw)) (fun _ k => prepWrites_same k (Part.sub (by decide) hw))

theorem State.kvRenew_same {w : List Part} {a s : State} {x0} (h : State.SameBut w a s)
    (hw : [.regs, .loader, .out] ⊆ w) :
    SameOpt w a (State.kvRenew s x0) := by
  unfold State.kvRenew
  dsimp only
  split
  · exact sameOpt_map (State.kvFrames_same (State.kvLookup_same h (Part.sub (by decide) hw)) (Part.sub (by decide) hw)) (fun _ k => State.setStep_same k (Part.sub (by decide) hw))
  · exact sameOpt_some h

theorem State.closeSession_same {w : List Part} {a s : State} {x0} (h : State.SameBut w a s)
    (hw : [.loader] ⊆ w) :
    State.SameBut w a (State.closeSession s x0) := by
  unfold State.closeSession
  with_reducible repeat' (first
    | exact h | assumption | refine State.releaseRefs_same ?_ hw | refine State.withLoader_same ?_ hw
    | refine same_foldl ?_ _ ?_ | apply same_ite | apply_assumption | dsimp only | split | intro _ _ _ | intro _ _)

theorem closeSessions_same {w : List Part} {a s : State} {x0} (h : State.SameBut w a s)
    (hw : [.loader] ⊆ w) :
    State.SameBut w a (closeSessions x0 s) := by
  fun_induction closeSessions x0 s
  with_reducible repeat' (first
    | exact h | assumption | refine State.closeSession_same ?_ hw | refine same_foldl ?_ _ ?_ | apply same_ite
    | apply_assumption | dsimp only | split | intro _ _ _ | intro _ _)

theorem State.validNodes_same {w : List Part} {a s : State} {x0 x1} (h : State.SameBut w a s)
    (hw : [.loader] ⊆ w) :
    State.SameBut w a (State.validNodes s x0 x1) := by
  unfold State.validNodes
  with_reducible repeat' (first
    | exact h | assumption | refine State.mapNodes_same ?_ hw | refine same_foldl ?_ _ ?_ | apply same_ite
    | apply_assumption | dsimp only | split | intro _ _ _ | intro _ _)

theorem State.kvIntake_same {w : List Part} {a s : State} {x0 x1} (h : State.SameBut w a s)
    (hw : [.regs, .loader, .out] ⊆ w) :
    ∀ t n ks, State.kvIntake s x0 x1 = some (t, n, ks) → State.SameBut w a t := by
  intro t n ks e
  unfold State.kvIntake at e
  simp only [Option.map_eq_some_iff] at e
  obtain ⟨v, hv, hk⟩ := e
  cases hk
  exact State.withLoader_same (State.kvFrames_same (State.kvLookup_same (State.withLoader_same h (Part.sub (by decide) hw)) (Part.sub (by decide) hw)) (Part.sub (by decide) hw) v hv) (Part.sub (by decide) hw)

theorem State.dropNodesOf_same {w : List Part} {a s : State} {x0} (h : State.SameBut w a s)
    (hw : [.loader] ⊆ w) :
    State.SameBut w a (State.dropNodesOf s x0) := by
  unfold State.dropNodesOf
  with_reducible repeat' (first
    | exact h | assumption | refine State.withLoader_same ?_ hw | refine same_foldl ?_ _ ?_ | apply same_ite
    | apply_assumption | dsimp only | split | intro _ _ _ | intro _ _)

theorem State.kvEmpty_same {w : List Part} {a s : State} (h : State.SameBut w a s)
    (hw : [.loader] ⊆ w) :
    State.SameBut w a (State.kvEmpty s) := by
  unfold State.kvEmpty
  with_reducible repeat' (first
    | exact h | assumption | refine State.withLoader_same ?_ hw | refine same_foldl ?_ _ ?_ | apply same_ite
    | apply_assumption | dsimp only | split | intro _ _ _ | intro _ _)

end Sys2Proof.Machine
end

