-- ==== Sys2Proof/Laws/SameGranary.lean ====
section
/-! SUPPORT. What the definitions of Machine/Granary.lean change (State.SameBut). -/

namespace Sys2Proof.Machine

theorem State.pairFault_same {w : List Part} {a s : State} {x0 x1 x2 x3 x4 x5} (h : State.SameBut w a s)
    (hw : [.regs, .faults] ⊆ w) :
    State.SameBut w a (State.pairFault s x0 x1 x2 x3 x4 x5) := by
  unfold State.pairFault
  with_reducible repeat' (first
    | exact h | assumption | refine State.checkFault_same ?_ hw | refine same_foldl ?_ _ ?_ | apply same_ite
    | apply_assumption | dsimp only | split | intro _ _ _ | intro _ _)

theorem State.setRunning_same {w : List Part} {a s : State} {x0 x1 x2} (h : State.SameBut w a s)
    (hw : [.pairs] ⊆ w) :
    State.SameBut w a (State.setRunning s x0 x1 x2) := by
  unfold State.setRunning
  with_reducible repeat' (first
    | exact h | assumption | refine State.setPair_same ?_ hw | refine same_foldl ?_ _ ?_ | apply same_ite
    | apply_assumption | dsimp only | split | intro _ _ _ | intro _ _)

theorem badSector_same {w : List Part} {a s : State} {x0 x1 x2 x3} (h : State.SameBut w a s)
    (hw : [.regs, .faults] ⊆ w) :
    State.SameBut w a (badSector x0 x1 x2 x3 s) := by
  unfold badSector
  with_reducible repeat' (first
    | exact h | assumption | refine State.fault_same ?_ hw | refine same_foldl ?_ _ ?_ | apply same_ite
    | apply_assumption | dsimp only | split | intro _ _ _ | intro _ _)

theorem State.acceptTile_same {w : List Part} {a s : State} {x0 x1 x2 x3} (h : State.SameBut w a s)
    (hw : [.regs, .mem, .hbmStacks, .pairs, .faults, .out] ⊆ w) :
    State.SameBut w a (State.acceptTile s x0 x1 x2 x3) := by
  unfold State.acceptTile
  with_reducible repeat' (first
    | exact h | assumption | refine State.pairFault_same ?_ (Part.sub (by decide) hw)
    | refine State.setRunning_same ?_ (Part.sub (by decide) hw) | refine badSector_same ?_ (Part.sub (by decide) hw)
    | refine State.eccRead_same ?_ (Part.sub (by decide) hw) ?_
    | refine State.countEv_same ?_ (Part.sub (by decide) hw)
    | refine State.storeAll_same ?_ (Part.sub (by decide) hw) ?_ | refine same_foldl ?_ _ ?_ | apply same_ite
    | apply_assumption | dsimp only | split | intro _ _ _ | intro _ _)

theorem State.pairArrive_same {w : List Part} {a s : State} {x0 x1 x2} (h : State.SameBut w a s)
    (hw : [.regs, .mem, .hbmStacks, .pairs, .faults, .out] ⊆ w) :
    State.SameBut w a (State.pairArrive s x0 x1 x2) := by
  unfold State.pairArrive
  with_reducible repeat' (first
    | exact h | assumption | refine State.wakeStacks_same ?_ (Part.sub (by decide) hw)
    | refine State.acceptTile_same ?_ hw | refine State.pairFault_same ?_ (Part.sub (by decide) hw)
    | refine State.setPair_same ?_ (Part.sub (by decide) hw) | refine same_foldl ?_ _ ?_ | apply same_ite
    | apply_assumption | dsimp only | split | intro _ _ _ | intro _ _)

theorem sendTiles_same {w : List Part} {a s : State} {x0 x1 x2} (h : State.SameBut w a s)
    (hw : [.flight, .ferry] ⊆ w) :
    State.SameBut w a (sendTiles x0 x1 x2 s) := by
  fun_induction sendTiles x0 x1 x2 s
  with_reducible repeat' (first
    | exact h | assumption | refine State.sendTile_same ?_ (Part.sub (by decide) hw)
    | refine State.withFlight_same ?_ (Part.sub (by decide) hw) | refine same_foldl ?_ _ ?_ | apply same_ite
    | apply_assumption | dsimp only | split | intro _ _ _ | intro _ _)

theorem sendAll_same {w : List Part} {a s : State} {x0 x1 x2} (h : State.SameBut w a s)
    (hw : [.flight, .ferry] ⊆ w) :
    State.SameBut w a (sendAll x0 x1 x2 s) := by
  fun_induction sendAll x0 x1 x2 s
  with_reducible repeat' (first
    | exact h | assumption | refine sendTiles_same ?_ hw | refine State.withFerry_same ?_ (Part.sub (by decide) hw)
    | refine same_foldl ?_ _ ?_ | apply same_ite | apply_assumption | dsimp only | split | intro _ _ _ | intro _ _)

theorem State.countGran_same {w : List Part} {a s : State} {x0} (h : State.SameBut w a s)
    (hw : [.regs, .out] ⊆ w) :
    State.SameBut w a (State.countGran s x0) := by
  unfold State.countGran
  with_reducible repeat' (first
    | exact h | assumption | refine State.bump_same ?_ (Part.sub (by decide) hw) | refine State.countEv_same ?_ hw
    | refine same_foldl ?_ _ ?_ | apply same_ite | apply_assumption | dsimp only | split | intro _ _ _ | intro _ _)

theorem mismatchFaults_same {w : List Part} {a s : State} {x0 x1 x2 x3} (h : State.SameBut w a s)
    (hw : [.regs, .faults] ⊆ w) :
    State.SameBut w a (mismatchFaults x0 x1 x2 x3 s) := by
  fun_induction mismatchFaults x0 x1 x2 x3 s
  with_reducible repeat' (first
    | exact h | assumption | refine State.fault_same ?_ hw | refine same_foldl ?_ _ ?_ | apply same_ite
    | apply_assumption | dsimp only | split | intro _ _ _ | intro _ _)

theorem State.skipTiles_same {w : List Part} {a s : State} {x0 x1} (h : State.SameBut w a s)
    (hw : [.looms] ⊆ w) :
    State.SameBut w a (State.skipTiles s x0 x1) := by
  unfold State.skipTiles
  with_reducible repeat' (first
    | exact h | assumption | refine State.withLooms_same ?_ hw | refine same_foldl ?_ _ ?_ | apply same_ite
    | apply_assumption | dsimp only | split | intro _ _ _ | intro _ _)

theorem State.emitTiles_same {w : List Part} {a s : State} {x0 x1 x2} (h : State.SameBut w a s)
    (hw : [.flight, .ferry] ⊆ w) :
    State.SameBut w a (State.emitTiles s x0 x1 x2) := by
  unfold State.emitTiles
  with_reducible repeat' (first
    | exact h | assumption | refine State.withFlight_same ?_ (Part.sub (by decide) hw) | refine sendAll_same ?_ hw
    | refine same_foldl ?_ _ ?_ | apply same_ite | apply_assumption | dsimp only | split | intro _ _ _ | intro _ _)

theorem State.applyEff_same {w : List Part} {a s : State} {x0 x1 x2 x3} (h : State.SameBut w a s)
    (hw : [.regs, .mem, .hbmStacks, .looms, .pairs, .flight, .ferry, .faults, .out] ⊆ w) :
    State.SameBut w a (State.applyEff s x0 x1 x2 x3) := by
  unfold State.applyEff
  with_reducible repeat' (first
    | exact h | assumption | refine badSector_same ?_ (Part.sub (by decide) hw)
    | refine State.eccRead_same ?_ (Part.sub (by decide) hw) ?_
    | refine State.pairFault_same ?_ (Part.sub (by decide) hw)
    | refine State.countGran_same ?_ (Part.sub (by decide) hw)
    | refine mismatchFaults_same ?_ (Part.sub (by decide) hw)
    | refine State.storeAll_same ?_ (Part.sub (by decide) hw) ?_
    | refine State.setRunning_same ?_ (Part.sub (by decide) hw)
    | refine State.skipTiles_same ?_ (Part.sub (by decide) hw)
    | refine State.emitTiles_same ?_ (Part.sub (by decide) hw) | refine same_foldl ?_ _ ?_ | apply same_ite
    | apply_assumption | dsimp only | split | intro _ _ _ | intro _ _)

theorem State.granRun_same {w : List Part} {a s : State} {x0 x1 x2 x3} (h : State.SameBut w a s)
    (hw : [.regs, .mem, .hbmStacks, .looms, .pairs, .flight, .ferry, .faults, .out] ⊆ w) :
    State.SameBut w a (State.granRun s x0 x1 x2 x3) := by
  unfold State.granRun
  with_reducible repeat' (first
    | exact h | assumption | refine State.applyEff_same ?_ hw | refine same_foldl ?_ _ ?_ | apply same_ite
    | apply_assumption | dsimp only | split | intro _ _ _ | intro _ _)

theorem takeWaiting_same {w : List Part} {a s : State} {x0 x1} (h : State.SameBut w a s)
    (hw : [.regs, .mem, .hbmStacks, .pairs, .faults, .out] ⊆ w) :
    State.SameBut w a (takeWaiting x0 x1 s) := by
  fun_induction takeWaiting x0 x1 s
  with_reducible repeat' (first
    | exact h | assumption | refine State.pairArrive_same ?_ hw | refine same_foldl ?_ _ ?_ | apply same_ite
    | apply_assumption | dsimp only | split | intro _ _ _ | intro _ _)

theorem State.takeParked_same {w : List Part} {a s : State} {x0} (h : State.SameBut w a s)
    (hw : [.regs, .mem, .hbmStacks, .pairs, .faults, .out] ⊆ w) :
    State.SameBut w a (State.takeParked s x0) := by
  unfold State.takeParked
  with_reducible repeat' (first
    | exact h | assumption | refine takeWaiting_same ?_ hw | refine State.setPair_same ?_ (Part.sub (by decide) hw)
    | refine same_foldl ?_ _ ?_ | apply same_ite | apply_assumption | dsimp only | split | intro _ _ _ | intro _ _)

theorem execRead_same {w : List Part} {a s : State} {x0 x1} (h : State.SameBut w a s)
    (hw : [.regs, .mem, .hbmStacks, .looms, .pairs, .flight, .ferry, .faults, .out] ⊆ w) :
    SameOut w a (execRead x0 x1 s) := by
  unfold execRead
  with_reducible repeat' (first
    | apply same_next | exact same_fault _ | exact h | assumption | refine State.granRun_same ?_ hw
    | refine same_foldl ?_ _ ?_ | apply sameOut_ite | apply same_ite | apply_assumption | dsimp only | split
    | intro _ _ _ | intro _ _)

theorem State.writeSettle_same {w : List Part} {a s : State} {x0 x1} (h : State.SameBut w a s)
    (hw : [.pairs] ⊆ w) :
    State.SameBut w a (State.writeSettle s x0 x1) := by
  unfold State.writeSettle
  with_reducible repeat' (first
    | exact h | assumption | refine State.setRunning_same ?_ hw | refine same_foldl ?_ _ ?_ | apply same_ite
    | apply_assumption | dsimp only | split | intro _ _ _ | intro _ _)

theorem execCopy_same {w : List Part} {a s : State} {x0 x1} (h : State.SameBut w a s)
    (hw : [.regs, .mem, .hbmStacks, .looms, .pairs, .flight, .ferry, .faults, .out] ⊆ w) :
    SameOut w a (execCopy x0 x1 s) := by
  unfold execCopy
  with_reducible repeat' (first
    | apply same_next | exact same_fault _ | exact h | assumption | refine State.granRun_same ?_ hw
    | refine same_foldl ?_ _ ?_ | apply sameOut_ite | apply same_ite | apply_assumption | dsimp only | split
    | intro _ _ _ | intro _ _)

theorem execGranaryWait_same {w : List Part} {a s : State} {x0 x1} (h : State.SameBut w a s)
    (hw : [.looms, .sieves, .gates, .pairs] ⊆ w) :
    SameOut w a (execGranaryWait x0 x1 s) := by
  unfold execGranaryWait
  with_reducible repeat' (first
    | apply same_next | exact same_fault _ | exact h | assumption
    | refine State.setRunning_same ?_ (Part.sub (by decide) hw) | refine State.errorWait_same ?_ hw
    | refine same_foldl ?_ _ ?_ | apply sameOut_ite | apply same_ite | apply_assumption | dsimp only | split
    | intro _ _ _ | intro _ _)

theorem execWrite_same {w : List Part} {a s : State} {x0 x1} (h : State.SameBut w a s)
    (hw : [.regs, .mem, .hbmStacks, .pairs, .faults, .out] ⊆ w) :
    SameOut w a (execWrite x0 x1 s) := by
  unfold execWrite
  with_reducible repeat' (first
    | apply same_next | exact same_fault _ | exact h | assumption
    | refine State.writeSettle_same ?_ (Part.sub (by decide) hw) | refine State.takeParked_same ?_ hw
    | refine same_foldl ?_ _ ?_ | apply sameOut_ite | apply same_ite | apply_assumption | dsimp only | split
    | intro _ _ _ | intro _ _)

theorem execTileArrivalAtPair_same {w : List Part} {a s : State} {x0 x1 x2} (h : State.SameBut w a s)
    (hw : [.regs, .mem, .hbmStacks, .pairs, .flight, .faults, .out] ⊆ w) :
    SameOut w a (execTileArrivalAtPair x0 x1 x2 s) := by
  unfold execTileArrivalAtPair
  with_reducible repeat' (first
    | apply same_next | exact same_fault _ | exact h | assumption
    | refine State.pairArrive_same ?_ (Part.sub (by decide) hw)
    | refine State.withFlight_same ?_ (Part.sub (by decide) hw) | refine same_foldl ?_ _ ?_ | apply sameOut_ite
    | apply same_ite | apply_assumption | dsimp only | split | intro _ _ _ | intro _ _)

theorem execGranaryNop_same {w : List Part} {a s : State} {x0 x1} (h : State.SameBut w a s)
    (hw : [.pairs] ⊆ w) :
    SameOut w a (execGranaryNop x0 x1 s) := by
  unfold execGranaryNop
  with_reducible repeat' (first
    | apply same_next | exact same_fault _ | exact h | assumption | refine State.setRunning_same ?_ hw
    | refine same_foldl ?_ _ ?_ | apply sameOut_ite | apply same_ite | apply_assumption | dsimp only | split
    | intro _ _ _ | intro _ _)

theorem execFill_same {w : List Part} {a s : State} {x0 x1} (h : State.SameBut w a s)
    (hw : [.regs, .mem, .hbmStacks, .looms, .pairs, .flight, .ferry, .faults, .out] ⊆ w) :
    SameOut w a (execFill x0 x1 s) := by
  unfold execFill
  with_reducible repeat' (first
    | apply same_next | exact same_fault _ | exact h | assumption | refine State.granRun_same ?_ hw
    | refine same_foldl ?_ _ ?_ | apply sameOut_ite | apply same_ite | apply_assumption | dsimp only | split
    | intro _ _ _ | intro _ _)

theorem execGranaryCommandComplete_same {w : List Part} {a s : State} {x0 x1} (h : State.SameBut w a s)
    (hw : [.regs, .pairs] ⊆ w) :
    SameOut w a (execGranaryCommandComplete x0 x1 s) := by
  unfold execGranaryCommandComplete
  with_reducible repeat' (first
    | apply same_next | exact same_fault _ | exact h | assumption
    | refine State.setPair_same ?_ (Part.sub (by decide) hw) | refine State.bump64_same ?_ (Part.sub (by decide) hw)
    | refine same_foldl ?_ _ ?_ | apply sameOut_ite | apply same_ite | apply_assumption | dsimp only | split
    | intro _ _ _ | intro _ _)

end Sys2Proof.Machine
end

