-- ==== Sys2Proof/Laws/SameTensors.lean ====
section
/-! SUPPORT. What the definitions of Machine/Tensors.lean change (State.SameBut). -/

namespace Sys2Proof.Machine

theorem State.setTdata_same {w : List Part} {a s : State} {x0 x1 x2 x3} (h : State.SameBut w a s)
    (hw : [.sram] ⊆ w) :
    State.SameBut w a (State.setTdata s x0 x1 x2 x3) := by
  unfold State.setTdata
  with_reducible repeat' (first
    | exact h | assumption | refine State.withSram_same ?_ hw | refine same_foldl ?_ _ ?_ | apply same_ite
    | apply_assumption | dsimp only | split | intro _ _ _ | intro _ _)

end Sys2Proof.Machine
end

