-- ==== Sys2Proof/Laws/SameConv.lean ====
section
/-! SUPPORT. What the definitions of Machine/Conv.lean change (State.SameBut). -/

namespace Sys2Proof.Machine

theorem State.feed_same {w : List Part} {a s : State} {x0 x1 x2 x3} (h : State.SameBut w a s)
    (hw : [.reeves] ⊆ w) :
    State.SameBut w a (State.feed s x0 x1 x2 x3) := by
  unfold State.feed
  with_reducible repeat' (first
    | exact h | assumption | refine State.setReeve_same ?_ hw | refine same_foldl ?_ _ ?_ | apply same_ite
    | apply_assumption | dsimp only | split | intro _ _ _ | intro _ _)

end Sys2Proof.Machine
end

