-- ==== Sys2Proof/Laws/SameTiles.lean ====
section
/-! SUPPORT. What the definitions of Machine/Tiles.lean change (State.SameBut). -/

namespace Sys2Proof.Machine

theorem State.bellArrive_same {w : List Part} {a s : State} {x0 x1 x2} (h : State.SameBut w a s)
    (hw : [.regs, .bells, .looms, .sieves, .gates, .pairs, .faults, .out] ⊆ w) :
    State.SameBut w a (State.bellArrive s x0 x1 x2) := by
  unfold State.bellArrive
  with_reducible repeat' (first
    | exact h | assumption | refine State.checkFault_same ?_ (Part.sub (by decide) hw)
    | refine State.unitSignal_same ?_ hw | refine same_foldl ?_ _ ?_ | apply same_ite | apply_assumption | dsimp only
    | split | intro _ _ _ | intro _ _)

theorem State.placeIn_same {w : List Part} {a s : State} {x0 x1 x2 x3} (h : State.SameBut w a s)
    (hw : [.sram] ⊆ w) :
    State.SameBut w a (State.placeIn s x0 x1 x2 x3) := by
  unfold State.placeIn
  with_reducible repeat' (first
    | exact h | assumption | refine State.setTdata_same ?_ hw | refine same_foldl ?_ _ ?_ | apply same_ite
    | apply_assumption | dsimp only | split | intro _ _ _ | intro _ _)

theorem State.loomArrive_same {w : List Part} {a s : State} {x0 x1 x2 x3 x4 x5} (h : State.SameBut w a s)
    (hw : [.regs, .looms, .reeves, .faults] ⊆ w) :
    State.SameBut w a (State.loomArrive s x0 x1 x2 x3 x4 x5) := by
  unfold State.loomArrive
  with_reducible repeat' (first
    | exact h | assumption | refine State.checkFault_same ?_ (Part.sub (by decide) hw)
    | refine State.setLoom_same ?_ (Part.sub (by decide) hw) | refine State.feed_same ?_ (Part.sub (by decide) hw)
    | refine same_foldl ?_ _ ?_ | apply same_ite | apply_assumption | dsimp only | split | intro _ _ _ | intro _ _)

theorem mcastTo_same {w : List Part} {a s : State} {x0 x1 x2 x3 x4} (h : State.SameBut w a s)
    (hw : [.regs, .looms, .reeves, .faults] ⊆ w) :
    State.SameBut w a (mcastTo x0 x1 x2 x3 x4 s) := by
  fun_induction mcastTo x0 x1 x2 x3 x4 s
  with_reducible repeat' (first
    | exact h | assumption | refine State.loomArrive_same ?_ hw | refine same_foldl ?_ _ ?_ | apply same_ite
    | apply_assumption | dsimp only | split | intro _ _ _ | intro _ _)

theorem execMulticast_same {w : List Part} {a s : State} {x0 x1 x2 x3} (h : State.SameBut w a s)
    (hw : [.regs, .looms, .reeves, .faults] ⊆ w) :
    SameOut w a (execMulticast x0 x1 x2 x3 s) := by
  unfold execMulticast
  with_reducible repeat' (first
    | apply same_next | exact same_fault _ | exact h | assumption
    | refine State.checkFault_same ?_ (Part.sub (by decide) hw) | refine State.bump_same ?_ (Part.sub (by decide) hw)
    | refine mcastTo_same ?_ hw | refine same_foldl ?_ _ ?_ | apply sameOut_ite | apply same_ite | apply_assumption
    | dsimp only | split | intro _ _ _ | intro _ _)

theorem State.landed_same {w : List Part} {a s : State} {x0} (h : State.SameBut w a s)
    (hw : [.flight] ⊆ w) :
    State.SameBut w a (State.landed s x0) := by
  unfold State.landed
  with_reducible repeat' (first
    | exact h | assumption | refine State.withFlight_same ?_ hw | refine same_foldl ?_ _ ?_ | apply same_ite
    | apply_assumption | dsimp only | split | intro _ _ _ | intro _ _)

theorem State.dropHeld_same {w : List Part} {a s : State} {x0 x1 x2} (h : State.SameBut w a s)
    (hw : [.sram] ⊆ w) :
    State.SameBut w a (State.dropHeld s x0 x1 x2) := by
  unfold State.dropHeld
  with_reducible repeat' (first
    | exact h | assumption | refine State.setTdata_same ?_ hw | refine same_foldl ?_ _ ?_ | apply same_ite
    | apply_assumption | dsimp only | split | intro _ _ _ | intro _ _)

theorem State.placeTileAt_same {w : List Part} {a s : State} {x0 x1 x2} (h : State.SameBut w a s)
    (hw : [.sram] ⊆ w) :
    State.SameBut w a (State.placeTileAt s x0 x1 x2) := by
  unfold State.placeTileAt
  with_reducible repeat' (first
    | exact h | assumption | refine State.placeIn_same ?_ hw | refine same_foldl ?_ _ ?_ | apply same_ite
    | apply_assumption | dsimp only | split | intro _ _ _ | intro _ _)

theorem State.unitArrive_same {w : List Part} {a s : State} {x0 x1 x2 x3 x4 x5} (h : State.SameBut w a s)
    (hw : [.regs, .sram, .faults] ⊆ w) :
    State.SameBut w a (State.unitArrive s x0 x1 x2 x3 x4 x5) := by
  unfold State.unitArrive
  with_reducible repeat' (first
    | exact h | assumption | refine State.checkFault_same ?_ (Part.sub (by decide) hw)
    | refine State.dropHeld_same ?_ (Part.sub (by decide) hw)
    | refine State.placeTileAt_same ?_ (Part.sub (by decide) hw) | refine same_foldl ?_ _ ?_ | apply same_ite
    | apply_assumption | dsimp only | split | intro _ _ _ | intro _ _)

theorem State.arrive_same {w : List Part} {a s : State} {x0 x1 x2} (h : State.SameBut w a s)
    (hw : [.regs, .bells, .looms, .sieves, .gates, .pairs, .sram, .reeves, .faults, .out] ⊆ w) :
    State.SameBut w a (State.arrive s x0 x1 x2) := by
  unfold State.arrive
  with_reducible repeat' (first
    | exact h | assumption | refine State.loomArrive_same ?_ (Part.sub (by decide) hw)
    | refine State.unitArrive_same ?_ (Part.sub (by decide) hw)
    | refine State.setSieve_same ?_ (Part.sub (by decide) hw)
    | refine State.bellArrive_same ?_ (Part.sub (by decide) hw) | refine same_foldl ?_ _ ?_ | apply same_ite
    | apply_assumption | dsimp only | split | intro _ _ _ | intro _ _)

theorem execTileArrival_same {w : List Part} {a s : State} {x0 x1} (h : State.SameBut w a s)
    (hw : [.regs, .bells, .looms, .sieves, .gates, .pairs, .sram, .reeves, .flight, .faults, .out] ⊆ w) :
    SameOut w a (execTileArrival x0 x1 s) := by
  unfold execTileArrival
  with_reducible repeat' (first
    | apply same_next | exact same_fault _ | exact h | assumption
    | refine State.arrive_same ?_ (Part.sub (by decide) hw) | refine State.landed_same ?_ (Part.sub (by decide) hw)
    | refine same_foldl ?_ _ ?_ | apply sameOut_ite | apply same_ite | apply_assumption | dsimp only | split
    | intro _ _ _ | intro _ _)

end Sys2Proof.Machine
end

