-- ==== Sys2Proof/Laws/SameFerry.lean ====
section
/-! SUPPORT. What the definitions of Machine/Ferry.lean change (State.SameBut). -/

namespace Sys2Proof.Machine

theorem State.transitFlit_same {w : List Part} {a s : State} {x0 x1 x2 x3} (h : State.SameBut w a s)
    (hw : [.regs, .ferry, .out] ⊆ w) :
    State.SameBut w a (State.transitFlit s x0 x1 x2 x3) := by
  unfold State.transitFlit
  with_reducible repeat' (first
    | exact h | assumption | refine State.forward_same ?_ hw
    | refine State.endTransit_same ?_ (Part.sub (by decide) hw) | refine same_foldl ?_ _ ?_ | apply same_ite
    | apply_assumption | dsimp only | split | intro _ _ _ | intro _ _)

theorem State.noteRelease_same {w : List Part} {a s : State} {x0 x1 x2} (h : State.SameBut w a s)
    (hw : [.loader] ⊆ w) :
    State.SameBut w a (State.noteRelease s x0 x1 x2) := by
  unfold State.noteRelease
  with_reducible repeat' (first
    | exact h | assumption | refine State.setStep_same ?_ hw | refine same_foldl ?_ _ ?_ | apply same_ite
    | apply_assumption | dsimp only | split | intro _ _ _ | intro _ _)

theorem State.ferryBell_same {w : List Part} {a s : State} {x0 x1} (h : State.SameBut w a s)
    (hw : [.regs, .bells, .loader, .looms, .sieves, .gates, .pairs, .faults, .out] ⊆ w) :
    State.SameBut w a (State.ferryBell s x0 x1) := by
  unfold State.ferryBell
  with_reducible repeat' (first
    | exact h | assumption | refine State.bellArrive_same ?_ (Part.sub (by decide) hw)
    | refine State.noteRelease_same ?_ (Part.sub (by decide) hw) | refine same_foldl ?_ _ ?_ | apply same_ite
    | apply_assumption | dsimp only | split | intro _ _ _ | intro _ _)

theorem State.ferryTile_same {w : List Part} {a s : State} {x0 x1 x2 x3 x4} (h : State.SameBut w a s)
    (hw : [.regs, .mem, .hbmStacks, .pairs, .sram, .faults, .out] ⊆ w) :
    State.SameBut w a (State.ferryTile s x0 x1 x2 x3 x4) := by
  unfold State.ferryTile
  with_reducible repeat' (first
    | exact h | assumption | refine State.setTdata_same ?_ (Part.sub (by decide) hw)
    | refine State.checkFault_same ?_ (Part.sub (by decide) hw)
    | refine State.pairArrive_same ?_ (Part.sub (by decide) hw)
    | refine State.pairFault_same ?_ (Part.sub (by decide) hw)
    | refine State.placeIn_same ?_ (Part.sub (by decide) hw) | refine same_foldl ?_ _ ?_ | apply same_ite
    | apply_assumption | dsimp only | split | intro _ _ _ | intro _ _)

theorem State.dataIn_same {w : List Part} {a s : State} {x0 x1 x2 x3 x4} (h : State.SameBut w a s)
    (hw : [.regs, .mem, .hbmStacks, .bells, .loader, .looms, .sieves, .gates, .pairs, .sram, .ferry, .faults,
      .out] ⊆ w) :
    State.SameBut w a (State.dataIn s x0 x1 x2 x3 x4) := by
  unfold State.dataIn
  with_reducible repeat' (first
    | exact h | assumption | refine State.freeFlit_same ?_ (Part.sub (by decide) hw)
    | refine State.ferryBell_same ?_ (Part.sub (by decide) hw) | refine freeTiles_same ?_ (Part.sub (by decide) hw)
    | refine State.withFerry_same ?_ (Part.sub (by decide) hw) | refine freeFlits_same ?_ (Part.sub (by decide) hw)
    | refine State.ferryTile_same ?_ (Part.sub (by decide) hw) | refine same_foldl ?_ _ ?_ | apply same_ite
    | apply_assumption | dsimp only | split | intro _ _ _ | intro _ _)

theorem State.jobStopIn_same {w : List Part} {a s : State} {x0 x1 x2} (h : State.SameBut w a s)
    (hw : [.now, .freeCount, .regs, .mem, .hbmStacks, .bells, .loader, .alm, .cue, .looms, .sieves, .gates,
      .pairs, .sram, .reeves, .flight, .ferry, .power, .faults, .restarts, .ledger, .out] ⊆ w) :
    State.SameBut w a (State.jobStopIn s x0 x1 x2) := by
  unfold State.jobStopIn
  with_reducible repeat' (first
    | exact h | assumption | refine State.jobTree_same ?_ (Part.sub (by decide) hw)
    | refine State.abortHere_same ?_ hw | refine same_foldl ?_ _ ?_ | apply same_ite | apply_assumption | dsimp only
    | split | intro _ _ _ | intro _ _)

theorem State.withdrawIn_same {w : List Part} {a s : State} {x0 x1 x2} (h : State.SameBut w a s)
    (hw : [.now, .freeCount, .regs, .mem, .hbmStacks, .bells, .loader, .alm, .cue, .looms, .sieves, .gates,
      .pairs, .sram, .reeves, .flight, .ferry, .faults, .restarts, .ledger, .out] ⊆ w) :
    State.SameBut w a (State.withdrawIn s x0 x1 x2) := by
  unfold State.withdrawIn
  with_reducible repeat' (first
    | exact h | assumption | refine State.withdrawHere_same ?_ hw
    | refine State.jobTree_same ?_ (Part.sub (by decide) hw) | refine same_foldl ?_ _ ?_ | apply same_ite
    | apply_assumption | dsimp only | split | intro _ _ _ | intro _ _)

theorem State.deliver_same {w : List Part} {a s : State} {x0 x1 x2 x3} (h : State.SameBut w a s)
    (hw : [.now, .freeCount, .regs, .mem, .hbmStacks, .bells, .loader, .alm, .cue, .looms, .sieves, .gates,
      .pairs, .sram, .reeves, .flight, .ferry, .power, .faults, .restarts, .ledger, .out] ⊆ w) :
    State.SameBut w a (State.deliver s x0 x1 x2 x3) := by
  unfold State.deliver
  with_reducible repeat' (first
    | exact h | assumption | refine State.freeFlit_same ?_ (Part.sub (by decide) hw)
    | refine State.event_same ?_ (Part.sub (by decide) hw) | refine State.bump_same ?_ (Part.sub (by decide) hw)
    | refine State.dataIn_same ?_ (Part.sub (by decide) hw) | refine State.ferryBell_same ?_ (Part.sub (by decide) hw)
    | refine State.jobStopIn_same ?_ hw | refine State.withdrawIn_same ?_ (Part.sub (by decide) hw)
    | refine same_foldl ?_ _ ?_ | apply same_ite | apply_assumption | dsimp only | split | intro _ _ _ | intro _ _)

theorem State.flitIn_same {w : List Part} {a s : State} {x0 x1 x2} (h : State.SameBut w a s)
    (hw : [.now, .freeCount, .regs, .mem, .hbmStacks, .bells, .loader, .alm, .cue, .looms, .sieves, .gates,
      .pairs, .sram, .reeves, .flight, .ferry, .power, .faults, .restarts, .ledger, .out] ⊆ w) :
    State.SameBut w a (State.flitIn s x0 x1 x2) := by
  unfold State.flitIn
  with_reducible repeat' (first
    | exact h | assumption | refine same_fst (by assumption) (State.linkIn_same ?_ (Part.sub (by decide) hw))
    | refine State.linkIn_same ?_ (Part.sub (by decide) hw) | refine State.linkOp_same ?_ (Part.sub (by decide) hw)
    | refine State.transitFlit_same ?_ (Part.sub (by decide) hw) | refine State.deliver_same ?_ hw
    | refine same_foldl ?_ _ ?_ | apply same_ite | apply_assumption | dsimp only | split | intro _ _ _ | intro _ _)

theorem execNak_same {w : List Part} {a s : State} {x0 x1 x2} (h : State.SameBut w a s)
    (hw : [.now, .freeCount, .regs, .mem, .hbmStacks, .bells, .loader, .alm, .cue, .looms, .sieves, .gates,
      .pairs, .sram, .reeves, .flight, .ferry, .power, .faults, .restarts, .ledger, .out] ⊆ w) :
    SameOut w a (execNak x0 x1 x2 s) := by
  unfold execNak
  with_reducible repeat' (first
    | apply same_next | exact same_fault _ | exact h | assumption | refine State.flitIn_same ?_ hw
    | refine same_foldl ?_ _ ?_ | apply sameOut_ite | apply same_ite | apply_assumption | dsimp only | split
    | intro _ _ _ | intro _ _)

theorem State.routesRead_same {w : List Part} {a s : State} {x0} (h : State.SameBut w a s)
    (hw : [.freeCount, .regs, .mem, .hbmStacks, .faults, .out] ⊆ w) :
    State.SameBut w a (State.routesRead s x0) := by
  unfold State.routesRead
  with_reducible repeat' (first
    | exact h | assumption | refine State.loaderRead_same ?_ hw | refine same_foldl ?_ _ ?_ | apply same_ite
    | apply_assumption | dsimp only | split | intro _ _ _ | intro _ _)

theorem State.routeCmd_same {w : List Part} {a s : State} {x0} (h : State.SameBut w a s)
    (hw : [.freeCount, .regs, .mem, .hbmStacks, .ferry, .faults, .out] ⊆ w) :
    State.SameBut w a (State.routeCmd s x0) := by
  unfold State.routeCmd
  with_reducible repeat' (first
    | exact h | assumption | refine State.setFld_same ?_ (Part.sub (by decide) hw)
    | refine State.routesRead_same ?_ (Part.sub (by decide) hw)
    | refine State.withFerry_same ?_ (Part.sub (by decide) hw) | refine same_foldl ?_ _ ?_ | apply same_ite
    | apply_assumption | dsimp only | split | intro _ _ _ | intro _ _)

theorem State.mapRead_same {w : List Part} {a s : State} (h : State.SameBut w a s)
    (hw : [.freeCount, .regs, .mem, .hbmStacks, .faults, .out] ⊆ w) :
    State.SameBut w a (State.mapRead s) := by
  unfold State.mapRead
  with_reducible repeat' (first
    | exact h | assumption | refine State.loaderRead_same ?_ hw | refine same_foldl ?_ _ ?_ | apply same_ite
    | apply_assumption | dsimp only | split | intro _ _ _ | intro _ _)

theorem State.fjCmd_same {w : List Part} {a s : State} {x0} (h : State.SameBut w a s)
    (hw : [.freeCount, .regs, .mem, .hbmStacks, .ferry, .faults, .out] ⊆ w) :
    State.SameBut w a (State.fjCmd s x0) := by
  unfold State.fjCmd
  with_reducible repeat' (first
    | exact h | assumption | refine State.setFld_same ?_ (Part.sub (by decide) hw)
    | refine State.withFerry_same ?_ (Part.sub (by decide) hw)
    | refine State.mapRead_same ?_ (Part.sub (by decide) hw) | refine same_foldl ?_ _ ?_ | apply same_ite
    | apply_assumption | dsimp only | split | intro _ _ _ | intro _ _)

theorem execBell_same {w : List Part} {a s : State} {x0 x1 x2} (h : State.SameBut w a s)
    (hw : [.now, .freeCount, .regs, .mem, .hbmStacks, .bells, .loader, .alm, .cue, .looms, .sieves, .gates,
      .pairs, .sram, .reeves, .flight, .ferry, .power, .faults, .restarts, .ledger, .out] ⊆ w) :
    SameOut w a (execBell x0 x1 x2 s) := by
  unfold execBell
  with_reducible repeat' (first
    | apply same_next | exact same_fault _ | exact h | assumption | refine State.flitIn_same ?_ hw
    | refine same_foldl ?_ _ ?_ | apply sameOut_ite | apply same_ite | apply_assumption | dsimp only | split
    | intro _ _ _ | intro _ _)

theorem execIdent_same {w : List Part} {a s : State} {x0 x1 x2} (h : State.SameBut w a s)
    (hw : [.now, .freeCount, .regs, .mem, .hbmStacks, .bells, .loader, .alm, .cue, .looms, .sieves, .gates,
      .pairs, .sram, .reeves, .flight, .ferry, .power, .faults, .restarts, .ledger, .out] ⊆ w) :
    SameOut w a (execIdent x0 x1 x2 s) := by
  unfold execIdent
  with_reducible repeat' (first
    | apply same_next | exact same_fault _ | exact h | assumption | refine State.flitIn_same ?_ hw
    | refine same_foldl ?_ _ ?_ | apply sameOut_ite | apply same_ite | apply_assumption | dsimp only | split
    | intro _ _ _ | intro _ _)

theorem execData_same {w : List Part} {a s : State} {x0 x1 x2} (h : State.SameBut w a s)
    (hw : [.now, .freeCount, .regs, .mem, .hbmStacks, .bells, .loader, .alm, .cue, .looms, .sieves, .gates,
      .pairs, .sram, .reeves, .flight, .ferry, .power, .faults, .restarts, .ledger, .out] ⊆ w) :
    SameOut w a (execData x0 x1 x2 s) := by
  unfold execData
  with_reducible repeat' (first
    | apply same_next | exact same_fault _ | exact h | assumption | refine State.flitIn_same ?_ hw
    | refine same_foldl ?_ _ ?_ | apply sameOut_ite | apply same_ite | apply_assumption | dsimp only | split
    | intro _ _ _ | intro _ _)

theorem execJobStop_same {w : List Part} {a s : State} {x0 x1 x2} (h : State.SameBut w a s)
    (hw : [.now, .freeCount, .regs, .mem, .hbmStacks, .bells, .loader, .alm, .cue, .looms, .sieves, .gates,
      .pairs, .sram, .reeves, .flight, .ferry, .power, .faults, .restarts, .ledger, .out] ⊆ w) :
    SameOut w a (execJobStop x0 x1 x2 s) := by
  unfold execJobStop
  with_reducible repeat' (first
    | apply same_next | exact same_fault _ | exact h | assumption | refine State.flitIn_same ?_ hw
    | refine same_foldl ?_ _ ?_ | apply sameOut_ite | apply same_ite | apply_assumption | dsimp only | split
    | intro _ _ _ | intro _ _)

theorem execWithdraw_same {w : List Part} {a s : State} {x0 x1 x2} (h : State.SameBut w a s)
    (hw : [.now, .freeCount, .regs, .mem, .hbmStacks, .bells, .loader, .alm, .cue, .looms, .sieves, .gates,
      .pairs, .sram, .reeves, .flight, .ferry, .power, .faults, .restarts, .ledger, .out] ⊆ w) :
    SameOut w a (execWithdraw x0 x1 x2 s) := by
  unfold execWithdraw
  with_reducible repeat' (first
    | apply same_next | exact same_fault _ | exact h | assumption | refine State.flitIn_same ?_ hw
    | refine same_foldl ?_ _ ?_ | apply sameOut_ite | apply same_ite | apply_assumption | dsimp only | split
    | intro _ _ _ | intro _ _)

theorem execProbe_same {w : List Part} {a s : State} {x0 x1 x2} (h : State.SameBut w a s)
    (hw : [.now, .freeCount, .regs, .mem, .hbmStacks, .bells, .loader, .alm, .cue, .looms, .sieves, .gates,
      .pairs, .sram, .reeves, .flight, .ferry, .power, .faults, .restarts, .ledger, .out] ⊆ w) :
    SameOut w a (execProbe x0 x1 x2 s) := by
  unfold execProbe
  with_reducible repeat' (first
    | apply same_next | exact same_fault _ | exact h | assumption | refine State.flitIn_same ?_ hw
    | refine same_foldl ?_ _ ?_ | apply sameOut_ite | apply same_ite | apply_assumption | dsimp only | split
    | intro _ _ _ | intro _ _)

theorem execEcho_same {w : List Part} {a s : State} {x0 x1 x2} (h : State.SameBut w a s)
    (hw : [.now, .freeCount, .regs, .mem, .hbmStacks, .bells, .loader, .alm, .cue, .looms, .sieves, .gates,
      .pairs, .sram, .reeves, .flight, .ferry, .power, .faults, .restarts, .ledger, .out] ⊆ w) :
    SameOut w a (execEcho x0 x1 x2 s) := by
  unfold execEcho
  with_reducible repeat' (first
    | apply same_next | exact same_fault _ | exact h | assumption | refine State.flitIn_same ?_ hw
    | refine same_foldl ?_ _ ?_ | apply sameOut_ite | apply same_ite | apply_assumption | dsimp only | split
    | intro _ _ _ | intro _ _)

theorem execRouteLoadComplete_same {w : List Part} {a s : State} (h : State.SameBut w a s)
    (hw : [.regs, .ferry] ⊆ w) :
    SameOut w a (execRouteLoadComplete s) := by
  unfold execRouteLoadComplete
  with_reducible repeat' (first
    | apply same_next | exact same_fault _ | exact h | assumption
    | refine State.setFld_same ?_ (Part.sub (by decide) hw) | refine State.withFerry_same ?_ (Part.sub (by decide) hw)
    | refine same_foldl ?_ _ ?_ | apply sameOut_ite | apply same_ite | apply_assumption | dsimp only | split
    | intro _ _ _ | intro _ _)

end Sys2Proof.Machine
end

