-- ==== Sys2Proof/Laws/SameTrain.lean ====
section
/-! SUPPORT. What the definitions of Machine/Train.lean change (State.SameBut). -/

namespace Sys2Proof.Machine

theorem sealRecords_same {w : List Part} {a s : State} {x0 x1 x2 x3 x4 x5} (h : State.SameBut w a s)
    (hw : [.regs, .mem, .hbmStacks, .faults, .out] ⊆ w) :
    State.SameBut w a (sealRecords x0 x1 x2 x3 x4 x5 s) := by
  fun_induction sealRecords x0 x1 x2 x3 x4 x5 s
  with_reducible repeat' (first
    | exact h | assumption | refine State.loaderWrite_same ?_ hw | refine same_foldl ?_ _ ?_ | apply same_ite
    | apply_assumption | dsimp only | split | intro _ _ _ | intro _ _)

theorem State.sealRank_same {w : List Part} {a s : State} {x0 x1 x2} (h : State.SameBut w a s)
    (hw : [.freeCount, .regs, .mem, .hbmStacks, .faults, .out] ⊆ w) :
    State.SameBut w a (State.sealRank s x0 x1 x2) := by
  unfold State.sealRank
  with_reducible repeat' (first
    | exact h | assumption | refine State.loaderRead_same ?_ hw | refine sealRecords_same ?_ (Part.sub (by decide) hw)
    | refine same_foldl ?_ _ ?_ | apply same_ite | apply_assumption | dsimp only | split | intro _ _ _ | intro _ _)

theorem dropRecords_same {w : List Part} {a s : State} {x0 x1 x2} (h : State.SameBut w a s)
    (hw : [.regs, .mem, .hbmStacks, .faults, .out] ⊆ w) :
    State.SameBut w a (dropRecords x0 x1 x2 s) := by
  fun_induction dropRecords x0 x1 x2 s
  with_reducible repeat' (first
    | exact h | assumption | refine State.loaderWrite_same ?_ hw | refine same_foldl ?_ _ ?_ | apply same_ite
    | apply_assumption | dsimp only | split | intro _ _ _ | intro _ _)

theorem State.deliverTo_same {w : List Part} {a s : State} {x0 x1 x2 x3 x4} (h : State.SameBut w a s)
    (hw : [.freeCount, .regs, .mem, .hbmStacks, .faults, .out] ⊆ w) :
    State.SameBut w a (State.deliverTo s x0 x1 x2 x3 x4) := by
  unfold State.deliverTo
  with_reducible repeat' (first
    | exact h | assumption | refine State.loaderRead_same ?_ hw
    | refine State.storeAll_same ?_ (Part.sub (by decide) hw) ?_
    | refine State.wakeSpans_same ?_ (Part.sub (by decide) hw)
    | refine State.withFreeCount_same ?_ (Part.sub (by decide) hw) | refine same_foldl ?_ _ ?_ | apply same_ite
    | apply_assumption | dsimp only | split | intro _ _ _ | intro _ _)

theorem State.deliverMode_same {w : List Part} {a s : State} {x0 x1 x2 x3} (h : State.SameBut w a s)
    (hw : [.freeCount, .regs, .mem, .hbmStacks, .loader, .faults, .out] ⊆ w) :
    State.SameBut w a (State.deliverMode s x0 x1 x2 x3) := by
  unfold State.deliverMode
  with_reducible repeat' (first
    | exact h | assumption | refine State.setJob_same ?_ (Part.sub (by decide) hw)
    | refine State.deliverTo_same ?_ (Part.sub (by decide) hw) | refine same_foldl ?_ _ ?_ | apply same_ite
    | apply_assumption | dsimp only | split | intro _ _ _ | intro _ _)

theorem State.adopt_same {w : List Part} {a s : State} {x0} (h : State.SameBut w a s)
    (hw : [.freeCount, .regs, .mem, .hbmStacks, .loader, .faults, .out] ⊆ w) :
    State.SameBut w a (State.adopt s x0).2 := by
  unfold State.adopt
  with_reducible repeat' (first
    | exact h | assumption | refine State.loaderRead_same ?_ (Part.sub (by decide) hw)
    | refine dropRecords_same ?_ (Part.sub (by decide) hw) | refine State.withLoader_same ?_ (Part.sub (by decide) hw)
    | refine State.deliverMode_same ?_ hw | refine same_foldl ?_ _ ?_ | apply same_snd_ite | apply same_ite
    | apply_assumption | dsimp only | split | intro _ _ _ | intro _ _)

theorem State.revert_same {w : List Part} {a s : State} {x0} (h : State.SameBut w a s)
    (hw : [.freeCount, .regs, .mem, .hbmStacks, .faults, .out] ⊆ w) :
    State.SameBut w a (State.revert s x0) := by
  unfold State.revert
  with_reducible repeat' (first
    | exact h | assumption | refine dropRecords_same ?_ (Part.sub (by decide) hw) | refine State.loaderRead_same ?_ hw
    | refine same_foldl ?_ _ ?_ | apply same_ite | apply_assumption | dsimp only | split | intro _ _ _ | intro _ _)

theorem openRecords_same {w : List Part} {a s : State} {x0 x1 x2 x3 x4} (h : State.SameBut w a s)
    (hw : [.regs, .mem, .hbmStacks, .faults, .out] ⊆ w) :
    State.SameBut w a (openRecords x0 x1 x2 x3 x4 s) := by
  fun_induction openRecords x0 x1 x2 x3 x4 s
  with_reducible repeat' (first
    | exact h | assumption | refine State.loaderWrite_same ?_ hw | refine same_foldl ?_ _ ?_ | apply same_ite
    | apply_assumption | dsimp only | split | intro _ _ _ | intro _ _)

theorem State.openGeneration_same {w : List Part} {a s : State} {x0 x1} (h : State.SameBut w a s)
    (hw : [.freeCount, .regs, .mem, .hbmStacks, .faults, .out] ⊆ w) :
    State.SameBut w a (State.openGeneration s x0 x1) := by
  unfold State.openGeneration
  with_reducible repeat' (first
    | exact h | assumption | refine openRecords_same ?_ (Part.sub (by decide) hw) | refine State.loaderRead_same ?_ hw
    | refine same_foldl ?_ _ ?_ | apply same_ite | apply_assumption | dsimp only | split | intro _ _ _ | intro _ _)

end Sys2Proof.Machine
end

