-- ==== Sys2Proof/Laws/SameSteps.lean ====
section
/-! SUPPORT. What the definitions of Machine/Steps.lean change (State.SameBut). -/

namespace Sys2Proof.Machine

theorem State.rankSignal_same {w : List Part} {a s : State} {x0 x1} (h : State.SameBut w a s)
    (hw : [.freeCount, .regs, .mem, .hbmStacks, .loader, .faults, .out] ⊆ w) :
    State.SameBut w a (State.rankSignal s x0 x1) := by
  unfold State.rankSignal
  with_reducible repeat' (first
    | exact h | assumption | refine State.sealRank_same ?_ (Part.sub (by decide) hw)
    | refine State.setStep_same ?_ (Part.sub (by decide) hw) | refine same_foldl ?_ _ ?_ | apply same_ite
    | apply_assumption | dsimp only | split | intro _ _ _ | intro _ _)

theorem State.lateTransit_same {w : List Part} {a s : State} (h : State.SameBut w a s)
    (hw : [.regs, .out] ⊆ w) :
    State.SameBut w a (State.lateTransit s) := by
  unfold State.lateTransit
  with_reducible repeat' (first
    | exact h | assumption | refine State.event_same ?_ hw | refine State.bump_same ?_ (Part.sub (by decide) hw)
    | refine same_foldl ?_ _ ?_ | apply same_ite | apply_assumption | dsimp only | split | intro _ _ _ | intro _ _)

theorem State.renew_same {w : List Part} {a s : State} {x0 x1} (h : State.SameBut w a s)
    (hw : [.regs, .loader, .power, .out] ⊆ w) :
    SameOpt w a (State.renew s x0 x1) := by
  unfold State.renew
  with_reducible repeat' (first
    | apply sameOpt_some | exact sameOpt_none | exact h | assumption
    | refine State.triggerRetest_same ?_ (Part.sub (by decide) hw)
    | refine sameOpt_elim (by assumption) (State.kvRenew_same ?_ (Part.sub (by decide) hw))
    | refine State.kvRenew_same ?_ (Part.sub (by decide) hw) | refine same_foldl ?_ _ ?_ | apply sameOpt_ite
    | refine sameOpt_map ?_ ?_ | refine sameOpt_bind ?_ ?_ | intro _ _ | apply same_ite | apply_assumption
    | dsimp only | split | intro _ _ _ | intro _ _)

theorem releaseReeves_same {w : List Part} {a s : State} {x0 x1 x2} (h : State.SameBut w a s)
    (hw : [.regs, .reeves] ⊆ w) :
    State.SameBut w a (releaseReeves x0 x1 x2 s) := by
  fun_induction releaseReeves x0 x1 x2 s
  with_reducible repeat' (first
    | exact h | assumption | refine State.setReg_same ?_ (Part.sub (by decide) hw)
    | refine State.setReeve_same ?_ (Part.sub (by decide) hw) | refine same_foldl ?_ _ ?_ | apply same_ite
    | apply_assumption | dsimp only | split | intro _ _ _ | intro _ _)

theorem State.endRun_same {w : List Part} {a s : State} {x0} (h : State.SameBut w a s)
    (hw : [.regs, .loader, .reeves] ⊆ w) :
    State.SameBut w a (State.endRun s x0) := by
  unfold State.endRun
  with_reducible repeat' (first
    | exact h | assumption | refine releaseReeves_same ?_ (Part.sub (by decide) hw)
    | refine State.withLoader_same ?_ (Part.sub (by decide) hw)
    | refine State.setStep_same ?_ (Part.sub (by decide) hw) | refine same_foldl ?_ _ ?_ | apply same_ite
    | apply_assumption | dsimp only | split | intro _ _ _ | intro _ _)

theorem endRuns_same {w : List Part} {a s : State} {x0} (h : State.SameBut w a s)
    (hw : [.regs, .loader, .reeves] ⊆ w) :
    State.SameBut w a (endRuns x0 s) := by
  fun_induction endRuns x0 s
  with_reducible repeat' (first
    | exact h | assumption | refine State.endRun_same ?_ hw | refine same_foldl ?_ _ ?_ | apply same_ite
    | apply_assumption | dsimp only | split | intro _ _ _ | intro _ _)

theorem State.settleDie_same {w : List Part} {a s : State} {x0} (h : State.SameBut w a s)
    (hw : [.regs, .loader, .reeves] ⊆ w) :
    State.SameBut w a (State.settleDie s x0) := by
  unfold State.settleDie
  with_reducible repeat' (first
    | exact h | assumption | refine endRuns_same ?_ hw | refine same_foldl ?_ _ ?_ | apply same_ite | apply_assumption
    | dsimp only | split | intro _ _ _ | intro _ _)

theorem geomFaults_same {w : List Part} {a s : State} {x0 x1 x2} (h : State.SameBut w a s)
    (hw : [.regs, .faults] ⊆ w) :
    State.SameBut w a (geomFaults x0 x1 x2 s) := by
  fun_induction geomFaults x0 x1 x2 s
  with_reducible repeat' (first
    | exact h | assumption | refine State.checkFault_same ?_ hw | refine same_foldl ?_ _ ?_ | apply same_ite
    | apply_assumption | dsimp only | split | intro _ _ _ | intro _ _)

theorem State.leaveDusk_same {w : List Part} {a s : State} {x0} (h : State.SameBut w a s)
    (hw : [.regs, .power, .out] ⊆ w) :
    State.SameBut w a (State.leaveDusk s x0) := by
  unfold State.leaveDusk
  with_reducible repeat' (first
    | exact h | assumption | refine noteStates_same ?_ (Part.sub (by decide) hw)
    | refine State.withPower_same ?_ (Part.sub (by decide) hw) | refine same_foldl ?_ _ ?_ | apply same_ite
    | apply_assumption | dsimp only | split | intro _ _ _ | intro _ _)

theorem fillLooms_same {w : List Part} {a s : State} {x0 x1 x2} (h : State.SameBut w a s)
    (hw : [.looms] ⊆ w) :
    State.SameBut w a (fillLooms x0 x1 x2 s) := by
  fun_induction fillLooms x0 x1 x2 s
  with_reducible repeat' (first
    | exact h | assumption | refine State.setLoom_same ?_ hw | refine same_foldl ?_ _ ?_ | apply same_ite
    | apply_assumption | dsimp only | split | intro _ _ _ | intro _ _)

theorem fillSieves_same {w : List Part} {a s : State} {x0 x1} (h : State.SameBut w a s)
    (hw : [.sieves] ⊆ w) :
    State.SameBut w a (fillSieves x0 x1 s) := by
  fun_induction fillSieves x0 x1 s
  with_reducible repeat' (first
    | exact h | assumption | refine State.setSieve_same ?_ hw | refine same_foldl ?_ _ ?_ | apply same_ite
    | apply_assumption | dsimp only | split | intro _ _ _ | intro _ _)

theorem fillGates_same {w : List Part} {a s : State} {x0 x1} (h : State.SameBut w a s)
    (hw : [.gates] ⊆ w) :
    State.SameBut w a (fillGates x0 x1 s) := by
  fun_induction fillGates x0 x1 s
  with_reducible repeat' (first
    | exact h | assumption | refine State.setGate_same ?_ hw | refine same_foldl ?_ _ ?_ | apply same_ite
    | apply_assumption | dsimp only | split | intro _ _ _ | intro _ _)

theorem fillGrans_same {w : List Part} {a s : State} {x0 x1} (h : State.SameBut w a s)
    (hw : [.pairs] ⊆ w) :
    State.SameBut w a (fillGrans x0 x1 s) := by
  fun_induction fillGrans x0 x1 s
  with_reducible repeat' (first
    | exact h | assumption | refine State.setPair_same ?_ hw | refine same_foldl ?_ _ ?_ | apply same_ite
    | apply_assumption | dsimp only | split | intro _ _ _ | intro _ _)

theorem State.markRunning_same {w : List Part} {a s : State} {x0 x1} (h : State.SameBut w a s)
    (hw : [.alm] ⊆ w) :
    State.SameBut w a (State.markRunning s x0 x1) := by
  unfold State.markRunning
  with_reducible repeat' (first
    | exact h | assumption | refine State.mapEntries_same ?_ hw | refine same_foldl ?_ _ ?_ | apply same_ite
    | apply_assumption | dsimp only | split | intro _ _ _ | intro _ _)

theorem setReeves_same {w : List Part} {a s : State} {x0 x1 x2} (h : State.SameBut w a s)
    (hw : [.regs, .reeves] ⊆ w) :
    State.SameBut w a (setReeves x0 x1 x2 s) := by
  fun_induction setReeves x0 x1 x2 s
  with_reducible repeat' (first
    | exact h | assumption | refine State.bump64_same ?_ (Part.sub (by decide) hw)
    | refine State.setReeve_same ?_ (Part.sub (by decide) hw) | refine State.setFld_same ?_ (Part.sub (by decide) hw)
    | refine same_foldl ?_ _ ?_ | apply same_ite | apply_assumption | dsimp only | split | intro _ _ _ | intro _ _)

theorem State.dispatch_same {w : List Part} {a s : State} {x0 x1} (h : State.SameBut w a s)
    (hw : [.regs, .loader, .alm, .looms, .sieves, .gates, .pairs, .reeves, .power, .faults, .out] ⊆ w) :
    State.SameBut w a (State.dispatch s x0 x1) := by
  unfold State.dispatch
  with_reducible repeat' (first
    | exact h | assumption | refine geomFaults_same ?_ (Part.sub (by decide) hw)
    | refine State.checkFault_same ?_ (Part.sub (by decide) hw)
    | refine State.withLoader_same ?_ (Part.sub (by decide) hw)
    | refine State.leaveDusk_same ?_ (Part.sub (by decide) hw) | refine fillLooms_same ?_ (Part.sub (by decide) hw)
    | refine fillSieves_same ?_ (Part.sub (by decide) hw) | refine fillGates_same ?_ (Part.sub (by decide) hw)
    | refine fillGrans_same ?_ (Part.sub (by decide) hw) | refine State.markRunning_same ?_ (Part.sub (by decide) hw)
    | refine setReeves_same ?_ (Part.sub (by decide) hw) | refine same_foldl ?_ _ ?_ | apply same_ite
    | apply_assumption | dsimp only | split | intro _ _ _ | intro _ _)

theorem execPieceDispatch_same {w : List Part} {a s : State} {x0} (h : State.SameBut w a s)
    (hw : [.regs, .loader, .alm, .looms, .sieves, .gates, .pairs, .reeves, .power, .faults, .out] ⊆ w) :
    SameOut w a (execPieceDispatch x0 s) := by
  unfold execPieceDispatch
  with_reducible repeat' (first
    | apply same_next | exact same_fault _ | exact h | assumption
    | refine State.settleDie_same ?_ (Part.sub (by decide) hw) | refine State.dispatch_same ?_ hw
    | refine same_foldl ?_ _ ?_ | apply sameOut_ite | apply same_ite | apply_assumption | dsimp only | split
    | intro _ _ _ | intro _ _)

theorem execStartTransit_same {w : List Part} {a s : State} {x0} (h : State.SameBut w a s)
    (hw : [.now, .regs, .loader, .out] ⊆ w) :
    SameOut w a (execStartTransit x0 s) := by
  unfold execStartTransit
  with_reducible repeat' (first
    | apply same_next | exact same_fault _ | exact h | assumption
    | refine State.advanceTo_same ?_ (Part.sub (by decide) hw)
    | refine State.setStep_same ?_ (Part.sub (by decide) hw) | refine same_foldl ?_ _ ?_ | apply sameOut_ite
    | apply same_ite | apply_assumption | dsimp only | split | intro _ _ _ | intro _ _)

theorem releaseTo_same {w : List Part} {a s : State} {x0 x1 x2 x3} (h : State.SameBut w a s)
    (hw : [.regs, .bells, .loader, .looms, .sieves, .gates, .pairs, .ferry, .faults, .out] ⊆ w) :
    State.SameBut w a (releaseTo x0 x1 x2 x3 s) := by
  induction x3 generalizing s with
  | nil => exact h
  | cons p ps ih =>
    unfold releaseTo
    exact ih (same_foldl (fun s i k => same_ite (State.noteRelease_same (State.signalLogical_same k (Part.sub (by decide) hw)) (Part.sub (by decide) hw)) (State.sendBell_same k (Part.sub (by decide) hw))) _ h)

theorem execBarrierRelease_same {w : List Part} {a s : State} {x0} (h : State.SameBut w a s)
    (hw : [.regs, .bells, .loader, .looms, .sieves, .gates, .pairs, .ferry, .faults, .out] ⊆ w) :
    SameOut w a (execBarrierRelease x0 s) := by
  unfold execBarrierRelease
  with_reducible repeat' (first
    | apply same_next | exact same_fault _ | exact h | assumption
    | refine State.setJob_same ?_ (Part.sub (by decide) hw) | refine releaseTo_same ?_ hw | refine same_foldl ?_ _ ?_
    | apply sameOut_ite | apply same_ite | apply_assumption | dsimp only | split | intro _ _ _ | intro _ _)

theorem State.settleJob_same {w : List Part} {a s : State} {x0} (h : State.SameBut w a s)
    (hw : [.regs, .loader, .reeves] ⊆ w) :
    State.SameBut w a (State.settleJob s x0) := by
  unfold State.settleJob
  with_reducible repeat' (first
    | exact h | assumption | refine endRuns_same ?_ hw | refine same_foldl ?_ _ ?_ | apply same_ite | apply_assumption
    | dsimp only | split | intro _ _ _ | intro _ _)

theorem State.adoptNext_same {w : List Part} {a s : State} {x0} (h : State.SameBut w a s)
    (hw : [.loader] ⊆ w) :
    State.SameBut w a (State.adoptNext s x0) := by
  unfold State.adoptNext
  with_reducible repeat' (first
    | exact h | assumption | refine State.withLoader_same ?_ hw | refine same_foldl ?_ _ ?_ | apply same_ite
    | apply_assumption | dsimp only | split | intro _ _ _ | intro _ _)

theorem State.zeroBells_same {w : List Part} {a s : State} {x0} (h : State.SameBut w a s)
    (hw : [.bells] ⊆ w) :
    State.SameBut w a (State.zeroBells s x0) := by
  unfold State.zeroBells
  with_reducible repeat' (first
    | exact h | assumption | refine State.withBells_same ?_ hw | refine same_foldl ?_ _ ?_ | apply same_ite
    | apply_assumption | dsimp only | split | intro _ _ _ | intro _ _)

theorem State.startStep_same {w : List Part} {a s : State} {x0 x1} (h : State.SameBut w a s)
    (hw : [.freeCount, .regs, .mem, .hbmStacks, .bells, .loader, .faults, .out] ⊆ w) :
    State.SameBut w a (State.startStep s x0 x1) := by
  unfold State.startStep
  with_reducible repeat' (first
    | exact h | assumption | refine State.zeroBells_same ?_ (Part.sub (by decide) hw)
    | refine State.setJob_same ?_ (Part.sub (by decide) hw) | refine State.setStep_same ?_ (Part.sub (by decide) hw)
    | refine State.openGeneration_same ?_ (Part.sub (by decide) hw)
    | refine State.fault_same ?_ (Part.sub (by decide) hw) | refine same_foldl ?_ _ ?_ | apply same_ite
    | apply_assumption | dsimp only | split | intro _ _ _ | intro _ _)

theorem execStepStart_same {w : List Part} {a s : State} {x0} (h : State.SameBut w a s)
    (hw : [.freeCount, .regs, .mem, .hbmStacks, .bells, .loader, .faults, .out] ⊆ w) :
    SameOut w a (execStepStart x0 s) := by
  unfold execStepStart
  with_reducible repeat' (first
    | apply same_next | exact same_fault _ | exact h | assumption | refine State.startStep_same ?_ hw
    | refine State.lateTransit_same ?_ (Part.sub (by decide) hw) | refine same_foldl ?_ _ ?_ | apply sameOut_ite
    | apply same_ite | apply_assumption | dsimp only | split | intro _ _ _ | intro _ _)

theorem State.commitStep_same {w : List Part} {a s : State} {x0 x1 x2} (h : State.SameBut w a s)
    (hw : [.now, .freeCount, .regs, .mem, .hbmStacks, .bells, .loader, .alm, .cue, .looms, .sieves, .gates,
      .pairs, .sram, .faults, .out] ⊆ w) :
    State.SameBut w a (State.commitStep s x0 x1 x2) := by
  unfold State.commitStep
  with_reducible repeat' (first
    | exact h | assumption | refine State.adoptNext_same ?_ (Part.sub (by decide) hw)
    | refine State.validNodes_same ?_ (Part.sub (by decide) hw) | refine signalDies_same ?_ (Part.sub (by decide) hw)
    | refine State.setJob_same ?_ (Part.sub (by decide) hw)
    | refine State.cueStepNow_same ?_ (Part.sub (by decide) hw)
    | refine State.complete_same ?_ (Part.sub (by decide) hw)
    | refine State.dropStep_same ?_ (Part.sub (by decide) hw)
    | refine State.freeStepEntry_same ?_ (Part.sub (by decide) hw)
    | refine State.withSram_same ?_ (Part.sub (by decide) hw)
    | refine State.withLooms_same ?_ (Part.sub (by decide) hw)
    | refine State.withLoader_same ?_ (Part.sub (by decide) hw) | refine same_foldl ?_ _ ?_ | apply same_ite
    | apply_assumption | dsimp only | split | intro _ _ _ | intro _ _)

theorem State.reselect_same {w : List Part} {a s : State} {x0 x1} (h : State.SameBut w a s)
    (hw : [.loader] ⊆ w) :
    State.SameBut w a (State.reselect s x0 x1) := by
  unfold State.reselect
  with_reducible repeat' (first
    | exact h | assumption | refine State.setStep_same ?_ hw | refine State.setJob_same ?_ hw
    | refine same_foldl ?_ _ ?_ | apply same_ite | apply_assumption | dsimp only | split | intro _ _ _ | intro _ _)

theorem execStepRestart_same {w : List Part} {a s : State} {x0} (h : State.SameBut w a s)
    (hw : [.freeCount, .regs, .mem, .hbmStacks, .bells, .loader, .power, .faults, .restarts, .out] ⊆ w) :
    SameOut w a (execStepRestart x0 s) := by
  unfold execStepRestart
  with_reducible repeat' (first
    | apply same_next | exact same_fault _ | exact h | assumption
    | refine State.withRestarts_same ?_ (Part.sub (by decide) hw)
    | refine sameOpt_elim (by assumption) (State.renew_same ?_ (Part.sub (by decide) hw))
    | refine State.renew_same ?_ (Part.sub (by decide) hw) | refine State.event_same ?_ (Part.sub (by decide) hw)
    | refine State.bump_same ?_ (Part.sub (by decide) hw) | refine State.reselect_same ?_ (Part.sub (by decide) hw)
    | refine State.revert_same ?_ (Part.sub (by decide) hw) | refine State.startStep_same ?_ (Part.sub (by decide) hw)
    | refine same_foldl ?_ _ ?_ | apply sameOut_ite | apply same_ite | apply_assumption | dsimp only | split
    | intro _ _ _ | intro _ _)

theorem execHeldCommit_same {w : List Part} {a s : State} {x0} (h : State.SameBut w a s)
    (hw : [.now, .freeCount, .regs, .mem, .hbmStacks, .bells, .loader, .alm, .cue, .looms, .sieves, .gates,
      .pairs, .sram, .faults, .out] ⊆ w) :
    SameOut w a (execHeldCommit x0 s) := by
  unfold execHeldCommit
  with_reducible repeat' (first
    | apply same_next | exact same_fault _ | exact h | assumption | refine State.commitStep_same ?_ hw
    | refine State.advanceTo_same ?_ (Part.sub (by decide) hw) | refine same_foldl ?_ _ ?_ | apply sameOut_ite
    | apply same_ite | apply_assumption | dsimp only | split | intro _ _ _ | intro _ _)

theorem execStepCommit_same {w : List Part} {a s : State} {x0} (h : State.SameBut w a s)
    (hw : [.now, .freeCount, .regs, .mem, .hbmStacks, .bells, .loader, .alm, .cue, .looms, .sieves, .gates,
      .pairs, .sram, .reeves, .faults, .out] ⊆ w) :
    SameOut w a (execStepCommit x0 s) := by
  unfold execStepCommit
  with_reducible repeat' (first
    | apply same_next | exact same_fault _ | exact h | assumption
    | refine State.settleJob_same ?_ (Part.sub (by decide) hw) | refine State.setAlm_same ?_ (Part.sub (by decide) hw)
    | refine State.setStep_same ?_ (Part.sub (by decide) hw)
    | refine State.commitStep_same ?_ (Part.sub (by decide) hw) | refine same_foldl ?_ _ ?_ | apply sameOut_ite
    | apply same_ite | apply_assumption | dsimp only | split | intro _ _ _ | intro _ _)

theorem State.granSignal_same {w : List Part} {a s : State} {x0 x1 x2 x3} (h : State.SameBut w a s)
    (hw : [.regs, .bells, .looms, .sieves, .gates, .pairs, .ferry, .faults, .out] ⊆ w) :
    State.SameBut w a (State.granSignal s x0 x1 x2 x3) := by
  unfold State.granSignal
  with_reducible repeat' (first
    | exact h | assumption | refine State.sendBell_same ?_ (Part.sub (by decide) hw)
    | refine State.withFerry_same ?_ (Part.sub (by decide) hw)
    | refine State.signalLogical_same ?_ (Part.sub (by decide) hw) | refine same_foldl ?_ _ ?_ | apply same_ite
    | apply_assumption | dsimp only | split | intro _ _ _ | intro _ _)

theorem execGranarySignal_same {w : List Part} {a s : State} {x0 x1} (h : State.SameBut w a s)
    (hw : [.freeCount, .regs, .mem, .hbmStacks, .bells, .loader, .looms, .sieves, .gates, .pairs, .ferry,
      .faults, .out] ⊆ w) :
    SameOut w a (execGranarySignal x0 x1 s) := by
  unfold execGranarySignal
  with_reducible repeat' (first
    | apply same_next | exact same_fault _ | exact h | assumption
    | refine State.granSignal_same ?_ (Part.sub (by decide) hw)
    | refine State.rankSignal_same ?_ (Part.sub (by decide) hw)
    | refine State.setRunning_same ?_ (Part.sub (by decide) hw) | refine same_foldl ?_ _ ?_ | apply sameOut_ite
    | apply same_ite | apply_assumption | dsimp only | split | intro _ _ _ | intro _ _)

end Sys2Proof.Machine
end

