-- ==== Sys2Proof/Laws/SameFaults.lean ====
section
/-! SUPPORT. What the definitions of Machine/Faults.lean change (State.SameBut). -/

namespace Sys2Proof.Machine

theorem State.fenceNote_same {w : List Part} {a s : State} {x0 x1} (h : State.SameBut w a s)
    (hw : [.regs, .ledger, .out] ⊆ w) :
    State.SameBut w a (State.fenceNote s x0 x1) := by
  unfold State.fenceNote
  with_reducible repeat' (first
    | exact h | assumption | refine State.ledgerAdd_same ?_ hw | refine State.event_same ?_ (Part.sub (by decide) hw)
    | refine State.bump_same ?_ (Part.sub (by decide) hw) | refine same_foldl ?_ _ ?_ | apply same_ite
    | apply_assumption | dsimp only | split | intro _ _ _ | intro _ _)

theorem State.clearRegs_same {w : List Part} {a s : State} {x0 x1} (h : State.SameBut w a s)
    (hw : [.regs] ⊆ w) :
    State.SameBut w a (State.clearRegs s x0 x1) := by
  unfold State.clearRegs
  with_reducible repeat' (first
    | exact h | assumption | refine State.withRegs_same ?_ hw | refine same_foldl ?_ _ ?_ | apply same_ite
    | apply_assumption | dsimp only | split | intro _ _ _ | intro _ _)

theorem moveBells_same {w : List Part} {a s : State} {x0 x1 x2 x3 x4} (h : State.SameBut w a s)
    (hw : [.bells] ⊆ w) :
    State.SameBut w a (moveBells x0 x1 x2 x3 x4 s) := by
  fun_induction moveBells x0 x1 x2 x3 x4 s
  with_reducible repeat' (first
    | exact h | assumption | refine State.setBell_same ?_ hw | refine same_foldl ?_ _ ?_ | apply same_ite
    | apply_assumption | dsimp only | split | intro _ _ _ | intro _ _)

theorem moveJobBells_same {w : List Part} {a s : State} {x0 x1 x2 x3} (h : State.SameBut w a s)
    (hw : [.bells] ⊆ w) :
    State.SameBut w a (moveJobBells x0 x1 x2 x3 s) := by
  fun_induction moveJobBells x0 x1 x2 x3 s
  with_reducible repeat' (first
    | exact h | assumption | refine moveBells_same ?_ hw | refine same_foldl ?_ _ ?_ | apply same_ite
    | apply_assumption | dsimp only | split | intro _ _ _ | intro _ _)

theorem State.moveLogical_same {w : List Part} {a s : State} {x0 x1} (h : State.SameBut w a s)
    (hw : [.regs, .bells] ⊆ w) :
    State.SameBut w a (State.moveLogical s x0 x1) := by
  unfold State.moveLogical
  with_reducible repeat' (first
    | exact h | assumption | refine State.setReg_same ?_ (Part.sub (by decide) hw)
    | refine moveJobBells_same ?_ (Part.sub (by decide) hw) | refine same_foldl ?_ _ ?_ | apply same_ite
    | apply_assumption | dsimp only | split | intro _ _ _ | intro _ _)

theorem moveLogicals_same {w : List Part} {a s : State} {x0 x1} (h : State.SameBut w a s)
    (hw : [.regs, .bells] ⊆ w) :
    State.SameBut w a (moveLogicals x0 x1 s) := by
  fun_induction moveLogicals x0 x1 s
  with_reducible repeat' (first
    | exact h | assumption | refine State.moveLogical_same ?_ hw | refine same_foldl ?_ _ ?_ | apply same_ite
    | apply_assumption | dsimp only | split | intro _ _ _ | intro _ _)

theorem State.resetMap_same {w : List Part} {a s : State} (h : State.SameBut w a s)
    (hw : [.regs, .bells] ⊆ w) :
    State.SameBut w a (State.resetMap s) := by
  unfold State.resetMap
  with_reducible repeat' (first
    | exact h | assumption | refine State.setReg_same ?_ (Part.sub (by decide) hw) | refine moveLogicals_same ?_ hw
    | refine same_foldl ?_ _ ?_ | apply same_ite | apply_assumption | dsimp only | split | intro _ _ _ | intro _ _)

theorem abortJobs_same {w : List Part} {a s : State} {x0 x1} (h : State.SameBut w a s)
    (hw : [.now, .freeCount, .regs, .mem, .hbmStacks, .bells, .loader, .alm, .cue, .looms, .sieves, .gates,
      .pairs, .sram, .reeves, .flight, .ferry, .power, .faults, .restarts, .ledger, .out] ⊆ w) :
    State.SameBut w a (abortJobs x0 x1 s) := by
  fun_induction abortJobs x0 x1 s
  with_reducible repeat' (first
    | exact h | assumption | refine State.abortJob_same ?_ hw | refine same_foldl ?_ _ ?_ | apply same_ite
    | apply_assumption | dsimp only | split | intro _ _ _ | intro _ _)

theorem State.clearUnits_same {w : List Part} {a s : State} {x0} (h : State.SameBut w a s)
    (hw : [.regs, .looms, .sieves, .gates, .sram, .reeves, .kats] ⊆ w) :
    State.SameBut w a (State.clearUnits s x0) := by
  unfold State.clearUnits
  with_reducible repeat' (first
    | exact h | assumption | refine State.setFld_same ?_ (Part.sub (by decide) hw)
    | refine State.withSieves_same ?_ (Part.sub (by decide) hw)
    | refine State.withLooms_same ?_ (Part.sub (by decide) hw)
    | refine State.withReeves_same ?_ (Part.sub (by decide) hw)
    | refine State.withGates_same ?_ (Part.sub (by decide) hw)
    | refine State.withSram_same ?_ (Part.sub (by decide) hw)
    | refine State.withKats_same ?_ (Part.sub (by decide) hw) | refine same_foldl ?_ _ ?_ | apply same_ite
    | apply_assumption | dsimp only | split | intro _ _ _ | intro _ _)

theorem State.evacuate_same {w : List Part} {a s : State} {x0} (h : State.SameBut w a s)
    (hw : [.regs, .bells, .alm] ⊆ w) :
    State.SameBut w a (State.evacuate s x0) := by
  unfold State.evacuate
  with_reducible repeat' (first
    | exact h | assumption | refine State.redie_same ?_ (Part.sub (by decide) hw)
    | refine moveLogicals_same ?_ (Part.sub (by decide) hw) | refine same_foldl ?_ _ ?_ | apply same_ite
    | apply_assumption | dsimp only | split | intro _ _ _ | intro _ _)

theorem State.fence_same {w : List Part} {a s : State} {x0 x1 x2 x3} (h : State.SameBut w a s)
    (hw : [.now, .freeCount, .regs, .mem, .hbmStacks, .bells, .loader, .alm, .cue, .looms, .sieves, .gates,
      .pairs, .sram, .reeves, .kats, .flight, .ferry, .power, .faults, .restarts, .ledger, .out] ⊆ w) :
    State.SameBut w a (State.fence s x0 x1 x2 x3) := by
  unfold State.fence
  with_reducible repeat' (first
    | exact h | assumption | refine State.fenceNote_same ?_ (Part.sub (by decide) hw)
    | refine State.withPower_same ?_ (Part.sub (by decide) hw) | refine abortJobs_same ?_ (Part.sub (by decide) hw)
    | refine State.setFld_same ?_ (Part.sub (by decide) hw)
    | refine State.clearUnits_same ?_ (Part.sub (by decide) hw)
    | refine State.diePortsDown_same ?_ (Part.sub (by decide) hw)
    | refine State.evacuate_same ?_ (Part.sub (by decide) hw) | refine noteStates_same ?_ (Part.sub (by decide) hw)
    | refine State.triggerRetest_same ?_ (Part.sub (by decide) hw) | refine same_foldl ?_ _ ?_ | apply same_ite
    | apply_assumption | dsimp only | split | intro _ _ _ | intro _ _)

theorem State.releaseNote_same {w : List Part} {a s : State} {x0} (h : State.SameBut w a s)
    (hw : [.regs, .ledger, .out] ⊆ w) :
    State.SameBut w a (State.releaseNote s x0) := by
  unfold State.releaseNote
  with_reducible repeat' (first
    | exact h | assumption | refine State.ledgerAdd_same ?_ hw | refine same_foldl ?_ _ ?_ | apply same_ite
    | apply_assumption | dsimp only | split | intro _ _ _ | intro _ _)

theorem State.unfence_same {w : List Part} {a s : State} {x0} (h : State.SameBut w a s)
    (hw : [.regs, .bells, .power, .ledger, .out] ⊆ w) :
    State.SameBut w a (State.unfence s x0) := by
  unfold State.unfence
  with_reducible repeat' (first
    | exact h | assumption | refine State.releaseNote_same ?_ (Part.sub (by decide) hw)
    | refine State.setFld_same ?_ (Part.sub (by decide) hw) | refine State.resetMap_same ?_ (Part.sub (by decide) hw)
    | refine State.triggerRetest_same ?_ (Part.sub (by decide) hw) | refine attnRise_same ?_ (Part.sub (by decide) hw)
    | refine noteStates_same ?_ (Part.sub (by decide) hw) | refine same_foldl ?_ _ ?_ | apply same_ite
    | apply_assumption | dsimp only | split | intro _ _ _ | intro _ _)

theorem State.dropFence_same {w : List Part} {a s : State} {x0} (h : State.SameBut w a s)
    (hw : [.regs, .bells, .power, .ledger, .out] ⊆ w) :
    State.SameBut w a (State.dropFence s x0) := by
  unfold State.dropFence
  with_reducible repeat' (first
    | exact h | assumption | refine State.withPower_same ?_ (Part.sub (by decide) hw)
    | refine State.releaseNote_same ?_ (Part.sub (by decide) hw) | refine State.unfence_same ?_ hw
    | refine same_foldl ?_ _ ?_ | apply same_ite | apply_assumption | dsimp only | split | intro _ _ _ | intro _ _)

theorem State.fenceWrite_same {w : List Part} {a s : State} {x0} (h : State.SameBut w a s)
    (hw : [.now, .freeCount, .regs, .mem, .hbmStacks, .bells, .loader, .alm, .cue, .looms, .sieves, .gates,
      .pairs, .sram, .reeves, .kats, .flight, .ferry, .power, .faults, .restarts, .ledger, .out] ⊆ w) :
    State.SameBut w a (State.fenceWrite s x0) := by
  unfold State.fenceWrite
  with_reducible repeat' (first
    | exact h | assumption | refine State.fence_same ?_ hw | refine State.dropFence_same ?_ (Part.sub (by decide) hw)
    | refine same_foldl ?_ _ ?_ | apply same_ite | apply_assumption | dsimp only | split | intro _ _ _ | intro _ _)

theorem State.rejoin_same {w : List Part} {a s : State} {x0} (h : State.SameBut w a s)
    (hw : [.regs, .bells] ⊆ w) :
    State.SameBut w a (State.rejoin s x0) := by
  unfold State.rejoin
  with_reducible repeat' (first
    | exact h | assumption | refine moveJobBells_same ?_ (Part.sub (by decide) hw)
    | refine State.setReg_same ?_ (Part.sub (by decide) hw) | refine same_foldl ?_ _ ?_ | apply same_ite
    | apply_assumption | dsimp only | split | intro _ _ _ | intro _ _)

theorem State.admitMap_same {w : List Part} {a s : State} (h : State.SameBut w a s)
    (hw : [.regs, .bells, .alm, .out] ⊆ w) :
    State.SameBut w a (State.admitMap s) := by
  unfold State.admitMap
  with_reducible repeat' (first
    | exact h | assumption | refine noteStates_same ?_ (Part.sub (by decide) hw)
    | refine State.resetMap_same ?_ (Part.sub (by decide) hw) | refine State.redie_same ?_ (Part.sub (by decide) hw)
    | refine State.rejoin_same ?_ (Part.sub (by decide) hw) | refine same_foldl ?_ _ ?_ | apply same_ite
    | apply_assumption | dsimp only | split | intro _ _ _ | intro _ _)

theorem State.spareFence_same {w : List Part} {a s : State} {x0} (h : State.SameBut w a s)
    (hw : [.now, .freeCount, .regs, .mem, .hbmStacks, .bells, .loader, .alm, .cue, .looms, .sieves, .gates,
      .pairs, .sram, .reeves, .kats, .flight, .ferry, .power, .faults, .restarts, .ledger, .out] ⊆ w) :
    State.SameBut w a (State.spareFence s x0) := by
  unfold State.spareFence
  with_reducible repeat' (first
    | exact h | assumption | refine State.fence_same ?_ hw | refine same_foldl ?_ _ ?_ | apply same_ite
    | apply_assumption | dsimp only | split | intro _ _ _ | intro _ _)

theorem State.recordFault_same {w : List Part} {a s : State} {x0 x1} (h : State.SameBut w a s)
    (hw : [.regs, .ledger, .out] ⊆ w) :
    State.SameBut w a (State.recordFault s x0 x1) := by
  unfold State.recordFault
  with_reducible repeat' (first
    | exact h | assumption | refine State.event_same ?_ (Part.sub (by decide) hw)
    | refine State.bump_same ?_ (Part.sub (by decide) hw) | refine State.setFld_same ?_ (Part.sub (by decide) hw)
    | refine State.ledgerAdd_same ?_ hw | refine same_foldl ?_ _ ?_ | apply same_ite | apply_assumption | dsimp only
    | split | intro _ _ _ | intro _ _)

theorem endJobs_same {w : List Part} {a s : State} {x0 x1} (h : State.SameBut w a s)
    (hw : [.now, .freeCount, .regs, .mem, .hbmStacks, .bells, .loader, .alm, .cue, .looms, .sieves, .gates,
      .pairs, .sram, .reeves, .flight, .ferry, .faults, .restarts, .ledger, .out] ⊆ w) :
    State.SameBut w a (endJobs x0 x1 s) := by
  fun_induction endJobs x0 x1 s
  with_reducible repeat' (first
    | exact h | assumption | refine State.endJobHere_same ?_ hw | refine same_foldl ?_ _ ?_ | apply same_ite
    | apply_assumption | dsimp only | split | intro _ _ _ | intro _ _)

theorem State.zeroSector_same {w : List Part} {a s : State} {x0} (h : State.SameBut w a s)
    (hw : [.mem, .hbmStacks, .loader] ⊆ w) :
    State.SameBut w a (State.zeroSector s x0) := by
  unfold State.zeroSector
  with_reducible repeat' (first
    | exact h | assumption | refine State.withLoader_same ?_ (Part.sub (by decide) hw)
    | refine State.healSector_same ?_ (Part.sub (by decide) hw) | refine storeBytes_same ?_ (Part.sub (by decide) hw)
    | refine same_foldl ?_ _ ?_ | apply same_ite | apply_assumption | dsimp only | split | intro _ _ _ | intro _ _)

theorem State.dropMirror_same {w : List Part} {a s : State} {x0 x1} (h : State.SameBut w a s)
    (hw : [.loader] ⊆ w) :
    State.SameBut w a (State.dropMirror s x0 x1) := by
  unfold State.dropMirror
  with_reducible repeat' (first
    | exact h | assumption | refine State.setStep_same ?_ hw | refine State.withLoader_same ?_ hw
    | refine same_foldl ?_ _ ?_ | apply same_ite | apply_assumption | dsimp only | split | intro _ _ _ | intro _ _)

theorem State.giveUp_same {w : List Part} {a s : State} {x0 x1} (h : State.SameBut w a s)
    (hw : [.regs, .loader, .out] ⊆ w) :
    State.SameBut w a (State.giveUp s x0 x1) := by
  unfold State.giveUp
  with_reducible repeat' (first
    | exact h | assumption | refine State.dropMirror_same ?_ (Part.sub (by decide) hw)
    | refine State.dropPage_same ?_ hw | refine same_foldl ?_ _ ?_ | apply same_ite | apply_assumption | dsimp only
    | split | intro _ _ _ | intro _ _)

theorem State.sectorFault_same {w : List Part} {a s : State} {x0 x1} (h : State.SameBut w a s)
    (hw : [.now, .freeCount, .regs, .mem, .hbmStacks, .bells, .loader, .alm, .cue, .looms, .sieves, .gates,
      .pairs, .sram, .reeves, .flight, .ferry, .power, .faults, .restarts, .ledger, .out] ⊆ w) :
    State.SameBut w a (State.sectorFault s x0 x1) := by
  unfold State.sectorFault
  have k := State.abortJob_same (x0 := x0) (x1 := 0x41) (State.zeroSector_same (x0 := x1) (State.giveUp_same (x0 := x0) (x1 := x1) h (Part.sub (by decide) hw)) (Part.sub (by decide) hw)) (Part.sub (by decide) hw)
  with_reducible repeat' (first
    | exact h | refine State.endJobHere_same ?_ (Part.sub (by decide) hw) | refine State.jobTree_same ?_ (Part.sub (by decide) hw) | dsimp only | split)
  all_goals exact sameOpt_getD k (sameOpt_bindV fun _ => State.renew_same k (Part.sub (by decide) hw))

theorem State.countFault_same {w : List Part} {a s : State} {x0 x1} (h : State.SameBut w a s)
    (hw : [.now, .freeCount, .regs, .mem, .hbmStacks, .bells, .loader, .alm, .cue, .looms, .sieves, .gates,
      .pairs, .sram, .reeves, .kats, .flight, .ferry, .power, .faults, .restarts, .ledger, .out] ⊆ w) :
    State.SameBut w a (State.countFault s x0 x1) := by
  unfold State.countFault
  with_reducible repeat' (first
    | exact h | assumption | refine State.withPower_same ?_ (Part.sub (by decide) hw) | refine State.fence_same ?_ hw
    | refine same_foldl ?_ _ ?_ | apply same_ite | apply_assumption | dsimp only | split | intro _ _ _ | intro _ _)

theorem State.handleFault_same {w : List Part} {a s : State} {x0} (h : State.SameBut w a s)
    (hw : [.now, .freeCount, .board, .regs, .mem, .hbmStacks, .bells, .loader, .alm, .cue, .looms, .sieves,
      .gates, .pairs, .sram, .reeves, .kats, .flight, .ferry, .power, .faults, .restarts, .ledger, .out] ⊆ w) :
    State.SameBut w a (State.handleFault s x0) := by
  unfold State.handleFault
  with_reducible repeat' (first
    | exact h | assumption | refine State.abortJob_same ?_ (Part.sub (by decide) hw)
    | refine State.spareFence_same ?_ (Part.sub (by decide) hw)
    | refine State.recordFault_same ?_ (Part.sub (by decide) hw) | refine endJobs_same ?_ (Part.sub (by decide) hw)
    | refine State.withBoard_same ?_ (Part.sub (by decide) hw)
    | refine State.sectorFault_same ?_ (Part.sub (by decide) hw) | refine abortJobs_same ?_ (Part.sub (by decide) hw)
    | refine State.countFault_same ?_ (Part.sub (by decide) hw) | refine same_foldl ?_ _ ?_ | apply same_ite
    | apply_assumption | dsimp only | split | intro _ _ _ | intro _ _)

theorem State.clearGuards_same {w : List Part} {a s : State} {x0} (h : State.SameBut w a s)
    (hw : [.guards, .latch, .snaps] ⊆ w) :
    State.SameBut w a (State.clearGuards s x0) := by
  unfold State.clearGuards
  with_reducible repeat' (first
    | exact h | assumption | refine State.withSnaps_same ?_ (Part.sub (by decide) hw)
    | refine State.withLatch_same ?_ (Part.sub (by decide) hw)
    | refine State.withGuards_same ?_ (Part.sub (by decide) hw) | refine same_foldl ?_ _ ?_ | apply same_ite
    | apply_assumption | dsimp only | split | intro _ _ _ | intro _ _)

theorem State.clearDie_same {w : List Part} {a s : State} {x0 x1} (h : State.SameBut w a s)
    (hw : [.regs, .guards, .latch, .snaps] ⊆ w) :
    State.SameBut w a (State.clearDie s x0 x1) := by
  unfold State.clearDie
  with_reducible repeat' (first
    | exact h | assumption | refine State.clearGuards_same ?_ (Part.sub (by decide) hw)
    | refine State.clearRegs_same ?_ (Part.sub (by decide) hw) | refine same_foldl ?_ _ ?_ | apply same_ite
    | apply_assumption | dsimp only | split | intro _ _ _ | intro _ _)

theorem State.croftReset_same {w : List Part} {a s : State} {x0 x1} (h : State.SameBut w a s)
    (hw : [.now, .freeCount, .regs, .guards, .latch, .snaps, .mem, .hbmStacks, .bells, .loader, .alm, .cue,
      .looms, .sieves, .gates, .pairs, .sram, .reeves, .kats, .flight, .ferry, .power, .faults, .restarts, .ledger, .out] ⊆ w) :
    State.SameBut w a (State.croftReset s x0 x1) := by
  unfold State.croftReset
  with_reducible repeat' (first
    | exact h | assumption | refine abortJobs_same ?_ (Part.sub (by decide) hw)
    | refine State.evacuate_same ?_ (Part.sub (by decide) hw)
    | refine State.clearUnits_same ?_ (Part.sub (by decide) hw)
    | refine State.diePortsDown_same ?_ (Part.sub (by decide) hw)
    | refine State.withBells_same ?_ (Part.sub (by decide) hw)
    | refine State.withPower_same ?_ (Part.sub (by decide) hw)
    | refine State.clearDie_same ?_ (Part.sub (by decide) hw) | refine noteStates_same ?_ (Part.sub (by decide) hw)
    | refine State.triggerRetest_same ?_ (Part.sub (by decide) hw)
    | refine State.ledgerAdd_same ?_ (Part.sub (by decide) hw) | refine same_foldl ?_ _ ?_ | apply same_ite
    | apply_assumption | dsimp only | split | intro _ _ _ | intro _ _)

theorem execTemporaryFenceRelease_same {w : List Part} {a s : State} {x0} (h : State.SameBut w a s)
    (hw : [.now, .freeCount, .regs, .guards, .latch, .snaps, .mem, .hbmStacks, .bells, .loader, .alm, .cue,
      .looms, .sieves, .gates, .pairs, .sram, .reeves, .kats, .flight, .ferry, .power, .faults, .restarts, .ledger, .out] ⊆ w) :
    SameOut w a (execTemporaryFenceRelease x0 s) := by
  unfold execTemporaryFenceRelease
  with_reducible repeat' (first
    | apply same_next | exact same_fault _ | exact h | assumption | refine State.croftReset_same ?_ hw
    | refine State.withPower_same ?_ (Part.sub (by decide) hw)
    | refine State.unfence_same ?_ (Part.sub (by decide) hw) | refine same_foldl ?_ _ ?_ | apply sameOut_ite
    | apply same_ite | apply_assumption | dsimp only | split | intro _ _ _ | intro _ _)

theorem sramFixes_same {w : List Part} {a s : State} {x0} (h : State.SameBut w a s)
    (hw : [.regs, .out] ⊆ w) :
    State.SameBut w a (sramFixes x0 s) := by
  fun_induction sramFixes x0 s
  with_reducible repeat' (first
    | exact h | assumption | refine State.event_same ?_ hw | refine State.bump_same ?_ (Part.sub (by decide) hw)
    | refine same_foldl ?_ _ ?_ | apply same_ite | apply_assumption | dsimp only | split | intro _ _ _ | intro _ _)

theorem State.hwFault_same {w : List Part} {a s : State} {x0} (h : State.SameBut w a s)
    (hw : [.regs, .hbmStacks, .looms, .faults, .out] ⊆ w) :
    State.SameBut w a (State.hwFault s x0) := by
  unfold State.hwFault
  with_reducible repeat' (first
    | exact h | assumption | refine sramFixes_same ?_ (Part.sub (by decide) hw)
    | refine weaken_same ?_ (Part.sub (by decide) hw) | refine State.setStack_same ?_ (Part.sub (by decide) hw)
    | refine State.ueEvent_same ?_ (Part.sub (by decide) hw) | refine State.setLoom_same ?_ (Part.sub (by decide) hw)
    | refine State.fault_same ?_ (Part.sub (by decide) hw) | refine same_foldl ?_ _ ?_ | apply same_ite
    | apply_assumption | dsimp only | split | intro _ _ _ | intro _ _)

theorem execRunTimeFault_same {w : List Part} {a s : State} {x0} (h : State.SameBut w a s)
    (hw : [.now, .freeCount, .board, .regs, .mem, .hbmStacks, .bells, .loader, .alm, .cue, .looms, .sieves,
      .gates, .pairs, .sram, .reeves, .kats, .flight, .ferry, .power, .faults, .restarts, .ledger, .out] ⊆ w) :
    SameOut w a (execRunTimeFault x0 s) := by
  unfold execRunTimeFault
  with_reducible repeat' (first
    | apply same_next | exact same_fault _ | exact h | assumption
    | refine State.hwFault_same ?_ (Part.sub (by decide) hw) | refine State.handleFault_same ?_ hw
    | refine State.withFaults_same ?_ (Part.sub (by decide) hw) | refine same_foldl ?_ _ ?_ | apply sameOut_ite
    | apply same_ite | apply_assumption | dsimp only | split | intro _ _ _ | intro _ _)

end Sys2Proof.Machine
end

