-- ==== Sys2Proof/Laws/SameBoard.lean ====
section
/-! SUPPORT. What the definitions of Machine/Board.lean change (State.SameBut). -/

namespace Sys2Proof.Machine

theorem State.loseStack_same {w : List Part} {a s : State} {x0} (h : State.SameBut w a s)
    (hw : [.mem, .hbmStacks] ⊆ w) :
    State.SameBut w a (State.loseStack s x0) := by
  unfold State.loseStack
  with_reducible repeat' (first
    | exact h | assumption | refine State.withMem_same ?_ (Part.sub (by decide) hw)
    | refine State.setStack_same ?_ (Part.sub (by decide) hw) | refine same_foldl ?_ _ ?_ | apply same_ite
    | apply_assumption | dsimp only | split | intro _ _ _ | intro _ _)

theorem loseStacks_same {w : List Part} {a s : State} {x0} (h : State.SameBut w a s)
    (hw : [.mem, .hbmStacks] ⊆ w) :
    State.SameBut w a (loseStacks x0 s) := by
  fun_induction loseStacks x0 s
  with_reducible repeat' (first
    | exact h | assumption | refine State.loseStack_same ?_ hw | refine same_foldl ?_ _ ?_ | apply same_ite
    | apply_assumption | dsimp only | split | intro _ _ _ | intro _ _)

theorem setTrained_same {w : List Part} {a s : State} {x0 x1} (h : State.SameBut w a s)
    (hw : [.regs] ⊆ w) :
    State.SameBut w a (setTrained x0 x1 s) := by
  fun_induction setTrained x0 x1 s
  with_reducible repeat' (first
    | exact h | assumption | refine State.setFld_same ?_ hw | refine same_foldl ?_ _ ?_ | apply same_ite
    | apply_assumption | dsimp only | split | intro _ _ _ | intro _ _)

theorem reFence_same {w : List Part} {a s : State} {x0} (h : State.SameBut w a s)
    (hw : [.regs] ⊆ w) :
    State.SameBut w a (reFence x0 s) := by
  fun_induction reFence x0 s
  with_reducible repeat' (first
    | exact h | assumption | refine State.setFld_same ?_ hw | refine same_foldl ?_ _ ?_ | apply same_ite
    | apply_assumption | dsimp only | split | intro _ _ _ | intro _ _)

theorem fenceFailed_same {w : List Part} {a s : State} {x0} (h : State.SameBut w a s)
    (hw : [.now, .freeCount, .regs, .mem, .hbmStacks, .bells, .loader, .alm, .cue, .looms, .sieves, .gates,
      .pairs, .sram, .reeves, .kats, .flight, .ferry, .power, .faults, .restarts, .ledger, .out] ⊆ w) :
    State.SameBut w a (fenceFailed x0 s) := by
  fun_induction fenceFailed x0 s
  with_reducible repeat' (first
    | exact h | assumption | refine State.fence_same ?_ hw | refine same_foldl ?_ _ ?_ | apply same_ite
    | apply_assumption | dsimp only | split | intro _ _ _ | intro _ _)

theorem State.setWmState_same {w : List Part} {a s : State} {x0} (h : State.SameBut w a s)
    (hw : [.regs] ⊆ w) :
    State.SameBut w a (State.setWmState s x0) := by
  unfold State.setWmState
  with_reducible repeat' (first
    | exact h | assumption | refine State.setFld_same ?_ hw | refine same_foldl ?_ _ ?_ | apply same_ite
    | apply_assumption | dsimp only | split | intro _ _ _ | intro _ _)

theorem State.checkReady_same {w : List Part} {a s : State} (h : State.SameBut w a s)
    (hw : [.regs] ⊆ w) :
    State.SameBut w a (State.checkReady s) := by
  unfold State.checkReady
  with_reducible repeat' (first
    | exact h | assumption | refine State.setFld_same ?_ hw | refine same_foldl ?_ _ ?_ | apply same_ite
    | apply_assumption | dsimp only | split | intro _ _ _ | intro _ _)

theorem execHbmTrainingComplete_same {w : List Part} {a s : State} {x0} (h : State.SameBut w a s)
    (hw : [.now, .freeCount, .board, .regs, .mem, .hbmStacks, .bells, .loader, .alm, .cue, .looms, .sieves,
      .gates, .pairs, .sram, .reeves, .kats, .flight, .ferry, .power, .faults, .restarts, .ledger, .out] ⊆ w) :
    SameOut w a (execHbmTrainingComplete x0 s) := by
  unfold execHbmTrainingComplete
  with_reducible repeat' (first
    | apply same_next | exact same_fault _ | exact h | assumption
    | refine State.withBoard_same ?_ (Part.sub (by decide) hw) | refine loseStacks_same ?_ (Part.sub (by decide) hw)
    | refine setTrained_same ?_ (Part.sub (by decide) hw) | refine noteStates_same ?_ (Part.sub (by decide) hw)
    | refine State.resetMap_same ?_ (Part.sub (by decide) hw) | refine reFence_same ?_ (Part.sub (by decide) hw)
    | refine fenceFailed_same ?_ (Part.sub (by decide) hw) | refine State.setWmState_same ?_ (Part.sub (by decide) hw)
    | refine State.checkReady_same ?_ (Part.sub (by decide) hw) | refine same_foldl ?_ _ ?_ | apply sameOut_ite
    | apply same_ite | apply_assumption | dsimp only | split | intro _ _ _ | intro _ _)

theorem linkDowns_same {w : List Part} {a s : State} {x0} (h : State.SameBut w a s)
    (hw : [.regs, .out] ⊆ w) :
    State.SameBut w a (linkDowns x0 s) := by
  fun_induction linkDowns x0 s
  with_reducible repeat' (first
    | exact h | assumption | refine State.event_same ?_ hw | refine same_foldl ?_ _ ?_ | apply same_ite
    | apply_assumption | dsimp only | split | intro _ _ _ | intro _ _)

theorem setLinks_same {w : List Part} {a s : State} {x0 x1} (h : State.SameBut w a s)
    (hw : [.regs] ⊆ w) :
    State.SameBut w a (setLinks x0 x1 s) := by
  fun_induction setLinks x0 x1 s
  with_reducible repeat' (first
    | exact h | assumption | refine State.setReg_same ?_ hw | refine same_foldl ?_ _ ?_ | apply same_ite
    | apply_assumption | dsimp only | split | intro _ _ _ | intro _ _)

theorem State.linkLost_same {w : List Part} {a s : State} (h : State.SameBut w a s)
    (hw : [.board, .regs, .out] ⊆ w) :
    State.SameBut w a (State.linkLost s) := by
  unfold State.linkLost
  with_reducible repeat' (first
    | exact h | assumption | refine State.withBoard_same ?_ (Part.sub (by decide) hw)
    | refine State.alert_same ?_ (Part.sub (by decide) hw) | refine linkDowns_same ?_ (Part.sub (by decide) hw)
    | refine setLinks_same ?_ (Part.sub (by decide) hw) | refine same_foldl ?_ _ ?_ | apply same_ite
    | apply_assumption | dsimp only | split | intro _ _ _ | intro _ _)

theorem State.failSquare_same {w : List Part} {a s : State} {x0 x1 x2} (h : State.SameBut w a s)
    (hw : [.board, .regs, .ledger, .out] ⊆ w) :
    State.SameBut w a (State.failSquare s x0 x1 x2) := by
  unfold State.failSquare
  with_reducible repeat' (first
    | exact h | assumption | refine State.linkLost_same ?_ (Part.sub (by decide) hw)
    | refine State.ledgerAdd_same ?_ (Part.sub (by decide) hw)
    | refine State.withBoard_same ?_ (Part.sub (by decide) hw) | refine same_foldl ?_ _ ?_ | apply same_ite
    | apply_assumption | dsimp only | split | intro _ _ _ | intro _ _)

theorem State.perstRelease_same {w : List Part} {a s : State} (h : State.SameBut w a s)
    (hw : [.board, .regs] ⊆ w) :
    State.SameBut w a (State.perstRelease s) := by
  unfold State.perstRelease
  with_reducible repeat' (first
    | exact h | assumption | refine State.checkReady_same ?_ (Part.sub (by decide) hw)
    | refine State.withBoard_same ?_ (Part.sub (by decide) hw) | refine same_foldl ?_ _ ?_ | apply same_ite
    | apply_assumption | dsimp only | split | intro _ _ _ | intro _ _)

theorem execExtest_same {w : List Part} {a s : State} {x0} (h : State.SameBut w a s)
    (hw : [.board, .regs] ⊆ w) :
    SameOut w a (execExtest x0 s) := by
  unfold execExtest
  with_reducible repeat' (first
    | apply same_next | exact same_fault _ | exact h | assumption
    | refine State.withBoard_same ?_ (Part.sub (by decide) hw) | refine State.perstRelease_same ?_ hw
    | refine same_foldl ?_ _ ?_ | apply sameOut_ite | apply same_ite | apply_assumption | dsimp only | split
    | intro _ _ _ | intro _ _)

theorem State.freeBells_same {w : List Part} {a s : State} {x0} (h : State.SameBut w a s)
    (hw : [.bells] ⊆ w) :
    State.SameBut w a (State.freeBells s x0) := by
  unfold State.freeBells
  with_reducible repeat' (first
    | exact h | assumption | refine State.withBells_same ?_ hw | refine same_foldl ?_ _ ?_ | apply same_ite
    | apply_assumption | dsimp only | split | intro _ _ _ | intro _ _)

theorem State.removeJob_same {w : List Part} {a s : State} {x0} (h : State.SameBut w a s)
    (hw : [.freeCount, .regs, .mem, .hbmStacks, .bells, .loader, .alm, .looms, .sieves, .gates, .pairs, .sram,
      .reeves, .flight, .ferry, .faults, .restarts, .out] ⊆ w) :
    State.SameBut w a (State.removeJob s x0) := by
  unfold State.removeJob
  with_reducible repeat' (first
    | exact h | assumption | refine State.unitsReset_same ?_ (Part.sub (by decide) hw)
    | refine State.releaseBind_same ?_ (Part.sub (by decide) hw)
    | refine State.freeWhere_same ?_ (Part.sub (by decide) hw)
    | refine closeSessions_same ?_ (Part.sub (by decide) hw)
    | refine State.withRestarts_same ?_ (Part.sub (by decide) hw)
    | refine State.freeBells_same ?_ (Part.sub (by decide) hw)
    | refine State.dropStep_same ?_ (Part.sub (by decide) hw)
    | refine State.withLoader_same ?_ (Part.sub (by decide) hw) | refine same_foldl ?_ _ ?_ | apply same_ite
    | apply_assumption | dsimp only | split | intro _ _ _ | intro _ _)

theorem removeJobs_same {w : List Part} {a s : State} {x0} (h : State.SameBut w a s)
    (hw : [.freeCount, .regs, .mem, .hbmStacks, .bells, .loader, .alm, .looms, .sieves, .gates, .pairs, .sram,
      .reeves, .flight, .ferry, .faults, .restarts, .out] ⊆ w) :
    State.SameBut w a (removeJobs x0 s) := by
  fun_induction removeJobs x0 s
  with_reducible repeat' (first
    | exact h | assumption | refine State.removeJob_same ?_ hw | refine same_foldl ?_ _ ?_ | apply same_ite
    | apply_assumption | dsimp only | split | intro _ _ _ | intro _ _)

theorem State.bootFail_same {w : List Part} {a s : State} {x0} (h : State.SameBut w a s)
    (hw : [.regs, .ledger, .out] ⊆ w) :
    State.SameBut w a (State.bootFail s x0) := by
  unfold State.bootFail
  with_reducible repeat' (first
    | exact h | assumption | refine State.ledgerAdd_same ?_ hw | refine State.alert_same ?_ (Part.sub (by decide) hw)
    | refine same_foldl ?_ _ ?_ | apply same_ite | apply_assumption | dsimp only | split | intro _ _ _ | intro _ _)

theorem State.bootComp_same {w : List Part} {a s : State} {x0} (h : State.SameBut w a s)
    (hw : [.board, .regs, .ledger, .wm, .out] ⊆ w) :
    State.SameBut w a (State.bootComp s x0) := by
  unfold State.bootComp
  with_reducible repeat' (first
    | exact h | assumption | refine State.withWm_same ?_ (Part.sub (by decide) hw)
    | refine State.bootFail_same ?_ (Part.sub (by decide) hw)
    | refine State.withBoard_same ?_ (Part.sub (by decide) hw)
    | refine State.setWmState_same ?_ (Part.sub (by decide) hw) | refine same_foldl ?_ _ ?_ | apply same_ite
    | apply_assumption | dsimp only | split | intro _ _ _ | intro _ _)

theorem State.loadOwner_same {w : List Part} {a s : State} {x0 x1} (h : State.SameBut w a s)
    (hw : [.regs] ⊆ w) :
    State.SameBut w a (State.loadOwner s x0 x1) := by
  unfold State.loadOwner
  with_reducible repeat' (first
    | exact h | assumption | refine State.setReg_same ?_ hw | refine same_foldl ?_ _ ?_ | apply same_ite
    | apply_assumption | dsimp only | split | intro _ _ _ | intro _ _)

theorem loadOwners_same {w : List Part} {a s : State} {x0 x1} (h : State.SameBut w a s)
    (hw : [.regs] ⊆ w) :
    State.SameBut w a (loadOwners x0 x1 s) := by
  fun_induction loadOwners x0 x1 s
  with_reducible repeat' (first
    | exact h | assumption | refine State.loadOwner_same ?_ hw | refine same_foldl ?_ _ ?_ | apply same_ite
    | apply_assumption | dsimp only | split | intro _ _ _ | intro _ _)

theorem State.loadKeys_same {w : List Part} {a s : State} (h : State.SameBut w a s)
    (hw : [.regs] ⊆ w) :
    State.SameBut w a (State.loadKeys s) := by
  unfold State.loadKeys
  with_reducible repeat' (first
    | exact h | assumption | refine State.setReg_same ?_ hw | refine same_foldl ?_ _ ?_ | apply same_ite
    | apply_assumption | dsimp only | split | intro _ _ _ | intro _ _)

theorem State.repairExhausted_same {w : List Part} {a s : State} {x0} (h : State.SameBut w a s)
    (hw : [.regs, .out] ⊆ w) :
    State.SameBut w a (State.repairExhausted s x0) := by
  unfold State.repairExhausted
  with_reducible repeat' (first
    | exact h | assumption | refine State.alert_same ?_ hw | refine State.setFld_same ?_ (Part.sub (by decide) hw)
    | refine State.event_same ?_ hw | refine same_foldl ?_ _ ?_ | apply same_ite | apply_assumption | dsimp only
    | split | intro _ _ _ | intro _ _)

theorem State.setSpare_same {w : List Part} {a s : State} {x0 x1 x2} (h : State.SameBut w a s)
    (hw : [.regs] ⊆ w) :
    State.SameBut w a (State.setSpare s x0 x1 x2) := by
  unfold State.setSpare
  with_reducible repeat' (first
    | exact h | assumption | refine State.setReg_same ?_ hw | refine same_foldl ?_ _ ?_ | apply same_ite
    | apply_assumption | dsimp only | split | intro _ _ _ | intro _ _)

theorem hardRepairs_same {w : List Part} {a s : State} {x0} (h : State.SameBut w a s)
    (hw : [.regs, .ledger, .out] ⊆ w) :
    State.SameBut w a (hardRepairs x0 s) := by
  fun_induction hardRepairs x0 s
  with_reducible repeat' (first
    | exact h | assumption | refine State.repairExhausted_same ?_ (Part.sub (by decide) hw)
    | refine State.ledgerAdd_same ?_ hw | refine State.setSpare_same ?_ (Part.sub (by decide) hw)
    | refine same_foldl ?_ _ ?_ | apply same_ite | apply_assumption | dsimp only | split | intro _ _ _ | intro _ _)

theorem State.firmwareRun_same {w : List Part} {a s : State} (h : State.SameBut w a s)
    (hw : [.board, .regs, .ledger, .wm, .out] ⊆ w) :
    State.SameBut w a (State.firmwareRun s) := by
  unfold State.firmwareRun
  with_reducible repeat' (first
    | exact h | assumption | refine State.bootComp_same ?_ hw | refine loadOwners_same ?_ (Part.sub (by decide) hw)
    | refine State.loadKeys_same ?_ (Part.sub (by decide) hw) | refine hardRepairs_same ?_ (Part.sub (by decide) hw)
    | refine same_foldl ?_ _ ?_ | apply same_ite | apply_assumption | dsimp only | split | intro _ _ _ | intro _ _)

theorem State.coldRun_same {w : List Part} {a s : State} (h : State.SameBut w a s)
    (hw : [.board, .regs, .ledger, .wm, .out] ⊆ w) :
    State.SameBut w a (State.coldRun s) := by
  unfold State.coldRun
  with_reducible repeat' (first
    | exact h | assumption | refine State.firmwareRun_same ?_ hw
    | refine State.ledgerAdd_same ?_ (Part.sub (by decide) hw)
    | refine State.withBoard_same ?_ (Part.sub (by decide) hw) | refine same_foldl ?_ _ ?_ | apply same_ite
    | apply_assumption | dsimp only | split | intro _ _ _ | intro _ _)

theorem freeSpares_same {w : List Part} {a s : State} {x0 x1} (h : State.SameBut w a s)
    (hw : [.regs] ⊆ w) :
    State.SameBut w a (freeSpares x0 x1 s) := by
  fun_induction freeSpares x0 x1 s
  with_reducible repeat' (first
    | exact h | assumption | refine State.setSpare_same ?_ hw | refine same_foldl ?_ _ ?_ | apply same_ite
    | apply_assumption | dsimp only | split | intro _ _ _ | intro _ _)

theorem State.loseRepairs_same {w : List Part} {a s : State} (h : State.SameBut w a s)
    (hw : [.regs, .hbmStacks] ⊆ w) :
    State.SameBut w a (State.loseRepairs s) := by
  unfold State.loseRepairs
  with_reducible repeat' (first
    | exact h | assumption | refine State.setStack_same ?_ (Part.sub (by decide) hw)
    | refine freeSpares_same ?_ (Part.sub (by decide) hw) | refine same_foldl ?_ _ ?_ | apply same_ite
    | apply_assumption | dsimp only | split | intro _ _ _ | intro _ _)

theorem State.coldBase_same {w : List Part} {a s : State} {m : SMap Word} (h : State.SameBut w a s) (hw : [.board, .regs, .guards, .latch, .snaps, .mem, .margined, .hbmStacks, .fields, .fieldReqs, .dma, .dmaLost, .ringLost, .bells, .loader, .alm, .cue, .mer, .looms, .sieves, .gates, .pairs, .sram, .reeves, .kats, .flight, .ferry, .power, .faults, .restarts, .wm, .out] ⊆ w) :
    State.SameBut w a (State.coldBase s m) := by
  unfold State.coldBase
  constructor
  all_goals first
    | exact fun x => absurd (hw (by decide)) x
    | exact h.pending | exact h.now | exact h.freeCount | exact h.fuses | exact h.ledger

theorem execIslandRailLoss_same {w : List Part} {a s : State} (h : State.SameBut w a s)
    (hw : [.board, .regs, .guards, .latch, .snaps, .mem, .margined, .hbmStacks, .fields, .fieldReqs, .dma,
      .dmaLost, .ringLost, .bells, .loader, .alm, .cue, .mer, .looms, .sieves, .gates, .pairs, .sram, .reeves, .kats, .flight, .ferry, .power, .faults, .restarts, .ledger, .wm, .out] ⊆ w) :
    SameOut w a (execIslandRailLoss s) := by
  unfold execIslandRailLoss
  with_reducible repeat' (first
    | apply same_next | exact same_fault _ | exact h | assumption
    | refine State.withLedger_same ?_ (Part.sub (by decide) hw)
    | refine State.loseRepairs_same ?_ (Part.sub (by decide) hw)
    | refine State.coldBase_same ?_ (Part.sub (by decide) hw)
    | refine State.withBoard_same ?_ (Part.sub (by decide) hw) | refine same_foldl ?_ _ ?_ | apply sameOut_ite
    | apply same_ite | apply_assumption | dsimp only | split | intro _ _ _ | intro _ _)

theorem State.coldReset_same {w : List Part} {a s : State} (h : State.SameBut w a s)
    (hw : [.board, .regs, .guards, .latch, .snaps, .mem, .margined, .hbmStacks, .fields, .fieldReqs, .dma,
      .dmaLost, .ringLost, .bells, .loader, .alm, .cue, .mer, .looms, .sieves, .gates, .pairs, .sram, .reeves, .kats, .flight, .ferry, .power, .faults, .restarts, .ledger, .wm, .out] ⊆ w) :
    State.SameBut w a (State.coldReset s) := by
  unfold State.coldReset
  with_reducible repeat' (first
    | exact h | assumption | refine State.loseRepairs_same ?_ (Part.sub (by decide) hw)
    | refine State.coldBase_same ?_ (Part.sub (by decide) hw)
    | refine State.setWmState_same ?_ (Part.sub (by decide) hw)
    | refine State.withBoard_same ?_ (Part.sub (by decide) hw)
    | refine State.coldRun_same ?_ (Part.sub (by decide) hw) | refine same_foldl ?_ _ ?_ | apply same_ite
    | apply_assumption | dsimp only | split | intro _ _ _ | intro _ _)

theorem State.configure_same {w : List Part} {a s : State} {x0} (h : State.SameBut w a s)
    (hw : [.board] ⊆ w) :
    State.SameBut w a (State.configure s x0) := by
  unfold State.configure
  with_reducible repeat' (first
    | exact h | assumption | refine State.withBoard_same ?_ hw | refine same_foldl ?_ _ ?_ | apply same_ite
    | apply_assumption | dsimp only | split | intro _ _ _ | intro _ _)

theorem execPerstNRelease_same {w : List Part} {a s : State} (h : State.SameBut w a s)
    (hw : [.board, .regs] ⊆ w) :
    SameOut w a (execPerstNRelease s) := by
  unfold execPerstNRelease
  with_reducible repeat' (first
    | apply same_next | exact same_fault _ | exact h | assumption
    | refine State.withBoard_same ?_ (Part.sub (by decide) hw) | refine State.perstRelease_same ?_ hw
    | refine same_foldl ?_ _ ?_ | apply sameOut_ite | apply same_ite | apply_assumption | dsimp only | split
    | intro _ _ _ | intro _ _)

theorem State.setCause_same {w : List Part} {a s : State} {x0 x1 x2} (h : State.SameBut w a s)
    (hw : [.regs] ⊆ w) :
    State.SameBut w a (State.setCause s x0 x1 x2) := by
  unfold State.setCause
  with_reducible repeat' (first
    | exact h | assumption | refine State.setReg_same ?_ hw | refine same_foldl ?_ _ ?_ | apply same_ite
    | apply_assumption | dsimp only | split | intro _ _ _ | intro _ _)

theorem State.packageWipe_same {w : List Part} {a s : State} {x0} (h : State.SameBut w a s)
    (hw : [.board, .mem, .margined, .hbmStacks, .fields, .fieldReqs, .dma, .dmaLost, .ringLost, .bells,
      .loader, .alm, .cue, .mer, .looms, .sieves, .gates, .pairs, .sram, .reeves, .kats, .flight, .ferry, .power, .faults, .restarts, .out] ⊆ w) :
    State.SameBut w a (State.packageWipe s x0) := by
  unfold State.packageWipe
  constructor
  all_goals first
    | exact fun x => absurd (hw (by decide)) x
    | exact h.pending | exact h.now | exact h.freeCount | exact h.fuses | exact h.regs | exact h.guards | exact h.latch
    | exact h.snaps | exact h.ledger | exact h.wm

theorem State.packageReset_same {w : List Part} {a s : State} {x0 x1 x2} (h : State.SameBut w a s)
    (hw : [.board, .regs, .guards, .latch, .snaps, .mem, .margined, .hbmStacks, .fields, .fieldReqs, .dma,
      .dmaLost, .ringLost, .bells, .loader, .alm, .cue, .mer, .looms, .sieves, .gates, .pairs, .sram, .reeves, .kats, .flight, .ferry, .power, .faults, .restarts, .ledger, .wm, .out] ⊆ w) :
    State.SameBut w a (State.packageReset s x0 x1 x2) := by
  unfold State.packageReset
  with_reducible repeat' (first
    | exact h | assumption | refine State.loseRepairs_same ?_ (Part.sub (by decide) hw)
    | refine State.clearGuards_same ?_ (Part.sub (by decide) hw)
    | refine State.clearRegs_same ?_ (Part.sub (by decide) hw)
    | refine State.setCause_same ?_ (Part.sub (by decide) hw) | refine State.withOut_same ?_ (Part.sub (by decide) hw)
    | refine State.packageWipe_same ?_ (Part.sub (by decide) hw)
    | refine State.bootComp_same ?_ (Part.sub (by decide) hw)
    | refine State.ledgerAdd_same ?_ (Part.sub (by decide) hw) | refine same_foldl ?_ _ ?_ | apply same_ite
    | apply_assumption | dsimp only | split | intro _ _ _ | intro _ _)

theorem execMainOkFall_same {w : List Part} {a s : State} (h : State.SameBut w a s)
    (hw : [.board, .regs, .guards, .latch, .snaps, .mem, .margined, .hbmStacks, .fields, .fieldReqs, .dma,
      .dmaLost, .ringLost, .bells, .loader, .alm, .cue, .mer, .looms, .sieves, .gates, .pairs, .sram, .reeves, .kats, .flight, .ferry, .power, .faults, .restarts, .ledger, .wm, .out] ⊆ w) :
    SameOut w a (execMainOkFall s) := by
  unfold execMainOkFall
  with_reducible repeat' (first
    | apply same_next | exact same_fault _ | exact h | assumption
    | refine State.withBoard_same ?_ (Part.sub (by decide) hw) | refine State.packageReset_same ?_ hw
    | refine same_foldl ?_ _ ?_ | apply sameOut_ite | apply same_ite | apply_assumption | dsimp only | split
    | intro _ _ _ | intro _ _)

theorem execPerstNAssert_same {w : List Part} {a s : State} (h : State.SameBut w a s)
    (hw : [.board, .regs, .guards, .latch, .snaps, .mem, .margined, .hbmStacks, .fields, .fieldReqs, .dma,
      .dmaLost, .ringLost, .bells, .loader, .alm, .cue, .mer, .looms, .sieves, .gates, .pairs, .sram, .reeves, .kats, .flight, .ferry, .power, .faults, .restarts, .ledger, .wm, .out] ⊆ w) :
    SameOut w a (execPerstNAssert s) := by
  unfold execPerstNAssert
  with_reducible repeat' (first
    | apply same_next | exact same_fault _ | exact h | assumption
    | refine State.withBoard_same ?_ (Part.sub (by decide) hw) | refine State.packageReset_same ?_ hw
    | refine same_foldl ?_ _ ?_ | apply sameOut_ite | apply same_ite | apply_assumption | dsimp only | split
    | intro _ _ _ | intro _ _)

theorem execRefclkLoss_same {w : List Part} {a s : State} (h : State.SameBut w a s)
    (hw : [.board, .regs, .ledger, .out] ⊆ w) :
    SameOut w a (execRefclkLoss s) := by
  unfold execRefclkLoss
  with_reducible repeat' (first
    | apply same_next | exact same_fault _ | exact h | assumption | refine State.failSquare_same ?_ hw
    | refine same_foldl ?_ _ ?_ | apply sameOut_ite | apply same_ite | apply_assumption | dsimp only | split
    | intro _ _ _ | intro _ _)

theorem execHostLinkUp_same {w : List Part} {a s : State} {x0 x1 x2 x3} (h : State.SameBut w a s)
    (hw : [.board, .regs] ⊆ w) :
    SameOut w a (execHostLinkUp x0 x1 x2 x3 s) := by
  unfold execHostLinkUp
  with_reducible repeat' (first
    | apply same_next | exact same_fault _ | exact h | assumption
    | refine State.configure_same ?_ (Part.sub (by decide) hw) | refine setLinks_same ?_ (Part.sub (by decide) hw)
    | refine same_foldl ?_ _ ?_ | apply sameOut_ite | apply same_ite | apply_assumption | dsimp only | split
    | intro _ _ _ | intro _ _)

theorem execMainOkRise_same {w : List Part} {a s : State} (h : State.SameBut w a s)
    (hw : [.board, .regs, .guards, .latch, .snaps, .mem, .margined, .hbmStacks, .fields, .fieldReqs, .dma,
      .dmaLost, .ringLost, .bells, .loader, .alm, .cue, .mer, .looms, .sieves, .gates, .pairs, .sram, .reeves, .kats, .flight, .ferry, .power, .faults, .restarts, .ledger, .wm, .out] ⊆ w) :
    SameOut w a (execMainOkRise s) := by
  unfold execMainOkRise
  with_reducible repeat' (first
    | apply same_next | exact same_fault _ | exact h | assumption
    | refine State.withBoard_same ?_ (Part.sub (by decide) hw) | refine State.coldReset_same ?_ hw
    | refine same_foldl ?_ _ ?_ | apply sameOut_ite | apply same_ite | apply_assumption | dsimp only | split
    | intro _ _ _ | intro _ _)

theorem State.functionReset_same {w : List Part} {a s : State} {x0} (h : State.SameBut w a s)
    (hw : [.freeCount, .board, .regs, .guards, .latch, .snaps, .mem, .hbmStacks, .fields, .fieldReqs, .dma,
      .dmaLost, .ringLost, .bells, .loader, .alm, .cue, .looms, .sieves, .gates, .pairs, .sram, .reeves, .flight, .ferry, .faults, .restarts, .ledger, .out] ⊆ w) :
    State.SameBut w a (State.functionReset s x0) := by
  unfold State.functionReset
  with_reducible repeat' (first
    | exact h | assumption | refine removeJobs_same ?_ (Part.sub (by decide) hw)
    | refine closeSessions_same ?_ (Part.sub (by decide) hw)
    | refine State.dropNodesOf_same ?_ (Part.sub (by decide) hw)
    | refine State.withLoader_same ?_ (Part.sub (by decide) hw)
    | refine State.clearGuards_same ?_ (Part.sub (by decide) hw)
    | refine State.clearRegs_same ?_ (Part.sub (by decide) hw)
    | refine State.withRingLost_same ?_ (Part.sub (by decide) hw)
    | refine State.withDmaLost_same ?_ (Part.sub (by decide) hw)
    | refine State.withFieldReqs_same ?_ (Part.sub (by decide) hw)
    | refine State.withDma_same ?_ (Part.sub (by decide) hw)
    | refine State.cueFunctionReset_same ?_ (Part.sub (by decide) hw)
    | refine State.withFields_same ?_ (Part.sub (by decide) hw)
    | refine State.withOut_same ?_ (Part.sub (by decide) hw)
    | refine State.withBoard_same ?_ (Part.sub (by decide) hw)
    | refine State.ledgerAdd_same ?_ (Part.sub (by decide) hw) | refine same_foldl ?_ _ ?_ | apply same_ite
    | apply_assumption | dsimp only | split | intro _ _ _ | intro _ _)

theorem execFunctionLevelReset_same {w : List Part} {a s : State} {x0} (h : State.SameBut w a s)
    (hw : [.freeCount, .board, .regs, .guards, .latch, .snaps, .mem, .hbmStacks, .fields, .fieldReqs, .dma,
      .dmaLost, .ringLost, .bells, .loader, .alm, .cue, .looms, .sieves, .gates, .pairs, .sram, .reeves, .flight, .ferry, .faults, .restarts, .ledger, .out] ⊆ w) :
    SameOut w a (execFunctionLevelReset x0 s) := by
  unfold execFunctionLevelReset
  with_reducible repeat' (first
    | apply same_next | exact same_fault _ | exact h | assumption | refine State.functionReset_same ?_ hw
    | refine same_foldl ?_ _ ?_ | apply sameOut_ite | apply same_ite | apply_assumption | dsimp only | split
    | intro _ _ _ | intro _ _)

theorem execLinkDown_same {w : List Part} {a s : State} (h : State.SameBut w a s)
    (hw : [.board, .regs, .out] ⊆ w) :
    SameOut w a (execLinkDown s) := by
  unfold execLinkDown
  with_reducible repeat' (first
    | apply same_next | exact same_fault _ | exact h | assumption | refine State.linkLost_same ?_ hw
    | refine same_foldl ?_ _ ?_ | apply sameOut_ite | apply same_ite | apply_assumption | dsimp only | split
    | intro _ _ _ | intro _ _)

theorem execIslandPowerOn_same {w : List Part} {a s : State} {x0} (h : State.SameBut w a s)
    (hw : [.board, .regs, .guards, .latch, .snaps, .mem, .margined, .hbmStacks, .fields, .fieldReqs, .dma,
      .dmaLost, .ringLost, .bells, .loader, .alm, .cue, .mer, .looms, .sieves, .gates, .pairs, .sram, .reeves, .kats, .flight, .ferry, .power, .faults, .restarts, .ledger, .wm, .out] ⊆ w) :
    SameOut w a (execIslandPowerOn x0 s) := by
  unfold execIslandPowerOn
  with_reducible repeat' (first
    | apply same_next | exact same_fault _ | exact h | assumption
    | refine State.coldBase_same ?_ (Part.sub (by decide) hw)
    | refine State.bootComp_same ?_ (Part.sub (by decide) hw)
    | refine State.withBoard_same ?_ (Part.sub (by decide) hw)
    | refine State.coldRun_same ?_ (Part.sub (by decide) hw) | refine same_foldl ?_ _ ?_ | apply sameOut_ite
    | apply same_ite | apply_assumption | dsimp only | split | intro _ _ _ | intro _ _)

end Sys2Proof.Machine
end

