-- ==== Sys2Proof/Laws/SameGranaryOps.lean ====
section
/-! SUPPORT. What the definitions of Machine/GranaryOps.lean change (State.SameBut). -/

namespace Sys2Proof.Machine

theorem execGranaryCommandStart_same {w : List Part} {a s : State} {x0 x1} (h : State.SameBut w a s)
    (hw : [.regs, .mem, .hbmStacks, .pairs, .faults, .out] ⊆ w) :
    SameOut w a (execGranaryCommandStart x0 x1 s) := by
  unfold execGranaryCommandStart
  with_reducible repeat' (first
    | apply same_next | exact same_fault _ | exact h | assumption
    | refine State.pairFault_same ?_ (Part.sub (by decide) hw)
    | refine State.setPair_same ?_ (Part.sub (by decide) hw)
    | refine State.wakeStacks_same ?_ (Part.sub (by decide) hw)
    | refine State.wakeSpans_same ?_ (Part.sub (by decide) hw) | refine State.takeParked_same ?_ hw
    | refine same_foldl ?_ _ ?_ | apply sameOut_ite | apply same_ite | apply_assumption | dsimp only | split
    | intro _ _ _ | intro _ _)

theorem State.readFrames_same {w : List Part} {a s : State} {x0} (h : State.SameBut w a s)
    (hw : [.loader] ⊆ w) :
    State.SameBut w a (State.readFrames s x0) := by
  unfold State.readFrames
  with_reducible repeat' (first
    | exact h | assumption | refine State.withLoader_same ?_ hw | refine same_foldl ?_ _ ?_ | apply same_ite
    | apply_assumption | dsimp only | split | intro _ _ _ | intro _ _)

theorem State.gatherRun_same {w : List Part} {a s : State} {x0 x1} (h : State.SameBut w a s)
    (hw : [.regs, .mem, .hbmStacks, .loader, .looms, .pairs, .flight, .ferry, .faults, .out] ⊆ w) :
    State.SameBut w a (State.gatherRun s x0 x1) := by
  unfold State.gatherRun
  with_reducible repeat' (first
    | exact h | assumption | refine State.granRun_same ?_ (Part.sub (by decide) hw)
    | refine State.readFrames_same ?_ (Part.sub (by decide) hw) | refine same_foldl ?_ _ ?_ | apply same_ite
    | apply_assumption | dsimp only | split | intro _ _ _ | intro _ _)

theorem execRedOut_same {w : List Part} {a s : State} {x0 x1} (h : State.SameBut w a s)
    (hw : [.regs, .mem, .hbmStacks, .looms, .pairs, .flight, .ferry, .faults, .out] ⊆ w) :
    SameOut w a (execRedOut x0 x1 s) := by
  unfold execRedOut
  with_reducible repeat' (first
    | apply same_next | exact same_fault _ | exact h | assumption | refine State.granRun_same ?_ hw
    | refine same_foldl ?_ _ ?_ | apply sameOut_ite | apply same_ite | apply_assumption | dsimp only | split
    | intro _ _ _ | intro _ _)

theorem execCrc_same {w : List Part} {a s : State} {x0 x1} (h : State.SameBut w a s)
    (hw : [.regs, .mem, .hbmStacks, .looms, .pairs, .flight, .ferry, .faults, .out] ⊆ w) :
    SameOut w a (execCrc x0 x1 s) := by
  unfold execCrc
  with_reducible repeat' (first
    | apply same_next | exact same_fault _ | exact h | assumption | refine State.granRun_same ?_ hw
    | refine same_foldl ?_ _ ?_ | apply sameOut_ite | apply same_ite | apply_assumption | dsimp only | split
    | intro _ _ _ | intro _ _)

theorem State.patrol_same {w : List Part} {a s : State} {x0} (h : State.SameBut w a s)
    (hw : [.regs, .hbmStacks, .faults, .out] ⊆ w) :
    State.SameBut w a (State.patrol s x0) := by
  unfold State.patrol
  with_reducible repeat' (first
    | exact h | assumption | refine wake_same ?_ (Part.sub (by decide) hw)
    | refine State.setStack_same ?_ (Part.sub (by decide) hw)
    | refine State.healSector_same ?_ (Part.sub (by decide) hw) | refine ueEvents_same ?_ (Part.sub (by decide) hw) ?_
    | refine ceEvents_same ?_ (Part.sub (by decide) hw) | refine State.event_same ?_ (Part.sub (by decide) hw)
    | refine State.bump_same ?_ (Part.sub (by decide) hw) | refine same_foldl ?_ _ ?_ | apply same_ite
    | apply_assumption | dsimp only | split | intro _ _ _ | intro _ _)

theorem State.scrubRange_same {w : List Part} {a s : State} {x0 x1 x2} (h : State.SameBut w a s)
    (hw : [.regs, .hbmStacks, .faults, .out] ⊆ w) :
    State.SameBut w a (State.scrubRange s x0 x1 x2) := by
  unfold State.scrubRange
  with_reducible repeat' (first
    | exact h | assumption | refine State.healSector_same ?_ (Part.sub (by decide) hw)
    | refine ueEvents_same ?_ (Part.sub (by decide) hw) ?_ | refine ceEvents_same ?_ (Part.sub (by decide) hw)
    | refine same_foldl ?_ _ ?_ | apply same_ite | apply_assumption | dsimp only | split | intro _ _ _ | intro _ _)

theorem execScrub_same {w : List Part} {a s : State} {x0 x1} (h : State.SameBut w a s)
    (hw : [.regs, .hbmStacks, .pairs, .faults, .out] ⊆ w) :
    SameOut w a (execScrub x0 x1 s) := by
  unfold execScrub
  with_reducible repeat' (first
    | apply same_next | exact same_fault _ | exact h | assumption
    | refine State.setRunning_same ?_ (Part.sub (by decide) hw)
    | refine State.patrol_same ?_ (Part.sub (by decide) hw)
    | refine State.scrubRange_same ?_ (Part.sub (by decide) hw)
    | refine State.wakeStacks_same ?_ (Part.sub (by decide) hw) | refine same_foldl ?_ _ ?_ | apply sameOut_ite
    | apply same_ite | apply_assumption | dsimp only | split | intro _ _ _ | intro _ _)

theorem execRedEmax_same {w : List Part} {a s : State} {x0 x1} (h : State.SameBut w a s)
    (hw : [.regs, .mem, .hbmStacks, .looms, .pairs, .flight, .ferry, .faults, .out] ⊆ w) :
    SameOut w a (execRedEmax x0 x1 s) := by
  unfold execRedEmax
  with_reducible repeat' (first
    | apply same_next | exact same_fault _ | exact h | assumption | refine State.granRun_same ?_ hw
    | refine same_foldl ?_ _ ?_ | apply sameOut_ite | apply same_ite | apply_assumption | dsimp only | split
    | intro _ _ _ | intro _ _)

theorem execRedExp_same {w : List Part} {a s : State} {x0 x1} (h : State.SameBut w a s)
    (hw : [.regs, .mem, .hbmStacks, .looms, .pairs, .flight, .ferry, .faults, .out] ⊆ w) :
    SameOut w a (execRedExp x0 x1 s) := by
  unfold execRedExp
  with_reducible repeat' (first
    | apply same_next | exact same_fault _ | exact h | assumption | refine State.granRun_same ?_ hw
    | refine same_foldl ?_ _ ?_ | apply sameOut_ite | apply same_ite | apply_assumption | dsimp only | split
    | intro _ _ _ | intro _ _)

theorem execRedCheck_same {w : List Part} {a s : State} {x0 x1} (h : State.SameBut w a s)
    (hw : [.regs, .mem, .hbmStacks, .looms, .pairs, .flight, .ferry, .faults, .out] ⊆ w) :
    SameOut w a (execRedCheck x0 x1 s) := by
  unfold execRedCheck
  with_reducible repeat' (first
    | apply same_next | exact same_fault _ | exact h | assumption | refine State.granRun_same ?_ hw
    | refine same_foldl ?_ _ ?_ | apply sameOut_ite | apply same_ite | apply_assumption | dsimp only | split
    | intro _ _ _ | intro _ _)

theorem execGather_same {w : List Part} {a s : State} {x0 x1} (h : State.SameBut w a s)
    (hw : [.regs, .mem, .hbmStacks, .loader, .looms, .pairs, .flight, .ferry, .faults, .out] ⊆ w) :
    SameOut w a (execGather x0 x1 s) := by
  unfold execGather
  with_reducible repeat' (first
    | apply same_next | exact same_fault _ | exact h | assumption | refine State.gatherRun_same ?_ hw
    | refine same_foldl ?_ _ ?_ | apply sameOut_ite | apply same_ite | apply_assumption | dsimp only | split
    | intro _ _ _ | intro _ _)

theorem execTreeAdd_same {w : List Part} {a s : State} {x0 x1} (h : State.SameBut w a s)
    (hw : [.regs, .mem, .hbmStacks, .looms, .pairs, .flight, .ferry, .faults, .out] ⊆ w) :
    SameOut w a (execTreeAdd x0 x1 s) := by
  unfold execTreeAdd
  with_reducible repeat' (first
    | apply same_next | exact same_fault _ | exact h | assumption | refine State.granRun_same ?_ hw
    | refine same_foldl ?_ _ ?_ | apply sameOut_ite | apply same_ite | apply_assumption | dsimp only | split
    | intro _ _ _ | intro _ _)

theorem execRedFix_same {w : List Part} {a s : State} {x0 x1} (h : State.SameBut w a s)
    (hw : [.regs, .mem, .hbmStacks, .looms, .pairs, .flight, .ferry, .faults, .out] ⊆ w) :
    SameOut w a (execRedFix x0 x1 s) := by
  unfold execRedFix
  with_reducible repeat' (first
    | apply same_next | exact same_fault _ | exact h | assumption | refine State.granRun_same ?_ hw
    | refine same_foldl ?_ _ ?_ | apply sameOut_ite | apply same_ite | apply_assumption | dsimp only | split
    | intro _ _ _ | intro _ _)

theorem execRedAdd_same {w : List Part} {a s : State} {x0 x1} (h : State.SameBut w a s)
    (hw : [.regs, .mem, .hbmStacks, .looms, .pairs, .flight, .ferry, .faults, .out] ⊆ w) :
    SameOut w a (execRedAdd x0 x1 s) := by
  unfold execRedAdd
  with_reducible repeat' (first
    | apply same_next | exact same_fault _ | exact h | assumption | refine State.granRun_same ?_ hw
    | refine same_foldl ?_ _ ?_ | apply sameOut_ite | apply same_ite | apply_assumption | dsimp only | split
    | intro _ _ _ | intro _ _)

theorem execOptAdamw_same {w : List Part} {a s : State} {x0 x1} (h : State.SameBut w a s)
    (hw : [.regs, .mem, .hbmStacks, .looms, .pairs, .flight, .ferry, .faults, .out] ⊆ w) :
    SameOut w a (execOptAdamw x0 x1 s) := by
  unfold execOptAdamw
  with_reducible repeat' (first
    | apply same_next | exact same_fault _ | exact h | assumption | refine State.granRun_same ?_ hw
    | refine same_foldl ?_ _ ?_ | apply sameOut_ite | apply same_ite | apply_assumption | dsimp only | split
    | intro _ _ _ | intro _ _)

end Sys2Proof.Machine
end

