-- ==== Sys2Proof/Laws/SameMemory.lean ====
section
/-! SUPPORT. What the definitions of Machine/Memory.lean change (State.SameBut). -/

namespace Sys2Proof.Machine

theorem execPatrolScrub_same {w : List Part} {a s : State} {x0} (h : State.SameBut w a s)
    (hw : [.pairs] ⊆ w) :
    SameOut w a (execPatrolScrub x0 s) := by
  unfold execPatrolScrub
  with_reducible repeat' (first
    | apply same_next | exact same_fault _ | exact h | assumption | refine State.setPair_same ?_ hw
    | refine same_foldl ?_ _ ?_ | apply sameOut_ite | apply same_ite | apply_assumption | dsimp only | split
    | intro _ _ _ | intro _ _)

theorem State.fieldMiss_same {w : List Part} {a s : State} {x0} (h : State.SameBut w a s)
    (hw : [.regs] ⊆ w) :
    State.SameBut w a (State.fieldMiss s x0) := by
  unfold State.fieldMiss
  with_reducible repeat' (first
    | exact h | assumption | refine State.bumpSat_same ?_ hw | refine same_foldl ?_ _ ?_ | apply same_ite
    | apply_assumption | dsimp only | split | intro _ _ _ | intro _ _)

theorem State.hostRead_same {w : List Part} {a s : State} {x0 x1 x2} (h : State.SameBut w a s)
    (hw : [.freeCount, .regs, .hbmStacks, .faults, .out] ⊆ w) :
    State.SameBut w a (State.hostRead s x0 x1 x2).2 := State.eccRead_same
  (State.withFreeCount_same (State.wakeSpans_same h (Part.sub (by decide) hw)) (Part.sub (by decide) hw)) (Part.sub (by decide) hw) (hx0 := fun _ _ k => k)

theorem State.hostWrite_same {w : List Part} {a s : State} {x0 x1 x2} (h : State.SameBut w a s)
    (hw : [.regs, .mem, .hbmStacks, .faults, .out] ⊆ w) :
    State.SameBut w a (State.hostWrite s x0 x1 x2) := by
  unfold State.hostWrite
  with_reducible repeat' (first
    | exact h | assumption | refine State.storeAll_same ?_ hw ?_
    | refine State.wakeSpans_same ?_ (Part.sub (by decide) hw) | refine same_foldl ?_ _ ?_ | apply same_ite
    | apply_assumption | dsimp only | split | intro _ _ _ | intro _ _)

theorem State.dmaMove_same {w : List Part} {a s : State} {x0 x1 x2} (h : State.SameBut w a s)
    (hw : [.freeCount, .regs, .mem, .hbmStacks, .faults, .out] ⊆ w) :
    ∀ x y t, State.dmaMove s x0 x1 x2 = (x, y, t) → State.SameBut w a t := by
  intro x y t e
  have : t = (s.dmaMove x0 x1 x2).2.2 := by rw [e]
  subst this
  unfold State.dmaMove
  with_reducible repeat' (first
    | assumption | refine State.withOut_same ?_ (Part.sub (by decide) hw) | refine State.hostRead_same ?_ (Part.sub (by decide) hw) | refine State.hostWrite_same ?_ (Part.sub (by decide) hw)
    | refine State.fieldMiss_same ?_ (Part.sub (by decide) hw) | dsimp only | split)

theorem State.marginStart_same {w : List Part} {a s : State} {x0} (h : State.SameBut w a s)
    (hw : [.regs, .hbmStacks] ⊆ w) :
    State.SameBut w a (State.marginStart s x0) := by
  unfold State.marginStart
  with_reducible repeat' (first
    | exact h | assumption | refine State.setStack_same ?_ (Part.sub (by decide) hw)
    | refine State.setReg_same ?_ (Part.sub (by decide) hw) | refine State.setFld_same ?_ (Part.sub (by decide) hw)
    | refine same_foldl ?_ _ ?_ | apply same_ite | apply_assumption | dsimp only | split | intro _ _ _ | intro _ _)

theorem State.dmaDoorbell_same {w : List Part} {a s : State} {x0 x1 x2} (h : State.SameBut w a s)
    (hw : [.regs] ⊆ w) :
    State.SameBut w a (State.dmaDoorbell s x0 x1 x2) := by
  unfold State.dmaDoorbell
  with_reducible repeat' (first
    | exact h | assumption | refine State.setFld_same ?_ hw | refine same_foldl ?_ _ ?_ | apply same_ite
    | apply_assumption | dsimp only | split | intro _ _ _ | intro _ _)

theorem State.dmaChanged_same {w : List Part} {a s : State} {x0 x1 x2} (h : State.SameBut w a s)
    (hw : [.regs, .dmaLost] ⊆ w) :
    State.SameBut w a (State.dmaChanged s x0 x1 x2) := by
  unfold State.dmaChanged
  with_reducible repeat' (first
    | exact h | assumption | refine State.withDmaLost_same ?_ (Part.sub (by decide) hw)
    | refine State.setFld_same ?_ (Part.sub (by decide) hw) | refine same_foldl ?_ _ ?_ | apply same_ite
    | apply_assumption | dsimp only | split | intro _ _ _ | intro _ _)

theorem State.fieldCmd_same {w : List Part} {a s : State} {x0 x1} (h : State.SameBut w a s)
    (hw : [.regs, .fieldReqs] ⊆ w) :
    State.SameBut w a (State.fieldCmd s x0 x1) := by
  unfold State.fieldCmd
  with_reducible repeat' (first
    | exact h | assumption | refine State.setFld_same ?_ (Part.sub (by decide) hw)
    | refine State.withFieldReqs_same ?_ (Part.sub (by decide) hw) | refine same_foldl ?_ _ ?_ | apply same_ite
    | apply_assumption | dsimp only | split | intro _ _ _ | intro _ _)

theorem State.setDma_same {w : List Part} {a s : State} {x0 x1 x2} (h : State.SameBut w a s)
    (hw : [.dma] ⊆ w) :
    State.SameBut w a (State.setDma s x0 x1 x2) := by
  unfold State.setDma
  with_reducible repeat' (first
    | exact h | assumption | refine State.withDma_same ?_ hw | refine same_foldl ?_ _ ?_ | apply same_ite
    | apply_assumption | dsimp only | split | intro _ _ _ | intro _ _)

theorem execDmaComplete_same {w : List Part} {a s : State} {x0 x1} (h : State.SameBut w a s)
    (hw : [.regs, .dma, .out] ⊆ w) :
    SameOut w a (execDmaComplete x0 x1 s) := by
  unfold execDmaComplete
  with_reducible repeat' (first
    | apply same_next | exact same_fault _ | exact h | assumption
    | refine State.setDma_same ?_ (Part.sub (by decide) hw) | refine State.withOut_same ?_ (Part.sub (by decide) hw)
    | refine State.dropMsg_same ?_ (Part.sub (by decide) hw) | refine State.setFld_same ?_ (Part.sub (by decide) hw)
    | refine State.msix_same ?_ (Part.sub (by decide) hw) | refine State.event_same ?_ (Part.sub (by decide) hw)
    | refine same_foldl ?_ _ ?_ | apply sameOut_ite | apply same_ite | apply_assumption | dsimp only | split
    | intro _ _ _ | intro _ _)

theorem execHbmMarginDone_same {w : List Part} {a s : State} {x0} (h : State.SameBut w a s)
    (hw : [.freeCount, .regs, .margined, .hbmStacks] ⊆ w) :
    SameOut w a (execHbmMarginDone x0 s) := by
  unfold execHbmMarginDone
  with_reducible repeat' (first
    | apply same_next | exact same_fault _ | exact h | assumption
    | refine same_snd (by assumption) (State.openValue_same ?_ (Part.sub (by decide) hw))
    | refine State.openValue_same ?_ (Part.sub (by decide) hw)
    | refine State.setStack_same ?_ (Part.sub (by decide) hw)
    | refine State.withMargined_same ?_ (Part.sub (by decide) hw)
    | refine State.setFld_same ?_ (Part.sub (by decide) hw) | refine same_foldl ?_ _ ?_ | apply sameOut_ite
    | apply same_ite | apply_assumption | dsimp only | split | intro _ _ _ | intro _ _)

theorem execBar2Write_same {w : List Part} {a s : State} {x0 x1 x2} (h : State.SameBut w a s)
    (hw : [.regs, .mem, .hbmStacks, .faults, .out] ⊆ w) :
    SameOut w a (execBar2Write x0 x1 x2 s) := by
  unfold execBar2Write
  with_reducible repeat' (first
    | apply same_next | exact same_fault _ | exact h | assumption | refine State.hostWrite_same ?_ hw
    | refine State.fieldMiss_same ?_ (Part.sub (by decide) hw) | refine same_foldl ?_ _ ?_ | apply sameOut_ite
    | apply same_ite | apply_assumption | dsimp only | split | intro _ _ _ | intro _ _)

theorem State.repairRow_same {w : List Part} {a s : State} {x0 x1 x2} (h : State.SameBut w a s)
    (hw : [.regs, .hbmStacks, .faults, .ledger, .out] ⊆ w) :
    State.SameBut w a (State.repairRow s x0 x1 x2) := by
  unfold State.repairRow
  with_reducible repeat' (first
    | exact h | assumption | refine State.scrubRange_same ?_ (Part.sub (by decide) hw)
    | refine wake_same ?_ (Part.sub (by decide) hw) | refine State.setStack_same ?_ (Part.sub (by decide) hw)
    | refine State.setSpare_same ?_ (Part.sub (by decide) hw)
    | refine State.ledgerAdd_same ?_ (Part.sub (by decide) hw) | refine State.event_same ?_ (Part.sub (by decide) hw)
    | refine State.bump_same ?_ (Part.sub (by decide) hw) | refine same_foldl ?_ _ ?_ | apply same_ite
    | apply_assumption | dsimp only | split | intro _ _ _ | intro _ _)

theorem execBar2Read_same {w : List Part} {a s : State} {x0 x1 x2} (h : State.SameBut w a s)
    (hw : [.freeCount, .regs, .hbmStacks, .faults, .out] ⊆ w) :
    SameOut w a (execBar2Read x0 x1 x2 s) := by
  unfold execBar2Read
  with_reducible repeat' (first
    | apply same_next | exact same_fault _ | exact h | assumption
    | refine State.respond_same ?_ (Part.sub (by decide) hw)
    | refine same_snd (by assumption) (State.hostRead_same ?_ hw) | refine State.hostRead_same ?_ hw
    | refine State.fieldMiss_same ?_ (Part.sub (by decide) hw) | refine same_foldl ?_ _ ?_ | apply sameOut_ite
    | apply same_ite | apply_assumption | dsimp only | split | intro _ _ _ | intro _ _)

theorem execFieldCmdComplete_same {w : List Part} {a s : State} {x0} (h : State.SameBut w a s)
    (hw : [.regs, .fields, .fieldReqs] ⊆ w) :
    SameOut w a (execFieldCmdComplete x0 s) := by
  unfold execFieldCmdComplete
  with_reducible repeat' (first
    | apply same_next | exact same_fault _ | exact h | assumption
    | refine State.withFieldReqs_same ?_ (Part.sub (by decide) hw)
    | refine State.setFld_same ?_ (Part.sub (by decide) hw)
    | refine State.withFields_same ?_ (Part.sub (by decide) hw) | refine same_foldl ?_ _ ?_ | apply sameOut_ite
    | apply same_ite | apply_assumption | dsimp only | split | intro _ _ _ | intro _ _)

theorem execSoftRepair_same {w : List Part} {a s : State} {x0 x1 x2} (h : State.SameBut w a s)
    (hw : [.regs, .hbmStacks, .faults, .ledger, .out] ⊆ w) :
    SameOut w a (execSoftRepair x0 x1 x2 s) := by
  unfold execSoftRepair
  with_reducible repeat' (first
    | apply same_next | exact same_fault _ | exact h | assumption
    | refine State.repairExhausted_same ?_ (Part.sub (by decide) hw) | refine State.repairRow_same ?_ hw
    | refine same_foldl ?_ _ ?_ | apply sameOut_ite | apply same_ite | apply_assumption | dsimp only | split
    | intro _ _ _ | intro _ _)

theorem execDmaDescriptor_same {w : List Part} {a s : State} {x0 x1 x2 x3} (h : State.SameBut w a s)
    (hw : [.freeCount, .regs, .mem, .hbmStacks, .dma, .faults, .out] ⊆ w) :
    SameOut w a (execDmaDescriptor x0 x1 x2 x3 s) := by
  unfold execDmaDescriptor
  with_reducible repeat' (first
    | apply same_next | exact same_fault _ | exact h | assumption
    | refine State.dmaMove_same ?_ (Part.sub (by decide) hw) _ _ _ (by assumption)
    | refine State.dmaMove_same ?_ (Part.sub (by decide) hw) _ _ _ rfl
    | refine State.setDma_same ?_ (Part.sub (by decide) hw) | refine same_foldl ?_ _ ?_ | apply sameOut_ite
    | apply same_ite | apply_assumption | dsimp only | split | intro _ _ _ | intro _ _)

end Sys2Proof.Machine
end

