-- ==== Sys2Proof/Laws/SameMeridian.lean ====
section
/-! SUPPORT. What the definitions of Machine/Meridian.lean change (State.SameBut). -/

namespace Sys2Proof.Machine

theorem State.setMerState_same {w : List Part} {a s : State} {x0} (h : State.SameBut w a s)
    (hw : [.regs] ⊆ w) :
    State.SameBut w a (State.setMerState s x0) := by
  unfold State.setMerState
  with_reducible repeat' (first
    | exact h | assumption | refine State.setFld_same ?_ hw | refine same_foldl ?_ _ ?_ | apply same_ite
    | apply_assumption | dsimp only | split | intro _ _ _ | intro _ _)

theorem State.merTransit_same {w : List Part} {a s : State} {x0} (h : State.SameBut w a s)
    (hw : [.mer] ⊆ w) :
    State.SameBut w a (State.merTransit s x0) := by
  unfold State.merTransit
  with_reducible repeat' (first
    | exact h | assumption | refine State.withMer_same ?_ hw | refine same_foldl ?_ _ ?_ | apply same_ite
    | apply_assumption | dsimp only | split | intro _ _ _ | intro _ _)

theorem State.setSource_same {w : List Part} {a s : State} {x0} (h : State.SameBut w a s)
    (hw : [.regs, .mer] ⊆ w) :
    State.SameBut w a (State.setSource s x0) := by
  unfold State.setSource
  with_reducible repeat' (first
    | exact h | assumption | refine State.setFld_same ?_ (Part.sub (by decide) hw)
    | refine State.merTransit_same ?_ (Part.sub (by decide) hw)
    | refine State.withMer_same ?_ (Part.sub (by decide) hw)
    | refine State.setMerState_same ?_ (Part.sub (by decide) hw) | refine same_foldl ?_ _ ?_ | apply same_ite
    | apply_assumption | dsimp only | split | intro _ _ _ | intro _ _)

theorem State.newFormat_same {w : List Part} {a s : State} {x0} (h : State.SameBut w a s)
    (hw : [.regs, .mer, .out] ⊆ w) :
    State.SameBut w a (State.newFormat s x0) := by
  unfold State.newFormat
  with_reducible repeat' (first
    | exact h | assumption | refine State.setMerState_same ?_ (Part.sub (by decide) hw)
    | refine State.merTransit_same ?_ (Part.sub (by decide) hw)
    | refine State.withMer_same ?_ (Part.sub (by decide) hw) | refine State.event_same ?_ (Part.sub (by decide) hw)
    | refine same_foldl ?_ _ ?_ | apply same_ite | apply_assumption | dsimp only | split | intro _ _ _ | intro _ _)

theorem State.setRate_same {w : List Part} {a s : State} {x0 x1} (h : State.SameBut w a s)
    (hw : [.regs, .mer, .out] ⊆ w) :
    State.SameBut w a (State.setRate s x0 x1) := by
  unfold State.setRate
  with_reducible repeat' (first
    | exact h | assumption | refine State.newFormat_same ?_ hw | refine State.setFld_same ?_ (Part.sub (by decide) hw)
    | refine same_foldl ?_ _ ?_ | apply same_ite | apply_assumption | dsimp only | split | intro _ _ _ | intro _ _)

theorem State.setLines_same {w : List Part} {a s : State} {x0} (h : State.SameBut w a s)
    (hw : [.regs, .mer, .out] ⊆ w) :
    State.SameBut w a (State.setLines s x0) := by
  unfold State.setLines
  with_reducible repeat' (first
    | exact h | assumption | refine State.newFormat_same ?_ hw | refine State.setFld_same ?_ (Part.sub (by decide) hw)
    | refine same_foldl ?_ _ ?_ | apply same_ite | apply_assumption | dsimp only | split | intro _ _ _ | intro _ _)

theorem State.armFrame_same {w : List Part} {a s : State} (h : State.SameBut w a s)
    (hw : [.mer] ⊆ w) :
    State.SameBut w a (State.armFrame s) := by
  unfold State.armFrame
  with_reducible repeat' (first
    | exact h | assumption | refine State.withMer_same ?_ hw | refine same_foldl ?_ _ ?_ | apply same_ite
    | apply_assumption | dsimp only | split | intro _ _ _ | intro _ _)

theorem State.setTransit_same {w : List Part} {a s : State} (h : State.SameBut w a s)
    (hw : [.mer] ⊆ w) :
    State.SameBut w a (State.setTransit s) := by
  unfold State.setTransit
  with_reducible repeat' (first
    | exact h | assumption | refine State.merTransit_same ?_ hw | refine same_foldl ?_ _ ?_ | apply same_ite
    | apply_assumption | dsimp only | split | intro _ _ _ | intro _ _)

theorem State.merLost_same {w : List Part} {a s : State} {x0} (h : State.SameBut w a s)
    (hw : [.now, .freeCount, .regs, .mem, .hbmStacks, .bells, .loader, .alm, .cue, .mer, .looms, .sieves,
      .gates, .pairs, .sram, .reeves, .flight, .ferry, .faults, .restarts, .ledger, .out] ⊆ w) :
    State.SameBut w a (State.merLost s x0) := by
  unfold State.merLost
  with_reducible repeat' (first
    | exact h | assumption | refine State.setMerState_same ?_ (Part.sub (by decide) hw)
    | refine State.fault_same ?_ (Part.sub (by decide) hw) | refine State.merRebase_same ?_ (Part.sub (by decide) hw)
    | refine State.withMer_same ?_ (Part.sub (by decide) hw) | refine withdrawJobs_same ?_ (Part.sub (by decide) hw)
    | refine same_foldl ?_ _ ?_ | apply same_ite | apply_assumption | dsimp only | split | intro _ _ _ | intro _ _)

theorem State.loseReference_same {w : List Part} {a s : State} (h : State.SameBut w a s)
    (hw : [.now, .freeCount, .regs, .mem, .hbmStacks, .bells, .loader, .alm, .cue, .mer, .looms, .sieves,
      .gates, .pairs, .sram, .reeves, .flight, .ferry, .faults, .restarts, .ledger, .out] ⊆ w) :
    State.SameBut w a (State.loseReference s) := by
  unfold State.loseReference
  with_reducible repeat' (first
    | exact h | assumption | refine State.event_same ?_ (Part.sub (by decide) hw)
    | refine State.merRebase_same ?_ (Part.sub (by decide) hw)
    | refine State.setMerState_same ?_ (Part.sub (by decide) hw)
    | refine State.withMer_same ?_ (Part.sub (by decide) hw) | refine State.merLost_same ?_ hw
    | refine same_foldl ?_ _ ?_ | apply same_ite | apply_assumption | dsimp only | split | intro _ _ _ | intro _ _)

theorem State.domainSet_same {w : List Part} {a s : State} (h : State.SameBut w a s)
    (hw : [.now, .freeCount, .regs, .mem, .hbmStacks, .bells, .loader, .alm, .cue, .mer, .looms, .sieves,
      .gates, .pairs, .sram, .reeves, .flight, .ferry, .faults, .restarts, .ledger, .out] ⊆ w) :
    State.SameBut w a (State.domainSet s) := by
  unfold State.domainSet
  with_reducible repeat' (first
    | exact h | assumption | refine State.loseReference_same ?_ hw | refine same_foldl ?_ _ ?_ | apply same_ite
    | apply_assumption | dsimp only | split | intro _ _ _ | intro _ _)

theorem execAnnounce_same {w : List Part} {a s : State} {x0} (h : State.SameBut w a s)
    (hw : [.mer] ⊆ w) :
    SameOut w a (execAnnounce x0 s) := by
  unfold execAnnounce
  with_reducible repeat' (first
    | apply same_next | exact same_fault _ | exact h | assumption | refine State.withMer_same ?_ hw
    | refine same_foldl ?_ _ ?_ | apply sameOut_ite | apply same_ite | apply_assumption | dsimp only | split
    | intro _ _ _ | intro _ _)

theorem State.sendDelayReq_same {w : List Part} {a s : State} {x0 x1} (h : State.SameBut w a s)
    (hw : [.mer, .out] ⊆ w) :
    State.SameBut w a (State.sendDelayReq s x0 x1) := by
  unfold State.sendDelayReq
  with_reducible repeat' (first
    | exact h | assumption | refine State.withMer_same ?_ (Part.sub (by decide) hw)
    | refine State.withOut_same ?_ (Part.sub (by decide) hw) | refine same_foldl ?_ _ ?_ | apply same_ite
    | apply_assumption | dsimp only | split | intro _ _ _ | intro _ _)

theorem State.merReturn_same {w : List Part} {a s : State} (h : State.SameBut w a s)
    (hw : [.regs, .mer] ⊆ w) :
    State.SameBut w a (State.merReturn s) := by
  unfold State.merReturn
  with_reducible repeat' (first
    | exact h | assumption | refine State.merRebase_same ?_ (Part.sub (by decide) hw)
    | refine State.withMer_same ?_ (Part.sub (by decide) hw)
    | refine State.setMerState_same ?_ (Part.sub (by decide) hw) | refine same_foldl ?_ _ ?_ | apply same_ite
    | apply_assumption | dsimp only | split | intro _ _ _ | intro _ _)

theorem State.measureFreq_same {w : List Part} {a s : State} {x0 x1} (h : State.SameBut w a s)
    (hw : [.mer] ⊆ w) :
    State.SameBut w a (State.measureFreq s x0 x1) := by
  unfold State.measureFreq
  with_reducible repeat' (first
    | exact h | assumption | refine State.withMer_same ?_ hw | refine same_foldl ?_ _ ?_ | apply same_ite
    | apply_assumption | dsimp only | split | intro _ _ _ | intro _ _)

theorem State.correct_same {w : List Part} {a s : State} {x0 x1 x2 x3} (h : State.SameBut w a s)
    (hw : [.regs, .mer, .out] ⊆ w) :
    State.SameBut w a (State.correct s x0 x1 x2 x3) := by
  unfold State.correct
  with_reducible repeat' (first
    | exact h | assumption | refine State.setFld_same ?_ (Part.sub (by decide) hw)
    | refine State.event_same ?_ (Part.sub (by decide) hw) | refine State.withMer_same ?_ (Part.sub (by decide) hw)
    | refine same_foldl ?_ _ ?_ | apply same_ite | apply_assumption | dsimp only | split | intro _ _ _ | intro _ _)

theorem State.countLock_same {w : List Part} {a s : State} {x0 x1} (h : State.SameBut w a s)
    (hw : [.regs, .mer, .out] ⊆ w) :
    State.SameBut w a (State.countLock s x0 x1) := by
  unfold State.countLock
  with_reducible repeat' (first
    | exact h | assumption | refine State.withMer_same ?_ (Part.sub (by decide) hw)
    | refine State.event_same ?_ (Part.sub (by decide) hw)
    | refine State.setMerState_same ?_ (Part.sub (by decide) hw) | refine same_foldl ?_ _ ?_ | apply same_ite
    | apply_assumption | dsimp only | split | intro _ _ _ | intro _ _)

theorem State.ptpMeasure_same {w : List Part} {a s : State} {x0 x1} (h : State.SameBut w a s)
    (hw : [.regs, .mer, .out] ⊆ w) :
    State.SameBut w a (State.ptpMeasure s x0 x1) := by
  unfold State.ptpMeasure
  with_reducible repeat' (first
    | exact h | assumption | refine State.merReturn_same ?_ (Part.sub (by decide) hw)
    | refine State.measureFreq_same ?_ (Part.sub (by decide) hw) | refine State.correct_same ?_ hw
    | refine State.countLock_same ?_ hw | refine same_foldl ?_ _ ?_ | apply same_ite | apply_assumption | dsimp only
    | split | intro _ _ _ | intro _ _)

theorem execPtpSync_same {w : List Part} {a s : State} {x0} (h : State.SameBut w a s)
    (hw : [.regs, .mer, .out] ⊆ w) :
    SameOut w a (execPtpSync x0 s) := by
  unfold execPtpSync
  with_reducible repeat' (first
    | apply same_next | exact same_fault _ | exact h | assumption
    | refine State.withMer_same ?_ (Part.sub (by decide) hw)
    | refine State.sendDelayReq_same ?_ (Part.sub (by decide) hw) | refine State.ptpMeasure_same ?_ hw
    | refine same_foldl ?_ _ ?_ | apply sameOut_ite | apply same_ite | apply_assumption | dsimp only | split
    | intro _ _ _ | intro _ _)

theorem State.losePulse_same {w : List Part} {a s : State} (h : State.SameBut w a s)
    (hw : [.now, .freeCount, .regs, .mem, .hbmStacks, .bells, .loader, .alm, .cue, .mer, .looms, .sieves,
      .gates, .pairs, .sram, .reeves, .flight, .ferry, .faults, .restarts, .ledger, .out] ⊆ w) :
    State.SameBut w a (State.losePulse s) := by
  unfold State.losePulse
  with_reducible repeat' (first
    | exact h | assumption | refine State.loseReference_same ?_ hw
    | refine State.withMer_same ?_ (Part.sub (by decide) hw) | refine same_foldl ?_ _ ?_ | apply same_ite
    | apply_assumption | dsimp only | split | intro _ _ _ | intro _ _)

theorem execFrameRefMissing_same {w : List Part} {a s : State} (h : State.SameBut w a s)
    (hw : [.now, .freeCount, .regs, .mem, .hbmStacks, .bells, .loader, .alm, .cue, .mer, .looms, .sieves,
      .gates, .pairs, .sram, .reeves, .flight, .ferry, .faults, .restarts, .ledger, .out] ⊆ w) :
    SameOut w a (execFrameRefMissing s) := by
  unfold execFrameRefMissing
  with_reducible repeat' (first
    | apply same_next | exact same_fault _ | exact h | assumption | refine State.losePulse_same ?_ hw
    | refine State.passTo_same ?_ (Part.sub (by decide) hw) | refine same_foldl ?_ _ ?_ | apply sameOut_ite
    | apply same_ite | apply_assumption | dsimp only | split | intro _ _ _ | intro _ _)

theorem execHoldoverLimit_same {w : List Part} {a s : State} (h : State.SameBut w a s)
    (hw : [.now, .freeCount, .regs, .mem, .hbmStacks, .bells, .loader, .alm, .cue, .mer, .looms, .sieves,
      .gates, .pairs, .sram, .reeves, .flight, .ferry, .faults, .restarts, .ledger, .out] ⊆ w) :
    SameOut w a (execHoldoverLimit s) := by
  unfold execHoldoverLimit
  with_reducible repeat' (first
    | apply same_next | exact same_fault _ | exact h | assumption | refine State.merLost_same ?_ hw
    | refine State.passTo_same ?_ (Part.sub (by decide) hw) | refine same_foldl ?_ _ ?_ | apply sameOut_ite
    | apply same_ite | apply_assumption | dsimp only | split | intro _ _ _ | intro _ _)

theorem State.countEdge_same {w : List Part} {a s : State} {x0} (h : State.SameBut w a s)
    (hw : [.regs, .mer, .out] ⊆ w) :
    State.SameBut w a (State.countEdge s x0) := by
  unfold State.countEdge
  with_reducible repeat' (first
    | exact h | assumption | refine State.correct_same ?_ hw | refine State.withMer_same ?_ (Part.sub (by decide) hw)
    | refine State.countLock_same ?_ hw | refine same_foldl ?_ _ ?_ | apply same_ite | apply_assumption | dsimp only
    | split | intro _ _ _ | intro _ _)

theorem execFrameRefEdge_same {w : List Part} {a s : State} (h : State.SameBut w a s)
    (hw : [.now, .freeCount, .regs, .mem, .hbmStacks, .bells, .loader, .alm, .cue, .mer, .looms, .sieves,
      .gates, .pairs, .sram, .reeves, .flight, .ferry, .faults, .restarts, .ledger, .out] ⊆ w) :
    SameOut w a (execFrameRefEdge s) := by
  unfold execFrameRefEdge
  with_reducible repeat' (first
    | apply same_next | exact same_fault _ | exact h | assumption
    | refine State.merReturn_same ?_ (Part.sub (by decide) hw) | refine State.losePulse_same ?_ hw
    | refine State.event_same ?_ (Part.sub (by decide) hw) | refine State.merRebase_same ?_ (Part.sub (by decide) hw)
    | refine State.withMer_same ?_ (Part.sub (by decide) hw)
    | refine State.countEdge_same ?_ (Part.sub (by decide) hw) | refine same_foldl ?_ _ ?_ | apply sameOut_ite
    | apply same_ite | apply_assumption | dsimp only | split | intro _ _ _ | intro _ _)

theorem execAnnounceTimeout_same {w : List Part} {a s : State} (h : State.SameBut w a s)
    (hw : [.now, .freeCount, .regs, .mem, .hbmStacks, .bells, .loader, .alm, .cue, .mer, .looms, .sieves,
      .gates, .pairs, .sram, .reeves, .flight, .ferry, .faults, .restarts, .ledger, .out] ⊆ w) :
    SameOut w a (execAnnounceTimeout s) := by
  unfold execAnnounceTimeout
  with_reducible repeat' (first
    | apply same_next | exact same_fault _ | exact h | assumption | refine State.loseReference_same ?_ hw
    | refine State.withMer_same ?_ (Part.sub (by decide) hw) | refine same_foldl ?_ _ ?_ | apply sameOut_ite
    | apply same_ite | apply_assumption | dsimp only | split | intro _ _ _ | intro _ _)

theorem execFollowUp_same {w : List Part} {a s : State} {x0 x1} (h : State.SameBut w a s)
    (hw : [.regs, .mer, .out] ⊆ w) :
    SameOut w a (execFollowUp x0 x1 s) := by
  unfold execFollowUp
  with_reducible repeat' (first
    | apply same_next | exact same_fault _ | exact h | assumption
    | refine State.withMer_same ?_ (Part.sub (by decide) hw)
    | refine State.sendDelayReq_same ?_ (Part.sub (by decide) hw) | refine State.ptpMeasure_same ?_ hw
    | refine same_foldl ?_ _ ?_ | apply sameOut_ite | apply same_ite | apply_assumption | dsimp only | split
    | intro _ _ _ | intro _ _)

theorem execPtpArp_same {w : List Part} {a s : State} {x0} (h : State.SameBut w a s)
    (hw : [.out] ⊆ w) :
    SameOut w a (execPtpArp x0 s) := by
  unfold execPtpArp
  with_reducible repeat' (first
    | apply same_next | exact same_fault _ | exact h | assumption | refine State.withOut_same ?_ hw
    | refine same_foldl ?_ _ ?_ | apply sameOut_ite | apply same_ite | apply_assumption | dsimp only | split
    | intro _ _ _ | intro _ _)

theorem execDelayResponse_same {w : List Part} {a s : State} {x0 x1} (h : State.SameBut w a s)
    (hw : [.mer] ⊆ w) :
    SameOut w a (execDelayResponse x0 x1 s) := by
  unfold execDelayResponse
  with_reducible repeat' (first
    | apply same_next | exact same_fault _ | exact h | assumption | refine State.withMer_same ?_ hw
    | refine same_foldl ?_ _ ?_ | apply sameOut_ite | apply same_ite | apply_assumption | dsimp only | split
    | intro _ _ _ | intro _ _)

end Sys2Proof.Machine
end

