-- ==== Sys2Proof/Laws/SamePower.lean ====
section
/-! SUPPORT. What the definitions of Machine/Power.lean change (State.SameBut). -/

namespace Sys2Proof.Machine

theorem State.showClock_same {w : List Part} {a s : State} (h : State.SameBut w a s)
    (hw : [.regs] ⊆ w) :
    State.SameBut w a (State.showClock s) := by
  unfold State.showClock
  with_reducible repeat' (first
    | exact h | assumption | refine State.setFld_same ?_ hw | refine same_foldl ?_ _ ?_ | apply same_ite
    | apply_assumption | dsimp only | split | intro _ _ _ | intro _ _)

theorem State.dropCap_same {w : List Part} {a s : State} {x0} (h : State.SameBut w a s)
    (hw : [.regs, .power] ⊆ w) :
    State.SameBut w a (State.dropCap s x0) := by
  unfold State.dropCap
  with_reducible repeat' (first
    | exact h | assumption | refine State.showClock_same ?_ (Part.sub (by decide) hw)
    | refine State.withPower_same ?_ (Part.sub (by decide) hw) | refine same_foldl ?_ _ ?_ | apply same_ite
    | apply_assumption | dsimp only | split | intro _ _ _ | intro _ _)

theorem State.merWake_same {w : List Part} {a s : State} (h : State.SameBut w a s)
    (hw : [.regs, .mer] ⊆ w) :
    State.SameBut w a (State.merWake s) := by
  unfold State.merWake
  with_reducible repeat' (first
    | exact h | assumption | refine State.withMer_same ?_ (Part.sub (by decide) hw)
    | refine State.setMerState_same ?_ (Part.sub (by decide) hw) | refine same_foldl ?_ _ ?_ | apply same_ite
    | apply_assumption | dsimp only | split | intro _ _ _ | intro _ _)

theorem setRefresh_same {w : List Part} {a s : State} {x0 x1} (h : State.SameBut w a s)
    (hw : [.regs] ⊆ w) :
    State.SameBut w a (setRefresh x0 x1 s) := by
  fun_induction setRefresh x0 x1 s
  with_reducible repeat' (first
    | exact h | assumption | refine State.setFld_same ?_ hw | refine same_foldl ?_ _ ?_ | apply same_ite
    | apply_assumption | dsimp only | split | intro _ _ _ | intro _ _)

theorem execSelfRefreshEntry_same {w : List Part} {a s : State} {x0} (h : State.SameBut w a s)
    (hw : [.regs] ⊆ w) :
    SameOut w a (execSelfRefreshEntry x0 s) := by
  unfold execSelfRefreshEntry
  with_reducible repeat' (first
    | apply same_next | exact same_fault _ | exact h | assumption | refine setRefresh_same ?_ hw
    | refine same_foldl ?_ _ ?_ | apply sameOut_ite | apply same_ite | apply_assumption | dsimp only | split
    | intro _ _ _ | intro _ _)

theorem State.requestNight_same {w : List Part} {a s : State} (h : State.SameBut w a s)
    (hw : [.board, .regs] ⊆ w) :
    State.SameBut w a (State.requestNight s) := by
  unfold State.requestNight
  with_reducible repeat' (first
    | exact h | assumption | refine State.withBoard_same ?_ (Part.sub (by decide) hw)
    | refine State.setFld_same ?_ (Part.sub (by decide) hw) | refine same_foldl ?_ _ ?_ | apply same_ite
    | apply_assumption | dsimp only | split | intro _ _ _ | intro _ _)

theorem State.lowerAclk_same {w : List Part} {a s : State} {x0 x1 x2} (h : State.SameBut w a s)
    (hw : [.regs, .power] ⊆ w) :
    State.SameBut w a (State.lowerAclk s x0 x1 x2) := by
  unfold State.lowerAclk
  with_reducible repeat' (first
    | exact h | assumption | refine State.setFld_same ?_ (Part.sub (by decide) hw)
    | refine State.triggerRetest_same ?_ hw | refine State.withPower_same ?_ (Part.sub (by decide) hw)
    | refine same_foldl ?_ _ ?_ | apply same_ite | apply_assumption | dsimp only | split | intro _ _ _ | intro _ _)

theorem setWindows_same {w : List Part} {a s : State} {x0 x1} (h : State.SameBut w a s)
    (hw : [.regs] ⊆ w) :
    State.SameBut w a (setWindows x0 x1 s) := by
  fun_induction setWindows x0 x1 s
  with_reducible repeat' (first
    | exact h | assumption | refine State.setFld_same ?_ hw | refine same_foldl ?_ _ ?_ | apply same_ite
    | apply_assumption | dsimp only | split | intro _ _ _ | intro _ _)

theorem State.setClock_same {w : List Part} {a s : State} {x0 x1} (h : State.SameBut w a s)
    (hw : [.regs] ⊆ w) :
    State.SameBut w a (State.setClock s x0 x1) := by
  unfold State.setClock
  with_reducible repeat' (first
    | exact h | assumption | refine setWindows_same ?_ hw | refine State.setFld_same ?_ hw | refine same_foldl ?_ _ ?_
    | apply same_ite | apply_assumption | dsimp only | split | intro _ _ _ | intro _ _)

theorem State.raiseAclk_same {w : List Part} {a s : State} {x0 x1} (h : State.SameBut w a s)
    (hw : [.regs] ⊆ w) :
    State.SameBut w a (State.raiseAclk s x0 x1) := by
  unfold State.raiseAclk
  with_reducible repeat' (first
    | exact h | assumption | refine State.showClock_same ?_ hw | refine State.setClock_same ?_ hw
    | refine same_foldl ?_ _ ?_ | apply same_ite | apply_assumption | dsimp only | split | intro _ _ _ | intro _ _)

theorem State.capWrite_same {w : List Part} {a s : State} {x0 x1} (h : State.SameBut w a s)
    (hw : [.freeCount, .regs, .power] ⊆ w) :
    State.SameBut w a (State.capWrite s x0 x1) := by
  unfold State.capWrite
  with_reducible repeat' (first
    | exact h | assumption | refine State.setFld_same ?_ (Part.sub (by decide) hw)
    | refine State.lowerAclk_same ?_ (Part.sub (by decide) hw)
    | refine State.withFreeCount_same ?_ (Part.sub (by decide) hw)
    | refine State.raiseAclk_same ?_ (Part.sub (by decide) hw)
    | refine State.dropCap_same ?_ (Part.sub (by decide) hw) | refine same_foldl ?_ _ ?_ | apply same_ite
    | apply_assumption | dsimp only | split | intro _ _ _ | intro _ _)

theorem State.dieStatus_same {w : List Part} {a s : State} {x0 x1} (h : State.SameBut w a s)
    (hw : [.regs] ⊆ w) :
    State.SameBut w a (State.dieStatus s x0 x1) := by
  unfold State.dieStatus
  with_reducible repeat' (first
    | exact h | assumption | refine State.setFld_same ?_ hw | refine same_foldl ?_ _ ?_ | apply same_ite
    | apply_assumption | dsimp only | split | intro _ _ _ | intro _ _)

theorem State.dieCmd_same {w : List Part} {a s : State} {x0 x1} (h : State.SameBut w a s)
    (hw : [.regs, .power] ⊆ w) :
    State.SameBut w a (State.dieCmd s x0 x1) := by
  unfold State.dieCmd
  with_reducible repeat' (first
    | exact h | assumption | refine State.setFld_same ?_ (Part.sub (by decide) hw)
    | refine State.dieStatus_same ?_ (Part.sub (by decide) hw)
    | refine State.withPower_same ?_ (Part.sub (by decide) hw) | refine same_foldl ?_ _ ?_ | apply same_ite
    | apply_assumption | dsimp only | split | intro _ _ _ | intro _ _)

theorem execDuskEntry_same {w : List Part} {a s : State} {x0} (h : State.SameBut w a s)
    (hw : [.regs, .power, .out] ⊆ w) :
    SameOut w a (execDuskEntry x0 s) := by
  unfold execDuskEntry
  with_reducible repeat' (first
    | apply same_next | exact same_fault _ | exact h | assumption
    | refine noteStates_same ?_ (Part.sub (by decide) hw) | refine State.withPower_same ?_ (Part.sub (by decide) hw)
    | refine same_foldl ?_ _ ?_ | apply sameOut_ite | apply same_ite | apply_assumption | dsimp only | split
    | intro _ _ _ | intro _ _)

theorem State.protect_same {w : List Part} {a s : State} {x0 x1 x2 x3} (h : State.SameBut w a s)
    (hw : [.now, .freeCount, .board, .regs, .mem, .hbmStacks, .bells, .loader, .alm, .cue, .looms, .sieves,
      .gates, .pairs, .sram, .reeves, .kats, .flight, .ferry, .power, .faults, .restarts, .ledger, .out] ⊆ w) :
    State.SameBut w a (State.protect s x0 x1 x2 x3) := by
  unfold State.protect
  with_reducible repeat' (first
    | exact h | assumption | refine State.handleFault_same ?_ hw
    | refine State.capture_same ?_ (Part.sub (by decide) hw) | refine State.event_same ?_ (Part.sub (by decide) hw)
    | refine State.bump_same ?_ (Part.sub (by decide) hw) | refine same_foldl ?_ _ ?_ | apply same_ite
    | apply_assumption | dsimp only | split | intro _ _ _ | intro _ _)

theorem State.protectSquare_same {w : List Part} {a s : State} {x0 x1 x2} (h : State.SameBut w a s)
    (hw : [.board, .regs, .ledger, .out] ⊆ w) :
    State.SameBut w a (State.protectSquare s x0 x1 x2) := by
  unfold State.protectSquare
  with_reducible repeat' (first
    | exact h | assumption | refine State.capture_same ?_ (Part.sub (by decide) hw)
    | refine State.failSquare_same ?_ hw | refine State.event_same ?_ (Part.sub (by decide) hw)
    | refine State.bump_same ?_ (Part.sub (by decide) hw) | refine same_foldl ?_ _ ?_ | apply same_ite
    | apply_assumption | dsimp only | split | intro _ _ _ | intro _ _)

theorem execThermalTrip_same {w : List Part} {a s : State} {x0 x1} (h : State.SameBut w a s)
    (hw : [.now, .freeCount, .board, .regs, .mem, .hbmStacks, .bells, .loader, .alm, .cue, .looms, .sieves,
      .gates, .pairs, .sram, .reeves, .kats, .flight, .ferry, .power, .faults, .restarts, .ledger, .out] ⊆ w) :
    SameOut w a (execThermalTrip x0 x1 s) := by
  unfold execThermalTrip
  with_reducible repeat' (first
    | apply same_next | exact same_fault _ | exact h | assumption
    | refine State.alert_same ?_ (Part.sub (by decide) hw) | refine State.fence_same ?_ (Part.sub (by decide) hw)
    | refine State.protect_same ?_ hw | refine State.protectSquare_same ?_ (Part.sub (by decide) hw)
    | refine same_foldl ?_ _ ?_ | apply sameOut_ite | apply same_ite | apply_assumption | dsimp only | split
    | intro _ _ _ | intro _ _)

theorem execSupplyDroop_same {w : List Part} {a s : State} {x0} (h : State.SameBut w a s)
    (hw : [.now, .freeCount, .board, .regs, .mem, .hbmStacks, .bells, .loader, .alm, .cue, .looms, .sieves,
      .gates, .pairs, .sram, .reeves, .kats, .flight, .ferry, .power, .faults, .restarts, .ledger, .out] ⊆ w) :
    SameOut w a (execSupplyDroop x0 s) := by
  unfold execSupplyDroop
  with_reducible repeat' (first
    | apply same_next | exact same_fault _ | exact h | assumption
    | refine State.withBoard_same ?_ (Part.sub (by decide) hw) | refine State.fence_same ?_ (Part.sub (by decide) hw)
    | refine State.protect_same ?_ hw | refine State.protectSquare_same ?_ (Part.sub (by decide) hw)
    | refine same_foldl ?_ _ ?_ | apply sameOut_ite | apply same_ite | apply_assumption | dsimp only | split
    | intro _ _ _ | intro _ _)

theorem allPortsDown_same {w : List Part} {a s : State} {x0} (h : State.SameBut w a s)
    (hw : [.regs, .looms, .sieves, .gates, .sram, .reeves, .kats, .ferry, .out] ⊆ w) :
    State.SameBut w a (allPortsDown x0 s) := by
  fun_induction allPortsDown x0 s
  with_reducible repeat' (first
    | exact h | assumption | refine State.clearUnits_same ?_ (Part.sub (by decide) hw)
    | refine State.diePortsDown_same ?_ (Part.sub (by decide) hw) | refine same_foldl ?_ _ ?_ | apply same_ite
    | apply_assumption | dsimp only | split | intro _ _ _ | intro _ _)

theorem State.leaveNight_same {w : List Part} {a s : State} (h : State.SameBut w a s)
    (hw : [.board, .regs, .guards, .latch, .snaps, .mer, .power, .out] ⊆ w) :
    State.SameBut w a (State.leaveNight s) := by
  unfold State.leaveNight
  with_reducible repeat' (first
    | exact h | assumption | refine State.clearGuards_same ?_ (Part.sub (by decide) hw)
    | refine State.clearRegs_same ?_ (Part.sub (by decide) hw) | refine setTrained_same ?_ (Part.sub (by decide) hw)
    | refine noteStates_same ?_ (Part.sub (by decide) hw) | refine State.withBoard_same ?_ (Part.sub (by decide) hw)
    | refine State.withPower_same ?_ (Part.sub (by decide) hw)
    | refine State.checkReady_same ?_ (Part.sub (by decide) hw)
    | refine State.merWake_same ?_ (Part.sub (by decide) hw) | refine State.setFld_same ?_ (Part.sub (by decide) hw)
    | refine same_foldl ?_ _ ?_ | apply same_ite | apply_assumption | dsimp only | split | intro _ _ _ | intro _ _)

theorem execNwWakeTransit_same {w : List Part} {a s : State} (h : State.SameBut w a s)
    (hw : [.now, .board, .regs, .guards, .latch, .snaps, .mer, .power, .out] ⊆ w) :
    SameOut w a (execNwWakeTransit s) := by
  unfold execNwWakeTransit
  with_reducible repeat' (first
    | apply same_next | exact same_fault _ | exact h | assumption
    | refine State.leaveNight_same ?_ (Part.sub (by decide) hw)
    | refine State.advanceTo_same ?_ (Part.sub (by decide) hw) | refine same_foldl ?_ _ ?_ | apply sameOut_ite
    | apply same_ite | apply_assumption | dsimp only | split | intro _ _ _ | intro _ _)

theorem execLimiterAclkRaise_same {w : List Part} {a s : State} {x0 x1} (h : State.SameBut w a s)
    (hw : [.regs] ⊆ w) :
    SameOut w a (execLimiterAclkRaise x0 x1 s) := by
  unfold execLimiterAclkRaise
  with_reducible repeat' (first
    | apply same_next | exact same_fault _ | exact h | assumption | refine State.raiseAclk_same ?_ hw
    | refine same_foldl ?_ _ ?_ | apply sameOut_ite | apply same_ite | apply_assumption | dsimp only | split
    | intro _ _ _ | intro _ _)

theorem execNightwatchEntry_same {w : List Part} {a s : State} (h : State.SameBut w a s)
    (hw : [.board, .regs, .mer, .looms, .sieves, .gates, .pairs, .sram, .reeves, .kats, .flight, .ferry, .out] ⊆ w) :
    SameOut w a (execNightwatchEntry s) := by
  unfold execNightwatchEntry
  with_reducible repeat' (first
    | apply same_next | exact same_fault _ | exact h | assumption
    | refine State.linkLost_same ?_ (Part.sub (by decide) hw) | refine allPortsDown_same ?_ (Part.sub (by decide) hw)
    | refine setRefresh_same ?_ (Part.sub (by decide) hw) | refine State.merRebase_same ?_ (Part.sub (by decide) hw)
    | refine State.withFlight_same ?_ (Part.sub (by decide) hw)
    | refine State.withPairs_same ?_ (Part.sub (by decide) hw)
    | refine State.withBoard_same ?_ (Part.sub (by decide) hw) | refine same_foldl ?_ _ ?_ | apply sameOut_ite
    | apply same_ite | apply_assumption | dsimp only | split | intro _ _ _ | intro _ _)

theorem execCapApply_same {w : List Part} {a s : State} (h : State.SameBut w a s)
    (hw : [.regs, .power, .out] ⊆ w) :
    SameOut w a (execCapApply s) := by
  unfold execCapApply
  with_reducible repeat' (first
    | apply same_next | exact same_fault _ | exact h | assumption
    | refine State.setClock_same ?_ (Part.sub (by decide) hw)
    | refine State.withPower_same ?_ (Part.sub (by decide) hw) | refine State.event_same ?_ (Part.sub (by decide) hw)
    | refine State.bump_same ?_ (Part.sub (by decide) hw) | refine State.alert_same ?_ (Part.sub (by decide) hw)
    | refine same_foldl ?_ _ ?_ | apply sameOut_ite | apply same_ite | apply_assumption | dsimp only | split
    | intro _ _ _ | intro _ _)

theorem execDaylight_same {w : List Part} {a s : State} (h : State.SameBut w a s)
    (hw : [.regs, .guards, .latch, .snaps, .power, .out] ⊆ w) :
    SameOut w a (execDaylight s) := by
  unfold execDaylight
  with_reducible repeat' (first
    | apply same_next | exact same_fault _ | exact h | assumption
    | refine State.dieStatus_same ?_ (Part.sub (by decide) hw)
    | refine State.withPower_same ?_ (Part.sub (by decide) hw) | refine noteStates_same ?_ (Part.sub (by decide) hw)
    | refine setRefresh_same ?_ (Part.sub (by decide) hw) | refine State.clearDie_same ?_ (Part.sub (by decide) hw)
    | refine State.triggerRetest_same ?_ (Part.sub (by decide) hw) | refine same_foldl ?_ _ ?_ | apply sameOut_ite
    | apply same_ite | apply_assumption | dsimp only | split | intro _ _ _ | intro _ _)

theorem execLimiterAclkChange_same {w : List Part} {a s : State} {x0 x1 x2} (h : State.SameBut w a s)
    (hw : [.regs, .power] ⊆ w) :
    SameOut w a (execLimiterAclkChange x0 x1 x2 s) := by
  unfold execLimiterAclkChange
  with_reducible repeat' (first
    | apply same_next | exact same_fault _ | exact h | assumption | refine State.lowerAclk_same ?_ hw
    | refine same_foldl ?_ _ ?_ | apply sameOut_ite | apply same_ite | apply_assumption | dsimp only | split
    | intro _ _ _ | intro _ _)

theorem execWakeN_same {w : List Part} {a s : State} (h : State.SameBut w a s)
    (hw : [.board, .regs, .guards, .latch, .snaps, .mer, .power, .out] ⊆ w) :
    SameOut w a (execWakeN s) := by
  unfold execWakeN
  with_reducible repeat' (first
    | apply same_next | exact same_fault _ | exact h | assumption | refine State.leaveNight_same ?_ hw
    | refine same_foldl ?_ _ ?_ | apply sameOut_ite | apply same_ite | apply_assumption | dsimp only | split
    | intro _ _ _ | intro _ _)

theorem State.enterTwilight_same {w : List Part} {a s : State} {x0} (h : State.SameBut w a s)
    (hw : [.regs, .bells, .alm, .looms, .sieves, .gates, .sram, .reeves, .kats, .ferry, .power, .out] ⊆ w) :
    State.SameBut w a (State.enterTwilight s x0) := by
  unfold State.enterTwilight
  with_reducible repeat' (first
    | exact h | assumption | refine State.evacuate_same ?_ (Part.sub (by decide) hw)
    | refine State.triggerRetest_same ?_ (Part.sub (by decide) hw)
    | refine State.clearUnits_same ?_ (Part.sub (by decide) hw)
    | refine State.diePortsDown_same ?_ (Part.sub (by decide) hw)
    | refine setRefresh_same ?_ (Part.sub (by decide) hw) | refine noteStates_same ?_ (Part.sub (by decide) hw)
    | refine State.withPower_same ?_ (Part.sub (by decide) hw) | refine same_foldl ?_ _ ?_ | apply same_ite
    | apply_assumption | dsimp only | split | intro _ _ _ | intro _ _)

theorem execTwilight_same {w : List Part} {a s : State} (h : State.SameBut w a s)
    (hw : [.regs, .bells, .alm, .looms, .sieves, .gates, .sram, .reeves, .kats, .ferry, .power, .out] ⊆ w) :
    SameOut w a (execTwilight s) := by
  unfold execTwilight
  with_reducible repeat' (first
    | apply same_next | exact same_fault _ | exact h | assumption
    | refine State.dieStatus_same ?_ (Part.sub (by decide) hw)
    | refine State.withPower_same ?_ (Part.sub (by decide) hw) | refine State.enterTwilight_same ?_ hw
    | refine same_foldl ?_ _ ?_ | apply sameOut_ite | apply same_ite | apply_assumption | dsimp only | split
    | intro _ _ _ | intro _ _)

end Sys2Proof.Machine
end

