-- ==== Sys2Proof/Laws/SameBus.lean ====
section
/-! SUPPORT. What the definitions of Machine/Bus.lean change (State.SameBut). -/

namespace Sys2Proof.Machine

theorem State.snapPage_same {w : List Part} {a s : State} {x0 x1 x2} (h : State.SameBut w a s)
    (hw : [.regs, .snaps] ⊆ w) :
    State.SameBut w a (State.snapPage s x0 x1 x2) := by
  unfold State.snapPage
  with_reducible repeat' (first
    | exact h | assumption | refine State.withSnaps_same ?_ (Part.sub (by decide) hw)
    | refine State.setReg_same ?_ (Part.sub (by decide) hw) | refine same_foldl ?_ _ ?_ | apply same_ite
    | apply_assumption | dsimp only | split | intro _ _ _ | intro _ _)

theorem State.commonAct_same {w : List Part} {a s : State} {x0} (h : State.SameBut w a s)
    (hw : [.regs, .snaps] ⊆ w) :
    State.SameBut w a (State.commonAct s x0) := by
  unfold State.commonAct
  with_reducible repeat' (first
    | exact h | assumption | refine State.setReg_same ?_ (Part.sub (by decide) hw) | refine State.snapPage_same ?_ hw
    | refine same_foldl ?_ _ ?_ | apply same_ite | apply_assumption | dsimp only | split | intro _ _ _ | intro _ _)

theorem State.katStart_same {w : List Part} {a s : State} {x0 x1} (h : State.SameBut w a s)
    (hw : [.regs, .kats] ⊆ w) :
    State.SameBut w a (State.katStart s x0 x1) := by
  unfold State.katStart
  with_reducible repeat' (first
    | exact h | assumption | refine State.setFld_same ?_ (Part.sub (by decide) hw)
    | refine State.withKats_same ?_ (Part.sub (by decide) hw) | refine same_foldl ?_ _ ?_ | apply same_ite
    | apply_assumption | dsimp only | split | intro _ _ _ | intro _ _)

theorem State.ringDoorbell_same {w : List Part} {a s : State} {x0 x1 x2} (h : State.SameBut w a s)
    (hw : [.regs] ⊆ w) :
    State.SameBut w a (State.ringDoorbell s x0 x1 x2) := by
  unfold State.ringDoorbell
  with_reducible repeat' (first
    | exact h | assumption | refine State.setRingFld_same ?_ hw | refine same_foldl ?_ _ ?_ | apply same_ite
    | apply_assumption | dsimp only | split | intro _ _ _ | intro _ _)

theorem State.ringConsume_same {w : List Part} {a s : State} {x0 x1 x2} (h : State.SameBut w a s)
    (hw : [.regs] ⊆ w) :
    State.SameBut w a (State.ringConsume s x0 x1 x2) := by
  unfold State.ringConsume
  with_reducible repeat' (first
    | exact h | assumption | refine State.setRingFld_same ?_ hw | refine same_foldl ?_ _ ?_ | apply same_ite
    | apply_assumption | dsimp only | split | intro _ _ _ | intro _ _)

theorem State.ringChanged_same {w : List Part} {a s : State} {x0 x1 x2} (h : State.SameBut w a s)
    (hw : [.regs, .ringLost, .loader] ⊆ w) :
    State.SameBut w a (State.ringChanged s x0 x1 x2) := by
  unfold State.ringChanged
  with_reducible repeat' (first
    | exact h | assumption | refine State.setRingFld_same ?_ (Part.sub (by decide) hw)
    | refine State.withLoader_same ?_ (Part.sub (by decide) hw)
    | refine State.withRingLost_same ?_ (Part.sub (by decide) hw) | refine same_foldl ?_ _ ?_ | apply same_ite
    | apply_assumption | dsimp only | split | intro _ _ _ | intro _ _)

theorem State.unitAct_same {w : List Part} {a s : State} {x0 x1 x2 x3} (h : State.SameBut w a s)
    (hw : [.regs, .hbmStacks, .dmaLost, .ringLost, .bells, .loader, .reeves, .kats, .ferry, .out] ⊆ w) :
    State.SameBut w a (State.unitAct s x0 x1 x2 x3) := by
  unfold State.unitAct
  with_reducible repeat' (first
    | exact h | assumption | refine noteStates_same ?_ (Part.sub (by decide) hw)
    | refine State.resetMap_same ?_ (Part.sub (by decide) hw)
    | refine State.setReeve_same ?_ (Part.sub (by decide) hw)
    | refine State.katStart_same ?_ (Part.sub (by decide) hw)
    | refine State.marginStart_same ?_ (Part.sub (by decide) hw)
    | refine State.portDown_same ?_ (Part.sub (by decide) hw) | refine State.retrain_same ?_ (Part.sub (by decide) hw)
    | refine State.ringDoorbell_same ?_ (Part.sub (by decide) hw)
    | refine State.ringConsume_same ?_ (Part.sub (by decide) hw)
    | refine State.ringChanged_same ?_ (Part.sub (by decide) hw)
    | refine State.dmaDoorbell_same ?_ (Part.sub (by decide) hw)
    | refine State.dmaChanged_same ?_ (Part.sub (by decide) hw) | refine same_foldl ?_ _ ?_ | apply same_ite
    | apply_assumption | dsimp only | split | intro _ _ _ | intro _ _)

theorem State.snapAll_same {w : List Part} {a s : State} {x0} (h : State.SameBut w a s)
    (hw : [.regs, .snaps] ⊆ w) :
    State.SameBut w a (State.snapAll s x0) := by
  unfold State.snapAll
  with_reducible repeat' (first
    | exact h | assumption | refine State.snapPage_same ?_ hw | refine same_foldl ?_ _ ?_ | apply same_ite
    | apply_assumption | dsimp only | split | intro _ _ _ | intro _ _)

theorem raiseAlerts_same {w : List Part} {a s : State} {x0 x1} (h : State.SameBut w a s)
    (hw : [.regs, .out] ⊆ w) :
    State.SameBut w a (raiseAlerts x0 x1 s) := by
  fun_induction raiseAlerts x0 x1 s
  with_reducible repeat' (first
    | exact h | assumption | refine State.alert_same ?_ hw | refine same_foldl ?_ _ ?_ | apply same_ite
    | apply_assumption | dsimp only | split | intro _ _ _ | intro _ _)

theorem State.squareAct_same {w : List Part} {a s : State} {x0 x1 x2} (h : State.SameBut w a s)
    (hw : [.now, .freeCount, .board, .regs, .snaps, .mem, .hbmStacks, .fieldReqs, .bells, .loader, .alm, .cue,
      .mer, .looms, .sieves, .gates, .pairs, .sram, .reeves, .kats, .flight, .ferry, .power, .faults, .restarts, .ledger, .out] ⊆ w) :
    State.SameBut w a (State.squareAct s x0 x1 x2) := by
  unfold State.squareAct
  with_reducible repeat' (first
    | exact h | assumption | refine State.snapAll_same ?_ (Part.sub (by decide) hw)
    | refine State.fieldCmd_same ?_ (Part.sub (by decide) hw) | refine raiseAlerts_same ?_ (Part.sub (by decide) hw)
    | refine State.setSource_same ?_ (Part.sub (by decide) hw)
    | refine State.setRate_same ?_ (Part.sub (by decide) hw) | refine State.setLines_same ?_ (Part.sub (by decide) hw)
    | refine State.armFrame_same ?_ (Part.sub (by decide) hw)
    | refine State.setTransit_same ?_ (Part.sub (by decide) hw)
    | refine State.domainSet_same ?_ (Part.sub (by decide) hw) | refine State.setFld_same ?_ (Part.sub (by decide) hw)
    | refine State.setCueIndex_same ?_ (Part.sub (by decide) hw)
    | refine State.cueDataWrite_same ?_ (Part.sub (by decide) hw)
    | refine State.setCueGroup_same ?_ (Part.sub (by decide) hw)
    | refine State.cueGroupWrite_same ?_ (Part.sub (by decide) hw)
    | refine State.requestNight_same ?_ (Part.sub (by decide) hw)
    | refine State.capWrite_same ?_ (Part.sub (by decide) hw) | refine State.dieCmd_same ?_ (Part.sub (by decide) hw)
    | refine State.fenceWrite_same ?_ (Part.sub (by decide) hw)
    | refine State.routeCmd_same ?_ (Part.sub (by decide) hw) | refine State.fjCmd_same ?_ (Part.sub (by decide) hw)
    | refine same_foldl ?_ _ ?_ | apply same_ite | apply_assumption | dsimp only | split | intro _ _ _ | intro _ _)

theorem State.applyWrite_same {w : List Part} {a s : State} {x0 x1} (h : State.SameBut w a s)
    (hw : [.now, .freeCount, .board, .regs, .snaps, .mem, .hbmStacks, .fieldReqs, .dmaLost, .ringLost, .bells,
      .loader, .alm, .cue, .mer, .looms, .sieves, .gates, .pairs, .sram, .reeves, .kats, .flight, .ferry, .power, .faults, .restarts, .ledger, .out] ⊆ w) :
    State.SameBut w a (State.applyWrite s x0 x1) := by
  unfold State.applyWrite
  with_reducible repeat' (first
    | exact h | assumption | refine State.deny_same ?_ (Part.sub (by decide) hw)
    | refine State.setReg_same ?_ (Part.sub (by decide) hw) | refine State.commonAct_same ?_ (Part.sub (by decide) hw)
    | refine State.unitAct_same ?_ (Part.sub (by decide) hw)
    | refine State.squareAct_same ?_ (Part.sub (by decide) hw) | refine attnRise_same ?_ (Part.sub (by decide) hw)
    | refine same_foldl ?_ _ ?_ | apply same_ite | apply_assumption | dsimp only | split | intro _ _ _ | intro _ _)

theorem State.pageWrite_same {w : List Part} {a s : State} {x0} (h : State.SameBut w a s)
    (hw : [.now, .freeCount, .board, .regs, .guards, .snaps, .mem, .hbmStacks, .fieldReqs, .dmaLost, .ringLost,
      .bells, .loader, .alm, .cue, .mer, .looms, .sieves, .gates, .pairs, .sram, .reeves, .kats, .flight, .ferry, .power, .faults, .restarts, .ledger, .out] ⊆ w) :
    State.SameBut w a (State.pageWrite s x0) := by
  unfold State.pageWrite
  with_reducible repeat' (first
    | exact h | assumption | refine State.deny_same ?_ (Part.sub (by decide) hw)
    | refine State.applyWrite_same ?_ (Part.sub (by decide) hw)
    | refine State.withGuards_same ?_ (Part.sub (by decide) hw) | refine same_foldl ?_ _ ?_ | apply same_ite
    | apply_assumption | dsimp only | split | intro _ _ _ | intro _ _)

theorem State.busWrite_same {w : List Part} {a s : State} {x0 x1 x2} (h : State.SameBut w a s)
    (hw : [.now, .freeCount, .board, .regs, .guards, .snaps, .mem, .hbmStacks, .fieldReqs, .dmaLost, .ringLost,
      .bells, .loader, .alm, .cue, .mer, .looms, .sieves, .gates, .pairs, .sram, .reeves, .kats, .flight, .ferry, .power, .faults, .restarts, .ledger, .out] ⊆ w) :
    State.SameBut w a (State.busWrite s x0 x1 x2) := by
  unfold State.busWrite
  with_reducible repeat' (first
    | exact h | assumption | refine State.pageWrite_same ?_ hw | refine same_foldl ?_ _ ?_ | apply same_ite
    | apply_assumption | dsimp only | split | intro _ _ _ | intro _ _)

theorem execPageOwnerWrite_same {w : List Part} {a s : State} {x0 x1 x2} (h : State.SameBut w a s)
    (hw : [.now, .freeCount, .board, .regs, .guards, .snaps, .mem, .hbmStacks, .fieldReqs, .dmaLost, .ringLost,
      .bells, .loader, .alm, .cue, .mer, .looms, .sieves, .gates, .pairs, .sram, .reeves, .kats, .flight, .ferry, .power, .faults, .restarts, .ledger, .out] ⊆ w) :
    SameOut w a (execPageOwnerWrite x0 x1 x2 s) := by
  unfold execPageOwnerWrite
  with_reducible repeat' (first
    | apply same_next | exact same_fault _ | exact h | assumption | refine State.busWrite_same ?_ hw
    | refine same_foldl ?_ _ ?_ | apply sameOut_ite | apply same_ite | apply_assumption | dsimp only | split
    | intro _ _ _ | intro _ _)

theorem execCueGroupOwner_same {w : List Part} {a s : State} {x0 x1} (h : State.SameBut w a s)
    (hw : [.now, .freeCount, .board, .regs, .guards, .snaps, .mem, .hbmStacks, .fieldReqs, .dmaLost, .ringLost,
      .bells, .loader, .alm, .cue, .mer, .looms, .sieves, .gates, .pairs, .sram, .reeves, .kats, .flight, .ferry, .power, .faults, .restarts, .ledger, .out] ⊆ w) :
    SameOut w a (execCueGroupOwner x0 x1 s) := by
  unfold execCueGroupOwner
  with_reducible repeat' (first
    | apply same_next | exact same_fault _ | exact h | assumption | refine State.busWrite_same ?_ hw
    | refine same_foldl ?_ _ ?_ | apply sameOut_ite | apply same_ite | apply_assumption | dsimp only | split
    | intro _ _ _ | intro _ _)

theorem execFaultCodeClear_same {w : List Part} {a s : State} {x0 x1} (h : State.SameBut w a s)
    (hw : [.now, .freeCount, .board, .regs, .guards, .snaps, .mem, .hbmStacks, .fieldReqs, .dmaLost, .ringLost,
      .bells, .loader, .alm, .cue, .mer, .looms, .sieves, .gates, .pairs, .sram, .reeves, .kats, .flight, .ferry, .power, .faults, .restarts, .ledger, .out] ⊆ w) :
    SameOut w a (execFaultCodeClear x0 x1 s) := by
  unfold execFaultCodeClear
  with_reducible repeat' (first
    | apply same_next | exact same_fault _ | exact h | assumption | refine State.busWrite_same ?_ hw
    | refine same_foldl ?_ _ ?_ | apply sameOut_ite | apply same_ite | apply_assumption | dsimp only | split
    | intro _ _ _ | intro _ _)

theorem execAlmIndex_same {w : List Part} {a s : State} {x0 x1} (h : State.SameBut w a s)
    (hw : [.now, .freeCount, .board, .regs, .guards, .snaps, .mem, .hbmStacks, .fieldReqs, .dmaLost, .ringLost,
      .bells, .loader, .alm, .cue, .mer, .looms, .sieves, .gates, .pairs, .sram, .reeves, .kats, .flight, .ferry, .power, .faults, .restarts, .ledger, .out] ⊆ w) :
    SameOut w a (execAlmIndex x0 x1 s) := by
  unfold execAlmIndex
  with_reducible repeat' (first
    | apply same_next | exact same_fault _ | exact h | assumption | refine State.busWrite_same ?_ hw
    | refine same_foldl ?_ _ ?_ | apply sameOut_ite | apply same_ite | apply_assumption | dsimp only | split
    | intro _ _ _ | intro _ _)

theorem execMerSetLo_same {w : List Part} {a s : State} {x0 x1} (h : State.SameBut w a s)
    (hw : [.now, .freeCount, .board, .regs, .guards, .snaps, .mem, .hbmStacks, .fieldReqs, .dmaLost, .ringLost,
      .bells, .loader, .alm, .cue, .mer, .looms, .sieves, .gates, .pairs, .sram, .reeves, .kats, .flight, .ferry, .power, .faults, .restarts, .ledger, .out] ⊆ w) :
    SameOut w a (execMerSetLo x0 x1 s) := by
  unfold execMerSetLo
  with_reducible repeat' (first
    | apply same_next | exact same_fault _ | exact h | assumption | refine State.busWrite_same ?_ hw
    | refine same_foldl ?_ _ ?_ | apply sameOut_ite | apply same_ite | apply_assumption | dsimp only | split
    | intro _ _ _ | intro _ _)

theorem execDmaTail_same {w : List Part} {a s : State} {x0 x1 x2 x3} (h : State.SameBut w a s)
    (hw : [.now, .freeCount, .board, .regs, .guards, .snaps, .mem, .hbmStacks, .fieldReqs, .dmaLost, .ringLost,
      .bells, .loader, .alm, .cue, .mer, .looms, .sieves, .gates, .pairs, .sram, .reeves, .kats, .flight, .ferry, .power, .faults, .restarts, .ledger, .out] ⊆ w) :
    SameOut w a (execDmaTail x0 x1 x2 x3 s) := by
  unfold execDmaTail
  with_reducible repeat' (first
    | apply same_next | exact same_fault _ | exact h | assumption | refine State.busWrite_same ?_ hw
    | refine same_foldl ?_ _ ?_ | apply sameOut_ite | apply same_ite | apply_assumption | dsimp only | split
    | intro _ _ _ | intro _ _)

theorem execMerRateWrite_same {w : List Part} {a s : State} {x0 x1} (h : State.SameBut w a s)
    (hw : [.now, .freeCount, .board, .regs, .guards, .snaps, .mem, .hbmStacks, .fieldReqs, .dmaLost, .ringLost,
      .bells, .loader, .alm, .cue, .mer, .looms, .sieves, .gates, .pairs, .sram, .reeves, .kats, .flight, .ferry, .power, .faults, .restarts, .ledger, .out] ⊆ w) :
    SameOut w a (execMerRateWrite x0 x1 s) := by
  unfold execMerRateWrite
  with_reducible repeat' (first
    | apply same_next | exact same_fault _ | exact h | assumption | refine State.busWrite_same ?_ hw
    | refine same_foldl ?_ _ ?_ | apply sameOut_ite | apply same_ite | apply_assumption | dsimp only | split
    | intro _ _ _ | intro _ _)

theorem execHbmMarginStart_same {w : List Part} {a s : State} {x0 x1 x2} (h : State.SameBut w a s)
    (hw : [.now, .freeCount, .board, .regs, .guards, .snaps, .mem, .hbmStacks, .fieldReqs, .dmaLost, .ringLost,
      .bells, .loader, .alm, .cue, .mer, .looms, .sieves, .gates, .pairs, .sram, .reeves, .kats, .flight, .ferry, .power, .faults, .restarts, .ledger, .out] ⊆ w) :
    SameOut w a (execHbmMarginStart x0 x1 x2 s) := by
  unfold execHbmMarginStart
  with_reducible repeat' (first
    | apply same_next | exact same_fault _ | exact h | assumption | refine State.busWrite_same ?_ hw
    | refine same_foldl ?_ _ ?_ | apply sameOut_ite | apply same_ite | apply_assumption | dsimp only | split
    | intro _ _ _ | intro _ _)

theorem execPageKey_same {w : List Part} {a s : State} {x0 x1 x2} (h : State.SameBut w a s)
    (hw : [.now, .freeCount, .board, .regs, .guards, .snaps, .mem, .hbmStacks, .fieldReqs, .dmaLost, .ringLost,
      .bells, .loader, .alm, .cue, .mer, .looms, .sieves, .gates, .pairs, .sram, .reeves, .kats, .flight, .ferry, .power, .faults, .restarts, .ledger, .out] ⊆ w) :
    SameOut w a (execPageKey x0 x1 x2 s) := by
  unfold execPageKey
  with_reducible repeat' (first
    | apply same_next | exact same_fault _ | exact h | assumption | refine State.busWrite_same ?_ hw
    | refine same_foldl ?_ _ ?_ | apply sameOut_ite | apply same_ite | apply_assumption | dsimp only | split
    | intro _ _ _ | intro _ _)

theorem State.bellSlotWrite_same {w : List Part} {a s : State} {x0 x1 x2} (h : State.SameBut w a s)
    (hw : [.regs, .bells, .looms, .sieves, .gates, .pairs, .out] ⊆ w) :
    State.SameBut w a (State.bellSlotWrite s x0 x1 x2) := by
  unfold State.bellSlotWrite
  with_reducible repeat' (first
    | exact h | assumption | refine State.bellWrite_same ?_ hw | refine same_foldl ?_ _ ?_ | apply same_ite
    | apply_assumption | dsimp only | split | intro _ _ _ | intro _ _)

theorem State.writeCmd_same {w : List Part} {a s : State} {x0 x1 x2 x3} (h : State.SameBut w a s)
    (hw : [.now, .freeCount, .board, .regs, .guards, .snaps, .mem, .hbmStacks, .fieldReqs, .dmaLost, .ringLost,
      .bells, .loader, .alm, .cue, .mer, .looms, .sieves, .gates, .pairs, .sram, .reeves, .kats, .flight, .ferry, .power, .faults, .restarts, .ledger, .out] ⊆ w) :
    State.SameBut w a (State.writeCmd s x0 x1 x2 x3) := by
  unfold State.writeCmd
  with_reducible repeat' (first
    | exact h | assumption | refine State.bellSlotWrite_same ?_ (Part.sub (by decide) hw)
    | refine State.busWrite_same ?_ hw | refine same_foldl ?_ _ ?_ | apply same_ite | apply_assumption | dsimp only
    | split | intro _ _ _ | intro _ _)

theorem execThermalCapWrite_same {w : List Part} {a s : State} {x0 x1} (h : State.SameBut w a s)
    (hw : [.now, .freeCount, .board, .regs, .guards, .snaps, .mem, .hbmStacks, .fieldReqs, .dmaLost, .ringLost,
      .bells, .loader, .alm, .cue, .mer, .looms, .sieves, .gates, .pairs, .sram, .reeves, .kats, .flight, .ferry, .power, .faults, .restarts, .ledger, .out] ⊆ w) :
    SameOut w a (execThermalCapWrite x0 x1 s) := by
  unfold execThermalCapWrite
  with_reducible repeat' (first
    | apply same_next | exact same_fault _ | exact h | assumption | refine State.busWrite_same ?_ hw
    | refine same_foldl ?_ _ ?_ | apply sameOut_ite | apply same_ite | apply_assumption | dsimp only | split
    | intro _ _ _ | intro _ _)

theorem execRetrain_same {w : List Part} {a s : State} {x0 x1 x2} (h : State.SameBut w a s)
    (hw : [.now, .freeCount, .board, .regs, .guards, .snaps, .mem, .hbmStacks, .fieldReqs, .dmaLost, .ringLost,
      .bells, .loader, .alm, .cue, .mer, .looms, .sieves, .gates, .pairs, .sram, .reeves, .kats, .flight, .ferry, .power, .faults, .restarts, .ledger, .out] ⊆ w) :
    SameOut w a (execRetrain x0 x1 x2 s) := by
  unfold execRetrain
  with_reducible repeat' (first
    | apply same_next | exact same_fault _ | exact h | assumption | refine State.busWrite_same ?_ hw
    | refine same_foldl ?_ _ ?_ | apply sameOut_ite | apply same_ite | apply_assumption | dsimp only | split
    | intro _ _ _ | intro _ _)

theorem execUnmap_same {w : List Part} {a s : State} {x0 x1 x2} (h : State.SameBut w a s)
    (hw : [.now, .freeCount, .board, .regs, .guards, .snaps, .mem, .hbmStacks, .fieldReqs, .dmaLost, .ringLost,
      .bells, .loader, .alm, .cue, .mer, .looms, .sieves, .gates, .pairs, .sram, .reeves, .kats, .flight, .ferry, .power, .faults, .restarts, .ledger, .out] ⊆ w) :
    SameOut w a (execUnmap x0 x1 x2 s) := by
  unfold execUnmap
  with_reducible repeat' (first
    | apply same_next | exact same_fault _ | exact h | assumption | refine State.busWrite_same ?_ hw
    | refine same_foldl ?_ _ ?_ | apply sameOut_ite | apply same_ite | apply_assumption | dsimp only | split
    | intro _ _ _ | intro _ _)

theorem execSqSnapAll_same {w : List Part} {a s : State} {x0 x1} (h : State.SameBut w a s)
    (hw : [.now, .freeCount, .board, .regs, .guards, .snaps, .mem, .hbmStacks, .fieldReqs, .dmaLost, .ringLost,
      .bells, .loader, .alm, .cue, .mer, .looms, .sieves, .gates, .pairs, .sram, .reeves, .kats, .flight, .ferry, .power, .faults, .restarts, .ledger, .out] ⊆ w) :
    SameOut w a (execSqSnapAll x0 x1 s) := by
  unfold execSqSnapAll
  with_reducible repeat' (first
    | apply same_next | exact same_fault _ | exact h | assumption | refine State.busWrite_same ?_ hw
    | refine same_foldl ?_ _ ?_ | apply sameOut_ite | apply same_ite | apply_assumption | dsimp only | split
    | intro _ _ _ | intro _ _)

theorem execMerFrameNextLo_same {w : List Part} {a s : State} {x0 x1} (h : State.SameBut w a s)
    (hw : [.now, .freeCount, .board, .regs, .guards, .snaps, .mem, .hbmStacks, .fieldReqs, .dmaLost, .ringLost,
      .bells, .loader, .alm, .cue, .mer, .looms, .sieves, .gates, .pairs, .sram, .reeves, .kats, .flight, .ferry, .power, .faults, .restarts, .ledger, .out] ⊆ w) :
    SameOut w a (execMerFrameNextLo x0 x1 s) := by
  unfold execMerFrameNextLo
  with_reducible repeat' (first
    | apply same_next | exact same_fault _ | exact h | assumption | refine State.busWrite_same ?_ hw
    | refine same_foldl ?_ _ ?_ | apply sameOut_ite | apply same_ite | apply_assumption | dsimp only | split
    | intro _ _ _ | intro _ _)

theorem execDieCmdWrite_same {w : List Part} {a s : State} {x0 x1} (h : State.SameBut w a s)
    (hw : [.now, .freeCount, .board, .regs, .guards, .snaps, .mem, .hbmStacks, .fieldReqs, .dmaLost, .ringLost,
      .bells, .loader, .alm, .cue, .mer, .looms, .sieves, .gates, .pairs, .sram, .reeves, .kats, .flight, .ferry, .power, .faults, .restarts, .ledger, .out] ⊆ w) :
    SameOut w a (execDieCmdWrite x0 x1 s) := by
  unfold execDieCmdWrite
  with_reducible repeat' (first
    | apply same_next | exact same_fault _ | exact h | assumption | refine State.busWrite_same ?_ hw
    | refine same_foldl ?_ _ ?_ | apply sameOut_ite | apply same_ite | apply_assumption | dsimp only | split
    | intro _ _ _ | intro _ _)

theorem execRouteCmdLoad_same {w : List Part} {a s : State} {x0} (h : State.SameBut w a s)
    (hw : [.now, .freeCount, .board, .regs, .guards, .snaps, .mem, .hbmStacks, .fieldReqs, .dmaLost, .ringLost,
      .bells, .loader, .alm, .cue, .mer, .looms, .sieves, .gates, .pairs, .sram, .reeves, .kats, .flight, .ferry, .power, .faults, .restarts, .ledger, .out] ⊆ w) :
    SameOut w a (execRouteCmdLoad x0 s) := by
  unfold execRouteCmdLoad
  with_reducible repeat' (first
    | apply same_next | exact same_fault _ | exact h | assumption | refine State.busWrite_same ?_ hw
    | refine same_foldl ?_ _ ?_ | apply sameOut_ite | apply same_ite | apply_assumption | dsimp only | split
    | intro _ _ _ | intro _ _)

theorem execDmaCtrlWrite_same {w : List Part} {a s : State} {x0 x1 x2 x3} (h : State.SameBut w a s)
    (hw : [.now, .freeCount, .board, .regs, .guards, .snaps, .mem, .hbmStacks, .fieldReqs, .dmaLost, .ringLost,
      .bells, .loader, .alm, .cue, .mer, .looms, .sieves, .gates, .pairs, .sram, .reeves, .kats, .flight, .ferry, .power, .faults, .restarts, .ledger, .out] ⊆ w) :
    SameOut w a (execDmaCtrlWrite x0 x1 x2 x3 s) := by
  unfold execDmaCtrlWrite
  with_reducible repeat' (first
    | apply same_next | exact same_fault _ | exact h | assumption | refine State.busWrite_same ?_ hw
    | refine same_foldl ?_ _ ?_ | apply sameOut_ite | apply same_ite | apply_assumption | dsimp only | split
    | intro _ _ _ | intro _ _)

theorem execUnbind_same {w : List Part} {a s : State} {x0} (h : State.SameBut w a s)
    (hw : [.now, .freeCount, .board, .regs, .guards, .snaps, .mem, .hbmStacks, .fieldReqs, .dmaLost, .ringLost,
      .bells, .loader, .alm, .cue, .mer, .looms, .sieves, .gates, .pairs, .sram, .reeves, .kats, .flight, .ferry, .power, .faults, .restarts, .ledger, .out] ⊆ w) :
    SameOut w a (execUnbind x0 s) := by
  unfold execUnbind
  with_reducible repeat' (first
    | apply same_next | exact same_fault _ | exact h | assumption | refine State.busWrite_same ?_ hw
    | refine same_foldl ?_ _ ?_ | apply sameOut_ite | apply same_ite | apply_assumption | dsimp only | split
    | intro _ _ _ | intro _ _)

theorem execSnapCtrlTake_same {w : List Part} {a s : State} {x0 x1 x2} (h : State.SameBut w a s)
    (hw : [.now, .freeCount, .board, .regs, .guards, .snaps, .mem, .hbmStacks, .fieldReqs, .dmaLost, .ringLost,
      .bells, .loader, .alm, .cue, .mer, .looms, .sieves, .gates, .pairs, .sram, .reeves, .kats, .flight, .ferry, .power, .faults, .restarts, .ledger, .out] ⊆ w) :
    SameOut w a (execSnapCtrlTake x0 x1 x2 s) := by
  unfold execSnapCtrlTake
  with_reducible repeat' (first
    | apply same_next | exact same_fault _ | exact h | assumption | refine State.busWrite_same ?_ hw
    | refine same_foldl ?_ _ ?_ | apply sameOut_ite | apply same_ite | apply_assumption | dsimp only | split
    | intro _ _ _ | intro _ _)

theorem execFaultFenceWrite_same {w : List Part} {a s : State} {x0 x1} (h : State.SameBut w a s)
    (hw : [.now, .freeCount, .board, .regs, .guards, .snaps, .mem, .hbmStacks, .fieldReqs, .dmaLost, .ringLost,
      .bells, .loader, .alm, .cue, .mer, .looms, .sieves, .gates, .pairs, .sram, .reeves, .kats, .flight, .ferry, .power, .faults, .restarts, .ledger, .out] ⊆ w) :
    SameOut w a (execFaultFenceWrite x0 x1 s) := by
  unfold execFaultFenceWrite
  with_reducible repeat' (first
    | apply same_next | exact same_fault _ | exact h | assumption | refine State.busWrite_same ?_ hw
    | refine same_foldl ?_ _ ?_ | apply sameOut_ite | apply same_ite | apply_assumption | dsimp only | split
    | intro _ _ _ | intro _ _)

theorem execSetViewWrite_same {w : List Part} {a s : State} {x0 x1 x2} (h : State.SameBut w a s)
    (hw : [.now, .freeCount, .board, .regs, .guards, .snaps, .mem, .hbmStacks, .fieldReqs, .dmaLost, .ringLost,
      .bells, .loader, .alm, .cue, .mer, .looms, .sieves, .gates, .pairs, .sram, .reeves, .kats, .flight, .ferry, .power, .faults, .restarts, .ledger, .out] ⊆ w) :
    SameOut w a (execSetViewWrite x0 x1 x2 s) := by
  unfold execSetViewWrite
  with_reducible repeat' (first
    | apply same_next | exact same_fault _ | exact h | assumption | refine State.writeCmd_same ?_ hw
    | refine same_foldl ?_ _ ?_ | apply sameOut_ite | apply same_ite | apply_assumption | dsimp only | split
    | intro _ _ _ | intro _ _)

theorem execNightwatchRequest_same {w : List Part} {a s : State} {x0} (h : State.SameBut w a s)
    (hw : [.now, .freeCount, .board, .regs, .guards, .snaps, .mem, .hbmStacks, .fieldReqs, .dmaLost, .ringLost,
      .bells, .loader, .alm, .cue, .mer, .looms, .sieves, .gates, .pairs, .sram, .reeves, .kats, .flight, .ferry, .power, .faults, .restarts, .ledger, .out] ⊆ w) :
    SameOut w a (execNightwatchRequest x0 s) := by
  unfold execNightwatchRequest
  with_reducible repeat' (first
    | apply same_next | exact same_fault _ | exact h | assumption | refine State.busWrite_same ?_ hw
    | refine same_foldl ?_ _ ?_ | apply sameOut_ite | apply same_ite | apply_assumption | dsimp only | split
    | intro _ _ _ | intro _ _)

theorem execClearViewWrite_same {w : List Part} {a s : State} {x0 x1 x2} (h : State.SameBut w a s)
    (hw : [.now, .freeCount, .board, .regs, .guards, .snaps, .mem, .hbmStacks, .fieldReqs, .dmaLost, .ringLost,
      .bells, .loader, .alm, .cue, .mer, .looms, .sieves, .gates, .pairs, .sram, .reeves, .kats, .flight, .ferry, .power, .faults, .restarts, .ledger, .out] ⊆ w) :
    SameOut w a (execClearViewWrite x0 x1 x2 s) := by
  unfold execClearViewWrite
  with_reducible repeat' (first
    | apply same_next | exact same_fault _ | exact h | assumption | refine State.writeCmd_same ?_ hw
    | refine same_foldl ?_ _ ?_ | apply sameOut_ite | apply same_ite | apply_assumption | dsimp only | split
    | intro _ _ _ | intro _ _)

theorem execCueDataWrite_same {w : List Part} {a s : State} {x0 x1} (h : State.SameBut w a s)
    (hw : [.now, .freeCount, .board, .regs, .guards, .snaps, .mem, .hbmStacks, .fieldReqs, .dmaLost, .ringLost,
      .bells, .loader, .alm, .cue, .mer, .looms, .sieves, .gates, .pairs, .sram, .reeves, .kats, .flight, .ferry, .power, .faults, .restarts, .ledger, .out] ⊆ w) :
    SameOut w a (execCueDataWrite x0 x1 s) := by
  unfold execCueDataWrite
  with_reducible repeat' (first
    | apply same_next | exact same_fault _ | exact h | assumption | refine State.busWrite_same ?_ hw
    | refine same_foldl ?_ _ ?_ | apply sameOut_ite | apply same_ite | apply_assumption | dsimp only | split
    | intro _ _ _ | intro _ _)

theorem execMerCtrlSourceWrite_same {w : List Part} {a s : State} {x0 x1} (h : State.SameBut w a s)
    (hw : [.now, .freeCount, .board, .regs, .guards, .snaps, .mem, .hbmStacks, .fieldReqs, .dmaLost, .ringLost,
      .bells, .loader, .alm, .cue, .mer, .looms, .sieves, .gates, .pairs, .sram, .reeves, .kats, .flight, .ferry, .power, .faults, .restarts, .ledger, .out] ⊆ w) :
    SameOut w a (execMerCtrlSourceWrite x0 x1 s) := by
  unfold execMerCtrlSourceWrite
  with_reducible repeat' (first
    | apply same_next | exact same_fault _ | exact h | assumption | refine State.busWrite_same ?_ hw
    | refine same_foldl ?_ _ ?_ | apply sameOut_ite | apply same_ite | apply_assumption | dsimp only | split
    | intro _ _ _ | intro _ _)

theorem execPowerCapWrite_same {w : List Part} {a s : State} {x0 x1} (h : State.SameBut w a s)
    (hw : [.now, .freeCount, .board, .regs, .guards, .snaps, .mem, .hbmStacks, .fieldReqs, .dmaLost, .ringLost,
      .bells, .loader, .alm, .cue, .mer, .looms, .sieves, .gates, .pairs, .sram, .reeves, .kats, .flight, .ferry, .power, .faults, .restarts, .ledger, .out] ⊆ w) :
    SameOut w a (execPowerCapWrite x0 x1 s) := by
  unfold execPowerCapWrite
  with_reducible repeat' (first
    | apply same_next | exact same_fault _ | exact h | assumption | refine State.busWrite_same ?_ hw
    | refine same_foldl ?_ _ ?_ | apply sameOut_ite | apply same_ite | apply_assumption | dsimp only | split
    | intro _ _ _ | intro _ _)

theorem execRingTail_same {w : List Part} {a s : State} {x0 x1 x2} (h : State.SameBut w a s)
    (hw : [.now, .freeCount, .board, .regs, .guards, .snaps, .mem, .hbmStacks, .fieldReqs, .dmaLost, .ringLost,
      .bells, .loader, .alm, .cue, .mer, .looms, .sieves, .gates, .pairs, .sram, .reeves, .kats, .flight, .ferry, .power, .faults, .restarts, .ledger, .out] ⊆ w) :
    SameOut w a (execRingTail x0 x1 x2 s) := by
  unfold execRingTail
  with_reducible repeat' (first
    | apply same_next | exact same_fault _ | exact h | assumption | refine State.busWrite_same ?_ hw
    | refine same_foldl ?_ _ ?_ | apply sameOut_ite | apply same_ite | apply_assumption | dsimp only | split
    | intro _ _ _ | intro _ _)

theorem execCmplHead_same {w : List Part} {a s : State} {x0 x1 x2} (h : State.SameBut w a s)
    (hw : [.now, .freeCount, .board, .regs, .guards, .snaps, .mem, .hbmStacks, .fieldReqs, .dmaLost, .ringLost,
      .bells, .loader, .alm, .cue, .mer, .looms, .sieves, .gates, .pairs, .sram, .reeves, .kats, .flight, .ferry, .power, .faults, .restarts, .ledger, .out] ⊆ w) :
    SameOut w a (execCmplHead x0 x1 x2 s) := by
  unfold execCmplHead
  with_reducible repeat' (first
    | apply same_next | exact same_fault _ | exact h | assumption | refine State.busWrite_same ?_ hw
    | refine same_foldl ?_ _ ?_ | apply sameOut_ite | apply same_ite | apply_assumption | dsimp only | split
    | intro _ _ _ | intro _ _)

theorem execRingCtrlWrite_same {w : List Part} {a s : State} {x0 x1 x2} (h : State.SameBut w a s)
    (hw : [.now, .freeCount, .board, .regs, .guards, .snaps, .mem, .hbmStacks, .fieldReqs, .dmaLost, .ringLost,
      .bells, .loader, .alm, .cue, .mer, .looms, .sieves, .gates, .pairs, .sram, .reeves, .kats, .flight, .ferry, .power, .faults, .restarts, .ledger, .out] ⊆ w) :
    SameOut w a (execRingCtrlWrite x0 x1 x2 s) := by
  unfold execRingCtrlWrite
  with_reducible repeat' (first
    | apply same_next | exact same_fault _ | exact h | assumption | refine State.busWrite_same ?_ hw
    | refine same_foldl ?_ _ ?_ | apply sameOut_ite | apply same_ite | apply_assumption | dsimp only | split
    | intro _ _ _ | intro _ _)

theorem execMap_same {w : List Part} {a s : State} {x0 x1 x2} (h : State.SameBut w a s)
    (hw : [.now, .freeCount, .board, .regs, .guards, .snaps, .mem, .hbmStacks, .fieldReqs, .dmaLost, .ringLost,
      .bells, .loader, .alm, .cue, .mer, .looms, .sieves, .gates, .pairs, .sram, .reeves, .kats, .flight, .ferry, .power, .faults, .restarts, .ledger, .out] ⊆ w) :
    SameOut w a (execMap x0 x1 x2 s) := by
  unfold execMap
  with_reducible repeat' (first
    | apply same_next | exact same_fault _ | exact h | assumption | refine State.busWrite_same ?_ hw
    | refine same_foldl ?_ _ ?_ | apply sameOut_ite | apply same_ite | apply_assumption | dsimp only | split
    | intro _ _ _ | intro _ _)

theorem execAlmCtrlWrite_same {w : List Part} {a s : State} {x0 x1} (h : State.SameBut w a s)
    (hw : [.now, .freeCount, .board, .regs, .guards, .snaps, .mem, .hbmStacks, .fieldReqs, .dmaLost, .ringLost,
      .bells, .loader, .alm, .cue, .mer, .looms, .sieves, .gates, .pairs, .sram, .reeves, .kats, .flight, .ferry, .power, .faults, .restarts, .ledger, .out] ⊆ w) :
    SameOut w a (execAlmCtrlWrite x0 x1 s) := by
  unfold execAlmCtrlWrite
  with_reducible repeat' (first
    | apply same_next | exact same_fault _ | exact h | assumption | refine State.busWrite_same ?_ hw
    | refine same_foldl ?_ _ ?_ | apply sameOut_ite | apply same_ite | apply_assumption | dsimp only | split
    | intro _ _ _ | intro _ _)

theorem execBind_same {w : List Part} {a s : State} {x0} (h : State.SameBut w a s)
    (hw : [.now, .freeCount, .board, .regs, .guards, .snaps, .mem, .hbmStacks, .fieldReqs, .dmaLost, .ringLost,
      .bells, .loader, .alm, .cue, .mer, .looms, .sieves, .gates, .pairs, .sram, .reeves, .kats, .flight, .ferry, .power, .faults, .restarts, .ledger, .out] ⊆ w) :
    SameOut w a (execBind x0 s) := by
  unfold execBind
  with_reducible repeat' (first
    | apply same_next | exact same_fault _ | exact h | assumption | refine State.busWrite_same ?_ hw
    | refine same_foldl ?_ _ ?_ | apply sameOut_ite | apply same_ite | apply_assumption | dsimp only | split
    | intro _ _ _ | intro _ _)

theorem execFfKatStart_same {w : List Part} {a s : State} {x0 x1 x2} (h : State.SameBut w a s)
    (hw : [.now, .freeCount, .board, .regs, .guards, .snaps, .mem, .hbmStacks, .fieldReqs, .dmaLost, .ringLost,
      .bells, .loader, .alm, .cue, .mer, .looms, .sieves, .gates, .pairs, .sram, .reeves, .kats, .flight, .ferry, .power, .faults, .restarts, .ledger, .out] ⊆ w) :
    SameOut w a (execFfKatStart x0 x1 x2 s) := by
  unfold execFfKatStart
  with_reducible repeat' (first
    | apply same_next | exact same_fault _ | exact h | assumption | refine State.busWrite_same ?_ hw
    | refine same_foldl ?_ _ ?_ | apply sameOut_ite | apply same_ite | apply_assumption | dsimp only | split
    | intro _ _ _ | intro _ _)

theorem execFfKatDone_same {w : List Part} {a s : State} {x0 x1} (h : State.SameBut w a s)
    (hw : [.regs, .kats] ⊆ w) :
    SameOut w a (execFfKatDone x0 x1 s) := by
  unfold execFfKatDone
  with_reducible repeat' (first
    | apply same_next | exact same_fault _ | exact h | assumption
    | refine State.withKats_same ?_ (Part.sub (by decide) hw) | refine State.setFld_same ?_ (Part.sub (by decide) hw)
    | refine same_foldl ?_ _ ?_ | apply sameOut_ite | apply same_ite | apply_assumption | dsimp only | split
    | intro _ _ _ | intro _ _)

theorem execRegisterWrite_same {w : List Part} {a s : State} {x0 x1 x2} (h : State.SameBut w a s)
    (hw : [.now, .freeCount, .board, .regs, .guards, .snaps, .mem, .hbmStacks, .fieldReqs, .dmaLost, .ringLost,
      .bells, .loader, .alm, .cue, .mer, .looms, .sieves, .gates, .pairs, .sram, .reeves, .kats, .flight, .ferry, .power, .faults, .restarts, .ledger, .out] ⊆ w) :
    SameOut w a (execRegisterWrite x0 x1 x2 s) := by
  unfold execRegisterWrite
  with_reducible repeat' (first
    | apply same_next | exact same_fault _ | exact h | assumption | refine State.writeCmd_same ?_ hw
    | refine same_foldl ?_ _ ?_ | apply sameOut_ite | apply same_ite | apply_assumption | dsimp only | split
    | intro _ _ _ | intro _ _)

end Sys2Proof.Machine
end

