-- ==== Sys2Proof/Laws/SameGate.lean ====
section
/-! SUPPORT. What the definitions of Machine/Gate.lean change (State.SameBut). -/

namespace Sys2Proof.Machine

theorem State.gateDone_same {w : List Part} {a s : State} {x0 x1 x2 x3} (h : State.SameBut w a s)
    (hw : [.regs, .sram, .out] ⊆ w) :
    State.SameBut w a (State.gateDone s x0 x1 x2 x3) := by
  unfold State.gateDone
  with_reducible repeat' (first
    | exact h | assumption | refine State.setTdata_same ?_ (Part.sub (by decide) hw)
    | refine State.events_same ?_ (Part.sub (by decide) hw) | refine State.bump_same ?_ (Part.sub (by decide) hw)
    | refine same_foldl ?_ _ ?_ | apply same_ite | apply_assumption | dsimp only | split | intro _ _ _ | intro _ _)

theorem State.cscInOp_same {w : List Part} {a s : State} {x0 x1} (h : State.SameBut w a s)
    (hw : [.regs, .sram, .out] ⊆ w) :
    SameOpt w a (State.cscInOp s x0 x1) := by
  unfold State.cscInOp
  with_reducible repeat' (first
    | apply sameOpt_some | exact sameOpt_none | exact h | assumption | refine State.gateDone_same ?_ hw
    | refine same_foldl ?_ _ ?_ | apply sameOpt_ite | refine sameOpt_map ?_ ?_ | refine sameOpt_bind ?_ ?_ | intro _ _
    | apply same_ite | apply_assumption | dsimp only | split | intro _ _ _ | intro _ _)

theorem State.gatePop_same {w : List Part} {a s : State} {x0} (h : State.SameBut w a s)
    (hw : [.regs, .gates] ⊆ w) :
    State.SameBut w a (State.gatePop s x0) := by
  unfold State.gatePop
  with_reducible repeat' (first
    | exact h | assumption | refine State.bump64_same ?_ (Part.sub (by decide) hw)
    | refine State.setGate_same ?_ (Part.sub (by decide) hw) | refine same_foldl ?_ _ ?_ | apply same_ite
    | apply_assumption | dsimp only | split | intro _ _ _ | intro _ _)

theorem State.cscOutOp_same {w : List Part} {a s : State} {x0 x1} (h : State.SameBut w a s)
    (hw : [.regs, .sram, .out] ⊆ w) :
    SameOpt w a (State.cscOutOp s x0 x1) := by
  unfold State.cscOutOp
  with_reducible repeat' (first
    | apply sameOpt_some | exact sameOpt_none | exact h | assumption | refine State.gateDone_same ?_ hw
    | refine same_foldl ?_ _ ?_ | apply sameOpt_ite | refine sameOpt_map ?_ ?_ | refine sameOpt_bind ?_ ?_ | intro _ _
    | apply same_ite | apply_assumption | dsimp only | split | intro _ _ _ | intro _ _)

theorem State.gateRun_same {w : List Part} {a s : State} {d op f} (h : State.SameBut w a s) (hw : [.regs, .gates, .faults] ⊆ w)
    (hf : ∀ c x, SameOpt w a (f c x)) : State.SameBut w a (State.gateRun s d op f) := by
  unfold State.gateRun
  with_reducible repeat' (first
    | assumption | refine State.gatePop_same ?_ (Part.sub (by decide) hw) | refine State.checkFault_same ?_ (Part.sub (by decide) hw)
    | refine State.setGate_same ?_ (Part.sub (by decide) hw) | apply same_ite | dsimp only | split
    | refine sameOpt_elim (by assumption) (sameOpt_bindV fun c => hf c _))

theorem State.gateHold_same {w : List Part} {a s : State} {x0} (h : State.SameBut w a s)
    (hw : [.regs, .looms, .sieves, .gates, .pairs, .faults] ⊆ w) :
    State.SameBut w a (State.gateHold s x0) := by
  unfold State.gateHold
  with_reducible repeat' (first
    | exact h | assumption | refine State.errorWait_same ?_ (Part.sub (by decide) hw)
    | refine State.setGate_same ?_ (Part.sub (by decide) hw)
    | refine State.gateRun_same ?_ (Part.sub (by decide) hw) ?_ | refine same_foldl ?_ _ ?_ | apply sameOpt_some
    | exact sameOpt_none | apply same_ite | apply_assumption | dsimp only | split | intro _ _ _ | intro _ _)

theorem execCscOut_same {w : List Part} {a s : State} {x0} (h : State.SameBut w a s)
    (hw : [.regs, .gates, .sram, .faults, .out] ⊆ w) :
    SameOut w a (execCscOut x0 s) := by
  unfold execCscOut
  with_reducible repeat' (first
    | apply same_next | exact same_fault _ | exact h | assumption
    | refine State.gateRun_same ?_ (Part.sub (by decide) hw) ?_
    | refine sameOpt_elim (by assumption) (State.cscOutOp_same ?_ (Part.sub (by decide) hw))
    | refine State.cscOutOp_same ?_ (Part.sub (by decide) hw) | refine same_foldl ?_ _ ?_ | apply sameOut_ite
    | apply sameOpt_some | exact sameOpt_none | apply same_ite | apply_assumption | dsimp only | split | intro _ _ _
    | intro _ _)

theorem execGateWait_same {w : List Part} {a s : State} {x0} (h : State.SameBut w a s)
    (hw : [.regs, .looms, .sieves, .gates, .pairs, .faults] ⊆ w) :
    SameOut w a (execGateWait x0 s) := by
  unfold execGateWait
  with_reducible repeat' (first
    | apply same_next | exact same_fault _ | exact h | assumption | refine State.gateHold_same ?_ hw
    | refine same_foldl ?_ _ ?_ | apply sameOut_ite | apply same_ite | apply_assumption | dsimp only | split
    | intro _ _ _ | intro _ _)

theorem execCscIn_same {w : List Part} {a s : State} {x0} (h : State.SameBut w a s)
    (hw : [.regs, .gates, .sram, .faults, .out] ⊆ w) :
    SameOut w a (execCscIn x0 s) := by
  unfold execCscIn
  with_reducible repeat' (first
    | apply same_next | exact same_fault _ | exact h | assumption
    | refine State.gateRun_same ?_ (Part.sub (by decide) hw) ?_
    | refine sameOpt_elim (by assumption) (State.cscInOp_same ?_ (Part.sub (by decide) hw))
    | refine State.cscInOp_same ?_ (Part.sub (by decide) hw) | refine same_foldl ?_ _ ?_ | apply sameOut_ite
    | apply sameOpt_some | exact sameOpt_none | apply same_ite | apply_assumption | dsimp only | split | intro _ _ _
    | intro _ _)

theorem State.convOp_same {w : List Part} {a s : State} {x0 x1} (h : State.SameBut w a s)
    (hw : [.regs, .sram, .out] ⊆ w) :
    SameOpt w a (State.convOp s x0 x1) := by
  unfold State.convOp
  with_reducible repeat' (first
    | apply sameOpt_some | exact sameOpt_none | exact h | assumption | refine State.gateDone_same ?_ hw
    | refine same_foldl ?_ _ ?_ | apply sameOpt_ite | refine sameOpt_map ?_ ?_ | refine sameOpt_bind ?_ ?_ | intro _ _
    | apply same_ite | apply_assumption | dsimp only | split | intro _ _ _ | intro _ _)

theorem execGateSignal_same {w : List Part} {a s : State} {x0} (h : State.SameBut w a s)
    (hw : [.regs, .bells, .looms, .sieves, .gates, .pairs, .faults, .out] ⊆ w) :
    SameOut w a (execGateSignal x0 s) := by
  unfold execGateSignal
  with_reducible repeat' (first
    | apply same_next | exact same_fault _ | exact h | assumption
    | refine State.gateRun_same ?_ (Part.sub (by decide) hw) ?_ | refine State.unitSignal_same ?_ hw
    | refine same_foldl ?_ _ ?_ | apply sameOut_ite | apply sameOpt_some | exact sameOpt_none | apply same_ite
    | apply_assumption | dsimp only | split | intro _ _ _ | intro _ _)

theorem execGateNop_same {w : List Part} {a s : State} {x0} (h : State.SameBut w a s)
    (hw : [.regs, .gates, .faults] ⊆ w) :
    SameOut w a (execGateNop x0 s) := by
  unfold execGateNop
  with_reducible repeat' (first
    | apply same_next | exact same_fault _ | exact h | assumption | refine State.gateRun_same ?_ hw ?_
    | refine same_foldl ?_ _ ?_ | apply sameOut_ite | apply sameOpt_some | exact sameOpt_none | apply same_ite
    | apply_assumption | dsimp only | split | intro _ _ _ | intro _ _)

theorem execConv_same {w : List Part} {a s : State} {x0} (h : State.SameBut w a s)
    (hw : [.regs, .gates, .sram, .faults, .out] ⊆ w) :
    SameOut w a (execConv x0 s) := by
  unfold execConv
  with_reducible repeat' (first
    | apply same_next | exact same_fault _ | exact h | assumption
    | refine State.gateRun_same ?_ (Part.sub (by decide) hw) ?_
    | refine sameOpt_elim (by assumption) (State.convOp_same ?_ (Part.sub (by decide) hw))
    | refine State.convOp_same ?_ (Part.sub (by decide) hw) | refine same_foldl ?_ _ ?_ | apply sameOut_ite
    | apply sameOpt_some | exact sameOpt_none | apply same_ite | apply_assumption | dsimp only | split | intro _ _ _
    | intro _ _)

end Sys2Proof.Machine
end

