-- ==== Sys2Proof/Laws/SameLoad.lean ====
section
/-! SUPPORT. What the definitions of Machine/Load.lean change (State.SameBut). -/

namespace Sys2Proof.Machine

theorem State.load_same {w : List Part} {a s : State} {x0 x1 x2 x3} (h : State.SameBut w a s)
    (hw : [.loader] ⊆ w) :
    ∀ n t, State.load s x0 x1 x2 x3 = .ok (n, t) → State.SameBut w a t := by
  intro n t e
  unfold State.load at e
  repeat' split at e
  all_goals cases e
  exact State.withLoader_same h (Part.sub (by decide) hw)

end Sys2Proof.Machine
end

