-- ==== Sys2Proof/Laws/SameLooms.lean ====
section
/-! SUPPORT. What the definitions of Machine/Looms.lean change (State.SameBut). -/

namespace Sys2Proof.Machine

theorem drainParts_same {w : List Part} {a s : State} {x0 x1 x2 x3 x4 x5 x6 x7} (h : State.SameBut w a s)
    (hw : [.sram] ⊆ w) :
    State.SameBut w a (drainParts x0 x1 x2 x3 x4 x5 x6 x7 s) := by
  fun_induction drainParts x0 x1 x2 x3 x4 x5 x6 x7 s
  with_reducible repeat' (first
    | exact h | assumption | refine State.setTdata_same ?_ hw | refine same_foldl ?_ _ ?_ | apply same_ite
    | apply_assumption | dsimp only | split | intro _ _ _ | intro _ _)

theorem State.drainToSieve_same {w : List Part} {a s : State} {x0 x1 x2 x3 x4} (h : State.SameBut w a s)
    (hw : [.sram] ⊆ w) :
    State.SameBut w a (State.drainToSieve s x0 x1 x2 x3 x4) := by
  unfold State.drainToSieve
  with_reducible repeat' (first
    | exact h | assumption | refine drainParts_same ?_ hw | refine same_foldl ?_ _ ?_ | apply same_ite
    | apply_assumption | dsimp only | split | intro _ _ _ | intro _ _)

theorem State.drainRow_same {w : List Part} {a s : State} {x0 x1 x2} (h : State.SameBut w a s)
    (hw : [.regs, .looms, .sram, .faults] ⊆ w) :
    State.SameBut w a (State.drainRow s x0 x1 x2) := by
  unfold State.drainRow
  with_reducible repeat' (first
    | exact h | assumption | refine State.drainToSieve_same ?_ (Part.sub (by decide) hw)
    | refine State.setLoom_same ?_ (Part.sub (by decide) hw)
    | refine State.checkFault_same ?_ (Part.sub (by decide) hw) | refine same_foldl ?_ _ ?_ | apply same_ite
    | apply_assumption | dsimp only | split | intro _ _ _ | intro _ _)

theorem drainHalf_same {w : List Part} {a s : State} {x0 x1 x2 x3 x4} (h : State.SameBut w a s)
    (hw : [.regs, .looms, .sram, .faults] ⊆ w) :
    State.SameBut w a (drainHalf x0 x1 x2 x3 x4 s) := by
  fun_induction drainHalf x0 x1 x2 x3 x4 s
  with_reducible repeat' (first
    | exact h | assumption | refine State.drainRow_same ?_ hw | refine same_foldl ?_ _ ?_ | apply same_ite
    | apply_assumption | dsimp only | split | intro _ _ _ | intro _ _)

theorem State.passFlip_same {w : List Part} {a s : State} {x0 x1 x2 x3 x4} (h : State.SameBut w a s)
    (hw : [.regs, .looms, .sram, .faults] ⊆ w) :
    State.SameBut w a (State.passFlip s x0 x1 x2 x3 x4) := by
  unfold State.passFlip
  with_reducible repeat' (first
    | exact h | assumption | refine drainHalf_same ?_ hw | refine State.setLoom_same ?_ (Part.sub (by decide) hw)
    | refine same_foldl ?_ _ ?_ | apply same_ite | apply_assumption | dsimp only | split | intro _ _ _ | intro _ _)

theorem State.hearthFill_same {w : List Part} {a s : State} {x0 x1 x2 x3} (h : State.SameBut w a s)
    (hw : [.regs, .out] ⊆ w) :
    State.SameBut w a (State.hearthFill s x0 x1 x2 x3) := by
  unfold State.hearthFill
  with_reducible repeat' (first
    | exact h | assumption | refine State.events_same ?_ hw | refine same_foldl ?_ _ ?_ | apply same_ite
    | apply_assumption | dsimp only | split | intro _ _ _ | intro _ _)

theorem execRampDown_same {w : List Part} {a s : State} {x0 x1 x2} (h : State.SameBut w a s)
    (hw : [.regs, .looms, .out] ⊆ w) :
    SameOut w a (execRampDown x0 x1 x2 s) := by
  unfold execRampDown
  with_reducible repeat' (first
    | apply same_next | exact same_fault _ | exact h | assumption
    | refine State.hearthFill_same ?_ (Part.sub (by decide) hw)
    | refine State.setLoom_same ?_ (Part.sub (by decide) hw) | refine same_foldl ?_ _ ?_ | apply sameOut_ite
    | apply same_ite | apply_assumption | dsimp only | split | intro _ _ _ | intro _ _)

theorem State.loomReject_same {w : List Part} {a s : State} {x0 x1 x2 x3 x4} (h : State.SameBut w a s)
    (hw : [.regs, .looms, .faults] ⊆ w) :
    State.SameBut w a (State.loomReject s x0 x1 x2 x3 x4) := by
  unfold State.loomReject
  with_reducible repeat' (first
    | exact h | assumption | refine State.checkFault_same ?_ (Part.sub (by decide) hw)
    | refine State.setLoom_same ?_ (Part.sub (by decide) hw) | refine same_foldl ?_ _ ?_ | apply same_ite
    | apply_assumption | dsimp only | split | intro _ _ _ | intro _ _)

theorem maskRows_same {w : List Part} {a s : State} {x0 x1 x2 x3 x4} (h : State.SameBut w a s)
    (hw : [.sram] ⊆ w) :
    State.SameBut w a (maskRows x0 x1 x2 x3 x4 s) := by
  fun_induction maskRows x0 x1 x2 x3 x4 s
  with_reducible repeat' (first
    | exact h | assumption | refine State.drainToSieve_same ?_ hw | refine same_foldl ?_ _ ?_ | apply same_ite
    | apply_assumption | dsimp only | split | intro _ _ _ | intro _ _)

theorem State.passSkip_same {w : List Part} {a s : State} {x0 x1 x2 x3} (h : State.SameBut w a s)
    (hw : [.regs, .bells, .looms, .sieves, .gates, .pairs, .sram, .faults, .out] ⊆ w) :
    State.SameBut w a (State.passSkip s x0 x1 x2 x3) := by
  unfold State.passSkip
  with_reducible repeat' (first
    | exact h | assumption | refine State.setLoom_same ?_ (Part.sub (by decide) hw)
    | refine maskRows_same ?_ (Part.sub (by decide) hw) | refine State.unitSignal_same ?_ (Part.sub (by decide) hw)
    | refine same_foldl ?_ _ ?_ | apply same_ite | apply_assumption | dsimp only | split | intro _ _ _ | intro _ _)

theorem State.passEnd_same {w : List Part} {a s : State} {x0 x1 x2 x3 x4} (h : State.SameBut w a s)
    (hw : [.regs, .looms, .out] ⊆ w) :
    State.SameBut w a (State.passEnd s x0 x1 x2 x3 x4) := by
  unfold State.passEnd
  with_reducible repeat' (first
    | exact h | assumption | refine State.bump_same ?_ (Part.sub (by decide) hw)
    | refine State.hearthFill_same ?_ (Part.sub (by decide) hw)
    | refine State.setLoom_same ?_ (Part.sub (by decide) hw) | refine same_foldl ?_ _ ?_ | apply same_ite
    | apply_assumption | dsimp only | split | intro _ _ _ | intro _ _)

theorem State.passIssue_same {w : List Part} {a s : State} {x0 x1 x2 x3 x4} (h : State.SameBut w a s)
    (hw : [.regs, .looms, .sram, .faults, .out] ⊆ w) :
    State.SameBut w a (State.passIssue s x0 x1 x2 x3 x4) := by
  unfold State.passIssue
  with_reducible repeat' (first
    | exact h | assumption | refine State.passFlip_same ?_ (Part.sub (by decide) hw)
    | refine State.setLoom_same ?_ (Part.sub (by decide) hw) | refine State.events_same ?_ (Part.sub (by decide) hw)
    | refine State.event_same ?_ (Part.sub (by decide) hw) | refine State.bump_same ?_ (Part.sub (by decide) hw)
    | refine State.passEnd_same ?_ (Part.sub (by decide) hw) | refine same_foldl ?_ _ ?_ | apply same_ite
    | apply_assumption | dsimp only | split | intro _ _ _ | intro _ _)

theorem execPass_same {w : List Part} {a s : State} {x0 x1 x2} (h : State.SameBut w a s)
    (hw : [.regs, .bells, .looms, .sieves, .gates, .pairs, .sram, .faults, .out] ⊆ w) :
    SameOut w a (execPass x0 x1 x2 s) := by
  unfold execPass
  with_reducible repeat' (first
    | apply same_next | exact same_fault _ | exact h | assumption
    | refine State.loomReject_same ?_ (Part.sub (by decide) hw) | refine State.passSkip_same ?_ hw
    | refine State.passIssue_same ?_ (Part.sub (by decide) hw) | refine same_foldl ?_ _ ?_ | apply sameOut_ite
    | apply same_ite | apply_assumption | dsimp only | split | intro _ _ _ | intro _ _)

theorem State.retire_same {w : List Part} {a s : State} {x0 x1 x2 x3} (h : State.SameBut w a s)
    (hw : [.regs, .bells, .looms, .sieves, .gates, .pairs, .faults, .out] ⊆ w) :
    State.SameBut w a (State.retire s x0 x1 x2 x3) := by
  unfold State.retire
  with_reducible repeat' (first
    | exact h | assumption | refine State.bump64_same ?_ (Part.sub (by decide) hw)
    | refine State.setLoom_same ?_ (Part.sub (by decide) hw) | refine State.unitSignal_same ?_ hw
    | refine same_foldl ?_ _ ?_ | apply same_ite | apply_assumption | dsimp only | split | intro _ _ _ | intro _ _)

theorem execInstructionRetire_same {w : List Part} {a s : State} {x0 x1 x2} (h : State.SameBut w a s)
    (hw : [.regs, .bells, .looms, .sieves, .gates, .pairs, .faults, .out] ⊆ w) :
    SameOut w a (execInstructionRetire x0 x1 x2 s) := by
  unfold execInstructionRetire
  with_reducible repeat' (first
    | apply same_next | exact same_fault _ | exact h | assumption | refine State.retire_same ?_ hw
    | refine same_foldl ?_ _ ?_ | apply sameOut_ite | apply same_ite | apply_assumption | dsimp only | split
    | intro _ _ _ | intro _ _)

theorem State.turnMarker_same {w : List Part} {a s : State} {x0 x1 x2} (h : State.SameBut w a s)
    (hw : [.regs, .looms, .out] ⊆ w) :
    State.SameBut w a (State.turnMarker s x0 x1 x2) := by
  unfold State.turnMarker
  with_reducible repeat' (first
    | exact h | assumption | refine State.hearthFill_same ?_ (Part.sub (by decide) hw)
    | refine State.bump_same ?_ (Part.sub (by decide) hw) | refine State.setLoom_same ?_ (Part.sub (by decide) hw)
    | refine same_foldl ?_ _ ?_ | apply same_ite | apply_assumption | dsimp only | split | intro _ _ _ | intro _ _)

theorem State.replay_same {w : List Part} {a s : State} {x0 x1 x2 x3} (h : State.SameBut w a s)
    (hw : [.regs, .looms, .out] ⊆ w) :
    State.SameBut w a (State.replay s x0 x1 x2 x3) := by
  unfold State.replay
  with_reducible repeat' (first
    | exact h | assumption | refine State.setLoom_same ?_ (Part.sub (by decide) hw)
    | refine State.turnMarker_same ?_ hw | refine State.events_same ?_ (Part.sub (by decide) hw)
    | refine State.passEnd_same ?_ hw | refine same_foldl ?_ _ ?_ | apply same_ite | apply_assumption | dsimp only
    | split | intro _ _ _ | intro _ _)

theorem execReplayPass_same {w : List Part} {a s : State} {x0 x1 x2} (h : State.SameBut w a s)
    (hw : [.regs, .looms, .out] ⊆ w) :
    SameOut w a (execReplayPass x0 x1 x2 s) := by
  unfold execReplayPass
  with_reducible repeat' (first
    | apply same_next | exact same_fault _ | exact h | assumption | refine State.replay_same ?_ hw
    | refine same_foldl ?_ _ ?_ | apply sameOut_ite | apply same_ite | apply_assumption | dsimp only | split
    | intro _ _ _ | intro _ _)

theorem execRampStep_same {w : List Part} {a s : State} {x0 x1 x2} (h : State.SameBut w a s)
    (hw : [.looms] ⊆ w) :
    SameOut w a (execRampStep x0 x1 x2 s) := by
  unfold execRampStep
  with_reducible repeat' (first
    | apply same_next | exact same_fault _ | exact h | assumption | refine State.setLoom_same ?_ hw
    | refine same_foldl ?_ _ ?_ | apply sameOut_ite | apply same_ite | apply_assumption | dsimp only | split
    | intro _ _ _ | intro _ _)

theorem execFenceIssue_same {w : List Part} {a s : State} {x0 x1 x2} (h : State.SameBut w a s)
    (hw : [.regs, .bells, .looms, .sieves, .gates, .pairs, .faults, .out] ⊆ w) :
    SameOut w a (execFenceIssue x0 x1 x2 s) := by
  unfold execFenceIssue
  with_reducible repeat' (first
    | apply same_next | exact same_fault _ | exact h | assumption
    | refine State.loomReject_same ?_ (Part.sub (by decide) hw)
    | refine State.setLoom_same ?_ (Part.sub (by decide) hw) | refine State.unitSignal_same ?_ hw
    | refine same_foldl ?_ _ ?_ | apply sameOut_ite | apply same_ite | apply_assumption | dsimp only | split
    | intro _ _ _ | intro _ _)

theorem execRampGrant_same {w : List Part} {a s : State} {x0 x1 x2} (h : State.SameBut w a s)
    (hw : [.now, .regs, .looms, .power, .out] ⊆ w) :
    SameOut w a (execRampGrant x0 x1 x2 s) := by
  unfold execRampGrant
  with_reducible repeat' (first
    | apply same_next | exact same_fault _ | exact h | assumption
    | refine State.withPower_same ?_ (Part.sub (by decide) hw) | refine State.passTo_same ?_ (Part.sub (by decide) hw)
    | refine State.setLoom_same ?_ (Part.sub (by decide) hw) | refine same_foldl ?_ _ ?_ | apply sameOut_ite
    | apply same_ite | apply_assumption | dsimp only | split | intro _ _ _ | intro _ _)

theorem execDrain_same {w : List Part} {a s : State} {x0 x1 x2} (h : State.SameBut w a s)
    (hw : [.regs, .looms, .sram, .faults] ⊆ w) :
    SameOut w a (execDrain x0 x1 x2 s) := by
  unfold execDrain
  with_reducible repeat' (first
    | apply same_next | exact same_fault _ | exact h | assumption | refine State.drainRow_same ?_ hw
    | refine same_foldl ?_ _ ?_ | apply sameOut_ite | apply same_ite | apply_assumption | dsimp only | split
    | intro _ _ _ | intro _ _)

theorem execRampUp_same {w : List Part} {a s : State} {x0 x1 x2} (h : State.SameBut w a s)
    (hw : [.looms] ⊆ w) :
    SameOut w a (execRampUp x0 x1 x2 s) := by
  unfold execRampUp
  with_reducible repeat' (first
    | apply same_next | exact same_fault _ | exact h | assumption | refine State.setLoom_same ?_ hw
    | refine same_foldl ?_ _ ?_ | apply sameOut_ite | apply same_ite | apply_assumption | dsimp only | split
    | intro _ _ _ | intro _ _)

end Sys2Proof.Machine
end

