-- ==== Sys2Proof/Laws/SamePages.lean ====
section
/-! SUPPORT. What the definitions of Machine/Pages.lean change (State.SameBut). -/

namespace Sys2Proof.Machine

theorem State.readDirect_same {w : List Part} {a s : State} {x0 x1 x2} (h : State.SameBut w a s)
    (hw : [.regs, .latch] ⊆ w) :
    State.SameBut w a (State.readDirect s x0 x1 x2).2 := by
  unfold State.readDirect
  with_reducible repeat' (first
    | exact h | assumption | refine State.withLatch_same ?_ (Part.sub (by decide) hw)
    | refine State.setReg_same ?_ (Part.sub (by decide) hw) | refine same_foldl ?_ _ ?_ | apply same_snd_ite
    | apply same_ite | apply_assumption | dsimp only | split | intro _ _ _ | intro _ _)

theorem State.busRead_same {w : List Part} {a s : State} {x0 x1} (h : State.SameBut w a s)
    (hw : [.regs, .latch] ⊆ w) :
    State.SameBut w a (State.busRead s x0 x1).2 := by
  unfold State.busRead
  with_reducible repeat' (first
    | exact h | assumption | refine same_snd (by assumption) (State.readDirect_same ?_ hw)
    | refine State.readDirect_same ?_ hw | refine same_foldl ?_ _ ?_ | apply same_snd_ite | apply same_ite
    | apply_assumption | dsimp only | split | intro _ _ _ | intro _ _)

theorem State.readCmd_same {w : List Part} {a s : State} {x0 x1 x2} (h : State.SameBut w a s)
    (hw : [.regs, .latch, .out] ⊆ w) :
    State.SameBut w a (State.readCmd s x0 x1 x2) := by
  unfold State.readCmd
  with_reducible repeat' (first
    | exact h | assumption | refine State.respond_same ?_ (Part.sub (by decide) hw)
    | refine State.respondWords_same ?_ (Part.sub (by decide) hw)
    | refine same_snd (by assumption) (State.busRead_same ?_ (Part.sub (by decide) hw))
    | refine State.busRead_same ?_ (Part.sub (by decide) hw) | refine same_foldl ?_ _ ?_ | apply same_ite
    | apply_assumption | dsimp only | split | intro _ _ _ | intro _ _)

theorem execFieldMissRead_same {w : List Part} {a s : State} {x0 x1} (h : State.SameBut w a s)
    (hw : [.regs, .latch, .out] ⊆ w) :
    SameOut w a (execFieldMissRead x0 x1 s) := by
  unfold execFieldMissRead
  with_reducible repeat' (first
    | apply same_next | exact same_fault _ | exact h | assumption | refine State.readCmd_same ?_ hw
    | refine same_foldl ?_ _ ?_ | apply sameOut_ite | apply same_ite | apply_assumption | dsimp only | split
    | intro _ _ _ | intro _ _)

theorem execMerNowLo_same {w : List Part} {a s : State} {x0} (h : State.SameBut w a s)
    (hw : [.regs, .latch, .out] ⊆ w) :
    SameOut w a (execMerNowLo x0 s) := by
  unfold execMerNowLo
  with_reducible repeat' (first
    | apply same_next | exact same_fault _ | exact h | assumption | refine State.readCmd_same ?_ hw
    | refine same_foldl ?_ _ ?_ | apply sameOut_ite | apply same_ite | apply_assumption | dsimp only | split
    | intro _ _ _ | intro _ _)

theorem execCounterLoRead_same {w : List Part} {a s : State} {x0 x1} (h : State.SameBut w a s)
    (hw : [.regs, .latch, .out] ⊆ w) :
    SameOut w a (execCounterLoRead x0 x1 s) := by
  unfold execCounterLoRead
  with_reducible repeat' (first
    | apply same_next | exact same_fault _ | exact h | assumption | refine State.readCmd_same ?_ hw
    | refine same_foldl ?_ _ ?_ | apply sameOut_ite | apply same_ite | apply_assumption | dsimp only | split
    | intro _ _ _ | intro _ _)

end Sys2Proof.Machine
end

