-- ==== Sys2Proof/Laws/SamePldm.lean ====
section
/-! SUPPORT. What the definitions of Machine/Pldm.lean change (State.SameBut). -/

namespace Sys2Proof.Machine

theorem State.pldm_same {w : List Part} {a s : State} {x0 x1} (h : State.SameBut w a s)
    (hw : [.out] ⊆ w) :
    SameOut w a (State.pldm s x0 x1) := by
  unfold State.pldm
  with_reducible repeat' (first
    | apply same_next | exact same_fault _ | exact h | assumption | refine State.respond_same ?_ hw
    | refine same_foldl ?_ _ ?_ | apply sameOut_ite | apply same_ite | apply_assumption | dsimp only | split
    | intro _ _ _ | intro _ _)

theorem execGetPldmCommands_same {w : List Part} {a s : State} {x0} (h : State.SameBut w a s)
    (hw : [.out] ⊆ w) :
    SameOut w a (execGetPldmCommands x0 s) := by
  unfold execGetPldmCommands
  with_reducible repeat' (first
    | apply same_next | exact same_fault _ | exact h | assumption | refine State.pldm_same ?_ hw
    | refine same_foldl ?_ _ ?_ | apply sameOut_ite | apply same_ite | apply_assumption | dsimp only | split
    | intro _ _ _ | intro _ _)

theorem State.pldmMonitor_same {w : List Part} {a s : State} {x0 x1} (h : State.SameBut w a s)
    (hw : [.out] ⊆ w) :
    SameOut w a (State.pldmMonitor s x0 x1) := by
  unfold State.pldmMonitor
  with_reducible repeat' (first
    | apply same_next | exact same_fault _ | exact h | assumption | refine State.pldm_same ?_ hw
    | refine same_foldl ?_ _ ?_ | apply sameOut_ite | apply same_ite | apply_assumption | dsimp only | split
    | intro _ _ _ | intro _ _)

theorem execGetSensorReading_same {w : List Part} {a s : State} {x0} (h : State.SameBut w a s)
    (hw : [.out] ⊆ w) :
    SameOut w a (execGetSensorReading x0 s) := by
  unfold execGetSensorReading
  with_reducible repeat' (first
    | apply same_next | exact same_fault _ | exact h | assumption | refine State.pldmMonitor_same ?_ hw
    | refine same_foldl ?_ _ ?_ | apply sameOut_ite | apply same_ite | apply_assumption | dsimp only | split
    | intro _ _ _ | intro _ _)

theorem execGetNumericEffecterValue_same {w : List Part} {a s : State} {x0} (h : State.SameBut w a s)
    (hw : [.out] ⊆ w) :
    SameOut w a (execGetNumericEffecterValue x0 s) := by
  unfold execGetNumericEffecterValue
  with_reducible repeat' (first
    | apply same_next | exact same_fault _ | exact h | assumption | refine State.pldmMonitor_same ?_ hw
    | refine same_foldl ?_ _ ?_ | apply sameOut_ite | apply same_ite | apply_assumption | dsimp only | split
    | intro _ _ _ | intro _ _)

theorem execGetTid_same {w : List Part} {a s : State} (h : State.SameBut w a s)
    (hw : [.out] ⊆ w) :
    SameOut w a (execGetTid s) := by
  unfold execGetTid
  with_reducible repeat' (first
    | apply same_next | exact same_fault _ | exact h | assumption | refine State.pldm_same ?_ hw
    | refine same_foldl ?_ _ ?_ | apply sameOut_ite | apply same_ite | apply_assumption | dsimp only | split
    | intro _ _ _ | intro _ _)

theorem execSetNumericEffecterValue_same {w : List Part} {a s : State} {x0 x1} (h : State.SameBut w a s)
    (hw : [.now, .freeCount, .board, .regs, .guards, .snaps, .mem, .hbmStacks, .fieldReqs, .dmaLost, .ringLost,
      .bells, .loader, .alm, .cue, .mer, .looms, .sieves, .gates, .pairs, .sram, .reeves, .kats, .flight, .ferry, .power, .faults, .restarts, .ledger, .out] ⊆ w) :
    SameOut w a (execSetNumericEffecterValue x0 x1 s) := by
  unfold execSetNumericEffecterValue
  with_reducible repeat' (first
    | apply same_next | exact same_fault _ | exact h | assumption
    | refine State.pldmMonitor_same ?_ (Part.sub (by decide) hw) | refine State.busWrite_same ?_ hw
    | refine same_foldl ?_ _ ?_ | apply sameOut_ite | apply same_ite | apply_assumption | dsimp only | split
    | intro _ _ _ | intro _ _)

theorem execGetPldmTypes_same {w : List Part} {a s : State} (h : State.SameBut w a s)
    (hw : [.out] ⊆ w) :
    SameOut w a (execGetPldmTypes s) := by
  unfold execGetPldmTypes
  with_reducible repeat' (first
    | apply same_next | exact same_fault _ | exact h | assumption | refine State.pldm_same ?_ hw
    | refine same_foldl ?_ _ ?_ | apply sameOut_ite | apply same_ite | apply_assumption | dsimp only | split
    | intro _ _ _ | intro _ _)

theorem execGetPldmVersion_same {w : List Part} {a s : State} {x0} (h : State.SameBut w a s)
    (hw : [.out] ⊆ w) :
    SameOut w a (execGetPldmVersion x0 s) := by
  unfold execGetPldmVersion
  with_reducible repeat' (first
    | apply same_next | exact same_fault _ | exact h | assumption | refine State.pldm_same ?_ hw
    | refine same_foldl ?_ _ ?_ | apply sameOut_ite | apply same_ite | apply_assumption | dsimp only | split
    | intro _ _ _ | intro _ _)

theorem execGetPdrRepositoryInfo_same {w : List Part} {a s : State} (h : State.SameBut w a s)
    (hw : [.out] ⊆ w) :
    SameOut w a (execGetPdrRepositoryInfo s) := by
  unfold execGetPdrRepositoryInfo
  with_reducible repeat' (first
    | apply same_next | exact same_fault _ | exact h | assumption | refine State.pldmMonitor_same ?_ hw
    | refine same_foldl ?_ _ ?_ | apply sameOut_ite | apply same_ite | apply_assumption | dsimp only | split
    | intro _ _ _ | intro _ _)

theorem execGetPdr_same {w : List Part} {a s : State} {x0} (h : State.SameBut w a s)
    (hw : [.out] ⊆ w) :
    SameOut w a (execGetPdr x0 s) := by
  unfold execGetPdr
  with_reducible repeat' (first
    | apply same_next | exact same_fault _ | exact h | assumption | refine State.pldmMonitor_same ?_ hw
    | refine same_foldl ?_ _ ?_ | apply sameOut_ite | apply same_ite | apply_assumption | dsimp only | split
    | intro _ _ _ | intro _ _)

theorem execGetStateSensorReadings_same {w : List Part} {a s : State} {x0} (h : State.SameBut w a s)
    (hw : [.out] ⊆ w) :
    SameOut w a (execGetStateSensorReadings x0 s) := by
  unfold execGetStateSensorReadings
  with_reducible repeat' (first
    | apply same_next | exact same_fault _ | exact h | assumption | refine State.pldmMonitor_same ?_ hw
    | refine same_foldl ?_ _ ?_ | apply sameOut_ite | apply same_ite | apply_assumption | dsimp only | split
    | intro _ _ _ | intro _ _)

end Sys2Proof.Machine
end

