-- ==== Sys2Proof/Laws/SameSieve.lean ====
section
/-! SUPPORT. What the definitions of Machine/Sieve.lean change (State.SameBut). -/

namespace Sys2Proof.Machine

theorem State.sievePop_same {w : List Part} {a s : State} {x0 x1} (h : State.SameBut w a s)
    (hw : [.regs, .sieves] ⊆ w) :
    State.SameBut w a (State.sievePop s x0 x1) := by
  unfold State.sievePop
  with_reducible repeat' (first
    | exact h | assumption | refine State.bump64_same ?_ (Part.sub (by decide) hw)
    | refine State.setSieve_same ?_ (Part.sub (by decide) hw) | refine same_foldl ?_ _ ?_ | apply same_ite
    | apply_assumption | dsimp only | split | intro _ _ _ | intro _ _)

theorem State.sieveRun_same {w : List Part} {a s : State} {d h op f} (k : State.SameBut w a s) (hw : [.regs, .sieves, .faults] ⊆ w)
    (hf : ∀ c x, SameOpt w a (f c x)) : State.SameBut w a (State.sieveRun s d h op f) := by
  unfold State.sieveRun
  with_reducible repeat' (first
    | assumption | refine State.sievePop_same ?_ (Part.sub (by decide) hw) | refine State.checkFault_same ?_ (Part.sub (by decide) hw)
    | refine State.setSieve_same ?_ (Part.sub (by decide) hw) | apply same_ite | dsimp only | split
    | refine sameOpt_elim (by assumption) (sameOpt_bindV fun c => hf c _))

theorem State.opDone_same {w : List Part} {a s : State} {x0 x1 x2} (h : State.SameBut w a s)
    (hw : [.regs, .sram, .out] ⊆ w) :
    State.SameBut w a (State.opDone s x0 x1 x2) := by
  unfold State.opDone
  with_reducible repeat' (first
    | exact h | assumption | refine State.setTdata_same ?_ (Part.sub (by decide) hw)
    | refine State.events_same ?_ (Part.sub (by decide) hw) | refine same_foldl ?_ _ ?_ | apply same_ite
    | apply_assumption | dsimp only | split | intro _ _ _ | intro _ _)

theorem State.mapInts_same {w : List Part} {a s : State} {x0 x1 x2 x3} (h : State.SameBut w a s)
    (hw : [.regs, .sram, .out] ⊆ w) :
    SameOpt w a (State.mapInts s x0 x1 x2 x3) := by
  unfold State.mapInts
  with_reducible repeat' (first
    | apply sameOpt_some | exact sameOpt_none | exact h | assumption | refine State.opDone_same ?_ hw
    | refine same_foldl ?_ _ ?_ | apply sameOpt_ite | refine sameOpt_map ?_ ?_ | refine sameOpt_bind ?_ ?_ | intro _ _
    | apply same_ite | apply_assumption | dsimp only | split | intro _ _ _ | intro _ _)

theorem State.countViews_same {w : List Part} {a s : State} {x0 x1 x2} (h : State.SameBut w a s)
    (hw : [.regs] ⊆ w) :
    State.SameBut w a (State.countViews s x0 x1 x2) := by
  fun_induction State.countViews s x0 x1 x2
  with_reducible repeat' (first
    | exact h | assumption | refine State.bump_same ?_ hw | refine same_foldl ?_ _ ?_ | apply same_ite
    | apply_assumption | dsimp only | split | intro _ _ _ | intro _ _)

theorem State.mapSources_same {w : List Part} {a s : State} {x0 x1 x2 x3} (h : State.SameBut w a s)
    (hw : [.regs, .sram, .out] ⊆ w) :
    SameOpt w a (State.mapSources s x0 x1 x2 x3) := by
  unfold State.mapSources
  with_reducible repeat' (first
    | apply sameOpt_some | exact sameOpt_none | exact h | assumption | refine State.opDone_same ?_ hw
    | refine State.countViews_same ?_ (Part.sub (by decide) hw) | refine same_foldl ?_ _ ?_ | apply sameOpt_ite
    | refine sameOpt_map ?_ ?_ | refine sameOpt_bind ?_ ?_ | intro _ _ | apply same_ite | apply_assumption
    | dsimp only | split | intro _ _ _ | intro _ _)

theorem State.addOp_same {w : List Part} {a s : State} {x0 x1} (h : State.SameBut w a s)
    (hw : [.regs, .sram, .out] ⊆ w) :
    SameOpt w a (State.addOp s x0 x1) := by
  unfold State.addOp
  with_reducible repeat' (first
    | apply sameOpt_some | exact sameOpt_none | exact h | assumption
    | refine sameOpt_elim (by assumption) (State.mapInts_same ?_ hw) | refine State.mapInts_same ?_ hw
    | refine sameOpt_elim (by assumption) (State.mapSources_same ?_ hw) | refine State.mapSources_same ?_ hw
    | refine same_foldl ?_ _ ?_ | apply sameOpt_ite | refine sameOpt_map ?_ ?_ | refine sameOpt_bind ?_ ?_ | intro _ _
    | apply same_ite | apply_assumption | dsimp only | split | intro _ _ _ | intro _ _)

theorem execAdd_same {w : List Part} {a s : State} {x0 x1} (h : State.SameBut w a s)
    (hw : [.regs, .sieves, .sram, .faults, .out] ⊆ w) :
    SameOut w a (execAdd x0 x1 s) := by
  unfold execAdd
  with_reducible repeat' (first
    | apply same_next | exact same_fault _ | exact h | assumption
    | refine State.sieveRun_same ?_ (Part.sub (by decide) hw) ?_
    | refine sameOpt_elim (by assumption) (State.addOp_same ?_ (Part.sub (by decide) hw))
    | refine State.addOp_same ?_ (Part.sub (by decide) hw) | refine same_foldl ?_ _ ?_ | apply sameOut_ite
    | apply sameOpt_some | exact sameOpt_none | apply same_ite | apply_assumption | dsimp only | split | intro _ _ _
    | intro _ _)

theorem State.sieve3_same {w : List Part} {a s : State} {x0 x1 x2 x3} (h : State.SameBut w a s)
    (hw : [.regs, .sieves, .sram, .faults, .out] ⊆ w) :
    State.SameBut w a (State.sieve3 s x0 x1 x2 x3) := by
  unfold State.sieve3
  with_reducible repeat' (first
    | exact h | assumption | refine State.sieveRun_same ?_ (Part.sub (by decide) hw) ?_
    | refine sameOpt_elim (by assumption) (State.mapSources_same ?_ (Part.sub (by decide) hw))
    | refine State.mapSources_same ?_ (Part.sub (by decide) hw) | refine same_foldl ?_ _ ?_ | apply sameOpt_some
    | exact sameOpt_none | apply same_ite | apply_assumption | dsimp only | split | intro _ _ _ | intro _ _)

theorem execFma_same {w : List Part} {a s : State} {x0 x1} (h : State.SameBut w a s)
    (hw : [.regs, .sieves, .sram, .faults, .out] ⊆ w) :
    SameOut w a (execFma x0 x1 s) := by
  unfold execFma
  with_reducible repeat' (first
    | apply same_next | exact same_fault _ | exact h | assumption | refine State.sieve3_same ?_ hw
    | refine same_foldl ?_ _ ?_ | apply sameOut_ite | apply same_ite | apply_assumption | dsimp only | split
    | intro _ _ _ | intro _ _)

theorem execSieveNop_same {w : List Part} {a s : State} {x0 x1} (h : State.SameBut w a s)
    (hw : [.regs, .sieves, .faults] ⊆ w) :
    SameOut w a (execSieveNop x0 x1 s) := by
  unfold execSieveNop
  with_reducible repeat' (first
    | apply same_next | exact same_fault _ | exact h | assumption | refine State.sieveRun_same ?_ hw ?_
    | refine same_foldl ?_ _ ?_ | apply sameOut_ite | apply sameOpt_some | exact sameOpt_none | apply same_ite
    | apply_assumption | dsimp only | split | intro _ _ _ | intro _ _)

theorem State.reduceOp_same {w : List Part} {a s : State} {x0 x1 x2} (h : State.SameBut w a s)
    (hw : [.regs, .sram, .out] ⊆ w) :
    SameOpt w a (State.reduceOp x0 s x1 x2) := by
  unfold State.reduceOp
  with_reducible repeat' (first
    | apply sameOpt_some | exact sameOpt_none | exact h | assumption | refine State.opDone_same ?_ hw
    | refine State.countViews_same ?_ (Part.sub (by decide) hw) | refine same_foldl ?_ _ ?_ | apply sameOpt_ite
    | refine sameOpt_map ?_ ?_ | refine sameOpt_bind ?_ ?_ | intro _ _ | apply same_ite | apply_assumption
    | dsimp only | split | intro _ _ _ | intro _ _)

theorem execArgmax_same {w : List Part} {a s : State} {x0 x1} (h : State.SameBut w a s)
    (hw : [.regs, .sieves, .sram, .faults, .out] ⊆ w) :
    SameOut w a (execArgmax x0 x1 s) := by
  unfold execArgmax
  with_reducible repeat' (first
    | apply same_next | exact same_fault _ | exact h | assumption
    | refine State.sieveRun_same ?_ (Part.sub (by decide) hw) ?_
    | refine sameOpt_elim (by assumption) (State.reduceOp_same ?_ (Part.sub (by decide) hw))
    | refine State.reduceOp_same ?_ (Part.sub (by decide) hw) | refine same_foldl ?_ _ ?_ | apply sameOut_ite
    | apply sameOpt_some | exact sameOpt_none | apply same_ite | apply_assumption | dsimp only | split | intro _ _ _
    | intro _ _)

theorem State.attnCells_same {w : List Part} {a s : State} {x0 x1 x2} (h : State.SameBut w a s)
    (hw : [.sram] ⊆ w) :
    State.SameBut w a (State.attnCells s x0 x1 x2) := by
  unfold State.attnCells
  with_reducible repeat' (first
    | exact h | assumption | refine State.setTdata_same ?_ hw | refine same_foldl ?_ _ ?_ | apply same_ite
    | apply_assumption | dsimp only | split | intro _ _ _ | intro _ _)

theorem State.attnStep_same {w : List Part} {a s : State} {x0 x1 x2 x3 x4} (h : State.SameBut w a s)
    (hw : [.regs, .sram, .out] ⊆ w) :
    State.SameBut w a (State.attnStep s x0 x1 x2 x3 x4) := by
  unfold State.attnStep
  with_reducible repeat' (first
    | exact h | assumption | refine State.attnCells_same ?_ (Part.sub (by decide) hw) | refine State.opDone_same ?_ hw
    | refine same_foldl ?_ _ ?_ | apply same_ite | apply_assumption | dsimp only | split | intro _ _ _ | intro _ _)

theorem State.putStats_same {w : List Part} {a s : State} {x0 x1 x2} (h : State.SameBut w a s)
    (hw : [.sram] ⊆ w) :
    State.SameBut w a (State.putStats s x0 x1 x2) := by
  unfold State.putStats
  with_reducible repeat' (first
    | exact h | assumption | refine State.setTdata_same ?_ hw | refine same_foldl ?_ _ ?_ | apply same_ite
    | apply_assumption | dsimp only | split | intro _ _ _ | intro _ _)

theorem State.bindStats_same {w : List Part} {a s : State} {x0 x1 x2} (h : State.SameBut w a s)
    (hw : [.sram] ⊆ w) :
    State.SameBut w a (State.bindStats s x0 x1 x2) := by
  unfold State.bindStats
  with_reducible repeat' (first
    | exact h | assumption | refine State.putStats_same ?_ hw | refine same_foldl ?_ _ ?_ | apply same_ite
    | apply_assumption | dsimp only | split | intro _ _ _ | intro _ _)

theorem State.smaxOp_same {w : List Part} {a s : State} {x0 x1 x2} (h : State.SameBut w a s)
    (hw : [.regs, .sram, .out] ⊆ w) :
    SameOpt w a (State.smaxOp x0 s x1 x2) := by
  unfold State.smaxOp
  with_reducible repeat' (first
    | apply sameOpt_some | exact sameOpt_none | exact h | assumption
    | refine State.countViews_same ?_ (Part.sub (by decide) hw) | refine State.attnStep_same ?_ hw
    | refine State.bindStats_same ?_ (Part.sub (by decide) hw) | refine State.opDone_same ?_ hw
    | refine same_foldl ?_ _ ?_ | apply sameOpt_ite | refine sameOpt_map ?_ ?_ | refine sameOpt_bind ?_ ?_ | intro _ _
    | apply same_ite | apply_assumption | dsimp only | split | intro _ _ _ | intro _ _)

theorem execSmaxRun_same {w : List Part} {a s : State} {x0 x1} (h : State.SameBut w a s)
    (hw : [.regs, .sieves, .sram, .faults, .out] ⊆ w) :
    SameOut w a (execSmaxRun x0 x1 s) := by
  unfold execSmaxRun
  with_reducible repeat' (first
    | apply same_next | exact same_fault _ | exact h | assumption
    | refine State.sieveRun_same ?_ (Part.sub (by decide) hw) ?_
    | refine sameOpt_elim (by assumption) (State.smaxOp_same ?_ (Part.sub (by decide) hw))
    | refine State.smaxOp_same ?_ (Part.sub (by decide) hw) | refine same_foldl ?_ _ ?_ | apply sameOut_ite
    | apply sameOpt_some | exact sameOpt_none | apply same_ite | apply_assumption | dsimp only | split | intro _ _ _
    | intro _ _)

theorem State.sieve1_same {w : List Part} {a s : State} {x0 x1 x2 x3} (h : State.SameBut w a s)
    (hw : [.regs, .sieves, .sram, .faults, .out] ⊆ w) :
    State.SameBut w a (State.sieve1 s x0 x1 x2 x3) := by
  unfold State.sieve1
  with_reducible repeat' (first
    | exact h | assumption | refine State.sieveRun_same ?_ (Part.sub (by decide) hw) ?_
    | refine sameOpt_elim (by assumption) (State.mapSources_same ?_ (Part.sub (by decide) hw))
    | refine State.mapSources_same ?_ (Part.sub (by decide) hw) | refine same_foldl ?_ _ ?_ | apply sameOpt_some
    | exact sameOpt_none | apply same_ite | apply_assumption | dsimp only | split | intro _ _ _ | intro _ _)

theorem execSigmoid_same {w : List Part} {a s : State} {x0 x1} (h : State.SameBut w a s)
    (hw : [.regs, .sieves, .sram, .faults, .out] ⊆ w) :
    SameOut w a (execSigmoid x0 x1 s) := by
  unfold execSigmoid
  with_reducible repeat' (first
    | apply same_next | exact same_fault _ | exact h | assumption | refine State.sieve1_same ?_ hw
    | refine same_foldl ?_ _ ?_ | apply sameOut_ite | apply same_ite | apply_assumption | dsimp only | split
    | intro _ _ _ | intro _ _)

theorem State.convertOp_same {w : List Part} {a s : State} {x0 x1} (h : State.SameBut w a s)
    (hw : [.regs, .sram, .out] ⊆ w) :
    SameOpt w a (State.convertOp s x0 x1) := by
  unfold State.convertOp
  with_reducible repeat' (first
    | apply sameOpt_some | exact sameOpt_none | exact h | assumption
    | refine sameOpt_elim (by assumption) (State.mapInts_same ?_ hw) | refine State.mapInts_same ?_ hw
    | refine sameOpt_elim (by assumption) (State.mapSources_same ?_ hw) | refine State.mapSources_same ?_ hw
    | refine same_foldl ?_ _ ?_ | apply sameOpt_ite | refine sameOpt_map ?_ ?_ | refine sameOpt_bind ?_ ?_ | intro _ _
    | apply same_ite | apply_assumption | dsimp only | split | intro _ _ _ | intro _ _)

theorem State.attnEnd_same {w : List Part} {a s : State} {x0 x1 x2 x3 x4} (h : State.SameBut w a s)
    (hw : [.regs, .sram, .out] ⊆ w) :
    State.SameBut w a (State.attnEnd s x0 x1 x2 x3 x4) := by
  unfold State.attnEnd
  with_reducible repeat' (first
    | exact h | assumption | refine State.bindStats_same ?_ (Part.sub (by decide) hw) | refine State.opDone_same ?_ hw
    | refine State.countViews_same ?_ (Part.sub (by decide) hw)
    | refine State.attnCells_same ?_ (Part.sub (by decide) hw) | refine same_foldl ?_ _ ?_ | apply same_ite
    | apply_assumption | dsimp only | split | intro _ _ _ | intro _ _)

theorem State.mulOp_same {w : List Part} {a s : State} {x0 x1} (h : State.SameBut w a s)
    (hw : [.regs, .sram, .out] ⊆ w) :
    SameOpt w a (State.mulOp s x0 x1) := by
  unfold State.mulOp
  with_reducible repeat' (first
    | apply sameOpt_some | exact sameOpt_none | exact h | assumption | refine State.attnEnd_same ?_ hw
    | refine sameOpt_elim (by assumption) (State.mapSources_same ?_ hw) | refine State.mapSources_same ?_ hw
    | refine same_foldl ?_ _ ?_ | apply sameOpt_ite | refine sameOpt_map ?_ ?_ | refine sameOpt_bind ?_ ?_ | intro _ _
    | apply same_ite | apply_assumption | dsimp only | split | intro _ _ _ | intro _ _)

theorem execMul_same {w : List Part} {a s : State} {x0 x1} (h : State.SameBut w a s)
    (hw : [.regs, .sieves, .sram, .faults, .out] ⊆ w) :
    SameOut w a (execMul x0 x1 s) := by
  unfold execMul
  with_reducible repeat' (first
    | apply same_next | exact same_fault _ | exact h | assumption
    | refine State.sieveRun_same ?_ (Part.sub (by decide) hw) ?_
    | refine sameOpt_elim (by assumption) (State.mulOp_same ?_ (Part.sub (by decide) hw))
    | refine State.mulOp_same ?_ (Part.sub (by decide) hw) | refine same_foldl ?_ _ ?_ | apply sameOut_ite
    | apply sameOpt_some | exact sameOpt_none | apply same_ite | apply_assumption | dsimp only | split | intro _ _ _
    | intro _ _)

theorem State.sieveHold_same {w : List Part} {a s : State} {x0 x1} (h : State.SameBut w a s)
    (hw : [.regs, .looms, .sieves, .gates, .pairs, .faults] ⊆ w) :
    State.SameBut w a (State.sieveHold s x0 x1) := by
  unfold State.sieveHold
  with_reducible repeat' (first
    | exact h | assumption | refine State.errorWait_same ?_ (Part.sub (by decide) hw)
    | refine State.setSieve_same ?_ (Part.sub (by decide) hw)
    | refine State.sieveRun_same ?_ (Part.sub (by decide) hw) ?_ | refine same_foldl ?_ _ ?_ | apply sameOpt_some
    | exact sameOpt_none | apply same_ite | apply_assumption | dsimp only | split | intro _ _ _ | intro _ _)

theorem execConvert_same {w : List Part} {a s : State} {x0 x1} (h : State.SameBut w a s)
    (hw : [.regs, .sieves, .sram, .faults, .out] ⊆ w) :
    SameOut w a (execConvert x0 x1 s) := by
  unfold execConvert
  with_reducible repeat' (first
    | apply same_next | exact same_fault _ | exact h | assumption
    | refine State.sieveRun_same ?_ (Part.sub (by decide) hw) ?_
    | refine sameOpt_elim (by assumption) (State.convertOp_same ?_ (Part.sub (by decide) hw))
    | refine State.convertOp_same ?_ (Part.sub (by decide) hw) | refine same_foldl ?_ _ ?_ | apply sameOut_ite
    | apply sameOpt_some | exact sameOpt_none | apply same_ite | apply_assumption | dsimp only | split | intro _ _ _
    | intro _ _)

theorem execReciprocal_same {w : List Part} {a s : State} {x0 x1} (h : State.SameBut w a s)
    (hw : [.regs, .sieves, .sram, .faults, .out] ⊆ w) :
    SameOut w a (execReciprocal x0 x1 s) := by
  unfold execReciprocal
  with_reducible repeat' (first
    | apply same_next | exact same_fault _ | exact h | assumption | refine State.sieve1_same ?_ hw
    | refine same_foldl ?_ _ ?_ | apply sameOut_ite | apply same_ite | apply_assumption | dsimp only | split
    | intro _ _ _ | intro _ _)

theorem State.sieve2_same {w : List Part} {a s : State} {x0 x1 x2 x3} (h : State.SameBut w a s)
    (hw : [.regs, .sieves, .sram, .faults, .out] ⊆ w) :
    State.SameBut w a (State.sieve2 s x0 x1 x2 x3) := by
  unfold State.sieve2
  with_reducible repeat' (first
    | exact h | assumption | refine State.sieveRun_same ?_ (Part.sub (by decide) hw) ?_
    | refine sameOpt_elim (by assumption) (State.mapSources_same ?_ (Part.sub (by decide) hw))
    | refine State.mapSources_same ?_ (Part.sub (by decide) hw) | refine same_foldl ?_ _ ?_ | apply sameOpt_some
    | exact sameOpt_none | apply same_ite | apply_assumption | dsimp only | split | intro _ _ _ | intro _ _)

theorem execMin_same {w : List Part} {a s : State} {x0 x1} (h : State.SameBut w a s)
    (hw : [.regs, .sieves, .sram, .faults, .out] ⊆ w) :
    SameOut w a (execMin x0 x1 s) := by
  unfold execMin
  with_reducible repeat' (first
    | apply same_next | exact same_fault _ | exact h | assumption | refine State.sieve2_same ?_ hw
    | refine same_foldl ?_ _ ?_ | apply sameOut_ite | apply same_ite | apply_assumption | dsimp only | split
    | intro _ _ _ | intro _ _)

theorem State.gumbelOp_same {w : List Part} {a s : State} {x0 x1} (h : State.SameBut w a s)
    (hw : [.regs, .sram, .out] ⊆ w) :
    SameOpt w a (State.gumbelOp s x0 x1) := by
  unfold State.gumbelOp
  with_reducible repeat' (first
    | apply sameOpt_some | exact sameOpt_none | exact h | assumption | refine State.opDone_same ?_ hw
    | refine State.countViews_same ?_ (Part.sub (by decide) hw) | refine same_foldl ?_ _ ?_ | apply sameOpt_ite
    | refine sameOpt_map ?_ ?_ | refine sameOpt_bind ?_ ?_ | intro _ _ | apply same_ite | apply_assumption
    | dsimp only | split | intro _ _ _ | intro _ _)

theorem execSelect_same {w : List Part} {a s : State} {x0 x1} (h : State.SameBut w a s)
    (hw : [.regs, .sieves, .sram, .faults, .out] ⊆ w) :
    SameOut w a (execSelect x0 x1 s) := by
  unfold execSelect
  with_reducible repeat' (first
    | apply same_next | exact same_fault _ | exact h | assumption | refine State.sieve3_same ?_ hw
    | refine same_foldl ?_ _ ?_ | apply sameOut_ite | apply same_ite | apply_assumption | dsimp only | split
    | intro _ _ _ | intro _ _)

theorem execSieveSignal_same {w : List Part} {a s : State} {x0 x1} (h : State.SameBut w a s)
    (hw : [.regs, .bells, .looms, .sieves, .gates, .pairs, .faults, .out] ⊆ w) :
    SameOut w a (execSieveSignal x0 x1 s) := by
  unfold execSieveSignal
  with_reducible repeat' (first
    | apply same_next | exact same_fault _ | exact h | assumption
    | refine State.sieveRun_same ?_ (Part.sub (by decide) hw) ?_ | refine State.unitSignal_same ?_ hw
    | refine same_foldl ?_ _ ?_ | apply sameOut_ite | apply sameOpt_some | exact sameOpt_none | apply same_ite
    | apply_assumption | dsimp only | split | intro _ _ _ | intro _ _)

theorem execSieveWait_same {w : List Part} {a s : State} {x0 x1} (h : State.SameBut w a s)
    (hw : [.regs, .looms, .sieves, .gates, .pairs, .faults] ⊆ w) :
    SameOut w a (execSieveWait x0 x1 s) := by
  unfold execSieveWait
  with_reducible repeat' (first
    | apply same_next | exact same_fault _ | exact h | assumption | refine State.sieveHold_same ?_ hw
    | refine same_foldl ?_ _ ?_ | apply sameOut_ite | apply same_ite | apply_assumption | dsimp only | split
    | intro _ _ _ | intro _ _)

theorem execRmax_same {w : List Part} {a s : State} {x0 x1} (h : State.SameBut w a s)
    (hw : [.regs, .sieves, .sram, .faults, .out] ⊆ w) :
    SameOut w a (execRmax x0 x1 s) := by
  unfold execRmax
  with_reducible repeat' (first
    | apply same_next | exact same_fault _ | exact h | assumption
    | refine State.sieveRun_same ?_ (Part.sub (by decide) hw) ?_
    | refine sameOpt_elim (by assumption) (State.reduceOp_same ?_ (Part.sub (by decide) hw))
    | refine State.reduceOp_same ?_ (Part.sub (by decide) hw) | refine same_foldl ?_ _ ?_ | apply sameOut_ite
    | apply sameOpt_some | exact sameOpt_none | apply same_ite | apply_assumption | dsimp only | split | intro _ _ _
    | intro _ _)

theorem State.normOp_same {w : List Part} {a s : State} {x0 x1 x2 x3} (h : State.SameBut w a s)
    (hw : [.regs, .sram, .out] ⊆ w) :
    SameOpt w a (State.normOp x0 x1 s x2 x3) := by
  unfold State.normOp
  with_reducible repeat' (first
    | apply sameOpt_some | exact sameOpt_none | exact h | assumption | refine State.opDone_same ?_ hw
    | refine State.countViews_same ?_ (Part.sub (by decide) hw) | refine same_foldl ?_ _ ?_ | apply sameOpt_ite
    | refine sameOpt_map ?_ ?_ | refine sameOpt_bind ?_ ?_ | intro _ _ | apply same_ite | apply_assumption
    | dsimp only | split | intro _ _ _ | intro _ _)

theorem State.groupOp_same {w : List Part} {a s : State} {x0 x1} (h : State.SameBut w a s)
    (hw : [.regs, .sram, .out] ⊆ w) :
    SameOpt w a (State.groupOp s x0 x1) := by
  unfold State.groupOp
  with_reducible repeat' (first
    | apply sameOpt_some | exact sameOpt_none | exact h | assumption
    | refine sameOpt_elim (by assumption) (State.normOp_same ?_ hw) | refine State.normOp_same ?_ hw
    | refine same_foldl ?_ _ ?_ | apply sameOpt_ite | refine sameOpt_map ?_ ?_ | refine sameOpt_bind ?_ ?_ | intro _ _
    | apply same_ite | apply_assumption | dsimp only | split | intro _ _ _ | intro _ _)

theorem execGroupnorm_same {w : List Part} {a s : State} {x0 x1} (h : State.SameBut w a s)
    (hw : [.regs, .sieves, .sram, .faults, .out] ⊆ w) :
    SameOut w a (execGroupnorm x0 x1 s) := by
  unfold execGroupnorm
  with_reducible repeat' (first
    | apply same_next | exact same_fault _ | exact h | assumption
    | refine State.sieveRun_same ?_ (Part.sub (by decide) hw) ?_
    | refine sameOpt_elim (by assumption) (State.groupOp_same ?_ (Part.sub (by decide) hw))
    | refine State.groupOp_same ?_ (Part.sub (by decide) hw) | refine same_foldl ?_ _ ?_ | apply sameOut_ite
    | apply sameOpt_some | exact sameOpt_none | apply same_ite | apply_assumption | dsimp only | split | intro _ _ _
    | intro _ _)

theorem execMax_same {w : List Part} {a s : State} {x0 x1} (h : State.SameBut w a s)
    (hw : [.regs, .sieves, .sram, .faults, .out] ⊆ w) :
    SameOut w a (execMax x0 x1 s) := by
  unfold execMax
  with_reducible repeat' (first
    | apply same_next | exact same_fault _ | exact h | assumption | refine State.sieve2_same ?_ hw
    | refine same_foldl ?_ _ ?_ | apply sameOut_ite | apply same_ite | apply_assumption | dsimp only | split
    | intro _ _ _ | intro _ _)

theorem execCmpEq_same {w : List Part} {a s : State} {x0 x1} (h : State.SameBut w a s)
    (hw : [.regs, .sieves, .sram, .faults, .out] ⊆ w) :
    SameOut w a (execCmpEq x0 x1 s) := by
  unfold execCmpEq
  with_reducible repeat' (first
    | apply same_next | exact same_fault _ | exact h | assumption | refine State.sieve2_same ?_ hw
    | refine same_foldl ?_ _ ?_ | apply sameOut_ite | apply same_ite | apply_assumption | dsimp only | split
    | intro _ _ _ | intro _ _)

theorem execExp2_same {w : List Part} {a s : State} {x0 x1} (h : State.SameBut w a s)
    (hw : [.regs, .sieves, .sram, .faults, .out] ⊆ w) :
    SameOut w a (execExp2 x0 x1 s) := by
  unfold execExp2
  with_reducible repeat' (first
    | apply same_next | exact same_fault _ | exact h | assumption | refine State.sieve1_same ?_ hw
    | refine same_foldl ?_ _ ?_ | apply sameOut_ite | apply same_ite | apply_assumption | dsimp only | split
    | intro _ _ _ | intro _ _)

theorem execGelu_same {w : List Part} {a s : State} {x0 x1} (h : State.SameBut w a s)
    (hw : [.regs, .sieves, .sram, .faults, .out] ⊆ w) :
    SameOut w a (execGelu x0 x1 s) := by
  unfold execGelu
  with_reducible repeat' (first
    | apply same_next | exact same_fault _ | exact h | assumption | refine State.sieve1_same ?_ hw
    | refine same_foldl ?_ _ ?_ | apply sameOut_ite | apply same_ite | apply_assumption | dsimp only | split
    | intro _ _ _ | intro _ _)

theorem execExpE_same {w : List Part} {a s : State} {x0 x1} (h : State.SameBut w a s)
    (hw : [.regs, .sieves, .sram, .faults, .out] ⊆ w) :
    SameOut w a (execExpE x0 x1 s) := by
  unfold execExpE
  with_reducible repeat' (first
    | apply same_next | exact same_fault _ | exact h | assumption | refine State.sieve1_same ?_ hw
    | refine same_foldl ?_ _ ?_ | apply sameOut_ite | apply same_ite | apply_assumption | dsimp only | split
    | intro _ _ _ | intro _ _)

theorem execLayernorm_same {w : List Part} {a s : State} {x0 x1} (h : State.SameBut w a s)
    (hw : [.regs, .sieves, .sram, .faults, .out] ⊆ w) :
    SameOut w a (execLayernorm x0 x1 s) := by
  unfold execLayernorm
  with_reducible repeat' (first
    | apply same_next | exact same_fault _ | exact h | assumption
    | refine State.sieveRun_same ?_ (Part.sub (by decide) hw) ?_
    | refine sameOpt_elim (by assumption) (State.normOp_same ?_ (Part.sub (by decide) hw))
    | refine State.normOp_same ?_ (Part.sub (by decide) hw) | refine same_foldl ?_ _ ?_ | apply sameOut_ite
    | apply sameOpt_some | exact sameOpt_none | apply same_ite | apply_assumption | dsimp only | split | intro _ _ _
    | intro _ _)

theorem execGumbel_same {w : List Part} {a s : State} {x0 x1} (h : State.SameBut w a s)
    (hw : [.regs, .sieves, .sram, .faults, .out] ⊆ w) :
    SameOut w a (execGumbel x0 x1 s) := by
  unfold execGumbel
  with_reducible repeat' (first
    | apply same_next | exact same_fault _ | exact h | assumption
    | refine State.sieveRun_same ?_ (Part.sub (by decide) hw) ?_
    | refine sameOpt_elim (by assumption) (State.gumbelOp_same ?_ (Part.sub (by decide) hw))
    | refine State.gumbelOp_same ?_ (Part.sub (by decide) hw) | refine same_foldl ?_ _ ?_ | apply sameOut_ite
    | apply sameOpt_some | exact sameOpt_none | apply same_ite | apply_assumption | dsimp only | split | intro _ _ _
    | intro _ _)

theorem execCmpLt_same {w : List Part} {a s : State} {x0 x1} (h : State.SameBut w a s)
    (hw : [.regs, .sieves, .sram, .faults, .out] ⊆ w) :
    SameOut w a (execCmpLt x0 x1 s) := by
  unfold execCmpLt
  with_reducible repeat' (first
    | apply same_next | exact same_fault _ | exact h | assumption | refine State.sieve2_same ?_ hw
    | refine same_foldl ?_ _ ?_ | apply sameOut_ite | apply same_ite | apply_assumption | dsimp only | split
    | intro _ _ _ | intro _ _)

theorem execCopysign_same {w : List Part} {a s : State} {x0 x1} (h : State.SameBut w a s)
    (hw : [.regs, .sieves, .sram, .faults, .out] ⊆ w) :
    SameOut w a (execCopysign x0 x1 s) := by
  unfold execCopysign
  with_reducible repeat' (first
    | apply same_next | exact same_fault _ | exact h | assumption | refine State.sieve2_same ?_ hw
    | refine same_foldl ?_ _ ?_ | apply sameOut_ite | apply same_ite | apply_assumption | dsimp only | split
    | intro _ _ _ | intro _ _)

theorem execLog2_same {w : List Part} {a s : State} {x0 x1} (h : State.SameBut w a s)
    (hw : [.regs, .sieves, .sram, .faults, .out] ⊆ w) :
    SameOut w a (execLog2 x0 x1 s) := by
  unfold execLog2
  with_reducible repeat' (first
    | apply same_next | exact same_fault _ | exact h | assumption | refine State.sieve1_same ?_ hw
    | refine same_foldl ?_ _ ?_ | apply sameOut_ite | apply same_ite | apply_assumption | dsimp only | split
    | intro _ _ _ | intro _ _)

theorem execRsqrt_same {w : List Part} {a s : State} {x0 x1} (h : State.SameBut w a s)
    (hw : [.regs, .sieves, .sram, .faults, .out] ⊆ w) :
    SameOut w a (execRsqrt x0 x1 s) := by
  unfold execRsqrt
  with_reducible repeat' (first
    | apply same_next | exact same_fault _ | exact h | assumption | refine State.sieve1_same ?_ hw
    | refine same_foldl ?_ _ ?_ | apply sameOut_ite | apply same_ite | apply_assumption | dsimp only | split
    | intro _ _ _ | intro _ _)

theorem execTanh_same {w : List Part} {a s : State} {x0 x1} (h : State.SameBut w a s)
    (hw : [.regs, .sieves, .sram, .faults, .out] ⊆ w) :
    SameOut w a (execTanh x0 x1 s) := by
  unfold execTanh
  with_reducible repeat' (first
    | apply same_next | exact same_fault _ | exact h | assumption | refine State.sieve1_same ?_ hw
    | refine same_foldl ?_ _ ?_ | apply sameOut_ite | apply same_ite | apply_assumption | dsimp only | split
    | intro _ _ _ | intro _ _)

theorem execSilu_same {w : List Part} {a s : State} {x0 x1} (h : State.SameBut w a s)
    (hw : [.regs, .sieves, .sram, .faults, .out] ⊆ w) :
    SameOut w a (execSilu x0 x1 s) := by
  unfold execSilu
  with_reducible repeat' (first
    | apply same_next | exact same_fault _ | exact h | assumption | refine State.sieve1_same ?_ hw
    | refine same_foldl ?_ _ ?_ | apply sameOut_ite | apply same_ite | apply_assumption | dsimp only | split
    | intro _ _ _ | intro _ _)

theorem execRsum_same {w : List Part} {a s : State} {x0 x1} (h : State.SameBut w a s)
    (hw : [.regs, .sieves, .sram, .faults, .out] ⊆ w) :
    SameOut w a (execRsum x0 x1 s) := by
  unfold execRsum
  with_reducible repeat' (first
    | apply same_next | exact same_fault _ | exact h | assumption
    | refine State.sieveRun_same ?_ (Part.sub (by decide) hw) ?_
    | refine sameOpt_elim (by assumption) (State.reduceOp_same ?_ (Part.sub (by decide) hw))
    | refine State.reduceOp_same ?_ (Part.sub (by decide) hw) | refine same_foldl ?_ _ ?_ | apply sameOut_ite
    | apply sameOpt_some | exact sameOpt_none | apply same_ite | apply_assumption | dsimp only | split | intro _ _ _
    | intro _ _)

theorem execSmaxExact_same {w : List Part} {a s : State} {x0 x1} (h : State.SameBut w a s)
    (hw : [.regs, .sieves, .sram, .faults, .out] ⊆ w) :
    SameOut w a (execSmaxExact x0 x1 s) := by
  unfold execSmaxExact
  with_reducible repeat' (first
    | apply same_next | exact same_fault _ | exact h | assumption
    | refine State.sieveRun_same ?_ (Part.sub (by decide) hw) ?_
    | refine sameOpt_elim (by assumption) (State.smaxOp_same ?_ (Part.sub (by decide) hw))
    | refine State.smaxOp_same ?_ (Part.sub (by decide) hw) | refine same_foldl ?_ _ ?_ | apply sameOut_ite
    | apply sameOpt_some | exact sameOpt_none | apply same_ite | apply_assumption | dsimp only | split | intro _ _ _
    | intro _ _)

theorem execRmsnorm_same {w : List Part} {a s : State} {x0 x1} (h : State.SameBut w a s)
    (hw : [.regs, .sieves, .sram, .faults, .out] ⊆ w) :
    SameOut w a (execRmsnorm x0 x1 s) := by
  unfold execRmsnorm
  with_reducible repeat' (first
    | apply same_next | exact same_fault _ | exact h | assumption
    | refine State.sieveRun_same ?_ (Part.sub (by decide) hw) ?_
    | refine sameOpt_elim (by assumption) (State.normOp_same ?_ (Part.sub (by decide) hw))
    | refine State.normOp_same ?_ (Part.sub (by decide) hw) | refine same_foldl ?_ _ ?_ | apply sameOut_ite
    | apply sameOpt_some | exact sameOpt_none | apply same_ite | apply_assumption | dsimp only | split | intro _ _ _
    | intro _ _)

end Sys2Proof.Machine
end

