-- ==== Sys2Proof/Laws/SameTickets.lean ====
section
/-! SUPPORT. What the definitions of Machine/Tickets.lean change (State.SameBut). -/

namespace Sys2Proof.Machine

theorem State.addStep_same {w : List Part} {a s : State} {x0} (h : State.SameBut w a s)
    (hw : [.loader] ⊆ w) :
    State.SameBut w a (State.addStep s x0) := by
  unfold State.addStep
  with_reducible repeat' (first
    | exact h | assumption | refine State.withLoader_same ?_ hw | refine same_foldl ?_ _ ?_ | apply same_ite
    | apply_assumption | dsimp only | split | intro _ _ _ | intro _ _)

theorem State.beginStep_same {w : List Part} {a s : State} {x0} (h : State.SameBut w a s)
    (hw : [.regs, .loader, .cue, .out] ⊆ w) :
    State.SameBut w a (State.beginStep s x0) := by
  unfold State.beginStep
  with_reducible repeat' (first
    | exact h | assumption | refine State.cueStep_same ?_ (Part.sub (by decide) hw)
    | refine State.addStep_same ?_ (Part.sub (by decide) hw) | refine same_foldl ?_ _ ?_ | apply same_ite
    | apply_assumption | dsimp only | split | intro _ _ _ | intro _ _)

theorem State.takeOnAir_same {w : List Part} {a s : State} {x0 x1} (h : State.SameBut w a s)
    (hw : [.now, .freeCount, .regs, .mem, .hbmStacks, .bells, .loader, .alm, .cue, .looms, .sieves, .gates,
      .pairs, .sram, .reeves, .flight, .ferry, .faults, .restarts, .ledger, .out] ⊆ w) :
    State.SameBut w a (State.takeOnAir s x0 x1) := by
  unfold State.takeOnAir
  with_reducible repeat' (first
    | exact h | assumption | refine State.setJob_same ?_ (Part.sub (by decide) hw)
    | refine State.beginStep_same ?_ (Part.sub (by decide) hw) | refine State.setAlm_same ?_ (Part.sub (by decide) hw)
    | refine State.lateTransit_same ?_ (Part.sub (by decide) hw)
    | refine State.openEntry_same ?_ (Part.sub (by decide) hw) | refine State.withdrawJob_same ?_ hw
    | refine same_foldl ?_ _ ?_ | apply same_ite | apply_assumption | dsimp only | split | intro _ _ _ | intro _ _)

theorem State.refuse_same {w : List Part} {a s : State} {x0 x1 x2 x3 x4} (h : State.SameBut w a s)
    (hw : [.freeCount, .regs, .mem, .hbmStacks, .faults, .out] ⊆ w) :
    State.SameBut w a (State.refuse s x0 x1 x2 x3 x4) := by
  unfold State.refuse
  with_reducible repeat' (first
    | exact h | assumption | refine State.complete_same ?_ hw | refine same_foldl ?_ _ ?_ | apply same_ite
    | apply_assumption | dsimp only | split | intro _ _ _ | intro _ _)

theorem takeFrames_same {w : List Part} {a s : State} {x0 x1} (h : State.SameBut w a s)
    (hw : [.regs, .loader, .out] ⊆ w) :
    SameExc w a (takeFrames x0 x1 s) := by
  fun_induction takeFrames x0 x1 s
  with_reducible repeat' (first
    | apply sameExc_ok | exact sameExc_error _ | exact h | assumption
    | refine sameOpt_elim (by assumption) (State.dropFor_same ?_ hw) | refine State.dropFor_same ?_ hw
    | refine same_foldl ?_ _ ?_ | apply sameExc_ite | apply same_ite | apply_assumption | dsimp only | split
    | intro _ _ _ | intro _ _)

theorem ownBells_same {w : List Part} {a s : State} {x0 x1 x2 x3} (h : State.SameBut w a s)
    (hw : [.bells] ⊆ w) :
    State.SameBut w a (ownBells x0 x1 x2 x3 s) := by
  fun_induction ownBells x0 x1 x2 x3 s
  with_reducible repeat' (first
    | exact h | assumption | refine State.setBell_same ?_ hw | refine same_foldl ?_ _ ?_ | apply same_ite
    | apply_assumption | dsimp only | split | intro _ _ _ | intro _ _)

theorem takeBells_same {w : List Part} {a s : State} {x0 x1 x2 x3} (h : State.SameBut w a s)
    (hw : [.bells] ⊆ w) :
    SameExc w a (takeBells x0 x1 x2 x3 s) := by
  fun_induction takeBells x0 x1 x2 x3 s
  with_reducible repeat' (first
    | apply sameExc_ok | exact sameExc_error _ | exact h | assumption | refine ownBells_same ?_ hw
    | refine same_foldl ?_ _ ?_ | apply sameExc_ite | apply same_ite | apply_assumption | dsimp only | split
    | intro _ _ _ | intro _ _)

theorem State.admitJob_same {w : List Part} {a s : State} {x0 x1 x2 x3 x4 x5 x6} (h : State.SameBut w a s)
    (hw : [.freeCount, .regs, .mem, .hbmStacks, .bells, .loader, .alm, .faults, .out] ⊆ w) :
    State.SameBut w a (State.admitJob s x0 x1 x2 x3 x4 x5 x6) := by
  unfold State.admitJob
  refine State.complete_same (State.adopt_same (placeEntries_same (State.withLoader_same ?_ (Part.sub (by decide) hw)) (Part.sub (by decide) hw)) (Part.sub (by decide) hw)) (Part.sub (by decide) hw)
  refine sameExc_getD ?_ (takeBells_same ?_ (Part.sub (by decide) hw)) <;>
    exact same_foldl (fun _ _ k => ownBells_same k (Part.sub (by decide) hw)) _ (same_ite (sameExc_getD h (takeFrames_same h (Part.sub (by decide) hw))) h)

theorem State.takeAdmit_same {w : List Part} {a s : State} {x0 x1 x2 x3} (h : State.SameBut w a s)
    (hw : [.freeCount, .regs, .mem, .hbmStacks, .bells, .loader, .alm, .faults, .out] ⊆ w) :
    SameOpt w a (State.takeAdmit s x0 x1 x2 x3) := by
  unfold State.takeAdmit
  with_reducible repeat' (first
    | apply sameOpt_some | exact sameOpt_none | exact h | assumption
    | refine State.refuse_same ?_ (Part.sub (by decide) hw) | refine State.answer_same ?_ (Part.sub (by decide) hw)
    | refine State.admitMap_same ?_ (Part.sub (by decide) hw) | refine State.admitJob_same ?_ hw
    | refine same_foldl ?_ _ ?_ | apply sameOpt_ite | refine sameOpt_map ?_ ?_ | refine sameOpt_bind ?_ ?_ | intro _ _
    | apply same_ite | apply_assumption | dsimp only | split | intro _ _ _ | intro _ _)

theorem State.takeUnload_same {w : List Part} {a s : State} {x0 x1 x2} (h : State.SameBut w a s)
    (hw : [.freeCount, .regs, .mem, .hbmStacks, .loader, .faults, .out] ⊆ w) :
    State.SameBut w a (State.takeUnload s x0 x1 x2) := by
  unfold State.takeUnload
  with_reducible repeat' (first
    | exact h | assumption | refine State.refuse_same ?_ (Part.sub (by decide) hw)
    | refine State.answer_same ?_ (Part.sub (by decide) hw)
    | refine State.withLoader_same ?_ (Part.sub (by decide) hw) | refine same_foldl ?_ _ ?_ | apply same_ite
    | apply_assumption | dsimp only | split | intro _ _ _ | intro _ _)

theorem State.noteTurn_same {w : List Part} {a s : State} {x0 x1} (h : State.SameBut w a s)
    (hw : [.loader] ⊆ w) :
    State.SameBut w a (State.noteTurn s x0 x1) := by
  unfold State.noteTurn
  with_reducible repeat' (first
    | exact h | assumption | refine State.withLoader_same ?_ hw | refine same_foldl ?_ _ ?_ | apply same_ite
    | apply_assumption | dsimp only | split | intro _ _ _ | intro _ _)

theorem takeMirror_same {w : List Part} {a s : State} {x0 x1 x2 x3} (h : State.SameBut w a s)
    (hw : [.freeCount, .regs, .mem, .hbmStacks, .loader, .faults, .out] ⊆ w) :
    ∀ n t, takeMirror x0 x1 x2 x3 s = some (n, t) → State.SameBut w a t := by
  induction x2 generalizing s x3 with
  | nil => intro n t e; cases e; exact h
  | cons y ys ih =>
    intro n t e
    unfold takeMirror at e
    split at e
    · exact ih h n t e
    · split at e
      · exact ih h n t e
      · split at e
        · cases e
        · exact ih (State.storeAll_same (State.loaderBytes_same (State.needFrame_same h (Part.sub (by decide) hw) _ _ (by assumption)) (Part.sub (by decide) hw)) (Part.sub (by decide) hw) (fun _ _ k => k)) n t e

theorem State.mirrored_same {w : List Part} {a s : State} {x0 x1} (h : State.SameBut w a s)
    (hw : [.freeCount, .regs, .mem, .hbmStacks, .loader, .faults, .out] ⊆ w) :
    ∀ n t, State.mirrored s x0 x1 = some (n, t) → State.SameBut w a t := by
  intro n t e
  unfold State.mirrored at e
  split at e
  · cases e; exact h
  · simp only [Option.map_eq_some_iff] at e
    obtain ⟨v, hv, hw⟩ := e
    cases hw
    exact takeMirror_same h (Part.sub (by decide) hw) _ _ hv

theorem State.takeReserved_same {w : List Part} {a s s0 : State} {j u i since waited wcet} (h : State.SameBut w a s)
    (h0 : State.SameBut w a s0) (hw : [.now, .freeCount, .regs, .mem, .hbmStacks, .bells, .loader, .alm, .cue, .looms, .sieves, .gates, .pairs, .sram, .reeves, .flight, .ferry, .power, .faults, .restarts, .ledger, .out] ⊆ w) : State.SameBut w a (State.takeReserved s s0 j u i since waited wcet) := by
  unfold State.takeReserved
  with_reducible repeat' (first
    | assumption | refine State.withdrawJob_same ?_ (Part.sub (by decide) hw) | refine State.beginStep_same ?_ (Part.sub (by decide) hw)
    | refine State.setAlm_same ?_ (Part.sub (by decide) hw) | refine State.triggerRetest_same ?_ (Part.sub (by decide) hw) | refine State.refuse_same ?_ (Part.sub (by decide) hw) | apply same_ite | dsimp only | split)

theorem State.takeStep_same {w : List Part} {a s : State} {x0 x1 x2 x3 x4} (h : State.SameBut w a s)
    (hw : [.now, .freeCount, .regs, .mem, .hbmStacks, .bells, .loader, .alm, .cue, .looms, .sieves, .gates,
      .pairs, .sram, .reeves, .flight, .ferry, .power, .faults, .restarts, .ledger, .out] ⊆ w) :
    SameExc w a (State.takeStep s x0 x1 x2 x3 x4) := by
  unfold State.takeStep
  with_reducible repeat' (first
    | apply sameExc_ok | exact sameExc_error _ | exact h | assumption
    | refine State.refuse_same ?_ (Part.sub (by decide) hw) | refine State.answer_same ?_ (Part.sub (by decide) hw)
    | refine State.endTicket_same ?_ (Part.sub (by decide) hw)
    | refine State.freeStepEntry_same ?_ (Part.sub (by decide) hw)
    | refine State.setJob_same ?_ (Part.sub (by decide) hw)
    | refine State.kvIntake_same ?_ (Part.sub (by decide) hw) _ _ _ (by assumption)
    | refine State.mirrored_same ?_ (Part.sub (by decide) hw) _ _ (by assumption)
    | refine State.takeOnAir_same ?_ (Part.sub (by decide) hw) | refine State.takeReserved_same ?_ ?_ hw
    | refine same_foldl ?_ _ ?_ | apply sameExc_ite | apply same_ite | apply_assumption | dsimp only | split
    | intro _ _ _ | intro _ _)

theorem State.takeLoad_same {w : List Part} {a s : State} {x0 x1 x2 x3} (h : State.SameBut w a s)
    (hw : [.freeCount, .regs, .mem, .hbmStacks, .loader, .faults, .out] ⊆ w) :
    State.SameBut w a (State.takeLoad s x0 x1 x2 x3) := by
  unfold State.takeLoad
  with_reducible repeat' (first
    | exact h | assumption | refine State.load_same ?_ (Part.sub (by decide) hw) _ _ (by assumption)
    | refine State.complete_same ?_ (Part.sub (by decide) hw) | refine State.refuse_same ?_ (Part.sub (by decide) hw)
    | refine same_foldl ?_ _ ?_ | apply same_ite | apply_assumption | dsimp only | split | intro _ _ _ | intro _ _)

theorem State.takeRetire_same {w : List Part} {a s : State} {x0 x1 x2} (h : State.SameBut w a s)
    (hw : [.freeCount, .regs, .mem, .hbmStacks, .bells, .loader, .alm, .looms, .sieves, .gates, .pairs, .sram,
      .reeves, .flight, .ferry, .faults, .restarts, .out] ⊆ w) :
    State.SameBut w a (State.takeRetire s x0 x1 x2) := by
  unfold State.takeRetire
  with_reducible repeat' (first
    | exact h | assumption | refine State.answer_same ?_ (Part.sub (by decide) hw) | refine State.removeJob_same ?_ hw
    | refine State.refuse_same ?_ (Part.sub (by decide) hw) | refine same_foldl ?_ _ ?_ | apply same_ite
    | apply_assumption | dsimp only | split | intro _ _ _ | intro _ _)

theorem State.takeOpen_same {w : List Part} {a s : State} {x0 x1 x2} (h : State.SameBut w a s)
    (hw : [.freeCount, .regs, .mem, .hbmStacks, .loader, .faults, .out] ⊆ w) :
    State.SameBut w a (State.takeOpen s x0 x1 x2) := by
  unfold State.takeOpen
  with_reducible repeat' (first
    | exact h | assumption | refine State.refuse_same ?_ (Part.sub (by decide) hw)
    | refine State.complete_same ?_ (Part.sub (by decide) hw)
    | refine State.withLoader_same ?_ (Part.sub (by decide) hw) | refine same_foldl ?_ _ ?_ | apply same_ite
    | apply_assumption | dsimp only | split | intro _ _ _ | intro _ _)

theorem State.takeClose_same {w : List Part} {a s : State} {x0 x1 x2} (h : State.SameBut w a s)
    (hw : [.freeCount, .regs, .mem, .hbmStacks, .loader, .faults, .out] ⊆ w) :
    State.SameBut w a (State.takeClose s x0 x1 x2) := by
  unfold State.takeClose
  with_reducible repeat' (first
    | exact h | assumption | refine State.answer_same ?_ (Part.sub (by decide) hw)
    | refine State.closeSession_same ?_ (Part.sub (by decide) hw)
    | refine State.refuse_same ?_ (Part.sub (by decide) hw) | refine same_foldl ?_ _ ?_ | apply same_ite
    | apply_assumption | dsimp only | split | intro _ _ _ | intro _ _)

theorem State.intake_same {w : List Part} {a s : State} {x0 x1 x2 x3 x4} (h : State.SameBut w a s)
    (hw : [.now, .freeCount, .regs, .mem, .hbmStacks, .bells, .loader, .alm, .cue, .looms, .sieves, .gates,
      .pairs, .sram, .reeves, .flight, .ferry, .power, .faults, .restarts, .ledger, .out] ⊆ w) :
    SameExc w a (State.intake s x0 x1 x2 x3 x4) := by
  unfold State.intake
  with_reducible repeat' (first
    | apply sameExc_ok | exact sameExc_error _ | exact h | assumption
    | refine State.answer_same ?_ (Part.sub (by decide) hw)
    | refine sameExc_elim (by assumption) (State.takeStep_same ?_ hw) | refine State.takeStep_same ?_ hw
    | refine State.takeLoad_same ?_ (Part.sub (by decide) hw)
    | refine State.takeUnload_same ?_ (Part.sub (by decide) hw)
    | refine sameOpt_elim (by assumption) (State.takeAdmit_same ?_ (Part.sub (by decide) hw))
    | refine State.takeAdmit_same ?_ (Part.sub (by decide) hw)
    | refine State.takeRetire_same ?_ (Part.sub (by decide) hw)
    | refine State.takeOpen_same ?_ (Part.sub (by decide) hw)
    | refine State.takeClose_same ?_ (Part.sub (by decide) hw) | refine same_foldl ?_ _ ?_ | apply sameExc_ite
    | apply same_ite | apply_assumption | dsimp only | split | intro _ _ _ | intro _ _)

theorem State.settleTicket_same {w : List Part} {a s : State} {x0 x1 x2 x3 x4} (h : State.SameBut w a s)
    (hw : [.now, .freeCount, .regs, .mem, .hbmStacks, .bells, .loader, .alm, .cue, .looms, .sieves, .gates,
      .pairs, .sram, .reeves, .flight, .ferry, .power, .faults, .restarts, .ledger, .out] ⊆ w) :
    State.SameBut w a (State.settleTicket s x0 x1 x2 x3 x4) := by
  unfold State.settleTicket
  with_reducible repeat' (first
    | exact h | assumption | refine State.loaderRead_same ?_ (Part.sub (by decide) hw)
    | refine sameExc_elim (by assumption) (State.intake_same ?_ hw) | refine State.intake_same ?_ hw
    | refine State.setRingFld_same ?_ (Part.sub (by decide) hw)
    | refine State.withLoader_same ?_ (Part.sub (by decide) hw) | refine same_foldl ?_ _ ?_ | apply same_ite
    | apply_assumption | dsimp only | split | intro _ _ _ | intro _ _)

theorem State.fetchTicket_same {w : List Part} {a s : State} {x0 x1 x2} (h : State.SameBut w a s)
    (hw : [.now, .freeCount, .regs, .mem, .hbmStacks, .bells, .loader, .alm, .cue, .looms, .sieves, .gates,
      .pairs, .sram, .reeves, .flight, .ferry, .power, .faults, .restarts, .ledger, .out] ⊆ w) :
    State.SameBut w a (State.fetchTicket s x0 x1 x2) := by
  unfold State.fetchTicket
  with_reducible repeat' (first
    | exact h | assumption | refine State.noteTurn_same ?_ (Part.sub (by decide) hw)
    | refine State.loaderRead_same ?_ (Part.sub (by decide) hw) | refine State.settleTicket_same ?_ hw
    | refine State.setRingFld_same ?_ (Part.sub (by decide) hw)
    | refine State.ringFault_same ?_ (Part.sub (by decide) hw) | refine same_foldl ?_ _ ?_ | apply same_ite
    | apply_assumption | dsimp only | split | intro _ _ _ | intro _ _)

theorem execTicketFetch_same {w : List Part} {a s : State} {x0 x1 x2} (h : State.SameBut w a s)
    (hw : [.now, .freeCount, .regs, .mem, .hbmStacks, .bells, .loader, .alm, .cue, .looms, .sieves, .gates,
      .pairs, .sram, .reeves, .flight, .ferry, .power, .faults, .restarts, .ledger, .out] ⊆ w) :
    SameOut w a (execTicketFetch x0 x1 x2 s) := by
  unfold execTicketFetch
  with_reducible repeat' (first
    | apply same_next | exact same_fault _ | exact h | assumption | refine State.fetchTicket_same ?_ hw
    | refine same_foldl ?_ _ ?_ | apply sameOut_ite | apply same_ite | apply_assumption | dsimp only | split
    | intro _ _ _ | intro _ _)

theorem execTicketHoldRelease_same {w : List Part} {a s : State} {x0 x1} (h : State.SameBut w a s)
    (hw : [.now, .freeCount, .regs, .mem, .hbmStacks, .bells, .loader, .alm, .cue, .looms, .sieves, .gates,
      .pairs, .sram, .reeves, .flight, .ferry, .power, .faults, .restarts, .ledger, .out] ⊆ w) :
    SameOut w a (execTicketHoldRelease x0 x1 s) := by
  unfold execTicketHoldRelease
  with_reducible repeat' (first
    | apply same_next | exact same_fault _ | exact h | assumption
    | refine State.withLoader_same ?_ (Part.sub (by decide) hw) | refine State.settleTicket_same ?_ hw
    | refine State.setRingFld_same ?_ (Part.sub (by decide) hw) | refine same_foldl ?_ _ ?_ | apply sameOut_ite
    | apply same_ite | apply_assumption | dsimp only | split | intro _ _ _ | intro _ _)

end Sys2Proof.Machine
end

