-- ==== Sys2Proof/Laws/SameWatchman.lean ====
section
/-! SUPPORT. What the definitions of Machine/Watchman.lean change (State.SameBut). -/

namespace Sys2Proof.Machine

theorem State.takeAddress_same {w : List Part} {a s : State} {x0} (h : State.SameBut w a s)
    (hw : [.regs] ⊆ w) :
    State.SameBut w a (State.takeAddress s x0) := by
  unfold State.takeAddress
  with_reducible repeat' (first
    | exact h | assumption | refine State.setFld_same ?_ hw | refine same_foldl ?_ _ ?_ | apply same_ite
    | apply_assumption | dsimp only | split | intro _ _ _ | intro _ _)

theorem execEntdaa_same {w : List Part} {a s : State} {x0} (h : State.SameBut w a s)
    (hw : [.regs, .out] ⊆ w) :
    SameOut w a (execEntdaa x0 s) := by
  unfold execEntdaa
  with_reducible repeat' (first
    | apply same_next | exact same_fault _ | exact h | assumption
    | refine State.takeAddress_same ?_ (Part.sub (by decide) hw)
    | refine State.respond_same ?_ (Part.sub (by decide) hw) | refine same_foldl ?_ _ ?_ | apply sameOut_ite
    | apply same_ite | apply_assumption | dsimp only | split | intro _ _ _ | intro _ _)

theorem execLedgerFlush_same {w : List Part} {a s : State} (h : State.SameBut w a s)
    (hw : [.ledger] ⊆ w) :
    SameOut w a (execLedgerFlush s) := by
  unfold execLedgerFlush
  with_reducible repeat' (first
    | apply same_next | exact same_fault _ | exact h | assumption | refine State.withLedger_same ?_ hw
    | refine same_foldl ?_ _ ?_ | apply sameOut_ite | apply same_ite | apply_assumption | dsimp only | split
    | intro _ _ _ | intro _ _)

theorem execLedgerRead_same {w : List Part} {a s : State} {x0} (h : State.SameBut w a s)
    (hw : [.out] ⊆ w) :
    SameOut w a (execLedgerRead x0 s) := by
  unfold execLedgerRead
  with_reducible repeat' (first
    | apply same_next | exact same_fault _ | exact h | assumption | refine State.respond_same ?_ hw
    | refine same_foldl ?_ _ ?_ | apply sameOut_ite | apply same_ite | apply_assumption | dsimp only | split
    | intro _ _ _ | intro _ _)

theorem regWrites_same {w : List Part} {a s : State} {x0 x1} (h : State.SameBut w a s)
    (hw : [.now, .freeCount, .board, .regs, .guards, .snaps, .mem, .hbmStacks, .fieldReqs, .dmaLost, .ringLost,
      .bells, .loader, .alm, .cue, .mer, .looms, .sieves, .gates, .pairs, .sram, .reeves, .kats, .flight, .ferry, .power, .faults, .restarts, .ledger, .out] ⊆ w) :
    State.SameBut w a (regWrites x0 x1 s).2 := by
  fun_induction regWrites x0 x1 s
  with_reducible repeat' (first
    | exact h | assumption | refine State.busWrite_same ?_ hw | refine same_foldl ?_ _ ?_ | apply same_snd_ite
    | apply same_ite | apply_assumption | dsimp only | split | intro _ _ _ | intro _ _)

theorem State.watchmanReset_same {w : List Part} {a s : State} (h : State.SameBut w a s)
    (hw : [.board, .regs, .guards, .latch, .snaps, .ledger, .wm, .out] ⊆ w) :
    State.SameBut w a (State.watchmanReset s) := by
  unfold State.watchmanReset
  with_reducible repeat' (first
    | exact h | assumption | refine State.clearGuards_same ?_ (Part.sub (by decide) hw)
    | refine State.clearRegs_same ?_ (Part.sub (by decide) hw)
    | refine State.bootComp_same ?_ (Part.sub (by decide) hw) | refine State.withWm_same ?_ (Part.sub (by decide) hw)
    | refine State.ledgerAdd_same ?_ (Part.sub (by decide) hw)
    | refine State.setWmState_same ?_ (Part.sub (by decide) hw) | refine same_foldl ?_ _ ?_ | apply same_ite
    | apply_assumption | dsimp only | split | intro _ _ _ | intro _ _)

theorem execActivateFirmware_same {w : List Part} {a s : State} (h : State.SameBut w a s)
    (hw : [.board, .regs, .guards, .latch, .snaps, .ledger, .wm, .out] ⊆ w) :
    SameOut w a (execActivateFirmware s) := by
  unfold execActivateFirmware
  with_reducible repeat' (first
    | apply same_next | exact same_fault _ | exact h | assumption
    | refine State.respond_same ?_ (Part.sub (by decide) hw) | refine State.withWm_same ?_ (Part.sub (by decide) hw)
    | refine State.watchmanReset_same ?_ hw | refine same_foldl ?_ _ ?_ | apply sameOut_ite | apply same_ite
    | apply_assumption | dsimp only | split | intro _ _ _ | intro _ _)

theorem execSetEndpointId_same {w : List Part} {a s : State} {x0} (h : State.SameBut w a s)
    (hw : [.regs, .out] ⊆ w) :
    SameOut w a (execSetEndpointId x0 s) := by
  unfold execSetEndpointId
  with_reducible repeat' (first
    | apply same_next | exact same_fault _ | exact h | assumption
    | refine State.respond_same ?_ (Part.sub (by decide) hw) | refine State.setFld_same ?_ (Part.sub (by decide) hw)
    | refine same_foldl ?_ _ ?_ | apply sameOut_ite | apply same_ite | apply_assumption | dsimp only | split
    | intro _ _ _ | intro _ _)

theorem execReset_same {w : List Part} {a s : State} {x0 x1 x2} (h : State.SameBut w a s)
    (hw : [.now, .freeCount, .board, .regs, .guards, .latch, .snaps, .mem, .margined, .hbmStacks, .fields,
      .fieldReqs, .dma, .dmaLost, .ringLost, .bells, .loader, .alm, .cue, .mer, .looms, .sieves, .gates, .pairs, .sram, .reeves, .kats, .flight, .ferry, .power, .faults, .restarts, .ledger, .wm, .out] ⊆ w) :
    SameOut w a (execReset x0 x1 x2 s) := by
  unfold execReset
  with_reducible repeat' (first
    | apply same_next | exact same_fault _ | exact h | assumption
    | refine State.respond_same ?_ (Part.sub (by decide) hw)
    | refine State.packageReset_same ?_ (Part.sub (by decide) hw)
    | refine State.croftReset_same ?_ (Part.sub (by decide) hw)
    | refine State.watchmanReset_same ?_ (Part.sub (by decide) hw) | refine same_foldl ?_ _ ?_ | apply sameOut_ite
    | apply same_ite | apply_assumption | dsimp only | split | intro _ _ _ | intro _ _)

theorem execRegWrite_same {w : List Part} {a s : State} {x0 x1 x2} (h : State.SameBut w a s)
    (hw : [.now, .freeCount, .board, .regs, .guards, .snaps, .mem, .hbmStacks, .fieldReqs, .dmaLost, .ringLost,
      .bells, .loader, .alm, .cue, .mer, .looms, .sieves, .gates, .pairs, .sram, .reeves, .kats, .flight, .ferry, .power, .faults, .restarts, .ledger, .out] ⊆ w) :
    SameOut w a (execRegWrite x0 x1 x2 s) := by
  unfold execRegWrite
  with_reducible repeat' (first
    | apply same_next | exact same_fault _ | exact h | assumption
    | refine State.respond_same ?_ (Part.sub (by decide) hw) | refine same_snd (by assumption) (regWrites_same ?_ hw)
    | refine regWrites_same ?_ hw | refine same_foldl ?_ _ ?_ | apply sameOut_ite | apply same_ite | apply_assumption
    | dsimp only | split | intro _ _ _ | intro _ _)

theorem execRequestUpdate_same {w : List Part} {a s : State} {x0} (h : State.SameBut w a s)
    (hw : [.wm, .out] ⊆ w) :
    SameOut w a (execRequestUpdate x0 s) := by
  unfold execRequestUpdate
  with_reducible repeat' (first
    | apply same_next | exact same_fault _ | exact h | assumption
    | refine State.respond_same ?_ (Part.sub (by decide) hw) | refine State.withWm_same ?_ (Part.sub (by decide) hw)
    | refine same_foldl ?_ _ ?_ | apply sameOut_ite | apply same_ite | apply_assumption | dsimp only | split
    | intro _ _ _ | intro _ _)

theorem execSetdasa_same {w : List Part} {a s : State} {x0 x1} (h : State.SameBut w a s)
    (hw : [.regs] ⊆ w) :
    SameOut w a (execSetdasa x0 x1 s) := by
  unfold execSetdasa
  with_reducible repeat' (first
    | apply same_next | exact same_fault _ | exact h | assumption | refine State.takeAddress_same ?_ hw
    | refine same_foldl ?_ _ ?_ | apply sameOut_ite | apply same_ite | apply_assumption | dsimp only | split
    | intro _ _ _ | intro _ _)

theorem regReads_same {w : List Part} {a s : State} {x0 x1} (h : State.SameBut w a s)
    (hw : [.regs, .latch] ⊆ w) :
    State.SameBut w a (regReads x0 x1 s).2 := by
  fun_induction regReads x0 x1 s
  with_reducible repeat' (first
    | exact h | assumption | refine same_snd (by assumption) (State.busRead_same ?_ hw)
    | refine State.busRead_same ?_ hw | refine same_foldl ?_ _ ?_ | apply same_snd_ite | apply same_ite
    | apply_assumption | dsimp only | split | intro _ _ _ | intro _ _)

theorem execRegRead_same {w : List Part} {a s : State} {x0 x1} (h : State.SameBut w a s)
    (hw : [.regs, .latch, .out] ⊆ w) :
    SameOut w a (execRegRead x0 x1 s) := by
  unfold execRegRead
  with_reducible repeat' (first
    | apply same_next | exact same_fault _ | exact h | assumption
    | refine State.respond_same ?_ (Part.sub (by decide) hw)
    | refine same_snd (by assumption) (regReads_same ?_ (Part.sub (by decide) hw))
    | refine regReads_same ?_ (Part.sub (by decide) hw) | refine State.respondWords_same ?_ (Part.sub (by decide) hw)
    | refine same_foldl ?_ _ ?_ | apply sameOut_ite | apply same_ite | apply_assumption | dsimp only | split
    | intro _ _ _ | intro _ _)

theorem execCommitSvn_same {w : List Part} {a s : State} {x0} (h : State.SameBut w a s)
    (hw : [.fuses, .out] ⊆ w) :
    SameOut w a (execCommitSvn x0 s) := by
  unfold execCommitSvn
  with_reducible repeat' (first
    | apply same_next | exact same_fault _ | exact h | assumption
    | refine State.respond_same ?_ (Part.sub (by decide) hw)
    | refine State.withFuses_same ?_ (Part.sub (by decide) hw) | refine same_foldl ?_ _ ?_ | apply sameOut_ite
    | apply same_ite | apply_assumption | dsimp only | split | intro _ _ _ | intro _ _)

theorem execVerifyComplete_same {w : List Part} {a s : State} {x0} (h : State.SameBut w a s)
    (hw : [.wm, .out] ⊆ w) :
    SameOut w a (execVerifyComplete x0 s) := by
  unfold execVerifyComplete
  with_reducible repeat' (first
    | apply same_next | exact same_fault _ | exact h | assumption
    | refine State.respond_same ?_ (Part.sub (by decide) hw) | refine State.withWm_same ?_ (Part.sub (by decide) hw)
    | refine same_foldl ?_ _ ?_ | apply sameOut_ite | apply same_ite | apply_assumption | dsimp only | split
    | intro _ _ _ | intro _ _)

end Sys2Proof.Machine
end

