-- ==== Sys2Proof/Tests/Slice0.lean ====
section
/-! SUPPORT. Tests: well-formedness, witnesses of the statements' hypotheses, and single commands of the spec's examples. -/

open Sys2Proof Sys2Proof.Machine

/-! ### Helpers -/

namespace Slice0

/-- The package in service with its link up and functions 0 to 3. -/
def on : State := State.reset.withBoard { State.reset.board with training := false, perst := false, link := true, vfs := 3 }

/-- The page is shared by the host and the Watchman. -/
def share (s : State) (p : Page) : State := s.setReg (p.reg 0x008) 2

/-- The guard of a page is armed for an offset. -/
def arm (s : State) (m : Master) (p : Page) (x : Nat) : State := s.withGuards (SMap.set none p.base (some ⟨m == .watchman, x⟩) s.guards)

/-- A shared page with its guard armed. -/
def key (m : Master) (p : Page) (x : Nat) : State := arm (share on p) m p x

def next (o : Host.Outcome State Fault Refusal) : State :=
  match o with
  | .next t => t
  | _ => State.reset

def goes (o : Host.Outcome State Fault Refusal) : Bool :=
  match o with
  | .next _ => true
  | _ => false

def sqc : Page := sqPage .squareCtrl
def t0 : Tile := ⟨0, [], []⟩
def x0 : Flit := ⟨0, List.replicate 240 0⟩
def d32 : List Byte := List.replicate 32 0
def ann : AnnounceMsg := ⟨0x7F, 7, 0, 0, 0, 0, 0, 0, 0⟩
/-- An entry of the Almanac, class ON-AIR, armed, for step 0 of job 1. -/
def entry : AEntry := ⟨100, 200, 1, 1, 1, 0, 0, false, true, false, false, 0, 2, 0, 1, false, 3⟩
def alm (e : AEntry) : State := on.setAlm 2047 (some e)
/-- Function 3 has virtual page 0 mapped at physical page 9. -/
def mapped : State := on.withFields (SMap.set none (3 * vaPages) (some ⟨9, true, true⟩) [])

/-! ### Well-formedness: the terms at the ends of their ranges are well formed, and one term is refused for each check -/

set_option maxRecDepth 8000 in
theorem test_wellFormed_1 : ([.hbmTrainingComplete [15], .functionLevelReset 31, .thermalTrip 32 255, .supplyDroop 67, .temporaryFenceRelease 7,
     .stepRestart 65535, .softRepair 15 63 0, .patrolScrub 15, .selfRefreshEntry 15, .duskEntry 7,
     .nightwatchRequest (.host 31), .powerCapWrite (.host 31) 0, .thermalCapWrite (.host 31) 0,
     .limiterAclkChange 2 1800 64, .deadlineTransit 2047, .startTransit 2047, .pieceDispatch 7, .stepStart 65535,
     .stepCommit 65535, .heldCommit 65535, .barrierRelease 65535, .ringTail 31 63 0, .cmplHead 31 63 0,
     .ringCtrlWrite 31 63 0, .ticketFetch 31 63 {}, .ticketHoldRelease 31 63, .pass 7 3 7, .replayPass 7 3 7,
     .instructionRetire 7 3 7, .fenceIssue 7 3 7, .drain 7 3 7, .rampDown 7 3 7, .rampUp 7 3 7, .rampStep 7 3 7,
     .rampGrant 7 3 7, .tileArrival (.gate 0) t0, .multicast 7 0 t0 2047, .sieveNop 7 3, .fma 7 3, .add 7 3, .mul 7 3,
     .min 7 3, .max 7 3] : List Instr).all wellFormed = true := by decide
set_option maxRecDepth 8000 in
theorem test_wellFormed_2 : ([.cmpLt 7 3, .cmpEq 7 3, .select 7 3, .copysign 7 3, .exp2 7 3, .log2 7 3, .expE 7 3, .reciprocal 7 3, .rsqrt 7 3,
     .tanh 7 3, .sigmoid 7 3, .silu 7 3, .gelu 7 3, .gumbel 7 3, .convert 7 3, .rsum 7 3, .rmax 7 3, .argmax 7 3,
     .smaxRun 7 3, .smaxExact 7 3, .layernorm 7 3, .rmsnorm 7 3, .groupnorm 7 3, .sieveSignal 7 3, .sieveWait 7 3,
     .waitSatisfied (.gate 0), .bellWaitTimeout (.gate 0), .gateNop 7, .cscIn 7, .conv 7, .cscOut 7, .gateSignal 7,
     .gateWait 7, .granaryCommandStart 7 32, .granaryNop 7 32, .read 7 32, .write 7 32, .tileArrivalAtPair 7 0 t0,
     .copy 7 32, .fill 7 32, .gather 7 32, .treeAdd 7 32, .redExp 7 32] : List Instr).all wellFormed = true := by decide
set_option maxRecDepth 8000 in
theorem test_wellFormed_3 : ([.redEmax 7 32, .redFix 7 32, .redAdd 7 32, .redCheck 7 32, .redOut 7 32, .optAdamw 7 32, .scrub 7 32, .crc 7 32,
     .granarySignal 7 32, .granaryWait 7 32, .granaryCommandComplete 7 32, .signalSet 7 4095 0, .signalAdd 7 4095 0,
     .signalMax 7 4095 0, .signalError 7 4095 0, .bellSet 31 7 4095 0, .bellAdd 31 7 4095 0, .reeveHeartbeat 7 3 0,
     .reeveWatchdogExpiry 7 3, .map (.host 31) 31 0, .unmap (.host 31) 31 0, .fieldCmdComplete 31,
     .bar2Read 31 281474976710655 0, .bar2Write 31 281474976710655 [], .dmaTail (.host 31) 31 3 0,
     .dmaCtrlWrite (.host 31) 31 3 0, .dmaDescriptor 31 3 d32 [], .dmaComplete 31 3, .ptpArp 4294967295,
     .merCtrlSourceWrite (.host 31) 0, .merRateWrite (.host 31) 0, .merSetLo (.host 31) 0, .merFrameNextLo (.host 31) 0,
     .merNowLo (.host 31), .almIndex (.host 31) 0, .almCtrlWrite (.host 31) 0, .cueDataWrite (.host 31) 0,
     .cueGroupOwner (.host 31) 0, .cueDeferredApply 4095, .cuePortRead 4095 false, .phyLock 7 13, .phyLockLost 7 13,
     .retrain (.host 31) 7 13] : List Instr).all wellFormed = true := by decide
set_option maxRecDepth 8000 in
theorem test_wellFormed_4 : ([.ident 7 13 x0, .probe 7 13 x0, .echo 7 13 x0, .data 7 13 x0, .bell 7 13 x0, .jobStop 7 13 x0, .withdraw 7 13 x0,
     .nak 7 13 x0, .replayTimeout 7 13, .flitTransmit 7 13, .routeCmdLoad (.host 31), .bind (.host 31), .unbind (.host 31),
     .ffKatStart (.host 31) 7 3, .ffKatDone 7 3, .hbmMarginStart (.host 31) 15 0, .hbmMarginDone 15,
     .pageKey (.host 31) 16383 0, .pageOwnerWrite (.host 31) 16383 0, .setViewWrite (.host 31) 0x3FFFFFC 0,
     .clearViewWrite (.host 31) 0x3FFFFFC 0, .faultCodeClear (.host 31) 16383, .snapCtrlTake (.host 31) 16383 0,
     .sqSnapAll (.host 31) 0, .counterLoRead (.host 31) ⟨0x5FFFFFF, 1⟩, .fieldMissRead (.host 31) 31,
     .faultFenceWrite (.host 31) 0, .dieCmdWrite (.host 31) 0, .registerWrite (.host 31) ⟨0x5FFFFFF, 1⟩ 0,
     .regRead 0x3FFFFFC 16, .regWrite 0x3FFFFFC 1 [0], .reset 2 7 false, .ledgerRead 18446744073709551615, .commitSvn 4,
     .setEndpointId 255, .entdaa 127, .requestUpdate 4, .hostLinkUp 7 31 false { vfs := 31 },
     .followUp 0 18446744073709551615, .delayResponse 0 18446744073709551615, .idleFlit 7 13 x0, .islandPowerOn 3,
     .limiterAclkRaise 1800 64] : List Instr).all wellFormed = true := by decide

theorem test_illFormed_1 : ([.hbmTrainingComplete [15, 16], .functionLevelReset 32, .thermalTrip 33 255, .thermalTrip 32 256, .supplyDroop 68,
     .temporaryFenceRelease 8, .stepRestart 65536, .softRepair 16 63 0, .softRepair 15 64 0, .patrolScrub 16,
     .selfRefreshEntry 16, .duskEntry 8, .nightwatchRequest (.host 32), .powerCapWrite (.host 32) 0,
     .thermalCapWrite (.host 32) 0, .limiterAclkChange 0 1800 64, .limiterAclkChange 3 1800 64,
     .limiterAclkChange 2 899 64, .limiterAclkChange 2 1801 64, .limiterAclkChange 2 1800 0, .limiterAclkChange 2 1800 65,
     .limiterAclkChange 2 905 64, .deadlineTransit 2048, .startTransit 2048, .pieceDispatch 8, .stepStart 65536,
     .stepCommit 65536, .heldCommit 65536, .barrierRelease 65536, .ringTail 32 63 0, .ringTail 31 64 0, .cmplHead 32 63 0,
     .cmplHead 31 64 0, .ringCtrlWrite 32 63 0, .ringCtrlWrite 31 64 0, .ticketFetch 32 63 {}, .ticketFetch 31 64 {},
     .ticketHoldRelease 32 63, .ticketHoldRelease 31 64, .pass 8 3 7, .pass 7 4 7, .pass 7 3 8, .replayPass 8 3 7,
     .replayPass 7 4 7, .replayPass 7 3 8] : List Instr).all (fun c => !wellFormed c) = true := by decide
theorem test_illFormed_2 : ([.instructionRetire 8 3 7, .instructionRetire 7 4 7, .instructionRetire 7 3 8, .fenceIssue 8 3 7, .fenceIssue 7 4 7,
     .fenceIssue 7 3 8, .drain 8 3 7, .drain 7 4 7, .drain 7 3 8, .rampDown 8 3 7, .rampDown 7 4 7, .rampDown 7 3 8,
     .rampUp 8 3 7, .rampUp 7 4 7, .rampUp 7 3 8, .rampStep 8 3 7, .rampStep 7 4 7, .rampStep 7 3 8, .rampGrant 8 3 7,
     .rampGrant 7 4 7, .rampGrant 7 3 8, .tileArrival (.loom 8 0 0 0) t0, .tileArrival (.loom 0 4 0 0) t0,
     .tileArrival (.loom 0 0 8 0) t0, .tileArrival (.loom 0 0 0 2048) t0, .tileArrival (.sieve 8 0) t0,
     .tileArrival (.sieve 0 4) t0, .tileArrival (.gate 8) t0, .tileArrival (.commons 8) t0, .tileArrival (.bells 8) t0,
     .tileArrival (.reeve 8 0) t0, .tileArrival (.reeve 0 4) t0, .multicast 8 0 t0 2047, .multicast 7 0 t0 2048,
     .sieveNop 8 3, .sieveNop 7 4, .fma 8 3, .fma 7 4, .add 8 3, .add 7 4, .mul 8 3, .mul 7 4, .min 8 3, .min 7 4, .max 8 3] : List Instr).all (fun c => !wellFormed c) = true := by decide
theorem test_illFormed_3 : ([.max 7 4, .cmpLt 8 3, .cmpLt 7 4, .cmpEq 8 3, .cmpEq 7 4, .select 8 3, .select 7 4, .copysign 8 3, .copysign 7 4,
     .exp2 8 3, .exp2 7 4, .log2 8 3, .log2 7 4, .expE 8 3, .expE 7 4, .reciprocal 8 3, .reciprocal 7 4, .rsqrt 8 3,
     .rsqrt 7 4, .tanh 8 3, .tanh 7 4, .sigmoid 8 3, .sigmoid 7 4, .silu 8 3, .silu 7 4, .gelu 8 3, .gelu 7 4, .gumbel 8 3,
     .gumbel 7 4, .convert 8 3, .convert 7 4, .rsum 8 3, .rsum 7 4, .rmax 8 3, .rmax 7 4, .argmax 8 3, .argmax 7 4,
     .smaxRun 8 3, .smaxRun 7 4, .smaxExact 8 3, .smaxExact 7 4, .layernorm 8 3, .layernorm 7 4, .rmsnorm 8 3, .rmsnorm 7 4] : List Instr).all (fun c => !wellFormed c) = true := by decide
theorem test_illFormed_4 : ([.groupnorm 8 3, .groupnorm 7 4, .sieveSignal 8 3, .sieveSignal 7 4, .sieveWait 8 3, .sieveWait 7 4,
     .waitSatisfied (.loom 8 0 0), .waitSatisfied (.loom 0 4 0), .waitSatisfied (.loom 0 0 8), .waitSatisfied (.sieve 8 0),
     .waitSatisfied (.sieve 0 4), .waitSatisfied (.gate 8), .waitSatisfied (.queue 8 0), .waitSatisfied (.queue 0 33),
     .bellWaitTimeout (.loom 8 0 0), .bellWaitTimeout (.loom 0 4 0), .bellWaitTimeout (.loom 0 0 8),
     .bellWaitTimeout (.sieve 8 0), .bellWaitTimeout (.sieve 0 4), .bellWaitTimeout (.gate 8),
     .bellWaitTimeout (.queue 8 0), .bellWaitTimeout (.queue 0 33), .gateNop 8, .cscIn 8, .conv 8, .cscOut 8,
     .gateSignal 8, .gateWait 8, .granaryCommandStart 8 32, .granaryCommandStart 7 33, .granaryNop 8 32, .granaryNop 7 33,
     .read 8 32, .read 7 33, .write 8 32, .write 7 33, .tileArrivalAtPair 8 0 t0, .copy 8 32, .copy 7 33, .fill 8 32,
     .fill 7 33, .gather 8 32, .gather 7 33, .treeAdd 8 32, .treeAdd 7 33] : List Instr).all (fun c => !wellFormed c) = true := by decide
theorem test_illFormed_5 : ([.redExp 8 32, .redExp 7 33, .redEmax 8 32, .redEmax 7 33, .redFix 8 32, .redFix 7 33, .redAdd 8 32, .redAdd 7 33,
     .redCheck 8 32, .redCheck 7 33, .redOut 8 32, .redOut 7 33, .optAdamw 8 32, .optAdamw 7 33, .scrub 8 32, .scrub 7 33,
     .crc 8 32, .crc 7 33, .granarySignal 8 32, .granarySignal 7 33, .granaryWait 8 32, .granaryWait 7 33,
     .granaryCommandComplete 8 32, .granaryCommandComplete 7 33, .signalSet 8 4095 0, .signalSet 7 4096 0,
     .signalAdd 8 4095 0, .signalAdd 7 4096 0, .signalMax 8 4095 0, .signalMax 7 4096 0, .signalError 8 4095 0,
     .signalError 7 4096 0, .bellSet 32 7 4095 0, .bellSet 31 8 4095 0, .bellSet 31 7 4096 0, .bellAdd 32 7 4095 0,
     .bellAdd 31 8 4095 0, .bellAdd 31 7 4096 0, .reeveHeartbeat 8 3 0, .reeveHeartbeat 7 4 0, .reeveWatchdogExpiry 8 3,
     .reeveWatchdogExpiry 7 4, .map (.host 31) 32 0, .map (.host 32) 31 0, .unmap (.host 31) 32 0] : List Instr).all (fun c => !wellFormed c) = true := by decide
theorem test_illFormed_6 : ([.unmap (.host 32) 31 0, .fieldCmdComplete 32, .bar2Read 32 281474976710655 0, .bar2Read 31 (2 ^ 48) 0,
     .bar2Write 32 281474976710655 [], .bar2Write 31 (2 ^ 48) [], .dmaTail (.host 31) 32 3 0, .dmaTail (.host 31) 31 4 0,
     .dmaTail (.host 32) 31 3 0, .dmaCtrlWrite (.host 31) 32 3 0, .dmaCtrlWrite (.host 31) 31 4 0,
     .dmaCtrlWrite (.host 32) 31 3 0, .dmaDescriptor 32 3 d32 [], .dmaDescriptor 31 4 d32 [], .dmaDescriptor 31 3 [0] [],
     .dmaComplete 32 3, .dmaComplete 31 4, .ptpArp (2 ^ 32), .merCtrlSourceWrite (.host 32) 0, .merRateWrite (.host 32) 0,
     .merSetLo (.host 32) 0, .merFrameNextLo (.host 32) 0, .merNowLo (.host 32), .almIndex (.host 32) 0,
     .almCtrlWrite (.host 32) 0, .cueDataWrite (.host 32) 0, .cueGroupOwner (.host 32) 0, .cueDeferredApply 4096,
     .cuePortRead 4096 false, .phyLock 8 13, .phyLock 7 14, .phyLockLost 8 13, .phyLockLost 7 14, .retrain (.host 31) 8 13,
     .retrain (.host 31) 7 14, .retrain (.host 32) 7 13, .ident 8 13 x0, .ident 7 14 x0, .ident 7 13 ⟨0, []⟩,
     .probe 8 13 x0, .probe 7 14 x0, .probe 7 13 ⟨0, []⟩, .echo 8 13 x0, .echo 7 14 x0, .echo 7 13 ⟨0, []⟩] : List Instr).all (fun c => !wellFormed c) = true := by decide
theorem test_illFormed_7 : ([.data 8 13 x0, .data 7 14 x0, .data 7 13 ⟨0, []⟩, .bell 8 13 x0, .bell 7 14 x0, .bell 7 13 ⟨0, []⟩, .jobStop 8 13 x0,
     .jobStop 7 14 x0, .jobStop 7 13 ⟨0, []⟩, .withdraw 8 13 x0, .withdraw 7 14 x0, .withdraw 7 13 ⟨0, []⟩, .nak 8 13 x0,
     .nak 7 14 x0, .nak 7 13 ⟨0, []⟩, .replayTimeout 8 13, .replayTimeout 7 14, .flitTransmit 8 13, .flitTransmit 7 14,
     .routeCmdLoad (.host 32), .bind (.host 32), .unbind (.host 32), .ffKatStart (.host 31) 8 3,
     .ffKatStart (.host 31) 7 4, .ffKatStart (.host 32) 7 3, .ffKatDone 8 3, .ffKatDone 7 4,
     .hbmMarginStart (.host 31) 16 0, .hbmMarginStart (.host 32) 15 0, .hbmMarginDone 16, .pageKey (.host 31) 0x4000 0,
     .pageKey (.host 32) 16383 0, .pageOwnerWrite (.host 31) 0x4000 0, .pageOwnerWrite (.host 32) 16383 0,
     .setViewWrite (.host 31) 0x4000000 0, .setViewWrite (.host 31) 2 0, .setViewWrite (.host 32) 0x3FFFFFC 0,
     .clearViewWrite (.host 31) 0x4000000 0, .clearViewWrite (.host 31) 2 0, .clearViewWrite (.host 32) 0x3FFFFFC 0,
     .faultCodeClear (.host 31) 0x4000, .faultCodeClear (.host 32) 16383, .snapCtrlTake (.host 31) 0x4000 0,
     .snapCtrlTake (.host 32) 16383 0, .sqSnapAll (.host 32) 0] : List Instr).all (fun c => !wellFormed c) = true := by decide
theorem test_illFormed_8 : ([.counterLoRead (.host 31) ⟨0x6000000, 4⟩, .counterLoRead (.host 31) ⟨0, 0⟩, .counterLoRead (.host 32) ⟨0x5FFFFFF, 1⟩,
     .fieldMissRead (.host 31) 32, .fieldMissRead (.host 32) 31, .faultFenceWrite (.host 32) 0, .dieCmdWrite (.host 32) 0,
     .registerWrite (.host 31) ⟨0x6000000, 4⟩ 0, .registerWrite (.host 31) ⟨0, 0⟩ 0,
     .registerWrite (.host 32) ⟨0x5FFFFFF, 1⟩ 0, .regRead 0x4000000 16, .regRead 0x3FFFFFC 0, .regRead 0x3FFFFFC 17,
     .regRead 2 16, .regWrite 0x4000000 1 [0], .regWrite 0x3FFFFFC 0 [0], .regWrite 0x3FFFFFC 17 [0], .regWrite 2 1 [0],
     .regWrite 0x3FFFFFC 1 [], .reset 3 7 false, .reset 2 8 false, .ledgerRead (2 ^ 64), .commitSvn 0, .commitSvn 5,
     .setEndpointId 256, .entdaa 128, .requestUpdate 0, .requestUpdate 5, .hostLinkUp 8 31 false { vfs := 31 },
     .hostLinkUp 7 32 false { vfs := 31 }, .hostLinkUp 7 31 false { vfs := 32 }, .followUp 0 (2 ^ 64),
     .delayResponse 0 (2 ^ 64), .idleFlit 8 13 x0, .idleFlit 7 14 x0, .idleFlit 7 13 ⟨0, []⟩, .islandPowerOn 4,
     .limiterAclkRaise 899 64, .limiterAclkRaise 1801 64, .limiterAclkRaise 1800 0, .limiterAclkRaise 1800 65,
     .limiterAclkRaise 905 64] : List Instr).all (fun c => !wellFormed c) = true := by decide

/-! ### Witnesses: for each statement with hypotheses, a state and operands that meet them, for each of its clauses -/

theorem wit_StepRunsFrontCommand : (on.withPending [.wakeN, .twilight]).pending = .wakeN :: [.twilight] := by decide
theorem wit_EmptyQueueIdles : on.pending = [] ∧ (∀ d, d < 8 → (on.withNow (on.now + 1)).dieState d = on.dieState d) := by decide
theorem wit_EveryStepKeepsInvariant : State.Inv on ∧ goes (step on) = true := by unfold State.Inv; decide
theorem wit_EveryCommandKeepsTheMonotone : goes (exec (.islandPowerOn 3) on) = true := by decide
theorem wit_EveryCommandWritesOnlyItsState : goes (exec (.signalSet 7 4095 5) on) = true := by decide
theorem wit_RegisterWritesTakeEffect :
    (busOf (.registerWrite (.host 0) ⟨sqc.reg 0x06C, 4⟩ 7) = some (.host 0, sqc.reg 0x06C, 7)
      ∧ resolve (.host 0) (sqc.reg 0x06C) = some (sqc, 0x06C) ∧ on.accepts (.host 0) sqc 0x06C = true) := by decide
theorem wit_RefusedWrites_owner :
    busOf (.registerWrite .watchman ⟨sqc.reg 0x060, 4⟩ 7) = some (.watchman, sqc.reg 0x060, 7)
      ∧ (on.setReg (sqc.reg 0x008) 0).hears .watchman sqc 0x060 = true
      ∧ ownerAllows ((on.setReg (sqc.reg 0x008) 0).ownerOf sqc) .watchman = false := by decide
theorem wit_RefusedWrites_unheard : resolve (.host 0) 0x3FFFFFC = none ∧ resolve .watchman 0x3FFFFFC = none := by decide
theorem wit_WrittenWord_field : powerCap_watts ∈ (PageType.power.fieldsAt 0x048) ∧ powerCap_watts.acc = .rw
    ∧ (landed (.host 0) powerPage 0x048 2000).merKept on false = false
    ∧ legalCode powerPage powerCap_watts (viewed .direct 2800 2000) = true ∧ on.fieldKept powerPage powerCap_watts = false
    ∧ watchmanOnly powerPage powerCap_watts = false := by decide
theorem wit_WrittenWord_codes : powerStatus_aclkMhz ∈ (PageType.power.fieldsAt 0x050) ∧ powerStatus_aclkMhz.acc = .ro
    ∧ dieCmd_op ∈ (PageType.power.fieldsAt 0x05C) ∧ dieCmd_op.acc = .wo ∧ fieldMiss_count ∈ (PageType.host.fieldsAt 0x210)
    ∧ fieldMiss_count.acc = .rc ∧ power_evtRaw_trip ∈ (PageType.power.fieldsAt 0x018) ∧ power_evtRaw_trip.acc = .w1c
    ∧ merCtrl_source ∈ (PageType.meridian.fieldsAt 0x044) ∧ merCtrl_source.acc = .rwg ∧ flCtrl_retrain ∈ (PageType.ferry.fieldsAt 0x044)
    ∧ flCtrl_retrain.acc = .w1s ∧ ((PageType.power.fieldsAt 0x008).any fun f => f.acc == .wmRw) = true := by decide
theorem wit_WrittenWord_source : (landed (.host 0) merPage 0x044 2).merKept
    (alm entry) true = true := by decide
theorem wit_WrittenWord_kept : powerCap_watts.acc = .rw ∧ legalCode powerPage powerCap_watts (viewed .direct 2000 999) = false := by decide
theorem wit_ViewsAct : on.accepts (.host 0) sqc 0x060 = true ∧ resolve (.host 0) (sqc.reg 0x46C) = some (sqc, 0x46C) := by decide
theorem wit_FaultCode : resolve (.host 0) ((powerPage.base / 0x1000) * 0x1000 + 0x024) = some (powerPage, 0x024)
    ∧ (share on powerPage).accepts (.host 0) powerPage 0x024 = true ∧ powerPage.type.hasFault = true := by decide
theorem wit_PageKey : resolve .watchman ((powerPage.base / 0x1000) * 0x1000 + 0x00C) = some (powerPage, 0x00C)
    ∧ (share on powerPage).accepts .watchman powerPage 0x00C = true := by decide
theorem wit_Owners : resolve .watchman ((powerPage.base / 0x1000) * 0x1000 + 0x008) = some (powerPage, 0x008)
    ∧ on.hears .watchman powerPage 0x008 = true ∧ resolve (.host 0) ((powerPage.base / 0x1000) * 0x1000 + 0x008) = some (powerPage, 0x008)
    ∧ (share on powerPage).accepts (.host 0) powerPage 0x008 = true := by decide
set_option maxRecDepth 8000 in
theorem wit_Snapshots : (share on (hostPage 0)).accepts (.host 0) (hostPage 0) 0x030 = true ∧ (PageType.host).counters ≠ []
    ∧ on.accepts (.host 0) sqc 0x05C = true ∧ (5#32).getLsbD 0 = true := by decide
set_option maxRecDepth 8000 in
theorem wit_Snapshots_pages : (counterPages.contains (loomPage 7 3 7)) = true ∧ on.served (loomPage 7 3 7) = true
    ∧ (on.setFld (sqPage .fault) faultFence_fenced 128).served (loomPage 7 3 7) = false := by decide
theorem wit_PowerWrites : (share on powerPage).accepts (.host 0) powerPage 0x048 = true
    ∧ (share on powerPage).accepts (.host 0) powerPage 0x04C = true ∧ (share on powerPage).accepts (.host 0) powerPage 0x444 = true
    ∧ (share on powerPage).board.night = 0 ∧ (share on powerPage).accepts (.host 0) powerPage 0x05C = true
    ∧ (share on powerPage).fld powerPage powerCap_watts ≤ 2800 := by decide
theorem wit_PowerWrites_fence : (key .watchman (sqPage .fault) 0x04C).accepts .watchman (sqPage .fault) 0x04C = true
    ∧ (key .watchman (sqPage .fault) 0x04C).guardMatches (landed .watchman (sqPage .fault) 0x04C 255) = true := by decide
theorem wit_PowerWrites_die : (share on powerPage).fld powerPage dieStatus_busy = 0
    ∧ ((share on powerPage).setFld powerPage dieStatus_busy 1).fld powerPage dieStatus_busy = 1
    ∧ ((share on powerPage).setFld (sqPage .fault) faultFence_fenced 0x80).fenced 7 = true
    ∧ ((share on powerPage).setFld (sqPage .fault) faultFence_fenced 0x7F).liveDies = [7] ∧ on.fenced 7 = false ∧ on.isReserve 7 = false
    ∧ on.liveDies ≠ [7] ∧ (alm { entry with dies := 128 }).named 7 [1, 2, 3, 4, 5] = true := by decide
theorem wit_PowerWrites_cap : on.fld powerPage powerCap_watts = 2800 ∧ on.fld powerPage thermalCap_degc = 105
    ∧ (on.setFld powerPage powerCap_watts 1000).fld powerPage powerCap_watts < 2800
    ∧ effectiveMhz 8 64 < on.aclkMhz ∧ on.aclkMhz ≤ effectiveMhz 1800 64 ∧ on.power.capReq = none
    ∧ ((on.withPower { on.power with capReq := some (1, 1010, 64) }).power.capReq.any fun r => r.1 == 1) = true
    ∧ ((on.withPower { on.power with capReq := some (2, 1010, 64) }).power.capReq.any fun r => r.1 == 1) = false := by decide
theorem wit_PowerWrites_fences : let s := on.withPower { on.power with permFence := [3, 5], tempFence := [(5, 3)] }
    3 ∈ s.power.permFence ∧ (s.power.tempFence.any fun x => x.1 == 3) = false ∧ (s.power.tempFence.any fun x => x.1 == 5) = true
    ∧ 7 ∉ s.power.permFence ∧ (4#32).toNat.testBit 2 = true ∧ (4#32).toNat.testBit 7 = false := by decide
theorem wit_TimingWrites_source : (key (.host 0) merPage 0x044).accepts (.host 0) merPage 0x044 = true
    ∧ (key (.host 0) merPage 0x044).guardMatches (landed (.host 0) merPage 0x044 2) = true := by decide
theorem wit_TimingWrites_rate : (key (.host 0) merPage 0x048).accepts (.host 0) merPage 0x048 = true
    ∧ (key (.host 0) merPage 0x048).guardMatches (landed (.host 0) merPage 0x048 1) = true := by decide
theorem wit_TimingWrites_set : (key (.host 0) merPage 0x068).accepts (.host 0) merPage 0x068 = true
    ∧ (key (.host 0) merPage 0x068).guardMatches (landed (.host 0) merPage 0x068 1) = true
    ∧ (share on merPage).accepts (.host 0) merPage 0x060 = true := by decide
theorem wit_TimingWrites_kept : (key (.host 0) merPage 0x044).merSource = 0 ∧ (alm entry).guaranteed = true ∧ on.guaranteed = false
    ∧ legalRates.contains (50, 0) = true ∧ legalRates.contains (0, 0) = false
    ∧ (on.withMer { on.mer with ptp := true }).mer.ptp = true ∧ on.mer.ptp = false ∧ trLine 0 < on.videoL
    ∧ on.videoL ≤ trLine (mkTransit 0 4095 0) ∧ (on.setFld merPage merCtrl_source 2).merSource ≠ 0 := by decide
theorem wit_TimingWrites_almanac : (share on (sqPage .almanac)).accepts (.host 0) (sqPage .almanac) 0x04C = true
    ∧ (key (.host 0) (sqPage .almanac) 0x044).accepts (.host 0) (sqPage .almanac) 0x044 = true
    ∧ (key (.host 0) (sqPage .almanac) 0x044).guardMatches (landed (.host 0) (sqPage .almanac) 0x044 500) = true
    ∧ on.guaranteed = false := by decide
theorem wit_TimingWrites_cue : (share on (sqPage .cue)).accepts (.host 0) (sqPage .cue) 0x04C = true
    ∧ (key (.host 0) (sqPage .cue) 0x054).accepts (.host 0) (sqPage .cue) 0x054 = true
    ∧ (key (.host 0) (sqPage .cue) 0x054).guardMatches (landed (.host 0) (sqPage .cue) 0x054 63) = true := by decide
theorem wit_TimingWrites_cue_reach : let m : Master := .host 0
    on.cueReach m (on.cueIndex m) = true ∧ on.cueReach (.host 3) (on.cueIndex (.host 3)) = false
    ∧ ¬ (on.now < on.cueDue (on.cueIndex m)) ∧ (on.cue.deferred.any fun x => x.entry == on.cueIndex m) = false
    ∧ on.now < (on.withCue { on.cue with changed := SMap.set none 0 (some 0) [] }).cueDue (on.cueIndex m) := by decide
theorem wit_FerryWrites : portOk 7 13 = true ∧ (share on (portPage 7 13)).accepts (.host 0) (portPage 7 13) 0x444 = true
    ∧ (share on (sqPage .ferryPkg)).accepts (.host 0) (sqPage .ferryPkg) 0x050 = true
    ∧ (share on (sqPage .ferryPkg)).accepts (.host 0) (sqPage .ferryPkg) 0x068 = true := by decide
theorem wit_FerryWrites_retrain : on.fld (portPage 7 13) flCtrl_enable = 1
    ∧ (on.setFld (portPage 7 13) flCtrl_enable 0).fld (portPage 7 13) flCtrl_enable = 0 ∧ on.eccClean = true ∧ on.ferry.loading = none
    ∧ (on.withFerry { on.ferry with loading := some (0, []) }).ferry.loading.isSome = true ∧ on.ferry.binds = []
    ∧ on.mapped 0 0 routeTableBytes false = false ∧ routeOk 0 = true
    ∧ (on.withFields (SMap.set none 0 (some ⟨9, true, true⟩) [])).mapped 0 0 routeTableBytes false = true := by decide
theorem wit_FerryWrites_bind : on.ferry.fjUntil ≤ on.now ∧ on.now < (on.withFerry { on.ferry with fjUntil := 1 }).ferry.fjUntil
    ∧ on.job? (on.fld (sqPage .ferryPkg) fjJob_job) = none
    ∧ ([⟨9, 1, []⟩, ⟨8, 1, []⟩] : List Binding).any (fun b => b.sysjob == 9 && b.job != 2) = true
    ∧ on.fld (sqPage .ferryPkg) ferryNode_valid = 0
    ∧ (on.setFld (sqPage .ferryPkg) ferryNode_valid 1).fld (sqPage .ferryPkg) ferryNode_valid = 1 := by decide
theorem wit_HostWrites : (share on (hostPage 3)).accepts (.host 0) (hostPage 3) 0x208 = true
    ∧ resolve (.host 0) (hostAddr (.host 0) 3 + 0x208) = some (hostPage 3, 0x208)
    ∧ (share on (hostPage 3)).accepts (.host 0) (hostPage 3) (0x10C + 32 * 3) = true
    ∧ resolve (.host 0) (hostAddr (.host 0) 3 + 0x10C + 32 * 3) = some (hostPage 3, 0x10C + 32 * 3) := by decide
theorem wit_HostWrites_rings : (share on (hostPage 3)).accepts (.host 3) (ringPage 3 63) 0x14 = true
    ∧ (share on (hostPage 3)).accepts (.host 3) (ringPage 3 63) 0x24 = true
    ∧ (share on (hostPage 3)).accepts (.host 3) (ringPage 3 63) 0x08 = true
    ∧ (share on (hostPage 3)).ringFld 3 63 ringCtrl_enable = 0 := by decide
theorem wit_HostWrites_enable : (share on (hostPage 3)).accepts (.host 0) (hostPage 3) (0x108 + 32 * 3) = true
    ∧ resolve (.host 0) (hostAddr (.host 0) 3 + 0x108 + 32 * 3) = some (hostPage 3, 0x108 + 32 * 3)
    ∧ on.dmaFld 3 3 dmaCtrl_enable = 0 ∧ on.dmaFld 3 3 dmaHead_head = on.dmaFld 3 3 dmaTail_tail ∧ on.dmaRuns 3 3 = [] := by decide
theorem wit_HostWrites_busy : on.fld (hostPage 3) fieldStatus_busy = 0 ∧ (on.setFld (hostPage 3) fieldStatus_busy 1).fld (hostPage 3) fieldStatus_busy = 1
    ∧ (1#32).toNat % 4 = 1 ∧ (6#32).toNat % 4 = 2 ∧ on.dmaSize 3 3 ≤ 4095 ∧ 0 < on.dmaSize 3 3
    ∧ (on.setReg ((hostPage 3).reg (0x108 + 96)) 1).dmaFld 3 3 dmaCtrl_enable = 1
    ∧ ((on.setRingFld 3 63 ringCtrl_enable 1).setRingFld 3 63 ringCtrl_log2Size 4).ringSize 3 63 = 16
    ∧ (on.setRingFld 3 63 ringCtrl_enable 1).ringFld 3 63 ringCtrl_enable = 1 := by decide
theorem wit_Tests : hamletOk 7 3 = true ∧ (share on (fireflyPage 7 3)).accepts (.host 0) (fireflyPage 7 3) 0x044 = true
    ∧ (key (.host 0) (hbmPage 15) 0x060).accepts (.host 0) (hbmPage 15) 0x060 = true
    ∧ (key (.host 0) (hbmPage 15) 0x060).guardMatches (landed (.host 0) (hbmPage 15) 0x060 127) = true := by decide
theorem wit_Tests_kat : SMap.get none (on.withKats (SMap.set none (hamKey 7 3) (some ⟨1, 2, 3⟩) [])).kats (hamKey 7 3) = some ⟨1, 2, 3⟩ := by
  decide
theorem wit_Tests_start : on.fld (fireflyPage 7 3) ffKatCtrl_start = 0
    ∧ (on.setFld (fireflyPage 7 3) ffKatCtrl_start 1).fld (fireflyPage 7 3) ffKatCtrl_start = 1 ∧ on.loader.loadedOnce = false
    ∧ on.board.vfs ≠ 0 ∧ (on.withBoard { on.board with vfs := 0 }).board.vfs = 0 ∧ (on.stack 15).margin = none := by decide
theorem wit_StackEvents_patrol : on.fld (hbmPage 15) hbmScrubCtrl_enable = 1
    ∧ (on.setFld (hbmPage 15) hbmStatus_trained 1).fld (hbmPage 15) hbmStatus_trained = 1 ∧ ((on.pair 7).queue 32).length < 16
    ∧ ((on.pair 7).queue 32 = [] ∧ (on.pair 7).running = []) := by decide

theorem wit_StackEvents_repair : ((on.setStack 0 { on.stack 0 with rowCe := [(0, 0), (32, 0)] }).stack 0 |>.needsRepair 0) = true := by decide
theorem wit_StackEvents_refresh : (on.withPower { on.power with twilight := [7] }).inTwilight (15 / 2) = true
    ∧ (on.pair 7).running = [] := by decide
theorem wit_StackEvents_margin : ((on.setStack 15 { on.stack 15 with margin := some 63 }).stack 15).margin = some 63 := by decide
theorem wit_ColdReset : (State.reset.withBoard { State.reset.board with island := false }).board.island = false
    ∧ (State.reset.withBoard { State.reset.board with island := false, mainOk := false }).board.mainOk = false ∧ (State.reset.withBoard { State.reset.board with mainOk := false }).board.held = false
    ∧ (State.reset.withBoard { State.reset.board with mainOk := false, held := true }).board.mainOk = false := by decide
theorem wit_PackageReset : on.board.island = true ∧ on.board.mainOk = true ∧ on.board.perst = false ∧ on.board.recovery = false
    ∧ on.board.held = false ∧ on.board.training = false := by decide
theorem wit_Lands : State.reset.board.perst = true ∧ State.reset.board.extest = false ∧ on.board.perstPark = false
    ∧ State.reset.board.training = true ∧ State.reset.board.island = true ∧ State.reset.board.mainOk = true := by decide
theorem wit_Lands_extest : (State.reset.withBoard { State.reset.board with extest := true }).board.extest = true
    ∧ (State.reset.withBoard { State.reset.board with extest := true, perstPark := true }).board.perstPark = true
    ∧ (3 : Nat) ∈ [3, 15] ∧ (2 : Nat) ∉ [3, 15] ∧ on.up = true
    ∧ (State.reset.withBoard { State.reset.board with perst := false }).board.perst = false := by decide
theorem wit_LinksAndFunctions : on.squareOn = true ∧ on.board.perst = false ∧ on.board.recovery = false ∧ on.board.night ≠ 2
    ∧ on.board.link = true ∧ on.functions.contains 3 = true ∧ on.eccClean = true ∧ trainsTo 6 16 true = true ∧ trainsTo 1 1 false = true := by decide
theorem wit_LinksAndFunctions_cfg : (on.pcieFn 0).memEnable = false ∧ ({ vfs := 31, bar2 := 40 } : HostCfg).bar2 ≤ 40
    ∧ ((on.withBoard { on.board with pcie := SMap.set {} 0 { memEnable := true } [] }).pcieFn 0).memEnable = true := by decide
theorem wit_Clock : on.up = true ∧ clockOk 900 64 = true ∧ clockOk 1800 64 = true
    ∧ (on.withPower { on.power with capReq := some (1, 1010, 64) }).power.capReq = some (1, 1010, 64)
    ∧ effectiveMhz 900 64 < on.aclkMhz := by decide
theorem wit_Clock_raise : on.power.capReq = none
    ∧ ((on.setFld powerPage powerStatus_aclkMhz 900).setFld (sqPage .almanac) almStatus_aclkMhz 900).aclkMhz < effectiveMhz 1800 64 := by decide
theorem wit_Clock_reached : on.capReached 1 = false ∧ on.capReached 2 = false
    ∧ ((on.withNow 1000000).setFld powerPage powerCap_watts 0).sensed = true := by decide
theorem wit_Protection : on.squareOn = true ∧ on.fenced 7 = false ∧ unitDie 7 = some 7 ∧ (16 ≤ 31 ∧ unitDie 31 = some 7)
    ∧ (on.withPower { on.power with tempFence := [(7, 3)] }).power.tempFence.find? (fun x => x.1 == 7) = some (7, 3)
    ∧ ((on.withPower { on.power with tempFence := [(7, 3)] }).setFld (sqPage .fault) faultFence_fenced 128).fenced 7 = true := by decide
theorem wit_Protection_square : (115 : Nat) ≤ 125 ∧ (125 : Nat) < 256 ∧ getField (on.reg (powerPage.reg 0x024)) 31 31 = 0
    ∧ (on.withPower { on.power with tempFence := [(7, 3)], permFence := [7] }).power.permFence.contains 7 = true
    ∧ (on.withPower { on.power with tempFence := [(7, 3)] }).power.permFence.contains 7 = false := by decide
theorem wit_DieStates : (on.setFld powerPage powerCtrl_duskEn 1).fld powerPage powerCtrl_duskEn = 1 ∧ on.dieLive 7 = true
    ∧ on.dieState 7 = 0 ∧ on.dieIdle 7 = true ∧ on.named 7 [2, 3] = false := by decide
theorem wit_DieStates_twilight : on.faults = [] ∧ on.inTwilight 7 = false ∧ on.twilightRefused 7 = false ∧ on.twilightWaits 7 = false
    ∧ (on.withPower { on.power with dieReq := some (7, 1) }).power.dieReq = some (7, 1)
    ∧ (on.withPower { on.power with dieReq := some (7, 2), twilight := [7] }).inTwilight 7 = true := by decide
theorem wit_DieStates_refused : (on.setFld (sqPage .fault) faultFence_fenced 128).twilightRefused 7 = true
    ∧ (alm { entry with dies := 128 }).twilightRefused 7 = false ∧ (alm { entry with dies := 128 }).twilightWaits 7 = true
    ∧ (alm { entry with dies := 128 }).faults = [] ∧ (alm { entry with dies := 128 }).inTwilight 7 = false := by decide
theorem wit_Nightwatch : (on.withBoard { on.board with night := 1 }).up = true ∧ (on.alm.any (·.2.isSome)) = false
    ∧ on.dmaOutstanding = false ∧ on.faults = [] ∧ (on.withBoard { on.board with night := 2 }).squareOn = true
    ∧ ((on.setFld merPage merCtrl_keepInNightwatch 1).setFld powerPage nwWakeLo_transit 9).fld merPage merCtrl_keepInNightwatch = 1
    ∧ ((on.setFld merPage merCtrl_keepInNightwatch 1).setFld powerPage nwWakeLo_transit 9).nwWake ≠ 0 := by decide
theorem wit_Faults_captured : powerPage.type.hasFault = true ∧ getField (on.reg (powerPage.reg 0x024)) 31 31 = 0
    ∧ getField ((on.setReg (powerPage.reg 0x024) 0x8000FF49).reg (powerPage.reg 0x024)) 31 31 = 1 := by decide
theorem wit_Faults_taken : (on.withFaults [⟨0x43, 0, 0, none, 0, 0⟩]).faults = ⟨0x43, 0, 0, none, 0, 0⟩ :: [] ∧ on.faults = []
    ∧ hwPage 0x40 (loomPage 7 3 7).type = true ∧ on.served (loomPage 7 3 7) = true ∧ pageAt (loomPage 7 3 7).base = some (loomPage 7 3 7, 0)
    ∧ hwPage 0x40 (fireflyPage 7 3).type = false
    ∧ pageAt (fireflyPage 7 3).base = some (fireflyPage 7 3, 0) := by decide
theorem wit_Reads : on.functions.contains 0 = true ∧ resolve (.host 0) (merPage.reg 0x058) = some (merPage, 0x058)
    ∧ visible (.host 0) merPage 0x058 = true ∧ (viewAt merPage 0x058).1 = .direct ∧ (PageType.meridian).latching.contains 0x058 = true
    ∧ on.served merPage = true := by decide
theorem wit_Reads_latched : let key := latchKey (.host 0) (merPage.reg 0x05C)
    on.reaches (.host 0) merPage = true ∧ SMap.get none (on.withLatch (SMap.set none key (some 7) [])).latch key = some 7
    ∧ resolve (.host 0) (merPage.reg 0x05C) = some (merPage, 0x05C) ∧ visible (.host 0) merPage 0x05C = true
    ∧ merPage.reg 0x058 % 4 = 0 ∧ merPage.reg 0x058 < 0x4000000 ∧ on.hostPath 3 = true := by decide
theorem wit_Reads_fenced : let p := loomPage 7 3 7
    let s := on.setFld (sqPage .fault) faultFence_fenced 128
    s.reaches .watchman p = true ∧ s.served p = false ∧ p.type.latching ≠ [] := by decide
theorem wit_Reads_miss : on.served (hostPage 3) = true ∧ resolve .watchman (hostAddr .watchman 3 + 0x210) = some (hostPage 3, 0x210)
    ∧ resolve (.host 0) (hostAddr (.host 0) 3 + 0x210) = some (hostPage 3, 0x210) ∧ SMap.get none on.latch 0 = none
    ∧ on.reaches .watchman (hostPage 3) = true ∧ on.reaches (.host 0) (hostPage 3) = true := by decide
theorem wit_Ways : (tileWay (fun _ => false) 0 4).length = 5 ∧ Stop.square ∈ tileWay (fun d => d == 1 || d == 7) 0 4
    ∧ Stop.square ∈ messageWay 0 7 := by decide
theorem wit_ManagementBus : on.fld wmPage wmStatus_i3c = 0 ∧ (on.setFld wmPage wmStatus_i3c 1).fld wmPage wmStatus_i3c = 1
    ∧ regArgsOk 0 0 = false ∧ regArgsOk 0 17 = false ∧ on.wmReach 0x3FFFFFC = true
    ∧ (on.withBoard { on.board with night := 2 }).wmReach 0 = false ∧ on.coreFailed = false := by decide
theorem wit_Pldm : on.board.recovery = false ∧ on.wmReach (powerPage.reg 0x048) = true
    ∧ (share on powerPage).accepts .watchman powerPage 0x048 = true := by decide
theorem wit_Ledger : on.ledger.flash.length + on.ledger.buffer.length ≤ 524288
    ∧ (next (exec .ledgerFlush (next (exec .refclkLoss on)))).ledger.flash.length = 1 := by decide
theorem wit_Firmware : on.wm.update = none ∧ on.wm.booted.getD 0 false = true ∧ (on.image? 0 (on.wm.running.getD 0 0)).isSome = true
    ∧ 3 < on.fuses.minSvn.length ∧ (1 : Nat) ≠ compWatchman := by decide
def mapReq : FieldReq := ⟨1, 7, 9, true, true, 3⟩
theorem wit_FieldCommand : SMap.get none (on.withFieldReqs (SMap.set none 3 (some mapReq) [])).fieldReqs 3 = some mapReq
    ∧ on.fieldResult mapReq = 0 ∧ mapReq.op = 1 := by decide
theorem wit_HostAccesses : mapped.hostOn 3 = true ∧ mapped.eccClean = true ∧ mapped.translate 3 (pageBytes - 1) true = some (10 * pageBytes - 1)
    ∧ mapped.translate 3 0 false = some (9 * pageBytes) ∧ mapped.mapped 3 pageBytes 1 true = false
    ∧ mapped.mapped 3 pageBytes 1 false = false ∧ mapped.inBar2 3 (2 ^ 36 - 1) 1 = true ∧ mapped.inBar2 3 (2 ^ 36) 1 = false := by decide
theorem wit_HostAccesses_lost : mapped.lostAt (9 * pageBytes) = false
    ∧ (mapped.setStack 0 { mapped.stack 0 with lost := true }).lostAt (9 * pageBytes) = true ∧ mapped.power.twilight = [] := by decide
theorem wit_Dma : (on.setReg ((hostPage 3).reg (0x10C + 96)) 1).dmaFld 3 3 dmaTail_tail = 1
    ∧ ((on.setReg ((hostPage 3).reg (0x108 + 96)) 1).dmaFld 3 3 dmaCtrl_enable) = 1 ∧ (dmaDesc d32).bad = true
    ∧ (dmaDesc (leBytes 16 0 ++ leBytes 4 1 ++ leBytes 12 0)).bad = false ∧ on.dmaLost.contains (dmaKey 3 3) = false := by decide
theorem wit_Dma_complete : (on.setDma 3 3 [⟨d32, 0, 3, 0⟩]).dmaRuns 3 3 = ⟨d32, 0, 3, 0⟩ :: [] := by decide
theorem wit_Lost : (on.withDmaLost [dmaKey 3 3]).dmaLost.contains (dmaKey 3 3) = true ∧ on.hostOn 3 = true
    ∧ (on.withRingLost [ringKey 3 63]).ringLost.contains (ringKey 3 63) = true ∧ (on.setFld (sqPage .loader) loaderStatus_ready 1).fetches = true := by decide
/-- Source PTP with a master heard. -/
def ptp : State := (on.setFld merPage merCtrl_source 1).withMer { on.mer with masters := [ann], twoStep := some (5, 1, 2), delayReq := some (6, 3) }
theorem wit_Ptp : ptp.ptpOn = true ∧ ptp.fld merPage merPtp_domain = 0x7F ∧ (ptp.master.any (·.source == 7)) = true
    ∧ ptp.mer.twoStep = some (5, 1, 2) ∧ ptp.mer.delayReq = some (6, 3) ∧ ptp.fld merPage merPtpIp_ipv4 = 0 := by decide
theorem wit_Reference : ptp.merSource = 1 ∧ (ptp.setMerState merLocked).merState = merLocked
    ∧ ((ptp.setMerState merLocked).setFld merPage merCtrl_holdoverOk 1).fld merPage merCtrl_holdoverOk = 1
    ∧ ptp.loader.jobs = [] ∧ ((ptp.setMerState merHoldover).setFld merPage merHold_limitS 1).merState = merHoldover
    ∧ ((ptp.setMerState merHoldover).setFld merPage merHold_limitS 1).fld merPage merHold_limitS ≠ 0 := by decide
theorem test_holdover_seconds_stay :
    (((ptp.withMer { ptp.mer with holdAt := 1000000000 }).setMerState merHoldover).withNow 3000000000).holdElapsed = 2
    ∧ ((((ptp.withMer { ptp.mer with holdAt := 1000000000 }).setMerState merHoldover).withNow 3000000000).setMerState
        merLocked).holdElapsed = 2 := by decide
theorem wit_FirstEdge : (on.setFld merPage merCtrl_source 2).merSource = 2 ∧ (on.setFld merPage merCtrl_source 2).merState = merFree
    ∧ ((on.setFld merPage merCtrl_source 2).setMerState merAcquiring).merState = merAcquiring
    ∧ ((on.setFld merPage merCtrl_source 2).setMerState merHoldover).merState = merHoldover
    ∧ on.mer.edgeAt = none ∧ on.mer.edgeFrame = none ∧ on.mer.edgeArmed = false
    ∧ (on.withMer { on.mer with edgeArmed := true }).mer.edgeArmed = true := by decide

theorem wit_Almanac_deadline : (alm entry).almEntry 2047 = some entry ∧ entry.deadline ≠ 0 ∧ entry.taken = false ∧ entry.cls = 0
    ∧ entry.state = 2 ∧ (on.withPower { on.power with retest := some 2 }).power.retest = some 2 := by decide
theorem wit_Almanac_late : (alm { entry with taken := true, late := true, state := 3 }).almEntry 2047
    = some { entry with taken := true, late := true, state := 3 }
    ∧ ((alm { entry with taken := true }).advanceTo 200).entryStep? { entry with taken := true } = none
    ∧ ({ entry with cls := 2, late := true } : AEntry).cls = 2 ∧ ({ entry with state := 5 } : AEntry).state = 5 := by decide
theorem wit_Cue : on.cueDue 4095 ≤ on.now ∧ (on.cue.deferred.any fun x => x.entry == 4095) = false
    ∧ on.now < (on.withCue { on.cue with changed := SMap.set none 4095 (some 0) [] }).cueDue 4095
    ∧ ([⟨4095, true, 1, 1⟩, ⟨4095, false, 1, 0⟩] : List CueChange).filter (fun x => x.entry == 4095)
      = [⟨4095, true, 1, 1⟩, ⟨4095, false, 1, 0⟩] := by decide
theorem wit_Cue_single : ([⟨4095, true, 1, 1⟩, ⟨5, false, 1, 0⟩] : List CueChange).filter (fun x => x.entry == 4095) = [⟨4095, true, 1, 1⟩]
    ∧ ([⟨4095, false, 1, 1⟩, ⟨4095, true, 1, 0⟩] : List CueChange).filter (fun x => x.entry == 4095) = [⟨4095, false, 1, 1⟩, ⟨4095, true, 1, 0⟩]
    ∧ (on.cue.deferred.filter fun x => x.entry == 4095) = [] := by decide
theorem wit_Cue_port : on.served (sqPage .cue) = true ∧ on.cueEntry (4095 % 4096) < 128
    ∧ (on.setFld (sqPage .cue) cueCtrl_portEn 1).fld (sqPage .cue) cueCtrl_portEn = 1
    ∧ (on.setFld (sqPage .cue) cueCtrl_portEn 0).fld (sqPage .cue) cueCtrl_portEn = 0
    ∧ on.board.perst = false ∧ on.board.training = false ∧ State.reset.served (sqPage .cue) = true ∧ State.reset.board.perst = true := by decide

/-- Port 13 of die 7 is UP. -/
def link : State := on.setPortState 7 13 2
def flit (h : FlitHdr) (p : List Byte) : Flit := mkFlit h p
def control (op vc hop : Nat) : Flit := mkFlit { kind := 2, vc := vc, hop := hop, sysjob := 9 } (if op = 0 then [] else List.replicate 16 0 ++ [BitVec.ofNat 8 op])
def dataFlit : Flit := mkFlit { kind := 1, vc := 0, sysjob := 9 } []
def bound : State := link.withFerry { link.ferry with binds := [⟨9, 1, []⟩] }
set_option maxRecDepth 8000 in
theorem wit_Flits_accepted : link.linkOn 7 13 = true ∧ flitOk dataFlit = true ∧ (flitHdr dataFlit).kind ≠ 0
    ∧ (link.headerIn 7 13 (flitHdr dataFlit)).linkOn 7 13 = true ∧ (flitHdr dataFlit).seq = (link.port 7 13).expect
    ∧ flitBad (flitHdr dataFlit) dataFlit = false := by decide
def takes (s : State) (x : Flit) : Bool :=
  s.linkOn 7 13 && flitOk x && (flitHdr x).kind != 0 && (s.headerIn 7 13 (flitHdr x)).linkOn 7 13
    && (flitHdr x).seq == (s.port 7 13).expect && !flitBad (flitHdr x) x
set_option maxRecDepth 8000 in
theorem wit_Flits_link : [3, 4, 5].all (fun op => takes link (control op 4 0) && (flitHdr (control op 4 0)).kind == 2
    && flitOp (control op 4 0) == op) = true := by decide
set_option maxRecDepth 8000 in
theorem wit_Flits_data : takes bound dataFlit = true ∧ (flitHdr dataFlit).hop = (flitHdr dataFlit).hopsM1
    ∧ (bound.ferry.binds.find? fun b => b.sysjob == (flitHdr dataFlit).sysjob) = some ⟨9, 1, []⟩ := by decide
set_option maxRecDepth 8000 in
theorem wit_Flits_unbound : takes link dataFlit = true ∧ (flitHdr dataFlit).kind = 1
    ∧ [0, 1, 2].all (fun op => takes link (control op 4 0) && (flitHdr (control op 4 0)).kind == 2) = true
    ∧ (link.ferry.binds.find? fun b => b.sysjob == 9) = none := by decide
set_option maxRecDepth 8000 in
theorem wit_Flits_transit : takes link (mkFlit { kind := 1, vc := 0, hopsM1 := 1 } []) = true := by decide
set_option maxRecDepth 8000 in
theorem wit_Flits_control : [0, 1, 2].all (fun op => takes bound (control op 4 0) && (flitHdr (control op 4 0)).hop == 0
    && flitOp (control op 4 0) == op) = true := by decide
set_option maxRecDepth 8000 in
theorem wit_Malformed_kind : flitOk (mkFlit { kind := 3, vc := 0 } []) = true ∧ (flitHdr (mkFlit { kind := 3, vc := 0 } [])).kind = 3
    ∧ (link.headerIn 7 13 (flitHdr (mkFlit { kind := 3, vc := 0 } []))).linkOn 7 13 = true := by decide
set_option maxRecDepth 8000 in
theorem wit_Malformed_op : flitOk (control 6 4 0) = true ∧ (flitHdr (control 6 4 0)).kind = 2 ∧ 5 < flitOp (control 6 4 0) := by decide
set_option maxRecDepth 8000 in
theorem wit_Malformed_vc : (flitHdr (control 0 3 0)).vc ≠ 4 + (flitHdr (control 0 3 0)).hop
    ∧ (flitHdr (mkFlit { kind := 1, vc := 1, hop := 1 } [])).hopsM1 < (flitHdr (mkFlit { kind := 1, vc := 1, hop := 1 } [])).hop := by decide
set_option maxRecDepth 8000 in
theorem wit_Ports_train : portOk 7 13 = true ∧ on.served (portPage 7 13) = true
    ∧ (on.setFld (portPage 7 13) flCtrl_enable 1).fld (portPage 7 13) flCtrl_enable = 1 ∧ on.portState 7 13 ≠ 1 ∧ on.portState 7 13 ≠ 2
    ∧ (on.withFerry { on.ferry with loading := some (0, []) }).ferry.loading = some (0, []) := by decide
def sending (n : Nat) : State := link.setPort 7 13 { link.port 7 13 with replay := [dataFlit], replays := n }
set_option maxRecDepth 8000 in
theorem wit_Ports_replay : (sending 14).linkOn 7 13 = true ∧ ((sending 14).port 7 13).replay ≠ []
    ∧ ((sending 14).port 7 13).replays + 1 < 16 ∧ 16 ≤ ((sending 15).port 7 13).replays + 1 := by decide
set_option maxRecDepth 8000 in
theorem wit_Ports_nak : flitOk (mkFlit { kind := 0, vc := 0, nak := true, ack := 1023 } []) = true
    ∧ (flitHdr (mkFlit { kind := 0, vc := 0, nak := true, ack := 1023 } [])).ack = ((sending 14).port 7 13).acked := by decide
set_option maxRecDepth 8000 in
theorem wit_Ports_nak_some : let s := link.setPort 7 13 { link.port 7 13 with replay := [dataFlit, dataFlit] }
    let x := mkFlit { kind := 0, vc := 0, nak := true, ack := 0 } []
    flitOk x = true ∧ (flitHdr x).kind = 0 ∧ (flitHdr x).nak = true
      ∧ ((flitHdr x).ack + 1024 - (s.port 7 13).acked) % 1024 = 1 ∧ (s.port 7 13).replay.length = 2 := by decide
set_option maxRecDepth 8000 in
theorem wit_Ports_send : ((link.setPort 7 13 { link.port 7 13 with resend := [dataFlit] }).port 7 13).resend = dataFlit :: []
    ∧ (link.port 7 13).resend = [] ∧ (link.port 7 13).choose false = none
    ∧ (({ link.port 7 13 with waiting := [{ vc := 4, flit := dataFlit }] } : Port).choose false).isSome = true := by decide
set_option maxRecDepth 8000 in
theorem wit_Ports_bad : flitOk ⟨0, []⟩ = false ∧ (flitHdr ⟨0, []⟩).kind = 0 := by decide
theorem wit_Signals : on.served (diePage .bells 7) = true ∧ (0xFFFFFFFF#32).toNat = 2 ^ 32 - 1
    ∧ ownerAllows ((share on (diePage .bells 7)).owner (diePage .bells 7)) (.host 3) = true
    ∧ ((on.setBell 7 4095 { owner := some (3, 1) }).bell 7 4095).owner.map (·.1) = some 3
    ∧ (on.bell 7 4095).owner.map (·.1) ≠ some 3 := by decide

/-! A job at work: kernel 0 of bundle 1 runs as run 1 on die 0 for step 0 of job 1 of function 3. -/

/-- FP32 tensors of one element: 1 and 2 in the Hamlet buffer, 3 to 5 in the Commons, 6 in HBM; 7 and 8 are BF16 operands
of a Loom. -/
def tens (id : Nat) (loc : Loc) (fmt : Fmt := .fp32) : TensorDecl := { id := id, fmt := fmt, rows := 1, cols := 1, loc := loc }
def tensorTable : List TensorDecl :=
  [tens 1 .hamletBuf, tens 2 .hamletBuf, tens 3 .commons, tens 4 .commons, tens 5 .commons, { tens 6 (.hbm 0 0) with gradient := some 6, companion := some 6 },
   tens 7 (.loomBuf 0 0 0 1) .bf16, tens 8 (.loomBuf 64 0 0 1) .bf16]
def slots (xs : List Nat) : List (Nat × SlotDecl) := (xs.zipIdx).map fun p => (p.2, { tensor := p.1 })
def piece : Piece :=
  { wcet := [], looms := [{ die := 0, hamlet := 0, loom := 0, words := [], drains := [{ tensor := 1, row := 0, col := 0 }] }],
    sieves := [{ die := 0, hamlet := 0, words := [], slots := slots [1, 2] }],
    gates := [{ die := 0, words := [], slots := slots [3, 4, 5] }],
    grans := [{ pairDie := 0, die := 0, hamlet := 0, entries := [], slots := [(0, 6), (1, 6), (2, 6)], params := [(1, leBytes 64 0)] }] }
def run1 : Run := { id := 1, job := 1, f := 3, step := 0, kernel := 0, die := 0, logical := 0, piece := piece, plan := 0 }
def job1 : Job := { handle := 1, f := 3, bundle := 1, cls := 2, batch := 0, w := 1, ranks := 1, pkg := 0, req := {}, stepBell := 0,
                    barBell := 64, order := 0 }
def step1 : Step := { job := 1, f := 3, ring := 0, ticket := List.replicate 128 0, decl := {}, intake := 0, entry := none, ready := true }
def kernel1 : KernelDecl := { plans := [⟨[], 1, [piece], []⟩], tensors := tensorTable }
def work : State := mapped.withLoader { mapped.loader with
  bundles := [⟨1, 3, 0, { kernels := [kernel1], caches := [{ tensor := 6, fmt := .fp32, headDim := tileW .fp32 }] }⟩], jobs := [job1], steps := [step1],
  runs := [run1] }
/-- The words of an operand are there. -/
def fill (place : Nat) (ids : List Nat) (s : State) : State :=
  ids.foldl (fun s i => s.setTdata place 1 i { elems := [(0, some (some 0x3F800000))] }) s
def word64 (body : Nat) : BitVec 64 := BitVec.ofNat 64 (body * 256 + (crc8 (beBytes 7 body)).toNat)

/-- A SIEVE operation on slots a, b and c = 0, into slot 1. -/
def sieveWord (op : Nat) : BitVec 64 := word64 (op * 2 ^ 50 + 1 * 2 ^ 34)
def atSieve (op : Nat) : State :=
  let s := (fill 0 [1] work)
  s.setSieve 0 0 { s.sieve 0 0 with queue := [{ run := 1, word := sieveWord op, last := true }] }
/-- The head is ready, its sources are there, and dst is tensor 2. -/
def sieveReady (op : Nat) : Bool :=
  let s := atSieve op
  match (s.sieve 0 0).queue.head?, s.sieveCtx 0 0 1 with
  | some e, some c => s.served (sievePage 0 0) && s.fld (sievePage 0 0) sieveCtrl_issueEn == 1 && (sieveOpFault e.word).isNone
      && (sieveOp e.word).opcode == op && (c.tensor (sieveOp e.word).dst == some (tens 2 .hamletBuf))
      && (c.tensor (sieveOp e.word).srcA).any fun a => s.srcHere c (tens 2 .hamletBuf) (c.rows 1) 1 (.tensor a)
  | _, _ => false
set_option maxRecDepth 8000 in
theorem wit_Elementwise : ((elementwise 0 0).all fun x => sieveReady x.2.1) = true := by decide
set_option maxRecDepth 8000 in
theorem wit_Rows_reductions : ((reductions 0 0).all fun x => sieveReady x.2.1) = true := by decide
def rowRuns (op : Nat) (f : State → OpCtx → BitVec 64 → Option State) : Bool :=
  match (atSieve op).sieveCtx 0 0 1 with
  | some c => (f (atSieve op) c (sieveWord op)).isSome
  | none => false
set_option maxRecDepth 8000 in
theorem wit_Rows_operations : (rowRuns 0x02 State.addOp && rowRuns 0x20 State.convertOp) = true := by decide
/-- An operation whose slots 0, 1, ... are the tensors 1, 2, ... of a table. -/
def rowEnv (op : Nat) (ts : List TensorDecl) (attn : List AttnDecl) : State :=
  let p : Piece := { piece with sieves := [{ die := 0, hamlet := 0, words := [], slots := slots (ts.map (·.id)), attn := attn }] }
  let s := fill 0 [1] (work.withLoader { work.loader with
    bundles := [⟨1, 3, 0, { kernels := [{ kernel1 with tensors := ts }] }⟩], runs := [{ run1 with piece := p }] })
  s.setSieve 0 0 { s.sieve 0 0 with queue := [{ run := 1, word := sieveWord op, last := true }] }
def rowReady (op : Nat) (ts : List TensorDecl) (attn : List AttnDecl) (f : State → OpCtx → SieveOp → TensorDecl → TensorDecl → Bool) : Bool :=
  let s := rowEnv op ts attn
  let o := sieveOp (sieveWord op)
  match s.sieveCtx 0 0 1 with
  | some c => match c.tensor o.dst, c.tensor o.srcA with
    | some t, some a => (sieveOpFault (sieveWord op)).isNone && o.opcode == op && c.rows o.dst == [0] && f s c o t a
    | _, _ => false
  | none => false
def cellsApart (c : OpCtx) (ts : List TensorDecl) : Bool := decide ((ts.map fun t => sramKey (placeOf t c.d c.h) c.job t.id).Nodup)
def hamTs (n : Nat) : List TensorDecl := (numsFrom 1 n).map fun i => tens i .hamletBuf
def intTs : List TensorDecl := (hamTs 2).map fun t => { t with int32 := true }
set_option maxRecDepth 8000 in
theorem wit_Rows_ints : ([0x02, 0x20].all fun op => rowReady op intTs [] fun s c o t a =>
    t.int32 && s.srcHere c t (c.rows o.dst) t.cols (.tensor a)) = true := by decide
set_option maxRecDepth 8000 in
theorem wit_Rows_gumbel : rowReady 0x19 [tens 1 (.firefly (leBytes 32 0)), tens 2 .hamletBuf] [] (fun _ _ _ _ a => isFirefly a) = true := by
  decide
set_option maxRecDepth 8000 in
theorem wit_Rows_softmax : ([0x28, 0x29].all fun op => rowReady op (hamTs 2 ++ [{ tens 3 .hamletBuf with cols := 2 }]) [] fun s c o t a =>
    s.smaxHere c o t a && c.attn.isEmpty && (c.tensor (o.dst + 1)).any (fun st => cellsApart c [t, st] && decide (2 ≤ st.cols))
      && (smaxRunning (s.smaxRow c o t a 0)).live && (smaxExact (s.smaxRow c o t a 0)).live) = true := by decide
def attnOf : AttnDecl := { p := 2, m := 3, l := 4, a := 5, o := 6, out := 2 }
set_option maxRecDepth 8000 in
theorem wit_Rows_attention : rowReady 0x28 (hamTs 6) [attnOf] (fun s c o t a => s.smaxHere c o t a && cellsApart c (t :: (hamTs 6).drop 2)) = true
    ∧ rowReady 0x03 (hamTs 2 ++ tens 7 .hamletBuf :: (hamTs 6).drop 2) [attnOf] (fun s c o t a =>
      s.srcHere c t (c.rows o.dst) t.cols (.tensor a) && (c.attn.find? fun y => y.out == t.id) == some attnOf
        && cellsApart c (t :: ((hamTs 6).drop 2 ++ (c.tensor (o.dst + 1)).toList))) = true := by decide
set_option maxRecDepth 8000 in
theorem wit_Rows_norms : ((normalisations 0 0).all fun x => rowReady x.2.1 (hamTs 2) [] fun s c o t a =>
    s.srcHere c t (c.rows o.dst) t.cols (.tensor a) && s.normHere c t o x.2.2
      && (instanceRows (c.perInstance o t) t a 0).all fun q => (s.heldRow c o.srcA t a q).all Elem.here) = true := by decide
set_option maxRecDepth 8000 in
theorem wit_Rows_wait : (sieveOpFault (word64 (0x3D * 2 ^ 50))).isNone = true ∧ (sieveOp (word64 (0x3D * 2 ^ 50))).opcode = 0x3D := by decide
def gateWord (op : Nat) : BitVec 64 := word64 (op * 2 ^ 52 + 1 * 2 ^ 24 + 2 * 2 ^ 20 + 0xF * 2 ^ 16)
def atGate (op : Nat) : State :=
  let s := (fill (commonsPlace 0) [3, 4, 5] work)
  s.setGate 0 { s.gate 0 with queue := [{ run := 1, word := gateWord op, last := true }] }
def gateRuns (op : Nat) (f : State → OpCtx → GateOp → Option State) : Bool :=
  match (atGate op).gateCtx 0 1 with
  | some c => (gateOpFault (gateWord op)).isNone && (gateOp (gateWord op)).opcode == op && (f (atGate op) c (gateOp (gateWord op))).isSome
  | none => false
def gateReady (op : Nat) (f : State → OpCtx → GateOp → TensorDecl → TensorDecl → Bool) : Bool :=
  match (atGate op).gateCtx 0 1 with
  | some c =>
    let o := gateOp (gateWord op)
    match (c.tensor o.src).map (gateAs o.inFmt), (c.tensor o.dst).map (gateAs o.outFmt) with
    | some src, some dst => (gateOpFault (gateWord op)).isNone && o.opcode == op && (atGate op).gateHere c src (c.rows o.src)
        && f (atGate op) c o src dst
    | _, _ => false
  | none => false
set_option maxRecDepth 8000 in
theorem wit_Gate_csc : gateReady 0x1 (fun s c o src dst => (c.rows o.src).contains 0 && planeWidth dst == 1
      && (cscInLine o.matrix o.full (videoBits src.fmt) (planeWidth dst)
        ((numsFrom 0 src.cols).map fun j => (s.gateElem c src 0 j).nat))[0]?.isSome) = true
    ∧ gateReady 0x3 (fun _ c o src dst => (c.rows o.dst).contains 0 && dst.cols == 1
      && (cscOutLine o.matrix o.full dst.fmt ((numsFrom 0 (planeWidth src)).map fun _ => (0, 0, 0)))[0]?.isSome) = true := by decide
set_option maxRecDepth 8000 in
theorem wit_Gate_conv : gateRuns 0x2 State.convOp = true ∧ (atGate 2).served (diePage .gate 0) = true
    ∧ (atGate 2).fld (diePage .gate 0) gateCtrl_issueEn = 1 := by decide
set_option maxRecDepth 8000 in
theorem wit_Gate_bell : gateOpFault (word64 (0xE * 2 ^ 52)) = none ∧ (gateOp (word64 (0xE * 2 ^ 52))).opcode = 0xE
    ∧ gateOpFault (word64 (0xF * 2 ^ 52)) = none ∧ (gateOp (word64 (0xF * 2 ^ 52))).opcode = 0xF := by decide

/-! Loom 0 of Hamlet 0 holds a tile of each operand. -/

def bufTile (id : Nat) : BufTile := { run := 1, tile := ⟨(dataTag (tens id .commons .bf16) 0 0 1 1 0).encode, [0x3F80], []⟩ }
/-- One row, from tile 0 against tile 64, BF16, into slot 0. -/
def passWord : BitVec 256 := loomWord (1 * 2 ^ 236 + 64 * 2 ^ 187 + 1 * 2 ^ 170 + 1 * 2 ^ 164)
def fenceWord : BitVec 256 := loomWord (2 * 2 ^ 236)
def loomOf (word : BitVec 256) (x : Loom) : Loom :=
  { x with k := { x.k with setup := { x.k.setup with run := 1 } }, countRun := 1, queue := [{ run := 1, word := word, last := true }], buf := [(0, some (bufTile 7)), (64, some (bufTile 8))] }
def atLoom (word : BitVec 256) : State := work.setLoom 0 0 0 (loomOf word { work.loom 0 0 0 with activity := 16 })
def passGoes : Bool :=
  match (atLoom passWord).passReady 0 0 0 ((atLoom passWord).loom 0 0 0) { run := 1, word := passWord, last := true } with
  | .go _ => true
  | _ => false
set_option maxRecDepth 8000 in
theorem wit_Passes : loomInstrFault passWord 128 = none ∧ (atLoom passWord).loomMayIssue 0 0 0 ((atLoom passWord).loom 0 0 0) 1 = true
    ∧ passGoes = true ∧ (atLoom passWord).loomHot 0 0 0 ((atLoom passWord).loom 0 0 0) = true ∧ (loomInstr passWord).flips = false
    ∧ (loomInstr passWord).accInit ≠ 2 := by decide
def issued (os : List Nat) : Issued :=
  { run := 1, word := passWord, last := true, half := 0, index := 0, overs := os, stat := bufTile 8, stream := [bufTile 7] }
set_option maxRecDepth 8000 in
theorem wit_Passes_replay : ([issued [0]].find? fun e => !e.overs.isEmpty) = some (issued [0])
    ∧ ((Fmt.ofCode (loomInstr (issued [0]).word).statFmt).bind opClass).isSome = true := by decide
set_option maxRecDepth 8000 in
theorem wit_Instructions_retire : ([issued [0], issued []].find? fun e => e.overs.isEmpty) = some (issued [])
    ∧ (loomInstr (issued []).word).sigEn = false ∧ (atLoom passWord).served (loomPage 0 0 0) = true := by decide
set_option maxRecDepth 8000 in
theorem wit_Instructions_fence : loomInstrFault fenceWord 128 = none ∧ (loomInstr fenceWord).opcode = 2
    ∧ (atLoom fenceWord).loomWaitOk 0 (loomInstr fenceWord) = true ∧ ((atLoom fenceWord).loom 0 0 0).issued = []
    ∧ ((atLoom fenceWord).loom 0 0 0).drains = [] ∧ [issued []] ≠ [] := by decide
def drain : DrainJob := { run := 1, toSieve := true, chainTo := 0, pair := false, slot := 0, row0 := 0, count := 1, next := 0, index := 0 }
set_option maxRecDepth 8000 in
theorem wit_Instructions_drain : ({ drains := [drain] } : Loom).unsettled ((drainSpan {} drain).1, 1) = false
    ∧ (work.loomProg 1 0 0).any (fun p => p.drains[drain.index]? == some { tensor := 1, row := 0, col := 0 }) = true
    ∧ ([drain].find? fun j => !j.stays 0) = some drain ∧ work.runJob 1 = some 1
    ∧ findTensor (work.tensors 1) 1 = some (tens 1 .hamletBuf) ∧ (drainWords {} drain 0)[0]? = some 0 := by decide
set_option maxRecDepth 8000 in
theorem wit_Ramps : (atLoom passWord).rampsAct 0 0 0 = true ∧ ((atLoom passWord).loom 0 0 0).activity = 16
    ∧ work.loomIssuable 0 0 0 (work.loom 0 0 0) = false
    ∧ (atLoom passWord).loomIssuable 0 0 0 ((atLoom passWord).loom 0 0 0) = true := by decide
set_option maxRecDepth 8000 in
theorem wit_Tiles : on.served (destPage (.commons 7)) = true ∧ on.bridged t0 7 = true ∧ tagFault .commons [] 0 false 0 = some 1
    ∧ ((maskLooms 0xFFFFFFFF).any fun n => !on.loomOn 7 (n / 8) (n % 8)) = false ∧ dieOk 7 = true := by decide
def loomTileIn : Tile := ⟨(dataTag (tens 7 (.loomBuf 0 0 0 1) .bf16) 0 0 1 1 0).encode, [0x3F80], []⟩
set_option maxRecDepth 8000 in
theorem wit_Tiles_wait : work.tileWaits (.loom 0 0 0 0) (some 1) loomTileIn = false
    ∧ (atLoom passWord).tileWaits (.loom 0 0 0 0) (some 1) loomTileIn = true := by decide
def tileOf3 : Tile := ⟨(dataTag (tens 3 .commons) 0 0 1 1 0).encode, [0x3F800000], []⟩
def atCommons : State := fill (commonsPlace 0) [3] (work.setReeve 0 0 { run := some 1 })
/-- A tile of tensor 7 that a pair sends to a fenced die. -/
def sender : GranRun := { q := 0, run := 1, word := 0, descs := [], done := true, sent := [loomTileIn] }
def inFlight : State := ((work.withFlight [(1, loomTileIn)]).setPair 0 { running := [sender] }).setFld (sqPage .fault) faultFence_fenced 2
set_option maxRecDepth 8000 in
theorem wit_Tiles_way : inFlight.bridged loomTileIn 0 = true ∧ inFlight.bridged loomTileIn 1 = false := by decide
set_option maxRecDepth 8000 in
theorem wit_Tiles_loom : inFlight.tileRun 0 0 loomTileIn = some 1 ∧ inFlight.served (loomPage 0 0 0) = true
    ∧ loomAddr (tens 7 (.loomBuf 0 0 0 1) .bf16) loomTileIn.tag 64 = 0
    ∧ tagFault .loom (inFlight.tensors 1) (inFlight.runStep 1) (scaleFits (inFlight.loom 0 0 0).scaleIn loomTileIn.tag) loomTileIn.tag = none
    ∧ (inFlight.loom 0 0 0).overlapped (loomAddr (tens 7 (.loomBuf 0 0 0 1) .bf16) loomTileIn.tag 64 % 2048) (tileUnits .bf16) = [] ∧ inFlight.runJob 1 = some 1 := by decide
set_option maxRecDepth 8000 in
theorem wit_Tiles_commons : atCommons.served (diePage .commons 0) = true ∧ (tagFields tileOf3.tag).kind = 0
    ∧ (tagFields tileOf3.tag).flag flWinnow = false
    ∧ tagFault .commons (atCommons.tensors 1) (atCommons.runStep 1) false tileOf3.tag = none := by decide
set_option maxRecDepth 8000 in
theorem wit_Tiles_multicast : atCommons.tileRun 0 0 tileOf3 = some 1
    ∧ findTensor (atCommons.tensorsFor (some 1)) (tagFields tileOf3.tag).tensor = some (tens 3 .commons)
    ∧ atCommons.jobFor (some 1) = some 1
    ∧ ((atCommons.tdata (commonsPlace 0) 1 3).cut (tens 3 .commons) tileOf3.tag).any (atCommons.mcastReady 0 0 [0]) = true := by decide

/-! Granary commands of pair 0, queue 0. -/

/-- A command on slots 0, 1 and 2, of one row and one column block, with parameter entry 1. -/
def granWordOf (op : Nat) : BitVec 128 :=
  granWord (op * 2 ^ 106 + 1 * 2 ^ 98 + 2 * 2 ^ 94 + 1 * 2 ^ 90 + 1 * 2 ^ 82)
def granRun (op : Nat) : GranRun :=
  { q := 0, run := 1, word := granWordOf op, descs := if op = 6 then [0] else [], done := false }
def atGranary (op : Nat) : State := work.setPair 0 { running := [granRun op] }
def granRuns (op : Nat) (f : State → GCtx → Option GEff) : Bool :=
  match (atGranary op).granFirst 0 0 op, (atGranary op).gctx 0 (granRun op) with
  | some _, some x => (f (atGranary op) x).any fun e => e.reject.isNone
  | _, _ => false
set_option maxRecDepth 8000 in
theorem wit_Granary : granRuns 0x04 State.fillEff = true ∧ granRuns 0x03 State.copyEff = true ∧ granRuns 0x08 State.treeAddEff = true
    ∧ (atGranary 4).up = true ∧ (atGranary 4).eccClean = true := by decide
def granReady (op : Nat) : Bool :=
  match (atGranary op).granFirst 0 0 op, (atGranary op).gctx 0 (granRun op) with
  | some _, some x => (atGranary op).granOperands x op
  | _, _ => false
set_option maxRecDepth 8000 in
theorem wit_Granary_operands : ((granaryEffects 0 0).all fun x => x.2.1 == 0x06 || granReady x.2.1) = true := by decide
/-- A page of one key of one head in frame 0, and its descriptor. -/
def keyHeader (cache : Nat) : List Byte := encodeHeader ⟨(headerTag Fmt.fp32.code cache 0 0 0 0 0 0).encode, 0, false, false, 3, 0, 0⟩
def keyDesc : BitVec 128 := BitVec.ofNat 128 (Fmt.fp32.code * 2 ^ 82 + Fmt.fp32.code * 2 ^ 76)
def atGather (cache : Nat) : State :=
  (atGranary 6).withMem (((keyHeader cache).zipIdx).filterMap fun b => if b.1 = 0 then none else some (0x17C0000000 + b.2, b.1))
def gathers (cache : Nat) : Option (List GPage × Option Nat × Option (List Tile)) :=
  ((atGather cache).gctx 0 (granRun 6)).bind fun x =>
    let ps := (atGather cache).gatherPages x 6 128 [pageDesc keyDesc]
    ((atGather cache).cacheDecl 1 6).map fun cd =>
      (ps.1, ps.2.map (·.1), if ps.2.isNone then gatherTiles (tens 6 (.hbm 0 0)) cd.headDim 0 ps.1 else none)
set_option maxRecDepth 8000 in
theorem wit_Granary_gather : (gathers 6).any (fun r => r.1.length == 1 && r.2.1.isNone && r.2.2.any fun ts => ts.length == 1) = true := by
  decide
/-- A tile of tensor 6 for a running WRITE of its row. -/
def tileOf6 : Tile := ⟨(dataTag (tens 6 (.hbm 0 0)) 0 0 1 1 0).encode, [0x3F800000], []⟩
def cutOff : State := work.setFld (sqPage .fault) faultFence_fenced 1
set_option maxRecDepth 8000 in
theorem wit_Tiles_pair : (atGranary 2).taker 0 1 (tagFields tileOf6.tag) = .running 0
    ∧ tagFault .pair ((atGranary 2).tensors 1) ((atGranary 2).runStep 1) false tileOf6.tag = none
    ∧ ((atGranary 2).gref 1 ((atGranary 2).boundId 1 6) true).isSome = true ∧ (granRun 2).discards tileOf6 = false
    ∧ (atGranary 2).wayOpen ((atGranary 2).wayToPair 1 tileOf6 0) = true ∧ cutOff.up = true
    ∧ cutOff.wayOpen (cutOff.wayToPair 1 tileOf6 1) = false := by decide
set_option maxRecDepth 8000 in
theorem wit_Granary_reject : (gathers 7).any (fun r => r.2.1 == some 0x10) = true := by decide
def queued (op : Nat) (r : List GranRun) : State := work.setPair 0 { queues := SMap.set [] 0 [{ run := 1, word := granWordOf op, last := true }] [], running := r }
set_option maxRecDepth 8000 in
theorem wit_Queues_start : ((queued 4 []).pair 0).queue 0 = { run := 1, word := granWordOf 4, last := true } :: [] ∧ (queued 4 []).granMayStart 0 0 = true
    ∧ granCmdFault (granWordOf 4) 0 = none ∧ (queued 4 []).granConflict 0 0 (granRun 4) = false
    ∧ (queued 4 [granRun 4]).granConflict 0 0 (granRun 4) = true := by decide
set_option maxRecDepth 8000 in
theorem wit_Queues_ops : ([0x00, 0x02, 0x3C, 0x3D, 0x20].all fun op => ((atGranary op).granFirst 0 0 op).isSome) = true
    ∧ ((atGranary 0x3D).granWait 1 0 (granWordOf 0x3D)).isSome = true ∧ ((atGranary 0x20).gctx 0 (granRun 0x20)).isSome = true
    ∧ rangePresent 0 0x2000000000 = false ∧ rangePresent 0 0x1800000000 = true
    ∧ ((on.setPair 0 { running := [{ granRun 0 with q := 32, word := patrolWord 1 }] }).granFirst 0 32 0x20).isSome = true
    ∧ (on.stack 1).weak = [] ∧ (on.stack 1).bad = [] ∧ (granCmd (patrolWord 1)).opcode = 0x20 ∧ granCmdFault (patrolWord 1) 0 = none := by decide
set_option maxRecDepth 8000 in
theorem wit_Queues_complete : findIdxFrom (fun e => e.q == 0 && work.granComplete e) 0 [{ granRun 4 with done := true }]
    = some (0, { granRun 4 with done := true }) := by decide

/-! Tickets, steps and waits. -/

set_option maxRecDepth 8000 in
theorem wit_Waits : (((atSieve 0).setSieve 0 0 { (atSieve 0).sieve 0 0 with queue := [{ run := 1, word := word64 (0x3D * 2 ^ 50), last := true }], waiting := true }).waitOf
    (.sieve 0 0)).isSome = true ∧ ((0#32).toNat + 2 ^ 32 - (0x80000001#32).toNat) % 2 ^ 32 < 2 ^ 31
    ∧ 2 ^ 31 ≤ ((0#32).toNat + 2 ^ 32 - (0x80000000#32).toNat) % 2 ^ 32
    ∧ ((on.setBell 7 3 { error := true }).bell 7 3).error = true ∧ (on.bell 7 3).error = false := by decide
theorem wit_Reeves : hamletOk 7 3 = true ∧ on.dieLive 7 = true ∧ ((on.setReeve 7 3 { run := some 1 }).reeve 7 3).run = some 1
    ∧ (on.setReeve 7 3 { run := some 1 }).reeveBusy 7 3 = true ∧ on.reeveBusy 7 3 = false := by decide
def ring : State := (((mapped.setFld (sqPage .loader) loaderStatus_ready 1).setRingFld 3 63 ringCtrl_enable 1).setRingFld 3 63 ringCtrl_log2Size 4).setRingFld
  3 63 ringTail_tail 1
set_option maxRecDepth 8000 in
theorem wit_Tickets : ring.fetches = true ∧ ring.ringLost.contains (ringKey 3 63) = false ∧ ring.ringOn 3 63 = true
    ∧ ring.turn = some (3, 63) ∧ on.turn ≠ some (3, 63) ∧ ring.mapped 3 0 128 false = true ∧ ring.mapped 3 pageBytes 128 false = false := by decide
set_option maxRecDepth 8000 in
theorem wit_Tickets_held : ([⟨3, 63, [], {}, none⟩] : List HeldTicket).find? (fun y => y.f == 3 && y.ring == 63)
    = some ⟨3, 63, [], {}, none⟩ := by decide
set_option maxRecDepth 8000 in
theorem wit_Steps_start : work.up = true ∧ work.job? 1 = some job1 ∧ job1.state = .active ∧ work.restarts.contains 1 = false
    ∧ (work.stepsOf 1).any (·.started) = false ∧ (work.stepsOf 1).find? (·.ready) = some step1 ∧ work.power.retest = none
    ∧ (work.withLoader { work.loader with steps := [{ step1 with stopSeen := true }] }).abortedStep? 1 = some { step1 with stopSeen := true }
    ∧ work.power.retest = none ∧ ([1] : List Nat).contains 1 = true := by decide
set_option maxRecDepth 8000 in
theorem wit_Steps_none : on.job? 1 = none ∧ (work.withBoard { work.board with island := false }).up = false
    ∧ ((work.withLoader { work.loader with steps := [{ step1 with started := true }] }).stepsOf 1).any (·.started) = true
    ∧ ((work.withLoader { work.loader with steps := [] }).stepsOf 1).find? (·.ready) = none
    ∧ (work.withPower { work.power with retest := some 2 }).power.retest ≠ none ∧ ({ job1 with state := .ended 3 } : Job).state ≠ .active := by decide
def started (s : State) (t : Step) : State := s.withLoader { s.loader with steps := [t], runs := [] }
def step2 : Step := { step1 with started := true, decl := { kernels := [0] } }
set_option maxRecDepth 8000 in
theorem wit_Steps_dispatch : ((started work step2).loader.runs.any fun r => r.die == 0 && !r.done) = false
    ∧ ((started work step2).nextPiece 0).isSome = true := by decide
set_option maxRecDepth 8000 in
theorem wit_Steps_restart : step1.decl.reads = [] ∧ step1.decl.writes = [] := by decide
set_option maxRecDepth 8000 in
theorem wit_Steps_renew : (work.kvRenew step1).isSome = true
    ∧ (work.kvRenew { step1 with decl := { writes := [⟨0, 6, 0, 0, false, 0⟩] } }).isNone = true := by decide
set_option maxRecDepth 8000 in
theorem wit_Steps_run : (((started work step2).nextPiece 0).any fun c =>
    let piece := (started work step2).placed c.t c.at_ c.logical 0
    ((numsFrom 0 4).all fun h => (geomsUsed ((((((started work step2).stepBundle c.t)).kernels[c.kernel]?).map (·.tensors)).getD []) piece
        c.logical h).isEmpty) && piece.grans.all fun g => g.entries.all fun w => (granCmd w).opcode != 0x06) = true := by decide
set_option maxRecDepth 8000 in
theorem wit_Steps_held : ((started (alm entry) { step1 with started := true, writesDone := true, entry := some 2047 }).stepsOf 1).find?
    (fun t => t.started && t.writesDone) = some { step1 with started := true, writesDone := true, entry := some 2047 } := by decide
def done1 : Step := { step1 with started := true, ran := [(0, 1, 1, 1)] }
set_option maxRecDepth 8000 in
theorem wit_Steps_commit : (((started work done1).settleJob 1).stepsOf 1).find? (·.started) = some done1
    ∧ ((started work done1).settleJob 1).stepDone job1 done1 = true
    ∧ ((started work done1).settleJob 1).barrierDone job1 done1 = true ∧ trBefore on.transit entry.deadline = true
    ∧ ({ entry with hold := false } : AEntry).hold = false := by decide
theorem wit_Barrier : work.dieOf 0 = some 0 ∧ job1.pkg = 0
    ∧ job1.barriers * job1.ranks + (((work.setBell 0 64 { value := 1 }).bell 0 64).value.toNat + 2 ^ 32 - job1.barBase) % 2 ^ 32
      = (job1.barriers + 1) * job1.ranks := by decide
theorem wit_Comparisons : f32IsNan 0x7FC00000 = true ∧ f32IsZero 0x00000001 = true ∧ f32Lt 0x3F800000 0x40000000 = true
    ∧ (0x7F800000#32).toNat / 2 ^ 23 % 256 = 255 ∧ f32IsNan 0x7F800000 = false := by decide
theorem wit_Comparisons_ranks : f32Rank 0xBF800000 < f32Rank 0x80000001 ∧ f32Rank 0x3F800000 < f32Rank 0x7F800000
    ∧ f32Rank 0x80000000 = f32Rank 0 ∧ f32Flushed 0x80000001 ≠ f32Flushed 0x00000001 ∧ f32Flushed 1 = f32Flushed 0
    ∧ f32IsZero 0x3F800000 = false := by decide

end Slice0
end

/-! SUPPORT. The settlements of the family of 00_scope.md: the invariant at reset, the frame of every command, register writes,
and the host link with FUNCTION reset. -/

namespace Sys2Proof.Machine

/-! ### Reset (R7, R447, R451) -/

/-- Settles O3: no HBM byte and no register is listed at reset, the package is awake, and the fuses are those of grade F256. -/
theorem resetMeetsInvariant : Obligations.ResetMeetsInvariant := by
  refine ⟨?mem, ?regs, ?night, ?fuses⟩
  case mem => rfl
  case regs => rfl
  case night => decide
  case fuses => decide

/-! ### The frame of every command -/

/-- The frame of each meaning: the kinds of state that its lemma names are those that the table `writes` gives for its command. -/
theorem exec_sameOut (c : Instr) (s : State) : SameOut (writes c) s (exec c s) := by
  cases c with
  | mainOkRise => exact execMainOkRise_same (.refl _ _) (List.Subset.refl _)
  | mainOkFall => exact execMainOkFall_same (.refl _ _) (List.Subset.refl _)
  | islandRailLoss => exact execIslandRailLoss_same (.refl _ _) (List.Subset.refl _)
  | perstNAssert => exact execPerstNAssert_same (.refl _ _) (List.Subset.refl _)
  | perstNRelease => exact execPerstNRelease_same (.refl _ _) (List.Subset.refl _)
  | hbmTrainingComplete => exact execHbmTrainingComplete_same (.refl _ _) (List.Subset.refl _)
  | functionLevelReset => exact execFunctionLevelReset_same (.refl _ _) (List.Subset.refl _)
  | wakeN => exact execWakeN_same (.refl _ _) (List.Subset.refl _)
  | nwWakeTransit => exact execNwWakeTransit_same (.refl _ _) (List.Subset.refl _)
  | thermalTrip => exact execThermalTrip_same (.refl _ _) (List.Subset.refl _)
  | supplyDroop => exact execSupplyDroop_same (.refl _ _) (List.Subset.refl _)
  | temporaryFenceRelease => exact execTemporaryFenceRelease_same (.refl _ _) (List.Subset.refl _)
  | runTimeFault => exact execRunTimeFault_same (.refl _ _) (List.Subset.refl _)
  | stepRestart => exact execStepRestart_same (.refl _ _) (List.Subset.refl _)
  | softRepair => exact execSoftRepair_same (.refl _ _) (List.Subset.refl _)
  | patrolScrub => exact execPatrolScrub_same (.refl _ _) (List.Subset.refl _)
  | selfRefreshEntry => exact execSelfRefreshEntry_same (.refl _ _) (List.Subset.refl _)
  | duskEntry => exact execDuskEntry_same (.refl _ _) (List.Subset.refl _)
  | twilight => exact execTwilight_same (.refl _ _) (List.Subset.refl _)
  | daylight => exact execDaylight_same (.refl _ _) (List.Subset.refl _)
  | nightwatchRequest => exact execNightwatchRequest_same (.refl _ _) (List.Subset.refl _)
  | nightwatchEntry => exact execNightwatchEntry_same (.refl _ _) (List.Subset.refl _)
  | powerCapWrite => exact execPowerCapWrite_same (.refl _ _) (List.Subset.refl _)
  | thermalCapWrite => exact execThermalCapWrite_same (.refl _ _) (List.Subset.refl _)
  | capApply => exact execCapApply_same (.refl _ _) (List.Subset.refl _)
  | limiterAclkChange => exact execLimiterAclkChange_same (.refl _ _) (List.Subset.refl _)
  | retest => exact execRetest_same (.refl _ _) (List.Subset.refl _)
  | deadlineTransit => exact execDeadlineTransit_same (.refl _ _) (List.Subset.refl _)
  | startTransit => exact execStartTransit_same (.refl _ _) (List.Subset.refl _)
  | pieceDispatch => exact execPieceDispatch_same (.refl _ _) (List.Subset.refl _)
  | stepStart => exact execStepStart_same (.refl _ _) (List.Subset.refl _)
  | stepCommit => exact execStepCommit_same (.refl _ _) (List.Subset.refl _)
  | heldCommit => exact execHeldCommit_same (.refl _ _) (List.Subset.refl _)
  | barrierRelease => exact execBarrierRelease_same (.refl _ _) (List.Subset.refl _)
  | ringTail => exact execRingTail_same (.refl _ _) (List.Subset.refl _)
  | cmplHead => exact execCmplHead_same (.refl _ _) (List.Subset.refl _)
  | ringCtrlWrite => exact execRingCtrlWrite_same (.refl _ _) (List.Subset.refl _)
  | ticketFetch => exact execTicketFetch_same (.refl _ _) (List.Subset.refl _)
  | ticketHoldRelease => exact execTicketHoldRelease_same (.refl _ _) (List.Subset.refl _)
  | pass => exact execPass_same (.refl _ _) (List.Subset.refl _)
  | replayPass => exact execReplayPass_same (.refl _ _) (List.Subset.refl _)
  | instructionRetire => exact execInstructionRetire_same (.refl _ _) (List.Subset.refl _)
  | fenceIssue => exact execFenceIssue_same (.refl _ _) (List.Subset.refl _)
  | drain => exact execDrain_same (.refl _ _) (List.Subset.refl _)
  | rampDown => exact execRampDown_same (.refl _ _) (List.Subset.refl _)
  | rampUp => exact execRampUp_same (.refl _ _) (List.Subset.refl _)
  | rampStep => exact execRampStep_same (.refl _ _) (List.Subset.refl _)
  | rampGrant => exact execRampGrant_same (.refl _ _) (List.Subset.refl _)
  | tileArrival => exact execTileArrival_same (.refl _ _) (List.Subset.refl _)
  | multicast => exact execMulticast_same (.refl _ _) (List.Subset.refl _)
  | sieveNop => exact execSieveNop_same (.refl _ _) (List.Subset.refl _)
  | fma => exact execFma_same (.refl _ _) (List.Subset.refl _)
  | add => exact execAdd_same (.refl _ _) (List.Subset.refl _)
  | mul => exact execMul_same (.refl _ _) (List.Subset.refl _)
  | min => exact execMin_same (.refl _ _) (List.Subset.refl _)
  | max => exact execMax_same (.refl _ _) (List.Subset.refl _)
  | cmpLt => exact execCmpLt_same (.refl _ _) (List.Subset.refl _)
  | cmpEq => exact execCmpEq_same (.refl _ _) (List.Subset.refl _)
  | select => exact execSelect_same (.refl _ _) (List.Subset.refl _)
  | copysign => exact execCopysign_same (.refl _ _) (List.Subset.refl _)
  | exp2 => exact execExp2_same (.refl _ _) (List.Subset.refl _)
  | log2 => exact execLog2_same (.refl _ _) (List.Subset.refl _)
  | expE => exact execExpE_same (.refl _ _) (List.Subset.refl _)
  | reciprocal => exact execReciprocal_same (.refl _ _) (List.Subset.refl _)
  | rsqrt => exact execRsqrt_same (.refl _ _) (List.Subset.refl _)
  | tanh => exact execTanh_same (.refl _ _) (List.Subset.refl _)
  | sigmoid => exact execSigmoid_same (.refl _ _) (List.Subset.refl _)
  | silu => exact execSilu_same (.refl _ _) (List.Subset.refl _)
  | gelu => exact execGelu_same (.refl _ _) (List.Subset.refl _)
  | gumbel => exact execGumbel_same (.refl _ _) (List.Subset.refl _)
  | convert => exact execConvert_same (.refl _ _) (List.Subset.refl _)
  | rsum => exact execRsum_same (.refl _ _) (List.Subset.refl _)
  | rmax => exact execRmax_same (.refl _ _) (List.Subset.refl _)
  | argmax => exact execArgmax_same (.refl _ _) (List.Subset.refl _)
  | smaxRun => exact execSmaxRun_same (.refl _ _) (List.Subset.refl _)
  | smaxExact => exact execSmaxExact_same (.refl _ _) (List.Subset.refl _)
  | layernorm => exact execLayernorm_same (.refl _ _) (List.Subset.refl _)
  | rmsnorm => exact execRmsnorm_same (.refl _ _) (List.Subset.refl _)
  | groupnorm => exact execGroupnorm_same (.refl _ _) (List.Subset.refl _)
  | sieveSignal => exact execSieveSignal_same (.refl _ _) (List.Subset.refl _)
  | sieveWait => exact execSieveWait_same (.refl _ _) (List.Subset.refl _)
  | waitSatisfied => exact execWaitSatisfied_same (.refl _ _) (List.Subset.refl _)
  | bellWaitTimeout => exact execBellWaitTimeout_same (.refl _ _) (List.Subset.refl _)
  | gateNop => exact execGateNop_same (.refl _ _) (List.Subset.refl _)
  | cscIn => exact execCscIn_same (.refl _ _) (List.Subset.refl _)
  | conv => exact execConv_same (.refl _ _) (List.Subset.refl _)
  | cscOut => exact execCscOut_same (.refl _ _) (List.Subset.refl _)
  | gateSignal => exact execGateSignal_same (.refl _ _) (List.Subset.refl _)
  | gateWait => exact execGateWait_same (.refl _ _) (List.Subset.refl _)
  | granaryCommandStart => exact execGranaryCommandStart_same (.refl _ _) (List.Subset.refl _)
  | granaryNop => exact execGranaryNop_same (.refl _ _) (List.Subset.refl _)
  | read => exact execRead_same (.refl _ _) (List.Subset.refl _)
  | write => exact execWrite_same (.refl _ _) (List.Subset.refl _)
  | tileArrivalAtPair => exact execTileArrivalAtPair_same (.refl _ _) (List.Subset.refl _)
  | copy => exact execCopy_same (.refl _ _) (List.Subset.refl _)
  | fill => exact execFill_same (.refl _ _) (List.Subset.refl _)
  | gather => exact execGather_same (.refl _ _) (List.Subset.refl _)
  | treeAdd => exact execTreeAdd_same (.refl _ _) (List.Subset.refl _)
  | redExp => exact execRedExp_same (.refl _ _) (List.Subset.refl _)
  | redEmax => exact execRedEmax_same (.refl _ _) (List.Subset.refl _)
  | redFix => exact execRedFix_same (.refl _ _) (List.Subset.refl _)
  | redAdd => exact execRedAdd_same (.refl _ _) (List.Subset.refl _)
  | redCheck => exact execRedCheck_same (.refl _ _) (List.Subset.refl _)
  | redOut => exact execRedOut_same (.refl _ _) (List.Subset.refl _)
  | optAdamw => exact execOptAdamw_same (.refl _ _) (List.Subset.refl _)
  | scrub => exact execScrub_same (.refl _ _) (List.Subset.refl _)
  | crc => exact execCrc_same (.refl _ _) (List.Subset.refl _)
  | granarySignal => exact execGranarySignal_same (.refl _ _) (List.Subset.refl _)
  | granaryWait => exact execGranaryWait_same (.refl _ _) (List.Subset.refl _)
  | granaryCommandComplete => exact execGranaryCommandComplete_same (.refl _ _) (List.Subset.refl _)
  | signalSet => exact execSignalSet_same (.refl _ _) (List.Subset.refl _)
  | signalAdd => exact execSignalAdd_same (.refl _ _) (List.Subset.refl _)
  | signalMax => exact execSignalMax_same (.refl _ _) (List.Subset.refl _)
  | signalError => exact execSignalError_same (.refl _ _) (List.Subset.refl _)
  | bellSet => exact execBellSet_same (.refl _ _) (List.Subset.refl _)
  | bellAdd => exact execBellAdd_same (.refl _ _) (List.Subset.refl _)
  | reeveHeartbeat d h v => exact execReeveHeartbeat_same (x2 := v) (.refl _ _) (List.Subset.refl _)
  | reeveWatchdogExpiry => exact execReeveWatchdogExpiry_same (.refl _ _) (List.Subset.refl _)
  | map => exact execMap_same (.refl _ _) (List.Subset.refl _)
  | unmap => exact execUnmap_same (.refl _ _) (List.Subset.refl _)
  | fieldCmdComplete => exact execFieldCmdComplete_same (.refl _ _) (List.Subset.refl _)
  | bar2Read => exact execBar2Read_same (.refl _ _) (List.Subset.refl _)
  | bar2Write => exact execBar2Write_same (.refl _ _) (List.Subset.refl _)
  | dmaTail => exact execDmaTail_same (.refl _ _) (List.Subset.refl _)
  | dmaCtrlWrite => exact execDmaCtrlWrite_same (.refl _ _) (List.Subset.refl _)
  | dmaDescriptor => exact execDmaDescriptor_same (.refl _ _) (List.Subset.refl _)
  | dmaComplete => exact execDmaComplete_same (.refl _ _) (List.Subset.refl _)
  | linkDown => exact execLinkDown_same (.refl _ _) (List.Subset.refl _)
  | ptpSync => exact execPtpSync_same (.refl _ _) (List.Subset.refl _)
  | ptpArp => exact execPtpArp_same (.refl _ _) (List.Subset.refl _)
  | announceTimeout => exact execAnnounceTimeout_same (.refl _ _) (List.Subset.refl _)
  | frameRefEdge => exact execFrameRefEdge_same (.refl _ _) (List.Subset.refl _)
  | frameRefMissing => exact execFrameRefMissing_same (.refl _ _) (List.Subset.refl _)
  | holdoverLimit => exact execHoldoverLimit_same (.refl _ _) (List.Subset.refl _)
  | merCtrlSourceWrite => exact execMerCtrlSourceWrite_same (.refl _ _) (List.Subset.refl _)
  | merRateWrite => exact execMerRateWrite_same (.refl _ _) (List.Subset.refl _)
  | merSetLo => exact execMerSetLo_same (.refl _ _) (List.Subset.refl _)
  | merFrameNextLo => exact execMerFrameNextLo_same (.refl _ _) (List.Subset.refl _)
  | merNowLo => exact execMerNowLo_same (.refl _ _) (List.Subset.refl _)
  | almIndex => exact execAlmIndex_same (.refl _ _) (List.Subset.refl _)
  | almCtrlWrite => exact execAlmCtrlWrite_same (.refl _ _) (List.Subset.refl _)
  | cueDataWrite => exact execCueDataWrite_same (.refl _ _) (List.Subset.refl _)
  | cueGroupOwner => exact execCueGroupOwner_same (.refl _ _) (List.Subset.refl _)
  | cueDeferredApply => exact execCueDeferredApply_same (.refl _ _) (List.Subset.refl _)
  | cuePortRead => exact execCuePortRead_same (.refl _ _) (List.Subset.refl _)
  | phyLock => exact execPhyLock_same (.refl _ _) (List.Subset.refl _)
  | phyLockLost => exact execPhyLockLost_same (.refl _ _) (List.Subset.refl _)
  | retrain => exact execRetrain_same (.refl _ _) (List.Subset.refl _)
  | ident => exact execIdent_same (.refl _ _) (List.Subset.refl _)
  | probe => exact execProbe_same (.refl _ _) (List.Subset.refl _)
  | echo => exact execEcho_same (.refl _ _) (List.Subset.refl _)
  | data => exact execData_same (.refl _ _) (List.Subset.refl _)
  | bell => exact execBell_same (.refl _ _) (List.Subset.refl _)
  | jobStop => exact execJobStop_same (.refl _ _) (List.Subset.refl _)
  | withdraw => exact execWithdraw_same (.refl _ _) (List.Subset.refl _)
  | nak => exact execNak_same (.refl _ _) (List.Subset.refl _)
  | replayTimeout => exact execReplayTimeout_same (.refl _ _) (List.Subset.refl _)
  | flitTransmit => exact execFlitTransmit_same (.refl _ _) (List.Subset.refl _)
  | routeCmdLoad => exact execRouteCmdLoad_same (.refl _ _) (List.Subset.refl _)
  | routeLoadComplete => exact execRouteLoadComplete_same (.refl _ _) (List.Subset.refl _)
  | bind => exact execBind_same (.refl _ _) (List.Subset.refl _)
  | unbind => exact execUnbind_same (.refl _ _) (List.Subset.refl _)
  | ffKatStart => exact execFfKatStart_same (.refl _ _) (List.Subset.refl _)
  | ffKatDone => exact execFfKatDone_same (.refl _ _) (List.Subset.refl _)
  | hbmMarginStart => exact execHbmMarginStart_same (.refl _ _) (List.Subset.refl _)
  | hbmMarginDone => exact execHbmMarginDone_same (.refl _ _) (List.Subset.refl _)
  | pageKey => exact execPageKey_same (.refl _ _) (List.Subset.refl _)
  | pageOwnerWrite => exact execPageOwnerWrite_same (.refl _ _) (List.Subset.refl _)
  | setViewWrite => exact execSetViewWrite_same (.refl _ _) (List.Subset.refl _)
  | clearViewWrite => exact execClearViewWrite_same (.refl _ _) (List.Subset.refl _)
  | faultCodeClear => exact execFaultCodeClear_same (.refl _ _) (List.Subset.refl _)
  | snapCtrlTake => exact execSnapCtrlTake_same (.refl _ _) (List.Subset.refl _)
  | sqSnapAll => exact execSqSnapAll_same (.refl _ _) (List.Subset.refl _)
  | counterLoRead => exact execCounterLoRead_same (.refl _ _) (List.Subset.refl _)
  | fieldMissRead => exact execFieldMissRead_same (.refl _ _) (List.Subset.refl _)
  | faultFenceWrite => exact execFaultFenceWrite_same (.refl _ _) (List.Subset.refl _)
  | dieCmdWrite => exact execDieCmdWrite_same (.refl _ _) (List.Subset.refl _)
  | registerWrite => exact execRegisterWrite_same (.refl _ _) (List.Subset.refl _)
  | regRead => exact execRegRead_same (.refl _ _) (List.Subset.refl _)
  | regWrite => exact execRegWrite_same (.refl _ _) (List.Subset.refl _)
  | reset => exact execReset_same (.refl _ _) (List.Subset.refl _)
  | ledgerRead => exact execLedgerRead_same (.refl _ _) (List.Subset.refl _)
  | commitSvn => exact execCommitSvn_same (.refl _ _) (List.Subset.refl _)
  | setEndpointId => exact execSetEndpointId_same (.refl _ _) (List.Subset.refl _)
  | entdaa => exact execEntdaa_same (.refl _ _) (List.Subset.refl _)
  | setdasa => exact execSetdasa_same (.refl _ _) (List.Subset.refl _)
  | getTid => exact execGetTid_same (.refl _ _) (List.Subset.refl _)
  | getPldmVersion => exact execGetPldmVersion_same (.refl _ _) (List.Subset.refl _)
  | getPldmTypes => exact execGetPldmTypes_same (.refl _ _) (List.Subset.refl _)
  | getPldmCommands => exact execGetPldmCommands_same (.refl _ _) (List.Subset.refl _)
  | getPdrRepositoryInfo => exact execGetPdrRepositoryInfo_same (.refl _ _) (List.Subset.refl _)
  | getPdr => exact execGetPdr_same (.refl _ _) (List.Subset.refl _)
  | getSensorReading => exact execGetSensorReading_same (.refl _ _) (List.Subset.refl _)
  | getStateSensorReadings => exact execGetStateSensorReadings_same (.refl _ _) (List.Subset.refl _)
  | setNumericEffecterValue => exact execSetNumericEffecterValue_same (.refl _ _) (List.Subset.refl _)
  | getNumericEffecterValue => exact execGetNumericEffecterValue_same (.refl _ _) (List.Subset.refl _)
  | requestUpdate => exact execRequestUpdate_same (.refl _ _) (List.Subset.refl _)
  | verifyComplete => exact execVerifyComplete_same (.refl _ _) (List.Subset.refl _)
  | activateFirmware => exact execActivateFirmware_same (.refl _ _) (List.Subset.refl _)
  | ledgerFlush => exact execLedgerFlush_same (.refl _ _) (List.Subset.refl _)
  | hostLinkUp => exact execHostLinkUp_same (.refl _ _) (List.Subset.refl _)
  | announce => exact execAnnounce_same (.refl _ _) (List.Subset.refl _)
  | followUp => exact execFollowUp_same (.refl _ _) (List.Subset.refl _)
  | delayResponse => exact execDelayResponse_same (.refl _ _) (List.Subset.refl _)
  | idleFlit => exact execIdleFlit_same (.refl _ _) (List.Subset.refl _)
  | refclkLoss => exact execRefclkLoss_same (.refl _ _) (List.Subset.refl _)
  | islandPowerOn => exact execIslandPowerOn_same (.refl _ _) (List.Subset.refl _)
  | limiterAclkRaise => exact execLimiterAclkRaise_same (.refl _ _) (List.Subset.refl _)
  | extest => exact execExtest_same (.refl _ _) (List.Subset.refl _)

/-- Settles O6: the frames of the meanings, one for each command. -/
theorem everyCommandWritesOnlyItsState : Obligations.EveryCommandWritesOnlyItsState :=
  fun c s t => exec_sameOut c s t

/-! ### Register writes (R417, R421, R422, R433) -/

/-- A write by a command outside the Bell slots of BAR4 is the bus's. -/
theorem State.writeCmd_eq_busWrite (s : State) (m : Master) {a : Nat} (v : Word) (h4 : a % 4 = 0) (ha : a < 0x4000000 ∨ 0x4080000 ≤ a) :
    s.writeCmd m a v = s.busWrite m a v := by
  cases m with
  | watchman => simp [State.writeCmd, h4]
  | host f =>
    have : ¬ (0x4000000 ≤ a ∧ a < 0x4080000) := by omega
    simp [State.writeCmd, h4, this]

/-- A command that is a register write puts its word on the bus. -/
theorem exec_of_busOf {c : Instr} {m : Master} {a : Nat} {v : Word} (s : State) (h : busOf c = some (m, a, v)) :
    exec c s = .next (s.busWrite m a v) := by
  cases c with
  | registerWrite m access v =>
    obtain ⟨a, size⟩ := access
    obtain ⟨⟨h4, rfl, ha⟩, e⟩ := Option.ite_none_right_eq_some.mp h
    cases e
    exact congrArg Host.Outcome.next (s.writeCmd_eq_busWrite m v h4 ha)
  | setViewWrite m a v | clearViewWrite m a v =>
    obtain ⟨⟨h4, ha, hview⟩, e⟩ := Option.ite_none_right_eq_some.mp h
    cases e
    exact congrArg Host.Outcome.next ((if_pos hview).trans (s.writeCmd_eq_busWrite m v h4 ha))
  | pageKey | pageOwnerWrite | faultCodeClear | snapCtrlTake | sqSnapAll | faultFenceWrite | dieCmdWrite | nightwatchRequest
  | powerCapWrite | thermalCapWrite | merCtrlSourceWrite | merRateWrite | merSetLo | merFrameNextLo | almIndex | almCtrlWrite
  | cueDataWrite | cueGroupOwner | routeCmdLoad | bind | unbind =>
    cases h
    rfl
  | retrain | ffKatStart | hbmMarginStart | map | unmap | dmaTail | dmaCtrlWrite | ringTail | cmplHead | ringCtrlWrite =>
    obtain ⟨hguard, e⟩ := Option.ite_none_right_eq_some.mp h
    cases e
    exact congrArg Host.Outcome.next (if_pos hguard)
  | _ => cases h

/-- A write that its page hears and that its master owns reaches the page (R407, R417). -/
theorem busWrite_of_accepts {s : State} {m : Master} {a raw : Nat} {p : Page} (v : Word) (hr : resolve m a = some (p, raw))
    (ha : s.accepts m p raw = true) : s.busWrite m a v = s.pageWrite (landed m p raw v) := by
  simp only [State.accepts, State.hears, Bool.and_eq_true] at ha
  obtain ⟨⟨⟨hreach, hwrite⟩, hserved⟩, -⟩ := ha
  simp [State.busWrite, hr, hreach, hwrite, hserved, landed]

/-- A write of a page's owner is carried out: on a doorbell page as it is, on any other by the guard, which it uses up or, as a
write of PAGE_KEY, sets (R421, R422, R433). -/
theorem pageWrite_of_owner {s : State} {w : BusWr} (ho : ownerAllows (s.ownerOf w.p) w.m = true) :
    s.pageWrite w =
      if w.p.type = .ring then s.applyWrite w false
      else (s.withGuards (SMap.set none w.p.base (if w.x = 0x00C ∧ w.view = .direct then keyGuard w.m w.v.toNat else none)
        s.guards)).applyWrite w (s.guardMatches w) := by
  simp [State.pageWrite, ho]

/-- Settles O7: the command is a write of the bus, which reaches the page. -/
theorem registerWritesTakeEffect : Obligations.RegisterWritesTakeEffect := by
  intro c m a raw v p s hc hr ha
  have ho : ownerAllows (s.ownerOf p) m = true := (Bool.and_eq_true _ _ ▸ ha).2
  rw [exec_of_busOf s hc, busWrite_of_accepts v hr ha, pageWrite_of_owner ho]
  rfl

/-! ### The field tables (R4 to R10): the rows of one register share no bit -/

/-- The bits of a field row lie in a register word. -/
def FieldRow.fits (f : FieldRow) : Bool := decide (f.lo ≤ f.hi) && decide (f.hi < 32)

/-- Two field rows share no bit of a register: their bits differ, or no place of the first is one of the second. -/
def FieldRow.apart (f g : FieldRow) : Bool :=
  decide (f.hi < g.lo) || decide (g.hi < f.lo) || (List.range (max 1 f.count)).all fun i => !g.at (f.off + i * f.stride)

theorem FieldRow.fits_iff {f : FieldRow} : f.fits = true ↔ f.lo ≤ f.hi ∧ f.hi < 32 := by simp [FieldRow.fits]

/-- An offset at which a field row stands is one of its `count` places. -/
theorem FieldRow.at_place {f : FieldRow} {x : Nat} (h : f.at x = true) : ∃ i < max 1 f.count, x = f.off + i * f.stride := by
  unfold FieldRow.at at h
  split at h
  · exact ⟨0, by omega, by simpa using (beq_iff_eq.mp h).symm⟩
  · simp only [Bool.and_eq_true, decide_eq_true_eq, beq_iff_eq] at h
    obtain ⟨⟨hle, hmod⟩, hlt⟩ := h
    exact ⟨(x - f.off) / f.stride, by omega, by rw [Nat.div_mul_cancel (Nat.dvd_of_mod_eq_zero hmod)]; omega⟩

theorem FieldRow.apart_at {f g : FieldRow} {x : Nat} (h : f.apart g = true) (hf : f.at x = true) (hg : g.at x = true) :
    f.hi < g.lo ∨ g.hi < f.lo := by
  obtain ⟨i, hi, rfl⟩ := FieldRow.at_place hf
  simp only [FieldRow.apart, Bool.or_eq_true, decide_eq_true_eq, List.all_eq_true, List.mem_range] at h
  rcases h with h | h
  · exact h
  · have := h i hi
    simp [hg] at this

theorem PageType.fields_fit (t : PageType) : ∀ f ∈ t.fields, f.fits = true := by cases t <;> decide

theorem PageType.fields_apart (t : PageType) : t.fields.Pairwise fun f g => f.apart g = true := by cases t <;> decide

theorem PageType.fieldsAt_fit (t : PageType) (x : Nat) : ∀ f ∈ t.fieldsAt x, f.lo ≤ f.hi ∧ f.hi < 32 :=
  fun f hf => FieldRow.fits_iff.mp (t.fields_fit f (List.mem_filter.mp hf).1)

theorem PageType.fieldsAt_disjoint (t : PageType) (x : Nat) :
    (t.fieldsAt x).Pairwise fun f g => f.hi < g.lo ∨ g.hi < f.lo :=
  (t.fields_apart.filter _).imp_of_mem fun hf hg h => FieldRow.apart_at h (List.mem_filter.mp hf).2 (List.mem_filter.mp hg).2

/-! ### A word after several fields are set -/

/-- Fields apart from hi..lo leave it as it was. -/
theorem getField_setFields_other (val : FieldRow → Nat) {hi lo : Nat} (h32 : hi < 32) {fs : List FieldRow} (w : Word)
    (hfit : ∀ f ∈ fs, f.lo ≤ f.hi ∧ f.hi < 32) (hd : ∀ f ∈ fs, f.hi < lo ∨ hi < f.lo) :
    getField (fs.foldl (fun r f => setField r f.hi f.lo (val f)) w) hi lo = getField w hi lo := by
  induction fs generalizing w with
  | nil => rfl
  | cons f fs ih =>
    obtain ⟨⟨hl, hh⟩, hfit⟩ := List.forall_mem_cons.mp hfit
    obtain ⟨hf, hd⟩ := List.forall_mem_cons.mp hd
    exact (ih _ hfit hd).trans (getField_setField_other w _ _ _ _ _ hl hh h32 hf.symm)

/-- Each of several disjoint fields holds the value it was set to. -/
theorem getField_setFields (val : FieldRow → Nat) {fs : List FieldRow} (w : Word) (hfit : ∀ f ∈ fs, f.lo ≤ f.hi ∧ f.hi < 32)
    (hd : fs.Pairwise fun f g => f.hi < g.lo ∨ g.hi < f.lo) {f : FieldRow} (hf : f ∈ fs) :
    getField (fs.foldl (fun r f => setField r f.hi f.lo (val f)) w) f.hi f.lo = val f % 2 ^ (f.hi + 1 - f.lo) := by
  induction fs generalizing w with
  | nil => cases hf
  | cons g fs ih =>
    obtain ⟨⟨hl, hh⟩, hfs⟩ := List.forall_mem_cons.mp hfit
    obtain ⟨hg, hds⟩ := List.pairwise_cons.mp hd
    rcases List.mem_cons.mp hf with rfl | hf
    · rw [List.foldl_cons, getField_setFields_other val hh _ hfs fun k hk => (hg k hk).symm, getField_setField w _ _ _ hl hh]
    · exact ih _ hfs hds hf

/-- A bit that none of several fields covers stays. -/
theorem setFields_bit_uncovered (val : FieldRow → Nat) {i : Nat} (hi : i < 32) {fs : List FieldRow} (w : Word)
    (hfit : ∀ f ∈ fs, f.lo ≤ f.hi ∧ f.hi < 32) (hc : ∀ f ∈ fs, ¬ (f.lo ≤ i ∧ i ≤ f.hi)) :
    (fs.foldl (fun r f => setField r f.hi f.lo (val f)) w).getLsbD i = w.getLsbD i := by
  induction fs generalizing w with
  | nil => rfl
  | cons f fs ih =>
    obtain ⟨⟨hl, hh⟩, hfit⟩ := List.forall_mem_cons.mp hfit
    obtain ⟨hf, hc⟩ := List.forall_mem_cons.mp hc
    rw [List.foldl_cons, ih _ hfit hc, setField_bit w _ _ _ _ hl hh hi, if_neg hf]

/-! ### What a field takes (Table SCOPE-2, R5, R420) -/

theorem viewed_testBit (view : View) (a v i : Nat) : (viewed view a v).testBit i =
    match view with
    | .direct => v.testBit i
    | .set => a.testBit i || v.testBit i
    | .clear => a.testBit i && !v.testBit i := by
  cases view with
  | direct => rfl
  | set => simp [viewed]
  | clear => simp only [viewed, Nat.testBit_and, Nat.testBit_xor]; cases a.testBit i <;> cases v.testBit i <;> rfl

theorem viewed_lt {view : View} {a v n : Nat} (ha : a < 2 ^ n) (hv : v < 2 ^ n) : viewed view a v < 2 ^ n := by
  cases view with
  | direct => exact hv
  | set => exact Nat.or_lt_two_pow ha hv
  | clear => exact Nat.and_lt_two_pow _ (Nat.xor_lt_two_pow ha hv)

namespace BusWr

/-- The access code of the field lets this write store a value: RW, RWG under an armed guard, PAGE_OWNER by the Watchman. -/
def MayStore (w : BusWr) (armed : Bool) (f : FieldRow) : Prop :=
  f.acc = .rw ∨ f.acc = .rwg ∧ armed = true ∨ f.acc = .wmRw ∧ w.m = .watchman

/-- Nothing keeps the field from the value that the view makes: the encoding is legal (R5), no state keeps the field, and the
master may write it (R424). -/
def Stores (w : BusWr) (s : State) (f : FieldRow) (a v : Nat) : Prop :=
  legalCode w.p f (viewed w.view a v) = true ∧ s.fieldKept w.p f = false ∧ (w.m = .watchman ∨ watchmanOnly w.p f = false)

variable {w : BusWr} {s : State} {armed : Bool} {f : FieldRow} {a v : Nat}

theorem takes_of_stores (h : w.Stores s f a v) : w.takes s f a v = viewed w.view a v := by
  obtain ⟨hl, hk, hm⟩ := h
  simp [takes, hl, hk, hm]

theorem takes_of_not_stores (h : ¬ w.Stores s f a v) : w.takes s f a v = a := by
  refine if_neg fun hc => h ?_
  simpa [Stores, and_assoc] using hc

theorem field_of_merKept (h : w.merKept s armed = true) : w.field s armed f a v = a := by simp [field, h]

theorem field_readOnly (h : f.acc = .ro ∨ f.acc = .wo ∨ f.acc = .rc) : w.field s armed f a v = a := by
  rcases h with h | h | h <;> simp [field, h]

theorem field_w1c (hk : w.merKept s armed = false) (h : f.acc = .w1c) :
    w.field s armed f a v = if w.view = .set then (if f.off = 0x024 then a else viewed .set a v) else viewed .clear a v := by
  cases hv : w.view <;> simp [field, hk, h, hv, viewed]

theorem field_w1s (hk : w.merKept s armed = false) (h : f.acc = .w1s) :
    w.field s armed f a v = if w.view = .clear then a else viewed .set a v := by simp [field, hk, h, viewed]

theorem field_mayStore (hk : w.merKept s armed = false) (h : w.MayStore armed f) : w.field s armed f a v = w.takes s f a v := by
  rcases h with h | ⟨h, ha⟩ | ⟨h, hm⟩
  · simp [field, hk, h]
  · subst ha; simp [field, hk, h]
  · simp [field, hk, h, hm]

theorem field_not_mayStore (hacc : f.acc = .rw ∨ f.acc = .rwg ∨ f.acc = .wmRw) (h : ¬ w.MayStore armed f) :
    w.field s armed f a v = a := by
  rcases hacc with hf | hf | hf
  · exact absurd (.inl hf) h
  · have ha : armed = false := by simpa [MayStore, hf] using h
    simp [field, hf, ha]
  · have hm : w.m ≠ .watchman := by simpa [MayStore, hf] using h
    simp [field, hf, hm]

/-- A field that stores keeps its value where this write may not store, or something keeps the field. -/
theorem field_kept (hacc : f.acc = .rw ∨ f.acc = .rwg ∨ f.acc = .wmRw) (h : ¬ w.MayStore armed f ∨ ¬ w.Stores s f a v) :
    w.field s armed f a v = a := by
  by_cases hk : w.merKept s armed = true
  · exact field_of_merKept hk
  by_cases hm : w.MayStore armed f
  · exact (field_mayStore (Bool.eq_false_iff.mpr hk) hm).trans (takes_of_not_stores (h.resolve_left (· hm)))
  · exact field_not_mayStore hacc hm

/-- A field's new value is its old one, or the old and the written one under a view. -/
theorem field_eq_or_viewed (w : BusWr) (s : State) (armed : Bool) (f : FieldRow) (a v : Nat) :
    w.field s armed f a v = a ∨ ∃ view, w.field s armed f a v = viewed view a v := by
  by_cases hk : w.merKept s armed = true
  · exact .inl (field_of_merKept hk)
  have hk := Bool.eq_false_iff.mpr hk
  have stored (hacc : f.acc = .rw ∨ f.acc = .rwg ∨ f.acc = .wmRw) :
      w.field s armed f a v = a ∨ ∃ view, w.field s armed f a v = viewed view a v := by
    by_cases hm : w.MayStore armed f
    · by_cases ht : w.Stores s f a v
      · exact .inr ⟨w.view, (field_mayStore hk hm).trans (takes_of_stores ht)⟩
      · exact .inl (field_kept hacc (.inr ht))
    · exact .inl (field_kept hacc (.inl hm))
  cases hf : f.acc with
  | rw => exact stored (.inl hf)
  | rwg => exact stored (.inr (.inl hf))
  | wmRw => exact stored (.inr (.inr hf))
  | ro => exact .inl (field_readOnly (.inl hf))
  | wo => exact .inl (field_readOnly (.inr (.inl hf)))
  | rc => exact .inl (field_readOnly (.inr (.inr hf)))
  | w1c =>
    rw [field_w1c hk hf]
    split
    · split
      · exact .inl rfl
      · exact .inr ⟨.set, rfl⟩
    · exact .inr ⟨.clear, rfl⟩
  | w1s =>
    rw [field_w1s hk hf]
    split
    · exact .inl rfl
    · exact .inr ⟨.set, rfl⟩

theorem field_lt {n : Nat} (ha : a < 2 ^ n) (hv : v < 2 ^ n) : w.field s armed f a v < 2 ^ n := by
  rcases w.field_eq_or_viewed s armed f a v with h | ⟨view, h⟩
  · rwa [h]
  · rw [h]; exact viewed_lt ha hv

/-- Each field of the word that a write leaves is what `BusWr.field` makes of the field's bits. -/
theorem getField_merge (w : BusWr) (s : State) (armed : Bool) (old : Word) {f : FieldRow} (hf : f ∈ w.p.type.fieldsAt w.x) :
    getField (w.merge s armed old (w.p.type.fieldsAt w.x)) f.hi f.lo
      = w.field s armed f (getField old f.hi f.lo) (getField w.v f.hi f.lo) := by
  unfold merge
  rw [getField_setFields (fun f => w.field s armed f (getField old f.hi f.lo) (getField w.v f.hi f.lo)) old
    (w.p.type.fieldsAt_fit w.x) (w.p.type.fieldsAt_disjoint w.x) hf]
  exact Nat.mod_eq_of_lt (field_lt (getField_lt _ _ _) (getField_lt _ _ _))

theorem merge_bit_uncovered (w : BusWr) (s : State) (armed : Bool) (old : Word) {i : Nat} (hi : i < 32)
    (hc : ∀ f, f ∈ w.p.type.fieldsAt w.x → ¬ (f.lo ≤ i ∧ i ≤ f.hi)) :
    (w.merge s armed old (w.p.type.fieldsAt w.x)).getLsbD i = old.getLsbD i :=
  setFields_bit_uncovered _ hi old (w.p.type.fieldsAt_fit w.x) hc

theorem field_w1c_testBit (hk : w.merKept s armed = false) (h : f.acc = .w1c) (i : Nat) : (w.field s armed f a v).testBit i =
    if w.view = .set then a.testBit i || (v.testBit i && f.off != 0x024) else a.testBit i && !v.testBit i := by
  rw [field_w1c hk h]
  by_cases hv : w.view = .set
  · by_cases ho : f.off = 0x024 <;> simp [hv, ho, bne, beq_eq_false_iff_ne.mpr, viewed_testBit]
  · simp [hv, viewed_testBit]

theorem field_w1s_testBit (hk : w.merKept s armed = false) (h : f.acc = .w1s) (i : Nat) :
    (w.field s armed f a v).testBit i = (a.testBit i || (v.testBit i && w.view != .clear)) := by
  rw [field_w1s hk h]
  by_cases hv : w.view = .clear <;> simp [hv, bne, beq_eq_false_iff_ne.mpr, viewed_testBit]

end BusWr

/-- Settles O9: the rows of a register share no bit, so each field of the merged word is what `BusWr.field` makes of its bits. -/
theorem writtenWordFollowsAccessCodes : Obligations.WrittenWordFollowsAccessCodes := by
  refine ⟨fun w s armed old => ⟨fun f hf => ?fields, fun i hi hc => w.merge_bit_uncovered s armed old hi hc⟩,
    fun w s armed f old v hacc hl => BusWr.field_kept hacc (.inr fun h => by simp [h.1] at hl)⟩
  case fields =>
    dsimp only
    rw [w.getField_merge s armed old hf]
    refine ⟨BusWr.field_of_merKept, fun hk => ⟨BusWr.field_readOnly, BusWr.field_w1c_testBit hk, BusWr.field_w1s_testBit hk,
      fun hm ht i => ?_, BusWr.field_kept⟩⟩
    rw [BusWr.field_mayStore hk hm, BusWr.takes_of_stores ht]
    exact viewed_testBit w.view _ _ i

/-! ### Maps and lists of numbers -/

theorem mem_numsFrom {a n k : Nat} : k ∈ numsFrom a n ↔ a ≤ k ∧ k < a + n := by
  induction n generalizing a with
  | zero => simp [numsFrom]
  | succ n ih => simp only [numsFrom, List.mem_cons, ih]; omega

theorem SMap.getF_of_forall {α : Type} {d : Nat → α} {P : α → Prop} {m : SMap α} (hm : ∀ e ∈ m, P e.2) {k : Nat} (hd : P (d k)) :
    P (SMap.getF d m k) := by
  induction m with
  | nil => exact hd
  | cons e m ih =>
    obtain ⟨he, hm⟩ := List.forall_mem_cons.mp hm
    rw [SMap.getF]
    split
    · exact he
    · exact ih hm

theorem SMap.get_keep {α : Type} (d : α) (p : Nat → Bool) (m : SMap α) (k : Nat) :
    SMap.get d (SMap.keep p m) k = if p k then SMap.get d m k else d := by
  induction m with
  | nil => exact (ite_self d).symm
  | cons e m ih =>
    obtain ⟨j, v⟩ := e
    simp only [SMap.keep, SMap.get, List.filter_cons] at ih ⊢
    by_cases hkj : k = j
    · subst hkj
      by_cases hp : p k = true <;> simp [SMap.getF, hp, ih]
    · by_cases hp : p j = true <;> simp [SMap.getF, hp, hkj, ih]

/-! ### The host link (R393, R395, R401) -/

/-- HOST_LINK of a function is written with those of a list. -/
theorem reg_setLinks (v f : Nat) (fs : List Nat) (s : State) :
    (setLinks v fs s).reg ((hostPage f).reg 0x044) =
      if f ∈ fs then BitVec.ofNat 32 v else s.reg ((hostPage f).reg 0x044) := by
  induction fs generalizing s with
  | nil => simp [setLinks]
  | cons g fs ih =>
    have hpage : (hostPage f).reg 0x044 = (hostPage g).reg 0x044 ↔ f = g := by
      simp only [Page.reg, Page.base, hostPage]; omega
    simp only [setLinks, ih, State.reg_setReg, hpage, List.mem_cons]
    by_cases hf : f ∈ fs <;> by_cases hg : f = g <;> simp [hf, hg]

theorem setLinks_board (v : Nat) (fs : List Nat) (s : State) : (setLinks v fs s).board = s.board :=
  (setLinks_same (.refl _ s) (List.Subset.refl _)).board (by decide)

theorem linkDowns_board (fs : List Nat) (s : State) : (linkDowns fs s).board = s.board :=
  (linkDowns_same (.refl _ s) (List.Subset.refl _)).board (by decide)

theorem alert_board (s : State) (bit : FieldRow) : (s.alert bit).board = s.board :=
  (State.alert_same (.refl _ s) (List.Subset.refl _)).board (by decide)

/-- The host has set the function's Memory Space Enable, and D3hot as it asked. -/
def Configured (c : HostCfg) (f : Nat) (x : PcieFn) : Prop := x.memEnable = true ∧ x.d3hot = c.d3hot.contains f

theorem configured_foldl (c : HostCfg) {f : Nat} {fs : List Nat} {m : SMap PcieFn}
    (h : f ∈ fs ∨ Configured c f (SMap.get {} m f)) :
    Configured c f (SMap.get {} (fs.foldl (fun m f => SMap.set {} f (configFn c f (SMap.get {} m f)) m) m) f) := by
  induction fs generalizing m with
  | nil => exact h.resolve_left List.not_mem_nil
  | cons g fs ih =>
    by_cases hf : f ∈ fs
    · exact ih (.inl hf)
    · refine ih (.inr ?_)
      simp only [SMap.get, SMap.set, SMap.getF_setF]
      split
      case isTrue e => exact e ▸ ⟨rfl, rfl⟩
      case isFalse e => exact h.resolve_left fun hm => (List.mem_cons.mp hm).elim e hf

theorem configure_functions (c : HostCfg) (s : State) : (s.configure c).functions = numsFrom 0 (min c.vfs 31 + 1) := by
  simp [State.functions, State.configure]

theorem configure_configured (c : HostCfg) (s : State) {f : Nat} (hf : f ≤ min c.vfs 31) : Configured c f ((s.configure c).pcieFn f) :=
  configured_foldl c (.inl (mem_numsFrom.mpr (by omega)))

theorem configure_bar2 (c : HostCfg) (s : State) : (s.configure c).board.bar2 =
    if (s.pcieFn 0).memEnable = false ∧ 30 ≤ c.bar2 ∧ c.bar2 ≤ 40 then c.bar2 else s.board.bar2 := by
  show resizeBar s.board.bar2 c.bar2 (s.pcieFn 0).memEnable = _
  unfold resizeBar
  cases (s.pcieFn 0).memEnable
  · by_cases h : 30 ≤ c.bar2 ∧ c.bar2 ≤ 40
    · rw [if_neg (by simp; omega), if_pos ⟨rfl, h⟩]
    · rw [if_pos (by simp; omega), if_neg (fun k => h k.2)]
  · simp

/-- The link trains: what the host configures and HOST_LINK of every enabled function. -/
theorem execHostLinkUp_trains {speed width : Nat} {flit : Bool} (cfg : HostCfg) {s : State} (hon : s.squareOn = true)
    (hperst : s.board.perst = false) (hrec : s.board.recovery = false) (hnight : s.board.night ≠ 2)
    (ht : trainsTo speed width flit = true) :
    exec (.hostLinkUp speed width flit cfg) s =
      .next (setLinks (speed + 8 * width + if flit then 256 else 0) (numsFrom 0 (min cfg.vfs 31 + 1)) (s.configure cfg)) := by
  rw [← configure_functions cfg s]
  exact if_pos (by simp [hon, hperst, hrec, hnight, ht])

/-- Every entry that clearMse leaves, and every one that it does not list, has Memory Space Enable 0. -/
theorem clearMse_memEnable (m : SMap PcieFn) (f : Nat) : (SMap.get {} (clearMse m) f).memEnable = false := by
  unfold clearMse
  induction m with
  | nil => rfl
  | cons p m ih =>
    obtain ⟨k, x⟩ := p
    rw [SMap.mapF]
    split
    · exact ih
    · rw [SMap.get, SMap.getF]
      split
      · rfl
      · exact ih

/-- A lost link leaves the board as it was but for the link and the memory spaces. -/
theorem linkLost_board {s : State} (h : s.board.link = true) :
    s.linkLost.board = { s.board with link := false, pcie := clearMse s.board.pcie } := by
  rw [State.linkLost, if_pos h]
  dsimp only
  rw [alert_board, linkDowns_board, setLinks_board]
  rfl

theorem alert_ledger (s : State) (bit : FieldRow) : (s.alert bit).ledger = s.ledger :=
  (State.alert_same (.refl _ s) (List.Subset.refl _)).ledger (by decide)

/-- A record takes the next number of the Ledger. -/
theorem ledgerAdd_next (s : State) (kind code : Nat) (page : Option Page) (unit info job function step extra : Nat) :
    (s.ledgerAdd kind code page unit info job function step extra).ledger.next = s.ledger.next + 1 := by
  unfold State.ledgerAdd
  dsimp only
  split
  · rw [alert_ledger]; rfl
  · split
    · rw [alert_ledger]; rfl
    · rfl

theorem failSquare_ledger_next (s : State) (code info : Nat) (page : Page) :
    (s.failSquare code info page).ledger.next = s.ledger.next + 1 := by
  rw [← ledgerAdd_next s 1 code (some page) 32 info 0 0 0 0]
  exact congrArg Ledger.next ((State.linkLost_same (.refl _ _) (List.Subset.refl _)).ledger (by decide))

theorem hostLinkUp_comesUp (speed width : Nat) (flit : Bool) (cfg : HostCfg) (s : State) (hon : s.squareOn = true)
    (hperst : s.board.perst = false) (hrec : s.board.recovery = false) (hnight : s.board.night ≠ 2)
    (ht : trainsTo speed width flit = true) :
    ∃ t, exec (.hostLinkUp speed width flit cfg) s = .next t ∧ t.board.link = true ∧ t.board.vfs = min cfg.vfs 31
      ∧ State.SameBut [.board, .regs] s t
      ∧ (∀ f, f ≤ min cfg.vfs 31 → (t.pcieFn f).memEnable = true ∧ (t.pcieFn f).d3hot = cfg.d3hot.contains f
        ∧ t.reg ((hostPage f).reg 0x044) = BitVec.ofNat 32 (speed + 8 * width + if flit then 256 else 0))
      ∧ t.board.bar2 = (if (s.pcieFn 0).memEnable = false ∧ 30 ≤ cfg.bar2 ∧ cfg.bar2 ≤ 40 then cfg.bar2 else s.board.bar2) := by
  have he := execHostLinkUp_trains cfg hon hperst hrec hnight ht
  refine ⟨_, he, ?link, ?vfs, execHostLinkUp_same (.refl _ s) (List.Subset.refl _) _ he, fun f hf => ?fns, ?bar2⟩
  case link => rw [setLinks_board]; rfl
  case vfs => rw [setLinks_board]; rfl
  case bar2 => rw [setLinks_board, configure_bar2]
  case fns =>
    have hc : Configured cfg f ((s.configure cfg).pcieFn f) := configure_configured cfg s hf
    rw [State.pcieFn, setLinks_board, reg_setLinks, if_pos (mem_numsFrom.mpr (by omega))]
    exact ⟨hc.1, hc.2, rfl⟩

theorem linkDown_goesDown (s : State) (hon : s.squareOn = true) (hlink : s.board.link = true) :
    ∃ t, exec .linkDown s = .next t ∧ t.board = { s.board with link := false, pcie := t.board.pcie }
      ∧ (∀ f, (t.pcieFn f).memEnable = false) ∧ State.SameBut [.board, .regs, .out] s t := by
  have he : exec .linkDown s = .next s.linkLost := congrArg Host.Outcome.next (if_pos hon)
  have hb := linkLost_board hlink
  refine ⟨_, he, by rw [hb], fun f => ?_, execLinkDown_same (.refl _ s) (List.Subset.refl _) _ he⟩
  rw [State.pcieFn, hb]
  exact clearMse_memEnable s.board.pcie f

theorem refclkLoss_failsSquare (s : State) (hon : s.squareOn = true) :
    ∃ t, exec .refclkLoss s = .next t ∧ t.board.squareFail = true ∧ t.ledger.next = s.ledger.next + 1
      ∧ State.SameBut [.board, .ledger, .regs, .out] s t := by
  have he : exec .refclkLoss s = .next (s.failSquare 0 0 (sqPage .squareCtrl)) := congrArg Host.Outcome.next (if_pos hon)
  exact ⟨_, he, rfl, failSquare_ledger_next s 0 0 _, execRefclkLoss_same (.refl _ s) (by decide) _ he⟩

/-! ### Commands in progress (R240): where no sector holds an error, stopping them leaves the stacks alone -/

/-- A state of the same stacks holds no error where the other holds none. -/
theorem eccClean_of_same {w : List Part} {a b : State} (h : State.SameBut w a b) (hw : .hbmStacks ∉ w) (hc : a.eccClean = true) :
    b.eccClean = true := by
  rw [State.eccClean, h.hbmStacks hw]
  exact hc

theorem stack_of_eccClean {s : State} (h : s.eccClean = true) (k : Nat) : (s.stack k).bad = [] ∧ (s.stack k).weak = [] := by
  refine SMap.getF_of_forall (P := fun x : StackMem => x.bad = [] ∧ x.weak = []) (fun e he => ?_) ⟨rfl, rfl⟩
  simpa using List.all_eq_true.mp h e he

theorem takeSector_clean {w : List Part} {a s src before : State} {xs : List BitSpan} {sec : Nat} (h : State.SameBut w a s)
    (hc : before.eccClean = true) (hw : [.mem] ⊆ w) : State.SameBut w a (s.takeSector src before xs sec) := by
  obtain ⟨hbad, hweak⟩ := stack_of_eccClean hc (stackOfPa sec)
  simpa [State.takeSector, hbad, hweak] using storeSp_same h hw

theorem partSectors_clean {w : List Part} {a s src before : State} {spans : List BitSpan} {secs : List Nat} (h : State.SameBut w a s)
    (hc : before.eccClean = true) (hw : [.freeCount, .mem] ⊆ w) : State.SameBut w a (partSectors src before spans secs s) := by
  induction secs generalizing s with
  | nil => exact h
  | cons x xs ih =>
    have ho := State.openValue_same h (Part.sub (by decide) hw)
    refine ih ?_
    split
    · exact takeSector_clean ho hc (Part.sub (by decide) hw)
    · exact ho

theorem stopGran_clean {s : State} {pair : Nat} {e : GranRun} (hc : s.eccClean = true) :
    State.SameBut [.freeCount, .mem] s (s.stopGran pair e) := by
  unfold State.stopGran
  split
  · exact .refl _ s
  · split
    · dsimp only
      split
      · exact .refl _ s
      · exact partSectors_clean (.refl _ s) hc (List.Subset.refl _)
    · exact .refl _ s

theorem stopGrans_clean {s : State} {pair : Nat} {es : List GranRun} (hc : s.eccClean = true) :
    State.SameBut [.freeCount, .mem] s (stopGrans pair es s) := by
  induction es generalizing s with
  | nil => exact .refl _ s
  | cons e es ih =>
    have h := stopGran_clean (pair := pair) (e := e) hc
    exact h.trans (ih (eccClean_of_same h (by decide) hc))

theorem pairReset_clean {s : State} {job pair : Nat} (hc : s.eccClean = true) :
    State.SameBut [.freeCount, .mem, .pairs] s (s.pairReset job pair) :=
  State.setPair_same ((stopGrans_clean hc).mono (by decide)) (by decide)

theorem pairResets_clean {s : State} {job : Nat} {ps : List Nat} (hc : s.eccClean = true) :
    State.SameBut [.freeCount, .mem, .pairs] s (pairResets job ps s) := by
  induction ps generalizing s with
  | nil => exact .refl _ s
  | cons p ps ih =>
    have h := pairReset_clean (job := job) (pair := p) hc
    exact h.trans (ih (eccClean_of_same h (by decide) hc))

/-- The stacks keep their records where the units drop a job's work and none of the sectors holds an error. -/
theorem unitsReset_hbmStacks {s : State} (hc : s.eccClean = true) (job : Nat) (step : Option Nat) :
    (s.unitsReset job step).hbmStacks = s.hbmStacks := by
  have hp : (pairResets job (numsFrom 0 8) s).hbmStacks = s.hbmStacks := (pairResets_clean hc).hbmStacks (by decide)
  have hr (x : State) (ks : List Nat) : (reeveResets job ks x).hbmStacks = x.hbmStacks :=
    (reeveResets_same (.refl _ x) (List.Subset.refl _)).hbmStacks (by decide)
  have hf (x : State) : (x.dropFlits job).hbmStacks = x.hbmStacks :=
    (State.dropFlits_same (.refl _ x) (List.Subset.refl _)).hbmStacks (by decide)
  simp [State.unitsReset, State.pendingReset, hp, hr, hf]

/-! ### The jobs of the loader -/

theorem dropNodes_jobs (ns : List Nat) (x : Loader) : (ns.foldl Loader.dropNode x).jobs = x.jobs := by
  induction ns generalizing x with
  | nil => rfl
  | cons n ns ih => exact ih (x.dropNode n)

theorem dropSteps_jobs (ts : List Step) (s : State) : (ts.foldl State.dropStep s).loader.jobs = s.loader.jobs := by
  induction ts generalizing s with
  | nil => rfl
  | cons t ts ih => exact ih (s.dropStep t)

theorem closeSessions_jobs (ids : List Nat) (s : State) : (closeSessions ids s).loader.jobs = s.loader.jobs := by
  induction ids generalizing s with
  | nil => rfl
  | cons i ids ih => exact ih (s.closeSession i)

theorem dropNodesOf_jobs (s : State) (f : Nat) : (s.dropNodesOf f).loader.jobs = s.loader.jobs := dropNodes_jobs _ s.loader

theorem unitsReset_jobs (s : State) (job : Nat) (step : Option Nat) : (s.unitsReset job step).loader.jobs = s.loader.jobs := by
  have hp : (pairResets job (numsFrom 0 8) s).loader = s.loader :=
    (pairResets_same (.refl _ s) (List.Subset.refl _)).loader (by decide)
  have hr (x : State) (ks : List Nat) : (reeveResets job ks x).loader = x.loader :=
    (reeveResets_same (.refl _ x) (List.Subset.refl _)).loader (by decide)
  have hf (x : State) : (x.dropFlits job).loader = x.loader :=
    (State.dropFlits_same (.refl _ x) (List.Subset.refl _)).loader (by decide)
  simp [State.unitsReset, State.pendingReset, dropNodes_jobs, hp, hr, hf]

theorem removeJob_jobs (s : State) (j : Job) : (s.removeJob j).loader.jobs = s.loader.jobs.filter fun x => x.handle != j.handle := by
  simp [State.removeJob, State.freeBells, State.releaseBind, State.freeWhere, dropSteps_jobs, closeSessions_jobs, unitsReset_jobs]

/-- Of the jobs that a loader holds, those leave it whose handles are named. -/
theorem mem_removeJobs_jobs {js : List Job} {s : State} {x : Job} :
    x ∈ (removeJobs js s).loader.jobs ↔ x ∈ s.loader.jobs ∧ ∀ j ∈ js, x.handle ≠ j.handle := by
  induction js generalizing s with
  | nil => simp [removeJobs]
  | cons j js ih => simp [removeJobs, ih, removeJob_jobs, and_assoc]

theorem closeSessions_hbmStacks (ids : List Nat) (s : State) : (closeSessions ids s).hbmStacks = s.hbmStacks :=
  (closeSessions_same (.refl _ s) (List.Subset.refl _)).hbmStacks (by decide)

theorem removeJob_hbmStacks {s : State} (hc : s.eccClean = true) (j : Job) : (s.removeJob j).hbmStacks = s.hbmStacks := by
  have hd (ts : List Step) (x : State) : (ts.foldl State.dropStep x).hbmStacks = x.hbmStacks :=
    (same_foldl (fun _ _ h => State.dropStep_same h (List.Subset.refl _)) ts (.refl _ x)).hbmStacks (by decide)
  simp [State.removeJob, State.freeBells, State.releaseBind, State.freeWhere, hd, closeSessions_hbmStacks, unitsReset_hbmStacks hc]

theorem removeJobs_hbmStacks (js : List Job) {s : State} (hc : s.eccClean = true) :
    (removeJobs js s).hbmStacks = s.hbmStacks := by
  induction js generalizing s with
  | nil => rfl
  | cons j js ih =>
    have h := removeJob_hbmStacks hc j
    exact (ih (by rw [State.eccClean, h]; exact hc)).trans h

/-! ### FUNCTION reset (R447, R449), as the end of the function's work and what is cleared after it -/

/-- The function's jobs, sessions, shared nodes and held tickets leave the loader. -/
def State.functionEnds (s : State) (f : Nat) : State :=
  let s := removeJobs (s.loader.jobs.filter fun j => j.f == f) s
  let s := closeSessions ((s.loader.sessions.filter fun x => x.f == f).map (·.id)) s
  let s := s.dropNodesOf f
  s.withLoader { s.loader with held := s.loader.held.filter fun x => x.f != f }

/-- The function's registers and guards, its rings' and channels' bookkeeping, its DMA and its Field map are cleared. -/
def State.functionClears (s : State) (f : Nat) : State :=
  let s := (s.clearRegs clrF (ofFunction f)).clearGuards (ofFunction f)
  let s := (s.withDmaLost (s.dmaLost.filter fun k => k / 4 != f)).withRingLost (s.ringLost.filter fun k => k / 64 != f)
  let s := (s.withDma (SMap.keep (fun k => k / 4 != f) s.dma)).withFieldReqs (SMap.keep (· != f) s.fieldReqs)
  s.withFields (SMap.keep (fun k => k / 2 ^ 27 != f) s.fields)

theorem functionReset_eq (s : State) (f : Nat) : s.functionReset f =
    let u := ((s.functionEnds f).functionClears f).cueFunctionReset f
    ((u.withBoard { u.board with pcie := SMap.set {} f {} u.board.pcie }).withOut
      { u.out with held := u.out.held.filter fun x => x.1 != f }).ledgerAdd 7 70 none 32 0 0 f 0 0 := by
  simp only [State.functionReset, State.functionClears, State.functionEnds]

theorem functionClears_same (u : State) (f : Nat) :
    State.SameBut [.regs, .guards, .latch, .snaps, .dmaLost, .ringLost, .dma, .fieldReqs, .fields] u (u.functionClears f) := by
  have hregs := State.clearGuards_same (x0 := ofFunction f) (w := [.regs, .guards, .latch, .snaps, .dmaLost, .ringLost, .dma,
    .fieldReqs, .fields]) (State.clearRegs_same (x0 := clrF) (x1 := ofFunction f) (.refl _ u) (by decide)) (by decide)
  simp only [State.functionClears]
  generalize (u.clearRegs clrF (ofFunction f)).clearGuards (ofFunction f) = v at hregs
  exact State.withFields_same (State.withFieldReqs_same (State.withDma_same (State.withRingLost_same (State.withDmaLost_same hregs
    (by decide)) (by decide)) (by decide)) (by decide)) (by decide)

theorem functionClears_fields (u : State) (f : Nat) :
    (u.functionClears f).fields = SMap.keep (fun k => k / 2 ^ 27 != f) u.fields := by
  simp [State.functionClears, State.clearRegs, State.clearGuards]

theorem functionClears_dma (u : State) (f : Nat) : (u.functionClears f).dma = SMap.keep (fun k => k / 4 != f) u.dma := by
  simp [State.functionClears, State.clearRegs, State.clearGuards]

/-- After the clearing a reset touches Cue groups, the board, events and the Ledger alone. -/
theorem functionReset_same_clears (s : State) (f : Nat) :
    State.SameBut [.regs, .cue, .board, .ledger, .out] ((s.functionEnds f).functionClears f) (s.functionReset f) := by
  rw [functionReset_eq]
  generalize (s.functionEnds f).functionClears f = u
  exact State.ledgerAdd_same (State.withOut_same (State.withBoard_same (State.cueFunctionReset_same (.refl _ u) (by decide))
    (by decide)) (by decide)) (by decide)

theorem functionEnds_same (s : State) (f : Nat) :
    State.SameBut [.freeCount, .regs, .mem, .hbmStacks, .bells, .loader, .alm, .looms, .sieves, .gates, .pairs, .sram, .reeves,
      .flight, .ferry, .faults, .restarts, .out] s (s.functionEnds f) :=
  State.withLoader_same (State.dropNodesOf_same (closeSessions_same (removeJobs_same (.refl _ s) (List.Subset.refl _))
    (by decide)) (by decide)) (by decide)

theorem functionEnds_hbmStacks {s : State} (hc : s.eccClean = true) (f : Nat) : (s.functionEnds f).hbmStacks = s.hbmStacks := by
  simp [State.functionEnds, State.dropNodesOf, closeSessions_hbmStacks, removeJobs_hbmStacks _ hc]

theorem functionEnds_jobs (s : State) (f : Nat) :
    (s.functionEnds f).loader.jobs = (removeJobs (s.loader.jobs.filter fun j => j.f == f) s).loader.jobs := by
  simp [State.functionEnds, dropNodesOf_jobs, closeSessions_jobs]

/-- No job of the function is left: each has its handle among those removed. -/
theorem functionEnds_ends_jobs {s : State} {f : Nat} {j : Job} (h : j ∈ (s.functionEnds f).loader.jobs) : j.f ≠ f := by
  intro hf
  rw [functionEnds_jobs, mem_removeJobs_jobs] at h
  obtain ⟨hmem, hkept⟩ := h
  exact hkept j (List.mem_filter.mpr ⟨hmem, beq_iff_eq.mpr hf⟩) rfl

theorem functionReset_board (s : State) (f : Nat) :
    (s.functionReset f).board = { s.board with pcie := SMap.set {} f {} s.board.pcie } := by
  have hl (x : State) : (x.ledgerAdd 7 70 none 32 0 0 f 0 0).board = x.board :=
    (State.ledgerAdd_same (.refl _ x) (List.Subset.refl _)).board (by decide)
  have hu : (((s.functionEnds f).functionClears f).cueFunctionReset f).board = s.board :=
    ((State.cueFunctionReset_same (.refl _ _) (List.Subset.refl _)).board (by decide)).trans
      (((functionClears_same _ f).board (by decide)).trans ((functionEnds_same s f).board (by decide)))
  rw [functionReset_eq]
  generalize ((s.functionEnds f).functionClears f).cueFunctionReset f = u at hu
  rw [hl, ← hu]
  rfl

/-- What a FUNCTION reset leaves of the Field maps, of all functions. -/
theorem functionReset_fields (s : State) (f k : Nat) :
    SMap.get none (s.functionReset f).fields k = if k / 2 ^ 27 = f then none else SMap.get none s.fields k := by
  rw [(functionReset_same_clears s f).fields (by decide), functionClears_fields,
    (functionEnds_same s f).fields (by decide), SMap.get_keep]
  by_cases h : k / 2 ^ 27 = f
  · rw [if_neg fun hk => bne_iff_ne.mp hk h, if_pos h]
  · rw [if_pos (bne_iff_ne.mpr h), if_neg h]

theorem functionReset_dmaRuns (s : State) (f : Nat) {ch : Nat} (hch : ch < 4) : (s.functionReset f).dmaRuns f ch = [] := by
  rw [State.dmaRuns, (functionReset_same_clears s f).dma (by decide), functionClears_dma, SMap.get_keep,
    if_neg (by simp [dmaKey]; omega)]

theorem functionReset_ends (f : Nat) (s : State) (hon : s.squareOn = true) (hlink : s.board.link = true)
    (hf : s.functions.contains f = true) :
    ∃ t, exec (.functionLevelReset f) s = .next t ∧ (∀ j, j ∈ t.loader.jobs → j.f ≠ f) ∧ (∀ x, x ∈ t.loader.held → x.f ≠ f)
      ∧ (∀ k, SMap.get none t.fields k = if k / 2 ^ 27 = f then none else SMap.get none s.fields k)
      ∧ (∀ ch, ch < 4 → t.dmaRuns f ch = []) ∧ (s.eccClean = true → t.hbmStacks = s.hbmStacks) ∧ t.mer = s.mer
      ∧ t.board = { s.board with pcie := SMap.set {} f {} s.board.pcie } := by
  have he : exec (.functionLevelReset f) s = .next (s.functionReset f) :=
    congrArg Host.Outcome.next (if_pos (by simp only [hon, hlink, hf, Bool.and_self]))
  have hs := functionReset_same_clears s f
  have hload : (s.functionReset f).loader = (s.functionEnds f).loader := 
    (hs.loader (by decide)).trans ((functionClears_same _ f).loader (by decide))
  refine ⟨_, he, fun j hj => functionEnds_ends_jobs (hload ▸ hj), fun x hx => ?held, functionReset_fields s f,
    fun ch hch => functionReset_dmaRuns s f hch, fun hc => ?hbm, ?mer, functionReset_board s f⟩
  case held =>
    rw [hload] at hx
    simpa using (List.mem_filter.mp hx).2
  case hbm =>
    calc (s.functionReset f).hbmStacks = ((s.functionEnds f).functionClears f).hbmStacks := hs.hbmStacks (by decide)
      _ = (s.functionEnds f).hbmStacks := (functionClears_same _ f).hbmStacks (by decide)
      _ = s.hbmStacks := functionEnds_hbmStacks hc f
  case mer => exact (State.functionReset_same (.refl _ s) (List.Subset.refl _)).mer (by decide)

/-- Settles O21: the link's rise and loss, REFCLK's loss, and the reset of a function. -/
theorem linksAndFunctionsReset : Obligations.LinksAndFunctionsReset :=
  ⟨fun speed width flit cfg s hon => ⟨hostLinkUp_comesUp speed width flit cfg s hon, linkDown_goesDown s hon,
    refclkLoss_failsSquare s hon⟩, functionReset_ends⟩

end Sys2Proof.Machine

/-! SUPPORT. The settlements of the family of 02_number_formats.md: the codes of the formats, and the elements of MX-INT8. -/

namespace Sys2Proof

/-! ### Format codes (R26, R27) -/

/-- No two formats of Table NUM-1 share a code: the search by code finds the format itself. -/
@[simp] theorem Fmt.ofCode_code (f : Fmt) : Fmt.ofCode f.code = some f := by
  cases f <;> rfl

theorem Fmt.testBit_code (f : Fmt) : f.code.testBit 5 = f.isMx := by
  rw [Nat.testBit_eq_decide_div_mod_eq]
  rfl

theorem Fmt.isMx_eq_contains (f : Fmt) :
    f.isMx = [Fmt.mxE4m3, .mxE5m2, .mxE3m2, .mxE2m3, .mxE2m1, .mxInt8].contains f := by
  cases f <;> rfl

/-- The code of a block-scaled format is the code of its element format with bit 5 set (R27). -/
theorem Fmt.code_of_isMx {f : Fmt} (h : f.isMx = true) : f.code = f.elem.code + 32 := by
  revert h
  cases f <;> decide

theorem Fmt.ofCode_code_sub {f : Fmt} (h : f.isMx = true) : Fmt.ofCode (f.code - 32) = some f.elem := by
  rw [Fmt.code_of_isMx h, Nat.add_sub_cancel, Fmt.ofCode_code]

end Sys2Proof

namespace Sys2Proof.Machine

/-! ### The elements of MX-INT8 (R33) -/

/-- Under a scale that is not NaN the factor 2^−6 adds to the exponent of the scale. -/
theorem decodeMx_mxInt8 {scale : Nat} (c : Nat) (h : scale ≠ 0xFF) :
    decodeMx .mxInt8 scale c = (decodeElem .int8 c).scale ((scale : Int) - 127 - 6) :=
  if_neg h

/-- Settles O60: bit 5 of a code is the model's test for a block-scaled format, and the code without it is its element format's,
which the search by code finds. -/
theorem blockScaledCodesNameTheirElements : Obligations.BlockScaledCodesNameTheirElements :=
  ⟨fun f => f.testBit_code.trans f.isMx_eq_contains,
    fun f h => Fmt.ofCode_code_sub (f.testBit_code.symm.trans h),
    Fmt.ofCode_code .mxInt8, rfl, rfl, fun _ c h => decodeMx_mxInt8 c (Nat.ne_of_lt h)⟩

end Sys2Proof.Machine

/-! SUPPORT. The settlement of the family of 03_tiles_and_tags.md: a PASS issues, and its overflowed rows stream again. -/

namespace Sys2Proof.Machine

/-! ### A Loom of the state -/

@[simp] theorem State.loom_setLoom (s : State) (d h l : Nat) (x : Loom) : (s.setLoom d h l x).loom d h l = x :=
  SMap.getF_setF_same _ _ _ _

/-- Updates that write no Loom leave every one. -/
theorem State.SameBut.loom {w : List Part} {a b : State} (hs : State.SameBut w a b) (hw : .looms ∉ w) (d h l : Nat) :
    b.loom d h l = a.loom d h l := by
  simp only [State.loom, hs.looms hw]

@[simp] theorem State.loom_bump (s : State) (p : Page) (f : FieldRow) (n d h l : Nat) :
    (s.bump p f n).loom d h l = s.loom d h l :=
  (State.bump_same (.refl _ s) (List.Subset.refl _)).loom (by decide) d h l

@[simp] theorem State.loom_event (s : State) (p : Page) (bit : FieldRow) (d h l : Nat) :
    (s.event p bit).loom d h l = s.loom d h l :=
  (State.event_same (.refl _ s) (List.Subset.refl _)).loom (by decide) d h l

@[simp] theorem State.loom_events (s : State) (p : Page) (cnt bit : FieldRow) (n d h l : Nat) :
    (s.events p cnt bit n).loom d h l = s.loom d h l :=
  (State.events_same (.refl _ s) (List.Subset.refl _)).loom (by decide) d h l

@[simp] theorem State.loom_hearthFill (s : State) (d' h' l' n d h l : Nat) :
    (s.hearthFill d' h' l' n).loom d h l = s.loom d h l :=
  (State.hearthFill_same (.refl _ s) (List.Subset.refl _)).loom (by decide) d h l

/-! ### What of a Loom the end of a pass leaves (R73, R74, R78) -/

/-- The part of a Loom that markers, bubbles and the swap of tiles do not touch: its queue, its accumulators, the level of its
Hearth, and the run, the word and the overflowed rows of each issued instruction. -/
@[ext] structure PassView where
  queue : List (QEntry 256)
  acc : SMap Word
  written : SMap Bool
  level : Nat
  issued : List (Nat × BitVec 256 × List Nat)

/-- The run, the word and the overflowed rows of an issued instruction. -/
def Issued.view (z : Issued) : Nat × BitVec 256 × List Nat := (z.run, z.word, z.overs)

def Loom.passView (x : Loom) : PassView := ⟨x.queue, x.k.acc, x.k.written, x.hearthLevel, x.issued.map Issued.view⟩

@[simp] theorem LoomCtx.swapIn_acc (k : LoomCtx) (b : BufTile) : (k.swapIn b).acc = k.acc := rfl
@[simp] theorem LoomCtx.swapIn_written (k : LoomCtx) (b : BufTile) : (k.swapIn b).written = k.written := rfl

@[simp] theorem Loom.passView_countChain (x : Loom) (self : Bool) : (x.countChain self).passView = x.passView := by
  cases self <;> rfl

/-! ### Bubbles and markers (R73, R74) -/

/-- An issued instruction whose last row stands in the slot that n bubbles push back. -/
def Issued.pushed (slot n : Nat) (z : Issued) : Issued := if z.lastSlot = slot then { z with lastSlot := slot + n } else z

theorem Loom.bubble_issued (x : Loom) (n : Nat) : (x.bubble n).issued = x.issued.map (Issued.pushed x.slot n) := rfl

@[simp] theorem Issued.view_pushed (slot n : Nat) (z : Issued) : (z.pushed slot n).view = z.view := by
  unfold Issued.pushed
  split <;> rfl

@[simp] theorem Loom.passView_bubble (x : Loom) (n : Nat) : (x.bubble n).passView = x.passView := by
  have hi : (x.bubble n).issued.map Issued.view = x.issued.map Issued.view := by
    simp [Loom.bubble_issued, Function.comp_def]
  exact congrArg (PassView.mk x.queue x.k.acc x.k.written x.hearthLevel) hi

theorem Loom.passView_withMarker (x : Loom) (m : BitVec 128) : { x with marker := m }.passView = x.passView := rfl

@[simp] theorem State.passView_mark (s : State) (x : Loom) (b : BufTile) : (s.mark x b).passView = x.passView :=
  x.passView_withMarker _

/-- The end of a pass moves markers, bubbles and tiles alone. -/
@[simp] theorem State.passEnd_passView (s : State) (d h l m : Nat) (lone : Bool) :
    ((s.passEnd d h l m lone).loom d h l).passView = (s.loom d h l).passView := by
  unfold State.passEnd
  cases s.nextSwaps d h l with
  | some b =>
    simp only [State.loom_setLoom, State.passView_mark, Loom.passView_bubble]
    simp only [Loom.passView, LoomCtx.swapIn_acc, LoomCtx.swapIn_written]
  | none =>
    simp only [State.loom_setLoom, State.passView_mark]
    simp only [Loom.passView]

/-- An instruction that ends before a slot is none that the bubbles of that slot push, nor becomes one. -/
theorem Issued.pushed_eq_iff {slot n : Nat} {e z : Issued} (he : e.lastSlot < slot) : z.pushed slot n = e ↔ z = e := by
  unfold Issued.pushed
  split
  case isTrue hz =>
    refine ⟨fun hp => ?_, fun hze => ?_⟩
    · have : slot + n = e.lastSlot := congrArg Issued.lastSlot hp
      omega
    · subst hze
      omega
  case isFalse => rfl

/-! ### Issue (R65, R76, R99) -/

theorem State.passFlip_of_not_flips (s : State) (d h l run : Nat) {i : LoomInstr} (hf : i.flips = false) :
    s.passFlip d h l run i = s := by
  simp [State.passFlip, hf]

theorem Loom.forRun_of_countRun {x : Loom} {run : Nat} (hr : x.countRun = run) : x.forRun run = x := if_pos hr

/-- An instruction without a chain input takes no rows of its own Loom. -/
theorem Loom.withInput_of_accInit (x : Loom) (l run first : Nat) {i : LoomInstr} (hi : i.accInit ≠ 2) :
    x.withInput l run first i = x := by
  simp [Loom.withInput, Loom.ownInput, hi]

/-- What the rows of an instruction make of a Loom that stays in its half and its run. -/
def State.passRun (s : State) (x : Loom) (i : LoomInstr) (p : PassIn) : PassAcc :=
  let k := if i.accInit = 0 then x.k else x.k.clearForced (instrSpan x.k.setup x.k.half i)
  s.runPass k i k.half p (i.tuned && !k.isForced (instrSpan x.k.setup x.k.half i)) fun _ => true

/-- A pass that flips no half, stays in its run and reads no chain input: the head has left the queue, the accumulators are those
of its rows, and it stands last among the issued instructions. -/
theorem State.passIssue_passView (s : State) (d h l : Nat) {e : QEntry 256} (p : PassIn)
    (hf : (loomInstr e.word).flips = false) (hr : (s.loom d h l).countRun = e.run) (hi : (loomInstr e.word).accInit ≠ 2) :
    let x := s.loom d h l
    let r := s.passRun x (loomInstr e.word) p
    ((s.passIssue d h l e p).loom d h l).passView =
      ⟨x.queue.tail, r.acc, r.written, (loomInstr e.word).hearthLevel,
        x.issued.map Issued.view ++ [(e.run, e.word, r.overs)]⟩ := by
  unfold State.passIssue
  extract_lets x₀ r₀ i pg s₁ x sp k tuned r exceeded first lone k₁ k₂ k₃ k₄ flow index y x₁ x₂ s₂ s₃ s₄ s₅
  have hs₁ : s₁ = s := s.passFlip_of_not_flips d h l e.run hf
  have hx : x = x₀ := by
    simp only [x, hs₁, Loom.forRun_of_countRun hr]
    exact Loom.withInput_of_accInit _ _ _ _ hi
  have hr₀ : r = r₀ := by
    simp only [r, r₀, tuned, k, sp, i, hs₁, hx, State.passRun]
  have hk₂ : k₂.acc = r.acc ∧ k₂.written = r.written := by
    simp only [k₂]
    split <;> exact ⟨rfl, rfl⟩
  obtain ⟨hacc, hwritten⟩ : k₄.acc = r.acc ∧ k₄.written = r.written := by
    simp only [k₄]
    split <;> exact hk₂
  have hx₂ : x₂.passView = x₁.passView := by
    simp only [x₂]
    split
    · exact x₁.passView_countChain _
    · rfl
  have hs₄ : s₄.loom d h l = x₂ := by
    simp only [s₄, s₃, s₂]
    split <;> simp only [State.loom_event, State.loom_events, State.loom_setLoom]
  have hs₅ : s₅.loom d h l = x₂ := by
    simp only [s₅]
    split
    · exact (State.loom_bump ..).trans hs₄
    · exact hs₄
  rw [State.passEnd_passView, hs₅, hx₂, ← hx, ← hr₀]
  exact PassView.ext rfl hacc hwritten rfl List.map_append

/-! ### Replay (R78) -/

theorem State.SameBut.tensors {w : List Part} {a b : State} (hs : State.SameBut w a b) (hw : .loader ∉ w) :
    b.tensors = a.tensors := by
  funext run
  simp only [State.tensors, State.tensorsOf, State.run?, State.job?, State.bundle?, hs.loader hw]

/-- The rows of a pass depend on the tensors that its tiles belong to. -/
theorem State.SameBut.runPass {w : List Part} {a b : State} (hs : State.SameBut w a b) (hw : .loader ∉ w) :
    b.runPass = a.runPass := by
  funext k i half p tuned pick
  simp only [State.runPass, State.streamRows, State.bufTensor, hs.tensors hw]

/-- The Loom before the rows of a replay: idle up to the lone marker, or behind the end marker of the pass ahead (R78). -/
def State.beforeReplay (s : State) (d h l : Nat) (e : Issued) : State :=
  if !(s.loom d h l).swapped && !(s.loom d h l).markerAfter e then s.setLoom d h l ((s.loom d h l).idleTo e)
  else if (s.loom d h l).swapped then s else s.turnMarker d h l

theorem State.beforeReplay_same (s : State) (d h l : Nat) (e : Issued) :
    State.SameBut [.regs, .looms, .out] s (s.beforeReplay d h l e) := by
  unfold State.beforeReplay
  refine same_ite (State.setLoom_same (.refl _ s) (by decide)) (same_ite (.refl _ s) ?_)
  exact State.turnMarker_same (.refl _ s) (by decide)

/-- A turned marker enters behind its bubbles. -/
theorem State.loom_turnMarker (s : State) (d h l : Nat) : ∃ n,
    (s.turnMarker d h l).loom d h l = { s.loom d h l with slots := some 0, swapped := true }.bubble n := by
  simp only [State.turnMarker, State.loom_setLoom, State.loom_hearthFill, State.loom_bump]
  exact ⟨_, rfl⟩

/-- The issued instruction, once its overflowed rows have streamed again. -/
def Issued.replayed (e : Issued) (before : List (Nat × Option Word)) (z : Issued) : Issued :=
  if z = e then { e with overs := [], open_ := false, before := before ++ e.before } else z

/-- What the replay makes visible of an issued instruction. -/
def Issued.replayView (e z : Issued) : Nat × BitVec 256 × List Nat := if z = e then (e.run, e.word, []) else z.view

@[simp] theorem Issued.view_replayed (e z : Issued) (before : List (Nat × Option Word)) :
    (e.replayed before z).view = e.replayView z := apply_ite Issued.view _ _ _

/-- Before the rows of a replay the Loom's context is unchanged, and the instruction is still the same among those issued: the
bubbles of a turned marker push back only instructions that ended 256 slots later. -/
theorem State.beforeReplay_loom (s : State) (d h l : Nat) (e : Issued) :
    let x := s.loom d h l
    let y := (s.beforeReplay d h l e).loom d h l
    y.k = x.k ∧ y.queue = x.queue ∧ y.hearthLevel = x.hearthLevel
      ∧ y.issued.map e.replayView = x.issued.map e.replayView := by
  unfold State.beforeReplay
  split
  case isTrue =>
    rw [State.loom_setLoom]
    exact ⟨rfl, rfl, rfl, rfl⟩
  case isFalse hlone =>
    split
    case isTrue => exact ⟨rfl, rfl, rfl, rfl⟩
    case isFalse hswap =>
      obtain ⟨n, hx⟩ := s.loom_turnMarker d h l
      have he : e.lastSlot < (s.loom d h l).slot := by
        simp [hswap, Loom.markerAfter] at hlone
        omega
      rw [hx]
      refine ⟨rfl, rfl, rfl, ?_⟩
      simp [Loom.bubble_issued, Issued.replayView, Function.comp_def, Issued.pushed_eq_iff he]

/-- A replay streams the overflowed rows and nothing else, and the instruction has none left. -/
theorem State.replay_passView (s : State) (d h l : Nat) (e : Issued) {c : OpClass}
    (hc : (Fmt.ofCode (loomInstr e.word).statFmt).bind opClass = some c) :
    let x := s.loom d h l
    let r := s.runPass x.k (loomInstr e.word) e.half ⟨c, e.stat, replayTiles e.stream⟩ (loomInstr e.word).tuned fun row =>
      e.overs.contains row
    ((s.replay d h l e).loom d h l).passView =
      ⟨x.queue, r.acc, r.written, x.hearthLevel, x.issued.map e.replayView⟩ := by
  intro x₀ r₀
  unfold State.replay
  extract_lets i pg n lone s₁ x k
  obtain ⟨hk, hqueue, hlevel, hissued⟩ : x.k = x₀.k ∧ x.queue = x₀.queue ∧ x.hearthLevel = x₀.hearthLevel
    ∧ x.issued.map e.replayView = x₀.issued.map e.replayView := s.beforeReplay_loom d h l e
  have hrun : s₁.runPass = s.runPass := (s.beforeReplay_same d h l e).runPass (by decide)
  split
  case h_1 hnone => exact absurd (hnone.symm.trans hc) (by simp)
  case h_2 c' hc' =>
    obtain rfl : c' = c := Option.some.inj (hc'.symm.trans hc)
    extract_lets r s₂ s₃ s₄
    have hr : r = r₀ := by
      simp only [r, r₀, i, hk, hrun]
    have hrows : (x.issued.map (e.replayed r.before)).map Issued.view = x₀.issued.map e.replayView := by
      simp [← hissued, Function.comp_def]
    have hs₄ : s₄.loom d h l = s₂.loom d h l := by
      simp only [s₄, s₃, State.loom_events]
    rw [State.passEnd_passView, hs₄, State.loom_setLoom]
    exact PassView.ext hqueue (congrArg PassAcc.acc hr) (congrArg PassAcc.written hr) hlevel hrows

/-- Settles O49: a PASS that is ready and hot issues, and a replay streams the overflowed rows of one issued instruction. -/
theorem passesIssueAndReplay : Obligations.PassesIssueAndReplay := by
  intro d h l s
  refine ⟨fun e rest p hq hmay hok hskip hgo hhot => ⟨?exec, fun hf hr hi => ?leaves⟩,
    fun e c he hmay hc => ⟨?replays, ?rows⟩⟩
  case exec =>
    show execPass d h l s = _
    unfold execPass
    simp [hq, hmay, hok, hskip, hgo, hhot]
  case leaves =>
    have hv := s.passIssue_passView d h l p hf hr hi
    refine ⟨?_, congrArg PassView.acc hv, congrArg PassView.written hv, congrArg PassView.level hv,
      congrArg PassView.issued hv⟩
    exact (congrArg PassView.queue hv).trans (congrArg List.tail hq)
  case replays =>
    show execReplayPass d h l s = _
    unfold execReplayPass
    simp only [he, hmay, if_true]
  case rows =>
    have hv := s.replay_passView d h l e hc
    exact ⟨congrArg PassView.acc hv, congrArg PassView.issued hv⟩

end Sys2Proof.Machine

/-! SUPPORT. The settlements of the family of 04_looms.md: HEARTH_CTRL.window follows ACLK, instructions retire and drain, and the
grant of a ramp is no frame of the registers. -/

namespace Sys2Proof.Machine

/-! ### Registers of the Square range keep those of the dies (R432) -/

/-- Where the Croft ranges of BAR0 begin; the Square range and the HOST window lie below. -/
def croftBase : Nat := 0x1000000

theorem State.reg_setFld_below {s : State} {p : Page} {f : FieldRow} {v i a : Nat} (hp : fieldAddr p f i < croftBase)
    (ha : croftBase ≤ a) : (s.setFld p f v i).reg a = s.reg a :=
  State.reg_setReg_other s _ (by omega)

theorem hostPage_below {f : Nat} (hf : f < 32) {row : FieldRow} (hrow : row.off < 0x1000) :
    fieldAddr (hostPage f) row 0 < croftBase := by
  simp only [fieldAddr, Page.reg, Page.base, hostPage, croftBase]
  omega

theorem State.reg_dropOne (s : State) {f a : Nat} (hf : f < 32) (ha : croftBase ≤ a) : (s.dropOne f).reg a = s.reg a :=
  (State.reg_setFld_below (hostPage_below hf (by decide)) ha).trans
    (State.reg_setFld_below (hostPage_below hf (by decide)) ha)

/-- The function that a group interrupts: its own for a VF's HOST page, else the PF (R396, R444). -/
theorem State.attnVector_function {s : State} {g f v : Nat} (h : s.attnVector g = some (f, v)) : f = g - 32 := by
  unfold State.attnVector at h
  split at h
  case isTrue => cases h; rfl
  case isFalse hg =>
    split at h
    · cases h; omega
    · cases h

theorem hostPage_attnGroup (f : Nat) : (hostPage f).attnGroup - 32 = f := by
  unfold Page.attnGroup hostPage
  dsimp only
  split <;> omega

theorem State.reg_dropMsg (s : State) {f a : Nat} (hf : f < 32) (ha : croftBase ≤ a) : (s.dropMsg f).reg a = s.reg a := by
  unfold State.dropMsg
  extract_lets g s₁
  have h₁ : s₁.reg a = s.reg a := s.reg_dropOne hf ha
  split
  · split
    case h_1 f₁ v hv =>
      have hf₁ : f₁ = f := (State.attnVector_function hv).trans (hostPage_attnGroup f)
      split
      · exact h₁
      · exact (s₁.reg_dropOne (hf₁ ▸ hf) ha).trans h₁
    case h_2 => exact h₁
  · exact h₁

theorem State.reg_msix (s : State) {f : Nat} (v : Nat) {a : Nat} (hf : f < 32) (ha : croftBase ≤ a) :
    (s.msix f v).reg a = s.reg a := by
  unfold State.msix
  split
  · rfl
  · split
    · rfl
    · exact s.reg_dropMsg hf ha

/-- The event of a page of the Square die, interrupt and all, leaves the registers of the dies. -/
theorem State.reg_event {s : State} {p : Page} {bit : FieldRow} {a : Nat} (hg : p.attnGroup - 32 < 32)
    (hp : fieldAddr p bit 0 < croftBase) (ha : croftBase ≤ a) : (s.event p bit).reg a = s.reg a := by
  have hset : (s.setFld p bit 1).reg a = s.reg a := State.reg_setFld_below hp ha
  unfold State.event attnRise
  dsimp only
  split
  · split
    case h_1 f v hv => exact (State.reg_msix _ v (State.attnVector_function hv ▸ hg) ha).trans hset
    case h_2 => exact hset
  · exact hset

theorem State.reg_alert (s : State) {bit : FieldRow} {a : Nat} (hp : fieldAddr (sqPage .watchman) bit 0 < croftBase)
    (ha : croftBase ≤ a) : (s.alert bit).reg a = s.reg a := by
  unfold State.alert
  split
  · rfl
  · rw [State.reg, State.withOut_regs]
    exact State.reg_setFld_below hp ha

theorem State.reg_showClock (s : State) {a : Nat} (ha : croftBase ≤ a) : s.showClock.reg a = s.reg a := by
  have halm (v : Nat) : (s.setFld (sqPage .almanac) almStatus_aclkMhz v).reg a = s.reg a :=
    State.reg_setFld_below (by decide) ha
  unfold State.showClock
  extract_lets mhz duty s₁
  split
  · exact (State.reg_setFld_below (by decide) ha).trans (halm _)
  · exact halm _

/-! ### HEARTH_CTRL.window of every Loom page (R81) -/

theorem croftBase_le_hearthCtrl (d h l : Nat) : croftBase ≤ fieldAddr (loomPage d h l) hearthCtrl_window 0 := by
  simp only [croftBase, fieldAddr, Page.reg, Page.base, loomPage]
  omega

/-- No two Looms of the package share HEARTH_CTRL. -/
theorem hearthCtrl_addr_eq_iff {d h l k : Nat} (hh : h < 4) (hl : l < 8) :
    fieldAddr (loomPage d h l) hearthCtrl_window 0 = fieldAddr (loomPage (k / 32) (k / 8 % 4) (k % 8)) hearthCtrl_window 0
      ↔ k = loomKey d h l := by
  simp only [fieldAddr, Page.reg, Page.base, loomPage, loomKey]
  omega

theorem fld_setWindows {mhz : Nat} (hm : mhz ≤ 1800) {d h l : Nat} (hh : h < 4) (hl : l < 8) (ks : List Nat) (s : State) :
    (setWindows mhz ks s).fld (loomPage d h l) hearthCtrl_window
      = if loomKey d h l ∈ ks then 2 * mhz else s.fld (loomPage d h l) hearthCtrl_window := by
  fun_induction setWindows mhz ks s with
  | case1 => rfl
  | case2 k ks s ih =>
    rw [ih]
    by_cases hk : k = loomKey d h l
    · have haddr := (hearthCtrl_addr_eq_iff hh hl).mpr hk
      have hset : (s.setFld (loomPage (k / 32) (k / 8 % 4) (k % 8)) hearthCtrl_window (2 * mhz)).fld (loomPage d h l) hearthCtrl_window
          = 2 * mhz := by
        have hlt : 2 * mhz < 2 ^ (hearthCtrl_window.hi + 1 - hearthCtrl_window.lo) := by
          simp only [hearthCtrl_window]
          omega
        rw [State.fld, haddr]
        exact (State.fld_setFld s _ hearthCtrl_window _ 0 (by decide) (by decide)).trans (Nat.mod_eq_of_lt hlt)
      rw [hset, ite_self, if_pos (hk ▸ List.mem_cons_self)]
    · have hfar := State.fld_setFld_far s (loomPage d h l) _ hearthCtrl_window hearthCtrl_window (2 * mhz) 0 0
        (mt (hearthCtrl_addr_eq_iff hh hl).mp hk)
      simp [hfar, Ne.symm hk]

/-- A clock that is set is in the window of every Loom. -/
theorem State.fld_setClock_window (s : State) {mhz : Nat} (duty : Nat) (hm : mhz ≤ 1800) {d h l : Nat} (hd : d < 8) (hh : h < 4)
    (hl : l < 8) : (s.setClock mhz duty).fld (loomPage d h l) hearthCtrl_window = 2 * mhz := by
  rw [State.setClock, fld_setWindows hm hh hl, if_pos (mem_numsFrom.mpr (by simp only [loomKey]; omega))]

/-- Equal registers of the dies, equal windows. -/
theorem State.fld_window_of_reg {s t : State} (h : ∀ a, croftBase ≤ a → t.reg a = s.reg a) (d m l : Nat) :
    t.fld (loomPage d m l) hearthCtrl_window = s.fld (loomPage d m l) hearthCtrl_window :=
  congrArg (getField · 11 0) (h _ (croftBase_le_hearthCtrl d m l))

theorem pageAt_hearthCtrl {d h l : Nat} (hd : d < 8) (hh : h < 4) (hl : l < 8) :
    pageAt (fieldAddr (loomPage d h l) hearthCtrl_window 0) = some (loomPage d h l, 0x04C) := by
  have ha : fieldAddr (loomPage d h l) hearthCtrl_window 0
      = 0x1000000 + d * 0x400000 + 0x100000 + h * 0x8000 + l * 0x1000 + 0x04C := by
    simp only [fieldAddr, Page.reg, Page.base, loomPage, hearthCtrl_window]
  generalize fieldAddr (loomPage d h l) hearthCtrl_window 0 = a at ha
  have hdie : (a - 0x1000000) / 0x400000 = d := by omega
  have hpage : (a - 0x1000000) % 0x400000 / 0x1000 = 0x100 + (h * 8 + l) := by omega
  have hoff : a % 0x1000 = 0x04C := by omega
  have hloom : croftPageAt d (0x100 + (h * 8 + l)) = some (loomPage d h l) := by
    have hham : (h * 8 + l) / 8 = h := by omega
    have hlane : (h * 8 + l) % 8 = l := by omega
    rw [croftPageAt, if_neg (by omega), if_neg (by simp; omega), if_neg (by omega), if_neg (by omega), if_pos (by simp; omega),
      Nat.add_sub_cancel_left, hham, hlane]
  rw [pageAt, if_neg (by omega), if_neg (by omega), if_pos (by omega), hdie, hpage, hoff, hloom]
  rfl

theorem State.reg_reset (a : Nat) : State.reset.reg a = resetWord a := rfl

theorem reset_window {d h l : Nat} (hd : d < 8) (hh : h < 4) (hl : l < 8) :
    State.reset.fld (loomPage d h l) hearthCtrl_window = 3600 := by
  have hreg : State.reset.reg (fieldAddr (loomPage d h l) hearthCtrl_window 0) = PageType.loom.resetWord 0x04C := by
    rw [State.reg_reset, resetWord, pageAt_hearthCtrl hd hh hl]
    rfl
  rw [State.fld, hreg]
  decide

theorem clockOk_le {mhz duty : Nat} (h : clockOk mhz duty = true) : mhz ≤ 1800 := by
  simp only [clockOk, Bool.and_eq_true, decide_eq_true_eq] at h
  obtain ⟨⟨⟨⟨⟨-, hle⟩, -⟩, -⟩, -⟩, -⟩ := h
  exact hle

theorem execLimiterAclkRaise_raises {mhz duty : Nat} {s : State} (hup : s.up = true) (hok : clockOk mhz duty = true)
    (hreq : s.power.capReq = none) (hw : s.capReached 1 = false) (ht : s.capReached 2 = false)
    (hlt : s.aclkMhz < effectiveMhz mhz duty) :
    exec (.limiterAclkRaise mhz duty) s = .next (s.setClock mhz duty).showClock := by
  show execLimiterAclkRaise mhz duty s = _
  simp [execLimiterAclkRaise, State.raiseAclk, hup, hok, hreq, hw, ht, hlt]

/-- What CAP_APPLY does once the clock is set: it counts, raises its event, and for a thermal limit alerts the Watchman. -/
def State.capApplied (s : State) (limit : Nat) : State :=
  let s := (s.bump powerPage capCount_count).event powerPage power_evtRaw_capped
  if limit = 2 then s.alert wmAlert_thermal else s

theorem State.reg_capApplied (s : State) (limit : Nat) {a : Nat} (ha : croftBase ≤ a) : (s.capApplied limit).reg a = s.reg a := by
  have hev : ((s.bump powerPage capCount_count).event powerPage power_evtRaw_capped).reg a = s.reg a :=
    (State.reg_event (by decide) (by decide) ha).trans (State.reg_setFld_below (by decide) ha)
  unfold State.capApplied
  dsimp only
  split
  · exact (State.reg_alert _ (by decide) ha).trans hev
  · exact hev

theorem execCapApply_applies {limit mhz duty : Nat} {s : State} (h : s.power.capReq = some (limit, mhz, duty)) :
    exec .capApply s = .next (((s.withPower { s.power with capReq := none }).setClock mhz duty).capApplied limit) := by
  show execCapApply s = _
  simp only [execCapApply, h]
  rfl

/-- Settles O23: the clock is set on every Loom page, and what else a raise or CAP_APPLY writes lies in the Square range. -/
theorem hearthWindowFollowsAclk : Obligations.HearthWindowFollowsAclk := by
  intro d h l hd hh hl
  refine ⟨reset_window hd hh hl, fun mhz duty s => ⟨fun hup hok hreq hw ht hlt => ?raise, fun limit hm hreq => ?apply⟩⟩
  case raise =>
    refine ⟨_, execLimiterAclkRaise_raises hup hok hreq hw ht hlt, ?_⟩
    exact (State.fld_window_of_reg (fun _ ha => State.reg_showClock _ ha) d h l).trans
      (s.fld_setClock_window duty (clockOk_le hok) hd hh hl)
  case apply =>
    refine ⟨_, execCapApply_applies hreq, ?_⟩
    exact (State.fld_window_of_reg (fun _ ha => State.reg_capApplied _ limit ha) d h l).trans
      (State.fld_setClock_window _ duty hm hd hh hl)

/-! ### Retirement (R76, R109) -/

@[simp] theorem Loom.issued_forRun (x : Loom) (r : Nat) : (x.forRun r).issued = x.issued := by
  unfold Loom.forRun
  split <;> rfl

@[simp] theorem Loom.issued_countChain (x : Loom) (self : Bool) : (x.countChain self).issued = x.issued := by
  cases self <;> rfl

/-- A half that is handed to its drain leaves the issued instructions. -/
@[simp] theorem Loom.issued_handHalf (x : Loom) (l run : Nat) : (x.handHalf l run).issued = x.issued := by
  unfold Loom.handHalf
  extract_lets y
  have hy : y.issued = x.issued := x.issued_forRun run
  split
  case h_1 => exact hy
  case h_2 toSieve chain ints _ =>
    cases toSieve
    · exact (y.issued_countChain _).trans hy
    · exact hy

@[simp] theorem State.loom_bump64 (s : State) (p : Page) (lo hi : FieldRow) (n d h l : Nat) :
    (s.bump64 p lo hi n).loom d h l = s.loom d h l :=
  (State.bump64_same (.refl _ s) (List.Subset.refl _)).loom (by decide) d h l

/-- The low word of a counter of two words counts modulo 2^32. -/
theorem State.fld_bump64_lo (s : State) (p : Page) (lo hi : FieldRow) (n : Nat) (hl : lo.lo = 0) (hh : lo.hi = 31)
    (hne : fieldAddr p lo 0 ≠ fieldAddr p hi 0) : (s.bump64 p lo hi n).fld p lo = (s.fld p lo + n) % 2 ^ 32 := by
  unfold State.bump64
  extract_lets v
  rw [State.fld_setFld_far _ _ _ _ _ _ _ _ hne, State.fld_setFld _ _ _ _ _ (by omega) (by omega), hl, hh]
  simp only [v]
  omega

/-- The Loom that an instruction leaves as it retires: the rows of a TUNED one, or of the half that it ends, go to a drain. -/
def Loom.retired (x : Loom) (l : Nat) (e : Issued) : Loom :=
  let i := loomInstr e.word
  let x := { x with issued := x.issued.erase e }
  if !i.pair && i.drainTarget ≠ 0 && e.tuned then { x with drains := x.drains ++ [e.drain x.k] }
  else if i.pair && e.last then { x.handHalf l e.run with k := { (x.handHalf l e.run).k with halfRows := 0 } }
  else x

theorem Loom.issued_retired (x : Loom) (l : Nat) (e : Issued) : (x.retired l e).issued = x.issued.erase e := by
  unfold Loom.retired
  extract_lets i y
  split
  · rfl
  · split
    · exact y.issued_handHalf l e.run
    · rfl

theorem State.retire_of_no_signal (s : State) (d h l : Nat) {e : Issued} (he : (loomInstr e.word).sigEn = false) :
    s.retire d h l e =
      (s.setLoom d h l ((s.loom d h l).retired l e)).bump64 (loomPage d h l) passCountLo_count passCountHi_count := by
  unfold State.retire
  extract_lets i x x₁ x₂ s₁
  exact if_neg (by simp [i, he])

/-- An instruction without a signal that retires leaves the issued ones, and is counted; nothing else changes. -/
theorem State.retire_effect (s : State) (d h l : Nat) {e : Issued} (he : (loomInstr e.word).sigEn = false) :
    ((s.retire d h l e).loom d h l).issued = (s.loom d h l).issued.erase e ∧ State.SameBut [.looms, .regs] s (s.retire d h l e)
      ∧ (s.retire d h l e).fld (loomPage d h l) passCountLo_count = (s.fld (loomPage d h l) passCountLo_count + 1) % 2 ^ 32 := by
  rw [s.retire_of_no_signal d h l he]
  refine ⟨?issued, State.bump64_same (State.setLoom_same (.refl _ s) (by decide)) (by decide), ?counted⟩
  case issued => rw [State.loom_bump64, State.loom_setLoom, Loom.issued_retired]
  case counted =>
    refine State.fld_bump64_lo _ _ _ _ 1 rfl rfl ?_
    simp only [fieldAddr, Page.reg, passCountLo_count, passCountHi_count]
    omega

/-! ### FENCE (R482) -/

/-- A FENCE at the head that may issue and whose wait is satisfied issues on a Loom with nothing issued and nothing to drain. -/
theorem execFenceIssue_head {d h l : Nat} {s : State} {e : QEntry 256} {rest : List (QEntry 256)}
    (hq : (s.loom d h l).queue = e :: rest) (hmay : s.loomMayIssue d h l (s.loom d h l) e.run = true)
    (hok : loomInstrFault e.word (s.loom d h l).k.setup.slotRows = none) (hop : (loomInstr e.word).opcode = 2)
    (hwait : s.loomWaitOk d (loomInstr e.word) = true) :
    exec (.fenceIssue d h l) s =
      if (s.loom d h l).issued = [] ∧ (s.loom d h l).drains = [] then
        let t := s.setLoom d h l (s.takeFence h l e.run (loomInstr e.word) (s.loom d h l))
        .next (if (loomInstr e.word).sigEn then
          t.unitSignal d (loomInstr e.word).sigBell (loomInstr e.word).sigOp (BitVec.ofNat 32 (loomInstr e.word).sigValue) else t)
      else .next s := by
  show execFenceIssue d h l s = _
  unfold execFenceIssue
  simp [hq, hmay, hok, hop, hwait]

/-! ### A row of a drain (R110, R484) -/

/-- A write of one cell shows at its column alone, within the row. -/
theorem TData.cell_setCell_row (x : TData) (t : TensorDecl) (r c c' : Nat) (v : Option (Option Nat)) :
    (x.setCell t r c v).cell t r c' = if c' = c then v else x.cell t r c' := by
  have hkey : r * t.cols + c' = r * t.cols + c ↔ c' = c := by omega
  simp only [TData.cell, TData.setCell, SMap.get, SMap.set, SMap.getF_setF, hkey]

/-- What a drained word leaves in its cell (R58, R110). -/
def drainedCell (ints : Bool) (w : Word × Bool) : Option (Option Nat) :=
  some (if w.2 then none else some (w.1.toNat + if ints then 2 ^ 32 else 0))

/-- One word of a drained row goes to its cell, where that lies inside the tensor. -/
def drainCell (t : TensorDecl) (ints : Bool) (row col : Nat) (x : TData) (wc : (Word × Bool) × Nat) : TData :=
  if row < t.rows && decide (col + wc.2 < t.cols) then x.setCell t row (col + wc.2) (drainedCell ints wc.1) else x

theorem drainCells_eq_foldl (t : TensorDecl) (ints : Bool) (row col : Nat) (ws : List (Word × Bool)) (x : TData) :
    drainCells t ints row col ws x = ws.zipIdx.foldl (drainCell t ints row col) x := rfl

theorem cell_drainCell {t : TensorDecl} {row : Nat} (hr : row < t.rows) (ints : Bool) (col : Nat) (x : TData) (w : Word × Bool)
    (n : Nat) {c : Nat} (hc : c < t.cols) :
    (drainCell t ints row col x (w, n)).cell t row c = if c = col + n then drainedCell ints w else x.cell t row c := by
  unfold drainCell
  split
  case isTrue => exact x.cell_setCell_row t row _ _ _
  case isFalse h =>
    rw [if_neg]
    rintro rfl
    exact h (by simp [hr, hc])

/-- Words numbered from n fill their own cells: those before column n stay, and column n + i holds word i. -/
theorem cell_foldl_drainCell {t : TensorDecl} {row : Nat} (hr : row < t.rows) (ints : Bool) (col : Nat) (ws : List (Word × Bool))
    (n : Nat) (x : TData) :
    (∀ c, c < n → col + c < t.cols →
      ((ws.zipIdx n).foldl (drainCell t ints row col) x).cell t row (col + c) = x.cell t row (col + c))
    ∧ ∀ i w, ws[i]? = some w → col + (n + i) < t.cols →
      ((ws.zipIdx n).foldl (drainCell t ints row col) x).cell t row (col + (n + i)) = drainedCell ints w := by
  induction ws generalizing n x with
  | nil => exact ⟨fun _ _ _ => rfl, fun i w hw => by simp at hw⟩
  | cons u ws ih =>
    obtain ⟨hbefore, hown⟩ := ih (n + 1) (drainCell t ints row col x (u, n))
    rw [List.zipIdx_cons, List.foldl_cons]
    refine ⟨fun c hc hin => ?before, fun i w hw hin => ?own⟩
    case before =>
      rw [hbefore c (by omega) hin, cell_drainCell hr ints col x u n hin, if_neg (by omega)]
    case own =>
      cases i with
      | zero =>
        obtain rfl : u = w := Option.some.inj hw
        rw [hbefore (n + 0) (by omega) hin, cell_drainCell hr ints col x u n hin]
        exact if_pos rfl
      | succ i =>
        have hcol : n + (i + 1) = n + 1 + i := by omega
        rw [hcol] at hin ⊢
        exact hown i w hw hin

theorem cell_drainCells {t : TensorDecl} {row : Nat} (hr : row < t.rows) (ints : Bool) (col : Nat) {ws : List (Word × Bool)}
    (x : TData) {c : Nat} {w : Word × Bool} (hw : ws[c]? = some w) (hc : col + c < t.cols) :
    (drainCells t ints row col ws x).cell t row (col + c) = drainedCell ints w := by
  have h := (cell_foldl_drainCell hr ints col ws 0 x).2 c w hw (by omega)
  rwa [Nat.zero_add] at h

@[simp] theorem State.tdata_setTdata (s : State) (place job tensor : Nat) (x : TData) :
    (s.setTdata place job tensor x).tdata place job tensor = x :=
  SMap.getF_setF_same _ _ _ _

/-- A word of a row that reaches the Sieve stands in its cell of the drain's tensor. -/
theorem State.cell_drainToSieve (s : State) {d h job : Nat} {j : DrainJob} {p : LoomProg} {dd : DrainDecl} {tn : TensorDecl}
    (hdd : p.drains[j.index]? = some dd) (hjob : s.runJob j.run = some job) (hheads : dd.heads = [])
    (ht : findTensor (s.tensors j.run) dd.tensor = some tn) (hrow : dd.row + j.next < tn.rows) {ws : List Word} {c : Nat} {w : Word}
    (hw : ws[c]? = some w) (hc : c < 128) (hcol : dd.col * 128 + c < tn.cols) :
    ((s.drainToSieve d h j p ws).tdata (placeOf tn d h) job tn.id).cell tn (dd.row + j.next) (dd.col * 128 + c)
      = drainedCell j.ints (w, j.masked.contains c) := by
  have hdest : drainDests dd = [(dd.tensor, 0)] := by simp [drainDests, hheads]
  have hkappa : drainKappa dd = 128 := by simp [drainKappa, hheads]
  simp only [State.drainToSieve, hdd, hjob, hdest, drainParts, ht, hkappa, List.drop_zero, State.tdata_setTdata]
  exact cell_drainCells hrow j.ints _ _ (by simp [hc, hw]) hcol

/-- The state with the next row of a Sieve drain at its place, before the drain counts it. -/
def State.drainedRow (s : State) (d h l : Nat) (j : DrainJob) : State :=
  match s.loomProg j.run h l with
  | some p => s.drainToSieve d h j p (drainWords (s.loom d h l).k j j.next)
  | none => s

theorem State.drainedRow_same (s : State) (d h l : Nat) (j : DrainJob) : State.SameBut [.sram] s (s.drainedRow d h l j) := by
  unfold State.drainedRow
  split
  · exact State.drainToSieve_same (.refl _ s) (List.Subset.refl _)
  · exact .refl _ s

theorem State.drainRow_toSieve {s : State} {d h l : Nat} {j : DrainJob}
    (hj : ((s.loom d h l).drains.find? fun j => !j.stays l) = some j)
    (hset : (s.loom d h l).unsettled ((drainSpan (s.loom d h l).k.setup j).1, 1) = false) (hsieve : j.toSieve = true) :
    s.drainRow d h l = (s.drainedRow d h l j).setLoom d h l ((s.loom d h l).drainNext j none) := by
  unfold State.drainRow
  simp only [hj, hset, hsieve, Bool.false_eq_true, if_false, if_true]
  rfl

theorem execDrain_served {d h l : Nat} {s : State} (hs : s.served (loomPage d h l) = true) :
    exec (.drain d h l) s = .next (s.drainRow d h l) :=
  congrArg Host.Outcome.next (if_pos hs)

/-- Settles O50: a retirement, a FENCE at the head, and a row of a drain to the Sieve. -/
theorem instructionsRetireAndDrain : Obligations.InstructionsRetireAndDrain := by
  intro d h l s hs x
  refine ⟨fun e he => ⟨?retires, fun hsig => s.retire_effect d h l hsig⟩,
    fun e rest hq hmay hok hop hwait => ⟨fun hi hd hsig => ?issues, fun hbusy => ?waits⟩,
    fun j hj hset => ⟨execDrain_served hs, fun hsieve =>
      ⟨(s.drainedRow d h l j).setLoom d h l (x.drainNext j none), ?exec, State.loom_setLoom .., ?frame, ?cells⟩⟩⟩
  case retires =>
    show execInstructionRetire d h l s = _
    unfold execInstructionRetire
    simp only [x] at he
    simp only [he, hs, if_true]
  case issues =>
    rw [execFenceIssue_head hq hmay hok hop hwait, if_pos ⟨hi, hd⟩, hsig]
    rfl
  case waits =>
    rw [execFenceIssue_head hq hmay hok hop hwait, if_neg fun ⟨hi, hd⟩ => hbusy.elim (· hi) (· hd)]
  case exec =>
    rw [execDrain_served hs, State.drainRow_toSieve hj hset hsieve]
  case frame => exact State.setLoom_same ((s.drainedRow_same d h l j).mono (by decide)) (by decide)
  case cells =>
    intro p dd job tn hp hdd hjob hheads ht hrow c w hw hc hcol
    show ((s.drainedRow d h l j).tdata _ _ _).cell _ _ _ = _
    rw [State.drainedRow, hp]
    exact s.cell_drainToSieve hdd hjob hheads ht hrow hw hc hcol

/-! ### The grant of a ramp while a die resets (R84, R447) -/

/-- In service after training: a CROFT reset of die 1 ends at 100 ns, die 0 may grant again at 300 ns, and its Loom 0 waits to ramp
up. -/
def grantAfterReset : State :=
  (((State.reset.withBoard { State.reset.board with training := false, perst := false }).withPower
    { State.reset.power with resetEnd := [(1, 100)], grantAt := [(0, 300)] })).setLoom 0 0 0 { rampWait := some true }

theorem grantAfterReset_rampsAct : grantAfterReset.rampsAct 0 0 0 = true := by decide

/-- The grant takes the clock past the end of the reset, so that POWER raises state_change, which it did not before. -/
theorem grantAfterReset_raises_stateChange : grantAfterReset.fld powerPage power_evtRaw_stateChange = 0
    ∧ ∃ t, exec (.rampGrant 0 0 0) grantAfterReset = .next t ∧ t.fld powerPage power_evtRaw_stateChange = 1 :=
  ⟨by decide, _, rfl, by decide⟩

/-- Refutes O51: a grant that lets time pass to the end of another die's CROFT reset raises POWER's state_change, so it changes
registers beside the clock, the grants and its Loom. -/
theorem not_rampsMoveInSteps : ¬ Obligations.RampsMoveInSteps := by
  intro hall
  obtain ⟨-, -, -, -, hgrant⟩ := hall 0 0 0 grantAfterReset grantAfterReset_rampsAct
  obtain ⟨t, hexec, -, -, -, hframe⟩ := hgrant true (by decide)
  obtain ⟨hbefore, u, hu, hraised⟩ := grantAfterReset_raises_stateChange
  obtain rfl : t = u := Host.Outcome.next.inj (hexec.symm.trans hu)
  have hregs : t.regs = grantAfterReset.regs := hframe.regs (by decide)
  have hkept : t.fld powerPage power_evtRaw_stateChange = grantAfterReset.fld powerPage power_evtRaw_stateChange := by
    simp only [State.fld, State.reg, hregs]
  rw [hkept, hbefore] at hraised
  exact absurd hraised (by decide)

end Sys2Proof.Machine

/-! SUPPORT. The settlement of the family of 07_convolution.md: the operations of a Gate engine. -/

namespace Sys2Proof.Machine

/-! ### A fold of writes -/

/-- What every step of a fold leaves, the fold leaves. -/
theorem foldl_keeps {α β γ : Type} {f : β → α → β} (obs : β → γ) {l : List α}
    (hkeep : ∀ a ∈ l, ∀ b, obs (f b a) = obs b) (b : β) : obs (l.foldl f b) = obs b :=
  List.foldlRecOn l f (motive := fun x => obs x = obs b) rfl fun x hx a ha => (hkeep a ha x).trans hx

/-- Where one element's step writes v and every other's leaves it, the fold has written v. -/
theorem foldl_writes {α β γ : Type} {f : β → α → β} (obs : β → γ) {v : γ} {l : List α} {a₀ : α} (hmem : a₀ ∈ l)
    (hset : ∀ b, obs (f b a₀) = v) (hkeep : ∀ a ∈ l, a ≠ a₀ → ∀ b, obs (f b a) = obs b) (b : β) : obs (l.foldl f b) = v := by
  induction l generalizing b with
  | nil => cases hmem
  | cons a l ih =>
    rw [List.foldl_cons]
    by_cases hl : a₀ ∈ l
    · exact ih hl (fun a' ha' => hkeep a' (List.mem_cons_of_mem a ha')) (f b a)
    · obtain rfl : a₀ = a := (List.mem_cons.mp hmem).resolve_right hl
      have hrest : ∀ a' ∈ l, ∀ b, obs (f b a') = obs b := fun a' ha' =>
        hkeep a' (List.mem_cons_of_mem a₀ ha') fun h => hl (h ▸ ha')
      rw [foldl_keeps obs hrest, hset]

/-- The same over the numbered elements of a list: the others are those at other places. -/
theorem foldl_zipIdx_writes {α β γ : Type} {f : β → α × Nat → β} (obs : β → γ) {v : γ} {l : List α} {i : Nat} {x : α}
    (hx : l[i]? = some x) (hset : ∀ b, obs (f b (x, i)) = v)
    (hkeep : ∀ y j, l[j]? = some y → j ≠ i → ∀ b, obs (f b (y, j)) = obs b) (b : β) : obs (l.zipIdx.foldl f b) = v := by
  refine foldl_writes obs (List.mk_mem_zipIdx_iff_getElem?.mpr hx) hset ?_ b
  rintro ⟨y, j⟩ hy hne
  have hyj : l[j]? = some y := List.mk_mem_zipIdx_iff_getElem?.mp hy
  refine hkeep y j hyj ?_
  rintro rfl
  exact hne (by rw [Option.some.inj (hx.symm.trans hyj)])

theorem numsFrom_eq_range' (a n : Nat) : numsFrom a n = List.range' a n := by
  induction n generalizing a with
  | zero => rfl
  | succ n ih => rw [numsFrom, ih, List.range'_succ]

/-! ### Cells of a tensor (R484) -/

/-- Two numbers to the base n agree in both digits. -/
theorem mul_add_eq_iff {n a b a' b' : Nat} (hb : b < n) (hb' : b' < n) : a * n + b = a' * n + b' ↔ a = a' ∧ b = b' := by
  refine ⟨fun h => ?_, by rintro ⟨rfl, rfl⟩; rfl⟩
  have hmod : b = b' := by simpa [Nat.mod_eq_of_lt, hb, hb'] using congrArg (· % n) h
  subst hmod
  exact ⟨Nat.eq_of_mul_eq_mul_right (Nat.zero_lt_of_lt hb) (Nat.add_right_cancel h), rfl⟩

/-- A write of one cell shows at its own place alone, within the columns. -/
theorem TData.cell_setCell (x : TData) (t : TensorDecl) {r c r' c' : Nat} (v : Option (Option Nat)) (hc : c < t.cols)
    (hc' : c' < t.cols) : (x.setCell t r c v).cell t r' c' = if r' = r ∧ c' = c then v else x.cell t r' c' := by
  simp only [TData.cell, TData.setCell, SMap.get, SMap.set, SMap.getF_setF, mul_add_eq_iff hc' hc]

@[simp] theorem cell_putCell_some (t : TensorDecl) (r c n : Nat) (x : TData) :
    (putCell t r c (some n) x).cell t r c = some (some n) := by
  rw [putCell, TData.cell_setCell_row, if_pos rfl]

theorem cell_putCell_other (t : TensorDecl) {r c r' c' : Nat} (v : Option Nat) (x : TData) (hc : c < t.cols) (hc' : c' < t.cols)
    (hne : ¬ (r' = r ∧ c' = c)) : (putCell t r c v x).cell t r' c' = x.cell t r' c' := by
  cases v with
  | some n => rw [putCell, TData.cell_setCell _ _ _ hc hc', if_neg hne]
  | none =>
    unfold putCell
    dsimp only
    split
    · rw [TData.cell_setCell _ _ _ hc hc', if_neg hne]
    · rfl

/-! ### Rows of results (R120) -/

/-- A row that is not block-scaled is written code by code, and no scale. -/
theorem OpOut.put_data {t : TensorDecl} (hmx : t.fmt.isMx = false) (u : OpOut) (ieee : Bool) (r : Nat) (vs : List (Option FVal)) :
    (u.put t ieee r vs).data
      = (vs.map fun x => x.map fun v => (outElem t.fmt ieee v).1).zipIdx.foldl (fun x cv => putCell t r cv.2 cv.1 x) u.data := by
  simp [OpOut.put, OpOut.putRow, outRow, hmx, Function.comp_def]

theorem OpOut.cell_put {t : TensorDecl} (hmx : t.fmt.isMx = false) (u : OpOut) (ieee : Bool) (r : Nat) {vs : List (Option FVal)}
    (hlen : vs.length ≤ t.cols) {c : Nat} {v : FVal} (hv : vs[c]? = some (some v)) :
    (u.put t ieee r vs).data.cell t r c = some (some (outElem t.fmt ieee v).1) := by
  rw [OpOut.put_data hmx]
  refine foldl_zipIdx_writes (x := some (outElem t.fmt ieee v).1) (fun x : TData => x.cell t r c) (by simp [hv])
    (fun x => cell_putCell_some t r c _ x) (fun y j hj hne x => ?_) _
  have hj' : j < vs.length := by simpa using (List.getElem?_eq_some_iff.mp hj).1
  have hc : c < vs.length := (List.getElem?_eq_some_iff.mp hv).1
  exact cell_putCell_other t y x (by omega) (by omega) fun h => hne h.2.symm

theorem OpOut.cell_put_other {t : TensorDecl} (hmx : t.fmt.isMx = false) (u : OpOut) (ieee : Bool) {r r' c : Nat} (hr : r ≠ r')
    {vs : List (Option FVal)} (hlen : vs.length ≤ t.cols) (hc : c < t.cols) :
    (u.put t ieee r' vs).data.cell t r c = u.data.cell t r c := by
  rw [OpOut.put_data hmx]
  refine foldl_keeps (fun x : TData => x.cell t r c) (fun a ha x => ?_) _
  have hcol : a.2 < vs.length := by simpa using List.snd_lt_of_mem_zipIdx ha
  exact cell_putCell_other t a.1 x (by omega) hc fun h => hr h.1

/-! ### Lines of packed codes (R171) -/

theorem OpOut.cell_putCodes (u : OpOut) (t : TensorDecl) (line : Nat) {cs : List Conv} {j : Nat} {cv : Conv}
    (hcv : cs[j]? = some cv) (hj : j < t.cols) : (u.putCodes t line cs).data.cell t line j = some (some cv.code) := by
  refine foldl_zipIdx_writes (fun u : OpOut => u.data.cell t line j) hcv (fun u => ?_) (fun y i _ hne u => ?_) u
  · simp only [if_pos hj, TData.cell_setCell_row, if_true]
  · dsimp only
    split
    · rw [TData.cell_setCell_row, if_neg (Ne.symm hne)]
    · rfl

theorem OpOut.cell_putCodes_other (u : OpOut) (t : TensorDecl) {line line' j : Nat} (hline : line ≠ line') (cs : List Conv)
    (hj : j < t.cols) : (u.putCodes t line' cs).data.cell t line j = u.data.cell t line j := by
  refine foldl_keeps (fun u : OpOut => u.data.cell t line j) (fun a _ u => ?_) u
  dsimp only
  split
  case isTrue hcol => rw [TData.cell_setCell _ _ _ hcol hj, if_neg fun h => hline h.1]
  case isFalse => rfl

/-! ### Lines of the planes (R170) -/

/-- Plane k of pixel x of a line lies inside the columns. -/
theorem planeAt_col_lt {t : TensorDecl} {x k : Nat} (lines line : Nat) (hx : x < planeWidth t) (hk : k < 3) :
    (planeAt t lines line x k).2 < t.cols := by
  unfold planeWidth at hx
  unfold planeAt
  split
  case isTrue hcols => exact hcols.symm ▸ hk
  case isFalse hcols => rwa [if_neg hcols] at hx

/-- No two elements of the planes share a place. -/
theorem planeAt_inj {t : TensorDecl} {lines line line' x x' k k' : Nat} (hl : line < lines) (hl' : line' < lines)
    (hx : x < planeWidth t) (hx' : x' < planeWidth t) (h : planeAt t lines line x k = planeAt t lines line' x' k') :
    line = line' ∧ x = x' ∧ k = k' := by
  unfold planeWidth at hx hx'
  unfold planeAt at h
  split at h
  case isTrue hcols =>
    rw [if_pos hcols] at hx hx'
    obtain ⟨hrow, hk⟩ := Prod.mk.inj h
    obtain ⟨hline, hpix⟩ := (mul_add_eq_iff hx hx').mp hrow
    exact ⟨hline, hpix, hk⟩
  case isFalse =>
    obtain ⟨hrow, hpix⟩ := Prod.mk.inj h
    obtain ⟨hk, hline⟩ := (mul_add_eq_iff hl hl').mp hrow
    exact ⟨hline, hpix, hk⟩

/-- The words of a pixel by plane. -/
def planeWords (px : Word × Word × Word) : List (Nat × Word) := [(0, px.1), (1, px.2.1), (2, px.2.2)]

theorem planeWords_lt {px : Word × Word × Word} {a : Nat × Word} (h : a ∈ planeWords px) : a.1 < 3 := by
  simp only [planeWords, List.mem_cons, List.not_mem_nil, or_false] at h
  rcases h with rfl | rfl | rfl <;> simp

theorem planeWords_snd {px : Word × Word × Word} {a : Nat × Word} (h : a ∈ planeWords px) :
    a.2 = if a.1 = 0 then px.1 else if a.1 = 1 then px.2.1 else px.2.2 := by
  simp only [planeWords, List.mem_cons, List.not_mem_nil, or_false] at h
  rcases h with rfl | rfl | rfl <;> rfl

theorem planeWords_fst_inj {px : Word × Word × Word} {a b : Nat × Word} (ha : a ∈ planeWords px) (hb : b ∈ planeWords px)
    (h : a.1 = b.1) : a = b :=
  Prod.ext h (by rw [planeWords_snd ha, planeWords_snd hb, h])

namespace OpOut

variable {t : TensorDecl} {ieee : Bool} {lines line line' x x' k k' : Nat}

/-- A pixel written to the planes. -/
def putPixel (t : TensorDecl) (ieee : Bool) (lines line : Nat) (u : OpOut) (px : (Word × Word × Word) × Nat) : OpOut :=
  (planeWords px.1).foldl (fun u kw => u.putAt t ieee (planeAt t lines line px.2 kw.1) (f32Val kw.2)) u

theorem putPixels_eq_foldl (u : OpOut) (t : TensorDecl) (ieee : Bool) (lines line : Nat) (ps : List (Word × Word × Word)) :
    u.putPixels t ieee lines line ps = ps.zipIdx.foldl (putPixel t ieee lines line) u := rfl

theorem cell_putAt (u : OpOut) (t : TensorDecl) (ieee : Bool) (p : Nat × Nat) (v : FVal) :
    (u.putAt t ieee p v).data.cell t p.1 p.2 = some (some (outElem t.fmt ieee v).1) := by
  simp [putAt, TData.cell_setCell_row]

/-- A write to one element of the planes leaves every other. -/
theorem cell_putAt_other (u : OpOut) (v : FVal) (hl : line < lines) (hl' : line' < lines) (hx : x < planeWidth t)
    (hx' : x' < planeWidth t) (hk : k < 3) (hk' : k' < 3) (hne : ¬ (line = line' ∧ x = x' ∧ k = k')) :
    let p := planeAt t lines line x k
    (u.putAt t ieee (planeAt t lines line' x' k') v).data.cell t p.1 p.2 = u.data.cell t p.1 p.2 := by
  have hp : ¬ ((planeAt t lines line x k).1 = (planeAt t lines line' x' k').1
      ∧ (planeAt t lines line x k).2 = (planeAt t lines line' x' k').2) :=
    fun h => hne (planeAt_inj hl hl' hx hx' (Prod.ext h.1 h.2))
  simp only [putAt]
  rw [TData.cell_setCell _ _ _ (planeAt_col_lt _ _ hx' hk') (planeAt_col_lt _ _ hx hk), if_neg hp]

/-- A pixel leaves the planes of every other one. -/
theorem cell_putPixel_other (u : OpOut) (px : Word × Word × Word) (hl : line < lines) (hl' : line' < lines)
    (hx : x < planeWidth t) (hx' : x' < planeWidth t) (hk : k < 3) (hne : ¬ (line = line' ∧ x = x')) :
    let p := planeAt t lines line x k
    (putPixel t ieee lines line' u (px, x')).data.cell t p.1 p.2 = u.data.cell t p.1 p.2 :=
  foldl_keeps (fun u : OpOut => u.data.cell t (planeAt t lines line x k).1 (planeAt t lines line x k).2)
    (fun _ ha u => u.cell_putAt_other _ hl hl' hx hx' hk (planeWords_lt ha) fun h => hne ⟨h.1, h.2.1⟩) u

/-- A pixel's words stand in its planes. -/
theorem cell_putPixel (u : OpOut) {px : Word × Word × Word} (hl : line < lines) (hx : x < planeWidth t) {w : Word}
    (hw : (k, w) ∈ planeWords px) :
    let p := planeAt t lines line x k
    (putPixel t ieee lines line u (px, x)).data.cell t p.1 p.2 = some (some (outElem t.fmt ieee (f32Val w)).1) :=
  foldl_writes (fun u : OpOut => u.data.cell t (planeAt t lines line x k).1 (planeAt t lines line x k).2) hw
    (fun u => u.cell_putAt t ieee _ _)
    (fun _ ha hne u => u.cell_putAt_other _ hl hl hx hx (planeWords_lt hw) (planeWords_lt ha)
      fun h => hne (planeWords_fst_inj ha hw h.2.2.symm)) u

theorem cell_putPixels (u : OpOut) {ps : List (Word × Word × Word)} (hlen : ps.length ≤ planeWidth t) (hl : line < lines)
    {px : Word × Word × Word} (hpx : ps[x]? = some px) {w : Word} (hw : (k, w) ∈ planeWords px) :
    let p := planeAt t lines line x k
    (u.putPixels t ieee lines line ps).data.cell t p.1 p.2 = some (some (outElem t.fmt ieee (f32Val w)).1) := by
  have hin {i : Nat} {q : Word × Word × Word} (hq : ps[i]? = some q) : i < planeWidth t :=
    Nat.lt_of_lt_of_le (List.getElem?_eq_some_iff.mp hq).1 hlen
  exact foldl_zipIdx_writes (fun u : OpOut => u.data.cell t (planeAt t lines line x k).1 (planeAt t lines line x k).2) hpx
    (fun u => u.cell_putPixel hl (hin hpx) hw)
    (fun q i hq hne u => u.cell_putPixel_other q hl hl (hin hpx) (hin hq) (planeWords_lt hw) fun h => hne h.2.symm) u

theorem cell_putPixels_other (u : OpOut) {ps : List (Word × Word × Word)} (hlen : ps.length ≤ planeWidth t) (hl : line < lines)
    (hl' : line' < lines) (hx : x < planeWidth t) (hk : k < 3) (hne : line ≠ line') :
    let p := planeAt t lines line x k
    (u.putPixels t ieee lines line' ps).data.cell t p.1 p.2 = u.data.cell t p.1 p.2 :=
  foldl_keeps (fun u : OpOut => u.data.cell t (planeAt t lines line x k).1 (planeAt t lines line x k).2)
    (fun a ha u => u.cell_putPixel_other a.1 hl hl' hx (Nat.lt_of_lt_of_le (List.snd_lt_of_mem_zipIdx ha) hlen) hk
      fun h => hne h.1) u

end OpOut

@[simp] theorem length_cscInLine (m : Nat) (full : Bool) (b width : Nat) (codes : List Nat) :
    (cscInLine m full b width codes).length = width := by
  simp [cscInLine, numsFrom_eq_range']

theorem OpCtx.rows_lt {c : OpCtx} {n r : Nat} {t : TensorDecl} (ht : c.tensor n = some t) (hr : r ∈ c.rows n) : r < t.rows := by
  unfold OpCtx.rows at hr
  rw [ht] at hr
  split at hr
  case h_1 heq =>
    obtain rfl := Option.some.inj heq
    split at hr
    · simpa using (List.mem_filter.mp hr).2
    · simpa using (mem_numsFrom.mp hr).2
  case h_2 => cases hr

/-! ### The queue of a Gate engine (R168, R172) -/

theorem State.SameBut.gate {w : List Part} {a b : State} (hs : State.SameBut w a b) (hw : .gates ∉ w) (d : Nat) :
    b.gate d = a.gate d := by
  simp only [State.gate, hs.gates hw]

theorem State.SameBut.tdata {w : List Part} {a b : State} (hs : State.SameBut w a b) (hw : .sram ∉ w) (place job tensor : Nat) :
    b.tdata place job tensor = a.tdata place job tensor := by
  simp only [State.tdata, hs.sram hw]

@[simp] theorem State.gate_setGate (s : State) (d : Nat) (x : Engine) : (s.setGate d x).gate d = x :=
  SMap.getF_setF_same _ _ _ _

theorem State.gatePop_queue (s : State) (d : Nat) : ((s.gatePop d).gate d).queue = (s.gate d).queue.tail := by
  unfold State.gatePop
  rw [(State.bump64_same (.refl _ _) (List.Subset.refl _)).gate (by decide), State.gate_setGate]

theorem State.gateDone_tdata (s : State) (c : OpCtx) (t : TensorDecl) (o : OpOut) (n : Nat) :
    (s.gateDone c t o n).tdata (commonsPlace c.d) c.job t.id = o.data := by
  have hsame : State.SameBut [.regs, .out] (s.setTdata (commonsPlace c.d) c.job t.id o.data) (s.gateDone c t o n) :=
    State.bump_same (State.events_same (State.events_same (.refl _ _) (by decide)) (by decide)) (by decide)
  rw [hsame.tdata (by decide), State.tdata_setTdata]

section Head

variable {s : State} {d op : Nat} {e : QEntry 64} {c : OpCtx}

/-- An operation at the head of its queue that can act leaves it. -/
theorem State.GateHead.gateRun_eq (h : s.GateHead d op e c) {f : OpCtx → GateOp → Option State} {u : State}
    (hf : f c (gateOp e.word) = some u) : s.gateRun d op f = u.gatePop d := by
  obtain ⟨hhead, hserved, hissue, hok, hop, hctx⟩ := h
  obtain ⟨es, hq⟩ := List.head?_eq_some_iff.mp hhead
  simp [State.gateRun, hq, hserved, hissue, hok, hop, hctx, hf]

/-- An operation that stores its output and counts its events runs, and its output stands in its tensor. -/
theorem State.GateHead.gateRan (h : s.GateHead d op e c) {i : Instr} {f : OpCtx → GateOp → Option State}
    (hexec : exec i s = .next (s.gateRun d op f)) {t : TensorDecl} {o : OpOut} {n : Nat}
    (hf : f c (gateOp e.word) = some (s.gateDone c t o n)) :
    ∃ u, s.GateRan d i u ∧ u.tdata (commonsPlace c.d) c.job t.id = o.data := by
  have hdone : State.SameBut [.regs, .sram, .out] s (s.gateDone c t o n) := State.gateDone_same (.refl _ _) (List.Subset.refl _)
  refine ⟨(s.gateDone c t o n).gatePop d, ⟨?exec, ?queue, ?frame⟩, ?data⟩
  case exec => rw [hexec, h.gateRun_eq hf]
  case queue => rw [State.gatePop_queue, hdone.gate (by decide)]
  case frame => exact State.gatePop_same (hdone.mono (by decide)) (by decide)
  case data => rw [(State.gatePop_same (.refl _ _) (List.Subset.refl _)).tdata (by decide), State.gateDone_tdata]

theorem State.GateHead.nop (h : s.GateHead d 0x0 e c) : exec (.gateNop d) s = .next (s.gatePop d) :=
  congrArg Host.Outcome.next (h.gateRun_eq rfl)

theorem State.GateHead.signal (h : s.GateHead d 0xE e c) :
    exec (.gateSignal d) s = .next ((s.unitSignal d (gateBellOp e.word).bell (gateBellOp e.word).op
      (BitVec.ofNat 32 (gateBellOp e.word).value)).gatePop d) := by
  obtain ⟨es, hq⟩ := List.head?_eq_some_iff.mp h.1
  show execGateSignal d s = _
  unfold execGateSignal
  rw [hq]
  exact congrArg Host.Outcome.next (h.gateRun_eq rfl)

theorem State.GateHead.wait (h : s.GateHead d 0xF e c) :
    exec (.gateWait d) s = .next ((s.setGate d { s.gate d with
      waiting := true, waitAt := if (s.gate d).waiting then (s.gate d).waitAt else s.now }).errorWait (.gate d)) := by
  obtain ⟨hhead, hserved, hissue, hok, hop, -⟩ := h
  obtain ⟨es, hq⟩ := List.head?_eq_some_iff.mp hhead
  show Host.Outcome.next (s.gateHold d) = _
  simp [State.gateHold, hq, hserved, hissue, hok, hop]

end Head

/-! ### CONV (R169) -/

namespace State

variable {s : State} {c : OpCtx} {o : GateOp} {src wgt dst : TensorDecl}

/-- Row r of the sums of CONV. -/
def convRow (s : State) (c : OpCtx) (o : GateOp) (src wgt dst : TensorDecl) (r : Nat) : List (FVal × Bool) :=
  (numsFrom 0 dst.cols).map fun co =>
    gateConvVal o.ieee (s.gatePairs c (s.geomOf c.run o.geom) src wgt dst r co) (s.gateBias c o co)

/-- What CONV leaves in its tensor, with the counts of its events. -/
def convOut (s : State) (c : OpCtx) (o : GateOp) (src wgt dst : TensorDecl) : OpOut :=
  (c.rows o.dst).foldl (fun u r => u.putSums dst o.ieee r (s.convRow c o src wgt dst r))
    { data := s.tdata (commonsPlace c.d) c.job dst.id }

theorem convOp_eq (hsrc : (c.tensor o.src).map (gateAs o.inFmt) = some src) (hdst : (c.tensor o.dst).map (gateAs o.outFmt) = some dst)
    (hwgt : c.tensor o.wgt = some wgt) (hsrcHere : s.gateHere c src (c.rows o.src) = true)
    (hwgtHere : s.gateHere c wgt (numsFrom 0 wgt.rows) = true)
    (hbias : o.bias = 0xF ∨ ∃ b, c.tensor o.bias = some b ∧ s.gateHere c b [0] = true) :
    s.convOp c o = some (s.gateDone c dst (s.convOut c o src wgt dst) 0) := by
  unfold convOp
  rw [hsrc, hwgt, hdst]
  dsimp only
  rw [if_pos]
  · rfl
  · obtain hnone | ⟨b, hb, hbHere⟩ := hbias
    · simp [hsrcHere, hwgtHere, hnone]
    · simp [hsrcHere, hwgtHere, hb, hbHere]

theorem cell_convOut (hmx : dst.fmt.isMx = false) {r co : Nat} (hr : r ∈ c.rows o.dst) (hco : co < dst.cols) :
    (s.convOut c o src wgt dst).data.cell dst r co = some (some (outElem dst.fmt o.ieee
      (gateConvVal o.ieee (s.gatePairs c (s.geomOf c.run o.geom) src wgt dst r co) (s.gateBias c o co)).1).1) := by
  have hlen (q : Nat) : ((s.convRow c o src wgt dst q).map fun v => some v.1).length ≤ dst.cols := by
    simp [convRow, numsFrom_eq_range']
  have hval : ((s.convRow c o src wgt dst r).map fun v => some v.1)[co]? = some (some
      (gateConvVal o.ieee (s.gatePairs c (s.geomOf c.run o.geom) src wgt dst r co) (s.gateBias c o co)).1) := by
    simp [convRow, numsFrom_eq_range', hco]
  exact foldl_writes (f := fun u q => u.putSums dst o.ieee q (s.convRow c o src wgt dst q))
    (fun u : OpOut => u.data.cell dst r co) hr
    (fun u => u.cell_put hmx o.ieee r (hlen r) hval)
    (fun q _ hne u => u.cell_put_other hmx o.ieee (Ne.symm hne) (hlen q) hco) _

/-! ### Colour-space conversion (R170, R171) -/

/-- The pixels that CSC_IN makes of a line of packed codes. -/
def cscInPixels (s : State) (c : OpCtx) (o : GateOp) (src dst : TensorDecl) (line : Nat) : List (Word × Word × Word) :=
  cscInLine o.matrix o.full (videoBits src.fmt) (planeWidth dst) ((numsFrom 0 src.cols).map fun j => (s.gateElem c src line j).nat)

/-- What CSC_IN leaves in the planes, with the counts of its events. -/
def cscInOut (s : State) (c : OpCtx) (o : GateOp) (src dst : TensorDecl) : OpOut :=
  (c.rows o.src).foldl (fun u line => u.putPixels dst o.ieee src.rows line (s.cscInPixels c o src dst line))
    { data := s.tdata (commonsPlace c.d) c.job dst.id }

theorem cscInOp_eq (hsrc : (c.tensor o.src).map (gateAs o.inFmt) = some src) (hdst : (c.tensor o.dst).map (gateAs o.outFmt) = some dst)
    (hsrcHere : s.gateHere c src (c.rows o.src) = true) :
    s.cscInOp c o = some (s.gateDone c dst (s.cscInOut c o src dst) ((c.rows o.src).length * planeWidth dst)) := by
  unfold cscInOp
  rw [hsrc, hdst]
  exact if_pos hsrcHere

theorem cell_cscInOut (hsrc : (c.tensor o.src).map (gateAs o.inFmt) = some src) {line x k : Nat} {px : Word × Word × Word}
    {w : Word} (hline : line ∈ c.rows o.src) (hpx : (s.cscInPixels c o src dst line)[x]? = some px) (hw : (k, w) ∈ planeWords px) :
    let p := planeAt dst src.rows line x k
    (s.cscInOut c o src dst).data.cell dst p.1 p.2 = some (some (outElem dst.fmt o.ieee (f32Val w)).1) := by
  have hrows {q : Nat} (hq : q ∈ c.rows o.src) : q < src.rows := by
    obtain ⟨t, ht, rfl⟩ := Option.map_eq_some_iff.mp hsrc
    exact OpCtx.rows_lt (t := t) ht hq
  have hlen (q : Nat) : (s.cscInPixels c o src dst q).length = planeWidth dst := length_cscInLine ..
  have hx : x < planeWidth dst := hlen line ▸ (List.getElem?_eq_some_iff.mp hpx).1
  exact foldl_writes
    (fun u : OpOut => u.data.cell dst (planeAt dst src.rows line x k).1 (planeAt dst src.rows line x k).2) hline
    (fun u => u.cell_putPixels (Nat.le_of_eq (hlen line)) (hrows hline) hpx hw)
    (fun q hq hne u => u.cell_putPixels_other (Nat.le_of_eq (hlen q)) (hrows hline) (hrows hq) hx (planeWords_lt hw) (Ne.symm hne)) _

/-- The codes that CSC_OUT makes of a line of the planes. -/
def cscOutCodes (s : State) (c : OpCtx) (o : GateOp) (src dst : TensorDecl) (line : Nat) : List Conv :=
  let at_ (x k : Nat) : Word :=
    let p := planeAt src dst.rows line x k
    (s.gateElem c src p.1 p.2).word0
  cscOutLine o.matrix o.full dst.fmt ((numsFrom 0 (planeWidth src)).map fun x => (at_ x 0, at_ x 1, at_ x 2))

/-- What CSC_OUT leaves in the packed tensor, with the counts of its events. -/
def cscOutOut (s : State) (c : OpCtx) (o : GateOp) (src dst : TensorDecl) : OpOut :=
  (c.rows o.dst).foldl (fun u line => u.putCodes dst line (s.cscOutCodes c o src dst line))
    { data := s.tdata (commonsPlace c.d) c.job dst.id }

theorem cscOutOp_eq (hsrc : (c.tensor o.src).map (gateAs o.inFmt) = some src)
    (hdst : (c.tensor o.dst).map (gateAs o.outFmt) = some dst) (hsrcHere : s.gateHere c src (c.rows o.src) = true) :
    s.cscOutOp c o = some (s.gateDone c dst (s.cscOutOut c o src dst) ((c.rows o.dst).length * planeWidth src)) := by
  unfold cscOutOp
  rw [hsrc, hdst]
  exact if_pos hsrcHere

theorem cell_cscOutOut {line j : Nat} {cv : Conv} (hline : line ∈ c.rows o.dst) (hj : j < dst.cols)
    (hcv : (s.cscOutCodes c o src dst line)[j]? = some cv) :
    (s.cscOutOut c o src dst).data.cell dst line j = some (some cv.code) :=
  foldl_writes (fun u : OpOut => u.data.cell dst line j) hline (fun u => u.cell_putCodes dst line hcv hj)
    (fun _ _ hne u => u.cell_putCodes_other dst (Ne.symm hne) _ hj) _

end State

/-- Settles O56: the head's operation answers the state with its output stored, and each line or row of the output is written at
places of its own. -/
theorem gateOperationsLeaveTheQueue : Obligations.GateOperationsLeaveTheQueue := by
  intro d op e c s h o cell
  refine ⟨?nop, ?signal, ?wait, fun src dst hsrc hdst hsrcHere => ⟨?conv, ?cscIn, ?cscOut⟩⟩
  case nop =>
    rintro rfl
    exact h.nop
  case signal =>
    rintro rfl
    exact h.signal
  case wait =>
    rintro rfl
    exact h.wait
  case conv =>
    rintro wgt rfl hwgt hwgtHere hbias
    obtain ⟨u, hran, hdata⟩ :=
      h.gateRan (i := .conv d) (f := s.convOp) rfl (State.convOp_eq hsrc hdst hwgt hsrcHere hwgtHere hbias)
    refine ⟨u, hran, fun hmx r co hr hco => ?_⟩
    simp only [cell, hdata]
    exact State.cell_convOut hmx hr hco
  case cscIn =>
    rintro rfl
    obtain ⟨u, hran, hdata⟩ := h.gateRan (i := .cscIn d) (f := s.cscInOp) rfl (State.cscInOp_eq hsrc hdst hsrcHere)
    refine ⟨u, hran, fun line x px hline _ hpx k w hw => ?_⟩
    simp only [cell, hdata]
    exact State.cell_cscInOut hsrc hline hpx hw
  case cscOut =>
    rintro rfl
    obtain ⟨u, hran, hdata⟩ := h.gateRan (i := .cscOut d) (f := s.cscOutOp) rfl (State.cscOutOp_eq hsrc hdst hsrcHere)
    refine ⟨u, hran, fun line j cv hline hj hcv => ?_⟩
    simp only [cell, hdata]
    exact State.cell_cscOutOut hline hj hcv

end Sys2Proof.Machine

/-! SUPPORT. The settlements of the family of 09_granary.md: the effects of Granary's commands, and the course of a command. -/

namespace Sys2Proof.Machine

/-! ### Bytes of HBM that writes leave (R244) -/

@[simp] theorem length_leBytes (n v : Nat) : (leBytes n v).length = n := by
  induction n generalizing v with
  | zero => rfl
  | succ n ih => simp [leBytes, ih]

theorem State.SameBut.stack {w : List Part} {a b : State} (hs : State.SameBut w a b) (hw : .hbmStacks ∉ w) (k : Nat) :
    b.stack k = a.stack k := by
  simp only [State.stack, hs.hbmStacks hw]

theorem State.SameBut.memMask {w : List Part} {a b : State} (hs : State.SameBut w a b) (hmargined : .margined ∉ w)
    (hstacks : .hbmStacks ∉ w) (pa : Nat) : b.memMask pa = a.memMask pa := by
  unfold State.memMask State.lostAt
  rw [hs.stack hstacks, hs.margined hmargined]

theorem State.SameBut.byteAt {w : List Part} {a b : State} (hs : State.SameBut w a b) (hmem : .mem ∉ w) (hmargined : .margined ∉ w)
    (hstacks : .hbmStacks ∉ w) (pa : Nat) : b.byteAt pa = a.byteAt pa := by
  rw [State.byteAt, State.byteAt, hs.mem hmem, hs.memMask hmargined hstacks]

theorem State.SameBut.phys {w : List Part} {a b : State} (hs : State.SameBut w a b) (hw : .fields ∉ w) (sp : Option Nat) (x : Nat) :
    b.phys sp x = a.phys sp x := by
  simp only [State.phys, State.mapping, hs.fields hw]

theorem State.SameBut.storesAt_iff {w : List Part} {a b : State} (hs : State.SameBut w a b) (hw : .fields ∉ w) (x : BitWrite) (pa : Nat) :
    b.storesAt x pa ↔ a.storesAt x pa := by
  simp only [State.storesAt, hs.phys hw]

theorem State.byteAt_setByte_other (s : State) {pa x : Nat} (b : Byte) (h : x ≠ pa) : (s.setByte pa b).byteAt x = s.byteAt x := by
  unfold State.setByte
  split
  · rfl
  · exact congrArg (· ^^^ s.memMask x) (SMap.getF_setF_other _ _ _ h)

theorem byteAt_storeSp {s : State} {sp : Option Nat} {at_ : Nat} {bs : List Byte} {pa : Nat}
    (h : ∀ a, at_ ≤ a → a < at_ + bs.length → s.phys sp a ≠ some pa) : (storeSp s sp at_ bs).byteAt pa = s.byteAt pa := by
  fun_induction storeSp s sp at_ bs with
  | case1 => rfl
  | case2 s sp at_ b bs x hx ih =>
    have hne : pa ≠ x := fun e => h at_ (Nat.le_refl _) (by simp) (e ▸ hx)
    have hphys (a : Nat) : (s.setByte x b).phys sp a = s.phys sp a :=
      (State.setByte_same (.refl _ s) (List.Subset.refl _)).phys (by decide) sp a
    rw [ih fun a ha hlt => by rw [hphys]; exact h a (by omega) (by simp; omega)]
    exact s.byteAt_setByte_other b hne
  | case3 s sp at_ b bs _ ih => exact ih fun a ha hlt => h a (by omega) (by simp; omega)

theorem State.byteAt_storeBits {s : State} {w : BitWrite} {pa : Nat} (h : ¬ s.storesAt w pa) :
    (s.storeBits w).byteAt pa = s.byteAt pa := by
  refine byteAt_storeSp fun a hlo hhi he => h ⟨a, hlo, ?_, he⟩
  simpa using hhi

theorem byteAt_storeBits_all {s : State} {ws : List BitWrite} {pa : Nat} (h : ∀ w ∈ ws, ¬ s.storesAt w pa) :
    (ws.foldl State.storeBits s).byteAt pa = s.byteAt pa := by
  induction ws generalizing s with
  | nil => rfl
  | cons w ws ih =>
    have hsame : State.SameBut [.mem] s (s.storeBits w) := State.storeBits_same (.refl _ s) (List.Subset.refl _)
    have hrest : ∀ v ∈ ws, ¬ (s.storeBits w).storesAt v pa := fun v hv hstores =>
      h v (List.mem_cons_of_mem _ hv) ((hsame.storesAt_iff (by decide) v pa).mp hstores)
    exact (ih hrest).trans (State.byteAt_storeBits (h w List.mem_cons_self))

/-- Where no sector holds an error, a store is its writes in order. -/
theorem State.storeAll_of_eccClean {s : State} (hc : s.eccClean = true) (onBad : Nat → State → State) (ws : List BitWrite) :
    s.storeAll onBad ws = ws.foldl State.storeBits s := by
  simp [State.storeAll, hc]

/-! ### The commands that a pair runs (R236) -/

@[simp] theorem State.pair_setPair (s : State) (d : Nat) (x : Pair) : (s.setPair d x).pair d = x := SMap.getF_setF_same _ _ _ _

theorem State.SameBut.pair {w : List Part} {a b : State} (hs : State.SameBut w a b) (hw : .pairs ∉ w) (d : Nat) :
    b.pair d = a.pair d := by
  simp only [State.pair, hs.pairs hw]

@[simp] theorem State.running_setRunning (s : State) (pair k : Nat) (e : GranRun) :
    ((s.setRunning pair k e).pair pair).running = listSet (s.pair pair).running k e := by
  simp [State.setRunning]

theorem findIdxFrom_eq_some {α : Type} {p : α → Bool} {xs : List α} {i k : Nat} {x : α} (h : findIdxFrom p i xs = some (k, x)) :
    i ≤ k ∧ xs[k - i]? = some x ∧ p x = true := by
  induction xs generalizing i with
  | nil => cases h
  | cons y ys ih =>
    rw [findIdxFrom] at h
    split at h
    case isTrue hp =>
      cases h
      simpa using hp
    case isFalse =>
      obtain ⟨hle, hget, hp⟩ := ih h
      refine ⟨by omega, ?_, hp⟩
      rw [show k - i = k - (i + 1) + 1 by omega]
      simpa using hget

/-- The command found runs at its place in the queue asked for, and has had no effect yet. -/
theorem State.granFirst_eq_some {s : State} {pair q op k : Nat} {e : GranRun} (h : s.granFirst pair q op = some (k, e)) :
    (s.pair pair).running[k]? = some e ∧ e.q = q ∧ (granCmd e.word).opcode = op ∧ e.done = false := by
  obtain ⟨-, hget, hp⟩ := findIdxFrom_eq_some h
  have hfound : (e.q = q ∧ (granCmd e.word).opcode = op) ∧ e.done = false := by simpa using hp
  obtain ⟨⟨hq, hop⟩, hdone⟩ := hfound
  exact ⟨hget, hq, hop, hdone⟩

section Effect

variable {s : State} {pair q op k : Nat} {e : GranRun} {x : GCtx} {eff : GEff} {f : GCtx → Option GEff}

theorem State.granRun_eq_applyEff (hfirst : s.granFirst pair q op = some (k, e)) (hctx : s.gctx pair e = some x)
    (hf : f x = some eff) (hup : s.up = true) : s.granRun pair q op f = s.applyEff pair k e eff := by
  simp [State.granRun, hfirst, hctx, hf, hup]

theorem State.applyEff_of_reject (hc : s.eccClean = true) {r : Nat} (hr : eff.reject = some r) :
    s.applyEff pair k e eff = (s.countGran eff).pairFault pair r (granCmd e.word).opcode e.q (s.runJob e.run) eff.rejectAt := by
  simp [State.applyEff, State.badRead, State.eccRead, hc, hr]

/-- What an effect leaves once its writes are stored: counters, faults of checksums and tiles in flight. -/
def State.effFollowed (s u : State) (pair : Nat) (e : GranRun) (eff : GEff) : State :=
  ((mismatchFaults (granCmd e.word).opcode e.q (s.runJob e.run) eff.mismatch (u.countGran eff)).emitTiles pair e eff.tiles).skipTiles
    e.run eff.noKeys

theorem State.effFollowed_same (s u : State) (pair : Nat) (e : GranRun) (eff : GEff) :
    State.SameBut [.regs, .looms, .flight, .ferry, .faults, .out] u (s.effFollowed u pair e eff) :=
  State.skipTiles_same (State.emitTiles_same (mismatchFaults_same (State.countGran_same (.refl _ u) (by decide)) (by decide))
    (by decide)) (by decide)

theorem State.applyEff_of_accepted (hc : s.eccClean = true) (hr : eff.reject = none) :
    s.applyEff pair k e eff
      = (s.effFollowed (eff.writes.foldl State.storeBits s) pair e eff).setRunning pair k { e with done := true, sent := eff.tiles } := by
  simp [State.applyEff, State.badRead, State.eccRead, hc, hr, State.storeAll_of_eccClean hc, State.effFollowed]

theorem foldl_storeBits_same (s : State) (ws : List BitWrite) : State.SameBut [.mem] s (ws.foldl State.storeBits s) :=
  same_foldl (fun _ _ h => State.storeBits_same h (List.Subset.refl _)) ws (.refl _ s)

/-- An accepted effect marks its command done with the tiles it sent. -/
theorem State.applyEff_running (hc : s.eccClean = true) (hr : eff.reject = none) :
    ((s.applyEff pair k e eff).pair pair).running
      = listSet (s.pair pair).running k { e with done := true, sent := eff.tiles } := by
  rw [State.applyEff_of_accepted hc hr, State.running_setRunning, (State.effFollowed_same _ _ _ _ _).pair (by decide),
    (foldl_storeBits_same _ _).pair (by decide)]

theorem State.applyEff_same_writes (hc : s.eccClean = true) (hr : eff.reject = none) :
    State.SameBut [.regs, .looms, .pairs, .flight, .ferry, .faults, .out] (eff.writes.foldl State.storeBits s)
      (s.applyEff pair k e eff) := by
  rw [State.applyEff_of_accepted hc hr]
  exact State.setRunning_same ((State.effFollowed_same _ _ _ _ _).mono (by decide)) (by decide)

theorem State.byteAt_applyEff (hc : s.eccClean = true) (hr : eff.reject = none) {a : Nat} (ha : ∀ w ∈ eff.writes, ¬ s.storesAt w a) :
    (s.applyEff pair k e eff).byteAt a = s.byteAt a :=
  ((State.applyEff_same_writes hc hr).byteAt (by decide) (by decide) (by decide) a).trans (byteAt_storeBits_all ha)

end Effect

/-! ### The commands that read and write HBM as one effect (Table GRAN-3) -/

theorem gather_of_granaryEffects {pair q : Nat} {i : Instr} {f : State → GCtx → Option GEff}
    (h : (i, 0x06, f) ∈ granaryEffects pair q) : i = .gather pair q ∧ f = State.gatherEff := by
  simpa [granaryEffects] using h

/-- A GATHER runs its effect, and then notes when the frames that it read were read. -/
theorem State.gatherRun_same_granRun (s : State) (pair q : Nat) :
    State.SameBut [.loader] (s.granRun pair q 0x06 s.gatherEff) (s.gatherRun pair q) := by
  unfold State.gatherRun
  extract_lets t
  split
  · exact same_ite (State.readFrames_same (.refl _ t) (List.Subset.refl _)) (.refl _ t)
  · exact .refl _ t

/-- Each of these commands runs its effect, and leaves all but the loader as the effect does. -/
theorem exec_of_granaryEffects {pair q op : Nat} {i : Instr} {f : State → GCtx → Option GEff} (h : (i, op, f) ∈ granaryEffects pair q)
    (s : State) : ∃ t, exec i s = .next t ∧ State.SameBut [.loader] (s.granRun pair q op (f s)) t := by
  by_cases hop : op = 0x06
  case pos =>
    subst hop
    obtain ⟨rfl, rfl⟩ := gather_of_granaryEffects h
    exact ⟨_, rfl, s.gatherRun_same_granRun pair q⟩
  case neg =>
    have hall : ∀ z ∈ granaryEffects pair q, z.2.1 ≠ 0x06 → exec z.1 s = .next (s.granRun pair q z.2.1 (z.2.2 s)) := by
      simp only [granaryEffects, List.forall_mem_cons]
      exact ⟨fun _ => rfl, fun _ => rfl, fun _ => rfl, fun hne => absurd rfl hne, fun _ => rfl, fun _ => rfl, fun _ => rfl,
        fun _ => rfl, fun _ => rfl, fun _ => rfl, fun _ => rfl, fun _ => rfl, fun _ => rfl, nofun⟩
    exact ⟨_, hall _ h hop, .refl _ _⟩

/-- A command's effect: it is there when the command is ready for it, and no check of the command rejects it. -/
structure Accepts (ready : Bool) (o : Option GEff) : Prop where
  answers : ready = true → ∃ eff, o = some eff
  unrejected : ∀ eff, o = some eff → eff.reject = none

theorem accepts_some {ready : Bool} {eff : GEff} (h : eff.reject = none) : Accepts ready (some eff) :=
  ⟨fun _ => ⟨eff, rfl⟩, by rintro _ ⟨⟩; exact h⟩

theorem accepts_none {ready : Bool} (h : ready = true → False) : Accepts ready none :=
  ⟨fun hr => (h hr).elim, nofun⟩

theorem accepts_map {α : Type} {ready : Bool} {o : Option α} {g : α → GEff} (ho : ready = true → o.isSome = true)
    (hg : ∀ y, (g y).reject = none) : Accepts ready (o.map g) := by
  cases o with
  | none => exact accepts_none fun hr => Bool.false_ne_true (ho hr)
  | some y => exact accepts_some (hg y)

section Operands

variable (s : State) (x : GCtx)

theorem State.readEff_accepts : Accepts (s.granOperands x 0x01) (s.readEff x) := by
  unfold State.readEff
  split
  · exact accepts_some rfl
  · exact accepts_none fun h => by grind [State.granOperands, Option.isSome_iff_exists]

theorem State.copyEff_accepts : Accepts (s.granOperands x 0x03) (s.copyEff x) := by
  unfold State.copyEff
  split
  · exact accepts_some rfl
  · exact accepts_none fun h => by grind [State.granOperands, Option.isSome_iff_exists]

theorem State.fillEff_accepts : Accepts (s.granOperands x 0x04) (s.fillEff x) := by
  unfold State.fillEff
  split
  · exact accepts_some rfl
  · exact accepts_none fun h => by grind [State.granOperands, Option.isSome_iff_exists]

theorem State.treeAddEff_accepts : Accepts (s.granOperands x 0x08) (s.treeAddEff x) := by
  unfold State.treeAddEff
  split
  · exact accepts_some rfl
  · exact accepts_none fun h => by grind [State.granOperands, Option.isSome_iff_exists]

theorem State.redExpEff_accepts : Accepts (s.granOperands x 0x10) (s.redExpEff x) := by
  unfold State.redExpEff
  split
  · exact accepts_some rfl
  · exact accepts_none fun h => by grind [State.granOperands, Option.isSome_iff_exists]

theorem State.redFixEff_accepts : Accepts (s.granOperands x 0x12) (s.redFixEff x) := by
  unfold State.redFixEff
  split
  · exact accepts_some rfl
  · exact accepts_none fun h => by grind [State.granOperands, Option.isSome_iff_exists]

theorem State.redEmaxEff_accepts : Accepts (s.granOperands x 0x11) (s.redEmaxEff x) := by
  unfold State.redEmaxEff
  split
  · exact accepts_map (fun h => by grind [State.granOperands, Option.isSome_iff_exists]) fun _ => rfl
  · exact accepts_none fun h => by grind [State.granOperands, Option.isSome_iff_exists]

theorem State.redCheckEff_accepts : Accepts (s.granOperands x 0x14) (s.redCheckEff x) := by
  unfold State.redCheckEff
  split
  · exact accepts_map (fun h => by grind [State.granOperands, Option.isSome_iff_exists]) fun _ => rfl
  · exact accepts_none fun h => by grind [State.granOperands, Option.isSome_iff_exists]

theorem State.redOutEff_accepts : Accepts (s.granOperands x 0x15) (s.redOutEff x) := by
  unfold State.redOutEff
  split
  · exact accepts_map (fun h => by grind [State.granOperands, Option.isSome_iff_exists]) fun _ => rfl
  · exact accepts_none fun h => by grind [State.granOperands, Option.isSome_iff_exists]

theorem State.redAddEff_accepts : Accepts (s.granOperands x 0x13) (s.redAddEff x) := by
  unfold State.redAddEff
  split
  · split
    · exact accepts_some rfl
    · exact accepts_none fun h => by grind [State.granOperands, Option.isSome_iff_exists]
  · exact accepts_none fun h => by grind [State.granOperands, Option.isSome_iff_exists]

theorem State.optRefs_isSome (h : s.granOperands x 0x18 = true) : (s.optRefs x).isSome = true := by
  unfold State.optRefs
  dsimp only
  split
  · split
    · split
      · rfl
      · grind [State.granOperands, Option.isSome_iff_exists]
    · grind [State.granOperands, Option.isSome_iff_exists]
  · grind [State.granOperands, Option.isSome_iff_exists]

theorem State.optEff_accepts : Accepts (s.granOperands x 0x18) (s.optEff x) :=
  accepts_map (s.optRefs_isSome x) fun _ => rfl

theorem State.crcEff_accepts : Accepts (s.granOperands x 0x21) (s.crcEff x) := by
  unfold State.crcEff
  extract_lets start len dst
  split
  case isTrue => exact accepts_some rfl
  case isFalse hno => exact accepts_none hno

end Operands

/-- GATHER alone has checks that can reject it; every other command has its effect when its operands are there. -/
theorem granaryEffects_accepts {pair q op : Nat} {i : Instr} {f : State → GCtx → Option GEff} (h : (i, op, f) ∈ granaryEffects pair q)
    (hop : op ≠ 0x06) (s : State) (x : GCtx) : Accepts (s.granOperands x op) (f s x) := by
  simp only [granaryEffects, List.mem_cons, Prod.mk.injEq, List.not_mem_nil, or_false] at h
  rcases h with h | h | h | h | h | h | h | h | h | h | h | h | h <;> obtain ⟨-, rfl, rfl⟩ := h
  · exact s.readEff_accepts x
  · exact s.copyEff_accepts x
  · exact s.fillEff_accepts x
  · exact absurd rfl hop
  · exact s.treeAddEff_accepts x
  · exact s.redExpEff_accepts x
  · exact s.redEmaxEff_accepts x
  · exact s.redFixEff_accepts x
  · exact s.redAddEff_accepts x
  · exact s.redCheckEff_accepts x
  · exact s.redOutEff_accepts x
  · exact s.optEff_accepts x
  · exact s.crcEff_accepts x

/-! ### GATHER (R189, R230) -/

/-- A GATHER whose pages pass their checks and form whole tiles writes nothing and sends those tiles. -/
theorem State.gatherEff_of_tiles {s : State} {x : GCtx} {d : TensorDecl} {cd : CacheDecl} {ps : List GPage} {ts : List Tile}
    (hd : findTensor x.tensors (x.id x.c.slotD) = some d) (hcd : s.cacheDecl x.job (x.id x.c.slotA) = some cd)
    (hps : s.gatherPages x (x.id x.c.slotA) (if cd.headDim = 0 then 0 else 128 / (tileW d.fmt / cd.headDim)) (x.descs.map pageDesc)
      = (ps, none))
    (hts : gatherTiles d cd.headDim (s.runStep x.run) ps = some ts) :
    ∃ eff, s.gatherEff x = some eff ∧ eff.reject = none ∧ eff.writes = [] ∧ eff.tiles = ts := by
  unfold State.gatherEff
  extract_lets cache
  rw [hd, hcd]
  dsimp only [cache]
  rw [hps]
  dsimp only
  rw [hts]
  exact ⟨_, rfl, rfl, rfl, rfl⟩

/-- A GATHER whose effect leaves its command waiting notes no read of a frame. -/
theorem State.gatherRun_of_waiting {s : State} {pair q k : Nat} {e : GranRun} (hfirst : s.granFirst pair q 0x06 = some (k, e))
    (hkeep : ((s.granRun pair q 0x06 s.gatherEff).pair pair).running = (s.pair pair).running) :
    s.gatherRun pair q = s.granRun pair q 0x06 s.gatherEff := by
  obtain ⟨hget, -, -, hwait⟩ := State.granFirst_eq_some hfirst
  simp [State.gatherRun, hfirst, hkeep, hget, hwait]

section Settle

variable {s : State} {pair q op k : Nat} {i : Instr} {f : State → GCtx → Option GEff} {e : GranRun} {x : GCtx} {eff : GEff}

/-- A command of the family that has an accepted effect is done with the tiles of the effect, and HBM is as its writes leave it. -/
theorem exec_of_accepted (hi : (i, op, f) ∈ granaryEffects pair q) (hfirst : s.granFirst pair q op = some (k, e))
    (hctx : s.gctx pair e = some x) (hf : f s x = some eff) (hup : s.up = true) (hc : s.eccClean = true) (hr : eff.reject = none) :
    ∃ t, exec i s = .next t
      ∧ (t.pair pair).running = listSet (s.pair pair).running k { e with done := true, sent := eff.tiles }
      ∧ (∀ a, (∀ w ∈ eff.writes, ¬ s.storesAt w a) → t.byteAt a = s.byteAt a)
      ∧ (eff.writes = [] → t.mem = s.mem) := by
  obtain ⟨t, hexec, hsame⟩ := exec_of_granaryEffects hi s
  rw [State.granRun_eq_applyEff hfirst hctx hf hup] at hsame
  refine ⟨t, hexec, ?running, fun a ha => ?bytes, fun hw => ?mem⟩
  case running => rw [hsame.pair (by decide), State.applyEff_running hc hr]
  case bytes => exact (hsame.byteAt (by decide) (by decide) (by decide) a).trans (State.byteAt_applyEff hc hr ha)
  case mem =>
    rw [hsame.mem (by decide), (State.applyEff_same_writes hc hr).mem (by decide), hw]
    rfl

/-- A rejected command is a GATHER, which counts the pages it took, reports the failed check and stays in its queue. -/
theorem exec_of_rejected (hi : (i, op, f) ∈ granaryEffects pair q) (hfirst : s.granFirst pair q op = some (k, e))
    (hctx : s.gctx pair e = some x) (hf : f s x = some eff) (hup : s.up = true) (hc : s.eccClean = true) {r : Nat}
    (hr : eff.reject = some r) : op = 0x06
      ∧ exec i s = .next ((s.countGran eff).pairFault pair r (granCmd e.word).opcode q (s.runJob e.run) eff.rejectAt) := by
  by_cases hop : op = 0x06
  case neg =>
    have hnone := (granaryEffects_accepts hi hop s x).unrejected eff hf
    cases hnone.symm.trans hr
  case pos =>
    subst hop
    obtain ⟨rfl, rfl⟩ := gather_of_granaryEffects hi
    obtain ⟨-, hq, -, -⟩ := State.granFirst_eq_some hfirst
    have hrun := State.granRun_eq_applyEff hfirst hctx hf hup
    rw [State.applyEff_of_reject hc hr, hq] at hrun
    refine ⟨rfl, congrArg Host.Outcome.next ((State.gatherRun_of_waiting hfirst ?_).trans hrun)⟩
    rw [hrun, (State.pairFault_same (State.countGran_same (.refl [.regs, .faults, .out] s) (by decide)) (by decide)).pair (by decide)]

end Settle

/-- Settles O57: the command's effect is applied to the first command of its queue, bytes change only where a write stores, and of
the thirteen effects GATHER's alone carries a check. -/
theorem granaryCommandsTakeTheirEffect : Obligations.GranaryCommandsTakeTheirEffect := by
  refine ⟨?effect, ?operands⟩
  case effect =>
    intro pair q op k i f e x eff s hi hfirst hctx hf hup hc
    refine ⟨fun hr => ?_, fun r hr => exec_of_rejected hi hfirst hctx hf hup hc hr⟩
    obtain ⟨t, hexec, hrunning, hbytes, -⟩ := exec_of_accepted hi hfirst hctx hf hup hc hr
    exact ⟨t, hexec, hrunning, hbytes⟩
  case operands =>
    intro pair q op k i f e x s hi hfirst hctx hup hc
    refine ⟨fun hready => ?ready, fun d cd ps ts hop hd hcd hps hts => ?gather⟩
    case ready =>
      have hop : op ≠ 0x06 := by
        rintro rfl
        cases hready
      have haccepts := granaryEffects_accepts hi hop s x
      obtain ⟨eff, hf⟩ := haccepts.answers hready
      obtain ⟨t, hexec, hrunning, -, -⟩ := exec_of_accepted hi hfirst hctx hf hup hc (haccepts.unrejected eff hf)
      exact ⟨t, eff.tiles, hexec, hrunning⟩
    case gather =>
      subst hop
      obtain ⟨rfl, rfl⟩ := gather_of_granaryEffects hi
      obtain ⟨eff, hf, hr, hwrites, rfl⟩ := State.gatherEff_of_tiles hd hcd hps hts
      obtain ⟨t, hexec, hrunning, -, hmem⟩ := exec_of_accepted hi hfirst hctx hf hup hc hr
      exact ⟨t, hexec, hrunning, hmem hwrites⟩

/-! ### Stacks that leave self-refresh (R209) -/

theorem wake_eq_foldl (ks : List Nat) (s : State) :
    wake ks s = ks.foldl (fun u k => u.setFld (stackPage .granary k) granaryStatus_selfRefresh 0) s := by
  fun_induction wake ks s with
  | case1 => rfl
  | case2 k ks s ih => rw [ih, List.foldl_cons]

theorem State.selfRefresh_setFld {s : State} (k j : Nat)
    (h : j = k ∨ s.fld (stackPage .granary j) granaryStatus_selfRefresh = 0) :
    (s.setFld (stackPage .granary k) granaryStatus_selfRefresh 0).fld (stackPage .granary j) granaryStatus_selfRefresh = 0 := by
  have hsame (p : Page) : (s.setFld p granaryStatus_selfRefresh 0).fld p granaryStatus_selfRefresh = 0 :=
    (s.fld_setFld p granaryStatus_selfRefresh 0 0 (by decide) (by decide)).trans (Nat.zero_mod _)
  by_cases haddr : fieldAddr (stackPage .granary j) granaryStatus_selfRefresh 0 = fieldAddr (stackPage .granary k) granaryStatus_selfRefresh 0
  case pos =>
    rw [State.fld, haddr]
    exact hsame _
  case neg =>
    rw [State.fld_setFld_far _ _ _ _ _ _ _ _ haddr]
    exact h.resolve_left fun e => haddr (e ▸ rfl)

/-- A stack that is woken, or that was awake, is not in self-refresh. -/
theorem selfRefresh_wake {ks : List Nat} {s : State} {j : Nat}
    (h : j ∈ ks ∨ s.fld (stackPage .granary j) granaryStatus_selfRefresh = 0) :
    (wake ks s).fld (stackPage .granary j) granaryStatus_selfRefresh = 0 := by
  fun_induction wake ks s with
  | case1 => exact h.resolve_left List.not_mem_nil
  | case2 k ks s ih =>
    refine ih ?_
    rw [List.mem_cons, or_assoc] at h
    rcases h with rfl | hks | hawake
    · exact .inr (State.selfRefresh_setFld j j (.inl rfl))
    · exact .inl hks
    · exact .inr (State.selfRefresh_setFld k j (.inr hawake))

theorem State.selfRefresh_wakeSpans {s : State} {j : Nat} (xs : List BitSpan)
    (h : s.fld (stackPage .granary j) granaryStatus_selfRefresh = 0) :
    (s.wakeSpans xs).fld (stackPage .granary j) granaryStatus_selfRefresh = 0 := by
  unfold State.wakeSpans
  split
  · exact h
  · exact selfRefresh_wake (.inr h)

/-! ### The start of a command (R209, R236) -/

@[simp] theorem Pair.queue_setQueue (x : Pair) (q : Nat) (es : List (QEntry 128)) : (x.setQueue q es).queue q = es :=
  SMap.getF_setF_same _ _ _ _

/-- How many of the entries behind a command belong to it: the page descriptors of a GATHER (R187). -/
def descsTaken (e : QEntry 128) : Nat := if (granCmd e.word).opcode = 0x06 then (granCmd e.word).nRows else 0

/-- The command that a queue's first entry becomes as it starts. -/
def State.startedRun (s : State) (q : Nat) (e : QEntry 128) (rest : List (QEntry 128)) : GranRun :=
  { q := q, run := e.run, word := e.word, descs := (rest.take (descsTaken e)).map (·.word), done := false, at_ := s.now }

/-- The pair with a command of a queue started, and the stacks that it needs awake. -/
def State.granStarted (s : State) (pair q : Nat) (e : QEntry 128) (rest : List (QEntry 128)) : State :=
  let y := (s.pair pair).setQueue q (rest.drop (descsTaken e))
  let run := s.startedRun q e rest
  let u := (s.setPair pair { y with running := y.running ++ [run] }).wakeStacks pair
  if (granCmd e.word).opcode = 0x20 then u else u.wakeSpans (touchSpans (u.effOf pair run))

section Start

variable {s : State} {pair q : Nat} {e : QEntry 128} {rest : List (QEntry 128)}

theorem execGranaryCommandStart_of_conflict (hq : (s.pair pair).queue q = e :: rest) (hmay : s.granMayStart pair q = true)
    (hok : granCmdFault e.word rest.length = none) (hconflict : s.granConflict pair q (s.startedRun q e rest) = true) :
    exec (.granaryCommandStart pair q) s = .next s := by
  show execGranaryCommandStart pair q s = _
  simp only [execGranaryCommandStart, hq, hmay, hok, Bool.not_true, Bool.false_eq_true, if_false]
  exact if_pos hconflict

theorem execGranaryCommandStart_starts (hq : (s.pair pair).queue q = e :: rest) (hmay : s.granMayStart pair q = true)
    (hok : granCmdFault e.word rest.length = none) (hconflict : s.granConflict pair q (s.startedRun q e rest) = false) :
    exec (.granaryCommandStart pair q) s
      = .next (if (granCmd e.word).opcode = 0x02 then (s.granStarted pair q e rest).takeParked pair else s.granStarted pair q e rest) := by
  show execGranaryCommandStart pair q s = _
  simp only [execGranaryCommandStart, hq, hmay, hok, Bool.not_true, Bool.false_eq_true, if_false]
  exact if_neg (Bool.eq_false_iff.mp hconflict)

end Start

section Started

variable (s : State) (pair q : Nat) (e : QEntry 128) (rest : List (QEntry 128))

/-- Beside the pair's own change, a start writes registers alone. -/
theorem State.granStarted_same_pair : ∃ y : Pair,
    y.running = (s.pair pair).running ++ [s.startedRun q e rest]
      ∧ y.queue q = rest.drop (descsTaken e)
      ∧ State.SameBut [.regs] (s.setPair pair y) (s.granStarted pair q e rest) := by
  let y := (s.pair pair).setQueue q (rest.drop (descsTaken e))
  have hwoken (x : Pair) : State.SameBut [.regs] (s.setPair pair x) ((s.setPair pair x).wakeStacks pair) :=
    State.wakeStacks_same (.refl _ _) (List.Subset.refl _)
  exact ⟨{ y with running := y.running ++ [s.startedRun q e rest] }, rfl, Pair.queue_setQueue _ q _,
    same_ite (hwoken _) (State.wakeSpans_same (hwoken _) (List.Subset.refl _))⟩

theorem State.granStarted_awake {j : Nat} (hj : j ∈ [2 * pair, 2 * pair + 1]) :
    (s.granStarted pair q e rest).fld (stackPage .granary j) granaryStatus_selfRefresh = 0 := by
  unfold State.granStarted
  extract_lets y run u
  have hu : u.fld (stackPage .granary j) granaryStatus_selfRefresh = 0 := selfRefresh_wake (.inl hj)
  split
  · exact hu
  · exact State.selfRefresh_wakeSpans _ hu

end Started

/-! ### A patrol pass (R259) -/

@[simp] theorem State.stack_setStack (s : State) (k : Nat) (x : StackMem) : (s.setStack k x).stack k = x := SMap.getF_setF_same _ _ _ _

theorem State.stack_setStack_other (s : State) {k j : Nat} (x : StackMem) (h : j ≠ k) : (s.setStack k x).stack j = s.stack j :=
  SMap.getF_setF_other _ _ _ h

@[simp] theorem State.fld_setStack (s : State) (k : Nat) (x : StackMem) (p : Page) (f : FieldRow) (i : Nat) :
    (s.setStack k x).fld p f i = s.fld p f i := rfl

@[simp] theorem ascending_nil : ascending [] = [] := rfl

@[simp] theorem ceEvents_nil (pass : Nat) (s : State) : ceEvents pass [] s = s := rfl

@[simp] theorem ueEvents_nil (onBad : Nat → State → State) (s : State) : ueEvents onBad [] s = s := rfl

/-- The interrupt that an event may bring writes no register of the dies. -/
theorem reg_attnRise {before after : State} {p : Page} {a : Nat} (hg : p.attnGroup - 32 < 32) (ha : croftBase ≤ a) :
    (attnRise before after p).reg a = after.reg a := by
  unfold attnRise
  extract_lets g
  split
  · split
    case h_1 f v hv => exact State.reg_msix _ v (State.attnVector_function hv ▸ hg) ha
    case h_2 => rfl
  · rfl

/-- The state of a patrol pass before its event, where no sector of the stack holds an error. -/
def State.patrolled (s : State) (k : Nat) : State :=
  ((wake [k] s).setStack k { s.stack k with passes := (s.stack k).passes + 1 }).bump (hbmPage k) scrubPassCount_count

section Patrol

variable {s : State} {k : Nat}

theorem State.patrol_of_clean (hweak : (s.stack k).weak = []) (hbad : (s.stack k).bad = []) :
    s.patrol k = (s.patrolled k).event (hbmPage k) hbm_evtRaw_scrubPass := by
  have hstack : (wake [k] s).stack k = s.stack k := (wake_same (.refl [.regs] s) (List.Subset.refl _)).stack (by decide) k
  have hclean (pass : Nat) (u : State) : (s.stack k).weak.foldl State.healSector
      (ueEvents (fun _ v => v) (ascending (s.stack k).bad) (ceEvents pass (ascending (s.stack k).weak) u)) = u := by
    rw [hweak, hbad, ascending_nil, ceEvents_nil, ueEvents_nil, List.foldl_nil]
  unfold State.patrol State.patrolled hbmPage
  dsimp only
  rw [hstack, hclean]

theorem State.fld_patrolled (s : State) (k : Nat) :
    (s.patrolled k).fld (hbmPage k) scrubPassCount_count = (s.fld (hbmPage k) scrubPassCount_count + 1) % 2 ^ 32 := by
  have hfar : (wake [k] s).fld (hbmPage k) scrubPassCount_count = s.fld (hbmPage k) scrubPassCount_count := by
    rw [wake_eq_foldl, List.foldl_cons, List.foldl_nil]
    refine State.fld_setFld_far s _ _ _ _ _ _ _ ?_
    simp [fieldAddr, Page.reg, Page.base, hbmPage, stackPage, scrubPassCount_count, granaryStatus_selfRefresh]
  rw [State.patrolled, State.fld_bump _ _ _ _ rfl rfl, State.fld_setStack, hfar]

theorem State.fld_event_scrubPass (u : State) (k : Nat) :
    (u.event (hbmPage k) hbm_evtRaw_scrubPass).fld (hbmPage k) scrubPassCount_count = u.fld (hbmPage k) scrubPassCount_count := by
  have hdie : croftBase ≤ fieldAddr (hbmPage k) scrubPassCount_count 0 := by
    simp only [fieldAddr, Page.reg, Page.base, hbmPage, stackPage, croftBase]
    omega
  refine (congrArg (getField · 31 0) (reg_attnRise (by simp [Page.attnGroup, hbmPage, stackPage]) hdie)).trans ?_
  exact State.fld_setFld_far u _ _ _ _ _ _ _ (by simp [fieldAddr, hbmPage, Page.reg, scrubPassCount_count, hbm_evtRaw_scrubPass])

theorem State.patrol_same_patrolled (hweak : (s.stack k).weak = []) (hbad : (s.stack k).bad = []) :
    State.SameBut [.regs, .out] ((wake [k] s).setStack k { s.stack k with passes := (s.stack k).passes + 1 }) (s.patrol k) := by
  rw [State.patrol_of_clean hweak hbad]
  exact State.event_same (State.bump_same (.refl _ _) (by decide)) (by decide)

end Patrol

/-- A pass over a stack without errors counts once, in the stack and in its register, and touches no other stack. -/
theorem State.patrol_counts {s : State} {k : Nat} (hweak : (s.stack k).weak = []) (hbad : (s.stack k).bad = []) :
    (s.patrol k).fld (hbmPage k) scrubPassCount_count = (s.fld (hbmPage k) scrubPassCount_count + 1) % 2 ^ 32
      ∧ (s.patrol k).stack k = { s.stack k with passes := (s.stack k).passes + 1 }
      ∧ ∀ j, j ≠ k → (s.patrol k).stack j = s.stack j := by
  have hsame := State.patrol_same_patrolled hweak hbad
  refine ⟨?count, ?own, fun j hj => ?other⟩
  case count => rw [State.patrol_of_clean hweak hbad, State.fld_event_scrubPass, State.fld_patrolled]
  case own => rw [hsame.stack (by decide), State.stack_setStack]
  case other =>
    rw [hsame.stack (by decide), State.stack_setStack_other _ _ hj]
    exact (wake_same (.refl [.regs] s) (List.Subset.refl _)).stack (by decide) j

/-- The param field of the loader's SCRUB tells which stack of the pair it patrols. -/
theorem patrolWord_stack {k : Nat} (hk : k < 16) : 2 * (k / 2) + (granCmd (patrolWord k)).param % 2 = k := by
  have hparam : ∀ k < 16, (granCmd (patrolWord k)).param = k % 2 := by decide
  rw [hparam k hk]
  omega

/-! ### The course of a command (R235 to R237) -/

section Course

variable {s : State} {pair q i : Nat} {e : GranRun}

theorem execGranaryNop_first (h : s.granFirst pair q 0x00 = some (i, e)) :
    exec (.granaryNop pair q) s = .next (s.setRunning pair i { e with done := true }) := by
  show execGranaryNop pair q s = _
  rw [execGranaryNop, h]

theorem execWrite_first (h : s.granFirst pair q 0x02 = some (i, e)) (hup : s.up = true) :
    exec (.write pair q) s = .next ((s.takeParked pair).writeSettle pair q) := by
  show execWrite pair q s = _
  simp [execWrite, h, hup]

theorem execGranarySignal_first (h : s.granFirst pair q 0x3C = some (i, e))
    (hfirst : (((s.pair pair).running.take i).any fun c => c.q == q) = false) :
    exec (.granarySignal pair q) s = .next (if s.signalOpen pair (granBellOp e.word) then
      ((s.setRunning pair i { e with done := true }).rankSignal e.run (granBellOp e.word)).granSignal pair q e.run (granBellOp e.word)
      else s) := by
  show execGranarySignal pair q s = _
  cases hopen : s.signalOpen pair (granBellOp e.word) <;> simp [execGranarySignal, h, hfirst, hopen]

theorem execGranaryWait_first {w : WaitOn} (h : s.granFirst pair q 0x3D = some (i, e)) (hw : s.granWait e.run e.at_ e.word = some w) :
    exec (.granaryWait pair q) s
      = .next (if (s.bell w.die w.bell).satisfies w.value then s.setRunning pair i { e with done := true }
        else s.errorWait (.queue pair q)) := by
  show execGranaryWait pair q s = _
  simp [execGranaryWait, h, hw]

theorem execScrub_range {y : GCtx} (h : s.granFirst pair q 0x20 = some (i, e)) (hctx : s.gctx pair e = some y) (hup : s.up = true)
    (hq : q ≠ 32) :
    exec (.scrub pair q) s = if rangePresent (leAt y.param 0 8) (leAt y.param 8 8) = true then
        .next (((s.wakeStacks pair).scrubRange (leAt y.param 0 8) (leAt y.param 8 8) 0).setRunning pair i { e with done := true })
      else .fault (.memoryHole (leAt y.param 0 8)) := by
  show execScrub pair q s = _
  simp [execScrub, h, hctx, hup, hq]

theorem execScrub_patrol {k : Nat} (h : s.granFirst pair 32 0x20 = some (i, e)) (hword : e.word = patrolWord k) (hk : k < 16)
    (hpair : k / 2 = pair) (hup : s.up = true) :
    exec (.scrub pair 32) s = .next ((s.patrol k).setRunning pair i { e with done := true }) := by
  have hstack : 2 * pair + (granCmd e.word).param % 2 = k := by rw [hword, ← hpair, patrolWord_stack hk]
  show execScrub pair 32 s = _
  simp [execScrub, h, hup, hstack]

/-- The command leaves its pair; beside that, the counters of the two stacks change. -/
theorem execGranaryCommandComplete_first
    (h : findIdxFrom (fun c => c.q == q && s.granComplete c) 0 (s.pair pair).running = some (i, e)) :
    ∃ t, exec (.granaryCommandComplete pair q) s = .next t ∧ (t.pair pair).running = (s.pair pair).running.eraseIdx i
      ∧ State.SameBut [.pairs, .regs] s t := by
  have hsame (u : State) : State.SameBut [.regs] u
      ((u.bump64 (stackPage .granary (2 * pair)) cmdCountLo_count cmdCountHi_count).bump64
        (stackPage .granary (2 * pair + 1)) cmdCountLo_count cmdCountHi_count) :=
    State.bump64_same (State.bump64_same (.refl _ u) (List.Subset.refl _)) (List.Subset.refl _)
  have hexec : exec (.granaryCommandComplete pair q) s = execGranaryCommandComplete pair q s := rfl
  simp only [hexec, execGranaryCommandComplete, h]
  refine ⟨_, rfl, ?running, ?frame⟩
  case running => rw [(hsame _).pair (by decide), State.pair_setPair]
  case frame => exact (State.setPair_same (.refl _ s) (by decide)).trans ((hsame _).mono (by decide))

end Course

/-- Settles O58: each clause is what the model does with the first command that its case describes. -/
theorem granaryQueuesRunInOrder : Obligations.GranaryQueuesRunInOrder := by
  intro pair q i s x
  refine ⟨?start, fun e h => execGranaryNop_first h, fun e h hup => execWrite_first h hup,
    fun e h hfirst => execGranarySignal_first h hfirst, fun e w h hw => execGranaryWait_first h hw, ?scrub, ?patrol,
    fun e h => execGranaryCommandComplete_first h⟩
  case start =>
    intro e rest hq hmay hok n run
    refine ⟨fun hfree => ?_, fun hconflict => execGranaryCommandStart_of_conflict hq hmay hok hconflict⟩
    obtain ⟨y, hrunning, hqueue, hsame⟩ := s.granStarted_same_pair pair q e rest
    have hpair : (s.granStarted pair q e rest).pair pair = y := by rw [hsame.pair (by decide), State.pair_setPair]
    refine ⟨s.granStarted pair q e rest, _, execGranaryCommandStart_starts hq hmay hok hfree, ?_, ?_, ?_, rfl, ?_, ?_⟩
    · rw [hpair]
      exact hrunning
    · rw [hpair]
      exact hqueue
    · exact (State.setPair_same (.refl _ s) (by decide)).trans (hsame.mono (by decide))
    · exact s.granStarted_awake pair q e rest (by simp)
    · exact s.granStarted_awake pair q e rest (by simp)
  case scrub =>
    intro e y h hctx hup hq start len
    rw [execScrub_range h hctx hup hq]
    exact ⟨fun hin => if_pos hin, fun hout => if_neg (Bool.eq_false_iff.mp hout)⟩
  case patrol =>
    intro e k h hword hk hpair hup
    exact ⟨execScrub_patrol h hword hk hpair hup, State.patrol_counts⟩

end Sys2Proof.Machine

/-! SUPPORT. The settlements of the family of 10_memory.md: the invariant of every step, register writes of the host, tests and
events of the stacks, the PACKAGE reset, register reads, Field map commands, and the host's accesses to HBM. -/

namespace Sys2Proof.Machine

/-! ### What every command keeps -/

/-- Each meaning keeps the queue, the canonical forms, the clock, the fuses, the minimum security versions and the Ledger's
numbers; the loss of an island rail, which gives Ledger numbers again (log 29), is the one command apart. -/
theorem exec_keepsOut {c : Instr} (hc : c ≠ .islandRailLoss) (s : State) : KeepsOut s (exec c s) := by
  cases c with
  | mainOkRise => exact execMainOkRise_keeps (.refl s)
  | mainOkFall => exact execMainOkFall_keeps (.refl s)
  | islandRailLoss => exact absurd rfl hc
  | perstNAssert => exact execPerstNAssert_keeps (.refl s)
  | perstNRelease => exact execPerstNRelease_keeps (.refl s)
  | hbmTrainingComplete => exact execHbmTrainingComplete_keeps (.refl s)
  | functionLevelReset => exact execFunctionLevelReset_keeps (.refl s)
  | wakeN => exact execWakeN_keeps (.refl s)
  | nwWakeTransit => exact execNwWakeTransit_keeps (.refl s)
  | thermalTrip => exact execThermalTrip_keeps (.refl s)
  | supplyDroop => exact execSupplyDroop_keeps (.refl s)
  | temporaryFenceRelease => exact execTemporaryFenceRelease_keeps (.refl s)
  | runTimeFault => exact execRunTimeFault_keeps (.refl s)
  | stepRestart => exact execStepRestart_keeps (.refl s)
  | softRepair => exact execSoftRepair_keeps (.refl s)
  | patrolScrub => exact execPatrolScrub_keeps (.refl s)
  | selfRefreshEntry => exact execSelfRefreshEntry_keeps (.refl s)
  | duskEntry => exact execDuskEntry_keeps (.refl s)
  | twilight => exact execTwilight_keeps (.refl s)
  | daylight => exact execDaylight_keeps (.refl s)
  | nightwatchRequest => exact execNightwatchRequest_keeps (.refl s)
  | nightwatchEntry => exact execNightwatchEntry_keeps (.refl s)
  | powerCapWrite => exact execPowerCapWrite_keeps (.refl s)
  | thermalCapWrite => exact execThermalCapWrite_keeps (.refl s)
  | capApply => exact execCapApply_keeps (.refl s)
  | limiterAclkChange => exact execLimiterAclkChange_keeps (.refl s)
  | retest => exact execRetest_keeps (.refl s)
  | deadlineTransit => exact execDeadlineTransit_keeps (.refl s)
  | startTransit => exact execStartTransit_keeps (.refl s)
  | pieceDispatch => exact execPieceDispatch_keeps (.refl s)
  | stepStart => exact execStepStart_keeps (.refl s)
  | stepCommit => exact execStepCommit_keeps (.refl s)
  | heldCommit => exact execHeldCommit_keeps (.refl s)
  | barrierRelease => exact execBarrierRelease_keeps (.refl s)
  | ringTail => exact execRingTail_keeps (.refl s)
  | cmplHead => exact execCmplHead_keeps (.refl s)
  | ringCtrlWrite => exact execRingCtrlWrite_keeps (.refl s)
  | ticketFetch => exact execTicketFetch_keeps (.refl s)
  | ticketHoldRelease => exact execTicketHoldRelease_keeps (.refl s)
  | pass => exact execPass_keeps (.refl s)
  | replayPass => exact execReplayPass_keeps (.refl s)
  | instructionRetire => exact execInstructionRetire_keeps (.refl s)
  | fenceIssue => exact execFenceIssue_keeps (.refl s)
  | drain => exact execDrain_keeps (.refl s)
  | rampDown => exact execRampDown_keeps (.refl s)
  | rampUp => exact execRampUp_keeps (.refl s)
  | rampStep => exact execRampStep_keeps (.refl s)
  | rampGrant => exact execRampGrant_keeps (.refl s)
  | tileArrival => exact execTileArrival_keeps (.refl s)
  | multicast => exact execMulticast_keeps (.refl s)
  | sieveNop => exact execSieveNop_keeps (.refl s)
  | fma => exact execFma_keeps (.refl s)
  | add => exact execAdd_keeps (.refl s)
  | mul => exact execMul_keeps (.refl s)
  | min => exact execMin_keeps (.refl s)
  | max => exact execMax_keeps (.refl s)
  | cmpLt => exact execCmpLt_keeps (.refl s)
  | cmpEq => exact execCmpEq_keeps (.refl s)
  | select => exact execSelect_keeps (.refl s)
  | copysign => exact execCopysign_keeps (.refl s)
  | exp2 => exact execExp2_keeps (.refl s)
  | log2 => exact execLog2_keeps (.refl s)
  | expE => exact execExpE_keeps (.refl s)
  | reciprocal => exact execReciprocal_keeps (.refl s)
  | rsqrt => exact execRsqrt_keeps (.refl s)
  | tanh => exact execTanh_keeps (.refl s)
  | sigmoid => exact execSigmoid_keeps (.refl s)
  | silu => exact execSilu_keeps (.refl s)
  | gelu => exact execGelu_keeps (.refl s)
  | gumbel => exact execGumbel_keeps (.refl s)
  | convert => exact execConvert_keeps (.refl s)
  | rsum => exact execRsum_keeps (.refl s)
  | rmax => exact execRmax_keeps (.refl s)
  | argmax => exact execArgmax_keeps (.refl s)
  | smaxRun => exact execSmaxRun_keeps (.refl s)
  | smaxExact => exact execSmaxExact_keeps (.refl s)
  | layernorm => exact execLayernorm_keeps (.refl s)
  | rmsnorm => exact execRmsnorm_keeps (.refl s)
  | groupnorm => exact execGroupnorm_keeps (.refl s)
  | sieveSignal => exact execSieveSignal_keeps (.refl s)
  | sieveWait => exact execSieveWait_keeps (.refl s)
  | waitSatisfied => exact execWaitSatisfied_keeps (.refl s)
  | bellWaitTimeout => exact execBellWaitTimeout_keeps (.refl s)
  | gateNop => exact execGateNop_keeps (.refl s)
  | cscIn => exact execCscIn_keeps (.refl s)
  | conv => exact execConv_keeps (.refl s)
  | cscOut => exact execCscOut_keeps (.refl s)
  | gateSignal => exact execGateSignal_keeps (.refl s)
  | gateWait => exact execGateWait_keeps (.refl s)
  | granaryCommandStart => exact execGranaryCommandStart_keeps (.refl s)
  | granaryNop => exact execGranaryNop_keeps (.refl s)
  | read => exact execRead_keeps (.refl s)
  | write => exact execWrite_keeps (.refl s)
  | tileArrivalAtPair => exact execTileArrivalAtPair_keeps (.refl s)
  | copy => exact execCopy_keeps (.refl s)
  | fill => exact execFill_keeps (.refl s)
  | gather => exact execGather_keeps (.refl s)
  | treeAdd => exact execTreeAdd_keeps (.refl s)
  | redExp => exact execRedExp_keeps (.refl s)
  | redEmax => exact execRedEmax_keeps (.refl s)
  | redFix => exact execRedFix_keeps (.refl s)
  | redAdd => exact execRedAdd_keeps (.refl s)
  | redCheck => exact execRedCheck_keeps (.refl s)
  | redOut => exact execRedOut_keeps (.refl s)
  | optAdamw => exact execOptAdamw_keeps (.refl s)
  | scrub => exact execScrub_keeps (.refl s)
  | crc => exact execCrc_keeps (.refl s)
  | granarySignal => exact execGranarySignal_keeps (.refl s)
  | granaryWait => exact execGranaryWait_keeps (.refl s)
  | granaryCommandComplete => exact execGranaryCommandComplete_keeps (.refl s)
  | signalSet => exact execSignalSet_keeps (.refl s)
  | signalAdd => exact execSignalAdd_keeps (.refl s)
  | signalMax => exact execSignalMax_keeps (.refl s)
  | signalError => exact execSignalError_keeps (.refl s)
  | bellSet => exact execBellSet_keeps (.refl s)
  | bellAdd => exact execBellAdd_keeps (.refl s)
  | reeveHeartbeat _ _ v => exact execReeveHeartbeat_keeps (x2 := v) (.refl s)
  | reeveWatchdogExpiry => exact execReeveWatchdogExpiry_keeps (.refl s)
  | map => exact execMap_keeps (.refl s)
  | unmap => exact execUnmap_keeps (.refl s)
  | fieldCmdComplete => exact execFieldCmdComplete_keeps (.refl s)
  | bar2Read => exact execBar2Read_keeps (.refl s)
  | bar2Write => exact execBar2Write_keeps (.refl s)
  | dmaTail => exact execDmaTail_keeps (.refl s)
  | dmaCtrlWrite => exact execDmaCtrlWrite_keeps (.refl s)
  | dmaDescriptor => exact execDmaDescriptor_keeps (.refl s)
  | dmaComplete => exact execDmaComplete_keeps (.refl s)
  | linkDown => exact execLinkDown_keeps (.refl s)
  | ptpSync => exact execPtpSync_keeps (.refl s)
  | ptpArp => exact execPtpArp_keeps (.refl s)
  | announceTimeout => exact execAnnounceTimeout_keeps (.refl s)
  | frameRefEdge => exact execFrameRefEdge_keeps (.refl s)
  | frameRefMissing => exact execFrameRefMissing_keeps (.refl s)
  | holdoverLimit => exact execHoldoverLimit_keeps (.refl s)
  | merCtrlSourceWrite => exact execMerCtrlSourceWrite_keeps (.refl s)
  | merRateWrite => exact execMerRateWrite_keeps (.refl s)
  | merSetLo => exact execMerSetLo_keeps (.refl s)
  | merFrameNextLo => exact execMerFrameNextLo_keeps (.refl s)
  | merNowLo => exact execMerNowLo_keeps (.refl s)
  | almIndex => exact execAlmIndex_keeps (.refl s)
  | almCtrlWrite => exact execAlmCtrlWrite_keeps (.refl s)
  | cueDataWrite => exact execCueDataWrite_keeps (.refl s)
  | cueGroupOwner => exact execCueGroupOwner_keeps (.refl s)
  | cueDeferredApply => exact execCueDeferredApply_keeps (.refl s)
  | cuePortRead => exact execCuePortRead_keeps (.refl s)
  | phyLock => exact execPhyLock_keeps (.refl s)
  | phyLockLost => exact execPhyLockLost_keeps (.refl s)
  | retrain => exact execRetrain_keeps (.refl s)
  | ident => exact execIdent_keeps (.refl s)
  | probe => exact execProbe_keeps (.refl s)
  | echo => exact execEcho_keeps (.refl s)
  | data => exact execData_keeps (.refl s)
  | bell => exact execBell_keeps (.refl s)
  | jobStop => exact execJobStop_keeps (.refl s)
  | withdraw => exact execWithdraw_keeps (.refl s)
  | nak => exact execNak_keeps (.refl s)
  | replayTimeout => exact execReplayTimeout_keeps (.refl s)
  | flitTransmit => exact execFlitTransmit_keeps (.refl s)
  | routeCmdLoad => exact execRouteCmdLoad_keeps (.refl s)
  | routeLoadComplete => exact execRouteLoadComplete_keeps (.refl s)
  | bind => exact execBind_keeps (.refl s)
  | unbind => exact execUnbind_keeps (.refl s)
  | ffKatStart => exact execFfKatStart_keeps (.refl s)
  | ffKatDone => exact execFfKatDone_keeps (.refl s)
  | hbmMarginStart => exact execHbmMarginStart_keeps (.refl s)
  | hbmMarginDone => exact execHbmMarginDone_keeps (.refl s)
  | pageKey => exact execPageKey_keeps (.refl s)
  | pageOwnerWrite => exact execPageOwnerWrite_keeps (.refl s)
  | setViewWrite => exact execSetViewWrite_keeps (.refl s)
  | clearViewWrite => exact execClearViewWrite_keeps (.refl s)
  | faultCodeClear => exact execFaultCodeClear_keeps (.refl s)
  | snapCtrlTake => exact execSnapCtrlTake_keeps (.refl s)
  | sqSnapAll => exact execSqSnapAll_keeps (.refl s)
  | counterLoRead => exact execCounterLoRead_keeps (.refl s)
  | fieldMissRead => exact execFieldMissRead_keeps (.refl s)
  | faultFenceWrite => exact execFaultFenceWrite_keeps (.refl s)
  | dieCmdWrite => exact execDieCmdWrite_keeps (.refl s)
  | registerWrite => exact execRegisterWrite_keeps (.refl s)
  | regRead => exact execRegRead_keeps (.refl s)
  | regWrite => exact execRegWrite_keeps (.refl s)
  | reset => exact execReset_keeps (.refl s)
  | ledgerRead => exact execLedgerRead_keeps (.refl s)
  | commitSvn => exact execCommitSvn_keeps (.refl s)
  | setEndpointId => exact execSetEndpointId_keeps (.refl s)
  | entdaa => exact execEntdaa_keeps (.refl s)
  | setdasa => exact execSetdasa_keeps (.refl s)
  | getTid => exact execGetTid_keeps (.refl s)
  | getPldmVersion => exact execGetPldmVersion_keeps (.refl s)
  | getPldmTypes => exact execGetPldmTypes_keeps (.refl s)
  | getPldmCommands => exact execGetPldmCommands_keeps (.refl s)
  | getPdrRepositoryInfo => exact execGetPdrRepositoryInfo_keeps (.refl s)
  | getPdr => exact execGetPdr_keeps (.refl s)
  | getSensorReading => exact execGetSensorReading_keeps (.refl s)
  | getStateSensorReadings => exact execGetStateSensorReadings_keeps (.refl s)
  | setNumericEffecterValue => exact execSetNumericEffecterValue_keeps (.refl s)
  | getNumericEffecterValue => exact execGetNumericEffecterValue_keeps (.refl s)
  | requestUpdate => exact execRequestUpdate_keeps (.refl s)
  | verifyComplete => exact execVerifyComplete_keeps (.refl s)
  | activateFirmware => exact execActivateFirmware_keeps (.refl s)
  | ledgerFlush => exact execLedgerFlush_keeps (.refl s)
  | hostLinkUp => exact execHostLinkUp_keeps (.refl s)
  | announce => exact execAnnounce_keeps (.refl s)
  | followUp => exact execFollowUp_keeps (.refl s)
  | delayResponse => exact execDelayResponse_keeps (.refl s)
  | idleFlit => exact execIdleFlit_keeps (.refl s)
  | refclkLoss => exact execRefclkLoss_keeps (.refl s)
  | islandPowerOn => exact execIslandPowerOn_keeps (.refl s)
  | limiterAclkRaise => exact execLimiterAclkRaise_keeps (.refl s)
  | extest => exact execExtest_keeps (.refl s)

/-- Whether a part's fuses are legal is a matter of its grade and its Looms (R19). -/
theorem Fuses.ok_withMinSvn (x : Fuses) (svn : List Nat) : { x with minSvn := svn }.ok = x.ok := rfl

theorem State.Keeps.inv {a b : State} (h : State.Keeps a b) (hi : State.Inv a) : State.Inv b := by
  obtain ⟨hmem, hregs, hnight, hfuses⟩ := hi
  refine ⟨h.mem hmem, h.regs hregs, h.night hnight, ?_⟩
  rw [h.fuses, Fuses.ok_withMinSvn]
  exact hfuses

theorem exec_keeps_inv {c : Instr} {s t : State} (hi : State.Inv s) (he : exec c s = .next t) : State.Inv t := by
  by_cases hc : c = .islandRailLoss
  case pos =>
    subst hc
    exact (execIslandRailLoss_keeps he).inv hi
  case neg => exact (exec_keepsOut hc s t he).inv hi

/-- Settles O4: what a step keeps of the state (`State.Keeps`) holds the invariant; a step is a command, or the clock's tick. -/
theorem everyStepKeepsInvariant : Obligations.EveryStepKeepsInvariant := by
  intro s t hi he
  unfold step at he
  split at he
  case h_1 =>
    cases he
    exact (State.passTo_keeps (.refl s)).inv hi
  case h_2 c rest _ => exact exec_keeps_inv (s := s.withPending rest) hi he
/-! ### Field map commands (R251, R252, R254) -/

/-- A field is read from the registers alone. -/
@[simp] theorem State.fld_withFieldReqs (s : State) (v : SMap (Option FieldReq)) (p : Page) (f : FieldRow) (i : Nat) :
    (s.withFieldReqs v).fld p f i = s.fld p f i := rfl

@[simp] theorem State.fld_withFields (s : State) (v : SMap (Option FieldPage)) (p : Page) (f : FieldRow) (i : Nat) :
    (s.withFields v).fld p f i = s.fld p f i := rfl

theorem State.withFields_of_eq {s : State} {v : SMap (Option FieldPage)} (h : s.fields = v) : s.withFields v = s := by
  subst h
  rfl

theorem State.fieldResult_lt (s : State) (r : FieldReq) : s.fieldResult r < 8 := by
  unfold State.fieldResult
  dsimp only
  repeat' split
  all_goals omega

/-- FIELD_STATUS as a completed command leaves it: not busy, with the result. -/
def State.fieldStatusDone (s : State) (f n : Nat) : State :=
  (s.setFld (hostPage f) fieldStatus_busy 0).setFld (hostPage f) fieldStatus_result n

theorem State.fieldStatusDone_same (s : State) (f n : Nat) : State.SameBut [.regs] s (s.fieldStatusDone f n) :=
  State.setFld_same (State.setFld_same (.refl _ s) (List.Subset.refl _)) (List.Subset.refl _)

theorem State.fieldStatusDone_busy (s : State) (f n : Nat) : (s.fieldStatusDone f n).fld (hostPage f) fieldStatus_busy = 0 := by
  unfold State.fieldStatusDone
  rw [State.fld_setFld_near _ (hostPage f) fieldStatus_busy fieldStatus_result n 0 0 rfl (by decide) (by decide) (by decide)
    (by decide)]
  exact (State.fld_setFld s _ _ 0 _ (by decide) (by decide)).trans (Nat.zero_mod _)

theorem State.fieldStatusDone_result (s : State) (f : Nat) {n : Nat} (hn : n < 8) :
    (s.fieldStatusDone f n).fld (hostPage f) fieldStatus_result = n := by
  exact (State.fld_setFld _ _ _ n _ (by decide) (by decide)).trans (Nat.mod_eq_of_lt hn)

/-- The Field maps after a command: with result 0 the page it names is mapped or unmapped. -/
def State.fieldsDone (s : State) (r : FieldReq) : SMap (Option FieldPage) :=
  if s.fieldResult r = 0 then
    SMap.set none (r.fn * vaPages + r.va) (if r.op = 1 then some ⟨r.pa, r.rd, r.wr⟩ else none) s.fields
  else s.fields

theorem State.get_fieldsDone (s : State) (r : FieldReq) (k : Nat) :
    SMap.get none (s.fieldsDone r) k = if s.fieldResult r = 0 ∧ k = r.fn * vaPages + r.va then
      (if r.op = 1 then some ⟨r.pa, r.rd, r.wr⟩ else none) else SMap.get none s.fields k := by
  unfold State.fieldsDone
  by_cases hres : s.fieldResult r = 0
  · simp [hres, SMap.getF_setF]
  · simp [hres]

theorem execFieldCmdComplete_eq {s : State} {f : Nat} {r : FieldReq} (h : SMap.get none s.fieldReqs f = some r) :
    exec (.fieldCmdComplete f) s
      = .next (((s.withFieldReqs (SMap.set none f none s.fieldReqs)).fieldStatusDone f (s.fieldResult r)).withFields (s.fieldsDone r)) := by
  have hfields := (State.fieldStatusDone_same (s.withFieldReqs (SMap.set none f none s.fieldReqs)) f (s.fieldResult r)).fields (by decide)
  show execFieldCmdComplete f s = _
  unfold execFieldCmdComplete
  rw [h]
  unfold State.fieldStatusDone at hfields ⊢
  dsimp only
  rw [hfields, State.withFieldReqs_fields, State.fieldsDone]
  split
  case isTrue => rfl
  case isFalse => exact congrArg Host.Outcome.next (State.withFields_of_eq hfields).symm

theorem fieldCmd_completes {s : State} {f : Nat} {r : FieldReq} (h : SMap.get none s.fieldReqs f = some r) :
    ∃ t, exec (.fieldCmdComplete f) s = .next t ∧ SMap.get none t.fieldReqs f = none ∧ t.fld (hostPage f) fieldStatus_busy = 0
      ∧ t.fld (hostPage f) fieldStatus_result = s.fieldResult r ∧ t.fields = s.fieldsDone r := by
  refine ⟨_, execFieldCmdComplete_eq h, ?_, ?_, ?_, rfl⟩
  · rw [State.withFields_fieldReqs, (State.fieldStatusDone_same _ _ _).fieldReqs (by decide)]
    exact SMap.getF_setF_same (fun _ => none) s.fieldReqs f none
  · rw [State.fld_withFields, State.fieldStatusDone_busy]
  · rw [State.fld_withFields, State.fieldStatusDone_result _ _ (s.fieldResult_lt r)]

/-- What the checks of a MAP that passes have found. -/
theorem State.fieldResult_map_eq_zero {s : State} {r : FieldReq} (hop : r.op = 1) (h : s.fieldResult r = 0) :
    s.functions.contains r.fn = true ∧ SMap.get none s.fields (r.fn * vaPages + r.va) = none ∧ s.pageTaken r.pa = false := by
  have hfn : r.fn ∈ s.functions := by
    refine Decidable.byContradiction fun hn => ?_
    simp [State.fieldResult, hn] at h
  have hold : (SMap.get none s.fields (r.fn * vaPages + r.va)).isSome = false := by
    refine Bool.eq_false_iff.mpr fun hs => ?_
    simp [State.fieldResult, hfn, hop, hs] at h
  refine ⟨List.contains_iff_mem.mpr hfn, by simpa using hold, Bool.eq_false_iff.mpr fun ht => ?_⟩
  simp [State.fieldResult, hfn, hop, hold, ht] at h

theorem State.pageTaken_eq_false {s : State} {pa : Nat} (h : s.pageTaken pa = false) :
    pa % 65536 < 48640 ∧ s.fld (sqPage .loader) kvPool_pages (pa / 65536) ≤ pa % 65536
      ∧ ∀ e, e ∈ s.fields → ∀ p, e.2 = some p → p.pa ≠ pa := by
  simp only [State.pageTaken, Bool.or_eq_false_iff, decide_eq_false_iff_not, Nat.not_le, Nat.not_lt, List.any_eq_false] at h
  obtain ⟨⟨hwindow, hpool⟩, hmaps⟩ := h
  refine ⟨hwindow, hpool, fun e he p hp hpa => hmaps e he ?_⟩
  simp [hp, hpa]

/-- Settles O33: a completion writes FIELD_STATUS and the map at the page that it names, and the checks of a MAP are those of
`State.fieldResult`. -/
theorem fieldCommandsComplete : Obligations.FieldCommandsComplete := by
  refine ⟨fun f r s h => ?completes, fun r s hop hres => ?checked⟩
  case completes =>
    obtain ⟨t, hexec, hreq, hbusy, hresult, hfields⟩ := fieldCmd_completes h
    exact ⟨t, hexec, hreq, hbusy, hresult, fun k => by rw [hfields, s.get_fieldsDone]⟩
  case checked =>
    obtain ⟨hfn, hfree, htaken⟩ := State.fieldResult_map_eq_zero hop hres
    exact ⟨hfn, hfree, State.pageTaken_eq_false htaken⟩

/-! ### PACKAGE reset (R447 to R449) -/

/-- What a PACKAGE reset leaves of the jobs, the units and the memory; `keep` is the retention of HBM and the Field maps. -/
def PackageEnds (keep : Bool) (s t : State) : Prop :=
  t.mem = (if keep then s.mem else []) ∧ t.fields = (if keep then s.fields else []) ∧ t.loader.jobs = [] ∧ t.bells = []
    ∧ t.alm = [] ∧ t.sram = [] ∧ t.pairs = [] ∧ t.dma = [] ∧ t.board.link = false

theorem PackageEnds.withBoard {keep : Bool} {s t : State} (h : PackageEnds keep s t) {b : Board} (hb : b.link = false) :
    PackageEnds keep s (t.withBoard b) := by
  obtain ⟨hmem, hfields, hjobs, hbells, halm, hsram, hpairs, hdma, -⟩ := h
  exact ⟨hmem, hfields, hjobs, hbells, halm, hsram, hpairs, hdma, hb⟩

theorem ledgerAdd_board (s : State) (kind code : Nat) (page : Option Page) (unit info job function step extra : Nat) :
    (s.ledgerAdd kind code page unit info job function step extra).board = s.board :=
  (State.ledgerAdd_same (.refl _ s) (List.Subset.refl _)).board (by decide)

theorem bootFail_board (s : State) (c : Nat) : (s.bootFail c).board = s.board :=
  (ledgerAdd_board _ _ _ _ _ _ _ _ _ _).trans (alert_board s wmAlert_bootFail)

/-- A boot that fails holds the package in RECOVERY, and changes nothing else of the board. -/
theorem bootComp_board (s : State) (c : Nat) : ∃ r, (s.bootComp c).board = { s.board with recovery := r } := by
  unfold State.bootComp
  split
  case h_1 i fail _ =>
    refine ⟨s.board.recovery, ?_⟩
    cases fail
    · rfl
    · exact bootFail_board _ c
  case h_2 => exact ⟨true, bootFail_board _ c⟩

/-- The state that a PACKAGE reset wipes: registers at their reset values, soft repairs lost. -/
def State.packageCleared (s : State) (keep : Bool) (perst watchman : Nat) : State :=
  ((s.loseRepairs.clearRegs clrP fun _ => true).clearGuards fun p => p.type != .watchman).setCause perst watchman (if keep then 1 else 0)

theorem State.packageCleared_same (s : State) (keep : Bool) (perst watchman : Nat) :
    State.SameBut [.regs, .guards, .latch, .snaps, .hbmStacks] s (s.packageCleared keep perst watchman) :=
  State.setCause_same (State.clearGuards_same (State.clearRegs_same (State.loseRepairs_same (.refl _ s) (by decide)) (by decide))
    (by decide)) (by decide)

/-- The Reeve's boot, where another image was activated: the last act of a PACKAGE reset but its Ledger record. -/
def State.reeveBooted (s : State) : State :=
  if s.wm.chosen.getD compReeve 0 = s.wm.running.getD compReeve 0 then s else s.bootComp compReeve

theorem State.reeveBooted_board (s : State) : ∃ r, s.reeveBooted.board = { s.board with recovery := r } := by
  unfold State.reeveBooted
  split
  · exact ⟨s.board.recovery, rfl⟩
  · exact bootComp_board s compReeve

theorem State.reeveBooted_same (s : State) : State.SameBut [.board, .regs, .ledger, .wm, .out] s s.reeveBooted :=
  same_ite (.refl _ s) (State.bootComp_same (.refl _ s) (List.Subset.refl _))

/-- The wiped state, before the Reeve's boot. -/
def State.packageWiped (s : State) (keep : Bool) (perst watchman : Nat) : State :=
  ((s.packageCleared keep perst watchman).packageWipe keep).withOut { (s.packageCleared keep perst watchman).out with held := [] }

theorem packageReset_eq (s : State) (retain : Bool) (perst watchman : Nat) :
    s.packageReset retain perst watchman
      = (s.packageWiped (retain && !s.board.squareFail) perst watchman).reeveBooted.ledgerAdd 7 80 none 32 0 0 0 0 0 := rfl

theorem packageReset_same_wiped (s : State) (retain : Bool) (perst watchman : Nat) :
    State.SameBut [.board, .regs, .ledger, .wm, .out] (s.packageWiped (retain && !s.board.squareFail) perst watchman)
      (s.packageReset retain perst watchman) := by
  rw [packageReset_eq]
  exact State.ledgerAdd_same (State.reeveBooted_same _) (by decide)

/-- After a PACKAGE reset the link is down, HBM trains, and the lands are as they were. -/
theorem packageReset_board (s : State) (retain : Bool) (perst watchman : Nat) :
    (s.packageReset retain perst watchman).board.link = false ∧ (s.packageReset retain perst watchman).board.training = true
      ∧ (s.packageReset retain perst watchman).board.perst = s.board.perst := by
  obtain ⟨r, hr⟩ := (s.packageWiped (retain && !s.board.squareFail) perst watchman).reeveBooted_board
  have hboard := (s.packageCleared_same (retain && !s.board.squareFail) perst watchman).board (by decide)
  rw [packageReset_eq, ledgerAdd_board, hr, ← hboard]
  exact ⟨rfl, rfl, rfl⟩

theorem packageReset_ends (s : State) (retain : Bool) (perst watchman : Nat) :
    PackageEnds (retain && !s.board.squareFail) s (s.packageReset retain perst watchman) := by
  generalize hkeep : (retain && !s.board.squareFail) = keep
  have hcleared := s.packageCleared_same keep perst watchman
  have hsame := packageReset_same_wiped s retain perst watchman
  rw [hkeep] at hsame
  have hmem : (s.packageWiped keep perst watchman).mem = if keep then s.mem else [] := by
    rw [← hcleared.mem (by decide)]
    rfl
  have hfields : (s.packageWiped keep perst watchman).fields = if keep then s.fields else [] := by
    rw [← hcleared.fields (by decide)]
    rfl
  exact ⟨(hsame.mem (by decide)).trans hmem, (hsame.fields (by decide)).trans hfields,
    congrArg Loader.jobs (hsame.loader (by decide)), hsame.bells (by decide), hsame.alm (by decide), hsame.sram (by decide),
    hsame.pairs (by decide), hsame.dma (by decide), (packageReset_board s retain perst watchman).1⟩

theorem execPerstNAssert_resets {s : State} (hisland : s.board.island = true) (hmain : s.board.mainOk = true)
    (hperst : s.board.perst = false) : exec .perstNAssert s
      = .next ((s.withBoard { s.board with perst := true, perstPark := false }).packageReset (s.fld (sqPage .power) powerCtrl_retain == 1) 1 0) := by
  show execPerstNAssert s = _
  unfold execPerstNAssert
  rw [if_neg (by simp [hperst])]
  exact if_pos (by simp [hisland, hmain])

theorem execReset_package {s : State} (die : Nat) (retain : Bool) (hisland : s.board.island = true) (hmain : s.board.mainOk = true)
    (hrecovery : s.board.recovery = false) (hheld : s.board.held = false) :
    exec (.reset 0 die retain) s = .next ((s.respond 0 []).packageReset retain 0 1) := by
  show execReset 0 die retain s = _
  simp [execReset, hisland, hmain, hrecovery, hheld]

theorem execMainOkFall_resets {s : State} (hisland : s.board.island = true) (hmain : s.board.mainOk = true)
    (htraining : s.board.training = false) :
    let u := s.packageReset false 0 0
    exec .mainOkFall s = .next (u.withBoard { u.board with mainOk := false, held := true, training := false }) := by
  show execMainOkFall s = _
  simp [execMainOkFall, hisland, hmain, htraining]

/-- Settles O19: each of the three events is a PACKAGE reset, with the retention of POWER_CTRL, of its operand, or none. -/
theorem packageResetKeepsHbmOnlyWithRetain : Obligations.PackageResetKeepsHbmOnlyWithRetain := by
  intro retain die s hisland hmain after
  refine ⟨fun hperst => ?perst, fun hrecovery hheld => ?reset, fun htraining => ?fall⟩
  case perst =>
    obtain ⟨-, htraining, hp⟩ := packageReset_board (s.withBoard { s.board with perst := true, perstPark := false })
      (s.fld (sqPage .power) powerCtrl_retain == 1) 1 0
    exact ⟨_, execPerstNAssert_resets hisland hmain hperst, hp, htraining, packageReset_ends _ _ 1 0⟩
  case reset =>
    exact ⟨_, execReset_package die retain hisland hmain hrecovery hheld, (packageReset_board _ retain 0 1).2.1,
      packageReset_ends (s.respond 0 []) retain 0 1⟩
  case fall =>
    exact ⟨_, execMainOkFall_resets hisland hmain htraining, rfl, rfl,
      (packageReset_ends s false 0 0).withBoard (packageReset_board s false 0 0).1⟩

/-! ### Register reads (R255, R341, R395, R429) -/

theorem SMap.get_set_same {α : Type} [DecidableEq α] (d : α) (m : SMap α) (k : Nat) (v : α) : SMap.get d (SMap.set d k v m) k = v :=
  SMap.getF_setF_same _ m k v

/-- An offset that a read names directly is the register's own. -/
theorem viewAt_direct {p : Page} {x : Nat} (h : (viewAt p x).1 = .direct) : (viewAt p x).2 = x := by
  unfold viewAt at h ⊢
  split
  · rfl
  next hc =>
    rw [if_neg hc] at h
    split at h <;> cases h

/-- The _HI word of a latching counter is read directly, and its read latches nothing. -/
theorem latching_high {p : Page} {x : Nat} (h : p.type.latching.contains x = true) :
    p.type.latching.contains (x + 4) = false ∧ viewAt p (x + 4) = (.direct, x + 4) := by
  have hx : x = 0x060 ∨ x = 0x058 := by
    rcases p with ⟨type, die, i, j⟩
    cases type <;> simp_all [PageType.latching]
  have hlow : x + 4 < 0x400 := by omega
  refine ⟨?_, by simp [viewAt, hlow]⟩
  rcases p with ⟨type, die, i, j⟩
  cases type <;> simp_all [PageType.latching]

section Reads

variable {s : State} {m : Master} {p : Page} {x a : Nat}

/-- A read of a word by a master that the page hears is answered with what the bus reads. -/
theorem readCmd_of_reaches (hr : s.reaches m p = true) (h4 : a % 4 = 0) (ha : a < 0x4000000) :
    s.readCmd m a = (s.busRead m a).2.respondWords 0 [(s.busRead m a).1] := by
  cases m with
  | host f =>
    have hpath : s.hostPath f = true := hr
    have hbell : ¬ (0x4000000 ≤ a ∧ a < 0x4080000) := by omega
    simp [State.readCmd, hpath, h4, hbell]
  | watchman =>
    have hisland : s.board.island = true := (Bool.and_eq_true _ _ ▸ hr).1
    simp [State.readCmd, hisland]

theorem busRead_direct (hres : resolve m a = some (p, x)) (hr : s.reaches m p = true) (hvis : visible m p x = true)
    (hview : viewAt p x = (.direct, x)) : s.busRead m a = s.readDirect m p x := by
  simp [State.busRead, hres, hview, hr, hvis]

theorem readDirect_latches (hserved : s.served p = true) (hl : p.type.latching.contains x = true) :
    s.readDirect m p x = (s.regSeen m p x,
      s.withLatch (SMap.set none (latchKey m (p.reg (x + 4))) (some (s.regSeen m p (x + 4))) s.latch)) := by
  simp only [State.readDirect, hserved, hl, Bool.not_true, Bool.false_eq_true, if_false, if_true]

theorem readDirect_notServed (hserved : s.served p = false) : s.readDirect m p x = (s.regSeen m p x, s) := by
  simp [State.readDirect, hserved]

theorem readDirect_latched {w : Word} (hserved : s.served p = true) (hl : p.type.latching.contains x = false)
    (hw : SMap.get none s.latch (latchKey m (p.reg x)) = some w) :
    s.readDirect m p x = (w, s.withLatch (SMap.set none (latchKey m (p.reg x)) none s.latch)) := by
  simp only [State.readDirect, hserved, hl, hw, Bool.not_true, Bool.false_eq_true, if_false]

/-- A read of FIELD_MISS clears it (R255). -/
theorem readDirect_fieldMiss {f : Nat} (hserved : s.served (hostPage f) = true)
    (hw : SMap.get none s.latch (latchKey m ((hostPage f).reg 0x210)) = none) :
    s.readDirect m (hostPage f) 0x210 = (s.regSeen m (hostPage f) 0x210, s.setReg ((hostPage f).reg 0x210) 0) := by
  have hl : (hostPage f).type.latching.contains 0x210 = false := rfl
  simp only [State.readDirect, hserved, hl, hw, Bool.not_true, Bool.false_eq_true, if_false]
  rfl

theorem respondWords_same (u : State) (ws : List Word) : State.SameBut [.out] u (u.respondWords 0 ws) :=
  State.withOut_same (.refl _ u) (List.Subset.refl _)

@[simp] theorem respondWords_latch (u : State) (ws : List Word) : (u.respondWords 0 ws).latch = u.latch := rfl

@[simp] theorem respondWords_reg (u : State) (ws : List Word) (a : Nat) : (u.respondWords 0 ws).reg a = u.reg a := rfl

@[simp] theorem respondWords_resp (u : State) (w : Word) : (u.respondWords 0 [w]).out.resp = ⟨0, leBytes 4 w.toNat⟩ := by
  simp [State.respondWords, State.respond]

/-- A read of a _LO word answers it, and latches its _HI word where the page is served. -/
theorem counterLoRead_low (h4 : a % 4 = 0) (ha : a < 0x4000000) (hres : resolve m a = some (p, x)) (hvis : visible m p x = true)
    (hview : viewAt p x = (.direct, x)) (hl : p.type.latching.contains x = true) (hr : s.reaches m p = true) :
    ∃ t, exec (.counterLoRead m ⟨a, 4⟩) s = .next t ∧ t.out.resp = ⟨0, leBytes 4 (s.regSeen m p x).toNat⟩
      ∧ (s.served p = true → SMap.get none t.latch (latchKey m (p.reg (x + 4))) = some (s.regSeen m p (x + 4)))
      ∧ (s.served p = false → t.latch = s.latch) ∧ State.SameBut [.latch, .out] s t := by
  refine ⟨s.readCmd m a, rfl, ?_⟩
  rw [readCmd_of_reaches hr h4 ha, busRead_direct hres hr hvis hview]
  cases hserved : s.served p with
  | true =>
    rw [readDirect_latches hserved hl]
    refine ⟨respondWords_resp _ _, fun _ => ?_, nofun, (State.withLatch_same (.refl _ s) (by decide)).trans ((respondWords_same _ _).mono (by decide))⟩
    rw [respondWords_latch, State.withLatch_latch, SMap.get_set_same]
  | false =>
    rw [readDirect_notServed hserved]
    exact ⟨respondWords_resp _ _, nofun, fun _ => rfl, (respondWords_same _ _).mono (by decide)⟩

/-- A read of a _HI word whose latch holds answers the latched half and ends the latch. -/
theorem counterLoRead_high {w : Word} (h4 : a % 4 = 0) (ha : a < 0x4000000) (hres : resolve m a = some (p, x))
    (hvis : visible m p x = true) (hview : viewAt p x = (.direct, x)) (hl : p.type.latching.contains x = false)
    (hr : s.reaches m p = true) (hserved : s.served p = true) (hw : SMap.get none s.latch (latchKey m (p.reg x)) = some w) :
    ∃ t, exec (.counterLoRead m ⟨a, 4⟩) s = .next t ∧ t.out.resp = ⟨0, leBytes 4 w.toNat⟩
      ∧ SMap.get none t.latch (latchKey m (p.reg x)) = none ∧ State.SameBut [.latch, .out] s t := by
  refine ⟨s.readCmd m a, rfl, ?_⟩
  rw [readCmd_of_reaches hr h4 ha, busRead_direct hres hr hvis hview, readDirect_latched hserved hl hw]
  refine ⟨respondWords_resp _ _, ?_, (State.withLatch_same (.refl _ s) (by decide)).trans ((respondWords_same _ _).mono (by decide))⟩
  rw [respondWords_latch, State.withLatch_latch, SMap.get_set_same]

/-- An access by a function that is not one aligned word is unsupported (R395). -/
theorem readCmd_unsupported {f b n : Nat} (hpath : s.hostPath f = true) (hbad : b % 4 ≠ 0 ∨ n ≠ 4) :
    s.readCmd (.host f) b n = s.respond 1 [] := by
  simp [State.readCmd, hpath, hbad]

end Reads

/-- The address past the last of BAR0 names no page. -/
theorem resolve_barEnd (m : Master) : resolve m 0x4000000 = none := by
  cases m <;> rfl

theorem resolve_merPage (m : Master) {x : Nat} (hx : x < 0x1000) : resolve m (merPage.reg x) = some (merPage, x) := by
  have hnum : (0x4000 + x) / 0x1000 = 4 := by omega
  have hoff : (0x4000 + x) % 0x1000 = x := by omega
  have hpage : pageAt (0x4000 + x) = some (merPage, x) := by
    rw [pageAt, if_pos (by omega), hnum, hoff]
    rfl
  show resolve m (0x4000 + x) = _
  cases m with
  | watchman => rw [resolve, hnum, if_neg (by omega), if_pos (by omega), hpage]
  | host f =>
    have hwindow : ¬ 0x20000 ≤ 0x4000 + x := by omega
    simp only [resolve, hnum, hwindow]
    rw [if_neg (by omega), if_pos (by omega), if_neg (by simp), hpage]

theorem regSeen_merNow {s : State} (m : Master) (hserved : s.served merPage = true) :
    s.regSeen m merPage 0x058 = BitVec.ofNat 32 s.transit ∧ s.regSeen m merPage 0x05C = BitVec.ofNat 32 (s.transit / 2 ^ 32) := by
  have hc (x : Nat) : merPage.type.counters.contains x = false := rfl
  simp only [State.regSeen, hserved, hc]
  exact ⟨rfl, rfl⟩

theorem regSeen_fieldMiss {s : State} (m : Master) {f : Nat} (hserved : s.served (hostPage f) = true) :
    s.regSeen m (hostPage f) 0x210 = s.reg ((hostPage f).reg 0x210) := by
  have hc : (hostPage f).type.counters.contains 0x210 = false := rfl
  simp only [State.regSeen, hserved, hc]
  rfl

theorem hostAddr_lt {m : Master} {f : Nat} (hf : f < 32) : hostAddr m f + 0x210 < 0x4000000 ∧ (hostAddr m f + 0x210) % 4 = 0 := by
  cases m with
  | watchman => simp only [hostAddr]; omega
  | host g => simp only [hostAddr]; split <;> omega

/-- Settles O28: a direct read of a page that is heard is `State.readDirect`, which latches, answers a latched half, or clears. -/
theorem readsAnswerAndLatch : Obligations.ReadsAnswerAndLatch := by
  refine ⟨?counter, fun m s hr hserved => ?merNow, fun m f s hm hr hf hserved hres hw => ?fieldMiss⟩
  case counter =>
    intro m a p x s h4 ha hres hvis hview hl key
    refine ⟨counterLoRead_low h4 ha hres hvis (Prod.ext hview (viewAt_direct hview)) hl, fun w hr hserved hw hres' hvis' => ?_,
      fun f b n hpath hbad => congrArg Host.Outcome.next (readCmd_unsupported hpath hbad)⟩
    obtain ⟨hl', hview'⟩ := latching_high hl
    have ha' : a + 4 ≠ 0x4000000 := fun e => by rw [e, resolve_barEnd] at hres'; cases hres'
    exact counterLoRead_high (by omega) (by omega) hres' hvis' hview' hl' hr hserved hw
  case merNow =>
    obtain ⟨hlo, hhi⟩ := regSeen_merNow m hserved
    have hvis : visible m merPage 0x058 = true := by
      cases m with
      | watchman => rfl
      | host f => cases f <;> rfl
    obtain ⟨t, hexec, hresp, hlatch, -, -⟩ :=
      counterLoRead_low (by decide) (by decide) (resolve_merPage m (by decide)) hvis rfl rfl hr
    refine ⟨t, hexec, ?_, (hlatch hserved).trans (congrArg some hhi)⟩
    rw [hresp, hlo, BitVec.toNat_ofNat]
  case fieldMiss =>
    have hvis : visible m (hostPage f) 0x210 = true := by rcases hm with rfl | rfl <;> rfl
    obtain ⟨ha, h4⟩ := hostAddr_lt (m := m) hf
    refine ⟨_, rfl, ?_⟩
    rw [readCmd_of_reaches hr h4 ha, busRead_direct hres hr hvis rfl, readDirect_fieldMiss hserved hw, regSeen_fieldMiss m hserved]
    exact ⟨respondWords_resp _ _, (respondWords_reg _ _ _).trans (State.reg_setReg_same _ _ _)⟩

/-! ### Bytes and numbers (R32, R51) -/

theorem leNat_lt (bs : List Byte) : leNat bs < 256 ^ bs.length := by
  induction bs with
  | nil => exact Nat.one_pos
  | cons b bs ih =>
    have hb : b.toNat < 256 := b.isLt
    rw [leNat, List.length_cons, Nat.pow_succ]
    omega

theorem leBytes_leNat (bs : List Byte) : leBytes bs.length (leNat bs) = bs := by
  induction bs with
  | nil => rfl
  | cons b bs ih =>
    have hb : b.toNat < 256 := b.isLt
    have hrest : (b.toNat + 256 * leNat bs) / 256 = leNat bs := by omega
    have hhead : BitVec.ofNat 8 (b.toNat + 256 * leNat bs) = b := by
      apply BitVec.eq_of_toNat_eq
      simp only [BitVec.toNat_ofNat]
      omega
    rw [leNat, List.length_cons, leBytes, hhead, hrest, ih]

@[simp] theorem length_numsFrom (a n : Nat) : (numsFrom a n).length = n := by
  induction n generalizing a with
  | zero => rfl
  | succ n ih => simp [numsFrom, ih]

theorem map_numsFrom_congr {α : Type} {f g : Nat → α} {a b n : Nat} (h : ∀ i, i < n → f (a + i) = g (b + i)) :
    (numsFrom a n).map f = (numsFrom b n).map g := by
  induction n generalizing a b with
  | zero => rfl
  | succ n ih =>
    have hhead : f a = g b := h 0 (by omega)
    have htail := ih (a := a + 1) (b := b + 1) fun i hi => by
      have := h (i + 1) (by omega)
      rwa [show a + (i + 1) = a + 1 + i by omega, show b + (i + 1) = b + 1 + i by omega] at this
    rw [numsFrom, numsFrom, List.map_cons, List.map_cons, hhead, htail]

/-! ### Stores of consecutive bytes (R242, R245, R445) -/

theorem State.SameBut.lostAt {w : List Part} {a b : State} (hs : State.SameBut w a b) (hw : .hbmStacks ∉ w) (x : Nat) :
    b.lostAt x = a.lostAt x := by
  rw [State.lostAt, State.lostAt, hs.stack hw]

theorem State.byteAt_setByte_same {s : State} {pa : Nat} (h : s.lostAt pa = false) (b : Byte) : (s.setByte pa b).byteAt pa = b := by
  have hmask (m : List Host.Cell) : (s.withMem m).memMask pa = s.memMask pa := rfl
  rw [State.setByte, if_neg (by simp [h]), State.byteAt, hmask, State.withMem_mem, SMap.get_set_same, BitVec.xor_assoc, BitVec.xor_self,
    BitVec.xor_zero]

/-- Lost storage takes no byte (log 6). -/
theorem State.byteAt_setByte_lost {s : State} {x : Nat} (h : s.lostAt x = true) (pa : Nat) (b : Byte) :
    (s.setByte pa b).byteAt x = s.byteAt x := by
  by_cases hx : x = pa
  · rw [State.setByte, if_pos (hx ▸ h)]
  · exact s.byteAt_setByte_other b hx

theorem byteAt_storeSp_lost {s : State} {sp : Option Nat} {at_ x : Nat} {bs : List Byte} (h : s.lostAt x = true) :
    (storeSp s sp at_ bs).byteAt x = s.byteAt x := by
  fun_induction storeSp s sp at_ bs with
  | case1 => rfl
  | case2 s sp at_ b bs pa _ ih =>
    have hlost : (s.setByte pa b).lostAt x = true := by
      rw [(State.setByte_same (.refl [.mem] s) (List.Subset.refl _)).lostAt (by decide), h]
    exact (ih hlost).trans (State.byteAt_setByte_lost h pa b)
  | case3 s sp at_ b bs _ ih => exact ih h

/-- Bytes stored at consecutive physical addresses, none of them lost, are read back. -/
theorem bytesAt_storeSp {s : State} {sp : Option Nat} {at_ pa : Nat} {bs : List Byte}
    (hphys : ∀ i, i < bs.length → s.phys sp (at_ + i) = some (pa + i))
    (hkept : ∀ i, i < bs.length → s.lostAt (pa + i) = false) : (storeSp s sp at_ bs).bytesAt pa bs.length = bs := by
  induction bs generalizing s at_ pa with
  | nil => rfl
  | cons b bs ih =>
    have hsame := State.setByte_same (x0 := pa) (x1 := b) (.refl [.mem] s) (List.Subset.refl _)
    have hnext (i : Nat) (hi : i < bs.length) : (s.setByte pa b).phys sp (at_ + 1 + i) = some (pa + 1 + i) := by
      rw [hsame.phys (by decide), Nat.add_assoc, Nat.add_assoc, Nat.add_comm 1 i]
      exact hphys (i + 1) (Nat.succ_lt_succ hi)
    have hlost (i : Nat) (hi : i < bs.length) : (s.setByte pa b).lostAt (pa + 1 + i) = false := by
      rw [hsame.lostAt (by decide), Nat.add_assoc, Nat.add_comm 1 i]
      exact hkept (i + 1) (Nat.succ_lt_succ hi)
    have hhead : (storeSp (s.setByte pa b) sp (at_ + 1) bs).byteAt pa = b := by
      refine (byteAt_storeSp fun a hlo hhi he => ?_).trans (State.byteAt_setByte_same (hkept 0 (Nat.succ_pos _)) b)
      have := hnext (a - (at_ + 1)) (by omega)
      rw [Nat.add_sub_cancel' hlo, he] at this
      simp only [Option.some.injEq] at this
      omega
    have hfirst : s.phys sp at_ = some pa := hphys 0 (Nat.succ_pos _)
    rw [storeSp, hfirst]
    show (storeSp (s.setByte pa b) sp (at_ + 1) bs).byteAt pa :: _ = _
    rw [hhead, List.cons.injEq]
    exact ⟨rfl, ih hnext hlost⟩

/-- A span of whole bytes is stored byte by byte. -/
theorem State.storeBits_bytes (s : State) (sp : Option Nat) (at_ : Nat) (bs : List Byte) :
    s.storeBits ⟨⟨sp, 8 * at_, 8 * bs.length⟩, leNat bs⟩ = storeSp s sp at_ bs := by
  have hpow : 2 ^ (8 * bs.length) = 256 ^ bs.length := Nat.pow_mul 2 8 bs.length
  have hceil : ceilDiv (8 * bs.length) 8 = bs.length := by simp [ceilDiv]; omega
  have hold (bytes : List Byte) (hlen : bytes.length = bs.length) : leNat bytes / 2 ^ (8 * bs.length) = 0 := by
    rw [hpow, ← hlen]
    exact Nat.div_eq_of_lt (leNat_lt bytes)
  simp only [State.storeBits, Nat.mul_mod_right, Nat.zero_add, hceil, Nat.mul_div_cancel_left _ (show 0 < 8 by decide), Nat.pow_zero,
    Nat.mod_one, Nat.mul_one]
  rw [hold _ (by simp), Nat.zero_mul, Nat.zero_add, hpow, Nat.mod_eq_of_lt (leNat_lt bs), leBytes_leNat]

/-! ### Bytes of one mapped page (R251) -/

section Page

variable {s : State} {f va pa n : Nat} {write : Bool}

theorem State.translate_eq_some (h : s.translate f va write = some pa) : ∃ m, s.mapping f va = some m
    ∧ (if write then m.wr else m.rd) = true ∧ pa = m.pa * pageBytes + va % pageBytes := by
  unfold State.translate at h
  split at h
  case h_1 m hm =>
    obtain ⟨hperm, e⟩ := Option.ite_none_right_eq_some.mp h
    cases e
    exact ⟨m, hm, hperm, rfl⟩
  case h_2 => cases h

theorem pageBytes_pos : 0 < pageBytes := by decide

/-- The mapping of an address is that of its page; 2^48 is a multiple of the page. -/
theorem State.mapping_page {vb : Nat} (hp : vb / pageBytes = va / pageBytes) : s.mapping f vb = s.mapping f va := by
  have hlt : vb < 2 ^ 48 ↔ va < 2 ^ 48 := by
    simp only [pageBytes] at hp
    omega
  simp only [State.mapping, hp, hlt]

theorem pageBytes_add {i : Nat} (hi : va % pageBytes + i < pageBytes) :
    (va + i) / pageBytes = va / pageBytes ∧ (va + i) % pageBytes = va % pageBytes + i := by
  simp only [pageBytes] at hi ⊢
  omega

theorem State.translate_add (h : s.translate f va write = some pa) {i : Nat} (hi : va % pageBytes + i < pageBytes) :
    s.translate f (va + i) write = some (pa + i) := by
  obtain ⟨m, hm, hperm, rfl⟩ := State.translate_eq_some h
  obtain ⟨hpage, hoff⟩ := pageBytes_add hi
  rw [State.translate, State.mapping_page hpage, hm, hoff, Nat.add_assoc]
  exact if_pos hperm

theorem State.phys_of_translate (h : s.translate f va write = some pa) : s.phys (some f) va = some pa := by
  obtain ⟨m, hm, -, rfl⟩ := State.translate_eq_some h
  rw [State.phys, hm]
  rfl

/-- An access inside one page that translates is mapped. -/
theorem State.mapped_of_translate (h : s.translate f va write = some pa) (hn : 0 < n) (hfit : va % pageBytes + n ≤ pageBytes) :
    s.mapped f va n write = true := by
  obtain ⟨m, hm, hperm, -⟩ := State.translate_eq_some h
  have hlast : (va + n - 1) / pageBytes = va / pageBytes := by
    rw [Nat.add_sub_assoc hn]
    exact (pageBytes_add (by omega)).1
  have hbase : s.mapping f (va / pageBytes * pageBytes) = some m := by
    rw [← hm]
    exact State.mapping_page (Nat.mul_div_cancel _ pageBytes_pos)
  have hone : (va + n - 1) / pageBytes + 1 - va / pageBytes = 1 := by omega
  have hfirst : (s.translate f (va / pageBytes * pageBytes) write).isSome = true := by
    rw [State.translate, hbase]
    exact (congrArg Option.isSome (if_pos hperm)).trans rfl
  rw [State.mapped, hone]
  simp [numsFrom, hfirst]

end Page

/-! ### Host accesses to HBM (R251, R255, R394, R395, R445) -/

/-- The span of a host access. -/
def hostSpan (f va n : Nat) : BitSpan := ⟨some f, 8 * va, 8 * n⟩

theorem State.wakeSpans_awake {s : State} (h : s.power.twilight = []) (xs : List BitSpan) : s.wakeSpans xs = s := by
  rw [State.wakeSpans, h]
  rfl

theorem State.wakeSpans_same_regs (s : State) (xs : List BitSpan) : State.SameBut [.regs] s (s.wakeSpans xs) :=
  State.wakeSpans_same (.refl _ s) (List.Subset.refl _)

theorem State.eccClean_wakeSpans {s : State} (hc : s.eccClean = true) (xs : List BitSpan) : (s.wakeSpans xs).eccClean = true :=
  eccClean_of_same (s.wakeSpans_same_regs xs) (by decide) hc

section HostAccess

variable {s : State} {f va pa n : Nat} {bytes : List Byte}

theorem State.SameBut.translate {w : List Part} {a b : State} (hs : State.SameBut w a b) (hw : .fields ∉ w) (f va : Nat) (write : Bool) :
    b.translate f va write = a.translate f va write := by
  simp only [State.translate, State.mapping, hs.fields hw]

/-- The state after a host write inside one mapped page: the stack is awake and the bytes stand at their physical addresses. -/
def State.hostStored (s : State) (f va : Nat) (bytes : List Byte) : State :=
  storeSp (s.wakeSpans [hostSpan f va bytes.length]) (some f) va bytes

theorem State.hostWrite_eq (hc : s.eccClean = true) (hne : bytes ≠ []) : s.hostWrite f va bytes = s.hostStored f va bytes := by
  have hclean := State.eccClean_wakeSpans hc [hostSpan f va bytes.length]
  rw [State.hostWrite, if_neg (by simpa using hne), State.hostStored, ← State.storeBits_bytes]
  exact State.storeAll_of_eccClean hclean _ _

theorem State.hostStored_same_mem (s : State) (f va : Nat) (bytes : List Byte) :
    State.SameBut [.mem] (s.wakeSpans [hostSpan f va bytes.length]) (s.hostStored f va bytes) :=
  storeSp_same (.refl _ _) (List.Subset.refl _)

/-- A host write inside one mapped page, where no sector holds an error: what each byte of HBM reads afterwards, and the frame. -/
theorem State.hostStored_bytes (htr : s.translate f va true = some pa) (hfit : va % pageBytes + bytes.length ≤ pageBytes) :
    ((∀ x, pa ≤ x → x < pa + bytes.length → s.lostAt x = false) → (s.hostStored f va bytes).bytesAt pa bytes.length = bytes)
      ∧ (∀ x, s.lostAt x = true → (s.hostStored f va bytes).byteAt x = s.byteAt x)
      ∧ State.memKeptBut s (s.hostStored f va bytes) pa bytes.length := by
  have hwake := s.wakeSpans_same_regs [hostSpan f va bytes.length]
  have hphys (i : Nat) (hi : i < bytes.length) : (s.wakeSpans [hostSpan f va bytes.length]).phys (some f) (va + i) = some (pa + i) := by
    rw [hwake.phys (by decide)]
    exact State.phys_of_translate (State.translate_add htr (by omega))
  have hbyte (x : Nat) : (s.wakeSpans [hostSpan f va bytes.length]).byteAt x = s.byteAt x :=
    hwake.byteAt (by decide) (by decide) (by decide) x
  refine ⟨fun hkept => bytesAt_storeSp hphys fun i hi => ?_, fun x hx => ?_, fun x hx => ?_⟩
  · rw [hwake.lostAt (by decide)]
    exact hkept _ (by omega) (by omega)
  · exact (byteAt_storeSp_lost ((hwake.lostAt (by decide) x).trans hx)).trans (hbyte x)
  · refine (byteAt_storeSp fun a hlo hhi he => ?_).trans (hbyte x)
    have hat := hphys (a - va) (by omega)
    rw [Nat.add_sub_cancel' hlo, he, Option.some.injEq] at hat
    omega

theorem execBar2Write_mapped (hon : s.hostOn f = true) (hc : s.eccClean = true) (hbar : s.inBar2 f va bytes.length = true)
    (hne : bytes ≠ []) (hmapped : s.mapped f va bytes.length true = true) :
    exec (.bar2Write f va bytes) s = .next (s.hostStored f va bytes) := by
  show execBar2Write f va bytes s = _
  simp [execBar2Write, hon, hbar, hmapped, State.hostWrite_eq hc hne]

/-- What the host reads inside one mapped page where no sector holds an error. -/
theorem State.hostRead_eq (hc : s.eccClean = true) (htr : s.translate f va false = some pa) (hfit : va % pageBytes + n ≤ pageBytes) :
    s.hostRead f va n = (s.bytesAt pa n, s.wakeSpans [hostSpan f va n]) := by
  have hwake := s.wakeSpans_same_regs [hostSpan f va n]
  have hclean := State.eccClean_wakeSpans hc [hostSpan f va n]
  have hbytes : (numsFrom va n).map ((s.wakeSpans [hostSpan f va n]).hostByte (s.wakeSpans [hostSpan f va n]).freeCount f) = s.bytesAt pa n := by
    refine map_numsFrom_congr fun i hi => ?_
    have hat : (s.wakeSpans [hostSpan f va n]).translate f (va + i) false = some (pa + i) :=
      (hwake.translate (by decide) f _ false).trans (State.translate_add htr (by omega))
    rw [State.hostByte, hat]
    simp only [(stack_of_eccClean hclean _).1, List.contains_nil, Bool.false_eq_true, if_false]
    exact hwake.byteAt (by decide) (by decide) (by decide) _
  have hecc (u : State) (hu : u.eccClean = true) (xs : List BitSpan) : u.eccRead (fun _ v => v) xs = u := by
    rw [State.eccRead, if_pos hu]
  unfold State.hostRead
  exact Prod.ext hbytes ((congrArg (fun b : Bool => State.eccRead
    ((s.wakeSpans [hostSpan f va n]).withFreeCount (if b then _ else _)) _ _) hclean).trans (hecc _ hclean _))

theorem execBar2Read_mapped (hon : s.hostOn f = true) (hc : s.eccClean = true) (hbar : s.inBar2 f va n = true) (hn : 0 < n)
    (hfit : va % pageBytes + n ≤ pageBytes) (htr : s.translate f va false = some pa) :
    exec (.bar2Read f va n) s = .next ((s.wakeSpans [hostSpan f va n]).respond 0 (s.bytesAt pa n)) := by
  show execBar2Read f va n s = _
  simp [execBar2Read, hon, hbar, State.mapped_of_translate htr hn hfit, State.hostRead_eq hc htr hfit]

theorem execBar2Read_outside (hon : s.hostOn f = true) (hbar : s.inBar2 f va n = false) :
    exec (.bar2Read f va n) s = .next (s.respond 1 []) := by
  show execBar2Read f va n s = _
  simp [execBar2Read, hon, hbar]

theorem execBar2Write_outside (hbar : s.inBar2 f va bytes.length = false) : exec (.bar2Write f va bytes) s = .next s := by
  show execBar2Write f va bytes s = _
  simp [execBar2Write, hbar]

theorem execBar2Read_miss (hon : s.hostOn f = true) (hbar : s.inBar2 f va n = true) (hmapped : s.mapped f va n false = false) :
    exec (.bar2Read f va n) s = .next ((s.bumpSat (hostPage f) fieldMiss_count).respond 1 []) := by
  show execBar2Read f va n s = _
  simp [execBar2Read, hon, hbar, hmapped, State.fieldMiss]

theorem execBar2Write_miss (hon : s.hostOn f = true) (hbar : s.inBar2 f va bytes.length = true)
    (hmapped : s.mapped f va bytes.length true = false) :
    exec (.bar2Write f va bytes) s = .next (s.bumpSat (hostPage f) fieldMiss_count) := by
  show execBar2Write f va bytes s = _
  simp [execBar2Write, hon, hbar, hmapped, State.fieldMiss]

end HostAccess

/-- Settles O34: inside one page the map gives consecutive physical addresses, at which a write stores byte by byte and a read reads;
outside BAR2 or the map the access is answered alone. -/
theorem hostAccessesMoveExactBytes : Obligations.HostAccessesMoveExactBytes := by
  refine ⟨fun f va pa bytes n s hon hc => ⟨fun hbar => execBar2Write_outside hbar, fun hbar => execBar2Read_outside hon hbar,
    fun hbar hne hfit htr => ?write, fun hbar hn hfit htr => ?read⟩, fun f va n bytes s hon => ⟨execBar2Read_miss hon, execBar2Write_miss hon⟩⟩
  case write =>
    have hmapped := State.mapped_of_translate htr (List.length_pos_iff.mpr hne) hfit
    obtain ⟨hstored, hlost, hkept⟩ := State.hostStored_bytes htr hfit
    have hmem := s.hostStored_same_mem f va bytes
    refine ⟨_, execBar2Write_mapped hon hc hbar hne hmapped, hstored, hlost, hkept, ?_, fun hawake => ?_⟩
    · exact ((s.wakeSpans_same_regs _).mono (by decide)).trans (hmem.mono (by decide))
    · rw [hmem.regs (by decide), State.wakeSpans_awake hawake]
  case read =>
    have hread := execBar2Read_mapped hon hc hbar hn hfit htr
    refine ⟨hread, fun hawake => ?_⟩
    rw [hread, State.wakeSpans_awake hawake]

/-! ### What a register write leaves in its register (R5, R6, R420) -/

theorem getField_testBit (w : Word) {hi lo : Nat} (i : Nat) :
    (getField w hi lo).testBit i = (decide (i < hi + 1 - lo) && w.getLsbD (lo + i)) := by
  rw [getField, bitsOf_eq, BitVec.testBit_toNat, BitVec.getLsbD_extractLsb']

theorem setField_getField (w : Word) {hi lo : Nat} (hl : lo ≤ hi) (h : hi < 32) : setField w hi lo (getField w hi lo) = w := by
  apply BitVec.eq_of_getLsbD_eq
  intro i hi32
  rw [setField_bit w hi lo _ i hl h hi32]
  split
  case isTrue hin =>
    rw [getField_testBit, Nat.add_sub_cancel' hin.1]
    simp
    omega
  case isFalse => rfl

/-- A field of which every code is legal (R5), and that no state and no master's rights keep (R424, R446, R365, R331). -/
def FieldRow.ordinary (f : FieldRow) : Bool :=
  f.legalLo == 0 && f.legalHi + 1 == 2 ^ (f.hi + 1 - f.lo)
    && !([dmaCtrl_vector, ringCtrl_vector, faultCtrl_vector, hbmMarginCtrl_offset, kvPool_pages, faultCtrl_reserve, almCtrl_margin,
      faultFence_fenced].contains f)

/-- Pages on which the state or the master's rights may keep a field beside those that are no `ordinary` ones. -/
def PageType.mayKeep (t : PageType) : Bool := t == .meridian || t == .loader || t == .ferryPkg

theorem setFields_readOnly {val : FieldRow → Nat} {w : Word} {fs : List FieldRow} (hfit : ∀ f ∈ fs, f.lo ≤ f.hi ∧ f.hi < 32)
    (hval : ∀ f ∈ fs, val f = getField w f.hi f.lo) : fs.foldl (fun r f => setField r f.hi f.lo (val f)) w = w := by
  induction fs with
  | nil => rfl
  | cons f fs ih =>
    obtain ⟨⟨hl, hh⟩, hfit⟩ := List.forall_mem_cons.mp hfit
    obtain ⟨hf, hval⟩ := List.forall_mem_cons.mp hval
    rw [List.foldl_cons, hf, setField_getField w hl hh, ih hfit hval]

namespace BusWr

variable {w : BusWr} {s : State} {armed : Bool}

/-- A direct write of an ordinary field that it may store gives the field the value written. -/
theorem field_ordinary {f : FieldRow} {old v : Nat} (hview : w.view = .direct) (hpage : w.p.type.mayKeep = false)
    (hstore : w.MayStore armed f) (hf : f.ordinary = true) (hv : v < 2 ^ (f.hi + 1 - f.lo)) : w.field s armed f old v = v := by
  simp only [PageType.mayKeep, Bool.or_eq_false_iff, beq_eq_false_iff_ne] at hpage
  obtain ⟨⟨hmer, hloader⟩, hferry⟩ := hpage
  simp only [FieldRow.ordinary, Bool.and_eq_true, beq_iff_eq, Bool.not_eq_true', List.contains_cons, Bool.or_eq_false_iff] at hf
  obtain ⟨⟨hlo, hhi⟩, hdma, hring, hfaultV, hmargin, hpool, hreserve, halm, hfence, -⟩ := hf
  have hkept : w.merKept s armed = false := by simp [merKept, hmer]
  have hlegal : legalCode w.p f v = true := by
    have : v ≤ f.legalHi := by omega
    simp [legalCode, hlo, this, bne, hdma, hring, hfaultV, hmargin, hpool]
  have hstate : s.fieldKept w.p f = false := by simp [State.fieldKept, hreserve, halm, hpool, hferry]
  have hmaster : watchmanOnly w.p f = false := by simp [watchmanOnly, hfence, hloader]
  rw [field_mayStore hkept hstore, takes_of_stores ⟨by rw [hview]; exact hlegal, hstate, .inr hmaster⟩, hview]
  rfl

/-- The fields of its register that a write stores, beside what it starts. -/
def kept (w : BusWr) : List FieldRow :=
  (w.p.type.fieldsAt w.x).filter fun f => !actionField f && !(w.view == .set && w.p.type == .watchman && w.x == 0x048)

/-- The word with every field as the write would leave it. -/
def word (w : BusWr) (s : State) (armed : Bool) : Word := w.merge s armed (s.reg (w.p.reg w.x)) (w.p.type.fieldsAt w.x)

/-- The state with the write stored in its register, before its actions. -/
def written (w : BusWr) (s : State) (armed : Bool) : State :=
  s.setReg (w.p.reg w.x) (w.merge s armed (s.reg (w.p.reg w.x)) w.kept)

/-- A write that is stored and starts what its own register starts: no Cue register, none of which a field is the Watchman's alone,
and no common register that events, captured faults or snapshots act on. -/
def plain (w : BusWr) : Bool :=
  w.p.type != .cue && !(w.p.type.fieldsAt w.x).isEmpty && !(w.p.type.fieldsAt w.x).any (watchmanOnly w.p)
    && (w.p.type == .ring || !([0x014, 0x018, 0x01C, 0x024, 0x030].contains w.x))

theorem kept_subset {f : FieldRow} (h : f ∈ w.kept) : f ∈ w.p.type.fieldsAt w.x := (List.mem_filter.mp h).1

theorem getField_word {f : FieldRow} (hf : f ∈ w.p.type.fieldsAt w.x) : getField (w.word s armed) f.hi f.lo
    = w.field s armed f (getField (s.reg (w.p.reg w.x)) f.hi f.lo) (getField w.v f.hi f.lo) :=
  w.getField_merge s armed _ hf

theorem written_same (w : BusWr) (s : State) (armed : Bool) : State.SameBut [.regs] s (w.written s armed) :=
  State.setReg_same (.refl _ s) (List.Subset.refl _)

theorem reg_written_other (w : BusWr) (s : State) (armed : Bool) {a : Nat} (ha : a ≠ w.p.reg w.x) : (w.written s armed).reg a = s.reg a :=
  State.reg_setReg_other s _ ha

/-- A stored field has its new value in the written state. -/
theorem getField_written {f : FieldRow} (hf : f ∈ w.kept) : getField ((w.written s armed).reg (w.p.reg w.x)) f.hi f.lo
    = w.field s armed f (getField (s.reg (w.p.reg w.x)) f.hi f.lo) (getField w.v f.hi f.lo) := by
  rw [written, State.reg_setReg_same, merge,
    getField_setFields (fun f => w.field s armed f (getField (s.reg (w.p.reg w.x)) f.hi f.lo) (getField w.v f.hi f.lo)) _
      (fun g hg => w.p.type.fieldsAt_fit w.x g (kept_subset hg)) ((w.p.type.fieldsAt_disjoint w.x).filter _) hf]
  exact Nat.mod_eq_of_lt (field_lt (getField_lt _ _ _) (getField_lt _ _ _))

/-- A write that stores read-only fields alone leaves every register. -/
theorem reg_written_readOnly (h : ∀ f ∈ w.kept, f.acc = .ro ∨ f.acc = .wo ∨ f.acc = .rc) (a : Nat) :
    (w.written s armed).reg a = s.reg a := by
  have hword : w.merge s armed (s.reg (w.p.reg w.x)) w.kept = s.reg (w.p.reg w.x) :=
    setFields_readOnly (fun g hg => w.p.type.fieldsAt_fit w.x g (kept_subset hg)) fun g hg => field_readOnly (h g hg)
  rw [written, hword, State.reg_setReg]
  split
  case isTrue ha => rw [ha]
  case isFalse => rfl

/-- A plain write is stored, and then acts. -/
theorem applyWrite_of_plain (h : w.plain = true) : s.applyWrite w armed
    = ((w.written s armed).squareAct w armed (w.word s armed).toNat).unitAct s w armed (w.word s armed).toNat := by
  simp only [plain, Bool.and_eq_true, bne_iff_ne, ne_eq, Bool.not_eq_true', Bool.or_eq_true, beq_iff_eq] at h
  obtain ⟨⟨⟨hcue, hfields⟩, hrights⟩, hcommon⟩ := h
  have hx (hring : ¬ w.p.type = .ring) : [0x014, 0x018, 0x01C, 0x024, 0x030].contains w.x = false := hcommon.resolve_left hring
  have hact (u : State) (hring : ¬ w.p.type = .ring) : u.commonAct w = u := by
    have hx := hx hring
    unfold State.commonAct
    split
    case h_1 e => simp [e] at hx
    case h_2 e => simp [e] at hx
    case h_3 => rfl
  have hattn : (w.p.type != .ring && [0x014, 0x018, 0x01C].contains w.x) = false := by
    by_cases hring : w.p.type = .ring
    · simp [hring]
    · have hx := hx hring
      simp only [List.contains_cons, Bool.or_eq_false_iff] at hx
      obtain ⟨h14, h18, h1C, -⟩ := hx
      simp only [List.contains_cons, h14, h18, h1C, List.contains_nil, Bool.or_false, Bool.and_false]
  unfold State.applyWrite
  extract_lets fs old u c stored s1 s2 s3
  have hu : u = s := if_neg (by simp [fs, hrights])
  have hold : old = s.reg (w.p.reg w.x) := by simp only [old]
  have hc : c = w.word s armed := by
    simp only [c, hu, hold]
    rfl
  have h1 : s1 = w.written s armed := by
    simp only [s1, hu]
    rw [if_neg (by simp [fs, hfields, hcue])]
    rfl
  have h2 : s2 = w.written s armed := by
    simp only [s2, h1]
    split
    case isTrue => rfl
    case isFalse hring => exact hact _ hring
  have h3 : s3 = ((w.written s armed).squareAct w armed (w.word s armed).toNat).unitAct s w armed (w.word s armed).toNat := by
    simp only [s3, h2, hc, hu]
  rw [if_neg (by simp only [hattn]; decide), h3]

end BusWr

/-- Only writes of the Square die's pages act there. -/
theorem State.squareAct_dies {w : BusWr} (hp : w.p.type = .firefly ∨ w.p.type = .hbm ∨ w.p.type = .ring) (s : State) (armed : Bool) (c : Nat) :
    s.squareAct w armed c = s := by
  rcases hp with hp | hp | hp <;> simp only [State.squareAct, hp]

/-- A command that is a plain write of a page that accepts it: the write is stored, and then acts; the guard is used up. -/
theorem exec_of_plain {c : Instr} {m : Master} {a raw : Nat} {v : Word} {p : Page} {s : State} (hc : busOf c = some (m, a, v))
    (hr : resolve m a = some (p, raw)) (ha : s.accepts m p raw = true) (hp : (landed m p raw v).plain = true) :
    let w := landed m p raw v
    ∃ u armed, State.SameBut [.guards] s u ∧ (p.type ≠ .ring → armed = s.guardMatches w)
      ∧ exec c s = .next (((w.written u armed).squareAct w armed (w.word u armed).toNat).unitAct u w armed (w.word u armed).toNat) := by
  intro w
  rw [registerWritesTakeEffect c m a raw v p s hc hr ha]
  split
  case isTrue hring => exact ⟨s, false, .refl _ s, fun h => absurd hring h, by rw [BusWr.applyWrite_of_plain hp]⟩
  case isFalse =>
    exact ⟨_, s.guardMatches w, State.withGuards_same (.refl _ s) (List.Subset.refl _), fun _ => rfl, by rw [BusWr.applyWrite_of_plain hp]⟩

/-! ### The pages of the dies and the stacks (R417, R432) -/

/-- Past the windows of the functions, every master finds the same page at an address of BAR0. -/
theorem resolve_dies (m : Master) {a : Nat} (hlo : 0x1000000 ≤ a) (hhi : a < 0x4000000) : resolve m a = pageAt a := by
  have hown : ¬ a / 0x1000 = 2 := by omega
  have hwindow : ¬ a < 0x40000 := by omega
  cases m with
  | watchman => rw [resolve, if_neg hown, if_pos hhi]
  | host f => rw [resolve, if_neg hown, if_pos hhi, if_neg (by simp [hwindow])]

theorem resolve_firefly (m : Master) {d h x : Nat} (hok : hamletOk d h = true) (hx : x < 0x1000) :
    resolve m ((fireflyPage d h).reg x) = some (fireflyPage d h, x) := by
  simp only [hamletOk, Bool.and_eq_true, decide_eq_true_eq] at hok
  obtain ⟨hd, hh⟩ := hok
  have ha : (fireflyPage d h).reg x = 0x1000000 + d * 0x400000 + 0x144000 + h * 0x1000 + x := by
    simp only [Page.reg, Page.base, fireflyPage]
  generalize (fireflyPage d h).reg x = a at ha
  have hdie : (a - 0x1000000) / 0x400000 = d := by omega
  have hpage : (a - 0x1000000) % 0x400000 / 0x1000 = 0x144 + h := by omega
  have hoff : a % 0x1000 = x := by omega
  have hunit : croftPageAt d (0x144 + h) = some (fireflyPage d h) := by
    simp only [croftPageAt]
    rw [if_neg (by omega), if_neg (by simp; omega), if_neg (by omega), if_neg (by omega), if_neg (by simp; omega),
      if_neg (by simp), if_pos (by simp; omega), Nat.add_sub_cancel_left]
  rw [resolve_dies m (by omega) (by omega), pageAt, if_neg (by omega), if_neg (by omega), if_pos (by omega), hdie, hpage, hoff, hunit]
  rfl

theorem resolve_hbm (m : Master) {k x : Nat} (hk : k < 16) (hx : x < 0x1000) : resolve m ((hbmPage k).reg x) = some (hbmPage k, x) := by
  have ha : (hbmPage k).reg x = 0x3000000 + k * 0x100000 + 0x1000 + x := by
    simp only [Page.reg, Page.base, hbmPage, stackPage]
  generalize (hbmPage k).reg x = a at ha
  have hstack : (a - 0x3000000) / 0x100000 = k := by omega
  have hpage : (a - 0x3000000) % 0x100000 / 0x1000 = 1 := by omega
  have hoff : a % 0x1000 = x := by omega
  rw [resolve_dies m (by omega) (by omega), pageAt, if_neg (by omega), if_neg (by omega), if_neg (by omega), if_pos (by omega)]
  dsimp only
  rw [hpage, hstack, hoff]
  rfl

/-! ### Registers that a state shares with another -/

theorem fld_of_reg {s t : State} (h : ∀ a, t.reg a = s.reg a) (p : Page) (f : FieldRow) (i : Nat) : t.fld p f i = s.fld p f i :=
  congrArg (getField · f.hi f.lo) (h _)

theorem State.SameBut.reg {w : List Part} {a b : State} (hs : State.SameBut w a b) (hw : .regs ∉ w) (x : Nat) : b.reg x = a.reg x := by
  rw [State.reg, State.reg, hs.regs hw]

@[simp] theorem State.fld_withKats (s : State) (v : SMap (Option KatRun)) (p : Page) (f : FieldRow) (i : Nat) :
    (s.withKats v).fld p f i = s.fld p f i := rfl

/-! ### Firefly's known-answer tests (R299, R300) -/

/-- The test that a Firefly's registers name. -/
def State.katNamed (s : State) (d h : Nat) : KatRun :=
  let pg := fireflyPage d h
  ⟨s.fld pg ffKatSeedHi_seed * 2 ^ 32 + s.fld pg ffKatSeedLo_seed, s.fld pg ffKatStream_stream,
    s.fld pg ffKatIndexHi_index * 2 ^ 32 + s.fld pg ffKatIndexLo_index⟩

theorem State.katNamed_of_reg {s t : State} (h : ∀ a, t.reg a = s.reg a) (d n : Nat) : t.katNamed d n = s.katNamed d n := by
  simp only [State.katNamed, fld_of_reg h]

theorem State.katStart_of_busy {s : State} {d h : Nat} (hb : s.fld (fireflyPage d h) ffKatCtrl_start = 1) : s.katStart d h = s :=
  if_pos hb

theorem State.katStart_of_free {s : State} {d h : Nat} (hb : s.fld (fireflyPage d h) ffKatCtrl_start = 0) :
    s.katStart d h = (s.withKats (SMap.set none (hamKey d h) (some (s.katNamed d h)) s.kats)).setFld (fireflyPage d h) ffKatCtrl_start 1 :=
  if_neg (by omega)

/-- A write of FF_KAT_CTRL.start stores nothing, and starts the test. -/
theorem ffKatStart_starts (m : Master) {d h : Nat} {s : State} (hok : hamletOk d h = true)
    (ha : s.accepts m (fireflyPage d h) 0x044 = true) :
    ∃ u, State.SameBut [.guards, .regs] s u ∧ (∀ a, u.reg a = s.reg a) ∧ exec (.ffKatStart m d h) s = .next (u.katStart d h) := by
  let w := landed m (fireflyPage d h) 0x044 1
  obtain ⟨u, armed, hu, -, hexec⟩ := exec_of_plain (c := .ffKatStart m d h) (if_pos hok) (resolve_firefly m hok (by decide)) ha
    (show w.plain = true from rfl)
  have hkept : ∀ f ∈ w.kept, f.acc = .ro ∨ f.acc = .wo ∨ f.acc = .rc := fun f hf => .inl (List.mem_singleton.mp hf ▸ rfl)
  have hstarts : w.starts 0 = true := by simp [w, BusWr.starts, landed, viewAt, fireflyPage, bitOf]
  have hact (x : State) (c : Nat) : x.unitAct u w armed c = x.katStart d h := by
    simp only [State.unitAct, show w.p.type = .firefly from rfl, show w.x = 0x044 from rfl, hstarts, if_true]
    rfl
  rw [State.squareAct_dies (.inl rfl), hact] at hexec
  refine ⟨_, (hu.mono (by decide)).trans ((w.written_same u armed).mono (by decide)), fun a => ?_, hexec⟩
  exact (BusWr.reg_written_readOnly hkept a).trans (hu.reg (by decide) a)

theorem firefly_lt (seed stream index : Nat) : firefly seed stream index < 2 ^ 32 := by
  have hw (x : Nat) : w64 x < 2 ^ 64 := Nat.mod_lt _ (Nat.two_pow_pos 64)
  exact Nat.div_lt_of_lt_mul (hw _)

/-- The end of a test writes FF_KAT_OUT, and ends `start`. -/
theorem ffKatDone_writes {d h : Nat} {s : State} {k : KatRun} (hk : SMap.get none s.kats (hamKey d h) = some k) :
    ∃ t, exec (.ffKatDone d h) s = .next t ∧ SMap.get none t.kats (hamKey d h) = none
      ∧ t.fld (fireflyPage d h) ffKatOut_out = firefly k.seed k.stream k.index
      ∧ t.fld (fireflyPage d h) ffKatCtrl_start = 0 ∧ t.fld (fireflyPage d h) ffKatCtrl_done = 1 ∧ State.SameBut [.regs, .kats] s t := by
  let u := s.withKats (SMap.set none (hamKey d h) none s.kats)
  let pg := fireflyPage d h
  let v := (u.setFld pg ffKatOut_out (firefly k.seed k.stream k.index)).setFld pg ffKatCtrl_start 0
  have hexec : exec (.ffKatDone d h) s = .next (v.setFld pg ffKatCtrl_done 1) := by
    show execFfKatDone d h s = _
    unfold execFfKatDone
    rw [hk]
  have hsame : State.SameBut [.regs] u (v.setFld pg ffKatCtrl_done 1) :=
    State.setFld_same (State.setFld_same (State.setFld_same (.refl _ u) (by decide)) (by decide)) (by decide)
  have hfar : fieldAddr pg ffKatOut_out 0 ≠ fieldAddr pg ffKatCtrl_start 0 := by simp [fieldAddr, Page.reg, ffKatOut_out, ffKatCtrl_start]
  refine ⟨_, hexec, ?_, ?_, ?_, ?_, (State.withKats_same (.refl _ s) (by decide)).trans (hsame.mono (by decide))⟩
  · rw [hsame.kats (by decide)]
    exact SMap.get_set_same none s.kats (hamKey d h) none
  · rw [State.fld_setFld_far _ pg pg ffKatOut_out ffKatCtrl_done 1 0 0 hfar, State.fld_setFld_far _ pg pg _ _ 0 0 0 hfar,
      State.fld_setFld _ _ _ _ _ (by decide) (by decide)]
    exact Nat.mod_eq_of_lt (firefly_lt _ _ _)
  · rw [State.fld_setFld_near _ pg ffKatCtrl_start ffKatCtrl_done 1 0 0 rfl (by decide) (by decide) (by decide) (by decide),
      State.fld_setFld _ _ _ _ _ (by decide) (by decide)]
    rfl
  · rw [State.fld_setFld _ _ _ _ _ (by decide) (by decide)]
    rfl

/-! ### Margin tests of a pseudo-channel (R262) -/

theorem State.SameBut.up {w : List Part} {a b : State} (hs : State.SameBut w a b) (hw : .board ∉ w) : b.up = a.up := by
  simp only [State.up, hs.board hw]

/-- The start of a margin test: the stack's mark, HBM_MARGIN_CTRL.start, and an empty HBM_MARGIN_RESULT. -/
theorem State.marginStart_starts {s : State} {k : Nat} (hmay : s.mayMargin k = true) :
    ((s.marginStart k).stack k).margin = some (s.fld (hbmPage k) hbmMarginCtrl_pc)
      ∧ (s.marginStart k).fld (hbmPage k) hbmMarginCtrl_start = 1 ∧ (s.marginStart k).reg ((hbmPage k).reg 0x064) = 0 := by
  let v := s.setStack k { s.stack k with margin := some (s.fld (hbmPage k) hbmMarginCtrl_pc) }
  have he : s.marginStart k = (v.setFld (hbmPage k) hbmMarginCtrl_start 1).setReg ((hbmPage k).reg 0x064) 0 := if_pos hmay
  have hsame : State.SameBut [.regs] v (s.marginStart k) := by
    rw [he]
    exact State.setReg_same (State.setFld_same (.refl _ v) (by decide)) (by decide)
  refine ⟨?_, ?_, ?_⟩
  · rw [hsame.stack (by decide), State.stack_setStack]
  · rw [he, State.fld_setReg_other _ _ _ _ _ _ (by simp [fieldAddr, Page.reg, hbmMarginCtrl_start]),
      State.fld_setFld _ _ _ _ _ (by decide) (by decide)]
    rfl
  · rw [he, State.reg_setReg_same]

/-- A write of HBM_MARGIN_CTRL with start 1 under the armed guard: pc, kind and offset are stored, and the test is started where it
may be. -/
theorem hbmMarginStart_stores (m : Master) {k : Nat} {v : Word} {s : State} (hk : k < 16) (ha : s.accepts m (hbmPage k) 0x060 = true)
    (hg : s.guardMatches (landed m (hbmPage k) 0x060 v) = true) (hv : v.getLsbD 0 = true) :
    ∃ u, HeardBut ((hbmPage k).reg 0x060) s u ∧ u.fld (hbmPage k) hbmMarginCtrl_pc = v.toNat / 2 % 64
      ∧ exec (.hbmMarginStart m k v) s = .next (u.marginStart k) := by
  let w := landed m (hbmPage k) 0x060 v
  obtain ⟨u, armed, hu, harmed, hexec⟩ := exec_of_plain (c := .hbmMarginStart m k v) (if_pos hk) (resolve_hbm m hk (by decide)) ha
    (show w.plain = true from rfl)
  have harmed : armed = true := (harmed nofun).trans hg
  subst harmed
  have hstore {f : FieldRow} (hacc : f.acc = .rwg) : w.MayStore true f := .inr (.inl ⟨hacc, rfl⟩)
  have hstart : bitOf (w.word u true).toNat 0 = true := by
    have hfield : getField (w.word u true) 0 0 = getField v 0 0 :=
      (BusWr.getField_word (f := hbmMarginCtrl_start) (List.mem_of_elem_eq_true rfl)).trans
        (BusWr.field_ordinary rfl rfl (hstore rfl) (by decide) (getField_lt _ _ _))
    have hbit := congrArg (Nat.testBit · 0) hfield
    simp only [getField_testBit, hv] at hbit
    simpa [bitOf, BitVec.getLsbD, Nat.testBit_zero] using hbit
  have hact (x : State) : x.unitAct u w true (w.word u true).toNat = x.marginStart k := by
    simp only [State.unitAct, show w.p.type = .hbm from rfl, show w.x = 0x060 from rfl, hstart, Bool.and_self, if_true]
    rfl
  rw [State.squareAct_dies (.inr (.inl rfl)), hact] at hexec
  refine ⟨_, ⟨(hu.mono (by decide)).trans ((w.written_same u true).mono (by decide)), fun y hy => ?_⟩, ?_, hexec⟩
  · exact (w.reg_written_other u true hy).trans (hu.reg (by decide) y)
  · exact (BusWr.getField_written (f := hbmMarginCtrl_pc) (List.mem_of_elem_eq_true rfl)).trans
      (BusWr.field_ordinary rfl rfl (hstore rfl) (by decide) (getField_lt _ _ _))

theorem State.marginStart_of_mayNot {s : State} {k : Nat} (hmay : s.mayMargin k = false) : s.marginStart k = s :=
  if_neg (Bool.eq_false_iff.mp hmay)

/-- The stack's registers at the end of a margin test that found n bit errors. -/
def State.marginShown (s : State) (k n : Nat) : State :=
  let pg := hbmPage k
  let s := (s.setFld pg hbmMarginCtrl_start 0).setFld pg hbmMarginCtrl_offset 0
  ((s.setFld pg hbmMarginResult_done 1).setFld pg hbmMarginResult_pass (if n = 0 then 1 else 0)).setFld pg hbmMarginResult_errors n

theorem State.marginShown_same (s : State) (k n : Nat) : State.SameBut [.regs] s (s.marginShown k n) :=
  State.setFld_same (State.setFld_same (State.setFld_same (State.setFld_same (State.setFld_same (.refl _ s) (by decide)) (by decide))
    (by decide)) (by decide)) (by decide)

theorem State.fld_marginShown (s : State) (k : Nat) {n : Nat} (hn : n < 65536) :
    (s.marginShown k n).fld (hbmPage k) hbmMarginCtrl_start = 0 ∧ (s.marginShown k n).fld (hbmPage k) hbmMarginResult_done = 1
      ∧ (s.marginShown k n).fld (hbmPage k) hbmMarginResult_errors = n := by
  have hfar {f : FieldRow} (hf : f.off = 0x064 ∧ f.stride = 0) : fieldAddr (hbmPage k) hbmMarginCtrl_start 0 ≠ fieldAddr (hbmPage k) f 0 := by
    simp [fieldAddr, Page.reg, hf, hbmMarginCtrl_start]
  unfold State.marginShown
  refine ⟨?_, ?_, ?_⟩
  · rw [State.fld_setFld_far _ _ _ _ _ _ _ _ (hfar ⟨rfl, rfl⟩), State.fld_setFld_far _ _ _ _ _ _ _ _ (hfar ⟨rfl, rfl⟩),
      State.fld_setFld_far _ _ _ _ _ _ _ _ (hfar ⟨rfl, rfl⟩),
      State.fld_setFld_near _ _ hbmMarginCtrl_start hbmMarginCtrl_offset 0 0 0 rfl (by decide) (by decide) (by decide) (by decide),
      State.fld_setFld _ _ _ _ _ (by decide) (by decide)]
    rfl
  · rw [State.fld_setFld_near _ _ hbmMarginResult_done hbmMarginResult_errors n 0 0 rfl (by decide) (by decide) (by decide) (by decide),
      State.fld_setFld_near _ _ hbmMarginResult_done hbmMarginResult_pass _ 0 0 rfl (by decide) (by decide) (by decide) (by decide),
      State.fld_setFld _ _ _ _ _ (by decide) (by decide)]
    rfl
  · rw [State.fld_setFld _ _ _ _ _ (by decide) (by decide)]
    exact Nat.mod_eq_of_lt hn

/-- A margin test ends: the stack's mark goes, and its registers show an open number of errors (log 2). -/
theorem hbmMarginDone_ends {s : State} {k pc : Nat} (h : (s.stack k).margin = some pc) :
    ∃ t, exec (.hbmMarginDone k) s = .next t ∧ (t.stack k).margin = none ∧ t.fld (hbmPage k) hbmMarginCtrl_start = 0
      ∧ t.fld (hbmPage k) hbmMarginResult_done = 1
      ∧ t.fld (hbmPage k) hbmMarginResult_errors = (Config.freeValue s.freeCount).toNat % 65536 := by
  let v := ((s.withFreeCount (s.freeCount + 1)).setStack k { s.stack k with margin := none }).withMargined
    ((k, pc, s.freeCount) :: s.margined.filter fun m => !(m.1 == k && m.2.1 == pc))
  let n := (Config.freeValue s.freeCount).toNat % 65536
  have hexec : exec (.hbmMarginDone k) s = .next (v.marginShown k n) := by
    show execHbmMarginDone k s = _
    unfold execHbmMarginDone
    rw [h]
    rfl
  obtain ⟨hstart, hdone, herrors⟩ := v.fld_marginShown k (n := n) (Nat.mod_lt _ (by decide))
  have hstack : (v.stack k).margin = none := congrArg StackMem.margin (State.stack_setStack (s.withFreeCount (s.freeCount + 1)) k _)
  refine ⟨_, hexec, ?_, hstart, hdone, herrors⟩
  rw [(v.marginShown_same k n).stack (by decide)]
  exact hstack

/-! ### Patrols, repairs and self-refresh (R209, R210, R259 to R261) -/

theorem execPatrolScrub_enters {s : State} {k : Nat} (hk : k < 16) (hup : s.up = true) (hen : s.fld (hbmPage k) hbmScrubCtrl_enable = 1)
    (htr : s.fld (hbmPage k) hbmStatus_trained = 1) (hroom : ((s.pair (k / 2)).queue 32).length < 16)
    (hq : ∀ e, e ∈ (s.pair (k / 2)).queue 32 → e.word ≠ patrolWord k) (hr : ∀ e, e ∈ (s.pair (k / 2)).running → e.word ≠ patrolWord k) :
    exec (.patrolScrub k) s
      = .next (s.setPair (k / 2) ((s.pair (k / 2)).setQueue 32 ((s.pair (k / 2)).queue 32 ++ [{ run := 0, word := patrolWord k }]))) := by
  have hqueue : ((s.pair (k / 2)).queue 32).any (fun e => e.word == patrolWord k) = false := by simpa using hq
  have hrunning : (s.pair (k / 2)).running.any (fun e => e.word == patrolWord k) = false := by simpa using hr
  show execPatrolScrub k s = _
  simp only [execPatrolScrub, hup, hen, htr, hqueue, hrunning]
  exact if_neg (by simp; omega)

section Repair

variable {s : State} {k pc row : Nat}

/-- A row of the stack that needs a repair: a spare is taken where one is left and no step runs on the die. -/
theorem execSoftRepair_row (hk : k < 16) (hup : s.up = true) (halign : row % 32 = 0) (hin : row * 32 < 0x1800000000)
    (hstack : stackOf (k / 2) (row * 32) = k) (hpc : pcIndex (row * 32) % 64 = pc) (hneeds : (s.stack k).needsRepair row = true) :
    exec (.softRepair k pc row) s = if s.spareLeft k pc = 0 then .next (s.repairExhausted k)
      else .next (if s.stepOn (k / 2) then s else s.repairRow k pc row) := by
  show execSoftRepair k pc row s = _
  simp only [execSoftRepair, hup, halign, hin, hstack, hpc, hneeds]
  exact if_neg (by simp; omega)

/-- Without a spare row the stack is degraded (R261). -/
theorem State.repairExhausted_degrades (s : State) (k : Nat) :
    (s.repairExhausted k).fld (hbmPage k) hbmStatus_degraded = 1 ∧ State.SameBut [.regs, .out] s (s.repairExhausted k) := by
  have hdie : croftBase ≤ fieldAddr (hbmPage k) hbmStatus_degraded 0 := by
    simp only [fieldAddr, Page.reg, Page.base, hbmPage, stackPage, croftBase]
    omega
  constructor
  · refine (congrArg (getField · 1 1) (State.reg_alert _ (by decide) hdie)).trans ?_
    exact State.fld_setFld _ (hbmPage k) hbmStatus_degraded 1 0 (by decide) (by decide)
  · exact State.alert_same (State.setFld_same (State.event_same (.refl _ s) (by decide)) (by decide)) (by decide)

end Repair

theorem execSelfRefreshEntry_enters {s : State} {k : Nat} (hk : k < 16) (hup : s.up = true) (htw : s.inTwilight (k / 2) = true)
    (hidle : (s.pair (k / 2)).running = []) :
    exec (.selfRefreshEntry k) s = .next (s.setFld (stackPage .granary k) granaryStatus_selfRefresh 1) :=
  congrArg Host.Outcome.next (if_pos (by simp [hk, hup, htw, hidle]))

/-- Settles O17: starts of tests are register writes that start what `katStart` and `marginStart` say; the events act on their stack. -/
theorem testsAndStackEventsAct : Obligations.TestsAndStackEventsAct := by
  refine ⟨fun m d h v s => ⟨?kat, fun hd ha hg hv => ?margin, fun k hk => ffKatDone_writes hk⟩, fun k pc row s hk =>
    ⟨execPatrolScrub_enters hk,
      fun hup halign hin hstack hpc hneeds => ?repair, execSelfRefreshEntry_enters hk, fun n hn => hbmMarginDone_ends hn⟩⟩
  case kat =>
    intro hok ha pg
    obtain ⟨u, hu, hreg, hexec⟩ := ffKatStart_starts m hok ha
    refine ⟨_, hexec, fun hbusy => ?_, fun hfree => ?_⟩
    · rw [State.katStart_of_busy ((fld_of_reg hreg _ _ _).trans hbusy)]
      exact ⟨hu, hreg⟩
    · rw [State.katStart_of_free ((fld_of_reg hreg _ _ _).trans hfree)]
      refine ⟨State.fld_setFld _ _ _ _ _ (by decide) (by decide), ?_⟩
      rw [(State.setFld_same (.refl [.regs] _) (by decide)).kats (by decide), State.withKats_kats, SMap.get_set_same,
        State.katNamed_of_reg hreg]
      rfl
  case margin =>
    obtain ⟨u, ⟨hu, hreg⟩, hpc, hexec⟩ := hbmMarginStart_stores m hd ha hg hv
    have hup : u.up = true := by
      simp only [State.accepts, State.hears, Bool.and_eq_true] at ha
      obtain ⟨⟨-, hserved⟩, -⟩ := ha
      exact (hu.up (by decide)).trans hserved
    have hmay : u.mayMargin d = (!s.loader.loadedOnce && s.board.vfs == 0 && (s.stack d).margin.isNone) := by
      rw [State.mayMargin, hup, hu.loader (by decide), hu.board (by decide), hu.stack (by decide), Bool.true_and]
    refine ⟨_, hexec, fun hnone hvfs hfree => ?_, fun hno => ?_⟩
    · rw [← hpc]
      exact State.marginStart_starts (by simp [hmay, hnone, hvfs, hfree])
    · rw [State.marginStart_of_mayNot (by rw [hmay]; rcases hno with h | h | h <;> simp [h])]
      exact ⟨hu, hreg⟩
  case repair =>
    rw [execSoftRepair_row hk hup halign hin hstack hpc hneeds]
    refine ⟨fun hspare hidle => ?_, fun hspare => ⟨_, if_pos hspare, s.repairExhausted_degrades k⟩⟩
    rw [if_neg (by omega), hidle]
    exact congrArg Host.Outcome.next (if_neg Bool.false_ne_true)

/-! ### Writes of the functions' command registers (R254, R310, R397) -/

theorem viewAt_low (p : Page) {raw : Nat} (h : raw < 0x400) : viewAt p raw = (.direct, raw) :=
  if_pos (by simp [h])

theorem landed_low (m : Master) (p : Page) {raw : Nat} (h : raw < 0x400) (v : Word) : landed m p raw v = ⟨m, p, raw, .direct, raw, v⟩ := by
  rw [landed, viewAt_low p h]

/-- A write past the common registers that reaches a field is plain, where no field of its register is the Watchman's alone. -/
theorem BusWr.plain_host {w : BusWr} {f : FieldRow} {fs : List FieldRow} (hp : w.p.type = .host)
    (hf : PageType.host.fieldsAt w.x = f :: fs) (hfree : (f :: fs).any (· == faultFence_fenced) = false) (hx : 0x100 ≤ w.x) :
    w.plain = true := by
  have hcommon : [0x014, 0x018, 0x01C, 0x024, 0x030].contains w.x = false := by
    simp
    omega
  have hrights : watchmanOnly w.p = (· == faultFence_fenced) := by
    funext g
    simp [watchmanOnly, hp]
  simp only [BusWr.plain, hp, hf, hcommon, hrights, hfree]
  rfl

/-- Of the Square die's actions a HOST page has FIELD_CMD alone. -/
theorem State.squareAct_host (s : State) {w : BusWr} (hp : w.p.type = .host) (hx : w.x ≠ 0x208) (armed : Bool) (c : Nat) :
    s.squareAct w armed c = s := by
  unfold State.squareAct
  split <;> simp_all

theorem State.squareAct_fieldCmd (s : State) {w : BusWr} (hp : w.p.type = .host) (hx : w.x = 0x208) (hview : w.view = .direct)
    (armed : Bool) (c : Nat) : s.squareAct w armed c = s.fieldCmd w.p.i w.v.toNat := by
  simp only [State.squareAct, hp, hx, hview, if_true]

/-- Of the other actions a HOST page has the DMA channels' alone. -/
theorem State.unitAct_host (s b : State) {w : BusWr} (hp : w.p.type = .host) (hx : 0x180 ≤ w.x) (armed : Bool) (c : Nat) :
    s.unitAct b w armed c = s := by
  have hhi : ¬ w.x < 0x180 := by omega
  simp only [State.unitAct, hp, hhi, decide_false, Bool.and_false, Bool.false_eq_true, if_false]

section Dma

variable (s b : State) {w : BusWr} {ch : Nat} (hp : w.p.type = .host) (hch : ch < 4) (armed : Bool) (c : Nat)
include hp hch

theorem State.unitAct_dmaTail (hx : w.x = 0x10C + 32 * ch) :
    s.unitAct b w armed c = s.dmaDoorbell w.p.i ch (bitsOf c 11 0) := by
  have hlo : 0x100 ≤ w.x := by omega
  have hhi : w.x < 0x180 := by omega
  have hchan : (w.x - 0x100) / 0x20 = ch := by omega
  have hreg : w.x % 0x20 = 0x0C := by omega
  simp only [State.unitAct, hp, hlo, hhi, hchan, hreg, decide_true, Bool.and_self, if_true]

theorem State.unitAct_dmaCtrl (hx : w.x = 0x108 + 32 * ch) : s.unitAct b w armed c = s.dmaChanged b w.p.i ch := by
  have hlo : 0x100 ≤ w.x := by omega
  have hhi : w.x < 0x180 := by omega
  have hchan : (w.x - 0x100) / 0x20 = ch := by omega
  have hreg : w.x % 0x20 = 0x08 := by omega
  simp only [State.unitAct, hp, hlo, hhi, hchan, hreg, decide_true, Bool.and_self, if_true]

end Dma

theorem fieldsAt_fieldCmd : PageType.host.fieldsAt 0x208 = [fieldCmd_op, fieldCmd_rd, fieldCmd_wr, fieldCmd_function] := by decide

theorem fieldsAt_dmaTail : ∀ ch < 4, PageType.host.fieldsAt (0x10C + 32 * ch) = [dmaTail_tail] := by decide

theorem fieldsAt_dmaCtrl : ∀ ch < 4, PageType.host.fieldsAt (0x108 + 32 * ch) = [dmaCtrl_enable, dmaCtrl_log2Size, dmaCtrl_vector] := by
  decide

/-- The rings of a function are in the first page of its doorbells (R433). -/
theorem resolve_ring (f : Nat) {r x : Nat} (hr : r < 64) (hx : x < 0x40) :
    resolve (.host f) (0x4080000 + r * 0x40 + x) = some (ringPage f r, x) := by
  have hring : (0x4080000 + r * 0x40 + x - 0x4080000) / 0x40 = r := by omega
  have hoff : (0x4080000 + r * 0x40 + x - 0x4080000) % 0x40 = x := by omega
  simp only [resolve]
  rw [if_neg (by omega), if_neg (by omega), if_pos (by simp; omega), hring, hoff]

/-- A plain write that stores nothing starts what its register starts, and leaves every register. -/
theorem exec_of_unstored {c : Instr} {m : Master} {a raw : Nat} {v : Word} {p : Page} {s : State} (hc : busOf c = some (m, a, v))
    (hr : resolve m a = some (p, raw)) (ha : s.accepts m p raw = true) (hp : (landed m p raw v).plain = true)
    (hkept : ∀ f ∈ (landed m p raw v).kept, f.acc = .ro ∨ f.acc = .wo ∨ f.acc = .rc) :
    let w := landed m p raw v
    ∃ u b armed, Heard s u
      ∧ exec c s = .next ((u.squareAct w armed (w.word b armed).toNat).unitAct b w armed (w.word b armed).toNat) := by
  intro w
  obtain ⟨b, armed, hb, -, hexec⟩ := exec_of_plain hc hr ha hp
  refine ⟨w.written b armed, b, armed, ⟨(hb.mono (by decide)).trans ((w.written_same b armed).mono (by decide)), fun x => ?_⟩, hexec⟩
  exact (BusWr.reg_written_readOnly hkept x).trans (hb.reg (by decide) x)

/-- The bits of a field that a direct write may store, in the word that its action sees. -/
theorem BusWr.bitsOf_word {w : BusWr} {b : State} {armed : Bool} {f : FieldRow} (hview : w.view = .direct)
    (hpage : w.p.type.mayKeep = false) (hf : f ∈ w.p.type.fieldsAt w.x) (hacc : f.acc = .rw) (hord : f.ordinary = true) :
    bitsOf (w.word b armed).toNat f.hi f.lo = bitsOf w.v.toNat f.hi f.lo :=
  (BusWr.getField_word hf).trans (BusWr.field_ordinary hview hpage (.inl hacc) hord (getField_lt _ _ _))

/-! ### FIELD_CMD (R254) -/

section FieldCmd

variable {s : State} {f v : Nat}

/-- The request that a FIELD_CMD word makes with the registers as they stand. -/
def State.fieldAsked (s : State) (f v : Nat) : FieldReq :=
  ⟨v % 4, s.fld (hostPage f) fieldVa_vaPage, s.fld (hostPage f) fieldPa_paPage, v.testBit 2, v.testBit 3, v / 16 % 32⟩

theorem bitOf_eq_testBit (w i : Nat) : bitOf w i = w.testBit i := by
  rw [bitOf, Nat.testBit_eq_decide_div_mod_eq]

theorem State.fieldCmd_of_busy (hb : s.fld (hostPage f) fieldStatus_busy = 1) :
    s.fieldCmd f v = s.setFld (hostPage f) fieldStatus_overrun 1 := if_pos hb

theorem State.fieldCmd_of_free (hb : s.fld (hostPage f) fieldStatus_busy = 0) (hv : v % 4 = 1 ∨ v % 4 = 2) :
    s.fieldCmd f v = (s.withFieldReqs (SMap.set none f (some (s.fieldAsked f v)) s.fieldReqs)).setFld (hostPage f) fieldStatus_busy 1 := by
  unfold State.fieldCmd State.fieldAsked
  simp only [bitOf_eq_testBit]
  rw [if_neg (by omega), if_pos (by simpa using hv)]
  rfl

theorem State.fieldAsked_of_reg {u : State} (h : ∀ a, u.reg a = s.reg a) : u.fieldAsked f v = s.fieldAsked f v := by
  simp only [State.fieldAsked, fld_of_reg h]

end FieldCmd

/-- A write of FIELD_CMD stores nothing, and hands its word to the Field map. -/
theorem exec_of_fieldCmd {c : Instr} {m : Master} {f : Nat} {v : Word} {s : State} (hc : busOf c = some (m, hostAddr m f + 0x208, v))
    (hr : resolve m (hostAddr m f + 0x208) = some (hostPage f, 0x208)) (ha : s.accepts m (hostPage f) 0x208 = true) :
    ∃ u, Heard s u ∧ exec c s = .next (u.fieldCmd f v.toNat) := by
  have hw := landed_low m (hostPage f) (show 0x208 < 0x400 by decide) v
  have hkept : ∀ g ∈ (landed m (hostPage f) 0x208 v).kept, g.acc = .ro ∨ g.acc = .wo ∨ g.acc = .rc := by
    have hwo : ∀ g ∈ PageType.host.fieldsAt 0x208, g.acc = .wo := by
      rw [fieldsAt_fieldCmd]
      decide
    rw [hw]
    exact fun g hg => .inr (.inl (hwo g (BusWr.kept_subset hg)))
  obtain ⟨u, b, armed, hu, hexec⟩ := exec_of_unstored hc hr ha (by rw [hw]; exact BusWr.plain_host rfl fieldsAt_fieldCmd rfl (show 0x100 ≤ 0x208 by decide)) hkept
  rw [hw, State.squareAct_fieldCmd u rfl rfl rfl, State.unitAct_host _ b rfl (show 0x180 ≤ 0x208 by decide)] at hexec
  exact ⟨u, hu, hexec⟩

/-! ### The doorbells of the DMA channels (R397) -/

/-- Registers of one channel with different offsets lie apart. -/
theorem State.dmaFld_setFld_far (s : State) (f ch : Nat) {x y : FieldRow} (v : Nat) (hx : x.stride = 32) (hy : y.stride = 32)
    (h : x.off ≠ y.off) : (s.setFld (hostPage f) y v ch).dmaFld f ch x = s.dmaFld f ch x :=
  State.fld_setFld_far _ _ _ _ _ _ _ _ (by simp only [fieldAddr, Page.reg, hx, hy]; omega)

theorem State.dmaFld_setFld (s : State) (f ch : Nat) (x : FieldRow) (v : Nat) (hl : x.lo ≤ x.hi) (h : x.hi < 32) :
    (s.setFld (hostPage f) x v ch).dmaFld f ch x = v % 2 ^ (x.hi + 1 - x.lo) := State.fld_setFld _ _ _ _ _ hl h

theorem State.dmaDoorbell_acts (s : State) (f ch : Nat) {n : Nat} (hn : n < 4096) :
    State.SameBut [.regs] s (s.dmaDoorbell f ch n)
      ∧ (n < s.dmaSize f ch → s.dmaFld f ch dmaCtrl_enable = 1 → (s.dmaDoorbell f ch n).dmaFld f ch dmaTail_tail = n)
      ∧ (s.dmaSize f ch ≤ n ∨ s.dmaFld f ch dmaCtrl_enable = 0 →
        (s.dmaDoorbell f ch n).dmaFld f ch dmaTail_tail = s.dmaFld f ch dmaTail_tail
          ∧ (s.dmaDoorbell f ch n).dmaFld f ch dmaStatus_overrun = 1) := by
  unfold State.dmaDoorbell
  refine ⟨same_ite (State.setFld_same (.refl _ s) (by decide)) (State.setFld_same (.refl _ s) (by decide)), fun hin hon => ?_, fun hout => ?_⟩
  · rw [if_neg (by simp; omega), State.dmaFld_setFld _ _ _ _ _ (by decide) (by decide)]
    exact Nat.mod_eq_of_lt hn
  · rw [if_pos (by simpa using hout)]
    exact ⟨State.dmaFld_setFld_far _ _ _ _ rfl rfl (by decide), State.dmaFld_setFld _ _ _ _ _ (by decide) (by decide)⟩

theorem exec_dmaTail {m : Master} {f ch : Nat} {v : Word} {s : State} (hch : ch < 4)
    (ha : s.accepts m (hostPage f) (0x10C + 32 * ch) = true)
    (hr : resolve m (hostAddr m f + 0x10C + 32 * ch) = some (hostPage f, 0x10C + 32 * ch)) :
    ∃ u, Heard s u ∧ exec (.dmaTail m f ch v) s = .next (u.dmaDoorbell f ch (v.toNat % 4096)) := by
  have hw := landed_low m (hostPage f) (show 0x10C + 32 * ch < 0x400 by omega) v
  have hbus : busOf (.dmaTail m f ch v) = some (m, hostAddr m f + 0x10C + 32 * ch, v) := by
    rw [busOf, if_pos hch]
    congr 3
    omega
  have hfields := fieldsAt_dmaTail ch hch
  have hkept : (landed m (hostPage f) (0x10C + 32 * ch) v).kept = [] := by
    rw [hw]
    simp only [BusWr.kept, hostPage, hfields]
    rfl
  obtain ⟨u, b, armed, hu, hexec⟩ := exec_of_unstored hbus hr ha
    (by rw [hw]; exact BusWr.plain_host rfl hfields rfl (by simp only; omega)) (by simp [hkept])
  have hword : bitsOf ((landed m (hostPage f) (0x10C + 32 * ch) v).word b armed).toNat 11 0 = v.toNat % 4096 := by
    rw [hw]
    refine (BusWr.bitsOf_word (f := dmaTail_tail) rfl rfl (hfields.symm ▸ List.mem_singleton_self _) rfl (by decide)).trans ?_
    simp [bitsOf, dmaTail_tail]
  refine ⟨u, hu, ?_⟩
  rw [← hword, hexec]
  rw [hw, State.squareAct_host u rfl (by simp only; omega), State.unitAct_dmaTail u b rfl hch _ _ rfl]
  rfl
/-! ### The doorbells of the rings (R310, R311) -/

/-- Registers of one ring with different offsets lie apart. -/
theorem State.ringFld_setRingFld_far (s : State) (f r : Nat) {x y : FieldRow} (v : Nat) (h : x.off ≠ y.off) :
    (s.setRingFld f r y v).ringFld f r x = s.ringFld f r x :=
  State.fld_setFld_far _ _ _ _ _ _ _ _ (by simpa [fieldAddr, Page.reg] using h)

theorem State.ringFld_setRingFld (s : State) (f r : Nat) (x : FieldRow) (v : Nat) (hl : x.lo ≤ x.hi) (h : x.hi < 32) :
    (s.setRingFld f r x v).ringFld f r x = v % 2 ^ (x.hi + 1 - x.lo) := State.fld_setFld _ _ _ _ _ hl h

/-- How far an index of the completions lies ahead of CMPL_HEAD. -/
def State.cmplAhead (s : State) (f r k : Nat) : Nat := (k + s.ringSize f r - s.ringFld f r cmplHead_head % s.ringSize f r) % s.ringSize f r

theorem State.ringDoorbell_acts (s : State) (f r : Nat) {n : Nat} (hn : n < 65536) :
    State.SameBut [.regs] s (s.ringDoorbell f r n)
      ∧ (n < s.ringSize f r → s.ringFld f r ringCtrl_enable = 1 → (s.ringDoorbell f r n).ringFld f r ringTail_tail = n)
      ∧ (s.ringSize f r ≤ n ∨ s.ringFld f r ringCtrl_enable = 0 →
        (s.ringDoorbell f r n).ringFld f r ringTail_tail = s.ringFld f r ringTail_tail
          ∧ (s.ringDoorbell f r n).ringFld f r ringStatus_overrun = 1) := by
  unfold State.ringDoorbell
  refine ⟨same_ite (State.setRingFld_same (.refl _ s) (by decide)) (State.setRingFld_same (.refl _ s) (by decide)),
    fun hin hon => ?_, fun hout => ?_⟩
  · rw [if_neg (by simp; omega), State.ringFld_setRingFld _ _ _ _ _ (by decide) (by decide)]
    exact Nat.mod_eq_of_lt hn
  · rw [if_pos (by simpa using hout)]
    exact ⟨State.ringFld_setRingFld_far _ _ _ _ (by decide), State.ringFld_setRingFld _ _ _ _ _ (by decide) (by decide)⟩

theorem State.ringConsume_acts (s : State) (f r : Nat) {n : Nat} (hn : n < 65536) :
    State.SameBut [.regs] s (s.ringConsume f r n)
      ∧ (n < s.ringSize f r → s.cmplAhead f r n ≤ s.cmplAhead f r (s.ringFld f r cmplTail_tail) →
        (s.ringConsume f r n).ringFld f r cmplHead_head = n)
      ∧ (s.ringSize f r ≤ n ∨ s.cmplAhead f r (s.ringFld f r cmplTail_tail) < s.cmplAhead f r n →
        (s.ringConsume f r n).ringFld f r cmplHead_head = s.ringFld f r cmplHead_head
          ∧ (s.ringConsume f r n).ringFld f r ringStatus_overrun = 1) := by
  have he : s.ringConsume f r n = if s.ringSize f r ≤ n ∨ s.cmplAhead f r (s.ringFld f r cmplTail_tail) < s.cmplAhead f r n
      then s.setRingFld f r ringStatus_overrun 1 else s.setRingFld f r cmplHead_head n := by
    simp only [State.ringConsume, State.cmplAhead, Bool.or_eq_true, decide_eq_true_eq]
    rfl
  rw [he]
  refine ⟨same_ite (State.setRingFld_same (.refl _ s) (by decide)) (State.setRingFld_same (.refl _ s) (by decide)),
    fun hin hfree => ?_, fun hout => ?_⟩
  · rw [if_neg (by omega), State.ringFld_setRingFld _ _ _ _ _ (by decide) (by decide)]
    exact Nat.mod_eq_of_lt hn
  · rw [if_pos hout]
    exact ⟨State.ringFld_setRingFld_far _ _ _ _ (by decide), State.ringFld_setRingFld _ _ _ _ _ (by decide) (by decide)⟩

theorem exec_ringTail {f r : Nat} {v : Word} {s : State} (hr : r < 64) (ha : s.accepts (.host f) (ringPage f r) 0x14 = true) :
    ∃ u, Heard s u ∧ exec (.ringTail f r v) s = .next (u.ringDoorbell f r (v.toNat % 65536)) := by
  let w := landed (.host f) (ringPage f r) 0x14 v
  obtain ⟨u, b, armed, hu, hexec⟩ := exec_of_unstored (c := .ringTail f r v) (if_pos hr) (resolve_ring f hr (by decide)) ha
    (show w.plain = true from rfl) (show ∀ g ∈ w.kept, _ from nofun)
  have hword : bitsOf (w.word b armed).toNat 15 0 = v.toNat % 65536 := by
    refine (BusWr.bitsOf_word (f := ringTail_tail) rfl rfl (List.mem_of_elem_eq_true rfl) rfl (by decide)).trans ?_
    simp [bitsOf, ringTail_tail, w, landed]
  rw [State.squareAct_dies (.inr (.inr rfl))] at hexec
  exact ⟨u, hu, hexec.trans (congrArg (fun n => Host.Outcome.next (u.ringDoorbell f r n)) hword)⟩

theorem exec_cmplHead {f r : Nat} {v : Word} {s : State} (hr : r < 64) (ha : s.accepts (.host f) (ringPage f r) 0x24 = true) :
    ∃ u, Heard s u ∧ exec (.cmplHead f r v) s = .next (u.ringConsume f r (v.toNat % 65536)) := by
  let w := landed (.host f) (ringPage f r) 0x24 v
  obtain ⟨u, b, armed, hu, hexec⟩ := exec_of_unstored (c := .cmplHead f r v) (if_pos hr) (resolve_ring f hr (by decide)) ha
    (show w.plain = true from rfl) (show ∀ g ∈ w.kept, _ from nofun)
  have hword : bitsOf (w.word b armed).toNat 15 0 = v.toNat % 65536 := by
    refine (BusWr.bitsOf_word (f := cmplHead_head) rfl rfl (List.mem_of_elem_eq_true rfl) rfl (by decide)).trans ?_
    simp [bitsOf, cmplHead_head, w, landed]
  rw [State.squareAct_dies (.inr (.inr rfl))] at hexec
  exact ⟨u, hu, hexec.trans (congrArg (fun n => Host.Outcome.next (u.ringConsume f r n)) hword)⟩

/-! ### Enabling a ring or a channel (R310, R397) -/

theorem getField_bit {v : Word} (h : v.getLsbD 0 = true) : getField v 0 0 = 1 := by
  have hbit : (getField v 0 0).testBit 0 = true := by
    rw [getField_testBit, h]
    rfl
  have hlt := getField_lt v 0 0
  rw [Nat.testBit_zero, decide_eq_true_eq] at hbit
  omega

/-- The registers of a ring that is enabled: its indices and its marks are 0. -/
def State.ringCleared (s : State) (f r : Nat) : State :=
  (((((s.setRingFld f r ringTail_tail 0).setRingFld f r ringHead_head 0).setRingFld f r cmplTail_tail 0).setRingFld f r
    cmplHead_head 0).setRingFld f r ringStatus_fault 0).setRingFld f r ringStatus_held 0

/-- A disabled ring that is enabled starts at 0. -/
theorem State.ringChanged_starts {s b : State} {f r : Nat} (hoff : b.ringFld f r ringCtrl_enable = 0)
    (hon : s.ringFld f r ringCtrl_enable = 1) (a : Nat) : (s.ringChanged b f r).reg a = (s.ringCleared f r).reg a := by
  have hwords : b.ringWords f r ≠ s.ringWords f r := by
    intro h
    have hctrl : b.reg ((ringPage f r).reg 0x08) = s.reg ((ringPage f r).reg 0x08) := by
      simp only [State.ringWords, List.map_cons, List.cons.injEq] at h
      obtain ⟨-, -, hctrl, -⟩ := h
      exact hctrl
    have henable : b.ringFld f r ringCtrl_enable = s.ringFld f r ringCtrl_enable := congrArg (getField · 0 0) hctrl
    omega
  have hunits : State.SameBut [.loader, .ringLost] (s.ringCleared f r) (s.ringChanged b f r) := by
    rw [State.ringChanged, if_neg (by simpa using hwords), if_pos (by simp [hoff, hon])]
    exact State.withRingLost_same (State.withLoader_same (.refl _ (s.ringCleared f r)) (by decide)) (by decide)
  exact hunits.reg (by decide) a

theorem State.ringCleared_zero (s : State) (f r : Nat) :
    (s.ringCleared f r).ringFld f r ringCtrl_enable = s.ringFld f r ringCtrl_enable
      ∧ (s.ringCleared f r).ringFld f r ringTail_tail = 0 ∧ (s.ringCleared f r).ringFld f r ringHead_head = 0
      ∧ (s.ringCleared f r).ringFld f r cmplTail_tail = 0 ∧ (s.ringCleared f r).ringFld f r cmplHead_head = 0 := by
  simp (disch := decide) only [State.ringCleared, State.ringFld_setRingFld_far, State.ringFld_setRingFld, Nat.zero_mod, and_self]

theorem exec_ringCtrlWrite {f r : Nat} {v : Word} {s : State} (hr : r < 64) (ha : s.accepts (.host f) (ringPage f r) 0x08 = true)
    (hv : v.getLsbD 0 = true) (hoff : s.ringFld f r ringCtrl_enable = 0) :
    ∃ u b : State, b.ringFld f r ringCtrl_enable = 0 ∧ u.ringFld f r ringCtrl_enable = 1
      ∧ exec (.ringCtrlWrite f r v) s = .next (u.ringChanged b f r) := by
  let w := landed (.host f) (ringPage f r) 0x08 v
  obtain ⟨b, armed, hb, -, hexec⟩ := exec_of_plain (c := .ringCtrlWrite f r v) (if_pos hr) (resolve_ring f hr (by decide)) ha
    (show w.plain = true from rfl)
  rw [State.squareAct_dies (.inr (.inr rfl))] at hexec
  refine ⟨w.written b armed, b, (fld_of_reg (hb.reg (by decide)) _ _ _).trans hoff, ?_, hexec⟩
  calc getField ((w.written b armed).reg (w.p.reg w.x)) 0 0
      = getField v 0 0 := (BusWr.getField_written (f := ringCtrl_enable) (List.mem_of_elem_eq_true rfl)).trans
        (BusWr.field_ordinary rfl rfl (.inl rfl) (by decide) (getField_lt _ _ _))
    _ = 1 := getField_bit hv

/-- A disabled and idle channel that is enabled starts at 0. -/
theorem State.dmaChanged_starts {s b : State} {f ch : Nat} (hoff : b.dmaFld f ch dmaCtrl_enable = 0)
    (hon : s.dmaFld f ch dmaCtrl_enable = 1)
    (hidle : b.dmaFld f ch dmaHead_head = b.dmaFld f ch dmaTail_tail) (hruns : b.dmaRuns f ch = []) :
    s.dmaChanged b f ch = (s.setFld (hostPage f) dmaHead_head 0 ch).setFld (hostPage f) dmaTail_tail 0 ch := by
  unfold State.dmaChanged
  rw [if_neg (by simp [hoff, hon]), if_neg (by simp [hidle, hruns]), if_pos (by simp [hoff, hon])]

theorem exec_dmaCtrlWrite {m : Master} {f ch : Nat} {v : Word} {s : State} (hch : ch < 4)
    (ha : s.accepts m (hostPage f) (0x108 + 32 * ch) = true)
    (hr : resolve m (hostAddr m f + 0x108 + 32 * ch) = some (hostPage f, 0x108 + 32 * ch)) (hv : v.getLsbD 0 = true) :
    ∃ u b : State, State.SameBut [.guards] s b ∧ u.dmaFld f ch dmaCtrl_enable = 1
      ∧ exec (.dmaCtrlWrite m f ch v) s = .next (u.dmaChanged b f ch) := by
  let w := landed m (hostPage f) (0x108 + 32 * ch) v
  have hw : w = ⟨m, hostPage f, 0x108 + 32 * ch, .direct, 0x108 + 32 * ch, v⟩ := landed_low m _ (by omega) v
  have hbus : busOf (.dmaCtrlWrite m f ch v) = some (m, hostAddr m f + 0x108 + 32 * ch, v) := by
    rw [busOf, if_pos hch]
    congr 3
    omega
  have hfields := fieldsAt_dmaCtrl ch hch
  obtain ⟨b, armed, hb, -, hexec⟩ := exec_of_plain hbus hr ha
    (by change w.plain = true; rw [hw]; exact BusWr.plain_host rfl hfields rfl (by simp only; omega))
  have hkept : dmaCtrl_enable ∈ w.kept := by
    rw [hw]
    simp only [BusWr.kept, hostPage, hfields]
    exact List.mem_of_elem_eq_true rfl
  have henable : getField ((w.written b armed).reg (w.p.reg w.x)) 0 0 = 1 :=
    calc getField ((w.written b armed).reg (w.p.reg w.x)) 0 0
        = getField w.v 0 0 := (BusWr.getField_written (f := dmaCtrl_enable) hkept).trans
          (BusWr.field_ordinary (by rw [hw]) (by rw [hw]; rfl) (.inl rfl) (by decide) (getField_lt _ _ _))
      _ = 1 := getField_bit (by rw [hw]; exact hv)
  have haddr : w.p.reg w.x = fieldAddr (hostPage f) dmaCtrl_enable ch := by
    rw [hw, fieldAddr, Nat.mul_comm 32]
    rfl
  rw [haddr] at henable
  refine ⟨w.written b armed, b, hb, henable, ?_⟩
  · rw [hexec]
    change Host.Outcome.next (((w.written b armed).squareAct w armed _).unitAct b w armed _) = _
    rw [State.squareAct_host _ (by rw [hw]; rfl) (by rw [hw]; simp only; omega),
      State.unitAct_dmaCtrl _ b (by rw [hw]; rfl) hch _ _ (by rw [hw])]
    rw [hw]
    rfl

/-- Settles O16: each command is a register write whose action is the Field map's, the doorbell's or the enable's. -/
theorem hostWritesAct : Obligations.HostWritesAct := by
  refine ⟨fun m f v s => ⟨?fieldCmd, ?dmaTail, ?rings⟩, fun m f v s hv => ⟨?enableRing, ?enableDma⟩⟩
  case fieldCmd =>
    intro _ ha hr c hc
    obtain ⟨hop, hbus⟩ : (v.toNat % 4 = 1 ∨ v.toNat % 4 = 2) ∧ busOf c = some (m, hostAddr m f + 0x208, v) := by
      rcases hc with ⟨hop, rfl⟩ | ⟨hop, rfl⟩
      · exact ⟨.inl hop, if_pos hop⟩
      · exact ⟨.inr hop, if_pos hop⟩
    obtain ⟨u, ⟨hu, hreg⟩, hexec⟩ := exec_of_fieldCmd hbus hr ha
    refine ⟨_, hexec, fun hbusy => ?_, fun hfree => ?_, ?_⟩
    · rw [State.fieldCmd_of_busy ((fld_of_reg hreg _ _ _).trans hbusy)]
      exact ⟨((State.setFld_same (.refl [.regs] u) (by decide)).fieldReqs (by decide)).trans (hu.fieldReqs (by decide)),
        State.fld_setFld _ _ _ _ _ (by decide) (by decide)⟩
    · rw [State.fieldCmd_of_free ((fld_of_reg hreg _ _ _).trans hfree) hop]
      refine ⟨State.fld_setFld _ _ _ _ _ (by decide) (by decide), ?_⟩
      rw [(State.setFld_same (.refl [.regs] _) (by decide)).fieldReqs (by decide), State.withFieldReqs_fieldReqs, SMap.get_set_same,
        State.fieldAsked_of_reg hreg]
      rfl
    · have hsame : State.SameBut [.regs, .fieldReqs] u (u.fieldCmd f v.toNat) := State.fieldCmd_same (.refl _ u) (by decide)
      exact (hsame.fields (by decide)).trans (hu.fields (by decide))
  case dmaTail =>
    intro ch hch ha hr n
    obtain ⟨u, ⟨hu, hreg⟩, hexec⟩ := exec_dmaTail hch ha hr
    obtain ⟨hsame, htakes, hover⟩ := u.dmaDoorbell_acts f ch (Nat.mod_lt v.toNat (by decide))
    simp only [State.dmaSize, State.dmaFld, fld_of_reg hreg] at htakes hover
    exact ⟨_, hexec, hu.trans (hsame.mono (by decide)), htakes, hover⟩
  case rings =>
    intro r hr n size head
    refine ⟨fun ha => ?tail, fun ha => ?head⟩
    case tail =>
      obtain ⟨u, ⟨hu, hreg⟩, hexec⟩ := exec_ringTail hr ha
      obtain ⟨hsame, htakes, hover⟩ := u.ringDoorbell_acts f r (Nat.mod_lt v.toNat (by decide))
      simp only [State.ringSize, State.ringFld, fld_of_reg hreg] at htakes hover
      exact ⟨_, hexec, hu.trans (hsame.mono (by decide)), htakes, hover⟩
    case head =>
      intro ahead
      obtain ⟨u, ⟨hu, hreg⟩, hexec⟩ := exec_cmplHead hr ha
      obtain ⟨hsame, htakes, hover⟩ := u.ringConsume_acts f r (Nat.mod_lt v.toNat (by decide))
      simp only [State.cmplAhead, State.ringSize, State.ringFld, fld_of_reg hreg] at htakes hover
      exact ⟨_, hexec, hu.trans (hsame.mono (by decide)), htakes, hover⟩
  case enableRing =>
    intro r hr ha hoff
    obtain ⟨u, b, hboff, hon, hexec⟩ := exec_ringCtrlWrite hr ha hv hoff
    have hcleared (x : FieldRow) : (u.ringChanged b f r).ringFld f r x = (u.ringCleared f r).ringFld f r x :=
      fld_of_reg (State.ringChanged_starts hboff hon) _ _ _
    obtain ⟨henable, hzero⟩ := u.ringCleared_zero f r
    simp only [← hcleared] at henable hzero
    exact ⟨_, hexec, henable.trans hon, hzero⟩
  case enableDma =>
    intro ch _ hch ha hr hoff hidle hruns
    obtain ⟨u, b, hb, hon, hexec⟩ := exec_dmaCtrlWrite hch ha hr hv
    have hbfld (x : FieldRow) : b.dmaFld f ch x = s.dmaFld f ch x := fld_of_reg (hb.reg (by decide)) _ _ _
    have hbruns : b.dmaRuns f ch = [] := by rw [State.dmaRuns, hb.dma (by decide)]; exact hruns
    rw [State.dmaChanged_starts ((hbfld _).trans hoff) hon (by rw [hbfld, hbfld, hidle]) hbruns] at hexec
    refine ⟨_, hexec, ?_, ?_, State.dmaFld_setFld _ _ _ _ _ (by decide) (by decide)⟩
    · rw [State.dmaFld_setFld_far _ _ _ _ rfl rfl (by decide), State.dmaFld_setFld_far _ _ _ _ rfl rfl (by decide), hon]
    · rw [State.dmaFld_setFld_far _ _ _ _ rfl rfl (by decide), State.dmaFld_setFld _ _ _ _ _ (by decide) (by decide)]
      rfl

end Sys2Proof.Machine

/-! SUPPORT. The settlements of the family of 11_training.md: the commit of a step, the release of a barrier, the end of HBM training
and the lands of the board. -/

namespace Sys2Proof.Machine

/-! ### The commit of a step and the release of a barrier (R323, R325, R349) -/

/-- A held step, whose last write has completed, commits at the transit of its deadline. -/
theorem execHeldCommit_commits {job : Nat} {j : Job} {t : Step} {s : State} {e : AEntry} (hup : s.up = true)
    (hjob : s.job? job = some j) (hactive : j.state = .active)
    (hstep : (s.stepsOf job).find? (fun t => t.started && t.writesDone) = some t) (hentry : t.entry.bind s.almEntry = some e) :
    exec (.heldCommit job) s = .next ((s.advanceTo e.deadline).commitStep j t e.deadline) := by
  show execHeldCommit job s = _
  simp [execHeldCommit, hjob, hstep, hentry, hup, hactive]

section Commit

variable {job : Nat} {j : Job} {t : Step} {s : State} (hup : s.up = true) (hjob : s.job? job = some j)
  (hactive : j.state = .active) (hrestart : s.restarts.contains job = false)
  (hstep : ((s.settleJob job).stepsOf job).find? (·.started) = some t) (hwrites : t.writesDone = false)
  (hdone : (s.settleJob job).stepDone j t = true) (hbarrier : (s.settleJob job).barrierDone j t = true)

include hup hjob hactive hrestart hstep hwrites hdone hbarrier

/-- The last write of a step that has no entry of the Almanac commits it. -/
theorem execStepCommit_noEntry (hnone : t.entry.bind (s.settleJob job).almEntry = none) :
    exec (.stepCommit job) s = .next ((s.settleJob job).commitStep j t (s.settleJob job).transit) := by
  have hpair : (t.entry.bind fun i => ((s.settleJob job).almEntry i).map fun e => (i, e)) = none := by
    rw [Option.bind_eq_none_iff] at hnone ⊢
    exact fun i hi => by rw [hnone i hi, Option.map_none]
  show execStepCommit job s = _
  simp only [execStepCommit, hjob, hup, hactive, hrestart, hstep, hwrites, hdone, hbarrier, hpair]
  rfl

/-- The last write of a step before its deadline leaves an ON-AIR step with hold to its deadline transit, and commits any other. -/
theorem execStepCommit_entry {i : Nat} {e : AEntry} (hi : t.entry = some i) (he : (s.settleJob job).almEntry i = some e) :
    exec (.stepCommit job) s = .next (
      if e.cls = 0 ∧ e.hold = true ∧ trBefore (s.settleJob job).transit e.deadline = true then
        ((s.settleJob job).setStep { t with writesDone := true }).setAlm i (some { e with state := 5 })
      else (s.settleJob job).commitStep j t (s.settleJob job).transit) := by
  show execStepCommit job s = _
  simp only [execStepCommit, hjob, hup, hactive, hrestart, hstep, hwrites, hdone, hbarrier, hi, Option.bind_some, he,
    Option.map_some]
  by_cases hheld : e.cls = 0 ∧ e.hold = true ∧ trBefore (s.settleJob job).transit e.deadline = true
  · simp [hheld]
  · simp [hheld, and_assoc]

end Commit

/-- A commit ends the work of the step's job. -/
theorem State.commitStep_runs (s : State) (j : Job) (t : Step) (at_ : Nat) :
    ∀ r ∈ (s.commitStep j t at_).loader.runs, r.job ≠ j.handle := by
  intro r hr
  simpa using (List.mem_filter.mp hr).2

theorem State.dropStep_steps (s : State) (t : Step) : ∀ x ∈ (s.dropStep t).loader.steps, x.job = t.job → x.number ≠ t.number := by
  intro x hx hjob hnumber
  have hkept := (List.mem_filter.mp hx).2
  simp [hjob, hnumber] at hkept

/-- The barrier opens once its Bell has counted every rank's signal of this barrier and of those before. -/
theorem execBarrierRelease_eq {job d : Nat} {j : Job} {s : State} (hup : s.up = true) (hjob : s.job? job = some j)
    (hdie : s.dieOf 0 = some d) (hpkg : j.pkg = 0) (hactive : j.state = .active) :
    exec (.barrierRelease job) s = .next (
      if j.barriers * j.ranks + ((s.bell d j.barBell).value.toNat + 2 ^ 32 - j.barBase) % 2 ^ 32 = (j.barriers + 1) * j.ranks then
        releaseTo j (j.barriers + 1) (((s.stepOf? job).map (·.number)).getD 0) (numsFrom 0 j.pkgs)
          (s.setJob { j with barriers := j.barriers + 1, barBase := j.barriers + 1 })
      else s) := by
  show execBarrierRelease job s = _
  simp only [execBarrierRelease, hjob, hdie, hup, hpkg, hactive, decide_true, Bool.true_and, decide_eq_true_eq]
  split <;> rfl

/-- Settles O48: a commit is `State.commitStep`, now or at the deadline transit, and the barrier opens by its Bell's count. -/
theorem stepsCommitAndBarriersOpen : Obligations.StepsCommitAndBarriersOpen :=
  ⟨fun _ j t s hup hjob hactive => ⟨fun _ hstep hentry => execHeldCommit_commits hup hjob hactive hstep hentry,
    fun hrestart hstep hwrites hdone hbarrier =>
      ⟨execStepCommit_noEntry hup hjob hactive hrestart hstep hwrites hdone hbarrier,
        fun _ _ hi he => execStepCommit_entry hup hjob hactive hrestart hstep hwrites hdone hbarrier hi he⟩,
    fun at_ => ⟨s.commitStep_runs j t at_, State.dropStep_steps _ t⟩⟩,
  fun _ _ _ _ hup hjob hdie hpkg hactive => execBarrierRelease_eq hup hjob hdie hpkg hactive⟩

/-! ### The registers that the end of HBM training answers for (R287, R441)

Fencing a die stops jobs, writes completions and shuts ports, and it writes many registers on the way. FAULT_FENCE and HBM_STATUS
are not among them, but for the one bit that it sets. -/

/-- FAULT_FENCE, or HBM_STATUS of a stack. -/
def TrainReg (x : Nat) : Prop := x = (sqPage .fault).reg 0x04C ∨ ∃ k < 16, x = (hbmPage k).reg 0x044

theorem trainReg_iff {x : Nat} : TrainReg x ↔ x = 0x804C ∨ ∃ k < 16, x = 0x3001044 + k * 0x100000 := by
  simp only [TrainReg, Page.reg, Page.base, sqPage, hbmPage, stackPage, Nat.reduceAdd]
  refine or_congr_right (exists_congr fun k => and_congr_right fun _ => ?_)
  omega

/-- The row lies at none of the two registers' offsets. -/
def FieldRow.offTrain (f : FieldRow) : Bool := decide (f.off < 0x1000) && f.off != 0x044 && f.off != 0x04C

/-- Pages begin at multiples of 4 KiB, and rings lie past BAR0, so no page has another register where one of the two stands. -/
theorem not_trainReg_of_off (p : Page) {x : Nat} (hx : x < 0x1000) (hs : x ≠ 0x044) (hf : x ≠ 0x04C) : ¬ TrainReg (p.reg x) := by
  rw [trainReg_iff]
  rcases p with ⟨type, die, i, j⟩
  cases type <;> simp only [Page.reg, Page.base] <;> omega

theorem not_trainReg_of_row (p : Page) {f : FieldRow} (hf : f.offTrain = true) : ¬ TrainReg (fieldAddr p f 0) := by
  simp only [FieldRow.offTrain, Bool.and_eq_true, decide_eq_true_eq, bne_iff_ne] at hf
  obtain ⟨⟨hoff, hstatus⟩, hfence⟩ := hf
  rw [fieldAddr, Nat.zero_mul]
  exact not_trainReg_of_off p hoff hstatus hfence

/-- In the Square range FAULT_FENCE stands alone. -/
theorem not_trainReg_square {x : Nat} (hx : x < croftBase) (hf : x ≠ 0x804C) : ¬ TrainReg x := by
  rw [trainReg_iff]
  simp only [croftBase] at hx
  omega

/-- FAULT_FENCE and HBM_STATUS of every stack read in s as in a. -/
def State.Steady (a s : State) : Prop := ∀ x, TrainReg x → s.reg x = a.reg x

theorem steady_ite {a x y : State} {c : Prop} [Decidable c] (hx : a.Steady x) (hy : a.Steady y) :
    a.Steady (if c then x else y) := by split <;> assumption

theorem steady_foldl {α : Type} {a s : State} {g : State → α → State} (l : List α)
    (hg : ∀ s, ∀ x ∈ l, a.Steady s → a.Steady (g s x)) (h : a.Steady s) : a.Steady (l.foldl g s) := by
  induction l generalizing s with
  | nil => exact h
  | cons x l ih => exact ih (fun s y hy => hg s y (List.mem_cons_of_mem x hy)) (hg s x List.mem_cons_self h)

namespace State.Steady

variable {a s : State}

theorem refl (s : State) : s.Steady s := fun _ _ => rfl

/-- What changes no register. -/
theorem regs {t : State} (h : a.Steady s) (e : t.regs = s.regs) : a.Steady t := fun x hx => by
  rw [State.reg, e]
  exact h x hx

theorem same {w : List Part} {t : State} (h : a.Steady s) (e : State.SameBut w s t) (hw : .regs ∉ w) : a.Steady t :=
  h.regs (e.regs hw)

/-! #### Registers, events and records -/

theorem setReg {x : Nat} (h : a.Steady s) (hx : ¬ TrainReg x) (w : Word) : a.Steady (s.setReg x w) := fun y hy =>
  (s.reg_setReg_other w (fun e : y = x => hx (e ▸ hy))).trans (h y hy)

theorem setFld {p : Page} {f : FieldRow} (h : a.Steady s) (hf : f.offTrain = true) (v : Nat) : a.Steady (s.setFld p f v) :=
  h.setReg (not_trainReg_of_row p hf) _

theorem bump {p : Page} {f : FieldRow} {n : Nat} (h : a.Steady s) (hf : f.offTrain = true) : a.Steady (s.bump p f n) :=
  h.setFld hf _

theorem bumpSat {p : Page} {f : FieldRow} {n : Nat} (h : a.Steady s) (hf : f.offTrain = true) : a.Steady (s.bumpSat p f n) :=
  h.setFld hf _

theorem dropOne (h : a.Steady s) (f : Nat) : a.Steady (s.dropOne f) := (h.bumpSat rfl).setFld rfl 1

theorem dropMsg (h : a.Steady s) (f : Nat) : a.Steady (s.dropMsg f) := by
  have hone := h.dropOne f
  unfold State.dropMsg
  dsimp only
  split
  · split
    · exact steady_ite hone (hone.dropOne _)
    · exact hone
  · exact hone

theorem msix (h : a.Steady s) (f v : Nat) : a.Steady (s.msix f v) := steady_ite h (steady_ite h (h.dropMsg f))

theorem attnRise {before : State} (h : a.Steady s) (p : Page) : a.Steady (attnRise before s p) := by
  unfold Machine.attnRise
  dsimp only
  split
  · split
    · exact h.msix _ _
    · exact h
  · exact h

theorem event {p : Page} {f : FieldRow} (h : a.Steady s) (hf : f.offTrain = true) : a.Steady (s.event p f) :=
  (h.setFld hf 1).attnRise p

theorem noteStates {before : State} (h : a.Steady s) : a.Steady (noteStates before s) := steady_ite (h.event rfl) h

theorem passTo (h : a.Steady s) (t : Nat) : a.Steady (s.passTo t) := noteStates h

theorem alert {f : FieldRow} (h : a.Steady s) (hf : f.offTrain = true) : a.Steady (s.alert f) := steady_ite h (h.setFld hf 1)

theorem ledgerAdd (h : a.Steady s) (kind code : Nat) (page : Option Page) (unit info job function step extra : Nat) :
    a.Steady (s.ledgerAdd kind code page unit info job function step extra) := by
  unfold State.ledgerAdd
  extract_lets r u
  have hu : a.Steady u := h.regs (State.withLedger_regs _ _)
  exact steady_ite (hu.alert rfl) (steady_ite (hu.alert rfl) hu)

/-! #### Writes of HBM -/

theorem ceEvent (h : a.Steady s) (sec pass : Nat) : a.Steady (s.ceEvent sec pass) := by
  unfold State.ceEvent
  extract_lets k pg u x v
  have hu : a.Steady u := steady_ite (h.setReg (not_trainReg_of_off pg (by decide) (by decide) (by decide)) _) h
  have hv : a.Steady v := hu.regs (State.withHbmStacks_regs _ _)
  exact (hv.bump rfl).event rfl

theorem ueEvent (h : a.Steady s) (sec : Nat) : a.Steady (s.ueEvent sec) := by
  unfold State.ueEvent
  extract_lets k pg u v
  have hu : a.Steady u := steady_ite ((h.setReg (not_trainReg_of_off pg (by decide) (by decide) (by decide)) _).setFld rfl _) h
  have hv : a.Steady v := (hu.bump rfl).event rfl
  exact steady_ite (hv.regs (State.withFaults_regs _ _)) hv

theorem healSector (h : a.Steady s) (sec : Nat) : a.Steady (s.healSector sec) := h.regs (State.withHbmStacks_regs _ _)

theorem storeSp (h : a.Steady s) (sp : Option Nat) (at_ : Nat) (bs : List Byte) : a.Steady (storeSp s sp at_ bs) :=
  h.same (storeSp_same (.refl _ s) (List.Subset.refl _)) (by decide)

theorem settleSector {before : State} (h : a.Steady s) (xs : List BitSpan) (sec : Nat) :
    a.Steady (before.settleSector (fun _ s => s) xs s sec) :=
  steady_ite (h.healSector sec) (steady_ite ((h.storeSp _ _ _).ueEvent sec) ((h.ceEvent sec 0).healSector sec))

theorem storeAll (h : a.Steady s) (ws : List BitWrite) : a.Steady (s.storeAll (fun _ s => s) ws) := by
  have hstore : a.Steady (ws.foldl State.storeBits s) := h.same (foldl_storeBits_same s ws) (by decide)
  exact steady_ite hstore (steady_foldl _ (fun _ _ _ hs => hs.settleSector _ _) hstore)

theorem wakeSpans (h : a.Steady s) (xs : List BitSpan) : a.Steady (s.wakeSpans xs) := by
  unfold State.wakeSpans
  rw [wake_eq_foldl]
  exact steady_ite h (steady_foldl _ (fun _ _ _ hs => hs.setFld rfl 0) h)



/-! #### Ports -/

theorem forward (h : a.Steady s) (n : Nat) (w : PortWait) : a.Steady (s.forward n w) := by
  unfold State.forward
  split
  · exact h.same (State.enqueue_same (.refl _ s) (List.Subset.refl _)) (by decide)
  · exact ((h.bump rfl).event rfl).same (State.freeWait_same (.refl _ _) (List.Subset.refl _)) (by decide)

theorem forwardAll (n : Nat) (ws : List PortWait) (h : a.Steady s) : a.Steady (forwardAll n ws s) := by
  induction ws generalizing s with
  | nil => exact h
  | cons w ws ih => exact ih (steady_ite (h.forward n w) h)

theorem leaveUp (h : a.Steady s) (d p v : Nat) (x : Port) : a.Steady (s.leaveUp d p v x) := by
  have hcounts : a.Steady (s.newCounts d p) := h.same (State.newCounts_same (.refl _ s) (List.Subset.refl _)) (by decide)
  exact forwardAll _ _ ((hcounts.regs (State.withFerry_regs _ _)).setFld rfl v)

theorem portsDown (d : Nat) (ps : List Nat) (h : a.Steady s) : a.Steady (portsDown d ps s) := by
  induction ps generalizing s with
  | nil => exact h
  | cons p ps ih => exact ih (h.leaveUp d p 0 {})

theorem diePortsDown (h : a.Steady s) (d : Nat) : a.Steady (s.diePortsDown d) := h.portsDown d _

/-! #### The Cue table -/

theorem cueApply (h : a.Steady s) (e v : Nat) : a.Steady (s.cueApply e v) :=
  ((h.regs (State.withCue_regs s _)).bump rfl).event rfl

theorem cueUpdate (h : a.Steady s) (e : Nat) (ev : CueEvent) : a.Steady (s.cueUpdate e ev) :=
  steady_ite (h.regs (State.withCue_regs s _)) (h.cueApply _ _)

theorem cueRelease (h : a.Steady s) (e : Nat) : a.Steady (s.cueRelease e) := by
  have htaken (c : Cue) : a.Steady ((s.passTo (s.cueDue e)).withCue c) := (h.passTo _).regs (State.withCue_regs _ _)
  unfold State.cueRelease
  dsimp only
  split
  · exact h
  · exact (steady_ite ((htaken _).event rfl) (htaken _)).cueApply _ _

theorem cueStepNow (h : a.Steady s) (en : Bool) (e : Nat) (ev : CueEvent) : a.Steady (s.cueStepNow en e ev) :=
  steady_ite ((h.cueUpdate e ev).cueRelease e) h

/-! #### Completions -/

theorem ringFault (h : a.Steady s) (f r : Nat) : a.Steady (s.ringFault f r) := ((h.setFld rfl 1).bumpSat rfl).event rfl

theorem cmplAdvance (h : a.Steady s) (f r : Nat) : a.Steady (s.cmplAdvance f r) := h.setFld rfl _

theorem countRefusal (h : a.Steady s) (f code : Nat) : a.Steady (s.countRefusal f code) :=
  (((h.bump rfl).setFld rfl code).setFld rfl f).event rfl

theorem putCmpl (h : a.Steady s) (f r : Nat) (irq : Bool) (c : Cmpl) : a.Steady (s.putCmpl f r irq c) := by
  have hirq {u : State} (hu : a.Steady u) : a.Steady (if irq then u.msix f (u.ringFld f r ringCtrl_vector) else u) :=
    steady_ite (hu.msix _ _) hu
  unfold State.putCmpl
  split
  · exact h.bumpSat rfl
  · split
    · exact hirq ((h.dropMsg f).cmplAdvance f r)
    · dsimp only
      split
      · exact hirq (((h.wakeSpans _).storeAll _).cmplAdvance f r)
      · exact (h.ringFault f r).bumpSat rfl

theorem writeCmpl (h : a.Steady s) (f r : Nat) (irq : Bool) (c : Cmpl) : a.Steady (s.writeCmpl f r irq c) := by
  have hopen : a.Steady s.openValue.2 := h.regs (State.withFreeCount_regs _ _)
  exact steady_ite (steady_ite (hopen.putCmpl f r irq c) hopen) (h.putCmpl f r irq c)

theorem complete (h : a.Steady s) (f r : Nat) (ticket : List Byte) (c : Cmpl) : a.Steady (s.complete f r ticket c) :=
  (steady_ite (h.countRefusal f c.code) h).writeCmpl _ _ _ _

theorem endTicket (h : a.Steady s) (f r : Nat) (ticket : List Byte) (status code : Nat) :
    a.Steady (s.endTicket f r ticket status code) := (h.cueStepNow _ _ _).complete _ _ _ _



/-! #### The reset of a job -/

theorem takeSector (h : a.Steady s) (src before : State) (xs : List BitSpan) (sec : Nat) :
    a.Steady (s.takeSector src before xs sec) := steady_ite ((h.storeSp _ _ _).settleSector xs sec) (h.storeSp _ _ _)

theorem partSectors (src before : State) (spans : List BitSpan) (secs : List Nat) (h : a.Steady s) :
    a.Steady (partSectors src before spans secs s) := by
  induction secs generalizing s with
  | nil => exact h
  | cons x xs ih =>
    have hopen : a.Steady s.openValue.2 := h.regs (State.withFreeCount_regs _ _)
    exact ih (steady_ite (hopen.takeSector src before spans x) hopen)

theorem stopGran (h : a.Steady s) (pair : Nat) (e : GranRun) : a.Steady (s.stopGran pair e) := by
  unfold State.stopGran
  split
  · exact h
  · split
    · exact steady_ite h (h.partSectors _ _ _ _)
    · exact h

theorem stopGrans (pair : Nat) (es : List GranRun) (h : a.Steady s) : a.Steady (stopGrans pair es s) := by
  induction es generalizing s with
  | nil => exact h
  | cons e es ih => exact ih (h.stopGran pair e)

theorem pairResets (job : Nat) (ps : List Nat) (h : a.Steady s) : a.Steady (pairResets job ps s) := by
  induction ps generalizing s with
  | nil => exact h
  | cons p ps ih => exact ih ((h.stopGrans p _).regs (State.withPairs_regs _ _))

/-- HAMLET_STATUS has HBM_STATUS's offset in a page of its own. -/
theorem not_trainReg_hamlet (d : Nat) {h : Nat} (hh : h < 4) : ¬ TrainReg ((hamletPage d h).reg 0x044) := by
  rw [trainReg_iff]
  simp only [Page.reg, Page.base, hamletPage]
  omega

theorem setReeve (h : a.Steady s) (d k : Nat) (x : Reeve) : a.Steady (s.setReeve d k x) := h.regs (State.withReeves_regs _ _)

theorem reeveResets (job : Nat) (ks : List Nat) (h : a.Steady s) : a.Steady (reeveResets job ks s) := by
  induction ks generalizing s with
  | nil => exact h
  | cons k ks ih =>
    refine ih (steady_ite (setReg (setReeve ?_ _ _ _) (not_trainReg_hamlet _ (Nat.mod_lt k (by decide))) 0) ?_)
    all_goals exact steady_ite (h.setReeve _ _ _) h

theorem unitsReset (h : a.Steady s) (job : Nat) (step : Option Nat) : a.Steady (s.unitsReset job step) := by
  unfold State.unitsReset
  extract_lets s1 s2 s3 s4 s5 s6 s7
  have h1 : a.Steady s1 := h.pairResets job _
  have h2 : a.Steady s2 := h1.regs (State.withLooms_regs _ _)
  have h3 : a.Steady s3 := h2.regs (State.withSieves_regs _ _)
  have h4 : a.Steady s4 := h3.regs (State.withGates_regs _ _)
  have h5 : a.Steady s5 := h4.reeveResets job _
  have h6 : a.Steady s6 :=
    (h5.regs (State.withFlight_regs _ _)).same (State.dropFlits_same (.refl _ _) (List.Subset.refl _)) (by decide)
  have h7 : a.Steady s7 :=
    (h6.regs (State.withSram_regs _ _)).same (State.pendingReset_same (.refl _ _) (List.Subset.refl _)) (by decide)
  exact h7.regs (State.withLoader_regs _ _)

theorem jobReset (h : a.Steady s) (job : Nat) (step : Option Nat) : a.Steady (s.jobReset job step) :=
  (h.unitsReset job step).regs (State.withBells_regs _ _)

/-! #### Stopped steps and ended jobs -/

theorem setJob (h : a.Steady s) (j : Job) : a.Steady (s.setJob j) := h.regs (State.withLoader_regs _ _)

theorem endSteps (status code : Nat) (ts : List Step) (h : a.Steady s) : a.Steady (endSteps status code ts s) := by
  induction ts generalizing s with
  | nil => exact h
  | cons t ts ih =>
    have hfree : a.Steady ((s.endTicket t.f t.ring t.ticket status code).freeStepEntry t.job t.number) :=
      (h.endTicket _ _ _ _ _).regs (State.withAlm_regs _ _)
    exact ih (hfree.regs (State.withLoader_regs _ _))

theorem triggerRetest (h : a.Steady s) (reason : Nat) : a.Steady (s.triggerRetest reason) :=
  (h.setFld rfl 1).regs (State.withPower_regs _ _)

theorem endJobHere (h : a.Steady s) (j : Job) (code : Nat) : a.Steady (s.endJobHere j code) := by
  unfold State.endJobHere
  extract_lets step s1 s2 s3 s4
  have h1 : a.Steady s1 := (h.jobReset j.handle none).setJob _
  have h2 : a.Steady s2 := (h1.endSteps _ _ _).regs (State.withAlm_regs _ _)
  have hbind : a.Steady (s2.releaseBind j.handle) := h2.regs (State.withFerry_regs _ _)
  have h3 : a.Steady s3 := hbind.regs (State.withRestarts_regs _ _)
  have h4 : a.Steady s4 := (h3.bump rfl).event rfl
  exact h4.ledgerAdd _ _ _ _ _ _ _ _ _

theorem abortHere (h : a.Steady s) (j : Job) (code : Nat) : a.Steady (s.abortHere j code) := by
  unfold State.abortHere
  split
  · exact (h.jobReset _ _).setJob _
  · extract_lets waits s1 s2 s3 s4
    split
    · exact h.endJobHere j code
    · have h1 : a.Steady s1 := (h.jobReset _ _).setJob _
      have h2 : a.Steady s2 := h1.regs (State.withLoader_regs _ _)
      have h3 : a.Steady s3 := h2.regs (State.withAlm_regs _ _)
      have h4 : a.Steady s4 := h3.regs (State.withRestarts_regs _ _)
      exact h4.triggerRetest 1

theorem abortJob (h : a.Steady s) (job code : Nat) : a.Steady (s.abortJob job code) := by
  unfold State.abortJob
  split
  next j _ =>
    have htree : a.Steady (s.jobTree j j.pkg opJobStop code) :=
      h.same (State.jobTree_same (.refl _ s) (List.Subset.refl _)) (by decide)
    exact steady_ite (htree.abortHere j code) h
  next => exact h

theorem abortJobs (code : Nat) (jobs : List Nat) (h : a.Steady s) : a.Steady (abortJobs code jobs s) := by
  induction jobs generalizing s with
  | nil => exact h
  | cons j jobs ih => exact ih (h.abortJob j code)

/-! #### DIE_MAP and the units of a die -/

theorem not_trainReg_dieMap : ¬ TrainReg ((sqPage .loader).reg 0x04C) := not_trainReg_square (by decide) (by decide)

theorem moveLogical (h : a.Steady s) (i d : Nat) : a.Steady (s.moveLogical i d) := by
  unfold State.moveLogical
  dsimp only
  split
  · exact (h.setReg not_trainReg_dieMap _).same (moveJobBells_same (.refl _ _) (List.Subset.refl _)) (by decide)
  · exact h.setReg not_trainReg_dieMap _

theorem moveLogicals (d : Nat) (is : List Nat) (h : a.Steady s) : a.Steady (moveLogicals d is s) := by
  induction is generalizing s with
  | nil => exact h
  | cons i is ih => exact ih (h.moveLogical i d)

theorem evacuate (h : a.Steady s) (d : Nat) : a.Steady (s.evacuate d) := (h.moveLogicals d _).regs (State.withAlm_regs _ _)

theorem resetMap (h : a.Steady s) : a.Steady s.resetMap :=
  steady_foldl _ (fun _ _ _ hs => steady_ite hs (hs.moveLogicals _ _)) (h.setReg not_trainReg_dieMap _)

/-- FF_KAT_CTRL has HBM_STATUS's offset in a page of its own. -/
theorem not_trainReg_katCtrl (d : Nat) {h : Nat} (hh : h < 4) : ¬ TrainReg (fieldAddr (fireflyPage d h) ffKatCtrl_start 0) := by
  rw [trainReg_iff]
  simp only [fieldAddr, Page.reg, Page.base, fireflyPage, ffKatCtrl_start]
  omega

theorem clearUnits (h : a.Steady s) (d : Nat) : a.Steady (s.clearUnits d) := by
  unfold State.clearUnits
  extract_lets s1 s2 s3
  have h1 : a.Steady s1 := steady_foldl _
    (fun _ k hk hs => hs.setReg (not_trainReg_katCtrl d (by have := mem_numsFrom.mp hk; omega)) _) h
  have h2 : a.Steady s2 := (h1.regs (State.withLooms_regs _ _)).regs (State.withSieves_regs _ _)
  have h3 : a.Steady s3 := (h2.regs (State.withGates_regs _ _)).regs (State.withReeves_regs _ _)
  exact (h3.regs (State.withKats_regs _ _)).regs (State.withSram_regs _ _)

theorem fenceNote (h : a.Steady s) (d : Nat) (temp : Bool) : a.Steady (s.fenceNote d temp) :=
  ((h.bump rfl).event rfl).ledgerAdd _ _ _ _ _ _ _ _ _

end State.Steady

/-! ### The end of HBM training (R287, R441) -/

/-- Adding the place value of a clear bit sets that bit and carries into no other. -/
theorem testBit_add_two_pow {v d : Nat} (h : v.testBit d = false) (e : Nat) :
    (v + 2 ^ d).testBit e = (v.testBit e || e == d) := by
  rcases Nat.lt_trichotomy e d with hlt | rfl | hgt
  · rw [Nat.add_comm, Nat.testBit_two_pow_add_gt hlt, beq_eq_false_iff_ne.mpr (Nat.ne_of_lt hlt), Bool.or_false]
  · rw [Nat.add_comm, Nat.testBit_two_pow_add_eq, h, beq_self_eq_true]
    rfl
  · obtain ⟨m, rfl⟩ := Nat.exists_eq_add_of_lt hgt
    have heven : v / 2 ^ d % 2 = 0 := by simpa [Nat.testBit_eq_decide_div_mod_eq] using h
    have hdiv : (v + 2 ^ d) / 2 ^ (d + 1) = v / 2 ^ (d + 1) := by
      rw [Nat.pow_succ, ← Nat.div_div_eq_div_mul, ← Nat.div_div_eq_div_mul, Nat.add_div_right _ (Nat.two_pow_pos d)]
      omega
    rw [beq_eq_false_iff_ne.mpr (Nat.ne_of_gt hgt), Bool.or_false, show d + m + 1 = m + (d + 1) by omega, ← Nat.testBit_div_two_pow, hdiv,
      Nat.testBit_div_two_pow]

namespace State

variable {a s : State}

/-- The bit of a die in FAULT_FENCE is set, as the model sets it. -/
def addFence (s : State) (d : Nat) : State :=
  s.setFld (sqPage .fault) faultFence_fenced (s.fld (sqPage .fault) faultFence_fenced + 2 ^ d)

theorem fenced_addFence {d e : Nat} (he : e < 8) (h : s.fenced d = false) : (s.addFence d).fenced e = (s.fenced e || e == d) := by
  simp only [fenced, bitOf_eq_testBit] at h ⊢
  rw [addFence, fld_setFld _ _ _ _ _ (by decide) (by decide), Nat.testBit_mod_two_pow, testBit_add_two_pow h]
  simp [he, faultFence_fenced]

theorem Steady.fenced (h : a.Steady s) (d : Nat) : s.fenced d = a.fenced d :=
  congrArg (fun w : Word => bitOf (getField w 7 0) d) (h _ (.inl rfl))

theorem Steady.trained (h : a.Steady s) {k : Nat} (hk : k < 16) :
    s.fld (hbmPage k) hbmStatus_trained = a.fld (hbmPage k) hbmStatus_trained :=
  congrArg (getField · 0 0) (h _ (.inr ⟨k, hk, rfl⟩))

/-- No fence of a is over in s, and HBM_STATUS.trained of each stack is the same. -/
structure MoreFenced (a s : State) : Prop where
  fenced : ∀ d < 8, a.fenced d = true → s.fenced d = true
  trained : ∀ k < 16, s.fld (hbmPage k) hbmStatus_trained = a.fld (hbmPage k) hbmStatus_trained

theorem Steady.moreFenced (h : a.Steady s) : a.MoreFenced s := ⟨fun d _ hd => (h.fenced d).trans hd, fun _ hk => h.trained hk⟩

theorem MoreFenced.trans {t : State} (h : a.MoreFenced s) (k : s.MoreFenced t) : a.MoreFenced t :=
  ⟨fun d hd ha => k.fenced d hd (h.fenced d hd ha), fun n hn => (k.trained n hn).trans (h.trained n hn)⟩

theorem moreFenced_addFence {d : Nat} (h : s.fenced d = false) : s.MoreFenced (s.addFence d) := by
  refine ⟨fun e he hfenced => by rw [fenced_addFence he h, hfenced, Bool.true_or], fun k hk => fld_setFld_far _ _ _ _ _ _ _ _ ?_⟩
  simp only [fieldAddr, Page.reg, Page.base, hbmPage, stackPage, sqPage, hbmStatus_trained, faultFence_fenced]
  omega

/-- A die that is not fenced is: jobs stop, its bit is set, and what follows leaves FAULT_FENCE. -/
theorem fence_of_not_fenced {d : Nat} (reason code : Nat) (temp : Bool) (h : s.fenced d = false) :
    ((abortJobs code (s.jobsOn d) s).addFence d).Steady (s.fence d reason code temp) := by
  unfold fence
  rw [if_neg (by simp [h])]
  refine .noteStates (.triggerRetest (.fenceNote (.evacuate (.clearUnits (.diePortsDown ?_ d) d) d) d temp) reason)
  exact (Steady.refl _).regs (withPower_regs _ _)

theorem fence_of_fenced {d : Nat} (reason code : Nat) (temp : Bool) (h : s.fenced d = true) :
    s.Steady (s.fence d reason code temp) := by
  unfold fence
  rw [if_pos h]
  exact steady_ite (Steady.refl s) (Steady.fenceNote ((Steady.refl s).regs (withPower_regs _ _)) d false)

/-- A fence fences its die, ends no fence and leaves HBM_STATUS. -/
theorem fence_fences (s : State) {d : Nat} (hd : d < 8) (reason code : Nat) (temp : Bool) :
    s.MoreFenced (s.fence d reason code temp) ∧ (s.fence d reason code temp).fenced d = true := by
  cases h : s.fenced d with
  | true =>
    have hsteady := fence_of_fenced reason code temp h
    exact ⟨hsteady.moreFenced, (hsteady.fenced d).trans h⟩
  | false =>
    have hsteady := fence_of_not_fenced reason code temp h
    have habort : s.Steady (abortJobs code (s.jobsOn d) s) := (Steady.refl s).abortJobs code _
    have hfree : (abortJobs code (s.jobsOn d) s).fenced d = false := (habort.fenced d).trans h
    refine ⟨habort.moreFenced.trans ((moreFenced_addFence hfree).trans hsteady.moreFenced), ?_⟩
    rw [hsteady.fenced, fenced_addFence hd hfree, beq_self_eq_true, Bool.or_true]

end State

/-- The dies of the stacks of a list are fenced. -/
theorem fenceFailed_fences (failed : List Nat) (s : State) :
    s.MoreFenced (fenceFailed failed s) ∧ ∀ k < 16, k ∈ failed → (fenceFailed failed s).fenced (k / 2) = true := by
  induction failed generalizing s with
  | nil => exact ⟨(State.Steady.refl s).moreFenced, fun k _ hk => absurd hk List.not_mem_nil⟩
  | cons n ns ih =>
    obtain ⟨hmore, hrest⟩ := ih (if n < 16 then s.fence (n / 2) 1 0 false else s)
    refine ⟨State.MoreFenced.trans ?_ hmore, fun k hk hmem => ?_⟩
    · split
      · exact (s.fence_fences (by omega) 1 0 false).1
      · exact (State.Steady.refl s).moreFenced
    · rcases List.mem_cons.mp hmem with rfl | htail
      · refine hmore.fenced (k / 2) (by omega) ?_
        rw [if_pos hk]
        exact (s.fence_fences (by omega) 1 0 false).2
      · exact hrest k hk htail

/-- A permanent fence that is applied again leaves HBM_STATUS. -/
theorem reFence_trained (ds : List Nat) (s : State) {k : Nat} (hk : k < 16) :
    (reFence ds s).fld (hbmPage k) hbmStatus_trained = s.fld (hbmPage k) hbmStatus_trained := by
  induction ds generalizing s with
  | nil => rfl
  | cons d ds ih =>
    refine (ih _).trans ?_
    cases h : s.fenced d with
    | true => rfl
    | false => exact (State.moreFenced_addFence h).trained k hk

theorem trained_setFld (s : State) (n k : Nat) : (s.setFld (hbmPage n) hbmStatus_trained 1).fld (hbmPage k) hbmStatus_trained
    = if k = n then 1 else s.fld (hbmPage k) hbmStatus_trained := by
  by_cases hk : k = n
  · rw [hk, if_pos rfl]
    exact State.fld_setFld _ _ _ _ _ (by decide) (by decide)
  · rw [if_neg hk]
    refine State.fld_setFld_far _ _ _ _ _ _ _ _ ?_
    simp only [fieldAddr, Page.reg, Page.base, hbmPage, stackPage]
    omega

/-- HBM_STATUS.trained is set for the stacks of the list that did not fail. -/
theorem setTrained_trained (failed ks : List Nat) (s : State) (k : Nat) :
    (setTrained failed ks s).fld (hbmPage k) hbmStatus_trained
      = if k ∈ ks ∧ k ∉ failed then 1 else s.fld (hbmPage k) hbmStatus_trained := by
  induction ks generalizing s with
  | nil => simp [setTrained]
  | cons n ns ih =>
    refine (ih _).trans ?_
    by_cases hn : n ∈ failed
    · rw [if_pos (List.contains_iff_mem.mpr hn)]
      grind
    · have hset := trained_setFld s n k
      rw [hbmPage] at hset
      rw [if_neg (mt List.contains_iff_mem.mp hn), hset]
      grind

namespace State

theorem Steady.setSquare {a s : State} (h : a.Steady s) {p : Page} {f : FieldRow} (hp : fieldAddr p f 0 < croftBase)
    (hf : fieldAddr p f 0 ≠ 0x804C) (v : Nat) : a.Steady (s.setFld p f v) := h.setReg (not_trainReg_square hp hf) _

/-- The stacks that trained are marked, the others lose their bytes, and the permanent fences hold again. -/
def stacksTrained (s : State) (failed : List Nat) : State :=
  let s := loseStacks failed (setTrained failed (numsFrom 0 16) s)
  noteStates s (reFence (s.power.permFence.filter (· < 8)) s).resetMap

/-- WM_STATUS leaves BOOT once HBM has trained. -/
def bootEnds (s : State) : State := if s.fld (sqPage .watchman) wmStatus_state = 0 then s.setWmState 1 else s

theorem fld_stacksTrained (s : State) (failed : List Nat) {k : Nat} (hk : k < 16) :
    (s.stacksTrained failed).fld (hbmPage k) hbmStatus_trained
      = if k ∈ failed then s.fld (hbmPage k) hbmStatus_trained else 1 := by
  unfold stacksTrained
  extract_lets u
  have hu : (setTrained failed (numsFrom 0 16) s).Steady u :=
    (Steady.refl _).same (loseStacks_same (.refl _ _) (List.Subset.refl _)) (by decide)
  have hmap (v : State) : v.Steady (noteStates u v.resetMap) := (Steady.refl v).resetMap.noteStates
  rw [(hmap _).trained hk, reFence_trained _ _ hk, hu.trained hk, setTrained_trained]
  simp [mem_numsFrom, hk, ite_not]

theorem stacksTrained_same (s : State) (failed : List Nat) :
    SameBut [.regs, .mem, .hbmStacks, .bells, .out] s (s.stacksTrained failed) := by
  have hlost : SameBut [.regs, .mem, .hbmStacks, .bells, .out] s (loseStacks failed (setTrained failed (numsFrom 0 16) s)) :=
    loseStacks_same (setTrained_same (.refl _ s) (by decide)) (by decide)
  exact noteStates_same (resetMap_same (reFence_same hlost (by decide)) (by decide)) (by decide)

theorem checkReady_ready {s : State} (h : s.checkReady.up = true) : s.checkReady.fld (sqPage .loader) loaderStatus_ready = 1 := by
  have hup : s.up = true := by rwa [(checkReady_same (.refl _ s) (List.Subset.refl _)).up (by decide)] at h
  rw [checkReady, if_pos hup]
  exact fld_setFld _ _ _ _ _ (by decide) (by decide)

theorem checkReady_board (s : State) : s.checkReady.board = s.board :=
  (checkReady_same (.refl _ s) (List.Subset.refl _)).board (by decide)

end State

theorem trainingEnded_board (s : State) (failed : List Nat) :
    (fenceFailed failed (s.stacksTrained failed)).bootEnds.checkReady.board = s.board := by
  have hboot (u : State) : u.bootEnds.board = u.board :=
    have hsame : State.SameBut [.regs] u u.bootEnds := same_ite (State.setWmState_same (.refl _ u) (List.Subset.refl _)) (.refl _ u)
    hsame.board (by decide)
  rw [State.checkReady_board, hboot, (fenceFailed_same (.refl _ _) (List.Subset.refl _)).board (by decide),
    (s.stacksTrained_same failed).board (by decide)]

theorem execHbmTrainingComplete_ends {s : State} (failed : List Nat) (htraining : s.board.training = true)
    (hisland : s.board.island = true) (hmain : s.board.mainOk = true) :
    exec (.hbmTrainingComplete failed) s
      = .next (fenceFailed failed ((s.withBoard { s.board with training := false }).stacksTrained failed)).bootEnds.checkReady := by
  show execHbmTrainingComplete failed s = _
  unfold execHbmTrainingComplete
  rw [if_pos (by simp [htraining, hisland, hmain])]
  rfl

/-- Training ends: the stacks that trained show it, the dies of the others are fenced, and a package in service takes tickets. -/
theorem hbmTrainingComplete_ends (failed : List Nat) (s : State) (htraining : s.board.training = true)
    (hisland : s.board.island = true) (hmain : s.board.mainOk = true) :
    ∃ t, exec (.hbmTrainingComplete failed) s = .next t ∧ t.board = { s.board with training := false }
      ∧ (∀ k, k < 16 → k ∉ failed → t.fld (hbmPage k) hbmStatus_trained = 1)
      ∧ (∀ k, k < 16 → k ∈ failed → t.fld (hbmPage k) hbmStatus_trained = s.fld (hbmPage k) hbmStatus_trained
        ∧ t.fenced (k / 2) = true)
      ∧ (s.board.perst = false → t.up = true → t.fld (sqPage .loader) loaderStatus_ready = 1) := by
  refine ⟨_, execHbmTrainingComplete_ends failed htraining hisland hmain, ?_⟩
  generalize hu : (s.withBoard { s.board with training := false }).stacksTrained failed = u
  obtain ⟨hmore, hfenced⟩ := fenceFailed_fences failed u
  have hlast : (fenceFailed failed u).Steady (fenceFailed failed u).bootEnds.checkReady := by
    have hboot : (fenceFailed failed u).Steady (fenceFailed failed u).bootEnds :=
      steady_ite ((State.Steady.refl _).setSquare (by decide) (by decide) 1) (.refl _)
    exact steady_ite (hboot.setSquare (by decide) (by decide) 1) hboot
  have htrained (k : Nat) (hk : k < 16) : (fenceFailed failed u).bootEnds.checkReady.fld (hbmPage k) hbmStatus_trained
      = if k ∈ failed then s.fld (hbmPage k) hbmStatus_trained else 1 := by
    rw [hlast.trained hk, hmore.trained k hk, ← hu, State.fld_stacksTrained _ _ hk]
    rfl
  refine ⟨?board, fun k hk hfree => ?trained, fun k hk hfail => ?failed, fun _ hup => State.checkReady_ready hup⟩
  case board => rw [← hu, trainingEnded_board]; rfl
  case trained => rw [htrained k hk, if_neg hfree]
  case failed =>
    refine ⟨by rw [htrained k hk, if_pos hfail], ?_⟩
    rw [hlast.fenced]
    exact hfenced k hk hfail

/-! ### The lands (R401, R450, R458, R477) -/

theorem perstRelease_releases (s : State) : s.perstRelease.board = { s.board with perst := false, perstPark := false } :=
  State.checkReady_board _

theorem execPerstNRelease_low {s : State} (hperst : s.board.perst = true) (hextest : s.board.extest = false) :
    exec .perstNRelease s = .next s.perstRelease := by
  show execPerstNRelease s = _
  simp [execPerstNRelease, hperst, hextest]

theorem execPerstNRelease_extest {s : State} (hperst : s.board.perst = true) (hextest : s.board.extest = true) :
    exec .perstNRelease s = .next (s.withBoard { s.board with perstPark := true }) := by
  show execPerstNRelease s = _
  simp [execPerstNRelease, hperst, hextest]

/-- The TAP enters EXTEST under PERST_N alone. -/
theorem execExtest_enters (s : State) : exec (.extest ⟨true, true⟩) s
    = .next (s.withBoard { s.board with trstN := true, extest := s.board.extest || s.board.perst }) := by
  show execExtest ⟨true, true⟩ s = _
  unfold execExtest
  cases hperst : s.board.perst <;> simp [hperst, State.withBoard]

/-- The TAP leaves EXTEST; a release of PERST_N that it held takes effect. -/
theorem execExtest_leaves (s : State) (n : Bool) : exec (.extest ⟨false, n⟩) s
    = .next (if s.board.perstPark then (s.withBoard { s.board with trstN := n, extest := false }).perstRelease
        else s.withBoard { s.board with trstN := n, extest := false }) := rfl

/-- The loss of an island rail: everything at its COLD value, and of the Ledger what the flash holds. -/
theorem islandRailLoss_holds (s : State) (hisland : s.board.island = true) :
    ∃ t, exec .islandRailLoss s = .next t ∧ ColdStart t ∧ t.board.island = false ∧ t.ledger.buffer = []
      ∧ t.ledger.flash = s.ledger.flash ∧ t.fuses = s.fuses := by
  refine ⟨_, if_pos hisland, ?cold, rfl, rfl, rfl, ?fuses⟩
  case cold => exact ⟨rfl, rfl, rfl, rfl, rfl, rfl, rfl, rfl, rfl, rfl, rfl, rfl, rfl, rfl⟩
  case fuses => exact (State.loseRepairs_same (.refl _ s) (List.Subset.refl _)).fuses (by decide)

/-- Settles O20: a land's rise or fall changes the board as the lands say, and the end of training ends with `State.checkReady`. -/
theorem landsTakeEffect : Obligations.LandsTakeEffect := by
  refine ⟨fun s => ⟨fun hperst hextest => ?release, execPerstNRelease_extest, execExtest_enters s, rfl, fun n hpark => ?leave,
    fun n hpark => ?held, islandRailLoss_holds s⟩, hbmTrainingComplete_ends⟩
  case release =>
    exact ⟨_, execPerstNRelease_low hperst hextest, congrArg Board.perst (perstRelease_releases s), State.checkReady_ready⟩
  case leave => rw [execExtest_leaves, hpark]; rfl
  case held =>
    rw [execExtest_leaves, if_pos hpark]
    exact ⟨_, rfl, perstRelease_releases _, State.checkReady_ready⟩

end Sys2Proof.Machine

/-! SUPPORT. The settlements of the family of 13_bundles_and_steps.md: signals on Bells, the fetch of tickets, the start and the
restart of steps, the dispatch of pieces, and the stops of lost rings and channels. -/

namespace Sys2Proof.Machine

/-! ### Lost rings and channels (R311, R397) -/

theorem execDmaDescriptor_lost {f ch : Nat} {desc data : List Byte} {s : State} (hlost : s.dmaLost.contains (dmaKey f ch) = true)
    (hon : s.hostOn f = true) (hen : s.dmaFld f ch dmaCtrl_enable = 1) :
    exec (.dmaDescriptor f ch desc data) s = .fault (.dmaUndefined f ch) := by
  show execDmaDescriptor f ch desc data s = _
  unfold execDmaDescriptor
  dsimp only
  rw [if_neg (by simp [hon, hen]), if_pos hlost]

theorem execDmaComplete_lost {f ch : Nat} {s : State} (hlost : s.dmaLost.contains (dmaKey f ch) = true) (hup : s.up = true)
    (hruns : s.dmaRuns f ch ≠ []) : exec (.dmaComplete f ch) s = .fault (.dmaUndefined f ch) := by
  show execDmaComplete f ch s = _
  unfold execDmaComplete
  split
  case h_1 hnil => exact absurd hnil hruns
  case h_2 => rw [if_neg (by simp [hup]), if_pos hlost]

/-- Settles O36: a lost channel or ring stops with its own fault before any other effect. -/
theorem lostRingsAndChannelsStop : Obligations.LostRingsAndChannelsStop := by
  refine ⟨fun f ch desc data s hlost => ⟨execDmaDescriptor_lost hlost, execDmaComplete_lost hlost⟩,
    fun f r decl s hfetches hlost => ?_⟩
  have hstops : (s.ringLost.contains (ringKey f r) && s.fetches) = true := by rw [hlost, hfetches, Bool.and_self]
  exact ⟨if_pos hstops, if_pos hstops⟩

/-! ### A Bell of the state -/

theorem State.SameBut.bell {w : List Part} {a b : State} (hs : State.SameBut w a b) (hw : .bells ∉ w) (d i : Nat) :
    b.bell d i = a.bell d i := by
  simp only [State.bell, hs.bells hw]

theorem State.SameBut.fld {w : List Part} {a b : State} (hs : State.SameBut w a b) (hw : .regs ∉ w) (p : Page) (f : FieldRow) (i : Nat) :
    b.fld p f i = a.fld p f i :=
  fld_of_reg (hs.reg hw) p f i

theorem State.bell_setBell (s : State) {d b e c : Nat} (x : Bell) (hb : b < 4096) (hc : c < 4096) :
    (s.setBell d b x).bell e c = if e = d ∧ c = b then x else s.bell e c := by
  refine (SMap.getF_setF _ _ _ _ _).trans ?_
  simp only [mul_add_eq_iff hc hb]
  rfl

@[simp] theorem State.fld_setBell (s : State) (d b : Nat) (x : Bell) (p : Page) (f : FieldRow) (i : Nat) :
    (s.setBell d b x).fld p f i = s.fld p f i := rfl

/-! ### Signals (R319, R324) -/

/-- From s to t the Bell b of die d has come to hold x, no other Bell has changed, and one signal is counted. -/
def State.Rang (s : State) (d b : Nat) (x : Bell) (t : State) : Prop :=
  t.bell d b = x ∧ (∀ e c, c < 4096 → (e ≠ d ∨ c ≠ b) → t.bell e c = s.bell e c)
    ∧ t.fld (diePage .bells d) signalCount_count = (s.fld (diePage .bells d) signalCount_count + 1) % 2 ^ 32

/-- What leaves the Bells and the count leaves what a signal did. -/
theorem State.Rang.same {w : List Part} {s t u : State} {d b : Nat} {x : Bell} (h : s.Rang d b x t) (hs : State.SameBut w t u)
    (hw : .bells ∉ w) (hcount : u.fld (diePage .bells d) signalCount_count = t.fld (diePage .bells d) signalCount_count) :
    s.Rang d b x u := by
  obtain ⟨hbell, hothers, hcounted⟩ := h
  exact ⟨(hs.bell hw d b).trans hbell, fun e c hc hne => (hs.bell hw e c).trans (hothers e c hc hne), hcount.trans hcounted⟩

/-- Bell b of die d holds x, and one signal is counted. -/
def State.ringBell (s : State) (d b : Nat) (x : Bell) : State := (s.setBell d b x).bump (diePage .bells d) signalCount_count

theorem State.ringBell_same (s : State) (d b : Nat) (x : Bell) : State.SameBut [.bells, .regs] s (s.ringBell d b x) :=
  State.bump_same (State.setBell_same (.refl _ s) (by decide)) (by decide)

theorem State.ringBell_rang (s : State) (d : Nat) {b : Nat} (x : Bell) (hb : b < 4096) : s.Rang d b x (s.ringBell d b x) := by
  have hbell (e c : Nat) (hc : c < 4096) : (s.ringBell d b x).bell e c = if e = d ∧ c = b then x else s.bell e c :=
    ((State.bump_same (.refl _ _) (List.Subset.refl _)).bell (by decide) e c).trans (s.bell_setBell x hb hc)
  refine ⟨(hbell d b hb).trans (if_pos ⟨rfl, rfl⟩), fun e c hc hne => (hbell e c hc).trans (if_neg (by omega)), ?_⟩
  rw [State.ringBell, State.fld_bump _ _ _ _ rfl rfl, State.fld_setBell]

theorem State.die_lt_of_served {s : State} {d : Nat} (h : s.served (diePage .bells d) = true) : d < 8 := by
  simp only [State.served, diePage, State.dieLive, dieOk, Bool.and_eq_true] at h
  obtain ⟨⟨⟨⟨hd, -⟩, -⟩, -⟩, -⟩ := h
  exact of_decide_eq_true hd

theorem Bell.apply_error (x : Bell) (v : Word) : x.apply bellErrorOp v = ⟨v, true, x.owner⟩ := by
  simp [Bell.apply, bellErrorOp, bellSetOp, bellAddOp, bellMaxOp]

section Signals

variable {s : State} {d b : Nat} (hserved : s.served (diePage .bells d) = true) (hb : b < 4096)
include hserved hb

/-- A signal that is no ERROR acts on its Bell and its count alone. -/
theorem State.signal_eq_ringBell {op : Nat} (v : Word) (hop : op < bellErrorOp) :
    s.signal d b op v = s.ringBell d b ((s.bell d b).apply op v) := by
  have hop4 : op < 4 := Nat.lt_of_lt_of_le hop (by decide)
  unfold State.signal
  rw [if_pos (by simp [hserved, hb, hop4])]
  exact if_neg (Nat.ne_of_lt hop)

/-- SET, ADD and MAX change their Bell, and nothing but Bells and registers. -/
theorem State.signal_rang {op : Nat} (v : Word) (hop : op < bellErrorOp) :
    s.Rang d b ((s.bell d b).apply op v) (s.signal d b op v) ∧ State.SameBut [.bells, .regs] s (s.signal d b op v) := by
  rw [State.signal_eq_ringBell hserved hb v hop]
  exact ⟨s.ringBell_rang d _ hb, s.ringBell_same d b _⟩

theorem State.signal_error_eq (v : Word) : s.signal d b bellErrorOp v = discardWaiters
    ((s.ringBell d b ⟨v, true, (s.bell d b).owner⟩).event (diePage .bells d) bells_evtRaw_errorOp) d b (waitersOf d) := by
  unfold State.signal
  rw [if_pos (by simp [hserved, hb, bellErrorOp]), Bell.apply_error]
  exact if_pos rfl

/-- The ERROR's event, and the waiters that discard their entries, leave the Bells and the count. -/
theorem State.signal_error_rang (v : Word) : s.Rang d b ⟨v, true, (s.bell d b).owner⟩ (s.signal d b bellErrorOp v)
    ∧ (s.signal d b bellErrorOp v).fld (diePage .bells d) bells_evtRaw_errorOp = 1 := by
  rw [State.signal_error_eq hserved hb v]
  have hd : d < 8 := State.die_lt_of_served hserved
  let u := s.ringBell d b ⟨v, true, (s.bell d b).owner⟩
  let t := u.event (diePage .bells d) bells_evtRaw_errorOp
  have hdie (off : Nat) : croftBase ≤ (diePage .bells d).reg off := by
    simp only [Page.reg, Page.base, diePage, croftBase]
    omega
  have hgroup : (diePage .bells d).attnGroup - 32 < 32 := by
    simp only [Page.attnGroup, diePage]
    omega
  have hreg (off : Nat) : t.reg ((diePage .bells d).reg off)
      = (u.setFld (diePage .bells d) bells_evtRaw_errorOp 1).reg ((diePage .bells d).reg off) := reg_attnRise hgroup (hdie off)
  have hcount : t.fld (diePage .bells d) signalCount_count = u.fld (diePage .bells d) signalCount_count :=
    (congrArg (getField · 31 0) (hreg _)).trans
      (State.fld_setFld_far u _ _ _ _ _ _ _ (by simp [fieldAddr, Page.reg, signalCount_count, bells_evtRaw_errorOp]))
  have hevent : t.fld (diePage .bells d) bells_evtRaw_errorOp = 1 :=
    (congrArg (getField · 0 0) (hreg _)).trans (State.fld_setFld u _ _ _ _ (by decide) (by decide))
  have hdiscard := discardWaiters_same (x0 := d) (x1 := b) (x2 := waitersOf d) (.refl _ t) (List.Subset.refl _)
  have hrang := (s.ringBell_rang d _ hb).same (State.event_same (.refl _ u) (List.Subset.refl _)) (by decide) hcount
  exact ⟨hrang.same hdiscard (by decide) (hdiscard.fld (by decide) ..), (hdiscard.fld (by decide) ..).trans hevent⟩

end Signals

/-- The report of a unit's ERROR to the fault manager changes no more. -/
theorem State.unitSignal_same_signal (s : State) (d b op : Nat) (v : Word) :
    State.SameBut [.faults] (s.signal d b op v) (s.unitSignal d b op v) := by
  unfold State.unitSignal
  dsimp only
  split
  · exact same_ite (State.withFaults_same (.refl _ _) (by decide)) (.refl _ _)
  · exact .refl _ _

theorem State.unitSignal_error_rang {s : State} {d b : Nat} (hserved : s.served (diePage .bells d) = true) (hb : b < 4096) (v : Word) :
    s.Rang d b ⟨v, true, (s.bell d b).owner⟩ (s.unitSignal d b bellErrorOp v)
      ∧ (s.unitSignal d b bellErrorOp v).fld (diePage .bells d) bells_evtRaw_errorOp = 1 := by
  have hsame := s.unitSignal_same_signal d b bellErrorOp v
  obtain ⟨hrang, hevent⟩ := State.signal_error_rang hserved hb v
  exact ⟨hrang.same hsame (by decide) (hsame.fld (by decide) ..), (hsame.fld (by decide) ..).trans hevent⟩

/-! ### Bell slots (R321, R433) -/

theorem State.bellWrite_of_allowed {s : State} {f d b : Nat} (hserved : s.served (diePage .bells d) = true)
    (howner : ownerAllows (s.owner (diePage .bells d)) (.host f) = true) (op : Nat) (v : Word) :
    s.bellWrite f d b op v = if 64 ≤ b ∧ (s.bell d b).owner.map (·.1) = some f then s.signal d b op v else s := by
  simp only [State.bellWrite, hserved, howner, Bool.not_true, Bool.false_eq_true, if_false, Bool.and_eq_true, decide_eq_true_eq,
    beq_iff_eq]

/-- Settles O44: a signal writes its Bell and counts, and a Bell slot is a signal on a Bell that the function owns. -/
theorem signalsActOnTheirBell : Obligations.SignalsActOnTheirBell := by
  refine ⟨fun d b v s hserved hb => ⟨?set, ?add, ?max, ?error⟩,
    fun f d b v s hserved howner hb => ⟨fun h64 hmine => ?acts, fun hno => ?idle⟩⟩
  case set => exact ⟨_, rfl, State.signal_rang hserved hb v (by decide)⟩
  case add => exact ⟨_, rfl, State.signal_rang hserved hb v (by decide)⟩
  case max => exact ⟨_, rfl, State.signal_rang hserved hb v (by decide)⟩
  case error => exact ⟨_, rfl, State.unitSignal_error_rang hserved hb v⟩
  case acts =>
    have hwrite (op : Nat) : s.bellWrite f d b op v = s.signal d b op v :=
      (State.bellWrite_of_allowed hserved howner op v).trans (if_pos ⟨h64, hmine⟩)
    have hset : exec (.bellSet f d b v) s = exec (.signalSet d b v) s := congrArg _ (hwrite bellSetOp)
    have hadd : exec (.bellAdd f d b v) s = exec (.signalAdd d b v) s := congrArg _ (hwrite bellAddOp)
    obtain ⟨⟨hsets, -⟩, -⟩ := State.signal_rang hserved hb v (show bellSetOp < bellErrorOp by decide)
    obtain ⟨⟨hadds, -⟩, -⟩ := State.signal_rang hserved hb v (show bellAddOp < bellErrorOp by decide)
    exact ⟨hset, hadd, ⟨_, hset, congrArg Bell.value hsets⟩, _, hadd, congrArg Bell.value hadds⟩
  case idle =>
    have hwrite (op : Nat) : s.bellWrite f d b op v = s :=
      (State.bellWrite_of_allowed hserved howner op v).trans (if_neg fun ⟨h64, hmine⟩ => hno.elim (by omega) (absurd hmine))
    exact ⟨congrArg _ (hwrite bellSetOp), congrArg _ (hwrite bellAddOp)⟩

/-! ### The ring whose turn it is (R310, R317) -/

theorem turns_getElem? {n i : Nat} (last : Nat) (hi : i < n) : (turns n last)[i]? = some ((last + (1 + i)) % n) := by
  simp [turns, numsFrom_eq_range', hi]

theorem mem_turns_rings {r : Nat} (last : Nat) (hr : r < 64) : r ∈ turns 64 last :=
  List.mem_map.mpr ⟨64 - (last + (64 - r)) % 64, mem_numsFrom.mpr (by omega), by omega⟩

theorem turns_lt {n last x : Nat} (hn : 0 < n) (hx : x ∈ turns n last) : x < n := by
  obtain ⟨i, -, rfl⟩ := List.mem_map.mp hx
  exact Nat.mod_lt _ hn

/-- The ring whose turn it is has a ticket, and no function between the last one served and its own has one. -/
theorem State.turn_eq_some {s : State} {f r : Nat} (h : s.turn = some (f, r)) : s.ringReady f r = true ∧ f < 32 ∧ r < 64
    ∧ ∀ k, 1 ≤ k → (∀ i, 1 ≤ i → i ≤ k → (s.loader.lastFn + i) % 32 ≠ f) → ∀ r' < 64,
      s.ringReady ((s.loader.lastFn + k) % 32) r' = false := by
  unfold State.turn at h
  obtain ⟨before, g, after, hturns, hserves, hnone⟩ := List.findSome?_eq_some_iff.mp h
  obtain ⟨x, hfind, hx⟩ := Option.map_eq_some_iff.mp hserves
  cases hx
  have hg : (turns 32 s.loader.lastFn)[before.length]? = some f := by simp [hturns]
  have hmem : f ∈ turns 32 s.loader.lastFn := List.mem_of_getElem? hg
  have hlen : before.length < 32 := by
    have := congrArg List.length hturns
    simp [turns, numsFrom_eq_range'] at this
    omega
  have hf : (s.loader.lastFn + (1 + before.length)) % 32 = f := Option.some.inj ((turns_getElem? _ hlen).symm.trans hg)
  refine ⟨List.find?_some (p := fun r => s.ringReady f r) hfind, turns_lt (by decide) hmem,
    turns_lt (by decide) (List.mem_of_find?_eq_some hfind), fun k hk hskip r' hr' => ?_⟩
  have hkb : k ≤ before.length := by
    by_contra hlt
    exact hskip (1 + before.length) (by omega) (by omega) hf
  have hpassed : (s.loader.lastFn + k) % 32 ∈ before := by
    have hat := turns_getElem? (n := 32) (i := k - 1) s.loader.lastFn (by omega)
    rw [hturns, List.getElem?_append_left (by omega), Nat.add_sub_cancel' hk] at hat
    exact List.mem_of_getElem? hat
  have hidle := List.find?_eq_none.mp (Option.map_eq_none_iff.mp (hnone _ hpassed)) r' (mem_turns_rings _ hr')
  exact Bool.eq_false_iff.mpr hidle

/-! ### The fetch (R310, R316, R487) -/

/-- A ring that stops at an unmapped entry shows it. -/
theorem State.ringFault_shown (s : State) {f : Nat} (r : Nat) (hf : f < 32) : (s.ringFault f r).ringFld f r ringStatus_fault = 1 := by
  have hring : croftBase ≤ fieldAddr (ringPage f r) ringStatus_fault 0 := by
    simp only [fieldAddr, Page.reg, Page.base, ringPage, croftBase]
    omega
  have hreg : (s.ringFault f r).reg (fieldAddr (ringPage f r) ringStatus_fault 0)
      = (s.setRingFld f r ringStatus_fault 1).reg (fieldAddr (ringPage f r) ringStatus_fault 0) :=
    (State.reg_event (by rwa [hostPage_attnGroup]) (hostPage_below hf (by decide)) hring).trans
      (State.reg_setFld_below (hostPage_below hf (by decide)) hring)
  exact (congrArg (getField · 3 3) hreg).trans (State.ringFld_setRingFld s f r ringStatus_fault 1 (by decide) (by decide))

theorem State.SameBut.mapped {w : List Part} {a b : State} (hs : State.SameBut w a b) (hw : .fields ∉ w) (f va n : Nat) (write : Bool) :
    b.mapped f va n write = a.mapped f va n write := by
  simp only [State.mapped, hs.translate hw]

theorem State.SameBut.ringBase {w : List Part} {a b : State} (hs : State.SameBut w a b) (hw : .regs ∉ w) (f r : Nat) :
    b.ringBase f r = a.ringBase f r := by
  simp only [State.ringBase, State.ringFld, hs.fld hw]

section Fetch

variable {f r : Nat} {s : State} (hkept : s.ringLost.contains (ringKey f r) = false)
include hkept

theorem execTicketFetch_eq (decl : TicketDecl) : exec (.ticketFetch f r decl) s = .next (s.fetchTicket f r decl) :=
  if_neg (by rw [hkept, Bool.false_and]; decide)

/-- The head advances and the ticket is settled, or the ring stops at an entry that is not mapped. -/
theorem execTicketFetch_turn (decl : TicketDecl) (hfetches : s.fetches = true) (hturn : s.turn = some (f, r)) :
    exec (.ticketFetch f r decl) s = .next (
    let head := s.ringFld f r ringHead_head
    let a := s.ringBase f r + 128 * head
    let u := (s.noteTurn f r).loaderRead [⟨some f, 8 * a, 1024⟩]
    if s.mapped f a 128 false then
      (u.setRingFld f r ringHead_head ((head + 1) % s.ringSize f r)).settleTicket f r (u.vaBytes f a 128) decl none
    else (s.noteTurn f r).ringFault f r) := by
  have hturned : State.SameBut [.loader] s (s.noteTurn f r) := State.noteTurn_same (.refl _ s) (List.Subset.refl _)
  rw [execTicketFetch_eq hkept, State.fetchTicket]
  simp only [hfetches, hturn, hturned.mapped (by decide), hturned.ringBase (by decide), bne_self_eq_false, Bool.not_true, Bool.or_false,
    Bool.false_eq_true, if_false]

theorem execTicketFetch_otherTurn (decl : TicketDecl) (hturn : s.turn ≠ some (f, r)) : exec (.ticketFetch f r decl) s = .next s := by
  rw [execTicketFetch_eq hkept, State.fetchTicket, if_pos (by simp [hturn])]

theorem execTicketHoldRelease_held (hfetches : s.fetches = true) (hon : s.ringOn f r = true) {x : HeldTicket}
    (hheld : s.loader.held.find? (fun y => y.f == f && y.ring == r) = some x) : exec (.ticketHoldRelease f r) s
      = .next (((s.withLoader { s.loader with held := s.loader.held.filter fun y => !(y.f == f && y.ring == r) }).setRingFld f r
          ringStatus_held 0).settleTicket f r x.ticket x.decl x.since) := by
  show execTicketHoldRelease f r s = _
  unfold execTicketHoldRelease
  rw [hkept, Bool.false_and, if_neg Bool.false_ne_true, hheld]
  exact if_neg (by simp [hfetches, hon])

end Fetch

/-- Settles O46: the fetch of the ring whose turn it is, and the second look at a held ticket. -/
theorem ticketsAreFetchedInOrder : Obligations.TicketsAreFetchedInOrder := by
  intro f r decl s hfetches hkept hon
  refine ⟨fun hturn => ?turn, execTicketFetch_otherTurn hkept decl, fun x => execTicketHoldRelease_held hkept hfetches hon⟩
  obtain ⟨hready, hf, -, hbetween⟩ := State.turn_eq_some hturn
  have hexec := execTicketFetch_turn hkept decl hfetches hturn
  refine ⟨hready, hbetween, fun hmapped => ?mapped, fun hunmapped => ?unmapped⟩
  case mapped => exact hexec.trans (congrArg _ (if_pos hmapped))
  case unmapped =>
    exact ⟨(s.noteTurn f r).ringFault f r, hexec.trans (congrArg _ (if_neg (by simp [hunmapped]))), State.ringFault_shown _ r hf,
      (State.ringFault_same (.refl _ _) (List.Subset.refl _)).loader (by decide)⟩

/-! ### The steps of the loader

The key-value store, the register file and the memories change beside the list of steps, not in it. -/

@[simp] theorem State.setPages_steps (s : State) (ps : List KvPage) : (s.setPages ps).loader.steps = s.loader.steps := rfl

@[simp] theorem State.mapNodes_steps (s : State) (g : PrefixNode → PrefixNode) : (s.mapNodes g).loader.steps = s.loader.steps := rfl

@[simp] theorem State.releaseRefs_steps (s : State) (session : Nat) : (s.releaseRefs session).loader.steps = s.loader.steps := rfl

@[simp] theorem State.freeFrameOf_steps (s : State) (f : Nat) : (s.freeFrameOf f).loader.steps = s.loader.steps := rfl

@[simp] theorem State.putPage_steps (s : State) (p : KvPage) : (s.putPage p).loader.steps = s.loader.steps := by
  unfold State.putPage
  split <;> rfl

@[simp] theorem State.countDropped_loader (s : State) : s.countDropped.loader = s.loader :=
  (State.countDropped_same (.refl _ s) (List.Subset.refl _)).loader (by decide)

@[simp] theorem State.countRecomputed_loader (s : State) : s.countRecomputed.loader = s.loader :=
  (State.countRecomputed_same (.refl _ s) (List.Subset.refl _)).loader (by decide)

@[simp] theorem State.dropPage_steps (s : State) (p : KvPage) : (s.dropPage p).loader.steps = s.loader.steps := by
  unfold State.dropPage
  dsimp only
  split <;> simp

@[simp] theorem State.shareEntry_steps (s : State) (b : BundleDecl) (n : Nat) (k : KvRef) :
    (s.shareEntry b n k).loader.steps = s.loader.steps := by
  unfold State.shareEntry
  dsimp only
  rw [State.putPage_steps]
  split
  · split <;> rfl
  · rfl

@[simp] theorem State.shareNode_steps (s : State) (b : BundleDecl) (session j n : Nat) :
    (s.shareNode b session j n).loader.steps = s.loader.steps :=
  foldl_keeps (fun u : State => u.loader.steps) (fun k _ u => u.shareEntry_steps b n k) s

@[simp] theorem prefixRuns_steps (x : KvJob) (session : Nat) (rs : List (Nat × List Nat)) (j parent : Nat) (hit : Bool) (s : State) :
    (prefixRuns x session rs j parent hit s).loader.steps = s.loader.steps := by
  fun_induction prefixRuns x session rs j parent hit s with
  | case1 => rfl
  | case2 _ _ _ _ _ _ _ _ _ _ ih => rw [ih, State.shareNode_steps]
  | case3 _ _ _ _ _ _ _ _ _ _ _ _ ih => rw [ih, State.shareNode_steps, State.mapNodes_steps]
  | case4 => rfl
  | case5 _ _ _ _ _ _ _ _ _ _ _ ih => rw [ih, State.shareNode_steps]; rfl
  | case6 => rfl

@[simp] theorem prefixSessions_steps (x : KvJob) (cs : List (Nat × List Nat)) (s : State) :
    (prefixSessions x cs s).loader.steps = s.loader.steps := by
  induction cs generalizing s with
  | nil => rfl
  | cons c cs ih => exact (ih _).trans (prefixRuns_steps ..)

@[simp] theorem State.dropBadFmt_steps (s : State) (p : KvPage) : (s.dropBadFmt p).loader.steps = s.loader.steps := by
  unfold State.dropBadFmt
  split <;> simp

@[simp] theorem State.kvLookup_steps (s : State) (x : KvJob) (sessions : List Nat) (d : TicketDecl) :
    (s.kvLookup x sessions d).loader.steps = s.loader.steps :=
  (foldl_keeps (fun u : State => u.loader.steps) (fun p _ u => u.dropBadFmt_steps p) _).trans (prefixSessions_steps x d.conds s)

theorem State.getFrame_steps {s : State} {job d n f : Nat} {t : State} (h : s.getFrame job d n = some (f, t)) :
    t.loader.steps = s.loader.steps := by
  induction n generalizing s with
  | zero => cases h
  | succ n ih =>
    unfold State.getFrame at h
    split at h
    case h_1 => cases h; rfl
    case h_2 =>
      split at h
      case h_1 p _ => exact (ih h).trans (s.dropPage_steps p)
      case h_2 => cases h

section Frames

variable {s t : State} {x : KvJob}

theorem State.allocPage_steps {node : Option Nat} {writer : Option (Nat × Fmt)} {fmt : Fmt} {k : KvRef}
    (h : s.allocPage x node writer fmt k = some t) : t.loader.steps = s.loader.steps := by
  unfold State.allocPage at h
  dsimp only at h
  split at h
  case h_1 f u hframe =>
    cases h
    exact (u.putPage_steps _).trans (State.getFrame_steps hframe)
  case h_2 => cases h

theorem State.prepRead_steps {k : KvRef} (h : s.prepRead x k = some t) : t.loader.steps = s.loader.steps := by
  unfold State.prepRead at h
  split at h
  case isTrue =>
    obtain ⟨u, hu, rfl⟩ := Option.map_eq_some_iff.mp h
    simpa using State.allocPage_steps hu
  case isFalse => cases h; rfl

theorem State.prepWrite_steps {k : KvRef} (h : s.prepWrite x k = some t) : t.loader.steps = s.loader.steps := by
  unfold State.prepWrite at h
  dsimp only at h
  split at h
  case h_2 => exact State.allocPage_steps h
  case h_1 p _ =>
    split at h
    · cases h
      exact s.putPage_steps _
    · split at h
      · split at h
        · split at h
          · exact (State.allocPage_steps h).trans (by simp)
          · cases h; rfl
        · cases h; rfl
      · exact State.allocPage_steps h

theorem prepReads_steps {ks : List KvRef} (h : prepReads x ks s = some t) : t.loader.steps = s.loader.steps := by
  induction ks generalizing s with
  | nil => cases h; rfl
  | cons k ks ih =>
    obtain ⟨u, hu, hrest⟩ := Option.bind_eq_some_iff.mp h
    exact (ih hrest).trans (State.prepRead_steps hu)

theorem prepWrites_steps {ks : List KvRef} (h : prepWrites x ks s = some t) : t.loader.steps = s.loader.steps := by
  induction ks generalizing s with
  | nil => cases h; rfl
  | cons k ks ih =>
    obtain ⟨u, hu, hrest⟩ := Option.bind_eq_some_iff.mp h
    exact (ih hrest).trans (State.prepWrite_steps hu)

theorem State.kvFrames_steps {d : TicketDecl} (h : s.kvFrames x d = some t) : t.loader.steps = s.loader.steps := by
  obtain ⟨u, hreads, hwrites⟩ := Option.bind_eq_some_iff.mp h
  exact (prepWrites_steps hwrites).trans (prepReads_steps hreads)

/-- A step that reads and writes no pages lacks no frame. -/
theorem State.kvFrames_of_none (s : State) (x : KvJob) {d : TicketDecl} (hreads : d.reads = []) (hwrites : d.writes = []) :
    s.kvFrames x d = some s := by
  rw [State.kvFrames, hreads, hwrites]
  rfl

end Frames

/-! ### The steps that the loader holds, by job and number -/

def State.stepKeys (s : State) : List (Nat × Nat) := s.loader.steps.map fun t => (t.job, t.number)

theorem State.stepKeys_of_steps {s t : State} (h : t.loader.steps = s.loader.steps) : t.stepKeys = s.stepKeys := by
  rw [State.stepKeys, State.stepKeys, h]

theorem State.SameBut.stepKeys {w : List Part} {a b : State} (hs : State.SameBut w a b) (hw : .loader ∉ w) : b.stepKeys = a.stepKeys :=
  State.stepKeys_of_steps (congrArg Loader.steps (hs.loader hw))

/-- A step takes the place of one of its job and its number. -/
@[simp] theorem State.stepKeys_setStep (s : State) (t : Step) : (s.setStep t).stepKeys = s.stepKeys := by
  simp only [State.stepKeys, State.setStep, State.withLoader_loader, List.map_map]
  refine List.map_congr_left fun x _ => ?_
  simp only [Function.comp_apply, Bool.and_eq_true, decide_eq_true_eq]
  split
  case isTrue h => rw [h.1, h.2]
  case isFalse => rfl

@[simp] theorem State.stepKeys_setJob (s : State) (j : Job) : (s.setJob j).stepKeys = s.stepKeys := rfl

@[simp] theorem State.stepKeys_reselect (s : State) (j : Job) (t : Step) : (s.reselect j t).stepKeys = s.stepKeys := by
  unfold State.reselect
  split
  · split
    · split
      · simp
      · rfl
    · rfl
  · rfl

theorem State.kvRenew_stepKeys {s u : State} {t : Step} (h : s.kvRenew t = some u) : u.stepKeys = s.stepKeys := by
  unfold State.kvRenew at h
  split at h
  case h_1 =>
    obtain ⟨v, hv, rfl⟩ := Option.map_eq_some_iff.mp h
    rw [State.stepKeys_setStep]
    exact State.stepKeys_of_steps ((State.kvFrames_steps hv).trans (s.kvLookup_steps ..))
  case h_2 => cases h; rfl

theorem State.renew_stepKeys {s u : State} {j : Job} {t : Step} (h : s.renew j t = some u) : u.stepKeys = s.stepKeys := by
  obtain ⟨v, hv, rfl⟩ := Option.map_eq_some_iff.mp h
  refine Eq.trans ?_ (State.kvRenew_stepKeys hv)
  split
  · exact (State.triggerRetest_same (.refl _ v) (List.Subset.refl _)).stepKeys (by decide)
  · rfl

/-- The pages of a step that names none are prepared again whatever the store holds. -/
theorem State.renew_isSome (s : State) (j : Job) {t : Step} (hreads : t.decl.reads = []) (hwrites : t.decl.writes = []) :
    (s.renew j t).isSome = true := by
  unfold State.renew
  rw [Option.isSome_map]
  unfold State.kvRenew
  split
  · simp only [State.kvFrames_of_none _ _ hreads hwrites, Option.map_some, Option.isSome_some]
  · rfl

/-! ### The start of a step (R323, R325, R382) -/

/-- A step whose attempt begins on some routes. -/
def Step.begun (t : Step) (routes : List (Nat × Nat × Nat)) : Step :=
  { t with started := true, ran := [], writesDone := false, stopSeen := false, signals := [], released := [], routes := routes }

/-- The start of a step before its records and its routes are looked at: Bells zeroed, the job's barriers at none, the step begun. -/
def State.stepBegun (s : State) (j : Job) (t : Step) : State :=
  ((s.zeroBells j.handle).setJob { j with barriers := 0, barBase := (s.zeroBells j.handle).barValue j }).setStep
    (t.begun ((s.chooseRoutes j).filterMap fun r => r.2.map fun w => (r.1, w.1, w.2)))

theorem State.startStep_same_begun (s : State) (j : Job) (t : Step) :
    State.SameBut [.freeCount, .regs, .mem, .hbmStacks, .faults, .out] (s.stepBegun j t) (s.startStep j t) := by
  have hopen := State.openGeneration_same (x0 := j) (x1 := t.ticket) (.refl _ (s.stepBegun j t)) (List.Subset.refl _)
  unfold State.startStep
  dsimp only
  split
  · exact State.fault_same hopen (by decide)
  · exact hopen

/-- The started step stands in the place of the one of its job and number. -/
theorem State.startStep_started {s : State} (j : Job) {t : Step} (h : (t.job, t.number) ∈ s.stepKeys) :
    ∃ x ∈ (s.startStep j t).loader.steps, x.job = t.job ∧ x.number = t.number ∧ x.started = true ∧ x.ran = [] ∧ x.signals = []
      ∧ x.released = [] := by
  obtain ⟨y, hy, hkey⟩ := List.mem_map.mp h
  obtain ⟨hjob, hnumber⟩ := Prod.mk.inj hkey
  rw [(s.startStep_same_begun j t).loader (by decide)]
  exact ⟨_, List.mem_map.mpr ⟨y, hy, if_pos (by simpa using ⟨hjob, hnumber⟩)⟩, rfl, rfl, rfl, rfl, rfl, rfl⟩

/-- A rewrite of every entry, where it does not make an entry the default. -/
theorem SMap.getF_mapF {α : Type} [DecidableEq α] {d : Nat → α} {g : Nat → α → α} {m : SMap α} {k : Nat} (hd : g k (d k) = d k)
    (h : g k (SMap.getF d m k) ≠ d k) : SMap.getF d (SMap.mapF d g m) k = g k (SMap.getF d m k) := by
  induction m with
  | nil => exact absurd hd h
  | cons p m ih =>
    obtain ⟨a, v⟩ := p
    simp only [SMap.getF] at h ⊢
    simp only [SMap.mapF]
    by_cases ha : k = a
    · subst ha
      rw [if_pos rfl] at h ⊢
      rw [if_neg h, SMap.getF, if_pos rfl]
    · rw [if_neg ha] at h ⊢
      split
      · exact ih h
      · rw [SMap.getF, if_neg ha, ih h]

/-- What the start of a step of job h makes of the Bell at place k. -/
def Bell.restarted (b : Bell) (h k : Nat) : Bell :=
  if b.owner.map (·.2) = some h && 64 ≤ k % 4096 then { b with value := 0, error := false } else b

@[simp] theorem Bell.restarted_owner (b : Bell) (h k : Nat) : (b.restarted h k).owner = b.owner := by
  unfold Bell.restarted
  split <;> rfl

theorem State.bell_zeroBells {s : State} {d i : Nat} (h : Nat) (howned : (s.bell d i).owner ≠ none) :
    (s.zeroBells h).bell d i = (s.bell d i).restarted h (d * 4096 + i) := by
  refine SMap.getF_mapF (g := fun k (b : Bell) => b.restarted h k) (by simp [Bell.restarted]) fun hdefault => howned ?_
  exact (Bell.restarted_owner _ h _).symm.trans (congrArg Bell.owner hdefault)

/-- The start of a job's step zeroes the job's Bells from 64 up and no other Bell that has an owner. -/
theorem State.startStep_bell (s : State) (j : Job) (t : Step) {d i g h : Nat} (hi : i < 4096) (howner : (s.bell d i).owner = some (g, h)) :
    (s.startStep j t).bell d i = if h = j.handle ∧ 64 ≤ i then { s.bell d i with value := 0, error := false } else s.bell d i := by
  have hplace : (d * 4096 + i) % 4096 = i := by omega
  have hbell : (s.startStep j t).bell d i = (s.zeroBells j.handle).bell d i := (s.startStep_same_begun j t).bell (by decide) d i
  rw [hbell, State.bell_zeroBells j.handle (by simp [howner])]
  simp only [Bell.restarted, howner, hplace, Option.map_some, Option.some.injEq, Bool.and_eq_true, decide_eq_true_eq]

/-- The first ready step of a job starts. -/
theorem execStepStart_starts {job : Nat} {j : Job} {t : Step} {s : State} (hjob : s.job? job = some j) (hup : s.up = true)
    (hactive : j.state = .active) (hrestart : s.restarts.contains job = false) (hidle : (s.stepsOf job).any (·.started) = false)
    (hready : (s.stepsOf job).find? (·.ready) = some t) :
    exec (.stepStart job) s = .next ((if s.startsLate t then s.lateTransit else s).startStep j t) := by
  show execStepStart job s = _
  simp only [execStepStart, hjob]
  rw [hup, hactive, hrestart, hidle, hready]
  rfl

theorem execStepStart_waits {job : Nat} {j : Job} {s : State} (hjob : s.job? job = some j)
    (h : s.up = false ∨ j.state ≠ .active ∨ s.restarts.contains job = true ∨ (s.stepsOf job).any (·.started) = true
      ∨ (s.stepsOf job).find? (·.ready) = none) : exec (.stepStart job) s = .next s := by
  show execStepStart job s = _
  simp only [execStepStart, hjob]
  obtain hbusy | hnone : (!s.up || j.state != .active || s.restarts.contains job || (s.stepsOf job).any (·.started)) = true
    ∨ (s.stepsOf job).find? (·.ready) = none := by simpa [or_assoc] using h
  · exact if_pos hbusy
  · rw [hnone]
    exact ite_self _

theorem State.mem_stepsOf {s : State} {job : Nat} {t : Step} (h : t ∈ s.stepsOf job) :
    t.job = job ∧ (t.job, t.number) ∈ s.stepKeys := by
  obtain ⟨hmem, hjob⟩ := List.mem_filter.mp h
  exact ⟨by simpa using hjob, List.mem_map.mpr ⟨t, hmem, rfl⟩⟩

/-! ### The restart of a step (R439) -/

theorem execStepRestart_waits {job : Nat} {j : Job} {s : State} (hjob : s.job? job = some j)
    (h : s.up = false ∨ j.state ≠ .active ∨ s.restarts.contains job = false ∨ s.power.retest ≠ none) :
    exec (.stepRestart job) s = .next s := by
  show execStepRestart job s = _
  simp only [execStepRestart, hjob]
  exact if_pos (by simpa [Option.isSome_iff_ne_none, or_assoc] using h)

/-- A restart that has waited for the re-test is no longer due. -/
def State.restartDone (s : State) (job : Nat) : State := s.withRestarts (s.restarts.filter (· != job))

/-- The state in which a restarted step starts anew: the restart is counted, the generation and the mode are those of the restart. -/
def State.restarting (v : State) (job : Nat) (j : Job) (t : Step) : State :=
  let w := (v.bump (sqPage .fault) restartCount_count).event (sqPage .fault) fault_evtRaw_restart
  (w.revert j).reselect j ((w.abortedStep? job).getD t)

theorem State.restarting_same (v : State) (job : Nat) (j : Job) (t : Step) :
    State.SameBut [.freeCount, .regs, .mem, .hbmStacks, .loader, .faults, .out] v (v.restarting job j t) :=
  State.reselect_same (State.revert_same (State.event_same (State.bump_same (.refl _ v) (by decide)) (by decide)) (by decide)) (by decide)

theorem State.restarting_stepKeys (v : State) (job : Nat) (j : Job) (t : Step) : (v.restarting job j t).stepKeys = v.stepKeys := by
  rw [State.restarting, State.stepKeys_reselect]
  exact (State.revert_same (w := [.freeCount, .regs, .mem, .hbmStacks, .faults, .out])
    (State.event_same (State.bump_same (.refl _ v) (by decide)) (by decide)) (by decide)).stepKeys (by decide)

/-- The step that starts anew is the job's, and the loader still holds it. -/
theorem State.abortedStep_getD {s y : State} {job : Nat} {t : Step} (hkeys : y.stepKeys = s.stepKeys) (ht : s.abortedStep? job = some t) :
    ((y.abortedStep? job).getD t).job = job
      ∧ (((y.abortedStep? job).getD t).job, ((y.abortedStep? job).getD t).number) ∈ y.stepKeys := by
  cases hy : y.abortedStep? job with
  | some x => exact State.mem_stepsOf (List.mem_of_find?_eq_some hy)
  | none =>
    rw [hkeys]
    exact State.mem_stepsOf (List.mem_of_find?_eq_some ht)

section Restart

variable {job : Nat} {j : Job} {t : Step} {s : State} (hjob : s.job? job = some j) (hup : s.up = true) (hactive : j.state = .active)
  (hdue : s.restarts.contains job = true) (hretest : s.power.retest = none) (haborted : s.abortedStep? job = some t)
include hjob hup hactive hdue hretest haborted

/-- Where the frames of its pages can be had the step starts anew; else the restart stays due. -/
theorem execStepRestart_renews : exec (.stepRestart job) s = .next (((s.restartDone job).renew j t).elim s fun v =>
    (v.restarting job j t).startStep (((v.restarting job j t).job? job).getD j) (((v.restarting job j t).abortedStep? job).getD t)) := by
  show execStepRestart job s = _
  simp only [execStepRestart, hjob]
  rw [hup, hactive, hdue, hretest, haborted]
  cases hrenew : (s.restartDone job).renew j t with
  | some v =>
    have : (s.withRestarts (s.restarts.filter (· != job))).renew j t = some v := hrenew
    simp [this, State.restarting]
  | none =>
    have : (s.withRestarts (s.restarts.filter (· != job))).renew j t = none := hrenew
    simp [this]

theorem execStepRestart_noFrame (hnone : (s.restartDone job).renew j t = none) : exec (.stepRestart job) s = .next s := by
  rw [execStepRestart_renews hjob hup hactive hdue hretest haborted, hnone, Option.elim_none]

theorem execStepRestart_starts {v : State} (hrenew : (s.restartDone job).renew j t = some v) :
    let y := v.restarting job j t
    exec (.stepRestart job) s = .next (y.startStep ((y.job? job).getD j) ((y.abortedStep? job).getD t)) := by
  rw [execStepRestart_renews hjob hup hactive hdue hretest haborted, hrenew, Option.elim_some]

end Restart

/-- The restarted step runs anew, and its restart is no longer due. -/
theorem State.restarting_started {job : Nat} {j : Job} {t : Step} {s v : State} (haborted : s.abortedStep? job = some t)
    (hrenew : (s.restartDone job).renew j t = some v) (j' : Job) :
    let y := v.restarting job j t
    let u := y.startStep j' ((y.abortedStep? job).getD t)
    u.restarts = s.restarts.filter (· != job) ∧ ∃ x ∈ u.loader.steps, x.job = job ∧ x.started = true ∧ x.ran = [] := by
  intro y u
  have hkeys : y.stepKeys = s.stepKeys := (v.restarting_stepKeys job j t).trans (State.renew_stepKeys (s := s.restartDone job) hrenew)
  obtain ⟨hjob, hheld⟩ := State.abortedStep_getD hkeys haborted
  obtain ⟨x, hx, hxjob, -, hstarted, hran, -⟩ := State.startStep_started j' hheld
  have hrestarts : u.restarts = (s.restartDone job).restarts :=
    ((State.startStep_same (.refl _ y) (List.Subset.refl _)).restarts (by decide)).trans
      (((v.restarting_same job j t).restarts (by decide)).trans
        ((State.renew_same (.refl _ _) (List.Subset.refl _) v hrenew).restarts (by decide)))
  exact ⟨hrestarts, x, hx, hxjob.trans hjob, hstarted, hran⟩

/-- An attempt of the first ready step of a job starts, and the step stands among the loader's. -/
theorem State.lateStart_started {s : State} (j : Job) {t : Step} (ht : (t.job, t.number) ∈ s.stepKeys) :
    ∃ x ∈ ((if s.startsLate t then s.lateTransit else s).startStep j t).loader.steps, x.job = t.job ∧ x.number = t.number
      ∧ x.started = true ∧ x.ran = [] ∧ x.signals = [] ∧ x.released = [] := by
  refine State.startStep_started j ?_
  split
  · rwa [(State.lateTransit_same (.refl _ s) (List.Subset.refl _)).stepKeys (by decide)]
  · exact ht

/-! ### The dispatch of a piece (R307, R347) -/

/-- A queue without a GATHER walks to itself. -/
theorem State.walkEntries_isSome (s : State) (t : Step) (g : GranProg) (cache : Nat) {ws : List (BitVec 128)}
    (h : ∀ w ∈ ws, (granCmd w).opcode ≠ 0x06) : (s.walkEntries t g 0 cache ws).isSome = true := by
  induction ws generalizing cache with
  | nil => rfl
  | cons w ws ih =>
    rw [State.walkEntries, if_neg (h w (List.mem_cons_self ..)), Option.isSome_map]
    exact ih _ fun x hx => h x (List.mem_cons_of_mem w hx)

/-- A piece that names no geometry record and gathers no pages is the die's newest run. -/
theorem State.dispatch_runs {s : State} {die : Nat} {c : Cand}
    (hgeom : ∀ h, geomsUsed ((((s.stepBundle c.t).kernels[c.kernel]?).map (·.tensors)).getD []) (s.placed c.t c.at_ c.logical die)
      c.logical h = [])
    (hgather : ∀ g ∈ (s.placed c.t c.at_ c.logical die).grans, ∀ w ∈ g.entries, (granCmd w).opcode ≠ 0x06) :
    ∃ r : Run, (s.dispatch die c).loader = { s.loader with runs := s.loader.runs ++ [r], nextRun := s.loader.nextRun + 1 }
      ∧ r.id = s.loader.nextRun ∧ r.job = c.t.job ∧ r.step = c.t.number ∧ r.kernel = c.kernel ∧ r.die = die ∧ r.logical = c.logical
      ∧ r.piece = s.placed c.t c.at_ c.logical die ∧ r.done = false ∧ (s.dispatch die c).mem = s.mem := by
  unfold State.dispatch
  extract_lets piece b ts mine walked bad r loader₁ s₁ s₂ fences later s₃ s₄ s₅ s₆
  have hbad : bad = [] := by simp [bad, ts, b, piece, hgeom]
  have hwalked : walked.find? (fun g => g.2.isNone) = none := by
    refine List.find?_eq_none.mpr fun g hg => ?_
    obtain ⟨p, hp, rfl⟩ := List.mem_map.mp hg
    have := s.walkEntries_isSome c.t p 0 (hgather p (List.mem_of_mem_filter hp))
    simpa using Option.isSome_iff_ne_none.mp this
  rw [if_neg (by simp [hbad]), hwalked]
  have hqueued : State.SameBut [.regs, .alm, .looms, .sieves, .gates, .pairs, .reeves, .power, .out] s₁
      ((setReeves r fences (numsFrom 0 4) s₆).markRunning die c.t) :=
    State.markRunning_same (setReeves_same (fillGrans_same (fillGates_same (fillSieves_same (fillLooms_same
      (State.leaveDusk_same (.refl _ s₁) (by decide)) (by decide)) (by decide)) (by decide)) (by decide)) (by decide)) (by decide)
  exact ⟨r, hqueued.loader (by decide), rfl, rfl, rfl, rfl, rfl, rfl, rfl, rfl, hqueued.mem (by decide)⟩

/-- With no piece at work on a die, none ends at its boundary. -/
theorem State.settleDie_of_idle {s : State} {die : Nat} (h : (s.loader.runs.any fun r => r.die == die && !r.done) = false) :
    s.settleDie die = s := by
  have hnone : (s.loader.runs.filter fun r => r.die == die && !r.done) = [] :=
    List.filter_eq_nil_iff.mpr (by simpa using h)
  rw [State.settleDie, hnone]
  rfl

theorem execPieceDispatch_dispatches {die : Nat} {c : Cand} {s : State} (hlive : s.dieLive die = true) (hup : s.up = true)
    (hidle : ((s.settleDie die).loader.runs.any fun r => r.die == die && !r.done) = false)
    (hnext : (s.settleDie die).nextPiece die = some c) : exec (.pieceDispatch die) s = .next ((s.settleDie die).dispatch die c) := by
  show execPieceDispatch die s = _
  unfold execPieceDispatch
  dsimp only
  rw [if_pos (by rw [hlive, hup]; rfl), if_neg (by rw [hidle]; decide), hnext]

/-- Settles O47: the start and the restart of a job's step, and the dispatch of a piece. -/
theorem stepsStartAndDispatch : Obligations.StepsStartAndDispatch := by
  refine ⟨fun job s => ⟨fun hjob => ?noJob, fun j t hjob => ⟨execStepStart_waits hjob, execStepRestart_waits hjob,
    fun hup hactive hrestart hidle hready => ?start, fun hup hactive hdue hretest haborted => ?restart,
    fun d i g h hi howner => s.startStep_bell j t hi howner⟩⟩, fun die c s hlive hup hidle hnext => ⟨?boundary, fun hnone => ?run⟩⟩
  case noJob =>
    refine ⟨?_, ?_⟩
    · show execStepStart job s = _
      rw [execStepStart, hjob]
    · show execStepRestart job s = _
      rw [execStepRestart, hjob]
  case start =>
    have hexec := execStepStart_starts hjob hup hactive hrestart hidle hready
    obtain ⟨htjob, hheld⟩ := State.mem_stepsOf (List.mem_of_find?_eq_some hready)
    obtain ⟨x, hx, hxjob, hstarted⟩ := State.lateStart_started j hheld
    exact ⟨hexec, _, x, hexec, hx, hxjob.trans htjob, hstarted⟩
  case restart =>
    refine ⟨State.renew_isSome _ j, fun v hrenew => ?_, execStepRestart_noFrame hjob hup hactive hdue hretest haborted⟩
    have hexec := execStepRestart_starts hjob hup hactive hdue hretest haborted hrenew
    obtain ⟨hrestarts, x, hx, hstarted⟩ := State.restarting_started haborted hrenew (((v.restarting job j t).job? job).getD j)
    exact ⟨hexec, _, x, hexec, hrestarts, hx, hstarted⟩
  case boundary => exact execPieceDispatch_dispatches hlive hup hidle hnext
  case run =>
    intro piece hgeom hgather
    have hexec := execPieceDispatch_dispatches hlive hup hidle hnext
    rw [State.settleDie_of_idle hnone] at hexec
    obtain ⟨r, hloader, hid, hjob, hstep, hkernel, hdie, hlogical, hpiece, hdone, hmem⟩ := State.dispatch_runs hgeom hgather
    exact ⟨_, r, hexec, congrArg Loader.runs hloader, congrArg Loader.nextRun hloader, hid, hjob, hstep, hkernel, hdie, hlogical, hpiece,
      hdone, hmem⟩

end Sys2Proof.Machine

/-! SUPPORT. The settlements of the families of 14_meridian_almanac_cue.md to 18_faults_resets_power.md and of the rest: timing,
Ferry, the host and the Watchman, register pages, faults, resets and power. -/

namespace Sys2Proof.Machine

/-! ### What an event leaves of the registers (R396, R426) -/

/-- The registers that a discarded message of a function counts in: EVT_RAW and CMPL_DROP_COUNT of the HOST pages (R401). -/
def isMsgReg (a : Nat) : Bool :=
  decide (0x20000 ≤ a) && decide (a < 0x40000) && (a % 0x1000 == 0x018 || a % 0x1000 == 0x060)

theorem isMsgReg_host {f : Nat} (hf : f < 32) {row : FieldRow} (hrow : row.off = 0x018 ∨ row.off = 0x060) :
    isMsgReg (fieldAddr (hostPage f) row 0) = true := by
  have ha : fieldAddr (hostPage f) row 0 = 0x20000 + f * 0x1000 + row.off := by
    simp only [fieldAddr, Page.reg, Page.base, hostPage]
    omega
  rw [ha]
  simp only [isMsgReg, Bool.and_eq_true, Bool.or_eq_true, decide_eq_true_eq, beq_iff_eq]
  omega

theorem ne_of_isMsgReg {a b : Nat} (ha : isMsgReg a = false) (hb : isMsgReg b = true) : a ≠ b := by
  rintro rfl
  exact Bool.noConfusion (ha.symm.trans hb)

theorem State.reg_setFld_other (s : State) (p : Page) (f : FieldRow) (v i : Nat) {a : Nat} (h : a ≠ fieldAddr p f i) :
    (s.setFld p f v i).reg a = s.reg a := State.reg_setReg_other s _ h

theorem State.dropOne_reg (s : State) {f a : Nat} (hf : f < 32) (ha : isMsgReg a = false) : (s.dropOne f).reg a = s.reg a :=
  (State.reg_setFld_other _ _ _ _ _ (ne_of_isMsgReg ha (isMsgReg_host hf (.inl rfl)))).trans
    (State.reg_setFld_other _ _ _ _ _ (ne_of_isMsgReg ha (isMsgReg_host hf (.inr rfl))))

theorem State.dropMsg_reg (s : State) {f a : Nat} (hf : f < 32) (ha : isMsgReg a = false) : (s.dropMsg f).reg a = s.reg a := by
  unfold State.dropMsg
  extract_lets g s₁
  have h₁ : s₁.reg a = s.reg a := s.dropOne_reg hf ha
  split
  · split
    case h_1 f₁ v hv =>
      have hf₁ : f₁ = f := (State.attnVector_function hv).trans (hostPage_attnGroup f)
      split
      · exact h₁
      · exact (s₁.dropOne_reg (hf₁ ▸ hf) ha).trans h₁
    case h_2 => exact h₁
  · exact h₁

theorem State.msix_reg (s : State) {f : Nat} (v : Nat) {a : Nat} (hf : f < 32) (ha : isMsgReg a = false) :
    (s.msix f v).reg a = s.reg a := by
  unfold State.msix
  split
  · rfl
  · split
    · rfl
    · exact s.dropMsg_reg hf ha

theorem attnRise_reg {before after : State} {p : Page} {a : Nat} (hg : p.attnGroup - 32 < 32) (ha : isMsgReg a = false) :
    (attnRise before after p).reg a = after.reg a := by
  unfold attnRise
  extract_lets g
  split
  · split
    case h_1 f v hv => exact State.msix_reg _ v (State.attnVector_function hv ▸ hg) ha
    case h_2 => rfl
  · rfl

theorem State.event_reg {s : State} {p : Page} {bit : FieldRow} {a : Nat} (hg : p.attnGroup - 32 < 32) (ha : isMsgReg a = false)
    (hne : a ≠ fieldAddr p bit 0) : (s.event p bit).reg a = s.reg a :=
  (attnRise_reg hg ha).trans (State.reg_setFld_other _ _ _ _ _ hne)

/-- An event of a page leaves the other fields of the page. -/
theorem State.event_fld {s : State} {p q : Page} {bit f : FieldRow} {i : Nat} (hg : p.attnGroup - 32 < 32)
    (ha : isMsgReg (fieldAddr q f i) = false) (hne : fieldAddr q f i ≠ fieldAddr p bit 0) :
    (s.event p bit).fld q f i = s.fld q f i :=
  congrArg (getField · f.hi f.lo) (State.event_reg hg ha hne)

/-- An event sets its bit of EVT_RAW. -/
theorem State.event_bit {s : State} {p : Page} {bit : FieldRow} (hg : p.attnGroup - 32 < 32)
    (ha : isMsgReg (fieldAddr p bit 0) = false) (hbit : bit.hi = bit.lo) (hlo : bit.lo < 32) : (s.event p bit).fld p bit = 1 := by
  have hset := State.fld_setFld s p bit 1 0 (by omega) (by omega)
  rw [hbit] at hset
  rw [State.fld, State.event, attnRise_reg hg ha]
  simpa [State.fld, hbit] using hset

theorem noteStates_reg {before after : State} {a : Nat} (ha : isMsgReg a = false) (hne : a ≠ 0x7018) :
    (noteStates before after).reg a = after.reg a := by
  unfold noteStates
  split
  · exact State.event_reg (by decide) ha hne
  · rfl

theorem State.passTo_reg (s : State) (n : Nat) {a : Nat} (ha : isMsgReg a = false) (hne : a ≠ 0x7018) :
    (s.passTo n).reg a = s.reg a := noteStates_reg ha hne

theorem State.advanceTo_reg (s : State) (n : Nat) {a : Nat} (ha : isMsgReg a = false) (hne : a ≠ 0x7018) :
    (s.advanceTo n).reg a = s.reg a := s.passTo_reg _ ha hne

theorem State.alert_reg (s : State) (bit : FieldRow) {a : Nat} (hne : a ≠ fieldAddr (sqPage .watchman) bit 0) :
    (s.alert bit).reg a = s.reg a := by
  unfold State.alert
  split
  · rfl
  · rw [State.reg, State.withOut_regs]
    exact State.reg_setFld_other _ _ _ _ _ hne

/-! ### The machine as a whole -/

/-- Settles O5: no command but the island rail's loss touches the records that were given their numbers. -/
theorem everyCommandKeepsTheMonotone : Obligations.EveryCommandKeepsTheMonotone := by
  intro c s t he
  by_cases hc : c = .islandRailLoss
  · subst hc
    rw [if_pos rfl]
    exact execIslandRailLoss_keeps he
  · rw [if_neg hc]
    exact exec_keepsOut hc s t he

/-- Settles O1: a step is the command at the queue's front. -/
theorem stepRunsFrontCommand : Obligations.StepRunsFrontCommand := by
  intro c rest s h
  rw [step, h]

/-- A step with no command waiting passes one nanosecond. -/
theorem step_of_empty {s : State} (h : s.pending = []) : step s = .next (s.passTo (s.now + 1)) := by
  rw [step, h]

theorem noteStates_of_kept {before after : State} (h : ∀ d, d < 8 → after.dieState d = before.dieState d) :
    noteStates before after = after := by
  have hnone : ((numsFrom 0 8).any fun d => before.dieState d != after.dieState d) = false := by
    refine List.any_eq_false.mpr fun d hd => ?_
    have hd8 : d < 8 := by
      have := mem_numsFrom.mp hd
      omega
    simp [h d hd8]
  rw [noteStates, hnone]
  rfl

/-- Settles O2: the clock moves on by one, and a change of a die's state is all that can be reported. -/
theorem emptyQueueIdles : Obligations.EmptyQueueIdles := by
  intro s h
  have hmax : max s.now (s.now + 1) = s.now + 1 := Nat.max_eq_right (Nat.le_succ _)
  refine ⟨_, step_of_empty h, ?_, State.passTo_same (.refl _ s) (by decide), fun hkept => ?_⟩
  · have hnote : State.SameBut [.regs, .out] (s.withNow (max s.now (s.now + 1))) (s.passTo (s.now + 1)) :=
      noteStates_same (.refl _ _) (by decide)
    rw [hnote.now (by decide)]
    exact hmax
  · rw [State.passTo, hmax]
    exact noteStates_of_kept hkept

end Sys2Proof.Machine

namespace Sys2Proof.Machine

/-! ### Writes that have no effect, and the guard (R407, R417, R421) -/

theorem pageWrite_of_ignored {s : State} {w : BusWr} (ho : ownerAllows (s.ownerOf w.p) w.m = false)
    (hw : ¬ (w.p.type ≠ .ring ∧ w.x = 0x008 ∧ w.m = .watchman)) : s.pageWrite w = s.deny w.m := by
  have hown : (w.p.type != .ring && w.x == 0x008 && w.m == .watchman) = false := by
    simpa [← Bool.not_eq_true, and_assoc] using hw
  rw [State.pageWrite, hown, ho]
  rfl

theorem busWrite_of_heard {s : State} {m : Master} {a raw : Nat} {p : Page} (v : Word) (hr : resolve m a = some (p, raw))
    (hh : s.hears m p raw = true) : s.busWrite m a v = s.pageWrite (landed m p raw v) := by
  simp only [State.hears, Bool.and_eq_true] at hh
  obtain ⟨⟨hreach, hwrite⟩, hserved⟩ := hh
  simp [State.busWrite, hr, hreach, hwrite, hserved, landed]

theorem busWrite_of_unheard {s : State} {m : Master} {a : Nat} (v : Word)
    (h : ∀ p raw, resolve m a = some (p, raw) → s.hears m p raw = false) : s.busWrite m a v = s := by
  unfold State.busWrite
  split
  case h_1 => rfl
  case h_2 p raw hr =>
    refine if_pos ?_
    have := h p raw hr
    simp only [State.hears, Bool.and_eq_false_iff] at this
    simpa [or_assoc] using this

/-- Settles O8: the bus drops what no page hears, and a page counts what its owner refuses. -/
theorem refusedWritesHaveNoEffect : Obligations.RefusedWritesHaveNoEffect := by
  refine ⟨fun c m a raw v p s hc hr hh ho hw => ?ignored, fun c m a v s => ⟨fun hc h => ?unheard, fun size hbad => ?unaligned⟩⟩
  case ignored => rw [exec_of_busOf s hc, busWrite_of_heard v hr hh, pageWrite_of_ignored ho hw]; rfl
  case unheard => rw [exec_of_busOf s hc, busWrite_of_unheard v h]
  case unaligned =>
    show Host.Outcome.next (s.writeCmd m a v size) = _
    unfold State.writeCmd
    rw [if_pos (by simpa using hbad)]

/-- A write of a ring's base or control word leaves the guards. -/
theorem exec_ring_guards {c : Instr} {m : Master} {a raw : Nat} {v : Word} {f r : Nat} {s t : State} (hc : busOf c = some (m, a, v))
    (hr : resolve m a = some (ringPage f r, raw)) (ha : s.accepts m (ringPage f r) raw = true)
    (hp : (landed m (ringPage f r) raw v).plain = true) (hx : raw ≠ 0x14 ∧ raw ≠ 0x24) (he : exec c s = .next t) :
    t.guards = s.guards := by
  have hview : (landed m (ringPage f r) raw v).x = raw := rfl
  have hring (u : State) (n : Nat) : u.unitAct s (landed m (ringPage f r) raw v) false n = u.ringChanged s f r := by
    unfold State.unitAct
    rw [hview]
    split <;> simp_all [landed, ringPage]
  rw [registerWritesTakeEffect c m a raw v (ringPage f r) s hc hr ha, if_pos (show (ringPage f r).type = .ring from rfl), BusWr.applyWrite_of_plain hp,
    State.squareAct_dies (.inr (.inr rfl)), hring] at he
  cases he
  have hsame : State.SameBut [.regs, .loader, .ringLost] s ((BusWr.written (landed m (ringPage f r) raw v) s false).ringChanged s f r) :=
    State.ringChanged_same ((BusWr.written_same _ s false).mono (by decide)) (by decide)
  exact hsame.guards (by decide)

/-- Refutes O11: the page number 0x4080 names the doorbell registers of ring 0, which have no guard (R433), so a word with the key
arms none there. -/
theorem not_guardsAndOwnersAct : ¬ Obligations.GuardsAndOwnersAct := by
  intro h
  let s : State := State.reset.withBoard { State.reset.board with link := true }
  have hr : resolve (.host 0) (0x4080 * 0x1000 + 0x00C) = some (ringPage 0 0, 0x00C) := by decide
  have ha : s.accepts (.host 0) (ringPage 0 0) 0x00C = true := by decide
  obtain ⟨t, hexec, -, harmed, -⟩ := h.1 (.host 0) 0x4080 0x5E000000#32 (ringPage 0 0) s hr ha
  have hguards : t.guards = [] := exec_ring_guards rfl hr ha (by decide) (by decide) hexec
  rw [hguards] at harmed
  exact absurd harmed (by decide)

end Sys2Proof.Machine

namespace Sys2Proof.Machine

/-! ### Writes of the Square die's pages (R417, R432) -/

/-- The page number of a page of the Square range; none for the HOST pages, which lie in their window. -/
def PageType.squareNumber : PageType → Option Nat
  | .squareCtrl => some 1 | .watchman => some 3 | .meridian => some 4 | .almanac => some 5 | .cue => some 6 | .power => some 7
  | .fault => some 8 | .loader => some 9 | .ferryPkg => some 10 | _ => none

/-- Every master finds a page of the Square range at its offsets. -/
theorem resolve_square (m : Master) {t : PageType} {n x : Nat} (hn : t.squareNumber = some n) (hx : x < 0x1000) :
    resolve m ((sqPage t).reg x) = some (sqPage t, x) := by
  have hpage : (sqPage t).base = n * 0x1000 ∧ squarePageAt n = some (sqPage t) ∧ n ≠ 2 ∧ n < 16 := by
    cases t <;> simp_all [PageType.squareNumber] <;> subst hn <;> decide
  obtain ⟨hbase, hat, hown, hlow⟩ := hpage
  have ha : (sqPage t).reg x = n * 0x1000 + x := by rw [Page.reg, hbase]
  have hnum : (n * 0x1000 + x) / 0x1000 = n := by omega
  have hoff : (n * 0x1000 + x) % 0x1000 = x := by omega
  have hfound : pageAt (n * 0x1000 + x) = some (sqPage t, x) := by
    rw [pageAt, if_pos (by omega), hnum, hoff, hat]
    rfl
  rw [ha]
  cases m with
  | watchman => rw [resolve, hnum, if_neg hown, if_pos (by omega), hfound]
  | host f =>
    have hwindow : ¬ 0x20000 ≤ n * 0x1000 + x := by omega
    simp only [resolve, hnum, hwindow]
    rw [if_neg hown, if_pos (by omega), if_neg (by simp), hfound]

/-- What a plain write of a page of the Square range leaves: its word stored, then its action. The guard is used up. -/
theorem exec_of_square {c : Instr} {m : Master} {t : PageType} {n raw : Nat} {v : Word} {s : State}
    (hc : busOf c = some (m, (sqPage t).reg raw, v)) (hn : t.squareNumber = some n) (hx : raw < 0x1000)
    (ha : s.accepts m (sqPage t) raw = true) (hp : (landed m (sqPage t) raw v).plain = true) :
    let w := landed m (sqPage t) raw v
    ∃ u, State.SameBut [.guards] s u ∧ exec c s = .next (((w.written u (s.guardMatches w)).squareAct w (s.guardMatches w)
      (w.word u (s.guardMatches w)).toNat).unitAct u w (s.guardMatches w) (w.word u (s.guardMatches w)).toNat) := by
  intro w
  obtain ⟨u, armed, hu, harmed, hexec⟩ := exec_of_plain hc (resolve_square m hn hx) ha hp
  have hring : (sqPage t).type ≠ .ring := by
    intro h
    have ht : t = .ring := h
    rw [ht] at hn
    cases hn
  rw [harmed hring] at hexec
  exact ⟨u, hu, hexec⟩

/-! ### SQ_SCRATCH and FAULT_CODE (R420, R427) -/

namespace BusWr

variable {w : BusWr} {s : State} {armed : Bool}

/-- A write outside the Cue pages and the common registers that events, captured faults or snapshots act on is plain, where it
finds fields and none of them is the Watchman's alone. -/
theorem plain_of_fields {f : FieldRow} {fs : List FieldRow} (hcue : w.p.type ≠ .cue) (hf : w.p.type.fieldsAt w.x = f :: fs)
    (hfree : (f :: fs).any (watchmanOnly w.p) = false) (hx : [0x014, 0x018, 0x01C, 0x024, 0x030].contains w.x = false) : w.plain = true := by
  have hne : (w.p.type != .cue) = true := bne_iff_ne.mpr hcue
  simp only [plain, hne, hf, hfree, hx]
  simp

/-- A write of an ordinary field that it may store gives the field the value written, in its view. -/
theorem field_ordinary_viewed {f : FieldRow} {old v : Nat} (hpage : w.p.type.mayKeep = false) (hstore : w.MayStore armed f)
    (hf : f.ordinary = true) (ho : old < 2 ^ (f.hi + 1 - f.lo)) (hv : v < 2 ^ (f.hi + 1 - f.lo)) :
    w.field s armed f old v = viewed w.view old v := by
  simp only [PageType.mayKeep, Bool.or_eq_false_iff, beq_eq_false_iff_ne] at hpage
  obtain ⟨⟨hmer, hloader⟩, hferry⟩ := hpage
  have hnew : viewed w.view old v < 2 ^ (f.hi + 1 - f.lo) := viewed_lt ho hv
  simp only [FieldRow.ordinary, Bool.and_eq_true, beq_iff_eq, Bool.not_eq_true', List.contains_cons, Bool.or_eq_false_iff] at hf
  obtain ⟨⟨hlo, hhi⟩, hdma, hring, hfaultV, hmargin, hpool, hreserve, halm, hfence, -⟩ := hf
  have hkept : w.merKept s armed = false := by simp [merKept, hmer]
  have hlegal : legalCode w.p f (viewed w.view old v) = true := by
    have : viewed w.view old v ≤ f.legalHi := by omega
    simp [legalCode, hlo, this, bne, hdma, hring, hfaultV, hmargin, hpool]
  have hstate : s.fieldKept w.p f = false := by simp [State.fieldKept, hreserve, halm, hpool, hferry]
  have hmaster : watchmanOnly w.p f = false := by simp [watchmanOnly, hfence, hloader]
  rw [field_mayStore hkept hstore, takes_of_stores ⟨hlegal, hstate, .inr hmaster⟩]

end BusWr

/-- A word is the value of all its bits. -/
theorem getField_full (w : Word) : getField w 31 0 = w.toNat := by
  rw [getField, bitsOf]
  have := w.isLt
  omega

/-- What a view makes of a whole register. -/
def viewedWord : View → Word → Word → Word
  | .direct, _, v => v
  | .set, old, v => old ||| v
  | .clear, old, v => old &&& ~~~v

theorem toNat_viewedWord (view : View) (old v : Word) : (viewedWord view old v).toNat = viewed view old.toNat v.toNat := by
  cases view with
  | direct => rfl
  | set => exact BitVec.toNat_or ..
  | clear =>
    have hclear : old &&& ~~~v = old &&& (old ^^^ v) := by
      ext i
      simp only [BitVec.getElem_and, BitVec.getElem_not, BitVec.getElem_xor]
      cases old[i] <;> simp
    show (old &&& ~~~v).toNat = old.toNat &&& (old.toNat ^^^ v.toNat)
    rw [hclear, BitVec.toNat_and, BitVec.toNat_xor]

theorem fieldsAt_sqScratch : ∀ i < 4, PageType.squareCtrl.fieldsAt (0x060 + 4 * i) = [sqScratch_data] := by decide

/-- On page SQUARE_CTRL a write of SQ_SNAP_ALL alone acts. -/
theorem State.squareAct_squareCtrl (s : State) {w : BusWr} (hp : w.p.type = .squareCtrl) (hx : w.x ≠ 0x05C) (armed : Bool) (c : Nat) :
    s.squareAct w armed c = s := by
  unfold State.squareAct
  split <;> simp_all

theorem State.unitAct_squareCtrl (s b : State) {w : BusWr} (hp : w.p.type = .squareCtrl) (armed : Bool) (c : Nat) :
    s.unitAct b w armed c = s := by
  simp only [State.unitAct, hp]

/-- A write of SQ_SCRATCH, in any view, leaves what its view makes of the word. -/
theorem exec_of_sqScratch {c : Instr} {m : Master} {view : View} {raw i : Nat} {v : Word} {s : State} (hi : i < 4)
    (hc : busOf c = some (m, (sqPage .squareCtrl).reg raw, v)) (hraw : raw < 0x1000)
    (hview : viewAt (sqPage .squareCtrl) raw = (view, 0x060 + 4 * i)) (ha : s.accepts m (sqPage .squareCtrl) raw = true) :
    let x := (sqPage .squareCtrl).reg (0x060 + 4 * i)
    ∃ t, exec c s = .next t ∧ t.reg x = viewedWord view (s.reg x) v ∧ HeardBut x s t := by
  intro x
  let w := landed m (sqPage .squareCtrl) raw v
  have hw : w = ⟨m, sqPage .squareCtrl, raw, view, 0x060 + 4 * i, v⟩ := by simp only [w, landed, hview]
  have hx : w.x = 0x060 + 4 * i := by rw [hw]
  have htype : w.p.type = .squareCtrl := rfl
  have hfields : w.p.type.fieldsAt w.x = [sqScratch_data] := by rw [hx]; exact fieldsAt_sqScratch i hi
  have hplain : w.plain = true := by
    refine BusWr.plain_of_fields (by rw [htype]; decide) hfields rfl ?_
    rw [hx]
    have : ∀ i < 4, [0x014, 0x018, 0x01C, 0x024, 0x030].contains (0x060 + 4 * i) = false := by decide
    exact this i hi
  obtain ⟨u, hu, hexec⟩ := exec_of_square hc rfl hraw ha hplain
  rw [State.squareAct_squareCtrl _ htype (by omega), State.unitAct_squareCtrl _ _ htype] at hexec
  have hkept : sqScratch_data ∈ w.kept := List.mem_filter.mpr ⟨by rw [hfields]; exact List.mem_singleton.mpr rfl, by rw [htype]; simp; rfl⟩
  have haddr : w.p.reg w.x = x := by rw [hx]; rfl
  refine ⟨_, hexec, BitVec.eq_of_toNat_eq ?_, (hu.mono (by decide)).trans ((w.written_same u _).mono (by decide)), fun y hy => ?_⟩
  · have hword := BusWr.getField_written (w := w) (s := u) (armed := s.guardMatches w) hkept
    rw [BusWr.field_ordinary_viewed (by rw [htype]; rfl) (.inl rfl) rfl (getField_lt _ _ _) (getField_lt _ _ _), haddr] at hword
    have hv : w.v = v := rfl
    have hviewed : w.view = view := by rw [hw]
    rw [toNat_viewedWord, ← getField_full, ← getField_full (s.reg x), ← getField_full v, ← hu.reg (by decide) x]
    rw [hv, hviewed] at hword
    exact hword
  · exact (w.reg_written_other u _ (by rw [haddr]; exact hy)).trans (hu.reg (by decide) y)

/-- But for the HOST and the Cue pages a page accepts writes alike at all its offsets. -/
theorem State.accepts_raw (s : State) (m : Master) {p : Page} (x y : Nat) (hhost : p.type ≠ .host) (hcue : p.type ≠ .cue) :
    s.accepts m p x = s.accepts m p y := by
  have hw (z : Nat) : writable m p z = writable m p 0 := by
    unfold writable
    split
    · split <;> simp_all
    · rfl
  simp only [State.accepts, State.hears, hw]

namespace BusWr

variable {w : BusWr} {s : State} {armed : Bool}

/-- A write of FAULT_CODE or of SNAP_CTRL is stored, and its page acts on it. -/
theorem applyWrite_of_common (hring : w.p.type ≠ .ring) (hx : w.x = 0x024 ∨ w.x = 0x030) (hf : (w.p.type.fieldsAt w.x).isEmpty = false)
    (hfree : (w.p.type.fieldsAt w.x).any (watchmanOnly w.p) = false) : s.applyWrite w armed = (w.written s armed).commonAct w := by
  have hlow : decide (0x040 ≤ w.x) = false := by
    rcases hx with hx | hx <;> rw [hx] <;> rfl
  have hattn : [0x014, 0x018, 0x01C].contains w.x = false := by
    rcases hx with hx | hx <;> rw [hx] <;> rfl
  have hsquare (u : State) (c : Nat) : u.squareAct w armed c = u := by
    unfold State.squareAct
    split <;> simp_all
  have hunit (u : State) (c : Nat) : u.unitAct s w armed c = u := by
    have hdma : ¬ 0x100 ≤ w.x := by omega
    unfold State.unitAct
    split <;> simp_all
  unfold State.applyWrite
  simp only [hfree, hf, hlow, hattn, hsquare, hunit, Bool.and_false, Bool.or_false, Bool.false_eq_true, if_false, if_neg hring]
  rfl

end BusWr

/-- A write of FAULT_CODE or of SNAP_CTRL by an owner. -/
theorem exec_of_common {c : Instr} {m : Master} {a raw : Nat} {v : Word} {p : Page} {s : State} (hc : busOf c = some (m, a, v))
    (hr : resolve m a = some (p, raw)) (ha : s.accepts m p raw = true) (hring : p.type ≠ .ring) (hx : raw = 0x024 ∨ raw = 0x030)
    (hf : (p.type.fieldsAt raw).isEmpty = false) (hfree : (p.type.fieldsAt raw).any (watchmanOnly p) = false) :
    let w : BusWr := ⟨m, p, raw, .direct, raw, v⟩
    ∃ u armed, State.SameBut [.guards] s u ∧ exec c s = .next ((w.written u armed).commonAct w) := by
  intro w
  have hw : landed m p raw v = w := landed_low m p (by omega) v
  rw [registerWritesTakeEffect c m a raw v p s hc hr ha, if_neg hring, hw, BusWr.applyWrite_of_common hring hx hf hfree]
  exact ⟨_, _, State.withGuards_same (.refl _ s) (List.Subset.refl _), rfl⟩

/-- No field of FAULT_CODE and SNAP_CTRL is the Watchman's alone. -/
theorem PageType.common_free (t : PageType) : ∀ x ∈ [0x024, 0x030], ∀ p : Page, (t.fieldsAt x).any (watchmanOnly p) = false := by
  have hrows : ([0x024, 0x030].all fun x => (t.fieldsAt x).all fun f => f != faultFence_fenced && decide (f.off < 0xC00)) = true := by
    cases t <;> decide
  intro x hx p
  have hx := List.all_eq_true.mp hrows x hx
  refine List.any_eq_false.mpr fun f hf => ?_
  have := List.all_eq_true.mp hx f hf
  simp only [Bool.and_eq_true, bne_iff_ne, decide_eq_true_eq] at this
  obtain ⟨hfence, hoff⟩ := this
  simp [watchmanOnly, hfence, hoff]

/-- FAULT_CODE has fields on every page that captures faults. -/
theorem PageType.faultCode_fields (t : PageType) : t.hasFault = true → t ≠ .ring ∧ (t.fieldsAt 0x024).isEmpty = false := by
  cases t <;> decide

/-- Settles O10: SQ_SCRATCH takes what a view makes of the word, and FAULT_CODE.valid clears the capture. -/
theorem viewsAndFaultCodeAct : Obligations.ViewsAndFaultCodeAct := by
  refine ⟨fun m i v s hi ha => ?scratch, fun m n p s hr ha hfault => ?faultCode⟩
  case scratch =>
    intro x
    have hx : x = 0x1060 + 4 * i := by
      show 0x1000 + (0x060 + 4 * i) = _
      omega
    have haccepts (raw : Nat) : s.accepts m (sqPage .squareCtrl) raw = true :=
      (s.accepts_raw m raw 0x060 (by decide) (by decide)).trans ha
    refine ⟨?direct, ?set, ?clear⟩
    case direct =>
      have hbus : busOf (.registerWrite m ⟨x, 4⟩ v) = some (m, x, v) := if_pos ⟨by omega, rfl, by omega⟩
      exact exec_of_sqScratch hi hbus (by omega) (viewAt_low _ (by omega)) (haccepts _)
    case set =>
      have hbus : busOf (.setViewWrite m (x + 0x400) v) = some (m, (sqPage .squareCtrl).reg (0x460 + 4 * i), v) := by
        have he : x + 0x400 = (sqPage .squareCtrl).reg (0x460 + 4 * i) := by
          show x + 0x400 = 0x1000 + (0x460 + 4 * i)
          omega
        rw [← he]
        exact if_pos ⟨by omega, by omega, by omega⟩
      have hview : viewAt (sqPage .squareCtrl) (0x460 + 4 * i) = (.set, 0x060 + 4 * i) := by
        have : ∀ i < 4, viewAt (sqPage .squareCtrl) (0x460 + 4 * i) = (.set, 0x060 + 4 * i) := by decide
        exact this i hi
      exact exec_of_sqScratch hi hbus (by omega) hview (haccepts _)
    case clear =>
      have hbus : busOf (.clearViewWrite m (x + 0x800) v) = some (m, (sqPage .squareCtrl).reg (0x860 + 4 * i), v) := by
        have he : x + 0x800 = (sqPage .squareCtrl).reg (0x860 + 4 * i) := by
          show x + 0x800 = 0x1000 + (0x860 + 4 * i)
          omega
        rw [← he]
        exact if_pos ⟨by omega, by omega, by omega⟩
      have hview : viewAt (sqPage .squareCtrl) (0x860 + 4 * i) = (.clear, 0x060 + 4 * i) := by
        have : ∀ i < 4, viewAt (sqPage .squareCtrl) (0x860 + 4 * i) = (.clear, 0x060 + 4 * i) := by decide
        exact this i hi
      exact exec_of_sqScratch hi hbus (by omega) hview (haccepts _)
  case faultCode =>
    obtain ⟨hring, hfields⟩ := p.type.faultCode_fields hfault
    obtain ⟨u, armed, hu, hexec⟩ := exec_of_common (c := .faultCodeClear m n) (v := 0x80000000#32) rfl hr ha hring (.inl rfl) hfields
      (p.type.common_free 0x024 (by decide) p)
    let w : BusWr := ⟨m, p, 0x024, .direct, 0x024, 0x80000000#32⟩
    have hact (y : State) : y.commonAct w = (y.setReg (p.reg 0x024) 0).setReg (p.reg 0x028) 0 :=
      if_pos (show (p.type.hasFault && View.direct != .set && bitOf (0x80000000#32).toNat 31) = true by rw [hfault]; decide)
    rw [hact] at hexec
    have hapart : p.reg 0x024 ≠ p.reg 0x028 := by simp [Page.reg]
    refine ⟨_, hexec, ?_, State.reg_setReg_same .., ?_, fun x hcode hinfo => ?_⟩
    · rw [State.reg_setReg_other _ _ hapart, State.reg_setReg_same]
    · exact (hu.mono (by decide)).trans (State.setReg_same (State.setReg_same ((w.written_same u armed).mono (by decide)) (by decide)) (by decide))
    · rw [State.reg_setReg_other _ _ hinfo, State.reg_setReg_other _ _ hcode, w.reg_written_other u armed hcode, hu.reg (by decide)]

end Sys2Proof.Machine

namespace Sys2Proof.Machine

/-! ### Snapshots (R428, R435) -/

theorem SMap.get_set_other {α : Type} [DecidableEq α] (d : α) (m : SMap α) {k j : Nat} (v : α) (h : j ≠ k) :
    SMap.get d (SMap.set d k v m) j = SMap.get d m j := SMap.getF_setF_other _ m v h

/-- The counters of a page lie past its common registers. -/
theorem PageType.counters_off (t : PageType) : ∀ x ∈ t.counters, 0x040 ≤ x ∧ x < 0x400 ∧ x ≠ 0x04C := by
  cases t <;> decide

theorem State.reg_foldl_zero (p : Page) (a : Nat) (xs : List Nat) (s : State) :
    (xs.foldl (fun s x => s.setReg (p.reg x) 0) s).reg a = if ∃ x ∈ xs, a = p.reg x then 0 else s.reg a := by
  induction xs generalizing s with
  | nil => simp
  | cons x xs ih =>
    rw [List.foldl_cons, ih, State.reg_setReg]
    by_cases h : a = p.reg x <;> simp [h]

theorem SMap.get_foldl_set (p : Page) (g : Nat → Word) (a : Nat) (xs : List Nat) (m : SMap Word) :
    SMap.get 0 (xs.foldl (fun m x => SMap.set 0 (p.reg x) (g (p.reg x)) m) m) a = if ∃ x ∈ xs, a = p.reg x then g a else SMap.get 0 m a := by
  induction xs generalizing m with
  | nil => simp
  | cons x xs ih =>
    rw [List.foldl_cons, ih]
    by_cases h : a = p.reg x
    · simp [h]
    · simp [h, SMap.get_set_other]

/-- The registers of a page that a snapshot writes. -/
def Page.snapRegs (p : Page) : List Nat := [p.reg 0x034, p.reg 0x038, p.reg 0x03C]

/-- t is s after a snapshot of page p at a transit. -/
structure State.Snapped (s : State) (p : Page) (clear : Bool) (at_ : Nat) (t : State) : Prop where
  count : t.reg (p.reg 0x034) = s.reg (p.reg 0x034) + 1
  low : t.reg (p.reg 0x038) = BitVec.ofNat 32 at_
  high : t.reg (p.reg 0x03C) = BitVec.ofNat 32 (at_ / 2 ^ 32)
  taken : ∀ x ∈ p.type.counters, SMap.get 0 t.snaps (p.reg x) = s.reg (p.reg x)
  left_ : ∀ x ∈ p.type.counters, t.reg (p.reg x) = if clear then 0 else s.reg (p.reg x)

section SnapPage

variable (s : State) (p : Page) (clear : Bool) (at_ : Nat)

theorem State.snapPage_snaps (a : Nat) : SMap.get 0 (s.snapPage p clear at_).snaps a
    = if ∃ x ∈ p.type.counters, a = p.reg x then s.reg a else SMap.get 0 s.snaps a := by
  have hset (u : State) (y : Nat) (w : Word) : (u.setReg y w).snaps = u.snaps := State.withRegs_snaps u _
  have hclear (xs : List Nat) (u : State) : (xs.foldl (fun s x => s.setReg (p.reg x) 0) u).snaps = u.snaps := by
    induction xs generalizing u with
    | nil => rfl
    | cons x xs ih => rw [List.foldl_cons, ih, hset]
  unfold State.snapPage
  dsimp only
  rw [hset, hset, hset]
  split
  · rw [hclear, State.withSnaps_snaps, SMap.get_foldl_set p s.reg]
  · rw [State.withSnaps_snaps, SMap.get_foldl_set p s.reg]

/-- The registers before the snapshot's own count and transit are written. -/
theorem State.snapPage_reg (a : Nat) : (s.snapPage p clear at_).reg a =
    if a = p.reg 0x03C then BitVec.ofNat 32 (at_ / 2 ^ 32) else if a = p.reg 0x038 then BitVec.ofNat 32 at_
    else if a = p.reg 0x034 then s.reg (p.reg 0x034) + 1
    else if clear = true ∧ ∃ x ∈ p.type.counters, a = p.reg x then 0 else s.reg a := by
  have hcount : ¬ ∃ x ∈ p.type.counters, p.reg 0x034 = p.reg x := by
    rintro ⟨x, hx, h⟩
    have := p.type.counters_off x hx
    simp only [Page.reg] at h
    omega
  have hsnaps (y : Nat) (m : SMap Word) : (s.withSnaps m).reg y = s.reg y := rfl
  unfold State.snapPage
  dsimp only
  rw [State.reg_setReg, State.reg_setReg, State.reg_setReg]
  cases clear with
  | true => simp only [if_true, true_and, State.reg_foldl_zero, hcount, if_false, hsnaps]
  | false => simp only [Bool.false_eq_true, if_false, false_and, hsnaps]

theorem State.snapPage_snapped : s.Snapped p clear at_ (s.snapPage p clear at_) := by
  have hoff (x : Nat) (hx : x ∈ p.type.counters) : p.reg x ≠ p.reg 0x03C ∧ p.reg x ≠ p.reg 0x038 ∧ p.reg x ≠ p.reg 0x034 := by
    have := p.type.counters_off x hx
    simp only [Page.reg]
    omega
  have h34 : p.reg 0x034 ≠ p.reg 0x03C ∧ p.reg 0x034 ≠ p.reg 0x038 ∧ p.reg 0x038 ≠ p.reg 0x03C := by
    simp only [Page.reg]
    omega
  obtain ⟨h1, h2, h3⟩ := h34
  refine ⟨?_, ?_, ?_, fun x hx => ?_, fun x hx => ?_⟩
  · rw [State.snapPage_reg, if_neg h1, if_neg h2, if_pos rfl]
  · rw [State.snapPage_reg, if_neg h3, if_pos rfl]
  · rw [State.snapPage_reg, if_pos rfl]
  · rw [State.snapPage_snaps, if_pos ⟨x, hx, rfl⟩]
  · obtain ⟨hc, hb, ha⟩ := hoff x hx
    rw [State.snapPage_reg, if_neg hc, if_neg hb, if_neg ha]
    cases clear with
    | true => exact if_pos ⟨rfl, x, hx, rfl⟩
    | false => exact if_neg (by simp)

end SnapPage

/-! ### Where the pages with counters lie (R432) -/

theorem squareCounterPages_apart :
    ([sqPage .watchman, sqPage .almanac, sqPage .cue, sqPage .power, sqPage .fault, sqPage .loader, sqPage .ferryPkg]
      ++ (numsFrom 0 32).map hostPage).Pairwise (fun p q => p.base ≠ q.base)
    ∧ ∀ p ∈ [sqPage .watchman, sqPage .almanac, sqPage .cue, sqPage .power, sqPage .fault, sqPage .loader, sqPage .ferryPkg]
      ++ (numsFrom 0 32).map hostPage, p.base < 0x1000000 ∧ p.base % 0x1000 = 0 := by
  decide +kernel

theorem dieCounterPages_apart : ∀ d < 8, (dieCounterPages d).Pairwise (fun p q => p.base ≠ q.base)
    ∧ ∀ p ∈ dieCounterPages d, p.base / 0x400000 = 4 + d ∧ p.base % 0x1000 = 0 := by
  decide +kernel

theorem stackCounterPages_apart :
    (((numsFrom 0 16).map fun k => [stackPage .granary k, stackPage .hbm k]).flatten).Pairwise (fun p q => p.base ≠ q.base)
    ∧ ∀ p ∈ ((numsFrom 0 16).map fun k => [stackPage .granary k, stackPage .hbm k]).flatten, 0x3000000 ≤ p.base ∧ p.base % 0x1000 = 0 := by
  decide +kernel

theorem dies_apart : (((numsFrom 0 8).map dieCounterPages).flatten).Pairwise (fun p q => p.base ≠ q.base) := by
  refine List.pairwise_flatten.mpr ⟨fun l hl => ?_, List.pairwise_map.mpr ?_⟩
  · obtain ⟨d, hd, rfl⟩ := List.mem_map.mp hl
    exact (dieCounterPages_apart d (by have := mem_numsFrom.mp hd; omega)).1
  · have hlt : (numsFrom 0 8).Pairwise (· < ·) := by decide
    refine (List.Pairwise.and_mem.mp hlt).imp fun {c d} h => ?_
    obtain ⟨hc, hd, hcd⟩ := h
    intro p hp q hq
    have hp := (dieCounterPages_apart c (by have := mem_numsFrom.mp hc; omega)).2 p hp
    have hq := (dieCounterPages_apart d (by have := mem_numsFrom.mp hd; omega)).2 q hq
    omega

theorem dies_range (p : Page) (hp : p ∈ ((numsFrom 0 8).map dieCounterPages).flatten) :
    0x1000000 ≤ p.base ∧ p.base < 0x3000000 ∧ p.base % 0x1000 = 0 := by
  obtain ⟨l, hl, hp⟩ := List.mem_flatten.mp hp
  obtain ⟨d, hd, rfl⟩ := List.mem_map.mp hl
  have hd8 : d < 8 := by have := mem_numsFrom.mp hd; omega
  have := (dieCounterPages_apart d hd8).2 p hp
  omega

theorem counterPages_apart : counterPages.Pairwise fun p q => p.base ≠ q.base := by
  obtain ⟨hsquare, hsquares⟩ := squareCounterPages_apart
  obtain ⟨hstack, hstacks⟩ := stackCounterPages_apart
  refine List.pairwise_append.mpr ⟨List.pairwise_append.mpr ⟨hsquare, dies_apart, fun p hp q hq => ?_⟩, hstack, fun p hp q hq => ?_⟩
  · have := hsquares p hp
    have := dies_range q hq
    omega
  · have := hstacks q hq
    rcases List.mem_append.mp hp with hp | hp
    · have := hsquares p hp
      omega
    · have := dies_range p hp
      omega

theorem counterPages_aligned : ∀ p ∈ counterPages, p.base % 0x1000 = 0 := by
  intro p hp
  rcases List.mem_append.mp hp with hp | hp
  · rcases List.mem_append.mp hp with hp | hp
    · exact (squareCounterPages_apart.2 p hp).2
    · exact (dies_range p hp).2.2
  · exact (stackCounterPages_apart.2 p hp).2

/-! ### A package snapshot -/

/-- A snapshot of a page leaves the registers outside the page, and FAULT_FENCE. -/
theorem State.snapPage_far (s : State) {p : Page} (clear : Bool) (at_ : Nat) (hp : p.base % 0x1000 = 0) {b x : Nat} (hb : b % 0x1000 = 0)
    (hx : x < 0x1000) (h : b ≠ p.base ∨ x = 0x04C) : (s.snapPage p clear at_).reg (b + x) = s.reg (b + x)
      ∧ SMap.get 0 (s.snapPage p clear at_).snaps (b + x) = SMap.get 0 s.snaps (b + x) := by
  have hne (y : Nat) (hy : y < 0x1000) (hy' : y ≠ 0x04C) : b + x ≠ p.reg y := by
    rw [Page.reg]
    omega
  have hcounter : ¬ ∃ y ∈ p.type.counters, b + x = p.reg y := by
    rintro ⟨y, hy, he⟩
    obtain ⟨-, hlt, h4C⟩ := p.type.counters_off y hy
    exact hne y (by omega) h4C he
  rw [State.snapPage_reg, if_neg (hne _ (by decide) (by decide)), if_neg (hne _ (by decide) (by decide)),
    if_neg (hne _ (by decide) (by decide)), if_neg (by simp [hcounter]), State.snapPage_snaps, if_neg hcounter]
  exact ⟨rfl, rfl⟩

/-- A page answers as before where the board, the fuses, the power states, the clock and FAULT_FENCE are the same. -/
theorem State.served_of_fence {w : List Part} {s t : State} (h : State.SameBut w s t) (hb : .board ∉ w) (hf : .fuses ∉ w) (hp : .power ∉ w)
    (hn : .now ∉ w) (hreg : t.reg 0x804C = s.reg 0x804C) (p : Page) : t.served p = s.served p := by
  have hfence (d : Nat) : t.fenced d = s.fenced d := by
    show bitOf (getField (t.reg 0x804C) 7 0) d = bitOf (getField (s.reg 0x804C) 7 0) d
    rw [hreg]
  have hlive (d : Nat) : t.dieLive d = s.dieLive d := by
    simp only [State.dieLive, State.inTwilight, State.resetting, hfence, h.power hp, h.now hn]
  simp only [State.served, State.up, State.loomOn, hlive, h.board hb, h.fuses hf]

/-- The registers and the counts taken of a page, where a state shares them with another. -/
def State.pageKept (s t : State) (p : Page) : Prop :=
  ∀ x, x < 0x1000 → t.reg (p.reg x) = s.reg (p.reg x) ∧ SMap.get 0 t.snaps (p.reg x) = SMap.get 0 s.snaps (p.reg x)

theorem State.pageKept.trans {s t u : State} {p : Page} (h : s.pageKept t p) (k : t.pageKept u p) : s.pageKept u p := fun x hx =>
  ⟨(k x hx).1.trans (h x hx).1, (k x hx).2.trans (h x hx).2⟩

theorem State.pageKept.refl (s : State) (p : Page) : s.pageKept s p := fun _ _ => ⟨rfl, rfl⟩

theorem State.Snapped.of_kept {s s' t t' : State} {p : Page} {clear : Bool} {at_ : Nat} (h : s'.Snapped p clear at_ t)
    (hs : s.pageKept s' p) (ht : t.pageKept t' p) : s.Snapped p clear at_ t' := by
  have hoff (x : Nat) (hx : x ∈ p.type.counters) : x < 0x1000 := by
    have := p.type.counters_off x hx
    omega
  refine ⟨?_, ?_, ?_, fun x hx => ?_, fun x hx => ?_⟩
  · rw [(ht _ (by decide)).1, h.count, (hs _ (by decide)).1]
  · rw [(ht _ (by decide)).1, h.low]
  · rw [(ht _ (by decide)).1, h.high]
  · rw [(ht x (hoff x hx)).2, h.taken x hx, (hs x (hoff x hx)).1]
  · rw [(ht x (hoff x hx)).1, h.left_ x hx, (hs x (hoff x hx)).1]

/-- The state after the snapshot of a page, where it answers. -/
def snapStep (clear : Bool) (at_ : Nat) (s : State) (p : Page) : State := if s.served p then s.snapPage p clear at_ else s

theorem snapStep_same (clear : Bool) (at_ : Nat) (s : State) (p : Page) : State.SameBut [.regs, .snaps] s (snapStep clear at_ s p) :=
  same_ite (State.snapPage_same (.refl _ s) (by decide)) (.refl _ s)

theorem snapStep_far (clear : Bool) (at_ : Nat) (s : State) {p : Page} (hp : p.base % 0x1000 = 0) {b x : Nat} (hb : b % 0x1000 = 0)
    (hx : x < 0x1000) (h : b ≠ p.base ∨ x = 0x04C) : (snapStep clear at_ s p).reg (b + x) = s.reg (b + x)
      ∧ SMap.get 0 (snapStep clear at_ s p).snaps (b + x) = SMap.get 0 s.snaps (b + x) := by
  unfold snapStep
  split
  · exact s.snapPage_far clear at_ hp hb hx h
  · exact ⟨rfl, rfl⟩

/-- Each page that answers takes its snapshot, once, and no other changes. -/
theorem snapSteps_snap (clear : Bool) (at_ : Nat) (ps : List Page) (s : State) (hapart : ps.Pairwise fun p q => p.base ≠ q.base)
    (haligned : ∀ p ∈ ps, p.base % 0x1000 = 0) :
    let t := ps.foldl (snapStep clear at_) s
    State.SameBut [.regs, .snaps] s t ∧ (∀ q : Page, q.base % 0x1000 = 0 → (∀ p ∈ ps, q.base ≠ p.base) → s.pageKept t q)
      ∧ ∀ p ∈ ps, if s.served p then s.Snapped p clear at_ t else s.pageKept t p := by
  induction ps generalizing s with
  | nil => exact ⟨.refl _ s, fun q _ _ x _ => ⟨rfl, rfl⟩, fun p hp => absurd hp (List.not_mem_nil)⟩
  | cons p ps ih =>
    obtain ⟨hfirst, hapart⟩ := List.pairwise_cons.mp hapart
    obtain ⟨hp, haligned⟩ := List.forall_mem_cons.mp haligned
    let u := snapStep clear at_ s p
    obtain ⟨hsame, hkept, hsnapped⟩ := ih u hapart haligned
    have hu : State.SameBut [.regs, .snaps] s u := snapStep_same clear at_ s p
    have hfar (q : Page) (hq : q.base % 0x1000 = 0) (hne : q.base ≠ p.base) : s.pageKept u q := fun x hx =>
      snapStep_far clear at_ s hp hq hx (.inl hne)
    have hserved (q : Page) : u.served q = s.served q :=
      State.served_of_fence hu (by decide) (by decide) (by decide) (by decide)
        (snapStep_far clear at_ s hp (b := 0x8000) (x := 0x04C) (by decide) (by decide) (.inr rfl)).1 q
    refine ⟨hu.trans hsame, fun q hq hne => ?_, fun q hq => ?_⟩
    · obtain ⟨hne, hrest⟩ := List.forall_mem_cons.mp hne
      exact (hfar q hq hne).trans (hkept q hq hrest)
    · rcases List.mem_cons.mp hq with rfl | hq
      · have hlast := hkept q hp fun r hr => hfirst r hr
        by_cases hs : s.served q = true
        · rw [if_pos hs]
          have he : u = s.snapPage q clear at_ := if_pos hs
          exact (he ▸ s.snapPage_snapped q clear at_ : s.Snapped q clear at_ u).of_kept (.refl s q) hlast
        · rw [if_neg hs]
          have he : u = s := if_neg hs
          exact (he ▸ State.pageKept.refl s q : s.pageKept u q).trans hlast
      · have hfarq := hfar q (haligned q hq) (hfirst q hq).symm
        have hsq := hsnapped q hq
        rw [hserved q] at hsq
        by_cases hs : s.served q = true
        · rw [if_pos hs] at hsq ⊢
          exact hsq.of_kept hfarq (.refl _ q)
        · rw [if_neg hs] at hsq ⊢
          exact hfarq.trans hsq

theorem State.snapAll_eq (s : State) (clear : Bool) : s.snapAll clear = counterPages.foldl (snapStep clear s.transit) s := rfl

/-- The transit is that of the Meridian's own state, the clock and the registers of the rate and the lines. -/
theorem State.transit_of_same {w : List Part} {s t : State} (h : State.SameBut w s t) (hm : .mer ∉ w) (hn : .now ∉ w)
    (hrate : t.reg 0x4048 = s.reg 0x4048) (hlines : t.reg 0x404C = s.reg 0x404C) : t.transit = s.transit := by
  have hN : t.videoN = s.videoN := congrArg (getField · 19 0) hrate
  have hD : t.videoD = s.videoD := congrArg (fun x => rateDen (getField x 20 20)) hrate
  have hL : t.videoL = s.videoL := congrArg (getField · 11 0) hlines
  have helapsed : t.merElapsed = s.merElapsed := by
    unfold State.merElapsed State.slewed
    rw [h.mer hm, h.now hn]
  unfold State.transit
  rw [hN, hD, hL, helapsed, h.mer hm]

/-- A page that is no ring begins at a multiple of 4 KiB. -/
theorem Page.base_aligned {p : Page} (h : p.type ≠ .ring) : p.base % 0x1000 = 0 := by
  obtain ⟨t, d, i, j⟩ := p
  cases t with
  | ring => exact absurd rfl h
  | _ => simp only [Page.base] <;> omega

/-- A direct write stores the fields of its register whose write is no action. -/
theorem BusWr.mem_kept {w : BusWr} {f : FieldRow} (hview : w.view = .direct) (hf : f ∈ w.p.type.fieldsAt w.x)
    (hact : actionField f = false) : f ∈ w.kept :=
  List.mem_filter.mpr ⟨hf, by rw [hview, hact]; rfl⟩

/-- A field of SNAP_CTRL or SQ_SNAP_ALL that is written without a guard takes the value written. -/
theorem BusWr.field_free {w : BusWr} {s : State} {armed : Bool} {f : FieldRow} {old v : Nat} (hview : w.view = .direct)
    (hoff : f.off = 0x030 ∨ f.off = 0x05C) (hmer : w.x ≠ 0x044) (hacc : f.acc = .rw) (hlo : f.legalLo = 0) (hhi : v ≤ f.legalHi) :
    w.field s armed f old v = v := by
  have hne (g : FieldRow) (hg : g.off ≠ 0x030 ∧ g.off ≠ 0x05C) : (f == g) = false := by
    refine beq_eq_false_iff_ne.mpr ?_
    rintro rfl
    omega
  have hkept : w.merKept s armed = false := by simp [merKept, hmer]
  have hlegal : legalCode w.p f v = true := by
    simp [legalCode, hlo, hhi, bne, hne dmaCtrl_vector (by decide), hne ringCtrl_vector (by decide), hne faultCtrl_vector (by decide),
      hne hbmMarginCtrl_offset (by decide), hne kvPool_pages (by decide)]
  have hstate : s.fieldKept w.p f = false := by
    have hnode : (f.off == 0x044) = false := beq_eq_false_iff_ne.mpr (by omega)
    simp [State.fieldKept, hne faultCtrl_reserve (by decide), hne almCtrl_margin (by decide), hne kvPool_pages (by decide), hnode]
  have hmaster : watchmanOnly w.p f = false := by
    have hlow : ¬ 0xC00 ≤ f.off := by omega
    simp [watchmanOnly, hne faultFence_fenced (by decide), hlow]
  rw [field_mayStore hkept (.inl hacc), takes_of_stores ⟨by rw [hview]; exact hlegal, hstate, .inr hmaster⟩, hview]
  rfl

/-- SNAP_CTRL.clear of a page with counters. -/
def PageType.snapClear (t : PageType) : FieldRow := ⟨0x030, 2, 2, .rw, 0, t.pageSet, 0, 1, 0, 1⟩

theorem PageType.snapCtrl_fields (t : PageType) : t.counters ≠ [] → t ≠ .ring ∧ (t.fieldsAt 0x030).isEmpty = false
    ∧ t.snapClear ∈ t.fieldsAt 0x030 := by
  cases t <;> decide

theorem getField_bit_eq (v : Word) (i : Nat) : (getField v i i == 1) = v.getLsbD i := by
  have hcode := getField_testBit v (hi := i) (lo := i) 0
  have hlt := getField_lt v i i
  rw [Nat.add_sub_cancel_left] at hlt hcode
  rcases (by omega : getField v i i = 0 ∨ getField v i i = 1) with h | h <;> rw [h] at hcode ⊢ <;> simpa using hcode

/-- A write of 1 to SNAP_CTRL.take is a snapshot of its page at the transit, which clears where clear is written with it. -/
theorem exec_of_snapCtrl {m : Master} {n : Nat} {v : Word} {p : Page} {s : State} (hr : resolve m (n * 0x1000 + 0x030) = some (p, 0x030))
    (ha : s.accepts m p 0x030 = true) (hc : p.type.counters ≠ []) (hv : v.getLsbD 0 = true) :
    ∃ u : State, (∀ x, x ≠ p.reg 0x030 → u.reg x = s.reg x) ∧ u.snaps = s.snaps
      ∧ exec (.snapCtrlTake m n v) s = .next (u.snapPage p (v.getLsbD 2) s.transit) := by
  obtain ⟨hring, hfields, hclear⟩ := p.type.snapCtrl_fields hc
  obtain ⟨u, armed, hu, hexec⟩ := exec_of_common (c := .snapCtrlTake m n v) (v := v) rfl hr ha hring (.inr rfl) hfields
    (p.type.common_free 0x030 (by decide) p)
  let w : BusWr := ⟨m, p, 0x030, .direct, 0x030, v⟩
  have hother (x : Nat) (hx : x ≠ p.reg 0x030) : (w.written u armed).reg x = s.reg x :=
    (w.reg_written_other u armed hx).trans (hu.reg (by decide) x)
  have hw : State.SameBut [.guards, .regs] s (w.written u armed) := (hu.mono (by decide)).trans ((w.written_same u armed).mono (by decide))
  have htransit : (w.written u armed).transit = s.transit := by
    have haligned := Page.base_aligned hring
    have hfar (x : Nat) (hx : x % 0x1000 ≠ 0x030) : (w.written u armed).reg x = s.reg x := hother x (by rw [Page.reg]; omega)
    exact State.transit_of_same hw (by decide) (by decide) (hfar _ (by decide)) (hfar _ (by decide))
  have hbit : (getField ((w.written u armed).reg (p.reg 0x030)) 2 2 == 1) = v.getLsbD 2 := by
    have hmem : p.type.snapClear ∈ w.kept := BusWr.mem_kept rfl hclear rfl
    have hstored := BusWr.getField_written (w := w) (s := u) (armed := armed) hmem
    have hlow : getField v 2 2 ≤ 1 := Nat.le_of_lt_succ (getField_lt v 2 2)
    rw [BusWr.field_free rfl (.inl rfl) (show 0x030 ≠ 0x044 by decide) rfl rfl hlow] at hstored
    have hfield : getField ((w.written u armed).reg (p.reg 0x030)) 2 2 = getField v 2 2 := hstored
    rw [hfield]
    exact getField_bit_eq v 2
  have hact (y : State) : y.commonAct w = y.snapPage p (getField (y.reg (p.reg 0x030)) 2 2 == 1) y.transit := by
    refine if_pos (show (p.type.counters != [] && w.starts 0) = true from ?_)
    have hstarts : w.starts 0 = true := by
      rw [BusWr.starts, bitOf_eq_testBit]
      exact hv
    simp [hc, hstarts]
  rw [hact, hbit, htransit] at hexec
  exact ⟨_, hother, hw.snaps (by decide), hexec⟩

/-- No page with counters is SQUARE_CTRL. -/
theorem counterPages_past : ∀ p ∈ counterPages, p.base ≠ 0x1000 := by
  have hall : (counterPages.all fun p => p.base != 0x1000) = true := by decide +kernel
  intro p hp
  simpa using List.all_eq_true.mp hall p hp

/-- A write of 1 to SQ_SNAP_ALL.take is a package snapshot, which clears where clear is written with it. -/
theorem exec_of_sqSnapAll {m : Master} {v : Word} {s : State} (ha : s.accepts m (sqPage .squareCtrl) 0x05C = true) (hv : v.getLsbD 0 = true) :
    ∃ u, State.SameBut [.guards, .regs] s u ∧ (∀ x, x ≠ 0x105C → u.reg x = s.reg x)
      ∧ exec (.sqSnapAll m v) s = .next (u.snapAll (v.getLsbD 1)) := by
  let w := landed m (sqPage .squareCtrl) 0x05C v
  have hw : w = ⟨m, sqPage .squareCtrl, 0x05C, .direct, 0x05C, v⟩ := landed_low m _ (by decide) v
  have hfields : PageType.squareCtrl.fieldsAt 0x05C = [sqSnapAll_take, sqSnapAll_clear] := by decide
  have hplain : w.plain = true := by
    rw [hw]
    exact BusWr.plain_of_fields (show PageType.squareCtrl ≠ .cue by decide) hfields rfl rfl
  obtain ⟨u, hu, hexec⟩ := exec_of_square (c := .sqSnapAll m v) (raw := 0x05C) rfl rfl (by decide) ha hplain
  have hclear : ((w.written u (s.guardMatches w)).fld (sqPage .squareCtrl) sqSnapAll_clear == 1) = v.getLsbD 1 := by
    have hmem : sqSnapAll_clear ∈ w.kept := by
      rw [hw]
      exact BusWr.mem_kept rfl (show _ ∈ PageType.squareCtrl.fieldsAt 0x05C by rw [hfields]; simp) rfl
    have hstored := BusWr.getField_written (w := w) (s := u) (armed := s.guardMatches w) hmem
    have hlow : getField v 1 1 ≤ 1 := Nat.le_of_lt_succ (getField_lt v 1 1)
    rw [hw] at hstored ⊢
    rw [BusWr.field_free rfl (.inr rfl) (show 0x05C ≠ 0x044 by decide) rfl rfl hlow] at hstored
    exact (congrArg (· == 1) hstored).trans (getField_bit_eq v 1)
  have hact (y : State) (armed : Bool) (c : Nat) :
      y.squareAct w armed c = y.snapAll (y.fld (sqPage .squareCtrl) sqSnapAll_clear == 1) := by
    rw [hw]
    refine if_pos ?_
    rw [BusWr.starts, bitOf_eq_testBit]
    exact hv
  rw [State.unitAct_squareCtrl _ _ rfl, hact, hclear] at hexec
  refine ⟨_, (hu.mono (by decide)).trans ((w.written_same u _).mono (by decide)), fun x hx => ?_, hexec⟩
  exact (w.reg_written_other u _ (by rw [hw]; exact hx)).trans (hu.reg (by decide) x)

/-- Settles O12: a page captures itself, and SQ_SNAP_ALL goes through the pages with counters, each of which has its own 4 KiB. -/
theorem snapshotsTakeEveryCounter : Obligations.SnapshotsTakeEveryCounter := by
  refine ⟨fun m n v p s hr ha hc hv => ?page, fun m v s ha hv => ?package⟩
  case page =>
    obtain ⟨u, hother, hsnaps, hexec⟩ := exec_of_snapCtrl hr ha hc hv
    have hoff (x : Nat) (hx : 0x030 < x) : u.reg (p.reg x) = s.reg (p.reg x) := hother _ (by simp only [Page.reg]; omega)
    have hsnap := u.snapPage_snapped p (v.getLsbD 2) s.transit
    refine ⟨_, hexec, hsnap.count.trans (congrArg (· + 1) (hoff _ (by decide))), hsnap.low, hsnap.high, fun x hx => ?_⟩
    have hx' := hoff x (by have := p.type.counters_off x hx; omega)
    exact ⟨(hsnap.taken x hx).trans hx', (hsnap.left_ x hx).trans (by rw [hx'])⟩
  case package =>
    obtain ⟨u, hu, hother, hexec⟩ := exec_of_sqSnapAll ha hv
    have htransit : u.transit = s.transit :=
      State.transit_of_same hu (by decide) (by decide) (hother _ (by decide)) (hother _ (by decide))
    have hserved (p : Page) : u.served p = s.served p :=
      State.served_of_fence hu (by decide) (by decide) (by decide) (by decide) (hother _ (by decide)) p
    obtain ⟨hsame, -, hpages⟩ := snapSteps_snap (v.getLsbD 1) u.transit counterPages u counterPages_apart counterPages_aligned
    refine ⟨_, hexec, (hu.mono (by decide)).trans (hsame.mono (by decide)), fun p hp => ?_⟩
    have hkept : s.pageKept u p := fun x hx => by
      have := counterPages_past p hp
      have := counterPages_aligned p hp
      exact ⟨hother _ (by rw [Page.reg]; omega), by rw [hu.snaps (by decide)]⟩
    have hoff (x : Nat) (hx : x ∈ p.type.counters) : x < 0x1000 := by
      have := p.type.counters_off x hx
      omega
    have hpage := hpages p hp
    rw [hserved p, htransit] at hpage
    rw [State.snapAll_eq, htransit]
    refine ⟨fun hs => ?_, fun hs => ?_⟩
    · rw [if_pos hs] at hpage
      have hsnap := hpage.of_kept hkept (.refl _ p)
      exact ⟨hsnap.count, hsnap.low, hsnap.high, fun x hx => ⟨hsnap.taken x hx, hsnap.left_ x hx⟩⟩
    · rw [if_neg (by rw [hs]; decide)] at hpage
      have hall := hkept.trans hpage
      exact ⟨(hall _ (by decide)).1, fun x hx => (hall x (hoff x hx)).symm⟩

end Sys2Proof.Machine

namespace Sys2Proof.Machine

/-! ### The Ledger and the firmware (R405, R411 to R413, R457, R458) -/

theorem ledgerTrim_of_fits {rs : List LedgerRec} (h : rs.length ≤ 524288) : ledgerTrim rs = rs := by
  have hzero : rs.length - ledgerRecords = 0 := Nat.sub_eq_zero_of_le h
  have hshed : shedRecords (keepsRecord rs) 0 rs = rs := by
    cases rs <;> rfl
  simp only [ledgerTrim, hzero, hshed, List.drop_zero]

theorem ledgerBytes_length (serial : Nat) (r : LedgerRec) : (ledgerBytes serial r).length = 64 := by
  simp only [ledgerBytes, List.length_append, length_leBytes]

/-- Settles O31: the flash takes the buffer behind what it holds, and a record is found by its number. -/
theorem ledgerIsFlushedAndRead : Obligations.LedgerIsFlushedAndRead := by
  refine ⟨fun seq r s hisland => ⟨fun hfits => ?flush, fun hseq hfind => ?read, fun hlast => ?newest⟩, ledgerBytes_length⟩
  case flush =>
    show execLedgerFlush s = _
    rw [execLedgerFlush, if_pos hisland, ledgerTrim_of_fits (by rw [List.length_append]; exact hfits)]
  case read =>
    show execLedgerRead seq s = _
    simp only [execLedgerRead, hisland, if_neg hseq, hfind]
    rfl
  case newest =>
    show execLedgerRead (2 ^ 64 - 1) s = _
    simp only [execLedgerRead, hisland, if_true, hlast]
    rfl

theorem compOf_classifier {k : Nat} (h1 : 1 ≤ k) (h4 : k ≤ 4) : compOf k = some (k - 1) := if_pos (by simp [h1, h4])

theorem execVerifyComplete_verifies {s : State} (bytes : List Byte) (hisland : s.board.island = true) (hcore : s.coreFailed = false)
    {c : Nat} {ok : Bool} (hupdate : s.wm.update = some (c, ok)) :
    let u := s.withWm (s.wm.putSlot c (1 - s.wm.running.getD c 0) (readImage s.fuses.keyHash c bytes))
    let b := u.slotValid c (1 - s.wm.running.getD c 0)
    exec (.verifyComplete bytes) s
      = .next ((u.withWm { u.wm with update := if b then some (c, true) else none }).respond 0 [if b then 0#8 else 1#8]) := by
  show execVerifyComplete bytes s = _
  simp only [execVerifyComplete, hisland, hcore, hupdate]
  rfl

/-- Settles O32: each command of an update does what its state allows, and COMMIT_SVN takes the larger version. -/
theorem firmwareIsUpdated : Obligations.FirmwareIsUpdated := by
  intro k bytes s hisland hcore
  refine ⟨fun h1 h4 hnone => ?request, fun c ok hupdate => ?verify, fun c hupdate => ?activate,
    fun x h1 h4 hrecovery hbooted himage hlen => ?commit⟩
  case request =>
    show execRequestUpdate k s = _
    simp only [execRequestUpdate, hisland, hcore, hnone, compOf_classifier h1 h4]
    rfl
  case verify =>
    exact ⟨_, _, execVerifyComplete_verifies bytes hisland hcore hupdate, rfl, rfl, rfl, rfl, rfl,
      State.respond_same (State.withWm_same (State.withWm_same (.refl _ s) (by decide)) (by decide)) (by decide)⟩
  case activate =>
    show execActivateFirmware s = _
    simp only [execActivateFirmware, hisland, hcore, hupdate]
    rfl
  case commit =>
    have hexec : exec (.commitSvn k) s = .next ((s.withFuses { s.fuses with
        minSvn := s.fuses.minSvn.set (k - 1) (max (s.fuses.minSvn.getD (k - 1) 0) x.svn) }).respond 0 []) := by
      show execCommitSvn k s = _
      simp only [execCommitSvn, hisland, compOf_classifier h1 h4, himage, hrecovery, hcore, hbooted]
      rfl
    refine ⟨_, hexec, ?_, State.respond_same (State.withFuses_same (.refl _ s) (by decide)) (by decide)⟩
    show (s.fuses.minSvn.set (k - 1) _).getD (k - 1) 0 = _
    rw [List.getD_eq_getElem?_getD, List.getElem?_set_self hlen]
    rfl

/-- Refutes O29: ENTDAA is answered with the provisioned ID, six bytes, so it leaves a response behind, which SETDASA does not. -/
theorem not_managementBusAnswers : ¬ Obligations.ManagementBusAnswers := by
  intro h
  obtain ⟨⟨t, hexec, -, -, hsame, -⟩, -⟩ := (h.1 8 8 State.reset rfl).1 (by decide)
  have hanswer : exec (.entdaa 8) State.reset
      = .next ((State.reset.respond 0 (leBytes 6 State.reset.provisionedId).reverse).takeAddress 8) := rfl
  cases Host.Outcome.next.inj (hanswer.symm.trans hexec)
  have hout := congrArg (fun o => o.resp.bytes.length) (hsame.out (by decide))
  exact absurd hout (by decide)

end Sys2Proof.Machine

namespace Sys2Proof.Machine

/-! ### Run-time faults (R427, R438) -/

theorem State.capture_first {s : State} {p : Page} (code : Nat) (info : Word) (hfault : p.type.hasFault = true)
    (hfree : getField (s.reg (p.reg 0x024)) 31 31 = 0) : s.capture p code info
      = (s.setReg (p.reg 0x024) (setField (setField (s.reg (p.reg 0x024)) 7 0 code) 31 31 1)).setReg (p.reg 0x028)
        (info &&& fieldMask (fun _ => true) 0x028 p.type.ownFields) := by
  simp only [State.capture, hfault, hfree]
  rfl

theorem State.capture_later {s : State} {p : Page} (code : Nat) (info : Word) (hfault : p.type.hasFault = true)
    (hheld : getField (s.reg (p.reg 0x024)) 31 31 = 1) : s.capture p code info
      = s.setReg (p.reg 0x024) (setField (s.reg (p.reg 0x024)) 15 8 (min (getField (s.reg (p.reg 0x024)) 15 8 + 1) 0xFF)) := by
  simp only [State.capture, hfault, hheld]
  rfl

theorem faultCode_ne_faultInfo (p : Page) : p.reg 0x024 ≠ p.reg 0x028 := by simp [Page.reg]

theorem mem_putFault (r x : FaultRec) (rs : List FaultRec) : x ∈ putFault r rs ↔ x = r ∨ x ∈ rs := by
  induction rs with
  | nil => simp [putFault]
  | cons y ys ih =>
    unfold putFault
    split
    · simp
    · simp only [List.mem_cons, ih]
      tauto

theorem length_putFault (r : FaultRec) (rs : List FaultRec) : (putFault r rs).length = rs.length + 1 := by
  induction rs with
  | nil => rfl
  | cons y ys ih =>
    unfold putFault
    split
    · rfl
    · rw [List.length_cons, ih, List.length_cons]

theorem State.capture_same_regs (s : State) (p : Page) (code : Nat) (info : Word) : State.SameBut [.regs] s (s.capture p code info) :=
  State.capture_same (.refl _ s) (List.Subset.refl _)

theorem State.fault_faults (s : State) (p : Page) (code : Nat) (info : Word) (job : Option Nat) (sector : Nat) :
    (s.fault p code info job sector).faults = putFault ⟨code, p.base, info, job, sector, s.now⟩ s.faults := by
  have hc := s.capture_same_regs p code info
  show putFault ⟨code, p.base, info, job, sector, (s.capture p code info).now⟩ (s.capture p code info).faults = _
  rw [hc.now (by decide), hc.faults (by decide)]

theorem execRunTimeFault_eq (hw : Option HwFault) {s : State} (hon : s.squareOn = true) : exec (.runTimeFault hw) s =
    let u := hw.elim s s.hwFault
    .next (match u.faults with
      | [] => u
      | r :: rs => (u.withFaults rs).handleFault r) := by
  show execRunTimeFault hw s = _
  have hon' : (s.board.island && s.board.mainOk && !s.board.held && !s.board.squareFail) = true := hon
  unfold execRunTimeFault
  cases hw with
  | none =>
    dsimp only [Option.elim]
    split <;> simp_all
  | some x =>
    dsimp only [Option.elim]
    rw [if_pos hon']
    split <;> simp_all

/-- A fault of a page that captures it, beside no corrected or weakened sector and no withheld Loom, is the page's. -/
theorem State.hwFault_captured {s : State} {hw : HwFault} {p : Page} {x : Nat} (hweak : hw.weak = []) (hfixed : hw.fixed = [])
    (h41 : hw.code ≠ 0x41) (h42 : hw.code ≠ 0x42) (hpage : pageAt hw.page = some (p, x)) (hcaptures : hwPage hw.code p.type = true)
    (hserved : s.served p = true) : s.hwFault hw = s.fault p hw.code hw.info hw.job hw.sector := by
  have hclean : sramFixes hw.fixed (weaken hw.weak s) = s := by rw [hweak, hfixed]; rfl
  simp only [State.hwFault, hclean, hpage, Option.filter, hcaptures, hserved, h41, h42]
  rfl

theorem State.hwFault_silent {s : State} {hw : HwFault} (hweak : hw.weak = []) (hfixed : hw.fixed = [])
    (hno : ∀ p a, pageAt hw.page = some (p, a) → hwPage hw.code p.type = false ∨ s.served p = false) : s.hwFault hw = s := by
  have hclean : sramFixes hw.fixed (weaken hw.weak s) = s := by rw [hweak, hfixed]; rfl
  have hnone : ((pageAt hw.page).filter fun q => hwPage hw.code q.1.type && s.served q.1) = none := by
    cases hp : pageAt hw.page with
    | none => rfl
    | some q =>
      have hq : (hwPage hw.code q.1.type && s.served q.1) = false := Bool.and_eq_false_iff.mpr (hno q.1 q.2 hp)
      simp [Option.filter, hq]
  simp only [State.hwFault, hclean, hnone]

/-- Settles O27: the page's two cases of a capture, and the order in which the fault manager takes what it was sent. -/
theorem faultsAreCapturedAndTaken : Obligations.FaultsAreCapturedAndTaken := by
  refine ⟨fun s p code info hfault => ⟨fun hfree => ?first, fun hheld => ?later⟩, fun s r rs hw hon => ⟨fun hfaults => ?oldest,
    fun hnone _ h41 h42 hweak hfixed p x hpage hcaptures hserved => ?raised, fun hweak hfixed hno hnone => ?silent,
    fun p code info job sec => ⟨s.fault_faults p code info job sec, fun x hx => ?kept, ?counted⟩⟩⟩
  case first =>
    rw [State.capture_first code info hfault hfree, State.reg_setReg_other _ _ (faultCode_ne_faultInfo p), State.reg_setReg_same,
      State.reg_setReg_same]
    exact ⟨getField_setField _ _ _ _ (by decide) (by decide), (getField_setField_other _ _ _ _ _ _ (by decide) (by decide) (by decide)
      (by decide)).trans (getField_setField _ _ _ _ (by decide) (by decide)), rfl⟩
  case later =>
    rw [State.capture_later code info hfault hheld, State.reg_setReg_same, State.reg_setReg_other _ _ (faultCode_ne_faultInfo p).symm]
    exact ⟨(getField_setField _ _ _ _ (by decide) (by decide)).trans (Nat.mod_eq_of_lt (by omega)),
      getField_setField_other _ _ _ _ _ _ (by decide) (by decide) (by decide) (by decide), rfl⟩
  case oldest =>
    rw [execRunTimeFault_eq none hon]
    simp only [Option.elim, hfaults]
  case raised =>
    have hfaults : (s.fault p hw.code hw.info hw.job hw.sector).faults = [⟨hw.code, p.base, hw.info, hw.job, hw.sector, s.now⟩] := by
      rw [State.fault_faults, hnone]
      rfl
    rw [execRunTimeFault_eq (some hw) hon]
    simp only [Option.elim, State.hwFault_captured hweak hfixed h41 h42 hpage hcaptures hserved, hfaults]
    rfl
  case silent =>
    rw [execRunTimeFault_eq (some hw) hon]
    simp only [Option.elim, State.hwFault_silent hweak hfixed hno, hnone]
  case kept =>
    rw [State.fault_faults]
    exact (mem_putFault _ _ _).mpr (.inr hx)
  case counted =>
    rw [State.fault_faults, length_putFault]

end Sys2Proof.Machine

namespace Sys2Proof.Machine

/-! ### The clock (R353, R455) -/

/-- A field that another write of the same register does not reach. -/
theorem State.fld_setFld_beside (s : State) (p : Page) {f g : FieldRow} (v : Nat) (hoff : f.off = g.off)
    (hd : g.lo ≤ g.hi ∧ g.hi < 32 ∧ f.hi < 32 ∧ (f.hi < g.lo ∨ g.hi < f.lo)) : (s.setFld p g v).fld p f = s.fld p f := by
  obtain ⟨hl, h, h2, hd⟩ := hd
  exact State.fld_setFld_near s p f g v 0 0 (by simp only [fieldAddr, hoff, Nat.zero_mul]) hl h h2 hd

/-- A field of another register than the one written. -/
theorem State.fld_setFld_off (s : State) (p : Page) {f g : FieldRow} (v : Nat) (hoff : f.off ≠ g.off) :
    (s.setFld p g v).fld p f = s.fld p f := by
  refine State.fld_setFld_far s p p f g v 0 0 ?_
  simp only [fieldAddr, Nat.zero_mul, Page.reg]
  omega

theorem setWindows_below (mhz : Nat) (ks : List Nat) (s : State) {a : Nat} (ha : a < croftBase) : (setWindows mhz ks s).reg a = s.reg a := by
  fun_induction setWindows mhz ks s with
  | case1 => rfl
  | case2 k ks s ih =>
    have := croftBase_le_hearthCtrl (k / 32) (k / 8 % 4) (k % 8)
    exact ih.trans (State.reg_setFld_other _ _ _ _ _ (by omega))

section Clock

variable (s : State) (mhz duty : Nat)

/-- The registers of the Square range but POWER_STATUS keep what they hold when the clock is set. -/
theorem State.setClock_reg {a : Nat} (ha : a < croftBase) (hne : a ≠ 0x7050) : (s.setClock mhz duty).reg a = s.reg a := by
  rw [State.setClock, setWindows_below _ _ _ ha]
  exact (State.reg_setFld_other _ _ _ _ _ hne).trans (State.reg_setFld_other _ _ _ _ _ hne)

/-- A field of POWER_STATUS when the clock is set. -/
theorem State.setClock_status (f : FieldRow) (hf : fieldAddr powerPage f 0 < croftBase) : (s.setClock mhz duty).fld powerPage f
    = ((s.setFld powerPage powerStatus_aclkMhz mhz).setFld powerPage powerStatus_duty duty).fld powerPage f :=
  congrArg (getField · f.hi f.lo) (setWindows_below _ _ _ hf)

theorem State.setClock_aclkMhz : (s.setClock mhz duty).fld powerPage powerStatus_aclkMhz = mhz % 2048 := by
  rw [State.setClock_status _ _ _ _ (by decide), State.fld_setFld_beside (f := powerStatus_aclkMhz) (g := powerStatus_duty) _ _ _ rfl (by decide)]
  exact State.fld_setFld _ _ _ _ _ (by decide) (by decide)

theorem State.setClock_duty : (s.setClock mhz duty).fld powerPage powerStatus_duty = duty % 128 := by
  rw [State.setClock_status _ _ _ _ (by decide)]
  exact State.fld_setFld _ _ _ _ _ (by decide) (by decide)

/-- What showing the clock leaves: all registers but ALM_STATUS and POWER_STATUS. -/
theorem State.showClock_reg {a : Nat} (hal : a ≠ 0x5048) (hpow : a ≠ 0x7050) : s.showClock.reg a = s.reg a := by
  unfold State.showClock
  extract_lets mhz duty s₁
  have h₁ : s₁.reg a = s.reg a := State.reg_setFld_other _ _ _ _ _ hal
  split
  · exact (State.reg_setFld_other _ _ _ _ _ hpow).trans h₁
  · exact h₁

/-- The fields of POWER_STATUS past its limit are those in force. -/
theorem State.showClock_status {f : FieldRow} (hoff : f.off = 0x050) (hf : f.hi < 32 ∧ 1 < f.lo) :
    s.showClock.fld powerPage f = s.fld powerPage f := by
  unfold State.showClock
  extract_lets mhz duty s₁
  have h₁ : s₁.fld powerPage f = s.fld powerPage f := by
    refine State.fld_setFld_far _ _ _ _ _ _ 0 0 ?_
    simp only [fieldAddr, hoff, Nat.zero_mul]
    decide
  split
  · exact (State.fld_setFld_beside _ _ _ hoff ⟨by decide, by decide, hf.1, .inr hf.2⟩).trans h₁
  · exact h₁

theorem State.showClock_aclk :
    s.showClock.aclkMhz = effectiveMhz (s.fld powerPage powerStatus_aclkMhz) (s.fld powerPage powerStatus_duty) % 2048 := by
  unfold State.showClock
  extract_lets mhz duty s₁
  have h₁ : s₁.aclkMhz = effectiveMhz mhz duty % 2048 := State.fld_setFld _ _ _ _ _ (by decide) (by decide)
  split
  · exact (State.fld_setFld_far _ _ _ _ _ _ 0 0 (by decide)).trans h₁
  · exact h₁

end Clock

theorem clockOk_bounds {mhz duty : Nat} (h : clockOk mhz duty = true) : mhz ≤ 1800 ∧ duty ≤ 64 ∧ effectiveMhz mhz duty ≤ 1800 := by
  simp only [clockOk, Bool.and_eq_true, decide_eq_true_eq] at h
  obtain ⟨⟨⟨⟨⟨-, hle⟩, -⟩, -⟩, hduty⟩, -⟩ := h
  have : mhz * duty ≤ 1800 * 64 := Nat.mul_le_mul hle hduty
  refine ⟨hle, hduty, ?_⟩
  rw [effectiveMhz]
  omega

/-- A clock of the range that is set and shown is in force. -/
theorem State.setClock_shown (s : State) {mhz duty : Nat} (h : clockOk mhz duty = true) :
    (s.setClock mhz duty).showClock.fld powerPage powerStatus_aclkMhz = mhz ∧ (s.setClock mhz duty).showClock.fld powerPage powerStatus_duty = duty
      ∧ (s.setClock mhz duty).showClock.aclkMhz = effectiveMhz mhz duty := by
  obtain ⟨hmhz, hduty, heff⟩ := clockOk_bounds h
  have hm : (s.setClock mhz duty).fld powerPage powerStatus_aclkMhz = mhz :=
    (s.setClock_aclkMhz mhz duty).trans (Nat.mod_eq_of_lt (by omega))
  have hd : (s.setClock mhz duty).fld powerPage powerStatus_duty = duty := (s.setClock_duty mhz duty).trans (Nat.mod_eq_of_lt (by omega))
  refine ⟨(State.showClock_status _ rfl (by decide)).trans hm, (State.showClock_status _ rfl (by decide)).trans hd, ?_⟩
  rw [State.showClock_aclk, hm, hd, Nat.mod_eq_of_lt (by omega)]

theorem State.capApplied_same (s : State) (limit : Nat) : State.SameBut [.regs, .out] s (s.capApplied limit) := by
  have hev : State.SameBut [.regs, .out] s ((s.bump powerPage capCount_count).event powerPage power_evtRaw_capped) :=
    State.event_same (State.bump_same (.refl _ s) (by decide)) (by decide)
  exact same_ite (State.alert_same hev (by decide)) hev

/-- Applying a cap writes no register of POWER but its count and event, of the WATCHMAN page its alerts, and what discarded messages
count. -/
theorem State.capApplied_reg (s : State) (limit : Nat) {a : Nat} (hm : isMsgReg a = false) (ha : a ≠ 0x7018 ∧ a ≠ fieldAddr powerPage capCount_count 0
    ∧ a ≠ 0x3048) : (s.capApplied limit).reg a = s.reg a := by
  obtain ⟨hevt, hcount, halert⟩ := ha
  have hev : ((s.bump powerPage capCount_count).event powerPage power_evtRaw_capped).reg a = s.reg a :=
    (State.event_reg (by decide) hm (show a ≠ fieldAddr powerPage power_evtRaw_capped 0 from hevt)).trans (State.reg_setFld_other _ _ _ _ _ hcount)
  unfold State.capApplied
  dsimp only
  split
  · exact (State.alert_reg _ _ (show a ≠ fieldAddr (sqPage .watchman) wmAlert_thermal 0 from halert)).trans hev
  · exact hev

/-- A lower clock is given to the Almanac, and the power manager asks for it. -/
theorem State.lowerAclk_lowers (s : State) (limit : Nat) {mhz duty : Nat} (h : effectiveMhz mhz duty < s.aclkMhz) :
    (s.lowerAclk limit mhz duty).power.capReq = some (limit, mhz, duty) := by
  rw [State.lowerAclk, if_pos h]
  rfl

/-- Settles O22: CAP_APPLY sets the clock that waits; the limiter asks for a lower one, or raises it and shows it. -/
theorem clockFollowsTheLimiter : Obligations.ClockFollowsTheLimiter := by
  intro limit mhz duty s hup hok
  refine ⟨fun l c d hreq hc hd => ?apply, fun hlimit hreached hlower => ?lower, fun hnone hw ht hlt => ?raise⟩
  case apply =>
    let u := (s.withPower { s.power with capReq := none }).setClock c d
    have hu : State.SameBut [.regs] (s.withPower { s.power with capReq := none }) u := State.setClock_same (.refl _ _) (by decide)
    have hreg : (u.capApplied l).reg 0x7050 = u.reg 0x7050 := u.capApplied_reg l (by decide) (by decide)
    refine ⟨_, execCapApply_applies hreq, ?_, ?_, ?_⟩
    · exact ((u.capApplied_same l).power (by decide)).trans (hu.power (by decide))
    · exact (congrArg (getField · 12 2) hreg).trans ((State.setClock_aclkMhz _ _ _).trans (Nat.mod_eq_of_lt hc))
    · exact (congrArg (getField · 19 13) hreg).trans ((State.setClock_duty _ _ _).trans (Nat.mod_eq_of_lt hd))
  case lower =>
    have hexec : exec (.limiterAclkChange limit mhz duty) s = .next (s.lowerAclk limit mhz duty) := by
      show execLimiterAclkChange limit mhz duty s = _
      rw [execLimiterAclkChange, if_pos (by simp [hup, hok, hreached])]
    exact ⟨_, hexec, s.lowerAclk_lowers limit hlower, State.lowerAclk_same (.refl _ s) (by decide)⟩
  case raise =>
    obtain ⟨hm, hd, hmhz⟩ := s.setClock_shown hok
    exact ⟨_, execLimiterAclkRaise_raises hup hok hnone hw ht hlt, hm, hmhz, hd,
      State.showClock_same (State.setClock_same (.refl _ s) (by decide)) (by decide)⟩

end Sys2Proof.Machine

namespace Sys2Proof.Machine

/-! ### What a heard write leaves of the dies' states -/

namespace Heard

variable {s u : State}

theorem fld (h : Heard s u) (p : Page) (f : FieldRow) (i : Nat := 0) : u.fld p f i = s.fld p f i := fld_of_reg h.2 p f i

theorem fenced (h : Heard s u) (d : Nat) : u.fenced d = s.fenced d := congrArg (bitOf · d) (h.fld _ _)

theorem dieLive (h : Heard s u) (d : Nat) : u.dieLive d = s.dieLive d := by
  simp only [State.dieLive, State.inTwilight, State.resetting, h.fenced, h.1.power (by decide), h.1.now (by decide)]

theorem liveDies (h : Heard s u) : u.liveDies = s.liveDies := by
  unfold State.liveDies
  rw [funext h.dieLive]

theorem dieOf (h : Heard s u) (i : Nat) : u.dieOf i = s.dieOf i := by
  simp only [State.dieOf, h.2]

theorem isReserve (h : Heard s u) (d : Nat) : u.isReserve d = s.isReserve d := by
  simp only [State.isReserve, State.logicalsOf, State.reserve, h.dieLive, h.dieOf, h.fld]
  rfl

theorem named (h : Heard s u) (d : Nat) (states : List Nat) : u.named d states = s.named d states := by
  simp only [State.named, h.1.alm (by decide)]

end Heard

/-! ### DIE_CMD and POWER_CTRL (R351, R453, R454) -/

theorem State.dieStatus_reg (s : State) (busy result : Nat) {a : Nat} (h : a ≠ 0x7060) : (s.dieStatus busy result).reg a = s.reg a :=
  (State.reg_setFld_other _ _ _ _ _ h).trans (State.reg_setFld_other _ _ _ _ _ h)

theorem State.fld_dieStatus_busy (s : State) (busy result : Nat) : (s.dieStatus busy result).fld powerPage dieStatus_busy = busy % 2 := by
  rw [State.dieStatus, State.fld_setFld_beside (f := dieStatus_busy) (g := dieStatus_result) _ _ _ rfl (by decide)]
  exact State.fld_setFld _ _ _ _ _ (by decide) (by decide)

theorem State.fld_dieStatus_result (s : State) (busy result : Nat) : (s.dieStatus busy result).fld powerPage dieStatus_result = result % 4 :=
  State.fld_setFld _ _ _ _ _ (by decide) (by decide)

theorem State.twilightRefused_iff {s : State} {d : Nat} :
    s.twilightRefused d = true ↔ s.fenced d = true ∨ s.isReserve d = true ∨ s.liveDies = [d] := by
  simp [State.twilightRefused, or_assoc]

theorem bitsOf_low (v n : Nat) : bitsOf v n 0 = v % 2 ^ (n + 1) := by simp [bitsOf]

/-- A write of DIE_CMD stores nothing, and hands its die and op to the power manager. -/
theorem exec_dieCmdWrite {m : Master} {v : Word} {s : State} (ha : s.accepts m powerPage 0x05C = true) :
    ∃ u, Heard s u ∧ exec (.dieCmdWrite m v) s = .next (u.dieCmd (v.toNat % 8) (v.toNat / 16 % 4)) := by
  have hw := landed_low m (sqPage .power) (show 0x05C < 0x400 by decide) v
  have hfields : PageType.power.fieldsAt 0x05C = [dieCmd_die, dieCmd_op] := by decide
  have hplain : (landed m (sqPage .power) 0x05C v).plain = true := by
    rw [hw]
    exact BusWr.plain_of_fields (show PageType.power ≠ .cue by decide) hfields rfl rfl
  have hkept : ∀ g ∈ (landed m (sqPage .power) 0x05C v).kept, g.acc = .ro ∨ g.acc = .wo ∨ g.acc = .rc := by
    have hwo : ∀ g ∈ PageType.power.fieldsAt 0x05C, g.acc = .wo := by
      rw [hfields]
      decide
    rw [hw]
    exact fun g hg => .inr (.inl (hwo g (BusWr.kept_subset hg)))
  obtain ⟨u, b, armed, hu, hexec⟩ := exec_of_unstored (c := .dieCmdWrite m v) rfl (resolve_square m (t := .power) rfl (by decide)) ha hplain hkept
  rw [hw] at hexec
  have hop : bitsOf v.toNat 5 4 = v.toNat / 16 % 4 := by simp [bitsOf]
  have hact (c : Nat) (y : State) : y.squareAct ⟨m, sqPage .power, 0x05C, .direct, 0x05C, v⟩ armed c = y.dieCmd (bitsOf v.toNat 2 0) (bitsOf v.toNat 5 4) := rfl
  rw [hact, bitsOf_low, hop] at hexec
  exact ⟨u, hu, hexec⟩

/-- A write of 1 to POWER_CTRL.nightwatch makes the request. -/
theorem exec_nightwatchRequest {m : Master} {s : State} (ha : s.accepts m powerPage 0x444 = true) :
    ∃ u, State.SameBut [.guards, .regs] s u ∧ exec (.nightwatchRequest m) s = .next u.requestNight := by
  have hw : landed m (sqPage .power) 0x444 4 = ⟨m, sqPage .power, 0x444, .set, 0x044, 4⟩ := rfl
  have hfields : PageType.power.fieldsAt 0x044 = [powerCtrl_retain, powerCtrl_duskEn, powerCtrl_nightwatch] := by decide
  have hplain : (landed m (sqPage .power) 0x444 4).plain = true := by
    rw [hw]
    exact BusWr.plain_of_fields (show PageType.power ≠ .cue by decide) hfields rfl rfl
  obtain ⟨u, hu, hexec⟩ := exec_of_square (c := .nightwatchRequest m) (t := .power) (raw := 0x444) rfl rfl (by decide) ha hplain
  have hact (y : State) (armed : Bool) (c : Nat) :
      y.squareAct ⟨m, sqPage .power, 0x444, .set, 0x044, 4⟩ armed c = y.requestNight := 
    if_pos (show (View.set != .clear && bitOf (4#32).toNat 2) = true by decide)
  rw [hw, hact] at hexec
  exact ⟨_, (hu.mono (by decide)).trans ((BusWr.written_same _ u _).mono (by decide)), hexec⟩

/-- What DIE_CMD leaves, for a state that a heard write left. -/
theorem State.dieCmd_effect {s u : State} (hu : Heard s u) (die op : Nat) :
    State.SameBut [.guards, .regs, .power] s (u.dieCmd die op) ∧ ∀ y, y ≠ 0x7060 → (u.dieCmd die op).reg y = s.reg y := by
  have hs : State.SameBut [.guards, .regs, .power] s u := hu.1.mono (by decide)
  unfold State.dieCmd
  split
  · exact ⟨State.setFld_same hs (by decide), fun y hy => (State.reg_setFld_other _ _ _ _ _ hy).trans (hu.2 y)⟩
  · split
    · exact ⟨hs, fun y _ => hu.2 y⟩
    · split
      · exact ⟨hs.trans (State.dieStatus_same (.refl _ _) (by decide)), fun y hy => (State.dieStatus_reg _ _ _ hy).trans (hu.2 y)⟩
      · exact ⟨(State.withPower_same hs (by decide)).trans (State.dieStatus_same (.refl _ _) (by decide)),
          fun y hy => (State.dieStatus_reg _ _ _ hy).trans (hu.2 y)⟩

theorem State.dieCmd_of_busy {s : State} (die op : Nat) (h : s.fld powerPage dieStatus_busy = 1) :
    s.dieCmd die op = s.setFld powerPage dieStatus_overrun 1 := if_pos h

theorem State.dieCmd_refused {s : State} {die : Nat} (hbusy : s.fld powerPage dieStatus_busy = 0) (h : s.twilightRefused die = true) :
    s.dieCmd die 1 = s.dieStatus 0 2 := by
  rw [State.dieCmd, if_neg (by omega), if_neg (by decide), if_pos (by simp [h])]

theorem State.dieCmd_taken {s : State} {die op : Nat} (hbusy : s.fld powerPage dieStatus_busy = 0)
    (h : op = 2 ∨ op = 1 ∧ s.twilightRefused die = false) : s.dieCmd die op
      = (s.withPower { s.power with dieReq := some (die, op) }).dieStatus 1 (if op = 1 && s.twilightWaits die then 1 else 0) := by
  have hop : (decide (op = 0) || decide (op = 3)) = false := by
    rcases h with rfl | ⟨rfl, -⟩ <;> rfl
  have hmay : (decide (op = 1) && s.twilightRefused die) = false := by
    rcases h with rfl | ⟨rfl, h⟩
    · rfl
    · rw [h]
      rfl
  rw [State.dieCmd, if_neg (by omega), hop, hmay]
  rfl

/-! ### POWER_CAP and THERMAL_CAP (R455, R460) -/

theorem capTarget_ok (limit cap n : Nat) : clockOk (capTarget limit cap n).1 (capTarget limit cap n).2 = true := by
  unfold capTarget
  dsimp only
  generalize (Config.capClock limit cap n).toNat / 91 = r
  have hq : (Config.capClock limit cap n).toNat % 91 < 91 := Nat.mod_lt _ (by decide)
  generalize (Config.capClock limit cap n).toNat % 91 = q at hq
  by_cases h : q = 0
  · simp [clockOk, h]
    omega
  · rw [if_neg (by omega)]
    simp [clockOk]
    omega

section LowerAclk

variable (s : State) (limit mhz duty : Nat)

theorem State.lowerAclk_of_not_lower (h : s.aclkMhz ≤ effectiveMhz mhz duty) : s.lowerAclk limit mhz duty = s := if_neg (by omega)

/-- A lower clock writes ALM_STATUS and the limit of POWER_STATUS. -/
theorem State.lowerAclk_reg {a : Nat} (hal : a ≠ 0x5048) (hpow : a ≠ 0x7050) : (s.lowerAclk limit mhz duty).reg a = s.reg a := by
  unfold State.lowerAclk
  split
  · exact (State.reg_setFld_other _ _ _ _ _ hal).trans ((State.reg_setFld_other _ _ _ _ _ hpow).trans (State.reg_setFld_other _ _ _ _ _ hal))
  · rfl

theorem State.lowerAclk_status {f : FieldRow} (hoff : f.off = 0x050) (hf : f.hi < 32 ∧ 1 < f.lo) :
    (s.lowerAclk limit mhz duty).fld powerPage f = s.fld powerPage f := by
  have hal (u : State) (g : FieldRow) (v : Nat) (hg : g.off = 0x048) : (u.setFld (sqPage .almanac) g v).fld powerPage f = u.fld powerPage f := by
    refine State.fld_setFld_far _ _ _ _ _ _ 0 0 ?_
    simp only [fieldAddr, hoff, hg, Nat.zero_mul]
    decide
  unfold State.lowerAclk
  split
  · exact (hal _ almStatus_readmitting _ rfl).trans ((State.fld_setFld_beside _ _ _ hoff ⟨by decide, by decide, hf.1, .inr hf.2⟩).trans
      (hal _ almStatus_aclkMhz _ rfl))
  · rfl

variable {s limit mhz duty}

theorem State.lowerAclk_asks (h : effectiveMhz mhz duty < s.aclkMhz) (hlimit : limit < 4) :
    (s.lowerAclk limit mhz duty).aclkMhz = effectiveMhz mhz duty ∧ (s.lowerAclk limit mhz duty).power.retest.isSome = true
      ∧ (s.lowerAclk limit mhz duty).fld powerPage powerStatus_limit = limit := by
  have hlt : s.aclkMhz < 2048 := State.fld_lt s _ almStatus_aclkMhz 0
  rw [State.lowerAclk, if_pos h]
  refine ⟨?_, rfl, ?_⟩
  · show ((State.setFld _ (sqPage .almanac) almStatus_readmitting 1).fld (sqPage .almanac) almStatus_aclkMhz) = _
    rw [State.fld_setFld_beside (f := almStatus_aclkMhz) (g := almStatus_readmitting) _ _ _ rfl (by decide),
      State.fld_setFld_far _ _ _ _ _ _ 0 0 (by decide), State.fld_setFld _ _ _ _ _ (by decide) (by decide)]
    exact Nat.mod_eq_of_lt (by show _ < 2048; omega)
  · show (State.setFld _ (sqPage .almanac) almStatus_readmitting 1).fld powerPage powerStatus_limit = _
    rw [State.fld_setFld_far _ _ _ _ _ _ 0 0 (by decide), State.fld_setFld _ _ _ _ _ (by decide) (by decide)]
    exact Nat.mod_eq_of_lt hlimit

end LowerAclk

section RaiseAclk

variable (s : State) (limit mhz duty : Nat)

theorem State.dropCap_power : (s.dropCap limit).power =
    if (s.power.capReq.any (·.1 == limit)) = true then { s.power with capReq := none } else s.power := by
  unfold State.dropCap
  split
  · exact (State.showClock_same (.refl [.regs] _) (by decide)).power (by decide)
  · rfl

theorem State.dropCap_reg {a : Nat} (hal : a ≠ 0x5048) (hpow : a ≠ 0x7050) : (s.dropCap limit).reg a = s.reg a := by
  unfold State.dropCap
  split
  · exact State.showClock_reg _ hal hpow
  · rfl

theorem State.dropCap_status {f : FieldRow} (hoff : f.off = 0x050) (hf : f.hi < 32 ∧ 1 < f.lo) :
    (s.dropCap limit).fld powerPage f = s.fld powerPage f := by
  unfold State.dropCap
  split
  · exact State.showClock_status _ hoff hf
  · rfl

theorem State.raiseAclk_reg {a : Nat} (ha : a < croftBase) (hal : a ≠ 0x5048) (hpow : a ≠ 0x7050) :
    (s.raiseAclk mhz duty).reg a = s.reg a := by
  unfold State.raiseAclk
  split
  · exact (State.showClock_reg _ hal hpow).trans (State.setClock_reg _ _ _ ha hpow)
  · rfl

variable {mhz duty}

/-- A raise sets and shows its clock, or leaves the clock, which is then as high or waits to be lowered. -/
theorem State.raiseAclk_cases (h : clockOk mhz duty = true) :
    ((s.raiseAclk mhz duty).fld powerPage powerStatus_aclkMhz = mhz ∧ (s.raiseAclk mhz duty).fld powerPage powerStatus_duty = duty
      ∧ (s.raiseAclk mhz duty).aclkMhz = effectiveMhz mhz duty)
    ∨ s.raiseAclk mhz duty = s ∧ (s.power.capReq = none → effectiveMhz mhz duty ≤ s.aclkMhz) := by
  unfold State.raiseAclk
  split
  case isTrue => exact .inl (s.setClock_shown h)
  case isFalse hno =>
    refine .inr ⟨rfl, fun hnone => ?_⟩
    simpa [hnone] using hno

end RaiseAclk

/-- The limits of the caps with their fields. -/
def isCap (limit : Nat) (f : FieldRow) : Prop := limit = 1 ∧ f = powerCap_watts ∨ limit = 2 ∧ f = thermalCap_degc

section CapWrite

variable {s : State} {limit n : Nat} {f : FieldRow}

theorem State.capWrite_eq (hcap : isCap limit f) (s : State) (n : Nat) : s.capWrite limit n =
    let u := (s.setFld powerPage f n).withFreeCount (s.freeCount + 1)
    let t := capTarget limit n s.freeCount
    if n < s.fld powerPage f then u.lowerAclk limit t.1 t.2
    else if s.fld powerPage f < n then (u.dropCap limit).raiseAclk t.1 t.2
    else s.setFld powerPage f n := by
  rcases hcap with ⟨rfl, rfl⟩ | ⟨rfl, rfl⟩ <;> rfl

theorem isCap.addr (hcap : isCap limit f) : fieldAddr powerPage f 0 < croftBase ∧ fieldAddr powerPage f 0 ≠ 0x5048
    ∧ fieldAddr powerPage f 0 ≠ 0x7050 := by
  rcases hcap with ⟨rfl, rfl⟩ | ⟨rfl, rfl⟩ <;> decide

theorem isCap.fits (hcap : isCap limit f) : f.lo ≤ f.hi ∧ f.hi < 32 ∧ limit < 4 := by
  rcases hcap with ⟨rfl, rfl⟩ | ⟨rfl, rfl⟩ <;> decide

/-- A cap that is written has the value, whatever clock follows. -/
theorem State.capWrite_stores (hcap : isCap limit f) (hn : n < 2 ^ (f.hi + 1 - f.lo)) : (s.capWrite limit n).fld powerPage f = n := by
  obtain ⟨hlow, hal, hpow⟩ := hcap.addr
  obtain ⟨hlo, hhi, -⟩ := hcap.fits
  have hset : (s.setFld powerPage f n).fld powerPage f = n := (State.fld_setFld _ _ _ _ _ hlo hhi).trans (Nat.mod_eq_of_lt hn)
  have hkept {t : State} (h : t.reg (fieldAddr powerPage f 0) = (s.setFld powerPage f n).reg (fieldAddr powerPage f 0)) :
      t.fld powerPage f = n := (congrArg (getField · f.hi f.lo) h).trans hset
  rw [State.capWrite_eq hcap]
  dsimp only
  split
  · exact hkept (State.lowerAclk_reg _ _ _ _ hal hpow)
  · split
    · exact hkept ((State.raiseAclk_reg _ _ _ hlow hal hpow).trans (State.dropCap_reg _ _ hal hpow))
    · exact hset

/-- The fields of POWER_STATUS past its limit, when a cap is stored. -/
theorem State.capStored_status (hcap : isCap limit f) (s : State) (n k : Nat) {g : FieldRow} (hg : g.off = 0x050) :
    ((s.setFld powerPage f n).withFreeCount k).fld powerPage g = s.fld powerPage g := by
  refine (State.fld_setFld_off _ _ _ ?_ : (s.setFld powerPage f n).fld powerPage g = _)
  rw [hg]
  rcases hcap with ⟨rfl, rfl⟩ | ⟨rfl, rfl⟩ <;> decide

theorem State.capStored_aclk (hcap : isCap limit f) (s : State) (n k : Nat) : ((s.setFld powerPage f n).withFreeCount k).aclkMhz = s.aclkMhz :=
  State.fld_setFld_far _ _ _ _ _ _ 0 0 hcap.addr.2.1.symm

/-- A lower cap. -/
theorem State.capWrite_lower (hcap : isCap limit f) (h : n < s.fld powerPage f) :
    let t := s.capWrite limit n
    let eff := effectiveMhz (capTarget limit n s.freeCount).1 (capTarget limit n s.freeCount).2
    t.fld powerPage powerStatus_aclkMhz = s.fld powerPage powerStatus_aclkMhz ∧ t.fld powerPage powerStatus_duty = s.fld powerPage powerStatus_duty
      ∧ (eff < s.aclkMhz → t.aclkMhz = eff
        ∧ t.power.capReq = some (limit, (capTarget limit n s.freeCount).1, (capTarget limit n s.freeCount).2)
        ∧ t.power.retest.isSome = true ∧ t.fld powerPage powerStatus_limit = limit)
      ∧ (s.aclkMhz ≤ eff → t.power = s.power ∧ t.aclkMhz = s.aclkMhz) := by
  have haclk := State.capStored_aclk hcap s n (s.freeCount + 1)
  have hstatus (g : FieldRow) (hg : g.off = 0x050) := State.capStored_status hcap s n (s.freeCount + 1) hg
  rw [State.capWrite_eq hcap, if_pos h]
  dsimp only
  refine ⟨(State.lowerAclk_status _ _ _ _ rfl (by decide)).trans (hstatus _ rfl),
    (State.lowerAclk_status _ _ _ _ rfl (by decide)).trans (hstatus _ rfl), fun hlow => ?_, fun hhigh => ?_⟩
  · obtain ⟨ha, hr, hl⟩ := State.lowerAclk_asks (limit := limit) (haclk ▸ hlow) hcap.fits.2.2
    exact ⟨ha, State.lowerAclk_lowers _ limit (haclk ▸ hlow), hr, hl⟩
  · rw [State.lowerAclk_of_not_lower _ _ _ _ (haclk ▸ hhigh)]
    exact ⟨rfl, haclk⟩

/-- A raised cap. -/
theorem State.capWrite_raise (hcap : isCap limit f) (h : s.fld powerPage f < n) :
    let t := s.capWrite limit n
    let mhz := (capTarget limit n s.freeCount).1
    let duty := (capTarget limit n s.freeCount).2
    (t.power.capReq.any fun r => r.1 == limit) = false ∧ ((s.power.capReq.any fun r => r.1 == limit) = false → t.power = s.power)
      ∧ (t.power.capReq = none → effectiveMhz mhz duty ≤ t.aclkMhz)
      ∧ (t.fld powerPage powerStatus_aclkMhz = mhz ∧ t.fld powerPage powerStatus_duty = duty
        ∨ t.fld powerPage powerStatus_aclkMhz = s.fld powerPage powerStatus_aclkMhz
          ∧ t.fld powerPage powerStatus_duty = s.fld powerPage powerStatus_duty) := by
  intro t mhz duty
  let u := (s.setFld powerPage f n).withFreeCount (s.freeCount + 1)
  have ht : t = (u.dropCap limit).raiseAclk mhz duty := by
    simp only [t, State.capWrite_eq hcap]
    rw [if_neg (by omega), if_pos h]
  have hpower : t.power = if (s.power.capReq.any (·.1 == limit)) = true then { s.power with capReq := none } else s.power := by
    rw [ht, (State.raiseAclk_same (.refl [.regs] _) (by decide)).power (by decide)]
    exact u.dropCap_power limit
  have hstatus (g : FieldRow) (hg : g.off = 0x050) (hf : g.hi < 32 ∧ 1 < g.lo) : (u.dropCap limit).fld powerPage g = s.fld powerPage g :=
    (State.dropCap_status _ _ hg hf).trans (State.capStored_status hcap s n _ hg)
  refine ⟨?_, fun hother => ?_, fun hnone => ?_, ?_⟩
  · rw [hpower]
    split
    · rfl
    · exact Bool.eq_false_of_not_eq_true ‹_›
  · rw [hpower, if_neg (by rw [hother]; decide)]
  · rcases State.raiseAclk_cases (u.dropCap limit) (capTarget_ok limit n s.freeCount) with ⟨-, -, ha⟩ | ⟨he, hle⟩
    · rw [ht]
      exact ha.symm.le
    · rw [ht] at hnone ⊢
      rw [he] at hnone ⊢
      exact hle hnone
  · rw [ht]
    rcases State.raiseAclk_cases (u.dropCap limit) (capTarget_ok limit n s.freeCount) with ⟨hm, hd, -⟩ | ⟨he, -⟩
    · exact .inl ⟨hm, hd⟩
    · rw [he]
      exact .inr ⟨hstatus _ rfl (by decide), hstatus _ rfl (by decide)⟩

/-- A cap that is written with its own value changes nothing. -/
theorem State.capWrite_same_value (hcap : isCap limit f) (h : n = s.fld powerPage f) (a : Nat) :
    State.SameBut [.regs] s (s.capWrite limit n) ∧ (s.capWrite limit n).reg a = s.reg a := by
  obtain ⟨hlo, hhi, -⟩ := hcap.fits
  have he : s.capWrite limit n = s.setFld powerPage f n := by
    rw [State.capWrite_eq hcap, if_neg (by omega), if_neg (by omega)]
  rw [he]
  refine ⟨State.setFld_same (.refl _ s) (by decide), ?_⟩
  rw [State.setFld, State.reg_setReg, h]
  split
  · rename_i ha
    rw [ha]
    exact setField_getField _ hlo hhi
  · rfl

end CapWrite

theorem fieldsAt_cap {limit : Nat} {f : FieldRow} (hcap : isCap limit f) : PageType.power.fieldsAt f.off = [f] := by
  rcases hcap with ⟨rfl, rfl⟩ | ⟨rfl, rfl⟩ <;> decide

/-- The value that a direct write of a cap leaves to it: the one written, where it lies in the field's range. -/
theorem BusWr.field_cap {limit : Nat} {f : FieldRow} (hcap : isCap limit f) {w : BusWr} {s : State} {armed : Bool} {old v : Nat}
    (hview : w.view = .direct) (hp : w.p = powerPage) :
    w.field s armed f old v = if f.legalLo ≤ v ∧ v ≤ f.legalHi then v else old := by
  have hkept : w.merKept s armed = false := by rw [merKept, hp]; rfl
  have hrow : f.acc = .rw ∧ s.fieldKept w.p f = false ∧ watchmanOnly w.p f = false := by
    rw [hp]
    rcases hcap with ⟨rfl, rfl⟩ | ⟨rfl, rfl⟩ <;> exact ⟨rfl, rfl, rfl⟩
  obtain ⟨hacc, hstate, hmaster⟩ := hrow
  have hlegal : legalCode w.p f v = true ↔ f.legalLo ≤ v ∧ v ≤ f.legalHi := by
    have hother : (f == dmaCtrl_vector) = false ∧ (f == ringCtrl_vector) = false ∧ (f == faultCtrl_vector) = false
        ∧ (f == hbmMarginCtrl_offset) = false ∧ (f == kvPool_pages) = false := by
      rcases hcap with ⟨rfl, rfl⟩ | ⟨rfl, rfl⟩ <;> exact ⟨rfl, rfl, rfl, rfl, rfl⟩
    obtain ⟨hdma, hring, hvector, hmargin, hpool⟩ := hother
    simp [legalCode, bne, hdma, hring, hvector, hmargin, hpool]
  rw [field_mayStore hkept (.inl hacc)]
  split
  case isTrue h =>
    rw [takes_of_stores ⟨by rw [hview]; exact hlegal.mpr h, hstate, .inr hmaster⟩, hview]
    rfl
  case isFalse h =>
    exact takes_of_not_stores fun hs => h (hlegal.mp (by have := hs.1; rw [hview] at this; exact this))

/-- A write of a cap hands it to the power manager, or the cap in force where the value is out of range. -/
theorem exec_of_cap {limit : Nat} {f : FieldRow} (hcap : isCap limit f) {c : Instr} {m : Master} {v : Word} {s : State}
    (hc : busOf c = some (m, powerPage.reg f.off, v)) (ha : s.accepts m powerPage f.off = true) :
    let n := getField v f.hi f.lo
    ∃ u, Heard s u ∧ exec c s = .next (u.capWrite limit (if f.legalLo ≤ n ∧ n ≤ f.legalHi then n else s.fld powerPage f)) := by
  intro n
  have hoff : f.off < 0x400 ∧ [0x014, 0x018, 0x01C, 0x024, 0x030].contains f.off = false := by
    rcases hcap with ⟨rfl, rfl⟩ | ⟨rfl, rfl⟩ <;> decide
  have hw : landed m (sqPage .power) f.off v = ⟨m, sqPage .power, f.off, .direct, f.off, v⟩ := landed_low m _ hoff.1 v
  have hfields := fieldsAt_cap hcap
  have hfree : ([f].any (watchmanOnly (sqPage .power))) = false := by
    rcases hcap with ⟨rfl, rfl⟩ | ⟨rfl, rfl⟩ <;> rfl
  have hplain : (landed m (sqPage .power) f.off v).plain = true := by
    rw [hw]
    exact BusWr.plain_of_fields (show PageType.power ≠ .cue by decide) hfields hfree hoff.2
  obtain ⟨u, hu, hexec⟩ := exec_of_square (t := .power) hc rfl (by omega) ha hplain
  rw [hw] at hexec
  let w : BusWr := ⟨m, sqPage .power, f.off, .direct, f.off, v⟩
  have hempty : w.kept = [] := by
    have haction : actionField f = true := by rcases hcap with ⟨rfl, rfl⟩ | ⟨rfl, rfl⟩ <;> rfl
    show (PageType.power.fieldsAt f.off).filter _ = []
    rw [hfields]
    simp [haction]
  have hheard (armed : Bool) : Heard s (w.written u armed) :=
    ⟨(hu.mono (by decide)).trans ((w.written_same u armed).mono (by decide)), fun x =>
      (w.reg_written_readOnly (by rw [hempty]; exact fun g hg => absurd hg List.not_mem_nil) x).trans (hu.reg (by decide) x)⟩
  have hvalue (armed : Bool) : bitsOf (w.word u armed).toNat f.hi f.lo = if f.legalLo ≤ n ∧ n ≤ f.legalHi then n else s.fld powerPage f := by
    have hold : getField (u.reg (w.p.reg w.x)) f.hi f.lo = s.fld powerPage f := by
      have haddr : w.p.reg w.x = fieldAddr powerPage f 0 := by rw [fieldAddr, Nat.zero_mul]; rfl
      rw [haddr]
      exact hu.fld (by decide) powerPage f 0
    have hword := BusWr.getField_word (w := w) (s := u) (armed := armed) (f := f) (by show f ∈ PageType.power.fieldsAt f.off; rw [hfields]; simp)
    rw [BusWr.field_cap hcap rfl rfl, hold] at hword
    exact hword
  have hact (y : State) (armed : Bool) (k : Nat) : y.squareAct w armed k = y.capWrite limit (bitsOf k f.hi f.lo) := by
    rcases hcap with ⟨rfl, rfl⟩ | ⟨rfl, rfl⟩ <;> rfl
  rw [hact, hvalue] at hexec
  exact ⟨_, hheard _, hexec⟩

end Sys2Proof.Machine

namespace Sys2Proof.Machine

/-! ### Fences (R441): what leaves the power manager's lists, and FAULT_FENCE after a release -/

/-- The power manager with another re-test that is due. -/
def Power.due (p : Power) (r : Option Nat) : Power := { p with retest := r }

/-- Nothing of the power manager but a re-test that is due differs. -/
def State.PowerKept (a s : State) : Prop := ∃ r, s.power = a.power.due r

namespace State.PowerKept

variable {a s t : State}

theorem refl (s : State) : s.PowerKept s := ⟨_, rfl⟩

theorem trans (h : a.PowerKept s) (k : s.PowerKept t) : a.PowerKept t := by
  obtain ⟨r, hr⟩ := h
  obtain ⟨q, hq⟩ := k
  exact ⟨q, by rw [hq, hr]; rfl⟩

theorem of_eq (h : t.power = s.power) : s.PowerKept t := ⟨s.power.retest, h⟩

theorem triggerRetest (s : State) (reason : Nat) : s.PowerKept (s.triggerRetest reason) := ⟨_, rfl⟩

theorem perm (h : a.PowerKept s) : s.power.permFence = a.power.permFence := by
  obtain ⟨r, hr⟩ := h
  rw [hr]
  rfl

theorem temp (h : a.PowerKept s) : s.power.tempFence = a.power.tempFence := by
  obtain ⟨r, hr⟩ := h
  rw [hr]
  rfl

theorem twilight (h : a.PowerKept s) : s.power.twilight = a.power.twilight := by
  obtain ⟨r, hr⟩ := h
  rw [hr]
  rfl

theorem resetEnd (h : a.PowerKept s) : s.power.resetEnd = a.power.resetEnd := by
  obtain ⟨r, hr⟩ := h
  rw [hr]
  rfl

theorem dieReq (h : a.PowerKept s) : s.power.dieReq = a.power.dieReq := by
  obtain ⟨r, hr⟩ := h
  rw [hr]
  rfl

end State.PowerKept

/-- The parts of the state that the reset of a job and of its step's entries write. -/
def abortParts : List Part := [.freeCount, .regs, .mem, .hbmStacks, .bells, .loader, .looms, .sieves, .gates, .pairs, .sram, .reeves, .flight,
  .ferry, .faults, .out, .alm, .restarts]

theorem State.powerKept_abortHere (s : State) (j : Job) (code : Nat) : s.PowerKept (s.abortHere j code) := by
  have hreset (step : Option Nat) (k : Job) : State.SameBut abortParts s ((s.jobReset j.handle step).setJob k) :=
    State.setJob_same (State.jobReset_same (.refl _ s) (by decide)) (by decide)
  unfold State.abortHere
  split
  · exact .of_eq ((hreset (some noStep) _).power (by decide))
  · extract_lets waits s1 s2 s3 s4
    split
    · have hend : (s.endJobHere j code).power = s.power := (State.endJobHere_same (.refl _ s) (List.Subset.refl _)).power (by decide)
      exact .of_eq hend
    · have h4 : State.SameBut abortParts s s4 :=
        State.withRestarts_same (State.mapEntries_same (State.setStep_same (hreset _ _) (by decide)) (by decide)) (by decide)
      exact (PowerKept.of_eq (h4.power (by decide))).trans (.triggerRetest s4 1)

theorem State.powerKept_abortJob (s : State) (job code : Nat) : s.PowerKept (s.abortJob job code) := by
  unfold State.abortJob
  split
  · split
    · have htree {j f op c} : (s.jobTree j f op c).power = s.power := (State.jobTree_same (.refl _ s) (List.Subset.refl _)).power (by decide)
      exact (PowerKept.of_eq htree).trans (State.powerKept_abortHere _ _ _)
    · exact .refl s
  · exact .refl s

theorem powerKept_abortJobs (code : Nat) (jobs : List Nat) (s : State) : s.PowerKept (abortJobs code jobs s) := by
  induction jobs generalizing s with
  | nil => exact .refl s
  | cons j js ih => exact (s.powerKept_abortJob j code).trans (ih _)

/-- The lists of fences that a fence leaves: its die in the one it belongs to. -/
def State.fenceLists (s : State) (d reason : Nat) (temp : Bool) : Power :=
  if temp then { s.power with tempFence := (d, reason) :: s.power.tempFence } else { s.power with permFence := d :: s.power.permFence }

/-- A fence of a die that is not fenced puts it in one of the lists. -/
theorem State.power_fence {s : State} {d : Nat} (reason code : Nat) (temp : Bool) (h : s.fenced d = false) :
    ∃ r, (s.fence d reason code temp).power = (s.fenceLists d reason temp).due r := by
  unfold State.fence
  rw [if_neg (by simp [h])]
  extract_lets s1 s2 p s3 s4 s5
  obtain ⟨r, hr⟩ := powerKept_abortJobs code (s.jobsOn d) s
  have h3 : s3.power = (s.fenceLists d reason temp).due r := by
    have h2 : s2.power = s.power.due r := hr
    show (if temp = true then { s2.power with tempFence := (d, reason) :: s2.power.tempFence }
      else { s2.power with permFence := d :: s2.power.permFence }) = _
    rw [State.fenceLists, h2]
    cases temp <;> rfl
  have h5 : s5.power = s3.power :=
    ((State.evacuate_same (State.clearUnits_same (State.diePortsDown_same (.refl [.regs, .ferry, .out, .looms, .sieves, .gates, .sram, .reeves,
      .kats, .bells, .alm] s3) (by decide)) (by decide)) (by decide))).power (by decide)
  have hnote : (s5.fenceNote d temp).power = s5.power := (State.fenceNote_same (.refl _ s5) (List.Subset.refl _)).power (by decide)
  have hstates {u : State} : (noteStates s u).power = u.power := (noteStates_same (.refl _ u) (List.Subset.refl _)).power (by decide)
  obtain ⟨q, hq⟩ := PowerKept.triggerRetest (s5.fenceNote d temp) reason
  exact ⟨q, by rw [hstates, hq, hnote, h5, h3]; rfl⟩

/-- Taking the place value of a set bit clears that bit and borrows from no other. -/
theorem testBit_sub_two_pow {v d : Nat} (h : v.testBit d = true) (e : Nat) : (v - 2 ^ d).testBit e = (v.testBit e && e != d) := by
  have hle : 2 ^ d ≤ v := Nat.ge_two_pow_of_testBit h
  have hclear : (v - 2 ^ d).testBit d = false := by
    have := Nat.testBit_two_pow_add_eq (v - 2 ^ d) d
    rw [Nat.add_sub_cancel' hle, h] at this
    exact (Bool.not_eq_eq_eq_not.mp this.symm)
  have hadd := testBit_add_two_pow hclear e
  rw [Nat.sub_add_cancel hle] at hadd
  rw [hadd]
  by_cases he : e = d
  · subst he
    rw [hclear, bne_self_eq_false, Bool.and_false]
  · rw [beq_false_of_ne he, bne_iff_ne.mpr he, Bool.or_false, Bool.and_true]

namespace State

/-- The bit of a die in FAULT_FENCE is cleared, as the model clears it. -/
def subFence (s : State) (d : Nat) : State :=
  s.setFld (sqPage .fault) faultFence_fenced (s.fld (sqPage .fault) faultFence_fenced - 2 ^ d)

variable {s : State} {d e : Nat}

theorem fenced_subFence (he : e < 8) (h : s.fenced d = true) : (s.subFence d).fenced e = (s.fenced e && e != d) := by
  simp only [fenced, bitOf_eq_testBit] at h ⊢
  rw [subFence, fld_setFld _ _ _ _ _ (by decide) (by decide), Nat.testBit_mod_two_pow, testBit_sub_two_pow h]
  simp [he, faultFence_fenced]

/-- A die that neither list holds is fenced no more; no other die's fence ends. -/
theorem unfence_effect (s : State) (d : Nat) : s.PowerKept (s.unfence d) ∧ (s.unfence d).now = s.now
    ∧ ∀ e < 8, (s.unfence d).fenced e = (s.fenced e && (e != d || s.power.permFence.contains d || s.power.tempFence.any (·.1 == d))) := by
  have hnow : (s.unfence d).now = s.now := (State.unfence_same (.refl _ s) (List.Subset.refl _)).now (by decide)
  refine and_left_comm.mp ⟨hnow, ?_⟩
  unfold unfence
  split
  case isTrue h =>
    refine ⟨.refl s, fun e _ => ?_⟩
    by_cases hed : e = d
    · subst hed
      cases hf : s.fenced e
      · rfl
      · rw [hf] at h
        simpa using h.symm
    · simp [hed]
  case isFalse h =>
    simp only [Bool.or_eq_true, Bool.not_eq_true', not_or, Bool.not_eq_true, Bool.not_eq_false] at h
    obtain ⟨⟨hperm, htemp⟩, hfenced⟩ := h
    extract_lets t t1 t2
    have hrest (u : State) : u.PowerKept (if u.loader.jobs.any (·.state == .active) then u.triggerRetest 1 else u) := by
      split
      · exact .triggerRetest u 1
      · exact .refl u
    have hkept : s.PowerKept t2 := by
      have ht : t.power = s.power := (State.releaseNote_same (State.setFld_same (.refl [.regs, .ledger, .out] s) (by decide)) (by decide)).power (by decide)
      have ht1 : t1.power = t.power :=
        (same_ite (State.resetMap_same (.refl [.regs, .bells] t) (by decide)) (.refl _ t) : State.SameBut [.regs, .bells] t t1).power (by decide)
      exact (PowerKept.of_eq (ht1.trans ht)).trans (hrest t1)
    have hsteady : (s.subFence d).Steady t2 := by
      have ht : (s.subFence d).Steady t := (Steady.refl _).ledgerAdd _ _ _ _ _ _ _ _ _
      exact steady_ite ((steady_ite ht.resetMap ht).triggerRetest 1) (steady_ite ht.resetMap ht)
    refine ⟨hkept.trans (.of_eq ?_), fun e he => ?_⟩
    · exact (attnRise_same (noteStates_same (.refl [.regs, .out] t2) (by decide)) (by decide)).power (by decide)
    · rw [(hsteady.noteStates.attnRise _).fenced, fenced_subFence he hfenced, hperm, htemp]
      simp

/-- A fence of a die that is not fenced: its bit is set, and no other. -/
theorem fenced_fence (reason code : Nat) (temp : Bool) (h : s.fenced d = false) (he : e < 8) :
    (s.fence d reason code temp).fenced e = (s.fenced e || e == d) := by
  have habort : s.Steady (abortJobs code (s.jobsOn d) s) := (Steady.refl s).abortJobs code _
  rw [(fence_of_not_fenced reason code temp h).fenced, fenced_addFence he ((habort.fenced d).trans h), habort.fenced]

/-- Two states agree on the fences of a die. -/
structure FenceAgrees (d : Nat) (s t : State) : Prop where
  fenced : t.fenced d = s.fenced d
  perm : d ∈ t.power.permFence ↔ d ∈ s.power.permFence

/-- What a write of FAULT_FENCE that gives a die this bit does to its fences. -/
structure FenceWritten (bit : Bool) (d : Nat) (s t : State) : Prop where
  set : bit = true → t.fenced d = true ∧ (s.fenced d = false → d ∈ t.power.permFence)
  cleared : bit = false → d ∉ t.power.permFence
    ∧ (d ∈ s.power.permFence → (s.power.tempFence.any fun x => x.1 == d) = false → t.fenced d = false)
    ∧ (d ∉ s.power.permFence ∨ (s.power.tempFence.any fun x => x.1 == d) = true → t.fenced d = s.fenced d)

theorem FenceWritten.of_agrees {bit : Bool} {s s' t t' : State} (h : FenceWritten bit d s' t') (hs : FenceAgrees d s s')
    (htemp : s'.power.tempFence = s.power.tempFence) (ht : FenceAgrees d t' t) : FenceWritten bit d s t := by
  obtain ⟨hset, hcleared⟩ := h
  rw [hs.fenced, ← ht.fenced, ← ht.perm] at hset
  rw [hs.fenced, ← ht.fenced, ← ht.perm, hs.perm, htemp] at hcleared
  exact ⟨hset, hcleared⟩

/-- A die's part of a write of FAULT_FENCE. -/
def fenceBit (v : Nat) (s : State) (d : Nat) : State :=
  if bitOf v d then (if s.fenced d then s else s.fence d 1 0 false) else s.dropFence d

theorem fenceBit_set (s : State) (hd : d < 8) :
    let t := if s.fenced d then s else s.fence d 1 0 false
    t.power.tempFence = s.power.tempFence ∧ FenceWritten true d s t ∧ ∀ e < 8, e ≠ d → FenceAgrees e s t := by
  intro t
  simp only [t]
  split
  case isTrue h => exact ⟨rfl, ⟨fun _ => ⟨h, by simp [h]⟩, by simp⟩, fun _ _ _ => ⟨rfl, .rfl⟩⟩
  case isFalse h =>
    rw [Bool.not_eq_true] at h
    obtain ⟨r, hr⟩ := power_fence 1 0 false h
    have hperm : (s.fence d 1 0 false).power.permFence = d :: s.power.permFence := by rw [hr]; rfl
    refine ⟨by rw [hr]; rfl, ⟨fun _ => ⟨?_, fun _ => by rw [hperm]; exact List.mem_cons_self⟩, by simp⟩, fun e he hne => ⟨?_, ?_⟩⟩
    · simp [fenced_fence 1 0 false h hd]
    · rw [fenced_fence 1 0 false h he, beq_false_of_ne hne, Bool.or_false]
    · rw [hperm, List.mem_cons, or_iff_right hne]

theorem dropFence_effect (s : State) (hd : d < 8) :
    (s.dropFence d).power.tempFence = s.power.tempFence ∧ FenceWritten false d s (s.dropFence d)
      ∧ ∀ e < 8, e ≠ d → FenceAgrees e s (s.dropFence d) := by
  unfold dropFence
  split
  case isTrue h =>
    have hnot : d ∉ s.power.permFence := by simpa using h
    exact ⟨rfl, ⟨by simp, fun _ => ⟨hnot, fun hin => absurd hin hnot, fun _ => rfl⟩⟩, fun _ _ _ => ⟨rfl, .rfl⟩⟩
  case isFalse h =>
    have hin : d ∈ s.power.permFence := by simpa using h
    extract_lets p u
    have hgone : d ∉ u.power.permFence := by simp [u]
    have hstay (e : Nat) (hne : e ≠ d) : e ∈ u.power.permFence ↔ e ∈ s.power.permFence := by simp [u, hne]
    split
    case isTrue htemp =>
      have hnote : (u.releaseNote d).power = u.power := (State.releaseNote_same (.refl _ u) (List.Subset.refl _)).power (by decide)
      have hsteady : s.Steady (u.releaseNote d) := ((Steady.refl s).regs (State.withPower_regs _ _)).ledgerAdd _ _ _ _ _ _ _ _ _
      rw [hnote]
      refine ⟨rfl, ⟨by simp, fun _ => ⟨by rw [hnote]; exact hgone, fun _ hno => ?_, fun _ => hsteady.fenced d⟩⟩,
        fun e _ hne => ⟨hsteady.fenced e, by rw [hnote]; exact hstay e hne⟩⟩
      exact absurd (htemp.symm.trans hno) (by decide)
    case isFalse htemp =>
      obtain ⟨hkept, -, hfenced⟩ := u.unfence_effect d
      have hu (e : Nat) : u.fenced e = s.fenced e := rfl
      refine ⟨hkept.temp, ⟨by simp, fun _ => ⟨by rw [hkept.perm]; exact hgone, fun _ hno => ?_, fun hor => ?_⟩⟩,
        fun e he hne => ⟨by simp [hfenced e he, hne, hu], by rw [hkept.perm]; exact hstay e hne⟩⟩
      · rw [hfenced d hd]
        have htempu : (u.power.tempFence.any fun x => x.1 == d) = false := hno
        simp [htempu, hgone]
      · rcases hor with hno | hno
        · exact absurd hin hno
        · exact absurd hno htemp

theorem fenceBit_effect (v : Nat) (s : State) (hd : d < 8) :
    (fenceBit v s d).power.tempFence = s.power.tempFence ∧ FenceWritten (v.testBit d) d s (fenceBit v s d)
      ∧ ∀ e < 8, e ≠ d → FenceAgrees e s (fenceBit v s d) := by
  unfold fenceBit
  rw [bitOf_eq_testBit]
  cases hv : v.testBit d with
  | true =>
    rw [if_pos rfl]
    exact s.fenceBit_set hd
  | false =>
    rw [if_neg (by decide)]
    exact s.dropFence_effect hd

theorem fenceBits_effect (v : Nat) (ds : List Nat) (hnodup : ds.Nodup) (hds : ∀ d ∈ ds, d < 8) (s : State) :
    (ds.foldl (fenceBit v) s).power.tempFence = s.power.tempFence ∧ (∀ d ∈ ds, FenceWritten (v.testBit d) d s (ds.foldl (fenceBit v) s))
      ∧ ∀ e < 8, e ∉ ds → FenceAgrees e s (ds.foldl (fenceBit v) s) := by
  induction ds generalizing s with
  | nil => exact ⟨rfl, by simp, fun _ _ _ => ⟨rfl, .rfl⟩⟩
  | cons d ds ih =>
    obtain ⟨hnot, hnodup⟩ := List.nodup_cons.mp hnodup
    have hd : d < 8 := hds d List.mem_cons_self
    obtain ⟨htemp, hwritten, hothers⟩ := s.fenceBit_effect v hd
    obtain ⟨htemps, hrest, hkept⟩ := ih hnodup (fun e he => hds e (List.mem_cons_of_mem _ he)) (fenceBit v s d)
    refine ⟨htemps.trans htemp, fun e he => ?_, fun e he hno => ?_⟩
    · rcases List.mem_cons.mp he with rfl | he'
      · exact hwritten.of_agrees ⟨rfl, .rfl⟩ rfl (hkept e hd hnot)
      · have hne : e ≠ d := fun h => hnot (h ▸ he')
        exact (hrest e he').of_agrees (hothers e (hds e he) hne) htemp ⟨rfl, .rfl⟩
    · obtain ⟨hne, hno'⟩ := not_or.mp (mt List.mem_cons.mpr hno)
      have h1 := hothers e he hne
      have h2 := hkept e he hno'
      exact ⟨h2.fenced.trans h1.fenced, h2.perm.trans h1.perm⟩

/-- A write of FAULT_FENCE sets and ends permanent fences, die by die. -/
theorem fenceWrite_effect (s : State) (v : Nat) : (s.fenceWrite v).power.tempFence = s.power.tempFence
    ∧ ∀ d < 8, FenceWritten (v.testBit d) d s (s.fenceWrite v) := by
  obtain ⟨htemp, hdies, -⟩ := fenceBits_effect v (numsFrom 0 8) (by decide) (by decide) s
  exact ⟨htemp, fun d hd => hdies d (by revert d; decide)⟩

end State

end Sys2Proof.Machine

namespace Sys2Proof.Machine

/-- The value that the Watchman's armed write leaves to FAULT_FENCE. -/
theorem BusWr.field_faultFence {w : BusWr} {s : State} {old v : Nat} (hp : w.p = sqPage .fault) (hview : w.view = .direct)
    (hm : w.m = .watchman) (hv : v < 256) : w.field s true faultFence_fenced old v = v := by
  have hkept : w.merKept s true = false := by rw [merKept, hp]; rfl
  have hlegal : legalCode w.p faultFence_fenced v = true := by
    have : v ≤ 255 := by omega
    simp [legalCode, bne, this, faultFence_fenced, dmaCtrl_vector, ringCtrl_vector, faultCtrl_vector, hbmMarginCtrl_offset, kvPool_pages]
  have hstate : s.fieldKept w.p faultFence_fenced = false := by
    rw [hp]
    rfl
  rw [field_mayStore hkept (.inr (.inl ⟨rfl, rfl⟩)), takes_of_stores ⟨by rw [hview]; exact hlegal, hstate, .inl hm⟩, hview]
  rfl

/-- The Watchman's armed write of FAULT_FENCE is handed to the fault manager; it stores nothing of itself (R441). -/
theorem exec_faultFenceWrite {v : Word} {s : State} (ha : s.accepts .watchman (sqPage .fault) 0x04C = true)
    (harmed : s.guardMatches (landed .watchman (sqPage .fault) 0x04C v) = true) :
    ∃ u, Heard s u ∧ exec (.faultFenceWrite .watchman v) s = .next (u.fenceWrite (v.toNat % 256)) := by
  let w : BusWr := ⟨.watchman, sqPage .fault, 0x04C, .direct, 0x04C, v⟩
  have hw : landed .watchman (sqPage .fault) 0x04C v = w := landed_low _ _ (by decide) v
  have hfields : PageType.fault.fieldsAt 0x04C = [faultFence_fenced] := by decide
  have hr : resolve .watchman ((sqPage .fault).reg 0x04C) = some (sqPage .fault, 0x04C) := resolve_square _ rfl (by decide)
  rw [registerWritesTakeEffect (.faultFenceWrite .watchman v) _ _ _ v _ s rfl hr ha, hw, if_neg (by decide)]
  rw [hw] at harmed
  rw [harmed]
  generalize hu : s.withGuards _ = u
  have hguards : State.SameBut [.guards] s u := hu ▸ State.withGuards_same (.refl _ s) (List.Subset.refl _)
  have hempty : w.kept = [] := by
    show (PageType.fault.fieldsAt 0x04C).filter _ = []
    rw [hfields]
    rfl
  have hword : bitsOf (w.word u true).toNat 7 0 = v.toNat % 256 := by
    have hlow : getField v 7 0 = v.toNat % 256 := by simp [getField, bitsOf]
    have hrow := BusWr.getField_word (w := w) (s := u) (armed := true) (f := faultFence_fenced) (by
      show faultFence_fenced ∈ PageType.fault.fieldsAt 0x04C
      rw [hfields]
      exact List.mem_singleton.mpr rfl)
    rw [BusWr.field_faultFence rfl rfl rfl (getField_lt _ _ _)] at hrow
    exact hrow.trans hlow
  have happly : u.applyWrite w true = (w.written u true).fenceWrite (bitsOf (w.word u true).toNat 7 0) := rfl
  refine ⟨w.written u true, ⟨?_, fun x => ?_⟩, by rw [happly, hword]⟩
  · exact (hguards.mono (by decide)).trans ((w.written_same u true).mono (by decide))
  · exact (w.reg_written_readOnly (by rw [hempty]; exact fun g hg => absurd hg List.not_mem_nil) x).trans (hguards.reg (by decide) x)

/-- Settles O13: each write reaches its unit with the fields written. DIE_CMD, a cap and FAULT_FENCE are then cases of the power
manager's and the fault manager's own rules. -/
theorem powerWritesAct : Obligations.PowerWritesAct := by
  refine ⟨fun m v s => ⟨fun ha hnight => ?night, fun ha => ?dieCmd, fun ha harmed => ?fence⟩,
    fun m v s limit x lo hi w c f hrow ha => ?cap⟩
  case night =>
    obtain ⟨u, hu, hexec⟩ := exec_nightwatchRequest ha
    have hasked : u.requestNight = (u.setFld powerPage powerCtrl_nightwatch 1).withBoard { u.board with night := 1 } := by
      have hn : u.board.night = 0 := by rw [hu.board (by decide)]; exact hnight
      unfold State.requestNight
      rw [if_pos hn]
    refine ⟨_, hexec, ?_, ?_⟩
    · rw [hasked, ← hu.board (by decide)]
      rfl
    · rw [hasked]
      exact State.fld_setFld _ _ _ _ _ (by decide) (by decide)
  case dieCmd =>
    intro die op
    obtain ⟨u, hu, hexec⟩ := exec_dieCmdWrite (v := v) ha
    obtain ⟨hsame, hregs⟩ := State.dieCmd_effect hu die op
    have hpower : u.power = s.power := hu.1.power (by decide)
    have hrefused : u.twilightRefused die = true ↔ s.fenced die = true ∨ s.isReserve die = true ∨ s.liveDies = [die] := by
      rw [State.twilightRefused_iff, hu.fenced, hu.isReserve, hu.liveDies]
    refine ⟨_, hexec, hsame, hregs, fun hbusy => ?_, fun hfree => ⟨fun hop => ?_, fun hop hno => ?_, fun hop => ?_⟩⟩
    · rw [State.dieCmd_of_busy _ _ ((hu.fld _ _).trans hbusy)]
      exact ⟨hpower, State.fld_setFld _ _ _ _ _ (by decide) (by decide)⟩
    · have hnone : u.dieCmd die op = u := by
        rw [State.dieCmd, if_neg (by rw [hu.fld]; omega), if_pos (by simpa using hop)]
      rw [show v.toNat % 8 = die from rfl, show v.toNat / 16 % 4 = op from rfl, hnone]
      exact hu
    · rw [show v.toNat / 16 % 4 = 1 from hop, State.dieCmd_refused ((hu.fld _ _).trans hfree) (hrefused.mpr hno)]
      exact ⟨hpower, State.fld_dieStatus_busy _ _ _, State.fld_dieStatus_result _ _ _⟩
    · have hmay : op = 2 ∨ op = 1 ∧ u.twilightRefused die = false := by
        refine hop.imp_right fun ⟨h1, hf, hr, hl⟩ => ⟨h1, ?_⟩
        rw [← Bool.not_eq_true, hrefused]
        simp [hf, hr, hl]
      rw [show v.toNat % 8 = die from rfl, show v.toNat / 16 % 4 = op from rfl, State.dieCmd_taken ((hu.fld _ _).trans hfree) hmay]
      refine ⟨by rw [← hpower]; rfl, State.fld_dieStatus_busy _ _ _, (State.fld_dieStatus_result _ _ _).trans ?_⟩
      have hwaits : u.twilightWaits die = s.named die [1, 2, 3, 4, 5] := hu.named die _
      rw [hwaits]
      simp only [Bool.and_eq_true, decide_eq_true_eq]
      split <;> rfl
  case fence =>
    obtain ⟨u, hu, hexec⟩ := exec_faultFenceWrite ha harmed
    obtain ⟨htemp, hdies⟩ := u.fenceWrite_effect (v.toNat % 256)
    have hpower : u.power = s.power := hu.1.power (by decide)
    refine ⟨_, hexec, htemp.trans (by rw [hpower]), fun d hd => ?_⟩
    have hbit : (v.toNat % 256).testBit d = v.toNat.testBit d := by
      rw [show 256 = 2 ^ 8 from rfl, Nat.testBit_mod_two_pow]
      simp [hd]
    obtain ⟨hset, hcleared⟩ := hdies d hd
    rw [hbit, hu.fenced] at hset hcleared
    rw [hpower] at hcleared
    exact ⟨hset, hcleared⟩
  case cap =>
    intro val old
    have hcap : isCap limit f ∧ f.off = x ∧ f.legalLo = lo ∧ f.legalHi = hi ∧ 2 ^ (f.hi + 1 - f.lo) = w ∧ getField v f.hi f.lo = val
        ∧ busOf c = some (m, powerPage.reg f.off, v) := by
      simp only [List.mem_cons, List.not_mem_nil, or_false, Prod.mk.injEq] at hrow
      rcases hrow with ⟨rfl, rfl, rfl, rfl, rfl, rfl, rfl⟩ | ⟨rfl, rfl, rfl, rfl, rfl, rfl, rfl⟩
      · exact ⟨.inl ⟨rfl, rfl⟩, rfl, rfl, rfl, rfl, bitsOf_low _ _, rfl⟩
      · exact ⟨.inr ⟨rfl, rfl⟩, rfl, rfl, rfl, rfl, bitsOf_low _ _, rfl⟩
    obtain ⟨hcap, hx, hlo, hhi, hw, hval, hbus⟩ := hcap
    obtain ⟨u, hu, hexec⟩ := exec_of_cap hcap hbus (by rw [hx]; exact ha)
    rw [hval, hlo, hhi] at hexec
    have hold : u.fld powerPage f = old := hu.fld powerPage f
    have hpower : u.power = s.power := hu.1.power (by decide)
    have haclk : u.aclkMhz = s.aclkMhz := hu.fld _ _
    have hstatus (g : FieldRow) : u.fld powerPage g = s.fld powerPage g := hu.fld _ _
    have haddr : fieldAddr powerPage f 0 = powerPage.reg x := by rw [fieldAddr, Nat.zero_mul, hx]; rfl
    refine ⟨fun hout => ⟨_, hexec, ?_⟩, fun hge hle => ⟨_, (capTarget limit val u.freeCount).1, (capTarget limit val u.freeCount).2, hexec, ?_⟩⟩
    · rw [if_neg (by omega)]
      obtain ⟨hsame, -⟩ := State.capWrite_same_value hcap hold.symm 0
      exact ⟨hu.1.trans (hsame.mono (by decide)), fun a => (State.capWrite_same_value hcap hold.symm a).2.trans (hu.2 a)⟩
    · rw [if_pos ⟨hge, hle⟩]
      have hsame : State.SameBut [.guards, .regs, .power, .freeCount] u (u.capWrite limit val) := State.capWrite_same (.refl _ u) (by decide)
      have hfits : val < 2 ^ (f.hi + 1 - f.lo) := by
        rw [hw]
        exact Nat.mod_lt _ (by rw [← hw]; exact Nat.two_pow_pos _)
      refine ⟨State.capWrite_stores hcap hfits, capTarget_ok _ _ _, (hu.1.mono (by decide)).trans hsame, fun he => ?_, fun hlt => ?_, fun hlt => ?_⟩
      · obtain ⟨hone, -⟩ := State.capWrite_same_value hcap (he.trans hold.symm) 0
        exact ⟨hu.1.trans (hone.mono (by decide)), fun a _ => (State.capWrite_same_value hcap (he.trans hold.symm) a).2.trans (hu.2 a)⟩
      · have := State.capWrite_lower hcap (hold ▸ hlt)
        rw [hstatus, hstatus, haclk, hpower] at this
        exact this
      · have := State.capWrite_raise hcap (hold ▸ hlt)
        rw [hstatus, hstatus, hpower] at this
        exact this

end Sys2Proof.Machine

namespace Sys2Proof.Machine

/-! ### States of a die and of the package (R451 to R454) -/

theorem State.up_night {s : State} (h : s.up = true) : s.board.night ≠ 2 := by
  simp only [State.up, Bool.and_eq_true, bne_iff_ne] at h
  obtain ⟨⟨-, hnight⟩, -⟩ := h
  exact hnight

/-- A die enters TWILIGHT: the power manager's lists. -/
theorem State.power_enterTwilight (s : State) (d : Nat) :
    d ∈ (s.enterTwilight d).power.twilight ∧ (s.enterTwilight d).power.dieReq = none := by
  have hlists (b u : State) (p : Power) : (noteStates b (u.withPower p)).power = p :=
    (noteStates_same (.refl [.regs, .out] (u.withPower p)) (List.Subset.refl _)).power (by decide)
  rw [State.enterTwilight, hlists]
  exact ⟨List.mem_cons_self, rfl⟩

/-- Settles O25: each clause is one branch of its command. -/
theorem dieStatesChange : Obligations.DieStatesChange := by
  intro d s hup
  refine ⟨fun hen hlive hday hidle hnamed => ?dusk, fun hreq hfaults htwi href hwait => ?enter, fun hreq hfaults htwi href => ?refused,
    fun hreq hfaults htwi href hwait => ?waits, fun hreq htwi => ?daylight⟩
  case dusk =>
    have hexec : exec (.duskEntry d) s = .next (noteStates s (s.withPower { s.power with dusk := d :: s.power.dusk })) := by
      show execDuskEntry d s = _
      rw [execDuskEntry, if_pos (by simp [hup, hen, hlive, hday, hidle, hnamed])]
    have hnote (u : State) : State.SameBut [.regs, .out] u (noteStates s u) := noteStates_same (.refl _ u) (List.Subset.refl _)
    exact ⟨_, hexec, (hnote _).power (by decide), (State.withPower_same (.refl _ s) (by decide)).trans ((hnote _).mono (by decide))⟩
  case enter =>
    obtain ⟨htwilight, hnone⟩ := s.power_enterTwilight d
    refine ⟨(s.enterTwilight d).dieStatus 0 0, ?_, List.contains_iff_mem.mpr htwilight, hnone, State.fld_dieStatus_busy _ _ _,
      State.fld_dieStatus_result _ _ _⟩
    show execTwilight s = _
    simp [execTwilight, hreq, hup, hfaults, htwi, href, hwait]
  case refused =>
    refine ⟨(s.withPower { s.power with dieReq := none }).dieStatus 0 2, ?_, rfl, State.fld_dieStatus_busy _ _ _,
      State.fld_dieStatus_result _ _ _, State.dieStatus_same (State.withPower_same (.refl _ s) (by decide)) (by decide)⟩
    show execTwilight s = _
    simp [execTwilight, hreq, hup, hfaults, htwi, href]
  case waits =>
    refine ⟨s.dieStatus 1 1, ?_, State.fld_dieStatus_busy _ _ _, State.fld_dieStatus_result _ _ _,
      State.dieStatus_same (.refl _ s) (by decide)⟩
    show execTwilight s = _
    simp [execTwilight, hreq, hup, hfaults, htwi, href, hwait]
  case daylight =>
    let u := (s.withPower { s.power with dieReq := none }).dieStatus 0 0
    let v := u.withPower { u.power with twilight := u.power.twilight.filter (· != d) }
    let w := noteStates u (setRefresh 0 [2 * d, 2 * d + 1] (v.clearDie clrT d))
    have hexec : exec .daylight s = .next (if w.loader.jobs.any (·.state == .active) then w.triggerRetest 1 else w) := by
      show execDaylight s = _
      have hin : u.inTwilight d = true := htwi
      unfold execDaylight
      rw [hreq]
      exact (if_neg (by simp [hup])).trans (if_pos hin)
    have hw : w.power = v.power :=
      (noteStates_same (setRefresh_same (State.clearDie_same (.refl [.regs, .guards, .latch, .snaps, .out] v) (by decide)) (by decide)) (by decide)).power
        (by decide)
    have hlists : w.inTwilight d = false ∧ w.power.dieReq = none := by
      rw [State.inTwilight, hw]
      exact ⟨by simp [v], rfl⟩
    refine ⟨_, hexec, ?_⟩
    split <;> exact hlists

theorem State.linkLost_link (s : State) : s.linkLost.board.link = false := by
  cases h : s.board.link with
  | false =>
    have he : s.linkLost = s := if_neg (by simp [h])
    rw [he, h]
  | true => rw [linkLost_board h]

/-- The package leaves NIGHTWATCH: the board and the power manager. -/
theorem State.leaveNight_board (s : State) : s.leaveNight.board = { s.board with night := 0 } ∧ s.leaveNight.power = { s.power with dusk := [] } := by
  unfold State.leaveNight
  extract_lets before bad c v p b w
  have hv : State.SameBut [.regs, .guards, .latch, .snaps] s v :=
    setTrained_same (State.clearGuards_same (State.clearRegs_same (.refl [.regs, .guards, .latch, .snaps] s) (by decide)) (by decide)) (by decide)
  have hw : State.SameBut [.regs, .out] ((v.withPower { v.power with dusk := [] }).withBoard { v.board with night := 0 }) w :=
    noteStates_same (.refl _ _) (List.Subset.refl _)
  have hlast : State.SameBut [.regs, .mer] w (w.setFld powerPage powerCtrl_nightwatch 0).merWake.checkReady :=
    State.checkReady_same (State.merWake_same (State.setFld_same (.refl _ w) (by decide)) (by decide)) (by decide)
  rw [hlast.board (by decide), hlast.power (by decide), hw.board (by decide), hw.power (by decide)]
  constructor
  · show { v.board with night := 0 } = { s.board with night := 0 }
    rw [hv.board (by decide)]
  · show { v.power with dusk := [] } = { s.power with dusk := [] }
    rw [hv.power (by decide)]

theorem State.leaveNight_kept (s : State) :
    State.SameBut [.board, .regs, .guards, .latch, .snaps, .mer, .power, .out] s s.leaveNight := State.leaveNight_same (.refl _ s) (List.Subset.refl _)

/-- Settles O26: the entry loses the link and stops the pairs and the bridges; both ways out leave alike. -/
theorem nightwatchIsEnteredAndLeft : Obligations.NightwatchIsEnteredAndLeft := by
  intro s
  refine ⟨fun hup hnight halm hdma hfaults => ?entry, fun hnight hon => ⟨?wake, fun hkeep hset => ?transit⟩⟩
  case entry =>
    show ∃ t, execNightwatchEntry s = .next t ∧ _
    rw [execNightwatchEntry, if_neg (by simp [hup, hnight, halm, hdma, hfaults])]
    extract_lets u v w x
    have hu : State.SameBut [.board, .regs, .looms, .sieves, .gates, .sram, .reeves, .kats, .ferry, .out] s u :=
      State.linkLost_same (allPortsDown_same (.refl _ s) (by decide)) (by decide)
    have hw : State.SameBut [.regs, .mer] u w := State.merRebase_same (setRefresh_same (.refl _ u) (by decide)) (by decide)
    have hlink : w.board.link = false := by
      rw [hw.board (by decide)]
      simp only [u]
      exact State.linkLost_link _
    have hmem : w.mem = s.mem := (hw.mem (by decide)).trans (hu.mem (by decide))
    have hloader : w.loader = s.loader := (hw.loader (by decide)).trans (hu.loader (by decide))
    clear_value w
    exact ⟨_, rfl, rfl, hlink, rfl, rfl, hmem, hloader⟩
  case wake =>
    have hexec : exec .wakeN s = .next s.leaveNight := by
      show execWakeN s = _
      simp [execWakeN, hnight, hon]
    obtain ⟨hboard, hpower⟩ := s.leaveNight_board
    exact ⟨_, hexec, hboard, hpower, s.leaveNight_kept.mem (by decide), s.leaveNight_kept.loader (by decide)⟩
  case transit =>
    let u := s.advanceTo s.nwWake
    have hexec : exec .nwWakeTransit s = .next u.leaveNight := by
      show execNwWakeTransit s = _
      simp [execNwWakeTransit, hnight, hon, hkeep, hset, u]
    have hu : State.SameBut [.now, .regs, .out] s u := State.advanceTo_same (.refl _ s) (List.Subset.refl _)
    obtain ⟨hboard, -⟩ := u.leaveNight_board
    refine ⟨_, hexec, by rw [hboard], ?_, ?_⟩
    · exact (u.leaveNight_kept.mem (by decide)).trans (hu.mem (by decide))
    · exact (u.leaveNight_kept.loader (by decide)).trans (hu.loader (by decide))

end Sys2Proof.Machine

namespace Sys2Proof.Machine

/-! ### Trips, droops and the end of a temporary fence (R441, R456, R465) -/

/-- A reset by letters leaves a register of a page that it spares, where that differs from its reset value. -/
theorem State.clearRegs_reg {s : State} {ls a off : Nat} {which : Page → Bool} {p : Page} (hp : pageAt a = some (p, off))
    (hspared : which p = false) (h : s.reg a ≠ resetWord a) : (s.clearRegs ls which).reg a = s.reg a := by
  let g (a : Nat) (w : Word) : Word := match pageAt a with
    | some (p, off) => if which p then p.type.clearWord ls off w else w
    | none => w
  have hg (w : Word) : g a w = w := by
    simp only [g, hp]
    exact if_neg (by simp [hspared])
  exact (SMap.getF_mapF (g := g) (hg _) (by rw [hg]; exact h)).trans (hg _)

/-- The parts of the state that a clearing of a die writes. -/
def clearParts : List Part := [.regs, .guards, .latch, .snaps, .bells, .alm, .looms, .sieves, .gates, .sram, .reeves, .kats, .ferry, .out]

/-- The record and the re-test that end a CROFT reset leave the power manager's lists, the time and FAULT_FENCE. -/
theorem State.croftNoted_kept (before u : State) (d reason : Nat) :
    let t := noteStates before ((u.ledgerAdd 7 68 (some (diePage .croftCtrl d)) d 0 0 0 0 0).triggerRetest reason)
    u.PowerKept t ∧ t.now = u.now ∧ u.Steady t := by
  have hledger : State.SameBut [.regs, .ledger, .out] u (u.ledgerAdd 7 68 (some (diePage .croftCtrl d)) d 0 0 0 0 0) :=
    State.ledgerAdd_same (.refl _ u) (List.Subset.refl _)
  have hsteady : u.Steady (u.ledgerAdd 7 68 (some (diePage .croftCtrl d)) d 0 0 0 0 0) := (Steady.refl u).ledgerAdd _ _ _ _ _ _ _ _ _
  generalize u.ledgerAdd 7 68 (some (diePage .croftCtrl d)) d 0 0 0 0 0 = v at hledger hsteady
  have hnote (x : State) : State.SameBut [.regs, .out] x (noteStates before x) := noteStates_same (.refl _ x) (List.Subset.refl _)
  refine ⟨?_, ((hnote _).now (by decide)).trans (hledger.now (by decide)), (hsteady.triggerRetest reason).noteStates⟩
  exact ((PowerKept.of_eq (hledger.power (by decide))).trans (.triggerRetest v reason)).trans (.of_eq ((hnote _).power (by decide)))

/-- The jobs of a die are stopped and its units cleared, as a CROFT reset does it. -/
def State.croftStopped (s : State) (d : Nat) : State :=
  let s := abortJobs 0 (s.jobsOn d) s
  let s := if (s.logicalsOf d).isEmpty then s else s.evacuate d
  let s := (s.diePortsDown d).clearUnits d
  s.withBells (SMap.keep (fun k => k / 4096 != d) s.bells)

theorem State.croftStopped_kept (s : State) (d : Nat) : s.PowerKept (s.croftStopped d) ∧ s.Steady (s.croftStopped d) := by
  unfold State.croftStopped
  extract_lets s1 s2 s3
  have h1 : s.PowerKept s1 := powerKept_abortJobs 0 _ s
  have k1 : s.Steady s1 := (Steady.refl s).abortJobs 0 _
  clear_value s1
  have h2 : State.SameBut clearParts s1 s2 := same_ite (.refl _ _) (State.evacuate_same (.refl _ _) (by decide))
  have k2 : s.Steady s2 := steady_ite k1 (k1.evacuate d)
  clear_value s2
  have h3 : State.SameBut clearParts s2 s3 := State.clearUnits_same (State.diePortsDown_same (.refl _ _) (by decide)) (by decide)
  have k3 : s.Steady s3 := (k2.diePortsDown d).clearUnits d
  clear_value s3
  have h4 : State.SameBut clearParts s1 (s3.withBells (SMap.keep (fun k => k / 4096 != d) s3.bells)) :=
    State.withBells_same (h2.trans h3) (by decide)
  exact ⟨h1.trans (.of_eq (h4.power (by decide))), k3.regs (State.withBells_regs _ _)⟩

/-- The reset of a die's registers does not end a fence. -/
theorem State.fenced_clearDie {s : State} {ls d e : Nat} (h : s.fenced e = true) : (s.clearDie ls d).fenced e = true := by
  have hword : (s.clearDie ls d).reg ((sqPage .fault).reg 0x04C) = s.reg ((sqPage .fault).reg 0x04C) := by
    refine State.clearRegs_reg (p := sqPage .fault) (off := 0x04C) (by decide) (by simp [ofDie, sqPage]) fun hreset => ?_
    have hzero : getField (resetWord ((sqPage .fault).reg 0x04C)) 7 0 = 0 := by decide +kernel
    have hbit : bitOf (getField (s.reg ((sqPage .fault).reg 0x04C)) 7 0) e = true := h
    rw [hreset, hzero] at hbit
    simp [bitOf] at hbit
  exact (congrArg (fun w : Word => bitOf (getField w 7 0) e) hword).trans h

/-- The registers of a die are reset, and its reset's end is set. -/
def State.croftCleared (u : State) (d : Nat) : State :=
  (u.clearDie 16 d).withPower { u.power with dusk := u.power.dusk.filter (· != d), resetEnd := SMap.set 0 d (u.now + croftNs) u.power.resetEnd }

theorem State.croftCleared_temp (u : State) (d : Nat) : (u.croftCleared d).power.tempFence = u.power.tempFence := rfl

theorem State.croftCleared_perm (u : State) (d : Nat) : (u.croftCleared d).power.permFence = u.power.permFence := rfl

theorem State.croftCleared_end (u : State) (d : Nat) : SMap.get 0 (u.croftCleared d).power.resetEnd d = u.now + croftNs :=
  SMap.get_set_same 0 u.power.resetEnd d (u.now + croftNs)

theorem State.croftCleared_now (u : State) (d : Nat) : (u.croftCleared d).now = u.now :=
  (State.clearDie_same (.refl _ u) (List.Subset.refl _) : State.SameBut _ u (u.clearDie 16 d)).now (by decide)

theorem State.fenced_croftCleared {u : State} {d e : Nat} (h : u.fenced e = true) : (u.croftCleared d).fenced e = true :=
  (State.fenced_clearDie h : (u.clearDie 16 d).fenced e = true)

theorem State.croftReset_eq (s : State) (d reason : Nat) : s.croftReset d reason = noteStates s
    ((((s.croftStopped d).croftCleared d).ledgerAdd 7 68 (some (diePage .croftCtrl d)) d 0 0 0 0 0).triggerRetest reason) := rfl

/-- A CROFT reset: the die resets from now, its fences stay, and so does FAULT_FENCE where it fences a die. -/
theorem State.croftReset_effect (s : State) (d reason : Nat) :
    (s.croftReset d reason).power.tempFence = s.power.tempFence ∧ (s.croftReset d reason).power.permFence = s.power.permFence
      ∧ (s.croftReset d reason).resetting d = true ∧ ∀ e, s.fenced e = true → (s.croftReset d reason).fenced e = true := by
  have hpos : 0 < croftNs := by
    unfold croftNs
    omega
  obtain ⟨hpower, hsteady⟩ := s.croftStopped_kept d
  rw [State.croftReset_eq]
  generalize s.croftStopped d = u at hpower hsteady
  obtain ⟨hkept, hnow, hfault⟩ := State.croftNoted_kept s (u.croftCleared d) d reason
  generalize noteStates s _ = t at hkept hnow hfault
  refine ⟨hkept.temp.trans ((u.croftCleared_temp d).trans hpower.temp), hkept.perm.trans ((u.croftCleared_perm d).trans hpower.perm), ?_,
    fun e he => (hfault.fenced e).trans (State.fenced_croftCleared ((hsteady.fenced e).trans he))⟩
  rw [State.resetting, hnow, hkept.resetEnd, State.croftCleared_now, State.croftCleared_end]
  exact decide_eq_true (Nat.lt_add_of_pos_right hpos)

theorem pageAt_power : pageAt powerPage.base = some (powerPage, 0) := by decide

/-- The fault manager records a trip or a droop, and does no more of its own. -/
theorem State.handleFault_protect {s : State} {code : Nat} (info : Word) (now : Nat) (hcode : code = 0x48 ∨ code = 0x49) :
    s.handleFault ⟨code, powerPage.base, info, none, 0, now⟩ = s.recordFault ⟨code, powerPage.base, info, none, 0, now⟩ powerPage := by
  unfold State.handleFault
  rw [pageAt_power]
  rcases hcode with rfl | rfl <;> rfl

/-- The capture of a trip or a droop leaves FAULT_FENCE. -/
theorem State.steady_protect {s : State} {code unit value : Nat} {bit : FieldRow} (hcode : code = 0x48 ∨ code = 0x49) (hbit : bit.offTrain = true) :
    s.Steady (s.protect code unit value bit) := by
  unfold State.protect
  extract_lets info u
  have hcapture : s.Steady (s.capture powerPage code info) := by
    unfold State.capture
    extract_lets w
    have hcodeReg : ¬ TrainReg (powerPage.reg 0x024) := not_trainReg_of_off _ (by decide) (by decide) (by decide)
    have hinfoReg : ¬ TrainReg (powerPage.reg 0x028) := not_trainReg_of_off _ (by decide) (by decide) (by decide)
    exact steady_ite (.refl s) (steady_ite (((Steady.refl s).setReg hcodeReg _).setReg hinfoReg _) ((Steady.refl s).setReg hcodeReg _))
  have hu : s.Steady u := by
    simp only [u]
    rw [State.handleFault_protect _ _ hcode]
    unfold State.recordFault
    extract_lets f step pg s1 s2 s3 s4
    have h1 : s.Steady s1 := (hcapture.bump rfl).event rfl
    have h2 : s.Steady s2 := (h1.setFld rfl _).setFld rfl _
    have h3 : s.Steady s3 := ((h2.setFld rfl _).setFld rfl _).setFld rfl _
    exact ((h3.setFld rfl _).setFld rfl _).ledgerAdd _ _ _ _ _ _ _ _ _
  exact (hu.bump rfl).event hbit

theorem State.dieLive_of_fenced {s : State} {d : Nat} (h : s.fenced d = true) : s.dieLive d = false := by simp [State.dieLive, h]

/-- A temporary fence of a die that is not fenced. -/
theorem State.fence_temporary {u : State} {d : Nat} (reason code : Nat) (hd : d < 8) (h : u.fenced d = false) :
    (d, reason) ∈ (u.fence d reason code true).power.tempFence ∧ (u.fence d reason code true).fenced d = true
      ∧ (u.fence d reason code true).dieLive d = false := by
  obtain ⟨r, hr⟩ := State.power_fence reason code true h
  obtain ⟨-, hfenced⟩ := u.fence_fences hd reason code true
  refine ⟨?_, hfenced, State.dieLive_of_fenced hfenced⟩
  rw [hr]
  exact List.mem_cons_self

/-! #### The Square die (R465) -/

theorem ne_hostPage_reg {a : Nat} (ha : a < 0x20000) (f x : Nat) : a ≠ (hostPage f).reg x := by
  simp only [Page.reg, Page.base, hostPage]
  omega

theorem setLinks_reg (v : Nat) (fs : List Nat) (s : State) {a : Nat} (ha : a < 0x20000) : (setLinks v fs s).reg a = s.reg a := by
  induction fs generalizing s with
  | nil => rfl
  | cons f fs ih =>
    exact (ih _).trans (State.reg_setReg_other _ _ (ne_hostPage_reg ha f _))

theorem linkDowns_reg (fs : List Nat) (s : State) (hfs : ∀ f ∈ fs, f < 32) {a : Nat} (ha : a < 0x20000) : (linkDowns fs s).reg a = s.reg a := by
  have hmsg : isMsgReg a = false := by simp [isMsgReg]; omega
  induction fs generalizing s with
  | nil => rfl
  | cons f fs ih =>
    have hf := hfs f List.mem_cons_self
    refine (ih _ fun g hg => hfs g (List.mem_cons_of_mem _ hg)).trans (State.event_reg ?_ hmsg (ne_hostPage_reg ha f _))
    rw [hostPage_attnGroup]
    exact hf

/-- The loss of the link leaves the pages of the Square range but WM_ALERT. -/
theorem State.linkLost_reg (s : State) {a : Nat} (ha : a < 0x20000) (hne : a ≠ fieldAddr (sqPage .watchman) wmAlert_hostLink 0) :
    s.linkLost.reg a = s.reg a := by
  unfold State.linkLost
  split
  · refine (State.alert_reg _ _ hne).trans ((linkDowns_reg _ _ (fun f hf => ?_) ha).trans (setLinks_reg _ _ _ ha))
    have := mem_numsFrom.mp hf
    omega
  · rfl

theorem State.ledgerAdd_reg (s : State) (kind code : Nat) (page : Option Page) (unit info job function step extra : Nat) {a : Nat}
    (hne : a ≠ fieldAddr (sqPage .watchman) wmAlert_fault 0) :
    (s.ledgerAdd kind code page unit info job function step extra).reg a = s.reg a := by
  unfold State.ledgerAdd
  extract_lets r u
  have hu : u.reg a = s.reg a := by simp only [u, State.reg, State.withLedger_regs]
  clear_value u
  split
  · exact (u.alert_reg _ hne).trans hu
  · split
    · exact (u.alert_reg wmAlert_withdrawal hne).trans hu
    · exact hu

theorem State.failSquare_reg (s : State) (code info : Nat) (page : Page) {a : Nat} (ha : a < 0x20000)
    (hne : a ≠ fieldAddr (sqPage .watchman) wmAlert_hostLink 0) : (s.failSquare code info page).reg a = s.reg a := by
  have hrecord := s.ledgerAdd_reg 1 code (some page) 32 info 0 0 0 0 hne
  have hlost := (s.ledgerAdd 1 code (some page) 32 info 0 0 0 0).linkLost_reg ha hne
  unfold State.failSquare
  generalize (s.ledgerAdd 1 code (some page) 32 info 0 0 0 0).linkLost = u at hlost
  exact hlost.trans hrecord

theorem State.failSquare_board (s : State) (code info : Nat) (page : Page) :
    (s.failSquare code info page).board.squareFail = true ∧ (s.failSquare code info page).board.link = false := by
  have hlink := State.linkLost_link (s.ledgerAdd 1 code (some page) 32 info 0 0 0 0)
  unfold State.failSquare
  generalize (s.ledgerAdd 1 code (some page) 32 info 0 0 0 0).linkLost = u at hlink
  exact ⟨rfl, hlink⟩

/-- The detail of a trip or a droop of the Square die, as FAULT_INFO of the POWER page keeps it. -/
theorem squareInfo_fields {value : Nat} (h : value < 256) :
    getField (infoOf [(32, 0), (value, 8)] &&& fieldMask (fun _ => true) 0x028 PageType.power.ownFields) 5 0 = 32
      ∧ getField (infoOf [(32, 0), (value, 8)] &&& fieldMask (fun _ => true) 0x028 PageType.power.ownFields) 15 8 = value := by
  revert value
  decide +kernel

/-- A trip or a droop of the Square die is counted, captured where nothing is captured yet, and fails the die. -/
theorem State.protectSquare_effect (s : State) {code value : Nat} {bit : FieldRow} (hcode : code < 256) (hvalue : value < 256)
    (hbit : bit.off = 0x018) :
    (s.protectSquare code value bit).board.squareFail = true ∧ (s.protectSquare code value bit).board.link = false
      ∧ (s.protectSquare code value bit).fld powerPage tripCount_count = (s.fld powerPage tripCount_count + 1) % 2 ^ 32
      ∧ (getField (s.reg (powerPage.reg 0x024)) 31 31 = 0 →
        getField ((s.protectSquare code value bit).reg (powerPage.reg 0x024)) 7 0 = code
          ∧ getField ((s.protectSquare code value bit).reg (powerPage.reg 0x028)) 5 0 = 32
          ∧ getField ((s.protectSquare code value bit).reg (powerPage.reg 0x028)) 15 8 = value) := by
  unfold State.protectSquare
  extract_lets info u
  obtain ⟨hfail, hlink⟩ := ((u.bump powerPage tripCount_count).event powerPage bit).failSquare_board code info.toNat powerPage
  have hbitAddr : fieldAddr powerPage bit 0 = 0x7018 := by rw [fieldAddr, hbit, Nat.zero_mul]; rfl
  have hafter (a : Nat) (ha : a ∈ [0x7024, 0x7028, 0x7074]) :
      (((u.bump powerPage tripCount_count).event powerPage bit).failSquare code info.toNat powerPage).reg a = (u.bump powerPage tripCount_count).reg a := by
    have hrow : a < 0x20000 ∧ a ≠ fieldAddr (sqPage .watchman) wmAlert_hostLink 0 ∧ isMsgReg a = false ∧ a ≠ 0x7018 := by
      revert a
      decide
    obtain ⟨hlow, hwm, hmsg, hne⟩ := hrow
    exact (State.failSquare_reg _ _ _ _ hlow hwm).trans (State.event_reg (by decide) hmsg (by rw [hbitAddr]; exact hne))
  have hcapture (a : Nat) (ha : a ≠ 0x7024 ∧ a ≠ 0x7028) : u.reg a = s.reg a := by
    simp only [u, State.capture]
    split
    · rfl
    · split
      · exact (State.reg_setReg_other _ _ ha.2).trans (State.reg_setReg_other _ _ ha.1)
      · exact State.reg_setReg_other _ _ ha.1
  refine ⟨hfail, hlink, ?_, fun hfree => ?_⟩
  · have hcount : (((u.bump powerPage tripCount_count).event powerPage bit).failSquare code info.toNat powerPage).fld powerPage tripCount_count
        = (u.bump powerPage tripCount_count).fld powerPage tripCount_count := congrArg (getField · 31 0) (hafter 0x7074 (by decide))
    have hkept : u.fld powerPage tripCount_count = s.fld powerPage tripCount_count := congrArg (getField · 31 0) (hcapture 0x7074 (by decide))
    rw [hcount, State.fld_bump _ _ _ _ rfl rfl, hkept]
  · have hu : u = _ := State.capture_first code info (p := powerPage) rfl hfree
    have hbump (a : Nat) (ha : a ≠ 0x7074) : (u.bump powerPage tripCount_count).reg a = u.reg a := State.reg_setFld_other _ _ _ _ _ ha
    obtain ⟨hunit, hval⟩ := squareInfo_fields hvalue
    rw [show powerPage.reg 0x024 = 0x7024 from rfl, show powerPage.reg 0x028 = 0x7028 from rfl] at hu ⊢
    rw [hafter 0x7024 (by decide), hafter 0x7028 (by decide), hbump _ (by decide), hbump _ (by decide), hu, State.reg_setReg_same,
      State.reg_setReg_other _ _ (by decide), State.reg_setReg_same]
    refine ⟨?_, hunit, hval⟩
    rw [getField_setField_other _ _ _ _ _ _ (by decide) (by decide) (by decide) (by decide), getField_setField _ _ _ _ (by decide) (by decide)]
    exact Nat.mod_eq_of_lt hcode

/-- Settles O24: a protected die's fence is that of the fault manager, and the Square die's failure that of the board. -/
theorem protectionFencesTheDie : Obligations.ProtectionFencesTheDie := by
  refine ⟨fun unit degc d s hon hd hfree => ?protect, fun d reason s hd hfind => ?release⟩
  case protect =>
    intro fencedFor
    refine ⟨fun hunit hdeg => ?trip, fun k hk => ?droop, fun c code value hrow hdeg hlt => ?square⟩
    case trip =>
      let u := (s.alert wmAlert_thermal).protect 0x48 unit degc power_evtRaw_trip
      have hsteady : s.Steady u := fun x hx => (State.steady_protect (.inl rfl) rfl x hx).trans (((State.Steady.refl s).alert rfl) x hx)
      have hexec : exec (.thermalTrip unit degc) s = .next (u.fence d 3 0x48 true) := by
        have hrange : 16 ≤ unit → unit < 32 := by
          intro h
          by_contra hno
          simp [unitDie, h, hno, show ¬ unit < 8 by omega] at hunit
        have htrips : (if (decide (16 ≤ unit) && decide (unit < 32)) = true then 105 else 115) ≤ degc := by
          refine le_trans (le_of_eq ?_) hdeg
          by_cases h : 16 ≤ unit
          · simp [h, hrange h]
          · simp [h]
        show execThermalTrip unit degc s = _
        simp only [execThermalTrip, hon, decide_eq_true htrips, hunit]
        rfl
      exact ⟨_, hexec, rfl, State.fence_temporary 3 0x48 hd ((hsteady.fenced d).trans hfree)⟩
    case droop =>
      let u := s.protect 0x49 d (8 * d + k) power_evtRaw_droop
      have hsteady : s.Steady u := State.steady_protect (.inr rfl) rfl
      have hexec : exec (.supplyDroop (8 * d + k)) s = .next (u.fence d 4 0x49 true) := by
        have hdie : (8 * d + k) / 8 = d := by omega
        have hrail : (8 * d + k) % 8 < 6 := by omega
        have hlow : 8 * d + k < 64 := by omega
        have hmain : s.board.mainOk = true := by
          simp only [State.squareOn, Bool.and_eq_true] at hon
          exact hon.1.1.2
        show execSupplyDroop (8 * d + k) s = _
        simp only [execSupplyDroop, hon, hmain, hdie, hrail, hlow]
        simp [u]
      exact ⟨_, hexec, rfl, State.fence_temporary 4 0x49 hd ((hsteady.fenced d).trans hfree)⟩
    case square =>
      have hmain : s.board.mainOk = true := by
        simp only [State.squareOn, Bool.and_eq_true] at hon
        exact hon.1.1.2
      have hexec : ∃ bit : FieldRow, bit.off = 0x018 ∧ exec c s = .next
          ((if code = 0x48 then s.alert wmAlert_thermal else s).protectSquare code value bit) ∧ (code = 0x48 ∨ code = 0x49) ∧ value < 256 := by
        simp only [List.mem_cons, List.not_mem_nil, or_false, Prod.mk.injEq] at hrow
        rcases hrow with ⟨rfl, rfl, rfl⟩ | ⟨rfl, rfl, rfl⟩ | ⟨rfl, rfl, rfl⟩ | ⟨rfl, rfl, rfl⟩ | ⟨rfl, rfl, rfl⟩
        · refine ⟨power_evtRaw_trip, rfl, ?_, .inl rfl, hlt⟩
          show execThermalTrip 32 _ s = _
          simp [execThermalTrip, hon, unitDie, hdeg]
        all_goals
          refine ⟨power_evtRaw_droop, rfl, ?_, .inr rfl, by decide⟩
          show execSupplyDroop _ s = _
          simp [execSupplyDroop, hon, hmain]
      obtain ⟨bit, hbit, hexec, hcode, hvalue⟩ := hexec
      refine ⟨_, hexec, ?_⟩
      obtain ⟨hfail, hlink, hcount, hcaptured⟩ := State.protectSquare_effect (if code = 0x48 then s.alert wmAlert_thermal else s)
        (code := code) (value := value) (by omega) hvalue hbit
      have hreg (a : Nat) (ha : a ∈ [0x7024, 0x7074]) : (if code = 0x48 then s.alert wmAlert_thermal else s).reg a = s.reg a := by
        split
        · refine State.alert_reg _ _ ?_
          revert a
          decide
        · rfl
      rw [show powerPage.reg 0x024 = 0x7024 from rfl, hreg 0x7024 (by decide)] at hcaptured
      refine ⟨hfail, hlink, hcount.trans ?_, hcaptured⟩
      rw [State.fld, show fieldAddr powerPage tripCount_count 0 = 0x7074 from rfl, hreg 0x7074 (by decide)]
      rfl
  case release =>
    intro u v
    have hexec : exec (.temporaryFenceRelease d) s = .next (v.unfence d) := by
      show execTemporaryFenceRelease d s = _
      simp only [execTemporaryFenceRelease, hfind]
      rfl
    obtain ⟨htemp, hperm, hresetting, hfences⟩ := s.croftReset_effect d reason
    obtain ⟨hkept, hnow, hfenced⟩ := v.unfence_effect d
    have hv : v.power.tempFence = s.power.tempFence.filter fun x => x.1 != d := congrArg (List.filter _) htemp
    have hvperm : v.power.permFence = s.power.permFence := hperm
    refine ⟨_, hexec, rfl, ?_, hkept.temp.trans hv, fun hf hno => ?_⟩
    · have hvr : v.resetting d = true := hresetting
      rw [State.resetting, hnow, hkept.resetEnd]
      exact hvr
    · have hvf : v.fenced d = true := hfences d hf
      rw [hfenced d hd, hvf, hvperm, hv, hno]
      simp

end Sys2Proof.Machine

namespace Sys2Proof.Machine

/-! ### PLDM (R403, R404) -/

theorem State.pldm_of_island {s : State} (h : s.board.island = true) (status : Nat) (bytes : List Byte) :
    s.pldm status bytes = .next (s.respond status bytes) := congrArg Host.Outcome.next (if_pos h)

theorem State.pldmMonitor_of_island {s : State} (h : s.board.island = true) (hrec : s.board.recovery = false) (status : Nat) (bytes : List Byte) :
    s.pldmMonitor status bytes = .next (s.respond status bytes) :=
  (if_neg (by rw [hrec]; exact Bool.false_ne_true)).trans (s.pldm_of_island h status bytes)

theorem pldmTypes_contains (type : Nat) : pldmTypes.contains type = true ↔ type = 0 ∨ type = 2 ∨ type = 5 := by simp [pldmTypes]

/-- A write that the Watchman's ownership allows is not denied. -/
theorem State.wmDenied_of_accepts {s : State} {a raw : Nat} {p : Page} (hr : resolve .watchman a = some (p, raw))
    (ha : s.accepts .watchman p raw = true) : s.wmDenied a = false := by
  have howner : ownerAllows (s.ownerOf p) .watchman = true := (Bool.and_eq_true _ _ ▸ ha).2
  rw [State.wmDenied, hr]
  simp [howner]

/-- The power cap that the Watchman writes: a legal value stands in its register, and the board is as before. -/
theorem State.busWrite_powerCap {s : State} {v : Word} (hlo : 1000 ≤ v.toNat) (hhi : v.toNat ≤ 2800)
    (ha : s.accepts .watchman powerPage 0x048 = true) :
    (s.busWrite .watchman (powerPage.reg 0x048) v).fld powerPage powerCap_watts = v.toNat
      ∧ (s.busWrite .watchman (powerPage.reg 0x048) v).board = s.board := by
  have hcap : isCap 1 powerCap_watts := .inl ⟨rfl, rfl⟩
  obtain ⟨u, hu, hexec⟩ := exec_of_cap hcap (c := .powerCapWrite .watchman v) (v := v) rfl ha
  rw [exec_of_busOf s (show busOf (.powerCapWrite .watchman v) = some (.watchman, powerPage.reg 0x048, v) from rfl)] at hexec
  have hvalue : getField v powerCap_watts.hi powerCap_watts.lo = v.toNat := (bitsOf_low _ _).trans (Nat.mod_eq_of_lt (by show v.toNat < 2 ^ 12; omega))
  rw [hvalue, if_pos ⟨hlo, hhi⟩] at hexec
  rw [Host.Outcome.next.inj hexec]
  have hsame : State.SameBut [.freeCount, .regs, .power] u (u.capWrite 1 v.toNat) := State.capWrite_same (.refl _ u) (by decide)
  exact ⟨State.capWrite_stores hcap (by show v.toNat < 2 ^ 12; omega), (hsame.board (by decide)).trans (hu.1.board (by decide))⟩

/-- Settles O30: every command answers where the island has power; an effecter's write is the Watchman's write of the cap. -/
theorem pldmCommandsAnswer : Obligations.PldmCommandsAnswer := by
  refine ⟨fun type s hon => ?base, fun id v s hon hrec => ?monitor⟩
  case base =>
    refine ⟨s.pldm_of_island hon _ _, ?_, ?_, ?_⟩
    · have hmap : bitMap 8 pldmTypes = [0x25#8, 0, 0, 0, 0, 0, 0, 0] := by decide
      exact hmap ▸ s.pldm_of_island hon 0 (bitMap 8 pldmTypes)
    · show execGetPldmVersion type s = _
      rw [execGetPldmVersion, s.pldm_of_island hon, s.pldm_of_island hon, ← apply_ite]
      exact congrArg Host.Outcome.next (if_congr (pldmTypes_contains type) rfl rfl)
    · show execGetPldmCommands type s = _
      rw [execGetPldmCommands, s.pldm_of_island hon, s.pldm_of_island hon, ← apply_ite]
      exact congrArg Host.Outcome.next (if_congr (pldmTypes_contains type) rfl rfl)
  case monitor =>
    have hanswer (status : Nat) (bytes : List Byte) := s.pldmMonitor_of_island hon hrec status bytes
    refine ⟨hanswer _ _, hanswer _ _, ?_, fun hlo hhi => ?_, hanswer _ _, ?_, fun hlo hhi hreach hcore ha => ?_⟩
    · show execGetSensorReading 27 s = _
      rw [execGetSensorReading, hanswer, hanswer, hanswer, show islandSensor 27 = false by decide, show isSensor 27 = true by decide]
      cases s.coreFailed <;> rfl
    · have hsensor : isSensor id = true ∧ islandSensor id = false := by simp [isSensor, islandSensor]; omega
      obtain ⟨his, hisland⟩ := hsensor
      show execGetSensorReading id s = _
      rw [execGetSensorReading, hanswer, hanswer, hanswer, his, hisland, if_neg (show ¬ id = aclkSensor by unfold aclkSensor; omega),
        if_neg (show ¬ id = 26 by omega), if_pos hhi]
      cases s.coreFailed <;> rfl
    · show execGetNumericEffecterValue 1 s = _
      rw [execGetNumericEffecterValue, show effecterOf 1 = some powerCap_watts from rfl]
      dsimp only
      rw [hanswer, hanswer]
      split <;> rfl
    · obtain ⟨hvalue, hboard⟩ := State.busWrite_powerCap hlo hhi ha
      have hlegal : legalCode powerPage powerCap_watts v.toNat = true := by
        simp [legalCode, bne, powerCap_watts, dmaCtrl_vector, ringCtrl_vector, faultCtrl_vector, hbmMarginCtrl_offset, kvPool_pages, hlo, hhi]
      have hdenied : s.wmDenied (powerPage.reg 0x048) = false := State.wmDenied_of_accepts (resolve_square .watchman (t := .power) rfl (by decide)) ha
      let t := s.busWrite .watchman (powerPage.reg 0x048) v
      have hexec : exec (.setNumericEffecterValue 1 v) s = .next (t.respond 0 []) := by
        show execSetNumericEffecterValue 1 v s = _
        rw [execSetNumericEffecterValue, show effecterOf 1 = some powerCap_watts from rfl]
        dsimp only
        rw [if_neg (by rw [hlegal]; decide), show powerPage.reg powerCap_watts.off = powerPage.reg 0x048 from rfl,
          if_neg (by simp [hon, hreach, hcore]), hdenied]
        exact t.pldmMonitor_of_island (by rw [hboard]; exact hon) (by rw [hboard]; exact hrec) 0 []
      exact ⟨_, hexec, hvalue, rfl⟩

end Sys2Proof.Machine

namespace Sys2Proof.Machine

/-! ### The Cue table and the Cue Port (R358 to R363) -/

namespace State

variable {s : State} {e v : Nat}

/-- The parts that an event writes. -/
theorem event_same_out (s : State) (p : Page) (bit : FieldRow) : State.SameBut [.regs, .out] s (s.event p bit) :=
  State.event_same (.refl _ s) (List.Subset.refl _)

/-- An entry that takes a value: the table, the instant of the change, and the time. -/
theorem cueApply_cue (s : State) (e v : Nat) : (s.cueApply e v).cue
    = { s.cue with table := SMap.set 0 e v s.cue.table, changed := SMap.set none e (some s.now) s.cue.changed } :=
  (event_same_out _ _ _).cue (by decide)

theorem cueApply_now (s : State) (e v : Nat) : (s.cueApply e v).now = s.now := (event_same_out _ _ _).now (by decide)

theorem cueApply_cueEntry (s : State) (e v : Nat) : (s.cueApply e v).cueEntry e = v := by
  rw [cueEntry, cueApply_cue]
  exact SMap.get_set_same 0 s.cue.table e v

theorem cueApply_changed (s : State) (e v : Nat) : SMap.get none (s.cueApply e v).cue.changed e = some s.now := by
  rw [cueApply_cue]
  exact SMap.get_set_same none s.cue.changed e (some s.now)

/-- A change of an entry counts in UPDATE_COUNT, and sets EVT_RAW.updated. -/
theorem cueApply_count (s : State) (e v : Nat) :
    (s.cueApply e v).fld (sqPage .cue) updateCount_count = (s.fld (sqPage .cue) updateCount_count + 1) % 2 ^ 32 :=
  (event_fld (by decide) (by decide) (by decide)).trans (fld_bump _ _ _ _ rfl rfl)

theorem cueApply_collision (s : State) (e v : Nat) :
    (s.cueApply e v).fld (sqPage .cue) cue_evtRaw_collision = s.fld (sqPage .cue) cue_evtRaw_collision := by
  rw [cueApply, fld, event, attnRise_reg (by decide) (by decide)]
  exact (fld_setFld_beside (f := cue_evtRaw_collision) (g := cue_evtRaw_updated) _ _ _ rfl (by decide)).trans (fld_setFld_off _ _ _ (by decide))

/-- The table once an entry's changes are released: the time of the release, and no change of the entry that waits. -/
def cueReleased (s : State) (e : Nat) : State :=
  let u := s.passTo (s.cueDue e)
  u.withCue { u.cue with deferred := u.cue.deferred.filter fun x => x.entry != e }

theorem cueReleased_cue (s : State) (e : Nat) : (s.cueReleased e).cue = { s.cue with deferred := s.cue.deferred.filter fun x => x.entry != e } := by
  have h : (s.passTo (s.cueDue e)).cue = s.cue :=
    (State.passTo_same (.refl [.now, .regs, .out] s) (List.Subset.refl _)).cue (by decide)
  show { (s.passTo (s.cueDue e)).cue with deferred := (s.passTo (s.cueDue e)).cue.deferred.filter fun x => x.entry != e } = _
  rw [h]

theorem cueReleased_now (s : State) (e : Nat) : (s.cueReleased e).now = max s.now (s.cueDue e) :=
  (noteStates_same (.refl [.regs, .out] (s.withNow (max s.now (s.cueDue e)))) (List.Subset.refl _)).now (by decide)

theorem cueReleased_fld (s : State) (e : Nat) {f : FieldRow} (hf : f.off < 0x100) :
    (s.cueReleased e).fld (sqPage .cue) f = s.fld (sqPage .cue) f := by
  have haddr : fieldAddr (sqPage .cue) f 0 = 0x6000 + f.off := by rw [fieldAddr, Nat.zero_mul]; rfl
  have hlow : isMsgReg (fieldAddr (sqPage .cue) f 0) = false := by
    rw [haddr]
    simp [isMsgReg]
    omega
  exact congrArg (getField · f.hi f.lo) (s.passTo_reg _ hlow (by rw [haddr]; omega))

theorem noneDeferred (cs : List CueChange) (e : Nat) : (cs.filter fun x => x.entry != e).filter (fun x => x.entry == e) = [] := by
  rw [List.filter_filter, List.filter_eq_nil_iff]
  simp

/-- The one change that waited takes effect. -/
theorem cueRelease_one {c : CueChange} (h : (s.cue.deferred.filter fun x => x.entry == e) = [c]) :
    s.cueRelease e = (s.cueReleased e).cueApply e (c.on (s.cueEntry e)) := by
  have hentry : (s.cueReleased e).cueEntry e = s.cueEntry e := by rw [cueEntry, cueReleased_cue]; rfl
  unfold cueRelease
  extract_lets mine u p w ups eff x
  have hmine : mine = [c] := h
  clear_value mine
  subst hmine
  have heff : eff = [c] ∧ x = w := by
    simp only [eff, x, ups]
    cases c.host <;> simp
  obtain ⟨heff, hx⟩ := heff
  dsimp only
  rw [heff, hx]
  exact congrArg (fun v => (s.cueReleased e).cueApply e (c.on v)) hentry

/-- Of a host write and an update that waited, the update takes effect, and the collision is an event. -/
theorem cueRelease_two {h u : CueChange} (hd : (s.cue.deferred.filter fun x => x.entry == e) = [h, u]
      ∨ (s.cue.deferred.filter fun x => x.entry == e) = [u, h]) (hh : h.host = true) (hu : u.host = false) :
    s.cueRelease e = ((s.cueReleased e).event (sqPage .cue) cue_evtRaw_collision).cueApply e (u.on (s.cueEntry e)) := by
  have hentry : ((s.cueReleased e).event (sqPage .cue) cue_evtRaw_collision).cueEntry e = s.cueEntry e := by
    rw [cueEntry, (event_same_out _ _ _).cue (by decide), cueReleased_cue]
    rfl
  unfold cueRelease
  extract_lets mine v p w ups eff x
  have hmine : mine = [h, u] ∨ mine = [u, h] := hd
  clear_value mine
  have heff : mine ≠ [] ∧ eff = [u] ∧ x = w.event (sqPage .cue) cue_evtRaw_collision := by
    simp only [eff, x, ups]
    rcases hmine with rfl | rfl <;> simp [hh, hu]
  obtain ⟨hne, heff, hx⟩ := heff
  obtain ⟨c, cs, rfl⟩ := List.exists_cons_of_ne_nil hne
  dsimp only
  rw [heff, hx]
  exact congrArg (fun v => ((s.cueReleased e).event (sqPage .cue) cue_evtRaw_collision).cueApply e (u.on v)) hentry

end State

/-- The parity bit makes the bits of an entry and of its address even in number. -/
theorem cueQ_even {a v : Nat} (hv : v < 128) : cueQ a v % 128 = v ∧ cueQ a v < 256 ∧ (popCount (cueQ a v) 8 + popCount a 12) % 2 = 0 := by
  have hbit : ∀ v < 128, popCount (v + 128) 8 = popCount v 7 + 1 ∧ popCount v 8 = popCount v 7 := by decide +kernel
  obtain ⟨hset, hclear⟩ := hbit v hv
  unfold cueQ cueParity
  by_cases h : (popCount a 12 + popCount v 7) % 2 = 1
  · rw [if_pos (by simpa using h), hset]
    omega
  · rw [if_neg (by simpa using h), Nat.add_zero, hclear]
    omega

/-- Settles O40: an entry's change is applied, deferred or released; the port's value is combinational. -/
theorem cueChangesAndShows : Obligations.CueChangesAndShows := by
  refine ⟨fun e c s hc => ⟨fun hdue hnone => ?applied, fun hwait => ?deferred, fun hone => ?released, fun h u htwo hh hu => ?collision,
    fun hnone => ?nothing⟩, fun a en s hserved hentry => ?port⟩
  case applied =>
    have he : s.cueChange c = s.cueApply e (c.on (s.cueEntry e)) := by
      rw [State.cueChange, hc, hnone, if_neg (by simp; omega)]
    rw [he]
    exact ⟨s.cueApply_cueEntry e _, s.cueApply_changed e _⟩
  case deferred =>
    have he : s.cueChange c = s.withCue { s.cue with deferred := s.cue.deferred ++ [c] } := by
      rw [State.cueChange, hc, if_pos (by simp [hwait])]
    rw [he]
    exact ⟨rfl, List.mem_append_right _ (List.mem_singleton.mpr rfl)⟩
  case released =>
    have hexec : exec (.cueDeferredApply e) s = .next ((s.cueReleased e).cueApply e (c.on (s.cueEntry e))) :=
      congrArg Host.Outcome.next (State.cueRelease_one hone)
    refine ⟨_, hexec, State.cueApply_cueEntry _ e _, ?_, ?_, ?_, ?_⟩
    · rw [State.cueApply_now, State.cueReleased_now]
    · rw [State.cueApply_changed, State.cueApply_now]
    · rw [State.cueApply_collision, State.cueReleased_fld _ _ (by decide)]
    · rw [State.cueApply_cue, State.cueReleased_cue]
      exact State.noneDeferred _ _
  case collision =>
    let v := (s.cueReleased e).event (sqPage .cue) cue_evtRaw_collision
    have hexec : exec (.cueDeferredApply e) s = .next (v.cueApply e (u.on (s.cueEntry e))) :=
      congrArg Host.Outcome.next (State.cueRelease_two htwo hh hu)
    have hv := (s.cueReleased e).event_same_out (sqPage .cue) cue_evtRaw_collision
    refine ⟨_, hexec, State.cueApply_cueEntry _ e _, ?_, ?_, ?_, ?_⟩
    · rw [State.cueApply_now, hv.now (by decide), State.cueReleased_now]
    · rw [State.cueApply_collision]
      exact State.event_bit (by decide) (by decide) rfl (by decide)
    · rw [State.cueApply_count, State.event_fld (by decide) (by decide) (by decide), State.cueReleased_fld _ _ (by decide)]
    · rw [State.cueApply_cue, hv.cue (by decide), State.cueReleased_cue]
      exact State.noneDeferred _ _
  case nothing =>
    show Host.Outcome.next (s.cueRelease e) = _
    rw [State.cueRelease, hnone]
  case port =>
    let t := s.withCue { s.cue with pinA := a % 4096, pinEn := en }
    have hpins : t.cuePins = if en && s.fld (sqPage .cue) cueCtrl_portEn == 1 && s.served (sqPage .cue) && !s.board.perst && !s.board.training
        then some (cueQ (a % 4096) (s.cueEntry (a % 4096))) else none := rfl
    refine ⟨t, rfl, State.withCue_same (.refl _ s) (by decide), rfl, fun hen hport hperst htrain => ?_, fun hoff => ?_⟩
    · have hshown : t.cuePins = some (cueQ (a % 4096) (s.cueEntry (a % 4096))) := by
        rw [hpins, if_pos (by simp [hen, hport, hserved, hperst, htrain])]
      exact ⟨_, hshown, by rw [State.cueLands, hshown]; rfl, cueQ_even hentry⟩
    · have hhidden : t.cuePins = none := by
        rw [hpins, if_neg]
        rcases hoff with h | h | h | h <;> simp [h]
      exact ⟨hhidden, by rw [State.cueLands, hhidden]; rfl⟩

end Sys2Proof.Machine

namespace Sys2Proof.Machine

/-! ### The ports of a die (R367 to R375): registers, links and waiting flits -/

/-- An address of a port's page. -/
theorem portPage_reg (d p x : Nat) : (portPage d p).reg x = 0x11C0000 + d * 0x400000 + p * 0x1000 + x := by
  simp only [Page.reg, Page.base, portPage]
  omega

theorem fieldAddr_port (d p : Nat) (f : FieldRow) : fieldAddr (portPage d p) f 0 = 0x11C0000 + d * 0x400000 + p * 0x1000 + f.off := by
  rw [fieldAddr, portPage_reg, Nat.zero_mul, Nat.add_zero]

theorem isMsgReg_port (d p : Nat) (f : FieldRow) : isMsgReg (fieldAddr (portPage d p) f 0) = false := by
  rw [fieldAddr_port]
  have : ¬ (0x11C0000 + d * 0x400000 + p * 0x1000 + f.off < 0x40000) := by omega
  simp [isMsgReg, this]

theorem fieldAddr_port_ne {d p : Nat} {f g : FieldRow} (h : f.off ≠ g.off) :
    fieldAddr (portPage d p) f 0 ≠ fieldAddr (portPage d p) g 0 := by
  rw [fieldAddr_port, fieldAddr_port]
  omega

theorem fieldAddr_port_high (d p : Nat) (f : FieldRow) : 0x40000 ≤ fieldAddr (portPage d p) f 0 := by
  rw [fieldAddr_port]
  omega

/-- An event of a port's page, or of a page of the Square range. -/
theorem portPage_group {d : Nat} (hd : d < 8) (p : Nat) : (portPage d p).attnGroup - 32 < 32 := by
  show d - 32 < 32
  omega

namespace State

variable {s : State} {d p : Nat}

theorem event_port_fld (hd : d < 8) {bit f : FieldRow} (h : f.off ≠ bit.off) :
    (s.event (portPage d p) bit).fld (portPage d p) f = s.fld (portPage d p) f :=
  event_fld (portPage_group hd p) (isMsgReg_port d p f) (fieldAddr_port_ne h)

theorem bump_port_fld {c f : FieldRow} (h : f.off ≠ c.off) : (s.bump (portPage d p) c).fld (portPage d p) f = s.fld (portPage d p) f :=
  fld_setFld_far _ _ _ _ _ _ 0 0 (fieldAddr_port_ne h)

theorem setPort_port (s : State) (d p : Nat) (x : Port) : (s.setPort d p x).port d p = x := SMap.get_set_same {} s.ferry.ports (d * 14 + p) x

theorem port_of_ferry {t : State} (h : t.ferry = s.ferry) (d p : Nat) : t.port d p = s.port d p := by rw [port, h, port]

theorem event_ferry (s : State) (q : Page) (bit : FieldRow) : (s.event q bit).ferry = s.ferry := (s.event_same_out q bit).ferry (by decide)

theorem setPort_reg (s : State) (d p : Nat) (x : Port) (a : Nat) : (s.setPort d p x).reg a = s.reg a :=
  (State.setPort_same (.refl [.ferry] s) (List.Subset.refl _)).reg (by decide) a

theorem setFld_ferry (s : State) (q : Page) (f : FieldRow) (v i : Nat) : (s.setFld q f v i).ferry = s.ferry :=
  (State.setFld_same (.refl [.regs] s) (List.Subset.refl _)).ferry (by decide)

/-- A port's own link stands as it was: only flits that wait, and credit that it owes, differ. -/
def LinkKept (d p : Nat) (s t : State) : Prop :=
  (∃ w f, t.port d p = { s.port d p with waiting := w, freed := f }) ∧ t.ferry.binds = s.ferry.binds

namespace LinkKept

theorem refl (d p : Nat) (s : State) : LinkKept d p s s := ⟨⟨_, _, rfl⟩, rfl⟩

theorem trans {t u : State} (h : LinkKept d p s t) (k : LinkKept d p t u) : LinkKept d p s u := by
  obtain ⟨⟨w, f, ht⟩, hb⟩ := h
  obtain ⟨⟨w', f', hu⟩, hb'⟩ := k
  exact ⟨⟨w', f', by rw [hu, ht]⟩, hb'.trans hb⟩

theorem of_ferry {t : State} (h : t.ferry = s.ferry) : LinkKept d p s t := ⟨⟨_, _, port_of_ferry h d p⟩, by rw [h]⟩

/-- A port whose waiting flits or credit alone are set. -/
theorem setPort {d' p' : Nat} (w : List PortWait) (f : SMap Nat) :
    LinkKept d p s (s.setPort d' p' { s.port d' p' with waiting := w, freed := f }) := by
  refine ⟨?_, rfl⟩
  by_cases h : d * 14 + p = d' * 14 + p'
  · refine ⟨w, f, ?_⟩
    have hsame : (s.setPort d' p' { s.port d' p' with waiting := w, freed := f }).port d p = { s.port d' p' with waiting := w, freed := f } := by
      rw [State.port, h]
      exact s.setPort_port d' p' _
    rw [hsame, State.port, ← h, State.port]
  · refine ⟨(s.port d p).waiting, (s.port d p).freed, ?_⟩
    rw [State.port, State.setPort, State.withFerry]
    exact SMap.get_set_other {} s.ferry.ports _ h

theorem enqueue (s : State) (d' p' : Nat) (w : PortWait) : LinkKept d p s (s.enqueue d' p' w) := setPort _ _

theorem freeFlit (s : State) (d' p' v : Nat) : LinkKept d p s (s.freeFlit d' p' v) := setPort _ _

theorem freeWait (s : State) (w : PortWait) : LinkKept d p s (s.freeWait w) := by
  unfold State.freeWait
  split
  · split
    · exact .freeFlit s _ _ _
    · exact .refl d p s
  · exact .refl d p s

theorem forward (s : State) (n : Nat) (w : PortWait) : LinkKept d p s (s.forward n w) := by
  unfold State.forward
  split
  · exact .enqueue s _ _ w
  · generalize hu : (s.bump (sqPage .ferryPkg) norouteCount_count).event (sqPage .ferryPkg) ferryPkg_evtRaw_noroute = u
    have hferry : u.ferry = s.ferry := by
      rw [← hu, event_ferry, bump, setFld_ferry]
    exact (of_ferry hferry).trans (LinkKept.freeWait u w)

theorem forwardAll (n : Nat) (ws : List PortWait) (s : State) : LinkKept d p s (forwardAll n ws s) := by
  induction ws generalizing s with
  | nil => exact .refl d p s
  | cons w ws ih =>
    refine LinkKept.trans ?_ (ih _)
    split
    · exact .forward s n w
    · exact .refl d p s

end LinkKept

theorem forward_reg (s : State) (n : Nat) (w : PortWait) {a : Nat} (ha : isMsgReg a = false) (hne : a ≠ 0xA018 ∧ a ≠ 0xA074) :
    (s.forward n w).reg a = s.reg a := by
  unfold State.forward
  split
  · rfl
  · obtain ⟨hraw, hcount⟩ := hne
    have hfree (u : State) : (u.freeWait w).reg a = u.reg a :=
      (freeWait_same (.refl [.ferry] u) (List.Subset.refl _)).reg (by decide) a
    have hevent (u : State) : (u.event (sqPage .ferryPkg) ferryPkg_evtRaw_noroute).reg a = u.reg a := event_reg (by decide) ha hraw
    have hbump : (s.bump (sqPage .ferryPkg) norouteCount_count).reg a = s.reg a := reg_setFld_other _ _ _ _ _ hcount
    exact (hfree _).trans ((hevent _).trans hbump)

theorem forwardAll_reg (n : Nat) (ws : List PortWait) (s : State) {a : Nat} (ha : isMsgReg a = false) (hne : a ≠ 0xA018 ∧ a ≠ 0xA074) :
    (forwardAll n ws s).reg a = s.reg a := by
  induction ws generalizing s with
  | nil => rfl
  | cons w ws ih =>
    refine (ih _).trans ?_
    split
    · exact s.forward_reg n w ha hne
    · rfl

/-- What a port is when it left UP: its state, and its link, for which the flits that wait are all that the leaving sees to. -/
theorem leaveUp_effect (s : State) (d p v : Nat) (x : Port) (hv : v < 4) : (s.leaveUp d p v x).portState d p = v
    ∧ ∃ w f, (s.leaveUp d p v x).port d p = { x with waiting := w, freed := f } := by
  unfold leaveUp
  extract_lets u old
  clear_value old u
  generalize hy : { x with waiting := x.waiting.filter fun w => w.src.isNone } = y
  have haddr := fieldAddr_port_high d p flStatus_state
  have hreg := forwardAll_reg (d * 14 + p) old ((u.setPort d p y).setPortState d p v) (isMsgReg_port d p flStatus_state) (by omega)
  obtain ⟨⟨w, f, hport⟩, -⟩ := LinkKept.forwardAll (d := d) (p := p) (d * 14 + p) old ((u.setPort d p y).setPortState d p v)
  refine ⟨?_, w, f, ?_⟩
  · have hset : ((u.setPort d p y).setPortState d p v).portState d p = v :=
      (fld_setFld _ _ _ _ _ (by decide) (by decide)).trans (Nat.mod_eq_of_lt hv)
    exact (congrArg (getField · 1 0) hreg).trans hset
  · have hset : ((u.setPort d p y).setPortState d p v).port d p = y :=
      (port_of_ferry (setFld_ferry _ _ _ _ _) d p).trans (u.setPort_port d p y)
    rw [hport, hset, ← hy]

/-- The registers that a port's leaving UP keeps. -/
theorem leaveUp_reg (s : State) (d p v : Nat) (x : Port) {a : Nat} (ha : isMsgReg a = false) (hne : a ≠ 0xA018 ∧ a ≠ 0xA074)
    (hstate : a ≠ fieldAddr (portPage d p) flStatus_state 0) : (s.leaveUp d p v x).reg a = s.reg a :=
  (forwardAll_reg _ _ _ ha hne).trans (reg_setFld_other _ _ _ _ _ hstate)

/-- The event and the fault of a lost link leave the port's state and its link, and send one fault. -/
theorem lostFault_kept (u : State) {d p : Nat} (info : Word) (hd : d < 8) :
    let t := (u.event (portPage d p) ferry_evtRaw_linkLost).fault (portPage d p) 0x44 info none
    t.portState d p = u.portState d p ∧ t.ferry = u.ferry ∧ t.faults.length = u.faults.length + 1 := by
  have hevent : (u.event (portPage d p) ferry_evtRaw_linkLost).portState d p = u.portState d p := event_port_fld hd (by decide)
  have hsame := u.event_same_out (portPage d p) ferry_evtRaw_linkLost
  generalize u.event (portPage d p) ferry_evtRaw_linkLost = v at hevent hsame
  intro t
  have hcode : fieldAddr (portPage d p) flStatus_state 0 ≠ (portPage d p).reg 0x024 := by
    rw [fieldAddr_port, portPage_reg]
    exact fun h => absurd (Nat.add_left_cancel h) (by decide)
  have hinfo : fieldAddr (portPage d p) flStatus_state 0 ≠ (portPage d p).reg 0x028 := by
    rw [fieldAddr_port, portPage_reg]
    exact fun h => absurd (Nat.add_left_cancel h) (by decide)
  have hcapture : (v.capture (portPage d p) 0x44 info).reg (fieldAddr (portPage d p) flStatus_state 0)
      = v.reg (fieldAddr (portPage d p) flStatus_state 0) := by
    unfold capture
    extract_lets word
    split
    · rfl
    · split
      · exact (reg_setReg_other _ _ hinfo).trans (reg_setReg_other _ _ hcode)
      · exact reg_setReg_other _ _ hcode
  have ht : t.portState d p = v.portState d p := congrArg (getField · 1 0) hcapture
  have hferry : t.ferry = v.ferry := (v.capture_same_regs (portPage d p) 0x44 info).ferry (by decide)
  refine ⟨ht.trans hevent, hferry.trans (hsame.ferry (by decide)), ?_⟩
  rw [fault_faults, length_putFault, hsame.faults (by decide)]

/-- A port that is lost: LOST, with an empty replay buffer, and its fault sent to the fault manager. -/
theorem portLost_effect (s : State) (d p reason : Nat) (hd : d < 8) : (s.portLost d p reason).portState d p = 3
    ∧ ((s.portLost d p reason).port d p).replay = [] ∧ (s.portLost d p reason).faults.length = s.faults.length + 1 := by
  obtain ⟨hstate, w, f, hport⟩ := s.leaveUp_effect d p 3 (s.port d p).fresh (by decide)
  have hfaults : (s.leaveUp d p 3 (s.port d p).fresh).faults = s.faults := (leaveUp_same (.refl _ s) (List.Subset.refl _)).faults (by decide)
  obtain ⟨hkept, hferry, hlength⟩ := (s.leaveUp d p 3 (s.port d p).fresh).lostFault_kept (p := p) (infoOf [(reason, 0)]) hd
  rw [hfaults] at hlength
  refine ⟨hkept.trans hstate, ?_, hlength⟩
  have hreplay : ((s.leaveUp d p 3 (s.port d p).fresh).port d p).replay = [] := by
    rw [hport]
    rfl
  exact (congrArg Port.replay (port_of_ferry hferry d p)).trans hreplay

theorem linkOn_of_lost (h : s.portState d p = 3) : s.linkOn d p = false := by simp [linkOn, h]

/-- A port that carries flits is one of a live die. -/
theorem linkOn_range (h : s.linkOn d p = true) : d < 8 ∧ p < 14 := by
  simp only [linkOn, portOk, Bool.and_eq_true, decide_eq_true_eq] at h
  obtain ⟨⟨⟨hd, hp⟩, -⟩, -⟩ := h
  exact ⟨hd, hp⟩

/-- A port whose flits without an acknowledgement are sent again: the replay is counted and reported. -/
def replaying (s : State) (d p : Nat) : State :=
  let s := s.setPort d p { s.port d p with resend := (s.port d p).replay, replays := (s.port d p).replays + 1 }
  (s.bump (portPage d p) ferry_replayCount_count).event (portPage d p) ferry_evtRaw_replay

theorem replayPort_eq (s : State) (d p : Nat) : s.replayPort d p = if (s.port d p).replay.isEmpty then s
    else if (s.port d p).replays + 1 ≥ 16 then (s.replaying d p).portLost d p 1 else s.replaying d p := rfl

/-- A replay: all flits without an acknowledgement are sent again, and it is counted. -/
theorem replaying_effect (hd : d < 8) :
    (s.replaying d p).port d p = { s.port d p with resend := (s.port d p).replay, replays := (s.port d p).replays + 1 }
      ∧ (s.replaying d p).ferry.binds = s.ferry.binds
      ∧ (s.replaying d p).fld (portPage d p) ferry_replayCount_count = (s.fld (portPage d p) ferry_replayCount_count + 1) % 2 ^ 32
      ∧ ∀ a, isMsgReg a = false → a ≠ fieldAddr (portPage d p) ferry_evtRaw_replay 0 →
        a ≠ fieldAddr (portPage d p) ferry_replayCount_count 0 → (s.replaying d p).reg a = s.reg a := by
  unfold replaying
  generalize hu : s.setPort d p { s.port d p with resend := (s.port d p).replay, replays := (s.port d p).replays + 1 } = u
  dsimp only
  have hport : u.port d p = { s.port d p with resend := (s.port d p).replay, replays := (s.port d p).replays + 1 } := hu ▸ s.setPort_port d p _
  have hbinds : u.ferry.binds = s.ferry.binds := by
    rw [← hu]
    rfl
  have hreg (a : Nat) : u.reg a = s.reg a := hu ▸ s.setPort_reg d p _ a
  have hfld : u.fld (portPage d p) ferry_replayCount_count = s.fld (portPage d p) ferry_replayCount_count := fld_of_reg hreg _ _ 0
  have hbump : (u.bump (portPage d p) ferry_replayCount_count).fld (portPage d p) ferry_replayCount_count
      = (u.fld (portPage d p) ferry_replayCount_count + 1) % 2 ^ 32 := fld_bump u _ _ _ rfl rfl
  have hferry : ((u.bump (portPage d p) ferry_replayCount_count).event (portPage d p) ferry_evtRaw_replay).ferry = u.ferry := by
    rw [event_ferry, bump, setFld_ferry]
  have hregs (a : Nat) (hcount : a ≠ fieldAddr (portPage d p) ferry_replayCount_count 0) :
      (u.bump (portPage d p) ferry_replayCount_count).reg a = u.reg a := reg_setFld_other _ _ _ _ _ hcount
  generalize u.bump (portPage d p) ferry_replayCount_count = v at hbump hferry hregs ⊢
  exact ⟨(port_of_ferry hferry d p).trans hport, by rw [hferry, hbinds], (event_port_fld hd (by decide)).trans (hbump.trans (by rw [hfld])),
    fun a ha hraw hcount => ((event_reg (portPage_group hd p) ha hraw).trans (hregs a hcount)).trans (hreg a)⟩

theorem replayPort_empty (h : (s.port d p).replay = []) : s.replayPort d p = s :=
  (s.replayPort_eq d p).trans (if_pos (List.isEmpty_iff.mpr h))

/-- Short of the sixteenth. -/
theorem replayPort_again (hne : (s.port d p).replay ≠ []) (hlt : (s.port d p).replays + 1 < 16) : s.replayPort d p = s.replaying d p :=
  (s.replayPort_eq d p).trans ((if_neg (mt List.isEmpty_iff.mp hne)).trans (if_neg (by omega)))

theorem replayPort_last (hne : (s.port d p).replay ≠ []) (hlast : 16 ≤ (s.port d p).replays + 1) :
    s.replayPort d p = (s.replaying d p).portLost d p 1 :=
  (s.replayPort_eq d p).trans ((if_neg (mt List.isEmpty_iff.mp hne)).trans (if_pos hlast))

/-- The port after the acknowledgement and the credit of a header. -/
def ackedPort (x : Port) (h : FlitHdr) : Port :=
  let new := (h.credit + 256 - SMap.get 0 x.seen h.creditVc % 256) % 256
  let n := (h.ack + 1024 - x.acked) % 1024
  let y := { x with
    seen := SMap.set 0 h.creditVc (SMap.get 0 x.seen h.creditVc + new) x.seen,
    out := SMap.set 0 h.creditVc (SMap.get 0 x.out h.creditVc - new) x.out }
  if decide (0 < n) && decide (n ≤ x.replay.length) then
    { y with acked := h.ack, replay := y.replay.drop n, replays := 0, resend := y.resend.drop (n - (y.replay.length - y.resend.length)) }
  else y

theorem headerIn_eq (s : State) (d p : Nat) (h : FlitHdr) : s.headerIn d p h =
    let u := s.setPort d p (ackedPort (s.port d p) h)
    if h.nak then u.replayPort d p else u := rfl

theorem ackedPort_receives (x : Port) (h : FlitHdr) : (ackedPort x h).expect = x.expect ∧ (ackedPort x h).nakDue = x.nakDue := by
  unfold ackedPort
  extract_lets new n y
  split <;> exact ⟨rfl, rfl⟩

/-- A header that leaves the link on: what the port receives next stands as before, and no register but the port's replay count and
events differs. -/
theorem headerIn_kept (hd : d < 8) {h : FlitHdr} (hstays : (s.headerIn d p h).linkOn d p = true) :
    ((s.headerIn d p h).port d p).expect = (s.port d p).expect ∧ ((s.headerIn d p h).port d p).nakDue = (s.port d p).nakDue
      ∧ (s.headerIn d p h).ferry.binds = s.ferry.binds
      ∧ ∀ a, isMsgReg a = false → a ≠ fieldAddr (portPage d p) ferry_evtRaw_replay 0 →
        a ≠ fieldAddr (portPage d p) ferry_replayCount_count 0 → (s.headerIn d p h).reg a = s.reg a := by
  obtain ⟨hexpect, hdue⟩ := ackedPort_receives (s.port d p) h
  have hu : (s.setPort d p (ackedPort (s.port d p) h)).port d p = ackedPort (s.port d p) h := s.setPort_port d p _
  rw [headerIn_eq] at hstays ⊢
  generalize hset : s.setPort d p (ackedPort (s.port d p) h) = u at hstays hu ⊢
  have hbinds : u.ferry.binds = s.ferry.binds := by rw [← hset]; rfl
  have hreg (a : Nat) : u.reg a = s.reg a := hset ▸ s.setPort_reg d p _ a
  have hidle : (u.port d p).expect = (s.port d p).expect ∧ (u.port d p).nakDue = (s.port d p).nakDue ∧ u.ferry.binds = s.ferry.binds
      ∧ ∀ a, isMsgReg a = false → a ≠ fieldAddr (portPage d p) ferry_evtRaw_replay 0 →
        a ≠ fieldAddr (portPage d p) ferry_replayCount_count 0 → u.reg a = s.reg a :=
    ⟨by rw [hu, hexpect], by rw [hu, hdue], hbinds, fun a _ _ _ => hreg a⟩
  dsimp only at hstays ⊢
  cases hn : h.nak with
  | false =>
    rw [if_neg (by decide)]
    exact hidle
  | true =>
    rw [hn, if_pos rfl] at hstays
    rw [if_pos rfl]
    by_cases hne : (u.port d p).replay = []
    · rw [replayPort_empty hne]
      exact hidle
    · by_cases hlt : (u.port d p).replays + 1 < 16
      · obtain ⟨hport, hb, -, hregs⟩ := replaying_effect (s := u) (p := p) hd
        rw [replayPort_again hne hlt]
        obtain ⟨h1, h2, -, -⟩ := hidle
        exact ⟨by rw [hport]; exact h1, by rw [hport]; exact h2, hb.trans hbinds, fun a ha hr hc => (hregs a ha hr hc).trans (hreg a)⟩
      · rw [replayPort_last hne (Nat.not_lt.mp hlt)] at hstays
        have hlost := linkOn_of_lost ((u.replaying d p).portLost_effect d p 1 hd).1
        exact absurd (hlost.symm.trans hstays) (by decide)

end State

end Sys2Proof.Machine

namespace Sys2Proof.Machine

/-! ### Flits that come in (R373, R375) -/

namespace State

variable {s : State} {d p : Nat} {x : Flit}

/-- The state once a flit in sequence has been taken: the next one is expected, and the episode of a NAK is over. -/
def inSequence (s : State) (d p : Nat) (x : Flit) : State :=
  let u := s.headerIn d p (flitHdr x)
  u.setPort d p { u.port d p with expect := ((u.port d p).expect + 1) % 1024, nakSent := false }

/-- What a flit in sequence leaves of its port, of the binds and of the registers. -/
theorem inSequence_effect (hd : d < 8) (hstays : (s.headerIn d p (flitHdr x)).linkOn d p = true) :
    ((s.inSequence d p x).port d p).expect = ((s.port d p).expect + 1) % 1024
      ∧ ((s.inSequence d p x).port d p).nakDue = (s.port d p).nakDue ∧ ((s.inSequence d p x).port d p).nakSent = false
      ∧ (s.inSequence d p x).ferry.binds = s.ferry.binds
      ∧ ∀ a, isMsgReg a = false → a ≠ fieldAddr (portPage d p) ferry_evtRaw_replay 0 →
        a ≠ fieldAddr (portPage d p) ferry_replayCount_count 0 → (s.inSequence d p x).reg a = s.reg a := by
  obtain ⟨hexpect, hdue, hbinds, hregs⟩ := headerIn_kept hd hstays
  unfold inSequence
  generalize s.headerIn d p (flitHdr x) = u at hexpect hdue hbinds hregs
  dsimp only
  rw [setPort_port]
  exact ⟨by rw [hexpect], hdue, rfl, hbinds, fun a ha hr hc => (u.setPort_reg d p _ a).trans (hregs a ha hr hc)⟩

/-- A counter of a port other than its replays, once a flit in sequence has been taken. -/
theorem inSequence_fld (hd : d < 8) (hstays : (s.headerIn d p (flitHdr x)).linkOn d p = true) {f : FieldRow} (hf : f.off ≠ 0x018 ∧ f.off ≠ 0x06C) :
    (s.inSequence d p x).fld (portPage d p) f = s.fld (portPage d p) f := by
  obtain ⟨-, -, -, -, hregs⟩ := inSequence_effect hd hstays
  exact congrArg (getField · f.hi f.lo) (hregs _ (isMsgReg_port d p f) (fieldAddr_port_ne hf.1) (fieldAddr_port_ne hf.2))

theorem inSequence_same (s : State) (d p : Nat) (x : Flit) : State.SameBut [.regs, .ferry, .faults, .out] s (s.inSequence d p x) :=
  setPort_same (headerIn_same (.refl _ s) (List.Subset.refl _)) (by decide)

/-- The link layer of a port that carries flits, for an intact flit in sequence that is no IDLE flit. -/
theorem linkIn_inSequence (hon : s.linkOn d p = true) (hok : flitOk x = true) (hkind : (flitHdr x).kind ≠ 0)
    (hstays : (s.headerIn d p (flitHdr x)).linkOn d p = true) (hseq : (flitHdr x).seq = (s.port d p).expect) :
    s.linkIn d p x =
      if flitBad (flitHdr x) x then
        ((((s.inSequence d p x).bump (portPage d p) dropCount_count).event (portPage d p) ferry_evtRaw_dropped).freeFlit d p (flitHdr x).vc, false)
      else ((s.inSequence d p x).bump (portPage d p) rxFlits_count, true) := by
  obtain ⟨hd, -⟩ := linkOn_range hon
  obtain ⟨hexpect, -⟩ := headerIn_kept hd hstays
  have hidle : ¬ ((decide ((flitHdr x).kind = fkIdle) || !(s.headerIn d p (flitHdr x)).linkOn d p) = true) := by simp [hkind, hstays, fkIdle]
  have hnext : ¬ (((flitHdr x).seq != ((s.headerIn d p (flitHdr x)).port d p).expect) = true) := by simp [hseq, hexpect]
  unfold linkIn inSequence
  dsimp only
  generalize s.headerIn d p (flitHdr x) = u at hidle hnext
  rw [if_neg (by simp [hon]), if_neg (by simp [hok]), if_neg hidle, if_neg hnext]

theorem Takes.linkIn (h : s.Takes d p x) : s.linkIn d p x = ((s.inSequence d p x).bump (portPage d p) rxFlits_count, true) :=
  (linkIn_inSequence h.on h.ok h.kind h.stays h.seq).trans (if_neg (by rw [h.good]; decide))

end State

/-- The commands that are flits in sequence of a port all run its link layer. -/
theorem exec_flit {d p : Nat} {x : Flit} {s : State} {c : Instr}
    (hc : c ∈ [Instr.data d p x, .bell d p x, .jobStop d p x, .withdraw d p x, .ident d p x, .probe d p x, .echo d p x, .nak d p x]) :
    exec c s = .next (s.flitIn d p x) := by
  simp only [List.mem_cons, List.not_mem_nil, or_false] at hc
  rcases hc with rfl | rfl | rfl | rfl | rfl | rfl | rfl | rfl <;> rfl

/-- Settles O42: the link layer drops the flit once it has taken its number. -/
theorem malformedFlitsAreDropped : Obligations.MalformedFlitsAreDropped := by
  intro d p x s hon hok hstays hkind hseq hmalformed
  obtain ⟨hd, -⟩ := State.linkOn_range hon
  have hbad : flitBad (flitHdr x) x = true := by
    simp only [flitBad, vcOf, fkControl, opEcho, Bool.or_eq_true, Bool.and_eq_true, beq_iff_eq, bne_iff_ne, decide_eq_true_eq]
    rcases hmalformed with h | h | h | h
    · exact .inl (.inl (.inl h))
    · exact .inl (.inl (.inr h))
    · exact .inl (.inr h)
    · exact .inr ⟨h.1, decide_eq_true h.2⟩
  have hlink := State.linkIn_inSequence hon hok hkind hstays hseq
  rw [if_pos hbad] at hlink
  obtain ⟨hexpect, hdue, hsent, -, -⟩ := State.inSequence_effect (s := s) (x := x) hd hstays
  have hcount := State.inSequence_fld (s := s) (x := x) hd hstays (f := dropCount_count) (by decide)
  generalize s.inSequence d p x = u at hlink hexpect hdue hsent hcount
  have hbump : (u.bump (portPage d p) dropCount_count).fld (portPage d p) dropCount_count = (u.fld (portPage d p) dropCount_count + 1) % 2 ^ 32 :=
    State.fld_bump u _ _ _ rfl rfl
  have hferry : (u.bump (portPage d p) dropCount_count).ferry = u.ferry := State.setFld_ferry _ _ _ _ _
  generalize u.bump (portPage d p) dropCount_count = v at hlink hbump hferry
  have hvferry : (v.event (portPage d p) ferry_evtRaw_dropped).ferry = u.ferry := (State.event_ferry _ _ _).trans hferry
  have hvcount : (v.event (portPage d p) ferry_evtRaw_dropped).fld (portPage d p) dropCount_count = v.fld (portPage d p) dropCount_count :=
    State.event_port_fld hd (by decide)
  have hvbit : (v.event (portPage d p) ferry_evtRaw_dropped).fld (portPage d p) ferry_evtRaw_dropped = 1 :=
    State.event_bit (portPage_group hd p) (isMsgReg_port d p _) rfl (by decide)
  generalize v.event (portPage d p) ferry_evtRaw_dropped = z at hlink hvferry hvcount hvbit
  have hfree : State.SameBut [.ferry] z (z.freeFlit d p (flitHdr x).vc) := State.freeFlit_same (.refl _ z) (List.Subset.refl _)
  obtain ⟨⟨w, f, hport⟩, -⟩ := State.LinkKept.freeFlit (d := d) (p := p) z d p (flitHdr x).vc
  rw [State.port_of_ferry hvferry] at hport
  have hin : s.flitIn d p x = z.freeFlit d p (flitHdr x).vc := by
    unfold State.flitIn
    rw [hlink]
    rfl
  refine ⟨_, fun c hc => (exec_flit hc).trans (congrArg Host.Outcome.next hin), ?_, ?_, ?_, ?_, ?_⟩
  · rw [hport]
    exact hexpect
  · rw [hport]
    exact hdue
  · rw [hport]
    exact hsent
  · rw [hfree.fld (by decide), hvcount, hbump, hcount]
  · rw [hfree.fld (by decide), hvbit]

/-! ### What an accepted flit does (R369, R378, R383, R386, R389) -/

section Accepted

variable {s : State} {d p : Nat} {x : Flit}

/-- An accepted flit: the number that is expected next, its count, and what else stands as it was. -/
theorem State.Takes.effect (h : s.Takes d p x) : (s.linkIn d p x).2 = true
    ∧ ((s.linkIn d p x).1.port d p).expect = ((s.port d p).expect + 1) % 1024
    ∧ (s.linkIn d p x).1.fld (portPage d p) rxFlits_count = (s.fld (portPage d p) rxFlits_count + 1) % 2 ^ 32
    ∧ (s.linkIn d p x).1.ferry.binds = s.ferry.binds
    ∧ ∀ a, a < 0x20000 → (s.linkIn d p x).1.reg a = s.reg a := by
  obtain ⟨hd, -⟩ := State.linkOn_range h.on
  obtain ⟨hexpect, -, -, hbinds, hregs⟩ := State.inSequence_effect (s := s) (x := x) hd h.stays
  have hcount := State.inSequence_fld (s := s) (x := x) hd h.stays (f := rxFlits_count) (by decide)
  rw [h.linkIn]
  generalize s.inSequence d p x = u at hexpect hbinds hregs hcount
  have hbump : (u.bump (portPage d p) rxFlits_count).fld (portPage d p) rxFlits_count = (u.fld (portPage d p) rxFlits_count + 1) % 2 ^ 32 :=
    State.fld_bump u _ _ _ rfl rfl
  have hferry : (u.bump (portPage d p) rxFlits_count).ferry = u.ferry := State.setFld_ferry _ _ _ _ _
  refine ⟨rfl, ?_, hbump.trans (by rw [hcount]), by rw [hferry, hbinds], fun a ha => ?_⟩
  · rw [State.port_of_ferry hferry, hexpect]
  · have hlow (f : FieldRow) : a ≠ fieldAddr (portPage d p) f 0 := by
      have := fieldAddr_port_high d p f
      omega
    have hmsg : isMsgReg a = false := by
      have : ¬ 0x20000 ≤ a := by omega
      simp [isMsgReg, this]
    exact (State.reg_setFld_other _ _ _ _ _ (hlow _)).trans (hregs a hmsg (hlow _) (hlow _))

theorem State.Takes.same (_h : s.Takes d p x) : State.SameBut [.ferry, .regs, .out, .faults] s (s.linkIn d p x).1 :=
  State.linkIn_same (.refl _ s) (by decide)

/-- An op of the link itself. -/
theorem State.Takes.flitIn_link (h : s.Takes d p x) (hkind : (flitHdr x).kind = 2) (hop : 3 ≤ flitOp x) :
    s.flitIn d p x = (s.linkIn d p x).1.linkOp d p x := by
  obtain ⟨htaken, -⟩ := h.effect
  unfold State.flitIn
  generalize s.linkIn d p x = r at htaken
  dsimp only
  rw [htaken, if_neg (by decide), if_pos (by simp [hkind, fkControl, opIdent, hop])]

theorem State.linkOp_ident (hop : flitOp x = 3) : s.linkOp d p x = (s.identIn d p x).freeFlit d p 4 := by
  rw [State.linkOp, if_pos (show flitOp x = opIdent from hop)]

theorem State.linkOp_probe (hop : flitOp x = 4) :
    s.linkOp d p x = (s.enqueue d p (linkFlit 5 (leBytes 4 (flitAt x 36 4)))).freeFlit d p 4 := by
  have hident : ¬ flitOp x = opIdent := by
    rw [hop]
    decide
  rw [State.linkOp, if_neg hident, if_pos (show flitOp x = opProbe from hop), opEcho]

theorem State.linkOp_echo (hop : flitOp x = 5) : s.linkOp d p x = (s.echoIn d p x).freeFlit d p 4 := by
  have hident : ¬ flitOp x = opIdent := by
    rw [hop]
    decide
  have hprobe : ¬ flitOp x = opProbe := by
    rw [hop]
    decide
  rw [State.linkOp, if_neg hident, if_neg hprobe]

/-- A flit with a job goes on, or is at its last hop. -/
theorem State.Takes.flitIn_job (h : s.Takes d p x) (hkind : (flitHdr x).kind = 1 ∨ (flitHdr x).kind = 2 ∧ flitOp x ≤ 2) :
    s.flitIn d p x = if (flitHdr x).hop < (flitHdr x).hopsM1 then (s.linkIn d p x).1.transitFlit d p (flitHdr x) x
      else (s.linkIn d p x).1.deliver d p (flitHdr x) x := by
  obtain ⟨htaken, -⟩ := h.effect
  have hnot : ¬ ((decide ((flitHdr x).kind = fkControl) && decide (opIdent ≤ flitOp x)) = true) := by
    rw [Bool.and_eq_true, decide_eq_true_iff, decide_eq_true_iff]
    unfold fkControl opIdent
    omega
  unfold State.flitIn
  generalize s.linkIn d p x = r at htaken
  dsimp only
  rw [htaken, if_neg (by decide), if_neg hnot]

/-- A flit of a sysjob that is not bound is counted and reported. -/
theorem State.deliver_unbound (h : (s.ferry.binds.find? fun b => b.sysjob == (flitHdr x).sysjob) = none) :
    (s.deliver d p (flitHdr x) x).fld (sqPage .ferryPkg) unboundCount_count = (s.fld (sqPage .ferryPkg) unboundCount_count + 1) % 2 ^ 32
      ∧ (s.deliver d p (flitHdr x) x).fld (sqPage .ferryPkg) ferryPkg_evtRaw_unboundDrop = 1
      ∧ State.SameBut [.ferry, .regs, .out] s (s.deliver d p (flitHdr x) x) := by
  have he : s.deliver d p (flitHdr x) x = ((s.bump (sqPage .ferryPkg) unboundCount_count).event (sqPage .ferryPkg)
      ferryPkg_evtRaw_unboundDrop).freeFlit d p (flitHdr x).vc := by
    unfold State.deliver
    rw [h]
  rw [he]
  have hbump : (s.bump (sqPage .ferryPkg) unboundCount_count).fld (sqPage .ferryPkg) unboundCount_count
      = (s.fld (sqPage .ferryPkg) unboundCount_count + 1) % 2 ^ 32 := State.fld_bump s _ _ _ rfl rfl
  have hsame : State.SameBut [.ferry, .regs, .out] s (s.bump (sqPage .ferryPkg) unboundCount_count) := State.setFld_same (.refl _ s) (by decide)
  generalize s.bump (sqPage .ferryPkg) unboundCount_count = u at hbump hsame
  have hcount : (u.event (sqPage .ferryPkg) ferryPkg_evtRaw_unboundDrop).fld (sqPage .ferryPkg) unboundCount_count
      = u.fld (sqPage .ferryPkg) unboundCount_count := State.event_fld (by decide) (by decide) (by decide)
  have hbit : (u.event (sqPage .ferryPkg) ferryPkg_evtRaw_unboundDrop).fld (sqPage .ferryPkg) ferryPkg_evtRaw_unboundDrop = 1 :=
    State.event_bit (by decide) (by decide) rfl (by decide)
  have hout := u.event_same_out (sqPage .ferryPkg) ferryPkg_evtRaw_unboundDrop
  generalize u.event (sqPage .ferryPkg) ferryPkg_evtRaw_unboundDrop = v at hcount hbit hout
  have hfree : State.SameBut [.ferry] v (v.freeFlit d p (flitHdr x).vc) := State.freeFlit_same (.refl _ v) (List.Subset.refl _)
  exact ⟨by rw [hfree.fld (by decide), hcount, hbump], by rw [hfree.fld (by decide), hbit],
    (hsame.trans (hout.mono (by decide))).trans (hfree.mono (by decide))⟩

section Bound

variable {b : Binding} (h : (s.ferry.binds.find? fun b => b.sysjob == (flitHdr x).sysjob) = some b)
include h

/-- A DATA flit of a bound sysjob. -/
theorem State.deliver_data (hkind : (flitHdr x).kind = 1) : s.deliver d p (flitHdr x) x = s.dataIn d p b.job (flitHdr x) x := by
  unfold State.deliver
  rw [h]
  exact if_pos hkind

/-- A BELL of a bound sysjob. -/
theorem State.deliver_bell (hkind : (flitHdr x).kind = 2) (hop : flitOp x = 0) : s.deliver d p (flitHdr x) x
    = (s.ferryBell (BitVec.ofNat 128 (flitAt x 16 16)) (portPage d p)).freeFlit d p (flitHdr x).vc := by
  have hdata : ¬ (flitHdr x).kind = fkData := by
    unfold fkData
    omega
  unfold State.deliver
  rw [h]
  dsimp only
  rw [if_neg hdata, if_pos (show flitOp x = opBell from hop)]

/-- A JOB_STOP or a WITHDRAW of a bound sysjob, for its job. -/
theorem State.deliver_control {j : Job} (hj : s.job? b.job = some j) (hkind : (flitHdr x).kind = 2) (hop : flitOp x ≠ 0) :
    s.deliver d p (flitHdr x) x = (if flitOp x = 1 then s.jobStopIn j (flitCode x) (flitAt x 34 2)
      else s.withdrawIn j (flitCode x) (flitAt x 34 2)).freeFlit d p (flitHdr x).vc := by
  have hdata : ¬ (flitHdr x).kind = fkData := by
    unfold fkData
    omega
  unfold State.deliver
  rw [h]
  dsimp only
  rw [if_neg hdata, if_neg (show ¬ flitOp x = opBell from hop), hj]
  rfl

end Bound

end Accepted

/-- Settles O41: the link layer accepts the flit, and its kind, op and hop choose what it does. -/
theorem flitsAreAcceptedAndAct : Obligations.FlitsAreAcceptedAndAct := by
  refine ⟨fun d p x s htakes => ?accepted, fun d p x b j s htakes => ?acts⟩
  case accepted =>
    obtain ⟨htaken, hexpect, hcount, -, -⟩ := htakes.effect
    exact ⟨htaken, hexpect, hcount, htakes.same⟩
  case acts =>
    intro h u
    obtain ⟨-, -, -, hbinds, hregs⟩ := htakes.effect
    have hlink (hkind : h.kind = 2) (hop : 3 ≤ flitOp x) : s.flitIn d p x = u.linkOp d p x := htakes.flitIn_link hkind hop
    have hlast (hend : h.hop = h.hopsM1) (hkind : h.kind = 1 ∨ h.kind = 2 ∧ flitOp x ≤ 2) : s.flitIn d p x = u.deliver d p h x :=
      (htakes.flitIn_job hkind).trans (if_neg (Nat.not_lt.mpr hend.ge))
    have hu (hbound : (s.ferry.binds.find? fun b => b.sysjob == h.sysjob) = some b) :
        (u.ferry.binds.find? fun b => b.sysjob == h.sysjob) = some b := by rw [hbinds]; exact hbound
    have hj (hjob : s.job? b.job = some j) : u.job? b.job = some j := by
      rw [State.job?, htakes.same.loader (by decide)]
      exact hjob
    have hexec {c : Instr} {t : State}
        (hc : c ∈ [Instr.data d p x, .bell d p x, .jobStop d p x, .withdraw d p x, .ident d p x, .probe d p x, .echo d p x, .nak d p x])
        (ht : s.flitIn d p x = t) : exec c s = .next t := (exec_flit hc).trans (congrArg Host.Outcome.next ht)
    refine ⟨fun hkind hop => ?ident, fun hkind hop => ?probe, fun hkind hop => ?echo, fun hkind hhop => ?transit,
      fun hend hnone hkind c hc => ?unbound, fun hend hbound => ⟨fun hkind => ?data, fun hkind hop => ?bell, fun hkind hjob => ⟨fun hop => ?stop,
        fun hop => ?withdraw⟩⟩⟩
    case ident => exact hexec (by simp) ((hlink hkind (by omega)).trans (State.linkOp_ident hop))
    case probe => exact hexec (by simp) ((hlink hkind (by omega)).trans (State.linkOp_probe hop))
    case echo => exact hexec (by simp) ((hlink hkind (by omega)).trans (State.linkOp_echo hop))
    case transit => exact hexec (by simp) ((htakes.flitIn_job (.inl hkind)).trans (if_pos hhop))
    case unbound =>
      have hu : (u.ferry.binds.find? fun b => b.sysjob == h.sysjob) = none := by rw [hbinds]; exact hnone
      obtain ⟨hcount, hbit, hsame⟩ := State.deliver_unbound (d := d) (p := p) (x := x) hu
      have hfld : u.fld (sqPage .ferryPkg) unboundCount_count = s.fld (sqPage .ferryPkg) unboundCount_count :=
        congrArg (getField · 31 0) (hregs 0xA070 (by decide))
      have hflit : c ∈ [Instr.data d p x, .bell d p x, .jobStop d p x, .withdraw d p x, .ident d p x, .probe d p x, .echo d p x, .nak d p x] :=
        List.mem_append_left [Instr.ident d p x, Instr.probe d p x, Instr.echo d p x, Instr.nak d p x] hc
      rw [hfld] at hcount
      exact ⟨_, hexec hflit (hlast hend hkind), hcount, hbit, htakes.same.trans (hsame.mono (by decide))⟩
    case data =>
      exact hexec (by simp) ((hlast hend (.inl hkind)).trans (State.deliver_data (hu hbound) hkind))
    case bell =>
      exact hexec (by simp) ((hlast hend (.inr ⟨hkind, by omega⟩)).trans (State.deliver_bell (hu hbound) hkind hop))
    case stop =>
      refine hexec (by simp) ((hlast hend (.inr ⟨hkind, by omega⟩)).trans ((State.deliver_control (hu hbound) (hj hjob) hkind (by omega)).trans ?_))
      rw [if_pos hop]
    case withdraw =>
      refine hexec (by simp) ((hlast hend (.inr ⟨hkind, by omega⟩)).trans ((State.deliver_control (hu hbound) (hj hjob) hkind (by omega)).trans ?_))
      rw [if_neg (by omega)]

end Sys2Proof.Machine

namespace Sys2Proof.Machine

/-! ### Training, sending and replay (R369, R370, R373, R374, R380, R381) -/

namespace State

variable {s : State} {d p : Nat}

/-- A port that begins its training: TRAINING, with a link that starts again. -/
theorem trainPort_effect (s : State) (d p : Nat) : (s.trainPort d p).portState d p = 1
    ∧ ((s.trainPort d p).port d p).nextSeq = 0 ∧ ((s.trainPort d p).port d p).expect = 0 ∧ ((s.trainPort d p).port d p).replay = []
    ∧ ∀ a, a < 0x20000 → a ≠ 0xA018 ∧ a ≠ 0xA074 → (s.trainPort d p).reg a = s.reg a := by
  obtain ⟨hstate, w, f, hport⟩ := s.leaveUp_effect d p 1 (s.port d p).fresh (by decide)
  have hreg (a : Nat) (ha : a < 0x20000) (hne : a ≠ 0xA018 ∧ a ≠ 0xA074) : (s.leaveUp d p 1 (s.port d p).fresh).reg a = s.reg a := by
    have hhigh := fieldAddr_port_high d p flStatus_state
    have hmsg : isMsgReg a = false := by
      have : ¬ 0x20000 ≤ a := by omega
      simp [isMsgReg, this]
    exact leaveUp_reg s d p 1 _ hmsg hne (by omega)
  unfold trainPort
  generalize s.leaveUp d p 1 (s.port d p).fresh = u at hstate hport hreg
  dsimp only
  have hother (v : State) (g : FieldRow) (n : Nat) (hg : g.off ≠ 0x048) : (v.setFld (portPage d p) g n).portState d p = v.portState d p :=
    fld_setFld_far _ _ _ _ _ _ 0 0 (fieldAddr_port_ne hg.symm)
  have hlow (v : State) (g : FieldRow) (n : Nat) {a : Nat} (ha : a < 0x20000) : (v.setFld (portPage d p) g n).reg a = v.reg a := by
    refine reg_setFld_other _ _ _ _ _ ?_
    have := fieldAddr_port_high d p g
    omega
  have hferry : (((u.setFld (portPage d p) flNeighbour_valid 0).setFld (portPage d p) flRtt_ns 0).setFld (portPage d p) flCtrl_retrain 0).ferry
      = u.ferry := by rw [setFld_ferry, setFld_ferry, setFld_ferry]
  have hnew := port_of_ferry hferry d p
  rw [hport] at hnew
  refine ⟨?_, by rw [hnew]; rfl, by rw [hnew]; rfl, by rw [hnew]; rfl, fun a ha hne => ?_⟩
  · rw [hother _ _ _ (by decide), hother _ _ _ (by decide), hother _ _ _ (by decide), hstate]
  · rw [hlow _ _ _ ha, hlow _ _ _ ha, hlow _ _ _ ha, hreg a ha hne]

theorem enqueue_port (s : State) (d p : Nat) (w : PortWait) :
    (s.enqueue d p w).port d p = { s.port d p with waiting := (s.port d p).waiting ++ [w] } := s.setPort_port d p _

theorem enqueue_reg (s : State) (d p : Nat) (w : PortWait) (a : Nat) : (s.enqueue d p w).reg a = s.reg a := s.setPort_reg d p _ a

theorem emitFlit_ferry (s : State) (d p : Nat) (y : Flit) : (s.emitFlit d p y).ferry = s.ferry :=
  (withOut_same (.refl [.out] s) (List.Subset.refl _)).ferry (by decide)

/-- A flit that is counted and leaves the port. -/
theorem sent_ferry (u : State) (d p : Nat) (y : Flit) : ((u.bump (portPage d p) txFlits_count).emitFlit d p y).ferry = u.ferry := by
  rw [emitFlit_ferry, bump, setFld_ferry]

/-- A slot with an IDLE flit. -/
theorem idleSlot_port (s : State) (d p : Nat) :
    (s.idleSlot d p).port d p = { (s.port d p).stamped with ctrlGap := min ((s.port d p).ctrlGap + 1) 8 } :=
  (port_of_ferry (emitFlit_ferry _ d p _) d p).trans (s.setPort_port d p _)

/-- A slot with a flit of the replay: it is sent, or held back for an IDLE flit. -/
theorem portSlot_resend {y : Flit} {ys : List Flit} (h : (s.port d p).resend = y :: ys) : s.portSlot d p =
    if (flitHdr y).kind = 2 ∧ (s.port d p).dataWaits = true ∧ (s.port d p).ctrlGap < 7 then s.idleSlot d p
    else (((s.setPort d p { (s.port d p).restamped ((flitHdr y).kind == fkControl) with resend := ys }).bump (portPage d p)
      txFlits_count).emitFlit d p (mkFlit ((s.port d p).restamp (flitHdr y)) y.payload)) := by
  unfold portSlot
  dsimp only
  rw [h]
  dsimp only
  refine if_congr ?_ rfl rfl
  simp [fkControl, and_assoc]

/-- A slot without a replay. -/
theorem portSlot_new (h : (s.port d p).resend = []) : s.portSlot d p =
    ((s.port d p).choose (s.portState d p == 1)).elim (s.idleSlot d p) fun r => s.sendNew d p r.1 r.2 := by
  unfold portSlot
  dsimp only
  rw [h]
  dsimp only
  cases (s.port d p).choose (s.portState d p == 1) <;> rfl

/-- A new flit of this package takes the next number and enters the replay buffer. -/
theorem sendNew_port {i : Nat} {w : PortWait} (hsrc : w.src = none) :
    ((s.sendNew d p i w).port d p).replay.length = (s.port d p).replay.length + 1
      ∧ ((s.sendNew d p i w).port d p).nextSeq = ((s.port d p).nextSeq + 1) % 1024
      ∧ ((s.sendNew d p i w).port d p).waiting = (s.port d p).waiting.eraseIdx i := by
  have hfree (u : State) : u.freeWait w = u := by
    unfold freeWait
    rw [hsrc]
  unfold sendNew
  extract_lets x h h' y ctl inTile probe st u v z
  have hu : u.port d p = _ := s.setPort_port d p _
  have hv : v = u := hfree u
  have hz : z.ferry = u.ferry := by
    rw [← hv]
    simp only [z]
    split
    · exact (withFlight_same (.refl [.flight] v) (List.Subset.refl _)).ferry (by decide)
    · rfl
  have hlast : ((z.bump (portPage d p) txFlits_count).emitFlit d p y).ferry = u.ferry := (z.sent_ferry d p y).trans hz
  rw [port_of_ferry hlast, hu]
  exact ⟨by simp [x], rfl, rfl⟩

theorem flitTransmit_eq (h : s.linkOn d p = true) : exec (.flitTransmit d p) s = .next (s.portSlot d p) :=
  congrArg Host.Outcome.next (if_pos h)

/-- What an IDLE flit brings: its header, where it is intact. -/
theorem linkIn_idle {x : Flit} (hon : s.linkOn d p = true) (hkind : (flitHdr x).kind = 0) :
    s.linkIn d p x = (if flitOk x then s.headerIn d p (flitHdr x) else s, false) := by
  have hidle : (flitHdr x).kind = fkIdle := hkind
  unfold linkIn
  dsimp only
  rw [if_neg (by simp [hon])]
  cases hok : flitOk x with
  | false => rw [if_pos (by simp), if_pos hidle, if_neg (by simp)]
  | true => rw [if_neg (by simp), if_pos (by simp [hidle]), if_pos rfl]

/-- A NAK that is an IDLE flit. -/
theorem exec_nak_idle {x : Flit} (hon : s.linkOn d p = true) (hkind : (flitHdr x).kind = 0) (hok : flitOk x = true) :
    exec (.nak d p x) s = .next (s.headerIn d p (flitHdr x)) := by
  have hlink := linkIn_idle (x := x) hon hkind
  rw [if_pos hok] at hlink
  refine (exec_flit (d := d) (p := p) (x := x) (by simp)).trans (congrArg Host.Outcome.next ?_)
  unfold flitIn
  rw [hlink]
  rfl

/-- The header of a NAK: its acknowledgement, and a replay of what is still without one. -/
theorem headerIn_nak {h : FlitHdr} (hnak : h.nak = true) :
    s.headerIn d p h = (s.setPort d p (ackedPort (s.port d p) h)).replayPort d p := by
  rw [headerIn_eq, hnak]
  rfl

/-- The replay that a NAK brings about, short of the sixteenth. -/
theorem headerIn_replays {h : FlitHdr} (hd : d < 8) (hnak : h.nak = true) (hne : (ackedPort (s.port d p) h).replay ≠ [])
    (hlt : (ackedPort (s.port d p) h).replays + 1 < 16) :
    (s.headerIn d p h).port d p
        = { ackedPort (s.port d p) h with resend := (ackedPort (s.port d p) h).replay, replays := (ackedPort (s.port d p) h).replays + 1 }
      ∧ (s.headerIn d p h).fld (portPage d p) ferry_replayCount_count = (s.fld (portPage d p) ferry_replayCount_count + 1) % 2 ^ 32 := by
  rw [headerIn_nak hnak]
  have hport := s.setPort_port d p (ackedPort (s.port d p) h)
  have hfld : (s.setPort d p (ackedPort (s.port d p) h)).fld (portPage d p) ferry_replayCount_count
      = s.fld (portPage d p) ferry_replayCount_count := fld_of_reg (s.setPort_reg d p _) _ _ 0
  generalize s.setPort d p (ackedPort (s.port d p) h) = u at hport hfld
  rw [← hport] at hne hlt
  obtain ⟨hnew, -, hcount, -⟩ := replaying_effect (s := u) (p := p) hd
  rw [replayPort_again hne hlt, ← hfld, ← hport]
  exact ⟨hnew, hcount⟩

theorem ackedPort_same {x : Port} {h : FlitHdr} (hack : h.ack = x.acked) :
    (ackedPort x h).replay = x.replay ∧ (ackedPort x h).replays = x.replays := by
  have hn : (h.ack + 1024 - x.acked) % 1024 = 0 := by omega
  unfold ackedPort
  extract_lets new n y
  rw [if_neg (by simp [n, hn])]
  exact ⟨rfl, rfl⟩

theorem ackedPort_advances {x : Port} {h : FlitHdr} (hpos : 0 < (h.ack + 1024 - x.acked) % 1024)
    (hle : (h.ack + 1024 - x.acked) % 1024 ≤ x.replay.length) :
    (ackedPort x h).acked = h.ack ∧ (ackedPort x h).replays = 0 ∧ (ackedPort x h).replay = x.replay.drop ((h.ack + 1024 - x.acked) % 1024) := by
  unfold ackedPort
  extract_lets new n y
  rw [if_pos (by simp [n, hpos, hle])]
  exact ⟨rfl, rfl, rfl⟩

end State

/-- Settles O43: a port's training, its loss, its slots and its replays, each by the rule of its part. -/
theorem portsTrainSendAndReplay : Obligations.PortsTrainSendAndReplay := by
  refine ⟨fun d p s => ⟨fun hok hserved hen hdown hnotUp => ?lock, fun hon => ?lost, fun r es hload => ?load⟩,
    fun d p x s hon => ⟨fun y ys hresend => ?again, fun hnone hchoose => ?idle, fun i w hnone hchoose hsrc => ?new, fun hkind hok => ?intact,
      fun hkind hbad => ?corrupt⟩,
    fun d p x s hon hne => ⟨fun hlt => ⟨?timeout, fun hok hkind hnak hack => ?nak⟩, fun hok hkind hnak hpos hless => ?advance, fun hlast => ?last⟩⟩
  case lock =>
    have hd : d < 8 := by
      simp only [portOk, Bool.and_eq_true, decide_eq_true_eq] at hok
      exact hok.1
    obtain ⟨hstate, hseq, hexpect, hreplay, hregs⟩ := s.trainPort_effect d p
    have hsame : State.SameBut [.ferry, .regs, .out] s (s.trainPort d p) := State.trainPort_same (.refl _ s) (by decide)
    have hexec : exec (.phyLock d p) s = .next ((s.trainPort d p).enqueue d p (linkFlit 3
        (leBytes 2 ((s.trainPort d p).fld (sqPage .ferryPkg) ferryNode_node) ++ leBytes 1 (d * 14 + p)))) := by
      show execPhyLock d p s = _
      unfold execPhyLock
      rw [if_pos (by simp [hok, hserved, hen, hnotUp]), if_neg hdown, opIdent]
    have hnode : (s.trainPort d p).fld (sqPage .ferryPkg) ferryNode_node = s.fld (sqPage .ferryPkg) ferryNode_node :=
      congrArg (getField · 14 0) (hregs 0xA044 (by decide) (by decide))
    rw [hnode] at hexec
    generalize s.trainPort d p = u at hstate hseq hexpect hreplay hsame hexec
    refine ⟨_, hexec, ?_, ?_, ?_, ?_, ?_, hsame.trans (State.enqueue_same (.refl _ u) (by decide))⟩
    · exact (fld_of_reg (u.enqueue_reg d p _) _ _ 0).trans hstate
    · rw [State.enqueue_port]
      exact hseq
    · rw [State.enqueue_port]
      exact hexpect
    · rw [State.enqueue_port]
      exact hreplay
    · rw [State.enqueue_port]
      exact List.getLast?_concat
  case lost =>
    obtain ⟨hd, -⟩ := State.linkOn_range hon
    exact ⟨_, congrArg Host.Outcome.next (if_pos hon), s.portLost_effect d p 2 hd⟩
  case load =>
    let u := (s.setFld (sqPage .ferryPkg) routeStatus_busy 0).setFld (sqPage .ferryPkg) routeStatus_result r
    have hbusy : u.fld (sqPage .ferryPkg) routeStatus_busy = 0 :=
      (State.fld_setFld_beside (f := routeStatus_busy) (g := routeStatus_result) _ _ _ rfl (by decide)).trans (State.fld_setFld _ _ _ _ _ (by decide) (by decide))
    have hresult : u.fld (sqPage .ferryPkg) routeStatus_result = r % 4 := State.fld_setFld _ _ _ _ _ (by decide) (by decide)
    have hferry : u.ferry = s.ferry := by simp only [u, State.setFld_ferry]
    have hexec : exec .routeLoadComplete s = .next (if r = 0 then
        (u.withFerry { u.ferry with loading := none, routes := es }).setFld (sqPage .ferryPkg) routeStatus_loaded 1
        else u.withFerry { u.ferry with loading := none }) := by
      show execRouteLoadComplete s = _
      unfold execRouteLoadComplete
      rw [hload]
      exact (apply_ite Host.Outcome.next _ _ _).symm
    clear_value u
    refine ⟨_, hexec, ?_⟩
    split
    · refine ⟨(State.setFld_ferry _ _ _ _ _).trans ?_, ?_, ?_⟩
      · rw [← hferry]
        rfl
      · exact (State.fld_setFld_beside (f := routeStatus_busy) (g := routeStatus_loaded) _ _ _ rfl (by decide)).trans hbusy
      · exact (State.fld_setFld_beside (f := routeStatus_result) (g := routeStatus_loaded) _ _ _ rfl (by decide)).trans hresult
    · refine ⟨?_, hbusy, hresult⟩
      rw [← hferry]
      rfl
  case again =>
    refine ⟨_, State.flitTransmit_eq hon, ?_⟩
    rw [State.portSlot_resend hresend]
    split
    · rw [State.idleSlot_port]
      exact ⟨hresend, rfl, rfl⟩
    · rw [State.port_of_ferry (State.sent_ferry _ d p _) d p, State.setPort_port]
      exact ⟨rfl, rfl, rfl⟩
  case idle =>
    refine ⟨_, State.flitTransmit_eq hon, ?_⟩
    rw [State.portSlot_new hnone, hchoose, Option.elim, State.idleSlot_port]
    exact ⟨rfl, rfl⟩
  case new =>
    refine ⟨_, State.flitTransmit_eq hon, ?_⟩
    rw [State.portSlot_new hnone, hchoose, Option.elim]
    exact State.sendNew_port hsrc
  case intact =>
    have hlink := State.linkIn_idle (x := x) hon hkind
    rw [if_pos hok] at hlink
    exact congrArg (fun r => Host.Outcome.next r.1) hlink
  case corrupt =>
    have hlink := State.linkIn_idle (x := x) hon hkind
    rw [if_neg (by simp [hbad])] at hlink
    exact congrArg (fun r => Host.Outcome.next r.1) hlink
  case timeout =>
    obtain ⟨hd, -⟩ := State.linkOn_range hon
    obtain ⟨hport, -, hcount, -⟩ := State.replaying_effect (s := s) (p := p) hd
    refine ⟨s.replaying d p, ?_, by rw [hport], hcount⟩
    exact (congrArg Host.Outcome.next (if_pos hon)).trans (congrArg Host.Outcome.next (State.replayPort_again hne hlt))
  case nak =>
    obtain ⟨hd, -⟩ := State.linkOn_range hon
    obtain ⟨hreplay, hreplays⟩ := State.ackedPort_same hack
    obtain ⟨hport, hcount⟩ := State.headerIn_replays (s := s) (p := p) hd hnak (by rw [hreplay]; exact hne) (by rw [hreplays]; exact hlt)
    refine ⟨_, State.exec_nak_idle hon hkind hok, ?_, hcount⟩
    rw [hport]
    exact hreplay
  case advance =>
    obtain ⟨hd, -⟩ := State.linkOn_range hon
    obtain ⟨hacked, hreplays, hreplay⟩ := State.ackedPort_advances hpos hless.le
    have hleft : (State.ackedPort (s.port d p) (flitHdr x)).replay ≠ [] := by
      rw [hreplay]
      exact fun h => absurd (List.drop_eq_nil_iff.mp h) (Nat.not_le.mpr hless)
    obtain ⟨hport, hcount⟩ := State.headerIn_replays (s := s) (p := p) hd hnak hleft (by omega)
    refine ⟨_, State.exec_nak_idle hon hkind hok, ?_, ?_, ?_, ?_, hcount⟩
    · rw [hport]
      exact hacked
    · rw [hport]
      show (State.ackedPort (s.port d p) (flitHdr x)).replays + 1 = 1
      rw [hreplays]
    · rw [hport]
      exact hreplay
    · rw [hport]
      exact hreplay
  case last =>
    obtain ⟨hd, -⟩ := State.linkOn_range hon
    refine ⟨(s.replaying d p).portLost d p 1, ?_, ((s.replaying d p).portLost_effect d p 1 hd).1⟩
    exact (congrArg Host.Outcome.next (if_pos hon)).trans (congrArg Host.Outcome.next (State.replayPort_last hne hlast))

end Sys2Proof.Machine

namespace Sys2Proof.Machine

/-! ### The deadline of an entry of an OPEN job (O39) -/

/-- Job 1, of class OPEN. -/
def openJob : Job :=
  { handle := 1, f := 3, bundle := 1, cls := 2, batch := 0, w := 1, ranks := 1, pkg := 0, req := {}, stepBell := 0, barBell := 64,
    order := 0 }

/-- An entry with a deadline, its ticket not taken in, for job 1. -/
def openJobEntry : AEntry := ⟨100, 200, 1, 1, 1, 0, 0, false, true, false, false, 0, 2, 0, 1, false, 3⟩

/-- The package after its reset, with `openJob` admitted and `openJobEntry` in the Almanac. -/
def openJobState : State :=
  (State.reset.withLoader { State.reset.loader with jobs := [openJob] }).setAlm 0 (some openJobEntry)

theorem openJobState_almEntry : openJobState.almEntry 0 = some openJobEntry := by decide +kernel

/-- The deadline passes by an entry whose job is OPEN. -/
theorem State.deadlineOf_of_open {s : State} {i : Nat} {e : AEntry} (he : s.almEntry i = some e)
    (ho : (s.job? e.job).any (·.cls == 2) = true) : s.deadlineOf i = s := by
  simp only [State.deadlineOf, he, ho, if_true]

/-- Refutes O39: the deadline transit frees no entry of an OPEN job, though its ticket was never taken in; the statement's first
clause asks for it whatever the job's class is. -/
theorem not_almanacEventsAct : ¬ Obligations.AlmanacEventsAct := by
  unfold Obligations.AlmanacEventsAct
  intro h
  obtain ⟨freed, -⟩ := h.1 0 openJobEntry openJobState
  obtain ⟨t, ht, hnone, -⟩ := freed (by decide) openJobState_almEntry (by decide) rfl
  have hkept : exec (.deadlineTransit 0) openJobState = .next openJobState :=
    congrArg Host.Outcome.next
      (State.deadlineOf_of_open openJobState_almEntry (by decide +kernel) : openJobState.deadlineOf 0 = openJobState)
  rw [hkept] at ht
  injection ht with ht
  rw [← ht, openJobState_almEntry] at hnone
  exact absurd hnone (by simp)

end Sys2Proof.Machine

namespace Sys2Proof.Machine

/-! ### PTP messages (O37) -/

namespace State

variable {s : State}

/-- What the package has sent on the network, and written to the host's memory. -/
def sentOut (s : State) : List (Nat × Nat) × List (Nat × List Byte) := (s.out.ptp, s.out.host)

theorem sentOut_of_out {t : State} (h : t.out = s.out) : t.sentOut = s.sentOut := by rw [sentOut, h, sentOut]

theorem setFld_out (s : State) (p : Page) (f : FieldRow) (v i : Nat) : (s.setFld p f v i).out = s.out :=
  (setFld_same (w := [.regs]) (.refl _ s) (List.Subset.refl _)).out (by decide)

theorem msix_sentOut (s : State) (f v : Nat) : (s.msix f v).sentOut = s.sentOut := by
  have hdrop (u : State) (g : Nat) : (u.dropOne g).sentOut = u.sentOut :=
    sentOut_of_out ((setFld_out _ _ _ _ _).trans ((bumpSat_same (w := [.regs]) (.refl _ u) (List.Subset.refl _)).out (by decide)))
  unfold msix
  split
  · rfl
  split
  · rfl
  unfold dropMsg
  extract_lets g u
  have hu : u.sentOut = s.sentOut := hdrop s f
  split
  · split
    · split
      · exact hu
      · exact (hdrop u _).trans hu
    · exact hu
  · exact hu

/-- An event may raise an interrupt: it sends nothing else, and writes nothing to the host's memory. -/
theorem event_sentOut (s : State) (p : Page) (bit : FieldRow) : (s.event p bit).sentOut = s.sentOut := by
  have hset : (s.setFld p bit 1).sentOut = s.sentOut := sentOut_of_out (setFld_out _ _ _ _ _)
  unfold event attnRise
  extract_lets g
  split
  · split
    · exact (msix_sentOut _ _ _).trans hset
    · exact hset
  · exact hset

/-- A measurement takes no message in and sends none: what waits for a Follow_Up, and what the port has sent. -/
structure PtpKept (s t : State) : Prop where
  twoStep : t.mer.twoStep = s.mer.twoStep
  sent : t.out.ptp = s.out.ptp

namespace PtpKept

theorem refl (s : State) : PtpKept s s := ⟨rfl, rfl⟩

theorem trans {s t u : State} (h : PtpKept s t) (h' : PtpKept t u) : PtpKept s u :=
  ⟨h'.twoStep.trans h.twoStep, h'.sent.trans h.sent⟩

theorem withMer {s t : State} {m : Meridian} (h : PtpKept s t) (hm : m.twoStep = s.mer.twoStep) : PtpKept s (t.withMer m) :=
  ⟨hm, h.sent⟩

theorem setFld (s : State) (p : Page) (f : FieldRow) (v : Nat) : PtpKept s (s.setFld p f v) :=
  have same : SameBut [.regs] s (s.setFld p f v) := setFld_same (.refl _ s) (List.Subset.refl _)
  ⟨congrArg _ (same.mer (by decide)), congrArg _ (same.out (by decide))⟩

theorem setMerState (s : State) (v : Nat) : PtpKept s (s.setMerState v) := (setFld _ _ _ _).trans (setFld _ _ _ _)

theorem event (s : State) (p : Page) (bit : FieldRow) : PtpKept s (s.event p bit) :=
  ⟨congrArg _ ((event_same_out s p bit).mer (by decide)), congrArg Prod.fst (event_sentOut s p bit)⟩

theorem merReturn (s : State) : PtpKept s s.merReturn := by
  unfold State.merReturn
  extract_lets u
  have hu : PtpKept s u := by
    simp only [u, merRebase]
    split <;> exact (refl s).withMer rfl
  split
  · exact (hu.trans (setMerState u _)).withMer hu.twoStep
  · exact refl s

theorem correct (s : State) (ptp : Bool) (sure here : Nat) (off : Int) : PtpKept s (s.correct ptp sure here off) := by
  unfold State.correct
  extract_lets u m
  have hu : PtpKept s u := setFld _ _ _ _
  split
  · refine PtpKept.trans ?_ (event _ _ _)
    exact hu.withMer hu.twoStep
  · exact hu.withMer hu.twoStep

theorem countLock (s : State) (off : Int) (n : Nat) : PtpKept s (s.countLock off n) := by
  unfold State.countLock
  extract_lets k m u
  have hu : PtpKept s u := (refl s).withMer rfl
  split
  · split
    · split
      · exact (hu.trans (setMerState u _)).trans (event _ _ _)
      · exact hu
    · exact (refl s).withMer rfl
  · exact refl s

theorem ptpMeasure (s : State) (own : Nat) (t : Int) : PtpKept s (s.ptpMeasure own t) := by
  unfold State.ptpMeasure
  extract_lets u v t here off w
  have hv : PtpKept s v := (merReturn s).withMer (merReturn s).twoStep
  exact (hv.trans (correct v _ _ _ _)).trans (countLock w _ _)

end PtpKept

theorem sendDelayReq_delayReq (s : State) (seq : Nat) (t : Int) : (s.sendDelayReq seq t).mer.delayReq = some (seq, t) := rfl

theorem sendDelayReq_twoStep (s : State) (seq : Nat) (t : Int) : (s.sendDelayReq seq t).mer.twoStep = s.mer.twoStep := rfl

theorem sendDelayReq_ptp (s : State) (seq : Nat) (t : Int) : (s.sendDelayReq seq t).out.ptp = s.out.ptp ++ [(1, seq)] := rfl

/-- A measurement's Delay_Req. -/
theorem measured_delayReq (s : State) (own seq : Nat) (t2 t : Int) :
    ((s.ptpMeasure own t2).sendDelayReq seq t).mer.delayReq = some (seq, t)
      ∧ ((s.ptpMeasure own t2).sendDelayReq seq t).mer.twoStep = s.mer.twoStep
      ∧ ((s.ptpMeasure own t2).sendDelayReq seq t).out.ptp = s.out.ptp ++ [(1, seq)] := by
  obtain ⟨htwo, hsent⟩ := PtpKept.ptpMeasure s own t2
  exact ⟨sendDelayReq_delayReq _ _ _, (sendDelayReq_twoStep _ _ _).trans htwo, by rw [sendDelayReq_ptp, hsent]⟩

end State

section
variable {s : State} (hon : s.ptpOn = true)
include hon

/-- A Sync of the selected master of the domain. -/
theorem exec_ptpSync {p : PtpSync} (hdom : p.domain = s.fld merPage merPtp_domain) (hsel : (s.master.any (·.source == p.source)) = true) :
    exec (.ptpSync p) s = .next (
      if p.twoStep then s.withMer { s.mer with twoStep := some (p.seq, 2 * s.now + (if p.half then 1 else 0), p.correction) }
      else (s.ptpMeasure (2 * s.now + (if p.half then 1 else 0)) (2 * (p.origin + p.correction) - (if p.half then 1 else 0) + s.mer.delay)).sendDelayReq
        p.seq (2 * (p.origin + p.correction) - (if p.half then 1 else 0))) := by
  change execPtpSync p s = _
  unfold execPtpSync
  rw [if_neg (by simp [hon, hdom, hsel])]
  cases p.twoStep <;> rfl

theorem exec_followUp {origin seq r : Nat} {c : Int} (hwait : s.mer.twoStep = some (seq, r, c)) :
    exec (.followUp origin seq) s = .next (((s.withMer { s.mer with twoStep := none }).ptpMeasure (2 * s.now)
      (2 * (origin + c) + (2 * (s.now : Int) - r) + s.mer.delay)).sendDelayReq seq (2 * (origin + c) + (2 * (s.now : Int) - r))) := by
  change execFollowUp origin seq s = _
  simp only [execFollowUp, hwait, hon, beq_self_eq_true, Bool.and_self, if_true]
  rfl

theorem exec_delayResponse {rx seq : Nat} {t : Int} (hwait : s.mer.delayReq = some (seq, t)) :
    exec (.delayResponse rx seq) s = .next (s.withMer { s.mer with delay := ((2 * (rx : Int) - t) / 2).toNat, delayReq := none }) := by
  change execDelayResponse rx seq s = _
  simp only [execDelayResponse, hwait, hon, beq_self_eq_true, Bool.and_self, if_true]

theorem exec_announce {ann : AnnounceMsg} (hdom : ann.domain = s.fld merPage merPtp_domain) :
    exec (.announce ann) s
      = .next (s.withMer { s.mer with masters := (s.mer.masters.filter fun m => m.source != ann.source) ++ [ann] }) := by
  change execAnnounce ann s = _
  rw [execAnnounce, if_pos (by simp [hon, hdom])]

theorem exec_ptpArp {ip : Nat} (hip : s.fld merPage merPtpIp_ipv4 = ip) :
    exec (.ptpArp ip) s = .next (s.withOut { s.out with ptp := s.out.ptp ++ [(2, s.fuses.mac)] }) := by
  have hruns : s.merRuns = true := (Bool.and_eq_true_iff.1 hon).1
  change execPtpArp ip s = _
  rw [execPtpArp, if_pos (by simp [hruns, hip])]

end

/-- Settles O37: each message's equation, and the frame of a measurement. -/
theorem ptpMessagesAct : Obligations.PtpMessagesAct := by
  unfold Obligations.PtpMessagesAct
  intro p ann origin rx seq ip s hon
  refine ⟨fun hdom hsel => ⟨fun htwo => ?_, fun htwo => ?_⟩, fun r c hwait => ?_, fun t hwait => exec_delayResponse hon hwait,
    fun hdom => ?_, exec_ptpArp hon⟩
  case refine_1 => rw [exec_ptpSync hon hdom hsel, htwo, if_pos rfl]
  case refine_2 =>
    rw [exec_ptpSync hon hdom hsel, htwo, if_neg Bool.false_ne_true]
    obtain ⟨hreq, -, hsent⟩ := s.measured_delayReq (2 * s.now + (if p.half then 1 else 0)) p.seq
      (2 * (p.origin + p.correction) - (if p.half then 1 else 0) + s.mer.delay) (2 * (p.origin + p.correction) - (if p.half then 1 else 0))
    exact ⟨_, rfl, hreq, hsent⟩
  case refine_3 =>
    obtain ⟨hreq, htwo, hsent⟩ := (s.withMer { s.mer with twoStep := none }).measured_delayReq (2 * s.now) seq
      (2 * (origin + c) + (2 * (s.now : Int) - r) + s.mer.delay) (2 * (origin + c) + (2 * (s.now : Int) - r))
    exact ⟨_, exec_followUp hon hwait, htwo, hreq, hsent⟩
  case refine_4 =>
    refine ⟨_, exec_announce hon hdom, by simp [State.withMer], fun m hm hne => ?_, ?_⟩
    · exact List.mem_append_left _ (List.mem_filter.2 ⟨hm, by simpa using hne⟩)
    · exact State.withMer_same (.refl _ s) (List.Subset.refl _)

end Sys2Proof.Machine

namespace Sys2Proof.Machine

/-! ### The loss of the reference, and the first edge (O38) -/

theorem putFault_of_none {r : FaultRec} (h : r.job = none) (rs : List FaultRec) : putFault r rs = rs ++ [r] := by
  induction rs with
  | nil => rfl
  | cons x xs ih => rw [putFault, if_neg (by simp [h]), ih, List.cons_append]

namespace State

variable {s : State}

theorem setMerState_same_regs (s : State) (v : Nat) : SameBut [.regs] s (s.setMerState v) :=
  setMerState_same (.refl _ s) (List.Subset.refl _)

theorem merRebase_same_mer (s : State) : SameBut [.mer] s s.merRebase := merRebase_same (.refl _ s) (List.Subset.refl _)

theorem setMerState_merState (s : State) (v : Nat) : (s.setMerState v).merState = v % 4 :=
  fld_setFld _ merPage merStatus_state v 0 (by decide) (by decide)

theorem withMer_fld (s : State) (m : Meridian) (p : Page) (f : FieldRow) : (s.withMer m).fld p f = s.fld p f := rfl

theorem withMer_merState (s : State) (m : Meridian) : (s.withMer m).merState = s.merState := withMer_fld s m _ _

theorem event_mer_fld (s : State) (bit f : FieldRow) (hm : isMsgReg (fieldAddr merPage f 0) = false)
    (hne : fieldAddr merPage f 0 ≠ fieldAddr merPage bit 0) : (s.event merPage bit).fld merPage f = s.fld merPage f :=
  event_fld (by decide) hm hne

/-- Setting MER_STATUS.state leaves every register but MER_HOLD and MER_STATUS. -/
theorem setMerState_fld (s : State) (v : Nat) {f : FieldRow} (hhold : f.off ≠ 0x070) (hstate : f.off ≠ 0x050) :
    (s.setMerState v).fld merPage f = s.fld merPage f :=
  (fld_setFld_off _ _ _ hstate).trans (fld_setFld_off _ _ _ hhold)

/-- A LOCKED Meridian whose reference is lost with holdover_ok set. -/
theorem loseReference_holdover (hlock : s.merState = merLocked) (hok : s.fld merPage merCtrl_holdoverOk = 1) :
    s.loseReference.merState = merHoldover ∧ s.loseReference.mer.holdAt = s.now ∧ s.loseReference.mer.masters = s.mer.masters
      ∧ s.loseReference.mer.edgeAt = s.mer.edgeAt ∧ s.loseReference.now = s.now := by
  unfold loseReference
  extract_lets u v m
  have hu : SameBut [.regs, .out] s u := event_same_out s _ _
  have hokU : u.fld merPage merCtrl_holdoverOk = 1 := (event_mer_fld s _ merCtrl_holdoverOk (by decide) (by decide)).trans hok
  have hv : SameBut [.mer] u v := merRebase_same_mer u
  have hmer : v.mer.masters = s.mer.masters ∧ v.mer.edgeAt = s.mer.edgeAt := by
    rw [← hu.mer (by decide)]
    simp only [v, merRebase]
    split <;> exact ⟨rfl, rfl⟩
  have hnow : v.now = s.now := (hv.now (by decide)).trans (hu.now (by decide))
  clear_value v
  rw [if_pos hlock, if_pos hokU]
  generalize hw : v.withMer _ = w
  have hwMer : w.mer.holdAt = s.now ∧ w.mer.masters = s.mer.masters ∧ w.mer.edgeAt = s.mer.edgeAt ∧ w.now = s.now := by
    subst hw
    exact ⟨hnow, hmer.1, hmer.2, hnow⟩
  clear hw
  have hset := setMerState_same_regs w merHoldover
  have hevent := event_same_out (w.setMerState merHoldover) merPage meridian_evtRaw_holdover
  refine ⟨?_, ?_⟩
  · exact (event_mer_fld _ _ merStatus_state (by decide) (by decide)).trans (setMerState_merState w merHoldover)
  · rw [hevent.mer (by decide), hevent.now (by decide), hset.mer (by decide), hset.now (by decide)]
    exact hwMer

/-- FREE_RUN for want of a reference, with no job to withdraw. -/
theorem merLost_effect (cause : Nat) (hjobs : s.loader.jobs = []) :
    (s.merLost cause).merState = merFree ∧ (s.merLost cause).faults.map (·.code) = s.faults.map (·.code) ++ [0x4A]
      ∧ (s.merLost cause).now = s.now := by
  unfold merLost
  extract_lets u m w
  have huDef : u = (s.merRebase.fault merPage 0x4A (infoOf [(cause, 0)]) none).setMerState merFree := rfl
  clear_value m u
  generalize hr : s.merRebase = r at huDef
  have hrSame : SameBut [.mer] s r := hr ▸ merRebase_same_mer s
  generalize hf : r.fault merPage 0x4A (infoOf [(cause, 0)]) none = f at huDef
  have hfSame : SameBut [.regs, .out, .faults] r f := hf ▸ fault_same (.refl _ r) (by decide)
  have hfaults : f.faults = s.faults ++ [⟨0x4A, merPage.base, infoOf [(cause, 0)], none, 0, r.now⟩] := by
    rw [← hf, fault_faults, putFault_of_none rfl, hrSame.faults (by decide)]
  have hu : SameBut [.regs] f u := huDef ▸ setMerState_same_regs f merFree
  have hstate : u.merState = merFree := huDef ▸ setMerState_merState f merFree
  have hw : w.loader.jobs = [] := by
    rw [show w.loader = u.loader from rfl, hu.loader (by decide), hfSame.loader (by decide), hrSame.loader (by decide), hjobs]
  rw [hw]
  refine ⟨hstate, ?_, ?_⟩
  · change u.faults.map (·.code) = _
    rw [hu.faults (by decide), hfaults, List.map_append]
    rfl
  · change u.now = _
    rw [hu.now (by decide), hfSame.now (by decide), hrSame.now (by decide)]

/-- A LOCKED Meridian whose reference is lost with holdover_ok clear. -/
theorem loseReference_free (hlock : s.merState = merLocked) (hok : s.fld merPage merCtrl_holdoverOk = 0) (hjobs : s.loader.jobs = []) :
    s.loseReference.merState = merFree ∧ s.loseReference.faults.map (·.code) = s.faults.map (·.code) ++ [0x4A] := by
  unfold loseReference
  extract_lets u v m
  have hu : SameBut [.regs, .out] s u := event_same_out s _ _
  have hokU : u.fld merPage merCtrl_holdoverOk = 0 := (event_mer_fld s _ merCtrl_holdoverOk (by decide) (by decide)).trans hok
  rw [if_pos hlock, if_neg (by rw [hokU]; decide)]
  obtain ⟨hstate, hfaults, -⟩ := merLost_effect (s := u) 0 (by rw [hu.loader (by decide)]; exact hjobs)
  exact ⟨hstate, by rw [hfaults, hu.faults (by decide)]⟩

end State
/-! Commands of the reference. -/

theorem mer_fld_passTo (s : State) (n : Nat) {f : FieldRow} (hm : isMsgReg (fieldAddr merPage f 0) = false)
    (hne : fieldAddr merPage f 0 ≠ 0x7018) : (s.passTo n).fld merPage f = s.fld merPage f :=
  congrArg (getField · f.hi f.lo) (s.passTo_reg n hm hne)

theorem passTo_now_max (s : State) (n : Nat) : (s.passTo n).now = max s.now n := by
  unfold State.passTo noteStates
  split
  · exact (State.event_same_out _ _ _).now (by decide)
  · rfl

theorem merRuns_of_served {s : State} (h : s.served merPage = true) : s.merRuns = true := by rw [State.merRuns, h, Bool.true_or]

theorem exec_announceTimeout {s : State} (hserved : s.served merPage = true) (hsrc : s.merSource = 1) :
    exec .announceTimeout s = .next ((s.withMer { s.mer with masters := [], twoStep := none, delayReq := none }).loseReference) := by
  change execAnnounceTimeout s = _
  rw [execAnnounceTimeout, if_pos (by simp [State.ptpOn, merRuns_of_served hserved, hsrc])]

theorem exec_frameRefMissing {s : State} {e : Nat} (hserved : s.served merPage = true) (hsrc : s.merSource = 2) (he : s.mer.edgeAt = some e) :
    exec .frameRefMissing s = .next ((s.passTo (e + ceilDiv (3 * s.videoD * 1000000000) (2 * s.videoN))).losePulse) := by
  change execFrameRefMissing s = _
  simp only [execFrameRefMissing, he, merRuns_of_served hserved, hsrc, Bool.true_and, decide_true, if_true]

theorem exec_holdoverLimit {s : State} (hserved : s.served merPage = true) (hhold : s.merState = merHoldover)
    (hlimit : s.fld merPage merHold_limitS ≠ 0) :
    exec .holdoverLimit s = .next ((s.passTo (s.mer.holdAt + s.fld merPage merHold_limitS * 1000000000)).merLost 1) := by
  change execHoldoverLimit s = _
  rw [execHoldoverLimit, if_pos (by simp [merRuns_of_served hserved, hhold, hlimit])]

namespace State

variable {s : State}

/-- An edge's part of the Meridian: what the pulse keeps beside the time. -/
structure PulseKept (s t : State) : Prop where
  now : t.now = s.now
  edgeAt : t.mer.edgeAt = s.mer.edgeAt
  edgeFrame : t.mer.edgeFrame = s.mer.edgeFrame
  edgeArmed : t.mer.edgeArmed = s.mer.edgeArmed

theorem merRebase_pulseKept (s : State) : PulseKept s s.merRebase := by
  unfold merRebase
  extract_lets e slew
  split <;> exact ⟨rfl, rfl, rfl, rfl⟩

theorem reg_of_regs {t : State} (h : t.regs = s.regs) (a : Nat) : t.reg a = s.reg a := by simp only [reg, h]

theorem fld_of_regs {t : State} (h : t.regs = s.regs) (p : Page) (f : FieldRow) (i : Nat := 0) : t.fld p f i = s.fld p f i := by
  simp only [fld, reg_of_regs h]

theorem frameNext_of_regs {t : State} (h : t.regs = s.regs) : t.frameNext = s.frameNext := by
  simp only [frameNext, fld_of_regs h]

/-- A reference that returns to a Meridian that is not LOCKED: it acquires. -/
theorem merReturn_effect (h : s.merState = merFree ∨ s.merState = merAcquiring ∨ s.merState = merHoldover) :
    s.merReturn.merState = merAcquiring ∧ s.merReturn.frameNext = s.frameNext ∧ PulseKept s s.merReturn := by
  by_cases hacq : s.merState = merAcquiring
  · rw [merReturn, if_neg (by rw [hacq]; decide)]
    exact ⟨hacq, rfl, rfl, rfl, rfl, rfl⟩
  have hback : s.merState = merHoldover ∨ s.merState = merFree := by tauto
  unfold merReturn
  extract_lets u m
  obtain ⟨hnow, hat, hframe, harmed⟩ : PulseKept s u := merRebase_pulseKept s
  have hu : SameBut [.mer] s u := merRebase_same_mer s
  have hnext : (u.setMerState merAcquiring).frameNext = s.frameNext := by
    rw [frameNext, setMerState_fld u _ (by decide) (by decide), setMerState_fld u _ (by decide) (by decide)]
    exact frameNext_of_regs (hu.regs (by decide))
  have hsame := setMerState_same_regs u merAcquiring
  have hstate := setMerState_merState u merAcquiring
  clear_value u
  generalize u.setMerState merAcquiring = v at hnext hsame hstate
  rw [if_pos (by simpa using hback)]
  exact ⟨hstate, hnext, (hsame.now (by decide)).trans hnow, hat, hframe, harmed⟩

/-- A correction of the time leaves MER_STATUS and what the pulse keeps. -/
theorem correct_pulseKept (s : State) (ptp : Bool) (sure here : Nat) (off : Int) :
    (s.correct ptp sure here off).merState = s.merState ∧ PulseKept s (s.correct ptp sure here off) := by
  unfold correct
  extract_lets u m
  have hu : u = s.setFld merPage merOffset_ns (ofSigned 32 (max (-2147483648) (min 2147483647 off))) := rfl
  have hsame : SameBut [.regs] s u := hu ▸ setFld_same (.refl _ s) (List.Subset.refl _)
  have hstate : u.merState = s.merState := hu ▸ fld_setFld_off s merPage (f := merStatus_state) (g := merOffset_ns) _ (by decide)
  clear_value u
  have hmer := hsame.mer (by decide)
  generalize hw : u.withMer _ = w
  generalize hw' : u.withMer _ = w'
  have hkept : PulseKept s w := by
    subst hw
    exact ⟨hsame.now (by decide), congrArg (·.edgeAt) hmer, congrArg (·.edgeFrame) hmer, congrArg (·.edgeArmed) hmer⟩
  have hkept' : PulseKept s w' := by
    subst hw'
    exact ⟨hsame.now (by decide), congrArg (·.edgeAt) hmer, congrArg (·.edgeFrame) hmer, congrArg (·.edgeArmed) hmer⟩
  have hwState : w.merState = s.merState := by subst hw; exact hstate
  have hwState' : w'.merState = s.merState := by subst hw'; exact hstate
  split
  · have hevent := event_same_out w merPage meridian_evtRaw_stepped
    have heventMer := hevent.mer (by decide)
    exact ⟨(event_mer_fld w _ merStatus_state (by decide) (by decide)).trans hwState, (hevent.now (by decide)).trans hkept.now,
      (congrArg (·.edgeAt) heventMer).trans hkept.edgeAt, (congrArg (·.edgeFrame) heventMer).trans hkept.edgeFrame,
      (congrArg (·.edgeArmed) heventMer).trans hkept.edgeArmed⟩
  · exact ⟨hwState', hkept'⟩

/-- What an edge that takes a frame count does once the time is corrected by its offset. -/
def edgeCounted (u : State) (first : Bool) (off : Int) (count : Nat) : State :=
  let v := u.withMer { u.mer with edgeFrame := some count, edgeArmed := false }
  if first then v.withMer { v.mer with syncs := 1 } else v.countLock off 8

theorem countEdge_eq (s : State) (f : Nat) : s.countEdge f = (s.correct false (mkTransit f 0 0) s.transit
    (s.trOffset s.transit (mkTransit f 0 0))).edgeCounted s.mer.edgeFrame.isNone (s.trOffset s.transit (mkTransit f 0 0)) (f % 2 ^ 36) := rfl

theorem edgeCounted_first {u : State} (off : Int) (count : Nat) (hstate : u.merState = s.merState) (hat : u.mer.edgeAt = s.mer.edgeAt) :
    (u.edgeCounted true off count).merState = s.merState ∧ (u.edgeCounted true off count).mer.edgeAt = s.mer.edgeAt
      ∧ (u.edgeCounted true off count).mer.edgeFrame = some count ∧ (u.edgeCounted true off count).mer.edgeArmed = false
      ∧ (u.edgeCounted true off count).mer.syncs = 1 := by
  unfold edgeCounted
  extract_lets m v m'
  have hstateV : v.merState = u.merState := withMer_merState u _
  rw [if_pos rfl]
  exact ⟨(withMer_merState v _).trans (hstateV.trans hstate), hat, rfl, rfl, rfl⟩

/-- The first edge that takes a frame count. -/
theorem countEdge_first (f : Nat) (hfirst : s.mer.edgeFrame = none) :
    (s.countEdge f).merState = s.merState ∧ (s.countEdge f).mer.edgeAt = s.mer.edgeAt ∧ (s.countEdge f).mer.edgeFrame = some (f % 2 ^ 36)
      ∧ (s.countEdge f).mer.edgeArmed = false ∧ (s.countEdge f).mer.syncs = 1 := by
  rw [countEdge_eq, hfirst, Option.isNone_none]
  obtain ⟨hstate, -, hat, -, -⟩ := correct_pulseKept s false (mkTransit f 0 0) s.transit (s.trOffset s.transit (mkTransit f 0 0))
  exact edgeCounted_first _ _ hstate hat

/-- The Meridian's part of a pulse that counts as lost. -/
def pulseLost (m : Meridian) : Meridian := { m with edgeAt := none, edgeFrame := none, edgeArmed := false, edgeBad := 0 }

theorem losePulse_eq (s : State) : s.losePulse = (s.withMer (pulseLost s.mer)).loseReference := rfl

/-- A pulse that counts as lost, of a LOCKED Meridian with holdover_ok set. -/
theorem losePulse_holdover (hlock : s.merState = merLocked) (hok : s.fld merPage merCtrl_holdoverOk = 1) :
    s.losePulse.merState = merHoldover ∧ s.losePulse.mer.edgeAt = none ∧ s.losePulse.now = s.now := by
  obtain ⟨hstate, -, -, hat, hend⟩ := loseReference_holdover (s := s.withMer (pulseLost s.mer)) ((withMer_merState s _).trans hlock)
    ((withMer_fld s _ _ _).trans hok)
  rw [losePulse_eq]
  exact ⟨hstate, hat, hend⟩

end State

namespace State

/-- The state once an edge is seen now: the interval that it ends, and the bad ones so far. -/
def edgeSeen (u : State) (interval : Option Nat) (bad : Nat) : State :=
  u.withMer { u.mer with edgeAt := some u.now, edgeBad := bad, edgePeriod := if interval.isSome then interval else u.mer.edgePeriod }

theorem edgeSeen_mer (u : State) (interval : Option Nat) (bad : Nat) : (u.edgeSeen interval bad).mer.edgeAt = some u.now
    ∧ (u.edgeSeen interval bad).mer.edgeFrame = u.mer.edgeFrame ∧ (u.edgeSeen interval bad).mer.edgeArmed = u.mer.edgeArmed :=
  ⟨rfl, rfl, rfl⟩

theorem edgeSeen_regs (u : State) (interval : Option Nat) (bad : Nat) : (u.edgeSeen interval bad).regs = u.regs := rfl

/-- What an edge takes its frame count from. -/
def edgeTaken (v : State) : State :=
  if v.mer.edgeArmed then v.countEdge v.frameNext
  else match v.mer.edgeFrame with
    | some f => v.countEdge (f + 1)
    | none => v

end State

/-- An edge without one before it ends no interval. -/
theorem exec_frameRefEdge_of_none {s : State} (hruns : s.merRuns = true) (hsrc : s.merSource = 2) (hat : s.merReturn.mer.edgeAt = none) :
    exec .frameRefEdge s = .next (s.merReturn.merRebase.edgeSeen none 0).edgeTaken := by
  change execFrameRefEdge s = _
  unfold execFrameRefEdge
  rw [if_neg (by simp [hruns, hsrc])]
  generalize s.merReturn = r at hat ⊢
  dsimp only
  rw [hat, Option.map_none, if_neg (by simp)]
  generalize r.merRebase = u
  have hif (v : State) : (if v.mer.edgeArmed = true then Host.Outcome.next (v.countEdge v.frameNext)
      else match v.mer.edgeFrame with
        | some f => .next (v.countEdge (f + 1))
        | none => .next v) = (.next v.edgeTaken : Host.Outcome State Fault Refusal) := by
    unfold State.edgeTaken
    split
    · rfl
    · split <;> rfl
  exact hif (u.edgeSeen none 0)

/-- The first edge of the pulse, for a Meridian that is not LOCKED. -/
theorem exec_frameRefEdge_first {s : State} (hserved : s.served merPage = true) (hsrc : s.merSource = 2)
    (hstate : s.merState = merFree ∨ s.merState = merAcquiring ∨ s.merState = merHoldover) (hat : s.mer.edgeAt = none)
    (hframe : s.mer.edgeFrame = none) :
    ∃ u : State, u.merState = merAcquiring ∧ u.mer.edgeAt = some s.now ∧ u.mer.edgeFrame = none
      ∧ exec .frameRefEdge s = .next (if s.mer.edgeArmed then u.countEdge s.frameNext else u) := by
  obtain ⟨hacq, hnext, hnow, hatR, hframeR, harmedR⟩ := State.merReturn_effect hstate
  rw [exec_frameRefEdge_of_none (merRuns_of_served hserved) hsrc (hatR.trans hat)]
  generalize s.merReturn = r at hacq hnext hnow hframeR harmedR ⊢
  obtain ⟨hnowU, -, hframeU, harmedU⟩ := State.merRebase_pulseKept r
  have hregsU := (State.merRebase_same_mer r).regs (by decide)
  generalize r.merRebase = u at hnowU hframeU harmedU hregsU ⊢
  obtain ⟨hatV, hframeV, harmedV⟩ := u.edgeSeen_mer none 0
  have hregsV := (u.edgeSeen_regs none 0).trans hregsU
  generalize u.edgeSeen none 0 = v at hatV hframeV harmedV hregsV ⊢
  refine ⟨v, (State.fld_of_regs hregsV _ _).trans hacq, by rw [hatV, hnowU, hnow], by rw [hframeV, hframeU, hframeR, hframe], ?_⟩
  rw [State.edgeTaken, harmedV, harmedU, harmedR, hframeV, hframeU, hframeR, hframe, State.frameNext_of_regs hregsV, hnext]

section
variable {s : State} (hserved : s.served merPage = true)
include hserved

/-- The announce timeout: what it does to the reference, of the state without masters. -/
theorem exec_announceTimeout_lost (hsrc : s.merSource = 1) : ∃ m : Meridian, m.masters = []
    ∧ exec .announceTimeout s = .next (s.withMer m).loseReference := ⟨_, rfl, exec_announceTimeout hserved hsrc⟩

theorem announceTimeout_holdover (hsrc : s.merSource = 1) (hlock : s.merState = merLocked) (hok : s.fld merPage merCtrl_holdoverOk = 1) :
    ∃ t, exec .announceTimeout s = .next t ∧ t.merState = merHoldover ∧ t.mer.masters = [] ∧ t.mer.holdAt = s.now := by
  obtain ⟨m, hm, hexec⟩ := exec_announceTimeout_lost hserved hsrc
  obtain ⟨hstate, hhold, hmasters, -, -⟩ := State.loseReference_holdover (s := s.withMer m) ((State.withMer_merState s m).trans hlock)
    ((State.withMer_fld s m _ _).trans hok)
  exact ⟨_, hexec, hstate, hmasters.trans hm, hhold⟩

theorem announceTimeout_free (hsrc : s.merSource = 1) (hlock : s.merState = merLocked) (hok : s.fld merPage merCtrl_holdoverOk = 0)
    (hjobs : s.loader.jobs = []) :
    ∃ t, exec .announceTimeout s = .next t ∧ t.merState = merFree ∧ (t.faults.map (·.code)) = s.faults.map (·.code) ++ [0x4A] := by
  obtain ⟨m, -, hexec⟩ := exec_announceTimeout_lost hserved hsrc
  obtain ⟨hstate, hfaults⟩ := State.loseReference_free (s := s.withMer m) ((State.withMer_merState s m).trans hlock)
    ((State.withMer_fld s m _ _).trans hok) hjobs
  exact ⟨_, hexec, hstate, hfaults⟩

theorem frameRefMissing_holdover {e : Nat} (hsrc : s.merSource = 2) (he : s.mer.edgeAt = some e) (hlock : s.merState = merLocked)
    (hok : s.fld merPage merCtrl_holdoverOk = 1) :
    ∃ t, exec .frameRefMissing s = .next t ∧ t.merState = merHoldover ∧ t.mer.edgeAt = none
      ∧ e + ceilDiv (3 * s.videoD * 1000000000) (2 * s.videoN) ≤ t.now := by
  have hexec := exec_frameRefMissing hserved hsrc he
  generalize e + ceilDiv (3 * s.videoD * 1000000000) (2 * s.videoN) = n at hexec ⊢
  obtain ⟨hstate, hat, hnow⟩ := State.losePulse_holdover (s := s.passTo n)
    ((mer_fld_passTo s n (f := merStatus_state) (by decide) (by decide)).trans hlock)
    ((mer_fld_passTo s n (f := merCtrl_holdoverOk) (by decide) (by decide)).trans hok)
  exact ⟨_, hexec, hstate, hat, by rw [hnow, passTo_now_max]; exact le_max_right _ _⟩

theorem holdoverLimit_free (hhold : s.merState = merHoldover) (hlimit : s.fld merPage merHold_limitS ≠ 0) (hjobs : s.loader.jobs = []) :
    ∃ t, exec .holdoverLimit s = .next t ∧ t.merState = merFree ∧ (t.faults.map (·.code)) = s.faults.map (·.code) ++ [0x4A]
      ∧ s.mer.holdAt + s.fld merPage merHold_limitS * 1000000000 ≤ t.now := by
  have hexec := exec_holdoverLimit hserved hhold hlimit
  generalize s.mer.holdAt + s.fld merPage merHold_limitS * 1000000000 = n at hexec ⊢
  have hpass : State.SameBut [.now, .regs, .out] s (s.passTo n) := State.passTo_same (.refl _ s) (List.Subset.refl _)
  obtain ⟨hstate, hfaults, hnow⟩ := State.merLost_effect (s := s.passTo n) 1 (by rw [hpass.loader (by decide), hjobs])
  exact ⟨_, hexec, hstate, by rw [hfaults, hpass.faults (by decide)], by rw [hnow, passTo_now_max]; exact le_max_right _ _⟩

theorem frameRefEdge_effect (hsrc : s.merSource = 2) (hstate : s.merState = merFree ∨ s.merState = merAcquiring ∨ s.merState = merHoldover)
    (hat : s.mer.edgeAt = none) (hframe : s.mer.edgeFrame = none) :
    (s.mer.edgeArmed = false → ∃ t, exec .frameRefEdge s = .next t ∧ t.merState = merAcquiring ∧ t.mer.edgeAt = some s.now
      ∧ t.mer.edgeFrame = none)
    ∧ (s.mer.edgeArmed = true → ∃ t, exec .frameRefEdge s = .next t ∧ t.merState = merAcquiring ∧ t.mer.edgeAt = some s.now
      ∧ t.mer.edgeFrame = some (s.frameNext % 2 ^ 36) ∧ t.mer.edgeArmed = false ∧ t.mer.syncs = 1) := by
  obtain ⟨u, hacq, hatU, hframeU, hexec⟩ := exec_frameRefEdge_first hserved hsrc hstate hat hframe
  refine ⟨fun harmed => ⟨u, by rw [hexec, harmed, if_neg Bool.false_ne_true], hacq, hatU, hframeU⟩,
    fun harmed => ⟨u.countEdge s.frameNext, by rw [hexec, harmed, if_pos rfl], ?_⟩⟩
  obtain ⟨hs, ha, hrest⟩ := State.countEdge_first s.frameNext hframeU
  exact ⟨hs.trans hacq, ha.trans hatU, hrest⟩

end

/-- Settles O38: a loss by its two ends (`loseReference`), and the first edge. -/
theorem referenceLossAndFirstEdge : Obligations.ReferenceLossAndFirstEdge := by
  unfold Obligations.ReferenceLossAndFirstEdge
  exact ⟨fun s hserved => ⟨announceTimeout_holdover hserved, announceTimeout_free hserved, fun e => frameRefMissing_holdover hserved,
    holdoverLimit_free hserved⟩, fun s hserved hsrc => frameRefEdge_effect hserved hsrc⟩

end Sys2Proof.Machine

namespace Sys2Proof.Machine

/-! ### DMA channels (O35) -/

namespace State

variable {s : State} {f ch : Nat}

theorem msix_same_out (s : State) (f v : Nat) : SameBut [.regs, .out] s (s.msix f v) := msix_same (.refl _ s) (List.Subset.refl _)

theorem dmaRuns_setDma (s : State) (f ch : Nat) (rs : List DmaRun) : (s.setDma f ch rs).dmaRuns f ch = rs := SMap.get_set_same _ _ _ _

end State

/-- A descriptor that starts. -/
theorem exec_dmaDescriptor {f ch : Nat} {desc data : List Byte} {s : State} (hon : s.hostOn f = true)
    (hkept : s.dmaLost.contains (dmaKey f ch) = false) (hen : s.dmaFld f ch dmaCtrl_enable = 1)
    (hnext : (s.dmaFld f ch dmaHead_head + (s.dmaRuns f ch).length) % s.dmaSize f ch ≠ s.dmaFld f ch dmaTail_tail)
    (hfence : (dmaDesc desc).fence = false) :
    exec (.dmaDescriptor f ch desc data) s = .next ((s.dmaMove f (dmaDesc desc) data).2.2.setDma f ch (s.dmaRuns f ch
      ++ [⟨desc, (s.dmaMove f (dmaDesc desc) data).1, (s.dmaMove f (dmaDesc desc) data).2.1,
        (s.dmaFld f ch dmaHead_head + (s.dmaRuns f ch).length) % s.dmaSize f ch⟩])) := by
  change execDmaDescriptor f ch desc data s = _
  unfold execDmaDescriptor
  rw [if_neg (by simp [hon, hen]), if_neg (by simpa using hkept), if_neg (by simp [hnext, hfence])]

namespace State

/-- What a completion does to the ring's head, of the state that has written to the host. -/
def dmaHeadStep (s : State) (f ch : Nat) (r : DmaRun) : State :=
  let u := s.setFld (hostPage f) dmaHead_head ((s.dmaFld f ch dmaHead_head + 1) % s.dmaSize f ch) ch
  let v := if (dmaDesc r.desc).irq then u.msix f (u.dmaFld f ch dmaCtrl_vector) else u
  if r.status = 0 then v else v.event (hostPage f) host_evtRaw_dmaError

/-- The two words of a completion, in the ring's memory. -/
def dmaWritten (s : State) (f ch : Nat) (r : DmaRun) : List (Nat × List Byte) :=
  [(s.dmaBase f ch + 32 * r.index + 20, leBytes 4 r.done), (s.dmaBase f ch + 32 * r.index + 29, leBytes 1 r.status)]

variable {s : State} {f ch : Nat}

/-- With the link up a message changes no register. -/
theorem msix_regs_of_link (hlink : s.board.link = true) (f v : Nat) : (s.msix f v).regs = s.regs := by
  unfold msix
  split
  · rfl
  · rfl

theorem event_reg_of_link (hlink : s.board.link = true) (p : Page) (bit : FieldRow) {a : Nat} (hne : a ≠ fieldAddr p bit 0) :
    (s.event p bit).reg a = s.reg a := by
  have hset : (s.setFld p bit 1).board.link = true := by
    rw [(setFld_same (w := [.regs]) (.refl _ s) (List.Subset.refl _)).board (by decide), hlink]
  have hreg : (s.setFld p bit 1).reg a = s.reg a := reg_setFld_other s p bit 1 0 hne
  unfold event attnRise
  generalize s.setFld p bit 1 = u at hset hreg ⊢
  dsimp only
  split
  · split
    · exact (reg_of_regs (msix_regs_of_link hset _ _) a).trans hreg
    · exact hreg
  · exact hreg

theorem dmaFld_of_regs {t : State} (h : t.regs = s.regs) (f ch : Nat) (x : FieldRow) : t.dmaFld f ch x = s.dmaFld f ch x :=
  fld_of_regs h _ _ ch

theorem dmaSize_of_regs {t : State} (h : t.regs = s.regs) (f ch : Nat) : t.dmaSize f ch = s.dmaSize f ch := by
  rw [dmaSize, dmaFld_of_regs h, dmaSize]

theorem dmaHeadStep_same (s : State) (f ch : Nat) (r : DmaRun) : SameBut [.regs, .out] s (s.dmaHeadStep f ch r) := by
  unfold dmaHeadStep
  extract_lets u v
  have hu : SameBut [.regs, .out] s u := setFld_same (.refl _ s) (by decide)
  have hv : SameBut [.regs, .out] s v := by
    simp only [v]
    split
    · exact msix_same hu (List.Subset.refl _)
    · exact hu
  split
  · exact hv
  · exact event_same hv (List.Subset.refl _)

theorem dmaHeadStep_host (s : State) (f ch : Nat) (r : DmaRun) : (s.dmaHeadStep f ch r).out.host = s.out.host := by
  unfold dmaHeadStep
  extract_lets u v
  have hu : u.out = s.out := (setFld_same (w := [.regs]) (.refl _ s) (List.Subset.refl _)).out (by decide)
  have hv : v.out.host = s.out.host := by
    simp only [v]
    split
    · exact (congrArg Prod.snd (msix_sentOut u f _)).trans (congrArg (·.host) hu)
    · rw [hu]
  split
  · exact hv
  · exact (congrArg Prod.snd (event_sentOut v _ _)).trans hv

theorem dmaHeadStep_head (hlink : s.board.link = true) (r : DmaRun) :
    (s.dmaHeadStep f ch r).dmaFld f ch dmaHead_head = (s.dmaFld f ch dmaHead_head + 1) % s.dmaSize f ch % 4096 := by
  unfold dmaHeadStep
  extract_lets u v
  have hu : u.dmaFld f ch dmaHead_head = (s.dmaFld f ch dmaHead_head + 1) % s.dmaSize f ch % 4096 :=
    fld_setFld s (hostPage f) dmaHead_head ((s.dmaFld f ch dmaHead_head + 1) % s.dmaSize f ch) ch (by decide) (by decide)
  have hlinkU : u.board.link = true := by
    rw [(setFld_same (w := [.regs]) (.refl _ s) (List.Subset.refl _)).board (by decide), hlink]
  clear_value u
  have hv : v.dmaFld f ch dmaHead_head = u.dmaFld f ch dmaHead_head ∧ v.board.link = true := by
    simp only [v]
    split
    · exact ⟨fld_of_regs (msix_regs_of_link hlinkU f _) _ _ ch, by rw [(msix_same_out u f _).board (by decide), hlinkU]⟩
    · exact ⟨rfl, hlinkU⟩
  clear_value v
  obtain ⟨hfld, hlinkV⟩ := hv
  split
  · exact hfld.trans hu
  · refine Eq.trans (congrArg (getField · _ _) (event_reg_of_link hlinkV _ _ ?_)) (hfld.trans hu)
    simp only [fieldAddr, Page.reg, dmaHead_head, host_evtRaw_dmaError]
    omega

end State

/-- A completion with the link up: the ring's entry leaves, its words are written, and the head goes on. -/
theorem exec_dmaComplete {f ch : Nat} {s : State} {r : DmaRun} {rs : List DmaRun} (hup : s.up = true) (hlink : s.board.link = true)
    (hkept : s.dmaLost.contains (dmaKey f ch) = false) (hruns : s.dmaRuns f ch = r :: rs) :
    exec (.dmaComplete f ch) s = .next (((s.setDma f ch rs).withOut { s.out with host := s.out.host ++ s.dmaWritten f ch r }).dmaHeadStep f ch r) := by
  change execDmaComplete f ch s = _
  unfold execDmaComplete
  rw [hruns]
  dsimp only
  rw [if_neg (by simp [hup]), if_neg (by simpa using hkept)]
  have hlinkD : (s.setDma f ch rs).board.link = true := hlink
  rw [if_pos hlinkD]
  rfl

/-- Settles O35: a start and a completion by their equations (`exec_dmaDescriptor`, `exec_dmaComplete`). -/
theorem dmaRunsInRingOrder : Obligations.DmaRunsInRingOrder := by
  unfold Obligations.DmaRunsInRingOrder
  refine ⟨fun f ch desc data s _ hon hkept => ⟨fun hen hnext hfence => ?_, fun r rs hruns => ?_⟩, fun f desc data s hbad => ?_⟩
  case refine_1 => exact ⟨_, exec_dmaDescriptor hon hkept hen hnext hfence, State.dmaRuns_setDma _ _ _ _, rfl⟩
  case refine_2 =>
    obtain ⟨hup, hpath⟩ := Bool.and_eq_true_iff.1 hon
    have hlink : s.board.link = true := (Bool.and_eq_true_iff.1 (Bool.and_eq_true_iff.1 hpath).1).1
    have hexec := exec_dmaComplete hup hlink hkept hruns
    generalize hu : (s.setDma f ch rs).withOut { s.out with host := s.out.host ++ s.dmaWritten f ch r } = u at hexec
    have hdma : u.dmaRuns f ch = rs := hu ▸ State.dmaRuns_setDma s f ch rs
    have hregs : u.regs = s.regs := hu ▸ rfl
    have hlinkU : u.board.link = true := hu ▸ hlink
    have hhost : u.out.host = s.out.host ++ s.dmaWritten f ch r := hu ▸ rfl
    refine ⟨_, hexec, ?_, ?_, ?_⟩
    · exact (congrArg (fun m => SMap.get [] m (dmaKey f ch)) ((u.dmaHeadStep_same f ch r).dma (by decide))).trans hdma
    · rw [State.dmaHeadStep_head hlinkU, State.dmaSize_of_regs hregs, State.dmaFld_of_regs hregs]
    · exact (u.dmaHeadStep_host f ch r).trans hhost
  case refine_3 => rw [State.dmaMove, if_pos hbad]

end Sys2Proof.Machine

namespace Sys2Proof.Machine

/-! ### Writes of the MERIDIAN page (O14: R335, R336, R338, R341) -/

/-- A field that a direct write may store takes the value written, where it is legal and nothing keeps the field. -/
theorem BusWr.field_direct {w : BusWr} {s : State} {armed : Bool} {f : FieldRow} {old v : Nat} (hview : w.view = .direct)
    (hkept : w.merKept s armed = false) (hstore : w.MayStore armed f)
    (hrow : [dmaCtrl_vector, ringCtrl_vector, faultCtrl_vector, hbmMarginCtrl_offset, kvPool_pages].contains f = false)
    (hstate : s.fieldKept w.p f = false) (hmaster : watchmanOnly w.p f = false) :
    w.field s armed f old v = if f.legalLo ≤ v ∧ v ≤ f.legalHi then v else old := by
  have hlegal : legalCode w.p f v = true ↔ f.legalLo ≤ v ∧ v ≤ f.legalHi := by
    simp only [List.contains_cons, Bool.or_eq_false_iff] at hrow
    obtain ⟨hdma, hring, hvector, hmargin, hpool, -⟩ := hrow
    simp [legalCode, bne, hdma, hring, hvector, hmargin, hpool]
  rw [field_mayStore hkept hstore]
  split
  case isTrue h =>
    rw [takes_of_stores ⟨by rw [hview]; exact hlegal.mpr h, hstate, .inr hmaster⟩, hview]
    rfl
  case isFalse h =>
    exact takes_of_not_stores fun hs => h (hlegal.mp (by have := hs.1; rw [hview] at this; exact this))

/-- A field that none of several fields touches stays. -/
theorem getField_setFields_uncovered (val : FieldRow → Nat) {hi lo : Nat} {w : Word} {fs : List FieldRow} (hfit : ∀ f ∈ fs, f.lo ≤ f.hi ∧ f.hi < 32)
    (hc : ∀ f ∈ fs, f.hi < lo ∨ hi < f.lo) (hlt : hi < 32) : getField (fs.foldl (fun r f => setField r f.hi f.lo (val f)) w) hi lo = getField w hi lo := by
  refine Nat.eq_of_testBit_eq fun i => ?_
  rw [getField_testBit, getField_testBit]
  by_cases hi' : i < hi + 1 - lo
  · rw [setFields_bit_uncovered val (by omega) w hfit fun f hf => by have := hc f hf; omega]
  · simp [hi']

/-- A write that the Almanac's guarantee keeps off leaves every register. -/
theorem BusWr.reg_written_of_merKept {w : BusWr} {s : State} {armed : Bool} (h : w.merKept s armed = true) (a : Nat) :
    (w.written s armed).reg a = s.reg a := by
  have hword : w.merge s armed (s.reg (w.p.reg w.x)) w.kept = s.reg (w.p.reg w.x) :=
    setFields_readOnly (fun g hg => w.p.type.fieldsAt_fit w.x g (kept_subset hg)) fun g _ => field_of_merKept h
  rw [written, hword, State.reg_setReg]
  split
  case isTrue ha => rw [ha]
  case isFalse => rfl

/-- A direct write of the MERIDIAN page. -/
def merWr (m : Master) (x : Nat) (v : Word) : BusWr := ⟨m, merPage, x, .direct, x, v⟩

/-- Registers of the MERIDIAN page past the common ones. -/
theorem exec_of_mer {c : Instr} {m : Master} {x : Nat} {v : Word} {s : State} (hc : busOf c = some (m, merPage.reg x, v))
    (hx : 0x040 ≤ x ∧ x < 0x400) (hfields : (PageType.meridian.fieldsAt x).isEmpty = false) (ha : s.accepts m merPage x = true) :
    ∃ u, State.SameBut [.guards] s u ∧ exec c s = .next (((merWr m x v).written u (s.guardMatches (landed m merPage x v))).squareAct
      (merWr m x v) (s.guardMatches (landed m merPage x v)) ((merWr m x v).word u (s.guardMatches (landed m merPage x v))).toNat) := by
  have hw : landed m merPage x v = merWr m x v := landed_low m _ hx.2 v
  obtain ⟨f, fs, hf⟩ := List.exists_cons_of_ne_nil (List.isEmpty_eq_false_iff.1 hfields)
  have hfree : (f :: fs).any (watchmanOnly merPage) = false := by
    have hall : (PageType.meridian.fields.all fun f => !watchmanOnly merPage f) = true := by decide +kernel
    rw [← hf, List.any_eq_false]
    intro g hg
    simpa using List.all_eq_true.1 hall g (List.mem_of_mem_filter hg)
  have hcommon : [0x014, 0x018, 0x01C, 0x024, 0x030].contains x = false := by
    simp only [List.contains_cons, List.contains_nil, Bool.or_false, Bool.or_eq_false_iff, beq_eq_false_iff_ne]
    omega
  have hplain : (landed m (sqPage .meridian) x v).plain = true := by
    rw [show landed m (sqPage .meridian) x v = merWr m x v from hw]
    exact BusWr.plain_of_fields (show PageType.meridian ≠ .cue by decide) hf hfree hcommon
  obtain ⟨u, hu, hexec⟩ := exec_of_square (t := .meridian) (n := 4) hc rfl (by omega) ha hplain
  refine ⟨u, hu, hexec.trans ?_⟩
  rw [show landed m (sqPage .meridian) x v = merWr m x v from hw, hw]
  rfl

namespace State

variable {s : State}

/-- What a new source leaves of the Meridian beside its time. -/
def sourceTaken (m : Meridian) : Meridian :=
  { m with syncs := 0, edgeAt := none, edgeFrame := none, edgePeriod := none, edgeArmed := false, edgeBad := 0, twoStep := none,
           delayReq := none, masters := [], lastRef := none, freq := 0, rate := 0 }

theorem setSource_of_kept {v : Nat} (h : s.merSource = v ∨ s.guaranteed = true) : s.setSource v = s := by
  rw [setSource, if_pos (by simpa using h)]

theorem setSource_of_new {v : Nat} (hv : s.merSource ≠ v) (hfree : s.guaranteed = false) : s.setSource v
    = (((s.merTransit s.transit).setFld merPage merCtrl_source v).withMer
        (sourceTaken ((s.merTransit s.transit).setFld merPage merCtrl_source v).mer)).setMerState (if v = 0 then merFree else merAcquiring) := by
  rw [setSource, if_neg (by simp [hv, hfree])]
  rfl

/-- A new source takes effect: the time goes on from the transit it shows, and the clock is free, or acquires. -/
theorem setSource_effect {v : Nat} (hv : s.merSource ≠ v) (hlt : v < 4) (hfree : s.guaranteed = false) :
    (s.setSource v).merSource = v ∧ (s.setSource v).merState = (if v = 0 then merFree else merAcquiring) ∧ (s.setSource v).mer.base = s.transit
      ∧ (s.setSource v).mer.at_ = s.now ∧ (s.setSource v).mer.ptp = false ∧ (s.setSource v).mer.masters = [] ∧ (s.setSource v).mer.syncs = 0 := by
  rw [setSource_of_new hv hfree]
  have hbase : (s.merTransit s.transit).mer.base = s.transit ∧ (s.merTransit s.transit).mer.at_ = s.now
      ∧ (s.merTransit s.transit).mer.ptp = false := ⟨rfl, rfl, rfl⟩
  generalize s.merTransit s.transit = a at hbase ⊢
  have hb : (a.setFld merPage merCtrl_source v).mer = a.mer := (setFld_same (w := [.regs]) (.refl _ a) (List.Subset.refl _)).mer (by decide)
  have hsource : (a.setFld merPage merCtrl_source v).merSource = v :=
    (fld_setFld a merPage merCtrl_source v 0 (by decide) (by decide)).trans (Nat.mod_eq_of_lt hlt)
  generalize a.setFld merPage merCtrl_source v = b at hb hsource ⊢
  obtain ⟨hbase, hat, hptp⟩ := hbase
  rw [← hb] at hbase hat hptp
  generalize hm : sourceTaken b.mer = m
  have hmer : m.base = s.transit ∧ m.at_ = s.now ∧ m.ptp = false ∧ m.masters = [] ∧ m.syncs = 0 := by
    rw [← hm]
    exact ⟨hbase, hat, hptp, rfl, rfl⟩
  have hsame := (setMerState_same_regs (b.withMer m) (if v = 0 then merFree else merAcquiring)).mer (by decide)
  refine ⟨?_, ?_, ?_⟩
  · exact (setMerState_fld (b.withMer m) _ (f := merCtrl_source) (by decide) (by decide)).trans ((withMer_fld b m _ _).trans hsource)
  · rw [setMerState_merState]
    split <;> rfl
  · rw [hsame]
    exact hmer

/-- What a new format leaves of the Meridian under FRAME_REF beside its time. -/
def pulseForgotten (m : Meridian) : Meridian := { m with syncs := 0, edgeAt := none, edgeFrame := none, edgePeriod := none, edgeBad := 0 }

/-- The time at a new format: but under PTP it steps to the start of its frame. -/
def formatTimed (s : State) (frame : Nat) : State :=
  if s.mer.ptp then s
  else if s.merSource = 2 then (s.merTransit (mkTransit frame 0 0)).setMerState merAcquiring
  else s.merTransit (mkTransit frame 0 0)

theorem newFormat_eq (s : State) (frame : Nat) : s.newFormat frame = (if (s.formatTimed frame).merSource = 2 then
    (s.formatTimed frame).withMer (pulseForgotten (s.formatTimed frame).mer) else s.formatTimed frame).event merPage meridian_evtRaw_stepped := rfl

theorem formatTimed_effect (s : State) (frame : Nat) :
    (s.mer.ptp = true → (s.formatTimed frame).mer.base = s.mer.base ∧ (s.formatTimed frame).mer.at_ = s.mer.at_)
    ∧ (s.mer.ptp = false → (s.formatTimed frame).mer.base = mkTransit frame 0 0 ∧ (s.formatTimed frame).mer.at_ = s.now)
    ∧ ∀ f : FieldRow, f.off ≠ 0x070 → f.off ≠ 0x050 → (s.formatTimed frame).fld merPage f = s.fld merPage f := by
  unfold formatTimed
  have hstep : (s.merTransit (mkTransit frame 0 0)).mer.base = mkTransit frame 0 0 ∧ (s.merTransit (mkTransit frame 0 0)).mer.at_ = s.now :=
    ⟨rfl, rfl⟩
  have hfld (f : FieldRow) : (s.merTransit (mkTransit frame 0 0)).fld merPage f = s.fld merPage f := rfl
  generalize s.merTransit (mkTransit frame 0 0) = a at hstep hfld ⊢
  have hmer : (a.setMerState merAcquiring).mer = a.mer := (setMerState_same_regs a merAcquiring).mer (by decide)
  cases s.mer.ptp
  · rw [if_neg Bool.false_ne_true]
    split
    · rw [hmer]
      exact ⟨fun h => absurd h Bool.false_ne_true, fun _ => hstep, fun f hh hs => (setMerState_fld a _ hh hs).trans (hfld f)⟩
    · exact ⟨fun h => absurd h Bool.false_ne_true, fun _ => hstep, fun f _ _ => hfld f⟩
  · rw [if_pos rfl]
    exact ⟨fun _ => ⟨rfl, rfl⟩, fun h => absurd h.symm Bool.false_ne_true, fun _ _ _ => rfl⟩

theorem newFormat_effect (s : State) (frame : Nat) :
    (s.newFormat frame).fld merPage meridian_evtRaw_stepped = 1
    ∧ (s.mer.ptp = true → (s.newFormat frame).mer.base = s.mer.base ∧ (s.newFormat frame).mer.at_ = s.mer.at_)
    ∧ (s.mer.ptp = false → (s.newFormat frame).mer.base = mkTransit frame 0 0 ∧ (s.newFormat frame).mer.at_ = s.now)
    ∧ (s.newFormat frame).fld merPage merRate_num = s.fld merPage merRate_num
    ∧ (s.newFormat frame).fld merPage merRate_den1001 = s.fld merPage merRate_den1001 := by
  rw [newFormat_eq]
  obtain ⟨hptp, htime, hfld⟩ := s.formatTimed_effect frame
  generalize s.formatTimed frame = a at hptp htime hfld ⊢
  generalize hb : (if a.merSource = 2 then a.withMer (pulseForgotten a.mer) else a) = b
  have hbMer : b.mer.base = a.mer.base ∧ b.mer.at_ = a.mer.at_ := by
    rw [← hb]
    split <;> exact ⟨rfl, rfl⟩
  have hbFld (f : FieldRow) : b.fld merPage f = a.fld merPage f := by
    rw [← hb]
    split <;> rfl
  have hmer : (b.event merPage meridian_evtRaw_stepped).mer = b.mer := (event_same_out b _ _).mer (by decide)
  rw [hmer, hbMer.1, hbMer.2]
  exact ⟨event_bit (by decide) (by decide) rfl (by decide), hptp, htime,
    (event_mer_fld b _ merRate_num (by decide) (by decide)).trans ((hbFld _).trans (hfld _ (by decide) (by decide))),
    (event_mer_fld b _ merRate_den1001 (by decide) (by decide)).trans ((hbFld _).trans (hfld _ (by decide) (by decide)))⟩

end State

/-- What a direct write of the MERIDIAN page stores: its own register alone. -/
structure MerWritten (m : Master) (x : Nat) (v : Word) (s b : State) : Prop where
  same : State.SameBut [.guards, .regs] s b
  other : ∀ y, y ≠ merPage.reg x → b.reg y = s.reg y

namespace MerWritten

variable {m : Master} {x : Nat} {v : Word} {s b : State}

theorem of_written {u : State} (hu : State.SameBut [.guards] s u) (armed : Bool) : MerWritten m x v s ((merWr m x v).written u armed) :=
  ⟨(hu.mono (by decide)).trans (((merWr m x v).written_same u armed).mono (by decide)),
    fun y hy => ((merWr m x v).reg_written_other u armed hy).trans (hu.reg (by decide) y)⟩

theorem fld (h : MerWritten m x v s b) {f : FieldRow} (hf : f.off ≠ x) : b.fld merPage f = s.fld merPage f := by
  refine congrArg (getField · f.hi f.lo) (h.other _ ?_)
  simp only [fieldAddr, Nat.zero_mul, Page.reg]
  omega

theorem guaranteed (h : MerWritten m x v s b) : b.guaranteed = s.guaranteed := by rw [State.guaranteed, h.same.alm (by decide), State.guaranteed]

theorem transit (h : MerWritten m x v s b) (hrate : x ≠ 0x048) (hlines : x ≠ 0x04C) : b.transit = s.transit := by
  refine State.transit_of_same h.same (by decide) (by decide) (h.other _ ?_) (h.other _ ?_)
  · show 0x4000 + 0x048 ≠ 0x4000 + x
    omega
  · show 0x4000 + 0x04C ≠ 0x4000 + x
    omega

end MerWritten

theorem State.guaranteed_of_guards {s u : State} (h : State.SameBut [.guards] s u) : u.guaranteed = s.guaranteed := by
  rw [State.guaranteed, h.alm (by decide), State.guaranteed]

section
variable {m : Master} {v : Word} {s : State}

theorem fieldsAt_merCtrl : PageType.meridian.fieldsAt 0x044 = [merCtrl_source, merCtrl_holdoverOk, merCtrl_keepInNightwatch] := by decide

/-- An armed write of MER_CTRL hands its source to the Meridian, or the source in force where the value is reserved, or where the
Almanac's guarantee keeps the register. -/
theorem exec_merCtrlSourceWrite (ha : s.accepts m merPage 0x044 = true) (harmed : s.guardMatches (landed m merPage 0x044 v) = true) :
    ∃ b, MerWritten m 0x044 v s b ∧ b.merSource = s.merSource
      ∧ (s.guaranteed = true → v.toNat % 4 ≠ s.merSource → Heard s b)
      ∧ exec (.merCtrlSourceWrite m v) s = .next (b.setSource
        (if s.guaranteed = true ∧ v.toNat % 4 ≠ s.merSource ∨ v.toNat % 4 = 3 then s.merSource else v.toNat % 4)) := by
  obtain ⟨u, hu, hexec⟩ := exec_of_mer (c := .merCtrlSourceWrite m v) rfl (by decide) (by rw [fieldsAt_merCtrl]; rfl) ha
  rw [harmed] at hexec
  have hsource : u.merSource = s.merSource := hu.fld (by decide) _ _ _
  have hkept : (merWr m 0x044 v).merKept u true = true ↔ s.guaranteed = true ∧ v.toNat % 4 ≠ s.merSource := by
    have hval : getField v 1 0 = v.toNat % 4 := bitsOf_low _ _
    rw [← State.guaranteed_of_guards hu, ← hsource]
    show (true && u.guaranteed && (getField v 1 0 != u.merSource)) = true ↔ _
    rw [hval]
    simp
  have hrows : (merWr m 0x044 v).kept = [merCtrl_holdoverOk, merCtrl_keepInNightwatch] := by
    show (PageType.meridian.fieldsAt 0x044).filter _ = _
    rw [fieldsAt_merCtrl]
    rfl
  have hwritten : MerWritten m 0x044 v s ((merWr m 0x044 v).written u true) := .of_written hu true
  refine ⟨(merWr m 0x044 v).written u true, hwritten, ?_, fun hg hv => ⟨hwritten.same, fun y => ?_⟩, ?_⟩
  · rw [← hsource]
    refine (congrArg (getField · 1 0) (State.reg_setReg_same u _ _)).trans (getField_setFields_uncovered _ ?_ ?_ (by decide))
    · exact fun g hg => PageType.meridian.fieldsAt_fit 0x044 g (BusWr.kept_subset hg)
    · rw [hrows]
      decide
  · exact (BusWr.reg_written_of_merKept (hkept.2 ⟨hg, hv⟩) y).trans (hu.reg (by decide) y)
  · have hword := BusWr.getField_word (w := merWr m 0x044 v) (s := u) (armed := true) (f := merCtrl_source)
      (show merCtrl_source ∈ PageType.meridian.fieldsAt 0x044 by rw [fieldsAt_merCtrl]; exact List.mem_cons_self)
    have hact (y : State) (c : Nat) : y.squareAct (merWr m 0x044 v) true c = y.setSource (bitsOf c 1 0) := rfl
    have hold : getField (u.reg ((merWr m 0x044 v).p.reg (merWr m 0x044 v).x)) 1 0 = s.merSource := hsource
    rw [hexec, hact]
    refine congrArg (fun n => Host.Outcome.next (((merWr m 0x044 v).written u true).setSource n)) (hword.trans ?_)
    by_cases hk : s.guaranteed = true ∧ v.toNat % 4 ≠ s.merSource
    · rw [BusWr.field_of_merKept (hkept.2 hk), if_pos (.inl hk)]
      exact hold
    · have hnew : getField v 1 0 = v.toNat % 4 := bitsOf_low _ _
      rw [BusWr.field_direct rfl (Bool.eq_false_iff.2 fun h => hk (hkept.1 h)) (.inr (.inl ⟨rfl, rfl⟩)) (by decide) rfl rfl]
      show (if 0 ≤ getField v 1 0 ∧ getField v 1 0 ≤ 2 then getField v 1 0 else getField (u.reg ((merWr m 0x044 v).p.reg (merWr m 0x044 v).x)) 1 0) = _
      rw [hold, hnew]
      by_cases h3 : v.toNat % 4 = 3
      · rw [if_neg (by omega), if_pos (Or.inr h3)]
      · rw [if_pos (by omega), if_neg (not_or.2 ⟨hk, h3⟩)]

theorem merCtrlSourceWrite_effect (ha : s.accepts m merPage 0x044 = true) (harmed : s.guardMatches (landed m merPage 0x044 v) = true) :
    let src := v.toNat % 4
    (src = s.merSource ∨ src = 3 → ∃ t, exec (.merCtrlSourceWrite m v) s = .next t ∧ HeardBut (merPage.reg 0x044) s t
      ∧ t.merSource = s.merSource)
    ∧ (src ≠ s.merSource → s.guaranteed = true → ∃ t, exec (.merCtrlSourceWrite m v) s = .next t ∧ Heard s t)
    ∧ (src ≠ s.merSource → src ≠ 3 → s.guaranteed = false → ∃ t, exec (.merCtrlSourceWrite m v) s = .next t
      ∧ t.merSource = src ∧ t.merState = (if src = 0 then merFree else merAcquiring) ∧ t.mer.base = s.transit
      ∧ t.mer.at_ = s.now ∧ t.mer.ptp = false ∧ t.mer.masters = [] ∧ t.mer.syncs = 0 ∧ State.SameBut [.guards, .regs, .mer] s t) := by
  intro src
  have hsrc : v.toNat % 4 = src := rfl
  obtain ⟨b, hb, hbSource, hbHeard, hexec⟩ := exec_merCtrlSourceWrite (v := v) ha harmed
  rw [hsrc] at hbHeard hexec
  have hlt : src < 4 := Nat.mod_lt _ (by decide)
  clear_value src
  refine ⟨fun hold => ?_, fun hne hg => ?_, fun hne h3 hfree => ?_⟩
  · have hvalue : (if s.guaranteed = true ∧ src ≠ s.merSource ∨ src = 3 then s.merSource else src) = s.merSource := by
      split
      · rfl
      · next h => exact hold.resolve_right fun h3 => h (Or.inr h3)
    rw [hvalue, State.setSource_of_kept (Or.inl hbSource)] at hexec
    exact ⟨b, hexec, ⟨hb.same, hb.other⟩, hbSource⟩
  · rw [State.setSource_of_kept (Or.inr (hb.guaranteed.trans hg))] at hexec
    exact ⟨b, hexec, hbHeard hg hne⟩
  · rw [if_neg (by simp [hfree, h3])] at hexec
    obtain ⟨h1, h2, hbase, hat, hrest⟩ := State.setSource_effect (s := b) (v := src) (by rw [hbSource]; exact Ne.symm hne) hlt
      (hb.guaranteed.trans hfree)
    obtain ⟨hptp, hmasters, hsyncs⟩ := hrest
    exact ⟨_, hexec, h1, h2, hbase.trans (hb.transit (by decide) (by decide)), hat.trans (hb.same.now (by decide)), hptp, hmasters, hsyncs,
      (hb.same.mono (by decide)).trans (State.setSource_same (.refl _ b) (by decide))⟩

/-- An armed write of MER_RATE stores nothing of itself, and hands its rate to the Meridian. -/
theorem exec_merRateWrite (ha : s.accepts m merPage 0x048 = true) (harmed : s.guardMatches (landed m merPage 0x048 v) = true) :
    ∃ b, Heard s b ∧ exec (.merRateWrite m v) s = .next (b.setRate (v.toNat % 2 ^ 20) (v.toNat / 2 ^ 20 % 2)) := by
  have hfields : PageType.meridian.fieldsAt 0x048 = [merRate_num, merRate_den1001] := by decide
  obtain ⟨u, hu, hexec⟩ := exec_of_mer (c := .merRateWrite m v) rfl (by decide) (by rw [hfields]; rfl) ha
  rw [harmed] at hexec
  have hempty : (merWr m 0x048 v).kept = [] := by
    show (PageType.meridian.fieldsAt 0x048).filter _ = _
    rw [hfields]
    rfl
  have hwritten : MerWritten m 0x048 v s ((merWr m 0x048 v).written u true) := .of_written hu true
  refine ⟨(merWr m 0x048 v).written u true, ⟨hwritten.same, fun y => ?_⟩, ?_⟩
  · exact (BusWr.reg_written_readOnly (by rw [hempty]; exact fun g hg => absurd hg List.not_mem_nil) y).trans (hu.reg (by decide) y)
  · have hvalue {f : FieldRow} (hf : f ∈ [merRate_num, merRate_den1001]) :
        getField ((merWr m 0x048 v).word u true) f.hi f.lo = getField v f.hi f.lo := by
      have hrow : (f.legalLo ≤ getField v f.hi f.lo ∧ getField v f.hi f.lo ≤ f.legalHi) ∧ f.acc = .rwg
          ∧ [dmaCtrl_vector, ringCtrl_vector, faultCtrl_vector, hbmMarginCtrl_offset, kvPool_pages].contains f = false
          ∧ u.fieldKept merPage f = false ∧ watchmanOnly merPage f = false := by
        have hnum : getField v 19 0 < 2 ^ 20 := getField_lt _ _ _
        have hden : getField v 20 20 < 2 ^ 1 := getField_lt _ _ _
        simp only [List.mem_cons, List.not_mem_nil, or_false] at hf
        rcases hf with rfl | rfl
        · exact ⟨⟨Nat.zero_le _, Nat.le_of_lt_succ hnum⟩, rfl, rfl, rfl, rfl⟩
        · exact ⟨⟨Nat.zero_le _, Nat.le_of_lt_succ hden⟩, rfl, rfl, rfl, rfl⟩
      obtain ⟨hlegal, hacc, hother, hstate, hmaster⟩ := hrow
      rw [BusWr.getField_word (show f ∈ PageType.meridian.fieldsAt 0x048 by rw [hfields]; exact hf),
        BusWr.field_direct rfl rfl (.inr (.inl ⟨hacc, rfl⟩)) hother hstate hmaster]
      exact if_pos hlegal
    have hact (y : State) (c : Nat) : y.squareAct (merWr m 0x048 v) true c = y.setRate (bitsOf c 19 0) (bitsOf c 20 20) := rfl
    have hnum : bitsOf ((merWr m 0x048 v).word u true).toNat 19 0 = v.toNat % 2 ^ 20 :=
      (hvalue (f := merRate_num) (by simp)).trans (bitsOf_low _ _)
    have hden : bitsOf ((merWr m 0x048 v).word u true).toNat 20 20 = v.toNat / 2 ^ 20 % 2 := hvalue (f := merRate_den1001) (by simp)
    rw [hexec, hact, hnum, hden]

theorem Heard.transit {s b : State} (h : Heard s b) : b.transit = s.transit :=
  State.transit_of_same h.1 (by decide) (by decide) (h.2 _) (h.2 _)

theorem State.setRate_of_kept {num den : Nat} (h : s.guaranteed = true ∨ legalRates.contains (num, den) = false) : s.setRate num den = s := by
  rw [State.setRate, if_pos (by rcases h with h | h <;> rw [h] <;> simp)]

theorem State.setRate_of_legal {num den : Nat} (hfree : s.guaranteed = false) (h : legalRates.contains (num, den) = true) :
    s.setRate num den = ((s.setFld merPage merRate_num num).setFld merPage merRate_den1001 den).newFormat (trFrame s.transit) := by
  rw [State.setRate, if_neg (by rw [hfree, h]; decide)]

theorem merRateWrite_effect (ha : s.accepts m merPage 0x048 = true) (harmed : s.guardMatches (landed m merPage 0x048 v) = true) :
    let num := v.toNat % 2 ^ 20
    let den := v.toNat / 2 ^ 20 % 2
    (s.guaranteed = true ∨ legalRates.contains (num, den) = false → ∃ t, exec (.merRateWrite m v) s = .next t ∧ Heard s t)
    ∧ (s.guaranteed = false → legalRates.contains (num, den) = true → ∃ t, exec (.merRateWrite m v) s = .next t
      ∧ t.fld merPage merRate_num = num ∧ t.fld merPage merRate_den1001 = den ∧ t.fld merPage meridian_evtRaw_stepped = 1
      ∧ (s.mer.ptp = true → t.mer.base = s.mer.base ∧ t.mer.at_ = s.mer.at_)
      ∧ (s.mer.ptp = false → t.mer.base = mkTransit (trFrame s.transit) 0 0 ∧ t.mer.at_ = s.now)
      ∧ State.SameBut [.guards, .regs, .mer, .out] s t) := by
  intro num den
  obtain ⟨b, hb, hexec⟩ := exec_merRateWrite (v := v) ha harmed
  have hexec : exec (.merRateWrite m v) s = .next (b.setRate num den) := hexec
  have hnum : num < 2 ^ 20 := Nat.mod_lt _ (by decide)
  have hden : den < 2 := Nat.mod_lt _ (by decide)
  clear_value num den
  have hguaranteed : b.guaranteed = s.guaranteed := by rw [State.guaranteed, hb.1.alm (by decide), State.guaranteed]
  refine ⟨fun hkept => ?_, fun hfree hlegal => ?_⟩
  · rw [State.setRate_of_kept (by rw [hguaranteed]; exact hkept)] at hexec
    exact ⟨b, hexec, hb⟩
  · rw [State.setRate_of_legal (hguaranteed.trans hfree) hlegal, hb.transit] at hexec
    generalize hc : (b.setFld merPage merRate_num num).setFld merPage merRate_den1001 den = c at hexec
    have hsame : State.SameBut [.guards, .regs] s c :=
      hc ▸ State.setFld_same (State.setFld_same hb.1 (by decide)) (by decide)
    have hcNum : c.fld merPage merRate_num = num := by
      rw [← hc, State.fld_setFld_beside (f := merRate_num) (g := merRate_den1001) _ _ _ rfl (by decide)]
      exact (State.fld_setFld _ _ _ _ _ (by decide) (by decide)).trans (Nat.mod_eq_of_lt hnum)
    have hcDen : c.fld merPage merRate_den1001 = den := by
      rw [← hc]
      exact (State.fld_setFld _ _ _ _ _ (by decide) (by decide)).trans (Nat.mod_eq_of_lt hden)
    obtain ⟨hstepped, hptp, htime, htNum, htDen⟩ := c.newFormat_effect (trFrame s.transit)
    rw [hsame.mer (by decide)] at hptp htime
    rw [hsame.now (by decide)] at htime
    exact ⟨_, hexec, htNum.trans hcNum, htDen.trans hcDen, hstepped, hptp, htime,
      (hsame.mono (by decide)).trans (State.newFormat_same (.refl _ c) (by decide))⟩

/-- The word of a register of the MERIDIAN page that one field covers. -/
theorem merWhole_written {x : Nat} {f : FieldRow} {u : State} (armed : Bool) (hfields : PageType.meridian.fieldsAt x = [f])
    (hf : f.off = x ∧ f.hi = 31 ∧ f.lo = 0 ∧ f.legalLo = 0 ∧ f.legalHi = 4294967295 ∧ actionField f = false) (hx : x ≠ 0x044)
    (hstore : f.acc = .rw ∨ f.acc = .rwg ∧ armed = true)
    (hrow : [dmaCtrl_vector, ringCtrl_vector, faultCtrl_vector, hbmMarginCtrl_offset, kvPool_pages].contains f = false)
    (hstate : u.fieldKept merPage f = false) (hmaster : watchmanOnly merPage f = false) :
    ((merWr m x v).written u armed).fld merPage f = v.toNat := by
  obtain ⟨hoff, hhi, hlo, hlegalLo, hlegalHi, haction⟩ := hf
  have hkept : (merWr m x v).merKept u armed = false := by
    have hne : (x == 0x044) = false := beq_eq_false_iff_ne.2 hx
    simp [BusWr.merKept, merWr, hne]
  have hmem : f ∈ (merWr m x v).kept := BusWr.mem_kept rfl (show f ∈ PageType.meridian.fieldsAt x by rw [hfields]; exact List.mem_cons_self) haction
  have haddr : fieldAddr merPage f 0 = merPage.reg x := by rw [fieldAddr, Nat.zero_mul, hoff]; rfl
  have hword := BusWr.getField_written (s := u) (armed := armed) hmem
  rw [BusWr.field_direct rfl hkept (hstore.imp_right Or.inl) hrow hstate hmaster, hhi, hlo, hlegalLo, hlegalHi] at hword
  have hv : getField v 31 0 = v.toNat := getField_full v
  rw [State.fld, haddr, hhi, hlo]
  refine hword.trans ((if_pos ⟨Nat.zero_le _, ?_⟩).trans hv)
  show getField v 31 0 ≤ 4294967295
  rw [hv]
  exact Nat.le_of_lt_succ v.isLt

theorem merSetLo_effect (ha : s.accepts m merPage 0x068 = true) (harmed : s.guardMatches (landed m merPage 0x068 v) = true) :
    let new := s.fld merPage merSetHi_transit * 2 ^ 32 + v.toNat
    ∃ t, exec (.merSetLo m v) s = .next t ∧ t.fld merPage merSetLo_transit = v.toNat ∧ State.SameBut [.guards, .regs, .mer] s t
      ∧ (s.merSource = 0 → trLine new < s.videoL → t.mer.base = new ∧ t.mer.at_ = s.now ∧ t.mer.ptp = false)
      ∧ (s.merSource ≠ 0 ∨ s.videoL ≤ trLine new → t.mer = s.mer) := by
  intro new
  have hfields : PageType.meridian.fieldsAt 0x068 = [merSetLo_transit] := by decide
  obtain ⟨u, hu, hexec⟩ := exec_of_mer (c := .merSetLo m v) rfl (by decide) (by rw [hfields]; rfl) ha
  rw [harmed] at hexec
  have hb : MerWritten m 0x068 v s ((merWr m 0x068 v).written u true) := .of_written hu true
  have hlow := merWhole_written (m := m) (v := v) (u := u) true hfields (by decide) (by decide) (.inr ⟨rfl, rfl⟩) (by decide) rfl rfl
  have hexec : exec (.merSetLo m v) s = .next ((merWr m 0x068 v).written u true).setTransit := hexec
  generalize (merWr m 0x068 v).written u true = b at hb hlow hexec
  have hnew : b.fld merPage merSetHi_transit * 2 ^ 32 + b.fld merPage merSetLo_transit = new := by
    rw [hb.fld (f := merSetHi_transit) (by decide), hlow]
  have hsource : b.merSource = s.merSource := hb.fld (f := merCtrl_source) (by decide)
  have hlines : b.videoL = s.videoL := hb.fld (f := merLines_total) (by decide)
  have hset : b.setTransit = if s.merSource = 0 && decide (trLine new < s.videoL) then b.merTransit new else b := by
    unfold State.setTransit
    rw [hnew, hsource, hlines]
  rw [hset] at hexec
  clear_value new
  refine ⟨_, hexec, ?_, ?_, fun h0 hline => ?_, fun hkept => ?_⟩
  · split
    · exact hlow
    · exact hlow
  · split
    · exact State.merTransit_same (hb.same.mono (by decide)) (by decide)
    · exact hb.same.mono (by decide)
  · rw [if_pos (by simp [h0, hline])]
    exact ⟨rfl, hb.same.now (by decide), rfl⟩
  · rw [if_neg (by simp only [Bool.and_eq_true, decide_eq_true_eq]; omega)]
    exact hb.same.mer (by decide)

theorem merFrameNextLo_effect (ha : s.accepts m merPage 0x060 = true) :
    ∃ t, exec (.merFrameNextLo m v) s = .next t ∧ t.fld merPage merFrameNextLo_frame = v.toNat
      ∧ t.mer = { s.mer with edgeArmed := true } ∧ State.SameBut [.guards, .regs, .mer] s t := by
  have hfields : PageType.meridian.fieldsAt 0x060 = [merFrameNextLo_frame] := by decide
  obtain ⟨u, hu, hexec⟩ := exec_of_mer (c := .merFrameNextLo m v) rfl (by decide) (by rw [hfields]; rfl) ha
  generalize s.guardMatches (landed m merPage 0x060 v) = armed at hexec
  have hb : MerWritten m 0x060 v s ((merWr m 0x060 v).written u armed) := .of_written hu armed
  have hlow := merWhole_written (m := m) (v := v) (u := u) armed hfields (by decide) (by decide) (.inl rfl) (by decide) rfl rfl
  have hexec : exec (.merFrameNextLo m v) s = .next ((merWr m 0x060 v).written u armed).armFrame := hexec
  generalize (merWr m 0x060 v).written u armed = b at hb hlow hexec
  refine ⟨_, hexec, hlow, ?_, State.withMer_same (hb.same.mono (by decide)) (by decide)⟩
  rw [← hb.same.mer (by decide)]
  rfl

end

end Sys2Proof.Machine

namespace Sys2Proof.Machine

/-! ### Writes of the ALMANAC page (O14: R350, R364, R365) -/

/-- The words of a field's places, one after another. -/
def State.setPlaces (s : State) (p : Page) (f : FieldRow) (val : Nat → Nat) (is : List Nat) : State :=
  is.foldl (fun s i => s.setFld p f (val i) i) s

section
variable {p : Page} {f : FieldRow} {val : Nat → Nat}

theorem State.setPlaces_reg {a : Nat} {is : List Nat} (h : ∀ i ∈ is, a ≠ fieldAddr p f i) (s : State) : (s.setPlaces p f val is).reg a = s.reg a := by
  induction is generalizing s with
  | nil => rfl
  | cons i is ih =>
    obtain ⟨hi, his⟩ := List.forall_mem_cons.1 h
    exact (ih his (s.setFld p f (val i) i)).trans (State.reg_setFld_other s p f (val i) i hi)

theorem State.setPlaces_fld (hf : f.lo ≤ f.hi ∧ f.hi < 32) (hstep : 0 < f.stride) {is : List Nat} (hnodup : is.Nodup) {i : Nat} (hi : i ∈ is) (s : State) :
    (s.setPlaces p f val is).fld p f i = val i % 2 ^ (f.hi + 1 - f.lo) := by
  have haddr {k j : Nat} (h : k ≠ j) : fieldAddr p f k ≠ fieldAddr p f j := by
    refine fun he => h (Nat.eq_of_mul_eq_mul_right hstep ?_)
    simp only [fieldAddr, Page.reg] at he
    omega
  induction is generalizing s with
  | nil => exact absurd hi List.not_mem_nil
  | cons j is ih =>
    obtain ⟨hj, hnodup⟩ := List.nodup_cons.1 hnodup
    rcases List.mem_cons.1 hi with rfl | hi
    · have hkept := State.setPlaces_reg (p := p) (f := f) (val := val) (a := fieldAddr p f i) (is := is)
        (fun k hk => haddr (by rintro rfl; exact hj hk)) (s.setFld p f (val i) i)
      exact (congrArg (getField · f.hi f.lo) hkept).trans (State.fld_setFld s p f (val i) i hf.1 hf.2)
    · exact ih hnodup hi _

end

section
variable {m : Master} {v : Word} {s : State}

theorem almIndex_effect (ha : s.accepts m (sqPage .almanac) 0x04C = true) :
    ∃ t, exec (.almIndex m v) s = .next t ∧ t.fld (sqPage .almanac) almIndex_entry = v.toNat % 2048
      ∧ ∀ i, i < 8 → t.fld (sqPage .almanac) almData_data i = almRecord (s.almEntry (v.toNat % 2048)) / 2 ^ (32 * i) % 2 ^ 32 := by
  have hw := landed_low m (sqPage .almanac) (show 0x04C < 0x400 by decide) v
  have hfields : PageType.almanac.fieldsAt 0x04C = [almIndex_entry] := by decide
  have hplain : (landed m (sqPage .almanac) 0x04C v).plain = true := by
    rw [hw]
    exact BusWr.plain_of_fields (show PageType.almanac ≠ .cue by decide) hfields rfl rfl
  obtain ⟨u, hu, hexec⟩ := exec_of_square (c := .almIndex m v) (t := .almanac) (n := 5) rfl rfl (by decide) ha hplain
  generalize s.guardMatches _ = armed at hexec
  rw [hw] at hexec
  let w : BusWr := ⟨m, sqPage .almanac, 0x04C, .direct, 0x04C, v⟩
  have hmem : almIndex_entry ∈ w.kept := BusWr.mem_kept rfl (show almIndex_entry ∈ PageType.almanac.fieldsAt 0x04C by rw [hfields]; exact List.mem_cons_self) rfl
  have hentry : (w.written u armed).fld (sqPage .almanac) almIndex_entry = v.toNat % 2048 := by
    have hval : getField v 10 0 = v.toNat % 2048 := bitsOf_low _ _
    have hword := BusWr.getField_written (s := u) (armed := armed) hmem
    rw [BusWr.field_direct rfl rfl (.inl rfl) (by decide) rfl rfl] at hword
    refine Eq.trans hword ((if_pos ⟨Nat.zero_le _, ?_⟩).trans hval)
    show getField v 10 0 ≤ 2047
    rw [hval]
    omega
  have hsame : State.SameBut [.guards, .regs] s (w.written u armed) := (hu.mono (by decide)).trans ((w.written_same u armed).mono (by decide))
  have hact (y : State) (c c' : Nat) : (y.squareAct w armed c).unitAct u w armed c'
      = y.setPlaces (sqPage .almanac) almData_data (fun i => almRecord (y.almEntry (y.fld (sqPage .almanac) almIndex_entry)) / 2 ^ (32 * i) % 2 ^ 32)
        (numsFrom 0 8) := rfl
  have hexec := hexec.trans (congrArg Host.Outcome.next (hact (w.written u armed) _ _))
  generalize w.written u armed = b at hentry hsame hexec
  have halm : b.almEntry (v.toNat % 2048) = s.almEntry (v.toNat % 2048) := by rw [State.almEntry, hsame.alm (by decide), State.almEntry]
  rw [hentry, halm] at hexec
  refine ⟨_, hexec, ?_, fun i hi => ?_⟩
  · exact (congrArg (getField · 10 0) (State.setPlaces_reg (fun i _ => by simp [fieldAddr, Page.reg, almIndex_entry, almData_data]; omega) b)).trans hentry
  · exact (State.setPlaces_fld (by decide) (by decide) (by decide) (mem_numsFrom.2 ⟨Nat.zero_le _, by omega⟩) b).trans (Nat.mod_mod _ _)

theorem almCtrlWrite_effect (ha : s.accepts m (sqPage .almanac) 0x044 = true) (harmed : s.guardMatches (landed m (sqPage .almanac) 0x044 v) = true)
    (hfree : s.guaranteed = false) (hv : v.toNat % 1024 ≤ 500) :
    ∃ t, exec (.almCtrlWrite m v) s = .next t ∧ t.fld (sqPage .almanac) almCtrl_margin = v.toNat % 1024
      ∧ HeardBut ((sqPage .almanac).reg 0x044) s t := by
  have hw := landed_low m (sqPage .almanac) (show 0x044 < 0x400 by decide) v
  have hfields : PageType.almanac.fieldsAt 0x044 = [almCtrl_margin] := by decide
  have hplain : (landed m (sqPage .almanac) 0x044 v).plain = true := by
    rw [hw]
    exact BusWr.plain_of_fields (show PageType.almanac ≠ .cue by decide) hfields rfl rfl
  obtain ⟨u, hu, hexec⟩ := exec_of_square (c := .almCtrlWrite m v) (t := .almanac) (n := 5) rfl rfl (by decide) ha hplain
  rw [harmed, hw] at hexec
  let w : BusWr := ⟨m, sqPage .almanac, 0x044, .direct, 0x044, v⟩
  have hmem : almCtrl_margin ∈ w.kept := BusWr.mem_kept rfl (show almCtrl_margin ∈ PageType.almanac.fieldsAt 0x044 by rw [hfields]; exact List.mem_cons_self) rfl
  have hval : getField v 9 0 = v.toNat % 1024 := bitsOf_low _ _
  have hstate : u.fieldKept (sqPage .almanac) almCtrl_margin = false := by
    show (false || true && u.guaranteed || false || false) = false
    rw [State.guaranteed_of_guards hu, hfree]
    rfl
  have hword := BusWr.getField_written (s := u) (armed := true) hmem
  rw [BusWr.field_direct rfl rfl (.inr (.inl ⟨rfl, rfl⟩)) (by decide) hstate rfl] at hword
  have hmargin : (w.written u true).fld (sqPage .almanac) almCtrl_margin = v.toNat % 1024 := by
    refine Eq.trans hword ((if_pos ⟨Nat.zero_le _, ?_⟩).trans hval)
    show getField v 9 0 ≤ 500
    rw [hval]
    exact hv
  exact ⟨w.written u true, hexec, hmargin, (hu.mono (by decide)).trans ((w.written_same u true).mono (by decide)),
    fun y hy => (w.reg_written_other u true hy).trans (hu.reg (by decide) y)⟩

end

/-! ### Writes of the CUE page (O14: R360 to R363, R366) -/

/-- The change by which a unit clears an entry. -/
def cueCleared (e : Nat) : CueChange := ⟨e, false, 127, 0⟩

theorem numsFrom_nodup (a n : Nat) : (numsFrom a n).Nodup := by
  induction n generalizing a with
  | zero => exact List.nodup_nil
  | succ n ih => exact List.nodup_cons.2 ⟨fun h => by have := (mem_numsFrom.1 h).1; omega, ih (a + 1)⟩

namespace State

variable {s : State}

/-- A change that must wait: tSEP has not passed, or another change of its entry waits already. -/
def cueWaits (s : State) (e : Nat) : Prop := s.now < s.cueDue e ∨ (s.cue.deferred.any fun x => x.entry == e) = true

theorem cueChange_of_waits {c : CueChange} (h : s.cueWaits c.entry) :
    s.cueChange c = s.withCue { s.cue with deferred := s.cue.deferred ++ [c] } := by
  rw [cueChange, if_pos (by simpa [cueWaits] using h)]

theorem cueChange_of_not_waits {c : CueChange} (h : ¬ s.cueWaits c.entry) :
    s.cueChange c = s.cueApply c.entry (c.on (s.cueEntry c.entry)) := by
  rw [cueChange, if_neg (by simpa [cueWaits] using h)]

theorem cueApply_cueEntry_other (s : State) {e k : Nat} (v : Nat) (h : k ≠ e) : (s.cueApply e v).cueEntry k = s.cueEntry k := by
  rw [cueEntry, cueApply_cue]
  exact SMap.get_set_other 0 s.cue.table v h

theorem cueApply_owner (s : State) (e v : Nat) : (s.cueApply e v).cue.owner = s.cue.owner := by rw [cueApply_cue]

theorem cueApply_deferred (s : State) (e v : Nat) : (s.cueApply e v).cue.deferred = s.cue.deferred := by rw [cueApply_cue]

theorem cueCleared_on (e v : Nat) : (cueCleared e).on v = 0 := by
  simp [CueChange.on, cueCleared]

/-- A unit clears an entry, at once or later: no other entry changes, no owner, and no change that waits is lost. -/
theorem cueUpdate_clear (s : State) (e : Nat) :
    ((s.cueUpdate e .clear).cueEntry e = 0 ∨ (s.cueUpdate e .clear).cueEntry e = s.cueEntry e ∧ cueCleared e ∈ (s.cueUpdate e .clear).cue.deferred)
    ∧ (∀ k, k ≠ e → (s.cueUpdate e .clear).cueEntry k = s.cueEntry k) ∧ (s.cueUpdate e .clear).cue.owner = s.cue.owner
    ∧ ∀ c ∈ s.cue.deferred, c ∈ (s.cueUpdate e .clear).cue.deferred := by
  have hupdate : s.cueUpdate e .clear = s.cueChange (cueCleared e) := rfl
  rw [hupdate]
  by_cases h : s.cueWaits (cueCleared e).entry
  · rw [cueChange_of_waits h]
    exact ⟨.inr ⟨rfl, List.mem_append_right _ (List.mem_singleton.2 rfl)⟩, fun k _ => rfl, rfl, fun c hc => List.mem_append_left _ hc⟩
  · rw [cueChange_of_not_waits h, cueCleared_on, cueApply_owner, cueApply_deferred]
    exact ⟨.inl (cueApply_cueEntry s e 0), fun k hk => cueApply_cueEntry_other s 0 hk, rfl, fun c hc => hc⟩

/-- Entries are cleared, one after another. -/
theorem cueClear_effect {es : List Nat} (hnodup : es.Nodup) (s : State) :
    (∀ e ∈ es, (cueClear es s).cueEntry e = 0 ∨ (cueClear es s).cueEntry e = s.cueEntry e ∧ cueCleared e ∈ (cueClear es s).cue.deferred)
    ∧ (∀ k, k ∉ es → (cueClear es s).cueEntry k = s.cueEntry k) ∧ (cueClear es s).cue.owner = s.cue.owner
    ∧ ∀ c ∈ s.cue.deferred, c ∈ (cueClear es s).cue.deferred := by
  induction es generalizing s with
  | nil => exact ⟨fun e he => absurd he List.not_mem_nil, fun k _ => rfl, rfl, fun c hc => hc⟩
  | cons e es ih =>
    obtain ⟨he, hnodup⟩ := List.nodup_cons.1 hnodup
    obtain ⟨hone, hother, howner, hwait⟩ := s.cueUpdate_clear e
    obtain ⟨hall, hothers, howners, hwaits⟩ := ih hnodup (s.cueUpdate e .clear)
    rw [cueClear]
    refine ⟨fun k hk => ?_, fun k hk => ?_, howners.trans howner, fun c hc => hwaits c (hwait c hc)⟩
    · by_cases hke : k = e
      · rw [hke, hothers e he]
        exact hone.imp_right fun ⟨hkept, hin⟩ => ⟨hkept, hwaits _ hin⟩
      · rw [← hother k hke]
        exact hall k ((List.mem_cons.1 hk).resolve_left hke)
    · obtain ⟨hke, hkes⟩ := (not_or.1 (mt List.mem_cons.2 hk))
      exact (hothers k hkes).trans (hother k hke)

end State

/-- A direct write of the CUE page. -/
def cueWr (m : Master) (x : Nat) (v : Word) : BusWr := ⟨m, sqPage .cue, x, .direct, x, v⟩

/-- The word that a write of the CUE page leaves, of the register as its master reads it. -/
def cueWord (m : Master) (x : Nat) (v : Word) (u : State) (armed : Bool) : Word :=
  (cueWr m x v).merge u armed (u.regNow m (sqPage .cue) x) (PageType.cue.fieldsAt x)

theorem cue_not_ring : ¬ PageType.cue = .ring := by decide

/-- Registers of the CUE page past CUE_CTRL store nothing of themselves: the write acts. -/
theorem applyWrite_of_cue {m : Master} {x : Nat} {v : Word} {u : State} {armed : Bool} (hx : 0x048 ≤ x) :
    u.applyWrite (cueWr m x v) armed = u.squareAct (cueWr m x v) armed (cueWord m x v u armed).toNat := by
  have hfree : (PageType.cue.fieldsAt x).any (watchmanOnly (sqPage .cue)) = false := by
    have hall : (PageType.cue.fields.all fun f => !watchmanOnly (sqPage .cue) f) = true := by decide +kernel
    rw [List.any_eq_false]
    intro g hg
    simpa using List.all_eq_true.1 hall g (List.mem_of_mem_filter hg)
  have hne (k : Nat) (hk : k < 0x048) : (x == k) = false := beq_eq_false_iff_ne.2 (by omega)
  have hcommon (y : State) : y.commonAct (cueWr m x v) = y := by
    unfold State.commonAct
    split
    case h_1 e => exact absurd (show x = 0x024 from e) (by omega)
    case h_2 e => exact absurd (show x = 0x030 from e) (by omega)
    case h_3 => rfl
  unfold State.applyWrite
  extract_lets fs old u' c stored s1 s2 s3
  have hu : u' = u := if_neg (by
    show ¬ (m != .watchman && (PageType.cue.fieldsAt x).any (watchmanOnly (sqPage .cue))) = true
    rw [hfree, Bool.and_false]
    decide)
  have h1 : s1 = u := by
    have h44 : (x != 0x044) = true := by simp [bne, hne 0x044 (by decide)]
    have h40 : decide (0x040 ≤ x) = true := by simp; omega
    have : (fs.isEmpty || ((cueWr m x v).p.type == .cue && (cueWr m x v).x != 0x044 && decide (0x040 ≤ (cueWr m x v).x))) = true := by
      show (_ || (true && (x != 0x044) && decide (0x040 ≤ x))) = true
      rw [h44, h40]
      simp
    simp only [s1]
    rw [if_pos this, hu]
  have h2 : s2 = u := by
    simp only [s2, h1]
    rw [if_neg (show ¬ (cueWr m x v).p.type = .ring from cue_not_ring), hcommon]
  have hc : c = cueWord m x v u armed := by
    simp only [c, hu]
    rfl
  have hattn : ((cueWr m x v).p.type != .ring && [0x014, 0x018, 0x01C].contains (cueWr m x v).x) = false := by
    show (true && (x == 0x014 || (x == 0x018 || (x == 0x01C || false)))) = false
    rw [hne _ (by decide), hne _ (by decide), hne _ (by decide)]
    rfl
  rw [if_neg (by rw [hattn]; decide)]
  simp only [s3, h2, hu, hc]
  rfl

theorem exec_of_cue {c : Instr} {m : Master} {x : Nat} {v : Word} {s : State} (hc : busOf c = some (m, (sqPage .cue).reg x, v))
    (hx : 0x048 ≤ x ∧ x < 0x400) (ha : s.accepts m (sqPage .cue) x = true) :
    ∃ u, State.SameBut [.guards] s u ∧ exec c s = .next (u.squareAct (cueWr m x v) (s.guardMatches (landed m (sqPage .cue) x v))
      (cueWord m x v u (s.guardMatches (landed m (sqPage .cue) x v))).toNat) := by
  have hw : landed m (sqPage .cue) x v = cueWr m x v := landed_low m _ hx.2 v
  have hexec := registerWritesTakeEffect c m _ _ v _ s hc (resolve_square m (t := .cue) (n := 6) rfl (by omega)) ha
  dsimp only at hexec
  rw [hw, if_neg (show ¬ (sqPage .cue).type = .ring from cue_not_ring)] at hexec
  rw [hw]
  exact ⟨_, State.withGuards_same (.refl _ s) (List.Subset.refl _), hexec.trans (congrArg Host.Outcome.next (applyWrite_of_cue hx.1))⟩

section
variable {m : Master} {v : Word} {s : State}

theorem cueDataWrite_effect (ha : s.accepts m (sqPage .cue) 0x04C = true) :
    let e := s.cueIndex m
    let waits := s.now < s.cueDue e ∨ (s.cue.deferred.any fun x => x.entry == e) = true
    ∃ t, exec (.cueDataWrite m v) s = .next t
      ∧ (s.cueReach m e = false → Heard s t)
      ∧ (s.cueReach m e = true → ¬ waits → t.cueEntry e = v.toNat % 128 ∧ (∀ k, k ≠ e → t.cueEntry k = s.cueEntry k)
        ∧ t.fld (sqPage .cue) updateCount_count = (s.fld (sqPage .cue) updateCount_count + 1) % 2 ^ 32
        ∧ t.fld (sqPage .cue) cue_evtRaw_updated = 1)
      ∧ (s.cueReach m e = true → waits → t.cue = { s.cue with deferred := s.cue.deferred ++ [⟨e, true, 127, v.toNat % 128⟩] }) := by
  intro e waits
  obtain ⟨u, hu, hexec⟩ := exec_of_cue (c := .cueDataWrite m v) rfl (by decide) ha
  have hact (armed : Bool) (n : Nat) : u.squareAct (cueWr m 0x04C v) armed n = u.cueDataWrite m 0x7F (v.toNat % 128) := rfl
  rw [hact] at hexec
  have hcue : u.cue = s.cue := hu.cue (by decide)
  have hindex : u.cueIndex m = e := by rw [State.cueIndex, hcue]; rfl
  have hreach : u.cueReach m e = s.cueReach m e := by simp only [State.cueReach, State.cueOwner, hcue]
  have hentry (k : Nat) : u.cueEntry k = s.cueEntry k := by rw [State.cueEntry, hcue, State.cueEntry]
  have hwaits : u.cueWaits e ↔ waits := by
    simp only [State.cueWaits, State.cueDue, hcue, hu.now (by decide), waits]
  have hwrite : u.cueDataWrite m 0x7F (v.toNat % 128) = if s.cueReach m e then u.cueChange ⟨e, true, 127, v.toNat % 128⟩ else u := by
    rw [State.cueDataWrite, hindex, hreach, Nat.mod_mod]
    cases s.cueReach m e <;> rfl
  have hnew (old : Nat) : (⟨e, true, 127, v.toNat % 128⟩ : CueChange).on old = v.toNat % 128 := by
    have hand : (v.toNat % 128) &&& 127 = v.toNat % 128 := by
      rw [show 127 = 2 ^ 7 - 1 from rfl, Nat.and_two_pow_sub_one_eq_mod, Nat.mod_mod]
    simp [CueChange.on, hand]
  rw [hwrite] at hexec
  clear_value e
  refine ⟨_, hexec, fun hno => ?_, fun hyes hnow => ?_, fun hyes hwait => ?_⟩
  · rw [if_neg (by rw [hno]; decide)]
    exact ⟨hu.mono (by decide), hu.reg (by decide)⟩
  · rw [if_pos hyes, State.cueChange_of_not_waits (by rw [hwaits]; exact hnow), hnew]
    refine ⟨State.cueApply_cueEntry u e _, fun k hk => (State.cueApply_cueEntry_other u _ hk).trans (hentry k), ?_, ?_⟩
    · exact (State.cueApply_count u e _).trans (by rw [hu.fld (by decide)])
    · exact State.event_bit (by decide) (by decide) rfl (by decide)
  · rw [if_pos hyes, State.cueChange_of_waits (hwaits.2 hwait), ← hcue]
    rfl

/-- The word that an armed write hands to CUE_GROUP_OWNER. -/
theorem cueWord_groupOwner (u : State) : (cueWord m 0x054 v u true).toNat % 64 = v.toNat % 64 := by
  have hfields : PageType.cue.fieldsAt 0x054 = [cueGroupOwner_function, cueGroupOwner_assigned] := by decide
  have hvalue {f : FieldRow} (hf : f ∈ [cueGroupOwner_function, cueGroupOwner_assigned]) :
      getField (cueWord m 0x054 v u true) f.hi f.lo = getField v f.hi f.lo := by
    have hrow : (f.legalLo ≤ getField v f.hi f.lo ∧ getField v f.hi f.lo ≤ f.legalHi) ∧ f.acc = .rwg
        ∧ [dmaCtrl_vector, ringCtrl_vector, faultCtrl_vector, hbmMarginCtrl_offset, kvPool_pages].contains f = false
        ∧ u.fieldKept (sqPage .cue) f = false ∧ watchmanOnly (sqPage .cue) f = false := by
      have hfn : getField v 4 0 < 2 ^ 5 := getField_lt _ _ _
      have hset : getField v 5 5 < 2 ^ 1 := getField_lt _ _ _
      simp only [List.mem_cons, List.not_mem_nil, or_false] at hf
      rcases hf with rfl | rfl
      · exact ⟨⟨Nat.zero_le _, Nat.le_of_lt_succ hfn⟩, rfl, rfl, rfl, rfl⟩
      · exact ⟨⟨Nat.zero_le _, Nat.le_of_lt_succ hset⟩, rfl, rfl, rfl, rfl⟩
    obtain ⟨hlegal, hacc, hother, hstate, hmaster⟩ := hrow
    refine ((cueWr m 0x054 v).getField_merge u true _ (show f ∈ PageType.cue.fieldsAt 0x054 by rw [hfields]; exact hf)).trans ?_
    rw [BusWr.field_direct rfl rfl (.inr (.inl ⟨hacc, rfl⟩)) hother hstate hmaster]
    exact if_pos hlegal
  have hfn : (cueWord m 0x054 v u true).toNat % 32 = v.toNat % 32 :=
    (bitsOf_low _ 4).symm.trans ((hvalue (f := cueGroupOwner_function) (by simp)).trans (bitsOf_low _ 4))
  have hset : (cueWord m 0x054 v u true).toNat / 32 % 2 = v.toNat / 32 % 2 := hvalue (f := cueGroupOwner_assigned) (by simp)
  omega

theorem cueGroupOwner_effect (ha : s.accepts m (sqPage .cue) 0x054 = true) (harmed : s.guardMatches (landed m (sqPage .cue) 0x054 v) = true) :
    let g := s.cueGroup m
    ∃ t, exec (.cueGroupOwner m v) s = .next t
      ∧ (∀ e, e / 64 = g → t.cueOwner e = (if v.toNat.testBit 5 then some (v.toNat % 32) else none)
        ∧ (t.cueEntry e = 0 ∨ t.cueEntry e = s.cueEntry e ∧ ⟨e, false, 127, 0⟩ ∈ t.cue.deferred))
      ∧ ∀ e, e / 64 ≠ g → t.cueOwner e = s.cueOwner e ∧ t.cueEntry e = s.cueEntry e := by
  intro g
  obtain ⟨u, hu, hexec⟩ := exec_of_cue (c := .cueGroupOwner m v) rfl (by decide) ha
  have hact (n : Nat) : u.squareAct (cueWr m 0x054 v) true n = u.cueGroupWrite m (n % 64) :=
    show (if true = true then u.cueGroupWrite m (n % 64) else u) = _ from if_pos rfl
  rw [harmed, hact, cueWord_groupOwner] at hexec
  have hcue : u.cue = s.cue := hu.cue (by decide)
  have hgroup : u.cueGroup m = g := by rw [State.cueGroup, hcue]; rfl
  have hentry (k : Nat) : u.cueEntry k = s.cueEntry k := by rw [State.cueEntry, hcue, State.cueEntry]
  let b := u.withCue { u.cue with owner := SMap.set 0 g (v.toNat % 64) u.cue.owner }
  have hwrite : u.cueGroupWrite m (v.toNat % 64) = cueClear (numsFrom (64 * g) 64) b := by
    rw [State.cueGroupWrite, hgroup, Nat.mod_mod]
  have hmem (e : Nat) : e ∈ numsFrom (64 * g) 64 ↔ e / 64 = g := by rw [mem_numsFrom]; omega
  have hbOwner : b.cue.owner = SMap.set 0 g (v.toNat % 64) s.cue.owner := by rw [← hcue]; rfl
  have hbEntry (k : Nat) : b.cueEntry k = s.cueEntry k := hentry k
  obtain ⟨hcleared, hkept, howner, -⟩ := State.cueClear_effect (numsFrom_nodup (64 * g) 64) b
  rw [hwrite] at hexec
  clear_value b g
  generalize cueClear (numsFrom (64 * g) 64) b = t at hexec hcleared hkept howner
  refine ⟨t, hexec, fun e he => ⟨?_, ?_⟩, fun e he => ⟨?_, ?_⟩⟩
  · have hfive : bitOf (v.toNat % 64) 5 = v.toNat.testBit 5 := by
      rw [bitOf_eq_testBit, show 64 = 2 ^ 6 from rfl, Nat.testBit_mod_two_pow]
      simp
    rw [State.cueOwner, howner, hbOwner, he, SMap.get_set_same, hfive, show v.toNat % 64 % 32 = v.toNat % 32 by omega]
  · rw [← hbEntry e]
    exact hcleared e ((hmem e).2 he)
  · rw [State.cueOwner, howner, hbOwner, SMap.get_set_other _ _ _ he, State.cueOwner]
  · exact (hkept e (mt (hmem e).1 he)).trans (hbEntry e)

end

/-- Settles O14: the writes of the three pages, each by its register's rule. -/
theorem timingWritesAct : Obligations.TimingWritesAct := by
  unfold Obligations.TimingWritesAct
  exact ⟨fun m v s => ⟨merCtrlSourceWrite_effect, merRateWrite_effect, merSetLo_effect, merFrameNextLo_effect⟩,
    fun m v s => ⟨almIndex_effect, almCtrlWrite_effect⟩, fun m v s => ⟨cueDataWrite_effect, cueGroupOwner_effect⟩⟩

end Sys2Proof.Machine

namespace Sys2Proof.Machine

/-! ### RETRAIN (O15: R369, R370) -/

theorem resolve_port (m : Master) {d p x : Nat} (hok : portOk d p = true) (hx : x < 0x1000) :
    resolve m ((portPage d p).reg x) = some (portPage d p, x) := by
  simp only [portOk, Bool.and_eq_true, decide_eq_true_eq] at hok
  obtain ⟨hd, hp⟩ := hok
  have ha := portPage_reg d p x
  generalize (portPage d p).reg x = a at ha
  have hdie : (a - 0x1000000) / 0x400000 = d := by omega
  have hpage : (a - 0x1000000) % 0x400000 / 0x1000 = 0x1C0 + p := by omega
  have hoff : a % 0x1000 = x := by omega
  have hunit : croftPageAt d (0x1C0 + p) = some (portPage d p) := by
    simp only [croftPageAt]
    rw [if_neg (by omega), if_neg (by simp; omega), if_neg (by omega), if_neg (by omega), if_neg (by simp; omega), if_neg (by simp; omega),
      if_neg (by simp; omega), if_neg (by omega), if_pos (by simp; omega), Nat.add_sub_cancel_left]
  rw [resolve_dies m (by omega) (by omega), pageAt, if_neg (by omega), if_neg (by omega), if_pos (by omega), hpage, hdie, hoff, hunit]
  rfl

theorem fieldsAt_flCtrl : PageType.ferry.fieldsAt 0x044 = [flCtrl_enable, flCtrl_spare, flCtrl_channel, flCtrl_retrain] := by decide

/-- A set view that names none of a field's bits leaves the field. -/
theorem BusWr.field_set_zero {w : BusWr} {s : State} {armed : Bool} {f : FieldRow} {old : Nat} (hview : w.view = .set)
    (hacc : f.acc = .rw ∨ f.acc = .rwg) : w.field s armed f old 0 = old := by
  by_cases hk : w.merKept s armed = true
  · exact field_of_merKept hk
  by_cases hm : w.MayStore armed f
  · rw [field_mayStore (Bool.eq_false_iff.2 hk) hm, takes, hview]
    simp [viewed]
  · exact field_not_mayStore (hacc.imp_right .inl) hm

/-- A write of 1 to FL_CTRL.retrain stores nothing, and trains the port anew. -/
theorem exec_retrain {m : Master} {d p : Nat} {s : State} (hok : portOk d p = true) (ha : s.accepts m (portPage d p) 0x444 = true) :
    ∃ b, Heard s b ∧ exec (.retrain m d p) s = .next (b.retrain d p) := by
  let w : BusWr := ⟨m, portPage d p, 0x444, .set, 0x044, 16⟩
  have hw : landed m (portPage d p) 0x444 16 = w := rfl
  have hplain : (landed m (portPage d p) 0x444 16).plain = true := by
    rw [hw]
    exact BusWr.plain_of_fields (show PageType.ferry ≠ .cue by decide) fieldsAt_flCtrl rfl rfl
  obtain ⟨u, armed, hu, -, hexec⟩ := exec_of_plain (c := .retrain m d p) (if_pos hok) (resolve_port m hok (by decide)) ha hplain
  rw [hw] at hexec
  have hkept : w.kept = [flCtrl_enable, flCtrl_spare, flCtrl_channel] := by
    show (PageType.ferry.fieldsAt 0x044).filter _ = _
    rw [fieldsAt_flCtrl]
    rfl
  have hrow : ∀ f ∈ w.kept, (f.acc = .rw ∨ f.acc = .rwg) ∧ getField (16#32) f.hi f.lo = 0 := by
    rw [hkept]
    decide
  have hreg (a : Nat) : (w.written u armed).reg a = u.reg a := by
    have hword : w.merge u armed (u.reg (w.p.reg w.x)) w.kept = u.reg (w.p.reg w.x) := by
      refine setFields_readOnly (fun g hg => w.p.type.fieldsAt_fit w.x g (BusWr.kept_subset hg)) fun g hg => ?_
      obtain ⟨hacc, hzero⟩ := hrow g hg
      rw [show w.v = 16#32 from rfl, hzero]
      exact BusWr.field_set_zero rfl hacc
    rw [BusWr.written, hword, State.reg_setReg]
    split
    case isTrue h => rw [h]
    case isFalse => rfl
  have hb : Heard s (w.written u armed) :=
    ⟨(hu.mono (by decide)).trans ((w.written_same u armed).mono (by decide)), fun x => (hreg x).trans (hu.reg (by decide) x)⟩
  have hfld : (w.written u armed).fld (portPage d p) flCtrl_enable = u.fld (portPage d p) flCtrl_enable := fld_of_reg hreg _ _ _
  have hact : ((w.written u armed).squareAct w armed (w.word u armed).toNat).unitAct u w armed (w.word u armed).toNat
      = (w.written u armed).retrain d p := by
    show (if u.fld (portPage d p) flCtrl_enable = 1 && (w.written u armed).fld (portPage d p) flCtrl_enable = 0 then
        (w.written u armed).portDown d p
      else if (u.fld (portPage d p) flCtrl_enable = 0 && (w.written u armed).fld (portPage d p) flCtrl_enable = 1) || w.starts 4 then
        (w.written u armed).retrain d p else w.written u armed) = _
    rw [hfld, if_neg (by simp; omega), if_pos (by rw [show w.starts 4 = true from (by decide : (View.set != .clear && bitOf (16#32).toNat 4) = true)]; simp)]
  exact ⟨_, hb, hexec.trans (congrArg Host.Outcome.next hact)⟩

/-- A port that trains anew knows no neighbour and no round trip. -/
theorem State.trainPort_cleared (s : State) (d p : Nat) : (s.trainPort d p).fld (portPage d p) flNeighbour_valid = 0
    ∧ (s.trainPort d p).fld (portPage d p) flRtt_ns = 0 ∧ (s.trainPort d p).fld (portPage d p) flCtrl_retrain = 0 := by
  unfold State.trainPort
  generalize s.leaveUp d p 1 (s.port d p).fresh = u
  dsimp only
  have hother (v : State) {f g : FieldRow} (h : f.off ≠ g.off) : (v.setFld (portPage d p) g 0).fld (portPage d p) f = v.fld (portPage d p) f :=
    State.fld_setFld_far _ _ _ _ _ _ 0 0 (fieldAddr_port_ne h)
  have hzero (v : State) {g : FieldRow} (h : g.lo ≤ g.hi ∧ g.hi < 32) : (v.setFld (portPage d p) g 0).fld (portPage d p) g = 0 :=
    (State.fld_setFld v (portPage d p) g 0 0 h.1 h.2).trans (Nat.zero_mod _)
  refine ⟨?_, ?_, hzero _ (by decide)⟩
  · rw [hother _ (by decide), hother _ (by decide)]
    exact hzero _ (by decide)
  · rw [hother _ (by decide)]
    exact hzero _ (by decide)

theorem Heard.served_port {s b : State} (h : Heard s b) (d p : Nat) : b.served (portPage d p) = s.served (portPage d p) := by
  show (b.dieLive d && b.up) = (s.dieLive d && s.up)
  rw [h.dieLive, State.up, h.1.board (by decide), State.up]

theorem retrain_effect {m : Master} {d p : Nat} {s : State} (hok : portOk d p = true) (ha : s.accepts m (portPage d p) 0x444 = true) :
    (s.fld (portPage d p) flCtrl_enable = 1 → ∃ t, exec (.retrain m d p) s = .next t ∧ t.portState d p = 1
      ∧ (t.port d p).nextSeq = 0 ∧ (t.port d p).expect = 0 ∧ (t.port d p).replay = []
      ∧ t.fld (portPage d p) flNeighbour_valid = 0 ∧ t.fld (portPage d p) flRtt_ns = 0 ∧ t.fld (portPage d p) flCtrl_retrain = 0
      ∧ State.SameBut [.guards, .ferry, .regs, .out] s t)
    ∧ (s.fld (portPage d p) flCtrl_enable = 0 → ∃ t, exec (.retrain m d p) s = .next t
      ∧ t.fld (portPage d p) flCtrl_retrain = 1 ∧ HeardBut ((portPage d p).reg 0x044) s t) := by
  obtain ⟨b, hb, hexec⟩ := exec_retrain hok ha
  have hserved : b.served (portPage d p) = true := by
    simp only [State.accepts, State.hears, Bool.and_eq_true] at ha
    rw [hb.served_port]
    exact ha.1.2
  refine ⟨fun hen => ?_, fun hdis => ?_⟩
  · have hen : b.fld (portPage d p) flCtrl_enable = 1 := (hb.fld _ _).trans hen
    rw [State.retrain, if_pos (by simp [hok, hserved, hen])] at hexec
    obtain ⟨hstate, hseq, hexpect, hreplay, -⟩ := b.trainPort_effect d p
    obtain ⟨hvalid, hrtt, hretrain⟩ := b.trainPort_cleared d p
    exact ⟨_, hexec, hstate, hseq, hexpect, hreplay, hvalid, hrtt, hretrain,
      (hb.1.mono (by decide)).trans (State.trainPort_same (.refl _ b) (by decide))⟩
  · have hdis : b.fld (portPage d p) flCtrl_enable = 0 := (hb.fld _ _).trans hdis
    rw [State.retrain, if_neg (by simp [hdis]), if_pos hok] at hexec
    refine ⟨_, hexec, State.fld_setFld _ _ _ _ _ (by decide) (by decide), State.setFld_same hb.1 (by decide), fun y hy => ?_⟩
    exact (State.reg_setFld_other _ _ _ _ _ (by rw [fieldAddr_port]; rw [portPage_reg] at hy; exact hy)).trans (hb.2 y)

/-! ### ROUTE_CMD and FJ_CMD (O15: R381, R385) -/

theorem reg_wake (ks : List Nat) (s : State) {a : Nat} (ha : a < 0x3000000) : (wake ks s).reg a = s.reg a := by
  rw [wake_eq_foldl]
  induction ks generalizing s with
  | nil => rfl
  | cons k ks ih =>
    have haddr : 0x3000000 ≤ fieldAddr (stackPage .granary k) granaryStatus_selfRefresh 0 := by
      simp only [fieldAddr, Page.reg, Page.base, stackPage]
      omega
    rw [List.foldl_cons, ih, State.reg_setFld_other s _ _ _ _ (by omega)]

/-- A state that holds what another does, but for registers past the Square die's, for guards, and for the ports. -/
structure FerryKept (s t : State) : Prop where
  same : State.SameBut [.guards, .regs, .ferry] s t
  reg : ∀ a, a < 0x3000000 → t.reg a = s.reg a
  binds : t.ferry.binds = s.ferry.binds

namespace FerryKept

variable {s t : State}

theorem refl (s : State) : FerryKept s s := ⟨.refl _ s, fun _ _ => rfl, rfl⟩

theorem trans {u : State} (h : FerryKept s t) (k : FerryKept t u) : FerryKept s u :=
  ⟨h.same.trans k.same, fun a ha => (k.reg a ha).trans (h.reg a ha), k.binds.trans h.binds⟩

theorem of_heard (h : Heard s t) : FerryKept s t := ⟨h.1.mono (by decide), fun a _ => h.2 a, by rw [h.1.ferry (by decide)]⟩

theorem withFerry {f : Ferry} (h : FerryKept s t) (hf : f.binds = s.ferry.binds) : FerryKept s (t.withFerry f) :=
  ⟨State.withFerry_same h.same (by decide), h.reg, hf⟩

/-- What the loader reads of HBM without recorded errors brings stacks out of self-refresh, and nothing else. -/
theorem loaderRead (hclean : s.eccClean = true) (xs : List BitSpan) : FerryKept s (s.loaderRead xs) ∧ (s.loaderRead xs).ferry = s.ferry := by
  have hread : s.loaderRead xs = s.wakeSpans xs := by rw [State.loaderRead, State.eccRead, if_pos hclean]
  have hsame : State.SameBut [.regs] s (s.wakeSpans xs) := State.wakeSpans_same (.refl _ s) (List.Subset.refl _)
  have hferry : (s.wakeSpans xs).ferry = s.ferry := hsame.ferry (by decide)
  rw [hread]
  refine ⟨⟨hsame.mono (by decide), fun a ha => ?_, by rw [hferry]⟩, hferry⟩
  unfold State.wakeSpans
  split
  · rfl
  · exact reg_wake _ s ha

theorem fld (h : FerryKept s t) (f : FieldRow) (hf : f.off < 0x1000) : t.fld (sqPage .ferryPkg) f = s.fld (sqPage .ferryPkg) f := by
  refine congrArg (getField · f.hi f.lo) (h.reg _ ?_)
  show 0xA000 + (f.off + 0 * f.stride) < _
  omega

theorem translate (h : FerryKept s t) (f va : Nat) (wr : Bool) : t.translate f va wr = s.translate f va wr := by
  simp only [State.translate, State.mapping, h.same.fields (by decide)]

theorem mapped (h : FerryKept s t) (f va n : Nat) (wr : Bool) : t.mapped f va n wr = s.mapped f va n wr := by
  simp only [State.mapped, h.translate]

theorem vaBytes (h : FerryKept s t) (f va n : Nat) : t.vaBytes f va n = s.vaBytes f va n := by
  have hbyte (pa : Nat) : t.byteAt pa = s.byteAt pa := by
    simp only [State.byteAt, State.memMask, State.lostAt, State.stack, h.same.mem (by decide), h.same.margined (by decide), h.same.hbmStacks (by decide)]
    rfl
  simp only [State.vaBytes, funext fun a => show t.vaByte f a = s.vaByte f a by simp only [State.vaByte, h.translate, hbyte]]

theorem readRoutes (h : FerryKept s t) (va : Nat) : t.readRoutes va = s.readRoutes va := by simp only [State.readRoutes, h.vaBytes]

theorem ferryVa (h : FerryKept s t) (lo hi : FieldRow) (hlo : lo.off < 0x1000) (hhi : hi.off < 0x1000) : t.ferryVa lo hi = s.ferryVa lo hi := by
  simp only [State.ferryVa, h.fld lo hlo, h.fld hi hhi]

theorem job? (h : FerryKept s t) (n : Nat) : t.job? n = s.job? n := by simp only [State.job?, h.same.loader (by decide)]

theorem eccClean (h : FerryKept s t) : t.eccClean = s.eccClean := by simp only [State.eccClean, h.same.hbmStacks (by decide)]

theorem bindResult (h : FerryKept s t) : t.bindResult = s.bindResult := by
  simp only [State.bindResult, h.fld fjSysjob_sysjob (by decide), h.fld ferryNode_node (by decide), h.fld ferryNode_valid (by decide),
    h.fld fjJob_job (by decide), h.ferryVa fjMapLo_va fjMapHi_va (by decide) (by decide), h.job?, h.binds, h.mapped, h.vaBytes]

end FerryKept

/-- A command of the package's FERRY page stores nothing of itself. -/
theorem exec_of_ferryCmd {c : Instr} {m : Master} {x : Nat} {f : FieldRow} {v : Word} {s : State} (hc : busOf c = some (m, (sqPage .ferryPkg).reg x, v))
    (hx : 0x040 ≤ x ∧ x < 0x400) (hfields : PageType.ferryPkg.fieldsAt x = [f]) (hwo : f.acc = .wo)
    (hfree : watchmanOnly (sqPage .ferryPkg) f = false) (ha : s.accepts m (sqPage .ferryPkg) x = true) :
    ∃ u armed n, Heard s u ∧ exec c s = .next (u.squareAct ⟨m, sqPage .ferryPkg, x, .direct, x, v⟩ armed n) := by
  have hw := landed_low m (sqPage .ferryPkg) hx.2 v
  have hplain : (landed m (sqPage .ferryPkg) x v).plain = true := by
    rw [hw]
    refine BusWr.plain_of_fields (show PageType.ferryPkg ≠ .cue by decide) hfields (by simp [hfree]) ?_
    simp only [List.contains_cons, List.contains_nil, Bool.or_false, Bool.or_eq_false_iff, beq_eq_false_iff_ne]
    omega
  have hkept : ∀ g ∈ (landed m (sqPage .ferryPkg) x v).kept, g.acc = .ro ∨ g.acc = .wo ∨ g.acc = .rc := by
    rw [hw]
    intro g hg
    have hmem : g ∈ PageType.ferryPkg.fieldsAt x := BusWr.kept_subset hg
    rw [hfields, List.mem_singleton] at hmem
    exact .inr (.inl (hmem ▸ hwo))
  obtain ⟨u, b, armed, hu, hexec⟩ := exec_of_unstored hc (resolve_square m (t := .ferryPkg) (n := 10) rfl (by omega)) ha hplain hkept
  rw [hw] at hexec
  exact ⟨u, armed, _, hu, hexec⟩

/-- What a load of the route table is to end with. -/
def State.routeResult (s : State) : Nat × List (Nat × Nat × Nat) :=
  if s.ferry.binds ≠ [] then (1, [])
  else if s.mapped 0 (s.ferryVa routeVaLo_va routeVaHi_va) routeTableBytes false = false then (2, [])
  else if (s.readRoutes (s.ferryVa routeVaLo_va routeVaHi_va)).all (fun e => routeOk e.2.1 && routeOk e.2.2) then
    (0, s.readRoutes (s.ferryVa routeVaLo_va routeVaHi_va)) else (3, [])

theorem State.routeCmd_starts {s : State} (hclean : s.eccClean = true) (hidle : s.ferry.loading = none) :
    ∃ t, FerryKept s t ∧ t.ferry = s.ferry
      ∧ s.routeCmd 1 = (t.withFerry { t.ferry with loading := some s.routeResult }).setFld (sqPage .ferryPkg) routeStatus_busy 1 := by
  have hnone : s.ferry.loading.isSome = false := by rw [hidle]; rfl
  unfold State.routeCmd
  rw [if_neg (by rw [hnone]; decide), if_neg (by decide)]
  extract_lets va free t es r f
  have ht : FerryKept s t ∧ t.ferry = s.ferry := by
    simp only [t]
    split
    · exact FerryKept.loaderRead hclean _
    · exact ⟨.refl s, rfl⟩
  have hr : r = s.routeResult := by
    have hfree : (!free) = true ↔ s.ferry.binds ≠ [] := by simp [free]
    simp only [r, es, ht.1.mapped, ht.1.readRoutes, State.routeResult, hfree]
    simp only [va, Bool.not_eq_true', ite_not]
  refine ⟨t, ht.1, ht.2, ?_⟩
  rw [← hr]

theorem routeCmdLoad_effect {m : Master} {s : State} (ha : s.accepts m (sqPage .ferryPkg) 0x050 = true) (hclean : s.eccClean = true) :
    let va := s.ferryVa routeVaLo_va routeVaHi_va
    ∃ t, exec (.routeCmdLoad m) s = .next t
      ∧ (s.ferry.loading.isSome = true → t.ferry = s.ferry ∧ t.fld (sqPage .ferryPkg) routeStatus_overrun = 1)
      ∧ (s.ferry.loading = none → t.fld (sqPage .ferryPkg) routeStatus_busy = 1 ∧ t.ferry = { s.ferry with loading := some (
          if s.ferry.binds ≠ [] then (1, [])
          else if s.mapped 0 va routeTableBytes false = false then (2, [])
          else if (s.readRoutes va).all (fun e => routeOk e.2.1 && routeOk e.2.2) then (0, s.readRoutes va) else (3, [])) }) := by
  intro va
  obtain ⟨u, armed, n, hu, hexec⟩ := exec_of_ferryCmd (c := .routeCmdLoad m) rfl (by decide) (f := routeCmd_load) (by decide) rfl rfl ha
  have hact : u.squareAct ⟨m, sqPage .ferryPkg, 0x050, .direct, 0x050, 1⟩ armed n = u.routeCmd 1 := rfl
  rw [hact] at hexec
  have hkept := FerryKept.of_heard hu
  have hferry : u.ferry = s.ferry := hu.1.ferry (by decide)
  refine ⟨_, hexec, fun hbusy => ?_, fun hidle => ?_⟩
  · rw [State.routeCmd, if_pos (by rw [hferry]; exact hbusy)]
    exact ⟨(State.setFld_ferry u _ _ _ _).trans hferry, State.fld_setFld _ _ _ _ _ (by decide) (by decide)⟩
  · obtain ⟨t, -, ht, heq⟩ := State.routeCmd_starts (s := u) (hkept.eccClean.trans hclean) (by rw [hferry]; exact hidle)
    have hresult : u.routeResult = s.routeResult := by
      simp only [State.routeResult, hferry, hkept.mapped, hkept.readRoutes, hkept.ferryVa routeVaLo_va routeVaHi_va (by decide) (by decide)]
    rw [heq, hresult]
    refine ⟨State.fld_setFld _ _ _ _ _ (by decide) (by decide), (State.setFld_ferry _ _ _ _ _).trans ?_⟩
    rw [State.withFerry_ferry, ht, hferry]
    rfl

/-! BIND and UNBIND. -/

section
variable {s : State}

/-- The sysjob that a command of FJ_CMD names is bound. -/
def State.sysjobBound (s : State) : Bool := s.ferry.binds.any fun b => b.sysjob == s.fld (sqPage .ferryPkg) fjSysjob_sysjob

/-- The binds of the other sysjobs. -/
def State.otherBinds (s : State) : List Binding := s.ferry.binds.filter fun b => b.sysjob != s.fld (sqPage .ferryPkg) fjSysjob_sysjob

/-- The nodes of a job's package map. -/
def State.bindNodes (s : State) (j : Job) : List Nat :=
  (numsFrom 0 j.pkgs).map fun k => leAt (s.vaBytes j.f (s.ferryVa fjMapLo_va fjMapHi_va) (2 * j.pkgs)) (2 * k) 2

theorem State.bindResult_of_none (h : s.job? (s.fld (sqPage .ferryPkg) fjJob_job) = none) :
    s.bindResult = (if s.sysjobBound then 1 else 2, none) := by
  simp only [State.bindResult, h]
  show (if s.sysjobBound = true then ((1, none) : Nat × Option Binding) else (2, none)) = _
  cases s.sysjobBound <;> rfl

theorem State.bindResult_of_some {j : Job} (h : s.job? (s.fld (sqPage .ferryPkg) fjJob_job) = some j) : s.bindResult =
    if (s.ferry.binds.any fun b => b.sysjob == s.fld (sqPage .ferryPkg) fjSysjob_sysjob && b.job != j.handle) = true then (1, none)
    else if j.ranks ≤ 8 then (2, none)
    else if s.fld (sqPage .ferryPkg) ferryNode_valid = 0 then (3, none)
    else if s.mapped j.f (s.ferryVa fjMapLo_va fjMapHi_va) (2 * j.pkgs) false = false then (5, none)
    else if (s.bindNodes j).getD j.pkg 65536 = s.fld (sqPage .ferryPkg) ferryNode_node then
      (0, some ⟨s.fld (sqPage .ferryPkg) fjSysjob_sysjob, j.handle, s.bindNodes j⟩)
    else (3, none) := by
  simp only [State.bindResult, h, Bool.not_eq_true']
  rfl

/-- A result of BIND fits its field, and the bind it makes comes with result 0 alone. -/
theorem State.bindResult_code (s : State) : s.bindResult.1 < 8 ∧ (s.bindResult.1 ≠ 0 → s.bindResult.2 = none) := by
  cases hj : s.job? (s.fld (sqPage .ferryPkg) fjJob_job) with
  | none =>
    rw [State.bindResult_of_none hj]
    split <;> exact ⟨by decide, fun _ => rfl⟩
  | some j =>
    rw [State.bindResult_of_some hj]
    split
    · exact ⟨by decide, fun _ => rfl⟩
    split
    · exact ⟨by decide, fun _ => rfl⟩
    split
    · exact ⟨by decide, fun _ => rfl⟩
    split
    · exact ⟨by decide, fun _ => rfl⟩
    split
    · exact ⟨Nat.zero_lt_succ _, fun h => absurd rfl h⟩
    · exact ⟨by decide, fun _ => rfl⟩

/-- The bind that comes with result 0. -/
theorem State.bindResult_bind {j : Job} (h : s.job? (s.fld (sqPage .ferryPkg) fjJob_job) = some j) (hzero : s.bindResult.1 = 0) :
    s.bindResult.2 = some ⟨s.fld (sqPage .ferryPkg) fjSysjob_sysjob, j.handle, s.bindNodes j⟩ := by
  rw [State.bindResult_of_some h] at hzero ⊢
  split at hzero
  · cases hzero
  split at hzero
  · cases hzero
  split at hzero
  · cases hzero
  split at hzero
  · cases hzero
  split at hzero
  · next h1 h2 h3 h4 h5 => rw [if_neg h1, if_neg h2, if_neg h3, if_neg h4, if_pos h5]
  · cases hzero

/-- FJ_CMD while a command is in progress. -/
theorem State.fjCmd_busy {op : Nat} (h : s.now < s.ferry.fjUntil) : s.fjCmd op = s.setFld (sqPage .ferryPkg) fjStatus_overrun 1 := by
  rw [State.fjCmd, if_pos h]

/-- A command of FJ_CMD that is in progress. -/
def State.fjBusy (s : State) : State := s.withFerry { s.ferry with fjUntil := s.now + 100000 }

theorem State.fjCmd_unbind (h : s.ferry.fjUntil ≤ s.now) : s.fjCmd 2 =
    if s.sysjobBound then (s.fjBusy.withFerry { s.fjBusy.ferry with binds := s.otherBinds }).setFld (sqPage .ferryPkg) fjStatus_result 0
    else s.fjBusy.setFld (sqPage .ferryPkg) fjStatus_result 4 := by
  rw [State.fjCmd, if_neg (by omega), if_neg (by decide), if_neg (by decide), if_pos rfl]
  rfl

theorem State.fjCmd_bind (h : s.ferry.fjUntil ≤ s.now) : s.fjCmd 1 =
    match s.fjBusy.mapRead.bindResult.2 with
    | some b => (s.fjBusy.mapRead.setFld (sqPage .ferryPkg) fjStatus_result s.fjBusy.mapRead.bindResult.1).withFerry
        { (s.fjBusy.mapRead.setFld (sqPage .ferryPkg) fjStatus_result s.fjBusy.mapRead.bindResult.1).ferry with
          binds := ((s.fjBusy.mapRead.setFld (sqPage .ferryPkg) fjStatus_result s.fjBusy.mapRead.bindResult.1).ferry.binds.filter
            fun x => x.sysjob != s.fld (sqPage .ferryPkg) fjSysjob_sysjob) ++ [b] }
    | none => s.fjBusy.mapRead.setFld (sqPage .ferryPkg) fjStatus_result s.fjBusy.mapRead.bindResult.1 := by
  rw [State.fjCmd, if_neg (by omega), if_neg (by decide), if_pos rfl]
  rfl

theorem FerryKept.fjBusy (s : State) : FerryKept s s.fjBusy := (FerryKept.refl s).withFerry rfl

theorem FerryKept.mapRead (hclean : s.eccClean = true) : FerryKept s s.mapRead ∧ s.mapRead.ferry = s.ferry := by
  unfold State.mapRead
  extract_lets pg va
  split
  · split
    · exact FerryKept.loaderRead hclean _
    · exact ⟨.refl s, rfl⟩
  · exact ⟨.refl s, rfl⟩

theorem State.fjBusy_until (s : State) : s.fjBusy.ferry.fjUntil = s.now + 100000 := rfl

/-- A BIND that is taken: its result, and the bind that it makes in place of the sysjob's own. -/
theorem State.fjCmd_bind_effect (hclean : s.eccClean = true) (h : s.ferry.fjUntil ≤ s.now) :
    (s.fjCmd 1).ferry.fjUntil = s.now + 100000 ∧ (s.fjCmd 1).fld (sqPage .ferryPkg) fjStatus_result = s.bindResult.1
      ∧ (s.fjCmd 1).ferry.binds = match s.bindResult.2 with
        | some b => s.otherBinds ++ [b]
        | none => s.ferry.binds := by
  have hbusy := FerryKept.fjBusy s
  obtain ⟨hread, hferry⟩ := FerryKept.mapRead (s := s.fjBusy) (hbusy.eccClean.trans hclean)
  have hresult : s.fjBusy.mapRead.bindResult = s.bindResult := (hbusy.trans hread).bindResult
  have hbinds := (hbusy.trans hread).binds
  have huntil : s.fjBusy.mapRead.ferry.fjUntil = s.now + 100000 := by rw [hferry, s.fjBusy_until]
  rw [State.fjCmd_bind h, hresult]
  generalize s.fjBusy.mapRead = u at hbinds huntil
  have hset := State.setFld_ferry u (sqPage .ferryPkg) fjStatus_result s.bindResult.1 0
  have hcode : (u.setFld (sqPage .ferryPkg) fjStatus_result s.bindResult.1).fld (sqPage .ferryPkg) fjStatus_result = s.bindResult.1 :=
    (State.fld_setFld _ _ _ _ _ (by decide) (by decide)).trans (Nat.mod_eq_of_lt s.bindResult_code.1)
  generalize u.setFld (sqPage .ferryPkg) fjStatus_result s.bindResult.1 = t at hset hcode
  rw [← hset] at hbinds huntil
  cases s.bindResult.2 with
  | none => exact ⟨huntil, hcode, hbinds⟩
  | some b =>
    refine ⟨huntil, hcode, ?_⟩
    show (t.ferry.binds.filter fun x => x.sysjob != s.fld (sqPage .ferryPkg) fjSysjob_sysjob) ++ [b] = s.otherBinds ++ [b]
    rw [hbinds, State.otherBinds]

/-- An UNBIND that is taken. -/
theorem State.fjCmd_unbind_effect (h : s.ferry.fjUntil ≤ s.now) :
    (s.fjCmd 2).ferry.fjUntil = s.now + 100000 ∧ (s.fjCmd 2).ferry.binds = s.otherBinds
      ∧ (s.fjCmd 2).fld (sqPage .ferryPkg) fjStatus_result = if s.sysjobBound then 0 else 4 := by
  rw [State.fjCmd_unbind h]
  cases hb : s.sysjobBound
  · have hkept : s.otherBinds = s.ferry.binds := by
      refine List.filter_eq_self.2 fun b hin => ?_
      have := List.any_eq_false.1 hb b hin
      simpa using this
    rw [if_neg Bool.false_ne_true, State.setFld_ferry]
    exact ⟨s.fjBusy_until, hkept.symm, State.fld_setFld _ _ _ _ _ (by decide) (by decide)⟩
  · rw [if_pos rfl, State.setFld_ferry]
    exact ⟨s.fjBusy_until, rfl, State.fld_setFld _ _ _ _ _ (by decide) (by decide)⟩

end

/-- BIND and UNBIND are commands of FJ_CMD. -/
theorem exec_fj {m : Master} {s : State} (ha : s.accepts m (sqPage .ferryPkg) 0x068 = true) :
    ∃ u u', Heard s u ∧ Heard s u' ∧ exec (.bind m) s = .next (u.fjCmd 1) ∧ exec (.unbind m) s = .next (u'.fjCmd 2) := by
  obtain ⟨u, armed, n, hu, hexec⟩ := exec_of_ferryCmd (c := .bind m) rfl (by decide) (f := fjCmd_op) (by decide) rfl rfl ha
  obtain ⟨u', armed', n', hu', hexec'⟩ := exec_of_ferryCmd (c := .unbind m) rfl (by decide) (f := fjCmd_op) (by decide) rfl rfl ha
  exact ⟨u, u', hu, hu', hexec, hexec'⟩

theorem bind_effect {m : Master} {s : State} (ha : s.accepts m (sqPage .ferryPkg) 0x068 = true) (hclean : s.eccClean = true)
    (hidle : s.ferry.fjUntil ≤ s.now) : ∃ t, exec (.bind m) s = .next t ∧ t.ferry.fjUntil = s.now + 100000
      ∧ t.fld (sqPage .ferryPkg) fjStatus_result = s.bindResult.1
      ∧ t.ferry.binds = match s.bindResult.2 with
        | some b => s.otherBinds ++ [b]
        | none => s.ferry.binds := by
  obtain ⟨u, -, hu, -, hexec, -⟩ := exec_fj ha
  have hkept := FerryKept.of_heard hu
  have hferry : u.ferry = s.ferry := hu.1.ferry (by decide)
  have hnow : u.now = s.now := hu.1.now (by decide)
  have hothers : u.otherBinds = s.otherBinds := by rw [State.otherBinds, hferry, hkept.fld fjSysjob_sysjob (by decide), State.otherBinds]
  obtain ⟨huntil, hresult, hbinds⟩ := State.fjCmd_bind_effect (s := u) (hkept.eccClean.trans hclean) (by rw [hferry, hnow]; exact hidle)
  rw [hnow] at huntil
  rw [hkept.bindResult] at hresult hbinds
  rw [hothers, hferry] at hbinds
  exact ⟨_, hexec, huntil, hresult, hbinds⟩

theorem unbind_effect {m : Master} {s : State} (ha : s.accepts m (sqPage .ferryPkg) 0x068 = true)
    (hidle : s.ferry.fjUntil ≤ s.now) : ∃ t, exec (.unbind m) s = .next t ∧ t.ferry.fjUntil = s.now + 100000 ∧ t.ferry.binds = s.otherBinds
      ∧ t.fld (sqPage .ferryPkg) fjStatus_result = if s.sysjobBound then 0 else 4 := by
  obtain ⟨-, u, -, hu, -, hexec⟩ := exec_fj ha
  have hkept := FerryKept.of_heard hu
  have hferry : u.ferry = s.ferry := hu.1.ferry (by decide)
  have hnow : u.now = s.now := hu.1.now (by decide)
  have hothers : u.otherBinds = s.otherBinds := by rw [State.otherBinds, hferry, hkept.fld fjSysjob_sysjob (by decide), State.otherBinds]
  have hbound : u.sysjobBound = s.sysjobBound := by rw [State.sysjobBound, hferry, hkept.fld fjSysjob_sysjob (by decide), State.sysjobBound]
  obtain ⟨huntil, hbinds, hresult⟩ := State.fjCmd_unbind_effect (s := u) (by rw [hferry, hnow]; exact hidle)
  rw [hnow] at huntil
  rw [hothers] at hbinds
  rw [hbound] at hresult
  exact ⟨_, hexec, huntil, hbinds, hresult⟩

theorem fj_overrun {m : Master} {s : State} (ha : s.accepts m (sqPage .ferryPkg) 0x068 = true) (hbusy : s.now < s.ferry.fjUntil) :
    ∃ t u, exec (.bind m) s = .next t ∧ exec (.unbind m) s = .next u ∧ t.ferry = s.ferry ∧ u.ferry = s.ferry
      ∧ t.fld (sqPage .ferryPkg) fjStatus_overrun = 1 ∧ u.fld (sqPage .ferryPkg) fjStatus_overrun = 1 := by
  obtain ⟨u, u', hu, hu', hexec, hexec'⟩ := exec_fj ha
  have hoverrun {b : State} (hb : Heard s b) (op : Nat) : b.fjCmd op = b.setFld (sqPage .ferryPkg) fjStatus_overrun 1 :=
    State.fjCmd_busy (by rw [hb.1.ferry (by decide), hb.1.now (by decide)]; exact hbusy)
  rw [hoverrun hu] at hexec
  rw [hoverrun hu'] at hexec'
  refine ⟨_, _, hexec, hexec', ?_, ?_, State.fld_setFld _ _ _ _ _ (by decide) (by decide), State.fld_setFld _ _ _ _ _ (by decide) (by decide)⟩
  · rw [State.setFld_ferry, hu.1.ferry (by decide)]
  · rw [State.setFld_ferry, hu'.1.ferry (by decide)]

/-- Settles O15: RETRAIN by the port's training, ROUTE_CMD by what a load is to end with, and BIND and UNBIND by Table FERRY-8's
results (`bindResult_of_none`, `bindResult_of_some`). -/
theorem ferryWritesAct : Obligations.FerryWritesAct := by
  unfold Obligations.FerryWritesAct
  refine fun m d p s => ⟨retrain_effect, routeCmdLoad_effect, fun ha hclean => ?_⟩
  intro pg sj others
  refine ⟨fj_overrun ha, fun hidle => ⟨unbind_effect ha hidle, ?_⟩⟩
  obtain ⟨t, hexec, huntil, hresult, hbinds⟩ := bind_effect ha hclean hidle
  refine ⟨t, hexec, huntil, fun hne => ?_, fun hj => ?_, fun j hj => ⟨?_, fun hzero => ?_⟩⟩
  · rw [hbinds, s.bindResult_code.2 (hresult ▸ hne)]
  · rw [hresult, State.bindResult_of_none hj]
    rfl
  · rw [hresult, State.bindResult_of_some hj]
    simp only [apply_ite Prod.fst]
    rfl
  · rw [hbinds, State.bindResult_bind hj (hresult ▸ hzero)]
    rfl

end Sys2Proof.Machine

namespace Sys2Proof.Machine

/-! ### The COLD reset (O18: R409, R412, R447, R467, R468) -/

namespace State

variable {s : State}

/-- A boot tells on the board alone whether the package is held in RECOVERY. -/
def BoardBoots (s t : State) : Prop := ∃ r, t.board = { s.board with recovery := r }

theorem BoardBoots.refl (s : State) : BoardBoots s s := ⟨s.board.recovery, rfl⟩

theorem BoardBoots.trans {t u : State} (h : BoardBoots s t) (k : BoardBoots t u) : BoardBoots s u := by
  obtain ⟨r, ht⟩ := h
  obtain ⟨r', hu⟩ := k
  exact ⟨r', by rw [hu, ht]⟩

theorem BoardBoots.of_same {t : State} {w : List Part} (h : SameBut w s t) (hw : .board ∉ w) : BoardBoots s t :=
  ⟨s.board.recovery, h.board hw⟩

theorem bootComp_boots (s : State) (c : Nat) : BoardBoots s (s.bootComp c) := bootComp_board s c

theorem firmwareRun_boots (s : State) : BoardBoots s s.firmwareRun := by
  unfold firmwareRun
  extract_lets b o k
  have hbooted : BoardBoots s b := ((bootComp_boots s compSquare).trans (bootComp_boots _ compReeve)).trans (bootComp_boots _ compKeys)
  have howned : SameBut [.regs] b o := loadOwners_same (.refl _ b) (List.Subset.refl _)
  have hkeyed : SameBut [.regs] o k := same_ite (loadKeys_same (.refl _ o) (List.Subset.refl _)) (.refl _ o)
  clear_value k o b
  have hrepaired : SameBut [.regs, .ledger, .out] k (hardRepairs k.ledger.openRepairs k) := hardRepairs_same (.refl _ k) (List.Subset.refl _)
  exact ((hbooted.trans (.of_same howned (by decide))).trans (.of_same hkeyed (by decide))).trans (.of_same hrepaired (by decide))

/-- After the COLD sequence HBM trains, but in RECOVERY; the lands are as they were. -/
theorem coldRun_board (s : State) : ∃ r, s.coldRun.board = { s.board with recovery := r, training := !r } := by
  unfold coldRun
  generalize hf : (if s.wm.booted.getD compWatchman false = true then s.firmwareRun else s) = f
  have hboots : BoardBoots s f := by
    rw [← hf]
    split
    · exact s.firmwareRun_boots
    · exact .refl s
  obtain ⟨r, hr⟩ := hboots
  have hledger : (f.ledgerAdd 7 67 none 32 0 0 0 0 0).board = { s.board with recovery := r } := (ledgerAdd_board f 7 67 none 32 0 0 0 0 0).trans hr
  dsimp only
  generalize f.ledgerAdd 7 67 none 32 0 0 0 0 0 = l at hledger
  refine ⟨r, ?_⟩
  rw [withBoard_board, hledger]

theorem coldStart_coldBase (s : State) (regs : SMap Word) : ColdStart (s.coldBase regs) :=
  ⟨rfl, rfl, rfl, rfl, rfl, rfl, rfl, rfl, rfl, rfl, rfl, rfl, rfl, rfl⟩

/-- What a boot writes is none of what a COLD start empties. -/
theorem coldStart_of_boot {t : State} (h : SameBut [.board, .regs, .ledger, .wm, .out] s t) (hs : ColdStart s) : ColdStart t := by
  obtain ⟨hmem, hfields, hbells, halm, hloader, hlooms, hsieves, hgates, hpairs, hsram, hreeves, hflight, hferry, hfaults⟩ := hs
  exact ⟨(h.mem (by decide)).trans hmem, (h.fields (by decide)).trans hfields, (h.bells (by decide)).trans hbells, (h.alm (by decide)).trans halm,
    (h.loader (by decide)).trans hloader, (h.looms (by decide)).trans hlooms, (h.sieves (by decide)).trans hsieves,
    (h.gates (by decide)).trans hgates, (h.pairs (by decide)).trans hpairs, (h.sram (by decide)).trans hsram,
    (h.reeves (by decide)).trans hreeves, (h.flight (by decide)).trans hflight, (h.ferry (by decide)).trans hferry,
    (h.faults (by decide)).trans hfaults⟩

theorem coldStart_withBoard (hs : ColdStart s) (b : Board) : ColdStart (s.withBoard b) :=
  coldStart_of_boot (withBoard_same (.refl _ s) (by decide)) hs

theorem coldRun_same_boot (s : State) : SameBut [.board, .regs, .ledger, .wm, .out] s s.coldRun :=
  coldRun_same (.refl _ s) (List.Subset.refl _)

/-- The state that a COLD reset starts its sequence from. -/
def coldPrepared (s : State) : State :=
  let b := s.loseRepairs.coldBase (SMap.keep keepCold s.loseRepairs.regs)
  if b.wm.booted.getD compWatchman false then b.setWmState 0 else b.withBoard { b.board with recovery := true }

theorem coldReset_eq (s : State) : s.coldReset = s.coldPrepared.coldRun := rfl

theorem coldPrepared_effect (s : State) : ColdStart s.coldPrepared ∧ s.coldPrepared.board.mainOk = s.board.mainOk
    ∧ s.coldPrepared.fuses = s.fuses := by
  have hlose : SameBut [.regs, .hbmStacks] s s.loseRepairs := loseRepairs_same (.refl _ s) (by decide)
  unfold coldPrepared
  extract_lets b c
  have hb : ColdStart b := coldStart_coldBase _ _
  have hmain : b.board.mainOk = s.board.mainOk := congrArg (·.mainOk) (hlose.board (by decide))
  have hfuses : b.fuses = s.fuses := hlose.fuses (by decide)
  clear_value b
  split
  · have hset : SameBut [.board, .regs, .ledger, .wm, .out] b (b.setWmState 0) := setWmState_same (.refl _ b) (by decide)
    have hboard : (b.setWmState 0).board = b.board := (setWmState_same (.refl [.regs] b) (List.Subset.refl _)).board (by decide)
    exact ⟨coldStart_of_boot hset hb, by rw [hboard, hmain], (hset.fuses (by decide)).trans hfuses⟩
  · exact ⟨coldStart_withBoard hb _, hmain, hfuses⟩

theorem coldReset_effect (s : State) : ColdStart s.coldReset ∧ s.coldReset.board.mainOk = s.board.mainOk
    ∧ s.coldReset.board.training = !s.coldReset.board.recovery ∧ s.coldReset.fuses = s.fuses := by
  obtain ⟨hcold, hmain, hfuses⟩ := s.coldPrepared_effect
  rw [coldReset_eq]
  generalize s.coldPrepared = b at hcold hmain hfuses
  obtain ⟨r, hr⟩ := b.coldRun_board
  have hsame := b.coldRun_same_boot
  refine ⟨coldStart_of_boot hsame hcold, ?_, ?_, (hsame.fuses (by decide)).trans hfuses⟩
  · rw [hr, ← hmain]
  · rw [hr]

/-- The island as its rails return: at its reset values, and its Watchman booted. -/
def islandBooted (s : State) (a : Nat) : State :=
  let b := s.coldBase (SMap.keep keepSpare s.regs)
  (b.withBoard { b.board with wmAddr := a }).bootComp compWatchman

theorem islandBooted_effect (s : State) (a : Nat) : ColdStart (s.islandBooted a) ∧ (s.islandBooted a).board.island = true
    ∧ (s.islandBooted a).board.wmAddr = a ∧ (s.islandBooted a).fuses = s.fuses := by
  unfold islandBooted
  extract_lets b c
  have hb : ColdStart b := coldStart_coldBase _ _
  have hisland : b.board.island = true := rfl
  have hfuses : b.fuses = s.fuses := rfl
  clear_value b
  generalize hp : b.withBoard _ = p
  have hplaced : ColdStart p ∧ p.board.island = true ∧ p.board.wmAddr = a ∧ p.fuses = s.fuses := by
    rw [← hp]
    exact ⟨coldStart_withBoard hb _, hisland, rfl, hfuses⟩
  clear hp
  obtain ⟨hcold, hislandP, haddr, hfusesP⟩ := hplaced
  have hboot : SameBut [.board, .regs, .ledger, .wm, .out] p (p.bootComp compWatchman) := bootComp_same (.refl _ _) (List.Subset.refl _)
  obtain ⟨r, hr⟩ := bootComp_board p compWatchman
  exact ⟨coldStart_of_boot hboot hcold, by rw [hr]; exact hislandP, by rw [hr]; exact haddr, (hboot.fuses (by decide)).trans hfusesP⟩

end State

section
variable {s : State}

theorem exec_islandPowerOn (a : Nat) (h : s.board.island = false) : exec (.islandPowerOn a) s
    = .next (if (s.islandBooted a).board.mainOk then (s.islandBooted a).coldRun else s.islandBooted a) := by
  change execIslandPowerOn a s = _
  rw [execIslandPowerOn, if_neg (by rw [h]; decide)]
  rfl

theorem islandPowerOn_effect (a : Nat) (h : s.board.island = false) : ∃ t, exec (.islandPowerOn a) s = .next t ∧ ColdStart t
    ∧ t.board.island = true ∧ t.board.wmAddr = a ∧ t.fuses = s.fuses := by
  rw [exec_islandPowerOn a h]
  obtain ⟨hcold, hisland, haddr, hfuses⟩ := s.islandBooted_effect a
  generalize s.islandBooted a = b at hcold hisland haddr hfuses
  refine ⟨_, rfl, ?_⟩
  split
  · obtain ⟨r, hr⟩ := b.coldRun_board
    have hsame := b.coldRun_same_boot
    exact ⟨State.coldStart_of_boot hsame hcold, by rw [hr]; exact hisland, by rw [hr]; exact haddr, (hsame.fuses (by decide)).trans hfuses⟩
  · exact ⟨hcold, hisland, haddr, hfuses⟩

theorem exec_mainOkRise (hmain : s.board.mainOk = false) : exec .mainOkRise s = .next (
    if s.board.island = false then s.withBoard { s.board with mainOk := true }
    else if s.board.held = true then s.withBoard { s.board with mainOk := true, held := false, training := !s.board.recovery, upSince := s.now }
    else (s.withBoard { s.board with mainOk := true }).coldReset) := by
  change execMainOkRise s = _
  unfold execMainOkRise
  rw [if_neg (by rw [hmain]; decide)]
  dsimp only
  rw [State.withBoard_board]
  dsimp only
  cases s.board.island
  · rfl
  · cases s.board.held <;> rfl

theorem mainOkRise_cold (hisland : s.board.island = true) (hmain : s.board.mainOk = false) (hheld : s.board.held = false) :
    ∃ t, exec .mainOkRise s = .next t ∧ ColdStart t ∧ t.board.mainOk = true ∧ t.board.training = !t.board.recovery ∧ t.fuses = s.fuses := by
  rw [exec_mainOkRise hmain, if_neg (by rw [hisland]; decide), if_neg (by rw [hheld]; decide)]
  have hrise : (s.withBoard { s.board with mainOk := true }).board.mainOk = true := rfl
  have hfuses : (s.withBoard { s.board with mainOk := true }).fuses = s.fuses := rfl
  generalize s.withBoard { s.board with mainOk := true } = b at hrise hfuses
  obtain ⟨hcold, hmain', htraining, hfuses'⟩ := b.coldReset_effect
  exact ⟨_, rfl, hcold, hmain'.trans hrise, htraining, hfuses'.trans hfuses⟩

theorem supplyDroop_removed {rail : Nat} (hisland : s.board.island = true) (hmain : s.board.mainOk = false)
    (hrail : rail < 64 ∧ rail % 8 < 6 ∨ 64 ≤ rail ∧ rail < 68) :
    exec (.supplyDroop rail) s = .next (s.withBoard { s.board with held := false }) := by
  have hwatched : (if rail < 64 then decide (rail % 8 < 6) else decide (rail < 68)) = true := by
    split
    · exact decide_eq_true (by omega)
    · exact decide_eq_true (by omega)
  change execSupplyDroop rail s = _
  unfold execSupplyDroop
  dsimp only
  rw [hwatched, hisland, hmain]
  rfl

end

/-- Settles O18: a COLD reset empties its kinds of state (`coldStart_coldBase`), and no boot fills one of them (`coldStart_of_boot`). -/
theorem coldResetStartsFromNothing : Obligations.ColdResetStartsFromNothing := by
  unfold Obligations.ColdResetStartsFromNothing
  refine fun a s => ⟨islandPowerOn_effect a, mainOkRise_cold, fun hisland hmain d k hd hk => ?_, fun hisland hmain => ?_, fun hisland hmain hheld => ?_⟩
  · exact supplyDroop_removed hisland hmain (by omega)
  · rw [exec_mainOkRise hmain, if_pos hisland]
  · rw [exec_mainOkRise hmain, if_neg (by rw [hisland]; decide), if_pos hheld]

end Sys2Proof.Machine
